-- ==== Sys2Proof/Word.lean ====
section
/-!
DEFINITION. The words of the machine: 32-bit words, bytes, 512-bit vector registers and 16-bit error codes
(00_scope.md R7, R14; 05_pebble_cores.md R104).
-/

namespace Sys2Proof

/-- A 32-bit register or lane. -/
abbrev Word := BitVec 32

/-- A byte. -/
abbrev Byte := BitVec 8

/-- A 64-byte row, word of the vector plane, or vector register. -/
abbrev Row := BitVec 512

/-- An error code: class in [15:12], code in [11:0] (R14). -/
abbrev Code := BitVec 16

/-- A step number (R31). -/
abbrev StepNo := BitVec 48

end Sys2Proof
end

