-- ==== Sys2Proof/Syntax.lean ====
section
/-!
DEFINITION. The commands of the block, as syntax: the operand forms, then `Instr`, one constructor for each row of
spec/opcode_table.json. A pebble-core instruction carries the fields of its word (05_pebble_cores.md, Table 5.3),
reserved bits included, so that the illegal forms of R107 are terms too; a Tideline command carries its descriptor and
extension bytes (12_tideline_commands.md, R304); a packet carries its header fields; what the physical world decides
(a measured power, a found defect, a lane that passes) is an operand.
-/

namespace Sys2Proof

/-- A pebble core: physical cove index and core number (R4, R104). -/
structure CoreRef where
  cove : Fin 800
  core : Fin 16
  deriving DecidableEq, Repr

/-- Who makes a register access: a session (bay, slot), a pebble core, or Headland (R482, R486). -/
inductive Requester where
  | session (bay slot : Fin 16)
  | core (c : CoreRef)
  | headland
  deriving DecidableEq, Repr

/-- R format with the function code fixed by the row (Table 5.3); `res` is the reserved field [10:6]. -/
structure RFields where
  rd : BitVec 5
  ra : BitVec 5
  rb : BitVec 5
  res : BitVec 5
  deriving DecidableEq, Repr

/-- R format of the major opcodes 0x28 to 0x33, whose FN field is a field of the word. -/
structure RxFields where
  rd : BitVec 5
  ra : BitVec 5
  rb : BitVec 5
  res : BitVec 5
  fn : BitVec 6
  deriving DecidableEq, Repr

/-- I format (Table 5.3). -/
structure IFields where
  rd : BitVec 5
  ra : BitVec 5
  imm : BitVec 16
  deriving DecidableEq, Repr

/-- I format of SHI: `mid` is IMM[13:5], `sh` is IMM[4:0]; IMM[15:14] is fixed by the row (Table 5.5). -/
structure ShFields where
  rd : BitVec 5
  ra : BitVec 5
  mid : BitVec 9
  sh : BitVec 5
  deriving DecidableEq, Repr

/-- B format (Table 5.3). -/
structure BFields where
  ra : BitVec 5
  rb : BitVec 5
  off : BitVec 16
  deriving DecidableEq, Repr

/-- V format with the function code fixed by the row (Table 5.3). -/
structure VFields where
  vd : BitVec 3
  va : BitVec 3
  vb : BitVec 3
  rs : BitVec 5
  mod : BitVec 6
  deriving DecidableEq, Repr

/-- H format (Table 5.3). -/
structure HFields where
  rt : BitVec 5
  ra : BitVec 5
  hdl : BitVec 6
  sz : BitVec 2
  off8 : BitVec 8
  deriving DecidableEq, Repr

/-- C format (Table 5.3). -/
structure CFields where
  rd : BitVec 5
  ra : BitVec 5
  rb : BitVec 5
  q : BitVec 3
  m : Bool
  len : BitVec 7
  deriving DecidableEq, Repr

/-- A current-network packet: the header fields of Table 9.2 and the payload. `resv` says that a reserved field is not
zero; `bad` that a payload byte fails parity; `redirected` that it has been re-injected once (R236). -/
structure Packet where
  type : BitVec 4
  response : Bool
  dlx : Bool
  epoch : Bool
  ordered : Bool
  last : Bool
  bcast : Bool
  agent : Bool
  dstPhys : BitVec 10
  dstLog : Option (BitVec 10)
  srcPhys : BitVec 10
  srcAgent : Bool
  srcLog : Option (BitVec 10)
  deadline : BitVec 16
  injTime : BitVec 16
  bay : BitVec 4
  step : BitVec 2
  attempt : BitVec 2
  stepped : Bool
  tag : BitVec 12
  gen : BitVec 4
  addr : BitVec 48
  count : BitVec 16
  handle : Option (BitVec 6)
  payload : List (BitVec 8)
  resv : Bool
  bad : Bool
  redirected : Bool
  deriving DecidableEq, Repr

/-- A channel packet (Table 7.2) with the current-network packet that carries it; `resv` says that a reserved field of the channel
header is not zero, `data` holds the message from byte 0 up. -/
structure ChanPkt where
  kind : BitVec 4
  seq : Bool
  listed : Bool
  moving : Bool
  len : BitVec 7
  dst : BitVec 16
  src : BitVec 16
  srcEp : BitVec 32
  dstEp : BitVec 32
  data : BitVec 512
  resv : Bool
  hdr : Packet
  deriving DecidableEq, Repr

/-- What a read of an HBM codeword finds (R264, R265, R269): stored bits that are corrected, or beyond correction; check bits
that the re-encoder does not confirm; a talus map or granule map entry on the way that fails. -/
inductive Ecc where
  | corrected | failed | recode | talus | map
  deriving DecidableEq, Repr

/-- An interface of the current network: the LOCAL port of a cove, or an edge agent of Table 1.3. -/
inductive Iface where
  | cove (c : Fin 800)
  | stack (s : Fin 8)
  | mac (p : Fin 2)
  | jetty
  | headland
  | nvm
  deriving DecidableEq, Repr

/-- What a receiving interface counts a transfer by (R241). -/
structure TransferKey where
  src : BitVec 10
  tag : BitVec 12
  gen : BitVec 4
  deriving DecidableEq, Repr

/-- What of a received Ethernet frame the acceptance rules of R280 look at. -/
structure FrameHdr where
  srcMac : BitVec 48
  dstMac : BitVec 48
  vlan : Option (BitVec 12)
  length : Nat
  fcsOk : Bool
  deriving DecidableEq, Repr

/-- What a PTP message does to a port's clock (R292): the domain, whether it is a Sync of the port's master, the master's
quality under the best-master comparison (lower is better), whether the servo is now SLAVE, and the measured offset and
mean path delay in nanoseconds. -/
structure PtpMsg where
  hdr : FrameHdr
  domain : BitVec 8
  sync : Bool
  quality : Nat
  slave : Bool
  offset : Int
  delay : Nat
  freq : Int
  deriving DecidableEq, Repr

/-- A connection REQ (R282): transport service, path MTU, responder resources asked for, and the peer with its frame's header. -/
structure CmReq where
  rc : Bool
  mtu : Nat
  resources : Nat
  psn : BitVec 24
  hdr : FrameHdr
  peerIp : BitVec 128
  deriving DecidableEq, Repr

/-- What a request packet of an established connection carries in its base header (R284, R288), with the
Ethernet header of its frame (R280, R281). -/
structure Bth where
  qp : Fin 512
  psn : BitVec 24
  ackReq : Bool
  ce : Bool
  icrcOk : Bool
  hdr : FrameHdr
  deriving DecidableEq, Repr

/-- Another frame of a connection: a message of its communication management, a congestion notification (R280 to R282, R288). -/
structure ConnFrame where
  qp : Fin 512
  hdr : FrameHdr
  deriving DecidableEq, Repr

/-- The RDMA extended header: R_Key, virtual address and DMA length (R285). -/
structure Reth where
  rkey : BitVec 32
  va : BitVec 64
  len : BitVec 32
  deriving DecidableEq, Repr

/-- A Tideline command as the jetty parses it (R304): the connection, the SEND_TAG, the 64 descriptor bytes and the
extension bytes. -/
structure JCmd where
  qp : Fin 512
  tag : BitVec 32
  desc : List (BitVec 8)
  ext : List (BitVec 8)
  deriving DecidableEq, Repr

/-- Pebble cores that the eddy detector is run over (R449): those of a bay in its recovery window, or of a cove in test phase 3. -/
inductive EddySet where
  | bay (b : Fin 16)
  | cove (c : Fin 800)
  deriving DecidableEq, Repr

/-- A clock domain that sleeps (Table 15.4). -/
inductive Domain where
  | compute (cove : Fin 800)
  | half (h : Fin 2)
  | stack (s : Fin 8)
  | port (p : Fin 2)
  | network
  deriving DecidableEq, Repr

/-- What one control period attributes (R404, R408), in watts: the core rails' share, and each bay's (in bay order), with each bay's
attributed power while parked. The module's own average is the mean of its samples (R395). -/
structure PowerSample where
  coreW : Nat
  bayW : List Nat
  bayIdleW : List Nat
  deriving DecidableEq, Repr

/-- What starts the emergency glide (R410). -/
inductive GlideCause where
  | fastPower
  | meanPower
  | current
  | temperature
  deriving DecidableEq, Repr

/-- The rails of Table 16.2 whose phases are counted; `vhbm` for each of the stacks' supplies. -/
inductive Rail where
  | vcore (field : Fin 4)
  | vlink
  | vphy
  | vhbm (supply : Nat)
  deriving DecidableEq, Repr

/-- The input energy of one 10 µs update in µJ, attributed as in Table 16.5: module overhead, each bay's share that its
running items divide, and what Ethernet and jetty traffic adds to sessions (bay × 16 + slot). -/
structure EnergySample where
  overhead : Nat
  bays : List Nat
  sessions : List (Nat × Nat)
  deriving DecidableEq, Repr

/-- The energy counters of Table 16.6. -/
inductive EnergyCtr where
  | module
  | bay (b : Fin 16)
  | session (b s : Fin 16)
  deriving DecidableEq, Repr

/-- What stage S2 finds that the non-volatile contents do not say: whether the identity key was reconstructed (R464) and
its public key (57 bytes, R463), and the ROM's two root keys' identifiers are constants of Config. -/
structure S2Findings where
  pufOk : Bool
  pub : List (BitVec 8)
  deriving DecidableEq, Repr

/-- A slip of a seam path: the row, and the plane whose elastic buffer slipped, 3 for the combining lane (R208, R209). -/
structure SeamSlipped where
  row : Fin 20
  plane : BitVec 2
  deriving DecidableEq, Repr

/-- Parity that fails as an arbiter forwards a packet: the packet's header (R222), the routing table's entry, the entry of the logical
map by which the packet's injector found its destination (R235). -/
structure ForwardParity where
  headerBad : Bool
  tableBad : Bool
  mapBad : Bool
  deriving DecidableEq, Repr

/-- Hard repairs done in a maintenance window: talus entries by stack, way and slot, and soft repairs by stack, pseudo-channel and bank
(R271). -/
structure HardRepairs where
  freed : List (Fin 8 × Fin 4 × Fin 4096)
  soft : List (Fin 8 × Fin 32 × Fin 48)
  deriving DecidableEq, Repr

/-- The step that a COMMIT commits, and the offsets in the output area of held bytes that fail parity as the jetty reads them for release
(R46, R332). -/
structure CommitOf where
  step : BitVec 48
  bad : List (BitVec 32) := []
  deriving DecidableEq, Repr

/-- A READ Request: its extended header, and what the codewords it reads turn out to hold (R264, R265, R285). -/
structure ReadReth where
  reth : Reth
  ecc : List (Nat × Ecc)
  deriving DecidableEq, Repr

/-- The commands: one constructor for each row of spec/opcode_table.json, with the row's operands. -/
inductive Instr where
  /-- REGISTER_WRITE (R9): A write to a register that has no row of its own stores or ignores each field according to its access type. -/
  | registerWrite (who : Requester) (addr : BitVec 48) (value : BitVec 32)
  /-- STEP_BOUNDARY (R33): Once every used core has executed STEPEND and R92 holds, the bay reaches B(n) and applies the ordered boundary events of Table 2.1. -/
  | stepBoundary (bay : Fin 16)
  /-- STEP_START (R35): The next step of a bay starts once the run-ahead limits and any drain required by R36 allow it. -/
  | stepStart (bay : Fin 16)
  /-- COMMIT (R46): A combined commit message for step n makes its shadow granules committed and frees the granules they replace. -/
  | commit (bay : Fin 16) (n : CommitOf)
  /-- COMMIT_ACK (R47): An HBM controller acknowledges a commit, and once every controller holding shadows of the step has done so the jetty releases the step's held output. -/
  | commitAck (bay : Fin 16) (n : BitVec 48) (stack : Fin 8) (badOutput : List (BitVec 32))
  /-- ROLLBACK (R48): A failed step and every later uncommitted step of the bay are rolled back together and their effects undone per Table 2.2. -/
  | rollback (bay : Fin 16) (n : BitVec 48)
  /-- VOTE_DEADLINE (R45): When the combined vote of step n has not arrived by the latest commit point, the step is treated as failed. -/
  | voteDeadline (bay : Fin 16) (n : BitVec 48)
  /-- REPLAY_START (R49): A failed step is replayed from committed inputs, on the same coves first and after a slot move on the second replay. -/
  | replayStart (bay : Fin 16)
  /-- STEP_COMMIT_LO_READ (R58): A read of STEP_COMMIT_LO latches COMMIT_HI for the requester's next read of STEP_COMMIT_HI. -/
  | stepCommitLoRead (who : Requester) (bay : Fin 16)
  /-- BREAKER_ACCEPT (R87): The breaker array accepts, checks and numbers a descriptor issued by a core, or rejects it with a class 0x4 or 0x5 code. -/
  | breakerAccept (cove : Fin 800)
  /-- BREAKER_OP_START (R89): The operation at the queue head starts streaming once hazards under R88 and R91 and the accumulator sets allow. -/
  | breakerOpStart (cove : Fin 800) (lost : List (Fin 16)) (parity : Option (Fin 16 × Fin 2048))
  /-- BREAKER_OP_COMPLETE (R85): An operation writes its last output row, becomes the completion point and increments its core's completion count. -/
  | breakerOpComplete (cove : Fin 800) (upset : List (Nat × BitVec 32)) (convBad : Bool)
  /-- GOVERNOR_TICK (R99): Every 250 ns the breaker governor moves its level one step toward its target, running swell fill when idle. -/
  | governorTick (cove : Fin 800) (fillBad : Bool)
  /-- TOLERANCE_WRITE (R98): A write of a tolerance entry stores a valid FP32 value or is ignored with 0x4034. -/
  | toleranceWrite (who : Requester) (cove : Fin 800) (entry : Fin 16) (isAbs : Bool) (value : BitVec 32)
  /-- BRK_FILL_EN (R102): Writing BRK_CTRL.FILL_EN sets whether the governor drops to level 0 at once when work ends. -/
  | brkFillEn (who : Requester) (cove : Fin 800) (v : Bool)
  /-- BRK_INJ_CK (R102): Writing 1 to BRK_CTRL.INJ_CK corrupts the corner checksum of the next MATMUL so that it fails with 0x4021. -/
  | brkInjCk (who : Requester) (cove : Fin 800)
  /-- NOP_INSTRUCTION (R107): The NOP instruction does nothing. -/
  | nopInstruction (at_ : CoreRef) (w : RFields)
  /-- FENCE (R116): FENCE waits until the core's posted scratchpad stores are complete. -/
  | fence (at_ : CoreRef) (w : RFields)
  /-- STEPEND (R122): STEPEND posts the core's arrival at the bay's step barrier and stalls the core until the next step starts. -/
  | stepend (at_ : CoreRef) (w : RFields)
  /-- SINFO (R122): SINFO writes the step information chosen by its selector to a general register. -/
  | sinfo (at_ : CoreRef) (w : RFields)
  /-- TRAP (R132): TRAP halts the core when TRAP_EN is set and is a no-op otherwise. -/
  | trap (at_ : CoreRef) (w : RFields)
  /-- ADD (R109): ADD writes the wrapping sum of two registers. -/
  | add (at_ : CoreRef) (w : RFields)
  /-- SUB (R109): SUB writes the wrapping difference of two registers. -/
  | sub (at_ : CoreRef) (w : RFields)
  /-- AND (R109): AND writes the bitwise AND of two registers. -/
  | and (at_ : CoreRef) (w : RFields)
  /-- OR (R109): OR writes the bitwise OR of two registers. -/
  | or (at_ : CoreRef) (w : RFields)
  /-- XOR (R109): XOR writes the bitwise XOR of two registers. -/
  | xor (at_ : CoreRef) (w : RFields)
  /-- SLL (R109): SLL shifts a register left by the low five bits of another. -/
  | sll (at_ : CoreRef) (w : RFields)
  /-- SRL (R109): SRL shifts a register right logically. -/
  | srl (at_ : CoreRef) (w : RFields)
  /-- SRA (R109): SRA shifts a register right arithmetically. -/
  | sra (at_ : CoreRef) (w : RFields)
  /-- SLT (R109): SLT writes 1 when one register is less than another, signed. -/
  | slt (at_ : CoreRef) (w : RFields)
  /-- SLTU (R109): SLTU writes 1 when one register is less than another, unsigned. -/
  | sltu (at_ : CoreRef) (w : RFields)
  /-- MIN (R109): MIN writes the signed minimum of two registers. -/
  | min (at_ : CoreRef) (w : RFields)
  /-- MAX (R109): MAX writes the signed maximum of two registers. -/
  | max (at_ : CoreRef) (w : RFields)
  /-- MINU (R109): MINU writes the unsigned minimum of two registers. -/
  | minu (at_ : CoreRef) (w : RFields)
  /-- MAXU (R109): MAXU writes the unsigned maximum of two registers. -/
  | maxu (at_ : CoreRef) (w : RFields)
  /-- MUL (R109): MUL writes the low 32 bits of a product. -/
  | mul (at_ : CoreRef) (w : RFields)
  /-- MULH (R109): MULH writes the high 32 bits of the signed product. -/
  | mulh (at_ : CoreRef) (w : RFields)
  /-- MULHU (R109): MULHU writes the high 32 bits of the unsigned product. -/
  | mulhu (at_ : CoreRef) (w : RFields)
  /-- DIV (R109): DIV writes the signed truncating quotient, with defined results for zero and overflow. -/
  | div (at_ : CoreRef) (w : RFields)
  /-- DIVU (R109): DIVU writes the unsigned quotient. -/
  | divu (at_ : CoreRef) (w : RFields)
  /-- REM (R109): REM writes the signed remainder. -/
  | rem (at_ : CoreRef) (w : RFields)
  /-- REMU (R109): REMU writes the unsigned remainder. -/
  | remu (at_ : CoreRef) (w : RFields)
  /-- ADDI (R108): ADDI adds a sign-extended immediate to a register. -/
  | addi (at_ : CoreRef) (w : IFields)
  /-- ANDI (R108): ANDI ANDs a register with a zero-extended immediate. -/
  | andi (at_ : CoreRef) (w : IFields)
  /-- ORI (R108): ORI ORs a register with a zero-extended immediate. -/
  | ori (at_ : CoreRef) (w : IFields)
  /-- XORI (R108): XORI XORs a register with a zero-extended immediate. -/
  | xori (at_ : CoreRef) (w : IFields)
  /-- SLTI (R108): SLTI compares a register signed with a sign-extended immediate. -/
  | slti (at_ : CoreRef) (w : IFields)
  /-- SLTIU (R108): SLTIU compares a register unsigned with a sign-extended immediate. -/
  | sltiu (at_ : CoreRef) (w : IFields)
  /-- SLLI (R107): SHI with IMM[15:14] = 0b00 shifts a register left by an immediate amount. -/
  | slli (at_ : CoreRef) (w : ShFields)
  /-- SRLI (R107): SHI with IMM[15:14] = 0b01 shifts a register right logically by an immediate amount. -/
  | srli (at_ : CoreRef) (w : ShFields)
  /-- SRAI (R107): SHI with IMM[15:14] = 0b10 shifts a register right arithmetically by an immediate amount. -/
  | srai (at_ : CoreRef) (w : ShFields)
  /-- LUI (R108): LUI loads an immediate into the upper half of a register. -/
  | lui (at_ : CoreRef) (w : IFields)
  /-- LDW (R114): LDW loads a word from local data memory. -/
  | ldw (at_ : CoreRef) (w : IFields)
  /-- LDH (R114): LDH loads a sign-extended halfword from local data memory. -/
  | ldh (at_ : CoreRef) (w : IFields)
  /-- LDHU (R114): LDHU loads a zero-extended halfword from local data memory. -/
  | ldhu (at_ : CoreRef) (w : IFields)
  /-- LDB (R114): LDB loads a sign-extended byte from local data memory. -/
  | ldb (at_ : CoreRef) (w : IFields)
  /-- LDBU (R114): LDBU loads a zero-extended byte from local data memory. -/
  | ldbu (at_ : CoreRef) (w : IFields)
  /-- STW (R114): STW stores a word to local data memory. -/
  | stw (at_ : CoreRef) (w : IFields)
  /-- STH (R114): STH stores a halfword to local data memory. -/
  | sth (at_ : CoreRef) (w : IFields)
  /-- STB (R114): STB stores a byte to local data memory. -/
  | stb (at_ : CoreRef) (w : IFields)
  /-- VLD (R114): VLD loads 64 bytes of local data into a vector register. -/
  | vld (at_ : CoreRef) (w : IFields)
  /-- VST (R114): VST stores a vector register to 64 bytes of local data. -/
  | vst (at_ : CoreRef) (w : IFields)
  /-- BEQ (R106): BEQ branches when two registers are equal. -/
  | beq (at_ : CoreRef) (w : BFields)
  /-- BNE (R106): BNE branches when two registers differ. -/
  | bne (at_ : CoreRef) (w : BFields)
  /-- BLT (R106): BLT branches when one register is less than another, signed. -/
  | blt (at_ : CoreRef) (w : BFields)
  /-- BGE (R106): BGE branches when one register is at least another, signed. -/
  | bge (at_ : CoreRef) (w : BFields)
  /-- BLTU (R106): BLTU branches on unsigned less than. -/
  | bltu (at_ : CoreRef) (w : BFields)
  /-- BGEU (R106): BGEU branches on unsigned greater or equal. -/
  | bgeu (at_ : CoreRef) (w : BFields)
  /-- J (R108): J jumps to a PC-relative target. -/
  | j (at_ : CoreRef) (off : BitVec 26)
  /-- JAL (R108): JAL jumps to a PC-relative target and links in g31. -/
  | jal (at_ : CoreRef) (off : BitVec 26)
  /-- JALR (R108): JALR jumps to a register-relative target and links. -/
  | jalr (at_ : CoreRef) (w : IFields)
  /-- SPLD (R115): SPLD requests 8 bytes of scratchpad through a handle into a register pair. -/
  | spld (at_ : CoreRef) (w : HFields)
  /-- SPST (R115): SPST posts an 8-byte scratchpad store through a handle. -/
  | spst (at_ : CoreRef) (w : HFields)
  /-- VSPLD (R115): VSPLD requests 8 to 64 bytes of scratchpad into a vector register. -/
  | vspld (at_ : CoreRef) (w : HFields)
  /-- VSPST (R115): VSPST posts a store of 8 to 64 bytes of a vector register to scratchpad. -/
  | vspst (at_ : CoreRef) (w : HFields)
  /-- SCRATCHPAD_NARROW_GRANT (R145): A bank arbiter grants a waiting narrow request, performing the row access and returning load data after parity check. -/
  | scratchpadNarrowGrant (cove : Fin 800) (bank : Fin 16) (drain feed : Bool)
  /-- VADD_I32 (R110): VADD.I32 adds integer lanes. -/
  | vaddI32 (at_ : CoreRef) (w : VFields)
  /-- VSUB_I32 (R110): VSUB.I32 subtracts integer lanes. -/
  | vsubI32 (at_ : CoreRef) (w : VFields)
  /-- VAND (R110): VAND ANDs two vectors. -/
  | vand (at_ : CoreRef) (w : VFields)
  /-- VOR (R110): VOR ORs two vectors. -/
  | vor (at_ : CoreRef) (w : VFields)
  /-- VXOR (R110): VXOR XORs two vectors. -/
  | vxor (at_ : CoreRef) (w : VFields)
  /-- VMIN_I32 (R110): VMIN.I32 takes signed lane minima. -/
  | vminI32 (at_ : CoreRef) (w : VFields)
  /-- VMAX_I32 (R110): VMAX.I32 takes signed lane maxima. -/
  | vmaxI32 (at_ : CoreRef) (w : VFields)
  /-- VMUL_I32 (R110): VMUL.I32 multiplies lanes keeping the low 32 bits. -/
  | vmulI32 (at_ : CoreRef) (w : VFields)
  /-- VADD_F32 (R110): VADD.F32 adds FP32 lanes with one rounding. -/
  | vaddF32 (at_ : CoreRef) (w : VFields)
  /-- VSUB_F32 (R110): VSUB.F32 subtracts FP32 lanes. -/
  | vsubF32 (at_ : CoreRef) (w : VFields)
  /-- VMUL_F32 (R110): VMUL.F32 multiplies FP32 lanes. -/
  | vmulF32 (at_ : CoreRef) (w : VFields)
  /-- VFMA_F32 (R110): VFMA.F32 computes a fused multiply-add per FP32 lane. -/
  | vfmaF32 (at_ : CoreRef) (w : VFields)
  /-- VMAX_F32 (R110): VMAX.F32 takes FP32 lane maxima, NaN giving the canonical NaN. -/
  | vmaxF32 (at_ : CoreRef) (w : VFields)
  /-- VMIN_F32 (R110): VMIN.F32 takes FP32 lane minima. -/
  | vminF32 (at_ : CoreRef) (w : VFields)
  /-- VEXP2_F32 (R112): VEXP2.F32 computes 2^x per lane. -/
  | vexp2F32 (at_ : CoreRef) (w : VFields)
  /-- VRCP_F32 (R112): VRCP.F32 computes 1/x per lane. -/
  | vrcpF32 (at_ : CoreRef) (w : VFields)
  /-- VRSQ_F32 (R112): VRSQ.F32 computes 1/sqrt(x) per lane. -/
  | vrsqF32 (at_ : CoreRef) (w : VFields)
  /-- VADD_BF16 (R110): VADD.BF16 adds BF16 lanes. -/
  | vaddBf16 (at_ : CoreRef) (w : VFields)
  /-- VMUL_BF16 (R110): VMUL.BF16 multiplies BF16 lanes. -/
  | vmulBf16 (at_ : CoreRef) (w : VFields)
  /-- VREDSUM_F32 (R111): VREDSUM.F32 sums the 16 FP32 lanes in a fixed tree into a general register. -/
  | vredsumF32 (at_ : CoreRef) (w : VFields)
  /-- VREDMAX_F32 (R111): VREDMAX.F32 takes the maximum of the FP32 lanes. -/
  | vredmaxF32 (at_ : CoreRef) (w : VFields)
  /-- VREDSUM_I32 (R111): VREDSUM.I32 sums integer lanes with wrapping. -/
  | vredsumI32 (at_ : CoreRef) (w : VFields)
  /-- VREDMAX_I32 (R111): VREDMAX.I32 takes the signed maximum of integer lanes. -/
  | vredmaxI32 (at_ : CoreRef) (w : VFields)
  /-- VBCAST (R110): VBCAST copies a general register into every lane. -/
  | vbcast (at_ : CoreRef) (w : VFields)
  /-- VEXT (R110): VEXT extracts one lane into a general register. -/
  | vext (at_ : CoreRef) (w : VFields)
  /-- VINS (R110): VINS inserts a general register into one lane. -/
  | vins (at_ : CoreRef) (w : VFields)
  /-- VCOPY (R110): VCOPY copies a vector register. -/
  | vcopy (at_ : CoreRef) (w : VFields)
  /-- VF2BF (R110): VF2BF converts two FP32 vectors to one BF16 vector. -/
  | vf2bf (at_ : CoreRef) (w : VFields)
  /-- VBF2F_LO (R110): VBF2F.LO widens BF16 lanes 0-15 exactly to FP32. -/
  | vbf2fLo (at_ : CoreRef) (w : VFields)
  /-- VBF2F_HI (R110): VBF2F.HI widens BF16 lanes 16-31 exactly to FP32. -/
  | vbf2fHi (at_ : CoreRef) (w : VFields)
  /-- VF2I (R110): VF2I converts FP32 lanes to saturating INT32. -/
  | vf2i (at_ : CoreRef) (w : VFields)
  /-- VI2F (R110): VI2F converts INT32 lanes to FP32. -/
  | vi2f (at_ : CoreRef) (w : VFields)
  /-- VPACK (R113): VPACK converts 32 FP32 values into one block of a narrow format. -/
  | vpack (at_ : CoreRef) (w : VFields)
  /-- VUNPACK (R113): VUNPACK converts one narrow block into 32 FP32 values. -/
  | vunpack (at_ : CoreRef) (w : VFields)
  /-- BISSUE (R117): BISSUE presents a tile descriptor to the breaker array, stalling while its queue is full, and returns the sequence number. -/
  | bissue (at_ : CoreRef) (w : RxFields)
  /-- BWAIT (R117): BWAIT stalls until the array's completion point reaches a sequence number under the half-range rule. -/
  | bwait (at_ : CoreRef) (w : RxFields)
  /-- BCNT (R117): BCNT returns the core's breaker completion count. -/
  | bcnt (at_ : CoreRef) (w : RxFields)
  /-- DQ (R240): DQ posts a DMA descriptor to the cove's DMA engine, which checks and numbers or rejects it. -/
  | dq (at_ : CoreRef) (w : RxFields)
  /-- DWAIT (R118): DWAIT waits for a DMA sequence number to retire under the half-range rule. -/
  | dwait (at_ : CoreRef) (w : RxFields)
  /-- TSS (R119): TSS writes a scalar into the core's send latch. -/
  | tss (at_ : CoreRef) (w : RxFields)
  /-- TSV (R119): TSV writes a vector into the core's send latch. -/
  | tsv (at_ : CoreRef) (w : RxFields)
  /-- TRS (R119): TRS reads the scalar receive latch, stalling while it is empty. -/
  | trs (at_ : CoreRef) (w : RxFields)
  /-- TRV (R119): TRV reads the vector receive latch, stalling while it is empty. -/
  | trv (at_ : CoreRef) (w : RxFields)
  /-- TTOK (R121): TTOK writes an 8-bit control token into the control send latch. -/
  | ttok (at_ : CoreRef) (w : RxFields)
  /-- TRTOK (R119): TRTOK reads the control receive latch. -/
  | trtok (at_ : CoreRef) (w : RxFields)
  /-- TBAR (R121): TBAR posts the core's arrival at a control-plane barrier and stalls until its release. -/
  | tbar (at_ : CoreRef) (w : RxFields)
  /-- CCONN (R161): CCONN checks an endpoint, takes a writer entry and sends CONNECT, stalling until ACCEPT or REFUSE. -/
  | cconn (at_ : CoreRef) (w : CFields)
  /-- CACC (R162): CACC stalls until a connect request is pending, then takes a reader entry and sends ACCEPT. -/
  | cacc (at_ : CoreRef) (w : CFields)
  /-- CSEND (R165): CSEND sends DATA on a channel and stalls until an answer ends it. -/
  | csend (at_ : CoreRef) (w : CFields)
  /-- CRECV (R125): CRECV stalls until a queue holds a message and then takes it into a vector register. -/
  | crecv (at_ : CoreRef) (w : CFields)
  /-- CSEL (R126): CSEL stalls until a queue in its mask holds a message and selects it. -/
  | csel (at_ : CoreRef) (w : CFields)
  /-- CPOLL (R126): CPOLL selects a non-empty queue in its mask or returns NONE at once. -/
  | cpoll (at_ : CoreRef) (w : CFields)
  /-- CCLOSE (R168): CCLOSE closes a channel as seen by the core, the close taking effect at the step's commit. -/
  | cclose (at_ : CoreRef) (w : CFields)
  /-- CSETTO (R127): CSETTO sets a channel's send timeout. -/
  | csetto (at_ : CoreRef) (w : CFields)
  /-- MRD (R128): MRD reads a register of the cove register window. -/
  | mrd (at_ : CoreRef) (w : IFields)
  /-- MWR (R128): MWR writes a permitted register of the cove register window. -/
  | mwr (at_ : CoreRef) (w : IFields)
  /-- PB_HALT (R132): Writing PB_CTRL.HALT halts the core at an instruction boundary or resumes it. -/
  | pbHalt (who : Requester) (at_ : CoreRef) (v : Bool)
  /-- PB_STEP1 (R132): Writing 1 to PB_CTRL.STEP1 completes one instruction of a halted core and halts it again. -/
  | pbStep1 (who : Requester) (at_ : CoreRef)
  /-- PB_BKPT_EN (R132): Writing PB_CTRL.BKPT_EN arms or disarms the breakpoint halt at PB_BKPT. -/
  | pbBkptEn (who : Requester) (at_ : CoreRef) (v : Bool)
  /-- PB_TRAP_EN (R132): Writing PB_CTRL.TRAP_EN makes TRAP halt the core or act as a no-op. -/
  | pbTrapEn (who : Requester) (at_ : CoreRef) (v : Bool)
  /-- ROW_REMAP (R148): A scratchpad row with a second parity error within 10 minutes is remapped to a spare row at the bay's next boundary. -/
  | rowRemap (cove : Fin 800) (bank : Fin 16) (row : Fin 2048)
  /-- COVE_SAVE (R150): Before BIST of a freed cove, Headland saves its remap tables and rows to HBM and a digest to a neighbour's spare rows. -/
  | coveSave (cove : Fin 800) (parity : List (Fin 16 × Fin 2048))
  /-- COVE_RESTORE (R151): After BIST, Headland restores the cove's remap tables and rows and checks the digest, raising 0x5022 on mismatch. -/
  | coveRestore (cove : Fin 800) (bist : List (Fin 16 × Fin 2048)) (digestBad : Bool)
  /-- CONNECT (R162): An arriving CONNECT is refused at once or placed in the target queue's pending list. -/
  | connect (cove : Fin 800) (p : ChanPkt)
  /-- ACCEPT (R161): An arriving ACCEPT opens the writer entry and ends CCONN with OK. -/
  | accept (cove : Fin 800) (p : ChanPkt)
  /-- REFUSE (R161): An arriving REFUSE frees the writer entry and ends CCONN with REFUSED. -/
  | refuse (cove : Fin 800) (p : ChanPkt)
  /-- DATA (R165): An arriving DATA is placed in an entry and answered DELIVERED, or answered FULL, CLOSED or dropped as stale. -/
  | data (cove : Fin 800) (p : ChanPkt)
  /-- DELIVERED (R165): An arriving DELIVERED ends CSEND with OK and toggles the sequence bit. -/
  | delivered (cove : Fin 800) (p : ChanPkt)
  /-- FULL (R165): An arriving FULL blocks the writer, starting its timeout unless MOVING is set. -/
  | full (cove : Fin 800) (p : ChanPkt)
  /-- RESUME (R165): An arriving RESUME makes the listed writer send into its reserved entry, or is answered WITHDRAW. -/
  | resume (cove : Fin 800) (p : ChanPkt)
  /-- WITHDRAW (R166): An arriving WITHDRAW releases the writer's reservation or removes it from the waiter list. -/
  | withdraw (cove : Fin 800) (p : ChanPkt)
  /-- CLOSE (R168): An arriving CLOSE moves the far entry to WRITER_CLOSED or PEER_CLOSED and ends a waiting CSEND. -/
  | close (cove : Fin 800) (p : ChanPkt)
  /-- CLOSED (R165): An arriving CLOSED ends CSEND with CLOSED and counts the discarded message. -/
  | closed (cove : Fin 800) (p : ChanPkt)
  /-- CSEND_TIMEOUT (R166): A channel's send timeout expires, ending CSEND with TIMEOUT and sending WITHDRAW if listed. -/
  | csendTimeout (at_ : CoreRef)
  /-- FULL_RETRY (R165): Two microseconds after a FULL with LISTED = 0 the writer sends its DATA again. -/
  | fullRetry (at_ : CoreRef)
  /-- DATA_RETRANSMIT (R167): A DATA unanswered for 88 µs is sent once more, and a second silence raises 0xA001. -/
  | dataRetransmit (at_ : CoreRef)
  /-- CHANNEL_QUARANTINE_END (R163): A closed channel entry leaves quarantine after 57,600 current-network cycles and becomes free. -/
  | channelQuarantineEnd (cove : Fin 800) (entry : Fin 4096)
  /-- CH_HEAD_SEL (R175): A write to CH_HEAD_SEL latches the selected queue's state and head message into the snapshot registers. -/
  | chHeadSel (who : Requester) (cove : Fin 800) (value : BitVec 32)
  /-- PSEL_TOKEN (R186): A token at PSEL makes the named phase current two cycles later, or raises 0x6029. -/
  | pselToken (cove : Fin 800) (tok : BitVec 8)
  /-- TIDE_FABRIC_FAULT (R201): A switch that detects a schedule violation or class 0x6 hardware error records it, freezes and sends FREEZE, and its cove votes fail. -/
  | tideFabricFault (cove : Fin 800) (code : BitVec 16) (plane : BitVec 2) (port : BitVec 5)
  /-- FREEZE (R202): An arriving FREEZE token freezes the switch and is passed on through the bay's tide region. -/
  | freeze (cove : Fin 800)
  /-- BARRIER_ARRIVE (R198): An ARRIVE token or TBAR arrival is recorded, and when all participants have arrived ARRIVE or RELEASE is sent. -/
  | barrierArrive (cove : Fin 800) (b : Fin 16) (src : Fin 20)
  /-- BARRIER_RELEASE (R198): An arriving RELEASE is passed to children and releases the switch's cores, re-arming the barrier. -/
  | barrierRelease (cove : Fin 800) (b : Fin 16)
  /-- VOTE (R199): A VOTE token is combined in the vote tree, and at the root becomes COMMIT or ROLLBACK sent as the commit or rollback message. -/
  | vote (cove : Fin 800) (src : Option (Fin 4)) (pass : Bool) (tag : BitVec 2)
  /-- COMMIT_TOKEN (R199): A COMMIT token travels down the vote tree so every switch learns the outcome. -/
  | commitToken (cove : Fin 800) (tag : BitVec 2)
  /-- ROLLBACK_TOKEN (R199): A ROLLBACK token travels down the vote tree so every switch learns the outcome. -/
  | rollbackToken (cove : Fin 800) (tag : BitVec 2)
  /-- GROYNE_RELEASE (R195): At a compiled release cycle the groyne emits its oldest complete pair on the outputs in OUT_MASK, or raises 0x6026. -/
  | groyneRelease (cove : Fin 800) (g : Fin 2)
  /-- SEAM_ALIGN_START (R391): A seam path enters ALIGNING and at the first alignment pulse resets and presets its elastic buffer. -/
  | seamAlignStart (row : Fin 20)
  /-- SEAM_OPEN (R391): After 8 clean frames the seam path becomes OPEN. -/
  | seamOpen (row : Fin 20)
  /-- SEAM_ALIGN_TIMEOUT (R391): A seam path not OPEN 2 µs after entering ALIGNING gives up and logs 0x2030, disabling the row after three failures. -/
  | seamAlignTimeout (row : Fin 20)
  /-- SEAM_SLIP (R209): An elastic buffer under-run or over-run closes the seam path with hardware error 0x6031. -/
  | seamSlip (slip : SeamSlipped)
  /-- TF_INJ_PAR (R214): Writing 1 to TF_CTRL.INJ_PAR inverts one parity bit of the next vector word the switch drives. -/
  | tfInjPar (who : Requester) (cove : Fin 800)
  /-- ARBITER_DECISION (R232): An output arbiter chooses the eligible packet with the earliest deadline, dropping packets that have aged out. -/
  | arbiterDecision (cove : Fin 800) (out : Fin 6) (parity : ForwardParity)
  /-- EPOCH_ARM_CHECK (R237): At SWAP_AT − 1,000 Headland restarts the epoch swap if any router is not armed. -/
  | epochArmCheck (unarmed : List (Fin 800))
  /-- EPOCH_SWAP (R237): At NOW = SWAP_AT armed routers stamp unordered packets with the new epoch and hold ordered injection. -/
  | epochSwap
  /-- EPOCH_ORDERED_RESUME (R237): At SWAP_AT + 2,250 ordered injection resumes under the new epoch and OLD_FREE sets. -/
  | epochOrderedResume
  /-- LINK_DISABLE (R229): A current-network link is disabled and rings are rerouted, fencing coves that become unreachable. -/
  | linkDisable (cove : Fin 800) (out : Fin 6)
  /-- CN_E408_MASK (R233): Writing CN_CTRL.E408_MASK selects masking instead of withdrawal for reset and EBB requesters. -/
  | cnE408Mask (who : Requester) (cove : Fin 800) (v : Bool)
  /-- CN_INJ_PAR (R247): Writing 1 to CN_CTRL.INJ_PAR inverts one payload parity bit of the next forwarded packet. -/
  | cnInjPar (who : Requester) (cove : Fin 800)
  /-- DMA_TRANSFER_START (R238): A queued DMA transfer starts once a slot and a free tag are available and sends its packets. -/
  | dmaTransferStart (cove : Fin 800)
  /-- DMA_WRITE_PACKET (R241): An arriving DMA_WRITE lands its data and counts toward its transfer, answering DMA_DONE when the count is met. -/
  | dmaWritePacket (p : Packet)
  /-- DMA_READ_PACKET (R241): An arriving DMA_READ is served and answered with DMA_DATA. -/
  | dmaReadPacket (p : Packet) (ecc : List (Nat × Ecc))
  /-- DMA_DATA_PACKET (R241): An arriving DMA_DATA lands at the reader and completes the transfer when it is the last. -/
  | dmaDataPacket (p : Packet)
  /-- DMA_DONE_PACKET (R241): An arriving DMA_DONE completes the transfer or reports its fault code. -/
  | dmaDonePacket (p : Packet)
  /-- DMA_RETRY_PACKET (R242): An arriving DMA_RETRY makes the source send the first packet again 2 µs later. -/
  | dmaRetryPacket (p : Packet)
  /-- DMA_RETRY_RESEND (R242): Two microseconds after a DMA_RETRY the source resends the refused packet. -/
  | dmaRetryResend (cove : Fin 800) (tag : Fin 4096)
  /-- DMA_RETIRE (R238): A completed transfer retires in acceptance order and its tag enters quarantine. -/
  | dmaRetire (cove : Fin 800)
  /-- DMA_TAG_QUARANTINE_END (R238): A DMA tag leaves its 64 µs quarantine. -/
  | dmaTagQuarantineEnd (cove : Fin 800) (tag : Fin 4096)
  /-- DMA_TRACKER_FREE (R242): A receiving tracker is freed 88 µs after the last packet of its transfer arrived. -/
  | dmaTrackerFree (iface : Iface) (key : TransferKey)
  /-- DMA_TIMEOUT (R242): A source without DMA_DONE or last DMA_DATA 88 µs after its last packet raises 0x7020. -/
  | dmaTimeout (cove : Fin 800) (tag : Fin 4096)
  /-- FLAG_PACKET (R244): An arriving FLAG adds its addend to the named flag, or is dropped when its step or attempt does not match. -/
  | flagPacket (p : Packet)
  /-- BROADCAST_PACKET (R245): A BROADCAST packet is replicated along X and Y rings and delivered to matching coves. -/
  | broadcastPacket (cove : Fin 800) (p : Packet)
  /-- TELEMETRY_PACKET (R221): A TELEMETRY packet carrying a telemetry record is delivered. -/
  | telemetryPacket (p : Packet)
  /-- REG_PACKET (R455): A REG packet carrying a register access or its answer is served at LOCAL, even during reset. -/
  | regPacket (p : Packet) (write : Bool) (off : BitVec 16) (value : BitVec 32)
  /-- SHADOW_SIGNATURE_PACKET (R337): A primary's signature arrives in a CONTROL packet and is held by the partner's integrity unit. -/
  | shadowSignaturePacket (cove : Fin 800) (pair : BitVec 15) (step : BitVec 48) (attempt : BitVec 2) (sig : BitVec 64)
  /-- STRM_D3_WRITE (R259): Writing STRM_D3 pushes a stream descriptor, checked or rejected, into the port's FIFO. -/
  | strmD3Write (at_ : CoreRef) (value : BitVec 32)
  /-- STREAM_WORD_DUE (R258): At a descriptor's compiled cycle a stream word moves between buffer and port, or raises 0x602C. -/
  | streamWordDue (cove : Fin 800) (write late bad : Bool) (ecc : List (Nat × Ecc))
  /-- SHADOW_CHUNK_COPY (R262): A 256-byte chunk of a granule is copied into its shadow, releasing partial writes that waited on it. -/
  | shadowChunkCopy (stack : Fin 8) (granule : Nat) (step : BitVec 48) (chunk : Fin 256) (ecc : List (Nat × Ecc))
  /-- GRANULE_MAP_WRITE (R263): A committed shadow entry is written into the granule map in the background and the replaced granule joins the pool. -/
  | granuleMapWrite (stack : Fin 8)
  /-- SOFT_PPR (R267): When the bank is quiet for 30 µs, soft post-package repair runs and the row is copied back, releasing the temporary entry. -/
  | softPpr (stack : Fin 8) (pc : Fin 32) (bank : Fin 48) (row : Fin 16384)
  /-- REFRESH (R256): A per-bank refresh is issued at its interval, preceding other commands at the postponement limit. -/
  | refresh (stack : Fin 8) (pc : Fin 32) (bank : Fin 48)
  /-- PATROL_SCRUB (R256): Patrol scrub reads the next codeword and writes back a corrected one. -/
  | patrolScrub (stack : Fin 8) (found : Option Bool)
  /-- HB_SCRUB_EN (R256): Writing HB_CTRL.SCRUB_EN starts or stops patrol scrub. -/
  | hbScrubEn (who : Requester) (stack : Fin 8) (v : Bool)
  /-- HB_INJ_CE (R272): Writing 1 to HB_CTRL.INJ_CE flips one data bit of the next codeword written. -/
  | hbInjCe (who : Requester) (stack : Fin 8)
  /-- HARD_REPAIR_DONE (R271): Hard post-package repair of the maintenance window ends, closing the window and unparking the bays. -/
  | hardRepairDone (repairs : HardRepairs)
  /-- PORT_TRAIN_ATTEMPT (R276): A port training attempt ends with its lanes passing or failing, choosing a width or the next attempt. -/
  | portTrainAttempt (port : Fin 2) (lanes : BitVec 4)
  /-- PORT_RETRY_TIMER (R277): Every 10 s a down port repeats the training sequence. -/
  | portRetryTimer (port : Fin 2)
  /-- PCS_ALIGNMENT_LOSS (R279): Loss of PCS alignment ends the link at once and the port retrains, logging 0x9003. -/
  | pcsAlignmentLoss (port : Fin 2)
  /-- FEC_DEGRADATION (R279): More than 16 uncorrectable codewords in 1 s logs 0x9004 and retrains after a departure notice at most once per 10 minutes. -/
  | fecDegradation (port : Fin 2)
  /-- ETH_RETRAIN (R278): Writing 1 to ETH_CTRL.RETRAIN retrains the port after a departure notice. -/
  | ethRetrain (who : Requester) (port : Fin 2)
  /-- ETH_DISABLE (R300): Writing ETH_CTRL.DISABLE takes the port down after a departure notice, or lets it train. -/
  | ethDisable (who : Requester) (port : Fin 2) (v : Bool)
  /-- ARP_REQUEST (R280): An ARP request for the port's IPv4 address is answered. -/
  | arpRequest (port : Fin 2) (f : FrameHdr) (senderIp target : BitVec 32)
  /-- NEIGHBOR_SOLICITATION (R280): An IPv6 neighbour solicitation for the port's address is answered. -/
  | neighborSolicitation (port : Fin 2) (f : FrameHdr) (senderIp target : BitVec 128)
  /-- ICMP_ECHO_REQUEST (R280): An ICMP or ICMPv6 echo request is answered. -/
  | icmpEchoRequest (port : Fin 2) (f : FrameHdr) (ipv6 : Bool) (senderIp dst : BitVec 128) (body : List (BitVec 8))
  /-- FRAME_DROP (R280): A frame that is not accepted, too long or with bad FCS is dropped and counted. -/
  | frameDrop (port : Fin 2) (f : FrameHdr)
  /-- PTP_MESSAGE (R292): A PTP message updates the port's slave-only clock and the best-master choice, possibly locking or stepping module time. -/
  | ptpMessage (port : Fin 2) (m : PtpMsg)
  /-- TIME_HOLDOVER (R290): Without Sync from the active master for 3 announce intervals and no other slave port, module time enters HOLDOVER. -/
  | timeHoldover
  /-- CM_REQ (R282): A connection REQ is answered REP or REJ under the responder limits. -/
  | cmReq (port : Fin 2) (r : CmReq)
  /-- CM_RTU (R282): An RTU completes establishment of a connected queue pair. -/
  | cmRtu (f : ConnFrame)
  /-- CM_REJ (R282): A REJ from the host abandons a connection being established. -/
  | cmRej (f : ConnFrame)
  /-- CM_DREQ (R282): A DREQ disconnects the queue pair and is answered DREP, orphaning any session on it. -/
  | cmDreq (f : ConnFrame)
  /-- SEND_ONLY (R283): A SEND Only delivers its commands to the port's command queue, or is answered RNR NAK when they do not fit. -/
  | sendOnly (b : Bth) (payload : List (BitVec 8))
  /-- SEND_ONLY_WITH_IMMEDIATE (R304): A SEND Only with Immediate delivers its commands with the immediate as SEND_TAG. -/
  | sendOnlyWithImmediate (b : Bth) (imm : BitVec 32) (payload : List (BitVec 8))
  /-- SEND_FIRST (R283): A SEND First is answered NAK Invalid Request with 0x9015. -/
  | sendFirst (b : Bth)
  /-- SEND_MIDDLE (R283): A SEND Middle is answered NAK Invalid Request with 0x9015. -/
  | sendMiddle (b : Bth)
  /-- SEND_LAST (R283): A SEND Last, in either form, is answered NAK Invalid Request with 0x9015. -/
  | sendLast (b : Bth)
  /-- RDMA_WRITE_FIRST (R285): An RDMA WRITE First is checked and written into committed state or refused with a NAK. -/
  | rdmaWriteFirst (b : Bth) (r : Reth) (payload : List (BitVec 8))
  /-- RDMA_WRITE_MIDDLE (R285): An RDMA WRITE Middle is checked and written or refused. -/
  | rdmaWriteMiddle (b : Bth) (payload : List (BitVec 8))
  /-- RDMA_WRITE_LAST (R285): An RDMA WRITE Last is checked, written or refused, and acknowledged. -/
  | rdmaWriteLast (b : Bth) (payload : List (BitVec 8))
  /-- RDMA_WRITE_ONLY (R285): An RDMA WRITE Only is checked, written or refused, and acknowledged. -/
  | rdmaWriteOnly (b : Bth) (r : Reth) (payload : List (BitVec 8))
  /-- RDMA_WRITE_WITH_IMMEDIATE (R283): An RDMA WRITE with Immediate is answered NAK Invalid Request with 0x9015. -/
  | rdmaWriteWithImmediate (b : Bth)
  /-- RDMA_READ_REQUEST (R285): An RDMA READ Request is checked and answered with READ Response packets gathered from committed data, or refused. -/
  | rdmaReadRequest (b : Bth) (r : ReadReth)
  /-- ATOMIC_COMPARE_AND_SWAP (R283): An Atomic Compare and Swap is answered NAK Invalid Request with 0x9015. -/
  | atomicCompareAndSwap (b : Bth)
  /-- ATOMIC_FETCH_AND_ADD (R283): An Atomic Fetch and Add is answered NAK Invalid Request with 0x9015. -/
  | atomicFetchAndAdd (b : Bth)
  /-- UNSUPPORTED_OPCODE (R283): Any other opcode is answered NAK Invalid Request with 0x9015. -/
  | unsupportedOpcode (b : Bth) (opcode : BitVec 8)
  /-- READ_GATHER_TIMEOUT (R287): READ data not gathered 88 µs after the request is replaced by NAK Remote Operational Error 0x9014. -/
  | readGatherTimeout (qp : Fin 512) (psn : BitVec 24)
  /-- CNP_RECEIVED (R288): A congestion notification packet from the host lowers the queue pair's READ Response rate under DCQCN. -/
  | cnpReceived (f : ConnFrame)
  /-- DCQCN_ALPHA_TIMER (R288): The DCQCN congestion estimate decays at each ALPHA_TIMER interval. -/
  | dcqcnAlphaTimer (qp : Fin 512)
  /-- DCQCN_RATE_TIMER (R288): The DCQCN rate increases at each RATE_TIMER interval or byte count. -/
  | dcqcnRateTimer (qp : Fin 512) (byBytes : Bool)
  /-- PFC_PAUSE_FRAME (R289): A PFC PAUSE frame for the RoCEv2 priority is obeyed; others are ignored and counted. -/
  | pfcPauseFrame (port : Fin 2) (prio : Fin 8) (quanta : BitVec 16)
  /-- HEARTBEAT (R298): Every 8 µs an open session receives a HEARTBEAT, or a DEPARTURE while a departure notice is in progress. -/
  | heartbeat (bay : Fin 16) (slot : Fin 16)
  /-- LINK_DOWN_AT (R299): At DOWN_AT the announced link is taken down. -/
  | linkDownAt (port : Fin 2)
  /-- MT_NS_LO_READ (R302): A read of MT_NS_LO latches MT_NS_HI for the requester. -/
  | mtNsLoRead (who : Requester)
  /-- NOP (R305): The NOP command is answered ACCEPTED and does nothing else. -/
  | nop (c : JCmd)
  /-- CHALLENGE (R313): CHALLENGE answers with a new 16-byte nonce for the connection. -/
  | challenge (c : JCmd)
  /-- SESSION_OPEN (R313): SESSION_OPEN spends the nonce, takes or resumes a slot and starts signature verification. -/
  | sessionOpen (c : JCmd)
  /-- SESSION_VERIFY_DONE (R313): Signature verification ends, opening or resuming the session or freeing the slot with 0x9107 or 0x9109. -/
  | sessionVerifyDone (qp : Fin 512)
  /-- SESSION_ORPHAN_TIMEOUT (R314): An orphaned session not resumed within 1 s is freed as by SESSION_CLOSE. -/
  | sessionOrphanTimeout (bay : Fin 16) (slot : Fin 16)
  /-- SESSION_CLOSE (R316): SESSION_CLOSE cancels the session's work, ends its regions and frees its slot. -/
  | sessionClose (c : JCmd)
  /-- REGION_GRANT (R315): REGION_GRANT checks and grants an RDMA region, returning an R_Key and VA. -/
  | regionGrant (c : JCmd)
  /-- REGION_REVOKE (R315): REGION_REVOKE ends a region held by the session. -/
  | regionRevoke (c : JCmd)
  /-- ATTEST (R474): ATTEST queues a module or bay attestation token request. -/
  | attest (c : JCmd)
  /-- ATTEST_TOKEN_COMPLETE (R475): Headland forms and signs a queued token from one snapshot and sends it in the completion. -/
  | attestTokenComplete
  /-- PROGRAM_LOAD (R318): PROGRAM_LOAD checks and starts reading a program image from the bay's HBM. -/
  | programLoad (c : JCmd)
  /-- PROGRAM_LOAD_COMPLETE (R318): The load's program-wide and per-shape checks end, loading the first fitting shape or failing with a code. -/
  | programLoadComplete (bay : Fin 16)
  /-- PROGRAM_UNLOAD (R318): PROGRAM_UNLOAD cancels the bay's work and removes the program after the next boundary, or at once. -/
  | programUnload (c : JCmd)
  /-- RUN (R321): RUN is admitted, delayed or refused under the quota, power and capacity checks. -/
  | run (c : JCmd)
  /-- GENERATE (R320): GENERATE queues one sequence for a berth of the bay's program under admission. -/
  | generate (c : JCmd)
  /-- CANCEL (R319): CANCEL removes queued work at once or ends running work at the bay's next boundary. -/
  | cancel (c : JCmd)
  /-- STEP_HINT (R325): STEP_HINT announces a heavy phase that takes effect at the named step's boundary. -/
  | stepHint (c : JCmd)
  /-- QUERY_BAY_SUMMARY (R307): QUERY with selector 0 returns the bay summary. -/
  | queryBaySummary (c : JCmd)
  /-- QUERY_RUN_QUEUE (R307): QUERY with selector 1 returns the run queue. -/
  | queryRunQueue (c : JCmd)
  /-- QUERY_SESSION_ENERGY (R414): QUERY with selector 2 returns the session's energy counter. -/
  | querySessionEnergy (c : JCmd)
  /-- QUERY_ADMISSION_TRIAL (R321): QUERY with selector 3 returns an admission estimate for a trial run. -/
  | queryAdmissionTrial (c : JCmd)
  /-- REG_READ (R326): REG_READ reads up to 64 management-space words under the access rules and returns them in the completion. -/
  | regRead (c : JCmd)
  /-- REG_WRITE (R326): REG_WRITE writes one management-space word if the access rules permit it. -/
  | regWrite (c : JCmd)
  /-- RESEND (R312): RESEND sends kept datagrams again in SEQ order, or is rejected with 0x9125. -/
  | resend (c : JCmd)
  /-- CAP_SET_BAY (R405): CAP_SET with SCOPE 0 sets the bay cap from the bay's next boundary. -/
  | capSetBay (c : JCmd)
  /-- CAP_SET_MODULE (R405): CAP_SET with SCOPE 1 sets the module cap from the next control period. -/
  | capSetModule (c : JCmd)
  /-- BAY_RESET (R456): BAY_RESET requests a reset of the bay's compute, taking effect at reset entry. -/
  | bayReset (c : JCmd)
  /-- MAINTENANCE_OPEN (R327): MAINTENANCE with ACTION 0 parks every bay and opens the hard-repair window. -/
  | maintenanceOpen (c : JCmd)
  /-- MAINTENANCE_CLOSE (R327): MAINTENANCE with ACTION 1 closes an open window early and unparks the bays. -/
  | maintenanceClose (c : JCmd)
  /-- MODULE_RESET (R419): MODULE_RESET sends a departure and restarts start-up at S1. -/
  | moduleReset (c : JCmd)
  /-- SCORE_EVENT_EXPIRY (R342): A weighted event leaves the score window 10 minutes after it occurred, possibly ending a watch. -/
  | scoreEventExpiry (cove : Fin 800)
  /-- FAULT_SIGNATURE_RECORD (R346): Headland forms, signs and stores a fault signature record and compares its operand hash for patterns. -/
  | faultSignatureRecord (cove : Fin 800) (code : BitVec 16) (ophash : Option (BitVec 256))
  /-- IG_BAY_CFG_WRITE (R334): A write of IG_BAY_CFG.LEVEL changes the bay's shadow level from its next boundary, or is rejected for 5 to 7. -/
  | igBayCfgWrite (who : Requester) (bay : Fin 16) (value : BitVec 32)
  /-- IG_CLR_PATTERN (R345): Writing 1 to IG_CTRL.CLR_PATTERN clears PATTERN on the named cove. -/
  | igClrPattern (who : Requester) (value : BitVec 32)
  /-- ROTATION_TEST_SLOT (R360): A field's test slot falls and selects the next cove to test, freeing a live cove by handover if needed. -/
  | rotationTestSlot (field : Fin 4)
  /-- ROTATION_TEST_START (R360): A test starts once its slot has come, the previous restore has ended and 50 ms have passed since the last start. -/
  | rotationTestStart (field : Fin 4)
  /-- TEST_PHASE_COMPLETE (R363): A self-test phase ends, passing to the next phase or failing the test. -/
  | testPhaseComplete (field : Fin 4) (pass eddy : Bool)
  /-- HANDOVER_MOVE_START (R354): Once every involved bay holds and no DMA is open at moving coves, the move begins and the epoch swap is armed. -/
  | handoverMoveStart (seg : Fin 40)
  /-- HANDOVER_MOVE_COMPLETE (R356): The move ends, selectors follow the new map and the freed cove's save begins. -/
  | handoverMoveComplete (seg : Fin 40) (linkErr : Bool)
  /-- HANDOVER_TIMEOUT (R354): A move not begun 10 ms after the first bay held is abandoned with 0xB053. -/
  | handoverTimeout (seg : Fin 40)
  /-- FENCE_CAPACITY_RETURN (R366): A field's fencing capacity returns 60 minutes after a counted fence took effect. -/
  | fenceCapacityReturn (field : Fin 4)
  /-- RECUR_EXPIRY (R368): A cove's RECUR mark lapses 24 hours after it left watch. -/
  | recurExpiry (cove : Fin 800)
  /-- SHAPE_SWITCH (R373): At a drained boundary the jetty writes the new shape's tables, copies resume items and starts the next step. -/
  | shapeSwitch (bay : Fin 16) (resumeBad : Bool)
  /-- ROT_INTERVAL_WRITE (R361): Writing ROT_CTRL.INTERVAL_S sets the test interval from each field's next slot, 0 stopping the walk. -/
  | rotIntervalWrite (who : Requester) (v : BitVec 16)
  /-- ROT_PAUSE (R361): Writing ROT_CTRL.PAUSE stops or resumes the rotation walk. -/
  | rotPause (who : Requester) (v : Bool)
  /-- REFCLK_LOSS (R385): Loss of REFCLK makes PLLs coast, parks every bay, puts HBM in self-refresh and drops the links. -/
  | refclkLoss
  /-- REFCLK_RETURN (R386): REFCLK present again starts reacquisition of the PLLs, retraining and unparking. -/
  | refclkReturn
  /-- PLL_STABLE (R382): A PLL started from off is judged stable after its counts and may clock its consumers. -/
  | pllStable (p : Fin 17)
  /-- PLL_ACQUIRE_TIMEOUT (R382): A PLL not stable 1 ms after enable raises 0x2020 and is retried once. -/
  | pllAcquireTimeout (p : Fin 17)
  /-- PLL_LOCK_LOSS (R384): A stable PLL losing lock triggers the effects of Table 15.3 for its kind. -/
  | pllLockLoss (p : Fin 17)
  /-- HBM_RETRAIN_COMPLETE (R384): A stack retrains after its PHY PLL relocks and the held bays replay. -/
  | hbmRetrainComplete (stack : Fin 8)
  /-- HBM_RETRAIN_TIMEOUT (R384): A stack not retrained 10 ms after the loss is disabled with 0x8022 and its bays stop. -/
  | hbmRetrainTimeout (stack : Fin 8)
  /-- SLACK_ENTRY (R387): A compute domain without a step for SLACK_AFTER_US enters SLACK. -/
  | slackEntry (cove : Fin 800)
  /-- EBB_ENTRY (R388): A half whose coves have been in SLACK for EBB_AFTER_MS enters EBB, switching off its PLL after 2 µs. -/
  | ebbEntry (dom : Domain)
  /-- DOMAIN_WAKE (R388): A wake request brings a sleeping domain back to RUN within 1 µs or 60 µs. -/
  | domainWake (dom : Domain)
  /-- OP_CHANGE_START (R390): Once every affected bay holds, seam paths close and the halves change operating point together. -/
  | opChangeStart (half : Fin 2)
  /-- OP_CHANGE_COMPLETE (R402): The sequencer finishes the voltage and frequency moves, the seam realigns and held bays are released. -/
  | opChangeComplete (half : Fin 2)
  /-- OP_CHANGE_TIMEOUT (R390): An operating-point change with bays not holding after 10 ms is abandoned with 0x2040. -/
  | opChangeTimeout (half : Fin 2)
  /-- CONTROL_PERIOD (R406): At the end of each 10 ms period the power controller applies or reverses cap measures and requests operating points. -/
  | controlPeriod (m : PowerSample)
  /-- EMERGENCY_GLIDE (R410): An input power, current or temperature limit starts lowering every arithmetic PLL's divider one count per frame. -/
  | emergencyGlide (cause : GlideCause) (sample : Nat)
  /-- EMERGENCY_GLIDE_STOP (R410): The glide stops at the first frame below 95 % of its limit or below 97 °C. -/
  | emergencyGlideStop (sample : Nat)
  /-- JUNCTION_OVERTEMP (R410): A junction above 110 °C parks the module with 0x3033. -/
  | junctionOvertemp (field : Fin 4) (celsius : Nat)
  /-- DROOP_TRIP (R403): A droop detector trip suppresses two clock edges across its stretch domain. -/
  | droopTrip (field : Fin 4)
  /-- AUX_INPUT_LOSS (R397): Auxiliary input lost with main present sends a departure, parks and shuts the main regulators down. -/
  | auxInputLoss
  /-- AUX_INPUT_RETURN (R397): The auxiliary input returns after loss and start-up begins at S0. -/
  | auxInputReturn
  /-- MAIN_INPUT_LOW (R397): Main input below 40 V collapses the main rails and holds start-up until it returns. -/
  | mainInputLow
  /-- MAIN_INPUT_HIGH (R397): Main input above 60 V parks the module and shuts the main regulators down. -/
  | mainInputHigh
  /-- MAIN_INPUT_RETURN (R397): The main input back in range resumes start-up at S4. -/
  | mainInputReturn
  /-- REGULATOR_PHASE_FAIL (R399): A failed regulator phase is replaced by a spare, and too few phases cap the half or park the module. -/
  | regulatorPhaseFail (rail : Rail)
  /-- PARK_END (R411): When the cause of a park clears, bays resume from committed state. -/
  | parkEnd
  /-- HINT_VOLTAGE_RAISE (R412): About 40 µs before a hinted step the sequencer raises the core rails by HINT_MV if the prediction fits. -/
  | hintVoltageRaise (bay : Fin 16)
  /-- ENERGY_UPDATE (R413): Every 10 µs input energy is attributed to bays, sessions and overhead. -/
  | energyUpdate (m : EnergySample)
  /-- PWR_OP_TARGET_WRITE (R401): Writing PWR_CTRL.OP_TARGET sets the highest requested point, ignored above the variant's highest. -/
  | pwrOpTargetWrite (who : Requester) (v : BitVec 4)
  /-- PWR_HINT_MV_WRITE (R412): Writing PWR_CTRL.HINT_MV sets the hint margin, ignored above 50. -/
  | pwrHintMvWrite (who : Requester) (v : BitVec 6)
  /-- ENERGY_LO_READ (R415): A read of an energy counter's low word latches its high word. -/
  | energyLoRead (who : Requester) (ctr : EnergyCtr)
  /-- AUX_POWER_ON (R433): The auxiliary input comes into range and start-up begins at S0. -/
  | auxPowerOn
  /-- STAGE_S0 (R380): Auxiliary input in range for 10 ms and REFCLK present end S0. -/
  | stageS0
  /-- STAGE_S1 (R433): Headland ROM, SRAM and log checks end S1 or stop start-up with 0x1010. -/
  | stageS1 (ok : Bool)
  /-- STAGE_S2 (R422): S2 derives the identity, reads vendor and owner areas and the journal, and chooses the image slot. -/
  | stageS2 (f : S2Findings)
  /-- STAGE_S3 (R431): S3 verifies the variant record or applies E812-C limits. -/
  | stageS3
  /-- STAGE_S4 (R396): S4 brings the main regulators into regulation once main power and MATE_N allow. -/
  | stageS4 (regulated : Bool)
  /-- STAGE_S5 (R433): S5 brings up the spring PLLs and starts network time. -/
  | stageS5 (failed : List (Fin 17))
  /-- STAGE_S6 (R270): S6 trains HBM, reloads the talus map and soft repairs, and zeroes allocatable pages. -/
  | stageS6 (trained : BitVec 8)
  /-- STAGE_S7 (R437): S7 restores remap lists and masks and self-tests every cove in two passes, fencing failures. -/
  | stageS7 (failed : List (Fin 800)) (rows : List (Fin 800 × Fin 16 × Fin 2048))
  /-- STAGE_S8 (R439): S8 runs PRBS31 checks on every link, fencing coves, disabling links or seam rows. -/
  | stageS8 (tide : List (Fin 800)) (seams : List (Fin 20)) (links : List (Fin 800 × Fin 6))
  /-- STAGE_S9 (R440): S9 broadcasts and verifies the standby image in every unfenced cove. -/
  | stageS9 (failed : List (Fin 800))
  /-- STAGE_S10 (R441): S10 trains every enabled port and ends when each has trained or exhausted its attempts. -/
  | stageS10
  /-- STAGE_S11 (R441): S11 loads bay tables, keys and caps, loads the cargo and begins the rotation walk. -/
  | stageS11
  /-- CARGO_READ_COMPLETE (R441): The cargo read into HBM ends and its digest is checked. -/
  | cargoReadComplete
  /-- STAGE_LIMIT_EXPIRY (R434): A stage passing its limit stops start-up with 0x1061, or fails its unfinished units in S7 to S9. -/
  | stageLimitExpiry (unfinished : List (Fin 800))
  /-- SU_IMG_VER_LO_READ (R443): A read of SU_IMG_VER_LO latches SU_IMG_VER_HI. -/
  | suImgVerLoRead (who : Requester)
  /-- JOURNAL_WRITE (R432): Headland writes a signed journal entry to both devices within 1 s of the event. -/
  | journalWrite
  /-- JOURNAL_COMPACTION (R432): A journal 75 % full is rewritten as snapshot entries, device 1 then device 0. -/
  | journalCompaction
  /-- RESET_ENTRY (R457): A bay reset takes effect, recording its code and step and discarding uncommitted steps. -/
  | resetEntry (bay : Fin 16)
  /-- RECOVERY_QUIESCENCE (R459): After the discarded attempts' packets and trackers are gone, the reset ends and queues and registers are cleared. -/
  | recoveryQuiescence (bay : Fin 16)
  /-- RECOVERY_COMPLETE (R459): Reloaded parts pass their digests, running work completes, EVENT 0x05 is sent and the recovery window opens. -/
  | recoveryComplete (bay : Fin 16) (badParts : List (Fin 720)) (poison : Bool)
  /-- RECOVERY_WINDOW_TIMEOUT (R449): The recovery window closes 4t after the first post-recovery step started if it has not committed. -/
  | recoveryWindowTimeout (bay : Fin 16)
  /-- EDDY_PASS (R451): The eddy detector snapshots armed cores, forms wait edges and reports a standing finding. -/
  | eddyPass (set : EddySet)
  /-- HR_RESET_STEP_LO_READ (R461): A read of HR_RESET_STEP_LO latches HR_RESET_STEP_HI. -/
  | hrResetStepLoRead (who : Requester) (bay : Fin 16)
  /-- ID_LO_READ (R478): A read of an identity block _LO word latches its _HI word. -/
  | idLoRead (who : Requester) (pair : Fin 3)
  /-- MG_LOG_SEL_WRITE (R489): A write to MG_LOG_SEL presents a log entry at once or starts fetching it from a device. -/
  | mgLogSelWrite (who : Requester) (value : BitVec 32)
  /-- LOG_FETCH_COMPLETE (R489): A log entry fetched from a device is presented and PENDING clears. -/
  | logFetchComplete
  /-- LOG_DEVICE_COPY (R488): Headland copies a log entry to the log area of both devices within 1 s. -/
  | logDeviceCopy
  /-- NV_GO_OWNER_RECORD (R472): Setting NV_CTRL.GO with KIND 0 checks an owner record and writes it to both devices or refuses it with 0xC032. -/
  | nvGoOwnerRecord (who : Requester)
  /-- NV_GO_SLOT_CHUNK (R490): Setting NV_CTRL.GO with KIND 1 writes a slot chunk to the slot not in use or refuses it with 0xD060. -/
  | nvGoSlotChunk (who : Requester)
  /-- NV_WRITE_COMPLETE (R490): A non-volatile write ends and NV_STATUS leaves BUSY. -/
  | nvWriteComplete
  /-- MATE_N_HIGH (R497): MATE_N high for 5 µs sends a departure, parks and opens the hot-swap switch. -/
  | mateNHigh
  /-- MATE_N_LOW (R496): MATE_N continuously low for 100 ms lets the hot-swap switch close at S4. -/
  | mateNLow
  /-- JTAG_TAP_RESET (R502): TRST_N low holds the TAP in reset. -/
  | jtagTapReset
  /-- EXTEST (R503): EXTEST drives SOUND and FAULT_N from the boundary register. -/
  | extest (cells : BitVec 10)
  /-- IDCODE (R503): IDCODE captures 0x1081_2DB3. -/
  | idcode
  /-- SAMPLE_PRELOAD (R503): SAMPLE/PRELOAD samples the five status pins into the boundary register. -/
  | samplePreload
  /-- HL_ACCESS (R504): HL_ACCESS starts a read of one management-space word at Update-DR. -/
  | hlAccess (dr : BitVec 64)
  /-- HL_ACCESS_COMPLETE (R504): An HL_ACCESS read completes and its word becomes VALID for capture. -/
  | hlAccessComplete
  /-- MOD_RESET (R503): MOD_RESET in Run-Test/Idle requests a module reset as MODULE_RESET does. -/
  | modReset
  /-- BYPASS (R503): BYPASS, and any undecoded instruction, selects the 1-bit bypass register. -/
  | bypass
  /-- ACTIVE_ROUTE_CYCLE (R182): In each cycle in which a compiled route is active, the tide switch takes from its source and delivers to its destination, reducing, queueing or raising a schedule violation. -/
  | activeRouteCycle (cove : Fin 800) (plane : Fin 3) (adderBad : Bool)
  /-- WATCH_MINIMUM_EXPIRY (R365): A watched cove whose score is already 0 returns to normal with RECUR when its 10 minutes on watch have elapsed. -/
  | watchMinimumExpiry (cove : Fin 800)
  /-- REFCLK_ABSENT_AT_S0 (R433): After 1 s at S0 without REFCLK the module logs 0x1001 and asserts FAULT_N while S0 keeps holding. -/
  | refclkAbsentAtS0
  deriving DecidableEq, Repr

end Sys2Proof
end

