-- ==== Sys2Proof/Decode.lean ====
section
/-!
DEFINITION. The table of commands gives no row any bits (the block fetches no instruction), so no word spells a command.
The words of pebble-core instructions (05_pebble_cores.md R107) are decoded in Sys2Proof.Machine.PebbleRun.
-/

namespace Sys2Proof

/-- The command that a word spells by the bits of spec/opcode_table.json: none, since the table gives no bits. -/
def decodeTableWord (_nbits _w : Nat) : Option Instr := none

end Sys2Proof
end

