-- ==== Sys2Proof/Config.lean ====
section
/-!
DEFINITION. What the spec leaves open or leaves to published standards: free values (opaque constants with no body, each
applied to a counter the state reads and advances, log entry 7) and the cryptographic functions of chapter 19, which the
model only applies (log entry 8).
-/

namespace Sys2Proof.Config

/-- A free 32-bit value, by use number. -/
opaque freeWord : Nat → Word

/-- A free 512-bit value, by use number. -/
opaque freeRow : Nat → Row

/-- A free byte, by use number. -/
opaque freeByte : Nat → Byte

/-- A free number, by use number: used only reduced to the range the spec allows. -/
opaque freeNat : Nat → Nat

/-- The part of VEXP2.F32, VRCP.F32 and VRSQ.F32 that R112 leaves open, by function (0, 1, 2) and operand. -/
opaque freeUlp : Nat → Word → Nat

/-- Which operand VMAX.F32 and VMIN.F32 deliver of two zeros of opposite signs, which R110 leaves open. -/
opaque freeZero : Word → Word → Bool

/-- The first 64 bytes of SHAKE256 of a byte string (FIPS 202; R469). -/
opaque shake256 : List Byte → BitVec 512

/-- Ed448 verification of RFC 8032: public key, context, message, signature (R468). -/
opaque ed448Verify : List Byte → List Byte → List Byte → List Byte → Bool

/-- The 114-byte Ed448 signature made with the identity key over a context and message (R465, R468). -/
opaque identitySign : List Byte → List Byte → BitVec 912

/-- The seed function of stochastic rounding and of shadow selection, where the spec names a hash of operands. -/
opaque operandHash : List Byte → BitVec 256

/-- The two Yadriner root public keys in Headland's ROM (R466). -/
opaque rootKeys : List Byte × List Byte

/-- Headland's ROM revision (Table 19.5). -/
opaque romRevision : Nat

/-- The field layout of a QUERY RESULT (Table 12.8) for a selector, from the numbers it reports. -/
opaque queryLayout : Nat → List Nat → List Byte

/-- The step time in streamed mode that the jetty's estimates take, from the step time of R322 (R25). -/
opaque streamedNs : Nat → Nat

/-- The per-bank refresh interval that JESD238 sets for a stack temperature, and the limit to which a refresh may be postponed, in
nanoseconds (R256). -/
opaque refreshNs : Nat → Nat
opaque refreshLimitNs : Nat → Nat

/-! What the factory image holds that R442 does not give (log entry 159): the module cap, the module owner's key index, SLACK_AFTER_US
and EBB_AFTER_MS of MODULE; the seed and the seventeen key indices of bay 0; the KEYS, PORTS and FIRMWARE sections; the cargo's program
image where a model was ordered; version, signer and signature. -/
opaque factoryCapW : BitVec 16
opaque factoryOwnerKey : BitVec 16
opaque factorySlackUs : BitVec 16
opaque factoryEbbMs : BitVec 16
opaque factorySeed : BitVec 64
opaque factoryBayKeys : BitVec 272
opaque factoryKeys : List Byte
opaque factoryPorts : BitVec 1024
opaque factoryFirmware : List Byte
opaque factoryCargo : Option (List Byte)
opaque factoryVersion : BitVec 64
opaque factorySigner : BitVec 64
opaque factorySignature : BitVec 912

/-- The announce interval of the master of a PTP domain, in nanoseconds (R290). -/
opaque announceNs : BitVec 8 → Nat

end Sys2Proof.Config
end

