-- ==== Sys2Proof/Machine/Tab.lean ====
section
/-!
DEFINITION. Sparse tables: a list of (key, value) rows with strictly rising keys. A table that has a default never lists
a row equal to it, so that equal contents are equal data. Every indexed piece of state, and every memory, is one.
-/

namespace Sys2Proof.Machine

/-- A sparse table from numbers to `α`, its rows in strictly rising order of key. -/
structure Tab (α : Type) where
  rows : List (Nat × α) := []
  deriving DecidableEq, Repr

/-- The row of `k` in a list of rows, if it is listed. -/
def rowsFind {α : Type} : List (Nat × α) → Nat → Option α
  | [], _ => none
  | (k', v) :: t, k => if k' = k then some v else rowsFind t k

/-- Rows with `k` set to `v`, in order. -/
def rowsPut {α : Type} : List (Nat × α) → Nat → α → List (Nat × α)
  | [], k, v => [(k, v)]
  | (k', v') :: t, k, v =>
    if k < k' then (k, v) :: (k', v') :: t
    else if k = k' then (k, v) :: t
    else (k', v') :: rowsPut t k v

/-- Rows without `k`. -/
def rowsErase {α : Type} : List (Nat × α) → Nat → List (Nat × α)
  | [], _ => []
  | (k', v) :: t, k => if k' = k then rowsErase t k else (k', v) :: rowsErase t k

/-- Strictly rising keys. -/
def rowsSorted {α : Type} : List (Nat × α) → Bool
  | [] => true
  | (k, _) :: t => (t.all fun r => decide (k < r.1)) && rowsSorted t

namespace Tab
variable {α : Type}

/-- The row of `k`, if it is listed. -/
def find (t : Tab α) (k : Nat) : Option α := rowsFind t.rows k

/-- The value at `k`, `d` where nothing is listed. -/
def get (t : Tab α) (d : α) (k : Nat) : α := (t.find k).getD d

/-- `k` listed with `v`. -/
def put (t : Tab α) (k : Nat) (v : α) : Tab α := ⟨rowsPut t.rows k v⟩

/-- `k` not listed. -/
def erase (t : Tab α) (k : Nat) : Tab α := ⟨rowsErase t.rows k⟩

/-- The value at `k` becomes `v`; the default `d` is never listed. -/
def set [DecidableEq α] (t : Tab α) (d : α) (k : Nat) (v : α) : Tab α :=
  if v = d then t.erase k else t.put k v

/-- The value at `k` changed by `f`. -/
def upd [DecidableEq α] (t : Tab α) (d : α) (k : Nat) (f : α → α) : Tab α := t.set d k (f (t.get d k))

/-- Every listed value changed by `f`. -/
def map (t : Tab α) (f : Nat → α → α) : Tab α := ⟨t.rows.map fun r => (r.1, f r.1 r.2)⟩

/-- Only the rows that `p` keeps. -/
def filter (t : Tab α) (p : Nat → α → Bool) : Tab α := ⟨t.rows.filter fun r => p r.1 r.2⟩

/-- How many rows `p` holds of. -/
def count (t : Tab α) (p : Nat → α → Bool) : Nat := (t.rows.filter fun r => p r.1 r.2).length

/-- The canonical form of a table with default `d`: keys strictly rising, no row equal to the default. -/
def wf [DecidableEq α] (t : Tab α) (d : α) : Bool :=
  rowsSorted t.rows && t.rows.all fun r => !decide (r.2 = d)

end Tab

/-- A memory: a table of bytes; what an unlisted address reads as is `unlistedByte` (log entry 3). -/
abbrev Memory := Tab Byte

/-- What a byte reads as that nothing has written: 0, as R477 leaves memory after S6 and S7. DESIGN CHOICE (log 3). -/
def unlistedByte : Byte := 0

/-- The canonical form of a memory. -/
def Memory.wf (m : Memory) : Bool := Tab.wf m unlistedByte

/-- One byte of a memory. -/
def memByte (m : Memory) (a : Nat) : Byte := m.get unlistedByte a

/-- One byte written. -/
def memSetByte (m : Memory) (a : Nat) (b : Byte) : Memory := m.set unlistedByte a b

/-- `n` bytes from address `a` up. -/
def memBytes (m : Memory) (a : Nat) : Nat → List Byte
  | 0 => []
  | n + 1 => memByte m a :: memBytes m (a + 1) n

/-- The bytes `bs` written from address `a` up. -/
def memSetBytes (m : Memory) (a : Nat) : List Byte → Memory
  | [] => m
  | b :: bs => memSetBytes (memSetByte m a b) (a + 1) bs

/-- Little-endian number of a byte list (R3). -/
def leNat : List Byte → Nat
  | [] => 0
  | b :: bs => b.toNat + 256 * leNat bs

/-- The `n` little-endian bytes of a number. -/
def leBytes : Nat → Nat → List Byte
  | 0, _ => []
  | n + 1, v => BitVec.ofNat 8 v :: leBytes n (v / 256)

/-- Big-endian number of a byte list. -/
def beNat (bs : List Byte) : Nat := leNat bs.reverse

/-- `n` bytes at `a`, little-endian. -/
def memLe (m : Memory) (a n : Nat) : Nat := leNat (memBytes m a n)

/-- Number field of a byte list: `n` bytes from offset `o`, little-endian; absent bytes read 0. -/
def fieldLe (bs : List Byte) (o n : Nat) : Nat := leNat ((bs.drop o).take n)

/-- Adds to a 32-bit saturating counter (R9). -/
def satAdd32 (c : Word) (n : Nat) : Word := BitVec.ofNat 32 (min (c.toNat + n) 0xFFFFFFFF)

end Sys2Proof.Machine
end

