-- ==== Sys2Proof/Machine/Factory.lean ====
section
/-!
DEFINITION. The factory image (17_plotoard_image_and_startup.md R442, 12_tideline_commands.md R328), laid out as an image slot of
R420 to R428. What R442 gives stands as numbers; what it leaves to the module as made (its keys, ports, firmware, cargo, version and
signature, and the fields of the two records that R442 does not name) are free values (log entry 159).
-/

namespace Sys2Proof.Machine

/-- First 32 bytes of SHAKE256. -/
def digest32 (bs : List Byte) : BitVec 256 := (Config.shake256 bs).setWidth 256

/-- The characters of a text, one byte each. -/
def asciiBytes (t : String) : List Byte := t.toList.map fun ch => BitVec.ofNat 8 ch.toNat

/-- MODULE (Table 17.5): STEP_QUANTUM_US 0 and ROT_INTERVAL_S 720 (R442). -/
def factoryModule : List Byte :=
  leBytes 2 1 ++ leBytes 2 0 ++ leBytes 2 Config.factoryCapW.toNat ++ leBytes 2 720 ++ leBytes 2 Config.factoryOwnerKey.toNat
    ++ leBytes 2 Config.factorySlackUs.toNat ++ leBytes 2 Config.factoryEbbMs.toNat ++ leBytes 2 0

/-- The eight extents of bay 0: 12,032 pages of every stack, from device page s × 12,288 (R442, Table 10.3). -/
def factoryExtents : List Byte := (List.range 8).flatMap fun k => leBytes 4 (k * 12288) ++ leBytes 4 12032

/-- The bay record of bay 0 (Table 17.7): all 720 logical coves, the quotas of R442 and a user window equal to the whole bay. -/
def factoryBay : List Byte :=
  leBytes 1 0 ++ leBytes 1 0 ++ leBytes 1 32 ++ leBytes 1 64 ++ leBytes 2 256 ++ leBytes 2 0xFFFF ++ leBytes 2 6144 ++ leBytes 2 8
    ++ leBytes 4 65536 ++ leBytes 8 Config.factorySeed.toNat ++ leBytes 8 0 ++ leBytes 8 (8 * 12032 * 0x200000)
    ++ leBytes 34 Config.factoryBayKeys.toNat ++ leBytes 6 0 ++ List.replicate 90 0xFF ++ leBytes 22 0 ++ factoryExtents

/-- The sections, each with its type; cargo where a model was ordered. -/
def factorySections : List (Nat × List Byte) :=
  [(1, factoryModule), (2, Config.factoryKeys), (3, leBytes 128 Config.factoryPorts.toNat), (4, factoryBay), (5, Config.factoryFirmware)]
    ++ (Config.factoryCargo.map fun bs => (6, leBytes 16 0 ++ bs)).toList

/-- Directory entries (Table 17.3) of sections placed one after another from `off`. -/
def factoryDir (off : Nat) : List (Nat × List Byte) → List Byte
  | [] => []
  | (k, bs) :: t =>
    leBytes 8 k ++ leBytes 8 off ++ leBytes 8 bs.length ++ leBytes 32 (digest32 bs).toNat ++ leBytes 8 0 ++ factoryDir (off + bs.length) t

/-- The factory image: header (Table 17.2), directory, signature, sections. -/
def factoryImage : List Byte :=
  let n := factorySections.length
  let head := 64 + 64 * n + 114
  let body := factorySections.flatMap Prod.snd
  asciiBytes "PLOTOARD" ++ leBytes 2 1 ++ leBytes 2 n ++ leBytes 4 head ++ leBytes 8 Config.factoryVersion.toNat
    ++ leBytes 8 (head + body.length) ++ leBytes 8 Config.factorySigner.toNat ++ leBytes 24 0
    ++ factoryDir head factorySections ++ leBytes 114 Config.factorySignature.toNat ++ body

/-- The devices of a module as made: the factory image in slot A, which starts at byte 0x80_0000 of device 0 (Table 17.1). -/
def factoryDevices : Memory := memSetBytes {} 0x800000 factoryImage

end Sys2Proof.Machine
end

