-- ==== Sys2Proof/Machine/StateCove.lean ====
section
/-!
DEFINITION. The state of one physical cove (R21): pebble cores, breaker array, scratchpad, channels, tide switch, current
router with its DMA engine, and its integrity unit. Every field's default is its value at reset.
-/

namespace Sys2Proof.Machine

/-- What a stalled pebble core waits for (BLOCK_ON of Table 5.12, with what the instruction needs to complete). -/
inductive CoreWait where
  | sendFull (plane : Fin 3)
  | recvEmpty (plane : Fin 3) (rd : BitVec 5)
  | tbar (b : BitVec 4)
  | stepend
  | breaker (desc : BitVec 256) (rd : BitVec 5)
  | bwait (s : BitVec 16)
  | dmaQueue (desc : BitVec 256) (rd : BitVec 5)
  | dwait (s : BitVec 16)
  | csend (entry : Nat) (rd : BitVec 5)
  | crecv (q : BitVec 3) (rd vb : BitVec 5)
  | csel (mask : BitVec 8) (m : Bool) (rd : BitVec 5)
  | cacc (q : BitVec 3) (rd : BitVec 5)
  | cconn (entry : Nat) (rd : BitVec 5)
  | spLimit (w : HFields)
  | fence
  /-- MWR to STRM_D3 with a full descriptor FIFO (R257). -/
  | mwr
  deriving DecidableEq, Repr

/-- One pebble core (R104, Tables 5.11 to 5.18). `pc` reaches 0x4000 only to raise 0x4102 at its fetch (R108). -/
structure PCore where
  g : Tab Word := {}
  v : Tab Row := {}
  pc : Nat := 0
  imem : Tab Word := {}
  dmem : Memory := {}
  /-- Words of instruction memory, bytes of local data memory, general and vector registers whose parity fails (R104). -/
  imemBad : List Nat := []
  dmemBad : List Nat := []
  gBad : List Nat := []
  vBad : List Nat := []
  /-- Entry addresses latched for the uncommitted steps, oldest first (R122). -/
  entries : List (Nat × Nat) := []
  used : Bool := false
  state : BitVec 3 := 0
  wait : Option CoreWait := none
  /-- Arithmetic cycle at which the present stall began. -/
  stalledAt : Nat := 0
  excCode : Code := 0
  excNew : Bool := false
  excHw : Bool := false
  excPc : Nat := 0
  /-- Exceptions taken: a write of NEW in the cycle of one does not clear it (R10). -/
  excNo : Nat := 0
  ctl : BitVec 4 := 0
  bkpt : BitVec 14 := 0
  retired : Word := 0
  stall : Word := 0
  dbgSel : BitVec 10 := 0
  lastSel : BitVec 3 := 7
  /-- Arithmetic cycle since which the present instruction is held in D for a load's data (R116, R131). -/
  heldAt : Option Nat := none
  deriving DecidableEq, Repr

/-- The latches between a core and the tide switch, per plane: words with the cycle of the half's clock at which each
was placed, oldest first, and whether its parity holds (R119). -/
structure Latches where
  send : List (Row × Nat × Bool) := []
  recv : List (Row × Nat × Bool) := []
  deriving DecidableEq, Repr

/-- An accepted breaker operation (R85, R86, R98): its descriptor, the step attempt it belongs to, the tolerance entry as it
stood, and, for a shadow operation, the pair it completes (R335). -/
structure TileOp where
  desc : BitVec 256
  seq : BitVec 16
  core : Nat
  step : Nat
  attempt : Nat
  tolRel : Word
  tolAbs : Word
  injCk : Bool
  shadow : Option Nat
  primary : Option Nat
  noop : Bool
  deriving DecidableEq, Repr

/-- What the checksum comparisons of an operation found (R95). -/
inductive CkResult where
  | pass
  | skip
  | fail (row col : BitVec 7)
  deriving DecidableEq, Repr

/-- An operation that streams or drains: its accumulators as they will stand at its last product (R68, R69, R90). -/
structure Stream where
  op : TileOp
  set : Bool
  /-- Accumulators by physical main cell r × 64 + c, and the cells that saturated. -/
  acc : Tab Word := {}
  satMain : List Nat := []
  /-- Checksum cells: 0 to 63 the row cells by column, 64 to 127 the column cells by row, 128 the corner; their magnitude
  lanes; those that saturated (R93, R94). -/
  ck : Tab Word := {}
  mag : Tab Word := {}
  satCk : List Nat := []
  parity : Bool := false
  startCyc : Nat := 0
  /-- Cycles that it still streams, in eighths of a cycle at governor level 8; 0 once it drains (R84, R99, R100). -/
  left : Nat := 0
  deriving DecidableEq, Repr

/-- The breaker array (chapter 04). -/
structure Breaker where
  queue : List TileOp := []
  running : List Stream := []
  seq : BitVec 16 := 0
  done : BitVec 16 := 0
  counts : Tab (BitVec 16) := {}
  accSet : Bool := false
  level : Nat := 0
  /-- Arithmetic cycles of the governor's last move, and up to which streaming is accounted for. -/
  levelAt : Nat := 0
  workAt : Nat := 0
  /-- Stochastically rounded tiles so far, by step mod 4 (R75). -/
  tileSeq : Tab Nat := {}
  fillEn : Bool := true
  injCk : Bool := false
  rejCode : Code := 0
  rejCore : BitVec 4 := 0
  /-- Counters of Table 4.12, in its order: SAT, SCALE_OVF, SCALE_UNF, DNORM, INVALID, RANGE, CK_FAIL, CK_SKIP, FILL_FAIL,
  OPS, FEED_STALL. -/
  ctr : Tab Word := {}
  lastRow : BitVec 7 := 0x7F
  lastCol : BitVec 7 := 0x7F
  lastTag : BitVec 16 := 0
  tolRel : Tab Word := {}
  tolAbs : Tab Word := {}
  lastCore : Nat := 15
  deriving DecidableEq, Repr

/-- A narrow scratchpad request waiting at the arbiters (R144): of a core, or of the DMA engine (16), whose data its packets carry.
`since` is the cycle from which it is its requester's oldest and so waits at its bank's arbiter. -/
structure NarrowReq where
  core : Nat
  write : Bool
  handle : BitVec 6
  off : Nat
  size : Nat
  rt : BitVec 5
  vec : Bool
  data : Row
  since : Nat
  step : Nat
  pc : Nat
  /-- The transfer, by sequence number, whose bytes the DMA engine moves with the grant. -/
  dma : Option (BitVec 16) := none
  deriving DecidableEq, Repr

/-- A parity error of a row (R148). -/
structure RowErr where
  bank : Nat
  row : Nat
  at_ : Nat
  deriving DecidableEq, Repr

/-- That the save area of a freed cove holds its image (R150): the digest, and whether the neighbour keeps a copy. -/
structure CoveImage where
  digest : BitVec 512 := 0
  copied : Bool := false
  deriving DecidableEq, Repr

/-- The scratchpad (chapter 06). `bytes` is keyed by the window offset of the byte (bank × 0x2_0000 + row × 64 + byte,
R135), `spare` by bank × 1,024 + spare row × 64 + byte; `bad` and `spareBad` list bytes whose parity fails (R134). A remap
(bank × 2,048 + row) names its spare row (R147). -/
structure Scratchpad where
  bytes : Memory := {}
  spare : Memory := {}
  bad : List Nat := []
  spareBad : List Nat := []
  remap : Tab Nat := {}
  handles : Tab (BitVec 128) := {}
  errs : List RowErr := []
  due : List (Nat × Nat) := []
  reqs : List NarrowReq := []
  lastReq : Nat := 16
  exhausted : Bool := false
  nbHold : Bool := false
  parErr : Word := 0
  urgent : Word := 0
  conflict : Tab Word := {}
  parBank : BitVec 4 := 0
  parRow : BitVec 11 := 0
  parSpare : Bool := false
  parReader : BitVec 3 := 0
  /-- The bytes and parity bytes of the row whose parity failed last, as read (Table 13.8); empty where what fails is open. -/
  parImage : List Byte := []
  faultCode : Code := 0
  faultHandle : BitVec 6 := 0
  faultCore : BitVec 4 := 0
  faultAgent : BitVec 2 := 0
  deriving DecidableEq, Repr

/-- Rows of a RELOAD handle to rewrite before a replay, the cove's save image and its neighbour's copy (R140, R150). -/
structure SpExtra where
  reload : List (Nat × Nat) := []
  image : Option CoveImage := none
  nbCopy : List Nat := []
  deriving DecidableEq, Repr

/-- A message in a queue entry (R155). `seq` is its DATA's sequence bit, `bad` a byte whose parity fails. -/
structure Msg where
  handle : BitVec 16
  len : Nat
  data : Row
  bad : Bool
  deriving DecidableEq, Repr

/-- A waiting writer of a queue (R165): its endpoint, its handle, and the reader entry of its channel. -/
structure Waiter where
  ep : BitVec 32
  handle : BitVec 16
  entry : Nat
  deriving DecidableEq, Repr

/-- A receive queue (R155 to R157, R165): full entries in order, reservations, connect requests (endpoint and handle of the
connecting writer) and waiting writers. -/
structure RecvQueue where
  msgs : List Msg := []
  reserved : List Waiter := []
  requests : List (BitVec 32 × BitVec 16) := []
  waiters : List Waiter := []
  deriving DecidableEq, Repr

/-- The states of a channel entry (Table 7.1). -/
inductive ChState where
  | free | connecting | open_ | sending | blocked | peerClosed | writerClosed | quarantine
  deriving DecidableEq, Repr

/-- A channel table entry (R160 to R168). -/
structure ChEntry where
  state : ChState := .free
  writer : Bool := false
  gen : BitVec 4 := 0
  core : Nat := 0
  queue : Nat := 0
  farHandle : BitVec 16 := 0
  farEp : BitVec 32 := 0
  /-- Sequence bit of the next DATA (writer) or of the last DATA placed (reader). -/
  seq : Bool := false
  placed : Bool := false
  /-- Send timeout in microseconds, 0 infinite (R127). -/
  timeout : Word := 0
  /-- Module time already spent under FULL answers, and since when the timeout runs (R166). -/
  spent : Nat := 0
  fullSince : Option Nat := none
  listed : Bool := false
  resent : Bool := false
  sentAt : Nat := 0
  retryAt : Option Nat := none
  msgLen : Nat := 0
  msg : Row := 0
  /-- The step that opened it, and the step whose CCLOSE waits for its commit (R168, R170). -/
  openedIn : Nat := 0
  closeIn : Option Nat := none
  /-- Current-network cycle at which quarantine began (R163). -/
  quarAt : Nat := 0
  /-- The stored entry fails its parity (Table 7.12). -/
  bad : Bool := false
  deriving DecidableEq, Repr

/-- The channel unit of a cove (chapter 07). Queues are keyed by core × 8 + queue. -/
structure Channels where
  queues : Tab RecvQueue := {}
  table : Tab ChEntry := {}
  lastAlloc : Nat := 4095
  stale : Word := 0
  closed : Word := 0
  full : Word := 0
  timeout : Word := 0
  retx : Word := 0
  errCode : Code := 0
  errCore : BitVec 4 := 0
  /-- The queue that the last error was of (Table 13.7). -/
  errQueue : Nat := 0
  headSel : BitVec 7 := 0
  headMeta : Word := 0
  headData : Row := 0
  /-- Packets held while the slot moves (R171). -/
  held : List (BitVec 4 × ChanPkt) := []
  deriving DecidableEq, Repr

/-- A word on the tide fabric with its parity (R177). -/
structure TideWord where
  data : Row
  ok : Bool := true
  deriving DecidableEq, Repr

/-- A groyne (R194): words and tokens not yet paired, complete pairs with the cycle in which each became complete, the
sequence bit expected of the next token. `cfg` holds TF_GCFG, word 0 least significant. -/
structure Groyne where
  cfg : BitVec 64 := 0
  data : List TideWord := []
  toks : List (BitVec 8) := []
  pairs : List (TideWord × BitVec 8 × Nat) := []
  seq : Bool := false
  /-- One more than the cycle of its last release (R195). -/
  released : Nat := 0
  deriving DecidableEq, Repr

/-- A combining token in a lane output's queue (R197): a COMMIT or ROLLBACK with the tag that follows it in the next slot, the direction of
the link, the cycle in which it entered the queue. -/
structure LaneTok where
  tok : BitVec 6
  tag : BitVec 2 := 0
  dir : Nat
  at_ : Nat
  deriving DecidableEq, Repr

/-- The tide switch (chapter 08). Inputs are keyed by plane × 4 + direction (N, E, S, W) and hold words with the cycle at
which each is present; routes by plane × 512 + phase × 32 + destination; balance queues by plane × 4 + queue. -/
structure Tide where
  routes : Tab (BitVec 64) := {}
  ph : Tab Nat := {}
  /-- Phase changes on their way: plane, phase, and the cycle from which it is current (R186). -/
  phNext : List (Nat × Nat × Nat) := []
  /-- Cycle at which the current phase's window counters stood at 0, by plane. -/
  phStart : Tab Nat := {}
  /-- Cycle at which the current step attempt started. -/
  stepCyc : Nat := 0
  /-- Entry phases by (step mod 4) × 3 + plane (R187). -/
  entryPh : Tab Nat := {}
  /-- Frozen from a cycle on (R201). -/
  frozen : Bool := false
  frozenAt : Nat := 0
  inputs : Tab (List (TideWord × Nat)) := {}
  bq : Tab (List TideWord) := {}
  /-- Groyne outputs, by source code 20 to 27, with the cycle in which each is present. -/
  gout : Tab (List (TideWord × Nat)) := {}
  /-- Combining tokens in the lane's output queues, and the first free slot of each output by direction (R197). -/
  lane : List LaneTok := []
  laneFree : Tab Nat := {}
  groynes : Tab Groyne := {}
  barriers : Tab Word := {}
  /-- Arrivals of the round in progress, by barrier: cores 0 to 15, children 16 + direction (R198). -/
  arrived : Tab (List Nat) := {}
  /-- Votes received: the child's direction, or 4 for the cove's own; pass; tag (R199). -/
  votes : List (Nat × Bool × BitVec 2) := []
  /-- Votes of the cove's vote logic that have not yet entered the tree: pass and tag. -/
  casts : List (Bool × BitVec 2) := []
  /-- One more than the cycle of the last active-route evaluation, by plane. -/
  ran : Tab Nat := {}
  violCode : Code := 0
  violPort : BitVec 5 := 0
  violPlane : BitVec 2 := 0
  violNew : Bool := false
  /-- Faults recorded: a write of NEW in the cycle of one does not clear it (R10). -/
  violNo : Nat := 0
  violCyc : Word := 0
  /-- TF_PAR_ERR, TF_VIOL_CNT, TF_RED_SAT, TF_RED_DNORM (Table 8.13). -/
  ctr : Tab Word := {}
  injPar : Bool := false
  /-- A table has failed its parity and waits for its rewrite (R212). -/
  tabBad : Bool := false
  deriving DecidableEq, Repr

/-- A DMA descriptor accepted by the engine (R238), and its run. -/
structure Dma where
  desc : BitVec 256
  seq : BitVec 16
  core : Nat
  step : Nat
  attempt : Nat
  started : Bool := false
  tag : Nat := 0
  gen : BitVec 4 := 0
  sentAt : Nat := 0
  /-- Data packets received by a read. -/
  got : List Nat := []
  total : Nat := 0
  /-- Refused packets with the current-network cycle from which each is sent again (R242). -/
  retry : List (Nat × Packet) := []
  /-- Bytes read from the own scratchpad that are not sent or written yet, with whether their parity fails; packets cut from them. -/
  buf : List (Byte × Bool) := []
  cut : Nat := 0
  /-- DMA_WRITE packets sent on with data that came from another place (R241, R242). -/
  sent : List Packet := []
  done : Bool := false
  deriving DecidableEq, Repr

/-- A transfer tracker of a receiving interface (R242). -/
structure Tracker where
  key : TransferKey
  seen : Nat := 0
  count : Option Nat := none
  lastAt : Nat := 0
  failed : Bool := false
  deriving DecidableEq, Repr

/-- A packet that its injector, LOCAL or AGENT, holds until it enters the router (R226, R230, R237): its deadline offset, and the
routers from which that of an edge agent is chosen as it enters (R227). -/
structure Injection where
  agent : Bool
  off : Nat
  to_ : List Nat := []
  p : Packet
  deriving DecidableEq, Repr

/-- The current router, LOCAL port and DMA engine of a cove (chapter 09). `vcs` is keyed by port × 4 + channel (ports of Table 9.1),
each at most two packets (R223). -/
structure Net where
  vcs : Tab (List Packet) := {}
  /-- Packets that wait to enter, in the order sent. -/
  inj : List Injection := []
  lastWin : Tab Nat := {}
  linkDis : BitVec 6 := 0
  /-- Route entries written over those computed, by destination + 800 × version, and map entries written over those of the module, by
  logical index + 720 × version, bit 15 VALID (R235, R247; log entry 20). -/
  rt : Tab Nat := {}
  map : Tab Nat := {}
  /-- CN_STATUS.EPOCH, CN_EPOCH.SWAP_AT, the time unit at which an armed swap fires, and that until which ordered injection is held
  (R237). -/
  epoch : Bool := false
  swapReg : BitVec 16 := 0
  armAt : Option Nat := none
  holdTo : Option Nat := none
  unreach : Bool := false
  e408 : Bool := false
  /-- Requests that their requester has withdrawn, by port × 4 + channel: they are not chosen again while it is gone (R233). -/
  withdrawn : List Nat := []
  injPar : Bool := false
  /-- AGE_DROP, STALE, PAR_ERR, REDIRECT, DMA_TIMEOUT, WITHDRAW, then OUT_FLITS of the six ports (Table 9.11). -/
  ctr : Tab Word := {}
  dma : List Dma := []
  dmaSeq : BitVec 16 := 0
  dmaDone : BitVec 16 := 0
  tagGen : Tab (BitVec 4) := {}
  tagQuar : Tab Nat := {}
  lastTag : Nat := 4095
  trackers : List Tracker := []
  errCode : Code := 0
  errCore : BitVec 4 := 0
  flags : Tab Word := {}
  /-- DMA faults that a core takes at its next DQ or DWAIT (R240). -/
  faults : Tab Code := {}
  /-- Packets ejected at LOCAL or AGENT, waiting for what they reach. -/
  ejected : List (Nat × Packet) := []
  deriving DecidableEq, Repr

/-- A weighted event in a cove's history (R342). -/
structure ScoreEvent where
  code : Code
  weight : Nat
  at_ : Nat
  deriving DecidableEq, Repr

/-- The states of a cove under fencing (Table 14.4, IG_STATUS.STATE). -/
inductive CoveState where
  | normal | suspect | watch | fenced | held
  deriving DecidableEq, Repr

/-- A signature that waits for its other half (R337, R338). -/
structure PairSig where
  pair : Nat
  step : Nat
  attempt : Nat
  sig : BitVec 64
  fromCove : Nat
  /-- The pair has been compared; the primary's signature stays until its step commits or rolls back, for a replay of the step that ran
  the shadow (R48). -/
  compared : Bool := false
  deriving DecidableEq, Repr

/-- A cove error that carried weight and whose fault signature record is still to be formed (R346): what the record says of the
moment of the error. `exported` marks it under R347. -/
structure SigPending where
  code : Code
  time : Nat
  tstate : BitVec 2
  at_ : Nat
  log : Option Nat
  bay : Option Nat
  step : Option (Nat × Nat)
  window : Nat
  total : Nat
  score : Nat
  state : Nat
  op : Nat
  temp : Nat
  partner : Option Nat := none
  exported : Bool := false
  /-- Unit, location, descriptor TAG and operand hash as the error left them (Tables 13.7 and 13.8). -/
  unit : Nat := 0
  loc : Option (List Nat) := none
  tag : Option Nat := none
  hash : Option (BitVec 256) := none
  deriving DecidableEq, Repr

/-- An operation of an enabled pair that the cove's array has accepted: its key in the pair table, the primary's step and its attempt, its
descriptor's TAG (R338, R346). -/
structure PairOp where
  key : Nat
  step : Nat
  attempt : Nat
  tag : Nat := 0
  deriving DecidableEq, Repr

/-- Checking and fault counting of one cove (chapter 13). -/
structure Integ where
  events : List ScoreEvent := []
  state : CoveState := .normal
  pattern : Bool := false
  /-- EVENTS, SH_MATCH, SH_MISMATCH, SH_MISSING, SH_NOOP, CONV_ERR (Table 13.11). -/
  ctr : Tab Word := {}
  /-- IG_HIST entries, newest first: code, weight and elapsed time. -/
  hist : List ScoreEvent := []
  pairs : Tab Word := {}
  primSigs : List PairSig := []
  shadowSigs : List PairSig := []
  /-- The step attempts (or, without a slot, the 200 µs periods) of the latest weighted errors, newest first (R341). -/
  weighted : List (Nat × Nat × Nat) := []
  totalEvents : Nat := 0
  totalRecords : Nat := 0
  unrecorded : List SigPending := []
  /-- The cove's fail code of the step attempt in progress: step, attempt, code (R44, R45). -/
  failed : List (Nat × Nat × Code) := []
  /-- Step attempts whose pass vote waits for the last results of their operations (R92). -/
  owed : List (Nat × Nat) := []
  /-- Operations of enabled pairs that the cove's array has accepted for uncommitted steps (R338). -/
  paired : List PairOp := []
  deriving DecidableEq, Repr

/-- The telemetry block of a cove (Table 1.2): the temperature last sensed in its field, °C; droop trips of its field; cycles that its
array has streamed (log entry 144); the record delivered last (R221). -/
structure Telem where
  temp : Nat := 0
  droops : Word := 0
  activity : Word := 0
  record : List Byte := []
  deriving DecidableEq, Repr

/-- A physical cove (R21). -/
structure Cove where
  cores : Tab PCore := {}
  /-- Keyed by core × 3 + plane (0 scalar, 1 vector, 2 control). -/
  latches : Tab Latches := {}
  brk : Breaker := {}
  sp : Scratchpad := {}
  spx : SpExtra := {}
  ch : Channels := {}
  tide : Tide := {}
  net : Net := {}
  ig : Integ := {}
  telem : Telem := {}
  deriving DecidableEq, Repr

end Sys2Proof.Machine
end

