-- ==== Sys2Proof/Machine/StateBay.lean ====
section
/-!
DEFINITION. The state of a bay (its record, program, steps and work), of the sessions, connections and ports that reach it.
Every field's default is its value at reset.
-/

namespace Sys2Proof.Machine

/-- A piece of held output of a step (R42, R310): its offset in the output area and its bytes; `bad` are the offsets in the area of
bytes that fail parity in the hold buffer (R332). -/
structure OutPart where
  off : Nat
  data : List Byte
  bad : List Nat := []
  deriving DecidableEq, Repr

/-- A step that has started and not yet committed (R34), or whose commit is not yet acknowledged (R47). -/
structure StepRec where
  no : Nat
  attempt : Nat := 0
  drain : Bool := false
  /-- Commit mode the step runs in: two-step (R45, R54). -/
  two : Bool := false
  /-- The bay's shadow level and watch mask as the step began: its pairs are judged by them, in the step after it too (R52, R336). -/
  level : Nat := 0
  watch : List Nat := []
  startedAt : Nat := 0
  /-- Elapsed time of B(no), once reached. -/
  endedAt : Option Nat := none
  /-- The combined vote: none until it has arrived (R44). -/
  vote : Option Bool := none
  code : Code := 0
  /-- The recorded code is a hardware error (R130). -/
  hw : Bool := false
  /-- Physical coves whose cove errors fail the step (R344), and a schedule violation's code, switch and cycle (R203). -/
  culprits : List Nat := []
  viol : Option (Code × Nat × Nat) := none
  /-- Shadow mismatches: the physical coves of the primary and of the shadow (R344). -/
  mismatches : List (Nat × Nat) := []
  /-- Commit message applied; controllers that have not acknowledged (R47). -/
  committed : Bool := false
  waitAck : List Nat := []
  held : List OutPart := []
  deriving DecidableEq, Repr

/-- A failed step that waits for its replay (R48, R49). -/
structure ReplayRec where
  no : Nat
  attempt : Nat
  code : Code
  drain : Bool := false
  /-- The replay waits for slot moves in these segments (R344, R203). -/
  moves : List Nat := []
  culprits : List Nat := []
  viol : Option (Code × Nat × Nat) := none
  decided : Bool := false
  deriving DecidableEq, Repr

/-- What a piece of work is: a RUN, or a GENERATE in a berth (R319, R320). -/
inductive WorkKind where
  | run | generate
  deriving DecidableEq, Repr

/-- A queued or running RUN or GENERATE (R319 to R322). -/
structure Work where
  kind : WorkKind
  /-- The session's value: generation × 256 + bay × 16 + slot (Table 11.7). -/
  sess : Nat
  cmdId : BitVec 32
  deadline : Nat := 0
  maxSteps : Nat := 0
  entry : Nat := 0
  inAddr : Nat := 0
  inLen : Nat := 0
  outLen : Nat := 0
  prompt : List Byte := []
  maxNew : Nat := 0
  temp : Word := 0
  topK : Nat := 0
  seed : BitVec 64 := 0
  tokens : Nat := 0
  /-- First step of the work, and module time of a sequence's first token (R320). -/
  firstStep : Nat := 0
  firstTok : Option Nat := none
  start : Nat := 0
  steps : Nat := 0
  stepsBegun : Nat := 0
  rollbacks : Nat := 0
  energy : Nat := 0
  cancelled : Bool := false
  /-- The work has begun its last step; it completes at that step's commit with this code (R309). -/
  lastStep : Option (Nat × Code) := none
  outBad : Bool := false
  deriving DecidableEq, Repr

/-- Work that has ended while committed steps of it still wait for their controllers: its completion follows their output (R309,
R310). `upTo` is the last of those steps, `berth` a sequence's berth. -/
structure Ending where
  work : Work
  berth : Option Nat := none
  code : Code
  cancelled : Bool
  upTo : Nat
  deriving DecidableEq, Repr

/-- A part entry of a program image with its bytes (R430). -/
structure Part where
  kind : Nat
  shape : Nat
  lcove : Nat
  core : Nat
  body : List Byte
  deriving DecidableEq, Repr

/-- A loaded program (Table 17.8): its header fields, its parts and its measurement. -/
structure Program where
  flags : BitVec 16 := 0
  phases : Nat := 1
  shapes : Nat := 0
  entrySets : Nat := 0
  berths : Nat := 0
  stepCycles : Nat := 0
  granDecl : Nat := 0
  powerW : Nat := 0
  holdDecl : Nat := 0
  tokenNs : Nat := 0
  cacheAddr : Nat := 0
  progLen : Nat := 0
  signer : BitVec 64 := 0
  measure : BitVec 256 := 0
  /-- It came as the image's cargo model (R320, R328). -/
  cargo : Bool := false
  parts : List Part := []
  deriving DecidableEq, Repr

/-- An HBM extent of a bay (Table 10.3): stack, first physical byte, length and the bay-relative address it starts at. -/
structure Extent where
  stack : Nat
  page : Nat
  pages : Nat
  base : Nat
  deriving DecidableEq, Repr

/-- A bay record (Table 17.7). Key indices 0xFFFF are none. -/
structure BayRecord where
  bay : Nat
  level : Nat
  queueDepth : Nat
  berthQuota : Nat
  minShare : Nat
  capW : Nat
  granQuota : Nat
  holdQuota : Nat
  seed : BitVec 64
  uwinBase : Nat
  uwinLen : Nat
  ownerKey : Nat
  userKeys : List Nat
  coves : List Nat
  extents : List Extent
  deriving DecidableEq, Repr

/-- A step hint (R325, R412). -/
structure Hint where
  step : Nat
  steps : Nat
  watts : Nat
  /-- Core-rail voltage that it has raised to, in mV. -/
  raised : Option Nat := none
  deriving DecidableEq, Repr

/-- A program load under way (R318). -/
structure LoadRec where
  session : Nat
  cmdId : BitVec 32
  addr : Nat
  length : Nat
  seed : Option (BitVec 64)
  start : Nat
  /-- The load has succeeded; its completion waits for one operating point on both halves (R390). -/
  held : Bool := false
  deriving DecidableEq, Repr

/-- A member of the set that the eddy detector's last pass found: cove, core, PC and retired count (R451). -/
structure EddyMember where
  cove : Nat
  core : Nat
  pc : Nat
  retired : Word
  deriving DecidableEq, Repr

/-- Hang and reset state of a bay (Table 18.6). -/
structure Hang where
  progress : Word := 0
  resetting : Bool := false
  recovering : Bool := false
  resetRec : Code := 0
  resetStep : BitVec 48 := 0
  resets : Word := 0
  recoverUs : Word := 0
  eddyCode : Code := 0
  eddySize : BitVec 14 := 0
  eddyNew : Bool := false
  eddyMem : Tab Word := {}
  eddyLast : List EddyMember := []
  eddyAt : Nat := 0
  /-- A reset asked for: the code it would record; the session, command and start of each BAY_RESET that waits (R456). -/
  asked : Option Code := none
  askers : List (Nat × BitVec 32 × Nat) := []
  /-- When the reset took effect, and for how long the module has been parked since (R459). -/
  entryAt : Nat := 0
  parkedNs : Nat := 0
  /-- Coves whose parts have failed a digest check once in this recovery (R460). -/
  retries : List Nat := []
  /-- Tables and instruction memories are reloaded; the seam paths align again (R459 steps 5 to 7). -/
  reloaded : Bool := false
  /-- Recovery window: open, and since when its first step has run (R449). -/
  window : Bool := false
  windowAt : Option Nat := none
  deriving DecidableEq, Repr

/-- Power state of a bay (R405, R408). -/
structure BayPower where
  capW : Nat := 0xFFFF
  capNext : Option Nat := none
  /-- Duty in eighths less one, and its change waiting for a boundary (R408); OVER; refusal. -/
  duty : BitVec 3 := 7
  dutyNext : Option (BitVec 3) := none
  exceeded : Bool := false
  meanW : Nat := 0
  idleW : Nat := 0
  energy : BitVec 64 := 0
  deriving DecidableEq, Repr

/-- Step registers and step control of a bay (chapter 02). -/
structure Steps where
  next : Nat := 1
  committed : Nat := 0
  live : List StepRec := []
  acking : List StepRec := []
  replay : Option ReplayRec := none
  twoStep : Bool := false
  wantTwo : Bool := false
  draining : Bool := false
  rollbacks : Word := 0
  lbCode : Code := 0
  lbReplay : BitVec 2 := 0
  lbStopped : Bool := false
  /-- Elapsed times of the latest step starts, newest first, at most as many as 256 quanta hold (R323, R407). -/
  starts : List Nat := []
  /-- Elapsed time at which the last step ended or was discarded (R387). -/
  lastEnd : Nat := 0
  /-- The schedule violation that failed the first replay of the step being replayed (R203). -/
  lastViol : Option (Code × Nat × Nat) := none
  deriving DecidableEq, Repr

/-- A bay (chapters 02, 12, 14, 16, 18). -/
structure Bay where
  record : Option BayRecord := none
  program : Option Program := none
  shape : Nat := 0
  shrunk : Bool := false
  wantShape : Option Nat := none
  seed : BitVec 64 := 0
  stopped : Option Code := none
  run : Option Work := none
  berths : Tab Work := {}
  queue : List Work := []
  ending : List Ending := []
  load : Option LoadRec := none
  /-- PROGRAM_UNLOADs that wait for a boundary: session, CMD_ID, start. -/
  unloads : List (Nat × BitVec 32 × Nat) := []
  hints : List Hint := []
  level : Nat := 0
  levelNext : Option Nat := none
  /-- Logical coves whose physical cove is on watch, and the watch mask in force since the last boundary (R336). -/
  watch : List Nat := []
  watchMask : List Nat := []
  /-- Segments whose handover the bay holds for until the epoch swap (R356). -/
  hold : List Nat := []
  st : Steps := {}
  hang : Hang := {}
  pwr : BayPower := {}
  deriving DecidableEq, Repr

/-- Session slot states (Table 12.11) and roles (Table 12.2). -/
inductive SessState where
  | free | opening | open_ | orphaned
  deriving DecidableEq, Repr

inductive Role where
  | none_ | user | bay | owner
  deriving DecidableEq, Repr

/-- An RDMA region (R315). -/
structure Region where
  rkey : BitVec 32
  kind : Nat
  read : Bool
  write : Bool
  addr : Nat
  len : Nat
  deriving DecidableEq, Repr

/-- A session slot (R313, R314): keyed by bay × 16 + slot. -/
structure Session where
  state : SessState := .free
  role : Role := .none_
  gen : BitVec 8 := 0
  qp : Nat := 0
  port : Nat := 0
  key : Nat := 0
  hostPort : BitVec 16 := 0
  seq : Nat := 0
  lastSeq : Nat := 0
  openAt : Nat := 0
  orphanAt : Nat := 0
  lastBeat : Nat := 0
  /-- Datagrams kept for RESEND, oldest first: SEQ and bytes (R312). -/
  kept : List (Nat × List Byte) := []
  regions : List Region := []
  /-- Commands accepted whose completion is outstanding: CMD_ID and opcode (R305). -/
  outstanding : List (BitVec 32 × BitVec 8) := []
  /-- Cause of the latest NAK that ended its connection (R286). -/
  lastNak : Code := 0
  energy : BitVec 64 := 0
  deriving DecidableEq, Repr

/-- An open whose signature is being verified (R313). -/
structure Opening where
  bay : Nat
  slot : Option Nat
  resume : Option Nat
  key : Nat
  hostPort : BitVec 16
  cmdId : BitVec 32
  code : Code
  start : Nat
  deriving DecidableEq, Repr

/-- States of a queue pair (R282, R286). -/
inductive QpState where
  | free | connecting | ready | error
  deriving DecidableEq, Repr

/-- An RDMA WRITE in progress on a connection (R283): its R_Key, next address and bytes left. -/
structure WriteRec where
  rkey : BitVec 32
  addr : Nat
  left : Nat
  deriving DecidableEq, Repr

/-- A READ gather in progress (R287). -/
structure GatherRec where
  psn : BitVec 24
  rkey : BitVec 32
  addr : Nat
  len : Nat
  at_ : Nat
  /-- What the code of the stacks finds in the codewords when they are read. -/
  ecc : List (Nat × Ecc) := []
  deriving DecidableEq, Repr

/-- A queue pair (R282 to R288). Rates in units of Mbit/s; `alpha` in units of 2^-16. -/
structure Qp where
  state : QpState := .free
  port : Nat := 0
  peerMac : BitVec 48 := 0
  peerIp : BitVec 128 := 0
  epsn : BitVec 24 := 0
  nakOut : Bool := false
  resources : Nat := 0
  nonce : Option (BitVec 128 × Nat) := none
  /-- Opens whose signatures are being verified, in order. -/
  opens : List Opening := []
  write : Option WriteRec := none
  gathers : List GatherRec := []
  rate : Nat := 0
  target : Nat := 0
  alpha : Nat := 0
  rateSteps : Nat := 0
  byteSteps : Nat := 0
  rateAt : Nat := 0
  alphaAt : Nat := 0
  bytes : Nat := 0
  cnpAt : Option Nat := none
  /-- When the next READ Response packet of the queue pair may leave at its rate (R288). -/
  nextAt : Nat := 0
  deriving DecidableEq, Repr

/-- A frame that a port sends (R295). -/
inductive TxFrame where
  | datagram (session : BitVec 16) (qp : Nat) (kind : BitVec 8) (seq : Nat) (body : List Byte)
  | ack (qp : Nat) (psn : BitVec 24)
  | nak (qp : Nat) (psn : BitVec 24) (syndrome : BitVec 8)
  | readResp (qp : Nat) (psn : BitVec 24) (op : BitVec 8) (data : List Byte)
  | cnp (qp : Nat)
  | cm (mac : BitVec 48) (ip : BitVec 128) (qp : Nat) (msg : BitVec 8) (reason : Nat)
  | arp (target : BitVec 48) (ip : BitVec 32)
  | neighbor (target : BitVec 48) (ip : BitVec 128)
  | echo (target : BitVec 48) (ip : BitVec 128) (body : List Byte)
  | pause (prio : Nat) (quanta : BitVec 16)
  | delayReq (target : BitVec 48) (domain : BitVec 8)
  deriving DecidableEq, Repr

/-- A frame with the addresses that it goes to and, of a datagram, its UDP ports (R281, R297, R510); its VLAN tag with priority (R280,
R289), its ECN codepoint, 2 being ECT(0) (R288), and the syndrome of its ACK header, 31 being an ACK without a credit limit (R284). -/
structure Tx where
  mac : BitVec 48
  ip : BitVec 128
  sport : Nat
  dport : Nat
  tag : Option (BitVec 3 × BitVec 12)
  ecn : BitVec 2
  aeth : Option (BitVec 8)
  frame : TxFrame
  deriving DecidableEq, Repr

/-- A planned link-ending event of a port (R299, R300). -/
structure Departure where
  reason : Code
  scope : BitVec 8
  downAt : Nat
  downMs : Nat
  retrain : Bool
  deriving DecidableEq, Repr

/-- PTP port state (R292, Table 11.14). -/
structure Ptp where
  state : BitVec 3 := 0
  domain : BitVec 8 := 0
  offset : Word := 0
  delay : Word := 0
  quality : Option Nat := none
  /-- Elapsed time of the latest Sync. -/
  lastSync : Option Nat := none
  deriving DecidableEq, Repr

/-- DCQCN parameters of a port (Table 11.5). -/
structure Dcqcn where
  gShift : Nat := 8
  cnpUs : Nat := 50
  alphaUs : Nat := 55
  rateUs : Nat := 55
  byteKb : Nat := 10000
  raiMbps : Nat := 40
  rhaiMbps : Nat := 400
  minMbps : Nat := 100
  deriving DecidableEq, Repr

/-- An Ethernet port (chapter 11). -/
structure Port where
  width : BitVec 3 := 0
  medium : Bool := false
  training : Bool := false
  reduced : Bool := false
  disabled : Bool := false
  enabled : Bool := false
  attempt : Nat := 0
  /-- Elapsed time at which the latest training sequence began. -/
  trainAt : Nat := 0
  /-- Elapsed time at which the attempt in progress began. -/
  attAt : Nat := 0
  lanes : List (BitVec 2) := [0, 0, 0, 0]
  lastEvt : Code := 0
  nakCode : Code := 0
  nakQp : BitVec 9 := 0
  /-- The 14 counters of Table 11.14, in its order. -/
  ctr : Tab Word := {}
  lastRetrain : Option Nat := none
  mac : BitVec 48 := 0
  ip4 : BitVec 32 := 0
  ip6 : BitVec 128 := 0
  vlan : Option (BitVec 12) := none
  pcp : BitVec 3 := 0
  udp : Nat := 11536
  pfcEn : Bool := false
  pfcPrio : Nat := 0
  pausedTill : Nat := 0
  deriving DecidableEq, Repr

/-- What a port holds besides its registers: command queue, the two transmit queues and the frames that have left, receive buffer,
departure, time, rates. -/
structure PortQueues where
  cmds : List JCmd := []
  /-- The queue of strict priority and the second queue (R295), oldest first. -/
  first : List Tx := []
  second : List Tx := []
  /-- Frames that have left, oldest first; half-bytes of the latest one that the wire still has to take. -/
  tx : List Tx := []
  owed : Nat := 0
  /-- Half-bytes in the receive buffer; has PAUSE been sent (R289)? -/
  rxHalf : Nat := 0
  pausing : Bool := false
  departing : Option Departure := none
  ptp : Ptp := {}
  dcqcn : Dcqcn := {}
  deriving DecidableEq, Repr

end Sys2Proof.Machine
end

