-- ==== Sys2Proof/Machine/StateModule.lean ====
section
/-!
DEFINITION. The state that belongs to the module: HBM stacks, the module-wide part of the network, integrity and
rotation, clocks and the seam, power, start-up and the image in force, identity, the management block, the pins. Every
field's default is its value at reset.
-/

namespace Sys2Proof.Machine

/-- A shadow table entry (R261, R262): the granule and the bay and step attempt that write it, its physical granule, the
256-byte chunks that are fresh (written) or copied, whether its step has committed. -/
structure Shadow where
  granule : Nat
  bay : Nat
  step : Nat
  phys : Nat
  fresh : List Nat := []
  copied : List Nat := []
  committed : Bool := false
  /-- Partial writes that wait for their chunk's copy: bay-granule offset and bytes (R262). -/
  waiting : List (Nat × List Byte) := []
  /-- Deadline of the write that took it, which its copies carry (R255). -/
  deadline : BitVec 16 := 0
  deriving DecidableEq, Repr

/-- A correctable error record (R266). -/
structure CeRec where
  pc : Nat
  bank : Nat
  row : Nat
  at_ : Nat
  deriving DecidableEq, Repr

/-- A talus map entry (R268): the row it replaces, the spare row, the way it stands in; temporary until soft repair (R267). -/
structure Talus where
  pc : Nat
  bank : Nat
  row : Nat
  spare : Nat
  temporary : Bool
  way : Nat
  deriving DecidableEq, Repr

/-- A request at a controller (R255): the row it reaches, its deadline; for a stream read the port, the descriptor and the first
word of the chunk that it fills. -/
structure HbmReq where
  pc : Nat
  bank : Nat
  row : Nat
  deadline : BitVec 16
  fill : Option (Nat × Nat × Nat) := none
  deriving DecidableEq, Repr

/-- An HBM controller (chapter 10). The granule map lists only granules that do not map to themselves (R261). -/
structure Stack where
  trained : Bool := false
  selfRef : Bool := false
  disabled : Bool := false
  map : Tab Nat := {}
  shadows : List Shadow := []
  poolNext : Nat := 385024
  poolFreed : List Nat := []
  poison : List Nat := []
  ce : List CeRec := []
  talus : List Talus := []
  /-- A remap could not be made (R269); spare rows that failed. -/
  talusFull : Bool := false
  badSpares : List (Nat × Nat) := []
  softUsed : List (Nat × Nat) := []
  scrubEn : Bool := true
  injCe : Bool := false
  /-- Codewords (physical granule × 2,048 + index) with one flipped bit (R272). -/
  flipped : List Nat := []
  temp : Nat := 0
  errCode : Code := 0
  errLoc : Word := 0
  /-- CE, UE, REPAIRS, ROWHIT, LATE, RD_64K, WR_64K, CE_EVICT (Table 10.9). -/
  ctr : Tab Word := {}
  rdBytes : Nat := 0
  wrBytes : Nat := 0
  talSel : Nat := 0
  scrubAt : Nat := 0
  /-- When the present pass of patrol scrub began (R256). -/
  scrubFrom : Nat := 0
  refreshed : Tab Nat := {}
  /-- Requests that wait, oldest first; the open row of each bank (pseudo-channel × 48 + bank); consecutive passes over the earliest
  request, by pseudo-channel (R255). -/
  reqs : List HbmReq := []
  openRow : Tab Nat := {}
  passed : Tab Nat := {}
  trackers : List Tracker := []
  lossAt : Option Nat := none
  /-- The stack must retrain before it leaves self-refresh (R384, R386). -/
  retrain : Bool := false
  deriving DecidableEq, Repr

/-- A stream descriptor queued at a port (R257, R259). -/
structure StreamDesc where
  write : Bool
  addr : Nat
  words : Nat
  cycle : Nat
  stride : Nat
  step : Nat
  posted : Nat
  /-- The port's number of the descriptor; words that have moved at the port; read words asked for. -/
  id : Nat := 0
  done : Nat := 0
  asked : Nat := 0
  deriving DecidableEq, Repr

/-- A word of a port's read buffer: descriptor, word number, data, poison (R257, R265). -/
structure ReadWord where
  id : Nat
  word : Nat
  data : Row
  poison : Bool
  deriving DecidableEq, Repr

/-- A word of a port's write buffer: data, parity, bay-relative address, the step it belongs to, its deadline (R257, R258). -/
structure WriteWord where
  data : Row
  ok : Bool
  addr : Nat
  step : Nat
  deadline : BitVec 16
  deriving DecidableEq, Repr

/-- A stream port (R257 to R259), keyed by logical cove index: the descriptor words, the FIFO, descriptors of uncommitted steps
that have ended, the read and the write buffer. -/
structure StreamPort where
  d : Tab Word := {}
  fifo : List StreamDesc := []
  served : List StreamDesc := []
  rdBuf : List ReadWord := []
  wrBuf : List WriteWord := []
  nextId : Nat := 0
  late : Word := 0
  deriving DecidableEq, Repr

/-- The module-wide part of the current network (R219, R235, R237): both versions of the tables (each route table held as
the disabled links, router and output port, from which Headland computed it; log entry 20), the epoch in force, an epoch
swap under way. -/
structure NetModule where
  /-- The disabled links that Headland computed the routes of version 0 and 1 from, none where it has written no table yet. -/
  links0 : Option (List (Nat × Nat)) := none
  links1 : Option (List (Nat × Nat)) := none
  map0 : Tab Nat := {}
  map1 : Tab Nat := {}
  valid0 : Bool := false
  valid1 : Bool := false
  /-- SWAP_AT of the swap that Headland has armed, in time units since network time began (R237). -/
  swap : Option Nat := none
  /-- Until when packets of the version no longer in force may still travel: OLD_FREE reads 0 (R237). -/
  oldUntil : Option Nat := none
  /-- Tables that wait for the other version to be free, and how far ahead their swap lies (R235). -/
  wanted : Option (Tab Nat × Nat) := none
  /-- Rolled-back step attempts whose packets are dropped: bay, step mod 4, attempt, and the time unit of the rollback (R243). -/
  dropped : List (Nat × Nat × Nat × Nat) := []
  deriving DecidableEq, Repr

/-- A fault signature record (R346): its number, what it is about, its bytes and its EXPORTED mark (R347). -/
structure SigRec where
  seq : Nat
  cove : Nat
  code : Code
  at_ : Nat
  ophash : Option (BitVec 256)
  bytes : List Byte
  exported : Bool := false
  /-- Number of the log entry with which the copy of an exported record begins (R347). -/
  logNo : Nat := 0
  deriving DecidableEq, Repr

/-- Integrity state of the module (Table 13.11); `sigs` newest first, `loggedHashes` those logged with 0xB040 (R345). -/
structure IntegModule where
  sigs : List SigRec := []
  loggedHashes : List (BitVec 256) := []
  sigCount : Nat := 0
  sigSel : Word := 0
  ctrlCove : BitVec 10 := 0
  deriving DecidableEq, Repr

/-- Self-test phases of a cove (R362), and none. -/
structure FieldTest where
  /-- The cove under test, and the phase it is in (Table 14.6); `pending` is a test chosen but not started. -/
  cove : Option Nat := none
  phase : BitVec 3 := 0
  pending : Option Nat := none
  capReady : Bool := true
  capAt : Option Nat := none
  queue : List Nat := []
  walk : Nat := 0
  /-- Elapsed time of the field's next test slot, once the walk has begun (R360). -/
  slotAt : Option Nat := none
  /-- The test's outcome so far: 0 running, 1 passed, 2 failed, 3 abandoned; its failing phase; elapsed time of its save's
  start; weighted errors of the cove by then (R364, R369). -/
  result : BitVec 2 := 0
  failPhase : BitVec 3 := 0
  startedAt : Nat := 0
  errorsAt : Nat := 0
  /-- The cove whose fence was abandoned and is tried again at the next slot (R358). -/
  retry : Option Nat := none
  deriving DecidableEq, Repr

/-- Self-test and watch record of a physical cove (Table 14.6). -/
structure CoveTest where
  requal : Nat := 0
  recurAt : Option Nat := none
  watchAt : Option Nat := none
  /-- The boundary by which the cove became a suspect: bay, step and attempt, or 16 and the elapsed time where no step ran (R367). -/
  suspectAt : Nat × Nat × Nat := (16, 0, 0)
  result : BitVec 2 := 0
  failPhase : BitVec 3 := 0
  clean : Bool := false
  cov1 : BitVec 14 := 0
  cov2 : BitVec 14 := 0
  dur : Word := 0
  endAt : Option Nat := none
  /-- Elapsed time, of this power-on or an earlier one, at which the first clean requalification test ended. -/
  cleanAt : Option Int := none
  /-- Fenced by a failed test or an unreachable router, without capacity (Table 14.4). -/
  forced : Bool := false
  /-- What the last eddy pass over the cove under test found, and since when (R451). -/
  eddyLast : List EddyMember := []
  eddyAt : Nat := 0
  deriving DecidableEq, Repr

/-- Why a handover moves a slot (R353, R357), or backs a dark one (R375). -/
inductive MoveKind where
  | test | fence | replay | back
  deriving DecidableEq, Repr

/-- A handover in a row segment (R354 to R358): the vacated cove and the spare that receives; without one, the slot
becomes dark (R371). -/
structure Handover where
  src : Nat
  dst : Option Nat
  kind : MoveKind
  moving : Bool := false
  /-- Arithmetic cycle of the half at which the move began. -/
  since : Nat := 0
  restarts : Nat := 0
  /-- Elapsed time at which the first bay held. -/
  holdAt : Option Nat := none
  counted : Bool := false
  /-- The dark logical cove that the move backs (R375). -/
  backs : Option Nat := none
  deriving DecidableEq, Repr

/-- Spares, rotation and self-test (chapter 14). Masks are of physical positions and of logical slots of a segment. -/
structure Rotation where
  /-- S7 has set the switches' selectors from the masks; until then every switch is isolated, as reset leaves it (R206, R214, R352). -/
  mapped : Bool := false
  holdMask : Tab (BitVec 20) := {}
  darkMask : Tab (BitVec 18) := {}
  /-- The fenced cove whose scratchpad still holds a dark slot's contents (R373). -/
  darkHome : Tab Nat := {}
  interval : BitVec 16 := 0x02D0
  pause : Bool := false
  sel : BitVec 10 := 0
  fields : Tab FieldTest := {}
  lastStart : Option Nat := none
  coves : Tab CoveTest := {}
  moves : Tab Handover := {}
  waiting : List (Nat × Handover) := []
  deriving DecidableEq, Repr

/-- States of a PLL (R382) and a seam path (R207). -/
inductive PllState where
  | off | acquiring | stable | coasting
  deriving DecidableEq, Repr

structure Pll where
  state : PllState := .off
  lock : Bool := false
  active : Bool := false
  fbdiv : Nat := 0
  enabledAt : Nat := 0
  retried : Bool := false
  /-- It was not stable in time twice (R382). -/
  failed : Bool := false
  losses : List Nat := []
  deriving DecidableEq, Repr

inductive SeamState where
  | closed | aligning | open_
  deriving DecidableEq, Repr

structure SeamPath where
  state : SeamState := .closed
  since : Nat := 0
  clean : Nat := 0
  fails : Nat := 0
  disabled : Bool := false
  /-- Entries by which the read pointers of the 4-entry elastic buffers trail the write pointers: 2 once aligned (R208, R391). -/
  trail : Nat := 0
  /-- Closed by a slip: it aligns again at the next boundary (Table 8.7). -/
  slipped : Bool := false
  deriving DecidableEq, Repr

/-- A half of the die: operating point, its target, a change under way, sleep, its arithmetic clock in 1/160 cycle. -/
structure Half where
  op : Nat := 0
  target : Nat := 0
  changing : Bool := false
  holding : Bool := false
  holdAt : Option Nat := none
  ebb : Bool := false
  /-- Since when the half enters EBB with its PLLs still on (R388). -/
  ebbAt : Option Nat := none
  capOp4 : Bool := false
  cyc160 : Nat := 0
  /-- Units of its clock that a droop stretch still suppresses; cycles at which stretches begin, and of the latest trip (R403). -/
  skip : Nat := 0
  stretch : List Nat := []
  tripAt : Option Nat := none
  /-- Core voltage as the sequencer has it, in mV; when its latest step began (R402). -/
  mv : Nat := 600
  mvAt : Option Nat := none
  deriving DecidableEq, Repr

/-- Sleep states of a domain (R387). -/
inductive Sleep where
  | run | slack | ebb
  deriving DecidableEq, Repr

/-- Module time (R290, R291): TAI nanoseconds, its state, the slew still to make. -/
structure ModTime where
  ns : Nat := 0
  state : BitVec 2 := 0
  stepped : Bool := false
  freq : Word := 0
  slew : Int := 0
  master : Option Nat := none
  /-- The part of a nanosecond that the frequency correction has gathered, in 10⁻⁹ ns. -/
  frac : Int := 0
  deriving DecidableEq, Repr

/-- Clocks (chapter 15): simulated nanoseconds, elapsed time on the neap clock, the current-network clock in 1/1000 cycle. -/
structure Clocks where
  now : Nat := 0
  elapsed : Nat := 0
  cnMilli : Nat := 0
  /-- Current-network cycle at which network time NOW was 0 (R219, R386). -/
  cnBase : Nat := 0
  cnOn : Bool := false
  refOk : Bool := false
  lost : Bool := false
  lostSeen : Bool := false
  neapSrc : Bool := true
  /-- Since when REFCLK is absent (R379). -/
  refAwayAt : Nat := 0
  /-- The internal oscillator's part of a nanosecond in thousandths; a fifth of a nanosecond is the unit of the time since the last edge of the
  neap clock; at the next edge the clock moves to REFCLK (R380). -/
  neapFrac : Nat := 0
  neapPhase : Nat := 0
  neapDue : Bool := false
  /-- After a loss of REFCLK: Headland's PLL and one of the current network are stable again (R386, step 1). -/
  regained : Bool := false
  slackUs : BitVec 16 := 10
  ebbMs : BitVec 16 := 10
  lossCnt : Word := 0
  relockCnt : Word := 0
  errCode : Code := 0
  errPll : BitVec 5 := 0x1F
  plls : Tab Pll := {}
  halves : Tab Half := {}
  seam : Tab SeamPath := {}
  /-- Sleep state of coves 0 to 799, stacks at 1000 + s, ports at 2000 + p, the jetty, routers and Headland at 3000, with since when. -/
  sleep : Tab (Sleep × Nat) := {}
  deriving DecidableEq, Repr

/-- Causes of a park (R411). -/
inductive ParkCause where
  | overtemp | auxLoss | mainHigh | mate | phases (half : Nat)
  deriving DecidableEq, Repr

/-- Power (chapter 16). -/
structure Power where
  capUnmet : Bool := false
  refusing : Bool := false
  duty : BitVec 3 := 7
  glideCause : Option GlideCause := none
  parks : List ParkCause := []
  opTarget : BitVec 4 := 0
  hintMv : BitVec 6 := 0x19
  capW : Nat := 0
  capNext : Option Nat := none
  inPeriod : BitVec 16 := 0
  inFast : BitVec 16 := 0
  errCode : Code := 0
  emerg : Word := 0
  /-- Failed regulator phases: core rails 0 to 3, then VLINK, VPHY and VHBM's supplies (R398). -/
  failed : Tab Nat := {}
  droop : Tab Word := {}
  /-- Consecutive periods above, and at or below, the cap (R406, R407). -/
  above : Nat := 0
  below : Nat := 0
  deriving DecidableEq, Repr

/-- The rest of the power state: measurements of the last period, junctions, overhead energy, main regulators on. -/
structure PowerMore where
  coreW : Nat := 0
  energy : BitVec 64 := 0
  celsius : Tab Nat := {}
  mainRegs : Bool := false
  lastPeriod : Nat := 0
  /-- Elapsed time of the latest attribution (R413). -/
  energyAt : Option Nat := none
  /-- Voltage and current of the main and the auxiliary input, as last sampled, in units of 10 mV and 10 mA (Table 16.7). -/
  mainVI : Word := 0
  auxVI : Word := 0
  /-- The samples of the last 2 ms, newest first: input power in units of 0.1 mW, current at 56 V in units of 10 mA (R395, R410). -/
  samples : List (Nat × Nat) := []
  /-- Sum of the present control period's powers, and how many they are. -/
  periodSum : Nat := 0
  periodN : Nat := 0
  /-- The auxiliary input has been lost; while the hold-up converter feeds its domain, when that was (R397). -/
  auxLost : Bool := false
  holdup : Option Nat := none
  deriving DecidableEq, Repr

/-- A sounding (Table 17.14) as it stands in SU_SOUND and SU_DUR. -/
structure Sounding where
  result : BitVec 8 := 0
  done : Bool := false
  code : Code := 0
  dur : Word := 0
  body : List Byte := []
  deriving DecidableEq, Repr

/-- A repair journal entry (R432, Table 17.11). -/
structure JEntry where
  kind : Nat
  seq : Nat
  body : List Byte
  deriving DecidableEq, Repr

/-- The MODULE section in force (Table 17.5). -/
structure ModuleRec where
  quantum : Nat := 200
  capW : Nat := 0xFFFF
  rotInterval : BitVec 16 := 0x02D0
  ownerKey : Nat := 0xFFFF
  slackUs : BitVec 16 := 10
  ebbMs : BitVec 16 := 10
  deriving DecidableEq, Repr

/-- An owner record (Table 19.4) that is valid. -/
structure OwnerRec where
  seq : Nat
  floor : Nat
  signer : BitVec 64
  key : List Byte
  deriving DecidableEq, Repr

/-- The image in force and what start-up read (chapters 17, 19). Devices are byte memories keyed by device × 2^30 + offset;
an unlisted byte reads 0, `nvErased` names the ranges that read erased (log entry 11). -/
structure Image where
  dev : Memory := {}
  slot : Option Nat := none
  version : BitVec 64 := 0
  measure : BitVec 256 := 0
  module : ModuleRec := {}
  keys : List (List Byte) := []
  /-- The two port records of Table 17.6, the bay records, the parts of the FIRMWARE section. -/
  ports : List (List Byte) := []
  bays : List BayRecord := []
  standby : List Byte := []
  tests : List Byte := []
  /-- The cargo section's offset in the slot and length, and its digest. -/
  cargo : Option (Nat × Nat) := none
  cargoDigest : BitVec 256 := 0
  slotACode : Code := 0
  slotBCode : Code := 0
  slotAValid : Bool := false
  slotBValid : Bool := false
  slotAFailed : Bool := false
  slotBFailed : Bool := false
  owner : Option OwnerRec := none
  ownerRoot : Bool := false
  floor : Nat := 0
  certs : List (List Byte) := []
  deriving DecidableEq, Repr

/-- Start-up (chapter 17). State: 0 running, 1 holding, 2 in service, 3 stopped (Table 17.16). -/
structure Startup where
  stage : BitVec 4 := 0
  state : BitVec 2 := 0
  /-- Since when the auxiliary input is in range, the stage runs, its limit counts, the start-up runs. -/
  auxSince : Option Nat := none
  /-- Coves that receive the standby image once more (R440). -/
  standbyAgain : List Nat := []
  stageAt : Nat := 0
  limitAt : Nat := 0
  totalAt : Nat := 0
  /-- The first code that held the stage. -/
  held : Code := 0
  errCode : Code := 0
  errStage : BitVec 4 := 0
  variantOk : Bool := false
  /-- The variant's limits are in force: S3 has run since power-on. -/
  variantSet : Bool := false
  order : BitVec 2 := 2
  maxOp : Nat := 4
  contW : Nat := 1100
  peakW : Nat := 0
  peakUs : Nat := 0
  sounds : Tab Sounding := {}
  totalMs : Word := 0
  refLogged : Bool := false
  /-- When S10 began, the code that the cargo read ended with, the work of S11 done, the code it left the cargo's bay with. -/
  s10At : Nat := 0
  cargoRead : Option Code := none
  s11Done : Bool := false
  cargoCode : Code := 0
  /-- Repair journal as held in memory, newest last, and what is still to be written to the devices (R432). -/
  journal : List JEntry := []
  jNext : Nat := 1
  jTodo : List JEntry := []
  jUsed : BitVec 12 := 0
  /-- Compaction has rewritten device 1 but not device 0. -/
  compacting : Bool := false
  /-- The code that last asserted FAULT_N (Table 20.4). -/
  faultCode : Code := 0
  deriving DecidableEq, Repr

/-- A token request waiting at Headland (R474, R475). -/
structure AttReq where
  session : Nat
  cmdId : BitVec 32
  bay : Option Nat
  nonce : List Byte
  start : Nat
  deriving DecidableEq, Repr

/-- Identity (chapter 19). -/
structure Identity where
  derived : Bool := false
  certified : Bool := false
  pub : List Byte := []
  jtagUsed : Bool := false
  queue : List AttReq := []
  lastErr : Code := 0
  attests : Word := 0
  deriving DecidableEq, Repr

/-- A log entry (Table 20.5); its detail is at most 48 bytes. -/
structure LogEntry where
  time : Nat
  code : Code
  kind : BitVec 8
  stage : BitVec 4
  cove : BitVec 16
  bay : BitVec 8
  detail : List Byte
  deriving DecidableEq, Repr

/-- The common block, the log and the non-volatile write window (chapter 20). `log` is newest first, at most 4,096 entries; `logHead` is
the number of the newest, `copied` that of the last one copied to the devices. -/
structure Mgmt where
  serial : List Byte := []
  log : List LogEntry := []
  logHead : Nat := 0
  copied : Nat := 0
  sel : Word := 0
  valid : Bool := false
  pending : Bool := false
  len : BitVec 7 := 0
  data : BitVec 512 := 0
  nvGo : Bool := false
  nvState : BitVec 2 := 0
  nvCode : Code := 0
  nvTarget : Word := 0
  nvData : Tab Word := {}
  /-- What an accepted non-volatile write will put on the devices: device address and bytes (R490). -/
  nvTodo : List (Nat × List Byte) := []
  deriving DecidableEq, Repr

/-- Pins, power inputs and the JTAG port (chapter 21). `mateN` false says that MATE_N has been low for 100 ms and not since high for
5 µs (R496, R497); the boundary cells are SOUND0 to SOUND3 and FAULT_N, an output and an enable cell each. -/
structure Pins where
  aux : Bool := false
  main : Bool := false
  mainHigh : Bool := false
  mateN : Bool := true
  /-- When a high MATE_N was detected that the module has yet to park for (R497). -/
  mateAt : Option Nat := none
  swClosed : Bool := false
  tapIr : BitVec 6 := 1
  tapReset : Bool := true
  boundary : BitVec 10 := 0
  extest : Bool := false
  hlOff : BitVec 28 := 0
  hlData : Word := 0
  hlValid : Bool := false
  hlDenied : Bool := false
  hlBusy : Bool := false
  /-- What the last Capture-DR of IDCODE captured. -/
  capture : BitVec 64 := 0
  deriving DecidableEq, Repr

/-- Maintenance (R271, R327): the ACTION 0 in force (session, CMD_ID, start), until when admission counts the bays as busy, the
ACTION 1 commands that wait for the window's end. -/
structure Maint where
  opening : Option (Nat × BitVec 32 × Nat) := none
  busyTill : Nat := 0
  closers : List (Nat × BitVec 32 × Nat) := []
  deriving DecidableEq, Repr

/-- The jetty's module-wide state (chapter 12). -/
structure Jetty where
  cmds : Word := 0
  rejects : Word := 0
  refusals : Word := 0
  late : Word := 0
  maint : Maint := {}
  trackers : List Tracker := []
  resetting : Bool := false
  /-- Elapsed time at which the latest command was parsed (R296); register commands whose answers wait for Headland (R384). -/
  parsedAt : Option Nat := none
  regWait : List JCmd := []
  deriving DecidableEq, Repr

end Sys2Proof.Machine
end

