-- ==== Sys2Proof/Machine/State.lean ====
section
/-!
DEFINITION. The state of the machine: every piece of state the spec gives it (INVENTORY.md lists them), the queue of
waiting commands, and the reasons a step can stop.
-/

namespace Sys2Proof.Machine

/-- Why a step stops with a fault. No command of the table does: `never` is raised by nobody, so it is safe. -/
inductive Fault where
  /-- Raised by nobody. Safe. -/
  | never
  deriving DecidableEq, Repr

/-- Why a command has no meaning here. -/
inductive Refusal where
  /-- Raised by an arm of `exec` whose command has no meaning yet. Safe: nothing is claimed of the command. -/
  | notModelled (mnemonic : String)
  deriving DecidableEq, Repr

/-- A latched high word: who read the low word, of which pair (its offset), and the value (R486). -/
structure Latch where
  who : Requester
  pair : BitVec 48
  value : Word
  deriving DecidableEq, Repr

/-- What the counters and W1C bits were at the beginning of the present nanosecond, which the model takes for one cycle of the
registers (R10, log entry 140). -/
structure Cut where
  clk : Clocks := {}
  mt : ModTime := {}
  coves : Tab Cove := {}
  ctrls : Tab Stack := {}
  streams : Tab StreamPort := {}
  bays : Tab Bay := {}
  ports : Tab Port := {}
  jetty : Jetty := {}
  pwr : Power := {}
  ident : Identity := {}
  deriving DecidableEq, Repr

/-- The state of the module. -/
structure State where
  /-- Commands waiting, first in, first out. The model's own. -/
  pending : List Instr := []
  /-- Uses of open values so far (log entry 7). The model's own. -/
  free : Nat := 0
  clk : Clocks := {}
  mt : ModTime := {}
  /-- Physical coves, keyed by physical index (R4). -/
  coves : Tab Cove := {}
  /-- HBM bytes, keyed by stack × 0x6_0000_0000 + physical granule × 65,536 + offset. -/
  hbm : Memory := {}
  ctrls : Tab Stack := {}
  streams : Tab StreamPort := {}
  bays : Tab Bay := {}
  sessions : Tab Session := {}
  qps : Tab Qp := {}
  ports : Tab Port := {}
  portq : Tab PortQueues := {}
  jetty : Jetty := {}
  integ : IntegModule := {}
  rot : Rotation := {}
  net : NetModule := {}
  pwr : Power := {}
  pwrx : PowerMore := {}
  img : Image := {}
  su : Startup := {}
  ident : Identity := {}
  mg : Mgmt := {}
  pins : Pins := {}
  latches : List Latch := []
  /-- The model's own. -/
  cut : Cut := {}
  deriving DecidableEq, Repr

/-- The machine right after power-on: every field at its reset value (INVENTORY.md, section State); slot A holds the factory image
(R442). -/
def State.reset : State := { img := { dev := factoryDevices } }

end Sys2Proof.Machine
end

