-- ==== Sys2Proof/Machine/Ops.lean ====
section
/-!
DEFINITION. The named operations over the state that every family uses: reading and changing one cove, core, bay, session,
port or stack; free values; the log; the map from logical to physical coves; the clocks.
-/

namespace Sys2Proof.Machine

/-- A command's outcome. Every meaning of this model is total: it answers a next state. -/
abbrev Out := Host.Outcome State Fault Refusal

/-- Changes a field of a structure when a condition holds. -/
def onlyIf {α : Type} (p : Bool) (f : α → α) (x : α) : α := if p then f x else x

/-- An event whose rule's condition does not hold does not occur: the state is unchanged (log entry 2). -/
def occurs (s : State) (p : Bool) (t : State) : Out := .next (if p then t else s)

namespace State

/-- Physical cove `c`. -/
def cove (s : State) (c : Nat) : Cove := s.coves.get {} c
def setCove (s : State) (c : Nat) (v : Cove) : State := { s with coves := s.coves.set {} c v }
def modCove (s : State) (c : Nat) (f : Cove → Cove) : State := s.setCove c (f (s.cove c))

def stack (s : State) (k : Nat) : Stack := s.ctrls.get {} k
def modStack (s : State) (k : Nat) (f : Stack → Stack) : State := { s with ctrls := s.ctrls.upd {} k f }

def stream (s : State) (lc : Nat) : StreamPort := s.streams.get {} lc
def modStream (s : State) (lc : Nat) (f : StreamPort → StreamPort) : State := { s with streams := s.streams.upd {} lc f }

def bay (s : State) (b : Nat) : Bay := s.bays.get {} b
def modBay (s : State) (b : Nat) (f : Bay → Bay) : State := { s with bays := s.bays.upd {} b f }

/-- Session slot, by bay × 16 + slot. -/
def sess (s : State) (k : Nat) : Session := s.sessions.get {} k
def modSess (s : State) (k : Nat) (f : Session → Session) : State := { s with sessions := s.sessions.upd {} k f }

def qp (s : State) (q : Nat) : Qp := s.qps.get {} q
def modQp (s : State) (q : Nat) (f : Qp → Qp) : State := { s with qps := s.qps.upd {} q f }

def port (s : State) (p : Nat) : Port := s.ports.get {} p
def modPort (s : State) (p : Nat) (f : Port → Port) : State := { s with ports := s.ports.upd {} p f }

def portQ (s : State) (p : Nat) : PortQueues := s.portq.get {} p
def modPortQ (s : State) (p : Nat) (f : PortQueues → PortQueues) : State := { s with portq := s.portq.upd {} p f }

def half (s : State) (h : Nat) : Half := s.clk.halves.get {} h
def modHalf (s : State) (h : Nat) (f : Half → Half) : State :=
  { s with clk := { s.clk with halves := s.clk.halves.upd {} h f } }

def pll (s : State) (p : Nat) : Pll := s.clk.plls.get {} p
def modPll (s : State) (p : Nat) (f : Pll → Pll) : State :=
  { s with clk := { s.clk with plls := s.clk.plls.upd {} p f } }

def seamPath (s : State) (y : Nat) : SeamPath := s.clk.seam.get {} y
def modSeam (s : State) (y : Nat) (f : SeamPath → SeamPath) : State :=
  { s with clk := { s.clk with seam := s.clk.seam.upd {} y f } }

def field (s : State) (k : Nat) : FieldTest := s.rot.fields.get {} k
def modField (s : State) (k : Nat) (f : FieldTest → FieldTest) : State :=
  { s with rot := { s.rot with fields := s.rot.fields.upd {} k f } }

def coveTest (s : State) (c : Nat) : CoveTest := s.rot.coves.get {} c
def modCoveTest (s : State) (c : Nat) (f : CoveTest → CoveTest) : State :=
  { s with rot := { s.rot with coves := s.rot.coves.upd {} c f } }

end State

/-- Pebble core `k` of a cove. -/
def Cove.core (c : Cove) (k : Nat) : PCore := c.cores.get {} k
def Cove.modCore (c : Cove) (k : Nat) (f : PCore → PCore) : Cove := { c with cores := c.cores.upd {} k f }

/-- Latches of core `k` in plane `p` (0 scalar, 1 vector, 2 control). -/
def Cove.latch (c : Cove) (k p : Nat) : Latches := c.latches.get {} (k * 3 + p)
def Cove.modLatch (c : Cove) (k p : Nat) (f : Latches → Latches) : Cove :=
  { c with latches := c.latches.upd {} (k * 3 + p) f }

def Cove.modBrk (c : Cove) (f : Breaker → Breaker) : Cove := { c with brk := f c.brk }
def Cove.modSp (c : Cove) (f : Scratchpad → Scratchpad) : Cove := { c with sp := f c.sp }
def Cove.modCh (c : Cove) (f : Channels → Channels) : Cove := { c with ch := f c.ch }
def Cove.modTide (c : Cove) (f : Tide → Tide) : Cove := { c with tide := f c.tide }
def Cove.modNet (c : Cove) (f : Net → Net) : Cove := { c with net := f c.net }
def Cove.modIg (c : Cove) (f : Integ → Integ) : Cove := { c with ig := f c.ig }

/-- Counter `k` of a table of saturating counters rises by `n` (R9, RC). -/
def bump (t : Tab Word) (k n : Nat) : Tab Word := t.upd 0 k (fun c => satAdd32 c n)

def State.core (s : State) (r : CoreRef) : PCore := (s.cove r.cove).core r.core
def State.modCore (s : State) (r : CoreRef) (f : PCore → PCore) : State :=
  s.modCove r.cove (fun c => c.modCore r.core f)

/-! Cycles of the registers (R10, log entry 140). -/

/-- The counters and W1C bits as they stand now. -/
def State.cutNow (s : State) : Cut :=
  { clk := s.clk, mt := s.mt, coves := s.coves, ctrls := s.ctrls, streams := s.streams, bays := s.bays, ports := s.ports
    jetty := s.jetty, pwr := s.pwr, ident := s.ident }

/-- A new cycle of the registers begins (R10). -/
def State.markCycle (s : State) : State := { s with cut := s.cutNow }

/-- The state with every counter as it was at the beginning of this cycle. -/
def State.atCut (s : State) : State :=
  { s with
    clk := s.cut.clk, mt := s.cut.mt, coves := s.cut.coves, ctrls := s.cut.ctrls, streams := s.cut.streams, bays := s.cut.bays
    ports := s.cut.ports, jetty := s.cut.jetty, pwr := s.cut.pwr, ident := s.cut.ident }

/-! Free values (log entry 7). -/

def State.freeWord (s : State) : Word := Config.freeWord s.free
def State.freeNat (s : State) : Nat := Config.freeNat s.free
def State.spend (s : State) (n : Nat) : State := { s with free := s.free + n }

/-- `n` free bytes from use number `k` on. -/
def freeBytes (k : Nat) : Nat → List Byte
  | 0 => []
  | n + 1 => Config.freeByte k :: freeBytes (k + 1) n

/-! Geometry (R4, R18 to R20, R351). -/

/-- Row segment of a physical cove: y × 2 + half. -/
def segOfPhys (c : Nat) : Nat := (c / 40) * 2 + (c % 40) / 20
/-- Row segment of a logical cove. -/
def segOfLog (l : Nat) : Nat := (l / 36) * 2 + (l % 36) / 18
/-- Field of a physical cove: 0 NW, 1 NE, 2 SW, 3 SE (R4). -/
def fieldOf (c : Nat) : Nat := (if c / 40 < 10 then 0 else 2) + (if c % 40 < 20 then 0 else 1)
/-- Half of a physical cove. -/
def halfOf (c : Nat) : Nat := (c % 40) / 20

/-- Hold mask of a segment; at reset the factory map of R20. -/
def State.holdMask (s : State) (g : Nat) : BitVec 20 := s.rot.holdMask.get 0x3FFFF g
def State.darkMask (s : State) (g : Nat) : BitVec 18 := s.rot.darkMask.get 0 g

/-- The positions below `n` whose bit is set, in rising order. -/
def setBits {w : Nat} (m : BitVec w) : Nat → List Nat
  | 0 => []
  | n + 1 => setBits m n ++ (if m.getLsbD n then [n] else [])

/-- The `n`-th element of a list, if there is one. -/
def nth {α : Type} (l : List α) (n : Nat) : Option α := (l.drop n).head?

/-- Physical cove of logical cove `l`, if the slot is not dark (R19, R351). -/
def State.physOf (s : State) (l : Nat) : Option Nat :=
  let g := segOfLog l
  let k := (l % 36) % 18
  let live := setBits (~~~ s.darkMask g) 18
  if l < 720 && live.contains k then
    (nth (setBits (s.holdMask g) 20) (live.idxOf k)).map fun x => (g / 2) * 40 + (g % 2) * 20 + x
  else none

/-- Logical cove that physical cove `c` holds, if it holds a slot. -/
def State.logOf (s : State) (c : Nat) : Option Nat :=
  let g := segOfPhys c
  let x := (c % 40) % 20
  let held := setBits (s.holdMask g) 20
  if c < 800 && held.contains x then
    (nth (setBits (~~~ s.darkMask g) 18) (held.idxOf x)).map fun k => (g / 2) * 36 + (g % 2) * 18 + k
  else none

/-- Does bay `b`'s record hold logical cove `l`? -/
def Bay.has (b : Bay) (l : Nat) : Bool :=
  match b.record with
  | none => false
  | some r => r.coves.contains l

/-- The bay whose record holds logical cove `l` (R306). -/
def State.bayOfLog (s : State) (l : Nat) : Option Nat :=
  (List.range 16).find? fun b => (s.bay b).has l

/-- The bay that holds physical cove `c` through its slot. -/
def State.bayOf (s : State) (c : Nat) : Option Nat := (s.logOf c).bind s.bayOfLog

/-- The logical coves of a bay (R306). -/
def Bay.coves (b : Bay) : List Nat :=
  match b.record with
  | none => []
  | some r => r.coves

/-- The physical coves that hold the bay's slots. -/
def State.physCoves (s : State) (b : Nat) : List Nat := (s.bay b).coves.filterMap s.physOf

/-- Changes every cove of a list. -/
def State.modCoves (s : State) (cs : List Nat) (f : Nat → Cove → Cove) : State :=
  cs.foldl (fun t c => t.modCove c (f c)) s

/-- Physical coves of a field. -/
def fieldCoves (f : Nat) : List Nat := (List.range 800).filter fun c => fieldOf c == f

/-! Maintenance (R327). -/

/-- Has the bay a run or sequences in progress? -/
def Bay.busy (y : Bay) : Bool := y.run.isSome || !y.berths.rows.isEmpty

/-- The maintenance window is open: asked for, and every bay's running work has finished. -/
def State.maintOpen (s : State) : Bool := s.jetty.maint.opening.isSome && (List.range 16).all fun b => !(s.bay b).busy

/-- The auxiliary input is in range; during the hold-up after its loss it is not, though its domain is fed (R397). -/
def State.auxOk (s : State) : Bool := s.pins.aux && s.pwrx.holdup.isNone

/-- REFCLK is lost and the clocks of Headland and the current network are not back (R385, R386). -/
def State.refGone (s : State) : Bool := s.clk.lost && !s.clk.regained

/-- Parked: by a cause of a park, by the loss of REFCLK, or for maintenance (R327, R385, R411). -/
def State.parked (s : State) : Bool := !s.pwr.parks.isEmpty || s.refGone || s.maintOpen

/-- Is the stack in self-refresh, of itself or in a park (R411)? -/
def State.stackRests (s : State) (k : Nat) : Bool := (s.stack k).selfRef || s.parked

/-- Governor ceiling: 0 in a park, else 8 (R411). -/
def State.ceiling (s : State) : Nat := if s.parked then 0 else 8

/-! Clocks (chapter 15). -/

/-- PLL dividers of the operating points (Table 16.3). -/
def opDividers : List Nat := [24, 32, 40, 48, 64, 72, 80, 96, 104, 112]
def opDivider (op : Nat) : Nat := opDividers.getD op 24

/-- Arithmetic cycles of the half of a cove since reset. -/
def State.cycles (s : State) (c : Nat) : Nat := (s.half (halfOf c)).cyc160 / 160

/-- Current-network cycles. -/
def State.cnCycles (s : State) : Nat := s.clk.cnMilli / 1000

/-- Time units of 16 current-network cycles since network time began. -/
def State.netUnits (s : State) : Nat := (s.cnCycles - s.clk.cnBase) / 16

/-- Network time NOW: 16 bits, in units of 16 current-network cycles (R219). -/
def State.netNow (s : State) : BitVec 16 := BitVec.ofNat 16 s.netUnits

/-- Nanoseconds of current-network time in cycles: 64 µs are 57,600 cycles (R163), 88 µs 79,200 and 2 µs 1,800. -/
def cn64us : Nat := 57600

/-- Does the tide switch stand still in cycle `cyc` (R201, R202)? -/
def Tide.stopped (t : Tide) (cyc : Nat) : Bool := t.frozen && decide (t.frozenAt ≤ cyc)

/-! The log (R488, Table 20.5). -/

/-- A new entry of the log: Headland keeps the newest 4,096. -/
def State.addLog (s : State) (e : LogEntry) : State :=
  { s with mg := { s.mg with log := (e :: s.mg.log).take 4096, logHead := s.mg.logHead + 1 } }

/-- Pieces of at most 48 bytes; `n` bounds their number. -/
def chunks48 : Nat → List Byte → List (List Byte)
  | 0, _ => []
  | n + 1, bs => if bs.isEmpty then [] else bs.take 48 :: chunks48 n (bs.drop 48)

/-- A fault signature record copied to the log, continued over following entries (R347, Table 20.5). -/
def State.logRecord (s : State) (code : Code) (c : Nat) (bytes : List Byte) : State :=
  (chunks48 bytes.length bytes).foldl (fun t d =>
    t.addLog { time := s.mt.ns, code := code, kind := 2, stage := s.su.stage, cove := BitVec.ofNat 16 c, bay := 0xFF, detail := d }) s

/-- A log entry of KIND 0 with its place. -/
def State.logFull (s : State) (code : Code) (cove : Option Nat) (bay : Option Nat) (detail : List Byte) : State :=
  let e : LogEntry :=
    { time := s.mt.ns, code := code, kind := 0, stage := s.su.stage,
      cove := BitVec.ofNat 16 (cove.getD 0xFFFF), bay := BitVec.ofNat 8 (bay.getD 0xFF), detail := detail }
  s.addLog e

/-- A code is logged. -/
def State.log (s : State) (code : Code) : State := s.logFull code none none []
def State.logCove (s : State) (code : Code) (c : Nat) : State := s.logFull code (some c) (s.bayOf c) []
def State.logBay (s : State) (code : Code) (b : Nat) : State := s.logFull code none (some b) []

/-- An entry for the repair journal (R432): its type and body; JOURNAL_WRITE puts it on the devices. Log entry 34. -/
def State.journal (s : State) (kind : Nat) (body : List Byte) : State :=
  let e : JEntry := ⟨kind, s.su.jNext, body⟩
  { s with su := { s.su with journal := s.su.journal ++ [e], jTodo := s.su.jTodo ++ [e], jNext := s.su.jNext + 1 } }

/-- The arithmetic clock of a half in units of 1/160 GHz: its divider, that of 150 MHz while it coasts (Table 15.2; log entry 193). -/
def State.clockUnits (s : State) (h : Nat) : Nat := if (s.pll h).state == .coasting then 24 else (s.pll h).fbdiv

/-! Clock domains: PLLs, waking (R382, R388). -/

/-- Do the arithmetic PLLs of a half clock it (R382, R384)? -/
def State.clocked (s : State) (h : Nat) : Bool := (s.pll h).state == .stable && (s.pll (h + 2)).state == .stable

/-- Feedback divider of a PLL as it stands once started (Table 15.2): of an arithmetic one that of the half's other, if that runs (R381). -/
def State.pllDivider (s : State) (p : Nat) : Nat :=
  if p < 4 then
    let q := s.pll ((p + 2) % 4)
    if q.state = .off ∨ q.fbdiv = 0 then opDivider (s.half (p % 2)).op else q.fbdiv
  else if p < 6 then 144 else if p < 14 then 640 else if p < 16 then 170 else 32

/-- A PLL starts from off, or again (R382). -/
def State.startPll (s : State) (p : Nat) : State :=
  s.modPll p fun q =>
    { q with state := .acquiring, lock := false, active := false, enabledAt := s.clk.now, fbdiv := s.pllDivider p }

/-- A half leaves EBB: at once while its PLLs are still on, else they start (R388). -/
def State.wakeHalf (s : State) (h : Nat) : State :=
  let s1 := s.modHalf h fun k => { k with ebb := false, ebbAt := none }
  if s.clocked h then s1 else (s1.startPll h).startPll (h + 2)

/-- A cove's compute domain leaves SLACK: its governor stands at level 0 (R388). -/
def State.wakeCove (s : State) (c : Nat) : State :=
  if (s.clk.sleep.get (.run, 0) c).1 = .slack then
    ({ s with clk := { s.clk with sleep := s.clk.sleep.erase c } } : State).modCove c fun v => v.modBrk fun b => { b with level := 0 }
  else s

/-! Requester latches of LO/HI pairs (R58, R486). -/

/-- The requester's read of a low word latches the high word of the pair. -/
def State.latch (s : State) (who : Requester) (pair : BitVec 48) (hi : Word) : State :=
  { s with latches := ⟨who, pair, hi⟩ :: s.latches.filter fun l => !(l.who == who && l.pair == pair) }

/-- What a requester's read of the high word returns: the latched value, else the current one. -/
def State.latched (s : State) (who : Requester) (pair : BitVec 48) (now : Word) : Word :=
  match s.latches.find? fun l => l.who == who && l.pair == pair with
  | some l => l.value
  | none => now

end Sys2Proof.Machine
end

