-- ==== Sys2Proof/Machine/Access.lean ====
section
/-!
DEFINITION. Who makes a register access (20_management_map.md R482; 12 R326): the module owner, sessions of a bay, Headland.
-/

namespace Sys2Proof.Machine

/-- The role of the session a requester is, if it is an open or orphaned one. -/
def State.roleOf (s : State) : Requester → Option (Nat × Role)
  | .session b k =>
    let x := s.sess (b.val * 16 + k)
    if x.state = .open_ ∨ x.state = .orphaned then some (b.val, x.role) else none
  | _ => none

/-- The module owner, or Headland, which reaches every register (R482). -/
def State.isOwner (s : State) (who : Requester) : Bool :=
  match who with
  | .headland => true
  | .core _ => false
  | .session _ _ => (s.roleOf who).any fun r => r.2 == .owner

/-- A session of bay `b` with one of the roles, or the module owner. -/
def State.ownsBay (s : State) (who : Requester) (b : Nat) (roles : List Role) : Bool :=
  s.isOwner who || (s.roleOf who).any fun r => r.1 == b && roles.contains r.2

/-- An owner session of the bay or the module owner (R326). -/
def State.readsBay (s : State) (who : Requester) (b : Nat) : Bool := s.ownsBay who b [.user, .bay]

/-- An owner session of the bay that holds physical cove `c`, or the module owner (R482). -/
def State.readsCove (s : State) (who : Requester) (c : Nat) : Bool :=
  s.isOwner who || match s.bayOf c with
    | some b => s.readsBay who b
    | none => false

/-- The requester is a pebble core of cove `c` (R128). -/
def coreOf (who : Requester) (c : Nat) : Bool :=
  match who with
  | .core r => r.cove == c
  | _ => false

/-! The device address space (R5, R6, R143). -/

/-- What a device address names (Table 0.4); the upper half of a scratchpad window is reserved. -/
inductive DevTarget where
  | hbm (a : Nat)
  | scratch (cove off : Nat)
  | management (off : Nat)
  | reserved (code : Code)
  | unmapped
  deriving DecidableEq, Repr

/-- Base of physical cove 0's scratchpad window, and the size of a window. -/
def windowBase : Nat := 0x800000000000
def windowSize : Nat := 0x400000

/-- Table 0.4: HBM, the scratchpad windows, the management space. An access to the upper 2 MiB of a window is refused with 0x5001
(R143). -/
def devTarget (a : Nat) : DevTarget :=
  if a < 0x3000000000 then .hbm a
  else if windowBase ≤ a ∧ a < windowBase + 800 * windowSize then
    let o := (a - windowBase) % windowSize
    if o < 0x200000 then .scratch ((a - windowBase) / windowSize) o else .reserved 0x5001
  else if 0xF00000000000 ≤ a ∧ a < 0xF00010000000 then .management (a - 0xF00000000000)
  else .unmapped

/-- The device address of an address of a kind 1 region: the jetty translates its logical cove by the current map into the lower
half of that cove's window (R135, R315). -/
def State.regionTarget (s : State) (a : Nat) : DevTarget :=
  match s.physOf (a / 0x200000) with
  | some c => devTarget (windowBase + c * windowSize + a % 0x200000)
  | none => .unmapped

/-- Code with which the device refuses an access there, if it does. -/
def DevTarget.refusal : DevTarget → Option Code
  | .reserved code => some code
  | _ => none

/-- Any live session, or Headland. -/
def State.anySession (s : State) (who : Requester) : Bool := who == .headland || (s.roleOf who).isSome

end Sys2Proof.Machine
end

