-- ==== Sys2Proof/Machine/JettyOps.lean ====
section
/-!
DEFINITION. Datagrams of the jetty (11_ethernet_ports.md R297, R510; 12_tideline_commands.md R308 to R312): the envelope,
a datagram of a session, session-less answers, events and completions. A session is named by its value, generation × 256 +
bay × 16 + slot.
-/

namespace Sys2Proof.Machine

/-- Value of the session in slot `k` (Table 11.7). -/
def State.sessValue (s : State) (k : Nat) : Nat := (s.sess k).gen.toNat * 256 + k

/-- Does the value name a session that is open or orphaned and whose generation is current? -/
def State.sessLive (s : State) (v : Nat) : Bool :=
  let x := s.sess (v % 256)
  (x.state == .open_ || x.state == .orphaned) && x.gen.toNat == v / 256

/-- Is the port's link up? -/
def Port.up (p : Port) : Bool := p.width != 0

/-- The 32-byte envelope of Table 11.7. -/
def envelope (kind : Nat) (value seq time bodyLen : Nat) : List Byte :=
  leBytes 1 kind ++ leBytes 1 1 ++ leBytes 2 value ++ leBytes 4 seq ++ leBytes 8 time ++ leBytes 2 bodyLen
    ++ List.replicate 14 0

/-- The SEQ after `n` (Table 11.7). -/
def nextSeq (n : Nat) : Nat := if n = 0xFFFFFFFF then 1 else n + 1

/-- Keeps the newest datagrams, at most 64 and at most 256 KiB (R312); `l` is newest first. -/
def keepNewest : List (Nat × List Byte) → Nat → Nat → List (Nat × List Byte)
  | [], _, _ => []
  | d :: t, n, bytes =>
    if n = 0 ∨ bytes < d.2.length then [] else d :: keepNewest t (n - 1) (bytes - d.2.length)

/-- A counter of Table 11.14 rises: 0 RX_FRAMES, 1 TX_FRAMES, 2 RX_DROP, 3 FEC_CORR, 4 FEC_UNCORR, 5 NAK_SENT, 6 RNR_SENT,
7 CNP_SENT, 8 CNP_RCVD, 9 ECN_CE, 10 PFC_RCVD, 11 HB_SENT, 12 DEPART_SENT, 13 LINK_DOWN. -/
def State.ethCount (s : State) (p k n : Nat) : State := s.modPort p fun x => { x with ctr := bump x.ctr k n }

/-- Does the frame travel on the priority of RoCEv2, which PAUSE holds (R289)? -/
def TxFrame.roce (f : TxFrame) : Bool :=
  match f with
  | .ack _ _ | .nak _ _ _ | .readResp _ _ _ _ | .cnp _ | .cm _ _ _ _ _ => true
  | _ => false

/-- The syndrome of a frame's ACK header (R284, Table 11.4): credits 0b11111, or that of a NAK. READ Response First, Last and Only have
one too. -/
def TxFrame.aeth (f : TxFrame) : Option (BitVec 8) :=
  match f with
  | .ack _ _ => some 0x1F
  | .nak _ _ syndrome => some syndrome
  | .readResp _ _ op _ => if op = 0x0E then none else some 0x1F
  | _ => none

/-- The frame with its addresses: of a connection, the peer's latest; a datagram's UDP ports are the port's own and the session's,
or without a session the port's own twice (R281, R297, R510); with the port's VLAN tag, RoCEv2 on the priority of flow control where it is
enabled (R280, R289), RoCEv2 as ECT(0) (R288). -/
def State.addressed (s : State) (p : Nat) (f : TxFrame) : Tx :=
  let x := s.port p
  let tag := x.vlan.map fun v => (if f.roce && x.pfcEn then BitVec.ofNat 3 x.pfcPrio else x.pcp, v)
  let to_ (mac : BitVec 48) (ip : BitVec 128) : Tx := ⟨mac, ip, 0, 0, tag, if f.roce then 2 else 0, f.aeth, f⟩
  let peer (q : Nat) : Tx := to_ (s.qp q).peerMac (s.qp q).peerIp
  let udp := x.udp
  match f with
  | .datagram v q _ _ _ => { peer q with sport := udp, dport := if v = 0 then udp else (s.sess (v.toNat % 256)).hostPort.toNat }
  | .ack q _ | .nak q _ _ | .readResp q _ _ _ | .cnp q => peer q
  | .cm mac ip _ _ _ => to_ mac ip
  | .arp mac ip => to_ mac (ip.setWidth 128)
  | .neighbor mac ip | .echo mac ip _ => to_ mac ip
  | .pause _ _ => to_ 0x0180C2000001 0
  | .delayReq mac _ => to_ mac 0

/-- Does the frame leave from the first transmit queue: ACKs, NAKs, answers, heartbeats and departure notices (R295)? PAUSE goes with
them (log entry 160). -/
def TxFrame.isFirst (f : TxFrame) : Bool :=
  match f with
  | .datagram _ _ kind _ _ => kind == 1 || kind == 2 || kind == 3
  | .ack _ _ | .nak _ _ _ | .pause _ _ => true
  | _ => false

/-- A frame enters the transmit queue of a port; while the port is down it is discarded (R295, R297). -/
def State.transmit (s : State) (p : Nat) (f : TxFrame) : State :=
  if (s.port p).up then
    s.modPortQ p fun q =>
      if f.isFirst then { q with first := q.first ++ [s.addressed p f] } else { q with second := q.second ++ [s.addressed p f] }
  else s

/-- A datagram of the session in slot `k`: SEQ advances; an orphaned session's is discarded (R297, R314). -/
def State.sendSess (s : State) (k kind : Nat) (body : List Byte) : State :=
  let x := s.sess k
  let seq := nextSeq x.seq
  let bytes := envelope kind (s.sessValue k) seq s.mt.ns body.length ++ body
  let s1 := s.modSess k fun x =>
    { x with
      seq := seq
      lastSeq := if kind = 1 then x.lastSeq else seq
      kept := if kind = 1 then x.kept else (keepNewest ((seq, bytes) :: x.kept.reverse) 64 262144).reverse }
  if x.state = .open_ then
    s1.transmit x.port (.datagram (BitVec.ofNat 16 (s.sessValue k)) x.qp (BitVec.ofNat 8 kind) seq bytes)
  else s1

/-- A session-less datagram on connection `q` (R510). -/
def State.sendBare (s : State) (q kind : Nat) (body : List Byte) : State :=
  let bytes := envelope kind 0 0 s.mt.ns body.length ++ body
  s.transmit (s.qp q).port (.datagram 0 q (BitVec.ofNat 8 kind) 0 bytes)

/-- The EVENT body of Table 12.10. -/
def eventBody (ev : Nat) (code : Code) (step : Nat) : List Byte :=
  leBytes 2 ev ++ leBytes 2 code.toNat ++ leBytes 6 step ++ List.replicate 6 0

/-- An EVENT to the sessions of bay `b`, but for slot `skip` (R311, R314). -/
def State.eventBut (s : State) (b : Nat) (skip : Option Nat) (ev : Nat) (code : Code) : State :=
  (List.range 16).foldl (fun t i =>
    let k := b * 16 + i
    if ((t.sess k).state = .open_ ∨ (t.sess k).state = .orphaned) ∧ skip ≠ some k
    then t.sendSess k 6 (eventBody ev code (t.bay b).st.committed) else t) s

def State.event (s : State) (b ev : Nat) (code : Code) : State := s.eventBut b none ev code

/-- An EVENT to every open session of the module (R311). -/
def State.eventAll (s : State) (ev : Nat) (code : Code) : State :=
  (List.range 16).foldl (fun t b => t.event b ev code) s

/-- What a completion reports (Table 12.8). -/
structure Done where
  cmdId : BitVec 32
  opcode : Nat
  code : Code := 0
  cancelled : Bool := false
  deadline : Nat := 0
  start : Nat := 0
  energyUj : Nat := 0
  steps : Nat := 0
  rollbacks : Nat := 0
  result : List Byte := []
  deriving DecidableEq, Repr

/-- Is it formed after its deadline? -/
def Done.late (d : Done) (now : Nat) : Bool := d.deadline != 0 && decide (d.deadline < now)

/-- The COMPLETION body (Table 12.8). -/
def Done.body (d : Done) (now : Nat) : List Byte :=
  leBytes 4 d.cmdId.toNat ++ leBytes 1 d.opcode
    ++ leBytes 1 ((if d.late now then 1 else 0) + if d.cancelled then 2 else 0)
    ++ leBytes 2 d.code.toNat ++ leBytes 8 d.start ++ leBytes 8 now
    ++ leBytes 4 ((d.energyUj + 999) / 1000) ++ leBytes 4 d.steps ++ leBytes 2 d.rollbacks
    ++ List.replicate 6 0 ++ d.result

/-- A completion for session `v`; it is discarded with a session that is gone (R316). -/
def State.complete (s : State) (v : Nat) (d : Done) : State :=
  if s.sessLive v then
    let late := d.late s.mt.ns
    let s1 := s.modSess (v % 256) fun x =>
      { x with outstanding := x.outstanding.filter fun o => !(o.1 == d.cmdId && o.2.toNat == d.opcode) }
    let s2 := { s1 with jetty := { s1.jetty with late := onlyIf late (fun c => satAdd32 c 1) s1.jetty.late } }
    s2.sendSess (v % 256) 4 (d.body s.mt.ns)
  else s

/-! Commands (R304, R308, Tables 12.1 and 12.6). -/

def jOp (c : JCmd) : Nat := (c.desc.getD 0 0).toNat
def jExt (c : JCmd) : Nat := (c.desc.getD 1 0).toNat
/-- Field of `n` bytes from byte `o` of a descriptor. -/
def jField (c : JCmd) (o n : Nat) : Nat := fieldLe c.desc o n
def jSess (c : JCmd) : Nat := jField c 2 2
def jId (c : JCmd) : BitVec 32 := BitVec.ofNat 32 (jField c 4 4)
def jDeadline (c : JCmd) : Nat := jField c 8 8

/-- Statuses of Table 12.7. -/
def stAccepted : Nat := 0
def stDelayed : Nat := 1
def stCapacity : Nat := 2
def stPower : Nat := 3
def stQuota : Nat := 4
def stRejected : Nat := 5

/-- Is the command one of a session that is open and bound to the connection it came on (R510)? -/
def State.ownSession (s : State) (c : JCmd) : Bool :=
  let x := s.sess (jSess c % 256)
  2 < jOp c && x.state == .open_ && x.gen.toNat == jSess c / 256 && x.qp == c.qp.val

/-- The ANSWER to a command (Table 12.6), within its session or session-less (R510), counted in the jetty's counters. -/
def State.answerCmd (s : State) (c : JCmd) (status : Nat) (code : Code) (time : Nat) (result : List Byte) : State :=
  let body := leBytes 4 (jId c).toNat ++ leBytes 4 c.tag.toNat ++ leBytes 1 (jOp c) ++ leBytes 1 status ++ leBytes 2 code.toNat
    ++ leBytes 4 0 ++ leBytes 8 time ++ result.take 16 ++ List.replicate (16 - result.length) 0 ++ leBytes 8 0
  let j := s.jetty
  let s1 := { s with jetty := { j with
    cmds := satAdd32 j.cmds 1
    rejects := if status = 5 then satAdd32 j.rejects 1 else j.rejects
    refusals := if 2 ≤ status ∧ status ≤ 4 then satAdd32 j.refusals 1 else j.refusals } }
  if s.ownSession c then s1.sendSess (jSess c % 256) 3 body else s1.sendBare c.qp 3 body

/-- Opcode of a piece of work (Table 12.3). -/
def Work.opcode (w : Work) : Nat :=
  match w.kind with
  | .run => 0x0A
  | .generate => 0x0B

/-- The completion of a RUN or GENERATE with a code (R309, R319, R324). -/
def State.completeWork (s : State) (w : Work) (code : Code) (cancelled : Bool) : State :=
  s.complete w.sess
    { cmdId := w.cmdId, opcode := w.opcode, cancelled := cancelled,
      code := if code = 0 ∧ w.outBad then 0xB015 else code
      deadline := match w.kind, w.firstTok with
        | .generate, some t => if w.deadline ≠ 0 ∧ w.deadline < t then 1 else 0
        | _, _ => w.deadline
      start := w.start, energyUj := w.energy, steps := w.steps, rollbacks := w.rollbacks,
      result := match w.kind with
        | .run => []
        | .generate => leBytes 4 w.tokens }

/-- Running work ends early with a code: its completion waits for the output of its committed steps that controllers have not all
acknowledged (R47, R309). -/
def State.endWork (s : State) (b : Nat) (berth : Option Nat) (w : Work) (code : Code) (cancelled : Bool) : State :=
  match (s.bay b).st.acking.getLast? with
  | none => s.completeWork w code cancelled
  | some r => s.modBay b fun y => { y with ending := y.ending ++ [⟨w, berth, code, cancelled, r.no⟩] }

/-- Ends every running piece of work of a bay with a code. -/
def State.endRunning (s : State) (b : Nat) (code : Code) (cancelled : Bool) : State :=
  let y := s.bay b
  let works : List (Option Nat × Work) := y.run.toList.map (fun w => (none, w)) ++ y.berths.rows.map fun r => (some r.1, r.2)
  let s1 := works.foldl (fun t w => t.endWork b w.1 w.2 code cancelled) s
  s1.modBay b fun y => { y with run := none, berths := {} }


/-- Cancels every queued piece of work of a bay with a code (R316, R318, R324). -/
def State.dropQueue (s : State) (b : Nat) (code : Code) (cancelled : Bool) : State :=
  let s1 := (s.bay b).queue.foldl (fun t w => t.completeWork w code cancelled) s
  s1.modBay b fun y => { y with queue := [] }

end Sys2Proof.Machine
end

