-- ==== Sys2Proof/Machine/Standby.lean ====
section
/-!
DEFINITION. A bay without a program: its coves hold the standby image (17 R428), a program that goes away (12 R318).
-/

namespace Sys2Proof.Machine

/-- The cores' self-test is over: they are idle again, their queues and channels as of a cove without a slot. -/
def Cove.endSelfTest (v : Cove) : Cove :=
  { v with
    cores := v.cores.map fun _ k => { k with state := 0, wait := none, heldAt := none, entries := [] }
    ch := { v.ch with queues := {}, table := {}, held := [] } }

/-- An instruction memory from code bytes (R430); absent words are zero. -/
def imemOf (bs : List Byte) : Tab Word :=
  (List.range (bs.length / 4)).foldl (fun (m : Tab Word) i => m.set 0 i (BitVec.ofNat 32 (fieldLe bs (4 * i) 4))) {}

/-- A cove of the bay that the shape leaves unused stays idle, without tables (R373). -/
def Cove.unloadShape (v : Cove) (standby : List Byte) : Cove :=
  { v with
    cores := (List.range 16).foldl (fun (m : Tab PCore) k => m.upd {} k fun q =>
      { q with imem := imemOf standby, imemBad := [], used := false, entries := [], wait := none
               state := if q.state = 5 then 5 else 0 }) v.cores
    latches := {}
    sp := { v.sp with handles := {} }
    tide := { v.tide with
      routes := {}, ph := {}, phNext := [], entryPh := {}, frozen := false, inputs := {}, bq := {}, gout := {}, lane := []
      groynes := {}, barriers := {}, arrived := {}, votes := [], casts := [] }
    brk := { v.brk with tolRel := {}, tolAbs := {} }
    ig := { v.ig with pairs := {}, primSigs := [], shadowSigs := [], paired := [] } }

/-- Without a program every core of the bay's coves holds the standby image (R428). -/
def State.loadStandby (s : State) (b : Nat) : State :=
  s.modCoves (s.physCoves b) fun _ v => v.unloadShape s.img.standby

/-- Does the bay's cove set span the seam? -/
def Bay.spans (y : Bay) : Bool := (y.coves.any fun l => decide (l % 36 ≤ 17)) && y.coves.any fun l => decide (18 ≤ l % 36)

/-- The seam lock is held while a bay with a program spans the seam. -/
def State.seamLock (s : State) : Bool := (List.range 16).any fun b => (s.bay b).program.isSome && (s.bay b).spans

/-- Every seam path closes (Table 8.7); one that was open has not failed since its attempt. -/
def State.closeSeam (s : State) : State :=
  (List.range 20).foldl (fun t y => t.modSeam y fun p =>
    { p with state := .closed, slipped := false, fails := if p.state = .open_ then 0 else p.fails }) s

/-- Once the seam lock is released every seam path is closed (R389). -/
def State.seamFollows (s : State) : State := if s.seamLock then s else s.closeSeam

/-- The bay's program is removed (R318, R428), and with it its hold of the seam lock (R389). -/
def State.removeProgram (s : State) (b : Nat) : State :=
  ((s.loadStandby b).modBay b fun y =>
    { y with program := none, shape := 0, shrunk := false, wantShape := none, hints := [] }).seamFollows

/-- Pending PROGRAM_UNLOADs take the program away; their completions are formed (R318). -/
def State.takeProgram (s : State) (b : Nat) : State :=
  let us := (s.bay b).unloads
  if us.isEmpty then s
  else
    let s1 := (s.removeProgram b).modBay b fun y => { y with unloads := [], st := { y.st with replay := none } }
    us.foldl (fun t u => t.complete u.1 { cmdId := u.2.1, opcode := 0x09, start := u.2.2 }) s1

end Sys2Proof.Machine
end

