-- ==== Sys2Proof/Machine/Discard.lean ====
section
/-!
DEFINITION. The rollback column of Table 2.2: what a rollback of a bay's steps from step `n` on does to each kind of state
(02 R37, R48; 04 R92; 06; 07 R170; 08 R187, R202; 09 R243; 10 R258, R263).
-/

namespace Sys2Proof.Machine

/-- Does an operation stream? -/
def Breaker.streams (b : Breaker) : Bool := b.running.any fun r => r.left != 0

/-- With FILL_EN clear the level is 0 as soon as no operation streams or waits (R102). -/
def Breaker.unfilled (b : Breaker) : Breaker :=
  if b.fillEn || b.streams || !b.queue.isEmpty then b else { b with level := 0 }

/-- R92: queued and in-flight operations of the rolled-back steps are discarded. -/
def Breaker.discard (b : Breaker) (n : Nat) : Breaker :=
  Breaker.unfilled { b with
    queue := b.queue.filter fun o => decide (o.step < n), running := b.running.filter fun r => decide (r.op.step < n) }

/-- Narrow requests of the rolled-back steps are discarded, stalled stores among them (R50). -/
def Scratchpad.discard (p : Scratchpad) (n : Nat) : Scratchpad :=
  { p with reqs := p.reqs.filter fun r => decide (r.step < n) }

/-- R170 for one channel entry: opened in a rolled-back step it enters quarantine, else it is open with sequence bit 0. -/
def ChEntry.rollback (e : ChEntry) (n cn : Nat) : ChEntry :=
  match e.state with
  | .free => e
  | .quarantine => e
  | .connecting => { e with state := .quarantine, quarAt := cn, closeIn := none }
  | _ =>
    if n ≤ e.openedIn then { e with state := .quarantine, quarAt := cn, closeIn := none }
    else
      { e with
        state := (if e.state = .sending ∨ e.state = .blocked then .open_ else e.state)
        bad := false, seq := false, placed := false, fullSince := none, spent := 0, listed := false, resent := false, retryAt := none
        closeIn := e.closeIn.filter fun k => decide (k < n) }

/-- R170: the queues of the cove's cores are emptied and its channel entries treated. -/
def Channels.rollback (c : Channels) (n cn : Nat) : Channels :=
  { c with queues := {}, table := c.table.map fun _ e => e.rollback n cn }

/-- The entry as it stands with no CSEND in progress. -/
def ChEntry.rest (e : ChEntry) (st : ChState) : ChEntry :=
  { e with state := st, fullSince := none, spent := 0, listed := false, resent := false, retryAt := none }

/-- The entry enters quarantine (R163). -/
def ChEntry.quarantine (e : ChEntry) (cn : Nat) : ChEntry :=
  { e.rest .quarantine with quarAt := cn, closeIn := none }

/-- A run of the bay ends, or the channels are cleared at the end of a reset (R169): every entry that is open or in quarantine
enters quarantine now, keeping its generation; queues, pending lists and waiter lists are emptied. -/
def Channels.clear (h : Channels) (cn : Nat) (restart : Bool) : Channels :=
  { h with
    queues := {}, held := []
    table := h.table.map fun _ e =>
      if e.state = .free ∨ (e.state = .quarantine ∧ !restart) then e else e.quarantine cn }

/-- The step tag that a token of the system tree is about: a vote carries it in the token, COMMIT and ROLLBACK in the next slot (Table
8.6). -/
def LaneTok.tokTag (x : LaneTok) : BitVec 2 := if x.tok.toNat / 16 = 2 then BitVec.ofNat 2 x.tok.toNat else x.tag

/-- FREEZE (Table 8.6). -/
def tokFreeze : BitVec 6 := 0x30

/-- The phase of each plane, and its window counters restarted, at rollback: the entry phase of the oldest rolled-back step; with none
rolled back the phases stay (R187). -/
def Tide.backTo (t : Tide) (cyc : Nat) : Option Nat → Tide
  | none => t
  | some n =>
    let ph (p : Nat) : Nat := t.entryPh.get 0 ((n % 4) * 3 + p)
    { t with
      phNext := []
      ph := (((({} : Tab Nat).set 0 0 (ph 0)).set 0 1 (ph 1)).set 0 2 (ph 2))
      phStart := (((({} : Tab Nat).set 0 0 cyc).set 0 1 cyc).set 0 2 cyc) }

/-- R187, R202: votes of the rolled-back steps, words, items and contents are discarded, the freeze ends, the entry phases of step
`first`, the oldest that rolls back, are current. Tokens of earlier steps stay on the lane: those steps do not roll back (R48). -/
def Tide.rollback (t : Tide) (first : Option Nat) (cyc : Nat) (tags : List (BitVec 2)) : Tide :=
  { t.backTo cyc first with
    inputs := {}, bq := {}, gout := {}, arrived := {}
    lane := t.lane.filter fun x => decide (32 ≤ x.tok.toNat ∧ x.tok ≠ tokFreeze) && !tags.contains x.tokTag
    votes := t.votes.filter fun x => !tags.contains x.2.2
    casts := t.casts.filter fun x => !tags.contains x.2
    groynes := t.groynes.map fun _ g => { g with data := [], toks := [], pairs := [], seq := false }
    frozen := false }

/-- Packets of the rolled-back attempts that no router has taken yet are dropped at their injectors (R243). -/
def Net.dropWaiting (w : Net) (b : Nat) (gone : List StepRec) : Net :=
  let old (x : Injection) : Bool := x.p.stepped && x.p.bay.toNat == b && gone.any fun r =>
    r.no % 4 == x.p.step.toNat && r.attempt == x.p.attempt.toNat
  { w with inj := w.inj.filter fun x => !old x, ctr := bump w.ctr 1 (w.inj.filter old).length }

/-- R243: transfers of the rolled-back steps are abandoned and their tags enter quarantine. -/
def Net.abandon (w : Net) (n cn : Nat) : Net :=
  let gone := w.dma.filter fun d => decide (n ≤ d.step)
  { w with
    dma := w.dma.filter fun d => decide (d.step < n)
    tagQuar := (gone.filter fun d => d.started).foldl (fun t d => t.put d.tag cn) w.tagQuar
    faults := {} }

/-- Cycles for which the present instruction has been held in D or X (Table 5.17). DESIGN CHOICE (log entry 48): the wait in STEPEND is not counted. -/
def PCore.heldFor (k : PCore) (cyc : Nat) : Nat :=
  match k.heldAt with
  | some h => cyc - h
  | none => if k.state = 3 then cyc - k.stalledAt else 0

/-- PB_STALL with the cycles of the present stall, which has ended or goes on. -/
def PCore.stallNow (k : PCore) (cyc : Nat) : Word := satAdd32 k.stall (k.heldFor cyc)

/-- A core at rollback: what it waited for is abandoned; it is idle until the replay starts, unless an exception stopped
it. -/
def PCore.rollback (k : PCore) (n cyc : Nat) : PCore :=
  { k with
    wait := none, stall := k.stallNow cyc, heldAt := none
    entries := k.entries.filter fun e => decide (e.1 ≤ n)
    state := if k.state = 5 then 5 else 0 }

/-- The cove's part of a rollback. -/
def Cove.rollback (c : Cove) (n cn cyc : Nat) (first : Option Nat) (tags : List (BitVec 2)) : Cove :=
  { c with
    cores := c.cores.map fun _ k => k.rollback n cyc
    latches := {}
    brk := c.brk.discard n
    sp := c.sp.discard n
    ch := c.ch.rollback n cn
    tide := c.tide.rollback first cyc tags
    net := c.net.abandon n cn
    ig := { c.ig with
      primSigs := (c.ig.primSigs.filter fun g => decide (g.step < n)).map fun g =>
        if n ≤ g.step + 1 then { g with compared := false } else g
      shadowSigs := c.ig.shadowSigs.filter fun g => decide (g.step + 1 < n)
      paired := c.ig.paired.filter fun k => decide ((if k.key < 2 ^ 15 then k.step else k.step + 1) < n)
      failed := c.ig.failed.filter fun f => decide (f.1 < n)
      owed := c.ig.owed.filter fun f => decide (f.1 < n) } }

/-- R263: the rolled-back steps' shadows return to the pool. -/
def Stack.rollback (k : Stack) (b n : Nat) : Stack :=
  let mine (h : Shadow) : Bool := h.bay == b && !h.committed && decide (n ≤ h.step)
  { k with
    shadows := k.shadows.filter fun h => !mine h
    poolFreed := k.poolFreed ++ (k.shadows.filter mine).map Shadow.phys }

/-- R258: descriptors posted by rolled-back attempts are discarded with their words in the buffers; one posted before serves the
next attempt of its step. -/
def StreamPort.rollback (p : StreamPort) (n : Nat) : StreamPort :=
  let kept := (p.served ++ p.fifo).filter fun d => decide (d.posted < n)
  { p with
    served := kept.filter fun d => decide (d.step < n) && d.done == d.words
    fifo := (kept.filter fun d => !(decide (d.step < n) && d.done == d.words)).map fun d =>
      if n ≤ d.step then { d with done := 0, asked := 0 } else d
    rdBuf := p.rdBuf.filter fun r => kept.any fun d => d.id == r.id && decide (d.step < n)
    wrBuf := p.wrBuf.filter fun w => decide (w.step < n) }

/-- Requests for words of a port that no descriptor in it has asked for are dropped at a controller. -/
def Stack.dropFills (k : Stack) (l : Nat) (p : StreamPort) : Stack :=
  { k with reqs := k.reqs.filter fun r => match r.fill with
      | some (m, id, _) => m != l || p.fifo.any fun d => d.id == id && d.asked != 0
      | none => true }

/-- The rollback of every step of bay `b` from `n` on (R48): the rollback column of Table 2.2. -/
def State.discard (s : State) (b n : Nat) : State :=
  let y := s.bay b
  let gone := y.st.live.filter fun r => decide (n ≤ r.no)
  let s1 := s.modCoves (s.physCoves b) fun c v =>
    v.rollback n s.cnCycles (s.cycles c) (gone.head?.map StepRec.no) (gone.map fun r => BitVec.ofNat 2 r.no)
  let s2 := { s1 with
    coves := s1.coves.map fun _ v => v.modNet fun w => w.dropWaiting b gone
    ctrls := s1.ctrls.map fun _ k => k.rollback b n
    streams := s1.streams.map fun lc p => if y.has lc then p.rollback n else p
    net := { s1.net with
      dropped := (s1.net.dropped.filter fun (k : Nat × Nat × Nat × Nat) => decide (s.netUnits < k.2.2.2 + 2250)) ++
        gone.map fun (r : StepRec) => (b, r.no % 4, r.attempt, s.netUnits) } }
  let drop (k : Stack) (r : Nat × StreamPort) : Stack := onlyIf (y.has r.1) (fun k => k.dropFills r.1 r.2) k
  let s3 : State := { s2 with ctrls := s2.ctrls.map fun _ k => s2.streams.rows.foldl drop k }
  s3.modBay b fun y =>
    { y with
      st := { y.st with
        lastEnd := s.clk.elapsed
        live := y.st.live.filter fun r => decide (r.no < n)
        next := match gone.head? with
          | some r => r.no
          | none => y.st.next }
      run := y.run.map fun w =>
        { w with
          lastStep := w.lastStep.filter fun l => decide (l.1 < n)
          stepsBegun := w.stepsBegun - (gone.filter fun r => !r.drain).length } }

/-- The rollback of every uncommitted step of bay `b` (R48). -/
def State.discardAll (s : State) (b : Nat) : State :=
  s.discard b (((s.bay b).st.live.head?.map StepRec.no).getD (s.bay b).st.next)

/-- Attempts that a rollback discards before their boundary count in STEP_PROGRESS (R445). -/
def State.countDiscarded (s : State) (b n : Nat) : State :=
  let k := ((s.bay b).st.live.filter fun r => decide (n ≤ r.no) && r.endedAt.isNone).length
  s.modBay b fun y => { y with hang := { y.hang with progress := y.hang.progress + BitVec.ofNat 32 k } }

/-- A run of the bay ends: its channels close and its cores go idle (R169). -/
def State.closeRun (s : State) (b : Nat) : State :=
  s.modCoves (s.physCoves b) fun c v =>
    { v with
      ch := v.ch.clear s.cnCycles false
      cores := v.cores.map fun _ k =>
        { k with state := (if k.state = 5 then 5 else 0), wait := none, stall := k.stallNow (s.cycles c), heldAt := none } }

/-- The oldest uncommitted step of a bay. -/
def Steps.oldest (t : Steps) : Option StepRec := t.live.head?

/-- The step of the bay that is running: the newest live one that has not reached its boundary. -/
def Steps.running (t : Steps) : Option StepRec := (t.live.filter fun r => r.endedAt.isNone).getLast?

/-- The newest live step of the bay. -/
def Steps.newest (t : Steps) : Option StepRec := t.live.getLast?

/-- The latest commit point of a step in elapsed time (R45). -/
def Steps.deadline (t : Steps) (r : StepRec) : Option Nat :=
  if r.two then ((t.live.find? fun q => q.no == r.no + 1).bind StepRec.endedAt).map fun e => e + 3000
  else r.endedAt.map fun e => e + 3000

/-- The bay stops with an error (R41, R49, R129, R324): every uncommitted step is discarded, STEP_LAST_RB records the code
with STOPPED = 1, running work completes with the code, queued work is cancelled with 0x9129, EVENT 0x01 leaves. -/
def State.stopBay (s : State) (b : Nat) (code : Code) : State :=
  let y := s.bay b
  let att := match y.st.oldest with
    | some r => r.attempt
    | none => match y.st.replay with
      | some r => r.attempt
      | none => 0
  let s1 := (((s.countDiscarded b 0).discardAll b).closeRun b).logBay code b
  let s2 := s1.modBay b fun y =>
    { y with
      stopped := some code
      st := { y.st with
        replay := none, lbCode := code, lbReplay := BitVec.ofNat 2 att, lbStopped := true, draining := false
        rollbacks := if (s.bay b).st.live.isEmpty then y.st.rollbacks else satAdd32 y.st.rollbacks 1 } }
  (((s2.endRunning b code false).dropQueue b 0x9129 true).event b 1 code).takeProgram b

/-- Every uncommitted step of bay `b` rolls back without having failed (R384, R385, R411); the oldest is replayed from committed
state, as the same attempt (log entry 42). -/
def State.rollbackAll (s : State) (b : Nat) : State :=
  let y := s.bay b
  let again : Option ReplayRec := match y.st.live.find? fun r => !r.drain with
    | some r => some { no := r.no, attempt := r.attempt, code := r.code }
    | none => y.st.replay
  if y.st.live.isEmpty then s
  else ((s.countDiscarded b 0).discardAll b).modBay b fun y => { y with st := { y.st with replay := again, draining := false } }

/-- The module parks for a cause (R411): what else a park does follows from `State.parked`. -/
def State.park (s : State) (cause : ParkCause) : State :=
  let s1 := if s.parked then s else (List.range 16).foldl State.rollbackAll s
  if s1.pwr.parks.contains cause then s1 else { s1 with pwr := { s1.pwr with parks := s1.pwr.parks ++ [cause] } }

/-- A cause of a park has cleared. -/
def State.unpark (s : State) (cause : ParkCause) : State :=
  { s with pwr := { s.pwr with parks := s.pwr.parks.filter fun c => c != cause } }

end Sys2Proof.Machine
end

