-- ==== Sys2Proof/Machine/Faults.lean ====
section
/-!
DEFINITION. What an error does beyond its own register: the fail vote of a cove (R129), the cove error and its weight
(R341 to R343), becoming a suspect, fencing and watch (R365 to R368), the choice of a receiving cove (R353).
-/

namespace Sys2Proof.Machine

/-- Ten minutes of elapsed time in nanoseconds (R342). -/
def tenMinutes : Nat := 600000000000

/-- Weight of a cove error (Table 13.6); codes that raise the score to 48 at once answer `none`. -/
def errWeight (code : Code) : Option Nat :=
  if code = 0x5021 ∨ code = 0x5022 ∨ code = 0xB054 ∨ code = 0xE011 then none
  else if code = 0xB010 then some 8
  else if code = 0x4021 ∨ code = 0x4022 ∨ (0x4108#16 ≤ code ∧ code ≤ 0x410A#16) ∨ code = 0x5020
      ∨ (0x6030#16 ≤ code ∧ code ≤ 0x6032#16) ∨ code = 0x7021 ∨ code = 0xA001 ∨ code = 0xA002 ∨ code = 0xB011 then some 16
  else some 0

/-- The weathering score at elapsed time `now` (R342). -/
def Integ.score (g : Integ) (now : Nat) : Nat :=
  min 255 ((g.events.filter fun e => decide (now < e.at_ + tenMinutes)).map ScoreEvent.weight).sum

def State.score (s : State) (c : Nat) : Nat := (s.cove c).ig.score s.clk.elapsed

/-! Fencing. -/

/-- Slots that a move from local position `x` to `r` moves (R20). -/
def movedSlots (hold : BitVec 20) (x r : Nat) : Nat :=
  ((setBits hold 20).filter fun p => decide (min x r ≤ p ∧ p ≤ max x r)).length

/-- Is the physical cove under test, or chosen for one? -/
def State.underTest (s : State) (c : Nat) : Bool :=
  let f := s.field (fieldOf c)
  f.cove == some c && f.phase != 0

/-- The best candidate of a list: fewest slots moved, then lower x (R353). -/
def bestSpare (hold : BitVec 20) (x : Nat) : List Nat → Option Nat
  | [] => none
  | r :: t =>
    match bestSpare hold x t with
    | none => some r
    | some q => if movedSlots hold x q < movedSlots hold x r then some q else some r

/-- The receiving cove for physical cove `c`: an idle normal spare, else one under test (R353). -/
def State.receiver (s : State) (c : Nat) (taken : List Nat) : Option Nat :=
  let g := segOfPhys c
  let hold := s.holdMask g
  let at_ (x : Nat) : Nat := (g / 2) * 40 + (g % 2) * 20 + x
  let free := (List.range 20).filter fun x =>
    !hold.getLsbD x && (s.cove (at_ x)).ig.state == .normal && !taken.contains (at_ x)
  let idle := free.filter fun x => !s.underTest (at_ x)
  match bestSpare hold ((c % 40) % 20) idle with
  | some x => some (at_ x)
  | none => (bestSpare hold ((c % 40) % 20) (free.filter fun x => s.underTest (at_ x))).map at_

/-- Bays that hold a slot in a segment: a handover there involves them (R354). -/
def State.baysOfSeg (s : State) (g : Nat) : List Nat :=
  (List.range 16).filter fun b => (s.bay b).coves.any fun l => segOfLog l == g

/-- A test of the cove, if one runs, is abandoned; its restore completes first (R353, R361). -/
def State.abandonTest (s : State) (c : Nat) : State :=
  if s.underTest c then s.modField (fieldOf c) fun k => { k with result := if k.result = 0 then 3 else k.result } else s

/-- The running tests of some fields are abandoned (R361). -/
def State.abandonTests (s : State) (fs : List Nat) : State :=
  fs.foldl (fun t f => match (t.field f).cove with
    | some c => t.abandonTest c
    | none => t) s

/-- The handover is the one its segment waits for: its receiving cove's test ends, and a bay without a running step holds at
once (R353, R354). -/
def State.placeMove (s : State) (g : Nat) (h : Handover) : State :=
  let held := (s.baysOfSeg g).any fun b => (s.bay b).st.running.isNone
  let h1 : Handover := if held then { h with holdAt := some (h.holdAt.getD s.clk.elapsed) } else h
  let s1 := { s with rot := { s.rot with moves := s.rot.moves.put g h1 } }
  match h.dst with
  | some d => s1.abandonTest d
  | none => s1

/-- A handover is asked for in its segment: it takes effect at the boundaries of the bays concerned (R354, R357). A rotation
handover that gives way waits for its field's next test slot. -/
def State.askMove (s : State) (h : Handover) : State :=
  let g := segOfPhys h.src
  match s.rot.moves.find g with
  | none => s.placeMove g h
  | some old =>
    if old.kind = .test ∧ !old.moving ∧ h.kind ≠ .test then
      (s.modField (fieldOf old.src) fun k => { k with pending := none, walk := old.src }).placeMove g h
    else { s with rot := { s.rot with waiting := s.rot.waiting ++ [(g, h)] } }

/-- The number that IG_STATUS.STATE and the journal give a state (Table 13.11). -/
def CoveState.num : CoveState → Nat
  | .normal => 0
  | .suspect => 1
  | .watch => 2
  | .fenced => 3
  | .held => 5

/-- The cove's COVE_STATE entry (Table 17.11; log entry 34 for its layout). -/
def State.journalCove (s : State) (c : Nat) : State :=
  let t := s.coveTest c
  let g := (s.cove c).ig
  let age := match t.cleanAt with
    | some a => ((s.clk.elapsed : Int) - a).toNat / 1000000000
    | none => 0
  s.journal 1 (leBytes 2 c ++ leBytes 1 (g.state.num + if g.pattern then 8 else 0) ++ leBytes 1 t.requal ++ leBytes 4 age)

/-- State of a cove under fencing set, and journalled (R432). -/
def State.setCoveState (s : State) (c : Nat) (x : CoveState) : State :=
  (s.modCove c fun v => v.modIg fun g => { g with state := x }).journalCove c

/-- The bay of cove `c` puts its slot on, or takes it off, its watch mask (R336, R365). -/
def State.setWatch (s : State) (c : Nat) (on : Bool) : State :=
  match s.logOf c, s.bayOf c with
  | some l, some b =>
    (s.modBay b fun y => { y with watch := if on then l :: y.watch else y.watch.filter fun k => k != l }).event b
      (if on then 3 else 4) (if on then 0xB056 else 0)
  | _, _ => s

/-- The fence of cove `c` has taken effect (R365, R366): a counted one takes its capacity for an hour; its place in the queue
and its watch end. -/
def State.fenceDone (s : State) (c : Nat) (counted : Bool) (b : Option Nat) : State :=
  let watched := (s.cove c).ig.state == .watch
  let s1 := (s.setCoveState c .fenced).modCoveTest c fun t => { t with requal := 0, watchAt := none, cleanAt := none }
  let s2 := s1.modField (fieldOf c) fun k =>
    { k with
      queue := k.queue.filter fun d => d != c
      retry := if k.retry = some c then none else k.retry
      capAt := if counted then some (s.clk.elapsed + 3600000000000) else k.capAt }
  match b with
  | some b => if watched then s2.event b 4 0 else s2
  | none => s2

/-- The fence of cove `c` is decided: capacity is taken and the move asked for (R366, R367); a watched cove that rotation has freed is
fenced where it stands. -/
def State.fenceCounted (s : State) (c : Nat) : State :=
  let f := fieldOf c
  let s1 := s.modField f fun k => { k with capReady := false, capAt := none }
  if (s.logOf c).isNone then s1.fenceDone c true none
  else s1.askMove { src := c, dst := s.receiver c [], kind := .fence, counted := true }

/-- A handover that has not begun to move and counts on spare `c` gets a receiving cove anew (R353). -/
def State.rechoose (s : State) (c : Nat) : State :=
  match s.rot.moves.find (segOfPhys c) with
  | some h =>
    if h.moving ∨ h.kind = .back ∨ h.dst ≠ some c then s else s.placeMove (segOfPhys c) { h with dst := s.receiver h.src [] }
  | none => s

/-- A fence without capacity: a failed test, an unreachable router, or a cove that holds no slot (Table 14.4). A spare that is fenced
receives no slot: a handover that counted on it chooses anew (R353). -/
def State.fenceForced (s : State) (c : Nat) : State :=
  match s.logOf c with
  | none => ((s.fenceDone c false none).modCoveTest c fun t => { t with forced := true }).rechoose c
  | some _ =>
    (s.modCoveTest c fun t => { t with forced := true }).askMove
      { src := c, dst := s.receiver c [], kind := .fence, counted := false }

/-- Is the fence of cove `c` decided, its handover waiting or moving? -/
def State.fenceAsked (s : State) (c : Nat) : Bool :=
  ((s.rot.moves.find (segOfPhys c)).any fun h => h.src == c && h.kind == .fence)
    || s.rot.waiting.any fun w => w.2.src == c && w.2.kind == .fence

/-- A suspect goes on watch (Table 14.4). -/
def State.goWatch (s : State) (c : Nat) : State :=
  (((s.setCoveState c .watch).modCoveTest c fun t => { t with watchAt := some s.clk.elapsed }).setWatch c true).logCove 0xB056 c

/-- Does a bay concerned by a fence of cove `c` hold: one of its segment is without a running step, or is bay `at_`, which is at its
boundary; or does no bay hold a slot there (R354, R366)? -/
def State.fenceHolds (s : State) (c : Nat) (at_ : Option Nat) : Bool :=
  let bs := s.baysOfSeg (segOfPhys c)
  (s.logOf c).isNone || bs.isEmpty || bs.any fun b => at_ == some b || (s.bay b).st.running.isNone

/-- The head of field `f`'s queue is fenced when capacity is available and the bays concerned begin to hold for it, unless it is to be tried
again at the next slot; the other suspects go on watch (Table 14.4, R358, R366, R367). -/
def State.decideFence (s : State) (f : Nat) (at_ : Option Nat) : State :=
  let k := s.field f
  match k.queue.head? with
  | none => s
  | some c =>
    if k.capReady && k.retry != some c && s.fenceHolds c at_ then
      (k.queue.filter fun d => d != c && (s.cove d).ig.state == .suspect).foldl State.goWatch (s.fenceCounted c)
    else s

/-- The fences of every field that can be decided. -/
def State.decideFences (s : State) (at_ : Option Nat) : State := (List.range 4).foldl (fun t f => t.decideFence f at_) s

/-- The boundary by which an error on cove `c` makes it a suspect (R343, R367). -/
def State.boundaryOf (s : State) (c : Nat) : Nat × Nat × Nat :=
  match s.bayOf c with
  | none => (16, s.clk.elapsed, 0)
  | some b =>
    match (s.bay b).st.running with
    | some r => (b, r.no, r.attempt)
    | none => (16, s.clk.elapsed, 0)

/-- Where a new suspect stands in its field's queue (R367, R368). -/
def queueSuspect (s : State) (c : Nat) (q : List Nat) : List Nat :=
  let t := s.coveTest c
  if t.recurAt.isSome then c :: q
  else
    let before (d : Nat) : Bool :=
      let u := s.coveTest d
      u.suspectAt != t.suspectAt || decide (s.score c < s.score d) || (s.score d == s.score c && decide (d < c))
    q.filter before ++ [c] ++ q.filter fun d => !before d

/-- A queue with its members that `mine` names replaced, in place, by the members of a second list. -/
def refill (mine : Nat → Bool) : List Nat → List Nat → List Nat
  | [], _ => []
  | q, [] => q
  | d :: t, x :: r => if mine d then x :: refill mine t r else d :: refill mine t (x :: r)

/-- Suspects of one boundary stand in the order of their scores at the boundary (R367). -/
def State.sortSuspects (s : State) (f : Nat) (key : Nat × Nat × Nat) : State :=
  let q := (s.field f).queue
  let mine (d : Nat) : Bool :=
    (s.coveTest d).suspectAt == key && (s.cove d).ig.state == .suspect && !s.fenceAsked d && (s.coveTest d).recurAt.isNone
  s.modField f fun k => { k with queue := refill mine q ((q.filter mine).foldl (fun l d => queueSuspect s d l) []) }

/-- The fences that the boundary of a step of bay `b` decides, each field's suspects in order (R343, R367). -/
def State.boundaryFences (s : State) (b : Nat) (r : StepRec) : State :=
  ((List.range 4).foldl (fun t f => t.sortSuspects f (b, r.no, r.attempt)) s).decideFences (some b)

/-- The cove's score has reached 48: it becomes a suspect and is queued. With capacity available and no watched cove ahead of it, the
queue's head is fenced as soon as the bays concerned hold; else the cove goes on watch (Table 14.4, R367). -/
def State.suspect (s : State) (c : Nat) : State :=
  match s.logOf c with
  | none => s.fenceForced c
  | some _ =>
    let f := fieldOf c
    let s1 := (s.setCoveState c .suspect).modCoveTest c fun t => { t with suspectAt := s.boundaryOf c }
    let s2 := s1.modField f fun k => { k with queue := queueSuspect s1 c k.queue }
    if (s2.field f).capReady ∧ (s2.field f).queue.head?.any fun d => (s2.cove d).ig.state == .suspect then s2.decideFence f none
    else s2.goWatch c

/-- The step attempt of the bay running on cove `c` that an error belongs to: bay, step and attempt. -/
def State.attemptAt (s : State) (c : Nat) : Option (Nat × Nat × Nat) :=
  match s.bayOf c with
  | none => none
  | some b => (s.bay b).st.newest.map fun r => (b, r.no, r.attempt)

/-- The step attempt of live step `n` of the bay on cove `c`: none where the step is not live. -/
def State.attemptIn (s : State) (c n : Nat) : Option (Nat × Nat × Nat) :=
  match s.bayOf c with
  | none => none
  | some b => ((s.bay b).st.live.find? fun r => r.no == n).map fun r => (b, r.no, r.attempt)

/-- What the first-error rule of R341 counts by: the error's step attempt, else 200 µs of module time. -/
def State.errKey (s : State) (at_ : Option (Nat × Nat × Nat)) : Nat × Nat × Nat :=
  match at_ with
  | some (b, n, a) => (b + 1, n, a)
  | none => (0, s.mt.ns / 200000, 0)

/-- Changes the record of step `n` of bay `b`. -/
def State.modStep (s : State) (b n : Nat) (f : StepRec → StepRec) : State :=
  s.modBay b fun y => { y with st := { y.st with live := y.st.live.map fun r => if r.no = n then f r else r } }

/-- Is the copy of an exported record still in the log, whose latest entry is number `head` (R347)? -/
def SigRec.logged (r : SigRec) (head : Nat) : Bool := r.exported && decide (head < r.logNo + 4096)

/-- The last `n` records, and exported ones until the log wraps over their copies (R347). -/
def keepRecords (head : Nat) : Nat → List SigRec → List SigRec
  | _, [] => []
  | 0, r :: t => if r.logged head then r :: keepRecords head 0 t else keepRecords head 0 t
  | n + 1, r :: t => r :: keepRecords head n t

/-- The records that Headland holds (R347). -/
def State.heldRecords (s : State) : List SigRec := keepRecords s.mg.logHead 65536 s.integ.sigs

/-- A record is marked EXPORTED and copied to the log (R347). -/
def State.exportRecord (s : State) (c : Nat) (r : SigRec) : State :=
  { s.logRecord r.code c r.bytes with integ := { s.integ with
      sigs := s.integ.sigs.map fun q => if q.seq = r.seq then { q with exported := true, logNo := s.mg.logHead + 1 } else q } }

/-- Records of the cove in its current window are exported (R347). -/
def State.exportRecords (s : State) (c : Nat) : State :=
  let mine (r : SigRec) : Bool := r.cove == c && !r.exported && decide (s.clk.elapsed < r.at_ + tenMinutes)
  ((s.integ.sigs.filter mine).foldl (fun (t : State) r => t.exportRecord c r) s).modCove c fun v => v.modIg fun g =>
    { g with unrecorded := g.unrecorded.map fun r => { r with exported := true } }

/-- STATE of IG_STATUS (Table 13.11). -/
def Integ.stateNum (g : Integ) : Nat := if g.state = .fenced ∧ g.pattern then 4 else g.state.num

/-- Unit of a code (Table 13.8); the unit of 0xB054 is that of the failing block (`failedUnit`). -/
def sigUnit (code : Code) : Nat :=
  if code = 0x4021 then 0 else if code = 0x4022 then 1 else if code = 0xB011 then 2
  else if 0x4108#16 ≤ code ∧ code ≤ 0x410A#16 then 3 else if code = 0x5020 ∨ code = 0x5021 ∨ code = 0x5022 then 4
  else if 0x6030#16 ≤ code ∧ code ≤ 0x6032#16 then 5 else if code = 0x7021 then 6
  else if code = 0xA001 ∨ code = 0xA002 then 7 else if code = 0xB010 then 8 else 4

/-- Units of the blocks of a test phase (Tables 13.8 and 14.3; log entry 165). -/
def phaseUnits : Nat → List Nat
  | 1 => [4]
  | 2 => [0, 2]
  | 3 => [3, 7]
  | 4 => [5]
  | _ => [6]

/-- Unit location of a record, from the cove's error registers as the error left them (Table 13.7). -/
def Cove.sigLoc (v : Cove) (code : Code) : Option (List Nat) :=
  match sigUnit code with
  | 0 => some [v.brk.lastRow.toNat, v.brk.lastCol.toNat]
  | 3 => ((v.cores.rows.find? fun r => r.2.excCode == code).map fun r => [r.1])
  | 4 => if code = 0x5020 then some [v.sp.parBank.toNat, v.sp.parRow.toNat] else none
  | 5 => some [v.tide.violPlane.toNat, v.tide.violPort.toNat]
  | 7 => some [v.ch.errCore.toNat, v.ch.errQueue]
  | _ => none

/-- A fault signature record is due for an error of the cove (R346): it says how the cove stands after the event; `note` adds what
only the place of the error knows. -/
def State.owesRecord (s : State) (at_ : Option (Nat × Nat × Nat)) (c : Nat) (code : Code) (note : SigPending → SigPending) : State :=
  let v := s.cove c
  let g := v.ig
  let p : SigPending :=
    { code := code, time := s.mt.ns, tstate := s.mt.state, at_ := s.clk.elapsed, log := s.logOf c, bay := s.bayOf c
      step := at_.map fun a => (a.2.1, a.2.2)
      window := (g.events.filter fun e => decide (s.clk.elapsed < e.at_ + tenMinutes)).length, total := g.totalEvents
      score := g.score s.clk.elapsed, state := g.stateNum, op := (s.half (halfOf c)).op
      temp := s.pwrx.celsius.get 0 (fieldOf c), unit := sigUnit code, loc := v.sigLoc code
      hash := if code = 0x5020 ∧ v.sp.parImage ≠ [] then some ((Config.shake256 v.sp.parImage).setWidth 256) else none }
  s.modCove c fun v => v.modIg fun g => { g with unrecorded := g.unrecorded ++ [note p] }

/-- Records that the cove owes. -/
def State.errCount (s : State) (c : Nat) : Nat := (s.cove c).ig.unrecorded.length

/-- The cove's score is 48 or more: a cove in service becomes a suspect, and its records are exported (R342, R347). While a handover of
its segment moves the error changes nothing else (R343; log entry 205). -/
def State.judgeScore (s : State) (c : Nat) : State :=
  let x := (s.cove c).ig
  let moving := (s.rot.moves.find (segOfPhys c)).any Handover.moving
  if (x.state = .normal ∨ x.state = .held) ∧ 48 ≤ x.score s.clk.elapsed ∧ !moving then (s.suspect c).exportRecords c else s

/-- A cove error of a step attempt charged to cove `c` (R341, R342, R343): logged, counted, weighted if it is the attempt's first; at 48
the cove becomes a suspect. `note` adds to its record. -/
def State.chargeWith (s : State) (at_ : Option (Nat × Nat × Nat)) (c : Nat) (code : Code) (note : SigPending → SigPending) : State :=
  let key := s.errKey at_
  let g := (s.cove c).ig
  let now := s.clk.elapsed
  let first := !g.weighted.contains key
  let w := match errWeight code with
    | some k => if first then k else 0
    | none => 48 - g.score now
  let carries := (first && w != 0) || errWeight code == none
  let ev : ScoreEvent := ⟨code, w, now⟩
  let s1 := (s.logCove code c).modCove c fun v => v.modIg fun g =>
    { g with
      ctr := bump g.ctr 0 1
      weighted := if carries then (key :: g.weighted).take 8 else g.weighted
      totalEvents := g.totalEvents + if carries then 1 else 0
      events := if carries then ev :: g.events.filter (fun e => decide (now < e.at_ + tenMinutes)) else g.events
      hist := if carries then (ev :: g.hist).take 8 else g.hist }
  if carries then
    let s2 := (s1.owesRecord at_ c code note).judgeScore c
    let k := s1.errCount c
    s2.modCove c fun v => v.modIg fun g =>
      { g with unrecorded := g.unrecorded.take k ++ (g.unrecorded.drop k).map fun r => { r with state := g.stateNum } }
  else s1.judgeScore c

/-- A cove error of a step attempt whose record needs nothing more. -/
def State.chargeIn (s : State) (at_ : Option (Nat × Nat × Nat)) (c : Nat) (code : Code) : State := s.chargeWith at_ c code id

/-- A cove error of what runs on the cove now. -/
def State.charge (s : State) (c : Nat) (code : Code) : State := s.chargeIn (s.attemptAt c) c code

/-- A failed self-test is charged; the block that failed is of unit `u` (R363, Table 13.6). -/
def State.failTest (s : State) (c u : Nat) : State := s.chargeWith (s.attemptAt c) c 0xB054 fun r => { r with unit := u }

/-- Cove `c` is a culprit of step `n` of bay `b`, should the step fail (R344). -/
def State.blame (s : State) (b n c : Nat) : State :=
  s.modStep b n fun r => { r with culprits := if r.culprits.contains c then r.culprits else r.culprits ++ [c] }

/-- A cove error in a step attempt (R341, R344). -/
def State.coveErrorIn (s : State) (at_ : Option (Nat × Nat × Nat)) (c : Nat) (code : Code) (note : SigPending → SigPending := id) : State :=
  match at_ with
  | some (b, n, _) => (s.chargeWith at_ c code note).blame b n c
  | none => s.chargeWith at_ c code note

/-- A cove error in the step that runs on the cove (R341, R344). -/
def State.coveError (s : State) (c : Nat) (code : Code) : State := s.coveErrorIn (s.attemptAt c) c code

/-- The fail vote of cove `c` for step `n` is cast at once with its cause (R129); the step keeps the first cause, a hardware
error before a program error (R130). -/
def State.castFail (s : State) (c n att : Nat) (code : Code) (hw : Bool) : State :=
  let s1 := s.modCove c fun v =>
    { v with
      ig := { v.ig with failed := v.ig.failed ++ [(n, att, code)] }
      tide := { v.tide with
        casts := v.tide.casts.filter (fun x => x.2 != BitVec.ofNat 2 n) ++ [(false, BitVec.ofNat 2 n)] } }
  match s.bayOf c with
  | none => s1
  | some b => s1.modStep b n fun r =>
      if r.code = 0 ∨ (hw ∧ !r.hw) then { r with code := code, hw := hw } else r

/-- A hardware error of a cove in a step attempt: fail vote at once and cove error (R129, R341). -/
def State.hwErrorIn (s : State) (at_ : Option (Nat × Nat × Nat)) (c : Nat) (code : Code) (note : SigPending → SigPending := id) : State :=
  match at_ with
  | some (_, n, a) => (s.coveErrorIn at_ c code note).castFail c n a code true
  | none => s.coveErrorIn at_ c code note

/-- A hardware error of a cove in the step that runs there. -/
def State.hwError (s : State) (c : Nat) (code : Code) : State := s.hwErrorIn (s.attemptAt c) c code

end Sys2Proof.Machine
end

