-- ==== Sys2Proof/Machine/NetOps.lean ====
section
/-!
DEFINITION. The current network (chapter 09): ring geometry, routes, virtual channels, injection with its stamps, and what
every ejection checks (R216 to R237, R243).
-/

namespace Sys2Proof.Machine

/-- Ring position along an X ring (R216). -/
def xPos (x : Nat) : Nat := if x % 2 = 0 then x / 2 else 39 - (x - 1) / 2
/-- Physical x of an X-ring position. -/
def xAt (p : Nat) : Nat := if p < 20 then 2 * p else 2 * (39 - p) + 1
/-- Ring position along a Y ring (R216). -/
def yPos (y : Nat) : Nat := if y % 2 = 0 then y / 2 else 19 - (y - 1) / 2
/-- Physical y of a Y-ring position. -/
def yAt (p : Nat) : Nat := if p < 10 then 2 * p else 2 * (19 - p) + 1

/-- The router that output port 0 to 3 of router `c` leads to (Table 9.1). -/
def ringNext (c port : Nat) : Nat :=
  let x := c % 40
  let y := c / 40
  match port with
  | 0 => y * 40 + xAt ((xPos x + 1) % 40)
  | 1 => y * 40 + xAt ((xPos x + 39) % 40)
  | 2 => yAt ((yPos y + 1) % 20) * 40 + x
  | _ => yAt ((yPos y + 19) % 20) * 40 + x

/-- The input port at which a packet sent on output port 0 to 3 arrives. -/
def ringBack (port : Nat) : Nat := if port % 2 = 0 then port + 1 else port - 1

/-- Does the link of output port 0 to 3 of router `c` cross its ring's dateline (R224)? -/
def crossesDateline (c port : Nat) : Bool :=
  let d := ringNext c port
  if port < 2 then min (c % 40) (d % 40) == 0 && max (c % 40) (d % 40) == 1
  else min (c / 40) (d / 40) == 0 && max (c / 40) (d / 40) == 1

/-- Is every link of `n` hops from router `c` in direction `port` enabled? -/
def pathClear (links : List (Nat × Nat)) (port : Nat) : Nat → Nat → Bool
  | 0, _ => true
  | n + 1, c => !links.contains (c, port) && pathClear links port n (ringNext c port)

/-- The direction in a ring of `len` positions, ports `plus` and `plus + 1`: the shorter way, + at equal distance, the other
way round where the shorter one is cut, none where both are (R228, R229). -/
def ringDir (links : List (Nat × Nat)) (c src dst len plus : Nat) : Option Nat :=
  let df := (dst + len - src) % len
  let db := (src + len - dst) % len
  let fwd := pathClear links plus df c
  let bwd := pathClear links (plus + 1) db c
  if df ≤ db then (if fwd then some plus else if bwd then some (plus + 1) else none)
  else if bwd then some (plus + 1) else if fwd then some plus else none

/-- The route table entry of router `c` for destination `d`: 0 to 4, or 7 unreachable (R227, Table 9.11). -/
def routeEntry (links : List (Nat × Nat)) (c d : Nat) : Nat :=
  if c = d then 4
  else if c % 40 ≠ d % 40 then (ringDir links c (xPos (c % 40)) (xPos (d % 40)) 40 0).getD 7
  else (ringDir links c (yPos (c / 40)) (yPos (d / 40)) 20 2).getD 7

namespace NetModule

def valid (n : NetModule) (e : Bool) : Bool := if e then n.valid1 else n.valid0
def links (n : NetModule) (e : Bool) : Option (List (Nat × Nat)) := if e then n.links1 else n.links0

end NetModule

/-- The route entry of router `c` for destination `d` in version `e`: one that has been written, else the computed one; 7 in a version
without a table (R235, Table 9.11). -/
def State.entryAt (s : State) (e : Bool) (c d : Nat) : Nat :=
  match (s.cove c).net.rt.find (d + if e then 800 else 0) with
  | some v => v
  | none => match s.net.links e with
    | some l => routeEntry l c d
    | none => 7

/-- The physical index of logical cove `l` in version `e` of router `c`'s map (R235). -/
def State.mapAt (s : State) (c : Nat) (e : Bool) (l : Nat) : Option Nat :=
  match (s.cove c).net.map.find (l + if e then 720 else 0) with
  | some v => if v / 32768 % 2 = 1 then some (v % 1024) else none
  | none => (if e then s.net.map1 else s.net.map0).find l

/-! Edge agents (Table 1.3). -/

/-- Routers of an HBM controller's AGENT ports. -/
def stackRouters (k : Nat) : List Nat :=
  (List.range 10).map fun i => if k < 4 then k * 10 + i else 19 * 40 + (k - 4) * 10 + i
/-- Routers of the jetty's AGENT ports. -/
def jettyRouters : List Nat := [360, 400]

/-- The agent attached to a router's sixth port, if any. -/
def agentAt (c : Nat) : Option Iface :=
  if c < 40 then some (.stack (Fin.ofNat 8 (c / 10)))
  else if 760 ≤ c ∧ c < 800 then some (.stack (Fin.ofNat 8 (4 + (c - 760) / 10)))
  else if c = 240 ∨ c = 280 then some (.mac 0)
  else if c = 360 ∨ c = 400 then some .jetty
  else if c = 480 ∨ c = 520 then some (.mac 1)
  else if c = 399 ∨ c = 439 then some .headland
  else if c = 519 then some .nvm
  else none

/-- The output port for a packet at router `c`: ejection at LOCAL (4) or AGENT (5); none of them for an AGENT port that the router does
not have (R217, R227). -/
def State.route (s : State) (c : Nat) (p : Packet) : Nat :=
  let e := s.entryAt p.epoch c p.dstPhys.toNat
  if e ≠ 4 then e
  else if p.dstPhys.toNat ≠ c then 7
  else if !p.agent then 4
  else if (agentAt c).isSome then 5
  else 7

/-- Virtual channel of a packet (R223). -/
def packetVc (p : Packet) : Nat := (if p.response then 2 else 0) + if p.dlx then 1 else 0

/-- Packets waiting at input `port`, channel `vc` of a router. -/
def Net.buf (n : Net) (port vc : Nat) : List Packet := n.vcs.get [] (port * 4 + vc)
def Net.setBuf (n : Net) (port vc : Nat) (l : List Packet) : Net := { n with vcs := n.vcs.set [] (port * 4 + vc) l }

/-- Counters of Table 9.11 (AGE_DROP 0, STALE 1, PAR_ERR 2, REDIRECT 3, DMA_TIMEOUT 4, WITHDRAW 5, OUT_FLITS 6 + p). -/
def Net.count (n : Net) (k : Nat) (by_ : Nat) : Net := { n with ctr := bump n.ctr k by_ }

def State.netCount (s : State) (c k : Nat) : State := s.modCove c fun v => v.modNet fun n => n.count k 1

/-- Flits of a packet (R220). -/
def packetFlits (p : Packet) : Nat := 1 + (p.payload.length + 31) / 32

/-- Free slots of the channel a new packet of this class enters at the first hop from `c` toward `d`. -/
def State.firstHopFree (s : State) (c d : Nat) (response : Bool) : Nat :=
  let out := if c = d then 4 else s.entryAt (s.cove c).net.epoch c d
  if out = 4 then 2
  else if 4 < out then 0
  else 2 - ((s.cove (ringNext c out)).net.buf (ringBack out)
    ((if response then 2 else 0) + if crossesDateline c out then 1 else 0)).length

/-- The router of most free first-hop slots, the lowest index of several (R227). -/
def bestRouter (f : Nat → Nat) : List Nat → Option Nat
  | [] => none
  | c :: t =>
    match bestRouter f t with
    | none => some c
    | some d => if f c < f d then some d else some c

/-- The router of an agent that a packet from `c` addresses: the first reachable one for ordered traffic, else the one of
most free slots at the first hop (R227, R229). -/
def State.agentRouter (s : State) (c : Nat) (ordered : Bool) (routers : List Nat) : Nat :=
  let live := routers.filter fun d => !(s.cove d).net.unreach
  if ordered then live.head?.getD 0
  else (bestRouter (fun d => s.firstHopFree c d false) live).getD 0

/-- Default deadline offsets of Table 9.4. -/
def dlControl : Nat := 28
def dlChannel : Nat := 450
def dlDma : Nat := 2250
def dlSlow : Nat := 16383

/-- An empty request packet. -/
def blankPacket : Packet :=
  { type := 0, response := false, dlx := false, epoch := false, ordered := false, last := false, bcast := false
    agent := false, dstPhys := 0, dstLog := none, srcPhys := 0, srcAgent := false, srcLog := none, deadline := 0
    injTime := 0, bay := 0, step := 0, attempt := 0, stepped := false, tag := 0, gen := 0, addr := 0, count := 0
    handle := none, payload := [], resv := false, bad := false, redirected := false }

/-! Injection (R219, R226, R227, R230, R235, R237). -/

/-- The input port of an injector. -/
def Injection.port (w : Injection) : Nat := if w.agent then 5 else 4

/-- Must the packet wait at its injector: ordered injection is held, or its channel has no slot free (R223, R237)? A packet that is
sent on is not held (R236). -/
def Net.blocks (n : Net) (w : Injection) : Bool :=
  (n.holdTo.isSome && w.p.ordered && !w.p.redirected) || decide (2 ≤ (n.buf w.port (packetVc w.p)).length)

/-- Does the transfer that the packet belongs to wait for an answer to it (R242)? -/
def Dma.sends (d : Dma) (p : Packet) : Bool :=
  d.started && !d.done && d.tag == p.tag.toNat && d.gen == p.gen && (p.type == 2 || p.type == 3)

/-- The packet as it enters router `c`: the injector stamps the epoch in force, the time and the source and turns a logical destination
into a router, none for a dark cove; a packet sent on keeps its stamps (R230, R235, R236, R351). -/
def State.stamped (s : State) (c : Nat) (w : Injection) : Option Packet :=
  let e := (s.cove c).net.epoch
  if w.p.redirected then some { w.p with epoch := e }
  else
    let q : Packet :=
      { w.p with
        epoch := e, injTime := s.netNow, deadline := s.netNow + BitVec.ofNat 16 w.off, srcPhys := BitVec.ofNat 10 c
        srcAgent := w.agent, srcLog := (s.logOf c).map (BitVec.ofNat 10) }
    match q.dstLog with
    | some l => (s.mapAt c e l.toNat).map fun d => { q with dstPhys := BitVec.ofNat 10 d }
    | none => some (if w.to_.isEmpty then q else { q with dstPhys := BitVec.ofNat 10 (s.agentRouter c q.ordered w.to_) })

/-- A packet enters router `c`, or is dropped and counted where it has no destination. -/
def State.intoRing (s : State) (c : Nat) (w : Injection) : State :=
  match s.stamped c w with
  | none => s.netCount c 1
  | some q => s.modCove c fun v => v.modNet fun n =>
    { n.setBuf w.port (packetVc q) (n.buf w.port (packetVc q) ++ [q]) with
      dma := n.dma.map fun d => if !w.agent && d.sends q then { d with sentAt := s.cnCycles } else d }

/-- Waiting packets of router `c` enter, in order, as far as they may. -/
def State.enter (s : State) (c : Nat) : State :=
  (s.cove c).net.inj.foldl (fun t w =>
      if (t.cove c).net.blocks w then t.modCove c fun v => v.modNet fun n => { n with inj := n.inj ++ [w] } else t.intoRing c w)
    (s.modCove c fun v => v.modNet fun n => { n with inj := [] })

/-- A packet is handed to router `c`'s injector, LOCAL or AGENT. -/
def State.post (s : State) (c : Nat) (w : Injection) : State :=
  (s.modCove c fun v => v.modNet fun n => { n with inj := n.inj ++ [w] }).enter c

/-- A packet sent from router `c` with deadline offset `off`. -/
def State.inject (s : State) (c : Nat) (fromAgent : Bool) (off : Nat) (p : Packet) : State :=
  s.post c { agent := fromAgent, off := off, p := p }

/-- Is there a slot for the answer to a request, which the endpoint reserves before it accepts the request (R226)? -/
def State.canAnswer (s : State) (c : Nat) (agent : Bool) : Bool :=
  let n := (s.cove c).net
  decide ((n.inj.filter fun w => w.agent == agent && w.p.response).length + (n.buf (if agent then 5 else 4) 2).length < 2)

/-! Ejection. -/

/-- Does the packet wait at its destination for what it reaches? -/
def State.atEjection (s : State) (p : Packet) : Bool := (s.cove p.dstPhys.toNat).net.ejected.any fun x => x.2 == p

/-- Is deadline `a` earlier than `b` (R231)? -/
def earlier (a b : BitVec 16) : Bool := let d := (b - a).toNat; 1 ≤ d && decide (d < 2 ^ 15)

/-- Has the packet aged out (R234)? -/
def State.aged (s : State) (p : Packet) : Bool := decide (2250 ≤ (s.netNow - p.injTime).toNat)

/-- Does the packet belong to a rolled-back attempt, and was it sent before the rollback (R243, log entry 155)? -/
def State.packetDropped (s : State) (p : Packet) : Bool :=
  p.stepped && s.net.dropped.any fun k =>
    k.1 == p.bay.toNat && k.2.1 == p.step.toNat && k.2.2.1 == p.attempt.toNat && !earlier (BitVec.ofNat 16 k.2.2.2) p.injTime

/-- Has the packet the class and the order of its TYPE (Table 9.3, R228)? A reserved TYPE has none (log entry 156). -/
def asSent (p : Packet) : Bool :=
  match p.type.toNat with
  | 1 => p.ordered
  | 2 => !p.response
  | 3 => !p.response
  | 4 => p.response
  | 5 => p.response
  | 6 => p.response
  | 7 => !p.response && !p.ordered
  | 8 => p.ordered
  | 9 => p.response && p.ordered
  | 10 => !p.response && !p.ordered
  | 11 => p.ordered
  | _ => false

/-- The packet taken from where it waits at its destination, if it came through the routers of this model. -/
def Net.takeEjected (n : Net) (p : Packet) : Net := { n with ejected := n.ejected.filter fun q => q.2 != p }

/-- Is the packet one that the LOCAL interface of a cove in reset or recovery does not accept (R455)? REG and CHANNEL packets, and
those of the recovery itself, are accepted. -/
def State.resetDrops (s : State) (p : Packet) : Bool :=
  !p.agent && (match s.bayOf p.dstPhys.toNat with
      | some b => (s.bay b).hang.resetting || (s.bay b).hang.recovering
      | none => false)
    && match p.type.toNat with
      | 1 => false
      | 8 => false
      | 9 => false
      | 11 => false
      | 7 => true
      | 10 => true
      | _ => p.stepped

/-- Ejection at the packet's destination router (R222, R234, R236, R243, R455): dropped and counted, sent on to where its logical slot
now is, or received by `f`. -/
def State.eject (s : State) (p : Packet) (f : State → State) : State :=
  let c := p.dstPhys.toNat
  let s0 := s.modCove c fun v => v.modNet fun n => n.takeEjected p
  if !s.net.valid p.epoch then s0.netCount c 1
  else if !asSent p || p.resv then s0.netCount c 1
  else if s.aged p then s0.netCount c 0
  else if (match p.dstLog with
    | some l => s.logOf c != some l.toNat
    | none => false) then
    match p.redirected, s.physOf (p.dstLog.getD 0).toNat with
    | false, some d =>
      (s0.netCount c 3).post c
        { agent := false, off := 0, p := { p with dlx := false, redirected := true, dstPhys := BitVec.ofNat 10 d } }
    | _, _ => s0.netCount c 1
  else if s.packetDropped p || s.resetDrops p then s0.netCount c 1
  else f s0

end Sys2Proof.Machine
end

