-- ==== Sys2Proof/Machine/HbmOps.lean ====
section
/-!
DEFINITION. HBM (chapter 10): addresses, the granule map and shadow granules, reads by a step and by the host, writes by a
step and into committed state, poison, correctable errors and row repair (R38 to R41, R250 to R268).
-/

namespace Sys2Proof.Machine

/-- Bytes of a page and of a stack (R250, R251). -/
def pageBytes : Nat := 0x200000
def stackBytes : Nat := 0x600000000

/-- Size of a bay's HBM (R252). -/
def BayRecord.hbmBytes (r : BayRecord) : Nat := (r.extents.map Extent.pages).sum * pageBytes

/-- Where a bay-relative byte lies: stack, stack-local granule, offset (R250, R252). -/
def BayRecord.locate (r : BayRecord) (a : Nat) : Option (Nat × Nat × Nat) :=
  (r.extents.find? fun e => decide (e.base ≤ a ∧ a < e.base + e.pages * pageBytes)).map fun e =>
    let x := e.page * pageBytes + (a - e.base)
    (e.stack, x / 65536, x % 65536)

/-- Does `n` bytes from `a` on lie inside one extent? -/
def BayRecord.oneExtent (r : BayRecord) (a n : Nat) : Bool :=
  r.extents.any fun e => decide (e.base ≤ a ∧ a + n ≤ e.base + e.pages * pageBytes)

/-- The extents of bay `b`; none without a record. -/
def State.locate (s : State) (b a : Nat) : Option (Nat × Nat × Nat) := (s.bay b).record.bind fun r => r.locate a

/-- The cached-program range of the bay is read-only (R254). -/
def Bay.inCache (y : Bay) (a n : Nat) : Bool :=
  match y.program with
  | none => false
  | some p => decide (0 < n ∧ a < p.cacheAddr + p.progLen ∧ p.cacheAddr < a + n)

/-- Committed physical granule of a granule (R261). -/
def Stack.phys (k : Stack) (g : Nat) : Nat := (k.map.find g).getD g

/-- Whose view of memory: the host's and other bays' (committed data), or a step's of a bay (R39). -/
abbrev View := Option (Nat × Nat)

/-- Is a shadow visible in a view? -/
def Shadow.seen (h : Shadow) (v : View) : Bool :=
  h.committed || match v with
    | none => false
    | some (b, n) => h.bay == b && decide (h.step ≤ n)

/-- The newer of two shadows of a granule: an uncommitted step's before a committed one's, of uncommitted steps the later one's;
committed shadows stand in the order of their commits (R39). -/
def Shadow.newer (m : Option Shadow) (h : Shadow) : Option Shadow :=
  match m with
  | none => some h
  | some x =>
    if h.committed then (if x.committed then some h else some x)
    else if !x.committed && decide (h.step < x.step) then some x else some h

def newestShadow (l : List Shadow) : Option Shadow := l.foldl Shadow.newer none

/-- The physical granule that serves chunk `ch` of granule `g`: the newest visible shadow whose chunk is fresh or copied,
else the committed granule (R39, R262, R263). -/
def Stack.resolve (k : Stack) (v : View) (g ch : Nat) : Nat :=
  match newestShadow (k.shadows.filter fun h =>
    h.granule == g && h.seen v && (h.fresh.contains ch || h.copied.contains ch)) with
  | some h => h.phys
  | none => k.phys g

/-- Key of a byte of a stack in `hbm`. -/
def hbmKey (stack phys u : Nat) : Nat := stack * stackBytes + phys * 65536 + u

/-- `n` bytes of a granule in a view. -/
def State.granuleBytes (s : State) (st : Nat) (v : View) (g u n : Nat) : List Byte :=
  (List.range n).map fun i => memByte s.hbm (hbmKey st ((s.stack st).resolve v g ((u + i) / 256)) (u + i))

/-- Does a codeword of the bytes hold poison (R265)? Codewords are named by physical granule × 2,048 + u / 32. -/
def State.granulePoison (s : State) (st : Nat) (v : View) (g u n : Nat) : Bool :=
  (List.range n).any fun i =>
    (s.stack st).poison.contains ((s.stack st).resolve v g ((u + i) / 256) * 2048 + (u + i) / 32)

/-- `n` bay-relative bytes in a view; bytes outside the bay read 0. -/
def State.bayBytes (s : State) (b : Nat) (v : View) (a n : Nat) : List Byte :=
  (List.range n).map fun i =>
    match s.locate b (a + i) with
    | some (st, g, u) => memByte s.hbm (hbmKey st ((s.stack st).resolve v g (u / 256)) u)
    | none => 0

/-- Does a codeword of the bay-relative range hold poison? -/
def State.bayPoison (s : State) (b : Nat) (v : View) (a n : Nat) : Bool :=
  (List.range n).any fun i =>
    match s.locate b (a + i) with
    | some (st, g, u) => s.granulePoison st v g u 1
    | none => false

/-- Bytes written into a physical granule; whole codewords written lose their poison (R265); HB_CTRL.INJ_CE flips a bit of
the next codeword written (R272). -/
def State.putPhys (s : State) (st phys u : Nat) (bs : List Byte) : State :=
  let whole (w : Nat) : Bool :=
    decide (w / 2048 = phys ∧ u ≤ w % 2048 * 32 ∧ w % 2048 * 32 + 32 ≤ u + bs.length)
  ({ s with hbm := memSetBytes s.hbm (hbmKey st phys u) bs }).modStack st fun k =>
    let left := k.flipped.filter fun w => !whole w
    { k with
      poison := k.poison.filter fun w => !whole w
      flipped := if k.injCe then left ++ [phys * 2048 + u / 32] else left
      injCe := false }

/-- Counts bytes written in 64 KiB units (Table 10.9). -/
def Stack.countWr (k : Stack) (n : Nat) : Stack :=
  let t := k.wrBytes + n
  { k with wrBytes := t % 65536, ctr := if t / 65536 = 0 then k.ctr else bump k.ctr 6 (t / 65536) }
def Stack.countRd (k : Stack) (n : Nat) : Stack :=
  let t := k.rdBytes + n
  { k with rdBytes := t % 65536, ctr := if t / 65536 = 0 then k.ctr else bump k.ctr 5 (t / 65536) }

/-- The error registers of a controller: class 0x8 code and its location (Table 10.9). -/
def Stack.note (k : Stack) (code : Code) (pc bank row : Nat) : Stack :=
  let sp := k.talus.any fun t => t.pc == pc && t.bank == bank && t.row == row
  { k with errCode := code
           errLoc := BitVec.ofNat 32 (bank + row * 64 + if sp then 2 ^ 20 else 0) + BitVec.ofNat 32 (pc * 2 ^ 27) }

/-- Pseudo-channel, bank and row of a byte of a physical granule (Table 10.1). -/
def rowOf (phys u : Nat) : Nat × Nat × Nat :=
  let r := 2 * phys + (u / 8192) / 4
  ((u / 256) % 32, r % 48, r / 48)

/-! Shadow granules. -/

/-- Uncommitted shadows of a bay over all stacks (R40). -/
def State.bayShadows (s : State) (b : Nat) : Nat :=
  (s.ctrls.rows.map fun r => (r.2.shadows.filter fun h => h.bay == b && !h.committed).length).sum

/-- A free physical granule of the pool: a freed one, else the next of the reserved pages. -/
def Stack.takeFree (k : Stack) : Nat × Stack :=
  match k.poolFreed with
  | g :: t => (g, { k with poolFreed := t })
  | [] => (k.poolNext, { k with poolNext := k.poolNext + 1 })

/-- Bank and row of a spare row of its pseudo-channel (R268). -/
def spareRow (sp : Nat) : Nat × Nat := ((782336 + sp) % 48, (782336 + sp) / 48)

/-- Row where a codeword's row is served: its own, or the spare row that replaces it (R268). -/
def Stack.servedRow (k : Stack) (pc bank row : Nat) : Nat × Nat :=
  match k.talus.find? fun t => t.pc == pc && t.bank == bank && t.row == row with
  | some t => spareRow t.spare
  | none => (bank, row)

/-- A request for the chunk at offset `u` of a physical granule (R255). -/
def Stack.ask (k : Stack) (phys u : Nat) (dl : BitVec 16) (fill : Option (Nat × Nat × Nat)) : Stack :=
  let (pc, bank, row) := rowOf phys u
  let r := k.servedRow pc bank row
  { k with reqs := k.reqs ++ [⟨pc, r.1, r.2, dl, fill⟩] }

/-- The shadow of granule `g` for a step, taken if there is none (R38). -/
def Stack.shadowFor (k : Stack) (b n g : Nat) (dl : BitVec 16) : Stack :=
  if k.shadows.any fun h => h.granule == g && h.bay == b && h.step == n && !h.committed then k
  else
    let (ph, k1) := k.takeFree
    { k1 with shadows := k1.shadows ++ [{ granule := g, bay := b, step := n, phys := ph, deadline := dl }] }

/-- Is a shadow the one of granule `g` and step `n` of bay `b`? -/
def Shadow.is (h : Shadow) (b n g : Nat) : Bool := h.granule == g && h.bay == b && h.step == n && !h.committed

/-- Changes the shadow of a physical granule. -/
def Stack.modShadow (k : Stack) (phys : Nat) (f : Shadow → Shadow) : Stack :=
  { k with shadows := k.shadows.map fun x => onlyIf (x.phys == phys) f x }

/-- A write within one chunk lands in a shadow, also in later steps' shadows whose chunk is copied and not written (R262). A write
that waited for a copy lands in its own shadow though the step has committed meanwhile. -/
def State.landShadow (s : State) (st : Nat) (h : Shadow) (u : Nat) (bs : List Byte) : State :=
  let ch := u / 256
  let s1 := s.modStack st fun k => k.modShadow h.phys fun x =>
    { x with fresh := if x.fresh.contains ch then x.fresh else x.fresh ++ [ch]
             waiting := x.waiting.filter fun w => !(bs.length == 256 && w.1 / 256 == ch) }
  let later := (s1.stack st).shadows.filter fun x =>
    x.granule == h.granule && x.bay == h.bay && (!x.committed || h.committed) && decide (h.step < x.step)
      && x.copied.contains ch && !x.fresh.contains ch
  (h.phys :: later.map Shadow.phys).foldl (fun t ph => t.putPhys st ph u bs) s1

/-- A write within one chunk by a step (R262): a whole chunk is fresh; a part of an uncopied chunk waits for the copy. -/
def State.shadowWrite (s : State) (st b n g u : Nat) (dl : BitVec 16) (bs : List Byte) : State :=
  let ch := u / 256
  let s1 := s.modStack st fun k => (k.shadowFor b n g dl).countWr bs.length
  match (s1.stack st).shadows.find? fun h => h.is b n g with
  | none => s1
  | some h =>
    let s2 := s1.modStack st fun k => k.ask h.phys u dl none
    if bs.length ≠ 256 ∧ !h.fresh.contains ch ∧ !h.copied.contains ch then
      s2.modStack st fun k => k.modShadow h.phys fun x => { x with waiting := x.waiting ++ [(u, bs)] }
    else s2.landShadow st h u bs

/-- Would a write by step `n` to granule `g` need a new shadow? -/
def Stack.needsShadow (k : Stack) (b n g : Nat) : Bool := !(k.shadows.any fun h => h.is b n g)

/-- What becomes of a write by a step (R41). -/
inductive Landing where
  | landed (t : State)
  | stalled
  | stopped

/-- Is a commit of an earlier step pending that does not depend on step `n` finishing: every one but that of a two-step step
`n − 1` (R41, R45)? -/
def Steps.commitPending (t : Steps) (n : Nat) : Bool :=
  t.live.any fun r => decide (r.no < n) && r.endedAt.isSome && !(r.two && r.no + 1 == n)

/-- A write by step `n` of bay `b` within one granule of a stack, cut into chunks (R38, R41, R262); `dl` is the deadline of its
request. -/
def State.stepWrite (s : State) (st b n g u : Nat) (dl : BitVec 16) (bs : List Byte) : Landing :=
  let quota := match (s.bay b).record with
    | some r => r.granQuota
    | none => 0
  if (s.stack st).needsShadow b n g && decide (quota ≤ s.bayShadows b) then
    if (s.bay b).st.commitPending n then .stalled else .stopped
  else
    let first := 256 - u % 256
    let s1 := s.shadowWrite st b n g u dl (bs.take first)
    let rest := bs.drop first
    .landed ((List.range ((rest.length + 255) / 256)).foldl
      (fun t i => t.shadowWrite st b n g (u + first + 256 * i) dl ((rest.drop (256 * i)).take 256)) s1)

/-! Errors and repair (R264 to R269). -/

/-- Pseudo-channel, bank and row of the committed granule of a bay-relative byte; those of byte 0 of the stack outside the bay. -/
def State.hbmRow (s : State) (b a : Nat) : Nat × Nat × Nat :=
  match s.locate b a with
  | some (st, g, u) => rowOf ((s.stack st).phys g) u
  | none => (0, 0, 0)

/-- A class 0x8 event of a bay-relative address at a controller (R272). -/
def State.noteAt (s : State) (st : Nat) (code : Code) (b a : Nat) : State :=
  let r := s.hbmRow b a
  s.modStack st fun k => k.note code r.1 r.2.1 r.2.2

/-- Slot of a row in way `w` of the talus map (R268). -/
def talusSlot (pc bank row w : Nat) : Nat :=
  let m := [0x9E3779B1, 0x85EBCA77, 0xC2B2AE3D, 0x27D4EB2F].getD w 0
  ((pc * 2 ^ 20 + bank * 2 ^ 14 + row) * m) % 2 ^ 32 / 2 ^ 20

def Talus.slot (t : Talus) : Nat := talusSlot t.pc t.bank t.row t.way

/-- Insertion into the four ways (R268): the first way whose slot is empty, else the entry of a way gives way and is inserted
in its turn; `none` when `n` entries have been tried, so after `n − 1` moves. Which entry gives way is the model's choice (log
entry 35). -/
def talusInsert : Nat → Nat → List Talus → Talus → Option (List Talus)
  | 0, _, _, _ => none
  | n + 1, w, l, e =>
    let taken (v : Nat) : Bool := l.any fun t => t.way == v && t.slot == talusSlot e.pc e.bank e.row v
    match (List.range 4).find? fun v => !taken v with
    | some v => some (l ++ [{ e with way := v }])
    | none =>
      let put : Talus := { e with way := w % 4 }
      match l.find? fun t => t.way == w % 4 && t.slot == put.slot with
      | some old => talusInsert n (w + 1) ((l.erase old) ++ [put]) old
      | none => some (l ++ [put])

/-- The spare row that the next remap of a pseudo-channel takes: the lowest that is neither in use nor has failed (R268). -/
def Stack.spareNext (k : Stack) (pc : Nat) : Option Nat :=
  (List.range 512).find? fun i => !k.badSpares.contains (pc, i) && !k.talus.any fun t => t.pc == pc && t.spare == i

/-- The TALUS journal entry of a repair (Table 17.11; log entry 34): stack, the two words of Table 10.6, the soft-repair flag. -/
def State.journalTalus (s : State) (st : Nat) (t : Talus) (soft : Bool) : State :=
  s.journal 4 (leBytes 1 st
    ++ leBytes 4 ((if t.temporary then 2 else 1) + t.pc * 4 + t.bank * 128 + t.row * 8192)
    ++ leBytes 4 (t.pc + t.spare * 32) ++ leBytes 1 (if soft then 1 else 0))

/-- The way by which a TALUS_FREE entry names a soft repair that became a hard one, its slot being pseudo-channel × 48 + bank
(DESIGN CHOICE, log entry 34). -/
def softWay : Nat := 255

/-- The TALUS_FREE journal entry of a freed entry (Table 17.11): stack, way, slot. -/
def State.journalFree (s : State) (st way slot : Nat) : State := s.journal 5 (leBytes 1 st ++ leBytes 1 way ++ leBytes 2 slot)

/-- A row could not be remapped (R269). -/
def State.talusFails (s : State) (st pc bank row : Nat) : State :=
  (s.modStack st fun k => { k.note 0x8021 pc bank row with talusFull := true }).logFull 0x8021 none none
    (leBytes 1 st ++ leBytes 1 pc ++ leBytes 1 bank ++ leBytes 2 row)

/-- The copy of a row to bank and row `to_`: its single-bit errors are corrected (R267), and the read of the one and the write of the other
are due at NOW + 28 (R255). -/
def Stack.copyRow (k : Stack) (pc bank row : Nat) (to_ : Nat × Nat) (now : BitVec 16) : Stack :=
  let from_ := k.servedRow pc bank row
  { k with
    flipped := k.flipped.filter fun w => rowOf (w / 2048) (w % 2048 * 32) != (pc, bank, row)
    reqs := k.reqs ++ [⟨pc, from_.1, from_.2, now + 28, none⟩, ⟨pc, to_.1, to_.2, now + 28, none⟩] }

/-- HB_STATUS (Table 10.9). -/
def State.hbStatus (s : State) (st : Nat) : Nat :=
  let k := s.stack st
  k.trained.toNat + 2 * (s.stackRests st).toNat + 4 * s.maintOpen.toNat + 8 * (decide (14000 ≤ k.talus.length)).toNat
    + 16 * k.talusFull.toNat

/-- At 14,000 entries the controller sends Headland a telemetry record with its HB_STATUS (R228, R269; log entry 201). -/
def State.reportHigh (s : State) (st : Nat) : State :=
  if (s.stack st).talus.length = 14000 then
    s.inject ((stackRouters st).headD 0) true dlSlow
      { blankPacket with type := 10, agent := true, dstPhys := 399, payload := leBytes 4 (s.hbStatus st) }
  else s

/-- A row is remapped to a spare row: a temporary entry until its soft repair, permanent where the bank's soft resource is
used; a row already served from a spare row moves to another; logged with 0x8021 where it cannot be (R267 to R269). -/
def State.remapRow (s : State) (st pc bank row : Nat) : State :=
  let k := s.stack st
  let here (t : Talus) : Bool := t.pc == pc && t.bank == bank && t.row == row
  match k.talus.find? here, k.spareNext pc with
  | _, none => s.talusFails st pc bank row
  | some old, some sp =>
    let e : Talus := { old with spare := sp }
    (s.modStack st fun k =>
      { k.copyRow pc bank row (spareRow sp) s.netNow with
        talus := k.talus.map fun t => if here t then e else t
        badSpares := k.badSpares ++ [(pc, old.spare)]
        ctr := bump k.ctr 2 1 }).journalTalus st e false
  | none, some sp =>
    let e : Talus := ⟨pc, bank, row, sp, !k.softUsed.contains (pc, bank), 0⟩
    match if 15000 ≤ k.talus.length then none else talusInsert 257 0 k.talus e with
    | some l =>
      ((s.modStack st fun k => { k.copyRow pc bank row (spareRow sp) s.netNow with talus := l, ctr := bump k.ctr 2 1 }).journalTalus
        st e false).reportHigh st
    | none => s.talusFails st pc bank row

/-- One day of elapsed time. -/
def dayNs : Nat := 86400000000000

/-- A correctable error of a row: counted and logged; the second within 24 hours remaps the row (R266). -/
def State.correctable (s : State) (st pc bank row : Nat) : State :=
  let now := s.clk.elapsed
  let again := (s.stack st).ce.any fun e =>
    e.pc == pc && e.bank == bank && e.row == row && decide (now < e.at_ + dayNs)
  let full := decide (1024 ≤ (s.stack st).ce.length)
  let s1 := s.modStack st fun k =>
    { k with
      ce := (if full then k.ce.drop 1 else k.ce) ++ [⟨pc, bank, row, now⟩]
      ctr := if full then bump (bump k.ctr 0 1) 7 1 else bump k.ctr 0 1 }
  if again then s1.remapRow st pc bank row else s1

/-- An uncorrectable codeword of a physical granule: poisoned, logged with 0x8020, its row remapped at once (R265, R266). -/
def State.uncorrectable (s : State) (st phys u : Nat) : State :=
  let (pc, bank, row) := rowOf phys u
  let cw := phys * 2048 + u / 32
  let s1 := s.modStack st fun k =>
    { k.note 0x8020 pc bank row with
      poison := if k.poison.contains cw then k.poison else k.poison ++ [cw]
      ctr := bump k.ctr 1 1 }
  (s1.logFull 0x8020 none none (leBytes 1 st ++ leBytes 1 pc ++ leBytes 1 bank ++ leBytes 2 row)).remapRow st pc bank row

/-- Correctable errors met by a read of `n` bytes of a physical granule: codewords with a flipped bit (R264, R266). -/
def State.readFlips (s : State) (st phys u n : Nat) : State :=
  let hit := (s.stack st).flipped.filter fun w =>
    decide (w / 2048 = phys ∧ u < w % 2048 * 32 + 32 ∧ w % 2048 * 32 < u + n)
  hit.foldl (fun t w =>
    let (pc, bank, row) := rowOf phys (w % 2048 * 32)
    t.correctable st pc bank row) s

/-- The 256-byte chunks that `n` bytes from `a` on touch: where each piece starts and how long it is. -/
def chunksOf (a n : Nat) : List (Nat × Nat) :=
  ((List.range (n / 256 + 2)).map fun i =>
    let lo := max a ((a / 256 + i) * 256)
    (lo, min (a + n) ((a / 256 + i + 1) * 256) - lo)).filter fun c => c.2 != 0

/-- Bytes written to the addresses of a bay record as committed data: a request for every chunk, which lands in the granule that serves
the chunk's committed data; whole codewords lose their poison and flipped bits. The pages of a disabled stack take none (R255, R264, R265,
R270, R272). -/
def State.putRecord (s : State) (r : BayRecord) (dl : BitVec 16) (a : Nat) (bs : List Byte) : State :=
  (chunksOf a bs.length).foldl (fun t c =>
    match r.locate c.1 with
    | some (st, g, u) =>
      if (t.stack st).disabled then t
      else
        let ph := (t.stack st).resolve none g (u / 256)
        (t.putPhys st ph u ((bs.drop (c.1 - a)).take c.2)).modStack st fun k => (k.ask ph u dl none).countWr c.2
    | none => t) s

/-- A write into a bay's committed state (RDMA WRITE, R285; a program's cached copy, R254). -/
def State.committedWrite (s : State) (b : Nat) (dl : BitVec 16) (a : Nat) (bs : List Byte) : State :=
  match (s.bay b).record with
  | some r => s.putRecord r dl a bs
  | none => s

/-- A read of bay-relative bytes in a view by its controllers (R255, R264, R272): a request for every chunk, the correctable errors
met in each, the bytes counted. -/
def State.readBay (s : State) (b : Nat) (v : View) (dl : BitVec 16) (a n : Nat) : State :=
  (chunksOf a n).foldl (fun t c =>
    match t.locate b c.1 with
    | some (st, g, u) =>
      let ph := (t.stack st).resolve v g (u / 256)
      ((t.readFlips st ph u c.2).modStack st fun k => (k.ask ph u dl none).countRd c.2)
    | none => t) s

/-! The repair journal's talus entries (R268, R270, R432). -/

/-- The item that an entry is about: its kind (TALUS_FREE ends a TALUS) and what names it. -/
def JEntry.item (e : JEntry) : Nat × Nat :=
  if e.kind = 1 then (1, fieldLe e.body 0 2)
  else if e.kind = 2 then (2, fieldLe e.body 0 1)
  else if e.kind = 3 then (3, fieldLe e.body 0 3)
  else if e.kind = 4 then
    let w := fieldLe e.body 1 4
    (4, fieldLe e.body 0 1 * 2 ^ 32 + (w / 4 % 32) * 2 ^ 20 + (w / 128 % 64) * 2 ^ 14 + w / 8192 % 16384)
  else if e.kind = 5 then (5, fieldLe e.body 0 4)
  else (6, fieldLe e.body 0 17)

/-- The newest entry of each item, oldest first. -/
def winners (l : List JEntry) : List JEntry :=
  l.filter fun e => l.all fun x => x.item != e.item || decide (x.seq ≤ e.seq)

/-- The talus entry that a TALUS journal entry records. -/
def JEntry.talus (e : JEntry) : Talus :=
  let w := fieldLe e.body 1 4
  ⟨w / 4 % 32, w / 128 % 64, w / 8192 % 16384, fieldLe e.body 5 4 / 32 % 512, w % 4 == 2, 0⟩

/-- What a journal records of a stack: its talus map, its soft repairs, and the entries whose spare rows failed (R268). -/
structure TalusRecord where
  map : List Talus := []
  soft : List Talus := []
  failed : List Talus := []
  deriving DecidableEq, Repr

/-- One journal entry taken into a stack's record: a TALUS entry maps its row, from a spare row that failed if it was mapped to another,
or, with the soft-repair flag, releases it to the bank's soft resource; a TALUS_FREE entry ends the entry at its way and slot, or the soft
repair that it names by `softWay` and pseudo-channel × 48 + bank (R267, R268, R271; log entry 34). -/
def talusReplay (st : Nat) (acc : TalusRecord) (e : JEntry) : TalusRecord :=
  if fieldLe e.body 0 1 != st then acc
  else if e.kind = 4 then
    let t := e.talus
    let same (x : Talus) : Bool := x.pc == t.pc && x.bank == t.bank && x.row == t.row
    if fieldLe e.body 9 1 = 1 then { acc with map := acc.map.filter fun x => !same x, soft := acc.soft ++ [t] }
    else if acc.map.any same then
      { acc with
        map := acc.map.map fun x => if same x then { x with spare := t.spare, temporary := t.temporary } else x
        failed := acc.failed ++ acc.map.filter fun x => same x && x.spare != t.spare }
    else { acc with map := (talusInsert 257 0 acc.map t).getD acc.map }
  else if e.kind = 5 then
    let way := fieldLe e.body 1 1
    let slot := fieldLe e.body 2 2
    let at_ (x : Talus) : Bool := x.way == way && x.slot == slot
    if way = softWay then { acc with soft := acc.soft.filter fun x => x.pc * 48 + x.bank != slot }
    else if acc.map.any at_ then { acc with map := acc.map.filter fun x => !at_ x }
    else { acc with map := acc.map.filter fun x => talusSlot x.pc x.bank x.row way != slot }
  else acc

/-- What a journal records of a stack, oldest entry first. -/
def talusOf (l : List JEntry) (st : Nat) : TalusRecord := l.foldl (talusReplay st) {}

/-- Is the entry about a row that a spare row of which failed once served: its TALUS entries, and those that freed it (R268)? -/
def TalusRecord.aboutFailed (m : TalusRecord) (e : JEntry) : Bool :=
  m.failed.any fun x =>
    if e.kind = 4 then x.pc == e.talus.pc && x.bank == e.talus.bank && x.row == e.talus.row
    else if e.kind = 5 then
      let way := fieldLe e.body 1 1
      let slot := fieldLe e.body 2 2
      if way = softWay then x.pc * 48 + x.bank == slot else talusSlot x.pc x.bank x.row way == slot
    else false

/-- The talus map of a stack from the journal: soft repairs are performed again, other entries are inserted, the spare rows that have
failed stay out of use (R268 to R270). -/
def State.reloadTalus (s : State) (st : Nat) : State :=
  let m := talusOf s.su.journal st
  s.modStack st fun k =>
    { k with
      talus := m.map, softUsed := m.soft.map fun t => (t.pc, t.bank)
      badSpares := (k.badSpares ++ m.failed.map fun t => (t.pc, t.spare)).eraseDups }

/-- The stack of a logical cove's stream port, if it has one (R23). -/
def portStack (l : Nat) : Option Nat :=
  if l / 36 = 0 then some (l % 36 / 9) else if l / 36 = 19 then some (4 + l % 36 / 9) else none

/-- A hardware error of a controller that no cove met fails step `n` of bay `b` through its lowest cove (R129; log entry 145). -/
def State.bayHw (s : State) (b n : Nat) (code : Code) : State :=
  match (s.bay b).st.live.find? fun r => r.no == n, (s.physCoves b).head? with
  | some r, some c => s.castFail c n r.attempt code true
  | _, _ => s

/-! What a read finds (R264, R265, R269). -/

/-- A granule-map entry that cannot be corrected: 0x8033, every codeword of the granule reads as poison (R269). -/
def State.mapFails (s : State) (st phys u : Nat) : State :=
  let r := rowOf phys u
  (s.modStack st fun k =>
    { k.note 0x8033 r.1 r.2.1 r.2.2 with
      poison := k.poison ++ ((List.range 2048).map fun i => phys * 2048 + i).filter fun w => !k.poison.contains w }).log 0x8033

/-- One finding at a codeword of a physical granule; a re-encode mismatch is answered apart, by the step that it fails. -/
def State.found (s : State) (st phys u : Nat) (f : Ecc) : State :=
  let (pc, bank, row) := rowOf phys u
  match f with
  | .corrected => s.correctable st pc bank row
  | .failed => s.uncorrectable st phys u
  | .recode => (s.modStack st fun k => k.note 0x8030 pc bank row).log 0x8030
  | .talus => ((s.modStack st fun k => k.note 0x8032 pc bank row).log 0x8032).reloadTalus st
  | .map => s.mapFails st phys u

/-- Findings of a read of the bay's memory at stack `st`, by codeword counted from `a`. -/
def State.eccFindings (s : State) (b st : Nat) (v : View) (a : Nat) (ecc : List (Nat × Ecc)) : State :=
  ecc.foldl (fun t f =>
    match t.locate b (a + 32 * f.1) with
    | some (k, g, u) => if k ≠ st then t else t.found st ((t.stack st).resolve v g (u / 256)) u f.2
    | none => t) s

/-- Does a finding of a read say that the re-encoded check bits differ (R264)? -/
def recodes (ecc : List (Nat × Ecc)) : Bool := ecc.any fun f => f.2 == .recode

end Sys2Proof.Machine
end

