-- ==== Sys2Proof/Machine/ScratchOps.lean ====
section
/-!
DEFINITION. The scratchpad's operations (chapter 06): handle table entries and their row mapping (R136, R137), rows through
the remap tables (R147), parity errors (R134, R148), and the handle checks with write protection (R141, R142, R50).
-/

namespace Sys2Proof.Machine

/-- A handle table entry taken apart (Table 6.1). -/
structure HandleEntry where
  valid : Bool
  typed : Bool
  fmt : Nat
  blk : Nat
  owner : Nat
  ownAny : Bool
  siEn : Bool
  siPer : Nat
  siPhase : Nat
  reload : Bool
  mask : BitVec 16
  base : Nat
  length : Nat
  reserved : Bool
  deriving DecidableEq, Repr

/-- Field of a bit vector: `w` bits from bit `o`. -/
def bits {n : Nat} (v : BitVec n) (o w : Nat) : Nat := (v.toNat >>> o) % 2 ^ w

/-- Table 6.1. -/
def handleEntry (e : BitVec 128) : HandleEntry :=
  { valid := bits e 0 1 = 1, typed := bits e 1 1 = 1, fmt := bits e 2 4, blk := bits e 6 6, owner := bits e 12 4
    ownAny := bits e 16 1 = 1, siEn := bits e 17 1 = 1, siPer := bits e 18 3, siPhase := bits e 21 3
    reload := bits e 24 1 = 1, mask := BitVec.ofNat 16 (bits e 32 16), base := bits e 48 11, length := bits e 64 16
    reserved := bits e 25 7 ≠ 0 ∨ bits e 59 5 ≠ 0 ∨ bits e 80 16 ≠ 0 ∨ bits e 96 32 ≠ 0 }

/-- Handle `h` of a cove. -/
def Scratchpad.handle (p : Scratchpad) (h : Nat) : HandleEntry := handleEntry (p.handles.get 0 h)

/-- Bank and row of row `i` of a handle (R137). -/
def HandleEntry.place (e : HandleEntry) (i : Nat) : Nat × Nat :=
  let banks := setBits e.mask 16
  ((nth banks (i % banks.length)).getD 0, e.base + i / banks.length)

/-- Does the row lie in the handle? -/
def HandleEntry.covers (e : HandleEntry) (bank row : Nat) : Bool :=
  let k := (setBits e.mask 16).length
  e.valid && e.mask.getLsbD bank && decide (e.base ≤ row) &&
    (let j := (row - e.base) * k + (setBits e.mask 16).idxOf bank
     decide (j < e.length))

/-- The spare row that a row is remapped to (R147). -/
def Scratchpad.spareOf (p : Scratchpad) (bank row : Nat) : Option Nat := p.remap.find (bank * 2048 + row)

/-- The 64 bytes of a row (R133, R135, R147). -/
def Scratchpad.row (p : Scratchpad) (bank row : Nat) : List Byte :=
  match p.spareOf bank row with
  | some k => memBytes p.spare (bank * 1024 + k * 64) 64
  | none => memBytes p.bytes (bank * 131072 + row * 64) 64

/-- Writes bytes into a row from byte `o` on; the parity stored with them is good (R134). -/
def Scratchpad.write (p : Scratchpad) (bank row o : Nat) (bs : List Byte) : Scratchpad :=
  match p.spareOf bank row with
  | some k =>
    let a := bank * 1024 + k * 64 + o
    { p with spare := memSetBytes p.spare a bs, spareBad := p.spareBad.filter fun x => !(a ≤ x && x < a + bs.length) }
  | none =>
    let a := bank * 131072 + row * 64 + o
    { p with bytes := memSetBytes p.bytes a bs, bad := p.bad.filter fun x => !(a ≤ x && x < a + bs.length) }

/-- Does a byte of the row, from `o` for `n` bytes, fail its parity? -/
def Scratchpad.rowBad (p : Scratchpad) (bank row o n : Nat) : Bool :=
  match p.spareOf bank row with
  | some k =>
    let a := bank * 1024 + k * 64 + o
    p.spareBad.any fun x => a ≤ x && x < a + n
  | none =>
    let a := bank * 131072 + row * 64 + o
    p.bad.any fun x => a ≤ x && x < a + n

/-- Bytes of a handle from byte offset `f` on (R137), across rows. -/
def Scratchpad.handleBytes (p : Scratchpad) (e : HandleEntry) (f n : Nat) : List Byte :=
  (List.range n).map fun i =>
    let (b, r) := e.place ((f + i) / 64)
    (p.row b r).getD ((f + i) % 64) 0

/-- Bytes written through a handle from byte offset `f` on, row by row. -/
def Scratchpad.handleWrite (p : Scratchpad) (e : HandleEntry) (f : Nat) : List Byte → Scratchpad
  | [] => p
  | x :: t =>
    let (b, r) := e.place (f / 64)
    Scratchpad.handleWrite (p.write b r (f % 64) [x]) e (f + 1) t

/-- Does one of `n` bytes of a handle from offset `f` fail its parity? -/
def Scratchpad.handleBad (p : Scratchpad) (e : HandleEntry) (f n : Nat) : Bool :=
  (List.range n).any fun i =>
    let (b, r) := e.place ((f + i) / 64)
    p.rowBad b r ((f + i) % 64) 1

/-- The parity bit of a byte; the spec does not say of which sense it is (log entry 150). -/
def parityOf (b : Byte) : Bool := ((List.range 8).filter fun i => b.getLsbD i).length % 2 == 1

/-- Eight bits a byte, the first lowest. -/
def packBits (l : List Bool) : List Byte :=
  (List.range (l.length / 8)).map fun i =>
    BitVec.ofNat 8 (((List.range 8).map fun j => if l.getD (8 * i + j) false then 2 ^ j else 0).sum)

/-- The 64 bytes of a row as read, then its 8 parity bytes, if a byte of it is known to fail (Table 13.8). -/
def Scratchpad.rowImage (p : Scratchpad) (bank row : Nat) : List Byte :=
  if p.rowBad bank row 0 64 then
    let bs := p.row bank row
    bs ++ packBits (bs.mapIdx fun i x => parityOf x != p.rowBad bank row i 1)
  else []

/-- A parity error 0x5020 against a bank and row (R134): counted, kept, remembered for remapping (R148) and reloading
(R140). -/
def Scratchpad.parityError (p : Scratchpad) (bank row : Nat) (reader : BitVec 3) (now : Nat) : Scratchpad :=
  let again := p.errs.any fun e => e.bank == bank && e.row == row && decide (now < e.at_ + tenMinutes)
  { p with
    parErr := satAdd32 p.parErr 1
    parBank := BitVec.ofNat 4 bank
    parRow := BitVec.ofNat 11 row
    parSpare := (p.spareOf bank row).isSome
    parReader := reader
    parImage := p.rowImage bank row
    errs := (⟨bank, row, now⟩ :: p.errs).take 4
    due := if again && !p.due.contains (bank, row) then p.due ++ [(bank, row)] else p.due }

/-- Rows of a RELOAD handle that had a parity error wait for their rewrite (R140). -/
def Cove.noteParity (c : Cove) (bank row : Nat) (reader : BitVec 3) (now : Nat) : Cove :=
  let re := (List.range 64).any fun h => (c.sp.handle h).reload && (c.sp.handle h).covers bank row
  { c with
    sp := c.sp.parityError bank row reader now
    spx := { c.spx with reload := if re && !c.spx.reload.contains (bank, row) then c.spx.reload ++ [(bank, row)]
                                  else c.spx.reload } }

/-- Is a handle protected for step `j` (R141)? -/
def HandleEntry.protects (e : HandleEntry) (j : Nat) : Bool := e.siEn && j % (e.siPer + 1) == e.siPhase

/-- What R50 says of a write by step `m`: it lands, faults, or stalls. -/
inductive Judge where
  | ok | fault | stall
  deriving DecidableEq, Repr

/-- R50 and R141: a write by step `m` of a bay through a handle, against every uncommitted step. -/
def Steps.judge (t : Steps) (e : HandleEntry) (m : Nat) : Judge :=
  let js := t.live.filter fun r => decide (r.no ≤ m) && e.protects r.no
  if js.any fun r => r.no == m || (r.two && r.no + 1 == m) then .fault
  else if js.isEmpty then .ok else .stall

/-- The handle checks of R142 for an access of `n` bytes from offset `f`; `core` is the issuing core of an instruction,
`write` the step that writes with the bay's steps. -/
def HandleEntry.check (e : HandleEntry) (f n : Nat) (core : Option Nat) (write : Option (Steps × Nat)) : Code × Judge :=
  if !e.valid then (0x5011, .fault)
  else if e.length * 64 < f + n then (0x5012, .fault)
  else if (match core with
    | some k => !e.ownAny && e.owner != k
    | none => false) then (0x5016, .fault)
  else
    match write with
    | none => (0, .ok)
    | some (t, m) =>
      if e.reload then (0x5017, .fault)
      else
        match t.judge e m with
        | .ok => (0, .ok)
        | .fault => (0x5017, .fault)
        | .stall => (0, .stall)

/-- A class 0x5 access fault is kept in SP_LAST_FAULT (Table 6.7). -/
def Scratchpad.noteFault (p : Scratchpad) (code : Code) (handle core agent : Nat) : Scratchpad :=
  { p with faultCode := code, faultHandle := BitVec.ofNat 6 handle, faultCore := BitVec.ofNat 4 core,
           faultAgent := BitVec.ofNat 2 agent }

/-- Steps of the bay on a cove and the number of the step that runs there (0 without one). -/
def State.stepsAt (s : State) (c : Nat) : Steps × Nat :=
  match s.bayOf c with
  | none => ({}, 0)
  | some b =>
    let t := (s.bay b).st
    (t, match t.newest with
      | some r => r.no
      | none => 0)

/-- Is live step `n` a drain step? It holds only shadow tiles: what else its cores do has no effect (R55; log entry 184). -/
def Steps.isDrain (t : Steps) (n : Nat) : Bool := t.live.any fun r => r.no == n && r.drain

/-- A 512-bit register from bytes, byte 0 least significant (R104). -/
def rowOfBytes (bs : List Byte) : Row := BitVec.ofNat 512 (leNat bs)

/-- The 64 bytes of a vector register. -/
def bytesOfRow (r : Row) : List Byte := leBytes 64 r.toNat

end Sys2Proof.Machine
end

