-- ==== Sys2Proof/Machine/PebbleOps.lean ====
section
/-!
DEFINITION. What every pebble-core instruction shares (chapter 05): when it runs, the order of its exceptions (R130), taking
an exception (R129), stalls, completion with halts and breakpoints (R132), register reads and writes, lanes.
-/

namespace Sys2Proof.Machine

/-- Is the exception code of the hardware-error kind (Table 5.10; 0x7020 and 0x7022 by R242, 0xA001 and 0xA002 by R158
and R167)? -/
def excHardware (code : Code) : Bool :=
  decide ((0x4108#16 ≤ code ∧ code ≤ 0x410A#16) ∨ code = 0x5020 ∨ code = 0x7020 ∨ code = 0x7022 ∨ code = 0xA001 ∨ code = 0xA002)

/-- g[r]; g0 reads as zero (R104). -/
def PCore.rg (k : PCore) (r : BitVec 5) : Word := if r = 0 then 0 else k.g.get 0 r.toNat

/-- g[r] written with good parity; writes of g0 are ignored (R104). -/
def PCore.wg (k : PCore) (r : BitVec 5) (v : Word) : PCore :=
  if r = 0 then k else { k with g := k.g.set 0 r.toNat v, gBad := k.gBad.filter fun x => x != r.toNat }

/-- v[r]. -/
def PCore.rv (k : PCore) (r : Nat) : Row := k.v.get 0 r

/-- v[r] written with good parity. -/
def PCore.wv (k : PCore) (r : Nat) (x : Row) : PCore :=
  { k with v := k.v.set 0 r x, vBad := k.vBad.filter fun y => y != r }

/-- The exceptions that cores of bay `b` have taken in this cycle, lowest cove and core first: whether of the hardware-error kind, and
the code. -/
def State.cycleExcs (s : State) (b : Nat) : List (Bool × Code) :=
  (s.physCoves b).flatMap fun c =>
    ((List.range 16).filter fun k =>
      ((s.cove c).core k).state == 5 && ((s.cut.coves.get {} c).core k).state != 5).map fun k =>
      (((s.cove c).core k).excHw, ((s.cove c).core k).excCode)

/-- Which of them STEP_LAST_RB takes: a hardware error before a program error (R130; log entry 154). -/
def State.cycleExc (s : State) (b : Nat) : Option (Bool × Code) :=
  match (s.cycleExcs b).find? Prod.fst with
  | some e => some e
  | none => (s.cycleExcs b).head?

/-- The step keeps the hardware error that R130 prefers among those of the cycle. -/
def State.rankStep (s : State) (c : Nat) (first : Bool) : State :=
  match s.attemptAt c with
  | some (b, n, _) =>
    match s.cycleExc b with
    | some (true, code) => s.modStep b n fun r => if first then { r with code := code } else r
    | _ => s
  | none => s

/-- Had the running step of cove `c` no hardware error when the cycle began? -/
def State.firstHw (s : State) (c : Nat) : Bool :=
  match s.attemptAt c with
  | some (b, n, _) => !((s.cut.bays.get {} b).st.live.any fun r => r.no == n && r.hw)
  | none => false

/-- The core's exception is recorded as that of its instruction (R129). -/
def PCore.stopAt (k : PCore) (code : Code) (pc cyc : Nat) : PCore :=
  { k with
    state := 5, wait := none, excCode := code, excNew := true, excHw := excHardware code, excPc := pc, excNo := k.excNo + 1
    ctl := k.ctl &&& 0xD, stall := k.stallNow cyc, heldAt := none }

/-- Taking an exception (R129): the code and the address of the faulting instruction are kept, the core stops; a program
error stops the bay, a hardware error casts the cove's fail vote and is a cove error. -/
def State.exceptionAt (s : State) (r : CoreRef) (code : Code) (pc : Nat) : State :=
  let hw := excHardware code
  let s1 := s.modCore r fun k => k.stopAt code pc (s.cycles r.cove)
  if hw then (s1.hwError r.cove code).rankStep r.cove (s.firstHw r.cove)
  else
    match s1.bayOf r.cove with
    | some b => (s1.stopBay b code).modBay b fun y =>
        { y with st := { y.st with lbCode := ((s1.cycleExc b).map Prod.snd).getD code } }
    | none => s1

/-- An exception at the instruction at the core's pc. -/
def State.exception (s : State) (r : CoreRef) (code : Code) : State := s.exceptionAt r code (s.core r).pc

/-- The core begins to wait (R119 and others): STATE 3, its instruction is held. -/
def State.stall (s : State) (r : CoreRef) (w : CoreWait) : State :=
  s.modCore r fun k =>
    { k with state := 3, wait := some w, stalledAt := if k.state = 3 then k.stalledAt else s.cycles r.cove }

/-- Halts at an instruction boundary (R132): HALT, a single step that is done, or a breakpoint at the next instruction. -/
def PCore.settle (k : PCore) : PCore :=
  { k with
    state := if k.ctl.getLsbD 0 || k.ctl.getLsbD 1 || (k.ctl.getLsbD 2 && k.pc == (k.bkpt.toNat / 4) * 4) then 4 else 1
    ctl := k.ctl &&& 0xD }

/-- The instruction completes and the core goes on at `pc`; the stall it ended is counted (Table 5.17). -/
def PCore.finish (k : PCore) (cyc pc : Nat) : PCore :=
  PCore.settle
    { k with
      pc := pc
      wait := none
      retired := satAdd32 k.retired 1
      stall := k.stallNow cyc
      heldAt := none }

/-- The instruction completes with what `f` writes, and the core goes on at `pc`; 0x4000 raises 0x4102 at its fetch
(R108). -/
def State.retire (s : State) (r : CoreRef) (pc : Nat) (f : PCore → PCore) : State :=
  let s1 := s.modCore r fun k => (f k).finish (s.cycles r.cove) pc
  if pc = 0x4000 then s1.exception r 0x4102 else s1

/-- The instruction completes and the next one follows. -/
def State.retireNext (s : State) (r : CoreRef) (f : PCore → PCore) : State := s.retire r ((s.core r).pc + 4) f

/-- The registers that an instruction reads or writes, for parity and for loads that are awaited (R116). -/
structure Uses where
  g : List (BitVec 5) := []
  v : List Nat := []
  wg : List (BitVec 5) := []
  wv : List Nat := []
  deriving DecidableEq, Repr

/-- Does a waiting load of the core name the general register? -/
def loadsG (reqs : List NarrowReq) (core : Nat) (r : BitVec 5) : Bool :=
  r != 0 && reqs.any fun q => q.core == core && !q.write && !q.vec && (q.rt == r || q.rt + 1 == r)

/-- Does a waiting load of the core name the vector register? -/
def loadsV (reqs : List NarrowReq) (core : Nat) (r : Nat) : Bool :=
  reqs.any fun q => q.core == core && !q.write && q.vec && q.rt.toNat == r

/-- Does the instruction wait in D for a load's data (R116)? -/
def awaits (s : State) (r : CoreRef) (u : Uses) : Bool :=
  let q := (s.cove r.cove).sp.reqs
  (u.g ++ u.wg).any (loadsG q r.core) || (u.v ++ u.wv).any (loadsV q r.core)

/-- Can the core take this instruction in X: it runs, or it is blocked on this very instruction? -/
def PCore.takes (k : PCore) (again : CoreWait → Bool) : Bool :=
  k.state == 1 || (k.state == 3 && (match k.wait with
    | some w => again w
    | none => false))

/-- The instruction is held in D from now on, if it is not already (R116). -/
def State.holdD (s : State) (r : CoreRef) : State :=
  s.modCore r fun k => { k with heldAt := some (k.heldAt.getD (s.cycles r.cove)) }

/-- An instruction of a core (R116, R130): at its fetch instruction-memory parity; in D the wait for awaited registers; then the other
exceptions in their order, then its effect. -/
def issueIn (s : State) (r : CoreRef) (illegal : Bool) (u : Uses) (act : State → State) : Out :=
  let k := s.core r
  if k.imemBad.contains (k.pc / 4) then .next (s.exception r 0x4108)
  else if awaits s r u then .next (s.holdD r)
  else if (u.g.any fun x => k.gBad.contains x.toNat) || (u.v.any fun x => k.vBad.contains x) then
    .next (s.exception r 0x410A)
  else if illegal then .next (s.exception r 0x4101)
  else .next (act s)

/-- The bay of a core has stopped in this very cycle, at whose start the core could take an instruction: an exception of the instruction
still counts, the core's own record and STEP_LAST_RB among those of the cycle (R130). `t` is what the instruction does at the start of
the cycle. -/
def State.lateException (s : State) (r : CoreRef) (t : State) : State :=
  let k := t.core r
  if k.state ≠ 5 then s
  else
    let s1 := s.modCore r fun q => q.stopAt k.excCode k.excPc (s.cycles r.cove)
    let s2 := if k.excHw then s1.chargeIn (t.attemptAt r.cove) r.cove k.excCode else s1
    match s2.bayOf r.cove with
    | some b => s2.modBay b fun y => { y with st := { y.st with lbCode := ((s2.cycleExc b).map Prod.snd).getD y.st.lbCode } }
    | none => s2

/-- Has the bay of the core stopped in the present cycle, and left the core idle? -/
def State.stopsNow (s : State) (r : CoreRef) : Bool :=
  (s.core r).state == 0 && match s.bayOf r.cove with
    | some b => (s.bay b).stopped.isSome && (s.cut.bays.get {} b).stopped.isNone
    | none => false

/-- Does an idle core of the cove run self-checking programs: at stage S7, or in phase 3 of a rotation test (R173, R362)? Phase counts
from the save on, so that phase 3 is 5. -/
def State.selfTests (s : State) (c : Nat) : Bool :=
  (s.su.stage == 7 && s.su.state != 2) || (let f := s.field (fieldOf c); f.cove == some c && f.phase == 5 && f.result == 0)

/-- An instruction of a core that can take it in X (R116, R130); an idle core under self-test takes those of the test program. -/
def issue (s : State) (r : CoreRef) (again : CoreWait → Bool) (illegal : Bool) (u : Uses) (act : State → State) : Out :=
  if (s.core r).takes again || ((s.core r).state == 0 && s.selfTests r.cove) then issueIn s r illegal u act
  else if s.stopsNow r && (s.atCut.core r).takes again then
    match issueIn s.atCut r illegal u act with
    | .next t => .next (s.lateException r t)
    | _ => .next s
  else .next s

/-- An instruction that never waits once it is in X. -/
def never : CoreWait → Bool := fun _ => false

/-- A vector register field of five bits is in range (R107). -/
def vreg (r : BitVec 5) : Bool := decide (r.toNat < 8)

/-! Lanes (R104). -/

/-- 32-bit lane `i`. -/
def lane (x : Row) (i : Nat) : Word := x.extractLsb' (32 * i) 32
/-- 16-bit lane `i`. -/
def half16 (x : Row) (i : Nat) : BitVec 16 := x.extractLsb' (16 * i) 16

/-- A 512-bit register from 32-bit lanes, lane 0 least significant. -/
def ofWords : List Word → Nat
  | [] => 0
  | w :: t => w.toNat + 2 ^ 32 * ofWords t
def ofHalves : List (BitVec 16) → Nat
  | [] => 0
  | w :: t => w.toNat + 2 ^ 16 * ofHalves t
def rowOfWords (l : List Word) : Row := BitVec.ofNat 512 (ofWords l)
def rowOfHalves (l : List (BitVec 16)) : Row := BitVec.ofNat 512 (ofHalves l)
def words (x : Row) : List Word := (List.range 16).map (lane x)
def halves (x : Row) : List (BitVec 16) := (List.range 32).map (half16 x)

/-- Flushed values count in the cove's BRK_DNORM (R110). -/
def State.countDnorm (s : State) (c n : Nat) : State :=
  if n = 0 then s else s.modCove c fun v => v.modBrk fun b => { b with ctr := bump b.ctr 3 n }

/-- Events of a conversion count in the cove's breaker counters (R113, Table 3.6). -/
def countEvents (t : Tab Word) (sat ovf unf dnorm invalid : Nat) : Tab Word :=
  let add (k n : Nat) (t : Tab Word) : Tab Word := if n = 0 then t else bump t k n
  add 4 invalid (add 3 dnorm (add 2 unf (add 1 ovf (add 0 sat t))))

/-- BLOCK_ON of a waiting core (Table 5.12). -/
def CoreWait.blockOn : CoreWait → Nat
  | .sendFull _ => 1
  | .recvEmpty _ _ => 2
  | .tbar _ => 3
  | .stepend => 0
  | .breaker _ _ => 4
  | .bwait _ => 5
  | .dmaQueue _ _ => 6
  | .dwait _ => 6
  | .csend _ _ => 7
  | .crecv _ _ _ => 8
  | .csel _ _ _ => 8
  | .cacc _ _ => 9
  | .cconn _ _ => 10
  | .spLimit _ => 11
  | .fence => 13
  | .mwr => 12

/-- PB_STATUS.BLOCK_ON: 0 but in STATE 3. -/
def PCore.blockOn (k : PCore) : Nat :=
  match k.wait with
  | some w => if k.state = 3 then w.blockOn else 0
  | none => 0

end Sys2Proof.Machine
end

