-- ==== Sys2Proof/Machine/ChannelOps.lean ====
section
/-!
DEFINITION. What the channel instructions and packets share (chapter 07): handles and endpoints, the channel table, queues
with reservations and waiting writers, channel packets, the closing of an entry.
-/

namespace Sys2Proof.Machine

/-- A channel handle (R160). -/
def chanHandle (i : Nat) (gen : BitVec 4) : BitVec 16 := BitVec.ofNat 16 (gen.toNat * 4096 + i % 4096)
/-- Entry index and generation of a handle (R124). -/
def handleEntryOf (h : BitVec 16) : Nat := h.toNat % 4096
def handleGen (h : BitVec 16) : BitVec 4 := h.extractLsb' 12 4

/-- Endpoint word (R124): logical cove, core, queue. -/
def endpoint (l core q : Nat) : BitVec 32 := BitVec.ofNat 32 (l % 1024 + core % 16 * 1024 + q % 8 * 16384)
def epCove (e : BitVec 32) : Nat := e.toNat % 1024
def epCore (e : BitVec 32) : Nat := e.toNat / 1024 % 16
def epQueue (e : BitVec 32) : Nat := e.toNat / 16384 % 8

/-- The result word of Table 5.8. -/
def chanResult (status : Nat) (handle : BitVec 16) (low : Nat) : Word :=
  BitVec.ofNat 32 (status * 2 ^ 28 + handle.toNat * 256 + low % 128)

def stOk : Word := chanResult 0 0 0
def stClosed : Word := chanResult 1 0 0
def stTimeout : Word := chanResult 2 0 0
def stNone : Word := chanResult 3 0 0
def stRefused : Word := chanResult 4 0 0
def stStale : Word := chanResult 5 0 0
def stLimit : Word := chanResult 6 0 0

namespace Channels

def entry (c : Channels) (i : Nat) : ChEntry := c.table.get {} i
def modEntry (c : Channels) (i : Nat) (f : ChEntry → ChEntry) : Channels := { c with table := c.table.upd {} i f }
def queue (c : Channels) (core q : Nat) : RecvQueue := c.queues.get {} (core * 8 + q)
def modQueue (c : Channels) (core q : Nat) (f : RecvQueue → RecvQueue) : Channels :=
  { c with queues := c.queues.upd {} (core * 8 + q) f }

/-- The entry the next allocation takes: the first free one after the last allocated (R164). -/
def nextFree (c : Channels) : Option Nat :=
  ((List.range 4096).map fun i => (c.lastAlloc + 1 + i) % 4096).find? fun i => (c.entry i).state == .free

/-- Allocation: the generation rises by 1 (R164). -/
def alloc (c : Channels) (i : Nat) (f : ChEntry → ChEntry) : Channels :=
  { c with lastAlloc := i }.modEntry i fun e => f { ({} : ChEntry) with gen := e.gen + 1 }

/-- Is the entry of the handle one that the core has open in its current generation, as the core sees it (R160, R168)? -/
def holds (c : Channels) (core : Nat) (h : BitVec 16) (writerOnly : Bool) : Bool :=
  let e := c.entry (handleEntryOf h)
  e.core == core && e.gen == handleGen h && e.closeIn.isNone && (e.writer || !writerOnly)
    && (e.state == .open_ || e.state == .sending || e.state == .blocked || e.state == .peerClosed || e.state == .writerClosed)

/-- Messages of entry `i` in its queue. -/
def messagesOf (c : Channels) (i : Nat) : List Msg :=
  let e := c.entry i
  (c.queue e.core e.queue).msgs.filter fun m => m.handle == chanHandle i e.gen

end Channels

/-- Entries of a queue that are occupied: full and reserved ones (R156). -/
def RecvQueue.occupied (q : RecvQueue) : Nat := q.msgs.length + q.reserved.length

/-- A channel packet with nothing set. -/
def blankChan : ChanPkt :=
  { kind := 0, seq := false, listed := false, moving := false, len := 0, dst := 0, src := 0, srcEp := 0, dstEp := 0, data := 0
    resv := false, hdr := blankPacket }

/-- The kinds of Table 7.3. -/
def kConnect : Nat := 1
def kAccept : Nat := 2
def kRefuse : Nat := 3
def kData : Nat := 4
def kDelivered : Nat := 5
def kFull : Nat := 6
def kResume : Nat := 7
def kWithdraw : Nat := 8
def kClose : Nat := 9
def kClosed : Nat := 10

/-- Does the kind travel on the response channels (Table 7.3)? -/
def kindResponse (k : Nat) : Bool := [kAccept, kRefuse, kDelivered, kFull, kResume, kClosed].contains k

/-- Header and message of a channel packet (Table 7.2). -/
def chanPayload (kind : Nat) (p : ChanPkt) : List Byte :=
  let b (x : Bool) (n : Nat) : Nat := if x then n else 0
  leBytes 1 (kind + b p.seq 16 + b p.listed 32 + b p.moving 64) ++ leBytes 1 p.len.toNat ++ leBytes 2 p.dst.toNat
    ++ leBytes 2 p.src.toNat ++ leBytes 2 0 ++ leBytes 4 p.srcEp.toNat ++ leBytes 4 p.dstEp.toNat
    ++ leBytes p.len.toNat p.data.toNat

/-- A channel packet leaves cove `c` for the logical cove of its DST_EP (R159, R172), stamped with the step attempt that runs
there. -/
def State.sendChan (s : State) (c kind : Nat) (p : ChanPkt) : State :=
  let a := s.attemptAt c
  s.inject c false dlChannel
    { blankPacket with
      type := 1, response := kindResponse kind, ordered := true, dstLog := some (BitVec.ofNat 10 (epCove p.dstEp))
      dstPhys := BitVec.ofNat 10 ((s.physOf (epCove p.dstEp)).getD c)
      bay := BitVec.ofNat 4 ((s.bayOf c).getD 0), stepped := a.isSome
      step := BitVec.ofNat 2 ((a.map fun x => x.2.1).getD 0), attempt := BitVec.ofNat 2 ((a.map fun x => x.2.2).getD 0)
      payload := chanPayload kind p }

/-- An answer of the cove to a channel packet: the ends of the packet change places. -/
def State.answerChan (s : State) (c kind : Nat) (p : ChanPkt) (f : ChanPkt → ChanPkt) : State :=
  s.sendChan c kind (f { blankChan with dst := p.src, src := p.dst, srcEp := p.dstEp, dstEp := p.srcEp })

def Cove.modChan (c : Cove) (f : Channels → Channels) : Cove := c.modCh f
def State.modChan (s : State) (c : Nat) (f : Channels → Channels) : State := s.modCove c fun v => v.modCh f
def State.chan (s : State) (c : Nat) : Channels := (s.cove c).ch

/-- Counters of Table 7.4. -/
def State.countStale (s : State) (c : Nat) : State := s.modChan c fun h => { h with stale := satAdd32 h.stale 1 }
def State.countClosed (s : State) (c n : Nat) : State := s.modChan c fun h => { h with closed := satAdd32 h.closed n }
def State.countFull (s : State) (c : Nat) : State := s.modChan c fun h => { h with full := satAdd32 h.full 1 }

/-- The logical index that cove `c` holds, as endpoints name it. -/
def State.lcove (s : State) (c : Nat) : Nat := (s.logOf c).getD 0

/-- Current-network cycles of 88 µs (R167) and of 2 µs (R165). -/
def cn88us : Nat := 79200
def cn2us : Nat := 1800

/-- DATA leaves for the message that entry `i` of cove `c` holds (R165). -/
def State.sendData (s : State) (c i : Nat) : State :=
  let e := (s.chan c).entry i
  s.sendChan c kData
    { blankChan with
      seq := e.seq, len := BitVec.ofNat 7 e.msgLen, dst := e.farHandle, src := chanHandle i e.gen
      srcEp := endpoint (s.lcove c) e.core 0, dstEp := e.farEp, data := e.msg }

/-- The waiting instruction of core `k` on entry `i` completes with a result word. -/
def State.endChan (s : State) (c i : Nat) (result : Word) : State :=
  let k := ((s.chan c).entry i).core
  if 16 ≤ k then s
  else
    match ((s.cove c).core k).wait with
    | some (.csend j rd) =>
      if j = i then
        if h : c < 800 ∧ k < 16 then s.retireNext ⟨⟨c, h.1⟩, ⟨k, h.2⟩⟩ fun x => x.wg rd result else s
      else s
    | some (.cconn j rd) =>
      if j = i then
        if h : c < 800 ∧ k < 16 then s.retireNext ⟨⟨c, h.1⟩, ⟨k, h.2⟩⟩ fun x => x.wg rd result else s
      else s
    | _ => s

/-- An entry of the queue is free: it is reserved for the oldest waiter, who gets RESUME (R165). A queue holds at most 8 reservations
(Table 7.11; log entry 157). -/
def State.entryFreed (s : State) (c core q : Nat) : State :=
  let r := (s.chan c).queue core q
  match r.waiters with
  | [] => s
  | w :: rest =>
    if 16 ≤ r.occupied ∨ 8 ≤ r.reserved.length then s
    else
    let e := (s.chan c).entry w.entry
    (s.modChan c fun h => h.modQueue core q fun r => { r with waiters := rest, reserved := r.reserved ++ [w] }).sendChan
      c kResume
      { blankChan with
        dst := w.handle, src := chanHandle w.entry e.gen, srcEp := endpoint (s.lcove c) core q, dstEp := w.ep }

/-- `n` entries of the queue have come free. -/
def State.entriesFreed (s : State) (c core q : Nat) : Nat → State
  | 0 => s
  | n + 1 => (s.entryFreed c core q).entriesFreed c core q n

/-- A WRITER_CLOSED entry without messages left enters quarantine (R168). -/
def State.drainEntry (s : State) (c i : Nat) : State :=
  let h := s.chan c
  if (h.entry i).state = .writerClosed ∧ (h.messagesOf i).isEmpty then
    s.modChan c fun h => h.modEntry i fun e => e.quarantine s.cnCycles
  else s

/-- The reader's close takes effect (R168). -/
def State.closeReader (s : State) (c i : Nat) : State :=
  let h := s.chan c
  let e := h.entry i
  let me := chanHandle i e.gen
  let gone := (h.messagesOf i).length
  let q := h.queue e.core e.queue
  let freed := gone + (q.reserved.filter fun w => w.entry == i).length
  let waiting := q.waiters.filter fun w => w.entry == i
  let ep := endpoint (s.lcove c) e.core e.queue
  let s1 := s.modChan c fun h =>
    (h.modQueue e.core e.queue fun r =>
      { r with
        msgs := r.msgs.filter fun m => m.handle != me
        reserved := r.reserved.filter fun w => w.entry != i
        waiters := r.waiters.filter fun w => w.entry != i }).modEntry i fun x => x.quarantine s.cnCycles
  let s2 := waiting.foldl (fun t w =>
    t.sendChan c kClosed { blankChan with dst := w.handle, src := me, srcEp := ep, dstEp := w.ep }) (s1.countClosed c gone)
  let s3 := if e.state = .open_ then
    s2.sendChan c kClose { blankChan with dst := e.farHandle, src := me, srcEp := ep, dstEp := e.farEp } else s2
  s3.entriesFreed c e.core e.queue freed

/-- The writer's close takes effect (R168). -/
def State.closeWriter (s : State) (c i : Nat) : State :=
  let e := (s.chan c).entry i
  let s1 := s.modChan c fun h => h.modEntry i fun x => x.quarantine s.cnCycles
  if e.state = .peerClosed then s1
  else s1.sendChan c kClose
    { blankChan with
      dst := e.farHandle, src := chanHandle i e.gen, srcEp := endpoint (s.lcove c) e.core 0, dstEp := e.farEp }

/-- The closes that step `n` issued in cove `c` take effect at C(n) (R168). -/
def State.commitCloses (s : State) (n c : Nat) : State :=
  ((s.chan c).table.rows.filter fun r => r.2.closeIn == some n).foldl (fun t r =>
    if r.2.writer then t.closeWriter c r.1 else t.closeReader c r.1) s

/-- Is the logical slot of cove `c` moving (R171, R356)? -/
def State.slotMoving (s : State) (c : Nat) : Bool :=
  match s.rot.moves.find (segOfPhys c) with
  | none => false
  | some h => h.moving && (match h.dst with
    | none => h.src == c
    | some d => (h.backs.isSome && (s.logOf c).isSome) || decide (min h.src d ≤ c ∧ c ≤ max h.src d) && (s.logOf c).isSome)

/-- Is the bay's compute domain held in reset (R169)? -/
def State.inReset (s : State) (c : Nat) : Bool :=
  match s.bayOf c with
  | some b => (s.bay b).hang.resetting
  | none => false

/-- The class 0xA register (Table 7.7). -/
def Channels.noteErr (h : Channels) (code : Code) (core queue : Nat) : Channels :=
  { h with errCode := code, errCore := BitVec.ofNat 4 core, errQueue := queue }

/-- A class 0xA exception of a core that concerns one of its queues (R158, R167). -/
def State.chanException (s : State) (r : CoreRef) (code : Code) (queue : Nat) : State :=
  (s.modChan r.cove fun h => h.noteErr code r.core queue).exception r code

/-- A core takes a channel table entry that fails its parity (Table 7.12). -/
def State.entryException (s : State) (r : CoreRef) (handle : BitVec 16) : State :=
  s.chanException r 0xA002 ((s.chan r.cove).entry (handleEntryOf handle)).queue

/-- An instruction or a packet takes a channel table entry that fails its parity (Table 7.12). -/
def Channels.badEntry (h : Channels) (handle : BitVec 16) : Bool := (h.entry (handleEntryOf handle)).bad

/-- How a packet for the entry that a handle names is met: stale, an entry in quarantine, or the entry (R163, R164). -/
inductive EndAt where
  | stale
  | quarantined
  | at_ (i : Nat) (e : ChEntry)

def Channels.endAt (h : Channels) (handle : BitVec 16) : EndAt :=
  let i := handleEntryOf handle
  let e := h.entry i
  if e.gen ≠ handleGen handle ∨ e.state = .free then .stale
  else if e.state = .quarantine then .quarantined
  else .at_ i e

end Sys2Proof.Machine
end

