-- ==== Sys2Proof/Machine/Numbers.lean ====
section
/-!
DEFINITION. Number formats (chapter 03): FP32 and BF16 values held exactly as m × 2^e, their rounding with flushing and
saturation (R66, R69), the narrow formats, their blocks (R62 to R67) and the conversions to them (R72 to R75).
-/

namespace Sys2Proof.Machine

/-- An exact value: NaN, an infinity, a signed zero, or `m × 2^e` with `m` not zero. -/
inductive FVal where
  | nan
  | inf (neg : Bool)
  | zero (neg : Bool)
  | fin (m : Int) (e : Int)
  deriving DecidableEq, Repr

/-- Counts of events of one operation (Table 3.6). -/
structure Events where
  sat : Nat := 0
  ovf : Nat := 0
  unf : Nat := 0
  dnorm : Nat := 0
  invalid : Nat := 0
  deriving DecidableEq, Repr

def Events.add (a b : Events) : Events :=
  ⟨a.sat + b.sat, a.ovf + b.ovf, a.unf + b.unf, a.dnorm + b.dnorm, a.invalid + b.invalid⟩

/-- `m × 2^e` as a value. -/
def FVal.ofInt (m e : Int) : FVal := if m = 0 then .zero false else .fin m e

def FVal.neg : FVal → FVal
  | .nan => .nan
  | .inf n => .inf (!n)
  | .zero n => .zero (!n)
  | .fin m e => .fin (-m) e

def FVal.isNeg : FVal → Bool
  | .nan => false
  | .inf n => n
  | .zero n => n
  | .fin m _ => m < 0

/-- Floor of log2 of the magnitude of `m × 2^e`. -/
def ilog2 (m e : Int) : Int := (Nat.log2 m.natAbs : Int) + e

/-- `m × 2^k` for an integer shift that loses nothing when `k ≥ 0`, floored otherwise. -/
def shiftInt (m : Nat) (k : Int) : Nat := if 0 ≤ k then m <<< k.toNat else m >>> (-k).toNat

/-- Is the part that `shiftInt` drops compared with one half: below, equal, above (0 exact)? -/
def dropped (m : Nat) (k : Int) : Nat × Nat :=
  if 0 ≤ k then (0, 1) else (m % 2 ^ (-k).toNat, 2 ^ (-k).toNat)

/-- `m × 2^k` rounded to an integer: nearest with ties to even, or toward zero (Table 3.5). -/
def roundNat (rz : Bool) (m : Nat) (k : Int) : Nat :=
  let q := shiftInt m k
  let r := dropped m k
  if rz then q
  else if 2 * r.1 < r.2 then q
  else if 2 * r.1 = r.2 then (if q % 2 = 0 then q else q + 1)
  else q + 1

/-- Subtraction of `m × 2^e` and comparison of magnitudes: is `|a| < |b|`? -/
def magLt (ma ea mb eb : Int) : Bool :=
  let e := min ea eb
  decide (ma.natAbs <<< (ea - e).toNat < mb.natAbs <<< (eb - e).toNat)

/-- The value of FP32 bits; a subnormal is flushed and counted (R66). -/
def f32Val (w : Word) : FVal × Nat :=
  let neg := w.getLsbD 31
  let ex := (w.toNat >>> 23) % 256
  let fr := w.toNat % 2 ^ 23
  if ex = 255 then (if fr = 0 then (.inf neg, 0) else (.nan, 0))
  else if ex = 0 then (.zero neg, if fr = 0 then 0 else 1)
  else
    let m : Int := (2 ^ 23 + fr : Nat)
    (.fin (if neg then -m else m) ((ex : Int) - 150), 0)

/-- BF16 is the upper half of FP32. -/
def bf16Val (h : BitVec 16) : FVal × Nat := f32Val (h.setWidth 32 <<< 16)

/-- The FP32 bits of a value that FP32 represents. -/
def f32Bits : FVal → Word
  | .nan => 0x7FC00000
  | .inf n => if n then 0xFF800000 else 0x7F800000
  | .zero n => if n then 0x80000000 else 0
  | .fin m e =>
    let l := ilog2 m e
    let frac := shiftInt m.natAbs (e - (l - 23)) - 2 ^ 23
    let body := (l + 127).toNat * 2 ^ 23 + frac
    BitVec.ofNat 32 (body + if m < 0 then 2 ^ 31 else 0)

/-- The largest finite value with a `p`-bit significand: (2^p − 1) × 2^(128 − p). -/
def maxFinite (p : Nat) (neg : Bool) : FVal :=
  let m : Int := (2 ^ p - 1 : Nat)
  .fin (if neg then -m else m) (128 - (p : Int))

/-- Rounding to a `p`-bit significand with FP32's exponents: toward zero or to nearest with ties to even; a result above the
largest finite value saturates (counting SAT) or becomes what IEEE 754 gives; a subnormal result is flushed (R66, R69). -/
def roundTo (p : Nat) (rz sat : Bool) : FVal → FVal × Events
  | .fin m e =>
    let neg := decide (m < 0)
    let q := max (ilog2 m e - ((p : Int) - 1)) (-126 - ((p : Int) - 1))
    let n := roundNat rz m.natAbs (e - q)
    if n = 0 then (.zero neg, {})
    else
      let r : Int := if neg then -(n : Int) else n
      if 128 ≤ ilog2 r q then
        if sat then (maxFinite p neg, { sat := 1 })
        else (if rz then maxFinite p neg else .inf neg, {})
      else if ilog2 r q < -126 then (.zero neg, { dnorm := 1 })
      else (.fin r q, {})
  | v => (v, {})

/-- Exact sum of two values; opposite infinities give NaN. -/
def fadd : FVal → FVal → FVal
  | .nan, _ => .nan
  | _, .nan => .nan
  | .inf a, .inf b => if a = b then .inf a else .nan
  | .inf a, _ => .inf a
  | _, .inf b => .inf b
  | .zero a, .zero b => .zero (a && b)
  | .zero _, v => v
  | v, .zero _ => v
  | .fin ma ea, .fin mb eb =>
    let e := min ea eb
    .ofInt (ma * 2 ^ (ea - e).toNat + mb * 2 ^ (eb - e).toNat) e

/-- Exact product of two values; infinity times zero gives NaN. -/
def fmul : FVal → FVal → FVal
  | .nan, _ => .nan
  | _, .nan => .nan
  | .inf _, .zero _ => .nan
  | .zero _, .inf _ => .nan
  | .inf a, v => .inf (a != v.isNeg)
  | v, .inf b => .inf (b != v.isNeg)
  | .zero a, v => .zero (a != v.isNeg)
  | v, .zero b => .zero (b != v.isNeg)
  | .fin ma ea, .fin mb eb => .fin (ma * mb) (ea + eb)

/-- Is `a < b`, for values that are not NaN (zeros equal)? -/
def flt : FVal → FVal → Bool
  | .nan, _ => false
  | _, .nan => false
  | .inf a, .inf b => a && !b
  | .inf a, _ => a
  | _, .inf b => !b
  | .zero _, .zero _ => false
  | .zero _, .fin m _ => decide (0 < m)
  | .fin m _, .zero _ => decide (m < 0)
  | .fin ma ea, .fin mb eb =>
    let e := min ea eb
    decide (ma * 2 ^ (ea - e).toNat < mb * 2 ^ (eb - e).toNat)

/-- FP32 addition with one rounding, as IEEE 754 but for R66 (log entry 12). -/
def f32Add (rz : Bool) (a b : Word) : Word × Nat :=
  let x := f32Val a
  let y := f32Val b
  let r := roundTo 24 rz false (fadd x.1 y.1)
  (f32Bits r.1, x.2 + y.2 + r.2.dnorm)

def f32Sub (rz : Bool) (a b : Word) : Word × Nat :=
  let x := f32Val a
  let y := f32Val b
  let r := roundTo 24 rz false (fadd x.1 y.1.neg)
  (f32Bits r.1, x.2 + y.2 + r.2.dnorm)

def f32Mul (rz : Bool) (a b : Word) : Word × Nat :=
  let x := f32Val a
  let y := f32Val b
  let r := roundTo 24 rz false (fmul x.1 y.1)
  (f32Bits r.1, x.2 + y.2 + r.2.dnorm)

/-- a × b + c with one rounding. -/
def f32Fma (rz : Bool) (a b c : Word) : Word × Nat :=
  let x := f32Val a
  let y := f32Val b
  let z := f32Val c
  let r := roundTo 24 rz false (fadd (fmul x.1 y.1) z.1)
  (f32Bits r.1, x.2 + y.2 + z.2 + r.2.dnorm)

/-- The larger (or, with `lo`, the smaller) of two FP32 values; NaN in either gives the canonical NaN (Table 5.6). -/
def f32Max (lo : Bool) (a b : Word) : Word × Nat :=
  let x := f32Val a
  let y := f32Val b
  let v :=
    match x.1, y.1 with
    | .nan, _ => FVal.nan
    | _, .nan => FVal.nan
    | .zero p, .zero q => if p = q then .zero p else .zero (Config.freeZero a b)
    | u, w => if flt u w = lo then u else w
  (f32Bits v, x.2 + y.2)

def bf16Bits (v : FVal) : BitVec 16 := (f32Bits v).extractLsb' 16 16

def bf16Add (rz : Bool) (a b : BitVec 16) : BitVec 16 × Nat :=
  let x := bf16Val a
  let y := bf16Val b
  let r := roundTo 8 rz false (fadd x.1 y.1)
  (bf16Bits r.1, x.2 + y.2 + r.2.dnorm)

def bf16Mul (rz : Bool) (a b : BitVec 16) : BitVec 16 × Nat :=
  let x := bf16Val a
  let y := bf16Val b
  let r := roundTo 8 rz false (fmul x.1 y.1)
  (bf16Bits r.1, x.2 + y.2 + r.2.dnorm)

/-- FP32 to BF16 (R73, R74): saturating. -/
def f32ToBf16 (rz : Bool) (a : Word) : BitVec 16 × Events :=
  let x := f32Val a
  let r := roundTo 8 rz true x.1
  (bf16Bits r.1, { r.2 with dnorm := r.2.dnorm + x.2 })

/-- FP32 to INT32, clipped; NaN to 0 (Table 5.6). -/
def f32ToInt (rz : Bool) (a : Word) : Word × Nat :=
  let x := f32Val a
  let clip (n : Nat) (neg : Bool) : Word :=
    if neg then (if 2 ^ 31 ≤ n then 0x80000000 else -BitVec.ofNat 32 n)
    else if 2 ^ 31 ≤ n then 0x7FFFFFFF else BitVec.ofNat 32 n
  match x.1 with
  | .nan => (0, x.2)
  | .inf n => (if n then 0x80000000 else 0x7FFFFFFF, x.2)
  | .zero _ => (0, x.2)
  | .fin m e => (clip (roundNat rz m.natAbs e) (decide (m < 0)), x.2)

/-- INT32 to FP32. -/
def intToF32 (rz : Bool) (a : Word) : Word := f32Bits (roundTo 24 rz false (.ofInt a.toInt 0)).1

/-! VEXP2, VRCP and VRSQ: the correctly rounded value, and a free choice among the values within 2 units in the last place
of it (R112). -/

/-- ln 2 × 2^90, rounded down. -/
def ln2Fixed : Nat := 858074647932929271111585486

/-- 2^f × 2^90 for f = `f` / 2^90 below 1, by `n` more terms of the exponential series; `t` is the present term. -/
def exp2Series (f : Nat) : Nat → Nat → Nat → Nat
  | 0, _, t => t
  | n + 1, k, t => t + exp2Series f n (k + 1) (t * ((f * ln2Fixed) >>> 90) / (2 ^ 90 * k))

/-- 2^x correctly rounded, for a finite x from −126 to 128. -/
def exp2Bits (m e : Int) : Word :=
  let num : Int := if 0 ≤ e + 90 then m * 2 ^ (e + 90).toNat else m / 2 ^ (-(e + 90)).toNat
  let n := num / 2 ^ 90
  let f := (num % 2 ^ 90).toNat
  f32Bits (roundTo 24 false false (.fin (exp2Series f 40 1 (2 ^ 90) : Nat) (n - 90))).1

/-- 1/|x| correctly rounded, for m × 2^e: the quotient to 60 bits with a sticky bit. -/
def rcpVal (m e : Int) : FVal :=
  let a := m.natAbs
  let k := Nat.log2 a + 60
  let q := 2 ^ k / a
  let s := if 2 ^ k % a = 0 then 0 else 1
  .fin (if m < 0 then -((2 * q + s : Nat) : Int) else (2 * q + s : Nat)) (-(k : Int) - 1 - e)

/-- Largest r with r × r ≤ n, by bits from `b` down. -/
def isqrtAux (n : Nat) : Nat → Nat → Nat
  | 0, r => r
  | b + 1, r => isqrtAux n b (if (r + 2 ^ b) * (r + 2 ^ b) ≤ n then r + 2 ^ b else r)

/-- 1/√x for x = m × 2^e above 0: the root of 2^k / m to 60 bits with a sticky bit, k of the parity that makes the
exponent even. -/
def rsqVal (m e : Int) : FVal :=
  let a := m.natAbs
  let k := 2 * (Nat.log2 a) + 140 + (e % 2).toNat
  let n := 2 ^ k / a
  let r := isqrtAux n 110 0
  .fin (2 * r + 1 : Nat) (-(((k : Int) + e) / 2) - 1)

/-- A free choice of the values within 2 units of the last place of a positive or negative normal `c`, kept normal. -/
def withinUlp (pick : Nat) (c : Word) : Word :=
  let mag := c.toNat % 2 ^ 31
  if 0x00800000 ≤ mag ∧ mag < 0x7F800000 then
    let v := min (max (mag + pick % 5 - 2) 0x00800000) 0x7F7FFFFF
    BitVec.ofNat 32 (v + if c.getLsbD 31 then 2 ^ 31 else 0)
  else c

/-- VEXP2 of a lane (R111), with its flushes. DESIGN CHOICE (log entry 188): a result below 2^-126, delivered as +0, counts no DNORM. -/
def f32Exp2 (a : Word) : Word × Nat :=
  let x := f32Val a
  match x.1 with
  | .nan => (0x7FC00000, x.2)
  | .inf n => (if n then 0 else 0x7F800000, x.2)
  | .zero _ => (withinUlp (Config.freeUlp 0 a) 0x3F800000, x.2)
  | .fin m e =>
    if flt (.fin 128 0) (.fin m e) then (0x7F800000, x.2)
    else if flt (.fin m e) (.fin (-126) 0) then (0, x.2)
    else (withinUlp (Config.freeUlp 0 a) (exp2Bits m e), x.2)

def f32Rcp (a : Word) : Word × Nat :=
  let x := f32Val a
  match x.1 with
  | .nan => (0x7FC00000, x.2)
  | .inf n => (if n then 0x80000000 else 0, x.2)
  | .zero n => (if n then 0xFF800000 else 0x7F800000, x.2)
  | .fin m e =>
    let r := roundTo 24 false false (rcpVal m e)
    (withinUlp (Config.freeUlp 1 a) (f32Bits r.1), x.2 + r.2.dnorm)

def f32Rsq (a : Word) : Word × Nat :=
  let x := f32Val a
  match x.1 with
  | .nan => (0x7FC00000, x.2)
  | .inf n => (if n then 0x7FC00000 else 0, x.2)
  | .zero n => (if n then 0xFF800000 else 0x7F800000, x.2)
  | .fin m e =>
    if m < 0 then (0x7FC00000, x.2)
    else
      let r := roundTo 24 false false (rsqVal m e)
      (withinUlp (Config.freeUlp 2 a) (f32Bits r.1), x.2 + r.2.dnorm)

/-! Narrow formats (Tables 3.1 to 3.4). -/

/-- Is it a block format, codes 0x2 to 0x8? -/
def fmtBlock (f : Nat) : Bool := 2 ≤ f && f ≤ 8

/-- Exponent bits, mantissa bits and bias of a minifloat element format; ET has none. -/
def fmtShape : Nat → Nat × Nat × Nat
  | 2 => (4, 3, 7)
  | 3 => (5, 2, 15)
  | 4 => (2, 3, 1)
  | 5 => (3, 2, 3)
  | 6 => (2, 1, 1)
  | 7 => (1, 1, 1)
  | _ => (0, 0, 1)

/-- Unit exponent u of Table 3.4. -/
def fmtUnit (f : Nat) : Int :=
  if f = 8 then 0 else 1 - ((fmtShape f).2.2 : Int) - (fmtShape f).2.1

/-- Largest finite magnitude in units (K of Table 3.4). -/
def fmtMax : Nat → Nat
  | 2 => 229376
  | 3 => 3758096384
  | 4 => 60
  | 5 => 448
  | 6 => 12
  | 7 => 3
  | _ => 1

/-- emax of R72. -/
def fmtEmax : Nat → Int
  | 2 => 8
  | 3 => 15
  | 4 => 2
  | 5 => 4
  | 6 => 2
  | _ => 0

/-- Bytes per block (Table 3.3). -/
def fmtBytes : Nat → Nat
  | 2 => 32
  | 3 => 32
  | 4 => 24
  | 5 => 24
  | 6 => 16
  | 7 => 12
  | _ => 7

/-- A decoded element: an integer multiple of the format's unit, or a special. `bad` marks an element of an invalid ET byte. -/
inductive Elem where
  | int (k : Int)
  | nan
  | inf (neg : Bool)
  | bad
  deriving DecidableEq, Repr

/-- Decodes the bits of a minifloat element (R62, R63). -/
def decodeMini (f bits : Nat) : Elem :=
  let (eb, mb, _) := fmtShape f
  let s := (bits >>> (eb + mb)) % 2 = 1
  let e := (bits >>> mb) % 2 ^ eb
  let m := bits % 2 ^ mb
  if f = 2 ∧ e = 15 ∧ m = 7 then .nan
  else if f = 3 ∧ e = 31 then (if m = 0 then .inf s else .nan)
  else
    let k : Nat := if e = 0 then m else (2 ^ mb + m) <<< (e - 1)
    .int (if s then -(k : Int) else k)

/-- Digit `k` of an ET byte (R64). -/
def etDigit (b k : Nat) : Int :=
  match b / 3 ^ k % 3 with
  | 0 => 0
  | 1 => 1
  | _ => -1

/-- Element `i` of a block given as its little-endian number (Table 3.3). -/
def blockElem (f blk i : Nat) : Elem :=
  if f = 8 then
    let b := (blk >>> (8 * (i / 5))) % 256
    if (i / 5 = 6 ∧ 8 < b) ∨ 242 < b then .bad else .int (etDigit b (i % 5))
  else
    let (eb, mb, _) := fmtShape f
    decodeMini f ((blk >>> ((1 + eb + mb) * i)) % 2 ^ (1 + eb + mb))

/-- The value of an element under its block's scale (R65). DESIGN CHOICE (log entry 173): an element of magnitude 0 is +0 whatever its
sign bit. -/
def elemVal (f : Nat) (scale : Nat) (x : Elem) : FVal :=
  if scale = 255 then .nan
  else
    match x with
    | .int k => .ofInt k (fmtUnit f + (scale : Int) - 127)
    | .nan => .nan
    | .inf n => .inf n
    | .bad => .zero false

/-! Conversion to a block (R72 to R75). -/

/-- Rounds `m × 2^k` to an integer under a mode: 0 nearest even, 1 toward zero, 2 stochastic with draw `r` (R75). -/
def roundMode (mode r m : Nat) (k : Int) : Nat :=
  if mode = 2 then
    let q := shiftInt m k
    let d := dropped m k
    if 2 ^ 16 ≤ d.1 * 2 ^ 16 / d.2 + r then q + 1 else q
  else roundNat (mode = 1) m k

/-- The largest magnitude of R72 as m × 2^e: infinities count as 2^128 − 2^104. None if no finite non-zero value. -/
def amaxOf : List FVal → Option (Nat × Int)
  | [] => none
  | v :: t =>
    let rest := amaxOf t
    let here : Option (Nat × Int) :=
      match v with
      | .fin m e => some (m.natAbs, e)
      | .inf _ => some (2 ^ 24 - 1, 104)
      | _ => none
    match here, rest with
    | none, r => r
    | h, none => h
    | some (a, x), some (b, y) => if magLt a x b y then some (b, y) else some (a, x)

/-- Exponent X of R72. -/
def scaleExp (f : Nat) (headroom : Bool) (a : Nat) (e : Int) : Int :=
  let x := ilog2 a e - fmtEmax f
  let mb : Int := if f = 8 then 0 else (fmtShape f).2.1
  let sp := fmtEmax f - mb
  -- amax / 2^x in grid steps of the top binade, rounded up
  let steps := shiftInt a (e - x - sp) + (if (dropped a (e - x - sp)).1 = 0 then 0 else 1)
  let units := shiftInt steps (sp - fmtUnit f)
  if headroom && fmtMax f < units then x + 1 else x

/-- Encodes a magnitude of `k` units with a sign as the bits of a minifloat element. -/
def encodeMini (f k : Nat) (neg : Bool) : Nat :=
  let (eb, mb, _) := fmtShape f
  if k = 0 then 0
  else
    let body := if k < 2 ^ mb then k else
      let e := Nat.log2 k - mb + 1
      e * 2 ^ mb + (k >>> (e - 1)) - 2 ^ mb
    body + if neg then 2 ^ (eb + mb) else 0

/-- One element converted against 2^X: its bits (for ET its digit) and whether it saturated (R73, R74). -/
def convElem (f mode r : Nat) (x : Int) : FVal → Nat × Nat
  | .nan => (if f = 2 ∨ f = 3 then 0x7F else 0, 0)
  | .zero _ => (0, 0)
  | .inf n =>
    if f = 3 then (if n then 0xFC else 0x7C, 0)
    else if f = 8 then (if n then 2 else 1, 1)
    else (encodeMini f (fmtMax f) n, 1)
  | .fin m e =>
    let mb : Int := if f = 8 then 0 else (fmtShape f).2.1
    let emin : Int := if f = 8 then 0 else 1 - ((fmtShape f).2.2 : Int)
    let sp := if f = 8 then 0 else max (ilog2 m (e - x)) emin - mb
    let n := roundMode mode r m.natAbs (e - x - sp)
    let units := shiftInt n (sp - fmtUnit f)
    let neg := decide (m < 0)
    let k := min units (fmtMax f)
    let s := if fmtMax f < units then 1 else 0
    if f = 8 then (if k = 0 then 0 else if neg then 2 else 1, s) else (encodeMini f k neg, s)

/-- The block's bytes as a number from its elements' bits (Table 3.3, R64). -/
def packElems (f : Nat) : List Nat → Nat → Nat
  | [], _ => 0
  | b :: t, i =>
    (if f = 8 then (b * 3 ^ (i % 5)) <<< (8 * (i / 5))
     else b <<< ((1 + (fmtShape f).1 + (fmtShape f).2.1) * i)) + packElems f t (i + 1)

/-- Converts 32 values to a block: its element bytes as a number, its scale byte, and the events counted. -/
def convBlock (f mode : Nat) (headroom : Bool) (draw : Nat → Nat) (vs : List FVal) : Nat × Nat × Events :=
  let hasNan := vs.any fun v => v == .nan
  if hasNan && !(f == 2 || f == 3) then (0, 255, { invalid := 1 })
  else
    match amaxOf vs with
    | none => (packElems f (vs.map fun v => if v == .nan then 0x7F else 0) 0, 127, {})
    | some (a, e) =>
      let x0 := scaleExp f headroom a e
      let x := max (-127) (min 127 x0)
      let cs := (List.range vs.length).zip vs |>.map fun p => convElem f mode (draw p.1) x p.2
      (packElems f (cs.map Prod.fst) 0, (x + 127).toNat,
        { sat := (cs.map Prod.snd).sum, ovf := if 127 < x0 then 1 else 0, unf := if x0 < -127 then 1 else 0 })

/-- The draw of stochastic rounding (R75): seed, step, physical index, tile sequence, element index. -/
def draw75 (seed : BitVec 64) (step phys tileSeq e : Nat) : Nat :=
  let key : BitVec 64 := seed ^^^ (BitVec.ofNat 64 step <<< 16) ^^^ BitVec.ofNat 64 phys
  let c := BitVec.ofNat 64 (tileSeq * 1024 + e / 4)
  let x := key + 0x9E3779B97F4A7C15#64 * (c + 1)
  let x := (x ^^^ (x >>> 30)) * 0xBF58476D1CE4E5B9#64
  let x := (x ^^^ (x >>> 27)) * 0x94D049BB133111EB#64
  let x := x ^^^ (x >>> 31)
  (x.toNat >>> (16 * (e % 4))) % 65536

/-- FP32 bits of a value after conversion to FP32 (R66, R69): saturating, flushed. -/
def toF32Sat (v : FVal) : Word × Events :=
  let r := roundTo 24 false true v
  (f32Bits r.1, r.2)

end Sys2Proof.Machine
end

