-- ==== Sys2Proof/Machine/TideOps.lean ====
section
/-!
DEFINITION. The tide fabric's shared operations (chapter 08): neighbours, faults and freeze (R200 to R203), phases and windows
(R180 to R187), groynes (R194), reduction (R190 to R192), the barrier and vote trees (R197 to R199).
-/

namespace Sys2Proof.Machine

/-- The logical neighbour of logical cove `l` in direction 0 N, 1 E, 2 S, 3 W (Table 8.2). -/
def logNeighbour (l d : Nat) : Option Nat :=
  match d with
  | 0 => if 36 ≤ l then some (l - 36) else none
  | 1 => if l % 36 < 35 then some (l + 1) else none
  | 2 => if l + 36 < 720 then some (l + 36) else none
  | _ => if 0 < l % 36 then some (l - 1) else none

/-- The direction from which a word sent in direction `d` arrives. -/
def facing (d : Nat) : Nat := (d + 2) % 4

/-- The physical cove that holds the logical neighbour (R204, R205). -/
def State.neighbour (s : State) (c d : Nat) : Option Nat :=
  (s.logOf c).bind fun l => (logNeighbour l d).bind s.physOf

/-- Does the link from logical cove `l` in direction `d` cross the seam (R207)? -/
def crossesSeam (l d : Nat) : Bool := (l % 36 == 17 && d == 1) || (l % 36 == 18 && d == 3)

/-- A core by numbers, where they name one. -/
def coreRef (c k : Nat) : Option CoreRef :=
  if h : c < 800 ∧ k < 16 then some ⟨⟨c, h.1⟩, ⟨k, h.2⟩⟩ else none

/-! Barrier and system entries (Table 8.11). -/

def barValid (e : Word) : Bool := e.getLsbD 0
def barRoot (e : Word) : Bool := e.getLsbD 1
def barParent (e : Word) : Nat := bits e 2 2
def barChild (e : Word) (d : Nat) : Bool := e.getLsbD (4 + d)
def barCore (e : Word) (k : Nat) : Bool := e.getLsbD (8 + k)
def barChildren (e : Word) : List Nat := (List.range 4).filter (barChild e)
def barCores (e : Word) : List Nat := (List.range 16).filter (barCore e)

def Tide.entry (t : Tide) (b : Nat) : Word := t.barriers.get 0 b
/-- The system entry (R198). -/
def Tide.system (t : Tide) : Word := t.entry 16

/-- Combining tokens (Table 8.6). -/
def tokArrive (b : Nat) : BitVec 6 := BitVec.ofNat 6 b
def tokRelease (b : Nat) : BitVec 6 := BitVec.ofNat 6 (16 + b)
def tokVote (pass : Bool) (tag : BitVec 2) : BitVec 6 := BitVec.ofNat 6 (32 + (if pass then 8 else 0) + tag.toNat)
def tokCommit : BitVec 6 := 0x31
def tokRollback : BitVec 6 := 0x32

/-- A token for the combining lane toward each of the directions, from cycle `cyc` on. -/
def Tide.send (t : Tide) (tok : BitVec 6) (tag : BitVec 2) (ds : List Nat) (cyc : Nat) : Tide :=
  { t with lane := t.lane ++ ds.map fun d => { tok := tok, tag := tag, dir := d, at_ := cyc } }

/-- The order in which a lane output sends its tokens (R197): FREEZE, then RELEASE by barrier with ROLLBACK and COMMIT of the system
entry last, VOTE, ARRIVE by barrier. -/
def tokRank (t : BitVec 6) : Nat :=
  if t = tokFreeze then 0
  else if t.toNat / 16 = 1 then 1 + t.toNat % 16
  else if t.toNat / 16 = 3 then 17
  else if t.toNat / 16 = 2 then 18
  else 19 + t.toNat % 16

/-- Slots of the lane that a token takes: a COMMIT or ROLLBACK is followed by its tag (Table 8.6). -/
def tokSlots (t : BitVec 6) : Nat := if t = tokCommit ∨ t = tokRollback then 2 else 1

/-- Neighbours in the system tree. -/
def Tide.systemNeighbours (t : Tide) : List Nat :=
  let e := t.system
  if !barValid e then []
  else barChildren e ++ if barRoot e then [] else [barParent e]

/-- Cycles from a lane output to the switch in direction `d` (R197). -/
def State.laneHops (s : State) (c d : Nat) : Nat := if crossesSeam ((s.logOf c).getD 0) d then 3 else 1

/-- Of the tokens in an output queue the one that leaves first. -/
def firstTok (l : List LaneTok) : Option LaneTok :=
  l.foldl (fun (b : Option LaneTok) x => match b with
    | some y => if tokRank x.tok < tokRank y.tok then some x else some y
    | none => some x) none

/-- The token that switch `c` now receives from its neighbour in direction `d`: the first that the neighbour's output had in its
queue when a slot that has arrived by now was free (R197). A frozen switch drops barrier tokens (R202). -/
def State.laneNext (s : State) (c d : Nat) : Option LaneTok :=
  (s.neighbour c d).bind fun n =>
    let t := (s.cove n).tide
    let hops := s.laneHops c d
    if s.cycles n < t.laneFree.get 0 (facing d) + hops then none
    else
      let stops := (s.cove c).tide.stopped (s.cycles c)
      firstTok (t.lane.filter fun x => x.dir == facing d && decide (x.at_ + hops ≤ s.cycles n) && !(stops && decide (x.tok.toNat < 32)))

/-- A token from the neighbour in direction `d` has left the neighbour's queue; its output is busy for the token's slots. -/
def State.takeLane (s : State) (c d : Nat) (x : LaneTok) : State :=
  match s.neighbour c d with
  | none => s
  | some n =>
    let slot := max x.at_ ((s.cove n).tide.laneFree.get 0 (facing d))
    s.modCove n fun v => v.modTide fun t =>
      { t with lane := t.lane.erase x, laneFree := t.laneFree.set 0 (facing d) (slot + tokSlots x.tok) }

/-! The ports of the streams (R257, R258). -/

/-- Descriptor `x` with one more word moved at the port; after its last word it has left the FIFO. -/
def StreamPort.moved (p : StreamPort) (x : StreamDesc) : StreamPort :=
  let y : StreamDesc := { x with done := x.done + 1 }
  if y.done < y.words then { p with fifo := p.fifo.map fun q => if q = x then y else q }
  else { p with fifo := p.fifo.erase x, served := p.served ++ [y] }

/-- The FIFO's first descriptor of a step in a direction. -/
def StreamPort.current (p : StreamPort) (write : Bool) (step : Option Nat) : Option StreamDesc :=
  p.fifo.find? fun x => x.write == write && some x.step == step

/-- A word at the port enters the write buffer as the next word of the running step's write descriptor (R258); without one it
has no address and is not stored (log entry 82). -/
def StreamPort.accept (p : StreamPort) (step : Option Nat) (w : TideWord) (dl : BitVec 16) : StreamPort :=
  match p.current true step with
  | none => p
  | some x =>
    let y := p.moved x
    { y with wrBuf := y.wrBuf ++ [⟨w.data, w.ok, x.addr + 64 * x.done, x.step, dl⟩] }

/-! Faults. -/

/-- Is the code a schedule violation (R200), a hardware error of the class? -/
def isViolation (code : Code) : Bool := decide (0x6020#16 ≤ code ∧ code ≤ 0x602D#16)
def isTideHw (code : Code) : Bool := decide (0x6030#16 ≤ code ∧ code ≤ 0x6033#16)

/-- The switch freezes from cycle `from_` on and sends FREEZE on the system tree (R201). -/
def Tide.freeze (t : Tide) (cyc from_ : Nat) : Tide :=
  if t.frozen then t else { t.send tokFreeze 0 t.systemNeighbours cyc with frozen := true, frozenAt := from_ }

/-- A switch detects a schedule violation or a hardware error of class 0x6 (R201, R203). -/
def State.tideFault (s : State) (c : Nat) (code : Code) (plane : BitVec 2) (port : BitVec 5) : State :=
  let now := s.cycles c
  let cyc := now - (s.cove c).tide.stepCyc
  let s1 := s.modCove c fun v => v.modTide fun t =>
    { t.freeze now (now + 1) with
      violCode := code, violPort := port, violPlane := plane, violNew := true, violNo := t.violNo + 1, violCyc := BitVec.ofNat 32 cyc
      ctr := if isViolation code then bump t.ctr 1 1 else if code = 0x6030 then bump t.ctr 0 1 else t.ctr }
  if isTideHw code then s1.hwError c code
  else
    match s1.attemptAt c with
    | none => s1
    | some (b, n, a) =>
      (s1.castFail c n a code false).modStep b n fun r =>
        { r with viol := if r.viol.isSome then r.viol else some (code, (s.logOf c).getD 0, cyc) }

/-- The token arrives from the neighbour in direction `d` and `f` follows; at a closed seam stage it is a schedule violation 0x602B of
the switch that sent it (R209). Nothing happens where no such token arrives. -/
def State.laneIn (s : State) (c d : Nat) (tok : BitVec 6) (tag : BitVec 2) (f : State → State) : State :=
  match s.laneNext c d with
  | none => s
  | some x =>
    if x.tok ≠ tok ∨ x.tag ≠ tag then s
    else
      let t := s.takeLane c d x
      let l := (s.logOf c).getD 0
      if crossesSeam l d ∧ (s.seamPath (l / 36)).state ≠ .open_ then
        t.tideFault ((s.neighbour c d).getD c) 0x602B 3 (BitVec.ofNat 5 (facing d))
      else f t

/-! Phases and windows. -/

/-- Is a window active `w` cycles after its start (R181)? -/
def windowActive (off stride count w : Nat) : Bool :=
  off ≤ w && (w - off) % stride == 0 && decide ((w - off) / stride < count)

/-- Fields of a route entry or a groyne configuration (Tables 8.3, 8.12). -/
def routeMode (e : BitVec 64) : Nat := bits e 0 2
def routeSrc (e : BitVec 64) : Nat := bits e 2 5
def routeReduce (e : BitVec 64) : Bool := e.getLsbD 7
def routeMask (e : BitVec 64) : List Nat := (List.range 4).filter fun d => e.getLsbD (8 + d)
def routeFmt (e : BitVec 64) : Nat := bits e 12 2
def windowOf (e : BitVec 64) (w : Nat) : Bool := windowActive (bits e 16 12) (bits e 32 8 + 1) (bits e 40 16) w

/-- Is a route active `w` cycles after phase entry? -/
def routeActive (e : BitVec 64) (w : Nat) : Bool :=
  routeMode e == 1 || (routeMode e == 2 && windowOf e w)

/-- Phase changes that are due by cycle `cyc` take place, in order (R186). -/
def Tide.advance (t : Tide) (cyc : Nat) : Tide :=
  let due := t.phNext.filter fun x => decide (x.2.2 ≤ cyc)
  let t1 := due.foldl (fun (u : Tide) x => { u with ph := u.ph.set 0 x.1 x.2.1, phStart := u.phStart.set 0 x.1 x.2.2 }) t
  { t1 with phNext := t.phNext.filter fun x => decide (cyc < x.2.2) }

/-- The active routes of a plane in a cycle: destination and entry. -/
def Tide.active (t : Tide) (plane cyc : Nat) : List (Nat × BitVec 64) :=
  let phase := t.ph.get 0 plane
  ((List.range 32).map fun d => (d, t.routes.get 0 (plane * 512 + phase * 32 + d))).filter fun r =>
    routeActive r.2 (cyc - t.phStart.get 0 plane)

/-- A token at PSEL in cycle `cyc` (R185, R186): the phase change it makes, or the violation 0x6029. -/
def Tide.pselToken (t : Tide) (tok : BitVec 8) (phases cyc : Nat) : Tide × Option Code :=
  let phase := tok.toNat % 16
  if tok.toNat / 64 ≠ 1 ∨ phases ≤ phase then (t, some 0x6029)
  else
    let planes := match tok.toNat / 16 % 4 with
      | 3 => [0, 1, 2]
      | p => [p]
    ({ t with phNext := t.phNext ++ planes.map fun p => (p, phase, cyc + 2) }, none)

/-- PHASES of the bay's program (R188). -/
def State.phasesAt (s : State) (c : Nat) : Nat :=
  match (s.bayOf c).bind fun b => (s.bay b).program with
  | some p => p.phases
  | none => 1

/-! Groynes (R194). -/

def Groyne.enabled (g : Groyne) : Bool := g.cfg.getLsbD 0
def Groyne.plane (g : Groyne) : Nat := if g.cfg.getLsbD 1 then 1 else 0

/-- A data word arrives. -/
def Groyne.takeData (g : Groyne) (w : TideWord) (cyc : Nat) : Groyne × Option Code :=
  if 4 ≤ g.pairs.length then (g, some 0x6025)
  else
    match g.toks with
    | k :: rest => ({ g with toks := rest, pairs := g.pairs ++ [(w, k, cyc)] }, none)
    | [] => if 4 ≤ g.data.length then (g, some 0x6025) else ({ g with data := g.data ++ [w] }, none)

/-- A token arrives: its sequence bit must be the expected one and its reserved bits 0. -/
def Groyne.takeTok (g : Groyne) (k : BitVec 8) (cyc : Nat) : Groyne × Option Code :=
  if k.getLsbD 7 ≠ g.seq ∨ k.toNat / 16 % 8 ≠ 0 then (g, some 0x6027)
  else if 4 ≤ g.pairs.length then (g, some 0x6025)
  else
    let g1 := { g with seq := !g.seq }
    match g1.data with
    | w :: rest => ({ g1 with data := rest, pairs := g1.pairs ++ [(w, k, cyc)] }, none)
    | [] => if 4 ≤ g1.toks.length then (g, some 0x6025) else ({ g1 with toks := g1.toks ++ [k] }, none)

/-! Reduction (R190, R191). -/

/-- Sum of two FP32 lanes, with whether it saturated and its flushes. -/
def redF32 (a b : Word) : Word × Nat × Nat :=
  let r := f32Add false a b
  if r.1.toNat % 2 ^ 31 = 0x7F800000 ∧ a.toNat % 2 ^ 31 < 0x7F800000 ∧ b.toNat % 2 ^ 31 < 0x7F800000 then
    (r.1 - 1, 1, r.2)
  else (r.1, 0, r.2)

/-- Sum of two BF16 lanes. -/
def redBf16 (a b : BitVec 16) : BitVec 16 × Nat × Nat :=
  let r := bf16Add false a b
  if r.1.toNat % 2 ^ 15 = 0x7F80 ∧ a.toNat % 2 ^ 15 < 0x7F80 ∧ b.toNat % 2 ^ 15 < 0x7F80 then (r.1 - 1, 1, r.2)
  else (r.1, 0, r.2)

/-- Lane-wise sum of two words: the sum, saturations, flushes. -/
def redAdd (fmt : Nat) (a b : Row) : Row × Nat × Nat :=
  if fmt = 0 then
    let l := (List.range 16).map fun i => redF32 (lane a i) (lane b i)
    (rowOfWords (l.map Prod.fst), (l.map fun x => x.2.1).sum, (l.map fun x => x.2.2).sum)
  else if fmt = 1 then
    let l := (List.range 32).map fun i => redBf16 (half16 a i) (half16 b i)
    (rowOfHalves (l.map Prod.fst), (l.map fun x => x.2.1).sum, (l.map fun x => x.2.2).sum)
  else (rowOfWords ((List.range 16).map fun i => lane a i + lane b i), 0, 0)

/-- The sum of up to four operands, as (o0 + o1) + (o2 + o3). -/
def redSum (fmt : Nat) : List Row → Row × Nat × Nat
  | [] => (0, 0, 0)
  | [a] => (a, 0, 0)
  | [a, b] => redAdd fmt a b
  | [a, b, c] =>
    let x := redAdd fmt a b
    let y := redAdd fmt x.1 c
    (y.1, x.2.1 + y.2.1, x.2.2 + y.2.2)
  | a :: b :: c :: d :: _ =>
    let x := redAdd fmt a b
    let y := redAdd fmt c d
    let z := redAdd fmt x.1 y.1
    (z.1, x.2.1 + y.2.1 + z.2.1, x.2.2 + y.2.2 + z.2.2)

/-! Barriers and votes. -/

/-- Entries without participants have arrived: they send ARRIVE to their parent (R198). -/
def Tide.autoArrive (t : Tide) (bs : List Nat) (cyc : Nat) : Tide :=
  bs.foldl (fun (u : Tide) b =>
    let e := u.entry b
    if barValid e ∧ !barRoot e ∧ barChildren e = [] ∧ barCores e = [] then u.send (tokArrive b) 0 [barParent e] cyc else u) t

/-- Have all participants of barrier `b` arrived? -/
def Tide.allArrived (t : Tide) (b : Nat) : Bool :=
  let e := t.entry b
  let a := t.arrived.get [] b
  (barCores e).all a.contains && (barChildren e).all fun d => a.contains (16 + d)

/-- The cores of cove `c` that wait at barrier `b` are released (R121, R198). -/
def State.releaseCores (s : State) (c b : Nat) : State :=
  (List.range 16).foldl (fun t k =>
    match coreRef c k with
    | some r => if (t.core r).wait = some (.tbar (BitVec.ofNat 4 b)) then t.retireNext r id else t
    | none => t) s

/-- A switch releases barrier `b`: RELEASE to its children, its own cores go on, the entry is armed again (R198). -/
def State.releaseBarrier (s : State) (c b : Nat) : State :=
  (s.modCove c fun v => v.modTide fun t =>
    { (t.send (tokRelease b) 0 (barChildren (t.entry b)) (s.cycles c)).autoArrive [b] (s.cycles c) with
      arrived := t.arrived.erase b }).releaseCores c b

/-- Has the latest commit point of a step passed (R45)? -/
def Steps.overdue (t : Steps) (r : StepRec) (now : Nat) : Bool := (t.deadline r).any fun d => decide (d < now)

/-- The HBM controllers that hold extents of a bay (R316). -/
def State.bayStacks (s : State) (b : Nat) : List Nat :=
  match (s.bay b).record with
  | some r => (List.range 8).filter fun k => r.extents.any fun e => e.stack == k && e.pages != 0
  | none => []

/-- The commit or rollback message of a step attempt (R44, R199): a CONTROL packet of deadline offset 0 (Table 9.4). -/
def outcomePacket (b attempt : Nat) (tag : BitVec 2) (pass : Bool) : Packet :=
  { blankPacket with
    type := 8, response := true, ordered := true, agent := true, bay := BitVec.ofNat 4 b, step := tag
    attempt := BitVec.ofNat 2 attempt, stepped := true, addr := if pass then 1 else 0 }

/-- The root's cove sends the message to the jetty and to the bay's HBM controllers (R44, R199). DESIGN CHOICE (log entry 199): in the
response class, from the root's LOCAL port. -/
def State.sendOutcome (s : State) (c : Nat) (tag : BitVec 2) (pass : Bool) : State :=
  match s.bayOf c with
  | none => s
  | some b =>
    match (s.bay b).st.live.find? fun r => BitVec.ofNat 2 r.no == tag && !r.drain && r.vote.isNone with
    | none => s
    | some r => (jettyRouters :: (s.bayStacks b).map stackRouters).foldl
        (fun t to_ => t.post c { agent := false, off := 0, to_ := to_, p := outcomePacket b r.attempt tag pass }) s

/-- The message reaches the jetty (R44): the combined vote of the step attempt has arrived; after the latest commit point the step counts
as failed (R45). -/
def State.stepVote (s : State) (p : Packet) : State :=
  let b := p.bay.toNat
  let t := (s.bay b).st
  let f (r : StepRec) : StepRec :=
    onlyIf (BitVec.ofNat 2 r.no == p.step && r.attempt == p.attempt.toNat && !r.drain && r.vote.isNone && !t.overdue r s.clk.elapsed)
      (fun r => { r with vote := some (p.addr == 1) }) r
  s.modBay b fun y => { y with st := { y.st with live := y.st.live.map f } }

end Sys2Proof.Machine
end

