-- ==== Sys2Proof/Machine/ProgramOps.lean ====
section
/-!
DEFINITION. Program images (17 R429, R430): their layout, their load checks (05, 06 R139, 08 R211, 13 R339, 14 R372) and what
loading a shape writes into the bay's coves (R138, R187, R188, R211).
-/

namespace Sys2Proof.Machine

/-- Are all the bytes of a range zero? -/
def zeroBytes (bs : List Byte) (o n : Nat) : Bool := ((bs.drop o).take n).all fun b => b == 0

/-- Slice of a byte list. -/
def slice (bs : List Byte) (o n : Nat) : List Byte := (bs.drop o).take n

/-! Layout (Tables 17.8 and 17.9). -/

/-- A part entry of 64 bytes, with the part's bytes taken from the image. -/
def partAt (bs : List Byte) (e : List Byte) : Part :=
  { kind := fieldLe e 0 1, shape := fieldLe e 1 1, lcove := fieldLe e 2 2, core := fieldLe e 4 1
    body := slice bs (fieldLe e 8 8) (fieldLe e 16 8) }

/-- Is the kind one part per cove? -/
def kindPerCove (k : Nat) : Bool := decide (2 ≤ k ∧ k ≤ 9)

/-- The layout of R430 for one entry. -/
def partOk (bs e : List Byte) (shapes phases : Nat) : Bool :=
  let p := partAt bs e
  let len := fieldLe e 16 8
  zeroBytes e 5 3 && zeroBytes e 56 8 && decide (1 ≤ p.kind ∧ p.kind ≤ 12) && decide (p.shape ≤ shapes)
    && decide (fieldLe e 8 8 + len ≤ bs.length)
    && (len == 0 || digest32 p.body == BitVec.ofNat 256 (fieldLe e 24 32))
    && (if kindPerCove p.kind then decide (p.lcove < 720) else p.lcove == 0xFFFF)
    && (if p.kind = 7 then decide (p.core < 16) else p.core == 0xFF)
    && (len == 0 || match p.kind with
      | 1 => len == 90
      | 2 => len == 1024
      | 3 => len == phases * 768
      | 4 => len == 84
      | 5 => len == 128
      | 6 => len % 4 == 0
      | 7 => len % 4 == 0 && decide (len ≤ 16384)
      | 8 => len % 64 == 0 && decide (len ≤ 1024)
      | 10 => len % 12 == 0
      | 11 => len % 16 == 0
      | 12 => len == 12
      | _ => true)

/-- The program that an image describes: `none` where its layout, a digest or a reserved field is wrong (R429, R430). -/
def parseProgram (bs : List Byte) : Option Program :=
  let n := fieldLe bs 40 2
  let shapes := fieldLe bs 5 1
  let phases := fieldLe bs 4 1
  let entries := (List.range n).map fun i => slice bs (128 + 64 * i) 64
  let parts := entries.map (partAt bs)
  let head := slice bs 0 (128 + 64 * n + 114)
  if 128 + 64 * n + 114 ≤ bs.length ∧ fieldLe bs 0 2 = 1 ∧ fieldLe bs 2 2 < 8 ∧ shapes ≤ 8 ∧ fieldLe bs 6 1 ≤ 16
      ∧ fieldLe bs 7 1 ≤ 64 ∧ fieldLe bs 32 8 ≤ bs.length ∧ zeroBytes bs 42 6 ∧ zeroBytes bs 56 72
      ∧ (entries.all fun e => partOk (bs.take (fieldLe bs 32 8)) e shapes phases)
      ∧ ((List.range (shapes + 1)).all fun k => (parts.filter fun p => p.kind == 1 && p.shape == k).length == 1) then
    some
      { flags := BitVec.ofNat 16 (fieldLe bs 2 2), phases := phases, shapes := shapes, entrySets := fieldLe bs 6 1
        berths := fieldLe bs 7 1, stepCycles := fieldLe bs 8 4, granDecl := fieldLe bs 12 2, powerW := fieldLe bs 14 2
        holdDecl := fieldLe bs 16 4, tokenNs := fieldLe bs 20 4, cacheAddr := fieldLe bs 24 8, progLen := fieldLe bs 32 8
        signer := BitVec.ofNat 64 (fieldLe bs 48 8), measure := digest32 head, parts := parts }
  else none

namespace Program

/-- Body of a part of a shape; empty where absent. -/
def body (p : Program) (shape kind lcove : Nat) : List Byte :=
  match p.parts.find? fun q => q.kind == kind && q.shape == shape && q.lcove == lcove with
  | some q => q.body
  | none => []

/-- Instruction memory of a core (CODE). -/
def code (p : Program) (shape lcove core : Nat) : List Byte :=
  match p.parts.find? fun q => q.kind == 7 && q.shape == shape && q.lcove == lcove && q.core == core with
  | some q => q.body
  | none => []

/-- Logical coves of a shape (SHAPESET). -/
def shapeCoves (p : Program) (shape : Nat) : List Nat :=
  let m := p.body shape 1 0xFFFF
  (List.range 720).filter fun l => (m.getD (l / 8) 0).getLsbD (l % 8)

/-- Entry address of a core in an entry set (ENTRIES). -/
def entryAddr (p : Program) (shape lcove core set : Nat) : Nat := fieldLe (p.body shape 8 lcove) (4 * (16 * set + core)) 4

/-- Has the program a generation interface (FLAGS [2]), and its stop token (GENIF)? -/
def generates (p : Program) : Bool := p.flags.getLsbD 2 || p.cargo
def stopToken (p : Program) : Nat := fieldLe (p.body 0 12 0xFFFF) 8 4

/-- Handle entry `h` of a logical cove. -/
def handle (p : Program) (shape lcove h : Nat) : BitVec 128 := BitVec.ofNat 128 (fieldLe (p.body shape 2 lcove) (16 * h) 16)
def route (p : Program) (shape lcove plane phase dest : Nat) : BitVec 64 :=
  BitVec.ofNat 64 (fieldLe (p.body shape 3 lcove) (((plane * p.phases + phase) * 32 + dest) * 8) 8)
def barrier (p : Program) (shape lcove b : Nat) : Word := BitVec.ofNat 32 (fieldLe (p.body shape 4 lcove) (4 * b) 4)
def groyne (p : Program) (shape lcove g : Nat) : BitVec 64 := BitVec.ofNat 64 (fieldLe (p.body shape 4 lcove) (68 + 8 * g) 8)
def pairEntries (p : Program) (shape lcove : Nat) : List Word :=
  let b := p.body shape 6 lcove
  (List.range (b.length / 4)).map fun i => BitVec.ofNat 32 (fieldLe b (4 * i) 4)

/-- A SCRATCH record: handle, byte offset, data. `n` bounds the number of records by the body's length. -/
def scratchRecords : Nat → List Byte → List (Nat × Nat × List Byte)
  | 0, _ => []
  | n + 1, bs =>
    if bs.length < 12 then []
    else
      let len := fieldLe bs 8 4
      (fieldLe bs 0 1, fieldLe bs 4 4, slice bs 12 len) :: scratchRecords n (bs.drop (12 + len))

def scratch (p : Program) (shape lcove : Nat) : List (Nat × Nat × List Byte) :=
  let b := p.body shape 9 lcove
  scratchRecords b.length b

/-- Resume items of a shape: identifier, logical cove, handle, length (R372). -/
def resume (p : Program) (shape : Nat) : List (Nat × Nat × Nat × Nat) :=
  let b := p.body shape 10 0xFFFF
  (List.range (b.length / 12)).map fun i =>
    (fieldLe b (12 * i) 4, fieldLe b (12 * i + 4) 2, fieldLe b (12 * i + 6) 1, fieldLe b (12 * i + 8) 4)

end Program

/-! Checks of a shape (R139, R211, R339, R372). -/

/-- The first code of a list of conditions, each with its code. -/
def firstFail : List (Bool × Code) → Option Code
  | [] => none
  | (bad, code) :: t => if bad then some code else firstFail t

/-- Format and block size of a typed handle under R59 and R60. -/
def fmtFail (fmt blk : Nat) : Option Code :=
  if 8 < fmt then some 0x4011
  else if blk = 0 then some 0x4010
  else if blk = (if fmt < 2 then 1 else 32) then none else some 0x4012

/-- Faults of a handle table entry in byte-offset order (R139). -/
def handleFail (w : BitVec 128) : Option Code :=
  let e := handleEntry w
  if !e.valid then (if w = 0 then none else some 0x5014)
  else
    let k := (setBits e.mask 16).length
    match firstFail
      ([(!e.typed && (e.fmt != 0 || e.blk != 0), 0x5014)] : List (Bool × Code)) with
    | some c => some c
    | none =>
      match if e.typed then fmtFail e.fmt e.blk else none with
      | some c => some c
      | none =>
        firstFail
          ([(decide (e.siPer < e.siPhase), 0x5014), (bits w 25 7 != 0, 0x5014), (e.mask == 0, 0x5013),
            (decide (e.mask ≠ 0 ∧ e.length ≠ 0 ∧ 2048 < e.base + (e.length + k - 1) / k), 0x5013), (bits w 59 5 != 0, 0x5014),
            (e.length == 0, 0x5010), (bits w 80 48 != 0, 0x5014)] : List (Bool × Code))

/-- Do the rows of two valid entries overlap? -/
def handlesOverlap (a b : HandleEntry) : Bool :=
  (setBits (a.mask &&& b.mask) 16).any fun bank =>
    (List.range 2048).any fun row => a.covers bank row && b.covers bank row

/-- The handle table of a logical cove (R139): fields first, then overlap with a step input. -/
def Program.handlesFail (p : Program) (shape lcove : Nat) : Option Code :=
  let ws := (List.range 64).map (p.handle shape lcove)
  match ws.findSome? handleFail with
  | some c => some c
  | none =>
    let es := (ws.map handleEntry).filter HandleEntry.valid
    let n := es.length
    if (List.range n).any fun i => (List.range i).any fun j =>
        match nth es i, nth es j with
        | some a, some b => (a.siEn || b.siEn) && handlesOverlap a b
        | _, _ => false
    then some 0x5015 else none

/-- Reach of the input selectors (R204): can the physical coves of two logical neighbours be linked? -/
def State.linkReach (s : State) (l d : Nat) : Bool :=
  match s.physOf l, (logNeighbour l d).bind s.physOf with
  | some a, some b =>
    let x := a % 40
    let y := b % 40
    if crossesSeam l d then
      let w := if d = 1 then x else y
      let e := if d = 1 then y else x
      decide (17 ≤ w ∧ w ≤ 19 ∧ 20 ≤ e ∧ e ≤ 22) && !(s.seamPath (l / 36)).disabled
    else if d = 1 ∨ d = 3 then decide (max x y - min x y ≤ 3) && x / 20 == y / 20
    else decide (max x y - min x y ≤ 2)
  | _, _ => false

/-- Does a mesh neighbour in direction `d` of plane `plane` lie outside the bay, off the die or beyond what the selectors reach
(R211)? A row-0 N or row-19 S vector route leads to the cove's own stream port, which the bay that holds the cove is granted (R257). -/
def State.meshLeaves (s : State) (coves : List Nat) (l plane d : Nat) : Bool :=
  match logNeighbour l d with
  | some m => !(coves.contains m && s.linkReach l d)
  | none => !(plane == 1 && (d == 0 || d == 2))

/-- The first fault of a route entry, field by field in byte-offset order (R13, R181, R190, R196, R211): the destination that the
entry's place names, then MODE, SRC, REDUCE, RMASK, RFMT and the window. An off route leads nowhere. -/
def State.routeFail (s : State) (coves : List Nat) (l plane dest : Nat) (w g0 g1 : BitVec 64) : Option Code :=
  let on := routeMode w != 0
  let src := routeSrc w
  let gplane (i : Nat) : Nat := if (if i = 0 then g0 else g1).getLsbD 1 then 1 else 0
  let mask := routeMask w
  if w = 0 then none
  else
    firstFail
      ([(decide (27 ≤ dest) || (dest == 26 && plane != 2)
          || ((dest == 20 || dest == 21) && plane != 2 && plane != gplane (dest - 20)), 0x6013),
        (on && decide (dest < 4) && s.meshLeaves coves l plane dest, 0x6011),
        (routeMode w == 3 || (20 ≤ src && decide (src < 28) && plane != gplane ((src - 20) / 4)), 0x6013),
        (on && decide (src < 4) && s.meshLeaves coves l plane src, 0x6011),
        (routeReduce w && plane != 1, 0x6013),
        (if routeReduce w then mask.contains src || decide (3 < mask.length) else !mask.isEmpty, 0x6013),
        (on && routeReduce w && mask.any (s.meshLeaves coves l plane), 0x6011),
        (if routeReduce w then routeFmt w == 3 else routeFmt w != 0, 0x6013),
        (bits w 14 2 != 0 || bits w 28 4 != 0 || bits w 56 8 != 0
          || (routeMode w != 2 && (bits w 16 12 != 0 || bits w 32 8 != 0 || bits w 40 16 != 0)), 0x6013)] : List (Bool × Code))

/-- Is barrier `b` not one tree with one root in the bay (R211)? -/
def Program.treeFail (p : Program) (shape : Nat) (coves : List Nat) (b : Nat) : Bool :=
  let valid := coves.filter fun l => barValid (p.barrier shape l b)
  !valid.isEmpty && (valid.filter fun l => barRoot (p.barrier shape l b)).length != 1

/-- The first fault of a barrier entry in byte-offset order (R13, R211): the tree's root, PARENT, CHILD, CORES, then the reserved
bits, which are judged on an entry not in use too. A tree that needs an unavailable link does not fit (R372, R392; log entry 198). -/
def State.barrierFail (s : State) (p : Program) (shape : Nat) (coves : List Nat) (l b : Nat) : Option Code :=
  let e := p.barrier shape l b
  firstFail
    ([(barValid e && (p.treeFail shape coves b
        || (!barRoot e && (match logNeighbour l (barParent e) with
          | some m => !(coves.contains m && s.linkReach l (barParent e) && barValid (p.barrier shape m b)
              && barChild (p.barrier shape m b) (facing (barParent e)))
          | none => true))
        || ((barChildren e).any fun d => match logNeighbour l d with
          | some m => !(coves.contains m && s.linkReach l d && barValid (p.barrier shape m b) && !barRoot (p.barrier shape m b)
              && barParent (p.barrier shape m b) == facing d)
          | none => true)
        || (b == 16 && !(barCores e).isEmpty)), 0x6014),
      (bits e 24 8 != 0, 0x6013)] : List (Bool × Code))

/-- The tables of one cove, ROUTES and then BARRIERS, each in the order of its bytes (R13, R211). -/
def State.coveTablesFail (s : State) (p : Program) (shape : Nat) (coves : List Nat) (l : Nat) : Option Code :=
  let g0 := p.groyne shape l 0
  let g1 := p.groyne shape l 1
  match (List.range (3 * p.phases * 32)).findSome? fun i =>
      s.routeFail coves l (i / 32 / p.phases) (i % 32) (p.route shape l (i / 32 / p.phases) (i / 32 % p.phases) (i % 32)) g0 g1 with
  | some c => some c
  | none =>
    match (List.range 17).findSome? (s.barrierFail p shape coves l) with
    | some c => some c
    | none => if [g0, g1].any fun w => bits w 2 14 != 0 || bits w 28 4 != 0 || bits w 56 8 != 0 then some 0x6013 else none

/-- The tide tables of a shape (R188, R211), cove by cove of the bay in ascending order (log entry 158). -/
def State.tideFail (s : State) (p : Program) (shape : Nat) (coves : List Nat) : Option Code :=
  if p.phases = 0 then some 0x6010
  else if 16 < p.phases then some 0x6012
  else coves.findSome? (s.coveTablesFail p shape coves)

/-- Does a shape hold tide tables of a logical cove outside the bay's cove set, where they must be absent (R211)? -/
def Program.strayTables (p : Program) (shape : Nat) (bay : Bay) : Bool :=
  p.parts.any fun q => q.shape == shape && (q.kind == 3 || q.kind == 4) && !q.body.isEmpty && !bay.has q.lcove

/-- The pair tables of a shape (R339). -/
def Program.pairsFail (p : Program) (shape : Nat) (coves : List Nat) : Bool :=
  coves.any fun l =>
    let es := p.pairEntries shape l
    decide (512 < es.length) || es.any fun e =>
      let partner := bits e 16 10
      let min := bits e 26 3
      bits e 29 3 != 0 || bits e 0 15 == 0 || min == 0 || decide (5 < min) || !coves.contains partner
        || segOfLog partner == segOfLog l
        || !((p.pairEntries shape partner).any fun f =>
          bits f 0 15 == bits e 0 15 && bits f 15 1 != bits e 15 1 && bits f 16 10 == l)

/-- The first failing check of a shape (R318, R372): fit to the bay's coves and to what is dark or cut, with the tables of other
coves absent (R211, log entry 158); handles, tide and barrier tables, pairs. -/
def State.shapeFail (s : State) (b : Nat) (p : Program) (shape : Nat) : Option Code :=
  let coves := p.shapeCoves shape
  if coves.isEmpty ∨ (coves.any fun l => !((s.bay b).has l && (s.physOf l).isSome)) ∨ p.strayTables shape (s.bay b) then some 0x9115
  else
    match coves.findSome? (p.handlesFail shape) with
    | some c => some c
    | none =>
      match s.tideFail p shape (s.bay b).coves with
      | some c => some c
      | none => if p.pairsFail shape coves then some 0xB030 else none

/-- The first shape that fits, in order of preference (R372). -/
def State.firstShape (s : State) (b : Nat) (p : Program) : Option Nat :=
  (List.range (p.shapes + 1)).find? fun k => (s.shapeFail b p k).isNone

/-! Loading. -/

/-- The tables of the tide switch as the program gives them (R211, R212). -/
def Tide.tables (t : Tide) (p : Program) (shape l : Nat) : Tide :=
  let routes := (List.range 3).foldl (fun (m : Tab (BitVec 64)) pl =>
    (List.range p.phases).foldl (fun (m : Tab (BitVec 64)) ph =>
      (List.range 32).foldl (fun (m : Tab (BitVec 64)) d =>
        m.set 0 (pl * 512 + ph * 32 + d) (p.route shape l pl ph d)) m) m) {}
  { t with
    routes := routes, tabBad := false
    groynes := (t.groynes.upd {} 0 fun g => { g with cfg := p.groyne shape l 0 }).upd {} 1 fun g => { g with cfg := p.groyne shape l 1 }
    barriers := (List.range 17).foldl (fun (m : Tab Word) b => m.set 0 b (p.barrier shape l b)) {} }

/-- A switch loaded with its tables (R187, R211): phase 0 of every plane is current. -/
def Tide.load (t : Tide) (p : Program) (shape l cyc : Nat) : Tide :=
  { { t with groynes := {} }.tables p shape l with
    ph := {}, phNext := [], entryPh := {}, frozen := false, inputs := {}, bq := {}, gout := {}, lane := []
    phStart := (((({} : Tab Nat).set 0 0 cyc).set 0 1 cyc).set 0 2 cyc)
    arrived := {}, votes := [], casts := [] }

/-- The SCRATCH records of a cove written through its handles (R430). -/
def Scratchpad.loadRecords (sp : Scratchpad) (rs : List (Nat × Nat × List Byte)) : Scratchpad :=
  rs.foldl (fun p r => p.handleWrite (p.handle r.1) r.2.1 r.2.2) sp

/-- The handle table of a cove. -/
def Program.handleTable (p : Program) (shape l : Nat) : Tab (BitVec 128) :=
  (List.range 64).foldl (fun (m : Tab (BitVec 128)) h => m.set 0 h (p.handle shape l h)) {}

/-- The pair table, by PAIR + 32,768 × ROLE. -/
def Program.pairTable (p : Program) (shape l : Nat) : Tab Word :=
  (p.pairEntries shape l).foldl (fun (m : Tab Word) e => m.set 0 (bits e 0 16) e) {}

/-- Is an FP32 value a valid tolerance: zero or positive and normal (R98)? -/
def tolOk (v : Word) : Bool :=
  let ex := (v.toNat >>> 23) % 256
  let fr := v.toNat % 2 ^ 23
  (ex == 0 && fr == 0) || (!v.msb && ex != 255 && ex != 0)

/-- What a valid value stores: −0 is stored as +0 (R98). -/
def tolStored (v : Word) : Word := if v.toNat % 2 ^ 31 = 0 then 0 else v

/-- The tolerance words that the program loads over a table; a value that is not valid is ignored as every write of one is (R98). -/
def Program.tolTable (p : Program) (shape l which : Nat) (old : Tab Word) : Tab Word :=
  (List.range 16).foldl (fun (m : Tab Word) i =>
    let w := BitVec.ofNat 32 (fieldLe (p.body shape 5 l) (8 * i + 4 * which) 4)
    if tolOk w then m.set 0 i (tolStored w) else m) old

/-- The cores of a cove with what the program gives them; a core without code is not used (log entry 30). -/
def Program.loadCores (p : Program) (shape l : Nat) (cores : Tab PCore) : Tab PCore :=
  (List.range 16).foldl (fun (m : Tab PCore) k =>
    let code := p.code shape l k
    m.upd {} k fun q =>
      { q with
        imem := imemOf code, imemBad := [], used := !code.isEmpty, pc := 0, entries := [], wait := none
        state := if q.state = 5 then 5 else 0 }) cores

/-- A cove of the shape gets its tables, instruction memories and, at a load, its SCRATCH records (R211, R318, R430). -/
def Cove.loadShape (v : Cove) (p : Program) (shape l cyc : Nat) (scratch : Bool) : Cove :=
  let sp := { v.sp with handles := p.handleTable shape l }
  { v with
    cores := p.loadCores shape l v.cores
    latches := {}
    sp := if scratch then sp.loadRecords (p.scratch shape l) else sp
    tide := v.tide.load p shape l cyc
    brk := { v.brk with tolRel := p.tolTable shape l 0 v.brk.tolRel, tolAbs := p.tolTable shape l 1 v.brk.tolAbs }
    ig := { v.ig with pairs := p.pairTable shape l, primSigs := [], shadowSigs := [], paired := [] } }

/-- The logical coves that take part in the bay's steps: those of its shape (R373). -/
def Bay.active (y : Bay) : List Nat :=
  match y.program with
  | some p => (p.shapeCoves y.shape).filter y.has
  | none => []

/-- Their physical coves. -/
def State.activeCoves (s : State) (b : Nat) : List Nat := (s.bay b).active.filterMap s.physOf

/-- The bay's coves get the tables of a shape. -/
def State.loadShape (s : State) (b : Nat) (p : Program) (shape : Nat) (scratch : Bool) : State :=
  let on := p.shapeCoves shape
  (s.bay b).coves.foldl (fun t l =>
    match t.physOf l with
    | none => t
    | some c => t.modCove c fun v =>
        if on.contains l then v.loadShape p shape l (t.cycles c) scratch
        else (v.unloadShape s.img.standby).modTide fun u => u.load p shape l (t.cycles c)) s

/-- Rows of RELOAD handles are rewritten from the cached program (R140). -/
def Cove.rewriteRows (v : Cove) (p : Program) (shape l : Nat) (rows : List (Nat × Nat)) : Cove :=
  let rec_ := p.scratch shape l
  let sp := rec_.foldl (fun (sp : Scratchpad) r =>
    let e := sp.handle r.1
    if e.reload then
      (List.range r.2.2.length).foldl (fun (sp : Scratchpad) i =>
        let (bk, rw) := e.place ((r.2.1 + i) / 64)
        if rows.contains (bk, rw) then sp.write bk rw ((r.2.1 + i) % 64) [r.2.2.getD i 0] else sp) sp
    else sp) v.sp
  { v with sp := sp }

/-- Before a replay: the rows that had a parity error are rewritten (R140), the instruction memories that had one are loaded again
(R129), and so are the tables of a switch that had one (R212). -/
def Cove.reloadRows (v : Cove) (p : Program) (shape l : Nat) : Cove :=
  let v1 := v.rewriteRows p shape l v.spx.reload
  let core (k : Nat) (q : PCore) : PCore :=
    if q.imemBad = [] then q else { q with imem := imemOf (p.code shape l k), imemBad := [] }
  { v1 with
    spx := { v1.spx with reload := [] }
    cores := v1.cores.map core
    tide := if v1.tide.tabBad then v1.tide.tables p shape l else v1.tide }

end Sys2Proof.Machine
end

