-- ==== Sys2Proof/Machine/StepOps.lean ====
section
/-!
DEFINITION. What the step commands share (chapter 02): step times, what withholds a step, starting the cores and switches of a
step, votes at a boundary, failing a step, releasing a step's output, the end of a run.
-/

namespace Sys2Proof.Machine

/-! Step time (R30, R322). -/

/-- Halves that hold slots of the bay. -/
def State.bayHalves (s : State) (b : Nat) : List Nat := ((s.physCoves b).map halfOf).eraseDups

/-- The bay's step time t in nanoseconds. -/
def State.stepNs (s : State) (b : Nat) : Nat :=
  s.img.module.quantum * 1000 * 96 / opDivider (s.half ((s.bayHalves b).headD 0)).op

/-- Segments that hold slots of the bay. -/
def Bay.segments (y : Bay) : List Nat := (y.coves.map segOfLog).eraseDups

/-! What withholds steps (Table 18.1). -/

/-- Does the bay use a stack: has it extents in it, or one of its stream ports (R384)? -/
def Bay.usesStack (y : Bay) (k : Nat) : Bool :=
  (y.coves.any fun l => portStack l == some k) || match y.record with
    | some r => r.extents.any fun e => e.stack == k && e.pages != 0
    | none => false

/-- A stack that the bay uses recovers from a loss of lock (R384). -/
def State.stackLost (s : State) (b : Nat) : Bool :=
  (List.range 8).any fun k => (s.bay b).usesStack k && (s.stack k).lossAt.isSome

/-- A handover of a segment of the bay waits or moves, or the bay holds until its epoch swap (R354, R356). -/
def State.moveHeld (s : State) (b : Nat) : Bool :=
  let y := s.bay b
  !y.hold.isEmpty || y.segments.any fun g => (s.rot.moves.find g).isSome

/-- The bay holds for an operating-point change of a half (R390). -/
def State.opHeld (s : State) (b : Nat) : Bool := (s.bayHalves b).any fun h => (s.half h).holding || (s.half h).changing

/-- A core of the bay is halted (R132). -/
def State.coreHalted (s : State) (b : Nat) : Bool :=
  (s.physCoves b).any fun c => (s.cove c).cores.rows.any fun r => r.2.state == 4

/-- Starts of the bay in its last eight step times (R407). -/
def State.recentStarts (s : State) (b : Nat) : Nat :=
  ((s.bay b).st.starts.filter fun t => decide (s.clk.elapsed < t + 8 * s.stepNs b)).length

/-- The stricter of the module's and the bay's duty, in eighths (R407). -/
def State.dutyEighths (s : State) (b : Nat) : Nat := min (s.pwr.duty.toNat + 1) ((s.bay b).pwr.duty.toNat + 1)

def State.dutyHeld (s : State) (b : Nat) : Bool := decide (s.dutyEighths b ≤ s.recentStarts b)

/-- The seam paths of the rows where the bay spans the seam are open, but for disabled ones (R390, R391). -/
def State.seamReady (s : State) (b : Nat) : Bool :=
  (List.range 20).all fun y =>
    !((s.bay b).has (36 * y + 17) && (s.bay b).has (36 * y + 18)) || (s.seamPath y).disabled || (s.seamPath y).state == .open_

/-- An alignment pulse of the seam strip: every 25 REFCLK cycles, 160 ns (R391). -/
def alignPulse (now : Nat) : Bool := now % 160 == 0

/-- The first alignment pulse at or after a time. -/
def pulseFrom (now : Nat) : Nat := (now + 159) / 160 * 160

/-- May a step of the bay start, the jetty's choice among bays apart (R33, R36, R41)? A drain step and a replay (`drain`) may while the
bay drains for an operating point or a shape (R36, R55). A bay that spans the seam starts on an alignment pulse (R391). -/
def State.canStep (s : State) (b : Nat) (drain : Bool) : Bool :=
  let y := s.bay b
  y.program.isSome && !y.active.isEmpty && y.stopped.isNone && y.load.isNone && y.unloads.isEmpty
    && !y.hang.resetting && !y.hang.recovering && !s.parked && !s.stackLost b && !s.coreHalted b && !s.moveHeld b
    && (s.bayHalves b).all s.clocked && s.seamReady b && (!y.spans || alignPulse s.clk.now)
    && (drain || (!s.opHeld b && y.wantShape.isNone)) && !s.dutyHeld b
    && (s.activeCoves b).all fun c => ((s.clk.sleep.get (.run, 0) c).1 == .run)

/-- Deadline of the bay's running work, or of the work that would run next; none without a deadline. -/
def Bay.workDeadline (y : Bay) : Option Nat :=
  let l := if y.run.isSome then y.run.toList else if y.berths.rows.isEmpty then y.queue.take 1 else y.berths.rows.map Prod.snd
  ((l.map Work.deadline).filter fun d => d != 0).min?

/-- Does the bay's work come before another's: an earlier deadline, or one at all (R323)? -/
def Bay.before (y z : Bay) : Bool :=
  match y.workDeadline, z.workDeadline with
  | some a, some b => decide (a < b)
  | some _, none => true
  | none, _ => false

/-- Has the bay had its minimum share, MIN_SHARE / 256 of the starts that the duty leaves it in 256 step quanta (R323, R407)? -/
def State.hadShare (s : State) (b : Nat) : Bool :=
  match (s.bay b).record with
  | none => true
  | some r =>
    decide (r.minShare * s.dutyEighths b ≤
      8 * ((s.bay b).st.starts.filter fun t => decide (s.clk.elapsed < t + 256000 * s.img.module.quantum)).length)

/-- The jetty withholds the bay's next start for another bay: the module cap binds, the bay has had its minimum share, and a bay whose
work has the earlier deadline can start (R323; log entry 161). -/
def State.shareHeld (s : State) (b : Nat) : Bool :=
  s.pwr.duty != 7 && s.hadShare b && (List.range 16).any fun c =>
    c != b && (s.bay c).before (s.bay b) && (s.bay c).st.running.isNone && s.canStep c false

/-- PAUSE_CAUSE, 0 when nothing withholds the bay's steps (R446). -/
def State.pauseCause (s : State) (b : Nat) : Nat :=
  let y := s.bay b
  if y.hang.resetting ∨ y.hang.recovering then 1
  else if s.parked ∨ s.stackLost b then 2
  else if s.coreHalted b then 3
  else if s.opHeld b ∨ s.moveHeld b then 4
  else if y.wantShape.isSome then 5
  else if s.dutyHeld b then 6
  else if s.shareHeld b then 7
  else 0

/-- May a step of the bay start (R33, R36, R41, R323)? -/
def State.mayStep (s : State) (b : Nat) (drain : Bool) : Bool := s.canStep b drain && (drain || !s.shareHeld b)

/-! Starting a step. -/

/-- A core goes on after its STEPEND into step `n`, whose entry address is latched (R122). -/
def PCore.resume (k : PCore) (n cyc : Nat) : PCore :=
  if k.used ∧ k.state = 2 then
    { k.finish cyc (k.pc + 4) with entries := k.entries ++ [(n, k.pc + 4)] }
  else k

/-- A core starts at an entry address (R122, R49). -/
def PCore.begin_ (k : PCore) (n addr : Nat) : PCore :=
  if k.used then
    PCore.settle { k with pc := addr / 4 * 4, wait := none, entries := k.entries.filter (fun e => decide (e.1 < n)) ++ [(n, addr / 4 * 4)] }
  else k

/-- The switch at a step start (R187, R194, R195, R198). -/
def Tide.stepStart (t : Tide) (n cyc : Nat) : Tide :=
  let t0 := t.advance cyc
  let ph (p : Nat) : Nat := t0.ph.get 0 p
  { (({ t0 with arrived := {}, lane := t0.lane.filter fun x => decide (16 ≤ x.tok.toNat) }).autoArrive (List.range 16) cyc) with
    stepCyc := cyc
    groynes := t0.groynes.map fun _ g => { g with seq := false }
    phStart := (((({} : Tab Nat).set 0 0 cyc).set 0 1 cyc).set 0 2 cyc)
    entryPh := (((t0.entryPh.set 0 ((n % 4) * 3) (ph 0)).set 0 ((n % 4) * 3 + 1) (ph 1)).set 0 ((n % 4) * 3 + 2) (ph 2)) }

/-- What a step attempt's start does to a cove of the shape (R75, R187). -/
def Cove.stepStart (v : Cove) (n cyc : Nat) (f : Nat → PCore → PCore) : Cove :=
  { v with
    cores := v.cores.map f
    brk := { v.brk with tileSeq := v.brk.tileSeq.erase (n % 4) }
    tide := v.tide.stepStart n cyc }

/-- Cores whose next instruction would lie at 0x4000 take 0x4102 at its fetch, halted ones too: with a halt the exception wins (R108,
R132). -/
def State.fetchFaults (s : State) (cs : List Nat) : State :=
  cs.foldl (fun t c => (List.range 16).foldl (fun t k =>
    match coreRef c k with
    | some r => if ((t.core r).state = 1 ∨ (t.core r).state = 4) ∧ (t.core r).pc = 0x4000 then t.exception r 0x4102 else t
    | none => t) t) s

/-- An attempt of step `n` starts on the coves of the bay, used by the shape or by its routes and trees alone (R187, R211); the flags of every cove of the bay are cleared (R244). -/
def State.startOn (s : State) (b n : Nat) (f : Nat → Nat → PCore → PCore) : State :=
  let cs := s.physCoves b
  let s1 := s.modCoves (s.physCoves b) fun _ v => v.modNet fun w => { w with flags := {} }
  (s1.modCoves cs fun c v => v.stepStart n (s.cycles c) (f c)).fetchFaults cs

/-- Entry address of a core of physical cove `c` in entry set `set` of the bay's program. -/
def State.entryOf (s : State) (b c k set : Nat) : Nat :=
  match (s.bay b).program, s.logOf c with
  | some p, some l => p.entryAddr (s.bay b).shape l k set
  | _, _ => 0

/-! The queue (Table 2.1 order 6; R319, R320). -/

/-- Berths the bay runs at once (R320). -/
def Bay.berthLimit (y : Bay) : Nat :=
  let q := match y.record with
    | some r => r.berthQuota
    | none => 0
  match y.program with
  | some p => if p.berths = 0 then q else min q p.berths
  | none => q

/-- Sequences at the head of the queue, up to the first run. -/
def headSequences : List Work → List Work
  | [] => []
  | w :: t => if w.kind = .generate then w :: headSequences t else []

/-- Sequences take free berths (R320). -/
def seatBerths (limit n now : Nat) : List Nat → List Work → Tab Work → Tab Work × List Work
  | [], q, t => (t, q)
  | i :: is, q, t =>
    if limit ≤ i ∨ (t.find i).isSome then seatBerths limit n now is q t
    else
      match q with
      | [] => (t, [])
      | w :: rest => seatBerths limit n now is rest (t.put i { w with firstStep := n, start := now })

/-- Has the bay work whose next step can start: a run that has not begun its last step, or sequences? -/
def Bay.working (y : Bay) : Bool :=
  (match y.run with
    | some w => w.lastStep.isNone
    | none => false) || !y.berths.rows.isEmpty

/-- Uncommitted steps, drain steps apart (R35). -/
def Steps.uncommitted (t : Steps) : Nat := (t.live.filter fun r => !r.drain).length

/-- A drain step is due: the newest step waits for its shadow tiles and no work goes on, or the bay drains (R36, R55). -/
def Bay.drainDue (y : Bay) (drains : Bool) : Bool :=
  (!y.working || drains) && match y.st.live.getLast? with
    | some r => r.two && !r.drain && r.endedAt.isSome
    | none => false

/-! The end of work. -/

/-- The bay's run is over: its channels close (R169). -/
def State.leaveRun (s : State) (b : Nat) : State := (s.closeRun b).modBay b fun y => { y with run := none }

/-- A sequence leaves its berth; with the last one the bay's channels close (R169, R320). -/
def State.leaveBerth (s : State) (b i : Nat) : State :=
  let s1 := s.modBay b fun y => { y with berths := y.berths.erase i }
  if (s1.bay b).berths.rows.isEmpty then s1.closeRun b else s1

/-- Orders 3 to 5 of Table 2.1: bay cap and duty, holds for handovers and operating points, shadow level and commit mode. DEDUCED (log
entry 171): a change to single-step commit follows R54's second bullet, not its first sentence: run-ahead goes on. -/
def Bay.applyBoundary (y : Bay) (pend : List Nat) (drains : Bool) : Bay :=
  let level := y.levelNext.getD y.level
  let two := level != 0 || !y.watch.isEmpty
  { y with
    pwr := { y.pwr with capW := y.pwr.capNext.getD y.pwr.capW, capNext := none
                        duty := y.pwr.dutyNext.getD y.pwr.duty, dutyNext := none }
    hold := (y.hold ++ pend).eraseDups
    level := level, levelNext := none, watchMask := y.watch
    st := { y.st with wantTwo := two, draining := drains || (two && !y.st.twoStep) } }

/-- Work marked as cancelled ends at a boundary (R319): uncommitted steps roll back, committed state stays. -/
def State.cancelWork (s : State) (b : Nat) : State :=
  let s1 := match (s.bay b).run with
    | some w =>
      if w.cancelled then
        (((s.discardAll b).endWork b none w 0x9122 true).leaveRun b).modBay b fun y => { y with st := { y.st with replay := none } }
      else s
    | none => s
  ((s1.bay b).berths.rows.filter fun r => r.2.cancelled).foldl
    (fun t r => (t.endWork b (some r.1) r.2 0x9122 true).leaveBerth b r.1) s1

/-- A pending PROGRAM_UNLOAD takes effect at a boundary. -/
def State.unloadNow (s : State) (b : Nat) : State := if (s.bay b).unloads.isEmpty then s else (s.discardAll b).takeProgram b

/-- What is due at a bay's next boundary is due at once while no step of the bay runs: it stands at a boundary. -/
def State.atBoundary (s : State) (b : Nat) : State :=
  if (s.bay b).st.running.isSome then s else ((s.cancelWork b).unloadNow b)

/-! Output (R42, R47, R310, R332). -/

/-- OUTPUT body of Table 12.9. -/
def outputBody (cmd : BitVec 32) (step off : Nat) (data : List Byte) : List Byte :=
  leBytes 4 cmd.toNat ++ leBytes 6 step ++ leBytes 2 data.length ++ leBytes 4 off ++ data

/-- Output bytes leave in datagrams of at most 4,048 bytes; one that holds a byte that fails parity, at an offset of `bad`, is withheld
and its SEQ consumed (R332). `fuel` is at least the number of datagrams; `at_` is the offset of the data in the output area, `off` the
one that the datagram names. -/
def State.sendOutput (s : State) (b : Nat) (w : Work) (step : Nat) : Nat → Nat → Nat → List Byte → List Nat → State
  | 0, _, _, _, _ => s
  | fuel + 1, at_, off, data, bad =>
    if data.isEmpty then s
    else
      let k := w.sess % 256
      let s1 :=
        if !s.sessLive w.sess then s
        else if bad.any fun x => decide (at_ ≤ x ∧ x < at_ + min 4048 data.length) then
          (s.modSess k fun x => { x with seq := nextSeq x.seq, lastSeq := nextSeq x.seq }).logBay 0xB015 b
        else s.sendSess k 5 (outputBody w.cmdId step off (data.take 4048))
      s1.sendOutput b w step fuel (at_ + 4048) (off + 4048) (data.drop 4048) bad

/-- Parts in offset order. -/
def insertPart (p : OutPart) : List OutPart → List OutPart
  | [] => [p]
  | q :: t => if p.off < q.off then p :: q :: t else q :: insertPart p t
def sortParts (l : List OutPart) : List OutPart := l.foldr insertPart []

/-- The token that a step wrote for berth `i`: the word at offset 4i of its output area (log entry 31), with the bytes that fail. -/
def tokenAt (parts : List OutPart) (i : Nat) : Option (List Byte × List Nat) :=
  match parts.reverse.find? fun p => decide (p.off ≤ 4 * i ∧ 4 * i + 4 ≤ p.off + p.data.length) with
  | some p => some (slice p.data (4 * i - p.off) 4, p.bad.filter fun x => decide (4 * i ≤ x ∧ x < 4 * i + 4))
  | none => none

/-- The part of a committed step's output that is of a piece of work leaves: a run's whole area, a sequence's token (R310, R320). -/
def State.sendWork (s : State) (b : Nat) (r : StepRec) (berth : Option Nat) (w : Work) : State × Work :=
  if r.no < w.firstStep then (s, w)
  else
    match berth with
    | none =>
      (r.held |> sortParts |>.foldl (fun t p => t.sendOutput b w r.no (p.data.length + 1) p.off p.off p.data p.bad) s,
        { w with outBad := w.outBad || r.held.any fun p => !p.bad.isEmpty })
    | some i =>
      match tokenAt r.held i with
      | none => (s, w)
      | some (tok, bad) =>
        (s.sendOutput b w r.no 2 (4 * i) w.tokens tok bad,
          { w with tokens := w.tokens + 1, outBad := w.outBad || !bad.isEmpty, firstTok := some (w.firstTok.getD s.mt.ns) })

/-- Work that ended early sends what its committed steps held, and completes after the last of them (R309, R310). -/
def State.sendEnding (s : State) (b : Nat) (r : StepRec) (e : Ending) : State :=
  let x := s.sendWork b r e.berth e.work
  if e.upTo ≤ r.no then x.1.completeWork x.2 e.code e.cancelled
  else x.1.modBay b fun y => { y with ending := y.ending ++ [{ e with work := x.2 }] }

/-- The output of a committed step is released; work whose last step it is completes (R309, R310, R320). -/
def State.releaseStep (s : State) (b : Nat) (r : StepRec) : State :=
  let s1 := (s.bay b).ending.foldl (fun t e => t.sendEnding b r e) (s.modBay b fun y => { y with ending := [] })
  match (s1.bay b).run with
  | some w =>
    let x := s1.sendWork b r none w
    let s2 := x.1.modBay b fun y => { y with run := some x.2 }
    match w.lastStep with
    | some (n, code) => if n = r.no then (s2.completeWork x.2 code false).leaveRun b else s2
    | none => s2
  | none =>
    let stop := match (s1.bay b).program with
      | some p => p.stopToken
      | none => 0
    (s1.bay b).berths.rows.foldl (fun t e =>
      let x := t.sendWork b r (some e.1) e.2
      let ends := match tokenAt r.held e.1 with
        | some (tok, _) => decide (e.2.firstStep ≤ r.no) && (decide (e.2.maxNew ≤ x.2.tokens) || leNat tok == stop)
        | none => false
      if ends then (x.1.completeWork x.2 0 false).leaveBerth b e.1
      else x.1.modBay b fun y => { y with berths := y.berths.put e.1 x.2 }) s1

/-! Votes at a boundary (R44, R338). -/

/-- Does the cove's array still work on a tile of a step attempt (R92)? -/
def Cove.worksOn (v : Cove) (n att : Nat) : Bool :=
  v.brk.running.any fun r => !r.op.noop && bits r.op.desc 0 4 == 1 && r.op.step == n && r.op.attempt == att

/-- Has the cove cast its fail vote for a step attempt? -/
def Cove.hasFailed (v : Cove) (n att : Nat) : Bool := v.ig.failed.any fun f => f.1 == n && f.2.1 == att

/-- The vote of the cove for step `r` is cast: pass, unless it has failed already; it waits for tile results that are outstanding
(R44, R92, R95). -/
def Cove.castPass (v : Cove) (r : StepRec) : Cove :=
  if v.hasFailed r.no r.attempt then v
  else if v.worksOn r.no r.attempt then { v with ig := { v.ig with owed := v.ig.owed ++ [(r.no, r.attempt)] } }
  else v.modTide fun t => { t with casts := t.casts ++ [(true, BitVec.ofNat 2 r.no)] }

/-- Votes that waited for tile results which are all in are cast (R92). -/
def Cove.castOwed (v : Cove) : Cove :=
  let ready := v.ig.owed.filter fun o => !v.worksOn o.1 o.2
  { v with
    ig := { v.ig with owed := v.ig.owed.filter fun o => v.worksOn o.1 o.2 }
    tide := { v.tide with casts := v.tide.casts ++ (ready.filter fun o => !v.hasFailed o.1 o.2).map fun o => (true, BitVec.ofNat 2 o.1) } }

def State.castOwed (s : State) (c : Nat) : State := s.modCove c Cove.castOwed

/-- The operation of a pair that the cove has accepted for a step attempt. -/
def Integ.pairOp (g : Integ) (key n att : Nat) : Option PairOp := g.paired.find? fun k => k.key == key && k.step == n && k.attempt == att

/-- Has the cove accepted the operation of a pair for a step attempt? -/
def Integ.ran (g : Integ) (key n att : Nat) : Bool := (g.pairOp key n att).isSome

/-- Pairs of step `r` with their shadow side on cove `c` that ran and are not compared yet: the primary or the shadow was accepted, or a
signature of one is held (R338). -/
def State.pairsMissing (s : State) (c : Nat) (r : StepRec) : Nat :=
  let g := (s.cove c).ig
  let mine (q : PairSig) (p : Nat) : Bool := q.pair == p && q.step == r.no && q.attempt == r.attempt
  (g.pairs.rows.filter fun e =>
    let p := e.1 - 2 ^ 15
    decide (2 ^ 15 ≤ e.1) && !(g.primSigs.any fun q => mine q p && q.compared)
      && (g.primSigs.any (fun q => mine q p) || g.shadowSigs.any (fun q => mine q p) || g.ran e.1 r.no r.attempt
        || (s.cove ((s.physOf (bits e.2 16 10)).getD c)).ig.ran p r.no r.attempt)).length

/-- Pairs of step `r` without their comparison at B(n + 1) fail the vote of the shadow's cove (R338). -/
def State.missingPairs (s : State) (c : Nat) (r : StepRec) : State :=
  let k := s.pairsMissing c r
  if k = 0 then s
  else (s.modCove c fun v => v.modIg fun g => { g with ctr := bump g.ctr 3 k }).castFail c r.no r.attempt 0xB012 false

/-- What a switch or its core latches hold at a boundary, with the plane and port of each (R200): a word in a mesh register, in a core
latch, in a balance queue, an item in a groyne, a barrier round that has started and is not released (plane 3). -/
def Cove.tideHeld (v : Cove) : List (Nat × Nat) :=
  ((v.tide.inputs.rows.filter fun r => !r.2.isEmpty).map fun r => (r.1 / 4, r.1 % 4))
    ++ ((v.latches.rows.filter fun r => !r.2.send.isEmpty || !r.2.recv.isEmpty).map fun r => (r.1 % 3, 4 + r.1 / 3))
    ++ ((v.tide.bq.rows.filter fun r => !r.2.isEmpty).map fun r => (r.1 / 4, 28 + r.1 % 4))
    ++ ((v.tide.groynes.rows.filter fun r => !r.2.data.isEmpty || !r.2.toks.isEmpty || !r.2.pairs.isEmpty).map fun r =>
      (if r.2.cfg.getLsbD 1 then 1 else 0, 20 + r.1))
    ++ ((v.tide.arrived.rows.filter fun r => !r.2.isEmpty).map fun r => (3, r.1))

/-! A step that fails (R48, R49, R203, R344). -/

/-- Spares of a segment that can take a slot (R344, R353). -/
def State.sparesOf (s : State) (g : Nat) : Nat :=
  ((List.range 20).filter fun x =>
    !(s.holdMask g).getLsbD x && (s.cove ((g / 2) * 40 + (g % 2) * 20 + x)).ig.state == .normal).length

/-- Has every culprit's segment a spare for each of its culprits? -/
def State.sparesFor (s : State) (cs : List Nat) : Bool :=
  (cs.map segOfPhys).eraseDups.all fun g =>
    decide ((cs.filter fun c => segOfPhys c == g).length ≤ s.sparesOf g)

/-- Replay handovers are asked for (R344, R203). -/
def State.askReplays (s : State) (cs : List Nat) : State :=
  cs.foldl (fun t c => t.askMove { src := c, dst := t.receiver c [], kind := .replay }) s

/-- The culprits of a failed step: the coves of its cove errors, and of each shadow mismatch the cove of the higher score, the primary on a
tie (R344). -/
def State.culpritsOf (s : State) (r : StepRec) : List Nat :=
  (r.culprits ++ r.mismatches.map fun m => if s.score m.1 < s.score m.2 then m.2 else m.1).eraseDups

/-- Step `n` of the bay has failed: it and every later one are rolled back, and the policy of R49 decides (R48, R203, R344). -/
def State.failStep (s : State) (b n : Nat) : State :=
  match (s.bay b).st.live.find? fun r => r.no == n with
  | none => s
  | some r =>
    let culprits := s.culpritsOf r
    let again (moves : List Nat) (t : State) : State := t.modBay b fun y =>
      { y with
        st := { y.st with
          replay := some { no := n, attempt := r.attempt + 1, code := r.code, moves := moves, culprits := culprits
                           viol := r.viol }
          lastViol := r.viol } }
    let s1 := ((s.countDiscarded b n).discard b n).modBay b fun y =>
      { y with
        run := y.run.map fun w => { w with rollbacks := w.rollbacks + 1 }
        berths := y.berths.map fun _ w => { w with rollbacks := w.rollbacks + 1 } }
    let s2 := s1.modBay b fun y =>
      { y with
        st := { y.st with
          rollbacks := satAdd32 y.st.rollbacks 1
          lbCode := r.code, lbReplay := BitVec.ofNat 2 r.attempt, lbStopped := false } }
    let stop (code : Code) : State :=
      (s1.stopBay b code).modBay b fun y =>
        { y with st := { y.st with rollbacks := satAdd32 (s.bay b).st.rollbacks 1, lbReplay := BitVec.ofNat 2 r.attempt } }
    if r.attempt = 0 then again [] s2
    else if r.attempt = 1 then
      if !culprits.isEmpty then
        if s2.sparesFor culprits then again (culprits.map segOfPhys) (s2.askReplays culprits) else stop 0xB020
      else
        match r.viol with
        | some (_, l, _) =>
          match s2.physOf l with
          | some c => if s2.sparesFor [c] then again [segOfPhys c] (s2.askReplays [c]) else stop 0xB020
          | none => stop 0xB020
        | none => stop 0xB021
    else if r.viol.isSome ∧ r.viol = (s.bay b).st.lastViol then stop 0x6040
    else stop 0xB021

end Sys2Proof.Machine
end

