-- ==== Sys2Proof/Machine/JettyCheck.lean ====
section
/-!
DEFINITION. The jetty's checks of a command (12_tideline_commands.md R304, R305, Tables 12.3 and 12.4) and the frame of every
Tideline command: it leaves its port's queue, is checked, and acts or is rejected.
-/

namespace Sys2Proof.Machine

/-- Parameter bytes that an opcode uses: offset, count, bits used of each byte (Table 12.4). -/
def paramBytes (op : Nat) : List (Nat × Nat × Byte) :=
  match op with
  | 0x02 => [(16, 1, 0x0F), (17, 1, 0xFF), (18, 2, 0xFF), (20, 1, 0x01), (22, 2, 0xFF)]
  | 0x04 => [(16, 1, 0xFF), (17, 1, 0x03), (24, 16, 0xFF)]
  | 0x05 => [(16, 4, 0xFF)]
  | 0x06 => [(16, 1, 0xFF), (24, 16, 0xFF)]
  | 0x08 => [(24, 16, 0xFF), (40, 1, 0x01), (48, 8, 0xFF)]
  | 0x0A => [(16, 4, 0xFF), (20, 1, 0xFF), (24, 16, 0xFF)]
  | 0x0B => [(16, 2, 0xFF), (18, 1, 0x01), (20, 4, 0xFF), (24, 8, 0xFF), (32, 6, 0xFF), (40, 8, 0xFF)]
  | 0x0C => [(16, 6, 0xFF)]
  | 0x0D => [(16, 6, 0xFF), (24, 6, 0xFF)]
  | 0x10 => [(16, 1, 0xFF), (24, 8, 0xFF)]
  | 0x11 => [(24, 9, 0xFF)]
  | 0x12 => [(24, 12, 0xFF)]
  | 0x13 => [(16, 8, 0xFF)]
  | 0x18 => [(16, 1, 0xFF), (18, 2, 0xFF)]
  | 0x1A => [(16, 1, 0xFF), (20, 4, 0xFF)]
  | _ => []

/-- Bits of descriptor byte `i` that an opcode uses. -/
def usedBits (op i : Nat) : Byte :=
  if i < 16 then 0xFF
  else match (paramBytes op).find? fun p => decide (p.1 ≤ i ∧ i < p.1 + p.2.1) with
    | some p => p.2.2
    | none => 0

/-- Opcodes without a session (R305). -/
def sessionless (op : Nat) : Bool := decide (op ≤ 2)

/-- Check 2: the extension units fit the payload and the opcode. -/
def extFails (c : JCmd) (op : Nat) : Bool :=
  decide (62 < jExt c) || c.ext.length != 64 * jExt c || (op == 0x02 && jExt c != 2) || (op != 0x02 && op != 0x0B && jExt c != 0)

/-- Check 3: reserved bytes and bits, SESSION of a session-less command, parameters beyond their range (log entry 38 for ENTRY). -/
def reservedFails (c : JCmd) (op : Nat) : Bool :=
  ((List.range 64).any fun i => (c.desc.getD i 0) &&& ~~~ usedBits op i != 0)
    || (sessionless op && jSess c != 0)
    || (op == 0x02 && !((c.ext.drop 114).take 14).all fun b => b == 0)
    || match op with
      | 0x04 | 0x18 | 0x1A => decide (1 < jField c 16 1)
      | 0x10 => decide (3 < jField c 16 1)
      | 0x11 => decide (64 < jField c 32 1)
      | 0x0A => decide (15 < jField c 20 1)
      | _ => false

/-- Roles that may send an opcode (Table 12.3): a module cap is the owner's. -/
def roleMay (c : JCmd) (op : Nat) (r : Role) : Bool :=
  match op with
  | 0x1A | 0x1B => r == .owner
  | 0x08 | 0x09 | 0x0D | 0x19 => r == .owner || r == .bay
  | 0x18 => r == .owner || (r == .bay && jField c 16 1 != 1)
  | _ => true

/-- Management space of R480: first address and the one after its last. -/
def mgmtLo : Nat := 0xF00000000000
def mgmtHi : Nat := 0xF00010000000

/-- Check 8: parameters whose code Table 12.4 names and that need no other state, in byte-offset order. -/
def paramFails (c : JCmd) (op : Nat) : Option Code :=
  match op with
  | 0x06 => if 1 < jField c 16 1 then some 0xC022 else none
  | 0x0B => if jField c 18 1 = 0 ∧ 16 * jExt c < jField c 16 2 then some 0x9103 else none
  | 0x11 | 0x12 =>
    let a := jField c 24 8
    let n := if op = 0x12 then 1 else max 1 (jField c 32 1)
    if a % 4 ≠ 0 ∨ a < mgmtLo ∨ mgmtHi < a + 4 * n then some 0x9127 else none
  | 0x18 => if jField c 18 2 = 0 then some 0x3010 else none
  | _ => none

/-- The first check of R305 that fails. -/
def State.checkCmd (s : State) (c : JCmd) (op : Nat) : Option Code :=
  let x := s.sess (jSess c % 256)
  if extFails c op then some 0x9103
  else if reservedFails c op then some 0x9102
  else if sessionless op then paramFails c op
  else if x.state ≠ .open_ ∨ x.gen.toNat ≠ jSess c / 256 then some 0x9104
  else if x.qp ≠ c.qp.val then some 0x9105
  else if !roleMay c op x.role then some 0x9106
  else if x.outstanding.any fun o => o.1 == jId c then some 0x910C
  else paramFails c op

def State.reject (s : State) (c : JCmd) (code : Code) : State := s.answerCmd c stRejected code 0 []
def State.refuse (s : State) (c : JCmd) (code : Code) : State := s.answerCmd c stQuota code 0 []
def State.accept (s : State) (c : JCmd) : State := s.answerCmd c stAccepted 0 0 []

/-- Accepted with a completion to follow: its CMD_ID is outstanding until then. -/
def State.outstand (s : State) (c : JCmd) : State :=
  s.modSess (jSess c % 256) fun x => { x with outstanding := x.outstanding ++ [(jId c, BitVec.ofNat 8 (jOp c))] }
def State.acceptLong (s : State) (c : JCmd) : State := (s.accept c).outstand c

/-- The completion of a command of the session that it came in. -/
def State.finishCmd (s : State) (c : JCmd) (code : Code) (result : List Byte) : State :=
  s.complete (jSess c) { cmdId := jId c, opcode := jOp c, code := code, start := s.mt.ns, deadline := jDeadline c, result := result }

/-- Accepted and complete at once. -/
def State.doneAtOnce (s : State) (c : JCmd) (code : Code) (result : List Byte) : State :=
  (s.acceptLong c).finishCmd c code result

/-- Bay of the command's session. -/
def jBay (c : JCmd) : Nat := jSess c % 256 / 16

/-- May the jetty parse a command: the latest was parsed at least 10 ns ago (R296)? -/
def State.jettyFree (s : State) : Bool := s.jetty.parsedAt.all fun t => decide (t + 10 ≤ s.clk.elapsed)

/-- The oldest command leaves a port's queue to be parsed. -/
def State.takeCmd (s : State) (p : Nat) : State :=
  let s1 := s.modPortQ p fun q => { q with cmds := q.cmds.drop 1 }
  { s1 with jetty := { s1.jetty with parsedAt := some s.clk.elapsed } }

/-- Is the command the next one that the jetty parses from its port's queue, now (R296, R304)? -/
def State.parses (s : State) (c : JCmd) : Bool := (s.portQ (s.qp c.qp).port).cmds.head? == some c && s.jettyFree

/-- A command of opcode `op` (with `sel` true of its selector) is parsed: it leaves its port's queue, is checked, and acts. A
command with another opcode is another row's. -/
def State.parse (s : State) (c : JCmd) (op : Nat) (sel : Bool) (f : State → State) : Out :=
  let s1 := s.takeCmd (s.qp c.qp).port
  occurs s (s.parses c && jOp c == op && sel)
    (match s1.checkCmd c op with
     | some code => s1.reject c code
     | none => f s1)

/-- NOP (R305). -/
def execNop (c : JCmd) (s : State) : Out := s.parse c 0x00 true fun s => s.accept c

/-- CHALLENGE (R313): a new nonce for the connection, which replaces an earlier one; its value is free. -/
def execChallenge (c : JCmd) (s : State) : Out :=
  s.parse c 0x01 true fun s =>
    let n : BitVec 128 := (Config.freeRow s.free).setWidth 128
    ((s.spend 1).modQp c.qp fun q => { q with nonce := some (n, s.mt.ns) }).answerCmd c stAccepted 0 0 (leBytes 16 n.toNat)

end Sys2Proof.Machine
end

