-- ==== Sys2Proof/Machine/Sessions.lean ====
section
/-!
DEFINITION. Sessions (12_tideline_commands.md R307, R313 to R316; 17 R436): opening, verification, resuming, orphans, closing, RDMA
regions.
-/

namespace Sys2Proof.Machine

/-! Keys (Table 12.4, R424). -/

/-- Key number `i` of the image, if it is present. -/
def State.keyBytes (s : State) (i : Nat) : Option (List Byte) :=
  match nth s.img.keys i with
  | some k => if k.all fun b => b == 0 then none else some k
  | none => none

/-- The key that KEY_INDEX names for a bay: 0 the module owner's, 1 the bay owner's, 2 to 17 the user keys. -/
def State.openKey (s : State) (b idx : Nat) : Option (List Byte) :=
  match (s.bay b).record with
  | none => none
  | some r =>
    if idx = 0 then s.keyBytes s.img.module.ownerKey
    else if idx = 1 then s.keyBytes r.ownerKey
    else if idx < 18 then (nth r.userKeys (idx - 2)).bind s.keyBytes
    else none

/-- The role that an opening key gives (Table 12.2). -/
def keyRole (idx : Nat) : Role := if idx = 0 then .owner else if idx = 1 then .bay else .user

/-! Open (R313). -/

/-- Code that verification of an open will end with: the nonce first, then the signature. -/
def State.openCode (s : State) (c : JCmd) (key : List Byte) : Code :=
  match (s.qp c.qp).nonce with
  | none => 0x9109
  | some (n, at_) =>
    if at_ + 1000000000 < s.mt.ns then 0x9109
    else if Config.ed448Verify key (asciiBytes "E812-SESSION") (leBytes 16 n.toNat ++ c.desc) (c.ext.take 114) then 0
    else 0x9107

/-- Free slots of a bay. -/
def State.freeSlots (s : State) (b : Nat) : List Nat := (List.range 16).filter fun i => (s.sess (b * 16 + i)).state == .free

/-- The generation after `g` (R314). -/
def nextGen (g : BitVec 8) : BitVec 8 := if g = 255 then 1 else g + 1

/-- SESSION_OPEN (R313, R314). Which free slot it takes is free; a rejected open leaves the nonce (log entry 39). -/
def execSessionOpen (c : JCmd) (s : State) : Out :=
  s.parse c 0x02 true fun s =>
    let b := jField c 16 1
    let idx := jField c 17 1
    let resume := jField c 20 1 = 1
    if (s.bay b).record.isNone then s.reject c 0x9108
    else
      match s.openKey b idx with
      | none => s.reject c 0x9107
      | some key =>
        if jField c 18 2 = 0 then s.reject c 0x9102
        else
          let o (slot : Option Nat) : Opening :=
            { bay := b, slot := slot, resume := if resume then some (jField c 22 2) else none, key := idx
              hostPort := BitVec.ofNat 16 (jField c 18 2), cmdId := jId c, code := s.openCode c key, start := s.mt.ns }
          let s1 := s.modQp c.qp fun q => { q with nonce := none }
          let frees := s.freeSlots b
          if resume then (s1.modQp c.qp fun q => { q with opens := q.opens ++ [o none] }).accept c
          else if frees.isEmpty then s1.refuse c 0x910D
          else
            let i := frees.getD (s.freeNat % frees.length) 0
            let s2 := (s1.spend 1).modSess (b * 16 + i) fun x => { x with state := .opening, gen := nextGen x.gen }
            (s2.modQp c.qp fun q => { q with opens := q.opens ++ [o (some i)] }).accept c

/-- The soundings of the current start-up go to a session that has opened, in stage order (R436). -/
def State.sendSoundings (s : State) (k : Nat) : State :=
  s.su.sounds.rows.foldl (fun t r => if r.2.done then t.sendSess k 7 r.2.body else t) s

/-- The completion of an open that failed is session-less (R313). -/
def State.openFails (s : State) (q : Nat) (o : Opening) (code : Code) : State :=
  let d : Done := { cmdId := o.cmdId, opcode := 0x02, code := code, start := o.start }
  let s1 := match o.slot with
    | some i => s.modSess (o.bay * 16 + i) fun x => { gen := x.gen, energy := x.energy }
    | none => s
  s1.sendBare q 4 (d.body s.mt.ns)

/-- The session in slot `k` has opened or is resumed: its completion, then the soundings. -/
def State.openDone (s : State) (k : Nat) (o : Opening) : State :=
  let d : Done :=
    { cmdId := o.cmdId, opcode := 0x02, start := o.start, result := leBytes 2 (s.sessValue k) }
  (s.sendSess k 4 (d.body s.mt.ns)).sendSoundings k

/-- A verified RESUME takes over the orphaned session it names, if that was opened with the same key and its 1 s has not elapsed (R314). -/
def State.resumeOpen (s : State) (q : Nat) (o : Opening) (v : Nat) : State :=
  let k := v % 256
  let x := s.sess k
  let same : Bool := match s.openKey o.bay o.key, s.openKey (k / 16) x.key with
    | some a, some b => a == b
    | _, _ => false
  if x.state == .orphaned && x.gen.toNat == v / 256 && same && decide (s.mt.ns < x.orphanAt + 1000000000) then
    (s.modSess k fun x => { x with state := .open_, qp := q, port := (s.qp q).port, hostPort := o.hostPort }).openDone k o
  else s.openFails q o 0x9109

/-- SESSION_VERIFY_DONE: the oldest open under verification on the connection ends. -/
def execSessionVerifyDone (qp : Fin 512) (s : State) : Out :=
  let q := qp.val
  match (s.qp q).opens with
  | [] => .next s
  | o :: rest =>
    let s1 := s.modQp q fun x => { x with opens := rest }
    .next (if o.code ≠ 0 then s1.openFails q o o.code
      else match o.resume, o.slot with
      | some v, _ => s1.resumeOpen q o v
      | none, some i =>
        let k := o.bay * 16 + i
        (s1.modSess k fun x =>
          { state := .open_, role := keyRole o.key, gen := x.gen, qp := q, port := (s.qp q).port, key := o.key
            hostPort := o.hostPort, openAt := s.mt.ns, lastBeat := s.mt.ns }).openDone k o
      | none, none => s1)

/-! Close (R316). -/

/-- The session in slot `k` ends: queued work is dropped, running work is cancelled, regions and tokens end, the slot is free. -/
def State.closeSession (s : State) (k : Nat) : State :=
  let v := s.sessValue k
  let b := k / 16
  let mark (w : Work) : Work := if w.sess = v then { w with cancelled := true } else w
  let s1 := s.modBay b fun y =>
    { y with queue := y.queue.filter fun w => w.sess != v, run := y.run.map mark, berths := y.berths.map fun _ w => mark w }
  let s2 := s1.modSess k fun x => { gen := x.gen, energy := x.energy }
  let s3 := { s2 with ident := { s2.ident with queue := s2.ident.queue.filter fun a => a.session != v } }
  s3.atBoundary b

/-- SESSION_CLOSE. -/
def execSessionClose (c : JCmd) (s : State) : Out :=
  s.parse c 0x03 true fun s => (s.accept c).closeSession (jSess c % 256)

/-- SESSION_ORPHAN_TIMEOUT (Table 12.11). -/
def execSessionOrphanTimeout (bay slot : Fin 16) (s : State) : Out :=
  let k := bay.val * 16 + slot.val
  let x := s.sess k
  occurs s (x.state == .orphaned && decide (x.orphanAt + 1000000000 ≤ s.mt.ns)) (s.closeSession k)

/-! Regions (R315). -/

/-- Does the region lie inside the bay's extents, or its logical coves? A USER's lies in the user window. -/
def State.regionOk (s : State) (b kind a n : Nat) (user : Bool) : Bool :=
  match (s.bay b).record with
  | none => false
  | some r =>
    if kind = 0 then
      decide (a + n ≤ r.hbmBytes) && (!user || decide (r.uwinBase ≤ a ∧ a + n ≤ r.uwinBase + r.uwinLen))
    else
      !user && decide (a + n ≤ 720 * 0x200000)
        && (List.range ((a + n - 1) / 0x200000 - a / 0x200000 + 1)).all fun i => r.coves.contains (a / 0x200000 + i)

/-- A new R_Key: any but 0 and those in use; which one is free. -/
def State.newRkey (s : State) : BitVec 32 :=
  let used := (s.sessions.rows.flatMap fun r => r.2.regions).map Region.rkey
  let pick := s.freeWord
  if pick ≠ 0 ∧ !used.contains pick then pick
  else ((List.range (used.length + 1)).map fun i => BitVec.ofNat 32 (i + 1)).find? (fun k => !used.contains k) |>.getD 1

/-- REGION_GRANT. -/
def execRegionGrant (c : JCmd) (s : State) : Out :=
  s.parse c 0x04 true fun s =>
    let k := jSess c % 256
    let x := s.sess k
    let kind := jField c 16 1
    let a := jField c 24 8
    let n := jField c 32 8
    let user := x.role == .user
    if user ∧ kind = 1 then s.reject c 0x9120
    else if !s.regionOk (jBay c) kind a n user then s.reject c 0x9120
    else if n = 0 then s.doneAtOnce c 0 (leBytes 4 0 ++ leBytes 8 a)
    else if 8 ≤ x.regions.length then s.refuse c 0x9120
    else
      let key := s.newRkey
      let acc := jField c 17 1
      let r : Region := ⟨key, kind, acc % 2 == 1, acc / 2 == 1, a, n⟩
      ((s.spend 1).modSess k fun x => { x with regions := x.regions ++ [r] }).doneAtOnce c 0 (leBytes 4 key.toNat ++ leBytes 8 a)

/-- REGION_REVOKE. -/
def execRegionRevoke (c : JCmd) (s : State) : Out :=
  s.parse c 0x05 true fun s =>
    (s.modSess (jSess c % 256) fun x => { x with regions := x.regions.filter fun r => r.rkey.toNat != jField c 16 4 }).accept c

end Sys2Proof.Machine
end

