-- ==== Sys2Proof/Machine/Admission.lean ====
section
/-!
DEFINITION. Runs, generation and admission (12_tideline_commands.md R319 to R322, R458): the checks of a RUN and a GENERATE, the estimates,
the insertion in earliest-deadline order, CANCEL, QUERY.
-/

namespace Sys2Proof.Machine

/-! Estimates (R322), in module time. -/

/-- Wake costs of the bay's coves and halves. -/
def State.wakeNs (s : State) (b : Nat) : Nat :=
  if (s.bayHalves b).any fun h => (s.half h).ebb then 60000
  else if (s.physCoves b).any fun c => (s.clk.sleep.get (.run, 0) c).1 != .run then 1000
  else 0

/-- Earliest start: after the wake, the end of a reset's recovery as R458 counts it, a maintenance as R327 counts it. -/
def State.earliest (s : State) (b : Nat) : Nat :=
  let y := s.bay b
  let e := s.mt.ns + s.wakeNs b
  let r := if y.hang.resetting ∨ y.hang.recovering then s.mt.ns + (y.hang.entryAt + 3000000 - s.clk.elapsed) else e
  let m := if s.jetty.maint.opening.isSome then s.jetty.maint.busyTill else e
  max e (max r m)

/-- Does the bay's program say that it streams its weights (FLAGS[1], R25)? -/
def State.streamed (s : State) (b : Nat) : Bool := (s.bay b).program.any fun p => p.flags.getLsbD 1

/-- Step time at the bay's current share of step starts (R323). In streamed mode the bay's share of the HBM read bandwidth bounds it
too, by how much the spec does not say: a free value of the step time (R25, log entry 142). -/
def State.shareNs (s : State) (b : Nat) : Nat :=
  let t := s.stepNs b * 8 / max 1 (s.dutyEighths b)
  if s.streamed b then Config.streamedNs t else t

/-- From the last boundary to the completion. -/
def State.lagNs (s : State) (b : Nat) : Nat := if (s.bay b).st.wantTwo then s.shareNs b + 3000 else 3000

/-- Token interval at full berths; 0 counts as one step time. -/
def State.tokenNs (s : State) (b : Nat) : Nat :=
  match (s.bay b).program with
  | some p => if p.tokenNs = 0 then s.shareNs b else p.tokenNs
  | none => s.shareNs b

/-- The longest of a list of times. -/
def latest (l : List Nat) : Nat := l.foldl max 0
/-- The least of a list of times, and where it first stands. -/
def soonest (l : List Nat) : Nat := l.foldl min (l.headD 0)

/-- What an estimate says of an item: its start, the time its deadline is judged at, a sequence's by its first token (R320), and its
completion. -/
structure Estimate where
  start : Nat
  due : Nat
  done : Nat
  deriving DecidableEq, Repr

/-- An estimate misses the item's deadline. -/
def Estimate.late (e : Estimate) (w : Work) : Bool := w.deadline != 0 && decide (w.deadline < e.due)

/-- The bay's next boundary: the end of the step that runs (R321). -/
def State.nextBoundary (s : State) (b : Nat) : Nat := s.earliest b + if (s.bay b).st.running.isSome then s.shareNs b else 0

/-- Steps that a run has left, the one that runs included. -/
def Bay.stepsLeft (y : Bay) (w : Work) : Nat := w.maxSteps - w.stepsBegun + if y.st.running.isSome then 1 else 0

/-- When the berths in use free (R322): a run holds them all. -/
def State.berthEnds (s : State) (b : Nat) : List Nat :=
  let y := s.bay b
  let e := s.earliest b
  match y.run with
  | some w => List.replicate (max 1 y.berthLimit) (e + y.stepsLeft w * s.shareNs b)
  | none =>
    let used := y.berths.rows.map fun r => e + (r.2.maxNew - r.2.tokens) * s.tokenNs b
    used ++ List.replicate (max 1 y.berthLimit - used.length) e

/-- Estimates of a queue in its order; `last` is the start of the item before. -/
def State.estimate (s : State) (b : Nat) : List Work → List Nat → Nat → List Estimate
  | [], _, _ => []
  | w :: rest, ends, last =>
    match w.kind with
    | .run =>
      let st := max last (latest ends)
      let fin := st + w.maxSteps * s.shareNs b
      ⟨st, fin + s.lagNs b, fin + s.lagNs b⟩ :: s.estimate b rest (ends.map fun _ => fin) st
    | .generate =>
      let at_ := soonest ends
      let st := max last at_
      let fin := st + w.maxNew * s.tokenNs b
      ⟨st, st + s.tokenNs b + s.lagNs b, fin + s.lagNs b⟩ :: s.estimate b rest (ends.erase at_ ++ [fin]) st

def State.estimates (s : State) (b : Nat) (q : List Work) : List Estimate :=
  s.estimate b q (s.berthEnds b) (s.earliest b)

/-! Insertion (R321). -/

/-- Does `x` come after a new item with deadline `d`? Work without a deadline goes last, ties keep admission order. -/
def comesAfter (x : Work) (d : Nat) : Bool :=
  if d = 0 then false else x.deadline == 0 || decide (d < x.deadline)

/-- Where the new item goes. -/
def placeOf (q : List Work) (d : Nat) : Nat := (q.takeWhile fun x => !comesAfter x d).length

/-- Is each estimate of a list late? -/
def lateness (es : List Estimate) (q : List Work) : List Bool := (es.zip q).map fun p => p.1.late p.2

/-- Does the insertion at place `i` leave the new item on time and make no other item late that was not? -/
def State.insertOk (s : State) (b : Nat) (q : List Work) (w : Work) (i : Nat) : Bool :=
  let trial := q.take i ++ w :: q.drop i
  let before := lateness (s.estimates b q) q
  let after := lateness (s.estimates b trial) trial
  !after.getD i false && (List.range q.length).all fun j =>
    !after.getD (if j < i then j else j + 1) false || before.getD j false

/-- The capacity check's answer: placed and started at once, placed and delayed until a time, or refused with the earliest
completion at the queue's end. -/
inductive Capacity where
  | now (i : Nat)
  | delayed (i start : Nat)
  | refused (done : Nat)
  deriving DecidableEq, Repr

def State.capacity (s : State) (b : Nat) (w : Work) : Capacity :=
  let q := (s.bay b).queue
  let i := placeOf q w.deadline
  if s.insertOk b q w i then
    let st := ((s.estimates b (q.take i ++ w :: q.drop i)).map Estimate.start).getD i 0
    if st ≤ s.nextBoundary b then .now i else .delayed i st
  else .refused (((s.estimates b (q ++ [w])).getLast?.map Estimate.done).getD 0)

/-! RUN and GENERATE. -/

/-- Items of a session that are queued or run. -/
def Bay.itemsOf (y : Bay) (v : Nat) : Nat :=
  ((y.run.toList ++ y.berths.rows.map Prod.snd ++ y.queue).filter fun w => w.sess == v).length

/-- The quota check (R321, order 1). -/
def Bay.quotaFull (y : Bay) (r : BayRecord) (w : Work) : Bool :=
  decide (r.queueDepth ≤ y.queue.length) || decide (8 ≤ y.itemsOf w.sess)
    || (w.kind == .generate && decide (r.berthQuota ≤ (y.queue.filter fun x => x.kind == .generate).length))

/-- The power check (R321, order 2): also work whose declared power exceeds the variant's continuous input power (R2). -/
def State.powerRefuses (s : State) (b : Nat) (p : Program) : Bool :=
  s.pwr.refusing || (s.bay b).pwr.exceeded || ((s.bay b).pwr.capW != 0xFFFF && decide ((s.bay b).pwr.capW < p.powerW))
    || decide (s.su.contW < p.powerW)

/-- Admission of a piece of work whose parameters are good (R321). -/
def State.takeWork (s : State) (c : JCmd) (r : BayRecord) (p : Program) (w : Work) : State :=
  let b := jBay c
  if (s.bay b).quotaFull r w then s.refuse c 0x910E
  else if s.powerRefuses b p then s.answerCmd c stPower 0x3020 0 []
  else
    let put (i : Nat) (t : State) : State := t.modBay b fun y => { y with queue := y.queue.take i ++ w :: y.queue.drop i }
    match s.capacity b w with
    | .now i => put i (s.acceptLong c)
    | .delayed i st => put i ((s.answerCmd c stDelayed 0 st []).outstand c)
    | .refused d => s.answerCmd c stCapacity 0 d []

/-- Is a range inside the bay's extents? A range of no bytes is. -/
def BayRecord.inside (r : BayRecord) (a n : Nat) : Bool := n == 0 || decide (a + n ≤ r.hbmBytes)

/-- What a RUN or GENERATE shares: the bay's record and program, a stop, a no-op. -/
def State.submit (s : State) (c : JCmd) (w : Work) (bad : BayRecord → Program → Option Code) (none_ : Bool) : State :=
  let b := jBay c
  let y := s.bay b
  if y.stopped.isSome then s.reject c 0x9129
  else
    match y.record, y.program with
    | some r, some p =>
      (match bad r p with
       | some code => s.reject c code
       | none =>
         if none_ then
           ((s.acceptLong c).complete w.sess
             { cmdId := w.cmdId, opcode := w.opcode, start := s.mt.ns, deadline := w.deadline
               result := if w.kind = .generate then leBytes 4 0 else [] })
         else s.takeWork c r p w)
    | _, _ => s.reject c 0x910B

/-- RUN (R319, R321). -/
def execRun (c : JCmd) (s : State) : Out :=
  s.parse c 0x0A true fun s =>
    let w : Work :=
      { kind := .run, sess := jSess c, cmdId := jId c, deadline := jDeadline c, maxSteps := jField c 16 4, entry := jField c 20 1
        inAddr := jField c 24 8, inLen := jField c 32 4, outLen := jField c 36 4 }
    s.submit c w (fun r p => if p.entrySets ≤ w.entry ∨ !r.inside w.inAddr w.inLen then some 0x9121 else none) (w.maxSteps == 0)

/-- GENERATE (R320, R321). -/
def execGenerate (c : JCmd) (s : State) : Out :=
  s.parse c 0x0B true fun s =>
    let n := jField c 16 2
    let inArea := jField c 18 1 = 1
    let w : Work :=
      { kind := .generate, sess := jSess c, cmdId := jId c, deadline := jDeadline c, maxNew := jField c 20 4
        inAddr := if inArea then jField c 24 8 else 0, inLen := if inArea then 4 * n else 0
        prompt := if inArea then [] else c.ext.take (4 * n), temp := BitVec.ofNat 32 (jField c 32 4), topK := jField c 36 2
        seed := BitVec.ofNat 64 (jField c 40 8) }
    s.submit c w (fun r p => if !p.generates then some 0x910B
      else if inArea && !(decide (w.inAddr < r.hbmBytes) && r.inside w.inAddr w.inLen) then some 0x9121 else none) (w.maxNew == 0)

/-! CANCEL (R319). -/

/-- Does the work belong to a command of a session? -/
def Work.isOf (w : Work) (v : Nat) (cmd : BitVec 32) : Bool := w.sess == v && w.cmdId == cmd

/-- Work of a session is cancelled: queued work is removed at once, running work ends at the next boundary. -/
def State.cancelWorkOf (s : State) (b v : Nat) (cmd : BitVec 32) : State :=
  let y := s.bay b
  match y.queue.find? fun w => w.isOf v cmd with
  | some w =>
    (s.modBay b fun y => { y with queue := y.queue.filter fun x => !x.isOf v cmd }).completeWork w 0x9122 true
  | none =>
    let mark (w : Work) : Work := if w.isOf v cmd then { w with cancelled := true } else w
    (s.modBay b fun y => { y with run := y.run.map mark, berths := y.berths.map fun _ w => mark w }).atBoundary b

/-- CANCEL: a USER reaches its own work, BAY its bay's, OWNER every bay's; without such work it is a no-op. -/
def execCancel (c : JCmd) (s : State) : Out :=
  s.parse c 0x0C true fun s =>
    let own := jSess c
    let v := if jField c 20 2 = 0 then own else jField c 20 2
    let b := v % 256 / 16
    match (s.sess (own % 256)).role with
    | .owner => (s.accept c).cancelWorkOf b v (BitVec.ofNat 32 (jField c 16 4))
    | .bay => if b = jBay c then (s.accept c).cancelWorkOf b v (BitVec.ofNat 32 (jField c 16 4)) else s.reject c 0x9106
    | _ => if v = own then (s.accept c).cancelWorkOf b v (BitVec.ofNat 32 (jField c 16 4)) else s.reject c 0x9106

/-! QUERY (R307, R321, R414). Its RESULT has a layout that the spec does not give (Config.queryLayout, log entry 41). -/

def State.answerQuery (s : State) (c : JCmd) (sel : Nat) (l : List Nat) : State := s.doneAtOnce c 0 (Config.queryLayout sel l)

/-- QUERY_BAY_SUMMARY; it also rejects a SELECTOR above 3. -/
def execQueryBaySummary (c : JCmd) (s : State) : Out :=
  s.parse c 0x10 (jField c 16 1 == 0 || decide (3 < jField c 16 1)) fun s =>
    let y := s.bay (jBay c)
    s.answerQuery c 0
      [if y.program.isSome then 1 else 0, if y.busy then 1 else 0, (y.stopped.getD 0).toNat, y.queue.length, y.berths.rows.length,
        y.st.committed, y.shape, y.level]

/-- QUERY_RUN_QUEUE. -/
def execQueryRunQueue (c : JCmd) (s : State) : Out :=
  s.parse c 0x10 (jField c 16 1 == 1) fun s =>
    let y := s.bay (jBay c)
    let items (running : Nat) (l : List Work) : List Nat :=
      l.flatMap fun w => [w.sess, w.cmdId.toNat, w.opcode, w.deadline, running]
    s.answerQuery c 1 (items 1 (y.run.toList ++ y.berths.rows.map Prod.snd) ++ items 0 y.queue)

/-- QUERY_SESSION_ENERGY. -/
def execQuerySessionEnergy (c : JCmd) (s : State) : Out :=
  s.parse c 0x10 (jField c 16 1 == 2) fun s => s.answerQuery c 2 [(s.sess (jSess c % 256)).energy.toNat]

/-- QUERY_ADMISSION_TRIAL: the estimate of a run of ARG steps without a deadline. -/
def execQueryAdmissionTrial (c : JCmd) (s : State) : Out :=
  s.parse c 0x10 (jField c 16 1 == 3) fun s =>
    let b := jBay c
    let w : Work := { kind := .run, sess := jSess c, cmdId := jId c, maxSteps := jField c 24 8 }
    match (s.estimates b ((s.bay b).queue ++ [w])).getLast? with
    | some e => s.answerQuery c 3 [e.start, e.done]
    | none => s.answerQuery c 3 []

end Sys2Proof.Machine
end

