-- ==== Sys2Proof/Machine/Attest.lean ====
section
/-!
DEFINITION. Attestation (19_identity_and_attestation.md R474, R475): the token of Table 19.5 in the CBOR of RFC 8949 and the COSE_Sign1 of
RFC 9052, signed with the identity key.
-/

namespace Sys2Proof.Machine

/-! CBOR. -/

/-- Big-endian bytes of a number. -/
def beBytes (n v : Nat) : List Byte := (leBytes n v).reverse

/-- Head of a data item: major type and argument in its shortest form. -/
def cborHead (major n : Nat) : List Byte :=
  if n < 24 then leBytes 1 (major * 32 + n)
  else if n < 256 then leBytes 1 (major * 32 + 24) ++ beBytes 1 n
  else if n < 65536 then leBytes 1 (major * 32 + 25) ++ beBytes 2 n
  else if n < 2 ^ 32 then leBytes 1 (major * 32 + 26) ++ beBytes 4 n
  else leBytes 1 (major * 32 + 27) ++ beBytes 8 n

def cborUint (n : Nat) : List Byte := cborHead 0 n
/-- The negative integer −n. -/
def cborNeg (n : Nat) : List Byte := cborHead 1 (n - 1)
def cborBytes (bs : List Byte) : List Byte := cborHead 2 bs.length ++ bs
def cborText (t : String) : List Byte := cborHead 3 (asciiBytes t).length ++ asciiBytes t
def cborArray (l : List (List Byte)) : List Byte := cborHead 4 l.length ++ l.flatten
def cborMap (l : List (List Byte × List Byte)) : List Byte := cborHead 5 l.length ++ (l.map fun p => p.1 ++ p.2).flatten
def cborBool (b : Bool) : List Byte := [if b then 0xF5 else 0xF4]
def cborNull : List Byte := [0xF6]

/-- Key identifier: the first 8 bytes of SHAKE256 of a public key (R469). -/
def keyId (pub : List Byte) : List Byte := leBytes 8 (Config.shake256 pub).toNat

/-- COSE_Sign1 with tag 18 over a payload, with the identity key and the empty context (R468, R474). -/
def State.coseSign (s : State) (payload : List Byte) : List Byte :=
  let prot := cborMap [(cborUint 1, cborNeg 8)]
  let toSign := cborArray [cborText "Signature1", cborBytes prot, cborBytes [], cborBytes payload]
  cborHead 6 18 ++ cborArray
    [cborBytes prot, cborMap [(cborUint 4, cborBytes (keyId s.ident.pub))], cborBytes payload,
      cborBytes (leBytes 114 (Config.identitySign [] toSign).toNat)]

/-! Claims. -/

/-- An extent's entry of Table 10.3. -/
def Extent.bytes (e : Extent) : List Byte := leBytes 4 (e.stack * 12288 + e.page) ++ leBytes 4 e.pages

/-- COVE_MASK of a record (Table 17.7). -/
def BayRecord.mask (r : BayRecord) : List Byte :=
  (List.range 90).map fun i => BitVec.ofNat 8 (((List.range 8).filter fun j => r.coves.contains (8 * i + j)).map (2 ^ ·)).sum

/-- Claims of every token. -/
def State.claims (s : State) (nonce : List Byte) : List (List Byte × List Byte) :=
  let o := s.img.owner
  [(cborUint 10, cborBytes nonce),
    (cborUint 256, cborBytes (1 :: leBytes 32 (Config.shake256 s.ident.pub).toNat)),
    (cborNeg 70001, cborUint 1),
    (cborNeg 70002, cborArray [cborUint s.mt.ns, cborUint s.mt.state.toNat]),
    (cborNeg 70003, cborBool s.ident.certified),
    (cborNeg 70004, cborArray [cborUint s.su.order.toNat, cborUint (if s.su.variantOk then 1 else 0)]),
    (cborNeg 70005, cborArray [cborUint (s.img.slot.getD 0), cborUint s.img.version.toNat, cborBytes (leBytes 32 s.img.measure.toNat)]),
    (cborNeg 70006, cborArray
      [cborUint (match o with | some r => r.seq | none => 0), cborUint s.img.floor,
        cborBytes (match o with | some r => keyId r.key | none => List.replicate 8 0), cborUint (if s.img.ownerRoot then 1 else 0)]),
    (cborNeg 70007, cborUint Config.romRevision),
    (cborNeg 70008, cborBool s.ident.jtagUsed)]

/-- Claims that a bay's token adds. -/
def State.bayClaims (s : State) (b : Nat) : List (List Byte × List Byte) :=
  let y := s.bay b
  match y.record with
  | none => []
  | some r =>
    [(cborNeg 70020, cborUint b),
      (cborNeg 70021, cborBytes r.mask),
      (cborNeg 70022, cborBytes (leBytes 32 (Config.shake256 (r.extents.map Extent.bytes).flatten).toNat)),
      (cborNeg 70023, match y.program with
        | some p => cborArray [cborBytes (leBytes 32 p.measure.toNat), cborBytes (leBytes 8 p.signer.toNat), cborUint y.shape]
        | none => cborNull),
      (cborNeg 70024, cborUint y.level)]

/-- The token of a request. -/
def State.token (s : State) (a : AttReq) : List Byte :=
  s.coseSign (cborMap (s.claims a.nonce ++ match a.bay with | some b => s.bayClaims b | none => []))

/-- A class 0xC code is shown in ID_LAST_ERR (R478). -/
def State.identErr (s : State) (code : Code) : State := { s with ident := { s.ident with lastErr := code } }

/-- ATTEST (R474, R475): at most 16 requests wait. A SCOPE above 1 is rejected with 0xC022. -/
def execAttest (c : JCmd) (s : State) : Out :=
  s.parse c 0x06 true fun s =>
    if 16 ≤ s.ident.queue.length then (s.identErr 0xC020).refuse c 0xC020
    else
      let a : AttReq :=
        { session := jSess c, cmdId := jId c, bay := if jField c 16 1 = 1 then some (jBay c) else none
          nonce := slice c.desc 24 16, start := s.mt.ns }
      { s.acceptLong c with ident := { s.ident with queue := s.ident.queue ++ [a] } }

/-- Is no fault signature record waiting to be signed, but those that may wait for a replay's operand hash (R346, R475;
log entry 167)? -/
def State.recordsSigned (s : State) : Bool :=
  s.coves.rows.all fun r => r.2.ig.unrecorded.all fun p => p.unit == 0 || p.unit == 8

/-- ATTEST_TOKEN_COMPLETE (R475): the oldest request is served from one snapshot, behind the fault signature records. -/
def execAttestTokenComplete (s : State) : Out :=
  match s.ident.queue with
  | [] => .next s
  | a :: rest =>
    occurs s s.recordsSigned ({ s with ident := { s.ident with queue := rest, attests := satAdd32 s.ident.attests 1 } }.complete a.session
      { cmdId := a.cmdId, opcode := 0x06, start := a.start, result := s.token a })

end Sys2Proof.Machine
end

