-- ==== Sys2Proof/Machine/PebbleInt.lean ====
section
/-!
DEFINITION. Integer, branch and jump instructions, NOP, SINFO, TRAP and STEPEND (05 R106 to R109, R122, R132).
-/

namespace Sys2Proof.Machine

/-- NOP (Table 5.4): nothing but completion. -/
def execNopInstruction (at_ : CoreRef) (w : RFields) (s : State) : Out :=
  issue s at_ never (w.res != 0) {} fun s => s.retireNext at_ id

/-- R122: the core waits in STEPEND for the next step; its arrival is its STATE 2. -/
def execStepend (at_ : CoreRef) (w : RFields) (s : State) : Out :=
  issue s at_ never (w.res != 0) {} fun s =>
    s.modCore at_ fun k => { k with state := 2, wait := some .stepend, stalledAt := s.cycles at_.cove }

/-- What SINFO gives for a selector below 8 (Table 5.7). -/
def sinfoValue (s : State) (at_ : CoreRef) (sel : Nat) : Word :=
  let b := s.bayOf at_.cove
  let r := b.bind fun b => (s.bay b).st.newest
  match sel with
  | 0 => BitVec.ofNat 32 ((r.map StepRec.no).getD 0)
  | 1 => BitVec.ofNat 32 ((r.map StepRec.no).getD 0 / 2 ^ 32)
  | 2 => BitVec.ofNat 32 ((r.map StepRec.attempt).getD 0)
  | 3 => BitVec.ofNat 32 at_.core
  | 4 => BitVec.ofNat 32 ((s.logOf at_.cove).getD 0)
  | 5 => BitVec.ofNat 32 at_.cove
  | 6 => BitVec.ofNat 32 (b.getD 0)
  | _ => BitVec.ofNat 32 (s.cycles at_.cove - (s.cove at_.cove).tide.stepCyc)

/-- SINFO (R122): the selector is the RA field; 8 to 31 are illegal. -/
def execSinfo (at_ : CoreRef) (w : RFields) (s : State) : Out :=
  issue s at_ never (w.res != 0 || decide (8 ≤ w.ra.toNat)) { wg := [w.rd] } fun s =>
    s.retireNext at_ fun k => k.wg w.rd (sinfoValue s at_ w.ra.toNat)

/-- TRAP (R132): halts the core after itself when TRAP_EN is set. -/
def execTrap (at_ : CoreRef) (w : RFields) (s : State) : Out :=
  issue s at_ never (w.res != 0) {} fun s =>
    let t := s.retireNext at_ id
    if (s.core at_).ctl.getLsbD 3 then t.modCore at_ fun k => { k with state := if k.state = 5 then 5 else 4 } else t

/-- An R-format integer operation (R109). -/
def aluR (s : State) (at_ : CoreRef) (w : RFields) (f : Word → Word → Word) : Out :=
  issue s at_ never (w.res != 0) { g := [w.ra, w.rb], wg := [w.rd] } fun s =>
    s.retireNext at_ fun k => k.wg w.rd (f (k.rg w.ra) (k.rg w.rb))

/-- An I-format integer operation with its 32-bit immediate (R108). -/
def aluI (s : State) (at_ : CoreRef) (w : IFields) (illegal : Bool) (f : Word → Word) : Out :=
  issue s at_ never illegal { g := [w.ra], wg := [w.rd] } fun s =>
    s.retireNext at_ fun k => k.wg w.rd (f (k.rg w.ra))

/-- IMM sign-extended and zero-extended (R108). -/
def immS (w : IFields) : Word := w.imm.signExtend 32
def immZ (w : IFields) : Word := w.imm.zeroExtend 32

/-- 1 if the relation holds, else 0. -/
def flag1 (p : Bool) : Word := if p then 1 else 0

/-- Signed quotient truncating toward zero; by zero all ones (R109). -/
def divS (a b : Word) : Word := if b = 0 then 0xFFFFFFFF else BitVec.ofInt 32 (Int.tdiv a.toInt b.toInt)
/-- Signed remainder; by zero the dividend (R109). -/
def remS (a b : Word) : Word := if b = 0 then a else BitVec.ofInt 32 (Int.tmod a.toInt b.toInt)
def divU (a b : Word) : Word := if b = 0 then 0xFFFFFFFF else BitVec.ofNat 32 (a.toNat / b.toNat)
def remU (a b : Word) : Word := if b = 0 then a else BitVec.ofNat 32 (a.toNat % b.toNat)
def mulHi (a b : Word) : Word := BitVec.ofInt 32 (a.toInt * b.toInt / 2 ^ 32)
def mulHiU (a b : Word) : Word := BitVec.ofNat 32 (a.toNat * b.toNat / 2 ^ 32)
def minS (a b : Word) : Word := if a.slt b then a else b
def maxS (a b : Word) : Word := if a.slt b then b else a
def minU (a b : Word) : Word := if a.ult b then a else b
def maxU (a b : Word) : Word := if a.ult b then b else a

/-- ADD (R109). -/
def execAdd (at_ : CoreRef) (w : RFields) (s : State) : Out := aluR s at_ w fun a b => a + b
/-- SUB (R109). -/
def execSub (at_ : CoreRef) (w : RFields) (s : State) : Out := aluR s at_ w fun a b => a - b
/-- AND (R109). -/
def execAnd (at_ : CoreRef) (w : RFields) (s : State) : Out := aluR s at_ w fun a b => a &&& b
/-- OR (R109). -/
def execOr (at_ : CoreRef) (w : RFields) (s : State) : Out := aluR s at_ w fun a b => a ||| b
/-- XOR (R109). -/
def execXor (at_ : CoreRef) (w : RFields) (s : State) : Out := aluR s at_ w fun a b => a ^^^ b
/-- SLL (R109): by g[RB][4:0]. -/
def execSll (at_ : CoreRef) (w : RFields) (s : State) : Out := aluR s at_ w fun a b => a <<< (b.toNat % 32)
/-- SRL (R109). -/
def execSrl (at_ : CoreRef) (w : RFields) (s : State) : Out := aluR s at_ w fun a b => a >>> (b.toNat % 32)
/-- SRA (R109). -/
def execSra (at_ : CoreRef) (w : RFields) (s : State) : Out := aluR s at_ w fun a b => a.sshiftRight (b.toNat % 32)
/-- SLT (R109). -/
def execSlt (at_ : CoreRef) (w : RFields) (s : State) : Out := aluR s at_ w fun a b => flag1 (a.slt b)
/-- SLTU (R109). -/
def execSltu (at_ : CoreRef) (w : RFields) (s : State) : Out := aluR s at_ w fun a b => flag1 (a.ult b)
/-- MIN (R109). -/
def execMin (at_ : CoreRef) (w : RFields) (s : State) : Out := aluR s at_ w minS
/-- MAX (R109). -/
def execMax (at_ : CoreRef) (w : RFields) (s : State) : Out := aluR s at_ w maxS
/-- MINU (R109). -/
def execMinu (at_ : CoreRef) (w : RFields) (s : State) : Out := aluR s at_ w minU
/-- MAXU (R109). -/
def execMaxu (at_ : CoreRef) (w : RFields) (s : State) : Out := aluR s at_ w maxU
/-- MUL (R109). -/
def execMul (at_ : CoreRef) (w : RFields) (s : State) : Out := aluR s at_ w fun a b => a * b
/-- MULH (R109). -/
def execMulh (at_ : CoreRef) (w : RFields) (s : State) : Out := aluR s at_ w mulHi
/-- MULHU (R109). -/
def execMulhu (at_ : CoreRef) (w : RFields) (s : State) : Out := aluR s at_ w mulHiU
/-- DIV (R109). -/
def execDiv (at_ : CoreRef) (w : RFields) (s : State) : Out := aluR s at_ w divS
/-- DIVU (R109). -/
def execDivu (at_ : CoreRef) (w : RFields) (s : State) : Out := aluR s at_ w divU
/-- REM (R109). -/
def execRem (at_ : CoreRef) (w : RFields) (s : State) : Out := aluR s at_ w remS
/-- REMU (R109). -/
def execRemu (at_ : CoreRef) (w : RFields) (s : State) : Out := aluR s at_ w remU
/-- ADDI (R108). -/
def execAddi (at_ : CoreRef) (w : IFields) (s : State) : Out := aluI s at_ w false fun a => a + immS w
/-- ANDI (R108). -/
def execAndi (at_ : CoreRef) (w : IFields) (s : State) : Out := aluI s at_ w false fun a => a &&& immZ w
/-- ORI (R108). -/
def execOri (at_ : CoreRef) (w : IFields) (s : State) : Out := aluI s at_ w false fun a => a ||| immZ w
/-- XORI (R108). -/
def execXori (at_ : CoreRef) (w : IFields) (s : State) : Out := aluI s at_ w false fun a => a ^^^ immZ w
/-- SLTI (R108). -/
def execSlti (at_ : CoreRef) (w : IFields) (s : State) : Out := aluI s at_ w false fun a => flag1 (a.slt (immS w))
/-- SLTIU (R108): compares unsigned with the sign-extended immediate. -/
def execSltiu (at_ : CoreRef) (w : IFields) (s : State) : Out := aluI s at_ w false fun a => flag1 (a.ult (immS w))
/-- LUI (R108): RA is unused. -/
def execLui (at_ : CoreRef) (w : IFields) (s : State) : Out := aluI s at_ w (w.ra != 0) fun _ => (immZ w) <<< 16

/-- An immediate shift; IMM[13:5] is unused (Table 5.5). -/
def shiftI (s : State) (at_ : CoreRef) (w : ShFields) (f : Word → Nat → Word) : Out :=
  issue s at_ never (w.mid != 0) { g := [w.ra], wg := [w.rd] } fun s =>
    s.retireNext at_ fun k => k.wg w.rd (f (k.rg w.ra) w.sh.toNat)

/-- SLLI (R107). -/
def execSlli (at_ : CoreRef) (w : ShFields) (s : State) : Out := shiftI s at_ w fun a n => a <<< n
/-- SRLI (R107). -/
def execSrli (at_ : CoreRef) (w : ShFields) (s : State) : Out := shiftI s at_ w fun a n => a >>> n
/-- SRAI (R107). -/
def execSrai (at_ : CoreRef) (w : ShFields) (s : State) : Out := shiftI s at_ w fun a n => a.sshiftRight n

/-- Is a taken target legal: 0x0000 to 0x3FFC and a multiple of 4 (R108)? -/
def targetOk (t : Word) : Bool := decide (t.toNat ≤ 0x3FFC) && t.toNat % 4 == 0

/-- A taken transfer: to a legal target, or 0x4102 at this instruction (R108). -/
def transfer (s : State) (at_ : CoreRef) (t : Word) (f : PCore → PCore) : State :=
  if targetOk t then s.retire at_ t.toNat f else s.exception at_ 0x4102

/-- PC + 4 × OFF (R108). -/
def pcRel (s : State) (at_ : CoreRef) (off : Word) : Word := BitVec.ofNat 32 (s.core at_).pc + (off <<< 2)

/-- A conditional branch (R106, R108). -/
def branch (s : State) (at_ : CoreRef) (w : BFields) (p : Word → Word → Bool) : Out :=
  issue s at_ never false { g := [w.ra, w.rb] } fun s =>
    let k := s.core at_
    if p (k.rg w.ra) (k.rg w.rb) then transfer s at_ (pcRel s at_ (w.off.signExtend 32)) id
    else s.retireNext at_ id

/-- BEQ (R106). -/
def execBeq (at_ : CoreRef) (w : BFields) (s : State) : Out := branch s at_ w fun a b => a == b
/-- BNE (R106). -/
def execBne (at_ : CoreRef) (w : BFields) (s : State) : Out := branch s at_ w fun a b => a != b
/-- BLT (R106). -/
def execBlt (at_ : CoreRef) (w : BFields) (s : State) : Out := branch s at_ w fun a b => a.slt b
/-- BGE (R106). -/
def execBge (at_ : CoreRef) (w : BFields) (s : State) : Out := branch s at_ w fun a b => !a.slt b
/-- BLTU (R106). -/
def execBltu (at_ : CoreRef) (w : BFields) (s : State) : Out := branch s at_ w fun a b => a.ult b
/-- BGEU (R106). -/
def execBgeu (at_ : CoreRef) (w : BFields) (s : State) : Out := branch s at_ w fun a b => !a.ult b

/-- J (R108). -/
def execJ (at_ : CoreRef) (off : BitVec 26) (s : State) : Out :=
  issue s at_ never false {} fun s => transfer s at_ (pcRel s at_ (off.signExtend 32)) id

/-- JAL (R108): links in g31. -/
def execJal (at_ : CoreRef) (off : BitVec 26) (s : State) : Out :=
  issue s at_ never false { wg := [31] } fun s =>
    transfer s at_ (pcRel s at_ (off.signExtend 32)) fun k => k.wg 31 (BitVec.ofNat 32 (k.pc + 4))

/-- JALR (R108): to g[RA] + IMM, links in g[RD]. -/
def execJalr (at_ : CoreRef) (w : IFields) (s : State) : Out :=
  issue s at_ never false { g := [w.ra], wg := [w.rd] } fun s =>
    transfer s at_ ((s.core at_).rg w.ra + immS w) fun k => k.wg w.rd (BitVec.ofNat 32 (k.pc + 4))

end Sys2Proof.Machine
end

