-- ==== Sys2Proof/Machine/PebbleMem.lean ====
section
/-!
DEFINITION. Local data memory, scratchpad accesses, FENCE and the scratchpad bank arbiter (05 R114 to R116; 06 R142 to
R146).
-/

namespace Sys2Proof.Machine

/-- Checks of a local data access of `n` bytes at `a` (R114): alignment, then range. -/
def localFault (a : Word) (n : Nat) : Option Code :=
  if a.toNat % n ≠ 0 then some 0x4103
  else if 4096 < a.toNat + n then some 0x4104
  else none

/-- A local load of `n` bytes; bytes whose parity fails raise 0x4109. `f` writes the bytes read. -/
def localLoad (s : State) (at_ : CoreRef) (w : IFields) (n : Nat) (illegal : Bool) (u : Uses)
    (f : PCore → List Byte → PCore) : Out :=
  issue s at_ never illegal u fun s =>
    let k := s.core at_
    let a := k.rg w.ra + immS w
    match localFault a n with
    | some code => s.exception at_ code
    | none =>
      if k.dmemBad.any fun x => decide (a.toNat ≤ x ∧ x < a.toNat + n) then s.exception at_ 0x4109
      else s.retireNext at_ fun k => f k (memBytes k.dmem a.toNat n)

/-- A local store of the bytes that `f` gives. -/
def localStore (s : State) (at_ : CoreRef) (w : IFields) (n : Nat) (illegal : Bool) (u : Uses)
    (f : PCore → List Byte) : Out :=
  issue s at_ never illegal u fun s =>
    let k := s.core at_
    let a := k.rg w.ra + immS w
    match localFault a n with
    | some code => s.exception at_ code
    | none =>
      s.retireNext at_ fun k =>
        { k with dmem := memSetBytes k.dmem a.toNat (f k)
                 dmemBad := k.dmemBad.filter fun x => !decide (a.toNat ≤ x ∧ x < a.toNat + n) }

/-- A load into a general register. -/
def loadG (s : State) (at_ : CoreRef) (w : IFields) (n : Nat) (ext : Nat → Word) : Out :=
  localLoad s at_ w n false { g := [w.ra], wg := [w.rd] } fun k bs => k.wg w.rd (ext (leNat bs))

/-- A store from a general register. -/
def storeG (s : State) (at_ : CoreRef) (w : IFields) (n : Nat) : Out :=
  localStore s at_ w n false { g := [w.ra, w.rd] } fun k => leBytes n (k.rg w.rd).toNat

/-- LDW (R114). -/
def execLdw (at_ : CoreRef) (w : IFields) (s : State) : Out := loadG s at_ w 4 fun x => BitVec.ofNat 32 x
/-- LDH (R114): sign-extends. -/
def execLdh (at_ : CoreRef) (w : IFields) (s : State) : Out := loadG s at_ w 2 fun x => (BitVec.ofNat 16 x).signExtend 32
/-- LDHU (R114): zero-extends. -/
def execLdhu (at_ : CoreRef) (w : IFields) (s : State) : Out := loadG s at_ w 2 fun x => BitVec.ofNat 32 x
/-- LDB (R114): sign-extends. -/
def execLdb (at_ : CoreRef) (w : IFields) (s : State) : Out := loadG s at_ w 1 fun x => (BitVec.ofNat 8 x).signExtend 32
/-- LDBU (R114): zero-extends. -/
def execLdbu (at_ : CoreRef) (w : IFields) (s : State) : Out := loadG s at_ w 1 fun x => BitVec.ofNat 32 x
/-- STW (R114). -/
def execStw (at_ : CoreRef) (w : IFields) (s : State) : Out := storeG s at_ w 4
/-- STH (R114). -/
def execSth (at_ : CoreRef) (w : IFields) (s : State) : Out := storeG s at_ w 2
/-- STB (R114). -/
def execStb (at_ : CoreRef) (w : IFields) (s : State) : Out := storeG s at_ w 1
/-- VLD (R114). -/
def execVld (at_ : CoreRef) (w : IFields) (s : State) : Out :=
  localLoad s at_ w 64 (!vreg w.rd) { g := [w.ra], wv := [w.rd.toNat] } fun k bs => k.wv w.rd.toNat (rowOfBytes bs)
/-- VST (R114). -/
def execVst (at_ : CoreRef) (w : IFields) (s : State) : Out :=
  localStore s at_ w 64 (!vreg w.rd) { g := [w.ra], v := [w.rd.toNat] } fun k => bytesOfRow (k.rv w.rd.toNat)

/-! Scratchpad accesses (R115, R116). -/

/-- Posted stores of a core that are not complete. -/
def storesOut (s : State) (at_ : CoreRef) : Nat :=
  ((s.cove at_.cove).sp.reqs.filter fun q => q.core == at_.core.val && q.write).length
/-- Loads of a core that have not returned. -/
def loadsOut (s : State) (at_ : CoreRef) : Nat :=
  ((s.cove at_.cove).sp.reqs.filter fun q => q.core == at_.core.val && !q.write).length

/-- Waits again on the same scratchpad access. -/
def sameSp (w : HFields) : CoreWait → Bool
  | .spLimit x => x == w
  | _ => false

/-- A scratchpad access of `size` bytes through a handle (R115): limit, alignment, handle checks, then it is presented to
the arbiters. DESIGN CHOICE (log entry 178): the byte offset wraps modulo 2^32. -/
def spAccess (s : State) (at_ : CoreRef) (w : HFields) (size : Nat) (write vec : Bool) : State :=
  if (if write then 4 ≤ storesOut s at_ else 2 ≤ loadsOut s at_) then s.stall at_ (.spLimit w)
  else
    let k := s.core at_
    let off := (k.rg w.ra + BitVec.ofNat 32 (w.off8.toNat * size)).toNat
    let e := (s.cove at_.cove).sp.handle w.hdl.toNat
    let (steps, m) := s.stepsAt at_.cove
    if off % size ≠ 0 then s.exception at_ 0x4105
    else
      match (e.check off size (some at_.core) (if write then some (steps, m) else none)).1 with
      | 0 =>
        let data : Row :=
          if vec then k.rv w.rt.toNat else BitVec.ofNat 512 ((k.rg w.rt).toNat + 2 ^ 32 * (k.rg (w.rt + 1)).toNat)
        let q : NarrowReq :=
          { core := at_.core, write := write, handle := w.hdl, off := off, size := size, rt := w.rt, vec := vec
            data := if write then data else 0, since := s.cycles at_.cove, step := m, pc := k.pc }
        let s1 := s.modCove at_.cove fun c => c.modSp fun p => { p with reqs := p.reqs ++ [q] }
        s1.retireNext at_ id
      | code =>
        let s1 := s.modCove at_.cove fun c => c.modSp fun p => p.noteFault code w.hdl.toNat at_.core 0
        s1.exception at_ code

/-- SPLD (R115): 8 bytes into g[RT], g[RT + 1]; RT even, SZ 0b00. -/
def execSpld (at_ : CoreRef) (w : HFields) (s : State) : Out :=
  issue s at_ (sameSp w) (w.rt.getLsbD 0 || w.sz != 0) { g := [w.ra], wg := [w.rt, w.rt + 1] } fun s =>
    spAccess s at_ w 8 false false
/-- SPST (R115): 8 bytes from g[RT], g[RT + 1]. -/
def execSpst (at_ : CoreRef) (w : HFields) (s : State) : Out :=
  issue s at_ (sameSp w) (w.rt.getLsbD 0 || w.sz != 0) { g := [w.ra, w.rt, w.rt + 1] } fun s =>
    spAccess s at_ w 8 true false
/-- VSPLD (R115): 2^(SZ + 3) bytes into v[RT], the rest cleared. -/
def execVspld (at_ : CoreRef) (w : HFields) (s : State) : Out :=
  issue s at_ (sameSp w) (!vreg w.rt) { g := [w.ra], wv := [w.rt.toNat] } fun s =>
    spAccess s at_ w (2 ^ (w.sz.toNat + 3)) false true
/-- VSPST (R115): the low 2^(SZ + 3) bytes of v[RT]. -/
def execVspst (at_ : CoreRef) (w : HFields) (s : State) : Out :=
  issue s at_ (sameSp w) (!vreg w.rt) { g := [w.ra], v := [w.rt.toNat] } fun s =>
    spAccess s at_ w (2 ^ (w.sz.toNat + 3)) true true

/-- Waits again in FENCE. -/
def sameFence : CoreWait → Bool
  | .fence => true
  | _ => false

/-- FENCE (R116): waits until the core's posted stores are complete. -/
def execFence (at_ : CoreRef) (w : RFields) (s : State) : Out :=
  issue s at_ sameFence (w.res != 0) {} fun s =>
    if storesOut s at_ = 0 then s.retireNext at_ id else s.stall at_ .fence

/-! The bank arbiter (R144, R145). -/

/-- A cycle that the feed loses lengthens the stream and is counted (R84, R144). -/
def Breaker.loseCycles (b : Breaker) (n : Nat) : Breaker :=
  { b with
    running := b.running.map fun r => if r.left = 0 then r else { r with left := r.left + 8 * n }
    ctr := if n = 0 then b.ctr else bump b.ctr 10 n }

/-- A request with its place in the cove's list. -/
abbrev ReqAt := Nat × NarrowReq

/-- Each core presents its oldest request only. -/
def presented : List ReqAt → List Nat → List ReqAt
  | [], _ => []
  | q :: t, seen => if seen.contains q.2.core then presented t seen else q :: presented t (q.2.core :: seen)

/-- Distance of a requester in the rotation after the last one granted: cores 0 to 15 and the DMA engine, 16. -/
def rotDist (last core : Nat) : Nat := (core + 17 - last - 1) % 17

/-- The request that is granted: urgent ones oldest first with ties in rotation, then the others in rotation. -/
def pickReq (last now : Nat) (onlyUrgent : Bool) : List ReqAt → Option ReqAt
  | [] => none
  | q :: t =>
    let urgent (x : ReqAt) : Bool := decide (x.2.since + 8 ≤ now)
    let rest := pickReq last now onlyUrgent t
    if onlyUrgent && !urgent q then rest
    else
      match rest with
      | none => some q
      | some r =>
        let better : Bool :=
          if urgent q && urgent r then
            decide (q.2.since < r.2.since) || (q.2.since == r.2.since && decide (rotDist last q.2.core < rotDist last r.2.core))
          else if urgent q then true
          else if urgent r then false
          else decide (rotDist last q.2.core < rotDist last r.2.core)
        some (if better then q else r)

/-- A requester's next oldest request begins to wait at its bank's arbiter (R144). -/
def presentNext (core now : Nat) : List NarrowReq → List NarrowReq
  | [] => []
  | q :: t => if q.core = core then { q with since := now } :: t else q :: presentNext core now t

/-- Bytes of its row that a granted request takes: all that it asks for, but of the DMA engine's those up to the row's end. -/
def NarrowReq.taken (q : NarrowReq) : Nat := if q.core = 16 then min (64 - q.off % 64) q.size else q.size

/-- The requests left when the one at place `i` is granted; the DMA engine goes on to its next row. DESIGN CHOICE (log entry 194): one
rotation serves all 16 banks. -/
def Scratchpad.granted (p : Scratchpad) (i : Nat) (q : NarrowReq) (now : Nat) : Scratchpad :=
  let n := q.taken
  let next : List NarrowReq := if q.size ≤ n then [] else [{ q with off := q.off + n, size := q.size - n }]
  { p with reqs := presentNext q.core now (p.reqs.take i ++ next ++ p.reqs.drop (i + 1)), lastReq := q.core }

/-- The DMA engine asks the arbiters for the rows of `n` bytes of a handle from offset `f` on (R144): for its transfer `dma`, or for a
packet that lands or is answered on arrival (R241; log entry 149). -/
def Scratchpad.dmaRows (p : Scratchpad) (handle f n : Nat) (write : Bool) (now step : Nat) (dma : Option (BitVec 16) := none) :
    Scratchpad :=
  if n = 0 then p
  else
    { p with reqs := p.reqs ++ [
      { core := 16, write := write, handle := BitVec.ofNat 6 handle, off := f, size := n, rt := 0, vec := true, data := 0
        since := now, step := step, pc := 0, dma := dma }] }

/-- A core that an exception of its oldest access has stopped: its younger accesses have no effect (R129). -/
def Cove.dropReqs (v : Cove) (core : Nat) : Cove :=
  v.modSp fun p => { p with reqs := p.reqs.filter fun q => q.core != core }

end Sys2Proof.Machine
end

