-- ==== Sys2Proof/Machine/PebbleUnits.lean ====
section
/-!
DEFINITION. The instructions that meet the cove's units: breaker issue and waits, the latches of the tide switch, the
control-plane barrier (05 R116 to R121).
-/

namespace Sys2Proof.Machine

/-- Unused bits of an R-format word of OP 0x28 to 0x32 (Table 5.5): `rd`, `ra`, `rb` say which fields are unused. -/
def rxUnused (w : RxFields) (rd ra rb : Bool) : Bool :=
  w.res != 0 || w.fn != 0 || (rd && w.rd != 0) || (ra && w.ra != 0) || (rb && w.rb != 0)

/-- Is (point − s) mod 2^16 below 2^15 (R117)? -/
def reached (point s : BitVec 16) : Bool := decide ((point - s).toNat < 2 ^ 15)

/-- Waits again in BISSUE, for its stores or for the array. -/
def sameIssue : CoreWait → Bool
  | .fence => true
  | _ => false

/-- BISSUE (R116, R117): waits for the core's posted stores, then presents the descriptor; BREAKER_ACCEPT accepts it. -/
def execBissue (at_ : CoreRef) (w : RxFields) (s : State) : Out :=
  issue s at_ sameIssue (rxUnused w false false true || !vreg w.ra) { v := [w.ra.toNat], wg := [w.rd] } fun s =>
    if storesOut s at_ ≠ 0 then s.stall at_ .fence
    else s.stall at_ (.breaker (((s.core at_).rv w.ra.toNat).setWidth 256) w.rd)

/-- Waits again in BWAIT for the same number. -/
def sameBwait (n : BitVec 16) : CoreWait → Bool
  | .bwait m => m == n
  | _ => false

/-- BWAIT (R117). -/
def execBwait (at_ : CoreRef) (w : RxFields) (s : State) : Out :=
  let n := ((s.core at_).rg w.ra).setWidth 16
  issue s at_ (sameBwait n) (rxUnused w true false true) { g := [w.ra] } fun s =>
    if reached (s.cove at_.cove).brk.done n then s.retireNext at_ id else s.stall at_ (.bwait n)

/-- BCNT (R117, R85). -/
def execBcnt (at_ : CoreRef) (w : RxFields) (s : State) : Out :=
  issue s at_ never (rxUnused w false true true) { wg := [w.rd] } fun s =>
    let n := (s.cove at_.cove).brk.counts.get 0 at_.core
    s.retireNext at_ fun k => k.wg w.rd (n.setWidth 32)

/-- Waits again in DWAIT for the same number. -/
def sameDwait (n : BitVec 16) : CoreWait → Bool
  | .dwait m => m == n
  | _ => false

/-- A DMA fault that waits for the core's next DQ or DWAIT (R240) is taken there. -/
def State.takeDmaFault (s : State) (at_ : CoreRef) (code : Code) : State :=
  (s.modCove at_.cove fun c => c.modNet fun n => { n with faults := n.faults.erase at_.core }).exception at_ code

/-- DWAIT (R118, R240). -/
def execDwait (at_ : CoreRef) (w : RxFields) (s : State) : Out :=
  let n := ((s.core at_).rg w.ra).setWidth 16
  issue s at_ (sameDwait n) (rxUnused w true false true) { g := [w.ra] } fun s =>
    let u := (s.cove at_.cove).net
    match u.faults.find at_.core with
    | some code => s.takeDmaFault at_ code
    | none => if reached u.dmaDone n then s.retireNext at_ id else s.stall at_ (.dwait n)

/-! Latches (R119): two entries each; a frozen switch's latches stay as they are (R202). -/

def sameSend (p : Fin 3) : CoreWait → Bool
  | .sendFull q => q == p
  | _ => false

def sameRecv (p : Fin 3) (rd : BitVec 5) : CoreWait → Bool
  | .recvEmpty q r => q == p && r == rd
  | _ => false

/-- A word into the send latch of plane `p`; it can be taken from the following cycle. -/
def sendLatch (s : State) (at_ : CoreRef) (p : Fin 3) (x : Row) : State :=
  let c := s.cove at_.cove
  if c.tide.stopped (s.cycles at_.cove) ∨ 2 ≤ (c.latch at_.core p).send.length then s.stall at_ (.sendFull p)
  else
    (s.modCove at_.cove fun c => c.modLatch at_.core p fun l =>
      { l with send := l.send ++ [(x, s.cycles at_.cove, true)] }).retireNext at_ id

/-- The oldest word of the receive latch of plane `p`, if it was placed in an earlier cycle, goes to `f`; a word whose
parity fails makes the register's parity fail, as `bad` says (R119). -/
def recvLatch (s : State) (at_ : CoreRef) (p : Fin 3) (rd : BitVec 5) (f : PCore → Row → PCore) (bad : PCore → PCore) :
    State :=
  let c := s.cove at_.cove
  match (c.latch at_.core p).recv with
  | [] => s.stall at_ (.recvEmpty p rd)
  | (x, t, ok) :: rest =>
    if c.tide.stopped (s.cycles at_.cove) ∨ s.cycles at_.cove ≤ t then s.stall at_ (.recvEmpty p rd)
    else
      (s.modCove at_.cove fun c => c.modLatch at_.core p fun l => { l with recv := rest }).retireNext at_ fun k =>
        if ok then f k x else bad (f k x)

/-- A general register's parity fails from now on (g0 has no register). -/
def PCore.badG (k : PCore) (r : BitVec 5) : PCore := if r = 0 then k else { k with gBad := r.toNat :: k.gBad }
def PCore.badV (k : PCore) (r : Nat) : PCore := { k with vBad := r :: k.vBad }

/-- TSS: scalar send latch ← g[RA]. -/
def execTss (at_ : CoreRef) (w : RxFields) (s : State) : Out :=
  issue s at_ (sameSend 0) (rxUnused w true false true) { g := [w.ra] } fun s =>
    sendLatch s at_ 0 (((s.core at_).rg w.ra).setWidth 512)
/-- TSV: vector send latch ← v[RA]. -/
def execTsv (at_ : CoreRef) (w : RxFields) (s : State) : Out :=
  issue s at_ (sameSend 1) (rxUnused w true false true || !vreg w.ra) { v := [w.ra.toNat] } fun s =>
    sendLatch s at_ 1 ((s.core at_).rv w.ra.toNat)
/-- TRS: g[RD] ← scalar receive latch. -/
def execTrs (at_ : CoreRef) (w : RxFields) (s : State) : Out :=
  issue s at_ (sameRecv 0 w.rd) (rxUnused w false true true) { wg := [w.rd] } fun s =>
    recvLatch s at_ 0 w.rd (fun k x => k.wg w.rd (x.setWidth 32)) fun k => k.badG w.rd
/-- TRV: v[RD] ← vector receive latch. -/
def execTrv (at_ : CoreRef) (w : RxFields) (s : State) : Out :=
  issue s at_ (sameRecv 1 w.rd) (rxUnused w false true true || !vreg w.rd) { wv := [w.rd.toNat] } fun s =>
    recvLatch s at_ 1 w.rd (fun k x => k.wv w.rd.toNat x) fun k => k.badV w.rd.toNat
/-- TTOK (R121): control send latch ← g[RA][7:0]. -/
def execTtok (at_ : CoreRef) (w : RxFields) (s : State) : Out :=
  issue s at_ (sameSend 2) (rxUnused w true false true) { g := [w.ra] } fun s =>
    sendLatch s at_ 2 ((((s.core at_).rg w.ra).setWidth 8).setWidth 512)
/-- TRTOK: g[RD] ← control receive latch, zero-extended. -/
def execTrtok (at_ : CoreRef) (w : RxFields) (s : State) : Out :=
  issue s at_ (sameRecv 2 w.rd) (rxUnused w false true true) { wg := [w.rd] } fun s =>
    recvLatch s at_ 2 w.rd (fun k x => k.wg w.rd ((x.setWidth 8).setWidth 32)) fun k => k.badG w.rd

/-- TBAR (R121): the core waits for the release of barrier FN[3:0]; its arrival is recorded by BARRIER_ARRIVE. -/
def execTbar (at_ : CoreRef) (w : RxFields) (s : State) : Out :=
  issue s at_ never
    (w.res != 0 || w.rd != 0 || w.ra != 0 || w.rb != 0 || decide (16 ≤ w.fn.toNat)) {} fun s =>
    s.stall at_ (.tbar (w.fn.setWidth 4))

end Sys2Proof.Machine
end

