-- ==== Sys2Proof/Machine/DmaOps.lean ====
section
/-!
DEFINITION. The DMA engine's descriptors, their checks and the packets of a transfer (09 R238 to R243).
-/

namespace Sys2Proof.Machine

/-- A side block of a descriptor (R239), 8 bytes. -/
structure DmaSide where
  kind : Nat
  raw : Nat
  deriving DecidableEq, Repr

def DmaSide.off (d : DmaSide) : Nat := if d.kind = 2 then d.raw % 2 ^ 48 else d.raw % 2 ^ 32
def DmaSide.handle (d : DmaSide) : Nat := (d.raw >>> 32) % 64
def DmaSide.lcove (d : DmaSide) : Nat := (d.raw >>> 38) % 1024
/-- Reserved bits of a side block by its kind. -/
def DmaSide.resv (d : DmaSide) : Bool :=
  match d.kind with
  | 0 => (d.raw >>> 38) % 1024 != 0 || d.raw >>> 48 != 0
  | 1 => d.raw >>> 48 != 0
  | 2 => d.raw >>> 48 != 0
  | _ => d.raw >>> 32 != 0

/-- A DMA descriptor taken apart (Table 9.5). -/
structure DmaDesc where
  op : Nat
  src : DmaSide
  dst : DmaSide
  ordered : Bool
  dlOff : Nat
  length : Nat
  addend : Nat
  resv0 : Bool
  resv1 : Bool
  resv7 : Bool
  deriving DecidableEq, Repr

/-- Table 9.5. -/
def dmaDesc (d : BitVec 256) : DmaDesc :=
  { op := bits d 0 4, src := ⟨bits d 4 2, bits d 64 64⟩, dst := ⟨bits d 6 2, bits d 128 64⟩, ordered := bits d 8 1 = 1
    dlOff := bits d 16 16, length := bits d 32 24, addend := bits d 192 32
    resv0 := bits d 9 7 ≠ 0, resv1 := bits d 56 8 ≠ 0, resv7 := bits d 224 32 ≠ 0 }

/-- The code of the first check that fails, in the order of the list (R13). -/
def firstCode : List (Bool × Code) → Code
  | [] => 0
  | (bad, code) :: t => if bad then code else firstCode t

/-- Checks of a side block in byte-offset order (R240). The handle checks of R142 apply where the side is `used`: no bytes are
written through a handle when the length is 0 (R13). -/
def sideChecks (p : Scratchpad) (y : Bay) (d : DmaSide) (used : Bool) (len : Nat) (write : Option (Steps × Nat)) :
    List (Bool × Code) :=
  let hc := ((p.handle d.handle).check d.off len none (if len = 0 then none else write)).1
  [(d.off % 8 ≠ 0, 0x7012),
   (d.kind = 0 ∧ used ∧ hc ≠ 0, hc),
   (d.kind = 1 ∧ (719 < d.lcove ∨ !y.has d.lcove), 0x7013),
   (d.resv, 0x7011)]

/-- Has the running work an input area, an output area? -/
def Bay.hasInput (y : Bay) : Bool := match y.run with
  | some w => w.inLen != 0
  | none => y.berths.rows.any fun r => r.2.inLen != 0
def Bay.hasOutput (y : Bay) : Bool := match y.run with
  | some w => w.outLen != 0
  | none => !y.berths.rows.isEmpty

/-- The checks of words 0 and 1 after the kinds (R240). -/
def wordChecks (d : DmaDesc) : List (Bool × Code) :=
  [(d.resv0, 0x7011), (16383 < d.dlOff, 0x7014), (16776960 < d.length, 0x7015), (d.length % 8 ≠ 0, 0x7012), (d.resv1, 0x7011)]

/-- The check of a descriptor at DQ (R240): its first fault in byte-offset order, 0 if none. A no-op is checked as the others are
(R13); a side that the operation does not reach names no handle that could be judged (log entry 141). DESIGN CHOICE (log entry 200): a local side block of a no-op that is all zero names no handle. -/
def dmaCheck (p : Scratchpad) (y : Bay) (m : Nat) (d : DmaDesc) : Code :=
  if d.op = 0 then
    firstCode
      (([(d.src.kind = 3 ∧ !y.hasInput, 0x7011), (d.dst.kind = 3 ∧ !y.hasOutput, 0x7011)] : List (Bool × Code)) ++ wordChecks d
       ++ sideChecks p y d.src (d.src.raw ≠ 0) 0 none ++ sideChecks p y d.dst (d.dst.raw ≠ 0) 0 none
       ++ ([(d.resv7, 0x7011)] : List (Bool × Code)))
  else if d.op = 1 then
    firstCode
      (([(d.src.kind = 3 ∧ !y.hasInput, 0x7011), (d.dst.kind = 3 ∧ !y.hasOutput, 0x7011)] : List (Bool × Code)) ++ wordChecks d
       ++ sideChecks p y d.src true d.length none ++ sideChecks p y d.dst true d.length (some (y.st, m))
       ++ ([(d.addend ≠ 0, 0x7011), (d.resv7, 0x7011)] : List (Bool × Code)))
  else if d.op = 2 then
    firstCode
      (([(d.src.kind = 3, 0x7011), (2 ≤ d.dst.kind, 0x7011)] : List (Bool × Code)) ++ wordChecks d
       ++ sideChecks p y d.src false d.length none
       ++ ([(d.dst.off % 8 ≠ 0, 0x7012), (15 < d.dst.handle, 0x7011)] : List (Bool × Code))
       ++ sideChecks p y d.dst false d.length none ++ ([(d.resv7, 0x7011)] : List (Bool × Code)))
  else 0x7011

/-- The handle that a class 0x5 code of a descriptor concerns: the source's, if that is the one at fault. -/
def DmaDesc.faultHandle (d : DmaDesc) (p : Scratchpad) (y : Bay) (m : Nat) : Nat :=
  if firstCode (sideChecks p y d.src true d.length none) = dmaCheck p y m d then d.src.handle else d.dst.handle

/-- Packets of a transfer (R241). -/
def DmaDesc.packets (d : DmaDesc) : Nat := (d.length + 255) / 256
/-- Bytes of packet `i`. -/
def DmaDesc.size (d : DmaDesc) (i : Nat) : Nat := min 256 (d.length - 256 * i)
/-- Deadline offset: what the descriptor asks for, or the default of its kind (R230, R239, Table 9.4). -/
def DmaDesc.offset (d : DmaDesc) : Nat := if d.dlOff ≠ 0 then d.dlOff else if d.op = 2 then 0 else dlDma

/-- The engine retires completed transfers from the head of its queue; a freed tag enters quarantine (R238). -/
def retireHead (n : Net) (cn : Nat) : Net :=
  match n.dma with
  | [] => n
  | d :: t =>
    if d.done then
      { n with dma := t, dmaDone := d.seq
               tagQuar := if d.started then n.tagQuar.put d.tag cn else n.tagQuar }
    else n

/-- A transfer of a cove, by tag and generation, that is running. -/
def Net.transfer (n : Net) (tag gen : Nat) : Option Dma :=
  n.dma.find? fun d => d.started && !d.done && d.tag == tag && d.gen.toNat == gen

/-- Changes the transfer of a tag. -/
def Net.modTransfer (n : Net) (tag : Nat) (f : Dma → Dma) : Net :=
  { n with dma := n.dma.map fun d => if d.started && !d.done && d.tag == tag then f d else d }

/-- The DMA error registers (Table 9.10). -/
def Net.noteDma (n : Net) (code : Code) (core : Nat) : Net := { n with errCode := code, errCore := BitVec.ofNat 4 core }

/-- The routers of the agent that a side of a transfer lies at, none for a cove (R227). -/
def State.sideRouters (s : State) (b : Nat) (side : DmaSide) : List Nat :=
  match side.kind with
  | 2 => stackRouters ((s.locate b side.off).map Prod.fst |>.getD 0)
  | 3 => jettyRouters
  | _ => []

/-- A packet of a transfer with the header every packet of it carries. -/
def dmaHeader (s : State) (c : Nat) (d : Dma) (type : Nat) (i : Nat) (side : DmaSide) : Packet :=
  { blankPacket with
    type := BitVec.ofNat 4 type, ordered := (dmaDesc d.desc).ordered, agent := 2 ≤ side.kind
    dstLog := if side.kind = 1 then some (BitVec.ofNat 10 side.lcove) else none
    bay := BitVec.ofNat 4 ((s.bayOf c).getD 0), step := BitVec.ofNat 2 d.step, attempt := BitVec.ofNat 2 d.attempt
    stepped := d.step != 0, tag := BitVec.ofNat 12 d.tag, gen := d.gen
    addr := BitVec.ofNat 48 (side.off + 256 * i)
    handle := if side.kind = 1 then some (BitVec.ofNat 6 side.handle) else none }

/-- A packet of a transfer goes to the injector of its cove; the router of an agent is chosen as it enters (R227). -/
def State.sendDma (s : State) (c : Nat) (d : Dma) (side : DmaSide) (p : Packet) : State :=
  s.post c { agent := false, off := (dmaDesc d.desc).offset, to_ := s.sideRouters ((s.bayOf c).getD 0) side, p := p }

/-- DMA_WRITE packet `i` of a transfer with its data (R241). -/
def dmaWrite (s : State) (c : Nat) (d : Dma) (i : Nat) (last bad : Bool) (data : List Byte) : Packet :=
  let x := dmaDesc d.desc
  { dmaHeader s c d 2 i x.dst with
    last := last, count := if last then BitVec.ofNat 16 x.packets else 0, payload := data, bad := bad }

/-- DMA_READ packet `i` of a transfer. -/
def dmaRead (s : State) (c : Nat) (d : Dma) (i : Nat) : Packet :=
  let x := dmaDesc d.desc
  { dmaHeader s c d 3 i x.src with count := BitVec.ofNat 16 (x.size i) }

/-- Rows of a handle range of which a byte in the range fails parity (R134). -/
def Scratchpad.failingRows (p : Scratchpad) (e : HandleEntry) (f n : Nat) : List (Nat × Nat) :=
  ((List.range ((f % 64 + n + 63) / 64)).filter fun i =>
    let r := e.place (f / 64 + i)
    let from_ := if i = 0 then f % 64 else 0
    p.rowBad r.1 r.2 from_ (min 64 (f % 64 + n - 64 * i) - from_)).map fun i => e.place (f / 64 + i)

/-- A byte of a handle is stored with a parity bit that does not match it (R134). -/
def Scratchpad.spoil (p : Scratchpad) (e : HandleEntry) (f : Nat) : Scratchpad :=
  let (b, r) := e.place (f / 64)
  match p.spareOf b r with
  | some k => { p with spareBad := p.spareBad ++ [b * 1024 + k * 64 + f % 64] }
  | none => { p with bad := p.bad ++ [b * 131072 + r * 64 + f % 64] }

/-- A parity error met by an agent other than a core: kept in the scratchpad's registers, a hardware error of the cove in
its step (R103, R129, R134). -/
def State.rowParity (s : State) (c bank row : Nat) (reader : BitVec 3) : State :=
  (s.modCove c fun v => v.noteParity bank row reader s.clk.elapsed).hwError c 0x5020

/-- The DMA engine finds rows that fail parity. -/
def State.rowsParity (s : State) (c : Nat) (rows : List (Nat × Nat)) : State :=
  rows.foldl (fun t r => t.rowParity c r.1 r.2 2) s

end Sys2Proof.Machine
end

