-- ==== Sys2Proof/Machine/BreakerOps.lean ====
section
/-!
DEFINITION. The breaker array's descriptors and their checks (04 R81 to R87), operand reading (R67, R82), accumulation
(R68 to R71), checksums and their comparison (R93 to R95), and signatures (13 R337).
-/

namespace Sys2Proof.Machine

/-- An operand of a tile descriptor. -/
structure TileOperand where
  handle : Nat
  fmt : Nat
  blk : Nat
  elemRow : Nat
  scaleRow : Nat
  deriving DecidableEq, Repr

/-- A tile descriptor taken apart (Table 4.3). -/
structure TileDesc where
  op : Nat
  shape : Nat
  kblk : Nat
  accLoad : Bool
  headroom : Bool
  rmode : Nat
  rangeAct : Bool
  tol : Nat
  a : TileOperand
  b : TileOperand
  c : TileOperand
  d : TileOperand
  rangeL : Nat
  tag : BitVec 16
  resv0 : Bool
  resv4 : Bool
  resv6 : Bool
  resv7 : Bool
  deriving DecidableEq, Repr

/-- Table 4.3. -/
def tileDesc (d : BitVec 256) : TileDesc :=
  { op := bits d 0 4, shape := bits d 4 2, kblk := bits d 6 12, accLoad := bits d 18 1 = 1, headroom := bits d 19 1 = 1
    rmode := bits d 20 2, rangeAct := bits d 22 1 = 1, tol := bits d 28 4
    a := ⟨bits d 32 6, bits d 38 4, bits d 42 6, bits d 48 16, bits d 64 16⟩
    b := ⟨bits d 96 6, bits d 102 4, bits d 106 6, bits d 112 16, bits d 80 16⟩
    c := ⟨bits d 128 6, bits d 134 4, 0, bits d 144 16, 0⟩
    d := ⟨bits d 160 6, bits d 166 4, bits d 170 6, bits d 176 16, bits d 192 16⟩
    rangeL := bits d 208 8, tag := BitVec.ofNat 16 (bits d 224 16)
    resv0 := bits d 23 5 ≠ 0, resv4 := bits d 138 6 ≠ 0, resv6 := bits d 216 8 ≠ 0, resv7 := bits d 240 16 ≠ 0 }

/-- M and N of a shape (Table 4.1). -/
def tileShape : Nat → Nat × Nat
  | 0 => (64, 64)
  | 1 => (16, 256)
  | _ => (4, 1024)

/-- Blocks per packing group and rows per group (Table 3.3). -/
def fmtGroup : Nat → Nat × Nat
  | 2 => (2, 1)
  | 3 => (2, 1)
  | 4 => (8, 3)
  | 5 => (8, 3)
  | 6 => (4, 1)
  | 7 => (16, 3)
  | _ => (9, 1)

/-- Element rows of `n` elements (Table 3.3). -/
def elemRows (fmt n : Nat) : Nat :=
  match fmt with
  | 0 => (n + 15) / 16
  | 1 => (n + 31) / 32
  | _ => let (g, r) := fmtGroup fmt; r * ((n / 32 + g - 1) / g)

/-- Scale rows of `n` elements. -/
def scaleRows (fmt n : Nat) : Nat := if fmtBlock fmt then (n / 32 + 63) / 64 else 0

/-- Block size faults of R60 for a format. -/
def blkFault (fmt blk : Nat) : Code :=
  if blk = 0 then 0x4010 else if blk ≠ (if fmtBlock fmt then 32 else 1) then 0x4012 else 0

/-- The checks of an operand's handle and of its element rows against the handle table, for `n` elements. -/
def operandChecks (p : Scratchpad) (o : TileOperand) (n : Nat) (live : Bool) (fmtCode : Code) (blkCode : Code) :
    List (Bool × Code) :=
  let e := p.handle o.handle
  [(live && !e.valid, 0x5011), (fmtCode ≠ 0, fmtCode), (live && e.typed && e.fmt != o.fmt, 0x4033), (blkCode ≠ 0, blkCode),
   (live && decide (e.length < o.elemRow + elemRows o.fmt n), 0x5012)]

/-- The check of an operand's scale rows. -/
def scaleCheck (p : Scratchpad) (o : TileOperand) (n : Nat) (live : Bool) : Bool × Code :=
  let e := p.handle o.handle
  (live && e.valid && fmtBlock o.fmt && decide (e.length < o.scaleRow + scaleRows o.fmt n), 0x5012)

/-- The array's check of a descriptor (R87): the first fault in byte-offset order, 0 if none. DEDUCED (log entry 172): a reserved C_FMT
gives R87's 0x4032, not R59's 0x4011. DESIGN CHOICE (log entry 187): a pairing of formats that is not permitted is judged at B_FMT, after the checks of A. -/
def tileCheck (p : Scratchpad) (d : TileDesc) : Code :=
  if d.op = 0 then 0
  else if d.op = 2 then firstCode [(d.resv0, 0x4035), (d.resv7, 0x4035)]
  else if d.op ≠ 1 then 0x4030
  else
    let (m, n) := tileShape d.shape
    let k := 32 * d.kblk
    let live := d.kblk != 0
    let fmtAB (f : Nat) (other : Option Nat) : Code :=
      if 8 < f then 0x4011
      else if f = 0 then 0x4014
      else match other with
        | none => 0
        | some g => if (f = 1) ≠ (g = 1) ∧ g ≤ 8 ∧ g ≠ 0 then 0x4014 else 0
    let cs := if d.accLoad then operandChecks p d.c (m * n) live (if 1 < d.c.fmt then 0x4032 else 0) 0 else []
    firstCode
      (([(d.shape = 3, 0x4031), (d.rmode = 3, 0x4013), (d.resv0, 0x4035)] : List (Bool × Code))
       ++ operandChecks p d.a (m * k) live (fmtAB d.a.fmt none) (blkFault d.a.fmt d.a.blk)
       ++ [scaleCheck p d.a (m * k) live, scaleCheck p d.b (n * k) live]
       ++ operandChecks p d.b (n * k) live (fmtAB d.b.fmt (some d.a.fmt)) (blkFault d.b.fmt d.b.blk)
       ++ cs.take 4 ++ [(d.resv4, 0x4035)] ++ cs.drop 4
       ++ operandChecks p d.d (m * n) live (if 8 < d.d.fmt then 0x4011 else 0) (blkFault d.d.fmt d.d.blk)
       ++ [scaleCheck p d.d (m * n) live, (d.resv6, 0x4035), (d.resv7, 0x4035)])

/-- The handle that a rejection under 0x5011 or 0x5012 concerns: the first in descriptor order that fails. -/
def tileFaultHandle (p : Scratchpad) (d : TileDesc) : Nat :=
  let (m, n) := tileShape d.shape
  let k := 32 * d.kblk
  let bad (o : TileOperand) (cnt : Nat) : Bool :=
    let e := p.handle o.handle
    !e.valid || decide (e.length < o.elemRow + elemRows o.fmt cnt) || (scaleCheck p o cnt true).1
  if bad d.a (m * k) then d.a.handle
  else if bad d.b (n * k) then d.b.handle
  else if d.accLoad && bad d.c (m * n) then d.c.handle else d.d.handle

/-! Operands (R65, R67, R82). -/

/-- Block `i` of an operand: its element bytes as a number, and its scale byte. -/
def Scratchpad.opBlock (p : Scratchpad) (o : TileOperand) (i : Nat) : Nat × Nat :=
  let e := p.handle o.handle
  let (g, r) := fmtGroup o.fmt
  let off := o.elemRow * 64 + i / g * (r * 64) + i % g * fmtBytes o.fmt
  (leNat (p.handleBytes e off (fmtBytes o.fmt)), leNat (p.handleBytes e (o.scaleRow * 64 + i) 1))

/-- FP32 or BF16 element `i` of an operand, with its flush count (R66). -/
def Scratchpad.opFloat (p : Scratchpad) (o : TileOperand) (i : Nat) : FVal × Nat :=
  let e := p.handle o.handle
  if o.fmt = 1 then bf16Val (BitVec.ofNat 16 (leNat (p.handleBytes e (o.elemRow * 64 + 2 * i) 2)))
  else f32Val (BitVec.ofNat 32 (leNat (p.handleBytes e (o.elemRow * 64 + 4 * i) 4)))

/-- Element at row `m`, position `k` of an operand whose shared dimension has `kblk` blocks; an element of an invalid ET byte
makes what it enters NaN (R71). -/
def Scratchpad.opValue (p : Scratchpad) (o : TileOperand) (kblk m k : Nat) : FVal :=
  if o.fmt = 1 then (p.opFloat o (m * (32 * kblk) + k)).1
  else
    let (blk, sc) := p.opBlock o (m * kblk + k / 32)
    match blockElem o.fmt blk (k % 32) with
    | .bad => .nan
    | x => elemVal o.fmt sc x

/-- The rows an operand occupies, as bank and row. -/
def Scratchpad.opRows (p : Scratchpad) (o : TileOperand) (n : Nat) : List (Nat × Nat) :=
  let e := p.handle o.handle
  ((List.range (elemRows o.fmt n)).map fun i => e.place (o.elemRow + i))
    ++ (List.range (scaleRows o.fmt n)).map fun i => e.place (o.scaleRow + i)

/-! Accumulation (R68 to R71). -/

/-- An accumulator with what its additions counted: SAT, DNORM, INVALID. -/
structure Acc where
  v : FVal
  sat : Nat := 0
  dnorm : Nat := 0
  invalid : Nat := 0
  deriving DecidableEq, Repr

/-- Opposite infinities (R71). -/
def oppositeInf : FVal → FVal → Bool
  | .inf a, .inf b => a != b
  | _, _ => false

/-- One addition into an FP32 accumulator (R69). -/
def Acc.add (a : Acc) (x : FVal) : Acc :=
  let r := roundTo 24 false true (fadd a.v x)
  { v := r.1, sat := a.sat + r.2.sat, dnorm := a.dnorm + r.2.dnorm
    invalid := a.invalid + if oppositeInf a.v x then 1 else 0 }

/-- Is a product an infinity times a zero (R71)? -/
def infZero (x y : FVal) : Bool :=
  match x, y with
  | .inf _, .zero _ => true
  | .zero _, .inf _ => true
  | _, _ => false

/-- The exact sum of a list of products, with the INVALID events of sums of opposite infinities. -/
def exactSum : List FVal → FVal → Nat → FVal × Nat
  | [], a, n => (a, n)
  | x :: t, a, n => exactSum t (fadd a x) (if oppositeInf a x then n + 1 else n)

/-- One block position of a main cell: the block value enters the accumulator once (R68), or, for BF16, its 32 products one
by one (R70). -/
def accBlock (bf16 : Bool) (xs ys : List FVal) (a : Acc) : Acc :=
  let ps := List.zipWith fmul xs ys
  let iz := (List.zipWith infZero xs ys).count true
  if bf16 then
    let r := ps.foldl Acc.add a
    { r with invalid := r.invalid + iz }
  else
    let (v, n) := exactSum ps (.zero false) 0
    let r := a.add v
    { r with invalid := r.invalid + iz + n }

/-- The accumulator of output element (m, n) after the whole shared dimension (R69). -/
def mainCell (p : Scratchpad) (d : TileDesc) (m n : Nat) : Acc :=
  let c0 : Acc :=
    if d.accLoad then
      let x := p.opFloat d.c (m * (tileShape d.shape).2 + n)
      { v := x.1, dnorm := x.2 }
    else { v := .zero false }
  (List.range d.kblk).foldl (fun a kb =>
    let ks := (List.range 32).map fun i => kb * 32 + i
    accBlock (d.a.fmt = 1) (ks.map (p.opValue d.a d.kblk m)) (ks.map (p.opValue d.b d.kblk n)) a) c0

/-- Output element of main cell (r, c): m = r mod M, n = (r div M) × 64 + c (R81). -/
def cellElem (d : TileDesc) (r c : Nat) : Nat × Nat :=
  let m := (tileShape d.shape).1
  (r % m, r / m * 64 + c)

/-- INVALID events of an operand's own elements: NaN elements, elements under a NaN scale, elements of invalid ET bytes
(R64, R71). -/
def invalidElems (p : Scratchpad) (o : TileOperand) (kblk rows : Nat) : Nat :=
  if o.fmt = 1 then
    ((List.range (rows * 32 * kblk)).filter fun i => (p.opFloat o i).1 == .nan).length
  else
    ((List.range (rows * kblk)).map fun i =>
      let (blk, sc) := p.opBlock o i
      ((List.range 32).filter fun j =>
        sc == 255 || (match blockElem o.fmt blk j with
          | .nan => true
          | .bad => true
          | _ => false)).length).sum

/-- DNORM events of an operand's own elements (R66). -/
def flushedElems (p : Scratchpad) (o : TileOperand) (n : Nat) : Nat :=
  if o.fmt ≤ 1 then ((List.range n).map fun i => (p.opFloat o i).2).sum else 0

/-! Checksums (R93, R94). -/

/-- FP32 addition of the check adders and encoders: nearest even, flushed. DESIGN CHOICE (log entry 174): a sum beyond the range saturates
to the largest finite value. -/
def fsum (a b : FVal) : FVal := (roundTo 24 false true (fadd a b)).1

def fsumList (l : List FVal) : FVal :=
  match l with
  | [] => .zero false
  | x :: t => t.foldl fsum x

def fabs : FVal → FVal
  | .inf _ => .inf false
  | .zero _ => .zero false
  | .fin m e => .fin (m.natAbs : Int) e
  | v => v

/-- Rounding to a 64-bit significand (the wide accumulator of R93). DESIGN CHOICE (log entry 174): to nearest even, after every
product. -/
def round64 : FVal → FVal
  | .fin m e =>
    let q := ilog2 m e - 63
    let n := roundNat false m.natAbs (e - q)
    .fin (if m < 0 then -(n : Int) else n) q
  | v => v

/-- The two operands of checksum cell `i` at position `k` (Table 4.5): 0 to 63 row cells, 64 to 127 column cells, 128 the
corner. -/
def ckOperands (a b : Nat → Nat → FVal) (shape i k : Nat) : FVal × FVal :=
  let (m, n) := tileShape shape
  let sumA := fsumList ((List.range m).map fun j => a j k)
  if i < 64 then (sumA, fsumList ((List.range (64 / m)).map fun g => b (64 * g + i) k))
  else if i < 128 then
    (a ((i - 64) % m) k, fsumList ((List.range 64).map fun c => b (64 * ((i - 64) / m) + c) k))
  else (sumA, fsumList ((List.range n).map fun j => b j k))

/-- A checksum cell's accumulator over the whole shared dimension. -/
def ckCell (a b : Nat → Nat → FVal) (d : TileDesc) (i : Nat) (seed : FVal) : Acc :=
  (List.range d.kblk).foldl (fun acc kb =>
    let w := (List.range 32).foldl (fun (x : FVal) j =>
      let (u, v) := ckOperands a b d.shape i (kb * 32 + j)
      round64 (fadd x (fmul u v))) (.zero false)
    let r := roundTo 24 false true w
    { acc.add r.1 with sat := (acc.add r.1).sat + r.2.sat }) { v := seed }

/-- The seed of a checksum cell from the loaded C tile, in row order (R93). -/
def ckSeed (f : FVal → FVal) (p : Scratchpad) (d : TileDesc) (i : Nat) : FVal :=
  if !d.accLoad then .zero false
  else
    let cv (r c : Nat) : FVal :=
      let (m, n) := cellElem d r c
      f (p.opFloat d.c (m * (tileShape d.shape).2 + n)).1
    if i < 64 then fsumList ((List.range 64).map fun r => cv r i)
    else if i < 128 then fsumList ((List.range 64).map fun c => cv (i - 64) c)
    else fsumList ((List.range 4096).map fun e => cv (e / 64) (e % 64))

/-! Comparison (R94, R95). -/

/-- What one comparison found. -/
inductive Cmp where
  | pass | skip | fail
  deriving DecidableEq, Repr

/-- NaN or infinite. -/
def nonFinite : FVal → Bool
  | .nan => true
  | .inf _ => true
  | _ => false

/-- Fails when |P − Ĉ| > TOL_REL × M̂ + TOL_ABS (R94); skipped with NaN, infinity or a saturated accumulator (R95). -/
def compareCk (p c mag rel abs : FVal) (sat : Bool) : Cmp :=
  if nonFinite p || nonFinite c || sat then .skip
  else if flt (fadd (fmul rel mag) abs) (fabs (fadd p c.neg)) then .fail else .pass

/-- Neighbouring pairs combined, in order (R94, R111). -/
def pairs {α : Type} (f : α → α → α) : List α → List α
  | a :: b :: t => f a b :: pairs f t
  | l => l

/-- The row tree over 64 outputs. -/
def tree64 (l : List FVal) : FVal :=
  let f := pairs fsum
  ((f (f (f (f (f (f l)))))).head?).getD (.zero false)

/-- The comparisons of a drained operation: rows 0 to 63 and 64 for the row cells against the corner, then the same for
columns. DESIGN CHOICE (log entry 175): the injected fault of INJ_CK makes both corner comparisons fail, also where R95 would skip
them. DESIGN CHOICE (log entry 192): the corner adds the 64 cells in FP32 in index order. -/
def Stream.comparisons (x : Stream) (out : Nat → FVal) : List Cmp × List Cmp :=
  let val (t : Tab Word) (i : Nat) : FVal := (f32Val (t.get 0 i)).1
  let rel := (f32Val x.op.tolRel).1
  let abs := (f32Val x.op.tolAbs).1
  let cell (i : Nat) (cells : List Nat) (sum : FVal) : Cmp :=
    compareCk sum (val x.ck i) (val x.mag i) rel abs
      (x.satCk.contains i || cells.any x.satMain.contains)
  let cols := (List.range 64).map fun c =>
    let cells := (List.range 64).map fun r => r * 64 + c
    cell c cells (fsumList (cells.map out))
  let rows := (List.range 64).map fun r =>
    let cells := (List.range 64).map fun c => r * 64 + c
    cell (64 + r) cells (tree64 (cells.map out))
  let corner (base : Nat) : Cmp :=
    if x.op.injCk then .fail
    else
      let ids := (List.range 64).map fun i => base + i
      compareCk (fsumList (ids.map (val x.ck))) (val x.ck 128) (fsumList (ids.map (val x.mag))) rel abs
        (x.satCk.contains 128 || ids.any x.satCk.contains)
  (rows ++ [corner 0], cols ++ [corner 64])

/-- The one failing comparison of a list, 0x7F for none or several (Table 4.13). -/
def failAt (l : List Cmp) : BitVec 7 :=
  match (List.range l.length).filter fun i => l.getD i .pass == .fail with
  | [i] => BitVec.ofNat 7 i
  | _ => 0x7F

/-! Streaming (R84, R99, R100). -/

/-- Does the array stream or drain something: no no-op? -/
def Breaker.busy (b : Breaker) : Bool := b.running.any fun r => !r.op.noop


/-- Does a FILL stream? -/
def Breaker.fills (b : Breaker) : Bool := b.running.any fun r => r.left != 0 && (tileDesc r.op.desc).op == 2

/-- Swell fill or FILL runs (R99, R102): a FILL streams, or the level is above 0 and no operation streams. -/
def Breaker.filling (b : Breaker) : Bool := b.fills || (b.level != 0 && !b.streams)

/-- The first stream that has not ended moves on by `n` eighths of a cycle. -/
def streamOn (n : Nat) : List Stream → List Stream
  | [] => []
  | r :: t => if r.left = 0 then r :: streamOn n t else { r with left := r.left - n } :: t

/-- Cycles before cycle `cyc` in which cells at level `l` switch: the first `l` of every frame of 8 (R99; log entry 193). -/
def activeBefore (l cyc : Nat) : Nat := cyc / 8 * l + min (cyc % 8) l

/-- Streaming is accounted for up to cycle `cyc`, frame by frame (R99). -/
def Breaker.settle (b : Breaker) (cyc : Nat) : Breaker :=
  { b with running := streamOn (8 * (activeBefore b.level cyc - activeBefore b.level b.workAt)) b.running, workAt := cyc }

/-- Cells' cycles for a block of the shared dimension (Table 4.2). -/
def TileDesc.blockCycles (d : TileDesc) : Nat :=
  let per (f : Nat) : Nat := if f = 1 then 256 else if f = 2 ∨ f = 3 then 64 else if f = 8 then 16 else 32
  if d.a.fmt = 8 ∧ d.b.fmt = 8 then 16 else max 32 (max (per d.a.fmt) (per d.b.fmt))

/-- Rows that an operation reads (R84), by operand: its handle, its first row there and how many. -/
def TileDesc.reading (d : TileDesc) : List (Nat × Nat × Nat) :=
  let (m, n) := tileShape d.shape
  let k := 32 * d.kblk
  [(d.a.handle, d.a.elemRow, elemRows d.a.fmt (m * k)), (d.a.handle, d.a.scaleRow, scaleRows d.a.fmt (m * k)),
   (d.b.handle, d.b.elemRow, elemRows d.b.fmt (n * k)), (d.b.handle, d.b.scaleRow, scaleRows d.b.fmt (n * k))]
    ++ if d.accLoad then [(d.c.handle, d.c.elemRow, elemRows d.c.fmt (m * n))] else []

/-- Rows F of an operation. -/
def TileDesc.feedRows (d : TileDesc) : Nat := (d.reading.map fun r => r.2.2).sum

/-- Stream length S (R84). -/
def TileDesc.streamCycles (d : TileDesc) : Nat := max (d.kblk * d.blockCycles) ((d.feedRows + 7) / 8)

/-- Cycles by which the feed limit lengthens a stream (R84). -/
def feedExcess (d : TileDesc) : Nat := d.streamCycles - d.kblk * d.blockCycles

/-- The wide reads of `n` rows from row `i` of a handle: at most 8 consecutive rows each. DESIGN CHOICE (log entry 190). -/
def wideReads (i n : Nat) : List (List Nat) :=
  (List.range ((n + 7) / 8)).map fun g => (List.range (min 8 (n - 8 * g))).map fun j => i + 8 * g + j

/-- Rows of a wide read in each bank. -/
def HandleEntry.inBank (e : HandleEntry) (rows : List Nat) (bank : Nat) : Nat :=
  (rows.filter fun i => (e.place i).1 == bank).length

/-- Cycles by which a wide read over few banks exceeds one (R137). -/
def HandleEntry.readExcess (e : HandleEntry) (rows : List Nat) : Nat :=
  ((List.range 16).map (e.inBank rows)).foldl max 0 - 1

/-- Requests of a wide read that a bank refuses, one grant a cycle (Table 6.5). -/
def HandleEntry.refusals (e : HandleEntry) (rows : List Nat) (bank : Nat) : Nat :=
  let n := e.inBank rows bank
  n * (n - 1) / 2

/-- Conflict cycles of an operation's own reads, and the refusals at a bank (R84, R137). -/
def Scratchpad.feedConflicts (p : Scratchpad) (d : TileDesc) : Nat :=
  (d.reading.map fun r => ((wideReads r.2.1 r.2.2).map (p.handle r.1).readExcess).sum).sum
def Scratchpad.feedRefusals (p : Scratchpad) (d : TileDesc) (bank : Nat) : Nat :=
  (d.reading.map fun r => ((wideReads r.2.1 r.2.2).map fun w => (p.handle r.1).refusals w bank).sum).sum

/-- The scratchpad's conflict counters after the feed's refusals `f`, by bank. -/
def Scratchpad.countRefusals (p : Scratchpad) (f : Nat → Nat) : Scratchpad :=
  { p with conflict := (List.range 16).foldl (fun t b => if f b = 0 then t else bump t b (f b)) p.conflict }

/-! Signatures (R337): CRC-64 of ECMA-182 from all ones, most significant bit first. -/

def crcBits : Nat → BitVec 64 → BitVec 64
  | 0, r => r
  | n + 1, r => crcBits n (if r.msb then (r <<< 1) ^^^ 0x42F0E1EBA9EA3693#64 else r <<< 1)

def crc64 (l : List Byte) : BitVec 64 :=
  l.foldl (fun (r : BitVec 64) (b : Byte) =>
    let x : BitVec 64 := b.setWidth 64
    crcBits 8 (r ^^^ (x <<< (56 : Nat)))) (BitVec.allOnes 64)

end Sys2Proof.Machine
end

