-- ==== Sys2Proof/Machine/Breaker.lean ====
section
/-!
DEFINITION. The breaker array's events: acceptance, start and completion of an operation, the governor, tolerance entries,
BRK_CTRL, and the arrival of a shadow signature (chapter 04; 13 R333 to R338).
-/

namespace Sys2Proof.Machine

/-- The attempt of the bay's live step `n`. -/
def State.attemptOf (s : State) (c n : Nat) : Nat :=
  match s.bayOf c with
  | none => 0
  | some b => (((s.bay b).st.live.find? fun r => r.no == n).map StepRec.attempt).getD 0

/-! Pairs (R335, R336). A pair table lists its entries by PAIR + 32,768 × ROLE. -/

/-- Is the pair entry enabled at the effective level that the primary's slot had in the primary's step `n` (R52, R336)? -/
def State.pairEnabled (s : State) (c n : Nat) (e : Word) : Bool :=
  match (s.stepsAt c).1.live.find? fun r => r.no == n with
  | none => false
  | some r =>
    let slot := if bits e 15 1 = 0 then s.logOf c else some (bits e 16 10)
    decide (bits e 26 3 ≤ if slot.any r.watch.contains then 5 else r.level)

/-- What a TAG makes of an operation of step `m`: primary of a pair, shadow of a pair of step m − 1, or a shadow that completes as a no-op. -/
def State.pairing (s : State) (c m : Nat) (tag : BitVec 16) : Option Nat × Option Nat × Bool :=
  let pair := tag.toNat % 2 ^ 15
  let shadow := tag.getLsbD 15
  if shadow then
    match (s.cove c).ig.pairs.find (pair + 2 ^ 15) with
    | some e => if pair ≠ 0 ∧ s.pairEnabled c (m - 1) e then (none, some pair, false) else (none, none, true)
    | none => (none, none, true)
  else
    match (s.cove c).ig.pairs.find pair with
    | some e => if pair ≠ 0 ∧ s.pairEnabled c m e then (some pair, none, false) else (none, none, false)
    | none => (none, none, false)

/-- Reading the pair table for a TAG with a PAIR: where the entry read fails its parity, the table is written again from the cached
program first (R335). Whether it fails is free (log entry 186). -/
def State.readPairs (s : State) (c : Nat) (tag : BitVec 16) : State :=
  if tag.toNat % 2 ^ 15 = 0 then s
  else
    let s1 := s.spend 1
    if s.freeNat % 2 = 0 then s1
    else
      match s.bayOf c, s.logOf c with
      | some b, some l => match (s.bay b).program with
        | some p => s1.modCove c fun v => v.modIg fun g => { g with pairs := p.pairTable (s.bay b).shape l }
        | none => s1
      | _, _ => s1

/-- The operation of a pair is noted as accepted (R338). -/
def Integ.notePaired (g : Integ) (op : TileOp) (att : Nat) : Integ :=
  { g with paired := g.paired
      ++ (op.primary.map fun p => ⟨p, op.step, op.attempt, (tileDesc op.desc).tag.toNat⟩).toList
      ++ (op.shadow.map fun p => ⟨p + 2 ^ 15, op.step - 1, att, (tileDesc op.desc).tag.toNat⟩).toList }

/-! Acceptance (R85 to R88). -/

/-- Cores that present a descriptor, in rotation after the core accepted last. -/
def Cove.presenting (v : Cove) : Option (Nat × BitVec 256 × BitVec 5) :=
  ((List.range 16).map fun i => (v.brk.lastCore + 1 + i) % 16).findSome? fun k =>
    match (v.core k).wait with
    | some (.breaker d rd) => if (v.core k).state = 3 then some (k, d, rd) else none
    | _ => none

/-- R50 for D_HANDLE at acceptance. -/
def tileJudge (s : State) (c : Nat) (d : TileDesc) : Code × Judge :=
  let e := (s.cove c).sp.handle d.d.handle
  let (t, m) := s.stepsAt c
  if d.op ≠ 1 ∨ d.kblk = 0 then (0, .ok)
  else if e.reload then (0x5017, .fault)
  else
    match t.judge e m with
    | .fault => (0x5017, .fault)
    | j => (0, j)

/-- BREAKER_ACCEPT: the descriptor of the next presenting core is accepted and numbered, or rejected. DESIGN CHOICE (log entry 189): a field fault of the descriptor is reported before 0x5017 of D_HANDLE. -/
def execBreakerAccept (cove : Fin 800) (s0 : State) : Out :=
  let c := cove.val
  match (s0.cove c).presenting with
  | none => .next s0
  | some (k, raw, rd) =>
    if 8 ≤ (s0.cove c).brk.queue.length then .next s0
    else
      let s := s0.readPairs c (tileDesc raw).tag
      let v := s.cove c
      let at_ : CoreRef := ⟨cove, Fin.ofNat 16 k⟩
      let d := tileDesc raw
      let code := tileCheck v.sp d
      let (pri, sh, noop) := s.pairing c (s.stepsAt c).2 d.tag
      -- a drain step holds only shadow tiles (R55, log entry 152)
      let drains := ((s.stepsAt c).1.newest.any StepRec.drain) && sh.isNone
      let idle := d.op = 0 ∨ d.kblk = 0 ∨ (d.op = 1 ∧ (noop ∨ drains))
      let j := if idle then ((0 : Code), Judge.ok) else tileJudge s c d
      let fault := if code = 0 then j.1 else code
      if fault ≠ 0 then
        let s1 := s.modCove c fun v =>
          { v with brk := { v.brk with rejCode := fault, rejCore := BitVec.ofNat 4 k }
                   sp := if fault.toNat / 4096 = 5 then
                       v.sp.noteFault fault (if fault = 0x5017 then d.d.handle else tileFaultHandle v.sp d) 0 1 else v.sp }
        .next (s1.exception at_ fault)
      else
        let (t, m) := s.stepsAt c
        let seq := v.brk.seq + 1
        let paired := d.op = 1 ∧ d.kblk ≠ 0
        let op : TileOp :=
          { desc := raw, seq := seq, core := k, step := m, attempt := (t.newest.map StepRec.attempt).getD 0
            tolRel := v.brk.tolRel.get 0 d.tol, tolAbs := v.brk.tolAbs.get 0 d.tol
            injCk := d.op == 1 && !idle && v.brk.injCk
            shadow := if paired then sh else none, primary := if paired then pri else none, noop := idle }
        let s1 := s.modCove c fun v =>
          { v with
            brk := { v.brk with
              queue := v.brk.queue ++ [op], seq := seq, lastCore := k
              injCk := v.brk.injCk && !op.injCk }
            ig := if paired ∧ noop then { v.ig with ctr := bump v.ig.ctr 4 1 } else v.ig.notePaired op (s.attemptOf c (m - 1)) }
        .next (s1.retireNext at_ fun q => q.wg rd (seq.setWidth 32))

/-! Start (R88 to R91). -/

/-- Handles an operation reads. -/
def TileDesc.reads (d : TileDesc) : List Nat :=
  [d.a.handle, d.b.handle] ++ if d.accLoad then [d.c.handle] else []

/-- Does the queue head wait under R50 (R88) or for a draining operation's output (R91)? -/
def State.headHazard (s : State) (c : Nat) (op : TileOp) : Bool :=
  let d := tileDesc op.desc
  !op.noop && d.op == 1 &&
    ((s.stepsAt c).1.judge ((s.cove c).sp.handle d.d.handle) op.step == .stall ||
     (s.cove c).brk.running.any fun r =>
       let e := tileDesc r.op.desc
       !r.op.noop && e.op == 1 && r.left == 0 && d.reads.contains e.d.handle)

/-- Does the queue head wait for a hazard or an accumulator set (R88, R90, R91)? DESIGN CHOICE (log
entry 148): a FILL and a no-op toggle no set but take one of the two places. -/
def State.headWaits (s : State) (c : Nat) (op : TileOp) : Bool :=
  decide (2 ≤ (s.cove c).brk.running.length) || s.headHazard c op

/-- The streamed operation: its accumulators and checksum cells (R68 to R71, R93, R94). -/
def streamOf (p : Scratchpad) (op : TileOp) (set : Bool) (cyc : Nat) (parity : Bool) : Stream × Nat × Nat × Nat :=
  let d := tileDesc op.desc
  let (m, n) := tileShape d.shape
  let cells := (List.range 4096).map fun e =>
    let (i, j) := cellElem d (e / 64) (e % 64)
    (e, mainCell p d i j)
  let a := p.opValue d.a d.kblk
  let b := p.opValue d.b d.kblk
  let cks := (List.range 129).map fun i =>
    (i, ckCell a b d i (ckSeed id p d i),
      ckCell (fun x k => fabs (a x k)) (fun x k => fabs (b x k)) d i (ckSeed fabs p d i))
  let tab (l : List (Nat × Word)) : Tab Word := l.foldl (fun (t : Tab Word) x => t.set 0 x.1 x.2) {}
  ({ op := op, set := set
     acc := tab (cells.map fun x => (x.1, f32Bits x.2.v))
     satMain := (cells.filter fun x => x.2.sat != 0).map Prod.fst
     ck := tab (cks.map fun x => (x.1, f32Bits x.2.1.v))
     mag := tab (cks.map fun x => (x.1, f32Bits x.2.2.v))
     satCk := (cks.filter fun x => x.2.1.sat != 0).map Prod.fst
     parity := parity, startCyc := cyc },
   (cells.map fun x => x.2.sat).sum,
   (cells.map fun x => x.2.dnorm).sum + flushedElems p d.a (m * 32 * d.kblk) + flushedElems p d.b (n * 32 * d.kblk),
   (cells.map fun x => x.2.invalid).sum + invalidElems p d.a d.kblk m + invalidElems p d.b d.kblk n)

/-- BREAKER_OP_START: the queue head starts streaming. `lost` names the banks at which its feed is refused beyond the conflicts of
its own reads, a cycle each (R84, R144); `parity` is a row whose parity error the feed finds (R103). DESIGN CHOICE (log entry 191): the first MATMUL after reset uses set 1. -/
def execBreakerOpStart (cove : Fin 800) (lost : List (Fin 16)) (parity : Option (Fin 16 × Fin 2048)) (s : State) : Out :=
  let c := cove.val
  let cyc := s.cycles c
  let v := (s.cove c).modBrk fun b => b.settle cyc
  match v.brk.queue with
  | [] => .next s
  | op :: rest =>
    if s.headWaits c op ∨ v.brk.streams then .next s
    else
      let d := tileDesc op.desc
      let set := !v.brk.accSet
      let pop (f : Breaker → Breaker) : State := s.setCove c (v.modBrk fun b => f { b with queue := rest })
      if op.noop then .next (pop fun b => { b with running := b.running ++ [{ op := op, set := b.accSet }] })
      else if d.op = 2 then
        .next (pop fun b =>
          { b with running := b.running ++ [{ op := op, set := b.accSet, startCyc := cyc, left := 8 * (d.kblk * 32) }] })
      else
        let (m, n) := tileShape d.shape
        let k := 32 * d.kblk
        let rows := v.sp.opRows d.a (m * k) ++ v.sp.opRows d.b (n * k)
          ++ if d.accLoad then v.sp.opRows d.c (m * n) else []
        let bad := (rows.filter fun r => v.sp.rowBad r.1 r.2 0 64).eraseDups
        let found : List (Nat × Nat) := match parity with
          | some r => if rows.contains (r.1.val, r.2.val) && !bad.contains (r.1.val, r.2.val) then bad ++ [(r.1.val, r.2.val)] else bad
          | none => bad
        let own := v.sp.feedConflicts d
        let (x, sat, dnorm, invalid) := streamOf v.sp op set cyc !found.isEmpty
        let s1 := (pop fun b =>
          { b with running := b.running ++ [{ x with left := 8 * (d.streamCycles + own + lost.length) }], accSet := set
                   ctr := bump (countEvents b.ctr sat 0 0 dnorm invalid) 10 (feedExcess d + own + lost.length) }).modCove c
          fun v => v.modSp fun p => p.countRefusals fun b => p.feedRefusals d b + (lost.filter fun x => x.val == b).length
        .next (found.foldl (fun t r => t.rowParity c r.1 r.2 0) s1)

/-! Completion (R72 to R78, R85, R94 to R96, R333, R335 to R338). -/

/-- The bytes an operation writes to D: its element region and its scale region, with the events of conversion. -/
def convertOut (d : TileDesc) (out : Nat → Word) (draw : Nat → Nat) : List Byte × List Byte × Events :=
  let (m, n) := tileShape d.shape
  let cell (i j : Nat) : Nat := (j / 64 * m + i) * 64 + j % 64
  let xs := (List.range (m * n)).map fun k => out (cell (k / n) (k % n))
  let flushes : Events := { dnorm := (xs.map fun w => (f32Val w).2).sum }
  if d.d.fmt ≤ 1 then
    if d.d.fmt = 0 then
      (xs.flatMap fun w => leBytes 4 (f32Bits (f32Val w).1).toNat, [], flushes)
    else
      let r := xs.map (f32ToBf16 (d.rmode = 1))
      (r.flatMap fun x => leBytes 2 x.1.toNat, [], r.foldl (fun (e : Events) x => e.add x.2) {})
  else
    let blocks := (List.range (m * n / 32)).map fun b =>
      let i := b / (n / 32)
      let j := b % (n / 32) * 32
      convBlock d.d.fmt d.rmode d.headroom (fun k => draw (cell i (j + k)))
        ((List.range 32).map fun k => (f32Val (out (cell i (j + k)))).1)
    let (g, r) := fmtGroup d.d.fmt
    let groups := (blocks.length + g - 1) / g
    let group (i : Nat) : List Byte :=
      let bs := ((blocks.drop (i * g)).take g).flatMap fun x => leBytes (fmtBytes d.d.fmt) x.1
      bs ++ List.replicate (r * 64 - bs.length) 0
    let sc := blocks.map fun x => BitVec.ofNat 8 x.2.1
    ((List.range groups).flatMap group, sc ++ List.replicate ((scaleRows d.d.fmt (m * n)) * 64 - sc.length) 0,
      blocks.foldl (fun (e : Events) x => e.add x.2.2) flushes)

/-- Is an output an exceedance of the range limit (R78)? -/
def exceeds (l : Nat) (w : Word) : Bool :=
  l != 255 && match (f32Val w).1 with
    | .nan => true
    | .inf _ => true
    | .zero _ => false
    | .fin m e => l == 0 || !(flt (.fin (m.natAbs : Int) e) (.fin 1 ((l : Int) - 127)))

/-- A mismatch of pair `pair` is charged to cove `c`; its record names the other cove and the TAG of the pair's operation there
(Table 13.7). -/
def State.chargePair (s : State) (c other key b n att : Nat) : State :=
  let tag := ((s.cove c).ig.pairOp key n att).map PairOp.tag
  s.chargeWith (some (b, n, att)) c 0xB010 fun r => { r with partner := some other, tag := tag }

/-- A shadow mismatch: it fails the shadow cove's vote for the primary's step and is charged to both coves in that attempt (R338, R341). -/
def State.mismatch (s : State) (shadow primary pair n att : Nat) : State :=
  let b := (s.bayOf shadow).getD 0
  let s1 := (s.modCove shadow fun v => v.modIg fun g => { g with ctr := bump g.ctr 2 1 }).castFail shadow n att 0xB010 true
  ((s1.chargePair primary shadow pair b n att).chargePair shadow primary (pair + 2 ^ 15) b n att).modStep b n fun r =>
    { r with mismatches := r.mismatches ++ [(primary, shadow)] }

/-- A pair whose both signatures are there is compared (R338); the primary's stays (R48). -/
def State.compareSig (s : State) (c : Nat) (p q : PairSig) : State :=
  let mine (x : PairSig) : Bool := x.pair == p.pair && x.step == p.step && x.attempt == p.attempt
  let s1 := s.modCove c fun v => v.modIg fun g =>
    { g with
      primSigs := (g.primSigs.filter fun x => !mine x) ++ [{ p with compared := true }]
      shadowSigs := g.shadowSigs.filter fun x => !mine x }
  if p.sig = q.sig then s1.modCove c fun v => v.modIg fun g => { g with ctr := bump g.ctr 1 1 }
  else s1.mismatch c p.fromCove p.pair p.step p.attempt

/-- The physical cove of a pair's other side. -/
def State.partner (s : State) (c key : Nat) : Nat :=
  match (s.cove c).ig.pairs.find key with
  | some e => (s.physOf (bits e 16 10)).getD c
  | none => c

/-- A shadow's signature for pair `pair` of step `n`: compared with the primary's, or kept until that arrives. -/
def State.shadowDone (s : State) (c pair n att : Nat) (sig : BitVec 64) : State :=
  let mine : PairSig := { pair := pair, step := n, attempt := att, sig := sig, fromCove := c }
  match (s.cove c).ig.primSigs.find? fun p => p.pair == pair && p.step == n && p.attempt == att with
  | some p => s.compareSig c p mine
  | none => s.modCove c fun v => v.modIg fun g => { g with shadowSigs := g.shadowSigs ++ [mine] }

/-- The payload of a signature's CONTROL packet: pair number, step, attempt, signature (R337). -/
def sigBytes (pair step attempt : Nat) (sig : BitVec 64) : List Byte :=
  leBytes 2 pair ++ leBytes 6 step ++ leBytes 1 attempt ++ leBytes 8 sig.toNat

/-- A primary's signature leaves for its partner (R337). -/
def State.sendSig (s : State) (c pair : Nat) (op : TileOp) (sig : BitVec 64) : State :=
  let l := match (s.cove c).ig.pairs.find pair with
    | some e => bits e 16 10
    | none => 0
  s.inject c false 0
    { blankPacket with
      type := 8, ordered := true, dstLog := some (BitVec.ofNat 10 l), bay := BitVec.ofNat 4 ((s.bayOf c).getD 0)
      step := BitVec.ofNat 2 op.step, attempt := BitVec.ofNat 2 op.attempt, stepped := true
      payload := sigBytes pair op.step op.attempt sig }

/-- The oldest running operation leaves the array and becomes the completion point (R85). -/
def Breaker.finish (b : Breaker) (op : TileOp) : Breaker :=
  Breaker.unfilled { b with
    running := b.running.drop 1, done := op.seq, counts := b.counts.upd 0 op.core (· + 1), ctr := bump b.ctr 9 1 }

/-- The tile result (R94 to R96) recorded in the array's registers. -/
def Breaker.noteResult (b : Breaker) (d : TileDesc) (rows cols : List Cmp) (failed : Bool) : Breaker :=
  let skips := (rows ++ cols).count .skip
  let b1 := { b with ctr := if skips = 0 then b.ctr else bump b.ctr 7 skips }
  if failed then
    { b1 with ctr := bump b1.ctr 6 1, lastRow := failAt rows, lastCol := failAt cols, lastTag := d.tag }
  else b1

/-- BREAKER_OP_COMPLETE, once the operation has streamed (R89, R99): `upset` gives accumulators that a fault has changed, by main cell and the bits flipped; `convBad`
says that the duplicated converters disagree (R333). -/
def execBreakerOpComplete (cove : Fin 800) (upset : List (Nat × BitVec 32)) (convBad : Bool) (s : State) : Out :=
  let c := cove.val
  let v := (s.cove c).modBrk fun b => b.settle (s.cycles c)
  match v.brk.running with
  | [] => .next s
  | x :: _ =>
    let op := x.op
    let d := tileDesc op.desc
    let s0 := s.setCove c ((v.modBrk fun b => b.finish op))
    if x.left ≠ 0 then .next s
    else if op.noop ∨ d.op ≠ 1 then .next (s0.castOwed c)
    else
      let acc := upset.foldl (fun (t : Tab Word) u => t.upd 0 (u.1 % 4096) (· ^^^ u.2)) x.acc
      let out (i : Nat) : Word := acc.get 0 i
      let (rows, cols) := x.comparisons fun i => (f32Val (out i)).1
      let failed := x.parity || (rows ++ cols).contains .fail
      let seq := v.brk.tileSeq.get 0 (op.step % 4)
      let stoch := d.rmode == 2 && fmtBlock d.d.fmt
      let seed := (s.bay ((s.bayOf c).getD 0)).seed
      let (eb, sb, ev) := convertOut d out (draw75 seed op.step c seq)
      let exc := ((List.range 4096).filter fun i => exceeds d.rangeL (out i)).length
      let e := v.sp.handle d.d.handle
      let s1 := s0.modCove c fun v =>
        { v with
          sp := (v.sp.handleWrite e (d.d.elemRow * 64) eb).handleWrite e (d.d.scaleRow * 64) sb
          telem := { v.telem with activity := satAdd32 v.telem.activity (d.kblk * 32) }
          brk :=
            let b := v.brk.noteResult d rows cols failed
            { b with
              ctr := if exc = 0 then countEvents b.ctr ev.sat ev.ovf ev.unf ev.dnorm ev.invalid
                else bump (countEvents b.ctr ev.sat ev.ovf ev.unf ev.dnorm ev.invalid) 5 exc
              tileSeq := if stoch then b.tileSeq.set 0 (op.step % 4) (seq + 1) else b.tileSeq } }
      let blame (s : State) (code : Code) : State :=
        s.hwErrorIn (some ((s.bayOf c).getD 0, op.step, op.attempt)) c code fun r => { r with tag := some d.tag.toNat }
      let s2 := if failed ∧ !x.parity then blame s1 0x4021 else s1
      let s3 := if d.rangeAct ∧ exc ≠ 0 then s2.castFail c op.step op.attempt 0x4020 false else s2
      let s4 := if convBad then blame (s3.modCove c fun v => v.modIg fun g => { g with ctr := bump g.ctr 5 1 }) 0xB011 else s3
      let sig := crc64 ((List.range 4096).flatMap fun i => leBytes 4 (out i).toNat)
      let s5 := match op.primary with
        | some pair => s4.sendSig c pair op sig
        | none => s4
      let s6 := match op.shadow with
        | some pair => s5.shadowDone c pair (op.step - 1) (s.attemptOf c (op.step - 1)) sig
        | none => s5
      .next (s6.castOwed c)

/-- A primary's signature at its partner's integrity unit: compared with the shadow's that waits for it, or held (R337). -/
def State.holdSignature (s : State) (c : Nat) (p : PairSig) : State :=
  match (s.cove c).ig.shadowSigs.find? fun q => q.pair == p.pair && q.step == p.step && q.attempt == p.attempt with
  | some q => s.compareSig c p q
  | none => s.modCove c fun v => v.modIg fun g => { g with primSigs := g.primSigs ++ [p] }

/-- Can the integrity unit take a signature: one that its shadow waits for, or one of the 512 it holds (R337)? -/
def Integ.takesSig (g : Integ) (p : PairSig) : Bool :=
  (g.shadowSigs.any fun q => q.pair == p.pair && q.step == p.step && q.attempt == p.attempt)
    || decide ((g.primSigs.filter fun q => !q.compared).length < 512)

/-- SHADOW_SIGNATURE_PACKET (R337, R338): the CONTROL packet with this payload that waits at the cove is consumed, a damaged one dropped;
one that its shadow waits for is compared, and at most 512 are held for comparison. -/
def execShadowSignaturePacket (cove : Fin 800) (pair : BitVec 15) (step : BitVec 48) (attempt : BitVec 2) (sig : BitVec 64)
    (s : State) : Out :=
  let c := cove.val
  let p : PairSig :=
    { pair := pair.toNat, step := step.toNat, attempt := attempt.toNat, sig := sig, fromCove := s.partner c (pair.toNat + 2 ^ 15) }
  let body := sigBytes p.pair p.step p.attempt sig
  occurs s ((s.cove c).ig.takesSig p)
    (match (s.cove c).net.ejected.find? fun x => x.2.type == 8 && !x.2.response && x.2.payload == body with
      | some x => s.eject x.2 fun t => if x.2.bad then t.netCount c 1 else t.holdSignature c p
      | none => s.holdSignature c p)

/-! Governor (R99 to R101) and registers (R98, R102). -/

/-- Cycles of 250 ns, rounded up, of an arithmetic clock of `units` / 160 GHz (R99). -/
def governorCycles (units : Nat) : Nat := (250 * units + 159) / 160

/-- The governor's next level (R99, R102, R411): one step toward its target, 8 while an operation streams or waits; a step down while
it stands above the ceiling; at once 0 when work has ended with FILL_EN clear. -/
def Breaker.nextLevel (b : Breaker) (ceiling : Nat) : Nat :=
  let target := if b.streams || !b.queue.isEmpty then 8 else 0
  if ceiling < b.level then b.level - 1
  else if b.level < target then min (b.level + 1) ceiling
  else if target < b.level then (if b.fillEn then b.level - 1 else 0)
  else b.level

/-- GOVERNOR_TICK: every 250 ns the level moves one step; a filler mismatch while filler runs is a cove error 0x4022 (R99, R101). -/
def execGovernorTick (cove : Fin 800) (fillBad : Bool) (s : State) : Out :=
  let c := cove.val
  let cyc := s.cycles c
  let b := (s.cove c).brk.settle cyc
  let bad := b.filling && fillBad
  let s1 := s.modCove c fun v => v.modBrk fun _ =>
    { b with level := b.nextLevel s.ceiling, levelAt := cyc, ctr := if bad then bump b.ctr 8 1 else b.ctr }
  occurs s (decide (b.levelAt + governorCycles (s.clockUnits (halfOf c)) ≤ cyc)) (if bad then s1.coveError c 0x4022 else s1)

/-- A write of a tolerance entry (R98): a valid value is stored, −0 as +0; another is ignored, with 0x4034 to a writing
core. -/
def State.writeTol (s : State) (who : Requester) (c t : Nat) (isAbs : Bool) (v : Word) : State :=
  if tolOk v then
    s.modCove c fun k => k.modBrk fun b =>
      if isAbs then { b with tolAbs := b.tolAbs.set 0 t (tolStored v) } else { b with tolRel := b.tolRel.set 0 t (tolStored v) }
  else
    match who with
    | .core r => s.exception r 0x4034
    | _ => s

/-- TOLERANCE_WRITE: pebble cores of the cove write it; Headland reaches every register. -/
def execToleranceWrite (who : Requester) (cove : Fin 800) (entry : Fin 16) (isAbs : Bool) (value : BitVec 32) (s : State) :
    Out :=
  occurs s (coreOf who cove || who == .headland) (s.writeTol who cove entry isAbs value)

/-- BRK_CTRL.FILL_EN: only the module owner writes it (R102). -/
def execBrkFillEn (who : Requester) (cove : Fin 800) (v : Bool) (s : State) : Out :=
  occurs s (s.isOwner who) (s.modCove cove fun c => c.modBrk fun b => Breaker.unfilled { b with fillEn := v })
/-- BRK_CTRL.INJ_CK: the next MATMUL's corner checksum is corrupted (R102). -/
def execBrkInjCk (who : Requester) (cove : Fin 800) (s : State) : Out :=
  occurs s (s.isOwner who) (s.modCove cove fun c => c.modBrk fun b => { b with injCk := true })

end Sys2Proof.Machine
end

