-- ==== Sys2Proof/Machine/Channels.lean ====
section
/-!
DEFINITION. Channels (07_channels.md R155 to R176; 05_pebble_cores.md R124 to R127): the channel instructions, the arrival of
each kind of channel packet, the channel unit's timers and the head snapshot.
-/

namespace Sys2Proof.Machine

/-- Unused bits of a C-format word (Table 5.5). -/
def cUnused (w : CFields) (ra rb q m len : Bool) : Bool :=
  (ra && w.ra != 0) || (rb && w.rb != 0) || (q && w.q != 0) || (m && w.m) || (len && w.len != 0)

/-- The step that runs on a cove; 0 without one. -/
def State.stepAt (s : State) (c : Nat) : Nat := ((s.attemptAt c).map fun x => x.2.1).getD 0

/-! Instructions. -/

/-- CCONN (R161). -/
def execCconn (at_ : CoreRef) (w : CFields) (s : State) : Out :=
  let ep := (s.core at_).rg w.ra
  issue s at_ never (cUnused w false true true true true) { g := [w.ra], wg := [w.rd] } fun s =>
    let inBay := match s.bayOf at_.cove with
      | some b => (s.bay b).has (epCove ep)
      | none => false
    if ep >>> 17 ≠ 0 ∨ 719 < epCove ep ∨ !inBay then s.retireNext at_ fun k => k.wg w.rd stRefused
    else
      match (s.chan at_.cove).nextFree with
      | none => s.retireNext at_ fun k => k.wg w.rd stLimit
      | some i =>
        let s1 := s.modChan at_.cove fun h => h.alloc i fun e =>
          { e with state := .connecting, writer := true, core := at_.core, farEp := ep, openedIn := s.stepAt at_.cove }
        let e := (s1.chan at_.cove).entry i
        (s1.sendChan at_.cove kConnect
          { blankChan with src := chanHandle i e.gen, srcEp := endpoint (s.lcove at_.cove) at_.core 0, dstEp := ep }).stall
          at_ (.cconn i w.rd)

def sameCacc (q : BitVec 3) (rd : BitVec 5) : CoreWait → Bool
  | .cacc p r => p == q && r == rd
  | _ => false

/-- CACC (R157, R162). -/
def execCacc (at_ : CoreRef) (w : CFields) (s : State) : Out :=
  issue s at_ (sameCacc w.q w.rd) (cUnused w true true false true true) { wg := [w.rd] } fun s =>
    let c := at_.cove.val
    match ((s.chan c).queue at_.core w.q.toNat).requests with
    | [] => s.stall at_ (.cacc w.q w.rd)
    | (ep, far) :: rest =>
      let here := endpoint (s.lcove c) at_.core w.q.toNat
      let s1 := s.modChan c fun h => h.modQueue at_.core w.q.toNat fun r => { r with requests := rest }
      match (s.chan c).nextFree with
      | none =>
        (s1.sendChan c kRefuse { blankChan with dst := far, srcEp := here, dstEp := ep }).retireNext at_ fun k =>
          k.wg w.rd stLimit
      | some i =>
        let s2 := s1.modChan c fun h => h.alloc i fun e =>
          { e with state := .open_, core := at_.core, queue := w.q.toNat, farHandle := far, farEp := ep
                   openedIn := s.stepAt c }
        let me := chanHandle i ((s2.chan c).entry i).gen
        (s2.sendChan c kAccept { blankChan with dst := far, src := me, srcEp := here, dstEp := ep }).retireNext at_ fun k =>
          k.wg w.rd (chanResult 0 me 0)

/-- The message of the low `n` bytes of a vector register. -/
def lowBytes (x : Row) (n : Nat) : Row := BitVec.ofNat 512 (x.toNat % 2 ^ (8 * n))

/-- CSEND (R125, R165). DESIGN CHOICE (log entry 179): bits [31:16] of g[RA] are ignored, as in CCLOSE and CSETTO. -/
def execCsend (at_ : CoreRef) (w : CFields) (s : State) : Out :=
  let h := ((s.core at_).rg w.ra).setWidth 16
  let i := handleEntryOf h
  let c := at_.cove.val
  issue s at_ never (cUnused w false false true true false || !vreg w.rb)
    { g := [w.ra], v := [w.rb.toNat], wg := [w.rd] } fun s =>
    if 64 < w.len.toNat then s.exception at_ 0x4107
    else if (s.chan c).badEntry h then s.entryException at_ h
    else if !(s.chan c).holds at_.core h true then s.retireNext at_ fun k => k.wg w.rd stStale
    else if ((s.chan c).entry i).state = .peerClosed then
      (s.countClosed c 1).retireNext at_ fun k => k.wg w.rd stClosed
    else
      let s1 := s.modChan c fun t => t.modEntry i fun e =>
        { e.rest .sending with
          msgLen := w.len.toNat, msg := lowBytes ((s.core at_).rv w.rb.toNat) w.len.toNat, sentAt := s.cnCycles }
      (s1.sendData c i).stall at_ (.csend i w.rd)

def sameCrecv (q : BitVec 3) (rd vb : BitVec 5) : CoreWait → Bool
  | .crecv p r v => p == q && r == rd && v == vb
  | _ => false

/-- CRECV (R125, R158, R168). -/
def execCrecv (at_ : CoreRef) (w : CFields) (s : State) : Out :=
  let c := at_.cove.val
  issue s at_ (sameCrecv w.q w.rd w.rb) (cUnused w true false false true true || !vreg w.rb)
    { wg := [w.rd], wv := [w.rb.toNat] } fun s =>
    match ((s.chan c).queue at_.core w.q.toNat).msgs with
    | [] => s.stall at_ (.crecv w.q w.rd w.rb)
    | m :: rest =>
      let s1 := ((s.modChan c fun h => h.modQueue at_.core w.q.toNat fun r => { r with msgs := rest }).entryFreed c
        at_.core w.q.toNat).drainEntry c (handleEntryOf m.handle)
      if m.bad then s1.chanException at_ 0xA002 w.q.toNat
      else s1.retireNext at_ fun k =>
        (k.wv w.rb.toNat (lowBytes m.data m.len)).wg w.rd (chanResult 0 m.handle m.len)

/-- The queue that CSEL or CPOLL selects (R126): the lowest, or with M = 1 the first after the last selected. -/
def selectQueue (h : Channels) (core : Nat) (mask : BitVec 8) (rotate : Bool) (last : BitVec 3) : Option Nat :=
  let order := if rotate then (List.range 8).map fun i => (last.toNat + 1 + i) % 8 else List.range 8
  order.find? fun q => mask.getLsbD q && !(h.queue core q).msgs.isEmpty

def selectDone (s : State) (at_ : CoreRef) (rd : BitVec 5) (q : Nat) : State :=
  s.retireNext at_ fun k => { k.wg rd (chanResult 0 0 q) with lastSel := BitVec.ofNat 3 q }

def sameCsel (mask : BitVec 8) (m : Bool) (rd : BitVec 5) : CoreWait → Bool
  | .csel a b r => a == mask && b == m && r == rd
  | _ => false

/-- CSEL (R126). -/
def execCsel (at_ : CoreRef) (w : CFields) (s : State) : Out :=
  let mask := ((s.core at_).rg w.ra).setWidth 8
  issue s at_ (sameCsel mask w.m w.rd) (cUnused w false true true false true) { g := [w.ra], wg := [w.rd] } fun s =>
    if mask = 0 then s.retireNext at_ fun k => k.wg w.rd stNone
    else
      match selectQueue (s.chan at_.cove) at_.core mask w.m (s.core at_).lastSel with
      | some q => selectDone s at_ w.rd q
      | none => s.stall at_ (.csel mask w.m w.rd)

/-- CPOLL (R126). -/
def execCpoll (at_ : CoreRef) (w : CFields) (s : State) : Out :=
  let mask := ((s.core at_).rg w.ra).setWidth 8
  issue s at_ never (cUnused w false true true false true) { g := [w.ra], wg := [w.rd] } fun s =>
    match selectQueue (s.chan at_.cove) at_.core mask w.m (s.core at_).lastSel with
    | some q => selectDone s at_ w.rd q
    | none => s.retireNext at_ fun k => k.wg w.rd stNone

/-- CCLOSE (R168): as the core sees it the handle is closed; the close takes effect at the step's commit. -/
def execCclose (at_ : CoreRef) (w : CFields) (s : State) : Out :=
  let h := ((s.core at_).rg w.ra).setWidth 16
  issue s at_ never (cUnused w false true true true true) { g := [w.ra], wg := [w.rd] } fun s =>
    if (s.chan at_.cove).badEntry h then s.entryException at_ h
    else if !(s.chan at_.cove).holds at_.core h false then s.retireNext at_ fun k => k.wg w.rd stStale
    else
      (s.modChan at_.cove fun t => t.modEntry (handleEntryOf h) fun e =>
        { e with closeIn := some (s.stepAt at_.cove) }).retireNext at_ fun k => k.wg w.rd stOk

/-- CSETTO (R127). -/
def execCsetto (at_ : CoreRef) (w : CFields) (s : State) : Out :=
  let h := ((s.core at_).rg w.ra).setWidth 16
  let us := (s.core at_).rg w.rb
  issue s at_ never (cUnused w false false true true true) { g := [w.ra, w.rb], wg := [w.rd] } fun s =>
    if (s.chan at_.cove).badEntry h then s.entryException at_ h
    else if !(s.chan at_.cove).holds at_.core h true then s.retireNext at_ fun k => k.wg w.rd stStale
    else
      (s.modChan at_.cove fun t => t.modEntry (handleEntryOf h) fun e => { e with timeout := us }).retireNext at_ fun k =>
        k.wg w.rd stOk

/-! Packets at the queue interface of cove `c`. -/

/-- Is the kind reserved (Table 7.3)? -/
def kindReserved (k : BitVec 4) : Bool := k == 0 || decide (11 ≤ k.toNat)

/-- The current-network packet of a channel packet: it is delivered where the slot of DST_EP is (R159, R236). -/
def carrierOf (p : ChanPkt) : Packet :=
  { p.hdr with type := 1, agent := false, dstLog := some (BitVec.ofNat 10 (epCove p.dstEp)) }

/-- A packet of a kind, or of a reserved kind, that router `c` ejects at LOCAL: dropped, sent on or delivered as every packet is (R222,
R234, R236, R243); a request waits until its answer has a slot (R226). Then a damaged one is discarded, a malformed one dropped and counted (R172), one for an entry that fails parity is a
hardware error (R176); while the slot moves `moving` says what happens (R171). -/
def State.chanArrives (s : State) (c kind : Nat) (p : ChanPkt) (moving : State → State) (f : State → State) : Out :=
  occurs s (p.hdr.dstPhys.toNat == c && (kindReserved p.kind || p.kind.toNat == kind) && (kindResponse kind || s.canAnswer c false))
    (s.eject (carrierOf p) fun s =>
      if p.hdr.bad then s
      else if p.resv ∨ kindReserved p.kind ∨ 64 < p.len.toNat ∨ (kind ≠ kData ∧ p.len ≠ 0) ∨ p.hdr.response ≠ kindResponse kind then
        s.countStale c
      else if kind ≠ kConnect ∧ (s.chan c).badEntry p.dst then
        (s.modChan c fun h => h.noteErr 0xA002 (h.entry (handleEntryOf p.dst)).core (h.entry (handleEntryOf p.dst)).queue).hwError c 0xA002
      else if s.slotMoving c then moving s
      else f s)

/-- The packet is held for the move to carry (R171). -/
def holdChan (c kind : Nat) (p : ChanPkt) (s : State) : State :=
  s.modChan c fun h => { h with held := h.held ++ [(BitVec.ofNat 4 kind, p)] }

/-- CONNECT (R162; R169 in reset). -/
def State.recvConnect (s : State) (c : Nat) (p : ChanPkt) : State :=
  let k := epCore p.dstEp
  let q := epQueue p.dstEp
  if s.inReset c ∨ !((s.cove c).core k).used ∨ 4 ≤ ((s.chan c).queue k q).requests.length then
    s.answerChan c kRefuse p id
  else s.modChan c fun h => h.modQueue k q fun r => { r with requests := r.requests ++ [(p.srcEp, p.src)] }

/-- ACCEPT (R161). -/
def State.recvAccept (s : State) (c : Nat) (p : ChanPkt) : State :=
  match (s.chan c).endAt p.dst with
  | .at_ i e =>
    if e.writer ∧ e.state = .connecting then
      (s.modChan c fun h => h.modEntry i fun e => { e with state := .open_, farHandle := p.src }).endChan c i
        (chanResult 0 p.dst 0)
    else s
  | .quarantined => s
  | .stale => s.countStale c

/-- REFUSE (R161). -/
def State.recvRefuse (s : State) (c : Nat) (p : ChanPkt) : State :=
  match (s.chan c).endAt p.dst with
  | .at_ i e =>
    if e.writer ∧ e.state = .connecting then
      (s.endChan c i stRefused).modChan c fun h => h.modEntry i fun e => { ({} : ChEntry) with gen := e.gen }
    else s
  | .quarantined => s
  | .stale => s.countStale c

/-- The writer of a packet, as a waiter of entry `i`. -/
def waiterOf (p : ChanPkt) (i : Nat) : Waiter := { ep := p.srcEp, handle := p.src, entry := i }

/-- DATA for reader entry `i` (R156, R165, R167): delivered, or refused with FULL. -/
def State.placeData (s : State) (c i : Nat) (e : ChEntry) (p : ChanPkt) : State :=
  let q := (s.chan c).queue e.core e.queue
  let w := waiterOf p i
  if e.placed ∧ e.seq = p.seq then s.answerChan c kDelivered p fun a => { a with seq := p.seq }
  else if q.reserved.contains w ∨ q.occupied < 16 then
    let m : Msg := { handle := p.dst, len := p.len.toNat, data := lowBytes p.data p.len.toNat, bad := false }
    ((s.modChan c fun h =>
      (h.modQueue e.core e.queue fun r =>
        { r with msgs := r.msgs ++ [m], reserved := r.reserved.filter fun x => x != w }).modEntry i fun x =>
        { x with seq := p.seq, placed := true }).entryFreed c e.core e.queue).answerChan c kDelivered p fun a => { a with seq := p.seq }
  else
    let listed := q.waiters.contains w || decide (q.waiters.length < 8)
    let s1 := s.modChan c fun h => h.modQueue e.core e.queue fun r =>
      if !q.waiters.contains w ∧ r.waiters.length < 8 then { r with waiters := r.waiters ++ [w] } else r
    (s1.countFull c).answerChan c kFull p fun a => { a with listed := listed }

/-- DATA (R163 to R165; R169 in reset). -/
def State.recvData (s : State) (c : Nat) (p : ChanPkt) : State :=
  if s.inReset c then (s.countClosed c 1).answerChan c kClosed p id
  else
    match (s.chan c).endAt p.dst with
    | .stale => s.countStale c
    | .quarantined => s.answerChan c kClosed p id
    | .at_ i e => if e.writer then s.countStale c else s.placeData c i e p

/-- DATA while the reader's slot moves (R171). -/
def State.movingData (s : State) (c : Nat) (p : ChanPkt) : State :=
  (s.countFull c).answerChan c kFull p fun a => { a with moving := true }

/-- A packet for a writer entry whose CSEND waits goes to `f`; others change nothing (R164). -/
def State.atSender (s : State) (c : Nat) (p : ChanPkt) (f : Nat → ChEntry → State) : State :=
  match (s.chan c).endAt p.dst with
  | .at_ i e => if e.writer ∧ (e.state = .sending ∨ e.state = .blocked) then f i e else s
  | .quarantined => s
  | .stale => s.countStale c

/-- DELIVERED (R165). -/
def State.recvDelivered (s : State) (c : Nat) (p : ChanPkt) : State :=
  s.atSender c p fun i e =>
    if e.seq = p.seq then
      (s.modChan c fun h => h.modEntry i fun x => { x.rest .open_ with seq := !x.seq }).endChan c i stOk
    else s

/-- FULL (R165, R166): the timeout starts at the first one; it does not run under MOVING. -/
def State.recvFull (s : State) (c : Nat) (p : ChanPkt) : State :=
  s.atSender c p fun i _ =>
    s.modChan c fun h => h.modEntry i fun x =>
      { x with
        state := .blocked, resent := false, listed := p.listed
        retryAt := if p.listed then none else some (s.cnCycles + cn2us)
        spent := if p.moving then x.spent + ((x.fullSince.map fun t => s.mt.ns - t).getD 0) else x.spent
        fullSince := if p.moving then none else some (x.fullSince.getD s.mt.ns) }

/-- RESUME (R165, R166): the listed writer sends into its reserved entry and its timeout stops; a CSEND that has ended is
answered for with WITHDRAW. -/
def State.recvResume (s : State) (c : Nat) (p : ChanPkt) : State :=
  match (s.chan c).endAt p.dst with
  | .stale => s.countStale c
  | .quarantined => s.answerChan c kWithdraw p id
  | .at_ i e =>
    if !e.writer then s.countStale c
    else if e.state = .blocked ∧ e.listed then
      (s.modChan c fun h => h.modEntry i fun x =>
        { x with state := .sending, listed := false, resent := false, fullSince := none, retryAt := none
                 spent := x.spent + ((x.fullSince.map fun t => s.mt.ns - t).getD 0), sentAt := s.cnCycles }).sendData c i
    else s.answerChan c kWithdraw p id

/-- WITHDRAW (R166). -/
def State.recvWithdraw (s : State) (c : Nat) (p : ChanPkt) : State :=
  match (s.chan c).endAt p.dst with
  | .stale => s.countStale c
  | .quarantined => s.answerChan c kClosed p id
  | .at_ i e =>
    if e.writer then s.countStale c
    else
      let w := waiterOf p i
      let had := ((s.chan c).queue e.core e.queue).reserved.contains w
      let s1 := s.modChan c fun h => h.modQueue e.core e.queue fun r =>
        { r with reserved := r.reserved.filter (fun x => x != w), waiters := r.waiters.filter fun x => x != w }
      if had then s1.entryFreed c e.core e.queue else s1

/-- CLOSE (R166, R168): at a reader entry, at a writer entry. -/
def State.recvClose (s : State) (c : Nat) (p : ChanPkt) : State :=
  match (s.chan c).endAt p.dst with
  | .stale => s.countStale c
  | .quarantined => s.answerChan c kClosed p id
  | .at_ i e =>
    if !e.writer then
      (s.modChan c fun h => h.modEntry i fun x => { x with state := .writerClosed }).drainEntry c i
    else
      let waiting := e.state = .sending ∨ e.state = .blocked
      let s1 := s.modChan c fun h => h.modEntry i fun x => x.rest .peerClosed
      if waiting then (s1.countClosed c 1).endChan c i stClosed else s1

/-- CLOSED (R165). -/
def State.recvClosed (s : State) (c : Nat) (p : ChanPkt) : State :=
  s.atSender c p fun i _ =>
    ((s.modChan c fun h => h.modEntry i fun x => x.rest .open_).countClosed c 1).endChan c i stClosed

/-- The packets that a move held are received where the slot now is (R171). -/
def State.recvHeld (s : State) (c : Nat) (x : BitVec 4 × ChanPkt) : State :=
  if x.1.toNat = kConnect then s.recvConnect c x.2
  else if x.1.toNat = kResume then s.recvResume c x.2
  else if x.1.toNat = kWithdraw then s.recvWithdraw c x.2
  else s.recvClose c x.2

def execConnect (cove : Fin 800) (p : ChanPkt) (s : State) : Out :=
  s.chanArrives cove kConnect p (holdChan cove kConnect p) fun s => s.recvConnect cove p
def execAccept (cove : Fin 800) (p : ChanPkt) (s : State) : Out :=
  s.chanArrives cove kAccept p (fun s => s.recvAccept cove p) fun s => s.recvAccept cove p
def execRefuse (cove : Fin 800) (p : ChanPkt) (s : State) : Out :=
  s.chanArrives cove kRefuse p (fun s => s.recvRefuse cove p) fun s => s.recvRefuse cove p
def execData (cove : Fin 800) (p : ChanPkt) (s : State) : Out :=
  s.chanArrives cove kData p (fun s => s.movingData cove p) fun s => s.recvData cove p
def execDelivered (cove : Fin 800) (p : ChanPkt) (s : State) : Out :=
  s.chanArrives cove kDelivered p (fun s => s.recvDelivered cove p) fun s => s.recvDelivered cove p
def execFull (cove : Fin 800) (p : ChanPkt) (s : State) : Out :=
  s.chanArrives cove kFull p (fun s => s.recvFull cove p) fun s => s.recvFull cove p
def execResume (cove : Fin 800) (p : ChanPkt) (s : State) : Out :=
  s.chanArrives cove kResume p (holdChan cove kResume p) fun s => s.recvResume cove p
def execWithdraw (cove : Fin 800) (p : ChanPkt) (s : State) : Out :=
  s.chanArrives cove kWithdraw p (holdChan cove kWithdraw p) fun s => s.recvWithdraw cove p
def execClose (cove : Fin 800) (p : ChanPkt) (s : State) : Out :=
  s.chanArrives cove kClose p (holdChan cove kClose p) fun s => s.recvClose cove p
def execClosed (cove : Fin 800) (p : ChanPkt) (s : State) : Out :=
  s.chanArrives cove kClosed p (fun s => s.recvClosed cove p) fun s => s.recvClosed cove p

/-! Timers. -/

/-- The entry on which a core's CSEND waits. -/
def State.sendingEntry (s : State) (at_ : CoreRef) : Option Nat :=
  match (s.core at_).wait with
  | some (.csend i _) => some i
  | _ => none

/-- R166: time under FULL answers, in nanoseconds of module time. -/
def ChEntry.waited (e : ChEntry) (now : Nat) : Nat := e.spent + ((e.fullSince.map fun t => now - t).getD 0)

/-- CSEND_TIMEOUT (R127, R166). -/
def execCsendTimeout (at_ : CoreRef) (s : State) : Out :=
  match s.sendingEntry at_ with
  | none => .next s
  | some i =>
    let c := at_.cove.val
    let e := (s.chan c).entry i
    occurs s (e.state == .blocked && e.timeout != 0 && decide (e.timeout.toNat * 1000 ≤ e.waited s.mt.ns))
      (let s1 := s.modChan c fun h => { h.modEntry i (fun x => x.rest .open_) with timeout := satAdd32 h.timeout 1 }
       let s2 := if e.listed then s1.sendChan c kWithdraw
         { blankChan with
           dst := e.farHandle, src := chanHandle i e.gen, srcEp := endpoint (s.lcove c) e.core 0, dstEp := e.farEp }
         else s1
       s2.endChan c i stTimeout)

/-- FULL_RETRY (R165). -/
def execFullRetry (at_ : CoreRef) (s : State) : Out :=
  match s.sendingEntry at_ with
  | none => .next s
  | some i =>
    let c := at_.cove.val
    let e := (s.chan c).entry i
    occurs s (e.state == .blocked && e.retryAt.any fun t => decide (t ≤ s.cnCycles))
      ((s.modChan c fun h => h.modEntry i fun x =>
        { x with state := .sending, retryAt := none, resent := false, sentAt := s.cnCycles }).sendData c i)

/-- DATA_RETRANSMIT (R167). -/
def execDataRetransmit (at_ : CoreRef) (s : State) : Out :=
  match s.sendingEntry at_ with
  | none => .next s
  | some i =>
    let c := at_.cove.val
    let e := (s.chan c).entry i
    occurs s (e.state == .sending && decide (e.sentAt + cn88us ≤ s.cnCycles))
      (if e.resent then s.chanException at_ 0xA001 e.queue
       else
        (s.modChan c fun h =>
          { h.modEntry i (fun x => { x with resent := true, sentAt := s.cnCycles }) with retx := satAdd32 h.retx 1 }).sendData
          c i)

/-- CHANNEL_QUARANTINE_END (R163). -/
def execChannelQuarantineEnd (cove : Fin 800) (entry : Fin 4096) (s : State) : Out :=
  let e := (s.chan cove).entry entry
  occurs s (e.state == .quarantine && decide (e.quarAt + cn64us ≤ s.cnCycles))
    (s.modChan cove fun h => h.modEntry entry fun x => { ({} : ChEntry) with gen := x.gen })

/-- CH_HEAD_SEL (R174, R175): reserved bits are not stored (R9). -/
def execChHeadSel (who : Requester) (cove : Fin 800) (value : BitVec 32) (s : State) : Out :=
  occurs s (s.readsCove who cove)
    (s.modChan cove fun h =>
      let v := value.setWidth 7
      let m := (h.queue (v.toNat % 16) (v.toNat / 16)).msgs.head?
      { h with
        headSel := v
        headMeta := match m with
          | some m => BitVec.ofNat 32 (1 + m.len * 2 + m.handle.toNat * 256)
          | none => 0
        headData := match m with
          | some m => lowBytes m.data m.len
          | none => 0 })

end Sys2Proof.Machine
end

