-- ==== Sys2Proof/Machine/Dma.lean ====
section
/-!
DEFINITION. DMA: DQ, the start of a transfer, its packets where they arrive, its end (09 R238 to R243).
-/

namespace Sys2Proof.Machine

/-- Waits again in DQ. -/
def sameDq : CoreWait → Bool
  | .fence => true
  | .dmaQueue _ _ => true
  | _ => false

/-- DQ (R118, R240). -/
def execDq (at_ : CoreRef) (w : RxFields) (s : State) : Out :=
  issue s at_ sameDq (rxUnused w false false true || !vreg w.ra) { v := [w.ra.toNat], wg := [w.rd] } fun s =>
    let c := s.cove at_.cove
    let raw : BitVec 256 := ((s.core at_).rv w.ra.toNat).setWidth 256
    let d := dmaDesc raw
    let (steps, m) := s.stepsAt at_.cove
    let y := s.bay ((s.bayOf at_.cove).getD 0)
    match c.net.faults.find at_.core with
    | some code => s.takeDmaFault at_ code
    | none =>
      if storesOut s at_ ≠ 0 then s.stall at_ .fence
      else if 16 ≤ (c.net.dma.filter fun x => !x.started).length then s.stall at_ (.dmaQueue raw w.rd)
      else
        match dmaCheck c.sp y m d with
        | 0 =>
          let seq := c.net.dmaSeq + 1
          let x : Dma :=
            { desc := raw, seq := seq, core := at_.core, step := m
              attempt := (steps.newest.map StepRec.attempt).getD 0, done := d.op = 0 ∨ (d.op = 1 ∧ d.length = 0) }
          let s1 := s.modCove at_.cove fun v => v.modNet fun n =>
            let n1 := { n with dma := n.dma ++ [x], dmaSeq := seq }
            if x.done then retireHead n1 s.cnCycles else n1
          s1.retireNext at_ fun k => k.wg w.rd (seq.setWidth 32)
        | code =>
          ((s.modCove at_.cove fun v => v.modNet fun n => n.noteDma code at_.core).modCove at_.cove fun v => v.modSp fun q =>
            onlyIf (code.toNat / 4096 == 5) (fun q => q.noteFault code (d.faultHandle c.sp y m) 0 2) q).exception at_ code

/-- The next tag in rotation that is neither held nor in quarantine (R238). -/
def Net.nextTag (n : Net) : Option Nat :=
  ((List.range 4096).map fun i => (n.lastTag + 1 + i) % 4096).find? fun t =>
    (n.tagQuar.find t).isNone && !(n.dma.any fun d => d.started && d.tag == t)

/-- The packets a transfer sends at its start, in order, and the side each goes to (R241); data of the own scratchpad leave as its banks
grant their rows (R144). -/
def startPackets (s : State) (c : Nat) (d : Dma) : List (DmaSide × Packet) :=
  let x := dmaDesc d.desc
  if x.op = 2 then
    if x.dst.kind = 1 then
      [(x.dst, { dmaHeader s c d 7 0 x.dst with ordered := false, addr := BitVec.ofNat 48 x.addend })]
    else []
  else if x.src.kind = 0 then []
  else (List.range x.packets).map fun i => (x.src, dmaRead s c d i)

/-- What a transfer does within its cove as it starts: the flag of a local FLAG_ADD, the rows of its source that it asks the arbiters for
(R144, R241, R244). -/
def Cove.startLocal (v : Cove) (d : Dma) (now : Nat) : Cove :=
  let x := dmaDesc d.desc
  if x.op = 2 then
    onlyIf (x.dst.kind == 0) (fun v => v.modNet fun n =>
      { n with flags := n.flags.upd 0 x.dst.handle (· + BitVec.ofNat 32 x.addend) }) v
  else if x.src.kind = 0 then
    v.modSp fun p => p.dmaRows x.src.handle x.src.off x.length false now d.step (some d.seq)
  else v

/-- DMA_TRANSFER_START (R238, R241): the oldest queued transfer starts, with a tag, when fewer than eight hold one. -/
def execDmaTransferStart (cove : Fin 800) (s : State) : Out :=
  let c := cove.val
  let v := s.cove c
  match v.net.dma.find? fun d => !d.started && !d.done, v.net.nextTag with
  | some d, some tag =>
    let x := dmaDesc d.desc
    let waits := x.op == 1 && x.dst.kind == 0 && (s.stepsAt c).1.judge (v.sp.handle x.dst.handle) d.step == .stall
    if 8 ≤ (v.net.dma.filter Dma.started).length ∨ waits then .next s
    else
      let gen := v.net.tagGen.get 0 tag + 1
      let d1 : Dma := { d with started := true, tag := tag, gen := gen, sentAt := s.cnCycles, total := x.packets }
      let s1 := s.modCove c fun v => (v.modNet fun n =>
        { n with
          lastTag := tag, tagGen := n.tagGen.set 0 tag gen
          dma := n.dma.map fun y => if y.seq == d.seq then { d1 with done := x.op == 2 } else y }).startLocal d1 (s.cycles c)
      .next ((startPackets s c d1).foldl (fun t p => t.sendDma c d1 p.1 p.2) s1)
  | _, _ => .next s

/-! Arrival at an interface (R241, R242). -/

/-- The interface a packet reaches: the cove's LOCAL port, or the agent of the router (Table 1.3). -/
def ifaceOf (p : Packet) : Iface :=
  if p.agent then (agentAt p.dstPhys.toNat).getD .nvm else .cove (Fin.ofNat 800 p.dstPhys.toNat)

/-- Trackers of an interface; the MACs, Headland and the non-volatile memory receive no transfer (R239, R241). -/
def State.trackers (s : State) : Iface → List Tracker
  | .cove c => (s.cove c).net.trackers
  | .stack k => (s.stack k).trackers
  | .jetty => s.jetty.trackers
  | .mac _ => []
  | .headland => []
  | .nvm => []

def State.setTrackers (s : State) (i : Iface) (l : List Tracker) : State :=
  match i with
  | .cove c => s.modCove c fun v => v.modNet fun n => { n with trackers := l }
  | .stack k => s.modStack k fun x => { x with trackers := l }
  | .jetty => { s with jetty := { s.jetty with trackers := l } }
  | .mac _ => s
  | .headland => s
  | .nvm => s

/-- Trackers an interface holds (R242). -/
def trackerLimit : Iface → Nat
  | .stack _ => 1024
  | _ => 64

/-- What a transfer is counted by at its destination (R241). -/
def packetKey (p : Packet) : TransferKey := ⟨p.srcPhys, p.tag, p.gen⟩

/-- An answer of the interface to the packet's source, by the router at which the packet was ejected (R227, R228). -/
def State.answer (s : State) (p : Packet) (type status : Nat) : State :=
  s.inject p.dstPhys.toNat p.agent dlDma
    { blankPacket with
      type := BitVec.ofNat 4 type, response := true, ordered := p.ordered, agent := p.srcAgent, dstPhys := p.srcPhys
      bay := p.bay, step := p.step, attempt := p.attempt, stepped := p.stepped, tag := p.tag, gen := p.gen
      addr := if type = 6 then p.addr else BitVec.ofNat 48 status }

/-- The live step of the packet's bay that the packet belongs to. -/
def State.packetStep (s : State) (p : Packet) : Option StepRec :=
  (s.bay p.bay.toNat).st.live.find? fun r => r.no % 4 == p.step.toNat && r.attempt == p.attempt.toNat

/-- What became of a packet's data: written, waiting (R41, R50), refused with a code, or the bay stopped. -/
inductive Arrived where
  | landed (t : State)
  | waits
  | refused (code : Code) (t : State)
  | stopped (t : State)

/-- Extent checks of a packet at an HBM controller (R253, R254). -/
def hbmFault (s : State) (b st a n : Nat) (write : Bool) : Code :=
  match s.locate b a, s.locate b (a + n - 1) with
  | some x, some y =>
    if x.1 ≠ st ∨ y.1 ≠ st then 0x8011 else if write && (s.bay b).inCache a n then 0x8012 else 0
  | _, _ => 0x8010

/-- A step's write of bay-relative bytes, granule by granule; `dl` is the deadline of its requests (R255). -/
def State.stepWriteAt (s : State) (b n a : Nat) (dl : BitVec 16) (bs : List Byte) : Landing :=
  match s.locate b a with
  | none => .landed s
  | some (st, g, u) =>
    let first := 65536 - u
    match s.stepWrite st b n g u dl (bs.take first) with
    | .landed t =>
      if bs.length ≤ first then .landed t
      else
        match s.locate b (a + first) with
        | none => .landed t
        | some (st2, g2, u2) => t.stepWrite st2 b n g2 u2 dl (bs.drop first)
    | r => r

/-- Held output of a bay's uncommitted steps in bytes (R42, Table 2.3). -/
def Steps.heldBytes (t : Steps) : Nat := (t.live.map fun r => (r.held.map fun o => o.data.length).sum).sum

/-- The data of a DMA_WRITE reaches its place: a handle of the cove, the bay's HBM, the step's held output. -/
def landWrite (s : State) (p : Packet) : Arrived :=
  let b := p.bay.toNat
  let a := p.addr.toNat
  let n := (s.packetStep p).map StepRec.no |>.getD 0
  match ifaceOf p with
  | .cove c =>
    let h := (p.handle.getD 0).toNat
    let e := (s.cove c).sp.handle h
    let r := e.check a p.payload.length none (some ((s.bay b).st, n))
    if r.1 ≠ 0 then .refused r.1 (s.modCove c fun v => v.modSp fun q => q.noteFault r.1 h 0 2)
    else if r.2 ≠ .ok then .waits
    else if (s.bay b).st.isDrain n then .landed s
    else .landed (s.modCove c fun v => v.modSp fun q =>
      (q.handleWrite e a p.payload).dmaRows h a p.payload.length true (s.cycles c) n)
  | .stack k =>
    if s.stackRests k ∨ (s.stack k).disabled then .waits
    else
      let code := hbmFault s b k a p.payload.length true
      if code ≠ 0 then .refused code (s.noteAt k code b a)
      else
        match s.stepWriteAt b n a p.deadline p.payload with
        | .landed t => .landed t
        | .stalled => .waits
        | .stopped => .stopped ((s.noteAt k 0x8013 b a).stopBay b 0x8013)
  | .jetty =>
    let quota := match (s.bay b).record with
      | some r => r.holdQuota * 1024
      | none => 0
    if quota < (s.bay b).st.heldBytes + p.payload.length then
      if (s.bay b).st.commitPending n then .waits else .stopped (s.stopBay b 0x9113)
    else .landed (s.modStep b n fun r => { r with held := r.held ++ [⟨a, p.payload, []⟩] })
  | _ => .waits

/-- Counts an arrived packet of a transfer; the tracker and whether the transfer is now complete. -/
def Tracker.arrive (t : Tracker) (p : Packet) (now : Nat) : Tracker × Bool :=
  let t1 : Tracker :=
    { t with seen := t.seen + 1, lastAt := now, count := if p.last then some p.count.toNat else t.count }
  (t1, t1.count == some t1.seen)

/-- DMA_WRITE_PACKET (R241, R242). -/
def execDmaWritePacket (p : Packet) (s : State) : Out :=
  let i := ifaceOf p
  let done (s : State) : State := s.eject p fun s =>
    let l := s.trackers i
    let k := packetKey p
    match l.find? fun t => t.key == k with
    | none =>
      if trackerLimit i ≤ l.length then s.answer p 6 0
      else if p.bad then
        (s.setTrackers i (l ++ [{ key := k, failed := true, lastAt := s.cnCycles }])).answer p 5 0x7022
      else
        match landWrite s p with
        | .landed t =>
          let (x, fin) := (Tracker.arrive { key := k } p s.cnCycles)
          let t1 := t.setTrackers i (l ++ [x])
          if fin then t1.answer p 5 0 else t1
        | .refused code t =>
          (t.setTrackers i (l ++ [{ key := k, failed := true, lastAt := s.cnCycles }])).answer p 5 code.toNat
        | .stopped t => t
        | .waits => s
    | some x =>
      let put (t : State) (y : Tracker) : State := t.setTrackers i (l.map fun z => if z.key == k then y else z)
      if x.failed then put s { x with lastAt := s.cnCycles }
      else if p.bad then (put s { x with failed := true, lastAt := s.cnCycles }).answer p 5 0x7022
      else
        match landWrite s p with
        | .landed t =>
          let (y, fin) := x.arrive p s.cnCycles
          if fin then (put t y).answer p 5 0 else put t y
        | .refused code t => (put t { x with failed := true, lastAt := s.cnCycles }).answer p 5 code.toNat
        | .stopped t => t
        | .waits => s
  -- a packet whose write must wait stays where it waits (R41, R50), and one whose answer has no slot (R226)
  if s.packetDropped p || s.aged p then .next (done s)
  else if !s.canAnswer p.dstPhys.toNat p.agent then .next s
  else
    match landWrite s p with
    | .waits => .next s
    | _ => .next (done s)

/-- The answer to a DMA_READ with the data read (R241). -/
def State.answerData (s : State) (p : Packet) (data : List Byte) (bad : Bool) : State :=
  s.inject p.dstPhys.toNat p.agent dlDma
    { blankPacket with
      type := 4, response := true, ordered := p.ordered, agent := p.srcAgent, dstPhys := p.srcPhys
      bay := p.bay, step := p.step, attempt := p.attempt, stepped := p.stepped, tag := p.tag, gen := p.gen
      addr := p.addr, payload := data, bad := bad }

/-- DMA_READ_PACKET (R241): served from a handle, the bay's HBM or the run's input area; `ecc` says what the code finds in the
codewords read (R264). -/
def execDmaReadPacket (p : Packet) (ecc : List (Nat × Ecc)) (s : State) : Out :=
  let b := p.bay.toNat
  let a := p.addr.toNat
  let n := p.count.toNat
  let busy := match ifaceOf p with
    | .stack k => s.stackRests k || (s.stack k).disabled
    | .cove _ => false
    | .jetty => false
    | _ => true
  if busy || !s.canAnswer p.dstPhys.toNat p.agent then .next s
  else .next (s.eject p fun s =>
    let v : View := if p.stepped then (s.packetStep p).map fun r => (b, r.no) else none
    match ifaceOf p with
    | .cove c =>
      let h := (p.handle.getD 0).toNat
      let e := (s.cove c).sp.handle h
      let code := (e.check a n none none).1
      if code ≠ 0 then (s.modCove c fun v => v.modSp fun q => q.noteFault code h 0 2).answer p 5 code.toNat
      else
        let rows := (s.cove c).sp.failingRows e a n
        let s1 := s.modCove c fun u => u.modSp fun q => q.dmaRows h a n false (s.cycles c) ((v.map Prod.snd).getD 0)
        (s1.rowsParity c rows).answerData p ((s.cove c).sp.handleBytes e a n) (!rows.isEmpty)
    | .stack k =>
      let code := hbmFault s b k a n false
      if code ≠ 0 then (s.noteAt k code b a).answer p 5 code.toNat
      else
        let s1 := (s.readBay b v p.deadline a n).eccFindings b k v a ecc
        if recodes ecc then
          (s1.bayHw b ((s.packetStep p).map StepRec.no |>.getD 0) 0x8030).answerData p (s1.bayBytes b v a n) (s1.bayPoison b v a n)
        else s1.answerData p (s1.bayBytes b v a n) (s1.bayPoison b v a n)
    | .jetty =>
      match (s.bay b).run with
      | some w =>
        if w.inLen < a + n then s.answer p 5 0x8010
        else
          let at_ := w.inAddr + a
          let s1 := (List.range 8).foldl (fun (t : State) k => t.eccFindings b k none at_ ecc) (s.readBay b none p.deadline at_ n)
          let s2 := if recodes ecc then s1.bayHw b ((s.packetStep p).map StepRec.no |>.getD 0) 0x8030 else s1
          s2.answerData p (s1.bayBytes b none at_ n) (s1.bayPoison b none at_ n)
      | none => s.answer p 5 0x7011
    | _ => s)

/-- The transfer of a packet that answers it, if its tag and generation are current (R238). -/
def State.transferOf (s : State) (p : Packet) : Option Dma :=
  (s.cove p.dstPhys.toNat).net.transfer p.tag.toNat p.gen.toNat

/-- A transfer ends with an error of the hardware kind: 0x7020 or 0x7022 (R242). -/
def State.transferFails (s : State) (c : Nat) (d : Dma) (code : Code) : State :=
  (s.modCove c fun v => v.modNet fun n => (n.modTransfer d.tag fun x => { x with done := true }).noteDma code d.core).hwErrorIn
    ((s.bayOf c).map fun b => (b, d.step, d.attempt)) c code

/-- Did bad data come from a poisoned codeword of the bay's HBM (R265): of its extents, or of the run's input area? -/
def State.dataPoison (s : State) (b : Nat) (d : Dma) (x : DmaDesc) (p : Packet) : Bool :=
  match x.src.kind, (s.bay b).run with
  | 2, _ => s.bayPoison b (some (b, d.step)) p.addr.toNat p.payload.length
  | 3, some w => s.bayPoison b none (w.inAddr + p.addr.toNat) p.payload.length
  | _, _ => false

/-- DMA_DATA_PACKET (R241): lands at the reader; the last one completes the transfer, or, for a remote destination, each is
written on. -/
def execDmaDataPacket (p : Packet) (s : State) : Out :=
  .next (s.eject p fun s =>
    let c := p.dstPhys.toNat
    match s.transferOf p with
    | none => s.netCount c 1
    | some d =>
      let x := dmaDesc d.desc
      let i := (p.addr.toNat - x.src.off) / 256
      let b := p.bay.toNat
      if p.bad then
        if s.dataPoison b d x p then
          (s.modCove c fun v => v.modNet fun n => n.modTransfer d.tag fun x => { x with done := true }).stopBay b 0x8020
        else s.transferFails c d 0x7022
      else
        let got := if d.got.contains i then d.got else d.got ++ [i]
        let all := got.length = d.total
        let q := dmaWrite s c d i all false p.payload
        let s1 := s.modCove c fun v => v.modNet fun n =>
          n.modTransfer d.tag fun y =>
            { y with got := got, done := all && x.dst.kind == 0, sent := if x.dst.kind = 0 then y.sent else y.sent ++ [q] }
        if x.dst.kind = 0 then
          let e := (s.cove c).sp.handle x.dst.handle
          s1.modCove c fun v => v.modSp fun q =>
            (q.handleWrite e (x.dst.off + 256 * i) p.payload).dmaRows x.dst.handle (x.dst.off + 256 * i) p.payload.length true (s.cycles c) d.step
        else s1.sendDma c d x.dst q)

/-- DMA_DONE_PACKET (R240, R241): status 0 completes the transfer; 0x7022 is a hardware error; a class 0x5 or 0x8 code waits
for the core's next DQ or DWAIT. -/
def execDmaDonePacket (p : Packet) (s : State) : Out :=
  .next (s.eject p fun s =>
    let c := p.dstPhys.toNat
    match s.transferOf p with
    | none => s.netCount c 1
    | some d =>
      let code : Code := p.addr.setWidth 16
      if code = 0 then s.modCove c fun v => v.modNet fun n => n.modTransfer d.tag fun x => { x with done := true }
      else if code = 0x7022 then s.transferFails c d 0x7022
      else s.modCove c fun v => v.modNet fun n =>
        { (n.modTransfer d.tag fun x => { x with done := true }).noteDma code d.core with
          faults := n.faults.put d.core code })

/-- DMA_RETRY_PACKET (R242): the refused packet is sent again 2 µs (1,800 cycles) later; data of the own scratchpad are read again, with
their parity (R134), other data are sent as they were. -/
def execDmaRetryPacket (p : Packet) (s : State) : Out :=
  .next (s.eject p fun s =>
    let c := p.dstPhys.toNat
    match s.transferOf p with
    | none => s.netCount c 1
    | some d =>
      let x := dmaDesc d.desc
      let i := (p.addr.toNat - x.dst.off) / 256
      let sp := (s.cove c).sp
      let src := sp.handle x.src.handle
      let f := x.src.off + 256 * i
      let rows := if x.src.kind = 0 then sp.failingRows src f (x.size i) else []
      let again : List Packet :=
        if x.src.kind = 0 then [dmaWrite s c d i (i + 1 == x.packets) (!rows.isEmpty) (sp.handleBytes src f (x.size i))]
        else (d.sent.filter fun q => q.addr == p.addr).take 1
      (s.rowsParity c rows).modCove c fun v => v.modNet fun n =>
        n.modTransfer d.tag fun y => { y with retry := y.retry ++ again.map fun q => (s.cnCycles + 1800, q) })

/-- DMA_RETRY_RESEND (R242). -/
def execDmaRetryResend (cove : Fin 800) (tag : Fin 4096) (s : State) : Out :=
  let now := s.cnCycles
  match (s.cove cove).net.dma.find? fun d => d.started && !d.done && d.tag == tag.val with
  | none => .next s
  | some d =>
    let due := d.retry.filter fun r => decide (r.1 ≤ now)
    occurs s (!due.isEmpty)
      (due.foldl (fun t r => t.sendDma cove d (dmaDesc d.desc).dst r.2)
        (s.modCove cove fun v => v.modNet fun n => n.modTransfer tag fun y =>
          { y with retry := y.retry.filter fun r => decide (now < r.1) }))

/-- DMA_RETIRE (R238). -/
def execDmaRetire (cove : Fin 800) (s : State) : Out :=
  .next (s.modCove cove fun v => v.modNet fun n => retireHead n s.cnCycles)

/-- DMA_TAG_QUARANTINE_END (R238): 64 µs on the current-network clock. -/
def execDmaTagQuarantineEnd (cove : Fin 800) (tag : Fin 4096) (s : State) : Out :=
  match (s.cove cove).net.tagQuar.find tag with
  | none => .next s
  | some t =>
    occurs s (t + cn64us ≤ s.cnCycles)
      (s.modCove cove fun v => v.modNet fun n => { n with tagQuar := n.tagQuar.erase tag })

/-- DMA_TRACKER_FREE (R242): 88 µs (79,200 cycles) after the last packet. -/
def execDmaTrackerFree (iface : Iface) (key : TransferKey) (s : State) : Out :=
  let l := s.trackers iface
  occurs s (l.any fun t => t.key == key && decide (t.lastAt + 79200 ≤ s.cnCycles))
    (s.setTrackers iface (l.filter fun t => t.key != key))

/-- DMA_TIMEOUT (R242): 88 µs without an answer after the last packet left; none of its packets waits to leave. -/
def execDmaTimeout (cove : Fin 800) (tag : Fin 4096) (s : State) : Out :=
  match (s.cove cove).net.dma.find? fun d => d.started && !d.done && d.tag == tag.val with
  | none => .next s
  | some d =>
    let x := dmaDesc d.desc
    occurs s (decide (d.sentAt + 79200 ≤ s.cnCycles) && d.retry.isEmpty && (x.src.kind != 0 || decide (x.packets ≤ d.cut)) && !(s.cove cove).net.inj.any fun w => d.sends w.p)
      ((s.transferFails cove d 0x7020).modCove cove fun v => v.modNet fun n => n.count 4 1)

/-! The DMA engine at the bank arbiters (R144, R146, R241). -/

/-- Transfer `d` of a cove replaced in its engine. -/
def State.putDma (s : State) (c : Nat) (d : Dma) : State :=
  s.modCove c fun v => v.modNet fun n => { n with dma := n.dma.map fun y => if y.seq = d.seq then d else y }

/-- The packets of a transfer for which the bytes have been read leave (R241); a row completes at most two. -/
def State.sendRead (s : State) (c : Nat) : Nat → Dma → State
  | 0, d => s.putDma c d
  | k + 1, d =>
    let x := dmaDesc d.desc
    let n := x.size d.cut
    if x.packets ≤ d.cut ∨ d.buf.length < n then s.putDma c d
    else
      let data := d.buf.take n
      (s.sendDma c d x.dst (dmaWrite s c d d.cut (d.cut + 1 == x.packets) (data.any Prod.snd) (data.map Prod.fst))).sendRead c k
        { d with buf := d.buf.drop n, cut := d.cut + 1, sentAt := s.cnCycles }

/-- The bytes that a request of the DMA engine takes from its row, with whether their parity fails (R134). -/
def Scratchpad.takes (p : Scratchpad) (q : NarrowReq) : List (Byte × Bool) :=
  let (bank, row) := (p.handle q.handle.toNat).place (q.off / 64)
  let bs := p.row bank row
  (List.range q.taken).map fun i => (bs.getD (q.off % 64 + i) 0, p.rowBad bank row (q.off % 64 + i) 1)

/-- Bytes are stored through a handle with the parity that they are delivered with (R134). -/
def Scratchpad.deliver (p : Scratchpad) (e : HandleEntry) (f : Nat) (bs : List (Byte × Bool)) : Scratchpad :=
  (((List.range bs.length).zip bs).filter fun x => x.2.2).foldl (fun q x => q.spoil e (f + x.1)) (p.handleWrite e f (bs.map Prod.fst))

/-- A granted access of the DMA engine for a transfer takes effect: bytes are read, and leave in packets or are written to the transfer's own
handle, row by row; the last row written completes a local copy. -/
def State.engineGrant (s : State) (c : Nat) (q : NarrowReq) : State :=
  match (s.cove c).net.dma.find? fun d => some d.seq == q.dma && d.started && !d.done with
  | none => s
  | some d =>
    let x := dmaDesc d.desc
    let p := (s.cove c).sp
    let e := p.handle q.handle.toNat
    if q.write then
      let d1 := { d with buf := d.buf.drop q.taken, done := decide (q.size ≤ q.taken) }
      let s1 := if (s.stepsAt c).1.isDrain q.step then s
        else s.modCove c fun v => v.modSp fun p => p.deliver e q.off (d.buf.take q.taken)
      s1.putDma c d1
    else
      let bs := p.takes q
      let d1 := { d with buf := d.buf ++ bs }
      let r := e.place (q.off / 64)
      let s1 := if bs.any Prod.snd then s.rowParity c r.1 r.2 2 else s
      if x.dst.kind ≠ 0 then s1.sendRead c 2 d1
      else if q.size ≤ q.taken then
        (s1.putDma c d1).modCove c fun v => v.modSp fun p =>
          p.dmaRows x.dst.handle x.dst.off x.length true (s.cycles c) d.step (some d.seq)
      else s1.putDma c d1

/-- A granted load or store takes effect on its row (R115, R134); a store of a drain step, which holds only shadow tiles, has none (R55). -/
def State.grant (s : State) (c : Nat) (q : ReqAt) : State :=
  let v := s.cove c
  let r := q.2
  let e := v.sp.handle r.handle.toNat
  let (bank, row) := e.place (r.off / 64)
  let core : CoreRef := ⟨Fin.ofNat 800 c, Fin.ofNat 16 r.core⟩
  let s1 := s.modCove c fun v => v.modSp fun p => p.granted q.1 r (s.cycles c)
  if r.core = 16 then s1.engineGrant c r
  else if r.write ∧ (s.stepsAt c).1.isDrain r.step then s1
  else if r.write then
    s1.modCove c fun v => v.modSp fun p => p.write bank row (r.off % 64) ((bytesOfRow r.data).take r.size)
  else if v.sp.rowBad bank row (r.off % 64) r.size then
    (s1.modCove c fun v => (v.noteParity bank row 1 s.clk.elapsed).dropReqs r.core).exceptionAt core 0x5020 r.pc
  else
    let bs := ((v.sp.row bank row).drop (r.off % 64)).take r.size
    s1.modCore core fun k =>
      if r.vec then k.wv r.rt.toNat (rowOfBytes bs)
      else (k.wg r.rt (BitVec.ofNat 32 (leNat (bs.take 4)))).wg (r.rt + 1) (BitVec.ofNat 32 (leNat (bs.drop 4)))

/-- SCRATCHPAD_NARROW_GRANT (R144, R145): one cycle of a bank's arbiter. `drain` and `feed` say whether the breaker drain and
feed ask for the bank in this cycle. -/
def execScratchpadNarrowGrant (cove : Fin 800) (bank : Fin 16) (drain feed : Bool) (s : State) : Out :=
  let c := cove.val
  let p := (s.cove c).sp
  let t := (s.stepsAt c).1
  let lose (s : State) : State := if feed then s.modCove c fun v => v.modBrk fun b => b.loseCycles 1 else s
  let here := (presented ((List.range p.reqs.length).zip p.reqs) []).filter fun q =>
    let e := p.handle q.2.handle.toNat
    (e.place (q.2.off / 64)).1 == bank.val && (!q.2.write || q.2.core == 16 || t.judge e q.2.step != .stall)
  let now := s.cycles c
  let refused (n : Nat) (s : State) : State :=
    if n = 0 then s else s.modCove c fun v => v.modSp fun p => { p with conflict := bump p.conflict bank.val n }
  if drain then .next (lose (refused (here.length + if feed then 1 else 0) s))
  else
    match pickReq p.lastReq now feed here with
    | none => .next (refused here.length s)
    | some q =>
      let urgent := decide (q.2.since + 8 ≤ now)
      let s1 := refused (here.length - 1 + if feed then 1 else 0) s
      let s2 := if urgent && feed then s1.modCove c fun v => v.modSp fun p => { p with urgent := satAdd32 p.urgent 1 } else s1
      .next ((lose s2).grant c q)

end Sys2Proof.Machine
end

