-- ==== Sys2Proof/Machine/Hbm.lean ====
section
/-!
DEFINITION. Stream ports, shadow copies, the granule map, repair and scrub (10_hbm_and_talus.md R256 to R272).
-/

namespace Sys2Proof.Machine

/-! Stream ports (R23, R257 to R259). -/

/-- The descriptor that the words of a port describe, posted in step `n` (Table 10.5). -/
def streamDesc (d : Tab Word) (w3 : Word) (n : Nat) : StreamDesc :=
  let w0 := (d.get 0 0).toNat
  let w1 := (d.get 0 1).toNat
  let w2 := (d.get 0 2).toNat
  { write := w2 / 2 ^ 20 % 2 == 1, addr := w0 + w1 % 65536 * 2 ^ 32, words := w3.toNat % 2 ^ 24, cycle := w2 % 2 ^ 20
    stride := w2 / 2 ^ 24 + 1, step := if w2 / 2 ^ 21 % 2 = 1 then n + 1 else n, posted := n }

/-- Step-relative cycle of a descriptor's last word. -/
def StreamDesc.lastCycle (x : StreamDesc) : Nat := x.cycle + (x.words - 1) * x.stride

/-- The checks of R259, at the lowest byte offset first. -/
def State.streamFail (s : State) (b l : Nat) (w3 : Word) (x : StreamDesc) : Option Code :=
  let p := s.stream l
  let prev := ((p.served ++ p.fifo).filter fun q => q.write == x.write && q.step == x.step).getLast?
  let n := 64 * x.words
  let inBay := match (s.bay b).record with
    | some r => decide (x.addr + n ≤ r.hbmBytes)
    | none => false
  let one := match (s.bay b).record with
    | some r => r.extents.any fun e =>
        some e.stack == portStack l && decide (e.base ≤ x.addr ∧ x.addr + n ≤ e.base + e.pages * pageBytes)
    | none => false
  firstFail
    ([(x.addr % 64 != 0, 0x8014), (decide (65536 ≤ (p.d.get 0 1).toNat), 0x8014),
      ((p.d.get 0 2).toNat / 2 ^ 22 % 4 != 0 || prev.any fun q => decide (x.cycle ≤ q.lastCycle), 0x8014),
      (decide (2 ^ 24 ≤ w3.toNat), 0x8014), (x.words != 0 && !inBay, 0x8010), (x.words != 0 && !one, 0x8011),
      (x.write && (s.bay b).inCache x.addr n, 0x8012)] : List (Bool × Code))

/-- What a push of a descriptor does (R257, R259). -/
inductive Push where
  | done (t : State)
  | full
  | refused (t : State) (code : Code)

/-- A descriptor that passes, or fails, its checks enters the FIFO of port `l`, whose D3 reads `v` from now on. -/
def State.pushDesc (s : State) (b l : Nat) (v : Word) (x : StreamDesc) (fail : Option Code) : Push :=
  match fail with
  | some code =>
    .refused ((s.modStream l fun p => { p with d := p.d.set 0 3 v }).noteAt ((portStack l).getD 0) code b x.addr) code
  | none =>
    if x.words = 0 then .done (s.modStream l fun p => { p with d := p.d.set 0 3 v })
    else if 16 ≤ (s.stream l).fifo.length then .full
    else .done (s.modStream l fun p =>
      { p with d := p.d.set 0 3 v, fifo := p.fifo ++ [{ x with id := p.nextId }], nextId := p.nextId + 1 })

/-- STRM_D3 written with `v` by a core of cove `c`. A core of a cove without a stream port writes nothing. -/
def State.streamPush (s : State) (c : Nat) (v : Word) : Push :=
  match s.logOf c with
  | none => .done s
  | some l =>
    match portStack l, s.bayOfLog l with
    | some _, some b =>
      let x := streamDesc (s.stream l).d v (s.stepsAt c).2
      s.pushDesc b l v x (s.streamFail b l v x)
    | _, _ => .done s

/-- STRM_D3_WRITE (R257, R259): with a full FIFO the write waits, its command is sent again. -/
def execStrmD3Write (at_ : CoreRef) (value : BitVec 32) (s : State) : Out :=
  match s.streamPush at_.cove value with
  | .done t => .next t
  | .full => .next s
  | .refused t code => .next (t.exception at_ code)

/-- A hardware error of the controller at a word of a port fails the step (R129, R264). -/
def State.streamHw (s : State) (c b a : Nat) (code : Code) : State :=
  let st := ((s.logOf c).bind portStack).getD 0
  let s1 := (s.noteAt st code b a).log code
  match s.attemptAt c with
  | some (_, n, a) => s1.castFail c n a code true
  | none => s1

/-- A read word reaches the port's switch, or is late: it is not in the read buffer at its cycle (R24, R39, R258, R264, R265). A
re-encode mismatch of its codewords fails the step. -/
def State.streamRead (s : State) (b l c : Nat) (x : StreamDesc) (late : Bool) (ecc : List (Nat × Ecc)) : State :=
  let st := (portStack l).getD 0
  let dir := if l / 36 = 0 then 0 else 2
  let due := (s.cove c).tide.stepCyc + x.cycle + x.done * x.stride
  let p := s.stream l
  let s1 := s.modStream l fun p =>
    { p.moved x with rdBuf := p.rdBuf.filter fun r => !(r.id == x.id && r.word == x.done) }
  match p.rdBuf.find? fun r => r.id == x.id && r.word == x.done with
  | none => (s1.modStream l fun p => { p with late := satAdd32 p.late 1 }).tideFault c 0x602C 1 (BitVec.ofNat 5 dir)
  | some r =>
    if late || decide (due < s.cycles c) then
      (s1.modStream l fun p => { p with late := satAdd32 p.late 1 }).tideFault c 0x602C 1 (BitVec.ofNat 5 dir)
    else
      let s2 := s1.eccFindings b st (some (b, x.step)) (x.addr + 64 * x.done) ecc
      if r.poison || ecc.any fun f => f.2 == .failed then s2.stopBay b 0x8020
      else if recodes ecc then s2.streamHw c b (x.addr + 64 * x.done) 0x8030
      else
        let w : TideWord := { data := r.data }
        s2.modCove c fun u => u.modTide fun t =>
          { t with inputs := t.inputs.set [] (4 + dir) (t.inputs.get [] (4 + dir) ++ [(w, due)]) }

/-- The oldest word of the write buffer reaches the bay's HBM (R38, R41, R258, R264). -/
def State.streamWrite (s : State) (b l c : Nat) (bad : Bool) : State :=
  let st := (portStack l).getD 0
  match (s.stream l).wrBuf with
  | [] => s
  | w :: rest =>
    let take (t : State) : State := t.modStream l fun p => { p with wrBuf := rest }
    if bad || !w.ok then (take s).streamHw c b w.addr 0x8031
    else
      match s.stepWriteAt b w.step w.addr w.deadline (bytesOfRow w.data) with
      | .landed t => take t
      | .stalled => s
      | .stopped => (s.noteAt st 0x8013 b w.addr).stopBay b 0x8013

/-- STREAM_WORD_DUE (R24, R258): a read word that is due moves to the port's switch; a write word, which entered the buffer as the
switch drove it, drains to HBM. `late` says that the word left the buffer after its cycle, `bad` that the controller's parity check of
a write word fails, `ecc` what the code finds in a read word's codewords. -/
def execStreamWordDue (cove : Fin 800) (write late bad : Bool) (ecc : List (Nat × Ecc)) (s : State) : Out :=
  let c := cove.val
  match s.logOf c, s.attemptAt c with
  | some l, some (b, n, _) =>
    let usable := match portStack l with
      | some st => !(s.stack st).disabled && !s.stackRests st
      | none => false
    if write then occurs s usable (s.streamWrite b l c bad)
    else
      (match (s.stream l).current false (some n) with
       | none => .next s
       | some x => occurs s (usable && decide ((s.cove c).tide.stepCyc + x.cycle + x.done * x.stride ≤ s.cycles c))
           (s.streamRead b l c x late ecc))
  | _, _ => .next s

/-! Shadows (R262, R263). -/

/-- Poison follows a copy of a chunk (R265). -/
def Stack.copyPoison (k : Stack) (src dst ch : Nat) : Stack :=
  (List.range 8).foldl (fun (k : Stack) i =>
    let from_ := src * 2048 + ch * 8 + i
    let to_ := dst * 2048 + ch * 8 + i
    if k.poison.contains from_ && !k.poison.contains to_ then { k with poison := k.poison ++ [to_] } else k) k

/-- What the copies of a shadow read: committed shadows of its granule, of its own bay's uncommitted ones those of earlier steps; for
a shadow that has itself committed, those that committed before it (R38, R262). -/
def Stack.before (k : Stack) (h : Shadow) : Stack :=
  let mine := k.shadows.filter fun x => x.granule == h.granule
  { k with
    shadows :=
      if h.committed then (mine.takeWhile fun x => x.phys != h.phys).filter Shadow.committed
      else mine.filter fun x => x.phys != h.phys && (x.committed || (x.bay == h.bay && decide (x.step < h.step))) }

/-- Chunk `ch` of shadow `h` of stack `st` is copied from where its data stand, poison with it; the writes that waited land (R262,
R265). Its request carries the deadline of the write that took the shadow (R255). -/
def State.copyChunk (s : State) (st : Nat) (h : Shadow) (ch : Nat) (ecc : List (Nat × Ecc)) : State :=
  let src := ((s.stack st).before h).resolve (some (h.bay, h.step)) h.granule ch
  let s0 := ecc.foldl (fun t f => t.found st src (ch * 256 + f.1 % 8 * 32) f.2) (s.readFlips st src (ch * 256) 256)
  let s1 := (s0.putPhys st h.phys (ch * 256) (memBytes s0.hbm (hbmKey st src (ch * 256)) 256)).modStack st fun k =>
    ((((k.copyPoison src h.phys ch).modShadow h.phys fun x => { x with copied := x.copied ++ [ch] }).ask src (ch * 256) h.deadline
      none).ask h.phys (ch * 256) h.deadline none)
  let s2 := (h.waiting.filter fun w => w.1 / 256 == ch).foldl (fun t w => t.landShadow st h w.1 w.2) s1
  let s3 := s2.modStack st fun k =>
    k.modShadow h.phys fun x => { x with waiting := x.waiting.filter fun w => w.1 / 256 != ch }
  if recodes ecc then s3.bayHw h.bay h.step 0x8030 else s3

/-- SHADOW_CHUNK_COPY (R38, R262, R265): `ecc` says what the code finds in the codewords of the source. -/
def execShadowChunkCopy (stack : Fin 8) (granule : Nat) (step : BitVec 48) (chunk : Fin 256) (ecc : List (Nat × Ecc))
    (s : State) : Out :=
  match (s.stack stack).shadows.find? fun h => h.granule == granule && h.step == step.toNat
      && !h.fresh.contains chunk.val && !h.copied.contains chunk.val with
  | none => .next s
  | some h => occurs s (!(s.stack stack).disabled && !s.stackRests stack) (s.copyChunk stack h chunk ecc)

/-- Is every chunk of a shadow there? -/
def Shadow.whole (h : Shadow) : Bool := (List.range 256).all fun ch => h.fresh.contains ch || h.copied.contains ch

/-- GRANULE_MAP_WRITE (R263): a granule's first committed shadow, once its copy has ended, goes into the map; the granule it replaces,
which no copy reads any more, joins the pool. -/
def execGranuleMapWrite (stack : Fin 8) (s : State) : Out :=
  let k := s.stack stack
  let first (h : Shadow) : Bool := ((k.shadows.filter Shadow.committed).find? fun x => x.granule == h.granule) == some h
  match k.shadows.find? fun h => h.committed && h.whole && first h with
  | none => .next s
  | some h =>
    .next (s.modStack stack fun k =>
      { k with
        shadows := k.shadows.erase h
        poolFreed := k.poolFreed ++ [k.phys h.granule]
        map := if h.phys = h.granule then k.map.erase h.granule else k.map.put h.granule h.phys })

/-! Repair, refresh, scrub (R256, R267, R272). -/

/-- Has a queued request or a planned stream word of the stack a deadline in the bank within 30 µs, 1,687 units (R267)? That of a stream
word lies 2 µs before the cycle of its chunk's first word (R258). -/
def State.bankPlanned (s : State) (st pc bank : Nat) : Bool :=
  ((s.stack st).reqs.any fun r =>
    r.pc == pc && r.bank == bank && (earlier r.deadline s.netNow || decide ((r.deadline - s.netNow).toNat ≤ 1687)))
  || s.streams.rows.any fun r => portStack r.1 == some st && match s.physOf r.1, s.bayOfLog r.1 with
    | some c, some b => r.2.fifo.any fun x =>
        (List.range (x.words - x.done)).any fun i =>
          let first := (x.done + i) - min (x.done + i) ((x.addr / 64 + x.done + i) % 4)
          let at_ := (s.cove c).tide.stepCyc + x.cycle + first * x.stride
          decide (at_ ≤ s.cycles c + 32 * 25 * opDivider (s.half (halfOf c)).op / 4) &&
            match s.locate b (x.addr + 64 * (x.done + i)) with
            | some (_, g, u) =>
              let w := rowOf ((s.stack st).resolve (some (b, x.step)) g (u / 256)) u
              w.1 == pc && w.2.1 == bank
            | none => false
    | _, _ => false

/-- SOFT_PPR (R267): the bank's soft-repair resource takes the row, which is copied back; its temporary entry is released. -/
def execSoftPpr (stack : Fin 8) (pc : Fin 32) (bank : Fin 48) (row : Fin 16384) (s : State) : Out :=
  let k := s.stack stack
  match k.talus.find? fun t => t.temporary && t.pc == pc.val && t.bank == bank.val && t.row == row.val with
  | none => .next s
  | some t =>
    if k.softUsed.contains (pc.val, bank.val) then
      -- no resource is left: the entry becomes permanent
      let e : Talus := { t with temporary := false }
      .next ((s.modStack stack fun k => { k with talus := k.talus.map fun x => if x = t then e else x }).journalTalus stack e false)
    else
      occurs s (!s.bankPlanned stack pc bank)
        ((s.modStack stack fun k =>
          { k.copyRow pc bank row (bank.val, row.val) s.netNow with talus := k.talus.erase t, softUsed := k.softUsed ++ [(pc.val, bank.val)] }).journalTalus stack t true)

/-- Has a bank not been refreshed for `ns` nanoseconds? -/
def Stack.unrefreshed (k : Stack) (pc bank now ns : Nat) : Bool := decide (k.refreshed.get 0 (pc * 48 + bank) + ns ≤ now)

/-- REFRESH (R256): at the interval that JESD238 sets for the stack's temperature a bank is refreshed; its row is closed, no data
change. -/
def execRefresh (stack : Fin 8) (pc : Fin 32) (bank : Fin 48) (s : State) : Out :=
  let k := s.stack stack
  occurs s (!k.disabled && !s.stackRests stack && k.unrefreshed pc bank s.clk.elapsed (Config.refreshNs k.temp))
    (s.modStack stack fun k =>
      { k with refreshed := k.refreshed.put (pc * 48 + bank) s.clk.elapsed, openRow := k.openRow.erase (pc * 48 + bank) })

/-- Codewords of a stack. -/
def stackCodewords : Nat := 393216 * 2048

/-- PATROL_SCRUB (R256, R266): the next codeword is read when it is due in a pass of 12 hours; `found` says that its stored bits fail, and beyond correction. -/
def execPatrolScrub (stack : Fin 8) (found : Option Bool) (s : State) : Out :=
  let k := s.stack stack
  let w := k.scrubAt
  let r := rowOf (w / 2048) (w % 2048 * 32)
  let s1 := s.modStack stack fun k =>
    { k.ask (w / 2048) (w % 2048 * 32) (s.netNow + 16383) none with
      scrubAt := (w + 1) % stackCodewords, scrubFrom := if w + 1 = stackCodewords then k.scrubFrom + dayNs / 2 else k.scrubFrom
      flipped := k.flipped.filter fun x => x != w }
  occurs s (k.scrubEn && k.trained && !k.disabled && !s.stackRests stack
      && decide (k.scrubFrom + w * (dayNs / 2) / stackCodewords ≤ s.clk.elapsed))
    (match found with
     | some true => s1.uncorrectable stack (w / 2048) (w % 2048 * 32)
     | some false => s1.correctable stack r.1 r.2.1 r.2.2
     | none => if k.flipped.contains w then s1.correctable stack r.1 r.2.1 r.2.2 else s1)

/-- HB_CTRL.SCRUB_EN (R272): only the module owner writes it. -/
def execHbScrubEn (who : Requester) (stack : Fin 8) (v : Bool) (s : State) : Out :=
  occurs s (s.isOwner who) (s.modStack stack fun k => { k with scrubEn := v })

/-- HB_CTRL.INJ_CE (R272). -/
def execHbInjCe (who : Requester) (stack : Fin 8) (s : State) : Out :=
  occurs s (s.isOwner who) (s.modStack stack fun k => { k with injCe := true })

end Sys2Proof.Machine
end

