-- ==== Sys2Proof/Machine/Network.lean ====
section
/-!
DEFINITION. The current network's own events: an arbiter's decision, table epochs, disabled links, flags, broadcast and
telemetry packets, CN_CTRL (09 R222 to R237, R244, R245, R247).
-/

namespace Sys2Proof.Machine

/-- A request of an output arbiter: input port, channel and its head packet. -/
abbrev Request := Nat × Nat × Packet

/-- Is the LOCAL requester of cove `c` in reset or in EBB (R233)? -/
def State.localGone (s : State) (c : Nat) : Bool :=
  (match s.bayOf c with
    | some b => (s.bay b).hang.resetting
    | none => false) || (s.half (halfOf c)).ebb

/-- Is the AGENT requester of router `c`, a stack or a port, in EBB (R233)? -/
def State.agentGone (s : State) (c : Nat) : Bool :=
  match agentAt c with
  | some (.stack k) => (s.clk.sleep.get (.run, 0) (1000 + k.val)).1 == .ebb
  | some (.mac p) => (s.clk.sleep.get (.run, 0) (2000 + p.val)).1 == .ebb
  | _ => false

/-- Is the requester at an input port gone? -/
def State.portGone (s : State) (c port : Nat) : Bool :=
  (port == 4 && s.localGone c) || (port == 5 && s.agentGone c)

/-- Is the interface of an ejection port busy with a request that it has not accepted yet? A response is consumed on arrival (R226). -/
def Net.ejectBusy (n : Net) (out : Nat) (p : Packet) : Bool :=
  !p.response && n.ejected.any fun x => x.1 == out && !x.2.response

/-- The packet as the next router's input holds it: the dateline bit of R224. -/
def hopped (c out inPort : Nat) (p : Packet) : Packet :=
  let turned := out ≥ 2 && inPort < 2
  { p with dlx := crossesDateline c out || (p.dlx && !turned && decide (inPort < 4)) }

/-- Free slots needed downstream: two to enter a ring, one to go on in it (R225). -/
def slotsNeeded (out inPort : Nat) : Nat := if (out < 2 && inPort < 2) || (2 ≤ out && 2 ≤ inPort && inPort < 4) then 1 else 2

/-- Can a packet from input `inPort` of router `c` leave by output `out` (R223, R225, R226)? -/
def State.hasRoom (s : State) (c out inPort : Nat) (p : Packet) : Bool :=
  (decide (4 ≤ out) && !(s.cove c).net.ejectBusy out p) ||
    (decide (out < 4) && !(s.cove c).net.linkDis.getLsbD out &&
      decide (slotsNeeded out inPort + ((s.cove (ringNext c out)).net.buf (ringBack out) (packetVc (hopped c out inPort p))).length ≤ 2))

/-- The branch outputs of a broadcast at router `c` (R245): both ways along the X ring of its source to distance 20, from each router
both ways along its Y ring to distance 10, and LOCAL where it is for the cove. A disabled link ends its branch (log entry 131). -/
def State.branches (s : State) (c inPort : Nat) (p : Packet) : List Nat :=
  let src := p.srcPhys.toNat
  let x := (xPos (c % 40) + 40 - xPos (src % 40)) % 40
  let y := (yPos (c / 40) + 20 - yPos (src / 40)) % 20
  let along := if 4 ≤ inPort then [0, 1, 2, 3]
    else if inPort = 1 then (if x < 20 then [0, 2, 3] else [2, 3])
    else if inPort = 0 then (if 20 < x then [1, 2, 3] else [2, 3])
    else if inPort = 3 then (if y < 10 then [2] else [])
    else if 10 < y then [3] else []
  along.filter (fun o => !(s.cove c).net.linkDis.getLsbD o) ++ if p.bay == 0 || s.bayOf c == some p.bay.toNat then [4] else []

/-- Is the head packet's request eligible at output `out` (R223, R225, R226, R233)? One that names an invalid version is dropped by
whichever output takes it first (R235); a broadcast is chosen at its first branch, once every branch has a free slot (R245). -/
def State.eligible (s : State) (c out : Nat) (q : Request) : Bool :=
  let p := q.2.2
  let n := (s.cove c).net
  let gone := s.portGone c q.1 && (n.e408 || n.withdrawn.contains (q.1 * 4 + q.2.1))
  if gone then false
  else if !s.net.valid p.epoch then true
  else if p.bcast then
    let bs := s.branches c q.1 p
    bs.headD 4 == out && bs.all fun o => s.hasRoom c o q.1 p
  else s.route c p == out && s.hasRoom c out q.1 p

/-- Heads of the 24 input queues of a router (R232). -/
def Net.heads (n : Net) : List Request :=
  (List.range 24).filterMap fun k =>
    match n.buf (k / 4) (k % 4) with
    | [] => none
    | p :: _ => some (k / 4, k % 4, p)

/-- The request that wins: earliest deadline, then the response class, then rotation after the last winner (R231). -/
def winner (last : Nat) : List Request → Option Request
  | [] => none
  | q :: t =>
    match winner last t with
    | none => some q
    | some r =>
      let dist (x : Request) : Nat := (x.1 * 4 + x.2.1 + 24 - (last + 1)) % 24
      let better : Bool :=
        if earlier q.2.2.deadline r.2.2.deadline then true
        else if earlier r.2.2.deadline q.2.2.deadline then false
        else if q.2.2.response != r.2.2.response then q.2.2.response
        else decide (dist q < dist r)
      some (if better then q else r)

/-- New tables are written into version `e` of a router: what was written over the old ones goes (R237). -/
def Net.rewriteTables (n : Net) (e : Bool) : Net :=
  { n with
    rt := n.rt.filter fun d _ => if e then decide (d < 800) else decide (800 ≤ d)
    map := n.map.filter fun l _ => if e then decide (l < 720) else decide (720 ≤ l) }

/-- A payload written into the 16 instruction memories of a cove at a byte address (R440). -/
def Cove.writeImem (v : Cove) (a : Nat) (bs : List Byte) : Cove :=
  (List.range 16).foldl (fun v k => v.modCore k fun q =>
    (List.range (bs.length / 4)).foldl (fun q i =>
      { q with imem := q.imem.set 0 (a / 4 + i) (BitVec.ofNat 32 (fieldLe bs (4 * i) 4))
               imemBad := q.imemBad.filter fun x => x != a / 4 + i }) q) v

/-- A broadcast as it is delivered at LOCAL of a cove: a payload of firmware goes into the instruction memories, the last packet carries
the digest (R440). -/
def Cove.takeBroadcast (v : Cove) (p : Packet) : Cove :=
  if p.resv then v.modNet fun n => n.count 1 1
  else if p.last || p.bad || decide (16384 < p.addr.toNat + p.payload.length) then v
  else v.writeImem p.addr.toNat p.payload

/-- A commit or rollback message that reaches an edge agent: the jetty takes it, an HBM controller learns of it with the jetty's COMMIT or
rollback (R44, log entry 199). -/
def State.takeOutcome (s : State) (c : Nat) (p : Packet) : State :=
  s.eject p fun t => if agentAt c == some .jetty then t.stepVote p else t

/-- A chosen packet leaves router `c` by output `out`: to the next router's input, or it is ejected. A broadcast and a commit or rollback
message are consumed on arrival (R226, R245). -/
def State.leave (s : State) (c out inPort : Nat) (p : Packet) : State :=
  let s1 := s.modCove c fun v => v.modNet fun n => n.count (6 + out) (packetFlits p)
  if out < 4 then s1.modCove (ringNext c out) fun v => v.modNet fun n =>
    let h := hopped c out inPort p
    n.setBuf (ringBack out) (packetVc h) (n.buf (ringBack out) (packetVc h) ++ [h])
  else if p.bcast then s1.modCove c fun v => v.takeBroadcast p
  else if p.type == 8 && p.response && p.agent then s1.takeOutcome c p
  else s1.modCove c fun v => v.modNet fun n => { n with ejected := n.ejected ++ [(out, p)] }

/-- ARBITER_DECISION (R222, R231 to R236, R245): `parity` says whether the chosen packet's header fails parity at this router, whether the
table entry that routes it does, and whether the map entry of its injector did (R235); Headland writes a bad entry again as it was. -/
def execArbiterDecision (cove : Fin 800) (out : Fin 6) (parity : ForwardParity) (s : State) : Out :=
  let c := cove.val
  let n := (s.cove c).net
  match winner (n.lastWin.get 23 out) (n.heads.filter (s.eligible c out)) with
  | none => .next s
  | some (port, vc, p) =>
    let key := port * 4 + vc
    let won (s : State) : State := s.modCove c fun v => v.modNet fun n => { n with lastWin := n.lastWin.put out key }
    let take (s : State) : State := ((won s).modCove c fun v => v.modNet fun n =>
      { n.setBuf port vc ((n.buf port vc).drop 1) with withdrawn := n.withdrawn.erase key }).enter c
    if parity.headerBad then
      .next (((take s).netCount c 2).coveError c 0x7021)
    else if (parity.tableBad && !p.bcast) || (parity.mapBad && decide (4 ≤ port) && p.dstLog.isSome && !p.redirected) then
      .next ((take s).hwError c 0x7023)
    else if s.aged p then
      .next (((take s).netCount c 0).netCount c 5)
    else if !s.net.valid p.epoch then .next ((take s).netCount c 1)
    else if s.portGone c port then
      .next (((won s).modCove c fun v => v.modNet fun n => { n with withdrawn := n.withdrawn ++ [key] }).netCount c 5)
    else
      let spoil := n.injPar && !p.payload.isEmpty
      let q : Packet := { p with bad := p.bad || spoil }
      let s1 := (take s).modCove c fun v => v.modNet fun n => { n with injPar := n.injPar && !spoil }
      let s2 := if p.bad then s1.netCount c 2 else s1
      .next ((if p.bcast then s.branches c port p else [out.val]).foldl (fun t o => t.leave c o port q) s2)

/-! Epochs (R235, R237). -/

/-- Disabled links as the tables are computed from. -/
def State.disabledLinks (s : State) : List (Nat × Nat) :=
  s.coves.rows.flatMap fun r => ((List.range 4).filter fun p => r.2.net.linkDis.getLsbD p).map fun p => (r.1, p)

/-- The logical map as the hold and dark masks stand. -/
def State.currentMap (s : State) : Tab Nat :=
  (List.range 720).foldl (fun t l => match s.physOf l with
    | some c => t.put l c
    | none => t) {}

/-- How far ahead of NOW Headland sets SWAP_AT, of the 1,000 to 16,383 units R237 allows (log entry 21). -/
def swapAhead : Nat := 3072

/-- Every router armed for the swap (R237 step 2), `ahead` units from now. -/
def State.arm (s : State) (ahead : Nat) : State :=
  let t := s.netUnits + ahead
  let s1 := s.modCoves (List.range 800) fun _ v => v.modNet fun n => { n with armAt := some t, swapReg := BitVec.ofNat 16 t }
  { s1 with net := { s1.net with swap := some t } }

/-- ARM cleared in every router. -/
def State.disarm (s : State) : State :=
  { s with
    coves := s.coves.map fun _ v => v.modNet fun n => { n with armAt := none }
    net := { s.net with swap := none, wanted := none } }

/-- The version that no router injects under: the tables Headland may write (R235). -/
def State.spareVersion (s : State) : Bool := !(s.cove 0).net.epoch

/-- Steps 1 and 2 of R237: new tables into the version not in force, every router armed; while packets may still use that version the
tables wait (R235). -/
def State.beginSwapTo (s : State) (m : Tab Nat) (ahead : Nat) : State :=
  if s.net.oldUntil.isSome then { s with net := { s.net with wanted := some (m, ahead) } }
  else
    let e := s.spareVersion
    let l := some s.disabledLinks
    ({ s with
      coves := s.coves.map fun _ v => v.modNet fun n => n.rewriteTables e
      net := { s.net with
        links0 := if e then s.net.links0 else l, links1 := if e then l else s.net.links1
        map0 := if e then s.net.map0 else m, map1 := if e then m else s.net.map1
        valid0 := !e || s.net.valid0, valid1 := e || s.net.valid1, wanted := none } }).arm ahead

def State.beginSwap (s : State) : State := s.beginSwapTo s.currentMap swapAhead

/-- Does every router read back ARM for the swap at `t`? -/
def State.allArmed (s : State) (t : Nat) : Bool := (List.range 800).all fun c => (s.cove c).net.armAt == some t

/-- EPOCH_ARM_CHECK (R237 step 3): `unarmed` names routers that the write of ARM did not reach. Where one is not armed, ARM is cleared
everywhere and the swap is armed again. -/
def execEpochArmCheck (unarmed : List (Fin 800)) (s : State) : Out :=
  match s.net.swap with
  | none => .next s
  | some t =>
    let s1 := s.modCoves (unarmed.map Fin.val) fun _ v => v.modNet fun n => { n with armAt := none }
    occurs s (decide (t ≤ s.netUnits + 1000) && decide (s.netUnits < t)) (if s1.allArmed t then s1 else s1.disarm.arm swapAhead)

/-- A router's swap, if it is armed and due: its injectors stamp unordered packets with the other epoch and hold ordered ones. -/
def Net.swapped (n : Net) (now : Nat) : Net :=
  match n.armAt with
  | some t => if t ≤ now then { n with epoch := !n.epoch, armAt := none, holdTo := some (t + 2250) } else n
  | none => n

/-- EPOCH_SWAP (R237 step 4): every armed router swaps; bays that held for a handover go on (R356). -/
def execEpochSwap (s : State) : Out :=
  let now := s.netUnits
  let due := s.coves.rows.filterMap fun r => r.2.net.armAt.filter fun t => decide (t ≤ now)
  let fires := s.net.swap.any fun t => decide (t ≤ now)
  occurs s (!due.isEmpty)
    { s with
      coves := s.coves.map fun _ v => v.modNet fun n => n.swapped now
      net := { s.net with
        swap := if fires then none else s.net.swap
        oldUntil := some ((due.map fun t => t + 2250).foldl max (s.net.oldUntil.getD 0)) }
      bays := if fires then s.bays.map fun _ y => { y with hold := y.hold.filter fun g => (s.rot.moves.find g).isSome } else s.bays }

/-- EPOCH_ORDERED_RESUME (R237 step 5): held packets enter; once the old version is free, tables that wait are written. -/
def execEpochOrderedResume (s : State) : Out :=
  let now := s.netUnits
  let past (x : Option Nat) : Bool := x.any fun t => decide (t ≤ now)
  let s1 := { s with
    coves := s.coves.map fun _ v => v.modNet fun n => { n with holdTo := if past n.holdTo then none else n.holdTo }
    net := { s.net with oldUntil := if past s.net.oldUntil then none else s.net.oldUntil } }
  let s2 := (s1.coves.rows.filter fun r => !r.2.net.inj.isEmpty).foldl (fun t r => t.enter r.1) s1
  occurs s (past s.net.oldUntil || s.coves.rows.any fun r => past r.2.net.holdTo)
    (match s2.net.oldUntil, s2.net.wanted with
      | none, some (m, ahead) => s2.beginSwapTo m ahead
      | _, _ => s2)

/-! Links (R229). -/

/-- The routers of the ring that output port `out` of router `c` lies in, by position. -/
def ringRouters (c out : Nat) : List Nat :=
  if out < 2 then (List.range 40).map fun p => (c / 40) * 40 + xAt p
  else (List.range 20).map fun p => yAt p * 40 + c % 40

/-- The piece of a cut ring that each position lies in: pieces are numbered by the cuts before them, the last wrapping into
the first. -/
def ringPieces (cuts : List Bool) : List Nat :=
  let n := (cuts.filter id).length
  (List.range cuts.length).map fun j => if n = 0 then 0 else ((cuts.take j).filter id).length % n

/-- The routers of a ring that two or more cuts make unreachable: those outside its longest piece. -/
def cutOff (routers : List Nat) (cuts : List Bool) : List Nat :=
  let ids := ringPieces cuts
  let size (k : Nat) : Nat := ids.count k
  let best := (List.range cuts.length).foldl (fun b k => if size b < size k then k else b) 0
  (routers.zip ids).filterMap fun r => if r.2 = best then none else some r.1

/-- A disabled link of a router, both directions, with its consequences (R229). -/
def State.disableLink (s : State) (c out : Nat) : State :=
  let bit (o : Nat) : BitVec 6 := 1#6 <<< o
  let s1 := s.modCove c fun v => v.modNet fun n => { n with linkDis := n.linkDis ||| bit out }
  if 4 ≤ out then s1
  else
    let d := ringNext c out
    let s2 := s1.modCove d fun v => v.modNet fun n => { n with linkDis := n.linkDis ||| bit (ringBack out) }
    let plus := if out < 2 then 0 else 2
    let rs := ringRouters c out
    let cuts := rs.map fun r => (s2.cove r).net.linkDis.getLsbD plus
    if (cuts.filter id).length < 2 then s2
    else
      (cutOff rs cuts).foldl (fun t r =>
        if (t.cove r).net.unreach then t
        else (t.modCove r fun v => v.modNet fun n => { n with unreach := true }).fenceForced r) s2

/-- LINK_DISABLE (R229): rings are rerouted by new tables. -/
def execLinkDisable (cove : Fin 800) (out : Fin 6) (s : State) : Out :=
  .next (((s.disableLink cove out).logCove 0x1042 cove).beginSwap)

/-! CN_CTRL: only the module owner writes it (R247). -/

/-- CN_CTRL.E408_MASK (R233). -/
def execCnE408Mask (who : Requester) (cove : Fin 800) (v : Bool) (s : State) : Out :=
  occurs s (s.isOwner who) (s.modCove cove fun c => c.modNet fun n => { n with e408 := v })
/-- CN_CTRL.INJ_PAR (R247). -/
def execCnInjPar (who : Requester) (cove : Fin 800) (s : State) : Out :=
  occurs s (s.isOwner who) (s.modCove cove fun c => c.modNet fun n => { n with injPar := true })

/-! Packets that a cove receives at LOCAL. -/

/-- FLAG_PACKET (R244): adds its addend to a flag; a packet of another step or attempt is dropped and counted. -/
def execFlagPacket (p : Packet) (s : State) : Out :=
  .next (s.eject p fun s =>
    let c := p.dstPhys.toNat
    let here := (s.bayOf c).bind fun b => (s.bay b).st.running
    if p.bad then s.netCount c 1
    else if here.any fun r => r.no % 4 == p.step.toNat && r.attempt == p.attempt.toNat then
      s.modCove c fun v => v.modNet fun n =>
        { n with flags := n.flags.upd 0 ((p.handle.getD 0).toNat % 16) (· + p.addr.setWidth 32) }
    else s.netCount c 1)

/-- Is the packet one that Headland or the jetty may broadcast at router `c` (R228, R245)? -/
def isBroadcast (c : Nat) (p : Packet) : Bool :=
  p.type == 9 && asSent p && p.bcast && (agentAt c == some .jetty || agentAt c == some .headland)

/-- Does a broadcast travel in the routers or wait at an injector (R245)? -/
def State.broadcasting (s : State) : Bool :=
  s.coves.rows.any fun r => (r.2.net.inj.any fun w => w.p.bcast) || r.2.net.vcs.rows.any fun q => q.2.any fun p => p.bcast

/-- BROADCAST_PACKET (R245): Headland or the jetty hands it to the AGENT injector of its router, while no other is in flight; from there
the arbiters replicate and deliver it. -/
def execBroadcastPacket (cove : Fin 800) (p : Packet) (s : State) : Out :=
  occurs s (isBroadcast cove p && !s.broadcasting) (s.inject cove true dlSlow p)

/-- TELEMETRY_PACKET (R221, R228, R230): one that waits at its destination is delivered, the record of the source's cove with it; another
leaves the LOCAL port of its source. -/
def execTelemetryPacket (p : Packet) (s : State) : Out :=
  .next (if s.atEjection p then s.eject p fun s =>
      if p.bad then s.netCount p.dstPhys.toNat 1
      else s.modCove p.srcPhys.toNat fun v => { v with telem := { v.telem with record := p.payload } }
    else if p.type == 10 && asSent p then s.inject p.srcPhys.toNat false dlSlow p
    else s)

end Sys2Proof.Machine
end

