-- ==== Sys2Proof/Machine/RotationOps.lean ====
section
/-!
DEFINITION. Handovers and sparing (14_tidal_rotation.md R350 to R358, R365 to R375): segment masks, what moves with a slot, spare rows,
the end of a handover, watch, shapes that fit.
-/

namespace Sys2Proof.Machine

/-! Spare rows (R147 to R149). -/

/-- Spare rows of a bank in use. -/
def Scratchpad.usedSpares (p : Scratchpad) (bank : Nat) : List Nat :=
  (p.remap.rows.filter fun r => r.1 / 2048 == bank).map Prod.snd

/-- The spare row that a new remap takes: the lowest unused one that holds no neighbour's copy, else the lowest unused. -/
def Cove.freeSpare (v : Cove) (bank : Nat) : Option Nat :=
  let free := (List.range 16).filter fun k => !(v.sp.usedSpares bank).contains k
  match free.find? fun k => !v.spx.nbCopy.contains (bank * 16 + k) with
  | some k => some k
  | none => free.head?

/-- The cove's SP_REMAP entry of a bank (Table 17.11; log entry 34): spare row number and row, two bytes each. -/
def State.journalRemap (s : State) (c bank : Nat) : State :=
  let rows := ((s.cove c).sp.remap.rows.filter fun r => r.1 / 2048 == bank).flatMap fun r =>
    leBytes 2 (0x8000 + r.2 * 2048 + r.1 % 2048)
  s.journal 3 (leBytes 2 c ++ leBytes 1 bank ++ rows ++ List.replicate (32 - rows.length) 0)

/-- A row goes to a spare row, with its bytes and parity unchanged; a copy of a neighbour's save that stood there is lost
(R148, R150). DESIGN CHOICE (log entry 195): a row that a spare already serves moves to another spare, and the old one is free again. -/
def Cove.remapRow (v : Cove) (bank row k : Nat) : Cove :=
  let p := v.sp
  let to_ := bank * 1024 + k * 64
  let lost := v.spx.nbCopy.contains (bank * 16 + k)
  { v with
    sp := { p with
      remap := p.remap.put (bank * 2048 + row) k
      spare := memSetBytes p.spare to_ (p.row bank row)
      spareBad := p.spareBad.filter (fun x => !(to_ ≤ x && x < to_ + 64))
        ++ ((List.range 64).filter fun i => p.rowBad bank row i 1).map fun i => to_ + i
      due := p.due.filter fun d => d != (bank, row)
      nbHold := p.nbHold && !lost }
    spx := { v.spx with nbCopy := if lost then [] else v.spx.nbCopy } }

/-- R148, R149: a row remapped, or, with every spare row of its bank in use, left and reported 0x5021. -/
def State.spRemap (s : State) (c bank row : Nat) : State :=
  match (s.cove c).freeSpare bank with
  | some k => (s.modCove c fun v => v.remapRow bank row k).journalRemap c bank
  | none =>
    (s.modCove c fun v => v.modSp fun p =>
      { p with exhausted := true, due := p.due.filter fun d => d != (bank, row) }).charge c 0x5021

/-! Masks (R351, R352). -/

/-- Physical cove of local position `x` of segment `g`, and logical cove of local position `k`. -/
def segPhys (g x : Nat) : Nat := (g / 2) * 40 + (g % 2) * 20 + x
def segLog (g k : Nat) : Nat := (g / 2) * 36 + (g % 2) * 18 + k
def localX (c : Nat) : Nat := (c % 40) % 20
def localLx (l : Nat) : Nat := (l % 36) % 18

/-- Logical to physical coves of a segment under a pair of masks (R351). -/
def segMap (g : Nat) (m : BitVec 20 × BitVec 18) : List (Nat × Nat) :=
  ((setBits (~~~ m.2) 18).map (segLog g)).zip ((setBits m.1 20).map (segPhys g))

/-- Masks of segment `g` once a handover has taken effect. -/
def State.masksAfter (s : State) (g : Nat) (h : Handover) : BitVec 20 × BitVec 18 :=
  let hold := s.holdMask g
  let dark := s.darkMask g
  let bit (x : Nat) : BitVec 20 := 1#20 <<< x
  match h.backs, h.dst with
  | some l, some d => (hold ||| bit (localX d), dark &&& ~~~ (1#18 <<< localLx l))
  | _, some d => ((hold &&& ~~~ bit (localX h.src)) ||| bit (localX d), dark)
  | _, none =>
    match s.logOf h.src with
    | some l => (hold &&& ~~~ bit (localX h.src), dark ||| (1#18 <<< localLx l))
    | none => (hold, dark)

/-- New masks of a segment, journalled (R352; log entry 34 for the layout). -/
def State.setMasks (s : State) (g : Nat) (m : BitVec 20 × BitVec 18) : State :=
  ({ s with rot := { s.rot with
      holdMask := s.rot.holdMask.set 0x3FFFF g m.1, darkMask := s.rot.darkMask.set 0 g m.2 } }).journal 2
    (leBytes 1 g ++ leBytes 3 m.1.toNat ++ leBytes 3 m.2.toNat)

/-- The logical map as it stands once every handover that moves has ended. -/
def State.mapAfter (s : State) : Tab Nat :=
  (List.range 40).foldl (fun (t : Tab Nat) g =>
    let m := match s.rot.moves.find g with
      | some h => if h.moving then s.masksAfter g h else (s.holdMask g, s.darkMask g)
      | none => (s.holdMask g, s.darkMask g)
    (segMap g m).foldl (fun (t : Tab Nat) r => t.put r.1 r.2) t) {}

/-! What moves with a slot (R355, Table 14.2). -/

/-- Bytes of the addressable rows, through the remap tables. -/
def Scratchpad.logical (p : Scratchpad) : Memory × List Nat :=
  let m := p.remap.rows.foldl (fun (m : Memory) r =>
    memSetBytes m (r.1 / 2048 * 131072 + r.1 % 2048 * 64) (memBytes p.spare (r.1 / 2048 * 1024 + r.2 * 64) 64)) p.bytes
  let bad := p.bad.filter (fun x => (p.remap.find (x / 131072 * 2048 + x % 131072 / 64)).isNone)
    ++ p.remap.rows.flatMap fun r =>
      (p.spareBad.filter fun x => x / 64 == r.1 / 2048 * 16 + r.2).map fun x =>
        r.1 / 2048 * 131072 + r.1 % 2048 * 64 + x % 64
  (m, bad)

/-- Logical contents written through the receiver's remap tables. -/
def Scratchpad.fill (p : Scratchpad) (x : Memory × List Nat) : Scratchpad :=
  { p with
    bytes := x.1, bad := x.2
    spare := p.remap.rows.foldl (fun (m : Memory) r =>
      memSetBytes m (r.1 / 2048 * 1024 + r.2 * 64) (memBytes x.1 (r.1 / 2048 * 131072 + r.1 % 2048 * 64) 64)) p.spare
    spareBad := (p.spareBad.filter fun b => !(p.usedSpares (b / 1024)).contains (b % 1024 / 64))
      ++ p.remap.rows.flatMap fun r =>
        (x.2.filter fun b => b / 64 == r.1 / 2048 * 2048 + r.1 % 2048).map fun b =>
          r.1 / 2048 * 1024 + r.2 * 64 + b % 64 }

/-- A core takes the instruction memory and place in the program that move at cycle `cyc` of its half; its registers, local data memory and
counters are those of the new cove (R122, R355). -/
def PCore.takeSlot (n o : PCore) (cyc : Nat) : PCore :=
  { n with imem := o.imem, imemBad := o.imemBad, entries := o.entries, used := o.used, pc := o.pc, state := o.state, wait := o.wait
           stall := n.stallNow cyc, stalledAt := cyc, heldAt := none, lastSel := o.lastSel }

/-- Cove `n` takes the slot of cove `o` (Table 14.2), at cycle `cyc` of their half; phase changes that are due take place first, and the
switch goes on in a phase (R186, R210). -/
def Cove.takeSlot (n o : Cove) (cyc : Nat) : Cove :=
  let t := o.tide.advance cyc
  { n with
    cores := (List.range 16).foldl (fun (t : Tab PCore) k => t.upd {} k fun q => q.takeSlot (o.core k) cyc) n.cores
    latches := {}
    brk := { n.brk with tolRel := o.brk.tolRel, tolAbs := o.brk.tolAbs }
    sp := { n.sp.fill o.sp.logical with handles := o.sp.handles }
    spx := { n.spx with reload := o.spx.reload }
    ch := { n.ch with
      queues := o.ch.queues, table := o.ch.table, lastAlloc := o.ch.lastAlloc, held := o.ch.held }
    tide := { n.tide with
      routes := o.tide.routes, ph := t.ph, phNext := t.phNext, phStart := t.phStart, entryPh := o.tide.entryPh
      stepCyc := o.tide.stepCyc, frozen := false, groynes := o.tide.groynes, barriers := o.tide.barriers
      arrived := o.tide.arrived, votes := o.tide.votes, casts := o.tide.casts, inputs := {}, bq := {}, gout := {}, lane := o.tide.lane }
    ig := { n.ig with
      pairs := o.ig.pairs, primSigs := o.ig.primSigs, shadowSigs := o.ig.shadowSigs, failed := o.ig.failed, owed := o.ig.owed, paired := o.ig.paired } }

/-- A cove that holds no slot: no tables, its switch isolated (R153, R206, R428). -/
def Cove.emptySlot (v : Cove) (standby : List Byte) : Cove :=
  let u := v.unloadShape standby
  { u with
    ch := { u.ch with queues := {}, table := {}, held := [] }
    spx := { u.spx with reload := [] }
    ig := { u.ig with failed := [], owed := [] } }

/-- The masks of a segment change, and every slot that moves carries its state (R210, R351, R355). -/
def State.moveSlots (s : State) (g : Nat) (m : BitVec 20 × BitVec 18) : State :=
  let was := segMap g (s.holdMask g, s.darkMask g)
  let will := segMap g m
  let s1 := will.foldl (fun t r =>
    match was.find? fun q => q.1 == r.1 with
    | some q => if q.2 = r.2 then t else t.setCove r.2 ((s.cove r.2).takeSlot (s.cove q.2) (s.cycles q.2))
    | none => t.setCove r.2 ((s.cove r.2).emptySlot s.img.standby)) s
  let freed := (was.map Prod.snd).filter fun c => !(will.map Prod.snd).contains c
  (freed.foldl (fun t c => t.modCove c fun v => v.emptySlot s.img.standby) s1).setMasks g m

/-! After a map change. -/

/-- The watch mask of every bay that holds a slot in the segment follows the coves (R336). -/
def State.rewatch (s : State) (g : Nat) : State :=
  (s.baysOfSeg g).foldl (fun t b => t.modBay b fun y =>
    { y with watch := y.coves.filter fun l => match s.physOf l with
        | some c => (s.cove c).ig.state == .watch
        | none => false }) s

/-- The bay's shape follows what fits (R371 to R375): a switch is wanted to the first fitting shape; with none the bay stops
with 0xB050. -/
def State.refit (s : State) (b : Nat) : State :=
  match (s.bay b).program with
  | none => s
  | some p =>
    if (s.bay b).stopped.isSome then s
    else
      match s.firstShape b p with
      | some k => s.modBay b fun y => { y with wantShape := if k = y.shape then none else some k }
      | none => s.stopBay b 0xB050

/-- Every bay's shape follows what fits. -/
def State.refitAll (s : State) : State := (List.range 16).foldl State.refit s

/-- The dark slot that a new idle spare of segment `g` backs: the one that lets the most preferred shape fit that its bay
prefers to its current one, then the one of lowest x (R375). -/
def State.backing (s : State) (g d : Nat) : Option Nat :=
  let gain (k : Nat) : Option Nat :=
    let l := segLog g k
    match s.bayOfLog l with
    | none => none
    | some b =>
      match (s.bay b).program with
      | none => none
      | some p =>
        let t := { s with rot := { s.rot with
          holdMask := s.rot.holdMask.set 0x3FFFF g (s.holdMask g ||| (1#20 <<< localX d))
          darkMask := s.rot.darkMask.set 0 g (s.darkMask g &&& ~~~ (1#18 <<< k)) } }
        (t.firstShape b p).filter fun j => decide (j < (s.bay b).shape)
  (setBits (s.darkMask g) 18).foldl (fun (best : Option (Nat × Nat)) k =>
    match gain k, best with
    | none, _ => best
    | some j, none => some (k, j)
    | some j, some (k', j') => if j < j' then some (k, j) else some (k', j')) none |>.map Prod.fst

/-- A spare that becomes idle backs a dark slot where R375 says so. -/
def State.backDark (s : State) (d : Nat) : State :=
  let g := segOfPhys d
  if (s.cove d).ig.state = .normal ∧ (s.logOf d).isNone then
    match s.backing g d with
    | some k => s.askMove { src := d, dst := some d, kind := .back, backs := some (segLog g k) }
    | none => s
  else s

/-- A waiting handover takes its turn: its receiving cove is chosen anew; a cove that has lost its slot meanwhile is fenced where it stands,
or held until tested; a spare that is still idle backs the slot that R375 now gives it (R344, R357). The state with the handover placed, or
with what was left to do done and none placed. -/
def State.takeTurn (s : State) (g : Nat) (h : Handover) : State × Bool :=
  if h.kind = .back then
    match h.dst.bind fun d => if (s.cove d).ig.state = .normal ∧ (s.logOf d).isNone then s.backing g d else none with
    | some k => (s.placeMove g { h with backs := some (segLog g k) }, true)
    | none => (s, false)
  else if (s.logOf h.src).isNone then
    if h.kind = .fence then
      let s1 := s.fenceDone h.src false none
      (if h.counted then s1.modField (fieldOf h.src) fun k => { k with capReady := true } else s1, false)
    else (if h.kind = .replay ∧ (s.cove h.src).ig.state = .normal then s.setCoveState h.src .held else s, false)
  else (s.placeMove g { h with dst := s.receiver h.src [] }, true)

/-- The first of the waiting handovers of segment `g` that is still called for takes its turn. -/
def State.turns (s : State) (g : Nat) : List (Nat × Handover) → State
  | [] => s
  | w :: t =>
    let x := ({ s with rot := { s.rot with waiting := s.rot.waiting.erase w } } : State).takeTurn g w.2
    if x.2 then x.1 else x.1.turns g t

/-- The handover is over: its segment's next one takes its place (R357), and capacity that has come back serves the next fence (R367). -/
def State.nextMove (s : State) (g : Nat) : State :=
  let s1 : State := { s with rot := { s.rot with moves := s.rot.moves.erase g } }
  (s1.turns g (s1.rot.waiting.filter fun w => w.1 == g)).decideFences none

/-- Bays that held for the segment go on; they need no swap (R354, R358). -/
def State.unhold (s : State) (g : Nat) : State :=
  { s with bays := s.bays.map fun _ y => { y with hold := y.hold.filter fun k => k != g } }

/-- The handover is abandoned (R354, R358, R366); its receiving cove is idle again (R375). -/
def State.abandonMove (s : State) (g : Nat) (h : Handover) : State :=
  let f := fieldOf h.src
  let s0 := (s.logCove 0xB053 h.src).unhold g
  let s1 := match h.kind with
    | .fence =>
      let t0 := if h.counted then s0.modField f fun k => { k with capReady := true, retry := some h.src } else s0
      if (t0.cove h.src).ig.state == CoveState.suspect then t0.goWatch h.src else t0
    | .test => s0.modField f fun k => { k with pending := none, walk := h.src }
    | _ => s0
  let s2 := s1.nextMove g
  if h.kind = .back then s2 else h.dst.elim s2 s2.backDark

/-- The cove leaves watch (Table 14.4, R368), unless its fence is decided; the next in the queue may be fenced (R367). -/
def State.endWatch (s : State) (c : Nat) : State :=
  let t := s.coveTest c
  if (s.cove c).ig.state = .watch ∧ s.score c = 0 ∧ (t.watchAt.any fun a => decide (a + tenMinutes ≤ s.clk.elapsed)) ∧ !s.fenceAsked c then
    let s1 := (s.setCoveState c .normal).modCoveTest c fun t =>
      { t with watchAt := none, recurAt := some (s.clk.elapsed + 86400000000000) }
    ((s1.modField (fieldOf c) fun k =>
      { k with queue := k.queue.filter fun d => d != c, retry := if k.retry = some c then none else k.retry }).setWatch c false).decideFences none
  else s

end Sys2Proof.Machine
end

