-- ==== Sys2Proof/Machine/Contents.lean ====
section
/-!
DEFINITION. What the main rails feed is initialised again (16_power.md R397; 17_plotoard_image_and_startup.md R419, R434): contents go,
counters and the registers that hold until power-on stay.
-/

namespace Sys2Proof.Machine

/-- A core: its counters, latest exception and debug settings stay (R131). -/
def PCore.restart (k : PCore) : PCore :=
  { ctl := k.ctl, bkpt := k.bkpt, excCode := k.excCode, excNew := k.excNew, excHw := k.excHw, excPc := k.excPc, retired := k.retired
    stall := k.stall, dbgSel := k.dbgSel }

/-- A cove: counters, latest codes, scores and records stay; remap lists and the cove's state come back from the journal at S7. -/
def Cove.restart (v : Cove) : Cove :=
  { cores := (List.range 16).foldl (fun (t : Tab PCore) k => t.set {} k (v.core k).restart) {}
    brk := { fillEn := v.brk.fillEn, rejCode := v.brk.rejCode, rejCore := v.brk.rejCore, ctr := v.brk.ctr, lastRow := v.brk.lastRow
             lastCol := v.brk.lastCol, lastTag := v.brk.lastTag }
    sp := { exhausted := v.sp.exhausted, parErr := v.sp.parErr, urgent := v.sp.urgent, conflict := v.sp.conflict, parBank := v.sp.parBank
            parRow := v.sp.parRow, parSpare := v.sp.parSpare, parReader := v.sp.parReader, faultCode := v.sp.faultCode
            faultHandle := v.sp.faultHandle, faultCore := v.sp.faultCore, faultAgent := v.sp.faultAgent }
    ch := { stale := v.ch.stale, closed := v.ch.closed, full := v.ch.full, timeout := v.ch.timeout, retx := v.ch.retx
            errCode := v.ch.errCode, errCore := v.ch.errCore, headSel := v.ch.headSel }
    tide := { violCode := v.tide.violCode, violPort := v.tide.violPort, violPlane := v.tide.violPlane, violNew := v.tide.violNew
              violCyc := v.tide.violCyc, ctr := v.tide.ctr }
    net := { linkDis := v.net.linkDis, e408 := v.net.e408, ctr := v.net.ctr, errCode := v.net.errCode, errCore := v.net.errCore }
    telem := v.telem
    ig := { v.ig with pairs := {}, primSigs := [], shadowSigs := [], failed := [], weighted := [], paired := [] } }

/-- An HBM controller: S6 trains it and loads its talus map again. -/
def Stack.restart (k : Stack) : Stack :=
  { badSpares := k.badSpares, scrubEn := k.scrubEn, temp := k.temp, errCode := k.errCode, errLoc := k.errLoc, ctr := k.ctr
    talSel := k.talSel }

/-- A bay: its hang registers and energy counter stay (R415, R461). -/
def Bay.restart (y : Bay) : Bay :=
  { hang := { progress := y.hang.progress, resetRec := y.hang.resetRec, resetStep := y.hang.resetStep, resets := y.hang.resets
              recoverUs := y.hang.recoverUs, eddyCode := y.hang.eddyCode, eddySize := y.hang.eddySize, eddyNew := y.hang.eddyNew
              eddyMem := y.hang.eddyMem }
    pwr := { energy := y.pwr.energy } }

/-- A port: its counters and latest events stay (R302). -/
def Port.restart (p : Port) : Port :=
  { lastEvt := p.lastEvt, nakCode := p.nakCode, nakQp := p.nakQp, ctr := p.ctr, lastRetrain := p.lastRetrain, disabled := p.disabled }

/-- Contents that the main rails hold are lost, what is under way ends; every counter keeps its value until power-on. -/
def State.loseContents (s : State) : State :=
  { s with
    coves := (s.coves.map fun _ v => v.restart).filter fun _ v => v != {}
    hbm := {}, streams := {}, qps := {}, portq := {}, net := {}
    ctrls := (s.ctrls.map fun _ k => k.restart).filter fun _ k => k != {}
    bays := (s.bays.map fun _ y => y.restart).filter fun _ y => y != {}
    sessions := (s.sessions.map fun _ x => ({ gen := x.gen, energy := x.energy } : Session)).filter fun _ x => x != {}
    ports := (s.ports.map fun _ p => p.restart).filter fun _ p => p != {}
    jetty := { cmds := s.jetty.cmds, rejects := s.jetty.rejects, refusals := s.jetty.refusals, late := s.jetty.late }
    rot := { s.rot with
      mapped := false, lastStart := none, moves := {}, waiting := []
      fields := (s.rot.fields.map fun _ k =>
        ({ capReady := k.capReady || k.capAt.isNone, capAt := k.capAt, queue := k.queue } : FieldTest)).filter fun _ k => k != {} }
    ident := { s.ident with queue := [] }
    pwr := { s.pwr with glideCause := none, refusing := false, capUnmet := false, duty := 7, above := 0, below := 0 }
    clk := { s.clk with
      cnOn := false, sleep := {}
      plls := (s.clk.plls.map fun _ q => ({ losses := q.losses } : Pll)).filter fun _ q => q != {}
      halves := (s.clk.halves.map fun _ h => ({ capOp4 := h.capOp4, cyc160 := h.cyc160 } : Half)).filter fun _ h => h != {}
      seam := (s.clk.seam.map fun _ p => ({ disabled := p.disabled } : SeamPath)).filter fun _ p => p != {} } }

/-- The main regulators are off, and every content that they feed is lost. -/
def State.mainOff (s : State) : State :=
  let s1 := s.loseContents
  { s1 with pwrx := { s1.pwrx with mainRegs := false } }

/-- A module reset (R419): start-up runs again from S1. The regulators wait for S4 (R396), the image is chosen anew at S2; what the
journal has still to write stays. -/
def State.restart (s : State) : State :=
  let s1 := s.mainOff
  { s1 with
    img := { dev := s.img.dev }
    ident := { attests := s.ident.attests, lastErr := s.ident.lastErr, jtagUsed := s.ident.jtagUsed }
    pins := { s1.pins with swClosed := false }
    su := { s1.su with
      stage := 1, state := 0, stageAt := s.clk.now, limitAt := s.clk.now, totalAt := s.clk.now, held := 0, sounds := {}
      s11Done := false, cargoRead := none, cargoCode := 0, variantOk := false } }

end Sys2Proof.Machine
end

