-- ==== Sys2Proof/Machine/EthOps.lean ====
section
/-!
DEFINITION. What the Ethernet commands share (11_ethernet_ports.md): training, links going down, departure notices, session loss with a
connection, steps of module time.
-/

namespace Sys2Proof.Machine

/-! Links. -/

/-- Are the transmitters allowed: S10 has begun, REFCLK is there, no reset or park of the module holds them off (R300)? -/
def State.linksOn (s : State) : Bool :=
  decide (10#4 ≤ s.su.stage) && s.su.state != 3 && !s.refGone && s.pins.aux && !s.jetty.resetting

/-- FAULT_N (R277, R433, R434, R501): asserted while start-up has stopped, while S0 has held for more than 1 s, or while no port is up once
S10 has begun; released without the auxiliary input. -/
def State.faultPin (s : State) : Bool :=
  s.pins.aux && (s.su.state == 3 || (s.su.stage == 0 && s.su.refLogged)
    || (decide (10#4 ≤ s.su.stage) && !(s.port 0).up && !(s.port 1).up))

/-- A port's training sequence begins (R276). -/
def State.beginTraining (s : State) (p : Nat) : State :=
  s.modPort p fun x =>
    { x with training := true, attempt := 1, trainAt := s.clk.elapsed, attAt := s.clk.elapsed, lanes := [0, 0, 0, 0], width := 0, reduced := false }

/-- A port event is logged and shown in ETH_LAST_EVT (Table 11.14). -/
def State.portEvent (s : State) (p : Nat) (code : Code) : State :=
  (s.modPort p fun x => { x with lastEvt := code }).log code

/-- The link of a port goes down with what waits to be sent (R297); a departure in progress is over (R300, R301), its PTP port is
disabled (Table 11.14); with no port left up FAULT_N is asserted (R277). -/
def State.linkDown (s : State) (p : Nat) : State :=
  let s1 := if (s.port p).up then s.ethCount p 13 1 else s
  let s2 := (s1.modPort p fun x => { x with width := 0, reduced := false, training := false, attempt := 0, lanes := [0, 0, 0, 0] }).modPortQ
    p fun q =>
      { q with
        departing := none, first := [], second := [], owed := 0, rxHalf := 0, pausing := false
        ptp := { q.ptp with state := 0, quality := none } }
  if s2.faultPin && !s.faultPin then { s2 with su := { s2.su with faultCode := 0x9001 } } else s2

/-- The reset that the owner has asked for begins once no departure notice is left (R300, R419). -/
def State.resetIfDown (s : State) : State :=
  if s.jetty.resetting && (s.portQ 0).departing.isNone && (s.portQ 1).departing.isNone then s.restart else s

/-- A link lost without notice trains again (R279). -/
def State.linkLost (s : State) (p : Nat) : State :=
  let s1 := s.linkDown p
  (if (s1.port p).disabled || s.jetty.resetting then s1 else s1.beginTraining p).resetIfDown

/-! Frames (R280, R281). -/

/-- Does the port accept the frame's header: addressed to it, tagged as it is, of good length and FCS (R280)? Requests for its
addresses also come to the broadcast and multicast addresses. -/
def Port.accepts (x : Port) (f : FrameHdr) (group : Bool) : Bool :=
  f.fcsOk && decide (f.length ≤ 4200) && f.vlan == x.vlan
    && (f.dstMac == x.mac || (group && f.dstMac.getLsbD 40))

/-! Departure (R299, R301). -/

/-- Module time of a session's next heartbeat after now. -/
def State.nextBeat (s : State) (k : Nat) : Nat := (s.sess k).lastBeat + 8000

/-- Open sessions on a port. -/
def State.sessionsOn (s : State) (p : Nat) : List Nat :=
  (List.range 256).filter fun k => (s.sess k).state == .open_ && (s.sess k).port == p

/-- A planned event that takes ports down: its one DOWN_AT lies 24 µs after the latest first notice of any session concerned, and never
later than that of a notice it replaces (R299, R301). -/
def State.depart (s : State) (ports : List Nat) (reason : Code) (retrain : Bool) : State :=
  let sessions := ports.flatMap s.sessionsOn
  let latest := sessions.foldl (fun m k => max m (s.nextBeat k)) s.mt.ns
  let at_ := if sessions.isEmpty then s.mt.ns else latest + 24000
  let down := (ports.filterMap fun p => (s.portQ p).departing).foldl (fun m d => min m d.downAt) at_
  let d : Departure := { reason := reason, scope := if ports.length = 2 then 1 else 0, downAt := down, downMs := 0, retrain := retrain }
  ports.foldl (fun t p =>
    (t.modPortQ p fun q => { q with departing := some d }).modPort p fun x => { x with lastEvt := reason }) s

/-! Sessions of a connection (Table 12.11). -/

/-- Slots whose session is bound to connection `q`. -/
def State.sessionsOf (s : State) (q : Nat) : List Nat :=
  (List.range 256).filter fun k => (s.sess k).state == .open_ && (s.sess k).qp == q

/-- The connection has failed or is disconnected: its sessions are orphaned, an open under verification is abandoned. -/
def State.dropSessions (s : State) (q : Nat) : State :=
  let s1 := (s.sessionsOf q).foldl (fun t k =>
    (t.modSess k fun x => { x with state := .orphaned, orphanAt := t.mt.ns }).eventBut (k / 16) (some k) 8 0) s
  let s2 := (s.qp q).opens.foldl (fun t o =>
    match o.slot with
    | some k => t.modSess (o.bay * 16 + k) fun x => { x with state := .free, regions := [], kept := [], outstanding := [] }
    | none => t) s1
  s2.modQp q fun x => { x with opens := [], nonce := none }

/-! Module time (R290, R291). -/

/-- A time measured in module time after a step by `d`. -/
def shifted (t : Nat) (d : Int) : Nat := (Int.ofNat t + d).toNat

/-- Module time steps by `d` nanoseconds: what the module itself times in module time is recomputed (R291); deadlines that hosts
have given stay. -/
def State.stepTime (s : State) (d : Int) : State :=
  { s with
    mt := { s.mt with ns := shifted s.mt.ns d, stepped := true, slew := 0 }
    sessions := s.sessions.map fun _ x =>
      { x with openAt := shifted x.openAt d, orphanAt := shifted x.orphanAt d, lastBeat := shifted x.lastBeat d }
    qps := s.qps.map fun _ x =>
      { x with nonce := x.nonce.map fun n => (n.1, shifted n.2 d) }
    portq := s.portq.map fun _ q =>
      { q with departing := q.departing.map fun x => { x with downAt := shifted x.downAt d } }
    jetty := { s.jetty with maint := { s.jetty.maint with busyTill := shifted s.jetty.maint.busyTill d } }
    coves := s.coves.map fun _ v => v.modCh fun h =>
      { h with table := h.table.map fun _ e => { e with fullSince := e.fullSince.map fun t => shifted t d } } }

end Sys2Proof.Machine
end

