-- ==== Sys2Proof/Machine/Transport.lean ====
section
/-!
DEFINITION. Connections and the RoCEv2 responder (11_ethernet_ports.md R282 to R288, R296; 12_tideline_commands.md R304, R315).
-/

namespace Sys2Proof.Machine

/-! Connections (R282). -/

/-- Attribute identifiers of the communication-management messages, of the InfiniBand standard (PRESUMED, log entry 36). -/
def cmRejMsg : BitVec 8 := 0x12
def cmRepMsg : BitVec 8 := 0x13
def cmDrepMsg : BitVec 8 := 0x16

/-- Line rate of a port in Mbit/s. -/
def Port.mbps (x : Port) : Nat := 50000 * 2 ^ x.width.toNat

/-- CM_REQ (R282, R441): before the module is in service no resources are available; then the lowest free queue pair connects, or the REQ is rejected with the standard's reason (PRESUMED, log entry 36). -/
def execCmReq (port : Fin 2) (r : CmReq) (s : State) : Out :=
  let p := port.val
  let s1 := s.ethCount p 0 1
  let mac := r.hdr.srcMac
  let reject (reason : Nat) : State := s1.transmit p (.cm mac r.peerIp 512 cmRejMsg reason)
  occurs s (s.port p).up
    (if !(s.port p).accepts r.hdr false then s1.ethCount p 2 1
     else if s.su.state != 2 then reject 3
     else if !r.rc then reject 9
     else if r.mtu ≠ 4096 then reject 26
     else
      match (List.range 512).find? fun q => (s.qp q).state == .free with
      | none => reject 1
      | some q =>
        let n := min r.resources 16
        (s1.modQp q fun _ =>
          { state := .connecting, port := p, peerMac := mac, peerIp := r.peerIp, epsn := r.psn, resources := n
            rate := (s.port p).mbps, target := (s.port p).mbps }).transmit p (.cm mac r.peerIp q cmRepMsg n))

/-- A frame of a connection other than a request (R280, R281, R286): counted; one that the port does not accept, or for a queue pair in
none of the states `live`, is dropped and counted; else the connection's frames go to where it came from, and `f` follows. -/
def State.connFrame (s : State) (c : ConnFrame) (live : List QpState) (f : State → State) : Out :=
  let x := s.qp c.qp
  let s1 := s.ethCount x.port 0 1
  occurs s (s.port x.port).up
    (if (s.port x.port).accepts c.hdr false && live.contains x.state then f (s1.modQp c.qp fun x => { x with peerMac := c.hdr.srcMac })
     else s1.ethCount x.port 2 1)

/-- CM_RTU (R282). -/
def execCmRtu (f : ConnFrame) (s : State) : Out :=
  s.connFrame f [.connecting] fun t => t.modQp f.qp fun x => { x with state := .ready }

/-- CM_REJ (R282): the peer turns the connection down. -/
def execCmRej (f : ConnFrame) (s : State) : Out := s.connFrame f [.connecting] fun t => t.modQp f.qp fun _ => {}

/-- CM_DREQ (R282, Table 12.11): the connection ends; its sessions are orphaned. -/
def execCmDreq (f : ConnFrame) (s : State) : Out :=
  s.connFrame f [.connecting, .ready, .error] fun t =>
    let x := t.qp f.qp
    ((t.dropSessions f.qp).transmit x.port (.cm x.peerMac x.peerIp f.qp cmDrepMsg 0)).modQp f.qp fun _ => {}

/-! Answers of the responder (R284, R286, Table 11.4). -/

def State.ack (s : State) (q : Nat) (psn : BitVec 24) : State := s.transmit (s.qp q).port (.ack q psn)

/-- A NAK: its cause is kept with the port and the connection's sessions (R286, Table 11.11); but for a PSN sequence error and an RNR
NAK it ends the connection. -/
def State.nak (s : State) (q : Nat) (psn : BitVec 24) (syndrome : BitVec 8) (code : Code) : State :=
  let p := (s.qp q).port
  let s1 := (s.transmit p (.nak q psn syndrome)).ethCount p (if syndrome = 0x21 then 6 else 5) 1
  if syndrome = 0x60 then s1
  else
    let s2 := s1.modPort p fun x => { x with nakCode := code, nakQp := BitVec.ofNat 9 q }
    let s3 := (s2.sessionsOf q).foldl (fun t k => t.modSess k fun x => { x with lastNak := code }) s2
    if syndrome = 0x21 then s3
    else
      (s3.modQp q fun x => { x with state := .error, write := none, gathers := [] }).dropSessions q

/-- Half-bytes of a mebibyte. -/
def halfMiB : Nat := 2097152

/-- R288: a packet marked CE, or one that finds more than 1 MiB in the port's receive buffer, draws a congestion notification, at most
one per interval and queue pair. -/
def State.notify (s : State) (b : Bth) : State :=
  let q := b.qp.val
  let p := (s.qp q).port
  if !b.ce && decide ((s.portQ p).rxHalf ≤ halfMiB) then s
  else
    let s1 := if b.ce then s.ethCount p 9 1 else s
    if (s.qp q).cnpAt.any fun t => decide (s.clk.elapsed < t + (s.portQ p).dcqcn.cnpUs * 1000) then s1
    else ((s1.modQp q fun x => { x with cnpAt := some s.clk.elapsed }).transmit p (.cnp q)).ethCount p 7 1

/-- `n` bytes enter the receive buffer; with flow control PAUSE is sent, for the longest time, once it holds 1.5 MiB (R289). -/
def State.buffered (s : State) (p n : Nat) : State :=
  let s1 := s.modPortQ p fun q => { q with rxHalf := q.rxHalf + 2 * n }
  if (s.port p).pfcEn && !(s.portQ p).pausing && decide (3 * halfMiB ≤ 2 * (s1.portQ p).rxHalf) then
    (s1.modPortQ p fun q => { q with pausing := true }).transmit p (.pause (s.port p).pfcPrio 0xFFFF)
  else s1

/-- A request packet of a connection with `n` bytes of payload (R280, R281, R283, R284, R286, R289): dropped where the port does not accept its
frame, where it finds the receive buffer full, with a bad invariant CRC or without a connection; beyond the expected PSN one NAK for the gap; before it a duplicate; in
order `f`. -/
def State.request (s : State) (b : Bth) (n : Nat) (dup f : State → State) : Out :=
  let q := b.qp.val
  let x := s.qp q
  let s1 := s.ethCount x.port 0 1
  occurs s (s.port x.port).up
    (if !(s.port x.port).accepts b.hdr false || !b.icrcOk || x.state == .free || x.state == .error || decide (2 * halfMiB < (s.portQ x.port).rxHalf + 2 * n) then s1.ethCount x.port 2 1
     else
      let s2 := ((s1.modQp q fun x => { x with state := .ready, peerMac := b.hdr.srcMac }).notify b).buffered x.port n
      let d := b.psn - x.epsn
      if d = 0 then f (s2.modQp q fun x => { x with nakOut := false })
      else if d.toNat < 2 ^ 23 then
        (if x.nakOut then s2 else (s2.modQp q fun x => { x with nakOut := true }).nak q x.epsn 0x60 0)
      else dup s2)

/-- The expected PSN advances by `n`. -/
def State.advance (s : State) (q : Nat) (n : Nat) : State := s.modQp q fun x => { x with epsn := x.epsn + BitVec.ofNat 24 n }

/-- An opcode that the responder does not support (R283). -/
def State.unsupported (s : State) (b : Bth) : Out :=
  s.request b 0 (fun t => t.ack b.qp b.psn) fun t => t.nak b.qp b.psn 0x61 0x9015

/-- SEND_FIRST. -/
def execSendFirst (b : Bth) (s : State) : Out := s.unsupported b
/-- SEND_MIDDLE. -/
def execSendMiddle (b : Bth) (s : State) : Out := s.unsupported b
/-- SEND_LAST. -/
def execSendLast (b : Bth) (s : State) : Out := s.unsupported b
/-- RDMA_WRITE_WITH_IMMEDIATE. -/
def execRdmaWriteWithImmediate (b : Bth) (s : State) : Out := s.unsupported b
/-- ATOMIC_COMPARE_AND_SWAP. -/
def execAtomicCompareAndSwap (b : Bth) (s : State) : Out := s.unsupported b
/-- ATOMIC_FETCH_AND_ADD. -/
def execAtomicFetchAndAdd (b : Bth) (s : State) : Out := s.unsupported b

/-- Opcodes of Reliable Connection that the responder acts on: SEND Only in both forms, RDMA WRITE First, Middle, Last, Only, RDMA
READ Request (PRESUMED encodings of the standard, log entry 36). -/
def supportedOpcodes : List Nat := [0x04, 0x05, 0x06, 0x07, 0x08, 0x0A, 0x0C]

/-- UNSUPPORTED_OPCODE: of an opcode that has rows of its own the event does not occur. -/
def execUnsupportedOpcode (b : Bth) (opcode : BitVec 8) (s : State) : Out :=
  if supportedOpcodes.contains opcode.toNat then .next s else s.unsupported b

/-! SEND (R283, R296, R304). -/

/-- The commands of a payload, and the descriptor at which parsing ends because its extension units run past the end. -/
def parseSend (q : Fin 512) (tag : BitVec 32) : Nat → List Byte → List JCmd × Option JCmd
  | 0, _ => ([], none)
  | n + 1, bs =>
    if bs.length < 64 then ([], none)
    else
      let k := 64 * (bs.getD 1 0).toNat
      let c : JCmd := ⟨q, tag, bs.take 64, (bs.drop 64).take k⟩
      if bs.length < 64 + k then ([], some { c with ext := [] })
      else
        let r := parseSend q tag n (bs.drop (64 + k))
        (c :: r.1, r.2)

/-- Opcodes of Table 12.3. -/
def knownOpcodes : List Nat :=
  [0x00, 0x01, 0x02, 0x03, 0x04, 0x05, 0x06, 0x08, 0x09, 0x0A, 0x0B, 0x0C, 0x0D, 0x10, 0x11, 0x12, 0x13, 0x18, 0x19, 0x1A, 0x1B]

/-- A SEND in order: its commands enter the port's queue together or not at all, the one at which parsing ends because its extension
units run past the end the last (R296, R304). -/
def State.deliverSend (s : State) (b : Bth) (tag : BitVec 32) (payload : List Byte) : State :=
  let q := b.qp.val
  let p := (s.qp q).port
  if payload.length % 64 ≠ 0 then s.nak q b.psn 0x61 0x9017
  else if 4096 < payload.length then s.nak q b.psn 0x61 0x9015
  else
    let r := parseSend b.qp tag 64 payload
    let cs := r.1 ++ r.2.toList
    if 64 < (s.portQ p).cmds.length + cs.length then s.nak q b.psn 0x21 0x9016
    else ((s.modPortQ p fun x => { x with cmds := x.cmds ++ cs }).advance q 1).ack q b.psn

/-- SEND_ONLY. -/
def execSendOnly (b : Bth) (payload : List (BitVec 8)) (s : State) : Out :=
  s.request b payload.length (fun t => t.ack b.qp b.psn) fun t => t.deliverSend b 0 payload
/-- SEND_ONLY_WITH_IMMEDIATE. -/
def execSendOnlyWithImmediate (b : Bth) (imm : BitVec 32) (payload : List (BitVec 8)) (s : State) : Out :=
  s.request b payload.length (fun t => t.ack b.qp b.psn) fun t => t.deliverSend b imm payload

/-! RDMA (R43, R283, R285, R287, R315). -/

/-- The region that an R_Key names on a connection, with the slot of the session that holds it. -/
def State.regionOf (s : State) (q : Nat) (rkey : BitVec 32) : Option (Nat × Region) :=
  (s.sessionsOf q).findSome? fun k => ((s.sess k).regions.find? fun r => r.rkey == rkey).map fun r => (k, r)

/-- Granules that bay `b` holds shadows of, among those of a range (R43). -/
def State.shadowed (s : State) (b a n : Nat) : Bool :=
  (List.range (n / 65536 + 2)).any fun i =>
    let x := max a ((a / 65536 + i) * 65536)
    decide (x < a + n) && match s.locate b x with
      | some (st, g, _) => (s.stack st).shadows.any fun h => h.granule == g && h.bay == b && !h.committed
      | none => false

/-- Logical coves of a kind 1 range. -/
def windowCoves (a n : Nat) : List Nat := (List.range (n / 0x200000 + 2)).filterMap fun i =>
  let l := a / 0x200000 + i
  if l * 0x200000 < a + n ∧ a < (l + 1) * 0x200000 then some l else none

/-- The HBM ranges that a program declares writable: pairs of bay-relative address and length (WRITABLE, Table 17.9). -/
def Program.writable (p : Program) : List (Nat × Nat) :=
  (p.parts.filter fun q => q.kind == 11).flatMap fun q =>
    (List.range (q.body.length / 16)).map fun i => (fieldLe q.body (16 * i) 8, fieldLe q.body (16 * i + 8) 8)

/-- A host WRITE is safe from the NAK 0x9011 when the bay has no run in progress, or when it meets none of the ranges that the loaded
program declares writable (R317); a range takes in the whole of its granules (log entry 143). -/
def Bay.writeSafe (y : Bay) (va n : Nat) : Bool :=
  !y.busy || !(match y.program with
    | some p => p.writable.any fun r => decide (r.1 / 65536 * 65536 < va + n ∧ va < (r.1 + r.2 + 65535) / 65536 * 65536 ∧ 0 < r.2)
    | none => true)

/-- Does a range reach a stack that is disabled, whose pages are unusable (R270)? -/
def State.reachesDisabled (s : State) (b a n : Nat) : Bool :=
  (List.range (n / 65536 + 2)).any fun i =>
    let x := max a ((a / 65536 + i) * 65536)
    decide (x < a + n) && match s.locate b x with
      | some (st, _, _) => (s.stack st).disabled
      | none => false

/-- Codes of the NAKs for an access of `n` bytes at `va`; `whole` bytes of the message lie from there (R285, in its order). -/
def State.accessFail (s : State) (q : Nat) (rkey : BitVec 32) (va whole n : Nat) (write : Bool) : Option Code :=
  match s.regionOf q rkey with
  | none => some 0x9010
  | some (k, r) =>
    let b := k / 16
    let y := s.bay b
    if va < r.addr ∨ r.addr + r.len < va + whole ∨ (write ∧ !r.write) ∨ (!write ∧ !r.read) then some 0x9010
    else if r.kind = 1 ∧ (windowCoves va n).any fun l => (s.physOf l).isNone then some 0x9010
    else if r.kind = 1 ∧ (s.regionTarget va).refusal.isSome then (s.regionTarget va).refusal
    else if write ∧ r.kind = 0 ∧ s.reachesDisabled b va n then some 0x9010
    else if write ∧ r.kind = 0 ∧ y.inCache va n then some 0x9013
    else if write ∧ r.kind = 0 ∧ !y.writeSafe va n ∧ s.shadowed b va n then some 0x9011
    else if r.kind = 1 ∧ (!y.st.live.isEmpty ∨ y.st.replay.isSome ∨ y.hang.resetting ∨ y.hang.recovering) then some 0x9012
    else if !write ∧ r.kind = 0 ∧ s.bayPoison b none va n then some 0x9014
    else none

/-- The syndrome of a cause (Table 11.4). -/
def syndromeOf (code : Code) : BitVec 8 := if code = 0x9014 then 0x63 else 0x62

/-- Bytes written through the windows of logical coves (R135, R315). -/
def State.windowWrite (s : State) (a : Nat) : List Byte → State
  | [] => s
  | x :: t =>
    let s1 := match s.regionTarget a with
      | .scratch c o => s.modCove c fun v => v.modSp fun p => p.write (o / 131072) (o % 131072 / 64) (o % 64) [x]
      | _ => s
    State.windowWrite s1 (a + 1) t

/-- Bytes read through the windows. -/
def State.windowRead (s : State) (a n : Nat) : List Byte :=
  (List.range n).map fun i =>
    match s.regionTarget (a + i) with
    | .scratch c o => ((s.cove c).sp.row (o / 131072) (o % 131072 / 64)).getD (o % 64) 0
    | _ => 0

/-- Host accesses to scratchpad windows wake the coves and halves that they reach (R388). -/
def State.windowWakes (s : State) (a n : Nat) : State :=
  ((List.range ((a + n - 1) / 0x200000 + 1 - a / 0x200000)).filterMap fun i => s.physOf (a / 0x200000 + i)).foldl
    (fun t c => (if (t.half (halfOf c)).ebb then t.wakeHalf (halfOf c) else t).wakeCove c) s

/-- A row of the range whose parity fails: cove, bank and row (R134). -/
def State.windowBad (s : State) (a n : Nat) : List (Nat × Nat × Nat) :=
  (List.range (n / 64 + 2)).filterMap fun i =>
    let x := (a / 64 + i) * 64
    let o := x % 0x200000
    let from_ := max a x
    match s.physOf (x / 0x200000) with
    | some c =>
      if (s.cove c).sp.rowBad (o / 131072) (o % 131072 / 64) (from_ - x) (min (x + 64) (a + n) - from_)
      then some (c, o / 131072, o % 131072 / 64) else none
    | none => none

/-- A WRITE packet's payload lands (R43, R285). -/
def State.landRdma (s : State) (q : Nat) (rkey : BitVec 32) (va : Nat) (bs : List Byte) : State :=
  match s.regionOf q rkey with
  | none => s
  | some (k, r) =>
    if r.kind = 0 then
      s.committedWrite (k / 16) (s.netNow + BitVec.ofNat 16 dlDma) va bs
    else (s.windowWakes va bs.length).windowWrite va bs

/-- The first or only packet of a WRITE; `last` says that it is the only one. -/
def State.rdmaWrite (s : State) (b : Bth) (r : Reth) (payload : List Byte) (last : Bool) : State :=
  let q := b.qp.val
  let n := r.len.toNat
  if n = 0 then (s.advance q 1).ack q b.psn
  else if 4096 < payload.length ∨ (last ∧ payload.length ≠ n) ∨ (!last ∧ (payload.length ≠ 4096 ∨ n ≤ 4096)) then s.nak q b.psn 0x61 0x9015
  else
    match s.accessFail q r.rkey r.va.toNat n payload.length true with
    | some code => s.nak q b.psn (syndromeOf code) code
    | none =>
      let s1 := (s.landRdma q r.rkey r.va.toNat payload).advance q 1
      if last then s1.ack q b.psn
      else
        let s2 := s1.modQp q fun x => { x with write := some ⟨r.rkey, r.va.toNat + payload.length, n - payload.length⟩ }
        if b.ackReq then s2.ack q b.psn else s2

/-- A later packet of a WRITE. -/
def State.rdmaWriteMore (s : State) (b : Bth) (payload : List Byte) (last : Bool) : State :=
  let q := b.qp.val
  match (s.qp q).write with
  | none => s.nak q b.psn 0x61 0x9015
  | some w =>
    if 4096 < payload.length ∨ (last ∧ payload.length ≠ w.left) ∨ (!last ∧ (payload.length ≠ 4096 ∨ w.left ≤ 4096)) then s.nak q b.psn 0x61 0x9015
    else
      match s.accessFail q w.rkey w.addr payload.length payload.length true with
      | some code => s.nak q b.psn (syndromeOf code) code
      | none =>
        let s1 := (s.landRdma q w.rkey w.addr payload).advance q 1
        let s2 := s1.modQp q fun x =>
          { x with write := if last then none else some ⟨w.rkey, w.addr + payload.length, w.left - payload.length⟩ }
        if last || b.ackReq then s2.ack q b.psn else s2

/-- RDMA_WRITE_FIRST. -/
def execRdmaWriteFirst (b : Bth) (r : Reth) (payload : List (BitVec 8)) (s : State) : Out :=
  s.request b payload.length (fun t => t.ack b.qp b.psn) fun t => t.rdmaWrite b r payload false
/-- RDMA_WRITE_ONLY. -/
def execRdmaWriteOnly (b : Bth) (r : Reth) (payload : List (BitVec 8)) (s : State) : Out :=
  s.request b payload.length (fun t => t.ack b.qp b.psn) fun t => t.rdmaWrite b r payload true
/-- RDMA_WRITE_MIDDLE. -/
def execRdmaWriteMiddle (b : Bth) (payload : List (BitVec 8)) (s : State) : Out :=
  s.request b payload.length (fun t => t.ack b.qp b.psn) fun t => t.rdmaWriteMore b payload false
/-- RDMA_WRITE_LAST. -/
def execRdmaWriteLast (b : Bth) (payload : List (BitVec 8)) (s : State) : Out :=
  s.request b payload.length (fun t => t.ack b.qp b.psn) fun t => t.rdmaWriteMore b payload true

/-- Does the range reach a stack that cannot answer now (R387, R384)? -/
def State.gatherWaits (s : State) (b va n : Nat) : Bool :=
  (List.range (n / 65536 + 2)).any fun i =>
    let x := max va ((va / 65536 + i) * 65536)
    decide (x < va + n) && match s.locate b x with
      | some (st, _, _) => s.stackRests st || (s.stack st).disabled || (s.stack st).lossAt.isSome
      | none => false

/-- The READ Response packets of a gathered read: First 0x0D, Middle 0x0E, Last 0x0F, Only 0x10 (PRESUMED encodings of the standard,
log entry 36). `n` is the number of packets left. -/
def State.responses (s : State) (q : Nat) (psn : BitVec 24) (first : Bool) : Nat → List Byte → State
  | 0, _ => s
  | n + 1, bs =>
    let op : BitVec 8 := if n = 0 then (if first then 0x10 else 0x0F) else if first then 0x0D else 0x0E
    State.responses (s.transmit (s.qp q).port (.readResp q psn op (bs.take 4096))) q (psn + 1) false n (bs.drop 4096)

/-- Packets of a read of `n` bytes. -/
def readPackets (n : Nat) : Nat := max 1 ((n + 4095) / 4096)

/-- A READ is gathered, by a deadline 2 µs or 1,800 network cycles on (R287), and answered, or refused (R285); `ecc` says what the code of the stacks finds in the codewords read (R264,
R265). -/
def State.serveRead (s : State) (q : Nat) (psn : BitVec 24) (rkey : BitVec 32) (va n : Nat) (ecc : List (Nat × Ecc)) : State :=
  match s.accessFail q rkey va n n false, s.regionOf q rkey with
  | some code, _ => s.nak q psn (syndromeOf code) code
  | none, none => s
  | none, some (k, r) =>
    let count (t : State) : State := t.modQp q fun x => { x with bytes := x.bytes + n }
    if r.kind = 0 then
      let s1 := (List.range 8).foldl (fun (t : State) st => t.eccFindings (k / 16) st none va ecc)
        (s.readBay (k / 16) none (s.netNow + 112) va n)
      if recodes ecc || s1.bayPoison (k / 16) none va n then s1.nak q psn 0x63 0x9014
      else (count s1).responses q psn true (readPackets n) (s1.bayBytes (k / 16) none va n)
    else
      match s.windowBad va n with
      | [] => (count (s.windowWakes va n)).responses q psn true (readPackets n) (s.windowRead va n)
      | bad => (bad.foldl (fun t x => (t.modCove x.1 fun v => v.noteParity x.2.1 x.2.2 2 s.clk.elapsed).charge x.1 0x5020) s).nak q psn
          0x63 0x9014

/-- A READ Request, in order or again (R284, R287). -/
def State.readRequest (s : State) (b : Bth) (r : Reth) (ecc : List (Nat × Ecc)) : State :=
  let q := b.qp.val
  let n := r.len.toNat
  if n = 0 then s.responses q b.psn true 1 []
  else
    match s.regionOf q r.rkey with
    | some (k, g) =>
      if g.kind = 0 ∧ (s.accessFail q r.rkey r.va.toNat n n false).isNone ∧ s.gatherWaits (k / 16) r.va.toNat n then
        s.modQp q fun x => { x with gathers := x.gathers ++ [⟨b.psn, r.rkey, r.va.toNat, n, s.clk.elapsed, ecc⟩] }
      else s.serveRead q b.psn r.rkey r.va.toNat n ecc
    | none => s.serveRead q b.psn r.rkey r.va.toNat n ecc

/-- RDMA_READ_REQUEST (R283 to R287). -/
def execRdmaReadRequest (b : Bth) (r : ReadReth) (s : State) : Out :=
  s.request b 0 (fun t => t.readRequest b r.reth r.ecc) fun t =>
    (t.advance b.qp (readPackets r.reth.len.toNat)).readRequest b r.reth r.ecc

/-- READ_GATHER_TIMEOUT (R287): 88 µs after the request arrived. -/
def execReadGatherTimeout (qp : Fin 512) (psn : BitVec 24) (s : State) : Out :=
  match (s.qp qp).gathers.find? fun g => g.psn == psn with
  | none => .next s
  | some g => occurs s (decide (g.at_ + 88000 ≤ s.clk.elapsed)) (s.nak qp psn 0x63 0x9014)

/-- The gathers that waited for a stack are served once it answers. -/
def State.serveGathers (s : State) : State :=
  (List.range 512).foldl (fun t q =>
    (t.qp q).gathers.foldl (fun u g =>
      match u.regionOf q g.rkey with
      | some (k, _) =>
        if u.gatherWaits (k / 16) g.addr g.len then u
        else (u.modQp q fun x => { x with gathers := x.gathers.erase g }).serveRead q g.psn g.rkey g.addr g.len g.ecc
      | none => u) t) s

/-! Congestion (R288, Table 11.5), with the update rules of DCQCN (PRESUMED, log entry 36). Rates in Mbit/s, `alpha` in units of
2^−16. -/

/-- CNP_RECEIVED: the rate is cut by half the estimate. -/
def execCnpReceived (f : ConnFrame) (s : State) : Out :=
  let d := (s.portQ (s.qp f.qp).port).dcqcn
  s.connFrame f [.ready] fun t =>
    (t.ethCount (s.qp f.qp).port 8 1).modQp f.qp fun x =>
      { x with
        target := x.rate
        rate := max d.minMbps (x.rate - x.rate * x.alpha / 131072)
        alpha := x.alpha - x.alpha / 2 ^ d.gShift + 65536 / 2 ^ d.gShift
        rateSteps := 0, byteSteps := 0, bytes := 0, rateAt := s.clk.elapsed, alphaAt := s.clk.elapsed }

/-- DCQCN_ALPHA_TIMER: without a notification the estimate decays. -/
def execDcqcnAlphaTimer (qp : Fin 512) (s : State) : Out :=
  let x := s.qp qp
  let d := (s.portQ x.port).dcqcn
  occurs s (x.state == .ready && decide (x.alphaAt + d.alphaUs * 1000 ≤ s.clk.elapsed))
    (s.modQp qp fun x => { x with alpha := x.alpha - x.alpha / 2 ^ d.gShift, alphaAt := s.clk.elapsed })

/-- DCQCN_RATE_TIMER: the rate rises toward its target, which rises too after five steps. -/
def execDcqcnRateTimer (qp : Fin 512) (byBytes : Bool) (s : State) : Out :=
  let x := s.qp qp
  let d := (s.portQ x.port).dcqcn
  let due := if byBytes then decide (d.byteKb * 1000 ≤ x.bytes) else decide (x.rateAt + d.rateUs * 1000 ≤ s.clk.elapsed)
  let t := if byBytes then x.rateSteps else x.rateSteps + 1
  let n := if byBytes then x.byteSteps + 1 else x.byteSteps
  let line := (s.port x.port).mbps
  let target :=
    if max t n < 5 then x.target else if 5 < min t n then min line (x.target + d.rhaiMbps) else min line (x.target + d.raiMbps)
  occurs s (x.state == .ready && due)
    (s.modQp qp fun x =>
      { x with
        target := target, rate := min line ((x.rate + target) / 2), rateSteps := t, byteSteps := n
        bytes := if byBytes then x.bytes - d.byteKb * 1000 else x.bytes
        rateAt := if byBytes then x.rateAt else s.clk.elapsed })

end Sys2Proof.Machine
end

