-- ==== Sys2Proof/Machine/ClockOps.lean ====
section
/-!
DEFINITION. What the clock and power commands share (chapters 15, 16): operating points and who requests them, the seam lock and paths,
PLLs, the loss of REFCLK, the loss of the main rails' contents.
-/

namespace Sys2Proof.Machine

/-- A class 0x2 code is shown and logged. -/
def State.clkError (s : State) (code : Code) (p : Nat) : State :=
  { s with clk := { s.clk with errCode := code, errPll := BitVec.ofNat 5 p } }.log code

/-! Operating points (R400, R401). -/

/-- Core voltages of Table 16.3 in mV. -/
def opVolts : List Nat := [600, 620, 640, 660, 690, 710, 730, 750, 780, 820]
def opMv (op : Nat) : Nat := opVolts.getD op 600

/-- Dynamic factors of Table 16.3 in thousandths. -/
def opFactors : List Nat := [160, 228, 303, 387, 564, 672, 790, 1000, 1172, 1395]
def opFactor (op : Nat) : Nat := opFactors.getD op 160

/-- Is a glided frequency in force in the half (R410)? During a change the divider is the sequencer's. -/
def State.glided (s : State) (h : Nat) : Bool :=
  !(s.half h).changing && (s.pll h).fbdiv != opDivider (s.half h).op && (s.pll h).state == .stable

/-- Set point of a field's core rail in mV (PWR_RAIL): the sequencer's voltage of its half, or that of a hint in force of a bay in the
half (R402, R412). -/
def State.setMv (s : State) (f : Nat) : Nat :=
  let h := f % 2
  if !s.pwrx.mainRegs then 0
  else
    let raised := (List.range 16).flatMap fun b =>
      if (s.bayHalves b).contains h then
        ((s.bay b).hints.filter fun x => decide ((s.bay b).st.next ≤ x.step + x.steps)).filterMap Hint.raised
      else []
    raised.foldl max (s.half h).mv

/-- The half's dynamic factor now, in thousandths: after a glide the voltage is the point's, the frequency lower. -/
def State.factorNow (s : State) (h : Nat) : Nat :=
  let op := (s.half h).op
  if s.glided h then opFactor op * (s.pll h).fbdiv / opDivider op else opFactor op

/-- Working phases of a core rail (R398). -/
def State.phases (s : State) (f : Nat) : Nat := 12 - s.pwr.failed.get 0 f

/-- The half is capped at OP6 for too few phases (R399). -/
def State.op6Cap (s : State) (h : Nat) : Bool := decide (s.phases h < 10 ∨ s.phases (h + 2) < 10)

/-- Has a half coves of a bay with a loaded program? -/
def State.halfLoaded (s : State) (h : Nat) : Bool :=
  (List.range 16).any fun b => (s.bay b).program.isSome && (s.bayHalves b).contains h

/-- The highest point that R401 lets a half be requested at, its predicted power apart. -/
def State.topPoint (s : State) (h : Nat) : Nat :=
  if !s.halfLoaded h then 0
  else
    min (min s.su.maxOp s.pwr.opTarget.toNat)
      (min (if (s.half h).capOp4 then 4 else 9) (if s.op6Cap h then 6 else 9))

/-! The seam (R389 to R391). -/

/-- Do both halves stand at one operating point? -/
def State.onePoint (s : State) : Bool := (s.half 0).op == (s.half 1).op && (s.pll 0).fbdiv == (s.pll 1).fbdiv

/-- A path has failed once more: after three failures in a row it is disabled, and the bays' shapes follow (R392). -/
def State.seamFails (s : State) (y : Nat) : State :=
  let s1 := s.modSeam y fun p => { p with fails := p.fails + 1 }
  if (s1.seamPath y).fails < 3 then s1
  else ((s1.modSeam y fun p => { p with disabled := true, state := .closed }).clkError 0x2031 0x1F).refitAll

/-! Changes (R390). -/

/-- A half needs a change: its point or, after a glide, its divider is not the target's. -/
def State.needsChange (s : State) (h : Nat) : Bool :=
  (s.half h).target != (s.half h).op || s.glided h

/-- Points are requested for the two halves; under the seam lock the lower of both. A half that needs a change holds its bays. -/
def State.requestPoints (s : State) (t0 t1 : Nat) : State :=
  let u0 := if s.seamLock then min t0 t1 else t0
  let u1 := if s.seamLock then min t0 t1 else t1
  let s1 := (s.modHalf 0 fun h => { h with target := if h.changing then h.target else u0 }).modHalf 1 fun h =>
    { h with target := if h.changing then h.target else u1 }
  let both := s1.seamLock && (s1.needsChange 0 || s1.needsChange 1)
  let hold (h : Nat) (t : State) : State := t.modHalf h fun k =>
    let need := (s1.needsChange h || both) && !k.changing
    { k with
      holding := need
      holdAt := if !need then none
        else if (List.range 16).any fun b => (s1.bayHalves b).contains h && (s1.bay b).st.live.isEmpty then
          some (k.holdAt.getD s.clk.elapsed)
        else k.holdAt }
  hold 1 (hold 0 s1)

/-- Has the sequencer brought a half to its target: voltage settled, dividers there (R402)? -/
def State.reached (s : State) (h : Nat) : Bool :=
  let k := s.half h
  k.mv == opMv k.target && (k.mvAt.all fun t => decide (t + 2000 ≤ s.clk.now))
    && (s.pll h).fbdiv == opDivider k.target && (s.pll (h + 2)).fbdiv == opDivider k.target

/-- Does the half stand at a point, be it the one that its change has reached? -/
def State.standsAt (s : State) (h : Nat) : Option Nat :=
  let k := s.half h
  if !k.changing then some k.op else if s.reached h then some k.target else none

/-- The halves that a change of half `h` changes. -/
def State.changeSet (s : State) (h : Nat) : List Nat := if s.seamLock then [0, 1] else [h]

/-- A change is given up: the bays are released at their old point. -/
def State.dropChange (s : State) (hs : List Nat) : State :=
  hs.foldl (fun t h => t.modHalf h fun k => { k with holding := false, changing := false, holdAt := none, target := k.op, mv := opMv k.op, mvAt := none }) s

/-- Is every bay with coves in the halves holding: drained, or without a run, or in reset? -/
def State.allHold (s : State) (hs : List Nat) : Bool :=
  (List.range 16).all fun b => let y := s.bay b
    !((s.bayHalves b).any fun h => hs.contains h) || (y.st.live.isEmpty && y.st.replay.isNone) || y.hang.resetting || y.hang.recovering

/-! The loss of REFCLK (R385). -/

/-- Handover moves in progress are abandoned (R358). -/
def State.abandonMoves (s : State) : State :=
  (s.rot.moves.rows.filter fun r => r.2.moving).foldl (fun t r => t.abandonMove r.1 r.2) s

/-- What a router and its interfaces hold in flight is gone; so are the transfers of the engine (R385). -/
def Net.flush (n : Net) : Net := { n with vcs := {}, inj := [], withdrawn := [], ejected := [], dma := [], trackers := [] }

/-- REFCLK, or every clock of the current network, is lost in service: the running PLLs coast, those of the HBM PHYs and ports with their
outputs gated; the neap clock and module time go on from the internal source. -/
def State.loseReference (s : State) (code : Code) (p : Nat) : State :=
  let s1 := if s.parked then s else (List.range 16).foldl State.rollbackAll s
  let s2 := s1.abandonMoves
  let s3 := ((s2.dropChange [0, 1]).closeSeam.linkDown 0).linkDown 1
  let coast (i : Nat) (q : Pll) : Pll :=
    if q.state = .off then q else { q with state := .coasting, lock := false, active := q.active && !(decide (6 ≤ i) && decide (i < 16)) }
  let s4 := { s3 with
    ctrls := s3.ctrls.map fun _ k => if k.trained then { k with selfRef := true, retrain := true, lossAt := none } else k
    streams := s3.streams.map fun _ p => { p with rdBuf := [], wrBuf := [] }
    coves := s3.coves.map fun _ v => (v.modCh fun h => { h with held := [] }).modNet Net.flush
    pwr := { s3.pwr with glideCause := none }
    clk := { s3.clk with
      lost := true, lostSeen := true, regained := false, neapSrc := true, neapDue := s.clk.refOk
      plls := s3.clk.plls.map fun i q => coast i q } }
  (s4.clkError code p).resetIfDown

/-- Headland's PLL and the current-network pair acquire first (R386); those that slept start too. -/
def State.reacquire (s : State) : State :=
  let s1 := [16, 4, 5].foldl (fun t p =>
    if (t.pll p).state = .coasting ∨ ((t.pll p).state = .off ∧ (s.clk.sleep.get (.run, 0) 3000).1 = .ebb) then t.startPll p else t) s
  { s1 with clk := { s1.clk with sleep := s1.clk.sleep.erase 3000 } }

/-- Seam paths are all open, or disabled. -/
def State.seamOpen (s : State) : Bool := (List.range 20).all fun y => (s.seamPath y).disabled || (s.seamPath y).state == .open_

/-- Start-up returns to S0 (R434). -/
def State.backToS0 (s : State) : State :=
  { s with su := { s.su with
    stage := 0, state := 1, stageAt := s.clk.now, limitAt := s.clk.now, held := 0, refLogged := false, s11Done := false } }

/-! The main rails (R397). -/

/-- Start-up holds for the main input at S4 (Table 17.12). -/
def State.holdAtS4 (s : State) : State :=
  if s.su.state = 3 ∨ s.su.stage < 4 then s
  else { s with su := { s.su with stage := 4, state := 1, stageAt := s.clk.now, limitAt := s.clk.now, held := 0, s11Done := false } }

/-- What S4 held for has come; its limit counts from now (Table 17.12). -/
def State.resumeS4 (s : State) : State :=
  if s.su.stage = 4 ∧ s.su.state = 1 then
    { s with su := { s.su with state := 0, limitAt := s.clk.now, held := if s.su.held = 0 then 0x1020 else s.su.held } }
  else s

end Sys2Proof.Machine
end

