-- ==== Sys2Proof/Machine/Programs.lean ====
section
/-!
DEFINITION. Loading and unloading programs (12_tideline_commands.md R318; 02 R30, R40, R42, R51; 10 R254; 15 R390; 17 R429; 19 R473).
-/

namespace Sys2Proof.Machine

/-! Program-wide checks. -/

/-- The key that may sign a bay's program under an identifier (R473): the bay's owner key, the module owner key, the effective
OWNER_KEY. -/
def State.signerKey (s : State) (b : Nat) (kid : BitVec 64) : Option (List Byte) :=
  let bayKey := (s.bay b).record.bind fun r => s.keyBytes r.ownerKey
  let keys := bayKey.toList ++ (s.keyBytes s.img.module.ownerKey).toList ++ (s.img.owner.map OwnerRec.key).toList
  keys.find? fun k => (Config.shake256 k).setWidth 64 == kid

/-- Format and signature of a program image for bay `b` (R429, R468, R473). -/
def State.readProgram (s : State) (b : Nat) (bs : List Byte) : Option Program :=
  match parseProgram bs with
  | none => none
  | some p =>
    let n := 128 + 64 * fieldLe bs 40 2
    match s.signerKey b p.signer with
    | some k => if Config.ed448Verify k (asciiBytes "E812-PROGRAM") (bs.take n) (slice bs n 114) then some p else none
    | none => none

/-- The program-wide checks after format and signature, in order (R318). -/
def State.programFail (s : State) (p : Program) (r : BayRecord) : Option Code :=
  firstFail
    ([(decide (s.img.module.quantum * 600 < p.stepCycles), 0x9110), (decide (r.granQuota < 3 * p.granDecl), 0x9111),
      (decide (r.holdQuota < 3 * p.holdDecl), 0x9112), (!p.flags.getLsbD 0, 0x9114)] : List (Bool × Code))

/-- Has the bay extents in a stack that did not train (R441)? -/
def State.deadStack (s : State) (r : BayRecord) : Bool :=
  r.extents.any fun e => e.pages != 0 && (s.stack e.stack).disabled

/-- What a load finds: the code that it fails with, or the program and its shape. A cached range outside the bay counts as a
malformed image (log entry 40). -/
def State.judgeLoad (s : State) (b : Nat) (bs : List Byte) : Except Code (Program × Nat) :=
  match (s.bay b).record with
  | none => .error 0x9116
  | some r =>
    if s.deadStack r then .error 0x8022
    else
      match s.readProgram b bs with
      | none => .error 0x9116
      | some p =>
        if r.hbmBytes < p.cacheAddr + p.progLen then .error 0x9116
        else
          match s.programFail p r with
          | some code => .error code
          | none =>
            match s.firstShape b p with
            | some k => .ok (p, k)
            | none => .error ((s.shapeFail b p 0).getD 0x9115)

/-- Bytes written to bay-relative addresses as committed data. -/
def State.putBay (s : State) (b a : Nat) (bs : List Byte) : State :=
  s.committedWrite b (s.netNow + BitVec.ofNat 16 dlDma) a bs

/-- The program becomes the bay's: its copy is cached, its tables are loaded, a stop ends, the step registers
return to their reset values; a seam lock that this takes asks for one point (R31, R57, R254, R318, R324, R445). -/
def State.installProgram (s : State) (b : Nat) (p : Program) (k : Nat) (bs : List Byte) (seed : Option (BitVec 64)) : State :=
  let s1 := (s.putBay b p.cacheAddr (bs.take p.progLen)).modBay b fun y =>
    { y with
      program := some p, shape := k, shrunk := k != 0, wantShape := none, hints := [], stopped := none
      seed := seed.getD y.seed, st := {}, hang := { y.hang with progress := 0 } }
  let s2 := s1.loadShape b p k true
  let s3 := if s.seamLock then s2 else s2.closeSeam
  if s3.seamLock && !s3.onePoint then s3.requestPoints (s3.half 0).target (s3.half 1).target else s3

/-- A load ends: the bay gets the program, or keeps none (R318). DESIGN CHOICE (log entry 196): a rejected load leaves the bay without its earlier program. -/
def State.loadProgram (s : State) (b : Nat) (bs : List Byte) (seed : Option (BitVec 64)) : Code × State :=
  match s.judgeLoad b bs with
  | .error code => (code, s.removeProgram b)
  | .ok (p, k) => (0, (s.removeProgram b).installProgram b p k bs seed)

/-- Completion of a load command. -/
def State.loadDone (s : State) (b : Nat) (l : LoadRec) (code : Code) : State :=
  (s.modBay b fun y => { y with load := none }).complete l.session { cmdId := l.cmdId, opcode := 0x08, code := code, start := l.start }

/-- Loads that waited for one operating point complete (R390). -/
def State.releaseLoads (s : State) : State :=
  if !s.onePoint then s
  else (List.range 16).foldl (fun t b =>
    match (t.bay b).load with
    | some l => if l.held then t.loadDone b l 0 else t
    | none => t) s

/-- PROGRAM_LOAD (R318, R458). -/
def execProgramLoad (c : JCmd) (s : State) : Out :=
  s.parse c 0x08 true fun s =>
    let b := jBay c
    let y := s.bay b
    let a := jField c 24 8
    let n := jField c 32 8
    let size := match y.record with
      | some r => r.hbmBytes
      | none => 0
    if y.busy ∨ y.load.isSome ∨ y.hang.resetting ∨ y.hang.recovering ∨ y.hang.asked.isSome then s.reject c 0x910A
    else if size < a + n then s.reject c 0x9121
    else if n = 0 then s.doneAtOnce c 0 []
    else
      let l : LoadRec :=
        { session := jSess c, cmdId := jId c, addr := a, length := n
          seed := if jField c 40 1 = 1 then some (BitVec.ofNat 64 (jField c 48 8)) else none, start := s.mt.ns }
      (s.acceptLong c).modBay b fun y => { y with load := some l }

/-- PROGRAM_LOAD_COMPLETE (R318): a bay that spans the seam waits for one operating point (R390). -/
def execProgramLoadComplete (bay : Fin 16) (s : State) : Out :=
  let b := bay.val
  match (s.bay b).load with
  | none => .next s
  | some l =>
    let r := s.loadProgram b (s.bayBytes b none l.addr l.length) l.seed
    occurs s (!l.held)
      (if r.1 = 0 ∧ (r.2.bay b).spans ∧ !r.2.onePoint then r.2.modBay b fun y => { y with load := some { l with held := true } }
       else r.2.loadDone b l r.1)

/-- PROGRAM_UNLOAD (R318). -/
def execProgramUnload (c : JCmd) (s : State) : Out :=
  s.parse c 0x09 true fun s =>
    let b := jBay c
    let mark (w : Work) : Work := { w with cancelled := true }
    let s1 := ((s.acceptLong c).dropQueue b 0x9122 true).modBay b fun y =>
      { y with
        unloads := y.unloads ++ [(jSess c, jId c, s.mt.ns)]
        run := y.run.map mark, berths := y.berths.map fun _ w => mark w }
    if (s1.bay b).busy then s1.atBoundary b else s1.unloadNow b

end Sys2Proof.Machine
end

