-- ==== Sys2Proof/Machine/Clocks.lean ====
section
/-!
DEFINITION. Clocks, sleep states and the seam (15_clocks_and_sleep.md; 08 R209).
-/

namespace Sys2Proof.Machine

/-! REFCLK (R379, R385, R386, R434). -/

/-- REFCLK_LOSS. Before service start-up returns to S0. -/
def execRefclkLoss (s : State) : Out :=
  let s1 := { s with clk := { s.clk with
    refOk := false, refAwayAt := s.clk.now, lossCnt := satAdd32 s.clk.lossCnt 1 } }
  let s2 := s1.loseReference 0x2010 0x1F
  occurs s s.clk.refOk (if s2.su.state = 2 ∨ s2.su.state = 3 then s2 else s2.backToS0)

/-- REFCLK_RETURN: also the first appearance after power-on; after 16,384 consecutive good cycles (R379). The neap clock moves to it at its
next edge (R380). Headland's PLL and the current-network pair reacquire first. -/
def execRefclkReturn (s : State) : Out :=
  let s1 := { s with clk := { s.clk with refOk := true, neapDue := true } }
  occurs s (s.pins.aux && !s.clk.refOk && decide (s.clk.refAwayAt + 104858 ≤ s.clk.now))
    (if s.clk.lost ∧ s.su.state = 2 then s1.reacquire else { s1 with clk := { s1.clk with lost := false } })

/-! PLLs (R382, R384). -/

/-- The last step of the return: CLK_LOST clears once the stacks that do not sleep have retrained and the ports have their clocks (R386). -/
def State.settleLost (s : State) : State :=
  let awake (k : Nat) : Bool := (s.clk.sleep.get (.run, 0) (1000 + k)).1 == .run
  let busy (p : Nat) : Bool := (s.pll p).state == .acquiring || (s.pll p).state == .coasting
  if s.clk.lost ∧ s.clk.regained ∧ (List.range 8).all (fun k => !((s.stack k).retrain && !(s.stack k).disabled && awake k)) ∧ !busy 14 ∧ !busy 15
  then { s with clk := { s.clk with lost := false, regained := false } } else s

/-- Times that the current network counts in units are taken over to a network time that starts again at 0. -/
def Net.rebase (n : Net) (now : Nat) : Net := { n with armAt := n.armAt.map (· - now), holdTo := n.holdTo.map (· - now) }

/-- Headland's PLL and one of the current network are stable again: network time restarts, with both table versions and the epoch kept and no
packet of before under way; the bays may step; every other PLL that ran reacquires (R386). -/
def State.regainReference (s : State) : State :=
  let s1 := (List.range 17).foldl (fun t p => if (t.pll p).state = .coasting then t.startPll p else t) s
  { s1 with
    clk := { s1.clk with regained := true, cnBase := s1.cnCycles }
    coves := s1.coves.map fun _ v => v.modNet fun n => n.rebase s.netUnits
    net := { s1.net with dropped := [], oldUntil := none, swap := s1.net.swap.map (· - s.netUnits) } }

/-- The PLL is stable and clocks its consumers; of the current network's pair one is active. After a loss of REFCLK the ports train once
they have their clocks (R386). -/
def State.pllOn (s : State) (p : Nat) : State :=
  let other := if p = 4 then 5 else 4
  let act := if p = 4 ∨ p = 5 then !(s.pll other).active else true
  let s1 := s.modPll p fun q => { q with state := .stable, lock := true, active := act, retried := false, failed := false }
  let s2 := if s1.refGone ∧ s1.clk.refOk ∧ (s1.pll 16).state = .stable ∧ ((s1.pll 4).state = .stable ∨ (s1.pll 5).state = .stable)
    then s1.regainReference else s1
  let s3 := if 6 ≤ p ∧ p < 14 ∧ !(s2.stack (p - 6)).retrain ∧ (s2.clk.sleep.get (.run, 0) (1000 + (p - 6))).1 = .run then
      (s2.modStack (p - 6) fun k => { k with selfRef := false }).serveGathers
    else s2
  let x := s3.port (p - 14)
  (if (p = 14 ∨ p = 15) ∧ s3.clk.lost ∧ x.enabled ∧ !x.disabled ∧ !x.up ∧ !x.training ∧ s3.linksOn then s3.beginTraining (p - 14) else s3).settleLost

/-- PLL_STABLE: 8,192 and 1,024 REFCLK cycles after it was enabled at the earliest. -/
def execPllStable (p : Fin 17) (s : State) : Out :=
  let q := s.pll p
  occurs s (q.state == .acquiring && s.clk.refOk && decide (q.enabledAt + 58983 ≤ s.clk.now)) (s.pllOn p)

/-- Bays that use a stack: extents in it, or one of its stream ports. -/
def State.baysOfStack (s : State) (k : Nat) : List Nat := (List.range 16).filter fun b => (s.bay b).usesStack k

/-- What the loss of lock of PLL `p` does (Table 15.3); the PLL acquires again. -/
def State.lockLost (s : State) (p : Nat) : State :=
  let s0 := s.startPll p
  if p < 4 then
    let h := p % 2
    let bays := (List.range 16).filter fun b => (s.bayHalves b).contains h
    let s1 := (bays.foldl State.rollbackAll s0).clkError 0x2021 p
    let recent := s.clk.elapsed :: (s.pll p).losses.filter fun t => decide (s.clk.elapsed < t + tenMinutes)
    let s2 := s1.modPll p fun q => { q with losses := recent }
    if 3 ≤ recent.length ∧ !(s.half h).capOp4 then (s2.modHalf h fun k => { k with capOp4 := true }).clkError 0x2022 p else s2
  else if p < 6 then
    let other := 9 - p
    if !(s.pll p).active then s0.clkError 0x2023 p
    else if (s.pll other).state = .stable then (s0.modPll other fun q => { q with active := true }).clkError 0x2023 p
    else (s0.loseReference 0x2023 p).reacquire
  else if p < 14 then
    let k := p - 6
    let s1 := ((s.baysOfStack k).foldl State.rollbackAll s0).clkError 0x2024 p
    s1.modStack k fun x => { x with selfRef := true, retrain := true, lossAt := some (x.lossAt.getD s.clk.elapsed) }
  else if p < 16 then (s0.linkLost (p - 14)).clkError 0x2025 p
  else s0.clkError 0x2026 p

/-- PLL_LOCK_LOSS: not a cove error. -/
def execPllLockLoss (p : Fin 17) (s : State) : Out :=
  let s1 := s.lockLost p
  occurs s ((s.pll p).state == .stable) { s1 with clk := { s1.clk with relockCnt := satAdd32 s1.clk.relockCnt 1 } }

/-- PLL_ACQUIRE_TIMEOUT: 1 ms after it was enabled the PLL is retried once, then it counts as a loss of lock. -/
def execPllAcquireTimeout (p : Fin 17) (s : State) : Out :=
  let q := s.pll p
  occurs s (q.state == .acquiring && decide (q.enabledAt + 1000000 ≤ s.clk.now))
    (if q.retried then ((s.clkError 0x2020 p).lockLost p).modPll p fun x => { x with retried := false, failed := true }
     else ((s.clkError 0x2020 p).startPll p).modPll p fun x => { x with retried := true })

/-- HBM_RETRAIN_COMPLETE: the stack leaves self-refresh once its PLL is stable; waiting reads are served. -/
def execHbmRetrainComplete (stack : Fin 8) (s : State) : Out :=
  let k := s.stack stack
  occurs s (k.retrain && !k.disabled && (s.pll (6 + stack.val)).state == .stable)
    ((s.modStack stack fun x => { x with selfRef := false, retrain := false, lossAt := none }).serveGathers).settleLost

/-- HBM_RETRAIN_TIMEOUT: 10 ms after the loss the stack is disabled and its bays stop with 0x8022. -/
def execHbmRetrainTimeout (stack : Fin 8) (s : State) : Out :=
  let k := s.stack stack
  let bays := (List.range 16).filter fun b => match (s.bay b).record with
    | some r => r.extents.any fun e => e.stack == stack.val && e.pages != 0
    | none => false
  let s1 := (s.modStack stack fun x => { x.note 0x8022 0 0 0 with disabled := true, lossAt := none, retrain := false }).log 0x8022
  occurs s (k.lossAt.any fun t => decide (t + 10000000 ≤ s.clk.elapsed)) (bays.foldl (fun t b => t.stopBay b 0x8022) s1).settleLost

/-! Sleep (R387, R388). -/

/-- May a cove's compute domain enter SLACK: it holds no slot and is not under test, or its bay has had no step running for
SLACK_AFTER_US, or the module is parked? -/
def State.mayRest (s : State) (c : Nat) : Bool :=
  let idle := match s.bayOf c with
    | some b => (s.bay b).st.running.isNone
        && decide ((s.bay b).st.lastEnd + s.clk.slackUs.toNat * 1000 ≤ s.clk.elapsed)
    | none => (s.logOf c).isSome || !s.underTest c
  s.parked || (s.clk.slackUs != 0 && idle)

/-- SLACK_ENTRY. -/
def execSlackEntry (cove : Fin 800) (s : State) : Out :=
  occurs s ((s.clk.sleep.get (.run, 0) cove).1 == .run && s.mayRest cove)
    { s with clk := { s.clk with sleep := s.clk.sleep.put cove (.slack, s.clk.elapsed) } }

/-- Would a half enter EBB but for a test in it? Every cove of it not under test has been in SLACK long enough; no handover or change
is in progress. -/
def State.halfRests (s : State) (h : Nat) : Bool :=
  s.clk.ebbMs != 0 && !(s.half h).ebb && !(s.half h).changing && !(s.half h).holding
    && ((List.range 800).filter fun c => halfOf c == h && !s.underTest c).all (fun c =>
      let r := s.clk.sleep.get (.run, 0) c
      r.1 == .slack && decide (r.2 + s.clk.ebbMs.toNat * 1000000 ≤ s.clk.elapsed))
    && (s.rot.moves.rows.all fun r => r.1 % 2 != h || !r.2.moving)

/-- May a half enter EBB: no test or restore is in progress there either? -/
def State.halfMayRest (s : State) (h : Nat) : Bool := s.halfRests h && (s.field h).cove.isNone && (s.field (h + 2)).cove.isNone

/-- A PLL is switched off. -/
def State.stopPll (s : State) (p : Nat) : State := s.modPll p fun q => { losses := q.losses }

/-- Does an HBM region of a session of the bay lie in part in stack `k`? -/
def BayRecord.regionIn (r : BayRecord) (k : Nat) (g : Region) : Bool :=
  g.kind == 0 && r.extents.any fun e => e.stack == k && decide (g.addr < e.base + e.pages * pageBytes) && decide (e.base < g.addr + g.len)

/-- May a stack enter EBB: no bay with extents in it has a run, no session a region in it? -/
def State.stackMayRest (s : State) (k : Nat) : Bool :=
  (s.clk.sleep.get (.run, 0) (1000 + k)).1 == .run && (s.stack k).trained && !(s.stack k).retrain
    && (List.range 16).all fun b => match (s.bay b).record with
      | some r => !(r.extents.any fun e => e.stack == k && e.pages != 0)
          || (!(s.bay b).busy && (List.range 16).all fun i => !(s.sess (b * 16 + i)).regions.any (r.regionIn k))
      | none => true

/-- A domain is marked asleep in EBB; its PLL goes off 2 µs later (R388). -/
def State.sleepAt (s : State) (k : Nat) : State := { s with clk := { s.clk with sleep := s.clk.sleep.put k (.ebb, s.clk.elapsed) } }

/-- EBB_ENTRY: a half, a stack, a port, or the jetty, routers and Headland while REFCLK is absent. The clock tree is gated at once, the PLL goes
off 2 µs later. A compute domain enters EBB only with its half; a half first has its running tests abandoned and waits for their restores
(R361; log entry 165). -/
def execEbbEntry (dom : Domain) (s : State) : Out :=
  match dom with
  | .compute _ => .next s
  | .half h =>
    occurs s (s.halfRests h)
      (if s.halfMayRest h then s.modHalf h fun k => { k with ebb := true, ebbAt := some s.clk.elapsed }
       else s.abandonTests [h, h + 2])
  | .stack k => occurs s (s.stackMayRest k) ((s.modStack k fun x => { x with selfRef := true }).sleepAt (1000 + k))
  | .port p =>
    occurs s (!(s.port p).up && (!(s.port p).training || (s.port p).disabled) && (s.clk.sleep.get (.run, 0) (2000 + p)).1 == .run)
      (s.sleepAt (2000 + p))
  | .network => occurs s (!s.clk.refOk && s.clk.lost && (s.clk.sleep.get (.run, 0) 3000).1 == .run) (s.sleepAt 3000)

/-- Would the jetty select a step of the bay, its domains awake? -/
def State.stepWanted (s : State) (b : Nat) : Bool :=
  let y := s.bay b
  y.program.isSome && y.stopped.isNone && !s.parked && (y.working || !y.queue.isEmpty || y.st.replay.isSome)

/-- Is a change of a half's operating point requested (R388)? -/
def State.changeAsked (s : State) (h : Nat) : Bool := (s.half h).holding || (s.half h).changing || s.needsChange h

/-- Does one of the events of R388 need the compute domain of a cove: a step of its bay, a test, handover or restore, an access to its
memory, a change of its half's point? -/
def State.coveNeeded (s : State) (c : Nat) : Bool :=
  let f := s.field (fieldOf c)
  let v := s.cove c
  (match s.bayOf c with
    | some b => s.stepWanted b
    | none => false)
    || f.pending == some c || f.cove == some c || (s.rot.moves.find (segOfPhys c)).isSome
    || !v.sp.reqs.isEmpty || !v.net.ejected.isEmpty || !v.net.dma.isEmpty || s.changeAsked (halfOf c)

/-- Has a domain an event that wakes it (R388; log entry 43)? -/
def State.wakeDue (s : State) : Domain → Bool
  | .compute c => s.coveNeeded c
  | .half h => s.changeAsked h || (List.range 800).any fun c => halfOf c == h.val && s.coveNeeded c
  | .stack k => !(s.stack k).reqs.isEmpty || !(s.stack k).trackers.isEmpty
      || (List.range 512).any (fun q => !(s.qp q).gathers.isEmpty) || (List.range 16).any fun b => (s.bay b).usesStack k && s.stepWanted b
  | .port p => let x := s.port p
      x.training || (x.enabled && !x.disabled && !x.up && decide (x.trainAt + 10000000000 ≤ s.clk.elapsed))
  | .network => false

/-- DOMAIN_WAKE: at an event of R388. SLACK ends at once; from EBB the PLL starts, unless it is still on, and the domain runs once it is stable
(R382). The jetty, routers and Headland wake with REFCLK (R386). -/
def execDomainWake (dom : Domain) (s : State) : Out :=
  let awake (k : Nat) (t : State) : State := { t with clk := { t.clk with sleep := t.clk.sleep.erase k } }
  let start (p : Nat) (t : State) : State := if (s.pll p).state = .stable then t else t.startPll p
  match dom with
  | .compute c => occurs s (s.wakeDue dom && (s.clk.sleep.get (.run, 0) c).1 == .slack && !(s.half (halfOf c)).ebb && !s.parked) (s.wakeCove c)
  | .half h => occurs s (s.wakeDue dom && (s.half h).ebb) (s.wakeHalf h)
  | .stack k =>
    occurs s (s.wakeDue dom && (s.clk.sleep.get (.run, 0) (1000 + k)).1 == .ebb)
      (if (s.pll (6 + k)).state = .stable ∧ !(s.stack k).retrain then
        ((awake (1000 + k) s).modStack k fun x => { x with selfRef := false }).serveGathers
       else start (6 + k) (awake (1000 + k) s))
  | .port p => occurs s (s.wakeDue dom && (s.clk.sleep.get (.run, 0) (2000 + p)).1 == .ebb) (start (14 + p) (awake (2000 + p) s))
  | .network => .next s

/-! Operating-point changes (R390, R402). -/

/-- OP_CHANGE_START: every bay concerned holds. -/
def execOpChangeStart (half : Fin 2) (s : State) : Out :=
  let hs := s.changeSet half
  let s1 := if s.seamLock then s.closeSeam else s
  occurs s ((s.half half).holding && s.allHold hs && hs.all (fun h => !(s.half h).ebb && s.clocked h))
    (hs.foldl (fun t h => t.modHalf h fun k => { k with holding := false, changing := true, mv := s.setMv h, mvAt := none }) s1)

/-- OP_CHANGE_COMPLETE: voltage and frequency stand at the new point, and under the seam lock the seam paths have realigned; the bays are
released, a load that waited for one point completes. -/
def execOpChangeComplete (half : Fin 2) (s : State) : Out :=
  let hs := s.changeSet half
  let move (t : State) (h : Nat) : State :=
    t.modHalf h fun k => { k with op := k.target, changing := false, holding := false, holdAt := none, mvAt := none }
  occurs s ((s.half half).changing && hs.all s.reached && (!s.seamLock || s.seamOpen)) (hs.foldl move s).releaseLoads

/-- OP_CHANGE_TIMEOUT: 10 ms after the first bay held, not every one holds. -/
def execOpChangeTimeout (half : Fin 2) (s : State) : Out :=
  let k := s.half half
  occurs s (k.holding && !k.changing && !s.allHold (s.changeSet half)
      && k.holdAt.any fun t => decide (t + 10000000 ≤ s.clk.elapsed))
    ((s.dropChange (s.changeSet half)).clkError 0x2040 0x1F)

/-! Seam paths (R209, R391, R392). -/

/-- SEAM_ALIGN_START: the lock is held, both halves stand at one point on stable PLLs; after a slip, at a boundary. The buffer is reset and its
read pointer preset at the first pulse. -/
def execSeamAlignStart (row : Fin 20) (s : State) : Out :=
  let p := s.seamPath row
  let still := (List.range 16).all fun b => !(s.bay b).spans || (s.bay b).st.running.isNone
  occurs s (p.state == .closed && !p.disabled && s.seamLock && s.clocked 0 && s.clocked 1
      && (s.standsAt 0).isSome && s.standsAt 0 == s.standsAt 1 && (s.pll 0).fbdiv == (s.pll 1).fbdiv && (!p.slipped || still))
    (s.modSeam row fun p => { p with state := .aligning, since := s.clk.now, clean := pulseFrom s.clk.now, slipped := false })

/-- SEAM_OPEN, on an alignment pulse: 8 frames of 160 ns without a slip since the pulse that reset the buffer, at most 2 µs after the path began
to align (Table 8.7). -/
def execSeamOpen (row : Fin 20) (s : State) : Out :=
  let p := s.seamPath row
  occurs s (p.state == .aligning && alignPulse s.clk.now && decide (p.clean + 1280 ≤ s.clk.now) && decide (s.clk.now ≤ p.since + 2000))
    (s.modSeam row fun p => { p with state := .open_ })

/-- SEAM_ALIGN_TIMEOUT. -/
def execSeamAlignTimeout (row : Fin 20) (s : State) : Out :=
  let p := s.seamPath row
  occurs s (p.state == .aligning && decide (p.since + 2000 ≤ s.clk.now))
    (((s.modSeam row fun p => { p with state := .closed }).clkError 0x2030 0x1F).seamFails row)

/-- SEAM_SLIP (R201, R208, R209, R215): the elastic buffer of a plane, or of the combining lane (3), under-runs or over-runs. Of an
aligning path the count restarts; an open one closes with hardware error 0x6031, which the switch on one side of the seam records, which
one is free; the bay's region freezes, and the slip counts as a failure (R392). -/
def execSeamSlip (slip : SeamSlipped) (s : State) : Out :=
  let p := s.seamPath slip.row
  let side := s.freeNat % 2
  let l := 36 * slip.row.val + 17 + side
  match p.state with
  | .closed => .next s
  | .aligning => .next (s.modSeam slip.row fun p => { p with clean := pulseFrom s.clk.now })
  | .open_ =>
    let s1 := (s.spend 1).modSeam slip.row fun p => { p with state := .closed, slipped := true }
    let s2 := match s.physOf l with
      | some c => s1.tideFault c 0x6031 slip.plane (if side = 0 then 1 else 3)
      | none => s1
    .next (s2.seamFails slip.row)

end Sys2Proof.Machine
end

