-- ==== Sys2Proof/Machine/Steps.lean ====
section
/-!
DEFINITION. Steps, run-ahead and commit (02_steps_and_commit.md R31 to R58): boundaries, step starts, commits and their
acknowledgements, rollbacks, vote deadlines, replays.
-/

namespace Sys2Proof.Machine

/-! Boundary. -/

/-- Have all used cores of the shape's coves executed STEPEND, and has every operation of the step issued (R92, R122)? -/
def State.boundaryReady (s : State) (b n : Nat) : Bool :=
  (s.activeCoves b).all fun c =>
    let v := s.cove c
    (v.cores.rows.all fun r => !r.2.used || (r.2.state == 2 && r.2.wait == some .stepend))
      && v.brk.queue.all fun o => decide (n < o.step)

/-- Coves that vote: those of the shape, and those that only its trees use (R199, R211). -/
def State.voters (s : State) (b : Nat) : List Nat :=
  let on := s.activeCoves b
  (s.physCoves b).filter fun c => on.contains c || barValid (s.cove c).tide.system

/-- Votes that fall at B(m): of step m itself in single-step commit, of step m − 1 in two-step commit (R45, R338). -/
def State.boundaryVotes (s : State) (b : Nat) (r : StepRec) : State :=
  let cs := s.voters b
  let prev := (s.bay b).st.live.find? fun q => q.no + 1 == r.no && q.two && !q.drain
  let s1 := match prev with
    | some q => cs.foldl (fun t c => (t.missingPairs c q).modCove c fun v => v.castPass q) s
    | none => s
  if r.two ∨ r.drain then s1 else s1.modCoves cs fun _ v => v.castPass r

/-- Whether the run ends with this step is the program's own doing, which the spec does not describe further: it is free, but
for the step limit (R319; log entry 32). -/
def State.judgeRun (s : State) (b n : Nat) : State :=
  match (s.bay b).run with
  | none => s
  | some w =>
    if w.lastStep.isSome then s
    else
      let ends := s.freeNat % 2 = 1
      let last := if ends then some (n, (0 : Code)) else if w.maxSteps ≤ w.stepsBegun then some (n, 0x9123) else none
      (s.spend 1).modBay b fun y => { y with run := y.run.map fun w => { w with lastStep := last } }

/-- The handovers of these segments have a bay that holds since now at the latest (R354). -/
def State.holdMoves (s : State) (gs : List Nat) : State :=
  { s with rot := { s.rot with
      moves := s.rot.moves.map fun g h => if gs.contains g then { h with holdAt := some (h.holdAt.getD s.clk.elapsed) } else h } }

/-- The events of boundary B(n) (Table 2.1, R445). -/
def State.boundary (s : State) (b : Nat) (r : StepRec) : State :=
  let cs := s.physCoves b
  let s1 := cs.foldl (fun t c => match (t.cove c).tideHeld with
    | [] => t
    | x :: _ => t.tideFault c 0x602A (BitVec.ofNat 2 x.1) (BitVec.ofNat 5 x.2)) s
  let s2 := (s1.modStep b r.no fun q => { q with endedAt := some s.clk.elapsed }).boundaryVotes b r |>.boundaryFences b r
  let pend := (s2.bay b).segments.filter fun g => (s2.rot.moves.find g).any fun h => !h.moving
  let drains := s2.opHeld b || (s2.bay b).wantShape.isSome
  let s3 := s2.modBay b fun y =>
    { y.applyBoundary pend drains with
      st := { (y.applyBoundary pend drains).st with lastEnd := s.clk.elapsed }
      hang := { y.hang with progress := y.hang.progress + 1 } }
  let s4 := (s3.bayHalves b).foldl (fun t h => t.modHalf h fun k =>
    if k.holding then { k with holdAt := some (k.holdAt.getD s.clk.elapsed) } else k) s3
  let s5 := s4.holdMoves pend
  let s6 := if r.drain then s5 else s5.judgeRun b r.no
  (s6.cancelWork b).unloadNow b

/-- STEP_BOUNDARY (R33, R122). -/
def execStepBoundary (bay : Fin 16) (s : State) : Out :=
  match (s.bay bay).st.running with
  | none => .next s
  | some r => occurs s (s.boundaryReady bay r.no) (s.boundary bay r)

/-! Start. -/

/-- How many uncommitted steps the next one may follow (R35, R36). -/
def Steps.room (t : Steps) : Bool :=
  if t.draining then t.uncommitted == 0 else decide (t.uncommitted ≤ if t.wantTwo then 2 else 1)

/-- The step record of a new attempt. -/
def State.newStep (s : State) (b no att : Nat) (two drain : Bool) : State :=
  s.modBay b fun y =>
    { y with
      hang := { y.hang with windowAt := if y.hang.window then some (y.hang.windowAt.getD s.clk.elapsed) else none }
      st := { y.st with
        next := no + 1, twoStep := two, draining := false
        live := y.st.live ++
          [{ no := no, attempt := att, drain := drain, two := two, level := y.level, watch := y.watchMask, startedAt := s.clk.elapsed }]
        starts := (s.clk.elapsed :: y.st.starts).take 1024 }
      run := if drain then y.run else y.run.map fun w => { w with stepsBegun := w.stepsBegun + 1 } }

/-- Every core goes on after its STEPEND; one that a shape switch has loaded starts at its entry address (R122, R373). After a drain
step, which commits nothing of its own, the cores start again where that step began (R55; log entry 184). -/
def State.resumeStep (s : State) (b no : Nat) : State :=
  let set := match (s.bay b).run with
    | some w => w.entry
    | none => 0
  s.startOn b no fun c i k =>
    if k.state = 0 then k.begin_ no (match k.entries.getLast? with
      | some e => e.2
      | none => s.entryOf b c i set)
    else k.resume no (s.cycles c)

/-- Every core starts at its entry address of a set (R122). -/
def State.firstStep (s : State) (b no set : Nat) : State :=
  s.startOn b no fun c i k => k.begin_ no (s.entryOf b c i set)

/-- Sequences that wait take free berths (R320). -/
def State.seat (s : State) (b no : Nat) : State :=
  s.modBay b fun y =>
    let r := seatBerths y.berthLimit no s.mt.ns (List.range 64) (headSequences y.queue) y.berths
    { y with berths := r.1, queue := r.2 ++ y.queue.drop (headSequences y.queue).length }

/-- The next step of a bay, if one can start: a drain step, the next step of the work that runs, or the first step of work from the
queue, which starts once every step of the work before it has committed (log entry 33). -/
def State.nextStep (s : State) (b : Nat) : Option State :=
  let y := s.bay b
  let no := y.st.next
  let two := y.st.wantTwo
  let open_ := s.jetty.maint.opening.isNone
  let drains := y.st.draining || s.opHeld b || y.wantShape.isSome
  let when_ (p : Bool) (t : State) : Option State := if p then some t else none
  if y.st.replay.isSome || y.st.running.isSome then none
  else if y.drainDue drains then when_ (s.mayStep b true) ((s.newStep b no 0 y.st.twoStep true).resumeStep b no)
  else if y.working then
    when_ (s.mayStep b false && y.st.room)
      (((if y.run.isNone && open_ then s.seat b no else s).newStep b no 0 two false).resumeStep b no)
  else
    match y.queue with
    | [] => none
    | w :: rest =>
      when_ (s.mayStep b false && open_ && y.st.live.isEmpty && y.run.isNone && (w.kind == .run || decide (0 < y.berthLimit)))
        (match w.kind with
        | .run =>
          let s1 := s.modBay b fun y => { y with queue := rest, run := some { w with firstStep := no, start := s.mt.ns } }
          (s1.newStep b no 0 two false).firstStep b no w.entry
        | .generate => ((s.seat b no).newStep b no 0 two false).firstStep b no 0)

/-- STEP_START (R33 order 7, R35, R36, R55). A bay without an uncommitted step is at a boundary whose changes take effect first. -/
def execStepStart (bay : Fin 16) (s : State) : Out :=
  let b := bay.val
  let s1 := if (s.bay b).st.live.isEmpty then s.modBay b fun y => y.applyBoundary [] false else s
  match s1.nextStep b with
  | some t => .next t
  | none => .next s

/-! Commit. -/

/-- Releases the output of committed steps, in step order, as far as every controller has acknowledged (R47, R310). -/
def State.releaseReady (s : State) (b : Nat) : Nat → State
  | 0 => s
  | k + 1 =>
    match (s.bay b).st.acking with
    | r :: rest =>
      if r.waitAck.isEmpty then
        ((s.modBay b fun y => { y with st := { y.st with acking := rest } }).releaseStep b r).releaseReady b k
      else s
    | [] => s

/-- Controllers that hold shadows of step `n` of bay `b`. -/
def State.shadowHolders (s : State) (b n : Nat) : List Nat :=
  (List.range 8).filter fun k => (s.stack k).shadows.any fun h => h.bay == b && h.step == n && !h.committed

/-- The drain steps right behind the oldest live step that have ended: they commit nothing of their own (R55). -/
def Steps.spentDrains (t : Steps) : List StepRec := (t.live.drop 1).takeWhile fun q => q.drain && q.endedAt.isSome

/-- At a commit the step's shadows become committed ones, last of their granules (R46, R261). -/
def Stack.commit (k : Stack) (b n : Nat) : Stack :=
  let mine (h : Shadow) : Bool := h.bay == b && h.step == n && !h.committed
  { k with
    shadows := (k.shadows.filter fun h => !mine h) ++ (k.shadows.filter mine).map fun h => { h with committed := true } }

/-- A spent drain step leaves nothing behind: its effects go as at a rollback; its number is used (R55; log entry 184). -/
def State.spendDrains (s : State) (b : Nat) : State :=
  match (s.bay b).st.spentDrains with
  | [] => s
  | d :: _ => (s.discard b d.no).modBay b fun y => { y with st := { y.st with next := (s.bay b).st.next } }

/-- The step commits (R46, R168, R261, R449). -/
def State.commitStep (s0 : State) (b : Nat) (r : StepRec) : State :=
  let s := s0.spendDrains b
  let holders := s.shadowHolders b r.no
  let mark (k : Stack) : Stack := k.commit b r.no
  let s1 : State := { s with ctrls := s.ctrls.map fun _ k => mark k }
  let s2 := (s.physCoves b).foldl (fun t c => t.commitCloses r.no c) s1
  let s3 := s2.modCoves (s.physCoves b) fun _ v =>
    { v with
      cores := v.cores.map fun _ k => { k with entries := k.entries.filter fun e => decide (r.no < e.1) }
      ig := { v.ig with
        failed := v.ig.failed.filter fun f => decide (r.no < f.1)
        primSigs := v.ig.primSigs.filter fun q => decide (r.no < q.step)
        shadowSigs := v.ig.shadowSigs.filter fun q => decide (r.no < q.step)
        paired := v.ig.paired.filter fun k => decide (r.no < k.step) } }
  let s3 : State :=
    { s3 with
      streams := s3.streams.map fun lc (p : StreamPort) =>
        onlyIf ((s.bay b).has lc) (fun p => { p with served := p.served.filter fun d => decide (r.no < d.step) }) p }
  let s4 := s3.modBay b fun y =>
    { y with
      st := { y.st with
        committed := r.no, lastViol := none
        live := y.st.live.drop 1
        acking := y.st.acking ++ [{ r with committed := true, waitAck := holders }] }
      run := y.run.map fun w => { w with steps := w.steps + 1 }
      berths := y.berths.map fun _ w => if w.firstStep ≤ r.no then { w with steps := w.steps + 1 } else w
      hang := { y.hang with window := false, windowAt := none } }
  s4.releaseReady b (s4.bay b).st.acking.length

/-- Do the write buffers of the bay's stream ports hold words of steps up to `n`? They reach HBM before the step commits (R47; log
entry 153). -/
def State.streamsHold (s : State) (b n : Nat) : Bool :=
  s.streams.rows.any fun r => (s.bay b).has r.1 && r.2.wrBuf.any fun w => decide (w.step ≤ n)

/-- Held bytes at these offsets of the output area fail parity as the jetty reads its hold buffer (R332). -/
def StepRec.heldBad (r : StepRec) (bad : List (BitVec 32)) : StepRec :=
  { r with held := r.held.map fun p =>
      { p with bad := p.bad ++ (bad.map BitVec.toNat).filter fun x => decide (p.off ≤ x ∧ x < p.off + p.data.length) } }

/-- COMMIT (R46): steps commit in increasing order, once the combined vote has passed; commits wait while a core of the bay is halted
(R132). `n.bad` are held output bytes that fail parity as the jetty reads them (R332). -/
def execCommit (bay : Fin 16) (n : CommitOf) (s : State) : Out :=
  match (s.bay bay).st.live.head? with
  | some r =>
    occurs s (r.no == n.step.toNat && r.vote == some true && !r.drain && !s.coreHalted bay && !s.streamsHold bay r.no)
      (s.commitStep bay (r.heldBad n.bad))
  | none => .next s

/-- Has a controller a committed shadow of step `n` with a write that still waits for its chunk's copy (R47, R262)? -/
def Stack.unlanded (k : Stack) (b n : Nat) : Bool :=
  k.shadows.any fun h => h.committed && h.bay == b && h.step == n && !h.waiting.isEmpty

/-- COMMIT_ACK (R47), once the step's writes at the controller have landed: `badOutput` are held output bytes of the step that fail parity
as the jetty reads them (R332). -/
def execCommitAck (bay : Fin 16) (n : BitVec 48) (stack : Fin 8) (badOutput : List (BitVec 32)) (s : State) : Out :=
  let b := bay.val
  let mine (r : StepRec) : Bool := r.no == n.toNat && r.waitAck.contains stack.val
  let ack (r : StepRec) : StepRec :=
    { r.heldBad badOutput with waitAck := r.waitAck.filter fun k => k != stack.val }
  let s1 := s.modBay b fun y => { y with st := { y.st with acking := y.st.acking.map fun r => onlyIf (mine r) ack r } }
  occurs s ((s.bay b).st.acking.any mine && !(s.stack stack).unlanded b n.toNat) (s1.releaseReady b (s1.bay b).st.acking.length)

/-! Failure. -/

/-- ROLLBACK (R48, R49). -/
def execRollback (bay : Fin 16) (n : BitVec 48) (s : State) : Out :=
  occurs s ((s.bay bay).st.live.any fun r => r.no == n.toNat && r.vote == some false && !r.drain) (s.failStep bay n.toNat)

/-- VOTE_DEADLINE (R45). -/
def execVoteDeadline (bay : Fin 16) (n : BitVec 48) (s : State) : Out :=
  let t := (s.bay bay).st
  match t.live.find? fun r => r.no == n.toNat && !r.drain && r.vote.isNone with
  | some r => occurs s (t.overdue r s.clk.elapsed) (s.failStep bay n.toNat)
  | none => .next s

/-! Replay. -/

/-- Registers and local data memory are undefined at a replay's start (R37, R49): free values from use number `k` on. -/
def PCore.undefine (c : PCore) (k : Nat) : PCore :=
  { c with
    g := (List.range 31).foldl (fun (t : Tab Word) i => t.set 0 (i + 1) (Config.freeWord (k + i))) {}
    v := (List.range 8).foldl (fun (t : Tab Row) i => t.set 0 i (Config.freeRow (k + i))) {}
    dmem := memSetBytes {} 0 (freeBytes k 4096) }

/-- Free values that a replay start uses: 4,096 for each core of the module. -/
def replayUses : Nat := 4096 * 16 * 800

/-- The core restarts at the step's entry address (R49, R122). -/
def PCore.replay (c : PCore) (no k : Nat) : PCore :=
  match c.entries.find? fun e => e.1 == no with
  | some e => (c.undefine k).begin_ no e.2
  | none => c

/-- Are the slot moves that the replay waits for over (R344)? -/
def State.movesDone (s : State) (gs : List Nat) : Bool :=
  gs.all fun g => (s.rot.moves.find g).isNone && !s.rot.waiting.any fun w => w.1 == g && w.2.kind == .replay

/-- REPLAY_START (R49, R140). DESIGN CHOICE (log entry 185): the replay runs in the commit mode of the bay's newest step, also where the failed
step began in two-step mode and the step after it in single-step mode: the spec is silent. A bay that drains for an operating point or a shape replays first, on the clock and the shape that the step
began on (R36). -/
def execReplayStart (bay : Fin 16) (s : State) : Out :=
  let b := bay.val
  let y := s.bay b
  match y.st.replay with
  | none => .next s
  | some r =>
    occurs s (s.mayStep b true && y.st.running.isNone && s.movesDone r.moves)
      (let s1 := match y.program with
        | some p => s.modCoves (s.physCoves b) fun c v => match s.logOf c with
          | some l => v.reloadRows p y.shape l
          | none => v
        | none => s
       let s2 := s1.modBay b fun y => { y with st := { y.st with replay := none } }
       let s3 := (s2.newStep b r.no r.attempt y.st.twoStep false).startOn b r.no fun c i k =>
         k.replay r.no (s.free + (c * 16 + i) * 4096)
       s3.spend replayUses)

/-! Registers. -/

/-- Address of the bay's step block (R480, R481). -/
def stepBase (b : Nat) : Nat := 0xF00000020000 + 0x200 * b

/-- STEP_COMMIT_LO_READ (R57, R58): COMMIT_HI is latched for the requester; a core reaches the block of its own bay. -/
def execStepCommitLoRead (who : Requester) (bay : Fin 16) (s : State) : Out :=
  let may := match who with
    | .core r => s.bayOf r.cove == some bay.val
    | _ => s.readsBay who bay
  occurs s may (s.latch who (BitVec.ofNat 48 (stepBase bay)) (BitVec.ofNat 32 ((s.bay bay).st.committed / 2 ^ 32)))

end Sys2Proof.Machine
end

