-- ==== Sys2Proof/Machine/Hangs.lean ====
section
/-!
DEFINITION. Bay resets and recovery (18_hangs_and_resets.md R445 to R461).
-/

namespace Sys2Proof.Machine

/-! Reset entry. -/

/-- A core at reset entry (R131, Table 18.3): PB_EXC, PB_EXC_PC, its counters and debug settings stay. -/
def PCore.resetEntry (k : PCore) (cyc : Nat) : PCore :=
  { k with state := 0, pc := 0, wait := none, entries := [], lastSel := 7, stall := k.stallNow cyc, heldAt := none }

/-- The tide switch of a cove in reset: its tables stay, phase 0 is current (R187, R212). -/
def Tide.resetEntry (t : Tide) (cyc : Nat) : Tide :=
  { t with
    ph := {}, phNext := [], entryPh := {}, frozen := false, inputs := {}, bq := {}, gout := {}, lane := [], arrived := {}
    votes := [], casts := []
    phStart := (((({} : Tab Nat).set 0 0 cyc).set 0 1 cyc).set 0 2 cyc)
    groynes := t.groynes.map fun _ g => { g with data := [], toks := [], pairs := [], seq := false } }

/-- A cove at reset entry (Table 18.3). -/
def Cove.resetEntry (v : Cove) (cyc : Nat) : Cove :=
  { v with
    cores := v.cores.map fun _ k => k.resetEntry cyc
    latches := {}
    brk := { v.brk with queue := [], running := [], accSet := false }
    sp := { v.sp with reqs := [] }
    spx := { v.spx with reload := [] }
    tide := v.tide.resetEntry cyc
    net := { v.net with dmaSeq := 0, dmaDone := 0, flags := {}, faults := {} }
    ig := { v.ig with primSigs := [], shadowSigs := [], failed := [], owed := [], paired := [] } }

/-- May the reset that was asked for take effect: no handover move of the bay's segments, no load in progress (R456)? -/
def State.resetMay (s : State) (b : Nat) : Bool :=
  let y := s.bay b
  y.hang.asked.isSome && !y.hang.resetting && !y.hang.recovering && y.load.isNone
    && !y.segments.any fun g => (s.rot.moves.find g).any Handover.moving

/-- The number recorded at reset entry: the oldest uncommitted step, or 0 (R457). -/
def Steps.recordStep (t : Steps) : Nat :=
  match t.oldest with
  | some r => r.no
  | none => match t.replay with
    | some r => r.no
    | none => 0

/-- Halves in EBB that hold coves of the bay wake (R388, R456). -/
def State.wakeHalves (s : State) (b : Nat) : State :=
  (s.bayHalves b).foldl (fun t h =>
    if (t.half h).ebb then t.wakeHalf h else t) s

/-- The reset takes effect (R453 to R457). -/
def State.enterReset (s : State) (b : Nat) : State :=
  let y := s.bay b
  let code := y.stopped.getD 0xE001
  let step := y.st.recordStep
  let s1 := (s.logFull code none (some b) (leBytes 6 step)).discardAll b
  let s2 := (s1.modCoves (s1.physCoves b) fun c v => v.resetEntry (s1.cycles c)).wakeHalves b
  let s3 : State :=
    { s2 with streams := s2.streams.map fun lc p =>
        onlyIf (y.has lc) (fun (p : StreamPort) => { p with fifo := [], served := [], rdBuf := [], wrBuf := [] }) p }
  s3.modBay b fun y =>
    { y with
      stopped := none, wantShape := none
      st := { y.st with next := y.st.committed + 1, replay := none, draining := false, lastViol := none }
      hang := { y.hang with
        resetting := true, recovering := true, asked := none, resetRec := code, resetStep := BitVec.ofNat 48 step
        resets := satAdd32 y.hang.resets 1, entryAt := s.clk.elapsed, parkedNs := 0, reloaded := false, retries := [], window := false, windowAt := none
        eddyLast := [] } }

/-- RESET_ENTRY (R456, R457). -/
def execResetEntry (bay : Fin 16) (s : State) : Out := occurs s (s.resetMay bay) (s.enterReset bay)

/-! Recovery (Table 18.4). -/

/-- Quiescence lasts 130 µs from reset entry. -/
def quiescenceNs : Nat := 130000

/-- The reset of a cove ends: channel tables and queues, registers and local data memory are cleared (R104, R169). -/
def Cove.resetEnd (v : Cove) (cn : Nat) : Cove :=
  { v with
    ch := v.ch.clear cn true
    cores := v.cores.map fun _ k => { k with g := {}, v := {}, dmem := {}, gBad := [], vBad := [], dmemBad := [] } }

/-- RECOVERY_QUIESCENCE (R459 steps 3 and 4). -/
def execRecoveryQuiescence (bay : Fin 16) (s : State) : Out :=
  let h := (s.bay bay).hang
  occurs s (h.resetting && decide (h.entryAt + quiescenceNs ≤ s.clk.elapsed))
    ((s.modCoves (s.physCoves bay) fun _ v => v.resetEnd s.cnCycles).modBay bay fun y =>
      { y with hang := { y.hang with resetting := false } })

/-- Seam paths of the rows that the bay spans align again (R391, R459 step 7). -/
def State.realign (s : State) (b : Nat) : State :=
  (List.range 20).foldl (fun t y =>
    if (s.bay b).has (36 * y + 17) && (s.bay b).has (36 * y + 18) then
      t.modSeam y fun p => { p with state := .closed, slipped := false, fails := if p.state = .open_ then 0 else p.fails }
    else t) s

/-- The completions of the BAY_RESETs that wait (R456). -/
def State.answerResets (s : State) (b : Nat) (code : Code) : State :=
  ((s.bay b).hang.askers.foldl (fun t u =>
    t.complete u.1 { cmdId := u.2.1, opcode := 0x19, code := code, start := u.2.2 }) s).modBay b fun y =>
      { y with hang := { y.hang with askers := [] } }

/-- A park and the loss of REFCLK delay a recovery by their own duration (R459). -/
def State.parkCycle (s : State) : State :=
  if s.parked then
    { s with bays := s.bays.map fun _ y => if y.hang.recovering then { y with hang := { y.hang with parkedNs := y.hang.parkedNs + 1 } } else y }
  else s

/-- Recovery ends: its duration is kept, one above 3 ms besides the parks is logged (R459). -/
def State.endRecovery (s : State) (b : Nat) : State :=
  let us := (s.clk.elapsed - (s.bay b).hang.entryAt) / 1000
  let s1 := s.modBay b fun y =>
    { y with hang := { y.hang with
        recovering := false, recoverUs := BitVec.ofNat 32 (min us 0xFFFFFFFF), eddyNew := false, reloaded := false, retries := [] } }
  if 3000000 + (s.bay b).hang.parkedNs < s.clk.elapsed - (s.bay b).hang.entryAt then s1.logBay 0xE021 b else s1

/-- Recovery cannot complete: the bay stops with a code and keeps its program (R372, R460). -/
def State.failRecovery (s : State) (b : Nat) (code : Code) : State :=
  ((s.endRecovery b).stopBay b code).answerResets b code

/-- The bay's coves hold the tables and instruction memories of a shape, or the standby image without a program (R453). -/
def State.reload (s : State) (b : Nat) : Option State :=
  match (s.bay b).program with
  | none => some (s.loadStandby b)
  | some p => (s.firstShape b p).map fun k =>
      (s.loadShape b p k false).modBay b fun y => { y with shape := k, shrunk := k != 0, wantShape := none }

/-- The bay is in service again: running work completes with the recorded code, EVENT 0x05, the recovery window opens (R459 step 8). -/
def State.recovered (s : State) (b : Nat) : State :=
  let code := (s.bay b).hang.resetRec
  let s1 := (((s.endRecovery b).endRunning b code false).event b 5 code).answerResets b 0
  (s1.modBay b fun y => { y with hang := { y.hang with window := true, windowAt := none } }).atBoundary b

/-- RECOVERY_COMPLETE (R459, R460): `badParts` are the coves whose parts fail their digest as they are sent; after a first
failure they are sent again. `poison` says that the cached program is poisoned. Where the bay spans the seam, its paths align again before
the recovery is complete, by the next such command. -/
def execRecoveryComplete (bay : Fin 16) (badParts : List (Fin 720)) (poison : Bool) (s : State) : Out :=
  let b := bay.val
  let y := s.bay b
  let bad := badParts.map Fin.val
  let sent := { y with hang := { y.hang with retries := (y.hang.retries ++ bad).eraseDups } }
  occurs s (y.hang.recovering && !y.hang.resetting && !s.parked && s.clk.refOk && (!y.hang.reloaded || y.program.isNone || s.seamReady b))
    (if y.hang.reloaded then s.recovered b
     else if poison && y.program.isSome then s.failRecovery b 0x8020
     else if bad.any y.hang.retries.contains then s.failRecovery b 0xE020
     else if !bad.isEmpty then s.modBay b fun _ => sent
     else match s.reload b with
      | some t =>
        let t1 := t.realign b
        if y.program.isNone then t.recovered b
        else if t1.seamReady b then t1.recovered b else t1.modBay b fun y => { y with hang := { y.hang with reloaded := true } }
      | none => s.failRecovery b 0xB050)

/-- RECOVERY_WINDOW_TIMEOUT (R449). -/
def execRecoveryWindowTimeout (bay : Fin 16) (s : State) : Out :=
  let h := (s.bay bay).hang
  occurs s (h.window && h.windowAt.any fun t => decide (t + 4 * s.stepNs bay ≤ s.clk.elapsed))
    (s.modBay bay fun y => { y with hang := { y.hang with window := false, windowAt := none, eddyLast := [] } })

/-- Address of the bay's hang block (R461). -/
def hangBase (b : Nat) : Nat := 0xF00000020000 + 0x200 * b + 0x100

/-- HR_RESET_STEP_LO_READ (R461): HR_RESET_STEP_HI is latched for the requester. -/
def execHrResetStepLoRead (who : Requester) (bay : Fin 16) (s : State) : Out :=
  occurs s (s.readsBay who bay)
    (s.latch who (BitVec.ofNat 48 (hangBase bay + 0xC)) (BitVec.ofNat 32 ((s.bay bay).hang.resetStep.toNat / 2 ^ 32)))

end Sys2Proof.Machine
end

