-- ==== Sys2Proof/Machine/Rotation.lean ====
section
/-!
DEFINITION. Tidal rotation, self-test, fencing capacity and shape switches (14_tidal_rotation.md), with the save and restore of a cove
and row remaps in service (06_scratchpad.md R148 to R152).
-/

namespace Sys2Proof.Machine

/-! The rotation schedule (R359 to R361). -/

/-- Does the walk stand still (R361)? -/
def Rotation.stopped (r : Rotation) : Bool := r.pause || r.interval == 0

/-- Nanoseconds between the test slots of a field (R360, R361). -/
def Rotation.slotNs (r : Rotation) : Nat :=
  (if r.stopped then 720 else max 60 r.interval.toNat) * 1000000000

/-- Do tests start at all (R361)? -/
def State.testsAllowed (s : State) : Bool := !s.pwr.refusing && !s.pwr.capUnmet

/-- May a requalification test start at elapsed time `now`: the first, or the second 24 hours after the first (R369)? -/
def CoveTest.requalDue (t : CoveTest) (now : Nat) : Bool :=
  t.requal == 0 || t.cleanAt.any fun a => decide (a + 86400000000000 ≤ (now : Int))

/-- Is the cove due for a test ahead of the walk: held until tested, or fenced and due for requalification; and not under test
(R359, R369, R370)? -/
def State.testDue (s : State) (c : Nat) : Bool :=
  let g := (s.cove c).ig
  (s.logOf c).isNone && !s.underTest c
    && (g.state == .held || (g.state == .fenced && !g.pattern && (s.coveTest c).requalDue s.clk.elapsed))

/-- The cove that the walk takes at this slot; live coves of segments without an idle normal spare are skipped and logged
(R359); where the segment already has a handover the rotation waits for the next slot (R357). -/
def State.walkTest (s : State) (f : Nat) : List Nat → State
  | [] => s
  | c :: t =>
    let take (s : State) : State := s.modField f fun k => { k with pending := some c, walk := c + 1 }
    if (s.cove c).ig.state = .fenced ∨ s.underTest c then s.walkTest f t
    else if (s.logOf c).isNone then take s
    else if (s.rot.moves.find (segOfPhys c)).isSome then s.modField f fun k => { k with walk := c }
    else
      match s.receiver c [] with
      | some d =>
        if s.underTest d then (s.logCove 0xB055 c).walkTest f t
        else (take s).askMove { src := c, dst := some d, kind := .test }
      | none => (s.logCove 0xB055 c).walkTest f t

/-- Fences that were abandoned are tried again at the field's slot (R358). -/
def State.retryFences (s : State) (f : Nat) : State :=
  let k := s.field f
  let s1 := if k.retry.isSome ∧ k.capReady then (s.modField f fun k => { k with retry := none }).decideFence f none else s
  ((fieldCoves f).filter fun c => (s.coveTest c).forced && (s.logOf c).isSome
      && !((s.rot.moves.find (segOfPhys c)).any fun h => h.src == c) && !s.rot.waiting.any fun w => w.2.src == c).foldl
    State.fenceForced s1

/-- ROTATION_TEST_SLOT (R353, R357, R359, R360). -/
def execRotationTestSlot (field : Fin 4) (s : State) : Out :=
  let f := field.val
  match (s.field f).slotAt with
  | none => .next s
  | some at_ =>
    let s1 := (s.modField f fun k => { k with slotAt := some (at_ + s.rot.slotNs) }).retryFences f
    occurs s (decide (at_ ≤ s.clk.elapsed))
      (if (s.field f).pending.isSome || !s.testsAllowed then s1
       else
        match (fieldCoves f).find? s1.testDue with
        | some c => s1.modField f fun k => { k with pending := some c }
        | none =>
          if s.rot.stopped then s1
          else
            let all := fieldCoves f
            s1.walkTest f (all.filter (fun c => decide ((s.field f).walk ≤ c)) ++ all.filter fun c => decide (c < (s.field f).walk)))

/-- Does a fence of the spare's segment that waits or moves need it (R353, R361)? -/
def State.neededSpare (s : State) (c : Nat) : Bool :=
  let g := segOfPhys c
  ((s.rot.moves.find g).any fun h => h.kind == .fence && h.dst == some c)
    || s.rot.waiting.any fun w => w.1 == g && w.2.kind == .fence && s.receiver w.2.src [] == some c

/-- May the field's chosen test start, but for the 50 ms (R360, R361, R369)? -/
def State.testReady (s : State) (f : Nat) : Bool :=
  let k := s.field f
  match k.pending with
  | none => false
  | some c => k.cove.isNone && (s.logOf c).isNone && s.testsAllowed && !(s.half (halfOf c)).ebb && !s.neededSpare c
      && ((s.cove c).ig.state != .fenced || (s.coveTest c).requalDue s.clk.elapsed)

/-- ROTATION_TEST_START (R360, R361): the save begins. Of fields due at the same moment the lowest goes first. -/
def execRotationTestStart (field : Fin 4) (s : State) : Out :=
  let f := field.val
  let k := s.field f
  let first := (List.range f).all fun g => !(s.testReady g && (s.field g).slotAt == k.slotAt)
  match k.pending with
  | none => .next s
  | some c =>
    occurs s (s.testReady f && first && s.rot.lastStart.all fun t => decide (t + 50000000 ≤ s.clk.elapsed))
      (let s1 := s.modField f fun k =>
        { k with cove := some c, phase := 2, pending := none, result := 0, failPhase := 0, startedAt := s.clk.elapsed
                 errorsAt := (s.cove c).ig.totalEvents }
       { s1 with rot := { s1.rot with lastStart := some s.clk.elapsed } })

/-! Save, test, restore (R150 to R152, R362 to R364, R369, R370). -/

/-- Rows and spare rows of every bank, in bank order (R150). -/
def Scratchpad.dataBytes (p : Scratchpad) : List Byte :=
  (List.range 16).flatMap fun b => memBytes p.bytes (b * 131072) 131072 ++ memBytes p.spare (b * 1024) 1024

/-- Which bytes, in the order of `dataBytes`, hold a parity bit that does not match. -/
def Scratchpad.badFlags (p : Scratchpad) : List Bool :=
  (List.range 16).flatMap fun b =>
    ((List.range 131072).map fun i => p.bad.contains (b * 131072 + i)) ++ (List.range 1024).map fun i => p.spareBad.contains (b * 1024 + i)

/-- The image that R150 saves and digests: the data, then a parity bit for each of its bytes, as stored. -/
def Scratchpad.imageBytes (p : Scratchpad) : List Byte :=
  p.dataBytes ++ packBits (List.zipWith (fun x f => parityOf x != f) p.dataBytes p.badFlags)

/-- The 16 remap tables, 32 bytes each: entry k of a bank holds 0x8000 + the row that spare row k serves, else 0. -/
def Scratchpad.remapBytes (p : Scratchpad) : List Byte :=
  (List.range 256).flatMap fun i =>
    leBytes 2 (match p.remap.rows.find? fun r => r.1 / 2048 == i / 16 && r.2 == i % 16 with
      | some r => 0x8000 + r.1 % 2048
      | none => 0)

/-- The remap tables that 512 bytes hold. -/
def remapOf (bs : List Byte) : Tab Nat :=
  (List.range 256).foldl (fun (t : Tab Nat) i =>
    let w := fieldLe bs (2 * i) 2
    if 0x8000 ≤ w then t.put (i / 16 * 2048 + w % 2048) (i % 16) else t) {}

/-- The save area of a cove: stack-local page 12,232 on of the stack of its field (R150, R251). -/
def saveArea (c : Nat) : Nat := hbmKey (2 * fieldOf c) (12232 * 32) 0

/-- Bytes of the data in the save area, and where bank `b` begins there; the parity bits follow the data. -/
def saveData : Nat := 2113536
def saveBank (area b : Nat) : Nat := area + 512 + b * 132096

/-- Does the stored parity bit of byte `i` of the saved data differ from the parity of the byte stored? -/
def savedBad (m : Memory) (area i : Nat) : Bool :=
  (memByte m (area + 512 + saveData + i / 8)).getLsbD (i % 8) != parityOf (memByte m (area + 512 + i))

/-- What a save area holds, with the remap tables `rm`. -/
def Scratchpad.fromArea (p : Scratchpad) (m : Memory) (area : Nat) (rm : Tab Nat) : Scratchpad :=
  { p with
    remap := rm
    bytes := (List.range 16).foldl (fun t b => memSetBytes t (b * 131072) (memBytes m (saveBank area b) 131072)) {}
    spare := (List.range 16).foldl (fun t b => memSetBytes t (b * 1024) (memBytes m (saveBank area b + 131072) 1024)) {}
    bad := (List.range (16 * 131072)).filter fun a => savedBad m area (a / 131072 * 132096 + a % 131072)
    spareBad := (List.range (16 * 1024)).filter fun a => savedBad m area (a / 1024 * 132096 + 131072 + a % 1024) }

/-- The neighbour that keeps the copy of a save (R150). -/
def saveNeighbour (c : Nat) : Nat := if (c % 40) % 20 = 0 then c + 1 else c - 1

/-- Nine unused spare rows in nine banks, if there are (R150). -/
def Cove.copyRows (v : Cove) : Option (List Nat) :=
  let rows := (List.range 16).filterMap fun b =>
    ((List.range 16).find? fun k => !(v.sp.usedSpares b).contains k).map fun k => b * 16 + k
  if 9 ≤ rows.length then some (rows.take 9) else none

/-- A row met with bad parity by the save: logged against the row; it keeps failing its parity when it is restored (R152). Which
byte fails is open. -/
def State.saveParity (s : State) (c bank row : Nat) : State :=
  let s1 := (s.modCove c fun v => v.noteParity bank row 3 s.clk.elapsed).logCove 0x5020 c
  if ((s.cove c).sp.rowBad bank row 0 64) then s1
  else
    (s1.spend 1).modCove c fun v => v.modSp fun p =>
      match p.spareOf bank row with
      | some k => { p with spareBad := p.spareBad ++ [bank * 1024 + k * 64 + s.freeNat % 64] }
      | none => { p with bad := p.bad ++ [bank * 131072 + row * 64 + s.freeNat % 64] }

/-- Addressable rows that hold a byte of bad parity, in place or in their spare rows. -/
def Scratchpad.badRows (p : Scratchpad) : List (Nat × Nat) :=
  (p.bad.map fun a => (a / 131072, a % 131072 / 64)).eraseDups.filter (fun r => (p.spareOf r.1 r.2).isNone)
    ++ (p.remap.rows.map fun r => (r.1 / 2048, r.1 % 2048)).filter fun r => p.rowBad r.1 r.2 0 64

/-- The copy of 576 bytes in nine spare rows, named by bank × 16 + spare row: the remap tables and the digest (R150). -/
def Scratchpad.putCopy (p : Scratchpad) (rows : List Nat) (bs : List Byte) : Scratchpad :=
  (List.range rows.length).foldl (fun (p : Scratchpad) i =>
    let a := rows.getD i 0 / 16 * 1024 + rows.getD i 0 % 16 * 64
    { p with spare := memSetBytes p.spare a (slice bs (64 * i) 64), spareBad := p.spareBad.filter fun x => !(a ≤ x && x < a + 64) }) p

/-- What the nine rows hold, if none fails its parity. -/
def Scratchpad.getCopy (p : Scratchpad) (rows : List Nat) : Option (List Byte) :=
  let at_ (r : Nat) : Nat := r / 16 * 1024 + r % 16 * 64
  if rows = [] ∨ (rows.any fun r => p.spareBad.any fun x => at_ r ≤ x && x < at_ r + 64) then none
  else some (rows.flatMap fun r => memBytes p.spare (at_ r) 64)

/-- COVE_SAVE (R150, R152): the image goes to the save area of the field's stack, the remap tables and the digest to the neighbour;
`parity` names further rows whose parity fails as they are read. -/
def execCoveSave (cove : Fin 800) (parity : List (Fin 16 × Fin 2048)) (s : State) : Out :=
  let c := cove.val
  let f := s.field (fieldOf c)
  let held := (s.cove c).sp.badRows
  let named := (parity.map fun r => (r.1.val, r.2.val)).filter fun r => !held.contains r
  let s1 := (held ++ named).foldl (fun t r => t.saveParity c r.1 r.2) s
  let p := (s1.cove c).sp
  let n := saveNeighbour c
  let rows := (s1.cove n).copyRows
  let digest : BitVec 512 := (Config.shake256 p.imageBytes).setWidth 512
  let s2 : State := { s1 with hbm := memSetBytes s1.hbm (saveArea c) (p.remapBytes ++ p.imageBytes) }
  let s3 := s2.modCove c fun v => { v with spx := { v.spx with image := some { digest := digest, copied := rows.isSome } } }
  let s4 := match rows with
    | some l => s3.modCove n fun v =>
        { v with sp := { v.sp.putCopy l (p.remapBytes ++ leBytes 64 digest.toNat) with nbHold := true }, spx := { v.spx with nbCopy := l } }
    | none => s3
  occurs s (f.cove == some c && f.phase == 2 && f.result == 0) (s4.modField (fieldOf c) fun k => { k with phase := 3 })

/-- A cove that holds no slot and has been charged with a failed test is fenced at once (R363). -/
def State.fenceTested (s : State) (c : Nat) : State := if (s.cove c).ig.state = .fenced then s else s.fenceForced c

/-- TEST_PHASE_COMPLETE (R362, R363): a phase passes or fails; which of the phase's blocks failed, and so the unit of the record, is a free
value; an eddy finding can only come of the cores' phase (R452). -/
def execTestPhaseComplete (field : Fin 4) (pass eddy : Bool) (s : State) : Out :=
  let f := field.val
  let k := s.field f
  match k.cove with
  | none => .next s
  | some c =>
    let t :=
      if pass then s.modField f fun k => if k.phase = 7 then { k with result := 1 } else { k with phase := k.phase + 1 }
      else
        let s1 := s.modField f fun k => { k with result := 2, failPhase := k.phase - 2 }
        let s2 := if eddy && k.phase == 5 then s1.logCove 0xE011 c else s1
        let us := phaseUnits (k.phase - 2).toNat
        ((s2.failTest c (us.getD (s.freeNat % us.length) 0)).spend 1).fenceTested c
    occurs s (decide (3#3 ≤ k.phase) && k.result == 0) (if k.phase = 5 then t.modCove c Cove.endSelfTest else t)

/-- Coverage of phase 3 in units of 0.01 %: Table 14.3's, or, with the memory marches alone, less by what the spec leaves open (R428; log
entry 166). -/
def State.coresCoverage (s : State) : Nat × Nat :=
  if s.img.tests.isEmpty then (s.freeNat % 9890, s.freeNat / 9890 % 9300) else (9890, 9300)

/-- Shares and coverages of the test phases (Table 14.3), coverages in units of 0.01 %. -/
def testShares (p3 : Nat × Nat) : List (Nat × Nat × Nat) :=
  [(2, 10000, 10000), (58, 9860, 9180), (24, p3.1, p3.2), (8, 9910, 9420), (8, 9750, 9000)]

/-- Coverage of the first `n` phases, to the nearest unit (R364). -/
def coverage (p3 : Nat × Nat) (n : Nat) (f : Nat × Nat × Nat → Nat) : BitVec 14 :=
  let l := (testShares p3).take n
  let w := (l.map Prod.fst).sum
  BitVec.ofNat 14 (if w = 0 then 0 else ((l.map fun r => r.1 * f r).sum * 2 + w) / (2 * w))

/-- Phases that a test has completed: all five where only the restore failed. -/
def FieldTest.completed (k : FieldTest) : Nat :=
  if k.result = 1 ∨ (k.result = 2 ∧ k.failPhase = 0) then 5 else if k.result = 2 then k.failPhase.toNat - 1 else k.phase.toNat - 3

/-- The report of a test in ROT_TEST_* (R364). -/
def CoveTest.report (t : CoveTest) (k : FieldTest) (clean : Bool) (now : Nat) (p3 : Nat × Nat) : CoveTest :=
  { t with
    result := k.result, failPhase := k.failPhase, clean := clean
    cov1 := coverage p3 k.completed fun r => r.2.1
    cov2 := coverage p3 k.completed fun r => r.2.2
    dur := BitVec.ofNat 32 ((now - k.startedAt) / 1000000)
    endAt := some now }

/-- The cove's standing after a test (R369, R370). -/
def State.requalify (s : State) (c : Nat) (k : FieldTest) (clean : Bool) : State :=
  let g := (s.cove c).ig
  let now := s.clk.elapsed
  if k.result = 3 then s
  else if g.state = .held then (if clean then s.setCoveState c .normal else s)
  else if g.state = .fenced ∧ !g.pattern then
    if !clean then (s.modCoveTest c fun t => { t with requal := 0, cleanAt := none }).journalCove c
    else if (s.coveTest c).requal = 0 then
      (s.modCoveTest c fun t => { t with requal := 1, cleanAt := some (now : Int) }).journalCove c
    else if (s.coveTest c).requalDue k.startedAt then
      (s.modCoveTest c fun t => { t with requal := 0, cleanAt := none, forced := false }).setCoveState c .normal
    else s
  else s

/-- What the neighbour still keeps of a save of cove `c` (R150, R151). -/
def State.keptCopy (s : State) (c : Nat) : Option (List Byte) :=
  (s.cove (saveNeighbour c)).sp.getCopy (s.cove (saveNeighbour c)).spx.nbCopy

/-- The remap tables and contents of a save come back from the neighbour's rows, if they are intact, and HBM; rows that BIST found are
remapped too, with their contents; the neighbour's rows are released (R151). -/
def State.restoreImage (s : State) (c : Nat) (bist : List (Nat × Nat)) : State :=
  match (s.cove c).spx.image with
  | none => s
  | some im =>
    let area := saveArea c
    let rm := match s.keptCopy c with
      | some bs => remapOf (bs.take 512)
      | none => remapOf (memBytes s.hbm area 512)
    let s1 := s.modCove c fun v => { v with sp := v.sp.fromArea s.hbm area rm, spx := { v.spx with image := none } }
    let s2 := s1.modCove (saveNeighbour c) fun v =>
      if im.copied then { v with sp := { v.sp with nbHold := false }, spx := { v.spx with nbCopy := [] } } else v
    bist.foldl (fun t r => t.spRemap c r.1 r.2) s2

/-- The digest of what a restore writes differs from the saved one, which the neighbour keeps or, without it, Headland (R151; log
entry 151). -/
def State.digestDiffers (s : State) (c : Nat) : Bool :=
  match (s.cove c).spx.image with
  | none => false
  | some im =>
    let saved := match s.keptCopy c with
      | some bs => leNat (bs.drop 512)
      | none => im.digest.toNat
    (Config.shake256 ((s.cove c).sp.fromArea s.hbm (saveArea c) {}).imageBytes).toNat != saved

/-- COVE_RESTORE (R151, R363, R364, R369, R375): `bist` names the rows that BIST found failing, `digestBad` that what was written reads
back otherwise than it was written. -/
def execCoveRestore (cove : Fin 800) (bist : List (Fin 16 × Fin 2048)) (digestBad : Bool) (s : State) : Out :=
  let c := cove.val
  let f := s.field (fieldOf c)
  let s1 := s.restoreImage c (bist.map fun r => (r.1.val, r.2.val))
  let bad := (digestBad && (s.cove c).spx.image.isSome) || s.digestDiffers c
  let s2 := if bad then (s1.charge c 0x5022).fenceTested c else s1
  let k : FieldTest := if bad && f.result == 1 then { f with result := 2 } else f
  let clean := k.result == 1 && (s2.cove c).ig.totalEvents == f.errorsAt && decide (s2.score c < 48)
  let s3 := (s2.modCoveTest c fun t => t.report k clean s.clk.elapsed s.coresCoverage).requalify c k clean
  let s4 := s3.modField (fieldOf c) fun k =>
    { k with cove := none, phase := 0, result := 0, failPhase := 0
             walk := if f.result = 3 ∧ (s.cove c).ig.state = .normal then c else k.walk }
  occurs s (f.cove == some c && f.result != 0)
    (((if f.phase = 5 ∧ f.result = 3 then s4.modCove c Cove.endSelfTest else s4).spend 1).backDark c)

/-- The rewrite of a row of a RELOAD handle that follows its remap (R140). -/
def State.reloadAfter (s : State) (c bank row : Nat) : State :=
  match s.logOf c, s.bayOf c with
  | some l, some b =>
    match (s.bay b).program with
    | some p => s.modCove c fun v => v.rewriteRows p (s.bay b).shape l [(bank, row)]
    | none => s
  | _, _ => s

/-- ROW_REMAP (R148, R149): at a step boundary of the bay that the cove serves. -/
def execRowRemap (cove : Fin 800) (bank : Fin 16) (row : Fin 2048) (s : State) : Out :=
  let c := cove.val
  let rest := match s.bayOf c with
    | some b => (s.bay b).st.running.isNone
    | none => true
  occurs s ((s.cove c).sp.due.contains (bank.val, row.val) && rest) ((s.spRemap c bank row).reloadAfter c bank row)

/-! Handovers (R354 to R358). -/

/-- May the move begin: every bay involved holds, no DMA transfer is open at a moving cove, the receiving cove is not under test
(R353, R354), and the tables of an earlier swap are free, which its own needs (R235)? -/
def State.moveReady (s : State) (g : Nat) (h : Handover) : Bool :=
  let was := segMap g (s.holdMask g, s.darkMask g)
  let will := segMap g (s.masksAfter g h)
  let moving := ((was.filter fun r => !will.contains r) ++ will.filter fun r => !was.contains r).map Prod.snd
  ((s.baysOfSeg g).all fun b => (s.bay b).st.running.isNone) && s.net.oldUntil.isNone
    && (moving.all fun c => (s.cove c).net.trackers.isEmpty && (s.cove c).net.dma.all fun d => !d.started || d.done)
    && match h.dst with
      | some d => !s.underTest d
      | none => true

/-- The bays of a segment hold until the epoch swap. -/
def State.holdBays (s : State) (g : Nat) : State :=
  (s.baysOfSeg g).foldl (fun t b => t.modBay b fun y => { y with hold := (y.hold ++ [g]).eraseDups }) s

/-- The epoch swap of the moves under way, at least `ahead` units from now; one swap serves them all (R356). -/
def State.armMoves (s : State) (ahead : Nat) : State :=
  s.beginSwapTo s.mapAfter (max ahead (s.net.swap.getD 0 - s.netUnits))

/-- Units from a move's beginning to its swap: the move's 40,576 cycles, of the arithmetic clock as it runs, and 64 more (R356). -/
def State.moveAhead (s : State) (c : Nat) : Nat :=
  let d := s.clockUnits (halfOf c)
  (365184 + d - 1) / d + 64

/-- A slot without a receiving cove becomes dark (R371). -/
def State.goDark (s : State) (g : Nat) (h : Handover) : State :=
  match s.logOf h.src with
  | none => s.nextMove g
  | some l =>
    let b := s.bayOfLog l
    let s1 := (s.holdBays g).moveSlots g (s.masksAfter g h)
    let s2 := { s1 with rot := { s1.rot with darkHome := s1.rot.darkHome.put l h.src } }
    (((((s2.fenceDone h.src h.counted b).rewatch g).nextMove g).armMoves swapAhead).refitAll)

/-- HANDOVER_MOVE_START (R353, R354, R356, R371). -/
def execHandoverMoveStart (seg : Fin 40) (s : State) : Out :=
  let g := seg.val
  match s.rot.moves.find g with
  | none => .next s
  | some h =>
    let go : State :=
      match h.dst, h.kind with
      | none, .fence => s.goDark g h
      | none, .replay =>
        match s.bayOf h.src with
        | some b => (s.nextMove g).stopBay b 0xB020
        | none => s.nextMove g
      | none, _ => s.abandonMove g h
      | some d, k =>
        if k = .back ∧ (s.cove d).ig.state ≠ .normal then s.nextMove g
        else
        let s1 := { s with rot := { s.rot with
          moves := s.rot.moves.put g { h with moving := true, since := s.cycles h.src } } }
        (s1.holdBays g).armMoves (s.moveAhead h.src)
    occurs s (!h.moving && s.moveReady g h) go

/-- What the vacated cove becomes (R344, R365, R366). -/
def State.vacated (s : State) (h : Handover) (b : Option Nat) : State :=
  match h.kind with
  | .fence => s.fenceDone h.src h.counted b
  | .replay =>
    if (s.cove h.src).ig.state = .normal ∨ (s.cove h.src).ig.state = .held then s.setCoveState h.src .held
    else s.fenceDone h.src false b
  | .test => s
  | .back => match h.backs with
    | some l => { s with rot := { s.rot with darkHome := s.rot.darkHome.erase l } }
    | none => s

/-- Packets that a move held are received where their slots are now (R171). -/
def State.releaseHeld (s : State) (g : Nat) : State :=
  ((segMap g (s.holdMask g, s.darkMask g)).map Prod.snd).foldl (fun t c =>
    (t.chan c).held.foldl (fun u x => u.recvHeld c x) (t.modChan c fun h => { h with held := [] })) s

/-- A spare chosen for a test that a handover has taken into service is not tested now; it keeps its place in the walk (R359). -/
def State.dropPending (s : State) : State :=
  (List.range 4).foldl (fun t f =>
    match (t.field f).pending with
    | some c =>
      if (t.logOf c).isSome ∧ !(t.rot.moves.find (segOfPhys c)).any fun h => h.src == c && h.kind == .test then
        t.modField f fun k => { k with pending := none, walk := c }
      else t
    | none => t) s

/-- The move has ended well (R355, R356). -/
def State.moveEnds (s : State) (g : Nat) (h : Handover) : State :=
  let b := s.bayOf h.src
  let s1 := ((((s.moveSlots g (s.masksAfter g h)).dropPending.vacated h b).rewatch g).nextMove g).releaseHeld g
  (if s1.net.swap.isSome || s1.net.wanted.isSome then s1 else s1.unhold g).refitAll

/-- HANDOVER_MOVE_COMPLETE (R205, R355, R356, R358): `linkErr` says that the move met a parity or valid-pair error; it starts
once more, and is abandoned the second time; the swap stays for the other moves that it serves. -/
def execHandoverMoveComplete (seg : Fin 40) (linkErr : Bool) (s : State) : Out :=
  let g := seg.val
  match s.rot.moves.find g with
  | none => .next s
  | some h =>
    let again : State :=
      ({ s with rot := { s.rot with
        moves := s.rot.moves.put g { h with restarts := h.restarts + 1, since := s.cycles h.src } } }).armMoves
        (s.moveAhead h.src)
    let gone : State :=
      let s1 := s.abandonMove g h
      if s1.rot.moves.rows.any fun r => r.2.moving then s1.armMoves 1000
      else if s1.bays.rows.any fun r => !r.2.hold.isEmpty then s1.armMoves 0
      else s1.disarm
    occurs s (h.moving && decide (h.since + 40576 ≤ s.cycles h.src))
      (if !linkErr then s.moveEnds g h else if h.restarts = 0 then again else gone)

/-- HANDOVER_TIMEOUT (R354). -/
def execHandoverTimeout (seg : Fin 40) (s : State) : Out :=
  match s.rot.moves.find seg with
  | none => .next s
  | some h =>
    occurs s (!h.moving && h.holdAt.any fun t => decide (t + 10000000 ≤ s.clk.elapsed)) (s.abandonMove seg h)

/-! Fencing capacity (R366 to R368). -/

/-- FENCE_CAPACITY_RETURN (R366, R367): the head of the queue is fenced once the bays concerned hold, unless it has an abandoned fence to try
again. -/
def execFenceCapacityReturn (field : Fin 4) (s : State) : Out :=
  let f := field.val
  occurs s ((s.field f).capAt.any fun t => decide (t ≤ s.clk.elapsed))
    ((s.modField f fun k => { k with capReady := true, capAt := none }).decideFence f none)

/-- RECUR_EXPIRY (R368). -/
def execRecurExpiry (cove : Fin 800) (s : State) : Out :=
  occurs s ((s.coveTest cove).recurAt.any fun t => decide (t ≤ s.clk.elapsed))
    (s.modCoveTest cove fun t => { t with recurAt := none })

/-- WATCH_MINIMUM_EXPIRY (Table 14.4): a watched cove whose score is 0 returns to normal after ten minutes on watch. -/
def execWatchMinimumExpiry (cove : Fin 800) (s : State) : Out := .next (s.endWatch cove)

/-! Shapes (R371 to R375). -/

/-- Where a logical cove's contents lie: its cove, or the fenced cove of a dark slot. -/
def State.homeOf (s : State) (l : Nat) : Option Nat :=
  match s.physOf l with
  | some c => some c
  | none => s.rot.darkHome.find l

/-- The resume items of the old shape with their bytes (R372, R373). -/
def State.resumeItems (s : State) (p : Program) (shape : Nat) : List (Nat × List Byte) :=
  (p.resume shape).filterMap fun i =>
    (s.homeOf i.2.1).map fun c =>
      (i.1, (s.cove c).sp.handleBytes (handleEntry (p.handle shape i.2.1 i.2.2.1)) 0 i.2.2.2)

/-- Does a byte of a resume item fail its parity where it stands (R373)? -/
def State.resumeFails (s : State) (p : Program) (shape : Nat) : Bool :=
  (p.resume shape).any fun i => match s.homeOf i.2.1 with
    | some c => (s.cove c).sp.handleBad (handleEntry (p.handle shape i.2.1 i.2.2.1)) 0 i.2.2.2
    | none => false

/-- The items written to their places in the new shape. -/
def State.writeItems (s : State) (p : Program) (shape : Nat) (items : List (Nat × List Byte)) : State :=
  (p.resume shape).foldl (fun t i =>
    match items.find? fun x => x.1 == i.1, t.physOf i.2.1 with
    | some x, some c => t.modCove c fun v => v.modSp fun sp =>
        sp.handleWrite (handleEntry (p.handle shape i.2.1 i.2.2.1)) 0 (x.2.take i.2.2.2)
    | _, _ => t) s

/-- Does the resume table move more than 8 MiB out of a logical cove, or more than 256 MiB in all (R373)? -/
def Program.resumeLong (p : Program) (shape : Nat) : Bool :=
  let rs := p.resume shape
  decide (268435456 < (rs.map fun i => i.2.2.2).sum)
    || rs.any fun i => decide (8388608 < ((rs.filter fun j => j.2.1 == i.2.1).map fun j => j.2.2.2).sum)

/-- SHAPE_SWITCH (R373, R375): once every earlier step has committed; `resumeBad` says that a byte of a resume item fails its parity as it is
read, beside those known to. -/
def execShapeSwitch (bay : Fin 16) (resumeBad : Bool) (s : State) : Out :=
  let b := bay.val
  let y := s.bay b
  match y.wantShape, y.program with
  | some k, some p =>
    let stop : State := (s.stopBay b 0xB051).modBay b fun y => { y with wantShape := none }
    let items := s.resumeItems p y.shape
    let s1 := ((s.loadShape b p k false).writeItems p k items).modBay b fun y =>
      { y with shape := k, shrunk := k != 0, wantShape := none }
    let s2 := if p.resumeLong y.shape then s1.logBay 0xB052 b else s1
    let s3 := { s2 with rot := { s2.rot with darkHome := s2.rot.darkHome.filter fun l _ => !y.has l } }
    occurs s (y.stopped.isNone && y.st.live.isEmpty && y.st.replay.isNone && !s.moveHeld b)
      (if (resumeBad && !items.isEmpty) || s.resumeFails p y.shape then stop else if k = 0 then s3 else s3.event b 2 0)
  | _, _ => .next s

/-! Registers (R376): only the module owner writes them. -/

/-- ROT_CTRL.INTERVAL_S. -/
def execRotIntervalWrite (who : Requester) (v : BitVec 16) (s : State) : Out :=
  occurs s (s.isOwner who) { s with rot := { s.rot with interval := v } }

/-- ROT_CTRL.PAUSE. -/
def execRotPause (who : Requester) (v : Bool) (s : State) : Out :=
  occurs s (s.isOwner who) { s with rot := { s.rot with pause := v } }

end Sys2Proof.Machine
end

