-- ==== Sys2Proof/Machine/Image.lean ====
section
/-!
DEFINITION. The non-volatile devices (17_plotoard_image_and_startup.md R418 to R432; 19_identity_and_attestation.md R463 to R473): the
image slots and their checks, certificates, owner records, the variant record, the repair journal. Every reader is a function of the
devices' bytes.
-/

namespace Sys2Proof.Machine

/-! Devices (Table 17.1). -/

/-- Key of a device byte in `Image.dev`. -/
def devKey (d off : Nat) : Nat := d * 0x40000000 + off

/-- Bytes of a device. -/
def State.devBytes (s : State) (d off n : Nat) : List Byte := memBytes s.img.dev (devKey d off) n

/-- Bytes written to a device. -/
def State.putDev (s : State) (d off : Nat) (bs : List Byte) : State :=
  { s with img := { s.img with dev := memSetBytes s.img.dev (devKey d off) bs } }

def slotStart : Nat := 0x800000
def slotBytes : Nat := 0x3F800000
def journalStart : Nat := 0x20000
def journalBytes : Nat := 0x3E0000
def logStart : Nat := 0x400000

/-- Is a range as the devices leave the factory or an erase: all 0xFF, or, in this model's memory, all 0? -/
def blank (bs : List Byte) : Bool := (bs.all fun b => b == 0) || bs.all fun b => b == 0xFF

/-! CBOR and COSE as certificates use them (R466). -/

/-- A data item of a certificate. -/
inductive CborItem where
  | num (n : Nat)
  | bytes (bs : List Byte)
  | text (bs : List Byte)
  deriving DecidableEq, Repr

/-- Head of a data item: major type, argument, the rest. -/
def cborReadHead : List Byte → Option (Nat × Nat × List Byte)
  | [] => none
  | b :: t =>
    let major := b.toNat / 32
    let a := b.toNat % 32
    let wide (n : Nat) : Option (Nat × Nat × List Byte) := if t.length < n then none else some (major, beNat (t.take n), t.drop n)
    if a < 24 then some (major, a, t)
    else if a = 24 then wide 1 else if a = 25 then wide 2 else if a = 26 then wide 4 else if a = 27 then wide 8 else none

/-- A number, byte string or text string. -/
def cborReadItem (bs : List Byte) : Option (CborItem × List Byte) :=
  match cborReadHead bs with
  | some (0, n, t) => some (.num n, t)
  | some (2, n, t) => if t.length < n then none else some (.bytes (t.take n), t.drop n)
  | some (3, n, t) => if t.length < n then none else some (.text (t.take n), t.drop n)
  | _ => none

/-- `n` pairs of a map with unsigned keys. -/
def cborReadPairs : Nat → List Byte → Option (List (Nat × CborItem) × List Byte)
  | 0, bs => some ([], bs)
  | n + 1, bs =>
    match cborReadHead bs with
    | some (0, k, t) => (cborReadItem t).bind fun r => (cborReadPairs n r.2).map fun q => ((k, r.1) :: q.1, q.2)
    | _ => none

/-- A map with unsigned keys, no longer than the certificates' maps. -/
def cborReadMap (bs : List Byte) : Option (List (Nat × CborItem) × List Byte) :=
  match cborReadHead bs with
  | some (5, n, t) => if n ≤ 6 then cborReadPairs n t else none
  | _ => none

/-- A certificate: the kid of its signer, its payload's bytes and map, its signature. -/
structure Cert where
  kid : List Byte
  payload : List Byte
  fields : List (Nat × CborItem)
  sig : List Byte
  deriving DecidableEq, Repr

/-- Protected header of every COSE object here: the map of 1 to −8. -/
def coseProt : List Byte := cborMap [(cborUint 1, cborNeg 8)]

/-- A COSE_Sign1 with tag 18 and zero padding (R466). -/
def readCert (bs : List Byte) : Option Cert :=
  let head := cborHead 6 18 ++ cborHead 4 4 ++ cborBytes coseProt
  if bs.take head.length != head then none
  else
    match cborReadMap (bs.drop head.length) with
    | some ([(4, .bytes kid)], t) =>
      match cborReadItem t with
      | some (.bytes payload, u) =>
        match cborReadItem u, cborReadMap payload with
        | some (.bytes sig, pad), some (m, []) => if pad.all (fun b => b == 0) then some ⟨kid, payload, m, sig⟩ else none
        | _, _ => none
      | _ => none
    | _ => none

/-- The certificate's field of a key. -/
def Cert.field (c : Cert) (k : Nat) : Option CborItem := (c.fields.find? fun p => p.1 == k).map Prod.snd

/-- The certificate's byte string of a key. -/
def Cert.bytesOf (c : Cert) (k : Nat) : List Byte :=
  match c.field k with
  | some (.bytes bs) => bs
  | _ => []

/-- Is the certificate's signature the key's, over the Sig_structure with the empty context (R468)? -/
def Cert.signedBy (c : Cert) (key : List Byte) : Bool :=
  c.kid == keyId key
    && Config.ed448Verify key [] (cborArray [cborText "Signature1", cborBytes coseProt, cborBytes [], cborBytes c.payload]) c.sig

/-- Fields of Table 19.2 that both certificates have, for a usage. -/
def Cert.wellFormed (c : Cert) (usage : Nat) : Bool :=
  c.field 1 == some (.num 1) && (c.bytesOf 2).length == 57 && (c.bytesOf 3).length == 16
    && (match c.field 5 with | some (.num _) => true | _ => false) && c.field 6 == some (.num usage)

/-- The two Yadriner root keys. -/
def rootList : List (List Byte) := [Config.rootKeys.1, Config.rootKeys.2]

/-- The pair of certificates that device `d` holds, if both verify and the identity certificate names the derived key (R467):
identity, intermediate. -/
def State.certPair (s : State) (d : Nat) (pub : List Byte) : Option (Cert × Cert) :=
  match readCert (s.devBytes d 0 1024), readCert (s.devBytes d 1024 1024) with
  | some c, some i =>
    if i.wellFormed 2 && (i.field 4).isNone && rootList.any i.signedBy
        && c.wellFormed 1 && c.field 4 == some (.text (asciiBytes "E812")) && c.signedBy (i.bytesOf 2) && c.bytesOf 2 == pub
    then some (c, i) else none
  | _, _ => none

/-- The certificates in force: device 0's, else device 1's. -/
def State.certs (s : State) (pub : List Byte) : Option (Cert × Cert) :=
  match s.certPair 0 pub with
  | some p => some p
  | none => s.certPair 1 pub

/-! Owner records (R471, R472). -/

/-- First 32 bytes of SHAKE256 of the identity public key. -/
def identHash (pub : List Byte) : BitVec 256 := digest32 pub

/-- An owner record signed by `key`. -/
def ownerSigned (bs key : List Byte) : Bool :=
  slice bs 20 8 == keyId key && Config.ed448Verify key (asciiBytes "E812-OWNER") (bs.take 128) (slice bs 128 114)

/-- The fields of an owner record, its signature apart. -/
def ownerFields (bs : List Byte) : OwnerRec :=
  { seq := fieldLe bs 4 8, floor := fieldLe bs 12 8, signer := BitVec.ofNat 64 (fieldLe bs 20 8), key := slice bs 28 57 }

/-- Is the record well formed and bound to this module? -/
def ownerForm (bs pub : List Byte) : Bool :=
  fieldLe bs 0 2 == 1 && zeroBytes bs 2 2 && decide (1 ≤ fieldLe bs 4 8) && zeroBytes bs 85 3 && zeroBytes bs 120 8
    && BitVec.ofNat 256 (fieldLe bs 88 32) == identHash pub

/-- Is a record valid, given the valid records of lower SEQ, highest first: signed by a root key, or by the key of the valid record with
the next lower SEQ? -/
def ownerValid (acc : List OwnerRec) (bs pub : List Byte) : Bool :=
  ownerForm bs pub
    && (rootList.any (ownerSigned bs) || match acc.find? fun o => decide (o.seq < fieldLe bs 4 8) with
      | some o => ownerSigned bs o.key
      | none => false)

/-- A record put among others in order of SEQ. -/
def putBySeq (bs : List Byte) : List (List Byte) → List (List Byte)
  | [] => [bs]
  | x :: t => if fieldLe bs 4 8 < fieldLe x 4 8 then bs :: x :: t else x :: putBySeq bs t

/-- The records of both owner areas, in order of SEQ. -/
def State.ownerSlots (s : State) : List (List Byte) :=
  ([0, 1].flatMap fun d => (List.range 256).map fun i => s.devBytes d (0x10000 + 256 * i) 256).foldl
    (fun (l : List (List Byte)) bs => if blank bs then l else putBySeq bs l) []

/-- The valid owner records, highest SEQ first. -/
def State.validOwners (s : State) (pub : List Byte) : List OwnerRec :=
  s.ownerSlots.foldl (fun (acc : List OwnerRec) bs => if ownerValid acc bs pub then ownerFields bs :: acc else acc) []

/-! The variant record (R431, Table 17.10). -/

/-- Device `d`'s copy, valid under an intermediate key. -/
def State.variantAt (s : State) (d : Nat) (inter pub : List Byte) : Option (List Byte) :=
  let bs := s.devBytes d 0x2800 162
  if fieldLe bs 0 2 == 1 && zeroBytes bs 10 6 && BitVec.ofNat 256 (fieldLe bs 16 32) == identHash pub
      && Config.ed448Verify inter (asciiBytes "E812-VARIANT") (bs.take 48) (slice bs 48 114)
  then some bs else none

/-! Image slots (R420, R421). -/

/-- What a valid slot gives. -/
structure SlotImage where
  version : Nat
  measure : BitVec 256
  module : ModuleRec
  keys : List (List Byte)
  ports : List (List Byte)
  bays : List BayRecord
  standby : List Byte
  tests : List Byte
  cargo : Option (Nat × Nat)
  cargoDigest : BitVec 256
  deriving DecidableEq, Repr

/-- A verdict on a slot's content: its code, and whether a cap of 0 was found (0x3010). -/
abbrev Verdict (α : Type) := Except (Code × Bool) α

/-- A directory entry: type, offset, length, digest. -/
structure DirEntry where
  kind : Nat
  off : Nat
  len : Nat
  digest : BitVec 256
  clean : Bool
  deriving DecidableEq, Repr

def dirEntry (e : List Byte) : DirEntry :=
  { kind := fieldLe e 0 1, off := fieldLe e 8 8, len := fieldLe e 16 8, digest := BitVec.ofNat 256 (fieldLe e 24 32)
    clean := zeroBytes e 1 7 && zeroBytes e 56 8 }

/-- MODULE (R423). -/
def parseModule (bs : List Byte) : Verdict ModuleRec :=
  let q := fieldLe bs 2 2
  let cap := fieldLe bs 4 2
  if bs.length != 16 || fieldLe bs 0 2 != 1 || !(q == 0 || decide (50 ≤ q ∧ q ≤ 1000)) then .error (0xD013, false)
  else if cap = 0 then .error (0xD013, true)
  else if !zeroBytes bs 14 2 then .error (0xD013, false)
  else .ok { quantum := if q = 0 then 200 else q, capW := cap, rotInterval := BitVec.ofNat 16 (fieldLe bs 6 2), ownerKey := fieldLe bs 8 2
             slackUs := BitVec.ofNat 16 (fieldLe bs 10 2), ebbMs := BitVec.ofNat 16 (fieldLe bs 12 2) }

/-- KEYS (R424): absent keys are all zero. -/
def parseKeys (bs : List Byte) : Verdict (List (List Byte)) :=
  let n := fieldLe bs 0 2
  if n ≤ 288 && bs.length == 16 + 64 * n && zeroBytes bs 2 14 && (List.range n).all fun i => zeroBytes bs (16 + 64 * i + 57) 7
  then .ok ((List.range n).map fun i => slice bs (16 + 64 * i) 57) else .error (0xD013, false)

/-- A port record's fields pass R425. -/
def portOk (p : List Byte) : Bool :=
  decide (fieldLe p 0 1 < 16 ∧ fieldLe p 1 1 < 8 ∧ fieldLe p 2 2 < 0x8000) && zeroBytes p 50 14
    && (fieldLe p 0 1 % 2 == 0 || (!zeroBytes p 4 6 && !(zeroBytes p 12 4 && zeroBytes p 16 16)))

/-- PORTS (R425). -/
def parsePorts (bs : List Byte) : Verdict (List (List Byte)) :=
  let a := bs.take 64
  let b := bs.drop 64
  if bs.length == 128 && portOk a && portOk b && (fieldLe a 0 1 % 2 == 1 || fieldLe b 0 1 % 2 == 1) then .ok [a, b]
  else .error (0xD013, false)

/-- The extents of a bay record, each with the bay-relative byte at which it starts; `none` where one breaks R252. -/
def parseExtents : Nat → List Byte → Nat → Option (List Extent)
  | 0, _, _ => some []
  | n + 1, bs, base =>
    let f := fieldLe bs 0 4
    let c := fieldLe bs 4 4
    let ok := f < 2 ^ 17 && c < 2 ^ 17 && (c == 0 || decide (f < 98304 ∧ f % 12288 + c ≤ 12032))
    if ok then (parseExtents n (bs.drop 8) (base + c * pageBytes)).map fun t => ⟨f / 12288, f % 12288, c, base⟩ :: t else none

/-- A bay record of 192 + 8 × EXTENT_COUNT bytes, with its caps judged (R426, Table 17.7). -/
def parseBay (bs : List Byte) (keys : List (List Byte)) : Verdict BayRecord :=
  let keyOk (i : Nat) : Bool := i == 0xFFFF || match nth keys i with
    | some k => !(k.all fun b => b == 0)
    | none => false
  let users := (List.range 16).map fun i => fieldLe bs (42 + 2 * i) 2
  match parseExtents (fieldLe bs 10 2) (bs.drop 192) 0 with
  | none => .error (0xD014, false)
  | some ext =>
    let r : BayRecord :=
      { bay := fieldLe bs 0 1, level := fieldLe bs 1 1, queueDepth := if fieldLe bs 2 1 = 0 then 8 else fieldLe bs 2 1
        berthQuota := fieldLe bs 3 1, minShare := fieldLe bs 4 2, capW := fieldLe bs 6 2, granQuota := fieldLe bs 8 2
        holdQuota := fieldLe bs 12 4, seed := BitVec.ofNat 64 (fieldLe bs 16 8), uwinBase := fieldLe bs 24 8, uwinLen := fieldLe bs 32 8
        ownerKey := fieldLe bs 40 2, userKeys := users
        coves := (List.range 720).filter fun l => ((bs.drop (80 + l / 8)).headD 0).getLsbD (l % 8), extents := ext }
    if r.capW = 0 then .error (0xD014, true)
    else if r.bay < 16 && decide (r.level ≤ 4) && decide (r.queueDepth ≤ 32) && zeroBytes bs 74 6 && zeroBytes bs 170 22
        && (r.uwinLen == 0 || decide (r.uwinBase + r.uwinLen ≤ r.hbmBytes)) && keyOk r.ownerKey && users.all keyOk
    then .ok r else .error (0xD014, false)

/-- Bay records back to back; `n` bounds their number. -/
def parseBayList : Nat → List Byte → List (List Byte) → Verdict (List BayRecord)
  | 0, _, _ => .ok []
  | n + 1, bs, keys =>
    if bs.isEmpty then .ok []
    else
      let k := fieldLe bs 10 2
      let len := 192 + 8 * k
      if bs.length < len ∨ 64 < k then .error (0xD014, false)
      else
        match parseBay (bs.take len) keys with
        | .error e => .error e
        | .ok r =>
          match parseBayList n (bs.drop len) keys with
          | .error e => .error e
          | .ok t => .ok (r :: t)

/-- Do two extents share a page? -/
def Extent.meets (a b : Extent) : Bool :=
  a.stack == b.stack && a.pages != 0 && b.pages != 0 && decide (a.page < b.page + b.pages ∧ b.page < a.page + a.pages)

/-- No element of the list is related to a later one. -/
def noPair {α : Type} (p : α → α → Bool) : List α → Bool
  | [] => true
  | x :: t => (t.all fun y => !p x y) && noPair p t

/-- BAYS (R426, R427). -/
def parseBays (bs : List Byte) (keys : List (List Byte)) : Verdict (List BayRecord) :=
  match parseBayList 17 bs keys with
  | .error e => .error e
  | .ok l =>
    let clash (a b : BayRecord) : Bool := a.bay == b.bay || a.coves.any fun c => b.coves.contains c
    let sum (f : BayRecord → Nat) : Nat := (l.map f).sum
    if l.length ≤ 16 && noPair clash l && noPair Extent.meets (l.flatMap BayRecord.extents)
        && decide (sum BayRecord.granQuota ≤ 6144 ∧ sum BayRecord.berthQuota ≤ 64 ∧ sum BayRecord.minShare ≤ 256
          ∧ sum BayRecord.holdQuota ≤ 65536)
    then .ok l else .error (0xD014, false)

/-- FIRMWARE (R428): the standby image and the test programs. -/
def parseFirmware (bs : List Byte) : Verdict (List Byte × List Byte) :=
  let a := fieldLe bs 0 4
  let b := fieldLe bs 4 4
  if a % 4 == 0 && decide (a ≤ 16384 ∧ b ≤ 1048576) && zeroBytes bs 8 8 && bs.length == 16 + a + b
  then .ok (slice bs 16 a, bs.drop (16 + a)) else .error (0xD013, false)

/-- Bytes of a section of slot `i`, if they lie in the slot. -/
def State.section (s : State) (i : Nat) (e : DirEntry) : Option (List Byte) :=
  if e.off + e.len ≤ slotBytes then some (s.devBytes i (slotStart + e.off) e.len) else none

/-- The key that signs slots under an identifier: the effective owner's, or without one a Yadriner root key (R472). -/
def slotKey (owner : Option OwnerRec) (kid : List Byte) : Option (List Byte) :=
  match owner with
  | some o => if keyId o.key = kid then some o.key else none
  | none => rootList.find? fun k => keyId k == kid

/-- The five required sections, in the order of their types. -/
def readSections (mod keys ports bays fw : List Byte) (ver : Nat) (measure : BitVec 256) (cargo : Option DirEntry) : Verdict SlotImage := do
  let m ← parseModule mod
  let k ← parseKeys keys
  let p ← parsePorts ports
  let b ← parseBays bays k
  let f ← parseFirmware fw
  return { version := ver, measure := measure, module := m, keys := k, ports := p, bays := b, standby := f.1, tests := f.2
           cargo := cargo.map fun e => (e.off, e.len)
           cargoDigest := match cargo with
             | some e => e.digest
             | none => 0 }

/-- The checks of R421 on slot `i`, in order. -/
def State.checkSlot (s : State) (i : Nat) (owner : Option OwnerRec) (floor : Nat) : Verdict SlotImage :=
  let head := s.devBytes i slotStart 64
  let n := fieldLe head 10 2
  let hlen := 64 + 64 * n + 114
  if head.take 8 != asciiBytes "PLOTOARD" || fieldLe head 8 2 != 1 || decide (32 < n) || fieldLe head 12 4 != hlen
      || decide (fieldLe head 24 8 < 64 + 64 * n) then .error (0xD010, false)
  else
    let all := s.devBytes i slotStart hlen
    let body := all.take (64 + 64 * n)
    let signed := match slotKey owner (slice head 32 8) with
      | some k => Config.ed448Verify k (asciiBytes "E812-IMAGE") body (all.drop (64 + 64 * n))
      | none => false
    let dir := (List.range n).map fun j => dirEntry (slice all (64 + 64 * j) 64)
    let one (k : Nat) : Bool := (dir.filter fun e => e.kind == k).length == 1
    let staged := dir.filter fun e => e.kind != 6
    if !signed then .error (0xD011, false)
    else if fieldLe head 16 8 < floor then .error (0xD015, false)
    else if !zeroBytes head 40 24 || !(dir.all fun e => e.clean && decide (1 ≤ e.kind ∧ e.kind ≤ 6)) || !([1, 2, 3, 4, 5].all one)
        || decide (1 < (dir.filter fun e => e.kind == 6).length) then .error (0xD013, false)
    else if !(staged.all fun e => match s.section i e with | some bs => digest32 bs == e.digest | none => false) then .error (0xD012, false)
    else if 8388608 < (staged.map DirEntry.len).sum then .error (0xD013, false)
    else
      let sec (k : Nat) : List Byte := ((dir.find? fun e => e.kind == k).bind (s.section i)).getD []
      readSections (sec 1) (sec 2) (sec 3) (sec 4) (sec 5) (fieldLe head 16 8) (digest32 all) (dir.find? fun e => e.kind == 6)

/-! The repair journal (R432, Table 17.11). -/

/-- Header of a journal entry. -/
def JEntry.head (e : JEntry) : List Byte :=
  leBytes 1 e.kind ++ leBytes 1 0 ++ leBytes 2 e.body.length ++ leBytes 8 e.seq ++ leBytes 4 0

/-- A journal entry as it stands on a device, signed with the identity key. -/
def JEntry.bytes (e : JEntry) : List Byte :=
  let signed := e.head ++ e.body
  signed ++ leBytes 114 (Config.identitySign (asciiBytes "E812-JOURNAL") signed).toNat

/-- The entries of a journal from offset `off` on, each with whether its signature verifies, and where it ends; entries follow one another
without gaps. `n` bounds their number. -/
def readJournal (m : Memory) (d : Nat) (pub : List Byte) : Nat → Nat → List (JEntry × Bool) × Nat
  | 0, off => ([], off)
  | n + 1, off =>
    let a := devKey d (journalStart + off)
    let kind := memLe m a 1
    let len := memLe m (a + 2) 2
    if kind = 0 ∨ 6 < kind ∨ journalBytes < off + 130 + len then ([], off)
    else
      let signed := memBytes m a (16 + len)
      let e : JEntry := ⟨kind, memLe m (a + 4) 8, signed.drop 16⟩
      let ok := Config.ed448Verify pub (asciiBytes "E812-JOURNAL") signed (memBytes m (a + 16 + len) 114)
      let r := readJournal m d pub n (off + 130 + len)
      ((e, ok) :: r.1, r.2)

/-- A device's journal. -/
def State.journalOn (s : State) (d : Nat) : List (JEntry × Bool) × Nat :=
  readJournal s.img.dev d s.ident.pub (journalBytes / 130) 0

/-- The highest SEQ of a list of entries. -/
def topSeq (l : List JEntry) : Nat := l.foldl (fun m e => max m e.seq) 0

/-- Valid entries of a journal. -/
def validEntries (l : List (JEntry × Bool)) : List JEntry := (l.filter Prod.snd).map Prod.fst

/-- The newest entry of an item. -/
def newestOf (l : List JEntry) (item : Nat × Nat) : Option JEntry := (winners l).find? fun e => e.item == item

/-- Bytes in use of the longer journal, as KiB rounded up. -/
def State.journalUsed (s : State) : BitVec 12 := BitVec.ofNat 12 ((max (s.journalOn 0).2 (s.journalOn 1).2 + 1023) / 1024)

/-- An entry goes to the end of a device's journal, if it fits. -/
def State.appendTo (s : State) (d : Nat) (e : JEntry) : State :=
  let off := (s.journalOn d).2
  if off + e.bytes.length ≤ journalBytes then s.putDev d (journalStart + off) e.bytes else s

/-- JOURNAL_WRITE: the oldest entry that waits goes to both devices. -/
def execJournalWrite (s : State) : Out :=
  match s.su.jTodo with
  | [] => .next s
  | e :: rest =>
    let s1 := (s.appendTo 0 e).appendTo 1 e
    occurs s s.pins.aux { s1 with su := { s1.su with jTodo := rest, jUsed := s1.journalUsed } }

/-- A device's journal is erased and written anew. -/
def State.rewriteJournal (s : State) (d : Nat) (l : List JEntry) : State :=
  let lo := devKey d journalStart
  let s1 := { s with img := { s.img with dev := s.img.dev.filter fun a _ => !(lo ≤ a && decide (a < lo + journalBytes)) } }
  s1.putDev d journalStart (l.flatMap JEntry.bytes)

/-- The current state as snapshot entries with new numbers, TALUS_FREE entries and the TALUS entries that they end left out;
a TALUS entry whose spare row has failed stays, so that the spare is never reused (R268). -/
def State.snapshot (s : State) : List JEntry :=
  let done := s.su.journal
  let held (m : TalusRecord) (e : JEntry) : Bool :=
    let t := e.talus
    (m.map ++ m.soft).any fun x => x.pc == t.pc && x.bank == t.bank && x.row == t.row
  let keep := done.filter fun e =>
    let m := talusOf done (fieldLe e.body 0 1)
    if e.kind = 4 then (winners done).contains e && held m e || m.aboutFailed e
    else if e.kind = 5 then m.aboutFailed e
    else (winners done).contains e
  (keep.zip (List.range keep.length)).map fun p => { p.1 with seq := s.su.jNext + p.2 }

/-- JOURNAL_COMPACTION: from 75 % on, with no entry waiting, device 1 is rewritten with snapshot entries, then, by the next command,
device 0. -/
def execJournalCompaction (s : State) : Out :=
  if s.su.compacting then
    let s1 := s.rewriteJournal 0 (s.su.journal.filter fun e => !s.su.jTodo.contains e)
    occurs s s.pins.aux { s1 with su := { s1.su with compacting := false, jUsed := s1.journalUsed } }
  else
    let l := s.snapshot
    let s1 := s.rewriteJournal 1 l
    occurs s (s.pins.aux && s.su.jTodo.isEmpty && decide (4 * (max (s.journalOn 0).2 (s.journalOn 1).2) ≥ 3 * journalBytes))
      { s1 with su := { s1.su with compacting := true, journal := l, jNext := s.su.jNext + l.length } }

end Sys2Proof.Machine
end

