-- ==== Sys2Proof/Machine/Ethernet.lean ====
section
/-!
DEFINITION. Ports, frames and time (11_ethernet_ports.md R274 to R281, R289 to R293, R298 to R302).
-/

namespace Sys2Proof.Machine

/-! Training (R274 to R279). -/

/-- The lanes that attempt 1, 2 or 3 trains, and its width code (Table 11.1). -/
def attemptLanes (n : Nat) : List Nat := if n = 1 then [0, 1, 2, 3] else if n = 2 then [0, 1] else [0]

/-- Lane results after an attempt: the tested lanes passed or failed; all that pass are in use once the attempt succeeds. -/
def laneResults (old : List (BitVec 2)) (tested : List Nat) (passed : BitVec 4) : List (BitVec 2) :=
  let ok := tested.all fun l => passed.getLsbD l
  (List.range 4).map fun l =>
    if tested.contains l then (if !passed.getLsbD l then 3 else if ok then 1 else 2) else old.getD l 0

/-- PORT_TRAIN_ATTEMPT (R275, R276, Table 11.2): `lanes` are the lanes that pass the attempt in progress, none of which does before
its qualification window of 100 ms is over or after the attempt's 2.5 s. -/
def execPortTrainAttempt (port : Fin 2) (lanes : BitVec 4) (s : State) : Out :=
  let p := port.val
  let x := s.port p
  let n := x.attempt
  let tested := attemptLanes n
  let timely := decide (x.attAt + 100000000 ≤ s.clk.elapsed ∧ s.clk.elapsed ≤ x.attAt + 2500000000)
  let passed := if timely then lanes else 0
  let ok := tested.all fun l => passed.getLsbD l
  let s1 := s.modPort p fun x => { x with lanes := laneResults x.lanes tested passed }
  occurs s (x.training && s.linksOn && (s.pll (14 + p)).state == .stable)
    (if ok then
      let up := (s1.modPort p fun x =>
        { x with width := BitVec.ofNat 3 (4 - n), training := false, attempt := 0, reduced := n != 1 }).modPortQ p fun q =>
          { q with ptp := { q.ptp with state := 1 } }
      if n = 1 then up else up.portEvent p 0x9002
     else if n < 3 then s1.modPort p fun x => { x with attempt := n + 1, attAt := s.clk.elapsed }
     else (s1.modPort p fun x => { x with training := false, attempt := 0 }).portEvent p 0x9001)

/-- PORT_RETRY_TIMER (R277): a port that is down trains again 10 s after its last sequence began. -/
def execPortRetryTimer (port : Fin 2) (s : State) : Out :=
  let x := s.port port
  occurs s (!x.up && !x.training && x.enabled && !x.disabled && s.linksOn
      && decide (x.trainAt + 10000000000 ≤ s.clk.elapsed))
    (s.beginTraining port)

/-- PCS_ALIGNMENT_LOSS (R279). -/
def execPcsAlignmentLoss (port : Fin 2) (s : State) : Out :=
  occurs s (s.port port).up ((s.linkLost port).portEvent port 0x9003)

/-- FEC_DEGRADATION (R279): a window of 1 s with more than 16 uncorrectable codewords; how many more is open. The port retrains
after a departure notice, at most once in 10 minutes. -/
def execFecDegradation (port : Fin 2) (s : State) : Out :=
  let p := port.val
  let s1 := (s.spend 1).ethCount p 4 (17 + s.freeNat)
  let again := (s.port p).lastRetrain.any fun t => decide (s.clk.elapsed < t + 600000000000)
  occurs s (s.port p).up
    (if again then s1
     else ((s1.portEvent p 0x9004).modPort p fun x => { x with lastRetrain := some s.clk.elapsed }).depart [p] 0x9031 true)

/-- ETH_CTRL.RETRAIN (R278, R300): only the module owner writes it. -/
def execEthRetrain (who : Requester) (port : Fin 2) (s : State) : Out :=
  let x := s.port port
  occurs s (s.isOwner who)
    (if x.up then s.depart [port.val] 0x9031 true
     else if x.training || x.disabled || !s.linksOn then s else s.beginTraining port)

/-- ETH_CTRL.DISABLE (R300). -/
def execEthDisable (who : Requester) (port : Fin 2) (v : Bool) (s : State) : Out :=
  let p := port.val
  let s1 := s.modPort p fun x => { x with disabled := v, enabled := x.enabled || !v }
  occurs s (s.isOwner who)
    (if v then
      (if (s.port p).up then s1.depart [p] 0x9032 false
       else s1.modPort p fun x => { x with training := false, attempt := 0 })
     else if (s.port p).up || (s.port p).training || !s.linksOn then s1
     else s1.beginTraining p)

/-- LINK_DOWN_AT (R299, R300): the link drops; a retrain follows where the departure announced one, a module reset once both links are
down (R419). -/
def execLinkDownAt (port : Fin 2) (s : State) : Out :=
  let p := port.val
  match (s.portQ p).departing with
  | none => .next s
  | some d =>
    let s1 := s.linkDown p
    occurs s (decide (d.downAt ≤ s.mt.ns))
      (if s.jetty.resetting then s1.resetIfDown
       else if d.retrain && !(s.port p).disabled && s.linksOn then s1.beginTraining p else s1)

/-! Frames (R280, R281, R289). -/

/-- A received frame counts; one that is not accepted is dropped and counted (R280). -/
def State.receiveFrame (s : State) (p : Nat) (good : Bool) (f : State → State) : Out :=
  let s1 := s.ethCount p 0 1
  occurs s (s.port p).up (if good then f s1 else s1.ethCount p 2 1)

/-- ARP_REQUEST. -/
def execArpRequest (port : Fin 2) (f : FrameHdr) (senderIp target : BitVec 32) (s : State) : Out :=
  let x := s.port port
  s.receiveFrame port (x.accepts f true && x.ip4 != 0 && target == x.ip4) fun s => s.transmit port (.arp f.srcMac senderIp)

/-- NEIGHBOR_SOLICITATION. -/
def execNeighborSolicitation (port : Fin 2) (f : FrameHdr) (senderIp target : BitVec 128) (s : State) : Out :=
  let x := s.port port
  s.receiveFrame port (x.accepts f true && x.ip6 != 0 && target == x.ip6) fun s =>
    s.transmit port (.neighbor f.srcMac senderIp)

/-- ICMP_ECHO_REQUEST: the echo goes back with its body; the module asks for no address itself (R281). -/
def execIcmpEchoRequest (port : Fin 2) (f : FrameHdr) (ipv6 : Bool) (senderIp dst : BitVec 128) (body : List (BitVec 8))
    (s : State) : Out :=
  let x := s.port port
  let mine := if ipv6 then x.ip6 != 0 && dst == x.ip6 else x.ip4 != 0 && dst == x.ip4.setWidth 128
  s.receiveFrame port (x.accepts f false && mine) fun s => s.transmit port (.echo f.srcMac senderIp body)

/-- FRAME_DROP: a frame of no accepted kind, or damaged. -/
def execFrameDrop (port : Fin 2) (_f : FrameHdr) (s : State) : Out := s.receiveFrame port false id

/-- PFC_PAUSE_FRAME (R289): obeyed for the port's one priority for its quanta of 512 bit times; every other one is counted. A port without
flow control accepts no such frame (R280). -/
def execPfcPauseFrame (port : Fin 2) (prio : Fin 8) (quanta : BitVec 16) (s : State) : Out :=
  let p := port.val
  let x := s.port p
  let gbps := 50 * 2 ^ x.width.toNat
  s.receiveFrame p true fun s =>
    if !x.pfcEn then s.ethCount p 2 1
    else if prio.val = x.pfcPrio then
      s.modPort p fun x => { x with pausedTill := s.clk.elapsed + quanta.toNat * 512 / gbps }
    else s.ethCount p 10 1

/-! Time (R290 to R293). -/

/-- The frequency correction as MT_FREQ shows it. -/
def freqWord (f : Int) : Word := BitVec.ofInt 32 f

/-- Nanoseconds as a saturating signed word (Table 11.14). -/
def satWord (x : Int) : Word :=
  BitVec.ofInt 32 (if x < -2147483648 then -2147483648 else if 2147483647 < x then 2147483647 else x)

/-- Module time takes its correction from a port that has reached SLAVE (Table 11.6). `offset` is module time less the master's. -/
def State.lockTime (s : State) (p : Nat) (offset freq : Int) : State :=
  let set (t : State) : State := { t with mt := { t.mt with state := 1, master := some p, freq := freqWord freq } }
  let slew (t : State) : State := { t with mt := { t.mt with slew := -offset } }
  if s.mt.state = 0 then ((set s).stepTime (-offset)).portEvent p 0x9021
  else if s.mt.state = 2 then
    if offset.natAbs ≤ 1000000 then slew (set s) else ((set s).stepTime (-offset)).portEvent p 0x9021
  else slew (set s)

/-- The port whose master is better; port 0 wins a tie (R292). -/
def bestPort (a b : Option Nat) : Option Nat :=
  match a, b with
  | some x, some y => if y < x then some 1 else some 0
  | some _, none => some 0
  | none, some _ => some 1
  | none, none => none

/-- Quality of the master of a port that is SLAVE or standby. -/
def State.masterOf (s : State) (p : Nat) : Option Nat :=
  let t := (s.portQ p).ptp
  if 3#3 ≤ t.state then t.quality else none

/-- PTP_MESSAGE (R292, Table 11.6): a Sync draws the delay request of the delay request-response mechanism, to where it came from (log
entry 204). -/
def execPtpMessage (port : Fin 2) (m : PtpMsg) (s : State) : Out :=
  let p := port.val
  s.receiveFrame p ((s.port p).accepts m.hdr true) fun s =>
    if m.domain != (s.portQ p).ptp.domain then s
    else
      let s0 := if m.sync then s.transmit p (.delayReq m.hdr.srcMac m.domain) else s
      let s1 := s0.modPortQ p fun q =>
        { q with ptp := { q.ptp with
            state := if m.slave then 3 else 2, quality := some m.quality, offset := satWord m.offset
            delay := BitVec.ofNat 32 (min m.delay 0xFFFFFFFF)
            lastSync := if m.sync then some s.clk.elapsed else q.ptp.lastSync } }
      let best := bestPort (s1.masterOf 0) (s1.masterOf 1)
      let s2 := [0, 1].foldl (fun t k => t.modPortQ k fun q =>
        if 3#3 ≤ q.ptp.state then { q with ptp := { q.ptp with state := if best = some k then 3 else 4 } } else q) s1
      if m.slave ∧ best = some p then s2.lockTime p m.offset m.freq
      else { s2 with mt := { s2.mt with master := if s2.mt.state = 1 ∧ best.isSome then best else s2.mt.master } }

/-- TIME_HOLDOVER (Table 11.6): no Sync of the active master for three announce intervals; the other port takes over without a step if
it has a master, else module time holds over. -/
def execTimeHoldover (s : State) : Out :=
  match s.mt.master with
  | none => .next s
  | some p =>
    let s1 := s.modPortQ p fun q => { q with ptp := { q.ptp with state := if (s.port p).up then 1 else 0, quality := none } }
    let other := 1 - p
    let silent := (s.portQ p).ptp.lastSync.all fun t => decide (t + 3 * Config.announceNs (s.portQ p).ptp.domain ≤ s.clk.elapsed)
    let spare := (s.masterOf other).isSome
    occurs s (s.mt.state == 1 && (silent || (spare && (s.portQ p).ptp.state == 0)))
      (if spare then
        { (s1.modPortQ other fun q => { q with ptp := { q.ptp with state := 3 } }) with mt := { s1.mt with master := some other } }
       else { s1 with mt := { s1.mt with state := 2, master := none, slew := 0 } }.portEvent p 0x9020)

/-- Address of MT_NS_LO (R481, Table 11.13). -/
def mtNsLo : Nat := 0xF00000000604

/-- MT_NS_LO_READ (R58, R302): every session may. -/
def execMtNsLoRead (who : Requester) (s : State) : Out :=
  occurs s (s.anySession who) (s.latch who (BitVec.ofNat 48 mtNsLo) (BitVec.ofNat 32 (s.mt.ns / 2 ^ 32)))

/-! Heartbeats (R298, R299). -/

/-- The HEARTBEAT body of Table 11.8 for a session. -/
def State.beatBody (s : State) (k : Nat) : List Byte :=
  let y := s.bay (k / 16)
  let x := s.sess k
  let b (p : Bool) (n : Nat) : Nat := if p then 2 ^ n else 0
  leBytes 1 ((s.port x.port).width.toNat % 4 + (s.port (1 - x.port)).width.toNat % 4 * 4)
    ++ leBytes 1 (b (s.mt.state == 2) 0 + b (s.mt.state == 0) 1 + b s.pwr.capUnmet 2
      + b (y.run.isSome || !y.berths.rows.isEmpty) 3 + b y.stopped.isSome 4
      + b (y.hang.resetting || y.hang.recovering) 5 + b y.shrunk 6 + b (!y.watch.isEmpty) 7)
    ++ leBytes 2 0 ++ leBytes 6 y.st.committed ++ leBytes 2 y.st.lbCode.toNat ++ leBytes 4 x.lastSeq

/-- The DEPARTURE body of Table 11.9. -/
def Departure.body (d : Departure) : List Byte :=
  leBytes 2 d.reason.toNat ++ leBytes 1 d.scope.toNat ++ leBytes 1 0 ++ leBytes 4 d.downMs ++ leBytes 8 d.downAt

/-- HEARTBEAT (R298, R299, R314): the next one of a session, at 8 µs from the last to within 0.5 µs; a departure notice takes its
place. -/
def execHeartbeat (bay slot : Fin 16) (s : State) : Out :=
  let k := bay.val * 16 + slot.val
  let x := s.sess k
  let s1 := s.modSess k fun x => { x with lastBeat := x.lastBeat + 8000 }
  occurs s ((x.state == .open_ || x.state == .orphaned) && decide (s.nextBeat k ≤ s.mt.ns + 500))
    (let sends := x.state == .open_ && (s.port x.port).up
     match (s.portQ x.port).departing with
     | some d => (s1.sendSess k 2 d.body).ethCount x.port 12 (if sends then 1 else 0)
     | none => (s1.sendSess k 1 (s.beatBody k)).ethCount x.port 11 (if sends then 1 else 0))

end Sys2Proof.Machine
end

