-- ==== Sys2Proof/Machine/Power.lean ====
section
/-!
DEFINITION. Supplies, operating points and power capping (16_power.md).
-/

namespace Sys2Proof.Machine

/-- A class 0x3 code is shown and logged. -/
def State.pwrError (s : State) (code : Code) : State := { s with pwr := { s.pwr with errCode := code } }.log code

/-! Input power (R395). -/

/-- Voltage and current of an input in its register's form. -/
def inputV (w : Word) : Nat := w.toNat % 65536
def inputI (w : Word) : Nat := w.toNat / 65536

/-- One sample of both inputs joins those of the last 2 ms and of the period. -/
def PowerMore.sample (x : PowerMore) (m a : Word) : PowerMore :=
  let p := inputV m * inputI m + inputV a * inputI a
  { x with
    mainVI := m, auxVI := a, samples := ((p, inputI m) :: x.samples).take 12500
    periodSum := x.periodSum + p, periodN := x.periodN + 1 }

/-- Sum of the latest `n` samples' powers, or of their currents. -/
def PowerMore.powers (x : PowerMore) (n : Nat) : Nat := ((x.samples.take n).map Prod.fst).sum
def PowerMore.currents (x : PowerMore) (n : Nat) : Nat := ((x.samples.take n).map Prod.snd).sum

/-- The fast average, the mean of the last 64 samples, in watts. -/
def PowerMore.fastW (x : PowerMore) : Nat := x.powers 64 / 640000

/-- The average of the period's samples, in watts. -/
def PowerMore.periodW (x : PowerMore) : Nat := x.periodSum / x.periodN / 10000

/-- Once an alignment frame both inputs are sampled: free values (log entry 47). -/
def State.sampleCycle (s : State) : State :=
  if alignPulse s.clk.now then
    let x := s.pwrx.sample s.freeWord (s.spend 1).freeWord
    { s with
      free := s.free + 2, pwrx := x
      pwr := { s.pwr with inFast := if 64 ≤ x.samples.length then BitVec.ofNat 16 x.fastW else s.pwr.inFast } }
  else s

/-! Predictions (R404). Watts, in thousandths where a factor is. -/

/-- Does a value in thousandths of a watt fit a cap: at most 95 % of it? -/
def fits (milliW cap : Nat) : Bool := decide (milliW ≤ 950 * cap)

/-- The half whose factor is the higher stands for the core rails' present point. -/
def State.coreFactor (s : State) : Nat := max (s.factorNow 0) (s.factorNow 1)

/-- Predicted power at operating point `op`, in thousandths. -/
def State.powerAt (s : State) (p core op : Nat) : Nat := (p - core) * 1000 + core * opFactor op * 1000 / s.coreFactor

/-- Predicted power at duty `d` eighths when `p` was measured at `now` eighths, above a floor, in thousandths. -/
def dutyPower (floor p now d : Nat) : Nat := floor * 1000 + (p - floor) * 1000 * d / now

/-- The largest duty, at most `d` eighths, whose prediction fits; none if not even 1/8 does. -/
def bestDuty (floor p now cap : Nat) : Nat → Option Nat
  | 0 => none
  | d + 1 => if fits (dutyPower floor p now (d + 1)) cap then some (d + 1) else bestDuty floor p now cap d

/-- The highest point, at most `op`, whose prediction fits; OP0 if none does. -/
def State.bestPoint (s : State) (p core cap : Nat) : Nat → Nat
  | 0 => 0
  | op + 1 => if fits (s.powerAt p core (op + 1)) cap && decide (opFactor (op + 1) ≤ s.coreFactor) then op + 1
      else s.bestPoint p core cap op

/-! The control period (R404 to R408). -/

/-- Points requested at a period's end: at most `lim` for both halves, within R401; a point rises by one at most, and only if it fits;
after a glide no point above the glided frequency's power is requested (R410). -/
def State.requestAt (s : State) (p core : Nat) (lim : Option Nat) : State :=
  let want (h : Nat) : Nat :=
    let cur := (s.half h).op
    let top := s.topPoint h
    match lim with
    | some l => min l (min cur top)
    | none =>
      if s.glided h then min top (s.bestPoint p core s.pwr.capW cur)
      else if cur < top ∧ fits (s.powerAt p core (cur + 1)) s.pwr.capW then cur + 1
      else min cur top
  s.requestPoints (want 0) (want 1)

/-- CAP_UNMET is raised (R407). -/
def State.raiseUnmet (s : State) : State :=
  (({ s with pwr := { s.pwr with capUnmet := true, below := 0 } }).pwrError 0x3021).eventAll 6 0x3021

/-- The period lay above 95 % of the cap: the first measure that fits is taken (R406). -/
def State.lowerPower (s : State) (p core : Nat) (refused : Bool) : State :=
  if 0 < (s.half 0).op ∨ 0 < (s.half 1).op then
    s.requestAt p core (some (s.bestPoint p core s.pwr.capW (max (s.half 0).op (s.half 1).op)))
  else
    let now := s.pwr.duty.toNat + 1
    let s1 := match bestDuty 180 p now s.pwr.capW now with
      | some d => { s with pwr := { s.pwr with duty := BitVec.ofNat 3 (d - 1) } }
      | none => { s with pwr := { s.pwr with duty := 0, refusing := true } }
    let n := if refused ∧ now = 1 ∧ s.pwr.capW < p then s.pwr.above + 1 else 0
    let s2 := { s1 with pwr := { s1.pwr with above := n } }
    (if 10 ≤ n ∧ !s2.pwr.capUnmet then s2.raiseUnmet else s2).requestAt p core (some 0)

/-- The period lay within 95 % of the cap: one measure is reversed (R406). -/
def State.raisePower (s : State) (p core : Nat) : State :=
  let s0 := { s with pwr := { s.pwr with above := 0 } }
  let now := s.pwr.duty.toNat + 1
  if s.pwr.capUnmet then s0.requestAt p core (some 9)
  else if s.pwr.refusing then ({ s0 with pwr := { s0.pwr with refusing := false } }).requestAt p core (some 9)
  else if now < 8 then
    (if fits (dutyPower 180 p now (now + 1)) s.pwr.capW then { s0 with pwr := { s0.pwr with duty := BitVec.ofNat 3 now } } else s0).requestAt
      p core (some 9)
  else s0.requestAt p core none

/-- CAP_UNMET clears after ten periods in a row at or below the cap (R407). -/
def State.clearUnmet (s : State) (p : Nat) : State :=
  let n := if p ≤ s.pwr.capW then s.pwr.below + 1 else 0
  let s1 := { s with pwr := { s.pwr with below := n } }
  if s.pwr.capUnmet ∧ 10 ≤ n then ({ s1 with pwr := { s1.pwr with capUnmet := false, below := 0 } }).eventAll 7 0 else s1

/-- The measures of a bay's own cap (R408). -/
def State.capBay (s : State) (b p idle : Nat) : State :=
  let w := (s.bay b).pwr
  let now := (w.dutyNext.getD w.duty).toNat + 1
  let s1 := s.modBay b fun y => { y with pwr := { y.pwr with meanW := p, idleW := idle } }
  let duty (d : Nat) (t : State) : State := t.modBay b fun y => { y with pwr := { y.pwr with dutyNext := some (BitVec.ofNat 3 (d - 1)) } }
  if w.capW = 0xFFFF ∨ p * 1000 ≤ 950 * w.capW then
    if w.exceeded then s1.modBay b fun y => { y with pwr := { y.pwr with exceeded := false } }
    else if now < 8 ∧ (w.capW = 0xFFFF ∨ fits (dutyPower idle p now (now + 1)) w.capW) then duty (now + 1) s1
    else s1
  else
    match bestDuty idle p now w.capW now with
    | some d => duty d s1
    | none =>
      let s2 := (duty 1 s1).modBay b fun y => { y with pwr := { y.pwr with exceeded := true } }
      if w.exceeded then s2 else { s2 with pwr := { s2.pwr with errCode := 0x3022 } }.logBay 0x3022 b

/-- Running tests are abandoned while the module refuses work or CAP_UNMET stands (R361). -/
def State.spareTests (s : State) : State := if s.pwr.refusing || s.pwr.capUnmet then s.abandonTests [0, 1, 2, 3] else s

/-- CONTROL_PERIOD (R404 to R408): a new module cap applies first; the period's average is the mean of its samples. -/
def execControlPeriod (m : PowerSample) (s : State) : Out :=
  let w := s.pwrx.periodW
  let s1 := { s with
    pwr := { s.pwr with capW := s.pwr.capNext.getD s.pwr.capW, capNext := none, inPeriod := BitVec.ofNat 16 w }
    pwrx := { s.pwrx with coreW := m.coreW, lastPeriod := s.clk.now, periodSum := 0, periodN := 0 } }
  let s2 := if 950 * s1.pwr.capW < w * 1000 then s1.lowerPower w m.coreW s.pwr.refusing else s1.raisePower w m.coreW
  let s3 := s2.clearUnmet w
  occurs s (s.pwrx.mainRegs && decide (s.pwrx.lastPeriod + 10000000 ≤ s.clk.now))
    ((List.range 16).foldl (fun t b => t.capBay b (m.bayW.getD b 0) (m.bayIdleW.getD b 0)) s3.spareTests)

/-! The emergency glide and parks (R410, R411). -/

/-- The limit that a cause exceeds: watts, units of 10 mA, or °C. -/
def State.glideLimit (s : State) : GlideCause → Nat
  | .fastPower => if s.su.peakW = 0 then s.su.contW else s.su.peakW
  | .meanPower => s.su.contW
  | .current => 5750
  | .temperature => 100

/-- Is the cause's limit exceeded: by the fast average, by the mean of the last 2 ms, by the fast average of the current at 56 V, or by the
field's junction temperature `celsius`? -/
def State.glideNeeded (s : State) (celsius : Nat) : GlideCause → Bool
  | .fastPower => decide (64 ≤ s.pwrx.samples.length) && decide (s.glideLimit .fastPower * 640000 < s.pwrx.powers 64)
  | .meanPower => decide (12500 ≤ s.pwrx.samples.length) && decide (s.glideLimit .meanPower * 125000000 < s.pwrx.powers 12500)
  | .current => decide (64 ≤ s.pwrx.samples.length) && decide (s.glideLimit .current * 64 < s.pwrx.currents 64)
  | .temperature => decide (s.glideLimit .temperature < celsius)

/-- EMERGENCY_GLIDE: dividers fall a count a frame until it stops (`tick`). -/
def execEmergencyGlide (cause : GlideCause) (sample : Nat) (s : State) : Out :=
  let s1 := { s with pwr := { s.pwr with glideCause := some cause, emerg := satAdd32 s.pwr.emerg 1 } }
  occurs s (s.pwrx.mainRegs && s.pwr.glideCause.isNone && s.glideNeeded sample cause) (s1.pwrError 0x3034)

/-- Does the latest sample lie below 95 % of the limit that started the glide, or the temperature below 97 °C? -/
def State.glideOver (s : State) (celsius : Nat) : GlideCause → Bool
  | .temperature => decide (celsius < 97)
  | .current => s.pwrx.samples.head?.any fun x => decide (x.2 * 100 < 95 * s.glideLimit .current)
  | c => s.pwrx.samples.head?.any fun x => decide (x.1 < 9500 * s.glideLimit c)

/-- EMERGENCY_GLIDE_STOP: at the first such frame. -/
def execEmergencyGlideStop (sample : Nat) (s : State) : Out :=
  match s.pwr.glideCause with
  | none => .next s
  | some c => occurs s (s.glideOver sample c) { s with pwr := { s.pwr with glideCause := none } }

/-- The telemetry blocks of a field's coves change (Table 1.2, log entry 144). -/
def State.modTelem (s : State) (field : Nat) (f : Telem → Telem) : State :=
  (fieldCoves field).foldl (fun t c => t.modCove c fun v => { v with telem := f v.telem }) s

/-- JUNCTION_OVERTEMP. -/
def execJunctionOvertemp (field : Fin 4) (celsius : Nat) (s : State) : Out :=
  let s1 := { s with pwrx := { s.pwrx with celsius := s.pwrx.celsius.set 0 field celsius } }.modTelem field fun t => { t with temp := celsius }
  occurs s (decide (110 < celsius)) ((s1.pwrError 0x3033).park .overtemp)

/-- PARK_END (R411): the temperature that parked the module has fallen. The other parks end with their own causes: the main input and the
auxiliary input by a start-up, extraction by MATE_N, lost phases by a power cycle. -/
def execParkEnd (s : State) : Out := .next (s.unpark .overtemp)

/-! Droop (R403). -/

/-- DROOP_TRIP (R403): two clock edges are suppressed in the tripping field's stretch domain, from the second cycle on, or 8 cycles after
the latest trip where it comes within 8 of it. -/
def execDroopTrip (field : Fin 4) (s : State) : Out :=
  let hs := if s.seamLock then [0, 1] else [field.val % 2]
  let trip (k : Half) : Half :=
    let c := k.cyc160 / 160
    let at_ := match k.tripAt with
      | some t => if c ≤ t + 8 then t + 8 else c + 2
      | none => c + 2
    { k with stretch := k.stretch ++ [at_], tripAt := some c }
  let s1 := hs.foldl (fun t h => t.modHalf h trip) s
  .next ({ s1 with pwr := { s1.pwr with droop := bump s1.pwr.droop field 1 } }.modTelem field fun t =>
    { t with droops := satAdd32 t.droops 1 })

/-! Inputs and phases (R397, R399). -/

/-- The one DEPARTURE of a notice that is sent once, to every open session (Table 11.10; log entry 44 for its DOWN_AT); it replaces what is
left of other notices (R301). -/
def State.lastNotice (s : State) (code : Code) : State :=
  let d : Departure := { reason := code, scope := 1, downAt := s.mt.ns, downMs := 0, retrain := false }
  let s1 := [0, 1].foldl (fun (t : State) p => t.modPortQ p fun q => { q with departing := none }) s
  (s.sessionsOn 0 ++ s.sessionsOn 1).foldl (fun t k => (t.sendSess k 2 d.body).ethCount (t.sess k).port 12 1) s1

/-- Has every frame left that the ports had to send? -/
def State.sentAll (s : State) : Bool :=
  [0, 1].all fun p => (s.portQ p).first.isEmpty && (s.portQ p).second.isEmpty && decide ((s.portQ p).owed = 0)

/-- The auxiliary domain is without power: what it holds goes when it is powered again (`powerOn`). -/
def State.loseAux (s : State) : State :=
  let s1 := s.mainOff
  { s1 with
    pins := { s1.pins with aux := false, swClosed := false, mateN := true, mateAt := none }
    pwrx := { s1.pwrx with auxLost := true, holdup := none }
    su := { s1.su with state := 1, stage := 0, auxSince := none } }

/-- AUX_INPUT_LOSS: with the main input present the module says so to its sessions, and the hold-up converter feeds the auxiliary domain
(`holdupCycle`). With both inputs lost it goes dark at once, with no code (Table 16.1). -/
def execAuxInputLoss (s : State) : Out :=
  let s1 := [0, 1].foldl (fun t p => t.modPort p fun x => { x with lastEvt := 0x9033 }) ((s.pwrError 0x3031).lastNotice 0x9033)
  occurs s s.auxOk (if s.pins.main then { s1 with pwrx := { s1.pwrx with auxLost := true, holdup := some s.clk.now } } else s.loseAux)

/-- The hold-up after a loss of the auxiliary input (R397): once the notices have left, 1 ms after the loss at the latest, the module parks,
its links drop and its main regulators go off; 1 s after the loss it goes dark (log entry 97). -/
def State.holdupCycle (s : State) : State :=
  match s.pwrx.holdup with
  | none => s
  | some t =>
    if t + 1000000000 ≤ s.clk.now then s.loseAux
    else if !s.pwr.parks.contains .auxLoss && (decide (t + 1000000 ≤ s.clk.now) || s.sentAll) then
      let s1 := ((s.park .auxLoss).linkDown 0).linkDown 1
      let s2 := s1.mainOff
      { s2 with su := { s2.su with state := 1, stage := 0, auxSince := none } }
    else s

/-- The hot-swap switch opens; start-up waits at S4. -/
def State.openSwitch (s : State) : State :=
  let s1 := s.mainOff.holdAtS4
  { s1 with pins := { s1.pins with swClosed := false, mateAt := none } }

/-- After a high MATE_N (R497): once the notices have left, 1 ms after it at the latest, the module parks, its links drop and the switch
opens. -/
def State.mateCycle (s : State) : State :=
  match s.pins.mateAt with
  | none => s
  | some t => if t + 1000000 ≤ s.clk.now ∨ s.sentAll then ((((s.park .mate).linkDown 0).linkDown 1)).openSwitch else s

/-- MAIN_INPUT_LOW: the main rails collapse; start-up holds for the input. During the hold-up both inputs are lost. -/
def execMainInputLow (s : State) : Out :=
  let s1 := if s.pwrx.holdup.isSome then s.loseAux else (s.pwrError 0x3030).mainOff.holdAtS4
  occurs s s.pins.main { s1 with pins := { s1.pins with main := false, mainHigh := false } }

/-- MAIN_INPUT_HIGH: the module parks, then shuts the main regulators down. During the hold-up both inputs are lost. -/
def execMainInputHigh (s : State) : Out :=
  let s1 := if s.pwrx.holdup.isSome then s.loseAux else ((s.pwrError 0x3032).park .mainHigh).mainOff.holdAtS4
  occurs s s.pins.main { s1 with pins := { s1.pins with main := false, mainHigh := true } }

/-- MAIN_INPUT_RETURN: start-up goes on at S4. -/
def execMainInputReturn (s : State) : Out :=
  let s1 := (s.unpark .mainHigh).resumeS4
  occurs s (!s.pins.main) { s1 with pins := { s1.pins with main := true, mainHigh := false } }

/-- A rail's counter of failed phases, its phases and how many of them are spare (Table 16.2; log entry 211). -/
def railKey : Rail → Nat
  | .vcore f => f.val
  | .vlink => 4
  | .vphy => 5
  | .vhbm k => 6 + k

def railPhases : Rail → Nat
  | .vcore _ => 12
  | .vlink => 6
  | .vphy => 4
  | .vhbm _ => 4

def railSpares : Rail → Nat
  | .vcore _ => 2
  | .vlink => 2
  | .vphy => 1
  | .vhbm _ => 1

/-- Phases of a rail that carry its load, and spares it has left: each failed phase is replaced while a spare is left (R398). -/
def State.railActive (s : State) (r : Rail) : Nat := min (railPhases r - railSpares r) (railPhases r - s.pwr.failed.get 0 (railKey r))
def State.sparesLeft (s : State) (r : Rail) : Nat := railSpares r - s.pwr.failed.get 0 (railKey r)

/-- REGULATOR_PHASE_FAIL: a phase is switched out, a spare in while one is left; a core rail below 10 phases caps its half, below 8 parks
the module for good. -/
def execRegulatorPhaseFail (rail : Rail) (s : State) : Out :=
  let k := railKey rail
  let n := s.pwr.failed.get 0 k + 1
  let s1 := ({ s with pwr := { s.pwr with failed := s.pwr.failed.set 0 k n } }).pwrError 0x3040
  let s2 := if k < 4 ∧ n = 3 then s1.pwrError 0x3041 else s1
  occurs s (decide (n ≤ railPhases rail)) (if k < 4 ∧ n = 5 then (s2.pwrError 0x3042).park (.phases (k % 2)) else s2)

/-! Hints (R412). -/

/-- Voltage that a hint raises a half's core rails to: the margin above the point's, or the requested point's if that is higher, at most
25 mV above the variant's highest point's. -/
def State.hintMv (s : State) (h : Nat) : Nat :=
  let k := s.half h
  min (max (opMv k.op + s.pwr.hintMv.toNat) (opMv (max k.op k.target))) (opMv s.su.maxOp + 25)

/-- Does the raise fit the module cap? -/
def State.hintFits (s : State) (b h w : Nat) : Bool :=
  let core := s.pwrx.coreW
  let v := opMv (s.half h).op
  let u := s.hintMv h
  fits (((s.pwr.inPeriod.toNat - core) + (core + w - (s.bay b).pwr.meanW) * (u * u) / (v * v)) * 1000) s.pwr.capW

/-- HINT_VOLTAGE_RAISE: the bay's first hint still to be raised. A HINT_MV of 0 disables the margin. -/
def execHintVoltageRaise (bay : Fin 16) (s : State) : Out :=
  let b := bay.val
  let y := s.bay b
  match y.hints.find? fun h => h.raised.isNone && decide (y.st.next ≤ h.step), (s.bayHalves b).head?, y.program with
  | some h, some k, some p =>
    let w := if h.watts = 0 then p.powerW * opFactor (s.half k).op / 1000 else h.watts
    occurs s (s.hintFits b k w)
      (s.modBay b fun y => { y with hints := y.hints.map fun x => if x = h then { x with raised := some (s.hintMv k) } else x })
  | _, _, _ => .next s

/-! Energy (R413 to R415). -/

/-- Energy of a bay in one update divided among the items that run (R414). -/
def State.giveEnergy (s : State) (b e : Nat) : State :=
  let y := s.bay b
  let s1 := s.modBay b fun y => { y with pwr := { y.pwr with energy := y.pwr.energy + BitVec.ofNat 64 e } }
  let toSess (v n : Nat) (t : State) : State :=
    if t.sessLive v then t.modSess (v % 256) fun x => { x with energy := x.energy + BitVec.ofNat 64 n } else t
  if y.st.running.isNone then s1
  else
    match y.run with
    | some w => toSess w.sess e (s1.modBay b fun y => { y with run := y.run.map fun w => { w with energy := w.energy + e } })
    | none =>
      let n := y.berths.rows.length
      let first := (y.berths.rows.map Prod.fst).headD 0
      y.berths.rows.foldl (fun t r =>
        let part := e / n + if r.1 = first then e % n else 0
        toSess r.2.sess part (t.modBay b fun y =>
          { y with berths := y.berths.map fun k w => if k = r.1 then { w with energy := w.energy + part } else w })) s1

/-- ENERGY_UPDATE, at least 10 µs after the latest (R413): what sessions' traffic takes is their bays' too. -/
def execEnergyUpdate (m : EnergySample) (s : State) : Out :=
  let s1 := (List.range 16).foldl (fun t b => t.giveEnergy b (m.bays.getD b 0)) s
  let s2 := m.sessions.foldl (fun t p =>
    let k := p.1 % 256
    if (t.sess k).state = .free then { t with pwrx := { t.pwrx with energy := t.pwrx.energy + BitVec.ofNat 64 p.2 } }
    else (t.modSess k fun x => { x with energy := x.energy + BitVec.ofNat 64 p.2 }).modBay (k / 16) fun y =>
      { y with pwr := { y.pwr with energy := y.pwr.energy + BitVec.ofNat 64 p.2 } }) s1
  occurs s (s.pins.aux && s.pwrx.energyAt.all fun t => decide (t + 10000 ≤ s.clk.elapsed))
    { s2 with pwrx := { s2.pwrx with energy := s2.pwrx.energy + BitVec.ofNat 64 m.overhead, energyAt := some s.clk.elapsed } }

/-! Registers with effects of their own. -/

/-- PWR_OP_TARGET_WRITE: ignored above the variant's highest point. -/
def execPwrOpTargetWrite (who : Requester) (v : BitVec 4) (s : State) : Out :=
  occurs s (s.isOwner who && decide (v.toNat ≤ s.su.maxOp)) { s with pwr := { s.pwr with opTarget := v } }

/-- PWR_HINT_MV_WRITE: ignored above 50. -/
def execPwrHintMvWrite (who : Requester) (v : BitVec 6) (s : State) : Out :=
  occurs s (s.isOwner who && decide (v.toNat ≤ 50)) { s with pwr := { s.pwr with hintMv := v } }

/-- An energy counter, the address of its low word and who reads it (R415, R416, R480). -/
def State.energyCtr (s : State) (who : Requester) : EnergyCtr → BitVec 64 × Nat × Bool
  | .module => (s.pwrx.energy, 0xF00000002080, s.isOwner who)
  | .bay b => ((s.bay b).pwr.energy, 0xF00000002100 + 8 * b, s.readsBay who b)
  | .session b i =>
    ((s.sess (b.val * 16 + i.val)).energy, 0xF00000002800 + 0x80 * b + 8 * i, s.isOwner who || who == .session b i)

/-- ENERGY_LO_READ: the high word is latched for the requester. -/
def execEnergyLoRead (who : Requester) (ctr : EnergyCtr) (s : State) : Out :=
  let e := s.energyCtr who ctr
  occurs s e.2.2 (s.latch who (BitVec.ofNat 48 e.2.1) (BitVec.ofNat 32 (e.1.toNat / 2 ^ 32)))

end Sys2Proof.Machine
end

