-- ==== Sys2Proof/Machine/StartupOps.lean ====
section
/-!
DEFINITION. What the start-up stages share (17_plotoard_image_and_startup.md R433 to R441): entering and ending a stage, soundings,
stopping, fencing at start-up, and the work of each stage on the state.
-/

namespace Sys2Proof.Machine

/-! Stages and soundings. -/

/-- Is start-up in stage `n`, running or holding, with the auxiliary input and, after S0, REFCLK? -/
def State.inStage (s : State) (n : Nat) : Bool :=
  s.su.stage.toNat == n && s.su.state != 2 && s.su.state != 3 && s.auxOk && (n == 0 || s.clk.refOk)

/-- A class 0x1 or 0xD code arises: shown in SU_LAST_ERR and logged. -/
def State.suError (s : State) (code : Code) : State :=
  { s with su := { s.su with errCode := code, errStage := s.su.stage } }.log code

/-- The sounding of the stage (R436, Table 17.14): shown, kept for sessions and logged. `detail` lists bytes 16 onward. -/
def State.sounding (s : State) (result : Nat) (code : Code) (detail : List Byte) : State :=
  let us := min ((s.clk.now - s.su.stageAt) / 1000) 0xFFFFFFFF
  let body := leBytes 1 s.su.stage.toNat ++ leBytes 1 result ++ leBytes 2 code.toNat ++ leBytes 4 us ++ leBytes 8 s.mt.ns ++ detail
    ++ List.replicate (16 - detail.length) 0
  let d : Sounding := { result := BitVec.ofNat 8 result, done := true, code := code, dur := BitVec.ofNat 32 us, body := body }
  { s with su := { s.su with sounds := s.su.sounds.put s.su.stage.toNat d } }.addLog
    { time := s.mt.ns, code := 0, kind := 1, stage := s.su.stage, cove := 0xFFFF, bay := 0xFF, detail := body }

/-- The BOOT journal entry (R422, Table 17.11; log entry 34 for its layout). -/
def State.bootRecord (s : State) (result : Nat) : State :=
  s.journal 6 (leBytes 1 (s.img.slot.getD 0xFF) ++ leBytes 16 s.img.measure.toNat ++ leBytes 1 s.su.stage.toNat ++ leBytes 1 result)

/-- Stage `n` is entered. -/
def State.enterStage (s : State) (n : Nat) : State :=
  { s with su := { s.su with
    stage := BitVec.ofNat 4 n, state := 0, stageAt := s.clk.now, limitAt := s.clk.now, held := 0, standbyAgain := [] } }

/-- The stage ends, passed or degraded; a stage that held says so unless it is degraded. -/
def State.endStage (s : State) (code : Code) (detail : List Byte) : State :=
  let s1 := if code ≠ 0 then s.sounding 1 code detail
    else if s.su.held ≠ 0 ∨ s.su.state = 1 then s.sounding 2 s.su.held detail
    else s.sounding 0 0 detail
  s1.enterStage (s.su.stage.toNat + 1)

/-- Start-up stops with a code (R434): regulators and transmitters go off. -/
def State.stopStart (s : State) (code : Code) : State :=
  let s1 := ((if code.toNat / 4096 = 12 then (s.log code).identErr code else s.suError code).sounding 3 code []).bootRecord 3
  let s2 := s1.mainOff
  { s2 with
    pins := { s2.pins with swClosed := false }
    su := { s2.su with state := 3, faultCode := code } }

/-- The stage holds for a code, logged once. -/
def State.holdStage (s : State) (code : Code) : State :=
  let s1 := if s.su.held = code then s else s.suError code
  { s1 with su := { s1.su with state := 1, held := code } }

/-! Halves. -/

/-- Both halves go to an operating point: the sequencer moves voltage and divider (R383, R402), and OP_CHANGE_COMPLETE ends the change. -/
def State.setPoints (s : State) (op : Nat) : State :=
  [0, 1].foldl (fun t h => t.modHalf h fun k =>
    { k with target := op, changing := k.changing || k.op != op, holding := false, holdAt := none }) s

/-- Do both halves stand at an operating point? -/
def State.bothAt (s : State) (op : Nat) : Bool := [0, 1].all fun h => (s.half h).op == op && !(s.half h).changing

/-- At S5 every PLL that is not stable starts (R382, R433). -/
def State.startPlls (s : State) : State :=
  (List.range 17).foldl (fun t p => if (t.pll p).state = .stable then t else t.startPll p) s

/-! Fences at start-up (R438). -/

/-- A cove that fails is fenced at once: its slot moves to a spare without state, or becomes dark. -/
def State.fenceStart (s : State) (c : Nat) : State :=
  let s1 := (s.setCoveState c .fenced).modCoveTest c fun t => { t with forced := true, requal := 0, cleanAt := none }
  let h : Handover := { src := c, dst := s1.receiver c [], kind := .fence }
  if (s1.logOf c).isNone then s1 else s1.setMasks (segOfPhys c) (s1.masksAfter (segOfPhys c) h)

/-- Coves that fail a stage with a code: each is logged, fenced, and owes a fault signature record, whose unit the spec leaves open
(log entry 165). -/
def State.failCoves (s : State) (cs : List Nat) (code : Code) : State :=
  cs.foldl (fun t c =>
    ((({ t with su := { t.su with errCode := code, errStage := t.su.stage } }.logCove code c).fenceStart c).owesRecord none c code fun r =>
      { r with unit := t.freeNat % 9 }).spend 1) s

/-- The tables of the current network as start-up sets them: routes around disabled links, the logical map (R224, R229, R235). -/
def State.loadTables (s : State) : State :=
  { s with
    coves := s.coves.map fun _ v => v.modNet fun n => { n.rewriteTables false with epoch := false, armAt := none, holdTo := none }
    net := { s.net with
      links0 := some s.disabledLinks, map0 := s.currentMap, valid0 := true, swap := none, oldUntil := none, wanted := none } }

/-! S2. -/

/-- The latest BOOT record of slot `i` under its image shows a start-up that ended before S11 (R422). -/
def State.bootFailed (s : State) (i : Nat) (v : SlotImage) : Bool :=
  let key := leBytes 1 i ++ leBytes 16 v.measure.toNat
  match newestOf s.su.journal (6, leNat key) with
  | some e => decide (fieldLe e.body 17 1 < 11)
  | none => false

/-- The journal as start-up reads it (R432): of the device whose newest valid entry is the higher, device 0 in a tie. -/
def State.readJournals (s : State) : State :=
  let a := s.journalOn 0
  let b := s.journalOn 1
  let r := if topSeq (validEntries a.1) < topSeq (validEntries b.1) then b else a
  let s1 := { s with su := { s.su with
    journal := validEntries r.1 ++ s.su.jTodo
    jNext := max s.su.jNext (max (topSeq (a.1.map Prod.fst)) (topSeq (b.1.map Prod.fst)) + 1)
    jUsed := s.journalUsed } }
  if r.1.all Prod.snd then s1 else s1.suError 0xD050

/-- Identity and certificates (R463 to R467). -/
def State.deriveIdentity (s : State) (pub : List Byte) : State :=
  let s1 := { s with ident := { s.ident with derived := true, pub := pub } }
  match s1.certs pub with
  | some (c, i) =>
    { s1 with
      ident := { s1.ident with certified := true }
      img := { s1.img with certs := [c.payload, i.bytesOf 2] }
      mg := { s1.mg with serial := c.bytesOf 3 } }
  | none => ({ s1 with ident := { s1.ident with certified := false }, mg := { s1.mg with serial := [] } }.log 0xC011).identErr 0xC011

/-- Owner records (R471, R472). -/
def State.readOwners (s : State) : State :=
  let l := s.validOwners s.ident.pub
  let s1 := if l.length < s.ownerSlots.length then (s.log 0xC031).identErr 0xC031 else s
  let s2 := { s1 with img := { s1.img with
    owner := l.head?, ownerRoot := !l.isEmpty, floor := (l.map OwnerRec.floor).foldl max 0 } }
  if l.isEmpty then (s2.log 0xC030).identErr 0xC030 else s2

/-- Verdict of a slot as SU_SLOT shows it. -/
def verdictCode : Verdict SlotImage → Code
  | .ok _ => 0
  | .error e => e.1

/-- A cap of 0 in a slot is refused with 0x3010 (R423, Table 17.7). -/
def State.noteCap (s : State) : Verdict SlotImage → State
  | .error (_, true) => s.pwrError 0x3010
  | _ => s

/-- Slot `i` is in use. -/
def State.useSlot (s : State) (i : Nat) (v : SlotImage) : State :=
  { s with img := { s.img with
    slot := some i, version := BitVec.ofNat 64 v.version, measure := v.measure, module := v.module, keys := v.keys, ports := v.ports
    bays := v.bays, standby := v.standby, tests := v.tests, cargo := v.cargo, cargoDigest := v.cargoDigest } }

/-- The choice of R422 among the slots' verdicts: the slot, and whether the preferred one was passed over. -/
def State.chooseSlot (s : State) (a b : Verdict SlotImage) : Option (Nat × SlotImage × Bool) :=
  match a, b with
  | .ok x, .ok y =>
    let p := if x.version < y.version then (1, y, 0, x) else (0, x, 1, y)
    if s.bootFailed p.1 p.2.1 then some (p.2.2.1, p.2.2.2, true) else some (p.1, p.2.1, false)
  | .ok x, .error _ => some (0, x, false)
  | .error _, .ok y => some (1, y, false)
  | .error _, .error _ => none

/-! S6 and S7: what the journal restores. -/

/-- The state that a COVE_STATE entry gives a cove. -/
def coveStateOf (n : Nat) : CoveState :=
  if n = 1 then .suspect else if n = 2 then .watch else if n = 3 then .fenced else if n = 5 then .held else .normal

/-- The newest COVE_STATE entry of a cove. -/
def State.coveEntry (s : State) (c : Nat) : Option JEntry := newestOf s.su.journal (1, c)

/-- Is the cove recorded as fenced? -/
def State.recordedFenced (s : State) (c : Nat) : Bool :=
  match s.coveEntry c with
  | some e => fieldLe e.body 2 1 % 8 == 3
  | none => false

/-- A cove's state, requalification and remap lists as the journal has them (R147, R369, R432). -/
def State.restoreCove (s : State) (c : Nat) : State :=
  let s1 := match s.coveEntry c with
    | none => s
    | some e =>
      let x := coveStateOf (fieldLe e.body 2 1 % 8)
      let requal := fieldLe e.body 3 1
      let t1 := (s.modCove c fun v => v.modIg fun g => { g with state := x, pattern := decide (8 ≤ fieldLe e.body 2 1) }).modCoveTest c
        fun t => { t with
          requal := requal
          cleanAt := if requal = 0 then none else some ((s.clk.elapsed : Int) - fieldLe e.body 4 4 * 1000000000)
          watchAt := if x = .watch then some s.clk.elapsed else none, suspectAt := (16, s.clk.elapsed, 0), forced := x == .fenced }
      if (x = .suspect ∨ x = .watch) ∧ !(t1.field (fieldOf c)).queue.contains c then
        t1.modField (fieldOf c) fun k => { k with queue := k.queue ++ [c] }
      else t1
  (List.range 16).foldl (fun (t : State) bank =>
    match newestOf s.su.journal (3, c + bank * 65536) with
    | none => t
    | some e =>
      (List.range 16).foldl (fun (u : State) i =>
        let w := fieldLe e.body (3 + 2 * i) 2
        if w < 0x8000 then u
        else u.modCove c fun v => v.modSp fun p => { p with remap := p.remap.put (bank * 2048 + w % 2048) (w / 2048 % 16) }) t) s1

/-- Do a SEG_MASKS entry's masks obey R351 and place no cove recorded as fenced in a slot? -/
def State.masksFit (s : State) (g : Nat) (e : JEntry) : Bool :=
  let hold := BitVec.ofNat 20 (fieldLe e.body 1 3)
  let dark := BitVec.ofNat 18 (fieldLe e.body 4 3)
  (setBits hold 20).length + (setBits dark 18).length == 18 && (setBits hold 20).all fun x => !s.recordedFenced (segPhys g x)

/-- The newest entry of a list. -/
def newest (l : List JEntry) : Option JEntry :=
  l.foldl (fun (b : Option JEntry) e => match b with
    | some x => if x.seq < e.seq then some e else b
    | none => some e) none

/-- A segment's masks at S7 (R352). -/
def State.restoreMasks (s : State) (g : Nat) : State :=
  let all := s.su.journal.filter fun e => e.kind == 2 && fieldLe e.body 0 1 == g
  let fit := newest (all.filter (s.masksFit g))
  let m : BitVec 20 × BitVec 18 := match fit with
    | some e => (BitVec.ofNat 20 (fieldLe e.body 1 3), BitVec.ofNat 18 (fieldLe e.body 4 3))
    | none => (0x3FFFF, 0)
  let s1 := { s with rot := { s.rot with
    holdMask := s.rot.holdMask.set 0x3FFFF g m.1, darkMask := s.rot.darkMask.set 0 g m.2 } }
  if fit = newest all then s1 else s1.suError 0xD051

/-- Fenced coves, and dark slots. -/
def State.fencedCount (s : State) : Nat := ((List.range 800).filter fun c => (s.cove c).ig.state == .fenced).length
def State.darkCount (s : State) : Nat := ((List.range 40).map fun g => (setBits (s.darkMask g) 18).length).sum

/-- A cove leaves its start-up test: its scratchpad is zero, EXHAUSTED tells whether every bank is within its spare rows (R437, R477,
Table 6.4). `bad` lists the rows that BIST found failing. DESIGN CHOICE (log entry 195): a finding on a row that a spare already serves is left. -/
def State.testCove (s : State) (c : Nat) (bad : List (Nat × Nat)) : State :=
  let s1 := s.modCove c fun v => v.modSp fun p =>
    { p with bytes := {}, spare := {}, bad := [], spareBad := [], exhausted := false, errs := [], due := [] }
  bad.foldl (fun t r => if ((t.cove c).sp.remap.find (r.1 * 2048 + r.2)).isSome then t else t.spRemap c r.1 r.2) s1

/-- S7: restore, test, fence. `unfinished` coves failed for the stage's limit; which block failed is open (log entry 165). -/
def State.stage7 (s : State) (failed unfinished : List Nat) (rows : List (Nat × Nat × Nat)) : State :=
  let s0 := (List.range 40).foldl State.restoreMasks ((List.range 800).foldl State.restoreCove s)
  let s1 := { s0 with rot := { s0.rot with mapped := true } }
  let s2 := (List.range 800).foldl (fun (t : State) c =>
    if (t.cove c).ig.state = .fenced ∧ (t.logOf c).isSome then t.fenceStart c else t) s1
  let s3 := ((List.range 800).foldl (fun (t : State) c =>
    t.testCove c ((rows.filter fun r => r.1 == c).map Prod.snd)) { s2 with coves := s2.coves.map fun _ v => v.endSelfTest })
  let fail (code : Code) (t : State) (c : Nat) : State :=
    ((({ t with su := { t.su with errCode := code, errStage := t.su.stage } }.logCove code c).fenceStart c).failTest c
      (t.freeNat % 9)).spend 1
  let s4 := (unfinished.foldl (fail 0x1061) (failed.foldl (fail 0x1040) s3)).loadTables
  let n := failed.length + unfinished.length
  (s4.endStage (if !failed.isEmpty then 0x1040 else if !unfinished.isEmpty then 0x1061 else 0)
    (leBytes 2 800 ++ leBytes 2 n ++ leBytes 2 s4.fencedCount ++ leBytes 2 s4.darkCount)).setPoints s.su.maxOp

/-- S8: links checked at the variant's highest point (R439); afterwards the halves, without a program, go to OP0. -/
def State.stage8 (s : State) (tide unfinished seams : List Nat) (links : List (Nat × Nat)) : State :=
  let s1 := (s.failCoves tide 0x1041).failCoves unfinished 0x1061
  let s2 := seams.foldl (fun (t : State) y =>
    ((t.modSeam y fun p => { p with disabled := true, state := .closed }).suError 0x1043).clkError 0x2031 0x1F) s1
  let s3 := links.foldl (fun (t : State) l =>
    ({ t with su := { t.su with errCode := 0x1042, errStage := t.su.stage } }.disableLink l.1 l.2).logCove 0x1042 l.1) s2
  let s4 := { s3 with rot := { s3.rot with moves := {}, waiting := [] } }
  let s5 := (((List.range 800).foldl (fun (t : State) c =>
    if (t.cove c).net.unreach && (t.cove c).ig.state != CoveState.fenced then t.fenceStart c else t) s4).setPoints 0).loadTables
  let code : Code := if !tide.isEmpty then 0x1041 else if !seams.isEmpty then 0x1043 else if !links.isEmpty then 0x1042
    else if !unfinished.isEmpty then 0x1061 else 0
  s5.endStage code (leBytes 2 tide.length ++ leBytes 2 links.length ++ leBytes 4 ((seams.eraseDups.map (2 ^ ·)).sum))

/-! Ports at S10 (R288, R425). -/

/-- A field of a port record, or its default where it is zero. -/
def orDefault (bs : List Byte) (o n d : Nat) : Nat := if fieldLe bs o n = 0 then d else fieldLe bs o n

/-- A port takes its record of Table 17.6 and, if enabled, begins to train. -/
def State.startPort (s : State) (p : Nat) (bs : List Byte) : State :=
  let f := BitVec.ofNat 8 (fieldLe bs 0 1)
  let vid := BitVec.ofNat 16 (fieldLe bs 2 2)
  let s1 := s.modPort p fun x =>
    { x with
      enabled := f.getLsbD 0, disabled := !f.getLsbD 0, medium := f.getLsbD 1, pfcEn := f.getLsbD 2
      vlan := if f.getLsbD 3 then some (vid.extractLsb' 0 12) else none, pcp := vid.extractLsb' 12 3
      pfcPrio := fieldLe bs 1 1, mac := BitVec.ofNat 48 (fieldLe bs 4 6), udp := orDefault bs 10 2 11536
      ip4 := BitVec.ofNat 32 (fieldLe bs 12 4), ip6 := BitVec.ofNat 128 (fieldLe bs 16 16) }
  let s2 := s1.modPortQ p fun q =>
    { q with
      ptp := { q.ptp with domain := BitVec.ofNat 8 (fieldLe bs 32 1) }
      dcqcn := { gShift := orDefault bs 33 1 8, cnpUs := orDefault bs 34 2 50, alphaUs := orDefault bs 36 2 55
                 rateUs := orDefault bs 38 2 55, byteKb := orDefault bs 40 4 10000, raiMbps := orDefault bs 44 2 40
                 rhaiMbps := orDefault bs 46 2 400, minMbps := orDefault bs 48 2 100 } }
  if f.getLsbD 0 then s2.beginTraining p else s2

/-- S9 ends: every unfenced cove holds the standby image; failures are fenced; S10 begins, with the cargo read beside it. -/
def State.stage9 (s : State) (failed unfinished : List Nat) : State :=
  let s1 := ((s.failCoves failed 0x1050).failCoves unfinished 0x1061).loadTables
  let good := (List.range 800).filter fun c => (s1.cove c).ig.state != .fenced
  let s2 := good.foldl (fun (t : State) c => t.modCove c fun v => v.unloadShape s.img.standby) s1
  let n := failed.length + unfinished.length
  let code : Code := if !failed.isEmpty then 0x1050 else if !unfinished.isEmpty then 0x1061 else 0
  let s3 := s2.endStage code (leBytes 2 good.length ++ leBytes 2 n)
  let s4 := { s3 with su := { s3.su with s10At := s.clk.now, cargoRead := none, s11Done := false, cargoCode := 0 } }
  (s4.startPort 0 ((nth s.img.ports 0).getD [])).startPort 1 ((nth s.img.ports 1).getD [])

/-! S11 (R441). -/

/-- The cargo section's bytes. -/
def State.cargoBytes (s : State) : List Byte :=
  match s.img.cargo with
  | some (off, len) => s.devBytes (s.img.slot.getD 0) (slotStart + off) len
  | none => []

/-- The cargo's target bay. -/
def cargoBay (bs : List Byte) : Nat := fieldLe bs 0 1 % 16

/-- The cargo is loaded as a program image; one whose prefix has a reserved bit set, or whose bay has no record, is malformed. -/
def State.loadCargo (s : State) : State :=
  let bs := s.cargoBytes
  match s.su.cargoRead with
  | none => s
  | some code =>
    if code ≠ 0 then { s with su := { s.su with cargoCode := code } }
    else
      let r := if fieldLe bs 0 1 < 16 && zeroBytes bs 1 15 then s.loadProgram (cargoBay bs) (bs.drop 16) none else (0x9116, s)
      if r.1 = 0 then
        r.2.modBay (cargoBay bs) fun y => { y with program := y.program.map fun p => { p with cargo := true } }
      else
        let s1 := s.log 0xD041
        { s1 with su := { s1.su with cargoCode := 0xD041, errCode := r.1, errStage := 11 } }

/-- The work of S11 in order. -/
def State.stage11 (s : State) : State :=
  let m := s.img.module
  let s1 := s.img.bays.foldl (fun (t : State) r => t.modBay r.bay fun y =>
    { y with
      record := some r, level := r.level, seed := r.seed, pwr := { y.pwr with capW := r.capW }
      stopped := if t.deadStack r then some 0x8022 else none }) s
  let s2 := { s1 with
    pwr := { s1.pwr with capW := if m.capW = 0xFFFF then s1.su.contW else min m.capW s1.su.contW, capNext := none }
    rot := { s1.rot with interval := m.rotInterval }
    clk := { s1.clk with slackUs := m.slackUs, ebbMs := m.ebbMs } }
  let s3 := (List.range 40).foldl State.rewatch s2.loadCargo
  let s4 := [0, 1, 2, 3].foldl (fun (t : State) f => t.modField f fun k => { k with slotAt := some (s.clk.elapsed + s3.rot.slotNs), walk := 0 }) s3
  { s4 with su := { s4.su with s11Done := true } }

/-- S11 ends: the module is in service. Bays without a program or marked stopped degrade the stage (log entry 213). -/
def State.finishS11 (s : State) : State :=
  let bays := (List.range 16).filter fun b => (s.bay b).record.isSome
  let mask (p : Nat → Bool) : Nat := ((bays.filter p).map (2 ^ ·)).sum
  let bs := s.cargoBytes
  let loaded := s.img.cargo.isSome && s.su.cargoCode == 0
  let code := if s.su.cargoCode = 0 ∧ bays.any (fun b => (s.bay b).stopped.isSome) then 0x8022 else s.su.cargoCode
  let detail := leBytes 2 (mask fun b => (s.bay b).stopped.isNone) ++ leBytes 2 (mask fun b => (s.bay b).stopped.isSome)
    ++ leBytes 1 (if loaded then 1 else 0) ++ leBytes 1 (if s.img.cargo.isSome then cargoBay bs else 0)
  let s1 := (s.sounding (if code = 0 then 0 else 1) code detail).bootRecord (if code = 0 then 0 else 1)
  { s1 with su := { s1.su with
    state := 2, held := 0, totalMs := BitVec.ofNat 32 (min ((s.clk.now - s.su.totalAt) / 1000000) 0xFFFFFFFF) } }

end Sys2Proof.Machine
end

