-- ==== Sys2Proof/Machine/Eddy.lean ====
section
/-!
DEFINITION. The eddy detector (18_hangs_and_resets.md R449 to R452).
-/

namespace Sys2Proof.Machine

/-! The eddy detector (R449 to R452). Cores of a bay are numbered logical cove × 16 + core, those of a
cove under test by themselves. -/

/-- How a core waits (Table 18.2). -/
inductive EddyWait where
  | all (edges : List Nat)
  | any
  deriving DecidableEq, Repr

/-- Where the coves of a set are, by the numbers of their cores divided by 16. -/
def State.eddyCove (s : State) : EddySet → Nat → Option Nat
  | .bay _, l => s.physOf l
  | .cove c, _ => some c

/-- The coves of a set as its core numbers name them. -/
def State.eddyCoves (s : State) : EddySet → List Nat
  | .bay b => (s.bay b).active
  | .cove _ => [0]

/-- The cores that the program of the bay uses; a self-test runs on all 16 (R362). -/
def State.usedCores (s : State) (x : EddySet) : List Nat :=
  match x with
  | .cove _ => List.range 16
  | .bay _ => (s.eddyCoves x).flatMap fun l => match s.eddyCove x l with
    | some c => ((List.range 16).filter fun k => ((s.cove c).core k).used).map fun k => l * 16 + k
    | none => []

/-- The core of a number. -/
def State.coreNo (s : State) (x : EddySet) (n : Nat) : PCore :=
  match s.eddyCove x (n / 16) with
  | some c => (s.cove c).core (n % 16)
  | none => {}

/-- Participants of barrier `i` of the set that have not arrived in this round. -/
def State.notArrived (s : State) (x : EddySet) (i : Nat) : List Nat :=
  (s.eddyCoves x).flatMap fun l => match s.eddyCove x l with
    | some c =>
      let t := (s.cove c).tide
      if barValid (t.entry i) then
        ((barCores (t.entry i)).filter fun k => !(t.arrived.get [] i).contains k).map fun k => l * 16 + k
      else []
    | none => []

/-- The wait of core number `n`, among the cores `used`; none where it has no edges (R450). -/
def State.eddyWait (s : State) (x : EddySet) (used : List Nat) (n : Nat) : Option EddyWait :=
  let k := s.coreNo x n
  let entry (i : Nat) : ChEntry := match s.eddyCove x (n / 16) with
    | some c => (s.chan c).entry i
    | none => {}
  let owner (i : Nat) : Nat := match x with
    | .bay _ => epCove (entry i).farEp * 16 + epCore (entry i).farEp
    | .cove _ => epCore (entry i).farEp
  if k.state = 2 then some (.all (used.filter fun m => (s.coreNo x m).state != 2))
  else if k.state = 3 then
    match k.wait with
    | some (.csend i _) => if (entry i).state = .blocked then some (.all [owner i]) else none
    | some (.cconn i _) => some (.all [owner i])
    | some (.tbar i) => some (.all (s.notArrived x i.toNat))
    | some (.crecv _ _ _) => some .any
    | some (.csel _ _ _) => some .any
    | some (.cacc _ _) => some .any
    | _ => none
  else none

/-- The waiting cores and their waits. -/
def State.eddyNodes (s : State) (x : EddySet) : List (Nat × EddyWait) :=
  let used := s.usedCores x
  used.filterMap fun n => (s.eddyWait x used n).map fun w => (n, w)

/-- Does the member satisfy R451 within the set? -/
def eddyHolds (used set : List Nat) (x : Nat × EddyWait) : Bool :=
  match x.2 with
  | .all es => es.any set.contains
  | .any => used.all fun m => m == x.1 || set.contains m

/-- The largest set that is a finding: members that do not satisfy R451 drop out, at most `fuel` times. -/
def eddyLargest (used : List Nat) : Nat → List (Nat × EddyWait) → List (Nat × EddyWait)
  | 0, l => l
  | fuel + 1, l => eddyLargest used fuel (l.filter (eddyHolds used (l.map Prod.fst)))

/-- Edges of a member of AND kind into the set. -/
def eddyEdges (l : List (Nat × EddyWait)) (n : Nat) : List Nat :=
  match l.find? fun x => x.1 == n with
  | some (_, .all es) => es.filter fun m => l.any fun x => x.1 == m && x.2 != .any
  | _ => []

/-- The shortest path from the ends of `paths` back to `goal`, newest member first. -/
def eddyCycle (l : List (Nat × EddyWait)) (goal : Nat) : Nat → List (List Nat) → List Nat → Option (List Nat)
  | 0, _, _ => none
  | fuel + 1, paths, seen =>
    match paths.find? fun p => (eddyEdges l (p.headD 0)).contains goal with
    | some p => some p
    | none =>
      let grown := paths.foldl (fun (acc : List (List Nat) × List Nat) p =>
        (eddyEdges l (p.headD 0)).foldl (fun (a : List (List Nat) × List Nat) m =>
          if a.2.contains m then a else (a.1 ++ [m :: p], m :: a.2)) acc) ([], seen)
      eddyCycle l goal fuel grown.1 grown.2

/-- The smallest finding of a pass: the shortest cycle of AND members, else the whole of the largest set (R451). -/
def State.eddyFinding (s : State) (x : EddySet) : List Nat :=
  let nodes := s.eddyNodes x
  let g := eddyLargest (s.usedCores x) nodes.length nodes
  let best := g.foldl (fun (m : Option (List Nat)) x =>
    match eddyCycle g x.1 g.length [[x.1]] [x.1] with
    | some p => match m with
      | some q => if p.length < q.length then some p else m
      | none => some p
    | none => m) none
  match best with
  | some p => (g.map Prod.fst).filter p.contains
  | none => g.map Prod.fst

/-- A member as the next pass compares it. -/
def State.eddyMember (s : State) (x : EddySet) (n : Nat) : EddyMember :=
  { cove := n / 16, core := n % 16, pc := (s.coreNo x n).pc, retired := (s.coreNo x n).retired }

/-- HR_EDDY_MEM word of a member (Table 18.6). -/
def State.eddyWord (s : State) (x : EddySet) (n : Nat) : Word :=
  BitVec.ofNat 32 (n / 16 + n % 16 * 1024 + (s.coreNo x n).blockOn * 16384 + 2 ^ 31)

/-- A finding stands in a bay: it is reported, and the bay stops with 0xE010; the step is not replayed (R452). -/
def State.eddyStands (s : State) (b : Fin 16) (set : List Nat) : State :=
  let mem := ((set.take 16).zip (List.range 16)).foldl (fun (t : Tab Word) x => t.set 0 x.2 (s.eddyWord (.bay b) x.1)) {}
  (s.modBay b fun y =>
    { y with hang := { y.hang with
        eddyCode := 0xE010, eddySize := BitVec.ofNat 14 set.length, eddyNew := true, eddyMem := mem, eddyLast := []
        window := false, windowAt := none } }).stopBay b 0xE010

/-- A finding stands in a cove under test: the phase fails with 0xE011, a failed self-test; the cove is fenced (R363, R452). -/
def State.eddyFails (s : State) (c : Nat) : State :=
  let s1 := s.logCove 0xE011 c
  if s.inStage 7 then (s1.fenceStart c).failTest c 3
  else ((s1.modField (fieldOf c) fun k => { k with result := 2, failPhase := 3 }).failTest c 3).fenceTested c

/-- Is the set armed: a bay in its recovery window, a cove in test phase 3 under rotation, or any cove at stage S7 (R449)? -/
def State.eddyArmed (s : State) : EddySet → Bool
  | .bay b => (s.bay b).hang.window
  | .cove c => s.inStage 7 || ((s.field (fieldOf c)).cove == some c.val && (s.field (fieldOf c)).phase == 5 && (s.field (fieldOf c)).result == 0)

/-- The members of the last pass's finding, and when they were first found. -/
def State.eddyPast (s : State) : EddySet → List EddyMember × Nat
  | .bay b => ((s.bay b).hang.eddyLast, (s.bay b).hang.eddyAt)
  | .cove c => ((s.coveTest c).eddyLast, (s.coveTest c).eddyAt)

/-- The finding is kept for the next pass. -/
def State.eddyKeep (s : State) (l : List EddyMember) (at_ : Nat) : EddySet → State
  | .bay b => s.modBay b fun y => { y with hang := { y.hang with eddyLast := l, eddyAt := at_ } }
  | .cove c => s.modCoveTest c fun t => { t with eddyLast := l, eddyAt := at_ }

/-- How many sets are armed; passes alternate among them (R452). The coves at S7 count as one (log entry 212). -/
def State.armedSets (s : State) : Nat :=
  (if s.inStage 7 then 1 else 0) + ((List.range 16).filter fun b => (s.bay b).hang.window).length
    + ((List.range 4).filter fun f => (s.field f).cove.isSome && (s.field f).phase == 5 && (s.field f).result == 0).length

/-- EDDY_PASS (R449 to R452): a finding stands when two passes 200 µs apart, for each set that is armed, find the same set, unchanged. -/
def execEddyPass (set : EddySet) (s : State) : Out :=
  let found := s.eddyFinding set
  let now := found.map (s.eddyMember set)
  let was := s.eddyPast set
  occurs s (s.eddyArmed set)
    (if !found.isEmpty && now == was.1 && decide (was.2 + 200000 * s.armedSets ≤ s.clk.elapsed) then
      match set with
      | .bay b => s.eddyStands b found
      | .cove c => (s.eddyFails c).modCoveTest c fun t => { t with eddyLast := [] }
     else s.eddyKeep now (if now == was.1 then was.2 else s.clk.elapsed) set)

end Sys2Proof.Machine
end

