-- ==== Sys2Proof/Machine/Integrity.lean ====
section
/-!
DEFINITION. The commands of 13_integrity.md that are not another chapter's: score expiry, fault signature records, the bay's shadow level,
clearing PATTERN.
-/

namespace Sys2Proof.Machine

/-- SCORE_EVENT_EXPIRY (R342): events leave the window ten minutes after they occurred; a watch can end (Table 14.4). -/
def execScoreEventExpiry (cove : Fin 800) (s : State) : Out :=
  let s1 := s.modCove cove fun v => v.modIg fun g =>
    { g with events := g.events.filter fun e => decide (s.clk.elapsed < e.at_ + tenMinutes) }
  .next (s1.endWatch cove)

/-! Fault signature records (R345 to R347). -/

/-- Has the code an operand hash (Table 13.8)? -/
def hashed (code : Code) : Bool := code == 0x4021 || code == 0x4022 || code == 0xB011 || code == 0x5020 || code == 0xB010

/-- Payload of a record (Table 13.7). -/
def sigPayload (seq c : Nat) (p : SigPending) (records : Nat) (hash : Option (BitVec 256)) : List Byte :=
  let num (k n : Nat) : List Byte × List Byte := (cborUint k, cborUint n)
  let maybe (k : Nat) (o : Option (List Byte)) : List (List Byte × List Byte) := (o.map fun b => (cborUint k, b)).toList
  let orNull (o : Option Nat) : List Byte := match o with
    | some n => cborUint n
    | none => cborNull
  cborMap ([num 1 1, num 2 seq, num 3 p.time, num 4 p.tstate.toNat, (cborUint 5, cborArray [cborUint c, orNull p.log, orNull p.bay]),
      num 6 p.unit, num 7 p.code.toNat]
    ++ maybe 8 (p.loc.map fun l => cborArray (l.map cborUint))
    ++ maybe 9 (p.step.map fun a => cborArray [cborUint a.1, cborUint a.2])
    ++ maybe 10 (p.tag.map cborUint)
    ++ maybe 11 (hash.map fun h => cborBytes (leBytes 32 h.toNat))
    ++ [(cborUint 12, cborArray [cborUint p.window, cborUint p.total, cborUint records]), num 13 p.score, num 14 p.state, num 15 p.op,
      num 16 p.temp]
    ++ maybe 17 (p.partner.map cborUint))

/-- Thirty days of elapsed time in nanoseconds (R345). -/
def thirtyDays : Nat := 2592000000000000

/-- A record is stored, and copied to the log if it is exported. -/
def State.storeRecord (s : State) (c : Nat) (r : SigRec) : State :=
  let s1 := { s with integ := { s.integ with
    sigs := keepRecords s.mg.logHead 65536 ({ r with logNo := s.mg.logHead + 1 } :: s.integ.sigs), sigCount := s.integ.sigCount + 1 } }
  if r.exported then s1.logRecord r.code c r.bytes else s1

/-- The operand hash is compared with those kept from the past 30 days (R345): seen on another cove it is logged once; seen on this cove
alone it marks the cove PATTERN and raises its score to 48. -/
def State.judgePattern (s : State) (c : Nat) (code : Code) (h : BitVec 256) : State :=
  let old := s.heldRecords.filter fun r => r.ophash == some h && decide (s.clk.elapsed < r.at_ + thirtyDays)
  if old.any fun r => r.cove != c then
    if s.integ.loggedHashes.contains h then s
    else { s.log 0xB040 with integ := { s.integ with loggedHashes := h :: s.integ.loggedHashes } }
  else if old.isEmpty then s
  else
    let s1 := s.modCove c fun v => v.modIg fun g =>
      { g with
        pattern := true
        events := ⟨code, 48 - g.score s.clk.elapsed, s.clk.elapsed⟩ :: g.events }
    (s1.journalCove c).judgeScore c

/-- Has the first replay of the step that a record is of begun? None while it is still to come; false where it never runs, since the bay was
stopped or reset, or no step ran (R346). -/
def State.replayed (s : State) (p : SigPending) : Option Bool :=
  match p.bay, p.step with
  | some b, some (n, a) =>
    let st := (s.bay b).st
    if 1 ≤ a ∨ (st.live.any fun r => r.no == n && decide (1 ≤ r.attempt)) ∨ n ≤ st.committed then some true
    else if (s.bay b).stopped.isNone ∧ ((st.live.any fun r => r.no == n) ∨ st.replay.any fun r => r.no == n) then none
    else some false
  | _, _ => some false

/-- The operand hash of a record (Table 13.8): of a parity error as the error left it; of a breaker's operands as the first replay's feed
takes them, if it runs; `given` where the model holds no operands, and without it a free value (log entry 206). -/
def State.recordHash (s : State) (p : SigPending) (given : Option (BitVec 256)) : Option (BitVec 256) :=
  let taken := some (given.getD ((Config.freeRow s.free).setWidth 256))
  if !hashed p.code then none
  else if p.code = 0x4021 ∨ p.code = 0xB010 then if s.replayed p = some true then taken else none
  else if p.hash.isSome then p.hash
  else taken

/-- Is a record ready to be formed: one of a breaker's operands waits for the first replay (R346)? -/
def State.recordDue (s : State) (p : SigPending) : Bool := !(p.code == 0x4021 || p.code == 0xB010) || (s.replayed p).isSome

/-- FAULT_SIGNATURE_RECORD (R346): the oldest record that the cove owes for the code is formed, signed and stored; the record that makes
the cove a suspect is exported (R347). -/
def execFaultSignatureRecord (cove : Fin 800) (code : BitVec 16) (ophash : Option (BitVec 256)) (s : State) : Out :=
  let c := cove.val
  let v := s.cove c
  match v.ig.unrecorded.find? fun p => p.code == code && s.recordDue p with
  | none => .next s
  | some p =>
    let hash := s.recordHash p ophash
    let seq := s.integ.sigCount + 1
    let bytes := s.coseSign (sigPayload seq c p (v.ig.totalRecords + 1) hash)
    let r : SigRec := { seq := seq, cove := c, code := code, at_ := p.at_, ophash := hash, bytes := bytes, exported := p.exported }
    let s1 := (s.spend 1).modCove c fun v => v.modIg fun g =>
      { g with unrecorded := g.unrecorded.erase p, totalRecords := g.totalRecords + 1 }
    let s2 := match hash with
      | some h => s1.judgePattern c code h
      | none => s1
    let raised := (s1.cove c).ig.state != (s2.cove c).ig.state
    .next (s2.storeRecord c { r with exported := p.exported || raised })

/-! Registers with effects of their own (R334, R345, R348). -/

/-- IG_BAY_CFG_WRITE: LEVEL 5 to 7 is rejected; another takes effect at the bay's next boundary. -/
def execIgBayCfgWrite (who : Requester) (bay : Fin 16) (value : BitVec 32) (s : State) : Out :=
  let l := bits value 0 3
  occurs s (s.ownsBay who bay [.bay] && decide (l ≤ 4)) (s.modBay bay fun y => { y with levelNext := some l })

/-- IG_CLR_PATTERN: PATTERN is cleared on the named cove, whose requalification starts from a count of 0 (R370). -/
def execIgClrPattern (who : Requester) (value : BitVec 32) (s : State) : Out :=
  let c := bits value 0 10
  let s1 := { s with integ := { s.integ with ctrlCove := BitVec.ofNat 10 c } }
  let s2 := if value.getLsbD 10 ∧ c < 800 ∧ (s.cove c).ig.pattern then
      ((s1.modCove c fun v => v.modIg fun g => { g with pattern := false }).modCoveTest c fun t =>
        { t with requal := 0, cleanAt := none }).journalCove c
    else s1
  occurs s (s.isOwner who) s2

end Sys2Proof.Machine
end

