-- ==== Sys2Proof/Machine/JettyMisc.lean ====
section
/-!
DEFINITION. The other Tideline commands (12_tideline_commands.md): hints, RESEND, caps, bay reset, maintenance, module reset.
-/

namespace Sys2Proof.Machine

/-- STEP_HINT (R325, R412): a step that has passed, no steps, or a bay without a program make it a no-op. -/
def execStepHint (c : JCmd) (s : State) : Out :=
  s.parse c 0x0D true fun s =>
    let b := jBay c
    let y := s.bay b
    let n := if jField c 16 6 = 0 then y.st.next else jField c 16 6
    let h : Hint := { step := n, steps := jField c 24 4, watts := jField c 28 2 }
    let s1 := s.accept c
    if h.steps = 0 ∨ n < y.st.next ∨ y.program.isNone then s1 else s1.modBay b fun y => { y with hints := y.hints ++ [h] }

/-- The SEQ values of a range, in order; `n` is their count. -/
def seqRange : Nat → Nat → List Nat
  | 0, _ => []
  | n + 1, q => q :: seqRange n (nextSeq q)

/-- RESEND (R312): all of the range with its original bytes, or nothing. -/
def execResend (c : JCmd) (s : State) : Out :=
  s.parse c 0x13 true fun s =>
    let k := jSess c % 256
    let x := s.sess k
    let n := jField c 20 4
    let found := (seqRange (min n 65) (jField c 16 4)).map fun q => x.kept.find? fun d => d.1 == q
    if 64 < n ∨ found.any Option.isNone then s.reject c 0x9125
    else
      (found.filterMap id).foldl (fun t d =>
        t.transmit x.port (.datagram (BitVec.ofNat 16 (s.sessValue k)) x.qp (d.2.getD 0 0) d.1 d.2)) (s.accept c)

/-- CAP_SET_BAY (R405): the bay cap from the bay's next boundary; a bay without a running step stands at one. -/
def execCapSetBay (c : JCmd) (s : State) : Out :=
  s.parse c 0x18 (jField c 16 1 != 1) fun s =>
    let b := jBay c
    let w := jField c 18 2
    (s.accept c).modBay b fun y =>
      { y with pwr := if y.st.running.isSome then { y.pwr with capNext := some w } else { y.pwr with capW := w, capNext := none } }

/-- CAP_SET_MODULE (R405): the module cap from the next control period, at most the variant's continuous input power. -/
def execCapSetModule (c : JCmd) (s : State) : Out :=
  s.parse c 0x18 (jField c 16 1 == 1) fun s =>
    { s.accept c with pwr := { s.pwr with capNext := some (min (jField c 18 2) s.su.contW) } }

/-- BAY_RESET (R324, R456): a reset is asked for, or joins the one asked for or under way. -/
def execBayReset (c : JCmd) (s : State) : Out :=
  s.parse c 0x19 true fun s =>
    (s.acceptLong c).modBay (jBay c) fun y =>
      { y with hang := { y.hang with
          asked := if y.hang.resetting || y.hang.recovering then y.hang.asked else some (y.stopped.getD 0xE001)
          askers := y.hang.askers ++ [(jSess c, jId c, s.mt.ns)] } }

/-- MAINTENANCE_OPEN (R327): 0x9124 while a window is open or opening. It also rejects an ACTION above 1. -/
def execMaintenanceOpen (c : JCmd) (s : State) : Out :=
  s.parse c 0x1A (jField c 16 1 != 1) fun s =>
    if s.jetty.maint.opening.isSome then s.reject c 0x9124
    else
      let s1 := s.acceptLong c
      { s1 with jetty := { s1.jetty with
          maint := { opening := some (jSess c, jId c, s.mt.ns), busyTill := s.mt.ns + jField c 20 4 * 1000000 } } }

/-- MAINTENANCE_CLOSE (R327): the row under conversion is completed before the window closes; without a window a no-op. -/
def execMaintenanceClose (c : JCmd) (s : State) : Out :=
  s.parse c 0x1A (jField c 16 1 == 1) fun s =>
    if s.maintOpen then
      let s1 := s.acceptLong c
      { s1 with jetty := { s1.jetty with
          maint := { s1.jetty.maint with closers := s1.jetty.maint.closers ++ [(jSess c, jId c, s.mt.ns)] } } }
    else s.doneAtOnce c 0 []

/-- A permanent talus entry became a hard repair: its row is copied back, the entry and its spare row are free again (R271). -/
def State.freeTalus (s : State) (st way slot : Nat) : State :=
  match (s.stack st).talus.find? fun t => t.way == way && t.slot == slot && !t.temporary with
  | some t =>
    (s.modStack st fun k => { k.copyRow t.pc t.bank t.row (t.bank, t.row) s.netNow with talus := k.talus.erase t }).journalFree st way slot
  | none => s

/-- The soft repair of a bank of a pseudo-channel became a hard one: its row is copied out and back, and the bank's soft resource is
free again (R271). -/
def State.freeSoft (s : State) (st pc bank : Nat) : State :=
  match (talusOf s.su.journal st).soft.find? fun t => t.pc == pc && t.bank == bank with
  | some t =>
    (s.modStack st fun k => { k.copyRow pc bank t.row (bank, t.row) s.netNow with softUsed := k.softUsed.erase (pc, bank) }).journalFree st softWay
      (pc * 48 + bank)
  | none => s

/-- HARD_REPAIR_DONE (R271, R327): the window closes with the permanent entries (stack, way, slot) and the soft repairs (stack,
pseudo-channel, bank) that were converted, within the stacks' resources, freed; the bays unpark; the completions of the ACTION 0 and
of every ACTION 1 follow. -/
def execHardRepairDone (repairs : HardRepairs) (s : State) : Out :=
  let m := s.jetty.maint
  let s1 := repairs.freed.foldl (fun t f => t.freeTalus f.1 f.2.1 f.2.2) s
  let s2 := repairs.soft.foldl (fun t f => t.freeSoft f.1 f.2.1 f.2.2) s1
  let s3 := { s2 with jetty := { s2.jetty with maint := {} } }
  occurs s s.maintOpen
    ((m.opening.toList ++ m.closers).foldl (fun t u => t.complete u.1 { cmdId := u.2.1, opcode := 0x1A, start := u.2.2 }) s3)

/-- MODULE_RESET (R300, R419): both ports announce their departure; start-up begins again once they are down. -/
def execModuleReset (c : JCmd) (s : State) : Out :=
  s.parse c 0x1B true fun s =>
    let s1 := s.accept c
    { s1 with jetty := { s1.jetty with resetting := true } }.depart [0, 1] 0x9030 false

end Sys2Proof.Machine
end

