-- ==== Sys2Proof/Machine/Startup.lean ====
section
/-!
DEFINITION. Start-up (17_plotoard_image_and_startup.md R433 to R443; 16_power.md R396, R397; 21 R496): the auxiliary input, the twelve
stages, their limits.
-/

namespace Sys2Proof.Machine

/-! The auxiliary input. -/

/-- The auxiliary input comes into range: every register has its reset value, the devices keep theirs, the inputs are as they are,
REFCLK yet to be found present (R379, R380); start-up begins at S0. -/
def State.powerOn (s : State) : State :=
  { State.reset with
    pending := s.pending, free := s.free
    clk := { State.reset.clk with now := s.clk.now, elapsed := s.clk.elapsed, refAwayAt := s.clk.now }
    img := { dev := s.img.dev }
    pins := { State.reset.pins with
      aux := true, main := s.pins.main, mainHigh := s.pins.mainHigh }
    su := { State.reset.su with
      auxSince := some s.clk.now, stageAt := s.clk.now, limitAt := s.clk.now
      totalAt := s.clk.now } }

/-- AUX_POWER_ON: the first appearance of the auxiliary input. -/
def execAuxPowerOn (s : State) : Out := occurs s (!s.pins.aux && !s.pwrx.auxLost) s.powerOn

/-- AUX_INPUT_RETURN (R397): after its loss, during the hold-up too. -/
def execAuxInputReturn (s : State) : Out := occurs s s.pwrx.auxLost s.powerOn

/-- REFCLK_ABSENT_AT_S0. -/
def execRefclkAbsentAtS0 (s : State) : Out :=
  let s1 := s.suError 0x1001
  occurs s (s.inStage 0 && !s.clk.refOk && !s.su.refLogged && decide (s.su.stageAt + 1000000000 ≤ s.clk.now))
    { s1 with su := { s1.su with state := 1, held := 0x1001, refLogged := true, faultCode := 0x1001 } }

/-! Stages. -/

/-- STAGE_S0: the auxiliary input has been in range for 10 ms, and the neap clock runs on REFCLK. -/
def execStageS0 (s : State) : Out :=
  occurs s (s.inStage 0 && s.clk.refOk && !s.clk.neapSrc && s.su.auxSince.any fun t => decide (t + 10000000 ≤ s.clk.now))
    (let s1 := s.endStage 0 []
     { s1 with su := { s1.su with refLogged := false } })

/-- STAGE_S1. -/
def execStageS1 (ok : Bool) (s : State) : Out :=
  occurs s (s.inStage 1) (if ok then s.endStage 0 [] else s.stopStart 0x1010)

/-- STAGE_S2: identity, owner records, journal, slots. -/
def State.stage2 (s : State) (pub : List Byte) : State :=
  let s1 := ((s.deriveIdentity pub).readOwners).readJournals
  let a := s1.checkSlot 0 s1.img.owner s1.img.floor
  let b := s1.checkSlot 1 s1.img.owner s1.img.floor
  let s2 := (s1.noteCap a).noteCap b
  let ok (c : Code) : Bool := c == 0
  let ca := verdictCode a
  let cb := verdictCode b
  let s3 := { s2 with img := { s2.img with
    slotACode := ca, slotBCode := cb, slotAValid := ok ca, slotBValid := ok cb, slotAFailed := false, slotBFailed := false } }
  match s3.chooseSlot a b with
  | none => s3.stopStart 0xD020
  | some (i, v, passed) =>
    let s4 := if passed then
        let t := s3.suError 0xD021
        { t with img := { t.img with slotAFailed := i == 1, slotBFailed := i == 0 } }
      else s3
    (s4.useSlot i v).endStage 0
      (leBytes 1 i ++ leBytes 1 0 ++ leBytes 2 (if i = 0 then cb else ca).toNat ++ leBytes 4 0 ++ leBytes 8 v.version)

/-- STAGE_S2: the key is derived, or start-up stops with 0xC010 (R464). -/
def execStageS2 (f : S2Findings) (s : State) : Out :=
  occurs s (s.inStage 2) (if f.pufOk then s.stage2 (f.pub.take 57) else s.stopStart 0xC010)

/-- The variant's limits are in force (R431); OP_TARGET takes its reset value at the first S3 since power-on. -/
def State.setVariant (s : State) (ok : Bool) (order op cont peak us : Nat) : State :=
  let s1 := { s with su := { s.su with
    variantOk := ok, variantSet := true, order := BitVec.ofNat 2 order, maxOp := op, contW := cont, peakW := peak, peakUs := us } }
  if s.su.variantSet then { s1 with pwr := { s1.pwr with opTarget := BitVec.ofNat 4 (min op s1.pwr.opTarget.toNat) } }
  else { s1 with pwr := { s1.pwr with opTarget := if order = 0 then 7 else if order = 1 then 6 else 4 } }

/-- STAGE_S3: the first valid copy of the variant record, or E812-C. -/
def execStageS3 (s : State) : Out :=
  let pub := s.ident.pub
  let inter := (nth s.img.certs 1).getD []
  let rec_ := if !s.ident.certified then none else match s.variantAt 0 inter pub with
    | some r => some r
    | none => s.variantAt 1 inter pub
  occurs s (s.inStage 3) (match rec_ with
    | some r =>
      (s.setVariant true (fieldLe r 2 1) (fieldLe r 3 1) (fieldLe r 4 2) (fieldLe r 6 2) (fieldLe r 8 2)).endStage 0
        (leBytes 1 (fieldLe r 2 1) ++ leBytes 1 1)
    | none => ((s.setVariant false 2 4 1100 0 0).suError 0xD030).endStage 0xD030 (leBytes 1 2 ++ leBytes 1 0))

/-- STAGE_S4: without the main input, or unmated, start-up holds with 0x1020; rails that do not regulate stop it. The PLLs of S5 start. -/
def execStageS4 (regulated : Bool) (s : State) : Out :=
  occurs s (s.inStage 4)
    (if !s.pins.main || s.pins.mateN then s.holdStage 0x1020
     else if !regulated then s.stopStart 0x1021
     else (({ s with pins := { s.pins with swClosed := true }, pwrx := { s.pwrx with mainRegs := true } }).endStage 0 []).startPlls)

/-- STAGE_S5 (R382): every PLL has become stable, but for those in `failed`, which were not stable in time twice. Network time starts; the
network's tables are set. -/
def execStageS5 (failed : List (Fin 17)) (s : State) : Out :=
  let bad (p : Nat) : Bool := failed.any fun f => f.val == p
  let stop := bad 16 || bad 0 || bad 1 || bad 2 || bad 3 || (bad 4 && bad 5)
  let s1 := { s with clk := { s.clk with cnOn := true, cnBase := s.cnCycles } }
  occurs s (s.inStage 5 && (List.range 17).all fun p =>
      if bad p then (s.pll p).failed && (s.pll p).state != .stable else (s.pll p).state == .stable)
    (if stop then s.stopStart 0x1030 else (s1.loadTables).endStage 0 [])

/-- STAGE_S6: stacks that do not train, or whose PLL failed, are disabled; allocatable pages are zero (R477). Both halves
go to OP4 for S7 (R437). -/
def execStageS6 (trained : BitVec 8) (s : State) : Out :=
  let up (k : Nat) : Bool := trained.getLsbD k && (s.pll (6 + k)).state == .stable
  let s1 := (List.range 8).foldl (fun (t : State) k =>
    if up k then (t.modStack k fun x => { x.restart with trained := true }).reloadTalus k
    else (t.modStack k fun x => { (x.restart.note 0x8022 0 0 0) with disabled := true }).log 0x8022) s
  let s2 := { s1 with hbm := s1.hbm.filter fun a _ => decide (12032 * pageBytes ≤ a % stackBytes) }
  let n := ((List.range 8).map fun k => (s2.stack k).talus.length).sum
  let mask := (((List.range 8).filter up).map (2 ^ ·)).sum
  occurs s (s.inStage 6)
    ((s2.endStage (if (List.range 8).all up then 0 else 0x8022) (leBytes 1 mask ++ leBytes 3 0 ++ leBytes 4 n)).setPoints 4)

/-- How long S7 lasts at least: two passes of 8.75 s (R437); how long S8 does: PRBS31 for 4 s (R439). -/
def s7Ns : Nat := 17500000000
def s8Ns : Nat := 4000000000

/-- STAGE_S7, after both passes, with both halves at OP4 (R437). -/
def execStageS7 (failed : List (Fin 800)) (rows : List (Fin 800 × Fin 16 × Fin 2048)) (s : State) : Out :=
  occurs s (s.inStage 7 && s.bothAt 4 && decide (s.su.stageAt + s7Ns ≤ s.clk.now)) (s.stage7 (failed.map Fin.val) [] (rows.map fun r => (r.1.val, r.2.1.val, r.2.2.val)))

/-- STAGE_S8, after the patterns, with both halves at the variant's highest point (R439). -/
def execStageS8 (tide : List (Fin 800)) (seams : List (Fin 20)) (links : List (Fin 800 × Fin 6)) (s : State) : Out :=
  occurs s (s.inStage 8 && s.bothAt s.su.maxOp && decide (s.su.stageAt + s8Ns ≤ s.clk.now)) (s.stage8 (tide.map Fin.val) [] (seams.map Fin.val) (links.map fun l => (l.1.val, l.2.val)))

/-- STAGE_S9 (R440): coves that report a mismatch, or nothing, receive the standby image once more; those of a second failure are fenced and
the stage ends. -/
def execStageS9 (failed : List (Fin 800)) (s : State) : Out :=
  let bad := failed.map Fin.val
  occurs s (s.inStage 9)
    (if bad.all s.su.standbyAgain.contains then s.stage9 bad []
     else { s with su := { s.su with standbyAgain := (s.su.standbyAgain ++ bad).eraseDups } })

/-- STAGE_S10: ends once no enabled port trains; with every port down it holds with 0x1060, and the work of S11 goes on. -/
def execStageS10 (s : State) : Out :=
  let p (k : Nat) : Port := s.port k
  let low (k : Nat) : Bool := (p k).enabled && (p k).width != 3
  let code : Code := if s.su.held ≠ 0 then 0
    else if (low 0 && (p 0).up) || (low 1 && (p 1).up) then 0x9002 else if low 0 || low 1 then 0x9001 else 0
  let lanes (k : Nat) : Nat := ((List.range 4).map fun l => ((p k).lanes.getD l 0).toNat * 4 ^ l).sum
  let detail := leBytes 1 (p 0).width.toNat ++ leBytes 1 (p 1).width.toNat ++ leBytes 1 (lanes 0) ++ leBytes 1 (lanes 1)
  let ended := s.endStage code detail
  let held := s.holdStage 0x1060
  occurs s (s.inStage 10 && !(p 0).training && !(p 1).training)
    (if !(p 0).up && !(p 1).up then { held with su := { held.su with faultCode := 0x1060 } }
     else if s.su.s11Done then ended.finishS11 else ended)

/-- CARGO_READ_COMPLETE: the section is in the target bay's HBM at CACHE_ADDR; its digest is checked. The read takes 2.5 ns a byte. -/
def execCargoReadComplete (s : State) : Out :=
  match s.img.cargo with
  | none => .next s
  | some (off, len) =>
    let bs := s.cargoBytes
    let good := decide (off + len ≤ slotBytes) && digest32 bs == s.img.cargoDigest
    let s1 := match s.img.bays.find? fun r => r.bay == cargoBay bs with
      | some r => s.putRecord r (s.netNow + BitVec.ofNat 16 dlDma) (fieldLe bs 40 8) (bs.drop 16)
      | none => s
    let s2 := if good then s1 else s1.suError 0xD040
    occurs s ((s.inStage 10 || s.inStage 11) && s.su.cargoRead.isNone && !s.su.s11Done
        && decide (5 * len ≤ 2 * (s.clk.now - s.su.s10At)))
      { s2 with su := { s2.su with cargoRead := some (if good then 0 else 0xD040) } }

/-- STAGE_S11: after the cargo read, or while S10 holds; then S10's end ends it too. -/
def execStageS11 (s : State) : Out :=
  occurs s ((s.inStage 11 || (s.inStage 10 && s.su.held == 0x1060)) && !s.su.s11Done
      && (s.img.cargo.isNone || s.su.cargoRead.isSome))
    (if s.inStage 11 then s.stage11.finishS11 else s.stage11)

/-- Limits of the stages in nanoseconds (Table 17.12); none where a stage holds. -/
def stageLimit (n : Nat) : Option Nat :=
  [none, some 2000000000, some 30000000000, some 1000000000, some 2000000000, some 10000000, some 20000000000, some 60000000000,
    some 20000000000, some 1000000000, none, some 60000000000].getD n none

/-- STAGE_LIMIT_EXPIRY (R434): in S7 to S9 the `unfinished` coves fail and the stage ends; the limit of S11 counts from the start of S10. -/
def execStageLimitExpiry (unfinished : List (Fin 800)) (s : State) : Out :=
  let n := s.su.stage.toNat
  let from_ := if n = 11 then s.su.s10At else s.su.limitAt
  let us := unfinished.map Fin.val
  let s1 := s.suError 0x1061
  occurs s (s.inStage n && s.su.state == 0 && (stageLimit n).any fun d => decide (from_ + d ≤ s.clk.now))
    (if n = 7 then s1.stage7 [] us [] else if n = 8 then s1.stage8 [] us [] [] else if n = 9 then s1.stage9 [] us
     else s.stopStart 0x1061)

/-- SU_IMG_VER_LO_READ (R443): the high word is latched. -/
def execSuImgVerLoRead (who : Requester) (s : State) : Out :=
  occurs s (s.isOwner who) (s.latch who 0xF00000000110 (s.img.version.extractLsb' 32 32))

end Sys2Proof.Machine
end

