-- ==== Sys2Proof/Machine/Management.lean ====
section
/-!
DEFINITION. Identity registers, the log and the non-volatile write window (19_identity_and_attestation.md R472, R478;
20_management_map.md R487 to R490).
-/

namespace Sys2Proof.Machine

/-! Identity (R478). -/

/-- IKID: the first 8 bytes of SHAKE256 of the identity public key, 0 before it is derived. -/
def State.ikid (s : State) : Nat := if s.ident.derived then leNat (keyId s.ident.pub) else 0

/-- Effective owner SEQ. -/
def State.ownerSeq (s : State) : Nat :=
  match s.img.owner with
  | some o => o.seq
  | none => 0

/-- The pairs of the identity block: KID, OWNER_SEQ, FLOOR; their low word's address and value. -/
def State.idPair (s : State) (pair : Nat) : Nat × Nat :=
  if pair = 0 then (0xF00000000204, s.ikid) else if pair = 1 then (0xF0000000020C, s.ownerSeq) else (0xF00000000214, s.img.floor)

/-- ID_LO_READ (R478): the high word is latched for the requester. -/
def execIdLoRead (who : Requester) (pair : Fin 3) (s : State) : Out :=
  let p := s.idPair pair
  occurs s (s.anySession who) (s.latch who (BitVec.ofNat 48 p.1) (BitVec.ofNat 32 (p.2 / 2 ^ 32)))

/-! The log (R488, R489). -/

/-- An entry's 64 bytes (Table 20.5). -/
def LogEntry.bytes (e : LogEntry) : List Byte :=
  leBytes 8 e.time ++ leBytes 2 e.code.toNat ++ leBytes 1 e.kind.toNat ++ leBytes 1 e.stage.toNat ++ leBytes 2 e.cove.toNat
    ++ leBytes 1 e.bay.toNat ++ leBytes 1 0 ++ e.detail.take 48 ++ List.replicate (48 - e.detail.length) 0

/-- Bytes in use of an entry: at least the 16 of its head, without trailing zeros. -/
def usedBytes (bs : List Byte) : Nat := max 16 (bs.reverse.dropWhile fun b => b == 0).length

/-- Entry `n`, if it is among the newest that Headland holds. -/
def State.logEntry (s : State) (n : Nat) : Option LogEntry :=
  if 1 ≤ n ∧ n ≤ s.mg.logHead then nth s.mg.log (s.mg.logHead - n) else none

/-- The entry's bytes are presented. -/
def State.present (s : State) (bs : List Byte) : State :=
  { s with mg := { s.mg with valid := true, pending := false, len := BitVec.ofNat 7 (usedBytes bs), data := BitVec.ofNat 512 (leNat bs) } }

/-- No entry is presented; `fetch` says that one is being fetched. -/
def State.presentNone (s : State) (fetch : Bool) : State :=
  { s with mg := { s.mg with valid := false, pending := fetch, len := 0, data := 0 } }

/-- Is entry `n` in the devices' ring of 65,536? -/
def State.inRing (s : State) (n : Nat) : Bool := decide (1 ≤ n ∧ n ≤ s.mg.copied ∧ s.mg.copied < n + 65536)

/-- Device offset of entry `n`. -/
def logSlot (n : Nat) : Nat := logStart + ((n - 1) % 65536) * 64

/-- MG_LOG_SEL_WRITE (R489). -/
def execMgLogSelWrite (who : Requester) (value : BitVec 32) (s : State) : Out :=
  let s1 := { s with mg := { s.mg with sel := value } }
  occurs s (s.isOwner who)
    (match s.logEntry value.toNat with
      | some e => s1.present e.bytes
      | none => s1.presentNone (s.inRing value.toNat))

/-- LOG_FETCH_COMPLETE (R489): the entry is presented unless it has been overwritten. -/
def execLogFetchComplete (s : State) : Out :=
  let n := s.mg.sel.toNat
  occurs s s.mg.pending (if s.inRing n then s.present (s.devBytes 0 (logSlot n) 64) else s.presentNone false)

/-- LOG_DEVICE_COPY (R488): the oldest entry that is not yet on the devices goes to both. -/
def execLogDeviceCopy (s : State) : Out :=
  let n := max (s.mg.copied + 1) (s.mg.logHead + 1 - s.mg.log.length)
  match s.logEntry n with
  | none => .next s
  | some e =>
    let s1 := (s.putDev 0 (logSlot n) e.bytes).putDev 1 (logSlot n) e.bytes
    .next { s1 with mg := { s1.mg with copied := n } }

/-! The non-volatile write window (R472, R490). -/

/-- The 256 bytes of NV_DATA. -/
def State.nvBytes (s : State) : List Byte := (List.range 64).flatMap fun w => leBytes 4 (s.mg.nvData.get 0 w).toNat

/-- A GO of the kind is taken: from an OWNER session, while no write is in progress. -/
def State.nvTakes (s : State) (who : Requester) (kind : Bool) : Bool :=
  s.isOwner who && s.mg.nvState != 1 && s.mg.nvTarget.getLsbD 0 == kind

/-- The write is refused with a code. -/
def State.nvRefuse (s : State) (code : Code) : State := { s with mg := { s.mg with nvState := 3, nvCode := code, nvGo := false } }

/-- The write is under way; `todo` goes to the devices when it ends. -/
def State.nvBegin (s : State) (todo : List (Nat × List Byte)) : State :=
  { s with mg := { s.mg with nvState := 1, nvCode := 0, nvGo := true, nvTodo := todo } }

/-- Offset of the first free slot of a device's owner area. -/
def State.freeOwnerSlot (s : State) (d : Nat) : Option Nat :=
  ((List.range 256).map fun i => 0x10000 + 256 * i).find? fun o => blank (s.devBytes d o 256)

/-- NV_GO_OWNER_RECORD (R472): a record that is not valid, or not above the effective one, is refused with 0xC032. -/
def execNvGoOwnerRecord (who : Requester) (s : State) : Out :=
  let bs := s.nvBytes
  let ok := ownerValid (s.validOwners s.ident.pub) bs s.ident.pub && decide (s.ownerSeq < fieldLe bs 4 8)
  let put (d : Nat) : List (Nat × List Byte) := (s.freeOwnerSlot d).toList.map fun o => (devKey d o, bs)
  occurs s (s.nvTakes who false) (if ok then s.nvBegin (put 0 ++ put 1) else (s.identErr 0xC032).nvRefuse 0xC032)

/-- NV_GO_SLOT_CHUNK (R490): the slot in use, or an offset beyond the slot, is refused with 0xD060. -/
def execNvGoSlotChunk (who : Requester) (s : State) : Out :=
  let i := if s.mg.nvTarget.getLsbD 23 then 1 else 0
  let chunk := bits s.mg.nvTarget 1 22
  occurs s (s.nvTakes who true)
    (if s.img.slot = some i ∨ 4161536 ≤ chunk then s.nvRefuse 0xD060 else s.nvBegin [(devKey i (slotStart + chunk * 256), s.nvBytes)])

/-- NV_WRITE_COMPLETE (R490). -/
def execNvWriteComplete (s : State) : Out :=
  let dev := s.mg.nvTodo.foldl (fun (m : Memory) w => memSetBytes m w.1 w.2) s.img.dev
  occurs s (s.mg.nvState == 1)
    { s with img := { s.img with dev := dev }, mg := { s.mg with nvState := 2, nvGo := false, nvTodo := [] } }

end Sys2Proof.Machine
end

