-- ==== Sys2Proof/Machine/PebbleVec.lean ====
section
/-!
DEFINITION. Vector instructions (05 Table 5.6, R110 to R113).
-/

namespace Sys2Proof.Machine

/-- A vector instruction that completes with a new state of the core and flushed values counted (R110). -/
def vecOp (s : State) (at_ : CoreRef) (illegal : Bool) (u : Uses) (f : PCore → PCore × Nat) : Out :=
  issue s at_ never illegal u fun s =>
    (s.countDnorm at_.cove (f (s.core at_)).2).retireNext at_ fun k => (f k).1

/-- Is MOD[1:0] a reserved rounding mode (R110)? -/
def badRound (w : VFields) : Bool := w.mod.getLsbD 1

/-- A floating-point instruction: MOD[5:2] zero else illegal, MOD[1:0] reserved raises 0x4013 (R110). -/
def fltOp (s : State) (at_ : CoreRef) (w : VFields) (illegal : Bool) (u : Uses) (f : Bool → PCore → PCore × Nat) : Out :=
  issue s at_ never (illegal || w.mod.extractLsb' 2 4 != 0) u fun s =>
    if badRound w then s.exception at_ 0x4013
    else
      let g := f (w.mod.getLsbD 0)
      (s.countDnorm at_.cove (g (s.core at_)).2).retireNext at_ fun k => (g k).1

/-- The registers of a two-operand vector instruction. -/
def useVV (w : VFields) : Uses := { v := [w.va.toNat, w.vb.toNat], wv := [w.vd.toNat] }
/-- The registers of a one-operand vector instruction. -/
def useV (w : VFields) : Uses := { v := [w.va.toNat], wv := [w.vd.toNat] }

/-- VINT: per 32-bit lane; MOD and RS are unused (Table 5.5). -/
def vint (s : State) (at_ : CoreRef) (w : VFields) (f : Word → Word → Word) : Out :=
  vecOp s at_ (w.mod != 0 || w.rs != 0) (useVV w) fun k =>
    (k.wv w.vd.toNat (rowOfWords (List.zipWith f (words (k.rv w.va.toNat)) (words (k.rv w.vb.toNat)))), 0)

/-- VADD.I32. -/
def execVaddI32 (at_ : CoreRef) (w : VFields) (s : State) : Out := vint s at_ w fun a b => a + b
/-- VSUB.I32. -/
def execVsubI32 (at_ : CoreRef) (w : VFields) (s : State) : Out := vint s at_ w fun a b => a - b
/-- VAND. -/
def execVand (at_ : CoreRef) (w : VFields) (s : State) : Out := vint s at_ w fun a b => a &&& b
/-- VOR. -/
def execVor (at_ : CoreRef) (w : VFields) (s : State) : Out := vint s at_ w fun a b => a ||| b
/-- VXOR. -/
def execVxor (at_ : CoreRef) (w : VFields) (s : State) : Out := vint s at_ w fun a b => a ^^^ b
/-- VMIN.I32. -/
def execVminI32 (at_ : CoreRef) (w : VFields) (s : State) : Out := vint s at_ w fun a b => if a.slt b then a else b
/-- VMAX.I32. -/
def execVmaxI32 (at_ : CoreRef) (w : VFields) (s : State) : Out := vint s at_ w fun a b => if a.slt b then b else a
/-- VMUL.I32: the low 32 bits. -/
def execVmulI32 (at_ : CoreRef) (w : VFields) (s : State) : Out := vint s at_ w fun a b => a * b

/-- Lane results with their flush counts, as a register and a sum. -/
def gather32 (l : List (Word × Nat)) : Row × Nat := (rowOfWords (l.map Prod.fst), (l.map Prod.snd).sum)
def gather16 (l : List (BitVec 16 × Nat)) : Row × Nat := (rowOfHalves (l.map Prod.fst), (l.map Prod.snd).sum)

/-- VFLT over FP32 lanes with two operands; RS is unused. -/
def vflt2 (s : State) (at_ : CoreRef) (w : VFields) (f : Bool → Word → Word → Word × Nat) : Out :=
  fltOp s at_ w (w.rs != 0) (useVV w) fun rz k =>
    let r := gather32 (List.zipWith (f rz) (words (k.rv w.va.toNat)) (words (k.rv w.vb.toNat)))
    (k.wv w.vd.toNat r.1, r.2)

/-- VFLT over FP32 lanes with one operand; VB and RS are unused. -/
def vflt1 (s : State) (at_ : CoreRef) (w : VFields) (f : Word → Word × Nat) : Out :=
  fltOp s at_ w (w.rs != 0 || w.vb != 0) (useV w) fun _ k =>
    let r := gather32 ((words (k.rv w.va.toNat)).map f)
    (k.wv w.vd.toNat r.1, r.2)

/-- VADD.F32. -/
def execVaddF32 (at_ : CoreRef) (w : VFields) (s : State) : Out := vflt2 s at_ w f32Add
/-- VSUB.F32. -/
def execVsubF32 (at_ : CoreRef) (w : VFields) (s : State) : Out := vflt2 s at_ w f32Sub
/-- VMUL.F32. -/
def execVmulF32 (at_ : CoreRef) (w : VFields) (s : State) : Out := vflt2 s at_ w f32Mul
/-- VFMA.F32: v[VA] × v[VB] + v[VD], one rounding; RS is not examined (Table 5.6). -/
def execVfmaF32 (at_ : CoreRef) (w : VFields) (s : State) : Out :=
  fltOp s at_ w false { v := [w.va.toNat, w.vb.toNat, w.vd.toNat], wv := [w.vd.toNat] } fun rz k =>
    let ab := (words (k.rv w.va.toNat)).zip (words (k.rv w.vb.toNat))
    let r := gather32 (List.zipWith (fun p c => f32Fma rz p.1 p.2 c) ab (words (k.rv w.vd.toNat)))
    (k.wv w.vd.toNat r.1, r.2)
/-- VMAX.F32. -/
def execVmaxF32 (at_ : CoreRef) (w : VFields) (s : State) : Out := vflt2 s at_ w fun _ => f32Max false
/-- VMIN.F32. -/
def execVminF32 (at_ : CoreRef) (w : VFields) (s : State) : Out := vflt2 s at_ w fun _ => f32Max true
/-- VEXP2.F32 (R112). -/
def execVexp2F32 (at_ : CoreRef) (w : VFields) (s : State) : Out := vflt1 s at_ w f32Exp2
/-- VRCP.F32 (R112). -/
def execVrcpF32 (at_ : CoreRef) (w : VFields) (s : State) : Out := vflt1 s at_ w f32Rcp
/-- VRSQ.F32 (R112). -/
def execVrsqF32 (at_ : CoreRef) (w : VFields) (s : State) : Out := vflt1 s at_ w f32Rsq

/-- VFLT over BF16 lanes. -/
def vfltH (s : State) (at_ : CoreRef) (w : VFields) (f : Bool → BitVec 16 → BitVec 16 → BitVec 16 × Nat) : Out :=
  fltOp s at_ w (w.rs != 0) (useVV w) fun rz k =>
    let r := gather16 (List.zipWith (f rz) (halves (k.rv w.va.toNat)) (halves (k.rv w.vb.toNat)))
    (k.wv w.vd.toNat r.1, r.2)

/-- VADD.BF16. -/
def execVaddBf16 (at_ : CoreRef) (w : VFields) (s : State) : Out := vfltH s at_ w bf16Add
/-- VMUL.BF16. -/
def execVmulBf16 (at_ : CoreRef) (w : VFields) (s : State) : Out := vfltH s at_ w bf16Mul

/-- Neighbouring pairs combined, in order (R111). -/
def pairUp {α : Type} (f : α → α → α) : List α → List α
  | a :: b :: t => f a b :: pairUp f t
  | l => l

/-- The fixed tree of R111 over 16 lanes. -/
def tree16 {α : Type} (f : α → α → α) (l : List α) : List α := pairUp f (pairUp f (pairUp f (pairUp f l)))

/-- VRED: into g[RS]; VD, VB and MOD are unused. -/
def vred (s : State) (at_ : CoreRef) (w : VFields) (f : List Word → Word × Nat) : Out :=
  vecOp s at_ (w.vd != 0 || w.vb != 0 || w.mod != 0) { v := [w.va.toNat], wg := [w.rs] } fun k =>
    let r := f (words (k.rv w.va.toNat))
    (k.wg w.rs r.1, r.2)

/-- VREDSUM.F32 (R111). -/
def execVredsumF32 (at_ : CoreRef) (w : VFields) (s : State) : Out := vred s at_ w fun l =>
  let add (a b : Word × Nat) : Word × Nat := let r := f32Add false a.1 b.1; (r.1, a.2 + b.2 + r.2)
  ((tree16 add (l.map fun x => (x, 0))).head?).getD (0, 0)
/-- VREDMAX.F32 (R111). -/
def execVredmaxF32 (at_ : CoreRef) (w : VFields) (s : State) : Out := vred s at_ w fun l =>
  let mx (a b : Word × Nat) : Word × Nat := let r := f32Max false a.1 b.1; (r.1, a.2 + b.2 + r.2)
  ((tree16 mx (l.map fun x => (x, 0))).head?).getD (0, 0)
/-- VREDSUM.I32: wrapping. -/
def execVredsumI32 (at_ : CoreRef) (w : VFields) (s : State) : Out := vred s at_ w fun l => (l.foldl (· + ·) 0, 0)
/-- VREDMAX.I32: signed. -/
def execVredmaxI32 (at_ : CoreRef) (w : VFields) (s : State) : Out := vred s at_ w fun l =>
  (l.foldl (fun a b => if a.slt b then b else a) 0x80000000, 0)

/-- VBCAST: every lane of v[VD] becomes g[RS]. -/
def execVbcast (at_ : CoreRef) (w : VFields) (s : State) : Out :=
  vecOp s at_ false { g := [w.rs], wv := [w.vd.toNat] } fun k =>
    (k.wv w.vd.toNat (rowOfWords (List.replicate 16 (k.rg w.rs))), 0)
/-- VEXT: g[RS] becomes lane MOD[3:0] of v[VA]. -/
def execVext (at_ : CoreRef) (w : VFields) (s : State) : Out :=
  vecOp s at_ false { v := [w.va.toNat], wg := [w.rs] } fun k =>
    (k.wg w.rs (lane (k.rv w.va.toNat) (w.mod.toNat % 16)), 0)
/-- VINS: lane MOD[3:0] of v[VD] becomes g[RS]; the others are kept. -/
def execVins (at_ : CoreRef) (w : VFields) (s : State) : Out :=
  vecOp s at_ false { g := [w.rs], v := [w.vd.toNat], wv := [w.vd.toNat] } fun k =>
    (k.wv w.vd.toNat (rowOfWords ((words (k.rv w.vd.toNat)).set (w.mod.toNat % 16) (k.rg w.rs))), 0)
/-- VCOPY: v[VD] becomes v[VA]. -/
def execVcopy (at_ : CoreRef) (w : VFields) (s : State) : Out :=
  vecOp s at_ false (useV w) fun k => (k.wv w.vd.toNat (k.rv w.va.toNat), 0)

/-- VF2BF: BF16 lanes 0 to 15 from v[VA], 16 to 31 from v[VB]; a clipped element counts SAT (R73). -/
def execVf2bf (at_ : CoreRef) (w : VFields) (s : State) : Out :=
  issue s at_ never (w.rs != 0 || w.mod.extractLsb' 2 4 != 0) (useVV w) fun s =>
    if badRound w then s.exception at_ 0x4013
    else
      let k := s.core at_
      let l := (words (k.rv w.va.toNat) ++ words (k.rv w.vb.toNat)).map (f32ToBf16 (w.mod.getLsbD 0))
      let ev := l.foldl (fun (e : Events) x => e.add x.2) ({} : Events)
      let s1 := s.modCove at_.cove fun c => c.modBrk fun b => { b with ctr := countEvents b.ctr ev.sat 0 0 ev.dnorm 0 }
      s1.retireNext at_ fun k => k.wv w.vd.toNat (rowOfHalves (l.map Prod.fst))

/-- VBF2F: widened exactly, but for a flushed subnormal (R66); VB and RS are unused. -/
def vwiden (s : State) (at_ : CoreRef) (w : VFields) (hi : Nat) : Out :=
  vecOp s at_ (w.vb != 0 || w.rs != 0) (useV w) fun k =>
    let r := gather32 (((halves (k.rv w.va.toNat)).drop hi).take 16 |>.map fun h =>
      let x := bf16Val h; (f32Bits x.1, x.2))
    (k.wv w.vd.toNat r.1, r.2)

/-- VBF2F.LO. -/
def execVbf2fLo (at_ : CoreRef) (w : VFields) (s : State) : Out := vwiden s at_ w 0
/-- VBF2F.HI. -/
def execVbf2fHi (at_ : CoreRef) (w : VFields) (s : State) : Out := vwiden s at_ w 16
/-- VF2I: rounds under MOD[1:0], clips to INT32, NaN to 0. -/
def execVf2i (at_ : CoreRef) (w : VFields) (s : State) : Out :=
  fltOp s at_ w (w.vb != 0 || w.rs != 0) (useV w) fun rz k =>
    let r := gather32 ((words (k.rv w.va.toNat)).map (f32ToInt rz))
    (k.wv w.vd.toNat r.1, r.2)
/-- VI2F. -/
def execVi2f (at_ : CoreRef) (w : VFields) (s : State) : Out :=
  fltOp s at_ w (w.vb != 0 || w.rs != 0) (useV w) fun rz k =>
    (k.wv w.vd.toNat (rowOfWords ((words (k.rv w.va.toNat)).map (intToF32 rz))), 0)

/-- Faults of a pack's format code and block size (R113): the format code stands in the word, the size in g[RS]. -/
def packFault (fmt blk : Nat) : Option Code :=
  if !fmtBlock fmt then some 0x4011
  else if blk = 0 then some 0x4010
  else if blk ≠ 32 then some 0x4012
  else none

/-- VPACK (R113): 32 FP32 values to one block in v[VD], its scale in byte 32. -/
def execVpack (at_ : CoreRef) (w : VFields) (s : State) : Out :=
  issue s at_ never false { g := [w.rs], v := [w.va.toNat, w.vb.toNat], wv := [w.vd.toNat] } fun s =>
    let k := s.core at_
    let fmt := w.mod.toNat % 16
    match packFault fmt ((k.rg w.rs).toNat % 64) with
    | some code => s.exception at_ code
    | none =>
      let xs := (words (k.rv w.va.toNat) ++ words (k.rv w.vb.toNat)).map f32Val
      let (blk, scale, ev) :=
        convBlock fmt (if w.mod.getLsbD 5 then 1 else 0) (w.mod.getLsbD 4) (fun _ => 0) (xs.map Prod.fst)
      let s1 := s.modCove at_.cove fun c => c.modBrk fun b =>
        { b with ctr := countEvents b.ctr ev.sat ev.ovf ev.unf (xs.map Prod.snd).sum ev.invalid }
      s1.retireNext at_ fun k => k.wv w.vd.toNat (BitVec.ofNat 512 (blk + scale * 2 ^ 256))

/-- Does an element count INVALID when it is read: a NaN, an element under a NaN scale, an invalid ET byte's (R71)? -/
def elemInvalid (scale : Nat) (x : Elem) : Bool := scale == 255 || x == .nan || x == .bad

/-- VUNPACK (R113): a block to 32 FP32 values, elements 0 to 15 to v[VD], 16 to 31 to v[VB]. DESIGN CHOICE (log entry 177): with VD = VB
elements 16 to 31 remain. -/
def execVunpack (at_ : CoreRef) (w : VFields) (s : State) : Out :=
  issue s at_ never false { g := [w.rs], v := [w.va.toNat], wv := [w.vd.toNat, w.vb.toNat] } fun s =>
    let k := s.core at_
    let fmt := w.mod.toNat % 16
    match packFault fmt ((k.rg w.rs).toNat % 64) with
    | some code => s.exception at_ code
    | none =>
      let x := (k.rv w.va.toNat).toNat
      let scale := x / 2 ^ 256 % 256
      let es := (List.range 32).map (blockElem fmt x)
      let rs := es.map fun e => toF32Sat (elemVal fmt scale e)
      let ev := rs.foldl (fun (e : Events) r => e.add r.2) ({} : Events)
      let bad := (es.filter (elemInvalid scale)).length
      let ws := rs.map Prod.fst
      let s1 := s.modCove at_.cove fun c => c.modBrk fun b =>
        { b with ctr := countEvents b.ctr ev.sat 0 0 ev.dnorm bad }
      s1.retireNext at_ fun k =>
        (k.wv w.vd.toNat (rowOfWords (ws.take 16))).wv w.vb.toNat (rowOfWords (ws.drop 16))

end Sys2Proof.Machine
end

