-- ==== Sys2Proof/Machine/PinOps.lean ====
section
/-!
DEFINITION. The module's pins and its TAP (17_plotoard_image_and_startup.md R435; 21_module_electrical.md R496, R497, R501 to R504).
-/

namespace Sys2Proof.Machine

/-! Status pins. -/

/-- The SOUND code (Table 17.13). -/
def State.soundCode (s : State) : BitVec 4 :=
  if s.su.state = 3 then 0xE else if s.su.state = 2 then (if s.parked then 0xD else 0xC) else s.su.stage

/-- The status pins as the module drives them: SOUND0 to SOUND3, FAULT_N (low while asserted). -/
def State.statusPins (s : State) : BitVec 5 :=
  BitVec.ofNat 5 (s.soundCode.toNat + if s.faultPin then 0 else 16)

/-- The boundary register as SAMPLE captures it: an output and an enable cell for each pin; FAULT_N is enabled while it is driven low. -/
def State.sampled (s : State) : BitVec 10 :=
  let cell (i : Nat) : Nat := (if s.statusPins.getLsbD i then 1 else 0) + if i < 4 ∨ s.faultPin then 2 else 0
  BitVec.ofNat 10 ((List.range 5).map fun i => cell i * 4 ^ i).sum

/-- The level on a status pin: from the boundary register under EXTEST, else the status; undriven pins are pulled up (R501, R503). -/
def State.pinLevel (s : State) (i : Nat) : Bool :=
  if !s.pins.aux then true
  else if s.pins.extest then !s.pins.boundary.getLsbD (2 * i + 1) || s.pins.boundary.getLsbD (2 * i)
  else s.statusPins.getLsbD i

/-! MATE_N (R496, R497). -/

/-- MATE_N_HIGH, watched while VAUX12 is present: with the switch closed the module says so to its sessions, then parks and opens the switch
(`mateCycle`); parked already, it only opens it. -/
def execMateNHigh (s : State) : Out :=
  let s1 := { s with pins := { s.pins with mateN := true } }
  let s2 := (s1.pwrError 0x3035).lastNotice 0x3035
  occurs s s.auxOk
    (if !s.pins.swClosed || s.pins.mateAt.isSome then s1
     else if s.parked then s1.openSwitch
     else { s2 with pins := { s2.pins with mateAt := some s.clk.now } })

/-- MATE_N_LOW: low for 100 ms, MATE_N lets the switch close at S4. -/
def execMateNLow (s : State) : Out :=
  let s1 := (s.unpark .mate).resumeS4
  occurs s s.auxOk { s1 with pins := { s1.pins with mateN := false } }

/-! The TAP (R502 to R504). It answers while VAUX12 is present. -/

/-- An instruction is loaded: the TAP is out of reset, and EXTEST lets go of the pins unless it is loaded. -/
def State.loadIr (s : State) (ir : BitVec 6) : State :=
  { s with pins := { s.pins with tapIr := ir, tapReset := false, extest := ir == 0 } }

/-- An instruction that sets JTAG_USED is loaded. -/
def State.usesJtag (s : State) : State := { s with ident := { s.ident with jtagUsed := true } }

/-- JTAG_TAP_RESET: TRST_N low; IDCODE is selected, as IEEE 1149.1 has it. -/
def execJtagTapReset (s : State) : Out :=
  .next { s with pins := { s.pins with tapIr := 1, tapReset := true, extest := false } }

/-- EXTEST: the pins follow the boundary register. -/
def execExtest (cells : BitVec 10) (s : State) : Out :=
  let s1 := s.loadIr 0
  occurs s s.pins.aux { s1 with pins := { s1.pins with boundary := cells } }

/-- IDCODE: version 0x1, part 0x0812, manufacturer 0x6D9. -/
def execIdcode (s : State) : Out :=
  let s1 := s.loadIr 1
  occurs s s.pins.aux { s1 with pins := { s1.pins with capture := 0x10812DB3 } }

/-- SAMPLE/PRELOAD: the five pins are sampled into the boundary register. -/
def execSamplePreload (s : State) : Out :=
  let s1 := s.loadIr 2
  occurs s s.pins.aux { s1 with pins := { s1.pins with boundary := s.sampled } }

/-- BYPASS, and every code that is not decoded. -/
def execBypass (s : State) : Out := occurs s s.pins.aux (s.loadIr 0x3F)

/-- HL_ACCESS: Update-DR starts a read and abandons an unfinished one. -/
def execHlAccess (dr : BitVec 64) (s : State) : Out :=
  let s1 := (s.loadIr 0x10).usesJtag
  occurs s s.pins.aux
    { s1 with pins := { s1.pins with hlOff := dr.setWidth 28, hlBusy := true, hlValid := false, hlDenied := false, hlData := 0 } }

/-- MOD_RESET: a module reset as MODULE_RESET requests it; a stopped module starts again at once. -/
def execModReset (s : State) : Out :=
  let s1 := (s.loadIr 0x11).usesJtag
  occurs s s.pins.aux
    (if s.su.state = 3 then s1.restart
     else { s1 with jetty := { s1.jetty with resetting := true } }.depart [0, 1] 0x9030 false)

end Sys2Proof.Machine
end

