-- ==== Sys2Proof/Machine/RegModule.lean ====
section
/-!
DEFINITION. What the registers of the module blocks read as, offset by offset (20_management_map.md R480, R481, R487, R490; 17 R443;
19 R478; 15 R393; 14 R376; 11 R302; 13 R348; 12 R329; 16 R416), and their RC fields. Reserved bits and offsets read 0 (R8).
-/

namespace Sys2Proof.Machine

/-- A register word from its fields: lowest bit, width, value. -/
def pack (l : List (Nat × Nat × Nat)) : Word :=
  BitVec.ofNat 32 (l.map fun f => f.2.2 % 2 ^ f.2.1 * 2 ^ f.1).sum

/-- The low and high words of a 64-bit number. -/
def loWord (n : Nat) : Word := BitVec.ofNat 32 n
def hiWord (n : Nat) : Word := BitVec.ofNat 32 (n / 2 ^ 32)

/-- Word `w` of a byte list, little-endian, 0 beyond its end. -/
def byteWord (bs : List Byte) (w : Nat) : Word := BitVec.ofNat 32 (fieldLe bs (4 * w) 4)

/-- Bits of the numbers below `n` that `p` holds of. -/
def maskOf (n : Nat) (p : Nat → Bool) : Nat := ((List.range n).map fun i => (p i).toNat * 2 ^ i).sum

/-- The count of the numbers below `n` that `p` holds of. -/
def countOf (n : Nat) (p : Nat → Bool) : Nat := ((List.range n).filter p).length

/-- Common block (R487). -/
def State.mgWord (s : State) (o : Nat) : Word :=
  if o = 0 then 0x00010812
  else if o < 0x14 then byteWord s.mg.serial (o / 4 - 1)
  else if o = 0x14 then
    pack [(0, 4, s.soundCode.toNat), (4, 1, s.faultPin.toNat), (5, 1, s.parked.toNat), (6, 1, s.clk.lost.toNat),
      (7, 1, s.pwr.capUnmet.toNat), (8, 2, maskOf 2 fun p => (s.port p).up), (10, 16, maskOf 16 fun b => (s.bay b).stopped.isSome)]
  else if o = 0x18 then pack [(0, 16, s.su.faultCode.toNat)]
  else if o = 0x1C then loWord s.mg.logHead
  else if o = 0x20 then s.mg.sel
  else if o = 0x24 then pack [(0, 7, s.mg.len.toNat), (7, 1, s.mg.valid.toNat), (8, 1, s.mg.pending.toNat)]
  else if 0x40 ≤ o then BitVec.ofNat 32 (s.mg.data.toNat / 2 ^ (8 * (o - 0x40)))
  else 0

/-- Start-up block (R443). -/
def State.suWord (s : State) (o : Nat) : Word :=
  if o = 0 then
    pack [(0, 4, s.su.stage.toNat), (4, 2, s.su.state.toNat), (6, 1, (s.img.slot == some 1).toNat), (7, 1, s.su.variantOk.toNat),
      (8, 2, s.su.order.toNat)]
  else if o = 4 then pack [(0, 16, s.su.errCode.toNat), (16, 4, s.su.errStage.toNat)]
  else if o = 8 then pack [(0, 16, s.img.slotACode.toNat), (16, 1, s.img.slotAValid.toNat), (17, 1, s.img.slotAFailed.toNat)]
  else if o = 0xC then pack [(0, 16, s.img.slotBCode.toNat), (16, 1, s.img.slotBValid.toNat), (17, 1, s.img.slotBFailed.toNat)]
  else if o = 0x10 then loWord s.img.version.toNat
  else if o = 0x14 then hiWord s.img.version.toNat
  else if o = 0x18 then pack [(0, 12, s.su.jUsed.toNat), (12, 1, s.su.compacting.toNat)]
  else if o = 0x1C then s.su.totalMs
  else if 0x40 ≤ o ∧ o < 0x70 then
    let d := s.su.sounds.get {} ((o - 0x40) / 4)
    pack [(0, 2, d.result.toNat), (2, 1, d.done.toNat), (16, 16, d.code.toNat)]
  else if 0x80 ≤ o then (s.su.sounds.get {} ((o - 0x80) / 4)).dur
  else 0

/-- Identity block (R478). -/
def State.idWord (s : State) (o : Nat) : Word :=
  if o = 0 then
    pack [(0, 1, s.ident.derived.toNat), (1, 1, s.ident.certified.toNat), (2, 1, s.img.owner.isSome.toNat),
      (3, 1, s.ident.jtagUsed.toNat), (4, 5, s.ident.queue.length)]
  else if o = 4 then loWord s.ikid
  else if o = 8 then hiWord s.ikid
  else if o = 0xC then loWord s.ownerSeq
  else if o = 0x10 then hiWord s.ownerSeq
  else if o = 0x14 then loWord s.img.floor
  else if o = 0x18 then hiWord s.img.floor
  else if o = 0x1C then pack [(0, 16, s.ident.lastErr.toNat)]
  else if o = 0x20 then s.ident.attests
  else if 0x40 ≤ o then byteWord s.ident.pub ((o - 0x40) / 4)
  else 0

/-- Codes of the PLL states (Table 15.6). -/
def PllState.num : PllState → Nat
  | .off => 0
  | .acquiring => 1
  | .stable => 2
  | .coasting => 3

/-- Clock block (R393). The lock detector of a PLL that acquires can report lock or not (R382): LOCK is then a free value. -/
def State.clkWord (s : State) (o : Nat) : Word :=
  if o = 0 then
    pack [(0, 1, s.clk.refOk.toNat), (1, 1, s.clk.lost.toNat), (2, 1, s.clk.lostSeen.toNat), (3, 1, s.clk.neapSrc.toNat),
      (4, 1, s.seamLock.toNat)]
  else if o = 4 then pack [(0, 16, s.clk.slackUs.toNat), (16, 16, s.clk.ebbMs.toNat)]
  else if o = 8 then s.clk.lossCnt
  else if o = 0xC then s.clk.relockCnt
  else if o = 0x10 then pack [(0, 16, s.clk.errCode.toNat), (16, 5, s.clk.errPll.toNat)]
  else if o = 0x20 ∨ o = 0x24 then
    let n := (o - 0x20) / 4
    let h := s.half n
    pack [(0, 4, h.op), (4, 4, h.target), (8, 1, h.changing.toNat), (9, 1, (h.holding || h.changing).toNat), (10, 1, (h.ebb && h.ebbAt.isNone).toNat),
      (11, 9, s.clk.sleep.count fun c x => decide (c < 800) && halfOf c == n && x.1 == .slack), (20, 1, h.capOp4.toNat)]
  else if o = 0x28 then
    pack [(0, 20, maskOf 20 fun y => (s.seamPath y).state == .open_),
      (20, 1, ((List.range 20).any fun y => (s.seamPath y).state == .aligning).toNat)]
  else if o = 0x2C then pack [(0, 20, maskOf 20 fun y => (s.seamPath y).disabled)]
  else if 0x40 ≤ o then
    let p := s.pll ((o - 0x40) / 4)
    pack [(0, 2, p.state.num), (2, 1, if p.state = .acquiring then s.freeNat % 2 else p.lock.toNat), (3, 1, p.active.toNat), (4, 13, p.fbdiv)]
  else 0

/-- ROT_COVE.ROLE (Table 14.6). -/
def State.coveRole (s : State) (c : Nat) : Nat :=
  if s.underTest c then 2 else if (s.cove c).ig.state == .fenced then 3 else if (s.logOf c).isSome then 0 else 1

/-- ROT_FIELD.CAP_WAIT_S (R366). -/
def State.capWait (s : State) (f : Nat) : Nat :=
  let k := s.field f
  if k.capReady then 0
  else match k.capAt with
    | none => 3600
    | some t => min 3600 ((t - s.clk.elapsed + 999999999) / 1000000000)

/-- Rotation block (R376). -/
def State.rotWord (s : State) (o : Nat) : Word :=
  let c := s.rot.sel.toNat
  let t := s.coveTest c
  if o = 0 then pack [(0, 16, s.rot.interval.toNat), (16, 1, s.rot.pause.toNat)]
  else if o = 4 then
    pack [(0, 4, maskOf 4 fun f => (s.field f).cove.isSome), (4, 8, min 255 (countOf 800 fun c => (s.cove c).ig.state == .watch)),
      (12, 10, countOf 800 fun c => (s.cove c).ig.state == .fenced), (22, 1, ((List.range 16).any fun b => (s.bay b).shrunk).toNat)]
  else if 0x10 ≤ o ∧ o < 0x20 then
    let n := (o - 0x10) / 4
    let f := s.field n
    let moving := f.pending.filter fun c => f.cove.isNone && (s.logOf c).isSome
    pack [(0, 10, (f.cove.orElse fun _ => moving).getD 0x3FF), (10, 3, if moving.isSome then 1 else f.phase.toNat),
      (13, 1, f.capReady.toNat), (14, 12, s.capWait n)]
  else if o = 0x20 then pack [(0, 10, c)]
  else if o = 0x24 then pack [(0, 2, s.coveRole c), (2, 2, t.requal), (4, 1, t.recurAt.isSome.toNat)]
  else if o = 0x28 then pack [(0, 2, t.result.toNat), (2, 3, t.failPhase.toNat), (5, 1, t.clean.toNat)]
  else if o = 0x2C then pack [(0, 14, t.cov1.toNat), (14, 14, t.cov2.toNat)]
  else if o = 0x30 then t.dur
  else if o = 0x34 then
    match t.endAt with
    | none => 0xFFFFFFFF
    | some e => BitVec.ofNat 32 (min 0xFFFFFFFF ((s.clk.elapsed - e) / 1000000000))
  else if 0x40 ≤ o ∧ o < 0xE0 then pack [(0, 20, (s.holdMask ((o - 0x40) / 4)).toNat)]
  else if 0xE0 ≤ o then pack [(0, 18, (s.darkMask ((o - 0xE0) / 4)).toNat)]
  else 0

/-- Module time block (R302). -/
def State.mtWord (s : State) (o : Nat) : Word :=
  if o = 0 then pack [(0, 2, s.mt.state.toNat), (2, 1, s.mt.stepped.toNat)]
  else if o = 4 then loWord s.mt.ns
  else if o = 8 then hiWord s.mt.ns
  else s.mt.freq

/-- Module integrity block (R348). -/
def State.igmWord (s : State) (o : Nat) : Word :=
  let r := s.heldRecords.find? fun r => r.seq == s.integ.sigSel.toNat
  if o = 0 then loWord s.integ.sigCount
  else if o = 4 then s.integ.sigSel
  else if o = 8 then
    match r with
    | none => 0
    | some r => pack [(0, 10, r.bytes.length), (10, 1, 1), (11, 1, r.exported.toNat)]
  else if o = 0xC then pack [(0, 10, s.integ.ctrlCove.toNat)]
  else if 0x40 ≤ o ∧ o < 0x80 then
    let y := s.bay ((o - 0x40) / 4)
    pack [(0, 3, y.levelNext.getD y.level), (3, 1, y.st.twoStep.toNat)]
  else if 0x200 ≤ o then
    match r with
    | none => 0
    | some r => byteWord r.bytes ((o - 0x200) / 4)
  else 0

/-- Codes of session states and roles (Table 12.13). -/
def SessState.num : SessState → Nat
  | .free => 0
  | .opening => 1
  | .open_ => 2
  | .orphaned => 3

def Role.num : Role → Nat
  | .none_ => 0
  | .user => 1
  | .bay => 2
  | .owner => 3

/-- Jetty block (R329). -/
def State.jtWord (s : State) (o : Nat) : Word :=
  if o = 0 then s.jetty.cmds
  else if o = 4 then s.jetty.rejects
  else if o = 8 then s.jetty.refusals
  else if o = 0xC then s.jetty.late
  else if 0x40 ≤ o ∧ o < 0x80 then
    let b := (o - 0x40) / 4
    let y := s.bay b
    pack [(0, 1, y.record.isSome.toNat), (1, 1, y.program.isSome.toNat), (2, 1, y.busy.toNat), (3, 1, y.stopped.isSome.toNat),
      (4, 6, y.queue.length), (10, 7, y.berths.rows.length),
      (17, 5, countOf 16 fun i => (s.sess (b * 16 + i)).state == .open_)]
  else if 0x100 ≤ o then
    let x := s.sess ((o - 0x100) / 4)
    pack [(0, 2, x.state.num), (2, 2, x.role.num), (4, 8, x.gen.toNat), (12, 1, x.port), (13, 9, x.qp)]
  else 0

/-- Power block (R416). -/
def State.pwrWord (s : State) (o : Nat) : Word :=
  let energy (e : BitVec 64) : Word := if o / 4 % 2 = 0 then loWord e.toNat else hiWord e.toNat
  if o = 0 then
    pack [(0, 1, s.pwr.capUnmet.toNat), (1, 1, s.pwr.refusing.toNat), (2, 3, s.pwr.duty.toNat), (5, 1, (s.glided 0 || s.glided 1).toNat),
      (6, 1, s.parked.toNat), (7, 1, s.auxOk.toNat), (8, 1, s.pins.main.toNat)]
  else if o = 4 then pack [(0, 4, s.pwr.opTarget.toNat), (4, 6, s.pwr.hintMv.toNat)]
  else if o = 8 then pack [(0, 16, s.pwr.capW)]
  else if o = 0xC then pack [(0, 16, s.pwr.inPeriod.toNat), (16, 16, s.pwr.inFast.toNat)]
  else if o = 0x10 then s.pwrx.mainVI
  else if o = 0x14 then s.pwrx.auxVI
  else if o = 0x18 then pack [(0, 16, s.pwr.errCode.toNat)]
  else if o = 0x1C then s.pwr.emerg
  else if o < 0x30 then
    let f := (o - 0x20) / 4
    pack [(0, 10, s.setMv f), (10, 4, if s.pwrx.mainRegs then s.phases f else 0), (14, 1, (s.op6Cap (f % 2)).toNat)]
  else if o < 0x40 then s.pwr.droop.get 0 ((o - 0x30) / 4)
  else if o < 0x80 then
    let p := (s.bay ((o - 0x40) / 4)).pwr
    pack [(0, 16, p.capW), (16, 3, p.duty.toNat), (19, 1, p.exceeded.toNat)]
  else if o < 0x88 then energy s.pwrx.energy
  else if 0x100 ≤ o ∧ o < 0x180 then energy (s.bay ((o - 0x100) / 8)).pwr.energy
  else if 0x800 ≤ o then energy (s.sess ((o - 0x800) / 8)).energy
  else 0

/-- Ethernet block of port `p` (R302). -/
def State.ethWord (s : State) (p o : Nat) : Word :=
  let x := s.port p
  let q := s.portQ p
  if o = 0 then
    pack [(0, 2, x.width.toNat), (2, 1, x.medium.toNat), (3, 1, x.training.toNat), (4, 1, x.reduced.toNat),
      (5, 1, q.departing.isSome.toNat), (6, 1, x.pfcEn.toNat), (7, 1, (s.mt.master == some p).toNat)]
  else if o = 4 then pack [(0, 1, (q.departing.any fun d => d.retrain).toNat), (1, 1, x.disabled.toNat)]
  else if o = 8 then pack ((List.range 4).map fun l => (2 * l, 2, (x.lanes.getD l 0).toNat))
  else if o = 0xC then pack [(0, 16, x.lastEvt.toNat)]
  else if o = 0x10 then pack [(0, 16, x.nakCode.toNat), (16, 9, x.nakQp.toNat)]
  else if o = 0x14 then
    pack [(0, 10, s.qps.count fun _ c => c.port == p && c.state == .ready),
      (10, 9, s.sessions.count fun _ c => c.port == p && c.state == .open_)]
  else if o < 0x50 then x.ctr.get 0 ((o - 0x18) / 4)
  else if o = 0x100 then pack [(0, 3, q.ptp.state.toNat), (8, 8, q.ptp.domain.toNat)]
  else if o = 0x104 then q.ptp.offset
  else if o = 0x108 then q.ptp.delay
  else 0

/-- Non-volatile write window (R490). -/
def State.nvWord (s : State) (o : Nat) : Word :=
  if o = 0 then pack [(0, 1, s.mg.nvGo.toNat)]
  else if o = 4 then pack [(0, 2, s.mg.nvState.toNat), (16, 16, s.mg.nvCode.toNat)]
  else if o = 8 then s.mg.nvTarget
  else if 0x100 ≤ o then s.mg.nvData.get 0 ((o - 0x100) / 4)
  else 0

/-! RC fields of the module blocks: a read leaves `left` in them (R9, R10). -/

def State.idClear (s : State) (o : Nat) (left : Word) : State :=
  if o = 0x20 then { s with ident := { s.ident with attests := left } } else s

def State.clkClear (s : State) (o : Nat) (left : Word) : State :=
  if o = 8 then { s with clk := { s.clk with lossCnt := left } }
  else if o = 0xC then { s with clk := { s.clk with relockCnt := left } }
  else s

def State.jtClear (s : State) (o : Nat) (left : Word) : State :=
  if o = 0 then { s with jetty := { s.jetty with cmds := left } }
  else if o = 4 then { s with jetty := { s.jetty with rejects := left } }
  else if o = 8 then { s with jetty := { s.jetty with refusals := left } }
  else if o = 0xC then { s with jetty := { s.jetty with late := left } }
  else s

def State.pwrClear (s : State) (o : Nat) (left : Word) : State :=
  if o = 0x1C then { s with pwr := { s.pwr with emerg := left } }
  else if 0x30 ≤ o ∧ o < 0x40 then { s with pwr := { s.pwr with droop := s.pwr.droop.set 0 ((o - 0x30) / 4) left } }
  else s

def State.ethClear (s : State) (p o : Nat) (left : Word) : State :=
  if 0x18 ≤ o ∧ o < 0x50 then s.modPort p fun x => { x with ctr := x.ctr.set 0 ((o - 0x18) / 4) left } else s

end Sys2Proof.Machine
end

