-- ==== Sys2Proof/Machine/RegCove.lean ====
section
/-!
DEFINITION. What the registers of the HBM controllers, bay regions and cove regions read as, offset by offset (20_management_map.md
R480, R481; 10 R272; 02 R57; 18 R461; 04 R102; 13 R348; 05 R131; 06 R153; 07 R174; 09 R247; 08 R214), and their RC fields.
-/

namespace Sys2Proof.Machine

/-! HBM controllers (R272). -/

/-- The talus entry that HB_TAL_SEL selects: index, way. -/
def Stack.talSelected (k : Stack) : Option Talus :=
  k.talus.find? fun t => t.slot == k.talSel % 4096 && t.way == k.talSel / 4096

/-- HBM block of stack `st`. -/
def State.hbWord (s : State) (st o : Nat) : Word :=
  let k := s.stack st
  if o = 0 then
    pack [(0, 5, s.hbStatus st)]
  else if o = 4 then pack [(0, 1, k.scrubEn.toNat), (1, 1, k.injCe.toNat)]
  else if o = 8 then pack [(0, 8, k.temp)]
  else if o = 0xC then
    pack [(0, 13, 6144 - k.shadows.length),
      (16, 13, ((List.range 16).map fun b => (((s.bay b).record.map BayRecord.granQuota).getD 0)).sum)]
  else if o = 0x10 then
    pack [(0, 14, k.talus.length), (14, 14, (k.talus.filter fun t => t.temporary).length)]
  else if o = 0x14 then pack [(0, 16, k.errCode.toNat), (16, 5, k.errLoc.toNat / 2 ^ 27)]
  else if o = 0x18 then pack [(0, 21, k.errLoc.toNat)]
  else if o < 0x3C then k.ctr.get 0 ((o - 0x1C) / 4)
  else if o = 0x40 then pack [(0, 14, k.talSel)]
  else if o = 0x44 then
    match k.talSelected with
    | none => 0
    | some t => pack [(0, 2, if t.temporary then 2 else 1), (2, 5, t.pc), (7, 6, t.bank), (13, 14, t.row)]
  else if o = 0x48 then
    match k.talSelected with
    | none => 0
    | some t => pack [(0, 5, t.pc), (5, 9, t.spare)]
  else 0

def State.hbClear (s : State) (st o : Nat) (left : Word) : State :=
  if 0x1C ≤ o ∧ o < 0x3C then s.modStack st fun k => { k with ctr := k.ctr.set 0 ((o - 0x1C) / 4) left } else s

/-! Bay regions (R57, R461). -/

/-- Is a write of the bay stalled under R41, R42 or R50? -/
def State.writeStalls (s : State) (b : Nat) : Bool :=
  let cs := s.physCoves b
  let waiting (c : Nat) (d : Dma) : Bool :=
    let x := dmaDesc d.desc
    !d.started && !d.done && x.op == 1 && x.dst.kind == 0
      && (s.stepsAt c).1.judge ((s.cove c).sp.handle x.dst.handle) d.step == .stall
  let head (c : Nat) (o : TileOp) : Bool :=
    !o.noop && (tileDesc o.desc).op == 1
      && (s.stepsAt c).1.judge ((s.cove c).sp.handle (tileDesc o.desc).d.handle) o.step == .stall
  let word (w : WriteWord) : Bool := match s.stepWriteAt b w.step w.addr w.deadline (bytesOfRow w.data) with
    | .stalled => true
    | _ => false
  let dma (x : Nat × Packet) : Bool := x.2.bay.toNat == b && x.2.type == 2 && (match landWrite s x.2 with
    | .waits => true
    | _ => false)
  (s.coves.rows.any fun r => r.2.net.ejected.any dma)
  || (s.streams.rows.any fun r => (s.bay b).has r.1 && r.2.wrBuf.head?.any word)
  || cs.any fun c =>
    let v := s.cove c
    v.net.dma.any (waiting c) || v.brk.queue.head?.any (head c) || v.sp.reqs.any fun q => q.write && (s.stepsAt c).1.judge (v.sp.handle q.handle.toNat) q.step == .stall

/-- Is run-ahead suppressed at the boundary where the bay stands: it drains, or a change of commit mode waits for earlier steps to
commit (R36, R54)? -/
def Steps.suppresses (t : Steps) : Bool :=
  t.draining || (t.twoStep != t.wantTwo && t.running.isNone && !t.live.isEmpty)

/-- Step block of bay `b`. -/
def State.stepWord (s : State) (b o : Nat) : Word :=
  let y := s.bay b
  let t := y.st
  if o = 0 then loWord t.committed
  else if o = 4 then pack [(0, 16, t.committed / 2 ^ 32)]
  else if o = 8 then
    pack [(0, 1, t.twoStep.toNat), (1, 1, t.suppresses.toNat), (2, 2, t.uncommitted + t.replay.isSome.toNat),
      (4, 2, match t.oldest with
        | some r => r.attempt
        | none => (t.replay.map ReplayRec.attempt).getD 0),
      (6, 1, (s.writeStalls b).toNat), (7, 1, (t.live.any fun r => r.drain && r.endedAt.isNone).toNat)]
  else if o = 0xC then pack [(0, 16, s.bayShadows b), (16, 16, (y.record.map BayRecord.granQuota).getD 0)]
  else if o = 0x10 then pack [(0, 24, (t.heldBytes + 1023) / 1024)]
  else if o = 0x14 then t.rollbacks
  else pack [(0, 16, t.lbCode.toNat), (16, 2, t.lbReplay.toNat), (18, 1, t.lbStopped.toNat)]

def State.stepClear (s : State) (b o : Nat) (left : Word) : State :=
  if o = 0x14 then s.modBay b fun y => { y with st := { y.st with rollbacks := left } } else s

/-- Hang block of bay `b`. -/
def State.hrWord (s : State) (b o : Nat) : Word :=
  let h := (s.bay b).hang
  if o = 0 then h.progress
  else if o = 4 then
    let cause := s.pauseCause b
    pack [(0, 1, h.resetting.toNat), (1, 1, h.recovering.toNat), (2, 1, h.window.toNat), (3, 1, (cause != 0).toNat), (4, 3, cause)]
  else if o = 8 then pack [(0, 16, h.resetRec.toNat)]
  else if o = 0xC then loWord h.resetStep.toNat
  else if o = 0x10 then pack [(0, 16, h.resetStep.toNat / 2 ^ 32)]
  else if o = 0x14 then h.resets
  else if o = 0x18 then h.recoverUs
  else if o = 0x1C then pack [(0, 16, h.eddyCode.toNat), (16, 14, h.eddySize.toNat), (30, 1, h.eddyNew.toNat)]
  else if 0x40 ≤ o then h.eddyMem.get 0 ((o - 0x40) / 4)
  else 0

def State.hrClear (s : State) (b o : Nat) (left : Word) : State :=
  if o = 0x14 then s.modBay b fun y => { y with hang := { y.hang with resets := left } } else s

/-! Cove regions. -/

/-- Breaker block (R102): TOL entries read 0 on a cove that holds no slot. -/
def State.brkWord (s : State) (c o : Nat) : Word :=
  let b := (s.cove c).brk
  let now := b.settle (s.cycles c)
  if o = 0 then
    pack [(0, 1, b.busy.toNat), (1, 1, now.filling.toNat), (2, 4, b.level), (6, 1, b.accSet.toNat),
      (7, 1, (b.queue.head?.any fun op => s.headHazard c op).toNat)]
  else if o = 4 then pack [(0, 1, b.fillEn.toNat), (1, 1, b.injCk.toNat)]
  else if o = 8 then pack [(0, 4, b.queue.length), (16, 16, b.seq.toNat)]
  else if o = 0xC then pack [(0, 16, b.rejCode.toNat), (16, 4, b.rejCore.toNat)]
  else if o < 0x3C then b.ctr.get 0 ((o - 0x10) / 4)
  else if o = 0x3C then pack [(0, 7, b.lastRow.toNat), (7, 7, b.lastCol.toNat), (16, 16, b.lastTag.toNat)]
  else if 0x80 ≤ o ∧ (s.logOf c).isSome then
    let t := (o - 0x80) / 8
    if o % 8 = 0 then b.tolRel.get 0 t else b.tolAbs.get 0 t
  else 0

def Cove.brkClear (v : Cove) (o : Nat) (left : Word) : Cove :=
  if 0x10 ≤ o ∧ o < 0x3C then v.modBrk fun b => { b with ctr := b.ctr.set 0 ((o - 0x10) / 4) left } else v

/-- Effective level of the slot's primaries (R336). -/
def State.effLevel (s : State) (c : Nat) : Nat :=
  match s.logOf c, s.bayOf c with
  | some l, some b => if (s.bay b).watchMask.contains l then 5 else (s.bay b).level
  | _, _ => 0

/-- Cove integrity block (R348). -/
def State.igWord (s : State) (c o : Nat) : Word :=
  let g := (s.cove c).ig
  if o = 0 then pack [(0, 8, min 255 (s.score c)), (8, 3, g.stateNum), (11, 1, g.pattern.toNat)]
  else if o < 0x1C then g.ctr.get 0 ((o - 4) / 4)
  else if o = 0x1C then pack [(0, 3, s.effLevel c), (3, 1, (g.state == .watch).toNat)]
  else if 0x40 ≤ o then
    match nth g.hist ((o - 0x40) / 8) with
    | none => 0
    | some e =>
      if o % 8 = 0 then pack [(0, 16, e.code.toNat), (16, 8, e.weight)]
      else BitVec.ofNat 32 (min 0xFFFFFFFF ((s.clk.elapsed - e.at_) / 1000000))
  else 0

def Cove.igClear (v : Cove) (o : Nat) (left : Word) : Cove :=
  if 4 ≤ o ∧ o < 0x1C then v.modIg fun g => { g with ctr := g.ctr.set 0 ((o - 4) / 4) left } else v

/-- The stream port that a cove's stream block shows, with its logical cove (R272). -/
def State.streamAt (s : State) (c : Nat) : Option Nat := (s.logOf c).bind fun l => (portStack l).map fun _ => l

/-- Stream block (R272). -/
def State.strmWord (s : State) (c o : Nat) : Word :=
  match s.streamAt c with
  | none => 0
  | some l =>
    let p := s.stream l
    if o = 0 then
      pack [(0, 5, p.fifo.length), (5, 9, p.rdBuf.length), (14, 9, p.wrBuf.length),
        (23, 1, (s.bayOfLog l).isSome.toNat)]
    else if o < 0x14 then p.d.get 0 ((o - 4) / 4)
    else p.late

def State.strmClear (s : State) (c o : Nat) (left : Word) : State :=
  if o = 0x14 then
    match s.streamAt c with
    | none => s
    | some l => s.modStream l fun p => { p with late := left }
  else s

/-- PB_STATUS.DETAIL: the handle of a waiting CSEND or CCONN, the queue mask of a CRECV or CSEL. -/
def Cove.pbDetail (v : Cove) (k : Nat) : Nat :=
  let x := v.core k
  if x.state = 3 then
    match x.wait with
    | some (.csend e _) => (chanHandle e (v.ch.entry e).gen).toNat
    | some (.cconn e _) => (chanHandle e (v.ch.entry e).gen).toNat
    | some (.csel m _ _) => m.toNat
    | some (.crecv q _ _) => 2 ^ q.toNat
    | _ => 0
  else 0

/-- The register that PB_DBG_SEL selects, readable while the core is halted or stopped. -/
def PCore.debug (k : PCore) : Word :=
  let r := k.dbgSel.toNat % 64
  if k.state != 4 && k.state != 5 then 0
  else if r < 32 then k.rg (BitVec.ofNat 5 r)
  else if r < 40 then BitVec.ofNat 32 ((k.rv (r - 32)).toNat / 2 ^ (32 * (k.dbgSel.toNat / 64)))
  else 0

/-- Pebble block (R131): the registers of core o / 0x40. DESIGN CHOICE (log entry 176): a pc of 0x4000 after the fetch fault of R108 shows
as 0x0000 in the 14-bit fields. -/
def State.pbWord (s : State) (c o : Nat) : Word :=
  let n := o / 0x40
  let r := o % 0x40
  let k := (s.cove c).core n
  if r = 0 then pack [(0, 3, k.state.toNat), (3, 4, k.blockOn), (16, 16, (s.cove c).pbDetail n)]
  else if r = 4 then pack [(0, 14, k.pc)]
  else if r = 8 then pack [(0, 14, (k.entries.head?.map Prod.snd).getD 0)]
  else if r = 0xC then pack [(0, 16, k.excCode.toNat), (16, 1, k.excNew.toNat), (17, 1, k.excHw.toNat)]
  else if r = 0x10 then pack [(0, 14, k.excPc)]
  else if r = 0x14 then pack [(0, 4, k.ctl.toNat)]
  else if r = 0x18 then pack [(0, 14, k.bkpt.toNat)]
  else if r = 0x1C then k.retired
  else if r = 0x20 then k.stallNow (s.cycles c)
  else if r = 0x24 then pack [(0, 10, k.dbgSel.toNat)]
  else if r = 0x28 then k.debug
  else 0

def Cove.pbClear (v : Cove) (o cyc : Nat) (left : Word) : Cove :=
  let r := o % 0x40
  if r = 0x1C then v.modCore (o / 0x40) fun k => { k with retired := left }
  else if r = 0x20 then
    v.modCore (o / 0x40) fun k =>
      { k with
        stall := left, stalledAt := if k.state = 3 then cyc else k.stalledAt, heldAt := k.heldAt.map fun _ => cyc }
  else v

/-- Scratchpad block (R153). -/
def State.spWord (s : State) (c o : Nat) : Word :=
  let p := (s.cove c).sp
  let f := s.field (fieldOf c)
  if o = 0 then
    pack [(0, 1, (f.cove == some c && f.phase == 2).toNat), (1, 1, (f.cove == some c && f.result != 0).toNat),
      (2, 1, p.exhausted.toNat), (3, 1, p.nbHold.toNat)]
  else if o = 4 then p.parErr
  else if o = 8 then pack [(0, 4, p.parBank.toNat), (4, 11, p.parRow.toNat), (15, 1, p.parSpare.toNat), (16, 3, p.parReader.toNat)]
  else if o = 0xC then p.urgent
  else if o = 0x10 then
    pack [(0, 16, p.faultCode.toNat), (16, 6, p.faultHandle.toNat), (22, 4, p.faultCore.toNat), (26, 2, p.faultAgent.toNat)]
  else if 0x40 ≤ o ∧ o < 0x80 then p.conflict.get 0 ((o - 0x40) / 4)
  else if 0x80 ≤ o ∧ o < 0xC0 then pack [(0, 5, p.remap.count fun k _ => k / 2048 == (o - 0x80) / 4)]
  else if 0x400 ≤ o ∧ (s.logOf c).isSome then
    BitVec.ofNat 32 ((p.handles.get 0 ((o - 0x400) / 16)).toNat / 2 ^ (8 * (o % 16)))
  else 0

def Cove.spClear (v : Cove) (o : Nat) (left : Word) : Cove :=
  v.modSp fun p =>
    if o = 4 then { p with parErr := left }
    else if o = 0xC then { p with urgent := left }
    else if 0x40 ≤ o ∧ o < 0x80 then { p with conflict := p.conflict.set 0 ((o - 0x40) / 4) left }
    else p

/-- Channel block (R174): state and snapshot read 0 on a spare. -/
def State.chWord (s : State) (c o : Nat) : Word :=
  let h := (s.cove c).ch
  let live := (s.logOf c).isSome
  let open_ (e : ChEntry) : Bool := e.state != .free && e.state != .connecting && e.state != .quarantine
  if o = 0 then
    if live then pack [(0, 13, h.table.count fun _ e => open_ e), (13, 13, h.table.count fun _ e => e.state == .quarantine)] else 0
  else if o = 4 then h.stale
  else if o = 8 then h.closed
  else if o = 0xC then h.full
  else if o = 0x10 then h.timeout
  else if o = 0x14 then h.retx
  else if o = 0x18 then pack [(0, 16, h.errCode.toNat), (16, 4, h.errCore.toNat)]
  else if o = 0x20 then pack [(0, 7, h.headSel.toNat)]
  else if o = 0x24 then if live then h.headMeta else 0
  else if 0x40 ≤ o ∧ o < 0x80 then if live then BitVec.ofNat 32 (h.headData.toNat / 2 ^ (8 * (o - 0x40))) else 0
  else if 0x200 ≤ o ∧ live then
    let q := h.queue ((o - 0x200) / 0x20) ((o - 0x200) / 4 % 8)
    pack [(0, 5, q.msgs.length), (5, 4, q.reserved.length), (9, 4, q.waiters.length), (13, 3, q.requests.length)]
  else 0

def Cove.chClear (v : Cove) (o : Nat) (left : Word) : Cove :=
  v.modCh fun h =>
    if o = 4 then { h with stale := left }
    else if o = 8 then { h with closed := left }
    else if o = 0xC then { h with full := left }
    else if o = 0x10 then { h with timeout := left }
    else if o = 0x14 then { h with retx := left }
    else h

/-- The counter of Table 9.11 that an offset of the current-network block holds. -/
def cnCounter (o : Nat) : Option Nat :=
  if 0x10 ≤ o ∧ o < 0x20 then some ((o - 0x10) / 4)
  else if o = 0x28 then some 4
  else if o = 0x2C then some 5
  else if 0x80 ≤ o ∧ o < 0x98 then some (6 + (o - 0x80) / 4)
  else none

/-- An entry of CN_MAP: PHYS and VALID. -/
def mapEntry (p : Option Nat) : Nat :=
  match p with
  | some x => x % 1024 + 2 ^ 15
  | none => 0

/-- Current-network block (R247). -/
def State.cnWord (s : State) (c o : Nat) : Word :=
  let n := (s.cove c).net
  let e := decide (0x2000 ≤ o)
  let r := o % 0x1000
  if o = 0 then
    pack [(0, 1, n.epoch.toNat), (1, 1, n.holdTo.isSome.toNat), (2, 1, s.net.valid0.toNat), (3, 1, s.net.valid1.toNat),
      (4, 1, (s.pll 5).active.toNat), (5, 6, n.linkDis.toNat), (11, 1, n.unreach.toNat)]
  else if o = 4 then pack [(0, 1, n.e408.toNat), (1, 1, n.injPar.toNat)]
  else if o = 8 then pack [(0, 16, s.netNow.toNat)]
  else if o = 0xC then pack [(0, 16, n.swapReg.toNat), (16, 1, n.armAt.isSome.toNat), (17, 1, s.net.oldUntil.isNone.toNat)]
  else if o = 0x20 then
    pack [(0, 5, (n.dma.filter fun d => !d.started).length), (5, 4, (n.dma.filter Dma.started).length),
      (16, 16, n.dmaSeq.toNat)]
  else if o = 0x24 then pack [(0, 16, n.errCode.toNat), (16, 4, n.errCore.toNat)]
  else if o < 0x1000 then
    match cnCounter o with
    | some k => n.ctr.get 0 k
    | none => if 0x40 ≤ o ∧ o < 0x80 then n.flags.get 0 ((o - 0x40) / 4) else 0
  else if r < 0x320 then pack ((List.range 4).map fun k => (8 * k, 3, s.entryAt e c (r + k)))
  else if 0x400 ≤ r ∧ r < 0x9A0 then
    pack ((List.range 2).map fun k => (16 * k, 16, mapEntry (s.mapAt c e ((r - 0x400) / 2 + k))))
  else 0

def Cove.cnClear (v : Cove) (o : Nat) (left : Word) : Cove :=
  match cnCounter o with
  | some k => v.modNet fun n => { n with ctr := n.ctr.set 0 k left }
  | none => v

/-- A selector of TF_BYPASS for the sender in direction `d` (R204): the distance less one on W and E, the signed x offset on N
and S; 0 where the input has no sender in the segment or row. -/
def State.selector (s : State) (c d : Nat) : Nat :=
  match s.logOf c, s.neighbour c d with
  | some l, some x =>
    if crossesSeam l d || !s.rot.mapped then 0
    else if d % 2 = 1 then (if x < c then c - x else x - c) - 1
    else (x % 40 + 8 - c % 40) % 8
  | _, _ => 0

/-- Tide block (R214): tables read 0 on a spare; until S7 no selector is set (R206). -/
def State.tfWord (s : State) (c o : Nat) : Word :=
  let t := (s.cove c).tide
  let live := (s.logOf c).isSome
  if o = 0 then
    let u := t.advance (s.cycles c)
    pack [(0, 4, u.ph.get 0 0), (4, 4, u.ph.get 0 1), (8, 4, u.ph.get 0 2), (12, 1, t.frozen.toNat), (13, 1, (!(live && s.rot.mapped)).toNat),
      (14, 1, ((s.rot.moves.find (segOfPhys c)).any fun h => h.moving).toNat)]
  else if o = 4 then
    pack [(0, 2, s.selector c 3), (2, 2, s.selector c 1), (4, 3, s.selector c 0), (7, 3, s.selector c 2),
      (10, 1, (s.rot.mapped && (s.logOf c).any fun l => l % 36 == 17 || l % 36 == 18).toNat)]
  else if o = 8 then
    pack [(0, 16, t.violCode.toNat), (16, 5, t.violPort.toNat), (21, 2, t.violPlane.toNat), (23, 1, t.violNew.toNat)]
  else if o = 0xC then t.violCyc
  else if o < 0x20 then t.ctr.get 0 ((o - 0x10) / 4)
  else if o = 0x20 then pack [(0, 1, t.injPar.toNat)]
  else if o = 0x40 ∨ o = 0x44 then
    let g := t.groynes.get {} ((o - 0x40) / 4)
    pack [(0, 3, g.data.length), (3, 3, g.toks.length), (6, 3, g.pairs.length), (9, 1, g.seq.toNat)]
  else if 0x60 ≤ o ∧ o < 0x90 then pack [(0, 4, (t.bq.get [] ((o - 0x60) / 4)).length)]
  else if !live then 0
  else if 0x800 ≤ o ∧ o < 0x844 then t.entry ((o - 0x800) / 4)
  else if 0x900 ≤ o ∧ o < 0x910 then
    BitVec.ofNat 32 ((t.groynes.get {} ((o - 0x900) / 8)).cfg.toNat / 2 ^ (8 * (o % 8)))
  else if 0x1000 ≤ o then BitVec.ofNat 32 ((t.routes.get 0 ((o - 0x1000) / 8)).toNat / 2 ^ (8 * (o % 8)))
  else 0

def Cove.tfClear (v : Cove) (o : Nat) (left : Word) : Cove :=
  if 0x10 ≤ o ∧ o < 0x20 then v.modTide fun t => { t with ctr := t.ctr.set 0 ((o - 0x10) / 4) left } else v

end Sys2Proof.Machine
end

