-- ==== Sys2Proof/Machine/RegMap.lean ====
section
/-!
DEFINITION. The management space (20_management_map.md R480 to R486): which register an address names, who may read it, what a read
returns and does.
-/

namespace Sys2Proof.Machine

/-! Placement (R480, R481). -/

/-- Register blocks of Table 20.2 with the instance. -/
inductive Block where
  | mg | su | id | clk | rot | mt | igm | jt | pwr
  | eth (p : Nat)
  | nv
  | hb (k : Nat)
  | step (b : Nat)
  | hr (b : Nat)
  | brk (c : Nat)
  | ig (c : Nat)
  | strm (c : Nat)
  | pb (c : Nat)
  | sp (c : Nat)
  | ch (c : Nat)
  | cn (c : Nat)
  | tf (c : Nat)
  deriving DecidableEq, Repr

/-- Base and size of the management space. -/
def mgmtBase : Nat := 0xF00000000000
def mgmtSize : Nat := 0x10000000

/-- Offset in the management space of cove `c`'s region. -/
def coveBase (c : Nat) : Nat := 0x1000000 + 0x10000 * c

/-- The block that lies over an offset of the module region, and the offset in it. -/
def moduleBlock (a : Nat) : Option (Block × Nat) :=
  if a < 0x100 then some (.mg, a)
  else if a < 0x200 then some (.su, a - 0x100)
  else if a < 0x300 then some (.id, a - 0x200)
  else if a < 0x400 then some (.clk, a - 0x300)
  else if a < 0x600 then some (.rot, a - 0x400)
  else if a < 0x700 then some (.mt, a - 0x600)
  else if a < 0x800 then none
  else if a < 0xC00 then some (.igm, a - 0x800)
  else if a < 0x1000 then none
  else if a < 0x1800 then some (.jt, a - 0x1000)
  else if a < 0x2000 then none
  else if a < 0x3000 then some (.pwr, a - 0x2000)
  else if a < 0x4000 then none
  else if a < 0x4400 then some (.eth ((a - 0x4000) / 0x200), a % 0x200)
  else if a < 0x8000 then none
  else if a < 0x8200 then some (.nv, a - 0x8000)
  else none

/-- The block that lies over an offset of cove `c`'s region; the stream block only in rows 0 and 19. -/
def coveBlock (c a : Nat) : Option (Block × Nat) :=
  if a < 0x100 then some (.brk c, a)
  else if a < 0x200 then some (.ig c, a - 0x100)
  else if a < 0x240 then (if c / 40 = 0 ∨ c / 40 = 19 then some (.strm c, a - 0x200) else none)
  else if a < 0x400 then none
  else if a < 0x800 then some (.pb c, a - 0x400)
  else if a < 0x1000 then some (.sp c, a - 0x800)
  else if a < 0x1800 then some (.ch c, a - 0x1000)
  else if a < 0x4000 then none
  else if a < 0x8000 then some (.cn c, a - 0x4000)
  else if a < 0xC000 then some (.tf c, a - 0x8000)
  else none

/-- The block that lies over an offset of the management space. -/
def blockAt (a : Nat) : Option (Block × Nat) :=
  if a < 0x10000 then moduleBlock a
  else if a < 0x18000 then some (.hb ((a - 0x10000) / 0x1000), a % 0x1000)
  else if a < 0x20000 then none
  else if a < 0x22000 then
    let o := (a - 0x20000) % 0x200
    if o < 0x20 then some (.step ((a - 0x20000) / 0x200), o)
    else if 0x100 ≤ o then some (.hr ((a - 0x20000) / 0x200), o - 0x100)
    else none
  else if a < 0x1000000 then none
  else if a < coveBase 800 then coveBlock ((a - 0x1000000) / 0x10000) (a % 0x10000)
  else none

/-- Where a block's last register ends. -/
def Block.last : Block → Nat
  | .mg => 0x80
  | .su => 0xB0
  | .id => 0x7C
  | .clk => 0x84
  | .rot => 0x180
  | .mt => 0x10
  | .igm => 0x400
  | .jt => 0x500
  | .pwr => 0x1000
  | .eth _ => 0x10C
  | .nv => 0x200
  | .hb _ => 0x4C
  | .step _ => 0x1C
  | .hr _ => 0x80
  | .brk _ => 0x100
  | .ig _ => 0x80
  | .strm _ => 0x18
  | .pb _ => 0x400
  | .sp _ => 0x800
  | .ch _ => 0x400
  | .cn _ => 0x29A0
  | .tf _ => 0x4000

/-- The reserved offsets before a block's last register, from and up to; those of a core's registers in the pebble block. -/
def Block.gaps : Block → List (Nat × Nat)
  | .mg => [(0x28, 0x40)]
  | .su => [(0x20, 0x40), (0x70, 0x80)]
  | .id => [(0x24, 0x40)]
  | .clk => [(0x14, 0x20), (0x30, 0x40)]
  | .rot => [(0x8, 0x10), (0x38, 0x40)]
  | .mt => []
  | .igm => [(0x10, 0x40), (0x80, 0x200)]
  | .jt => [(0x10, 0x40), (0x80, 0x100)]
  | .pwr => [(0x88, 0x100), (0x180, 0x800)]
  | .eth _ => [(0x50, 0x100)]
  | .nv => [(0xC, 0x100)]
  | .hb _ => [(0x3C, 0x40)]
  | .step _ => []
  | .hr _ => [(0x20, 0x40)]
  | .brk _ => [(0x40, 0x80)]
  | .ig _ => [(0x20, 0x40)]
  | .strm _ => []
  | .pb _ => [(0x2C, 0x40)]
  | .sp _ => [(0x14, 0x40), (0xC0, 0x400)]
  | .ch _ => [(0x1C, 0x20), (0x28, 0x40), (0x80, 0x200)]
  | .cn _ => [(0x30, 0x40), (0x98, 0x1000), (0x1320, 0x1400), (0x19A0, 0x2000), (0x2320, 0x2400)]
  | .tf _ => [(0x24, 0x40), (0x48, 0x60), (0x90, 0x800), (0x844, 0x900), (0x910, 0x1000)]

/-- Is an offset of a block a register? -/
def Block.isReg (k : Block) (o : Nat) : Bool :=
  let r := match k with
    | .pb _ => o % 0x40
    | _ => o
  decide (o < k.last) && !k.gaps.any fun g => decide (g.1 ≤ r ∧ r < g.2)

/-- The register at an offset of the management space: its block and offset there; none where no register lies (R8, R480). -/
def regAt (a : Nat) : Option (Block × Nat) := (blockAt a).filter fun x => x.1.isReg x.2

/-! Reading. -/

/-- What a register reads as. -/
def State.wordAt (s : State) (k : Block) (o : Nat) : Word :=
  match k with
  | .mg => s.mgWord o
  | .su => s.suWord o
  | .id => s.idWord o
  | .clk => s.clkWord o
  | .rot => s.rotWord o
  | .mt => s.mtWord o
  | .igm => s.igmWord o
  | .jt => s.jtWord o
  | .pwr => s.pwrWord o
  | .eth p => s.ethWord p o
  | .nv => s.nvWord o
  | .hb k => s.hbWord k o
  | .step b => s.stepWord b o
  | .hr b => s.hrWord b o
  | .brk c => s.brkWord c o
  | .ig c => s.igWord c o
  | .strm c => s.strmWord c o
  | .pb c => s.pbWord c o
  | .sp c => s.spWord c o
  | .ch c => s.chWord c o
  | .cn c => s.cnWord c o
  | .tf c => s.tfWord c o

/-- What a read of an RC field leaves in it: `left`, the events of the reading's own cycle (R9, R10). -/
def State.clearAt (s : State) (k : Block) (o : Nat) (left : Word) : State :=
  match k with
  | .mg => s
  | .su => s
  | .id => s.idClear o left
  | .clk => s.clkClear o left
  | .rot => s
  | .mt => s
  | .igm => s
  | .jt => s.jtClear o left
  | .pwr => s.pwrClear o left
  | .eth p => s.ethClear p o left
  | .nv => s
  | .hb k => s.hbClear k o left
  | .step b => s.stepClear b o left
  | .hr b => s.hrClear b o left
  | .brk c => s.modCove c fun v => v.brkClear o left
  | .ig c => s.modCove c fun v => v.igClear o left
  | .strm c => s.strmClear c o left
  | .pb c => s.modCove c fun v => v.pbClear o (s.cycles c) left
  | .sp c => s.modCove c fun v => v.spClear o left
  | .ch c => s.modCove c fun v => v.chClear o left
  | .cn c => s.modCove c fun v => v.cnClear o left
  | .tf c => s.modCove c fun v => v.tfClear o left

/-- Is the register an RC field (the Access columns of the register tables)? -/
def Block.isRc (k : Block) (o : Nat) : Bool :=
  match k with
  | .mg | .su | .rot | .mt | .igm | .nv => false
  | .id => o == 0x20
  | .clk => o == 8 || o == 0xC
  | .jt => decide (o < 0x10)
  | .pwr => o == 0x1C || decide (0x30 ≤ o ∧ o < 0x40)
  | .eth _ => decide (0x18 ≤ o ∧ o < 0x50)
  | .hb _ => decide (0x1C ≤ o ∧ o < 0x3C)
  | .step _ => o == 0x14
  | .hr _ => o == 0x14
  | .brk _ => decide (0x10 ≤ o ∧ o < 0x3C)
  | .ig _ => decide (4 ≤ o ∧ o < 0x1C)
  | .strm _ => o == 0x14
  | .pb _ => o % 0x40 == 0x1C || o % 0x40 == 0x20
  | .sp _ => o == 4 || o == 0xC || decide (0x40 ≤ o ∧ o < 0x80)
  | .ch _ => decide (4 ≤ o ∧ o < 0x18)
  | .cn _ => (cnCounter o).isSome
  | .tf _ => decide (0x10 ≤ o ∧ o < 0x20)

/-- A read of an acquiring PLL's LOCK uses its free value (log entry 207). -/
def State.useAt (s : State) (k : Block) (o : Nat) : State :=
  match k with
  | .clk => if 0x40 ≤ o ∧ (s.pll ((o - 0x40) / 4)).state = .acquiring then s.spend 1 else s
  | _ => s

/-- A read of an RC field (R9, R10): the value before the events of this cycle, which stay in the field. -/
def State.readRc (s : State) (k : Block) (o : Nat) : Word × State :=
  let v := s.atCut.wordAt k o
  let n := s.wordAt k o
  (v, ({ s.clearAt k o (if v ≤ n then n - v else n) with cut := (s.atCut.clearAt k o 0).cutNow }).useAt k o)

/-- The low words whose read latches the word after them (R58, R302, R415, R443, R461, R478). -/
def Block.isLo (k : Block) (o : Nat) : Bool :=
  match k with
  | .su => o == 0x10
  | .id => o == 4 || o == 0xC || o == 0x14
  | .mt => o == 4
  | .pwr => o % 8 == 0 && (o == 0x80 || decide (0x100 ≤ o))
  | .step _ => o == 0
  | .hr _ => o == 0xC
  | _ => false

/-- Is an offset the high word of such a pair? -/
def Block.isHi (k : Block) (o : Nat) : Bool := decide (4 ≤ o) && k.isLo (o - 4)

/-- A read by a requester of the register at an offset of the management space: the word, and the state after it (R9, R58, R486). -/
def State.readAt (s : State) (who : Requester) (a : Nat) : Word × State :=
  match regAt a with
  | none => (0, s)
  | some (k, o) =>
    if k.isLo o then (s.wordAt k o, s.latch who (BitVec.ofNat 48 (mgmtBase + a)) (s.wordAt k (o + 4)))
    else if k.isHi o then (s.latched who (BitVec.ofNat 48 (mgmtBase + a - 4)) (s.wordAt k o), s)
    else if k.isRc o then s.readRc k o
    else (s.wordAt k o, s.useAt k o)

/-- May the requester read the register (R482 and each block's rule)? Any session is a live one. -/
def State.mayRead (s : State) (who : Requester) (k : Block) (o : Nat) : Bool :=
  let any := s.anySession who
  let bayIs (b : Nat) : Bool := (s.roleOf who).any fun r => r.1 == b
  let own (f : Nat → Nat → Bool) : Bool := match who with
    | .session b i => any && f b.val i.val
    | _ => false
  s.isOwner who || match k with
    | .mg => any && decide (o < 0x18)
    | .su => any && (o == 0 || decide (0x40 ≤ o ∧ o < 0x70))
    | .id => any
    | .clk => any && (o == 0 || o == 0x20 || o == 0x24)
    | .rot => any && (decide (0x10 ≤ o ∧ o < 0x20) || decide (0x40 ≤ o))
    | .mt => any
    | .igm => own fun b _ => o == 0x40 + 4 * b
    | .jt => own fun b _ => o == 0x40 + 4 * b || decide (0x100 + 64 * b ≤ o ∧ o < 0x140 + 64 * b)
    | .pwr => own fun b i => o == 0 || o == 0x40 + 4 * b || o / 8 == 0x20 + b || o / 8 == 0x100 + 0x10 * b + i
    | .eth _ => any && o == 0
    | .nv => any && o == 4
    | .hb _ => false
    | .step b => s.readsBay who b
    | .hr b => bayIs b
    | .brk c => s.readsCove who c
    | .ig c => s.readsCove who c
    | .strm c => s.readsCove who c
    | .pb c => s.readsCove who c
    | .sp c => s.readsCove who c
    | .ch c => s.readsCove who c
    | .cn c => s.readsCove who c
    | .tf c => s.readsCove who c

/-- A read under the access rules: the word (0 where it may not be read), whether it may be read, the state after it (R326, R482). -/
def State.read (s : State) (who : Requester) (a : Nat) : Word × Bool × State :=
  match regAt a with
  | none => (0, true, s)
  | some (k, o) =>
    if s.mayRead who k o then
      let r := s.readAt who a
      (r.1, true, r.2)
    else (0, false, s)

end Sys2Proof.Machine
end

