-- ==== Sys2Proof/Machine/PebbleRun.lean ====
section
/-!
DEFINITION. MRD and MWR (05_pebble_cores.md R128; 20 R484), the instruction words of Tables 5.4 to 5.6, and the halt, step and break
controls of a pebble core (R132).
-/

namespace Sys2Proof.Machine

/-! The cove register window (R128, R484). -/

/-- The management-space offset that a window offset below 0xC020 reaches: the core's own cove region, the step block of its bay. -/
def State.windowAt (s : State) (r : CoreRef) (a : Nat) : Option Nat :=
  if a < 0xC000 then some (coveBase r.cove + a)
  else (s.bayOf r.cove).map fun b => 0x20000 + 0x200 * b + (a - 0xC000)

/-- The window address of an MRD or MWR. -/
def State.windowAddr (s : State) (r : CoreRef) (w : IFields) : Nat := ((s.core r).rg w.ra + immS w).toNat

/-- Is a window address good: a multiple of 4 below 0x1_0000? -/
def windowOk (a : Nat) : Bool := a % 4 == 0 && decide (a < 0x10000)

/-- MRD: reserved offsets read 0. -/
def execMrd (at_ : CoreRef) (w : IFields) (s : State) : Out :=
  issue s at_ never false { g := [w.ra], wg := [w.rd] } fun s =>
    let a := s.windowAddr at_ w
    if !windowOk a then s.exception at_ 0x4106
    else
      match (if a < 0xC020 then s.windowAt at_ a else none) with
      | none => s.retireNext at_ fun k => k.wg w.rd 0
      | some m =>
        let r := s.readAt (.core at_) m
        r.2.retireNext at_ fun k => k.wg w.rd r.1

/-- A write of a core into its own cove region (R98, R257, R272): tolerance entries and the stream descriptor words, and no other. -/
def State.coreWrite (s : State) (r : CoreRef) (a : Nat) (v : Word) : State :=
  match regAt (coveBase r.cove + a) with
  | some (.brk c, o) =>
    if o < 0x80 then s.exception r 0x4106
    else if tolOk v then (s.writeTol (.core r) c ((o - 0x80) / 8) (o % 8 == 4) v).retireNext r id
    else s.exception r 0x4034
  | some (.strm c, o) =>
    if o = 0x10 then
      match s.streamPush c v with
      | .done t => t.retireNext r id
      | .full => s.stall r .mwr
      | .refused t code => t.exception r code
    else if o = 4 ∨ o = 8 ∨ o = 0xC then
      (match s.streamAt c with
        | none => s
        | some l => s.modStream l fun p => { p with d := p.d.set 0 ((o - 4) / 4) v }).retireNext r id
    else s.exception r 0x4106
  | _ => s.exception r 0x4106

/-- MWR: the reserved part of the window ignores writes; while the stream FIFO is full the instruction waits and is sent again. -/
def execMwr (at_ : CoreRef) (w : IFields) (s : State) : Out :=
  issue s at_ (fun x => x == .mwr) false { g := [w.ra, w.rd] } fun s =>
    let a := s.windowAddr at_ w
    if !windowOk a then s.exception at_ 0x4106
    else if 0xC020 ≤ a then s.retireNext at_ id
    else if 0xC000 ≤ a then s.exception at_ 0x4106
    else s.coreWrite at_ a ((s.core at_).rg w.rd)

/-! Instruction words (R107, Tables 5.3 to 5.6). -/

def wordR (x : Word) : RFields := ⟨x.extractLsb' 21 5, x.extractLsb' 16 5, x.extractLsb' 11 5, x.extractLsb' 6 5⟩
def wordRx (x : Word) : RxFields :=
  ⟨x.extractLsb' 21 5, x.extractLsb' 16 5, x.extractLsb' 11 5, x.extractLsb' 6 5, x.extractLsb' 0 6⟩
def wordI (x : Word) : IFields := ⟨x.extractLsb' 21 5, x.extractLsb' 16 5, x.extractLsb' 0 16⟩
def wordSh (x : Word) : ShFields := ⟨x.extractLsb' 21 5, x.extractLsb' 16 5, x.extractLsb' 5 9, x.extractLsb' 0 5⟩
def wordB (x : Word) : BFields := ⟨x.extractLsb' 21 5, x.extractLsb' 16 5, x.extractLsb' 0 16⟩
def wordV (x : Word) : VFields :=
  ⟨x.extractLsb' 23 3, x.extractLsb' 20 3, x.extractLsb' 17 3, x.extractLsb' 12 5, x.extractLsb' 0 6⟩
def wordH (x : Word) : HFields :=
  ⟨x.extractLsb' 21 5, x.extractLsb' 16 5, x.extractLsb' 10 6, x.extractLsb' 8 2, x.extractLsb' 0 8⟩
def wordC (x : Word) : CFields :=
  ⟨x.extractLsb' 21 5, x.extractLsb' 16 5, x.extractLsb' 11 5, x.extractLsb' 8 3, x.getLsbD 7, x.extractLsb' 0 7⟩

/-- A word with a reserved opcode or function code. -/
def execReserved (r : CoreRef) (s : State) : Out := issue s r never true {} id

/-- OP 0x00. -/
def runSys (r : CoreRef) (x : Word) (s : State) : Out :=
  match (x.extractLsb' 0 6).toNat with
  | 0x0 => execNopInstruction r (wordR x) s
  | 0x1 => execFence r (wordR x) s
  | 0x2 => execStepend r (wordR x) s
  | 0x3 => execSinfo r (wordR x) s
  | 0x4 => execTrap r (wordR x) s
  | _ => execReserved r s

/-- OP 0x01. -/
def runAlu (r : CoreRef) (x : Word) (s : State) : Out :=
  match (x.extractLsb' 0 6).toNat with
  | 0x0 => execAdd r (wordR x) s
  | 0x1 => execSub r (wordR x) s
  | 0x2 => execAnd r (wordR x) s
  | 0x3 => execOr r (wordR x) s
  | 0x4 => execXor r (wordR x) s
  | 0x5 => execSll r (wordR x) s
  | 0x6 => execSrl r (wordR x) s
  | 0x7 => execSra r (wordR x) s
  | 0x8 => execSlt r (wordR x) s
  | 0x9 => execSltu r (wordR x) s
  | 0xa => execMin r (wordR x) s
  | 0xb => execMax r (wordR x) s
  | 0xc => execMinu r (wordR x) s
  | 0xd => execMaxu r (wordR x) s
  | 0x10 => execMul r (wordR x) s
  | 0x11 => execMulh r (wordR x) s
  | 0x12 => execMulhu r (wordR x) s
  | 0x14 => execDiv r (wordR x) s
  | 0x15 => execDivu r (wordR x) s
  | 0x16 => execRem r (wordR x) s
  | 0x17 => execRemu r (wordR x) s
  | _ => execReserved r s

/-- OP 0x08: the kind of shift stands in IMM[15:14]. -/
def runShi (r : CoreRef) (x : Word) (s : State) : Out :=
  match (x.extractLsb' 14 2).toNat with
  | 0 => execSlli r (wordSh x) s
  | 1 => execSrli r (wordSh x) s
  | 2 => execSrai r (wordSh x) s
  | _ => execReserved r s

/-- OP 0x21. -/
def runVint (r : CoreRef) (x : Word) (s : State) : Out :=
  match (x.extractLsb' 6 6).toNat with
  | 0x0 => execVaddI32 r (wordV x) s
  | 0x1 => execVsubI32 r (wordV x) s
  | 0x2 => execVand r (wordV x) s
  | 0x3 => execVor r (wordV x) s
  | 0x4 => execVxor r (wordV x) s
  | 0x5 => execVminI32 r (wordV x) s
  | 0x6 => execVmaxI32 r (wordV x) s
  | 0x7 => execVmulI32 r (wordV x) s
  | _ => execReserved r s

/-- OP 0x22. -/
def runVflt (r : CoreRef) (x : Word) (s : State) : Out :=
  match (x.extractLsb' 6 6).toNat with
  | 0x0 => execVaddF32 r (wordV x) s
  | 0x1 => execVsubF32 r (wordV x) s
  | 0x2 => execVmulF32 r (wordV x) s
  | 0x3 => execVfmaF32 r (wordV x) s
  | 0x4 => execVmaxF32 r (wordV x) s
  | 0x5 => execVminF32 r (wordV x) s
  | 0x6 => execVexp2F32 r (wordV x) s
  | 0x7 => execVrcpF32 r (wordV x) s
  | 0x8 => execVrsqF32 r (wordV x) s
  | 0x10 => execVaddBf16 r (wordV x) s
  | 0x11 => execVmulBf16 r (wordV x) s
  | _ => execReserved r s

/-- OP 0x23. -/
def runVred (r : CoreRef) (x : Word) (s : State) : Out :=
  match (x.extractLsb' 6 6).toNat with
  | 0x0 => execVredsumF32 r (wordV x) s
  | 0x1 => execVredmaxF32 r (wordV x) s
  | 0x2 => execVredsumI32 r (wordV x) s
  | 0x3 => execVredmaxI32 r (wordV x) s
  | _ => execReserved r s

/-- OP 0x24. -/
def runVmov (r : CoreRef) (x : Word) (s : State) : Out :=
  match (x.extractLsb' 6 6).toNat with
  | 0x0 => execVbcast r (wordV x) s
  | 0x1 => execVext r (wordV x) s
  | 0x2 => execVins r (wordV x) s
  | 0x3 => execVcopy r (wordV x) s
  | _ => execReserved r s

/-- OP 0x25. -/
def runVcvt (r : CoreRef) (x : Word) (s : State) : Out :=
  match (x.extractLsb' 6 6).toNat with
  | 0x0 => execVf2bf r (wordV x) s
  | 0x1 => execVbf2fLo r (wordV x) s
  | 0x2 => execVbf2fHi r (wordV x) s
  | 0x3 => execVf2i r (wordV x) s
  | 0x4 => execVi2f r (wordV x) s
  | 0x5 => execVpack r (wordV x) s
  | 0x6 => execVunpack r (wordV x) s
  | _ => execReserved r s

/-- The instruction that a word spells. -/
def execWord (r : CoreRef) (x : Word) (s : State) : Out :=
  match (x.extractLsb' 26 6).toNat with
  | 0x00 => runSys r x s
  | 0x01 => runAlu r x s
  | 0x02 => execAddi r (wordI x) s
  | 0x03 => execAndi r (wordI x) s
  | 0x04 => execOri r (wordI x) s
  | 0x05 => execXori r (wordI x) s
  | 0x06 => execSlti r (wordI x) s
  | 0x07 => execSltiu r (wordI x) s
  | 0x08 => runShi r x s
  | 0x09 => execLui r (wordI x) s
  | 0x0A => execLdw r (wordI x) s
  | 0x0B => execLdh r (wordI x) s
  | 0x0C => execLdhu r (wordI x) s
  | 0x0D => execLdb r (wordI x) s
  | 0x0E => execLdbu r (wordI x) s
  | 0x0F => execStw r (wordI x) s
  | 0x10 => execSth r (wordI x) s
  | 0x11 => execStb r (wordI x) s
  | 0x12 => execVld r (wordI x) s
  | 0x13 => execVst r (wordI x) s
  | 0x14 => execBeq r (wordB x) s
  | 0x15 => execBne r (wordB x) s
  | 0x16 => execBlt r (wordB x) s
  | 0x17 => execBge r (wordB x) s
  | 0x18 => execBltu r (wordB x) s
  | 0x19 => execBgeu r (wordB x) s
  | 0x1A => execJ r (x.extractLsb' 0 26) s
  | 0x1B => execJal r (x.extractLsb' 0 26) s
  | 0x1C => execJalr r (wordI x) s
  | 0x1D => execSpld r (wordH x) s
  | 0x1E => execSpst r (wordH x) s
  | 0x1F => execVspld r (wordH x) s
  | 0x20 => execVspst r (wordH x) s
  | 0x21 => runVint r x s
  | 0x22 => runVflt r x s
  | 0x23 => runVred r x s
  | 0x24 => runVmov r x s
  | 0x25 => runVcvt r x s
  | 0x28 => execBissue r (wordRx x) s
  | 0x29 => execBwait r (wordRx x) s
  | 0x2A => execBcnt r (wordRx x) s
  | 0x2B => execDq r (wordRx x) s
  | 0x2C => execDwait r (wordRx x) s
  | 0x2D => execTss r (wordRx x) s
  | 0x2E => execTsv r (wordRx x) s
  | 0x2F => execTrs r (wordRx x) s
  | 0x30 => execTrv r (wordRx x) s
  | 0x31 => execTtok r (wordRx x) s
  | 0x32 => execTrtok r (wordRx x) s
  | 0x33 => execTbar r (wordRx x) s
  | 0x34 => execCconn r (wordC x) s
  | 0x35 => execCacc r (wordC x) s
  | 0x36 => execCsend r (wordC x) s
  | 0x37 => execCrecv r (wordC x) s
  | 0x38 => execCsel r (wordC x) s
  | 0x39 => execCpoll r (wordC x) s
  | 0x3A => execCclose r (wordC x) s
  | 0x3B => execCsetto r (wordC x) s
  | 0x3C => execMrd r (wordI x) s
  | 0x3D => execMwr r (wordI x) s
  | _ => execReserved r s

/-! PB_CTRL (R131, R132): only the module owner writes it. -/

/-- PB_CTRL.HALT: a running core halts before its next instruction, a stalled one when its stall ends; 0 resumes it. -/
def State.pbHalt (s : State) (r : CoreRef) (v : Bool) : State :=
  s.modCore r fun k =>
    if v then { k with ctl := k.ctl ||| 1, state := if k.state = 1 then 4 else k.state }
    else { k with ctl := k.ctl &&& 0xE, state := if k.state = 4 then 1 else k.state }

/-- PB_CTRL.STEP1: a halted core completes the instruction at its pc and halts again. -/
def State.pbStep1 (s : State) (r : CoreRef) : Out :=
  if (s.core r).state = 4 then
    let k := s.core r
    execWord r (k.imem.get 0 (k.pc / 4)) (s.modCore r fun k => { k with ctl := k.ctl ||| 2, state := 1 })
  else .next s

/-- A running core whose next instruction is the one at an enabled breakpoint halts before it (R131). -/
def PCore.atBreak (k : PCore) : PCore :=
  if k.state = 1 ∧ k.ctl.getLsbD 2 ∧ k.pc = k.bkpt.toNat / 4 * 4 then { k with state := 4 } else k

/-- PB_CTRL.BKPT_EN: a running core whose next instruction lies at PB_BKPT halts before it. -/
def State.pbBkptEn (s : State) (r : CoreRef) (v : Bool) : State :=
  s.modCore r fun k =>
    let k1 := { k with ctl := if v then k.ctl ||| 4 else k.ctl &&& 0xB }
    if k.ctl.getLsbD 2 then k1 else k1.atBreak

/-- PB_CTRL.TRAP_EN. -/
def State.pbTrapEn (s : State) (r : CoreRef) (v : Bool) : State :=
  s.modCore r fun k => { k with ctl := if v then k.ctl ||| 8 else k.ctl &&& 7 }

/-- PB_HALT. -/
def execPbHalt (who : Requester) (at_ : CoreRef) (v : Bool) (s : State) : Out := occurs s (s.isOwner who) (s.pbHalt at_ v)

/-- PB_STEP1. -/
def execPbStep1 (who : Requester) (at_ : CoreRef) (s : State) : Out := if s.isOwner who then s.pbStep1 at_ else .next s

/-- PB_BKPT_EN. -/
def execPbBkptEn (who : Requester) (at_ : CoreRef) (v : Bool) (s : State) : Out := occurs s (s.isOwner who) (s.pbBkptEn at_ v)

/-- PB_TRAP_EN. -/
def execPbTrapEn (who : Requester) (at_ : CoreRef) (v : Bool) (s : State) : Out := occurs s (s.isOwner who) (s.pbTrapEn at_ v)

end Sys2Proof.Machine
end

