-- ==== Sys2Proof/Machine/Tide.lean ====
section
/-!
DEFINITION. The tide fabric (08_tide_fabric.md R177 to R215): route cycles, phase selection, groyne releases, faults and
freeze, barriers and votes.
-/

namespace Sys2Proof.Machine

/-- The word present at mesh input `d` of a plane. -/
def Tide.inputAt (t : Tide) (plane cyc d : Nat) : Option TideWord :=
  ((t.inputs.get [] (plane * 4 + d)).find? fun x => decide (x.2 ≤ cyc)).map Prod.fst

/-- What a route's source holds in this cycle, and the violation of a take from an empty one (R182). -/
def Cove.sourceWord (v : Cove) (plane cyc src : Nat) : Option TideWord × Option Code :=
  if src < 4 then (v.tide.inputAt plane cyc src, none)
  else if src < 20 then
    match (v.latch (src - 4) plane).send with
    | (x, at_, ok) :: _ => if at_ < cyc then (some ⟨x, ok⟩, none) else (none, some 0x6020)
    | [] => (none, some 0x6020)
  else if src < 28 then
    (((v.tide.gout.get [] src).find? fun x => x.2 == cyc).map Prod.fst, none)
  else
    match v.tide.bq.get [] (plane * 4 + (src - 28)) with
    | x :: _ => (some x, none)
    | [] => (none, some 0x6024)

/-- What a route delivers: the word, saturations and flushes of its sum, whether it summed, whether an operand that is no
mesh input failed its parity (R192), and its violation (R182, R190). -/
structure Delivery where
  dest : Nat
  word : Option TideWord
  sat : Nat := 0
  flush : Nat := 0
  summed : Bool := false
  opBad : Bool := false
  fault : Option Code := none

def Cove.delivery (v : Cove) (plane cyc : Nat) (r : Nat × BitVec 64) : Delivery :=
  let e := r.2
  if plane = 1 ∧ routeReduce e then
    let codes := (List.range 32).filter fun k => k == routeSrc e || (routeMask e).contains k
    let got := codes.map (v.sourceWord plane cyc)
    let have_ := got.filterMap Prod.fst
    match got.findSome? Prod.snd with
    | some f => { dest := r.1, word := none, fault := some f }
    | none =>
      if have_.isEmpty then { dest := r.1, word := none }
      else if have_.length < codes.length then { dest := r.1, word := none, fault := some 0x6028 }
      else if have_.length = 1 then { dest := r.1, word := have_.head? }
      else
        let x := redSum (routeFmt e) (have_.map TideWord.data)
        { dest := r.1, word := some { data := x.1 }, sat := x.2.1, flush := x.2.2, summed := true
          opBad := ((codes.filter fun k => 4 ≤ k).filterMap fun k => (v.sourceWord plane cyc k).1).any fun w => !w.ok }
  else
    let g := v.sourceWord plane cyc (routeSrc e)
    { dest := r.1, word := g.1, fault := g.2 }

/-- A word driven on mesh output `d` (R183, R189): to the neighbour's input, to the stream write buffer of an outward port (R179), or to a
closed seam stage (R209). A word on its way between the seam's stages, in the elastic buffer too, stands in the receiver's input with
the cycle in which it is present there (R208). -/
def State.drive (s : State) (c plane d cyc : Nat) (w : TideWord) : State × Option Code :=
  let l := (s.logOf c).getD 0
  let inj := plane == 1 && (s.cove c).tide.injPar
  let w1 : TideWord := if inj then { w with ok := !w.ok } else w
  let s1 := if inj then s.modCove c fun v => v.modTide fun t => { t with injPar := false } else s
  match logNeighbour l d with
  | none =>
    if plane = 1 ∧ (d = 0 ∨ d = 2) then
      if 256 ≤ (s1.stream l).wrBuf.length then
        (s1.modStream l fun p => { p with late := satAdd32 p.late 1 }, some 0x602C)
      else (s1.modStream l fun p => p.accept ((s1.attemptAt c).map fun a => a.2.1) w1 (s1.netNow + 112), none)
    else (s1, none)
  | some m =>
    if crossesSeam l d ∧ (s1.seamPath (l / 36)).state ≠ .open_ then (s1, some 0x602B)
    else
      match s1.physOf m with
      | none => (s1, none)
      | some n =>
        let at_ := if crossesSeam l d then s1.cycles n + 3 else cyc + 1
        let key := plane * 4 + facing d
        (s1.modCove n fun v => v.modTide fun t =>
          { t with inputs := t.inputs.set [] key (t.inputs.get [] key ++ [(w1, at_)]) }, none)

/-- A word delivered to its destination (R183). -/
def State.deliver (s : State) (c plane cyc : Nat) (dest : Nat) (w : TideWord) : State × Option Code :=
  if dest < 4 then s.drive c plane dest cyc w
  else if dest < 20 then
    if 2 ≤ ((s.cove c).latch (dest - 4) plane).recv.length then (s, some 0x6021)
    else (s.modCove c fun v => v.modLatch (dest - 4) plane fun l => { l with recv := l.recv ++ [(w.data, cyc, w.ok)] }, none)
  else if dest < 22 then
    let g := (s.cove c).tide.groynes.get {} (dest - 20)
    let r := if plane = 2 then g.takeTok (w.data.setWidth 8) cyc else g.takeData w cyc
    (s.modCove c fun v => v.modTide fun t => { t with groynes := t.groynes.set {} (dest - 20) r.1 }, r.2)
  else if dest < 26 then
    let key := plane * 4 + (dest - 22)
    let q := (s.cove c).tide.bq.get [] key
    if 8 ≤ q.length then (s, some 0x6023)
    else (s.modCove c fun v => v.modTide fun t => { t with bq := t.bq.set [] key (q ++ [w]) }, none)
  else if dest = 26 ∧ plane = 2 then
    let r := (s.cove c).tide.pselToken (w.data.setWidth 8) (s.phasesAt c) cyc
    (s.modCove c fun v => v.modTide fun _ => r.1, r.2)
  else (s, none)

/-- Words taken in the cycle leave their sources, each once (R182, R184); the inputs' words are gone after the cycle. -/
def Cove.taken (v : Cove) (plane cyc : Nat) (srcs : List Nat) : Cove :=
  let v1 := (srcs.filter fun k => 4 ≤ k && k < 20).foldl (fun (u : Cove) k =>
    u.modLatch (k - 4) plane fun l =>
      { l with send := match l.send with
          | (x, at_, ok) :: t => if at_ < cyc then t else (x, at_, ok) :: t
          | [] => [] }) v
  let t1 := (srcs.filter fun k => 28 ≤ k).foldl (fun (t : Tide) k =>
    let key := plane * 4 + (k - 28)
    { t with bq := t.bq.set [] key ((t.bq.get [] key).drop 1) }) v1.tide
  let t2 := (List.range 4).foldl (fun (t : Tide) d =>
    let key := plane * 4 + d
    { t with inputs := t.inputs.set [] key ((t.inputs.get [] key).filter fun x => decide (cyc < x.2)) }) t1
  { v1 with tide := t2 }

/-- One cycle of a plane's routes (R182 to R193): faults found carry the port they concern. -/
def State.routeCycle (s : State) (c plane cyc : Nat) (adderBad : Bool) : State :=
  let s0 := s.modCove c fun v => v.modTide fun t =>
    { t.advance cyc with ran := t.ran.set 0 plane (cyc + 1) }
  let v := s0.cove c
  let act := v.tide.active plane cyc
  let srcs := (act.flatMap fun r =>
    routeSrc r.2 :: (if plane = 1 ∧ routeReduce r.2 then routeMask r.2 else [])).eraseDups
  let ins : List (Nat × TideWord) := (List.range 4).filterMap fun d => (v.tide.inputAt plane cyc d).map fun w => (d, w)
  let link : List (Code × Nat) := (ins.filter fun x => !x.2.ok).map fun x => (0x6030, x.1)
  let stray : List (Code × Nat) := (ins.filter fun x => !srcs.contains x.1).map fun x => (0x6022, x.1)
  let dels := act.map (v.delivery plane cyc)
  let take : List (Code × Nat) := dels.filterMap fun d => d.fault.map fun f => (f, d.dest)
  let opnd : List (Code × Nat) := (dels.filter Delivery.opBad).map fun d => (0x6030, d.dest)
  let adder : List (Code × Nat) := match dels.find? Delivery.summed with
    | some d => if adderBad then [(0x6032, d.dest)] else []
    | none => []
  let s1 := s0.modCove c fun v =>
    (v.taken plane cyc srcs).modTide fun t =>
      { t with ctr := countEvents t.ctr 0 0 (dels.map Delivery.sat).sum (dels.map Delivery.flush).sum 0 }
  let r := dels.foldl (fun (a : State × List (Code × Nat)) d =>
    match d.word with
    | none => a
    | some w =>
      let x := a.1.deliver c plane cyc d.dest w
      (x.1, a.2 ++ (x.2.map fun f => (f, d.dest)).toList)) (s1, [])
  (link ++ stray ++ take ++ opnd ++ adder ++ r.2).foldl (fun t f =>
    t.tideFault c f.1 (BitVec.ofNat 2 plane) (BitVec.ofNat 5 f.2)) r.1

/-- Does the switch of cove `c` run its phases: a slot, not frozen, not in move mode (R202, R206, R210)? -/
def State.tideRuns (s : State) (c : Nat) : Bool :=
  (s.logOf c).isSome && !(s.cove c).tide.stopped (s.cycles c) && !s.slotMoving c

/-- ACTIVE_ROUTE_CYCLE: the plane's routes in the present cycle, once each cycle. -/
def execActiveRouteCycle (cove : Fin 800) (plane : Fin 3) (adderBad : Bool) (s : State) : Out :=
  let cyc := s.cycles cove
  occurs s (s.tideRuns cove && decide ((s.cove cove).tide.ran.get 0 plane ≤ cyc)) (s.routeCycle cove plane cyc adderBad)

/-- PSEL_TOKEN (R185, R186). -/
def execPselToken (cove : Fin 800) (tok : BitVec 8) (s : State) : Out :=
  let c := cove.val
  let r := (s.cove c).tide.pselToken tok (s.phasesAt c) (s.cycles c)
  let s1 := s.modCove c fun v => v.modTide fun _ => r.1
  occurs s (s.tideRuns c) (match r.2 with
    | some f => s1.tideFault c f 2 26
    | none => s1)

/-- GROYNE_RELEASE (R195): at a release cycle, counted from the start of the step attempt, one pair in each. -/
def execGroyneRelease (cove : Fin 800) (g : Fin 2) (s : State) : Out :=
  let c := cove.val
  let t := (s.cove c).tide
  let cyc := s.cycles c
  let y := t.groynes.get {} g
  let due := y.enabled && windowOf y.cfg (cyc - t.stepCyc)
  occurs s (s.tideRuns c && due && decide (y.released ≤ cyc))
    (match y.pairs with
    | (w, k, at_) :: rest =>
      if cyc ≤ at_ then s.tideFault c 0x6026 (BitVec.ofNat 2 y.plane) (BitVec.ofNat 5 (20 + g.val * 4))
      else s.modCove c fun v => v.modTide fun t =>
        { t with
          groynes := t.groynes.set {} g { y with pairs := rest, released := cyc + 1 }
          gout := (List.range 4).foldl (fun (o : Tab (List (TideWord × Nat))) i =>
            o.set [] (20 + g.val * 4 + i) (if k.getLsbD i then [(w, cyc)] else [])) t.gout }
    | [] => s.tideFault c 0x6026 (BitVec.ofNat 2 y.plane) (BitVec.ofNat 5 (20 + g.val * 4)))

/-- TIDE_FABRIC_FAULT (R201): a violation or hardware error that the switch detects. -/
def execTideFabricFault (cove : Fin 800) (code : BitVec 16) (plane : BitVec 2) (port : BitVec 5) (s : State) : Out :=
  occurs s ((s.logOf cove).isSome && (isViolation code || isTideHw code))
    ((s.tideFault cove code plane port).modCove cove fun v => v.modTide fun t => { t with tabBad := t.tabBad || code == 0x6033 })

/-- FREEZE (R201, R202): arrives on the lane from any neighbour. -/
def execFreeze (cove : Fin 800) (s : State) : Out :=
  let c := cove.val
  let from_ := (List.range 4).filter fun d => (s.laneNext c d).any fun x => x.tok == tokFreeze
  occurs s ((s.logOf c).isSome && !from_.isEmpty)
    (from_.foldl (fun (t : State) d =>
      t.laneIn c d tokFreeze 0 fun u => u.modCove c fun v => v.modTide fun t => t.freeze (s.cycles c) (s.cycles c)) s)

/-- BARRIER_ARRIVE (R121, R198): core 0 to 15, or the child of direction `src` − 16. A core outside CORES, an entry that is not
valid, or a second ARRIVE is 0x602D. -/
def execBarrierArrive (cove : Fin 800) (b : Fin 16) (src : Fin 20) (s : State) : Out :=
  let c := cove.val
  let t := (s.cove c).tide
  let e := t.entry b
  let a := t.arrived.get [] b
  let isCore := decide (src.val < 16)
  let present := if isCore then ((s.cove c).core src).wait == some (.tbar (BitVec.ofNat 4 b)) && !a.contains src.val else true
  let member := barValid e && (if isCore then barCore e src else barChild e (src - 16))
  let arrive (s0 : State) : State :=
    let s1 := s0.modCove c fun v => v.modTide fun t => { t with arrived := t.arrived.set [] b (a ++ [src.val]) }
    if !member ∨ a.contains src.val then s0.tideFault c 0x602D 3 (BitVec.ofNat 5 b)
    else if !((s1.cove c).tide.allArrived b) then s1
    else if barRoot e then s1.releaseBarrier c b
    else s1.modCove c fun v => v.modTide fun t => t.send (tokArrive b) 0 [barParent e] (s.cycles c)
  occurs s (s.tideRuns c && present) (if isCore then arrive s else s.laneIn c (src - 16) (tokArrive b) 0 arrive)

/-- BARRIER_RELEASE (R198): only a switch that is not the root receives one. -/
def execBarrierRelease (cove : Fin 800) (b : Fin 16) (s : State) : Out :=
  let c := cove.val
  let e := (s.cove c).tide.entry b
  occurs s (s.tideRuns c && barValid e && !barRoot e) (s.laneIn c (barParent e) (tokRelease b) 0 fun t => t.releaseBarrier c b)

/-- Passes an outcome down the tree (R199). The votes of a step that commits are done with; a fail stays known until the rollback, so
that only the first is converted. -/
def Tide.outcome (t : Tide) (pass : Bool) (tag : BitVec 2) (cyc : Nat) : Tide :=
  { t.send (if pass then tokCommit else tokRollback) tag (barChildren t.system) cyc with
    votes := t.votes.filter fun x => x.2.2 != tag || (!pass && !x.2.1)
    casts := t.casts.filter fun x => x.2 != tag }

/-- The votes of a step go on toward the root, or become its outcome there (R199). -/
def State.passVote (s : State) (c : Nat) (pass : Bool) (tag : BitVec 2) : State :=
  if barRoot (s.cove c).tide.system then
    (s.modCove c fun v => v.modTide fun t => t.outcome pass tag (s.cycles c)).sendOutcome c tag pass
  else s.modCove c fun v => v.modTide fun t => t.send (tokVote pass tag) 0 [barParent t.system] (s.cycles c)

/-- VOTE (R199): the cove's own vote (`src` none) or one from a child. A fail goes on at once, a pass once all have passed. -/
def execVote (cove : Fin 800) (src : Option (Fin 4)) (pass : Bool) (tag : BitVec 2) (s : State) : Out :=
  let c := cove.val
  let t := (s.cove c).tide
  let who := match src with
    | some d => d.val
    | none => 4
  let there := match src with
    | some d => barChild t.system d
    | none => t.casts.contains (pass, tag)
  let failed := t.votes.any fun x => x.2.2 == tag && !x.2.1
  let count (s0 : State) : State :=
    let s1 := s0.modCove c fun v => v.modTide fun t =>
      { t with votes := t.votes.filter (fun x => !(x.1 == who && x.2.2 == tag)) ++ [(who, pass, tag)] }
    let all : List Nat := ((s1.cove c).tide.votes.filter fun x => x.2.2 == tag && x.2.1).map Prod.fst
    if failed then s1
    else if !pass then s1.passVote c false tag
    else if (4 :: barChildren t.system).all all.contains then s1.passVote c true tag
    else s1
  occurs s (barValid t.system && there)
    (match src with
     | some d => s.laneIn c d (tokVote pass tag) 0 count
     | none => count (s.modCove c fun v => v.modTide fun t => { t with casts := t.casts.erase (pass, tag) }))

/-- COMMIT_TOKEN and ROLLBACK_TOKEN (R199). -/
def execCommitToken (cove : Fin 800) (tag : BitVec 2) (s : State) : Out :=
  let c := cove.val
  let e := (s.cove c).tide.system
  occurs s (barValid e && !barRoot e)
    (s.laneIn c (barParent e) tokCommit tag fun u => u.modCove c fun v => v.modTide fun t => t.outcome true tag (s.cycles c))

def execRollbackToken (cove : Fin 800) (tag : BitVec 2) (s : State) : Out :=
  let c := cove.val
  let e := (s.cove c).tide.system
  occurs s (barValid e && !barRoot e)
    (s.laneIn c (barParent e) tokRollback tag fun u => u.modCove c fun v => v.modTide fun t => t.outcome false tag (s.cycles c))

/-- TF_INJ_PAR (R214). -/
def execTfInjPar (who : Requester) (cove : Fin 800) (s : State) : Out :=
  occurs s (s.isOwner who) (s.modCove cove fun v => v.modTide fun t => { t with injPar := true })

end Sys2Proof.Machine
end

