-- ==== Sys2Proof/Machine/Registers.lean ====
section
/-!
DEFINITION. Writes of the management space under the access rules, and the commands that carry register accesses: REGISTER_WRITE,
REG_READ and REG_WRITE of a session, REG packets, the JTAG read (00_conventions R8, R9; 12 R326; 18 R455; 20 R480 to R485; 21 R504).
-/

namespace Sys2Proof.Machine

/-! Writing. -/

/-- The state that a meaning leaves; every meaning leaves one. -/
def outState (s : State) (o : Out) : State :=
  match o with
  | .next t => t
  | _ => s

/-- A meaning run after others. -/
def State.after (s : State) (f : State → Out) : State := outState s (f s)

/-- PB_CTRL written whole: its fields take effect in bit order, so that a breakpoint that it enables halts the core again before the
instruction there; a step of a halted core comes last (R131, R132). -/
def State.writePbCtrl (s : State) (r : CoreRef) (v : Word) : State :=
  if v.getLsbD 1 ∧ (s.core r).state = 4 then
    (s.modCore r fun k => { k with ctl := v.setWidth 4 &&& 0xD }).after fun t => t.pbStep1 r
  else ((s.pbHalt r (v.getLsbD 0)).pbBkptEn r (v.getLsbD 2)).pbTrapEn r (v.getLsbD 3)

/-- A write of a core's debug registers by the module owner, or of PB_EXC.NEW (R131), which stays set where the exception came in
this cycle (R10). -/
def State.writePb (s : State) (r : CoreRef) (o : Nat) (v : Word) : State :=
  if o = 0xC then
    let old := (s.atCut.core r)
    s.modCore r fun k =>
      { k with excNew := k.excNew && (!v.getLsbD 16 || k.excNo != old.excNo) }
  else if o = 0x14 then s.writePbCtrl r v
  else if o = 0x18 then s.modCore r fun k =>
    if k.bkpt = v.setWidth 14 then k else PCore.atBreak { k with bkpt := v.setWidth 14 }
  else if o = 0x24 then s.modCore r fun k => { k with dbgSel := v.setWidth 10 }
  else s

/-- ETH_CTRL written whole: a changed DISABLE, then RETRAIN (R278, R300). -/
def State.writeEth (s : State) (p : Fin 2) (who : Requester) (v : Word) : State :=
  let s1 := if v.getLsbD 1 = (s.port p).disabled then s else s.after (execEthDisable who p (v.getLsbD 1))
  if v.getLsbD 0 then s1.after (execEthRetrain who p) else s1

/-- Route entries written over those computed, four at a time (R235, R247). -/
def writeRoutes (n : Net) (d : Nat) (v : Word) : Net :=
  (List.range 4).foldl (fun (m : Net) k => { m with rt := m.rt.put (d + k) (bits v (8 * k) 3) }) n

/-- Two map entries written over those of the module (R235, R247). -/
def writeMap (n : Net) (l : Nat) (v : Word) : Net :=
  (List.range 2).foldl (fun (m : Net) k => { m with map := m.map.put (l + k) (bits v (16 * k) 16 &&& 0x83FF) }) n

/-- CN_EPOCH of a router written: ARM arms the swap at SWAP_AT, 1,000 to 16,383 units ahead of NOW (R237; log entry 21). -/
def Net.writeEpoch (n : Net) (now : Nat) (v : Word) : Net :=
  let ahead := (bits v 0 16 + 65536 - now % 65536) % 65536
  { n with
    swapReg := v.setWidth 16
    armAt := if v.getLsbD 16 ∧ 1000 ≤ ahead ∧ ahead ≤ 16383 then some (now + ahead) else none }

/-- A write that Headland makes besides those of the module owner: tolerance entries, stream words, CN_EPOCH and the tables. -/
def State.headlandWrite (s : State) (k : Block) (o : Nat) (v : Word) : State :=
  match k with
  | .brk c => if 0x80 ≤ o then s.writeTol .headland c ((o - 0x80) / 8) (o % 8 == 4) v else s
  | .strm c =>
    match s.streamAt c with
    | none => s
    | some l =>
      if o = 0x10 then
        match s.streamPush c v with
        | .done t => t
        | .full => s
        | .refused t _ => t
      else if 4 ≤ o ∧ o < 0x10 then s.modStream l fun p => { p with d := p.d.set 0 ((o - 4) / 4) v }
      else s
  | .cn c =>
    let e := decide (0x2000 ≤ o)
    let r := o % 0x1000
    if o = 0xC then s.modCove c fun x => x.modNet fun n => n.writeEpoch s.netUnits v
    else if o < 0x1000 ∨ (s.net.valid e ∧ ((s.cove c).net.epoch = e ∨ s.net.oldUntil.isSome)) then s
    else if r < 0x400 then s.modCove c fun x => x.modNet fun n => writeRoutes n (r + if e then 800 else 0) v
    else s.modCove c fun x => x.modNet fun n => writeMap n ((r - 0x400) / 2 + if e then 720 else 0) v
  | _ => s

/-- What the module owner's write of a register does; none where the owner may not write it. -/
def State.ownerWrite (s : State) (who : Requester) (k : Block) (o : Nat) (v : Word) : Option State :=
  match k with
  | .mg => if o = 0x20 then some (s.after (execMgLogSelWrite who v)) else none
  | .clk =>
    if o = 0 then some { s with clk := { s.clk with lostSeen := s.clk.lostSeen && (!v.getLsbD 2 || s.clk.lossCnt != s.cut.clk.lossCnt) } }
    else if o = 4 then some { s with clk := { s.clk with slackUs := v.setWidth 16, ebbMs := v.extractLsb' 16 16 } }
    else none
  | .rot =>
    if o = 0 then some ((s.after (execRotIntervalWrite who (v.setWidth 16))).after (execRotPause who (v.getLsbD 16)))
    else if o = 0x20 then some { s with rot := { s.rot with sel := v.setWidth 10 } }
    else none
  | .mt => if o = 0 then some { s with mt := { s.mt with stepped := s.mt.stepped && (!v.getLsbD 2 || s.mt.ns != s.cut.mt.ns) } } else none
  | .igm =>
    if o = 4 then some { s with integ := { s.integ with sigSel := v } }
    else if o = 0xC then some (s.after (execIgClrPattern who v))
    else none
  | .pwr =>
    if o = 4 then
      some ((s.after (execPwrOpTargetWrite who (v.setWidth 4))).after (execPwrHintMvWrite who (v.extractLsb' 4 6)))
    else none
  | .eth p => if o = 4 then some (s.writeEth (Fin.ofNat 2 p) who v) else none
  | .nv =>
    if o = 0 then
      some (if !v.getLsbD 0 then s
        else if s.mg.nvTarget.getLsbD 0 then s.after (execNvGoSlotChunk who)
        else s.after (execNvGoOwnerRecord who))
    else if o = 8 then some { s with mg := { s.mg with nvTarget := v &&& 0xFFFFFF } }
    else if 0x100 ≤ o then
      some (if s.mg.nvState = 1 then s
        else { s with mg := { s.mg with nvData := s.mg.nvData.set 0 ((o - 0x100) / 4) v } })
    else none
  | .hb k =>
    if o = 4 then
      let s1 := s.after (execHbScrubEn who (Fin.ofNat 8 k) (v.getLsbD 0))
      some (if v.getLsbD 1 then s1.after (execHbInjCe who (Fin.ofNat 8 k)) else s1)
    else if o = 0x40 then some (s.modStack k fun x => { x with talSel := bits v 0 14 })
    else none
  | .brk c =>
    if o = 4 then
      let s1 := s.after (execBrkFillEn who (Fin.ofNat 800 c) (v.getLsbD 0))
      some (if v.getLsbD 1 then s1.after (execBrkInjCk who (Fin.ofNat 800 c)) else s1)
    else none
  | .cn c =>
    if o = 4 then
      let s1 := s.after (execCnE408Mask who (Fin.ofNat 800 c) (v.getLsbD 0))
      some (if v.getLsbD 1 then s1.after (execCnInjPar who (Fin.ofNat 800 c)) else s1)
    else none
  | .tf c => if o = 0x20 then some (if v.getLsbD 0 then s.after (execTfInjPar who (Fin.ofNat 800 c)) else s) else none
  | .pb c =>
    if o % 0x40 = 0x14 ∨ o % 0x40 = 0x18 ∨ o % 0x40 = 0x24 then
      some (s.writePb ⟨Fin.ofNat 800 c, Fin.ofNat 16 (o / 0x40)⟩ (o % 0x40) v)
    else none
  | _ => none

/-- What a write of a register does that sessions of a bay may make too, the module owner among them: IG_BAY_CFG, CH_HEAD_SEL,
PB_EXC.NEW and TF_VIOL.NEW (R131, R174, R214, R334); none where this requester may not. -/
def State.bayWrite (s : State) (who : Requester) (k : Block) (o : Nat) (v : Word) : Option State :=
  let bayOwns (c : Nat) : Bool := s.isOwner who || (s.bayOf c).any fun b => s.ownsBay who b [.bay]
  match k with
  | .igm =>
    let b := (o - 0x40) / 4
    if 0x40 ≤ o ∧ o < 0x80 ∧ s.ownsBay who b [.bay] ∧ bits v 0 3 ≤ 4 then some (s.after (execIgBayCfgWrite who (Fin.ofNat 16 b) v))
    else none
  | .ch c => if o = 0x20 ∧ s.readsCove who c then some (s.after (execChHeadSel who (Fin.ofNat 800 c) v)) else none
  | .pb c =>
    if o % 0x40 = 0xC ∧ bayOwns c then some (s.writePb ⟨Fin.ofNat 800 c, Fin.ofNat 16 (o / 0x40)⟩ 0xC v) else none
  | .tf c =>
    if o = 8 ∧ bayOwns c then
      let old := (s.atCut.cove c).tide
      some (s.modCove c fun x => x.modTide fun t =>
        { t with violNew := t.violNew && (!v.getLsbD 23 || t.violNo != old.violNo) })
    else none
  | _ => none

/-- A write to an offset of the management space: none where the access rules do not permit it (0x9128). A write where no register lies
is ignored (R8, R480) but in the pebble block, which refuses every write it does not name (R131); Headland's writes of what it may
not write change nothing (R9). -/
def State.write (s : State) (who : Requester) (a : Nat) (v : Word) : Option State :=
  match blockAt a with
  | none => some s
  | some (k, o) =>
    let pebble := match k with
      | .pb _ => true
      | _ => false
    if !k.isReg o then (if pebble && decide (o < k.last) && who != .headland then none else some s)
    else
      match s.bayWrite who k o v with
      | some t => some t
      | none =>
        match (if s.isOwner who then s.ownerWrite who k o v else none) with
        | some t => some t
        | none => if who = .headland then some (s.headlandWrite k o v) else none

/-! The commands. -/

/-- Offset in the management space of an aligned address there. -/
def mgmtOff (a : Nat) : Option Nat := if a % 4 = 0 ∧ mgmtBase ≤ a ∧ a < mgmtBase + mgmtSize then some (a - mgmtBase) else none

/-- REGISTER_WRITE (R9): a write that is not permitted, or is none of the management space, changes nothing. A pebble core writes its
own cove region by MWR. -/
def execRegisterWrite (who : Requester) (addr : BitVec 48) (value : BitVec 32) (s : State) : Out :=
  match who with
  | .core r =>
    let a := addr.toNat - (mgmtBase + coveBase r.cove)
    if mgmtBase + coveBase r.cove ≤ addr.toNat ∧ a < 0xC000 ∧ a % 4 = 0 ∧ 4 ≤ a - 0x200 ∧ a - 0x200 < 0x10 then
      .next (match s.streamAt r.cove with
        | none => s
        | some l => s.modStream l fun p => { p with d := p.d.set 0 ((a - 0x204) / 4) value })
    else .next s
  | _ =>
    match mgmtOff addr.toNat with
    | none => .next s
    | some a => .next ((s.write who a value).getD s)

/-- `n` words from offset `a` up: each judged and read on its own, in rising order (R482, R483). -/
def State.readWords (s : State) (who : Requester) (a : Nat) : Nat → List Word × Bool × State
  | 0 => ([], true, s)
  | n + 1 =>
    let r := s.read who a
    let t := r.2.2.readWords who (a + 4) n
    (r.1 :: t.1, r.2.1 && t.2.1, t.2.2)

/-- Who a session's command comes from. -/
def jWho (c : JCmd) : Requester := .session (Fin.ofNat 16 (jBay c)) (Fin.ofNat 16 (jSess c % 16))

/-- In service Headland's PLL does not clock: answers to register accesses wait (R384; log entry 163). -/
def State.headlandWaits (s : State) : Bool := decide (s.su.state = 2) && (s.pll 16).state == .acquiring

/-- An accepted REG_READ is done: the words in the completion, 0 and 0x9128 for what may not be read (R326). -/
def State.doRegRead (s : State) (c : JCmd) : State :=
  let r := s.readWords (jWho c) (jField c 24 8 - mgmtBase) (jField c 32 1)
  r.2.2.finishCmd c (if r.2.1 then 0 else 0x9128) (r.1.flatMap fun w => leBytes 4 w.toNat)

/-- The state after a REG_WRITE's write; none where the access rules do not permit it (R326). -/
def State.regWritten (s : State) (c : JCmd) : Option State :=
  s.write (jWho c) (jField c 24 8 - mgmtBase) (BitVec.ofNat 32 (jField c 32 4))

/-- An accepted REG_WRITE is done. -/
def State.doRegWrite (s : State) (c : JCmd) : State := ((s.regWritten c).getD s).finishCmd c 0 []

/-- An accepted register command is done now, or behind those that wait for Headland. -/
def State.regAccess (s : State) (c : JCmd) (f : State → State) : State :=
  if s.headlandWaits || !s.jetty.regWait.isEmpty then { s with jetty := { s.jetty with regWait := s.jetty.regWait ++ [c] } } else f s

/-- REG_READ (R326). -/
def execRegRead (c : JCmd) (s : State) : Out :=
  s.parse c 0x11 true fun s => (s.acceptLong c).regAccess c fun t => t.doRegRead c

/-- REG_WRITE (R326): rejected with 0x9128 where the access rules do not permit it. -/
def execRegWrite (c : JCmd) (s : State) : Out :=
  s.parse c 0x12 true fun s =>
    match s.regWritten c with
    | none => s.reject c 0x9128
    | some _ => (s.acceptLong c).regAccess c fun t => t.doRegWrite c

/-- The answer to a REG request: its value in four payload bytes (log entry 64). -/
def State.answerReg (s : State) (p : Packet) (v : Word) : State :=
  s.inject p.dstPhys.toNat p.agent dlSlow
    { blankPacket with
      type := 0xB, response := true, ordered := p.ordered, agent := p.srcAgent, dstPhys := p.srcPhys
      bay := p.bay, tag := p.tag, gen := p.gen, addr := p.addr, payload := leBytes 4 v.toNat }

/-- REG_PACKET (R455): a request that waits at its destination is an access with Headland's rights to a word of the cove's region,
answered by the value; it waits until its answer has a slot (R226). An answer is taken. A request that waits nowhere leaves its source
interface (R228, R230). DESIGN CHOICE (log entry 170): an offset that is no multiple of 4 is rounded down. -/
def execRegPacket (p : Packet) (write : Bool) (off : BitVec 16) (value : BitVec 32) (s : State) : Out :=
  if !p.response && !s.atEjection p then
    occurs s (p.type == 0xB && asSent p) (s.inject p.srcPhys.toNat p.srcAgent dlSlow p)
  else occurs s (p.response || s.canAnswer p.dstPhys.toNat p.agent) (s.eject p fun s =>
    let a := coveBase p.dstPhys.toNat + off.toNat / 4 * 4
    if p.bad then s.netCount p.dstPhys.toNat 1
    else if p.response then s
    else if write then ((s.write .headland a value).getD s).answerReg p value
    else
      let r := s.readAt .headland a
      r.2.answerReg p r.1)

/-- Blocks of the always-on domain (R393, R416, R443, R478, R487): Headland's common, start-up, identity, clock, power and write-window
blocks. -/
def Block.alwaysOn : Block → Bool
  | .mg | .su | .id | .clk | .pwr | .nv => true
  | _ => false

/-- HL_ACCESS_COMPLETE (R504): the read that waits completes; an unaligned offset, or a word of a domain without power, is DENIED. -/
def execHlAccessComplete (s : State) : Out :=
  let a := s.pins.hlOff.toNat
  let dark := !s.pwrx.mainRegs && (blockAt a).any fun x => !x.1.alwaysOn
  let done (t : State) (v : Word) (ok : Bool) : State :=
    { t with pins := { t.pins with hlBusy := false, hlValid := ok, hlDenied := !ok, hlData := v } }
  occurs s (s.pins.aux && s.pins.hlBusy && !s.headlandWaits)
    (if a % 4 ≠ 0 ∨ dark then done s 0 false
     else
      let r := s.readAt .headland a
      done r.2 r.1 true)

end Sys2Proof.Machine
end

