-- ==== Sys2Proof/Machine/Dispatch.lean ====
section
/-!
DEFINITION. The meaning of each command: one arm per constructor of `Instr`.
-/

namespace Sys2Proof.Machine

def exec (i : Instr) (s : State) : Host.Outcome State Fault Refusal :=
  match i with
  | .registerWrite who addr value => Sys2Proof.Machine.execRegisterWrite who addr value s
  | .stepBoundary bay => Sys2Proof.Machine.execStepBoundary bay s
  | .stepStart bay => Sys2Proof.Machine.execStepStart bay s
  | .commit bay n => Sys2Proof.Machine.execCommit bay n s
  | .commitAck bay n stack badOutput => Sys2Proof.Machine.execCommitAck bay n stack badOutput s
  | .rollback bay n => Sys2Proof.Machine.execRollback bay n s
  | .voteDeadline bay n => Sys2Proof.Machine.execVoteDeadline bay n s
  | .replayStart bay => Sys2Proof.Machine.execReplayStart bay s
  | .stepCommitLoRead who bay => Sys2Proof.Machine.execStepCommitLoRead who bay s
  | .breakerAccept cove => Sys2Proof.Machine.execBreakerAccept cove s
  | .breakerOpStart cove lost parity => Sys2Proof.Machine.execBreakerOpStart cove lost parity s
  | .breakerOpComplete cove upset convBad => Sys2Proof.Machine.execBreakerOpComplete cove upset convBad s
  | .governorTick cove fillBad => Sys2Proof.Machine.execGovernorTick cove fillBad s
  | .toleranceWrite who cove entry isAbs value => Sys2Proof.Machine.execToleranceWrite who cove entry isAbs value s
  | .brkFillEn who cove v => Sys2Proof.Machine.execBrkFillEn who cove v s
  | .brkInjCk who cove => Sys2Proof.Machine.execBrkInjCk who cove s
  | .nopInstruction at_ w => Sys2Proof.Machine.execNopInstruction at_ w s
  | .fence at_ w => Sys2Proof.Machine.execFence at_ w s
  | .stepend at_ w => Sys2Proof.Machine.execStepend at_ w s
  | .sinfo at_ w => Sys2Proof.Machine.execSinfo at_ w s
  | .trap at_ w => Sys2Proof.Machine.execTrap at_ w s
  | .add at_ w => Sys2Proof.Machine.execAdd at_ w s
  | .sub at_ w => Sys2Proof.Machine.execSub at_ w s
  | .and at_ w => Sys2Proof.Machine.execAnd at_ w s
  | .or at_ w => Sys2Proof.Machine.execOr at_ w s
  | .xor at_ w => Sys2Proof.Machine.execXor at_ w s
  | .sll at_ w => Sys2Proof.Machine.execSll at_ w s
  | .srl at_ w => Sys2Proof.Machine.execSrl at_ w s
  | .sra at_ w => Sys2Proof.Machine.execSra at_ w s
  | .slt at_ w => Sys2Proof.Machine.execSlt at_ w s
  | .sltu at_ w => Sys2Proof.Machine.execSltu at_ w s
  | .min at_ w => Sys2Proof.Machine.execMin at_ w s
  | .max at_ w => Sys2Proof.Machine.execMax at_ w s
  | .minu at_ w => Sys2Proof.Machine.execMinu at_ w s
  | .maxu at_ w => Sys2Proof.Machine.execMaxu at_ w s
  | .mul at_ w => Sys2Proof.Machine.execMul at_ w s
  | .mulh at_ w => Sys2Proof.Machine.execMulh at_ w s
  | .mulhu at_ w => Sys2Proof.Machine.execMulhu at_ w s
  | .div at_ w => Sys2Proof.Machine.execDiv at_ w s
  | .divu at_ w => Sys2Proof.Machine.execDivu at_ w s
  | .rem at_ w => Sys2Proof.Machine.execRem at_ w s
  | .remu at_ w => Sys2Proof.Machine.execRemu at_ w s
  | .addi at_ w => Sys2Proof.Machine.execAddi at_ w s
  | .andi at_ w => Sys2Proof.Machine.execAndi at_ w s
  | .ori at_ w => Sys2Proof.Machine.execOri at_ w s
  | .xori at_ w => Sys2Proof.Machine.execXori at_ w s
  | .slti at_ w => Sys2Proof.Machine.execSlti at_ w s
  | .sltiu at_ w => Sys2Proof.Machine.execSltiu at_ w s
  | .slli at_ w => Sys2Proof.Machine.execSlli at_ w s
  | .srli at_ w => Sys2Proof.Machine.execSrli at_ w s
  | .srai at_ w => Sys2Proof.Machine.execSrai at_ w s
  | .lui at_ w => Sys2Proof.Machine.execLui at_ w s
  | .ldw at_ w => Sys2Proof.Machine.execLdw at_ w s
  | .ldh at_ w => Sys2Proof.Machine.execLdh at_ w s
  | .ldhu at_ w => Sys2Proof.Machine.execLdhu at_ w s
  | .ldb at_ w => Sys2Proof.Machine.execLdb at_ w s
  | .ldbu at_ w => Sys2Proof.Machine.execLdbu at_ w s
  | .stw at_ w => Sys2Proof.Machine.execStw at_ w s
  | .sth at_ w => Sys2Proof.Machine.execSth at_ w s
  | .stb at_ w => Sys2Proof.Machine.execStb at_ w s
  | .vld at_ w => Sys2Proof.Machine.execVld at_ w s
  | .vst at_ w => Sys2Proof.Machine.execVst at_ w s
  | .beq at_ w => Sys2Proof.Machine.execBeq at_ w s
  | .bne at_ w => Sys2Proof.Machine.execBne at_ w s
  | .blt at_ w => Sys2Proof.Machine.execBlt at_ w s
  | .bge at_ w => Sys2Proof.Machine.execBge at_ w s
  | .bltu at_ w => Sys2Proof.Machine.execBltu at_ w s
  | .bgeu at_ w => Sys2Proof.Machine.execBgeu at_ w s
  | .j at_ off => Sys2Proof.Machine.execJ at_ off s
  | .jal at_ off => Sys2Proof.Machine.execJal at_ off s
  | .jalr at_ w => Sys2Proof.Machine.execJalr at_ w s
  | .spld at_ w => Sys2Proof.Machine.execSpld at_ w s
  | .spst at_ w => Sys2Proof.Machine.execSpst at_ w s
  | .vspld at_ w => Sys2Proof.Machine.execVspld at_ w s
  | .vspst at_ w => Sys2Proof.Machine.execVspst at_ w s
  | .scratchpadNarrowGrant cove bank drain feed => Sys2Proof.Machine.execScratchpadNarrowGrant cove bank drain feed s
  | .vaddI32 at_ w => Sys2Proof.Machine.execVaddI32 at_ w s
  | .vsubI32 at_ w => Sys2Proof.Machine.execVsubI32 at_ w s
  | .vand at_ w => Sys2Proof.Machine.execVand at_ w s
  | .vor at_ w => Sys2Proof.Machine.execVor at_ w s
  | .vxor at_ w => Sys2Proof.Machine.execVxor at_ w s
  | .vminI32 at_ w => Sys2Proof.Machine.execVminI32 at_ w s
  | .vmaxI32 at_ w => Sys2Proof.Machine.execVmaxI32 at_ w s
  | .vmulI32 at_ w => Sys2Proof.Machine.execVmulI32 at_ w s
  | .vaddF32 at_ w => Sys2Proof.Machine.execVaddF32 at_ w s
  | .vsubF32 at_ w => Sys2Proof.Machine.execVsubF32 at_ w s
  | .vmulF32 at_ w => Sys2Proof.Machine.execVmulF32 at_ w s
  | .vfmaF32 at_ w => Sys2Proof.Machine.execVfmaF32 at_ w s
  | .vmaxF32 at_ w => Sys2Proof.Machine.execVmaxF32 at_ w s
  | .vminF32 at_ w => Sys2Proof.Machine.execVminF32 at_ w s
  | .vexp2F32 at_ w => Sys2Proof.Machine.execVexp2F32 at_ w s
  | .vrcpF32 at_ w => Sys2Proof.Machine.execVrcpF32 at_ w s
  | .vrsqF32 at_ w => Sys2Proof.Machine.execVrsqF32 at_ w s
  | .vaddBf16 at_ w => Sys2Proof.Machine.execVaddBf16 at_ w s
  | .vmulBf16 at_ w => Sys2Proof.Machine.execVmulBf16 at_ w s
  | .vredsumF32 at_ w => Sys2Proof.Machine.execVredsumF32 at_ w s
  | .vredmaxF32 at_ w => Sys2Proof.Machine.execVredmaxF32 at_ w s
  | .vredsumI32 at_ w => Sys2Proof.Machine.execVredsumI32 at_ w s
  | .vredmaxI32 at_ w => Sys2Proof.Machine.execVredmaxI32 at_ w s
  | .vbcast at_ w => Sys2Proof.Machine.execVbcast at_ w s
  | .vext at_ w => Sys2Proof.Machine.execVext at_ w s
  | .vins at_ w => Sys2Proof.Machine.execVins at_ w s
  | .vcopy at_ w => Sys2Proof.Machine.execVcopy at_ w s
  | .vf2bf at_ w => Sys2Proof.Machine.execVf2bf at_ w s
  | .vbf2fLo at_ w => Sys2Proof.Machine.execVbf2fLo at_ w s
  | .vbf2fHi at_ w => Sys2Proof.Machine.execVbf2fHi at_ w s
  | .vf2i at_ w => Sys2Proof.Machine.execVf2i at_ w s
  | .vi2f at_ w => Sys2Proof.Machine.execVi2f at_ w s
  | .vpack at_ w => Sys2Proof.Machine.execVpack at_ w s
  | .vunpack at_ w => Sys2Proof.Machine.execVunpack at_ w s
  | .bissue at_ w => Sys2Proof.Machine.execBissue at_ w s
  | .bwait at_ w => Sys2Proof.Machine.execBwait at_ w s
  | .bcnt at_ w => Sys2Proof.Machine.execBcnt at_ w s
  | .dq at_ w => Sys2Proof.Machine.execDq at_ w s
  | .dwait at_ w => Sys2Proof.Machine.execDwait at_ w s
  | .tss at_ w => Sys2Proof.Machine.execTss at_ w s
  | .tsv at_ w => Sys2Proof.Machine.execTsv at_ w s
  | .trs at_ w => Sys2Proof.Machine.execTrs at_ w s
  | .trv at_ w => Sys2Proof.Machine.execTrv at_ w s
  | .ttok at_ w => Sys2Proof.Machine.execTtok at_ w s
  | .trtok at_ w => Sys2Proof.Machine.execTrtok at_ w s
  | .tbar at_ w => Sys2Proof.Machine.execTbar at_ w s
  | .cconn at_ w => Sys2Proof.Machine.execCconn at_ w s
  | .cacc at_ w => Sys2Proof.Machine.execCacc at_ w s
  | .csend at_ w => Sys2Proof.Machine.execCsend at_ w s
  | .crecv at_ w => Sys2Proof.Machine.execCrecv at_ w s
  | .csel at_ w => Sys2Proof.Machine.execCsel at_ w s
  | .cpoll at_ w => Sys2Proof.Machine.execCpoll at_ w s
  | .cclose at_ w => Sys2Proof.Machine.execCclose at_ w s
  | .csetto at_ w => Sys2Proof.Machine.execCsetto at_ w s
  | .mrd at_ w => Sys2Proof.Machine.execMrd at_ w s
  | .mwr at_ w => Sys2Proof.Machine.execMwr at_ w s
  | .pbHalt who at_ v => Sys2Proof.Machine.execPbHalt who at_ v s
  | .pbStep1 who at_ => Sys2Proof.Machine.execPbStep1 who at_ s
  | .pbBkptEn who at_ v => Sys2Proof.Machine.execPbBkptEn who at_ v s
  | .pbTrapEn who at_ v => Sys2Proof.Machine.execPbTrapEn who at_ v s
  | .rowRemap cove bank row => Sys2Proof.Machine.execRowRemap cove bank row s
  | .coveSave cove parity => Sys2Proof.Machine.execCoveSave cove parity s
  | .coveRestore cove bist digestBad => Sys2Proof.Machine.execCoveRestore cove bist digestBad s
  | .connect cove p => Sys2Proof.Machine.execConnect cove p s
  | .accept cove p => Sys2Proof.Machine.execAccept cove p s
  | .refuse cove p => Sys2Proof.Machine.execRefuse cove p s
  | .data cove p => Sys2Proof.Machine.execData cove p s
  | .delivered cove p => Sys2Proof.Machine.execDelivered cove p s
  | .full cove p => Sys2Proof.Machine.execFull cove p s
  | .resume cove p => Sys2Proof.Machine.execResume cove p s
  | .withdraw cove p => Sys2Proof.Machine.execWithdraw cove p s
  | .close cove p => Sys2Proof.Machine.execClose cove p s
  | .closed cove p => Sys2Proof.Machine.execClosed cove p s
  | .csendTimeout at_ => Sys2Proof.Machine.execCsendTimeout at_ s
  | .fullRetry at_ => Sys2Proof.Machine.execFullRetry at_ s
  | .dataRetransmit at_ => Sys2Proof.Machine.execDataRetransmit at_ s
  | .channelQuarantineEnd cove entry => Sys2Proof.Machine.execChannelQuarantineEnd cove entry s
  | .chHeadSel who cove value => Sys2Proof.Machine.execChHeadSel who cove value s
  | .pselToken cove tok => Sys2Proof.Machine.execPselToken cove tok s
  | .tideFabricFault cove code plane port => Sys2Proof.Machine.execTideFabricFault cove code plane port s
  | .freeze cove => Sys2Proof.Machine.execFreeze cove s
  | .barrierArrive cove b src => Sys2Proof.Machine.execBarrierArrive cove b src s
  | .barrierRelease cove b => Sys2Proof.Machine.execBarrierRelease cove b s
  | .vote cove src pass tag => Sys2Proof.Machine.execVote cove src pass tag s
  | .commitToken cove tag => Sys2Proof.Machine.execCommitToken cove tag s
  | .rollbackToken cove tag => Sys2Proof.Machine.execRollbackToken cove tag s
  | .groyneRelease cove g => Sys2Proof.Machine.execGroyneRelease cove g s
  | .seamAlignStart row => Sys2Proof.Machine.execSeamAlignStart row s
  | .seamOpen row => Sys2Proof.Machine.execSeamOpen row s
  | .seamAlignTimeout row => Sys2Proof.Machine.execSeamAlignTimeout row s
  | .seamSlip slip => Sys2Proof.Machine.execSeamSlip slip s
  | .tfInjPar who cove => Sys2Proof.Machine.execTfInjPar who cove s
  | .arbiterDecision cove out parity => Sys2Proof.Machine.execArbiterDecision cove out parity s
  | .epochArmCheck unarmed => Sys2Proof.Machine.execEpochArmCheck unarmed s
  | .epochSwap => Sys2Proof.Machine.execEpochSwap s
  | .epochOrderedResume => Sys2Proof.Machine.execEpochOrderedResume s
  | .linkDisable cove out => Sys2Proof.Machine.execLinkDisable cove out s
  | .cnE408Mask who cove v => Sys2Proof.Machine.execCnE408Mask who cove v s
  | .cnInjPar who cove => Sys2Proof.Machine.execCnInjPar who cove s
  | .dmaTransferStart cove => Sys2Proof.Machine.execDmaTransferStart cove s
  | .dmaWritePacket p => Sys2Proof.Machine.execDmaWritePacket p s
  | .dmaReadPacket p ecc => Sys2Proof.Machine.execDmaReadPacket p ecc s
  | .dmaDataPacket p => Sys2Proof.Machine.execDmaDataPacket p s
  | .dmaDonePacket p => Sys2Proof.Machine.execDmaDonePacket p s
  | .dmaRetryPacket p => Sys2Proof.Machine.execDmaRetryPacket p s
  | .dmaRetryResend cove tag => Sys2Proof.Machine.execDmaRetryResend cove tag s
  | .dmaRetire cove => Sys2Proof.Machine.execDmaRetire cove s
  | .dmaTagQuarantineEnd cove tag => Sys2Proof.Machine.execDmaTagQuarantineEnd cove tag s
  | .dmaTrackerFree iface key => Sys2Proof.Machine.execDmaTrackerFree iface key s
  | .dmaTimeout cove tag => Sys2Proof.Machine.execDmaTimeout cove tag s
  | .flagPacket p => Sys2Proof.Machine.execFlagPacket p s
  | .broadcastPacket cove p => Sys2Proof.Machine.execBroadcastPacket cove p s
  | .telemetryPacket p => Sys2Proof.Machine.execTelemetryPacket p s
  | .regPacket p write off value => Sys2Proof.Machine.execRegPacket p write off value s
  | .shadowSignaturePacket cove pair step attempt sig => Sys2Proof.Machine.execShadowSignaturePacket cove pair step attempt sig s
  | .strmD3Write at_ value => Sys2Proof.Machine.execStrmD3Write at_ value s
  | .streamWordDue cove write late bad ecc => Sys2Proof.Machine.execStreamWordDue cove write late bad ecc s
  | .shadowChunkCopy stack granule step chunk ecc => Sys2Proof.Machine.execShadowChunkCopy stack granule step chunk ecc s
  | .granuleMapWrite stack => Sys2Proof.Machine.execGranuleMapWrite stack s
  | .softPpr stack pc bank row => Sys2Proof.Machine.execSoftPpr stack pc bank row s
  | .refresh stack pc bank => Sys2Proof.Machine.execRefresh stack pc bank s
  | .patrolScrub stack found => Sys2Proof.Machine.execPatrolScrub stack found s
  | .hbScrubEn who stack v => Sys2Proof.Machine.execHbScrubEn who stack v s
  | .hbInjCe who stack => Sys2Proof.Machine.execHbInjCe who stack s
  | .hardRepairDone repairs => Sys2Proof.Machine.execHardRepairDone repairs s
  | .portTrainAttempt port lanes => Sys2Proof.Machine.execPortTrainAttempt port lanes s
  | .portRetryTimer port => Sys2Proof.Machine.execPortRetryTimer port s
  | .pcsAlignmentLoss port => Sys2Proof.Machine.execPcsAlignmentLoss port s
  | .fecDegradation port => Sys2Proof.Machine.execFecDegradation port s
  | .ethRetrain who port => Sys2Proof.Machine.execEthRetrain who port s
  | .ethDisable who port v => Sys2Proof.Machine.execEthDisable who port v s
  | .arpRequest port f senderIp target => Sys2Proof.Machine.execArpRequest port f senderIp target s
  | .neighborSolicitation port f senderIp target => Sys2Proof.Machine.execNeighborSolicitation port f senderIp target s
  | .icmpEchoRequest port f ipv6 senderIp dst body => Sys2Proof.Machine.execIcmpEchoRequest port f ipv6 senderIp dst body s
  | .frameDrop port f => Sys2Proof.Machine.execFrameDrop port f s
  | .ptpMessage port m => Sys2Proof.Machine.execPtpMessage port m s
  | .timeHoldover => Sys2Proof.Machine.execTimeHoldover s
  | .cmReq port r => Sys2Proof.Machine.execCmReq port r s
  | .cmRtu f => Sys2Proof.Machine.execCmRtu f s
  | .cmRej f => Sys2Proof.Machine.execCmRej f s
  | .cmDreq f => Sys2Proof.Machine.execCmDreq f s
  | .sendOnly b payload => Sys2Proof.Machine.execSendOnly b payload s
  | .sendOnlyWithImmediate b imm payload => Sys2Proof.Machine.execSendOnlyWithImmediate b imm payload s
  | .sendFirst b => Sys2Proof.Machine.execSendFirst b s
  | .sendMiddle b => Sys2Proof.Machine.execSendMiddle b s
  | .sendLast b => Sys2Proof.Machine.execSendLast b s
  | .rdmaWriteFirst b r payload => Sys2Proof.Machine.execRdmaWriteFirst b r payload s
  | .rdmaWriteMiddle b payload => Sys2Proof.Machine.execRdmaWriteMiddle b payload s
  | .rdmaWriteLast b payload => Sys2Proof.Machine.execRdmaWriteLast b payload s
  | .rdmaWriteOnly b r payload => Sys2Proof.Machine.execRdmaWriteOnly b r payload s
  | .rdmaWriteWithImmediate b => Sys2Proof.Machine.execRdmaWriteWithImmediate b s
  | .rdmaReadRequest b r => Sys2Proof.Machine.execRdmaReadRequest b r s
  | .atomicCompareAndSwap b => Sys2Proof.Machine.execAtomicCompareAndSwap b s
  | .atomicFetchAndAdd b => Sys2Proof.Machine.execAtomicFetchAndAdd b s
  | .unsupportedOpcode b opcode => Sys2Proof.Machine.execUnsupportedOpcode b opcode s
  | .readGatherTimeout qp psn => Sys2Proof.Machine.execReadGatherTimeout qp psn s
  | .cnpReceived f => Sys2Proof.Machine.execCnpReceived f s
  | .dcqcnAlphaTimer qp => Sys2Proof.Machine.execDcqcnAlphaTimer qp s
  | .dcqcnRateTimer qp byBytes => Sys2Proof.Machine.execDcqcnRateTimer qp byBytes s
  | .pfcPauseFrame port prio quanta => Sys2Proof.Machine.execPfcPauseFrame port prio quanta s
  | .heartbeat bay slot => Sys2Proof.Machine.execHeartbeat bay slot s
  | .linkDownAt port => Sys2Proof.Machine.execLinkDownAt port s
  | .mtNsLoRead who => Sys2Proof.Machine.execMtNsLoRead who s
  | .nop c => Sys2Proof.Machine.execNop c s
  | .challenge c => Sys2Proof.Machine.execChallenge c s
  | .sessionOpen c => Sys2Proof.Machine.execSessionOpen c s
  | .sessionVerifyDone qp => Sys2Proof.Machine.execSessionVerifyDone qp s
  | .sessionOrphanTimeout bay slot => Sys2Proof.Machine.execSessionOrphanTimeout bay slot s
  | .sessionClose c => Sys2Proof.Machine.execSessionClose c s
  | .regionGrant c => Sys2Proof.Machine.execRegionGrant c s
  | .regionRevoke c => Sys2Proof.Machine.execRegionRevoke c s
  | .attest c => Sys2Proof.Machine.execAttest c s
  | .attestTokenComplete => Sys2Proof.Machine.execAttestTokenComplete s
  | .programLoad c => Sys2Proof.Machine.execProgramLoad c s
  | .programLoadComplete bay => Sys2Proof.Machine.execProgramLoadComplete bay s
  | .programUnload c => Sys2Proof.Machine.execProgramUnload c s
  | .run c => Sys2Proof.Machine.execRun c s
  | .generate c => Sys2Proof.Machine.execGenerate c s
  | .cancel c => Sys2Proof.Machine.execCancel c s
  | .stepHint c => Sys2Proof.Machine.execStepHint c s
  | .queryBaySummary c => Sys2Proof.Machine.execQueryBaySummary c s
  | .queryRunQueue c => Sys2Proof.Machine.execQueryRunQueue c s
  | .querySessionEnergy c => Sys2Proof.Machine.execQuerySessionEnergy c s
  | .queryAdmissionTrial c => Sys2Proof.Machine.execQueryAdmissionTrial c s
  | .regRead c => Sys2Proof.Machine.execRegRead c s
  | .regWrite c => Sys2Proof.Machine.execRegWrite c s
  | .resend c => Sys2Proof.Machine.execResend c s
  | .capSetBay c => Sys2Proof.Machine.execCapSetBay c s
  | .capSetModule c => Sys2Proof.Machine.execCapSetModule c s
  | .bayReset c => Sys2Proof.Machine.execBayReset c s
  | .maintenanceOpen c => Sys2Proof.Machine.execMaintenanceOpen c s
  | .maintenanceClose c => Sys2Proof.Machine.execMaintenanceClose c s
  | .moduleReset c => Sys2Proof.Machine.execModuleReset c s
  | .scoreEventExpiry cove => Sys2Proof.Machine.execScoreEventExpiry cove s
  | .faultSignatureRecord cove code ophash => Sys2Proof.Machine.execFaultSignatureRecord cove code ophash s
  | .igBayCfgWrite who bay value => Sys2Proof.Machine.execIgBayCfgWrite who bay value s
  | .igClrPattern who value => Sys2Proof.Machine.execIgClrPattern who value s
  | .rotationTestSlot field => Sys2Proof.Machine.execRotationTestSlot field s
  | .rotationTestStart field => Sys2Proof.Machine.execRotationTestStart field s
  | .testPhaseComplete field pass eddy => Sys2Proof.Machine.execTestPhaseComplete field pass eddy s
  | .handoverMoveStart seg => Sys2Proof.Machine.execHandoverMoveStart seg s
  | .handoverMoveComplete seg linkErr => Sys2Proof.Machine.execHandoverMoveComplete seg linkErr s
  | .handoverTimeout seg => Sys2Proof.Machine.execHandoverTimeout seg s
  | .fenceCapacityReturn field => Sys2Proof.Machine.execFenceCapacityReturn field s
  | .recurExpiry cove => Sys2Proof.Machine.execRecurExpiry cove s
  | .shapeSwitch bay resumeBad => Sys2Proof.Machine.execShapeSwitch bay resumeBad s
  | .rotIntervalWrite who v => Sys2Proof.Machine.execRotIntervalWrite who v s
  | .rotPause who v => Sys2Proof.Machine.execRotPause who v s
  | .refclkLoss => Sys2Proof.Machine.execRefclkLoss s
  | .refclkReturn => Sys2Proof.Machine.execRefclkReturn s
  | .pllStable p => Sys2Proof.Machine.execPllStable p s
  | .pllAcquireTimeout p => Sys2Proof.Machine.execPllAcquireTimeout p s
  | .pllLockLoss p => Sys2Proof.Machine.execPllLockLoss p s
  | .hbmRetrainComplete stack => Sys2Proof.Machine.execHbmRetrainComplete stack s
  | .hbmRetrainTimeout stack => Sys2Proof.Machine.execHbmRetrainTimeout stack s
  | .slackEntry cove => Sys2Proof.Machine.execSlackEntry cove s
  | .ebbEntry dom => Sys2Proof.Machine.execEbbEntry dom s
  | .domainWake dom => Sys2Proof.Machine.execDomainWake dom s
  | .opChangeStart half => Sys2Proof.Machine.execOpChangeStart half s
  | .opChangeComplete half => Sys2Proof.Machine.execOpChangeComplete half s
  | .opChangeTimeout half => Sys2Proof.Machine.execOpChangeTimeout half s
  | .controlPeriod m => Sys2Proof.Machine.execControlPeriod m s
  | .emergencyGlide cause sample => Sys2Proof.Machine.execEmergencyGlide cause sample s
  | .emergencyGlideStop sample => Sys2Proof.Machine.execEmergencyGlideStop sample s
  | .junctionOvertemp field celsius => Sys2Proof.Machine.execJunctionOvertemp field celsius s
  | .droopTrip field => Sys2Proof.Machine.execDroopTrip field s
  | .auxInputLoss => Sys2Proof.Machine.execAuxInputLoss s
  | .auxInputReturn => Sys2Proof.Machine.execAuxInputReturn s
  | .mainInputLow => Sys2Proof.Machine.execMainInputLow s
  | .mainInputHigh => Sys2Proof.Machine.execMainInputHigh s
  | .mainInputReturn => Sys2Proof.Machine.execMainInputReturn s
  | .regulatorPhaseFail rail => Sys2Proof.Machine.execRegulatorPhaseFail rail s
  | .parkEnd => Sys2Proof.Machine.execParkEnd s
  | .hintVoltageRaise bay => Sys2Proof.Machine.execHintVoltageRaise bay s
  | .energyUpdate m => Sys2Proof.Machine.execEnergyUpdate m s
  | .pwrOpTargetWrite who v => Sys2Proof.Machine.execPwrOpTargetWrite who v s
  | .pwrHintMvWrite who v => Sys2Proof.Machine.execPwrHintMvWrite who v s
  | .energyLoRead who ctr => Sys2Proof.Machine.execEnergyLoRead who ctr s
  | .auxPowerOn => Sys2Proof.Machine.execAuxPowerOn s
  | .stageS0 => Sys2Proof.Machine.execStageS0 s
  | .stageS1 ok => Sys2Proof.Machine.execStageS1 ok s
  | .stageS2 f => Sys2Proof.Machine.execStageS2 f s
  | .stageS3 => Sys2Proof.Machine.execStageS3 s
  | .stageS4 regulated => Sys2Proof.Machine.execStageS4 regulated s
  | .stageS5 failed => Sys2Proof.Machine.execStageS5 failed s
  | .stageS6 trained => Sys2Proof.Machine.execStageS6 trained s
  | .stageS7 failed rows => Sys2Proof.Machine.execStageS7 failed rows s
  | .stageS8 tide seams links => Sys2Proof.Machine.execStageS8 tide seams links s
  | .stageS9 failed => Sys2Proof.Machine.execStageS9 failed s
  | .stageS10 => Sys2Proof.Machine.execStageS10 s
  | .stageS11 => Sys2Proof.Machine.execStageS11 s
  | .cargoReadComplete => Sys2Proof.Machine.execCargoReadComplete s
  | .stageLimitExpiry unfinished => Sys2Proof.Machine.execStageLimitExpiry unfinished s
  | .suImgVerLoRead who => Sys2Proof.Machine.execSuImgVerLoRead who s
  | .journalWrite => Sys2Proof.Machine.execJournalWrite s
  | .journalCompaction => Sys2Proof.Machine.execJournalCompaction s
  | .resetEntry bay => Sys2Proof.Machine.execResetEntry bay s
  | .recoveryQuiescence bay => Sys2Proof.Machine.execRecoveryQuiescence bay s
  | .recoveryComplete bay badParts poison => Sys2Proof.Machine.execRecoveryComplete bay badParts poison s
  | .recoveryWindowTimeout bay => Sys2Proof.Machine.execRecoveryWindowTimeout bay s
  | .eddyPass set => Sys2Proof.Machine.execEddyPass set s
  | .hrResetStepLoRead who bay => Sys2Proof.Machine.execHrResetStepLoRead who bay s
  | .idLoRead who pair => Sys2Proof.Machine.execIdLoRead who pair s
  | .mgLogSelWrite who value => Sys2Proof.Machine.execMgLogSelWrite who value s
  | .logFetchComplete => Sys2Proof.Machine.execLogFetchComplete s
  | .logDeviceCopy => Sys2Proof.Machine.execLogDeviceCopy s
  | .nvGoOwnerRecord who => Sys2Proof.Machine.execNvGoOwnerRecord who s
  | .nvGoSlotChunk who => Sys2Proof.Machine.execNvGoSlotChunk who s
  | .nvWriteComplete => Sys2Proof.Machine.execNvWriteComplete s
  | .mateNHigh => Sys2Proof.Machine.execMateNHigh s
  | .mateNLow => Sys2Proof.Machine.execMateNLow s
  | .jtagTapReset => Sys2Proof.Machine.execJtagTapReset s
  | .extest cells => Sys2Proof.Machine.execExtest cells s
  | .idcode => Sys2Proof.Machine.execIdcode s
  | .samplePreload => Sys2Proof.Machine.execSamplePreload s
  | .hlAccess dr => Sys2Proof.Machine.execHlAccess dr s
  | .hlAccessComplete => Sys2Proof.Machine.execHlAccessComplete s
  | .modReset => Sys2Proof.Machine.execModReset s
  | .bypass => Sys2Proof.Machine.execBypass s
  | .activeRouteCycle cove plane adderBad => Sys2Proof.Machine.execActiveRouteCycle cove plane adderBad s
  | .watchMinimumExpiry cove => Sys2Proof.Machine.execWatchMinimumExpiry cove s
  | .refclkAbsentAtS0 => Sys2Proof.Machine.execRefclkAbsentAtS0 s

end Sys2Proof.Machine
end

