-- ==== Sys2Proof/Machine/HbmSched.lean ====
section
/-!
DEFINITION. What an HBM controller does in each of its cycles, which are nanoseconds (10_hbm_and_talus.md R255, R256, R258): the stream
buffers ask for the chunks they will need, and each pseudo-channel's scheduler issues one command for the requests that wait. The
timings of the memory devices are not modelled: every request that waits is ready (log entry 146).
-/

namespace Sys2Proof.Machine

/-! The stream buffers (R258). -/

/-- Words that the port's read descriptors have asked for and the port has not taken. -/
def StreamPort.ahead (p : StreamPort) : Nat := (p.fifo.map fun x => x.asked - x.done).sum

/-- Words of a descriptor in the 256-byte chunk of word `k`, from it on. -/
def StreamDesc.chunkWords (x : StreamDesc) (k : Nat) : Nat := min (4 - (x.addr / 64 + k) % 4) (x.words - k)

/-- Deadline of a read request: 2 µs, 112 units, before the cycle of its first word; a word of the next step, whose cycle is not known
yet, is due now (R258; log entry 147). A cycle lasts 9 units divided by the divider of its clock. -/
def State.readDeadline (s : State) (c : Nat) (x : StreamDesc) (running : Bool) : BitVec 16 :=
  let due := (s.cove c).tide.stepCyc + x.cycle + x.asked * x.stride
  if running then s.netNow + BitVec.ofNat 16 ((due - s.cycles c) * 9 / opDivider (s.half (halfOf c)).op) - 112 else s.netNow

/-- The port of logical cove `l` asks for the next chunk of its read descriptors, never more than 256 words ahead. -/
def State.prefetch (s : State) (l : Nat) : State :=
  match portStack l, s.physOf l with
  | some st, some c =>
    (match s.attemptAt c with
     | none => s
     | some (b, n, _) =>
       match (s.stream l).fifo.find? fun x =>
         !x.write && decide (x.asked < x.words) && (x.step == n || x.step == n + 1) with
       | none => s
       | some x =>
         let k := x.chunkWords x.asked
         match s.locate b (x.addr + 64 * x.asked) with
         | none => s
         | some (_, g, u) =>
           if 256 < (s.stream l).ahead + k then s
           else
             (s.modStack st fun h => h.ask (h.resolve (some (b, x.step)) g (u / 256)) u (s.readDeadline c x (x.step == n))
               (some (l, x.id, x.asked))).modStream l fun p =>
               { p with fifo := p.fifo.map fun q => if q.id = x.id then { q with asked := q.asked + k } else q })
  | _, _ => s

/-- The words of a served chunk enter the port's read buffer (R258, R265). -/
def State.fillBuffer (s : State) (l id k : Nat) : State :=
  match (s.stream l).fifo.find? fun x => x.id == id, s.bayOfLog l with
  | some x, some b =>
    let v : View := some (b, x.step)
    let word (i : Nat) : ReadWord :=
      let a := x.addr + 64 * (k + i)
      ⟨id, k + i, rowOfBytes (s.bayBytes b v a 64), s.bayPoison b v a 64⟩
    let n := x.chunkWords k
    let s1 := match s.locate b (x.addr + 64 * k) with
      | some (st, g, u) =>
        (s.readFlips st ((s.stack st).resolve v g (u / 256)) u (64 * n)).modStack st fun h => h.countRd (64 * n)
      | none => s
    s1.modStream l fun p => { p with rdBuf := p.rdBuf ++ (List.range n).map word }
  | _, _ => s

/-! The schedulers (R255). -/

/-- The request with the earliest deadline, the oldest of several (R231, R255). -/
def earliestReq (q : List HbmReq) : Option HbmReq :=
  q.foldl (fun m r => match m with
    | none => some r
    | some e => if earlier r.deadline e.deadline then some r else some e) none

/-- Request `r` of stack `st` is served; `past` says that E was passed over for it. -/
def State.serveReq (s : State) (st : Nat) (r : HbmReq) (past : Bool) : State :=
  let late := earlier r.deadline s.netNow
  let s1 := s.modStack st fun k =>
    { k with
      reqs := k.reqs.erase r
      passed := k.passed.set 0 r.pc (if past then k.passed.get 0 r.pc + 1 else 0)
      ctr := onlyIf past (bump · 3 1) (onlyIf late (bump · 4 1) k.ctr) }
  match r.fill with
  | some (l, id, k) => s1.fillBuffer l id k
  | none => s1

/-- The next command of request `e` of a closed or another row: precharge, then activate. -/
def Stack.openFor (k : Stack) (e : HbmReq) : Stack :=
  let b := e.pc * 48 + e.bank
  if (k.openRow.find b).isSome then { k with openRow := k.openRow.erase b } else { k with openRow := k.openRow.put b e.row }

/-- One cycle of a pseudo-channel's scheduler: a bank at its refresh limit comes first; then E's next command, or a row hit in place of
its activate or precharge, at most 8 times, and never past a deadline (R255, R256). -/
def State.pcCycle (s : State) (st pc : Nat) : State :=
  let k := s.stack st
  let q := k.reqs.filter fun r => r.pc == pc
  let hit (r : HbmReq) : Bool := k.openRow.find (pc * 48 + r.bank) == some r.row
  match earliestReq q with
  | none => s
  | some e =>
    if (List.range 48).any fun b => k.unrefreshed pc b s.clk.elapsed (Config.refreshLimitNs k.temp) then s
    else if hit e then s.serveReq st e false
    else
      match q.find? hit with
      | some r =>
        if k.passed.get 0 pc < 8 && !earlier e.deadline s.netNow then s.serveReq st r true
        else s.modStack st fun k => k.openFor e
      | none => s.modStack st fun k => k.openFor e

/-- Each millisecond a trained stack reports its temperature (JESD238), a free value (R256, R272; log entry 202). -/
def State.senseStacks (s : State) : State :=
  if s.clk.elapsed % 1000000 = 0 then
    ((List.range 8).filter fun st => (s.stack st).trained).foldl
      (fun t st => (t.modStack st fun k => { k with temp := t.freeNat % 256 }).spend 1) s
  else s

/-- One cycle of every controller. A stack that rests or is disabled issues nothing. -/
def State.hbmCycle (s0 : State) : State :=
  let s := s0.senseStacks
  let s1 := (s.streams.rows.map Prod.fst).foldl State.prefetch s
  (s1.ctrls.rows.map Prod.fst).foldl (fun t st =>
    if t.stackRests st || (t.stack st).disabled then t
    else (((t.stack st).reqs.map HbmReq.pc).eraseDups).foldl (fun u pc => u.pcCycle st pc) t) s1

end Sys2Proof.Machine
end

