-- ==== Sys2Proof/Machine/JettyCycle.lean ====
section
/-!
DEFINITION. What the jetty does with its clock: it rejects a command of no opcode of Table 12.3 when it comes to parse it (R296,
R305), and does the register commands that waited for Headland (R384; log entries 163, 164).
-/

namespace Sys2Proof.Machine

/-- The command at the head of a port's queue, where it has no opcode of Table 12.3. -/
def State.unknownHead (s : State) (p : Nat) : Option JCmd :=
  match (s.portQ p).cmds.head? with
  | some c => if knownOpcodes.contains (jOp c) then none else some c
  | none => none

/-- The jetty parses a command without a row of its own: port 0's before port 1's. -/
def State.rejectUnknown (s : State) : State :=
  if !s.jettyFree then s
  else match s.unknownHead 0 with
    | some c => (s.takeCmd 0).reject c 0x9101
    | none => match s.unknownHead 1 with
      | some c => (s.takeCmd 1).reject c 0x9101
      | none => s

/-- The oldest register command that waited is done once Headland's PLL clocks. -/
def State.serveWaiting (s : State) : State :=
  match s.jetty.regWait with
  | [] => s
  | c :: rest =>
    if s.headlandWaits then s
    else
      let t := { s with jetty := { s.jetty with regWait := rest } }
      if jOp c = 0x11 then t.doRegRead c else t.doRegWrite c

/-- A nanosecond of the jetty. -/
def State.jettyCycle (s : State) : State := s.rejectUnknown.serveWaiting

end Sys2Proof.Machine
end

