-- ==== Sys2Proof/Machine/Wire.lean ====
section
/-!
DEFINITION. One nanosecond of the two Ethernet ports (11_ethernet_ports.md Table 11.1, R288, R289, R295, R297): the receive buffers drain
toward the die, the transmit queues onto the wire.
-/

namespace Sys2Proof.Machine

/-- Half-bytes that a port moves in a nanosecond, toward the die and onto the wire (Table 11.1). -/
def Port.halfBytes (x : Port) : Nat := if x.width = 0 then 0 else 25 * 2 ^ (x.width.toNat - 1)

/-- Bytes of a frame on the wire with preamble and gap; headers as RoCEv2, UDP and IP have them (log entry 160). -/
def Tx.wireBytes (t : Tx) : Nat :=
  let ip := if 2 ^ 32 ≤ t.ip.toNat then 40 else 20
  let body := match t.frame with
    | .datagram _ _ _ _ bs => ip + 8 + bs.length
    | .ack _ _ | .nak _ _ _ => ip + 28
    | .readResp _ _ _ bs => ip + 28 + bs.length
    | .cnp _ => ip + 40
    | .cm _ _ _ _ _ => ip + 288
    | .arp _ _ | .pause _ _ => 46
    | .neighbor _ _ => 72
    | .delayReq _ _ => 44
    | .echo _ _ bs => ip + bs.length
  38 + (if t.tag.isSome then 4 else 0) + body

/-- May the frame leave now: its priority is not paused, and a READ Response packet keeps to its queue pair's rate (R288, R289)? -/
def State.sendable (s : State) (p : Nat) (t : Tx) : Bool :=
  !(t.frame.roce && decide (s.clk.elapsed < (s.port p).pausedTill))
    && match t.frame with
      | .readResp q _ _ _ => decide ((s.qp q).nextAt ≤ s.clk.elapsed)
      | _ => true

/-- Is `g` an earlier datagram of the same session as `f`? -/
def TxFrame.before (g f : TxFrame) : Bool :=
  match g, f with
  | .datagram v _ _ m _, .datagram w _ _ n _ => v == w && v != 0 && decide (0 < (n + 2 ^ 32 - m) % 2 ^ 32 ∧ (n + 2 ^ 32 - m) % 2 ^ 32 < 2 ^ 31)
  | _, _ => false

/-- The next frame of a port: the oldest of the first queue that may leave, behind the session's earlier datagrams of the second; else
the oldest of the second (R295, R297; log entry 160). -/
def State.nextFrame (s : State) (p : Nat) : Option Tx :=
  let q := s.portQ p
  match q.first.find? (s.sendable p) with
  | some t =>
    match q.second.find? fun u => u.frame.before t.frame with
    | some u => some u
    | none => some t
  | none => q.second.find? (s.sendable p)

/-- A datagram of released output that fails the MAC's parity check is not sent (R331, R332): its SEQ stays consumed, a RESEND of it is
rejected, and the completions of the session's work carry 0xB015. -/
def State.withhold (s : State) (v : BitVec 16) (seq : Nat) : State :=
  let k := v.toNat % 256
  let b := k / 16
  let mark (w : Work) : Work := if w.sess = v.toNat then { w with outBad := true } else w
  ((s.modSess k fun x => { x with kept := x.kept.filter fun d => d.1 != seq }).modBay b fun y =>
    { y with
      run := y.run.map mark, berths := y.berths.map fun _ w => mark w
      ending := y.ending.map fun e => { e with work := mark e.work } }).logBay 0xB015 b

/-- A frame begins to leave: it is counted, and a READ Response packet sets when its queue pair may send the next (R288). Whether the
MAC's parity check of an OUTPUT datagram fails is free (R331, log entry 203). -/
def State.sendFrame (s : State) (p : Nat) (t : Tx) : State :=
  let unqueued := s.modPortQ p fun q =>
    { q with first := q.first.erase t, second := if q.first.contains t then q.second else q.second.erase t }
  let sent (u : State) : State := (u.modPortQ p fun q => { q with tx := q.tx ++ [t], owed := 2 * t.wireBytes }).ethCount p 1 1
  match t.frame with
  | .readResp q _ _ bs =>
    (sent unqueued).modQp q fun x => { x with nextAt := s.clk.elapsed + (if x.rate = 0 then 0 else 8000 * bs.length / x.rate) }
  | .datagram v _ 5 n _ =>
    if s.freeNat % 2 = 1 then (unqueued.spend 1).withhold v n else sent (unqueued.spend 1)
  | _ => sent unqueued

/-- The receive buffer drains at the port's rate; with what has fallen to 1 MiB the pause ends (R289). -/
def State.drainRx (s : State) (p : Nat) : State :=
  let q := s.portQ p
  if q.rxHalf = 0 then s
  else
    let left := q.rxHalf - (s.port p).halfBytes
    let s1 := s.modPortQ p fun q => { q with rxHalf := left }
    if q.pausing && decide (left ≤ 2097152) then
      (s1.modPortQ p fun q => { q with pausing := false }).transmit p (.pause (s.port p).pfcPrio 0)
    else s1

/-- ETH_FEC_CORR counts the codewords that the FEC decoder corrects while the link is up: a codeword lasts over 10 ns, so at most one
completes in a nanosecond, and whether it needed correction is free (R302, log entry 160). -/
def State.fecCycle (s : State) (p : Nat) : State := (s.ethCount p 3 (s.freeNat % 2)).spend 1

/-- One nanosecond of a port. -/
def State.wireCycle (s : State) (p : Nat) : State :=
  if !(s.port p).up then s
  else
    let s1 := (s.fecCycle p).drainRx p
    let q := s1.portQ p
    let s2 := if q.owed = 0 then s1 else s1.modPortQ p fun q => { q with owed := q.owed - (s.port p).halfBytes }
    if (s2.portQ p).owed ≠ 0 then s2
    else match s2.nextFrame p with
      | some t => s2.sendFrame p t
      | none => s2

end Sys2Proof.Machine
end

