-- ==== Sys2Proof/Machine/Tick.lean ====
section
/-!
DEFINITION. One nanosecond on an empty queue (log entry 1): the clocks of chapter 15 and module time advance, and with them what the
spec lets run by itself without a row of the table: the power sequencer (R402), the HBM controllers' schedulers (R255), the jetty's
parsing (R296) and the ports' wires (Table 11.1). Everything else that is due at a time is a command of the table.
-/

namespace Sys2Proof.Machine

/-- Units of 1/160 cycle that an arithmetic clock advances in a nanosecond (R381): its divider while stable, 21 to 27 for
150 MHz ± 15 % while coasting, nothing otherwise. -/
def arithAdvance (p : Pll) (pick : Nat) : Nat :=
  match p.state with
  | .stable => p.fbdiv
  | .coasting => 21 + pick % 7
  | _ => 0

/-- Units of 1/1000 cycle that the current-network clock advances in a nanosecond: 900 MHz from the active PLL, 450 MHz ± 15 % while it coasts,
nothing while none is active (Table 15.2, R384). -/
def cnAdvance (c : Clocks) (pick : Nat) : Nat :=
  let q := if (c.plls.get {} 4).active then c.plls.get {} 4 else c.plls.get {} 5
  if !c.cnOn || !q.active then 0 else
    match q.state with
    | .stable => 900
    | .coasting => 383 + pick % 135
    | _ => 0

/-- The neap clock's advance in whole nanoseconds, and the part kept: exact on REFCLK, within ±10 % on the internal oscillator (R380). -/
def neapAdvance (c : Clocks) (pick : Nat) : Nat × Nat :=
  if c.neapSrc then ((c.neapFrac + 900 + pick % 201) / 1000, (c.neapFrac + 900 + pick % 201) % 1000) else (1, c.neapFrac)

/-- The neap clock has advanced by `d`: at an edge, every 26,214.4 ns of its own time, it moves to REFCLK if that is due (R380). -/
def Clocks.neapEdge (c : Clocks) (d : Nat) : Clocks :=
  let x := c.neapPhase + 5 * d
  if x < 131072 then { c with neapPhase := x }
  else { c with neapPhase := x - 131072, neapSrc := c.neapSrc && !c.neapDue, neapDue := false }

/-- Module time advances with its frequency correction, a whole nanosecond once the parts have gathered to one; while it slews, one
nanosecond in 10,000 more or less (R290, R291, R293). It never runs backward. -/
def ModTime.advance (t : ModTime) (now : Nat) (d : Nat) : ModTime :=
  let acc := t.frac + t.freq.toInt * d
  let r : Nat × Int := if 1000000000 ≤ acc then (d + 1, acc - 1000000000)
    else if acc ≤ -1000000000 ∧ 0 < d then (d - 1, acc + 1000000000) else (d, acc)
  if now % 10000 = 0 ∧ 0 < t.slew then { t with ns := t.ns + r.1 + 1, slew := t.slew - 1, frac := r.2 }
  else if now % 10000 = 0 ∧ t.slew < 0 ∧ 0 < r.1 then { t with ns := t.ns + r.1 - 1, slew := t.slew + 1, frac := r.2 }
  else { t with ns := t.ns + r.1, frac := r.2 }

/-- A droop stretch that is due begins: two cycles of edges (R403). -/
def Half.beginStretch (h : Half) : Half :=
  match h.stretch with
  | c :: t => if c * 160 ≤ h.cyc160 then { h with skip := h.skip + 320, stretch := t } else h
  | [] => h

/-- A half's clock brought to its edge on an alignment pulse (R391), the edges that a droop stretch suppresses apart. -/
def Half.onPulse (h : Half) : Half := { h with cyc160 := h.cyc160 + (160 - (h.cyc160 + 160 - h.skip % 160) % 160) % 160 }

/-- Arithmetic cycles of a half that the nanosecond from `now` brings: none in EBB (R388) or while one of its two PLLs does not clock (R384); a
droop stretch suppresses edges (R403); a stable clock has an edge on every alignment pulse (R391). -/
def Half.advance (h : Half) (p q : Pll) (now pick : Nat) : Half :=
  if h.ebb then h
  else
    let n := min (arithAdvance p pick) (arithAdvance q pick)
    let k := h.beginStretch
    let j := { k with cyc160 := k.cyc160 + (n - k.skip), skip := k.skip - n }
    if p.state = .stable ∧ q.state = .stable ∧ alignPulse (now + 1) then j.onPulse else j

/-- The sequencer of a half that changes (R383, R402): a higher voltage first, a lower frequency first, else the voltage first; the
voltage by at most 25 mV, each step settled in 2 µs, the dividers by one count a frame (log entry 162). -/
def State.sequence (s : State) (h : Nat) : State :=
  let k := s.half h
  let mv := opMv k.target
  let f := (s.pll h).fbdiv
  let div := opDivider k.target
  let volt (v : Nat) : State := s.modHalf h fun k => { k with mv := v, mvAt := some s.clk.now }
  let count (n : Nat) : State :=
    if alignPulse s.clk.now then [h, h + 2].foldl (fun t p => t.modPll p fun q => { q with fbdiv := n }) s else s
  if !k.changing || s.pwr.glideCause.isSome || k.mvAt.any (fun t => decide (s.clk.now < t + 2000)) then s
  else if k.mv < mv then volt (min mv (k.mv + 25))
  else if div < f then count (f - 1)
  else if mv < k.mv then volt (max mv (k.mv - 25))
  else if f < div then count (f + 1)
  else s

/-- An alignment frame of the emergency glide: every arithmetic PLL's divider falls by one, to no less than 24 (R410). -/
def glideFrame (c : Clocks) : Clocks :=
  { c with plls := (List.range 4).foldl (fun (t : Tab Pll) p => t.upd {} p fun q => { q with fbdiv := max (min q.fbdiv 24) (q.fbdiv - 1) }) c.plls }

/-- The clocks advance by one nanosecond. Without the auxiliary input nothing in the module runs. -/
def State.advanceClocks (s : State) : State :=
  if !s.pins.aux then { s with clk := { s.clk with now := s.clk.now + 1 } }
  else
    let c := if s.pwr.glideCause.isSome && s.clk.now % 160 == 0 then glideFrame s.clk else s.clk
    let pick := s.freeNat
    let (d, frac) := neapAdvance c pick
    let h0 := (s.half 0).advance (s.pll 0) (s.pll 2) c.now pick
    let h1 := (s.half 1).advance (s.pll 1) (s.pll 3) c.now pick
    { s with
      free := s.free + 1
      mt := s.mt.advance c.now (if c.lost then d else 1)
      clk := { c.neapEdge d with
        now := c.now + 1
        neapFrac := frac
        elapsed := c.elapsed + d
        cnMilli := c.cnMilli + cnAdvance c pick
        halves := (c.halves.set {} 0 h0).set {} 1 h1 } }

/-- Once the walk runs, fences are decided as soon as the bays concerned hold (R366, R367). -/
def State.fenceCycle (s : State) : State := if s.rot.fields.rows.any fun r => r.2.slotAt.isSome then s.decideFences none else s

/-- The PLLs of domains that have entered EBB go off 2 µs later (R388). -/
def State.ebbCycle (s : State) : State :=
  let due (t : Nat) : Bool := decide (t + 2000 ≤ s.clk.elapsed)
  let off (p : Nat) (t : State) : State := if (t.pll p).state = .off then t else t.stopPll p
  let halves := [0, 1].foldl (fun (t : State) h =>
    if (t.half h).ebbAt.any due then off (h + 2) (off h (t.modHalf h fun k => { k with ebbAt := none })) else t) s
  s.clk.sleep.rows.foldl (fun t r =>
    if r.2.1 != .ebb || !due r.2.2 then t
    else if 3000 ≤ r.1 then off 16 (off 5 (off 4 t))
    else if 2000 ≤ r.1 then off (r.1 - 2000 + 14) t
    else if 1000 ≤ r.1 then off (r.1 - 1000 + 6) t
    else t) halves

/-- On the first pulse of an alignment a seam path's buffer is reset, its read pointer 2 entries behind (R391). -/
def State.seamCycle (s : State) : State :=
  if alignPulse s.clk.now then
    { s with clk := { s.clk with seam := s.clk.seam.map fun _ p =>
      if p.state = .aligning ∧ p.clean = s.clk.now then { p with trail := 2 } else p } }
  else s

/-- One nanosecond: the clocks, the input samples, the parks of a lost input, the power sequencer, sleep, the seam, a cycle of the HBM controllers, the jetty, the ports' wires, the fences, and the end of a
cycle of the registers. -/
def tick (s : State) : State :=
  let u := s.advanceClocks
  let t := if u.pins.aux then u.sampleCycle.mateCycle.holdupCycle.parkCycle else u
  (if t.pins.aux then (((((((t.sequence 0).sequence 1).ebbCycle).seamCycle).hbmCycle.jettyCycle).wireCycle 0).wireCycle 1).fenceCycle else t).markCycle

end Sys2Proof.Machine
end

