-- ==== Sys2Proof/Safety.lean ====
section
/-!
DEFINITION. What counts as a safe state, and what a command leaves alone: every memory in its canonical form; the parts of the state that
two states agree on. Statements use these words.
-/

namespace Sys2Proof.Machine

/-- The memories of a cove in canonical form: scratchpad rows and spare rows, and each core's local data memory. -/
def Cove.memWf (c : Cove) : Bool :=
  Memory.wf c.sp.bytes && Memory.wf c.sp.spare && c.cores.rows.all fun r => Memory.wf r.2.dmem

/-- The memories outside the coves in canonical form: HBM and the non-volatile devices. -/
def State.memWf (s : State) : Bool := Memory.wf s.hbm && Memory.wf s.img.dev

/-- The memories of every cove in canonical form. -/
def State.covesWf (s : State) : Bool := s.coves.rows.all fun r => r.2.memWf

/-- The parts of the state, one for each field. -/
inductive Piece where
  | pending | free | clk | mt | coves | hbm | ctrls | streams | bays | sessions | qps | ports | portq
  | jetty | integ | rot | net | pwr | pwrx | img | su | ident | mg | pins | latches | cut
  deriving DecidableEq, Repr

/-- Two states agree on a part. -/
def Piece.agree : Piece → State → State → Prop
  | .pending, s, t => t.pending = s.pending
  | .free, s, t => t.free = s.free
  | .clk, s, t => t.clk = s.clk
  | .mt, s, t => t.mt = s.mt
  | .coves, s, t => t.coves = s.coves
  | .hbm, s, t => t.hbm = s.hbm
  | .ctrls, s, t => t.ctrls = s.ctrls
  | .streams, s, t => t.streams = s.streams
  | .bays, s, t => t.bays = s.bays
  | .sessions, s, t => t.sessions = s.sessions
  | .qps, s, t => t.qps = s.qps
  | .ports, s, t => t.ports = s.ports
  | .portq, s, t => t.portq = s.portq
  | .jetty, s, t => t.jetty = s.jetty
  | .integ, s, t => t.integ = s.integ
  | .rot, s, t => t.rot = s.rot
  | .net, s, t => t.net = s.net
  | .pwr, s, t => t.pwr = s.pwr
  | .pwrx, s, t => t.pwrx = s.pwrx
  | .img, s, t => t.img = s.img
  | .su, s, t => t.su = s.su
  | .ident, s, t => t.ident = s.ident
  | .mg, s, t => t.mg = s.mg
  | .pins, s, t => t.pins = s.pins
  | .latches, s, t => t.latches = s.latches
  | .cut, s, t => t.cut = s.cut

/-- State `t` differs from `s` at most in the parts listed. -/
def ChangesOnly (ps : List Piece) (s t : State) : Prop := ∀ p : Piece, ps.contains p = false → p.agree s t

/-- The next state of an outcome, if it answers one, differs from `s` at most in the parts listed. -/
def Leaves (ps : List Piece) (s : State) (o : Out) : Prop := ∀ t, o = .next t → ChangesOnly ps s t

/-- Nothing but physical cove `c` differs. -/
def CoveOnly (c : Nat) (s t : State) : Prop := t = s.setCove c (t.cove c)

/-- The frames `fs` join the transmit queues of port `p`, each the one it leaves from (R295), with their addresses as `base` has them; no frame
leaves. -/
def Queues (p : Nat) (fs : List TxFrame) (base s t : State) : Prop :=
  (t.portQ p).first = (s.portQ p).first ++ (fs.filter TxFrame.isFirst).map (base.addressed p)
    ∧ (t.portQ p).second = (s.portQ p).second ++ (fs.filter fun f => !f.isFirst).map (base.addressed p)
    ∧ (t.portQ p).tx = (s.portQ p).tx

/-- A packet is received where it arrives, not dropped or sent on (R222, R234, R236, R243, R455). -/
def State.receives (s : State) (p : Packet) : Bool :=
  s.net.valid p.epoch && asSent p && !p.resv && !s.aged p
    && (match p.dstLog with
      | some l => s.logOf p.dstPhys.toNat == some l.toNat
      | none => true)
    && !s.packetDropped p && !s.resetDrops p

/-- The state once the packet is taken from where it waits at its destination. -/
def State.taken (s : State) (p : Packet) : State := s.modCove p.dstPhys.toNat fun v => v.modNet fun n => n.takeEjected p

/-- A channel packet of kind `k` is received at cove `c`: in the form of Table 7.2, of an entry with good parity, for a slot that does not move
(R159, R172, R176). -/
def State.receivesChan (s : State) (c k : Nat) (p : ChanPkt) : Bool :=
  p.hdr.dstPhys.toNat == c && p.kind.toNat == k && s.receives (carrierOf p) && !p.hdr.bad && !p.resv && decide (p.len.toNat ≤ 64)
    && (k == kData || p.len == 0) && p.hdr.response == kindResponse k && (k == kConnect || !(s.chan c).badEntry p.dst) && !s.slotMoving c

/-- The state once a Tideline command has left its port's queue. -/
def State.parsed (s : State) (c : JCmd) : State := s.takeCmd (s.qp c.qp).port

/-- The command is the next to be parsed, now (R296), is one of this opcode, and passes every check of R305. -/
def State.accepts (s : State) (c : JCmd) (op : Nat) : Prop := s.parses c = true ∧ jOp c = op ∧ (s.parsed c).checkCmd c op = none

/-! What a pebble core's instruction does (chapter 05), in the words of the statements. -/

/-- Core `r` can complete its instruction now as far as every instruction asks (R116, R130): it runs, or is blocked on this very
instruction; the word in instruction memory and the registers read have good parity; no register is awaited from the scratchpad. -/
def readyAgain (s : State) (r : CoreRef) (again : CoreWait → Bool) (u : Uses) : Bool :=
  let k := s.core r
  k.takes again && !k.imemBad.contains (k.pc / 4) && !(u.g.any fun x => k.gBad.contains x.toNat)
    && !(u.v.any fun x => k.vBad.contains x) && !awaits s r u

/-- The same of an instruction that never blocks. -/
def ready (s : State) (r : CoreRef) (u : Uses) : Bool := readyAgain s r never u

/-- What completing an instruction does to a core beside the instruction's own effect: the pc goes on to `next`, the count of retired
instructions rises, the cycles held in D or blocked are counted (Table 5.17), HALT, a single step or a breakpoint at `next` halts it. Nothing else of the core but
its general and vector registers and local data memory may differ. -/
def Progress (k k' : PCore) (cyc next : Nat) : Prop :=
  k' = { k with
    pc := next, wait := none, retired := satAdd32 k.retired 1, ctl := k.ctl &&& 0xD
    state := if k.ctl.getLsbD 0 || k.ctl.getLsbD 1 || (k.ctl.getLsbD 2 && next == k.bkpt.toNat / 4 * 4) then 4 else 1
    stall := satAdd32 k.stall (match k.heldAt with
      | some h => cyc - h
      | none => if k.state = 3 then cyc - k.stalledAt else 0)
    heldAt := none
    g := k'.g, gBad := k'.gBad, v := k'.v, vBad := k'.vBad, dmem := k'.dmem, dmemBad := k'.dmemBad }

/-- Every general register as before, with its parity. -/
def KeepsG (k k' : PCore) : Prop := k'.g = k.g ∧ k'.gBad = k.gBad
/-- Every vector register as before, with its parity. -/
def KeepsV (k k' : PCore) : Prop := k'.v = k.v ∧ k'.vBad = k.vBad
/-- Local data memory as before, with its parity. -/
def KeepsD (k k' : PCore) : Prop := k'.dmem = k.dmem ∧ k'.dmemBad = k.dmemBad

/-- Nothing but the progress. -/
def WritesNone (k k' : PCore) : Prop := KeepsG k k' ∧ KeepsV k k' ∧ KeepsD k k'

/-- g[rd] becomes `x`, with good parity, unless rd is 0; every other register and local data memory as before (R104). -/
def WritesG (rd : BitVec 5) (x : Word) (k k' : PCore) : Prop :=
  (∀ j : BitVec 5, k'.rg j = if j = rd ∧ j ≠ 0 then x else k.rg j)
    ∧ (∀ j : Nat, k'.gBad.contains j = (k.gBad.contains j && !(decide (rd ≠ 0) && j == rd.toNat)))
    ∧ KeepsV k k' ∧ KeepsD k k'

/-- v[vd] becomes `x`, with good parity; every other register and local data memory as before (R104). -/
def WritesV (vd : Nat) (x : Row) (k k' : PCore) : Prop :=
  (∀ j : Nat, k'.rv j = if j = vd then x else k.rv j)
    ∧ (∀ j : Nat, k'.vBad.contains j = (k.vBad.contains j && j != vd))
    ∧ KeepsG k k' ∧ KeepsD k k'

/-- The bytes `bs` stand in local data memory from `a` on, with good parity; every other byte and every register as before. -/
def WritesD (a : Nat) (bs : List Byte) (k k' : PCore) : Prop :=
  (∀ x : Nat, memByte k'.dmem x = if a ≤ x ∧ x < a + bs.length then bs.getD (x - a) 0 else memByte k.dmem x)
    ∧ (∀ x : Nat, k'.dmemBad.contains x = (k.dmemBad.contains x && !decide (a ≤ x ∧ x < a + bs.length)))
    ∧ KeepsG k k' ∧ KeepsV k k'

/-- Command `c`, an instruction of core `r`, completes in `s`: the core goes on at `next` and `P` says what it wrote. Nothing outside the
core differs from `base`, which is `s` but for what the statement says. With `next` past the instruction memory, 0x4000, its fetch then
raises 0x4102 (R108). -/
def CompletesFrom (c : Instr) (s base : State) (r : CoreRef) (next : Nat) (P : PCore → PCore → Prop) : Prop :=
  ∃ t : State, exec c s = .next (if next = 0x4000 then t.exception r 0x4102 else t)
    ∧ t = base.modCore r (fun _ => t.core r)
    ∧ Progress (s.core r) (t.core r) (s.cycles r.cove) next
    ∧ P (s.core r) (t.core r)

/-- The same with nothing outside the core changed. -/
def Completes (c : Instr) (s : State) (r : CoreRef) (next : Nat) (P : PCore → PCore → Prop) : Prop := CompletesFrom c s s r next P

/-! The kinds of commands that a statement about the whole machine names. -/

/-- The core whose instruction a command is (chapter 05). -/
def instrCore : Instr → Option CoreRef
  | .nopInstruction r _ | .fence r _ | .stepend r _ | .sinfo r _ | .trap r _ | .add r _ | .sub r _ | .and r _ | .or r _ | .xor r _
  | .sll r _ | .srl r _ | .sra r _ | .slt r _ | .sltu r _ | .min r _ | .max r _ | .minu r _ | .maxu r _ | .mul r _ | .mulh r _ | .mulhu r _
  | .div r _ | .divu r _ | .rem r _ | .remu r _ | .addi r _ | .andi r _ | .ori r _ | .xori r _ | .slti r _ | .sltiu r _ | .slli r _
  | .srli r _ | .srai r _ | .lui r _ | .ldw r _ | .ldh r _ | .ldhu r _ | .ldb r _ | .ldbu r _ | .stw r _ | .sth r _ | .stb r _ | .vld r _
  | .vst r _ | .beq r _ | .bne r _ | .blt r _ | .bge r _ | .bltu r _ | .bgeu r _ | .j r _ | .jal r _ | .jalr r _ | .spld r _ | .spst r _
  | .vspld r _ | .vspst r _ | .vaddI32 r _ | .vsubI32 r _ | .vand r _ | .vor r _ | .vxor r _ | .vminI32 r _ | .vmaxI32 r _ | .vmulI32 r _
  | .vaddF32 r _ | .vsubF32 r _ | .vmulF32 r _ | .vfmaF32 r _ | .vmaxF32 r _ | .vminF32 r _ | .vexp2F32 r _ | .vrcpF32 r _ | .vrsqF32 r _
  | .vaddBf16 r _ | .vmulBf16 r _ | .vredsumF32 r _ | .vredmaxF32 r _ | .vredsumI32 r _ | .vredmaxI32 r _ | .vbcast r _ | .vext r _
  | .vins r _ | .vcopy r _ | .vf2bf r _ | .vbf2fLo r _ | .vbf2fHi r _ | .vf2i r _ | .vi2f r _ | .vpack r _ | .vunpack r _ | .bissue r _
  | .bwait r _ | .bcnt r _ | .dq r _ | .dwait r _ | .tss r _ | .tsv r _ | .trs r _ | .trv r _ | .ttok r _ | .trtok r _ | .tbar r _
  | .cconn r _ | .cacc r _ | .csend r _ | .crecv r _ | .csel r _ | .cpoll r _ | .cclose r _ | .csetto r _ | .mrd r _ | .mwr r _
  | .csendTimeout r | .fullRetry r | .dataRetransmit r => some r
  | _ => none

/-- Commands that may change HBM: stores of steps, copies of a chunk, RDMA writes, the save of a cove, the load of a program or of the cargo, and what trains or
unpowers HBM, the loss of the last link before a requested reset (R300) among it. -/
def mayWriteHbm : Instr → Bool
  | .dmaWritePacket _ | .streamWordDue _ _ _ _ _ | .shadowChunkCopy _ _ _ _ _ | .rdmaWriteFirst _ _ _ | .rdmaWriteMiddle _ _
  | .rdmaWriteLast _ _ | .rdmaWriteOnly _ _ _ | .linkDownAt _ | .programLoadComplete _ | .auxInputLoss | .auxInputReturn | .mainInputLow
  | .mainInputHigh | .coveSave _ _ | .auxPowerOn | .stageS1 _ | .stageS2 _ | .stageS4 _ | .stageS5 _ | .stageS6 _ | .stageS11 | .cargoReadComplete
  | .stageLimitExpiry _ | .mateNHigh | .modReset | .pcsAlignmentLoss _ | .pllAcquireTimeout _ | .pllLockLoss _ | .refclkLoss => true
  | _ => false

/-- Commands that change the non-volatile devices. -/
def mayWriteDevices : Instr → Bool
  | .journalWrite | .journalCompaction | .logDeviceCopy | .nvWriteComplete => true
  | _ => false

end Sys2Proof.Machine
end

