-- ==== Sys2Proof/Certificates/Slice0/Obligations.lean ====
section
/-!
DEFINITION. The statements about this model.
-/

open Sys2Proof Sys2Proof.Machine

/-- Every R-format integer instruction of a core completes with its result in g[RD] (R109, Table 5.4): nothing else of the core but its
progress, and nothing outside the core, changes; RD = 0 writes nothing. -/
def Obligations.IntegerRegisterInstructionsComplete : Prop :=
  ∀ p ∈ ([(.add, fun a b => BitVec.ofNat 32 (a.toNat + b.toNat)),
      (.sub, fun a b => BitVec.ofInt 32 (a.toInt - b.toInt)),
      (.and, fun a b => a &&& b),
      (.or, fun a b => a ||| b),
      (.xor, fun a b => a ^^^ b),
      (.sll, fun a b => BitVec.ofNat 32 (a.toNat * 2 ^ (b.toNat % 32))),
      (.srl, fun a b => BitVec.ofNat 32 (a.toNat / 2 ^ (b.toNat % 32))),
      (.sra, fun a b => BitVec.ofInt 32 (a.toInt / 2 ^ (b.toNat % 32))),
      (.slt, fun a b => if a.toInt < b.toInt then 1 else 0),
      (.sltu, fun a b => if a.toNat < b.toNat then 1 else 0),
      (.min, fun a b => if a.toInt ≤ b.toInt then a else b),
      (.max, fun a b => if a.toInt ≤ b.toInt then b else a),
      (.minu, fun a b => if a.toNat ≤ b.toNat then a else b),
      (.maxu, fun a b => if a.toNat ≤ b.toNat then b else a),
      (.mul, fun a b => BitVec.ofNat 32 (a.toNat * b.toNat)),
      (.mulh, fun a b => BitVec.ofInt 32 (a.toInt * b.toInt / 2 ^ 32)),
      (.mulhu, fun a b => BitVec.ofNat 32 (a.toNat * b.toNat / 2 ^ 32)),
      (.div, fun a b => if b.toNat = 0 then 0xFFFFFFFF else BitVec.ofInt 32 (Int.tdiv a.toInt b.toInt)),
      (.divu, fun a b => if b.toNat = 0 then 0xFFFFFFFF else BitVec.ofNat 32 (a.toNat / b.toNat)),
      (.rem, fun a b => if b.toNat = 0 then a else BitVec.ofInt 32 (Int.tmod a.toInt b.toInt)),
      (.remu, fun a b => if b.toNat = 0 then a else BitVec.ofNat 32 (a.toNat % b.toNat))]
      : List ((CoreRef → RFields → Instr) × (Word → Word → Word))),
    ∀ (s : State) (r : CoreRef) (w : RFields), w.res = 0 → ready s r { g := [w.ra, w.rb], wg := [w.rd] } = true →
      Completes (p.1 r w) s r ((s.core r).pc + 4) (WritesG w.rd (p.2 ((s.core r).rg w.ra) ((s.core r).rg w.rb)))

/-- Every I-format integer instruction and immediate shift completes with its result in g[RD] (R107, R108): the immediate sign-extended but
in ANDI, ORI, XORI and LUI, where it is zero-extended. -/
def Obligations.IntegerImmediateInstructionsComplete : Prop :=
  (∀ p ∈ ([(.addi, fun a i => BitVec.ofInt 32 (a.toInt + i.toInt)),
      (.andi, fun a i => a &&& BitVec.ofNat 32 i.toNat),
      (.ori, fun a i => a ||| BitVec.ofNat 32 i.toNat),
      (.xori, fun a i => a ^^^ BitVec.ofNat 32 i.toNat),
      (.slti, fun a i => if a.toInt < i.toInt then 1 else 0),
      (.sltiu, fun a i => if a.toNat < (BitVec.ofInt 32 i.toInt).toNat then 1 else 0)]
      : List ((CoreRef → IFields → Instr) × (Word → BitVec 16 → Word))),
    ∀ (s : State) (r : CoreRef) (w : IFields), ready s r { g := [w.ra], wg := [w.rd] } = true →
      Completes (p.1 r w) s r ((s.core r).pc + 4) (WritesG w.rd (p.2 ((s.core r).rg w.ra) w.imm)))
  ∧ (∀ (s : State) (r : CoreRef) (w : IFields), w.ra = 0 → ready s r { g := [w.ra], wg := [w.rd] } = true →
      Completes (.lui r w) s r ((s.core r).pc + 4) (WritesG w.rd (BitVec.ofNat 32 (w.imm.toNat * 2 ^ 16))))
  ∧ (∀ p ∈ ([(.slli, fun a n => BitVec.ofNat 32 (a.toNat * 2 ^ n)),
      (.srli, fun a n => BitVec.ofNat 32 (a.toNat / 2 ^ n)),
      (.srai, fun a n => BitVec.ofInt 32 (a.toInt / 2 ^ n))]
      : List ((CoreRef → ShFields → Instr) × (Word → Nat → Word))),
    ∀ (s : State) (r : CoreRef) (w : ShFields), w.mid = 0 → ready s r { g := [w.ra], wg := [w.rd] } = true →
      Completes (p.1 r w) s r ((s.core r).pc + 4) (WritesG w.rd (p.2 ((s.core r).rg w.ra) w.sh.toNat)))

/-- A taken branch goes to PC + 4 × OFF, another to the next instruction; a jump goes to its target and JAL and JALR link in g31 and g[RD]
(R106, R108). A taken target above 0x3FFC (a negative one lies there, as a 32-bit address) or no multiple of 4 raises 0x4102 at the
instruction, which writes nothing. -/
def Obligations.BranchesAndJumpsComplete : Prop :=
  (∀ p ∈ ([(.beq, fun a b => a = b), (.bne, fun a b => a ≠ b), (.blt, fun a b => a.toInt < b.toInt), (.bge, fun a b => b.toInt ≤ a.toInt),
      (.bltu, fun a b => a.toNat < b.toNat), (.bgeu, fun a b => b.toNat ≤ a.toNat)]
      : List ((CoreRef → BFields → Instr) × (Word → Word → Prop))),
    ∀ (s : State) (r : CoreRef) (w : BFields), ready s r { g := [w.ra, w.rb] } = true →
      let t : Nat := (BitVec.ofInt 32 ((s.core r).pc + 4 * w.off.toInt)).toNat
      (¬ p.2 ((s.core r).rg w.ra) ((s.core r).rg w.rb) → Completes (p.1 r w) s r ((s.core r).pc + 4) WritesNone)
      ∧ (p.2 ((s.core r).rg w.ra) ((s.core r).rg w.rb) →
          (t ≤ 0x3FFC ∧ t % 4 = 0 → Completes (p.1 r w) s r t WritesNone)
          ∧ (¬ (t ≤ 0x3FFC ∧ t % 4 = 0) → exec (p.1 r w) s = .next (s.exception r 0x4102))))
  ∧ (∀ (s : State) (r : CoreRef) (off : BitVec 26),
      let t : Nat := (BitVec.ofInt 32 ((s.core r).pc + 4 * off.toInt)).toNat
      (ready s r {} = true →
        (t ≤ 0x3FFC ∧ t % 4 = 0 → Completes (.j r off) s r t WritesNone)
        ∧ (¬ (t ≤ 0x3FFC ∧ t % 4 = 0) → exec (.j r off) s = .next (s.exception r 0x4102)))
      ∧ (ready s r { wg := [31] } = true →
        (t ≤ 0x3FFC ∧ t % 4 = 0 → Completes (.jal r off) s r t (WritesG 31 (BitVec.ofNat 32 ((s.core r).pc + 4))))
        ∧ (¬ (t ≤ 0x3FFC ∧ t % 4 = 0) → exec (.jal r off) s = .next (s.exception r 0x4102))))
  ∧ (∀ (s : State) (r : CoreRef) (w : IFields), ready s r { g := [w.ra], wg := [w.rd] } = true →
      let t : Nat := (BitVec.ofInt 32 (((s.core r).rg w.ra).toInt + w.imm.toInt)).toNat
      (t ≤ 0x3FFC ∧ t % 4 = 0 → Completes (.jalr r w) s r t (WritesG w.rd (BitVec.ofNat 32 ((s.core r).pc + 4))))
      ∧ (¬ (t ≤ 0x3FFC ∧ t % 4 = 0) → exec (.jalr r w) s = .next (s.exception r 0x4102)))

/-- NOP and FENCE with no posted store out complete and write nothing, and FENCE with a posted store out leaves the core waiting; SINFO gives
what Table 5.7 says of its selector, and a reserved selector raises 0x4101; TRAP completes and writes nothing, and with TRAP_EN it leaves the
core halted (stopped, if the fetch past the instruction memory stops it); STEPEND leaves the core waiting for the next step, STATE 2, its pc at
STEPEND (R116, R122, R132). -/
def Obligations.ControlInstructionsComplete : Prop :=
  (∀ (s : State) (r : CoreRef) (w : RFields), w.res = 0 → ready s r {} = true →
    Completes (.nopInstruction r w) s r ((s.core r).pc + 4) WritesNone
    ∧ ((s.core r).ctl.getLsbD 3 = false → Completes (.trap r w) s r ((s.core r).pc + 4) WritesNone)
    ∧ ((s.core r).ctl.getLsbD 3 = true → ∃ t : State,
        exec (.trap r w) s = .next ((if (s.core r).pc + 4 = 0x4000 then t.exception r 0x4102 else t).modCore r fun k =>
          { k with state := if k.state = 5 then 5 else 4 })
        ∧ t = s.modCore r (fun _ => t.core r) ∧ Progress (s.core r) (t.core r) (s.cycles r.cove) ((s.core r).pc + 4)
        ∧ WritesNone (s.core r) (t.core r))
    ∧ exec (.stepend r w) s = .next (s.modCore r fun k =>
        { k with state := 2, wait := some .stepend, stalledAt := s.cycles r.cove }))
  ∧ (∀ (s : State) (r : CoreRef) (w : RFields), w.res = 0 → readyAgain s r (fun x => x == .fence) {} = true →
      (((s.cove r.cove).sp.reqs.filter fun q => q.core == r.core.val && q.write) = [] →
        Completes (.fence r w) s r ((s.core r).pc + 4) WritesNone)
      ∧ (((s.cove r.cove).sp.reqs.filter fun q => q.core == r.core.val && q.write) ≠ [] →
        exec (.fence r w) s = .next (s.stall r .fence)))
  ∧ (∀ (s : State) (r : CoreRef) (w : RFields), 8 ≤ w.ra.toNat → ready s r { wg := [w.rd] } = true →
      exec (.sinfo r w) s = .next (s.exception r 0x4101))
  ∧ (∀ (s : State) (r : CoreRef) (w : RFields), w.res = 0 → w.ra.toNat < 8 → ready s r { wg := [w.rd] } = true →
      let bay := s.bayOf r.cove
      let run := bay.bind fun b => (s.bay b).st.newest
      let no := (run.map StepRec.no).getD 0
      Completes (.sinfo r w) s r ((s.core r).pc + 4) (WritesG w.rd (BitVec.ofNat 32 (
        [no % 2 ^ 32, no / 2 ^ 32, (run.map StepRec.attempt).getD 0, r.core.val, (s.logOf r.cove).getD 0, r.cove.val, bay.getD 0,
          s.cycles r.cove - (s.cove r.cove).tide.stepCyc].getD w.ra.toNat 0))))

/-- Loads from local data memory put the bytes read, the lowest address lowest, extended as named, into g[RD] or v[RD]; stores put the low
bytes of g[RD], or v[RD], there in the same order and change no other byte (R114). An address that is no multiple of the size raises 0x4103, one whose bytes do not all lie below 0x1000
raises 0x4104, a byte whose parity fails raises 0x4109 in a load. -/
def Obligations.LocalDataInstructionsComplete : Prop :=
  (∀ p ∈ ([(.ldw, 4, fun n => BitVec.ofNat 32 n), (.ldh, 2, fun n => (BitVec.ofNat 16 n).signExtend 32),
      (.ldhu, 2, fun n => BitVec.ofNat 32 n), (.ldb, 1, fun n => (BitVec.ofNat 8 n).signExtend 32), (.ldbu, 1, fun n => BitVec.ofNat 32 n)]
      : List ((CoreRef → IFields → Instr) × Nat × (Nat → Word))),
    ∀ (s : State) (r : CoreRef) (w : IFields), ready s r { g := [w.ra], wg := [w.rd] } = true →
      let a := ((s.core r).rg w.ra + w.imm.signExtend 32).toNat
      (a % p.2.1 = 0 ∧ a + p.2.1 ≤ 0x1000 →
        ((∀ x ∈ (s.core r).dmemBad, x < a ∨ a + p.2.1 ≤ x) →
          Completes (p.1 r w) s r ((s.core r).pc + 4)
            (WritesG w.rd (p.2.2 (leNat ((List.range p.2.1).map fun i => memByte (s.core r).dmem (a + i))))))
        ∧ ((∃ x ∈ (s.core r).dmemBad, a ≤ x ∧ x < a + p.2.1) → exec (p.1 r w) s = .next (s.exception r 0x4109)))
      ∧ (a % p.2.1 ≠ 0 → exec (p.1 r w) s = .next (s.exception r 0x4103))
      ∧ (a % p.2.1 = 0 ∧ 0x1000 < a + p.2.1 → exec (p.1 r w) s = .next (s.exception r 0x4104)))
  ∧ (∀ p ∈ ([(.stw, 4), (.sth, 2), (.stb, 1)] : List ((CoreRef → IFields → Instr) × Nat)),
    ∀ (s : State) (r : CoreRef) (w : IFields), ready s r { g := [w.ra, w.rd] } = true →
      let a := ((s.core r).rg w.ra + w.imm.signExtend 32).toNat
      (a % p.2 = 0 ∧ a + p.2 ≤ 0x1000 →
        Completes (p.1 r w) s r ((s.core r).pc + 4) (WritesD a (leBytes p.2 ((s.core r).rg w.rd).toNat)))
      ∧ (a % p.2 ≠ 0 → exec (p.1 r w) s = .next (s.exception r 0x4103))
      ∧ (a % p.2 = 0 ∧ 0x1000 < a + p.2 → exec (p.1 r w) s = .next (s.exception r 0x4104)))
  ∧ (∀ (s : State) (r : CoreRef) (w : IFields), w.rd.toNat < 8 → ready s r { g := [w.ra], wv := [w.rd.toNat] } = true →
      let a := ((s.core r).rg w.ra + w.imm.signExtend 32).toNat
      (a % 64 = 0 ∧ a + 64 ≤ 0x1000 → (∀ x ∈ (s.core r).dmemBad, x < a ∨ a + 64 ≤ x) →
        Completes (.vld r w) s r ((s.core r).pc + 4)
          (WritesV w.rd.toNat (rowOfBytes ((List.range 64).map fun i => memByte (s.core r).dmem (a + i)))))
      ∧ (a % 64 = 0 ∧ a + 64 ≤ 0x1000 → (∃ x ∈ (s.core r).dmemBad, a ≤ x ∧ x < a + 64) → exec (.vld r w) s = .next (s.exception r 0x4109))
      ∧ (a % 64 ≠ 0 → exec (.vld r w) s = .next (s.exception r 0x4103))
      ∧ (a % 64 = 0 ∧ 0x1000 < a + 64 → exec (.vld r w) s = .next (s.exception r 0x4104)))
  ∧ (∀ (s : State) (r : CoreRef) (w : IFields), w.rd.toNat < 8 → ready s r { g := [w.ra], v := [w.rd.toNat] } = true →
      let a := ((s.core r).rg w.ra + w.imm.signExtend 32).toNat
      (a % 64 = 0 ∧ a + 64 ≤ 0x1000 →
        Completes (.vst r w) s r ((s.core r).pc + 4) (WritesD a (bytesOfRow ((s.core r).rv w.rd.toNat))))
      ∧ (a % 64 ≠ 0 → exec (.vst r w) s = .next (s.exception r 0x4103))
      ∧ (a % 64 = 0 ∧ 0x1000 < a + 64 → exec (.vst r w) s = .next (s.exception r 0x4104)))

/-- SPLD, SPST, VSPLD and VSPST with room for another access, an aligned offset and a handle check that passes complete once the access is
presented to the bank arbiters: it stands last of the cove's requests, with the offset, the size and, of a store, the data (R115, R116, R142).
With 2 loads or 4 stores of the core out the core waits; a misaligned offset raises 0x4105; a failing check raises its code and is kept. -/
def Obligations.ScratchpadAccessesArePresented : Prop :=
  ∀ p ∈ ([(.spld, fun w => w.rt.getLsbD 0 = false ∧ w.sz = 0, fun w => { g := [w.ra], wg := [w.rt, w.rt + 1] }, false, false),
      (.spst, fun w => w.rt.getLsbD 0 = false ∧ w.sz = 0, fun w => { g := [w.ra, w.rt, w.rt + 1] }, true, false),
      (.vspld, fun w => w.rt.toNat < 8, fun w => { g := [w.ra], wv := [w.rt.toNat] }, false, true),
      (.vspst, fun w => w.rt.toNat < 8, fun w => { g := [w.ra], v := [w.rt.toNat] }, true, true)]
      : List ((CoreRef → HFields → Instr) × (HFields → Prop) × (HFields → Uses) × Bool × Bool)),
    ∀ (s : State) (r : CoreRef) (w : HFields), p.2.1 w → readyAgain s r (fun x => x == .spLimit w) (p.2.2.1 w) = true →
      let write := p.2.2.2.1
      let vec := p.2.2.2.2
      let size := if vec then 2 ^ (w.sz.toNat + 3) else 8
      let k := s.core r
      let sp := (s.cove r.cove).sp
      let off := (k.rg w.ra + BitVec.ofNat 32 (w.off8.toNat * size)).toNat
      let outNow := (sp.reqs.filter fun q => q.core == r.core.val && (q.write == write)).length
      let step := s.stepsAt r.cove
      let code := ((sp.handle w.hdl.toNat).check off size (some r.core) (if write then some step else none)).1
      ((if write then 4 else 2) ≤ outNow → exec (p.1 r w) s = .next (s.stall r (.spLimit w)))
      ∧ (outNow < (if write then 4 else 2) →
          (off % size = 0 ∧ code = 0 →
            CompletesFrom (p.1 r w) s
              (s.modCove r.cove fun c => { c with sp := { c.sp with reqs := c.sp.reqs ++
                [{ core := r.core, write := write, handle := w.hdl, off := off, size := size, rt := w.rt, vec := vec
                   data := if !write then 0 else if vec then k.rv w.rt.toNat
                     else BitVec.ofNat 512 ((k.rg w.rt).toNat + 2 ^ 32 * (k.rg (w.rt + 1)).toNat)
                   since := s.cycles r.cove, step := step.2, pc := k.pc }] } }) r (k.pc + 4) WritesNone)
          ∧ (off % size ≠ 0 → exec (p.1 r w) s = .next (s.exception r 0x4105))
          ∧ (off % size = 0 ∧ code ≠ 0 → exec (p.1 r w) s = .next
              ((s.modCove r.cove fun c => { c with sp := c.sp.noteFault code w.hdl.toNat r.core 0 }).exception r code)))

/-- A cycle of a bank's arbiter (R115, R144 to R146). A request is a candidate where no older one of its core waits, its row lies in the bank and,
of a store, its step may write there. If the drain does not take the bank and a candidate may take it (any in a cycle without a row of the feed,
one that has waited 8 cycles in a cycle with one), the cycle grants a candidate that no other precedes: urgent before not urgent, among urgent ones the
earlier presented, then the next core in turn. The request of a core leaves; a store's bytes stand in their row, unless it is a store of a drain step, and no other byte of the scratchpad changes;
a load of bytes with good parity puts them into its registers; a load of a byte with bad parity raises 0x5020 and takes the core's other requests
with it. A write of the DMA engine puts the next bytes of its transfer there, as far as its row goes, and a read of it changes no byte of the
scratchpad. With the drain, or with no candidate that may take the bank, no request leaves and no byte changes. -/
def Obligations.ScratchpadGrantTakesEffect : Prop :=
  ∀ (s : State) (c : Fin 800) (bank : Fin 16) (feed : Bool),
    let sp := (s.cove c).sp
    let now := s.cycles c
    let urgent (q : NarrowReq) : Prop := q.since + 8 ≤ now
    let candidate (i : Nat) (q : NarrowReq) : Prop := sp.reqs[i]? = some q ∧ (∀ j x, j < i → sp.reqs[j]? = some x → x.core ≠ q.core)
      ∧ ((sp.handle q.handle.toNat).place (q.off / 64)).1 = bank.val
      ∧ (q.write = false ∨ q.core = 16 ∨ (s.stepsAt c).1.judge (sp.handle q.handle.toNat) q.step ≠ .stall)
    let may (i : Nat) (q : NarrowReq) : Prop := candidate i q ∧ (feed = true → urgent q)
    let precedes (x q : NarrowReq) : Prop :=
      (urgent x ∧ urgent q ∧ (x.since < q.since ∨ x.since = q.since ∧ rotDist sp.lastReq x.core < rotDist sp.lastReq q.core))
      ∨ (urgent x ∧ ¬ urgent q) ∨ (¬ urgent x ∧ ¬ urgent q ∧ rotDist sp.lastReq x.core < rotDist sp.lastReq q.core)
    ((∃ i q, may i q) → ∃ i q t, exec (.scratchpadNarrowGrant c bank false feed) s = .next t ∧ may i q ∧ (∀ j x, may j x → ¬ precedes x q)
      ∧ (let row := ((sp.handle q.handle.toNat).place (q.off / 64)).2
        let core : CoreRef := ⟨c, Fin.ofNat 16 q.core⟩
        let bytes := ((sp.row bank row).drop (q.off % 64)).take q.size
        (q.core < 16 → (q.write = true ∨ sp.rowBad bank row (q.off % 64) q.size = false) →
          (t.cove c).sp.reqs = presentNext q.core now (sp.reqs.take i ++ sp.reqs.drop (i + 1)))
        ∧ (q.core < 16 → q.write = true → ChangesOnly [.coves] s t ∧ (∀ d, d ≠ c.val → t.cove d = s.cove d) ∧ (∀ k, t.core k = s.core k)
            ∧ (∀ b r, (t.cove c).sp.row b r =
                (if (s.stepsAt c).1.isDrain q.step then sp else sp.write bank row (q.off % 64) ((bytesOfRow q.data).take q.size)).row b r))
        ∧ (q.core = 16 → q.write = true → (s.stepsAt c).1.isDrain q.step = false → ∀ d,
            ((s.cove c).net.dma.find? fun d => some d.seq == q.dma && d.started && !d.done) = some d →
            ∀ b r, (t.cove c).sp.row b r = (sp.deliver (sp.handle q.handle.toNat) q.off (d.buf.take (min (64 - q.off % 64) q.size))).row b r)
        ∧ (q.core = 16 → q.write = false → ∀ b r, (t.cove c).sp.row b r = sp.row b r)
        ∧ (q.core < 16 → q.write = false → sp.rowBad bank row (q.off % 64) q.size = false →
            ChangesOnly [.coves] s t ∧ (∀ d, d ≠ c.val → t.cove d = s.cove d) ∧ (∀ k, k ≠ core → t.core k = s.core k)
            ∧ (∀ b r, (t.cove c).sp.row b r = sp.row b r)
            ∧ (q.vec = true → (t.core core).rv q.rt.toNat = rowOfBytes bytes)
            ∧ (q.vec = false → q.rt.getLsbD 0 = false →
                (q.rt ≠ 0 → (t.core core).rg q.rt = BitVec.ofNat 32 (leNat (bytes.take 4)))
                ∧ (t.core core).rg (q.rt + 1) = BitVec.ofNat 32 (leNat (bytes.drop 4))))
        ∧ (q.core < 16 → q.write = false → sp.rowBad bank row (q.off % 64) q.size = true → ∃ u, t = u.exceptionAt core 0x5020 q.pc
            ∧ ChangesOnly [.coves] s u ∧ (∀ k, u.core k = s.core k) ∧ (∀ x ∈ (u.cove c).sp.reqs, x.core ≠ q.core)
            ∧ ∀ b r, (u.cove c).sp.row b r = sp.row b r)))
    ∧ ((∀ i q, ¬ may i q) → ∃ t, exec (.scratchpadNarrowGrant c bank false feed) s = .next t ∧ (t.cove c).sp.reqs = sp.reqs ∧ ChangesOnly [.coves] s t
        ∧ ∀ b r, (t.cove c).sp.row b r = sp.row b r)
    ∧ (∃ t, exec (.scratchpadNarrowGrant c bank true feed) s = .next t ∧ (t.cove c).sp.reqs = sp.reqs ∧ ChangesOnly [.coves] s t
        ∧ ∀ b r, (t.cove c).sp.row b r = sp.row b r)


/-- Every vector integer instruction completes with each 32-bit lane of v[VD] the result of the same lanes of v[VA] and v[VB] (R110, Table 5.6).
The moves between lanes and general registers, and the integer reductions, complete (Table 5.6). -/
def Obligations.VectorIntegerInstructionsComplete : Prop :=
  (∀ p ∈ ([(.vaddI32, fun a b => BitVec.ofNat 32 (a.toNat + b.toNat)),
        (.vsubI32, fun a b => BitVec.ofInt 32 (a.toInt - b.toInt)),
        (.vand, fun a b => a &&& b),
        (.vor, fun a b => a ||| b),
        (.vxor, fun a b => a ^^^ b),
        (.vminI32, fun a b => if a.toInt ≤ b.toInt then a else b),
        (.vmaxI32, fun a b => if a.toInt ≤ b.toInt then b else a),
        (.vmulI32, fun a b => BitVec.ofNat 32 (a.toNat * b.toNat))]
        : List ((CoreRef → VFields → Instr) × (Word → Word → Word))),
      ∀ (s : State) (r : CoreRef) (w : VFields), w.mod = 0 → w.rs = 0 → ready s r { v := [w.va.toNat, w.vb.toNat], wv := [w.vd.toNat] } = true →
        ∃ x : Row, Completes (p.1 r w) s r ((s.core r).pc + 4) (WritesV w.vd.toNat x)
          ∧ ∀ i, i < 16 → lane x i = p.2 (lane ((s.core r).rv w.va.toNat) i) (lane ((s.core r).rv w.vb.toNat) i))
  ∧ (∀ (s : State) (r : CoreRef) (w : VFields),
      let k := s.core r
      let a := k.rv w.va.toNat
      (ready s r { g := [w.rs], wv := [w.vd.toNat] } = true →
        ∃ x, Completes (.vbcast r w) s r (k.pc + 4) (WritesV w.vd.toNat x) ∧ ∀ i, i < 16 → lane x i = k.rg w.rs)
      ∧ (ready s r { v := [w.va.toNat], wg := [w.rs] } = true →
        Completes (.vext r w) s r (k.pc + 4) (WritesG w.rs (lane a (w.mod.toNat % 16))))
      ∧ (ready s r { g := [w.rs], v := [w.vd.toNat], wv := [w.vd.toNat] } = true →
        ∃ x, Completes (.vins r w) s r (k.pc + 4) (WritesV w.vd.toNat x)
          ∧ ∀ i, i < 16 → lane x i = if i = w.mod.toNat % 16 then k.rg w.rs else lane (k.rv w.vd.toNat) i)
      ∧ (ready s r { v := [w.va.toNat], wv := [w.vd.toNat] } = true → Completes (.vcopy r w) s r (k.pc + 4) (WritesV w.vd.toNat a))
      ∧ (w.vd = 0 → w.vb = 0 → w.mod = 0 → ready s r { v := [w.va.toNat], wg := [w.rs] } = true →
        Completes (.vredsumI32 r w) s r (k.pc + 4)
          (WritesG w.rs (BitVec.ofNat 32 (((List.range 16).map fun i => (lane a i).toNat).sum)))
        ∧ ∃ m, Completes (.vredmaxI32 r w) s r (k.pc + 4) (WritesG w.rs m)
          ∧ (∃ i, i < 16 ∧ m = lane a i) ∧ ∀ i, i < 16 → (lane a i).toInt ≤ m.toInt))

/-- The FP32 and BF16 instructions with a legal rounding mode complete: each lane of v[VD] is the lane operation of the same lanes, and each
subnormal flushed counts in the cove's BRK_DNORM (R110, R112, Table 5.6). A reserved rounding mode raises 0x4013. -/
def Obligations.VectorFloatInstructionsComplete : Prop :=
  (∀ p ∈ ([(.vaddF32, fun rz => f32Add rz), (.vsubF32, fun rz => f32Sub rz), (.vmulF32, fun rz => f32Mul rz),
      (.vmaxF32, fun _ => f32Max false), (.vminF32, fun _ => f32Max true)]
      : List ((CoreRef → VFields → Instr) × (Bool → Word → Word → Word × Nat))),
    ∀ (s : State) (r : CoreRef) (w : VFields), w.rs = 0 → w.mod.toNat < 4 →
      ready s r { v := [w.va.toNat, w.vb.toNat], wv := [w.vd.toNat] } = true →
      let f (i : Nat) := p.2 (w.mod.getLsbD 0) (lane ((s.core r).rv w.va.toNat) i) (lane ((s.core r).rv w.vb.toNat) i)
      (w.mod.toNat < 2 → ∃ x : Row,
        CompletesFrom (p.1 r w) s (s.countDnorm r.cove ((List.range 16).map fun i => (f i).2).sum) r ((s.core r).pc + 4) (WritesV w.vd.toNat x)
        ∧ ∀ i, i < 16 → lane x i = (f i).1)
      ∧ (2 ≤ w.mod.toNat → exec (p.1 r w) s = .next (s.exception r 0x4013)))
  ∧ (∀ (s : State) (r : CoreRef) (w : VFields), w.mod.toNat < 4 →
      ready s r { v := [w.va.toNat, w.vb.toNat, w.vd.toNat], wv := [w.vd.toNat] } = true →
      let f (i : Nat) := f32Fma (w.mod.getLsbD 0) (lane ((s.core r).rv w.va.toNat) i) (lane ((s.core r).rv w.vb.toNat) i)
        (lane ((s.core r).rv w.vd.toNat) i)
      (2 ≤ w.mod.toNat → exec (.vfmaF32 r w) s = .next (s.exception r 0x4013)) ∧ (w.mod.toNat < 2 → ∃ x : Row,
        CompletesFrom (.vfmaF32 r w) s (s.countDnorm r.cove ((List.range 16).map fun i => (f i).2).sum) r ((s.core r).pc + 4)
          (WritesV w.vd.toNat x)
        ∧ ∀ i, i < 16 → lane x i = (f i).1))
  ∧ (∀ p ∈ ([(.vexp2F32, f32Exp2), (.vrcpF32, f32Rcp), (.vrsqF32, f32Rsq)] : List ((CoreRef → VFields → Instr) × (Word → Word × Nat))),
    ∀ (s : State) (r : CoreRef) (w : VFields), w.rs = 0 → w.vb = 0 → w.mod.toNat < 4 → ready s r { v := [w.va.toNat], wv := [w.vd.toNat] } = true →
      let f (i : Nat) := p.2 (lane ((s.core r).rv w.va.toNat) i)
      (2 ≤ w.mod.toNat → exec (p.1 r w) s = .next (s.exception r 0x4013)) ∧ (w.mod.toNat < 2 → ∃ x : Row,
        CompletesFrom (p.1 r w) s (s.countDnorm r.cove ((List.range 16).map fun i => (f i).2).sum) r ((s.core r).pc + 4) (WritesV w.vd.toNat x)
        ∧ ∀ i, i < 16 → lane x i = (f i).1))
  ∧ (∀ p ∈ ([(.vaddBf16, bf16Add), (.vmulBf16, bf16Mul)]
      : List ((CoreRef → VFields → Instr) × (Bool → BitVec 16 → BitVec 16 → BitVec 16 × Nat))),
    ∀ (s : State) (r : CoreRef) (w : VFields), w.rs = 0 → w.mod.toNat < 4 →
      ready s r { v := [w.va.toNat, w.vb.toNat], wv := [w.vd.toNat] } = true →
      let f (i : Nat) := p.2 (w.mod.getLsbD 0) (half16 ((s.core r).rv w.va.toNat) i) (half16 ((s.core r).rv w.vb.toNat) i)
      (2 ≤ w.mod.toNat → exec (p.1 r w) s = .next (s.exception r 0x4013)) ∧ (w.mod.toNat < 2 → ∃ x : Row,
        CompletesFrom (p.1 r w) s (s.countDnorm r.cove ((List.range 32).map fun i => (f i).2).sum) r ((s.core r).pc + 4) (WritesV w.vd.toNat x)
        ∧ ∀ i, i < 32 → half16 x i = (f i).1))

/-- VREDSUM.F32 and VREDMAX.F32 complete with the tree of R111: neighbouring lanes in pairs, then pairs of pairs, to one value in g[RS], each
addition rounded to nearest with ties to even; each subnormal flushed on the way counts in the cove's BRK_DNORM. -/
def Obligations.VectorFloatReductionsComplete : Prop :=
  ∀ p ∈ ([(.vredsumF32, f32Add false), (.vredmaxF32, f32Max false)]
      : List ((CoreRef → VFields → Instr) × (Word → Word → Word × Nat))),
    ∀ (s : State) (r : CoreRef) (w : VFields), w.vd = 0 → w.vb = 0 → w.mod = 0 → ready s r { v := [w.va.toNat], wg := [w.rs] } = true →
      let x (i : Nat) := lane ((s.core r).rv w.va.toNat) i
      let f (a b : Word) := (p.2 a b).1
      let n (a b : Word) := (p.2 a b).2
      let x2 (i : Nat) := f (x (2 * i)) (x (2 * i + 1))
      let x4 (i : Nat) := f (x2 (2 * i)) (x2 (2 * i + 1))
      let x8 (i : Nat) := f (x4 (2 * i)) (x4 (2 * i + 1))
      let flushed := ((List.range 8).map fun i => n (x (2 * i)) (x (2 * i + 1))).sum + ((List.range 4).map fun i => n (x2 (2 * i)) (x2 (2 * i + 1))).sum
        + ((List.range 2).map fun i => n (x4 (2 * i)) (x4 (2 * i + 1))).sum + n (x8 0) (x8 1)
      CompletesFrom (p.1 r w) s (s.countDnorm r.cove flushed) r ((s.core r).pc + 4) (WritesG w.rs (f (x8 0) (x8 1)))

/-- The conversions complete: BF16 to FP32 exactly but for flushed subnormals, FP32 to BF16 and to INT32, INT32 to FP32, and a block of 32
values packed and unpacked, with their events counted (R110, R113, Table 5.6). VF2BF, VF2I and VI2F with a reserved rounding mode raise 0x4013.
A pack or unpack with a format that has no block, a size of 0 or one other than 32 raises 0x4011, 0x4010 or 0x4012. An unpack whose VD and VB
name one register leaves elements 16–31 there, which is the model's choice (log entry 177); a word wrong in format and size raises
0x4011 (log entry 15). -/
def Obligations.VectorConversionsComplete : Prop :=
  ∀ (s : State) (r : CoreRef) (w : VFields),
    let k := s.core r
    let a := k.rv w.va.toNat
    let b := k.rv w.vb.toNat
    let ab := words a ++ words b
    let fmt := w.mod.toNat % 16
    let counts (sat ovf unf dnorm invalid : Nat) : State :=
      s.modCove r.cove fun c => { c with brk := { c.brk with ctr := countEvents c.brk.ctr sat ovf unf dnorm invalid } }
    (∀ p ∈ ([(.vbf2fLo, 0), (.vbf2fHi, 16)] : List ((CoreRef → VFields → Instr) × Nat)),
      w.vb = 0 → w.rs = 0 → ready s r { v := [w.va.toNat], wv := [w.vd.toNat] } = true →
        let f (i : Nat) := bf16Val (half16 a (p.2 + i))
        ∃ x : Row, CompletesFrom (p.1 r w) s (s.countDnorm r.cove ((List.range 16).map fun i => (f i).2).sum) r (k.pc + 4) (WritesV w.vd.toNat x)
          ∧ ∀ i, i < 16 → lane x i = f32Bits (f i).1)
    ∧ (w.vb = 0 → w.rs = 0 → 2 ≤ w.mod.toNat → w.mod.toNat < 4 → ready s r { v := [w.va.toNat], wv := [w.vd.toNat] } = true →
        exec (.vf2i r w) s = .next (s.exception r 0x4013) ∧ exec (.vi2f r w) s = .next (s.exception r 0x4013))
    ∧ (w.rs = 0 → 2 ≤ w.mod.toNat → w.mod.toNat < 4 → ready s r { v := [w.va.toNat, w.vb.toNat], wv := [w.vd.toNat] } = true →
        exec (.vf2bf r w) s = .next (s.exception r 0x4013))
    ∧ (w.vb = 0 → w.rs = 0 → w.mod.toNat < 2 → ready s r { v := [w.va.toNat], wv := [w.vd.toNat] } = true →
        let f (i : Nat) := f32ToInt (w.mod.getLsbD 0) (lane a i)
        (∃ x : Row, CompletesFrom (.vf2i r w) s (s.countDnorm r.cove ((List.range 16).map fun i => (f i).2).sum) r (k.pc + 4) (WritesV w.vd.toNat x)
          ∧ ∀ i, i < 16 → lane x i = (f i).1)
        ∧ ∃ x : Row, Completes (.vi2f r w) s r (k.pc + 4) (WritesV w.vd.toNat x)
          ∧ ∀ i, i < 16 → lane x i = intToF32 (w.mod.getLsbD 0) (lane a i))
    ∧ (w.rs = 0 → w.mod.toNat < 2 → ready s r { v := [w.va.toNat, w.vb.toNat], wv := [w.vd.toNat] } = true →
        let l := ab.map (f32ToBf16 (w.mod.getLsbD 0))
        let ev := l.foldl (fun (e : Events) x => e.add x.2) ({} : Events)
        ∃ x : Row, CompletesFrom (.vf2bf r w) s (counts ev.sat 0 0 ev.dnorm 0) r (k.pc + 4) (WritesV w.vd.toNat x)
          ∧ ∀ i, i < 32 → half16 x i = ((l.map Prod.fst).getD i 0))
    ∧ (ready s r { g := [w.rs], v := [w.va.toNat, w.vb.toNat], wv := [w.vd.toNat] } = true →
        (fmtBlock fmt = true → (k.rg w.rs).toNat % 64 = 32 →
          let xs := ab.map f32Val
          let y := convBlock fmt (if w.mod.getLsbD 5 then 1 else 0) (w.mod.getLsbD 4) (fun _ => 0) (xs.map Prod.fst)
          CompletesFrom (.vpack r w) s (counts y.2.2.sat y.2.2.ovf y.2.2.unf (xs.map Prod.snd).sum y.2.2.invalid) r (k.pc + 4)
            (WritesV w.vd.toNat (BitVec.ofNat 512 (y.1 + y.2.1 * 2 ^ 256))))
        ∧ (fmtBlock fmt = false → exec (.vpack r w) s = .next (s.exception r 0x4011))
        ∧ (fmtBlock fmt = true → (k.rg w.rs).toNat % 64 = 0 → exec (.vpack r w) s = .next (s.exception r 0x4010))
        ∧ (fmtBlock fmt = true → (k.rg w.rs).toNat % 64 ≠ 0 → (k.rg w.rs).toNat % 64 ≠ 32 → exec (.vpack r w) s = .next (s.exception r 0x4012)))
    ∧ (ready s r { g := [w.rs], v := [w.va.toNat], wv := [w.vd.toNat, w.vb.toNat] } = true →
        (fmtBlock fmt = false → exec (.vunpack r w) s = .next (s.exception r 0x4011))
        ∧ (fmtBlock fmt = true → (k.rg w.rs).toNat % 64 = 0 → exec (.vunpack r w) s = .next (s.exception r 0x4010))
        ∧ (fmtBlock fmt = true → (k.rg w.rs).toNat % 64 ≠ 0 → (k.rg w.rs).toNat % 64 ≠ 32 → exec (.vunpack r w) s = .next (s.exception r 0x4012))
        ∧ (fmtBlock fmt = true → (k.rg w.rs).toNat % 64 = 32 →
          let scale := a.toNat / 2 ^ 256 % 256
          let out (i : Nat) := toF32Sat (elemVal fmt scale (blockElem fmt a.toNat i))
          let v (i : Nat) := (out i).1
          let sum (f : Events → Nat) := ((List.range 32).map fun i => f (out i).2).sum
          let bad := ((List.range 32).filter fun i => elemInvalid scale (blockElem fmt a.toNat i)).length
          ∃ t : State, exec (.vunpack r w) s = .next (if k.pc + 4 = 0x4000 then t.exception r 0x4102 else t)
            ∧ t = (counts (sum Events.sat) 0 0 (sum Events.dnorm) bad).modCore r (fun _ => t.core r)
            ∧ Progress k (t.core r) (s.cycles r.cove) (k.pc + 4) ∧ KeepsG k (t.core r) ∧ KeepsD k (t.core r)
            ∧ (w.vd ≠ w.vb → ∀ i, i < 16 → lane ((t.core r).rv w.vd.toNat) i = v i)
            ∧ (∀ i, i < 16 → lane ((t.core r).rv w.vb.toNat) i = v (16 + i))
            ∧ ∀ j, j ≠ w.vd.toNat → j ≠ w.vb.toNat → (t.core r).rv j = k.rv j))

/-- The instructions that meet the breaker array and the DMA engine (R116 to R118, R240). BISSUE, with no posted store out, presents the
descriptor and waits for BREAKER_ACCEPT; with one out it waits for it. BWAIT and DWAIT complete when the completion point has reached
g[RA][15:0] under the half-range rule and else wait. BCNT gives the core's completion count. DQ with a good descriptor and room in the queue
completes with the new sequence number and queues the transfer, a no-op (OP 0, or a COPY of length 0) as one that is done and retires at once
where no older one is out; with a store out, or a full queue, it waits; a descriptor that fails its check raises the check's code; a fault that
waits for the core is taken at its next DQ or DWAIT. -/
def Obligations.BreakerAndDmaInstructionsComplete : Prop :=
  ∀ (s : State) (r : CoreRef) (w : RxFields), w.res = 0 → w.fn = 0 → w.rb = 0 →
    let k := s.core r
    let c := s.cove r.cove
    let n := (k.rg w.ra).setWidth 16
    let stores := c.sp.reqs.filter fun q => q.core == r.core.val && q.write
    let raw : BitVec 256 := (k.rv w.ra.toNat).setWidth 256
    let past (p : BitVec 16) : Prop := (p - n).toNat < 2 ^ 15
    (w.ra.toNat < 8 → readyAgain s r (fun x => x == .fence) { v := [w.ra.toNat], wg := [w.rd] } = true → stores = [] →
      exec (.bissue r w) s = .next (s.modCore r fun k =>
        { k with state := 3, wait := some (.breaker raw w.rd), stalledAt := if k.state = 3 then k.stalledAt else s.cycles r.cove }))
    ∧ (w.ra.toNat < 8 → readyAgain s r (fun x => x == .fence) { v := [w.ra.toNat], wg := [w.rd] } = true → stores ≠ [] →
      exec (.bissue r w) s = .next (s.stall r .fence))
    ∧ (w.rd = 0 → readyAgain s r (fun x => x == .bwait n) { g := [w.ra] } = true →
        (past c.brk.done → Completes (.bwait r w) s r (k.pc + 4) WritesNone)
        ∧ (¬ past c.brk.done → exec (.bwait r w) s = .next (s.stall r (.bwait n))))
    ∧ (w.ra = 0 → ready s r { wg := [w.rd] } = true →
        Completes (.bcnt r w) s r (k.pc + 4) (WritesG w.rd ((c.brk.counts.get 0 r.core).setWidth 32)))
    ∧ (w.rd = 0 → readyAgain s r (fun x => x == .dwait n) { g := [w.ra] } = true →
        (c.net.faults.find r.core = none →
          (past c.net.dmaDone → Completes (.dwait r w) s r (k.pc + 4) WritesNone)
          ∧ (¬ past c.net.dmaDone → exec (.dwait r w) s = .next (s.stall r (.dwait n))))
        ∧ ∀ code, c.net.faults.find r.core = some code → exec (.dwait r w) s = .next
            ((s.modCove r.cove fun c => { c with net := { c.net with faults := c.net.faults.erase r.core } }).exception r code))
    ∧ (w.ra.toNat < 8 → readyAgain s r sameDq { v := [w.ra.toNat], wg := [w.rd] } = true → c.net.faults.find r.core = none → stores = [] →
        (c.net.dma.filter fun x => !x.started).length < 16 →
        dmaCheck c.sp (s.bay ((s.bayOf r.cove).getD 0)) (s.stepsAt r.cove).2 (dmaDesc raw) = 0 →
        (dmaDesc raw).op ≠ 0 → ((dmaDesc raw).op = 1 → 0 < (dmaDesc raw).length) →
        CompletesFrom (.dq r w) s (s.modCove r.cove fun c => { c with net := { c.net with
            dmaSeq := c.net.dmaSeq + 1
            dma := c.net.dma ++ [{ desc := raw, seq := c.net.dmaSeq + 1, core := r.core, step := (s.stepsAt r.cove).2
                                   attempt := ((s.stepsAt r.cove).1.newest.map StepRec.attempt).getD 0 }] } }) r (k.pc + 4)
          (WritesG w.rd ((c.net.dmaSeq + 1).setWidth 32)))
    ∧ (w.ra.toNat < 8 → readyAgain s r sameDq { v := [w.ra.toNat], wg := [w.rd] } = true → c.net.faults.find r.core = none → stores = [] →
        (c.net.dma.filter fun x => !x.started).length < 16 →
        dmaCheck c.sp (s.bay ((s.bayOf r.cove).getD 0)) (s.stepsAt r.cove).2 (dmaDesc raw) = 0 →
        ((dmaDesc raw).op = 0 ∨ (dmaDesc raw).op = 1 ∧ (dmaDesc raw).length = 0) →
        CompletesFrom (.dq r w) s (s.modCove r.cove fun c => { c with net := retireHead { c.net with
            dmaSeq := c.net.dmaSeq + 1
            dma := c.net.dma ++ [{ desc := raw, seq := c.net.dmaSeq + 1, core := r.core, step := (s.stepsAt r.cove).2
                                   attempt := ((s.stepsAt r.cove).1.newest.map StepRec.attempt).getD 0, done := true }] } s.cnCycles }) r (k.pc + 4)
          (WritesG w.rd ((c.net.dmaSeq + 1).setWidth 32)))
    ∧ (w.ra.toNat < 8 → readyAgain s r sameDq { v := [w.ra.toNat], wg := [w.rd] } = true →
        (∀ code, c.net.faults.find r.core = some code → exec (.dq r w) s = .next
            ((s.modCove r.cove fun c => { c with net := { c.net with faults := c.net.faults.erase r.core } }).exception r code))
        ∧ (c.net.faults.find r.core = none → stores ≠ [] → exec (.dq r w) s = .next (s.stall r .fence))
        ∧ (c.net.faults.find r.core = none → stores = [] → 16 ≤ (c.net.dma.filter fun x => !x.started).length →
            exec (.dq r w) s = .next (s.stall r (.dmaQueue raw w.rd)))
        ∧ (let code := dmaCheck c.sp (s.bay ((s.bayOf r.cove).getD 0)) (s.stepsAt r.cove).2 (dmaDesc raw)
          c.net.faults.find r.core = none → stores = [] → (c.net.dma.filter fun x => !x.started).length < 16 → code ≠ 0 →
            ∃ t, exec (.dq r w) s = .next (t.exception r code) ∧ CoveOnly r.cove s t ∧ (∀ j, t.core j = s.core j)
              ∧ (t.cove r.cove).net = c.net.noteDma code r.core))

/-- The latches of the tide switch (R119, R121): a send with room puts the word last in its latch; a receive takes the oldest word, placed in
an earlier cycle, with its parity; TBAR leaves the core waiting at the barrier named. A send to a full latch, a receive from an empty one or
of a word placed in this cycle, and either at a frozen switch, leave the core waiting. -/
def Obligations.TideLatchInstructionsComplete : Prop :=
  ∀ (s : State) (r : CoreRef) (w : RxFields), w.res = 0 → w.rb = 0 →
    let k := s.core r
    let c := s.cove r.cove
    let put (p : Nat) (x : Row) : State := s.modCove r.cove fun c => c.modLatch r.core p fun l =>
      { l with send := l.send ++ [(x, s.cycles r.cove, true)] }
    let take (p : Nat) : State := s.modCove r.cove fun c => c.modLatch r.core p fun l => { l with recv := l.recv.drop 1 }
    (w.fn = 0 → w.rd = 0 →
      (∀ p ∈ ([(.tss, 0, false, (k.rg w.ra).setWidth 512), (.tsv, 1, true, k.rv w.ra.toNat), (.ttok, 2, false, ((k.rg w.ra).setWidth 8).setWidth 512)]
          : List ((CoreRef → RxFields → Instr) × Fin 3 × Bool × Row)),
        (p.2.2.1 = true → w.ra.toNat < 8) →
        readyAgain s r (fun x => x == .sendFull p.2.1) (if p.2.2.1 then { v := [w.ra.toNat] } else { g := [w.ra] }) = true →
        (c.tide.stopped (s.cycles r.cove) = false ∧ (c.latch r.core p.2.1).send.length < 2 →
          CompletesFrom (p.1 r w) s (put p.2.1 p.2.2.2) r (k.pc + 4) WritesNone)
        ∧ (c.tide.stopped (s.cycles r.cove) = true ∨ 2 ≤ (c.latch r.core p.2.1).send.length → exec (p.1 r w) s = .next (s.stall r (.sendFull p.2.1)))))
    ∧ (w.fn = 0 → w.ra = 0 → c.tide.stopped (s.cycles r.cove) = false →
        (∀ p ∈ ([(.trs, 0, fun x => x.setWidth 32), (.trtok, 2, fun x => (x.setWidth 8).setWidth 32)]
            : List ((CoreRef → RxFields → Instr) × Fin 3 × (Row → Word))),
          readyAgain s r (fun y => y == .recvEmpty p.2.1 w.rd) { wg := [w.rd] } = true →
          ∀ x t ok rest, (c.latch r.core p.2.1).recv = (x, t, ok) :: rest → t < s.cycles r.cove →
            (ok = true → CompletesFrom (p.1 r w) s (take p.2.1) r (k.pc + 4) (WritesG w.rd (p.2.2 x)))
            ∧ (ok = false → CompletesFrom (p.1 r w) s (take p.2.1) r (k.pc + 4) fun k k' =>
                (∀ j : BitVec 5, k'.rg j = if j = w.rd ∧ j ≠ 0 then p.2.2 x else k.rg j) ∧ (w.rd ≠ 0 → k'.gBad.contains w.rd.toNat = true)
                ∧ KeepsV k k' ∧ KeepsD k k'))
        ∧ (w.rd.toNat < 8 → readyAgain s r (fun y => y == .recvEmpty 1 w.rd) { wv := [w.rd.toNat] } = true →
          ∀ x t ok rest, (c.latch r.core 1).recv = (x, t, ok) :: rest → t < s.cycles r.cove →
            (ok = true → CompletesFrom (.trv r w) s (take 1) r (k.pc + 4) (WritesV w.rd.toNat x))
            ∧ (ok = false → CompletesFrom (.trv r w) s (take 1) r (k.pc + 4) fun k k' =>
                (∀ j : Nat, k'.rv j = if j = w.rd.toNat then x else k.rv j) ∧ k'.vBad.contains w.rd.toNat = true ∧ KeepsG k k' ∧ KeepsD k k')))
    ∧ (w.fn = 0 → w.ra = 0 →
        ∀ p ∈ ([(.trs, 0, false), (.trv, 1, true), (.trtok, 2, false)] : List ((CoreRef → RxFields → Instr) × Fin 3 × Bool)),
          (p.2.2 = true → w.rd.toNat < 8) →
          readyAgain s r (fun y => y == .recvEmpty p.2.1 w.rd) (if p.2.2 then { wv := [w.rd.toNat] } else { wg := [w.rd] }) = true →
          ((c.latch r.core p.2.1).recv = [] ∨ c.tide.stopped (s.cycles r.cove) = true
            ∨ (∃ x t ok rest, (c.latch r.core p.2.1).recv = (x, t, ok) :: rest ∧ s.cycles r.cove ≤ t) →
            exec (p.1 r w) s = .next (s.stall r (.recvEmpty p.2.1 w.rd))))
    ∧ (w.rd = 0 → w.ra = 0 → w.fn.toNat < 16 → ready s r {} = true →
        exec (.tbar r w) s = .next (s.modCore r fun k =>
          { k with state := 3, wait := some (.tbar (w.fn.setWidth 4)), stalledAt := s.cycles r.cove }))

/-- CCONN to an endpoint of the bay with a free entry takes the entry as a writer, sends CONNECT and waits; CACC with a request pending takes
a reader entry, sends ACCEPT and completes with its handle; CCLOSE and CSETTO of a channel the core holds note the close for this step's
commit and the timeout, and complete with OK (R124, R127, R160 to R162, R164, R168). Without a free entry the result of CCONN and CACC is LIMIT,
and CACC sends REFUSE and drops the request; with an endpoint outside the bay CCONN gives REFUSED; with a handle the core does not hold CCLOSE and
CSETTO give STALE; a stored entry with bad parity raises 0xA002 in both (R176). Without a request CACC waits. -/
def Obligations.ChannelSetupInstructionsComplete : Prop :=
  ∀ (s : State) (r : CoreRef) (w : CFields), w.m = false → w.len = 0 →
    let k := s.core r
    let ep := k.rg w.ra
    let h := ep.setWidth 16
    let ch := s.chan r.cove
    let inBay : Bool := (s.bayOf r.cove).any fun b => (s.bay b).has (epCove ep)
    let badEntry : State := s.modChan r.cove fun c => c.noteErr 0xA002 r.core (ch.entry (handleEntryOf h)).queue
    (w.rb = 0 → w.q = 0 → ready s r { g := [w.ra], wg := [w.rd] } = true →
      (∀ i, ep.toNat < 2 ^ 17 → epCove ep < 720 → inBay = true → ch.nextFree = some i → ∃ t, exec (.cconn r w) s = .next t ∧ CoveOnly r.cove s t
        ∧ (t.chan r.cove).entry i =
            { state := .connecting, writer := true, gen := (ch.entry i).gen + 1, core := r.core, farEp := ep, openedIn := s.stepAt r.cove }
        ∧ (∀ j, j ≠ i → (t.chan r.cove).entry j = ch.entry j)
        ∧ (t.core r).state = 3 ∧ (t.core r).wait = some (.cconn i w.rd)
        ∧ (t.cove r.cove).net = ((s.sendChan r.cove kConnect { blankChan with
            src := chanHandle i ((ch.entry i).gen + 1), srcEp := endpoint (s.lcove r.cove) r.core 0, dstEp := ep }).cove r.cove).net)
      ∧ (ep.toNat < 2 ^ 17 → epCove ep < 720 → inBay = true → ch.nextFree = none →
          Completes (.cconn r w) s r (k.pc + 4) (WritesG w.rd (BitVec.ofNat 32 (6 * 2 ^ 28))))
      ∧ (¬ (ep.toNat < 2 ^ 17 ∧ epCove ep < 720 ∧ inBay = true) →
          Completes (.cconn r w) s r (k.pc + 4) (WritesG w.rd (BitVec.ofNat 32 (4 * 2 ^ 28))))
      ∧ ((ch.entry (handleEntryOf h)).bad = true → exec (.cclose r w) s = .next (badEntry.exception r 0xA002))
      ∧ ((ch.entry (handleEntryOf h)).bad = false →
        (ch.holds r.core h false = true → CompletesFrom (.cclose r w) s (s.modChan r.cove fun c =>
            c.modEntry (handleEntryOf h) fun e => { e with closeIn := some (s.stepAt r.cove) }) r (k.pc + 4) (WritesG w.rd 0))
      ∧ (ch.holds r.core h false = false → Completes (.cclose r w) s r (k.pc + 4) (WritesG w.rd (BitVec.ofNat 32 (5 * 2 ^ 28))))))
    ∧ (w.ra = 0 → w.rb = 0 → readyAgain s r (fun x => x == .cacc w.q w.rd) { wg := [w.rd] } = true →
        (∀ e far rest i, (ch.queue r.core w.q.toNat).requests = (e, far) :: rest → ch.nextFree = some i →
          ∃ t u, exec (.cacc r w) s = .next (if k.pc + 4 = 0x4000 then u.exception r 0x4102 else u) ∧ u = t.modCore r (fun _ => u.core r)
            ∧ CoveOnly r.cove s t
            ∧ ((t.chan r.cove).queue r.core w.q.toNat).requests = rest
            ∧ (t.chan r.cove).entry i = { state := .open_, gen := (ch.entry i).gen + 1, core := r.core, queue := w.q.toNat, farHandle := far
                                          farEp := e, openedIn := s.stepAt r.cove }
            ∧ Progress k (u.core r) (s.cycles r.cove) (k.pc + 4)
            ∧ WritesG w.rd (chanResult 0 (chanHandle i ((ch.entry i).gen + 1)) 0) k (u.core r)
            ∧ (t.cove r.cove).net = ((s.sendChan r.cove kAccept { blankChan with
                dst := far, src := chanHandle i ((ch.entry i).gen + 1), srcEp := endpoint (s.lcove r.cove) r.core w.q.toNat, dstEp := e }).cove
                  r.cove).net)
        ∧ (∀ e far rest, (ch.queue r.core w.q.toNat).requests = (e, far) :: rest → ch.nextFree = none →
          ∃ t u, exec (.cacc r w) s = .next (if k.pc + 4 = 0x4000 then u.exception r 0x4102 else u) ∧ u = t.modCore r (fun _ => u.core r)
            ∧ CoveOnly r.cove s t
            ∧ ((t.chan r.cove).queue r.core w.q.toNat).requests = rest ∧ (∀ j, (t.chan r.cove).entry j = ch.entry j)
            ∧ Progress k (u.core r) (s.cycles r.cove) (k.pc + 4)
            ∧ WritesG w.rd (BitVec.ofNat 32 (6 * 2 ^ 28)) k (u.core r)
            ∧ (t.cove r.cove).net = ((s.sendChan r.cove kRefuse { blankChan with
                dst := far, srcEp := endpoint (s.lcove r.cove) r.core w.q.toNat, dstEp := e }).cove r.cove).net)
        ∧ ((ch.queue r.core w.q.toNat).requests = [] → exec (.cacc r w) s = .next (s.stall r (.cacc w.q w.rd))))
    ∧ (w.q = 0 → ready s r { g := [w.ra, w.rb], wg := [w.rd] } = true → (ch.entry (handleEntryOf h)).bad = true →
        exec (.csetto r w) s = .next (badEntry.exception r 0xA002))
    ∧ (w.q = 0 → ready s r { g := [w.ra, w.rb], wg := [w.rd] } = true → (ch.entry (handleEntryOf h)).bad = false →
        (ch.holds r.core h true = true → CompletesFrom (.csetto r w) s (s.modChan r.cove fun c =>
            c.modEntry (handleEntryOf h) fun e => { e with timeout := k.rg w.rb }) r (k.pc + 4) (WritesG w.rd 0))
        ∧ (ch.holds r.core h true = false → Completes (.csetto r w) s r (k.pc + 4) (WritesG w.rd (BitVec.ofNat 32 (5 * 2 ^ 28)))))

/-- CSEND on a channel the core holds keeps the message in the entry, sends DATA and waits for the answer; a message longer than 64 bytes raises
0x4107, an entry with bad parity 0xA002; a handle the core does not hold gives STALE and a channel that its reader closed CLOSED, counted in
CH_CLOSED. CRECV takes the oldest message of its queue into v[RB], the bytes beyond its length 0, and completes with its handle and length; a message with
bad parity raises 0xA002, and without a message CRECV waits. CSEL and CPOLL complete with the queue selected and keep it as the last selection;
a mask of zero gives NONE; without a queue to select CPOLL completes with NONE and CSEL waits (R125, R126, R165, R176). -/
def Obligations.ChannelTransferInstructionsComplete : Prop :=
  ∀ (s : State) (r : CoreRef) (w : CFields),
    let k := s.core r
    let h := (k.rg w.ra).setWidth 16
    let i := handleEntryOf h
    let ch := s.chan r.cove
    let mask := (k.rg w.ra).setWidth 8
    let found := selectQueue ch r.core mask w.m k.lastSel
    (w.q = 0 → w.m = false → w.rb.toNat < 8 → ready s r { g := [w.ra], v := [w.rb.toNat], wg := [w.rd] } = true →
      (w.len.toNat ≤ 64 → (ch.entry i).bad = false → ch.holds r.core h true = true → (ch.entry i).state ≠ .peerClosed →
        ∃ t, exec (.csend r w) s = .next t ∧ CoveOnly r.cove s t
          ∧ ((t.chan r.cove).entry i).state = .sending ∧ ((t.chan r.cove).entry i).msgLen = w.len.toNat
          ∧ ((t.chan r.cove).entry i).msg = lowBytes (k.rv w.rb.toNat) w.len.toNat
          ∧ (∀ j, j ≠ i → (t.chan r.cove).entry j = ch.entry j)
          ∧ (t.core r).state = 3 ∧ (t.core r).wait = some (.csend i w.rd)
          ∧ (t.cove r.cove).net = ((s.sendChan r.cove kData { blankChan with
              seq := (ch.entry i).seq, len := w.len, dst := (ch.entry i).farHandle, src := chanHandle i (ch.entry i).gen
              srcEp := endpoint (s.lcove r.cove) (ch.entry i).core 0, dstEp := (ch.entry i).farEp
              data := lowBytes (k.rv w.rb.toNat) w.len.toNat }).cove r.cove).net)
      ∧ (64 < w.len.toNat → exec (.csend r w) s = .next (s.exception r 0x4107))
      ∧ (w.len.toNat ≤ 64 → (ch.entry i).bad = true → exec (.csend r w) s = .next
          ((s.modChan r.cove fun c => c.noteErr 0xA002 r.core (ch.entry i).queue).exception r 0xA002))
      ∧ (w.len.toNat ≤ 64 → (ch.entry i).bad = false → ch.holds r.core h true = true → (ch.entry i).state = .peerClosed →
          CompletesFrom (.csend r w) s (s.modChan r.cove fun c => { c with closed := satAdd32 c.closed 1 }) r (k.pc + 4)
            (WritesG w.rd (BitVec.ofNat 32 (1 * 2 ^ 28))))
      ∧ (w.len.toNat ≤ 64 → (ch.entry i).bad = false → ch.holds r.core h true = false → Completes (.csend r w) s r (k.pc + 4) (WritesG w.rd (BitVec.ofNat 32 (5 * 2 ^ 28)))))
    ∧ (w.ra = 0 → w.m = false → w.len = 0 → w.rb.toNat < 8 →
        readyAgain s r (fun x => x == .crecv w.q w.rd w.rb) { wg := [w.rd], wv := [w.rb.toNat] } = true →
        (∀ m rest, (ch.queue r.core w.q.toNat).msgs = m :: rest → m.bad = false →
          ∃ t u, exec (.crecv r w) s = .next (if k.pc + 4 = 0x4000 then u.exception r 0x4102 else u) ∧ u = t.modCore r (fun _ => u.core r)
            ∧ CoveOnly r.cove s t ∧ ((t.chan r.cove).queue r.core w.q.toNat).msgs = rest
            ∧ Progress k (u.core r) (s.cycles r.cove) (k.pc + 4)
            ∧ (∀ j, j ≠ w.rb.toNat → (u.core r).rv j = k.rv j) ∧ (u.core r).rv w.rb.toNat = lowBytes m.data m.len
            ∧ (∀ j, (u.core r).rg j = if j = w.rd ∧ j ≠ 0 then chanResult 0 m.handle m.len else k.rg j) ∧ KeepsD k (u.core r))
        ∧ (∀ m rest, (ch.queue r.core w.q.toNat).msgs = m :: rest → m.bad = true →
          ∃ t, exec (.crecv r w) s = .next ((t.modChan r.cove fun c => c.noteErr 0xA002 r.core w.q.toNat).exception r 0xA002)
            ∧ CoveOnly r.cove s t ∧ ((t.chan r.cove).queue r.core w.q.toNat).msgs = rest ∧ t.core r = k)
        ∧ ((ch.queue r.core w.q.toNat).msgs = [] → exec (.crecv r w) s = .next (s.stall r (.crecv w.q w.rd w.rb))))
    ∧ (w.rb = 0 → w.q = 0 → w.len = 0 →
        (∀ q, found = some q → mask ≠ 0 →
          (ready s r { g := [w.ra], wg := [w.rd] } = true →
            ∀ c ∈ [Instr.csel r w, .cpoll r w], ∃ t, exec c s = .next (if k.pc + 4 = 0x4000 then t.exception r 0x4102 else t) ∧ t = s.modCore r (fun _ => t.core r) ∧ (t.core r).pc = k.pc + 4
              ∧ WritesG w.rd (chanResult 0 0 q) k (t.core r) ∧ (t.core r).lastSel = BitVec.ofNat 3 q
              ∧ Progress { k with lastSel := BitVec.ofNat 3 q } (t.core r) (s.cycles r.cove) (k.pc + 4)))
        ∧ (found = none → ready s r { g := [w.ra], wg := [w.rd] } = true →
            Completes (.cpoll r w) s r (k.pc + 4) (WritesG w.rd (BitVec.ofNat 32 (3 * 2 ^ 28)))
            ∧ (mask ≠ 0 → exec (.csel r w) s = .next (s.stall r (.csel mask w.m w.rd)))
            ∧ (mask = 0 → Completes (.csel r w) s r (k.pc + 4) (WritesG w.rd (BitVec.ofNat 32 (3 * 2 ^ 28))))))

/-- The queue that CSEL and CPOLL select holds a message and stands in the mask; with M = 0 no lower one does, with M = 1 none before it in
rotation after the last selection, and none is found only where no queue of the mask holds one (R126). -/
def Obligations.SelectedQueueHoldsAMessage : Prop :=
  ∀ (h : Channels) (core : Nat) (mask : BitVec 8) (rotate : Bool) (last : BitVec 3),
    (∀ q, selectQueue h core mask rotate last = some q → q < 8 ∧ mask.getLsbD q = true ∧ (h.queue core q).msgs ≠ []
      ∧ (rotate = false → ∀ p, p < q → mask.getLsbD p = true → (h.queue core p).msgs = [])
      ∧ (rotate = true → ∀ p, p < 8 → mask.getLsbD p = true → (h.queue core p).msgs ≠ [] → (q + 7 - last.toNat) % 8 ≤ (p + 7 - last.toNat) % 8))
    ∧ (selectQueue h core mask rotate last = none → ∀ q, q < 8 → mask.getLsbD q = true → (h.queue core q).msgs = [])

/-- A write that sets a debug, test or control field through a row of its own takes effect when the module owner makes it, and changes that field
only, and with it what the field governs there and then: HALT stops a running core and its clearing lets a halted one run, a breakpoint enabled at
the pc of a running core halts it, and the level of an array at rest falls with FILL_EN. A point above the highest and a hint above 50 are not taken.
Made by anyone else, a write changes nothing (R9, R102, R131, R132, R214, R233, R247, R256, R272, R361, R401, R412). -/
def Obligations.OwnerFieldWritesTakeEffect : Prop :=
  ∀ (s : State) (who : Requester),
    (s.isOwner who = true →
      (∀ r, exec (.pbHalt who r true) s = .next (s.modCore r fun k => { k with ctl := k.ctl ||| 1, state := if k.state = 1 then 4 else k.state }))
      ∧ (∀ r, exec (.pbHalt who r false) s = .next (s.modCore r fun k =>
          { k with ctl := k.ctl &&& 0xE, state := if k.state = 4 then 1 else k.state }))
      ∧ (∀ r, exec (.pbBkptEn who r true) s = .next (s.modCore r fun k =>
          { k with
            ctl := k.ctl ||| 4
            state := if k.ctl.getLsbD 2 = false ∧ k.state = 1 ∧ k.pc = k.bkpt.toNat / 4 * 4 then 4 else k.state }))
      ∧ (∀ r, exec (.pbBkptEn who r false) s = .next (s.modCore r fun k => { k with ctl := k.ctl &&& 0xB }))
      ∧ (∀ r v, exec (.pbTrapEn who r v) s = .next (s.modCore r fun k => { k with ctl := if v then k.ctl ||| 8 else k.ctl &&& 7 }))
      ∧ (∀ (c : Fin 800) v, exec (.brkFillEn who c v) s = .next (s.modCove c fun k => { k with brk := { k.brk with
          fillEn := v, level := if v || k.brk.streams || !k.brk.queue.isEmpty then k.brk.level else 0 } }))
      ∧ (∀ c : Fin 800, exec (.brkInjCk who c) s = .next (s.modCove c fun k => { k with brk := { k.brk with injCk := true } }))
      ∧ (∀ c : Fin 800, exec (.tfInjPar who c) s = .next (s.modCove c fun k => { k with tide := { k.tide with injPar := true } }))
      ∧ (∀ (c : Fin 800) v, exec (.cnE408Mask who c v) s = .next (s.modCove c fun k => { k with net := { k.net with e408 := v } }))
      ∧ (∀ c : Fin 800, exec (.cnInjPar who c) s = .next (s.modCove c fun k => { k with net := { k.net with injPar := true } }))
      ∧ (∀ (k : Fin 8) v, exec (.hbScrubEn who k v) s = .next (s.modStack k fun x => { x with scrubEn := v }))
      ∧ (∀ k : Fin 8, exec (.hbInjCe who k) s = .next (s.modStack k fun x => { x with injCe := true }))
      ∧ (∀ v, exec (.rotIntervalWrite who v) s = .next { s with rot := { s.rot with interval := v } })
      ∧ (∀ v, exec (.rotPause who v) s = .next { s with rot := { s.rot with pause := v } })
      ∧ (∀ v, exec (.pwrOpTargetWrite who v) s =
          .next (if v.toNat ≤ s.su.maxOp then { s with pwr := { s.pwr with opTarget := v } } else s))
      ∧ (∀ v, exec (.pwrHintMvWrite who v) s =
          .next (if v.toNat ≤ 50 then { s with pwr := { s.pwr with hintMv := v } } else s)))
    ∧ (s.isOwner who = false →
      (∀ r v, exec (.pbHalt who r v) s = .next s ∧ exec (.pbBkptEn who r v) s = .next s ∧ exec (.pbTrapEn who r v) s = .next s)
      ∧ (∀ r, exec (.pbStep1 who r) s = .next s)
      ∧ (∀ c v, exec (.brkFillEn who c v) s = .next s ∧ exec (.cnE408Mask who c v) s = .next s)
      ∧ (∀ c, exec (.brkInjCk who c) s = .next s ∧ exec (.tfInjPar who c) s = .next s ∧ exec (.cnInjPar who c) s = .next s)
      ∧ (∀ k v, exec (.hbScrubEn who k v) s = .next s ∧ exec (.hbInjCe who k) s = .next s)
      ∧ (∀ v, exec (.rotIntervalWrite who v) s = .next s) ∧ (∀ v, exec (.rotPause who v) s = .next s)
      ∧ (∀ v, exec (.pwrOpTargetWrite who v) s = .next s) ∧ (∀ v, exec (.pwrHintMvWrite who v) s = .next s))

/-- STEP1 written by the module owner runs the word at the pc of a halted core, as its instruction command would from the running state, and a
NOP there leaves the core halted again at the next word (R132). In a core that is not halted it does nothing. -/
def Obligations.SingleStepRunsOneInstruction : Prop :=
  ∀ (s : State) (who : Requester) (r : CoreRef), s.isOwner who = true →
    let k := s.core r
    let word := k.imem.get 0 (k.pc / 4)
    let s1 := s.modCore r fun k => { k with ctl := k.ctl ||| 2, state := 1 }
    (k.state ≠ 4 → exec (.pbStep1 who r) s = .next s)
    ∧ (k.state = 4 → word.toNat / 2 ^ 26 = 2 →
        exec (.pbStep1 who r) s = exec (.addi r ⟨word.extractLsb' 21 5, word.extractLsb' 16 5, word.extractLsb' 0 16⟩) s1)
    ∧ (k.state = 4 → word = 0 → k.imemBad.contains (k.pc / 4) = false → k.pc + 4 ≠ 0x4000 →
        ∃ t, exec (.pbStep1 who r) s = .next t ∧ (t.core r).state = 4 ∧ (t.core r).pc = k.pc + 4 ∧ WritesNone k (t.core r)
          ∧ (t.core r).retired = satAdd32 k.retired 1 ∧ CoveOnly r.cove s t ∧ ∀ q, q ≠ r → t.core q = s.core q)

/-- A read of a low word by a requester that may read it latches the high word for its requester and no other; a read of the high word then
returns what was latched (R58, R415, R443, R461, R478, R486). A read by one that may not changes nothing. -/
def Obligations.LowWordReadsLatchHighWord : Prop :=
  ∀ (s : State) (who : Requester),
    let latches (c : Instr) (off hi : Nat) : Prop := ∃ t, exec c s = .next t ∧ ChangesOnly [.latches] s t
      ∧ (∀ now, t.latched who (BitVec.ofNat 48 (0xF00000000000 + off)) now = BitVec.ofNat 32 hi)
      ∧ (∀ w a now, (w ≠ who ∨ a ≠ BitVec.ofNat 48 (0xF00000000000 + off)) → t.latched w a now = s.latched w a now)
      ∧ t.readAt who (off + 4) = (BitVec.ofNat 32 hi, t)
    (∀ b : Fin 16,
      (((∀ r, who ≠ .core r) ∧ s.readsBay who b = true ∨ ∃ r, who = .core r ∧ s.bayOf r.cove = some b.val) →
        latches (.stepCommitLoRead who b) (0x20000 + 0x200 * b) ((s.bay b).st.committed / 2 ^ 32))
      ∧ (¬ ((∀ r, who ≠ .core r) ∧ s.readsBay who b = true ∨ ∃ r, who = .core r ∧ s.bayOf r.cove = some b.val) →
        exec (.stepCommitLoRead who b) s = .next s)
      ∧ (s.readsBay who b = true →
        latches (.hrResetStepLoRead who b) (0x2010C + 0x200 * b) ((s.bay b).hang.resetStep.toNat / 2 ^ 32)
        ∧ latches (.energyLoRead who (.bay b)) (0x2100 + 8 * b) ((s.bay b).pwr.energy.toNat / 2 ^ 32))
      ∧ (s.readsBay who b = false → exec (.hrResetStepLoRead who b) s = .next s ∧ exec (.energyLoRead who (.bay b)) s = .next s))
    ∧ (s.anySession who = true →
      latches (.mtNsLoRead who) 0x604 (s.mt.ns / 2 ^ 32)
      ∧ latches (.idLoRead who 0) 0x204 (s.ikid / 2 ^ 32)
      ∧ latches (.idLoRead who 1) 0x20C (s.ownerSeq / 2 ^ 32)
      ∧ latches (.idLoRead who 2) 0x214 (s.img.floor / 2 ^ 32))
    ∧ (s.anySession who = false → exec (.mtNsLoRead who) s = .next s ∧ ∀ n, exec (.idLoRead who n) s = .next s)
    ∧ (s.isOwner who = true →
      latches (.suImgVerLoRead who) 0x110 (s.img.version.toNat / 2 ^ 32)
      ∧ latches (.energyLoRead who .module) 0x2080 (s.pwrx.energy.toNat / 2 ^ 32))
    ∧ (s.isOwner who = false → exec (.suImgVerLoRead who) s = .next s ∧ exec (.energyLoRead who .module) s = .next s)
    ∧ ∀ b i : Fin 16, (s.isOwner who = true ∨ who = .session b i →
        latches (.energyLoRead who (.session b i)) (0x2800 + 0x80 * b + 8 * i) ((s.sess (b.val * 16 + i.val)).energy.toNat / 2 ^ 32))
      ∧ (s.isOwner who = false ∧ who ≠ .session b i → exec (.energyLoRead who (.session b i)) s = .next s)

/-- A write at an address of the management space writes the register there (R9, R10, R131, R174, R247, R333, R482). Made by the module owner it stores
an RW field; a 1 clears a W1C field unless its event comes in the same cycle; a field with a row of its own is written as that row's command writes
it. A session that holds the bay writes IG_BAY_CFG, CH_HEAD_SEL, PB_EXC.NEW and TF_VIOL.NEW; Headland writes tolerance entries and CN_EPOCH; a core
writes the stream words of its own cove. A write by a session that may not write one of these registers, and any write outside the management space, changes nothing. -/
def Obligations.PlainRegisterWritesStoreTheirField : Prop :=
  ∀ (s : State) (who : Requester) (v : BitVec 32) (c : Fin 800) (k : Fin 16) (n : Fin 8) (b : Fin 16),
    let at_ (a : Nat) : Instr := .registerWrite who (BitVec.ofNat 48 (0xF00000000000 + a)) v
    let cove : Nat := 0x1000000 + 0x10000 * c
    let pb : Nat := cove + 0x400 + 0x40 * k
    let core : CoreRef := ⟨c, k⟩
    let old := s.cut.coves.get {} c
    ((∀ r, who ≠ .core r) → s.isOwner who = true →
      exec (at_ 0x20) s = exec (.mgLogSelWrite who v) s
      ∧ exec (at_ 0x300) s = .next { s with clk := { s.clk with
          lostSeen := s.clk.lostSeen && (!v.getLsbD 2 || s.clk.lossCnt != s.cut.clk.lossCnt) } }
      ∧ exec (at_ 0x304) s = .next { s with clk := { s.clk with slackUs := v.setWidth 16, ebbMs := v.extractLsb' 16 16 } }
      ∧ exec (at_ 0x400) s = .next { s with rot := { s.rot with interval := v.setWidth 16, pause := v.getLsbD 16 } }
      ∧ exec (at_ 0x420) s = .next { s with rot := { s.rot with sel := v.setWidth 10 } }
      ∧ exec (at_ 0x600) s = .next { s with mt := { s.mt with stepped := s.mt.stepped && (!v.getLsbD 2 || s.mt.ns != s.cut.mt.ns) } }
      ∧ exec (at_ 0x804) s = .next { s with integ := { s.integ with sigSel := v } }
      ∧ exec (at_ 0x80C) s = exec (.igClrPattern who v) s
      ∧ (∀ t, exec (.pwrOpTargetWrite who (v.setWidth 4)) s = .next t → exec (at_ 0x2004) s = exec (.pwrHintMvWrite who (v.extractLsb' 4 6)) t)
      ∧ exec (at_ 0x8000) s = (if v.getLsbD 0 = false then .next s
          else if s.mg.nvTarget.getLsbD 0 then exec (.nvGoSlotChunk who) s else exec (.nvGoOwnerRecord who) s)
      ∧ exec (at_ 0x8008) s = .next { s with mg := { s.mg with nvTarget := v &&& 0xFFFFFF } }
      ∧ (∀ j : Fin 64, s.mg.nvState ≠ 1 →
          exec (at_ (0x8100 + 4 * j)) s = .next { s with mg := { s.mg with nvData := s.mg.nvData.set 0 j v } })
      ∧ (∀ t, exec (.hbScrubEn who n (v.getLsbD 0)) s = .next t →
          exec (at_ (0x10004 + 0x1000 * n)) s = if v.getLsbD 1 then exec (.hbInjCe who n) t else .next t)
      ∧ exec (at_ (0x10040 + 0x1000 * n)) s = .next (s.modStack n fun x => { x with talSel := v.toNat % 2 ^ 14 })
      ∧ (∀ t, exec (.brkFillEn who c (v.getLsbD 0)) s = .next t →
          exec (at_ (cove + 4)) s = if v.getLsbD 1 then exec (.brkInjCk who c) t else .next t)
      ∧ (∀ t, exec (.cnE408Mask who c (v.getLsbD 0)) s = .next t →
          exec (at_ (cove + 0x4004)) s = if v.getLsbD 1 then exec (.cnInjPar who c) t else .next t)
      ∧ exec (at_ (cove + 0x8020)) s = (if v.getLsbD 0 then exec (.tfInjPar who c) s else .next s)
      ∧ (¬ (v.getLsbD 1 = true ∧ (s.core core).state = 4) → ∀ t u, exec (.pbHalt who core (v.getLsbD 0)) s = .next t →
          exec (.pbBkptEn who core (v.getLsbD 2)) t = .next u → exec (at_ (pb + 0x14)) s = exec (.pbTrapEn who core (v.getLsbD 3)) u)
      ∧ (v.getLsbD 1 = true → (s.core core).state = 4 →
          ∀ t, exec (.pbStep1 who core) (s.modCore core fun k => { k with ctl := v.setWidth 4 &&& 0xD }) = .next t → exec (at_ (pb + 0x14)) s = .next t)
      ∧ exec (at_ (pb + 0x18)) s = .next (s.modCore core fun k =>
          { k with
            bkpt := v.setWidth 14
            state := if k.bkpt ≠ v.setWidth 14 ∧ k.state = 1 ∧ k.ctl.getLsbD 2 = true ∧ k.pc = (v.setWidth 14).toNat / 4 * 4 then 4 else k.state })
      ∧ exec (at_ (pb + 0x24)) s = .next (s.modCore core fun k => { k with dbgSel := v.setWidth 10 }))
    ∧ ((∀ r, who ≠ .core r) →
      (s.ownsBay who b [.bay] = true → v.toNat % 8 ≤ 4 → exec (at_ (0x840 + 4 * b)) s = exec (.igBayCfgWrite who b v) s)
      ∧ (s.readsCove who c = true → exec (at_ (cove + 0x1020)) s = exec (.chHeadSel who c v) s)
      ∧ ((s.isOwner who = true ∨ ∃ b', s.bayOf c = some b' ∧ s.ownsBay who b' [.bay] = true) →
          exec (at_ (pb + 0xC)) s = .next (s.modCore core fun x => { x with excNew :=
            x.excNew && (!v.getLsbD 16 || x.excNo != (old.core k).excNo) })
          ∧ exec (at_ (cove + 0x8008)) s = .next (s.modCove c fun x => { x with tide := { x.tide with violNew :=
            x.tide.violNew && (!v.getLsbD 23 || x.tide.violNo != old.tide.violNo) } }))
      ∧ ∀ a, (a % 4 ≠ 0 ∨ a < 0xF00000000000 ∨ 0xF00000000000 + mgmtSize ≤ a) → a < 2 ^ 48 →
          exec (.registerWrite who (BitVec.ofNat 48 a) v) s = .next s)
    ∧ (∀ b' i, s.isOwner (.session b' i) = false →
        (∀ a ∈ ([0x20, 0x300, 0x304, 0x400, 0x420, 0x600, 0x804, 0x80C, 0x2004, 0x8000, 0x8008, 0x8100, 0x10004 + 0x1000 * n, 0x10040 + 0x1000 * n,
            cove + 4, cove + 0x80, cove + 0x4004, cove + 0x400C, cove + 0x8020, pb + 0x14, pb + 0x18, pb + 0x24] : List Nat),
          exec (.registerWrite (.session b' i) (BitVec.ofNat 48 (0xF00000000000 + a)) v) s = .next s)
        ∧ (s.ownsBay (.session b' i) b [.bay] = false →
            exec (.registerWrite (.session b' i) (BitVec.ofNat 48 (0xF00000000000 + 0x840 + 4 * b)) v) s = .next s)
        ∧ (s.readsCove (.session b' i) c = false →
            exec (.registerWrite (.session b' i) (BitVec.ofNat 48 (0xF00000000000 + cove + 0x1020)) v) s = .next s)
        ∧ ((∀ n, s.bayOf c = some n → s.ownsBay (.session b' i) n [.bay] = false) → ∀ a ∈ ([pb + 0xC, cove + 0x8008] : List Nat),
            exec (.registerWrite (.session b' i) (BitVec.ofNat 48 (0xF00000000000 + a)) v) s = .next s))
    ∧ (who = .headland →
      (∀ (j : Fin 16) (isAbs : Bool), exec (at_ (cove + 0x80 + 8 * j + if isAbs then 4 else 0)) s = exec (.toleranceWrite .headland c j isAbs v) s)
      ∧ exec (at_ (cove + 0x400C)) s = .next (s.modCove c fun x => { x with net := x.net.writeEpoch s.netUnits v }))
    ∧ (who = .core core → ∀ (j : Fin 3) l, s.streamAt c = some l →
      exec (at_ (cove + 0x204 + 4 * j)) s = .next (s.modStream l fun p => { p with d := p.d.set 0 j v }))

/-- Writes with checks of their own (R98, R102, R174, R175, R257, R259, R334, R345). A tolerance entry stores a valid value, −0 as +0, and ignores
another; IG_BAY_CFG takes a level up to 4 from the bay's next boundary; CLR_PATTERN clears the mark of the cove named; CH_HEAD_SEL shows the
oldest message of the queue selected; a good stream descriptor is queued, and waits while the FIFO of 16 is full, a bad one raises its code and is
kept in HB_LAST_ERR. A requester that may not write the register changes nothing. -/
def Obligations.CheckedRegisterWritesTakeEffect : Prop :=
  ∀ (s : State) (who : Requester) (c : Fin 800) (v : BitVec 32),
    ((who = .headland ∨ ∃ k, who = .core ⟨c, k⟩) → ∀ (n : Fin 16) (isAbs : Bool),
      let ex := v.toNat / 2 ^ 23 % 256
      (v.toNat % 2 ^ 31 = 0 ∨ (v.toNat < 2 ^ 31 ∧ 0 < ex ∧ ex < 255) → ∃ t, exec (.toleranceWrite who c n isAbs v) s = .next t
        ∧ CoveOnly c s t
        ∧ (∀ j, (t.cove c).brk.tolAbs.get 0 j =
            if isAbs = true ∧ j = n.val then (if v.toNat % 2 ^ 31 = 0 then 0 else v) else (s.cove c).brk.tolAbs.get 0 j)
        ∧ ∀ j, (t.cove c).brk.tolRel.get 0 j =
            if isAbs = false ∧ j = n.val then (if v.toNat % 2 ^ 31 = 0 then 0 else v) else (s.cove c).brk.tolRel.get 0 j)
      ∧ (¬ (v.toNat % 2 ^ 31 = 0 ∨ (v.toNat < 2 ^ 31 ∧ 0 < ex ∧ ex < 255)) →
          exec (.toleranceWrite .headland c n isAbs v) s = .next s
          ∧ ∀ k, exec (.toleranceWrite (.core ⟨c, k⟩) c n isAbs v) s = .next (s.exception ⟨c, k⟩ 0x4034)))
    ∧ (∀ b : Fin 16, s.ownsBay who b [.bay] = true →
        exec (.igBayCfgWrite who b v) s =
          .next (if v.toNat % 8 ≤ 4 then s.modBay b fun y => { y with levelNext := some (v.toNat % 8) } else s))
    ∧ (s.isOwner who = true → v.toNat % 1024 = c.val → v.getLsbD 10 = true → ∃ t, exec (.igClrPattern who v) s = .next t
        ∧ (t.cove c).ig.pattern = false ∧ t.integ.ctrlCove = BitVec.ofNat 10 c ∧ ∀ d, d ≠ c.val → t.cove d = s.cove d)
    ∧ (s.readsCove who c = true →
        let q := (s.chan c).queues.get {} (v.toNat % 16 * 8 + v.toNat / 16 % 8)
        exec (.chHeadSel who c v) s = .next (s.modCove c fun x => { x with ch := { x.ch with
          headSel := v.setWidth 7
          headMeta := match q.msgs.head? with
            | some m => BitVec.ofNat 32 (1 + 2 * m.len + 256 * m.handle.toNat)
            | none => 0
          headData := match q.msgs.head? with
            | some m => BitVec.ofNat 512 (m.data.toNat % 2 ^ (8 * m.len))
            | none => 0 } }))
    ∧ (∀ (k : Fin 16) (l b : Nat), s.logOf c = some l → s.bayOfLog l = some b → (portStack l).isSome = true →
        let x := streamDesc (s.stream l).d v (s.stepsAt c).2
        (s.streamFail b l v x = none → x.words = 0 →
          exec (.strmD3Write ⟨c, k⟩ v) s = .next (s.modStream l fun p => { p with d := p.d.set 0 3 v }))
        ∧ (s.streamFail b l v x = none → x.words ≠ 0 → (s.stream l).fifo.length < 16 →
          exec (.strmD3Write ⟨c, k⟩ v) s = .next (s.modStream l fun p =>
            { p with d := p.d.set 0 3 v, fifo := p.fifo ++ [{ x with id := p.nextId }], nextId := p.nextId + 1 }))
        ∧ (s.streamFail b l v x = none → x.words ≠ 0 → 16 ≤ (s.stream l).fifo.length → exec (.strmD3Write ⟨c, k⟩ v) s = .next s)
        ∧ ∀ code, s.streamFail b l v x = some code → exec (.strmD3Write ⟨c, k⟩ v) s = .next
            (((s.modStream l fun p => { p with d := p.d.set 0 3 v }).noteAt ((portStack l).getD 0) code b x.addr).exception ⟨c, k⟩ code))
    ∧ (who ≠ .headland → (∀ k, who ≠ .core ⟨c, k⟩) → ∀ n isAbs, exec (.toleranceWrite who c n isAbs v) s = .next s)
    ∧ (∀ b : Fin 16, s.ownsBay who b [.bay] = false → exec (.igBayCfgWrite who b v) s = .next s)
    ∧ (s.isOwner who = false → exec (.igClrPattern who v) s = .next s)
    ∧ (s.readsCove who c = false → exec (.chHeadSel who c v) s = .next s)
    ∧ (s.streamAt c = none → ∀ k, exec (.strmD3Write ⟨c, k⟩ v) s = .next s)

/-- MRD of an aligned offset below 0x1_0000 completes with the word that a read of that register returns, and leaves what that read leaves (the
latch of a high word, a cleared counter); the part from 0xC020 up reads 0, and so does the step block of a core of no bay. MWR of a valid
tolerance value to an entry, of any value to the first three stream words, and of a good descriptor to the fourth with room in the FIFO,
completes; with the FIFO full the core waits, a descriptor that fails its check raises the check's code, an invalid tolerance value 0x4034;
the part from 0xC020 up ignores a write. A write at any other offset raises 0x4106, and an offset that is misaligned or out of the window does
in both (R98, R128, R257, R484). -/
def Obligations.RegisterWindowInstructionsComplete : Prop :=
  ∀ (s : State) (r : CoreRef) (w : IFields),
    let k := s.core r
    let a := (k.rg w.ra + w.imm.signExtend 32).toNat
    let v := k.rg w.rd
    (ready s r { g := [w.ra], wg := [w.rd] } = true →
      (∀ m : Nat, a % 4 = 0 →
        (a < 0xC000 ∧ m = 0x1000000 + 0x10000 * r.cove + a
          ∨ 0xC000 ≤ a ∧ a < 0xC020 ∧ ∃ n, s.bayOf r.cove = some n ∧ m = 0x20000 + 0x200 * n + (a - 0xC000)) →
        let b := s.readAt (.core r) m
        ∃ t, exec (.mrd r w) s = .next (if (b.2.core r).pc + 4 = 0x4000 then t.exception r 0x4102 else t)
          ∧ t = b.2.modCore r (fun _ => t.core r) ∧ Progress (b.2.core r) (t.core r) (b.2.cycles r.cove) ((b.2.core r).pc + 4)
          ∧ WritesG w.rd b.1 (b.2.core r) (t.core r))
      ∧ (a % 4 = 0 → 0xC000 ≤ a → a < 0xC020 → s.bayOf r.cove = none → Completes (.mrd r w) s r (k.pc + 4) (WritesG w.rd 0))
      ∧ (a % 4 = 0 → 0xC020 ≤ a → a < 0x10000 → Completes (.mrd r w) s r (k.pc + 4) (WritesG w.rd 0))
      ∧ (¬ (a % 4 = 0 ∧ a < 0x10000) → exec (.mrd r w) s = .next (s.exception r 0x4106)))
    ∧ (readyAgain s r (fun x => x == .mwr) { g := [w.ra, w.rd] } = true →
      (∀ (n : Nat) (isAbs : Bool), n < 16 → a = 0x80 + 8 * n + (if isAbs then 4 else 0) →
        (v.toNat % 2 ^ 31 = 0 ∨ (v.toNat < 2 ^ 31 ∧ 0 < v.toNat / 2 ^ 23 % 256 ∧ v.toNat / 2 ^ 23 % 256 < 255)) →
        CompletesFrom (.mwr r w) s (s.modCove r.cove fun c => { c with brk :=
            if isAbs then { c.brk with tolAbs := c.brk.tolAbs.set 0 n (if v.toNat % 2 ^ 31 = 0 then 0 else v) }
            else { c.brk with tolRel := c.brk.tolRel.set 0 n (if v.toNat % 2 ^ 31 = 0 then 0 else v) } }) r (k.pc + 4) WritesNone)
      ∧ (∀ n l, n < 3 → a = 0x204 + 4 * n → r.cove.val / 40 = 0 ∨ r.cove.val / 40 = 19 → s.streamAt r.cove = some l →
          CompletesFrom (.mwr r w) s (s.modStream l fun p => { p with d := p.d.set 0 n v }) r (k.pc + 4) WritesNone)
      ∧ (∀ l b, a = 0x210 → r.cove.val / 40 = 0 ∨ r.cove.val / 40 = 19 → s.logOf r.cove = some l → (portStack l).isSome = true → s.bayOfLog l = some b →
          let x := streamDesc (s.stream l).d v (s.stepsAt r.cove).2
          let kept := s.modStream l fun p => { p with d := p.d.set 0 3 v }
          (s.streamFail b l v x = none → x.words = 0 → CompletesFrom (.mwr r w) s kept r (k.pc + 4) WritesNone)
          ∧ (s.streamFail b l v x = none → x.words ≠ 0 → (s.stream l).fifo.length < 16 →
              CompletesFrom (.mwr r w) s (s.modStream l fun p =>
                { p with d := p.d.set 0 3 v, fifo := p.fifo ++ [{ x with id := p.nextId }], nextId := p.nextId + 1 })
                r (k.pc + 4) WritesNone)
          ∧ (s.streamFail b l v x = none → x.words ≠ 0 → 16 ≤ (s.stream l).fifo.length → exec (.mwr r w) s = .next (s.stall r .mwr))
          ∧ ∀ code, s.streamFail b l v x = some code →
              exec (.mwr r w) s = .next ((kept.noteAt ((portStack l).getD 0) code b x.addr).exception r code))
      ∧ (∀ n : Nat, n < 32 → a = 0x80 + 4 * n →
          ¬ (v.toNat % 2 ^ 31 = 0 ∨ (v.toNat < 2 ^ 31 ∧ 0 < v.toNat / 2 ^ 23 % 256 ∧ v.toNat / 2 ^ 23 % 256 < 255)) →
          exec (.mwr r w) s = .next (s.exception r 0x4034))
      ∧ (a % 4 = 0 → a < 0xC000 → ¬ (0x80 ≤ a ∧ a < 0x100) →
          ¬ (0x204 ≤ a ∧ a ≤ 0x210 ∧ (r.cove.val / 40 = 0 ∨ r.cove.val / 40 = 19)) → exec (.mwr r w) s = .next (s.exception r 0x4106))
      ∧ (a % 4 = 0 → 0xC020 ≤ a → a < 0x10000 → Completes (.mwr r w) s r (k.pc + 4) WritesNone)
      ∧ (a % 4 = 0 → 0xC000 ≤ a → a < 0xC020 → exec (.mwr r w) s = .next (s.exception r 0x4106))
      ∧ (¬ (a % 4 = 0 ∧ a < 0x10000) → exec (.mwr r w) s = .next (s.exception r 0x4106)))

/-- An instruction of a running core meets its exceptions in the order of R130: bad parity of its word, then of a register it reads, then an
illegal form; taking one records the code and the pc and stops the core (R129). A core that does not run takes no instruction.
Taking an exception in a core of no bay records the code, its kind and the address of the instruction, and stops the core: STATE 5 (R129,
Tables 5.10 to 5.12). -/
def Obligations.ExceptionsAreTakenInOrder : Prop :=
  (∀ p ∈ ([.add, .sub, .and, .or, .xor, .sll, .srl, .sra, .slt, .sltu, .min, .max, .minu, .maxu, .mul, .mulh, .mulhu, .div, .divu, .rem, .remu]
        : List (CoreRef → RFields → Instr)),
      ∀ (s : State) (r : CoreRef) (w : RFields),
        let k := s.core r
        let badReg : Bool := k.gBad.contains w.ra.toNat || k.gBad.contains w.rb.toNat
        (k.state ≠ 1 → exec (p r w) s = .next s)
        ∧ (k.state = 1 → k.imemBad.contains (k.pc / 4) = true → exec (p r w) s = .next (s.exception r 0x4108))
        ∧ (k.state = 1 → k.imemBad.contains (k.pc / 4) = false → badReg = true → exec (p r w) s = .next (s.exception r 0x410A))
        ∧ (k.state = 1 → k.imemBad.contains (k.pc / 4) = false → badReg = false → w.res ≠ 0 → exec (p r w) s = .next (s.exception r 0x4101)))
  ∧ (∀ (s : State) (r : CoreRef) (code : Code), s.bayOf r.cove = none → excHardware code = false →
      ∃ t, s.exception r code = t ∧ (t.core r).state = 5 ∧ (t.core r).excCode = code ∧ (t.core r).excNew = true ∧ (t.core r).excHw = false
        ∧ (t.core r).excPc = (s.core r).pc ∧ (t.core r).pc = (s.core r).pc ∧ WritesNone (s.core r) (t.core r)
        ∧ CoveOnly r.cove s t ∧ ∀ q, q ≠ r → t.core q = s.core q)


/-- A step that may start does (R33, R35, R36). With a drain step due the next step is a drain step; while the bay has work and room it is a step of
that work; with neither, the head of the queue begins: a RUN with its entry, GENERATEs once seated. The new step's record stands last of the
uncommitted ones with attempt 0 and the time it started, the next number is one higher, and the cores go on or begin at their entry. With no step
uncommitted the settings that a boundary applies are applied first (R54). While a step runs or a replay is due nothing starts, nor where the bay may
not step yet. -/
def Obligations.StepStartBeginsTheNextStep : Prop :=
  ∀ (s : State) (b : Fin 16),
    let s1 := if (s.bay b).st.live = [] then s.modBay b fun y => y.applyBoundary [] false else s
    let y := s1.bay b
    let no := y.st.next
    let drains := y.st.draining || s1.opHeld b || y.wantShape.isSome
    (y.st.replay = none → y.st.running = none →
      (y.drainDue drains = true → s1.mayStep b true = true →
        exec (.stepStart b) s = .next ((s1.newStep b no 0 y.st.twoStep true).resumeStep b no))
      ∧ (y.drainDue drains = false → y.working = true → y.run.isSome = true → s1.mayStep b false = true → y.st.room = true →
        exec (.stepStart b) s = .next ((s1.newStep b no 0 y.st.wantTwo false).resumeStep b no))
      ∧ (y.drainDue drains = false → y.working = true → y.run = none → s1.jetty.maint.opening = none → s1.mayStep b false = true → y.st.room = true →
        exec (.stepStart b) s = .next (((s1.seat b no).newStep b no 0 y.st.wantTwo false).resumeStep b no))
      ∧ (∀ w rest, y.drainDue drains = false → y.working = false → y.queue = w :: rest → y.st.live = [] → y.run = none →
          s1.jetty.maint.opening = none → s1.mayStep b false = true →
          (w.kind = .run → exec (.stepStart b) s = .next (((s1.modBay b fun y =>
            { y with queue := rest, run := some { w with firstStep := no, start := s1.mt.ns } }).newStep b no 0 y.st.wantTwo false).firstStep b no w.entry))
          ∧ (w.kind = .generate → 0 < y.berthLimit →
            exec (.stepStart b) s = .next (((s1.seat b no).newStep b no 0 y.st.wantTwo false).firstStep b no 0)))
      ∧ (y.drainDue drains = false → y.working = true → y.run = none → s1.jetty.maint.opening.isSome = true → s1.mayStep b false = true →
          y.st.room = true → exec (.stepStart b) s = .next ((s1.newStep b no 0 y.st.wantTwo false).resumeStep b no))
      ∧ (y.drainDue drains = true → s1.mayStep b true = false → exec (.stepStart b) s = .next s)
      ∧ (y.drainDue drains = false → (s1.mayStep b false = false ∨ y.working = true ∧ y.st.room = false) → exec (.stepStart b) s = .next s)
      ∧ (y.drainDue drains = false → y.working = false → y.queue = [] → exec (.stepStart b) s = .next s))
    ∧ ((y.st.replay.isSome ∨ y.st.running.isSome) → exec (.stepStart b) s = .next s)
    ∧ ∀ (no att : Nat) (two drain : Bool),
        let t := s.newStep b no att two drain
        (t.bay b).st.live = (s.bay b).st.live ++ [{ no := no, attempt := att, drain := drain, two := two, level := (s.bay b).level
                                                    watch := (s.bay b).watchMask, startedAt := s.clk.elapsed }]
        ∧ (t.bay b).st.next = no + 1 ∧ ChangesOnly [.bays] s t ∧ ∀ d, d ≠ b.val → t.bay d = s.bay d

/-- At a boundary with nothing held in a switch, no suspect that waits for its fence, no work to cancel and no program to unload, the step's end is noted
and the bay's progress count rises (R33, R445). Of a step in single-step commit with no two-step step before it, every cove that votes and has not
failed the step casts its pass vote, or, while its operations of the step still run, owes it; of a step in two-step commit none does yet (R44, R92).
Before every used core waits in STEPEND, and without a running step, nothing happens. -/
def Obligations.StepBoundaryCastsVotes : Prop :=
  ∀ (s : State) (b : Fin 16) (r : StepRec),
    let y := s.bay b
    ((y.st.running = none ∨ (y.st.running = some r ∧ s.boundaryReady b r.no = false)) → exec (.stepBoundary b) s = .next s)
    ∧ (y.st.running = some r → s.boundaryReady b r.no = true → (∀ w, y.run = some w → w.cancelled = false) → y.unloads = [] →
        (∀ w ∈ y.berths.rows, w.2.cancelled = false) → (∀ c ∈ s.physCoves b, (s.cove c).tideHeld = []) →
        (∀ g, g < 4 → (s.field g).queue = []) →
        ∃ t, exec (.stepBoundary b) s = .next t
          ∧ (t.bay b).hang.progress = y.hang.progress + 1 ∧ (t.bay b).st.lastEnd = s.clk.elapsed
          ∧ (t.bay b).st.live = y.st.live.map (fun q => if q.no = r.no then { q with endedAt := some s.clk.elapsed } else q)
          ∧ ((∀ q ∈ y.st.live, ¬ (q.no + 1 = r.no ∧ q.two = true ∧ q.drain = false)) →
            ChangesOnly [.free, .clk, .coves, .bays, .rot] s t
            ∧ (r.two = false → r.drain = false → t.coves = (s.modCoves (s.voters b) fun _ v => v.castPass r).coves)
            ∧ ((r.two = true ∨ r.drain = true) → t.coves = s.coves)))

/-- The oldest step, its combined vote passed, commits while no core of the bay is halted and its stream writes have left (R46, R132): the committed
number becomes its own, its shadow granules become committed, and it waits for exactly the controllers that hold shadows of it (R47). A drain step
behind it that has ended goes with it. An acknowledgement takes its controller off, once that controller's writes of the step have landed. Output
leaves in step order: the first step that waits for no controller is released, then the next; while the first waits nothing is released. A released
step of a RUN sends its held output in the order of its offsets, the bytes that fail parity as the jetty reads them marked so (R310, R332). -/
def Obligations.CommitsReleaseShadowsAndOutput : Prop :=
  (∀ (s : State) (b : Fin 16) (n : CommitOf),
      let y := s.bay b
      (∀ r rest, y.st.live = r :: rest →
        let mine (h : Shadow) : Bool := h.bay == b.val && h.step == r.no && !h.committed
        let holders := (List.range 8).filter fun k => (s.stack k).shadows.any mine
        let may : Prop := r.no = n.step.toNat ∧ r.vote = some true ∧ r.drain = false ∧ s.coreHalted b = false ∧ s.streamsHold b r.no = false
        (may → (∀ d ∈ y.st.spentDrains, r.no < d.no) → ∃ u : State, exec (.commit b n) s = .next (u.releaseReady b (y.st.acking.length + 1))
          ∧ (u.bay b).st.committed = r.no
          ∧ (u.bay b).st.live = (match y.st.spentDrains with
            | [] => rest
            | d :: _ => rest.filter fun q => decide (q.no < d.no))
          ∧ (u.bay b).st.acking = y.st.acking ++ [{ r.heldBad n.bad with committed := true, waitAck := holders }]
          ∧ (y.st.spentDrains = [] → ∀ k : Fin 8, (u.stack k).shadows =
              ((s.stack k).shadows.filter fun h => !mine h) ++ ((s.stack k).shadows.filter mine).map fun h => { h with committed := true })
          ∧ u.hbm = s.hbm
          ∧ ∀ d, d ≠ b.val → u.bay d = s.bay d)
        ∧ (¬ may → exec (.commit b n) s = .next s))
      ∧ (y.st.live = [] → exec (.commit b n) s = .next s))
  ∧ (∀ (s : State) (b : Fin 16) (n : BitVec 48) (k : Fin 8) (bad : List (BitVec 32)),
      let y := s.bay b
      let waits (r : StepRec) : Prop := r.no = n.toNat ∧ k.val ∈ r.waitAck
      ((∃ r ∈ y.st.acking, waits r) → (s.stack k).unlanded b n.toNat = false →
        ∃ u : State, exec (.commitAck b n k bad) s = .next (u.releaseReady b y.st.acking.length) ∧ ChangesOnly [.bays] s u
          ∧ (∀ d, d ≠ b.val → u.bay d = s.bay d) ∧ (u.bay b).st.acking.length = y.st.acking.length
          ∧ ∀ (i : Nat) r, y.st.acking[i]? = some r →
              (waits r → (u.bay b).st.acking[i]? = some { r.heldBad bad with waitAck := r.waitAck.filter (fun j => j != k.val) })
              ∧ (¬ waits r → (u.bay b).st.acking[i]? = some r))
      ∧ (¬ ((∃ r ∈ y.st.acking, waits r) ∧ (s.stack k).unlanded b n.toNat = false) → exec (.commitAck b n k bad) s = .next s))
  ∧ (∀ (u : State) (b : Nat) (r : StepRec),
      (∀ (m : Nat) (rest : List StepRec), (u.bay b).st.acking = r :: rest →
        (r.waitAck ≠ [] → u.releaseReady b m = u)
        ∧ (r.waitAck = [] → u.releaseReady b (m + 1) =
            ((u.modBay b fun y => { y with st := { y.st with acking := rest } }).releaseStep b r).releaseReady b m))
      ∧ (∀ w, (u.bay b).ending = [] → (u.bay b).run = some w → w.firstStep ≤ r.no → w.lastStep = none →
        u.releaseStep b r = ((sortParts r.held).foldl (fun t p => t.sendOutput b w r.no (p.data.length + 1) p.off p.off p.data p.bad)
          (u.modBay b fun y => { y with ending := [] })).modBay b fun y =>
            { y with run := some { w with outBad := w.outBad || r.held.any fun p => !p.bad.isEmpty } })
      ∧ ∀ bad, (r.heldBad bad).held = r.held.map fun p =>
          { p with bad := p.bad ++ (bad.map BitVec.toNat).filter fun x => decide (p.off ≤ x ∧ x < p.off + p.data.length) })

/-- A failed step is rolled back (R45, R48, R49, R203): ROLLBACK does so for a failed vote, VOTE_DEADLINE for a vote that has not arrived by the latest
commit point. It and every later uncommitted step of the bay go, with the uncommitted shadows of them, and an earlier one stays. The first failure
is replayed on the same coves: the attempt to replay is its next one, with no move, and STEP_LAST_RB shows the failure's code, attempt 0 and a bay
that goes on. The second is replayed on spares of its culprits' segments, or of the segment where the violation stands, if they have enough, and
else the bay stops with 0xB020; without culprit or violation it stops with 0xB021. A third stops it with 0xB021, or with 0x6040 where the same
violation returned. -/
def Obligations.FirstFailureIsReplayedInPlace : Prop :=
  ∀ (s : State) (b : Fin 16) (n : BitVec 48),
    let y := s.bay b
    (∀ r, y.st.live.find? (fun q => q.no == n.toNat) = some r → r.drain = false →
      ∀ c, (c = .rollback b n ∧ r.vote = some false)
          ∨ (c = .voteDeadline b n ∧ r.vote = none ∧ ((y.st.deadline r).any fun d => decide (d < s.clk.elapsed)) = true) →
        let culprits := s.culpritsOf r
        ∃ t, exec c s = .next t
          ∧ (let again (moves : List Nat) : Prop :=
              (t.bay b).st.replay = some { no := n.toNat, attempt := r.attempt + 1, code := r.code, moves := moves, culprits := culprits, viol := r.viol }
              ∧ (t.bay b).st.lbCode = r.code ∧ (t.bay b).st.lbReplay = BitVec.ofNat 2 r.attempt ∧ (t.bay b).st.lbStopped = false
              ∧ (t.bay b).st.rollbacks = satAdd32 y.st.rollbacks 1
              ∧ (t.bay b).st.live = y.st.live.filter (fun q => decide (q.no < n.toNat))
              ∧ ∀ k : Fin 8, (t.stack k).shadows =
                  (s.stack k).shadows.filter fun h => !(h.bay == b.val && !h.committed && decide (n.toNat ≤ h.step))
            let stops (code : Code) : Prop := y.unloads = [] →
              (t.bay b).stopped = some code ∧ (t.bay b).st.replay = none ∧ (t.bay b).st.lbReplay = BitVec.ofNat 2 r.attempt
              ∧ (t.bay b).st.lbStopped = true
            (r.attempt = 0 → again [])
            ∧ (r.attempt = 1 → culprits ≠ [] → s.sparesFor culprits = true → again (culprits.map segOfPhys))
            ∧ (r.attempt = 1 → culprits ≠ [] → s.sparesFor culprits = false → stops 0xB020)
            ∧ (∀ code l cyc, r.attempt = 1 → culprits = [] → r.viol = some (code, l, cyc) →
                (∀ c, s.physOf l = some c → s.sparesFor [c] = true → again [segOfPhys c])
                ∧ ((∀ c, s.physOf l = some c → s.sparesFor [c] = false) → stops 0xB020))
            ∧ (r.attempt = 1 → culprits = [] → r.viol = none → stops 0xB021)
            ∧ (2 ≤ r.attempt → stops (if r.viol.isSome ∧ r.viol = y.st.lastViol then 0x6040 else 0xB021))))
    ∧ ((∀ q ∈ y.st.live, ¬ (q.no = n.toNat ∧ q.vote = some false ∧ q.drain = false)) → exec (.rollback b n) s = .next s)
    ∧ ((∀ q ∈ y.st.live, ¬ (q.no = n.toNat ∧ q.vote = none ∧ q.drain = false)) → exec (.voteDeadline b n) s = .next s)
    ∧ (∀ r, y.st.live.find? (fun q => q.no == n.toNat && !q.drain && q.vote.isNone) = some r →
        ((y.st.deadline r).any fun d => decide (d < s.clk.elapsed)) = false → exec (.voteDeadline b n) s = .next s)

/-- A replay starts once the bay may step, nothing runs there and its moves are done (R49): the rows to reload are reloaded, the attempt's record joins
the uncommitted steps under the step's own number, and registers and local data memory start with free values. That it runs in the commit mode of
the bay's newest step is the model's choice (log entry 185). Otherwise nothing starts. -/
def Obligations.ReplayStartsTheFailedStep : Prop :=
  ∀ (s : State) (b : Fin 16) (p : Program) (q : ReplayRec),
    let y := s.bay b
    (y.st.replay = none → exec (.replayStart b) s = .next s)
    ∧ (y.st.replay = some q → y.program = some p →
      let ready : Bool := s.mayStep b true && y.st.running.isNone && s.movesDone q.moves
      (ready = false → exec (.replayStart b) s = .next s)
      ∧ (ready = true →
        let s1 := s.modCoves (s.physCoves b) fun c v => match s.logOf c with
          | some l => v.reloadRows p y.shape l
          | none => v
        let s2 := (s1.modBay b fun y => { y with st := { y.st with replay := none } }).newStep b q.no q.attempt y.st.twoStep false
        exec (.replayStart b) s = .next ((s2.startOn b q.no fun c i k => k.replay q.no (s.free + (c * 16 + i) * 4096)).spend replayUses)
        ∧ (s2.bay b).st.replay = none
        ∧ (s2.bay b).st.live = y.st.live ++
            [{ no := q.no, attempt := q.attempt, drain := false, two := y.st.twoStep, level := y.level, watch := y.watchMask
               startedAt := s.clk.elapsed }]))


/-- The breaker array's own events. BREAKER_ACCEPT takes the descriptor of the next presenting core, its pair table read with a parity that is the
model's free value (log entry 186): one that passes every check is numbered and queued and its core's BISSUE completes with the number; one that
fails is recorded and its core takes the exception (R85 to R88). A no-op, a primary of no enabled pair in a drain step and a shadow of none run as
no-ops (R55, R336). At BREAKER_OP_START, with nothing streaming and no hazard, the queue head streams into the other accumulator set, with the
accumulators of R68 to R71 and the cycles of R84; at BREAKER_OP_COMPLETE the oldest operation, done streaming, leaves, becomes the completion
point, is counted, and a MATMUL whose comparisons do not fail has D's bytes written (R85, R90, R94). GOVERNOR_TICK moves the level one step toward
its target (R99, R100); a FILL whose check fails is a cove error. With nothing to take, or too early, nothing changes. -/
def Obligations.BreakerEventsTakeEffect : Prop :=
  ∀ (s : State) (c : Fin 800),
    let v := s.cove c
    let b := v.brk
    let cyc := s.cycles c
    let b1 := b.settle cyc
    (∀ (k : Fin 16) (raw : BitVec 256) (rd : BitVec 5), v.presenting = some (k.val, raw, rd) → b.queue.length < 8 →
      let d := tileDesc raw
      let u := s.readPairs c d.tag
      let (st, m) := s.stepsAt c
      let (primary, shadow, skipped) := u.pairing c m d.tag
      let idle : Prop := d.op = 0 ∨ d.kblk = 0 ∨ (d.op = 1 ∧ (skipped = true ∨ st.newest.any StepRec.drain = true ∧ shadow = none))
      let held : Prop := (v.sp.handle d.d.handle).reload = true ∨ st.judge (v.sp.handle d.d.handle) m = .fault
      let paired : Prop := d.op = 1 ∧ d.kblk ≠ 0
      (d.tag.toNat % 2 ^ 15 = 0 → u = s)
      ∧ (tileCheck v.sp d = 0 → (d.op = 1 → ¬ idle → ¬ held) →
        ∃ op : TileOp, op.desc = raw ∧ op.seq = b.seq + 1 ∧ op.core = k.val ∧ op.step = m ∧ op.tolRel = b.tolRel.get 0 d.tol
          ∧ op.tolAbs = b.tolAbs.get 0 d.tol ∧ (paired → op.shadow = shadow ∧ op.primary = primary)
          ∧ (¬ paired → op.shadow = none ∧ op.primary = none) ∧ (op.noop = true ↔ idle)
          ∧ CompletesFrom (.breakerAccept c) s (u.modCove c fun v => { v with
              brk := { v.brk with queue := b.queue ++ [op], seq := b.seq + 1, lastCore := k.val, injCk := b.injCk && !op.injCk }
              ig := if d.op = 1 ∧ d.kblk ≠ 0 ∧ skipped = true then { v.ig with ctr := bump v.ig.ctr 4 1 }
                else v.ig.notePaired op (u.attemptOf c (m - 1)) }) ⟨c, k⟩ ((s.core ⟨c, k⟩).pc + 4)
            (WritesG rd ((b.seq + 1).setWidth 32)))
      ∧ (∀ code, (tileCheck v.sp d ≠ 0 ∧ code = tileCheck v.sp d ∨ tileCheck v.sp d = 0 ∧ d.op = 1 ∧ ¬ idle ∧ held ∧ code = 0x5017) →
          ∃ t, exec (.breakerAccept c) s = .next (t.exception ⟨c, k⟩ code) ∧ CoveOnly c u t ∧ (∀ j, t.core j = s.core j)
            ∧ (t.cove c).brk = { b with rejCode := code, rejCore := BitVec.ofNat 4 k }
            ∧ (code.toNat / 4096 = 5 → (t.cove c).sp.faultCode = code) ∧ (code.toNat / 4096 ≠ 5 → (t.cove c).sp = v.sp)))
    ∧ (v.presenting = none ∨ 8 ≤ b.queue.length → exec (.breakerAccept c) s = .next s)
    ∧ (∀ op rest lost, b.queue = op :: rest →
      let d := tileDesc op.desc
      let k := 32 * d.kblk
      (s.headWaits c op = true ∨ b1.streams = true → ∀ parity, exec (.breakerOpStart c lost parity) s = .next s)
      ∧ (s.headWaits c op = false → b1.streams = false → op.noop = true → ∀ parity,
          exec (.breakerOpStart c lost parity) s = .next (s.modCove c fun v => { v with brk :=
            { b1 with queue := rest, running := b1.running ++ [{ op := op, set := b1.accSet }] } }))
      ∧ (s.headWaits c op = false → b1.streams = false → op.noop = false → d.op = 2 → ∀ parity,
          exec (.breakerOpStart c lost parity) s = .next (s.modCove c fun v => { v with brk :=
            { b1 with queue := rest, running := b1.running ++ [{ op := op, set := b1.accSet, startCyc := cyc, left := 8 * (d.kblk * 32) }] } }))
      ∧ (s.headWaits c op = false → b1.streams = false → op.noop = false → d.op = 1 → d.accLoad = false →
          (∀ w ∈ v.sp.opRows d.a ((tileShape d.shape).1 * k) ++ v.sp.opRows d.b ((tileShape d.shape).2 * k), v.sp.rowBad w.1 w.2 0 64 = false) →
          ∃ t x, exec (.breakerOpStart c lost none) s = .next t ∧ (t.cove c).brk.queue = rest ∧ (t.cove c).brk.running = b1.running ++ [x]
            ∧ (t.cove c).brk.accSet = !b.accSet ∧ x.op = op ∧ x.set = !b.accSet ∧ x.parity = false ∧ x.startCyc = cyc
            ∧ x.left = 8 * (d.streamCycles + v.sp.feedConflicts d + lost.length)
            ∧ (∀ e, e < 4096 → x.acc.get 0 e = f32Bits (mainCell v.sp d (cellElem d (e / 64) (e % 64)).1 (cellElem d (e / 64) (e % 64)).2).v)
            ∧ (∀ b r, (t.cove c).sp.row b r = v.sp.row b r) ∧ (t.cove c).cores = v.cores ∧ CoveOnly c s t))
    ∧ (b.queue = [] → ∀ lost p, exec (.breakerOpStart c lost p) s = .next s)
    ∧ (∀ x rest, b1.running = x :: rest →
      let d := tileDesc x.op.desc
      let e := v.sp.handle d.d.handle
      let left : Breaker := { b1 with
          running := rest, done := x.op.seq, counts := b1.counts.upd 0 x.op.core (· + 1), ctr := bump b1.ctr 9 1
          level := if b1.streams || !b1.queue.isEmpty || b1.fillEn then b1.level else 0 }
      (x.left ≠ 0 → ∀ u y, exec (.breakerOpComplete c u y) s = .next s)
      ∧ (x.left = 0 → (x.op.noop = true ∨ d.op ≠ 1) → ∀ u y, exec (.breakerOpComplete c u y) s = .next
          ((s.modCove c fun v => { v with brk := left }).modCove c Cove.castOwed))
      ∧ (∀ upset : List (Nat × BitVec 32), x.left = 0 → x.op.noop = false → d.op = 1 → x.parity = false → x.op.primary = none → x.op.shadow = none →
          d.rangeAct = false →
          let acc := upset.foldl (fun (t : Tab Word) u => t.upd 0 (u.1 % 4096) (· ^^^ u.2)) x.acc
          (∀ r ∈ (x.comparisons fun i => (f32Val (acc.get 0 i)).1).1 ++ (x.comparisons fun i => (f32Val (acc.get 0 i)).1).2, r ≠ .fail) →
          let out := convertOut d (fun i => acc.get 0 i)
            (draw75 (s.bay ((s.bayOf c).getD 0)).seed x.op.step c (b.tileSeq.get 0 (x.op.step % 4)))
          ∃ t, exec (.breakerOpComplete c upset false) s = .next t ∧ (t.cove c).brk.running = rest ∧ (t.cove c).brk.done = x.op.seq
            ∧ (t.cove c).brk.counts = b.counts.upd 0 x.op.core (· + 1)
            ∧ (t.cove c).sp = (v.sp.handleWrite e (d.d.elemRow * 64) out.1).handleWrite e (d.d.scaleRow * 64) out.2.1
            ∧ (t.cove c).cores = v.cores ∧ CoveOnly c s t))
    ∧ (b1.running = [] → ∀ u x, exec (.breakerOpComplete c u x) s = .next s)
    ∧ (let target : Nat := if b1.streams || !b1.queue.isEmpty then 8 else 0
      let due : Prop := b1.levelAt + governorCycles (s.clockUnits (halfOf c)) ≤ cyc
      let tick (bad : Bool) : State := s.modCove c fun v => { v with brk := { b1 with
          levelAt := cyc, ctr := if bad then bump b1.ctr 8 1 else b1.ctr
          level := if s.ceiling < b1.level then b1.level - 1
            else if b1.level < target then min (b1.level + 1) s.ceiling
            else if target < b1.level then (if b1.fillEn then b1.level - 1 else 0) else b1.level } }
      (due → ∀ fillBad, (b1.filling = false ∨ fillBad = false) → exec (.governorTick c fillBad) s = .next (tick false))
      ∧ (due → b1.filling = true → exec (.governorTick c true) s = .next ((tick true).coveError c 0x4022))
      ∧ (¬ due → ∀ x, exec (.governorTick c x) s = .next s))

/-- A shadow signature that its shadow does not wait for is held, at most 512 uncompared ones; one that it waits for is compared and stays, marked
compared, until its step ends (R48): equal signatures count a match, others are a mismatch of the pair
(R337, R338). A packet that carries it is taken from the router; with bad parity it is dropped and counted (R222). An expired score event leaves the
window ten minutes after it occurred, and a watch of ten minutes at score 0, with no fence asked of the cove, ends then (R342, R344). A record that
a cove owes, once any replay that its operand hash needs has run or cannot, is taken off, counted and signed under the next number of the module
(R346); with none due nothing changes. -/
def Obligations.SignaturesAndScoreEventsTakeEffect : Prop :=
  ∀ (s : State) (c : Fin 800),
    let g := (s.cove c).ig
    (∀ (pair : BitVec 15) (step : BitVec 48) (att : BitVec 2) (sig : BitVec 64),
      let mine (q : PairSig) : Bool := q.pair == pair.toNat && q.step == step.toNat && q.attempt == att.toNat
      let p : PairSig := { pair := pair.toNat, step := step.toNat, attempt := att.toNat, sig := sig, fromCove := s.partner c (pair.toNat + 2 ^ 15) }
      let carried := (s.cove c).net.ejected.find? fun x => x.2.type == 8 && !x.2.response && x.2.payload == sigBytes pair.toNat step.toNat att.toNat sig
      let room := (g.primSigs.filter fun q => !q.compared).length < 512
      let s1 := s.modCove c fun v => { v with ig := { v.ig with
          primSigs := (v.ig.primSigs.filter fun x => !mine x) ++ [{ p with compared := true }]
          shadowSigs := v.ig.shadowSigs.filter fun x => !mine x } }
      (carried = none →
        (g.shadowSigs.find? mine = none → room → exec (.shadowSignaturePacket c pair step att sig) s = .next
          (s.modCove c fun v => { v with ig := { v.ig with primSigs := g.primSigs ++ [p] } }))
        ∧ ∀ q, g.shadowSigs.find? mine = some q →
          (q.sig = sig → exec (.shadowSignaturePacket c pair step att sig) s = .next
              (s1.modCove c fun v => { v with ig := { v.ig with ctr := bump v.ig.ctr 1 1 } }))
          ∧ (q.sig ≠ sig → exec (.shadowSignaturePacket c pair step att sig) s = .next
              (s1.mismatch c (s.partner c (pair.toNat + 2 ^ 15)) pair.toNat step.toNat att.toNat)))
      ∧ (g.shadowSigs.find? mine = none → ¬ room → exec (.shadowSignaturePacket c pair step att sig) s = .next s)
      ∧ ∀ x, carried = some x → (g.shadowSigs.any mine = true ∨ room) → exec (.shadowSignaturePacket c pair step att sig) s = .next
          (s.eject x.2 fun t => if x.2.bad then t.netCount c 1 else t.holdSignature c p))
    ∧ (let s1 := s.modCove c fun v => { v with ig := { v.ig with
          events := g.events.filter fun e => decide (s.clk.elapsed < e.at_ + tenMinutes) } }
      (g.state ≠ .watch → exec (.scoreEventExpiry c) s = .next s1)
      ∧ (g.state = .watch → s1.score c ≠ 0 → exec (.scoreEventExpiry c) s = .next s1)
      ∧ ((∀ a, (s.coveTest c).watchAt = some a → s.clk.elapsed < a + tenMinutes) → exec (.scoreEventExpiry c) s = .next s1)
      ∧ (∀ a, g.state = .watch → s1.score c = 0 → (s.coveTest c).watchAt = some a → a + tenMinutes ≤ s.clk.elapsed → s.fenceAsked c = false →
          ∃ t, exec (.scoreEventExpiry c) s = .next t ∧ (t.cove c).ig.state = .normal ∧ (t.coveTest c).watchAt = none))
    ∧ (∀ (code : BitVec 16) h p, g.unrecorded.find? (fun p => p.code == code && s.recordDue p) = some p →
        ∃ t, exec (.faultSignatureRecord c code h) s = .next t
          ∧ (t.cove c).ig.totalRecords = g.totalRecords + 1 ∧ t.integ.sigCount = s.integ.sigCount + 1
          ∧ ((∀ x, s.recordHash p h = some x → ∀ r ∈ s.heldRecords, r.ophash ≠ some x) → (t.cove c).ig.unrecorded = g.unrecorded.erase p))
    ∧ ∀ (code : BitVec 16) h, g.unrecorded.find? (fun p => p.code == code && s.recordDue p) = none →
        exec (.faultSignatureRecord c code h) s = .next s

/-- Channel packets (R161 to R168). A packet in form, received at its cove, a request once its answer has room (R226), has its effect: CONNECT
joins its queue's requests, or is refused where the core is idle in the program or 4 wait; ACCEPT and REFUSE end the CCONN that waits, with the
handle or REFUSED; DATA is placed and answered DELIVERED, or answered FULL; DELIVERED and CLOSED end the CSEND that waits, with OK or CLOSED; FULL
blocks it and starts its timeout; RESUME sends the message again; WITHDRAW takes a waiting writer off; CLOSE of a reader's writer leaves its
messages, and CLOSE of a writer ends its CSEND with CLOSED. DATA, WITHDRAW and CLOSE to an entry in quarantine are answered CLOSED, RESUME WITHDRAW
(R163). A packet that names no entry is counted, and so is one out of form or of a reserved kind (R172). A request whose answer has no room waits. -/
def Obligations.ChannelPacketsTakeEffect : Prop :=
  ∀ (s : State) (c : Fin 800) (p : ChanPkt) (k : Fin 16) (rd : BitVec 5),
    let room (kind : Nat) : Prop := kindResponse kind = true ∨ s.canAnswer c false = true
    let ok (kind : Nat) : Prop := s.receivesChan c kind p = true ∧ room kind
    let s0 := s.taken (carrierOf p)
    let ch := s.chan c
    let i := handleEntryOf p.dst
    let e := ch.entry i
    let q := ch.queue e.core e.queue
    let rq := ch.queue (epCore p.dstEp) (epQueue p.dstEp)
    let w : Waiter := { ep := p.srcEp, handle := p.src, entry := i }
    let core : CoreRef := ⟨c, k⟩
    let next := (s.core core).pc + 4
    let setEntry (f : ChEntry → ChEntry) : State := s0.modChan c fun h => h.modEntry i f
    let live : Prop := e.gen = handleGen p.dst ∧ e.state ≠ .free ∧ e.state ≠ .quarantine
    let sender : Prop := live ∧ e.writer = true ∧ (e.state = .sending ∨ e.state = .blocked) ∧ e.core = k.val
    (ok 1 → s.inReset c = false →
      (((s.cove c).core (epCore p.dstEp)).used = true → rq.requests.length < 4 → exec (.connect c p) s = .next (s0.modChan c fun h =>
        h.modQueue (epCore p.dstEp) (epQueue p.dstEp) fun r => { r with requests := r.requests ++ [(p.srcEp, p.src)] }))
      ∧ ((((s.cove c).core (epCore p.dstEp)).used = false ∨ 4 ≤ rq.requests.length) → exec (.connect c p) s = .next (s0.answerChan c kRefuse p id)))
    ∧ (live → e.writer = true → e.state = .connecting → e.core = k.val → (s.core core).wait = some (.cconn i rd) →
        (ok 2 → CompletesFrom (.accept c p) s (setEntry fun e => { e with state := .open_, farHandle := p.src }) core next
          (WritesG rd (chanResult 0 p.dst 0)))
        ∧ (ok 3 → ∃ t, exec (.refuse c p) s = .next ((if next = 0x4000 then t.exception core 0x4102 else t).modChan c fun h =>
              h.modEntry i fun e => { ({} : ChEntry) with gen := e.gen })
            ∧ t = s0.modCore core (fun _ => t.core core) ∧ Progress (s.core core) (t.core core) (s.cycles c) next
            ∧ WritesG rd (BitVec.ofNat 32 (4 * 2 ^ 28)) (s.core core) (t.core core)))
    ∧ (ok 4 → s.inReset c = false → live → e.writer = false →
        (e.placed = true → e.seq = p.seq → exec (.data c p) s = .next (s0.answerChan c kDelivered p fun a => { a with seq := p.seq }))
        ∧ ((e.placed = false ∨ e.seq ≠ p.seq) → (q.reserved.contains w = true ∨ q.msgs.length + q.reserved.length < 16) → exec (.data c p) s = .next
            (((s0.modChan c fun h => (h.modQueue e.core e.queue fun r =>
                { r with msgs := r.msgs ++ [{ handle := p.dst, len := p.len.toNat, data := lowBytes p.data p.len.toNat, bad := false }]
                         reserved := r.reserved.filter fun x => x != w }).modEntry i fun x => { x with seq := p.seq, placed := true }).entryFreed c e.core e.queue).answerChan
              c kDelivered p fun a => { a with seq := p.seq }))
        ∧ ((e.placed = false ∨ e.seq ≠ p.seq) → 16 ≤ q.msgs.length + q.reserved.length → q.reserved.contains w = false →
            q.waiters.contains w = false → q.waiters.length < 8 → exec (.data c p) s = .next
              (((s0.modChan c fun h => h.modQueue e.core e.queue fun r => { r with waiters := r.waiters ++ [w] }).modChan c fun h =>
                { h with full := satAdd32 h.full 1 }).answerChan c kFull p fun a => { a with listed := true })))
    ∧ (sender → (s.core core).wait = some (.csend i rd) →
        (ok 5 → e.seq = p.seq → CompletesFrom (.delivered c p) s (setEntry fun x => { x.rest .open_ with seq := !x.seq }) core next (WritesG rd 0))
        ∧ (ok 10 → CompletesFrom (.closed c p) s ((setEntry fun x => x.rest .open_).modChan c fun h => { h with closed := satAdd32 h.closed 1 }) core next
            (WritesG rd (BitVec.ofNat 32 (1 * 2 ^ 28))))
        ∧ (ok 9 → CompletesFrom (.close c p) s ((setEntry fun x => x.rest .peerClosed).modChan c fun h => { h with closed := satAdd32 h.closed 1 }) core next
            (WritesG rd (BitVec.ofNat 32 (1 * 2 ^ 28)))))
    ∧ (ok 6 → sender → exec (.full c p) s = .next (setEntry fun x => { x with
          state := .blocked, resent := false, listed := p.listed, retryAt := if p.listed then none else some (s.cnCycles + 1800)
          spent := if p.moving then x.spent + ((x.fullSince.map fun t => s.mt.ns - t).getD 0) else x.spent
          fullSince := if p.moving then none else some (x.fullSince.getD s.mt.ns) }))
    ∧ (ok 7 → live → e.writer = true →
        (e.state = .blocked → e.listed = true → exec (.resume c p) s = .next ((setEntry fun x => { x with
          state := .sending, listed := false, resent := false, fullSince := none, retryAt := none
          spent := x.spent + ((x.fullSince.map fun t => s.mt.ns - t).getD 0), sentAt := s.cnCycles }).sendData c i))
        ∧ (e.state ≠ .blocked → exec (.resume c p) s = .next (s0.answerChan c kWithdraw p id)))
    ∧ (live → e.writer = false →
        (ok 8 → q.reserved.contains w = false → exec (.withdraw c p) s = .next (s0.modChan c fun h => h.modQueue e.core e.queue fun r =>
          { r with reserved := r.reserved.filter (fun x => x != w), waiters := r.waiters.filter fun x => x != w }))
        ∧ (ok 9 → ch.messagesOf i ≠ [] → exec (.close c p) s = .next (setEntry fun x => { x with state := .writerClosed }))
        ∧ (ok 9 → ch.messagesOf i = [] → exec (.close c p) s = .next ((setEntry fun x => { x with state := .writerClosed }).modChan c fun h =>
            h.modEntry i fun x => x.quarantine s.cnCycles)))
    ∧ ((e.gen ≠ handleGen p.dst ∨ e.state = .free) →
        ∀ x ∈ ([(2, .accept c p), (3, .refuse c p), (5, .delivered c p), (6, .full c p), (7, .resume c p), (8, .withdraw c p), (9, .close c p),
            (10, .closed c p)] : List (Nat × Instr)),
          ok x.1 → exec x.2 s = .next (s0.modChan c fun h => { h with stale := satAdd32 h.stale 1 }))
    ∧ (e.gen = handleGen p.dst → e.state = .quarantine →
        (ok 4 → s.inReset c = false → exec (.data c p) s = .next (s0.answerChan c kClosed p id))
        ∧ (ok 8 → exec (.withdraw c p) s = .next (s0.answerChan c kClosed p id))
        ∧ (ok 9 → exec (.close c p) s = .next (s0.answerChan c kClosed p id))
        ∧ (ok 7 → exec (.resume c p) s = .next (s0.answerChan c kWithdraw p id)))
    ∧ ∀ x ∈ ([(1, .connect c p), (2, .accept c p), (3, .refuse c p), (4, .data c p), (5, .delivered c p), (6, .full c p), (7, .resume c p),
          (8, .withdraw c p), (9, .close c p), (10, .closed c p)] : List (Nat × Instr)),
        let out : Prop := p.kind = 0 ∨ 11 ≤ p.kind.toNat
          ∨ p.kind.toNat = x.1 ∧ (p.resv = true ∨ 64 < p.len.toNat ∨ (x.1 ≠ 4 ∧ p.len ≠ 0) ∨ p.hdr.response ≠ kindResponse x.1)
        (p.hdr.dstPhys.toNat = c.val → s.receives (carrierOf p) = true → p.hdr.bad = false → room x.1 → out →
          exec x.2 s = .next (s0.modChan c fun h => { h with stale := satAdd32 h.stale 1 }))
        ∧ (¬ room x.1 → exec x.2 s = .next s)

/-- The writer's timers (R163, R165 to R167). A CSEND whose time under FULL answers reaches its timeout ends with TIMEOUT, its entry is open
again, and a listed writer sends WITHDRAW; a retry of an unlisted writer and a retransmission after 88 µs send the message again; an entry leaves quarantine after 64 µs with its
generation; a second silence of 88 µs raises 0xA001. Before its time each does nothing. -/
def Obligations.ChannelTimersTakeEffect : Prop :=
  ∀ (s : State),
    (∀ (r : CoreRef), (∀ i rd, (s.core r).wait ≠ some (.csend i rd)) →
      exec (.csendTimeout r) s = .next s ∧ exec (.fullRetry r) s = .next s ∧ exec (.dataRetransmit r) s = .next s)
    ∧ (∀ (r : CoreRef) i rd, (s.core r).wait = some (.csend i rd) →
      let e := (s.chan r.cove).entry i
      let setEntry (f : ChEntry → ChEntry) : State := s.modChan r.cove fun h => h.modEntry i f
      let due : Bool := e.timeout != 0 && decide (e.timeout.toNat * 1000 ≤ e.waited s.mt.ns)
      (e.core = r.core.val → e.state = .blocked → due = true →
        let s1 := s.modChan r.cove fun h => { h.modEntry i (fun x => x.rest .open_) with timeout := satAdd32 h.timeout 1 }
        CompletesFrom (.csendTimeout r) s
          (if e.listed then s1.sendChan r.cove kWithdraw { blankChan with
            dst := e.farHandle, src := chanHandle i e.gen, srcEp := endpoint (s.lcove r.cove) e.core 0, dstEp := e.farEp } else s1)
          r ((s.core r).pc + 4) (WritesG rd (BitVec.ofNat 32 (2 * 2 ^ 28))))
      ∧ ((e.state ≠ .blocked ∨ due = false) → exec (.csendTimeout r) s = .next s)
      ∧ (e.state = .blocked → (∃ t, e.retryAt = some t ∧ t ≤ s.cnCycles) → exec (.fullRetry r) s = .next
          ((setEntry fun x => { x with state := .sending, retryAt := none, resent := false, sentAt := s.cnCycles }).sendData r.cove i))
      ∧ ((e.state ≠ .blocked ∨ e.retryAt = none ∨ (∃ t, e.retryAt = some t ∧ s.cnCycles < t)) → exec (.fullRetry r) s = .next s)
      ∧ (e.state = .sending → e.sentAt + 79200 ≤ s.cnCycles → e.resent = false → exec (.dataRetransmit r) s = .next
          ((s.modChan r.cove fun h => { h.modEntry i (fun x => { x with resent := true, sentAt := s.cnCycles }) with
            retx := satAdd32 h.retx 1 }).sendData r.cove i))
      ∧ (e.state = .sending → e.sentAt + 79200 ≤ s.cnCycles → e.resent = true → exec (.dataRetransmit r) s = .next
          ((s.modChan r.cove fun h => h.noteErr 0xA001 r.core e.queue).exception r 0xA001))
      ∧ ((e.state ≠ .sending ∨ s.cnCycles < e.sentAt + 79200) → exec (.dataRetransmit r) s = .next s))
    ∧ (∀ (c : Fin 800) (i : Fin 4096), let e := (s.chan c).entry i
      (e.state = .quarantine → e.quarAt + 57600 ≤ s.cnCycles → ∃ t, exec (.channelQuarantineEnd c i) s = .next t ∧ CoveOnly c s t
        ∧ (t.chan c).entry i = { gen := e.gen } ∧ ∀ j, j ≠ i.val → (t.chan c).entry j = (s.chan c).entry j)
      ∧ ((e.state ≠ .quarantine ∨ s.cnCycles < e.quarAt + 57600) → exec (.channelQuarantineEnd c i) s = .next s))

/-- The rotation schedule and its test (R148 to R152, R359 to R364). A field's slot, due, moves on by the interval, tries a waiting fence again, and
chooses a cove: one that is due, else the next of the walk that is not fenced, a live one once a handover frees it, and one with no idle spare is
skipped with 0xB055; a chosen cove's test starts in the save phase; the save writes the image to its area in HBM and keeps its digest; each phase
that passes leads to the next and the last to PASSED; one that fails raises the cove's score under 0xB054, of a unit of that phase that is the
model's free value (log entry 165), and the cove is fenced; the restore brings the saved image back, reports the test and frees the field; an image
that differs from its digest fails the test. A row due for remapping goes to a spare row with its bytes unchanged, and then takes its reload data;
with no spare row left it is 0x5021. Before its time, or in another phase, each does nothing. -/
def Obligations.RotationTestsTakeEffect : Prop :=
  ∀ (s : State) (f : Fin 4) (c : Fin 800),
    let k := s.field f
    let kc := s.field (fieldOf c)
    let v := s.cove c
    (∀ a, k.slotAt = some a →
      let s0 := s.modField f fun k => { k with slotAt := some (a + s.rot.slotNs) }
      let s1 := s0.retryFences f
      let all := fieldCoves f
      let walk := (all.filter fun x => decide (k.walk ≤ x)) ++ all.filter fun x => decide (x < k.walk)
      (k.retry = none → (∀ d ∈ fieldCoves f, (s.coveTest d).forced = false) → s1 = s0)
      ∧ (s.clk.elapsed < a → exec (.rotationTestSlot f) s = .next s)
      ∧ (a ≤ s.clk.elapsed →
          ((k.pending.isSome = true ∨ s.testsAllowed = false) → exec (.rotationTestSlot f) s = .next s1)
          ∧ (∀ d, k.pending = none → s.testsAllowed = true → (fieldCoves f).find? s1.testDue = some d →
              exec (.rotationTestSlot f) s = .next (s1.modField f fun k => { k with pending := some d }))
          ∧ (k.pending = none → s.testsAllowed = true → (fieldCoves f).find? s1.testDue = none →
              (s.rot.stopped = true → exec (.rotationTestSlot f) s = .next s1)
              ∧ (s.rot.stopped = false → exec (.rotationTestSlot f) s = .next (s1.walkTest f walk)))))
    ∧ (∀ d rest, let chosen : State := s.modField f fun k => { k with pending := some d, walk := d + 1 }
      (((s.cove d).ig.state = .fenced ∨ s.underTest d = true) → s.walkTest f (d :: rest) = s.walkTest f rest)
      ∧ ((s.cove d).ig.state ≠ .fenced → s.underTest d = false →
          (s.logOf d = none → s.walkTest f (d :: rest) = chosen)
          ∧ ((s.logOf d).isSome = true → s.rot.moves.find (segOfPhys d) = none →
              (∀ x, s.receiver d [] = some x → s.underTest x = false →
                s.walkTest f (d :: rest) = chosen.askMove { src := d, dst := some x, kind := .test })
              ∧ (s.receiver d [] = none → s.walkTest f (d :: rest) = (s.logCove 0xB055 d).walkTest f rest))))
    ∧ (k.slotAt = none → exec (.rotationTestSlot f) s = .next s)
    ∧ (∀ d, k.pending = some d →
        let due : Bool := s.testReady f && ((List.range f).all fun g => !(s.testReady g && (s.field g).slotAt == k.slotAt))
          && s.rot.lastStart.all fun t => decide (t + 50000000 ≤ s.clk.elapsed)
        (due = true → ∃ t, exec (.rotationTestStart f) s = .next t ∧ ChangesOnly [.rot] s t ∧ t.rot.lastStart = some s.clk.elapsed
          ∧ t.field f = { k with cove := some d, phase := 2, pending := none, result := 0, failPhase := 0, startedAt := s.clk.elapsed
                                 errorsAt := (s.cove d).ig.totalEvents }
          ∧ ∀ g, g ≠ f.val → t.field g = s.field g)
        ∧ (due = false → exec (.rotationTestStart f) s = .next s))
    ∧ (kc.cove = some c.val → kc.phase = 2 → kc.result = 0 → ∃ t im, exec (.coveSave c []) s = .next t ∧ ChangesOnly [.free, .coves, .hbm, .rot, .mg] s t
        ∧ (t.field (fieldOf c)).phase = 3 ∧ (t.cove c).spx.image = some im ∧ im.digest = (Config.shake256 v.sp.imageBytes).setWidth 512
        ∧ memBytes t.hbm (saveArea c) (v.sp.remapBytes ++ v.sp.imageBytes).length = v.sp.remapBytes ++ v.sp.imageBytes
        ∧ ∀ b r, (t.cove c).sp.row b r = v.sp.row b r)
    ∧ ((kc.cove ≠ some c.val ∨ kc.phase ≠ 2 ∨ kc.result ≠ 0) → ∀ p, exec (.coveSave c p) s = .next s)
    ∧ (k.cove = some c.val → 3 ≤ k.phase.toNat → k.result = 0 →
        let ended (t : State) : State := if k.phase = 5 then t.modCove c Cove.endSelfTest else t
        (k.phase ≠ 7 → exec (.testPhaseComplete f true false) s = .next (ended (s.modField f fun k => { k with phase := k.phase + 1 })))
        ∧ (k.phase = 7 → exec (.testPhaseComplete f true false) s = .next (s.modField f fun k => { k with result := 1 }))
        ∧ ∀ eddy, ∃ u ∈ phaseUnits (k.phase - 2).toNat,
            let s1 := s.modField f fun k => { k with result := 2, failPhase := k.phase - 2 }
            let s2 := if eddy && k.phase == 5 then s1.logCove 0xE011 c else s1
            let s3 := (s2.failTest c u).spend 1
            exec (.testPhaseComplete f false eddy) s = .next (ended (if (s3.cove c).ig.state = .fenced then s3 else s3.fenceForced c)))
    ∧ ((k.cove = none ∨ k.phase.toNat < 3 ∨ k.result ≠ 0) → ∀ x y, exec (.testPhaseComplete f x y) s = .next s)
    ∧ (∀ im, kc.cove = some c.val → kc.result ≠ 0 → v.spx.image = some im → s.digestDiffers c = false →
        ∃ t, exec (.coveRestore c [] false) s = .next t
          ∧ (t.cove c).sp = v.sp.fromArea s.hbm (saveArea c) (remapOf (match s.keptCopy c with
              | some bs => bs.take 512
              | none => memBytes s.hbm (saveArea c) 512))
          ∧ (t.cove c).spx.image = none ∧ (t.field (fieldOf c)).cove = none ∧ (t.field (fieldOf c)).phase = 0
          ∧ (t.coveTest c).result = kc.result ∧ (t.coveTest c).endAt = some s.clk.elapsed)
    ∧ (∀ im, kc.cove = some c.val → kc.result = 1 → v.spx.image = some im → s.digestDiffers c = true →
        ∀ x, ∃ t, exec (.coveRestore c [] x) s = .next t ∧ (t.coveTest c).result = 2 ∧ (t.cove c).spx.image = none)
    ∧ ((kc.cove ≠ some c.val ∨ kc.result = 0) → ∀ b x, exec (.coveRestore c b x) s = .next s)
    ∧ (∀ (bank : Fin 16) (row : Fin 2048), (∀ b, s.bayOf c = some b → (s.bay b).st.running = none) →
        (∀ n, v.sp.due.contains (bank.val, row.val) = true → v.freeSpare bank = some n → n < 16 →
          ∃ u : State, exec (.rowRemap c bank row) s = .next (u.reloadAfter c bank row) ∧ (u.cove c).sp.spareOf bank row = some n
            ∧ (u.cove c).sp.row bank row = v.sp.row bank row ∧ (u.cove c).cores = v.cores ∧ ChangesOnly [.coves, .su] s u)
        ∧ (v.sp.due.contains (bank.val, row.val) = true → v.freeSpare bank = none → exec (.rowRemap c bank row) s = .next
            (((s.modCove c fun v => { v with sp := { v.sp with exhausted := true, due := v.sp.due.filter fun d => d != (bank.val, row.val) } }).charge c
              0x5021).reloadAfter c bank row))
        ∧ (v.sp.due.contains (bank.val, row.val) = false → exec (.rowRemap c bank row) s = .next s))

/-- Handovers, fencing capacity and watch (R344, R353 to R358, R366 to R368, R371 to R373). A move that may begin, to a cove that can still take
the slot, holds its segment's bays and marks itself moving; one whose time has passed ends, is made once more after a link error, or after a second
one is abandoned; one that never began is abandoned after 10 ms. Capacity returns after its hour and fences the head of the queue where its bays
hold; a watch ends at score 0 after ten minutes, with no fence asked of the cove; a recurrence window ends at its time. A bay that wants another
shape takes it once nothing runs there, with its resume items, and stops with 0xB051 where one of them cannot be read. Otherwise each does nothing. -/
def Obligations.HandoversAndShapesTakeEffect : Prop :=
  ∀ (s : State),
    (∀ (g : Fin 40) h, s.rot.moves.find g = some h →
      (∀ d, h.moving = false → s.moveReady g h = true → h.dst = some d → h.kind = .back → (s.cove d).ig.state ≠ .normal →
        exec (.handoverMoveStart g) s = .next (s.nextMove g))
      ∧ (∀ d, h.moving = false → s.moveReady g h = true → h.dst = some d → ¬ (h.kind = .back ∧ (s.cove d).ig.state ≠ .normal) → ∃ t, exec (.handoverMoveStart g) s = .next t
        ∧ t.rot.moves.find g = some { h with moving := true, since := s.cycles h.src }
        ∧ (∀ b ∈ s.baysOfSeg g, g.val ∈ (t.bay b).hold) ∧ (t.net.swap.isSome ∨ t.net.wanted.isSome) ∧ ChangesOnly [.coves, .bays, .rot, .net] s t)
      ∧ (h.moving = false → s.moveReady g h = true → h.dst = none →
          (h.kind = .fence → exec (.handoverMoveStart g) s = .next (s.goDark g h))
          ∧ (∀ b, h.kind = .replay → s.bayOf h.src = some b → exec (.handoverMoveStart g) s = .next ((s.nextMove g).stopBay b 0xB020))
          ∧ (h.kind ≠ .fence → h.kind ≠ .replay → exec (.handoverMoveStart g) s = .next (s.abandonMove g h)))
      ∧ ((h.moving = true ∨ s.moveReady g h = false) → exec (.handoverMoveStart g) s = .next s)
      ∧ (h.moving = true → h.since + 40576 ≤ s.cycles h.src →
          exec (.handoverMoveComplete g false) s = .next (s.moveEnds g h)
          ∧ (s.moveSlots g (s.masksAfter g h)).holdMask g = (s.masksAfter g h).1
          ∧ (s.moveSlots g (s.masksAfter g h)).darkMask g = (s.masksAfter g h).2
          ∧ (h.restarts = 0 → ∃ t, exec (.handoverMoveComplete g true) s = .next t
              ∧ t.rot.moves.find g = some { h with restarts := 1, since := s.cycles h.src } ∧ ChangesOnly [.coves, .rot, .net] s t)
          ∧ (h.restarts ≠ 0 → let s1 := s.abandonMove g h
              exec (.handoverMoveComplete g true) s = .next (if s1.rot.moves.rows.any (fun r => r.2.moving) then s1.armMoves 1000
                else if s1.bays.rows.any (fun r => !r.2.hold.isEmpty) then s1.armMoves 0 else s1.disarm)))
      ∧ ((h.moving = false ∨ s.cycles h.src < h.since + 40576) → ∀ x, exec (.handoverMoveComplete g x) s = .next s)
      ∧ (∀ a, h.moving = false → h.holdAt = some a → a + 10000000 ≤ s.clk.elapsed →
          exec (.handoverTimeout g) s = .next (s.abandonMove g h)
          ∧ (h.kind = .test → s.rot.waiting = [] → s.darkMask g = 0 → (∀ f, f < 4 → (s.field f).queue = []) → (s.abandonMove g h).rot.moves.find g = none
              ∧ ((s.abandonMove g h).field (fieldOf h.src)).pending = none ∧ ((s.abandonMove g h).field (fieldOf h.src)).walk = h.src))
      ∧ ((h.moving = true ∨ h.holdAt = none ∨ (∃ a, h.holdAt = some a ∧ s.clk.elapsed < a + 10000000)) → exec (.handoverTimeout g) s = .next s))
    ∧ (∀ g : Fin 40, s.rot.moves.find g = none → exec (.handoverMoveStart g) s = .next s ∧ exec (.handoverTimeout g) s = .next s
        ∧ ∀ x, exec (.handoverMoveComplete g x) s = .next s)
    ∧ (∀ (f : Fin 4) a, (s.field f).capAt = some a →
        let s1 := s.modField f fun k => { k with capReady := true, capAt := none }
        (a ≤ s.clk.elapsed → (s.field f).queue = [] → exec (.fenceCapacityReturn f) s = .next s1)
        ∧ (∀ c rest, a ≤ s.clk.elapsed → (s.field f).queue = c :: rest →
            ((s.field f).retry ≠ some c → s.fenceHolds c none = true → exec (.fenceCapacityReturn f) s = .next
              (((c :: rest).filter fun d => d != c && (s.cove d).ig.state == .suspect).foldl State.goWatch (s1.fenceCounted c)))
            ∧ (((s.field f).retry = some c ∨ s.fenceHolds c none = false) → exec (.fenceCapacityReturn f) s = .next s1))
        ∧ (s.clk.elapsed < a → exec (.fenceCapacityReturn f) s = .next s))
    ∧ (∀ f : Fin 4, (s.field f).capAt = none → exec (.fenceCapacityReturn f) s = .next s)
    ∧ (∀ c : Fin 800, let q := s.coveTest c
      (∀ a, q.recurAt = some a → a ≤ s.clk.elapsed → ∃ t, exec (.recurExpiry c) s = .next t ∧ t.coveTest c = { q with recurAt := none }
        ∧ ChangesOnly [.rot] s t ∧ ∀ d, d ≠ c.val → t.coveTest d = s.coveTest d)
      ∧ ((q.recurAt = none ∨ (∃ a, q.recurAt = some a ∧ s.clk.elapsed < a)) → exec (.recurExpiry c) s = .next s)
      ∧ (∀ a, (s.cove c).ig.state = .watch → s.score c = 0 → q.watchAt = some a → a + 600000000000 ≤ s.clk.elapsed →
          s.fenceAsked c = false →
          ∃ t, exec (.watchMinimumExpiry c) s = .next t ∧ (t.cove c).ig.state = .normal ∧ (t.coveTest c).watchAt = none
            ∧ (t.coveTest c).recurAt = some (s.clk.elapsed + 86400000000000) ∧ c.val ∉ (t.field (fieldOf c)).queue)
      ∧ ((s.cove c).ig.state ≠ .watch ∨ s.score c ≠ 0 ∨ q.watchAt = none ∨ s.fenceAsked c = true
          ∨ (∃ a, q.watchAt = some a ∧ s.clk.elapsed < a + 600000000000) → exec (.watchMinimumExpiry c) s = .next s))
    ∧ (∀ (b : Fin 16) k p, let y := s.bay b
      y.wantShape = some k → y.program = some p →
      (y.stopped = none → y.st.live = [] → y.st.replay = none → s.moveHeld b = false → s.resumeFails p y.shape = false →
        ∃ t, exec (.shapeSwitch b false) s = .next t ∧ (t.bay b).shape = k ∧ (t.bay b).shrunk = (k != 0) ∧ (t.bay b).wantShape = none
          ∧ t.coves = ((s.loadShape b p k false).writeItems p k (s.resumeItems p y.shape)).coves
          ∧ ChangesOnly [.coves, .bays, .sessions, .ports, .portq, .rot, .mg] s t)
      ∧ (∀ x, y.stopped = none → y.st.live = [] → y.st.replay = none → s.moveHeld b = false →
          (s.resumeFails p y.shape = true ∨ x = true ∧ s.resumeItems p y.shape ≠ []) →
          exec (.shapeSwitch b x) s = .next ((s.stopBay b 0xB051).modBay b fun y => { y with wantShape := none }))
      ∧ ((y.stopped.isSome = true ∨ y.st.live ≠ [] ∨ y.st.replay.isSome = true ∨ s.moveHeld b = true) → ∀ x, exec (.shapeSwitch b x) s = .next s))
    ∧ ∀ b : Fin 16, ((s.bay b).wantShape = none ∨ (s.bay b).program = none) → ∀ x, exec (.shapeSwitch b x) s = .next s

/-- A switch of the tide fabric in one cycle (R180 to R195, R200, R201). A route active in the cycle takes the word of its source and delivers
it: into a core's receive latch, or on a mesh output to the neighbour's input one cycle later. A phase token that names a phase changes the
plane's phase two cycles later. A groyne due releases its oldest pair toward the directions its token names. A violation is recorded and
freezes the switch; a frozen switch runs none of this. -/
def Obligations.TideSwitchCyclesTakeEffect : Prop :=
  ∀ (s : State) (c : Fin 800),
    let v := s.cove c
    let t := v.tide
    let cyc := s.cycles c
    (∀ (plane : Fin 3) (e : BitVec 64) (i : Fin 16) (x : Row) at_ rest, s.tideRuns c = true → t.ran.get 0 plane ≤ cyc → t.phNext = [] →
        (∀ d : Fin 4, t.inputs.get [] (plane.val * 4 + d.val) = []) → routeSrc e = 4 + i.val → (plane = 1 → routeReduce e = false) →
        (v.latch i plane).send = (x, at_, true) :: rest → at_ < cyc →
        (∀ j : Fin 16, t.active plane cyc = [(4 + j.val, e)] → (v.latch j plane).recv.length < 2 →
          ∃ u, exec (.activeRouteCycle c plane false) s = .next u ∧ ((u.cove c).latch i plane).send = rest
            ∧ ((u.cove c).latch j plane).recv = (v.latch j plane).recv ++ [(x, cyc, true)]
            ∧ (u.cove c).tide.ran.get 0 plane = cyc + 1 ∧ (u.cove c).cores = v.cores ∧ (u.cove c).sp = v.sp ∧ CoveOnly c s u)
        ∧ (∀ (d : Fin 4) (l m n : Nat), t.active plane cyc = [(d.val, e)] → t.injPar = false → s.logOf c = some l →
            logNeighbour l d = some m → s.physOf m = some n → n ≠ c.val → crossesSeam l d = false →
          ∃ u, exec (.activeRouteCycle c plane false) s = .next u ∧ ((u.cove c).latch i plane).send = rest
            ∧ (u.cove n).tide.inputs.get [] (plane.val * 4 + facing d)
                = (s.cove n).tide.inputs.get [] (plane.val * 4 + facing d) ++ [({ data := x, ok := true }, cyc + 1)]
            ∧ ChangesOnly [.coves] s u ∧ ∀ k, k ≠ c.val → k ≠ n → u.cove k = s.cove k))
    ∧ (∀ tok : BitVec 8, s.tideRuns c = true → tok.toNat / 64 = 1 → tok.toNat % 16 < s.phasesAt c →
        exec (.pselToken c tok) s = .next (s.modCove c fun v => { v with tide := { v.tide with phNext := t.phNext ++
          (if tok.toNat / 16 % 4 = 3 then [(0, tok.toNat % 16, cyc + 2), (1, tok.toNat % 16, cyc + 2), (2, tok.toNat % 16, cyc + 2)]
           else [(tok.toNat / 16 % 4, tok.toNat % 16, cyc + 2)]) } }))
    ∧ (∀ tok : BitVec 8, s.tideRuns c = true → (tok.toNat / 64 ≠ 1 ∨ s.phasesAt c ≤ tok.toNat % 16) →
        ∃ u, exec (.pselToken c tok) s = .next u ∧ (u.cove c).tide.frozen = true ∧ (u.cove c).tide.violCode = 0x6029)
    ∧ (∀ (g : Fin 2) w k at_ rest, let y := t.groynes.get {} g
        s.tideRuns c = true → y.enabled = true → windowOf y.cfg (cyc - t.stepCyc) = true → y.released ≤ cyc → y.pairs = (w, k, at_) :: rest → at_ < cyc →
        ∃ u, exec (.groyneRelease c g) s = .next u ∧ CoveOnly c s u
          ∧ (u.cove c).tide.groynes.get {} g = { y with pairs := rest, released := cyc + 1 }
          ∧ ∀ i : Fin 4, (u.cove c).tide.gout.get [] (20 + g.val * 4 + i.val) = if k.getLsbD i then [(w, cyc)] else [])
    ∧ (∀ (code : BitVec 16) plane port, (s.logOf c).isSome = true → isViolation code = true →
        ∃ u, exec (.tideFabricFault c code plane port) s = .next u ∧ (u.cove c).tide.frozen = true ∧ (u.cove c).tide.violCode = code
          ∧ (u.cove c).tide.violPort = port ∧ (u.cove c).tide.violPlane = plane ∧ (u.cove c).tide.violNew = true
          ∧ ChangesOnly [.coves, .bays] s u)
    ∧ (∀ (d : Fin 4) x l, s.logOf c = some l → (s.seamPath (l / 36)).state = .open_ → s.laneNext c d = some x → x.tok = 0x30 → x.tag = 0 →
        ∃ u, exec (.freeze c) s = .next u ∧ (u.cove c).tide.frozen = true ∧ (u.cove c).cores = v.cores
        ∧ (u.cove c).sp = v.sp ∧ ChangesOnly [.coves] s u)
    ∧ ((∀ d : Fin 4, s.laneNext c d = none) → exec (.freeze c) s = .next s)
    ∧ (t.stopped cyc = true → (∀ p a, exec (.activeRouteCycle c p a) s = .next s) ∧ (∀ k, exec (.pselToken c k) s = .next s)
        ∧ (∀ g, exec (.groyneRelease c g) s = .next s) ∧ ∀ b k, exec (.barrierArrive c b k) s = .next s)

/-- The combining lane (R121, R197 to R199). A core that waits at a barrier it belongs to arrives, and one that it does not belong to is a violation,
0x602D; a child whose ARRIVE token is the next of its lane arrives too; the last arrival sends ARRIVE to the parent, and at the root releases. RELEASE lets every core of the switch that waits there go on and arms the
entry again. A vote, the cove's own or a child's, is counted; a fail goes on at once and at the root becomes the step's outcome; COMMIT and ROLLBACK
tokens go on to the children and end the votes of their step. A token is taken only where it is the next of its lane. -/
def Obligations.CombiningTokensTakeEffect : Prop :=
  ∀ (s : State) (c : Fin 800) (l : Nat), s.logOf c = some l → (s.seamPath (l / 36)).state = .open_ →
    let t := (s.cove c).tide
    let cyc := s.cycles c
    (∀ (b : Fin 16) (k : Fin 20) (s0 : State), let e := t.entry b
      let a := t.arrived.get [] b
      s.tideRuns c = true → barValid e = true → a.contains k.val = false →
      ((k.val < 16 ∧ s0 = s ∧ barCore e k = true ∧ ((s.cove c).core k).wait = some (.tbar (BitVec.ofNat 4 b)))
        ∨ ∃ d x, k.val = 16 + d ∧ barChild e d = true ∧ s.laneNext c d = some x ∧ x.tok = tokArrive b ∧ x.tag = 0 ∧ s0 = s.takeLane c d x) →
      let s1 := s0.modCove c fun v => { v with tide := { v.tide with arrived := v.tide.arrived.set [] b (a ++ [k.val]) } }
      ((s1.cove c).tide.allArrived b = false → exec (.barrierArrive c b k) s = .next s1)
      ∧ ((s1.cove c).tide.allArrived b = true → barRoot e = true → exec (.barrierArrive c b k) s = .next (s1.releaseBarrier c b))
      ∧ ((s1.cove c).tide.allArrived b = true → barRoot e = false → exec (.barrierArrive c b k) s = .next (s1.modCove c fun v => { v with tide :=
          { v.tide with lane := v.tide.lane ++ [{ tok := tokArrive b, tag := 0, dir := barParent e, at_ := cyc }] } })))
    ∧ (∀ (b k : Fin 16), s.tideRuns c = true → ((s.cove c).core k).wait = some (.tbar (BitVec.ofNat 4 b)) → (t.arrived.get [] b).contains k.val = false →
        (barValid (t.entry b) = false ∨ barCore (t.entry b) k = false) →
        exec (.barrierArrive c b ⟨k, by omega⟩) s = .next (s.tideFault c 0x602D 3 (BitVec.ofNat 5 b)))
    ∧ (∀ (b : Fin 16) x, let e := t.entry b
      s.tideRuns c = true → barValid e = true → barRoot e = false →
      s.laneNext c (barParent e) = some x → x.tok = tokRelease b → x.tag = 0 →
      exec (.barrierRelease c b) s = .next ((s.takeLane c (barParent e) x).releaseBarrier c b))
    ∧ (∀ (b : Fin 16) x, let e := t.entry b
      s.tideRuns c = true → barValid e = true → barRoot e = false →
      s.laneNext c (barParent e) = some x → x.tok = tokRelease b → x.tag = 0 →
      (∀ k : Fin 16, (s.core ⟨c, k⟩).wait = some (.tbar (BitVec.ofNat 4 b)) → (s.core ⟨c, k⟩).pc + 4 ≠ 0x4000) →
      ∃ u, exec (.barrierRelease c b) s = .next u ∧ ChangesOnly [.coves] s u ∧ (u.cove c).tide.arrived.find b = none
        ∧ ∀ k : Fin 16, let q := s.core ⟨c, k⟩
          (q.wait = some (.tbar (BitVec.ofNat 4 b)) →
            Progress q (u.core ⟨c, k⟩) cyc (q.pc + 4) ∧ WritesNone q (u.core ⟨c, k⟩))
          ∧ (q.wait ≠ some (.tbar (BitVec.ofNat 4 b)) → u.core ⟨c, k⟩ = q))
    ∧ (∀ (b : Fin 16), (barValid (t.entry b) = false ∨ barRoot (t.entry b) = true ∨ s.laneNext c (barParent (t.entry b)) = none) →
        exec (.barrierRelease c b) s = .next s)
    ∧ (∀ (tag : BitVec 2) (pass : Bool) (src : Option (Fin 4)) (s0 : State), barValid t.system = true →
        ((src = none ∧ t.casts.contains (pass, tag) = true
            ∧ s0 = s.modCove c fun v => { v with tide := { v.tide with casts := t.casts.erase (pass, tag) } })
          ∨ ∃ d x, src = some d ∧ barChild t.system d = true ∧ s.laneNext c d = some x ∧ x.tok = tokVote pass tag ∧ x.tag = 0
            ∧ s0 = s.takeLane c d x) →
        let who : Nat := (src.map Fin.val).getD 4
        let s1 := s0.modCove c fun v => { v with tide := { v.tide with
          votes := v.tide.votes.filter (fun x => !(x.1 == who && x.2.2 == tag)) ++ [(who, pass, tag)] } }
        let passed : List Nat := ((s1.cove c).tide.votes.filter fun x => x.2.2 == tag && x.2.1).map Prod.fst
        ((t.votes.any fun x => x.2.2 == tag && !x.2.1) = true → exec (.vote c src pass tag) s = .next s1)
        ∧ ((t.votes.any fun x => x.2.2 == tag && !x.2.1) = false →
          (pass = false → exec (.vote c src pass tag) s = .next (s1.passVote c false tag))
          ∧ (pass = true → (∃ d ∈ 4 :: barChildren t.system, passed.contains d = false) → exec (.vote c src pass tag) s = .next s1)
          ∧ (pass = true → (∀ d ∈ 4 :: barChildren t.system, passed.contains d = true) →
              exec (.vote c src pass tag) s = .next (s1.passVote c true tag))))
    ∧ (∀ tag p, t.casts.contains (p, tag) = false → exec (.vote c none p tag) s = .next s)
    ∧ (∀ (tag : BitVec 2) x, barValid t.system = true → barRoot t.system = false → s.laneNext c (barParent t.system) = some x → x.tag = tag →
        (∀ n, s.neighbour c (barParent t.system) = some n → n ≠ c.val) →
        let done (u : State) (tok : BitVec 6) (keep : Bool) : Prop :=
          (u.cove c).tide.votes = t.votes.filter (fun x => x.2.2 != tag || (keep && !x.2.1))
          ∧ (u.cove c).tide.casts = t.casts.filter (fun x => x.2 != tag)
          ∧ (u.cove c).tide.lane = t.lane ++ (barChildren t.system).map (fun d => { tok := tok, tag := tag, dir := d, at_ := cyc })
          ∧ ChangesOnly [.coves] s u
        (x.tok = 0x31 → ∃ u, exec (.commitToken c tag) s = .next u ∧ done u 0x31 false)
        ∧ (x.tok = 0x32 → ∃ u, exec (.rollbackToken c tag) s = .next u ∧ done u 0x32 true))
    ∧ (barValid t.system = false ∨ barRoot t.system = true ∨ s.laneNext c (barParent t.system) = none → ∀ tag,
        exec (.commitToken c tag) s = .next s ∧ exec (.rollbackToken c tag) s = .next s)


/-- The seam, REFCLK and the PLLs (R379, R382, R384, R391, R392). A path that may align does; it opens on a pulse after eight clean frames; it closes
with 0x2030 when its limit passes, and with 0x6031 on a slip when it was open; the third failure disables the row with 0x2031. REFCLK's loss is
counted, logged and starts coasting, or goes back to S0 before the module is ready; 104,858 ns after it, its return reacquires. A PLL that was enabled
long enough becomes stable; one that stays out is started once more, and the second time treated as a lock loss; one that loses lock is counted and
taken by its rule. Otherwise nothing happens. -/
def Obligations.SeamAndReferenceEventsTakeEffect : Prop :=
  ∀ (s : State),
    (∀ row : Fin 20, let p := s.seamPath row
      let may : Bool := p.state == .closed && !p.disabled && s.seamLock && s.clocked 0 && s.clocked 1
        && (s.standsAt 0).isSome && s.standsAt 0 == s.standsAt 1 && (s.pll 0).fbdiv == (s.pll 1).fbdiv
        && (!p.slipped || (List.range 16).all fun b => !(s.bay b).spans || (s.bay b).st.running.isNone)
      (may = true → exec (.seamAlignStart row) s = .next (s.modSeam row fun p =>
        { p with state := .aligning, since := s.clk.now, clean := pulseFrom s.clk.now, slipped := false }))
      ∧ (may = false → exec (.seamAlignStart row) s = .next s)
      ∧ (p.state = .aligning → s.clk.now % 160 = 0 → p.clean + 1280 ≤ s.clk.now → s.clk.now ≤ p.since + 2000 →
        exec (.seamOpen row) s = .next (s.modSeam row fun p => { p with state := .open_ }))
      ∧ ((p.state ≠ .aligning ∨ s.clk.now % 160 ≠ 0 ∨ s.clk.now < p.clean + 1280 ∨ p.since + 2000 < s.clk.now) → exec (.seamOpen row) s = .next s)
      ∧ (p.state = .aligning → p.since + 2000 ≤ s.clk.now → p.fails < 2 → ∃ t, exec (.seamAlignTimeout row) s = .next t
          ∧ t.seamPath row = { p with state := .closed, fails := p.fails + 1 } ∧ t.clk.errCode = 0x2030 ∧ ChangesOnly [.clk, .mg] s t)
      ∧ (p.state = .aligning → p.since + 2000 ≤ s.clk.now → 2 ≤ p.fails →
        exec (.seamAlignTimeout row) s = .next ((((s.modSeam row fun p => { p with state := .closed }).clkError 0x2030 0x1F).modSeam row fun p =>
          { p with disabled := true, state := .closed, fails := p.fails + 1 }).clkError 0x2031 0x1F).refitAll)
      ∧ ((p.state ≠ .aligning ∨ s.clk.now < p.since + 2000) → exec (.seamAlignTimeout row) s = .next s)
      ∧ (p.state = .aligning → ∀ k, exec (.seamSlip ⟨row, k⟩) s = .next (s.modSeam row fun p =>
        { p with clean := pulseFrom s.clk.now }))
      ∧ (p.state = .open_ → ∀ k, let side := s.freeNat % 2
          let s1 := (s.spend 1).modSeam row fun p => { p with state := .closed, slipped := true }
          (∀ c, s.physOf (36 * row.val + 17 + side) = some c → exec (.seamSlip ⟨row, k⟩) s = .next
            ((s1.tideFault c 0x6031 k (if side = 0 then 1 else 3)).seamFails row))
          ∧ (s.physOf (36 * row.val + 17 + side) = none → exec (.seamSlip ⟨row, k⟩) s = .next (s1.seamFails row)))
      ∧ (p.state = .closed → ∀ k, exec (.seamSlip ⟨row, k⟩) s = .next s))
    ∧ (let s2 := { s with clk := { s.clk with refOk := false, refAwayAt := s.clk.now, lossCnt := satAdd32 s.clk.lossCnt 1 } }.loseReference 0x2010 0x1F
      s.clk.refOk = true → exec .refclkLoss s = .next (if s2.su.state = 2 ∨ s2.su.state = 3 then s2 else s2.backToS0))
    ∧ (s.clk.refOk = true → s.jetty.resetting = false → ∃ t, exec .refclkLoss s = .next t ∧ t.clk.refOk = false ∧ t.clk.lossCnt = satAdd32 s.clk.lossCnt 1
        ∧ t.clk.errCode = 0x2010 ∧ t.clk.errPll = 0x1F ∧ t.clk.lost = true ∧ t.clk.lostSeen = true ∧ t.clk.neapSrc = true
        ∧ t.clk.refAwayAt = s.clk.now ∧ ∀ p : Fin 17, (t.pll p).state = if (s.pll p).state = .off then .off else .coasting)
    ∧ (s.clk.refOk = true → s.su.state ≠ 2 → s.su.state ≠ 3 → s.jetty.resetting = false → ∃ t, exec .refclkLoss s = .next t ∧ t.su.stage = 0 ∧ t.su.state = 1)
    ∧ (s.clk.refOk = false → exec .refclkLoss s = .next s)
    ∧ (let s1 := { s with clk := { s.clk with refOk := true, neapDue := true } }
      s.pins.aux = true → s.clk.refOk = false → s.clk.refAwayAt + 104858 ≤ s.clk.now →
      (¬ (s.clk.lost = true ∧ s.su.state = 2) → exec .refclkReturn s = .next { s1 with clk := { s1.clk with lost := false } })
      ∧ (s.clk.lost = true → s.su.state = 2 → exec .refclkReturn s = .next s1.reacquire
          ∧ ∀ p ∈ [16, 4, 5], (s.pll p).state = .coasting → (s1.reacquire.pll p).state = .acquiring ∧ (s1.reacquire.pll p).enabledAt = s.clk.now))
    ∧ ((s.pins.aux = false ∨ s.clk.refOk = true ∨ s.clk.now < s.clk.refAwayAt + 104858) → exec .refclkReturn s = .next s)
    ∧ (∀ p : Fin 17, let q := s.pll p
      (q.state = .acquiring → s.clk.refOk = true → q.enabledAt + 58983 ≤ s.clk.now → exec (.pllStable p) s = .next (s.pllOn p)
        ∧ ((s.pllOn p).pll p).state = .stable ∧ ((s.pllOn p).pll p).lock = true ∧ ((s.pllOn p).pll p).retried = false
        ∧ ∀ r : Fin 17, r ≠ p → (s.pll r).state ≠ .coasting → (s.pllOn p).pll r = s.pll r)
      ∧ ((q.state ≠ .acquiring ∨ s.clk.refOk = false ∨ s.clk.now < q.enabledAt + 58983) → exec (.pllStable p) s = .next s)
      ∧ (q.state = .acquiring → q.enabledAt + 1000000 ≤ s.clk.now → q.retried = false → ∃ t, exec (.pllAcquireTimeout p) s = .next t
          ∧ (t.pll p).state = .acquiring ∧ (t.pll p).retried = true ∧ (t.pll p).enabledAt = s.clk.now ∧ t.clk.errCode = 0x2020
          ∧ t.clk.errPll.toNat = p.val ∧ ChangesOnly [.clk, .mg] s t)
      ∧ (q.state = .acquiring → q.enabledAt + 1000000 ≤ s.clk.now → q.retried = true → exec (.pllAcquireTimeout p) s = .next
          (((s.clkError 0x2020 p).lockLost p).modPll p fun x => { x with retried := false, failed := true }))
      ∧ ((q.state ≠ .acquiring ∨ s.clk.now < q.enabledAt + 1000000) → exec (.pllAcquireTimeout p) s = .next s)
      ∧ (q.state = .stable → exec (.pllLockLoss p) s = .next { s.lockLost p with clk := { (s.lockLost p).clk with
          relockCnt := satAdd32 (s.lockLost p).clk.relockCnt 1 } })
      ∧ (q.state = .stable → s.jetty.resetting = false → p.val = 14 ∨ p.val = 15 ∨ p.val = 16 → ∃ t, exec (.pllLockLoss p) s = .next t ∧ (t.pll p).state = .acquiring
          ∧ (t.pll p).lock = false ∧ (t.pll p).enabledAt = s.clk.now ∧ t.clk.relockCnt = satAdd32 s.clk.relockCnt 1
          ∧ t.clk.errCode = (if p.val = 16 then 0x2026 else 0x2025))
      ∧ (q.state ≠ .stable → exec (.pllLockLoss p) s = .next s))

/-- Sleep and operating points (R384, R387, R388, R390). A cove that may rest enters SLACK; a half, stack or port that may, and the network once the
reference is lost, enters EBB, a stack in self-refresh; a half that only a test keeps awake abandons the test; a wake that is due ends SLACK at once,
and from EBB starts the PLL unless that is still stable; the network's own wake is REFCLK's return. A stack that retrained leaves self-refresh; one
that did not within 10 ms is disabled with 0x8022, and its bays stop. A change begins once every bay concerned holds, ends when its voltage and its
divider stand at its target's and the seam, where locked, is open again, and is given up after 10 ms in which some bay did not hold. -/
def Obligations.SleepAndPointChangesTakeEffect : Prop :=
  ∀ (s : State),
    let state (k : Nat) : Sleep := (s.clk.sleep.get (.run, 0) k).1
    let sleepAt (k : Nat) (x : Sleep) (t : State) : State := { t with clk := { t.clk with sleep := t.clk.sleep.put k (x, t.clk.elapsed) } }
    let awake (k : Nat) (t : State) : State := { t with clk := { t.clk with sleep := t.clk.sleep.erase k } }
    (∀ c : Fin 800,
      (state c = .run → s.mayRest c = true → exec (.slackEntry c) s = .next (sleepAt c .slack s))
      ∧ ((state c ≠ .run ∨ s.mayRest c = false) → exec (.slackEntry c) s = .next s)
      ∧ exec (.ebbEntry (.compute c)) s = .next s
      ∧ (s.wakeDue (.compute c) = true → state c = .slack → (s.half (halfOf c)).ebb = false → s.parked = false →
          exec (.domainWake (.compute c)) s = .next ((awake c s).modCove c fun v => { v with brk := { v.brk with level := 0 } }))
      ∧ ((s.wakeDue (.compute c) = false ∨ state c ≠ .slack ∨ (s.half (halfOf c)).ebb = true ∨ s.parked = true) →
          exec (.domainWake (.compute c)) s = .next s))
    ∧ (∀ h : Fin 2,
      (s.halfMayRest h = true → ∃ t, exec (.ebbEntry (.half h)) s = .next t ∧ t.half h = { s.half h with ebb := true, ebbAt := some s.clk.elapsed }
        ∧ t.clk.plls = s.clk.plls ∧ ChangesOnly [.clk] s t)
      ∧ (s.halfRests h = false → exec (.ebbEntry (.half h)) s = .next s)
      ∧ (s.halfRests h = true → s.halfMayRest h = false → (∀ f c, (s.field f).cove = some c → fieldOf c = f) → ∃ t,
          exec (.ebbEntry (.half h)) s = .next t ∧ ChangesOnly [.rot] s t ∧ ∀ f : Nat, t.field f = if (f = h.val ∨ f = h.val + 2) ∧
            (s.field f).cove.isSome ∧ (s.field f).phase ≠ 0 ∧ (s.field f).result = 0 then { s.field f with result := 3 } else s.field f)
      ∧ (s.wakeDue (.half h) = true → (s.half h).ebb = true →
          (s.clocked h = true → exec (.domainWake (.half h)) s = .next (s.modHalf h fun k => { k with ebb := false, ebbAt := none }))
          ∧ (s.clocked h = false → ∃ t, exec (.domainWake (.half h)) s = .next t ∧ t.half h = { s.half h with ebb := false, ebbAt := none }
            ∧ (t.pll h).state = .acquiring ∧ (t.pll (h + 2)).state = .acquiring ∧ ChangesOnly [.clk] s t))
      ∧ ((s.wakeDue (.half h) = false ∨ (s.half h).ebb = false) → exec (.domainWake (.half h)) s = .next s))
    ∧ (∀ k : Fin 8,
      (s.stackMayRest k = true → exec (.ebbEntry (.stack k)) s = .next (sleepAt (1000 + k) .ebb (s.modStack k fun x => { x with selfRef := true })))
      ∧ (s.stackMayRest k = false → exec (.ebbEntry (.stack k)) s = .next s)
      ∧ (s.wakeDue (.stack k) = true → state (1000 + k) = .ebb →
          ((s.pll (6 + k)).state = .stable → (s.stack k).retrain = false → exec (.domainWake (.stack k)) s =
            .next (((awake (1000 + k) s).modStack k fun x => { x with selfRef := false }).serveGathers))
          ∧ ((s.pll (6 + k)).state = .stable → (s.stack k).retrain = true → exec (.domainWake (.stack k)) s = .next (awake (1000 + k) s))
          ∧ ((s.pll (6 + k)).state ≠ .stable → exec (.domainWake (.stack k)) s = .next ((awake (1000 + k) s).startPll (6 + k))))
      ∧ ((s.wakeDue (.stack k) = false ∨ state (1000 + k) ≠ .ebb) → exec (.domainWake (.stack k)) s = .next s)
      ∧ ((s.stack k).retrain = true → (s.stack k).disabled = false → (s.pll (6 + k.val)).state = .stable →
          exec (.hbmRetrainComplete k) s =
            .next (s.modStack k fun x => { x with selfRef := false, retrain := false, lossAt := none }).serveGathers.settleLost)
      ∧ (((s.stack k).retrain = false ∨ (s.stack k).disabled = true ∨ (s.pll (6 + k.val)).state ≠ .stable) → exec (.hbmRetrainComplete k) s = .next s)
      ∧ (∀ a, (s.stack k).lossAt = some a → a + 10000000 ≤ s.clk.elapsed →
          ∃ u : State, (u.stack k).disabled = true ∧ (u.stack k).retrain = false ∧ (u.stack k).lossAt = none ∧ (u.stack k).errCode = 0x8022
            ∧ ChangesOnly [.ctrls, .mg] s u
            ∧ exec (.hbmRetrainTimeout k) s = .next ((((List.range 16).filter fun b => match (s.bay b).record with
                | some r => r.extents.any fun e => e.stack == k.val && e.pages != 0
                | none => false).foldl (fun t b => t.stopBay b 0x8022) u).settleLost))
      ∧ (((s.stack k).lossAt = none ∨ (∃ a, (s.stack k).lossAt = some a ∧ s.clk.elapsed < a + 10000000)) → exec (.hbmRetrainTimeout k) s = .next s))
    ∧ (∀ p : Fin 2,
      ((s.port p).up = false → ((s.port p).training = false ∨ (s.port p).disabled = true) → state (2000 + p) = .run →
        exec (.ebbEntry (.port p)) s = .next (sleepAt (2000 + p) .ebb s))
      ∧ (((s.port p).up = true ∨ ((s.port p).training = true ∧ (s.port p).disabled = false) ∨ state (2000 + p) ≠ .run) →
        exec (.ebbEntry (.port p)) s = .next s)
      ∧ (s.wakeDue (.port p) = true → state (2000 + p) = .ebb →
        ((s.pll (14 + p)).state ≠ .stable → exec (.domainWake (.port p)) s = .next ((awake (2000 + p) s).startPll (14 + p)))
        ∧ ((s.pll (14 + p)).state = .stable → exec (.domainWake (.port p)) s = .next (awake (2000 + p) s)))
      ∧ ((s.wakeDue (.port p) = false ∨ state (2000 + p) ≠ .ebb) → exec (.domainWake (.port p)) s = .next s))
    ∧ (s.clk.refOk = false → s.clk.lost = true → state 3000 = .run → exec (.ebbEntry .network) s = .next (sleepAt 3000 .ebb s))
    ∧ ((s.clk.refOk = true ∨ s.clk.lost = false ∨ state 3000 ≠ .run) → exec (.ebbEntry .network) s = .next s)
    ∧ exec (.domainWake .network) s = .next s
    ∧ ∀ h : Fin 2, let k := s.half h
      let other := 1 - h.val
      (s.seamLock = false →
        (k.holding = true → s.allHold [h.val] = true → k.ebb = false → s.clocked h = true →
          exec (.opChangeStart h) s = .next (s.modHalf h fun k => { k with holding := false, changing := true, mv := s.setMv h, mvAt := none }))
        ∧ (k.changing = true → s.reached h = true → ∃ t : State, exec (.opChangeComplete h) s = .next t.releaseLoads ∧ ChangesOnly [.clk] s t
            ∧ t.half h = { k with op := k.target, changing := false, holding := false, holdAt := none, mvAt := none }
            ∧ t.half other = s.half other)
        ∧ (∀ a, k.holding = true → k.changing = false → s.allHold [h.val] = false → k.holdAt = some a → a + 10000000 ≤ s.clk.elapsed →
            ∃ t, exec (.opChangeTimeout h) s = .next t
              ∧ t.half h = { k with holding := false, changing := false, holdAt := none, target := k.op, mv := opMv k.op, mvAt := none }
              ∧ t.half other = s.half other ∧ t.clk.errCode = 0x2040 ∧ ChangesOnly [.clk, .mg] s t))
      ∧ (s.seamLock = true →
        (k.holding = true → s.allHold [0, 1] = true → (∀ j : Fin 2, (s.half j).ebb = false ∧ s.clocked j = true) →
          ∃ t, exec (.opChangeStart h) s = .next t ∧ ChangesOnly [.clk] s t ∧ (∀ row : Fin 20, (t.seamPath row).state = .closed)
            ∧ ∀ j : Fin 2, t.half j = { s.half j with holding := false, changing := true, mv := s.setMv j, mvAt := none })
        ∧ (k.changing = true → s.seamOpen = false → exec (.opChangeComplete h) s = .next s)
        ∧ (k.changing = true → s.seamOpen = true → (∀ j : Fin 2, s.reached j = true) →
            ∃ t : State, exec (.opChangeComplete h) s = .next t.releaseLoads ∧ ChangesOnly [.clk] s t
            ∧ ∀ j : Fin 2, t.half j = { s.half j with op := (s.half j).target, changing := false, holding := false, holdAt := none, mvAt := none })
        ∧ (∀ a, k.holding = true → k.changing = false → s.allHold [0, 1] = false → k.holdAt = some a → a + 10000000 ≤ s.clk.elapsed →
            ∃ t, exec (.opChangeTimeout h) s = .next t ∧ t.clk.errCode = 0x2040 ∧ ChangesOnly [.clk, .mg] s t
              ∧ ∀ j : Fin 2, t.half j = { s.half j with holding := false, changing := false, holdAt := none, target := (s.half j).op,
                                                        mv := opMv (s.half j).op, mvAt := none }))
      ∧ ((k.holding = false ∨ s.allHold (s.changeSet h) = false ∨ (s.half h).ebb = true ∨ s.clocked h = false) → exec (.opChangeStart h) s = .next s)
      ∧ ((k.holding = false ∨ k.changing = true ∨ s.allHold (s.changeSet h) = true ∨ k.holdAt = none
          ∨ (∃ a, k.holdAt = some a ∧ s.clk.elapsed < a + 10000000)) → exec (.opChangeTimeout h) s = .next s)
      ∧ ((k.changing = false ∨ s.reached h = false) → exec (.opChangeComplete h) s = .next s)

/-- Power (R396 to R399, R404 to R411, R414). A control period notes its readings, applies a new cap and takes the largest duty that fits when
the points are at OP0; a glide starts above its limit and stops below 95 % of it; an overheated field parks the module; a droop stretches two
cycles from the second one on. The auxiliary input's loss with main present starts its hold-up with 0x3031, without main it takes the module down; the
main input's loss takes the main rails and their contents with it, and with the hold-up running takes the module down; a main input that is back
resumes start-up at S4 and ends its park. A failed phase is counted up to its rail's phases, a core rail's third logs 0x3041 and its fifth parks with
0x3042; a hint's raise that fits is made; energy goes to the module, to each bay and to each session, at most once in 10 µs. -/
def Obligations.PowerEventsTakeEffect : Prop :=
  ∀ (s : State),
    (∀ m : PowerSample,
      (s.pwrx.mainRegs = true → s.pwrx.lastPeriod + 10000000 ≤ s.clk.now → ∃ t, exec (.controlPeriod m) s = .next t
        ∧ t.pwr.capW = s.pwr.capNext.getD s.pwr.capW ∧ t.pwr.capNext = none ∧ t.pwr.inPeriod = BitVec.ofNat 16 s.pwrx.periodW
        ∧ t.pwrx.coreW = m.coreW ∧ t.pwrx.lastPeriod = s.clk.now ∧ (∀ b : Fin 16, (t.bay b).pwr.meanW = m.bayW.getD b 0)
        ∧ (∀ d, (s.half 0).op = 0 → (s.half 1).op = 0 → 950 * t.pwr.capW < s.pwrx.periodW * 1000 →
            bestDuty 180 s.pwrx.periodW (s.pwr.duty.toNat + 1) t.pwr.capW (s.pwr.duty.toNat + 1) = some d → t.pwr.duty = BitVec.ofNat 3 (d - 1)))
      ∧ ((s.pwrx.mainRegs = false ∨ s.clk.now < s.pwrx.lastPeriod + 10000000) → exec (.controlPeriod m) s = .next s))
    ∧ (∀ n, s.glideNeeded n .fastPower = (decide (64 ≤ s.pwrx.samples.length)
            && decide ((if s.su.peakW = 0 then s.su.contW else s.su.peakW) * 640000 < s.pwrx.powers 64))
        ∧ s.glideNeeded n .meanPower = (decide (12500 ≤ s.pwrx.samples.length) && decide (s.su.contW * 125000000 < s.pwrx.powers 12500))
        ∧ s.glideNeeded n .current = (decide (64 ≤ s.pwrx.samples.length) && decide (5750 * 64 < s.pwrx.currents 64))
        ∧ s.glideNeeded n .temperature = decide (100 < n))
    ∧ (∀ cause n, s.pwrx.mainRegs = true → s.pwr.glideCause = none → s.glideNeeded n cause = true → ∃ t, exec (.emergencyGlide cause n) s = .next t
        ∧ t.pwr.glideCause = some cause ∧ t.pwr.emerg = satAdd32 s.pwr.emerg 1 ∧ t.pwr.errCode = 0x3034 ∧ ChangesOnly [.pwr, .mg] s t)
    ∧ (∀ cause n, (s.pwrx.mainRegs = false ∨ s.pwr.glideCause.isSome = true ∨ s.glideNeeded n cause = false) → exec (.emergencyGlide cause n) s = .next s)
    ∧ (∀ cause n, s.pwr.glideCause = some cause →
        let passed : Prop := (cause = .temperature ∧ n < 97)
          ∨ (cause = .current ∧ ∃ x, s.pwrx.samples.head? = some x ∧ x.2 * 100 < 95 * 5750)
          ∨ (cause ≠ .temperature ∧ cause ≠ .current ∧ ∃ x, s.pwrx.samples.head? = some x ∧ x.1 < 9500 * s.glideLimit cause)
        (passed → exec (.emergencyGlideStop n) s = .next { s with pwr := { s.pwr with glideCause := none } })
        ∧ (¬ passed → exec (.emergencyGlideStop n) s = .next s))
    ∧ (s.pwr.glideCause = none → ∀ n, exec (.emergencyGlideStop n) s = .next s)
    ∧ (∀ (f : Fin 4) n, (110 < n → ∃ t, exec (.junctionOvertemp f n) s = .next t ∧ ParkCause.overtemp ∈ t.pwr.parks ∧ t.pwr.errCode = 0x3033
          ∧ t.pwrx.celsius.get 0 f = n ∧ ∀ c ∈ fieldCoves f, c < 800 → (t.cove c).telem.temp = n)
        ∧ (n ≤ 110 → exec (.junctionOvertemp f n) s = .next s))
    ∧ exec .parkEnd s = .next { s with pwr := { s.pwr with parks := s.pwr.parks.filter fun c => c != .overtemp } }
    ∧ (∀ f : Fin 4, s.seamLock = false → ∃ t, exec (.droopTrip f) s = .next t ∧ t.pwr.droop = bump s.pwr.droop f 1
        ∧ (let k := s.half (f.val % 2)
           let c := k.cyc160 / 160
           let first := match k.tripAt with
             | some a => if c ≤ a + 8 then a + 8 else c + 2
             | none => c + 2
           t.half (f.val % 2) = { k with stretch := k.stretch ++ [first], tripAt := some c })
        ∧ ChangesOnly [.pwr, .clk, .coves] s t)
    ∧ (∀ f : Fin 4, s.seamLock = true → ∃ t, exec (.droopTrip f) s = .next t ∧ t.pwr.droop = bump s.pwr.droop f 1
        ∧ (∀ j : Fin 2, (t.half j).tripAt = some ((s.half j).cyc160 / 160) ∧ (t.half j).stretch.length = (s.half j).stretch.length + 1)
        ∧ ChangesOnly [.pwr, .clk, .coves] s t)
    ∧ (s.auxOk = true → s.pins.main = true → ∃ t, exec .auxInputLoss s = .next t ∧ t.pwrx.holdup = some s.clk.now ∧ t.pwrx.auxLost = true
        ∧ t.pwr.errCode = 0x3031 ∧ t.pins = s.pins ∧ t.hbm = s.hbm ∧ t.coves = s.coves
        ∧ (∀ p : Fin 2, (t.port p).lastEvt = 0x9033 ∧ (t.portQ p).departing = none))
    ∧ (s.auxOk = true → s.pins.main = false → exec .auxInputLoss s = .next s.loseAux)
    ∧ (s.loseAux.pins.aux = false ∧ s.loseAux.pins.swClosed = false ∧ s.loseAux.pins.mateN = true ∧ s.loseAux.pwrx.mainRegs = false
        ∧ s.loseAux.pwrx.auxLost = true ∧ s.loseAux.pwrx.holdup = none ∧ s.loseAux.su.state = 1 ∧ s.loseAux.su.stage = 0 ∧ s.loseAux.hbm = {})
    ∧ (s.auxOk = false → exec .auxInputLoss s = .next s)
    ∧ (s.pins.main = true → s.pwrx.holdup = none →
        (∃ t, exec .mainInputLow s = .next t ∧ t.pins = { s.pins with main := false, mainHigh := false } ∧ t.pwrx.mainRegs = false
          ∧ t.pwr.errCode = 0x3030 ∧ t.hbm = {} ∧ (s.su.state ≠ 3 → 4 ≤ s.su.stage → t.su.stage = 4 ∧ t.su.state = 1))
        ∧ ∃ t, exec .mainInputHigh s = .next t ∧ t.pins = { s.pins with main := false, mainHigh := true } ∧ t.pwrx.mainRegs = false
          ∧ t.pwr.errCode = 0x3032 ∧ ParkCause.mainHigh ∈ t.pwr.parks ∧ t.hbm = {} ∧ (s.su.state ≠ 3 → 4 ≤ s.su.stage → t.su.stage = 4 ∧ t.su.state = 1))
    ∧ (s.pins.main = true → s.pwrx.holdup.isSome → let u := s.loseAux
        exec .mainInputLow s = .next { u with pins := { u.pins with main := false, mainHigh := false } }
        ∧ exec .mainInputHigh s = .next { u with pins := { u.pins with main := false, mainHigh := true } })
    ∧ (s.pins.main = false → exec .mainInputLow s = .next s ∧ exec .mainInputHigh s = .next s
        ∧ ∃ t, exec .mainInputReturn s = .next t ∧ t.pins = { s.pins with main := true, mainHigh := false } ∧ ParkCause.mainHigh ∉ t.pwr.parks
          ∧ (s.su.stage = 4 → s.su.state = 1 → t.su.state = 0 ∧ t.su.stage = 4) ∧ ChangesOnly [.pwr, .pins, .su] s t)
    ∧ (s.pins.main = true → exec .mainInputReturn s = .next s)
    ∧ (∀ f : Fin 4, let n := s.pwr.failed.get 0 f + 1
        (n ≤ 12 → ∃ t, exec (.regulatorPhaseFail (.vcore f)) s = .next t ∧ t.pwr.failed.get 0 f = n
          ∧ t.pwr.errCode = (if n = 3 then 0x3041 else if n = 5 then 0x3042 else 0x3040)
          ∧ (n = 5 → ParkCause.phases (f.val % 2) ∈ t.pwr.parks))
        ∧ (12 < n → exec (.regulatorPhaseFail (.vcore f)) s = .next s))
    ∧ (∀ rail k n, ((rail, k, n) = (Rail.vlink, 4, 6) ∨ (rail, k, n) = (Rail.vphy, 5, 4) ∨ (∃ i, (rail, k, n) = (Rail.vhbm i, 6 + i, 4))) →
        (s.pwr.failed.get 0 k < n → ∃ t, exec (.regulatorPhaseFail rail) s = .next t ∧ t.pwr.failed.get 0 k = s.pwr.failed.get 0 k + 1
          ∧ t.pwr.errCode = 0x3040 ∧ ChangesOnly [.pwr, .mg] s t)
        ∧ (n ≤ s.pwr.failed.get 0 k → exec (.regulatorPhaseFail rail) s = .next s))
    ∧ (∀ (b : Fin 16) h k p, let y := s.bay b
        (y.hints.find? fun h => h.raised.isNone && decide (y.st.next ≤ h.step)) = some h → (s.bayHalves b).head? = some k → y.program = some p →
        let w := if h.watts = 0 then p.powerW * opFactor (s.half k).op / 1000 else h.watts
        (s.hintFits b k w = true → ∃ t, exec (.hintVoltageRaise b) s = .next t ∧ { h with raised := some (s.hintMv k) } ∈ (t.bay b).hints
          ∧ (t.bay b).hints.length = y.hints.length ∧ ChangesOnly [.bays] s t)
        ∧ (s.hintFits b k w = false → exec (.hintVoltageRaise b) s = .next s))
    ∧ (∀ b : Fin 16, ((s.bay b).hints.find? (fun h => h.raised.isNone && decide ((s.bay b).st.next ≤ h.step))) = none ∨ (s.bayHalves b).head? = none
        ∨ (s.bay b).program = none → exec (.hintVoltageRaise b) s = .next s)
    ∧ (∀ m : EnergySample, s.pins.aux = true → (∀ a, s.pwrx.energyAt = some a → a + 10000 ≤ s.clk.elapsed) →
        ∃ t, exec (.energyUpdate m) s = .next t ∧ t.pwrx.energyAt = some s.clk.elapsed
          ∧ t.pwrx.energy = (m.sessions.filter fun p => (s.sess (p.1 % 256)).state == .free).foldl (fun e p => e + BitVec.ofNat 64 p.2) s.pwrx.energy
              + BitVec.ofNat 64 m.overhead
          ∧ (m.sessions = [] → (∀ b : Fin 16, (s.bay b).st.running = none) →
              ∀ b : Fin 16, (t.bay b).pwr.energy = (s.bay b).pwr.energy + BitVec.ofNat 64 (m.bays.getD b 0))
          ∧ (∀ i n, m.sessions = [(i, n)] → (s.sess (i % 256)).state ≠ .free → (∀ b : Fin 16, (s.bay b).st.running = none) →
              (t.sess (i % 256)).energy = (s.sess (i % 256)).energy + BitVec.ofNat 64 n)
          ∧ ChangesOnly [.bays, .sessions, .pwrx] s t)
    ∧ ((s.pins.aux = false ∨ ∃ a, s.pwrx.energyAt = some a ∧ s.clk.elapsed < a + 10000) → ∀ m, exec (.energyUpdate m) s = .next s)

/-- A router's decision and the packets that arrive (R221, R222, R232 to R236, R244, R245, R455). The winner of an output leaves its queue, and stands last
at the next router's input, marked at the dateline, or ejected at its destination; a broadcast leaves by all its branches at once and its copies are
written into the instruction memories. A winner with bad header parity or bad table parity, aged or of an invalid version is dropped and counted; one
whose interface has gone is withdrawn and counted. A received FLAG adds its addend, a TELEMETRY is kept, a REG request is done with Headland's rights and
answered; requests not yet sent are injected. A packet of an invalid version or a reserved kind is dropped and counted as stale. -/
def Obligations.NetworkPacketsTakeEffect : Prop :=
  ∀ (s : State),
    (∀ (c : Fin 800) (out : Fin 6) port vc (p : Packet), let n := (s.cove c).net
      let key := port * 4 + vc
      let won (s : State) : State := s.modCove c fun v => v.modNet fun n => { n with lastWin := n.lastWin.put out key }
      let took := ((won s).modCove c fun v => v.modNet fun n =>
        { n.setBuf port vc ((n.buf port vc).drop 1) with withdrawn := n.withdrawn.erase key }).enter c
      let mapUsed := decide (4 ≤ port) && p.dstLog.isSome && !p.redirected
      winner (n.lastWin.get 23 out) (n.heads.filter (s.eligible c out)) = some (port, vc, p) →
      (∀ b m, exec (.arbiterDecision c out ⟨true, b, m⟩) s = .next ((took.netCount c 2).coveError c 0x7021))
      ∧ (p.bcast = false → ∀ m, exec (.arbiterDecision c out ⟨false, true, m⟩) s = .next (took.hwError c 0x7023))
      ∧ (mapUsed = true → ∀ b, exec (.arbiterDecision c out ⟨false, b, true⟩) s = .next (took.hwError c 0x7023))
      ∧ ∀ b m, (b = false ∨ p.bcast = true) → (m = false ∨ mapUsed = false) →
        (s.aged p = true → exec (.arbiterDecision c out ⟨false, b, m⟩) s = .next ((took.netCount c 0).netCount c 5))
        ∧ (s.aged p = false → s.net.valid p.epoch = false → exec (.arbiterDecision c out ⟨false, b, m⟩) s = .next (took.netCount c 1))
        ∧ (s.aged p = false → s.net.valid p.epoch = true → s.portGone c port = true → ∃ t, exec (.arbiterDecision c out ⟨false, b, m⟩) s = .next t
            ∧ (t.cove c).net.buf port vc = n.buf port vc ∧ (t.cove c).net.withdrawn = n.withdrawn ++ [key]
            ∧ (t.cove c).net.ctr.get 0 5 = (bump n.ctr 5 1).get 0 5
            ∧ ChangesOnly [.coves] s t ∧ ∀ k, k ≠ c.val → t.cove k = s.cove k)
        ∧ (s.aged p = false → s.net.valid p.epoch = true → s.portGone c port = false →
            let spoil := n.injPar && !p.payload.isEmpty
            let q : Packet := { p with bad := p.bad || spoil }
            let s1 := took.modCove c fun v => v.modNet fun n => { n with injPar := n.injPar && !spoil }
            let s2 := if p.bad = true then s1.netCount c 2 else s1
            exec (.arbiterDecision c out ⟨false, b, m⟩) s =
              .next ((if p.bcast = true then s.branches c port p else [out.val]).foldl (fun t o => t.leave c o port q) s2)))
    ∧ (∀ (t : State) (c : Fin 800) (o : Fin 6) port (q : Packet), let d := ringNext c o
      let h := hopped c o port q
      let u := t.leave c o port q
      let n := (t.cove c).net.count (6 + o) (packetFlits q)
      (o.val < 4 → u.cove d = (t.cove d).modNet (fun n => n.setBuf (ringBack o) (packetVc h) (n.buf (ringBack o) (packetVc h) ++ [h]))
          ∧ (u.cove c).net = n ∧ ChangesOnly [.coves] t u ∧ ∀ k, k ≠ c.val → k ≠ d → u.cove k = t.cove k)
      ∧ (4 ≤ o.val → q.bcast = true → u = (t.modCove c fun v => v.modNet fun n => n.count (6 + o) (packetFlits q)).modCove c fun v =>
          if q.resv = true then v.modNet fun n => n.count 1 1
          else if q.last = true ∨ q.bad = true ∨ 16384 < q.addr.toNat + q.payload.length then v else v.writeImem q.addr.toNat q.payload)
      ∧ (4 ≤ o.val → q.bcast = false → ¬ (q.type = 8 ∧ q.response = true ∧ q.agent = true) →
          (u.cove c).net = { n with ejected := n.ejected ++ [(o.val, q)] } ∧ ChangesOnly [.coves] t u ∧ ∀ k, k ≠ c.val → u.cove k = t.cove k))
    ∧ (∀ (c : Fin 800) (out : Fin 6) h, winner ((s.cove c).net.lastWin.get 23 out) ((s.cove c).net.heads.filter (s.eligible c out)) = none →
        exec (.arbiterDecision c out h) s = .next s)
    ∧ (∀ p : Packet, let c := p.dstPhys.toNat
      let s0 := s.taken p
      (s.receives p = true → p.bad = false →
        (∀ b r, s.bayOf c = some b → (s.bay b).st.running = some r → r.no % 4 = p.step.toNat → r.attempt = p.attempt.toNat →
          exec (.flagPacket p) s = .next (s0.modCove c fun v => { v with net := { v.net with
            flags := v.net.flags.upd 0 ((p.handle.getD 0).toNat % 16) (· + p.addr.setWidth 32) } }))
        ∧ ((∀ b r, s.bayOf c = some b → (s.bay b).st.running = some r → ¬(r.no % 4 = p.step.toNat ∧ r.attempt = p.attempt.toNat)) →
            exec (.flagPacket p) s = .next (s0.netCount c 1))
        ∧ (s.atEjection p = true →
            exec (.telemetryPacket p) s = .next (s0.modCove p.srcPhys.toNat fun v => { v with telem := { v.telem with record := p.payload } }))
        ∧ (∀ w off value, p.response = true → exec (.regPacket p w off value) s = .next s0)
        ∧ (∀ off value, p.response = false → s.atEjection p = true → s.canAnswer c p.agent = true →
            exec (.regPacket p false off value) s = .next ((s0.readAt .headland (coveBase c + off.toNat / 4 * 4)).2.answerReg p
              (s0.readAt .headland (coveBase c + off.toNat / 4 * 4)).1)
            ∧ exec (.regPacket p true off value) s = .next
              (((s0.write .headland (coveBase c + off.toNat / 4 * 4) value).getD s0).answerReg p value)))
      ∧ (s.receives p = true → p.bad = true → exec (.flagPacket p) s = .next (s0.netCount c 1)
          ∧ (s.atEjection p = true → exec (.telemetryPacket p) s = .next (s0.netCount c 1))
          ∧ ∀ w off value, (p.response = true ∨ (s.atEjection p = true ∧ s.canAnswer c p.agent = true)) →
            exec (.regPacket p w off value) s = .next (s0.netCount c 1))
      ∧ (s.atEjection p = false →
          exec (.telemetryPacket p) s = .next (if p.type = 10 ∧ asSent p = true then s.inject p.srcPhys.toNat false dlSlow p else s)
          ∧ ∀ w off value, p.response = false →
            exec (.regPacket p w off value) s = .next (if p.type = 0xB ∧ asSent p = true then s.inject p.srcPhys.toNat p.srcAgent dlSlow p else s))
      ∧ (∀ w off value, p.response = false → s.atEjection p = true → s.canAnswer c p.agent = false → exec (.regPacket p w off value) s = .next s)
      ∧ (s.net.valid p.epoch = false ∨ asSent p = false ∨ p.resv = true →
          (∀ x ∈ ([.flagPacket p, .dmaDataPacket p, .dmaDonePacket p, .dmaRetryPacket p] : List Instr), exec x s = .next (s0.netCount c 1))
          ∧ (s.atEjection p = true → exec (.telemetryPacket p) s = .next (s0.netCount c 1))))
    ∧ ∀ (c : Fin 800) (p : Packet),
        (isBroadcast c p = true → s.broadcasting = false → exec (.broadcastPacket c p) s = .next (s.inject c true dlSlow p))
        ∧ ((isBroadcast c p = false ∨ s.broadcasting = true) → exec (.broadcastPacket c p) s = .next s)

/-- Table epochs and disabled links (R229, R235, R237). At its swap time an armed router's epoch changes and its ordered injection is held; it
goes on 2,250 units later, and tables that waited are then written and armed. A router that does not read back its arming moves the swap on
in every router. A disabled link is so at both ends, is logged, and new tables are armed, or wait while the old version may be in use. -/
def Obligations.TableEpochsTakeEffect : Prop :=
  ∀ (s : State), let now := s.netUnits
    (∀ a, (∃ c : Fin 800, (s.cove c).net.armAt = some a) → a ≤ now → ∃ t, exec .epochSwap s = .next t ∧ ChangesOnly [.coves, .net, .bays] s t
      ∧ (∀ c : Fin 800, let n := (s.cove c).net
        (∀ x, n.armAt = some x → x ≤ now → (t.cove c).net = { n with epoch := !n.epoch, armAt := none, holdTo := some (x + 2250) })
        ∧ ((n.armAt = none ∨ ∃ x, n.armAt = some x ∧ now < x) → t.cove c = s.cove c))
      ∧ (∃ x, t.net.oldUntil = some x ∧ a + 2250 ≤ x)
      ∧ (s.net.swap = some a → t.net.swap = none ∧ ∀ b g, g ∈ (t.bay b).hold ↔ g ∈ (s.bay b).hold ∧ (s.rot.moves.find g).isSome))
    ∧ ((∀ c : Fin 800, ∀ a, (s.cove c).net.armAt = some a → now < a) → s.coves.rows.all (fun r => decide (r.1 < 800)) = true →
        exec .epochSwap s = .next s)
    ∧ (s.net.swap = none → ∀ u, exec (.epochArmCheck u) s = .next s)
    ∧ (∀ a u, s.net.swap = some a → a ≤ now + 1000 → now < a →
        (u = [] → (∀ c : Fin 800, (s.cove c).net.armAt = some a) → exec (.epochArmCheck u) s = .next s)
        ∧ ((u ≠ [] ∨ ∃ c : Fin 800, (s.cove c).net.armAt ≠ some a) → ∃ t, exec (.epochArmCheck u) s = .next t ∧ ChangesOnly [.coves, .net] s t
          ∧ t.net.swap = some (now + 3072) ∧ t.net.wanted = none
          ∧ ∀ c : Fin 800, (t.cove c).net = { (s.cove c).net with armAt := some (now + 3072), swapReg := BitVec.ofNat 16 (now + 3072) }))
    ∧ (∀ a u, s.net.swap = some a → now + 1000 < a ∨ a ≤ now → exec (.epochArmCheck u) s = .next s)
    ∧ (∀ a, s.net.oldUntil = some a → a ≤ now → ∃ t, exec .epochOrderedResume s = .next t ∧ ChangesOnly [.net, .coves] s t
        ∧ (s.net.wanted = none → t.net.oldUntil = none ∧ ∀ c : Fin 800, (s.cove c).net.inj = [] →
            (t.cove c).net = { (s.cove c).net with holdTo := (s.cove c).net.holdTo.filter fun x => decide (now < x) })
        ∧ (∀ w, s.net.wanted = some w → t.net.wanted = none ∧ t.net.swap = some (now + w.2)))
    ∧ (s.net.oldUntil = none → (∀ c : Fin 800, ∀ a, (s.cove c).net.holdTo = some a → now < a) →
        s.coves.rows.all (fun r => decide (r.1 < 800)) = true → exec .epochOrderedResume s = .next s)
    ∧ ∀ (c : Fin 800) (out : Fin 6), ∃ t, exec (.linkDisable c out) s = .next t ∧ t = ((s.disableLink c out).logCove 0x1042 c).beginSwap ∧ (t.cove c).net.linkDis.getLsbD out = true
        ∧ (out.val < 4 → (t.cove (ringNext c out)).net.linkDis.getLsbD (ringBack out) = true)
        ∧ (s.net.oldUntil = none → t.net.swap = some (now + 3072) ∧ t.net.valid t.spareVersion = true ∧ t.net.wanted = none
            ∧ ∀ d : Fin 800, (t.cove d).net.armAt = some (now + 3072))
        ∧ (s.net.oldUntil.isSome = true → t.net.swap = s.net.swap ∧ t.net.wanted.isSome = true)
        ∧ ∀ d : Fin 800, (t.cove d).net.epoch = (s.cove d).net.epoch

/-- DMA transfers (R238 to R242). The oldest queued transfer starts with a free tag and the tag's next generation: a flag of its own cove is raised at
once, a remote one is sent, a COPY from the scratchpad queues its read at the arbiters, any other sends its READs; it waits while eight run or its own
handle's write must. A WRITE that passes the handle's checks lands and is counted by its tracker, with none free it is answered RETRY, with bad
parity its count is discarded and 0x7022 answered, with a fault its code; a READ is answered with the handle's bytes, or its fault;
DATA lands at the reader and the last one completes the transfer, bad DATA fails it or stops the bay where its source is poisoned; DONE completes it, or
keeps its code for the core; RETRY sends the refused packet again 2 µs later. A done transfer at the head retires and its tag rests 64 µs; a silent one
ends with 0x7020. -/
def Obligations.DmaTransfersTakeEffect : Prop :=
  ∀ (s : State),
    (∀ (c : Fin 800) d tag, let v := s.cove c
      let x := dmaDesc d.desc
      let e := v.sp.handle x.dst.handle
      let gen := v.net.tagGen.get 0 tag + 1
      let d1 : Dma := { d with started := true, tag := tag, gen := gen, sentAt := s.cnCycles, total := x.packets }
      let begun (f : Net → Net) (g : Scratchpad → Scratchpad) : State := s.modCove c fun v => { v with
        sp := g v.sp
        net := f { v.net with
          lastTag := tag, tagGen := v.net.tagGen.set 0 tag gen
          dma := v.net.dma.map fun y => if y.seq == d.seq then { d1 with done := x.op == 2 } else y } }
      (v.net.dma.find? fun d => !d.started && !d.done) = some d → v.net.nextTag = some tag → (v.net.dma.filter Dma.started).length < 8 →
      (x.op = 2 → x.dst.kind = 0 → exec (.dmaTransferStart c) s = .next
          (begun (fun n => { n with flags := n.flags.upd 0 x.dst.handle (· + BitVec.ofNat 32 x.addend) }) id))
      ∧ (x.op = 2 → x.dst.kind = 1 → exec (.dmaTransferStart c) s = .next ((begun id id).sendDma c d1 x.dst
          { dmaHeader (begun id id) c d1 7 0 x.dst with ordered := false, addr := BitVec.ofNat 48 x.addend }))
      ∧ (x.op = 1 → (x.dst.kind = 0 → (s.stepsAt c).1.judge e d.step ≠ .stall) →
        (x.src.kind = 0 → exec (.dmaTransferStart c) s = .next
          (begun id fun p => p.dmaRows x.src.handle x.src.off x.length false (s.cycles c) d.step (some d.seq)))
        ∧ (x.src.kind ≠ 0 → exec (.dmaTransferStart c) s = .next
          ((List.range x.packets).foldl (fun t i => t.sendDma c d1 x.src (dmaRead (begun id id) c d1 i)) (begun id id))))
      ∧ (x.op = 1 → x.dst.kind = 0 → (s.stepsAt c).1.judge e d.step = .stall → exec (.dmaTransferStart c) s = .next s))
    ∧ (∀ c : Fin 800, ((s.cove c).net.dma.find? fun d => !d.started && !d.done) = none ∨ (s.cove c).net.nextTag = none
        ∨ 8 ≤ ((s.cove c).net.dma.filter Dma.started).length → exec (.dmaTransferStart c) s = .next s)
    ∧ (∀ p : Packet, let i := ifaceOf p
      let s0 := s.taken p
      let l := s0.trackers i
      let lost : Tracker := { key := packetKey p, failed := true, lastAt := s.cnCycles }
      let tell (done : Bool) (t : State) : State := if done = true then t.answer p 5 0 else t
      s.receives p = true → s.canAnswer p.dstPhys.toNat p.agent = true → landWrite s p ≠ .waits →
      ((∀ t ∈ l, t.key ≠ packetKey p) → let r := Tracker.arrive { key := packetKey p } p s.cnCycles
        (trackerLimit i ≤ l.length → exec (.dmaWritePacket p) s = .next (s0.answer p 6 0))
        ∧ (l.length < trackerLimit i → p.bad = true → exec (.dmaWritePacket p) s = .next ((s0.setTrackers i (l ++ [lost])).answer p 5 0x7022))
        ∧ (l.length < trackerLimit i → p.bad = false →
          (∀ t, landWrite s0 p = .landed t → exec (.dmaWritePacket p) s = .next (tell r.2 (t.setTrackers i (l ++ [r.1]))))
          ∧ (∀ code t, landWrite s0 p = .refused code t → exec (.dmaWritePacket p) s = .next ((t.setTrackers i (l ++ [lost])).answer p 5 code.toNat))
          ∧ (∀ t, landWrite s0 p = .stopped t → exec (.dmaWritePacket p) s = .next t)))
      ∧ (∀ x, (l.find? fun t => t.key == packetKey p) = some x → let r := x.arrive p s.cnCycles
        let put (t : State) (y : Tracker) : State := t.setTrackers i (l.map fun z => if z.key == packetKey p then y else z)
        (x.failed = true → exec (.dmaWritePacket p) s = .next (put s0 { x with lastAt := s.cnCycles }))
        ∧ (x.failed = false → p.bad = true →
            exec (.dmaWritePacket p) s = .next ((put s0 { x with failed := true, lastAt := s.cnCycles }).answer p 5 0x7022))
        ∧ (x.failed = false → p.bad = false →
          (∀ t, landWrite s0 p = .landed t → exec (.dmaWritePacket p) s = .next (tell r.2 (put t r.1)))
          ∧ (∀ code t, landWrite s0 p = .refused code t →
              exec (.dmaWritePacket p) s = .next ((put t { x with failed := true, lastAt := s.cnCycles }).answer p 5 code.toNat))
          ∧ (∀ t, landWrite s0 p = .stopped t → exec (.dmaWritePacket p) s = .next t))))
    ∧ (∀ p : Packet, (s.canAnswer p.dstPhys.toNat p.agent = false ∨ landWrite s p = .waits) → s.packetDropped p = false → s.aged p = false →
        exec (.dmaWritePacket p) s = .next s)
    ∧ (∀ (p : Packet) (c : Fin 800), let v := s.cove c
      let h := (p.handle.getD 0).toNat
      let e := v.sp.handle h
      let n := (s.packetStep p).map StepRec.no |>.getD 0
      let s0 := s.taken p
      s.receives p = true → s.canAnswer p.dstPhys.toNat p.agent = true → p.dstPhys.toNat = c.val → p.agent = false →
      (p.bad = false → (∀ t ∈ v.net.trackers, t.key ≠ packetKey p) → v.net.trackers.length < 64 →
        e.check p.addr.toNat p.payload.length none (some ((s.bay p.bay.toNat).st, n)) = (0, .ok) → (s.bay p.bay.toNat).st.isDrain n = false →
        ∃ t k, exec (.dmaWritePacket p) s = .next t
          ∧ (t.cove c).sp = (v.sp.handleWrite e p.addr.toNat p.payload).dmaRows h p.addr.toNat p.payload.length true (s.cycles c) n
          ∧ (t.cove c).net.trackers = v.net.trackers ++ [k] ∧ k.key = packetKey p ∧ k.seen = 1 ∧ k.failed = false ∧ k.lastAt = s.cnCycles
          ∧ ChangesOnly [.coves] s t ∧ ∀ d, d ≠ c.val → t.cove d = s.cove d)
      ∧ (∀ ecc, let code := (e.check p.addr.toNat p.count.toNat none none).1
          let rows := v.sp.failingRows e p.addr.toNat p.count.toNat
          (code = 0 → exec (.dmaReadPacket p ecc) s = .next (((s0.modCove c fun u =>
            { u with sp := (u.sp.dmaRows h p.addr.toNat p.count.toNat false (s.cycles c) (if p.stepped then n else 0)) }).rowsParity c rows).answerData p
              (v.sp.handleBytes e p.addr.toNat p.count.toNat) (!rows.isEmpty)))
          ∧ (code ≠ 0 → exec (.dmaReadPacket p ecc) s =
              .next ((s0.modCove c fun u => { u with sp := u.sp.noteFault code h 0 2 }).answer p 5 code.toNat))))
    ∧ (∀ (p : Packet) (k : Fin 8) ecc, let b := p.bay.toNat
      let a := p.addr.toNat
      let s0 := s.taken p
      let w : View := if p.stepped then (s.packetStep p).map fun r => (b, r.no) else none
      let s1 := (s0.readBay b w p.deadline a p.count.toNat).eccFindings b k w a ecc
      s.receives p = true → s.canAnswer p.dstPhys.toNat p.agent = true → ifaceOf p = .stack k → s.stackRests k = false → (s.stack k).disabled = false →
      let code := hbmFault s0 b k a p.count.toNat false
      let s2 := if recodes ecc = true then s1.bayHw b ((s0.packetStep p).map StepRec.no |>.getD 0) 0x8030 else s1
      (code = 0 → exec (.dmaReadPacket p ecc) s = .next (s2.answerData p (s1.bayBytes b w a p.count.toNat) (s1.bayPoison b w a p.count.toNat)))
      ∧ (code ≠ 0 → exec (.dmaReadPacket p ecc) s = .next ((s0.noteAt k code b a).answer p 5 code.toNat)))
    ∧ (∀ (p : Packet) ecc, let b := p.bay.toNat
      let s0 := s.taken p
      s.receives p = true → s.canAnswer p.dstPhys.toNat p.agent = true → ifaceOf p = .jetty →
      ((s0.bay b).run = none → exec (.dmaReadPacket p ecc) s = .next (s0.answer p 5 0x7011))
      ∧ ∀ w, (s0.bay b).run = some w → let a := w.inAddr + p.addr.toNat
        let s1 := (List.range 8).foldl (fun (t : State) k => t.eccFindings b k none a ecc) (s0.readBay b none p.deadline a p.count.toNat)
        let s2 := if recodes ecc = true then s1.bayHw b ((s0.packetStep p).map StepRec.no |>.getD 0) 0x8030 else s1
        (w.inLen < p.addr.toNat + p.count.toNat → exec (.dmaReadPacket p ecc) s = .next (s0.answer p 5 0x8010))
        ∧ (p.addr.toNat + p.count.toNat ≤ w.inLen → exec (.dmaReadPacket p ecc) s = .next
            (s2.answerData p (s2.bayBytes b none a p.count.toNat) (s2.bayPoison b none a p.count.toNat))))
    ∧ (∀ p ecc, (s.canAnswer p.dstPhys.toNat p.agent = false ∨ ∃ k, ifaceOf p = .stack k ∧ (s.stackRests k = true ∨ (s.stack k).disabled = true)) →
        exec (.dmaReadPacket p ecc) s = .next s)
    ∧ (∀ (p : Packet) d, let c := p.dstPhys.toNat
      let s0 := s.taken p
      let x := dmaDesc d.desc
      let i := (p.addr.toNat - x.dst.off) / 256
      let src := (s.cove c).sp.handle x.src.handle
      let f := x.src.off + 256 * i
      let modTransfer (f : Dma → Dma) : State := s0.modCove c fun v => { v with net := v.net.modTransfer d.tag f }
      let later (q : List Packet) : State := modTransfer fun y => { y with retry := y.retry ++ q.map fun q => (s.cnCycles + 1800, q) }
      s.receives p = true → s.transferOf p = some d →
      (p.bad = true →
        (s0.dataPoison p.bay.toNat d x p = true → exec (.dmaDataPacket p) s = .next ((modTransfer fun x => { x with done := true }).stopBay p.bay.toNat 0x8020))
        ∧ (s0.dataPoison p.bay.toNat d x p = false → exec (.dmaDataPacket p) s = .next (s0.transferFails c d 0x7022)))
      ∧ (p.bad = false →
        let j := (p.addr.toNat - x.src.off) / 256
        let got := if d.got.contains j then d.got else d.got ++ [j]
        let q := dmaWrite s0 c d j (decide (got.length = d.total)) false p.payload
        (x.dst.kind = 0 → exec (.dmaDataPacket p) s = .next
          ((modTransfer fun y => { y with got := got, done := decide (got.length = d.total) }).modCove c fun v =>
            { v with sp := ((v.sp.handleWrite ((s.cove c).sp.handle x.dst.handle) (x.dst.off + 256 * j) p.payload).dmaRows x.dst.handle
                (x.dst.off + 256 * j) p.payload.length true (s.cycles c) d.step) }))
        ∧ (x.dst.kind ≠ 0 → exec (.dmaDataPacket p) s = .next
            ((modTransfer fun y => { y with got := got, done := false, sent := y.sent ++ [q] }).sendDma c d x.dst q)))
      ∧ ((p.addr.setWidth 16 : Code) = 0 → exec (.dmaDonePacket p) s = .next (modTransfer fun x => { x with done := true }))
      ∧ ((p.addr.setWidth 16 : Code) = 0x7022 → exec (.dmaDonePacket p) s = .next (s0.transferFails c d 0x7022))
      ∧ ((p.addr.setWidth 16 : Code) ≠ 0 → (p.addr.setWidth 16 : Code) ≠ 0x7022 → exec (.dmaDonePacket p) s = .next (s0.modCove c fun v =>
          { v with net := { (v.net.modTransfer d.tag fun x => { x with done := true }) with
            errCode := p.addr.setWidth 16, errCore := BitVec.ofNat 4 d.core, faults := v.net.faults.put d.core (p.addr.setWidth 16) } }))
      ∧ (x.src.kind = 0 → let rows := (s.cove c).sp.failingRows src f (x.size i)
          exec (.dmaRetryPacket p) s = .next ((s0.rowsParity c rows).modCove c fun v => { v with net := v.net.modTransfer d.tag fun y => { y with
            retry := y.retry ++ [(s.cnCycles + 1800, dmaWrite s0 c d i (i + 1 == x.packets) (!rows.isEmpty)
              ((s.cove c).sp.handleBytes src f (x.size i)))] } }))
      ∧ (x.src.kind ≠ 0 → exec (.dmaRetryPacket p) s = .next (later ((d.sent.filter fun q => q.addr == p.addr).take 1))))
    ∧ (∀ p : Packet, s.receives p = true → s.transferOf p = none → ∀ x ∈ ([.dmaDataPacket p, .dmaDonePacket p, .dmaRetryPacket p] : List Instr),
        exec x s = .next ((s.taken p).netCount p.dstPhys.toNat 1))
    ∧ (∀ (c : Fin 800) (tag : Fin 4096), let n := (s.cove c).net
      (∀ d, (n.dma.find? fun d => d.started && !d.done && d.tag == tag.val) = some d →
        let due := d.retry.filter fun r => decide (r.1 ≤ s.cnCycles)
        (due ≠ [] → exec (.dmaRetryResend c tag) s = .next (due.foldl (fun t r => t.sendDma c d (dmaDesc d.desc).dst r.2)
          (s.modCove c fun v => { v with net := v.net.modTransfer tag fun y => { y with retry := y.retry.filter fun r => decide (s.cnCycles < r.1) } })))
        ∧ (due = [] → exec (.dmaRetryResend c tag) s = .next s)
        ∧ (d.sentAt + 79200 ≤ s.cnCycles → d.retry = [] → ((dmaDesc d.desc).src.kind ≠ 0 ∨ (dmaDesc d.desc).packets ≤ d.cut) →
            (∀ w ∈ n.inj, d.sends w.p = false) → exec (.dmaTimeout c tag) s =
            .next ((s.transferFails c d 0x7020).modCove c fun v => { v with net := v.net.count 4 1 }))
        ∧ ((s.cnCycles < d.sentAt + 79200 ∨ d.retry ≠ [] ∨ ((dmaDesc d.desc).src.kind = 0 ∧ d.cut < (dmaDesc d.desc).packets)
            ∨ ∃ w ∈ n.inj, d.sends w.p = true) → exec (.dmaTimeout c tag) s = .next s))
      ∧ ((n.dma.find? fun d => d.started && !d.done && d.tag == tag.val) = none →
          exec (.dmaRetryResend c tag) s = .next s ∧ exec (.dmaTimeout c tag) s = .next s)
      ∧ (∀ a, n.tagQuar.find tag = some a → a + 57600 ≤ s.cnCycles → exec (.dmaTagQuarantineEnd c tag) s = .next (s.modCove c fun v =>
          { v with net := { v.net with tagQuar := v.net.tagQuar.erase tag } }))
      ∧ ((n.tagQuar.find tag = none ∨ ∃ a, n.tagQuar.find tag = some a ∧ s.cnCycles < a + 57600) → exec (.dmaTagQuarantineEnd c tag) s = .next s)
      ∧ (∀ d rest, n.dma = d :: rest → d.done = true → ∃ t, exec (.dmaRetire c) s = .next t ∧ (t.cove c).net.dma = rest
          ∧ (t.cove c).net.dmaDone = d.seq ∧ (d.started = true → (t.cove c).net.tagQuar.find d.tag = some s.cnCycles)
          ∧ ChangesOnly [.coves] s t ∧ ∀ k, k ≠ c.val → t.cove k = s.cove k))
    ∧ ∀ (i : Iface) (key : TransferKey), let l := s.trackers i
      ((∃ t ∈ l, t.key = key ∧ t.lastAt + 79200 ≤ s.cnCycles) → exec (.dmaTrackerFree i key) s = .next (s.setTrackers i (l.filter fun t => t.key != key)))
      ∧ ((∀ t ∈ l, t.key ≠ key ∨ s.cnCycles < t.lastAt + 79200) → exec (.dmaTrackerFree i key) s = .next s)

/-- Stream ports and the HBM controllers (R256, R258, R262, R263, R265, R267). A read word due goes from the buffer to the outward input of the
port's switch, or is late with 0x602C, or stops the bay where it is poisoned; a write word leaves the buffer for HBM, waits for its store, or fails
with 0x8031 where its parity does; a descriptor whose last word has moved leaves the FIFO. A chunk's copy puts its 256 bytes into the shadow, and the
writes that waited on it; a committed, wholly copied shadow replaces its granule in the map. A soft repair releases the temporary entry and uses
the bank's resource, or makes the entry permanent where none is left. Refresh changes no data; the patrol moves one codeword on, at its pace of 12 hours a stack,
and takes what it finds as any read does. A stack at rest or disabled does none of it. -/
def Obligations.HbmEventsTakeEffect : Prop :=
  ∀ (s : State),
    (∀ (c : Fin 800) l b n att, let st := (portStack l).getD 0
      let p := s.stream l
      s.logOf c = some l → s.attemptAt c = some (b, n, att) → portStack l = some st → (s.stack st).disabled = false → s.stackRests st = false →
      (p.current false (some n) = none → ∀ late bad ecc, exec (.streamWordDue c false late bad ecc) s = .next s)
      ∧ (∀ x, p.current false (some n) = some x →
        let due := (s.cove c).tide.stepCyc + x.cycle + x.done * x.stride
        let dir := if l / 36 = 0 then 0 else 2
        let moved : StreamPort := { p.moved x with rdBuf := p.rdBuf.filter fun r => !(r.id == x.id && r.word == x.done) }
        let here := p.rdBuf.find? fun r => r.id == x.id && r.word == x.done
        let at_ := x.addr + 64 * x.done
        (∀ r bad, here = some r → r.poison = false → due = s.cycles c →
          ∃ t, exec (.streamWordDue c false false bad []) s = .next t ∧ t.stream l = moved ∧ ChangesOnly [.coves, .streams] s t
            ∧ (t.cove c).tide.inputs.get [] (4 + dir) = (s.cove c).tide.inputs.get [] (4 + dir) ++ [({ data := r.data }, due)])
        ∧ (∀ r bad ecc, here = some r → due = s.cycles c → let s2 := (s.modStream l fun _ => moved).eccFindings b st (some (b, x.step)) at_ ecc
          ((r.poison = true ∨ (ecc.any fun f => f.2 == .failed) = true) → exec (.streamWordDue c false false bad ecc) s = .next (s2.stopBay b 0x8020))
          ∧ (r.poison = false → (ecc.any fun f => f.2 == .failed) = false → recodes ecc = true →
              exec (.streamWordDue c false false bad ecc) s = .next (s2.streamHw c b at_ 0x8030))
          ∧ (r.poison = false → (ecc.any fun f => f.2 == .failed) = false → recodes ecc = false →
              exec (.streamWordDue c false false bad ecc) s = .next (s2.modCove c fun u => u.modTide fun t =>
                { t with inputs := t.inputs.set [] (4 + dir) (t.inputs.get [] (4 + dir) ++ [({ data := r.data }, due)]) })))
        ∧ (∀ r late bad ecc, (here = none ∧ due ≤ s.cycles c) ∨ (here = some r ∧ (due < s.cycles c ∨ (late = true ∧ due = s.cycles c))) →
          exec (.streamWordDue c false late bad ecc) s = .next
            ((s.modStream l fun _ => { moved with late := satAdd32 moved.late 1 }).tideFault c 0x602C 1 (BitVec.ofNat 5 dir)))
        ∧ (s.cycles c < due → ∀ late bad ecc, exec (.streamWordDue c false late bad ecc) s = .next s))
      ∧ (∀ w rest, p.wrBuf = w :: rest → let taken (t : State) : State := t.modStream l fun p => { p with wrBuf := rest }
          (∀ t0 late ecc, w.ok = true → s.stepWriteAt b w.step w.addr w.deadline (bytesOfRow w.data) = .landed t0 →
            exec (.streamWordDue c true late false ecc) s = .next (taken t0))
          ∧ (∀ late ecc, w.ok = true → s.stepWriteAt b w.step w.addr w.deadline (bytesOfRow w.data) = .stalled →
            exec (.streamWordDue c true late false ecc) s = .next s)
          ∧ (∀ late ecc, w.ok = true → s.stepWriteAt b w.step w.addr w.deadline (bytesOfRow w.data) = .stopped →
            exec (.streamWordDue c true late false ecc) s = .next ((s.noteAt st 0x8013 b w.addr).stopBay b 0x8013))
          ∧ (∀ late bad ecc, (bad = true ∨ w.ok = false) → exec (.streamWordDue c true late bad ecc) s = .next ((taken s).streamHw c b w.addr 0x8031)))
      ∧ (p.wrBuf = [] → ∀ late bad ecc, exec (.streamWordDue c true late bad ecc) s = .next s))
    ∧ (∀ (c : Fin 800) w late bad ecc, (s.logOf c = none ∨ s.attemptAt c = none ∨ (∃ l, s.logOf c = some l ∧ (portStack l = none
        ∨ ∃ st, portStack l = some st ∧ ((s.stack st).disabled = true ∨ s.stackRests st = true)))) → exec (.streamWordDue c w late bad ecc) s = .next s)
    ∧ (∀ (st : Fin 8) g (n : BitVec 48) (ch : Fin 256), let k := s.stack st
      let e := k.shadows.find? fun h => h.granule == g && h.step == n.toNat && !h.fresh.contains ch.val && !h.copied.contains ch.val
      (∀ h ecc, e = some h → k.disabled = false → s.stackRests st = false → exec (.shadowChunkCopy st g n ch ecc) s = .next (s.copyChunk st h ch ecc))
      ∧ (∀ h, e = some h → h.waiting = [] → k.disabled = false → s.stackRests st = false →
        let src := (k.before h).resolve (some (h.bay, h.step)) g ch
        ∃ t, exec (.shadowChunkCopy st g n ch []) s = .next t ∧ ChangesOnly [.hbm, .ctrls, .su, .mg] s t
          ∧ (∀ i, i < 256 → memByte t.hbm (hbmKey st h.phys (ch.val * 256 + i)) = memByte s.hbm (hbmKey st src (ch.val * 256 + i)))
          ∧ (∀ a, (a < hbmKey st h.phys (ch.val * 256) ∨ hbmKey st h.phys (ch.val * 256) + 256 ≤ a) → memByte t.hbm a = memByte s.hbm a)
          ∧ ∀ x ∈ (t.stack st).shadows, x.phys = h.phys → x.copied.contains ch.val = true)
      ∧ ((e = none ∨ k.disabled = true ∨ s.stackRests st = true) → ∀ f, exec (.shadowChunkCopy st g n ch f) s = .next s))
    ∧ (∀ (st : Fin 8), let k := s.stack st
      let e := k.shadows.find? fun h => h.committed && h.whole
        && ((k.shadows.filter Shadow.committed).find? fun x => x.granule == h.granule) == some h
      (∀ h, e = some h → ∃ t, exec (.granuleMapWrite st) s = .next t ∧ (t.stack st).phys h.granule = h.phys
          ∧ (t.stack st).shadows = k.shadows.erase h
          ∧ (t.stack st).poolFreed = k.poolFreed ++ [k.phys h.granule] ∧ t.hbm = s.hbm ∧ ChangesOnly [.ctrls] s t
          ∧ ∀ g, g ≠ h.granule → (t.stack st).phys g = k.phys g)
      ∧ (e = none → exec (.granuleMapWrite st) s = .next s))
    ∧ (∀ (st : Fin 8) (pc : Fin 32) (bank : Fin 48) (row : Fin 16384), let k := s.stack st
      let e := k.talus.find? fun t => t.temporary && t.pc == pc.val && t.bank == bank.val && t.row == row.val
      (∀ t, e = some t → k.softUsed.contains (pc.val, bank.val) = false → s.bankPlanned st pc bank = false → ∃ u, exec (.softPpr st pc bank row) s = .next u
        ∧ (u.stack st).talus = k.talus.erase t ∧ (u.stack st).softUsed = k.softUsed ++ [(pc.val, bank.val)] ∧ ChangesOnly [.ctrls, .su] s u)
      ∧ ((e = none ∨ (k.softUsed.contains (pc.val, bank.val) = false ∧ s.bankPlanned st pc bank = true)) → exec (.softPpr st pc bank row) s = .next s)
      ∧ (∀ t, e = some t → k.softUsed.contains (pc.val, bank.val) = true → ∃ u, exec (.softPpr st pc bank row) s = .next u
        ∧ (u.stack st).talus = k.talus.map (fun x => if x = t then { t with temporary := false } else x) ∧ ChangesOnly [.ctrls, .su] s u)
      ∧ (k.disabled = false → s.stackRests st = false → k.refreshed.get 0 (pc.val * 48 + bank.val) + Config.refreshNs k.temp ≤ s.clk.elapsed →
          ∃ u, exec (.refresh st pc bank) s = .next u ∧ u.hbm = s.hbm ∧ ChangesOnly [.ctrls] s u
          ∧ (u.stack st).refreshed.find (pc.val * 48 + bank.val) = some s.clk.elapsed ∧ (u.stack st).openRow.find (pc.val * 48 + bank.val) = none)
      ∧ ((k.disabled = true ∨ s.stackRests st = true
          ∨ s.clk.elapsed < k.refreshed.get 0 (pc.val * 48 + bank.val) + Config.refreshNs k.temp) → exec (.refresh st pc bank) s = .next s)
      ∧ (let w := k.scrubAt
          let r := rowOf (w / 2048) (w % 2048 * 32)
          let s1 := s.modStack st fun k => { k.ask (w / 2048) (w % 2048 * 32) (s.netNow + 16383) none with
            scrubAt := (w + 1) % 805306368, scrubFrom := if w + 1 = 805306368 then k.scrubFrom + 43200000000000 else k.scrubFrom
            flipped := k.flipped.filter fun x => x != w }
          let due := k.scrubFrom + w * 43200000000000 / 805306368
          (k.scrubEn = true → k.trained = true → k.disabled = false → s.stackRests st = false → due ≤ s.clk.elapsed →
            exec (.patrolScrub st none) s = .next (if k.flipped.contains w then s1.correctable st r.1 r.2.1 r.2.2 else s1)
            ∧ exec (.patrolScrub st (some false)) s = .next (s1.correctable st r.1 r.2.1 r.2.2)
            ∧ exec (.patrolScrub st (some true)) s = .next (s1.uncorrectable st (w / 2048) (w % 2048 * 32)))
          ∧ ((k.scrubEn = false ∨ k.trained = false ∨ k.disabled = true ∨ s.stackRests st = true ∨ s.clk.elapsed < due) →
              ∀ f, exec (.patrolScrub st f) s = .next s)))

/-- Links of the Ethernet ports (R274 to R279, R297 to R301). An attempt whose lanes all pass brings the link up at its width; one that fails goes
on to the next, and the third leaves the port down; it waits for the port's PLL. A port down trains again after 10 s; alignment loss takes the link down and
trains at once; a degraded link is counted and, once in 10 minutes, announces its departure; a departure drops the link at its time. Only the owner retrains or
disables a port. A session's heartbeat goes out every 8 µs, a departure notice in its place while one is announced, and none while the port is down;
SEQ advances all the same. -/
def Obligations.EthernetLinksTakeEffect : Prop :=
  ∀ (s : State) (p : Fin 2),
    let x := s.port p
    let q := s.portQ p
    (∀ lanes : BitVec 4, x.training = true → s.linksOn = true → (s.pll (14 + p)).state = .stable →
        let timely : Bool := decide (x.attAt + 100000000 ≤ s.clk.elapsed) && decide (s.clk.elapsed ≤ x.attAt + 2500000000)
        let ok : Bool := (attemptLanes x.attempt).all fun l => (if timely then lanes else 0).getLsbD l
        (ok = true → ∃ t, exec (.portTrainAttempt p lanes) s = .next t ∧ (t.port p).width = BitVec.ofNat 3 (4 - x.attempt)
          ∧ (t.port p).training = false ∧ (t.port p).reduced = (x.attempt != 1) ∧ (x.attempt ≠ 1 → (t.port p).lastEvt = 0x9002)
          ∧ (t.portQ p).ptp.state = 1 ∧ ChangesOnly [.ports, .portq, .mg] s t)
        ∧ (ok = false → x.attempt < 3 → ∃ t, exec (.portTrainAttempt p lanes) s = .next t ∧ (t.port p).attempt = x.attempt + 1
          ∧ (t.port p).training = true ∧ (t.port p).attAt = s.clk.elapsed ∧ ChangesOnly [.ports] s t)
        ∧ (ok = false → 3 ≤ x.attempt → ∃ t, exec (.portTrainAttempt p lanes) s = .next t ∧ (t.port p).training = false
          ∧ (t.port p).width = x.width ∧ (t.port p).lastEvt = 0x9001 ∧ ChangesOnly [.ports, .mg] s t))
    ∧ ((x.training = false ∨ s.linksOn = false ∨ (s.pll (14 + p)).state ≠ .stable) → ∀ l, exec (.portTrainAttempt p l) s = .next s)
    ∧ (x.up = false → x.training = false → x.enabled = true → x.disabled = false → s.linksOn = true → x.trainAt + 10000000000 ≤ s.clk.elapsed →
        ∃ t, exec (.portRetryTimer p) s = .next t ∧ (t.port p).training = true ∧ (t.port p).attempt = 1 ∧ (t.port p).trainAt = s.clk.elapsed
          ∧ ChangesOnly [.ports] s t)
    ∧ ((x.up = true ∨ x.training = true ∨ x.enabled = false ∨ x.disabled = true ∨ s.linksOn = false ∨ s.clk.elapsed < x.trainAt + 10000000000) →
        exec (.portRetryTimer p) s = .next s)
    ∧ (x.up = true → exec (.pcsAlignmentLoss p) s = .next ((s.linkLost p).portEvent p 0x9003))
    ∧ (x.up = true → x.disabled = false → s.jetty.resetting = false → ∃ t, exec (.pcsAlignmentLoss p) s = .next t ∧ (t.port p).width = 0 ∧ (t.port p).training = true
        ∧ (t.port p).lastEvt = 0x9003 ∧ (t.portQ p).departing = none)
    ∧ (x.up = false → exec (.pcsAlignmentLoss p) s = .next s ∧ exec (.fecDegradation p) s = .next s)
    ∧ (x.up = true → (∀ a, x.lastRetrain = some a → a + 600000000000 ≤ s.clk.elapsed) → ∃ t d, exec (.fecDegradation p) s = .next t
        ∧ (t.portQ p).departing = some d ∧ d.reason = 0x9031 ∧ d.retrain = true ∧ (t.port p).lastRetrain = some s.clk.elapsed
        ∧ (t.port p).lastEvt = 0x9031)
    ∧ (∀ a, x.up = true → x.lastRetrain = some a → s.clk.elapsed < a + 600000000000 →
        exec (.fecDegradation p) s = .next ((s.spend 1).ethCount p 4 (17 + s.freeNat)))
    ∧ (∀ d, q.departing = some d →
        (d.downAt ≤ s.mt.ns → s.jetty.resetting = false → ∃ t, exec (.linkDownAt p) s = .next t ∧ (t.port p).width = 0
          ∧ (t.portQ p).departing = none ∧ (t.port p).training = (d.retrain && !x.disabled && s.linksOn))
        ∧ (d.downAt ≤ s.mt.ns → s.jetty.resetting = true → exec (.linkDownAt p) s = .next (s.linkDown p).resetIfDown)
        ∧ (s.mt.ns < d.downAt → exec (.linkDownAt p) s = .next s))
    ∧ (q.departing = none → exec (.linkDownAt p) s = .next s)
    ∧ (∀ who, s.isOwner who = true →
        (x.up = false → x.training = false → x.disabled = false → s.linksOn = true → ∃ t, exec (.ethRetrain who p) s = .next t
          ∧ (t.port p).training = true ∧ (t.port p).attempt = 1 ∧ ChangesOnly [.ports] s t)
        ∧ (x.up = false → (x.training = true ∨ x.disabled = true ∨ s.linksOn = false) → exec (.ethRetrain who p) s = .next s)
        ∧ (x.up = true → ∃ t d, exec (.ethRetrain who p) s = .next t ∧ (t.portQ p).departing = some d ∧ d.reason = 0x9031 ∧ d.retrain = true)
        ∧ (x.up = true → ∃ t d, exec (.ethDisable who p true) s = .next t ∧ (t.port p).disabled = true ∧ (t.portQ p).departing = some d
            ∧ d.reason = 0x9032 ∧ d.retrain = false)
        ∧ (x.up = false → ∃ t, exec (.ethDisable who p true) s = .next t ∧ (t.port p).disabled = true ∧ (t.port p).training = false
            ∧ ChangesOnly [.ports] s t)
        ∧ (let s1 := s.modPort p fun x => { x with disabled := false, enabled := true }
          ((x.up = true ∨ x.training = true ∨ s.linksOn = false) → exec (.ethDisable who p false) s = .next s1)
          ∧ (x.up = false → x.training = false → s.linksOn = true → exec (.ethDisable who p false) s = .next (s1.beginTraining p))))
    ∧ (∀ who, s.isOwner who = false → exec (.ethRetrain who p) s = .next s ∧ ∀ v, exec (.ethDisable who p v) s = .next s)
    ∧ ∀ bay slot : Fin 16, let k := bay.val * 16 + slot.val
      let y := s.sess k
      let beat (c : Nat) (kind : Nat) (body : List Byte) (n : Nat) : Prop := ∃ t, exec (.heartbeat bay slot) s = .next t
          ∧ (t.sess k).lastBeat = y.lastBeat + 8000 ∧ (t.sess k).seq = nextSeq y.seq
          ∧ Queues y.port (if n = 0 then [] else [.datagram (BitVec.ofNat 16 (s.sessValue k)) y.qp (BitVec.ofNat 8 kind) (nextSeq y.seq)
              (envelope kind (s.sessValue k) (nextSeq y.seq) s.mt.ns body.length ++ body)]) s s t
          ∧ (t.port y.port).ctr = (bump (s.port y.port).ctr c n)
          ∧ ChangesOnly [.sessions, .ports, .portq] s t
      (s.nextBeat k ≤ s.mt.ns + 500 → (y.state = .open_ ∨ y.state = .orphaned) → let n := if y.state = .open_ ∧ (s.port y.port).up = true then 1 else 0
        ((s.portQ y.port).departing = none → beat 11 1 (s.beatBody k) n)
        ∧ (∀ d, (s.portQ y.port).departing = some d → beat 12 2 d.body n))
      ∧ (((y.state ≠ .open_ ∧ y.state ≠ .orphaned) ∨ s.mt.ns + 500 < s.nextBeat k) → exec (.heartbeat bay slot) s = .next s)

/-- Frames and module time (R280, R281, R289, R290, R292). A frame of an accepted kind is counted and answered: ARP, a neighbor solicitation, an echo;
another is counted and dropped. A pause of the port's priority holds it for its quanta of 512 bit times, one of another priority is counted, on a
port without flow control it is dropped. A PTP message of the port's domain notes its master, and a Sync is answered by a Delay_Req; the first slave port steps module
time to it, later ones slew it, and out of holdover an offset above 1 ms steps it. With no Sync of its master for three announce intervals the other port
takes over, as it does when the master's port is down, or module time holds over. A port that is down takes none. -/
def Obligations.FramesAndModuleTimeTakeEffect : Prop :=
  ∀ (s : State) (p : Fin 2),
    let x := s.port p
    let got := s.ethCount p 0 1
    let tx (f : TxFrame) (c : Instr) : Prop := ∃ t, exec c s = .next t ∧ Queues p [f] s s t ∧ ChangesOnly [.ports, .portq] s t
    (x.up = true →
      (∀ f a, x.accepts f true = true → x.ip4 ≠ 0 → tx (.arp f.srcMac a) (.arpRequest p f a x.ip4))
      ∧ (∀ f a, x.accepts f true = true → x.ip6 ≠ 0 → tx (.neighbor f.srcMac a) (.neighborSolicitation p f a x.ip6))
      ∧ (∀ f a body, x.accepts f false = true → x.ip6 ≠ 0 → tx (.echo f.srcMac a body) (.icmpEchoRequest p f true a x.ip6 body))
      ∧ (∀ f a body, x.accepts f false = true → x.ip4 ≠ 0 → tx (.echo f.srcMac a body) (.icmpEchoRequest p f false a (x.ip4.setWidth 128) body))
      ∧ (∀ f, exec (.frameDrop p f) s = .next (got.ethCount p 2 1))
      ∧ (∀ f a t, (x.accepts f true = false ∨ t ≠ x.ip4) → exec (.arpRequest p f a t) s = .next (got.ethCount p 2 1))
      ∧ (∀ (prio : Fin 8) (quanta : BitVec 16),
          (x.pfcEn = true → prio.val = x.pfcPrio → exec (.pfcPauseFrame p prio quanta) s = .next (got.modPort p fun y =>
            { y with pausedTill := s.clk.elapsed + quanta.toNat * 512 / (50 * 2 ^ x.width.toNat) }))
          ∧ (x.pfcEn = true → prio.val ≠ x.pfcPrio → exec (.pfcPauseFrame p prio quanta) s = .next (got.ethCount p 10 1))
          ∧ (x.pfcEn = false → exec (.pfcPauseFrame p prio quanta) s = .next (got.ethCount p 2 1)))
      ∧ (∀ f a t, (x.accepts f true = false ∨ x.ip6 = 0 ∨ t ≠ x.ip6) → exec (.neighborSolicitation p f a t) s = .next (got.ethCount p 2 1))
      ∧ (∀ f v6 a t body, (x.accepts f false = false ∨ (if v6 = true then x.ip6 = 0 ∨ t ≠ x.ip6 else x.ip4 = 0 ∨ t ≠ x.ip4.setWidth 128)) →
          exec (.icmpEchoRequest p f v6 a t body) s = .next (got.ethCount p 2 1))
      ∧ (∀ m : PtpMsg,
          (x.accepts m.hdr true = false → exec (.ptpMessage p m) s = .next (got.ethCount p 2 1))
          ∧ (x.accepts m.hdr true = true → m.domain ≠ (s.portQ p).ptp.domain → exec (.ptpMessage p m) s = .next got)
          ∧ (x.accepts m.hdr true = true → m.domain = (s.portQ p).ptp.domain → ∃ t, exec (.ptpMessage p m) s = .next t
              ∧ (t.portQ p).ptp.quality = some m.quality ∧ (t.portQ p).ptp.offset = satWord m.offset
              ∧ (t.portQ p).ptp.lastSync = (if m.sync = true then some s.clk.elapsed else (s.portQ p).ptp.lastSync)
              ∧ Queues p (if m.sync = true then [.delayReq m.hdr.srcMac m.domain] else []) s s t
              ∧ (m.slave = false → t.mt.ns = s.mt.ns ∧ t.mt.state = s.mt.state)
              ∧ (m.slave = true → (s.portQ (1 - p.val)).ptp.state.toNat < 3 →
                (t.portQ p).ptp.state = 3 ∧ t.mt.state = 1 ∧ t.mt.master = some p.val
                ∧ ((s.mt.state = 0 ∨ (s.mt.state = 2 ∧ 1000000 < m.offset.natAbs)) →
                    t.mt.ns = shifted s.mt.ns (-m.offset) ∧ t.mt.stepped = true ∧ t.mt.slew = 0 ∧ (t.port p).lastEvt = 0x9021)
                ∧ ((s.mt.state = 1 ∨ (s.mt.state = 2 ∧ m.offset.natAbs ≤ 1000000)) → t.mt.ns = s.mt.ns ∧ t.mt.slew = -m.offset)))))
    ∧ (x.up = false → (∀ f, exec (.frameDrop p f) s = .next s) ∧ (∀ m, exec (.ptpMessage p m) s = .next s)
        ∧ (∀ f a t, exec (.arpRequest p f a t) s = .next s) ∧ (∀ f a t, exec (.neighborSolicitation p f a t) s = .next s)
        ∧ (∀ f v a t b, exec (.icmpEchoRequest p f v a t b) s = .next s) ∧ ∀ k q, exec (.pfcPauseFrame p k q) s = .next s)
    ∧ (let silent : Prop := ∀ a, (s.portQ p).ptp.lastSync = some a → a + 3 * Config.announceNs (s.portQ p).ptp.domain ≤ s.clk.elapsed
      let spare := (s.masterOf (1 - p.val)).isSome
      s.mt.master = some p.val →
        (s.mt.state = 1 → silent → spare = false → ∃ t, exec .timeHoldover s = .next t ∧ t.mt.state = 2 ∧ t.mt.master = none ∧ t.mt.slew = 0
          ∧ t.mt.ns = s.mt.ns ∧ (t.port p).lastEvt = 0x9020 ∧ (t.portQ p).ptp.state = (if x.up = true then 1 else 0))
        ∧ (s.mt.state = 1 → (silent ∨ (s.portQ p).ptp.state = 0) → spare = true → ∃ t, exec .timeHoldover s = .next t
          ∧ t.mt = { s.mt with master := some (1 - p.val) }
          ∧ (t.portQ (1 - p.val)).ptp.state = 3 ∧ (t.portQ p).ptp.state = (if x.up = true then 1 else 0))
        ∧ ((s.mt.state ≠ 1 ∨ (¬ silent ∧ ¬ (spare = true ∧ (s.portQ p).ptp.state = 0))) → exec .timeHoldover s = .next s))
    ∧ (s.mt.master = none → exec .timeHoldover s = .next s)

/-- Connections and their requests (R280, R282 to R287, R289, R296). A REQ in service with an acceptable transport takes the lowest free queue pair
and is answered REP; otherwise it is rejected with its reason; RTU makes it ready, REJ and DREQ free it. A packet that is not for the port, fails its
check, finds its connection free or in error or the buffer full is dropped and counted; one beyond the expected PSN draws one NAK for the gap; a
duplicate is acknowledged again, a READ done again. A SEND in order puts all its commands into the port's queue, advances the PSN and is acknowledged;
one that does not fit draws RNR and puts none. An RDMA WRITE in order that passes its checks lands, one that fails is refused and lands nothing; a READ is
answered with committed bytes. An unsupported opcode is refused with 0x9015 and ends the connection, as does, with 0x9014, a gather not done in 88 µs. -/
def Obligations.ConnectionsAndRequestsTakeEffect : Prop :=
  ∀ (s : State) (q : Fin 512),
    let x := s.qp q
    let p := x.port
    let link (b : Bth) : State := s.modQp q fun x => { x with peerMac := b.hdr.srcMac }
    (∀ (port : Fin 2) (r : CmReq), let s1 := s.ethCount port 0 1
      let reject (n : Nat) : Prop := exec (.cmReq port r) s = .next (s1.transmit port (.cm r.hdr.srcMac r.peerIp 512 cmRejMsg n))
      ((s.port port).up = false → exec (.cmReq port r) s = .next s)
      ∧ ((s.port port).up = true → (s.port port).accepts r.hdr false = false → exec (.cmReq port r) s = .next (s1.ethCount port 2 1))
      ∧ ((s.port port).up = true → (s.port port).accepts r.hdr false = true →
        (s.su.state = 2 → r.rc = true → r.mtu = 4096 → ((List.range 512).find? fun q => (s.qp q).state == .free) = some q.val →
          ∃ t, exec (.cmReq port r) s = .next t ∧ (t.qp q).state = .connecting ∧ (t.qp q).port = port.val ∧ (t.qp q).epsn = r.psn
            ∧ (t.qp q).peerMac = r.hdr.srcMac ∧ (t.qp q).peerIp = r.peerIp ∧ (t.qp q).resources = min r.resources 16
            ∧ Queues port [.cm r.hdr.srcMac r.peerIp q cmRepMsg (min r.resources 16)] s s t ∧ ChangesOnly [.qps, .ports, .portq] s t)
        ∧ (s.su.state ≠ 2 → reject 3)
        ∧ (s.su.state = 2 → r.rc = false → reject 9)
        ∧ (s.su.state = 2 → r.rc = true → r.mtu ≠ 4096 → reject 26)
        ∧ (s.su.state = 2 → r.rc = true → r.mtu = 4096 → (∀ q : Fin 512, (s.qp q).state ≠ .free) → reject 1)))
    ∧ (∀ h : FrameHdr, let f : ConnFrame := ⟨q, h⟩
        let s1 := s.ethCount p 0 1
        let y := { x with peerMac := h.srcMac }
        ((s.port p).up = false → ∀ c ∈ ([.cmRtu f, .cmRej f, .cmDreq f] : List Instr), exec c s = .next s)
        ∧ ((s.port p).up = true → (s.port p).accepts h false = false → ∀ c ∈ ([.cmRtu f, .cmRej f, .cmDreq f] : List Instr),
            exec c s = .next (s1.ethCount p 2 1))
        ∧ ((s.port p).up = true → (s.port p).accepts h false = true →
          (x.state = .connecting → exec (.cmRtu f) s = .next (s1.modQp q fun _ => { y with state := .ready })
              ∧ exec (.cmRej f) s = .next (s1.modQp q fun _ => {}))
          ∧ (x.state ≠ .connecting → exec (.cmRtu f) s = .next (s1.ethCount p 2 1) ∧ exec (.cmRej f) s = .next (s1.ethCount p 2 1))
          ∧ (x.state ≠ .free → ∃ t, exec (.cmDreq f) s = .next t ∧ t.qp q = {}
              ∧ s.addressed p (.cm h.srcMac x.peerIp q cmDrepMsg 0) ∈ (t.portQ p).second
              ∧ (x.opens = [] → ∀ k ∈ s.sessionsOf q, (t.sess k).state = .orphaned))
          ∧ (x.state = .free → exec (.cmDreq f) s = .next (s1.ethCount p 2 1))))
    ∧ (∀ (b : Bth) (r : Reth) imm payload ecc op, b.qp = q → supportedOpcodes.contains op.toNat = false →
      let ack (t : State) : State := t.ack q b.psn
      let no (t : State) : State := t.nak q b.psn 0x61 0x9015
      let k := payload.length
      ∀ c ∈ ([(.sendOnly b payload, k, ack, fun t => t.deliverSend b 0 payload),
              (.sendOnlyWithImmediate b imm payload, k, ack, fun t => t.deliverSend b imm payload),
              (.rdmaWriteFirst b r payload, k, ack, fun t => t.rdmaWrite b r payload false),
              (.rdmaWriteMiddle b payload, k, ack, fun t => t.rdmaWriteMore b payload false),
              (.rdmaWriteLast b payload, k, ack, fun t => t.rdmaWriteMore b payload true),
              (.rdmaWriteOnly b r payload, k, ack, fun t => t.rdmaWrite b r payload true),
              (.rdmaReadRequest b ⟨r, ecc⟩, 0, fun t => t.readRequest b r ecc, fun t => (t.advance q (readPackets r.len.toNat)).readRequest b r ecc),
              (.sendFirst b, 0, ack, no), (.sendMiddle b, 0, ack, no), (.sendLast b, 0, ack, no), (.rdmaWriteWithImmediate b, 0, ack, no),
              (.atomicCompareAndSwap b, 0, ack, no), (.atomicFetchAndAdd b, 0, ack, no), (.unsupportedOpcode b op, 0, ack, no)] :
              List (Instr × Nat × (State → State) × (State → State))),
        let s1 := s.ethCount p 0 1
        let bad : Prop := (s.port p).accepts b.hdr false = false ∨ b.icrcOk = false ∨ x.state = .free ∨ x.state = .error
          ∨ 4194304 < (s.portQ p).rxHalf + 2 * c.2.1
        let s2 := ((s1.modQp q fun x => { x with state := .ready, peerMac := b.hdr.srcMac }).notify b).buffered p c.2.1
        let d := (b.psn - x.epsn).toNat
        ((s.port p).up = false → exec c.1 s = .next s)
        ∧ ((s.port p).up = true → bad → exec c.1 s = .next (s1.ethCount p 2 1))
        ∧ ((s.port p).up = true → ¬ bad →
          (d = 0 → exec c.1 s = .next (c.2.2.2 (s2.modQp q fun x => { x with nakOut := false })))
          ∧ (0 < d → d < 2 ^ 23 → x.nakOut = false → exec c.1 s = .next ((s2.modQp q fun x => { x with nakOut := true }).nak q x.epsn 0x60 0))
          ∧ (0 < d → d < 2 ^ 23 → x.nakOut = true → exec c.1 s = .next s2)
          ∧ (2 ^ 23 ≤ d → exec c.1 s = .next (c.2.2.1 s2))))
    ∧ (∀ (b : Bth), b.qp = q → b.icrcOk = true → b.ce = false → (s.port p).up = true → (s.port p).accepts b.hdr false = true → x.state ≠ .free → x.state ≠ .error → b.psn = x.epsn →
      (s.portQ p).rxHalf ≤ 2097152 →
      let done (n : Nat) (f : List TxFrame) (c : Instr) (t : State) : Prop := exec c s = .next t ∧ (t.qp q).epsn = x.epsn + BitVec.ofNat 24 n
        ∧ Queues p f (link b) s t ∧ (t.qp q).state = .ready
      let refused (code : Code) (syn : BitVec 8) (c : Instr) : Prop := ∃ t, exec c s = .next t ∧ (t.qp q).epsn = x.epsn
        ∧ (link b).addressed p (.nak q b.psn syn) ∈ (t.portQ p).first ∧ (t.qp q).state = .error ∧ (t.port p).nakCode = code ∧ t.hbm = s.hbm
      (∀ payload imm, ∀ c ∈ ([.sendOnly b payload, .sendOnlyWithImmediate b imm payload] : List Instr),
        (payload.length % 64 ≠ 0 → payload.length ≤ 4160 → refused 0x9017 0x61 c)
        ∧ (payload.length % 64 = 0 → 4096 < payload.length → payload.length ≤ 4160 → refused 0x9015 0x61 c))
      ∧ (∀ payload imm, payload.length % 64 = 0 → payload.length ≤ 4096 →
        ∀ c ∈ ([(.sendOnly b payload, 0), (.sendOnlyWithImmediate b imm payload, imm)] : List (Instr × BitVec 32)),
          let r := parseSend q c.2 64 payload
          let cs := r.1 ++ r.2.toList
          ((s.portQ p).cmds.length + cs.length ≤ 64 →
            ∃ t, done 1 [.ack q b.psn] c.1 t ∧ (t.portQ p).cmds = (s.portQ p).cmds ++ cs ∧ ChangesOnly [.qps, .ports, .portq] s t)
          ∧ (64 < (s.portQ p).cmds.length + cs.length → ∃ t, exec c.1 s = .next t ∧ (t.qp q).epsn = x.epsn ∧ (t.qp q).state = .ready
              ∧ Queues p [.nak q b.psn 0x21] (link b) s t ∧ (t.portQ p).cmds = (s.portQ p).cmds))
      ∧ (∀ c ∈ ([.sendFirst b, .sendMiddle b, .sendLast b, .rdmaWriteWithImmediate b, .atomicCompareAndSwap b, .atomicFetchAndAdd b] : List Instr),
          refused 0x9015 0x61 c)
      ∧ (∀ op, supportedOpcodes.contains op.toNat = false → refused 0x9015 0x61 (.unsupportedOpcode b op))
      ∧ (∀ (r : Reth) payload, payload.length ≠ 0 → payload.length ≤ 4096 →
          let land := s.landRdma q r.rkey r.va.toNat payload
          (r.len.toNat = payload.length → s.accessFail q r.rkey r.va.toNat r.len.toNat payload.length true = none →
            ∃ t, done 1 [.ack q b.psn] (.rdmaWriteOnly b r payload) t ∧ t.hbm = land.hbm ∧ t.coves = land.coves)
          ∧ (∀ code, r.len.toNat = payload.length → s.accessFail q r.rkey r.va.toNat r.len.toNat payload.length true = some code →
            refused code (if code = 0x9014 then 0x63 else 0x62) (.rdmaWriteOnly b r payload))
          ∧ (payload.length = 4096 → 4096 < r.len.toNat → s.accessFail q r.rkey r.va.toNat r.len.toNat 4096 true = none →
            ∃ t, done 1 (if b.ackReq then [.ack q b.psn] else []) (.rdmaWriteFirst b r payload) t ∧ t.hbm = land.hbm ∧ t.coves = land.coves
              ∧ (t.qp q).write = some ⟨r.rkey, r.va.toNat + 4096, r.len.toNat - 4096⟩))
      ∧ (∀ w payload, x.write = some w → payload.length ≠ 0 → payload.length ≤ 4096 → s.accessFail q w.rkey w.addr payload.length payload.length true = none →
          let land := s.landRdma q w.rkey w.addr payload
          (payload.length = w.left → ∃ t, done 1 [.ack q b.psn] (.rdmaWriteLast b payload) t ∧ t.hbm = land.hbm ∧ t.coves = land.coves
            ∧ (t.qp q).write = none)
          ∧ (payload.length = 4096 → 4096 < w.left → ∃ t, done 1 (if b.ackReq then [.ack q b.psn] else []) (.rdmaWriteMiddle b payload) t
              ∧ t.hbm = land.hbm ∧ t.coves = land.coves ∧ (t.qp q).write = some ⟨w.rkey, w.addr + 4096, w.left - 4096⟩))
      ∧ (∀ (r : Reth) k g, s.regionOf q r.rkey = some (k, g) → g.kind = 0 → 0 < r.len.toNat →
          s.accessFail q r.rkey r.va.toNat r.len.toNat r.len.toNat false = none →
          let n := r.len.toNat
          let s1 := s.readBay (k / 16) none (s.netNow + 112) r.va.toNat n
          (s.gatherWaits (k / 16) r.va.toNat n = false → n ≤ 4096 → s1.bayPoison (k / 16) none r.va.toNat n = false →
            ∃ t, done 1 [.readResp q b.psn 0x10 (s1.bayBytes (k / 16) none r.va.toNat n)] (.rdmaReadRequest b ⟨r, []⟩) t ∧ t.hbm = s.hbm)
          ∧ (s.gatherWaits (k / 16) r.va.toNat n = true → ∀ ecc, ∃ t, done (readPackets n) [] (.rdmaReadRequest b ⟨r, ecc⟩) t
              ∧ (t.qp q).gathers = x.gathers ++ [⟨b.psn, r.rkey, r.va.toNat, n, s.clk.elapsed, ecc⟩] ∧ ChangesOnly [.qps, .ports, .portq] s t))
      ∧ (∀ (r : Reth) ecc, r.len = 0 → ∃ t, done 1 [.readResp q b.psn 0x10 []] (.rdmaReadRequest b ⟨r, ecc⟩) t ∧ ChangesOnly [.qps, .ports, .portq] s t))
    ∧ (∀ op b, supportedOpcodes.contains op.toNat = true → exec (.unsupportedOpcode b op) s = .next s)
    ∧ (∀ psn g, (x.gathers.find? fun g => g.psn == psn) = some g →
        (g.at_ + 88000 ≤ s.clk.elapsed → ∃ t, exec (.readGatherTimeout q psn) s = .next t ∧ (t.qp q).state = .error ∧ (t.qp q).gathers = []
          ∧ (t.port p).nakCode = 0x9014)
        ∧ (s.clk.elapsed < g.at_ + 88000 → exec (.readGatherTimeout q psn) s = .next s))
    ∧ (∀ psn, (x.gathers.find? fun g => g.psn == psn) = none → exec (.readGatherTimeout q psn) s = .next s)

/-- Congestion of a connection that is ready (R288, Table 11.5; the update rules are the model's, PRESUMED, log entry 36). A notification is counted, makes
the rate the target and cuts it by half the estimate, never below the least rate; the estimate decays by its timer; the rate rises halfway to
its target, which rises after five steps, by the larger increase once both kinds of step have passed five, never above the port's rate. -/
def Obligations.CongestionControlTakesEffect : Prop :=
  ∀ (s : State) (q : Fin 512),
    let x := s.qp q
    let d := (s.portQ x.port).dcqcn
    let line := (s.port x.port).mbps
    (∀ h : FrameHdr, let p := x.port
      ((s.port p).up = true → (s.port p).accepts h false = true → x.state = .ready → ∃ t, exec (.cnpReceived ⟨q, h⟩) s = .next t ∧ ChangesOnly [.qps, .ports] s t
        ∧ (t.port p).ctr = (bump (bump (s.port p).ctr 0 1) 8 1)
        ∧ t.qp q = { x with
            peerMac := h.srcMac
            target := x.rate, rate := max d.minMbps (x.rate - x.rate * x.alpha / 131072)
            alpha := x.alpha - x.alpha / 2 ^ d.gShift + 65536 / 2 ^ d.gShift
            rateSteps := 0, byteSteps := 0, bytes := 0, rateAt := s.clk.elapsed, alphaAt := s.clk.elapsed })
      ∧ ((s.port p).up = true → ((s.port p).accepts h false = false ∨ x.state ≠ .ready) →
          exec (.cnpReceived ⟨q, h⟩) s = .next ((s.ethCount p 0 1).ethCount p 2 1))
      ∧ ((s.port p).up = false → exec (.cnpReceived ⟨q, h⟩) s = .next s))
    ∧ (x.state = .ready → x.alphaAt + d.alphaUs * 1000 ≤ s.clk.elapsed → exec (.dcqcnAlphaTimer q) s = .next (s.modQp q fun x =>
        { x with alpha := x.alpha - x.alpha / 2 ^ d.gShift, alphaAt := s.clk.elapsed }))
    ∧ (s.clk.elapsed < x.alphaAt + d.alphaUs * 1000 → exec (.dcqcnAlphaTimer q) s = .next s)
    ∧ (x.state = .ready → x.rateAt + d.rateUs * 1000 ≤ s.clk.elapsed → ∃ t, exec (.dcqcnRateTimer q false) s = .next t
        ∧ (t.qp q).rateSteps = x.rateSteps + 1 ∧ (t.qp q).rateAt = s.clk.elapsed ∧ (t.qp q).rate = min line ((x.rate + (t.qp q).target) / 2)
        ∧ (t.qp q).target = (if max (x.rateSteps + 1) x.byteSteps < 5 then x.target
            else if 5 < min (x.rateSteps + 1) x.byteSteps then min line (x.target + d.rhaiMbps) else min line (x.target + d.raiMbps))
        ∧ ChangesOnly [.qps] s t)
    ∧ (x.state = .ready → d.byteKb * 1000 ≤ x.bytes → ∃ t, exec (.dcqcnRateTimer q true) s = .next t
        ∧ (t.qp q).byteSteps = x.byteSteps + 1 ∧ (t.qp q).bytes = x.bytes - d.byteKb * 1000
        ∧ (t.qp q).target = (if max x.rateSteps (x.byteSteps + 1) < 5 then x.target
            else if 5 < min x.rateSteps (x.byteSteps + 1) then min line (x.target + d.rhaiMbps) else min line (x.target + d.raiMbps))
        ∧ (t.qp q).rate = min line ((x.rate + (t.qp q).target) / 2) ∧ ChangesOnly [.qps] s t)
    ∧ (s.clk.elapsed < x.rateAt + d.rateUs * 1000 → exec (.dcqcnRateTimer q false) s = .next s)
    ∧ (x.bytes < d.byteKb * 1000 → exec (.dcqcnRateTimer q true) s = .next s)
    ∧ (x.state ≠ .ready → ∀ y, exec (.dcqcnAlphaTimer q) s = .next s ∧ exec (.dcqcnRateTimer q y) s = .next s)

/-- The checks of R305 and the ANSWER (R304, R306, R308, R510). A command leaves its port's queue and is rejected with the first check that fails;
another row's command it is not. The ANSWER is counted and leaves last on the wire of the port that is up: in the command's own session, whose
SEQ advances, or session-less; its body names the command, its tag, its opcode, the status and the code. -/
def Obligations.CommandsAreCheckedAndAnswered : Prop :=
  ∀ (s : State) (c : JCmd),
    (∀ r ∈ ([(.nop c, 0x00, true), (.challenge c, 0x01, true), (.sessionOpen c, 0x02, true), (.sessionClose c, 0x03, true), (.regionGrant c, 0x04, true),
        (.regionRevoke c, 0x05, true), (.attest c, 0x06, true), (.programLoad c, 0x08, true), (.programUnload c, 0x09, true), (.run c, 0x0A, true),
        (.generate c, 0x0B, true), (.cancel c, 0x0C, true), (.stepHint c, 0x0D, true), (.queryRunQueue c, 0x10, jField c 16 1 == 1),
        (.querySessionEnergy c, 0x10, jField c 16 1 == 2), (.queryAdmissionTrial c, 0x10, jField c 16 1 == 3),
        (.queryBaySummary c, 0x10, jField c 16 1 == 0 || decide (3 < jField c 16 1)), (.regRead c, 0x11, true), (.regWrite c, 0x12, true),
        (.resend c, 0x13, true), (.capSetBay c, 0x18, jField c 16 1 != 1), (.capSetModule c, 0x18, jField c 16 1 == 1), (.bayReset c, 0x19, true),
        (.maintenanceOpen c, 0x1A, jField c 16 1 != 1), (.maintenanceClose c, 0x1A, jField c 16 1 == 1), (.moduleReset c, 0x1B, true)]
        : List (Instr × Nat × Bool)),
      ((s.parses c = false ∨ jOp c ≠ r.2.1 ∨ r.2.2 = false) → exec r.1 s = .next s)
      ∧ ∀ code, s.parses c = true → jOp c = r.2.1 → r.2.2 = true → (s.parsed c).checkCmd c r.2.1 = some code → exec r.1 s = .next ((s.parsed c).reject c code))
    ∧ (∀ status code time result, let t := s.answerCmd c status code time result
        let head := leBytes 4 (jId c).toNat ++ leBytes 4 c.tag.toNat ++ leBytes 1 (jOp c) ++ leBytes 1 status ++ leBytes 2 code.toNat
        let slot := jSess c % 256
        let x := s.sess slot
        t.jetty.cmds = satAdd32 s.jetty.cmds 1 ∧ t.jetty.rejects = (if status = 5 then satAdd32 s.jetty.rejects 1 else s.jetty.rejects)
        ∧ t.jetty.refusals = (if 2 ≤ status ∧ status ≤ 4 then satAdd32 s.jetty.refusals 1 else s.jetty.refusals)
        ∧ ChangesOnly [.sessions, .ports, .portq, .jetty] s t
        ∧ (s.ownSession c = true → (s.port x.port).up = true → ∃ bytes tail, bytes.drop 32 = head ++ tail ∧ (t.sess slot).seq = nextSeq x.seq
            ∧ Queues x.port [.datagram (BitVec.ofNat 16 (s.sessValue slot)) x.qp 3 (nextSeq x.seq) bytes] s s t)
        ∧ (s.ownSession c = false → (s.port (s.qp c.qp).port).up = true → ∃ bytes tail, bytes.drop 32 = head ++ tail ∧ t.sessions = s.sessions
            ∧ Queues (s.qp c.qp).port [.datagram 0 c.qp 3 0 bytes] s s t))

/-- The commands of sessions that pass their checks (R305, R313 to R316, R474, R475). NOP is accepted; CHALLENGE gives the connection a nonce;
SESSION_OPEN takes a free slot and is verified, which opens the session with the role of its key or frees the slot; with RESUME it takes an orphan
less than 1 s old of the same key up again, or fails with 0x9109; SESSION_CLOSE and an orphan's timeout free it; REGION_GRANT and REGION_REVOKE give and
take a region; ATTEST waits its turn, behind 16 is refused with 0xC020, and its token completes it. -/
def Obligations.SessionCommandsTakeEffect : Prop :=
  ∀ (s : State) (c : JCmd),
    let s0 := s.parsed c
    let k := jSess c % 256
    let x := s.sess k
    (s.accepts c 0x00 → exec (.nop c) s = .next (s0.accept c))
    ∧ (s.accepts c 0x01 → ∃ t n, exec (.challenge c) s = .next t ∧ (t.qp c.qp).nonce = some (n, s.mt.ns) ∧ t.sessions = s.sessions)
    ∧ (s.accepts c 0x02 → let b := jField c 16 1
        ((s.bay b).record = none → exec (.sessionOpen c) s = .next (s0.reject c 0x9108))
        ∧ ((s.bay b).record.isSome = true → s.openKey b (jField c 17 1) = none → exec (.sessionOpen c) s = .next (s0.reject c 0x9107))
        ∧ ((s.bay b).record.isSome = true → (s.openKey b (jField c 17 1)).isSome = true → jField c 18 2 = 0 →
            exec (.sessionOpen c) s = .next (s0.reject c 0x9102)))
    ∧ (s.accepts c 0x02 → ∀ rec key, let b := jField c 16 1
        (s.bay b).record = some rec → s.openKey b (jField c 17 1) = some key → jField c 18 2 ≠ 0 →
        (jField c 20 1 ≠ 1 → s.freeSlots b ≠ [] → ∃ t i o, exec (.sessionOpen c) s = .next t ∧ i ∈ s.freeSlots b
          ∧ (t.sess (b * 16 + i)).state = .opening ∧ (t.sess (b * 16 + i)).gen = nextGen (s.sess (b * 16 + i)).gen
          ∧ (t.qp c.qp).opens = (s.qp c.qp).opens ++ [o] ∧ o.bay = b ∧ o.slot = some i ∧ o.resume = none ∧ o.key = jField c 17 1
          ∧ o.code = s0.openCode c key ∧ (t.qp c.qp).nonce = none)
        ∧ (jField c 20 1 ≠ 1 → s.freeSlots b = [] → exec (.sessionOpen c) s = .next ((s0.modQp c.qp fun q => { q with nonce := none }).refuse c 0x910D))
        ∧ (jField c 20 1 = 1 → ∃ t o, exec (.sessionOpen c) s = .next t ∧ (t.qp c.qp).opens = (s.qp c.qp).opens ++ [o]
            ∧ o.resume = some (jField c 22 2) ∧ o.code = s0.openCode c key ∧ (t.qp c.qp).nonce = none))
    ∧ (∀ (q : Fin 512) o rest i, (s.qp q).opens = o :: rest → o.slot = some i →
        let n := o.bay * 16 + i
        (o.code = 0 → o.resume = none → ∃ t, exec (.sessionVerifyDone q) s = .next t ∧ (t.qp q).opens = rest ∧ (t.sess n).state = .open_
          ∧ (t.sess n).role = keyRole o.key ∧ (t.sess n).qp = q ∧ (t.sess n).port = (s.qp q).port ∧ (t.sess n).key = o.key
          ∧ (t.sess n).gen = (s.sess n).gen ∧ (t.sess n).hostPort = o.hostPort ∧ (t.sess n).openAt = s.mt.ns)
        ∧ (o.code ≠ 0 → ∃ t, exec (.sessionVerifyDone q) s = .next t ∧ (t.qp q).opens = rest ∧ t.sess n = { gen := (s.sess n).gen, energy := (s.sess n).energy }))
    ∧ (∀ (q : Fin 512) o rest, (s.qp q).opens = o :: rest → let s1 := s.modQp q fun x => { x with opens := rest }
        (o.code ≠ 0 → exec (.sessionVerifyDone q) s = .next (s1.openFails q o o.code))
        ∧ (∀ v, o.code = 0 → o.resume = some v → let n := v % 256
            let y := s.sess n
            let same : Prop := ∃ a, s.openKey o.bay o.key = some a ∧ s.openKey (n / 16) y.key = some a
            let may : Prop := y.state = .orphaned ∧ y.gen.toNat = v / 256 ∧ same ∧ s.mt.ns < y.orphanAt + 1000000000
            (may → exec (.sessionVerifyDone q) s = .next ((s1.modSess n fun x =>
                { x with state := .open_, qp := q, port := (s.qp q).port, hostPort := o.hostPort }).openDone n o))
            ∧ (¬ may → exec (.sessionVerifyDone q) s = .next (s1.openFails q o 0x9109)))
        ∧ (o.code = 0 → o.resume = none → o.slot = none → exec (.sessionVerifyDone q) s = .next s1))
    ∧ (∀ q : Fin 512, (s.qp q).opens = [] → exec (.sessionVerifyDone q) s = .next s)
    ∧ (s.accepts c 0x03 → ∃ t, exec (.sessionClose c) s = .next t ∧ t = (s0.accept c).closeSession k ∧ (t.sess k).state = .free)
    ∧ (∀ bay slot : Fin 16, let n := bay.val * 16 + slot.val
        ((s.sess n).state = .orphaned → (s.sess n).orphanAt + 1000000000 ≤ s.mt.ns → ∃ t, exec (.sessionOrphanTimeout bay slot) s = .next t
          ∧ t = s.closeSession n ∧ (t.sess n).state = .free)
        ∧ (((s.sess n).state ≠ .orphaned ∨ s.mt.ns < (s.sess n).orphanAt + 1000000000) → exec (.sessionOrphanTimeout bay slot) s = .next s))
    ∧ (s.accepts c 0x04 → let kind := jField c 16 1
        let a := jField c 24 8
        let n := jField c 32 8
        let ok := s.regionOk (jBay c) kind a n (x.role == .user)
        (ok = true → (x.role ≠ .user ∨ kind ≠ 1) →
          (n = 0 → exec (.regionGrant c) s = .next (s0.doneAtOnce c 0 (leBytes 4 0 ++ leBytes 8 a)))
          ∧ (n ≠ 0 → x.regions.length < 8 → ∃ t r, exec (.regionGrant c) s = .next t
              ∧ (t.sess k).regions = x.regions ++ [r] ∧ r.kind = kind ∧ r.addr = a ∧ r.len = n ∧ r.read = (jField c 17 1 % 2 == 1)
              ∧ r.write = (jField c 17 1 / 2 == 1))
          ∧ (n ≠ 0 → 8 ≤ x.regions.length → exec (.regionGrant c) s = .next (s0.refuse c 0x9120)))
        ∧ ((ok = false ∨ (x.role = .user ∧ kind = 1)) → exec (.regionGrant c) s = .next (s0.reject c 0x9120)))
    ∧ (s.accepts c 0x05 → exec (.regionRevoke c) s =
        .next ((s0.modSess k fun x => { x with regions := x.regions.filter fun r => r.rkey.toNat != jField c 16 4 }).accept c))
    ∧ (s.accepts c 0x06 →
        (s.ident.queue.length < 16 → ∃ t a, exec (.attest c) s = .next t ∧ t.ident = { s.ident with queue := s.ident.queue ++ [a] }
          ∧ a.session = jSess c ∧ a.cmdId = jId c ∧ a.nonce = slice c.desc 24 16 ∧ a.bay = if jField c 16 1 = 1 then some (jBay c) else none)
        ∧ (16 ≤ s.ident.queue.length → exec (.attest c) s = .next ((s0.identErr 0xC020).refuse c 0xC020)
            ∧ ((s0.identErr 0xC020).refuse c 0xC020).ident = { s.ident with lastErr := 0xC020 }))
    ∧ (∀ a rest, s.ident.queue = a :: rest → s.recordsSigned = true → ∃ t, exec .attestTokenComplete s = .next t
        ∧ t.ident = { s.ident with queue := rest, attests := satAdd32 s.ident.attests 1 }
        ∧ t = ({ s with ident := { s.ident with queue := rest, attests := satAdd32 s.ident.attests 1 } } : State).complete a.session
            { cmdId := a.cmdId, opcode := 0x06, start := a.start, result := s.token a })
    ∧ ((s.ident.queue = [] ∨ s.recordsSigned = false) → exec .attestTokenComplete s = .next s)

/-- Programs and work (R306, R318 to R321, R325, R412, R414). PROGRAM_LOAD keeps what to load, its completion sets the program up or reports the
code; PROGRAM_UNLOAD cancels the queue and, at a boundary, takes the program away. RUN and GENERATE that admission places stand at their place of
the queue, behind its quota, without power or without capacity they are refused, the last with a time; without steps or tokens they complete at once; without a
program that can do them they are rejected. CANCEL reaches the work it names; QUERY
is answered at once; STEP_HINT of a coming step is kept. -/
def Obligations.WorkCommandsTakeEffect : Prop :=
  ∀ (s : State) (c : JCmd),
    let s0 := s.parsed c
    let b := jBay c
    let y := s.bay b
    (s.accepts c 0x08 →
      let free : Bool := !y.busy && y.load.isNone && !y.hang.resetting && !y.hang.recovering && y.hang.asked.isNone
      let a := jField c 24 8
      let n := jField c 32 8
      (free = false → exec (.programLoad c) s = .next (s0.reject c 0x910A))
      ∧ (∀ r, free = true → n ≠ 0 → y.record = some r → a + n ≤ r.hbmBytes → ∃ t l, exec (.programLoad c) s = .next t ∧ (t.bay b).load = some l
          ∧ l.session = jSess c ∧ l.cmdId = jId c ∧ l.addr = a ∧ l.length = n ∧ l.held = false
          ∧ l.seed = (if jField c 40 1 = 1 then some (BitVec.ofNat 64 (jField c 48 8)) else none))
      ∧ (∀ r, free = true → y.record = some r → r.hbmBytes < a + n → exec (.programLoad c) s = .next (s0.reject c 0x9121))
      ∧ (∀ r, free = true → n = 0 → y.record = some r → a ≤ r.hbmBytes → exec (.programLoad c) s = .next (s0.doneAtOnce c 0 []))
      ∧ (free = true → y.record = none → exec (.programLoad c) s = .next (if 0 < a + n then s0.reject c 0x9121 else s0.doneAtOnce c 0 [])))
    ∧ (∀ (d : Fin 16) l, (s.bay d).load = some l →
        let r := s.loadProgram d (s.bayBytes d none l.addr l.length) l.seed
        (l.held = true → exec (.programLoadComplete d) s = .next s)
        ∧ (l.held = false → (r.1 ≠ 0 ∨ (r.2.bay d).spans = false ∨ r.2.onePoint = true) → ∃ t, exec (.programLoadComplete d) s = .next t
            ∧ t = r.2.loadDone d l r.1 ∧ (t.bay d).load = none ∧ (t.bay d).program = (r.2.bay d).program)
        ∧ (l.held = false → r.1 = 0 → (r.2.bay d).spans = true → r.2.onePoint = false → ∃ t, exec (.programLoadComplete d) s = .next t
            ∧ (t.bay d).load = some { l with held := true }))
    ∧ (∀ d : Fin 16, (s.bay d).load = none → exec (.programLoadComplete d) s = .next s)
    ∧ (s.accepts c 0x09 → ∃ t, exec (.programUnload c) s = .next t ∧ (y.busy = false → (t.bay b).queue = [] ∧ (t.bay b).unloads = [])
        ∧ (y.busy = true → y.st.running.isSome = true → (t.bay b).queue = [] ∧ (t.bay b).unloads = y.unloads ++ [(jSess c, jId c, s.mt.ns)]
            ∧ ∀ w, (t.bay b).run = some w → w.cancelled = true)
        ∧ (let s1 := ((s0.acceptLong c).dropQueue b 0x9122 true).modBay b fun y => { y with
              unloads := y.unloads ++ [(jSess c, jId c, s.mt.ns)]
              run := y.run.map fun w => { w with cancelled := true }
              berths := y.berths.map fun _ w => { w with cancelled := true } }
           t = if (s1.bay b).busy = true then s1.atBoundary b else s1.unloadNow b))
    ∧ (let inl := jField c 18 1 = 1
      let wr : Work := {
        kind := .run, sess := jSess c, cmdId := jId c, deadline := jDeadline c, maxSteps := jField c 16 4, entry := jField c 20 1,
        inAddr := jField c 24 8, inLen := jField c 32 4, outLen := jField c 36 4 }
      let wg : Work := {
        kind := .generate, sess := jSess c, cmdId := jId c, deadline := jDeadline c, maxNew := jField c 20 4,
        inAddr := if inl then jField c 24 8 else 0, inLen := if inl then 4 * jField c 16 2 else 0,
        prompt := if inl then [] else c.ext.take (4 * jField c 16 2), temp := BitVec.ofNat 32 (jField c 32 4), topK := jField c 36 2,
        seed := BitVec.ofNat 64 (jField c 40 8) }
      ∀ (ins : Instr) (w : Work) (bad : BayRecord → Program → Code),
        (ins = .run c ∧ s.accepts c 0x0A ∧ w = wr
          ∧ bad = (fun r p => if p.entrySets ≤ w.entry ∨ r.inside w.inAddr w.inLen = false then 0x9121 else 0))
        ∨ (ins = .generate c ∧ s.accepts c 0x0B ∧ w = wg
          ∧ bad = (fun r p => if p.generates = false then 0x910B
              else if inl ∧ (r.hbmBytes ≤ w.inAddr ∨ r.inside w.inAddr w.inLen = false) then 0x9121 else 0)) →
        (y.stopped.isSome = true → exec ins s = .next (s0.reject c 0x9129))
        ∧ (y.stopped = none → (y.program = none ∨ y.record = none) → exec ins s = .next (s0.reject c 0x910B))
        ∧ (∀ r p, y.stopped = none → y.record = some r → y.program = some p → bad r p ≠ 0 → exec ins s = .next (s0.reject c (bad r p)))
        ∧ (∀ r p, y.stopped = none → y.record = some r → y.program = some p → bad r p = 0 →
          (w.maxSteps = 0 → w.maxNew = 0 → exec ins s = .next ((s0.acceptLong c).complete w.sess
              { cmdId := w.cmdId, opcode := w.opcode, start := s.mt.ns, deadline := w.deadline
                result := if w.kind = .generate then leBytes 4 0 else [] }))
          ∧ ((w.maxSteps ≠ 0 ∨ w.maxNew ≠ 0) →
            (y.quotaFull r w = true → exec ins s = .next (s0.refuse c 0x910E))
            ∧ (y.quotaFull r w = false → s.powerRefuses b p = true → exec ins s = .next (s0.answerCmd c 3 0x3020 0 []))
            ∧ (y.quotaFull r w = false → s.powerRefuses b p = false →
              (∀ i, s0.capacity b w = .now i → ∃ t, exec ins s = .next t ∧ (t.bay b).queue = y.queue.take i ++ w :: y.queue.drop i)
              ∧ (∀ i st, s0.capacity b w = .delayed i st → ∃ t, exec ins s = .next t ∧ (t.bay b).queue = y.queue.take i ++ w :: y.queue.drop i)
              ∧ (∀ done, s0.capacity b w = .refused done → exec ins s = .next (s0.answerCmd c 2 0 done []))))))
    ∧ (s.accepts c 0x0C → ∀ v, v = (if jField c 20 2 = 0 then jSess c else jField c 20 2) → let own := (s.sess (jSess c % 256)).role
        ((own = .owner ∨ (own = .bay ∧ v % 256 / 16 = b) ∨ (own = .user ∧ v = jSess c)) → exec (.cancel c) s =
          .next ((s0.accept c).cancelWorkOf (v % 256 / 16) v (BitVec.ofNat 32 (jField c 16 4))))
        ∧ (((own = .user ∧ v ≠ jSess c) ∨ (own = .bay ∧ v % 256 / 16 ≠ b)) → exec (.cancel c) s = .next (s0.reject c 0x9106)))
    ∧ (s.accepts c 0x10 →
        (jField c 16 1 = 0 → exec (.queryBaySummary c) s = .next (s0.answerQuery c 0 [if y.program.isSome then 1 else 0, if y.busy then 1 else 0,
          (y.stopped.getD 0).toNat, y.queue.length, y.berths.rows.length, y.st.committed, y.shape, y.level]))
        ∧ (jField c 16 1 = 1 → exec (.queryRunQueue c) s = .next (s0.answerQuery c 1
            (((y.run.toList ++ y.berths.rows.map Prod.snd).flatMap fun w => [w.sess, w.cmdId.toNat, w.opcode, w.deadline, 1])
              ++ y.queue.flatMap fun w => [w.sess, w.cmdId.toNat, w.opcode, w.deadline, 0])))
        ∧ (jField c 16 1 = 2 → exec (.querySessionEnergy c) s = .next (s0.answerQuery c 2 [(s.sess (jSess c % 256)).energy.toNat]))
        ∧ (jField c 16 1 = 3 → exec (.queryAdmissionTrial c) s = .next (s0.answerQuery c 3 (match (s0.estimates b (y.queue ++
            [{ kind := .run, sess := jSess c, cmdId := jId c, maxSteps := jField c 24 8 }])).getLast? with
          | some e => [e.start, e.done]
          | none => []))))
    ∧ (s.accepts c 0x0D → let n := if jField c 16 6 = 0 then y.st.next else jField c 16 6
        let steps := jField c 24 4
        (steps ≠ 0 → y.st.next ≤ n → y.program.isSome = true → ∃ t h, exec (.stepHint c) s = .next t ∧ (t.bay b).hints = y.hints ++ [h]
          ∧ h.step = n ∧ h.steps = steps ∧ h.watts = jField c 28 2)
        ∧ ((steps = 0 ∨ n < y.st.next ∨ y.program = none) → exec (.stepHint c) s = .next (s0.accept c)))

/-- The jetty's other commands that pass their checks (R271, R300, R312, R324, R326, R327, R405, R419, R456). REG_READ and REG_WRITE complete with
what the access rules give, behind those that wait for Headland's clock (log entry 163); RESEND sends the range again with its original bytes or nothing; a cap is taken over at the next boundary or control
period; BAY_RESET is asked for; a maintenance window opens, its ends complete the commands; MODULE_RESET announces the departure of both ports. -/
def Obligations.JettyCommandsTakeEffect : Prop :=
  ∀ (s : State) (c : JCmd),
    let s0 := s.parsed c
    let b := jBay c
    let y := s.bay b
    let a := jField c 24 8 - 0xF00000000000
    let v := BitVec.ofNat 32 (jField c 32 4)
    let now : Bool := !s.headlandWaits && s.jetty.regWait.isEmpty
    let s1 := s0.acceptLong c
    let later : State := { s1 with jetty := { s1.jetty with regWait := s.jetty.regWait ++ [c] } }
    (s.accepts c 0x11 → let r := s1.readWords (jWho c) a (jField c 32 1)
      (now = true → exec (.regRead c) s = .next (r.2.2.finishCmd c (if r.2.1 then 0 else 0x9128) (r.1.flatMap fun w => leBytes 4 w.toNat)))
      ∧ (now = false → exec (.regRead c) s = .next later))
    ∧ (s.accepts c 0x12 →
        ((s0.write (jWho c) a v).isSome = true →
          (now = true → exec (.regWrite c) s = .next (((s1.write (jWho c) a v).getD s1).finishCmd c 0 []))
          ∧ (now = false → exec (.regWrite c) s = .next later))
        ∧ (s0.write (jWho c) a v = none → exec (.regWrite c) s = .next (s0.reject c 0x9128)))
    ∧ (s.accepts c 0x13 → let k := jSess c % 256
        let x := s.sess k
        let n := jField c 20 4
        let found := (seqRange n (jField c 16 4)).map fun q => x.kept.find? fun d => d.1 == q
        (n ≤ 64 → none ∉ found → exec (.resend c) s = .next ((found.filterMap id).foldl (fun t d =>
            t.transmit x.port (.datagram (BitVec.ofNat 16 (s.sessValue k)) x.qp (d.2.getD 0 0) d.1 d.2)) (s0.accept c)))
        ∧ (∀ d, n = 1 → found = [some d] → (s.port x.port).up = true → ∃ t l, exec (.resend c) s = .next t ∧ l = (t.portQ x.port).first ++ (t.portQ x.port).second
            ∧ s.addressed x.port (.datagram (BitVec.ofNat 16 (s.sessValue k)) x.qp (d.2.getD 0 0) d.1 d.2) ∈ l)
        ∧ ((64 < n ∨ (n ≤ 64 ∧ none ∈ found)) → exec (.resend c) s = .next (s0.reject c 0x9125)))
    ∧ (s.accepts c 0x18 → let w := jField c 18 2
        (jField c 16 1 ≠ 1 → ∃ t, exec (.capSetBay c) s = .next t ∧ (t.bay b).pwr =
          if y.st.running.isSome then { y.pwr with capNext := some w } else { y.pwr with capW := w, capNext := none })
        ∧ (jField c 16 1 = 1 → ∃ t, exec (.capSetModule c) s = .next t ∧ t.pwr = { s.pwr with capNext := some (min w s.su.contW) }))
    ∧ (s.accepts c 0x19 → ∃ t, exec (.bayReset c) s = .next t ∧ (t.bay b).hang.askers = y.hang.askers ++ [(jSess c, jId c, s.mt.ns)]
        ∧ (t.bay b).hang.asked = if y.hang.resetting || y.hang.recovering then y.hang.asked else some (y.stopped.getD 0xE001))
    ∧ (s.accepts c 0x1A → let m := s.jetty.maint
        (jField c 16 1 ≠ 1 → m.opening = none → ∃ t, exec (.maintenanceOpen c) s = .next t
          ∧ t.jetty.maint = { opening := some (jSess c, jId c, s.mt.ns), busyTill := s.mt.ns + jField c 20 4 * 1000000 })
        ∧ (jField c 16 1 ≠ 1 → m.opening.isSome = true → exec (.maintenanceOpen c) s = .next (s0.reject c 0x9124))
        ∧ (jField c 16 1 = 1 → s0.maintOpen = true → ∃ t, exec (.maintenanceClose c) s = .next t
            ∧ t.jetty.maint = { m with closers := m.closers ++ [(jSess c, jId c, s.mt.ns)] })
        ∧ (jField c 16 1 = 1 → s0.maintOpen = false → exec (.maintenanceClose c) s = .next (s0.doneAtOnce c 0 [])))
    ∧ (s.maintOpen = true → ∀ freed soft, ∃ t, exec (.hardRepairDone ⟨freed, soft⟩) s = .next t ∧ t.jetty.maint = {}
        ∧ ChangesOnly [.ctrls, .sessions, .portq, .jetty, .su] s t
        ∧ (freed = [] → soft = [] → t.ctrls = s.ctrls ∧ t.su = s.su
            ∧ t = (s.jetty.maint.opening.toList ++ s.jetty.maint.closers).foldl (fun t u =>
                t.complete u.1 { cmdId := u.2.1, opcode := 0x1A, start := u.2.2 }) { s with jetty := { s.jetty with maint := {} } })
        ∧ (∀ (st : Fin 8) (way : Fin 4) (slot : Fin 4096) e, freed = [(st, way, slot)] → soft = [] →
            ((s.stack st).talus.find? fun t => t.way == way.val && t.slot == slot.val && !t.temporary) = some e →
            (t.stack st).talus = (s.stack st).talus.erase e)
        ∧ (∀ (st : Fin 8) (pc : Fin 32) (bank : Fin 48) e, freed = [] → soft = [(st, pc, bank)] →
            ((talusOf s.su.journal st).soft.find? fun t => t.pc == pc.val && t.bank == bank.val) = some e →
            (t.stack st).softUsed = (s.stack st).softUsed.erase (pc.val, bank.val)))
    ∧ (s.maintOpen = false → ∀ f g, exec (.hardRepairDone ⟨f, g⟩) s = .next s)
    ∧ (s.accepts c 0x1B → ∃ t, exec (.moduleReset c) s = .next t ∧ t.jetty.resetting = true
        ∧ ∃ d, d.reason = 0x9030 ∧ d.scope = 1 ∧ d.retrain = false ∧ ∀ p : Fin 2, (t.portQ p).departing = some d)

/-- The stages of start-up (R422, R431, R434 to R441, R396, R397). Outside its stage a stage's command does nothing. A stage that ends leaves its
sounding and the next begins at once; one that cannot go on holds or stops start-up with its code; S4 closes the switch and turns the main
regulators and PLLs on; S5 waits for the PLLs, S7 and S8 for the operating point they run at and their tests' length, and leave the next point to be
reached; S9 gives a cove that failed a second image before it fails it; S11 puts the module in service. A stage past its limit stops start-up, or ends
with what is unfinished failed. -/
def Obligations.StartUpStagesTakeEffect : Prop :=
  ∀ (s : State),
    let shown (n res : Nat) (code : Code) (t : State) : Prop :=
      ∃ d, t.su.sounds.find n = some d ∧ d.done = true ∧ d.result = BitVec.ofNat 8 res ∧ d.code = code
    let ended (n : Nat) (code : Code) (t : State) : Prop :=
      t.su.stage = BitVec.ofNat 4 (n + 1) ∧ t.su.state = 0 ∧ t.su.stageAt = s.clk.now ∧ t.su.held = 0
      ∧ shown n (if code ≠ 0 then 1 else if s.su.held ≠ 0 ∨ s.su.state = 1 then 2 else 0) (if code ≠ 0 then code else s.su.held) t
    let stopped (n : Nat) (code : Code) (t : State) : Prop :=
      t.su.state = 3 ∧ t.su.faultCode = code ∧ t.pins.swClosed = false ∧ t.pwrx.mainRegs = false ∧ shown n 3 code t
    let inService (t : State) : Prop := t.su.state = 2 ∧ t.su.stage = 11 ∧ t.su.held = 0
    let onAux (t : State) : Prop :=
      t.pins.aux = true ∧ t.su.stage = 0 ∧ t.su.state = 0 ∧ t.clk.refOk = false ∧ t.clk.neapSrc = true ∧ t.su.auxSince = some s.clk.now
        ∧ t.img.dev = s.img.dev ∧ t.coves = State.reset.coves ∧ t.hbm = State.reset.hbm ∧ t.pending = s.pending
    (s.pins.aux = false → s.pwrx.auxLost = false → ∃ t, exec .auxPowerOn s = .next t ∧ onAux t)
    ∧ ((s.pins.aux = true ∨ s.pwrx.auxLost = true) → exec .auxPowerOn s = .next s)
    ∧ (s.pwrx.auxLost = true → ∃ t, exec .auxInputReturn s = .next t ∧ onAux t)
    ∧ (s.pwrx.auxLost = false → exec .auxInputReturn s = .next s)
    ∧ (s.inStage 0 = true → s.clk.refOk = false → s.su.refLogged = false → s.su.stageAt + 1000000000 ≤ s.clk.now →
      ∃ t, exec .refclkAbsentAtS0 s = .next t ∧ t.su.state = 1 ∧ t.su.held = 0x1001 ∧ t.su.errCode = 0x1001 ∧ t.su.faultCode = 0x1001)
    ∧ ((s.inStage 0 = false ∨ s.clk.refOk = true ∨ s.su.refLogged = true ∨ s.clk.now < s.su.stageAt + 1000000000) → exec .refclkAbsentAtS0 s = .next s)
    ∧ (∀ a, s.inStage 0 = true → s.su.auxSince = some a →
      (s.clk.refOk = true → s.clk.neapSrc = false → a + 10000000 ≤ s.clk.now → ∃ t, exec .stageS0 s = .next t ∧ ended 0 0 t)
      ∧ ((s.clk.refOk = false ∨ s.clk.neapSrc = true ∨ s.clk.now < a + 10000000) → exec .stageS0 s = .next s))
    ∧ (∀ (f : S2Findings) ok w l5 l7 r7 t8 s8 l8 l9,
      ∀ p ∈ ([(0, .stageS0), (1, .stageS1 ok), (2, .stageS2 f), (3, .stageS3), (4, .stageS4 ok), (5, .stageS5 l5), (6, .stageS6 w),
          (7, .stageS7 l7 r7), (8, .stageS8 t8 s8 l8), (9, .stageS9 l9), (10, .stageS10)] : List (Nat × Instr)),
        s.inStage p.1 = false → exec p.2 s = .next s)
    ∧ (s.inStage 11 = false → s.inStage 10 = false → exec .stageS11 s = .next s)
    ∧ (s.inStage 1 = true → (∃ t, exec (.stageS1 true) s = .next t ∧ ended 1 0 t) ∧ ∃ t, exec (.stageS1 false) s = .next t ∧ stopped 1 0x1010 t)
    ∧ (∀ f : S2Findings, s.inStage 2 = true →
      (f.pufOk = false → ∃ t, exec (.stageS2 f) s = .next t ∧ stopped 2 0xC010 t)
      ∧ (f.pufOk = true → ∃ t, exec (.stageS2 f) s = .next t ∧ t.ident.derived = true ∧ t.ident.pub = f.pub.take 57
          ∧ (stopped 2 0xD020 t ∨ (ended 2 0 t ∧ ((t.img.slot = some 0 ∧ t.img.slotAValid = true) ∨ (t.img.slot = some 1 ∧ t.img.slotBValid = true))))))
    ∧ (s.inStage 3 = true → ∃ t, exec .stageS3 s = .next t ∧ ended 3 (if t.su.variantOk then 0 else 0xD030) t ∧ t.su.variantSet = true
        ∧ (s.ident.certified = false → t.su.variantOk = false)
        ∧ (t.su.variantOk = false → t.su.maxOp = 4 ∧ t.su.contW = 1100 ∧ (s.su.variantSet = false → t.pwr.opTarget = 4)))
    ∧ (s.inStage 4 = true → ∀ reg,
      ((s.pins.main = false ∨ s.pins.mateN = true) → ∃ t, exec (.stageS4 reg) s = .next t ∧ t.su.stage = 4 ∧ t.su.state = 1 ∧ t.su.held = 0x1020
          ∧ t.pins = s.pins)
      ∧ (s.pins.main = true → s.pins.mateN = false → reg = false → ∃ t, exec (.stageS4 reg) s = .next t ∧ stopped 4 0x1021 t)
      ∧ (s.pins.main = true → s.pins.mateN = false → reg = true → ∃ t, exec (.stageS4 reg) s = .next t ∧ ended 4 0 t
          ∧ t.pins.swClosed = true ∧ t.pwrx.mainRegs = true
          ∧ ∀ p : Fin 17, (s.pll p).state ≠ .stable → (t.pll p).state = .acquiring ∧ (t.pll p).enabledAt = s.clk.now))
    ∧ (s.inStage 5 = true → ∀ l : List (Fin 17),
        let settled : Prop := ∀ p : Fin 17, (p ∈ l → (s.pll p).failed = true ∧ (s.pll p).state ≠ .stable) ∧ (p ∉ l → (s.pll p).state = .stable)
        let stop : Prop := 16 ∈ l ∨ 0 ∈ l ∨ 1 ∈ l ∨ 2 ∈ l ∨ 3 ∈ l ∨ (4 ∈ l ∧ 5 ∈ l)
        (settled → ¬ stop → ∃ t, exec (.stageS5 l) s = .next t ∧ ended 5 0 t ∧ t.clk.cnOn = true ∧ t.net.valid0 = true ∧ t.clk.plls = s.clk.plls)
        ∧ (settled → stop → ∃ t, exec (.stageS5 l) s = .next t ∧ stopped 5 0x1030 t)
        ∧ (¬ settled → exec (.stageS5 l) s = .next s))
    ∧ (s.inStage 6 = true → ∀ w, ∃ t code, exec (.stageS6 w) s = .next t ∧ ended 6 code t ∧ (t.half 0).target = 4 ∧ (t.half 1).target = 4
        ∧ (∀ h : Fin 2, (s.half h).changing = false → (t.half h).changing = ((s.half h).op != 4))
        ∧ ((∀ k : Fin 8, w.getLsbD k = true ∧ (s.pll (6 + k)).state = .stable) → code = 0)
        ∧ ∀ k, k < 8 → (w.getLsbD k = true → (s.pll (6 + k)).state = .stable → (t.stack k).trained = true)
          ∧ ((w.getLsbD k = false ∨ (s.pll (6 + k)).state ≠ .stable) → (t.stack k).disabled = true ∧ code = 0x8022))
    ∧ (s.inStage 7 = true → ∀ l r,
        (s.bothAt 4 = true → s.su.stageAt + 17500000000 ≤ s.clk.now → ∃ t, exec (.stageS7 l r) s = .next t ∧ ended 7 (if l.isEmpty then 0 else 0x1040) t
          ∧ (t.half 0).target = s.su.maxOp ∧ (t.half 1).target = s.su.maxOp)
        ∧ ((s.bothAt 4 = false ∨ s.clk.now < s.su.stageAt + 17500000000) → exec (.stageS7 l r) s = .next s))
    ∧ (s.inStage 8 = true → ∀ t8 s8 l8,
        (s.bothAt s.su.maxOp = true → s.su.stageAt + 4000000000 ≤ s.clk.now → ∃ t code, exec (.stageS8 t8 s8 l8) s = .next t ∧ ended 8 code t
          ∧ (t.half 0).target = 0 ∧ (t.half 1).target = 0
          ∧ code = (if t8 ≠ [] then 0x1041 else if s8 ≠ [] then 0x1043 else if l8 ≠ [] then 0x1042 else 0)
          ∧ (l8 = [] → ∀ y ∈ s8, (t.seamPath y).disabled = true))
        ∧ ((s.bothAt s.su.maxOp = false ∨ s.clk.now < s.su.stageAt + 4000000000) → exec (.stageS8 t8 s8 l8) s = .next s))
    ∧ (s.inStage 9 = true → ∀ l : List (Fin 800),
        ((∀ c ∈ l, c.val ∈ s.su.standbyAgain) → ∃ t, exec (.stageS9 l) s = .next t ∧ ended 9 (if l.isEmpty then 0 else 0x1050) t ∧ t.su.s10At = s.clk.now
          ∧ t.su.cargoRead = none ∧ t.su.s11Done = false
          ∧ ∀ p, p < 2 → let bs := (nth s.img.ports p).getD []
            let on := (BitVec.ofNat 8 (fieldLe bs 0 1)).getLsbD 0
            (t.port p).enabled = on ∧ (on = true → (t.port p).training = true))
        ∧ ((∃ c ∈ l, c.val ∉ s.su.standbyAgain) → exec (.stageS9 l) s = .next { s with su := { s.su with
            standbyAgain := (s.su.standbyAgain ++ l.map Fin.val).eraseDups } }))
    ∧ (s.inStage 10 = true → (s.port 0).training = false → (s.port 1).training = false →
      ((s.port 0).up = false → (s.port 1).up = false → ∃ t, exec .stageS10 s = .next t ∧ t.su.stage = 10 ∧ t.su.state = 1 ∧ t.su.held = 0x1060
          ∧ t.su.faultCode = 0x1060)
      ∧ (((s.port 0).up = true ∨ (s.port 1).up = true) → ∃ t, exec .stageS10 s = .next t
          ∧ (s.su.s11Done = true → inService t)
          ∧ (s.su.s11Done = false → ∃ code, ended 10 code t ∧ (s.su.held ≠ 0 → code = 0)
              ∧ ((∀ p, p < 2 → (s.port p).enabled = true → (s.port p).width = 3) → code = 0))))
    ∧ (∀ off len, s.img.cargo = some (off, len) → (s.inStage 10 = true ∨ s.inStage 11 = true) → s.su.cargoRead = none → s.su.s11Done = false →
      (5 * len ≤ 2 * (s.clk.now - s.su.s10At) → ∃ t, exec .cargoReadComplete s = .next t ∧ t.su.cargoRead =
          some (if off + len ≤ slotBytes ∧ digest32 s.cargoBytes = s.img.cargoDigest then 0 else 0xD040))
      ∧ (2 * (s.clk.now - s.su.s10At) < 5 * len → exec .cargoReadComplete s = .next s))
    ∧ (s.img.cargo = none → exec .cargoReadComplete s = .next s)
    ∧ (s.su.s11Done = false → (s.img.cargo = none ∨ s.su.cargoRead.isSome = true) →
      (s.inStage 11 = true → ∃ t, exec .stageS11 s = .next t ∧ inService t ∧ t.su.s11Done = true ∧ t.rot.interval = s.img.module.rotInterval
          ∧ t.clk.slackUs = s.img.module.slackUs
          ∧ t.pwr.capW = if s.img.module.capW = 0xFFFF then s.su.contW else min s.img.module.capW s.su.contW)
      ∧ (s.inStage 10 = true → s.su.held = 0x1060 → ∃ t, exec .stageS11 s = .next t ∧ t.su.s11Done = true ∧ t.su.stage = 10
          ∧ t.su.state = s.su.state))
    ∧ (∀ (l : List (Fin 800)) (n d : Nat), s.inStage n = true → s.su.state = 0 → stageLimit n = some d →
      let start := if n = 11 then s.su.s10At else s.su.limitAt
      (start + d ≤ s.clk.now → n ∈ [1, 2, 3, 4, 5, 6, 11] → ∃ t, exec (.stageLimitExpiry l) s = .next t ∧ stopped n 0x1061 t)
      ∧ (start + d ≤ s.clk.now → n ∈ [7, 8, 9] → ∃ t, exec (.stageLimitExpiry l) s = .next t ∧ ended n (if l.isEmpty then 0 else 0x1061) t)
      ∧ (s.clk.now < start + d → exec (.stageLimitExpiry l) s = .next s))

/-- Resets and recovery of a bay (R449 to R461). A reset that may take effect discards what is uncommitted, records its code and step and puts
every core back to its start; quiescence clears registers and local data memory; recovery reloads the bay, waits for its seam paths, and ends with the
bay in service and its window open, or with the bay stopped by the code of what failed; a part with a bad digest is sent once more. The window closes in
time. A finding of the eddy detector that stands for 200 µs times the armed sets stops the bay with 0xE010; in a cove under test it fails the test and
fences the cove. -/
def Obligations.ResetsAndRecoveryTakeEffect : Prop :=
  ∀ (s : State) (b : Fin 16),
    let y := s.bay b
    let h := y.hang
    (s.resetMay b = false → exec (.resetEntry b) s = .next s)
    ∧ (s.resetMay b = true → ∃ t, exec (.resetEntry b) s = .next t
        ∧ (t.bay b).stopped = none ∧ (t.bay b).st.live = [] ∧ (t.bay b).st.committed = y.st.committed ∧ (t.bay b).st.next = y.st.committed + 1
        ∧ (t.bay b).hang.resetting = true ∧ (t.bay b).hang.recovering = true ∧ (t.bay b).hang.asked = none
        ∧ (t.bay b).hang.resetRec = y.stopped.getD 0xE001 ∧ (t.bay b).hang.resetStep = BitVec.ofNat 48 y.st.recordStep
        ∧ (t.bay b).hang.resets = satAdd32 h.resets 1 ∧ (t.bay b).hang.entryAt = s.clk.elapsed
        ∧ (∀ c ∈ s.physCoves b, ∀ k, ((t.cove c).core k).state = 0 ∧ ((t.cove c).core k).pc = 0 ∧ ((t.cove c).core k).wait = none)
        ∧ (∀ d, d ≠ b.val → t.bay d = s.bay d) ∧ t.sessions = s.sessions)
    ∧ (h.resetting = true → h.entryAt + 130000 ≤ s.clk.elapsed → ∃ t, exec (.recoveryQuiescence b) s = .next t
        ∧ (t.bay b).hang = { h with resetting := false } ∧ ChangesOnly [.coves, .bays] s t
        ∧ ∀ c ∈ s.physCoves b, ∀ k, ((t.cove c).core k).g = {} ∧ ((t.cove c).core k).v = {} ∧ ((t.cove c).core k).dmem = {})
    ∧ ((h.resetting = false ∨ s.clk.elapsed < h.entryAt + 130000) → exec (.recoveryQuiescence b) s = .next s)
    ∧ (∀ (bad : List (Fin 720)) (poison : Bool),
        let halts (code : Code) : Prop := ∃ t, exec (.recoveryComplete b bad poison) s = .next t ∧ (t.bay b).stopped = some code
          ∧ (t.bay b).hang.recovering = false ∧ (t.bay b).hang.askers = [] ∧ (t.bay b).run = none
        let ends : Prop := ∃ t, exec (.recoveryComplete b bad poison) s = .next t
          ∧ (t.bay b).hang.recovering = false ∧ (t.bay b).hang.window = true ∧ (t.bay b).hang.windowAt = none
          ∧ (t.bay b).hang.askers = [] ∧ (t.bay b).run = none ∧ (t.bay b).berths = {}
          ∧ (h.reloaded = false → ∀ p, y.program = some p → y.unloads = [] → s.firstShape b p = some (t.bay b).shape)
        ((h.recovering = false ∨ h.resetting = true ∨ s.parked = true ∨ s.clk.refOk = false) → exec (.recoveryComplete b bad poison) s = .next s)
        ∧ (h.recovering = true → h.resetting = false → s.parked = false → s.clk.refOk = true → h.reloaded = true →
          ((y.program = none ∨ s.seamReady b = true) → ends)
          ∧ (y.program.isSome = true → s.seamReady b = false → exec (.recoveryComplete b bad poison) s = .next s))
        ∧ (h.recovering = true → h.resetting = false → s.parked = false → s.clk.refOk = true → h.reloaded = false →
          (poison = true → y.program.isSome = true → halts 0x8020)
          ∧ ((poison = false ∨ y.program = none) →
            ((∃ c ∈ bad, c.val ∈ h.retries) → halts 0xE020)
            ∧ (bad ≠ [] → (∀ c ∈ bad, c.val ∉ h.retries) → ∃ t, exec (.recoveryComplete b bad poison) s = .next t ∧ ChangesOnly [.bays] s t
                ∧ (t.bay b).hang.retries = (h.retries ++ bad.map Fin.val).eraseDups ∧ (t.bay b).hang.recovering = true)
            ∧ (bad = [] → (∀ p, y.program = some p → s.firstShape b p = none → halts 0xB050)
              ∧ (∀ t, s.reload b = some t → let t1 := t.realign b
                  ((y.program = none ∨ t1.seamReady b = true) → ends)
                  ∧ (y.program.isSome = true → t1.seamReady b = false → exec (.recoveryComplete b bad poison) s = .next (t1.modBay b fun y =>
                      { y with hang := { y.hang with reloaded := true } }))))))
        ∧ ((y.program = none ∨ ∃ p, y.program = some p ∧ (s.firstShape b p).isSome = true) → (s.reload b).isSome = true))
    ∧ (∀ w, h.window = true → h.windowAt = some w →
        (w + 4 * s.stepNs b ≤ s.clk.elapsed → ∃ t, exec (.recoveryWindowTimeout b) s = .next t ∧ ChangesOnly [.bays] s t
          ∧ (t.bay b).hang = { h with window := false, windowAt := none, eddyLast := [] })
        ∧ (s.clk.elapsed < w + 4 * s.stepNs b → exec (.recoveryWindowTimeout b) s = .next s))
    ∧ ((h.window = false ∨ h.windowAt = none) → exec (.recoveryWindowTimeout b) s = .next s)
    ∧ (h.window = false → exec (.eddyPass (.bay b)) s = .next s)
    ∧ (h.window = true →
        let set := s.eddyFinding (.bay b)
        let now := set.map (s.eddyMember (.bay b))
        (set ≠ [] → now = h.eddyLast → h.eddyAt + 200000 * s.armedSets ≤ s.clk.elapsed → ∃ t, exec (.eddyPass (.bay b)) s = .next t
          ∧ (t.bay b).stopped = some 0xE010 ∧ (t.bay b).hang.eddyCode = 0xE010 ∧ (t.bay b).hang.eddyNew = true
          ∧ (t.bay b).hang.eddySize = BitVec.ofNat 14 set.length ∧ (t.bay b).hang.window = false)
        ∧ (now = h.eddyLast → (set = [] ∨ s.clk.elapsed < h.eddyAt + 200000 * s.armedSets) → ∃ t, exec (.eddyPass (.bay b)) s = .next t ∧ ChangesOnly [.bays] s t
          ∧ (t.bay b).hang = h)
        ∧ (now ≠ h.eddyLast → ∃ t, exec (.eddyPass (.bay b)) s = .next t ∧ ChangesOnly [.bays] s t
          ∧ (t.bay b).hang = { h with eddyLast := now, eddyAt := s.clk.elapsed } ∧ (t.bay b).stopped = y.stopped))
    ∧ ∀ c : Fin 800,
        let set := s.eddyFinding (.cove c)
        let now := set.map (s.eddyMember (.cove c))
        let armed : Bool := s.inStage 7 || ((s.field (fieldOf c)).cove == some c.val && (s.field (fieldOf c)).phase == 5
          && (s.field (fieldOf c)).result == 0)
        (armed = false → exec (.eddyPass (.cove c)) s = .next s)
        ∧ (armed = true → set ≠ [] → now = (s.coveTest c).eddyLast → (s.coveTest c).eddyAt + 200000 * s.armedSets ≤ s.clk.elapsed →
            exec (.eddyPass (.cove c)) s = .next ((s.eddyFails c).modCoveTest c fun t => { t with eddyLast := [] }))
        ∧ (armed = true → now ≠ (s.coveTest c).eddyLast → ∃ t, exec (.eddyPass (.cove c)) s = .next t ∧ ChangesOnly [.rot] s t
            ∧ t.coveTest c = { s.coveTest c with eddyLast := now, eddyAt := s.clk.elapsed })
        ∧ (armed = true → now = (s.coveTest c).eddyLast → (set = [] ∨ s.clk.elapsed < (s.coveTest c).eddyAt + 200000 * s.armedSets) →
            ∃ t, exec (.eddyPass (.cove c)) s = .next t ∧ ChangesOnly [.rot] s t ∧ t.coveTest c = s.coveTest c)

/-- The log, the non-volatile write window and the repair journal (R432, R472, R488 to R490). The entry that MG_LOG_SEL names is presented from
Headland's memory or fetched from the devices; the oldest entry and the oldest journal entry not yet copied go to both devices; an accepted write
of the window reaches the devices when it completes, another is refused with its code; a compaction rewrites first one device's journal, then the
other's. A requester that is not the module owner changes nothing. -/
def Obligations.ManagementWritesTakeEffect : Prop :=
  ∀ (s : State) (who : Requester),
    let m := s.mg
    let holds (t : State) (a : Nat) (bs : List Byte) : Prop := ∀ i, i < bs.length → memByte t.img.dev (a + i) = bs.getD i 0
    (∀ v : BitVec 32,
      (s.isOwner who = false → exec (.mgLogSelWrite who v) s = .next s)
      ∧ (s.isOwner who = true → ∃ t, exec (.mgLogSelWrite who v) s = .next t ∧ ChangesOnly [.mg] s t ∧ t.mg.sel = v
          ∧ (∀ e, s.logEntry v.toNat = some e → t.mg.valid = true ∧ t.mg.pending = false ∧ t.mg.data = BitVec.ofNat 512 (leNat e.bytes))
          ∧ (s.logEntry v.toNat = none → t.mg.valid = false ∧ t.mg.pending = s.inRing v.toNat ∧ t.mg.len = 0 ∧ t.mg.data = 0)))
    ∧ (m.pending = false → exec .logFetchComplete s = .next s)
    ∧ (m.pending = true → ∃ t, exec .logFetchComplete s = .next t ∧ ChangesOnly [.mg] s t ∧ t.mg.pending = false
        ∧ t.mg.valid = s.inRing m.sel.toNat
        ∧ (s.inRing m.sel.toNat = true → t.mg.data = BitVec.ofNat 512 (leNat (memBytes s.img.dev (devKey 0 (logSlot m.sel.toNat)) 64))))
    ∧ (let n := max (m.copied + 1) (m.logHead + 1 - m.log.length)
      (s.logEntry n = none → exec .logDeviceCopy s = .next s)
      ∧ ∀ e, s.logEntry n = some e → ∃ t, exec .logDeviceCopy s = .next t ∧ ChangesOnly [.img, .mg] s t ∧ t.mg = { m with copied := n }
          ∧ e.bytes.length = 64 ∧ ∀ d, d < 2 → holds t (devKey d (logSlot n)) e.bytes)
    ∧ (s.nvTakes who false = false → exec (.nvGoOwnerRecord who) s = .next s)
    ∧ (s.nvTakes who true = false → exec (.nvGoSlotChunk who) s = .next s)
    ∧ (s.nvTakes who false = true →
      let good := ownerValid (s.validOwners s.ident.pub) s.nvBytes s.ident.pub && decide (s.ownerSeq < fieldLe s.nvBytes 4 8)
      (good = true → ∃ t, exec (.nvGoOwnerRecord who) s = .next t ∧ ChangesOnly [.mg] s t ∧ t.mg.nvState = 1 ∧ t.mg.nvGo = true ∧ t.mg.nvCode = 0
          ∧ ∀ w ∈ t.mg.nvTodo, w.2 = s.nvBytes ∧ ∃ d o, d < 2 ∧ s.freeOwnerSlot d = some o ∧ w.1 = devKey d o)
      ∧ (good = false → ∃ t, exec (.nvGoOwnerRecord who) s = .next t ∧ t.mg = { m with nvState := 3, nvCode := 0xC032, nvGo := false }
          ∧ t.ident = { s.ident with lastErr := 0xC032 } ∧ t.img = s.img))
    ∧ (s.nvTakes who true = true →
      let i := if m.nvTarget.getLsbD 23 then 1 else 0
      let chunk := bits m.nvTarget 1 22
      ((s.img.slot = some i ∨ 4161536 ≤ chunk) → ∃ t, exec (.nvGoSlotChunk who) s = .next t ∧ ChangesOnly [.mg] s t
          ∧ t.mg = { m with nvState := 3, nvCode := 0xD060, nvGo := false })
      ∧ (s.img.slot ≠ some i → chunk < 4161536 → ∃ t, exec (.nvGoSlotChunk who) s = .next t ∧ ChangesOnly [.mg] s t ∧ t.mg.nvState = 1
          ∧ t.mg.nvTodo = [(devKey i (slotStart + chunk * 256), s.nvBytes)]))
    ∧ (m.nvState ≠ 1 → exec .nvWriteComplete s = .next s)
    ∧ (m.nvState = 1 → ∃ t, exec .nvWriteComplete s = .next t ∧ ChangesOnly [.img, .mg] s t
        ∧ t.mg = { m with nvState := 2, nvGo := false, nvTodo := [] } ∧ (∀ a bs, m.nvTodo = [(a, bs)] → holds t a bs)
        ∧ (∀ a bs a2 bs2, m.nvTodo = [(a, bs), (a2, bs2)] → (a + bs.length ≤ a2 ∨ a2 + bs2.length ≤ a) → holds t a bs ∧ holds t a2 bs2))
    ∧ (s.su.jTodo = [] → exec .journalWrite s = .next s)
    ∧ (∀ e rest, s.su.jTodo = e :: rest →
      (s.pins.aux = false → exec .journalWrite s = .next s)
      ∧ (s.pins.aux = true → ∃ t, exec .journalWrite s = .next t ∧ ChangesOnly [.img, .su] s t ∧ t.su.jTodo = rest
          ∧ ((s.journalOn 0).2 + e.bytes.length ≤ journalBytes → holds t (devKey 0 (journalStart + (s.journalOn 0).2)) e.bytes)
          ∧ (let s1 := s.appendTo 0 e
            (s1.journalOn 1).2 + e.bytes.length ≤ journalBytes → holds t (devKey 1 (journalStart + (s1.journalOn 1).2)) e.bytes)))
    ∧ (s.su.compacting = true → s.pins.aux = true → ∃ t, exec .journalCompaction s = .next t ∧ ChangesOnly [.img, .su] s t
        ∧ t.su.compacting = false ∧ t.su.journal = s.su.journal
        ∧ holds t (devKey 0 journalStart) ((s.su.journal.filter fun e => !s.su.jTodo.contains e).flatMap JEntry.bytes))
    ∧ (s.su.compacting = false → s.pins.aux = true → s.su.jTodo = [] →
      4 * (max (s.journalOn 0).2 (s.journalOn 1).2) ≥ 3 * journalBytes → ∃ t, exec .journalCompaction s = .next t
        ∧ ChangesOnly [.img, .su] s t ∧ t.su.compacting = true ∧ t.su.journal = s.snapshot
        ∧ holds t (devKey 1 journalStart) (s.snapshot.flatMap JEntry.bytes))
    ∧ ((s.pins.aux = false ∨ (s.su.compacting = false ∧ (s.su.jTodo ≠ [] ∨
        4 * (max (s.journalOn 0).2 (s.journalOn 1).2) < 3 * journalBytes))) → exec .journalCompaction s = .next s)

/-- The pins and the TAP (R496, R497, R501 to R504). MATE_N high with the switch closed sends its last notice with 0x3035 and begins the way to the switch's
opening, or opens it at once where the module is parked already; low for 100 ms it lets S4 go on; with the hold-up running neither does anything. The TAP answers while the auxiliary input is present: IDCODE captures 0x10812DB3, SAMPLE/PRELOAD the pins, EXTEST drives the pins
from the boundary register until another instruction is loaded, HL_ACCESS reads a register with Headland's rights, MOD_RESET starts a reset. TRST_N
low selects IDCODE, which the model takes from IEEE 1149.1. -/
def Obligations.PinsAndTapTakeEffect : Prop :=
  ∀ (s : State),
    let p := s.pins
    (∀ (c : BitVec 10) (dr : BitVec 64),
      ∀ i ∈ [Instr.mateNHigh, .mateNLow, .extest c, .idcode, .samplePreload, .bypass, .hlAccess dr, .hlAccessComplete, .modReset],
        p.aux = false → exec i s = .next s)
    ∧ (p.aux = true →
      (s.auxOk = false → exec .mateNHigh s = .next s ∧ exec .mateNLow s = .next s)
      ∧ (s.auxOk = true →
        ((p.swClosed = false ∨ p.mateAt.isSome = true) → exec .mateNHigh s = .next { s with pins := { p with mateN := true } })
        ∧ (p.swClosed = true → p.mateAt = none → s.parked = true → ∃ t, exec .mateNHigh s = .next t
            ∧ t.pins = { p with mateN := true, swClosed := false } ∧ t.pwrx.mainRegs = false ∧ t.hbm = {})
        ∧ (p.swClosed = true → p.mateAt = none → s.parked = false → ∃ t, exec .mateNHigh s = .next t
            ∧ t.pins = { p with mateN := true, mateAt := some s.clk.now } ∧ t.pwr.errCode = 0x3035 ∧ t.hbm = s.hbm
            ∧ (∀ q : Fin 2, (t.portQ q).departing = none))
        ∧ ∃ t, exec .mateNLow s = .next t ∧ ChangesOnly [.pwr, .su, .pins] s t ∧ t.pins = { p with mateN := false }
          ∧ t.pwr.parks.contains .mate = false ∧ (s.su.stage = 4 → s.su.state = 1 → t.su.state = 0)))
    ∧ exec .jtagTapReset s = .next { s with pins := { p with tapIr := 1, tapReset := true, extest := false } }
    ∧ (p.aux = true →
      (∀ c : BitVec 10, ∃ t, exec (.extest c) s = .next t ∧ t = { s with pins := { p with tapIr := 0, tapReset := false, extest := true, boundary := c } }
          ∧ ∀ i, i < 5 → t.pinLevel i = (!c.getLsbD (2 * i + 1) || c.getLsbD (2 * i)))
      ∧ exec .idcode s = .next { s with pins := { p with tapIr := 1, tapReset := false, extest := false, capture := 0x10812DB3 } }
      ∧ (∃ t, exec .samplePreload s = .next t ∧ t = { s with pins := { p with tapIr := 2, tapReset := false, extest := false, boundary := t.pins.boundary } }
          ∧ (∀ i, i < 5 → t.pins.boundary.getLsbD (2 * i) = s.statusPins.getLsbD i)
          ∧ ∀ i, i < 4 → t.pins.boundary.getLsbD (2 * i + 1) = true)
      ∧ exec .bypass s = .next { s with pins := { p with tapIr := 0x3F, tapReset := false, extest := false } }
      ∧ (∀ dr : BitVec 64, ∃ t, exec (.hlAccess dr) s = .next t ∧ t.ident = { s.ident with jtagUsed := true } ∧ ChangesOnly [.ident, .pins] s t
          ∧ t.pins.hlOff = dr.setWidth 28 ∧ t.pins.hlBusy = true ∧ t.pins.hlValid = false ∧ t.pins.hlDenied = false ∧ t.pins.hlData = 0)
      ∧ ((p.hlBusy = false ∨ s.headlandWaits = true) → exec .hlAccessComplete s = .next s)
      ∧ (p.hlBusy = true → s.headlandWaits = false →
        let a := p.hlOff.toNat
        ((a % 4 ≠ 0 ∨ (s.pwrx.mainRegs = false ∧ ((blockAt a).any fun x => !x.1.alwaysOn) = true)) → ∃ t, exec .hlAccessComplete s = .next t ∧ t.pins = { p with hlBusy := false, hlValid := false, hlDenied := true, hlData := 0 }
            ∧ ChangesOnly [.pins] s t)
        ∧ (a % 4 = 0 → (s.pwrx.mainRegs = true ∨ ((blockAt a).any fun x => !x.1.alwaysOn) = false) → ∃ t, exec .hlAccessComplete s = .next t ∧ t.pins.hlBusy = false ∧ t.pins.hlValid = true
            ∧ t.pins.hlDenied = false ∧ t.pins.hlData = (s.readAt .headland a).1))
      ∧ (∃ t, exec .modReset s = .next t ∧ t.ident.jtagUsed = true
          ∧ (s.su.state = 3 → t.su.stage = 1 ∧ t.su.state = 0 ∧ t.su.stageAt = s.clk.now ∧ t.pwrx.mainRegs = false ∧ t.img.dev = s.img.dev)
          ∧ (s.su.state ≠ 3 → t.jetty.resetting = true ∧ ∃ d, d.reason = 0x9030 ∧ d.scope = 1 ∧ ∀ q : Fin 2, (t.portQ q).departing = some d)))

/-- A step takes the command at the front of the queue and is its effect with the rest of the queue. With no command waiting a nanosecond passes,
which is the model's choice (log entry 1): the clock goes on, with the auxiliary input module time and what runs by itself go on too (log entries
146, 160, 162, 164), and no image or non-volatile device changes; HBM, pins and the main regulators change only while the auxiliary input's hold-up runs or the
hot-swap switch is about to open, and with the hold-up's second over the module goes dark. Without the auxiliary input nothing but the clock goes on. -/
def Obligations.StepRunsTheFrontCommand : Prop :=
  (∀ (s : State) (c : Instr) (rest : List Instr),
    step { s with pending := c :: rest } = exec c { s with pending := rest })
  ∧ ∀ s : State, s.pending = [] → ∃ t, step s = .next t ∧ t.pending = []
      ∧ t.img = s.img
      ∧ (s.pwrx.holdup = none → s.pins.mateAt = none → t.hbm = s.hbm ∧ t.pins = s.pins ∧ t.pwrx.mainRegs = s.pwrx.mainRegs)
      ∧ (∀ a, s.pins.aux = true → s.pins.mateAt = none → s.pwrx.holdup = some a → a + 1000000000 ≤ s.clk.now + 1 →
          t.pins.aux = false ∧ t.pwrx.mainRegs = false ∧ t.hbm = {})
      ∧ (s.pins.aux = false → t.clk = { s.clk with now := s.clk.now + 1 } ∧ ChangesOnly [.clk, .cut] s t)
      ∧ (s.pins.aux = true → s.jetty.regWait = [] → t.clk.now = s.clk.now + 1 ∧ (s.clk.neapSrc = false → t.clk.elapsed = s.clk.elapsed + 1))

/-- At reset no command waits, every memory is in its canonical form, and the registers whose reset value a table of the spec gives other than
zero read so: MG_ID, SU_STATUS, CLK_SLEEP, CLK_LAST_ERR, ROT_CTRL, PWR_STATUS, HB_CTRL and HB_POOL, BRK_CTRL and BRK_LAST_FAIL, CN_EPOCH. Its other
values are zero or the model's choice (log entries 4 and 5). -/
def Obligations.ResetIsAsTheTablesSay : Prop :=
  State.reset.pending = [] ∧ State.reset.memWf = true ∧ State.reset.covesWf = true
  ∧ ∀ p ∈ ([(0x0000, 0x00010812), (0x0100, 0x200), (0x0304, 0x000A000A), (0x0310, 0x001F0000), (0x0400, 0x2D0), (0x2000, 0x1C), (0x10004, 1), (0x1000C, 0x1800),
      (0x1000004, 1), (0x100003C, 0x3FFF), (0x100400C, 0x20000)] : List (Nat × Word)), (State.reset.readAt .headland p.1).1 = p.2

/-- A step keeps HBM and the non-volatile devices in their canonical form, whatever command it runs and from whatever state: no command lists a byte
twice, out of order, or equal to what an unlisted address reads. That a memory has one form is the model's choice (log entry 3). -/
def Obligations.StepsKeepMemoriesCanonical : Prop :=
  ∀ s t : State, s.memWf = true → step s = .next t → t.memWf = true

/-- What a command leaves alone, over all commands. Every command answers a next state with the queue as it was; HBM changes only in the commands that
store, load or unpower it, the non-volatile devices only in the four that write them; an instruction of a pebble core changes no HBM, module
time, queue pair, regulator, image or pin, no time of a clock, and but for MRD no cap, identity or latch. -/
def Obligations.CommandsLeaveOtherPartsAlone : Prop :=
  ∀ (s : State) (i : Instr), ∃ t, exec i s = .next t ∧ t.pending = s.pending
    ∧ (mayWriteHbm i = false → t.hbm = s.hbm)
    ∧ (mayWriteDevices i = false → t.img.dev = s.img.dev)
    ∧ (∀ r, instrCore i = some r →
        (t.hbm = s.hbm ∧ t.mt = s.mt ∧ t.qps = s.qps ∧ t.pwrx = s.pwrx ∧ t.img = s.img ∧ t.pins = s.pins
          ∧ t.clk.now = s.clk.now ∧ t.clk.elapsed = s.clk.elapsed)
        ∧ ((∀ w, i ≠ .mrd r w) → t.pwr = s.pwr ∧ t.ident = s.ident ∧ t.latches = s.latches ∧ t.free = s.free))
end

