-- ==== Sys2Proof/Laws/Exec.lean ====
section
/-!
SUPPORT. One equation for each command: what `exec` answers for it.
-/

namespace Sys2Proof.Machine

theorem exec_registerWrite (who : Requester) (addr : BitVec 48) (value : BitVec 32) (s : State) :
    exec (.registerWrite who addr value) s = execRegisterWrite who addr value s := rfl
theorem exec_stepBoundary (bay : Fin 16) (s : State) :
    exec (.stepBoundary bay) s = execStepBoundary bay s := rfl
theorem exec_stepStart (bay : Fin 16) (s : State) :
    exec (.stepStart bay) s = execStepStart bay s := rfl
theorem exec_commit (bay : Fin 16) (n : CommitOf) (s : State) :
    exec (.commit bay n) s = execCommit bay n s := rfl
theorem exec_commitAck (bay : Fin 16) (n : BitVec 48) (stack : Fin 8) (badOutput : List (BitVec 32)) (s : State) :
    exec (.commitAck bay n stack badOutput) s = execCommitAck bay n stack badOutput s := rfl
theorem exec_rollback (bay : Fin 16) (n : BitVec 48) (s : State) :
    exec (.rollback bay n) s = execRollback bay n s := rfl
theorem exec_voteDeadline (bay : Fin 16) (n : BitVec 48) (s : State) :
    exec (.voteDeadline bay n) s = execVoteDeadline bay n s := rfl
theorem exec_replayStart (bay : Fin 16) (s : State) :
    exec (.replayStart bay) s = execReplayStart bay s := rfl
theorem exec_stepCommitLoRead (who : Requester) (bay : Fin 16) (s : State) :
    exec (.stepCommitLoRead who bay) s = execStepCommitLoRead who bay s := rfl
theorem exec_breakerAccept (cove : Fin 800) (s : State) :
    exec (.breakerAccept cove) s = execBreakerAccept cove s := rfl
theorem exec_breakerOpStart (cove : Fin 800) (lost : List (Fin 16)) (parity : Option (Fin 16 × Fin 2048)) (s : State) :
    exec (.breakerOpStart cove lost parity) s = execBreakerOpStart cove lost parity s := rfl
theorem exec_breakerOpComplete (cove : Fin 800) (upset : List (Nat × BitVec 32)) (convBad : Bool) (s : State) :
    exec (.breakerOpComplete cove upset convBad) s = execBreakerOpComplete cove upset convBad s := rfl
theorem exec_governorTick (cove : Fin 800) (fillBad : Bool) (s : State) :
    exec (.governorTick cove fillBad) s = execGovernorTick cove fillBad s := rfl
theorem exec_toleranceWrite (who : Requester) (cove : Fin 800) (entry : Fin 16) (isAbs : Bool) (value : BitVec 32) (s : State) :
    exec (.toleranceWrite who cove entry isAbs value) s = execToleranceWrite who cove entry isAbs value s := rfl
theorem exec_brkFillEn (who : Requester) (cove : Fin 800) (v : Bool) (s : State) :
    exec (.brkFillEn who cove v) s = execBrkFillEn who cove v s := rfl
theorem exec_brkInjCk (who : Requester) (cove : Fin 800) (s : State) :
    exec (.brkInjCk who cove) s = execBrkInjCk who cove s := rfl
theorem exec_nopInstruction (at_ : CoreRef) (w : RFields) (s : State) :
    exec (.nopInstruction at_ w) s = execNopInstruction at_ w s := rfl
theorem exec_fence (at_ : CoreRef) (w : RFields) (s : State) :
    exec (.fence at_ w) s = execFence at_ w s := rfl
theorem exec_stepend (at_ : CoreRef) (w : RFields) (s : State) :
    exec (.stepend at_ w) s = execStepend at_ w s := rfl
theorem exec_sinfo (at_ : CoreRef) (w : RFields) (s : State) :
    exec (.sinfo at_ w) s = execSinfo at_ w s := rfl
theorem exec_trap (at_ : CoreRef) (w : RFields) (s : State) :
    exec (.trap at_ w) s = execTrap at_ w s := rfl
theorem exec_add (at_ : CoreRef) (w : RFields) (s : State) :
    exec (.add at_ w) s = execAdd at_ w s := rfl
theorem exec_sub (at_ : CoreRef) (w : RFields) (s : State) :
    exec (.sub at_ w) s = execSub at_ w s := rfl
theorem exec_and (at_ : CoreRef) (w : RFields) (s : State) :
    exec (.and at_ w) s = execAnd at_ w s := rfl
theorem exec_or (at_ : CoreRef) (w : RFields) (s : State) :
    exec (.or at_ w) s = execOr at_ w s := rfl
theorem exec_xor (at_ : CoreRef) (w : RFields) (s : State) :
    exec (.xor at_ w) s = execXor at_ w s := rfl
theorem exec_sll (at_ : CoreRef) (w : RFields) (s : State) :
    exec (.sll at_ w) s = execSll at_ w s := rfl
theorem exec_srl (at_ : CoreRef) (w : RFields) (s : State) :
    exec (.srl at_ w) s = execSrl at_ w s := rfl
theorem exec_sra (at_ : CoreRef) (w : RFields) (s : State) :
    exec (.sra at_ w) s = execSra at_ w s := rfl
theorem exec_slt (at_ : CoreRef) (w : RFields) (s : State) :
    exec (.slt at_ w) s = execSlt at_ w s := rfl
theorem exec_sltu (at_ : CoreRef) (w : RFields) (s : State) :
    exec (.sltu at_ w) s = execSltu at_ w s := rfl
theorem exec_min (at_ : CoreRef) (w : RFields) (s : State) :
    exec (.min at_ w) s = execMin at_ w s := rfl
theorem exec_max (at_ : CoreRef) (w : RFields) (s : State) :
    exec (.max at_ w) s = execMax at_ w s := rfl
theorem exec_minu (at_ : CoreRef) (w : RFields) (s : State) :
    exec (.minu at_ w) s = execMinu at_ w s := rfl
theorem exec_maxu (at_ : CoreRef) (w : RFields) (s : State) :
    exec (.maxu at_ w) s = execMaxu at_ w s := rfl
theorem exec_mul (at_ : CoreRef) (w : RFields) (s : State) :
    exec (.mul at_ w) s = execMul at_ w s := rfl
theorem exec_mulh (at_ : CoreRef) (w : RFields) (s : State) :
    exec (.mulh at_ w) s = execMulh at_ w s := rfl
theorem exec_mulhu (at_ : CoreRef) (w : RFields) (s : State) :
    exec (.mulhu at_ w) s = execMulhu at_ w s := rfl
theorem exec_div (at_ : CoreRef) (w : RFields) (s : State) :
    exec (.div at_ w) s = execDiv at_ w s := rfl
theorem exec_divu (at_ : CoreRef) (w : RFields) (s : State) :
    exec (.divu at_ w) s = execDivu at_ w s := rfl
theorem exec_rem (at_ : CoreRef) (w : RFields) (s : State) :
    exec (.rem at_ w) s = execRem at_ w s := rfl
theorem exec_remu (at_ : CoreRef) (w : RFields) (s : State) :
    exec (.remu at_ w) s = execRemu at_ w s := rfl
theorem exec_addi (at_ : CoreRef) (w : IFields) (s : State) :
    exec (.addi at_ w) s = execAddi at_ w s := rfl
theorem exec_andi (at_ : CoreRef) (w : IFields) (s : State) :
    exec (.andi at_ w) s = execAndi at_ w s := rfl
theorem exec_ori (at_ : CoreRef) (w : IFields) (s : State) :
    exec (.ori at_ w) s = execOri at_ w s := rfl
theorem exec_xori (at_ : CoreRef) (w : IFields) (s : State) :
    exec (.xori at_ w) s = execXori at_ w s := rfl
theorem exec_slti (at_ : CoreRef) (w : IFields) (s : State) :
    exec (.slti at_ w) s = execSlti at_ w s := rfl
theorem exec_sltiu (at_ : CoreRef) (w : IFields) (s : State) :
    exec (.sltiu at_ w) s = execSltiu at_ w s := rfl
theorem exec_slli (at_ : CoreRef) (w : ShFields) (s : State) :
    exec (.slli at_ w) s = execSlli at_ w s := rfl
theorem exec_srli (at_ : CoreRef) (w : ShFields) (s : State) :
    exec (.srli at_ w) s = execSrli at_ w s := rfl
theorem exec_srai (at_ : CoreRef) (w : ShFields) (s : State) :
    exec (.srai at_ w) s = execSrai at_ w s := rfl
theorem exec_lui (at_ : CoreRef) (w : IFields) (s : State) :
    exec (.lui at_ w) s = execLui at_ w s := rfl
theorem exec_ldw (at_ : CoreRef) (w : IFields) (s : State) :
    exec (.ldw at_ w) s = execLdw at_ w s := rfl
theorem exec_ldh (at_ : CoreRef) (w : IFields) (s : State) :
    exec (.ldh at_ w) s = execLdh at_ w s := rfl
theorem exec_ldhu (at_ : CoreRef) (w : IFields) (s : State) :
    exec (.ldhu at_ w) s = execLdhu at_ w s := rfl
theorem exec_ldb (at_ : CoreRef) (w : IFields) (s : State) :
    exec (.ldb at_ w) s = execLdb at_ w s := rfl
theorem exec_ldbu (at_ : CoreRef) (w : IFields) (s : State) :
    exec (.ldbu at_ w) s = execLdbu at_ w s := rfl
theorem exec_stw (at_ : CoreRef) (w : IFields) (s : State) :
    exec (.stw at_ w) s = execStw at_ w s := rfl
theorem exec_sth (at_ : CoreRef) (w : IFields) (s : State) :
    exec (.sth at_ w) s = execSth at_ w s := rfl
theorem exec_stb (at_ : CoreRef) (w : IFields) (s : State) :
    exec (.stb at_ w) s = execStb at_ w s := rfl
theorem exec_vld (at_ : CoreRef) (w : IFields) (s : State) :
    exec (.vld at_ w) s = execVld at_ w s := rfl
theorem exec_vst (at_ : CoreRef) (w : IFields) (s : State) :
    exec (.vst at_ w) s = execVst at_ w s := rfl
theorem exec_beq (at_ : CoreRef) (w : BFields) (s : State) :
    exec (.beq at_ w) s = execBeq at_ w s := rfl
theorem exec_bne (at_ : CoreRef) (w : BFields) (s : State) :
    exec (.bne at_ w) s = execBne at_ w s := rfl
theorem exec_blt (at_ : CoreRef) (w : BFields) (s : State) :
    exec (.blt at_ w) s = execBlt at_ w s := rfl
theorem exec_bge (at_ : CoreRef) (w : BFields) (s : State) :
    exec (.bge at_ w) s = execBge at_ w s := rfl
theorem exec_bltu (at_ : CoreRef) (w : BFields) (s : State) :
    exec (.bltu at_ w) s = execBltu at_ w s := rfl
theorem exec_bgeu (at_ : CoreRef) (w : BFields) (s : State) :
    exec (.bgeu at_ w) s = execBgeu at_ w s := rfl
theorem exec_j (at_ : CoreRef) (off : BitVec 26) (s : State) :
    exec (.j at_ off) s = execJ at_ off s := rfl
theorem exec_jal (at_ : CoreRef) (off : BitVec 26) (s : State) :
    exec (.jal at_ off) s = execJal at_ off s := rfl
theorem exec_jalr (at_ : CoreRef) (w : IFields) (s : State) :
    exec (.jalr at_ w) s = execJalr at_ w s := rfl
theorem exec_spld (at_ : CoreRef) (w : HFields) (s : State) :
    exec (.spld at_ w) s = execSpld at_ w s := rfl
theorem exec_spst (at_ : CoreRef) (w : HFields) (s : State) :
    exec (.spst at_ w) s = execSpst at_ w s := rfl
theorem exec_vspld (at_ : CoreRef) (w : HFields) (s : State) :
    exec (.vspld at_ w) s = execVspld at_ w s := rfl
theorem exec_vspst (at_ : CoreRef) (w : HFields) (s : State) :
    exec (.vspst at_ w) s = execVspst at_ w s := rfl
theorem exec_scratchpadNarrowGrant (cove : Fin 800) (bank : Fin 16) (drain feed : Bool) (s : State) :
    exec (.scratchpadNarrowGrant cove bank drain feed) s = execScratchpadNarrowGrant cove bank drain feed s := rfl
theorem exec_vaddI32 (at_ : CoreRef) (w : VFields) (s : State) :
    exec (.vaddI32 at_ w) s = execVaddI32 at_ w s := rfl
theorem exec_vsubI32 (at_ : CoreRef) (w : VFields) (s : State) :
    exec (.vsubI32 at_ w) s = execVsubI32 at_ w s := rfl
theorem exec_vand (at_ : CoreRef) (w : VFields) (s : State) :
    exec (.vand at_ w) s = execVand at_ w s := rfl
theorem exec_vor (at_ : CoreRef) (w : VFields) (s : State) :
    exec (.vor at_ w) s = execVor at_ w s := rfl
theorem exec_vxor (at_ : CoreRef) (w : VFields) (s : State) :
    exec (.vxor at_ w) s = execVxor at_ w s := rfl
theorem exec_vminI32 (at_ : CoreRef) (w : VFields) (s : State) :
    exec (.vminI32 at_ w) s = execVminI32 at_ w s := rfl
theorem exec_vmaxI32 (at_ : CoreRef) (w : VFields) (s : State) :
    exec (.vmaxI32 at_ w) s = execVmaxI32 at_ w s := rfl
theorem exec_vmulI32 (at_ : CoreRef) (w : VFields) (s : State) :
    exec (.vmulI32 at_ w) s = execVmulI32 at_ w s := rfl
theorem exec_vaddF32 (at_ : CoreRef) (w : VFields) (s : State) :
    exec (.vaddF32 at_ w) s = execVaddF32 at_ w s := rfl
theorem exec_vsubF32 (at_ : CoreRef) (w : VFields) (s : State) :
    exec (.vsubF32 at_ w) s = execVsubF32 at_ w s := rfl
theorem exec_vmulF32 (at_ : CoreRef) (w : VFields) (s : State) :
    exec (.vmulF32 at_ w) s = execVmulF32 at_ w s := rfl
theorem exec_vfmaF32 (at_ : CoreRef) (w : VFields) (s : State) :
    exec (.vfmaF32 at_ w) s = execVfmaF32 at_ w s := rfl
theorem exec_vmaxF32 (at_ : CoreRef) (w : VFields) (s : State) :
    exec (.vmaxF32 at_ w) s = execVmaxF32 at_ w s := rfl
theorem exec_vminF32 (at_ : CoreRef) (w : VFields) (s : State) :
    exec (.vminF32 at_ w) s = execVminF32 at_ w s := rfl
theorem exec_vexp2F32 (at_ : CoreRef) (w : VFields) (s : State) :
    exec (.vexp2F32 at_ w) s = execVexp2F32 at_ w s := rfl
theorem exec_vrcpF32 (at_ : CoreRef) (w : VFields) (s : State) :
    exec (.vrcpF32 at_ w) s = execVrcpF32 at_ w s := rfl
theorem exec_vrsqF32 (at_ : CoreRef) (w : VFields) (s : State) :
    exec (.vrsqF32 at_ w) s = execVrsqF32 at_ w s := rfl
theorem exec_vaddBf16 (at_ : CoreRef) (w : VFields) (s : State) :
    exec (.vaddBf16 at_ w) s = execVaddBf16 at_ w s := rfl
theorem exec_vmulBf16 (at_ : CoreRef) (w : VFields) (s : State) :
    exec (.vmulBf16 at_ w) s = execVmulBf16 at_ w s := rfl
theorem exec_vredsumF32 (at_ : CoreRef) (w : VFields) (s : State) :
    exec (.vredsumF32 at_ w) s = execVredsumF32 at_ w s := rfl
theorem exec_vredmaxF32 (at_ : CoreRef) (w : VFields) (s : State) :
    exec (.vredmaxF32 at_ w) s = execVredmaxF32 at_ w s := rfl
theorem exec_vredsumI32 (at_ : CoreRef) (w : VFields) (s : State) :
    exec (.vredsumI32 at_ w) s = execVredsumI32 at_ w s := rfl
theorem exec_vredmaxI32 (at_ : CoreRef) (w : VFields) (s : State) :
    exec (.vredmaxI32 at_ w) s = execVredmaxI32 at_ w s := rfl
theorem exec_vbcast (at_ : CoreRef) (w : VFields) (s : State) :
    exec (.vbcast at_ w) s = execVbcast at_ w s := rfl
theorem exec_vext (at_ : CoreRef) (w : VFields) (s : State) :
    exec (.vext at_ w) s = execVext at_ w s := rfl
theorem exec_vins (at_ : CoreRef) (w : VFields) (s : State) :
    exec (.vins at_ w) s = execVins at_ w s := rfl
theorem exec_vcopy (at_ : CoreRef) (w : VFields) (s : State) :
    exec (.vcopy at_ w) s = execVcopy at_ w s := rfl
theorem exec_vf2bf (at_ : CoreRef) (w : VFields) (s : State) :
    exec (.vf2bf at_ w) s = execVf2bf at_ w s := rfl
theorem exec_vbf2fLo (at_ : CoreRef) (w : VFields) (s : State) :
    exec (.vbf2fLo at_ w) s = execVbf2fLo at_ w s := rfl
theorem exec_vbf2fHi (at_ : CoreRef) (w : VFields) (s : State) :
    exec (.vbf2fHi at_ w) s = execVbf2fHi at_ w s := rfl
theorem exec_vf2i (at_ : CoreRef) (w : VFields) (s : State) :
    exec (.vf2i at_ w) s = execVf2i at_ w s := rfl
theorem exec_vi2f (at_ : CoreRef) (w : VFields) (s : State) :
    exec (.vi2f at_ w) s = execVi2f at_ w s := rfl
theorem exec_vpack (at_ : CoreRef) (w : VFields) (s : State) :
    exec (.vpack at_ w) s = execVpack at_ w s := rfl
theorem exec_vunpack (at_ : CoreRef) (w : VFields) (s : State) :
    exec (.vunpack at_ w) s = execVunpack at_ w s := rfl
theorem exec_bissue (at_ : CoreRef) (w : RxFields) (s : State) :
    exec (.bissue at_ w) s = execBissue at_ w s := rfl
theorem exec_bwait (at_ : CoreRef) (w : RxFields) (s : State) :
    exec (.bwait at_ w) s = execBwait at_ w s := rfl
theorem exec_bcnt (at_ : CoreRef) (w : RxFields) (s : State) :
    exec (.bcnt at_ w) s = execBcnt at_ w s := rfl
theorem exec_dq (at_ : CoreRef) (w : RxFields) (s : State) :
    exec (.dq at_ w) s = execDq at_ w s := rfl
theorem exec_dwait (at_ : CoreRef) (w : RxFields) (s : State) :
    exec (.dwait at_ w) s = execDwait at_ w s := rfl
theorem exec_tss (at_ : CoreRef) (w : RxFields) (s : State) :
    exec (.tss at_ w) s = execTss at_ w s := rfl
theorem exec_tsv (at_ : CoreRef) (w : RxFields) (s : State) :
    exec (.tsv at_ w) s = execTsv at_ w s := rfl
theorem exec_trs (at_ : CoreRef) (w : RxFields) (s : State) :
    exec (.trs at_ w) s = execTrs at_ w s := rfl
theorem exec_trv (at_ : CoreRef) (w : RxFields) (s : State) :
    exec (.trv at_ w) s = execTrv at_ w s := rfl
theorem exec_ttok (at_ : CoreRef) (w : RxFields) (s : State) :
    exec (.ttok at_ w) s = execTtok at_ w s := rfl
theorem exec_trtok (at_ : CoreRef) (w : RxFields) (s : State) :
    exec (.trtok at_ w) s = execTrtok at_ w s := rfl
theorem exec_tbar (at_ : CoreRef) (w : RxFields) (s : State) :
    exec (.tbar at_ w) s = execTbar at_ w s := rfl
theorem exec_cconn (at_ : CoreRef) (w : CFields) (s : State) :
    exec (.cconn at_ w) s = execCconn at_ w s := rfl
theorem exec_cacc (at_ : CoreRef) (w : CFields) (s : State) :
    exec (.cacc at_ w) s = execCacc at_ w s := rfl
theorem exec_csend (at_ : CoreRef) (w : CFields) (s : State) :
    exec (.csend at_ w) s = execCsend at_ w s := rfl
theorem exec_crecv (at_ : CoreRef) (w : CFields) (s : State) :
    exec (.crecv at_ w) s = execCrecv at_ w s := rfl
theorem exec_csel (at_ : CoreRef) (w : CFields) (s : State) :
    exec (.csel at_ w) s = execCsel at_ w s := rfl
theorem exec_cpoll (at_ : CoreRef) (w : CFields) (s : State) :
    exec (.cpoll at_ w) s = execCpoll at_ w s := rfl
theorem exec_cclose (at_ : CoreRef) (w : CFields) (s : State) :
    exec (.cclose at_ w) s = execCclose at_ w s := rfl
theorem exec_csetto (at_ : CoreRef) (w : CFields) (s : State) :
    exec (.csetto at_ w) s = execCsetto at_ w s := rfl
theorem exec_mrd (at_ : CoreRef) (w : IFields) (s : State) :
    exec (.mrd at_ w) s = execMrd at_ w s := rfl
theorem exec_mwr (at_ : CoreRef) (w : IFields) (s : State) :
    exec (.mwr at_ w) s = execMwr at_ w s := rfl
theorem exec_pbHalt (who : Requester) (at_ : CoreRef) (v : Bool) (s : State) :
    exec (.pbHalt who at_ v) s = execPbHalt who at_ v s := rfl
theorem exec_pbStep1 (who : Requester) (at_ : CoreRef) (s : State) :
    exec (.pbStep1 who at_) s = execPbStep1 who at_ s := rfl
theorem exec_pbBkptEn (who : Requester) (at_ : CoreRef) (v : Bool) (s : State) :
    exec (.pbBkptEn who at_ v) s = execPbBkptEn who at_ v s := rfl
theorem exec_pbTrapEn (who : Requester) (at_ : CoreRef) (v : Bool) (s : State) :
    exec (.pbTrapEn who at_ v) s = execPbTrapEn who at_ v s := rfl
theorem exec_rowRemap (cove : Fin 800) (bank : Fin 16) (row : Fin 2048) (s : State) :
    exec (.rowRemap cove bank row) s = execRowRemap cove bank row s := rfl
theorem exec_coveSave (cove : Fin 800) (parity : List (Fin 16 × Fin 2048)) (s : State) :
    exec (.coveSave cove parity) s = execCoveSave cove parity s := rfl
theorem exec_coveRestore (cove : Fin 800) (bist : List (Fin 16 × Fin 2048)) (digestBad : Bool) (s : State) :
    exec (.coveRestore cove bist digestBad) s = execCoveRestore cove bist digestBad s := rfl
theorem exec_connect (cove : Fin 800) (p : ChanPkt) (s : State) :
    exec (.connect cove p) s = execConnect cove p s := rfl
theorem exec_accept (cove : Fin 800) (p : ChanPkt) (s : State) :
    exec (.accept cove p) s = execAccept cove p s := rfl
theorem exec_refuse (cove : Fin 800) (p : ChanPkt) (s : State) :
    exec (.refuse cove p) s = execRefuse cove p s := rfl
theorem exec_data (cove : Fin 800) (p : ChanPkt) (s : State) :
    exec (.data cove p) s = execData cove p s := rfl
theorem exec_delivered (cove : Fin 800) (p : ChanPkt) (s : State) :
    exec (.delivered cove p) s = execDelivered cove p s := rfl
theorem exec_full (cove : Fin 800) (p : ChanPkt) (s : State) :
    exec (.full cove p) s = execFull cove p s := rfl
theorem exec_resume (cove : Fin 800) (p : ChanPkt) (s : State) :
    exec (.resume cove p) s = execResume cove p s := rfl
theorem exec_withdraw (cove : Fin 800) (p : ChanPkt) (s : State) :
    exec (.withdraw cove p) s = execWithdraw cove p s := rfl
theorem exec_close (cove : Fin 800) (p : ChanPkt) (s : State) :
    exec (.close cove p) s = execClose cove p s := rfl
theorem exec_closed (cove : Fin 800) (p : ChanPkt) (s : State) :
    exec (.closed cove p) s = execClosed cove p s := rfl
theorem exec_csendTimeout (at_ : CoreRef) (s : State) :
    exec (.csendTimeout at_) s = execCsendTimeout at_ s := rfl
theorem exec_fullRetry (at_ : CoreRef) (s : State) :
    exec (.fullRetry at_) s = execFullRetry at_ s := rfl
theorem exec_dataRetransmit (at_ : CoreRef) (s : State) :
    exec (.dataRetransmit at_) s = execDataRetransmit at_ s := rfl
theorem exec_channelQuarantineEnd (cove : Fin 800) (entry : Fin 4096) (s : State) :
    exec (.channelQuarantineEnd cove entry) s = execChannelQuarantineEnd cove entry s := rfl
theorem exec_chHeadSel (who : Requester) (cove : Fin 800) (value : BitVec 32) (s : State) :
    exec (.chHeadSel who cove value) s = execChHeadSel who cove value s := rfl
theorem exec_pselToken (cove : Fin 800) (tok : BitVec 8) (s : State) :
    exec (.pselToken cove tok) s = execPselToken cove tok s := rfl
theorem exec_tideFabricFault (cove : Fin 800) (code : BitVec 16) (plane : BitVec 2) (port : BitVec 5) (s : State) :
    exec (.tideFabricFault cove code plane port) s = execTideFabricFault cove code plane port s := rfl
theorem exec_freeze (cove : Fin 800) (s : State) :
    exec (.freeze cove) s = execFreeze cove s := rfl
theorem exec_barrierArrive (cove : Fin 800) (b : Fin 16) (src : Fin 20) (s : State) :
    exec (.barrierArrive cove b src) s = execBarrierArrive cove b src s := rfl
theorem exec_barrierRelease (cove : Fin 800) (b : Fin 16) (s : State) :
    exec (.barrierRelease cove b) s = execBarrierRelease cove b s := rfl
theorem exec_vote (cove : Fin 800) (src : Option (Fin 4)) (pass : Bool) (tag : BitVec 2) (s : State) :
    exec (.vote cove src pass tag) s = execVote cove src pass tag s := rfl
theorem exec_commitToken (cove : Fin 800) (tag : BitVec 2) (s : State) :
    exec (.commitToken cove tag) s = execCommitToken cove tag s := rfl
theorem exec_rollbackToken (cove : Fin 800) (tag : BitVec 2) (s : State) :
    exec (.rollbackToken cove tag) s = execRollbackToken cove tag s := rfl
theorem exec_groyneRelease (cove : Fin 800) (g : Fin 2) (s : State) :
    exec (.groyneRelease cove g) s = execGroyneRelease cove g s := rfl
theorem exec_seamAlignStart (row : Fin 20) (s : State) :
    exec (.seamAlignStart row) s = execSeamAlignStart row s := rfl
theorem exec_seamOpen (row : Fin 20) (s : State) :
    exec (.seamOpen row) s = execSeamOpen row s := rfl
theorem exec_seamAlignTimeout (row : Fin 20) (s : State) :
    exec (.seamAlignTimeout row) s = execSeamAlignTimeout row s := rfl
theorem exec_seamSlip (slip : SeamSlipped) (s : State) :
    exec (.seamSlip slip) s = execSeamSlip slip s := rfl
theorem exec_tfInjPar (who : Requester) (cove : Fin 800) (s : State) :
    exec (.tfInjPar who cove) s = execTfInjPar who cove s := rfl
theorem exec_arbiterDecision (cove : Fin 800) (out : Fin 6) (parity : ForwardParity) (s : State) :
    exec (.arbiterDecision cove out parity) s = execArbiterDecision cove out parity s := rfl
theorem exec_epochArmCheck (unarmed : List (Fin 800)) (s : State) :
    exec (.epochArmCheck unarmed) s = execEpochArmCheck unarmed s := rfl
theorem exec_epochSwap (s : State) :
    exec (.epochSwap) s = execEpochSwap s := rfl
theorem exec_epochOrderedResume (s : State) :
    exec (.epochOrderedResume) s = execEpochOrderedResume s := rfl
theorem exec_linkDisable (cove : Fin 800) (out : Fin 6) (s : State) :
    exec (.linkDisable cove out) s = execLinkDisable cove out s := rfl
theorem exec_cnE408Mask (who : Requester) (cove : Fin 800) (v : Bool) (s : State) :
    exec (.cnE408Mask who cove v) s = execCnE408Mask who cove v s := rfl
theorem exec_cnInjPar (who : Requester) (cove : Fin 800) (s : State) :
    exec (.cnInjPar who cove) s = execCnInjPar who cove s := rfl
theorem exec_dmaTransferStart (cove : Fin 800) (s : State) :
    exec (.dmaTransferStart cove) s = execDmaTransferStart cove s := rfl
theorem exec_dmaWritePacket (p : Packet) (s : State) :
    exec (.dmaWritePacket p) s = execDmaWritePacket p s := rfl
theorem exec_dmaReadPacket (p : Packet) (ecc : List (Nat × Ecc)) (s : State) :
    exec (.dmaReadPacket p ecc) s = execDmaReadPacket p ecc s := rfl
theorem exec_dmaDataPacket (p : Packet) (s : State) :
    exec (.dmaDataPacket p) s = execDmaDataPacket p s := rfl
theorem exec_dmaDonePacket (p : Packet) (s : State) :
    exec (.dmaDonePacket p) s = execDmaDonePacket p s := rfl
theorem exec_dmaRetryPacket (p : Packet) (s : State) :
    exec (.dmaRetryPacket p) s = execDmaRetryPacket p s := rfl
theorem exec_dmaRetryResend (cove : Fin 800) (tag : Fin 4096) (s : State) :
    exec (.dmaRetryResend cove tag) s = execDmaRetryResend cove tag s := rfl
theorem exec_dmaRetire (cove : Fin 800) (s : State) :
    exec (.dmaRetire cove) s = execDmaRetire cove s := rfl
theorem exec_dmaTagQuarantineEnd (cove : Fin 800) (tag : Fin 4096) (s : State) :
    exec (.dmaTagQuarantineEnd cove tag) s = execDmaTagQuarantineEnd cove tag s := rfl
theorem exec_dmaTrackerFree (iface : Iface) (key : TransferKey) (s : State) :
    exec (.dmaTrackerFree iface key) s = execDmaTrackerFree iface key s := rfl
theorem exec_dmaTimeout (cove : Fin 800) (tag : Fin 4096) (s : State) :
    exec (.dmaTimeout cove tag) s = execDmaTimeout cove tag s := rfl
theorem exec_flagPacket (p : Packet) (s : State) :
    exec (.flagPacket p) s = execFlagPacket p s := rfl
theorem exec_broadcastPacket (cove : Fin 800) (p : Packet) (s : State) :
    exec (.broadcastPacket cove p) s = execBroadcastPacket cove p s := rfl
theorem exec_telemetryPacket (p : Packet) (s : State) :
    exec (.telemetryPacket p) s = execTelemetryPacket p s := rfl
theorem exec_regPacket (p : Packet) (write : Bool) (off : BitVec 16) (value : BitVec 32) (s : State) :
    exec (.regPacket p write off value) s = execRegPacket p write off value s := rfl
theorem exec_shadowSignaturePacket (cove : Fin 800) (pair : BitVec 15) (step : BitVec 48) (attempt : BitVec 2) (sig : BitVec 64) (s : State) :
    exec (.shadowSignaturePacket cove pair step attempt sig) s = execShadowSignaturePacket cove pair step attempt sig s := rfl
theorem exec_strmD3Write (at_ : CoreRef) (value : BitVec 32) (s : State) :
    exec (.strmD3Write at_ value) s = execStrmD3Write at_ value s := rfl
theorem exec_streamWordDue (cove : Fin 800) (write late bad : Bool) (ecc : List (Nat × Ecc)) (s : State) :
    exec (.streamWordDue cove write late bad ecc) s = execStreamWordDue cove write late bad ecc s := rfl
theorem exec_shadowChunkCopy (stack : Fin 8) (granule : Nat) (step : BitVec 48) (chunk : Fin 256) (ecc : List (Nat × Ecc)) (s : State) :
    exec (.shadowChunkCopy stack granule step chunk ecc) s = execShadowChunkCopy stack granule step chunk ecc s := rfl
theorem exec_granuleMapWrite (stack : Fin 8) (s : State) :
    exec (.granuleMapWrite stack) s = execGranuleMapWrite stack s := rfl
theorem exec_softPpr (stack : Fin 8) (pc : Fin 32) (bank : Fin 48) (row : Fin 16384) (s : State) :
    exec (.softPpr stack pc bank row) s = execSoftPpr stack pc bank row s := rfl
theorem exec_refresh (stack : Fin 8) (pc : Fin 32) (bank : Fin 48) (s : State) :
    exec (.refresh stack pc bank) s = execRefresh stack pc bank s := rfl
theorem exec_patrolScrub (stack : Fin 8) (found : Option Bool) (s : State) :
    exec (.patrolScrub stack found) s = execPatrolScrub stack found s := rfl
theorem exec_hbScrubEn (who : Requester) (stack : Fin 8) (v : Bool) (s : State) :
    exec (.hbScrubEn who stack v) s = execHbScrubEn who stack v s := rfl
theorem exec_hbInjCe (who : Requester) (stack : Fin 8) (s : State) :
    exec (.hbInjCe who stack) s = execHbInjCe who stack s := rfl
theorem exec_hardRepairDone (repairs : HardRepairs) (s : State) :
    exec (.hardRepairDone repairs) s = execHardRepairDone repairs s := rfl
theorem exec_portTrainAttempt (port : Fin 2) (lanes : BitVec 4) (s : State) :
    exec (.portTrainAttempt port lanes) s = execPortTrainAttempt port lanes s := rfl
theorem exec_portRetryTimer (port : Fin 2) (s : State) :
    exec (.portRetryTimer port) s = execPortRetryTimer port s := rfl
theorem exec_pcsAlignmentLoss (port : Fin 2) (s : State) :
    exec (.pcsAlignmentLoss port) s = execPcsAlignmentLoss port s := rfl
theorem exec_fecDegradation (port : Fin 2) (s : State) :
    exec (.fecDegradation port) s = execFecDegradation port s := rfl
theorem exec_ethRetrain (who : Requester) (port : Fin 2) (s : State) :
    exec (.ethRetrain who port) s = execEthRetrain who port s := rfl
theorem exec_ethDisable (who : Requester) (port : Fin 2) (v : Bool) (s : State) :
    exec (.ethDisable who port v) s = execEthDisable who port v s := rfl
theorem exec_arpRequest (port : Fin 2) (f : FrameHdr) (senderIp target : BitVec 32) (s : State) :
    exec (.arpRequest port f senderIp target) s = execArpRequest port f senderIp target s := rfl
theorem exec_neighborSolicitation (port : Fin 2) (f : FrameHdr) (senderIp target : BitVec 128) (s : State) :
    exec (.neighborSolicitation port f senderIp target) s = execNeighborSolicitation port f senderIp target s := rfl
theorem exec_icmpEchoRequest (port : Fin 2) (f : FrameHdr) (ipv6 : Bool) (senderIp dst : BitVec 128) (body : List (BitVec 8)) (s : State) :
    exec (.icmpEchoRequest port f ipv6 senderIp dst body) s = execIcmpEchoRequest port f ipv6 senderIp dst body s := rfl
theorem exec_frameDrop (port : Fin 2) (f : FrameHdr) (s : State) :
    exec (.frameDrop port f) s = execFrameDrop port f s := rfl
theorem exec_ptpMessage (port : Fin 2) (m : PtpMsg) (s : State) :
    exec (.ptpMessage port m) s = execPtpMessage port m s := rfl
theorem exec_timeHoldover (s : State) :
    exec (.timeHoldover) s = execTimeHoldover s := rfl
theorem exec_cmReq (port : Fin 2) (r : CmReq) (s : State) :
    exec (.cmReq port r) s = execCmReq port r s := rfl
theorem exec_cmRtu (f : ConnFrame) (s : State) :
    exec (.cmRtu f) s = execCmRtu f s := rfl
theorem exec_cmRej (f : ConnFrame) (s : State) :
    exec (.cmRej f) s = execCmRej f s := rfl
theorem exec_cmDreq (f : ConnFrame) (s : State) :
    exec (.cmDreq f) s = execCmDreq f s := rfl
theorem exec_sendOnly (b : Bth) (payload : List (BitVec 8)) (s : State) :
    exec (.sendOnly b payload) s = execSendOnly b payload s := rfl
theorem exec_sendOnlyWithImmediate (b : Bth) (imm : BitVec 32) (payload : List (BitVec 8)) (s : State) :
    exec (.sendOnlyWithImmediate b imm payload) s = execSendOnlyWithImmediate b imm payload s := rfl
theorem exec_sendFirst (b : Bth) (s : State) :
    exec (.sendFirst b) s = execSendFirst b s := rfl
theorem exec_sendMiddle (b : Bth) (s : State) :
    exec (.sendMiddle b) s = execSendMiddle b s := rfl
theorem exec_sendLast (b : Bth) (s : State) :
    exec (.sendLast b) s = execSendLast b s := rfl
theorem exec_rdmaWriteFirst (b : Bth) (r : Reth) (payload : List (BitVec 8)) (s : State) :
    exec (.rdmaWriteFirst b r payload) s = execRdmaWriteFirst b r payload s := rfl
theorem exec_rdmaWriteMiddle (b : Bth) (payload : List (BitVec 8)) (s : State) :
    exec (.rdmaWriteMiddle b payload) s = execRdmaWriteMiddle b payload s := rfl
theorem exec_rdmaWriteLast (b : Bth) (payload : List (BitVec 8)) (s : State) :
    exec (.rdmaWriteLast b payload) s = execRdmaWriteLast b payload s := rfl
theorem exec_rdmaWriteOnly (b : Bth) (r : Reth) (payload : List (BitVec 8)) (s : State) :
    exec (.rdmaWriteOnly b r payload) s = execRdmaWriteOnly b r payload s := rfl
theorem exec_rdmaWriteWithImmediate (b : Bth) (s : State) :
    exec (.rdmaWriteWithImmediate b) s = execRdmaWriteWithImmediate b s := rfl
theorem exec_rdmaReadRequest (b : Bth) (r : ReadReth) (s : State) :
    exec (.rdmaReadRequest b r) s = execRdmaReadRequest b r s := rfl
theorem exec_atomicCompareAndSwap (b : Bth) (s : State) :
    exec (.atomicCompareAndSwap b) s = execAtomicCompareAndSwap b s := rfl
theorem exec_atomicFetchAndAdd (b : Bth) (s : State) :
    exec (.atomicFetchAndAdd b) s = execAtomicFetchAndAdd b s := rfl
theorem exec_unsupportedOpcode (b : Bth) (opcode : BitVec 8) (s : State) :
    exec (.unsupportedOpcode b opcode) s = execUnsupportedOpcode b opcode s := rfl
theorem exec_readGatherTimeout (qp : Fin 512) (psn : BitVec 24) (s : State) :
    exec (.readGatherTimeout qp psn) s = execReadGatherTimeout qp psn s := rfl
theorem exec_cnpReceived (f : ConnFrame) (s : State) :
    exec (.cnpReceived f) s = execCnpReceived f s := rfl
theorem exec_dcqcnAlphaTimer (qp : Fin 512) (s : State) :
    exec (.dcqcnAlphaTimer qp) s = execDcqcnAlphaTimer qp s := rfl
theorem exec_dcqcnRateTimer (qp : Fin 512) (byBytes : Bool) (s : State) :
    exec (.dcqcnRateTimer qp byBytes) s = execDcqcnRateTimer qp byBytes s := rfl
theorem exec_pfcPauseFrame (port : Fin 2) (prio : Fin 8) (quanta : BitVec 16) (s : State) :
    exec (.pfcPauseFrame port prio quanta) s = execPfcPauseFrame port prio quanta s := rfl
theorem exec_heartbeat (bay : Fin 16) (slot : Fin 16) (s : State) :
    exec (.heartbeat bay slot) s = execHeartbeat bay slot s := rfl
theorem exec_linkDownAt (port : Fin 2) (s : State) :
    exec (.linkDownAt port) s = execLinkDownAt port s := rfl
theorem exec_mtNsLoRead (who : Requester) (s : State) :
    exec (.mtNsLoRead who) s = execMtNsLoRead who s := rfl
theorem exec_nop (c : JCmd) (s : State) :
    exec (.nop c) s = execNop c s := rfl
theorem exec_challenge (c : JCmd) (s : State) :
    exec (.challenge c) s = execChallenge c s := rfl
theorem exec_sessionOpen (c : JCmd) (s : State) :
    exec (.sessionOpen c) s = execSessionOpen c s := rfl
theorem exec_sessionVerifyDone (qp : Fin 512) (s : State) :
    exec (.sessionVerifyDone qp) s = execSessionVerifyDone qp s := rfl
theorem exec_sessionOrphanTimeout (bay : Fin 16) (slot : Fin 16) (s : State) :
    exec (.sessionOrphanTimeout bay slot) s = execSessionOrphanTimeout bay slot s := rfl
theorem exec_sessionClose (c : JCmd) (s : State) :
    exec (.sessionClose c) s = execSessionClose c s := rfl
theorem exec_regionGrant (c : JCmd) (s : State) :
    exec (.regionGrant c) s = execRegionGrant c s := rfl
theorem exec_regionRevoke (c : JCmd) (s : State) :
    exec (.regionRevoke c) s = execRegionRevoke c s := rfl
theorem exec_attest (c : JCmd) (s : State) :
    exec (.attest c) s = execAttest c s := rfl
theorem exec_attestTokenComplete (s : State) :
    exec (.attestTokenComplete) s = execAttestTokenComplete s := rfl
theorem exec_programLoad (c : JCmd) (s : State) :
    exec (.programLoad c) s = execProgramLoad c s := rfl
theorem exec_programLoadComplete (bay : Fin 16) (s : State) :
    exec (.programLoadComplete bay) s = execProgramLoadComplete bay s := rfl
theorem exec_programUnload (c : JCmd) (s : State) :
    exec (.programUnload c) s = execProgramUnload c s := rfl
theorem exec_run (c : JCmd) (s : State) :
    exec (.run c) s = execRun c s := rfl
theorem exec_generate (c : JCmd) (s : State) :
    exec (.generate c) s = execGenerate c s := rfl
theorem exec_cancel (c : JCmd) (s : State) :
    exec (.cancel c) s = execCancel c s := rfl
theorem exec_stepHint (c : JCmd) (s : State) :
    exec (.stepHint c) s = execStepHint c s := rfl
theorem exec_queryBaySummary (c : JCmd) (s : State) :
    exec (.queryBaySummary c) s = execQueryBaySummary c s := rfl
theorem exec_queryRunQueue (c : JCmd) (s : State) :
    exec (.queryRunQueue c) s = execQueryRunQueue c s := rfl
theorem exec_querySessionEnergy (c : JCmd) (s : State) :
    exec (.querySessionEnergy c) s = execQuerySessionEnergy c s := rfl
theorem exec_queryAdmissionTrial (c : JCmd) (s : State) :
    exec (.queryAdmissionTrial c) s = execQueryAdmissionTrial c s := rfl
theorem exec_regRead (c : JCmd) (s : State) :
    exec (.regRead c) s = execRegRead c s := rfl
theorem exec_regWrite (c : JCmd) (s : State) :
    exec (.regWrite c) s = execRegWrite c s := rfl
theorem exec_resend (c : JCmd) (s : State) :
    exec (.resend c) s = execResend c s := rfl
theorem exec_capSetBay (c : JCmd) (s : State) :
    exec (.capSetBay c) s = execCapSetBay c s := rfl
theorem exec_capSetModule (c : JCmd) (s : State) :
    exec (.capSetModule c) s = execCapSetModule c s := rfl
theorem exec_bayReset (c : JCmd) (s : State) :
    exec (.bayReset c) s = execBayReset c s := rfl
theorem exec_maintenanceOpen (c : JCmd) (s : State) :
    exec (.maintenanceOpen c) s = execMaintenanceOpen c s := rfl
theorem exec_maintenanceClose (c : JCmd) (s : State) :
    exec (.maintenanceClose c) s = execMaintenanceClose c s := rfl
theorem exec_moduleReset (c : JCmd) (s : State) :
    exec (.moduleReset c) s = execModuleReset c s := rfl
theorem exec_scoreEventExpiry (cove : Fin 800) (s : State) :
    exec (.scoreEventExpiry cove) s = execScoreEventExpiry cove s := rfl
theorem exec_faultSignatureRecord (cove : Fin 800) (code : BitVec 16) (ophash : Option (BitVec 256)) (s : State) :
    exec (.faultSignatureRecord cove code ophash) s = execFaultSignatureRecord cove code ophash s := rfl
theorem exec_igBayCfgWrite (who : Requester) (bay : Fin 16) (value : BitVec 32) (s : State) :
    exec (.igBayCfgWrite who bay value) s = execIgBayCfgWrite who bay value s := rfl
theorem exec_igClrPattern (who : Requester) (value : BitVec 32) (s : State) :
    exec (.igClrPattern who value) s = execIgClrPattern who value s := rfl
theorem exec_rotationTestSlot (field : Fin 4) (s : State) :
    exec (.rotationTestSlot field) s = execRotationTestSlot field s := rfl
theorem exec_rotationTestStart (field : Fin 4) (s : State) :
    exec (.rotationTestStart field) s = execRotationTestStart field s := rfl
theorem exec_testPhaseComplete (field : Fin 4) (pass eddy : Bool) (s : State) :
    exec (.testPhaseComplete field pass eddy) s = execTestPhaseComplete field pass eddy s := rfl
theorem exec_handoverMoveStart (seg : Fin 40) (s : State) :
    exec (.handoverMoveStart seg) s = execHandoverMoveStart seg s := rfl
theorem exec_handoverMoveComplete (seg : Fin 40) (linkErr : Bool) (s : State) :
    exec (.handoverMoveComplete seg linkErr) s = execHandoverMoveComplete seg linkErr s := rfl
theorem exec_handoverTimeout (seg : Fin 40) (s : State) :
    exec (.handoverTimeout seg) s = execHandoverTimeout seg s := rfl
theorem exec_fenceCapacityReturn (field : Fin 4) (s : State) :
    exec (.fenceCapacityReturn field) s = execFenceCapacityReturn field s := rfl
theorem exec_recurExpiry (cove : Fin 800) (s : State) :
    exec (.recurExpiry cove) s = execRecurExpiry cove s := rfl
theorem exec_shapeSwitch (bay : Fin 16) (resumeBad : Bool) (s : State) :
    exec (.shapeSwitch bay resumeBad) s = execShapeSwitch bay resumeBad s := rfl
theorem exec_rotIntervalWrite (who : Requester) (v : BitVec 16) (s : State) :
    exec (.rotIntervalWrite who v) s = execRotIntervalWrite who v s := rfl
theorem exec_rotPause (who : Requester) (v : Bool) (s : State) :
    exec (.rotPause who v) s = execRotPause who v s := rfl
theorem exec_refclkLoss (s : State) :
    exec (.refclkLoss) s = execRefclkLoss s := rfl
theorem exec_refclkReturn (s : State) :
    exec (.refclkReturn) s = execRefclkReturn s := rfl
theorem exec_pllStable (p : Fin 17) (s : State) :
    exec (.pllStable p) s = execPllStable p s := rfl
theorem exec_pllAcquireTimeout (p : Fin 17) (s : State) :
    exec (.pllAcquireTimeout p) s = execPllAcquireTimeout p s := rfl
theorem exec_pllLockLoss (p : Fin 17) (s : State) :
    exec (.pllLockLoss p) s = execPllLockLoss p s := rfl
theorem exec_hbmRetrainComplete (stack : Fin 8) (s : State) :
    exec (.hbmRetrainComplete stack) s = execHbmRetrainComplete stack s := rfl
theorem exec_hbmRetrainTimeout (stack : Fin 8) (s : State) :
    exec (.hbmRetrainTimeout stack) s = execHbmRetrainTimeout stack s := rfl
theorem exec_slackEntry (cove : Fin 800) (s : State) :
    exec (.slackEntry cove) s = execSlackEntry cove s := rfl
theorem exec_ebbEntry (dom : Domain) (s : State) :
    exec (.ebbEntry dom) s = execEbbEntry dom s := rfl
theorem exec_domainWake (dom : Domain) (s : State) :
    exec (.domainWake dom) s = execDomainWake dom s := rfl
theorem exec_opChangeStart (half : Fin 2) (s : State) :
    exec (.opChangeStart half) s = execOpChangeStart half s := rfl
theorem exec_opChangeComplete (half : Fin 2) (s : State) :
    exec (.opChangeComplete half) s = execOpChangeComplete half s := rfl
theorem exec_opChangeTimeout (half : Fin 2) (s : State) :
    exec (.opChangeTimeout half) s = execOpChangeTimeout half s := rfl
theorem exec_controlPeriod (m : PowerSample) (s : State) :
    exec (.controlPeriod m) s = execControlPeriod m s := rfl
theorem exec_emergencyGlide (cause : GlideCause) (sample : Nat) (s : State) :
    exec (.emergencyGlide cause sample) s = execEmergencyGlide cause sample s := rfl
theorem exec_emergencyGlideStop (sample : Nat) (s : State) :
    exec (.emergencyGlideStop sample) s = execEmergencyGlideStop sample s := rfl
theorem exec_junctionOvertemp (field : Fin 4) (celsius : Nat) (s : State) :
    exec (.junctionOvertemp field celsius) s = execJunctionOvertemp field celsius s := rfl
theorem exec_droopTrip (field : Fin 4) (s : State) :
    exec (.droopTrip field) s = execDroopTrip field s := rfl
theorem exec_auxInputLoss (s : State) :
    exec (.auxInputLoss) s = execAuxInputLoss s := rfl
theorem exec_auxInputReturn (s : State) :
    exec (.auxInputReturn) s = execAuxInputReturn s := rfl
theorem exec_mainInputLow (s : State) :
    exec (.mainInputLow) s = execMainInputLow s := rfl
theorem exec_mainInputHigh (s : State) :
    exec (.mainInputHigh) s = execMainInputHigh s := rfl
theorem exec_mainInputReturn (s : State) :
    exec (.mainInputReturn) s = execMainInputReturn s := rfl
theorem exec_regulatorPhaseFail (rail : Rail) (s : State) :
    exec (.regulatorPhaseFail rail) s = execRegulatorPhaseFail rail s := rfl
theorem exec_parkEnd (s : State) :
    exec (.parkEnd) s = execParkEnd s := rfl
theorem exec_hintVoltageRaise (bay : Fin 16) (s : State) :
    exec (.hintVoltageRaise bay) s = execHintVoltageRaise bay s := rfl
theorem exec_energyUpdate (m : EnergySample) (s : State) :
    exec (.energyUpdate m) s = execEnergyUpdate m s := rfl
theorem exec_pwrOpTargetWrite (who : Requester) (v : BitVec 4) (s : State) :
    exec (.pwrOpTargetWrite who v) s = execPwrOpTargetWrite who v s := rfl
theorem exec_pwrHintMvWrite (who : Requester) (v : BitVec 6) (s : State) :
    exec (.pwrHintMvWrite who v) s = execPwrHintMvWrite who v s := rfl
theorem exec_energyLoRead (who : Requester) (ctr : EnergyCtr) (s : State) :
    exec (.energyLoRead who ctr) s = execEnergyLoRead who ctr s := rfl
theorem exec_auxPowerOn (s : State) :
    exec (.auxPowerOn) s = execAuxPowerOn s := rfl
theorem exec_stageS0 (s : State) :
    exec (.stageS0) s = execStageS0 s := rfl
theorem exec_stageS1 (ok : Bool) (s : State) :
    exec (.stageS1 ok) s = execStageS1 ok s := rfl
theorem exec_stageS2 (f : S2Findings) (s : State) :
    exec (.stageS2 f) s = execStageS2 f s := rfl
theorem exec_stageS3 (s : State) :
    exec (.stageS3) s = execStageS3 s := rfl
theorem exec_stageS4 (regulated : Bool) (s : State) :
    exec (.stageS4 regulated) s = execStageS4 regulated s := rfl
theorem exec_stageS5 (failed : List (Fin 17)) (s : State) :
    exec (.stageS5 failed) s = execStageS5 failed s := rfl
theorem exec_stageS6 (trained : BitVec 8) (s : State) :
    exec (.stageS6 trained) s = execStageS6 trained s := rfl
theorem exec_stageS7 (failed : List (Fin 800)) (rows : List (Fin 800 × Fin 16 × Fin 2048)) (s : State) :
    exec (.stageS7 failed rows) s = execStageS7 failed rows s := rfl
theorem exec_stageS8 (tide : List (Fin 800)) (seams : List (Fin 20)) (links : List (Fin 800 × Fin 6)) (s : State) :
    exec (.stageS8 tide seams links) s = execStageS8 tide seams links s := rfl
theorem exec_stageS9 (failed : List (Fin 800)) (s : State) :
    exec (.stageS9 failed) s = execStageS9 failed s := rfl
theorem exec_stageS10 (s : State) :
    exec (.stageS10) s = execStageS10 s := rfl
theorem exec_stageS11 (s : State) :
    exec (.stageS11) s = execStageS11 s := rfl
theorem exec_cargoReadComplete (s : State) :
    exec (.cargoReadComplete) s = execCargoReadComplete s := rfl
theorem exec_stageLimitExpiry (unfinished : List (Fin 800)) (s : State) :
    exec (.stageLimitExpiry unfinished) s = execStageLimitExpiry unfinished s := rfl
theorem exec_suImgVerLoRead (who : Requester) (s : State) :
    exec (.suImgVerLoRead who) s = execSuImgVerLoRead who s := rfl
theorem exec_journalWrite (s : State) :
    exec (.journalWrite) s = execJournalWrite s := rfl
theorem exec_journalCompaction (s : State) :
    exec (.journalCompaction) s = execJournalCompaction s := rfl
theorem exec_resetEntry (bay : Fin 16) (s : State) :
    exec (.resetEntry bay) s = execResetEntry bay s := rfl
theorem exec_recoveryQuiescence (bay : Fin 16) (s : State) :
    exec (.recoveryQuiescence bay) s = execRecoveryQuiescence bay s := rfl
theorem exec_recoveryComplete (bay : Fin 16) (badParts : List (Fin 720)) (poison : Bool) (s : State) :
    exec (.recoveryComplete bay badParts poison) s = execRecoveryComplete bay badParts poison s := rfl
theorem exec_recoveryWindowTimeout (bay : Fin 16) (s : State) :
    exec (.recoveryWindowTimeout bay) s = execRecoveryWindowTimeout bay s := rfl
theorem exec_eddyPass (set : EddySet) (s : State) :
    exec (.eddyPass set) s = execEddyPass set s := rfl
theorem exec_hrResetStepLoRead (who : Requester) (bay : Fin 16) (s : State) :
    exec (.hrResetStepLoRead who bay) s = execHrResetStepLoRead who bay s := rfl
theorem exec_idLoRead (who : Requester) (pair : Fin 3) (s : State) :
    exec (.idLoRead who pair) s = execIdLoRead who pair s := rfl
theorem exec_mgLogSelWrite (who : Requester) (value : BitVec 32) (s : State) :
    exec (.mgLogSelWrite who value) s = execMgLogSelWrite who value s := rfl
theorem exec_logFetchComplete (s : State) :
    exec (.logFetchComplete) s = execLogFetchComplete s := rfl
theorem exec_logDeviceCopy (s : State) :
    exec (.logDeviceCopy) s = execLogDeviceCopy s := rfl
theorem exec_nvGoOwnerRecord (who : Requester) (s : State) :
    exec (.nvGoOwnerRecord who) s = execNvGoOwnerRecord who s := rfl
theorem exec_nvGoSlotChunk (who : Requester) (s : State) :
    exec (.nvGoSlotChunk who) s = execNvGoSlotChunk who s := rfl
theorem exec_nvWriteComplete (s : State) :
    exec (.nvWriteComplete) s = execNvWriteComplete s := rfl
theorem exec_mateNHigh (s : State) :
    exec (.mateNHigh) s = execMateNHigh s := rfl
theorem exec_mateNLow (s : State) :
    exec (.mateNLow) s = execMateNLow s := rfl
theorem exec_jtagTapReset (s : State) :
    exec (.jtagTapReset) s = execJtagTapReset s := rfl
theorem exec_extest (cells : BitVec 10) (s : State) :
    exec (.extest cells) s = execExtest cells s := rfl
theorem exec_idcode (s : State) :
    exec (.idcode) s = execIdcode s := rfl
theorem exec_samplePreload (s : State) :
    exec (.samplePreload) s = execSamplePreload s := rfl
theorem exec_hlAccess (dr : BitVec 64) (s : State) :
    exec (.hlAccess dr) s = execHlAccess dr s := rfl
theorem exec_hlAccessComplete (s : State) :
    exec (.hlAccessComplete) s = execHlAccessComplete s := rfl
theorem exec_modReset (s : State) :
    exec (.modReset) s = execModReset s := rfl
theorem exec_bypass (s : State) :
    exec (.bypass) s = execBypass s := rfl
theorem exec_activeRouteCycle (cove : Fin 800) (plane : Fin 3) (adderBad : Bool) (s : State) :
    exec (.activeRouteCycle cove plane adderBad) s = execActiveRouteCycle cove plane adderBad s := rfl
theorem exec_watchMinimumExpiry (cove : Fin 800) (s : State) :
    exec (.watchMinimumExpiry cove) s = execWatchMinimumExpiry cove s := rfl
theorem exec_refclkAbsentAtS0 (s : State) :
    exec (.refclkAbsentAtS0) s = execRefclkAbsentAtS0 s := rfl

end Sys2Proof.Machine
end

