-- ==== Sys2Proof/Laws/Only.lean ====
section
/-!
SUPPORT. How `ChangesOnly` composes: nothing changed, one operation after another, branches, folds, a record update.
-/

namespace Sys2Proof.Machine

theorem ChangesOnly.refl (ps : List Piece) (s : State) : ChangesOnly ps s s := fun p _ => by cases p <;> rfl

theorem Piece.agree_trans {p : Piece} {s t u : State} (h : p.agree s t) (k : p.agree t u) : p.agree s u := by
  cases p <;> exact Eq.trans k h

theorem ChangesOnly.trans {ps : List Piece} {s t u : State} (h : ChangesOnly ps s t) (k : ChangesOnly ps t u) :
    ChangesOnly ps s u := fun p hp => Piece.agree_trans (h p hp) (k p hp)

/-- Fewer parts allowed is the stronger claim. -/
theorem ChangesOnly.mono {ps qs : List Piece} {s t : State} (h : ChangesOnly qs s t) (hq : (qs.all fun p => ps.contains p) = true) :
    ChangesOnly ps s t := fun p hp => h p (by
  cases hc : qs.contains p with
  | false => rfl
  | true =>
    have h1 := List.all_eq_true.mp hq p (List.contains_iff_mem.mp hc)
    rw [hp] at h1
    exact h1.symm)

/-- One more operation, which changes no part that is not allowed. -/
theorem ChangesOnly.step {ps qs : List Piece} {s t u : State} (h : ChangesOnly ps s t) (k : ChangesOnly qs t u)
    (hq : (qs.all fun p => ps.contains p) = true) : ChangesOnly ps s u := h.trans (k.mono hq)

theorem ChangesOnly.ite {ps : List Piece} {s a b : State} {c : Prop} [Decidable c] (ha : ChangesOnly ps s a) (hb : ChangesOnly ps s b) :
    ChangesOnly ps s (if c then a else b) := by split <;> assumption

theorem ChangesOnly.foldl {ps : List Piece} {α : Type} {s : State} {f : State → α → State} (hf : ∀ t x, ChangesOnly ps t (f t x))
    (l : List α) {t : State} (h : ChangesOnly ps s t) : ChangesOnly ps s (l.foldl f t) := by
  induction l generalizing t with
  | nil => exact h
  | cons x l ih => exact ih (h.trans (hf t x))

theorem ChangesOnly.elim {ps : List Piece} {α : Type} {s a : State} {f : α → State} (o : Option α) (ha : ChangesOnly ps s a)
    (hf : ∀ x, ChangesOnly ps s (f x)) : ChangesOnly ps s (o.elim a f) := by
  cases o with
  | none => exact ha
  | some x => exact hf x

/-- An operation that may answer no state, the old one being kept then. -/
theorem ChangesOnly.getD {ps qs : List Piece} {s t : State} {o : Option State} (h : ∀ u, o = some u → ChangesOnly qs t u)
    (hs : ChangesOnly ps s t) (hq : (qs.all fun p => ps.contains p) = true) : ChangesOnly ps s (o.getD t) := by
  cases o with
  | none => exact hs
  | some u => exact hs.step (h u rfl) hq

/-- A record update: each part is allowed, or is the old one. -/
theorem ChangesOnly.record {ps : List Piece} {s t : State} (h : ChangesOnly ps s t)
    {x_free : Nat} {x_clk : Clocks} {x_mt : ModTime} {x_coves : Tab Cove} {x_hbm : Memory} {x_ctrls : Tab Stack} {x_streams : Tab StreamPort}
    {x_bays : Tab Bay} {x_sessions : Tab Session} {x_qps : Tab Qp} {x_ports : Tab Port} {x_portq : Tab PortQueues} {x_jetty : Jetty} {x_integ : IntegModule} {x_rot : Rotation}
    {x_net : NetModule} {x_pwr : Power} {x_pwrx : PowerMore} {x_img : Image} {x_su : Startup} {x_ident : Identity} {x_mg : Mgmt} {x_pins : Pins} {x_latches : List Latch} {x_cut : Cut}
    (h_free : ps.contains .free = true ∨ x_free = t.free)
    (h_clk : ps.contains .clk = true ∨ x_clk = t.clk)
    (h_mt : ps.contains .mt = true ∨ x_mt = t.mt)
    (h_coves : ps.contains .coves = true ∨ x_coves = t.coves)
    (h_hbm : ps.contains .hbm = true ∨ x_hbm = t.hbm)
    (h_ctrls : ps.contains .ctrls = true ∨ x_ctrls = t.ctrls)
    (h_streams : ps.contains .streams = true ∨ x_streams = t.streams)
    (h_bays : ps.contains .bays = true ∨ x_bays = t.bays)
    (h_sessions : ps.contains .sessions = true ∨ x_sessions = t.sessions)
    (h_qps : ps.contains .qps = true ∨ x_qps = t.qps)
    (h_ports : ps.contains .ports = true ∨ x_ports = t.ports)
    (h_portq : ps.contains .portq = true ∨ x_portq = t.portq)
    (h_jetty : ps.contains .jetty = true ∨ x_jetty = t.jetty)
    (h_integ : ps.contains .integ = true ∨ x_integ = t.integ)
    (h_rot : ps.contains .rot = true ∨ x_rot = t.rot)
    (h_net : ps.contains .net = true ∨ x_net = t.net)
    (h_pwr : ps.contains .pwr = true ∨ x_pwr = t.pwr)
    (h_pwrx : ps.contains .pwrx = true ∨ x_pwrx = t.pwrx)
    (h_img : ps.contains .img = true ∨ x_img = t.img)
    (h_su : ps.contains .su = true ∨ x_su = t.su)
    (h_ident : ps.contains .ident = true ∨ x_ident = t.ident)
    (h_mg : ps.contains .mg = true ∨ x_mg = t.mg)
    (h_pins : ps.contains .pins = true ∨ x_pins = t.pins)
    (h_latches : ps.contains .latches = true ∨ x_latches = t.latches)
    (h_cut : ps.contains .cut = true ∨ x_cut = t.cut)
    : ChangesOnly ps s (State.mk t.pending x_free x_clk x_mt x_coves x_hbm x_ctrls x_streams x_bays x_sessions x_qps x_ports x_portq x_jetty x_integ x_rot x_net x_pwr x_pwrx x_img x_su x_ident x_mg x_pins x_latches x_cut) := fun p hp => by
  refine Piece.agree_trans (h p hp) ?_
  cases p
  case pending => rfl
  case free => exact h_free.resolve_left (by rw [hp]; decide)
  case clk => exact h_clk.resolve_left (by rw [hp]; decide)
  case mt => exact h_mt.resolve_left (by rw [hp]; decide)
  case coves => exact h_coves.resolve_left (by rw [hp]; decide)
  case hbm => exact h_hbm.resolve_left (by rw [hp]; decide)
  case ctrls => exact h_ctrls.resolve_left (by rw [hp]; decide)
  case streams => exact h_streams.resolve_left (by rw [hp]; decide)
  case bays => exact h_bays.resolve_left (by rw [hp]; decide)
  case sessions => exact h_sessions.resolve_left (by rw [hp]; decide)
  case qps => exact h_qps.resolve_left (by rw [hp]; decide)
  case ports => exact h_ports.resolve_left (by rw [hp]; decide)
  case portq => exact h_portq.resolve_left (by rw [hp]; decide)
  case jetty => exact h_jetty.resolve_left (by rw [hp]; decide)
  case integ => exact h_integ.resolve_left (by rw [hp]; decide)
  case rot => exact h_rot.resolve_left (by rw [hp]; decide)
  case net => exact h_net.resolve_left (by rw [hp]; decide)
  case pwr => exact h_pwr.resolve_left (by rw [hp]; decide)
  case pwrx => exact h_pwrx.resolve_left (by rw [hp]; decide)
  case img => exact h_img.resolve_left (by rw [hp]; decide)
  case su => exact h_su.resolve_left (by rw [hp]; decide)
  case ident => exact h_ident.resolve_left (by rw [hp]; decide)
  case mg => exact h_mg.resolve_left (by rw [hp]; decide)
  case pins => exact h_pins.resolve_left (by rw [hp]; decide)
  case latches => exact h_latches.resolve_left (by rw [hp]; decide)
  case cut => exact h_cut.resolve_left (by rw [hp]; decide)

/-! Outcomes. -/

theorem Leaves.mono {ps qs : List Piece} {s : State} {o : Out} (h : Leaves qs s o) (hq : (qs.all fun p => ps.contains p) = true) :
    Leaves ps s o := fun t ht => (h t ht).mono hq

/-- An outcome after an operation. -/
theorem Leaves.after {ps qs : List Piece} {s t : State} {o : Out} (h : ChangesOnly ps s t) (k : Leaves qs t o)
    (hq : (qs.all fun p => ps.contains p) = true) : Leaves ps s o := fun u hu => h.trans ((k u hu).mono hq)

theorem Leaves.next {ps : List Piece} {s t : State} (h : ChangesOnly ps s t) : Leaves ps s (.next t) := fun u hu => by
  cases hu; exact h

theorem Leaves.occurs {ps : List Piece} {s t : State} {p : Bool} (h : ChangesOnly ps s t) : Leaves ps s (occurs s p t) :=
  Leaves.next (ChangesOnly.ite h (ChangesOnly.refl ps s))

theorem Leaves.ite {ps : List Piece} {s : State} {a b : Out} {c : Prop} [Decidable c] (ha : Leaves ps s a) (hb : Leaves ps s b) :
    Leaves ps s (if c then a else b) := by split <;> assumption

end Sys2Proof.Machine
end

