-- ==== Sys2Proof/Laws/Tab.lean ====
section
/-!
SUPPORT. Tables and memories: reading after writing, and every operation keeps the canonical form.
-/

namespace Sys2Proof.Machine

/-! Rows in strictly rising order. -/

/-- Every key of the rows is above `k`. -/
def rowsAbove {α : Type} (k : Nat) (l : List (Nat × α)) : Prop := ∀ r ∈ l, k < r.1

theorem rowsSorted_cons {α : Type} {k : Nat} {v : α} {t : List (Nat × α)} :
    rowsSorted ((k, v) :: t) = true ↔ rowsAbove k t ∧ rowsSorted t = true := by
  simp [rowsSorted, rowsAbove, List.all_eq_true]

theorem rowsPut_above {α : Type} {j k : Nat} {v : α} {l : List (Nat × α)} (hj : j < k) (h : rowsAbove j l) :
    rowsAbove j (rowsPut l k v) := by
  induction l with
  | nil => intro r hr; simp [rowsPut] at hr; simpa [hr] using hj
  | cons x t ih =>
    obtain ⟨kx, vx⟩ := x
    have hx : j < kx := h _ List.mem_cons_self
    have ht : rowsAbove j t := fun r hr => h r (List.mem_cons_of_mem _ hr)
    unfold rowsPut
    split
    · intro r hr
      rcases List.mem_cons.mp hr with rfl | hr
      · exact hj
      · exact h r hr
    · split
      · intro r hr
        rcases List.mem_cons.mp hr with rfl | hr
        · exact hj
        · exact ht r hr
      · intro r hr
        rcases List.mem_cons.mp hr with rfl | hr
        · exact hx
        · exact ih ht r hr

theorem rowsPut_sorted {α : Type} {k : Nat} {v : α} {l : List (Nat × α)} (h : rowsSorted l = true) :
    rowsSorted (rowsPut l k v) = true := by
  induction l with
  | nil => rfl
  | cons x t ih =>
    obtain ⟨kx, vx⟩ := x
    have hs := rowsSorted_cons.mp h
    unfold rowsPut
    split
    · refine rowsSorted_cons.mpr ⟨fun r hr => ?_, h⟩
      rcases List.mem_cons.mp hr with rfl | hr
      · assumption
      · have := hs.1 r hr; omega
    · split
      · subst k
        exact rowsSorted_cons.mpr ⟨hs.1, hs.2⟩
      · exact rowsSorted_cons.mpr ⟨rowsPut_above (by omega) hs.1, ih hs.2⟩

theorem rowsErase_sub {α : Type} {k : Nat} {l : List (Nat × α)} {r : Nat × α} (h : r ∈ rowsErase l k) : r ∈ l ∧ r.1 ≠ k := by
  induction l with
  | nil => simp [rowsErase] at h
  | cons x t ih =>
    obtain ⟨kx, vx⟩ := x
    unfold rowsErase at h
    split at h
    · exact ⟨List.mem_cons_of_mem _ (ih h).1, (ih h).2⟩
    · rcases List.mem_cons.mp h with rfl | h
      · exact ⟨List.mem_cons_self, by assumption⟩
      · exact ⟨List.mem_cons_of_mem _ (ih h).1, (ih h).2⟩

theorem rowsErase_sorted {α : Type} {k : Nat} {l : List (Nat × α)} (h : rowsSorted l = true) : rowsSorted (rowsErase l k) = true := by
  induction l with
  | nil => rfl
  | cons x t ih =>
    obtain ⟨kx, vx⟩ := x
    have hs := rowsSorted_cons.mp h
    unfold rowsErase
    split
    · exact ih hs.2
    · exact rowsSorted_cons.mpr ⟨fun r hr => hs.1 r (rowsErase_sub hr).1, ih hs.2⟩

theorem rowsFilter_sorted {α : Type} {p : Nat × α → Bool} {l : List (Nat × α)} (h : rowsSorted l = true) :
    rowsSorted (l.filter p) = true := by
  induction l with
  | nil => rfl
  | cons x t ih =>
    obtain ⟨kx, vx⟩ := x
    have hs := rowsSorted_cons.mp h
    rw [List.filter_cons]
    split
    · exact rowsSorted_cons.mpr ⟨fun r hr => hs.1 r (List.mem_filter.mp hr).1, ih hs.2⟩
    · exact ih hs.2

theorem rowsPut_mem {α : Type} {k : Nat} {v : α} {l : List (Nat × α)} {r : Nat × α} (h : r ∈ rowsPut l k v) : r = (k, v) ∨ r ∈ l := by
  induction l with
  | nil => simp [rowsPut] at h; exact .inl h
  | cons x t ih =>
    obtain ⟨kx, vx⟩ := x
    unfold rowsPut at h
    split at h
    · exact List.mem_cons.mp h
    · split at h
      · rcases List.mem_cons.mp h with h | h
        · exact .inl h
        · exact .inr (List.mem_cons_of_mem _ h)
      · rcases List.mem_cons.mp h with h | h
        · exact .inr (h ▸ List.mem_cons_self)
        · exact (ih h).imp_right (List.mem_cons_of_mem _)

/-! Reading rows. -/

theorem rowsFind_put {α : Type} (l : List (Nat × α)) (k : Nat) (v : α) (j : Nat) :
    rowsFind (rowsPut l k v) j = if j = k then some v else rowsFind l j := by
  induction l with
  | nil =>
    by_cases h : j = k
    · simp [rowsPut, rowsFind, h]
    · simp [rowsPut, rowsFind, h, Ne.symm h]
  | cons x t ih =>
    obtain ⟨kx, vx⟩ := x
    unfold rowsPut
    split
    · by_cases h : j = k
      · simp [rowsFind, h]
      · simp [rowsFind, h, Ne.symm h]
    · split
      · subst k
        by_cases h : j = kx
        · simp [rowsFind, h]
        · simp [rowsFind, h, Ne.symm h]
      · by_cases h : kx = j
        · subst h
          simp [rowsFind, show ¬ (kx = k) by omega]
        · simp only [rowsFind, h, if_false]
          exact ih

theorem rowsFind_erase {α : Type} (l : List (Nat × α)) (k j : Nat) :
    rowsFind (rowsErase l k) j = if j = k then none else rowsFind l j := by
  induction l with
  | nil => simp [rowsErase, rowsFind]
  | cons x t ih =>
    obtain ⟨kx, vx⟩ := x
    unfold rowsErase
    split
    · subst k
      rw [ih]
      by_cases h : j = kx
      · simp [h]
      · simp [rowsFind, h, Ne.symm h]
    · by_cases h : kx = j
      · subst h
        simp [rowsFind, show ¬ (kx = k) by assumption]
      · simp only [rowsFind, h, if_false]
        exact ih

/-! Tables. -/

section
variable {α : Type} [DecidableEq α]

theorem rowsPut_put {α : Type} (l : List (Nat × α)) (k : Nat) (a b : α) : rowsPut (rowsPut l k a) k b = rowsPut l k b := by
  induction l with
  | nil => simp [rowsPut]
  | cons r t ih =>
    by_cases h1 : k < r.1
    · simp [rowsPut, h1]
    · by_cases h2 : k = r.1 <;> simp [rowsPut, h1, h2, ih]

theorem rowsPut_erase {α : Type} (l : List (Nat × α)) (k : Nat) (a : α) : rowsErase (rowsPut l k a) k = rowsErase l k := by
  induction l with
  | nil => simp [rowsPut, rowsErase]
  | cons r t ih =>
    by_cases h1 : k < r.1
    · simp [rowsPut, h1, rowsErase]
    · by_cases h2 : k = r.1 <;> simp [rowsPut, h1, h2, ih, rowsErase]

theorem rowsPut_ne_nil {α : Type} (l : List (Nat × α)) (k : Nat) (a : α) : rowsPut l k a ≠ [] := by
  cases l with
  | nil => simp [rowsPut]
  | cons r t => unfold rowsPut; split <;> [simp; split <;> simp]

theorem Tab.get_set (t : Tab α) (d : α) (k : Nat) (v : α) (j : Nat) : (t.set d k v).get d j = if j = k then v else t.get d j := by
  unfold Tab.get Tab.find Tab.set
  split
  · simp only [Tab.erase, rowsFind_erase]
    split
    · simp [*]
    · rfl
  · simp only [Tab.put, rowsFind_put]
    split <;> rfl

@[simp] theorem Tab.get_set_same (t : Tab α) (d : α) (k : Nat) (v : α) : (t.set d k v).get d k = v := by simp [Tab.get_set]

theorem Tab.get_set_other (t : Tab α) (d : α) (v : α) {j k : Nat} (h : j ≠ k) : (t.set d k v).get d j = t.get d j := by
  simp [Tab.get_set, h]

@[simp] theorem Tab.get_upd_same (t : Tab α) (d : α) (k : Nat) (f : α → α) : (t.upd d k f).get d k = f (t.get d k) :=
  Tab.get_set_same _ _ _ _

theorem Tab.get_upd_other (t : Tab α) (d : α) (f : α → α) {j k : Nat} (h : j ≠ k) : (t.upd d k f).get d j = t.get d j :=
  Tab.get_set_other _ _ _ h

/-- Two values set one after the other at one key: the first must be listed. -/
theorem Tab.set_set (t : Tab α) (d : α) (k : Nat) {a : α} (b : α) (h : a ≠ d) : (t.set d k a).set d k b = t.set d k b := by
  by_cases hb : b = d <;> simp [Tab.set, h, hb, Tab.put, Tab.erase, rowsPut_put, rowsPut_erase]

/-- A table that lists a key is not the empty one. -/
theorem Tab.set_ne_empty (t : Tab α) (d : α) (k : Nat) {a : α} (h : a ≠ d) : t.set d k a ≠ {} := by
  intro e
  simp only [Tab.set, h, if_false, Tab.put] at e
  exact rowsPut_ne_nil _ _ _ (congrArg Tab.rows e)

theorem Tab.wf_iff (t : Tab α) (d : α) : t.wf d = true ↔ rowsSorted t.rows = true ∧ ∀ r ∈ t.rows, r.2 ≠ d := by
  simp [Tab.wf, List.all_eq_true]

theorem Tab.wf_empty (d : α) : Tab.wf ({} : Tab α) d = true := rfl

theorem Tab.wf_set {t : Tab α} {d : α} (h : t.wf d = true) (k : Nat) (v : α) : (t.set d k v).wf d = true := by
  rw [Tab.wf_iff] at h ⊢
  unfold Tab.set
  split
  · exact ⟨rowsErase_sorted h.1, fun r hr => h.2 r (rowsErase_sub hr).1⟩
  · refine ⟨rowsPut_sorted h.1, fun r hr => ?_⟩
    rcases rowsPut_mem hr with rfl | hr
    · assumption
    · exact h.2 r hr

theorem Tab.wf_filter {t : Tab α} {d : α} (h : t.wf d = true) (p : Nat → α → Bool) : (t.filter p).wf d = true := by
  rw [Tab.wf_iff] at h ⊢
  exact ⟨rowsFilter_sorted h.1, fun r hr => h.2 r (List.mem_filter.mp hr).1⟩

end

/-! Memories. -/

theorem memByte_set (m : Memory) (a : Nat) (b : Byte) (x : Nat) : memByte (memSetByte m a b) x = if x = a then b else memByte m x :=
  Tab.get_set _ _ _ _ _

theorem Memory.wf_set {m : Memory} (h : Memory.wf m = true) (a : Nat) (b : Byte) : Memory.wf (memSetByte m a b) = true :=
  Tab.wf_set h a b

theorem Memory.wf_setBytes {m : Memory} (h : Memory.wf m = true) (a : Nat) (bs : List Byte) : Memory.wf (memSetBytes m a bs) = true := by
  induction bs generalizing m a with
  | nil => exact h
  | cons b t ih => exact ih (Memory.wf_set h a b) _

/-- What a write of several bytes does: each address of the bytes reads its byte, every other address reads as before. -/
theorem memByte_setBytes (m : Memory) (a : Nat) (bs : List Byte) (x : Nat) :
    memByte (memSetBytes m a bs) x = if a ≤ x ∧ x < a + bs.length then bs.getD (x - a) 0 else memByte m x := by
  induction bs generalizing m a with
  | nil => simp [memSetBytes]
  | cons b t ih =>
    rw [memSetBytes, ih, memByte_set]
    by_cases h1 : x = a
    · subst h1
      simp
    · by_cases h2 : a + 1 ≤ x ∧ x < a + 1 + t.length
      · obtain ⟨j, hj⟩ : ∃ j, x - a = j + 1 := ⟨x - a - 1, by omega⟩
        have h3 : a ≤ x ∧ x < a + (b :: t).length := by simp; omega
        rw [if_pos h2, if_pos h3, hj, List.getD_cons_succ, show x - (a + 1) = j by omega]
      · have h3 : ¬ (a ≤ x ∧ x < a + (b :: t).length) := by simp; omega
        rw [if_neg h2, if_neg h3, if_neg h1]

end Sys2Proof.Machine
end

