-- ==== Sys2Proof/Laws/Mem.lean ====
section
/-!
SUPPORT. How keeping HBM and the non-volatile devices in canonical form composes.
-/

namespace Sys2Proof.Machine

/-- If HBM and the devices are in canonical form in `s`, they are in `t`. -/
def MemKept (s t : State) : Prop := s.memWf = true → t.memWf = true

/-- The next state of an outcome, if it answers one, keeps them so. -/
def OutMemKept (s : State) (o : Out) : Prop := ∀ t, o = .next t → MemKept s t

theorem State.memWf_iff (s : State) : s.memWf = true ↔ Memory.wf s.hbm = true ∧ Memory.wf s.img.dev = true := by
  simp [State.memWf]

theorem MemKept.refl (s : State) : MemKept s s := fun h => h

theorem MemKept.trans {s t u : State} (h : MemKept s t) (k : MemKept t u) : MemKept s u := fun x => k (h x)

/-- An operation that changes neither HBM nor the image part. -/
theorem MemKept.step {qs : List Piece} {s t u : State} (h : MemKept s t) (k : ChangesOnly qs t u)
    (hq : (!qs.contains .hbm && !qs.contains .img) = true) : MemKept s u := fun x => by
  have h1 : u.hbm = t.hbm := k .hbm (by simp at hq ⊢; exact hq.1)
  have h2 : u.img = t.img := k .img (by simp at hq ⊢; exact hq.2)
  have := h x
  rw [State.memWf_iff] at this ⊢
  rw [h1, h2]
  exact this

theorem MemKept.ite {s a b : State} {c : Prop} [Decidable c] (ha : MemKept s a) (hb : MemKept s b) : MemKept s (if c then a else b) := by
  split <;> assumption

theorem MemKept.foldl {α : Type} {s : State} {f : State → α → State} (hf : ∀ t x, MemKept t (f t x)) (l : List α) {t : State}
    (h : MemKept s t) : MemKept s (l.foldl f t) := by
  induction l generalizing t with
  | nil => exact h
  | cons x l ih => exact ih (h.trans (hf t x))

/-- A state whose HBM and devices are the old ones or in canonical form. -/
theorem MemKept.of {s t u : State} (h : MemKept s t) (hm : u.hbm = t.hbm ∨ (Memory.wf t.hbm = true → Memory.wf u.hbm = true))
    (hd : u.img.dev = t.img.dev ∨ (Memory.wf t.img.dev = true → Memory.wf u.img.dev = true)) : MemKept s u := fun x => by
  have := h x
  rw [State.memWf_iff] at this ⊢
  refine ⟨?_, ?_⟩
  · rcases hm with hm | hm
    · rw [hm]; exact this.1
    · exact hm this.1
  · rcases hd with hd | hd
    · rw [hd]; exact this.2
    · exact hd this.2

/-- Bytes written into HBM keep its form. -/
theorem MemKept.putHbm {s t : State} (h : MemKept s t) (a : Nat) (bs : List Byte) : MemKept s { t with hbm := memSetBytes t.hbm a bs } :=
  h.of (.inr fun h => Memory.wf_setBytes h a bs) (.inl rfl)

/-- A record update that writes neither. -/
theorem MemKept.record {s t : State} (h : MemKept s t)
    {x_free : Nat} {x_clk : Clocks} {x_mt : ModTime} {x_coves : Tab Cove} {x_hbm : Memory} {x_ctrls : Tab Stack} {x_streams : Tab StreamPort}
    {x_bays : Tab Bay} {x_sessions : Tab Session} {x_qps : Tab Qp} {x_ports : Tab Port} {x_portq : Tab PortQueues} {x_jetty : Jetty} {x_integ : IntegModule} {x_rot : Rotation}
    {x_net : NetModule} {x_pwr : Power} {x_pwrx : PowerMore} {x_img : Image} {x_su : Startup} {x_ident : Identity} {x_mg : Mgmt} {x_pins : Pins} {x_latches : List Latch} {x_cut : Cut}
    (hh : x_hbm = t.hbm) (hd : x_img.dev = t.img.dev) :
    MemKept s (State.mk t.pending x_free x_clk x_mt x_coves x_hbm x_ctrls x_streams x_bays x_sessions x_qps x_ports x_portq x_jetty x_integ x_rot x_net x_pwr x_pwrx x_img x_su x_ident x_mg x_pins x_latches x_cut) := h.of (.inl hh) (.inl hd)

theorem OutMemKept.next {s t : State} (h : MemKept s t) : OutMemKept s (.next t) := fun u hu => by cases hu; exact h

theorem OutMemKept.occurs {s t : State} {p : Bool} (h : MemKept s t) : OutMemKept s (occurs s p t) :=
  OutMemKept.next (MemKept.ite h (MemKept.refl s))

theorem OutMemKept.ite {s : State} {a b : Out} {c : Prop} [Decidable c] (ha : OutMemKept s a) (hb : OutMemKept s b) :
    OutMemKept s (if c then a else b) := by split <;> assumption

theorem OutMemKept.leaves {qs : List Piece} {s : State} {o : Out} (h : Leaves qs s o)
    (hq : (!qs.contains .hbm && !qs.contains .img) = true) : OutMemKept s o := fun t ht => (MemKept.refl s).step (h t ht) hq

end Sys2Proof.Machine
end

