-- ==== Sys2Proof/Laws/OnlyContents.lean ====
section
/-!
SUPPORT. For each operation and meaning of Machine/Contents.lean: the parts of the state that it can change.
-/

set_option linter.unreachableTactic false
set_option linter.unusedTactic false

namespace Sys2Proof.Machine

theorem State.loseContents_only : ∀ s, ChangesOnly [.clk, .coves, .hbm, .ctrls, .streams, .bays, .sessions, .qps, .ports, .portq, .jetty, .rot, .net, .pwr, .ident] s (State.loseContents s) := by
  intro s
  unfold State.loseContents
  repeat' first
    | with_reducible exact Or.inl rfl
    | with_reducible exact Or.inr rfl
    | exact Or.inl rfl
    | with_reducible apply ChangesOnly.refl
    | exact Eq.refl true
    | with_reducible apply ChangesOnly.ite
    | with_reducible apply ChangesOnly.foldl
    | with_reducible intro _
    | split
    | dsimp only [id]
    | with_reducible apply ChangesOnly.record

theorem State.mainOff_only : ∀ s, ChangesOnly [.clk, .coves, .hbm, .ctrls, .streams, .bays, .sessions, .qps, .ports, .portq, .jetty, .rot, .net, .pwr, .pwrx, .ident] s (State.mainOff s) := by
  intro s
  unfold State.mainOff
  repeat' first
    | with_reducible exact Or.inl rfl
    | with_reducible exact Or.inr rfl
    | exact Or.inl rfl
    | with_reducible apply ChangesOnly.refl
    | exact Eq.refl true
    | with_reducible apply ChangesOnly.ite
    | with_reducible apply ChangesOnly.foldl
    | with_reducible apply ChangesOnly.step ?_ (State.loseContents_only _)
    | with_reducible intro _
    | split
    | dsimp only [id]
    | with_reducible apply ChangesOnly.record

theorem State.restart_only : ∀ s, ChangesOnly [.clk, .coves, .hbm, .ctrls, .streams, .bays, .sessions, .qps, .ports, .portq, .jetty, .rot, .net, .pwr, .pwrx, .img, .su, .ident, .pins] s (State.restart s) := by
  intro s
  unfold State.restart
  repeat' first
    | with_reducible exact Or.inl rfl
    | with_reducible exact Or.inr rfl
    | exact Or.inl rfl
    | with_reducible apply ChangesOnly.refl
    | exact Eq.refl true
    | with_reducible apply ChangesOnly.ite
    | with_reducible apply ChangesOnly.foldl
    | with_reducible apply ChangesOnly.step ?_ (State.mainOff_only _)
    | with_reducible intro _
    | split
    | dsimp only [id]
    | with_reducible apply ChangesOnly.record

end Sys2Proof.Machine
end

