-- ==== Sys2Proof/Laws/MemContents.lean ====
section
/-!
SUPPORT. The operations and meanings of Machine/Contents.lean that write HBM or the devices keep their memories in canonical form.
-/

set_option linter.unreachableTactic false
set_option linter.unusedTactic false

namespace Sys2Proof.Machine

theorem State.loseContents_mem : ∀ s, MemKept s (State.loseContents s) := by
  intro s
  exact (MemKept.refl s).of (.inr fun _ => rfl) (.inl rfl)

theorem State.mainOff_mem : ∀ s, MemKept s (State.mainOff s) := by
  intro s
  unfold State.mainOff
  repeat' first
    | with_reducible exact rfl
    | with_reducible apply MemKept.refl
    | exact Eq.refl true
    | with_reducible apply MemKept.ite
    | with_reducible apply MemKept.foldl
    | with_reducible apply MemKept.trans ?_ (State.loseContents_mem _)
    | with_reducible intro _
    | split
    | dsimp only [id]
    | with_reducible apply MemKept.record

theorem State.restart_mem (s : State) : MemKept s (State.restart s) :=
  (MemKept.refl s).of (.inr fun _ => rfl) (.inl rfl)

end Sys2Proof.Machine
end

