-- ==== Sys2Proof/Laws/OnlyOps.lean ====
section
/-!
SUPPORT. For each operation and meaning of Machine/Ops.lean: the parts of the state that it can change.
-/

set_option linter.unreachableTactic false
set_option linter.unusedTactic false

namespace Sys2Proof.Machine

theorem State.setCove_only : ∀ s a1 a2, ChangesOnly [.coves] s (State.setCove s a1 a2) := by
  intro s a1 a2
  unfold State.setCove
  repeat' first
    | with_reducible exact Or.inl rfl
    | with_reducible exact Or.inr rfl
    | exact Or.inl rfl
    | with_reducible apply ChangesOnly.refl
    | exact Eq.refl true
    | with_reducible apply ChangesOnly.ite
    | with_reducible apply ChangesOnly.foldl
    | with_reducible intro _
    | split
    | dsimp only [id]
    | with_reducible apply ChangesOnly.record

theorem State.modCove_only : ∀ s a1 a2, ChangesOnly [.coves] s (State.modCove s a1 a2) := by
  intro s a1 a2
  unfold State.modCove
  repeat' first
    | with_reducible apply ChangesOnly.refl
    | exact Eq.refl true
    | with_reducible apply ChangesOnly.ite
    | with_reducible apply ChangesOnly.foldl
    | with_reducible apply ChangesOnly.step ?_ (State.setCove_only _ _ _)
    | with_reducible intro _
    | split
    | dsimp only [id]

theorem State.modCore_only : ∀ s a1 a2, ChangesOnly [.coves] s (State.modCore s a1 a2) := by
  intro s a1 a2
  unfold State.modCore
  repeat' first
    | with_reducible apply ChangesOnly.refl
    | exact Eq.refl true
    | with_reducible apply ChangesOnly.ite
    | with_reducible apply ChangesOnly.foldl
    | with_reducible apply ChangesOnly.step ?_ (State.modCove_only _ _ _)
    | with_reducible intro _
    | split
    | dsimp only [id]

theorem State.wakeCove_only : ∀ s a1, ChangesOnly [.clk, .coves] s (State.wakeCove s a1) := by
  intro s a1
  unfold State.wakeCove
  repeat' first
    | with_reducible exact Or.inl rfl
    | with_reducible exact Or.inr rfl
    | exact Or.inl rfl
    | with_reducible apply ChangesOnly.refl
    | exact Eq.refl true
    | with_reducible apply ChangesOnly.ite
    | with_reducible apply ChangesOnly.foldl
    | with_reducible apply ChangesOnly.step ?_ (State.modCove_only _ _ _)
    | with_reducible intro _
    | split
    | dsimp only [id]
    | with_reducible apply ChangesOnly.record

theorem State.modQp_only : ∀ s a1 a2, ChangesOnly [.qps] s (State.modQp s a1 a2) := by
  intro s a1 a2
  unfold State.modQp
  repeat' first
    | with_reducible exact Or.inl rfl
    | with_reducible exact Or.inr rfl
    | exact Or.inl rfl
    | with_reducible apply ChangesOnly.refl
    | exact Eq.refl true
    | with_reducible apply ChangesOnly.ite
    | with_reducible apply ChangesOnly.foldl
    | with_reducible intro _
    | split
    | dsimp only [id]
    | with_reducible apply ChangesOnly.record

theorem State.addLog_only : ∀ s a1, ChangesOnly [.mg] s (State.addLog s a1) := by
  intro s a1
  unfold State.addLog
  repeat' first
    | with_reducible exact Or.inl rfl
    | with_reducible exact Or.inr rfl
    | exact Or.inl rfl
    | with_reducible apply ChangesOnly.refl
    | exact Eq.refl true
    | with_reducible apply ChangesOnly.ite
    | with_reducible apply ChangesOnly.foldl
    | with_reducible intro _
    | split
    | dsimp only [id]
    | with_reducible apply ChangesOnly.record

theorem State.logFull_only : ∀ s a1 a2 a3 a4, ChangesOnly [.mg] s (State.logFull s a1 a2 a3 a4) := by
  intro s a1 a2 a3 a4
  unfold State.logFull
  repeat' first
    | with_reducible apply ChangesOnly.refl
    | exact Eq.refl true
    | with_reducible apply ChangesOnly.ite
    | with_reducible apply ChangesOnly.foldl
    | with_reducible apply ChangesOnly.step ?_ (State.addLog_only _ _)
    | with_reducible intro _
    | split
    | dsimp only [id]

theorem State.logCove_only : ∀ s a1 a2, ChangesOnly [.mg] s (State.logCove s a1 a2) := by
  intro s a1 a2
  unfold State.logCove
  repeat' first
    | with_reducible apply ChangesOnly.refl
    | exact Eq.refl true
    | with_reducible apply ChangesOnly.ite
    | with_reducible apply ChangesOnly.foldl
    | with_reducible apply ChangesOnly.step ?_ (State.logFull_only _ _ _ _ _)
    | with_reducible intro _
    | split
    | dsimp only [id]

theorem State.spend_only : ∀ s a1, ChangesOnly [.free] s (State.spend s a1) := by
  intro s a1
  unfold State.spend
  repeat' first
    | with_reducible exact Or.inl rfl
    | with_reducible exact Or.inr rfl
    | exact Or.inl rfl
    | with_reducible apply ChangesOnly.refl
    | exact Eq.refl true
    | with_reducible apply ChangesOnly.ite
    | with_reducible apply ChangesOnly.foldl
    | with_reducible intro _
    | split
    | dsimp only [id]
    | with_reducible apply ChangesOnly.record

theorem State.journal_only : ∀ s a1 a2, ChangesOnly [.su] s (State.journal s a1 a2) := by
  intro s a1 a2
  unfold State.journal
  repeat' first
    | with_reducible exact Or.inl rfl
    | with_reducible exact Or.inr rfl
    | exact Or.inl rfl
    | with_reducible apply ChangesOnly.refl
    | exact Eq.refl true
    | with_reducible apply ChangesOnly.ite
    | with_reducible apply ChangesOnly.foldl
    | with_reducible intro _
    | split
    | dsimp only [id]
    | with_reducible apply ChangesOnly.record

theorem State.modPortQ_only : ∀ s a1 a2, ChangesOnly [.portq] s (State.modPortQ s a1 a2) := by
  intro s a1 a2
  unfold State.modPortQ
  repeat' first
    | with_reducible exact Or.inl rfl
    | with_reducible exact Or.inr rfl
    | exact Or.inl rfl
    | with_reducible apply ChangesOnly.refl
    | exact Eq.refl true
    | with_reducible apply ChangesOnly.ite
    | with_reducible apply ChangesOnly.foldl
    | with_reducible intro _
    | split
    | dsimp only [id]
    | with_reducible apply ChangesOnly.record

theorem State.modPort_only : ∀ s a1 a2, ChangesOnly [.ports] s (State.modPort s a1 a2) := by
  intro s a1 a2
  unfold State.modPort
  repeat' first
    | with_reducible exact Or.inl rfl
    | with_reducible exact Or.inr rfl
    | exact Or.inl rfl
    | with_reducible apply ChangesOnly.refl
    | exact Eq.refl true
    | with_reducible apply ChangesOnly.ite
    | with_reducible apply ChangesOnly.foldl
    | with_reducible intro _
    | split
    | dsimp only [id]
    | with_reducible apply ChangesOnly.record

theorem State.logRecord_only : ∀ s a1 a2 a3, ChangesOnly [.mg] s (State.logRecord s a1 a2 a3) := by
  intro s a1 a2 a3
  unfold State.logRecord
  repeat' first
    | with_reducible apply ChangesOnly.refl
    | exact Eq.refl true
    | with_reducible apply ChangesOnly.ite
    | with_reducible apply ChangesOnly.foldl
    | with_reducible apply ChangesOnly.step ?_ (State.addLog_only _ _)
    | with_reducible intro _
    | split
    | dsimp only [id]

theorem State.modCoveTest_only : ∀ s a1 a2, ChangesOnly [.rot] s (State.modCoveTest s a1 a2) := by
  intro s a1 a2
  unfold State.modCoveTest
  repeat' first
    | with_reducible exact Or.inl rfl
    | with_reducible exact Or.inr rfl
    | exact Or.inl rfl
    | with_reducible apply ChangesOnly.refl
    | exact Eq.refl true
    | with_reducible apply ChangesOnly.ite
    | with_reducible apply ChangesOnly.foldl
    | with_reducible intro _
    | split
    | dsimp only [id]
    | with_reducible apply ChangesOnly.record

theorem State.modSess_only : ∀ s a1 a2, ChangesOnly [.sessions] s (State.modSess s a1 a2) := by
  intro s a1 a2
  unfold State.modSess
  repeat' first
    | with_reducible exact Or.inl rfl
    | with_reducible exact Or.inr rfl
    | exact Or.inl rfl
    | with_reducible apply ChangesOnly.refl
    | exact Eq.refl true
    | with_reducible apply ChangesOnly.ite
    | with_reducible apply ChangesOnly.foldl
    | with_reducible intro _
    | split
    | dsimp only [id]
    | with_reducible apply ChangesOnly.record

theorem State.markCycle_only : ∀ s, ChangesOnly [.cut] s (State.markCycle s) := by
  intro s
  unfold State.markCycle
  repeat' first
    | with_reducible exact Or.inl rfl
    | with_reducible exact Or.inr rfl
    | exact Or.inl rfl
    | with_reducible apply ChangesOnly.refl
    | exact Eq.refl true
    | with_reducible apply ChangesOnly.ite
    | with_reducible apply ChangesOnly.foldl
    | with_reducible intro _
    | split
    | dsimp only [id]
    | with_reducible apply ChangesOnly.record

theorem State.latch_only : ∀ s a1 a2 a3, ChangesOnly [.latches] s (State.latch s a1 a2 a3) := by
  intro s a1 a2 a3
  unfold State.latch
  repeat' first
    | with_reducible exact Or.inl rfl
    | with_reducible exact Or.inr rfl
    | exact Or.inl rfl
    | with_reducible apply ChangesOnly.refl
    | exact Eq.refl true
    | with_reducible apply ChangesOnly.ite
    | with_reducible apply ChangesOnly.foldl
    | with_reducible intro _
    | split
    | dsimp only [id]
    | with_reducible apply ChangesOnly.record

theorem State.modHalf_only : ∀ s a1 a2, ChangesOnly [.clk] s (State.modHalf s a1 a2) := by
  intro s a1 a2
  unfold State.modHalf
  repeat' first
    | with_reducible exact Or.inl rfl
    | with_reducible exact Or.inr rfl
    | exact Or.inl rfl
    | with_reducible apply ChangesOnly.refl
    | exact Eq.refl true
    | with_reducible apply ChangesOnly.ite
    | with_reducible apply ChangesOnly.foldl
    | with_reducible intro _
    | split
    | dsimp only [id]
    | with_reducible apply ChangesOnly.record

theorem State.modStream_only : ∀ s a1 a2, ChangesOnly [.streams] s (State.modStream s a1 a2) := by
  intro s a1 a2
  unfold State.modStream
  repeat' first
    | with_reducible exact Or.inl rfl
    | with_reducible exact Or.inr rfl
    | exact Or.inl rfl
    | with_reducible apply ChangesOnly.refl
    | exact Eq.refl true
    | with_reducible apply ChangesOnly.ite
    | with_reducible apply ChangesOnly.foldl
    | with_reducible intro _
    | split
    | dsimp only [id]
    | with_reducible apply ChangesOnly.record

theorem State.modPll_only : ∀ s a1 a2, ChangesOnly [.clk] s (State.modPll s a1 a2) := by
  intro s a1 a2
  unfold State.modPll
  repeat' first
    | with_reducible exact Or.inl rfl
    | with_reducible exact Or.inr rfl
    | exact Or.inl rfl
    | with_reducible apply ChangesOnly.refl
    | exact Eq.refl true
    | with_reducible apply ChangesOnly.ite
    | with_reducible apply ChangesOnly.foldl
    | with_reducible intro _
    | split
    | dsimp only [id]
    | with_reducible apply ChangesOnly.record

theorem State.modField_only : ∀ s a1 a2, ChangesOnly [.rot] s (State.modField s a1 a2) := by
  intro s a1 a2
  unfold State.modField
  repeat' first
    | with_reducible exact Or.inl rfl
    | with_reducible exact Or.inr rfl
    | exact Or.inl rfl
    | with_reducible apply ChangesOnly.refl
    | exact Eq.refl true
    | with_reducible apply ChangesOnly.ite
    | with_reducible apply ChangesOnly.foldl
    | with_reducible intro _
    | split
    | dsimp only [id]
    | with_reducible apply ChangesOnly.record

theorem State.startPll_only : ∀ s a1, ChangesOnly [.clk] s (State.startPll s a1) := by
  intro s a1
  unfold State.startPll
  repeat' first
    | with_reducible apply ChangesOnly.refl
    | exact Eq.refl true
    | with_reducible apply ChangesOnly.ite
    | with_reducible apply ChangesOnly.foldl
    | with_reducible apply ChangesOnly.step ?_ (State.modPll_only _ _ _)
    | with_reducible intro _
    | split
    | dsimp only [id]

theorem State.wakeHalf_only : ∀ s a1, ChangesOnly [.clk] s (State.wakeHalf s a1) := by
  intro s a1
  unfold State.wakeHalf
  repeat' first
    | with_reducible apply ChangesOnly.refl
    | exact Eq.refl true
    | with_reducible apply ChangesOnly.ite
    | with_reducible apply ChangesOnly.foldl
    | with_reducible apply ChangesOnly.step ?_ (State.modHalf_only _ _ _)
    | with_reducible apply ChangesOnly.step ?_ (State.startPll_only _ _)
    | with_reducible intro _
    | split
    | dsimp only [id]

theorem State.logBay_only : ∀ s a1 a2, ChangesOnly [.mg] s (State.logBay s a1 a2) := by
  intro s a1 a2
  unfold State.logBay
  repeat' first
    | with_reducible apply ChangesOnly.refl
    | exact Eq.refl true
    | with_reducible apply ChangesOnly.ite
    | with_reducible apply ChangesOnly.foldl
    | with_reducible apply ChangesOnly.step ?_ (State.logFull_only _ _ _ _ _)
    | with_reducible intro _
    | split
    | dsimp only [id]

theorem State.modBay_only : ∀ s a1 a2, ChangesOnly [.bays] s (State.modBay s a1 a2) := by
  intro s a1 a2
  unfold State.modBay
  repeat' first
    | with_reducible exact Or.inl rfl
    | with_reducible exact Or.inr rfl
    | exact Or.inl rfl
    | with_reducible apply ChangesOnly.refl
    | exact Eq.refl true
    | with_reducible apply ChangesOnly.ite
    | with_reducible apply ChangesOnly.foldl
    | with_reducible intro _
    | split
    | dsimp only [id]
    | with_reducible apply ChangesOnly.record

theorem State.modCoves_only : ∀ s a1 a2, ChangesOnly [.coves] s (State.modCoves s a1 a2) := by
  intro s a1 a2
  unfold State.modCoves
  repeat' first
    | with_reducible apply ChangesOnly.refl
    | exact Eq.refl true
    | with_reducible apply ChangesOnly.ite
    | with_reducible apply ChangesOnly.foldl
    | with_reducible apply ChangesOnly.step ?_ (State.modCove_only _ _ _)
    | with_reducible intro _
    | split
    | dsimp only [id]

theorem State.modSeam_only : ∀ s a1 a2, ChangesOnly [.clk] s (State.modSeam s a1 a2) := by
  intro s a1 a2
  unfold State.modSeam
  repeat' first
    | with_reducible exact Or.inl rfl
    | with_reducible exact Or.inr rfl
    | exact Or.inl rfl
    | with_reducible apply ChangesOnly.refl
    | exact Eq.refl true
    | with_reducible apply ChangesOnly.ite
    | with_reducible apply ChangesOnly.foldl
    | with_reducible intro _
    | split
    | dsimp only [id]
    | with_reducible apply ChangesOnly.record

theorem State.modStack_only : ∀ s a1 a2, ChangesOnly [.ctrls] s (State.modStack s a1 a2) := by
  intro s a1 a2
  unfold State.modStack
  repeat' first
    | with_reducible exact Or.inl rfl
    | with_reducible exact Or.inr rfl
    | exact Or.inl rfl
    | with_reducible apply ChangesOnly.refl
    | exact Eq.refl true
    | with_reducible apply ChangesOnly.ite
    | with_reducible apply ChangesOnly.foldl
    | with_reducible intro _
    | split
    | dsimp only [id]
    | with_reducible apply ChangesOnly.record

theorem State.atCut_only : ∀ s, ChangesOnly [.clk, .mt, .coves, .ctrls, .streams, .bays, .ports, .jetty, .pwr, .ident] s (State.atCut s) := by
  intro s
  unfold State.atCut
  repeat' first
    | with_reducible exact Or.inl rfl
    | with_reducible exact Or.inr rfl
    | exact Or.inl rfl
    | with_reducible apply ChangesOnly.refl
    | exact Eq.refl true
    | with_reducible apply ChangesOnly.ite
    | with_reducible apply ChangesOnly.foldl
    | with_reducible intro _
    | split
    | dsimp only [id]
    | with_reducible apply ChangesOnly.record

theorem State.log_only : ∀ s a1, ChangesOnly [.mg] s (State.log s a1) := by
  intro s a1
  unfold State.log
  repeat' first
    | with_reducible apply ChangesOnly.refl
    | exact Eq.refl true
    | with_reducible apply ChangesOnly.ite
    | with_reducible apply ChangesOnly.foldl
    | with_reducible apply ChangesOnly.step ?_ (State.logFull_only _ _ _ _ _)
    | with_reducible intro _
    | split
    | dsimp only [id]

end Sys2Proof.Machine
end

