-- ==== Sys2Proof/Laws/OnlyJettyOps.lean ====
section
/-!
SUPPORT. For each operation and meaning of Machine/JettyOps.lean: the parts of the state that it can change.
-/

set_option linter.unreachableTactic false
set_option linter.unusedTactic false

namespace Sys2Proof.Machine

theorem State.transmit_only : ∀ s a1 a2, ChangesOnly [.portq] s (State.transmit s a1 a2) := by
  intro s a1 a2
  unfold State.transmit
  repeat' first
    | with_reducible apply ChangesOnly.refl
    | exact Eq.refl true
    | with_reducible apply ChangesOnly.ite
    | with_reducible apply ChangesOnly.foldl
    | with_reducible apply ChangesOnly.step ?_ (State.modPortQ_only _ _ _)
    | with_reducible intro _
    | split
    | dsimp only [id]

theorem State.sendSess_only : ∀ s a1 a2 a3, ChangesOnly [.sessions, .portq] s (State.sendSess s a1 a2 a3) := by
  intro s a1 a2 a3
  unfold State.sendSess
  repeat' first
    | with_reducible apply ChangesOnly.refl
    | exact Eq.refl true
    | with_reducible apply ChangesOnly.ite
    | with_reducible apply ChangesOnly.foldl
    | with_reducible apply ChangesOnly.step ?_ (State.modSess_only _ _ _)
    | with_reducible apply ChangesOnly.step ?_ (State.transmit_only _ _ _)
    | with_reducible intro _
    | split
    | dsimp only [id]

theorem State.eventBut_only : ∀ s a1 a2 a3 a4, ChangesOnly [.sessions, .portq] s (State.eventBut s a1 a2 a3 a4) := by
  intro s a1 a2 a3 a4
  unfold State.eventBut
  repeat' first
    | with_reducible apply ChangesOnly.refl
    | exact Eq.refl true
    | with_reducible apply ChangesOnly.ite
    | with_reducible apply ChangesOnly.foldl
    | with_reducible apply ChangesOnly.step ?_ (State.sendSess_only _ _ _ _)
    | with_reducible intro _
    | split
    | dsimp only [id]

theorem State.event_only : ∀ s a1 a2 a3, ChangesOnly [.sessions, .portq] s (State.event s a1 a2 a3) := by
  intro s a1 a2 a3
  unfold State.event
  repeat' first
    | with_reducible apply ChangesOnly.refl
    | exact Eq.refl true
    | with_reducible apply ChangesOnly.ite
    | with_reducible apply ChangesOnly.foldl
    | with_reducible apply ChangesOnly.step ?_ (State.eventBut_only _ _ _ _ _)
    | with_reducible intro _
    | split
    | dsimp only [id]

theorem State.eventAll_only : ∀ s a1 a2, ChangesOnly [.sessions, .portq] s (State.eventAll s a1 a2) := by
  intro s a1 a2
  unfold State.eventAll
  repeat' first
    | with_reducible apply ChangesOnly.refl
    | exact Eq.refl true
    | with_reducible apply ChangesOnly.ite
    | with_reducible apply ChangesOnly.foldl
    | with_reducible apply ChangesOnly.step ?_ (State.event_only _ _ _ _)
    | with_reducible intro _
    | split
    | dsimp only [id]

theorem State.complete_only : ∀ s a1 a2, ChangesOnly [.sessions, .portq, .jetty] s (State.complete s a1 a2) := by
  intro s a1 a2
  unfold State.complete
  repeat' first
    | with_reducible exact Or.inl rfl
    | with_reducible exact Or.inr rfl
    | exact Or.inl rfl
    | with_reducible apply ChangesOnly.refl
    | exact Eq.refl true
    | with_reducible apply ChangesOnly.ite
    | with_reducible apply ChangesOnly.foldl
    | with_reducible apply ChangesOnly.step ?_ (State.modSess_only _ _ _)
    | with_reducible apply ChangesOnly.step ?_ (State.sendSess_only _ _ _ _)
    | with_reducible intro _
    | split
    | dsimp only [id]
    | with_reducible apply ChangesOnly.record

theorem State.sendBare_only : ∀ s a1 a2 a3, ChangesOnly [.portq] s (State.sendBare s a1 a2 a3) := by
  intro s a1 a2 a3
  unfold State.sendBare
  repeat' first
    | with_reducible apply ChangesOnly.refl
    | exact Eq.refl true
    | with_reducible apply ChangesOnly.ite
    | with_reducible apply ChangesOnly.foldl
    | with_reducible apply ChangesOnly.step ?_ (State.transmit_only _ _ _)
    | with_reducible intro _
    | split
    | dsimp only [id]

theorem State.completeWork_only : ∀ s a1 a2 a3, ChangesOnly [.sessions, .portq, .jetty] s (State.completeWork s a1 a2 a3) := by
  intro s a1 a2 a3
  unfold State.completeWork
  repeat' first
    | with_reducible apply ChangesOnly.refl
    | exact Eq.refl true
    | with_reducible apply ChangesOnly.ite
    | with_reducible apply ChangesOnly.foldl
    | with_reducible apply ChangesOnly.step ?_ (State.complete_only _ _ _)
    | with_reducible intro _
    | split
    | dsimp only [id]

theorem State.endWork_only : ∀ s a1 a2 a3 a4 a5, ChangesOnly [.bays, .sessions, .portq, .jetty] s (State.endWork s a1 a2 a3 a4 a5) := by
  intro s a1 a2 a3 a4 a5
  unfold State.endWork
  repeat' first
    | with_reducible apply ChangesOnly.refl
    | exact Eq.refl true
    | with_reducible apply ChangesOnly.ite
    | with_reducible apply ChangesOnly.foldl
    | with_reducible apply ChangesOnly.step ?_ (State.modBay_only _ _ _)
    | with_reducible apply ChangesOnly.step ?_ (State.completeWork_only _ _ _ _)
    | with_reducible intro _
    | split
    | dsimp only [id]

theorem State.endRunning_only : ∀ s a1 a2 a3, ChangesOnly [.bays, .sessions, .portq, .jetty] s (State.endRunning s a1 a2 a3) := by
  intro s a1 a2 a3
  unfold State.endRunning
  repeat' first
    | with_reducible apply ChangesOnly.refl
    | exact Eq.refl true
    | with_reducible apply ChangesOnly.ite
    | with_reducible apply ChangesOnly.foldl
    | with_reducible apply ChangesOnly.step ?_ (State.modBay_only _ _ _)
    | with_reducible apply ChangesOnly.step ?_ (State.endWork_only _ _ _ _ _ _)
    | with_reducible intro _
    | split
    | dsimp only [id]

theorem State.answerCmd_only : ∀ s a1 a2 a3 a4 a5, ChangesOnly [.sessions, .portq, .jetty] s (State.answerCmd s a1 a2 a3 a4 a5) := by
  intro s a1 a2 a3 a4 a5
  unfold State.answerCmd
  repeat' first
    | with_reducible exact Or.inl rfl
    | with_reducible exact Or.inr rfl
    | exact Or.inl rfl
    | with_reducible apply ChangesOnly.refl
    | exact Eq.refl true
    | with_reducible apply ChangesOnly.ite
    | with_reducible apply ChangesOnly.foldl
    | with_reducible apply ChangesOnly.step ?_ (State.sendSess_only _ _ _ _)
    | with_reducible apply ChangesOnly.step ?_ (State.sendBare_only _ _ _ _)
    | with_reducible intro _
    | split
    | dsimp only [id]
    | with_reducible apply ChangesOnly.record

theorem State.dropQueue_only : ∀ s a1 a2 a3, ChangesOnly [.bays, .sessions, .portq, .jetty] s (State.dropQueue s a1 a2 a3) := by
  intro s a1 a2 a3
  unfold State.dropQueue
  repeat' first
    | with_reducible apply ChangesOnly.refl
    | exact Eq.refl true
    | with_reducible apply ChangesOnly.ite
    | with_reducible apply ChangesOnly.foldl
    | with_reducible apply ChangesOnly.step ?_ (State.modBay_only _ _ _)
    | with_reducible apply ChangesOnly.step ?_ (State.completeWork_only _ _ _ _)
    | with_reducible intro _
    | split
    | dsimp only [id]

theorem State.ethCount_only : ∀ s a1 a2 a3, ChangesOnly [.ports] s (State.ethCount s a1 a2 a3) := by
  intro s a1 a2 a3
  unfold State.ethCount
  repeat' first
    | with_reducible apply ChangesOnly.refl
    | exact Eq.refl true
    | with_reducible apply ChangesOnly.ite
    | with_reducible apply ChangesOnly.foldl
    | with_reducible apply ChangesOnly.step ?_ (State.modPort_only _ _ _)
    | with_reducible intro _
    | split
    | dsimp only [id]

end Sys2Proof.Machine
end

