-- ==== Sys2Proof/Laws/OnlyEthOps.lean ====
section
/-!
SUPPORT. For each operation and meaning of Machine/EthOps.lean: the parts of the state that it can change.
-/

set_option linter.unreachableTactic false
set_option linter.unusedTactic false

namespace Sys2Proof.Machine

theorem State.linkDown_only : ∀ s a1, ChangesOnly [.ports, .portq, .su] s (State.linkDown s a1) := by
  intro s a1
  unfold State.linkDown
  repeat' first
    | with_reducible exact Or.inl rfl
    | with_reducible exact Or.inr rfl
    | exact Or.inl rfl
    | with_reducible apply ChangesOnly.refl
    | exact Eq.refl true
    | with_reducible apply ChangesOnly.ite
    | with_reducible apply ChangesOnly.foldl
    | with_reducible apply ChangesOnly.step ?_ (State.modPort_only _ _ _)
    | with_reducible apply ChangesOnly.step ?_ (State.modPortQ_only _ _ _)
    | with_reducible apply ChangesOnly.step ?_ (State.ethCount_only _ _ _ _)
    | with_reducible intro _
    | split
    | dsimp only [id]
    | with_reducible apply ChangesOnly.record

theorem State.beginTraining_only : ∀ s a1, ChangesOnly [.ports] s (State.beginTraining s a1) := by
  intro s a1
  unfold State.beginTraining
  repeat' first
    | with_reducible apply ChangesOnly.refl
    | exact Eq.refl true
    | with_reducible apply ChangesOnly.ite
    | with_reducible apply ChangesOnly.foldl
    | with_reducible apply ChangesOnly.step ?_ (State.modPort_only _ _ _)
    | with_reducible intro _
    | split
    | dsimp only [id]

theorem State.resetIfDown_only : ∀ s, ChangesOnly [.clk, .coves, .hbm, .ctrls, .streams, .bays, .sessions, .qps, .ports, .portq, .jetty, .rot, .net, .pwr, .pwrx, .img, .su, .ident, .pins] s (State.resetIfDown s) := by
  intro s
  unfold State.resetIfDown
  repeat' first
    | with_reducible apply ChangesOnly.refl
    | exact Eq.refl true
    | with_reducible apply ChangesOnly.ite
    | with_reducible apply ChangesOnly.foldl
    | with_reducible apply ChangesOnly.step ?_ (State.restart_only _)
    | with_reducible intro _
    | split
    | dsimp only [id]

theorem State.linkLost_only : ∀ s a1, ChangesOnly [.clk, .coves, .hbm, .ctrls, .streams, .bays, .sessions, .qps, .ports, .portq, .jetty, .rot, .net, .pwr, .pwrx, .img, .su, .ident, .pins] s (State.linkLost s a1) := by
  intro s a1
  unfold State.linkLost
  repeat' first
    | with_reducible apply ChangesOnly.refl
    | exact Eq.refl true
    | with_reducible apply ChangesOnly.ite
    | with_reducible apply ChangesOnly.foldl
    | with_reducible apply ChangesOnly.step ?_ (State.linkDown_only _ _)
    | with_reducible apply ChangesOnly.step ?_ (State.beginTraining_only _ _)
    | with_reducible apply ChangesOnly.step ?_ (State.resetIfDown_only _)
    | with_reducible intro _
    | split
    | dsimp only [id]

theorem State.dropSessions_only : ∀ s a1, ChangesOnly [.sessions, .qps, .portq] s (State.dropSessions s a1) := by
  intro s a1
  unfold State.dropSessions
  repeat' first
    | with_reducible apply ChangesOnly.refl
    | exact Eq.refl true
    | with_reducible apply ChangesOnly.ite
    | with_reducible apply ChangesOnly.foldl
    | with_reducible apply ChangesOnly.step ?_ (State.modSess_only _ _ _)
    | with_reducible apply ChangesOnly.step ?_ (State.modQp_only _ _ _)
    | with_reducible apply ChangesOnly.step ?_ (State.eventBut_only _ _ _ _ _)
    | with_reducible intro _
    | split
    | dsimp only [id]

theorem State.depart_only : ∀ s a1 a2 a3, ChangesOnly [.ports, .portq] s (State.depart s a1 a2 a3) := by
  intro s a1 a2 a3
  unfold State.depart
  repeat' first
    | with_reducible apply ChangesOnly.refl
    | exact Eq.refl true
    | with_reducible apply ChangesOnly.ite
    | with_reducible apply ChangesOnly.foldl
    | with_reducible apply ChangesOnly.step ?_ (State.modPort_only _ _ _)
    | with_reducible apply ChangesOnly.step ?_ (State.modPortQ_only _ _ _)
    | with_reducible intro _
    | split
    | dsimp only [id]

theorem State.stepTime_only : ∀ s a1, ChangesOnly [.mt, .coves, .sessions, .qps, .portq, .jetty] s (State.stepTime s a1) := by
  intro s a1
  unfold State.stepTime
  repeat' first
    | with_reducible exact Or.inl rfl
    | with_reducible exact Or.inr rfl
    | exact Or.inl rfl
    | with_reducible apply ChangesOnly.refl
    | exact Eq.refl true
    | with_reducible apply ChangesOnly.ite
    | with_reducible apply ChangesOnly.foldl
    | with_reducible intro _
    | split
    | dsimp only [id]
    | with_reducible apply ChangesOnly.record

theorem State.portEvent_only : ∀ s a1 a2, ChangesOnly [.ports, .mg] s (State.portEvent s a1 a2) := by
  intro s a1 a2
  unfold State.portEvent
  repeat' first
    | with_reducible apply ChangesOnly.refl
    | exact Eq.refl true
    | with_reducible apply ChangesOnly.ite
    | with_reducible apply ChangesOnly.foldl
    | with_reducible apply ChangesOnly.step ?_ (State.modPort_only _ _ _)
    | with_reducible apply ChangesOnly.step ?_ (State.log_only _ _)
    | with_reducible intro _
    | split
    | dsimp only [id]

end Sys2Proof.Machine
end

