-- ==== Sys2Proof/Laws/MemEthOps.lean ====
section
/-!
SUPPORT. The operations and meanings of Machine/EthOps.lean that write HBM or the devices keep their memories in canonical form.
-/

set_option linter.unreachableTactic false
set_option linter.unusedTactic false

namespace Sys2Proof.Machine

theorem State.resetIfDown_mem : ∀ s, MemKept s (State.resetIfDown s) := by
  intro s
  unfold State.resetIfDown
  repeat' first
    | with_reducible apply MemKept.refl
    | exact Eq.refl true
    | with_reducible apply MemKept.ite
    | with_reducible apply MemKept.foldl
    | with_reducible apply MemKept.trans ?_ (State.restart_mem _)
    | with_reducible intro _
    | split
    | dsimp only [id]

theorem State.linkLost_mem : ∀ s a1, MemKept s (State.linkLost s a1) := by
  intro s a1
  unfold State.linkLost
  repeat' first
    | with_reducible apply MemKept.refl
    | exact Eq.refl true
    | with_reducible apply MemKept.ite
    | with_reducible apply MemKept.foldl
    | with_reducible apply MemKept.step ?_ (State.linkDown_only _ _)
    | with_reducible apply MemKept.step ?_ (State.beginTraining_only _ _)
    | with_reducible apply MemKept.trans ?_ (State.resetIfDown_mem _)
    | with_reducible intro _
    | split
    | dsimp only [id]

end Sys2Proof.Machine
end

