-- ==== Sys2Proof/Laws/OnlyStandby.lean ====
section
/-!
SUPPORT. For each operation and meaning of Machine/Standby.lean: the parts of the state that it can change.
-/

set_option linter.unreachableTactic false
set_option linter.unusedTactic false

namespace Sys2Proof.Machine

theorem State.closeSeam_only : ∀ s, ChangesOnly [.clk] s (State.closeSeam s) := by
  intro s
  unfold State.closeSeam
  repeat' first
    | with_reducible apply ChangesOnly.refl
    | exact Eq.refl true
    | with_reducible apply ChangesOnly.ite
    | with_reducible apply ChangesOnly.foldl
    | with_reducible apply ChangesOnly.step ?_ (State.modSeam_only _ _ _)
    | with_reducible intro _
    | split
    | dsimp only [id]

theorem State.seamFollows_only : ∀ s, ChangesOnly [.clk] s (State.seamFollows s) := by
  intro s
  unfold State.seamFollows
  repeat' first
    | with_reducible apply ChangesOnly.refl
    | exact Eq.refl true
    | with_reducible apply ChangesOnly.ite
    | with_reducible apply ChangesOnly.foldl
    | with_reducible apply ChangesOnly.step ?_ (State.closeSeam_only _)
    | with_reducible intro _
    | split
    | dsimp only [id]

theorem State.loadStandby_only : ∀ s a1, ChangesOnly [.coves] s (State.loadStandby s a1) := by
  intro s a1
  unfold State.loadStandby
  repeat' first
    | with_reducible apply ChangesOnly.refl
    | exact Eq.refl true
    | with_reducible apply ChangesOnly.ite
    | with_reducible apply ChangesOnly.foldl
    | with_reducible apply ChangesOnly.step ?_ (State.modCoves_only _ _ _)
    | with_reducible intro _
    | split
    | dsimp only [id]

theorem State.removeProgram_only : ∀ s a1, ChangesOnly [.clk, .coves, .bays] s (State.removeProgram s a1) := by
  intro s a1
  unfold State.removeProgram
  repeat' first
    | with_reducible apply ChangesOnly.refl
    | exact Eq.refl true
    | with_reducible apply ChangesOnly.ite
    | with_reducible apply ChangesOnly.foldl
    | with_reducible apply ChangesOnly.step ?_ (State.modBay_only _ _ _)
    | with_reducible apply ChangesOnly.step ?_ (State.seamFollows_only _)
    | with_reducible apply ChangesOnly.step ?_ (State.loadStandby_only _ _)
    | with_reducible intro _
    | split
    | dsimp only [id]

theorem State.takeProgram_only : ∀ s a1, ChangesOnly [.clk, .coves, .bays, .sessions, .portq, .jetty] s (State.takeProgram s a1) := by
  intro s a1
  unfold State.takeProgram
  repeat' first
    | with_reducible apply ChangesOnly.refl
    | exact Eq.refl true
    | with_reducible apply ChangesOnly.ite
    | with_reducible apply ChangesOnly.foldl
    | with_reducible apply ChangesOnly.step ?_ (State.modBay_only _ _ _)
    | with_reducible apply ChangesOnly.step ?_ (State.complete_only _ _ _)
    | with_reducible apply ChangesOnly.step ?_ (State.removeProgram_only _ _)
    | with_reducible intro _
    | split
    | dsimp only [id]

end Sys2Proof.Machine
end

