-- ==== Sys2Proof/Laws/OnlyDiscard.lean ====
section
/-!
SUPPORT. For each operation and meaning of Machine/Discard.lean: the parts of the state that it can change.
-/

set_option linter.unreachableTactic false
set_option linter.unusedTactic false

namespace Sys2Proof.Machine

theorem State.countDiscarded_only : ∀ s a1 a2, ChangesOnly [.bays] s (State.countDiscarded s a1 a2) := by
  intro s a1 a2
  unfold State.countDiscarded
  repeat' first
    | with_reducible apply ChangesOnly.refl
    | exact Eq.refl true
    | with_reducible apply ChangesOnly.ite
    | with_reducible apply ChangesOnly.foldl
    | with_reducible apply ChangesOnly.step ?_ (State.modBay_only _ _ _)
    | with_reducible intro _
    | split
    | dsimp only [id]

theorem State.discard_only : ∀ s a1 a2, ChangesOnly [.coves, .ctrls, .streams, .bays, .net] s (State.discard s a1 a2) := by
  intro s a1 a2
  unfold State.discard
  repeat' first
    | with_reducible exact Or.inl rfl
    | with_reducible exact Or.inr rfl
    | exact Or.inl rfl
    | with_reducible apply ChangesOnly.refl
    | exact Eq.refl true
    | with_reducible apply ChangesOnly.ite
    | with_reducible apply ChangesOnly.foldl
    | with_reducible apply ChangesOnly.step ?_ (State.modBay_only _ _ _)
    | with_reducible apply ChangesOnly.step ?_ (State.modCoves_only _ _ _)
    | with_reducible intro _
    | split
    | dsimp only [id]
    | with_reducible apply ChangesOnly.record

theorem State.discardAll_only : ∀ s a1, ChangesOnly [.coves, .ctrls, .streams, .bays, .net] s (State.discardAll s a1) := by
  intro s a1
  unfold State.discardAll
  repeat' first
    | with_reducible apply ChangesOnly.refl
    | exact Eq.refl true
    | with_reducible apply ChangesOnly.ite
    | with_reducible apply ChangesOnly.foldl
    | with_reducible apply ChangesOnly.step ?_ (State.discard_only _ _ _)
    | with_reducible intro _
    | split
    | dsimp only [id]

theorem State.closeRun_only : ∀ s a1, ChangesOnly [.coves] s (State.closeRun s a1) := by
  intro s a1
  unfold State.closeRun
  repeat' first
    | with_reducible apply ChangesOnly.refl
    | exact Eq.refl true
    | with_reducible apply ChangesOnly.ite
    | with_reducible apply ChangesOnly.foldl
    | with_reducible apply ChangesOnly.step ?_ (State.modCoves_only _ _ _)
    | with_reducible intro _
    | split
    | dsimp only [id]

theorem State.stopBay_only : ∀ s a1 a2, ChangesOnly [.clk, .coves, .ctrls, .streams, .bays, .sessions, .portq, .jetty, .net, .mg] s (State.stopBay s a1 a2) := by
  intro s a1 a2
  unfold State.stopBay
  repeat' first
    | with_reducible apply ChangesOnly.refl
    | exact Eq.refl true
    | with_reducible apply ChangesOnly.ite
    | with_reducible apply ChangesOnly.foldl
    | with_reducible apply ChangesOnly.step ?_ (State.modBay_only _ _ _)
    | with_reducible apply ChangesOnly.step ?_ (State.discardAll_only _ _)
    | with_reducible apply ChangesOnly.step ?_ (State.endRunning_only _ _ _ _)
    | with_reducible apply ChangesOnly.step ?_ (State.takeProgram_only _ _)
    | with_reducible apply ChangesOnly.step ?_ (State.countDiscarded_only _ _ _)
    | with_reducible apply ChangesOnly.step ?_ (State.logBay_only _ _ _)
    | with_reducible apply ChangesOnly.step ?_ (State.dropQueue_only _ _ _ _)
    | with_reducible apply ChangesOnly.step ?_ (State.event_only _ _ _ _)
    | with_reducible apply ChangesOnly.step ?_ (State.closeRun_only _ _)
    | with_reducible intro _
    | split
    | dsimp only [id]

theorem State.rollbackAll_only : ∀ s a1, ChangesOnly [.coves, .ctrls, .streams, .bays, .net] s (State.rollbackAll s a1) := by
  intro s a1
  unfold State.rollbackAll
  repeat' first
    | with_reducible apply ChangesOnly.refl
    | exact Eq.refl true
    | with_reducible apply ChangesOnly.ite
    | with_reducible apply ChangesOnly.foldl
    | with_reducible apply ChangesOnly.step ?_ (State.modBay_only _ _ _)
    | with_reducible apply ChangesOnly.step ?_ (State.discardAll_only _ _)
    | with_reducible apply ChangesOnly.step ?_ (State.countDiscarded_only _ _ _)
    | with_reducible intro _
    | split
    | dsimp only [id]

theorem State.park_only : ∀ s a1, ChangesOnly [.coves, .ctrls, .streams, .bays, .net, .pwr] s (State.park s a1) := by
  intro s a1
  unfold State.park
  repeat' first
    | with_reducible exact Or.inl rfl
    | with_reducible exact Or.inr rfl
    | exact Or.inl rfl
    | with_reducible apply ChangesOnly.refl
    | exact Eq.refl true
    | with_reducible apply ChangesOnly.ite
    | with_reducible apply ChangesOnly.foldl
    | with_reducible apply ChangesOnly.step ?_ (State.rollbackAll_only _ _)
    | with_reducible intro _
    | split
    | dsimp only [id]
    | with_reducible apply ChangesOnly.record

theorem State.unpark_only : ∀ s a1, ChangesOnly [.pwr] s (State.unpark s a1) := by
  intro s a1
  unfold State.unpark
  repeat' first
    | with_reducible exact Or.inl rfl
    | with_reducible exact Or.inr rfl
    | exact Or.inl rfl
    | with_reducible apply ChangesOnly.refl
    | exact Eq.refl true
    | with_reducible apply ChangesOnly.ite
    | with_reducible apply ChangesOnly.foldl
    | with_reducible intro _
    | split
    | dsimp only [id]
    | with_reducible apply ChangesOnly.record

end Sys2Proof.Machine
end

