-- ==== Sys2Proof/Laws/OnlyFaults.lean ====
section
/-!
SUPPORT. For each operation and meaning of Machine/Faults.lean: the parts of the state that it can change.
-/

set_option linter.unreachableTactic false
set_option linter.unusedTactic false

namespace Sys2Proof.Machine

theorem State.exportRecord_only : ∀ s a1 a2, ChangesOnly [.integ, .mg] s (State.exportRecord s a1 a2) := by
  intro s a1 a2
  unfold State.exportRecord
  repeat' first
    | with_reducible exact Or.inl rfl
    | with_reducible exact Or.inr rfl
    | exact Or.inl rfl
    | with_reducible apply ChangesOnly.refl
    | exact Eq.refl true
    | with_reducible apply ChangesOnly.ite
    | with_reducible apply ChangesOnly.foldl
    | with_reducible apply ChangesOnly.step ?_ (State.logRecord_only _ _ _ _)
    | with_reducible intro _
    | split
    | dsimp only [id]
    | with_reducible apply ChangesOnly.record

theorem State.exportRecords_only : ∀ s a1, ChangesOnly [.coves, .integ, .mg] s (State.exportRecords s a1) := by
  intro s a1
  unfold State.exportRecords
  repeat' first
    | with_reducible apply ChangesOnly.refl
    | exact Eq.refl true
    | with_reducible apply ChangesOnly.ite
    | with_reducible apply ChangesOnly.foldl
    | with_reducible apply ChangesOnly.step ?_ (State.modCove_only _ _ _)
    | with_reducible apply ChangesOnly.step ?_ (State.exportRecord_only _ _ _)
    | with_reducible intro _
    | split
    | dsimp only [id]

theorem State.abandonTest_only : ∀ s a1, ChangesOnly [.rot] s (State.abandonTest s a1) := by
  intro s a1
  unfold State.abandonTest
  repeat' first
    | with_reducible apply ChangesOnly.refl
    | exact Eq.refl true
    | with_reducible apply ChangesOnly.ite
    | with_reducible apply ChangesOnly.foldl
    | with_reducible apply ChangesOnly.step ?_ (State.modField_only _ _ _)
    | with_reducible intro _
    | split
    | dsimp only [id]

theorem State.placeMove_only : ∀ s a1 a2, ChangesOnly [.rot] s (State.placeMove s a1 a2) := by
  intro s a1 a2
  unfold State.placeMove
  repeat' first
    | with_reducible exact Or.inl rfl
    | with_reducible exact Or.inr rfl
    | exact Or.inl rfl
    | with_reducible apply ChangesOnly.refl
    | exact Eq.refl true
    | with_reducible apply ChangesOnly.ite
    | with_reducible apply ChangesOnly.foldl
    | with_reducible apply ChangesOnly.step ?_ (State.abandonTest_only _ _)
    | with_reducible intro _
    | split
    | dsimp only [id]
    | with_reducible apply ChangesOnly.record

theorem State.askMove_only : ∀ s a1, ChangesOnly [.rot] s (State.askMove s a1) := by
  intro s a1
  unfold State.askMove
  repeat' first
    | with_reducible exact Or.inl rfl
    | with_reducible exact Or.inr rfl
    | exact Or.inl rfl
    | with_reducible apply ChangesOnly.refl
    | exact Eq.refl true
    | with_reducible apply ChangesOnly.ite
    | with_reducible apply ChangesOnly.foldl
    | with_reducible apply ChangesOnly.step ?_ (State.modField_only _ _ _)
    | with_reducible apply ChangesOnly.step ?_ (State.placeMove_only _ _ _)
    | with_reducible intro _
    | split
    | dsimp only [id]
    | with_reducible apply ChangesOnly.record

theorem State.rechoose_only : ∀ s a1, ChangesOnly [.rot] s (State.rechoose s a1) := by
  intro s a1
  unfold State.rechoose
  repeat' first
    | with_reducible apply ChangesOnly.refl
    | exact Eq.refl true
    | with_reducible apply ChangesOnly.ite
    | with_reducible apply ChangesOnly.foldl
    | with_reducible apply ChangesOnly.step ?_ (State.placeMove_only _ _ _)
    | with_reducible intro _
    | split
    | dsimp only [id]

theorem State.journalCove_only : ∀ s a1, ChangesOnly [.su] s (State.journalCove s a1) := by
  intro s a1
  unfold State.journalCove
  repeat' first
    | with_reducible apply ChangesOnly.refl
    | exact Eq.refl true
    | with_reducible apply ChangesOnly.ite
    | with_reducible apply ChangesOnly.foldl
    | with_reducible apply ChangesOnly.step ?_ (State.journal_only _ _ _)
    | with_reducible intro _
    | split
    | dsimp only [id]

theorem State.setCoveState_only : ∀ s a1 a2, ChangesOnly [.coves, .su] s (State.setCoveState s a1 a2) := by
  intro s a1 a2
  unfold State.setCoveState
  repeat' first
    | with_reducible apply ChangesOnly.refl
    | exact Eq.refl true
    | with_reducible apply ChangesOnly.ite
    | with_reducible apply ChangesOnly.foldl
    | with_reducible apply ChangesOnly.step ?_ (State.modCove_only _ _ _)
    | with_reducible apply ChangesOnly.step ?_ (State.journalCove_only _ _)
    | with_reducible intro _
    | split
    | dsimp only [id]

theorem State.fenceDone_only : ∀ s a1 a2 a3, ChangesOnly [.coves, .sessions, .portq, .rot, .su] s (State.fenceDone s a1 a2 a3) := by
  intro s a1 a2 a3
  unfold State.fenceDone
  repeat' first
    | with_reducible apply ChangesOnly.refl
    | exact Eq.refl true
    | with_reducible apply ChangesOnly.ite
    | with_reducible apply ChangesOnly.foldl
    | with_reducible apply ChangesOnly.step ?_ (State.modField_only _ _ _)
    | with_reducible apply ChangesOnly.step ?_ (State.modCoveTest_only _ _ _)
    | with_reducible apply ChangesOnly.step ?_ (State.setCoveState_only _ _ _)
    | with_reducible apply ChangesOnly.step ?_ (State.event_only _ _ _ _)
    | with_reducible intro _
    | split
    | dsimp only [id]

theorem State.fenceForced_only : ∀ s a1, ChangesOnly [.coves, .sessions, .portq, .rot, .su] s (State.fenceForced s a1) := by
  intro s a1
  unfold State.fenceForced
  repeat' first
    | with_reducible apply ChangesOnly.refl
    | exact Eq.refl true
    | with_reducible apply ChangesOnly.ite
    | with_reducible apply ChangesOnly.foldl
    | with_reducible apply ChangesOnly.step ?_ (State.askMove_only _ _)
    | with_reducible apply ChangesOnly.step ?_ (State.modCoveTest_only _ _ _)
    | with_reducible apply ChangesOnly.step ?_ (State.rechoose_only _ _)
    | with_reducible apply ChangesOnly.step ?_ (State.fenceDone_only _ _ _ _)
    | with_reducible intro _
    | split
    | dsimp only [id]

theorem State.setWatch_only : ∀ s a1 a2, ChangesOnly [.bays, .sessions, .portq] s (State.setWatch s a1 a2) := by
  intro s a1 a2
  unfold State.setWatch
  repeat' first
    | with_reducible apply ChangesOnly.refl
    | exact Eq.refl true
    | with_reducible apply ChangesOnly.ite
    | with_reducible apply ChangesOnly.foldl
    | with_reducible apply ChangesOnly.step ?_ (State.modBay_only _ _ _)
    | with_reducible apply ChangesOnly.step ?_ (State.event_only _ _ _ _)
    | with_reducible intro _
    | split
    | dsimp only [id]

theorem State.goWatch_only : ∀ s a1, ChangesOnly [.coves, .bays, .sessions, .portq, .rot, .su, .mg] s (State.goWatch s a1) := by
  intro s a1
  unfold State.goWatch
  repeat' first
    | with_reducible apply ChangesOnly.refl
    | exact Eq.refl true
    | with_reducible apply ChangesOnly.ite
    | with_reducible apply ChangesOnly.foldl
    | with_reducible apply ChangesOnly.step ?_ (State.setWatch_only _ _ _)
    | with_reducible apply ChangesOnly.step ?_ (State.modCoveTest_only _ _ _)
    | with_reducible apply ChangesOnly.step ?_ (State.setCoveState_only _ _ _)
    | with_reducible apply ChangesOnly.step ?_ (State.logCove_only _ _ _)
    | with_reducible intro _
    | split
    | dsimp only [id]

theorem State.fenceCounted_only : ∀ s a1, ChangesOnly [.coves, .sessions, .portq, .rot, .su] s (State.fenceCounted s a1) := by
  intro s a1
  unfold State.fenceCounted
  repeat' first
    | with_reducible apply ChangesOnly.refl
    | exact Eq.refl true
    | with_reducible apply ChangesOnly.ite
    | with_reducible apply ChangesOnly.foldl
    | with_reducible apply ChangesOnly.step ?_ (State.modField_only _ _ _)
    | with_reducible apply ChangesOnly.step ?_ (State.askMove_only _ _)
    | with_reducible apply ChangesOnly.step ?_ (State.fenceDone_only _ _ _ _)
    | with_reducible intro _
    | split
    | dsimp only [id]

theorem State.decideFence_only : ∀ s a1 a2, ChangesOnly [.coves, .bays, .sessions, .portq, .rot, .su, .mg] s (State.decideFence s a1 a2) := by
  intro s a1 a2
  unfold State.decideFence
  repeat' first
    | with_reducible apply ChangesOnly.refl
    | exact Eq.refl true
    | with_reducible apply ChangesOnly.ite
    | with_reducible apply ChangesOnly.foldl
    | with_reducible apply ChangesOnly.step ?_ (State.goWatch_only _ _)
    | with_reducible apply ChangesOnly.step ?_ (State.fenceCounted_only _ _)
    | with_reducible intro _
    | split
    | dsimp only [id]

theorem State.suspect_only : ∀ s a1, ChangesOnly [.coves, .bays, .sessions, .portq, .rot, .su, .mg] s (State.suspect s a1) := by
  intro s a1
  unfold State.suspect
  repeat' first
    | with_reducible apply ChangesOnly.refl
    | exact Eq.refl true
    | with_reducible apply ChangesOnly.ite
    | with_reducible apply ChangesOnly.foldl
    | with_reducible apply ChangesOnly.step ?_ (State.modField_only _ _ _)
    | with_reducible apply ChangesOnly.step ?_ (State.modCoveTest_only _ _ _)
    | with_reducible apply ChangesOnly.step ?_ (State.fenceForced_only _ _)
    | with_reducible apply ChangesOnly.step ?_ (State.setCoveState_only _ _ _)
    | with_reducible apply ChangesOnly.step ?_ (State.decideFence_only _ _ _)
    | with_reducible apply ChangesOnly.step ?_ (State.goWatch_only _ _)
    | with_reducible intro _
    | split
    | dsimp only [id]

theorem State.judgeScore_only : ∀ s a1, ChangesOnly [.coves, .bays, .sessions, .portq, .integ, .rot, .su, .mg] s (State.judgeScore s a1) := by
  intro s a1
  unfold State.judgeScore
  repeat' first
    | with_reducible apply ChangesOnly.refl
    | exact Eq.refl true
    | with_reducible apply ChangesOnly.ite
    | with_reducible apply ChangesOnly.foldl
    | with_reducible apply ChangesOnly.step ?_ (State.exportRecords_only _ _)
    | with_reducible apply ChangesOnly.step ?_ (State.suspect_only _ _)
    | with_reducible intro _
    | split
    | dsimp only [id]

theorem State.owesRecord_only : ∀ s a1 a2 a3 a4, ChangesOnly [.coves] s (State.owesRecord s a1 a2 a3 a4) := by
  intro s a1 a2 a3 a4
  unfold State.owesRecord
  repeat' first
    | with_reducible apply ChangesOnly.refl
    | exact Eq.refl true
    | with_reducible apply ChangesOnly.ite
    | with_reducible apply ChangesOnly.foldl
    | with_reducible apply ChangesOnly.step ?_ (State.modCove_only _ _ _)
    | with_reducible intro _
    | split
    | dsimp only [id]

theorem State.chargeWith_only : ∀ s a1 a2 a3 a4, ChangesOnly [.coves, .bays, .sessions, .portq, .integ, .rot, .su, .mg] s (State.chargeWith s a1 a2 a3 a4) := by
  intro s a1 a2 a3 a4
  unfold State.chargeWith
  repeat' first
    | with_reducible apply ChangesOnly.refl
    | exact Eq.refl true
    | with_reducible apply ChangesOnly.ite
    | with_reducible apply ChangesOnly.foldl
    | with_reducible apply ChangesOnly.step ?_ (State.modCove_only _ _ _)
    | with_reducible apply ChangesOnly.step ?_ (State.judgeScore_only _ _)
    | with_reducible apply ChangesOnly.step ?_ (State.owesRecord_only _ _ _ _ _)
    | with_reducible apply ChangesOnly.step ?_ (State.logCove_only _ _ _)
    | with_reducible intro _
    | split
    | dsimp only [id]

theorem State.modStep_only : ∀ s a1 a2 a3, ChangesOnly [.bays] s (State.modStep s a1 a2 a3) := by
  intro s a1 a2 a3
  unfold State.modStep
  repeat' first
    | with_reducible apply ChangesOnly.refl
    | exact Eq.refl true
    | with_reducible apply ChangesOnly.ite
    | with_reducible apply ChangesOnly.foldl
    | with_reducible apply ChangesOnly.step ?_ (State.modBay_only _ _ _)
    | with_reducible intro _
    | split
    | dsimp only [id]

theorem State.blame_only : ∀ s a1 a2 a3, ChangesOnly [.bays] s (State.blame s a1 a2 a3) := by
  intro s a1 a2 a3
  unfold State.blame
  repeat' first
    | with_reducible apply ChangesOnly.refl
    | exact Eq.refl true
    | with_reducible apply ChangesOnly.ite
    | with_reducible apply ChangesOnly.foldl
    | with_reducible apply ChangesOnly.step ?_ (State.modStep_only _ _ _ _)
    | with_reducible intro _
    | split
    | dsimp only [id]

theorem State.coveErrorIn_only : ∀ s a1 a2 a3 a4, ChangesOnly [.coves, .bays, .sessions, .portq, .integ, .rot, .su, .mg] s (State.coveErrorIn s a1 a2 a3 a4) := by
  intro s a1 a2 a3 a4
  unfold State.coveErrorIn
  repeat' first
    | with_reducible apply ChangesOnly.refl
    | exact Eq.refl true
    | with_reducible apply ChangesOnly.ite
    | with_reducible apply ChangesOnly.foldl
    | with_reducible apply ChangesOnly.step ?_ (State.chargeWith_only _ _ _ _ _)
    | with_reducible apply ChangesOnly.step ?_ (State.blame_only _ _ _ _)
    | with_reducible intro _
    | split
    | dsimp only [id]

theorem State.castFail_only : ∀ s a1 a2 a3 a4 a5, ChangesOnly [.coves, .bays] s (State.castFail s a1 a2 a3 a4 a5) := by
  intro s a1 a2 a3 a4 a5
  unfold State.castFail
  repeat' first
    | with_reducible apply ChangesOnly.refl
    | exact Eq.refl true
    | with_reducible apply ChangesOnly.ite
    | with_reducible apply ChangesOnly.foldl
    | with_reducible apply ChangesOnly.step ?_ (State.modCove_only _ _ _)
    | with_reducible apply ChangesOnly.step ?_ (State.modStep_only _ _ _ _)
    | with_reducible intro _
    | split
    | dsimp only [id]

theorem State.hwErrorIn_only : ∀ s a1 a2 a3 a4, ChangesOnly [.coves, .bays, .sessions, .portq, .integ, .rot, .su, .mg] s (State.hwErrorIn s a1 a2 a3 a4) := by
  intro s a1 a2 a3 a4
  unfold State.hwErrorIn
  repeat' first
    | with_reducible apply ChangesOnly.refl
    | exact Eq.refl true
    | with_reducible apply ChangesOnly.ite
    | with_reducible apply ChangesOnly.foldl
    | with_reducible apply ChangesOnly.step ?_ (State.coveErrorIn_only _ _ _ _ _)
    | with_reducible apply ChangesOnly.step ?_ (State.castFail_only _ _ _ _ _ _)
    | with_reducible intro _
    | split
    | dsimp only [id]

theorem State.hwError_only : ∀ s a1 a2, ChangesOnly [.coves, .bays, .sessions, .portq, .integ, .rot, .su, .mg] s (State.hwError s a1 a2) := by
  intro s a1 a2
  unfold State.hwError
  repeat' first
    | with_reducible apply ChangesOnly.refl
    | exact Eq.refl true
    | with_reducible apply ChangesOnly.ite
    | with_reducible apply ChangesOnly.foldl
    | with_reducible apply ChangesOnly.step ?_ (State.hwErrorIn_only _ _ _ _ _)
    | with_reducible intro _
    | split
    | dsimp only [id]

theorem State.decideFences_only : ∀ s a1, ChangesOnly [.coves, .bays, .sessions, .portq, .rot, .su, .mg] s (State.decideFences s a1) := by
  intro s a1
  unfold State.decideFences
  repeat' first
    | with_reducible apply ChangesOnly.refl
    | exact Eq.refl true
    | with_reducible apply ChangesOnly.ite
    | with_reducible apply ChangesOnly.foldl
    | with_reducible apply ChangesOnly.step ?_ (State.decideFence_only _ _ _)
    | with_reducible intro _
    | split
    | dsimp only [id]

theorem State.sortSuspects_only : ∀ s a1 a2, ChangesOnly [.rot] s (State.sortSuspects s a1 a2) := by
  intro s a1 a2
  unfold State.sortSuspects
  repeat' first
    | with_reducible apply ChangesOnly.refl
    | exact Eq.refl true
    | with_reducible apply ChangesOnly.ite
    | with_reducible apply ChangesOnly.foldl
    | with_reducible apply ChangesOnly.step ?_ (State.modField_only _ _ _)
    | with_reducible intro _
    | split
    | dsimp only [id]

theorem State.boundaryFences_only : ∀ s a1 a2, ChangesOnly [.coves, .bays, .sessions, .portq, .rot, .su, .mg] s (State.boundaryFences s a1 a2) := by
  intro s a1 a2
  unfold State.boundaryFences
  repeat' first
    | with_reducible apply ChangesOnly.refl
    | exact Eq.refl true
    | with_reducible apply ChangesOnly.ite
    | with_reducible apply ChangesOnly.foldl
    | with_reducible apply ChangesOnly.step ?_ (State.decideFences_only _ _)
    | with_reducible apply ChangesOnly.step ?_ (State.sortSuspects_only _ _ _)
    | with_reducible intro _
    | split
    | dsimp only [id]

theorem State.coveError_only : ∀ s a1 a2, ChangesOnly [.coves, .bays, .sessions, .portq, .integ, .rot, .su, .mg] s (State.coveError s a1 a2) := by
  intro s a1 a2
  unfold State.coveError
  repeat' first
    | with_reducible apply ChangesOnly.refl
    | exact Eq.refl true
    | with_reducible apply ChangesOnly.ite
    | with_reducible apply ChangesOnly.foldl
    | with_reducible apply ChangesOnly.step ?_ (State.coveErrorIn_only _ _ _ _ _)
    | with_reducible intro _
    | split
    | dsimp only [id]

theorem State.abandonTests_only : ∀ s a1, ChangesOnly [.rot] s (State.abandonTests s a1) := by
  intro s a1
  unfold State.abandonTests
  repeat' first
    | with_reducible apply ChangesOnly.refl
    | exact Eq.refl true
    | with_reducible apply ChangesOnly.ite
    | with_reducible apply ChangesOnly.foldl
    | with_reducible apply ChangesOnly.step ?_ (State.abandonTest_only _ _)
    | with_reducible intro _
    | split
    | dsimp only [id]

theorem State.chargeIn_only : ∀ s a1 a2 a3, ChangesOnly [.coves, .bays, .sessions, .portq, .integ, .rot, .su, .mg] s (State.chargeIn s a1 a2 a3) := by
  intro s a1 a2 a3
  unfold State.chargeIn
  repeat' first
    | with_reducible apply ChangesOnly.refl
    | exact Eq.refl true
    | with_reducible apply ChangesOnly.ite
    | with_reducible apply ChangesOnly.foldl
    | with_reducible apply ChangesOnly.step ?_ (State.chargeWith_only _ _ _ _ _)
    | with_reducible intro _
    | split
    | dsimp only [id]

theorem State.charge_only : ∀ s a1 a2, ChangesOnly [.coves, .bays, .sessions, .portq, .integ, .rot, .su, .mg] s (State.charge s a1 a2) := by
  intro s a1 a2
  unfold State.charge
  repeat' first
    | with_reducible apply ChangesOnly.refl
    | exact Eq.refl true
    | with_reducible apply ChangesOnly.ite
    | with_reducible apply ChangesOnly.foldl
    | with_reducible apply ChangesOnly.step ?_ (State.chargeIn_only _ _ _ _)
    | with_reducible intro _
    | split
    | dsimp only [id]

theorem State.failTest_only : ∀ s a1 a2, ChangesOnly [.coves, .bays, .sessions, .portq, .integ, .rot, .su, .mg] s (State.failTest s a1 a2) := by
  intro s a1 a2
  unfold State.failTest
  repeat' first
    | with_reducible apply ChangesOnly.refl
    | exact Eq.refl true
    | with_reducible apply ChangesOnly.ite
    | with_reducible apply ChangesOnly.foldl
    | with_reducible apply ChangesOnly.step ?_ (State.chargeWith_only _ _ _ _ _)
    | with_reducible intro _
    | split
    | dsimp only [id]

end Sys2Proof.Machine
end

