-- ==== Sys2Proof/Laws/OnlyRotationOps.lean ====
section
/-!
SUPPORT. For each operation and meaning of Machine/RotationOps.lean: the parts of the state that it can change.
-/

set_option linter.unreachableTactic false
set_option linter.unusedTactic false

namespace Sys2Proof.Machine

theorem State.journalRemap_only : ∀ s a1 a2, ChangesOnly [.su] s (State.journalRemap s a1 a2) := by
  intro s a1 a2
  unfold State.journalRemap
  repeat' first
    | with_reducible apply ChangesOnly.refl
    | exact Eq.refl true
    | with_reducible apply ChangesOnly.ite
    | with_reducible apply ChangesOnly.foldl
    | with_reducible apply ChangesOnly.step ?_ (State.journal_only _ _ _)
    | with_reducible intro _
    | split
    | dsimp only [id]

theorem State.takeTurn_only : ∀ s a1 a2, ChangesOnly [.coves, .sessions, .portq, .rot, .su] s (State.takeTurn s a1 a2).1 := by
  intro s a1 a2
  unfold State.takeTurn
  repeat' first
    | with_reducible apply ChangesOnly.refl
    | exact Eq.refl true
    | with_reducible apply ChangesOnly.ite
    | with_reducible apply ChangesOnly.foldl
    | with_reducible apply ChangesOnly.step ?_ (State.modField_only _ _ _)
    | with_reducible apply ChangesOnly.step ?_ (State.placeMove_only _ _ _)
    | with_reducible apply ChangesOnly.step ?_ (State.setCoveState_only _ _ _)
    | with_reducible apply ChangesOnly.step ?_ (State.fenceDone_only _ _ _ _)
    | with_reducible intro _
    | split
    | dsimp only [id]

theorem State.turns_only : ∀ s a1 a2, ChangesOnly [.coves, .sessions, .portq, .rot, .su] s (State.turns s a1 a2) := by
  intro s a1 a2
  fun_induction State.turns s a1 a2
  all_goals repeat' first
    | (with_reducible apply ChangesOnly.trans; rotate_left; assumption)
    | with_reducible exact Or.inl rfl
    | with_reducible exact Or.inr rfl
    | exact Or.inl rfl
    | with_reducible apply ChangesOnly.refl
    | exact Eq.refl true
    | with_reducible apply ChangesOnly.ite
    | with_reducible apply ChangesOnly.foldl
    | with_reducible apply ChangesOnly.step ?_ (State.takeTurn_only _ _ _)
    | with_reducible intro _
    | split
    | dsimp only [id]
    | with_reducible apply ChangesOnly.record

theorem State.nextMove_only : ∀ s a1, ChangesOnly [.coves, .bays, .sessions, .portq, .rot, .su, .mg] s (State.nextMove s a1) := by
  intro s a1
  unfold State.nextMove
  repeat' first
    | with_reducible exact Or.inl rfl
    | with_reducible exact Or.inr rfl
    | exact Or.inl rfl
    | with_reducible apply ChangesOnly.refl
    | exact Eq.refl true
    | with_reducible apply ChangesOnly.ite
    | with_reducible apply ChangesOnly.foldl
    | with_reducible apply ChangesOnly.step ?_ (State.decideFences_only _ _)
    | with_reducible apply ChangesOnly.step ?_ (State.turns_only _ _ _)
    | with_reducible intro _
    | split
    | dsimp only [id]
    | with_reducible apply ChangesOnly.record

theorem State.endWatch_only : ∀ s a1, ChangesOnly [.coves, .bays, .sessions, .portq, .rot, .su, .mg] s (State.endWatch s a1) := by
  intro s a1
  unfold State.endWatch
  repeat' first
    | with_reducible apply ChangesOnly.refl
    | exact Eq.refl true
    | with_reducible apply ChangesOnly.ite
    | with_reducible apply ChangesOnly.foldl
    | with_reducible apply ChangesOnly.step ?_ (State.modField_only _ _ _)
    | with_reducible apply ChangesOnly.step ?_ (State.setWatch_only _ _ _)
    | with_reducible apply ChangesOnly.step ?_ (State.decideFences_only _ _)
    | with_reducible apply ChangesOnly.step ?_ (State.modCoveTest_only _ _ _)
    | with_reducible apply ChangesOnly.step ?_ (State.setCoveState_only _ _ _)
    | with_reducible intro _
    | split
    | dsimp only [id]

theorem State.unhold_only : ∀ s a1, ChangesOnly [.bays] s (State.unhold s a1) := by
  intro s a1
  unfold State.unhold
  repeat' first
    | with_reducible exact Or.inl rfl
    | with_reducible exact Or.inr rfl
    | exact Or.inl rfl
    | with_reducible apply ChangesOnly.refl
    | exact Eq.refl true
    | with_reducible apply ChangesOnly.ite
    | with_reducible apply ChangesOnly.foldl
    | with_reducible intro _
    | split
    | dsimp only [id]
    | with_reducible apply ChangesOnly.record

theorem State.spRemap_only : ∀ s a1 a2 a3, ChangesOnly [.coves, .bays, .sessions, .portq, .integ, .rot, .su, .mg] s (State.spRemap s a1 a2 a3) := by
  intro s a1 a2 a3
  unfold State.spRemap
  repeat' first
    | with_reducible apply ChangesOnly.refl
    | exact Eq.refl true
    | with_reducible apply ChangesOnly.ite
    | with_reducible apply ChangesOnly.foldl
    | with_reducible apply ChangesOnly.step ?_ (State.modCove_only _ _ _)
    | with_reducible apply ChangesOnly.step ?_ (State.journalRemap_only _ _ _)
    | with_reducible apply ChangesOnly.step ?_ (State.charge_only _ _ _)
    | with_reducible intro _
    | split
    | dsimp only [id]

theorem State.setMasks_only : ∀ s a1 a2, ChangesOnly [.rot, .su] s (State.setMasks s a1 a2) := by
  intro s a1 a2
  unfold State.setMasks
  repeat' first
    | with_reducible exact Or.inl rfl
    | with_reducible exact Or.inr rfl
    | exact Or.inl rfl
    | with_reducible apply ChangesOnly.refl
    | exact Eq.refl true
    | with_reducible apply ChangesOnly.ite
    | with_reducible apply ChangesOnly.foldl
    | with_reducible apply ChangesOnly.step ?_ (State.journal_only _ _ _)
    | with_reducible intro _
    | split
    | dsimp only [id]
    | with_reducible apply ChangesOnly.record

theorem State.moveSlots_only : ∀ s a1 a2, ChangesOnly [.coves, .rot, .su] s (State.moveSlots s a1 a2) := by
  intro s a1 a2
  unfold State.moveSlots
  repeat' first
    | with_reducible apply ChangesOnly.refl
    | exact Eq.refl true
    | with_reducible apply ChangesOnly.ite
    | with_reducible apply ChangesOnly.foldl
    | with_reducible apply ChangesOnly.step ?_ (State.modCove_only _ _ _)
    | with_reducible apply ChangesOnly.step ?_ (State.setCove_only _ _ _)
    | with_reducible apply ChangesOnly.step ?_ (State.setMasks_only _ _ _)
    | with_reducible intro _
    | split
    | dsimp only [id]

theorem State.refit_only : ∀ s a1, ChangesOnly [.clk, .coves, .ctrls, .streams, .bays, .sessions, .portq, .jetty, .net, .mg] s (State.refit s a1) := by
  intro s a1
  unfold State.refit
  repeat' first
    | with_reducible apply ChangesOnly.refl
    | exact Eq.refl true
    | with_reducible apply ChangesOnly.ite
    | with_reducible apply ChangesOnly.foldl
    | with_reducible apply ChangesOnly.step ?_ (State.modBay_only _ _ _)
    | with_reducible apply ChangesOnly.step ?_ (State.stopBay_only _ _ _)
    | with_reducible intro _
    | split
    | dsimp only [id]

theorem State.refitAll_only : ∀ s, ChangesOnly [.clk, .coves, .ctrls, .streams, .bays, .sessions, .portq, .jetty, .net, .mg] s (State.refitAll s) := by
  intro s
  unfold State.refitAll
  repeat' first
    | with_reducible apply ChangesOnly.refl
    | exact Eq.refl true
    | with_reducible apply ChangesOnly.ite
    | with_reducible apply ChangesOnly.foldl
    | with_reducible apply ChangesOnly.step ?_ (State.refit_only _ _)
    | with_reducible intro _
    | split
    | dsimp only [id]

theorem State.backDark_only : ∀ s a1, ChangesOnly [.rot] s (State.backDark s a1) := by
  intro s a1
  unfold State.backDark
  repeat' first
    | with_reducible apply ChangesOnly.refl
    | exact Eq.refl true
    | with_reducible apply ChangesOnly.ite
    | with_reducible apply ChangesOnly.foldl
    | with_reducible apply ChangesOnly.step ?_ (State.askMove_only _ _)
    | with_reducible intro _
    | split
    | dsimp only [id]

theorem State.abandonMove_only : ∀ s a1 a2, ChangesOnly [.coves, .bays, .sessions, .portq, .rot, .su, .mg] s (State.abandonMove s a1 a2) := by
  intro s a1 a2
  unfold State.abandonMove
  repeat' first
    | with_reducible apply ChangesOnly.refl
    | exact Eq.refl true
    | with_reducible apply ChangesOnly.ite
    | with_reducible apply ChangesOnly.foldl
    | with_reducible apply ChangesOnly.elim
    | with_reducible apply ChangesOnly.step ?_ (State.nextMove_only _ _)
    | with_reducible apply ChangesOnly.step ?_ (State.modField_only _ _ _)
    | with_reducible apply ChangesOnly.step ?_ (State.backDark_only _ _)
    | with_reducible apply ChangesOnly.step ?_ (State.unhold_only _ _)
    | with_reducible apply ChangesOnly.step ?_ (State.logCove_only _ _ _)
    | with_reducible apply ChangesOnly.step ?_ (State.goWatch_only _ _)
    | with_reducible intro _
    | split
    | dsimp only [id]

theorem State.rewatch_only : ∀ s a1, ChangesOnly [.bays] s (State.rewatch s a1) := by
  intro s a1
  unfold State.rewatch
  repeat' first
    | with_reducible apply ChangesOnly.refl
    | exact Eq.refl true
    | with_reducible apply ChangesOnly.ite
    | with_reducible apply ChangesOnly.foldl
    | with_reducible apply ChangesOnly.step ?_ (State.modBay_only _ _ _)
    | with_reducible intro _
    | split
    | dsimp only [id]

end Sys2Proof.Machine
end

