-- ==== Sys2Proof/Laws/OnlyClockOps.lean ====
section
/-!
SUPPORT. For each operation and meaning of Machine/ClockOps.lean: the parts of the state that it can change.
-/

set_option linter.unreachableTactic false
set_option linter.unusedTactic false

namespace Sys2Proof.Machine

theorem State.resumeS4_only : ∀ s, ChangesOnly [.su] s (State.resumeS4 s) := by
  intro s
  unfold State.resumeS4
  repeat' first
    | with_reducible exact Or.inl rfl
    | with_reducible exact Or.inr rfl
    | exact Or.inl rfl
    | with_reducible apply ChangesOnly.refl
    | exact Eq.refl true
    | with_reducible apply ChangesOnly.ite
    | with_reducible apply ChangesOnly.foldl
    | with_reducible intro _
    | split
    | dsimp only [id]
    | with_reducible apply ChangesOnly.record

theorem State.abandonMoves_only : ∀ s, ChangesOnly [.coves, .bays, .sessions, .portq, .rot, .su, .mg] s (State.abandonMoves s) := by
  intro s
  unfold State.abandonMoves
  repeat' first
    | with_reducible apply ChangesOnly.refl
    | exact Eq.refl true
    | with_reducible apply ChangesOnly.ite
    | with_reducible apply ChangesOnly.foldl
    | with_reducible apply ChangesOnly.step ?_ (State.abandonMove_only _ _ _)
    | with_reducible intro _
    | split
    | dsimp only [id]

theorem State.holdAtS4_only : ∀ s, ChangesOnly [.su] s (State.holdAtS4 s) := by
  intro s
  unfold State.holdAtS4
  repeat' first
    | with_reducible exact Or.inl rfl
    | with_reducible exact Or.inr rfl
    | exact Or.inl rfl
    | with_reducible apply ChangesOnly.refl
    | exact Eq.refl true
    | with_reducible apply ChangesOnly.ite
    | with_reducible apply ChangesOnly.foldl
    | with_reducible intro _
    | split
    | dsimp only [id]
    | with_reducible apply ChangesOnly.record

theorem State.dropChange_only : ∀ s a1, ChangesOnly [.clk] s (State.dropChange s a1) := by
  intro s a1
  unfold State.dropChange
  repeat' first
    | with_reducible apply ChangesOnly.refl
    | exact Eq.refl true
    | with_reducible apply ChangesOnly.ite
    | with_reducible apply ChangesOnly.foldl
    | with_reducible apply ChangesOnly.step ?_ (State.modHalf_only _ _ _)
    | with_reducible intro _
    | split
    | dsimp only [id]

theorem State.clkError_only : ∀ s a1 a2, ChangesOnly [.clk, .mg] s (State.clkError s a1 a2) := by
  intro s a1 a2
  unfold State.clkError
  repeat' first
    | with_reducible exact Or.inl rfl
    | with_reducible exact Or.inr rfl
    | exact Or.inl rfl
    | with_reducible apply ChangesOnly.refl
    | exact Eq.refl true
    | with_reducible apply ChangesOnly.ite
    | with_reducible apply ChangesOnly.foldl
    | with_reducible apply ChangesOnly.step ?_ (State.log_only _ _)
    | with_reducible intro _
    | split
    | dsimp only [id]
    | with_reducible apply ChangesOnly.record

theorem State.loseReference_only : ∀ s a1 a2, ChangesOnly [.clk, .coves, .hbm, .ctrls, .streams, .bays, .sessions, .qps, .ports, .portq, .jetty, .rot, .net, .pwr, .pwrx, .img, .su, .ident, .mg, .pins] s (State.loseReference s a1 a2) := by
  intro s a1 a2
  unfold State.loseReference
  repeat' first
    | with_reducible exact Or.inl rfl
    | with_reducible exact Or.inr rfl
    | exact Or.inl rfl
    | with_reducible apply ChangesOnly.refl
    | exact Eq.refl true
    | with_reducible apply ChangesOnly.ite
    | with_reducible apply ChangesOnly.foldl
    | with_reducible apply ChangesOnly.step ?_ (State.rollbackAll_only _ _)
    | with_reducible apply ChangesOnly.step ?_ (State.abandonMoves_only _)
    | with_reducible apply ChangesOnly.step ?_ (State.linkDown_only _ _)
    | with_reducible apply ChangesOnly.step ?_ (State.closeSeam_only _)
    | with_reducible apply ChangesOnly.step ?_ (State.dropChange_only _ _)
    | with_reducible apply ChangesOnly.step ?_ (State.clkError_only _ _ _)
    | with_reducible apply ChangesOnly.step ?_ (State.resetIfDown_only _)
    | with_reducible intro _
    | split
    | dsimp only [id]
    | with_reducible apply ChangesOnly.record

theorem State.seamFails_only : ∀ s a1, ChangesOnly [.clk, .coves, .ctrls, .streams, .bays, .sessions, .portq, .jetty, .net, .mg] s (State.seamFails s a1) := by
  intro s a1
  unfold State.seamFails
  repeat' first
    | with_reducible apply ChangesOnly.refl
    | exact Eq.refl true
    | with_reducible apply ChangesOnly.ite
    | with_reducible apply ChangesOnly.foldl
    | with_reducible apply ChangesOnly.step ?_ (State.refitAll_only _)
    | with_reducible apply ChangesOnly.step ?_ (State.clkError_only _ _ _)
    | with_reducible apply ChangesOnly.step ?_ (State.modSeam_only _ _ _)
    | with_reducible intro _
    | split
    | dsimp only [id]

theorem State.backToS0_only : ∀ s, ChangesOnly [.su] s (State.backToS0 s) := by
  intro s
  unfold State.backToS0
  repeat' first
    | with_reducible exact Or.inl rfl
    | with_reducible exact Or.inr rfl
    | exact Or.inl rfl
    | with_reducible apply ChangesOnly.refl
    | exact Eq.refl true
    | with_reducible apply ChangesOnly.ite
    | with_reducible apply ChangesOnly.foldl
    | with_reducible intro _
    | split
    | dsimp only [id]
    | with_reducible apply ChangesOnly.record

theorem State.requestPoints_only : ∀ s a1 a2, ChangesOnly [.clk] s (State.requestPoints s a1 a2) := by
  intro s a1 a2
  unfold State.requestPoints
  repeat' first
    | with_reducible apply ChangesOnly.refl
    | exact Eq.refl true
    | with_reducible apply ChangesOnly.ite
    | with_reducible apply ChangesOnly.foldl
    | with_reducible apply ChangesOnly.step ?_ (State.modHalf_only _ _ _)
    | with_reducible intro _
    | split
    | dsimp only [id]

theorem State.reacquire_only : ∀ s, ChangesOnly [.clk] s (State.reacquire s) := by
  intro s
  unfold State.reacquire
  repeat' first
    | with_reducible exact Or.inl rfl
    | with_reducible exact Or.inr rfl
    | exact Or.inl rfl
    | with_reducible apply ChangesOnly.refl
    | exact Eq.refl true
    | with_reducible apply ChangesOnly.ite
    | with_reducible apply ChangesOnly.foldl
    | with_reducible apply ChangesOnly.step ?_ (State.startPll_only _ _)
    | with_reducible intro _
    | split
    | dsimp only [id]
    | with_reducible apply ChangesOnly.record

end Sys2Proof.Machine
end

