-- ==== Sys2Proof/Laws/MemClockOps.lean ====
section
/-!
SUPPORT. The operations and meanings of Machine/ClockOps.lean that write HBM or the devices keep their memories in canonical form.
-/

set_option linter.unreachableTactic false
set_option linter.unusedTactic false

namespace Sys2Proof.Machine

theorem State.loseReference_mem : ∀ s a1 a2, MemKept s (State.loseReference s a1 a2) := by
  intro s a1 a2
  unfold State.loseReference
  repeat' first
    | with_reducible exact rfl
    | with_reducible apply MemKept.refl
    | exact Eq.refl true
    | with_reducible apply MemKept.ite
    | with_reducible apply MemKept.foldl
    | with_reducible apply MemKept.step ?_ (State.rollbackAll_only _ _)
    | with_reducible apply MemKept.step ?_ (State.abandonMoves_only _)
    | with_reducible apply MemKept.step ?_ (State.linkDown_only _ _)
    | with_reducible apply MemKept.step ?_ (State.closeSeam_only _)
    | with_reducible apply MemKept.step ?_ (State.dropChange_only _ _)
    | with_reducible apply MemKept.step ?_ (State.clkError_only _ _ _)
    | with_reducible apply MemKept.trans ?_ (State.resetIfDown_mem _)
    | with_reducible intro _
    | split
    | dsimp only [id]
    | with_reducible apply MemKept.record

end Sys2Proof.Machine
end

