-- ==== Sys2Proof/Laws/OnlyNetOps.lean ====
section
/-!
SUPPORT. For each operation and meaning of Machine/NetOps.lean: the parts of the state that it can change.
-/

set_option linter.unreachableTactic false
set_option linter.unusedTactic false

namespace Sys2Proof.Machine

theorem State.netCount_only : ∀ s a1 a2, ChangesOnly [.coves] s (State.netCount s a1 a2) := by
  intro s a1 a2
  unfold State.netCount
  repeat' first
    | with_reducible apply ChangesOnly.refl
    | exact Eq.refl true
    | with_reducible apply ChangesOnly.ite
    | with_reducible apply ChangesOnly.foldl
    | with_reducible apply ChangesOnly.step ?_ (State.modCove_only _ _ _)
    | with_reducible intro _
    | split
    | dsimp only [id]

theorem State.intoRing_only : ∀ s a1 a2, ChangesOnly [.coves] s (State.intoRing s a1 a2) := by
  intro s a1 a2
  unfold State.intoRing
  repeat' first
    | with_reducible apply ChangesOnly.refl
    | exact Eq.refl true
    | with_reducible apply ChangesOnly.ite
    | with_reducible apply ChangesOnly.foldl
    | with_reducible apply ChangesOnly.step ?_ (State.modCove_only _ _ _)
    | with_reducible apply ChangesOnly.step ?_ (State.netCount_only _ _ _)
    | with_reducible intro _
    | split
    | dsimp only [id]

theorem State.enter_only : ∀ s a1, ChangesOnly [.coves] s (State.enter s a1) := by
  intro s a1
  unfold State.enter
  repeat' first
    | with_reducible apply ChangesOnly.refl
    | exact Eq.refl true
    | with_reducible apply ChangesOnly.ite
    | with_reducible apply ChangesOnly.foldl
    | with_reducible apply ChangesOnly.step ?_ (State.modCove_only _ _ _)
    | with_reducible apply ChangesOnly.step ?_ (State.intoRing_only _ _ _)
    | with_reducible intro _
    | split
    | dsimp only [id]

theorem State.post_only : ∀ s a1 a2, ChangesOnly [.coves] s (State.post s a1 a2) := by
  intro s a1 a2
  unfold State.post
  repeat' first
    | with_reducible apply ChangesOnly.refl
    | exact Eq.refl true
    | with_reducible apply ChangesOnly.ite
    | with_reducible apply ChangesOnly.foldl
    | with_reducible apply ChangesOnly.step ?_ (State.modCove_only _ _ _)
    | with_reducible apply ChangesOnly.step ?_ (State.enter_only _ _)
    | with_reducible intro _
    | split
    | dsimp only [id]

theorem State.inject_only : ∀ s a1 a2 a3 a4, ChangesOnly [.coves] s (State.inject s a1 a2 a3 a4) := by
  intro s a1 a2 a3 a4
  unfold State.inject
  repeat' first
    | with_reducible apply ChangesOnly.refl
    | exact Eq.refl true
    | with_reducible apply ChangesOnly.ite
    | with_reducible apply ChangesOnly.foldl
    | with_reducible apply ChangesOnly.step ?_ (State.post_only _ _ _)
    | with_reducible intro _
    | split
    | dsimp only [id]

theorem State.eject_only {ps : List Piece} (hp : ([Piece.coves].all fun p => ps.contains p) = true) (s : State) (p : Packet)
    (f : State → State) (hf : ∀ t, ChangesOnly ps t (f t)) : ChangesOnly ps s (s.eject p f) := by
  have k (t : State) (c n : Nat) : ChangesOnly ps t (t.netCount c n) := (State.netCount_only t c n).mono hp
  have w (t : State) (c : Nat) (i : Injection) : ChangesOnly ps t (t.post c i) := (State.post_only t c i).mono hp
  have m (t : State) (c : Nat) (g : Cove → Cove) : ChangesOnly ps t (t.modCove c g) := (State.modCove_only t c g).mono hp
  unfold State.eject
  extract_lets c s0
  have h0 : ChangesOnly ps s s0 := m _ _ _
  refine .ite (h0.trans (k _ _ _)) (.ite (h0.trans (k _ _ _)) (.ite (h0.trans (k _ _ _)) (.ite ?_ (.ite (h0.trans (k _ _ _)) (h0.trans (hf _))))))
  split
  · exact (h0.trans (k _ _ _)).trans (w _ _ _)
  · exact h0.trans (k _ _ _)

end Sys2Proof.Machine
end

