-- ==== Sys2Proof/Laws/OnlyHbmOps.lean ====
section
/-!
SUPPORT. For each operation and meaning of Machine/HbmOps.lean: the parts of the state that it can change.
-/

set_option linter.unreachableTactic false
set_option linter.unusedTactic false

namespace Sys2Proof.Machine

theorem State.reportHigh_only : ∀ s a1, ChangesOnly [.coves] s (State.reportHigh s a1) := by
  intro s a1
  unfold State.reportHigh
  repeat' first
    | with_reducible apply ChangesOnly.refl
    | exact Eq.refl true
    | with_reducible apply ChangesOnly.ite
    | with_reducible apply ChangesOnly.foldl
    | with_reducible apply ChangesOnly.step ?_ (State.inject_only _ _ _ _ _)
    | with_reducible intro _
    | split
    | dsimp only [id]

theorem State.putPhys_only : ∀ s a1 a2 a3 a4, ChangesOnly [.hbm, .ctrls] s (State.putPhys s a1 a2 a3 a4) := by
  intro s a1 a2 a3 a4
  unfold State.putPhys
  repeat' first
    | with_reducible exact Or.inl rfl
    | with_reducible exact Or.inr rfl
    | exact Or.inl rfl
    | with_reducible apply ChangesOnly.refl
    | exact Eq.refl true
    | with_reducible apply ChangesOnly.ite
    | with_reducible apply ChangesOnly.foldl
    | with_reducible apply ChangesOnly.step ?_ (State.modStack_only _ _ _)
    | with_reducible intro _
    | split
    | dsimp only [id]
    | with_reducible apply ChangesOnly.record

theorem State.putRecord_only : ∀ s a1 a2 a3 a4, ChangesOnly [.hbm, .ctrls] s (State.putRecord s a1 a2 a3 a4) := by
  intro s a1 a2 a3 a4
  unfold State.putRecord
  repeat' first
    | with_reducible apply ChangesOnly.refl
    | exact Eq.refl true
    | with_reducible apply ChangesOnly.ite
    | with_reducible apply ChangesOnly.foldl
    | with_reducible apply ChangesOnly.step ?_ (State.putPhys_only _ _ _ _ _)
    | with_reducible apply ChangesOnly.step ?_ (State.modStack_only _ _ _)
    | with_reducible intro _
    | split
    | dsimp only [id]

theorem State.talusFails_only : ∀ s a1 a2 a3 a4, ChangesOnly [.ctrls, .mg] s (State.talusFails s a1 a2 a3 a4) := by
  intro s a1 a2 a3 a4
  unfold State.talusFails
  repeat' first
    | with_reducible apply ChangesOnly.refl
    | exact Eq.refl true
    | with_reducible apply ChangesOnly.ite
    | with_reducible apply ChangesOnly.foldl
    | with_reducible apply ChangesOnly.step ?_ (State.logFull_only _ _ _ _ _)
    | with_reducible apply ChangesOnly.step ?_ (State.modStack_only _ _ _)
    | with_reducible intro _
    | split
    | dsimp only [id]

theorem State.journalTalus_only : ∀ s a1 a2 a3, ChangesOnly [.su] s (State.journalTalus s a1 a2 a3) := by
  intro s a1 a2 a3
  unfold State.journalTalus
  repeat' first
    | with_reducible apply ChangesOnly.refl
    | exact Eq.refl true
    | with_reducible apply ChangesOnly.ite
    | with_reducible apply ChangesOnly.foldl
    | with_reducible apply ChangesOnly.step ?_ (State.journal_only _ _ _)
    | with_reducible intro _
    | split
    | dsimp only [id]

theorem State.remapRow_only : ∀ s a1 a2 a3 a4, ChangesOnly [.coves, .ctrls, .su, .mg] s (State.remapRow s a1 a2 a3 a4) := by
  intro s a1 a2 a3 a4
  unfold State.remapRow
  repeat' first
    | with_reducible apply ChangesOnly.refl
    | exact Eq.refl true
    | with_reducible apply ChangesOnly.ite
    | with_reducible apply ChangesOnly.foldl
    | with_reducible apply ChangesOnly.step ?_ (State.reportHigh_only _ _)
    | with_reducible apply ChangesOnly.step ?_ (State.journalTalus_only _ _ _ _)
    | with_reducible apply ChangesOnly.step ?_ (State.modStack_only _ _ _)
    | with_reducible apply ChangesOnly.step ?_ (State.talusFails_only _ _ _ _ _)
    | with_reducible intro _
    | split
    | dsimp only [id]

theorem State.correctable_only : ∀ s a1 a2 a3 a4, ChangesOnly [.coves, .ctrls, .su, .mg] s (State.correctable s a1 a2 a3 a4) := by
  intro s a1 a2 a3 a4
  unfold State.correctable
  repeat' first
    | with_reducible apply ChangesOnly.refl
    | exact Eq.refl true
    | with_reducible apply ChangesOnly.ite
    | with_reducible apply ChangesOnly.foldl
    | with_reducible apply ChangesOnly.step ?_ (State.remapRow_only _ _ _ _ _)
    | with_reducible apply ChangesOnly.step ?_ (State.modStack_only _ _ _)
    | with_reducible intro _
    | split
    | dsimp only [id]

theorem State.readFlips_only : ∀ s a1 a2 a3 a4, ChangesOnly [.coves, .ctrls, .su, .mg] s (State.readFlips s a1 a2 a3 a4) := by
  intro s a1 a2 a3 a4
  unfold State.readFlips
  repeat' first
    | with_reducible apply ChangesOnly.refl
    | exact Eq.refl true
    | with_reducible apply ChangesOnly.ite
    | with_reducible apply ChangesOnly.foldl
    | with_reducible apply ChangesOnly.step ?_ (State.correctable_only _ _ _ _ _)
    | with_reducible intro _
    | split
    | dsimp only [id]

theorem State.noteAt_only : ∀ s a1 a2 a3 a4, ChangesOnly [.ctrls] s (State.noteAt s a1 a2 a3 a4) := by
  intro s a1 a2 a3 a4
  unfold State.noteAt
  repeat' first
    | with_reducible apply ChangesOnly.refl
    | exact Eq.refl true
    | with_reducible apply ChangesOnly.ite
    | with_reducible apply ChangesOnly.foldl
    | with_reducible apply ChangesOnly.step ?_ (State.modStack_only _ _ _)
    | with_reducible intro _
    | split
    | dsimp only [id]

theorem State.landShadow_only : ∀ s a1 a2 a3 a4, ChangesOnly [.hbm, .ctrls] s (State.landShadow s a1 a2 a3 a4) := by
  intro s a1 a2 a3 a4
  unfold State.landShadow
  repeat' first
    | with_reducible apply ChangesOnly.refl
    | exact Eq.refl true
    | with_reducible apply ChangesOnly.ite
    | with_reducible apply ChangesOnly.foldl
    | with_reducible apply ChangesOnly.step ?_ (State.putPhys_only _ _ _ _ _)
    | with_reducible apply ChangesOnly.step ?_ (State.modStack_only _ _ _)
    | with_reducible intro _
    | split
    | dsimp only [id]

theorem State.shadowWrite_only : ∀ s a1 a2 a3 a4 a5 a6 a7, ChangesOnly [.hbm, .ctrls] s (State.shadowWrite s a1 a2 a3 a4 a5 a6 a7) := by
  intro s a1 a2 a3 a4 a5 a6 a7
  unfold State.shadowWrite
  repeat' first
    | with_reducible apply ChangesOnly.refl
    | exact Eq.refl true
    | with_reducible apply ChangesOnly.ite
    | with_reducible apply ChangesOnly.foldl
    | with_reducible apply ChangesOnly.step ?_ (State.landShadow_only _ _ _ _ _)
    | with_reducible apply ChangesOnly.step ?_ (State.modStack_only _ _ _)
    | with_reducible intro _
    | split
    | dsimp only [id]

theorem State.stepWrite_only (s : State) (st b n g u : Nat) (dl : BitVec 16) (bs : List Byte) (t : State) (h : s.stepWrite st b n g u dl bs = .landed t) :
    ChangesOnly [.hbm, .ctrls] s t := by
  unfold State.stepWrite at h
  dsimp only at h
  repeat' split at h
  all_goals first
    | contradiction
    | (injection h; subst_vars)
    | skip
  all_goals repeat' first
    | with_reducible apply ChangesOnly.refl
    | exact Eq.refl true
    | with_reducible apply ChangesOnly.ite
    | with_reducible apply ChangesOnly.foldl
    | with_reducible apply ChangesOnly.step ?_ (State.shadowWrite_only _ _ _ _ _ _ _ _)
    | with_reducible intro _
    | split
    | dsimp only [id]

theorem State.journalFree_only : ∀ s a1 a2 a3, ChangesOnly [.su] s (State.journalFree s a1 a2 a3) := by
  intro s a1 a2 a3
  unfold State.journalFree
  repeat' first
    | with_reducible apply ChangesOnly.refl
    | exact Eq.refl true
    | with_reducible apply ChangesOnly.ite
    | with_reducible apply ChangesOnly.foldl
    | with_reducible apply ChangesOnly.step ?_ (State.journal_only _ _ _)
    | with_reducible intro _
    | split
    | dsimp only [id]

theorem State.mapFails_only : ∀ s a1 a2 a3, ChangesOnly [.ctrls, .mg] s (State.mapFails s a1 a2 a3) := by
  intro s a1 a2 a3
  unfold State.mapFails
  repeat' first
    | with_reducible apply ChangesOnly.refl
    | exact Eq.refl true
    | with_reducible apply ChangesOnly.ite
    | with_reducible apply ChangesOnly.foldl
    | with_reducible apply ChangesOnly.step ?_ (State.log_only _ _)
    | with_reducible apply ChangesOnly.step ?_ (State.modStack_only _ _ _)
    | with_reducible intro _
    | split
    | dsimp only [id]

theorem State.reloadTalus_only : ∀ s a1, ChangesOnly [.ctrls] s (State.reloadTalus s a1) := by
  intro s a1
  unfold State.reloadTalus
  repeat' first
    | with_reducible apply ChangesOnly.refl
    | exact Eq.refl true
    | with_reducible apply ChangesOnly.ite
    | with_reducible apply ChangesOnly.foldl
    | with_reducible apply ChangesOnly.step ?_ (State.modStack_only _ _ _)
    | with_reducible intro _
    | split
    | dsimp only [id]

theorem State.uncorrectable_only : ∀ s a1 a2 a3, ChangesOnly [.coves, .ctrls, .su, .mg] s (State.uncorrectable s a1 a2 a3) := by
  intro s a1 a2 a3
  unfold State.uncorrectable
  repeat' first
    | with_reducible apply ChangesOnly.refl
    | exact Eq.refl true
    | with_reducible apply ChangesOnly.ite
    | with_reducible apply ChangesOnly.foldl
    | with_reducible apply ChangesOnly.step ?_ (State.remapRow_only _ _ _ _ _)
    | with_reducible apply ChangesOnly.step ?_ (State.logFull_only _ _ _ _ _)
    | with_reducible apply ChangesOnly.step ?_ (State.modStack_only _ _ _)
    | with_reducible intro _
    | split
    | dsimp only [id]

theorem State.found_only : ∀ s a1 a2 a3 a4, ChangesOnly [.coves, .ctrls, .su, .mg] s (State.found s a1 a2 a3 a4) := by
  intro s a1 a2 a3 a4
  unfold State.found
  repeat' first
    | with_reducible apply ChangesOnly.refl
    | exact Eq.refl true
    | with_reducible apply ChangesOnly.ite
    | with_reducible apply ChangesOnly.foldl
    | with_reducible apply ChangesOnly.step ?_ (State.mapFails_only _ _ _ _)
    | with_reducible apply ChangesOnly.step ?_ (State.reloadTalus_only _ _)
    | with_reducible apply ChangesOnly.step ?_ (State.log_only _ _)
    | with_reducible apply ChangesOnly.step ?_ (State.correctable_only _ _ _ _ _)
    | with_reducible apply ChangesOnly.step ?_ (State.uncorrectable_only _ _ _ _)
    | with_reducible apply ChangesOnly.step ?_ (State.modStack_only _ _ _)
    | with_reducible intro _
    | split
    | dsimp only [id]

theorem State.eccFindings_only : ∀ s a1 a2 a3 a4 a5, ChangesOnly [.coves, .ctrls, .su, .mg] s (State.eccFindings s a1 a2 a3 a4 a5) := by
  intro s a1 a2 a3 a4 a5
  unfold State.eccFindings
  repeat' first
    | with_reducible apply ChangesOnly.refl
    | exact Eq.refl true
    | with_reducible apply ChangesOnly.ite
    | with_reducible apply ChangesOnly.foldl
    | with_reducible apply ChangesOnly.step ?_ (State.found_only _ _ _ _ _)
    | with_reducible intro _
    | split
    | dsimp only [id]

theorem State.committedWrite_only : ∀ s a1 a2 a3 a4, ChangesOnly [.hbm, .ctrls] s (State.committedWrite s a1 a2 a3 a4) := by
  intro s a1 a2 a3 a4
  unfold State.committedWrite
  repeat' first
    | with_reducible apply ChangesOnly.refl
    | exact Eq.refl true
    | with_reducible apply ChangesOnly.ite
    | with_reducible apply ChangesOnly.foldl
    | with_reducible apply ChangesOnly.step ?_ (State.putRecord_only _ _ _ _ _)
    | with_reducible intro _
    | split
    | dsimp only [id]

theorem State.readBay_only : ∀ s a1 a2 a3 a4 a5, ChangesOnly [.coves, .ctrls, .su, .mg] s (State.readBay s a1 a2 a3 a4 a5) := by
  intro s a1 a2 a3 a4 a5
  unfold State.readBay
  repeat' first
    | with_reducible apply ChangesOnly.refl
    | exact Eq.refl true
    | with_reducible apply ChangesOnly.ite
    | with_reducible apply ChangesOnly.foldl
    | with_reducible apply ChangesOnly.step ?_ (State.modStack_only _ _ _)
    | with_reducible apply ChangesOnly.step ?_ (State.readFlips_only _ _ _ _ _)
    | with_reducible intro _
    | split
    | dsimp only [id]

theorem State.bayHw_only : ∀ s a1 a2 a3, ChangesOnly [.coves, .bays] s (State.bayHw s a1 a2 a3) := by
  intro s a1 a2 a3
  unfold State.bayHw
  repeat' first
    | with_reducible apply ChangesOnly.refl
    | exact Eq.refl true
    | with_reducible apply ChangesOnly.ite
    | with_reducible apply ChangesOnly.foldl
    | with_reducible apply ChangesOnly.step ?_ (State.castFail_only _ _ _ _ _ _)
    | with_reducible intro _
    | split
    | dsimp only [id]

end Sys2Proof.Machine
end

