-- ==== Sys2Proof/Laws/OnlyJettyCheck.lean ====
section
/-!
SUPPORT. For each operation and meaning of Machine/JettyCheck.lean: the parts of the state that it can change.
-/

set_option linter.unreachableTactic false
set_option linter.unusedTactic false

namespace Sys2Proof.Machine

theorem State.reject_only : ∀ s a1 a2, ChangesOnly [.sessions, .portq, .jetty] s (State.reject s a1 a2) := by
  intro s a1 a2
  unfold State.reject
  repeat' first
    | with_reducible apply ChangesOnly.refl
    | exact Eq.refl true
    | with_reducible apply ChangesOnly.ite
    | with_reducible apply ChangesOnly.foldl
    | with_reducible apply ChangesOnly.step ?_ (State.answerCmd_only _ _ _ _ _ _)
    | with_reducible intro _
    | split
    | dsimp only [id]

theorem State.takeCmd_only : ∀ s a1, ChangesOnly [.portq, .jetty] s (State.takeCmd s a1) := by
  intro s a1
  unfold State.takeCmd
  repeat' first
    | with_reducible exact Or.inl rfl
    | with_reducible exact Or.inr rfl
    | exact Or.inl rfl
    | with_reducible apply ChangesOnly.refl
    | exact Eq.refl true
    | with_reducible apply ChangesOnly.ite
    | with_reducible apply ChangesOnly.foldl
    | with_reducible apply ChangesOnly.step ?_ (State.modPortQ_only _ _ _)
    | with_reducible intro _
    | split
    | dsimp only [id]
    | with_reducible apply ChangesOnly.record

theorem State.parse_only {ps : List Piece}
    (hp : ([Piece.sessions, .portq, .jetty].all fun p => ps.contains p) = true) (s : State) (c : JCmd) (op : Nat) (sel : Bool)
    (f : State → State) (hf : ∀ t, ChangesOnly ps t (f t)) : Leaves ps s (s.parse c op sel f) := by
  unfold State.parse
  extract_lets s1
  have h1 : ChangesOnly ps s s1 := ((State.takeCmd_only s _).mono (ps := [Piece.sessions, .portq, .jetty]) rfl).mono hp
  refine Leaves.occurs ?_
  split
  · exact h1.step (State.reject_only _ _ _) hp
  · exact h1.trans (hf _)

theorem execChallenge_only : ∀ a0 s, Leaves [.free, .sessions, .qps, .portq, .jetty] s (execChallenge a0 s) := by
  intro a0 s
  unfold execChallenge
  repeat' first
    | with_reducible apply ChangesOnly.refl
    | with_reducible apply State.parse_only
    | exact Eq.refl true
    | with_reducible apply Leaves.next
    | with_reducible apply Leaves.occurs
    | with_reducible apply Leaves.ite
    | with_reducible apply ChangesOnly.ite
    | with_reducible apply ChangesOnly.foldl
    | with_reducible apply ChangesOnly.step ?_ (State.answerCmd_only _ _ _ _ _ _)
    | with_reducible apply ChangesOnly.step ?_ (State.modQp_only _ _ _)
    | with_reducible apply ChangesOnly.step ?_ (State.spend_only _ _)
    | with_reducible intro _
    | split
    | dsimp only [id]

theorem State.finishCmd_only : ∀ s a1 a2 a3, ChangesOnly [.sessions, .portq, .jetty] s (State.finishCmd s a1 a2 a3) := by
  intro s a1 a2 a3
  unfold State.finishCmd
  repeat' first
    | with_reducible apply ChangesOnly.refl
    | exact Eq.refl true
    | with_reducible apply ChangesOnly.ite
    | with_reducible apply ChangesOnly.foldl
    | with_reducible apply ChangesOnly.step ?_ (State.complete_only _ _ _)
    | with_reducible intro _
    | split
    | dsimp only [id]

theorem State.outstand_only : ∀ s a1, ChangesOnly [.sessions] s (State.outstand s a1) := by
  intro s a1
  unfold State.outstand
  repeat' first
    | with_reducible apply ChangesOnly.refl
    | exact Eq.refl true
    | with_reducible apply ChangesOnly.ite
    | with_reducible apply ChangesOnly.foldl
    | with_reducible apply ChangesOnly.step ?_ (State.modSess_only _ _ _)
    | with_reducible intro _
    | split
    | dsimp only [id]

theorem State.accept_only : ∀ s a1, ChangesOnly [.sessions, .portq, .jetty] s (State.accept s a1) := by
  intro s a1
  unfold State.accept
  repeat' first
    | with_reducible apply ChangesOnly.refl
    | exact Eq.refl true
    | with_reducible apply ChangesOnly.ite
    | with_reducible apply ChangesOnly.foldl
    | with_reducible apply ChangesOnly.step ?_ (State.answerCmd_only _ _ _ _ _ _)
    | with_reducible intro _
    | split
    | dsimp only [id]

theorem State.acceptLong_only : ∀ s a1, ChangesOnly [.sessions, .portq, .jetty] s (State.acceptLong s a1) := by
  intro s a1
  unfold State.acceptLong
  repeat' first
    | with_reducible apply ChangesOnly.refl
    | exact Eq.refl true
    | with_reducible apply ChangesOnly.ite
    | with_reducible apply ChangesOnly.foldl
    | with_reducible apply ChangesOnly.step ?_ (State.outstand_only _ _)
    | with_reducible apply ChangesOnly.step ?_ (State.accept_only _ _)
    | with_reducible intro _
    | split
    | dsimp only [id]

theorem execNop_only : ∀ a0 s, Leaves [.sessions, .portq, .jetty] s (execNop a0 s) := by
  intro a0 s
  unfold execNop
  repeat' first
    | with_reducible apply ChangesOnly.refl
    | with_reducible apply State.parse_only
    | exact Eq.refl true
    | with_reducible apply Leaves.next
    | with_reducible apply Leaves.occurs
    | with_reducible apply Leaves.ite
    | with_reducible apply ChangesOnly.ite
    | with_reducible apply ChangesOnly.foldl
    | with_reducible apply ChangesOnly.step ?_ (State.accept_only _ _)
    | with_reducible intro _
    | split
    | dsimp only [id]

theorem State.refuse_only : ∀ s a1 a2, ChangesOnly [.sessions, .portq, .jetty] s (State.refuse s a1 a2) := by
  intro s a1 a2
  unfold State.refuse
  repeat' first
    | with_reducible apply ChangesOnly.refl
    | exact Eq.refl true
    | with_reducible apply ChangesOnly.ite
    | with_reducible apply ChangesOnly.foldl
    | with_reducible apply ChangesOnly.step ?_ (State.answerCmd_only _ _ _ _ _ _)
    | with_reducible intro _
    | split
    | dsimp only [id]

theorem State.doneAtOnce_only : ∀ s a1 a2 a3, ChangesOnly [.sessions, .portq, .jetty] s (State.doneAtOnce s a1 a2 a3) := by
  intro s a1 a2 a3
  unfold State.doneAtOnce
  repeat' first
    | with_reducible apply ChangesOnly.refl
    | exact Eq.refl true
    | with_reducible apply ChangesOnly.ite
    | with_reducible apply ChangesOnly.foldl
    | with_reducible apply ChangesOnly.step ?_ (State.finishCmd_only _ _ _ _)
    | with_reducible apply ChangesOnly.step ?_ (State.acceptLong_only _ _)
    | with_reducible intro _
    | split
    | dsimp only [id]

end Sys2Proof.Machine
end

