-- ==== Sys2Proof/Laws/OnlyProgramOps.lean ====
section
/-!
SUPPORT. For each operation and meaning of Machine/ProgramOps.lean: the parts of the state that it can change.
-/

set_option linter.unreachableTactic false
set_option linter.unusedTactic false

namespace Sys2Proof.Machine

theorem State.loadShape_only : ∀ s a1 a2 a3 a4, ChangesOnly [.coves] s (State.loadShape s a1 a2 a3 a4) := by
  intro s a1 a2 a3 a4
  unfold State.loadShape
  repeat' first
    | with_reducible apply ChangesOnly.refl
    | exact Eq.refl true
    | with_reducible apply ChangesOnly.ite
    | with_reducible apply ChangesOnly.foldl
    | with_reducible apply ChangesOnly.step ?_ (State.modCove_only _ _ _)
    | with_reducible intro _
    | split
    | dsimp only [id]

end Sys2Proof.Machine
end

