-- ==== Sys2Proof/Laws/OnlyPebbleOps.lean ====
section
/-!
SUPPORT. For each operation and meaning of Machine/PebbleOps.lean: the parts of the state that it can change.
-/

set_option linter.unreachableTactic false
set_option linter.unusedTactic false

namespace Sys2Proof.Machine

theorem State.lateException_only (s : State) (r : CoreRef) (t : State) : ChangesOnly [.coves, .bays, .sessions, .portq, .integ, .rot, .su, .mg] s (s.lateException r t) := by
  unfold State.lateException
  repeat' first
    | with_reducible apply ChangesOnly.refl
    | exact Eq.refl true
    | with_reducible apply ChangesOnly.ite
    | with_reducible apply ChangesOnly.foldl
    | with_reducible apply ChangesOnly.step ?_ (State.modBay_only _ _ _)
    | with_reducible apply ChangesOnly.step ?_ (State.modCore_only _ _ _)
    | with_reducible apply ChangesOnly.step ?_ (State.chargeIn_only _ _ _ _)
    | with_reducible intro _
    | split
    | dsimp only [id]

theorem State.rankStep_only : ∀ s a1 a2, ChangesOnly [.bays] s (State.rankStep s a1 a2) := by
  intro s a1 a2
  unfold State.rankStep
  repeat' first
    | with_reducible apply ChangesOnly.refl
    | exact Eq.refl true
    | with_reducible apply ChangesOnly.ite
    | with_reducible apply ChangesOnly.foldl
    | with_reducible apply ChangesOnly.step ?_ (State.modStep_only _ _ _ _)
    | with_reducible intro _
    | split
    | dsimp only [id]

theorem State.exceptionAt_only : ∀ s a1 a2 a3, ChangesOnly [.clk, .coves, .ctrls, .streams, .bays, .sessions, .portq, .jetty, .integ, .rot, .net, .su, .mg] s (State.exceptionAt s a1 a2 a3) := by
  intro s a1 a2 a3
  unfold State.exceptionAt
  repeat' first
    | with_reducible apply ChangesOnly.refl
    | exact Eq.refl true
    | with_reducible apply ChangesOnly.ite
    | with_reducible apply ChangesOnly.foldl
    | with_reducible apply ChangesOnly.step ?_ (State.modBay_only _ _ _)
    | with_reducible apply ChangesOnly.step ?_ (State.stopBay_only _ _ _)
    | with_reducible apply ChangesOnly.step ?_ (State.rankStep_only _ _ _)
    | with_reducible apply ChangesOnly.step ?_ (State.modCore_only _ _ _)
    | with_reducible apply ChangesOnly.step ?_ (State.hwError_only _ _ _)
    | with_reducible intro _
    | split
    | dsimp only [id]

theorem State.exception_only : ∀ s a1 a2, ChangesOnly [.clk, .coves, .ctrls, .streams, .bays, .sessions, .portq, .jetty, .integ, .rot, .net, .su, .mg] s (State.exception s a1 a2) := by
  intro s a1 a2
  unfold State.exception
  repeat' first
    | with_reducible apply ChangesOnly.refl
    | exact Eq.refl true
    | with_reducible apply ChangesOnly.ite
    | with_reducible apply ChangesOnly.foldl
    | with_reducible apply ChangesOnly.step ?_ (State.exceptionAt_only _ _ _ _)
    | with_reducible intro _
    | split
    | dsimp only [id]

theorem State.holdD_only : ∀ s a1, ChangesOnly [.coves] s (State.holdD s a1) := by
  intro s a1
  unfold State.holdD
  repeat' first
    | with_reducible apply ChangesOnly.refl
    | exact Eq.refl true
    | with_reducible apply ChangesOnly.ite
    | with_reducible apply ChangesOnly.foldl
    | with_reducible apply ChangesOnly.step ?_ (State.modCore_only _ _ _)
    | with_reducible intro _
    | split
    | dsimp only [id]

theorem issueIn_only {ps : List Piece}
    (hp : ([Piece.clk, .coves, .ctrls, .streams, .bays, .sessions, .portq, .jetty, .integ, .rot, .net, .su, .mg].all fun p => ps.contains p) = true)
    (s : State) (r : CoreRef) (illegal : Bool) (u : Uses) (act : State → State)
    (hf : ∀ t, ChangesOnly ps t (act t)) : Leaves ps s (issueIn s r illegal u act) := by
  have d : ChangesOnly ps s (s.holdD r) := ((State.holdD_only s r).mono (ps := [Piece.clk, .coves, .ctrls, .streams, .bays, .sessions, .portq, .jetty, .integ, .rot, .net, .su, .mg]) rfl).mono hp
  have e (x : Code) : ChangesOnly ps s (s.exception r x) := (State.exception_only s r x).mono hp
  unfold issueIn
  repeat' first
    | exact Leaves.next (ChangesOnly.refl _ _)
    | exact Leaves.next (e _)
    | exact Leaves.next d
    | exact Leaves.next (hf _)
    | with_reducible refine Leaves.ite ?_ ?_

theorem issue_only {ps : List Piece}
    (hp : ([Piece.clk, .coves, .ctrls, .streams, .bays, .sessions, .portq, .jetty, .integ, .rot, .net, .su, .mg].all fun p => ps.contains p) = true)
    (s : State) (r : CoreRef) (again : CoreWait → Bool) (illegal : Bool) (u : Uses) (act : State → State)
    (hf : ∀ t, ChangesOnly ps t (act t)) : Leaves ps s (issue s r again illegal u act) := by
  have l (t : State) : ChangesOnly ps s (s.lateException r t) := ((State.lateException_only s r t).mono (ps := [Piece.clk, .coves, .ctrls, .streams, .bays, .sessions, .portq, .jetty, .integ, .rot, .net, .su, .mg]) rfl).mono hp
  unfold issue
  refine Leaves.ite (issueIn_only hp s r illegal u act hf) (Leaves.ite ?_ (Leaves.next (ChangesOnly.refl _ _)))
  split
  · exact Leaves.next (l _)
  · exact Leaves.next (ChangesOnly.refl _ _)

theorem State.stall_only : ∀ s a1 a2, ChangesOnly [.coves] s (State.stall s a1 a2) := by
  intro s a1 a2
  unfold State.stall
  repeat' first
    | with_reducible apply ChangesOnly.refl
    | exact Eq.refl true
    | with_reducible apply ChangesOnly.ite
    | with_reducible apply ChangesOnly.foldl
    | with_reducible apply ChangesOnly.step ?_ (State.modCore_only _ _ _)
    | with_reducible intro _
    | split
    | dsimp only [id]

theorem State.retire_only : ∀ s a1 a2 a3, ChangesOnly [.clk, .coves, .ctrls, .streams, .bays, .sessions, .portq, .jetty, .integ, .rot, .net, .su, .mg] s (State.retire s a1 a2 a3) := by
  intro s a1 a2 a3
  unfold State.retire
  repeat' first
    | with_reducible apply ChangesOnly.refl
    | exact Eq.refl true
    | with_reducible apply ChangesOnly.ite
    | with_reducible apply ChangesOnly.foldl
    | with_reducible apply ChangesOnly.step ?_ (State.modCore_only _ _ _)
    | with_reducible apply ChangesOnly.step ?_ (State.exception_only _ _ _)
    | with_reducible intro _
    | split
    | dsimp only [id]

theorem State.countDnorm_only : ∀ s a1 a2, ChangesOnly [.coves] s (State.countDnorm s a1 a2) := by
  intro s a1 a2
  unfold State.countDnorm
  repeat' first
    | with_reducible apply ChangesOnly.refl
    | exact Eq.refl true
    | with_reducible apply ChangesOnly.ite
    | with_reducible apply ChangesOnly.foldl
    | with_reducible apply ChangesOnly.step ?_ (State.modCove_only _ _ _)
    | with_reducible intro _
    | split
    | dsimp only [id]

theorem State.retireNext_only : ∀ s a1 a2, ChangesOnly [.clk, .coves, .ctrls, .streams, .bays, .sessions, .portq, .jetty, .integ, .rot, .net, .su, .mg] s (State.retireNext s a1 a2) := by
  intro s a1 a2
  unfold State.retireNext
  repeat' first
    | with_reducible apply ChangesOnly.refl
    | exact Eq.refl true
    | with_reducible apply ChangesOnly.ite
    | with_reducible apply ChangesOnly.foldl
    | with_reducible apply ChangesOnly.step ?_ (State.retire_only _ _ _ _)
    | with_reducible intro _
    | split
    | dsimp only [id]

end Sys2Proof.Machine
end

