-- ==== Sys2Proof/Laws/OnlyStepOps.lean ====
section
/-!
SUPPORT. For each operation and meaning of Machine/StepOps.lean: the parts of the state that it can change.
-/

set_option linter.unreachableTactic false
set_option linter.unusedTactic false

namespace Sys2Proof.Machine

theorem State.sendOutput_only : ∀ s a1 a2 a3 a4 a5 a6 a7 a8, ChangesOnly [.sessions, .portq, .mg] s (State.sendOutput s a1 a2 a3 a4 a5 a6 a7 a8) := by
  intro s a1 a2 a3 a4 a5 a6 a7 a8
  fun_induction State.sendOutput s a1 a2 a3 a4 a5 a6 a7 a8
  all_goals repeat' first
    | (with_reducible apply ChangesOnly.trans; rotate_left; assumption)
    | with_reducible apply ChangesOnly.refl
    | exact Eq.refl true
    | with_reducible apply ChangesOnly.ite
    | with_reducible apply ChangesOnly.foldl
    | with_reducible apply ChangesOnly.step ?_ (State.modSess_only _ _ _)
    | with_reducible apply ChangesOnly.step ?_ (State.sendSess_only _ _ _ _)
    | with_reducible apply ChangesOnly.step ?_ (State.logBay_only _ _ _)
    | with_reducible intro _
    | split
    | dsimp only [id]

theorem State.sendWork_only : ∀ s a1 a2 a3 a4, ChangesOnly [.sessions, .portq, .mg] s (State.sendWork s a1 a2 a3 a4).1 := by
  intro s a1 a2 a3 a4
  unfold State.sendWork
  repeat' first
    | with_reducible apply ChangesOnly.refl
    | exact Eq.refl true
    | with_reducible apply ChangesOnly.ite
    | with_reducible apply ChangesOnly.foldl
    | with_reducible apply ChangesOnly.step ?_ (State.sendOutput_only _ _ _ _ _ _ _ _ _)
    | with_reducible intro _
    | split
    | dsimp only [id]

theorem State.fetchFaults_only : ∀ s a1, ChangesOnly [.clk, .coves, .ctrls, .streams, .bays, .sessions, .portq, .jetty, .integ, .rot, .net, .su, .mg] s (State.fetchFaults s a1) := by
  intro s a1
  unfold State.fetchFaults
  repeat' first
    | with_reducible apply ChangesOnly.refl
    | exact Eq.refl true
    | with_reducible apply ChangesOnly.ite
    | with_reducible apply ChangesOnly.foldl
    | with_reducible apply ChangesOnly.step ?_ (State.exception_only _ _ _)
    | with_reducible intro _
    | split
    | dsimp only [id]

theorem State.askReplays_only : ∀ s a1, ChangesOnly [.rot] s (State.askReplays s a1) := by
  intro s a1
  unfold State.askReplays
  repeat' first
    | with_reducible apply ChangesOnly.refl
    | exact Eq.refl true
    | with_reducible apply ChangesOnly.ite
    | with_reducible apply ChangesOnly.foldl
    | with_reducible apply ChangesOnly.step ?_ (State.askMove_only _ _)
    | with_reducible intro _
    | split
    | dsimp only [id]

theorem State.missingPairs_only : ∀ s a1 a2, ChangesOnly [.coves, .bays] s (State.missingPairs s a1 a2) := by
  intro s a1 a2
  unfold State.missingPairs
  repeat' first
    | with_reducible apply ChangesOnly.refl
    | exact Eq.refl true
    | with_reducible apply ChangesOnly.ite
    | with_reducible apply ChangesOnly.foldl
    | with_reducible apply ChangesOnly.step ?_ (State.modCove_only _ _ _)
    | with_reducible apply ChangesOnly.step ?_ (State.castFail_only _ _ _ _ _ _)
    | with_reducible intro _
    | split
    | dsimp only [id]

theorem State.leaveRun_only : ∀ s a1, ChangesOnly [.coves, .bays] s (State.leaveRun s a1) := by
  intro s a1
  unfold State.leaveRun
  repeat' first
    | with_reducible apply ChangesOnly.refl
    | exact Eq.refl true
    | with_reducible apply ChangesOnly.ite
    | with_reducible apply ChangesOnly.foldl
    | with_reducible apply ChangesOnly.step ?_ (State.modBay_only _ _ _)
    | with_reducible apply ChangesOnly.step ?_ (State.closeRun_only _ _)
    | with_reducible intro _
    | split
    | dsimp only [id]

theorem State.sendEnding_only : ∀ s a1 a2 a3, ChangesOnly [.bays, .sessions, .portq, .jetty, .mg] s (State.sendEnding s a1 a2 a3) := by
  intro s a1 a2 a3
  unfold State.sendEnding
  repeat' first
    | with_reducible apply ChangesOnly.refl
    | exact Eq.refl true
    | with_reducible apply ChangesOnly.ite
    | with_reducible apply ChangesOnly.foldl
    | with_reducible apply ChangesOnly.step ?_ (State.modBay_only _ _ _)
    | with_reducible apply ChangesOnly.step ?_ (State.completeWork_only _ _ _ _)
    | with_reducible apply ChangesOnly.step ?_ (State.sendWork_only _ _ _ _ _)
    | with_reducible intro _
    | split
    | dsimp only [id]

theorem State.failStep_only : ∀ s a1 a2, ChangesOnly [.clk, .coves, .ctrls, .streams, .bays, .sessions, .portq, .jetty, .rot, .net, .mg] s (State.failStep s a1 a2) := by
  intro s a1 a2
  unfold State.failStep
  repeat' first
    | with_reducible apply ChangesOnly.refl
    | exact Eq.refl true
    | with_reducible apply ChangesOnly.ite
    | with_reducible apply ChangesOnly.foldl
    | with_reducible apply ChangesOnly.step ?_ (State.modBay_only _ _ _)
    | with_reducible apply ChangesOnly.step ?_ (State.stopBay_only _ _ _)
    | with_reducible apply ChangesOnly.step ?_ (State.discard_only _ _ _)
    | with_reducible apply ChangesOnly.step ?_ (State.countDiscarded_only _ _ _)
    | with_reducible apply ChangesOnly.step ?_ (State.askReplays_only _ _)
    | with_reducible intro _
    | split
    | dsimp only [id]

theorem State.leaveBerth_only : ∀ s a1 a2, ChangesOnly [.coves, .bays] s (State.leaveBerth s a1 a2) := by
  intro s a1 a2
  unfold State.leaveBerth
  repeat' first
    | with_reducible apply ChangesOnly.refl
    | exact Eq.refl true
    | with_reducible apply ChangesOnly.ite
    | with_reducible apply ChangesOnly.foldl
    | with_reducible apply ChangesOnly.step ?_ (State.modBay_only _ _ _)
    | with_reducible apply ChangesOnly.step ?_ (State.closeRun_only _ _)
    | with_reducible intro _
    | split
    | dsimp only [id]

theorem State.cancelWork_only : ∀ s a1, ChangesOnly [.coves, .ctrls, .streams, .bays, .sessions, .portq, .jetty, .net] s (State.cancelWork s a1) := by
  intro s a1
  unfold State.cancelWork
  repeat' first
    | with_reducible apply ChangesOnly.refl
    | exact Eq.refl true
    | with_reducible apply ChangesOnly.ite
    | with_reducible apply ChangesOnly.foldl
    | with_reducible apply ChangesOnly.step ?_ (State.leaveBerth_only _ _ _)
    | with_reducible apply ChangesOnly.step ?_ (State.modBay_only _ _ _)
    | with_reducible apply ChangesOnly.step ?_ (State.discardAll_only _ _)
    | with_reducible apply ChangesOnly.step ?_ (State.leaveRun_only _ _)
    | with_reducible apply ChangesOnly.step ?_ (State.endWork_only _ _ _ _ _ _)
    | with_reducible intro _
    | split
    | dsimp only [id]

theorem State.unloadNow_only : ∀ s a1, ChangesOnly [.clk, .coves, .ctrls, .streams, .bays, .sessions, .portq, .jetty, .net] s (State.unloadNow s a1) := by
  intro s a1
  unfold State.unloadNow
  repeat' first
    | with_reducible apply ChangesOnly.refl
    | exact Eq.refl true
    | with_reducible apply ChangesOnly.ite
    | with_reducible apply ChangesOnly.foldl
    | with_reducible apply ChangesOnly.step ?_ (State.discardAll_only _ _)
    | with_reducible apply ChangesOnly.step ?_ (State.takeProgram_only _ _)
    | with_reducible intro _
    | split
    | dsimp only [id]

theorem State.atBoundary_only : ∀ s a1, ChangesOnly [.clk, .coves, .ctrls, .streams, .bays, .sessions, .portq, .jetty, .net] s (State.atBoundary s a1) := by
  intro s a1
  unfold State.atBoundary
  repeat' first
    | with_reducible apply ChangesOnly.refl
    | exact Eq.refl true
    | with_reducible apply ChangesOnly.ite
    | with_reducible apply ChangesOnly.foldl
    | with_reducible apply ChangesOnly.step ?_ (State.cancelWork_only _ _)
    | with_reducible apply ChangesOnly.step ?_ (State.unloadNow_only _ _)
    | with_reducible intro _
    | split
    | dsimp only [id]

theorem State.startOn_only : ∀ s a1 a2 a3, ChangesOnly [.clk, .coves, .ctrls, .streams, .bays, .sessions, .portq, .jetty, .integ, .rot, .net, .su, .mg] s (State.startOn s a1 a2 a3) := by
  intro s a1 a2 a3
  unfold State.startOn
  repeat' first
    | with_reducible apply ChangesOnly.refl
    | exact Eq.refl true
    | with_reducible apply ChangesOnly.ite
    | with_reducible apply ChangesOnly.foldl
    | with_reducible apply ChangesOnly.step ?_ (State.fetchFaults_only _ _)
    | with_reducible apply ChangesOnly.step ?_ (State.modCoves_only _ _ _)
    | with_reducible intro _
    | split
    | dsimp only [id]

theorem State.castOwed_only : ∀ s a1, ChangesOnly [.coves] s (State.castOwed s a1) := by
  intro s a1
  unfold State.castOwed
  repeat' first
    | with_reducible apply ChangesOnly.refl
    | exact Eq.refl true
    | with_reducible apply ChangesOnly.ite
    | with_reducible apply ChangesOnly.foldl
    | with_reducible apply ChangesOnly.step ?_ (State.modCove_only _ _ _)
    | with_reducible intro _
    | split
    | dsimp only [id]

theorem State.releaseStep_only : ∀ s a1 a2, ChangesOnly [.coves, .bays, .sessions, .portq, .jetty, .mg] s (State.releaseStep s a1 a2) := by
  intro s a1 a2
  unfold State.releaseStep
  repeat' first
    | with_reducible apply ChangesOnly.refl
    | exact Eq.refl true
    | with_reducible apply ChangesOnly.ite
    | with_reducible apply ChangesOnly.foldl
    | with_reducible apply ChangesOnly.step ?_ (State.leaveBerth_only _ _ _)
    | with_reducible apply ChangesOnly.step ?_ (State.modBay_only _ _ _)
    | with_reducible apply ChangesOnly.step ?_ (State.completeWork_only _ _ _ _)
    | with_reducible apply ChangesOnly.step ?_ (State.sendWork_only _ _ _ _ _)
    | with_reducible apply ChangesOnly.step ?_ (State.leaveRun_only _ _)
    | with_reducible apply ChangesOnly.step ?_ (State.sendEnding_only _ _ _ _)
    | with_reducible intro _
    | split
    | dsimp only [id]

end Sys2Proof.Machine
end

