-- ==== Sys2Proof/Laws/OnlyPrograms.lean ====
section
/-!
SUPPORT. For each operation and meaning of Machine/Programs.lean: the parts of the state that it can change.
-/

set_option linter.unreachableTactic false
set_option linter.unusedTactic false

namespace Sys2Proof.Machine

theorem State.loadDone_only : ∀ s a1 a2 a3, ChangesOnly [.bays, .sessions, .portq, .jetty] s (State.loadDone s a1 a2 a3) := by
  intro s a1 a2 a3
  unfold State.loadDone
  repeat' first
    | with_reducible apply ChangesOnly.refl
    | exact Eq.refl true
    | with_reducible apply ChangesOnly.ite
    | with_reducible apply ChangesOnly.foldl
    | with_reducible apply ChangesOnly.step ?_ (State.modBay_only _ _ _)
    | with_reducible apply ChangesOnly.step ?_ (State.complete_only _ _ _)
    | with_reducible intro _
    | split
    | dsimp only [id]

theorem State.releaseLoads_only : ∀ s, ChangesOnly [.bays, .sessions, .portq, .jetty] s (State.releaseLoads s) := by
  intro s
  unfold State.releaseLoads
  repeat' first
    | with_reducible apply ChangesOnly.refl
    | exact Eq.refl true
    | with_reducible apply ChangesOnly.ite
    | with_reducible apply ChangesOnly.foldl
    | with_reducible apply ChangesOnly.step ?_ (State.loadDone_only _ _ _ _)
    | with_reducible intro _
    | split
    | dsimp only [id]

theorem State.putBay_only : ∀ s a1 a2 a3, ChangesOnly [.hbm, .ctrls] s (State.putBay s a1 a2 a3) := by
  intro s a1 a2 a3
  unfold State.putBay
  repeat' first
    | with_reducible apply ChangesOnly.refl
    | exact Eq.refl true
    | with_reducible apply ChangesOnly.ite
    | with_reducible apply ChangesOnly.foldl
    | with_reducible apply ChangesOnly.step ?_ (State.committedWrite_only _ _ _ _ _)
    | with_reducible intro _
    | split
    | dsimp only [id]

theorem State.installProgram_only : ∀ s a1 a2 a3 a4 a5, ChangesOnly [.clk, .coves, .hbm, .ctrls, .bays] s (State.installProgram s a1 a2 a3 a4 a5) := by
  intro s a1 a2 a3 a4 a5
  unfold State.installProgram
  repeat' first
    | with_reducible apply ChangesOnly.refl
    | exact Eq.refl true
    | with_reducible apply ChangesOnly.ite
    | with_reducible apply ChangesOnly.foldl
    | with_reducible apply ChangesOnly.step ?_ (State.closeSeam_only _)
    | with_reducible apply ChangesOnly.step ?_ (State.requestPoints_only _ _ _)
    | with_reducible apply ChangesOnly.step ?_ (State.modBay_only _ _ _)
    | with_reducible apply ChangesOnly.step ?_ (State.putBay_only _ _ _ _)
    | with_reducible apply ChangesOnly.step ?_ (State.loadShape_only _ _ _ _ _)
    | with_reducible intro _
    | split
    | dsimp only [id]

theorem execProgramUnload_only : ∀ a0 s, Leaves [.clk, .coves, .ctrls, .streams, .bays, .sessions, .portq, .jetty, .net] s (execProgramUnload a0 s) := by
  intro a0 s
  unfold execProgramUnload
  repeat' first
    | with_reducible apply ChangesOnly.refl
    | with_reducible apply State.parse_only
    | exact Eq.refl true
    | with_reducible apply Leaves.next
    | with_reducible apply Leaves.occurs
    | with_reducible apply Leaves.ite
    | with_reducible apply ChangesOnly.ite
    | with_reducible apply ChangesOnly.foldl
    | with_reducible apply ChangesOnly.step ?_ (State.modBay_only _ _ _)
    | with_reducible apply ChangesOnly.step ?_ (State.acceptLong_only _ _)
    | with_reducible apply ChangesOnly.step ?_ (State.unloadNow_only _ _)
    | with_reducible apply ChangesOnly.step ?_ (State.atBoundary_only _ _)
    | with_reducible apply ChangesOnly.step ?_ (State.dropQueue_only _ _ _ _)
    | with_reducible intro _
    | split
    | dsimp only [id]

theorem State.loadProgram_only : ∀ s a1 a2 a3, ChangesOnly [.clk, .coves, .hbm, .ctrls, .bays] s (State.loadProgram s a1 a2 a3).2 := by
  intro s a1 a2 a3
  unfold State.loadProgram
  repeat' first
    | with_reducible apply ChangesOnly.refl
    | exact Eq.refl true
    | with_reducible apply ChangesOnly.ite
    | with_reducible apply ChangesOnly.foldl
    | with_reducible apply ChangesOnly.step ?_ (State.installProgram_only _ _ _ _ _ _)
    | with_reducible apply ChangesOnly.step ?_ (State.removeProgram_only _ _)
    | with_reducible intro _
    | split
    | dsimp only [id]

theorem execProgramLoadComplete_only : ∀ a0 s, Leaves [.clk, .coves, .hbm, .ctrls, .bays, .sessions, .portq, .jetty] s (execProgramLoadComplete a0 s) := by
  intro a0 s
  unfold execProgramLoadComplete
  repeat' first
    | with_reducible apply ChangesOnly.refl
    | exact Eq.refl true
    | with_reducible apply Leaves.next
    | with_reducible apply Leaves.occurs
    | with_reducible apply Leaves.ite
    | with_reducible apply ChangesOnly.ite
    | with_reducible apply ChangesOnly.foldl
    | with_reducible apply ChangesOnly.step ?_ (State.modBay_only _ _ _)
    | with_reducible apply ChangesOnly.step ?_ (State.loadDone_only _ _ _ _)
    | with_reducible apply ChangesOnly.step ?_ (State.loadProgram_only _ _ _ _)
    | with_reducible intro _
    | split
    | dsimp only [id]

theorem execProgramLoad_only : ∀ a0 s, Leaves [.bays, .sessions, .portq, .jetty] s (execProgramLoad a0 s) := by
  intro a0 s
  unfold execProgramLoad
  repeat' first
    | with_reducible apply ChangesOnly.refl
    | with_reducible apply State.parse_only
    | exact Eq.refl true
    | with_reducible apply Leaves.next
    | with_reducible apply Leaves.occurs
    | with_reducible apply Leaves.ite
    | with_reducible apply ChangesOnly.ite
    | with_reducible apply ChangesOnly.foldl
    | with_reducible apply ChangesOnly.step ?_ (State.modBay_only _ _ _)
    | with_reducible apply ChangesOnly.step ?_ (State.reject_only _ _ _)
    | with_reducible apply ChangesOnly.step ?_ (State.doneAtOnce_only _ _ _ _)
    | with_reducible apply ChangesOnly.step ?_ (State.acceptLong_only _ _)
    | with_reducible intro _
    | split
    | dsimp only [id]

end Sys2Proof.Machine
end

