-- ==== Sys2Proof/Laws/OnlyTideOps.lean ====
section
/-!
SUPPORT. For each operation and meaning of Machine/TideOps.lean: the parts of the state that it can change.
-/

set_option linter.unreachableTactic false
set_option linter.unusedTactic false

namespace Sys2Proof.Machine

theorem State.releaseCores_only : ∀ s a1 a2, ChangesOnly [.clk, .coves, .ctrls, .streams, .bays, .sessions, .portq, .jetty, .integ, .rot, .net, .su, .mg] s (State.releaseCores s a1 a2) := by
  intro s a1 a2
  unfold State.releaseCores
  repeat' first
    | with_reducible apply ChangesOnly.refl
    | exact Eq.refl true
    | with_reducible apply ChangesOnly.ite
    | with_reducible apply ChangesOnly.foldl
    | with_reducible apply ChangesOnly.step ?_ (State.retireNext_only _ _ _)
    | with_reducible intro _
    | split
    | dsimp only [id]

theorem State.stepVote_only : ∀ s a1, ChangesOnly [.bays] s (State.stepVote s a1) := by
  intro s a1
  unfold State.stepVote
  repeat' first
    | with_reducible apply ChangesOnly.refl
    | exact Eq.refl true
    | with_reducible apply ChangesOnly.ite
    | with_reducible apply ChangesOnly.foldl
    | with_reducible apply ChangesOnly.step ?_ (State.modBay_only _ _ _)
    | with_reducible intro _
    | split
    | dsimp only [id]

theorem State.sendOutcome_only : ∀ s a1 a2 a3, ChangesOnly [.coves] s (State.sendOutcome s a1 a2 a3) := by
  intro s a1 a2 a3
  unfold State.sendOutcome
  repeat' first
    | with_reducible apply ChangesOnly.refl
    | exact Eq.refl true
    | with_reducible apply ChangesOnly.ite
    | with_reducible apply ChangesOnly.foldl
    | with_reducible apply ChangesOnly.step ?_ (State.post_only _ _ _)
    | with_reducible intro _
    | split
    | dsimp only [id]

theorem State.takeLane_only : ∀ s a1 a2 a3, ChangesOnly [.coves] s (State.takeLane s a1 a2 a3) := by
  intro s a1 a2 a3
  unfold State.takeLane
  repeat' first
    | with_reducible apply ChangesOnly.refl
    | exact Eq.refl true
    | with_reducible apply ChangesOnly.ite
    | with_reducible apply ChangesOnly.foldl
    | with_reducible apply ChangesOnly.step ?_ (State.modCove_only _ _ _)
    | with_reducible intro _
    | split
    | dsimp only [id]

theorem State.releaseBarrier_only : ∀ s a1 a2, ChangesOnly [.clk, .coves, .ctrls, .streams, .bays, .sessions, .portq, .jetty, .integ, .rot, .net, .su, .mg] s (State.releaseBarrier s a1 a2) := by
  intro s a1 a2
  unfold State.releaseBarrier
  repeat' first
    | with_reducible apply ChangesOnly.refl
    | exact Eq.refl true
    | with_reducible apply ChangesOnly.ite
    | with_reducible apply ChangesOnly.foldl
    | with_reducible apply ChangesOnly.step ?_ (State.modCove_only _ _ _)
    | with_reducible apply ChangesOnly.step ?_ (State.releaseCores_only _ _ _)
    | with_reducible intro _
    | split
    | dsimp only [id]

theorem State.tideFault_only : ∀ s a1 a2 a3 a4, ChangesOnly [.coves, .bays, .sessions, .portq, .integ, .rot, .su, .mg] s (State.tideFault s a1 a2 a3 a4) := by
  intro s a1 a2 a3 a4
  unfold State.tideFault
  repeat' first
    | with_reducible apply ChangesOnly.refl
    | exact Eq.refl true
    | with_reducible apply ChangesOnly.ite
    | with_reducible apply ChangesOnly.foldl
    | with_reducible apply ChangesOnly.step ?_ (State.modCove_only _ _ _)
    | with_reducible apply ChangesOnly.step ?_ (State.modStep_only _ _ _ _)
    | with_reducible apply ChangesOnly.step ?_ (State.hwError_only _ _ _)
    | with_reducible apply ChangesOnly.step ?_ (State.castFail_only _ _ _ _ _ _)
    | with_reducible intro _
    | split
    | dsimp only [id]

theorem State.laneIn_only {ps : List Piece}
    (hp : ([Piece.coves, .bays, .sessions, .portq, .integ, .rot, .su, .mg].all fun p => ps.contains p) = true) (s : State)
    (c d : Nat) (tok : BitVec 6) (tag : BitVec 2) (f : State → State) (hf : ∀ t, ChangesOnly ps t (f t)) :
    ChangesOnly ps s (s.laneIn c d tok tag f) := by
  have m (x : LaneTok) : ChangesOnly ps s (s.takeLane c d x) := ((State.takeLane_only s c d x).mono (ps := [Piece.coves, .bays, .sessions, .portq, .integ, .rot, .su, .mg]) rfl).mono hp
  unfold State.laneIn
  split
  · exact ChangesOnly.refl _ _
  · refine .ite (ChangesOnly.refl _ _) ?_
    extract_lets t l
    exact .ite ((m _).trans ((State.tideFault_only _ _ _ _ _).mono hp)) ((m _).trans (hf _))

end Sys2Proof.Machine
end

