-- ==== Sys2Proof/Laws/OnlyTransport.lean ====
section
/-!
SUPPORT. For each operation and meaning of Machine/Transport.lean: the parts of the state that it can change.
-/

set_option linter.unreachableTactic false
set_option linter.unusedTactic false

namespace Sys2Proof.Machine

theorem State.nak_only : ∀ s a1 a2 a3 a4, ChangesOnly [.sessions, .qps, .ports, .portq] s (State.nak s a1 a2 a3 a4) := by
  intro s a1 a2 a3 a4
  unfold State.nak
  repeat' first
    | with_reducible apply ChangesOnly.refl
    | exact Eq.refl true
    | with_reducible apply ChangesOnly.ite
    | with_reducible apply ChangesOnly.foldl
    | with_reducible apply ChangesOnly.step ?_ (State.modPort_only _ _ _)
    | with_reducible apply ChangesOnly.step ?_ (State.modSess_only _ _ _)
    | with_reducible apply ChangesOnly.step ?_ (State.modQp_only _ _ _)
    | with_reducible apply ChangesOnly.step ?_ (State.transmit_only _ _ _)
    | with_reducible apply ChangesOnly.step ?_ (State.dropSessions_only _ _)
    | with_reducible apply ChangesOnly.step ?_ (State.ethCount_only _ _ _ _)
    | with_reducible intro _
    | split
    | dsimp only [id]

theorem execReadGatherTimeout_only : ∀ a0 a1 s, Leaves [.sessions, .qps, .ports, .portq] s (execReadGatherTimeout a0 a1 s) := by
  intro a0 a1 s
  unfold execReadGatherTimeout
  repeat' first
    | with_reducible apply ChangesOnly.refl
    | exact Eq.refl true
    | with_reducible apply Leaves.next
    | with_reducible apply Leaves.occurs
    | with_reducible apply Leaves.ite
    | with_reducible apply ChangesOnly.ite
    | with_reducible apply ChangesOnly.foldl
    | with_reducible apply ChangesOnly.step ?_ (State.nak_only _ _ _ _ _)
    | with_reducible intro _
    | split
    | dsimp only [id]

theorem State.ack_only : ∀ s a1 a2, ChangesOnly [.portq] s (State.ack s a1 a2) := by
  intro s a1 a2
  unfold State.ack
  repeat' first
    | with_reducible apply ChangesOnly.refl
    | exact Eq.refl true
    | with_reducible apply ChangesOnly.ite
    | with_reducible apply ChangesOnly.foldl
    | with_reducible apply ChangesOnly.step ?_ (State.transmit_only _ _ _)
    | with_reducible intro _
    | split
    | dsimp only [id]

theorem State.notify_only : ∀ s a1, ChangesOnly [.qps, .ports, .portq] s (State.notify s a1) := by
  intro s a1
  unfold State.notify
  repeat' first
    | with_reducible apply ChangesOnly.refl
    | exact Eq.refl true
    | with_reducible apply ChangesOnly.ite
    | with_reducible apply ChangesOnly.foldl
    | with_reducible apply ChangesOnly.step ?_ (State.modQp_only _ _ _)
    | with_reducible apply ChangesOnly.step ?_ (State.transmit_only _ _ _)
    | with_reducible apply ChangesOnly.step ?_ (State.ethCount_only _ _ _ _)
    | with_reducible intro _
    | split
    | dsimp only [id]

theorem State.buffered_only : ∀ s a1 a2, ChangesOnly [.portq] s (State.buffered s a1 a2) := by
  intro s a1 a2
  unfold State.buffered
  repeat' first
    | with_reducible apply ChangesOnly.refl
    | exact Eq.refl true
    | with_reducible apply ChangesOnly.ite
    | with_reducible apply ChangesOnly.foldl
    | with_reducible apply ChangesOnly.step ?_ (State.modPortQ_only _ _ _)
    | with_reducible apply ChangesOnly.step ?_ (State.transmit_only _ _ _)
    | with_reducible intro _
    | split
    | dsimp only [id]

theorem State.request_only {ps : List Piece}
    (hp : ([Piece.sessions, .qps, .ports, .portq].all fun p => ps.contains p) = true)
    (s : State) (b : Bth) (n : Nat) (dup f : State → State)
    (hd : ∀ t, ChangesOnly ps t (dup t)) (hf : ∀ t, ChangesOnly ps t (f t)) : Leaves ps s (s.request b n dup f) := by
  have q {t u : State} (h : ChangesOnly [Piece.sessions, .qps, .ports, .portq] t u) : ChangesOnly ps t u := h.mono hp
  unfold State.request
  extract_lets i x s1 s2 d
  have h1 : ChangesOnly ps s s1 := q ((State.ethCount_only _ _ _ _).mono rfl)
  have h2 : ChangesOnly ps s s2 :=
    h1.trans ((q ((State.modQp_only s1 _ _).mono rfl)).trans ((q ((State.notify_only _ _).mono rfl)).trans
      (q ((State.buffered_only _ _ _).mono rfl))))
  refine Leaves.occurs (ChangesOnly.ite (h1.trans (q ((State.ethCount_only _ _ _ _).mono rfl))) (ChangesOnly.ite ?_ (ChangesOnly.ite ?_ ?_)))
  · exact (h2.trans (q ((State.modQp_only _ _ _).mono rfl))).trans (hf _)
  · exact ChangesOnly.ite h2 ((h2.trans (q ((State.modQp_only _ _ _).mono rfl))).trans (q ((State.nak_only _ _ _ _ _).mono rfl)))
  · exact h2.trans (hd _)

theorem State.unsupported_only : ∀ s a1, Leaves [.sessions, .qps, .ports, .portq] s (State.unsupported s a1) := by
  intro s a1
  unfold State.unsupported
  repeat' first
    | with_reducible apply ChangesOnly.refl
    | with_reducible apply State.request_only
    | exact Eq.refl true
    | with_reducible apply Leaves.next
    | with_reducible apply Leaves.occurs
    | with_reducible apply Leaves.ite
    | with_reducible apply ChangesOnly.ite
    | with_reducible apply ChangesOnly.foldl
    | with_reducible apply ChangesOnly.step ?_ (State.ack_only _ _ _)
    | with_reducible apply ChangesOnly.step ?_ (State.nak_only _ _ _ _ _)
    | with_reducible intro _
    | split
    | dsimp only [id]

theorem execUnsupportedOpcode_only : ∀ a0 a1 s, Leaves [.sessions, .qps, .ports, .portq] s (execUnsupportedOpcode a0 a1 s) := by
  intro a0 a1 s
  unfold execUnsupportedOpcode
  repeat' first
    | with_reducible apply ChangesOnly.refl
    | exact Eq.refl true
    | with_reducible apply Leaves.next
    | with_reducible apply Leaves.occurs
    | with_reducible apply Leaves.ite
    | with_reducible apply ChangesOnly.ite
    | with_reducible apply ChangesOnly.foldl
    | with_reducible apply Leaves.after ?_ (State.unsupported_only _ _)
    | with_reducible intro _
    | split
    | dsimp only [id]

theorem execSendLast_only : ∀ a0 s, Leaves [.sessions, .qps, .ports, .portq] s (execSendLast a0 s) := by
  intro a0 s
  unfold execSendLast
  repeat' first
    | with_reducible apply ChangesOnly.refl
    | exact Eq.refl true
    | with_reducible apply Leaves.next
    | with_reducible apply Leaves.occurs
    | with_reducible apply Leaves.ite
    | with_reducible apply ChangesOnly.ite
    | with_reducible apply ChangesOnly.foldl
    | with_reducible apply Leaves.after ?_ (State.unsupported_only _ _)
    | with_reducible intro _
    | split
    | dsimp only [id]

theorem State.connFrame_only {ps : List Piece} (hp : ([Piece.qps, .ports].all fun p => ps.contains p) = true) (s : State) (x : ConnFrame)
    (states : List QpState) (f : State → State) (hf : ∀ t, ChangesOnly ps t (f t)) : Leaves ps s (s.connFrame x states f) := by
  have q {t u : State} (h : ChangesOnly [.qps, .ports] t u) : ChangesOnly ps t u := h.mono hp
  unfold State.connFrame
  repeat' first
    | with_reducible apply Leaves.occurs
    | with_reducible apply Leaves.next
    | with_reducible apply Leaves.ite
    | with_reducible apply ChangesOnly.ite
    | with_reducible apply ChangesOnly.refl
    | with_reducible apply ChangesOnly.trans ?_ (hf _)
    | with_reducible apply ChangesOnly.trans ?_ (q ((State.modQp_only _ _ _).mono rfl))
    | with_reducible apply ChangesOnly.trans ?_ (q ((State.ethCount_only _ _ _ _).mono rfl))

theorem execCmDreq_only : ∀ a0 s, Leaves [.sessions, .qps, .ports, .portq] s (execCmDreq a0 s) := by
  intro a0 s
  unfold execCmDreq
  repeat' first
    | with_reducible apply ChangesOnly.refl
    | with_reducible apply State.connFrame_only
    | exact Eq.refl true
    | with_reducible apply Leaves.next
    | with_reducible apply Leaves.occurs
    | with_reducible apply Leaves.ite
    | with_reducible apply ChangesOnly.ite
    | with_reducible apply ChangesOnly.foldl
    | with_reducible apply ChangesOnly.step ?_ (State.modQp_only _ _ _)
    | with_reducible apply ChangesOnly.step ?_ (State.transmit_only _ _ _)
    | with_reducible apply ChangesOnly.step ?_ (State.dropSessions_only _ _)
    | with_reducible intro _
    | split
    | dsimp only [id]

theorem execCmRej_only : ∀ a0 s, Leaves [.qps, .ports] s (execCmRej a0 s) := by
  intro a0 s
  unfold execCmRej
  repeat' first
    | with_reducible apply ChangesOnly.refl
    | with_reducible apply State.connFrame_only
    | exact Eq.refl true
    | with_reducible apply Leaves.next
    | with_reducible apply Leaves.occurs
    | with_reducible apply Leaves.ite
    | with_reducible apply ChangesOnly.ite
    | with_reducible apply ChangesOnly.foldl
    | with_reducible apply ChangesOnly.step ?_ (State.modQp_only _ _ _)
    | with_reducible intro _
    | split
    | dsimp only [id]

theorem State.windowWakes_only : ∀ s a1 a2, ChangesOnly [.clk, .coves] s (State.windowWakes s a1 a2) := by
  intro s a1 a2
  unfold State.windowWakes
  repeat' first
    | with_reducible apply ChangesOnly.refl
    | exact Eq.refl true
    | with_reducible apply ChangesOnly.ite
    | with_reducible apply ChangesOnly.foldl
    | with_reducible apply ChangesOnly.step ?_ (State.wakeHalf_only _ _)
    | with_reducible apply ChangesOnly.step ?_ (State.wakeCove_only _ _)
    | with_reducible intro _
    | split
    | dsimp only [id]

theorem State.windowWrite_only (s : State) (a : Nat) (bs : List Byte) :
    ChangesOnly [.coves] s (s.windowWrite a bs) := by
  induction bs generalizing s a with
  | nil => exact ChangesOnly.refl _ _
  | cons x t ih =>
    unfold State.windowWrite
    refine ChangesOnly.trans ?_ (ih _ _)
    repeat' first
      | with_reducible apply ChangesOnly.refl
      | exact Eq.refl true
      | with_reducible apply ChangesOnly.ite
      | with_reducible apply ChangesOnly.foldl
      | with_reducible apply ChangesOnly.step ?_ (State.modCove_only _ _ _)
      | with_reducible intro _
      | split
      | dsimp only [id]

theorem State.landRdma_only : ∀ s a1 a2 a3 a4, ChangesOnly [.clk, .coves, .hbm, .ctrls] s (State.landRdma s a1 a2 a3 a4) := by
  intro s a1 a2 a3 a4
  unfold State.landRdma
  repeat' first
    | with_reducible apply ChangesOnly.refl
    | exact Eq.refl true
    | with_reducible apply ChangesOnly.ite
    | with_reducible apply ChangesOnly.foldl
    | with_reducible apply ChangesOnly.step ?_ (State.committedWrite_only _ _ _ _ _)
    | with_reducible apply ChangesOnly.step ?_ (State.windowWakes_only _ _ _)
    | with_reducible apply ChangesOnly.step ?_ (State.windowWrite_only _ _ _)
    | with_reducible intro _
    | split
    | dsimp only [id]

theorem State.advance_only : ∀ s a1 a2, ChangesOnly [.qps] s (State.advance s a1 a2) := by
  intro s a1 a2
  unfold State.advance
  repeat' first
    | with_reducible apply ChangesOnly.refl
    | exact Eq.refl true
    | with_reducible apply ChangesOnly.ite
    | with_reducible apply ChangesOnly.foldl
    | with_reducible apply ChangesOnly.step ?_ (State.modQp_only _ _ _)
    | with_reducible intro _
    | split
    | dsimp only [id]

theorem State.rdmaWriteMore_only : ∀ s a1 a2 a3, ChangesOnly [.clk, .coves, .hbm, .ctrls, .sessions, .qps, .ports, .portq] s (State.rdmaWriteMore s a1 a2 a3) := by
  intro s a1 a2 a3
  unfold State.rdmaWriteMore
  repeat' first
    | with_reducible apply ChangesOnly.refl
    | exact Eq.refl true
    | with_reducible apply ChangesOnly.ite
    | with_reducible apply ChangesOnly.foldl
    | with_reducible apply ChangesOnly.step ?_ (State.modQp_only _ _ _)
    | with_reducible apply ChangesOnly.step ?_ (State.ack_only _ _ _)
    | with_reducible apply ChangesOnly.step ?_ (State.nak_only _ _ _ _ _)
    | with_reducible apply ChangesOnly.step ?_ (State.landRdma_only _ _ _ _ _)
    | with_reducible apply ChangesOnly.step ?_ (State.advance_only _ _ _)
    | with_reducible intro _
    | split
    | dsimp only [id]

theorem execRdmaWriteLast_only : ∀ a0 a1 s, Leaves [.clk, .coves, .hbm, .ctrls, .sessions, .qps, .ports, .portq] s (execRdmaWriteLast a0 a1 s) := by
  intro a0 a1 s
  unfold execRdmaWriteLast
  repeat' first
    | with_reducible apply ChangesOnly.refl
    | with_reducible apply State.request_only
    | exact Eq.refl true
    | with_reducible apply Leaves.next
    | with_reducible apply Leaves.occurs
    | with_reducible apply Leaves.ite
    | with_reducible apply ChangesOnly.ite
    | with_reducible apply ChangesOnly.foldl
    | with_reducible apply ChangesOnly.step ?_ (State.ack_only _ _ _)
    | with_reducible apply ChangesOnly.step ?_ (State.rdmaWriteMore_only _ _ _ _)
    | with_reducible intro _
    | split
    | dsimp only [id]

theorem State.responses_only : ∀ s a1 a2 a3 a4 a5, ChangesOnly [.portq] s (State.responses s a1 a2 a3 a4 a5) := by
  intro s a1 a2 a3 a4 a5
  fun_induction State.responses s a1 a2 a3 a4 a5
  all_goals repeat' first
    | (with_reducible apply ChangesOnly.trans; rotate_left; assumption)
    | with_reducible apply ChangesOnly.refl
    | exact Eq.refl true
    | with_reducible apply ChangesOnly.ite
    | with_reducible apply ChangesOnly.foldl
    | with_reducible apply ChangesOnly.step ?_ (State.transmit_only _ _ _)
    | with_reducible intro _
    | split
    | dsimp only [id]

theorem State.serveRead_only : ∀ s a1 a2 a3 a4 a5 a6, ChangesOnly [.clk, .coves, .ctrls, .bays, .sessions, .qps, .ports, .portq, .integ, .rot, .su, .mg] s (State.serveRead s a1 a2 a3 a4 a5 a6) := by
  intro s a1 a2 a3 a4 a5 a6
  unfold State.serveRead
  repeat' first
    | with_reducible apply ChangesOnly.refl
    | exact Eq.refl true
    | with_reducible apply ChangesOnly.ite
    | with_reducible apply ChangesOnly.foldl
    | with_reducible apply ChangesOnly.step ?_ (State.modCove_only _ _ _)
    | with_reducible apply ChangesOnly.step ?_ (State.responses_only _ _ _ _ _ _)
    | with_reducible apply ChangesOnly.step ?_ (State.modQp_only _ _ _)
    | with_reducible apply ChangesOnly.step ?_ (State.windowWakes_only _ _ _)
    | with_reducible apply ChangesOnly.step ?_ (State.nak_only _ _ _ _ _)
    | with_reducible apply ChangesOnly.step ?_ (State.charge_only _ _ _)
    | with_reducible apply ChangesOnly.step ?_ (State.eccFindings_only _ _ _ _ _ _)
    | with_reducible apply ChangesOnly.step ?_ (State.readBay_only _ _ _ _ _ _)
    | with_reducible intro _
    | split
    | dsimp only [id]

theorem State.readRequest_only : ∀ s a1 a2 a3, ChangesOnly [.clk, .coves, .ctrls, .bays, .sessions, .qps, .ports, .portq, .integ, .rot, .su, .mg] s (State.readRequest s a1 a2 a3) := by
  intro s a1 a2 a3
  unfold State.readRequest
  repeat' first
    | with_reducible apply ChangesOnly.refl
    | exact Eq.refl true
    | with_reducible apply ChangesOnly.ite
    | with_reducible apply ChangesOnly.foldl
    | with_reducible apply ChangesOnly.step ?_ (State.responses_only _ _ _ _ _ _)
    | with_reducible apply ChangesOnly.step ?_ (State.modQp_only _ _ _)
    | with_reducible apply ChangesOnly.step ?_ (State.serveRead_only _ _ _ _ _ _ _)
    | with_reducible intro _
    | split
    | dsimp only [id]

theorem execRdmaReadRequest_only : ∀ a0 a1 s, Leaves [.clk, .coves, .ctrls, .bays, .sessions, .qps, .ports, .portq, .integ, .rot, .su, .mg] s (execRdmaReadRequest a0 a1 s) := by
  intro a0 a1 s
  unfold execRdmaReadRequest
  repeat' first
    | with_reducible apply ChangesOnly.refl
    | with_reducible apply State.request_only
    | exact Eq.refl true
    | with_reducible apply Leaves.next
    | with_reducible apply Leaves.occurs
    | with_reducible apply Leaves.ite
    | with_reducible apply ChangesOnly.ite
    | with_reducible apply ChangesOnly.foldl
    | with_reducible apply ChangesOnly.step ?_ (State.readRequest_only _ _ _ _)
    | with_reducible apply ChangesOnly.step ?_ (State.advance_only _ _ _)
    | with_reducible intro _
    | split
    | dsimp only [id]

theorem execRdmaWriteMiddle_only : ∀ a0 a1 s, Leaves [.clk, .coves, .hbm, .ctrls, .sessions, .qps, .ports, .portq] s (execRdmaWriteMiddle a0 a1 s) := by
  intro a0 a1 s
  unfold execRdmaWriteMiddle
  repeat' first
    | with_reducible apply ChangesOnly.refl
    | with_reducible apply State.request_only
    | exact Eq.refl true
    | with_reducible apply Leaves.next
    | with_reducible apply Leaves.occurs
    | with_reducible apply Leaves.ite
    | with_reducible apply ChangesOnly.ite
    | with_reducible apply ChangesOnly.foldl
    | with_reducible apply ChangesOnly.step ?_ (State.ack_only _ _ _)
    | with_reducible apply ChangesOnly.step ?_ (State.rdmaWriteMore_only _ _ _ _)
    | with_reducible intro _
    | split
    | dsimp only [id]

theorem State.rdmaWrite_only : ∀ s a1 a2 a3 a4, ChangesOnly [.clk, .coves, .hbm, .ctrls, .sessions, .qps, .ports, .portq] s (State.rdmaWrite s a1 a2 a3 a4) := by
  intro s a1 a2 a3 a4
  unfold State.rdmaWrite
  repeat' first
    | with_reducible apply ChangesOnly.refl
    | exact Eq.refl true
    | with_reducible apply ChangesOnly.ite
    | with_reducible apply ChangesOnly.foldl
    | with_reducible apply ChangesOnly.step ?_ (State.modQp_only _ _ _)
    | with_reducible apply ChangesOnly.step ?_ (State.ack_only _ _ _)
    | with_reducible apply ChangesOnly.step ?_ (State.nak_only _ _ _ _ _)
    | with_reducible apply ChangesOnly.step ?_ (State.landRdma_only _ _ _ _ _)
    | with_reducible apply ChangesOnly.step ?_ (State.advance_only _ _ _)
    | with_reducible intro _
    | split
    | dsimp only [id]

theorem execRdmaWriteWithImmediate_only : ∀ a0 s, Leaves [.sessions, .qps, .ports, .portq] s (execRdmaWriteWithImmediate a0 s) := by
  intro a0 s
  unfold execRdmaWriteWithImmediate
  repeat' first
    | with_reducible apply ChangesOnly.refl
    | exact Eq.refl true
    | with_reducible apply Leaves.next
    | with_reducible apply Leaves.occurs
    | with_reducible apply Leaves.ite
    | with_reducible apply ChangesOnly.ite
    | with_reducible apply ChangesOnly.foldl
    | with_reducible apply Leaves.after ?_ (State.unsupported_only _ _)
    | with_reducible intro _
    | split
    | dsimp only [id]

theorem execDcqcnRateTimer_only : ∀ a0 a1 s, Leaves [.qps] s (execDcqcnRateTimer a0 a1 s) := by
  intro a0 a1 s
  unfold execDcqcnRateTimer
  repeat' first
    | with_reducible apply ChangesOnly.refl
    | exact Eq.refl true
    | with_reducible apply Leaves.next
    | with_reducible apply Leaves.occurs
    | with_reducible apply Leaves.ite
    | with_reducible apply ChangesOnly.ite
    | with_reducible apply ChangesOnly.foldl
    | with_reducible apply ChangesOnly.step ?_ (State.modQp_only _ _ _)
    | with_reducible intro _
    | split
    | dsimp only [id]

theorem execRdmaWriteOnly_only : ∀ a0 a1 a2 s, Leaves [.clk, .coves, .hbm, .ctrls, .sessions, .qps, .ports, .portq] s (execRdmaWriteOnly a0 a1 a2 s) := by
  intro a0 a1 a2 s
  unfold execRdmaWriteOnly
  repeat' first
    | with_reducible apply ChangesOnly.refl
    | with_reducible apply State.request_only
    | exact Eq.refl true
    | with_reducible apply Leaves.next
    | with_reducible apply Leaves.occurs
    | with_reducible apply Leaves.ite
    | with_reducible apply ChangesOnly.ite
    | with_reducible apply ChangesOnly.foldl
    | with_reducible apply ChangesOnly.step ?_ (State.ack_only _ _ _)
    | with_reducible apply ChangesOnly.step ?_ (State.rdmaWrite_only _ _ _ _ _)
    | with_reducible intro _
    | split
    | dsimp only [id]

theorem execSendFirst_only : ∀ a0 s, Leaves [.sessions, .qps, .ports, .portq] s (execSendFirst a0 s) := by
  intro a0 s
  unfold execSendFirst
  repeat' first
    | with_reducible apply ChangesOnly.refl
    | exact Eq.refl true
    | with_reducible apply Leaves.next
    | with_reducible apply Leaves.occurs
    | with_reducible apply Leaves.ite
    | with_reducible apply ChangesOnly.ite
    | with_reducible apply ChangesOnly.foldl
    | with_reducible apply Leaves.after ?_ (State.unsupported_only _ _)
    | with_reducible intro _
    | split
    | dsimp only [id]

theorem execRdmaWriteFirst_only : ∀ a0 a1 a2 s, Leaves [.clk, .coves, .hbm, .ctrls, .sessions, .qps, .ports, .portq] s (execRdmaWriteFirst a0 a1 a2 s) := by
  intro a0 a1 a2 s
  unfold execRdmaWriteFirst
  repeat' first
    | with_reducible apply ChangesOnly.refl
    | with_reducible apply State.request_only
    | exact Eq.refl true
    | with_reducible apply Leaves.next
    | with_reducible apply Leaves.occurs
    | with_reducible apply Leaves.ite
    | with_reducible apply ChangesOnly.ite
    | with_reducible apply ChangesOnly.foldl
    | with_reducible apply ChangesOnly.step ?_ (State.ack_only _ _ _)
    | with_reducible apply ChangesOnly.step ?_ (State.rdmaWrite_only _ _ _ _ _)
    | with_reducible intro _
    | split
    | dsimp only [id]

theorem execCmReq_only : ∀ a0 a1 s, Leaves [.qps, .ports, .portq] s (execCmReq a0 a1 s) := by
  intro a0 a1 s
  unfold execCmReq
  repeat' first
    | with_reducible apply ChangesOnly.refl
    | exact Eq.refl true
    | with_reducible apply Leaves.next
    | with_reducible apply Leaves.occurs
    | with_reducible apply Leaves.ite
    | with_reducible apply ChangesOnly.ite
    | with_reducible apply ChangesOnly.foldl
    | with_reducible apply ChangesOnly.step ?_ (State.modQp_only _ _ _)
    | with_reducible apply ChangesOnly.step ?_ (State.transmit_only _ _ _)
    | with_reducible apply ChangesOnly.step ?_ (State.ethCount_only _ _ _ _)
    | with_reducible intro _
    | split
    | dsimp only [id]

theorem execSendMiddle_only : ∀ a0 s, Leaves [.sessions, .qps, .ports, .portq] s (execSendMiddle a0 s) := by
  intro a0 s
  unfold execSendMiddle
  repeat' first
    | with_reducible apply ChangesOnly.refl
    | exact Eq.refl true
    | with_reducible apply Leaves.next
    | with_reducible apply Leaves.occurs
    | with_reducible apply Leaves.ite
    | with_reducible apply ChangesOnly.ite
    | with_reducible apply ChangesOnly.foldl
    | with_reducible apply Leaves.after ?_ (State.unsupported_only _ _)
    | with_reducible intro _
    | split
    | dsimp only [id]

theorem execDcqcnAlphaTimer_only : ∀ a0 s, Leaves [.qps] s (execDcqcnAlphaTimer a0 s) := by
  intro a0 s
  unfold execDcqcnAlphaTimer
  repeat' first
    | with_reducible apply ChangesOnly.refl
    | exact Eq.refl true
    | with_reducible apply Leaves.next
    | with_reducible apply Leaves.occurs
    | with_reducible apply Leaves.ite
    | with_reducible apply ChangesOnly.ite
    | with_reducible apply ChangesOnly.foldl
    | with_reducible apply ChangesOnly.step ?_ (State.modQp_only _ _ _)
    | with_reducible intro _
    | split
    | dsimp only [id]

theorem execAtomicFetchAndAdd_only : ∀ a0 s, Leaves [.sessions, .qps, .ports, .portq] s (execAtomicFetchAndAdd a0 s) := by
  intro a0 s
  unfold execAtomicFetchAndAdd
  repeat' first
    | with_reducible apply ChangesOnly.refl
    | exact Eq.refl true
    | with_reducible apply Leaves.next
    | with_reducible apply Leaves.occurs
    | with_reducible apply Leaves.ite
    | with_reducible apply ChangesOnly.ite
    | with_reducible apply ChangesOnly.foldl
    | with_reducible apply Leaves.after ?_ (State.unsupported_only _ _)
    | with_reducible intro _
    | split
    | dsimp only [id]

theorem execAtomicCompareAndSwap_only : ∀ a0 s, Leaves [.sessions, .qps, .ports, .portq] s (execAtomicCompareAndSwap a0 s) := by
  intro a0 s
  unfold execAtomicCompareAndSwap
  repeat' first
    | with_reducible apply ChangesOnly.refl
    | exact Eq.refl true
    | with_reducible apply Leaves.next
    | with_reducible apply Leaves.occurs
    | with_reducible apply Leaves.ite
    | with_reducible apply ChangesOnly.ite
    | with_reducible apply ChangesOnly.foldl
    | with_reducible apply Leaves.after ?_ (State.unsupported_only _ _)
    | with_reducible intro _
    | split
    | dsimp only [id]

theorem State.deliverSend_only : ∀ s a1 a2 a3, ChangesOnly [.sessions, .qps, .ports, .portq] s (State.deliverSend s a1 a2 a3) := by
  intro s a1 a2 a3
  unfold State.deliverSend
  repeat' first
    | with_reducible apply ChangesOnly.refl
    | exact Eq.refl true
    | with_reducible apply ChangesOnly.ite
    | with_reducible apply ChangesOnly.foldl
    | with_reducible apply ChangesOnly.step ?_ (State.modPortQ_only _ _ _)
    | with_reducible apply ChangesOnly.step ?_ (State.ack_only _ _ _)
    | with_reducible apply ChangesOnly.step ?_ (State.nak_only _ _ _ _ _)
    | with_reducible apply ChangesOnly.step ?_ (State.advance_only _ _ _)
    | with_reducible intro _
    | split
    | dsimp only [id]

theorem execCnpReceived_only : ∀ a0 s, Leaves [.qps, .ports] s (execCnpReceived a0 s) := by
  intro a0 s
  unfold execCnpReceived
  repeat' first
    | with_reducible apply ChangesOnly.refl
    | with_reducible apply State.connFrame_only
    | exact Eq.refl true
    | with_reducible apply Leaves.next
    | with_reducible apply Leaves.occurs
    | with_reducible apply Leaves.ite
    | with_reducible apply ChangesOnly.ite
    | with_reducible apply ChangesOnly.foldl
    | with_reducible apply ChangesOnly.step ?_ (State.modQp_only _ _ _)
    | with_reducible apply ChangesOnly.step ?_ (State.ethCount_only _ _ _ _)
    | with_reducible intro _
    | split
    | dsimp only [id]

theorem execCmRtu_only : ∀ a0 s, Leaves [.qps, .ports] s (execCmRtu a0 s) := by
  intro a0 s
  unfold execCmRtu
  repeat' first
    | with_reducible apply ChangesOnly.refl
    | with_reducible apply State.connFrame_only
    | exact Eq.refl true
    | with_reducible apply Leaves.next
    | with_reducible apply Leaves.occurs
    | with_reducible apply Leaves.ite
    | with_reducible apply ChangesOnly.ite
    | with_reducible apply ChangesOnly.foldl
    | with_reducible apply ChangesOnly.step ?_ (State.modQp_only _ _ _)
    | with_reducible intro _
    | split
    | dsimp only [id]

theorem execSendOnly_only : ∀ a0 a1 s, Leaves [.sessions, .qps, .ports, .portq] s (execSendOnly a0 a1 s) := by
  intro a0 a1 s
  unfold execSendOnly
  repeat' first
    | with_reducible apply ChangesOnly.refl
    | with_reducible apply State.request_only
    | exact Eq.refl true
    | with_reducible apply Leaves.next
    | with_reducible apply Leaves.occurs
    | with_reducible apply Leaves.ite
    | with_reducible apply ChangesOnly.ite
    | with_reducible apply ChangesOnly.foldl
    | with_reducible apply ChangesOnly.step ?_ (State.ack_only _ _ _)
    | with_reducible apply ChangesOnly.step ?_ (State.deliverSend_only _ _ _ _)
    | with_reducible intro _
    | split
    | dsimp only [id]

theorem execSendOnlyWithImmediate_only : ∀ a0 a1 a2 s, Leaves [.sessions, .qps, .ports, .portq] s (execSendOnlyWithImmediate a0 a1 a2 s) := by
  intro a0 a1 a2 s
  unfold execSendOnlyWithImmediate
  repeat' first
    | with_reducible apply ChangesOnly.refl
    | with_reducible apply State.request_only
    | exact Eq.refl true
    | with_reducible apply Leaves.next
    | with_reducible apply Leaves.occurs
    | with_reducible apply Leaves.ite
    | with_reducible apply ChangesOnly.ite
    | with_reducible apply ChangesOnly.foldl
    | with_reducible apply ChangesOnly.step ?_ (State.ack_only _ _ _)
    | with_reducible apply ChangesOnly.step ?_ (State.deliverSend_only _ _ _ _)
    | with_reducible intro _
    | split
    | dsimp only [id]

theorem State.serveGathers_only : ∀ s, ChangesOnly [.clk, .coves, .ctrls, .bays, .sessions, .qps, .ports, .portq, .integ, .rot, .su, .mg] s (State.serveGathers s) := by
  intro s
  unfold State.serveGathers
  repeat' first
    | with_reducible apply ChangesOnly.refl
    | exact Eq.refl true
    | with_reducible apply ChangesOnly.ite
    | with_reducible apply ChangesOnly.foldl
    | with_reducible apply ChangesOnly.step ?_ (State.modQp_only _ _ _)
    | with_reducible apply ChangesOnly.step ?_ (State.serveRead_only _ _ _ _ _ _ _)
    | with_reducible intro _
    | split
    | dsimp only [id]

end Sys2Proof.Machine
end

