-- ==== Sys2Proof/Laws/OnlyClocks.lean ====
section
/-!
SUPPORT. For each operation and meaning of Machine/Clocks.lean: the parts of the state that it can change.
-/

set_option linter.unreachableTactic false
set_option linter.unusedTactic false

namespace Sys2Proof.Machine

theorem execSlackEntry_only : ∀ a0 s, Leaves [.clk] s (execSlackEntry a0 s) := by
  intro a0 s
  unfold execSlackEntry
  repeat' first
    | with_reducible exact Or.inl rfl
    | with_reducible exact Or.inr rfl
    | exact Or.inl rfl
    | with_reducible apply ChangesOnly.refl
    | exact Eq.refl true
    | with_reducible apply Leaves.next
    | with_reducible apply Leaves.occurs
    | with_reducible apply Leaves.ite
    | with_reducible apply ChangesOnly.ite
    | with_reducible apply ChangesOnly.foldl
    | with_reducible intro _
    | split
    | dsimp only [id]
    | with_reducible apply ChangesOnly.record

theorem execDomainWake_only : ∀ a0 s, Leaves [.clk, .coves, .ctrls, .bays, .sessions, .qps, .ports, .portq, .integ, .rot, .su, .mg] s (execDomainWake a0 s) := by
  intro a0 s
  unfold execDomainWake
  repeat' first
    | with_reducible exact Or.inl rfl
    | with_reducible exact Or.inr rfl
    | exact Or.inl rfl
    | with_reducible apply ChangesOnly.refl
    | exact Eq.refl true
    | with_reducible apply Leaves.next
    | with_reducible apply Leaves.occurs
    | with_reducible apply Leaves.ite
    | with_reducible apply ChangesOnly.ite
    | with_reducible apply ChangesOnly.foldl
    | with_reducible apply ChangesOnly.step ?_ (State.wakeHalf_only _ _)
    | with_reducible apply ChangesOnly.step ?_ (State.serveGathers_only _)
    | with_reducible apply ChangesOnly.step ?_ (State.startPll_only _ _)
    | with_reducible apply ChangesOnly.step ?_ (State.wakeCove_only _ _)
    | with_reducible apply ChangesOnly.step ?_ (State.modStack_only _ _ _)
    | with_reducible intro _
    | split
    | dsimp only [id]
    | with_reducible apply ChangesOnly.record

theorem execOpChangeComplete_only : ∀ a0 s, Leaves [.clk, .bays, .sessions, .portq, .jetty] s (execOpChangeComplete a0 s) := by
  intro a0 s
  unfold execOpChangeComplete
  repeat' first
    | with_reducible apply ChangesOnly.refl
    | exact Eq.refl true
    | with_reducible apply Leaves.next
    | with_reducible apply Leaves.occurs
    | with_reducible apply Leaves.ite
    | with_reducible apply ChangesOnly.ite
    | with_reducible apply ChangesOnly.foldl
    | with_reducible apply ChangesOnly.step ?_ (State.releaseLoads_only _)
    | with_reducible apply ChangesOnly.step ?_ (State.modHalf_only _ _ _)
    | with_reducible intro _
    | split
    | dsimp only [id]

theorem execRefclkLoss_only : ∀ s, Leaves [.clk, .coves, .hbm, .ctrls, .streams, .bays, .sessions, .qps, .ports, .portq, .jetty, .rot, .net, .pwr, .pwrx, .img, .su, .ident, .mg, .pins] s (execRefclkLoss s) := by
  intro s
  unfold execRefclkLoss
  repeat' first
    | with_reducible exact Or.inl rfl
    | with_reducible exact Or.inr rfl
    | exact Or.inl rfl
    | with_reducible apply ChangesOnly.refl
    | exact Eq.refl true
    | with_reducible apply Leaves.next
    | with_reducible apply Leaves.occurs
    | with_reducible apply Leaves.ite
    | with_reducible apply ChangesOnly.ite
    | with_reducible apply ChangesOnly.foldl
    | with_reducible apply ChangesOnly.step ?_ (State.backToS0_only _)
    | with_reducible apply ChangesOnly.step ?_ (State.loseReference_only _ _ _)
    | with_reducible intro _
    | split
    | dsimp only [id]
    | with_reducible apply ChangesOnly.record

theorem State.settleLost_only : ∀ s, ChangesOnly [.clk] s (State.settleLost s) := by
  intro s
  unfold State.settleLost
  repeat' first
    | with_reducible exact Or.inl rfl
    | with_reducible exact Or.inr rfl
    | exact Or.inl rfl
    | with_reducible apply ChangesOnly.refl
    | exact Eq.refl true
    | with_reducible apply ChangesOnly.ite
    | with_reducible apply ChangesOnly.foldl
    | with_reducible intro _
    | split
    | dsimp only [id]
    | with_reducible apply ChangesOnly.record

theorem State.regainReference_only : ∀ s, ChangesOnly [.clk, .coves, .net] s (State.regainReference s) := by
  intro s
  unfold State.regainReference
  repeat' first
    | with_reducible exact Or.inl rfl
    | with_reducible exact Or.inr rfl
    | exact Or.inl rfl
    | with_reducible apply ChangesOnly.refl
    | exact Eq.refl true
    | with_reducible apply ChangesOnly.ite
    | with_reducible apply ChangesOnly.foldl
    | with_reducible apply ChangesOnly.step ?_ (State.startPll_only _ _)
    | with_reducible intro _
    | split
    | dsimp only [id]
    | with_reducible apply ChangesOnly.record

theorem State.pllOn_only : ∀ s a1, ChangesOnly [.clk, .coves, .ctrls, .bays, .sessions, .qps, .ports, .portq, .integ, .rot, .net, .su, .mg] s (State.pllOn s a1) := by
  intro s a1
  unfold State.pllOn
  repeat' first
    | with_reducible apply ChangesOnly.refl
    | exact Eq.refl true
    | with_reducible apply ChangesOnly.ite
    | with_reducible apply ChangesOnly.foldl
    | with_reducible apply ChangesOnly.step ?_ (State.serveGathers_only _)
    | with_reducible apply ChangesOnly.step ?_ (State.settleLost_only _)
    | with_reducible apply ChangesOnly.step ?_ (State.regainReference_only _)
    | with_reducible apply ChangesOnly.step ?_ (State.beginTraining_only _ _)
    | with_reducible apply ChangesOnly.step ?_ (State.modPll_only _ _ _)
    | with_reducible apply ChangesOnly.step ?_ (State.modStack_only _ _ _)
    | with_reducible intro _
    | split
    | dsimp only [id]

theorem State.sleepAt_only : ∀ s a1, ChangesOnly [.clk] s (State.sleepAt s a1) := by
  intro s a1
  unfold State.sleepAt
  repeat' first
    | with_reducible exact Or.inl rfl
    | with_reducible exact Or.inr rfl
    | exact Or.inl rfl
    | with_reducible apply ChangesOnly.refl
    | exact Eq.refl true
    | with_reducible apply ChangesOnly.ite
    | with_reducible apply ChangesOnly.foldl
    | with_reducible intro _
    | split
    | dsimp only [id]
    | with_reducible apply ChangesOnly.record

theorem execSeamAlignStart_only : ∀ a0 s, Leaves [.clk] s (execSeamAlignStart a0 s) := by
  intro a0 s
  unfold execSeamAlignStart
  repeat' first
    | with_reducible apply ChangesOnly.refl
    | exact Eq.refl true
    | with_reducible apply Leaves.next
    | with_reducible apply Leaves.occurs
    | with_reducible apply Leaves.ite
    | with_reducible apply ChangesOnly.ite
    | with_reducible apply ChangesOnly.foldl
    | with_reducible apply ChangesOnly.step ?_ (State.modSeam_only _ _ _)
    | with_reducible intro _
    | split
    | dsimp only [id]

theorem State.lockLost_only : ∀ s a1, ChangesOnly [.clk, .coves, .hbm, .ctrls, .streams, .bays, .sessions, .qps, .ports, .portq, .jetty, .rot, .net, .pwr, .pwrx, .img, .su, .ident, .mg, .pins] s (State.lockLost s a1) := by
  intro s a1
  unfold State.lockLost
  repeat' first
    | with_reducible apply ChangesOnly.refl
    | exact Eq.refl true
    | with_reducible apply ChangesOnly.ite
    | with_reducible apply ChangesOnly.foldl
    | with_reducible apply ChangesOnly.step ?_ (State.rollbackAll_only _ _)
    | with_reducible apply ChangesOnly.step ?_ (State.reacquire_only _)
    | with_reducible apply ChangesOnly.step ?_ (State.linkLost_only _ _)
    | with_reducible apply ChangesOnly.step ?_ (State.modHalf_only _ _ _)
    | with_reducible apply ChangesOnly.step ?_ (State.loseReference_only _ _ _)
    | with_reducible apply ChangesOnly.step ?_ (State.clkError_only _ _ _)
    | with_reducible apply ChangesOnly.step ?_ (State.startPll_only _ _)
    | with_reducible apply ChangesOnly.step ?_ (State.modPll_only _ _ _)
    | with_reducible apply ChangesOnly.step ?_ (State.modStack_only _ _ _)
    | with_reducible intro _
    | split
    | dsimp only [id]

theorem execPllLockLoss_only : ∀ a0 s, Leaves [.clk, .coves, .hbm, .ctrls, .streams, .bays, .sessions, .qps, .ports, .portq, .jetty, .rot, .net, .pwr, .pwrx, .img, .su, .ident, .mg, .pins] s (execPllLockLoss a0 s) := by
  intro a0 s
  unfold execPllLockLoss
  repeat' first
    | with_reducible exact Or.inl rfl
    | with_reducible exact Or.inr rfl
    | exact Or.inl rfl
    | with_reducible apply ChangesOnly.refl
    | exact Eq.refl true
    | with_reducible apply Leaves.next
    | with_reducible apply Leaves.occurs
    | with_reducible apply Leaves.ite
    | with_reducible apply ChangesOnly.ite
    | with_reducible apply ChangesOnly.foldl
    | with_reducible apply ChangesOnly.step ?_ (State.lockLost_only _ _)
    | with_reducible intro _
    | split
    | dsimp only [id]
    | with_reducible apply ChangesOnly.record

theorem execHbmRetrainTimeout_only : ∀ a0 s, Leaves [.clk, .coves, .ctrls, .streams, .bays, .sessions, .portq, .jetty, .net, .mg] s (execHbmRetrainTimeout a0 s) := by
  intro a0 s
  unfold execHbmRetrainTimeout
  repeat' first
    | with_reducible apply ChangesOnly.refl
    | exact Eq.refl true
    | with_reducible apply Leaves.next
    | with_reducible apply Leaves.occurs
    | with_reducible apply Leaves.ite
    | with_reducible apply ChangesOnly.ite
    | with_reducible apply ChangesOnly.foldl
    | with_reducible apply ChangesOnly.step ?_ (State.settleLost_only _)
    | with_reducible apply ChangesOnly.step ?_ (State.stopBay_only _ _ _)
    | with_reducible apply ChangesOnly.step ?_ (State.log_only _ _)
    | with_reducible apply ChangesOnly.step ?_ (State.modStack_only _ _ _)
    | with_reducible intro _
    | split
    | dsimp only [id]

theorem execOpChangeStart_only : ∀ a0 s, Leaves [.clk] s (execOpChangeStart a0 s) := by
  intro a0 s
  unfold execOpChangeStart
  repeat' first
    | with_reducible apply ChangesOnly.refl
    | exact Eq.refl true
    | with_reducible apply Leaves.next
    | with_reducible apply Leaves.occurs
    | with_reducible apply Leaves.ite
    | with_reducible apply ChangesOnly.ite
    | with_reducible apply ChangesOnly.foldl
    | with_reducible apply ChangesOnly.step ?_ (State.closeSeam_only _)
    | with_reducible apply ChangesOnly.step ?_ (State.modHalf_only _ _ _)
    | with_reducible intro _
    | split
    | dsimp only [id]

theorem execPllStable_only : ∀ a0 s, Leaves [.clk, .coves, .ctrls, .bays, .sessions, .qps, .ports, .portq, .integ, .rot, .net, .su, .mg] s (execPllStable a0 s) := by
  intro a0 s
  unfold execPllStable
  repeat' first
    | with_reducible apply ChangesOnly.refl
    | exact Eq.refl true
    | with_reducible apply Leaves.next
    | with_reducible apply Leaves.occurs
    | with_reducible apply Leaves.ite
    | with_reducible apply ChangesOnly.ite
    | with_reducible apply ChangesOnly.foldl
    | with_reducible apply ChangesOnly.step ?_ (State.pllOn_only _ _)
    | with_reducible intro _
    | split
    | dsimp only [id]

theorem execSeamSlip_only : ∀ a0 s, Leaves [.free, .clk, .coves, .ctrls, .streams, .bays, .sessions, .portq, .jetty, .integ, .rot, .net, .su, .mg] s (execSeamSlip a0 s) := by
  intro a0 s
  unfold execSeamSlip
  repeat' first
    | with_reducible apply ChangesOnly.refl
    | exact Eq.refl true
    | with_reducible apply Leaves.next
    | with_reducible apply Leaves.occurs
    | with_reducible apply Leaves.ite
    | with_reducible apply ChangesOnly.ite
    | with_reducible apply ChangesOnly.foldl
    | with_reducible apply ChangesOnly.step ?_ (State.tideFault_only _ _ _ _ _)
    | with_reducible apply ChangesOnly.step ?_ (State.spend_only _ _)
    | with_reducible apply ChangesOnly.step ?_ (State.seamFails_only _ _)
    | with_reducible apply ChangesOnly.step ?_ (State.modSeam_only _ _ _)
    | with_reducible intro _
    | split
    | dsimp only [id]

theorem execOpChangeTimeout_only : ∀ a0 s, Leaves [.clk, .mg] s (execOpChangeTimeout a0 s) := by
  intro a0 s
  unfold execOpChangeTimeout
  repeat' first
    | with_reducible apply ChangesOnly.refl
    | exact Eq.refl true
    | with_reducible apply Leaves.next
    | with_reducible apply Leaves.occurs
    | with_reducible apply Leaves.ite
    | with_reducible apply ChangesOnly.ite
    | with_reducible apply ChangesOnly.foldl
    | with_reducible apply ChangesOnly.step ?_ (State.dropChange_only _ _)
    | with_reducible apply ChangesOnly.step ?_ (State.clkError_only _ _ _)
    | with_reducible intro _
    | split
    | dsimp only [id]

theorem execHbmRetrainComplete_only : ∀ a0 s, Leaves [.clk, .coves, .ctrls, .bays, .sessions, .qps, .ports, .portq, .integ, .rot, .su, .mg] s (execHbmRetrainComplete a0 s) := by
  intro a0 s
  unfold execHbmRetrainComplete
  repeat' first
    | with_reducible apply ChangesOnly.refl
    | exact Eq.refl true
    | with_reducible apply Leaves.next
    | with_reducible apply Leaves.occurs
    | with_reducible apply Leaves.ite
    | with_reducible apply ChangesOnly.ite
    | with_reducible apply ChangesOnly.foldl
    | with_reducible apply ChangesOnly.step ?_ (State.serveGathers_only _)
    | with_reducible apply ChangesOnly.step ?_ (State.settleLost_only _)
    | with_reducible apply ChangesOnly.step ?_ (State.modStack_only _ _ _)
    | with_reducible intro _
    | split
    | dsimp only [id]

theorem State.stopPll_only : ∀ s a1, ChangesOnly [.clk] s (State.stopPll s a1) := by
  intro s a1
  unfold State.stopPll
  repeat' first
    | with_reducible apply ChangesOnly.refl
    | exact Eq.refl true
    | with_reducible apply ChangesOnly.ite
    | with_reducible apply ChangesOnly.foldl
    | with_reducible apply ChangesOnly.step ?_ (State.modPll_only _ _ _)
    | with_reducible intro _
    | split
    | dsimp only [id]

theorem execSeamAlignTimeout_only : ∀ a0 s, Leaves [.clk, .coves, .ctrls, .streams, .bays, .sessions, .portq, .jetty, .net, .mg] s (execSeamAlignTimeout a0 s) := by
  intro a0 s
  unfold execSeamAlignTimeout
  repeat' first
    | with_reducible apply ChangesOnly.refl
    | exact Eq.refl true
    | with_reducible apply Leaves.next
    | with_reducible apply Leaves.occurs
    | with_reducible apply Leaves.ite
    | with_reducible apply ChangesOnly.ite
    | with_reducible apply ChangesOnly.foldl
    | with_reducible apply ChangesOnly.step ?_ (State.clkError_only _ _ _)
    | with_reducible apply ChangesOnly.step ?_ (State.seamFails_only _ _)
    | with_reducible apply ChangesOnly.step ?_ (State.modSeam_only _ _ _)
    | with_reducible intro _
    | split
    | dsimp only [id]

theorem execEbbEntry_only : ∀ a0 s, Leaves [.clk, .ctrls, .rot] s (execEbbEntry a0 s) := by
  intro a0 s
  unfold execEbbEntry
  repeat' first
    | with_reducible apply ChangesOnly.refl
    | exact Eq.refl true
    | with_reducible apply Leaves.next
    | with_reducible apply Leaves.occurs
    | with_reducible apply Leaves.ite
    | with_reducible apply ChangesOnly.ite
    | with_reducible apply ChangesOnly.foldl
    | with_reducible apply ChangesOnly.step ?_ (State.sleepAt_only _ _)
    | with_reducible apply ChangesOnly.step ?_ (State.modHalf_only _ _ _)
    | with_reducible apply ChangesOnly.step ?_ (State.abandonTests_only _ _)
    | with_reducible apply ChangesOnly.step ?_ (State.modStack_only _ _ _)
    | with_reducible intro _
    | split
    | dsimp only [id]

theorem execPllAcquireTimeout_only : ∀ a0 s, Leaves [.clk, .coves, .hbm, .ctrls, .streams, .bays, .sessions, .qps, .ports, .portq, .jetty, .rot, .net, .pwr, .pwrx, .img, .su, .ident, .mg, .pins] s (execPllAcquireTimeout a0 s) := by
  intro a0 s
  unfold execPllAcquireTimeout
  repeat' first
    | with_reducible apply ChangesOnly.refl
    | exact Eq.refl true
    | with_reducible apply Leaves.next
    | with_reducible apply Leaves.occurs
    | with_reducible apply Leaves.ite
    | with_reducible apply ChangesOnly.ite
    | with_reducible apply ChangesOnly.foldl
    | with_reducible apply ChangesOnly.step ?_ (State.lockLost_only _ _)
    | with_reducible apply ChangesOnly.step ?_ (State.clkError_only _ _ _)
    | with_reducible apply ChangesOnly.step ?_ (State.startPll_only _ _)
    | with_reducible apply ChangesOnly.step ?_ (State.modPll_only _ _ _)
    | with_reducible intro _
    | split
    | dsimp only [id]

theorem execRefclkReturn_only : ∀ s, Leaves [.clk] s (execRefclkReturn s) := by
  intro s
  unfold execRefclkReturn
  repeat' first
    | with_reducible exact Or.inl rfl
    | with_reducible exact Or.inr rfl
    | exact Or.inl rfl
    | with_reducible apply ChangesOnly.refl
    | exact Eq.refl true
    | with_reducible apply Leaves.next
    | with_reducible apply Leaves.occurs
    | with_reducible apply Leaves.ite
    | with_reducible apply ChangesOnly.ite
    | with_reducible apply ChangesOnly.foldl
    | with_reducible apply ChangesOnly.step ?_ (State.reacquire_only _)
    | with_reducible intro _
    | split
    | dsimp only [id]
    | with_reducible apply ChangesOnly.record

theorem execSeamOpen_only : ∀ a0 s, Leaves [.clk] s (execSeamOpen a0 s) := by
  intro a0 s
  unfold execSeamOpen
  repeat' first
    | with_reducible apply ChangesOnly.refl
    | exact Eq.refl true
    | with_reducible apply Leaves.next
    | with_reducible apply Leaves.occurs
    | with_reducible apply Leaves.ite
    | with_reducible apply ChangesOnly.ite
    | with_reducible apply ChangesOnly.foldl
    | with_reducible apply ChangesOnly.step ?_ (State.modSeam_only _ _ _)
    | with_reducible intro _
    | split
    | dsimp only [id]

end Sys2Proof.Machine
end

