-- ==== Sys2Proof/Laws/MemClocks.lean ====
section
/-!
SUPPORT. The operations and meanings of Machine/Clocks.lean that write HBM or the devices keep their memories in canonical form.
-/

set_option linter.unreachableTactic false
set_option linter.unusedTactic false

namespace Sys2Proof.Machine

theorem execRefclkLoss_mem : ∀ s, OutMemKept s (execRefclkLoss s) := by
  intro s
  unfold execRefclkLoss
  repeat' first
    | with_reducible exact rfl
    | with_reducible apply MemKept.refl
    | exact Eq.refl true
    | with_reducible apply OutMemKept.next
    | with_reducible apply OutMemKept.occurs
    | with_reducible apply OutMemKept.ite
    | with_reducible apply MemKept.ite
    | with_reducible apply MemKept.foldl
    | with_reducible apply MemKept.step ?_ (State.backToS0_only _)
    | with_reducible apply MemKept.trans ?_ (State.loseReference_mem _ _ _)
    | with_reducible intro _
    | split
    | dsimp only [id]
    | with_reducible apply MemKept.record

theorem State.lockLost_mem : ∀ s a1, MemKept s (State.lockLost s a1) := by
  intro s a1
  unfold State.lockLost
  repeat' first
    | with_reducible apply MemKept.refl
    | exact Eq.refl true
    | with_reducible apply MemKept.ite
    | with_reducible apply MemKept.foldl
    | with_reducible apply MemKept.step ?_ (State.rollbackAll_only _ _)
    | with_reducible apply MemKept.step ?_ (State.reacquire_only _)
    | with_reducible apply MemKept.trans ?_ (State.linkLost_mem _ _)
    | with_reducible apply MemKept.step ?_ (State.modHalf_only _ _ _)
    | with_reducible apply MemKept.trans ?_ (State.loseReference_mem _ _ _)
    | with_reducible apply MemKept.step ?_ (State.clkError_only _ _ _)
    | with_reducible apply MemKept.step ?_ (State.startPll_only _ _)
    | with_reducible apply MemKept.step ?_ (State.modPll_only _ _ _)
    | with_reducible apply MemKept.step ?_ (State.modStack_only _ _ _)
    | with_reducible intro _
    | split
    | dsimp only [id]

theorem execPllLockLoss_mem : ∀ a0 s, OutMemKept s (execPllLockLoss a0 s) := by
  intro a0 s
  unfold execPllLockLoss
  repeat' first
    | with_reducible exact rfl
    | with_reducible apply MemKept.refl
    | exact Eq.refl true
    | with_reducible apply OutMemKept.next
    | with_reducible apply OutMemKept.occurs
    | with_reducible apply OutMemKept.ite
    | with_reducible apply MemKept.ite
    | with_reducible apply MemKept.foldl
    | with_reducible apply MemKept.trans ?_ (State.lockLost_mem _ _)
    | with_reducible intro _
    | split
    | dsimp only [id]
    | with_reducible apply MemKept.record

theorem execPllAcquireTimeout_mem : ∀ a0 s, OutMemKept s (execPllAcquireTimeout a0 s) := by
  intro a0 s
  unfold execPllAcquireTimeout
  repeat' first
    | with_reducible apply MemKept.refl
    | exact Eq.refl true
    | with_reducible apply OutMemKept.next
    | with_reducible apply OutMemKept.occurs
    | with_reducible apply OutMemKept.ite
    | with_reducible apply MemKept.ite
    | with_reducible apply MemKept.foldl
    | with_reducible apply MemKept.trans ?_ (State.lockLost_mem _ _)
    | with_reducible apply MemKept.step ?_ (State.clkError_only _ _ _)
    | with_reducible apply MemKept.step ?_ (State.startPll_only _ _)
    | with_reducible apply MemKept.step ?_ (State.modPll_only _ _ _)
    | with_reducible intro _
    | split
    | dsimp only [id]

end Sys2Proof.Machine
end

