-- ==== Sys2Proof/Laws/MemHbmOps.lean ====
section
/-!
SUPPORT. The operations and meanings of Machine/HbmOps.lean that write HBM or the devices keep their memories in canonical form.
-/

set_option linter.unreachableTactic false
set_option linter.unusedTactic false

namespace Sys2Proof.Machine

theorem State.putPhys_mem : ∀ s a1 a2 a3 a4, MemKept s (State.putPhys s a1 a2 a3 a4) := by
  intro s st phys u bs
  unfold State.putPhys
  with_reducible apply MemKept.step ?_ (State.modStack_only _ _ _)
  · exact rfl
  · exact (MemKept.refl s).of (.inr fun h => Memory.wf_setBytes h _ _) (.inl rfl)

theorem State.putRecord_mem : ∀ s a1 a2 a3 a4, MemKept s (State.putRecord s a1 a2 a3 a4) := by
  intro s a1 a2 a3 a4
  unfold State.putRecord
  repeat' first
    | with_reducible apply MemKept.refl
    | exact Eq.refl true
    | with_reducible apply MemKept.ite
    | with_reducible apply MemKept.foldl
    | with_reducible apply MemKept.trans ?_ (State.putPhys_mem _ _ _ _ _)
    | with_reducible apply MemKept.step ?_ (State.modStack_only _ _ _)
    | with_reducible intro _
    | split
    | dsimp only [id]

theorem State.landShadow_mem : ∀ s a1 a2 a3 a4, MemKept s (State.landShadow s a1 a2 a3 a4) := by
  intro s a1 a2 a3 a4
  unfold State.landShadow
  repeat' first
    | with_reducible apply MemKept.refl
    | exact Eq.refl true
    | with_reducible apply MemKept.ite
    | with_reducible apply MemKept.foldl
    | with_reducible apply MemKept.trans ?_ (State.putPhys_mem _ _ _ _ _)
    | with_reducible apply MemKept.step ?_ (State.modStack_only _ _ _)
    | with_reducible intro _
    | split
    | dsimp only [id]

theorem State.shadowWrite_mem : ∀ s a1 a2 a3 a4 a5 a6 a7, MemKept s (State.shadowWrite s a1 a2 a3 a4 a5 a6 a7) := by
  intro s a1 a2 a3 a4 a5 a6 a7
  unfold State.shadowWrite
  repeat' first
    | with_reducible apply MemKept.refl
    | exact Eq.refl true
    | with_reducible apply MemKept.ite
    | with_reducible apply MemKept.foldl
    | with_reducible apply MemKept.trans ?_ (State.landShadow_mem _ _ _ _ _)
    | with_reducible apply MemKept.step ?_ (State.modStack_only _ _ _)
    | with_reducible intro _
    | split
    | dsimp only [id]

theorem State.stepWrite_mem (s : State) (st b n g u : Nat) (dl : BitVec 16) (bs : List Byte) (t : State)
    (h : s.stepWrite st b n g u dl bs = .landed t) :
    MemKept s t := by
  unfold State.stepWrite at h
  dsimp only at h
  repeat' split at h
  all_goals first
    | contradiction
    | (injection h; subst_vars)
  all_goals repeat' first
    | with_reducible apply MemKept.refl
    | with_reducible apply MemKept.foldl
    | with_reducible apply MemKept.trans ?_ (State.shadowWrite_mem _ _ _ _ _ _ _ _)
    | with_reducible intro _

theorem State.committedWrite_mem : ∀ s a1 a2 a3 a4, MemKept s (State.committedWrite s a1 a2 a3 a4) := by
  intro s a1 a2 a3 a4
  unfold State.committedWrite
  repeat' first
    | with_reducible apply MemKept.refl
    | exact Eq.refl true
    | with_reducible apply MemKept.ite
    | with_reducible apply MemKept.foldl
    | with_reducible apply MemKept.trans ?_ (State.putRecord_mem _ _ _ _ _)
    | with_reducible intro _
    | split
    | dsimp only [id]

end Sys2Proof.Machine
end

