-- ==== Sys2Proof/Laws/OnlyDmaOps.lean ====
section
/-!
SUPPORT. For each operation and meaning of Machine/DmaOps.lean: the parts of the state that it can change.
-/

set_option linter.unreachableTactic false
set_option linter.unusedTactic false

namespace Sys2Proof.Machine

theorem State.rowParity_only : ∀ s a1 a2 a3 a4, ChangesOnly [.coves, .bays, .sessions, .portq, .integ, .rot, .su, .mg] s (State.rowParity s a1 a2 a3 a4) := by
  intro s a1 a2 a3 a4
  unfold State.rowParity
  repeat' first
    | with_reducible apply ChangesOnly.refl
    | exact Eq.refl true
    | with_reducible apply ChangesOnly.ite
    | with_reducible apply ChangesOnly.foldl
    | with_reducible apply ChangesOnly.step ?_ (State.modCove_only _ _ _)
    | with_reducible apply ChangesOnly.step ?_ (State.hwError_only _ _ _)
    | with_reducible intro _
    | split
    | dsimp only [id]

theorem State.rowsParity_only : ∀ s a1 a2, ChangesOnly [.coves, .bays, .sessions, .portq, .integ, .rot, .su, .mg] s (State.rowsParity s a1 a2) := by
  intro s a1 a2
  unfold State.rowsParity
  repeat' first
    | with_reducible apply ChangesOnly.refl
    | exact Eq.refl true
    | with_reducible apply ChangesOnly.ite
    | with_reducible apply ChangesOnly.foldl
    | with_reducible apply ChangesOnly.step ?_ (State.rowParity_only _ _ _ _ _)
    | with_reducible intro _
    | split
    | dsimp only [id]

theorem State.sendDma_only : ∀ s a1 a2 a3 a4, ChangesOnly [.coves] s (State.sendDma s a1 a2 a3 a4) := by
  intro s a1 a2 a3 a4
  unfold State.sendDma
  repeat' first
    | with_reducible apply ChangesOnly.refl
    | exact Eq.refl true
    | with_reducible apply ChangesOnly.ite
    | with_reducible apply ChangesOnly.foldl
    | with_reducible apply ChangesOnly.step ?_ (State.post_only _ _ _)
    | with_reducible intro _
    | split
    | dsimp only [id]

end Sys2Proof.Machine
end

