-- ==== Sys2Proof/Laws/OnlyPebbleUnits.lean ====
section
/-!
SUPPORT. For each operation and meaning of Machine/PebbleUnits.lean: the parts of the state that it can change.
-/

set_option linter.unreachableTactic false
set_option linter.unusedTactic false

namespace Sys2Proof.Machine

theorem State.takeDmaFault_only : ∀ s a1 a2, ChangesOnly [.clk, .coves, .ctrls, .streams, .bays, .sessions, .portq, .jetty, .integ, .rot, .net, .su, .mg] s (State.takeDmaFault s a1 a2) := by
  intro s a1 a2
  unfold State.takeDmaFault
  repeat' first
    | with_reducible apply ChangesOnly.refl
    | exact Eq.refl true
    | with_reducible apply ChangesOnly.ite
    | with_reducible apply ChangesOnly.foldl
    | with_reducible apply ChangesOnly.step ?_ (State.modCove_only _ _ _)
    | with_reducible apply ChangesOnly.step ?_ (State.exception_only _ _ _)
    | with_reducible intro _
    | split
    | dsimp only [id]

theorem recvLatch_only : ∀ s a1 a2 a3 a4 a5, ChangesOnly [.clk, .coves, .ctrls, .streams, .bays, .sessions, .portq, .jetty, .integ, .rot, .net, .su, .mg] s (recvLatch s a1 a2 a3 a4 a5) := by
  intro s a1 a2 a3 a4 a5
  unfold recvLatch
  repeat' first
    | with_reducible apply ChangesOnly.refl
    | exact Eq.refl true
    | with_reducible apply ChangesOnly.ite
    | with_reducible apply ChangesOnly.foldl
    | with_reducible apply ChangesOnly.step ?_ (State.modCove_only _ _ _)
    | with_reducible apply ChangesOnly.step ?_ (State.stall_only _ _ _)
    | with_reducible apply ChangesOnly.step ?_ (State.retireNext_only _ _ _)
    | with_reducible intro _
    | split
    | dsimp only [id]

theorem execTrs_only : ∀ a0 a1 s, Leaves [.clk, .mt, .coves, .ctrls, .streams, .bays, .sessions, .ports, .portq, .jetty, .integ, .rot, .net, .pwr, .su, .ident, .mg] s (execTrs a0 a1 s) := by
  intro a0 a1 s
  unfold execTrs
  repeat' first
    | with_reducible apply ChangesOnly.refl
    | with_reducible apply issue_only
    | exact Eq.refl true
    | with_reducible apply Leaves.next
    | with_reducible apply Leaves.occurs
    | with_reducible apply Leaves.ite
    | with_reducible apply ChangesOnly.ite
    | with_reducible apply ChangesOnly.foldl
    | with_reducible apply ChangesOnly.step ?_ (recvLatch_only _ _ _ _ _ _)
    | with_reducible intro _
    | split
    | dsimp only [id]

theorem execTrv_only : ∀ a0 a1 s, Leaves [.clk, .mt, .coves, .ctrls, .streams, .bays, .sessions, .ports, .portq, .jetty, .integ, .rot, .net, .pwr, .su, .ident, .mg] s (execTrv a0 a1 s) := by
  intro a0 a1 s
  unfold execTrv
  repeat' first
    | with_reducible apply ChangesOnly.refl
    | with_reducible apply issue_only
    | exact Eq.refl true
    | with_reducible apply Leaves.next
    | with_reducible apply Leaves.occurs
    | with_reducible apply Leaves.ite
    | with_reducible apply ChangesOnly.ite
    | with_reducible apply ChangesOnly.foldl
    | with_reducible apply ChangesOnly.step ?_ (recvLatch_only _ _ _ _ _ _)
    | with_reducible intro _
    | split
    | dsimp only [id]

theorem execTbar_only : ∀ a0 a1 s, Leaves [.clk, .mt, .coves, .ctrls, .streams, .bays, .sessions, .ports, .portq, .jetty, .integ, .rot, .net, .pwr, .su, .ident, .mg] s (execTbar a0 a1 s) := by
  intro a0 a1 s
  unfold execTbar
  repeat' first
    | with_reducible apply ChangesOnly.refl
    | with_reducible apply issue_only
    | exact Eq.refl true
    | with_reducible apply Leaves.next
    | with_reducible apply Leaves.occurs
    | with_reducible apply Leaves.ite
    | with_reducible apply ChangesOnly.ite
    | with_reducible apply ChangesOnly.foldl
    | with_reducible apply ChangesOnly.step ?_ (State.stall_only _ _ _)
    | with_reducible intro _
    | split
    | dsimp only [id]

theorem execDwait_only : ∀ a0 a1 s, Leaves [.clk, .mt, .coves, .ctrls, .streams, .bays, .sessions, .ports, .portq, .jetty, .integ, .rot, .net, .pwr, .su, .ident, .mg] s (execDwait a0 a1 s) := by
  intro a0 a1 s
  unfold execDwait
  repeat' first
    | with_reducible apply ChangesOnly.refl
    | with_reducible apply issue_only
    | exact Eq.refl true
    | with_reducible apply Leaves.next
    | with_reducible apply Leaves.occurs
    | with_reducible apply Leaves.ite
    | with_reducible apply ChangesOnly.ite
    | with_reducible apply ChangesOnly.foldl
    | with_reducible apply ChangesOnly.step ?_ (State.stall_only _ _ _)
    | with_reducible apply ChangesOnly.step ?_ (State.takeDmaFault_only _ _ _)
    | with_reducible apply ChangesOnly.step ?_ (State.retireNext_only _ _ _)
    | with_reducible intro _
    | split
    | dsimp only [id]

theorem execTrtok_only : ∀ a0 a1 s, Leaves [.clk, .mt, .coves, .ctrls, .streams, .bays, .sessions, .ports, .portq, .jetty, .integ, .rot, .net, .pwr, .su, .ident, .mg] s (execTrtok a0 a1 s) := by
  intro a0 a1 s
  unfold execTrtok
  repeat' first
    | with_reducible apply ChangesOnly.refl
    | with_reducible apply issue_only
    | exact Eq.refl true
    | with_reducible apply Leaves.next
    | with_reducible apply Leaves.occurs
    | with_reducible apply Leaves.ite
    | with_reducible apply ChangesOnly.ite
    | with_reducible apply ChangesOnly.foldl
    | with_reducible apply ChangesOnly.step ?_ (recvLatch_only _ _ _ _ _ _)
    | with_reducible intro _
    | split
    | dsimp only [id]

theorem sendLatch_only : ∀ s a1 a2 a3, ChangesOnly [.clk, .coves, .ctrls, .streams, .bays, .sessions, .portq, .jetty, .integ, .rot, .net, .su, .mg] s (sendLatch s a1 a2 a3) := by
  intro s a1 a2 a3
  unfold sendLatch
  repeat' first
    | with_reducible apply ChangesOnly.refl
    | exact Eq.refl true
    | with_reducible apply ChangesOnly.ite
    | with_reducible apply ChangesOnly.foldl
    | with_reducible apply ChangesOnly.step ?_ (State.modCove_only _ _ _)
    | with_reducible apply ChangesOnly.step ?_ (State.stall_only _ _ _)
    | with_reducible apply ChangesOnly.step ?_ (State.retireNext_only _ _ _)
    | with_reducible intro _
    | split
    | dsimp only [id]

theorem execTss_only : ∀ a0 a1 s, Leaves [.clk, .mt, .coves, .ctrls, .streams, .bays, .sessions, .ports, .portq, .jetty, .integ, .rot, .net, .pwr, .su, .ident, .mg] s (execTss a0 a1 s) := by
  intro a0 a1 s
  unfold execTss
  repeat' first
    | with_reducible apply ChangesOnly.refl
    | with_reducible apply issue_only
    | exact Eq.refl true
    | with_reducible apply Leaves.next
    | with_reducible apply Leaves.occurs
    | with_reducible apply Leaves.ite
    | with_reducible apply ChangesOnly.ite
    | with_reducible apply ChangesOnly.foldl
    | with_reducible apply ChangesOnly.step ?_ (sendLatch_only _ _ _ _)
    | with_reducible intro _
    | split
    | dsimp only [id]

theorem execBissue_only : ∀ a0 a1 s, Leaves [.clk, .mt, .coves, .ctrls, .streams, .bays, .sessions, .ports, .portq, .jetty, .integ, .rot, .net, .pwr, .su, .ident, .mg] s (execBissue a0 a1 s) := by
  intro a0 a1 s
  unfold execBissue
  repeat' first
    | with_reducible apply ChangesOnly.refl
    | with_reducible apply issue_only
    | exact Eq.refl true
    | with_reducible apply Leaves.next
    | with_reducible apply Leaves.occurs
    | with_reducible apply Leaves.ite
    | with_reducible apply ChangesOnly.ite
    | with_reducible apply ChangesOnly.foldl
    | with_reducible apply ChangesOnly.step ?_ (State.stall_only _ _ _)
    | with_reducible intro _
    | split
    | dsimp only [id]

theorem execBwait_only : ∀ a0 a1 s, Leaves [.clk, .mt, .coves, .ctrls, .streams, .bays, .sessions, .ports, .portq, .jetty, .integ, .rot, .net, .pwr, .su, .ident, .mg] s (execBwait a0 a1 s) := by
  intro a0 a1 s
  unfold execBwait
  repeat' first
    | with_reducible apply ChangesOnly.refl
    | with_reducible apply issue_only
    | exact Eq.refl true
    | with_reducible apply Leaves.next
    | with_reducible apply Leaves.occurs
    | with_reducible apply Leaves.ite
    | with_reducible apply ChangesOnly.ite
    | with_reducible apply ChangesOnly.foldl
    | with_reducible apply ChangesOnly.step ?_ (State.stall_only _ _ _)
    | with_reducible apply ChangesOnly.step ?_ (State.retireNext_only _ _ _)
    | with_reducible intro _
    | split
    | dsimp only [id]

theorem execBcnt_only : ∀ a0 a1 s, Leaves [.clk, .mt, .coves, .ctrls, .streams, .bays, .sessions, .ports, .portq, .jetty, .integ, .rot, .net, .pwr, .su, .ident, .mg] s (execBcnt a0 a1 s) := by
  intro a0 a1 s
  unfold execBcnt
  repeat' first
    | with_reducible apply ChangesOnly.refl
    | with_reducible apply issue_only
    | exact Eq.refl true
    | with_reducible apply Leaves.next
    | with_reducible apply Leaves.occurs
    | with_reducible apply Leaves.ite
    | with_reducible apply ChangesOnly.ite
    | with_reducible apply ChangesOnly.foldl
    | with_reducible apply ChangesOnly.step ?_ (State.retireNext_only _ _ _)
    | with_reducible intro _
    | split
    | dsimp only [id]

theorem execTtok_only : ∀ a0 a1 s, Leaves [.clk, .mt, .coves, .ctrls, .streams, .bays, .sessions, .ports, .portq, .jetty, .integ, .rot, .net, .pwr, .su, .ident, .mg] s (execTtok a0 a1 s) := by
  intro a0 a1 s
  unfold execTtok
  repeat' first
    | with_reducible apply ChangesOnly.refl
    | with_reducible apply issue_only
    | exact Eq.refl true
    | with_reducible apply Leaves.next
    | with_reducible apply Leaves.occurs
    | with_reducible apply Leaves.ite
    | with_reducible apply ChangesOnly.ite
    | with_reducible apply ChangesOnly.foldl
    | with_reducible apply ChangesOnly.step ?_ (sendLatch_only _ _ _ _)
    | with_reducible intro _
    | split
    | dsimp only [id]

theorem execTsv_only : ∀ a0 a1 s, Leaves [.clk, .mt, .coves, .ctrls, .streams, .bays, .sessions, .ports, .portq, .jetty, .integ, .rot, .net, .pwr, .su, .ident, .mg] s (execTsv a0 a1 s) := by
  intro a0 a1 s
  unfold execTsv
  repeat' first
    | with_reducible apply ChangesOnly.refl
    | with_reducible apply issue_only
    | exact Eq.refl true
    | with_reducible apply Leaves.next
    | with_reducible apply Leaves.occurs
    | with_reducible apply Leaves.ite
    | with_reducible apply ChangesOnly.ite
    | with_reducible apply ChangesOnly.foldl
    | with_reducible apply ChangesOnly.step ?_ (sendLatch_only _ _ _ _)
    | with_reducible intro _
    | split
    | dsimp only [id]

end Sys2Proof.Machine
end

