-- ==== Sys2Proof/Laws/OnlyDma.lean ====
section
/-!
SUPPORT. For each operation and meaning of Machine/Dma.lean: the parts of the state that it can change.
-/

set_option linter.unreachableTactic false
set_option linter.unusedTactic false

namespace Sys2Proof.Machine

theorem State.stepWriteAt_only (s : State) (b n a : Nat) (dl : BitVec 16) (bs : List Byte) (t : State) (h : s.stepWriteAt b n a dl bs = .landed t) :
    ChangesOnly [.hbm, .ctrls] s t := by
  unfold State.stepWriteAt at h
  dsimp only at h
  split at h
  · cases h; exact ChangesOnly.refl _ _
  · split at h
    · have h1 := State.stepWrite_only _ _ _ _ _ _ _ _ _ ‹_›
      split at h
      · cases h; exact h1
      · split at h
        · cases h; exact h1
        · exact h1.trans (State.stepWrite_only _ _ _ _ _ _ _ _ _ h)
    · exact (State.stepWrite_only _ _ _ _ _ _ _ _ _ h)

/-- The state that a packet's arrival leaves. -/
def Arrived.after (s : State) : Arrived → State
  | .landed t => t
  | .refused _ t => t
  | .stopped t => t
  | .waits => s

theorem landWrite_after (s : State) (p : Packet) : ChangesOnly [.clk, .coves, .hbm, .ctrls, .streams, .bays, .sessions, .portq, .jetty, .net, .mg] s ((landWrite s p).after s) := by
  unfold landWrite
  extract_lets b a n
  clear_value b a n
  generalize ifaceOf p = i
  cases i with
  | cove c =>
    dsimp only
    split
    · dsimp only [Arrived.after]; exact (State.modCove_only _ _ _).mono rfl
    · split
      · exact ChangesOnly.refl _ _
      · split
        · exact ChangesOnly.refl _ _
        · dsimp only [Arrived.after]; exact (State.modCove_only _ _ _).mono rfl
  | stack k =>
    dsimp only
    split
    · exact ChangesOnly.refl _ _
    · split
      · dsimp only [Arrived.after]; exact (State.noteAt_only _ _ _ _ _).mono rfl
      · split
        · dsimp only [Arrived.after]; exact (State.stepWriteAt_only _ _ _ _ _ _ _ ‹_›).mono rfl
        · exact ChangesOnly.refl _ _
        · dsimp only [Arrived.after]; exact ((State.noteAt_only s _ _ _ _).mono rfl).trans ((State.stopBay_only _ _ _).mono rfl)
  | jetty =>
    dsimp only
    split
    · split
      · exact ChangesOnly.refl _ _
      · dsimp only [Arrived.after]; exact (State.stopBay_only _ _ _).mono rfl
    · dsimp only [Arrived.after]; exact (State.modStep_only _ _ _ _).mono rfl
  | _ => exact ChangesOnly.refl _ _

theorem landWrite_only (s : State) (p : Packet) (t : State) (h : landWrite s p = .landed t) : ChangesOnly [.clk, .coves, .hbm, .ctrls, .streams, .bays, .sessions, .portq, .jetty, .net, .mg] s t := by
  have k := landWrite_after s p
  rwa [h] at k

theorem landWrite_only_refused (s : State) (p : Packet) (code : Code) (t : State) (h : landWrite s p = .refused code t) :
    ChangesOnly [.clk, .coves, .hbm, .ctrls, .streams, .bays, .sessions, .portq, .jetty, .net, .mg] s t := by
  have k := landWrite_after s p
  rwa [h] at k

theorem landWrite_only_stopped (s : State) (p : Packet) (t : State) (h : landWrite s p = .stopped t) : ChangesOnly [.clk, .coves, .hbm, .ctrls, .streams, .bays, .sessions, .portq, .jetty, .net, .mg] s t := by
  have k := landWrite_after s p
  rwa [h] at k

theorem State.setTrackers_only : ∀ s a1 a2, ChangesOnly [.coves, .ctrls, .jetty] s (State.setTrackers s a1 a2) := by
  intro s a1 a2
  unfold State.setTrackers
  repeat' first
    | with_reducible exact Or.inl rfl
    | with_reducible exact Or.inr rfl
    | exact Or.inl rfl
    | with_reducible apply ChangesOnly.refl
    | exact Eq.refl true
    | with_reducible apply ChangesOnly.ite
    | with_reducible apply ChangesOnly.foldl
    | with_reducible apply ChangesOnly.step ?_ (State.modCove_only _ _ _)
    | with_reducible apply ChangesOnly.step ?_ (State.modStack_only _ _ _)
    | with_reducible intro _
    | split
    | dsimp only [id]
    | with_reducible apply ChangesOnly.record

theorem State.transferFails_only : ∀ s a1 a2 a3, ChangesOnly [.coves, .bays, .sessions, .portq, .integ, .rot, .su, .mg] s (State.transferFails s a1 a2 a3) := by
  intro s a1 a2 a3
  unfold State.transferFails
  repeat' first
    | with_reducible apply ChangesOnly.refl
    | exact Eq.refl true
    | with_reducible apply ChangesOnly.ite
    | with_reducible apply ChangesOnly.foldl
    | with_reducible apply ChangesOnly.step ?_ (State.modCove_only _ _ _)
    | with_reducible apply ChangesOnly.step ?_ (State.hwErrorIn_only _ _ _ _ _)
    | with_reducible intro _
    | split
    | dsimp only [id]

theorem execDmaDataPacket_only : ∀ a0 s, Leaves [.clk, .coves, .ctrls, .streams, .bays, .sessions, .portq, .jetty, .integ, .rot, .net, .su, .mg] s (execDmaDataPacket a0 s) := by
  intro a0 s
  unfold execDmaDataPacket
  repeat' first
    | with_reducible apply ChangesOnly.refl
    | with_reducible apply ChangesOnly.trans ?_ (State.eject_only ?_ _ _ _ ?_)
    | exact Eq.refl true
    | with_reducible apply Leaves.next
    | with_reducible apply Leaves.occurs
    | with_reducible apply Leaves.ite
    | with_reducible apply ChangesOnly.ite
    | with_reducible apply ChangesOnly.foldl
    | with_reducible apply ChangesOnly.step ?_ (State.sendDma_only _ _ _ _ _)
    | with_reducible apply ChangesOnly.step ?_ (State.modCove_only _ _ _)
    | with_reducible apply ChangesOnly.step ?_ (State.stopBay_only _ _ _)
    | with_reducible apply ChangesOnly.step ?_ (State.netCount_only _ _ _)
    | with_reducible apply ChangesOnly.step ?_ (State.transferFails_only _ _ _ _)
    | with_reducible intro _
    | split
    | dsimp only [id]

theorem execDmaTrackerFree_only : ∀ a0 a1 s, Leaves [.coves, .ctrls, .jetty] s (execDmaTrackerFree a0 a1 s) := by
  intro a0 a1 s
  unfold execDmaTrackerFree
  repeat' first
    | with_reducible apply ChangesOnly.refl
    | exact Eq.refl true
    | with_reducible apply Leaves.next
    | with_reducible apply Leaves.occurs
    | with_reducible apply Leaves.ite
    | with_reducible apply ChangesOnly.ite
    | with_reducible apply ChangesOnly.foldl
    | with_reducible apply ChangesOnly.step ?_ (State.setTrackers_only _ _ _)
    | with_reducible intro _
    | split
    | dsimp only [id]

theorem State.putDma_only : ∀ s a1 a2, ChangesOnly [.coves] s (State.putDma s a1 a2) := by
  intro s a1 a2
  unfold State.putDma
  repeat' first
    | with_reducible apply ChangesOnly.refl
    | exact Eq.refl true
    | with_reducible apply ChangesOnly.ite
    | with_reducible apply ChangesOnly.foldl
    | with_reducible apply ChangesOnly.step ?_ (State.modCove_only _ _ _)
    | with_reducible intro _
    | split
    | dsimp only [id]

theorem State.sendRead_only : ∀ s a1 a2 a3, ChangesOnly [.coves] s (State.sendRead s a1 a2 a3) := by
  intro s a1 a2 a3
  fun_induction State.sendRead s a1 a2 a3
  all_goals repeat' first
    | (with_reducible apply ChangesOnly.trans; rotate_left; assumption)
    | with_reducible apply ChangesOnly.refl
    | exact Eq.refl true
    | with_reducible apply ChangesOnly.ite
    | with_reducible apply ChangesOnly.foldl
    | with_reducible apply ChangesOnly.step ?_ (State.sendDma_only _ _ _ _ _)
    | with_reducible apply ChangesOnly.step ?_ (State.putDma_only _ _ _)
    | with_reducible intro _
    | split
    | dsimp only [id]

theorem State.engineGrant_only : ∀ s a1 a2, ChangesOnly [.coves, .bays, .sessions, .portq, .integ, .rot, .su, .mg] s (State.engineGrant s a1 a2) := by
  intro s a1 a2
  unfold State.engineGrant
  repeat' first
    | with_reducible apply ChangesOnly.refl
    | exact Eq.refl true
    | with_reducible apply ChangesOnly.ite
    | with_reducible apply ChangesOnly.foldl
    | with_reducible apply ChangesOnly.step ?_ (State.modCove_only _ _ _)
    | with_reducible apply ChangesOnly.step ?_ (State.putDma_only _ _ _)
    | with_reducible apply ChangesOnly.step ?_ (State.rowParity_only _ _ _ _ _)
    | with_reducible apply ChangesOnly.step ?_ (State.sendRead_only _ _ _ _)
    | with_reducible intro _
    | split
    | dsimp only [id]

theorem State.grant_only : ∀ s a1 a2, ChangesOnly [.clk, .coves, .ctrls, .streams, .bays, .sessions, .portq, .jetty, .integ, .rot, .net, .su, .mg] s (State.grant s a1 a2) := by
  intro s a1 a2
  unfold State.grant
  repeat' first
    | with_reducible apply ChangesOnly.refl
    | exact Eq.refl true
    | with_reducible apply ChangesOnly.ite
    | with_reducible apply ChangesOnly.foldl
    | with_reducible apply ChangesOnly.step ?_ (State.modCove_only _ _ _)
    | with_reducible apply ChangesOnly.step ?_ (State.modCore_only _ _ _)
    | with_reducible apply ChangesOnly.step ?_ (State.exceptionAt_only _ _ _ _)
    | with_reducible apply ChangesOnly.step ?_ (State.engineGrant_only _ _ _)
    | with_reducible intro _
    | split
    | dsimp only [id]

theorem execScratchpadNarrowGrant_only : ∀ a0 a1 a2 a3 s, Leaves [.clk, .coves, .ctrls, .streams, .bays, .sessions, .portq, .jetty, .integ, .rot, .net, .su, .mg] s (execScratchpadNarrowGrant a0 a1 a2 a3 s) := by
  intro a0 a1 a2 a3 s
  unfold execScratchpadNarrowGrant
  repeat' first
    | with_reducible apply ChangesOnly.refl
    | exact Eq.refl true
    | with_reducible apply Leaves.next
    | with_reducible apply Leaves.occurs
    | with_reducible apply Leaves.ite
    | with_reducible apply ChangesOnly.ite
    | with_reducible apply ChangesOnly.foldl
    | with_reducible apply ChangesOnly.step ?_ (State.modCove_only _ _ _)
    | with_reducible apply ChangesOnly.step ?_ (State.grant_only _ _ _)
    | with_reducible intro _
    | split
    | dsimp only [id]

theorem execDmaTagQuarantineEnd_only : ∀ a0 a1 s, Leaves [.coves] s (execDmaTagQuarantineEnd a0 a1 s) := by
  intro a0 a1 s
  unfold execDmaTagQuarantineEnd
  repeat' first
    | with_reducible apply ChangesOnly.refl
    | exact Eq.refl true
    | with_reducible apply Leaves.next
    | with_reducible apply Leaves.occurs
    | with_reducible apply Leaves.ite
    | with_reducible apply ChangesOnly.ite
    | with_reducible apply ChangesOnly.foldl
    | with_reducible apply ChangesOnly.step ?_ (State.modCove_only _ _ _)
    | with_reducible intro _
    | split
    | dsimp only [id]

theorem execDmaRetryResend_only : ∀ a0 a1 s, Leaves [.coves] s (execDmaRetryResend a0 a1 s) := by
  intro a0 a1 s
  unfold execDmaRetryResend
  repeat' first
    | with_reducible apply ChangesOnly.refl
    | exact Eq.refl true
    | with_reducible apply Leaves.next
    | with_reducible apply Leaves.occurs
    | with_reducible apply Leaves.ite
    | with_reducible apply ChangesOnly.ite
    | with_reducible apply ChangesOnly.foldl
    | with_reducible apply ChangesOnly.step ?_ (State.sendDma_only _ _ _ _ _)
    | with_reducible apply ChangesOnly.step ?_ (State.modCove_only _ _ _)
    | with_reducible intro _
    | split
    | dsimp only [id]

theorem execDmaDonePacket_only : ∀ a0 s, Leaves [.coves, .bays, .sessions, .portq, .integ, .rot, .su, .mg] s (execDmaDonePacket a0 s) := by
  intro a0 s
  unfold execDmaDonePacket
  repeat' first
    | with_reducible apply ChangesOnly.refl
    | with_reducible apply ChangesOnly.trans ?_ (State.eject_only ?_ _ _ _ ?_)
    | exact Eq.refl true
    | with_reducible apply Leaves.next
    | with_reducible apply Leaves.occurs
    | with_reducible apply Leaves.ite
    | with_reducible apply ChangesOnly.ite
    | with_reducible apply ChangesOnly.foldl
    | with_reducible apply ChangesOnly.step ?_ (State.modCove_only _ _ _)
    | with_reducible apply ChangesOnly.step ?_ (State.netCount_only _ _ _)
    | with_reducible apply ChangesOnly.step ?_ (State.transferFails_only _ _ _ _)
    | with_reducible intro _
    | split
    | dsimp only [id]

theorem State.answer_only : ∀ s a1 a2 a3, ChangesOnly [.coves] s (State.answer s a1 a2 a3) := by
  intro s a1 a2 a3
  unfold State.answer
  repeat' first
    | with_reducible apply ChangesOnly.refl
    | exact Eq.refl true
    | with_reducible apply ChangesOnly.ite
    | with_reducible apply ChangesOnly.foldl
    | with_reducible apply ChangesOnly.step ?_ (State.inject_only _ _ _ _ _)
    | with_reducible intro _
    | split
    | dsimp only [id]

theorem execDmaRetryPacket_only : ∀ a0 s, Leaves [.coves, .bays, .sessions, .portq, .integ, .rot, .su, .mg] s (execDmaRetryPacket a0 s) := by
  intro a0 s
  unfold execDmaRetryPacket
  repeat' first
    | with_reducible apply ChangesOnly.refl
    | with_reducible apply ChangesOnly.trans ?_ (State.eject_only ?_ _ _ _ ?_)
    | exact Eq.refl true
    | with_reducible apply Leaves.next
    | with_reducible apply Leaves.occurs
    | with_reducible apply Leaves.ite
    | with_reducible apply ChangesOnly.ite
    | with_reducible apply ChangesOnly.foldl
    | with_reducible apply ChangesOnly.step ?_ (State.modCove_only _ _ _)
    | with_reducible apply ChangesOnly.step ?_ (State.netCount_only _ _ _)
    | with_reducible apply ChangesOnly.step ?_ (State.rowsParity_only _ _ _)
    | with_reducible intro _
    | split
    | dsimp only [id]

theorem execDmaWritePacket_only : ∀ a0 s, Leaves [.clk, .coves, .hbm, .ctrls, .streams, .bays, .sessions, .portq, .jetty, .net, .mg] s (execDmaWritePacket a0 s) := by
  intro a0 s
  unfold execDmaWritePacket
  repeat' first
    | with_reducible apply ChangesOnly.refl
    | with_reducible apply ChangesOnly.trans ?_ (State.eject_only ?_ _ _ _ ?_)
    | first | exact (landWrite_only _ _ _ ‹_›).mono rfl | exact (landWrite_only_refused _ _ _ _ ‹_›).mono rfl | exact (landWrite_only_stopped _ _ _ ‹_›).mono rfl
    | exact Eq.refl true
    | with_reducible apply Leaves.next
    | with_reducible apply Leaves.occurs
    | with_reducible apply Leaves.ite
    | with_reducible apply ChangesOnly.ite
    | with_reducible apply ChangesOnly.foldl
    | with_reducible apply ChangesOnly.step ?_ (State.answer_only _ _ _ _)
    | with_reducible apply ChangesOnly.step ?_ (State.setTrackers_only _ _ _)
    | with_reducible intro _
    | split
    | dsimp only [id]

theorem State.answerData_only : ∀ s a1 a2 a3, ChangesOnly [.coves] s (State.answerData s a1 a2 a3) := by
  intro s a1 a2 a3
  unfold State.answerData
  repeat' first
    | with_reducible apply ChangesOnly.refl
    | exact Eq.refl true
    | with_reducible apply ChangesOnly.ite
    | with_reducible apply ChangesOnly.foldl
    | with_reducible apply ChangesOnly.step ?_ (State.inject_only _ _ _ _ _)
    | with_reducible intro _
    | split
    | dsimp only [id]

theorem execDmaTimeout_only : ∀ a0 a1 s, Leaves [.coves, .bays, .sessions, .portq, .integ, .rot, .su, .mg] s (execDmaTimeout a0 a1 s) := by
  intro a0 a1 s
  unfold execDmaTimeout
  repeat' first
    | with_reducible apply ChangesOnly.refl
    | exact Eq.refl true
    | with_reducible apply Leaves.next
    | with_reducible apply Leaves.occurs
    | with_reducible apply Leaves.ite
    | with_reducible apply ChangesOnly.ite
    | with_reducible apply ChangesOnly.foldl
    | with_reducible apply ChangesOnly.step ?_ (State.modCove_only _ _ _)
    | with_reducible apply ChangesOnly.step ?_ (State.transferFails_only _ _ _ _)
    | with_reducible intro _
    | split
    | dsimp only [id]

theorem execDmaRetire_only : ∀ a0 s, Leaves [.coves] s (execDmaRetire a0 s) := by
  intro a0 s
  unfold execDmaRetire
  repeat' first
    | with_reducible apply ChangesOnly.refl
    | exact Eq.refl true
    | with_reducible apply Leaves.next
    | with_reducible apply Leaves.occurs
    | with_reducible apply Leaves.ite
    | with_reducible apply ChangesOnly.ite
    | with_reducible apply ChangesOnly.foldl
    | with_reducible apply ChangesOnly.step ?_ (State.modCove_only _ _ _)
    | with_reducible intro _
    | split
    | dsimp only [id]

theorem execDmaTransferStart_only : ∀ a0 s, Leaves [.coves] s (execDmaTransferStart a0 s) := by
  intro a0 s
  unfold execDmaTransferStart
  repeat' first
    | with_reducible apply ChangesOnly.refl
    | exact Eq.refl true
    | with_reducible apply Leaves.next
    | with_reducible apply Leaves.occurs
    | with_reducible apply Leaves.ite
    | with_reducible apply ChangesOnly.ite
    | with_reducible apply ChangesOnly.foldl
    | with_reducible apply ChangesOnly.step ?_ (State.sendDma_only _ _ _ _ _)
    | with_reducible apply ChangesOnly.step ?_ (State.modCove_only _ _ _)
    | with_reducible intro _
    | split
    | dsimp only [id]

theorem execDq_only : ∀ a0 a1 s, Leaves [.clk, .mt, .coves, .ctrls, .streams, .bays, .sessions, .ports, .portq, .jetty, .integ, .rot, .net, .pwr, .su, .ident, .mg] s (execDq a0 a1 s) := by
  intro a0 a1 s
  unfold execDq
  repeat' first
    | with_reducible apply ChangesOnly.refl
    | with_reducible apply issue_only
    | exact Eq.refl true
    | with_reducible apply Leaves.next
    | with_reducible apply Leaves.occurs
    | with_reducible apply Leaves.ite
    | with_reducible apply ChangesOnly.ite
    | with_reducible apply ChangesOnly.foldl
    | with_reducible apply ChangesOnly.step ?_ (State.modCove_only _ _ _)
    | with_reducible apply ChangesOnly.step ?_ (State.stall_only _ _ _)
    | with_reducible apply ChangesOnly.step ?_ (State.exception_only _ _ _)
    | with_reducible apply ChangesOnly.step ?_ (State.takeDmaFault_only _ _ _)
    | with_reducible apply ChangesOnly.step ?_ (State.retireNext_only _ _ _)
    | with_reducible intro _
    | split
    | dsimp only [id]

theorem execDmaReadPacket_only (p : Packet) (ecc : List (Nat × Ecc)) (s : State) : Leaves [.coves, .ctrls, .bays, .sessions, .portq, .integ, .rot, .su, .mg] s (execDmaReadPacket p ecc s) := by
  unfold execDmaReadPacket
  extract_lets b a n busy
  clear_value busy
  refine Leaves.ite (Leaves.next (ChangesOnly.refl _ _)) (Leaves.next (State.eject_only rfl _ _ _ fun t => ?_))
  generalize ifaceOf p = i
  cases i with
  | cove c =>
    dsimp only
    repeat' first
        | with_reducible apply ChangesOnly.refl
        | exact Eq.refl true
        | with_reducible apply ChangesOnly.ite
        | with_reducible apply ChangesOnly.foldl
        | with_reducible apply ChangesOnly.step ?_ (State.modCove_only _ _ _)
        | with_reducible apply ChangesOnly.step ?_ (State.answer_only _ _ _ _)
        | with_reducible apply ChangesOnly.step ?_ (State.noteAt_only _ _ _ _ _)
        | fail
        | with_reducible apply ChangesOnly.step ?_ (State.answerData_only _ _ _ _)
        | with_reducible apply ChangesOnly.step ?_ (State.rowsParity_only _ _ _)
        | with_reducible apply ChangesOnly.step ?_ (State.eccFindings_only _ _ _ _ _ _)
        | with_reducible apply ChangesOnly.step ?_ (State.readBay_only _ _ _ _ _ _)
        | with_reducible apply ChangesOnly.step ?_ (State.bayHw_only _ _ _ _)
        | with_reducible intro _
        | split
        | dsimp only [id]
  | stack k =>
    dsimp only
    repeat' first
        | with_reducible apply ChangesOnly.refl
        | exact Eq.refl true
        | with_reducible apply ChangesOnly.ite
        | with_reducible apply ChangesOnly.foldl
        | with_reducible apply ChangesOnly.step ?_ (State.modCove_only _ _ _)
        | with_reducible apply ChangesOnly.step ?_ (State.answer_only _ _ _ _)
        | with_reducible apply ChangesOnly.step ?_ (State.noteAt_only _ _ _ _ _)
        | fail
        | with_reducible apply ChangesOnly.step ?_ (State.answerData_only _ _ _ _)
        | with_reducible apply ChangesOnly.step ?_ (State.rowsParity_only _ _ _)
        | with_reducible apply ChangesOnly.step ?_ (State.eccFindings_only _ _ _ _ _ _)
        | with_reducible apply ChangesOnly.step ?_ (State.readBay_only _ _ _ _ _ _)
        | with_reducible apply ChangesOnly.step ?_ (State.bayHw_only _ _ _ _)
        | with_reducible intro _
        | split
        | dsimp only [id]
  | jetty =>
    dsimp only
    repeat' first
        | with_reducible apply ChangesOnly.refl
        | exact Eq.refl true
        | with_reducible apply ChangesOnly.ite
        | with_reducible apply ChangesOnly.foldl
        | with_reducible apply ChangesOnly.step ?_ (State.modCove_only _ _ _)
        | with_reducible apply ChangesOnly.step ?_ (State.answer_only _ _ _ _)
        | with_reducible apply ChangesOnly.step ?_ (State.noteAt_only _ _ _ _ _)
        | fail
        | with_reducible apply ChangesOnly.step ?_ (State.answerData_only _ _ _ _)
        | with_reducible apply ChangesOnly.step ?_ (State.rowsParity_only _ _ _)
        | with_reducible apply ChangesOnly.step ?_ (State.eccFindings_only _ _ _ _ _ _)
        | with_reducible apply ChangesOnly.step ?_ (State.readBay_only _ _ _ _ _ _)
        | with_reducible apply ChangesOnly.step ?_ (State.bayHw_only _ _ _ _)
        | with_reducible intro _
        | split
        | dsimp only [id]
  | _ => exact ChangesOnly.refl _ _

end Sys2Proof.Machine
end

