-- ==== Sys2Proof/Laws/MemDma.lean ====
section
/-!
SUPPORT. The operations and meanings of Machine/Dma.lean that write HBM or the devices keep their memories in canonical form.
-/

set_option linter.unreachableTactic false
set_option linter.unusedTactic false

namespace Sys2Proof.Machine

theorem State.eject_mem (s : State) (p : Packet) (f : State → State) (hf : ∀ t, MemKept t (f t)) : MemKept s (s.eject p f) := by
  have k (t : State) (c n : Nat) : MemKept t (t.netCount c n) := (MemKept.refl t).step (State.netCount_only t c n) rfl
  have w (t : State) (c : Nat) (i : Injection) : MemKept t (t.post c i) := (MemKept.refl t).step (State.post_only t c i) rfl
  have m (t : State) (c : Nat) (g : Cove → Cove) : MemKept t (t.modCove c g) := (MemKept.refl t).step (State.modCove_only t c g) rfl
  unfold State.eject
  extract_lets c s0
  have h0 : MemKept s s0 := m _ _ _
  refine .ite (h0.trans (k _ _ _)) (.ite (h0.trans (k _ _ _)) (.ite (h0.trans (k _ _ _)) (.ite ?_ (.ite (h0.trans (k _ _ _)) (h0.trans (hf _))))))
  split
  · exact (h0.trans (k _ _ _)).trans (w _ _ _)
  · exact h0.trans (k _ _ _)

theorem State.stepWriteAt_mem (s : State) (b n a : Nat) (dl : BitVec 16) (bs : List Byte) (t : State)
    (h : s.stepWriteAt b n a dl bs = .landed t) :
    MemKept s t := by
  unfold State.stepWriteAt at h
  dsimp only at h
  split at h
  · cases h; exact MemKept.refl _
  · split at h
    · have h1 := State.stepWrite_mem _ _ _ _ _ _ _ _ _ ‹_›
      split at h
      · cases h; exact h1
      · split at h
        · cases h; exact h1
        · exact h1.trans (State.stepWrite_mem _ _ _ _ _ _ _ _ _ h)
    · exact (State.stepWrite_mem _ _ _ _ _ _ _ _ _ h)

theorem landWrite_memAfter (s : State) (p : Packet) : MemKept s ((landWrite s p).after s) := by
  have q {ps : List Piece} {t : State} (h : ChangesOnly ps s t) (hq : (!ps.contains .hbm && !ps.contains .img) = true) : MemKept s t :=
    (MemKept.refl s).step h hq
  unfold landWrite
  extract_lets b a n
  clear_value b a n
  generalize ifaceOf p = i
  cases i with
  | cove c =>
    dsimp only
    split
    · dsimp only [Arrived.after]; exact q (State.modCove_only _ _ _) rfl
    · split
      · exact .refl _
      · split
        · exact .refl _
        · dsimp only [Arrived.after]; exact q (State.modCove_only _ _ _) rfl
  | stack k =>
    dsimp only
    split
    · exact .refl _
    · split
      · dsimp only [Arrived.after]; exact q (State.noteAt_only _ _ _ _ _) rfl
      · split
        · dsimp only [Arrived.after]; exact State.stepWriteAt_mem _ _ _ _ _ _ _ ‹_›
        · exact .refl _
        · dsimp only [Arrived.after]
          exact (q (State.noteAt_only s _ _ _ _) rfl).trans ((MemKept.refl _).step (State.stopBay_only _ _ _) rfl)
  | jetty =>
    dsimp only
    split
    · split
      · exact .refl _
      · dsimp only [Arrived.after]; exact q (State.stopBay_only _ _ _) rfl
    · dsimp only [Arrived.after]; exact q (State.modStep_only _ _ _ _) rfl
  | _ => exact .refl _

theorem landWrite_mem (s : State) (p : Packet) (t : State) (h : landWrite s p = .landed t) : MemKept s t := by
  have k := landWrite_memAfter s p
  rwa [h] at k

theorem landWrite_mem_refused (s : State) (p : Packet) (code : Code) (t : State) (h : landWrite s p = .refused code t) :
    MemKept s t := by
  have k := landWrite_memAfter s p
  rwa [h] at k

theorem landWrite_mem_stopped (s : State) (p : Packet) (t : State) (h : landWrite s p = .stopped t) : MemKept s t := by
  have k := landWrite_memAfter s p
  rwa [h] at k

theorem execDmaWritePacket_mem : ∀ a0 s, OutMemKept s (execDmaWritePacket a0 s) := by
  intro a0 s
  unfold execDmaWritePacket
  repeat' first
    | with_reducible apply MemKept.refl
    | exact Eq.refl true
    | with_reducible apply OutMemKept.next
    | with_reducible apply OutMemKept.occurs
    | with_reducible apply OutMemKept.ite
    | with_reducible apply MemKept.ite
    | with_reducible apply MemKept.foldl
    | with_reducible apply MemKept.step ?_ (State.answer_only _ _ _ _)
    | with_reducible apply MemKept.step ?_ (State.setTrackers_only _ _ _)
    | first | exact landWrite_mem _ _ _ ‹_› | exact landWrite_mem_refused _ _ _ _ ‹_› | exact landWrite_mem_stopped _ _ _ ‹_›
    | with_reducible apply MemKept.trans ?_ (State.eject_mem _ _ _ ?_)
    | with_reducible intro _
    | split
    | dsimp only [id]

end Sys2Proof.Machine
end

