-- ==== Sys2Proof/Laws/OnlyEthernet.lean ====
section
/-!
SUPPORT. For each operation and meaning of Machine/Ethernet.lean: the parts of the state that it can change.
-/

set_option linter.unreachableTactic false
set_option linter.unusedTactic false

namespace Sys2Proof.Machine

theorem State.receiveFrame_only {ps : List Piece} (hp : ([Piece.ports].all fun p => ps.contains p) = true) (s : State) (p : Nat)
    (good : Bool) (f : State → State) (hf : ∀ t, ChangesOnly ps t (f t)) : Leaves ps s (s.receiveFrame p good f) := by
  have k (t : State) (i n : Nat) : ChangesOnly ps t (t.ethCount p i n) := (State.ethCount_only t p i n).mono hp
  unfold State.receiveFrame
  exact Leaves.occurs (ChangesOnly.ite ((k _ _ _).trans (hf _)) ((k _ _ _).trans (k _ _ _)))

theorem State.lockTime_only : ∀ s a1 a2 a3, ChangesOnly [.mt, .coves, .sessions, .qps, .ports, .portq, .jetty, .mg] s (State.lockTime s a1 a2 a3) := by
  intro s a1 a2 a3
  unfold State.lockTime
  repeat' first
    | with_reducible exact Or.inl rfl
    | with_reducible exact Or.inr rfl
    | exact Or.inl rfl
    | with_reducible apply ChangesOnly.refl
    | exact Eq.refl true
    | with_reducible apply ChangesOnly.ite
    | with_reducible apply ChangesOnly.foldl
    | with_reducible apply ChangesOnly.step ?_ (State.stepTime_only _ _)
    | with_reducible apply ChangesOnly.step ?_ (State.portEvent_only _ _ _)
    | with_reducible intro _
    | split
    | dsimp only [id]
    | with_reducible apply ChangesOnly.record

theorem execPtpMessage_only : ∀ a0 a1 s, Leaves [.mt, .coves, .sessions, .qps, .ports, .portq, .jetty, .mg] s (execPtpMessage a0 a1 s) := by
  intro a0 a1 s
  unfold execPtpMessage
  repeat' first
    | with_reducible exact Or.inl rfl
    | with_reducible exact Or.inr rfl
    | exact Or.inl rfl
    | with_reducible apply ChangesOnly.refl
    | with_reducible apply State.receiveFrame_only
    | exact Eq.refl true
    | with_reducible apply Leaves.next
    | with_reducible apply Leaves.occurs
    | with_reducible apply Leaves.ite
    | with_reducible apply ChangesOnly.ite
    | with_reducible apply ChangesOnly.foldl
    | with_reducible apply ChangesOnly.step ?_ (State.modPortQ_only _ _ _)
    | with_reducible apply ChangesOnly.step ?_ (State.transmit_only _ _ _)
    | with_reducible apply ChangesOnly.step ?_ (State.lockTime_only _ _ _ _)
    | with_reducible intro _
    | split
    | dsimp only [id]
    | with_reducible apply ChangesOnly.record

theorem execTimeHoldover_only : ∀ s, Leaves [.mt, .ports, .portq, .mg] s (execTimeHoldover s) := by
  intro s
  unfold execTimeHoldover
  repeat' first
    | with_reducible exact Or.inl rfl
    | with_reducible exact Or.inr rfl
    | exact Or.inl rfl
    | with_reducible apply ChangesOnly.refl
    | exact Eq.refl true
    | with_reducible apply Leaves.next
    | with_reducible apply Leaves.occurs
    | with_reducible apply Leaves.ite
    | with_reducible apply ChangesOnly.ite
    | with_reducible apply ChangesOnly.foldl
    | with_reducible apply ChangesOnly.step ?_ (State.modPortQ_only _ _ _)
    | with_reducible apply ChangesOnly.step ?_ (State.portEvent_only _ _ _)
    | with_reducible intro _
    | split
    | dsimp only [id]
    | with_reducible apply ChangesOnly.record

theorem execPortTrainAttempt_only : ∀ a0 a1 s, Leaves [.ports, .portq, .mg] s (execPortTrainAttempt a0 a1 s) := by
  intro a0 a1 s
  unfold execPortTrainAttempt
  repeat' first
    | with_reducible apply ChangesOnly.refl
    | exact Eq.refl true
    | with_reducible apply Leaves.next
    | with_reducible apply Leaves.occurs
    | with_reducible apply Leaves.ite
    | with_reducible apply ChangesOnly.ite
    | with_reducible apply ChangesOnly.foldl
    | with_reducible apply ChangesOnly.step ?_ (State.modPort_only _ _ _)
    | with_reducible apply ChangesOnly.step ?_ (State.modPortQ_only _ _ _)
    | with_reducible apply ChangesOnly.step ?_ (State.portEvent_only _ _ _)
    | with_reducible intro _
    | split
    | dsimp only [id]

theorem execPcsAlignmentLoss_only : ∀ a0 s, Leaves [.clk, .coves, .hbm, .ctrls, .streams, .bays, .sessions, .qps, .ports, .portq, .jetty, .rot, .net, .pwr, .pwrx, .img, .su, .ident, .mg, .pins] s (execPcsAlignmentLoss a0 s) := by
  intro a0 s
  unfold execPcsAlignmentLoss
  repeat' first
    | with_reducible apply ChangesOnly.refl
    | exact Eq.refl true
    | with_reducible apply Leaves.next
    | with_reducible apply Leaves.occurs
    | with_reducible apply Leaves.ite
    | with_reducible apply ChangesOnly.ite
    | with_reducible apply ChangesOnly.foldl
    | with_reducible apply ChangesOnly.step ?_ (State.linkLost_only _ _)
    | with_reducible apply ChangesOnly.step ?_ (State.portEvent_only _ _ _)
    | with_reducible intro _
    | split
    | dsimp only [id]

theorem execEthDisable_only : ∀ a0 a1 a2 s, Leaves [.ports, .portq] s (execEthDisable a0 a1 a2 s) := by
  intro a0 a1 a2 s
  unfold execEthDisable
  repeat' first
    | with_reducible apply ChangesOnly.refl
    | exact Eq.refl true
    | with_reducible apply Leaves.next
    | with_reducible apply Leaves.occurs
    | with_reducible apply Leaves.ite
    | with_reducible apply ChangesOnly.ite
    | with_reducible apply ChangesOnly.foldl
    | with_reducible apply ChangesOnly.step ?_ (State.modPort_only _ _ _)
    | with_reducible apply ChangesOnly.step ?_ (State.depart_only _ _ _ _)
    | with_reducible apply ChangesOnly.step ?_ (State.beginTraining_only _ _)
    | with_reducible intro _
    | split
    | dsimp only [id]

theorem execArpRequest_only : ∀ a0 a1 a2 a3 s, Leaves [.ports, .portq] s (execArpRequest a0 a1 a2 a3 s) := by
  intro a0 a1 a2 a3 s
  unfold execArpRequest
  repeat' first
    | with_reducible apply ChangesOnly.refl
    | with_reducible apply State.receiveFrame_only
    | exact Eq.refl true
    | with_reducible apply Leaves.next
    | with_reducible apply Leaves.occurs
    | with_reducible apply Leaves.ite
    | with_reducible apply ChangesOnly.ite
    | with_reducible apply ChangesOnly.foldl
    | with_reducible apply ChangesOnly.step ?_ (State.transmit_only _ _ _)
    | with_reducible intro _
    | split
    | dsimp only [id]

theorem execPfcPauseFrame_only : ∀ a0 a1 a2 s, Leaves [.ports] s (execPfcPauseFrame a0 a1 a2 s) := by
  intro a0 a1 a2 s
  unfold execPfcPauseFrame
  repeat' first
    | with_reducible apply ChangesOnly.refl
    | with_reducible apply State.receiveFrame_only
    | exact Eq.refl true
    | with_reducible apply Leaves.next
    | with_reducible apply Leaves.occurs
    | with_reducible apply Leaves.ite
    | with_reducible apply ChangesOnly.ite
    | with_reducible apply ChangesOnly.foldl
    | with_reducible apply ChangesOnly.step ?_ (State.modPort_only _ _ _)
    | with_reducible apply ChangesOnly.step ?_ (State.ethCount_only _ _ _ _)
    | with_reducible intro _
    | split
    | dsimp only [id]

theorem execFrameDrop_only : ∀ a0 a1 s, Leaves [.ports] s (execFrameDrop a0 a1 s) := by
  intro a0 a1 s
  unfold execFrameDrop
  repeat' first
    | with_reducible apply ChangesOnly.refl
    | with_reducible apply State.receiveFrame_only
    | exact Eq.refl true
    | with_reducible apply Leaves.next
    | with_reducible apply Leaves.occurs
    | with_reducible apply Leaves.ite
    | with_reducible apply ChangesOnly.ite
    | with_reducible apply ChangesOnly.foldl
    | with_reducible intro _
    | split
    | dsimp only [id]

theorem execNeighborSolicitation_only : ∀ a0 a1 a2 a3 s, Leaves [.ports, .portq] s (execNeighborSolicitation a0 a1 a2 a3 s) := by
  intro a0 a1 a2 a3 s
  unfold execNeighborSolicitation
  repeat' first
    | with_reducible apply ChangesOnly.refl
    | with_reducible apply State.receiveFrame_only
    | exact Eq.refl true
    | with_reducible apply Leaves.next
    | with_reducible apply Leaves.occurs
    | with_reducible apply Leaves.ite
    | with_reducible apply ChangesOnly.ite
    | with_reducible apply ChangesOnly.foldl
    | with_reducible apply ChangesOnly.step ?_ (State.transmit_only _ _ _)
    | with_reducible intro _
    | split
    | dsimp only [id]

theorem execEthRetrain_only : ∀ a0 a1 s, Leaves [.ports, .portq] s (execEthRetrain a0 a1 s) := by
  intro a0 a1 s
  unfold execEthRetrain
  repeat' first
    | with_reducible apply ChangesOnly.refl
    | exact Eq.refl true
    | with_reducible apply Leaves.next
    | with_reducible apply Leaves.occurs
    | with_reducible apply Leaves.ite
    | with_reducible apply ChangesOnly.ite
    | with_reducible apply ChangesOnly.foldl
    | with_reducible apply ChangesOnly.step ?_ (State.depart_only _ _ _ _)
    | with_reducible apply ChangesOnly.step ?_ (State.beginTraining_only _ _)
    | with_reducible intro _
    | split
    | dsimp only [id]

theorem execPortRetryTimer_only : ∀ a0 s, Leaves [.ports] s (execPortRetryTimer a0 s) := by
  intro a0 s
  unfold execPortRetryTimer
  repeat' first
    | with_reducible apply ChangesOnly.refl
    | exact Eq.refl true
    | with_reducible apply Leaves.next
    | with_reducible apply Leaves.occurs
    | with_reducible apply Leaves.ite
    | with_reducible apply ChangesOnly.ite
    | with_reducible apply ChangesOnly.foldl
    | with_reducible apply ChangesOnly.step ?_ (State.beginTraining_only _ _)
    | with_reducible intro _
    | split
    | dsimp only [id]

theorem execFecDegradation_only : ∀ a0 s, Leaves [.free, .ports, .portq, .mg] s (execFecDegradation a0 s) := by
  intro a0 s
  unfold execFecDegradation
  repeat' first
    | with_reducible apply ChangesOnly.refl
    | exact Eq.refl true
    | with_reducible apply Leaves.next
    | with_reducible apply Leaves.occurs
    | with_reducible apply Leaves.ite
    | with_reducible apply ChangesOnly.ite
    | with_reducible apply ChangesOnly.foldl
    | with_reducible apply ChangesOnly.step ?_ (State.modPort_only _ _ _)
    | with_reducible apply ChangesOnly.step ?_ (State.spend_only _ _)
    | with_reducible apply ChangesOnly.step ?_ (State.depart_only _ _ _ _)
    | with_reducible apply ChangesOnly.step ?_ (State.ethCount_only _ _ _ _)
    | with_reducible apply ChangesOnly.step ?_ (State.portEvent_only _ _ _)
    | with_reducible intro _
    | split
    | dsimp only [id]

theorem execHeartbeat_only : ∀ a0 a1 s, Leaves [.sessions, .ports, .portq] s (execHeartbeat a0 a1 s) := by
  intro a0 a1 s
  unfold execHeartbeat
  repeat' first
    | with_reducible apply ChangesOnly.refl
    | exact Eq.refl true
    | with_reducible apply Leaves.next
    | with_reducible apply Leaves.occurs
    | with_reducible apply Leaves.ite
    | with_reducible apply ChangesOnly.ite
    | with_reducible apply ChangesOnly.foldl
    | with_reducible apply ChangesOnly.step ?_ (State.modSess_only _ _ _)
    | with_reducible apply ChangesOnly.step ?_ (State.sendSess_only _ _ _ _)
    | with_reducible apply ChangesOnly.step ?_ (State.ethCount_only _ _ _ _)
    | with_reducible intro _
    | split
    | dsimp only [id]

theorem execIcmpEchoRequest_only : ∀ a0 a1 a2 a3 a4 a5 s, Leaves [.ports, .portq] s (execIcmpEchoRequest a0 a1 a2 a3 a4 a5 s) := by
  intro a0 a1 a2 a3 a4 a5 s
  unfold execIcmpEchoRequest
  repeat' first
    | with_reducible apply ChangesOnly.refl
    | with_reducible apply State.receiveFrame_only
    | exact Eq.refl true
    | with_reducible apply Leaves.next
    | with_reducible apply Leaves.occurs
    | with_reducible apply Leaves.ite
    | with_reducible apply ChangesOnly.ite
    | with_reducible apply ChangesOnly.foldl
    | with_reducible apply ChangesOnly.step ?_ (State.transmit_only _ _ _)
    | with_reducible intro _
    | split
    | dsimp only [id]

theorem execMtNsLoRead_only : ∀ a0 s, Leaves [.latches] s (execMtNsLoRead a0 s) := by
  intro a0 s
  unfold execMtNsLoRead
  repeat' first
    | with_reducible apply ChangesOnly.refl
    | exact Eq.refl true
    | with_reducible apply Leaves.next
    | with_reducible apply Leaves.occurs
    | with_reducible apply Leaves.ite
    | with_reducible apply ChangesOnly.ite
    | with_reducible apply ChangesOnly.foldl
    | with_reducible apply ChangesOnly.step ?_ (State.latch_only _ _ _ _)
    | with_reducible intro _
    | split
    | dsimp only [id]

theorem execLinkDownAt_only : ∀ a0 s, Leaves [.clk, .coves, .hbm, .ctrls, .streams, .bays, .sessions, .qps, .ports, .portq, .jetty, .rot, .net, .pwr, .pwrx, .img, .su, .ident, .pins] s (execLinkDownAt a0 s) := by
  intro a0 s
  unfold execLinkDownAt
  repeat' first
    | with_reducible apply ChangesOnly.refl
    | exact Eq.refl true
    | with_reducible apply Leaves.next
    | with_reducible apply Leaves.occurs
    | with_reducible apply Leaves.ite
    | with_reducible apply ChangesOnly.ite
    | with_reducible apply ChangesOnly.foldl
    | with_reducible apply ChangesOnly.step ?_ (State.linkDown_only _ _)
    | with_reducible apply ChangesOnly.step ?_ (State.beginTraining_only _ _)
    | with_reducible apply ChangesOnly.step ?_ (State.resetIfDown_only _)
    | with_reducible intro _
    | split
    | dsimp only [id]

end Sys2Proof.Machine
end

