-- ==== Sys2Proof/Laws/MemEthernet.lean ====
section
/-!
SUPPORT. The operations and meanings of Machine/Ethernet.lean that write HBM or the devices keep their memories in canonical form.
-/

set_option linter.unreachableTactic false
set_option linter.unusedTactic false

namespace Sys2Proof.Machine

theorem execPcsAlignmentLoss_mem : ∀ a0 s, OutMemKept s (execPcsAlignmentLoss a0 s) := by
  intro a0 s
  unfold execPcsAlignmentLoss
  repeat' first
    | with_reducible apply MemKept.refl
    | exact Eq.refl true
    | with_reducible apply OutMemKept.next
    | with_reducible apply OutMemKept.occurs
    | with_reducible apply OutMemKept.ite
    | with_reducible apply MemKept.ite
    | with_reducible apply MemKept.foldl
    | with_reducible apply MemKept.trans ?_ (State.linkLost_mem _ _)
    | with_reducible apply MemKept.step ?_ (State.portEvent_only _ _ _)
    | with_reducible intro _
    | split
    | dsimp only [id]

theorem execLinkDownAt_mem : ∀ a0 s, OutMemKept s (execLinkDownAt a0 s) := by
  intro a0 s
  unfold execLinkDownAt
  repeat' first
    | with_reducible apply MemKept.refl
    | exact Eq.refl true
    | with_reducible apply OutMemKept.next
    | with_reducible apply OutMemKept.occurs
    | with_reducible apply OutMemKept.ite
    | with_reducible apply MemKept.ite
    | with_reducible apply MemKept.foldl
    | with_reducible apply MemKept.step ?_ (State.linkDown_only _ _)
    | with_reducible apply MemKept.step ?_ (State.beginTraining_only _ _)
    | with_reducible apply MemKept.trans ?_ (State.resetIfDown_mem _)
    | with_reducible intro _
    | split
    | dsimp only [id]

end Sys2Proof.Machine
end

