-- ==== Sys2Proof/Laws/OnlyHbm.lean ====
section
/-!
SUPPORT. For each operation and meaning of Machine/Hbm.lean: the parts of the state that it can change.
-/

set_option linter.unreachableTactic false
set_option linter.unusedTactic false

namespace Sys2Proof.Machine

theorem State.copyChunk_only : ∀ s a1 a2 a3 a4, ChangesOnly [.coves, .hbm, .ctrls, .bays, .su, .mg] s (State.copyChunk s a1 a2 a3 a4) := by
  intro s a1 a2 a3 a4
  unfold State.copyChunk
  repeat' first
    | with_reducible apply ChangesOnly.refl
    | exact Eq.refl true
    | with_reducible apply ChangesOnly.ite
    | with_reducible apply ChangesOnly.foldl
    | with_reducible apply ChangesOnly.step ?_ (State.landShadow_only _ _ _ _ _)
    | with_reducible apply ChangesOnly.step ?_ (State.found_only _ _ _ _ _)
    | with_reducible apply ChangesOnly.step ?_ (State.putPhys_only _ _ _ _ _)
    | with_reducible apply ChangesOnly.step ?_ (State.bayHw_only _ _ _ _)
    | with_reducible apply ChangesOnly.step ?_ (State.modStack_only _ _ _)
    | with_reducible apply ChangesOnly.step ?_ (State.readFlips_only _ _ _ _ _)
    | with_reducible intro _
    | split
    | dsimp only [id]

theorem execRefresh_only : ∀ a0 a1 a2 s, Leaves [.ctrls] s (execRefresh a0 a1 a2 s) := by
  intro a0 a1 a2 s
  unfold execRefresh
  repeat' first
    | with_reducible apply ChangesOnly.refl
    | exact Eq.refl true
    | with_reducible apply Leaves.next
    | with_reducible apply Leaves.occurs
    | with_reducible apply Leaves.ite
    | with_reducible apply ChangesOnly.ite
    | with_reducible apply ChangesOnly.foldl
    | with_reducible apply ChangesOnly.step ?_ (State.modStack_only _ _ _)
    | with_reducible intro _
    | split
    | dsimp only [id]

/-- The state that a push leaves. -/
def Push.after (s : State) : Push → State
  | .done t => t
  | .full => s
  | .refused t _ => t

theorem State.pushDesc_after (s : State) (b l : Nat) (v : Word) (x : StreamDesc) (e : Option Code) :
    ChangesOnly [.ctrls, .streams] s ((s.pushDesc b l v x e).after s) := by
  unfold State.pushDesc
  split
  · exact ((State.modStream_only s l _).mono rfl).trans ((State.noteAt_only _ _ _ _ _).mono rfl)
  · split
    · exact (State.modStream_only _ _ _).mono rfl
    · split
      · exact ChangesOnly.refl _ _
      · exact (State.modStream_only _ _ _).mono rfl

theorem State.streamPush_after (s : State) (c : Nat) (v : Word) : ChangesOnly [.ctrls, .streams] s ((s.streamPush c v).after s) := by
  unfold State.streamPush
  split
  · exact ChangesOnly.refl _ _
  · split
    · exact State.pushDesc_after _ _ _ _ _ _
    · exact ChangesOnly.refl _ _

theorem State.streamPush_only (s : State) (c : Nat) (v : Word) (t : State) (h : s.streamPush c v = .done t) :
    ChangesOnly [.ctrls, .streams] s t := by
  have k := s.streamPush_after c v
  rwa [h] at k

theorem State.streamPush_only_refused (s : State) (c : Nat) (v : Word) (t : State) (code : Code) (h : s.streamPush c v = .refused t code) :
    ChangesOnly [.ctrls, .streams] s t := by
  have k := s.streamPush_after c v
  rwa [h] at k

theorem execStrmD3Write_only : ∀ a0 a1 s, Leaves [.clk, .coves, .ctrls, .streams, .bays, .sessions, .portq, .jetty, .integ, .rot, .net, .su, .mg] s (execStrmD3Write a0 a1 s) := by
  intro a0 a1 s
  unfold execStrmD3Write
  repeat' first
    | with_reducible apply ChangesOnly.refl
    | with_reducible apply ChangesOnly.step ?_ (State.streamPush_only _ _ _ _ ‹_›)
    | with_reducible apply ChangesOnly.step ?_ (State.streamPush_only_refused _ _ _ _ _ ‹_›)
    | exact Eq.refl true
    | with_reducible apply Leaves.next
    | with_reducible apply Leaves.occurs
    | with_reducible apply Leaves.ite
    | with_reducible apply ChangesOnly.ite
    | with_reducible apply ChangesOnly.foldl
    | with_reducible apply ChangesOnly.step ?_ (State.exception_only _ _ _)
    | with_reducible intro _
    | split
    | dsimp only [id]

theorem execShadowChunkCopy_only : ∀ a0 a1 a2 a3 a4 s, Leaves [.coves, .hbm, .ctrls, .bays, .su, .mg] s (execShadowChunkCopy a0 a1 a2 a3 a4 s) := by
  intro a0 a1 a2 a3 a4 s
  unfold execShadowChunkCopy
  repeat' first
    | with_reducible apply ChangesOnly.refl
    | exact Eq.refl true
    | with_reducible apply Leaves.next
    | with_reducible apply Leaves.occurs
    | with_reducible apply Leaves.ite
    | with_reducible apply ChangesOnly.ite
    | with_reducible apply ChangesOnly.foldl
    | with_reducible apply ChangesOnly.step ?_ (State.copyChunk_only _ _ _ _ _)
    | with_reducible intro _
    | split
    | dsimp only [id]

theorem execHbScrubEn_only : ∀ a0 a1 a2 s, Leaves [.ctrls] s (execHbScrubEn a0 a1 a2 s) := by
  intro a0 a1 a2 s
  unfold execHbScrubEn
  repeat' first
    | with_reducible apply ChangesOnly.refl
    | exact Eq.refl true
    | with_reducible apply Leaves.next
    | with_reducible apply Leaves.occurs
    | with_reducible apply Leaves.ite
    | with_reducible apply ChangesOnly.ite
    | with_reducible apply ChangesOnly.foldl
    | with_reducible apply ChangesOnly.step ?_ (State.modStack_only _ _ _)
    | with_reducible intro _
    | split
    | dsimp only [id]

theorem execHbInjCe_only : ∀ a0 a1 s, Leaves [.ctrls] s (execHbInjCe a0 a1 s) := by
  intro a0 a1 s
  unfold execHbInjCe
  repeat' first
    | with_reducible apply ChangesOnly.refl
    | exact Eq.refl true
    | with_reducible apply Leaves.next
    | with_reducible apply Leaves.occurs
    | with_reducible apply Leaves.ite
    | with_reducible apply ChangesOnly.ite
    | with_reducible apply ChangesOnly.foldl
    | with_reducible apply ChangesOnly.step ?_ (State.modStack_only _ _ _)
    | with_reducible intro _
    | split
    | dsimp only [id]

theorem execPatrolScrub_only : ∀ a0 a1 s, Leaves [.coves, .ctrls, .su, .mg] s (execPatrolScrub a0 a1 s) := by
  intro a0 a1 s
  unfold execPatrolScrub
  repeat' first
    | with_reducible apply ChangesOnly.refl
    | exact Eq.refl true
    | with_reducible apply Leaves.next
    | with_reducible apply Leaves.occurs
    | with_reducible apply Leaves.ite
    | with_reducible apply ChangesOnly.ite
    | with_reducible apply ChangesOnly.foldl
    | with_reducible apply ChangesOnly.step ?_ (State.correctable_only _ _ _ _ _)
    | with_reducible apply ChangesOnly.step ?_ (State.uncorrectable_only _ _ _ _)
    | with_reducible apply ChangesOnly.step ?_ (State.modStack_only _ _ _)
    | with_reducible intro _
    | split
    | dsimp only [id]

theorem State.streamHw_only : ∀ s a1 a2 a3 a4, ChangesOnly [.coves, .ctrls, .bays, .mg] s (State.streamHw s a1 a2 a3 a4) := by
  intro s a1 a2 a3 a4
  unfold State.streamHw
  repeat' first
    | with_reducible apply ChangesOnly.refl
    | exact Eq.refl true
    | with_reducible apply ChangesOnly.ite
    | with_reducible apply ChangesOnly.foldl
    | with_reducible apply ChangesOnly.step ?_ (State.noteAt_only _ _ _ _ _)
    | with_reducible apply ChangesOnly.step ?_ (State.log_only _ _)
    | with_reducible apply ChangesOnly.step ?_ (State.castFail_only _ _ _ _ _ _)
    | with_reducible intro _
    | split
    | dsimp only [id]

theorem execSoftPpr_only : ∀ a0 a1 a2 a3 s, Leaves [.ctrls, .su] s (execSoftPpr a0 a1 a2 a3 s) := by
  intro a0 a1 a2 a3 s
  unfold execSoftPpr
  repeat' first
    | with_reducible apply ChangesOnly.refl
    | exact Eq.refl true
    | with_reducible apply Leaves.next
    | with_reducible apply Leaves.occurs
    | with_reducible apply Leaves.ite
    | with_reducible apply ChangesOnly.ite
    | with_reducible apply ChangesOnly.foldl
    | with_reducible apply ChangesOnly.step ?_ (State.journalTalus_only _ _ _ _)
    | with_reducible apply ChangesOnly.step ?_ (State.modStack_only _ _ _)
    | with_reducible intro _
    | split
    | dsimp only [id]

theorem State.streamRead_only : ∀ s a1 a2 a3 a4 a5 a6, ChangesOnly [.clk, .coves, .ctrls, .streams, .bays, .sessions, .portq, .jetty, .integ, .rot, .net, .su, .mg] s (State.streamRead s a1 a2 a3 a4 a5 a6) := by
  intro s a1 a2 a3 a4 a5 a6
  unfold State.streamRead
  repeat' first
    | with_reducible apply ChangesOnly.refl
    | exact Eq.refl true
    | with_reducible apply ChangesOnly.ite
    | with_reducible apply ChangesOnly.foldl
    | with_reducible apply ChangesOnly.step ?_ (State.modCove_only _ _ _)
    | with_reducible apply ChangesOnly.step ?_ (State.stopBay_only _ _ _)
    | with_reducible apply ChangesOnly.step ?_ (State.tideFault_only _ _ _ _ _)
    | with_reducible apply ChangesOnly.step ?_ (State.eccFindings_only _ _ _ _ _ _)
    | with_reducible apply ChangesOnly.step ?_ (State.streamHw_only _ _ _ _ _)
    | with_reducible apply ChangesOnly.step ?_ (State.modStream_only _ _ _)
    | with_reducible intro _
    | split
    | dsimp only [id]

theorem State.streamWrite_only : ∀ s a1 a2 a3 a4, ChangesOnly [.clk, .coves, .hbm, .ctrls, .streams, .bays, .sessions, .portq, .jetty, .net, .mg] s (State.streamWrite s a1 a2 a3 a4) := by
  intro s a1 a2 a3 a4
  unfold State.streamWrite
  repeat' first
    | with_reducible apply ChangesOnly.refl
    | exact Eq.refl true
    | with_reducible apply ChangesOnly.ite
    | with_reducible apply ChangesOnly.foldl
    | with_reducible apply ChangesOnly.step ?_ (State.noteAt_only _ _ _ _ _)
    | with_reducible apply ChangesOnly.step ?_ (State.stopBay_only _ _ _)
    | with_reducible apply ChangesOnly.step ?_ (State.stepWriteAt_only _ _ _ _ _ _ _ ‹_›)
    | with_reducible apply ChangesOnly.step ?_ (State.streamHw_only _ _ _ _ _)
    | with_reducible apply ChangesOnly.step ?_ (State.modStream_only _ _ _)
    | with_reducible intro _
    | split
    | dsimp only [id]

theorem execStreamWordDue_only : ∀ a0 a1 a2 a3 a4 s, Leaves [.clk, .coves, .hbm, .ctrls, .streams, .bays, .sessions, .portq, .jetty, .integ, .rot, .net, .su, .mg] s (execStreamWordDue a0 a1 a2 a3 a4 s) := by
  intro a0 a1 a2 a3 a4 s
  unfold execStreamWordDue
  repeat' first
    | with_reducible apply ChangesOnly.refl
    | exact Eq.refl true
    | with_reducible apply Leaves.next
    | with_reducible apply Leaves.occurs
    | with_reducible apply Leaves.ite
    | with_reducible apply ChangesOnly.ite
    | with_reducible apply ChangesOnly.foldl
    | with_reducible apply ChangesOnly.step ?_ (State.streamRead_only _ _ _ _ _ _ _)
    | with_reducible apply ChangesOnly.step ?_ (State.streamWrite_only _ _ _ _ _)
    | with_reducible intro _
    | split
    | dsimp only [id]

theorem execGranuleMapWrite_only : ∀ a0 s, Leaves [.ctrls] s (execGranuleMapWrite a0 s) := by
  intro a0 s
  unfold execGranuleMapWrite
  repeat' first
    | with_reducible apply ChangesOnly.refl
    | exact Eq.refl true
    | with_reducible apply Leaves.next
    | with_reducible apply Leaves.occurs
    | with_reducible apply Leaves.ite
    | with_reducible apply ChangesOnly.ite
    | with_reducible apply ChangesOnly.foldl
    | with_reducible apply ChangesOnly.step ?_ (State.modStack_only _ _ _)
    | with_reducible intro _
    | split
    | dsimp only [id]

end Sys2Proof.Machine
end

