-- ==== Sys2Proof/Laws/MemHbm.lean ====
section
/-!
SUPPORT. The operations and meanings of Machine/Hbm.lean that write HBM or the devices keep their memories in canonical form.
-/

set_option linter.unreachableTactic false
set_option linter.unusedTactic false

namespace Sys2Proof.Machine

theorem State.copyChunk_mem : ∀ s a1 a2 a3 a4, MemKept s (State.copyChunk s a1 a2 a3 a4) := by
  intro s a1 a2 a3 a4
  unfold State.copyChunk
  repeat' first
    | with_reducible apply MemKept.refl
    | exact Eq.refl true
    | with_reducible apply MemKept.ite
    | with_reducible apply MemKept.foldl
    | with_reducible apply MemKept.trans ?_ (State.landShadow_mem _ _ _ _ _)
    | with_reducible apply MemKept.step ?_ (State.found_only _ _ _ _ _)
    | with_reducible apply MemKept.trans ?_ (State.putPhys_mem _ _ _ _ _)
    | with_reducible apply MemKept.step ?_ (State.bayHw_only _ _ _ _)
    | with_reducible apply MemKept.step ?_ (State.modStack_only _ _ _)
    | with_reducible apply MemKept.step ?_ (State.readFlips_only _ _ _ _ _)
    | with_reducible intro _
    | split
    | dsimp only [id]

theorem execShadowChunkCopy_mem : ∀ a0 a1 a2 a3 a4 s, OutMemKept s (execShadowChunkCopy a0 a1 a2 a3 a4 s) := by
  intro a0 a1 a2 a3 a4 s
  unfold execShadowChunkCopy
  repeat' first
    | with_reducible apply MemKept.refl
    | exact Eq.refl true
    | with_reducible apply OutMemKept.next
    | with_reducible apply OutMemKept.occurs
    | with_reducible apply OutMemKept.ite
    | with_reducible apply MemKept.ite
    | with_reducible apply MemKept.foldl
    | with_reducible apply MemKept.trans ?_ (State.copyChunk_mem _ _ _ _ _)
    | with_reducible intro _
    | split
    | dsimp only [id]

theorem State.streamWrite_mem : ∀ s a1 a2 a3 a4, MemKept s (State.streamWrite s a1 a2 a3 a4) := by
  intro s a1 a2 a3 a4
  unfold State.streamWrite
  repeat' first
    | with_reducible apply MemKept.refl
    | exact Eq.refl true
    | with_reducible apply MemKept.ite
    | with_reducible apply MemKept.foldl
    | with_reducible apply MemKept.step ?_ (State.noteAt_only _ _ _ _ _)
    | with_reducible apply MemKept.step ?_ (State.stopBay_only _ _ _)
    | with_reducible apply MemKept.trans ?_ (State.stepWriteAt_mem _ _ _ _ _ _ _ ‹_›)
    | with_reducible apply MemKept.step ?_ (State.streamHw_only _ _ _ _ _)
    | with_reducible apply MemKept.step ?_ (State.modStream_only _ _ _)
    | with_reducible intro _
    | split
    | dsimp only [id]

theorem execStreamWordDue_mem : ∀ a0 a1 a2 a3 a4 s, OutMemKept s (execStreamWordDue a0 a1 a2 a3 a4 s) := by
  intro a0 a1 a2 a3 a4 s
  unfold execStreamWordDue
  repeat' first
    | with_reducible apply MemKept.refl
    | exact Eq.refl true
    | with_reducible apply OutMemKept.next
    | with_reducible apply OutMemKept.occurs
    | with_reducible apply OutMemKept.ite
    | with_reducible apply MemKept.ite
    | with_reducible apply MemKept.foldl
    | with_reducible apply MemKept.step ?_ (State.streamRead_only _ _ _ _ _ _ _)
    | with_reducible apply MemKept.trans ?_ (State.streamWrite_mem _ _ _ _ _)
    | with_reducible intro _
    | split
    | dsimp only [id]

end Sys2Proof.Machine
end

