-- ==== Sys2Proof/Laws/OnlyImage.lean ====
section
/-!
SUPPORT. For each operation and meaning of Machine/Image.lean: the parts of the state that it can change.
-/

set_option linter.unreachableTactic false
set_option linter.unusedTactic false

namespace Sys2Proof.Machine

theorem State.putDev_only : ∀ s a1 a2 a3, ChangesOnly [.img] s (State.putDev s a1 a2 a3) := by
  intro s a1 a2 a3
  unfold State.putDev
  repeat' first
    | with_reducible exact Or.inl rfl
    | with_reducible exact Or.inr rfl
    | exact Or.inl rfl
    | with_reducible apply ChangesOnly.refl
    | exact Eq.refl true
    | with_reducible apply ChangesOnly.ite
    | with_reducible apply ChangesOnly.foldl
    | with_reducible intro _
    | split
    | dsimp only [id]
    | with_reducible apply ChangesOnly.record

theorem State.rewriteJournal_only : ∀ s a1 a2, ChangesOnly [.img] s (State.rewriteJournal s a1 a2) := by
  intro s a1 a2
  unfold State.rewriteJournal
  repeat' first
    | with_reducible exact Or.inl rfl
    | with_reducible exact Or.inr rfl
    | exact Or.inl rfl
    | with_reducible apply ChangesOnly.refl
    | exact Eq.refl true
    | with_reducible apply ChangesOnly.ite
    | with_reducible apply ChangesOnly.foldl
    | with_reducible apply ChangesOnly.step ?_ (State.putDev_only _ _ _ _)
    | with_reducible intro _
    | split
    | dsimp only [id]
    | with_reducible apply ChangesOnly.record

theorem execJournalCompaction_only : ∀ s, Leaves [.img, .su] s (execJournalCompaction s) := by
  intro s
  unfold execJournalCompaction
  repeat' first
    | with_reducible exact Or.inl rfl
    | with_reducible exact Or.inr rfl
    | exact Or.inl rfl
    | with_reducible apply ChangesOnly.refl
    | exact Eq.refl true
    | with_reducible apply Leaves.next
    | with_reducible apply Leaves.occurs
    | with_reducible apply Leaves.ite
    | with_reducible apply ChangesOnly.ite
    | with_reducible apply ChangesOnly.foldl
    | with_reducible apply ChangesOnly.step ?_ (State.rewriteJournal_only _ _ _)
    | with_reducible intro _
    | split
    | dsimp only [id]
    | with_reducible apply ChangesOnly.record

theorem State.appendTo_only : ∀ s a1 a2, ChangesOnly [.img] s (State.appendTo s a1 a2) := by
  intro s a1 a2
  unfold State.appendTo
  repeat' first
    | with_reducible apply ChangesOnly.refl
    | exact Eq.refl true
    | with_reducible apply ChangesOnly.ite
    | with_reducible apply ChangesOnly.foldl
    | with_reducible apply ChangesOnly.step ?_ (State.putDev_only _ _ _ _)
    | with_reducible intro _
    | split
    | dsimp only [id]

theorem execJournalWrite_only : ∀ s, Leaves [.img, .su] s (execJournalWrite s) := by
  intro s
  unfold execJournalWrite
  repeat' first
    | with_reducible exact Or.inl rfl
    | with_reducible exact Or.inr rfl
    | exact Or.inl rfl
    | with_reducible apply ChangesOnly.refl
    | exact Eq.refl true
    | with_reducible apply Leaves.next
    | with_reducible apply Leaves.occurs
    | with_reducible apply Leaves.ite
    | with_reducible apply ChangesOnly.ite
    | with_reducible apply ChangesOnly.foldl
    | with_reducible apply ChangesOnly.step ?_ (State.appendTo_only _ _ _)
    | with_reducible intro _
    | split
    | dsimp only [id]
    | with_reducible apply ChangesOnly.record

end Sys2Proof.Machine
end

