-- ==== Sys2Proof/Laws/MemImage.lean ====
section
/-!
SUPPORT. The operations and meanings of Machine/Image.lean that write HBM or the devices keep their memories in canonical form.
-/

set_option linter.unreachableTactic false
set_option linter.unusedTactic false

namespace Sys2Proof.Machine

theorem State.putDev_mem : ∀ s a1 a2 a3, MemKept s (State.putDev s a1 a2 a3) := by
  intro s a1 a2 a3
  exact (MemKept.refl s).of (.inl rfl) (.inr fun h => Memory.wf_setBytes h _ _)

theorem State.rewriteJournal_mem : ∀ s a1 a2, MemKept s (State.rewriteJournal s a1 a2) := by
  intro s a1 a2
  unfold State.rewriteJournal
  refine MemKept.trans ?_ (State.putDev_mem _ _ _ _)
  exact (MemKept.refl s).of (.inl rfl) (.inr fun h => Tab.wf_filter h _)

theorem execJournalCompaction_mem : ∀ s, OutMemKept s (execJournalCompaction s) := by
  intro s
  unfold execJournalCompaction
  repeat' first
    | with_reducible exact rfl
    | with_reducible apply MemKept.refl
    | exact Eq.refl true
    | with_reducible apply OutMemKept.next
    | with_reducible apply OutMemKept.occurs
    | with_reducible apply OutMemKept.ite
    | with_reducible apply MemKept.ite
    | with_reducible apply MemKept.foldl
    | with_reducible apply MemKept.trans ?_ (State.rewriteJournal_mem _ _ _)
    | with_reducible intro _
    | split
    | dsimp only [id]
    | with_reducible apply MemKept.record

theorem State.appendTo_mem : ∀ s a1 a2, MemKept s (State.appendTo s a1 a2) := by
  intro s a1 a2
  unfold State.appendTo
  repeat' first
    | with_reducible apply MemKept.refl
    | exact Eq.refl true
    | with_reducible apply MemKept.ite
    | with_reducible apply MemKept.foldl
    | with_reducible apply MemKept.trans ?_ (State.putDev_mem _ _ _ _)
    | with_reducible intro _
    | split
    | dsimp only [id]

theorem execJournalWrite_mem : ∀ s, OutMemKept s (execJournalWrite s) := by
  intro s
  unfold execJournalWrite
  repeat' first
    | with_reducible exact rfl
    | with_reducible apply MemKept.refl
    | exact Eq.refl true
    | with_reducible apply OutMemKept.next
    | with_reducible apply OutMemKept.occurs
    | with_reducible apply OutMemKept.ite
    | with_reducible apply MemKept.ite
    | with_reducible apply MemKept.foldl
    | with_reducible apply MemKept.trans ?_ (State.appendTo_mem _ _ _)
    | with_reducible intro _
    | split
    | dsimp only [id]
    | with_reducible apply MemKept.record

end Sys2Proof.Machine
end

