-- ==== Sys2Proof/Laws/OnlyAttest.lean ====
section
/-!
SUPPORT. For each operation and meaning of Machine/Attest.lean: the parts of the state that it can change.
-/

set_option linter.unreachableTactic false
set_option linter.unusedTactic false

namespace Sys2Proof.Machine

theorem State.identErr_only : ∀ s a1, ChangesOnly [.ident] s (State.identErr s a1) := by
  intro s a1
  unfold State.identErr
  repeat' first
    | with_reducible exact Or.inl rfl
    | with_reducible exact Or.inr rfl
    | exact Or.inl rfl
    | with_reducible apply ChangesOnly.refl
    | exact Eq.refl true
    | with_reducible apply ChangesOnly.ite
    | with_reducible apply ChangesOnly.foldl
    | with_reducible intro _
    | split
    | dsimp only [id]
    | with_reducible apply ChangesOnly.record

theorem execAttest_only : ∀ a0 s, Leaves [.sessions, .portq, .jetty, .ident] s (execAttest a0 s) := by
  intro a0 s
  unfold execAttest
  repeat' first
    | with_reducible exact Or.inl rfl
    | with_reducible exact Or.inr rfl
    | exact Or.inl rfl
    | with_reducible apply ChangesOnly.refl
    | with_reducible apply State.parse_only
    | exact Eq.refl true
    | with_reducible apply Leaves.next
    | with_reducible apply Leaves.occurs
    | with_reducible apply Leaves.ite
    | with_reducible apply ChangesOnly.ite
    | with_reducible apply ChangesOnly.foldl
    | with_reducible apply ChangesOnly.step ?_ (State.identErr_only _ _)
    | with_reducible apply ChangesOnly.step ?_ (State.refuse_only _ _ _)
    | with_reducible apply ChangesOnly.step ?_ (State.acceptLong_only _ _)
    | with_reducible intro _
    | split
    | dsimp only [id]
    | with_reducible apply ChangesOnly.record

theorem execAttestTokenComplete_only : ∀ s, Leaves [.sessions, .portq, .jetty, .ident] s (execAttestTokenComplete s) := by
  intro s
  unfold execAttestTokenComplete
  repeat' first
    | with_reducible exact Or.inl rfl
    | with_reducible exact Or.inr rfl
    | exact Or.inl rfl
    | with_reducible apply ChangesOnly.refl
    | exact Eq.refl true
    | with_reducible apply Leaves.next
    | with_reducible apply Leaves.occurs
    | with_reducible apply Leaves.ite
    | with_reducible apply ChangesOnly.ite
    | with_reducible apply ChangesOnly.foldl
    | with_reducible apply ChangesOnly.step ?_ (State.complete_only _ _ _)
    | with_reducible intro _
    | split
    | dsimp only [id]
    | with_reducible apply ChangesOnly.record

end Sys2Proof.Machine
end

