-- ==== Sys2Proof/Laws/OnlyManagement.lean ====
section
/-!
SUPPORT. For each operation and meaning of Machine/Management.lean: the parts of the state that it can change.
-/

set_option linter.unreachableTactic false
set_option linter.unusedTactic false

namespace Sys2Proof.Machine

theorem State.present_only : ∀ s a1, ChangesOnly [.mg] s (State.present s a1) := by
  intro s a1
  unfold State.present
  repeat' first
    | with_reducible exact Or.inl rfl
    | with_reducible exact Or.inr rfl
    | exact Or.inl rfl
    | with_reducible apply ChangesOnly.refl
    | exact Eq.refl true
    | with_reducible apply ChangesOnly.ite
    | with_reducible apply ChangesOnly.foldl
    | with_reducible intro _
    | split
    | dsimp only [id]
    | with_reducible apply ChangesOnly.record

theorem State.presentNone_only : ∀ s a1, ChangesOnly [.mg] s (State.presentNone s a1) := by
  intro s a1
  unfold State.presentNone
  repeat' first
    | with_reducible exact Or.inl rfl
    | with_reducible exact Or.inr rfl
    | exact Or.inl rfl
    | with_reducible apply ChangesOnly.refl
    | exact Eq.refl true
    | with_reducible apply ChangesOnly.ite
    | with_reducible apply ChangesOnly.foldl
    | with_reducible intro _
    | split
    | dsimp only [id]
    | with_reducible apply ChangesOnly.record

theorem execLogFetchComplete_only : ∀ s, Leaves [.mg] s (execLogFetchComplete s) := by
  intro s
  unfold execLogFetchComplete
  repeat' first
    | with_reducible apply ChangesOnly.refl
    | exact Eq.refl true
    | with_reducible apply Leaves.next
    | with_reducible apply Leaves.occurs
    | with_reducible apply Leaves.ite
    | with_reducible apply ChangesOnly.ite
    | with_reducible apply ChangesOnly.foldl
    | with_reducible apply ChangesOnly.step ?_ (State.present_only _ _)
    | with_reducible apply ChangesOnly.step ?_ (State.presentNone_only _ _)
    | with_reducible intro _
    | split
    | dsimp only [id]

theorem State.nvRefuse_only : ∀ s a1, ChangesOnly [.mg] s (State.nvRefuse s a1) := by
  intro s a1
  unfold State.nvRefuse
  repeat' first
    | with_reducible exact Or.inl rfl
    | with_reducible exact Or.inr rfl
    | exact Or.inl rfl
    | with_reducible apply ChangesOnly.refl
    | exact Eq.refl true
    | with_reducible apply ChangesOnly.ite
    | with_reducible apply ChangesOnly.foldl
    | with_reducible intro _
    | split
    | dsimp only [id]
    | with_reducible apply ChangesOnly.record

theorem State.nvBegin_only : ∀ s a1, ChangesOnly [.mg] s (State.nvBegin s a1) := by
  intro s a1
  unfold State.nvBegin
  repeat' first
    | with_reducible exact Or.inl rfl
    | with_reducible exact Or.inr rfl
    | exact Or.inl rfl
    | with_reducible apply ChangesOnly.refl
    | exact Eq.refl true
    | with_reducible apply ChangesOnly.ite
    | with_reducible apply ChangesOnly.foldl
    | with_reducible intro _
    | split
    | dsimp only [id]
    | with_reducible apply ChangesOnly.record

theorem execNvGoOwnerRecord_only : ∀ a0 s, Leaves [.ident, .mg] s (execNvGoOwnerRecord a0 s) := by
  intro a0 s
  unfold execNvGoOwnerRecord
  repeat' first
    | with_reducible apply ChangesOnly.refl
    | exact Eq.refl true
    | with_reducible apply Leaves.next
    | with_reducible apply Leaves.occurs
    | with_reducible apply Leaves.ite
    | with_reducible apply ChangesOnly.ite
    | with_reducible apply ChangesOnly.foldl
    | with_reducible apply ChangesOnly.step ?_ (State.nvRefuse_only _ _)
    | with_reducible apply ChangesOnly.step ?_ (State.identErr_only _ _)
    | with_reducible apply ChangesOnly.step ?_ (State.nvBegin_only _ _)
    | with_reducible intro _
    | split
    | dsimp only [id]

theorem execNvGoSlotChunk_only : ∀ a0 s, Leaves [.mg] s (execNvGoSlotChunk a0 s) := by
  intro a0 s
  unfold execNvGoSlotChunk
  repeat' first
    | with_reducible apply ChangesOnly.refl
    | exact Eq.refl true
    | with_reducible apply Leaves.next
    | with_reducible apply Leaves.occurs
    | with_reducible apply Leaves.ite
    | with_reducible apply ChangesOnly.ite
    | with_reducible apply ChangesOnly.foldl
    | with_reducible apply ChangesOnly.step ?_ (State.nvRefuse_only _ _)
    | with_reducible apply ChangesOnly.step ?_ (State.nvBegin_only _ _)
    | with_reducible intro _
    | split
    | dsimp only [id]

theorem execLogDeviceCopy_only : ∀ s, Leaves [.img, .mg] s (execLogDeviceCopy s) := by
  intro s
  unfold execLogDeviceCopy
  repeat' first
    | with_reducible exact Or.inl rfl
    | with_reducible exact Or.inr rfl
    | exact Or.inl rfl
    | with_reducible apply ChangesOnly.refl
    | exact Eq.refl true
    | with_reducible apply Leaves.next
    | with_reducible apply Leaves.occurs
    | with_reducible apply Leaves.ite
    | with_reducible apply ChangesOnly.ite
    | with_reducible apply ChangesOnly.foldl
    | with_reducible apply ChangesOnly.step ?_ (State.putDev_only _ _ _ _)
    | with_reducible intro _
    | split
    | dsimp only [id]
    | with_reducible apply ChangesOnly.record

theorem execNvWriteComplete_only : ∀ s, Leaves [.img, .mg] s (execNvWriteComplete s) := by
  intro s
  unfold execNvWriteComplete
  repeat' first
    | with_reducible exact Or.inl rfl
    | with_reducible exact Or.inr rfl
    | exact Or.inl rfl
    | with_reducible apply ChangesOnly.refl
    | exact Eq.refl true
    | with_reducible apply Leaves.next
    | with_reducible apply Leaves.occurs
    | with_reducible apply Leaves.ite
    | with_reducible apply ChangesOnly.ite
    | with_reducible apply ChangesOnly.foldl
    | with_reducible intro _
    | split
    | dsimp only [id]
    | with_reducible apply ChangesOnly.record

theorem execMgLogSelWrite_only : ∀ a0 a1 s, Leaves [.mg] s (execMgLogSelWrite a0 a1 s) := by
  intro a0 a1 s
  unfold execMgLogSelWrite
  repeat' first
    | with_reducible exact Or.inl rfl
    | with_reducible exact Or.inr rfl
    | exact Or.inl rfl
    | with_reducible apply ChangesOnly.refl
    | exact Eq.refl true
    | with_reducible apply Leaves.next
    | with_reducible apply Leaves.occurs
    | with_reducible apply Leaves.ite
    | with_reducible apply ChangesOnly.ite
    | with_reducible apply ChangesOnly.foldl
    | with_reducible apply ChangesOnly.step ?_ (State.present_only _ _)
    | with_reducible apply ChangesOnly.step ?_ (State.presentNone_only _ _)
    | with_reducible intro _
    | split
    | dsimp only [id]
    | with_reducible apply ChangesOnly.record

theorem execIdLoRead_only : ∀ a0 a1 s, Leaves [.latches] s (execIdLoRead a0 a1 s) := by
  intro a0 a1 s
  unfold execIdLoRead
  repeat' first
    | with_reducible apply ChangesOnly.refl
    | exact Eq.refl true
    | with_reducible apply Leaves.next
    | with_reducible apply Leaves.occurs
    | with_reducible apply Leaves.ite
    | with_reducible apply ChangesOnly.ite
    | with_reducible apply ChangesOnly.foldl
    | with_reducible apply ChangesOnly.step ?_ (State.latch_only _ _ _ _)
    | with_reducible intro _
    | split
    | dsimp only [id]

end Sys2Proof.Machine
end

