-- ==== Sys2Proof/Laws/MemManagement.lean ====
section
/-!
SUPPORT. The operations and meanings of Machine/Management.lean that write HBM or the devices keep their memories in canonical form.
-/

set_option linter.unreachableTactic false
set_option linter.unusedTactic false

namespace Sys2Proof.Machine

theorem execLogDeviceCopy_mem : ∀ s, OutMemKept s (execLogDeviceCopy s) := by
  intro s
  unfold execLogDeviceCopy
  repeat' first
    | with_reducible exact rfl
    | with_reducible apply MemKept.refl
    | exact Eq.refl true
    | with_reducible apply OutMemKept.next
    | with_reducible apply OutMemKept.occurs
    | with_reducible apply OutMemKept.ite
    | with_reducible apply MemKept.ite
    | with_reducible apply MemKept.foldl
    | with_reducible apply MemKept.trans ?_ (State.putDev_mem _ _ _ _)
    | with_reducible intro _
    | split
    | dsimp only [id]
    | with_reducible apply MemKept.record

theorem nvTodo_wf (l : List (Nat × List Byte)) : ∀ m : Memory, Memory.wf m = true →
    Memory.wf (l.foldl (fun (m : Memory) w => memSetBytes m w.1 w.2) m) = true := by
  induction l with
  | nil => exact fun _ h => h
  | cons w l ih => exact fun m h => ih _ (Memory.wf_setBytes h _ _)

theorem execNvWriteComplete_mem (s : State) : OutMemKept s (execNvWriteComplete s) :=
  OutMemKept.occurs ((MemKept.refl s).of (.inl rfl) (.inr (nvTodo_wf _ _)))

end Sys2Proof.Machine
end

