-- ==== Sys2Proof/Laws/OnlyPower.lean ====
section
/-!
SUPPORT. For each operation and meaning of Machine/Power.lean: the parts of the state that it can change.
-/

set_option linter.unreachableTactic false
set_option linter.unusedTactic false

namespace Sys2Proof.Machine

theorem State.pwrError_only : ∀ s a1, ChangesOnly [.pwr, .mg] s (State.pwrError s a1) := by
  intro s a1
  unfold State.pwrError
  repeat' first
    | with_reducible exact Or.inl rfl
    | with_reducible exact Or.inr rfl
    | exact Or.inl rfl
    | with_reducible apply ChangesOnly.refl
    | exact Eq.refl true
    | with_reducible apply ChangesOnly.ite
    | with_reducible apply ChangesOnly.foldl
    | with_reducible apply ChangesOnly.step ?_ (State.log_only _ _)
    | with_reducible intro _
    | split
    | dsimp only [id]
    | with_reducible apply ChangesOnly.record

theorem execEmergencyGlide_only : ∀ a0 a1 s, Leaves [.pwr, .mg] s (execEmergencyGlide a0 a1 s) := by
  intro a0 a1 s
  unfold execEmergencyGlide
  repeat' first
    | with_reducible exact Or.inl rfl
    | with_reducible exact Or.inr rfl
    | exact Or.inl rfl
    | with_reducible apply ChangesOnly.refl
    | exact Eq.refl true
    | with_reducible apply Leaves.next
    | with_reducible apply Leaves.occurs
    | with_reducible apply Leaves.ite
    | with_reducible apply ChangesOnly.ite
    | with_reducible apply ChangesOnly.foldl
    | with_reducible apply ChangesOnly.step ?_ (State.pwrError_only _ _)
    | with_reducible intro _
    | split
    | dsimp only [id]
    | with_reducible apply ChangesOnly.record

theorem State.modTelem_only : ∀ s a1 a2, ChangesOnly [.coves] s (State.modTelem s a1 a2) := by
  intro s a1 a2
  unfold State.modTelem
  repeat' first
    | with_reducible apply ChangesOnly.refl
    | exact Eq.refl true
    | with_reducible apply ChangesOnly.ite
    | with_reducible apply ChangesOnly.foldl
    | with_reducible apply ChangesOnly.step ?_ (State.modCove_only _ _ _)
    | with_reducible intro _
    | split
    | dsimp only [id]

theorem execDroopTrip_only : ∀ a0 s, Leaves [.clk, .coves, .pwr] s (execDroopTrip a0 s) := by
  intro a0 s
  unfold execDroopTrip
  repeat' first
    | with_reducible exact Or.inl rfl
    | with_reducible exact Or.inr rfl
    | exact Or.inl rfl
    | with_reducible apply ChangesOnly.refl
    | exact Eq.refl true
    | with_reducible apply Leaves.next
    | with_reducible apply Leaves.occurs
    | with_reducible apply Leaves.ite
    | with_reducible apply ChangesOnly.ite
    | with_reducible apply ChangesOnly.foldl
    | with_reducible apply ChangesOnly.step ?_ (State.modHalf_only _ _ _)
    | with_reducible apply ChangesOnly.step ?_ (State.modTelem_only _ _ _)
    | with_reducible intro _
    | split
    | dsimp only [id]
    | with_reducible apply ChangesOnly.record

theorem execJunctionOvertemp_only : ∀ a0 a1 s, Leaves [.coves, .ctrls, .streams, .bays, .net, .pwr, .pwrx, .mg] s (execJunctionOvertemp a0 a1 s) := by
  intro a0 a1 s
  unfold execJunctionOvertemp
  repeat' first
    | with_reducible exact Or.inl rfl
    | with_reducible exact Or.inr rfl
    | exact Or.inl rfl
    | with_reducible apply ChangesOnly.refl
    | exact Eq.refl true
    | with_reducible apply Leaves.next
    | with_reducible apply Leaves.occurs
    | with_reducible apply Leaves.ite
    | with_reducible apply ChangesOnly.ite
    | with_reducible apply ChangesOnly.foldl
    | with_reducible apply ChangesOnly.step ?_ (State.pwrError_only _ _)
    | with_reducible apply ChangesOnly.step ?_ (State.park_only _ _)
    | with_reducible apply ChangesOnly.step ?_ (State.modTelem_only _ _ _)
    | with_reducible intro _
    | split
    | dsimp only [id]
    | with_reducible apply ChangesOnly.record

theorem State.requestAt_only : ∀ s a1 a2 a3, ChangesOnly [.clk] s (State.requestAt s a1 a2 a3) := by
  intro s a1 a2 a3
  unfold State.requestAt
  repeat' first
    | with_reducible apply ChangesOnly.refl
    | exact Eq.refl true
    | with_reducible apply ChangesOnly.ite
    | with_reducible apply ChangesOnly.foldl
    | with_reducible apply ChangesOnly.step ?_ (State.requestPoints_only _ _ _)
    | with_reducible intro _
    | split
    | dsimp only [id]

theorem State.openSwitch_only : ∀ s, ChangesOnly [.clk, .coves, .hbm, .ctrls, .streams, .bays, .sessions, .qps, .ports, .portq, .jetty, .rot, .net, .pwr, .pwrx, .su, .ident, .pins] s (State.openSwitch s) := by
  intro s
  unfold State.openSwitch
  repeat' first
    | with_reducible exact Or.inl rfl
    | with_reducible exact Or.inr rfl
    | exact Or.inl rfl
    | with_reducible apply ChangesOnly.refl
    | exact Eq.refl true
    | with_reducible apply ChangesOnly.ite
    | with_reducible apply ChangesOnly.foldl
    | with_reducible apply ChangesOnly.step ?_ (State.holdAtS4_only _)
    | with_reducible apply ChangesOnly.step ?_ (State.mainOff_only _)
    | with_reducible intro _
    | split
    | dsimp only [id]
    | with_reducible apply ChangesOnly.record

theorem State.mateCycle_only : ∀ s, ChangesOnly [.clk, .coves, .hbm, .ctrls, .streams, .bays, .sessions, .qps, .ports, .portq, .jetty, .rot, .net, .pwr, .pwrx, .su, .ident, .pins] s (State.mateCycle s) := by
  intro s
  unfold State.mateCycle
  repeat' first
    | with_reducible apply ChangesOnly.refl
    | exact Eq.refl true
    | with_reducible apply ChangesOnly.ite
    | with_reducible apply ChangesOnly.foldl
    | with_reducible apply ChangesOnly.step ?_ (State.linkDown_only _ _)
    | with_reducible apply ChangesOnly.step ?_ (State.openSwitch_only _)
    | with_reducible apply ChangesOnly.step ?_ (State.park_only _ _)
    | with_reducible intro _
    | split
    | dsimp only [id]

theorem execPwrHintMvWrite_only : ∀ a0 a1 s, Leaves [.pwr] s (execPwrHintMvWrite a0 a1 s) := by
  intro a0 a1 s
  unfold execPwrHintMvWrite
  repeat' first
    | with_reducible exact Or.inl rfl
    | with_reducible exact Or.inr rfl
    | exact Or.inl rfl
    | with_reducible apply ChangesOnly.refl
    | exact Eq.refl true
    | with_reducible apply Leaves.next
    | with_reducible apply Leaves.occurs
    | with_reducible apply Leaves.ite
    | with_reducible apply ChangesOnly.ite
    | with_reducible apply ChangesOnly.foldl
    | with_reducible intro _
    | split
    | dsimp only [id]
    | with_reducible apply ChangesOnly.record

theorem State.raiseUnmet_only : ∀ s, ChangesOnly [.sessions, .portq, .pwr, .mg] s (State.raiseUnmet s) := by
  intro s
  unfold State.raiseUnmet
  repeat' first
    | with_reducible exact Or.inl rfl
    | with_reducible exact Or.inr rfl
    | exact Or.inl rfl
    | with_reducible apply ChangesOnly.refl
    | exact Eq.refl true
    | with_reducible apply ChangesOnly.ite
    | with_reducible apply ChangesOnly.foldl
    | with_reducible apply ChangesOnly.step ?_ (State.pwrError_only _ _)
    | with_reducible apply ChangesOnly.step ?_ (State.eventAll_only _ _ _)
    | with_reducible intro _
    | split
    | dsimp only [id]
    | with_reducible apply ChangesOnly.record

theorem execMainInputReturn_only : ∀ s, Leaves [.pwr, .su, .pins] s (execMainInputReturn s) := by
  intro s
  unfold execMainInputReturn
  repeat' first
    | with_reducible exact Or.inl rfl
    | with_reducible exact Or.inr rfl
    | exact Or.inl rfl
    | with_reducible apply ChangesOnly.refl
    | exact Eq.refl true
    | with_reducible apply Leaves.next
    | with_reducible apply Leaves.occurs
    | with_reducible apply Leaves.ite
    | with_reducible apply ChangesOnly.ite
    | with_reducible apply ChangesOnly.foldl
    | with_reducible apply ChangesOnly.step ?_ (State.resumeS4_only _)
    | with_reducible apply ChangesOnly.step ?_ (State.unpark_only _ _)
    | with_reducible intro _
    | split
    | dsimp only [id]
    | with_reducible apply ChangesOnly.record

theorem State.loseAux_only : ∀ s, ChangesOnly [.clk, .coves, .hbm, .ctrls, .streams, .bays, .sessions, .qps, .ports, .portq, .jetty, .rot, .net, .pwr, .pwrx, .su, .ident, .pins] s (State.loseAux s) := by
  intro s
  unfold State.loseAux
  repeat' first
    | with_reducible exact Or.inl rfl
    | with_reducible exact Or.inr rfl
    | exact Or.inl rfl
    | with_reducible apply ChangesOnly.refl
    | exact Eq.refl true
    | with_reducible apply ChangesOnly.ite
    | with_reducible apply ChangesOnly.foldl
    | with_reducible apply ChangesOnly.step ?_ (State.mainOff_only _)
    | with_reducible intro _
    | split
    | dsimp only [id]
    | with_reducible apply ChangesOnly.record

theorem State.holdupCycle_only : ∀ s, ChangesOnly [.clk, .coves, .hbm, .ctrls, .streams, .bays, .sessions, .qps, .ports, .portq, .jetty, .rot, .net, .pwr, .pwrx, .su, .ident, .pins] s (State.holdupCycle s) := by
  intro s
  unfold State.holdupCycle
  repeat' first
    | with_reducible exact Or.inl rfl
    | with_reducible exact Or.inr rfl
    | exact Or.inl rfl
    | with_reducible apply ChangesOnly.refl
    | exact Eq.refl true
    | with_reducible apply ChangesOnly.ite
    | with_reducible apply ChangesOnly.foldl
    | with_reducible apply ChangesOnly.step ?_ (State.linkDown_only _ _)
    | with_reducible apply ChangesOnly.step ?_ (State.loseAux_only _)
    | with_reducible apply ChangesOnly.step ?_ (State.park_only _ _)
    | with_reducible apply ChangesOnly.step ?_ (State.mainOff_only _)
    | with_reducible intro _
    | split
    | dsimp only [id]
    | with_reducible apply ChangesOnly.record

theorem State.clearUnmet_only : ∀ s a1, ChangesOnly [.sessions, .portq, .pwr] s (State.clearUnmet s a1) := by
  intro s a1
  unfold State.clearUnmet
  repeat' first
    | with_reducible exact Or.inl rfl
    | with_reducible exact Or.inr rfl
    | exact Or.inl rfl
    | with_reducible apply ChangesOnly.refl
    | exact Eq.refl true
    | with_reducible apply ChangesOnly.ite
    | with_reducible apply ChangesOnly.foldl
    | with_reducible apply ChangesOnly.step ?_ (State.eventAll_only _ _ _)
    | with_reducible intro _
    | split
    | dsimp only [id]
    | with_reducible apply ChangesOnly.record

theorem execHintVoltageRaise_only : ∀ a0 s, Leaves [.bays] s (execHintVoltageRaise a0 s) := by
  intro a0 s
  unfold execHintVoltageRaise
  repeat' first
    | with_reducible apply ChangesOnly.refl
    | exact Eq.refl true
    | with_reducible apply Leaves.next
    | with_reducible apply Leaves.occurs
    | with_reducible apply Leaves.ite
    | with_reducible apply ChangesOnly.ite
    | with_reducible apply ChangesOnly.foldl
    | with_reducible apply ChangesOnly.step ?_ (State.modBay_only _ _ _)
    | with_reducible intro _
    | split
    | dsimp only [id]

theorem execPwrOpTargetWrite_only : ∀ a0 a1 s, Leaves [.pwr] s (execPwrOpTargetWrite a0 a1 s) := by
  intro a0 a1 s
  unfold execPwrOpTargetWrite
  repeat' first
    | with_reducible exact Or.inl rfl
    | with_reducible exact Or.inr rfl
    | exact Or.inl rfl
    | with_reducible apply ChangesOnly.refl
    | exact Eq.refl true
    | with_reducible apply Leaves.next
    | with_reducible apply Leaves.occurs
    | with_reducible apply Leaves.ite
    | with_reducible apply ChangesOnly.ite
    | with_reducible apply ChangesOnly.foldl
    | with_reducible intro _
    | split
    | dsimp only [id]
    | with_reducible apply ChangesOnly.record

theorem State.spareTests_only : ∀ s, ChangesOnly [.rot] s (State.spareTests s) := by
  intro s
  unfold State.spareTests
  repeat' first
    | with_reducible apply ChangesOnly.refl
    | exact Eq.refl true
    | with_reducible apply ChangesOnly.ite
    | with_reducible apply ChangesOnly.foldl
    | with_reducible apply ChangesOnly.step ?_ (State.abandonTests_only _ _)
    | with_reducible intro _
    | split
    | dsimp only [id]

theorem execParkEnd_only : ∀ s, Leaves [.pwr] s (execParkEnd s) := by
  intro s
  unfold execParkEnd
  repeat' first
    | with_reducible apply ChangesOnly.refl
    | exact Eq.refl true
    | with_reducible apply Leaves.next
    | with_reducible apply Leaves.occurs
    | with_reducible apply Leaves.ite
    | with_reducible apply ChangesOnly.ite
    | with_reducible apply ChangesOnly.foldl
    | with_reducible apply ChangesOnly.step ?_ (State.unpark_only _ _)
    | with_reducible intro _
    | split
    | dsimp only [id]

theorem State.capBay_only : ∀ s a1 a2 a3, ChangesOnly [.bays, .pwr, .mg] s (State.capBay s a1 a2 a3) := by
  intro s a1 a2 a3
  unfold State.capBay
  repeat' first
    | with_reducible exact Or.inl rfl
    | with_reducible exact Or.inr rfl
    | exact Or.inl rfl
    | with_reducible apply ChangesOnly.refl
    | exact Eq.refl true
    | with_reducible apply ChangesOnly.ite
    | with_reducible apply ChangesOnly.foldl
    | with_reducible apply ChangesOnly.step ?_ (State.modBay_only _ _ _)
    | with_reducible apply ChangesOnly.step ?_ (State.logBay_only _ _ _)
    | with_reducible intro _
    | split
    | dsimp only [id]
    | with_reducible apply ChangesOnly.record

theorem State.raisePower_only : ∀ s a1 a2, ChangesOnly [.clk, .pwr] s (State.raisePower s a1 a2) := by
  intro s a1 a2
  unfold State.raisePower
  repeat' first
    | with_reducible exact Or.inl rfl
    | with_reducible exact Or.inr rfl
    | exact Or.inl rfl
    | with_reducible apply ChangesOnly.refl
    | exact Eq.refl true
    | with_reducible apply ChangesOnly.ite
    | with_reducible apply ChangesOnly.foldl
    | with_reducible apply ChangesOnly.step ?_ (State.requestAt_only _ _ _ _)
    | with_reducible intro _
    | split
    | dsimp only [id]
    | with_reducible apply ChangesOnly.record

theorem State.lowerPower_only : ∀ s a1 a2 a3, ChangesOnly [.clk, .sessions, .portq, .pwr, .mg] s (State.lowerPower s a1 a2 a3) := by
  intro s a1 a2 a3
  unfold State.lowerPower
  repeat' first
    | with_reducible exact Or.inl rfl
    | with_reducible exact Or.inr rfl
    | exact Or.inl rfl
    | with_reducible apply ChangesOnly.refl
    | exact Eq.refl true
    | with_reducible apply ChangesOnly.ite
    | with_reducible apply ChangesOnly.foldl
    | with_reducible apply ChangesOnly.step ?_ (State.requestAt_only _ _ _ _)
    | with_reducible apply ChangesOnly.step ?_ (State.raiseUnmet_only _)
    | with_reducible intro _
    | split
    | dsimp only [id]
    | with_reducible apply ChangesOnly.record

theorem execControlPeriod_only : ∀ a0 s, Leaves [.clk, .bays, .sessions, .portq, .rot, .pwr, .pwrx, .mg] s (execControlPeriod a0 s) := by
  intro a0 s
  unfold execControlPeriod
  repeat' first
    | with_reducible exact Or.inl rfl
    | with_reducible exact Or.inr rfl
    | exact Or.inl rfl
    | with_reducible apply ChangesOnly.refl
    | exact Eq.refl true
    | with_reducible apply Leaves.next
    | with_reducible apply Leaves.occurs
    | with_reducible apply Leaves.ite
    | with_reducible apply ChangesOnly.ite
    | with_reducible apply ChangesOnly.foldl
    | with_reducible apply ChangesOnly.step ?_ (State.capBay_only _ _ _ _)
    | with_reducible apply ChangesOnly.step ?_ (State.spareTests_only _)
    | with_reducible apply ChangesOnly.step ?_ (State.raisePower_only _ _ _)
    | with_reducible apply ChangesOnly.step ?_ (State.clearUnmet_only _ _)
    | with_reducible apply ChangesOnly.step ?_ (State.lowerPower_only _ _ _ _)
    | with_reducible intro _
    | split
    | dsimp only [id]
    | with_reducible apply ChangesOnly.record

theorem execMainInputLow_only : ∀ s, Leaves [.clk, .coves, .hbm, .ctrls, .streams, .bays, .sessions, .qps, .ports, .portq, .jetty, .rot, .net, .pwr, .pwrx, .su, .ident, .mg, .pins] s (execMainInputLow s) := by
  intro s
  unfold execMainInputLow
  repeat' first
    | with_reducible exact Or.inl rfl
    | with_reducible exact Or.inr rfl
    | exact Or.inl rfl
    | with_reducible apply ChangesOnly.refl
    | exact Eq.refl true
    | with_reducible apply Leaves.next
    | with_reducible apply Leaves.occurs
    | with_reducible apply Leaves.ite
    | with_reducible apply ChangesOnly.ite
    | with_reducible apply ChangesOnly.foldl
    | with_reducible apply ChangesOnly.step ?_ (State.pwrError_only _ _)
    | with_reducible apply ChangesOnly.step ?_ (State.holdAtS4_only _)
    | with_reducible apply ChangesOnly.step ?_ (State.loseAux_only _)
    | with_reducible apply ChangesOnly.step ?_ (State.mainOff_only _)
    | with_reducible intro _
    | split
    | dsimp only [id]
    | with_reducible apply ChangesOnly.record

theorem State.sampleCycle_only : ∀ s, ChangesOnly [.free, .pwr, .pwrx] s (State.sampleCycle s) := by
  intro s
  unfold State.sampleCycle
  repeat' first
    | with_reducible exact Or.inl rfl
    | with_reducible exact Or.inr rfl
    | exact Or.inl rfl
    | with_reducible apply ChangesOnly.refl
    | exact Eq.refl true
    | with_reducible apply ChangesOnly.ite
    | with_reducible apply ChangesOnly.foldl
    | with_reducible intro _
    | split
    | dsimp only [id]
    | with_reducible apply ChangesOnly.record

theorem execEmergencyGlideStop_only : ∀ a0 s, Leaves [.pwr] s (execEmergencyGlideStop a0 s) := by
  intro a0 s
  unfold execEmergencyGlideStop
  repeat' first
    | with_reducible exact Or.inl rfl
    | with_reducible exact Or.inr rfl
    | exact Or.inl rfl
    | with_reducible apply ChangesOnly.refl
    | exact Eq.refl true
    | with_reducible apply Leaves.next
    | with_reducible apply Leaves.occurs
    | with_reducible apply Leaves.ite
    | with_reducible apply ChangesOnly.ite
    | with_reducible apply ChangesOnly.foldl
    | with_reducible intro _
    | split
    | dsimp only [id]
    | with_reducible apply ChangesOnly.record

theorem State.lastNotice_only : ∀ s a1, ChangesOnly [.sessions, .ports, .portq] s (State.lastNotice s a1) := by
  intro s a1
  unfold State.lastNotice
  repeat' first
    | with_reducible apply ChangesOnly.refl
    | exact Eq.refl true
    | with_reducible apply ChangesOnly.ite
    | with_reducible apply ChangesOnly.foldl
    | with_reducible apply ChangesOnly.step ?_ (State.modPortQ_only _ _ _)
    | with_reducible apply ChangesOnly.step ?_ (State.sendSess_only _ _ _ _)
    | with_reducible apply ChangesOnly.step ?_ (State.ethCount_only _ _ _ _)
    | with_reducible intro _
    | split
    | dsimp only [id]

theorem execAuxInputLoss_only : ∀ s, Leaves [.clk, .coves, .hbm, .ctrls, .streams, .bays, .sessions, .qps, .ports, .portq, .jetty, .rot, .net, .pwr, .pwrx, .su, .ident, .mg, .pins] s (execAuxInputLoss s) := by
  intro s
  unfold execAuxInputLoss
  repeat' first
    | with_reducible exact Or.inl rfl
    | with_reducible exact Or.inr rfl
    | exact Or.inl rfl
    | with_reducible apply ChangesOnly.refl
    | exact Eq.refl true
    | with_reducible apply Leaves.next
    | with_reducible apply Leaves.occurs
    | with_reducible apply Leaves.ite
    | with_reducible apply ChangesOnly.ite
    | with_reducible apply ChangesOnly.foldl
    | with_reducible apply ChangesOnly.step ?_ (State.modPort_only _ _ _)
    | with_reducible apply ChangesOnly.step ?_ (State.pwrError_only _ _)
    | with_reducible apply ChangesOnly.step ?_ (State.lastNotice_only _ _)
    | with_reducible apply ChangesOnly.step ?_ (State.loseAux_only _)
    | with_reducible intro _
    | split
    | dsimp only [id]
    | with_reducible apply ChangesOnly.record

theorem State.giveEnergy_only : ∀ s a1 a2, ChangesOnly [.bays, .sessions] s (State.giveEnergy s a1 a2) := by
  intro s a1 a2
  unfold State.giveEnergy
  repeat' first
    | with_reducible apply ChangesOnly.refl
    | exact Eq.refl true
    | with_reducible apply ChangesOnly.ite
    | with_reducible apply ChangesOnly.foldl
    | with_reducible apply ChangesOnly.step ?_ (State.modSess_only _ _ _)
    | with_reducible apply ChangesOnly.step ?_ (State.modBay_only _ _ _)
    | with_reducible intro _
    | split
    | dsimp only [id]

theorem execEnergyUpdate_only : ∀ a0 s, Leaves [.bays, .sessions, .pwrx] s (execEnergyUpdate a0 s) := by
  intro a0 s
  unfold execEnergyUpdate
  repeat' first
    | with_reducible exact Or.inl rfl
    | with_reducible exact Or.inr rfl
    | exact Or.inl rfl
    | with_reducible apply ChangesOnly.refl
    | exact Eq.refl true
    | with_reducible apply Leaves.next
    | with_reducible apply Leaves.occurs
    | with_reducible apply Leaves.ite
    | with_reducible apply ChangesOnly.ite
    | with_reducible apply ChangesOnly.foldl
    | with_reducible apply ChangesOnly.step ?_ (State.modSess_only _ _ _)
    | with_reducible apply ChangesOnly.step ?_ (State.modBay_only _ _ _)
    | with_reducible apply ChangesOnly.step ?_ (State.giveEnergy_only _ _ _)
    | with_reducible intro _
    | split
    | dsimp only [id]
    | with_reducible apply ChangesOnly.record

theorem execMainInputHigh_only : ∀ s, Leaves [.clk, .coves, .hbm, .ctrls, .streams, .bays, .sessions, .qps, .ports, .portq, .jetty, .rot, .net, .pwr, .pwrx, .su, .ident, .mg, .pins] s (execMainInputHigh s) := by
  intro s
  unfold execMainInputHigh
  repeat' first
    | with_reducible exact Or.inl rfl
    | with_reducible exact Or.inr rfl
    | exact Or.inl rfl
    | with_reducible apply ChangesOnly.refl
    | exact Eq.refl true
    | with_reducible apply Leaves.next
    | with_reducible apply Leaves.occurs
    | with_reducible apply Leaves.ite
    | with_reducible apply ChangesOnly.ite
    | with_reducible apply ChangesOnly.foldl
    | with_reducible apply ChangesOnly.step ?_ (State.pwrError_only _ _)
    | with_reducible apply ChangesOnly.step ?_ (State.holdAtS4_only _)
    | with_reducible apply ChangesOnly.step ?_ (State.loseAux_only _)
    | with_reducible apply ChangesOnly.step ?_ (State.park_only _ _)
    | with_reducible apply ChangesOnly.step ?_ (State.mainOff_only _)
    | with_reducible intro _
    | split
    | dsimp only [id]
    | with_reducible apply ChangesOnly.record

theorem execRegulatorPhaseFail_only : ∀ a0 s, Leaves [.coves, .ctrls, .streams, .bays, .net, .pwr, .mg] s (execRegulatorPhaseFail a0 s) := by
  intro a0 s
  unfold execRegulatorPhaseFail
  repeat' first
    | with_reducible exact Or.inl rfl
    | with_reducible exact Or.inr rfl
    | exact Or.inl rfl
    | with_reducible apply ChangesOnly.refl
    | exact Eq.refl true
    | with_reducible apply Leaves.next
    | with_reducible apply Leaves.occurs
    | with_reducible apply Leaves.ite
    | with_reducible apply ChangesOnly.ite
    | with_reducible apply ChangesOnly.foldl
    | with_reducible apply ChangesOnly.step ?_ (State.pwrError_only _ _)
    | with_reducible apply ChangesOnly.step ?_ (State.park_only _ _)
    | with_reducible intro _
    | split
    | dsimp only [id]
    | with_reducible apply ChangesOnly.record

theorem execEnergyLoRead_only : ∀ a0 a1 s, Leaves [.latches] s (execEnergyLoRead a0 a1 s) := by
  intro a0 a1 s
  unfold execEnergyLoRead
  repeat' first
    | with_reducible apply ChangesOnly.refl
    | exact Eq.refl true
    | with_reducible apply Leaves.next
    | with_reducible apply Leaves.occurs
    | with_reducible apply Leaves.ite
    | with_reducible apply ChangesOnly.ite
    | with_reducible apply ChangesOnly.foldl
    | with_reducible apply ChangesOnly.step ?_ (State.latch_only _ _ _ _)
    | with_reducible intro _
    | split
    | dsimp only [id]

end Sys2Proof.Machine
end

