-- ==== Sys2Proof/Laws/MemPower.lean ====
section
/-!
SUPPORT. The operations and meanings of Machine/Power.lean that write HBM or the devices keep their memories in canonical form.
-/

set_option linter.unreachableTactic false
set_option linter.unusedTactic false

namespace Sys2Proof.Machine

theorem State.openSwitch_mem : ∀ s, MemKept s (State.openSwitch s) := by
  intro s
  unfold State.openSwitch
  repeat' first
    | with_reducible exact rfl
    | with_reducible apply MemKept.refl
    | exact Eq.refl true
    | with_reducible apply MemKept.ite
    | with_reducible apply MemKept.foldl
    | with_reducible apply MemKept.step ?_ (State.holdAtS4_only _)
    | with_reducible apply MemKept.trans ?_ (State.mainOff_mem _)
    | with_reducible intro _
    | split
    | dsimp only [id]
    | with_reducible apply MemKept.record

theorem State.mateCycle_mem : ∀ s, MemKept s (State.mateCycle s) := by
  intro s
  unfold State.mateCycle
  repeat' first
    | with_reducible apply MemKept.refl
    | exact Eq.refl true
    | with_reducible apply MemKept.ite
    | with_reducible apply MemKept.foldl
    | with_reducible apply MemKept.step ?_ (State.linkDown_only _ _)
    | with_reducible apply MemKept.trans ?_ (State.openSwitch_mem _)
    | with_reducible apply MemKept.step ?_ (State.park_only _ _)
    | with_reducible intro _
    | split
    | dsimp only [id]

theorem State.loseAux_mem : ∀ s, MemKept s (State.loseAux s) := by
  intro s
  unfold State.loseAux
  repeat' first
    | with_reducible exact rfl
    | with_reducible apply MemKept.refl
    | exact Eq.refl true
    | with_reducible apply MemKept.ite
    | with_reducible apply MemKept.foldl
    | with_reducible apply MemKept.trans ?_ (State.mainOff_mem _)
    | with_reducible intro _
    | split
    | dsimp only [id]
    | with_reducible apply MemKept.record

theorem State.holdupCycle_mem : ∀ s, MemKept s (State.holdupCycle s) := by
  intro s
  unfold State.holdupCycle
  repeat' first
    | with_reducible exact rfl
    | with_reducible apply MemKept.refl
    | exact Eq.refl true
    | with_reducible apply MemKept.ite
    | with_reducible apply MemKept.foldl
    | with_reducible apply MemKept.step ?_ (State.linkDown_only _ _)
    | with_reducible apply MemKept.trans ?_ (State.loseAux_mem _)
    | with_reducible apply MemKept.step ?_ (State.park_only _ _)
    | with_reducible apply MemKept.trans ?_ (State.mainOff_mem _)
    | with_reducible intro _
    | split
    | dsimp only [id]
    | with_reducible apply MemKept.record

theorem execMainInputLow_mem : ∀ s, OutMemKept s (execMainInputLow s) := by
  intro s
  unfold execMainInputLow
  repeat' first
    | with_reducible exact rfl
    | with_reducible apply MemKept.refl
    | exact Eq.refl true
    | with_reducible apply OutMemKept.next
    | with_reducible apply OutMemKept.occurs
    | with_reducible apply OutMemKept.ite
    | with_reducible apply MemKept.ite
    | with_reducible apply MemKept.foldl
    | with_reducible apply MemKept.step ?_ (State.pwrError_only _ _)
    | with_reducible apply MemKept.step ?_ (State.holdAtS4_only _)
    | with_reducible apply MemKept.trans ?_ (State.loseAux_mem _)
    | with_reducible apply MemKept.trans ?_ (State.mainOff_mem _)
    | with_reducible intro _
    | split
    | dsimp only [id]
    | with_reducible apply MemKept.record

theorem execAuxInputLoss_mem : ∀ s, OutMemKept s (execAuxInputLoss s) := by
  intro s
  unfold execAuxInputLoss
  repeat' first
    | with_reducible exact rfl
    | with_reducible apply MemKept.refl
    | exact Eq.refl true
    | with_reducible apply OutMemKept.next
    | with_reducible apply OutMemKept.occurs
    | with_reducible apply OutMemKept.ite
    | with_reducible apply MemKept.ite
    | with_reducible apply MemKept.foldl
    | with_reducible apply MemKept.step ?_ (State.modPort_only _ _ _)
    | with_reducible apply MemKept.step ?_ (State.pwrError_only _ _)
    | with_reducible apply MemKept.step ?_ (State.lastNotice_only _ _)
    | with_reducible apply MemKept.trans ?_ (State.loseAux_mem _)
    | with_reducible intro _
    | split
    | dsimp only [id]
    | with_reducible apply MemKept.record

theorem execMainInputHigh_mem : ∀ s, OutMemKept s (execMainInputHigh s) := by
  intro s
  unfold execMainInputHigh
  repeat' first
    | with_reducible exact rfl
    | with_reducible apply MemKept.refl
    | exact Eq.refl true
    | with_reducible apply OutMemKept.next
    | with_reducible apply OutMemKept.occurs
    | with_reducible apply OutMemKept.ite
    | with_reducible apply MemKept.ite
    | with_reducible apply MemKept.foldl
    | with_reducible apply MemKept.step ?_ (State.pwrError_only _ _)
    | with_reducible apply MemKept.step ?_ (State.holdAtS4_only _)
    | with_reducible apply MemKept.trans ?_ (State.loseAux_mem _)
    | with_reducible apply MemKept.step ?_ (State.park_only _ _)
    | with_reducible apply MemKept.trans ?_ (State.mainOff_mem _)
    | with_reducible intro _
    | split
    | dsimp only [id]
    | with_reducible apply MemKept.record

end Sys2Proof.Machine
end

