-- ==== Sys2Proof/Laws/MemPinOps.lean ====
section
/-!
SUPPORT. The operations and meanings of Machine/PinOps.lean that write HBM or the devices keep their memories in canonical form.
-/

set_option linter.unreachableTactic false
set_option linter.unusedTactic false

namespace Sys2Proof.Machine

theorem execMateNHigh_mem : ∀ s, OutMemKept s (execMateNHigh s) := by
  intro s
  unfold execMateNHigh
  repeat' first
    | with_reducible exact rfl
    | with_reducible apply MemKept.refl
    | exact Eq.refl true
    | with_reducible apply OutMemKept.next
    | with_reducible apply OutMemKept.occurs
    | with_reducible apply OutMemKept.ite
    | with_reducible apply MemKept.ite
    | with_reducible apply MemKept.foldl
    | with_reducible apply MemKept.trans ?_ (State.openSwitch_mem _)
    | with_reducible apply MemKept.step ?_ (State.pwrError_only _ _)
    | with_reducible apply MemKept.step ?_ (State.lastNotice_only _ _)
    | with_reducible intro _
    | split
    | dsimp only [id]
    | with_reducible apply MemKept.record

theorem execModReset_mem : ∀ s, OutMemKept s (execModReset s) := by
  intro s
  unfold execModReset
  repeat' first
    | with_reducible exact rfl
    | with_reducible apply MemKept.refl
    | exact Eq.refl true
    | with_reducible apply OutMemKept.next
    | with_reducible apply OutMemKept.occurs
    | with_reducible apply OutMemKept.ite
    | with_reducible apply MemKept.ite
    | with_reducible apply MemKept.foldl
    | with_reducible apply MemKept.step ?_ (State.loadIr_only _ _)
    | with_reducible apply MemKept.trans ?_ (State.restart_mem _)
    | with_reducible apply MemKept.step ?_ (State.usesJtag_only _)
    | with_reducible apply MemKept.step ?_ (State.depart_only _ _ _ _)
    | with_reducible intro _
    | split
    | dsimp only [id]
    | with_reducible apply MemKept.record

end Sys2Proof.Machine
end

