-- ==== Sys2Proof/Laws/MemPrograms.lean ====
section
/-!
SUPPORT. The operations and meanings of Machine/Programs.lean that write HBM or the devices keep their memories in canonical form.
-/

set_option linter.unreachableTactic false
set_option linter.unusedTactic false

namespace Sys2Proof.Machine

theorem State.putBay_mem : ∀ s a1 a2 a3, MemKept s (State.putBay s a1 a2 a3) := by
  intro s a1 a2 a3
  unfold State.putBay
  repeat' first
    | with_reducible apply MemKept.refl
    | exact Eq.refl true
    | with_reducible apply MemKept.ite
    | with_reducible apply MemKept.foldl
    | with_reducible apply MemKept.trans ?_ (State.committedWrite_mem _ _ _ _ _)
    | with_reducible intro _
    | split
    | dsimp only [id]

theorem State.installProgram_mem : ∀ s a1 a2 a3 a4 a5, MemKept s (State.installProgram s a1 a2 a3 a4 a5) := by
  intro s a1 a2 a3 a4 a5
  unfold State.installProgram
  repeat' first
    | with_reducible apply MemKept.refl
    | exact Eq.refl true
    | with_reducible apply MemKept.ite
    | with_reducible apply MemKept.foldl
    | with_reducible apply MemKept.step ?_ (State.closeSeam_only _)
    | with_reducible apply MemKept.step ?_ (State.requestPoints_only _ _ _)
    | with_reducible apply MemKept.step ?_ (State.modBay_only _ _ _)
    | with_reducible apply MemKept.trans ?_ (State.putBay_mem _ _ _ _)
    | with_reducible apply MemKept.step ?_ (State.loadShape_only _ _ _ _ _)
    | with_reducible intro _
    | split
    | dsimp only [id]

theorem State.loadProgram_mem : ∀ s a1 a2 a3, MemKept s (State.loadProgram s a1 a2 a3).2 := by
  intro s a1 a2 a3
  unfold State.loadProgram
  repeat' first
    | with_reducible apply MemKept.refl
    | exact Eq.refl true
    | with_reducible apply MemKept.ite
    | with_reducible apply MemKept.foldl
    | with_reducible apply MemKept.trans ?_ (State.installProgram_mem _ _ _ _ _ _)
    | with_reducible apply MemKept.step ?_ (State.removeProgram_only _ _)
    | with_reducible intro _
    | split
    | dsimp only [id]

theorem execProgramLoadComplete_mem : ∀ a0 s, OutMemKept s (execProgramLoadComplete a0 s) := by
  intro a0 s
  unfold execProgramLoadComplete
  repeat' first
    | with_reducible apply MemKept.refl
    | exact Eq.refl true
    | with_reducible apply OutMemKept.next
    | with_reducible apply OutMemKept.occurs
    | with_reducible apply OutMemKept.ite
    | with_reducible apply MemKept.ite
    | with_reducible apply MemKept.foldl
    | with_reducible apply MemKept.step ?_ (State.modBay_only _ _ _)
    | with_reducible apply MemKept.step ?_ (State.loadDone_only _ _ _ _)
    | with_reducible apply MemKept.trans ?_ (State.loadProgram_mem _ _ _ _)
    | with_reducible intro _
    | split
    | dsimp only [id]

end Sys2Proof.Machine
end

