-- ==== Sys2Proof/Laws/OnlyChannelOps.lean ====
section
/-!
SUPPORT. For each operation and meaning of Machine/ChannelOps.lean: the parts of the state that it can change.
-/

set_option linter.unreachableTactic false
set_option linter.unusedTactic false

namespace Sys2Proof.Machine

theorem State.sendChan_only : ∀ s a1 a2 a3, ChangesOnly [.coves] s (State.sendChan s a1 a2 a3) := by
  intro s a1 a2 a3
  unfold State.sendChan
  repeat' first
    | with_reducible apply ChangesOnly.refl
    | exact Eq.refl true
    | with_reducible apply ChangesOnly.ite
    | with_reducible apply ChangesOnly.foldl
    | with_reducible apply ChangesOnly.step ?_ (State.inject_only _ _ _ _ _)
    | with_reducible intro _
    | split
    | dsimp only [id]

theorem State.modChan_only : ∀ s a1 a2, ChangesOnly [.coves] s (State.modChan s a1 a2) := by
  intro s a1 a2
  unfold State.modChan
  repeat' first
    | with_reducible apply ChangesOnly.refl
    | exact Eq.refl true
    | with_reducible apply ChangesOnly.ite
    | with_reducible apply ChangesOnly.foldl
    | with_reducible apply ChangesOnly.step ?_ (State.modCove_only _ _ _)
    | with_reducible intro _
    | split
    | dsimp only [id]

theorem State.countClosed_only : ∀ s a1 a2, ChangesOnly [.coves] s (State.countClosed s a1 a2) := by
  intro s a1 a2
  unfold State.countClosed
  repeat' first
    | with_reducible apply ChangesOnly.refl
    | exact Eq.refl true
    | with_reducible apply ChangesOnly.ite
    | with_reducible apply ChangesOnly.foldl
    | with_reducible apply ChangesOnly.step ?_ (State.modChan_only _ _ _)
    | with_reducible intro _
    | split
    | dsimp only [id]

theorem State.entryFreed_only : ∀ s a1 a2 a3, ChangesOnly [.coves] s (State.entryFreed s a1 a2 a3) := by
  intro s a1 a2 a3
  unfold State.entryFreed
  repeat' first
    | with_reducible apply ChangesOnly.refl
    | exact Eq.refl true
    | with_reducible apply ChangesOnly.ite
    | with_reducible apply ChangesOnly.foldl
    | with_reducible apply ChangesOnly.step ?_ (State.sendChan_only _ _ _ _)
    | with_reducible apply ChangesOnly.step ?_ (State.modChan_only _ _ _)
    | with_reducible intro _
    | split
    | dsimp only [id]

theorem State.entriesFreed_only : ∀ s a1 a2 a3 a4, ChangesOnly [.coves] s (State.entriesFreed s a1 a2 a3 a4) := by
  intro s a1 a2 a3 a4
  fun_induction State.entriesFreed s a1 a2 a3 a4
  all_goals repeat' first
    | (with_reducible apply ChangesOnly.trans; rotate_left; assumption)
    | with_reducible apply ChangesOnly.refl
    | exact Eq.refl true
    | with_reducible apply ChangesOnly.ite
    | with_reducible apply ChangesOnly.foldl
    | with_reducible apply ChangesOnly.step ?_ (State.entryFreed_only _ _ _ _)
    | with_reducible intro _
    | split
    | dsimp only [id]

theorem State.closeReader_only : ∀ s a1 a2, ChangesOnly [.coves] s (State.closeReader s a1 a2) := by
  intro s a1 a2
  unfold State.closeReader
  repeat' first
    | with_reducible apply ChangesOnly.refl
    | exact Eq.refl true
    | with_reducible apply ChangesOnly.ite
    | with_reducible apply ChangesOnly.foldl
    | with_reducible apply ChangesOnly.step ?_ (State.sendChan_only _ _ _ _)
    | with_reducible apply ChangesOnly.step ?_ (State.modChan_only _ _ _)
    | with_reducible apply ChangesOnly.step ?_ (State.countClosed_only _ _ _)
    | with_reducible apply ChangesOnly.step ?_ (State.entriesFreed_only _ _ _ _ _)
    | with_reducible intro _
    | split
    | dsimp only [id]

theorem State.answerChan_only : ∀ s a1 a2 a3 a4, ChangesOnly [.coves] s (State.answerChan s a1 a2 a3 a4) := by
  intro s a1 a2 a3 a4
  unfold State.answerChan
  repeat' first
    | with_reducible apply ChangesOnly.refl
    | exact Eq.refl true
    | with_reducible apply ChangesOnly.ite
    | with_reducible apply ChangesOnly.foldl
    | with_reducible apply ChangesOnly.step ?_ (State.sendChan_only _ _ _ _)
    | with_reducible intro _
    | split
    | dsimp only [id]

theorem State.endChan_only : ∀ s a1 a2 a3, ChangesOnly [.clk, .coves, .ctrls, .streams, .bays, .sessions, .portq, .jetty, .integ, .rot, .net, .su, .mg] s (State.endChan s a1 a2 a3) := by
  intro s a1 a2 a3
  unfold State.endChan
  repeat' first
    | with_reducible apply ChangesOnly.refl
    | exact Eq.refl true
    | with_reducible apply ChangesOnly.ite
    | with_reducible apply ChangesOnly.foldl
    | with_reducible apply ChangesOnly.step ?_ (State.retireNext_only _ _ _)
    | with_reducible intro _
    | split
    | dsimp only [id]

theorem State.chanException_only : ∀ s a1 a2 a3, ChangesOnly [.clk, .coves, .ctrls, .streams, .bays, .sessions, .portq, .jetty, .integ, .rot, .net, .su, .mg] s (State.chanException s a1 a2 a3) := by
  intro s a1 a2 a3
  unfold State.chanException
  repeat' first
    | with_reducible apply ChangesOnly.refl
    | exact Eq.refl true
    | with_reducible apply ChangesOnly.ite
    | with_reducible apply ChangesOnly.foldl
    | with_reducible apply ChangesOnly.step ?_ (State.modChan_only _ _ _)
    | with_reducible apply ChangesOnly.step ?_ (State.exception_only _ _ _)
    | with_reducible intro _
    | split
    | dsimp only [id]

theorem State.entryException_only : ∀ s a1 a2, ChangesOnly [.clk, .coves, .ctrls, .streams, .bays, .sessions, .portq, .jetty, .integ, .rot, .net, .su, .mg] s (State.entryException s a1 a2) := by
  intro s a1 a2
  unfold State.entryException
  repeat' first
    | with_reducible apply ChangesOnly.refl
    | exact Eq.refl true
    | with_reducible apply ChangesOnly.ite
    | with_reducible apply ChangesOnly.foldl
    | with_reducible apply ChangesOnly.step ?_ (State.chanException_only _ _ _ _)
    | with_reducible intro _
    | split
    | dsimp only [id]

theorem State.countFull_only : ∀ s a1, ChangesOnly [.coves] s (State.countFull s a1) := by
  intro s a1
  unfold State.countFull
  repeat' first
    | with_reducible apply ChangesOnly.refl
    | exact Eq.refl true
    | with_reducible apply ChangesOnly.ite
    | with_reducible apply ChangesOnly.foldl
    | with_reducible apply ChangesOnly.step ?_ (State.modChan_only _ _ _)
    | with_reducible intro _
    | split
    | dsimp only [id]

theorem State.countStale_only : ∀ s a1, ChangesOnly [.coves] s (State.countStale s a1) := by
  intro s a1
  unfold State.countStale
  repeat' first
    | with_reducible apply ChangesOnly.refl
    | exact Eq.refl true
    | with_reducible apply ChangesOnly.ite
    | with_reducible apply ChangesOnly.foldl
    | with_reducible apply ChangesOnly.step ?_ (State.modChan_only _ _ _)
    | with_reducible intro _
    | split
    | dsimp only [id]

theorem State.closeWriter_only : ∀ s a1 a2, ChangesOnly [.coves] s (State.closeWriter s a1 a2) := by
  intro s a1 a2
  unfold State.closeWriter
  repeat' first
    | with_reducible apply ChangesOnly.refl
    | exact Eq.refl true
    | with_reducible apply ChangesOnly.ite
    | with_reducible apply ChangesOnly.foldl
    | with_reducible apply ChangesOnly.step ?_ (State.sendChan_only _ _ _ _)
    | with_reducible apply ChangesOnly.step ?_ (State.modChan_only _ _ _)
    | with_reducible intro _
    | split
    | dsimp only [id]

theorem State.sendData_only : ∀ s a1 a2, ChangesOnly [.coves] s (State.sendData s a1 a2) := by
  intro s a1 a2
  unfold State.sendData
  repeat' first
    | with_reducible apply ChangesOnly.refl
    | exact Eq.refl true
    | with_reducible apply ChangesOnly.ite
    | with_reducible apply ChangesOnly.foldl
    | with_reducible apply ChangesOnly.step ?_ (State.sendChan_only _ _ _ _)
    | with_reducible intro _
    | split
    | dsimp only [id]

theorem State.commitCloses_only : ∀ s a1 a2, ChangesOnly [.coves] s (State.commitCloses s a1 a2) := by
  intro s a1 a2
  unfold State.commitCloses
  repeat' first
    | with_reducible apply ChangesOnly.refl
    | exact Eq.refl true
    | with_reducible apply ChangesOnly.ite
    | with_reducible apply ChangesOnly.foldl
    | with_reducible apply ChangesOnly.step ?_ (State.closeReader_only _ _ _)
    | with_reducible apply ChangesOnly.step ?_ (State.closeWriter_only _ _ _)
    | with_reducible intro _
    | split
    | dsimp only [id]

theorem State.drainEntry_only : ∀ s a1 a2, ChangesOnly [.coves] s (State.drainEntry s a1 a2) := by
  intro s a1 a2
  unfold State.drainEntry
  repeat' first
    | with_reducible apply ChangesOnly.refl
    | exact Eq.refl true
    | with_reducible apply ChangesOnly.ite
    | with_reducible apply ChangesOnly.foldl
    | with_reducible apply ChangesOnly.step ?_ (State.modChan_only _ _ _)
    | with_reducible intro _
    | split
    | dsimp only [id]

end Sys2Proof.Machine
end

