-- ==== Sys2Proof/Laws/OnlyChannels.lean ====
section
/-!
SUPPORT. For each operation and meaning of Machine/Channels.lean: the parts of the state that it can change.
-/

set_option linter.unreachableTactic false
set_option linter.unusedTactic false

namespace Sys2Proof.Machine

theorem State.atSender_only {ps : List Piece} (hp : ([Piece.coves].all fun p => ps.contains p) = true) (s : State) (c : Nat)
    (p : ChanPkt) (f : Nat → ChEntry → State) (hf : ∀ i e, ChangesOnly ps s (f i e)) : ChangesOnly ps s (s.atSender c p f) := by
  unfold State.atSender
  split
  · exact ChangesOnly.ite (hf _ _) (ChangesOnly.refl _ _)
  · exact ChangesOnly.refl _ _
  · exact (State.countStale_only s c).mono hp

theorem State.recvClosed_only : ∀ s a1 a2, ChangesOnly [.clk, .coves, .ctrls, .streams, .bays, .sessions, .portq, .jetty, .integ, .rot, .net, .su, .mg] s (State.recvClosed s a1 a2) := by
  intro s a1 a2
  unfold State.recvClosed
  repeat' first
    | with_reducible apply ChangesOnly.refl
    | with_reducible apply State.atSender_only
    | exact Eq.refl true
    | with_reducible apply ChangesOnly.ite
    | with_reducible apply ChangesOnly.foldl
    | with_reducible apply ChangesOnly.step ?_ (State.modChan_only _ _ _)
    | with_reducible apply ChangesOnly.step ?_ (State.countClosed_only _ _ _)
    | with_reducible apply ChangesOnly.step ?_ (State.endChan_only _ _ _ _)
    | with_reducible intro _
    | split
    | dsimp only [id]

theorem State.recvResume_only : ∀ s a1 a2, ChangesOnly [.coves] s (State.recvResume s a1 a2) := by
  intro s a1 a2
  unfold State.recvResume
  repeat' first
    | with_reducible apply ChangesOnly.refl
    | exact Eq.refl true
    | with_reducible apply ChangesOnly.ite
    | with_reducible apply ChangesOnly.foldl
    | with_reducible apply ChangesOnly.step ?_ (State.answerChan_only _ _ _ _ _)
    | with_reducible apply ChangesOnly.step ?_ (State.modChan_only _ _ _)
    | with_reducible apply ChangesOnly.step ?_ (State.sendData_only _ _ _)
    | with_reducible apply ChangesOnly.step ?_ (State.countStale_only _ _)
    | with_reducible intro _
    | split
    | dsimp only [id]

theorem holdChan_only : ∀ a0 a1 a2 s, ChangesOnly [.coves] s (holdChan a0 a1 a2 s) := by
  intro a0 a1 a2 s
  unfold holdChan
  repeat' first
    | with_reducible apply ChangesOnly.refl
    | exact Eq.refl true
    | with_reducible apply ChangesOnly.ite
    | with_reducible apply ChangesOnly.foldl
    | with_reducible apply ChangesOnly.step ?_ (State.modChan_only _ _ _)
    | with_reducible intro _
    | split
    | dsimp only [id]

theorem State.chanArrives_only {ps : List Piece} (hp : ([Piece.coves, .bays, .sessions, .portq, .integ, .rot, .su, .mg].all fun p => ps.contains p) = true) (s : State) (c k : Nat)
    (p : ChanPkt) (moving f : State → State) (hm : ∀ t, ChangesOnly ps t (moving t)) (hf : ∀ t, ChangesOnly ps t (f t)) :
    Leaves ps s (s.chanArrives c k p moving f) := by
  have q {t u : State} (h : ChangesOnly [Piece.coves, .bays, .sessions, .portq, .integ, .rot, .su, .mg] t u) : ChangesOnly ps t u := h.mono hp
  unfold State.chanArrives
  refine Leaves.occurs (State.eject_only ?_ _ _ _ fun t => .ite (.refl _ _) (.ite (q ((State.countStale_only t c).mono rfl)) (.ite ?_
    (.ite (hm _) (hf _)))))
  · have h := List.all_eq_true.mp hp
    simp only [List.all_cons, List.all_nil, Bool.and_true]
    exact h _ (by decide)
  · exact q (((State.modChan_only t _ _).mono rfl).trans (State.hwError_only _ _ _))

theorem execResume_only : ∀ a0 a1 s, Leaves [.coves, .bays, .sessions, .portq, .integ, .rot, .su, .mg] s (execResume a0 a1 s) := by
  intro a0 a1 s
  unfold execResume
  repeat' first
    | with_reducible apply ChangesOnly.refl
    | with_reducible apply State.chanArrives_only
    | exact Eq.refl true
    | with_reducible apply Leaves.next
    | with_reducible apply Leaves.occurs
    | with_reducible apply Leaves.ite
    | with_reducible apply ChangesOnly.ite
    | with_reducible apply ChangesOnly.foldl
    | with_reducible apply ChangesOnly.step ?_ (State.recvResume_only _ _ _)
    | with_reducible apply ChangesOnly.step ?_ (holdChan_only _ _ _ _)
    | with_reducible intro _
    | split
    | dsimp only [id]

theorem State.recvAccept_only : ∀ s a1 a2, ChangesOnly [.clk, .coves, .ctrls, .streams, .bays, .sessions, .portq, .jetty, .integ, .rot, .net, .su, .mg] s (State.recvAccept s a1 a2) := by
  intro s a1 a2
  unfold State.recvAccept
  repeat' first
    | with_reducible apply ChangesOnly.refl
    | exact Eq.refl true
    | with_reducible apply ChangesOnly.ite
    | with_reducible apply ChangesOnly.foldl
    | with_reducible apply ChangesOnly.step ?_ (State.modChan_only _ _ _)
    | with_reducible apply ChangesOnly.step ?_ (State.countStale_only _ _)
    | with_reducible apply ChangesOnly.step ?_ (State.endChan_only _ _ _ _)
    | with_reducible intro _
    | split
    | dsimp only [id]

theorem execAccept_only : ∀ a0 a1 s, Leaves [.clk, .coves, .ctrls, .streams, .bays, .sessions, .portq, .jetty, .integ, .rot, .net, .su, .mg] s (execAccept a0 a1 s) := by
  intro a0 a1 s
  unfold execAccept
  repeat' first
    | with_reducible apply ChangesOnly.refl
    | with_reducible apply State.chanArrives_only
    | exact Eq.refl true
    | with_reducible apply Leaves.next
    | with_reducible apply Leaves.occurs
    | with_reducible apply Leaves.ite
    | with_reducible apply ChangesOnly.ite
    | with_reducible apply ChangesOnly.foldl
    | with_reducible apply ChangesOnly.step ?_ (State.recvAccept_only _ _ _)
    | with_reducible intro _
    | split
    | dsimp only [id]

theorem execChannelQuarantineEnd_only : ∀ a0 a1 s, Leaves [.coves] s (execChannelQuarantineEnd a0 a1 s) := by
  intro a0 a1 s
  unfold execChannelQuarantineEnd
  repeat' first
    | with_reducible apply ChangesOnly.refl
    | exact Eq.refl true
    | with_reducible apply Leaves.next
    | with_reducible apply Leaves.occurs
    | with_reducible apply Leaves.ite
    | with_reducible apply ChangesOnly.ite
    | with_reducible apply ChangesOnly.foldl
    | with_reducible apply ChangesOnly.step ?_ (State.modChan_only _ _ _)
    | with_reducible intro _
    | split
    | dsimp only [id]

theorem execChHeadSel_only : ∀ a0 a1 a2 s, Leaves [.coves] s (execChHeadSel a0 a1 a2 s) := by
  intro a0 a1 a2 s
  unfold execChHeadSel
  repeat' first
    | with_reducible apply ChangesOnly.refl
    | exact Eq.refl true
    | with_reducible apply Leaves.next
    | with_reducible apply Leaves.occurs
    | with_reducible apply Leaves.ite
    | with_reducible apply ChangesOnly.ite
    | with_reducible apply ChangesOnly.foldl
    | with_reducible apply ChangesOnly.step ?_ (State.modChan_only _ _ _)
    | with_reducible intro _
    | split
    | dsimp only [id]

theorem execCconn_only : ∀ a0 a1 s, Leaves [.clk, .mt, .coves, .ctrls, .streams, .bays, .sessions, .ports, .portq, .jetty, .integ, .rot, .net, .pwr, .su, .ident, .mg] s (execCconn a0 a1 s) := by
  intro a0 a1 s
  unfold execCconn
  repeat' first
    | with_reducible apply ChangesOnly.refl
    | with_reducible apply issue_only
    | exact Eq.refl true
    | with_reducible apply Leaves.next
    | with_reducible apply Leaves.occurs
    | with_reducible apply Leaves.ite
    | with_reducible apply ChangesOnly.ite
    | with_reducible apply ChangesOnly.foldl
    | with_reducible apply ChangesOnly.step ?_ (State.stall_only _ _ _)
    | with_reducible apply ChangesOnly.step ?_ (State.sendChan_only _ _ _ _)
    | with_reducible apply ChangesOnly.step ?_ (State.modChan_only _ _ _)
    | with_reducible apply ChangesOnly.step ?_ (State.retireNext_only _ _ _)
    | with_reducible intro _
    | split
    | dsimp only [id]

theorem execCrecv_only : ∀ a0 a1 s, Leaves [.clk, .mt, .coves, .ctrls, .streams, .bays, .sessions, .ports, .portq, .jetty, .integ, .rot, .net, .pwr, .su, .ident, .mg] s (execCrecv a0 a1 s) := by
  intro a0 a1 s
  unfold execCrecv
  repeat' first
    | with_reducible apply ChangesOnly.refl
    | with_reducible apply issue_only
    | exact Eq.refl true
    | with_reducible apply Leaves.next
    | with_reducible apply Leaves.occurs
    | with_reducible apply Leaves.ite
    | with_reducible apply ChangesOnly.ite
    | with_reducible apply ChangesOnly.foldl
    | with_reducible apply ChangesOnly.step ?_ (State.stall_only _ _ _)
    | with_reducible apply ChangesOnly.step ?_ (State.entryFreed_only _ _ _ _)
    | with_reducible apply ChangesOnly.step ?_ (State.modChan_only _ _ _)
    | with_reducible apply ChangesOnly.step ?_ (State.chanException_only _ _ _ _)
    | with_reducible apply ChangesOnly.step ?_ (State.retireNext_only _ _ _)
    | with_reducible apply ChangesOnly.step ?_ (State.drainEntry_only _ _ _)
    | with_reducible intro _
    | split
    | dsimp only [id]

theorem State.recvFull_only : ∀ s a1 a2, ChangesOnly [.coves] s (State.recvFull s a1 a2) := by
  intro s a1 a2
  unfold State.recvFull
  repeat' first
    | with_reducible apply ChangesOnly.refl
    | with_reducible apply State.atSender_only
    | exact Eq.refl true
    | with_reducible apply ChangesOnly.ite
    | with_reducible apply ChangesOnly.foldl
    | with_reducible apply ChangesOnly.step ?_ (State.modChan_only _ _ _)
    | with_reducible intro _
    | split
    | dsimp only [id]

theorem State.recvDelivered_only : ∀ s a1 a2, ChangesOnly [.clk, .coves, .ctrls, .streams, .bays, .sessions, .portq, .jetty, .integ, .rot, .net, .su, .mg] s (State.recvDelivered s a1 a2) := by
  intro s a1 a2
  unfold State.recvDelivered
  repeat' first
    | with_reducible apply ChangesOnly.refl
    | with_reducible apply State.atSender_only
    | exact Eq.refl true
    | with_reducible apply ChangesOnly.ite
    | with_reducible apply ChangesOnly.foldl
    | with_reducible apply ChangesOnly.step ?_ (State.modChan_only _ _ _)
    | with_reducible apply ChangesOnly.step ?_ (State.endChan_only _ _ _ _)
    | with_reducible intro _
    | split
    | dsimp only [id]

theorem execDelivered_only : ∀ a0 a1 s, Leaves [.clk, .coves, .ctrls, .streams, .bays, .sessions, .portq, .jetty, .integ, .rot, .net, .su, .mg] s (execDelivered a0 a1 s) := by
  intro a0 a1 s
  unfold execDelivered
  repeat' first
    | with_reducible apply ChangesOnly.refl
    | with_reducible apply State.chanArrives_only
    | exact Eq.refl true
    | with_reducible apply Leaves.next
    | with_reducible apply Leaves.occurs
    | with_reducible apply Leaves.ite
    | with_reducible apply ChangesOnly.ite
    | with_reducible apply ChangesOnly.foldl
    | with_reducible apply ChangesOnly.step ?_ (State.recvDelivered_only _ _ _)
    | with_reducible intro _
    | split
    | dsimp only [id]

theorem execDataRetransmit_only : ∀ a0 s, Leaves [.clk, .coves, .ctrls, .streams, .bays, .sessions, .portq, .jetty, .integ, .rot, .net, .su, .mg] s (execDataRetransmit a0 s) := by
  intro a0 s
  unfold execDataRetransmit
  repeat' first
    | with_reducible apply ChangesOnly.refl
    | exact Eq.refl true
    | with_reducible apply Leaves.next
    | with_reducible apply Leaves.occurs
    | with_reducible apply Leaves.ite
    | with_reducible apply ChangesOnly.ite
    | with_reducible apply ChangesOnly.foldl
    | with_reducible apply ChangesOnly.step ?_ (State.modChan_only _ _ _)
    | with_reducible apply ChangesOnly.step ?_ (State.chanException_only _ _ _ _)
    | with_reducible apply ChangesOnly.step ?_ (State.sendData_only _ _ _)
    | with_reducible intro _
    | split
    | dsimp only [id]

theorem State.recvClose_only : ∀ s a1 a2, ChangesOnly [.clk, .coves, .ctrls, .streams, .bays, .sessions, .portq, .jetty, .integ, .rot, .net, .su, .mg] s (State.recvClose s a1 a2) := by
  intro s a1 a2
  unfold State.recvClose
  repeat' first
    | with_reducible apply ChangesOnly.refl
    | exact Eq.refl true
    | with_reducible apply ChangesOnly.ite
    | with_reducible apply ChangesOnly.foldl
    | with_reducible apply ChangesOnly.step ?_ (State.answerChan_only _ _ _ _ _)
    | with_reducible apply ChangesOnly.step ?_ (State.modChan_only _ _ _)
    | with_reducible apply ChangesOnly.step ?_ (State.countClosed_only _ _ _)
    | with_reducible apply ChangesOnly.step ?_ (State.countStale_only _ _)
    | with_reducible apply ChangesOnly.step ?_ (State.endChan_only _ _ _ _)
    | with_reducible apply ChangesOnly.step ?_ (State.drainEntry_only _ _ _)
    | with_reducible intro _
    | split
    | dsimp only [id]

theorem State.recvConnect_only : ∀ s a1 a2, ChangesOnly [.coves] s (State.recvConnect s a1 a2) := by
  intro s a1 a2
  unfold State.recvConnect
  repeat' first
    | with_reducible apply ChangesOnly.refl
    | exact Eq.refl true
    | with_reducible apply ChangesOnly.ite
    | with_reducible apply ChangesOnly.foldl
    | with_reducible apply ChangesOnly.step ?_ (State.answerChan_only _ _ _ _ _)
    | with_reducible apply ChangesOnly.step ?_ (State.modChan_only _ _ _)
    | with_reducible intro _
    | split
    | dsimp only [id]

theorem State.recvWithdraw_only : ∀ s a1 a2, ChangesOnly [.coves] s (State.recvWithdraw s a1 a2) := by
  intro s a1 a2
  unfold State.recvWithdraw
  repeat' first
    | with_reducible apply ChangesOnly.refl
    | exact Eq.refl true
    | with_reducible apply ChangesOnly.ite
    | with_reducible apply ChangesOnly.foldl
    | with_reducible apply ChangesOnly.step ?_ (State.answerChan_only _ _ _ _ _)
    | with_reducible apply ChangesOnly.step ?_ (State.entryFreed_only _ _ _ _)
    | with_reducible apply ChangesOnly.step ?_ (State.modChan_only _ _ _)
    | with_reducible apply ChangesOnly.step ?_ (State.countStale_only _ _)
    | with_reducible intro _
    | split
    | dsimp only [id]

theorem State.recvHeld_only : ∀ s a1 a2, ChangesOnly [.clk, .coves, .ctrls, .streams, .bays, .sessions, .portq, .jetty, .integ, .rot, .net, .su, .mg] s (State.recvHeld s a1 a2) := by
  intro s a1 a2
  unfold State.recvHeld
  repeat' first
    | with_reducible apply ChangesOnly.refl
    | exact Eq.refl true
    | with_reducible apply ChangesOnly.ite
    | with_reducible apply ChangesOnly.foldl
    | with_reducible apply ChangesOnly.step ?_ (State.recvResume_only _ _ _)
    | with_reducible apply ChangesOnly.step ?_ (State.recvClose_only _ _ _)
    | with_reducible apply ChangesOnly.step ?_ (State.recvConnect_only _ _ _)
    | with_reducible apply ChangesOnly.step ?_ (State.recvWithdraw_only _ _ _)
    | with_reducible intro _
    | split
    | dsimp only [id]

theorem selectDone_only : ∀ s a1 a2 a3, ChangesOnly [.clk, .coves, .ctrls, .streams, .bays, .sessions, .portq, .jetty, .integ, .rot, .net, .su, .mg] s (selectDone s a1 a2 a3) := by
  intro s a1 a2 a3
  unfold selectDone
  repeat' first
    | with_reducible apply ChangesOnly.refl
    | exact Eq.refl true
    | with_reducible apply ChangesOnly.ite
    | with_reducible apply ChangesOnly.foldl
    | with_reducible apply ChangesOnly.step ?_ (State.retireNext_only _ _ _)
    | with_reducible intro _
    | split
    | dsimp only [id]

theorem execCsel_only : ∀ a0 a1 s, Leaves [.clk, .mt, .coves, .ctrls, .streams, .bays, .sessions, .ports, .portq, .jetty, .integ, .rot, .net, .pwr, .su, .ident, .mg] s (execCsel a0 a1 s) := by
  intro a0 a1 s
  unfold execCsel
  repeat' first
    | with_reducible apply ChangesOnly.refl
    | with_reducible apply issue_only
    | exact Eq.refl true
    | with_reducible apply Leaves.next
    | with_reducible apply Leaves.occurs
    | with_reducible apply Leaves.ite
    | with_reducible apply ChangesOnly.ite
    | with_reducible apply ChangesOnly.foldl
    | with_reducible apply ChangesOnly.step ?_ (State.stall_only _ _ _)
    | with_reducible apply ChangesOnly.step ?_ (selectDone_only _ _ _ _)
    | with_reducible apply ChangesOnly.step ?_ (State.retireNext_only _ _ _)
    | with_reducible intro _
    | split
    | dsimp only [id]

theorem State.placeData_only : ∀ s a1 a2 a3 a4, ChangesOnly [.coves] s (State.placeData s a1 a2 a3 a4) := by
  intro s a1 a2 a3 a4
  unfold State.placeData
  repeat' first
    | with_reducible apply ChangesOnly.refl
    | exact Eq.refl true
    | with_reducible apply ChangesOnly.ite
    | with_reducible apply ChangesOnly.foldl
    | with_reducible apply ChangesOnly.step ?_ (State.answerChan_only _ _ _ _ _)
    | with_reducible apply ChangesOnly.step ?_ (State.entryFreed_only _ _ _ _)
    | with_reducible apply ChangesOnly.step ?_ (State.modChan_only _ _ _)
    | with_reducible apply ChangesOnly.step ?_ (State.countFull_only _ _)
    | with_reducible intro _
    | split
    | dsimp only [id]

theorem execCsetto_only : ∀ a0 a1 s, Leaves [.clk, .mt, .coves, .ctrls, .streams, .bays, .sessions, .ports, .portq, .jetty, .integ, .rot, .net, .pwr, .su, .ident, .mg] s (execCsetto a0 a1 s) := by
  intro a0 a1 s
  unfold execCsetto
  repeat' first
    | with_reducible apply ChangesOnly.refl
    | with_reducible apply issue_only
    | exact Eq.refl true
    | with_reducible apply Leaves.next
    | with_reducible apply Leaves.occurs
    | with_reducible apply Leaves.ite
    | with_reducible apply ChangesOnly.ite
    | with_reducible apply ChangesOnly.foldl
    | with_reducible apply ChangesOnly.step ?_ (State.modChan_only _ _ _)
    | with_reducible apply ChangesOnly.step ?_ (State.entryException_only _ _ _)
    | with_reducible apply ChangesOnly.step ?_ (State.retireNext_only _ _ _)
    | with_reducible intro _
    | split
    | dsimp only [id]

theorem State.recvData_only : ∀ s a1 a2, ChangesOnly [.coves] s (State.recvData s a1 a2) := by
  intro s a1 a2
  unfold State.recvData
  repeat' first
    | with_reducible apply ChangesOnly.refl
    | exact Eq.refl true
    | with_reducible apply ChangesOnly.ite
    | with_reducible apply ChangesOnly.foldl
    | with_reducible apply ChangesOnly.step ?_ (State.answerChan_only _ _ _ _ _)
    | with_reducible apply ChangesOnly.step ?_ (State.countClosed_only _ _ _)
    | with_reducible apply ChangesOnly.step ?_ (State.placeData_only _ _ _ _ _)
    | with_reducible apply ChangesOnly.step ?_ (State.countStale_only _ _)
    | with_reducible intro _
    | split
    | dsimp only [id]

theorem State.movingData_only : ∀ s a1 a2, ChangesOnly [.coves] s (State.movingData s a1 a2) := by
  intro s a1 a2
  unfold State.movingData
  repeat' first
    | with_reducible apply ChangesOnly.refl
    | exact Eq.refl true
    | with_reducible apply ChangesOnly.ite
    | with_reducible apply ChangesOnly.foldl
    | with_reducible apply ChangesOnly.step ?_ (State.answerChan_only _ _ _ _ _)
    | with_reducible apply ChangesOnly.step ?_ (State.countFull_only _ _)
    | with_reducible intro _
    | split
    | dsimp only [id]

theorem execData_only : ∀ a0 a1 s, Leaves [.coves, .bays, .sessions, .portq, .integ, .rot, .su, .mg] s (execData a0 a1 s) := by
  intro a0 a1 s
  unfold execData
  repeat' first
    | with_reducible apply ChangesOnly.refl
    | with_reducible apply State.chanArrives_only
    | exact Eq.refl true
    | with_reducible apply Leaves.next
    | with_reducible apply Leaves.occurs
    | with_reducible apply Leaves.ite
    | with_reducible apply ChangesOnly.ite
    | with_reducible apply ChangesOnly.foldl
    | with_reducible apply ChangesOnly.step ?_ (State.recvData_only _ _ _)
    | with_reducible apply ChangesOnly.step ?_ (State.movingData_only _ _ _)
    | with_reducible intro _
    | split
    | dsimp only [id]

theorem State.recvRefuse_only : ∀ s a1 a2, ChangesOnly [.clk, .coves, .ctrls, .streams, .bays, .sessions, .portq, .jetty, .integ, .rot, .net, .su, .mg] s (State.recvRefuse s a1 a2) := by
  intro s a1 a2
  unfold State.recvRefuse
  repeat' first
    | with_reducible apply ChangesOnly.refl
    | exact Eq.refl true
    | with_reducible apply ChangesOnly.ite
    | with_reducible apply ChangesOnly.foldl
    | with_reducible apply ChangesOnly.step ?_ (State.modChan_only _ _ _)
    | with_reducible apply ChangesOnly.step ?_ (State.countStale_only _ _)
    | with_reducible apply ChangesOnly.step ?_ (State.endChan_only _ _ _ _)
    | with_reducible intro _
    | split
    | dsimp only [id]

theorem execRefuse_only : ∀ a0 a1 s, Leaves [.clk, .coves, .ctrls, .streams, .bays, .sessions, .portq, .jetty, .integ, .rot, .net, .su, .mg] s (execRefuse a0 a1 s) := by
  intro a0 a1 s
  unfold execRefuse
  repeat' first
    | with_reducible apply ChangesOnly.refl
    | with_reducible apply State.chanArrives_only
    | exact Eq.refl true
    | with_reducible apply Leaves.next
    | with_reducible apply Leaves.occurs
    | with_reducible apply Leaves.ite
    | with_reducible apply ChangesOnly.ite
    | with_reducible apply ChangesOnly.foldl
    | with_reducible apply ChangesOnly.step ?_ (State.recvRefuse_only _ _ _)
    | with_reducible intro _
    | split
    | dsimp only [id]

theorem execCclose_only : ∀ a0 a1 s, Leaves [.clk, .mt, .coves, .ctrls, .streams, .bays, .sessions, .ports, .portq, .jetty, .integ, .rot, .net, .pwr, .su, .ident, .mg] s (execCclose a0 a1 s) := by
  intro a0 a1 s
  unfold execCclose
  repeat' first
    | with_reducible apply ChangesOnly.refl
    | with_reducible apply issue_only
    | exact Eq.refl true
    | with_reducible apply Leaves.next
    | with_reducible apply Leaves.occurs
    | with_reducible apply Leaves.ite
    | with_reducible apply ChangesOnly.ite
    | with_reducible apply ChangesOnly.foldl
    | with_reducible apply ChangesOnly.step ?_ (State.modChan_only _ _ _)
    | with_reducible apply ChangesOnly.step ?_ (State.entryException_only _ _ _)
    | with_reducible apply ChangesOnly.step ?_ (State.retireNext_only _ _ _)
    | with_reducible intro _
    | split
    | dsimp only [id]

theorem execClose_only : ∀ a0 a1 s, Leaves [.clk, .coves, .ctrls, .streams, .bays, .sessions, .portq, .jetty, .integ, .rot, .net, .su, .mg] s (execClose a0 a1 s) := by
  intro a0 a1 s
  unfold execClose
  repeat' first
    | with_reducible apply ChangesOnly.refl
    | with_reducible apply State.chanArrives_only
    | exact Eq.refl true
    | with_reducible apply Leaves.next
    | with_reducible apply Leaves.occurs
    | with_reducible apply Leaves.ite
    | with_reducible apply ChangesOnly.ite
    | with_reducible apply ChangesOnly.foldl
    | with_reducible apply ChangesOnly.step ?_ (holdChan_only _ _ _ _)
    | with_reducible apply ChangesOnly.step ?_ (State.recvClose_only _ _ _)
    | with_reducible intro _
    | split
    | dsimp only [id]

theorem execFullRetry_only : ∀ a0 s, Leaves [.coves] s (execFullRetry a0 s) := by
  intro a0 s
  unfold execFullRetry
  repeat' first
    | with_reducible apply ChangesOnly.refl
    | exact Eq.refl true
    | with_reducible apply Leaves.next
    | with_reducible apply Leaves.occurs
    | with_reducible apply Leaves.ite
    | with_reducible apply ChangesOnly.ite
    | with_reducible apply ChangesOnly.foldl
    | with_reducible apply ChangesOnly.step ?_ (State.modChan_only _ _ _)
    | with_reducible apply ChangesOnly.step ?_ (State.sendData_only _ _ _)
    | with_reducible intro _
    | split
    | dsimp only [id]

theorem execClosed_only : ∀ a0 a1 s, Leaves [.clk, .coves, .ctrls, .streams, .bays, .sessions, .portq, .jetty, .integ, .rot, .net, .su, .mg] s (execClosed a0 a1 s) := by
  intro a0 a1 s
  unfold execClosed
  repeat' first
    | with_reducible apply ChangesOnly.refl
    | with_reducible apply State.chanArrives_only
    | exact Eq.refl true
    | with_reducible apply Leaves.next
    | with_reducible apply Leaves.occurs
    | with_reducible apply Leaves.ite
    | with_reducible apply ChangesOnly.ite
    | with_reducible apply ChangesOnly.foldl
    | with_reducible apply ChangesOnly.step ?_ (State.recvClosed_only _ _ _)
    | with_reducible intro _
    | split
    | dsimp only [id]

theorem execCsend_only : ∀ a0 a1 s, Leaves [.clk, .mt, .coves, .ctrls, .streams, .bays, .sessions, .ports, .portq, .jetty, .integ, .rot, .net, .pwr, .su, .ident, .mg] s (execCsend a0 a1 s) := by
  intro a0 a1 s
  unfold execCsend
  repeat' first
    | with_reducible apply ChangesOnly.refl
    | with_reducible apply issue_only
    | exact Eq.refl true
    | with_reducible apply Leaves.next
    | with_reducible apply Leaves.occurs
    | with_reducible apply Leaves.ite
    | with_reducible apply ChangesOnly.ite
    | with_reducible apply ChangesOnly.foldl
    | with_reducible apply ChangesOnly.step ?_ (State.stall_only _ _ _)
    | with_reducible apply ChangesOnly.step ?_ (State.modChan_only _ _ _)
    | with_reducible apply ChangesOnly.step ?_ (State.countClosed_only _ _ _)
    | with_reducible apply ChangesOnly.step ?_ (State.sendData_only _ _ _)
    | with_reducible apply ChangesOnly.step ?_ (State.exception_only _ _ _)
    | with_reducible apply ChangesOnly.step ?_ (State.entryException_only _ _ _)
    | with_reducible apply ChangesOnly.step ?_ (State.retireNext_only _ _ _)
    | with_reducible intro _
    | split
    | dsimp only [id]

theorem execCacc_only : ∀ a0 a1 s, Leaves [.clk, .mt, .coves, .ctrls, .streams, .bays, .sessions, .ports, .portq, .jetty, .integ, .rot, .net, .pwr, .su, .ident, .mg] s (execCacc a0 a1 s) := by
  intro a0 a1 s
  unfold execCacc
  repeat' first
    | with_reducible apply ChangesOnly.refl
    | with_reducible apply issue_only
    | exact Eq.refl true
    | with_reducible apply Leaves.next
    | with_reducible apply Leaves.occurs
    | with_reducible apply Leaves.ite
    | with_reducible apply ChangesOnly.ite
    | with_reducible apply ChangesOnly.foldl
    | with_reducible apply ChangesOnly.step ?_ (State.stall_only _ _ _)
    | with_reducible apply ChangesOnly.step ?_ (State.sendChan_only _ _ _ _)
    | with_reducible apply ChangesOnly.step ?_ (State.modChan_only _ _ _)
    | with_reducible apply ChangesOnly.step ?_ (State.retireNext_only _ _ _)
    | with_reducible intro _
    | split
    | dsimp only [id]

theorem execConnect_only : ∀ a0 a1 s, Leaves [.coves, .bays, .sessions, .portq, .integ, .rot, .su, .mg] s (execConnect a0 a1 s) := by
  intro a0 a1 s
  unfold execConnect
  repeat' first
    | with_reducible apply ChangesOnly.refl
    | with_reducible apply State.chanArrives_only
    | exact Eq.refl true
    | with_reducible apply Leaves.next
    | with_reducible apply Leaves.occurs
    | with_reducible apply Leaves.ite
    | with_reducible apply ChangesOnly.ite
    | with_reducible apply ChangesOnly.foldl
    | with_reducible apply ChangesOnly.step ?_ (holdChan_only _ _ _ _)
    | with_reducible apply ChangesOnly.step ?_ (State.recvConnect_only _ _ _)
    | with_reducible intro _
    | split
    | dsimp only [id]

theorem execFull_only : ∀ a0 a1 s, Leaves [.coves, .bays, .sessions, .portq, .integ, .rot, .su, .mg] s (execFull a0 a1 s) := by
  intro a0 a1 s
  unfold execFull
  repeat' first
    | with_reducible apply ChangesOnly.refl
    | with_reducible apply State.chanArrives_only
    | exact Eq.refl true
    | with_reducible apply Leaves.next
    | with_reducible apply Leaves.occurs
    | with_reducible apply Leaves.ite
    | with_reducible apply ChangesOnly.ite
    | with_reducible apply ChangesOnly.foldl
    | with_reducible apply ChangesOnly.step ?_ (State.recvFull_only _ _ _)
    | with_reducible intro _
    | split
    | dsimp only [id]

theorem execCpoll_only : ∀ a0 a1 s, Leaves [.clk, .mt, .coves, .ctrls, .streams, .bays, .sessions, .ports, .portq, .jetty, .integ, .rot, .net, .pwr, .su, .ident, .mg] s (execCpoll a0 a1 s) := by
  intro a0 a1 s
  unfold execCpoll
  repeat' first
    | with_reducible apply ChangesOnly.refl
    | with_reducible apply issue_only
    | exact Eq.refl true
    | with_reducible apply Leaves.next
    | with_reducible apply Leaves.occurs
    | with_reducible apply Leaves.ite
    | with_reducible apply ChangesOnly.ite
    | with_reducible apply ChangesOnly.foldl
    | with_reducible apply ChangesOnly.step ?_ (selectDone_only _ _ _ _)
    | with_reducible apply ChangesOnly.step ?_ (State.retireNext_only _ _ _)
    | with_reducible intro _
    | split
    | dsimp only [id]

theorem execCsendTimeout_only : ∀ a0 s, Leaves [.clk, .coves, .ctrls, .streams, .bays, .sessions, .portq, .jetty, .integ, .rot, .net, .su, .mg] s (execCsendTimeout a0 s) := by
  intro a0 s
  unfold execCsendTimeout
  repeat' first
    | with_reducible apply ChangesOnly.refl
    | exact Eq.refl true
    | with_reducible apply Leaves.next
    | with_reducible apply Leaves.occurs
    | with_reducible apply Leaves.ite
    | with_reducible apply ChangesOnly.ite
    | with_reducible apply ChangesOnly.foldl
    | with_reducible apply ChangesOnly.step ?_ (State.sendChan_only _ _ _ _)
    | with_reducible apply ChangesOnly.step ?_ (State.modChan_only _ _ _)
    | with_reducible apply ChangesOnly.step ?_ (State.endChan_only _ _ _ _)
    | with_reducible intro _
    | split
    | dsimp only [id]

theorem execWithdraw_only : ∀ a0 a1 s, Leaves [.coves, .bays, .sessions, .portq, .integ, .rot, .su, .mg] s (execWithdraw a0 a1 s) := by
  intro a0 a1 s
  unfold execWithdraw
  repeat' first
    | with_reducible apply ChangesOnly.refl
    | with_reducible apply State.chanArrives_only
    | exact Eq.refl true
    | with_reducible apply Leaves.next
    | with_reducible apply Leaves.occurs
    | with_reducible apply Leaves.ite
    | with_reducible apply ChangesOnly.ite
    | with_reducible apply ChangesOnly.foldl
    | with_reducible apply ChangesOnly.step ?_ (holdChan_only _ _ _ _)
    | with_reducible apply ChangesOnly.step ?_ (State.recvWithdraw_only _ _ _)
    | with_reducible intro _
    | split
    | dsimp only [id]

end Sys2Proof.Machine
end

