-- ==== Sys2Proof/Laws/OnlyNetwork.lean ====
section
/-!
SUPPORT. For each operation and meaning of Machine/Network.lean: the parts of the state that it can change.
-/

set_option linter.unreachableTactic false
set_option linter.unusedTactic false

namespace Sys2Proof.Machine

theorem execBroadcastPacket_only : ∀ a0 a1 s, Leaves [.coves] s (execBroadcastPacket a0 a1 s) := by
  intro a0 a1 s
  unfold execBroadcastPacket
  repeat' first
    | with_reducible apply ChangesOnly.refl
    | exact Eq.refl true
    | with_reducible apply Leaves.next
    | with_reducible apply Leaves.occurs
    | with_reducible apply Leaves.ite
    | with_reducible apply ChangesOnly.ite
    | with_reducible apply ChangesOnly.foldl
    | with_reducible apply ChangesOnly.step ?_ (State.inject_only _ _ _ _ _)
    | with_reducible intro _
    | split
    | dsimp only [id]

theorem State.disarm_only : ∀ s, ChangesOnly [.coves, .net] s (State.disarm s) := by
  intro s
  unfold State.disarm
  repeat' first
    | with_reducible exact Or.inl rfl
    | with_reducible exact Or.inr rfl
    | exact Or.inl rfl
    | with_reducible apply ChangesOnly.refl
    | exact Eq.refl true
    | with_reducible apply ChangesOnly.ite
    | with_reducible apply ChangesOnly.foldl
    | with_reducible intro _
    | split
    | dsimp only [id]
    | with_reducible apply ChangesOnly.record

theorem State.arm_only : ∀ s a1, ChangesOnly [.coves, .net] s (State.arm s a1) := by
  intro s a1
  unfold State.arm
  repeat' first
    | with_reducible exact Or.inl rfl
    | with_reducible exact Or.inr rfl
    | exact Or.inl rfl
    | with_reducible apply ChangesOnly.refl
    | exact Eq.refl true
    | with_reducible apply ChangesOnly.ite
    | with_reducible apply ChangesOnly.foldl
    | with_reducible apply ChangesOnly.step ?_ (State.modCoves_only _ _ _)
    | with_reducible intro _
    | split
    | dsimp only [id]
    | with_reducible apply ChangesOnly.record

theorem State.beginSwapTo_only : ∀ s a1 a2, ChangesOnly [.coves, .net] s (State.beginSwapTo s a1 a2) := by
  intro s a1 a2
  unfold State.beginSwapTo
  repeat' first
    | with_reducible exact Or.inl rfl
    | with_reducible exact Or.inr rfl
    | exact Or.inl rfl
    | with_reducible apply ChangesOnly.refl
    | exact Eq.refl true
    | with_reducible apply ChangesOnly.ite
    | with_reducible apply ChangesOnly.foldl
    | with_reducible apply ChangesOnly.step ?_ (State.arm_only _ _)
    | with_reducible intro _
    | split
    | dsimp only [id]
    | with_reducible apply ChangesOnly.record

theorem execEpochOrderedResume_only : ∀ s, Leaves [.coves, .net] s (execEpochOrderedResume s) := by
  intro s
  unfold execEpochOrderedResume
  repeat' first
    | with_reducible exact Or.inl rfl
    | with_reducible exact Or.inr rfl
    | exact Or.inl rfl
    | with_reducible apply ChangesOnly.refl
    | exact Eq.refl true
    | with_reducible apply Leaves.next
    | with_reducible apply Leaves.occurs
    | with_reducible apply Leaves.ite
    | with_reducible apply ChangesOnly.ite
    | with_reducible apply ChangesOnly.foldl
    | with_reducible apply ChangesOnly.step ?_ (State.beginSwapTo_only _ _ _)
    | with_reducible apply ChangesOnly.step ?_ (State.enter_only _ _)
    | with_reducible intro _
    | split
    | dsimp only [id]
    | with_reducible apply ChangesOnly.record

theorem State.takeOutcome_only : ∀ s a1 a2, ChangesOnly [.coves, .bays] s (State.takeOutcome s a1 a2) := by
  intro s a1 a2
  unfold State.takeOutcome
  repeat' first
    | with_reducible apply ChangesOnly.refl
    | with_reducible apply ChangesOnly.trans ?_ (State.eject_only ?_ _ _ _ ?_)
    | exact Eq.refl true
    | with_reducible apply ChangesOnly.ite
    | with_reducible apply ChangesOnly.foldl
    | with_reducible apply ChangesOnly.step ?_ (State.stepVote_only _ _)
    | with_reducible intro _
    | split
    | dsimp only [id]

theorem execEpochArmCheck_only : ∀ a0 s, Leaves [.coves, .net] s (execEpochArmCheck a0 s) := by
  intro a0 s
  unfold execEpochArmCheck
  repeat' first
    | with_reducible apply ChangesOnly.refl
    | exact Eq.refl true
    | with_reducible apply Leaves.next
    | with_reducible apply Leaves.occurs
    | with_reducible apply Leaves.ite
    | with_reducible apply ChangesOnly.ite
    | with_reducible apply ChangesOnly.foldl
    | with_reducible apply ChangesOnly.step ?_ (State.disarm_only _)
    | with_reducible apply ChangesOnly.step ?_ (State.arm_only _ _)
    | with_reducible apply ChangesOnly.step ?_ (State.modCoves_only _ _ _)
    | with_reducible intro _
    | split
    | dsimp only [id]

theorem execEpochSwap_only : ∀ s, Leaves [.coves, .bays, .net] s (execEpochSwap s) := by
  intro s
  unfold execEpochSwap
  repeat' first
    | with_reducible exact Or.inl rfl
    | with_reducible exact Or.inr rfl
    | exact Or.inl rfl
    | with_reducible apply ChangesOnly.refl
    | exact Eq.refl true
    | with_reducible apply Leaves.next
    | with_reducible apply Leaves.occurs
    | with_reducible apply Leaves.ite
    | with_reducible apply ChangesOnly.ite
    | with_reducible apply ChangesOnly.foldl
    | with_reducible intro _
    | split
    | dsimp only [id]
    | with_reducible apply ChangesOnly.record

theorem State.beginSwap_only : ∀ s, ChangesOnly [.coves, .net] s (State.beginSwap s) := by
  intro s
  unfold State.beginSwap
  repeat' first
    | with_reducible apply ChangesOnly.refl
    | exact Eq.refl true
    | with_reducible apply ChangesOnly.ite
    | with_reducible apply ChangesOnly.foldl
    | with_reducible apply ChangesOnly.step ?_ (State.beginSwapTo_only _ _ _)
    | with_reducible intro _
    | split
    | dsimp only [id]

theorem State.leave_only : ∀ s a1 a2 a3 a4, ChangesOnly [.coves, .bays] s (State.leave s a1 a2 a3 a4) := by
  intro s a1 a2 a3 a4
  unfold State.leave
  repeat' first
    | with_reducible apply ChangesOnly.refl
    | exact Eq.refl true
    | with_reducible apply ChangesOnly.ite
    | with_reducible apply ChangesOnly.foldl
    | with_reducible apply ChangesOnly.step ?_ (State.modCove_only _ _ _)
    | with_reducible apply ChangesOnly.step ?_ (State.takeOutcome_only _ _ _)
    | with_reducible intro _
    | split
    | dsimp only [id]

theorem execArbiterDecision_only : ∀ a0 a1 a2 s, Leaves [.coves, .bays, .sessions, .portq, .integ, .rot, .su, .mg] s (execArbiterDecision a0 a1 a2 s) := by
  intro a0 a1 a2 s
  unfold execArbiterDecision
  repeat' first
    | with_reducible apply ChangesOnly.refl
    | exact Eq.refl true
    | with_reducible apply Leaves.next
    | with_reducible apply Leaves.occurs
    | with_reducible apply Leaves.ite
    | with_reducible apply ChangesOnly.ite
    | with_reducible apply ChangesOnly.foldl
    | with_reducible apply ChangesOnly.step ?_ (State.modCove_only _ _ _)
    | with_reducible apply ChangesOnly.step ?_ (State.leave_only _ _ _ _ _)
    | with_reducible apply ChangesOnly.step ?_ (State.netCount_only _ _ _)
    | with_reducible apply ChangesOnly.step ?_ (State.hwError_only _ _ _)
    | with_reducible apply ChangesOnly.step ?_ (State.enter_only _ _)
    | with_reducible apply ChangesOnly.step ?_ (State.coveError_only _ _ _)
    | with_reducible intro _
    | split
    | dsimp only [id]

theorem execTelemetryPacket_only : ∀ a0 s, Leaves [.coves] s (execTelemetryPacket a0 s) := by
  intro a0 s
  unfold execTelemetryPacket
  repeat' first
    | with_reducible apply ChangesOnly.refl
    | with_reducible apply ChangesOnly.trans ?_ (State.eject_only ?_ _ _ _ ?_)
    | exact Eq.refl true
    | with_reducible apply Leaves.next
    | with_reducible apply Leaves.occurs
    | with_reducible apply Leaves.ite
    | with_reducible apply ChangesOnly.ite
    | with_reducible apply ChangesOnly.foldl
    | with_reducible apply ChangesOnly.step ?_ (State.modCove_only _ _ _)
    | with_reducible apply ChangesOnly.step ?_ (State.inject_only _ _ _ _ _)
    | with_reducible apply ChangesOnly.step ?_ (State.netCount_only _ _ _)
    | with_reducible intro _
    | split
    | dsimp only [id]

theorem State.disableLink_only : ∀ s a1 a2, ChangesOnly [.coves, .sessions, .portq, .rot, .su] s (State.disableLink s a1 a2) := by
  intro s a1 a2
  unfold State.disableLink
  repeat' first
    | with_reducible apply ChangesOnly.refl
    | exact Eq.refl true
    | with_reducible apply ChangesOnly.ite
    | with_reducible apply ChangesOnly.foldl
    | with_reducible apply ChangesOnly.step ?_ (State.modCove_only _ _ _)
    | with_reducible apply ChangesOnly.step ?_ (State.fenceForced_only _ _)
    | with_reducible intro _
    | split
    | dsimp only [id]

theorem execLinkDisable_only : ∀ a0 a1 s, Leaves [.coves, .sessions, .portq, .rot, .net, .su, .mg] s (execLinkDisable a0 a1 s) := by
  intro a0 a1 s
  unfold execLinkDisable
  repeat' first
    | with_reducible apply ChangesOnly.refl
    | exact Eq.refl true
    | with_reducible apply Leaves.next
    | with_reducible apply Leaves.occurs
    | with_reducible apply Leaves.ite
    | with_reducible apply ChangesOnly.ite
    | with_reducible apply ChangesOnly.foldl
    | with_reducible apply ChangesOnly.step ?_ (State.beginSwap_only _)
    | with_reducible apply ChangesOnly.step ?_ (State.disableLink_only _ _ _)
    | with_reducible apply ChangesOnly.step ?_ (State.logCove_only _ _ _)
    | with_reducible intro _
    | split
    | dsimp only [id]

theorem execFlagPacket_only : ∀ a0 s, Leaves [.coves] s (execFlagPacket a0 s) := by
  intro a0 s
  unfold execFlagPacket
  repeat' first
    | with_reducible apply ChangesOnly.refl
    | with_reducible apply ChangesOnly.trans ?_ (State.eject_only ?_ _ _ _ ?_)
    | exact Eq.refl true
    | with_reducible apply Leaves.next
    | with_reducible apply Leaves.occurs
    | with_reducible apply Leaves.ite
    | with_reducible apply ChangesOnly.ite
    | with_reducible apply ChangesOnly.foldl
    | with_reducible apply ChangesOnly.step ?_ (State.modCove_only _ _ _)
    | with_reducible apply ChangesOnly.step ?_ (State.netCount_only _ _ _)
    | with_reducible intro _
    | split
    | dsimp only [id]

theorem execCnE408Mask_only : ∀ a0 a1 a2 s, Leaves [.coves] s (execCnE408Mask a0 a1 a2 s) := by
  intro a0 a1 a2 s
  unfold execCnE408Mask
  repeat' first
    | with_reducible apply ChangesOnly.refl
    | exact Eq.refl true
    | with_reducible apply Leaves.next
    | with_reducible apply Leaves.occurs
    | with_reducible apply Leaves.ite
    | with_reducible apply ChangesOnly.ite
    | with_reducible apply ChangesOnly.foldl
    | with_reducible apply ChangesOnly.step ?_ (State.modCove_only _ _ _)
    | with_reducible intro _
    | split
    | dsimp only [id]

theorem execCnInjPar_only : ∀ a0 a1 s, Leaves [.coves] s (execCnInjPar a0 a1 s) := by
  intro a0 a1 s
  unfold execCnInjPar
  repeat' first
    | with_reducible apply ChangesOnly.refl
    | exact Eq.refl true
    | with_reducible apply Leaves.next
    | with_reducible apply Leaves.occurs
    | with_reducible apply Leaves.ite
    | with_reducible apply ChangesOnly.ite
    | with_reducible apply ChangesOnly.foldl
    | with_reducible apply ChangesOnly.step ?_ (State.modCove_only _ _ _)
    | with_reducible intro _
    | split
    | dsimp only [id]

end Sys2Proof.Machine
end

