-- ==== Sys2Proof/Laws/OnlyRotation.lean ====
section
/-!
SUPPORT. For each operation and meaning of Machine/Rotation.lean: the parts of the state that it can change.
-/

set_option linter.unreachableTactic false
set_option linter.unusedTactic false

namespace Sys2Proof.Machine

theorem State.reloadAfter_only : ∀ s a1 a2 a3, ChangesOnly [.coves] s (State.reloadAfter s a1 a2 a3) := by
  intro s a1 a2 a3
  unfold State.reloadAfter
  repeat' first
    | with_reducible apply ChangesOnly.refl
    | exact Eq.refl true
    | with_reducible apply ChangesOnly.ite
    | with_reducible apply ChangesOnly.foldl
    | with_reducible apply ChangesOnly.step ?_ (State.modCove_only _ _ _)
    | with_reducible intro _
    | split
    | dsimp only [id]

theorem State.fenceTested_only : ∀ s a1, ChangesOnly [.coves, .sessions, .portq, .rot, .su] s (State.fenceTested s a1) := by
  intro s a1
  unfold State.fenceTested
  repeat' first
    | with_reducible apply ChangesOnly.refl
    | exact Eq.refl true
    | with_reducible apply ChangesOnly.ite
    | with_reducible apply ChangesOnly.foldl
    | with_reducible apply ChangesOnly.step ?_ (State.fenceForced_only _ _)
    | with_reducible intro _
    | split
    | dsimp only [id]

theorem State.holdBays_only : ∀ s a1, ChangesOnly [.bays] s (State.holdBays s a1) := by
  intro s a1
  unfold State.holdBays
  repeat' first
    | with_reducible apply ChangesOnly.refl
    | exact Eq.refl true
    | with_reducible apply ChangesOnly.ite
    | with_reducible apply ChangesOnly.foldl
    | with_reducible apply ChangesOnly.step ?_ (State.modBay_only _ _ _)
    | with_reducible intro _
    | split
    | dsimp only [id]

theorem State.saveParity_only : ∀ s a1 a2 a3, ChangesOnly [.free, .coves, .mg] s (State.saveParity s a1 a2 a3) := by
  intro s a1 a2 a3
  unfold State.saveParity
  repeat' first
    | with_reducible apply ChangesOnly.refl
    | exact Eq.refl true
    | with_reducible apply ChangesOnly.ite
    | with_reducible apply ChangesOnly.foldl
    | with_reducible apply ChangesOnly.step ?_ (State.modCove_only _ _ _)
    | with_reducible apply ChangesOnly.step ?_ (State.spend_only _ _)
    | with_reducible apply ChangesOnly.step ?_ (State.logCove_only _ _ _)
    | with_reducible intro _
    | split
    | dsimp only [id]

theorem execHandoverTimeout_only : ∀ a0 s, Leaves [.coves, .bays, .sessions, .portq, .rot, .su, .mg] s (execHandoverTimeout a0 s) := by
  intro a0 s
  unfold execHandoverTimeout
  repeat' first
    | with_reducible apply ChangesOnly.refl
    | exact Eq.refl true
    | with_reducible apply Leaves.next
    | with_reducible apply Leaves.occurs
    | with_reducible apply Leaves.ite
    | with_reducible apply ChangesOnly.ite
    | with_reducible apply ChangesOnly.foldl
    | with_reducible apply ChangesOnly.step ?_ (State.abandonMove_only _ _ _)
    | with_reducible intro _
    | split
    | dsimp only [id]

theorem State.writeItems_only : ∀ s a1 a2 a3, ChangesOnly [.coves] s (State.writeItems s a1 a2 a3) := by
  intro s a1 a2 a3
  unfold State.writeItems
  repeat' first
    | with_reducible apply ChangesOnly.refl
    | exact Eq.refl true
    | with_reducible apply ChangesOnly.ite
    | with_reducible apply ChangesOnly.foldl
    | with_reducible apply ChangesOnly.step ?_ (State.modCove_only _ _ _)
    | with_reducible intro _
    | split
    | dsimp only [id]

theorem State.walkTest_only : ∀ s a1 a2, ChangesOnly [.rot, .mg] s (State.walkTest s a1 a2) := by
  intro s a1 a2
  fun_induction State.walkTest s a1 a2
  all_goals repeat' first
    | (with_reducible apply ChangesOnly.trans; rotate_left; assumption)
    | with_reducible apply ChangesOnly.refl
    | exact Eq.refl true
    | with_reducible apply ChangesOnly.ite
    | with_reducible apply ChangesOnly.foldl
    | with_reducible apply ChangesOnly.step ?_ (State.modField_only _ _ _)
    | with_reducible apply ChangesOnly.step ?_ (State.askMove_only _ _)
    | with_reducible apply ChangesOnly.step ?_ (State.logCove_only _ _ _)
    | with_reducible intro _
    | split
    | dsimp only [id]

theorem State.releaseHeld_only : ∀ s a1, ChangesOnly [.clk, .coves, .ctrls, .streams, .bays, .sessions, .portq, .jetty, .integ, .rot, .net, .su, .mg] s (State.releaseHeld s a1) := by
  intro s a1
  unfold State.releaseHeld
  repeat' first
    | with_reducible apply ChangesOnly.refl
    | exact Eq.refl true
    | with_reducible apply ChangesOnly.ite
    | with_reducible apply ChangesOnly.foldl
    | with_reducible apply ChangesOnly.step ?_ (State.modChan_only _ _ _)
    | with_reducible apply ChangesOnly.step ?_ (State.recvHeld_only _ _ _)
    | with_reducible intro _
    | split
    | dsimp only [id]

theorem State.vacated_only : ∀ s a1 a2, ChangesOnly [.coves, .sessions, .portq, .rot, .su] s (State.vacated s a1 a2) := by
  intro s a1 a2
  unfold State.vacated
  repeat' first
    | with_reducible exact Or.inl rfl
    | with_reducible exact Or.inr rfl
    | exact Or.inl rfl
    | with_reducible apply ChangesOnly.refl
    | exact Eq.refl true
    | with_reducible apply ChangesOnly.ite
    | with_reducible apply ChangesOnly.foldl
    | with_reducible apply ChangesOnly.step ?_ (State.setCoveState_only _ _ _)
    | with_reducible apply ChangesOnly.step ?_ (State.fenceDone_only _ _ _ _)
    | with_reducible intro _
    | split
    | dsimp only [id]
    | with_reducible apply ChangesOnly.record

theorem execWatchMinimumExpiry_only : ∀ a0 s, Leaves [.coves, .bays, .sessions, .portq, .rot, .su, .mg] s (execWatchMinimumExpiry a0 s) := by
  intro a0 s
  unfold execWatchMinimumExpiry
  repeat' first
    | with_reducible apply ChangesOnly.refl
    | exact Eq.refl true
    | with_reducible apply Leaves.next
    | with_reducible apply Leaves.occurs
    | with_reducible apply Leaves.ite
    | with_reducible apply ChangesOnly.ite
    | with_reducible apply ChangesOnly.foldl
    | with_reducible apply ChangesOnly.step ?_ (State.endWatch_only _ _)
    | with_reducible intro _
    | split
    | dsimp only [id]

theorem State.retryFences_only : ∀ s a1, ChangesOnly [.coves, .bays, .sessions, .portq, .rot, .su, .mg] s (State.retryFences s a1) := by
  intro s a1
  unfold State.retryFences
  repeat' first
    | with_reducible apply ChangesOnly.refl
    | exact Eq.refl true
    | with_reducible apply ChangesOnly.ite
    | with_reducible apply ChangesOnly.foldl
    | with_reducible apply ChangesOnly.step ?_ (State.modField_only _ _ _)
    | with_reducible apply ChangesOnly.step ?_ (State.fenceForced_only _ _)
    | with_reducible apply ChangesOnly.step ?_ (State.decideFence_only _ _ _)
    | with_reducible intro _
    | split
    | dsimp only [id]

theorem execRotationTestSlot_only : ∀ a0 s, Leaves [.coves, .bays, .sessions, .portq, .rot, .su, .mg] s (execRotationTestSlot a0 s) := by
  intro a0 s
  unfold execRotationTestSlot
  repeat' first
    | with_reducible apply ChangesOnly.refl
    | exact Eq.refl true
    | with_reducible apply Leaves.next
    | with_reducible apply Leaves.occurs
    | with_reducible apply Leaves.ite
    | with_reducible apply ChangesOnly.ite
    | with_reducible apply ChangesOnly.foldl
    | with_reducible apply ChangesOnly.step ?_ (State.modField_only _ _ _)
    | with_reducible apply ChangesOnly.step ?_ (State.walkTest_only _ _ _)
    | with_reducible apply ChangesOnly.step ?_ (State.retryFences_only _ _)
    | with_reducible intro _
    | split
    | dsimp only [id]

theorem execRowRemap_only : ∀ a0 a1 a2 s, Leaves [.coves, .bays, .sessions, .portq, .integ, .rot, .su, .mg] s (execRowRemap a0 a1 a2 s) := by
  intro a0 a1 a2 s
  unfold execRowRemap
  repeat' first
    | with_reducible apply ChangesOnly.refl
    | exact Eq.refl true
    | with_reducible apply Leaves.next
    | with_reducible apply Leaves.occurs
    | with_reducible apply Leaves.ite
    | with_reducible apply ChangesOnly.ite
    | with_reducible apply ChangesOnly.foldl
    | with_reducible apply ChangesOnly.step ?_ (State.reloadAfter_only _ _ _ _)
    | with_reducible apply ChangesOnly.step ?_ (State.spRemap_only _ _ _ _)
    | with_reducible intro _
    | split
    | dsimp only [id]

theorem execRotPause_only : ∀ a0 a1 s, Leaves [.rot] s (execRotPause a0 a1 s) := by
  intro a0 a1 s
  unfold execRotPause
  repeat' first
    | with_reducible exact Or.inl rfl
    | with_reducible exact Or.inr rfl
    | exact Or.inl rfl
    | with_reducible apply ChangesOnly.refl
    | exact Eq.refl true
    | with_reducible apply Leaves.next
    | with_reducible apply Leaves.occurs
    | with_reducible apply Leaves.ite
    | with_reducible apply ChangesOnly.ite
    | with_reducible apply ChangesOnly.foldl
    | with_reducible intro _
    | split
    | dsimp only [id]
    | with_reducible apply ChangesOnly.record

theorem State.dropPending_only : ∀ s, ChangesOnly [.rot] s (State.dropPending s) := by
  intro s
  unfold State.dropPending
  repeat' first
    | with_reducible apply ChangesOnly.refl
    | exact Eq.refl true
    | with_reducible apply ChangesOnly.ite
    | with_reducible apply ChangesOnly.foldl
    | with_reducible apply ChangesOnly.step ?_ (State.modField_only _ _ _)
    | with_reducible intro _
    | split
    | dsimp only [id]

theorem State.moveEnds_only : ∀ s a1 a2, ChangesOnly [.clk, .coves, .ctrls, .streams, .bays, .sessions, .portq, .jetty, .integ, .rot, .net, .su, .mg] s (State.moveEnds s a1 a2) := by
  intro s a1 a2
  unfold State.moveEnds
  repeat' first
    | with_reducible apply ChangesOnly.refl
    | exact Eq.refl true
    | with_reducible apply ChangesOnly.ite
    | with_reducible apply ChangesOnly.foldl
    | with_reducible apply ChangesOnly.step ?_ (State.nextMove_only _ _)
    | with_reducible apply ChangesOnly.step ?_ (State.dropPending_only _)
    | with_reducible apply ChangesOnly.step ?_ (State.vacated_only _ _ _)
    | with_reducible apply ChangesOnly.step ?_ (State.refitAll_only _)
    | with_reducible apply ChangesOnly.step ?_ (State.releaseHeld_only _ _)
    | with_reducible apply ChangesOnly.step ?_ (State.unhold_only _ _)
    | with_reducible apply ChangesOnly.step ?_ (State.rewatch_only _ _)
    | with_reducible apply ChangesOnly.step ?_ (State.moveSlots_only _ _ _)
    | with_reducible intro _
    | split
    | dsimp only [id]

theorem State.requalify_only : ∀ s a1 a2 a3, ChangesOnly [.coves, .rot, .su] s (State.requalify s a1 a2 a3) := by
  intro s a1 a2 a3
  unfold State.requalify
  repeat' first
    | with_reducible apply ChangesOnly.refl
    | exact Eq.refl true
    | with_reducible apply ChangesOnly.ite
    | with_reducible apply ChangesOnly.foldl
    | with_reducible apply ChangesOnly.step ?_ (State.modCoveTest_only _ _ _)
    | with_reducible apply ChangesOnly.step ?_ (State.setCoveState_only _ _ _)
    | with_reducible apply ChangesOnly.step ?_ (State.journalCove_only _ _)
    | with_reducible intro _
    | split
    | dsimp only [id]

theorem State.restoreImage_only : ∀ s a1 a2, ChangesOnly [.coves, .bays, .sessions, .portq, .integ, .rot, .su, .mg] s (State.restoreImage s a1 a2) := by
  intro s a1 a2
  unfold State.restoreImage
  repeat' first
    | with_reducible apply ChangesOnly.refl
    | exact Eq.refl true
    | with_reducible apply ChangesOnly.ite
    | with_reducible apply ChangesOnly.foldl
    | with_reducible apply ChangesOnly.step ?_ (State.modCove_only _ _ _)
    | with_reducible apply ChangesOnly.step ?_ (State.spRemap_only _ _ _ _)
    | with_reducible intro _
    | split
    | dsimp only [id]

theorem execCoveRestore_only : ∀ a0 a1 a2 s, Leaves [.free, .coves, .bays, .sessions, .portq, .integ, .rot, .su, .mg] s (execCoveRestore a0 a1 a2 s) := by
  intro a0 a1 a2 s
  unfold execCoveRestore
  repeat' first
    | with_reducible apply ChangesOnly.refl
    | exact Eq.refl true
    | with_reducible apply Leaves.next
    | with_reducible apply Leaves.occurs
    | with_reducible apply Leaves.ite
    | with_reducible apply ChangesOnly.ite
    | with_reducible apply ChangesOnly.foldl
    | with_reducible apply ChangesOnly.step ?_ (State.restoreImage_only _ _ _)
    | with_reducible apply ChangesOnly.step ?_ (State.modCove_only _ _ _)
    | with_reducible apply ChangesOnly.step ?_ (State.modField_only _ _ _)
    | with_reducible apply ChangesOnly.step ?_ (State.fenceTested_only _ _)
    | with_reducible apply ChangesOnly.step ?_ (State.requalify_only _ _ _ _)
    | with_reducible apply ChangesOnly.step ?_ (State.spend_only _ _)
    | with_reducible apply ChangesOnly.step ?_ (State.modCoveTest_only _ _ _)
    | with_reducible apply ChangesOnly.step ?_ (State.backDark_only _ _)
    | with_reducible apply ChangesOnly.step ?_ (State.charge_only _ _ _)
    | with_reducible intro _
    | split
    | dsimp only [id]

theorem execShapeSwitch_only : ∀ a0 a1 s, Leaves [.clk, .coves, .ctrls, .streams, .bays, .sessions, .portq, .jetty, .rot, .net, .mg] s (execShapeSwitch a0 a1 s) := by
  intro a0 a1 s
  unfold execShapeSwitch
  repeat' first
    | with_reducible exact Or.inl rfl
    | with_reducible exact Or.inr rfl
    | exact Or.inl rfl
    | with_reducible apply ChangesOnly.refl
    | exact Eq.refl true
    | with_reducible apply Leaves.next
    | with_reducible apply Leaves.occurs
    | with_reducible apply Leaves.ite
    | with_reducible apply ChangesOnly.ite
    | with_reducible apply ChangesOnly.foldl
    | with_reducible apply ChangesOnly.step ?_ (State.modBay_only _ _ _)
    | with_reducible apply ChangesOnly.step ?_ (State.stopBay_only _ _ _)
    | with_reducible apply ChangesOnly.step ?_ (State.loadShape_only _ _ _ _ _)
    | with_reducible apply ChangesOnly.step ?_ (State.writeItems_only _ _ _ _)
    | with_reducible apply ChangesOnly.step ?_ (State.logBay_only _ _ _)
    | with_reducible apply ChangesOnly.step ?_ (State.event_only _ _ _ _)
    | with_reducible intro _
    | split
    | dsimp only [id]
    | with_reducible apply ChangesOnly.record

theorem execRotationTestStart_only : ∀ a0 s, Leaves [.rot] s (execRotationTestStart a0 s) := by
  intro a0 s
  unfold execRotationTestStart
  repeat' first
    | with_reducible exact Or.inl rfl
    | with_reducible exact Or.inr rfl
    | exact Or.inl rfl
    | with_reducible apply ChangesOnly.refl
    | exact Eq.refl true
    | with_reducible apply Leaves.next
    | with_reducible apply Leaves.occurs
    | with_reducible apply Leaves.ite
    | with_reducible apply ChangesOnly.ite
    | with_reducible apply ChangesOnly.foldl
    | with_reducible apply ChangesOnly.step ?_ (State.modField_only _ _ _)
    | with_reducible intro _
    | split
    | dsimp only [id]
    | with_reducible apply ChangesOnly.record

theorem execTestPhaseComplete_only : ∀ a0 a1 a2 s, Leaves [.free, .coves, .bays, .sessions, .portq, .integ, .rot, .su, .mg] s (execTestPhaseComplete a0 a1 a2 s) := by
  intro a0 a1 a2 s
  unfold execTestPhaseComplete
  repeat' first
    | with_reducible apply ChangesOnly.refl
    | exact Eq.refl true
    | with_reducible apply Leaves.next
    | with_reducible apply Leaves.occurs
    | with_reducible apply Leaves.ite
    | with_reducible apply ChangesOnly.ite
    | with_reducible apply ChangesOnly.foldl
    | with_reducible apply ChangesOnly.step ?_ (State.modCove_only _ _ _)
    | with_reducible apply ChangesOnly.step ?_ (State.modField_only _ _ _)
    | with_reducible apply ChangesOnly.step ?_ (State.fenceTested_only _ _)
    | with_reducible apply ChangesOnly.step ?_ (State.spend_only _ _)
    | with_reducible apply ChangesOnly.step ?_ (State.failTest_only _ _ _)
    | with_reducible apply ChangesOnly.step ?_ (State.logCove_only _ _ _)
    | with_reducible intro _
    | split
    | dsimp only [id]

theorem execFenceCapacityReturn_only : ∀ a0 s, Leaves [.coves, .bays, .sessions, .portq, .rot, .su, .mg] s (execFenceCapacityReturn a0 s) := by
  intro a0 s
  unfold execFenceCapacityReturn
  repeat' first
    | with_reducible apply ChangesOnly.refl
    | exact Eq.refl true
    | with_reducible apply Leaves.next
    | with_reducible apply Leaves.occurs
    | with_reducible apply Leaves.ite
    | with_reducible apply ChangesOnly.ite
    | with_reducible apply ChangesOnly.foldl
    | with_reducible apply ChangesOnly.step ?_ (State.modField_only _ _ _)
    | with_reducible apply ChangesOnly.step ?_ (State.decideFence_only _ _ _)
    | with_reducible intro _
    | split
    | dsimp only [id]

theorem State.armMoves_only : ∀ s a1, ChangesOnly [.coves, .net] s (State.armMoves s a1) := by
  intro s a1
  unfold State.armMoves
  repeat' first
    | with_reducible apply ChangesOnly.refl
    | exact Eq.refl true
    | with_reducible apply ChangesOnly.ite
    | with_reducible apply ChangesOnly.foldl
    | with_reducible apply ChangesOnly.step ?_ (State.beginSwapTo_only _ _ _)
    | with_reducible intro _
    | split
    | dsimp only [id]

theorem State.goDark_only : ∀ s a1 a2, ChangesOnly [.clk, .coves, .ctrls, .streams, .bays, .sessions, .portq, .jetty, .rot, .net, .su, .mg] s (State.goDark s a1 a2) := by
  intro s a1 a2
  unfold State.goDark
  repeat' first
    | with_reducible exact Or.inl rfl
    | with_reducible exact Or.inr rfl
    | exact Or.inl rfl
    | with_reducible apply ChangesOnly.refl
    | exact Eq.refl true
    | with_reducible apply ChangesOnly.ite
    | with_reducible apply ChangesOnly.foldl
    | with_reducible apply ChangesOnly.step ?_ (State.nextMove_only _ _)
    | with_reducible apply ChangesOnly.step ?_ (State.refitAll_only _)
    | with_reducible apply ChangesOnly.step ?_ (State.armMoves_only _ _)
    | with_reducible apply ChangesOnly.step ?_ (State.rewatch_only _ _)
    | with_reducible apply ChangesOnly.step ?_ (State.moveSlots_only _ _ _)
    | with_reducible apply ChangesOnly.step ?_ (State.holdBays_only _ _)
    | with_reducible apply ChangesOnly.step ?_ (State.fenceDone_only _ _ _ _)
    | with_reducible intro _
    | split
    | dsimp only [id]
    | with_reducible apply ChangesOnly.record

theorem execHandoverMoveComplete_only : ∀ a0 a1 s, Leaves [.clk, .coves, .ctrls, .streams, .bays, .sessions, .portq, .jetty, .integ, .rot, .net, .su, .mg] s (execHandoverMoveComplete a0 a1 s) := by
  intro a0 a1 s
  unfold execHandoverMoveComplete
  repeat' first
    | with_reducible exact Or.inl rfl
    | with_reducible exact Or.inr rfl
    | exact Or.inl rfl
    | with_reducible apply ChangesOnly.refl
    | exact Eq.refl true
    | with_reducible apply Leaves.next
    | with_reducible apply Leaves.occurs
    | with_reducible apply Leaves.ite
    | with_reducible apply ChangesOnly.ite
    | with_reducible apply ChangesOnly.foldl
    | with_reducible apply ChangesOnly.step ?_ (State.armMoves_only _ _)
    | with_reducible apply ChangesOnly.step ?_ (State.disarm_only _)
    | with_reducible apply ChangesOnly.step ?_ (State.abandonMove_only _ _ _)
    | with_reducible apply ChangesOnly.step ?_ (State.moveEnds_only _ _ _)
    | with_reducible intro _
    | split
    | dsimp only [id]
    | with_reducible apply ChangesOnly.record

theorem execRotIntervalWrite_only : ∀ a0 a1 s, Leaves [.rot] s (execRotIntervalWrite a0 a1 s) := by
  intro a0 a1 s
  unfold execRotIntervalWrite
  repeat' first
    | with_reducible exact Or.inl rfl
    | with_reducible exact Or.inr rfl
    | exact Or.inl rfl
    | with_reducible apply ChangesOnly.refl
    | exact Eq.refl true
    | with_reducible apply Leaves.next
    | with_reducible apply Leaves.occurs
    | with_reducible apply Leaves.ite
    | with_reducible apply ChangesOnly.ite
    | with_reducible apply ChangesOnly.foldl
    | with_reducible intro _
    | split
    | dsimp only [id]
    | with_reducible apply ChangesOnly.record

theorem execHandoverMoveStart_only : ∀ a0 s, Leaves [.clk, .coves, .ctrls, .streams, .bays, .sessions, .portq, .jetty, .rot, .net, .su, .mg] s (execHandoverMoveStart a0 s) := by
  intro a0 s
  unfold execHandoverMoveStart
  repeat' first
    | with_reducible exact Or.inl rfl
    | with_reducible exact Or.inr rfl
    | exact Or.inl rfl
    | with_reducible apply ChangesOnly.refl
    | exact Eq.refl true
    | with_reducible apply Leaves.next
    | with_reducible apply Leaves.occurs
    | with_reducible apply Leaves.ite
    | with_reducible apply ChangesOnly.ite
    | with_reducible apply ChangesOnly.foldl
    | with_reducible apply ChangesOnly.step ?_ (State.nextMove_only _ _)
    | with_reducible apply ChangesOnly.step ?_ (State.stopBay_only _ _ _)
    | with_reducible apply ChangesOnly.step ?_ (State.armMoves_only _ _)
    | with_reducible apply ChangesOnly.step ?_ (State.abandonMove_only _ _ _)
    | with_reducible apply ChangesOnly.step ?_ (State.goDark_only _ _ _)
    | with_reducible apply ChangesOnly.step ?_ (State.holdBays_only _ _)
    | with_reducible intro _
    | split
    | dsimp only [id]
    | with_reducible apply ChangesOnly.record

theorem execCoveSave_only : ∀ a0 a1 s, Leaves [.free, .coves, .hbm, .rot, .mg] s (execCoveSave a0 a1 s) := by
  intro a0 a1 s
  unfold execCoveSave
  repeat' first
    | with_reducible exact Or.inl rfl
    | with_reducible exact Or.inr rfl
    | exact Or.inl rfl
    | with_reducible apply ChangesOnly.refl
    | exact Eq.refl true
    | with_reducible apply Leaves.next
    | with_reducible apply Leaves.occurs
    | with_reducible apply Leaves.ite
    | with_reducible apply ChangesOnly.ite
    | with_reducible apply ChangesOnly.foldl
    | with_reducible apply ChangesOnly.step ?_ (State.modCove_only _ _ _)
    | with_reducible apply ChangesOnly.step ?_ (State.modField_only _ _ _)
    | with_reducible apply ChangesOnly.step ?_ (State.saveParity_only _ _ _ _)
    | with_reducible intro _
    | split
    | dsimp only [id]
    | with_reducible apply ChangesOnly.record

theorem execRecurExpiry_only : ∀ a0 s, Leaves [.rot] s (execRecurExpiry a0 s) := by
  intro a0 s
  unfold execRecurExpiry
  repeat' first
    | with_reducible apply ChangesOnly.refl
    | exact Eq.refl true
    | with_reducible apply Leaves.next
    | with_reducible apply Leaves.occurs
    | with_reducible apply Leaves.ite
    | with_reducible apply ChangesOnly.ite
    | with_reducible apply ChangesOnly.foldl
    | with_reducible apply ChangesOnly.step ?_ (State.modCoveTest_only _ _ _)
    | with_reducible intro _
    | split
    | dsimp only [id]

end Sys2Proof.Machine
end

