-- ==== Sys2Proof/Laws/MemRotation.lean ====
section
/-!
SUPPORT. The operations and meanings of Machine/Rotation.lean that write HBM or the devices keep their memories in canonical form.
-/

set_option linter.unreachableTactic false
set_option linter.unusedTactic false

namespace Sys2Proof.Machine

theorem execCoveSave_mem (c : Fin 800) (l : List (Fin 16 × Fin 2048)) (s : State) : OutMemKept s (execCoveSave c l s) := by
  have m (t : State) (c : Nat) (g : Cove → Cove) : MemKept t (t.modCove c g) := (MemKept.refl t).step (State.modCove_only t c g) rfl
  have f3 (t : State) (f : Nat) (g : FieldTest → FieldTest) : MemKept t (t.modField f g) := (MemKept.refl t).step (State.modField_only t f g) rfl
  unfold execCoveSave
  extract_lets c f held named s1 p n rows digest s2 s3 s4
  have h1 : MemKept s s1 := .foldl (fun t r => (MemKept.refl t).step (State.saveParity_only t _ _ _) rfl) _ (.refl _)
  clear_value rows p
  have h2 : MemKept s s2 := h1.putHbm _ _
  clear_value s2
  have h3 : MemKept s s3 := h2.step (State.modCove_only _ _ _) rfl
  clear_value s3
  have h4 : MemKept s s4 := by
    cases rows with
    | some l => exact h3.step (State.modCove_only _ _ _) rfl
    | none => exact h3
  clear_value s4
  exact OutMemKept.occurs (h4.step (State.modField_only _ _ _) rfl)

end Sys2Proof.Machine
end

