-- ==== Sys2Proof/Laws/OnlyStartupOps.lean ====
section
/-!
SUPPORT. For each operation and meaning of Machine/StartupOps.lean: the parts of the state that it can change.
-/

set_option linter.unreachableTactic false
set_option linter.unusedTactic false

namespace Sys2Proof.Machine

theorem State.loadTables_only : ∀ s, ChangesOnly [.coves, .net] s (State.loadTables s) := by
  intro s
  unfold State.loadTables
  repeat' first
    | with_reducible exact Or.inl rfl
    | with_reducible exact Or.inr rfl
    | exact Or.inl rfl
    | with_reducible apply ChangesOnly.refl
    | exact Eq.refl true
    | with_reducible apply ChangesOnly.ite
    | with_reducible apply ChangesOnly.foldl
    | with_reducible intro _
    | split
    | dsimp only [id]
    | with_reducible apply ChangesOnly.record

theorem State.fenceStart_only : ∀ s a1, ChangesOnly [.coves, .rot, .su] s (State.fenceStart s a1) := by
  intro s a1
  unfold State.fenceStart
  repeat' first
    | with_reducible apply ChangesOnly.refl
    | exact Eq.refl true
    | with_reducible apply ChangesOnly.ite
    | with_reducible apply ChangesOnly.foldl
    | with_reducible apply ChangesOnly.step ?_ (State.modCoveTest_only _ _ _)
    | with_reducible apply ChangesOnly.step ?_ (State.setMasks_only _ _ _)
    | with_reducible apply ChangesOnly.step ?_ (State.setCoveState_only _ _ _)
    | with_reducible intro _
    | split
    | dsimp only [id]

theorem State.failCoves_only : ∀ s a1 a2, ChangesOnly [.free, .coves, .rot, .su, .mg] s (State.failCoves s a1 a2) := by
  intro s a1 a2
  unfold State.failCoves
  repeat' first
    | with_reducible exact Or.inl rfl
    | with_reducible exact Or.inr rfl
    | exact Or.inl rfl
    | with_reducible apply ChangesOnly.refl
    | exact Eq.refl true
    | with_reducible apply ChangesOnly.ite
    | with_reducible apply ChangesOnly.foldl
    | with_reducible apply ChangesOnly.step ?_ (State.spend_only _ _)
    | with_reducible apply ChangesOnly.step ?_ (State.owesRecord_only _ _ _ _ _)
    | with_reducible apply ChangesOnly.step ?_ (State.logCove_only _ _ _)
    | with_reducible apply ChangesOnly.step ?_ (State.fenceStart_only _ _)
    | with_reducible intro _
    | split
    | dsimp only [id]
    | with_reducible apply ChangesOnly.record

theorem State.enterStage_only : ∀ s a1, ChangesOnly [.su] s (State.enterStage s a1) := by
  intro s a1
  unfold State.enterStage
  repeat' first
    | with_reducible exact Or.inl rfl
    | with_reducible exact Or.inr rfl
    | exact Or.inl rfl
    | with_reducible apply ChangesOnly.refl
    | exact Eq.refl true
    | with_reducible apply ChangesOnly.ite
    | with_reducible apply ChangesOnly.foldl
    | with_reducible intro _
    | split
    | dsimp only [id]
    | with_reducible apply ChangesOnly.record

theorem State.sounding_only : ∀ s a1 a2 a3, ChangesOnly [.su, .mg] s (State.sounding s a1 a2 a3) := by
  intro s a1 a2 a3
  unfold State.sounding
  repeat' first
    | with_reducible exact Or.inl rfl
    | with_reducible exact Or.inr rfl
    | exact Or.inl rfl
    | with_reducible apply ChangesOnly.refl
    | exact Eq.refl true
    | with_reducible apply ChangesOnly.ite
    | with_reducible apply ChangesOnly.foldl
    | with_reducible apply ChangesOnly.step ?_ (State.addLog_only _ _)
    | with_reducible intro _
    | split
    | dsimp only [id]
    | with_reducible apply ChangesOnly.record

theorem State.endStage_only : ∀ s a1 a2, ChangesOnly [.su, .mg] s (State.endStage s a1 a2) := by
  intro s a1 a2
  unfold State.endStage
  repeat' first
    | with_reducible apply ChangesOnly.refl
    | exact Eq.refl true
    | with_reducible apply ChangesOnly.ite
    | with_reducible apply ChangesOnly.foldl
    | with_reducible apply ChangesOnly.step ?_ (State.enterStage_only _ _)
    | with_reducible apply ChangesOnly.step ?_ (State.sounding_only _ _ _ _)
    | with_reducible intro _
    | split
    | dsimp only [id]

theorem State.startPort_only : ∀ s a1 a2, ChangesOnly [.ports, .portq] s (State.startPort s a1 a2) := by
  intro s a1 a2
  unfold State.startPort
  repeat' first
    | with_reducible apply ChangesOnly.refl
    | exact Eq.refl true
    | with_reducible apply ChangesOnly.ite
    | with_reducible apply ChangesOnly.foldl
    | with_reducible apply ChangesOnly.step ?_ (State.modPort_only _ _ _)
    | with_reducible apply ChangesOnly.step ?_ (State.modPortQ_only _ _ _)
    | with_reducible apply ChangesOnly.step ?_ (State.beginTraining_only _ _)
    | with_reducible intro _
    | split
    | dsimp only [id]

theorem State.stage9_only : ∀ s a1 a2, ChangesOnly [.free, .coves, .ports, .portq, .rot, .net, .su, .mg] s (State.stage9 s a1 a2) := by
  intro s a1 a2
  unfold State.stage9
  repeat' first
    | with_reducible exact Or.inl rfl
    | with_reducible exact Or.inr rfl
    | exact Or.inl rfl
    | with_reducible apply ChangesOnly.refl
    | exact Eq.refl true
    | with_reducible apply ChangesOnly.ite
    | with_reducible apply ChangesOnly.foldl
    | with_reducible apply ChangesOnly.step ?_ (State.modCove_only _ _ _)
    | with_reducible apply ChangesOnly.step ?_ (State.loadTables_only _)
    | with_reducible apply ChangesOnly.step ?_ (State.failCoves_only _ _ _)
    | with_reducible apply ChangesOnly.step ?_ (State.endStage_only _ _ _)
    | with_reducible apply ChangesOnly.step ?_ (State.startPort_only _ _ _)
    | with_reducible intro _
    | split
    | dsimp only [id]
    | with_reducible apply ChangesOnly.record

theorem State.restoreCove_only : ∀ s a1, ChangesOnly [.coves, .rot] s (State.restoreCove s a1) := by
  intro s a1
  unfold State.restoreCove
  repeat' first
    | with_reducible apply ChangesOnly.refl
    | exact Eq.refl true
    | with_reducible apply ChangesOnly.ite
    | with_reducible apply ChangesOnly.foldl
    | with_reducible apply ChangesOnly.step ?_ (State.modCove_only _ _ _)
    | with_reducible apply ChangesOnly.step ?_ (State.modField_only _ _ _)
    | with_reducible apply ChangesOnly.step ?_ (State.modCoveTest_only _ _ _)
    | with_reducible intro _
    | split
    | dsimp only [id]

theorem State.setPoints_only : ∀ s a1, ChangesOnly [.clk] s (State.setPoints s a1) := by
  intro s a1
  unfold State.setPoints
  repeat' first
    | with_reducible apply ChangesOnly.refl
    | exact Eq.refl true
    | with_reducible apply ChangesOnly.ite
    | with_reducible apply ChangesOnly.foldl
    | with_reducible apply ChangesOnly.step ?_ (State.modHalf_only _ _ _)
    | with_reducible intro _
    | split
    | dsimp only [id]

theorem State.suError_only : ∀ s a1, ChangesOnly [.su, .mg] s (State.suError s a1) := by
  intro s a1
  unfold State.suError
  repeat' first
    | with_reducible exact Or.inl rfl
    | with_reducible exact Or.inr rfl
    | exact Or.inl rfl
    | with_reducible apply ChangesOnly.refl
    | exact Eq.refl true
    | with_reducible apply ChangesOnly.ite
    | with_reducible apply ChangesOnly.foldl
    | with_reducible apply ChangesOnly.step ?_ (State.log_only _ _)
    | with_reducible intro _
    | split
    | dsimp only [id]
    | with_reducible apply ChangesOnly.record

theorem State.restoreMasks_only : ∀ s a1, ChangesOnly [.rot, .su, .mg] s (State.restoreMasks s a1) := by
  intro s a1
  unfold State.restoreMasks
  repeat' first
    | with_reducible exact Or.inl rfl
    | with_reducible exact Or.inr rfl
    | exact Or.inl rfl
    | with_reducible apply ChangesOnly.refl
    | exact Eq.refl true
    | with_reducible apply ChangesOnly.ite
    | with_reducible apply ChangesOnly.foldl
    | with_reducible apply ChangesOnly.step ?_ (State.suError_only _ _)
    | with_reducible intro _
    | split
    | dsimp only [id]
    | with_reducible apply ChangesOnly.record

theorem State.testCove_only : ∀ s a1 a2, ChangesOnly [.coves, .bays, .sessions, .portq, .integ, .rot, .su, .mg] s (State.testCove s a1 a2) := by
  intro s a1 a2
  unfold State.testCove
  repeat' first
    | with_reducible apply ChangesOnly.refl
    | exact Eq.refl true
    | with_reducible apply ChangesOnly.ite
    | with_reducible apply ChangesOnly.foldl
    | with_reducible apply ChangesOnly.step ?_ (State.modCove_only _ _ _)
    | with_reducible apply ChangesOnly.step ?_ (State.spRemap_only _ _ _ _)
    | with_reducible intro _
    | split
    | dsimp only [id]

theorem State.stage7_only : ∀ s a1 a2 a3, ChangesOnly [.free, .clk, .coves, .bays, .sessions, .portq, .integ, .rot, .net, .su, .mg] s (State.stage7 s a1 a2 a3) := by
  intro s a1 a2 a3
  unfold State.stage7
  repeat' first
    | with_reducible exact Or.inl rfl
    | with_reducible exact Or.inr rfl
    | exact Or.inl rfl
    | with_reducible apply ChangesOnly.refl
    | exact Eq.refl true
    | with_reducible apply ChangesOnly.ite
    | with_reducible apply ChangesOnly.foldl
    | with_reducible apply ChangesOnly.step ?_ (State.loadTables_only _)
    | with_reducible apply ChangesOnly.step ?_ (State.spend_only _ _)
    | with_reducible apply ChangesOnly.step ?_ (State.endStage_only _ _ _)
    | with_reducible apply ChangesOnly.step ?_ (State.failTest_only _ _ _)
    | with_reducible apply ChangesOnly.step ?_ (State.logCove_only _ _ _)
    | with_reducible apply ChangesOnly.step ?_ (State.restoreCove_only _ _)
    | with_reducible apply ChangesOnly.step ?_ (State.setPoints_only _ _)
    | with_reducible apply ChangesOnly.step ?_ (State.restoreMasks_only _ _)
    | with_reducible apply ChangesOnly.step ?_ (State.testCove_only _ _ _)
    | with_reducible apply ChangesOnly.step ?_ (State.fenceStart_only _ _)
    | with_reducible intro _
    | split
    | dsimp only [id]
    | with_reducible apply ChangesOnly.record

theorem State.loadCargo_only : ∀ s, ChangesOnly [.clk, .coves, .hbm, .ctrls, .bays, .su, .mg] s (State.loadCargo s) := by
  intro s
  unfold State.loadCargo
  repeat' first
    | with_reducible exact Or.inl rfl
    | with_reducible exact Or.inr rfl
    | exact Or.inl rfl
    | with_reducible apply ChangesOnly.refl
    | exact Eq.refl true
    | with_reducible apply ChangesOnly.ite
    | with_reducible apply ChangesOnly.foldl
    | with_reducible apply ChangesOnly.step ?_ (State.modBay_only _ _ _)
    | with_reducible apply ChangesOnly.step ?_ (State.loadProgram_only _ _ _ _)
    | with_reducible apply ChangesOnly.step ?_ (State.log_only _ _)
    | with_reducible intro _
    | split
    | dsimp only [id]
    | with_reducible apply ChangesOnly.record

theorem State.deriveIdentity_only : ∀ s a1, ChangesOnly [.img, .ident, .mg] s (State.deriveIdentity s a1) := by
  intro s a1
  unfold State.deriveIdentity
  repeat' first
    | with_reducible exact Or.inl rfl
    | with_reducible exact Or.inr rfl
    | exact Or.inl rfl
    | with_reducible apply ChangesOnly.refl
    | exact Eq.refl true
    | with_reducible apply ChangesOnly.ite
    | with_reducible apply ChangesOnly.foldl
    | with_reducible apply ChangesOnly.step ?_ (State.identErr_only _ _)
    | with_reducible apply ChangesOnly.step ?_ (State.log_only _ _)
    | with_reducible intro _
    | split
    | dsimp only [id]
    | with_reducible apply ChangesOnly.record

theorem State.bootRecord_only : ∀ s a1, ChangesOnly [.su] s (State.bootRecord s a1) := by
  intro s a1
  unfold State.bootRecord
  repeat' first
    | with_reducible apply ChangesOnly.refl
    | exact Eq.refl true
    | with_reducible apply ChangesOnly.ite
    | with_reducible apply ChangesOnly.foldl
    | with_reducible apply ChangesOnly.step ?_ (State.journal_only _ _ _)
    | with_reducible intro _
    | split
    | dsimp only [id]

theorem State.stage11_only : ∀ s, ChangesOnly [.clk, .coves, .hbm, .ctrls, .bays, .rot, .pwr, .su, .mg] s (State.stage11 s) := by
  intro s
  unfold State.stage11
  repeat' first
    | with_reducible exact Or.inl rfl
    | with_reducible exact Or.inr rfl
    | exact Or.inl rfl
    | with_reducible apply ChangesOnly.refl
    | exact Eq.refl true
    | with_reducible apply ChangesOnly.ite
    | with_reducible apply ChangesOnly.foldl
    | with_reducible apply ChangesOnly.step ?_ (State.modField_only _ _ _)
    | with_reducible apply ChangesOnly.step ?_ (State.modBay_only _ _ _)
    | with_reducible apply ChangesOnly.step ?_ (State.loadCargo_only _)
    | with_reducible apply ChangesOnly.step ?_ (State.rewatch_only _ _)
    | with_reducible intro _
    | split
    | dsimp only [id]
    | with_reducible apply ChangesOnly.record

theorem State.readOwners_only : ∀ s, ChangesOnly [.img, .ident, .mg] s (State.readOwners s) := by
  intro s
  unfold State.readOwners
  repeat' first
    | with_reducible exact Or.inl rfl
    | with_reducible exact Or.inr rfl
    | exact Or.inl rfl
    | with_reducible apply ChangesOnly.refl
    | exact Eq.refl true
    | with_reducible apply ChangesOnly.ite
    | with_reducible apply ChangesOnly.foldl
    | with_reducible apply ChangesOnly.step ?_ (State.identErr_only _ _)
    | with_reducible apply ChangesOnly.step ?_ (State.log_only _ _)
    | with_reducible intro _
    | split
    | dsimp only [id]
    | with_reducible apply ChangesOnly.record

theorem State.startPlls_only : ∀ s, ChangesOnly [.clk] s (State.startPlls s) := by
  intro s
  unfold State.startPlls
  repeat' first
    | with_reducible apply ChangesOnly.refl
    | exact Eq.refl true
    | with_reducible apply ChangesOnly.ite
    | with_reducible apply ChangesOnly.foldl
    | with_reducible apply ChangesOnly.step ?_ (State.startPll_only _ _)
    | with_reducible intro _
    | split
    | dsimp only [id]

theorem State.stage8_only : ∀ s a1 a2 a3 a4, ChangesOnly [.free, .clk, .coves, .sessions, .portq, .rot, .net, .su, .mg] s (State.stage8 s a1 a2 a3 a4) := by
  intro s a1 a2 a3 a4
  unfold State.stage8
  repeat' first
    | with_reducible exact Or.inl rfl
    | with_reducible exact Or.inr rfl
    | exact Or.inl rfl
    | with_reducible apply ChangesOnly.refl
    | exact Eq.refl true
    | with_reducible apply ChangesOnly.ite
    | with_reducible apply ChangesOnly.foldl
    | with_reducible apply ChangesOnly.step ?_ (State.loadTables_only _)
    | with_reducible apply ChangesOnly.step ?_ (State.failCoves_only _ _ _)
    | with_reducible apply ChangesOnly.step ?_ (State.endStage_only _ _ _)
    | with_reducible apply ChangesOnly.step ?_ (State.suError_only _ _)
    | with_reducible apply ChangesOnly.step ?_ (State.disableLink_only _ _ _)
    | with_reducible apply ChangesOnly.step ?_ (State.logCove_only _ _ _)
    | with_reducible apply ChangesOnly.step ?_ (State.setPoints_only _ _)
    | with_reducible apply ChangesOnly.step ?_ (State.clkError_only _ _ _)
    | with_reducible apply ChangesOnly.step ?_ (State.modSeam_only _ _ _)
    | with_reducible apply ChangesOnly.step ?_ (State.fenceStart_only _ _)
    | with_reducible intro _
    | split
    | dsimp only [id]
    | with_reducible apply ChangesOnly.record

theorem State.readJournals_only : ∀ s, ChangesOnly [.su, .mg] s (State.readJournals s) := by
  intro s
  unfold State.readJournals
  repeat' first
    | with_reducible exact Or.inl rfl
    | with_reducible exact Or.inr rfl
    | exact Or.inl rfl
    | with_reducible apply ChangesOnly.refl
    | exact Eq.refl true
    | with_reducible apply ChangesOnly.ite
    | with_reducible apply ChangesOnly.foldl
    | with_reducible apply ChangesOnly.step ?_ (State.suError_only _ _)
    | with_reducible intro _
    | split
    | dsimp only [id]
    | with_reducible apply ChangesOnly.record

theorem State.finishS11_only : ∀ s, ChangesOnly [.su, .mg] s (State.finishS11 s) := by
  intro s
  unfold State.finishS11
  repeat' first
    | with_reducible exact Or.inl rfl
    | with_reducible exact Or.inr rfl
    | exact Or.inl rfl
    | with_reducible apply ChangesOnly.refl
    | exact Eq.refl true
    | with_reducible apply ChangesOnly.ite
    | with_reducible apply ChangesOnly.foldl
    | with_reducible apply ChangesOnly.step ?_ (State.bootRecord_only _ _)
    | with_reducible apply ChangesOnly.step ?_ (State.sounding_only _ _ _ _)
    | with_reducible intro _
    | split
    | dsimp only [id]
    | with_reducible apply ChangesOnly.record

theorem State.holdStage_only : ∀ s a1, ChangesOnly [.su, .mg] s (State.holdStage s a1) := by
  intro s a1
  unfold State.holdStage
  repeat' first
    | with_reducible exact Or.inl rfl
    | with_reducible exact Or.inr rfl
    | exact Or.inl rfl
    | with_reducible apply ChangesOnly.refl
    | exact Eq.refl true
    | with_reducible apply ChangesOnly.ite
    | with_reducible apply ChangesOnly.foldl
    | with_reducible apply ChangesOnly.step ?_ (State.suError_only _ _)
    | with_reducible intro _
    | split
    | dsimp only [id]
    | with_reducible apply ChangesOnly.record

theorem State.stopStart_only : ∀ s a1, ChangesOnly [.clk, .coves, .hbm, .ctrls, .streams, .bays, .sessions, .qps, .ports, .portq, .jetty, .rot, .net, .pwr, .pwrx, .su, .ident, .mg, .pins] s (State.stopStart s a1) := by
  intro s a1
  unfold State.stopStart
  repeat' first
    | with_reducible exact Or.inl rfl
    | with_reducible exact Or.inr rfl
    | exact Or.inl rfl
    | with_reducible apply ChangesOnly.refl
    | exact Eq.refl true
    | with_reducible apply ChangesOnly.ite
    | with_reducible apply ChangesOnly.foldl
    | with_reducible apply ChangesOnly.step ?_ (State.identErr_only _ _)
    | with_reducible apply ChangesOnly.step ?_ (State.suError_only _ _)
    | with_reducible apply ChangesOnly.step ?_ (State.log_only _ _)
    | with_reducible apply ChangesOnly.step ?_ (State.bootRecord_only _ _)
    | with_reducible apply ChangesOnly.step ?_ (State.sounding_only _ _ _ _)
    | with_reducible apply ChangesOnly.step ?_ (State.mainOff_only _)
    | with_reducible intro _
    | split
    | dsimp only [id]
    | with_reducible apply ChangesOnly.record

theorem State.noteCap_only : ∀ s a1, ChangesOnly [.pwr, .mg] s (State.noteCap s a1) := by
  intro s a1
  unfold State.noteCap
  repeat' first
    | with_reducible apply ChangesOnly.refl
    | exact Eq.refl true
    | with_reducible apply ChangesOnly.ite
    | with_reducible apply ChangesOnly.foldl
    | with_reducible apply ChangesOnly.step ?_ (State.pwrError_only _ _)
    | with_reducible intro _
    | split
    | dsimp only [id]

theorem State.useSlot_only : ∀ s a1 a2, ChangesOnly [.img] s (State.useSlot s a1 a2) := by
  intro s a1 a2
  unfold State.useSlot
  repeat' first
    | with_reducible exact Or.inl rfl
    | with_reducible exact Or.inr rfl
    | exact Or.inl rfl
    | with_reducible apply ChangesOnly.refl
    | exact Eq.refl true
    | with_reducible apply ChangesOnly.ite
    | with_reducible apply ChangesOnly.foldl
    | with_reducible intro _
    | split
    | dsimp only [id]
    | with_reducible apply ChangesOnly.record

end Sys2Proof.Machine
end

