-- ==== Sys2Proof/Laws/MemStartupOps.lean ====
section
/-!
SUPPORT. The operations and meanings of Machine/StartupOps.lean that write HBM or the devices keep their memories in canonical form.
-/

set_option linter.unreachableTactic false
set_option linter.unusedTactic false

namespace Sys2Proof.Machine

theorem State.loadCargo_mem : ∀ s, MemKept s (State.loadCargo s) := by
  intro s
  unfold State.loadCargo
  repeat' first
    | with_reducible exact rfl
    | with_reducible apply MemKept.refl
    | exact Eq.refl true
    | with_reducible apply MemKept.ite
    | with_reducible apply MemKept.foldl
    | with_reducible apply MemKept.step ?_ (State.modBay_only _ _ _)
    | with_reducible apply MemKept.trans ?_ (State.loadProgram_mem _ _ _ _)
    | with_reducible apply MemKept.step ?_ (State.log_only _ _)
    | with_reducible intro _
    | split
    | dsimp only [id]
    | with_reducible apply MemKept.record

theorem State.deriveIdentity_mem : ∀ s a1, MemKept s (State.deriveIdentity s a1) := by
  intro s a1
  unfold State.deriveIdentity
  repeat' first
    | with_reducible exact rfl
    | with_reducible apply MemKept.refl
    | exact Eq.refl true
    | with_reducible apply MemKept.ite
    | with_reducible apply MemKept.foldl
    | with_reducible apply MemKept.step ?_ (State.identErr_only _ _)
    | with_reducible apply MemKept.step ?_ (State.log_only _ _)
    | with_reducible intro _
    | split
    | dsimp only [id]
    | with_reducible apply MemKept.record

theorem State.stage11_mem : ∀ s, MemKept s (State.stage11 s) := by
  intro s
  unfold State.stage11
  repeat' first
    | with_reducible exact rfl
    | with_reducible apply MemKept.refl
    | exact Eq.refl true
    | with_reducible apply MemKept.ite
    | with_reducible apply MemKept.foldl
    | with_reducible apply MemKept.step ?_ (State.modField_only _ _ _)
    | with_reducible apply MemKept.step ?_ (State.modBay_only _ _ _)
    | with_reducible apply MemKept.trans ?_ (State.loadCargo_mem _)
    | with_reducible apply MemKept.step ?_ (State.rewatch_only _ _)
    | with_reducible intro _
    | split
    | dsimp only [id]
    | with_reducible apply MemKept.record

theorem State.readOwners_mem : ∀ s, MemKept s (State.readOwners s) := by
  intro s
  unfold State.readOwners
  repeat' first
    | with_reducible exact rfl
    | with_reducible apply MemKept.refl
    | exact Eq.refl true
    | with_reducible apply MemKept.ite
    | with_reducible apply MemKept.foldl
    | with_reducible apply MemKept.step ?_ (State.identErr_only _ _)
    | with_reducible apply MemKept.step ?_ (State.log_only _ _)
    | with_reducible intro _
    | split
    | dsimp only [id]
    | with_reducible apply MemKept.record

theorem State.stopStart_mem : ∀ s a1, MemKept s (State.stopStart s a1) := by
  intro s a1
  unfold State.stopStart
  repeat' first
    | with_reducible exact rfl
    | with_reducible apply MemKept.refl
    | exact Eq.refl true
    | with_reducible apply MemKept.ite
    | with_reducible apply MemKept.foldl
    | with_reducible apply MemKept.step ?_ (State.identErr_only _ _)
    | with_reducible apply MemKept.step ?_ (State.suError_only _ _)
    | with_reducible apply MemKept.step ?_ (State.log_only _ _)
    | with_reducible apply MemKept.step ?_ (State.bootRecord_only _ _)
    | with_reducible apply MemKept.step ?_ (State.sounding_only _ _ _ _)
    | with_reducible apply MemKept.trans ?_ (State.mainOff_mem _)
    | with_reducible intro _
    | split
    | dsimp only [id]
    | with_reducible apply MemKept.record

theorem State.useSlot_mem : ∀ s a1 a2, MemKept s (State.useSlot s a1 a2) := by
  intro s a1 a2
  unfold State.useSlot
  repeat' first
    | with_reducible exact rfl
    | with_reducible apply MemKept.refl
    | exact Eq.refl true
    | with_reducible apply MemKept.ite
    | with_reducible apply MemKept.foldl
    | with_reducible intro _
    | split
    | dsimp only [id]
    | with_reducible apply MemKept.record

end Sys2Proof.Machine
end

