-- ==== Sys2Proof/Laws/OnlyStartup.lean ====
section
/-!
SUPPORT. For each operation and meaning of Machine/Startup.lean: the parts of the state that it can change.
-/

set_option linter.unreachableTactic false
set_option linter.unusedTactic false

namespace Sys2Proof.Machine

theorem State.stage2_only : ∀ s a1, ChangesOnly [.clk, .coves, .hbm, .ctrls, .streams, .bays, .sessions, .qps, .ports, .portq, .jetty, .rot, .net, .pwr, .pwrx, .img, .su, .ident, .mg, .pins] s (State.stage2 s a1) := by
  intro s a1
  unfold State.stage2
  repeat' first
    | with_reducible exact Or.inl rfl
    | with_reducible exact Or.inr rfl
    | exact Or.inl rfl
    | with_reducible apply ChangesOnly.refl
    | exact Eq.refl true
    | with_reducible apply ChangesOnly.ite
    | with_reducible apply ChangesOnly.foldl
    | with_reducible apply ChangesOnly.step ?_ (State.readOwners_only _)
    | with_reducible apply ChangesOnly.step ?_ (State.stopStart_only _ _)
    | with_reducible apply ChangesOnly.step ?_ (State.noteCap_only _ _)
    | with_reducible apply ChangesOnly.step ?_ (State.readJournals_only _)
    | with_reducible apply ChangesOnly.step ?_ (State.endStage_only _ _ _)
    | with_reducible apply ChangesOnly.step ?_ (State.suError_only _ _)
    | with_reducible apply ChangesOnly.step ?_ (State.useSlot_only _ _ _)
    | with_reducible apply ChangesOnly.step ?_ (State.deriveIdentity_only _ _)
    | with_reducible intro _
    | split
    | dsimp only [id]
    | with_reducible apply ChangesOnly.record

theorem execStageS2_only : ∀ a0 s, Leaves [.clk, .coves, .hbm, .ctrls, .streams, .bays, .sessions, .qps, .ports, .portq, .jetty, .rot, .net, .pwr, .pwrx, .img, .su, .ident, .mg, .pins] s (execStageS2 a0 s) := by
  intro a0 s
  unfold execStageS2
  repeat' first
    | with_reducible apply ChangesOnly.refl
    | exact Eq.refl true
    | with_reducible apply Leaves.next
    | with_reducible apply Leaves.occurs
    | with_reducible apply Leaves.ite
    | with_reducible apply ChangesOnly.ite
    | with_reducible apply ChangesOnly.foldl
    | with_reducible apply ChangesOnly.step ?_ (State.stopStart_only _ _)
    | with_reducible apply ChangesOnly.step ?_ (State.stage2_only _ _)
    | with_reducible intro _
    | split
    | dsimp only [id]

theorem execStageLimitExpiry_only : ∀ a0 s, Leaves [.free, .clk, .coves, .hbm, .ctrls, .streams, .bays, .sessions, .qps, .ports, .portq, .jetty, .integ, .rot, .net, .pwr, .pwrx, .su, .ident, .mg, .pins] s (execStageLimitExpiry a0 s) := by
  intro a0 s
  unfold execStageLimitExpiry
  repeat' first
    | with_reducible apply ChangesOnly.refl
    | exact Eq.refl true
    | with_reducible apply Leaves.next
    | with_reducible apply Leaves.occurs
    | with_reducible apply Leaves.ite
    | with_reducible apply ChangesOnly.ite
    | with_reducible apply ChangesOnly.foldl
    | with_reducible apply ChangesOnly.step ?_ (State.stage8_only _ _ _ _ _)
    | with_reducible apply ChangesOnly.step ?_ (State.stopStart_only _ _)
    | with_reducible apply ChangesOnly.step ?_ (State.suError_only _ _)
    | with_reducible apply ChangesOnly.step ?_ (State.stage9_only _ _ _)
    | with_reducible apply ChangesOnly.step ?_ (State.stage7_only _ _ _ _)
    | with_reducible intro _
    | split
    | dsimp only [id]

theorem execRefclkAbsentAtS0_only : ∀ s, Leaves [.su, .mg] s (execRefclkAbsentAtS0 s) := by
  intro s
  unfold execRefclkAbsentAtS0
  repeat' first
    | with_reducible exact Or.inl rfl
    | with_reducible exact Or.inr rfl
    | exact Or.inl rfl
    | with_reducible apply ChangesOnly.refl
    | exact Eq.refl true
    | with_reducible apply Leaves.next
    | with_reducible apply Leaves.occurs
    | with_reducible apply Leaves.ite
    | with_reducible apply ChangesOnly.ite
    | with_reducible apply ChangesOnly.foldl
    | with_reducible apply ChangesOnly.step ?_ (State.suError_only _ _)
    | with_reducible intro _
    | split
    | dsimp only [id]
    | with_reducible apply ChangesOnly.record

theorem execStageS0_only : ∀ s, Leaves [.su, .mg] s (execStageS0 s) := by
  intro s
  unfold execStageS0
  repeat' first
    | with_reducible exact Or.inl rfl
    | with_reducible exact Or.inr rfl
    | exact Or.inl rfl
    | with_reducible apply ChangesOnly.refl
    | exact Eq.refl true
    | with_reducible apply Leaves.next
    | with_reducible apply Leaves.occurs
    | with_reducible apply Leaves.ite
    | with_reducible apply ChangesOnly.ite
    | with_reducible apply ChangesOnly.foldl
    | with_reducible apply ChangesOnly.step ?_ (State.endStage_only _ _ _)
    | with_reducible intro _
    | split
    | dsimp only [id]
    | with_reducible apply ChangesOnly.record

theorem State.setVariant_only : ∀ s a1 a2 a3 a4 a5 a6, ChangesOnly [.pwr, .su] s (State.setVariant s a1 a2 a3 a4 a5 a6) := by
  intro s a1 a2 a3 a4 a5 a6
  unfold State.setVariant
  repeat' first
    | with_reducible exact Or.inl rfl
    | with_reducible exact Or.inr rfl
    | exact Or.inl rfl
    | with_reducible apply ChangesOnly.refl
    | exact Eq.refl true
    | with_reducible apply ChangesOnly.ite
    | with_reducible apply ChangesOnly.foldl
    | with_reducible intro _
    | split
    | dsimp only [id]
    | with_reducible apply ChangesOnly.record

theorem execStageS3_only : ∀ s, Leaves [.pwr, .su, .mg] s (execStageS3 s) := by
  intro s
  unfold execStageS3
  repeat' first
    | with_reducible apply ChangesOnly.refl
    | exact Eq.refl true
    | with_reducible apply Leaves.next
    | with_reducible apply Leaves.occurs
    | with_reducible apply Leaves.ite
    | with_reducible apply ChangesOnly.ite
    | with_reducible apply ChangesOnly.foldl
    | with_reducible apply ChangesOnly.step ?_ (State.endStage_only _ _ _)
    | with_reducible apply ChangesOnly.step ?_ (State.suError_only _ _)
    | with_reducible apply ChangesOnly.step ?_ (State.setVariant_only _ _ _ _ _ _ _)
    | with_reducible intro _
    | split
    | dsimp only [id]

theorem State.powerOn_only : ∀ s, ChangesOnly [.clk, .mt, .coves, .hbm, .ctrls, .streams, .bays, .sessions, .qps, .ports, .portq, .jetty, .integ, .rot, .net, .pwr, .pwrx, .img, .su, .ident, .mg, .pins, .latches, .cut] s (State.powerOn s) := by
  intro s
  unfold State.powerOn
  repeat' first
    | with_reducible exact Or.inl rfl
    | with_reducible exact Or.inr rfl
    | exact Or.inl rfl
    | with_reducible apply ChangesOnly.refl
    | exact Eq.refl true
    | with_reducible apply ChangesOnly.ite
    | with_reducible apply ChangesOnly.foldl
    | with_reducible intro _
    | split
    | dsimp only [id]
    | with_reducible apply ChangesOnly.record

theorem execStageS6_only : ∀ a0 s, Leaves [.clk, .hbm, .ctrls, .su, .mg] s (execStageS6 a0 s) := by
  intro a0 s
  unfold execStageS6
  repeat' first
    | with_reducible exact Or.inl rfl
    | with_reducible exact Or.inr rfl
    | exact Or.inl rfl
    | with_reducible apply ChangesOnly.refl
    | exact Eq.refl true
    | with_reducible apply Leaves.next
    | with_reducible apply Leaves.occurs
    | with_reducible apply Leaves.ite
    | with_reducible apply ChangesOnly.ite
    | with_reducible apply ChangesOnly.foldl
    | with_reducible apply ChangesOnly.step ?_ (State.endStage_only _ _ _)
    | with_reducible apply ChangesOnly.step ?_ (State.reloadTalus_only _ _)
    | with_reducible apply ChangesOnly.step ?_ (State.log_only _ _)
    | with_reducible apply ChangesOnly.step ?_ (State.setPoints_only _ _)
    | with_reducible apply ChangesOnly.step ?_ (State.modStack_only _ _ _)
    | with_reducible intro _
    | split
    | dsimp only [id]
    | with_reducible apply ChangesOnly.record

theorem execStageS7_only : ∀ a0 a1 s, Leaves [.free, .clk, .coves, .bays, .sessions, .portq, .integ, .rot, .net, .su, .mg] s (execStageS7 a0 a1 s) := by
  intro a0 a1 s
  unfold execStageS7
  repeat' first
    | with_reducible apply ChangesOnly.refl
    | exact Eq.refl true
    | with_reducible apply Leaves.next
    | with_reducible apply Leaves.occurs
    | with_reducible apply Leaves.ite
    | with_reducible apply ChangesOnly.ite
    | with_reducible apply ChangesOnly.foldl
    | with_reducible apply ChangesOnly.step ?_ (State.stage7_only _ _ _ _)
    | with_reducible intro _
    | split
    | dsimp only [id]

theorem execStageS10_only : ∀ s, Leaves [.su, .mg] s (execStageS10 s) := by
  intro s
  unfold execStageS10
  repeat' first
    | with_reducible exact Or.inl rfl
    | with_reducible exact Or.inr rfl
    | exact Or.inl rfl
    | with_reducible apply ChangesOnly.refl
    | exact Eq.refl true
    | with_reducible apply Leaves.next
    | with_reducible apply Leaves.occurs
    | with_reducible apply Leaves.ite
    | with_reducible apply ChangesOnly.ite
    | with_reducible apply ChangesOnly.foldl
    | with_reducible apply ChangesOnly.step ?_ (State.holdStage_only _ _)
    | with_reducible apply ChangesOnly.step ?_ (State.endStage_only _ _ _)
    | with_reducible apply ChangesOnly.step ?_ (State.finishS11_only _)
    | with_reducible intro _
    | split
    | dsimp only [id]
    | with_reducible apply ChangesOnly.record

theorem execStageS4_only : ∀ a0 s, Leaves [.clk, .coves, .hbm, .ctrls, .streams, .bays, .sessions, .qps, .ports, .portq, .jetty, .rot, .net, .pwr, .pwrx, .su, .ident, .mg, .pins] s (execStageS4 a0 s) := by
  intro a0 s
  unfold execStageS4
  repeat' first
    | with_reducible exact Or.inl rfl
    | with_reducible exact Or.inr rfl
    | exact Or.inl rfl
    | with_reducible apply ChangesOnly.refl
    | exact Eq.refl true
    | with_reducible apply Leaves.next
    | with_reducible apply Leaves.occurs
    | with_reducible apply Leaves.ite
    | with_reducible apply ChangesOnly.ite
    | with_reducible apply ChangesOnly.foldl
    | with_reducible apply ChangesOnly.step ?_ (State.holdStage_only _ _)
    | with_reducible apply ChangesOnly.step ?_ (State.stopStart_only _ _)
    | with_reducible apply ChangesOnly.step ?_ (State.endStage_only _ _ _)
    | with_reducible apply ChangesOnly.step ?_ (State.startPlls_only _)
    | with_reducible intro _
    | split
    | dsimp only [id]
    | with_reducible apply ChangesOnly.record

theorem execAuxPowerOn_only : ∀ s, Leaves [.clk, .mt, .coves, .hbm, .ctrls, .streams, .bays, .sessions, .qps, .ports, .portq, .jetty, .integ, .rot, .net, .pwr, .pwrx, .img, .su, .ident, .mg, .pins, .latches, .cut] s (execAuxPowerOn s) := by
  intro s
  unfold execAuxPowerOn
  repeat' first
    | with_reducible apply ChangesOnly.refl
    | exact Eq.refl true
    | with_reducible apply Leaves.next
    | with_reducible apply Leaves.occurs
    | with_reducible apply Leaves.ite
    | with_reducible apply ChangesOnly.ite
    | with_reducible apply ChangesOnly.foldl
    | with_reducible apply ChangesOnly.step ?_ (State.powerOn_only _)
    | with_reducible intro _
    | split
    | dsimp only [id]

theorem execCargoReadComplete_only : ∀ s, Leaves [.hbm, .ctrls, .su, .mg] s (execCargoReadComplete s) := by
  intro s
  unfold execCargoReadComplete
  repeat' first
    | with_reducible exact Or.inl rfl
    | with_reducible exact Or.inr rfl
    | exact Or.inl rfl
    | with_reducible apply ChangesOnly.refl
    | exact Eq.refl true
    | with_reducible apply Leaves.next
    | with_reducible apply Leaves.occurs
    | with_reducible apply Leaves.ite
    | with_reducible apply ChangesOnly.ite
    | with_reducible apply ChangesOnly.foldl
    | with_reducible apply ChangesOnly.step ?_ (State.suError_only _ _)
    | with_reducible apply ChangesOnly.step ?_ (State.putRecord_only _ _ _ _ _)
    | with_reducible intro _
    | split
    | dsimp only [id]
    | with_reducible apply ChangesOnly.record

theorem execStageS11_only : ∀ s, Leaves [.clk, .coves, .hbm, .ctrls, .bays, .rot, .pwr, .su, .mg] s (execStageS11 s) := by
  intro s
  unfold execStageS11
  repeat' first
    | with_reducible apply ChangesOnly.refl
    | exact Eq.refl true
    | with_reducible apply Leaves.next
    | with_reducible apply Leaves.occurs
    | with_reducible apply Leaves.ite
    | with_reducible apply ChangesOnly.ite
    | with_reducible apply ChangesOnly.foldl
    | with_reducible apply ChangesOnly.step ?_ (State.stage11_only _)
    | with_reducible apply ChangesOnly.step ?_ (State.finishS11_only _)
    | with_reducible intro _
    | split
    | dsimp only [id]

theorem execSuImgVerLoRead_only : ∀ a0 s, Leaves [.latches] s (execSuImgVerLoRead a0 s) := by
  intro a0 s
  unfold execSuImgVerLoRead
  repeat' first
    | with_reducible apply ChangesOnly.refl
    | exact Eq.refl true
    | with_reducible apply Leaves.next
    | with_reducible apply Leaves.occurs
    | with_reducible apply Leaves.ite
    | with_reducible apply ChangesOnly.ite
    | with_reducible apply ChangesOnly.foldl
    | with_reducible apply ChangesOnly.step ?_ (State.latch_only _ _ _ _)
    | with_reducible intro _
    | split
    | dsimp only [id]

theorem execStageS8_only : ∀ a0 a1 a2 s, Leaves [.free, .clk, .coves, .sessions, .portq, .rot, .net, .su, .mg] s (execStageS8 a0 a1 a2 s) := by
  intro a0 a1 a2 s
  unfold execStageS8
  repeat' first
    | with_reducible apply ChangesOnly.refl
    | exact Eq.refl true
    | with_reducible apply Leaves.next
    | with_reducible apply Leaves.occurs
    | with_reducible apply Leaves.ite
    | with_reducible apply ChangesOnly.ite
    | with_reducible apply ChangesOnly.foldl
    | with_reducible apply ChangesOnly.step ?_ (State.stage8_only _ _ _ _ _)
    | with_reducible intro _
    | split
    | dsimp only [id]

theorem execStageS5_only : ∀ a0 s, Leaves [.clk, .coves, .hbm, .ctrls, .streams, .bays, .sessions, .qps, .ports, .portq, .jetty, .rot, .net, .pwr, .pwrx, .su, .ident, .mg, .pins] s (execStageS5 a0 s) := by
  intro a0 s
  unfold execStageS5
  repeat' first
    | with_reducible exact Or.inl rfl
    | with_reducible exact Or.inr rfl
    | exact Or.inl rfl
    | with_reducible apply ChangesOnly.refl
    | exact Eq.refl true
    | with_reducible apply Leaves.next
    | with_reducible apply Leaves.occurs
    | with_reducible apply Leaves.ite
    | with_reducible apply ChangesOnly.ite
    | with_reducible apply ChangesOnly.foldl
    | with_reducible apply ChangesOnly.step ?_ (State.stopStart_only _ _)
    | with_reducible apply ChangesOnly.step ?_ (State.loadTables_only _)
    | with_reducible apply ChangesOnly.step ?_ (State.endStage_only _ _ _)
    | with_reducible intro _
    | split
    | dsimp only [id]
    | with_reducible apply ChangesOnly.record

theorem execStageS9_only : ∀ a0 s, Leaves [.free, .coves, .ports, .portq, .rot, .net, .su, .mg] s (execStageS9 a0 s) := by
  intro a0 s
  unfold execStageS9
  repeat' first
    | with_reducible exact Or.inl rfl
    | with_reducible exact Or.inr rfl
    | exact Or.inl rfl
    | with_reducible apply ChangesOnly.refl
    | exact Eq.refl true
    | with_reducible apply Leaves.next
    | with_reducible apply Leaves.occurs
    | with_reducible apply Leaves.ite
    | with_reducible apply ChangesOnly.ite
    | with_reducible apply ChangesOnly.foldl
    | with_reducible apply ChangesOnly.step ?_ (State.stage9_only _ _ _)
    | with_reducible intro _
    | split
    | dsimp only [id]
    | with_reducible apply ChangesOnly.record

theorem execAuxInputReturn_only : ∀ s, Leaves [.clk, .mt, .coves, .hbm, .ctrls, .streams, .bays, .sessions, .qps, .ports, .portq, .jetty, .integ, .rot, .net, .pwr, .pwrx, .img, .su, .ident, .mg, .pins, .latches, .cut] s (execAuxInputReturn s) := by
  intro s
  unfold execAuxInputReturn
  repeat' first
    | with_reducible apply ChangesOnly.refl
    | exact Eq.refl true
    | with_reducible apply Leaves.next
    | with_reducible apply Leaves.occurs
    | with_reducible apply Leaves.ite
    | with_reducible apply ChangesOnly.ite
    | with_reducible apply ChangesOnly.foldl
    | with_reducible apply ChangesOnly.step ?_ (State.powerOn_only _)
    | with_reducible intro _
    | split
    | dsimp only [id]

theorem execStageS1_only : ∀ a0 s, Leaves [.clk, .coves, .hbm, .ctrls, .streams, .bays, .sessions, .qps, .ports, .portq, .jetty, .rot, .net, .pwr, .pwrx, .su, .ident, .mg, .pins] s (execStageS1 a0 s) := by
  intro a0 s
  unfold execStageS1
  repeat' first
    | with_reducible apply ChangesOnly.refl
    | exact Eq.refl true
    | with_reducible apply Leaves.next
    | with_reducible apply Leaves.occurs
    | with_reducible apply Leaves.ite
    | with_reducible apply ChangesOnly.ite
    | with_reducible apply ChangesOnly.foldl
    | with_reducible apply ChangesOnly.step ?_ (State.stopStart_only _ _)
    | with_reducible apply ChangesOnly.step ?_ (State.endStage_only _ _ _)
    | with_reducible intro _
    | split
    | dsimp only [id]

end Sys2Proof.Machine
end

