-- ==== Sys2Proof/Laws/MemStartup.lean ====
section
/-!
SUPPORT. The operations and meanings of Machine/Startup.lean that write HBM or the devices keep their memories in canonical form.
-/

set_option linter.unreachableTactic false
set_option linter.unusedTactic false

namespace Sys2Proof.Machine

theorem MemKept.filterHbm {s t : State} (h : MemKept s t) (p : Nat → Byte → Bool) : MemKept s { t with hbm := t.hbm.filter p } :=
  h.of (.inr fun w => Tab.wf_filter w p) (.inl rfl)

theorem State.stage2_mem : ∀ s a1, MemKept s (State.stage2 s a1) := by
  intro s a1
  unfold State.stage2
  repeat' first
    | with_reducible exact rfl
    | with_reducible apply MemKept.refl
    | exact Eq.refl true
    | with_reducible apply MemKept.ite
    | with_reducible apply MemKept.foldl
    | with_reducible apply MemKept.trans ?_ (State.readOwners_mem _)
    | with_reducible apply MemKept.trans ?_ (State.stopStart_mem _ _)
    | with_reducible apply MemKept.step ?_ (State.noteCap_only _ _)
    | with_reducible apply MemKept.step ?_ (State.readJournals_only _)
    | with_reducible apply MemKept.step ?_ (State.endStage_only _ _ _)
    | with_reducible apply MemKept.step ?_ (State.suError_only _ _)
    | with_reducible apply MemKept.trans ?_ (State.useSlot_mem _ _ _)
    | with_reducible apply MemKept.trans ?_ (State.deriveIdentity_mem _ _)
    | with_reducible intro _
    | split
    | dsimp only [id]
    | with_reducible apply MemKept.record

theorem execStageS2_mem : ∀ a0 s, OutMemKept s (execStageS2 a0 s) := by
  intro a0 s
  unfold execStageS2
  repeat' first
    | with_reducible apply MemKept.refl
    | exact Eq.refl true
    | with_reducible apply OutMemKept.next
    | with_reducible apply OutMemKept.occurs
    | with_reducible apply OutMemKept.ite
    | with_reducible apply MemKept.ite
    | with_reducible apply MemKept.foldl
    | with_reducible apply MemKept.trans ?_ (State.stopStart_mem _ _)
    | with_reducible apply MemKept.trans ?_ (State.stage2_mem _ _)
    | with_reducible intro _
    | split
    | dsimp only [id]

theorem execStageLimitExpiry_mem : ∀ a0 s, OutMemKept s (execStageLimitExpiry a0 s) := by
  intro a0 s
  unfold execStageLimitExpiry
  repeat' first
    | with_reducible apply MemKept.refl
    | exact Eq.refl true
    | with_reducible apply OutMemKept.next
    | with_reducible apply OutMemKept.occurs
    | with_reducible apply OutMemKept.ite
    | with_reducible apply MemKept.ite
    | with_reducible apply MemKept.foldl
    | with_reducible apply MemKept.step ?_ (State.stage8_only _ _ _ _ _)
    | with_reducible apply MemKept.trans ?_ (State.stopStart_mem _ _)
    | with_reducible apply MemKept.step ?_ (State.suError_only _ _)
    | with_reducible apply MemKept.step ?_ (State.stage9_only _ _ _)
    | with_reducible apply MemKept.step ?_ (State.stage7_only _ _ _ _)
    | with_reducible intro _
    | split
    | dsimp only [id]

theorem State.powerOn_mem : ∀ s, MemKept s (State.powerOn s) := by
  intro s
  exact (MemKept.refl s).of (.inr fun _ => rfl) (.inl rfl)

theorem execStageS6_mem (trained : BitVec 8) (s : State) : OutMemKept s (execStageS6 trained s) := by
  unfold execStageS6
  extract_lets up s1 s2 n mask
  have h1 : MemKept s s1 := by
    refine .foldl (fun t k => .ite ?_ ?_) _ (.refl _)
    · exact ((MemKept.refl t).step (State.modStack_only _ _ _) rfl).step (State.reloadTalus_only _ _) rfl
    · exact ((MemKept.refl t).step (State.modStack_only _ _ _) rfl).step (State.log_only _ _) rfl
  have h2 : MemKept s s2 := h1.filterHbm _
  clear_value s2 n mask
  exact OutMemKept.occurs ((h2.step (State.endStage_only _ _ _) rfl).step (State.setPoints_only _ _) rfl)

theorem execStageS4_mem : ∀ a0 s, OutMemKept s (execStageS4 a0 s) := by
  intro a0 s
  unfold execStageS4
  repeat' first
    | with_reducible exact rfl
    | with_reducible apply MemKept.refl
    | exact Eq.refl true
    | with_reducible apply OutMemKept.next
    | with_reducible apply OutMemKept.occurs
    | with_reducible apply OutMemKept.ite
    | with_reducible apply MemKept.ite
    | with_reducible apply MemKept.foldl
    | with_reducible apply MemKept.step ?_ (State.holdStage_only _ _)
    | with_reducible apply MemKept.trans ?_ (State.stopStart_mem _ _)
    | with_reducible apply MemKept.step ?_ (State.endStage_only _ _ _)
    | with_reducible apply MemKept.step ?_ (State.startPlls_only _)
    | with_reducible intro _
    | split
    | dsimp only [id]
    | with_reducible apply MemKept.record

theorem execAuxPowerOn_mem : ∀ s, OutMemKept s (execAuxPowerOn s) := by
  intro s
  unfold execAuxPowerOn
  repeat' first
    | with_reducible apply MemKept.refl
    | exact Eq.refl true
    | with_reducible apply OutMemKept.next
    | with_reducible apply OutMemKept.occurs
    | with_reducible apply OutMemKept.ite
    | with_reducible apply MemKept.ite
    | with_reducible apply MemKept.foldl
    | with_reducible apply MemKept.trans ?_ (State.powerOn_mem _)
    | with_reducible intro _
    | split
    | dsimp only [id]

theorem execCargoReadComplete_mem : ∀ s, OutMemKept s (execCargoReadComplete s) := by
  intro s
  unfold execCargoReadComplete
  repeat' first
    | with_reducible exact rfl
    | with_reducible apply MemKept.refl
    | exact Eq.refl true
    | with_reducible apply OutMemKept.next
    | with_reducible apply OutMemKept.occurs
    | with_reducible apply OutMemKept.ite
    | with_reducible apply MemKept.ite
    | with_reducible apply MemKept.foldl
    | with_reducible apply MemKept.step ?_ (State.suError_only _ _)
    | with_reducible apply MemKept.trans ?_ (State.putRecord_mem _ _ _ _ _)
    | with_reducible intro _
    | split
    | dsimp only [id]
    | with_reducible apply MemKept.record

theorem execStageS11_mem : ∀ s, OutMemKept s (execStageS11 s) := by
  intro s
  unfold execStageS11
  repeat' first
    | with_reducible apply MemKept.refl
    | exact Eq.refl true
    | with_reducible apply OutMemKept.next
    | with_reducible apply OutMemKept.occurs
    | with_reducible apply OutMemKept.ite
    | with_reducible apply MemKept.ite
    | with_reducible apply MemKept.foldl
    | with_reducible apply MemKept.trans ?_ (State.stage11_mem _)
    | with_reducible apply MemKept.step ?_ (State.finishS11_only _)
    | with_reducible intro _
    | split
    | dsimp only [id]

theorem execStageS5_mem : ∀ a0 s, OutMemKept s (execStageS5 a0 s) := by
  intro a0 s
  unfold execStageS5
  repeat' first
    | with_reducible exact rfl
    | with_reducible apply MemKept.refl
    | exact Eq.refl true
    | with_reducible apply OutMemKept.next
    | with_reducible apply OutMemKept.occurs
    | with_reducible apply OutMemKept.ite
    | with_reducible apply MemKept.ite
    | with_reducible apply MemKept.foldl
    | with_reducible apply MemKept.trans ?_ (State.stopStart_mem _ _)
    | with_reducible apply MemKept.step ?_ (State.loadTables_only _)
    | with_reducible apply MemKept.step ?_ (State.endStage_only _ _ _)
    | with_reducible intro _
    | split
    | dsimp only [id]
    | with_reducible apply MemKept.record

theorem execAuxInputReturn_mem : ∀ s, OutMemKept s (execAuxInputReturn s) := by
  intro s
  unfold execAuxInputReturn
  repeat' first
    | with_reducible apply MemKept.refl
    | exact Eq.refl true
    | with_reducible apply OutMemKept.next
    | with_reducible apply OutMemKept.occurs
    | with_reducible apply OutMemKept.ite
    | with_reducible apply MemKept.ite
    | with_reducible apply MemKept.foldl
    | with_reducible apply MemKept.trans ?_ (State.powerOn_mem _)
    | with_reducible intro _
    | split
    | dsimp only [id]

theorem execStageS1_mem : ∀ a0 s, OutMemKept s (execStageS1 a0 s) := by
  intro a0 s
  unfold execStageS1
  repeat' first
    | with_reducible apply MemKept.refl
    | exact Eq.refl true
    | with_reducible apply OutMemKept.next
    | with_reducible apply OutMemKept.occurs
    | with_reducible apply OutMemKept.ite
    | with_reducible apply MemKept.ite
    | with_reducible apply MemKept.foldl
    | with_reducible apply MemKept.trans ?_ (State.stopStart_mem _ _)
    | with_reducible apply MemKept.step ?_ (State.endStage_only _ _ _)
    | with_reducible intro _
    | split
    | dsimp only [id]

end Sys2Proof.Machine
end

