-- ==== Sys2Proof/Laws/OnlyHangs.lean ====
section
/-!
SUPPORT. For each operation and meaning of Machine/Hangs.lean: the parts of the state that it can change.
-/

set_option linter.unreachableTactic false
set_option linter.unusedTactic false

namespace Sys2Proof.Machine

theorem State.parkCycle_only : ∀ s, ChangesOnly [.bays] s (State.parkCycle s) := by
  intro s
  unfold State.parkCycle
  repeat' first
    | with_reducible exact Or.inl rfl
    | with_reducible exact Or.inr rfl
    | exact Or.inl rfl
    | with_reducible apply ChangesOnly.refl
    | exact Eq.refl true
    | with_reducible apply ChangesOnly.ite
    | with_reducible apply ChangesOnly.foldl
    | with_reducible intro _
    | split
    | dsimp only [id]
    | with_reducible apply ChangesOnly.record

theorem State.answerResets_only : ∀ s a1 a2, ChangesOnly [.bays, .sessions, .portq, .jetty] s (State.answerResets s a1 a2) := by
  intro s a1 a2
  unfold State.answerResets
  repeat' first
    | with_reducible apply ChangesOnly.refl
    | exact Eq.refl true
    | with_reducible apply ChangesOnly.ite
    | with_reducible apply ChangesOnly.foldl
    | with_reducible apply ChangesOnly.step ?_ (State.modBay_only _ _ _)
    | with_reducible apply ChangesOnly.step ?_ (State.complete_only _ _ _)
    | with_reducible intro _
    | split
    | dsimp only [id]

theorem State.endRecovery_only : ∀ s a1, ChangesOnly [.bays, .mg] s (State.endRecovery s a1) := by
  intro s a1
  unfold State.endRecovery
  repeat' first
    | with_reducible apply ChangesOnly.refl
    | exact Eq.refl true
    | with_reducible apply ChangesOnly.ite
    | with_reducible apply ChangesOnly.foldl
    | with_reducible apply ChangesOnly.step ?_ (State.modBay_only _ _ _)
    | with_reducible apply ChangesOnly.step ?_ (State.logBay_only _ _ _)
    | with_reducible intro _
    | split
    | dsimp only [id]

theorem State.failRecovery_only : ∀ s a1 a2, ChangesOnly [.clk, .coves, .ctrls, .streams, .bays, .sessions, .portq, .jetty, .net, .mg] s (State.failRecovery s a1 a2) := by
  intro s a1 a2
  unfold State.failRecovery
  repeat' first
    | with_reducible apply ChangesOnly.refl
    | exact Eq.refl true
    | with_reducible apply ChangesOnly.ite
    | with_reducible apply ChangesOnly.foldl
    | with_reducible apply ChangesOnly.step ?_ (State.stopBay_only _ _ _)
    | with_reducible apply ChangesOnly.step ?_ (State.answerResets_only _ _ _)
    | with_reducible apply ChangesOnly.step ?_ (State.endRecovery_only _ _)
    | with_reducible intro _
    | split
    | dsimp only [id]

theorem State.wakeHalves_only : ∀ s a1, ChangesOnly [.clk] s (State.wakeHalves s a1) := by
  intro s a1
  unfold State.wakeHalves
  repeat' first
    | with_reducible apply ChangesOnly.refl
    | exact Eq.refl true
    | with_reducible apply ChangesOnly.ite
    | with_reducible apply ChangesOnly.foldl
    | with_reducible apply ChangesOnly.step ?_ (State.wakeHalf_only _ _)
    | with_reducible intro _
    | split
    | dsimp only [id]

theorem State.enterReset_only : ∀ s a1, ChangesOnly [.clk, .coves, .ctrls, .streams, .bays, .net, .mg] s (State.enterReset s a1) := by
  intro s a1
  unfold State.enterReset
  repeat' first
    | with_reducible exact Or.inl rfl
    | with_reducible exact Or.inr rfl
    | exact Or.inl rfl
    | with_reducible apply ChangesOnly.refl
    | exact Eq.refl true
    | with_reducible apply ChangesOnly.ite
    | with_reducible apply ChangesOnly.foldl
    | with_reducible apply ChangesOnly.step ?_ (State.logFull_only _ _ _ _ _)
    | with_reducible apply ChangesOnly.step ?_ (State.modBay_only _ _ _)
    | with_reducible apply ChangesOnly.step ?_ (State.discardAll_only _ _)
    | with_reducible apply ChangesOnly.step ?_ (State.wakeHalves_only _ _)
    | with_reducible apply ChangesOnly.step ?_ (State.modCoves_only _ _ _)
    | with_reducible intro _
    | split
    | dsimp only [id]
    | with_reducible apply ChangesOnly.record

theorem execHrResetStepLoRead_only : ∀ a0 a1 s, Leaves [.latches] s (execHrResetStepLoRead a0 a1 s) := by
  intro a0 a1 s
  unfold execHrResetStepLoRead
  repeat' first
    | with_reducible apply ChangesOnly.refl
    | exact Eq.refl true
    | with_reducible apply Leaves.next
    | with_reducible apply Leaves.occurs
    | with_reducible apply Leaves.ite
    | with_reducible apply ChangesOnly.ite
    | with_reducible apply ChangesOnly.foldl
    | with_reducible apply ChangesOnly.step ?_ (State.latch_only _ _ _ _)
    | with_reducible intro _
    | split
    | dsimp only [id]

theorem execRecoveryQuiescence_only : ∀ a0 s, Leaves [.coves, .bays] s (execRecoveryQuiescence a0 s) := by
  intro a0 s
  unfold execRecoveryQuiescence
  repeat' first
    | with_reducible apply ChangesOnly.refl
    | exact Eq.refl true
    | with_reducible apply Leaves.next
    | with_reducible apply Leaves.occurs
    | with_reducible apply Leaves.ite
    | with_reducible apply ChangesOnly.ite
    | with_reducible apply ChangesOnly.foldl
    | with_reducible apply ChangesOnly.step ?_ (State.modBay_only _ _ _)
    | with_reducible apply ChangesOnly.step ?_ (State.modCoves_only _ _ _)
    | with_reducible intro _
    | split
    | dsimp only [id]

theorem execResetEntry_only : ∀ a0 s, Leaves [.clk, .coves, .ctrls, .streams, .bays, .net, .mg] s (execResetEntry a0 s) := by
  intro a0 s
  unfold execResetEntry
  repeat' first
    | with_reducible apply ChangesOnly.refl
    | exact Eq.refl true
    | with_reducible apply Leaves.next
    | with_reducible apply Leaves.occurs
    | with_reducible apply Leaves.ite
    | with_reducible apply ChangesOnly.ite
    | with_reducible apply ChangesOnly.foldl
    | with_reducible apply ChangesOnly.step ?_ (State.enterReset_only _ _)
    | with_reducible intro _
    | split
    | dsimp only [id]

theorem execRecoveryWindowTimeout_only : ∀ a0 s, Leaves [.bays] s (execRecoveryWindowTimeout a0 s) := by
  intro a0 s
  unfold execRecoveryWindowTimeout
  repeat' first
    | with_reducible apply ChangesOnly.refl
    | exact Eq.refl true
    | with_reducible apply Leaves.next
    | with_reducible apply Leaves.occurs
    | with_reducible apply Leaves.ite
    | with_reducible apply ChangesOnly.ite
    | with_reducible apply ChangesOnly.foldl
    | with_reducible apply ChangesOnly.step ?_ (State.modBay_only _ _ _)
    | with_reducible intro _
    | split
    | dsimp only [id]

theorem State.recovered_only : ∀ s a1, ChangesOnly [.clk, .coves, .ctrls, .streams, .bays, .sessions, .portq, .jetty, .net, .mg] s (State.recovered s a1) := by
  intro s a1
  unfold State.recovered
  repeat' first
    | with_reducible apply ChangesOnly.refl
    | exact Eq.refl true
    | with_reducible apply ChangesOnly.ite
    | with_reducible apply ChangesOnly.foldl
    | with_reducible apply ChangesOnly.step ?_ (State.modBay_only _ _ _)
    | with_reducible apply ChangesOnly.step ?_ (State.answerResets_only _ _ _)
    | with_reducible apply ChangesOnly.step ?_ (State.endRunning_only _ _ _ _)
    | with_reducible apply ChangesOnly.step ?_ (State.endRecovery_only _ _)
    | with_reducible apply ChangesOnly.step ?_ (State.atBoundary_only _ _)
    | with_reducible apply ChangesOnly.step ?_ (State.event_only _ _ _ _)
    | with_reducible intro _
    | split
    | dsimp only [id]

theorem State.realign_only : ∀ s a1, ChangesOnly [.clk] s (State.realign s a1) := by
  intro s a1
  unfold State.realign
  repeat' first
    | with_reducible apply ChangesOnly.refl
    | exact Eq.refl true
    | with_reducible apply ChangesOnly.ite
    | with_reducible apply ChangesOnly.foldl
    | with_reducible apply ChangesOnly.step ?_ (State.modSeam_only _ _ _)
    | with_reducible intro _
    | split
    | dsimp only [id]

theorem State.reload_only (s : State) (b : Nat) (t : State) (h : s.reload b = some t) :
    ChangesOnly [.coves, .bays] s t := by
  unfold State.reload at h
  split at h
  · cases h
    exact (State.loadStandby_only s b).mono rfl
  · obtain ⟨k, -, rfl⟩ := Option.map_eq_some_iff.mp h
    exact ChangesOnly.step ((State.loadShape_only s _ _ _ _).mono rfl) (State.modBay_only _ _ _) rfl

theorem execRecoveryComplete_only : ∀ a0 a1 a2 s, Leaves [.clk, .coves, .ctrls, .streams, .bays, .sessions, .portq, .jetty, .net, .mg] s (execRecoveryComplete a0 a1 a2 s) := by
  intro a0 a1 a2 s
  unfold execRecoveryComplete
  repeat' first
    | with_reducible apply ChangesOnly.refl
    | exact Eq.refl true
    | with_reducible apply Leaves.next
    | with_reducible apply Leaves.occurs
    | with_reducible apply Leaves.ite
    | with_reducible apply ChangesOnly.ite
    | with_reducible apply ChangesOnly.foldl
    | with_reducible apply ChangesOnly.step ?_ (State.modBay_only _ _ _)
    | with_reducible apply ChangesOnly.step ?_ (State.failRecovery_only _ _ _)
    | with_reducible apply ChangesOnly.step ?_ (State.recovered_only _ _)
    | with_reducible apply ChangesOnly.step ?_ (State.reload_only _ _ _ ‹_›)
    | with_reducible apply ChangesOnly.step ?_ (State.realign_only _ _)
    | with_reducible intro _
    | split
    | dsimp only [id]

end Sys2Proof.Machine
end

