-- ==== Sys2Proof/Laws/OnlyHbmSched.lean ====
section
/-!
SUPPORT. For each operation and meaning of Machine/HbmSched.lean: the parts of the state that it can change.
-/

set_option linter.unreachableTactic false
set_option linter.unusedTactic false

namespace Sys2Proof.Machine

theorem State.fillBuffer_only : ∀ s a1 a2 a3, ChangesOnly [.coves, .ctrls, .streams, .su, .mg] s (State.fillBuffer s a1 a2 a3) := by
  intro s a1 a2 a3
  unfold State.fillBuffer
  repeat' first
    | with_reducible apply ChangesOnly.refl
    | exact Eq.refl true
    | with_reducible apply ChangesOnly.ite
    | with_reducible apply ChangesOnly.foldl
    | with_reducible apply ChangesOnly.step ?_ (State.modStream_only _ _ _)
    | with_reducible apply ChangesOnly.step ?_ (State.modStack_only _ _ _)
    | with_reducible apply ChangesOnly.step ?_ (State.readFlips_only _ _ _ _ _)
    | with_reducible intro _
    | split
    | dsimp only [id]

theorem State.serveReq_only : ∀ s a1 a2 a3, ChangesOnly [.coves, .ctrls, .streams, .su, .mg] s (State.serveReq s a1 a2 a3) := by
  intro s a1 a2 a3
  unfold State.serveReq
  repeat' first
    | with_reducible apply ChangesOnly.refl
    | exact Eq.refl true
    | with_reducible apply ChangesOnly.ite
    | with_reducible apply ChangesOnly.foldl
    | with_reducible apply ChangesOnly.step ?_ (State.fillBuffer_only _ _ _ _)
    | with_reducible apply ChangesOnly.step ?_ (State.modStack_only _ _ _)
    | with_reducible intro _
    | split
    | dsimp only [id]

theorem State.prefetch_only : ∀ s a1, ChangesOnly [.ctrls, .streams] s (State.prefetch s a1) := by
  intro s a1
  unfold State.prefetch
  repeat' first
    | with_reducible apply ChangesOnly.refl
    | exact Eq.refl true
    | with_reducible apply ChangesOnly.ite
    | with_reducible apply ChangesOnly.foldl
    | with_reducible apply ChangesOnly.step ?_ (State.modStream_only _ _ _)
    | with_reducible apply ChangesOnly.step ?_ (State.modStack_only _ _ _)
    | with_reducible intro _
    | split
    | dsimp only [id]

theorem State.senseStacks_only : ∀ s, ChangesOnly [.free, .ctrls] s (State.senseStacks s) := by
  intro s
  unfold State.senseStacks
  repeat' first
    | with_reducible apply ChangesOnly.refl
    | exact Eq.refl true
    | with_reducible apply ChangesOnly.ite
    | with_reducible apply ChangesOnly.foldl
    | with_reducible apply ChangesOnly.step ?_ (State.spend_only _ _)
    | with_reducible apply ChangesOnly.step ?_ (State.modStack_only _ _ _)
    | with_reducible intro _
    | split
    | dsimp only [id]

theorem State.pcCycle_only : ∀ s a1 a2, ChangesOnly [.coves, .ctrls, .streams, .su, .mg] s (State.pcCycle s a1 a2) := by
  intro s a1 a2
  unfold State.pcCycle
  repeat' first
    | with_reducible apply ChangesOnly.refl
    | exact Eq.refl true
    | with_reducible apply ChangesOnly.ite
    | with_reducible apply ChangesOnly.foldl
    | with_reducible apply ChangesOnly.step ?_ (State.serveReq_only _ _ _ _)
    | with_reducible apply ChangesOnly.step ?_ (State.modStack_only _ _ _)
    | with_reducible intro _
    | split
    | dsimp only [id]

theorem State.hbmCycle_only : ∀ s, ChangesOnly [.free, .coves, .ctrls, .streams, .su, .mg] s (State.hbmCycle s) := by
  intro s
  unfold State.hbmCycle
  repeat' first
    | with_reducible apply ChangesOnly.refl
    | exact Eq.refl true
    | with_reducible apply ChangesOnly.ite
    | with_reducible apply ChangesOnly.foldl
    | with_reducible apply ChangesOnly.step ?_ (State.pcCycle_only _ _ _)
    | with_reducible apply ChangesOnly.step ?_ (State.senseStacks_only _)
    | with_reducible apply ChangesOnly.step ?_ (State.prefetch_only _ _)
    | with_reducible intro _
    | split
    | dsimp only [id]

end Sys2Proof.Machine
end

