-- ==== Sys2Proof/Laws/OnlyBreaker.lean ====
section
/-!
SUPPORT. For each operation and meaning of Machine/Breaker.lean: the parts of the state that it can change.
-/

set_option linter.unreachableTactic false
set_option linter.unusedTactic false

namespace Sys2Proof.Machine

theorem execBrkInjCk_only : ∀ a0 a1 s, Leaves [.coves] s (execBrkInjCk a0 a1 s) := by
  intro a0 a1 s
  unfold execBrkInjCk
  repeat' first
    | with_reducible apply ChangesOnly.refl
    | exact Eq.refl true
    | with_reducible apply Leaves.next
    | with_reducible apply Leaves.occurs
    | with_reducible apply Leaves.ite
    | with_reducible apply ChangesOnly.ite
    | with_reducible apply ChangesOnly.foldl
    | with_reducible apply ChangesOnly.step ?_ (State.modCove_only _ _ _)
    | with_reducible intro _
    | split
    | dsimp only [id]

theorem State.sendSig_only : ∀ s a1 a2 a3 a4, ChangesOnly [.coves] s (State.sendSig s a1 a2 a3 a4) := by
  intro s a1 a2 a3 a4
  unfold State.sendSig
  repeat' first
    | with_reducible apply ChangesOnly.refl
    | exact Eq.refl true
    | with_reducible apply ChangesOnly.ite
    | with_reducible apply ChangesOnly.foldl
    | with_reducible apply ChangesOnly.step ?_ (State.inject_only _ _ _ _ _)
    | with_reducible intro _
    | split
    | dsimp only [id]

theorem State.readPairs_only : ∀ s a1 a2, ChangesOnly [.free, .coves] s (State.readPairs s a1 a2) := by
  intro s a1 a2
  unfold State.readPairs
  repeat' first
    | with_reducible apply ChangesOnly.refl
    | exact Eq.refl true
    | with_reducible apply ChangesOnly.ite
    | with_reducible apply ChangesOnly.foldl
    | with_reducible apply ChangesOnly.step ?_ (State.modCove_only _ _ _)
    | with_reducible apply ChangesOnly.step ?_ (State.spend_only _ _)
    | with_reducible intro _
    | split
    | dsimp only [id]

theorem execBreakerAccept_only : ∀ a0 s, Leaves [.free, .clk, .coves, .ctrls, .streams, .bays, .sessions, .portq, .jetty, .integ, .rot, .net, .su, .mg] s (execBreakerAccept a0 s) := by
  intro a0 s
  unfold execBreakerAccept
  repeat' first
    | with_reducible apply ChangesOnly.refl
    | exact Eq.refl true
    | with_reducible apply Leaves.next
    | with_reducible apply Leaves.occurs
    | with_reducible apply Leaves.ite
    | with_reducible apply ChangesOnly.ite
    | with_reducible apply ChangesOnly.foldl
    | with_reducible apply ChangesOnly.step ?_ (State.modCove_only _ _ _)
    | with_reducible apply ChangesOnly.step ?_ (State.exception_only _ _ _)
    | with_reducible apply ChangesOnly.step ?_ (State.readPairs_only _ _ _)
    | with_reducible apply ChangesOnly.step ?_ (State.retireNext_only _ _ _)
    | with_reducible intro _
    | split
    | dsimp only [id]

theorem State.writeTol_only : ∀ s a1 a2 a3 a4 a5, ChangesOnly [.clk, .coves, .ctrls, .streams, .bays, .sessions, .portq, .jetty, .integ, .rot, .net, .su, .mg] s (State.writeTol s a1 a2 a3 a4 a5) := by
  intro s a1 a2 a3 a4 a5
  unfold State.writeTol
  repeat' first
    | with_reducible apply ChangesOnly.refl
    | exact Eq.refl true
    | with_reducible apply ChangesOnly.ite
    | with_reducible apply ChangesOnly.foldl
    | with_reducible apply ChangesOnly.step ?_ (State.modCove_only _ _ _)
    | with_reducible apply ChangesOnly.step ?_ (State.exception_only _ _ _)
    | with_reducible intro _
    | split
    | dsimp only [id]

theorem execToleranceWrite_only : ∀ a0 a1 a2 a3 a4 s, Leaves [.clk, .coves, .ctrls, .streams, .bays, .sessions, .portq, .jetty, .integ, .rot, .net, .su, .mg] s (execToleranceWrite a0 a1 a2 a3 a4 s) := by
  intro a0 a1 a2 a3 a4 s
  unfold execToleranceWrite
  repeat' first
    | with_reducible apply ChangesOnly.refl
    | exact Eq.refl true
    | with_reducible apply Leaves.next
    | with_reducible apply Leaves.occurs
    | with_reducible apply Leaves.ite
    | with_reducible apply ChangesOnly.ite
    | with_reducible apply ChangesOnly.foldl
    | with_reducible apply ChangesOnly.step ?_ (State.writeTol_only _ _ _ _ _ _)
    | with_reducible intro _
    | split
    | dsimp only [id]

theorem State.chargePair_only : ∀ s a1 a2 a3 a4 a5 a6, ChangesOnly [.coves, .bays, .sessions, .portq, .integ, .rot, .su, .mg] s (State.chargePair s a1 a2 a3 a4 a5 a6) := by
  intro s a1 a2 a3 a4 a5 a6
  unfold State.chargePair
  repeat' first
    | with_reducible apply ChangesOnly.refl
    | exact Eq.refl true
    | with_reducible apply ChangesOnly.ite
    | with_reducible apply ChangesOnly.foldl
    | with_reducible apply ChangesOnly.step ?_ (State.chargeWith_only _ _ _ _ _)
    | with_reducible intro _
    | split
    | dsimp only [id]

theorem State.mismatch_only : ∀ s a1 a2 a3 a4 a5, ChangesOnly [.coves, .bays, .sessions, .portq, .integ, .rot, .su, .mg] s (State.mismatch s a1 a2 a3 a4 a5) := by
  intro s a1 a2 a3 a4 a5
  unfold State.mismatch
  repeat' first
    | with_reducible apply ChangesOnly.refl
    | exact Eq.refl true
    | with_reducible apply ChangesOnly.ite
    | with_reducible apply ChangesOnly.foldl
    | with_reducible apply ChangesOnly.step ?_ (State.modCove_only _ _ _)
    | with_reducible apply ChangesOnly.step ?_ (State.modStep_only _ _ _ _)
    | with_reducible apply ChangesOnly.step ?_ (State.castFail_only _ _ _ _ _ _)
    | with_reducible apply ChangesOnly.step ?_ (State.chargePair_only _ _ _ _ _ _ _)
    | with_reducible intro _
    | split
    | dsimp only [id]

theorem State.compareSig_only : ∀ s a1 a2 a3, ChangesOnly [.coves, .bays, .sessions, .portq, .integ, .rot, .su, .mg] s (State.compareSig s a1 a2 a3) := by
  intro s a1 a2 a3
  unfold State.compareSig
  repeat' first
    | with_reducible apply ChangesOnly.refl
    | exact Eq.refl true
    | with_reducible apply ChangesOnly.ite
    | with_reducible apply ChangesOnly.foldl
    | with_reducible apply ChangesOnly.step ?_ (State.modCove_only _ _ _)
    | with_reducible apply ChangesOnly.step ?_ (State.mismatch_only _ _ _ _ _ _)
    | with_reducible intro _
    | split
    | dsimp only [id]

theorem State.holdSignature_only : ∀ s a1 a2, ChangesOnly [.coves, .bays, .sessions, .portq, .integ, .rot, .su, .mg] s (State.holdSignature s a1 a2) := by
  intro s a1 a2
  unfold State.holdSignature
  repeat' first
    | with_reducible apply ChangesOnly.refl
    | exact Eq.refl true
    | with_reducible apply ChangesOnly.ite
    | with_reducible apply ChangesOnly.foldl
    | with_reducible apply ChangesOnly.step ?_ (State.modCove_only _ _ _)
    | with_reducible apply ChangesOnly.step ?_ (State.compareSig_only _ _ _ _)
    | with_reducible intro _
    | split
    | dsimp only [id]

theorem State.shadowDone_only : ∀ s a1 a2 a3 a4 a5, ChangesOnly [.coves, .bays, .sessions, .portq, .integ, .rot, .su, .mg] s (State.shadowDone s a1 a2 a3 a4 a5) := by
  intro s a1 a2 a3 a4 a5
  unfold State.shadowDone
  repeat' first
    | with_reducible apply ChangesOnly.refl
    | exact Eq.refl true
    | with_reducible apply ChangesOnly.ite
    | with_reducible apply ChangesOnly.foldl
    | with_reducible apply ChangesOnly.step ?_ (State.modCove_only _ _ _)
    | with_reducible apply ChangesOnly.step ?_ (State.compareSig_only _ _ _ _)
    | with_reducible intro _
    | split
    | dsimp only [id]

theorem execBreakerOpComplete_only : ∀ a0 a1 a2 s, Leaves [.coves, .bays, .sessions, .portq, .integ, .rot, .su, .mg] s (execBreakerOpComplete a0 a1 a2 s) := by
  intro a0 a1 a2 s
  unfold execBreakerOpComplete
  repeat' first
    | with_reducible apply ChangesOnly.refl
    | exact Eq.refl true
    | with_reducible apply Leaves.next
    | with_reducible apply Leaves.occurs
    | with_reducible apply Leaves.ite
    | with_reducible apply ChangesOnly.ite
    | with_reducible apply ChangesOnly.foldl
    | with_reducible apply ChangesOnly.step ?_ (State.modCove_only _ _ _)
    | with_reducible apply ChangesOnly.step ?_ (State.sendSig_only _ _ _ _ _)
    | with_reducible apply ChangesOnly.step ?_ (State.hwErrorIn_only _ _ _ _ _)
    | with_reducible apply ChangesOnly.step ?_ (State.castOwed_only _ _)
    | with_reducible apply ChangesOnly.step ?_ (State.setCove_only _ _ _)
    | with_reducible apply ChangesOnly.step ?_ (State.castFail_only _ _ _ _ _ _)
    | with_reducible apply ChangesOnly.step ?_ (State.shadowDone_only _ _ _ _ _ _)
    | with_reducible intro _
    | split
    | dsimp only [id]

theorem execBrkFillEn_only : ∀ a0 a1 a2 s, Leaves [.coves] s (execBrkFillEn a0 a1 a2 s) := by
  intro a0 a1 a2 s
  unfold execBrkFillEn
  repeat' first
    | with_reducible apply ChangesOnly.refl
    | exact Eq.refl true
    | with_reducible apply Leaves.next
    | with_reducible apply Leaves.occurs
    | with_reducible apply Leaves.ite
    | with_reducible apply ChangesOnly.ite
    | with_reducible apply ChangesOnly.foldl
    | with_reducible apply ChangesOnly.step ?_ (State.modCove_only _ _ _)
    | with_reducible intro _
    | split
    | dsimp only [id]

theorem execShadowSignaturePacket_only : ∀ a0 a1 a2 a3 a4 s, Leaves [.coves, .bays, .sessions, .portq, .integ, .rot, .su, .mg] s (execShadowSignaturePacket a0 a1 a2 a3 a4 s) := by
  intro a0 a1 a2 a3 a4 s
  unfold execShadowSignaturePacket
  repeat' first
    | with_reducible apply ChangesOnly.refl
    | with_reducible apply ChangesOnly.trans ?_ (State.eject_only ?_ _ _ _ ?_)
    | exact Eq.refl true
    | with_reducible apply Leaves.next
    | with_reducible apply Leaves.occurs
    | with_reducible apply Leaves.ite
    | with_reducible apply ChangesOnly.ite
    | with_reducible apply ChangesOnly.foldl
    | with_reducible apply ChangesOnly.step ?_ (State.holdSignature_only _ _ _)
    | with_reducible apply ChangesOnly.step ?_ (State.netCount_only _ _ _)
    | with_reducible intro _
    | split
    | dsimp only [id]

theorem execGovernorTick_only : ∀ a0 a1 s, Leaves [.coves, .bays, .sessions, .portq, .integ, .rot, .su, .mg] s (execGovernorTick a0 a1 s) := by
  intro a0 a1 s
  unfold execGovernorTick
  repeat' first
    | with_reducible apply ChangesOnly.refl
    | exact Eq.refl true
    | with_reducible apply Leaves.next
    | with_reducible apply Leaves.occurs
    | with_reducible apply Leaves.ite
    | with_reducible apply ChangesOnly.ite
    | with_reducible apply ChangesOnly.foldl
    | with_reducible apply ChangesOnly.step ?_ (State.modCove_only _ _ _)
    | with_reducible apply ChangesOnly.step ?_ (State.coveError_only _ _ _)
    | with_reducible intro _
    | split
    | dsimp only [id]

theorem execBreakerOpStart_only : ∀ a0 a1 a2 s, Leaves [.coves, .bays, .sessions, .portq, .integ, .rot, .su, .mg] s (execBreakerOpStart a0 a1 a2 s) := by
  intro a0 a1 a2 s
  unfold execBreakerOpStart
  repeat' first
    | with_reducible apply ChangesOnly.refl
    | exact Eq.refl true
    | with_reducible apply Leaves.next
    | with_reducible apply Leaves.occurs
    | with_reducible apply Leaves.ite
    | with_reducible apply ChangesOnly.ite
    | with_reducible apply ChangesOnly.foldl
    | with_reducible apply ChangesOnly.step ?_ (State.modCove_only _ _ _)
    | with_reducible apply ChangesOnly.step ?_ (State.setCove_only _ _ _)
    | with_reducible apply ChangesOnly.step ?_ (State.rowParity_only _ _ _ _ _)
    | with_reducible intro _
    | split
    | dsimp only [id]

end Sys2Proof.Machine
end

