-- ==== Sys2Proof/Laws/OnlyPebbleInt.lean ====
section
/-!
SUPPORT. For each operation and meaning of Machine/PebbleInt.lean: the parts of the state that it can change.
-/

set_option linter.unreachableTactic false
set_option linter.unusedTactic false

namespace Sys2Proof.Machine

theorem aluR_only : ∀ s a1 a2 a3, Leaves [.clk, .mt, .coves, .ctrls, .streams, .bays, .sessions, .ports, .portq, .jetty, .integ, .rot, .net, .pwr, .su, .ident, .mg] s (aluR s a1 a2 a3) := by
  intro s a1 a2 a3
  unfold aluR
  repeat' first
    | with_reducible apply ChangesOnly.refl
    | with_reducible apply issue_only
    | exact Eq.refl true
    | with_reducible apply Leaves.next
    | with_reducible apply Leaves.occurs
    | with_reducible apply Leaves.ite
    | with_reducible apply ChangesOnly.ite
    | with_reducible apply ChangesOnly.foldl
    | with_reducible apply ChangesOnly.step ?_ (State.retireNext_only _ _ _)
    | with_reducible intro _
    | split
    | dsimp only [id]

theorem execSll_only : ∀ a0 a1 s, Leaves [.clk, .mt, .coves, .ctrls, .streams, .bays, .sessions, .ports, .portq, .jetty, .integ, .rot, .net, .pwr, .su, .ident, .mg] s (execSll a0 a1 s) := by
  intro a0 a1 s
  unfold execSll
  repeat' first
    | with_reducible apply ChangesOnly.refl
    | exact Eq.refl true
    | with_reducible apply Leaves.next
    | with_reducible apply Leaves.occurs
    | with_reducible apply Leaves.ite
    | with_reducible apply ChangesOnly.ite
    | with_reducible apply ChangesOnly.foldl
    | with_reducible apply Leaves.after ?_ (aluR_only _ _ _ _)
    | with_reducible intro _
    | split
    | dsimp only [id]

theorem transfer_only : ∀ s a1 a2 a3, ChangesOnly [.clk, .coves, .ctrls, .streams, .bays, .sessions, .portq, .jetty, .integ, .rot, .net, .su, .mg] s (transfer s a1 a2 a3) := by
  intro s a1 a2 a3
  unfold transfer
  repeat' first
    | with_reducible apply ChangesOnly.refl
    | exact Eq.refl true
    | with_reducible apply ChangesOnly.ite
    | with_reducible apply ChangesOnly.foldl
    | with_reducible apply ChangesOnly.step ?_ (State.retire_only _ _ _ _)
    | with_reducible apply ChangesOnly.step ?_ (State.exception_only _ _ _)
    | with_reducible intro _
    | split
    | dsimp only [id]

theorem branch_only : ∀ s a1 a2 a3, Leaves [.clk, .mt, .coves, .ctrls, .streams, .bays, .sessions, .ports, .portq, .jetty, .integ, .rot, .net, .pwr, .su, .ident, .mg] s (branch s a1 a2 a3) := by
  intro s a1 a2 a3
  unfold branch
  repeat' first
    | with_reducible apply ChangesOnly.refl
    | with_reducible apply issue_only
    | exact Eq.refl true
    | with_reducible apply Leaves.next
    | with_reducible apply Leaves.occurs
    | with_reducible apply Leaves.ite
    | with_reducible apply ChangesOnly.ite
    | with_reducible apply ChangesOnly.foldl
    | with_reducible apply ChangesOnly.step ?_ (transfer_only _ _ _ _)
    | with_reducible apply ChangesOnly.step ?_ (State.retireNext_only _ _ _)
    | with_reducible intro _
    | split
    | dsimp only [id]

theorem execBeq_only : ∀ a0 a1 s, Leaves [.clk, .mt, .coves, .ctrls, .streams, .bays, .sessions, .ports, .portq, .jetty, .integ, .rot, .net, .pwr, .su, .ident, .mg] s (execBeq a0 a1 s) := by
  intro a0 a1 s
  unfold execBeq
  repeat' first
    | with_reducible apply ChangesOnly.refl
    | exact Eq.refl true
    | with_reducible apply Leaves.next
    | with_reducible apply Leaves.occurs
    | with_reducible apply Leaves.ite
    | with_reducible apply ChangesOnly.ite
    | with_reducible apply ChangesOnly.foldl
    | with_reducible apply Leaves.after ?_ (branch_only _ _ _ _)
    | with_reducible intro _
    | split
    | dsimp only [id]

theorem execBne_only : ∀ a0 a1 s, Leaves [.clk, .mt, .coves, .ctrls, .streams, .bays, .sessions, .ports, .portq, .jetty, .integ, .rot, .net, .pwr, .su, .ident, .mg] s (execBne a0 a1 s) := by
  intro a0 a1 s
  unfold execBne
  repeat' first
    | with_reducible apply ChangesOnly.refl
    | exact Eq.refl true
    | with_reducible apply Leaves.next
    | with_reducible apply Leaves.occurs
    | with_reducible apply Leaves.ite
    | with_reducible apply ChangesOnly.ite
    | with_reducible apply ChangesOnly.foldl
    | with_reducible apply Leaves.after ?_ (branch_only _ _ _ _)
    | with_reducible intro _
    | split
    | dsimp only [id]

theorem execSinfo_only : ∀ a0 a1 s, Leaves [.clk, .mt, .coves, .ctrls, .streams, .bays, .sessions, .ports, .portq, .jetty, .integ, .rot, .net, .pwr, .su, .ident, .mg] s (execSinfo a0 a1 s) := by
  intro a0 a1 s
  unfold execSinfo
  repeat' first
    | with_reducible apply ChangesOnly.refl
    | with_reducible apply issue_only
    | exact Eq.refl true
    | with_reducible apply Leaves.next
    | with_reducible apply Leaves.occurs
    | with_reducible apply Leaves.ite
    | with_reducible apply ChangesOnly.ite
    | with_reducible apply ChangesOnly.foldl
    | with_reducible apply ChangesOnly.step ?_ (State.retireNext_only _ _ _)
    | with_reducible intro _
    | split
    | dsimp only [id]

theorem aluI_only : ∀ s a1 a2 a3 a4, Leaves [.clk, .mt, .coves, .ctrls, .streams, .bays, .sessions, .ports, .portq, .jetty, .integ, .rot, .net, .pwr, .su, .ident, .mg] s (aluI s a1 a2 a3 a4) := by
  intro s a1 a2 a3 a4
  unfold aluI
  repeat' first
    | with_reducible apply ChangesOnly.refl
    | with_reducible apply issue_only
    | exact Eq.refl true
    | with_reducible apply Leaves.next
    | with_reducible apply Leaves.occurs
    | with_reducible apply Leaves.ite
    | with_reducible apply ChangesOnly.ite
    | with_reducible apply ChangesOnly.foldl
    | with_reducible apply ChangesOnly.step ?_ (State.retireNext_only _ _ _)
    | with_reducible intro _
    | split
    | dsimp only [id]

theorem execXori_only : ∀ a0 a1 s, Leaves [.clk, .mt, .coves, .ctrls, .streams, .bays, .sessions, .ports, .portq, .jetty, .integ, .rot, .net, .pwr, .su, .ident, .mg] s (execXori a0 a1 s) := by
  intro a0 a1 s
  unfold execXori
  repeat' first
    | with_reducible apply ChangesOnly.refl
    | exact Eq.refl true
    | with_reducible apply Leaves.next
    | with_reducible apply Leaves.occurs
    | with_reducible apply Leaves.ite
    | with_reducible apply ChangesOnly.ite
    | with_reducible apply ChangesOnly.foldl
    | with_reducible apply Leaves.after ?_ (aluI_only _ _ _ _ _)
    | with_reducible intro _
    | split
    | dsimp only [id]

theorem execBltu_only : ∀ a0 a1 s, Leaves [.clk, .mt, .coves, .ctrls, .streams, .bays, .sessions, .ports, .portq, .jetty, .integ, .rot, .net, .pwr, .su, .ident, .mg] s (execBltu a0 a1 s) := by
  intro a0 a1 s
  unfold execBltu
  repeat' first
    | with_reducible apply ChangesOnly.refl
    | exact Eq.refl true
    | with_reducible apply Leaves.next
    | with_reducible apply Leaves.occurs
    | with_reducible apply Leaves.ite
    | with_reducible apply ChangesOnly.ite
    | with_reducible apply ChangesOnly.foldl
    | with_reducible apply Leaves.after ?_ (branch_only _ _ _ _)
    | with_reducible intro _
    | split
    | dsimp only [id]

theorem execBgeu_only : ∀ a0 a1 s, Leaves [.clk, .mt, .coves, .ctrls, .streams, .bays, .sessions, .ports, .portq, .jetty, .integ, .rot, .net, .pwr, .su, .ident, .mg] s (execBgeu a0 a1 s) := by
  intro a0 a1 s
  unfold execBgeu
  repeat' first
    | with_reducible apply ChangesOnly.refl
    | exact Eq.refl true
    | with_reducible apply Leaves.next
    | with_reducible apply Leaves.occurs
    | with_reducible apply Leaves.ite
    | with_reducible apply ChangesOnly.ite
    | with_reducible apply ChangesOnly.foldl
    | with_reducible apply Leaves.after ?_ (branch_only _ _ _ _)
    | with_reducible intro _
    | split
    | dsimp only [id]

theorem execMinu_only : ∀ a0 a1 s, Leaves [.clk, .mt, .coves, .ctrls, .streams, .bays, .sessions, .ports, .portq, .jetty, .integ, .rot, .net, .pwr, .su, .ident, .mg] s (execMinu a0 a1 s) := by
  intro a0 a1 s
  unfold execMinu
  repeat' first
    | with_reducible apply ChangesOnly.refl
    | exact Eq.refl true
    | with_reducible apply Leaves.next
    | with_reducible apply Leaves.occurs
    | with_reducible apply Leaves.ite
    | with_reducible apply ChangesOnly.ite
    | with_reducible apply ChangesOnly.foldl
    | with_reducible apply Leaves.after ?_ (aluR_only _ _ _ _)
    | with_reducible intro _
    | split
    | dsimp only [id]

theorem execSrl_only : ∀ a0 a1 s, Leaves [.clk, .mt, .coves, .ctrls, .streams, .bays, .sessions, .ports, .portq, .jetty, .integ, .rot, .net, .pwr, .su, .ident, .mg] s (execSrl a0 a1 s) := by
  intro a0 a1 s
  unfold execSrl
  repeat' first
    | with_reducible apply ChangesOnly.refl
    | exact Eq.refl true
    | with_reducible apply Leaves.next
    | with_reducible apply Leaves.occurs
    | with_reducible apply Leaves.ite
    | with_reducible apply ChangesOnly.ite
    | with_reducible apply ChangesOnly.foldl
    | with_reducible apply Leaves.after ?_ (aluR_only _ _ _ _)
    | with_reducible intro _
    | split
    | dsimp only [id]

theorem execSltiu_only : ∀ a0 a1 s, Leaves [.clk, .mt, .coves, .ctrls, .streams, .bays, .sessions, .ports, .portq, .jetty, .integ, .rot, .net, .pwr, .su, .ident, .mg] s (execSltiu a0 a1 s) := by
  intro a0 a1 s
  unfold execSltiu
  repeat' first
    | with_reducible apply ChangesOnly.refl
    | exact Eq.refl true
    | with_reducible apply Leaves.next
    | with_reducible apply Leaves.occurs
    | with_reducible apply Leaves.ite
    | with_reducible apply ChangesOnly.ite
    | with_reducible apply ChangesOnly.foldl
    | with_reducible apply Leaves.after ?_ (aluI_only _ _ _ _ _)
    | with_reducible intro _
    | split
    | dsimp only [id]

theorem shiftI_only : ∀ s a1 a2 a3, Leaves [.clk, .mt, .coves, .ctrls, .streams, .bays, .sessions, .ports, .portq, .jetty, .integ, .rot, .net, .pwr, .su, .ident, .mg] s (shiftI s a1 a2 a3) := by
  intro s a1 a2 a3
  unfold shiftI
  repeat' first
    | with_reducible apply ChangesOnly.refl
    | with_reducible apply issue_only
    | exact Eq.refl true
    | with_reducible apply Leaves.next
    | with_reducible apply Leaves.occurs
    | with_reducible apply Leaves.ite
    | with_reducible apply ChangesOnly.ite
    | with_reducible apply ChangesOnly.foldl
    | with_reducible apply ChangesOnly.step ?_ (State.retireNext_only _ _ _)
    | with_reducible intro _
    | split
    | dsimp only [id]

theorem execSrai_only : ∀ a0 a1 s, Leaves [.clk, .mt, .coves, .ctrls, .streams, .bays, .sessions, .ports, .portq, .jetty, .integ, .rot, .net, .pwr, .su, .ident, .mg] s (execSrai a0 a1 s) := by
  intro a0 a1 s
  unfold execSrai
  repeat' first
    | with_reducible apply ChangesOnly.refl
    | exact Eq.refl true
    | with_reducible apply Leaves.next
    | with_reducible apply Leaves.occurs
    | with_reducible apply Leaves.ite
    | with_reducible apply ChangesOnly.ite
    | with_reducible apply ChangesOnly.foldl
    | with_reducible apply Leaves.after ?_ (shiftI_only _ _ _ _)
    | with_reducible intro _
    | split
    | dsimp only [id]

theorem execDivu_only : ∀ a0 a1 s, Leaves [.clk, .mt, .coves, .ctrls, .streams, .bays, .sessions, .ports, .portq, .jetty, .integ, .rot, .net, .pwr, .su, .ident, .mg] s (execDivu a0 a1 s) := by
  intro a0 a1 s
  unfold execDivu
  repeat' first
    | with_reducible apply ChangesOnly.refl
    | exact Eq.refl true
    | with_reducible apply Leaves.next
    | with_reducible apply Leaves.occurs
    | with_reducible apply Leaves.ite
    | with_reducible apply ChangesOnly.ite
    | with_reducible apply ChangesOnly.foldl
    | with_reducible apply Leaves.after ?_ (aluR_only _ _ _ _)
    | with_reducible intro _
    | split
    | dsimp only [id]

theorem execBlt_only : ∀ a0 a1 s, Leaves [.clk, .mt, .coves, .ctrls, .streams, .bays, .sessions, .ports, .portq, .jetty, .integ, .rot, .net, .pwr, .su, .ident, .mg] s (execBlt a0 a1 s) := by
  intro a0 a1 s
  unfold execBlt
  repeat' first
    | with_reducible apply ChangesOnly.refl
    | exact Eq.refl true
    | with_reducible apply Leaves.next
    | with_reducible apply Leaves.occurs
    | with_reducible apply Leaves.ite
    | with_reducible apply ChangesOnly.ite
    | with_reducible apply ChangesOnly.foldl
    | with_reducible apply Leaves.after ?_ (branch_only _ _ _ _)
    | with_reducible intro _
    | split
    | dsimp only [id]

theorem execSltu_only : ∀ a0 a1 s, Leaves [.clk, .mt, .coves, .ctrls, .streams, .bays, .sessions, .ports, .portq, .jetty, .integ, .rot, .net, .pwr, .su, .ident, .mg] s (execSltu a0 a1 s) := by
  intro a0 a1 s
  unfold execSltu
  repeat' first
    | with_reducible apply ChangesOnly.refl
    | exact Eq.refl true
    | with_reducible apply Leaves.next
    | with_reducible apply Leaves.occurs
    | with_reducible apply Leaves.ite
    | with_reducible apply ChangesOnly.ite
    | with_reducible apply ChangesOnly.foldl
    | with_reducible apply Leaves.after ?_ (aluR_only _ _ _ _)
    | with_reducible intro _
    | split
    | dsimp only [id]

theorem execSlli_only : ∀ a0 a1 s, Leaves [.clk, .mt, .coves, .ctrls, .streams, .bays, .sessions, .ports, .portq, .jetty, .integ, .rot, .net, .pwr, .su, .ident, .mg] s (execSlli a0 a1 s) := by
  intro a0 a1 s
  unfold execSlli
  repeat' first
    | with_reducible apply ChangesOnly.refl
    | exact Eq.refl true
    | with_reducible apply Leaves.next
    | with_reducible apply Leaves.occurs
    | with_reducible apply Leaves.ite
    | with_reducible apply ChangesOnly.ite
    | with_reducible apply ChangesOnly.foldl
    | with_reducible apply Leaves.after ?_ (shiftI_only _ _ _ _)
    | with_reducible intro _
    | split
    | dsimp only [id]

theorem execAddi_only : ∀ a0 a1 s, Leaves [.clk, .mt, .coves, .ctrls, .streams, .bays, .sessions, .ports, .portq, .jetty, .integ, .rot, .net, .pwr, .su, .ident, .mg] s (execAddi a0 a1 s) := by
  intro a0 a1 s
  unfold execAddi
  repeat' first
    | with_reducible apply ChangesOnly.refl
    | exact Eq.refl true
    | with_reducible apply Leaves.next
    | with_reducible apply Leaves.occurs
    | with_reducible apply Leaves.ite
    | with_reducible apply ChangesOnly.ite
    | with_reducible apply ChangesOnly.foldl
    | with_reducible apply Leaves.after ?_ (aluI_only _ _ _ _ _)
    | with_reducible intro _
    | split
    | dsimp only [id]

theorem execMaxu_only : ∀ a0 a1 s, Leaves [.clk, .mt, .coves, .ctrls, .streams, .bays, .sessions, .ports, .portq, .jetty, .integ, .rot, .net, .pwr, .su, .ident, .mg] s (execMaxu a0 a1 s) := by
  intro a0 a1 s
  unfold execMaxu
  repeat' first
    | with_reducible apply ChangesOnly.refl
    | exact Eq.refl true
    | with_reducible apply Leaves.next
    | with_reducible apply Leaves.occurs
    | with_reducible apply Leaves.ite
    | with_reducible apply ChangesOnly.ite
    | with_reducible apply ChangesOnly.foldl
    | with_reducible apply Leaves.after ?_ (aluR_only _ _ _ _)
    | with_reducible intro _
    | split
    | dsimp only [id]

theorem execMulhu_only : ∀ a0 a1 s, Leaves [.clk, .mt, .coves, .ctrls, .streams, .bays, .sessions, .ports, .portq, .jetty, .integ, .rot, .net, .pwr, .su, .ident, .mg] s (execMulhu a0 a1 s) := by
  intro a0 a1 s
  unfold execMulhu
  repeat' first
    | with_reducible apply ChangesOnly.refl
    | exact Eq.refl true
    | with_reducible apply Leaves.next
    | with_reducible apply Leaves.occurs
    | with_reducible apply Leaves.ite
    | with_reducible apply ChangesOnly.ite
    | with_reducible apply ChangesOnly.foldl
    | with_reducible apply Leaves.after ?_ (aluR_only _ _ _ _)
    | with_reducible intro _
    | split
    | dsimp only [id]

theorem execAndi_only : ∀ a0 a1 s, Leaves [.clk, .mt, .coves, .ctrls, .streams, .bays, .sessions, .ports, .portq, .jetty, .integ, .rot, .net, .pwr, .su, .ident, .mg] s (execAndi a0 a1 s) := by
  intro a0 a1 s
  unfold execAndi
  repeat' first
    | with_reducible apply ChangesOnly.refl
    | exact Eq.refl true
    | with_reducible apply Leaves.next
    | with_reducible apply Leaves.occurs
    | with_reducible apply Leaves.ite
    | with_reducible apply ChangesOnly.ite
    | with_reducible apply ChangesOnly.foldl
    | with_reducible apply Leaves.after ?_ (aluI_only _ _ _ _ _)
    | with_reducible intro _
    | split
    | dsimp only [id]

theorem execMin_only : ∀ a0 a1 s, Leaves [.clk, .mt, .coves, .ctrls, .streams, .bays, .sessions, .ports, .portq, .jetty, .integ, .rot, .net, .pwr, .su, .ident, .mg] s (execMin a0 a1 s) := by
  intro a0 a1 s
  unfold execMin
  repeat' first
    | with_reducible apply ChangesOnly.refl
    | exact Eq.refl true
    | with_reducible apply Leaves.next
    | with_reducible apply Leaves.occurs
    | with_reducible apply Leaves.ite
    | with_reducible apply ChangesOnly.ite
    | with_reducible apply ChangesOnly.foldl
    | with_reducible apply Leaves.after ?_ (aluR_only _ _ _ _)
    | with_reducible intro _
    | split
    | dsimp only [id]

theorem execRemu_only : ∀ a0 a1 s, Leaves [.clk, .mt, .coves, .ctrls, .streams, .bays, .sessions, .ports, .portq, .jetty, .integ, .rot, .net, .pwr, .su, .ident, .mg] s (execRemu a0 a1 s) := by
  intro a0 a1 s
  unfold execRemu
  repeat' first
    | with_reducible apply ChangesOnly.refl
    | exact Eq.refl true
    | with_reducible apply Leaves.next
    | with_reducible apply Leaves.occurs
    | with_reducible apply Leaves.ite
    | with_reducible apply ChangesOnly.ite
    | with_reducible apply ChangesOnly.foldl
    | with_reducible apply Leaves.after ?_ (aluR_only _ _ _ _)
    | with_reducible intro _
    | split
    | dsimp only [id]

theorem execStepend_only : ∀ a0 a1 s, Leaves [.clk, .mt, .coves, .ctrls, .streams, .bays, .sessions, .ports, .portq, .jetty, .integ, .rot, .net, .pwr, .su, .ident, .mg] s (execStepend a0 a1 s) := by
  intro a0 a1 s
  unfold execStepend
  repeat' first
    | with_reducible apply ChangesOnly.refl
    | with_reducible apply issue_only
    | exact Eq.refl true
    | with_reducible apply Leaves.next
    | with_reducible apply Leaves.occurs
    | with_reducible apply Leaves.ite
    | with_reducible apply ChangesOnly.ite
    | with_reducible apply ChangesOnly.foldl
    | with_reducible apply ChangesOnly.step ?_ (State.modCore_only _ _ _)
    | with_reducible intro _
    | split
    | dsimp only [id]

theorem execSlt_only : ∀ a0 a1 s, Leaves [.clk, .mt, .coves, .ctrls, .streams, .bays, .sessions, .ports, .portq, .jetty, .integ, .rot, .net, .pwr, .su, .ident, .mg] s (execSlt a0 a1 s) := by
  intro a0 a1 s
  unfold execSlt
  repeat' first
    | with_reducible apply ChangesOnly.refl
    | exact Eq.refl true
    | with_reducible apply Leaves.next
    | with_reducible apply Leaves.occurs
    | with_reducible apply Leaves.ite
    | with_reducible apply ChangesOnly.ite
    | with_reducible apply ChangesOnly.foldl
    | with_reducible apply Leaves.after ?_ (aluR_only _ _ _ _)
    | with_reducible intro _
    | split
    | dsimp only [id]

theorem execSub_only : ∀ a0 a1 s, Leaves [.clk, .mt, .coves, .ctrls, .streams, .bays, .sessions, .ports, .portq, .jetty, .integ, .rot, .net, .pwr, .su, .ident, .mg] s (execSub a0 a1 s) := by
  intro a0 a1 s
  unfold execSub
  repeat' first
    | with_reducible apply ChangesOnly.refl
    | exact Eq.refl true
    | with_reducible apply Leaves.next
    | with_reducible apply Leaves.occurs
    | with_reducible apply Leaves.ite
    | with_reducible apply ChangesOnly.ite
    | with_reducible apply ChangesOnly.foldl
    | with_reducible apply Leaves.after ?_ (aluR_only _ _ _ _)
    | with_reducible intro _
    | split
    | dsimp only [id]

theorem execOr_only : ∀ a0 a1 s, Leaves [.clk, .mt, .coves, .ctrls, .streams, .bays, .sessions, .ports, .portq, .jetty, .integ, .rot, .net, .pwr, .su, .ident, .mg] s (execOr a0 a1 s) := by
  intro a0 a1 s
  unfold execOr
  repeat' first
    | with_reducible apply ChangesOnly.refl
    | exact Eq.refl true
    | with_reducible apply Leaves.next
    | with_reducible apply Leaves.occurs
    | with_reducible apply Leaves.ite
    | with_reducible apply ChangesOnly.ite
    | with_reducible apply ChangesOnly.foldl
    | with_reducible apply Leaves.after ?_ (aluR_only _ _ _ _)
    | with_reducible intro _
    | split
    | dsimp only [id]

theorem execMax_only : ∀ a0 a1 s, Leaves [.clk, .mt, .coves, .ctrls, .streams, .bays, .sessions, .ports, .portq, .jetty, .integ, .rot, .net, .pwr, .su, .ident, .mg] s (execMax a0 a1 s) := by
  intro a0 a1 s
  unfold execMax
  repeat' first
    | with_reducible apply ChangesOnly.refl
    | exact Eq.refl true
    | with_reducible apply Leaves.next
    | with_reducible apply Leaves.occurs
    | with_reducible apply Leaves.ite
    | with_reducible apply ChangesOnly.ite
    | with_reducible apply ChangesOnly.foldl
    | with_reducible apply Leaves.after ?_ (aluR_only _ _ _ _)
    | with_reducible intro _
    | split
    | dsimp only [id]

theorem execJal_only : ∀ a0 a1 s, Leaves [.clk, .mt, .coves, .ctrls, .streams, .bays, .sessions, .ports, .portq, .jetty, .integ, .rot, .net, .pwr, .su, .ident, .mg] s (execJal a0 a1 s) := by
  intro a0 a1 s
  unfold execJal
  repeat' first
    | with_reducible apply ChangesOnly.refl
    | with_reducible apply issue_only
    | exact Eq.refl true
    | with_reducible apply Leaves.next
    | with_reducible apply Leaves.occurs
    | with_reducible apply Leaves.ite
    | with_reducible apply ChangesOnly.ite
    | with_reducible apply ChangesOnly.foldl
    | with_reducible apply ChangesOnly.step ?_ (transfer_only _ _ _ _)
    | with_reducible intro _
    | split
    | dsimp only [id]

theorem execTrap_only : ∀ a0 a1 s, Leaves [.clk, .mt, .coves, .ctrls, .streams, .bays, .sessions, .ports, .portq, .jetty, .integ, .rot, .net, .pwr, .su, .ident, .mg] s (execTrap a0 a1 s) := by
  intro a0 a1 s
  unfold execTrap
  repeat' first
    | with_reducible apply ChangesOnly.refl
    | with_reducible apply issue_only
    | exact Eq.refl true
    | with_reducible apply Leaves.next
    | with_reducible apply Leaves.occurs
    | with_reducible apply Leaves.ite
    | with_reducible apply ChangesOnly.ite
    | with_reducible apply ChangesOnly.foldl
    | with_reducible apply ChangesOnly.step ?_ (State.modCore_only _ _ _)
    | with_reducible apply ChangesOnly.step ?_ (State.retireNext_only _ _ _)
    | with_reducible intro _
    | split
    | dsimp only [id]

theorem execJalr_only : ∀ a0 a1 s, Leaves [.clk, .mt, .coves, .ctrls, .streams, .bays, .sessions, .ports, .portq, .jetty, .integ, .rot, .net, .pwr, .su, .ident, .mg] s (execJalr a0 a1 s) := by
  intro a0 a1 s
  unfold execJalr
  repeat' first
    | with_reducible apply ChangesOnly.refl
    | with_reducible apply issue_only
    | exact Eq.refl true
    | with_reducible apply Leaves.next
    | with_reducible apply Leaves.occurs
    | with_reducible apply Leaves.ite
    | with_reducible apply ChangesOnly.ite
    | with_reducible apply ChangesOnly.foldl
    | with_reducible apply ChangesOnly.step ?_ (transfer_only _ _ _ _)
    | with_reducible intro _
    | split
    | dsimp only [id]

theorem execSra_only : ∀ a0 a1 s, Leaves [.clk, .mt, .coves, .ctrls, .streams, .bays, .sessions, .ports, .portq, .jetty, .integ, .rot, .net, .pwr, .su, .ident, .mg] s (execSra a0 a1 s) := by
  intro a0 a1 s
  unfold execSra
  repeat' first
    | with_reducible apply ChangesOnly.refl
    | exact Eq.refl true
    | with_reducible apply Leaves.next
    | with_reducible apply Leaves.occurs
    | with_reducible apply Leaves.ite
    | with_reducible apply ChangesOnly.ite
    | with_reducible apply ChangesOnly.foldl
    | with_reducible apply Leaves.after ?_ (aluR_only _ _ _ _)
    | with_reducible intro _
    | split
    | dsimp only [id]

theorem execMul_only : ∀ a0 a1 s, Leaves [.clk, .mt, .coves, .ctrls, .streams, .bays, .sessions, .ports, .portq, .jetty, .integ, .rot, .net, .pwr, .su, .ident, .mg] s (execMul a0 a1 s) := by
  intro a0 a1 s
  unfold execMul
  repeat' first
    | with_reducible apply ChangesOnly.refl
    | exact Eq.refl true
    | with_reducible apply Leaves.next
    | with_reducible apply Leaves.occurs
    | with_reducible apply Leaves.ite
    | with_reducible apply ChangesOnly.ite
    | with_reducible apply ChangesOnly.foldl
    | with_reducible apply Leaves.after ?_ (aluR_only _ _ _ _)
    | with_reducible intro _
    | split
    | dsimp only [id]

theorem execNopInstruction_only : ∀ a0 a1 s, Leaves [.clk, .mt, .coves, .ctrls, .streams, .bays, .sessions, .ports, .portq, .jetty, .integ, .rot, .net, .pwr, .su, .ident, .mg] s (execNopInstruction a0 a1 s) := by
  intro a0 a1 s
  unfold execNopInstruction
  repeat' first
    | with_reducible apply ChangesOnly.refl
    | with_reducible apply issue_only
    | exact Eq.refl true
    | with_reducible apply Leaves.next
    | with_reducible apply Leaves.occurs
    | with_reducible apply Leaves.ite
    | with_reducible apply ChangesOnly.ite
    | with_reducible apply ChangesOnly.foldl
    | with_reducible apply ChangesOnly.step ?_ (State.retireNext_only _ _ _)
    | with_reducible intro _
    | split
    | dsimp only [id]

theorem execOri_only : ∀ a0 a1 s, Leaves [.clk, .mt, .coves, .ctrls, .streams, .bays, .sessions, .ports, .portq, .jetty, .integ, .rot, .net, .pwr, .su, .ident, .mg] s (execOri a0 a1 s) := by
  intro a0 a1 s
  unfold execOri
  repeat' first
    | with_reducible apply ChangesOnly.refl
    | exact Eq.refl true
    | with_reducible apply Leaves.next
    | with_reducible apply Leaves.occurs
    | with_reducible apply Leaves.ite
    | with_reducible apply ChangesOnly.ite
    | with_reducible apply ChangesOnly.foldl
    | with_reducible apply Leaves.after ?_ (aluI_only _ _ _ _ _)
    | with_reducible intro _
    | split
    | dsimp only [id]

theorem execXor_only : ∀ a0 a1 s, Leaves [.clk, .mt, .coves, .ctrls, .streams, .bays, .sessions, .ports, .portq, .jetty, .integ, .rot, .net, .pwr, .su, .ident, .mg] s (execXor a0 a1 s) := by
  intro a0 a1 s
  unfold execXor
  repeat' first
    | with_reducible apply ChangesOnly.refl
    | exact Eq.refl true
    | with_reducible apply Leaves.next
    | with_reducible apply Leaves.occurs
    | with_reducible apply Leaves.ite
    | with_reducible apply ChangesOnly.ite
    | with_reducible apply ChangesOnly.foldl
    | with_reducible apply Leaves.after ?_ (aluR_only _ _ _ _)
    | with_reducible intro _
    | split
    | dsimp only [id]

theorem execJ_only : ∀ a0 a1 s, Leaves [.clk, .mt, .coves, .ctrls, .streams, .bays, .sessions, .ports, .portq, .jetty, .integ, .rot, .net, .pwr, .su, .ident, .mg] s (execJ a0 a1 s) := by
  intro a0 a1 s
  unfold execJ
  repeat' first
    | with_reducible apply ChangesOnly.refl
    | with_reducible apply issue_only
    | exact Eq.refl true
    | with_reducible apply Leaves.next
    | with_reducible apply Leaves.occurs
    | with_reducible apply Leaves.ite
    | with_reducible apply ChangesOnly.ite
    | with_reducible apply ChangesOnly.foldl
    | with_reducible apply ChangesOnly.step ?_ (transfer_only _ _ _ _)
    | with_reducible intro _
    | split
    | dsimp only [id]

theorem execLui_only : ∀ a0 a1 s, Leaves [.clk, .mt, .coves, .ctrls, .streams, .bays, .sessions, .ports, .portq, .jetty, .integ, .rot, .net, .pwr, .su, .ident, .mg] s (execLui a0 a1 s) := by
  intro a0 a1 s
  unfold execLui
  repeat' first
    | with_reducible apply ChangesOnly.refl
    | exact Eq.refl true
    | with_reducible apply Leaves.next
    | with_reducible apply Leaves.occurs
    | with_reducible apply Leaves.ite
    | with_reducible apply ChangesOnly.ite
    | with_reducible apply ChangesOnly.foldl
    | with_reducible apply Leaves.after ?_ (aluI_only _ _ _ _ _)
    | with_reducible intro _
    | split
    | dsimp only [id]

theorem execAnd_only : ∀ a0 a1 s, Leaves [.clk, .mt, .coves, .ctrls, .streams, .bays, .sessions, .ports, .portq, .jetty, .integ, .rot, .net, .pwr, .su, .ident, .mg] s (execAnd a0 a1 s) := by
  intro a0 a1 s
  unfold execAnd
  repeat' first
    | with_reducible apply ChangesOnly.refl
    | exact Eq.refl true
    | with_reducible apply Leaves.next
    | with_reducible apply Leaves.occurs
    | with_reducible apply Leaves.ite
    | with_reducible apply ChangesOnly.ite
    | with_reducible apply ChangesOnly.foldl
    | with_reducible apply Leaves.after ?_ (aluR_only _ _ _ _)
    | with_reducible intro _
    | split
    | dsimp only [id]

theorem execDiv_only : ∀ a0 a1 s, Leaves [.clk, .mt, .coves, .ctrls, .streams, .bays, .sessions, .ports, .portq, .jetty, .integ, .rot, .net, .pwr, .su, .ident, .mg] s (execDiv a0 a1 s) := by
  intro a0 a1 s
  unfold execDiv
  repeat' first
    | with_reducible apply ChangesOnly.refl
    | exact Eq.refl true
    | with_reducible apply Leaves.next
    | with_reducible apply Leaves.occurs
    | with_reducible apply Leaves.ite
    | with_reducible apply ChangesOnly.ite
    | with_reducible apply ChangesOnly.foldl
    | with_reducible apply Leaves.after ?_ (aluR_only _ _ _ _)
    | with_reducible intro _
    | split
    | dsimp only [id]

theorem execSrli_only : ∀ a0 a1 s, Leaves [.clk, .mt, .coves, .ctrls, .streams, .bays, .sessions, .ports, .portq, .jetty, .integ, .rot, .net, .pwr, .su, .ident, .mg] s (execSrli a0 a1 s) := by
  intro a0 a1 s
  unfold execSrli
  repeat' first
    | with_reducible apply ChangesOnly.refl
    | exact Eq.refl true
    | with_reducible apply Leaves.next
    | with_reducible apply Leaves.occurs
    | with_reducible apply Leaves.ite
    | with_reducible apply ChangesOnly.ite
    | with_reducible apply ChangesOnly.foldl
    | with_reducible apply Leaves.after ?_ (shiftI_only _ _ _ _)
    | with_reducible intro _
    | split
    | dsimp only [id]

theorem execSlti_only : ∀ a0 a1 s, Leaves [.clk, .mt, .coves, .ctrls, .streams, .bays, .sessions, .ports, .portq, .jetty, .integ, .rot, .net, .pwr, .su, .ident, .mg] s (execSlti a0 a1 s) := by
  intro a0 a1 s
  unfold execSlti
  repeat' first
    | with_reducible apply ChangesOnly.refl
    | exact Eq.refl true
    | with_reducible apply Leaves.next
    | with_reducible apply Leaves.occurs
    | with_reducible apply Leaves.ite
    | with_reducible apply ChangesOnly.ite
    | with_reducible apply ChangesOnly.foldl
    | with_reducible apply Leaves.after ?_ (aluI_only _ _ _ _ _)
    | with_reducible intro _
    | split
    | dsimp only [id]

theorem execAdd_only : ∀ a0 a1 s, Leaves [.clk, .mt, .coves, .ctrls, .streams, .bays, .sessions, .ports, .portq, .jetty, .integ, .rot, .net, .pwr, .su, .ident, .mg] s (execAdd a0 a1 s) := by
  intro a0 a1 s
  unfold execAdd
  repeat' first
    | with_reducible apply ChangesOnly.refl
    | exact Eq.refl true
    | with_reducible apply Leaves.next
    | with_reducible apply Leaves.occurs
    | with_reducible apply Leaves.ite
    | with_reducible apply ChangesOnly.ite
    | with_reducible apply ChangesOnly.foldl
    | with_reducible apply Leaves.after ?_ (aluR_only _ _ _ _)
    | with_reducible intro _
    | split
    | dsimp only [id]

theorem execBge_only : ∀ a0 a1 s, Leaves [.clk, .mt, .coves, .ctrls, .streams, .bays, .sessions, .ports, .portq, .jetty, .integ, .rot, .net, .pwr, .su, .ident, .mg] s (execBge a0 a1 s) := by
  intro a0 a1 s
  unfold execBge
  repeat' first
    | with_reducible apply ChangesOnly.refl
    | exact Eq.refl true
    | with_reducible apply Leaves.next
    | with_reducible apply Leaves.occurs
    | with_reducible apply Leaves.ite
    | with_reducible apply ChangesOnly.ite
    | with_reducible apply ChangesOnly.foldl
    | with_reducible apply Leaves.after ?_ (branch_only _ _ _ _)
    | with_reducible intro _
    | split
    | dsimp only [id]

theorem execMulh_only : ∀ a0 a1 s, Leaves [.clk, .mt, .coves, .ctrls, .streams, .bays, .sessions, .ports, .portq, .jetty, .integ, .rot, .net, .pwr, .su, .ident, .mg] s (execMulh a0 a1 s) := by
  intro a0 a1 s
  unfold execMulh
  repeat' first
    | with_reducible apply ChangesOnly.refl
    | exact Eq.refl true
    | with_reducible apply Leaves.next
    | with_reducible apply Leaves.occurs
    | with_reducible apply Leaves.ite
    | with_reducible apply ChangesOnly.ite
    | with_reducible apply ChangesOnly.foldl
    | with_reducible apply Leaves.after ?_ (aluR_only _ _ _ _)
    | with_reducible intro _
    | split
    | dsimp only [id]

theorem execRem_only : ∀ a0 a1 s, Leaves [.clk, .mt, .coves, .ctrls, .streams, .bays, .sessions, .ports, .portq, .jetty, .integ, .rot, .net, .pwr, .su, .ident, .mg] s (execRem a0 a1 s) := by
  intro a0 a1 s
  unfold execRem
  repeat' first
    | with_reducible apply ChangesOnly.refl
    | exact Eq.refl true
    | with_reducible apply Leaves.next
    | with_reducible apply Leaves.occurs
    | with_reducible apply Leaves.ite
    | with_reducible apply ChangesOnly.ite
    | with_reducible apply ChangesOnly.foldl
    | with_reducible apply Leaves.after ?_ (aluR_only _ _ _ _)
    | with_reducible intro _
    | split
    | dsimp only [id]

end Sys2Proof.Machine
end

