-- ==== Sys2Proof/Laws/OnlyPebbleMem.lean ====
section
/-!
SUPPORT. For each operation and meaning of Machine/PebbleMem.lean: the parts of the state that it can change.
-/

set_option linter.unreachableTactic false
set_option linter.unusedTactic false

namespace Sys2Proof.Machine

theorem localStore_only : ∀ s a1 a2 a3 a4 a5 a6, Leaves [.clk, .mt, .coves, .ctrls, .streams, .bays, .sessions, .ports, .portq, .jetty, .integ, .rot, .net, .pwr, .su, .ident, .mg] s (localStore s a1 a2 a3 a4 a5 a6) := by
  intro s a1 a2 a3 a4 a5 a6
  unfold localStore
  repeat' first
    | with_reducible apply ChangesOnly.refl
    | with_reducible apply issue_only
    | exact Eq.refl true
    | with_reducible apply Leaves.next
    | with_reducible apply Leaves.occurs
    | with_reducible apply Leaves.ite
    | with_reducible apply ChangesOnly.ite
    | with_reducible apply ChangesOnly.foldl
    | with_reducible apply ChangesOnly.step ?_ (State.exception_only _ _ _)
    | with_reducible apply ChangesOnly.step ?_ (State.retireNext_only _ _ _)
    | with_reducible intro _
    | split
    | dsimp only [id]

theorem execVst_only : ∀ a0 a1 s, Leaves [.clk, .mt, .coves, .ctrls, .streams, .bays, .sessions, .ports, .portq, .jetty, .integ, .rot, .net, .pwr, .su, .ident, .mg] s (execVst a0 a1 s) := by
  intro a0 a1 s
  unfold execVst
  repeat' first
    | with_reducible apply ChangesOnly.refl
    | exact Eq.refl true
    | with_reducible apply Leaves.next
    | with_reducible apply Leaves.occurs
    | with_reducible apply Leaves.ite
    | with_reducible apply ChangesOnly.ite
    | with_reducible apply ChangesOnly.foldl
    | with_reducible apply Leaves.after ?_ (localStore_only _ _ _ _ _ _ _)
    | with_reducible intro _
    | split
    | dsimp only [id]

theorem spAccess_only : ∀ s a1 a2 a3 a4 a5, ChangesOnly [.clk, .coves, .ctrls, .streams, .bays, .sessions, .portq, .jetty, .integ, .rot, .net, .su, .mg] s (spAccess s a1 a2 a3 a4 a5) := by
  intro s a1 a2 a3 a4 a5
  unfold spAccess
  repeat' first
    | with_reducible apply ChangesOnly.refl
    | exact Eq.refl true
    | with_reducible apply ChangesOnly.ite
    | with_reducible apply ChangesOnly.foldl
    | with_reducible apply ChangesOnly.step ?_ (State.modCove_only _ _ _)
    | with_reducible apply ChangesOnly.step ?_ (State.stall_only _ _ _)
    | with_reducible apply ChangesOnly.step ?_ (State.exception_only _ _ _)
    | with_reducible apply ChangesOnly.step ?_ (State.retireNext_only _ _ _)
    | with_reducible intro _
    | split
    | dsimp only [id]

theorem execSpld_only : ∀ a0 a1 s, Leaves [.clk, .mt, .coves, .ctrls, .streams, .bays, .sessions, .ports, .portq, .jetty, .integ, .rot, .net, .pwr, .su, .ident, .mg] s (execSpld a0 a1 s) := by
  intro a0 a1 s
  unfold execSpld
  repeat' first
    | with_reducible apply ChangesOnly.refl
    | with_reducible apply issue_only
    | exact Eq.refl true
    | with_reducible apply Leaves.next
    | with_reducible apply Leaves.occurs
    | with_reducible apply Leaves.ite
    | with_reducible apply ChangesOnly.ite
    | with_reducible apply ChangesOnly.foldl
    | with_reducible apply ChangesOnly.step ?_ (spAccess_only _ _ _ _ _ _)
    | with_reducible intro _
    | split
    | dsimp only [id]

theorem storeG_only : ∀ s a1 a2 a3, Leaves [.clk, .mt, .coves, .ctrls, .streams, .bays, .sessions, .ports, .portq, .jetty, .integ, .rot, .net, .pwr, .su, .ident, .mg] s (storeG s a1 a2 a3) := by
  intro s a1 a2 a3
  unfold storeG
  repeat' first
    | with_reducible apply ChangesOnly.refl
    | exact Eq.refl true
    | with_reducible apply Leaves.next
    | with_reducible apply Leaves.occurs
    | with_reducible apply Leaves.ite
    | with_reducible apply ChangesOnly.ite
    | with_reducible apply ChangesOnly.foldl
    | with_reducible apply Leaves.after ?_ (localStore_only _ _ _ _ _ _ _)
    | with_reducible intro _
    | split
    | dsimp only [id]

theorem localLoad_only : ∀ s a1 a2 a3 a4 a5 a6, Leaves [.clk, .mt, .coves, .ctrls, .streams, .bays, .sessions, .ports, .portq, .jetty, .integ, .rot, .net, .pwr, .su, .ident, .mg] s (localLoad s a1 a2 a3 a4 a5 a6) := by
  intro s a1 a2 a3 a4 a5 a6
  unfold localLoad
  repeat' first
    | with_reducible apply ChangesOnly.refl
    | with_reducible apply issue_only
    | exact Eq.refl true
    | with_reducible apply Leaves.next
    | with_reducible apply Leaves.occurs
    | with_reducible apply Leaves.ite
    | with_reducible apply ChangesOnly.ite
    | with_reducible apply ChangesOnly.foldl
    | with_reducible apply ChangesOnly.step ?_ (State.exception_only _ _ _)
    | with_reducible apply ChangesOnly.step ?_ (State.retireNext_only _ _ _)
    | with_reducible intro _
    | split
    | dsimp only [id]

theorem execVld_only : ∀ a0 a1 s, Leaves [.clk, .mt, .coves, .ctrls, .streams, .bays, .sessions, .ports, .portq, .jetty, .integ, .rot, .net, .pwr, .su, .ident, .mg] s (execVld a0 a1 s) := by
  intro a0 a1 s
  unfold execVld
  repeat' first
    | with_reducible apply ChangesOnly.refl
    | exact Eq.refl true
    | with_reducible apply Leaves.next
    | with_reducible apply Leaves.occurs
    | with_reducible apply Leaves.ite
    | with_reducible apply ChangesOnly.ite
    | with_reducible apply ChangesOnly.foldl
    | with_reducible apply Leaves.after ?_ (localLoad_only _ _ _ _ _ _ _)
    | with_reducible intro _
    | split
    | dsimp only [id]

theorem loadG_only : ∀ s a1 a2 a3 a4, Leaves [.clk, .mt, .coves, .ctrls, .streams, .bays, .sessions, .ports, .portq, .jetty, .integ, .rot, .net, .pwr, .su, .ident, .mg] s (loadG s a1 a2 a3 a4) := by
  intro s a1 a2 a3 a4
  unfold loadG
  repeat' first
    | with_reducible apply ChangesOnly.refl
    | exact Eq.refl true
    | with_reducible apply Leaves.next
    | with_reducible apply Leaves.occurs
    | with_reducible apply Leaves.ite
    | with_reducible apply ChangesOnly.ite
    | with_reducible apply ChangesOnly.foldl
    | with_reducible apply Leaves.after ?_ (localLoad_only _ _ _ _ _ _ _)
    | with_reducible intro _
    | split
    | dsimp only [id]

theorem execLdb_only : ∀ a0 a1 s, Leaves [.clk, .mt, .coves, .ctrls, .streams, .bays, .sessions, .ports, .portq, .jetty, .integ, .rot, .net, .pwr, .su, .ident, .mg] s (execLdb a0 a1 s) := by
  intro a0 a1 s
  unfold execLdb
  repeat' first
    | with_reducible apply ChangesOnly.refl
    | exact Eq.refl true
    | with_reducible apply Leaves.next
    | with_reducible apply Leaves.occurs
    | with_reducible apply Leaves.ite
    | with_reducible apply ChangesOnly.ite
    | with_reducible apply ChangesOnly.foldl
    | with_reducible apply Leaves.after ?_ (loadG_only _ _ _ _ _)
    | with_reducible intro _
    | split
    | dsimp only [id]

theorem execFence_only : ∀ a0 a1 s, Leaves [.clk, .mt, .coves, .ctrls, .streams, .bays, .sessions, .ports, .portq, .jetty, .integ, .rot, .net, .pwr, .su, .ident, .mg] s (execFence a0 a1 s) := by
  intro a0 a1 s
  unfold execFence
  repeat' first
    | with_reducible apply ChangesOnly.refl
    | with_reducible apply issue_only
    | exact Eq.refl true
    | with_reducible apply Leaves.next
    | with_reducible apply Leaves.occurs
    | with_reducible apply Leaves.ite
    | with_reducible apply ChangesOnly.ite
    | with_reducible apply ChangesOnly.foldl
    | with_reducible apply ChangesOnly.step ?_ (State.stall_only _ _ _)
    | with_reducible apply ChangesOnly.step ?_ (State.retireNext_only _ _ _)
    | with_reducible intro _
    | split
    | dsimp only [id]

theorem execVspld_only : ∀ a0 a1 s, Leaves [.clk, .mt, .coves, .ctrls, .streams, .bays, .sessions, .ports, .portq, .jetty, .integ, .rot, .net, .pwr, .su, .ident, .mg] s (execVspld a0 a1 s) := by
  intro a0 a1 s
  unfold execVspld
  repeat' first
    | with_reducible apply ChangesOnly.refl
    | with_reducible apply issue_only
    | exact Eq.refl true
    | with_reducible apply Leaves.next
    | with_reducible apply Leaves.occurs
    | with_reducible apply Leaves.ite
    | with_reducible apply ChangesOnly.ite
    | with_reducible apply ChangesOnly.foldl
    | with_reducible apply ChangesOnly.step ?_ (spAccess_only _ _ _ _ _ _)
    | with_reducible intro _
    | split
    | dsimp only [id]

theorem execSth_only : ∀ a0 a1 s, Leaves [.clk, .mt, .coves, .ctrls, .streams, .bays, .sessions, .ports, .portq, .jetty, .integ, .rot, .net, .pwr, .su, .ident, .mg] s (execSth a0 a1 s) := by
  intro a0 a1 s
  unfold execSth
  repeat' first
    | with_reducible apply ChangesOnly.refl
    | exact Eq.refl true
    | with_reducible apply Leaves.next
    | with_reducible apply Leaves.occurs
    | with_reducible apply Leaves.ite
    | with_reducible apply ChangesOnly.ite
    | with_reducible apply ChangesOnly.foldl
    | with_reducible apply Leaves.after ?_ (storeG_only _ _ _ _)
    | with_reducible intro _
    | split
    | dsimp only [id]

theorem execStb_only : ∀ a0 a1 s, Leaves [.clk, .mt, .coves, .ctrls, .streams, .bays, .sessions, .ports, .portq, .jetty, .integ, .rot, .net, .pwr, .su, .ident, .mg] s (execStb a0 a1 s) := by
  intro a0 a1 s
  unfold execStb
  repeat' first
    | with_reducible apply ChangesOnly.refl
    | exact Eq.refl true
    | with_reducible apply Leaves.next
    | with_reducible apply Leaves.occurs
    | with_reducible apply Leaves.ite
    | with_reducible apply ChangesOnly.ite
    | with_reducible apply ChangesOnly.foldl
    | with_reducible apply Leaves.after ?_ (storeG_only _ _ _ _)
    | with_reducible intro _
    | split
    | dsimp only [id]

theorem execLdh_only : ∀ a0 a1 s, Leaves [.clk, .mt, .coves, .ctrls, .streams, .bays, .sessions, .ports, .portq, .jetty, .integ, .rot, .net, .pwr, .su, .ident, .mg] s (execLdh a0 a1 s) := by
  intro a0 a1 s
  unfold execLdh
  repeat' first
    | with_reducible apply ChangesOnly.refl
    | exact Eq.refl true
    | with_reducible apply Leaves.next
    | with_reducible apply Leaves.occurs
    | with_reducible apply Leaves.ite
    | with_reducible apply ChangesOnly.ite
    | with_reducible apply ChangesOnly.foldl
    | with_reducible apply Leaves.after ?_ (loadG_only _ _ _ _ _)
    | with_reducible intro _
    | split
    | dsimp only [id]

theorem execSpst_only : ∀ a0 a1 s, Leaves [.clk, .mt, .coves, .ctrls, .streams, .bays, .sessions, .ports, .portq, .jetty, .integ, .rot, .net, .pwr, .su, .ident, .mg] s (execSpst a0 a1 s) := by
  intro a0 a1 s
  unfold execSpst
  repeat' first
    | with_reducible apply ChangesOnly.refl
    | with_reducible apply issue_only
    | exact Eq.refl true
    | with_reducible apply Leaves.next
    | with_reducible apply Leaves.occurs
    | with_reducible apply Leaves.ite
    | with_reducible apply ChangesOnly.ite
    | with_reducible apply ChangesOnly.foldl
    | with_reducible apply ChangesOnly.step ?_ (spAccess_only _ _ _ _ _ _)
    | with_reducible intro _
    | split
    | dsimp only [id]

theorem execLdbu_only : ∀ a0 a1 s, Leaves [.clk, .mt, .coves, .ctrls, .streams, .bays, .sessions, .ports, .portq, .jetty, .integ, .rot, .net, .pwr, .su, .ident, .mg] s (execLdbu a0 a1 s) := by
  intro a0 a1 s
  unfold execLdbu
  repeat' first
    | with_reducible apply ChangesOnly.refl
    | exact Eq.refl true
    | with_reducible apply Leaves.next
    | with_reducible apply Leaves.occurs
    | with_reducible apply Leaves.ite
    | with_reducible apply ChangesOnly.ite
    | with_reducible apply ChangesOnly.foldl
    | with_reducible apply Leaves.after ?_ (loadG_only _ _ _ _ _)
    | with_reducible intro _
    | split
    | dsimp only [id]

theorem execLdhu_only : ∀ a0 a1 s, Leaves [.clk, .mt, .coves, .ctrls, .streams, .bays, .sessions, .ports, .portq, .jetty, .integ, .rot, .net, .pwr, .su, .ident, .mg] s (execLdhu a0 a1 s) := by
  intro a0 a1 s
  unfold execLdhu
  repeat' first
    | with_reducible apply ChangesOnly.refl
    | exact Eq.refl true
    | with_reducible apply Leaves.next
    | with_reducible apply Leaves.occurs
    | with_reducible apply Leaves.ite
    | with_reducible apply ChangesOnly.ite
    | with_reducible apply ChangesOnly.foldl
    | with_reducible apply Leaves.after ?_ (loadG_only _ _ _ _ _)
    | with_reducible intro _
    | split
    | dsimp only [id]

theorem execStw_only : ∀ a0 a1 s, Leaves [.clk, .mt, .coves, .ctrls, .streams, .bays, .sessions, .ports, .portq, .jetty, .integ, .rot, .net, .pwr, .su, .ident, .mg] s (execStw a0 a1 s) := by
  intro a0 a1 s
  unfold execStw
  repeat' first
    | with_reducible apply ChangesOnly.refl
    | exact Eq.refl true
    | with_reducible apply Leaves.next
    | with_reducible apply Leaves.occurs
    | with_reducible apply Leaves.ite
    | with_reducible apply ChangesOnly.ite
    | with_reducible apply ChangesOnly.foldl
    | with_reducible apply Leaves.after ?_ (storeG_only _ _ _ _)
    | with_reducible intro _
    | split
    | dsimp only [id]

theorem execLdw_only : ∀ a0 a1 s, Leaves [.clk, .mt, .coves, .ctrls, .streams, .bays, .sessions, .ports, .portq, .jetty, .integ, .rot, .net, .pwr, .su, .ident, .mg] s (execLdw a0 a1 s) := by
  intro a0 a1 s
  unfold execLdw
  repeat' first
    | with_reducible apply ChangesOnly.refl
    | exact Eq.refl true
    | with_reducible apply Leaves.next
    | with_reducible apply Leaves.occurs
    | with_reducible apply Leaves.ite
    | with_reducible apply ChangesOnly.ite
    | with_reducible apply ChangesOnly.foldl
    | with_reducible apply Leaves.after ?_ (loadG_only _ _ _ _ _)
    | with_reducible intro _
    | split
    | dsimp only [id]

theorem execVspst_only : ∀ a0 a1 s, Leaves [.clk, .mt, .coves, .ctrls, .streams, .bays, .sessions, .ports, .portq, .jetty, .integ, .rot, .net, .pwr, .su, .ident, .mg] s (execVspst a0 a1 s) := by
  intro a0 a1 s
  unfold execVspst
  repeat' first
    | with_reducible apply ChangesOnly.refl
    | with_reducible apply issue_only
    | exact Eq.refl true
    | with_reducible apply Leaves.next
    | with_reducible apply Leaves.occurs
    | with_reducible apply Leaves.ite
    | with_reducible apply ChangesOnly.ite
    | with_reducible apply ChangesOnly.foldl
    | with_reducible apply ChangesOnly.step ?_ (spAccess_only _ _ _ _ _ _)
    | with_reducible intro _
    | split
    | dsimp only [id]

end Sys2Proof.Machine
end

