-- ==== Sys2Proof/Laws/OnlyRegCove.lean ====
section
/-!
SUPPORT. For each operation and meaning of Machine/RegCove.lean: the parts of the state that it can change.
-/

set_option linter.unreachableTactic false
set_option linter.unusedTactic false

namespace Sys2Proof.Machine

theorem State.stepClear_only : ∀ s a1 a2 a3, ChangesOnly [.bays] s (State.stepClear s a1 a2 a3) := by
  intro s a1 a2 a3
  unfold State.stepClear
  repeat' first
    | with_reducible apply ChangesOnly.refl
    | exact Eq.refl true
    | with_reducible apply ChangesOnly.ite
    | with_reducible apply ChangesOnly.foldl
    | with_reducible apply ChangesOnly.step ?_ (State.modBay_only _ _ _)
    | with_reducible intro _
    | split
    | dsimp only [id]

theorem State.hbClear_only : ∀ s a1 a2 a3, ChangesOnly [.ctrls] s (State.hbClear s a1 a2 a3) := by
  intro s a1 a2 a3
  unfold State.hbClear
  repeat' first
    | with_reducible apply ChangesOnly.refl
    | exact Eq.refl true
    | with_reducible apply ChangesOnly.ite
    | with_reducible apply ChangesOnly.foldl
    | with_reducible apply ChangesOnly.step ?_ (State.modStack_only _ _ _)
    | with_reducible intro _
    | split
    | dsimp only [id]

theorem State.strmClear_only : ∀ s a1 a2 a3, ChangesOnly [.streams] s (State.strmClear s a1 a2 a3) := by
  intro s a1 a2 a3
  unfold State.strmClear
  repeat' first
    | with_reducible apply ChangesOnly.refl
    | exact Eq.refl true
    | with_reducible apply ChangesOnly.ite
    | with_reducible apply ChangesOnly.foldl
    | with_reducible apply ChangesOnly.step ?_ (State.modStream_only _ _ _)
    | with_reducible intro _
    | split
    | dsimp only [id]

theorem State.hrClear_only : ∀ s a1 a2 a3, ChangesOnly [.bays] s (State.hrClear s a1 a2 a3) := by
  intro s a1 a2 a3
  unfold State.hrClear
  repeat' first
    | with_reducible apply ChangesOnly.refl
    | exact Eq.refl true
    | with_reducible apply ChangesOnly.ite
    | with_reducible apply ChangesOnly.foldl
    | with_reducible apply ChangesOnly.step ?_ (State.modBay_only _ _ _)
    | with_reducible intro _
    | split
    | dsimp only [id]

end Sys2Proof.Machine
end

