-- ==== Sys2Proof/Laws/OnlyRegModule.lean ====
section
/-!
SUPPORT. For each operation and meaning of Machine/RegModule.lean: the parts of the state that it can change.
-/

set_option linter.unreachableTactic false
set_option linter.unusedTactic false

namespace Sys2Proof.Machine

theorem State.clkClear_only : ∀ s a1 a2, ChangesOnly [.clk] s (State.clkClear s a1 a2) := by
  intro s a1 a2
  unfold State.clkClear
  repeat' first
    | with_reducible exact Or.inl rfl
    | with_reducible exact Or.inr rfl
    | exact Or.inl rfl
    | with_reducible apply ChangesOnly.refl
    | exact Eq.refl true
    | with_reducible apply ChangesOnly.ite
    | with_reducible apply ChangesOnly.foldl
    | with_reducible intro _
    | split
    | dsimp only [id]
    | with_reducible apply ChangesOnly.record

theorem State.ethClear_only : ∀ s a1 a2 a3, ChangesOnly [.ports] s (State.ethClear s a1 a2 a3) := by
  intro s a1 a2 a3
  unfold State.ethClear
  repeat' first
    | with_reducible apply ChangesOnly.refl
    | exact Eq.refl true
    | with_reducible apply ChangesOnly.ite
    | with_reducible apply ChangesOnly.foldl
    | with_reducible apply ChangesOnly.step ?_ (State.modPort_only _ _ _)
    | with_reducible intro _
    | split
    | dsimp only [id]

theorem State.jtClear_only : ∀ s a1 a2, ChangesOnly [.jetty] s (State.jtClear s a1 a2) := by
  intro s a1 a2
  unfold State.jtClear
  repeat' first
    | with_reducible exact Or.inl rfl
    | with_reducible exact Or.inr rfl
    | exact Or.inl rfl
    | with_reducible apply ChangesOnly.refl
    | exact Eq.refl true
    | with_reducible apply ChangesOnly.ite
    | with_reducible apply ChangesOnly.foldl
    | with_reducible intro _
    | split
    | dsimp only [id]
    | with_reducible apply ChangesOnly.record

theorem State.pwrClear_only : ∀ s a1 a2, ChangesOnly [.pwr] s (State.pwrClear s a1 a2) := by
  intro s a1 a2
  unfold State.pwrClear
  repeat' first
    | with_reducible exact Or.inl rfl
    | with_reducible exact Or.inr rfl
    | exact Or.inl rfl
    | with_reducible apply ChangesOnly.refl
    | exact Eq.refl true
    | with_reducible apply ChangesOnly.ite
    | with_reducible apply ChangesOnly.foldl
    | with_reducible intro _
    | split
    | dsimp only [id]
    | with_reducible apply ChangesOnly.record

theorem State.idClear_only : ∀ s a1 a2, ChangesOnly [.ident] s (State.idClear s a1 a2) := by
  intro s a1 a2
  unfold State.idClear
  repeat' first
    | with_reducible exact Or.inl rfl
    | with_reducible exact Or.inr rfl
    | exact Or.inl rfl
    | with_reducible apply ChangesOnly.refl
    | exact Eq.refl true
    | with_reducible apply ChangesOnly.ite
    | with_reducible apply ChangesOnly.foldl
    | with_reducible intro _
    | split
    | dsimp only [id]
    | with_reducible apply ChangesOnly.record

end Sys2Proof.Machine
end

