-- ==== Sys2Proof/Laws/OnlyRegMap.lean ====
section
/-!
SUPPORT. For each operation and meaning of Machine/RegMap.lean: the parts of the state that it can change.
-/

set_option linter.unreachableTactic false
set_option linter.unusedTactic false

namespace Sys2Proof.Machine

theorem State.useAt_only : ∀ s a1 a2, ChangesOnly [.free] s (State.useAt s a1 a2) := by
  intro s a1 a2
  unfold State.useAt
  repeat' first
    | with_reducible apply ChangesOnly.refl
    | exact Eq.refl true
    | with_reducible apply ChangesOnly.ite
    | with_reducible apply ChangesOnly.foldl
    | with_reducible apply ChangesOnly.step ?_ (State.spend_only _ _)
    | with_reducible intro _
    | split
    | dsimp only [id]

theorem State.clearAt_only : ∀ s a1 a2 a3, ChangesOnly [.clk, .coves, .ctrls, .streams, .bays, .ports, .jetty, .pwr, .ident] s (State.clearAt s a1 a2 a3) := by
  intro s a1 a2 a3
  unfold State.clearAt
  repeat' first
    | with_reducible apply ChangesOnly.refl
    | exact Eq.refl true
    | with_reducible apply ChangesOnly.ite
    | with_reducible apply ChangesOnly.foldl
    | with_reducible apply ChangesOnly.step ?_ (State.modCove_only _ _ _)
    | with_reducible apply ChangesOnly.step ?_ (State.ethClear_only _ _ _ _)
    | with_reducible apply ChangesOnly.step ?_ (State.pwrClear_only _ _ _)
    | with_reducible apply ChangesOnly.step ?_ (State.hbClear_only _ _ _ _)
    | with_reducible apply ChangesOnly.step ?_ (State.clkClear_only _ _ _)
    | with_reducible apply ChangesOnly.step ?_ (State.strmClear_only _ _ _ _)
    | with_reducible apply ChangesOnly.step ?_ (State.jtClear_only _ _ _)
    | with_reducible apply ChangesOnly.step ?_ (State.idClear_only _ _ _)
    | with_reducible apply ChangesOnly.step ?_ (State.stepClear_only _ _ _ _)
    | with_reducible apply ChangesOnly.step ?_ (State.hrClear_only _ _ _ _)
    | with_reducible intro _
    | split
    | dsimp only [id]

theorem State.readRc_only : ∀ s a1 a2, ChangesOnly [.free, .clk, .coves, .ctrls, .streams, .bays, .ports, .jetty, .pwr, .ident, .cut] s (State.readRc s a1 a2).2 := by
  intro s a1 a2
  unfold State.readRc
  repeat' first
    | with_reducible exact Or.inl rfl
    | with_reducible exact Or.inr rfl
    | exact Or.inl rfl
    | with_reducible apply ChangesOnly.refl
    | exact Eq.refl true
    | with_reducible apply ChangesOnly.ite
    | with_reducible apply ChangesOnly.foldl
    | with_reducible apply ChangesOnly.step ?_ (State.useAt_only _ _ _)
    | with_reducible apply ChangesOnly.step ?_ (State.clearAt_only _ _ _ _)
    | with_reducible intro _
    | split
    | dsimp only [id]
    | with_reducible apply ChangesOnly.record

theorem State.readAt_only : ∀ s a1 a2, ChangesOnly [.free, .clk, .coves, .ctrls, .streams, .bays, .ports, .jetty, .pwr, .ident, .latches, .cut] s (State.readAt s a1 a2).2 := by
  intro s a1 a2
  unfold State.readAt
  repeat' first
    | with_reducible apply ChangesOnly.refl
    | exact Eq.refl true
    | with_reducible apply ChangesOnly.ite
    | with_reducible apply ChangesOnly.foldl
    | with_reducible apply ChangesOnly.step ?_ (State.readRc_only _ _ _)
    | with_reducible apply ChangesOnly.step ?_ (State.useAt_only _ _ _)
    | with_reducible apply ChangesOnly.step ?_ (State.latch_only _ _ _ _)
    | with_reducible intro _
    | split
    | dsimp only [id]

theorem State.read_only (s : State) (who : Requester) (a : Nat) : ChangesOnly [.free, .clk, .coves, .ctrls, .streams, .bays, .ports, .jetty, .pwr, .ident, .latches, .cut] s (s.read who a).2.2 := by
  unfold State.read
  dsimp only
  repeat' split
  all_goals first
    | exact ChangesOnly.refl _ _
    | exact (State.readAt_only _ _ _).mono rfl

end Sys2Proof.Machine
end

