-- ==== Sys2Proof/Laws/OnlyPebbleRun.lean ====
section
/-!
SUPPORT. For each operation and meaning of Machine/PebbleRun.lean: the parts of the state that it can change.
-/

set_option linter.unreachableTactic false
set_option linter.unusedTactic false

namespace Sys2Proof.Machine

theorem execReserved_only : ∀ a0 s, Leaves [.clk, .mt, .coves, .ctrls, .streams, .bays, .sessions, .ports, .portq, .jetty, .integ, .rot, .net, .pwr, .su, .ident, .mg] s (execReserved a0 s) := by
  intro a0 s
  unfold execReserved
  repeat' first
    | with_reducible apply ChangesOnly.refl
    | with_reducible apply issue_only
    | exact Eq.refl true
    | with_reducible apply Leaves.next
    | with_reducible apply Leaves.occurs
    | with_reducible apply Leaves.ite
    | with_reducible apply ChangesOnly.ite
    | with_reducible apply ChangesOnly.foldl
    | with_reducible intro _
    | split
    | dsimp only [id]

theorem runVmov_only : ∀ a0 a1 s, Leaves [.clk, .mt, .coves, .ctrls, .streams, .bays, .sessions, .ports, .portq, .jetty, .integ, .rot, .net, .pwr, .su, .ident, .mg] s (runVmov a0 a1 s) := by
  intro a0 a1 s
  unfold runVmov
  repeat' first
    | with_reducible apply ChangesOnly.refl
    | exact Eq.refl true
    | with_reducible apply Leaves.next
    | with_reducible apply Leaves.occurs
    | with_reducible apply Leaves.ite
    | with_reducible apply ChangesOnly.ite
    | with_reducible apply ChangesOnly.foldl
    | with_reducible apply Leaves.after ?_ (execVcopy_only _ _ _)
    | with_reducible apply Leaves.after ?_ (execVbcast_only _ _ _)
    | with_reducible apply Leaves.after ?_ (execVext_only _ _ _)
    | with_reducible apply Leaves.after ?_ (execReserved_only _ _)
    | with_reducible apply Leaves.after ?_ (execVins_only _ _ _)
    | with_reducible intro _
    | split
    | dsimp only [id]

theorem runAlu_only : ∀ a0 a1 s, Leaves [.clk, .mt, .coves, .ctrls, .streams, .bays, .sessions, .ports, .portq, .jetty, .integ, .rot, .net, .pwr, .su, .ident, .mg] s (runAlu a0 a1 s) := by
  intro a0 a1 s
  unfold runAlu
  repeat' first
    | with_reducible apply ChangesOnly.refl
    | exact Eq.refl true
    | with_reducible apply Leaves.next
    | with_reducible apply Leaves.occurs
    | with_reducible apply Leaves.ite
    | with_reducible apply ChangesOnly.ite
    | with_reducible apply ChangesOnly.foldl
    | with_reducible apply Leaves.after ?_ (execDiv_only _ _ _)
    | with_reducible apply Leaves.after ?_ (execSra_only _ _ _)
    | with_reducible apply Leaves.after ?_ (execMinu_only _ _ _)
    | with_reducible apply Leaves.after ?_ (execAnd_only _ _ _)
    | with_reducible apply Leaves.after ?_ (execAdd_only _ _ _)
    | with_reducible apply Leaves.after ?_ (execSrl_only _ _ _)
    | with_reducible apply Leaves.after ?_ (execDivu_only _ _ _)
    | with_reducible apply Leaves.after ?_ (execOr_only _ _ _)
    | with_reducible apply Leaves.after ?_ (execSlt_only _ _ _)
    | with_reducible apply Leaves.after ?_ (execSltu_only _ _ _)
    | with_reducible apply Leaves.after ?_ (execRem_only _ _ _)
    | with_reducible apply Leaves.after ?_ (execXor_only _ _ _)
    | with_reducible apply Leaves.after ?_ (execMin_only _ _ _)
    | with_reducible apply Leaves.after ?_ (execMax_only _ _ _)
    | with_reducible apply Leaves.after ?_ (execRemu_only _ _ _)
    | with_reducible apply Leaves.after ?_ (execSll_only _ _ _)
    | with_reducible apply Leaves.after ?_ (execMulhu_only _ _ _)
    | with_reducible apply Leaves.after ?_ (execMul_only _ _ _)
    | with_reducible apply Leaves.after ?_ (execReserved_only _ _)
    | with_reducible apply Leaves.after ?_ (execMaxu_only _ _ _)
    | with_reducible apply Leaves.after ?_ (execMulh_only _ _ _)
    | with_reducible apply Leaves.after ?_ (execSub_only _ _ _)
    | with_reducible intro _
    | split
    | dsimp only [id]

theorem State.coreWrite_only : ∀ s a1 a2 a3, ChangesOnly [.clk, .coves, .ctrls, .streams, .bays, .sessions, .portq, .jetty, .integ, .rot, .net, .su, .mg] s (State.coreWrite s a1 a2 a3) := by
  intro s a1 a2 a3
  unfold State.coreWrite
  repeat' first
    | with_reducible apply ChangesOnly.refl
    | with_reducible apply ChangesOnly.step ?_ (State.streamPush_only _ _ _ _ ‹_›)
    | with_reducible apply ChangesOnly.step ?_ (State.streamPush_only_refused _ _ _ _ _ ‹_›)
    | exact Eq.refl true
    | with_reducible apply ChangesOnly.ite
    | with_reducible apply ChangesOnly.foldl
    | with_reducible apply ChangesOnly.step ?_ (State.stall_only _ _ _)
    | with_reducible apply ChangesOnly.step ?_ (State.exception_only _ _ _)
    | with_reducible apply ChangesOnly.step ?_ (State.writeTol_only _ _ _ _ _ _)
    | with_reducible apply ChangesOnly.step ?_ (State.retireNext_only _ _ _)
    | with_reducible apply ChangesOnly.step ?_ (State.modStream_only _ _ _)
    | with_reducible intro _
    | split
    | dsimp only [id]

theorem execMwr_only : ∀ a0 a1 s, Leaves [.clk, .mt, .coves, .ctrls, .streams, .bays, .sessions, .ports, .portq, .jetty, .integ, .rot, .net, .pwr, .su, .ident, .mg] s (execMwr a0 a1 s) := by
  intro a0 a1 s
  unfold execMwr
  repeat' first
    | with_reducible apply ChangesOnly.refl
    | with_reducible apply issue_only
    | exact Eq.refl true
    | with_reducible apply Leaves.next
    | with_reducible apply Leaves.occurs
    | with_reducible apply Leaves.ite
    | with_reducible apply ChangesOnly.ite
    | with_reducible apply ChangesOnly.foldl
    | with_reducible apply ChangesOnly.step ?_ (State.exception_only _ _ _)
    | with_reducible apply ChangesOnly.step ?_ (State.retireNext_only _ _ _)
    | with_reducible apply ChangesOnly.step ?_ (State.coreWrite_only _ _ _ _)
    | with_reducible intro _
    | split
    | dsimp only [id]

theorem runVint_only : ∀ a0 a1 s, Leaves [.clk, .mt, .coves, .ctrls, .streams, .bays, .sessions, .ports, .portq, .jetty, .integ, .rot, .net, .pwr, .su, .ident, .mg] s (runVint a0 a1 s) := by
  intro a0 a1 s
  unfold runVint
  repeat' first
    | with_reducible apply ChangesOnly.refl
    | exact Eq.refl true
    | with_reducible apply Leaves.next
    | with_reducible apply Leaves.occurs
    | with_reducible apply Leaves.ite
    | with_reducible apply ChangesOnly.ite
    | with_reducible apply ChangesOnly.foldl
    | with_reducible apply Leaves.after ?_ (execVaddI32_only _ _ _)
    | with_reducible apply Leaves.after ?_ (execVmulI32_only _ _ _)
    | with_reducible apply Leaves.after ?_ (execVand_only _ _ _)
    | with_reducible apply Leaves.after ?_ (execVsubI32_only _ _ _)
    | with_reducible apply Leaves.after ?_ (execVmaxI32_only _ _ _)
    | with_reducible apply Leaves.after ?_ (execVxor_only _ _ _)
    | with_reducible apply Leaves.after ?_ (execReserved_only _ _)
    | with_reducible apply Leaves.after ?_ (execVminI32_only _ _ _)
    | with_reducible apply Leaves.after ?_ (execVor_only _ _ _)
    | with_reducible intro _
    | split
    | dsimp only [id]

theorem runVflt_only : ∀ a0 a1 s, Leaves [.clk, .mt, .coves, .ctrls, .streams, .bays, .sessions, .ports, .portq, .jetty, .integ, .rot, .net, .pwr, .su, .ident, .mg] s (runVflt a0 a1 s) := by
  intro a0 a1 s
  unfold runVflt
  repeat' first
    | with_reducible apply ChangesOnly.refl
    | exact Eq.refl true
    | with_reducible apply Leaves.next
    | with_reducible apply Leaves.occurs
    | with_reducible apply Leaves.ite
    | with_reducible apply ChangesOnly.ite
    | with_reducible apply ChangesOnly.foldl
    | with_reducible apply Leaves.after ?_ (execVmulF32_only _ _ _)
    | with_reducible apply Leaves.after ?_ (execVexp2F32_only _ _ _)
    | with_reducible apply Leaves.after ?_ (execVrcpF32_only _ _ _)
    | with_reducible apply Leaves.after ?_ (execVaddBf16_only _ _ _)
    | with_reducible apply Leaves.after ?_ (execVsubF32_only _ _ _)
    | with_reducible apply Leaves.after ?_ (execVminF32_only _ _ _)
    | with_reducible apply Leaves.after ?_ (execVaddF32_only _ _ _)
    | with_reducible apply Leaves.after ?_ (execVfmaF32_only _ _ _)
    | with_reducible apply Leaves.after ?_ (execVrsqF32_only _ _ _)
    | with_reducible apply Leaves.after ?_ (execVmaxF32_only _ _ _)
    | with_reducible apply Leaves.after ?_ (execReserved_only _ _)
    | with_reducible apply Leaves.after ?_ (execVmulBf16_only _ _ _)
    | with_reducible intro _
    | split
    | dsimp only [id]

theorem runShi_only : ∀ a0 a1 s, Leaves [.clk, .mt, .coves, .ctrls, .streams, .bays, .sessions, .ports, .portq, .jetty, .integ, .rot, .net, .pwr, .su, .ident, .mg] s (runShi a0 a1 s) := by
  intro a0 a1 s
  unfold runShi
  repeat' first
    | with_reducible apply ChangesOnly.refl
    | exact Eq.refl true
    | with_reducible apply Leaves.next
    | with_reducible apply Leaves.occurs
    | with_reducible apply Leaves.ite
    | with_reducible apply ChangesOnly.ite
    | with_reducible apply ChangesOnly.foldl
    | with_reducible apply Leaves.after ?_ (execSlli_only _ _ _)
    | with_reducible apply Leaves.after ?_ (execSrli_only _ _ _)
    | with_reducible apply Leaves.after ?_ (execReserved_only _ _)
    | with_reducible apply Leaves.after ?_ (execSrai_only _ _ _)
    | with_reducible intro _
    | split
    | dsimp only [id]

theorem execMrd_only : ∀ a0 a1 s, Leaves [.free, .clk, .mt, .coves, .ctrls, .streams, .bays, .sessions, .ports, .portq, .jetty, .integ, .rot, .net, .pwr, .su, .ident, .mg, .latches, .cut] s (execMrd a0 a1 s) := by
  intro a0 a1 s
  unfold execMrd
  repeat' first
    | with_reducible apply ChangesOnly.refl
    | with_reducible apply issue_only
    | exact Eq.refl true
    | with_reducible apply Leaves.next
    | with_reducible apply Leaves.occurs
    | with_reducible apply Leaves.ite
    | with_reducible apply ChangesOnly.ite
    | with_reducible apply ChangesOnly.foldl
    | with_reducible apply ChangesOnly.step ?_ (State.readAt_only _ _ _)
    | with_reducible apply ChangesOnly.step ?_ (State.exception_only _ _ _)
    | with_reducible apply ChangesOnly.step ?_ (State.retireNext_only _ _ _)
    | with_reducible intro _
    | split
    | dsimp only [id]

theorem runVcvt_only : ∀ a0 a1 s, Leaves [.clk, .mt, .coves, .ctrls, .streams, .bays, .sessions, .ports, .portq, .jetty, .integ, .rot, .net, .pwr, .su, .ident, .mg] s (runVcvt a0 a1 s) := by
  intro a0 a1 s
  unfold runVcvt
  repeat' first
    | with_reducible apply ChangesOnly.refl
    | exact Eq.refl true
    | with_reducible apply Leaves.next
    | with_reducible apply Leaves.occurs
    | with_reducible apply Leaves.ite
    | with_reducible apply ChangesOnly.ite
    | with_reducible apply ChangesOnly.foldl
    | with_reducible apply Leaves.after ?_ (execVf2i_only _ _ _)
    | with_reducible apply Leaves.after ?_ (execVunpack_only _ _ _)
    | with_reducible apply Leaves.after ?_ (execVbf2fLo_only _ _ _)
    | with_reducible apply Leaves.after ?_ (execVf2bf_only _ _ _)
    | with_reducible apply Leaves.after ?_ (execVi2f_only _ _ _)
    | with_reducible apply Leaves.after ?_ (execReserved_only _ _)
    | with_reducible apply Leaves.after ?_ (execVpack_only _ _ _)
    | with_reducible apply Leaves.after ?_ (execVbf2fHi_only _ _ _)
    | with_reducible intro _
    | split
    | dsimp only [id]

theorem runVred_only : ∀ a0 a1 s, Leaves [.clk, .mt, .coves, .ctrls, .streams, .bays, .sessions, .ports, .portq, .jetty, .integ, .rot, .net, .pwr, .su, .ident, .mg] s (runVred a0 a1 s) := by
  intro a0 a1 s
  unfold runVred
  repeat' first
    | with_reducible apply ChangesOnly.refl
    | exact Eq.refl true
    | with_reducible apply Leaves.next
    | with_reducible apply Leaves.occurs
    | with_reducible apply Leaves.ite
    | with_reducible apply ChangesOnly.ite
    | with_reducible apply ChangesOnly.foldl
    | with_reducible apply Leaves.after ?_ (execVredsumF32_only _ _ _)
    | with_reducible apply Leaves.after ?_ (execVredmaxI32_only _ _ _)
    | with_reducible apply Leaves.after ?_ (execVredmaxF32_only _ _ _)
    | with_reducible apply Leaves.after ?_ (execVredsumI32_only _ _ _)
    | with_reducible apply Leaves.after ?_ (execReserved_only _ _)
    | with_reducible intro _
    | split
    | dsimp only [id]

theorem runSys_only : ∀ a0 a1 s, Leaves [.clk, .mt, .coves, .ctrls, .streams, .bays, .sessions, .ports, .portq, .jetty, .integ, .rot, .net, .pwr, .su, .ident, .mg] s (runSys a0 a1 s) := by
  intro a0 a1 s
  unfold runSys
  repeat' first
    | with_reducible apply ChangesOnly.refl
    | exact Eq.refl true
    | with_reducible apply Leaves.next
    | with_reducible apply Leaves.occurs
    | with_reducible apply Leaves.ite
    | with_reducible apply ChangesOnly.ite
    | with_reducible apply ChangesOnly.foldl
    | with_reducible apply Leaves.after ?_ (execStepend_only _ _ _)
    | with_reducible apply Leaves.after ?_ (execFence_only _ _ _)
    | with_reducible apply Leaves.after ?_ (execNopInstruction_only _ _ _)
    | with_reducible apply Leaves.after ?_ (execSinfo_only _ _ _)
    | with_reducible apply Leaves.after ?_ (execReserved_only _ _)
    | with_reducible apply Leaves.after ?_ (execTrap_only _ _ _)
    | with_reducible intro _
    | split
    | dsimp only [id]

theorem execWord_only : ∀ a0 a1 s, Leaves [.free, .clk, .mt, .coves, .ctrls, .streams, .bays, .sessions, .ports, .portq, .jetty, .integ, .rot, .net, .pwr, .su, .ident, .mg, .latches, .cut] s (execWord a0 a1 s) := by
  intro a0 a1 s
  unfold execWord
  repeat' first
    | with_reducible apply ChangesOnly.refl
    | exact Eq.refl true
    | with_reducible apply Leaves.next
    | with_reducible apply Leaves.occurs
    | with_reducible apply Leaves.ite
    | with_reducible apply ChangesOnly.ite
    | with_reducible apply ChangesOnly.foldl
    | with_reducible apply Leaves.after ?_ (execCclose_only _ _ _)
    | with_reducible apply Leaves.after ?_ (execLdw_only _ _ _)
    | with_reducible apply Leaves.after ?_ (execTtok_only _ _ _)
    | with_reducible apply Leaves.after ?_ (execTrs_only _ _ _)
    | with_reducible apply Leaves.after ?_ (execBgeu_only _ _ _)
    | with_reducible apply Leaves.after ?_ (execBlt_only _ _ _)
    | with_reducible apply Leaves.after ?_ (execBge_only _ _ _)
    | with_reducible apply Leaves.after ?_ (runVmov_only _ _ _)
    | with_reducible apply Leaves.after ?_ (execBwait_only _ _ _)
    | with_reducible apply Leaves.after ?_ (execStw_only _ _ _)
    | with_reducible apply Leaves.after ?_ (runAlu_only _ _ _)
    | with_reducible apply Leaves.after ?_ (execMwr_only _ _ _)
    | with_reducible apply Leaves.after ?_ (execTrtok_only _ _ _)
    | with_reducible apply Leaves.after ?_ (runVint_only _ _ _)
    | with_reducible apply Leaves.after ?_ (runVflt_only _ _ _)
    | with_reducible apply Leaves.after ?_ (execSpst_only _ _ _)
    | with_reducible apply Leaves.after ?_ (execXori_only _ _ _)
    | with_reducible apply Leaves.after ?_ (runShi_only _ _ _)
    | with_reducible apply Leaves.after ?_ (execMrd_only _ _ _)
    | with_reducible apply Leaves.after ?_ (execCsel_only _ _ _)
    | with_reducible apply Leaves.after ?_ (execTss_only _ _ _)
    | with_reducible apply Leaves.after ?_ (execVspst_only _ _ _)
    | with_reducible apply Leaves.after ?_ (runVcvt_only _ _ _)
    | with_reducible apply Leaves.after ?_ (execTsv_only _ _ _)
    | with_reducible apply Leaves.after ?_ (execSth_only _ _ _)
    | with_reducible apply Leaves.after ?_ (execBltu_only _ _ _)
    | with_reducible apply Leaves.after ?_ (execLdh_only _ _ _)
    | with_reducible apply Leaves.after ?_ (runVred_only _ _ _)
    | with_reducible apply Leaves.after ?_ (execStb_only _ _ _)
    | with_reducible apply Leaves.after ?_ (execBcnt_only _ _ _)
    | with_reducible apply Leaves.after ?_ (execDq_only _ _ _)
    | with_reducible apply Leaves.after ?_ (execSpld_only _ _ _)
    | with_reducible apply Leaves.after ?_ (execTrv_only _ _ _)
    | with_reducible apply Leaves.after ?_ (execSlti_only _ _ _)
    | with_reducible apply Leaves.after ?_ (execCrecv_only _ _ _)
    | with_reducible apply Leaves.after ?_ (execReserved_only _ _)
    | with_reducible apply Leaves.after ?_ (execBne_only _ _ _)
    | with_reducible apply Leaves.after ?_ (execBeq_only _ _ _)
    | with_reducible apply Leaves.after ?_ (execDwait_only _ _ _)
    | with_reducible apply Leaves.after ?_ (execCsetto_only _ _ _)
    | with_reducible apply Leaves.after ?_ (execBissue_only _ _ _)
    | with_reducible apply Leaves.after ?_ (execLdb_only _ _ _)
    | with_reducible apply Leaves.after ?_ (execCsend_only _ _ _)
    | with_reducible apply Leaves.after ?_ (execCacc_only _ _ _)
    | with_reducible apply Leaves.after ?_ (execVspld_only _ _ _)
    | with_reducible apply Leaves.after ?_ (execCconn_only _ _ _)
    | with_reducible apply Leaves.after ?_ (execJal_only _ _ _)
    | with_reducible apply Leaves.after ?_ (execAndi_only _ _ _)
    | with_reducible apply Leaves.after ?_ (runSys_only _ _ _)
    | with_reducible apply Leaves.after ?_ (execLui_only _ _ _)
    | with_reducible apply Leaves.after ?_ (execVst_only _ _ _)
    | with_reducible apply Leaves.after ?_ (execAddi_only _ _ _)
    | with_reducible apply Leaves.after ?_ (execJ_only _ _ _)
    | with_reducible apply Leaves.after ?_ (execSltiu_only _ _ _)
    | with_reducible apply Leaves.after ?_ (execVld_only _ _ _)
    | with_reducible apply Leaves.after ?_ (execOri_only _ _ _)
    | with_reducible apply Leaves.after ?_ (execLdbu_only _ _ _)
    | with_reducible apply Leaves.after ?_ (execJalr_only _ _ _)
    | with_reducible apply Leaves.after ?_ (execTbar_only _ _ _)
    | with_reducible apply Leaves.after ?_ (execLdhu_only _ _ _)
    | with_reducible apply Leaves.after ?_ (execCpoll_only _ _ _)
    | with_reducible intro _
    | split
    | dsimp only [id]

theorem State.pbStep1_only : ∀ s a1, Leaves [.free, .clk, .mt, .coves, .ctrls, .streams, .bays, .sessions, .ports, .portq, .jetty, .integ, .rot, .net, .pwr, .su, .ident, .mg, .latches, .cut] s (State.pbStep1 s a1) := by
  intro s a1
  unfold State.pbStep1
  repeat' first
    | with_reducible apply ChangesOnly.refl
    | exact Eq.refl true
    | with_reducible apply Leaves.next
    | with_reducible apply Leaves.occurs
    | with_reducible apply Leaves.ite
    | with_reducible apply ChangesOnly.ite
    | with_reducible apply ChangesOnly.foldl
    | with_reducible apply Leaves.after ?_ (execWord_only _ _ _)
    | with_reducible apply ChangesOnly.step ?_ (State.modCore_only _ _ _)
    | with_reducible intro _
    | split
    | dsimp only [id]

theorem execPbStep1_only : ∀ a0 a1 s, Leaves [.free, .clk, .mt, .coves, .ctrls, .streams, .bays, .sessions, .ports, .portq, .jetty, .integ, .rot, .net, .pwr, .su, .ident, .mg, .latches, .cut] s (execPbStep1 a0 a1 s) := by
  intro a0 a1 s
  unfold execPbStep1
  repeat' first
    | with_reducible apply ChangesOnly.refl
    | exact Eq.refl true
    | with_reducible apply Leaves.next
    | with_reducible apply Leaves.occurs
    | with_reducible apply Leaves.ite
    | with_reducible apply ChangesOnly.ite
    | with_reducible apply ChangesOnly.foldl
    | with_reducible apply Leaves.after ?_ (State.pbStep1_only _ _)
    | with_reducible intro _
    | split
    | dsimp only [id]

theorem State.pbBkptEn_only : ∀ s a1 a2, ChangesOnly [.coves] s (State.pbBkptEn s a1 a2) := by
  intro s a1 a2
  unfold State.pbBkptEn
  repeat' first
    | with_reducible apply ChangesOnly.refl
    | exact Eq.refl true
    | with_reducible apply ChangesOnly.ite
    | with_reducible apply ChangesOnly.foldl
    | with_reducible apply ChangesOnly.step ?_ (State.modCore_only _ _ _)
    | with_reducible intro _
    | split
    | dsimp only [id]

theorem State.pbTrapEn_only : ∀ s a1 a2, ChangesOnly [.coves] s (State.pbTrapEn s a1 a2) := by
  intro s a1 a2
  unfold State.pbTrapEn
  repeat' first
    | with_reducible apply ChangesOnly.refl
    | exact Eq.refl true
    | with_reducible apply ChangesOnly.ite
    | with_reducible apply ChangesOnly.foldl
    | with_reducible apply ChangesOnly.step ?_ (State.modCore_only _ _ _)
    | with_reducible intro _
    | split
    | dsimp only [id]

theorem execPbTrapEn_only : ∀ a0 a1 a2 s, Leaves [.coves] s (execPbTrapEn a0 a1 a2 s) := by
  intro a0 a1 a2 s
  unfold execPbTrapEn
  repeat' first
    | with_reducible apply ChangesOnly.refl
    | exact Eq.refl true
    | with_reducible apply Leaves.next
    | with_reducible apply Leaves.occurs
    | with_reducible apply Leaves.ite
    | with_reducible apply ChangesOnly.ite
    | with_reducible apply ChangesOnly.foldl
    | with_reducible apply ChangesOnly.step ?_ (State.pbTrapEn_only _ _ _)
    | with_reducible intro _
    | split
    | dsimp only [id]

theorem execPbBkptEn_only : ∀ a0 a1 a2 s, Leaves [.coves] s (execPbBkptEn a0 a1 a2 s) := by
  intro a0 a1 a2 s
  unfold execPbBkptEn
  repeat' first
    | with_reducible apply ChangesOnly.refl
    | exact Eq.refl true
    | with_reducible apply Leaves.next
    | with_reducible apply Leaves.occurs
    | with_reducible apply Leaves.ite
    | with_reducible apply ChangesOnly.ite
    | with_reducible apply ChangesOnly.foldl
    | with_reducible apply ChangesOnly.step ?_ (State.pbBkptEn_only _ _ _)
    | with_reducible intro _
    | split
    | dsimp only [id]

theorem State.pbHalt_only : ∀ s a1 a2, ChangesOnly [.coves] s (State.pbHalt s a1 a2) := by
  intro s a1 a2
  unfold State.pbHalt
  repeat' first
    | with_reducible apply ChangesOnly.refl
    | exact Eq.refl true
    | with_reducible apply ChangesOnly.ite
    | with_reducible apply ChangesOnly.foldl
    | with_reducible apply ChangesOnly.step ?_ (State.modCore_only _ _ _)
    | with_reducible intro _
    | split
    | dsimp only [id]

theorem execPbHalt_only : ∀ a0 a1 a2 s, Leaves [.coves] s (execPbHalt a0 a1 a2 s) := by
  intro a0 a1 a2 s
  unfold execPbHalt
  repeat' first
    | with_reducible apply ChangesOnly.refl
    | exact Eq.refl true
    | with_reducible apply Leaves.next
    | with_reducible apply Leaves.occurs
    | with_reducible apply Leaves.ite
    | with_reducible apply ChangesOnly.ite
    | with_reducible apply ChangesOnly.foldl
    | with_reducible apply ChangesOnly.step ?_ (State.pbHalt_only _ _ _)
    | with_reducible intro _
    | split
    | dsimp only [id]

end Sys2Proof.Machine
end

