-- ==== Sys2Proof/Laws/OnlyTide.lean ====
section
/-!
SUPPORT. For each operation and meaning of Machine/Tide.lean: the parts of the state that it can change.
-/

set_option linter.unreachableTactic false
set_option linter.unusedTactic false

namespace Sys2Proof.Machine

/-- A fold over a pair whose first component is the state. -/
theorem foldl_pair_only {ps : List Piece} {α β : Type} {s : State} {f : State × β → α → State × β}
    (hf : ∀ a x, ChangesOnly ps a.1 (f a x).1) (l : List α) {a : State × β} (h : ChangesOnly ps s a.1) :
    ChangesOnly ps s (l.foldl f a).1 := by
  induction l generalizing a with
  | nil => exact h
  | cons x l ih => exact ih (h.trans (hf a x))

theorem State.drive_only : ∀ s a1 a2 a3 a4 a5, ChangesOnly [.coves, .streams] s (State.drive s a1 a2 a3 a4 a5).1 := by
  intro s a1 a2 a3 a4 a5
  unfold State.drive
  repeat' first
    | with_reducible apply ChangesOnly.refl
    | exact Eq.refl true
    | with_reducible apply ChangesOnly.ite
    | with_reducible apply ChangesOnly.foldl
    | with_reducible apply ChangesOnly.step ?_ (State.modCove_only _ _ _)
    | with_reducible apply ChangesOnly.step ?_ (State.modStream_only _ _ _)
    | with_reducible intro _
    | split
    | dsimp only [id]

theorem execBarrierRelease_only : ∀ a0 a1 s, Leaves [.clk, .coves, .ctrls, .streams, .bays, .sessions, .portq, .jetty, .integ, .rot, .net, .su, .mg] s (execBarrierRelease a0 a1 s) := by
  intro a0 a1 s
  unfold execBarrierRelease
  repeat' first
    | with_reducible apply ChangesOnly.refl
    | with_reducible apply ChangesOnly.trans ?_ (State.laneIn_only ?_ _ _ _ _ _ _ ?_)
    | exact Eq.refl true
    | with_reducible apply Leaves.next
    | with_reducible apply Leaves.occurs
    | with_reducible apply Leaves.ite
    | with_reducible apply ChangesOnly.ite
    | with_reducible apply ChangesOnly.foldl
    | with_reducible apply ChangesOnly.step ?_ (State.releaseBarrier_only _ _ _)
    | with_reducible intro _
    | split
    | dsimp only [id]

theorem execFreeze_only : ∀ a0 s, Leaves [.coves, .bays, .sessions, .portq, .integ, .rot, .su, .mg] s (execFreeze a0 s) := by
  intro a0 s
  unfold execFreeze
  repeat' first
    | with_reducible apply ChangesOnly.refl
    | with_reducible apply ChangesOnly.trans ?_ (State.laneIn_only ?_ _ _ _ _ _ _ ?_)
    | exact Eq.refl true
    | with_reducible apply Leaves.next
    | with_reducible apply Leaves.occurs
    | with_reducible apply Leaves.ite
    | with_reducible apply ChangesOnly.ite
    | with_reducible apply ChangesOnly.foldl
    | with_reducible apply ChangesOnly.step ?_ (State.modCove_only _ _ _)
    | with_reducible intro _
    | split
    | dsimp only [id]

theorem execTfInjPar_only : ∀ a0 a1 s, Leaves [.coves] s (execTfInjPar a0 a1 s) := by
  intro a0 a1 s
  unfold execTfInjPar
  repeat' first
    | with_reducible apply ChangesOnly.refl
    | exact Eq.refl true
    | with_reducible apply Leaves.next
    | with_reducible apply Leaves.occurs
    | with_reducible apply Leaves.ite
    | with_reducible apply ChangesOnly.ite
    | with_reducible apply ChangesOnly.foldl
    | with_reducible apply ChangesOnly.step ?_ (State.modCove_only _ _ _)
    | with_reducible intro _
    | split
    | dsimp only [id]

theorem execCommitToken_only : ∀ a0 a1 s, Leaves [.coves, .bays, .sessions, .portq, .integ, .rot, .su, .mg] s (execCommitToken a0 a1 s) := by
  intro a0 a1 s
  unfold execCommitToken
  repeat' first
    | with_reducible apply ChangesOnly.refl
    | with_reducible apply ChangesOnly.trans ?_ (State.laneIn_only ?_ _ _ _ _ _ _ ?_)
    | exact Eq.refl true
    | with_reducible apply Leaves.next
    | with_reducible apply Leaves.occurs
    | with_reducible apply Leaves.ite
    | with_reducible apply ChangesOnly.ite
    | with_reducible apply ChangesOnly.foldl
    | with_reducible apply ChangesOnly.step ?_ (State.modCove_only _ _ _)
    | with_reducible intro _
    | split
    | dsimp only [id]

theorem execBarrierArrive_only : ∀ a0 a1 a2 s, Leaves [.clk, .coves, .ctrls, .streams, .bays, .sessions, .portq, .jetty, .integ, .rot, .net, .su, .mg] s (execBarrierArrive a0 a1 a2 s) := by
  intro a0 a1 a2 s
  unfold execBarrierArrive
  repeat' first
    | with_reducible apply ChangesOnly.refl
    | with_reducible apply ChangesOnly.trans ?_ (State.laneIn_only ?_ _ _ _ _ _ _ ?_)
    | exact Eq.refl true
    | with_reducible apply Leaves.next
    | with_reducible apply Leaves.occurs
    | with_reducible apply Leaves.ite
    | with_reducible apply ChangesOnly.ite
    | with_reducible apply ChangesOnly.foldl
    | with_reducible apply ChangesOnly.step ?_ (State.modCove_only _ _ _)
    | with_reducible apply ChangesOnly.step ?_ (State.tideFault_only _ _ _ _ _)
    | with_reducible apply ChangesOnly.step ?_ (State.releaseBarrier_only _ _ _)
    | with_reducible intro _
    | split
    | dsimp only [id]

theorem State.passVote_only : ∀ s a1 a2 a3, ChangesOnly [.coves] s (State.passVote s a1 a2 a3) := by
  intro s a1 a2 a3
  unfold State.passVote
  repeat' first
    | with_reducible apply ChangesOnly.refl
    | exact Eq.refl true
    | with_reducible apply ChangesOnly.ite
    | with_reducible apply ChangesOnly.foldl
    | with_reducible apply ChangesOnly.step ?_ (State.modCove_only _ _ _)
    | with_reducible apply ChangesOnly.step ?_ (State.sendOutcome_only _ _ _ _)
    | with_reducible intro _
    | split
    | dsimp only [id]

theorem execVote_only : ∀ a0 a1 a2 a3 s, Leaves [.coves, .bays, .sessions, .portq, .integ, .rot, .su, .mg] s (execVote a0 a1 a2 a3 s) := by
  intro a0 a1 a2 a3 s
  unfold execVote
  repeat' first
    | with_reducible apply ChangesOnly.refl
    | with_reducible apply ChangesOnly.trans ?_ (State.laneIn_only ?_ _ _ _ _ _ _ ?_)
    | exact Eq.refl true
    | with_reducible apply Leaves.next
    | with_reducible apply Leaves.occurs
    | with_reducible apply Leaves.ite
    | with_reducible apply ChangesOnly.ite
    | with_reducible apply ChangesOnly.foldl
    | with_reducible apply ChangesOnly.step ?_ (State.modCove_only _ _ _)
    | with_reducible apply ChangesOnly.step ?_ (State.passVote_only _ _ _ _)
    | with_reducible intro _
    | split
    | dsimp only [id]

theorem State.deliver_only : ∀ s a1 a2 a3 a4 a5, ChangesOnly [.coves, .streams] s (State.deliver s a1 a2 a3 a4 a5).1 := by
  intro s a1 a2 a3 a4 a5
  unfold State.deliver
  repeat' first
    | with_reducible apply ChangesOnly.refl
    | exact Eq.refl true
    | with_reducible apply ChangesOnly.ite
    | with_reducible apply ChangesOnly.foldl
    | with_reducible apply ChangesOnly.step ?_ (State.modCove_only _ _ _)
    | with_reducible apply ChangesOnly.step ?_ (State.drive_only _ _ _ _ _ _)
    | with_reducible intro _
    | split
    | dsimp only [id]

theorem State.routeCycle_only (s : State) (c plane cyc : Nat) (adderBad : Bool) :
    ChangesOnly [.coves, .streams, .bays, .sessions, .portq, .integ, .rot, .su, .mg] s (s.routeCycle c plane cyc adderBad) := by
  unfold State.routeCycle
  dsimp only
  with_reducible apply ChangesOnly.foldl
  · intro t x
    exact (State.tideFault_only t c x.1 _ _).mono rfl
  · with_reducible apply foldl_pair_only
    · intro a d
      split
      · exact ChangesOnly.refl _ _
      · dsimp only
        with_reducible apply ChangesOnly.step ?_ (State.deliver_only _ _ _ _ _ _)
        · exact rfl
        · exact ChangesOnly.refl _ _
    · dsimp only
      repeat' first
        | with_reducible apply ChangesOnly.refl
        | exact Eq.refl true
        | with_reducible apply ChangesOnly.step ?_ (State.modCove_only _ _ _)

theorem execActiveRouteCycle_only : ∀ a0 a1 a2 s, Leaves [.coves, .streams, .bays, .sessions, .portq, .integ, .rot, .su, .mg] s (execActiveRouteCycle a0 a1 a2 s) := by
  intro a0 a1 a2 s
  unfold execActiveRouteCycle
  repeat' first
    | with_reducible apply ChangesOnly.refl
    | exact Eq.refl true
    | with_reducible apply Leaves.next
    | with_reducible apply Leaves.occurs
    | with_reducible apply Leaves.ite
    | with_reducible apply ChangesOnly.ite
    | with_reducible apply ChangesOnly.foldl
    | with_reducible apply ChangesOnly.step ?_ (State.routeCycle_only _ _ _ _ _)
    | with_reducible intro _
    | split
    | dsimp only [id]

theorem execRollbackToken_only : ∀ a0 a1 s, Leaves [.coves, .bays, .sessions, .portq, .integ, .rot, .su, .mg] s (execRollbackToken a0 a1 s) := by
  intro a0 a1 s
  unfold execRollbackToken
  repeat' first
    | with_reducible apply ChangesOnly.refl
    | with_reducible apply ChangesOnly.trans ?_ (State.laneIn_only ?_ _ _ _ _ _ _ ?_)
    | exact Eq.refl true
    | with_reducible apply Leaves.next
    | with_reducible apply Leaves.occurs
    | with_reducible apply Leaves.ite
    | with_reducible apply ChangesOnly.ite
    | with_reducible apply ChangesOnly.foldl
    | with_reducible apply ChangesOnly.step ?_ (State.modCove_only _ _ _)
    | with_reducible intro _
    | split
    | dsimp only [id]

theorem execGroyneRelease_only : ∀ a0 a1 s, Leaves [.coves, .bays, .sessions, .portq, .integ, .rot, .su, .mg] s (execGroyneRelease a0 a1 s) := by
  intro a0 a1 s
  unfold execGroyneRelease
  repeat' first
    | with_reducible apply ChangesOnly.refl
    | exact Eq.refl true
    | with_reducible apply Leaves.next
    | with_reducible apply Leaves.occurs
    | with_reducible apply Leaves.ite
    | with_reducible apply ChangesOnly.ite
    | with_reducible apply ChangesOnly.foldl
    | with_reducible apply ChangesOnly.step ?_ (State.modCove_only _ _ _)
    | with_reducible apply ChangesOnly.step ?_ (State.tideFault_only _ _ _ _ _)
    | with_reducible intro _
    | split
    | dsimp only [id]

theorem execPselToken_only : ∀ a0 a1 s, Leaves [.coves, .bays, .sessions, .portq, .integ, .rot, .su, .mg] s (execPselToken a0 a1 s) := by
  intro a0 a1 s
  unfold execPselToken
  repeat' first
    | with_reducible apply ChangesOnly.refl
    | exact Eq.refl true
    | with_reducible apply Leaves.next
    | with_reducible apply Leaves.occurs
    | with_reducible apply Leaves.ite
    | with_reducible apply ChangesOnly.ite
    | with_reducible apply ChangesOnly.foldl
    | with_reducible apply ChangesOnly.step ?_ (State.modCove_only _ _ _)
    | with_reducible apply ChangesOnly.step ?_ (State.tideFault_only _ _ _ _ _)
    | with_reducible intro _
    | split
    | dsimp only [id]

theorem execTideFabricFault_only : ∀ a0 a1 a2 a3 s, Leaves [.coves, .bays, .sessions, .portq, .integ, .rot, .su, .mg] s (execTideFabricFault a0 a1 a2 a3 s) := by
  intro a0 a1 a2 a3 s
  unfold execTideFabricFault
  repeat' first
    | with_reducible apply ChangesOnly.refl
    | exact Eq.refl true
    | with_reducible apply Leaves.next
    | with_reducible apply Leaves.occurs
    | with_reducible apply Leaves.ite
    | with_reducible apply ChangesOnly.ite
    | with_reducible apply ChangesOnly.foldl
    | with_reducible apply ChangesOnly.step ?_ (State.modCove_only _ _ _)
    | with_reducible apply ChangesOnly.step ?_ (State.tideFault_only _ _ _ _ _)
    | with_reducible intro _
    | split
    | dsimp only [id]

end Sys2Proof.Machine
end

