-- ==== Sys2Proof/Laws/OnlyRegisters.lean ====
section
/-!
SUPPORT. For each operation and meaning of Machine/Registers.lean: the parts of the state that it can change.
-/

set_option linter.unreachableTactic false
set_option linter.unusedTactic false

namespace Sys2Proof.Machine

theorem State.regAccess_only {ps : List Piece} (hp : ([Piece.jetty].all fun p => ps.contains p) = true) (s : State) (c : JCmd)
    (f : State → State) (hf : ChangesOnly ps s (f s)) : ChangesOnly ps s (s.regAccess c f) := by
  refine ChangesOnly.ite (ChangesOnly.mono (qs := [.jetty]) (ChangesOnly.record (.refl _ _) ?_ ?_ ?_ ?_ ?_ ?_ ?_ ?_ ?_ ?_ ?_ ?_ ?_ ?_ ?_ ?_ ?_ ?_ ?_ ?_ ?_ ?_ ?_ ?_ ?_) hp) hf
  all_goals first
    | exact Or.inr rfl
    | exact Or.inl rfl

theorem State.after_only {ps : List Piece} {s : State} {f : State → Out} (hf : Leaves ps s (f s)) : ChangesOnly ps s (s.after f) := by
  unfold State.after outState
  split
  · exact hf _ ‹_›
  · exact ChangesOnly.refl _ _

theorem State.writePbCtrl_only : ∀ s a1 a2, ChangesOnly [.free, .clk, .mt, .coves, .ctrls, .streams, .bays, .sessions, .ports, .portq, .jetty, .integ, .rot, .net, .pwr, .su, .ident, .mg, .latches, .cut] s (State.writePbCtrl s a1 a2) := by
  intro s a1 a2
  unfold State.writePbCtrl
  repeat' first
    | with_reducible apply ChangesOnly.refl
    | with_reducible apply ChangesOnly.trans ?_ (State.after_only ?_)
    | exact Eq.refl true
    | with_reducible apply ChangesOnly.ite
    | with_reducible apply ChangesOnly.foldl
    | with_reducible apply ChangesOnly.step ?_ (State.modCore_only _ _ _)
    | with_reducible apply ChangesOnly.step ?_ (State.pbHalt_only _ _ _)
    | with_reducible apply ChangesOnly.step ?_ (State.pbBkptEn_only _ _ _)
    | with_reducible apply ChangesOnly.step ?_ (State.pbTrapEn_only _ _ _)
    | with_reducible apply Leaves.after ?_ (State.pbStep1_only _ _)
    | with_reducible intro _
    | split
    | dsimp only [id]

theorem State.writePb_only : ∀ s a1 a2 a3, ChangesOnly [.free, .clk, .mt, .coves, .ctrls, .streams, .bays, .sessions, .ports, .portq, .jetty, .integ, .rot, .net, .pwr, .su, .ident, .mg, .latches, .cut] s (State.writePb s a1 a2 a3) := by
  intro s a1 a2 a3
  unfold State.writePb
  repeat' first
    | with_reducible apply ChangesOnly.refl
    | exact Eq.refl true
    | with_reducible apply ChangesOnly.ite
    | with_reducible apply ChangesOnly.foldl
    | with_reducible apply ChangesOnly.step ?_ (State.modCore_only _ _ _)
    | with_reducible apply ChangesOnly.step ?_ (State.writePbCtrl_only _ _ _)
    | with_reducible intro _
    | split
    | dsimp only [id]

theorem State.bayWrite_only (s : State) (who : Requester) (k : Block) (o : Nat) (v : Word) (t : State) (h : s.bayWrite who k o v = some t) :
    ChangesOnly [.free, .clk, .mt, .coves, .ctrls, .streams, .bays, .sessions, .ports, .portq, .jetty, .integ, .rot, .net, .pwr, .su, .ident, .mg, .latches, .cut] s t := by
  unfold State.bayWrite at h
  dsimp only at h
  repeat' split at h
  all_goals first
    | contradiction
    | (injection h; subst_vars)
    | skip
  all_goals repeat' first
    | with_reducible apply ChangesOnly.refl
    | with_reducible apply ChangesOnly.trans ?_ (State.after_only ?_)
    | exact Eq.refl true
    | with_reducible apply ChangesOnly.ite
    | with_reducible apply ChangesOnly.foldl
    | with_reducible apply Leaves.after ?_ (execIgBayCfgWrite_only _ _ _ _)
    | with_reducible apply ChangesOnly.step ?_ (State.modCove_only _ _ _)
    | with_reducible apply Leaves.after ?_ (execChHeadSel_only _ _ _ _)
    | with_reducible apply ChangesOnly.step ?_ (State.writePb_only _ _ _ _)
    | with_reducible intro _
    | split
    | dsimp only [id]

theorem State.readWords_only (s : State) (who : Requester) (a n : Nat) :
    ChangesOnly [.free, .clk, .coves, .ctrls, .streams, .bays, .ports, .jetty, .pwr, .ident, .latches, .cut] s (s.readWords who a n).2.2 := by
  induction n generalizing s a with
  | zero => exact ChangesOnly.refl _ _
  | succ n ih => exact ((State.read_only s who a).mono rfl).trans (ih _ _)

theorem State.doRegRead_only : ∀ s a1, ChangesOnly [.free, .clk, .coves, .ctrls, .streams, .bays, .sessions, .ports, .portq, .jetty, .pwr, .ident, .latches, .cut] s (State.doRegRead s a1) := by
  intro s a1
  unfold State.doRegRead
  repeat' first
    | with_reducible apply ChangesOnly.refl
    | with_reducible apply ChangesOnly.step ?_ (State.readWords_only _ _ _ _)
    | exact Eq.refl true
    | with_reducible apply ChangesOnly.ite
    | with_reducible apply ChangesOnly.foldl
    | with_reducible apply ChangesOnly.step ?_ (State.finishCmd_only _ _ _ _)
    | with_reducible intro _
    | split
    | dsimp only [id]

theorem execRegRead_only : ∀ a0 s, Leaves [.free, .clk, .coves, .ctrls, .streams, .bays, .sessions, .ports, .portq, .jetty, .pwr, .ident, .latches, .cut] s (execRegRead a0 s) := by
  intro a0 s
  unfold execRegRead
  repeat' first
    | with_reducible apply ChangesOnly.refl
    | with_reducible apply State.parse_only
    | with_reducible apply ChangesOnly.trans ?_ (State.regAccess_only ?_ _ _ _ ?_)
    | exact Eq.refl true
    | with_reducible apply Leaves.next
    | with_reducible apply Leaves.occurs
    | with_reducible apply Leaves.ite
    | with_reducible apply ChangesOnly.ite
    | with_reducible apply ChangesOnly.foldl
    | with_reducible apply ChangesOnly.step ?_ (State.acceptLong_only _ _)
    | with_reducible apply ChangesOnly.step ?_ (State.doRegRead_only _ _)
    | with_reducible intro _
    | split
    | dsimp only [id]

theorem State.writeEth_only : ∀ s a1 a2 a3, ChangesOnly [.ports, .portq] s (State.writeEth s a1 a2 a3) := by
  intro s a1 a2 a3
  unfold State.writeEth
  repeat' first
    | with_reducible apply ChangesOnly.refl
    | with_reducible apply ChangesOnly.trans ?_ (State.after_only ?_)
    | exact Eq.refl true
    | with_reducible apply ChangesOnly.ite
    | with_reducible apply ChangesOnly.foldl
    | with_reducible apply Leaves.after ?_ (execEthDisable_only _ _ _ _)
    | with_reducible apply Leaves.after ?_ (execEthRetrain_only _ _ _)
    | with_reducible intro _
    | split
    | dsimp only [id]

theorem State.headlandWrite_only : ∀ s a1 a2 a3, ChangesOnly [.clk, .coves, .ctrls, .streams, .bays, .sessions, .portq, .jetty, .integ, .rot, .net, .su, .mg] s (State.headlandWrite s a1 a2 a3) := by
  intro s a1 a2 a3
  unfold State.headlandWrite
  repeat' first
    | with_reducible apply ChangesOnly.refl
    | with_reducible apply ChangesOnly.step ?_ (State.streamPush_only _ _ _ _ ‹_›)
    | with_reducible apply ChangesOnly.step ?_ (State.streamPush_only_refused _ _ _ _ _ ‹_›)
    | exact Eq.refl true
    | with_reducible apply ChangesOnly.ite
    | with_reducible apply ChangesOnly.foldl
    | with_reducible apply ChangesOnly.step ?_ (State.modCove_only _ _ _)
    | with_reducible apply ChangesOnly.step ?_ (State.writeTol_only _ _ _ _ _ _)
    | with_reducible apply ChangesOnly.step ?_ (State.modStream_only _ _ _)
    | with_reducible intro _
    | split
    | dsimp only [id]

theorem State.ownerWrite_only (s : State) (who : Requester) (k : Block) (o : Nat) (v : Word) (t : State) (h : s.ownerWrite who k o v = some t) :
    ChangesOnly [.free, .clk, .mt, .coves, .ctrls, .streams, .bays, .sessions, .ports, .portq, .jetty, .integ, .rot, .net, .pwr, .su, .ident, .mg, .latches, .cut] s t := by
  unfold State.ownerWrite at h
  dsimp only at h
  repeat' split at h
  all_goals first
    | contradiction
    | (injection h; subst_vars)
    | skip
  all_goals repeat' first
    | with_reducible exact Or.inl rfl
    | with_reducible exact Or.inr rfl
    | exact Or.inl rfl
    | with_reducible apply ChangesOnly.refl
    | with_reducible apply ChangesOnly.trans ?_ (State.after_only ?_)
    | exact Eq.refl true
    | with_reducible apply ChangesOnly.ite
    | with_reducible apply ChangesOnly.foldl
    | with_reducible apply Leaves.after ?_ (execMgLogSelWrite_only _ _ _)
    | with_reducible apply Leaves.after ?_ (execTfInjPar_only _ _ _)
    | with_reducible apply Leaves.after ?_ (execNvGoOwnerRecord_only _ _)
    | with_reducible apply Leaves.after ?_ (execBrkInjCk_only _ _ _)
    | with_reducible apply Leaves.after ?_ (execCnInjPar_only _ _ _)
    | with_reducible apply ChangesOnly.step ?_ (State.writeEth_only _ _ _ _)
    | with_reducible apply Leaves.after ?_ (execHbInjCe_only _ _ _)
    | with_reducible apply Leaves.after ?_ (execHbScrubEn_only _ _ _ _)
    | with_reducible apply Leaves.after ?_ (execNvGoSlotChunk_only _ _)
    | with_reducible apply Leaves.after ?_ (execPwrOpTargetWrite_only _ _ _)
    | with_reducible apply Leaves.after ?_ (execCnE408Mask_only _ _ _ _)
    | with_reducible apply ChangesOnly.step ?_ (State.writePb_only _ _ _ _)
    | with_reducible apply Leaves.after ?_ (execRotPause_only _ _ _)
    | with_reducible apply Leaves.after ?_ (execIgClrPattern_only _ _ _)
    | with_reducible apply Leaves.after ?_ (execRotIntervalWrite_only _ _ _)
    | with_reducible apply ChangesOnly.step ?_ (State.modStack_only _ _ _)
    | with_reducible apply Leaves.after ?_ (execPwrHintMvWrite_only _ _ _)
    | with_reducible apply Leaves.after ?_ (execBrkFillEn_only _ _ _ _)
    | with_reducible intro _
    | split
    | dsimp only [id]
    | with_reducible apply ChangesOnly.record

theorem State.write_only (s : State) (who : Requester) (a : Nat) (v : Word) (t : State) (h : s.write who a v = some t) :
    ChangesOnly [.free, .clk, .mt, .coves, .ctrls, .streams, .bays, .sessions, .ports, .portq, .jetty, .integ, .rot, .net, .pwr, .su, .ident, .mg, .latches, .cut] s t := by
  unfold State.write at h
  split at h
  · cases h; exact ChangesOnly.refl _ _
  · extract_lets pebble at h
    clear_value pebble
    split at h
    · split at h
      · exact absurd h (by simp)
      · exact Option.some.inj h ▸ ChangesOnly.refl _ _
    · split at h
      · cases h; exact (State.bayWrite_only _ _ _ _ _ _ ‹_›).mono rfl
      · split at h
        · rename_i h1
          cases h
          split at h1
          · exact (State.ownerWrite_only _ _ _ _ _ _ h1).mono rfl
          · cases h1
        · split at h
          · cases h; exact (State.headlandWrite_only _ _ _ _).mono rfl
          · cases h

theorem State.regWritten_only (s : State) (c : JCmd) (t : State) (h : s.regWritten c = some t) : ChangesOnly [.free, .clk, .mt, .coves, .ctrls, .streams, .bays, .sessions, .ports, .portq, .jetty, .integ, .rot, .net, .pwr, .su, .ident, .mg, .latches, .cut] s t :=
  State.write_only _ _ _ _ _ h

theorem State.doRegWrite_only : ∀ s a1, ChangesOnly [.free, .clk, .mt, .coves, .ctrls, .streams, .bays, .sessions, .ports, .portq, .jetty, .integ, .rot, .net, .pwr, .su, .ident, .mg, .latches, .cut] s (State.doRegWrite s a1) := by
  intro s a1
  unfold State.doRegWrite
  repeat' first
    | with_reducible apply ChangesOnly.refl
    | with_reducible apply ChangesOnly.getD (State.regWritten_only _ _)
    | exact Eq.refl true
    | with_reducible apply ChangesOnly.ite
    | with_reducible apply ChangesOnly.foldl
    | with_reducible apply ChangesOnly.step ?_ (State.finishCmd_only _ _ _ _)
    | with_reducible intro _
    | split
    | dsimp only [id]

theorem execRegWrite_only : ∀ a0 s, Leaves [.free, .clk, .mt, .coves, .ctrls, .streams, .bays, .sessions, .ports, .portq, .jetty, .integ, .rot, .net, .pwr, .su, .ident, .mg, .latches, .cut] s (execRegWrite a0 s) := by
  intro a0 s
  unfold execRegWrite
  repeat' first
    | with_reducible apply ChangesOnly.refl
    | with_reducible apply State.parse_only
    | with_reducible apply ChangesOnly.trans ?_ (State.regAccess_only ?_ _ _ _ ?_)
    | with_reducible apply ChangesOnly.getD (State.regWritten_only _ _)
    | exact Eq.refl true
    | with_reducible apply Leaves.next
    | with_reducible apply Leaves.occurs
    | with_reducible apply Leaves.ite
    | with_reducible apply ChangesOnly.ite
    | with_reducible apply ChangesOnly.foldl
    | with_reducible apply ChangesOnly.step ?_ (State.reject_only _ _ _)
    | with_reducible apply ChangesOnly.step ?_ (State.acceptLong_only _ _)
    | with_reducible apply ChangesOnly.step ?_ (State.doRegWrite_only _ _)
    | with_reducible intro _
    | split
    | dsimp only [id]

theorem execRegisterWrite_only : ∀ a0 a1 a2 s, Leaves [.free, .clk, .mt, .coves, .ctrls, .streams, .bays, .sessions, .ports, .portq, .jetty, .integ, .rot, .net, .pwr, .su, .ident, .mg, .latches, .cut] s (execRegisterWrite a0 a1 a2 s) := by
  intro a0 a1 a2 s
  unfold execRegisterWrite
  repeat' first
    | with_reducible apply ChangesOnly.refl
    | with_reducible apply ChangesOnly.getD (State.write_only _ _ _ _)
    | exact Eq.refl true
    | with_reducible apply Leaves.next
    | with_reducible apply Leaves.occurs
    | with_reducible apply Leaves.ite
    | with_reducible apply ChangesOnly.ite
    | with_reducible apply ChangesOnly.foldl
    | with_reducible apply ChangesOnly.step ?_ (State.modStream_only _ _ _)
    | with_reducible intro _
    | split
    | dsimp only [id]

theorem State.answerReg_only : ∀ s a1 a2, ChangesOnly [.coves] s (State.answerReg s a1 a2) := by
  intro s a1 a2
  unfold State.answerReg
  repeat' first
    | with_reducible apply ChangesOnly.refl
    | exact Eq.refl true
    | with_reducible apply ChangesOnly.ite
    | with_reducible apply ChangesOnly.foldl
    | with_reducible apply ChangesOnly.step ?_ (State.inject_only _ _ _ _ _)
    | with_reducible intro _
    | split
    | dsimp only [id]

theorem execHlAccessComplete_only : ∀ s, Leaves [.free, .clk, .coves, .ctrls, .streams, .bays, .ports, .jetty, .pwr, .ident, .pins, .latches, .cut] s (execHlAccessComplete s) := by
  intro s
  unfold execHlAccessComplete
  repeat' first
    | with_reducible exact Or.inl rfl
    | with_reducible exact Or.inr rfl
    | exact Or.inl rfl
    | with_reducible apply ChangesOnly.refl
    | exact Eq.refl true
    | with_reducible apply Leaves.next
    | with_reducible apply Leaves.occurs
    | with_reducible apply Leaves.ite
    | with_reducible apply ChangesOnly.ite
    | with_reducible apply ChangesOnly.foldl
    | with_reducible apply ChangesOnly.step ?_ (State.readAt_only _ _ _)
    | with_reducible intro _
    | split
    | dsimp only [id]
    | with_reducible apply ChangesOnly.record

theorem execRegPacket_only : ∀ a0 a1 a2 a3 s, Leaves [.free, .clk, .mt, .coves, .ctrls, .streams, .bays, .sessions, .ports, .portq, .jetty, .integ, .rot, .net, .pwr, .su, .ident, .mg, .latches, .cut] s (execRegPacket a0 a1 a2 a3 s) := by
  intro a0 a1 a2 a3 s
  unfold execRegPacket
  repeat' first
    | with_reducible apply ChangesOnly.refl
    | with_reducible apply ChangesOnly.trans ?_ (State.eject_only ?_ _ _ _ ?_)
    | with_reducible apply ChangesOnly.getD (State.write_only _ _ _ _)
    | exact Eq.refl true
    | with_reducible apply Leaves.next
    | with_reducible apply Leaves.occurs
    | with_reducible apply Leaves.ite
    | with_reducible apply ChangesOnly.ite
    | with_reducible apply ChangesOnly.foldl
    | with_reducible apply ChangesOnly.step ?_ (State.readAt_only _ _ _)
    | with_reducible apply ChangesOnly.step ?_ (State.inject_only _ _ _ _ _)
    | with_reducible apply ChangesOnly.step ?_ (State.netCount_only _ _ _)
    | with_reducible apply ChangesOnly.step ?_ (State.answerReg_only _ _ _)
    | with_reducible intro _
    | split
    | dsimp only [id]

end Sys2Proof.Machine
end

