-- ==== Sys2Proof/Laws/OnlyJettyCycle.lean ====
section
/-!
SUPPORT. For each operation and meaning of Machine/JettyCycle.lean: the parts of the state that it can change.
-/

set_option linter.unreachableTactic false
set_option linter.unusedTactic false

namespace Sys2Proof.Machine

theorem State.rejectUnknown_only : ∀ s, ChangesOnly [.sessions, .portq, .jetty] s (State.rejectUnknown s) := by
  intro s
  unfold State.rejectUnknown
  repeat' first
    | with_reducible apply ChangesOnly.refl
    | exact Eq.refl true
    | with_reducible apply ChangesOnly.ite
    | with_reducible apply ChangesOnly.foldl
    | with_reducible apply ChangesOnly.step ?_ (State.reject_only _ _ _)
    | with_reducible apply ChangesOnly.step ?_ (State.takeCmd_only _ _)
    | with_reducible intro _
    | split
    | dsimp only [id]

theorem State.serveWaiting_only : ∀ s, ChangesOnly [.free, .clk, .mt, .coves, .ctrls, .streams, .bays, .sessions, .ports, .portq, .jetty, .integ, .rot, .net, .pwr, .su, .ident, .mg, .latches, .cut] s (State.serveWaiting s) := by
  intro s
  unfold State.serveWaiting
  repeat' first
    | with_reducible exact Or.inl rfl
    | with_reducible exact Or.inr rfl
    | exact Or.inl rfl
    | with_reducible apply ChangesOnly.refl
    | exact Eq.refl true
    | with_reducible apply ChangesOnly.ite
    | with_reducible apply ChangesOnly.foldl
    | with_reducible apply ChangesOnly.step ?_ (State.doRegRead_only _ _)
    | with_reducible apply ChangesOnly.step ?_ (State.doRegWrite_only _ _)
    | with_reducible intro _
    | split
    | dsimp only [id]
    | with_reducible apply ChangesOnly.record

theorem State.jettyCycle_only : ∀ s, ChangesOnly [.free, .clk, .mt, .coves, .ctrls, .streams, .bays, .sessions, .ports, .portq, .jetty, .integ, .rot, .net, .pwr, .su, .ident, .mg, .latches, .cut] s (State.jettyCycle s) := by
  intro s
  unfold State.jettyCycle
  repeat' first
    | with_reducible apply ChangesOnly.refl
    | exact Eq.refl true
    | with_reducible apply ChangesOnly.ite
    | with_reducible apply ChangesOnly.foldl
    | with_reducible apply ChangesOnly.step ?_ (State.serveWaiting_only _)
    | with_reducible apply ChangesOnly.step ?_ (State.rejectUnknown_only _)
    | with_reducible intro _
    | split
    | dsimp only [id]

end Sys2Proof.Machine
end

