-- ==== Sys2Proof/Laws/OnlyWire.lean ====
section
/-!
SUPPORT. For each operation and meaning of Machine/Wire.lean: the parts of the state that it can change.
-/

set_option linter.unreachableTactic false
set_option linter.unusedTactic false

namespace Sys2Proof.Machine

theorem State.withhold_only : ∀ s a1 a2, ChangesOnly [.bays, .sessions, .mg] s (State.withhold s a1 a2) := by
  intro s a1 a2
  unfold State.withhold
  repeat' first
    | with_reducible apply ChangesOnly.refl
    | exact Eq.refl true
    | with_reducible apply ChangesOnly.ite
    | with_reducible apply ChangesOnly.foldl
    | with_reducible apply ChangesOnly.step ?_ (State.modSess_only _ _ _)
    | with_reducible apply ChangesOnly.step ?_ (State.modBay_only _ _ _)
    | with_reducible apply ChangesOnly.step ?_ (State.logBay_only _ _ _)
    | with_reducible intro _
    | split
    | dsimp only [id]

theorem State.sendFrame_only : ∀ s a1 a2, ChangesOnly [.free, .bays, .sessions, .qps, .ports, .portq, .mg] s (State.sendFrame s a1 a2) := by
  intro s a1 a2
  unfold State.sendFrame
  repeat' first
    | with_reducible apply ChangesOnly.refl
    | exact Eq.refl true
    | with_reducible apply ChangesOnly.ite
    | with_reducible apply ChangesOnly.foldl
    | with_reducible apply ChangesOnly.step ?_ (State.modPortQ_only _ _ _)
    | with_reducible apply ChangesOnly.step ?_ (State.modQp_only _ _ _)
    | with_reducible apply ChangesOnly.step ?_ (State.spend_only _ _)
    | with_reducible apply ChangesOnly.step ?_ (State.withhold_only _ _ _)
    | with_reducible apply ChangesOnly.step ?_ (State.ethCount_only _ _ _ _)
    | with_reducible intro _
    | split
    | dsimp only [id]

theorem State.drainRx_only : ∀ s a1, ChangesOnly [.portq] s (State.drainRx s a1) := by
  intro s a1
  unfold State.drainRx
  repeat' first
    | with_reducible apply ChangesOnly.refl
    | exact Eq.refl true
    | with_reducible apply ChangesOnly.ite
    | with_reducible apply ChangesOnly.foldl
    | with_reducible apply ChangesOnly.step ?_ (State.modPortQ_only _ _ _)
    | with_reducible apply ChangesOnly.step ?_ (State.transmit_only _ _ _)
    | with_reducible intro _
    | split
    | dsimp only [id]

theorem State.fecCycle_only : ∀ s a1, ChangesOnly [.free, .ports] s (State.fecCycle s a1) := by
  intro s a1
  unfold State.fecCycle
  repeat' first
    | with_reducible apply ChangesOnly.refl
    | exact Eq.refl true
    | with_reducible apply ChangesOnly.ite
    | with_reducible apply ChangesOnly.foldl
    | with_reducible apply ChangesOnly.step ?_ (State.spend_only _ _)
    | with_reducible apply ChangesOnly.step ?_ (State.ethCount_only _ _ _ _)
    | with_reducible intro _
    | split
    | dsimp only [id]

theorem State.wireCycle_only : ∀ s a1, ChangesOnly [.free, .bays, .sessions, .qps, .ports, .portq, .mg] s (State.wireCycle s a1) := by
  intro s a1
  unfold State.wireCycle
  repeat' first
    | with_reducible apply ChangesOnly.refl
    | exact Eq.refl true
    | with_reducible apply ChangesOnly.ite
    | with_reducible apply ChangesOnly.foldl
    | with_reducible apply ChangesOnly.step ?_ (State.fecCycle_only _ _)
    | with_reducible apply ChangesOnly.step ?_ (State.modPortQ_only _ _ _)
    | with_reducible apply ChangesOnly.step ?_ (State.sendFrame_only _ _ _)
    | with_reducible apply ChangesOnly.step ?_ (State.drainRx_only _ _)
    | with_reducible intro _
    | split
    | dsimp only [id]

end Sys2Proof.Machine
end

