-- ==== Sys2Proof/Laws/OnlyTick.lean ====
section
/-!
SUPPORT. For each operation and meaning of Machine/Tick.lean: the parts of the state that it can change.
-/

set_option linter.unreachableTactic false
set_option linter.unusedTactic false

namespace Sys2Proof.Machine

theorem State.seamCycle_only : ∀ s, ChangesOnly [.clk] s (State.seamCycle s) := by
  intro s
  unfold State.seamCycle
  repeat' first
    | with_reducible exact Or.inl rfl
    | with_reducible exact Or.inr rfl
    | exact Or.inl rfl
    | with_reducible apply ChangesOnly.refl
    | exact Eq.refl true
    | with_reducible apply ChangesOnly.ite
    | with_reducible apply ChangesOnly.foldl
    | with_reducible intro _
    | split
    | dsimp only [id]
    | with_reducible apply ChangesOnly.record

theorem State.advanceClocks_only : ∀ s, ChangesOnly [.free, .clk, .mt] s (State.advanceClocks s) := by
  intro s
  unfold State.advanceClocks
  repeat' first
    | with_reducible exact Or.inl rfl
    | with_reducible exact Or.inr rfl
    | exact Or.inl rfl
    | with_reducible apply ChangesOnly.refl
    | exact Eq.refl true
    | with_reducible apply ChangesOnly.ite
    | with_reducible apply ChangesOnly.foldl
    | with_reducible intro _
    | split
    | dsimp only [id]
    | with_reducible apply ChangesOnly.record

theorem State.fenceCycle_only : ∀ s, ChangesOnly [.coves, .bays, .sessions, .portq, .rot, .su, .mg] s (State.fenceCycle s) := by
  intro s
  unfold State.fenceCycle
  repeat' first
    | with_reducible apply ChangesOnly.refl
    | exact Eq.refl true
    | with_reducible apply ChangesOnly.ite
    | with_reducible apply ChangesOnly.foldl
    | with_reducible apply ChangesOnly.step ?_ (State.decideFences_only _ _)
    | with_reducible intro _
    | split
    | dsimp only [id]

theorem State.ebbCycle_only : ∀ s, ChangesOnly [.clk] s (State.ebbCycle s) := by
  intro s
  unfold State.ebbCycle
  repeat' first
    | with_reducible apply ChangesOnly.refl
    | exact Eq.refl true
    | with_reducible apply ChangesOnly.ite
    | with_reducible apply ChangesOnly.foldl
    | with_reducible apply ChangesOnly.step ?_ (State.stopPll_only _ _)
    | with_reducible apply ChangesOnly.step ?_ (State.modHalf_only _ _ _)
    | with_reducible intro _
    | split
    | dsimp only [id]

theorem State.sequence_only : ∀ s a1, ChangesOnly [.clk] s (State.sequence s a1) := by
  intro s a1
  unfold State.sequence
  repeat' first
    | with_reducible apply ChangesOnly.refl
    | exact Eq.refl true
    | with_reducible apply ChangesOnly.ite
    | with_reducible apply ChangesOnly.foldl
    | with_reducible apply ChangesOnly.step ?_ (State.modHalf_only _ _ _)
    | with_reducible apply ChangesOnly.step ?_ (State.modPll_only _ _ _)
    | with_reducible intro _
    | split
    | dsimp only [id]

theorem tick_only : ∀ s, ChangesOnly [.free, .clk, .mt, .coves, .hbm, .ctrls, .streams, .bays, .sessions, .qps, .ports, .portq, .jetty, .integ, .rot, .net, .pwr, .pwrx, .su, .ident, .mg, .pins, .latches, .cut] s (tick s) := by
  intro s
  unfold tick
  repeat' first
    | with_reducible apply ChangesOnly.refl
    | exact Eq.refl true
    | with_reducible apply ChangesOnly.ite
    | with_reducible apply ChangesOnly.foldl
    | with_reducible apply ChangesOnly.step ?_ (State.holdupCycle_only _)
    | with_reducible apply ChangesOnly.step ?_ (State.hbmCycle_only _)
    | with_reducible apply ChangesOnly.step ?_ (State.advanceClocks_only _)
    | with_reducible apply ChangesOnly.step ?_ (State.jettyCycle_only _)
    | with_reducible apply ChangesOnly.step ?_ (State.seamCycle_only _)
    | with_reducible apply ChangesOnly.step ?_ (State.ebbCycle_only _)
    | with_reducible apply ChangesOnly.step ?_ (State.markCycle_only _)
    | with_reducible apply ChangesOnly.step ?_ (State.parkCycle_only _)
    | with_reducible apply ChangesOnly.step ?_ (State.fenceCycle_only _)
    | with_reducible apply ChangesOnly.step ?_ (State.mateCycle_only _)
    | with_reducible apply ChangesOnly.step ?_ (State.wireCycle_only _ _)
    | with_reducible apply ChangesOnly.step ?_ (State.sampleCycle_only _)
    | with_reducible apply ChangesOnly.step ?_ (State.sequence_only _ _)
    | with_reducible intro _
    | split
    | dsimp only [id]

end Sys2Proof.Machine
end

