-- ==== Sys2Proof/Laws/MemTick.lean ====
section
/-!
SUPPORT. The operations and meanings of Machine/Tick.lean that write HBM or the devices keep their memories in canonical form.
-/

set_option linter.unreachableTactic false
set_option linter.unusedTactic false

namespace Sys2Proof.Machine

theorem tick_mem : ∀ s, MemKept s (tick s) := by
  intro s
  unfold tick
  repeat' first
    | with_reducible apply MemKept.refl
    | exact Eq.refl true
    | with_reducible apply MemKept.ite
    | with_reducible apply MemKept.foldl
    | with_reducible apply MemKept.trans ?_ (State.holdupCycle_mem _)
    | with_reducible apply MemKept.step ?_ (State.hbmCycle_only _)
    | with_reducible apply MemKept.step ?_ (State.advanceClocks_only _)
    | with_reducible apply MemKept.step ?_ (State.jettyCycle_only _)
    | with_reducible apply MemKept.step ?_ (State.seamCycle_only _)
    | with_reducible apply MemKept.step ?_ (State.ebbCycle_only _)
    | with_reducible apply MemKept.step ?_ (State.markCycle_only _)
    | with_reducible apply MemKept.step ?_ (State.parkCycle_only _)
    | with_reducible apply MemKept.step ?_ (State.fenceCycle_only _)
    | with_reducible apply MemKept.trans ?_ (State.mateCycle_mem _)
    | with_reducible apply MemKept.step ?_ (State.wireCycle_only _ _)
    | with_reducible apply MemKept.step ?_ (State.sampleCycle_only _)
    | with_reducible apply MemKept.step ?_ (State.sequence_only _ _)
    | with_reducible intro _
    | split
    | dsimp only [id]

end Sys2Proof.Machine
end

