-- ==== Sys2Proof/Laws/MemTransport.lean ====
section
/-!
SUPPORT. The operations and meanings of Machine/Transport.lean that write HBM or the devices keep their memories in canonical form.
-/

set_option linter.unreachableTactic false
set_option linter.unusedTactic false

namespace Sys2Proof.Machine

theorem State.request_mem (s : State) (b : Bth) (n : Nat) (dup f : State → State) (hd : ∀ t, MemKept t (dup t))
    (hf : ∀ t, MemKept t (f t)) : OutMemKept s (s.request b n dup f) := by
  have q {ps : List Piece} {t u : State} (h : ChangesOnly ps t u) (hq : (!ps.contains .hbm && !ps.contains .img) = true) : MemKept t u :=
    (MemKept.refl t).step h hq
  unfold State.request
  extract_lets i x s1 s2 d
  have h1 : MemKept s s1 := q (State.ethCount_only _ _ _ _) rfl
  have h2 : MemKept s s2 := h1.trans ((q (State.modQp_only s1 _ _) rfl).trans ((q (State.notify_only _ _) rfl).trans
    (q (State.buffered_only _ _ _) rfl)))
  refine OutMemKept.occurs (MemKept.ite (h1.trans (q (State.ethCount_only _ _ _ _) rfl)) (MemKept.ite ?_ (MemKept.ite ?_ ?_)))
  · exact (h2.trans (q (State.modQp_only _ _ _) rfl)).trans (hf _)
  · exact MemKept.ite h2 ((h2.trans (q (State.modQp_only _ _ _) rfl)).trans (q (State.nak_only _ _ _ _ _) rfl))
  · exact h2.trans (hd _)
theorem State.landRdma_mem : ∀ s a1 a2 a3 a4, MemKept s (State.landRdma s a1 a2 a3 a4) := by
  intro s a1 a2 a3 a4
  unfold State.landRdma
  repeat' first
    | with_reducible apply MemKept.refl
    | exact Eq.refl true
    | with_reducible apply MemKept.ite
    | with_reducible apply MemKept.foldl
    | with_reducible apply MemKept.trans ?_ (State.committedWrite_mem _ _ _ _ _)
    | with_reducible apply MemKept.step ?_ (State.windowWakes_only _ _ _)
    | with_reducible apply MemKept.step ?_ (State.windowWrite_only _ _ _)
    | with_reducible intro _
    | split
    | dsimp only [id]

theorem State.rdmaWriteMore_mem : ∀ s a1 a2 a3, MemKept s (State.rdmaWriteMore s a1 a2 a3) := by
  intro s a1 a2 a3
  unfold State.rdmaWriteMore
  repeat' first
    | with_reducible apply MemKept.refl
    | exact Eq.refl true
    | with_reducible apply MemKept.ite
    | with_reducible apply MemKept.foldl
    | with_reducible apply MemKept.step ?_ (State.modQp_only _ _ _)
    | with_reducible apply MemKept.step ?_ (State.ack_only _ _ _)
    | with_reducible apply MemKept.step ?_ (State.nak_only _ _ _ _ _)
    | with_reducible apply MemKept.trans ?_ (State.landRdma_mem _ _ _ _ _)
    | with_reducible apply MemKept.step ?_ (State.advance_only _ _ _)
    | with_reducible intro _
    | split
    | dsimp only [id]

theorem execRdmaWriteLast_mem : ∀ a0 a1 s, OutMemKept s (execRdmaWriteLast a0 a1 s) := by
  intro a0 a1 s
  unfold execRdmaWriteLast
  repeat' first
    | with_reducible apply MemKept.refl
    | exact Eq.refl true
    | with_reducible apply OutMemKept.next
    | with_reducible apply OutMemKept.occurs
    | with_reducible apply OutMemKept.ite
    | with_reducible apply MemKept.ite
    | with_reducible apply MemKept.foldl
    | with_reducible apply MemKept.step ?_ (State.ack_only _ _ _)
    | with_reducible apply MemKept.trans ?_ (State.rdmaWriteMore_mem _ _ _ _)
    | with_reducible apply State.request_mem
    | with_reducible intro _
    | split
    | dsimp only [id]

theorem execRdmaWriteMiddle_mem : ∀ a0 a1 s, OutMemKept s (execRdmaWriteMiddle a0 a1 s) := by
  intro a0 a1 s
  unfold execRdmaWriteMiddle
  repeat' first
    | with_reducible apply MemKept.refl
    | exact Eq.refl true
    | with_reducible apply OutMemKept.next
    | with_reducible apply OutMemKept.occurs
    | with_reducible apply OutMemKept.ite
    | with_reducible apply MemKept.ite
    | with_reducible apply MemKept.foldl
    | with_reducible apply MemKept.step ?_ (State.ack_only _ _ _)
    | with_reducible apply MemKept.trans ?_ (State.rdmaWriteMore_mem _ _ _ _)
    | with_reducible apply State.request_mem
    | with_reducible intro _
    | split
    | dsimp only [id]

theorem State.rdmaWrite_mem : ∀ s a1 a2 a3 a4, MemKept s (State.rdmaWrite s a1 a2 a3 a4) := by
  intro s a1 a2 a3 a4
  unfold State.rdmaWrite
  repeat' first
    | with_reducible apply MemKept.refl
    | exact Eq.refl true
    | with_reducible apply MemKept.ite
    | with_reducible apply MemKept.foldl
    | with_reducible apply MemKept.step ?_ (State.modQp_only _ _ _)
    | with_reducible apply MemKept.step ?_ (State.ack_only _ _ _)
    | with_reducible apply MemKept.step ?_ (State.nak_only _ _ _ _ _)
    | with_reducible apply MemKept.trans ?_ (State.landRdma_mem _ _ _ _ _)
    | with_reducible apply MemKept.step ?_ (State.advance_only _ _ _)
    | with_reducible intro _
    | split
    | dsimp only [id]

theorem execRdmaWriteOnly_mem : ∀ a0 a1 a2 s, OutMemKept s (execRdmaWriteOnly a0 a1 a2 s) := by
  intro a0 a1 a2 s
  unfold execRdmaWriteOnly
  repeat' first
    | with_reducible apply MemKept.refl
    | exact Eq.refl true
    | with_reducible apply OutMemKept.next
    | with_reducible apply OutMemKept.occurs
    | with_reducible apply OutMemKept.ite
    | with_reducible apply MemKept.ite
    | with_reducible apply MemKept.foldl
    | with_reducible apply MemKept.step ?_ (State.ack_only _ _ _)
    | with_reducible apply State.request_mem
    | with_reducible apply MemKept.trans ?_ (State.rdmaWrite_mem _ _ _ _ _)
    | with_reducible intro _
    | split
    | dsimp only [id]

theorem execRdmaWriteFirst_mem : ∀ a0 a1 a2 s, OutMemKept s (execRdmaWriteFirst a0 a1 a2 s) := by
  intro a0 a1 a2 s
  unfold execRdmaWriteFirst
  repeat' first
    | with_reducible apply MemKept.refl
    | exact Eq.refl true
    | with_reducible apply OutMemKept.next
    | with_reducible apply OutMemKept.occurs
    | with_reducible apply OutMemKept.ite
    | with_reducible apply MemKept.ite
    | with_reducible apply MemKept.foldl
    | with_reducible apply MemKept.step ?_ (State.ack_only _ _ _)
    | with_reducible apply State.request_mem
    | with_reducible apply MemKept.trans ?_ (State.rdmaWrite_mem _ _ _ _ _)
    | with_reducible intro _
    | split
    | dsimp only [id]

end Sys2Proof.Machine
end

