-- ==== Sys2Proof/Laws/OnlyAdmission.lean ====
section
/-!
SUPPORT. For each operation and meaning of Machine/Admission.lean: the parts of the state that it can change.
-/

set_option linter.unreachableTactic false
set_option linter.unusedTactic false

namespace Sys2Proof.Machine

theorem State.takeWork_only : ∀ s a1 a2 a3 a4, ChangesOnly [.bays, .sessions, .portq, .jetty] s (State.takeWork s a1 a2 a3 a4) := by
  intro s a1 a2 a3 a4
  unfold State.takeWork
  repeat' first
    | with_reducible apply ChangesOnly.refl
    | exact Eq.refl true
    | with_reducible apply ChangesOnly.ite
    | with_reducible apply ChangesOnly.foldl
    | with_reducible apply ChangesOnly.step ?_ (State.answerCmd_only _ _ _ _ _ _)
    | with_reducible apply ChangesOnly.step ?_ (State.modBay_only _ _ _)
    | with_reducible apply ChangesOnly.step ?_ (State.refuse_only _ _ _)
    | with_reducible apply ChangesOnly.step ?_ (State.outstand_only _ _)
    | with_reducible apply ChangesOnly.step ?_ (State.acceptLong_only _ _)
    | with_reducible intro _
    | split
    | dsimp only [id]

theorem State.submit_only : ∀ s a1 a2 a3 a4, ChangesOnly [.bays, .sessions, .portq, .jetty] s (State.submit s a1 a2 a3 a4) := by
  intro s a1 a2 a3 a4
  unfold State.submit
  repeat' first
    | with_reducible apply ChangesOnly.refl
    | exact Eq.refl true
    | with_reducible apply ChangesOnly.ite
    | with_reducible apply ChangesOnly.foldl
    | with_reducible apply ChangesOnly.step ?_ (State.takeWork_only _ _ _ _ _)
    | with_reducible apply ChangesOnly.step ?_ (State.complete_only _ _ _)
    | with_reducible apply ChangesOnly.step ?_ (State.reject_only _ _ _)
    | with_reducible apply ChangesOnly.step ?_ (State.acceptLong_only _ _)
    | with_reducible intro _
    | split
    | dsimp only [id]

theorem execRun_only : ∀ a0 s, Leaves [.bays, .sessions, .portq, .jetty] s (execRun a0 s) := by
  intro a0 s
  unfold execRun
  repeat' first
    | with_reducible apply ChangesOnly.refl
    | with_reducible apply State.parse_only
    | exact Eq.refl true
    | with_reducible apply Leaves.next
    | with_reducible apply Leaves.occurs
    | with_reducible apply Leaves.ite
    | with_reducible apply ChangesOnly.ite
    | with_reducible apply ChangesOnly.foldl
    | with_reducible apply ChangesOnly.step ?_ (State.submit_only _ _ _ _ _)
    | with_reducible intro _
    | split
    | dsimp only [id]

theorem State.answerQuery_only : ∀ s a1 a2 a3, ChangesOnly [.sessions, .portq, .jetty] s (State.answerQuery s a1 a2 a3) := by
  intro s a1 a2 a3
  unfold State.answerQuery
  repeat' first
    | with_reducible apply ChangesOnly.refl
    | exact Eq.refl true
    | with_reducible apply ChangesOnly.ite
    | with_reducible apply ChangesOnly.foldl
    | with_reducible apply ChangesOnly.step ?_ (State.doneAtOnce_only _ _ _ _)
    | with_reducible intro _
    | split
    | dsimp only [id]

theorem execQueryBaySummary_only : ∀ a0 s, Leaves [.sessions, .portq, .jetty] s (execQueryBaySummary a0 s) := by
  intro a0 s
  unfold execQueryBaySummary
  repeat' first
    | with_reducible apply ChangesOnly.refl
    | with_reducible apply State.parse_only
    | exact Eq.refl true
    | with_reducible apply Leaves.next
    | with_reducible apply Leaves.occurs
    | with_reducible apply Leaves.ite
    | with_reducible apply ChangesOnly.ite
    | with_reducible apply ChangesOnly.foldl
    | with_reducible apply ChangesOnly.step ?_ (State.answerQuery_only _ _ _ _)
    | with_reducible intro _
    | split
    | dsimp only [id]

theorem State.cancelWorkOf_only : ∀ s a1 a2 a3, ChangesOnly [.clk, .coves, .ctrls, .streams, .bays, .sessions, .portq, .jetty, .net] s (State.cancelWorkOf s a1 a2 a3) := by
  intro s a1 a2 a3
  unfold State.cancelWorkOf
  repeat' first
    | with_reducible apply ChangesOnly.refl
    | exact Eq.refl true
    | with_reducible apply ChangesOnly.ite
    | with_reducible apply ChangesOnly.foldl
    | with_reducible apply ChangesOnly.step ?_ (State.modBay_only _ _ _)
    | with_reducible apply ChangesOnly.step ?_ (State.completeWork_only _ _ _ _)
    | with_reducible apply ChangesOnly.step ?_ (State.atBoundary_only _ _)
    | with_reducible intro _
    | split
    | dsimp only [id]

theorem execCancel_only : ∀ a0 s, Leaves [.clk, .coves, .ctrls, .streams, .bays, .sessions, .portq, .jetty, .net] s (execCancel a0 s) := by
  intro a0 s
  unfold execCancel
  repeat' first
    | with_reducible apply ChangesOnly.refl
    | with_reducible apply State.parse_only
    | exact Eq.refl true
    | with_reducible apply Leaves.next
    | with_reducible apply Leaves.occurs
    | with_reducible apply Leaves.ite
    | with_reducible apply ChangesOnly.ite
    | with_reducible apply ChangesOnly.foldl
    | with_reducible apply ChangesOnly.step ?_ (State.reject_only _ _ _)
    | with_reducible apply ChangesOnly.step ?_ (State.accept_only _ _)
    | with_reducible apply ChangesOnly.step ?_ (State.cancelWorkOf_only _ _ _ _)
    | with_reducible intro _
    | split
    | dsimp only [id]

theorem execQueryRunQueue_only : ∀ a0 s, Leaves [.sessions, .portq, .jetty] s (execQueryRunQueue a0 s) := by
  intro a0 s
  unfold execQueryRunQueue
  repeat' first
    | with_reducible apply ChangesOnly.refl
    | with_reducible apply State.parse_only
    | exact Eq.refl true
    | with_reducible apply Leaves.next
    | with_reducible apply Leaves.occurs
    | with_reducible apply Leaves.ite
    | with_reducible apply ChangesOnly.ite
    | with_reducible apply ChangesOnly.foldl
    | with_reducible apply ChangesOnly.step ?_ (State.answerQuery_only _ _ _ _)
    | with_reducible intro _
    | split
    | dsimp only [id]

theorem execQuerySessionEnergy_only : ∀ a0 s, Leaves [.sessions, .portq, .jetty] s (execQuerySessionEnergy a0 s) := by
  intro a0 s
  unfold execQuerySessionEnergy
  repeat' first
    | with_reducible apply ChangesOnly.refl
    | with_reducible apply State.parse_only
    | exact Eq.refl true
    | with_reducible apply Leaves.next
    | with_reducible apply Leaves.occurs
    | with_reducible apply Leaves.ite
    | with_reducible apply ChangesOnly.ite
    | with_reducible apply ChangesOnly.foldl
    | with_reducible apply ChangesOnly.step ?_ (State.answerQuery_only _ _ _ _)
    | with_reducible intro _
    | split
    | dsimp only [id]

theorem execQueryAdmissionTrial_only : ∀ a0 s, Leaves [.sessions, .portq, .jetty] s (execQueryAdmissionTrial a0 s) := by
  intro a0 s
  unfold execQueryAdmissionTrial
  repeat' first
    | with_reducible apply ChangesOnly.refl
    | with_reducible apply State.parse_only
    | exact Eq.refl true
    | with_reducible apply Leaves.next
    | with_reducible apply Leaves.occurs
    | with_reducible apply Leaves.ite
    | with_reducible apply ChangesOnly.ite
    | with_reducible apply ChangesOnly.foldl
    | with_reducible apply ChangesOnly.step ?_ (State.answerQuery_only _ _ _ _)
    | with_reducible intro _
    | split
    | dsimp only [id]

theorem execGenerate_only : ∀ a0 s, Leaves [.bays, .sessions, .portq, .jetty] s (execGenerate a0 s) := by
  intro a0 s
  unfold execGenerate
  repeat' first
    | with_reducible apply ChangesOnly.refl
    | with_reducible apply State.parse_only
    | exact Eq.refl true
    | with_reducible apply Leaves.next
    | with_reducible apply Leaves.occurs
    | with_reducible apply Leaves.ite
    | with_reducible apply ChangesOnly.ite
    | with_reducible apply ChangesOnly.foldl
    | with_reducible apply ChangesOnly.step ?_ (State.submit_only _ _ _ _ _)
    | with_reducible intro _
    | split
    | dsimp only [id]

end Sys2Proof.Machine
end

