-- ==== Sys2Proof/Laws/OnlyEddy.lean ====
section
/-!
SUPPORT. For each operation and meaning of Machine/Eddy.lean: the parts of the state that it can change.
-/

set_option linter.unreachableTactic false
set_option linter.unusedTactic false

namespace Sys2Proof.Machine

theorem State.eddyStands_only : ∀ s a1 a2, ChangesOnly [.clk, .coves, .ctrls, .streams, .bays, .sessions, .portq, .jetty, .net, .mg] s (State.eddyStands s a1 a2) := by
  intro s a1 a2
  unfold State.eddyStands
  repeat' first
    | with_reducible apply ChangesOnly.refl
    | exact Eq.refl true
    | with_reducible apply ChangesOnly.ite
    | with_reducible apply ChangesOnly.foldl
    | with_reducible apply ChangesOnly.step ?_ (State.modBay_only _ _ _)
    | with_reducible apply ChangesOnly.step ?_ (State.stopBay_only _ _ _)
    | with_reducible intro _
    | split
    | dsimp only [id]

theorem State.eddyFails_only : ∀ s a1, ChangesOnly [.coves, .bays, .sessions, .portq, .integ, .rot, .su, .mg] s (State.eddyFails s a1) := by
  intro s a1
  unfold State.eddyFails
  repeat' first
    | with_reducible apply ChangesOnly.refl
    | exact Eq.refl true
    | with_reducible apply ChangesOnly.ite
    | with_reducible apply ChangesOnly.foldl
    | with_reducible apply ChangesOnly.step ?_ (State.modField_only _ _ _)
    | with_reducible apply ChangesOnly.step ?_ (State.fenceTested_only _ _)
    | with_reducible apply ChangesOnly.step ?_ (State.failTest_only _ _ _)
    | with_reducible apply ChangesOnly.step ?_ (State.logCove_only _ _ _)
    | with_reducible apply ChangesOnly.step ?_ (State.fenceStart_only _ _)
    | with_reducible intro _
    | split
    | dsimp only [id]

theorem State.eddyKeep_only : ∀ s a1 a2 a3, ChangesOnly [.bays, .rot] s (State.eddyKeep s a1 a2 a3) := by
  intro s a1 a2 a3
  unfold State.eddyKeep
  repeat' first
    | with_reducible apply ChangesOnly.refl
    | exact Eq.refl true
    | with_reducible apply ChangesOnly.ite
    | with_reducible apply ChangesOnly.foldl
    | with_reducible apply ChangesOnly.step ?_ (State.modBay_only _ _ _)
    | with_reducible apply ChangesOnly.step ?_ (State.modCoveTest_only _ _ _)
    | with_reducible intro _
    | split
    | dsimp only [id]

theorem execEddyPass_only : ∀ a0 s, Leaves [.clk, .coves, .ctrls, .streams, .bays, .sessions, .portq, .jetty, .integ, .rot, .net, .su, .mg] s (execEddyPass a0 s) := by
  intro a0 s
  unfold execEddyPass
  repeat' first
    | with_reducible apply ChangesOnly.refl
    | exact Eq.refl true
    | with_reducible apply Leaves.next
    | with_reducible apply Leaves.occurs
    | with_reducible apply Leaves.ite
    | with_reducible apply ChangesOnly.ite
    | with_reducible apply ChangesOnly.foldl
    | with_reducible apply ChangesOnly.step ?_ (State.eddyStands_only _ _ _)
    | with_reducible apply ChangesOnly.step ?_ (State.modCoveTest_only _ _ _)
    | with_reducible apply ChangesOnly.step ?_ (State.eddyKeep_only _ _ _ _)
    | with_reducible apply ChangesOnly.step ?_ (State.eddyFails_only _ _)
    | with_reducible intro _
    | split
    | dsimp only [id]

end Sys2Proof.Machine
end

