-- ==== Sys2Proof/Laws/OnlyJettyMisc.lean ====
section
/-!
SUPPORT. For each operation and meaning of Machine/JettyMisc.lean: the parts of the state that it can change.
-/

set_option linter.unreachableTactic false
set_option linter.unusedTactic false

namespace Sys2Proof.Machine

theorem execResend_only : ∀ a0 s, Leaves [.sessions, .portq, .jetty] s (execResend a0 s) := by
  intro a0 s
  unfold execResend
  repeat' first
    | with_reducible apply ChangesOnly.refl
    | with_reducible apply State.parse_only
    | exact Eq.refl true
    | with_reducible apply Leaves.next
    | with_reducible apply Leaves.occurs
    | with_reducible apply Leaves.ite
    | with_reducible apply ChangesOnly.ite
    | with_reducible apply ChangesOnly.foldl
    | with_reducible apply ChangesOnly.step ?_ (State.reject_only _ _ _)
    | with_reducible apply ChangesOnly.step ?_ (State.transmit_only _ _ _)
    | with_reducible apply ChangesOnly.step ?_ (State.accept_only _ _)
    | with_reducible intro _
    | split
    | dsimp only [id]

theorem execBayReset_only : ∀ a0 s, Leaves [.bays, .sessions, .portq, .jetty] s (execBayReset a0 s) := by
  intro a0 s
  unfold execBayReset
  repeat' first
    | with_reducible apply ChangesOnly.refl
    | with_reducible apply State.parse_only
    | exact Eq.refl true
    | with_reducible apply Leaves.next
    | with_reducible apply Leaves.occurs
    | with_reducible apply Leaves.ite
    | with_reducible apply ChangesOnly.ite
    | with_reducible apply ChangesOnly.foldl
    | with_reducible apply ChangesOnly.step ?_ (State.modBay_only _ _ _)
    | with_reducible apply ChangesOnly.step ?_ (State.acceptLong_only _ _)
    | with_reducible intro _
    | split
    | dsimp only [id]

theorem execMaintenanceClose_only : ∀ a0 s, Leaves [.sessions, .portq, .jetty] s (execMaintenanceClose a0 s) := by
  intro a0 s
  unfold execMaintenanceClose
  repeat' first
    | with_reducible exact Or.inl rfl
    | with_reducible exact Or.inr rfl
    | exact Or.inl rfl
    | with_reducible apply ChangesOnly.refl
    | with_reducible apply State.parse_only
    | exact Eq.refl true
    | with_reducible apply Leaves.next
    | with_reducible apply Leaves.occurs
    | with_reducible apply Leaves.ite
    | with_reducible apply ChangesOnly.ite
    | with_reducible apply ChangesOnly.foldl
    | with_reducible apply ChangesOnly.step ?_ (State.doneAtOnce_only _ _ _ _)
    | with_reducible apply ChangesOnly.step ?_ (State.acceptLong_only _ _)
    | with_reducible intro _
    | split
    | dsimp only [id]
    | with_reducible apply ChangesOnly.record

theorem execCapSetModule_only : ∀ a0 s, Leaves [.sessions, .portq, .jetty, .pwr] s (execCapSetModule a0 s) := by
  intro a0 s
  unfold execCapSetModule
  repeat' first
    | with_reducible exact Or.inl rfl
    | with_reducible exact Or.inr rfl
    | exact Or.inl rfl
    | with_reducible apply ChangesOnly.refl
    | with_reducible apply State.parse_only
    | exact Eq.refl true
    | with_reducible apply Leaves.next
    | with_reducible apply Leaves.occurs
    | with_reducible apply Leaves.ite
    | with_reducible apply ChangesOnly.ite
    | with_reducible apply ChangesOnly.foldl
    | with_reducible apply ChangesOnly.step ?_ (State.accept_only _ _)
    | with_reducible intro _
    | split
    | dsimp only [id]
    | with_reducible apply ChangesOnly.record

theorem State.freeSoft_only : ∀ s a1 a2 a3, ChangesOnly [.ctrls, .su] s (State.freeSoft s a1 a2 a3) := by
  intro s a1 a2 a3
  unfold State.freeSoft
  repeat' first
    | with_reducible apply ChangesOnly.refl
    | exact Eq.refl true
    | with_reducible apply ChangesOnly.ite
    | with_reducible apply ChangesOnly.foldl
    | with_reducible apply ChangesOnly.step ?_ (State.journalFree_only _ _ _ _)
    | with_reducible apply ChangesOnly.step ?_ (State.modStack_only _ _ _)
    | with_reducible intro _
    | split
    | dsimp only [id]

theorem execModuleReset_only : ∀ a0 s, Leaves [.sessions, .ports, .portq, .jetty] s (execModuleReset a0 s) := by
  intro a0 s
  unfold execModuleReset
  repeat' first
    | with_reducible exact Or.inl rfl
    | with_reducible exact Or.inr rfl
    | exact Or.inl rfl
    | with_reducible apply ChangesOnly.refl
    | with_reducible apply State.parse_only
    | exact Eq.refl true
    | with_reducible apply Leaves.next
    | with_reducible apply Leaves.occurs
    | with_reducible apply Leaves.ite
    | with_reducible apply ChangesOnly.ite
    | with_reducible apply ChangesOnly.foldl
    | with_reducible apply ChangesOnly.step ?_ (State.depart_only _ _ _ _)
    | with_reducible apply ChangesOnly.step ?_ (State.accept_only _ _)
    | with_reducible intro _
    | split
    | dsimp only [id]
    | with_reducible apply ChangesOnly.record

theorem State.freeTalus_only : ∀ s a1 a2 a3, ChangesOnly [.ctrls, .su] s (State.freeTalus s a1 a2 a3) := by
  intro s a1 a2 a3
  unfold State.freeTalus
  repeat' first
    | with_reducible apply ChangesOnly.refl
    | exact Eq.refl true
    | with_reducible apply ChangesOnly.ite
    | with_reducible apply ChangesOnly.foldl
    | with_reducible apply ChangesOnly.step ?_ (State.journalFree_only _ _ _ _)
    | with_reducible apply ChangesOnly.step ?_ (State.modStack_only _ _ _)
    | with_reducible intro _
    | split
    | dsimp only [id]

theorem execHardRepairDone_only : ∀ a0 s, Leaves [.ctrls, .sessions, .portq, .jetty, .su] s (execHardRepairDone a0 s) := by
  intro a0 s
  unfold execHardRepairDone
  repeat' first
    | with_reducible exact Or.inl rfl
    | with_reducible exact Or.inr rfl
    | exact Or.inl rfl
    | with_reducible apply ChangesOnly.refl
    | exact Eq.refl true
    | with_reducible apply Leaves.next
    | with_reducible apply Leaves.occurs
    | with_reducible apply Leaves.ite
    | with_reducible apply ChangesOnly.ite
    | with_reducible apply ChangesOnly.foldl
    | with_reducible apply ChangesOnly.step ?_ (State.complete_only _ _ _)
    | with_reducible apply ChangesOnly.step ?_ (State.freeTalus_only _ _ _ _)
    | with_reducible apply ChangesOnly.step ?_ (State.freeSoft_only _ _ _ _)
    | with_reducible intro _
    | split
    | dsimp only [id]
    | with_reducible apply ChangesOnly.record

theorem execCapSetBay_only : ∀ a0 s, Leaves [.bays, .sessions, .portq, .jetty] s (execCapSetBay a0 s) := by
  intro a0 s
  unfold execCapSetBay
  repeat' first
    | with_reducible apply ChangesOnly.refl
    | with_reducible apply State.parse_only
    | exact Eq.refl true
    | with_reducible apply Leaves.next
    | with_reducible apply Leaves.occurs
    | with_reducible apply Leaves.ite
    | with_reducible apply ChangesOnly.ite
    | with_reducible apply ChangesOnly.foldl
    | with_reducible apply ChangesOnly.step ?_ (State.modBay_only _ _ _)
    | with_reducible apply ChangesOnly.step ?_ (State.accept_only _ _)
    | with_reducible intro _
    | split
    | dsimp only [id]

theorem execMaintenanceOpen_only : ∀ a0 s, Leaves [.sessions, .portq, .jetty] s (execMaintenanceOpen a0 s) := by
  intro a0 s
  unfold execMaintenanceOpen
  repeat' first
    | with_reducible exact Or.inl rfl
    | with_reducible exact Or.inr rfl
    | exact Or.inl rfl
    | with_reducible apply ChangesOnly.refl
    | with_reducible apply State.parse_only
    | exact Eq.refl true
    | with_reducible apply Leaves.next
    | with_reducible apply Leaves.occurs
    | with_reducible apply Leaves.ite
    | with_reducible apply ChangesOnly.ite
    | with_reducible apply ChangesOnly.foldl
    | with_reducible apply ChangesOnly.step ?_ (State.reject_only _ _ _)
    | with_reducible apply ChangesOnly.step ?_ (State.acceptLong_only _ _)
    | with_reducible intro _
    | split
    | dsimp only [id]
    | with_reducible apply ChangesOnly.record

theorem execStepHint_only : ∀ a0 s, Leaves [.bays, .sessions, .portq, .jetty] s (execStepHint a0 s) := by
  intro a0 s
  unfold execStepHint
  repeat' first
    | with_reducible apply ChangesOnly.refl
    | with_reducible apply State.parse_only
    | exact Eq.refl true
    | with_reducible apply Leaves.next
    | with_reducible apply Leaves.occurs
    | with_reducible apply Leaves.ite
    | with_reducible apply ChangesOnly.ite
    | with_reducible apply ChangesOnly.foldl
    | with_reducible apply ChangesOnly.step ?_ (State.modBay_only _ _ _)
    | with_reducible apply ChangesOnly.step ?_ (State.accept_only _ _)
    | with_reducible intro _
    | split
    | dsimp only [id]

end Sys2Proof.Machine
end

