-- ==== Sys2Proof/Laws/OnlySessions.lean ====
section
/-!
SUPPORT. For each operation and meaning of Machine/Sessions.lean: the parts of the state that it can change.
-/

set_option linter.unreachableTactic false
set_option linter.unusedTactic false

namespace Sys2Proof.Machine

theorem execRegionGrant_only : ∀ a0 s, Leaves [.free, .sessions, .portq, .jetty] s (execRegionGrant a0 s) := by
  intro a0 s
  unfold execRegionGrant
  repeat' first
    | with_reducible apply ChangesOnly.refl
    | with_reducible apply State.parse_only
    | exact Eq.refl true
    | with_reducible apply Leaves.next
    | with_reducible apply Leaves.occurs
    | with_reducible apply Leaves.ite
    | with_reducible apply ChangesOnly.ite
    | with_reducible apply ChangesOnly.foldl
    | with_reducible apply ChangesOnly.step ?_ (State.modSess_only _ _ _)
    | with_reducible apply ChangesOnly.step ?_ (State.spend_only _ _)
    | with_reducible apply ChangesOnly.step ?_ (State.refuse_only _ _ _)
    | with_reducible apply ChangesOnly.step ?_ (State.reject_only _ _ _)
    | with_reducible apply ChangesOnly.step ?_ (State.doneAtOnce_only _ _ _ _)
    | with_reducible intro _
    | split
    | dsimp only [id]

theorem State.sendSoundings_only : ∀ s a1, ChangesOnly [.sessions, .portq] s (State.sendSoundings s a1) := by
  intro s a1
  unfold State.sendSoundings
  repeat' first
    | with_reducible apply ChangesOnly.refl
    | exact Eq.refl true
    | with_reducible apply ChangesOnly.ite
    | with_reducible apply ChangesOnly.foldl
    | with_reducible apply ChangesOnly.step ?_ (State.sendSess_only _ _ _ _)
    | with_reducible intro _
    | split
    | dsimp only [id]

theorem State.openDone_only : ∀ s a1 a2, ChangesOnly [.sessions, .portq] s (State.openDone s a1 a2) := by
  intro s a1 a2
  unfold State.openDone
  repeat' first
    | with_reducible apply ChangesOnly.refl
    | exact Eq.refl true
    | with_reducible apply ChangesOnly.ite
    | with_reducible apply ChangesOnly.foldl
    | with_reducible apply ChangesOnly.step ?_ (State.sendSess_only _ _ _ _)
    | with_reducible apply ChangesOnly.step ?_ (State.sendSoundings_only _ _)
    | with_reducible intro _
    | split
    | dsimp only [id]

theorem State.closeSession_only : ∀ s a1, ChangesOnly [.clk, .coves, .ctrls, .streams, .bays, .sessions, .portq, .jetty, .net, .ident] s (State.closeSession s a1) := by
  intro s a1
  unfold State.closeSession
  repeat' first
    | with_reducible exact Or.inl rfl
    | with_reducible exact Or.inr rfl
    | exact Or.inl rfl
    | with_reducible apply ChangesOnly.refl
    | exact Eq.refl true
    | with_reducible apply ChangesOnly.ite
    | with_reducible apply ChangesOnly.foldl
    | with_reducible apply ChangesOnly.step ?_ (State.modSess_only _ _ _)
    | with_reducible apply ChangesOnly.step ?_ (State.modBay_only _ _ _)
    | with_reducible apply ChangesOnly.step ?_ (State.atBoundary_only _ _)
    | with_reducible intro _
    | split
    | dsimp only [id]
    | with_reducible apply ChangesOnly.record

theorem execSessionClose_only : ∀ a0 s, Leaves [.clk, .coves, .ctrls, .streams, .bays, .sessions, .portq, .jetty, .net, .ident] s (execSessionClose a0 s) := by
  intro a0 s
  unfold execSessionClose
  repeat' first
    | with_reducible apply ChangesOnly.refl
    | with_reducible apply State.parse_only
    | exact Eq.refl true
    | with_reducible apply Leaves.next
    | with_reducible apply Leaves.occurs
    | with_reducible apply Leaves.ite
    | with_reducible apply ChangesOnly.ite
    | with_reducible apply ChangesOnly.foldl
    | with_reducible apply ChangesOnly.step ?_ (State.closeSession_only _ _)
    | with_reducible apply ChangesOnly.step ?_ (State.accept_only _ _)
    | with_reducible intro _
    | split
    | dsimp only [id]

theorem State.openFails_only : ∀ s a1 a2 a3, ChangesOnly [.sessions, .portq] s (State.openFails s a1 a2 a3) := by
  intro s a1 a2 a3
  unfold State.openFails
  repeat' first
    | with_reducible apply ChangesOnly.refl
    | exact Eq.refl true
    | with_reducible apply ChangesOnly.ite
    | with_reducible apply ChangesOnly.foldl
    | with_reducible apply ChangesOnly.step ?_ (State.modSess_only _ _ _)
    | with_reducible apply ChangesOnly.step ?_ (State.sendBare_only _ _ _ _)
    | with_reducible intro _
    | split
    | dsimp only [id]

theorem State.resumeOpen_only : ∀ s a1 a2 a3, ChangesOnly [.sessions, .portq] s (State.resumeOpen s a1 a2 a3) := by
  intro s a1 a2 a3
  unfold State.resumeOpen
  repeat' first
    | with_reducible apply ChangesOnly.refl
    | exact Eq.refl true
    | with_reducible apply ChangesOnly.ite
    | with_reducible apply ChangesOnly.foldl
    | with_reducible apply ChangesOnly.step ?_ (State.modSess_only _ _ _)
    | with_reducible apply ChangesOnly.step ?_ (State.openFails_only _ _ _ _)
    | with_reducible apply ChangesOnly.step ?_ (State.openDone_only _ _ _)
    | with_reducible intro _
    | split
    | dsimp only [id]

theorem execRegionRevoke_only : ∀ a0 s, Leaves [.sessions, .portq, .jetty] s (execRegionRevoke a0 s) := by
  intro a0 s
  unfold execRegionRevoke
  repeat' first
    | with_reducible apply ChangesOnly.refl
    | with_reducible apply State.parse_only
    | exact Eq.refl true
    | with_reducible apply Leaves.next
    | with_reducible apply Leaves.occurs
    | with_reducible apply Leaves.ite
    | with_reducible apply ChangesOnly.ite
    | with_reducible apply ChangesOnly.foldl
    | with_reducible apply ChangesOnly.step ?_ (State.modSess_only _ _ _)
    | with_reducible apply ChangesOnly.step ?_ (State.accept_only _ _)
    | with_reducible intro _
    | split
    | dsimp only [id]

theorem execSessionVerifyDone_only : ∀ a0 s, Leaves [.sessions, .qps, .portq] s (execSessionVerifyDone a0 s) := by
  intro a0 s
  unfold execSessionVerifyDone
  repeat' first
    | with_reducible apply ChangesOnly.refl
    | exact Eq.refl true
    | with_reducible apply Leaves.next
    | with_reducible apply Leaves.occurs
    | with_reducible apply Leaves.ite
    | with_reducible apply ChangesOnly.ite
    | with_reducible apply ChangesOnly.foldl
    | with_reducible apply ChangesOnly.step ?_ (State.resumeOpen_only _ _ _ _)
    | with_reducible apply ChangesOnly.step ?_ (State.modSess_only _ _ _)
    | with_reducible apply ChangesOnly.step ?_ (State.modQp_only _ _ _)
    | with_reducible apply ChangesOnly.step ?_ (State.openFails_only _ _ _ _)
    | with_reducible apply ChangesOnly.step ?_ (State.openDone_only _ _ _)
    | with_reducible intro _
    | split
    | dsimp only [id]

theorem execSessionOrphanTimeout_only : ∀ a0 a1 s, Leaves [.clk, .coves, .ctrls, .streams, .bays, .sessions, .portq, .jetty, .net, .ident] s (execSessionOrphanTimeout a0 a1 s) := by
  intro a0 a1 s
  unfold execSessionOrphanTimeout
  repeat' first
    | with_reducible apply ChangesOnly.refl
    | exact Eq.refl true
    | with_reducible apply Leaves.next
    | with_reducible apply Leaves.occurs
    | with_reducible apply Leaves.ite
    | with_reducible apply ChangesOnly.ite
    | with_reducible apply ChangesOnly.foldl
    | with_reducible apply ChangesOnly.step ?_ (State.closeSession_only _ _)
    | with_reducible intro _
    | split
    | dsimp only [id]

theorem execSessionOpen_only : ∀ a0 s, Leaves [.free, .sessions, .qps, .portq, .jetty] s (execSessionOpen a0 s) := by
  intro a0 s
  unfold execSessionOpen
  repeat' first
    | with_reducible apply ChangesOnly.refl
    | with_reducible apply State.parse_only
    | exact Eq.refl true
    | with_reducible apply Leaves.next
    | with_reducible apply Leaves.occurs
    | with_reducible apply Leaves.ite
    | with_reducible apply ChangesOnly.ite
    | with_reducible apply ChangesOnly.foldl
    | with_reducible apply ChangesOnly.step ?_ (State.modSess_only _ _ _)
    | with_reducible apply ChangesOnly.step ?_ (State.modQp_only _ _ _)
    | with_reducible apply ChangesOnly.step ?_ (State.spend_only _ _)
    | with_reducible apply ChangesOnly.step ?_ (State.refuse_only _ _ _)
    | with_reducible apply ChangesOnly.step ?_ (State.reject_only _ _ _)
    | with_reducible apply ChangesOnly.step ?_ (State.accept_only _ _)
    | with_reducible intro _
    | split
    | dsimp only [id]

end Sys2Proof.Machine
end

