-- ==== Sys2Proof/Laws/OnlySteps.lean ====
section
/-!
SUPPORT. For each operation and meaning of Machine/Steps.lean: the parts of the state that it can change.
-/

set_option linter.unreachableTactic false
set_option linter.unusedTactic false

namespace Sys2Proof.Machine

theorem State.holdMoves_only : ∀ s a1, ChangesOnly [.rot] s (State.holdMoves s a1) := by
  intro s a1
  unfold State.holdMoves
  repeat' first
    | with_reducible exact Or.inl rfl
    | with_reducible exact Or.inr rfl
    | exact Or.inl rfl
    | with_reducible apply ChangesOnly.refl
    | exact Eq.refl true
    | with_reducible apply ChangesOnly.ite
    | with_reducible apply ChangesOnly.foldl
    | with_reducible intro _
    | split
    | dsimp only [id]
    | with_reducible apply ChangesOnly.record

theorem State.judgeRun_only : ∀ s a1 a2, ChangesOnly [.free, .bays] s (State.judgeRun s a1 a2) := by
  intro s a1 a2
  unfold State.judgeRun
  repeat' first
    | with_reducible apply ChangesOnly.refl
    | exact Eq.refl true
    | with_reducible apply ChangesOnly.ite
    | with_reducible apply ChangesOnly.foldl
    | with_reducible apply ChangesOnly.step ?_ (State.modBay_only _ _ _)
    | with_reducible apply ChangesOnly.step ?_ (State.spend_only _ _)
    | with_reducible intro _
    | split
    | dsimp only [id]

theorem State.boundaryVotes_only : ∀ s a1 a2, ChangesOnly [.coves, .bays] s (State.boundaryVotes s a1 a2) := by
  intro s a1 a2
  unfold State.boundaryVotes
  repeat' first
    | with_reducible apply ChangesOnly.refl
    | exact Eq.refl true
    | with_reducible apply ChangesOnly.ite
    | with_reducible apply ChangesOnly.foldl
    | with_reducible apply ChangesOnly.step ?_ (State.modCove_only _ _ _)
    | with_reducible apply ChangesOnly.step ?_ (State.missingPairs_only _ _ _)
    | with_reducible apply ChangesOnly.step ?_ (State.modCoves_only _ _ _)
    | with_reducible intro _
    | split
    | dsimp only [id]

theorem State.boundary_only : ∀ s a1 a2, ChangesOnly [.free, .clk, .coves, .ctrls, .streams, .bays, .sessions, .portq, .jetty, .integ, .rot, .net, .su, .mg] s (State.boundary s a1 a2) := by
  intro s a1 a2
  unfold State.boundary
  repeat' first
    | with_reducible apply ChangesOnly.refl
    | exact Eq.refl true
    | with_reducible apply ChangesOnly.ite
    | with_reducible apply ChangesOnly.foldl
    | with_reducible apply ChangesOnly.step ?_ (State.judgeRun_only _ _ _)
    | with_reducible apply ChangesOnly.step ?_ (State.cancelWork_only _ _)
    | with_reducible apply ChangesOnly.step ?_ (State.modBay_only _ _ _)
    | with_reducible apply ChangesOnly.step ?_ (State.tideFault_only _ _ _ _ _)
    | with_reducible apply ChangesOnly.step ?_ (State.holdMoves_only _ _)
    | with_reducible apply ChangesOnly.step ?_ (State.boundaryVotes_only _ _ _)
    | with_reducible apply ChangesOnly.step ?_ (State.modStep_only _ _ _ _)
    | with_reducible apply ChangesOnly.step ?_ (State.modHalf_only _ _ _)
    | with_reducible apply ChangesOnly.step ?_ (State.unloadNow_only _ _)
    | with_reducible apply ChangesOnly.step ?_ (State.boundaryFences_only _ _ _)
    | with_reducible intro _
    | split
    | dsimp only [id]

theorem State.spendDrains_only : ∀ s a1, ChangesOnly [.coves, .ctrls, .streams, .bays, .net] s (State.spendDrains s a1) := by
  intro s a1
  unfold State.spendDrains
  repeat' first
    | with_reducible apply ChangesOnly.refl
    | exact Eq.refl true
    | with_reducible apply ChangesOnly.ite
    | with_reducible apply ChangesOnly.foldl
    | with_reducible apply ChangesOnly.step ?_ (State.modBay_only _ _ _)
    | with_reducible apply ChangesOnly.step ?_ (State.discard_only _ _ _)
    | with_reducible intro _
    | split
    | dsimp only [id]

theorem execVoteDeadline_only : ∀ a0 a1 s, Leaves [.clk, .coves, .ctrls, .streams, .bays, .sessions, .portq, .jetty, .rot, .net, .mg] s (execVoteDeadline a0 a1 s) := by
  intro a0 a1 s
  unfold execVoteDeadline
  repeat' first
    | with_reducible apply ChangesOnly.refl
    | exact Eq.refl true
    | with_reducible apply Leaves.next
    | with_reducible apply Leaves.occurs
    | with_reducible apply Leaves.ite
    | with_reducible apply ChangesOnly.ite
    | with_reducible apply ChangesOnly.foldl
    | with_reducible apply ChangesOnly.step ?_ (State.failStep_only _ _ _)
    | with_reducible intro _
    | split
    | dsimp only [id]

theorem State.releaseReady_only : ∀ s a1 a2, ChangesOnly [.coves, .bays, .sessions, .portq, .jetty, .mg] s (State.releaseReady s a1 a2) := by
  intro s a1 a2
  fun_induction State.releaseReady s a1 a2
  all_goals repeat' first
    | (with_reducible apply ChangesOnly.trans; rotate_left; assumption)
    | with_reducible apply ChangesOnly.refl
    | exact Eq.refl true
    | with_reducible apply ChangesOnly.ite
    | with_reducible apply ChangesOnly.foldl
    | with_reducible apply ChangesOnly.step ?_ (State.releaseStep_only _ _ _)
    | with_reducible apply ChangesOnly.step ?_ (State.modBay_only _ _ _)
    | with_reducible intro _
    | split
    | dsimp only [id]

theorem State.commitStep_only : ∀ s a1 a2, ChangesOnly [.coves, .ctrls, .streams, .bays, .sessions, .portq, .jetty, .net, .mg] s (State.commitStep s a1 a2) := by
  intro s a1 a2
  unfold State.commitStep
  repeat' first
    | with_reducible exact Or.inl rfl
    | with_reducible exact Or.inr rfl
    | exact Or.inl rfl
    | with_reducible apply ChangesOnly.refl
    | exact Eq.refl true
    | with_reducible apply ChangesOnly.ite
    | with_reducible apply ChangesOnly.foldl
    | with_reducible apply ChangesOnly.step ?_ (State.commitCloses_only _ _ _)
    | with_reducible apply ChangesOnly.step ?_ (State.modBay_only _ _ _)
    | with_reducible apply ChangesOnly.step ?_ (State.spendDrains_only _ _)
    | with_reducible apply ChangesOnly.step ?_ (State.modCoves_only _ _ _)
    | with_reducible apply ChangesOnly.step ?_ (State.releaseReady_only _ _ _)
    | with_reducible intro _
    | split
    | dsimp only [id]
    | with_reducible apply ChangesOnly.record

theorem State.newStep_only : ∀ s a1 a2 a3 a4 a5, ChangesOnly [.bays] s (State.newStep s a1 a2 a3 a4 a5) := by
  intro s a1 a2 a3 a4 a5
  unfold State.newStep
  repeat' first
    | with_reducible apply ChangesOnly.refl
    | exact Eq.refl true
    | with_reducible apply ChangesOnly.ite
    | with_reducible apply ChangesOnly.foldl
    | with_reducible apply ChangesOnly.step ?_ (State.modBay_only _ _ _)
    | with_reducible intro _
    | split
    | dsimp only [id]

theorem State.firstStep_only : ∀ s a1 a2 a3, ChangesOnly [.clk, .coves, .ctrls, .streams, .bays, .sessions, .portq, .jetty, .integ, .rot, .net, .su, .mg] s (State.firstStep s a1 a2 a3) := by
  intro s a1 a2 a3
  unfold State.firstStep
  repeat' first
    | with_reducible apply ChangesOnly.refl
    | exact Eq.refl true
    | with_reducible apply ChangesOnly.ite
    | with_reducible apply ChangesOnly.foldl
    | with_reducible apply ChangesOnly.step ?_ (State.startOn_only _ _ _ _)
    | with_reducible intro _
    | split
    | dsimp only [id]

theorem State.seat_only : ∀ s a1 a2, ChangesOnly [.bays] s (State.seat s a1 a2) := by
  intro s a1 a2
  unfold State.seat
  repeat' first
    | with_reducible apply ChangesOnly.refl
    | exact Eq.refl true
    | with_reducible apply ChangesOnly.ite
    | with_reducible apply ChangesOnly.foldl
    | with_reducible apply ChangesOnly.step ?_ (State.modBay_only _ _ _)
    | with_reducible intro _
    | split
    | dsimp only [id]

theorem State.resumeStep_only : ∀ s a1 a2, ChangesOnly [.clk, .coves, .ctrls, .streams, .bays, .sessions, .portq, .jetty, .integ, .rot, .net, .su, .mg] s (State.resumeStep s a1 a2) := by
  intro s a1 a2
  unfold State.resumeStep
  repeat' first
    | with_reducible apply ChangesOnly.refl
    | exact Eq.refl true
    | with_reducible apply ChangesOnly.ite
    | with_reducible apply ChangesOnly.foldl
    | with_reducible apply ChangesOnly.step ?_ (State.startOn_only _ _ _ _)
    | with_reducible intro _
    | split
    | dsimp only [id]

theorem State.nextStep_only (s : State) (b : Nat) (t : State) (h : s.nextStep b = some t) :
    ChangesOnly [.clk, .coves, .ctrls, .streams, .bays, .sessions, .portq, .jetty, .integ, .rot, .net, .su, .mg] s t := by
  unfold State.nextStep at h
  dsimp only at h
  repeat' split at h
  all_goals first
    | contradiction
    | (injection h; subst_vars)
    | skip
  all_goals repeat' first
    | with_reducible apply ChangesOnly.refl
    | exact Eq.refl true
    | with_reducible apply ChangesOnly.ite
    | with_reducible apply ChangesOnly.foldl
    | with_reducible apply ChangesOnly.step ?_ (State.newStep_only _ _ _ _ _ _)
    | with_reducible apply ChangesOnly.step ?_ (State.modBay_only _ _ _)
    | with_reducible apply ChangesOnly.step ?_ (State.firstStep_only _ _ _ _)
    | with_reducible apply ChangesOnly.step ?_ (State.seat_only _ _ _)
    | with_reducible apply ChangesOnly.step ?_ (State.resumeStep_only _ _ _)
    | with_reducible intro _
    | split
    | dsimp only [id]

theorem execStepStart_only : ∀ a0 s, Leaves [.clk, .coves, .ctrls, .streams, .bays, .sessions, .portq, .jetty, .integ, .rot, .net, .su, .mg] s (execStepStart a0 s) := by
  intro a0 s
  unfold execStepStart
  repeat' first
    | with_reducible apply ChangesOnly.refl
    | exact Eq.refl true
    | with_reducible apply Leaves.next
    | with_reducible apply Leaves.occurs
    | with_reducible apply Leaves.ite
    | with_reducible apply ChangesOnly.ite
    | with_reducible apply ChangesOnly.foldl
    | with_reducible apply ChangesOnly.step ?_ (State.nextStep_only _ _ _ ‹_›)
    | with_reducible apply ChangesOnly.step ?_ (State.modBay_only _ _ _)
    | with_reducible intro _
    | split
    | dsimp only [id]

theorem execCommitAck_only : ∀ a0 a1 a2 a3 s, Leaves [.coves, .bays, .sessions, .portq, .jetty, .mg] s (execCommitAck a0 a1 a2 a3 s) := by
  intro a0 a1 a2 a3 s
  unfold execCommitAck
  repeat' first
    | with_reducible apply ChangesOnly.refl
    | exact Eq.refl true
    | with_reducible apply Leaves.next
    | with_reducible apply Leaves.occurs
    | with_reducible apply Leaves.ite
    | with_reducible apply ChangesOnly.ite
    | with_reducible apply ChangesOnly.foldl
    | with_reducible apply ChangesOnly.step ?_ (State.modBay_only _ _ _)
    | with_reducible apply ChangesOnly.step ?_ (State.releaseReady_only _ _ _)
    | with_reducible intro _
    | split
    | dsimp only [id]

theorem execRollback_only : ∀ a0 a1 s, Leaves [.clk, .coves, .ctrls, .streams, .bays, .sessions, .portq, .jetty, .rot, .net, .mg] s (execRollback a0 a1 s) := by
  intro a0 a1 s
  unfold execRollback
  repeat' first
    | with_reducible apply ChangesOnly.refl
    | exact Eq.refl true
    | with_reducible apply Leaves.next
    | with_reducible apply Leaves.occurs
    | with_reducible apply Leaves.ite
    | with_reducible apply ChangesOnly.ite
    | with_reducible apply ChangesOnly.foldl
    | with_reducible apply ChangesOnly.step ?_ (State.failStep_only _ _ _)
    | with_reducible intro _
    | split
    | dsimp only [id]

theorem execCommit_only : ∀ a0 a1 s, Leaves [.coves, .ctrls, .streams, .bays, .sessions, .portq, .jetty, .net, .mg] s (execCommit a0 a1 s) := by
  intro a0 a1 s
  unfold execCommit
  repeat' first
    | with_reducible apply ChangesOnly.refl
    | exact Eq.refl true
    | with_reducible apply Leaves.next
    | with_reducible apply Leaves.occurs
    | with_reducible apply Leaves.ite
    | with_reducible apply ChangesOnly.ite
    | with_reducible apply ChangesOnly.foldl
    | with_reducible apply ChangesOnly.step ?_ (State.commitStep_only _ _ _)
    | with_reducible intro _
    | split
    | dsimp only [id]

theorem execStepBoundary_only : ∀ a0 s, Leaves [.free, .clk, .coves, .ctrls, .streams, .bays, .sessions, .portq, .jetty, .integ, .rot, .net, .su, .mg] s (execStepBoundary a0 s) := by
  intro a0 s
  unfold execStepBoundary
  repeat' first
    | with_reducible apply ChangesOnly.refl
    | exact Eq.refl true
    | with_reducible apply Leaves.next
    | with_reducible apply Leaves.occurs
    | with_reducible apply Leaves.ite
    | with_reducible apply ChangesOnly.ite
    | with_reducible apply ChangesOnly.foldl
    | with_reducible apply ChangesOnly.step ?_ (State.boundary_only _ _ _)
    | with_reducible intro _
    | split
    | dsimp only [id]

theorem execReplayStart_only : ∀ a0 s, Leaves [.free, .clk, .coves, .ctrls, .streams, .bays, .sessions, .portq, .jetty, .integ, .rot, .net, .su, .mg] s (execReplayStart a0 s) := by
  intro a0 s
  unfold execReplayStart
  repeat' first
    | with_reducible apply ChangesOnly.refl
    | exact Eq.refl true
    | with_reducible apply Leaves.next
    | with_reducible apply Leaves.occurs
    | with_reducible apply Leaves.ite
    | with_reducible apply ChangesOnly.ite
    | with_reducible apply ChangesOnly.foldl
    | with_reducible apply ChangesOnly.step ?_ (State.newStep_only _ _ _ _ _ _)
    | with_reducible apply ChangesOnly.step ?_ (State.modBay_only _ _ _)
    | with_reducible apply ChangesOnly.step ?_ (State.startOn_only _ _ _ _)
    | with_reducible apply ChangesOnly.step ?_ (State.spend_only _ _)
    | with_reducible apply ChangesOnly.step ?_ (State.modCoves_only _ _ _)
    | with_reducible intro _
    | split
    | dsimp only [id]

theorem execStepCommitLoRead_only : ∀ a0 a1 s, Leaves [.latches] s (execStepCommitLoRead a0 a1 s) := by
  intro a0 a1 s
  unfold execStepCommitLoRead
  repeat' first
    | with_reducible apply ChangesOnly.refl
    | exact Eq.refl true
    | with_reducible apply Leaves.next
    | with_reducible apply Leaves.occurs
    | with_reducible apply Leaves.ite
    | with_reducible apply ChangesOnly.ite
    | with_reducible apply ChangesOnly.foldl
    | with_reducible apply ChangesOnly.step ?_ (State.latch_only _ _ _ _)
    | with_reducible intro _
    | split
    | dsimp only [id]

end Sys2Proof.Machine
end

