-- ==== Sys2Proof/Laws/State.lean ====
section
/-!
SUPPORT. One lemma for each part of the state and each named update of it, so that no proof unfolds a record update: what the update
leaves, and what the part updated reads as afterwards.
-/

namespace Sys2Proof.Machine

@[simp] theorem State.setCove_pending (s : State) (c : Nat) (v : Cove) : (s.setCove c v).pending = s.pending := rfl
@[simp] theorem State.setCove_free (s : State) (c : Nat) (v : Cove) : (s.setCove c v).free = s.free := rfl
@[simp] theorem State.setCove_clk (s : State) (c : Nat) (v : Cove) : (s.setCove c v).clk = s.clk := rfl
@[simp] theorem State.setCove_mt (s : State) (c : Nat) (v : Cove) : (s.setCove c v).mt = s.mt := rfl
@[simp] theorem State.setCove_hbm (s : State) (c : Nat) (v : Cove) : (s.setCove c v).hbm = s.hbm := rfl
@[simp] theorem State.setCove_ctrls (s : State) (c : Nat) (v : Cove) : (s.setCove c v).ctrls = s.ctrls := rfl
@[simp] theorem State.setCove_streams (s : State) (c : Nat) (v : Cove) : (s.setCove c v).streams = s.streams := rfl
@[simp] theorem State.setCove_bays (s : State) (c : Nat) (v : Cove) : (s.setCove c v).bays = s.bays := rfl
@[simp] theorem State.setCove_sessions (s : State) (c : Nat) (v : Cove) : (s.setCove c v).sessions = s.sessions := rfl
@[simp] theorem State.setCove_qps (s : State) (c : Nat) (v : Cove) : (s.setCove c v).qps = s.qps := rfl
@[simp] theorem State.setCove_ports (s : State) (c : Nat) (v : Cove) : (s.setCove c v).ports = s.ports := rfl
@[simp] theorem State.setCove_portq (s : State) (c : Nat) (v : Cove) : (s.setCove c v).portq = s.portq := rfl
@[simp] theorem State.setCove_jetty (s : State) (c : Nat) (v : Cove) : (s.setCove c v).jetty = s.jetty := rfl
@[simp] theorem State.setCove_integ (s : State) (c : Nat) (v : Cove) : (s.setCove c v).integ = s.integ := rfl
@[simp] theorem State.setCove_rot (s : State) (c : Nat) (v : Cove) : (s.setCove c v).rot = s.rot := rfl
@[simp] theorem State.setCove_net (s : State) (c : Nat) (v : Cove) : (s.setCove c v).net = s.net := rfl
@[simp] theorem State.setCove_pwr (s : State) (c : Nat) (v : Cove) : (s.setCove c v).pwr = s.pwr := rfl
@[simp] theorem State.setCove_pwrx (s : State) (c : Nat) (v : Cove) : (s.setCove c v).pwrx = s.pwrx := rfl
@[simp] theorem State.setCove_img (s : State) (c : Nat) (v : Cove) : (s.setCove c v).img = s.img := rfl
@[simp] theorem State.setCove_su (s : State) (c : Nat) (v : Cove) : (s.setCove c v).su = s.su := rfl
@[simp] theorem State.setCove_ident (s : State) (c : Nat) (v : Cove) : (s.setCove c v).ident = s.ident := rfl
@[simp] theorem State.setCove_mg (s : State) (c : Nat) (v : Cove) : (s.setCove c v).mg = s.mg := rfl
@[simp] theorem State.setCove_pins (s : State) (c : Nat) (v : Cove) : (s.setCove c v).pins = s.pins := rfl
@[simp] theorem State.setCove_latches (s : State) (c : Nat) (v : Cove) : (s.setCove c v).latches = s.latches := rfl
@[simp] theorem State.setCove_cut (s : State) (c : Nat) (v : Cove) : (s.setCove c v).cut = s.cut := rfl

@[simp] theorem State.modCove_pending (s : State) (c : Nat) (f : Cove → Cove) : (s.modCove c f).pending = s.pending := rfl
@[simp] theorem State.modCove_free (s : State) (c : Nat) (f : Cove → Cove) : (s.modCove c f).free = s.free := rfl
@[simp] theorem State.modCove_clk (s : State) (c : Nat) (f : Cove → Cove) : (s.modCove c f).clk = s.clk := rfl
@[simp] theorem State.modCove_mt (s : State) (c : Nat) (f : Cove → Cove) : (s.modCove c f).mt = s.mt := rfl
@[simp] theorem State.modCove_hbm (s : State) (c : Nat) (f : Cove → Cove) : (s.modCove c f).hbm = s.hbm := rfl
@[simp] theorem State.modCove_ctrls (s : State) (c : Nat) (f : Cove → Cove) : (s.modCove c f).ctrls = s.ctrls := rfl
@[simp] theorem State.modCove_streams (s : State) (c : Nat) (f : Cove → Cove) : (s.modCove c f).streams = s.streams := rfl
@[simp] theorem State.modCove_bays (s : State) (c : Nat) (f : Cove → Cove) : (s.modCove c f).bays = s.bays := rfl
@[simp] theorem State.modCove_sessions (s : State) (c : Nat) (f : Cove → Cove) : (s.modCove c f).sessions = s.sessions := rfl
@[simp] theorem State.modCove_qps (s : State) (c : Nat) (f : Cove → Cove) : (s.modCove c f).qps = s.qps := rfl
@[simp] theorem State.modCove_ports (s : State) (c : Nat) (f : Cove → Cove) : (s.modCove c f).ports = s.ports := rfl
@[simp] theorem State.modCove_portq (s : State) (c : Nat) (f : Cove → Cove) : (s.modCove c f).portq = s.portq := rfl
@[simp] theorem State.modCove_jetty (s : State) (c : Nat) (f : Cove → Cove) : (s.modCove c f).jetty = s.jetty := rfl
@[simp] theorem State.modCove_integ (s : State) (c : Nat) (f : Cove → Cove) : (s.modCove c f).integ = s.integ := rfl
@[simp] theorem State.modCove_rot (s : State) (c : Nat) (f : Cove → Cove) : (s.modCove c f).rot = s.rot := rfl
@[simp] theorem State.modCove_net (s : State) (c : Nat) (f : Cove → Cove) : (s.modCove c f).net = s.net := rfl
@[simp] theorem State.modCove_pwr (s : State) (c : Nat) (f : Cove → Cove) : (s.modCove c f).pwr = s.pwr := rfl
@[simp] theorem State.modCove_pwrx (s : State) (c : Nat) (f : Cove → Cove) : (s.modCove c f).pwrx = s.pwrx := rfl
@[simp] theorem State.modCove_img (s : State) (c : Nat) (f : Cove → Cove) : (s.modCove c f).img = s.img := rfl
@[simp] theorem State.modCove_su (s : State) (c : Nat) (f : Cove → Cove) : (s.modCove c f).su = s.su := rfl
@[simp] theorem State.modCove_ident (s : State) (c : Nat) (f : Cove → Cove) : (s.modCove c f).ident = s.ident := rfl
@[simp] theorem State.modCove_mg (s : State) (c : Nat) (f : Cove → Cove) : (s.modCove c f).mg = s.mg := rfl
@[simp] theorem State.modCove_pins (s : State) (c : Nat) (f : Cove → Cove) : (s.modCove c f).pins = s.pins := rfl
@[simp] theorem State.modCove_latches (s : State) (c : Nat) (f : Cove → Cove) : (s.modCove c f).latches = s.latches := rfl
@[simp] theorem State.modCove_cut (s : State) (c : Nat) (f : Cove → Cove) : (s.modCove c f).cut = s.cut := rfl
@[simp] theorem State.modCove_get_stack (s : State) (c : Nat) (f : Cove → Cove) (j : Nat) : (s.modCove c f).stack j = s.stack j := rfl
@[simp] theorem State.modCove_get_stream (s : State) (c : Nat) (f : Cove → Cove) (j : Nat) : (s.modCove c f).stream j = s.stream j := rfl
@[simp] theorem State.modCove_get_bay (s : State) (c : Nat) (f : Cove → Cove) (j : Nat) : (s.modCove c f).bay j = s.bay j := rfl
@[simp] theorem State.modCove_get_sess (s : State) (c : Nat) (f : Cove → Cove) (j : Nat) : (s.modCove c f).sess j = s.sess j := rfl
@[simp] theorem State.modCove_get_qp (s : State) (c : Nat) (f : Cove → Cove) (j : Nat) : (s.modCove c f).qp j = s.qp j := rfl
@[simp] theorem State.modCove_get_port (s : State) (c : Nat) (f : Cove → Cove) (j : Nat) : (s.modCove c f).port j = s.port j := rfl
@[simp] theorem State.modCove_get_portQ (s : State) (c : Nat) (f : Cove → Cove) (j : Nat) : (s.modCove c f).portQ j = s.portQ j := rfl
@[simp] theorem State.modCove_get_half (s : State) (c : Nat) (f : Cove → Cove) (j : Nat) : (s.modCove c f).half j = s.half j := rfl
@[simp] theorem State.modCove_get_pll (s : State) (c : Nat) (f : Cove → Cove) (j : Nat) : (s.modCove c f).pll j = s.pll j := rfl
@[simp] theorem State.modCove_get_seamPath (s : State) (c : Nat) (f : Cove → Cove) (j : Nat) : (s.modCove c f).seamPath j = s.seamPath j := rfl
@[simp] theorem State.modCove_get_field (s : State) (c : Nat) (f : Cove → Cove) (j : Nat) : (s.modCove c f).field j = s.field j := rfl
@[simp] theorem State.modCove_get_coveTest (s : State) (c : Nat) (f : Cove → Cove) (j : Nat) : (s.modCove c f).coveTest j = s.coveTest j := rfl

@[simp] theorem State.modStack_pending (s : State) (k : Nat) (f : Stack → Stack) : (s.modStack k f).pending = s.pending := rfl
@[simp] theorem State.modStack_free (s : State) (k : Nat) (f : Stack → Stack) : (s.modStack k f).free = s.free := rfl
@[simp] theorem State.modStack_clk (s : State) (k : Nat) (f : Stack → Stack) : (s.modStack k f).clk = s.clk := rfl
@[simp] theorem State.modStack_mt (s : State) (k : Nat) (f : Stack → Stack) : (s.modStack k f).mt = s.mt := rfl
@[simp] theorem State.modStack_coves (s : State) (k : Nat) (f : Stack → Stack) : (s.modStack k f).coves = s.coves := rfl
@[simp] theorem State.modStack_hbm (s : State) (k : Nat) (f : Stack → Stack) : (s.modStack k f).hbm = s.hbm := rfl
@[simp] theorem State.modStack_streams (s : State) (k : Nat) (f : Stack → Stack) : (s.modStack k f).streams = s.streams := rfl
@[simp] theorem State.modStack_bays (s : State) (k : Nat) (f : Stack → Stack) : (s.modStack k f).bays = s.bays := rfl
@[simp] theorem State.modStack_sessions (s : State) (k : Nat) (f : Stack → Stack) : (s.modStack k f).sessions = s.sessions := rfl
@[simp] theorem State.modStack_qps (s : State) (k : Nat) (f : Stack → Stack) : (s.modStack k f).qps = s.qps := rfl
@[simp] theorem State.modStack_ports (s : State) (k : Nat) (f : Stack → Stack) : (s.modStack k f).ports = s.ports := rfl
@[simp] theorem State.modStack_portq (s : State) (k : Nat) (f : Stack → Stack) : (s.modStack k f).portq = s.portq := rfl
@[simp] theorem State.modStack_jetty (s : State) (k : Nat) (f : Stack → Stack) : (s.modStack k f).jetty = s.jetty := rfl
@[simp] theorem State.modStack_integ (s : State) (k : Nat) (f : Stack → Stack) : (s.modStack k f).integ = s.integ := rfl
@[simp] theorem State.modStack_rot (s : State) (k : Nat) (f : Stack → Stack) : (s.modStack k f).rot = s.rot := rfl
@[simp] theorem State.modStack_net (s : State) (k : Nat) (f : Stack → Stack) : (s.modStack k f).net = s.net := rfl
@[simp] theorem State.modStack_pwr (s : State) (k : Nat) (f : Stack → Stack) : (s.modStack k f).pwr = s.pwr := rfl
@[simp] theorem State.modStack_pwrx (s : State) (k : Nat) (f : Stack → Stack) : (s.modStack k f).pwrx = s.pwrx := rfl
@[simp] theorem State.modStack_img (s : State) (k : Nat) (f : Stack → Stack) : (s.modStack k f).img = s.img := rfl
@[simp] theorem State.modStack_su (s : State) (k : Nat) (f : Stack → Stack) : (s.modStack k f).su = s.su := rfl
@[simp] theorem State.modStack_ident (s : State) (k : Nat) (f : Stack → Stack) : (s.modStack k f).ident = s.ident := rfl
@[simp] theorem State.modStack_mg (s : State) (k : Nat) (f : Stack → Stack) : (s.modStack k f).mg = s.mg := rfl
@[simp] theorem State.modStack_pins (s : State) (k : Nat) (f : Stack → Stack) : (s.modStack k f).pins = s.pins := rfl
@[simp] theorem State.modStack_latches (s : State) (k : Nat) (f : Stack → Stack) : (s.modStack k f).latches = s.latches := rfl
@[simp] theorem State.modStack_cut (s : State) (k : Nat) (f : Stack → Stack) : (s.modStack k f).cut = s.cut := rfl
@[simp] theorem State.modStack_get_cove (s : State) (k : Nat) (f : Stack → Stack) (j : Nat) : (s.modStack k f).cove j = s.cove j := rfl
@[simp] theorem State.modStack_get_stream (s : State) (k : Nat) (f : Stack → Stack) (j : Nat) : (s.modStack k f).stream j = s.stream j := rfl
@[simp] theorem State.modStack_get_bay (s : State) (k : Nat) (f : Stack → Stack) (j : Nat) : (s.modStack k f).bay j = s.bay j := rfl
@[simp] theorem State.modStack_get_sess (s : State) (k : Nat) (f : Stack → Stack) (j : Nat) : (s.modStack k f).sess j = s.sess j := rfl
@[simp] theorem State.modStack_get_qp (s : State) (k : Nat) (f : Stack → Stack) (j : Nat) : (s.modStack k f).qp j = s.qp j := rfl
@[simp] theorem State.modStack_get_port (s : State) (k : Nat) (f : Stack → Stack) (j : Nat) : (s.modStack k f).port j = s.port j := rfl
@[simp] theorem State.modStack_get_portQ (s : State) (k : Nat) (f : Stack → Stack) (j : Nat) : (s.modStack k f).portQ j = s.portQ j := rfl
@[simp] theorem State.modStack_get_half (s : State) (k : Nat) (f : Stack → Stack) (j : Nat) : (s.modStack k f).half j = s.half j := rfl
@[simp] theorem State.modStack_get_pll (s : State) (k : Nat) (f : Stack → Stack) (j : Nat) : (s.modStack k f).pll j = s.pll j := rfl
@[simp] theorem State.modStack_get_seamPath (s : State) (k : Nat) (f : Stack → Stack) (j : Nat) : (s.modStack k f).seamPath j = s.seamPath j := rfl
@[simp] theorem State.modStack_get_field (s : State) (k : Nat) (f : Stack → Stack) (j : Nat) : (s.modStack k f).field j = s.field j := rfl
@[simp] theorem State.modStack_get_coveTest (s : State) (k : Nat) (f : Stack → Stack) (j : Nat) : (s.modStack k f).coveTest j = s.coveTest j := rfl

@[simp] theorem State.modStream_pending (s : State) (k : Nat) (f : StreamPort → StreamPort) : (s.modStream k f).pending = s.pending := rfl
@[simp] theorem State.modStream_free (s : State) (k : Nat) (f : StreamPort → StreamPort) : (s.modStream k f).free = s.free := rfl
@[simp] theorem State.modStream_clk (s : State) (k : Nat) (f : StreamPort → StreamPort) : (s.modStream k f).clk = s.clk := rfl
@[simp] theorem State.modStream_mt (s : State) (k : Nat) (f : StreamPort → StreamPort) : (s.modStream k f).mt = s.mt := rfl
@[simp] theorem State.modStream_coves (s : State) (k : Nat) (f : StreamPort → StreamPort) : (s.modStream k f).coves = s.coves := rfl
@[simp] theorem State.modStream_hbm (s : State) (k : Nat) (f : StreamPort → StreamPort) : (s.modStream k f).hbm = s.hbm := rfl
@[simp] theorem State.modStream_ctrls (s : State) (k : Nat) (f : StreamPort → StreamPort) : (s.modStream k f).ctrls = s.ctrls := rfl
@[simp] theorem State.modStream_bays (s : State) (k : Nat) (f : StreamPort → StreamPort) : (s.modStream k f).bays = s.bays := rfl
@[simp] theorem State.modStream_sessions (s : State) (k : Nat) (f : StreamPort → StreamPort) : (s.modStream k f).sessions = s.sessions := rfl
@[simp] theorem State.modStream_qps (s : State) (k : Nat) (f : StreamPort → StreamPort) : (s.modStream k f).qps = s.qps := rfl
@[simp] theorem State.modStream_ports (s : State) (k : Nat) (f : StreamPort → StreamPort) : (s.modStream k f).ports = s.ports := rfl
@[simp] theorem State.modStream_portq (s : State) (k : Nat) (f : StreamPort → StreamPort) : (s.modStream k f).portq = s.portq := rfl
@[simp] theorem State.modStream_jetty (s : State) (k : Nat) (f : StreamPort → StreamPort) : (s.modStream k f).jetty = s.jetty := rfl
@[simp] theorem State.modStream_integ (s : State) (k : Nat) (f : StreamPort → StreamPort) : (s.modStream k f).integ = s.integ := rfl
@[simp] theorem State.modStream_rot (s : State) (k : Nat) (f : StreamPort → StreamPort) : (s.modStream k f).rot = s.rot := rfl
@[simp] theorem State.modStream_net (s : State) (k : Nat) (f : StreamPort → StreamPort) : (s.modStream k f).net = s.net := rfl
@[simp] theorem State.modStream_pwr (s : State) (k : Nat) (f : StreamPort → StreamPort) : (s.modStream k f).pwr = s.pwr := rfl
@[simp] theorem State.modStream_pwrx (s : State) (k : Nat) (f : StreamPort → StreamPort) : (s.modStream k f).pwrx = s.pwrx := rfl
@[simp] theorem State.modStream_img (s : State) (k : Nat) (f : StreamPort → StreamPort) : (s.modStream k f).img = s.img := rfl
@[simp] theorem State.modStream_su (s : State) (k : Nat) (f : StreamPort → StreamPort) : (s.modStream k f).su = s.su := rfl
@[simp] theorem State.modStream_ident (s : State) (k : Nat) (f : StreamPort → StreamPort) : (s.modStream k f).ident = s.ident := rfl
@[simp] theorem State.modStream_mg (s : State) (k : Nat) (f : StreamPort → StreamPort) : (s.modStream k f).mg = s.mg := rfl
@[simp] theorem State.modStream_pins (s : State) (k : Nat) (f : StreamPort → StreamPort) : (s.modStream k f).pins = s.pins := rfl
@[simp] theorem State.modStream_latches (s : State) (k : Nat) (f : StreamPort → StreamPort) : (s.modStream k f).latches = s.latches := rfl
@[simp] theorem State.modStream_cut (s : State) (k : Nat) (f : StreamPort → StreamPort) : (s.modStream k f).cut = s.cut := rfl
@[simp] theorem State.modStream_get_cove (s : State) (k : Nat) (f : StreamPort → StreamPort) (j : Nat) : (s.modStream k f).cove j = s.cove j := rfl
@[simp] theorem State.modStream_get_stack (s : State) (k : Nat) (f : StreamPort → StreamPort) (j : Nat) : (s.modStream k f).stack j = s.stack j := rfl
@[simp] theorem State.modStream_get_bay (s : State) (k : Nat) (f : StreamPort → StreamPort) (j : Nat) : (s.modStream k f).bay j = s.bay j := rfl
@[simp] theorem State.modStream_get_sess (s : State) (k : Nat) (f : StreamPort → StreamPort) (j : Nat) : (s.modStream k f).sess j = s.sess j := rfl
@[simp] theorem State.modStream_get_qp (s : State) (k : Nat) (f : StreamPort → StreamPort) (j : Nat) : (s.modStream k f).qp j = s.qp j := rfl
@[simp] theorem State.modStream_get_port (s : State) (k : Nat) (f : StreamPort → StreamPort) (j : Nat) : (s.modStream k f).port j = s.port j := rfl
@[simp] theorem State.modStream_get_portQ (s : State) (k : Nat) (f : StreamPort → StreamPort) (j : Nat) : (s.modStream k f).portQ j = s.portQ j := rfl
@[simp] theorem State.modStream_get_half (s : State) (k : Nat) (f : StreamPort → StreamPort) (j : Nat) : (s.modStream k f).half j = s.half j := rfl
@[simp] theorem State.modStream_get_pll (s : State) (k : Nat) (f : StreamPort → StreamPort) (j : Nat) : (s.modStream k f).pll j = s.pll j := rfl
@[simp] theorem State.modStream_get_seamPath (s : State) (k : Nat) (f : StreamPort → StreamPort) (j : Nat) : (s.modStream k f).seamPath j = s.seamPath j := rfl
@[simp] theorem State.modStream_get_field (s : State) (k : Nat) (f : StreamPort → StreamPort) (j : Nat) : (s.modStream k f).field j = s.field j := rfl
@[simp] theorem State.modStream_get_coveTest (s : State) (k : Nat) (f : StreamPort → StreamPort) (j : Nat) : (s.modStream k f).coveTest j = s.coveTest j := rfl

@[simp] theorem State.modBay_pending (s : State) (k : Nat) (f : Bay → Bay) : (s.modBay k f).pending = s.pending := rfl
@[simp] theorem State.modBay_free (s : State) (k : Nat) (f : Bay → Bay) : (s.modBay k f).free = s.free := rfl
@[simp] theorem State.modBay_clk (s : State) (k : Nat) (f : Bay → Bay) : (s.modBay k f).clk = s.clk := rfl
@[simp] theorem State.modBay_mt (s : State) (k : Nat) (f : Bay → Bay) : (s.modBay k f).mt = s.mt := rfl
@[simp] theorem State.modBay_coves (s : State) (k : Nat) (f : Bay → Bay) : (s.modBay k f).coves = s.coves := rfl
@[simp] theorem State.modBay_hbm (s : State) (k : Nat) (f : Bay → Bay) : (s.modBay k f).hbm = s.hbm := rfl
@[simp] theorem State.modBay_ctrls (s : State) (k : Nat) (f : Bay → Bay) : (s.modBay k f).ctrls = s.ctrls := rfl
@[simp] theorem State.modBay_streams (s : State) (k : Nat) (f : Bay → Bay) : (s.modBay k f).streams = s.streams := rfl
@[simp] theorem State.modBay_sessions (s : State) (k : Nat) (f : Bay → Bay) : (s.modBay k f).sessions = s.sessions := rfl
@[simp] theorem State.modBay_qps (s : State) (k : Nat) (f : Bay → Bay) : (s.modBay k f).qps = s.qps := rfl
@[simp] theorem State.modBay_ports (s : State) (k : Nat) (f : Bay → Bay) : (s.modBay k f).ports = s.ports := rfl
@[simp] theorem State.modBay_portq (s : State) (k : Nat) (f : Bay → Bay) : (s.modBay k f).portq = s.portq := rfl
@[simp] theorem State.modBay_jetty (s : State) (k : Nat) (f : Bay → Bay) : (s.modBay k f).jetty = s.jetty := rfl
@[simp] theorem State.modBay_integ (s : State) (k : Nat) (f : Bay → Bay) : (s.modBay k f).integ = s.integ := rfl
@[simp] theorem State.modBay_rot (s : State) (k : Nat) (f : Bay → Bay) : (s.modBay k f).rot = s.rot := rfl
@[simp] theorem State.modBay_net (s : State) (k : Nat) (f : Bay → Bay) : (s.modBay k f).net = s.net := rfl
@[simp] theorem State.modBay_pwr (s : State) (k : Nat) (f : Bay → Bay) : (s.modBay k f).pwr = s.pwr := rfl
@[simp] theorem State.modBay_pwrx (s : State) (k : Nat) (f : Bay → Bay) : (s.modBay k f).pwrx = s.pwrx := rfl
@[simp] theorem State.modBay_img (s : State) (k : Nat) (f : Bay → Bay) : (s.modBay k f).img = s.img := rfl
@[simp] theorem State.modBay_su (s : State) (k : Nat) (f : Bay → Bay) : (s.modBay k f).su = s.su := rfl
@[simp] theorem State.modBay_ident (s : State) (k : Nat) (f : Bay → Bay) : (s.modBay k f).ident = s.ident := rfl
@[simp] theorem State.modBay_mg (s : State) (k : Nat) (f : Bay → Bay) : (s.modBay k f).mg = s.mg := rfl
@[simp] theorem State.modBay_pins (s : State) (k : Nat) (f : Bay → Bay) : (s.modBay k f).pins = s.pins := rfl
@[simp] theorem State.modBay_latches (s : State) (k : Nat) (f : Bay → Bay) : (s.modBay k f).latches = s.latches := rfl
@[simp] theorem State.modBay_cut (s : State) (k : Nat) (f : Bay → Bay) : (s.modBay k f).cut = s.cut := rfl
@[simp] theorem State.modBay_get_cove (s : State) (k : Nat) (f : Bay → Bay) (j : Nat) : (s.modBay k f).cove j = s.cove j := rfl
@[simp] theorem State.modBay_get_stack (s : State) (k : Nat) (f : Bay → Bay) (j : Nat) : (s.modBay k f).stack j = s.stack j := rfl
@[simp] theorem State.modBay_get_stream (s : State) (k : Nat) (f : Bay → Bay) (j : Nat) : (s.modBay k f).stream j = s.stream j := rfl
@[simp] theorem State.modBay_get_sess (s : State) (k : Nat) (f : Bay → Bay) (j : Nat) : (s.modBay k f).sess j = s.sess j := rfl
@[simp] theorem State.modBay_get_qp (s : State) (k : Nat) (f : Bay → Bay) (j : Nat) : (s.modBay k f).qp j = s.qp j := rfl
@[simp] theorem State.modBay_get_port (s : State) (k : Nat) (f : Bay → Bay) (j : Nat) : (s.modBay k f).port j = s.port j := rfl
@[simp] theorem State.modBay_get_portQ (s : State) (k : Nat) (f : Bay → Bay) (j : Nat) : (s.modBay k f).portQ j = s.portQ j := rfl
@[simp] theorem State.modBay_get_half (s : State) (k : Nat) (f : Bay → Bay) (j : Nat) : (s.modBay k f).half j = s.half j := rfl
@[simp] theorem State.modBay_get_pll (s : State) (k : Nat) (f : Bay → Bay) (j : Nat) : (s.modBay k f).pll j = s.pll j := rfl
@[simp] theorem State.modBay_get_seamPath (s : State) (k : Nat) (f : Bay → Bay) (j : Nat) : (s.modBay k f).seamPath j = s.seamPath j := rfl
@[simp] theorem State.modBay_get_field (s : State) (k : Nat) (f : Bay → Bay) (j : Nat) : (s.modBay k f).field j = s.field j := rfl
@[simp] theorem State.modBay_get_coveTest (s : State) (k : Nat) (f : Bay → Bay) (j : Nat) : (s.modBay k f).coveTest j = s.coveTest j := rfl

@[simp] theorem State.modSess_pending (s : State) (k : Nat) (f : Session → Session) : (s.modSess k f).pending = s.pending := rfl
@[simp] theorem State.modSess_free (s : State) (k : Nat) (f : Session → Session) : (s.modSess k f).free = s.free := rfl
@[simp] theorem State.modSess_clk (s : State) (k : Nat) (f : Session → Session) : (s.modSess k f).clk = s.clk := rfl
@[simp] theorem State.modSess_mt (s : State) (k : Nat) (f : Session → Session) : (s.modSess k f).mt = s.mt := rfl
@[simp] theorem State.modSess_coves (s : State) (k : Nat) (f : Session → Session) : (s.modSess k f).coves = s.coves := rfl
@[simp] theorem State.modSess_hbm (s : State) (k : Nat) (f : Session → Session) : (s.modSess k f).hbm = s.hbm := rfl
@[simp] theorem State.modSess_ctrls (s : State) (k : Nat) (f : Session → Session) : (s.modSess k f).ctrls = s.ctrls := rfl
@[simp] theorem State.modSess_streams (s : State) (k : Nat) (f : Session → Session) : (s.modSess k f).streams = s.streams := rfl
@[simp] theorem State.modSess_bays (s : State) (k : Nat) (f : Session → Session) : (s.modSess k f).bays = s.bays := rfl
@[simp] theorem State.modSess_qps (s : State) (k : Nat) (f : Session → Session) : (s.modSess k f).qps = s.qps := rfl
@[simp] theorem State.modSess_ports (s : State) (k : Nat) (f : Session → Session) : (s.modSess k f).ports = s.ports := rfl
@[simp] theorem State.modSess_portq (s : State) (k : Nat) (f : Session → Session) : (s.modSess k f).portq = s.portq := rfl
@[simp] theorem State.modSess_jetty (s : State) (k : Nat) (f : Session → Session) : (s.modSess k f).jetty = s.jetty := rfl
@[simp] theorem State.modSess_integ (s : State) (k : Nat) (f : Session → Session) : (s.modSess k f).integ = s.integ := rfl
@[simp] theorem State.modSess_rot (s : State) (k : Nat) (f : Session → Session) : (s.modSess k f).rot = s.rot := rfl
@[simp] theorem State.modSess_net (s : State) (k : Nat) (f : Session → Session) : (s.modSess k f).net = s.net := rfl
@[simp] theorem State.modSess_pwr (s : State) (k : Nat) (f : Session → Session) : (s.modSess k f).pwr = s.pwr := rfl
@[simp] theorem State.modSess_pwrx (s : State) (k : Nat) (f : Session → Session) : (s.modSess k f).pwrx = s.pwrx := rfl
@[simp] theorem State.modSess_img (s : State) (k : Nat) (f : Session → Session) : (s.modSess k f).img = s.img := rfl
@[simp] theorem State.modSess_su (s : State) (k : Nat) (f : Session → Session) : (s.modSess k f).su = s.su := rfl
@[simp] theorem State.modSess_ident (s : State) (k : Nat) (f : Session → Session) : (s.modSess k f).ident = s.ident := rfl
@[simp] theorem State.modSess_mg (s : State) (k : Nat) (f : Session → Session) : (s.modSess k f).mg = s.mg := rfl
@[simp] theorem State.modSess_pins (s : State) (k : Nat) (f : Session → Session) : (s.modSess k f).pins = s.pins := rfl
@[simp] theorem State.modSess_latches (s : State) (k : Nat) (f : Session → Session) : (s.modSess k f).latches = s.latches := rfl
@[simp] theorem State.modSess_cut (s : State) (k : Nat) (f : Session → Session) : (s.modSess k f).cut = s.cut := rfl
@[simp] theorem State.modSess_get_cove (s : State) (k : Nat) (f : Session → Session) (j : Nat) : (s.modSess k f).cove j = s.cove j := rfl
@[simp] theorem State.modSess_get_stack (s : State) (k : Nat) (f : Session → Session) (j : Nat) : (s.modSess k f).stack j = s.stack j := rfl
@[simp] theorem State.modSess_get_stream (s : State) (k : Nat) (f : Session → Session) (j : Nat) : (s.modSess k f).stream j = s.stream j := rfl
@[simp] theorem State.modSess_get_bay (s : State) (k : Nat) (f : Session → Session) (j : Nat) : (s.modSess k f).bay j = s.bay j := rfl
@[simp] theorem State.modSess_get_qp (s : State) (k : Nat) (f : Session → Session) (j : Nat) : (s.modSess k f).qp j = s.qp j := rfl
@[simp] theorem State.modSess_get_port (s : State) (k : Nat) (f : Session → Session) (j : Nat) : (s.modSess k f).port j = s.port j := rfl
@[simp] theorem State.modSess_get_portQ (s : State) (k : Nat) (f : Session → Session) (j : Nat) : (s.modSess k f).portQ j = s.portQ j := rfl
@[simp] theorem State.modSess_get_half (s : State) (k : Nat) (f : Session → Session) (j : Nat) : (s.modSess k f).half j = s.half j := rfl
@[simp] theorem State.modSess_get_pll (s : State) (k : Nat) (f : Session → Session) (j : Nat) : (s.modSess k f).pll j = s.pll j := rfl
@[simp] theorem State.modSess_get_seamPath (s : State) (k : Nat) (f : Session → Session) (j : Nat) : (s.modSess k f).seamPath j = s.seamPath j := rfl
@[simp] theorem State.modSess_get_field (s : State) (k : Nat) (f : Session → Session) (j : Nat) : (s.modSess k f).field j = s.field j := rfl
@[simp] theorem State.modSess_get_coveTest (s : State) (k : Nat) (f : Session → Session) (j : Nat) : (s.modSess k f).coveTest j = s.coveTest j := rfl

@[simp] theorem State.modQp_pending (s : State) (k : Nat) (f : Qp → Qp) : (s.modQp k f).pending = s.pending := rfl
@[simp] theorem State.modQp_free (s : State) (k : Nat) (f : Qp → Qp) : (s.modQp k f).free = s.free := rfl
@[simp] theorem State.modQp_clk (s : State) (k : Nat) (f : Qp → Qp) : (s.modQp k f).clk = s.clk := rfl
@[simp] theorem State.modQp_mt (s : State) (k : Nat) (f : Qp → Qp) : (s.modQp k f).mt = s.mt := rfl
@[simp] theorem State.modQp_coves (s : State) (k : Nat) (f : Qp → Qp) : (s.modQp k f).coves = s.coves := rfl
@[simp] theorem State.modQp_hbm (s : State) (k : Nat) (f : Qp → Qp) : (s.modQp k f).hbm = s.hbm := rfl
@[simp] theorem State.modQp_ctrls (s : State) (k : Nat) (f : Qp → Qp) : (s.modQp k f).ctrls = s.ctrls := rfl
@[simp] theorem State.modQp_streams (s : State) (k : Nat) (f : Qp → Qp) : (s.modQp k f).streams = s.streams := rfl
@[simp] theorem State.modQp_bays (s : State) (k : Nat) (f : Qp → Qp) : (s.modQp k f).bays = s.bays := rfl
@[simp] theorem State.modQp_sessions (s : State) (k : Nat) (f : Qp → Qp) : (s.modQp k f).sessions = s.sessions := rfl
@[simp] theorem State.modQp_ports (s : State) (k : Nat) (f : Qp → Qp) : (s.modQp k f).ports = s.ports := rfl
@[simp] theorem State.modQp_portq (s : State) (k : Nat) (f : Qp → Qp) : (s.modQp k f).portq = s.portq := rfl
@[simp] theorem State.modQp_jetty (s : State) (k : Nat) (f : Qp → Qp) : (s.modQp k f).jetty = s.jetty := rfl
@[simp] theorem State.modQp_integ (s : State) (k : Nat) (f : Qp → Qp) : (s.modQp k f).integ = s.integ := rfl
@[simp] theorem State.modQp_rot (s : State) (k : Nat) (f : Qp → Qp) : (s.modQp k f).rot = s.rot := rfl
@[simp] theorem State.modQp_net (s : State) (k : Nat) (f : Qp → Qp) : (s.modQp k f).net = s.net := rfl
@[simp] theorem State.modQp_pwr (s : State) (k : Nat) (f : Qp → Qp) : (s.modQp k f).pwr = s.pwr := rfl
@[simp] theorem State.modQp_pwrx (s : State) (k : Nat) (f : Qp → Qp) : (s.modQp k f).pwrx = s.pwrx := rfl
@[simp] theorem State.modQp_img (s : State) (k : Nat) (f : Qp → Qp) : (s.modQp k f).img = s.img := rfl
@[simp] theorem State.modQp_su (s : State) (k : Nat) (f : Qp → Qp) : (s.modQp k f).su = s.su := rfl
@[simp] theorem State.modQp_ident (s : State) (k : Nat) (f : Qp → Qp) : (s.modQp k f).ident = s.ident := rfl
@[simp] theorem State.modQp_mg (s : State) (k : Nat) (f : Qp → Qp) : (s.modQp k f).mg = s.mg := rfl
@[simp] theorem State.modQp_pins (s : State) (k : Nat) (f : Qp → Qp) : (s.modQp k f).pins = s.pins := rfl
@[simp] theorem State.modQp_latches (s : State) (k : Nat) (f : Qp → Qp) : (s.modQp k f).latches = s.latches := rfl
@[simp] theorem State.modQp_cut (s : State) (k : Nat) (f : Qp → Qp) : (s.modQp k f).cut = s.cut := rfl
@[simp] theorem State.modQp_get_cove (s : State) (k : Nat) (f : Qp → Qp) (j : Nat) : (s.modQp k f).cove j = s.cove j := rfl
@[simp] theorem State.modQp_get_stack (s : State) (k : Nat) (f : Qp → Qp) (j : Nat) : (s.modQp k f).stack j = s.stack j := rfl
@[simp] theorem State.modQp_get_stream (s : State) (k : Nat) (f : Qp → Qp) (j : Nat) : (s.modQp k f).stream j = s.stream j := rfl
@[simp] theorem State.modQp_get_bay (s : State) (k : Nat) (f : Qp → Qp) (j : Nat) : (s.modQp k f).bay j = s.bay j := rfl
@[simp] theorem State.modQp_get_sess (s : State) (k : Nat) (f : Qp → Qp) (j : Nat) : (s.modQp k f).sess j = s.sess j := rfl
@[simp] theorem State.modQp_get_port (s : State) (k : Nat) (f : Qp → Qp) (j : Nat) : (s.modQp k f).port j = s.port j := rfl
@[simp] theorem State.modQp_get_portQ (s : State) (k : Nat) (f : Qp → Qp) (j : Nat) : (s.modQp k f).portQ j = s.portQ j := rfl
@[simp] theorem State.modQp_get_half (s : State) (k : Nat) (f : Qp → Qp) (j : Nat) : (s.modQp k f).half j = s.half j := rfl
@[simp] theorem State.modQp_get_pll (s : State) (k : Nat) (f : Qp → Qp) (j : Nat) : (s.modQp k f).pll j = s.pll j := rfl
@[simp] theorem State.modQp_get_seamPath (s : State) (k : Nat) (f : Qp → Qp) (j : Nat) : (s.modQp k f).seamPath j = s.seamPath j := rfl
@[simp] theorem State.modQp_get_field (s : State) (k : Nat) (f : Qp → Qp) (j : Nat) : (s.modQp k f).field j = s.field j := rfl
@[simp] theorem State.modQp_get_coveTest (s : State) (k : Nat) (f : Qp → Qp) (j : Nat) : (s.modQp k f).coveTest j = s.coveTest j := rfl

@[simp] theorem State.modPort_pending (s : State) (k : Nat) (f : Port → Port) : (s.modPort k f).pending = s.pending := rfl
@[simp] theorem State.modPort_free (s : State) (k : Nat) (f : Port → Port) : (s.modPort k f).free = s.free := rfl
@[simp] theorem State.modPort_clk (s : State) (k : Nat) (f : Port → Port) : (s.modPort k f).clk = s.clk := rfl
@[simp] theorem State.modPort_mt (s : State) (k : Nat) (f : Port → Port) : (s.modPort k f).mt = s.mt := rfl
@[simp] theorem State.modPort_coves (s : State) (k : Nat) (f : Port → Port) : (s.modPort k f).coves = s.coves := rfl
@[simp] theorem State.modPort_hbm (s : State) (k : Nat) (f : Port → Port) : (s.modPort k f).hbm = s.hbm := rfl
@[simp] theorem State.modPort_ctrls (s : State) (k : Nat) (f : Port → Port) : (s.modPort k f).ctrls = s.ctrls := rfl
@[simp] theorem State.modPort_streams (s : State) (k : Nat) (f : Port → Port) : (s.modPort k f).streams = s.streams := rfl
@[simp] theorem State.modPort_bays (s : State) (k : Nat) (f : Port → Port) : (s.modPort k f).bays = s.bays := rfl
@[simp] theorem State.modPort_sessions (s : State) (k : Nat) (f : Port → Port) : (s.modPort k f).sessions = s.sessions := rfl
@[simp] theorem State.modPort_qps (s : State) (k : Nat) (f : Port → Port) : (s.modPort k f).qps = s.qps := rfl
@[simp] theorem State.modPort_portq (s : State) (k : Nat) (f : Port → Port) : (s.modPort k f).portq = s.portq := rfl
@[simp] theorem State.modPort_jetty (s : State) (k : Nat) (f : Port → Port) : (s.modPort k f).jetty = s.jetty := rfl
@[simp] theorem State.modPort_integ (s : State) (k : Nat) (f : Port → Port) : (s.modPort k f).integ = s.integ := rfl
@[simp] theorem State.modPort_rot (s : State) (k : Nat) (f : Port → Port) : (s.modPort k f).rot = s.rot := rfl
@[simp] theorem State.modPort_net (s : State) (k : Nat) (f : Port → Port) : (s.modPort k f).net = s.net := rfl
@[simp] theorem State.modPort_pwr (s : State) (k : Nat) (f : Port → Port) : (s.modPort k f).pwr = s.pwr := rfl
@[simp] theorem State.modPort_pwrx (s : State) (k : Nat) (f : Port → Port) : (s.modPort k f).pwrx = s.pwrx := rfl
@[simp] theorem State.modPort_img (s : State) (k : Nat) (f : Port → Port) : (s.modPort k f).img = s.img := rfl
@[simp] theorem State.modPort_su (s : State) (k : Nat) (f : Port → Port) : (s.modPort k f).su = s.su := rfl
@[simp] theorem State.modPort_ident (s : State) (k : Nat) (f : Port → Port) : (s.modPort k f).ident = s.ident := rfl
@[simp] theorem State.modPort_mg (s : State) (k : Nat) (f : Port → Port) : (s.modPort k f).mg = s.mg := rfl
@[simp] theorem State.modPort_pins (s : State) (k : Nat) (f : Port → Port) : (s.modPort k f).pins = s.pins := rfl
@[simp] theorem State.modPort_latches (s : State) (k : Nat) (f : Port → Port) : (s.modPort k f).latches = s.latches := rfl
@[simp] theorem State.modPort_cut (s : State) (k : Nat) (f : Port → Port) : (s.modPort k f).cut = s.cut := rfl
@[simp] theorem State.modPort_get_cove (s : State) (k : Nat) (f : Port → Port) (j : Nat) : (s.modPort k f).cove j = s.cove j := rfl
@[simp] theorem State.modPort_get_stack (s : State) (k : Nat) (f : Port → Port) (j : Nat) : (s.modPort k f).stack j = s.stack j := rfl
@[simp] theorem State.modPort_get_stream (s : State) (k : Nat) (f : Port → Port) (j : Nat) : (s.modPort k f).stream j = s.stream j := rfl
@[simp] theorem State.modPort_get_bay (s : State) (k : Nat) (f : Port → Port) (j : Nat) : (s.modPort k f).bay j = s.bay j := rfl
@[simp] theorem State.modPort_get_sess (s : State) (k : Nat) (f : Port → Port) (j : Nat) : (s.modPort k f).sess j = s.sess j := rfl
@[simp] theorem State.modPort_get_qp (s : State) (k : Nat) (f : Port → Port) (j : Nat) : (s.modPort k f).qp j = s.qp j := rfl
@[simp] theorem State.modPort_get_portQ (s : State) (k : Nat) (f : Port → Port) (j : Nat) : (s.modPort k f).portQ j = s.portQ j := rfl
@[simp] theorem State.modPort_get_half (s : State) (k : Nat) (f : Port → Port) (j : Nat) : (s.modPort k f).half j = s.half j := rfl
@[simp] theorem State.modPort_get_pll (s : State) (k : Nat) (f : Port → Port) (j : Nat) : (s.modPort k f).pll j = s.pll j := rfl
@[simp] theorem State.modPort_get_seamPath (s : State) (k : Nat) (f : Port → Port) (j : Nat) : (s.modPort k f).seamPath j = s.seamPath j := rfl
@[simp] theorem State.modPort_get_field (s : State) (k : Nat) (f : Port → Port) (j : Nat) : (s.modPort k f).field j = s.field j := rfl
@[simp] theorem State.modPort_get_coveTest (s : State) (k : Nat) (f : Port → Port) (j : Nat) : (s.modPort k f).coveTest j = s.coveTest j := rfl

@[simp] theorem State.modPortQ_pending (s : State) (k : Nat) (f : PortQueues → PortQueues) : (s.modPortQ k f).pending = s.pending := rfl
@[simp] theorem State.modPortQ_free (s : State) (k : Nat) (f : PortQueues → PortQueues) : (s.modPortQ k f).free = s.free := rfl
@[simp] theorem State.modPortQ_clk (s : State) (k : Nat) (f : PortQueues → PortQueues) : (s.modPortQ k f).clk = s.clk := rfl
@[simp] theorem State.modPortQ_mt (s : State) (k : Nat) (f : PortQueues → PortQueues) : (s.modPortQ k f).mt = s.mt := rfl
@[simp] theorem State.modPortQ_coves (s : State) (k : Nat) (f : PortQueues → PortQueues) : (s.modPortQ k f).coves = s.coves := rfl
@[simp] theorem State.modPortQ_hbm (s : State) (k : Nat) (f : PortQueues → PortQueues) : (s.modPortQ k f).hbm = s.hbm := rfl
@[simp] theorem State.modPortQ_ctrls (s : State) (k : Nat) (f : PortQueues → PortQueues) : (s.modPortQ k f).ctrls = s.ctrls := rfl
@[simp] theorem State.modPortQ_streams (s : State) (k : Nat) (f : PortQueues → PortQueues) : (s.modPortQ k f).streams = s.streams := rfl
@[simp] theorem State.modPortQ_bays (s : State) (k : Nat) (f : PortQueues → PortQueues) : (s.modPortQ k f).bays = s.bays := rfl
@[simp] theorem State.modPortQ_sessions (s : State) (k : Nat) (f : PortQueues → PortQueues) : (s.modPortQ k f).sessions = s.sessions := rfl
@[simp] theorem State.modPortQ_qps (s : State) (k : Nat) (f : PortQueues → PortQueues) : (s.modPortQ k f).qps = s.qps := rfl
@[simp] theorem State.modPortQ_ports (s : State) (k : Nat) (f : PortQueues → PortQueues) : (s.modPortQ k f).ports = s.ports := rfl
@[simp] theorem State.modPortQ_jetty (s : State) (k : Nat) (f : PortQueues → PortQueues) : (s.modPortQ k f).jetty = s.jetty := rfl
@[simp] theorem State.modPortQ_integ (s : State) (k : Nat) (f : PortQueues → PortQueues) : (s.modPortQ k f).integ = s.integ := rfl
@[simp] theorem State.modPortQ_rot (s : State) (k : Nat) (f : PortQueues → PortQueues) : (s.modPortQ k f).rot = s.rot := rfl
@[simp] theorem State.modPortQ_net (s : State) (k : Nat) (f : PortQueues → PortQueues) : (s.modPortQ k f).net = s.net := rfl
@[simp] theorem State.modPortQ_pwr (s : State) (k : Nat) (f : PortQueues → PortQueues) : (s.modPortQ k f).pwr = s.pwr := rfl
@[simp] theorem State.modPortQ_pwrx (s : State) (k : Nat) (f : PortQueues → PortQueues) : (s.modPortQ k f).pwrx = s.pwrx := rfl
@[simp] theorem State.modPortQ_img (s : State) (k : Nat) (f : PortQueues → PortQueues) : (s.modPortQ k f).img = s.img := rfl
@[simp] theorem State.modPortQ_su (s : State) (k : Nat) (f : PortQueues → PortQueues) : (s.modPortQ k f).su = s.su := rfl
@[simp] theorem State.modPortQ_ident (s : State) (k : Nat) (f : PortQueues → PortQueues) : (s.modPortQ k f).ident = s.ident := rfl
@[simp] theorem State.modPortQ_mg (s : State) (k : Nat) (f : PortQueues → PortQueues) : (s.modPortQ k f).mg = s.mg := rfl
@[simp] theorem State.modPortQ_pins (s : State) (k : Nat) (f : PortQueues → PortQueues) : (s.modPortQ k f).pins = s.pins := rfl
@[simp] theorem State.modPortQ_latches (s : State) (k : Nat) (f : PortQueues → PortQueues) : (s.modPortQ k f).latches = s.latches := rfl
@[simp] theorem State.modPortQ_cut (s : State) (k : Nat) (f : PortQueues → PortQueues) : (s.modPortQ k f).cut = s.cut := rfl
@[simp] theorem State.modPortQ_get_cove (s : State) (k : Nat) (f : PortQueues → PortQueues) (j : Nat) : (s.modPortQ k f).cove j = s.cove j := rfl
@[simp] theorem State.modPortQ_get_stack (s : State) (k : Nat) (f : PortQueues → PortQueues) (j : Nat) : (s.modPortQ k f).stack j = s.stack j := rfl
@[simp] theorem State.modPortQ_get_stream (s : State) (k : Nat) (f : PortQueues → PortQueues) (j : Nat) : (s.modPortQ k f).stream j = s.stream j := rfl
@[simp] theorem State.modPortQ_get_bay (s : State) (k : Nat) (f : PortQueues → PortQueues) (j : Nat) : (s.modPortQ k f).bay j = s.bay j := rfl
@[simp] theorem State.modPortQ_get_sess (s : State) (k : Nat) (f : PortQueues → PortQueues) (j : Nat) : (s.modPortQ k f).sess j = s.sess j := rfl
@[simp] theorem State.modPortQ_get_qp (s : State) (k : Nat) (f : PortQueues → PortQueues) (j : Nat) : (s.modPortQ k f).qp j = s.qp j := rfl
@[simp] theorem State.modPortQ_get_port (s : State) (k : Nat) (f : PortQueues → PortQueues) (j : Nat) : (s.modPortQ k f).port j = s.port j := rfl
@[simp] theorem State.modPortQ_get_half (s : State) (k : Nat) (f : PortQueues → PortQueues) (j : Nat) : (s.modPortQ k f).half j = s.half j := rfl
@[simp] theorem State.modPortQ_get_pll (s : State) (k : Nat) (f : PortQueues → PortQueues) (j : Nat) : (s.modPortQ k f).pll j = s.pll j := rfl
@[simp] theorem State.modPortQ_get_seamPath (s : State) (k : Nat) (f : PortQueues → PortQueues) (j : Nat) : (s.modPortQ k f).seamPath j = s.seamPath j := rfl
@[simp] theorem State.modPortQ_get_field (s : State) (k : Nat) (f : PortQueues → PortQueues) (j : Nat) : (s.modPortQ k f).field j = s.field j := rfl
@[simp] theorem State.modPortQ_get_coveTest (s : State) (k : Nat) (f : PortQueues → PortQueues) (j : Nat) : (s.modPortQ k f).coveTest j = s.coveTest j := rfl

@[simp] theorem State.modHalf_pending (s : State) (k : Nat) (f : Half → Half) : (s.modHalf k f).pending = s.pending := rfl
@[simp] theorem State.modHalf_free (s : State) (k : Nat) (f : Half → Half) : (s.modHalf k f).free = s.free := rfl
@[simp] theorem State.modHalf_mt (s : State) (k : Nat) (f : Half → Half) : (s.modHalf k f).mt = s.mt := rfl
@[simp] theorem State.modHalf_coves (s : State) (k : Nat) (f : Half → Half) : (s.modHalf k f).coves = s.coves := rfl
@[simp] theorem State.modHalf_hbm (s : State) (k : Nat) (f : Half → Half) : (s.modHalf k f).hbm = s.hbm := rfl
@[simp] theorem State.modHalf_ctrls (s : State) (k : Nat) (f : Half → Half) : (s.modHalf k f).ctrls = s.ctrls := rfl
@[simp] theorem State.modHalf_streams (s : State) (k : Nat) (f : Half → Half) : (s.modHalf k f).streams = s.streams := rfl
@[simp] theorem State.modHalf_bays (s : State) (k : Nat) (f : Half → Half) : (s.modHalf k f).bays = s.bays := rfl
@[simp] theorem State.modHalf_sessions (s : State) (k : Nat) (f : Half → Half) : (s.modHalf k f).sessions = s.sessions := rfl
@[simp] theorem State.modHalf_qps (s : State) (k : Nat) (f : Half → Half) : (s.modHalf k f).qps = s.qps := rfl
@[simp] theorem State.modHalf_ports (s : State) (k : Nat) (f : Half → Half) : (s.modHalf k f).ports = s.ports := rfl
@[simp] theorem State.modHalf_portq (s : State) (k : Nat) (f : Half → Half) : (s.modHalf k f).portq = s.portq := rfl
@[simp] theorem State.modHalf_jetty (s : State) (k : Nat) (f : Half → Half) : (s.modHalf k f).jetty = s.jetty := rfl
@[simp] theorem State.modHalf_integ (s : State) (k : Nat) (f : Half → Half) : (s.modHalf k f).integ = s.integ := rfl
@[simp] theorem State.modHalf_rot (s : State) (k : Nat) (f : Half → Half) : (s.modHalf k f).rot = s.rot := rfl
@[simp] theorem State.modHalf_net (s : State) (k : Nat) (f : Half → Half) : (s.modHalf k f).net = s.net := rfl
@[simp] theorem State.modHalf_pwr (s : State) (k : Nat) (f : Half → Half) : (s.modHalf k f).pwr = s.pwr := rfl
@[simp] theorem State.modHalf_pwrx (s : State) (k : Nat) (f : Half → Half) : (s.modHalf k f).pwrx = s.pwrx := rfl
@[simp] theorem State.modHalf_img (s : State) (k : Nat) (f : Half → Half) : (s.modHalf k f).img = s.img := rfl
@[simp] theorem State.modHalf_su (s : State) (k : Nat) (f : Half → Half) : (s.modHalf k f).su = s.su := rfl
@[simp] theorem State.modHalf_ident (s : State) (k : Nat) (f : Half → Half) : (s.modHalf k f).ident = s.ident := rfl
@[simp] theorem State.modHalf_mg (s : State) (k : Nat) (f : Half → Half) : (s.modHalf k f).mg = s.mg := rfl
@[simp] theorem State.modHalf_pins (s : State) (k : Nat) (f : Half → Half) : (s.modHalf k f).pins = s.pins := rfl
@[simp] theorem State.modHalf_latches (s : State) (k : Nat) (f : Half → Half) : (s.modHalf k f).latches = s.latches := rfl
@[simp] theorem State.modHalf_cut (s : State) (k : Nat) (f : Half → Half) : (s.modHalf k f).cut = s.cut := rfl
@[simp] theorem State.modHalf_get_cove (s : State) (k : Nat) (f : Half → Half) (j : Nat) : (s.modHalf k f).cove j = s.cove j := rfl
@[simp] theorem State.modHalf_get_stack (s : State) (k : Nat) (f : Half → Half) (j : Nat) : (s.modHalf k f).stack j = s.stack j := rfl
@[simp] theorem State.modHalf_get_stream (s : State) (k : Nat) (f : Half → Half) (j : Nat) : (s.modHalf k f).stream j = s.stream j := rfl
@[simp] theorem State.modHalf_get_bay (s : State) (k : Nat) (f : Half → Half) (j : Nat) : (s.modHalf k f).bay j = s.bay j := rfl
@[simp] theorem State.modHalf_get_sess (s : State) (k : Nat) (f : Half → Half) (j : Nat) : (s.modHalf k f).sess j = s.sess j := rfl
@[simp] theorem State.modHalf_get_qp (s : State) (k : Nat) (f : Half → Half) (j : Nat) : (s.modHalf k f).qp j = s.qp j := rfl
@[simp] theorem State.modHalf_get_port (s : State) (k : Nat) (f : Half → Half) (j : Nat) : (s.modHalf k f).port j = s.port j := rfl
@[simp] theorem State.modHalf_get_portQ (s : State) (k : Nat) (f : Half → Half) (j : Nat) : (s.modHalf k f).portQ j = s.portQ j := rfl
@[simp] theorem State.modHalf_get_field (s : State) (k : Nat) (f : Half → Half) (j : Nat) : (s.modHalf k f).field j = s.field j := rfl
@[simp] theorem State.modHalf_get_coveTest (s : State) (k : Nat) (f : Half → Half) (j : Nat) : (s.modHalf k f).coveTest j = s.coveTest j := rfl

@[simp] theorem State.modPll_pending (s : State) (k : Nat) (f : Pll → Pll) : (s.modPll k f).pending = s.pending := rfl
@[simp] theorem State.modPll_free (s : State) (k : Nat) (f : Pll → Pll) : (s.modPll k f).free = s.free := rfl
@[simp] theorem State.modPll_mt (s : State) (k : Nat) (f : Pll → Pll) : (s.modPll k f).mt = s.mt := rfl
@[simp] theorem State.modPll_coves (s : State) (k : Nat) (f : Pll → Pll) : (s.modPll k f).coves = s.coves := rfl
@[simp] theorem State.modPll_hbm (s : State) (k : Nat) (f : Pll → Pll) : (s.modPll k f).hbm = s.hbm := rfl
@[simp] theorem State.modPll_ctrls (s : State) (k : Nat) (f : Pll → Pll) : (s.modPll k f).ctrls = s.ctrls := rfl
@[simp] theorem State.modPll_streams (s : State) (k : Nat) (f : Pll → Pll) : (s.modPll k f).streams = s.streams := rfl
@[simp] theorem State.modPll_bays (s : State) (k : Nat) (f : Pll → Pll) : (s.modPll k f).bays = s.bays := rfl
@[simp] theorem State.modPll_sessions (s : State) (k : Nat) (f : Pll → Pll) : (s.modPll k f).sessions = s.sessions := rfl
@[simp] theorem State.modPll_qps (s : State) (k : Nat) (f : Pll → Pll) : (s.modPll k f).qps = s.qps := rfl
@[simp] theorem State.modPll_ports (s : State) (k : Nat) (f : Pll → Pll) : (s.modPll k f).ports = s.ports := rfl
@[simp] theorem State.modPll_portq (s : State) (k : Nat) (f : Pll → Pll) : (s.modPll k f).portq = s.portq := rfl
@[simp] theorem State.modPll_jetty (s : State) (k : Nat) (f : Pll → Pll) : (s.modPll k f).jetty = s.jetty := rfl
@[simp] theorem State.modPll_integ (s : State) (k : Nat) (f : Pll → Pll) : (s.modPll k f).integ = s.integ := rfl
@[simp] theorem State.modPll_rot (s : State) (k : Nat) (f : Pll → Pll) : (s.modPll k f).rot = s.rot := rfl
@[simp] theorem State.modPll_net (s : State) (k : Nat) (f : Pll → Pll) : (s.modPll k f).net = s.net := rfl
@[simp] theorem State.modPll_pwr (s : State) (k : Nat) (f : Pll → Pll) : (s.modPll k f).pwr = s.pwr := rfl
@[simp] theorem State.modPll_pwrx (s : State) (k : Nat) (f : Pll → Pll) : (s.modPll k f).pwrx = s.pwrx := rfl
@[simp] theorem State.modPll_img (s : State) (k : Nat) (f : Pll → Pll) : (s.modPll k f).img = s.img := rfl
@[simp] theorem State.modPll_su (s : State) (k : Nat) (f : Pll → Pll) : (s.modPll k f).su = s.su := rfl
@[simp] theorem State.modPll_ident (s : State) (k : Nat) (f : Pll → Pll) : (s.modPll k f).ident = s.ident := rfl
@[simp] theorem State.modPll_mg (s : State) (k : Nat) (f : Pll → Pll) : (s.modPll k f).mg = s.mg := rfl
@[simp] theorem State.modPll_pins (s : State) (k : Nat) (f : Pll → Pll) : (s.modPll k f).pins = s.pins := rfl
@[simp] theorem State.modPll_latches (s : State) (k : Nat) (f : Pll → Pll) : (s.modPll k f).latches = s.latches := rfl
@[simp] theorem State.modPll_cut (s : State) (k : Nat) (f : Pll → Pll) : (s.modPll k f).cut = s.cut := rfl
@[simp] theorem State.modPll_get_cove (s : State) (k : Nat) (f : Pll → Pll) (j : Nat) : (s.modPll k f).cove j = s.cove j := rfl
@[simp] theorem State.modPll_get_stack (s : State) (k : Nat) (f : Pll → Pll) (j : Nat) : (s.modPll k f).stack j = s.stack j := rfl
@[simp] theorem State.modPll_get_stream (s : State) (k : Nat) (f : Pll → Pll) (j : Nat) : (s.modPll k f).stream j = s.stream j := rfl
@[simp] theorem State.modPll_get_bay (s : State) (k : Nat) (f : Pll → Pll) (j : Nat) : (s.modPll k f).bay j = s.bay j := rfl
@[simp] theorem State.modPll_get_sess (s : State) (k : Nat) (f : Pll → Pll) (j : Nat) : (s.modPll k f).sess j = s.sess j := rfl
@[simp] theorem State.modPll_get_qp (s : State) (k : Nat) (f : Pll → Pll) (j : Nat) : (s.modPll k f).qp j = s.qp j := rfl
@[simp] theorem State.modPll_get_port (s : State) (k : Nat) (f : Pll → Pll) (j : Nat) : (s.modPll k f).port j = s.port j := rfl
@[simp] theorem State.modPll_get_portQ (s : State) (k : Nat) (f : Pll → Pll) (j : Nat) : (s.modPll k f).portQ j = s.portQ j := rfl
@[simp] theorem State.modPll_get_field (s : State) (k : Nat) (f : Pll → Pll) (j : Nat) : (s.modPll k f).field j = s.field j := rfl
@[simp] theorem State.modPll_get_coveTest (s : State) (k : Nat) (f : Pll → Pll) (j : Nat) : (s.modPll k f).coveTest j = s.coveTest j := rfl

@[simp] theorem State.modSeam_pending (s : State) (k : Nat) (f : SeamPath → SeamPath) : (s.modSeam k f).pending = s.pending := rfl
@[simp] theorem State.modSeam_free (s : State) (k : Nat) (f : SeamPath → SeamPath) : (s.modSeam k f).free = s.free := rfl
@[simp] theorem State.modSeam_mt (s : State) (k : Nat) (f : SeamPath → SeamPath) : (s.modSeam k f).mt = s.mt := rfl
@[simp] theorem State.modSeam_coves (s : State) (k : Nat) (f : SeamPath → SeamPath) : (s.modSeam k f).coves = s.coves := rfl
@[simp] theorem State.modSeam_hbm (s : State) (k : Nat) (f : SeamPath → SeamPath) : (s.modSeam k f).hbm = s.hbm := rfl
@[simp] theorem State.modSeam_ctrls (s : State) (k : Nat) (f : SeamPath → SeamPath) : (s.modSeam k f).ctrls = s.ctrls := rfl
@[simp] theorem State.modSeam_streams (s : State) (k : Nat) (f : SeamPath → SeamPath) : (s.modSeam k f).streams = s.streams := rfl
@[simp] theorem State.modSeam_bays (s : State) (k : Nat) (f : SeamPath → SeamPath) : (s.modSeam k f).bays = s.bays := rfl
@[simp] theorem State.modSeam_sessions (s : State) (k : Nat) (f : SeamPath → SeamPath) : (s.modSeam k f).sessions = s.sessions := rfl
@[simp] theorem State.modSeam_qps (s : State) (k : Nat) (f : SeamPath → SeamPath) : (s.modSeam k f).qps = s.qps := rfl
@[simp] theorem State.modSeam_ports (s : State) (k : Nat) (f : SeamPath → SeamPath) : (s.modSeam k f).ports = s.ports := rfl
@[simp] theorem State.modSeam_portq (s : State) (k : Nat) (f : SeamPath → SeamPath) : (s.modSeam k f).portq = s.portq := rfl
@[simp] theorem State.modSeam_jetty (s : State) (k : Nat) (f : SeamPath → SeamPath) : (s.modSeam k f).jetty = s.jetty := rfl
@[simp] theorem State.modSeam_integ (s : State) (k : Nat) (f : SeamPath → SeamPath) : (s.modSeam k f).integ = s.integ := rfl
@[simp] theorem State.modSeam_rot (s : State) (k : Nat) (f : SeamPath → SeamPath) : (s.modSeam k f).rot = s.rot := rfl
@[simp] theorem State.modSeam_net (s : State) (k : Nat) (f : SeamPath → SeamPath) : (s.modSeam k f).net = s.net := rfl
@[simp] theorem State.modSeam_pwr (s : State) (k : Nat) (f : SeamPath → SeamPath) : (s.modSeam k f).pwr = s.pwr := rfl
@[simp] theorem State.modSeam_pwrx (s : State) (k : Nat) (f : SeamPath → SeamPath) : (s.modSeam k f).pwrx = s.pwrx := rfl
@[simp] theorem State.modSeam_img (s : State) (k : Nat) (f : SeamPath → SeamPath) : (s.modSeam k f).img = s.img := rfl
@[simp] theorem State.modSeam_su (s : State) (k : Nat) (f : SeamPath → SeamPath) : (s.modSeam k f).su = s.su := rfl
@[simp] theorem State.modSeam_ident (s : State) (k : Nat) (f : SeamPath → SeamPath) : (s.modSeam k f).ident = s.ident := rfl
@[simp] theorem State.modSeam_mg (s : State) (k : Nat) (f : SeamPath → SeamPath) : (s.modSeam k f).mg = s.mg := rfl
@[simp] theorem State.modSeam_pins (s : State) (k : Nat) (f : SeamPath → SeamPath) : (s.modSeam k f).pins = s.pins := rfl
@[simp] theorem State.modSeam_latches (s : State) (k : Nat) (f : SeamPath → SeamPath) : (s.modSeam k f).latches = s.latches := rfl
@[simp] theorem State.modSeam_cut (s : State) (k : Nat) (f : SeamPath → SeamPath) : (s.modSeam k f).cut = s.cut := rfl
@[simp] theorem State.modSeam_get_cove (s : State) (k : Nat) (f : SeamPath → SeamPath) (j : Nat) : (s.modSeam k f).cove j = s.cove j := rfl
@[simp] theorem State.modSeam_get_stack (s : State) (k : Nat) (f : SeamPath → SeamPath) (j : Nat) : (s.modSeam k f).stack j = s.stack j := rfl
@[simp] theorem State.modSeam_get_stream (s : State) (k : Nat) (f : SeamPath → SeamPath) (j : Nat) : (s.modSeam k f).stream j = s.stream j := rfl
@[simp] theorem State.modSeam_get_bay (s : State) (k : Nat) (f : SeamPath → SeamPath) (j : Nat) : (s.modSeam k f).bay j = s.bay j := rfl
@[simp] theorem State.modSeam_get_sess (s : State) (k : Nat) (f : SeamPath → SeamPath) (j : Nat) : (s.modSeam k f).sess j = s.sess j := rfl
@[simp] theorem State.modSeam_get_qp (s : State) (k : Nat) (f : SeamPath → SeamPath) (j : Nat) : (s.modSeam k f).qp j = s.qp j := rfl
@[simp] theorem State.modSeam_get_port (s : State) (k : Nat) (f : SeamPath → SeamPath) (j : Nat) : (s.modSeam k f).port j = s.port j := rfl
@[simp] theorem State.modSeam_get_portQ (s : State) (k : Nat) (f : SeamPath → SeamPath) (j : Nat) : (s.modSeam k f).portQ j = s.portQ j := rfl
@[simp] theorem State.modSeam_get_field (s : State) (k : Nat) (f : SeamPath → SeamPath) (j : Nat) : (s.modSeam k f).field j = s.field j := rfl
@[simp] theorem State.modSeam_get_coveTest (s : State) (k : Nat) (f : SeamPath → SeamPath) (j : Nat) : (s.modSeam k f).coveTest j = s.coveTest j := rfl

@[simp] theorem State.modField_pending (s : State) (k : Nat) (f : FieldTest → FieldTest) : (s.modField k f).pending = s.pending := rfl
@[simp] theorem State.modField_free (s : State) (k : Nat) (f : FieldTest → FieldTest) : (s.modField k f).free = s.free := rfl
@[simp] theorem State.modField_clk (s : State) (k : Nat) (f : FieldTest → FieldTest) : (s.modField k f).clk = s.clk := rfl
@[simp] theorem State.modField_mt (s : State) (k : Nat) (f : FieldTest → FieldTest) : (s.modField k f).mt = s.mt := rfl
@[simp] theorem State.modField_coves (s : State) (k : Nat) (f : FieldTest → FieldTest) : (s.modField k f).coves = s.coves := rfl
@[simp] theorem State.modField_hbm (s : State) (k : Nat) (f : FieldTest → FieldTest) : (s.modField k f).hbm = s.hbm := rfl
@[simp] theorem State.modField_ctrls (s : State) (k : Nat) (f : FieldTest → FieldTest) : (s.modField k f).ctrls = s.ctrls := rfl
@[simp] theorem State.modField_streams (s : State) (k : Nat) (f : FieldTest → FieldTest) : (s.modField k f).streams = s.streams := rfl
@[simp] theorem State.modField_bays (s : State) (k : Nat) (f : FieldTest → FieldTest) : (s.modField k f).bays = s.bays := rfl
@[simp] theorem State.modField_sessions (s : State) (k : Nat) (f : FieldTest → FieldTest) : (s.modField k f).sessions = s.sessions := rfl
@[simp] theorem State.modField_qps (s : State) (k : Nat) (f : FieldTest → FieldTest) : (s.modField k f).qps = s.qps := rfl
@[simp] theorem State.modField_ports (s : State) (k : Nat) (f : FieldTest → FieldTest) : (s.modField k f).ports = s.ports := rfl
@[simp] theorem State.modField_portq (s : State) (k : Nat) (f : FieldTest → FieldTest) : (s.modField k f).portq = s.portq := rfl
@[simp] theorem State.modField_jetty (s : State) (k : Nat) (f : FieldTest → FieldTest) : (s.modField k f).jetty = s.jetty := rfl
@[simp] theorem State.modField_integ (s : State) (k : Nat) (f : FieldTest → FieldTest) : (s.modField k f).integ = s.integ := rfl
@[simp] theorem State.modField_net (s : State) (k : Nat) (f : FieldTest → FieldTest) : (s.modField k f).net = s.net := rfl
@[simp] theorem State.modField_pwr (s : State) (k : Nat) (f : FieldTest → FieldTest) : (s.modField k f).pwr = s.pwr := rfl
@[simp] theorem State.modField_pwrx (s : State) (k : Nat) (f : FieldTest → FieldTest) : (s.modField k f).pwrx = s.pwrx := rfl
@[simp] theorem State.modField_img (s : State) (k : Nat) (f : FieldTest → FieldTest) : (s.modField k f).img = s.img := rfl
@[simp] theorem State.modField_su (s : State) (k : Nat) (f : FieldTest → FieldTest) : (s.modField k f).su = s.su := rfl
@[simp] theorem State.modField_ident (s : State) (k : Nat) (f : FieldTest → FieldTest) : (s.modField k f).ident = s.ident := rfl
@[simp] theorem State.modField_mg (s : State) (k : Nat) (f : FieldTest → FieldTest) : (s.modField k f).mg = s.mg := rfl
@[simp] theorem State.modField_pins (s : State) (k : Nat) (f : FieldTest → FieldTest) : (s.modField k f).pins = s.pins := rfl
@[simp] theorem State.modField_latches (s : State) (k : Nat) (f : FieldTest → FieldTest) : (s.modField k f).latches = s.latches := rfl
@[simp] theorem State.modField_cut (s : State) (k : Nat) (f : FieldTest → FieldTest) : (s.modField k f).cut = s.cut := rfl
@[simp] theorem State.modField_get_cove (s : State) (k : Nat) (f : FieldTest → FieldTest) (j : Nat) : (s.modField k f).cove j = s.cove j := rfl
@[simp] theorem State.modField_get_stack (s : State) (k : Nat) (f : FieldTest → FieldTest) (j : Nat) : (s.modField k f).stack j = s.stack j := rfl
@[simp] theorem State.modField_get_stream (s : State) (k : Nat) (f : FieldTest → FieldTest) (j : Nat) : (s.modField k f).stream j = s.stream j := rfl
@[simp] theorem State.modField_get_bay (s : State) (k : Nat) (f : FieldTest → FieldTest) (j : Nat) : (s.modField k f).bay j = s.bay j := rfl
@[simp] theorem State.modField_get_sess (s : State) (k : Nat) (f : FieldTest → FieldTest) (j : Nat) : (s.modField k f).sess j = s.sess j := rfl
@[simp] theorem State.modField_get_qp (s : State) (k : Nat) (f : FieldTest → FieldTest) (j : Nat) : (s.modField k f).qp j = s.qp j := rfl
@[simp] theorem State.modField_get_port (s : State) (k : Nat) (f : FieldTest → FieldTest) (j : Nat) : (s.modField k f).port j = s.port j := rfl
@[simp] theorem State.modField_get_portQ (s : State) (k : Nat) (f : FieldTest → FieldTest) (j : Nat) : (s.modField k f).portQ j = s.portQ j := rfl
@[simp] theorem State.modField_get_half (s : State) (k : Nat) (f : FieldTest → FieldTest) (j : Nat) : (s.modField k f).half j = s.half j := rfl
@[simp] theorem State.modField_get_pll (s : State) (k : Nat) (f : FieldTest → FieldTest) (j : Nat) : (s.modField k f).pll j = s.pll j := rfl
@[simp] theorem State.modField_get_seamPath (s : State) (k : Nat) (f : FieldTest → FieldTest) (j : Nat) : (s.modField k f).seamPath j = s.seamPath j := rfl

@[simp] theorem State.modCoveTest_pending (s : State) (k : Nat) (f : CoveTest → CoveTest) : (s.modCoveTest k f).pending = s.pending := rfl
@[simp] theorem State.modCoveTest_free (s : State) (k : Nat) (f : CoveTest → CoveTest) : (s.modCoveTest k f).free = s.free := rfl
@[simp] theorem State.modCoveTest_clk (s : State) (k : Nat) (f : CoveTest → CoveTest) : (s.modCoveTest k f).clk = s.clk := rfl
@[simp] theorem State.modCoveTest_mt (s : State) (k : Nat) (f : CoveTest → CoveTest) : (s.modCoveTest k f).mt = s.mt := rfl
@[simp] theorem State.modCoveTest_coves (s : State) (k : Nat) (f : CoveTest → CoveTest) : (s.modCoveTest k f).coves = s.coves := rfl
@[simp] theorem State.modCoveTest_hbm (s : State) (k : Nat) (f : CoveTest → CoveTest) : (s.modCoveTest k f).hbm = s.hbm := rfl
@[simp] theorem State.modCoveTest_ctrls (s : State) (k : Nat) (f : CoveTest → CoveTest) : (s.modCoveTest k f).ctrls = s.ctrls := rfl
@[simp] theorem State.modCoveTest_streams (s : State) (k : Nat) (f : CoveTest → CoveTest) : (s.modCoveTest k f).streams = s.streams := rfl
@[simp] theorem State.modCoveTest_bays (s : State) (k : Nat) (f : CoveTest → CoveTest) : (s.modCoveTest k f).bays = s.bays := rfl
@[simp] theorem State.modCoveTest_sessions (s : State) (k : Nat) (f : CoveTest → CoveTest) : (s.modCoveTest k f).sessions = s.sessions := rfl
@[simp] theorem State.modCoveTest_qps (s : State) (k : Nat) (f : CoveTest → CoveTest) : (s.modCoveTest k f).qps = s.qps := rfl
@[simp] theorem State.modCoveTest_ports (s : State) (k : Nat) (f : CoveTest → CoveTest) : (s.modCoveTest k f).ports = s.ports := rfl
@[simp] theorem State.modCoveTest_portq (s : State) (k : Nat) (f : CoveTest → CoveTest) : (s.modCoveTest k f).portq = s.portq := rfl
@[simp] theorem State.modCoveTest_jetty (s : State) (k : Nat) (f : CoveTest → CoveTest) : (s.modCoveTest k f).jetty = s.jetty := rfl
@[simp] theorem State.modCoveTest_integ (s : State) (k : Nat) (f : CoveTest → CoveTest) : (s.modCoveTest k f).integ = s.integ := rfl
@[simp] theorem State.modCoveTest_net (s : State) (k : Nat) (f : CoveTest → CoveTest) : (s.modCoveTest k f).net = s.net := rfl
@[simp] theorem State.modCoveTest_pwr (s : State) (k : Nat) (f : CoveTest → CoveTest) : (s.modCoveTest k f).pwr = s.pwr := rfl
@[simp] theorem State.modCoveTest_pwrx (s : State) (k : Nat) (f : CoveTest → CoveTest) : (s.modCoveTest k f).pwrx = s.pwrx := rfl
@[simp] theorem State.modCoveTest_img (s : State) (k : Nat) (f : CoveTest → CoveTest) : (s.modCoveTest k f).img = s.img := rfl
@[simp] theorem State.modCoveTest_su (s : State) (k : Nat) (f : CoveTest → CoveTest) : (s.modCoveTest k f).su = s.su := rfl
@[simp] theorem State.modCoveTest_ident (s : State) (k : Nat) (f : CoveTest → CoveTest) : (s.modCoveTest k f).ident = s.ident := rfl
@[simp] theorem State.modCoveTest_mg (s : State) (k : Nat) (f : CoveTest → CoveTest) : (s.modCoveTest k f).mg = s.mg := rfl
@[simp] theorem State.modCoveTest_pins (s : State) (k : Nat) (f : CoveTest → CoveTest) : (s.modCoveTest k f).pins = s.pins := rfl
@[simp] theorem State.modCoveTest_latches (s : State) (k : Nat) (f : CoveTest → CoveTest) : (s.modCoveTest k f).latches = s.latches := rfl
@[simp] theorem State.modCoveTest_cut (s : State) (k : Nat) (f : CoveTest → CoveTest) : (s.modCoveTest k f).cut = s.cut := rfl
@[simp] theorem State.modCoveTest_get_cove (s : State) (k : Nat) (f : CoveTest → CoveTest) (j : Nat) : (s.modCoveTest k f).cove j = s.cove j := rfl
@[simp] theorem State.modCoveTest_get_stack (s : State) (k : Nat) (f : CoveTest → CoveTest) (j : Nat) : (s.modCoveTest k f).stack j = s.stack j := rfl
@[simp] theorem State.modCoveTest_get_stream (s : State) (k : Nat) (f : CoveTest → CoveTest) (j : Nat) : (s.modCoveTest k f).stream j = s.stream j := rfl
@[simp] theorem State.modCoveTest_get_bay (s : State) (k : Nat) (f : CoveTest → CoveTest) (j : Nat) : (s.modCoveTest k f).bay j = s.bay j := rfl
@[simp] theorem State.modCoveTest_get_sess (s : State) (k : Nat) (f : CoveTest → CoveTest) (j : Nat) : (s.modCoveTest k f).sess j = s.sess j := rfl
@[simp] theorem State.modCoveTest_get_qp (s : State) (k : Nat) (f : CoveTest → CoveTest) (j : Nat) : (s.modCoveTest k f).qp j = s.qp j := rfl
@[simp] theorem State.modCoveTest_get_port (s : State) (k : Nat) (f : CoveTest → CoveTest) (j : Nat) : (s.modCoveTest k f).port j = s.port j := rfl
@[simp] theorem State.modCoveTest_get_portQ (s : State) (k : Nat) (f : CoveTest → CoveTest) (j : Nat) : (s.modCoveTest k f).portQ j = s.portQ j := rfl
@[simp] theorem State.modCoveTest_get_half (s : State) (k : Nat) (f : CoveTest → CoveTest) (j : Nat) : (s.modCoveTest k f).half j = s.half j := rfl
@[simp] theorem State.modCoveTest_get_pll (s : State) (k : Nat) (f : CoveTest → CoveTest) (j : Nat) : (s.modCoveTest k f).pll j = s.pll j := rfl
@[simp] theorem State.modCoveTest_get_seamPath (s : State) (k : Nat) (f : CoveTest → CoveTest) (j : Nat) : (s.modCoveTest k f).seamPath j = s.seamPath j := rfl

@[simp] theorem State.modCore_pending (s : State) (r : CoreRef) (f : PCore → PCore) : (s.modCore r f).pending = s.pending := rfl
@[simp] theorem State.modCore_free (s : State) (r : CoreRef) (f : PCore → PCore) : (s.modCore r f).free = s.free := rfl
@[simp] theorem State.modCore_clk (s : State) (r : CoreRef) (f : PCore → PCore) : (s.modCore r f).clk = s.clk := rfl
@[simp] theorem State.modCore_mt (s : State) (r : CoreRef) (f : PCore → PCore) : (s.modCore r f).mt = s.mt := rfl
@[simp] theorem State.modCore_hbm (s : State) (r : CoreRef) (f : PCore → PCore) : (s.modCore r f).hbm = s.hbm := rfl
@[simp] theorem State.modCore_ctrls (s : State) (r : CoreRef) (f : PCore → PCore) : (s.modCore r f).ctrls = s.ctrls := rfl
@[simp] theorem State.modCore_streams (s : State) (r : CoreRef) (f : PCore → PCore) : (s.modCore r f).streams = s.streams := rfl
@[simp] theorem State.modCore_bays (s : State) (r : CoreRef) (f : PCore → PCore) : (s.modCore r f).bays = s.bays := rfl
@[simp] theorem State.modCore_sessions (s : State) (r : CoreRef) (f : PCore → PCore) : (s.modCore r f).sessions = s.sessions := rfl
@[simp] theorem State.modCore_qps (s : State) (r : CoreRef) (f : PCore → PCore) : (s.modCore r f).qps = s.qps := rfl
@[simp] theorem State.modCore_ports (s : State) (r : CoreRef) (f : PCore → PCore) : (s.modCore r f).ports = s.ports := rfl
@[simp] theorem State.modCore_portq (s : State) (r : CoreRef) (f : PCore → PCore) : (s.modCore r f).portq = s.portq := rfl
@[simp] theorem State.modCore_jetty (s : State) (r : CoreRef) (f : PCore → PCore) : (s.modCore r f).jetty = s.jetty := rfl
@[simp] theorem State.modCore_integ (s : State) (r : CoreRef) (f : PCore → PCore) : (s.modCore r f).integ = s.integ := rfl
@[simp] theorem State.modCore_rot (s : State) (r : CoreRef) (f : PCore → PCore) : (s.modCore r f).rot = s.rot := rfl
@[simp] theorem State.modCore_net (s : State) (r : CoreRef) (f : PCore → PCore) : (s.modCore r f).net = s.net := rfl
@[simp] theorem State.modCore_pwr (s : State) (r : CoreRef) (f : PCore → PCore) : (s.modCore r f).pwr = s.pwr := rfl
@[simp] theorem State.modCore_pwrx (s : State) (r : CoreRef) (f : PCore → PCore) : (s.modCore r f).pwrx = s.pwrx := rfl
@[simp] theorem State.modCore_img (s : State) (r : CoreRef) (f : PCore → PCore) : (s.modCore r f).img = s.img := rfl
@[simp] theorem State.modCore_su (s : State) (r : CoreRef) (f : PCore → PCore) : (s.modCore r f).su = s.su := rfl
@[simp] theorem State.modCore_ident (s : State) (r : CoreRef) (f : PCore → PCore) : (s.modCore r f).ident = s.ident := rfl
@[simp] theorem State.modCore_mg (s : State) (r : CoreRef) (f : PCore → PCore) : (s.modCore r f).mg = s.mg := rfl
@[simp] theorem State.modCore_pins (s : State) (r : CoreRef) (f : PCore → PCore) : (s.modCore r f).pins = s.pins := rfl
@[simp] theorem State.modCore_latches (s : State) (r : CoreRef) (f : PCore → PCore) : (s.modCore r f).latches = s.latches := rfl
@[simp] theorem State.modCore_cut (s : State) (r : CoreRef) (f : PCore → PCore) : (s.modCore r f).cut = s.cut := rfl
@[simp] theorem State.modCore_get_stack (s : State) (r : CoreRef) (f : PCore → PCore) (j : Nat) : (s.modCore r f).stack j = s.stack j := rfl
@[simp] theorem State.modCore_get_stream (s : State) (r : CoreRef) (f : PCore → PCore) (j : Nat) : (s.modCore r f).stream j = s.stream j := rfl
@[simp] theorem State.modCore_get_bay (s : State) (r : CoreRef) (f : PCore → PCore) (j : Nat) : (s.modCore r f).bay j = s.bay j := rfl
@[simp] theorem State.modCore_get_sess (s : State) (r : CoreRef) (f : PCore → PCore) (j : Nat) : (s.modCore r f).sess j = s.sess j := rfl
@[simp] theorem State.modCore_get_qp (s : State) (r : CoreRef) (f : PCore → PCore) (j : Nat) : (s.modCore r f).qp j = s.qp j := rfl
@[simp] theorem State.modCore_get_port (s : State) (r : CoreRef) (f : PCore → PCore) (j : Nat) : (s.modCore r f).port j = s.port j := rfl
@[simp] theorem State.modCore_get_portQ (s : State) (r : CoreRef) (f : PCore → PCore) (j : Nat) : (s.modCore r f).portQ j = s.portQ j := rfl
@[simp] theorem State.modCore_get_half (s : State) (r : CoreRef) (f : PCore → PCore) (j : Nat) : (s.modCore r f).half j = s.half j := rfl
@[simp] theorem State.modCore_get_pll (s : State) (r : CoreRef) (f : PCore → PCore) (j : Nat) : (s.modCore r f).pll j = s.pll j := rfl
@[simp] theorem State.modCore_get_seamPath (s : State) (r : CoreRef) (f : PCore → PCore) (j : Nat) : (s.modCore r f).seamPath j = s.seamPath j := rfl
@[simp] theorem State.modCore_get_field (s : State) (r : CoreRef) (f : PCore → PCore) (j : Nat) : (s.modCore r f).field j = s.field j := rfl
@[simp] theorem State.modCore_get_coveTest (s : State) (r : CoreRef) (f : PCore → PCore) (j : Nat) : (s.modCore r f).coveTest j = s.coveTest j := rfl

@[simp] theorem State.spend_pending (s : State) (n : Nat) : (s.spend n).pending = s.pending := rfl
@[simp] theorem State.spend_clk (s : State) (n : Nat) : (s.spend n).clk = s.clk := rfl
@[simp] theorem State.spend_mt (s : State) (n : Nat) : (s.spend n).mt = s.mt := rfl
@[simp] theorem State.spend_coves (s : State) (n : Nat) : (s.spend n).coves = s.coves := rfl
@[simp] theorem State.spend_hbm (s : State) (n : Nat) : (s.spend n).hbm = s.hbm := rfl
@[simp] theorem State.spend_ctrls (s : State) (n : Nat) : (s.spend n).ctrls = s.ctrls := rfl
@[simp] theorem State.spend_streams (s : State) (n : Nat) : (s.spend n).streams = s.streams := rfl
@[simp] theorem State.spend_bays (s : State) (n : Nat) : (s.spend n).bays = s.bays := rfl
@[simp] theorem State.spend_sessions (s : State) (n : Nat) : (s.spend n).sessions = s.sessions := rfl
@[simp] theorem State.spend_qps (s : State) (n : Nat) : (s.spend n).qps = s.qps := rfl
@[simp] theorem State.spend_ports (s : State) (n : Nat) : (s.spend n).ports = s.ports := rfl
@[simp] theorem State.spend_portq (s : State) (n : Nat) : (s.spend n).portq = s.portq := rfl
@[simp] theorem State.spend_jetty (s : State) (n : Nat) : (s.spend n).jetty = s.jetty := rfl
@[simp] theorem State.spend_integ (s : State) (n : Nat) : (s.spend n).integ = s.integ := rfl
@[simp] theorem State.spend_rot (s : State) (n : Nat) : (s.spend n).rot = s.rot := rfl
@[simp] theorem State.spend_net (s : State) (n : Nat) : (s.spend n).net = s.net := rfl
@[simp] theorem State.spend_pwr (s : State) (n : Nat) : (s.spend n).pwr = s.pwr := rfl
@[simp] theorem State.spend_pwrx (s : State) (n : Nat) : (s.spend n).pwrx = s.pwrx := rfl
@[simp] theorem State.spend_img (s : State) (n : Nat) : (s.spend n).img = s.img := rfl
@[simp] theorem State.spend_su (s : State) (n : Nat) : (s.spend n).su = s.su := rfl
@[simp] theorem State.spend_ident (s : State) (n : Nat) : (s.spend n).ident = s.ident := rfl
@[simp] theorem State.spend_mg (s : State) (n : Nat) : (s.spend n).mg = s.mg := rfl
@[simp] theorem State.spend_pins (s : State) (n : Nat) : (s.spend n).pins = s.pins := rfl
@[simp] theorem State.spend_latches (s : State) (n : Nat) : (s.spend n).latches = s.latches := rfl
@[simp] theorem State.spend_cut (s : State) (n : Nat) : (s.spend n).cut = s.cut := rfl
@[simp] theorem State.spend_get_cove (s : State) (n : Nat) (j : Nat) : (s.spend n).cove j = s.cove j := rfl
@[simp] theorem State.spend_get_stack (s : State) (n : Nat) (j : Nat) : (s.spend n).stack j = s.stack j := rfl
@[simp] theorem State.spend_get_stream (s : State) (n : Nat) (j : Nat) : (s.spend n).stream j = s.stream j := rfl
@[simp] theorem State.spend_get_bay (s : State) (n : Nat) (j : Nat) : (s.spend n).bay j = s.bay j := rfl
@[simp] theorem State.spend_get_sess (s : State) (n : Nat) (j : Nat) : (s.spend n).sess j = s.sess j := rfl
@[simp] theorem State.spend_get_qp (s : State) (n : Nat) (j : Nat) : (s.spend n).qp j = s.qp j := rfl
@[simp] theorem State.spend_get_port (s : State) (n : Nat) (j : Nat) : (s.spend n).port j = s.port j := rfl
@[simp] theorem State.spend_get_portQ (s : State) (n : Nat) (j : Nat) : (s.spend n).portQ j = s.portQ j := rfl
@[simp] theorem State.spend_get_half (s : State) (n : Nat) (j : Nat) : (s.spend n).half j = s.half j := rfl
@[simp] theorem State.spend_get_pll (s : State) (n : Nat) (j : Nat) : (s.spend n).pll j = s.pll j := rfl
@[simp] theorem State.spend_get_seamPath (s : State) (n : Nat) (j : Nat) : (s.spend n).seamPath j = s.seamPath j := rfl
@[simp] theorem State.spend_get_field (s : State) (n : Nat) (j : Nat) : (s.spend n).field j = s.field j := rfl
@[simp] theorem State.spend_get_coveTest (s : State) (n : Nat) (j : Nat) : (s.spend n).coveTest j = s.coveTest j := rfl

@[simp] theorem State.setCove_cove (s : State) (c : Nat) (v : Cove) : (s.setCove c v).cove c = v := Tab.get_set_same _ _ _ _
theorem State.setCove_cove_other (s : State) (v : Cove) {c d : Nat} (h : d ≠ c) : (s.setCove c v).cove d = s.cove d := Tab.get_set_other _ _ _ h
@[simp] theorem State.modCove_cove (s : State) (c : Nat) (f : Cove → Cove) : (s.modCove c f).cove c = f (s.cove c) := Tab.get_set_same _ _ _ _
theorem State.modCove_cove_other (s : State) (f : Cove → Cove) {c d : Nat} (h : d ≠ c) : (s.modCove c f).cove d = s.cove d :=
  Tab.get_set_other _ _ _ h
@[simp] theorem State.modStack_stack (s : State) (k : Nat) (f : Stack → Stack) : (s.modStack k f).stack k = f (s.stack k) := Tab.get_upd_same _ _ _ _
theorem State.modStack_stack_other (s : State) (f : Stack → Stack) {k j : Nat} (h : j ≠ k) : (s.modStack k f).stack j = s.stack j := Tab.get_upd_other _ _ _ h
@[simp] theorem State.modStream_stream (s : State) (k : Nat) (f : StreamPort → StreamPort) : (s.modStream k f).stream k = f (s.stream k) := Tab.get_upd_same _ _ _ _
theorem State.modStream_stream_other (s : State) (f : StreamPort → StreamPort) {k j : Nat} (h : j ≠ k) : (s.modStream k f).stream j = s.stream j := Tab.get_upd_other _ _ _ h
@[simp] theorem State.modBay_bay (s : State) (k : Nat) (f : Bay → Bay) : (s.modBay k f).bay k = f (s.bay k) := Tab.get_upd_same _ _ _ _
theorem State.modBay_bay_other (s : State) (f : Bay → Bay) {k j : Nat} (h : j ≠ k) : (s.modBay k f).bay j = s.bay j := Tab.get_upd_other _ _ _ h
@[simp] theorem State.modSess_sess (s : State) (k : Nat) (f : Session → Session) : (s.modSess k f).sess k = f (s.sess k) := Tab.get_upd_same _ _ _ _
theorem State.modSess_sess_other (s : State) (f : Session → Session) {k j : Nat} (h : j ≠ k) : (s.modSess k f).sess j = s.sess j := Tab.get_upd_other _ _ _ h
@[simp] theorem State.modQp_qp (s : State) (k : Nat) (f : Qp → Qp) : (s.modQp k f).qp k = f (s.qp k) := Tab.get_upd_same _ _ _ _
theorem State.modQp_qp_other (s : State) (f : Qp → Qp) {k j : Nat} (h : j ≠ k) : (s.modQp k f).qp j = s.qp j := Tab.get_upd_other _ _ _ h
@[simp] theorem State.modPort_port (s : State) (k : Nat) (f : Port → Port) : (s.modPort k f).port k = f (s.port k) := Tab.get_upd_same _ _ _ _
theorem State.modPort_port_other (s : State) (f : Port → Port) {k j : Nat} (h : j ≠ k) : (s.modPort k f).port j = s.port j := Tab.get_upd_other _ _ _ h
@[simp] theorem State.modPortQ_portQ (s : State) (k : Nat) (f : PortQueues → PortQueues) : (s.modPortQ k f).portQ k = f (s.portQ k) := Tab.get_upd_same _ _ _ _
theorem State.modPortQ_portQ_other (s : State) (f : PortQueues → PortQueues) {k j : Nat} (h : j ≠ k) : (s.modPortQ k f).portQ j = s.portQ j := Tab.get_upd_other _ _ _ h
@[simp] theorem State.modHalf_half (s : State) (k : Nat) (f : Half → Half) : (s.modHalf k f).half k = f (s.half k) := Tab.get_upd_same _ _ _ _
theorem State.modHalf_half_other (s : State) (f : Half → Half) {k j : Nat} (h : j ≠ k) : (s.modHalf k f).half j = s.half j := Tab.get_upd_other _ _ _ h
@[simp] theorem State.modHalf_get_pll (s : State) (k : Nat) (f : Half → Half) (j : Nat) : (s.modHalf k f).pll j = s.pll j := rfl
@[simp] theorem State.modHalf_get_seamPath (s : State) (k : Nat) (f : Half → Half) (j : Nat) : (s.modHalf k f).seamPath j = s.seamPath j := rfl
@[simp] theorem State.modPll_pll (s : State) (k : Nat) (f : Pll → Pll) : (s.modPll k f).pll k = f (s.pll k) := Tab.get_upd_same _ _ _ _
theorem State.modPll_pll_other (s : State) (f : Pll → Pll) {k j : Nat} (h : j ≠ k) : (s.modPll k f).pll j = s.pll j := Tab.get_upd_other _ _ _ h
@[simp] theorem State.modPll_get_half (s : State) (k : Nat) (f : Pll → Pll) (j : Nat) : (s.modPll k f).half j = s.half j := rfl
@[simp] theorem State.modPll_get_seamPath (s : State) (k : Nat) (f : Pll → Pll) (j : Nat) : (s.modPll k f).seamPath j = s.seamPath j := rfl
@[simp] theorem State.modSeam_seamPath (s : State) (k : Nat) (f : SeamPath → SeamPath) : (s.modSeam k f).seamPath k = f (s.seamPath k) := Tab.get_upd_same _ _ _ _
theorem State.modSeam_seamPath_other (s : State) (f : SeamPath → SeamPath) {k j : Nat} (h : j ≠ k) : (s.modSeam k f).seamPath j = s.seamPath j := Tab.get_upd_other _ _ _ h
@[simp] theorem State.modSeam_get_half (s : State) (k : Nat) (f : SeamPath → SeamPath) (j : Nat) : (s.modSeam k f).half j = s.half j := rfl
@[simp] theorem State.modSeam_get_pll (s : State) (k : Nat) (f : SeamPath → SeamPath) (j : Nat) : (s.modSeam k f).pll j = s.pll j := rfl
@[simp] theorem State.modField_field (s : State) (k : Nat) (f : FieldTest → FieldTest) : (s.modField k f).field k = f (s.field k) := Tab.get_upd_same _ _ _ _
theorem State.modField_field_other (s : State) (f : FieldTest → FieldTest) {k j : Nat} (h : j ≠ k) : (s.modField k f).field j = s.field j := Tab.get_upd_other _ _ _ h
@[simp] theorem State.modField_get_coveTest (s : State) (k : Nat) (f : FieldTest → FieldTest) (j : Nat) : (s.modField k f).coveTest j = s.coveTest j := rfl
@[simp] theorem State.modCoveTest_coveTest (s : State) (k : Nat) (f : CoveTest → CoveTest) : (s.modCoveTest k f).coveTest k = f (s.coveTest k) := Tab.get_upd_same _ _ _ _
theorem State.modCoveTest_coveTest_other (s : State) (f : CoveTest → CoveTest) {k j : Nat} (h : j ≠ k) : (s.modCoveTest k f).coveTest j = s.coveTest j := Tab.get_upd_other _ _ _ h
@[simp] theorem State.modCoveTest_get_field (s : State) (k : Nat) (f : CoveTest → CoveTest) (j : Nat) : (s.modCoveTest k f).field j = s.field j := rfl

@[simp] theorem Cove.modCore_core (c : Cove) (k : Nat) (f : PCore → PCore) : (c.modCore k f).core k = f (c.core k) := Tab.get_upd_same _ _ _ _
theorem Cove.modCore_core_other (c : Cove) (f : PCore → PCore) {k j : Nat} (h : j ≠ k) : (c.modCore k f).core j = c.core j :=
  Tab.get_upd_other _ _ _ h
@[simp] theorem State.modCore_core (s : State) (r : CoreRef) (f : PCore → PCore) : (s.modCore r f).core r = f (s.core r) := by
  simp [State.core, State.modCore]
theorem State.modCore_core_other (s : State) (f : PCore → PCore) {r q : CoreRef} (h : q.cove ≠ r.cove ∨ q.core ≠ r.core) :
    (s.modCore r f).core q = s.core q := by
  unfold State.core State.modCore
  by_cases e : q.cove = r.cove
  · rw [e, State.modCove_cove]
    exact Cove.modCore_core_other _ _ fun x => (h.resolve_left fun x => x e) (Fin.ext x)
  · rw [State.modCove_cove_other _ _ fun x => e (Fin.ext x)]

@[simp] theorem Cove.modCore_latches (c : Cove) (k : Nat) (f : PCore → PCore) : (c.modCore k f).latches = c.latches := rfl
@[simp] theorem Cove.modCore_brk (c : Cove) (k : Nat) (f : PCore → PCore) : (c.modCore k f).brk = c.brk := rfl
@[simp] theorem Cove.modCore_sp (c : Cove) (k : Nat) (f : PCore → PCore) : (c.modCore k f).sp = c.sp := rfl
@[simp] theorem Cove.modCore_spx (c : Cove) (k : Nat) (f : PCore → PCore) : (c.modCore k f).spx = c.spx := rfl
@[simp] theorem Cove.modCore_ch (c : Cove) (k : Nat) (f : PCore → PCore) : (c.modCore k f).ch = c.ch := rfl
@[simp] theorem Cove.modCore_tide (c : Cove) (k : Nat) (f : PCore → PCore) : (c.modCore k f).tide = c.tide := rfl
@[simp] theorem Cove.modCore_net (c : Cove) (k : Nat) (f : PCore → PCore) : (c.modCore k f).net = c.net := rfl
@[simp] theorem Cove.modCore_ig (c : Cove) (k : Nat) (f : PCore → PCore) : (c.modCore k f).ig = c.ig := rfl
@[simp] theorem Cove.modCore_telem (c : Cove) (k : Nat) (f : PCore → PCore) : (c.modCore k f).telem = c.telem := rfl
@[simp] theorem Cove.modLatch_cores (c : Cove) (k p : Nat) (f : Latches → Latches) : (c.modLatch k p f).cores = c.cores := rfl
@[simp] theorem Cove.modLatch_brk (c : Cove) (k p : Nat) (f : Latches → Latches) : (c.modLatch k p f).brk = c.brk := rfl
@[simp] theorem Cove.modLatch_sp (c : Cove) (k p : Nat) (f : Latches → Latches) : (c.modLatch k p f).sp = c.sp := rfl
@[simp] theorem Cove.modLatch_spx (c : Cove) (k p : Nat) (f : Latches → Latches) : (c.modLatch k p f).spx = c.spx := rfl
@[simp] theorem Cove.modLatch_ch (c : Cove) (k p : Nat) (f : Latches → Latches) : (c.modLatch k p f).ch = c.ch := rfl
@[simp] theorem Cove.modLatch_tide (c : Cove) (k p : Nat) (f : Latches → Latches) : (c.modLatch k p f).tide = c.tide := rfl
@[simp] theorem Cove.modLatch_net (c : Cove) (k p : Nat) (f : Latches → Latches) : (c.modLatch k p f).net = c.net := rfl
@[simp] theorem Cove.modLatch_ig (c : Cove) (k p : Nat) (f : Latches → Latches) : (c.modLatch k p f).ig = c.ig := rfl
@[simp] theorem Cove.modLatch_telem (c : Cove) (k p : Nat) (f : Latches → Latches) : (c.modLatch k p f).telem = c.telem := rfl
@[simp] theorem Cove.modBrk_cores (c : Cove) (f : Breaker → Breaker) : (c.modBrk f).cores = c.cores := rfl
@[simp] theorem Cove.modBrk_latches (c : Cove) (f : Breaker → Breaker) : (c.modBrk f).latches = c.latches := rfl
@[simp] theorem Cove.modBrk_brk (c : Cove) (f : Breaker → Breaker) : (c.modBrk f).brk = f c.brk := rfl
@[simp] theorem Cove.modBrk_sp (c : Cove) (f : Breaker → Breaker) : (c.modBrk f).sp = c.sp := rfl
@[simp] theorem Cove.modBrk_spx (c : Cove) (f : Breaker → Breaker) : (c.modBrk f).spx = c.spx := rfl
@[simp] theorem Cove.modBrk_ch (c : Cove) (f : Breaker → Breaker) : (c.modBrk f).ch = c.ch := rfl
@[simp] theorem Cove.modBrk_tide (c : Cove) (f : Breaker → Breaker) : (c.modBrk f).tide = c.tide := rfl
@[simp] theorem Cove.modBrk_net (c : Cove) (f : Breaker → Breaker) : (c.modBrk f).net = c.net := rfl
@[simp] theorem Cove.modBrk_ig (c : Cove) (f : Breaker → Breaker) : (c.modBrk f).ig = c.ig := rfl
@[simp] theorem Cove.modBrk_telem (c : Cove) (f : Breaker → Breaker) : (c.modBrk f).telem = c.telem := rfl
@[simp] theorem Cove.modSp_cores (c : Cove) (f : Scratchpad → Scratchpad) : (c.modSp f).cores = c.cores := rfl
@[simp] theorem Cove.modSp_latches (c : Cove) (f : Scratchpad → Scratchpad) : (c.modSp f).latches = c.latches := rfl
@[simp] theorem Cove.modSp_brk (c : Cove) (f : Scratchpad → Scratchpad) : (c.modSp f).brk = c.brk := rfl
@[simp] theorem Cove.modSp_sp (c : Cove) (f : Scratchpad → Scratchpad) : (c.modSp f).sp = f c.sp := rfl
@[simp] theorem Cove.modSp_spx (c : Cove) (f : Scratchpad → Scratchpad) : (c.modSp f).spx = c.spx := rfl
@[simp] theorem Cove.modSp_ch (c : Cove) (f : Scratchpad → Scratchpad) : (c.modSp f).ch = c.ch := rfl
@[simp] theorem Cove.modSp_tide (c : Cove) (f : Scratchpad → Scratchpad) : (c.modSp f).tide = c.tide := rfl
@[simp] theorem Cove.modSp_net (c : Cove) (f : Scratchpad → Scratchpad) : (c.modSp f).net = c.net := rfl
@[simp] theorem Cove.modSp_ig (c : Cove) (f : Scratchpad → Scratchpad) : (c.modSp f).ig = c.ig := rfl
@[simp] theorem Cove.modSp_telem (c : Cove) (f : Scratchpad → Scratchpad) : (c.modSp f).telem = c.telem := rfl
@[simp] theorem Cove.modCh_cores (c : Cove) (f : Channels → Channels) : (c.modCh f).cores = c.cores := rfl
@[simp] theorem Cove.modCh_latches (c : Cove) (f : Channels → Channels) : (c.modCh f).latches = c.latches := rfl
@[simp] theorem Cove.modCh_brk (c : Cove) (f : Channels → Channels) : (c.modCh f).brk = c.brk := rfl
@[simp] theorem Cove.modCh_sp (c : Cove) (f : Channels → Channels) : (c.modCh f).sp = c.sp := rfl
@[simp] theorem Cove.modCh_spx (c : Cove) (f : Channels → Channels) : (c.modCh f).spx = c.spx := rfl
@[simp] theorem Cove.modCh_ch (c : Cove) (f : Channels → Channels) : (c.modCh f).ch = f c.ch := rfl
@[simp] theorem Cove.modCh_tide (c : Cove) (f : Channels → Channels) : (c.modCh f).tide = c.tide := rfl
@[simp] theorem Cove.modCh_net (c : Cove) (f : Channels → Channels) : (c.modCh f).net = c.net := rfl
@[simp] theorem Cove.modCh_ig (c : Cove) (f : Channels → Channels) : (c.modCh f).ig = c.ig := rfl
@[simp] theorem Cove.modCh_telem (c : Cove) (f : Channels → Channels) : (c.modCh f).telem = c.telem := rfl
@[simp] theorem Cove.modTide_cores (c : Cove) (f : Tide → Tide) : (c.modTide f).cores = c.cores := rfl
@[simp] theorem Cove.modTide_latches (c : Cove) (f : Tide → Tide) : (c.modTide f).latches = c.latches := rfl
@[simp] theorem Cove.modTide_brk (c : Cove) (f : Tide → Tide) : (c.modTide f).brk = c.brk := rfl
@[simp] theorem Cove.modTide_sp (c : Cove) (f : Tide → Tide) : (c.modTide f).sp = c.sp := rfl
@[simp] theorem Cove.modTide_spx (c : Cove) (f : Tide → Tide) : (c.modTide f).spx = c.spx := rfl
@[simp] theorem Cove.modTide_ch (c : Cove) (f : Tide → Tide) : (c.modTide f).ch = c.ch := rfl
@[simp] theorem Cove.modTide_tide (c : Cove) (f : Tide → Tide) : (c.modTide f).tide = f c.tide := rfl
@[simp] theorem Cove.modTide_net (c : Cove) (f : Tide → Tide) : (c.modTide f).net = c.net := rfl
@[simp] theorem Cove.modTide_ig (c : Cove) (f : Tide → Tide) : (c.modTide f).ig = c.ig := rfl
@[simp] theorem Cove.modTide_telem (c : Cove) (f : Tide → Tide) : (c.modTide f).telem = c.telem := rfl
@[simp] theorem Cove.modNet_cores (c : Cove) (f : Net → Net) : (c.modNet f).cores = c.cores := rfl
@[simp] theorem Cove.modNet_latches (c : Cove) (f : Net → Net) : (c.modNet f).latches = c.latches := rfl
@[simp] theorem Cove.modNet_brk (c : Cove) (f : Net → Net) : (c.modNet f).brk = c.brk := rfl
@[simp] theorem Cove.modNet_sp (c : Cove) (f : Net → Net) : (c.modNet f).sp = c.sp := rfl
@[simp] theorem Cove.modNet_spx (c : Cove) (f : Net → Net) : (c.modNet f).spx = c.spx := rfl
@[simp] theorem Cove.modNet_ch (c : Cove) (f : Net → Net) : (c.modNet f).ch = c.ch := rfl
@[simp] theorem Cove.modNet_tide (c : Cove) (f : Net → Net) : (c.modNet f).tide = c.tide := rfl
@[simp] theorem Cove.modNet_net (c : Cove) (f : Net → Net) : (c.modNet f).net = f c.net := rfl
@[simp] theorem Cove.modNet_ig (c : Cove) (f : Net → Net) : (c.modNet f).ig = c.ig := rfl
@[simp] theorem Cove.modNet_telem (c : Cove) (f : Net → Net) : (c.modNet f).telem = c.telem := rfl
@[simp] theorem Cove.modIg_cores (c : Cove) (f : Integ → Integ) : (c.modIg f).cores = c.cores := rfl
@[simp] theorem Cove.modIg_latches (c : Cove) (f : Integ → Integ) : (c.modIg f).latches = c.latches := rfl
@[simp] theorem Cove.modIg_brk (c : Cove) (f : Integ → Integ) : (c.modIg f).brk = c.brk := rfl
@[simp] theorem Cove.modIg_sp (c : Cove) (f : Integ → Integ) : (c.modIg f).sp = c.sp := rfl
@[simp] theorem Cove.modIg_spx (c : Cove) (f : Integ → Integ) : (c.modIg f).spx = c.spx := rfl
@[simp] theorem Cove.modIg_ch (c : Cove) (f : Integ → Integ) : (c.modIg f).ch = c.ch := rfl
@[simp] theorem Cove.modIg_tide (c : Cove) (f : Integ → Integ) : (c.modIg f).tide = c.tide := rfl
@[simp] theorem Cove.modIg_net (c : Cove) (f : Integ → Integ) : (c.modIg f).net = c.net := rfl
@[simp] theorem Cove.modIg_ig (c : Cove) (f : Integ → Integ) : (c.modIg f).ig = f c.ig := rfl
@[simp] theorem Cove.modIg_telem (c : Cove) (f : Integ → Integ) : (c.modIg f).telem = c.telem := rfl

@[simp] theorem Cove.modLatch_latch (c : Cove) (k p : Nat) (f : Latches → Latches) : (c.modLatch k p f).latch k p = f (c.latch k p) :=
  Tab.get_upd_same _ _ _ _

theorem Cove.modCore_ne (c : Cove) (k : Nat) (f : PCore → PCore) (h : f (c.core k) ≠ {}) : c.modCore k f ≠ {} := fun e =>
  Tab.set_ne_empty c.cores {} k h (congrArg Cove.cores e)

theorem Cove.modCore_modCore (c : Cove) (k : Nat) (f g : PCore → PCore) (h : f (c.core k) ≠ {}) :
    (c.modCore k f).modCore k g = c.modCore k fun x => g (f x) := by
  have e : (c.cores.upd {} k f).upd {} k g = c.cores.upd {} k fun x => g (f x) := by
    show (c.cores.set {} k (f (c.core k))).set {} k (g ((c.cores.upd {} k f).get {} k)) = _
    rw [Tab.set_set _ _ _ _ h, Tab.get_upd_same]
    rfl
  show ({ c with cores := (c.cores.upd {} k f).upd {} k g } : Cove) = _
  rw [e]
  rfl

/-- Two changes of one cove are one, if the first leaves it listed. -/
theorem State.modCove_modCove (s : State) (c : Nat) (f g : Cove → Cove) (h : f (s.cove c) ≠ {}) :
    (s.modCove c f).modCove c g = s.modCove c fun v => g (f v) := by
  show ({ s with coves := (s.coves.set {} c (f (s.cove c))).set {} c (g ((s.modCove c f).cove c)) } : State) = _
  rw [Tab.set_set _ _ _ _ h, State.modCove_cove]
  rfl

/-- Two changes of one core are one, if the first leaves it listed. -/
theorem State.modCore_modCore (s : State) (r : CoreRef) (f g : PCore → PCore) (h : f (s.core r) ≠ {}) :
    (s.modCore r f).modCore r g = s.modCore r fun x => g (f x) := by
  unfold State.modCore
  rw [State.modCove_modCove _ _ _ _ (Cove.modCore_ne _ _ _ h)]
  unfold State.modCove
  exact congrArg (s.setCove r.cove) (Cove.modCore_modCore _ _ _ _ h)

/-- An event whose condition holds. -/
theorem occurs_true {s t : State} {p : Bool} (h : p = true) : occurs s p t = .next t := by simp [occurs, h]

/-- An event whose condition fails. -/
theorem occurs_false {s t : State} {p : Bool} (h : p = false) : occurs s p t = .next s := by simp [occurs, h]

end Sys2Proof.Machine
end

