-- ==== Sys2Proof/Laws/Pebble.lean ====
section
/-!
SUPPORT. What the shared operations of a pebble core's instruction do: register writes, the checks before an instruction's effect, and
its completion.
-/

namespace Sys2Proof.Machine

theorem PCore.rg_wg (k : PCore) (r : BitVec 5) (x : Word) (j : BitVec 5) : (k.wg r x).rg j = if j = r ∧ j ≠ 0 then x else k.rg j := by
  unfold PCore.rg PCore.wg
  by_cases hr : r = 0 <;> by_cases hj : j = 0 <;> simp_all [Tab.get_set, ← BitVec.toNat_inj]

theorem contains_filter (l : List Nat) (r j : Nat) : (l.filter fun x => x != r).contains j = (l.contains j && j != r) := by
  apply Bool.eq_iff_iff.mpr
  simp

theorem PCore.gBad_wg (k : PCore) (r : BitVec 5) (x : Word) (j : Nat) :
    (k.wg r x).gBad.contains j = (k.gBad.contains j && !(decide (r ≠ 0) && j == r.toNat)) := by
  unfold PCore.wg
  by_cases hr : r = 0
  · simp [hr]
  · simp only [hr, if_false, not_false_eq_true, decide_true, Bool.true_and, ne_eq]
    exact contains_filter _ _ _

@[simp] theorem PCore.v_wg (k : PCore) (r : BitVec 5) (x : Word) : (k.wg r x).v = k.v := by unfold PCore.wg; split <;> rfl
@[simp] theorem PCore.vBad_wg (k : PCore) (r : BitVec 5) (x : Word) : (k.wg r x).vBad = k.vBad := by unfold PCore.wg; split <;> rfl
@[simp] theorem PCore.dmem_wg (k : PCore) (r : BitVec 5) (x : Word) : (k.wg r x).dmem = k.dmem := by unfold PCore.wg; split <;> rfl
@[simp] theorem PCore.dmemBad_wg (k : PCore) (r : BitVec 5) (x : Word) : (k.wg r x).dmemBad = k.dmemBad := by unfold PCore.wg; split <;> rfl

theorem PCore.rv_wv (k : PCore) (r : Nat) (x : Row) (j : Nat) : (k.wv r x).rv j = if j = r then x else k.rv j := by
  simp [PCore.rv, PCore.wv, Tab.get_set]

theorem PCore.vBad_wv (k : PCore) (r : Nat) (x : Row) (j : Nat) : (k.wv r x).vBad.contains j = (k.vBad.contains j && j != r) := by
  exact contains_filter _ _ _

/-- What an instruction writes: registers and local data memory, nothing else of the core. -/
def PCore.Data (k k' : PCore) : Prop :=
  k' = { k with g := k'.g, gBad := k'.gBad, v := k'.v, vBad := k'.vBad, dmem := k'.dmem, dmemBad := k'.dmemBad }

theorem PCore.Data.wg (k : PCore) (r : BitVec 5) (x : Word) : PCore.Data k (k.wg r x) := by
  unfold PCore.Data PCore.wg; split <;> rfl
theorem PCore.Data.wv (k : PCore) (r : Nat) (x : Row) : PCore.Data k (k.wv r x) := rfl
theorem PCore.Data.refl (k : PCore) : PCore.Data k k := rfl

theorem PCore.Data.finish {k k' : PCore} (h : PCore.Data k k') (cyc next : Nat) : Progress k (k'.finish cyc next) cyc next := by
  unfold PCore.Data at h
  unfold Progress
  rw [h]
  rfl

theorem PCore.writesG_wg (k : PCore) (r : BitVec 5) (x : Word) (cyc next : Nat) : WritesG r x k ((k.wg r x).finish cyc next) :=
  ⟨PCore.rg_wg k r x, PCore.gBad_wg k r x, ⟨PCore.v_wg k r x, PCore.vBad_wg k r x⟩, ⟨PCore.dmem_wg k r x, PCore.dmemBad_wg k r x⟩⟩

theorem PCore.writesV_wv (k : PCore) (r : Nat) (x : Row) (cyc next : Nat) : WritesV r x k ((k.wv r x).finish cyc next) :=
  ⟨PCore.rv_wv k r x, PCore.vBad_wv k r x, ⟨rfl, rfl⟩, ⟨rfl, rfl⟩⟩

theorem PCore.writesNone (k : PCore) (cyc next : Nat) : WritesNone k (k.finish cyc next) := ⟨⟨rfl, rfl⟩, ⟨rfl, rfl⟩, ⟨rfl, rfl⟩⟩

/-- Past its checks an instruction has its effect. -/
theorem issue_ready {s : State} {r : CoreRef} {again : CoreWait → Bool} {u : Uses} {act : State → State}
    (h : readyAgain s r again u = true) : issue s r again false u act = .next (act s) := by
  simp only [readyAgain, Bool.and_eq_true, Bool.not_eq_true'] at h
  obtain ⟨⟨⟨⟨h1, h2⟩, h3⟩, h4⟩, h5⟩ := h
  unfold issue issueIn
  simp only [h1, h2, h3, h4, h5, Bool.true_or, if_true, Bool.or_self, Bool.false_eq_true, if_false]

/-- An instruction that retires completes. -/
theorem completes_retire {c : Instr} {s base : State} {r : CoreRef} {next : Nat} {f : PCore → PCore} {P : PCore → PCore → Prop}
    (h : exec c s = .next (base.retire r next f)) (hc : base.core r = s.core r) (ht : base.cycles r.cove = s.cycles r.cove)
    (hf : PCore.Data (s.core r) (f (s.core r))) (hP : P (s.core r) ((f (s.core r)).finish (s.cycles r.cove) next)) :
    CompletesFrom c s base r next P := by
  refine ⟨base.modCore r fun k => (f k).finish (base.cycles r.cove) next, h, ?_, ?_, ?_⟩
  · rw [State.modCore_core]; rfl
  · rw [State.modCore_core, hc, ht]; exact hf.finish _ _
  · rw [State.modCore_core, hc, ht]; exact hP

end Sys2Proof.Machine
end

