-- ==== Sys2Proof/WellFormed.lean ====
section
/-!
DEFINITION. Well-formed commands: operands within the sizes of the spec's layouts (Tables 7.2, 9.2, 12.1). A command that
is not well formed stands for nothing the spec describes.
-/

namespace Sys2Proof

/-- A Tideline command has 64 descriptor bytes and whole extension units, as many as its EXT byte says (R304). -/
def JCmd.wf (c : JCmd) : Bool :=
  c.desc.length == 64 && c.ext.length == 64 * ((c.desc.getD 1 0).toNat)

/-- A current-network packet carries at most 256 payload bytes and coves that exist (R4, Table 9.2). -/
def Packet.wf (p : Packet) : Bool :=
  p.payload.length ≤ 256 && p.dstPhys.toNat < 800 && p.srcPhys.toNat < 800

/-- Well-formedness of a command. -/
def Instr.wf : Instr → Bool
  | .nop c | .challenge c | .sessionOpen c | .sessionClose c | .regionGrant c | .regionRevoke c | .attest c
  | .programLoad c | .programUnload c | .run c | .generate c | .cancel c | .stepHint c | .queryBaySummary c
  | .queryRunQueue c | .querySessionEnergy c | .queryAdmissionTrial c | .regRead c | .regWrite c | .resend c
  | .capSetBay c | .capSetModule c | .bayReset c | .maintenanceOpen c | .maintenanceClose c | .moduleReset c => c.wf
  | .dmaWritePacket p | .dmaReadPacket p _ | .dmaDataPacket p | .dmaDonePacket p | .dmaRetryPacket p
  | .flagPacket p | .broadcastPacket _ p | .telemetryPacket p | .regPacket p _ _ _ => p.wf
  | .controlPeriod m => m.bayW.length == 16 && m.bayIdleW.length == 16
  | .energyUpdate m => m.bays.length == 16
  | .stageS2 f => f.pub.length == 57
  | .sendOnly _ p | .sendOnlyWithImmediate _ _ p => p.length ≤ 4096
  | .rdmaWriteFirst _ _ p | .rdmaWriteMiddle _ p | .rdmaWriteLast _ p | .rdmaWriteOnly _ _ p => p.length ≤ 4096
  | _ => true

end Sys2Proof
end

