-- ==== Sys2Proof/Tests/Slice0.lean ====
section
/-!
SUPPORT. Tests: ill-formed commands are refused by each check of well-formedness; states that meet the hypotheses of the statements, one theorem
for each statement (`wit_…`), clause by clause; steps on small states with values that the spec gives (`test_…`).
-/

namespace Sys2Proof.Tests

open Sys2Proof Sys2Proof.Machine

set_option Elab.async false

/-! Well-formedness. -/

/-- A Tideline command of `n` descriptor bytes with EXT `e` and `m` extension bytes. -/
def jcmd (n : Nat) (e : BitVec 8) (m : Nat) : JCmd :=
  { desc := 0 :: e :: List.replicate (n - 2) 0, ext := List.replicate m 0, tag := 0, qp := 0 }

/-- A packet for cove `d` from cove `c` with `n` payload bytes. -/
def packet (c d : BitVec 10) (n : Nat) : Packet :=
  { type := 0, response := false, dlx := false, epoch := false, ordered := false, last := true, bcast := false, agent := false, dstPhys := d
    dstLog := none, srcPhys := c, srcAgent := false, srcLog := none, deadline := 0, injTime := 0, bay := 0, step := 0, attempt := 0
    stepped := false, tag := 0, gen := 0, addr := 0, count := 0, handle := none, payload := List.replicate n 0, resv := false, bad := false
    redirected := false }

theorem test_wf_command : (Instr.nop (jcmd 64 0 0)).wf = true ∧ (Instr.nop (jcmd 63 0 0)).wf = false ∧ (Instr.nop (jcmd 64 1 0)).wf = false
    ∧ (Instr.generate (jcmd 64 1 64)).wf = true := by decide
theorem test_wf_packet : (Instr.flagPacket (packet 0 799 0)).wf = true ∧ (Instr.flagPacket (packet 0 800 0)).wf = false
    ∧ (Instr.flagPacket (packet 800 0 0)).wf = false ∧ (Instr.dmaDataPacket (packet 0 0 256)).wf = true
    ∧ (Instr.dmaDataPacket (packet 0 0 257)).wf = false := by decide +kernel
theorem test_wf_readings : (Instr.energyUpdate { overhead := 0, bays := List.replicate 16 0, sessions := [] }).wf = true
    ∧ (Instr.energyUpdate { overhead := 0, bays := [], sessions := [] }).wf = false
    ∧ (Instr.controlPeriod { coreW := 0, bayW := List.replicate 16 0, bayIdleW := List.replicate 15 0 }).wf = false
    ∧ (Instr.controlPeriod { coreW := 0, bayW := List.replicate 15 0, bayIdleW := List.replicate 16 0 }).wf = false
    ∧ (Instr.stageS2 { pufOk := true, pub := [] }).wf = false ∧ (Instr.stageS2 { pufOk := true, pub := List.replicate 57 0 }).wf = true := by decide +kernel
/-- A frame for port 0 as `upPort` sets it, from another host. -/
def frame : FrameHdr := { srcMac := 0x020000000002, dstMac := 0x020000000001, vlan := none, length := 64, fcsOk := true }
/-- A request packet of connection `q`. -/
def bth (q : Fin 512) (psn : BitVec 24) : Bth := { qp := q, psn := psn, ackReq := true, ce := false, icrcOk := true, hdr := frame }
theorem test_wf_payload : (Instr.sendOnly (bth 0 0) (List.replicate 4096 0)).wf = true
    ∧ (Instr.sendOnly (bth 0 0) (List.replicate 4097 0)).wf = false
    ∧ (Instr.rdmaWriteMiddle (bth 0 0) (List.replicate 4097 0)).wf = false := by decide +kernel

/-! Helpers. -/

/-- Core 0 of cove 0. -/
def c0 : CoreRef := ⟨0, 0⟩
def onCove (f : Cove → Cove) : State := State.reset.modCove 0 f
def onCore (f : PCore → PCore) : State := State.reset.modCore c0 f
/-- The core runs. -/
def go : State := onCore fun k => { k with state := 1 }
def words (l : List (Nat × Word)) : Tab Word := l.foldl (fun t p => t.set 0 p.1 p.2) {}
/-- The core runs with general registers as given. -/
def withG (l : List (Nat × Word)) : State := onCore fun k => { k with state := 1, g := words l }
/-- A command answers a next state of which `p` holds. -/
def runs (c : Instr) (s : State) (p : State → Bool) : Bool :=
  match exec c s with
  | .next t => p t
  | _ => false
/-- A command leaves general register `n` of the core with a value. -/
def gives (c : Instr) (s : State) (n : BitVec 5) (x : Word) : Bool := runs c s fun t => (t.core c0).rg n == x && (t.core c0).pc == (s.core c0).pc + 4
/-- A command raises an exception. -/
def raises (c : Instr) (s : State) (code : Code) : Bool := runs c s fun t => (t.core c0).state == 5 && (t.core c0).excCode == code
/-- A command leaves the core stalled. -/
def waits (c : Instr) (s : State) : Bool := runs c s fun t => (t.core c0).state == 3

/-! Pebble cores (chapter 05). -/

theorem wit_IntegerRegisterInstructionsComplete : ready (withG [(1, 0xFFFFFFFF), (2, 2)]) c0 { g := [1, 2], wg := [3] } = true
    ∧ ready (onCore fun k => { k with state := 1, pc := 0x3FFC }) c0 { g := [31, 0], wg := [0] } = true := by decide
theorem test_add_wraps : gives (.add c0 ⟨3, 1, 2, 0⟩) (withG [(1, 0xFFFFFFFF), (2, 2)]) 3 1 = true := by decide
theorem test_sra_keeps_sign : gives (.sra c0 ⟨3, 1, 2, 0⟩) (withG [(1, 0x80000000), (2, 33)]) 3 0xC0000000 = true := by decide
theorem test_div_by_zero : gives (.div c0 ⟨3, 1, 2, 0⟩) (withG [(1, 7)]) 3 0xFFFFFFFF = true
    ∧ gives (.rem c0 ⟨3, 1, 2, 0⟩) (withG [(1, 7)]) 3 7 = true := by decide
theorem test_mulh_of_negatives : gives (.mulh c0 ⟨3, 1, 2, 0⟩) (withG [(1, 0xFFFFFFFF), (2, 2)]) 3 0xFFFFFFFF = true := by decide
theorem test_slt_is_signed : gives (.slt c0 ⟨3, 1, 2, 0⟩) (withG [(1, 0xFFFFFFFF), (2, 2)]) 3 1 = true
    ∧ gives (.sltu c0 ⟨3, 1, 2, 0⟩) (withG [(1, 0xFFFFFFFF), (2, 2)]) 3 0 = true := by decide
theorem test_g0_stays_zero : gives (.add c0 ⟨0, 1, 2, 0⟩) (withG [(1, 5), (2, 2)]) 0 0 = true := by decide
theorem test_next_past_the_end : raises (.add c0 ⟨3, 1, 2, 0⟩) (onCore fun k => { k with state := 1, pc := 0x3FFC }) 0x4102 = true := by decide

theorem wit_IntegerImmediateInstructionsComplete : ready (withG [(1, 5)]) c0 { g := [1], wg := [3] } = true
    ∧ ready go c0 { g := [0], wg := [3] } = true := by decide
theorem test_addi_sign_extends : gives (.addi c0 ⟨3, 1, 0xFFFF⟩) (withG [(1, 5)]) 3 4 = true := by decide
theorem test_ori_zero_extends : gives (.ori c0 ⟨3, 1, 0xFFFF⟩) (withG [(1, 0x50000)]) 3 0x5FFFF = true := by decide
theorem test_lui : gives (.lui c0 ⟨3, 0, 0x8001⟩) go 3 0x80010000 = true := by decide
theorem test_srai : gives (.srai c0 ⟨3, 1, 0, 31⟩) (withG [(1, 0x80000000)]) 3 0xFFFFFFFF = true := by decide

theorem wit_BranchesAndJumpsComplete : ready (withG [(1, 5), (2, 7)]) c0 { g := [1, 2] } = true ∧ ready go c0 {} = true
    ∧ ready go c0 { wg := [31] } = true ∧ ready go c0 { g := [1], wg := [3] } = true
    ∧ (BitVec.ofInt 32 (((withG []).core c0).pc + 4 * (0xFFF : BitVec 16).toInt)).toNat = 0x3FFC
    ∧ ¬ ((BitVec.ofInt 32 (((withG []).core c0).pc + 4 * (0xFFFF : BitVec 16).toInt)).toNat ≤ 0x3FFC) := by decide
theorem test_branch_taken : runs (.blt c0 ⟨1, 2, 0xFFF⟩) (withG [(1, 0xFFFFFFFF), (2, 7)]) (fun t => (t.core c0).pc == 0x3FFC) = true
    ∧ runs (.bltu c0 ⟨1, 2, 0xFFF⟩) (withG [(1, 0xFFFFFFFF), (2, 7)]) (fun t => (t.core c0).pc == 4) = true := by decide
theorem test_branch_back_past_zero : raises (.bne c0 ⟨1, 2, 0xFFFF⟩) (withG [(1, 5), (2, 7)]) 0x4102 = true := by decide
theorem test_jal_links : runs (.jal c0 4) go (fun t => (t.core c0).pc == 16 && (t.core c0).rg 31 == 4) = true := by decide
theorem test_jalr_misaligned : raises (.jalr c0 ⟨3, 1, 2⟩) (withG [(1, 8)]) 0x4102 = true := by decide

theorem wit_ControlInstructionsComplete : ready go c0 {} = true ∧ (go.core c0).ctl.getLsbD 3 = false
    ∧ ready (onCore fun k => { k with state := 1, ctl := 8 }) c0 {} = true ∧ readyAgain go c0 (fun x => x == .fence) {} = true
    ∧ ready go c0 { wg := [3] } = true := by decide
theorem test_trap_halts : runs (.trap c0 ⟨0, 0, 0, 0⟩) (onCore fun k => { k with state := 1, ctl := 8 }) (fun t => (t.core c0).state == 4
    && (t.core c0).pc == 4) = true := by decide
theorem test_stepend_waits : runs (.stepend c0 ⟨0, 0, 0, 0⟩) go (fun t => (t.core c0).state == 2 && (t.core c0).pc == 0) = true := by decide
theorem test_sinfo_core_number : gives (.sinfo c0 ⟨3, 5, 0, 0⟩) go 3 0 = true := by decide
/-- A posted store of the core is out. -/
def storeOut : State := onCove fun v =>
  { v.modCore 0 (fun k => { k with state := 1 }) with
    sp := { v.sp with reqs := [{ core := 0, write := true, handle := 0, off := 0, size := 8, rt := 0, vec := false, data := 0, since := 0, step := 0, pc := 0 }] } }
theorem test_fence_waits_for_stores : waits (.fence c0 ⟨0, 0, 0, 0⟩) storeOut = true := by decide

theorem wit_LocalDataInstructionsComplete : ready (withG [(1, 0xFFC)]) c0 { g := [1], wg := [3] } = true
    ∧ ready (withG [(1, 0xFFC)]) c0 { g := [1, 3] } = true ∧ ready go c0 { g := [1], wv := [7] } = true ∧ ready go c0 { g := [1], v := [7] } = true := by
  decide
theorem test_load_ends : raises (.ldw c0 ⟨3, 1, 4⟩) (withG [(1, 0xFFC)]) 0x4104 = true ∧ raises (.ldh c0 ⟨3, 1, 1⟩) (withG [(1, 0xFFC)]) 0x4103 = true
    ∧ gives (.ldw c0 ⟨3, 1, 0⟩) (withG [(1, 0xFFC)]) 3 0 = true := by decide
theorem test_store_then_load : runs (.stw c0 ⟨3, 1, 0⟩) (withG [(1, 0x10), (3, 0x818283FF)])
    (fun t => gives (.ldb c0 ⟨4, 1, 0⟩) t 4 0xFFFFFFFF && gives (.ldhu c0 ⟨4, 1, 2⟩) t 4 0x8182) = true := by decide
theorem test_load_parity : raises (.ldbu c0 ⟨3, 1, 0⟩) (onCore fun k => { k with state := 1, dmemBad := [0] }) 0x4109 = true := by decide

theorem wit_ExceptionsAreTakenInOrder : (go.core c0).state = 1 ∧ (State.reset.core c0).state ≠ 1
    ∧ ((onCore fun k => { k with state := 1, imemBad := [0] }).core c0).imemBad.contains 0 = true
    ∧ ((onCore fun k => { k with state := 1, gBad := [1] }).core c0).gBad.contains 1 = true ∧ excHardware 0x4101 = false
    ∧ (State.reset.bayOf 0) = none := by decide
theorem test_order_of_exceptions : raises (.add c0 ⟨3, 1, 2, 1⟩) (onCore fun k => { k with state := 1, imemBad := [0], gBad := [1] }) 0x4108 = true
    ∧ raises (.add c0 ⟨3, 1, 2, 1⟩) (onCore fun k => { k with state := 1, gBad := [1] }) 0x410A = true
    ∧ raises (.add c0 ⟨3, 1, 2, 1⟩) go 0x4101 = true := by decide

theorem wit_VectorIntegerInstructionsComplete : ready go c0 { v := [1, 2], wv := [3] } = true ∧ ready go c0 { g := [1], wv := [3] } = true
    ∧ ready go c0 { v := [1], wg := [3] } = true ∧ ready go c0 { g := [1], v := [3], wv := [3] } = true := by decide
theorem wit_VectorFloatInstructionsComplete : ready go c0 { v := [1, 2], wv := [3] } = true ∧ ready go c0 { v := [1, 2, 3], wv := [3] } = true
    ∧ ready go c0 { v := [1], wv := [3] } = true := by decide
theorem wit_VectorFloatReductionsComplete : ready go c0 { v := [1], wg := [3] } = true := by decide
theorem wit_VectorConversionsComplete : ready go c0 { v := [1], wv := [3] } = true ∧ ready go c0 { v := [1, 2], wv := [3] } = true := by decide
/-- Vector register 1 holds a row. -/
def withV (x : Row) : State := onCore fun k => { k with state := 1, v := ({} : Tab Row).set 0 1 x }
theorem test_vext_lane : gives (.vext c0 { vd := 0, va := 1, vb := 0, mod := 1, rs := 3 }) (withV 0x2222222211111111) 3 0x22222222 = true := by decide +kernel
theorem test_vredsum : gives (.vredsumI32 c0 { vd := 0, va := 1, vb := 0, mod := 0, rs := 3 }) (withV 0x00000002FFFFFFFF) 3 1 = true := by decide +kernel
theorem test_vadd_f32 : runs (.vaddF32 c0 { vd := 2, va := 1, vb := 1, mod := 0, rs := 0 }) (withV 0x3F800000)
    (fun t => lane ((t.core c0).rv 2) 0 == 0x40000000) = true := by decide +kernel
theorem test_vmul_f32_reserved_mode : raises (.vmulF32 c0 { vd := 2, va := 1, vb := 1, mod := 2, rs := 0 }) go 0x4013 = true := by decide +kernel
theorem test_vredsum_f32 : gives (.vredsumF32 c0 { vd := 0, va := 1, vb := 0, mod := 0, rs := 3 }) (withV 0x40000000_3F800000) 3 0x40400000 = true := by
  decide +kernel
theorem test_vf2i_saturates : runs (.vf2i c0 { vd := 2, va := 1, vb := 0, mod := 0, rs := 0 }) (withV 0x4F000000)
    (fun t => lane ((t.core c0).rv 2) 0 == 0x7FFFFFFF) = true := by decide +kernel

/-! Scratchpad (chapter 06). -/

theorem wit_ScratchpadAccessesArePresented : readyAgain (withG [(1, 8)]) c0 (fun x => x == .spLimit ⟨4, 1, 0, 0, 0⟩) { g := [1], wg := [4, 5] } = true
    ∧ readyAgain go c0 (fun x => x == .spLimit ⟨7, 1, 0, 3, 0⟩) { g := [1], wv := [7] } = true
    ∧ ((0 : BitVec 5).getLsbD 0 = false) ∧ (handleEntry 0).valid = false := by decide
theorem test_spld_misaligned : raises (.spld c0 ⟨4, 1, 0, 0, 0⟩) (withG [(1, 4)]) 0x4105 = true := by decide
theorem test_spld_odd_rt : raises (.spld c0 ⟨5, 1, 0, 0, 0⟩) (withG [(1, 8)]) 0x4101 = true := by decide
theorem test_spld_invalid_handle : raises (.spld c0 ⟨4, 1, 0, 0, 0⟩) (withG [(1, 8)]) 0x5011 = true := by decide
/-- A handle over one row of bank 0 and a granted request on it. -/
def spCove (q : NarrowReq) : State := onCove fun v =>
  { v.modCore 0 (fun k => { k with state := 1 }) with
    sp := { v.sp with reqs := [q], handles := ({} : Tab (BitVec 128)).set 0 0 (BitVec.ofNat 128 (1 + 2 ^ 32 + 2 ^ 64)) } }
def req0 (w : Bool) : NarrowReq :=
  { core := 0, write := w, handle := 0, off := 8, size := 8, rt := 4, vec := false, data := 0x55, since := 0, step := 0, pc := 0 }
theorem wit_ScratchpadGrantTakesEffect : ((spCove (req0 true)).cove 0).sp.reqs = [req0 true]
    ∧ ((((spCove (req0 true)).cove 0).sp.handle 0).place (8 / 64)).1 = 0
    ∧ ((spCove (req0 true)).stepsAt 0).1.judge (((spCove (req0 true)).cove 0).sp.handle 0) 0 ≠ .stall
    ∧ ((spCove (req0 false)).cove 0).sp.rowBad 0 0 8 8 = false := by decide +kernel
/-- The only request of its bank may take it: in a cycle without a row of the feed, and after 8 cycles of waiting in one with; a step that may not
write there holds it back; bytes with bad parity may be read. -/
theorem wit_arbiter_candidates : ((spCove (req0 false)).cove 0).sp.reqs[0]? = some (req0 false) ∧ (req0 false).core < 16
    ∧ (req0 false).since + 8 ≤ ((spCove (req0 false)).modHalf 0 fun h => { h with cyc160 := 1280 }).cycles 0
    ∧ ¬ (req0 false).since + 8 ≤ ((spCove (req0 false)).modHalf 0 fun h => { h with cyc160 := 1279 }).cycles 0
    ∧ (((spCove (req0 false)).modCove 0 fun v => { v with sp := { v.sp with bad := [8] } }).cove 0).sp.rowBad 0 0 8 8 = true
    ∧ (State.reset.cove 0).sp.reqs = [] := by decide +kernel
theorem test_grant_stores : runs (.scratchpadNarrowGrant 0 0 false false) (spCove (req0 true))
    (fun t => ((t.cove 0).sp.row 0 0).getD 8 0 == 0x55 && (t.cove 0).sp.reqs.isEmpty) = true := by decide +kernel

/-! Units: breaker array, DMA engine, tide latches, channels (chapters 04, 05, 07, 08, 09). -/

theorem wit_BreakerAndDmaInstructionsComplete :
    readyAgain go c0 (fun x => x == .fence) { v := [1], wg := [3] } = true
    ∧ readyAgain go c0 (fun x => x == .bwait 0) { g := [0] } = true ∧ ((go.cove 0).brk.done - 0).toNat < 2 ^ 15
    ∧ ¬ ((go.cove 0).brk.done - 1).toNat < 2 ^ 15 ∧ readyAgain (withG [(1, 1)]) c0 (fun x => x == .bwait 1) { g := [1] } = true
    ∧ readyAgain go c0 (fun x => x == .dwait 0) { g := [0] } = true ∧ (go.cove 0).net.faults.find 0 = none
    ∧ ready go c0 { wg := [3] } = true ∧ readyAgain go c0 sameDq { v := [1], wg := [3] } = true := by decide +kernel
theorem test_bwait : runs (.bwait c0 ⟨0, 0, 0, 0, 0⟩) go (fun t => (t.core c0).pc == 4) = true
    ∧ waits (.bwait c0 ⟨0, 1, 0, 0, 0⟩) (withG [(1, 1)]) = true := by decide +kernel
theorem test_dwait_fault : raises (.dwait c0 ⟨0, 0, 0, 0, 0⟩)
    (onCove fun v => { v.modCore 0 (fun k => { k with state := 1 }) with net := { v.net with faults := v.net.faults.put 0 0x7020 } }) 0x7020 = true := by
  decide +kernel

/-- The core runs and a latch holds a word placed in an earlier cycle. -/
def latched (p : Nat) (l : Latches) : State :=
  (onCove fun v => (v.modCore 0 fun k => { k with state := 1 }).modLatch 0 p fun _ => l).modHalf 0 fun h => { h with cyc160 := 1600 }
theorem wit_TideLatchInstructionsComplete :
    readyAgain go c0 (fun x => x == .sendFull 0) { g := [1] } = true ∧ readyAgain go c0 (fun x => x == .sendFull 1) { v := [1] } = true
    ∧ (go.cove 0).tide.frozen = false ∧ ((go.cove 0).latch 0 0).send.length < 2
    ∧ ((latched 0 { recv := [(7, 0, true)] }).cove 0).latch 0 0 = { recv := [(7, 0, true)] }
    ∧ 0 < (latched 0 { recv := [(7, 0, true)] }).cycles 0
    ∧ readyAgain (latched 0 { recv := [(7, 0, true)] }) c0 (fun y => y == .recvEmpty 0 3) { wg := [3] } = true := by decide +kernel
/-- The vector and token planes, and a switch that is frozen. -/
theorem wit_latch_planes : ((latched 1 { recv := [(7, 0, true)] }).cove 0).latch 0 1 = { recv := [(7, 0, true)] }
    ∧ readyAgain (latched 1 { recv := [(7, 0, true)] }) c0 (fun y => y == .recvEmpty 1 3) { wv := [3] } = true
    ∧ readyAgain (latched 2 { recv := [(7, 0, true)] }) c0 (fun y => y == .recvEmpty 2 3) { wg := [3] } = true
    ∧ ((latched 0 {}).cove 0).latch 0 0 = {} ∧ 2 ≤ (((latched 0 { send := [(1, 0, true), (2, 0, true)] }).cove 0).latch 0 0).send.length
    ∧ (((latched 0 {}).modCove 0 fun v => { v with tide := { v.tide with frozen := true } }).cove 0).tide.stopped 10 = true := by decide +kernel
theorem test_trs_takes : gives (.trs c0 ⟨3, 0, 0, 0, 0⟩) (latched 0 { recv := [(7, 0, true)] }) 3 7 = true
    ∧ waits (.trs c0 ⟨3, 0, 0, 0, 0⟩) (latched 0 {}) = true := by decide +kernel
theorem test_tss_full : waits (.tss c0 ⟨0, 1, 0, 0, 0⟩) (latched 0 { send := [(1, 0, true), (2, 0, true)] }) = true
    ∧ runs (.tss c0 ⟨0, 0, 0, 0, 0⟩) (latched 0 { send := [(1, 0, true)] }) (fun t => ((t.cove 0).latch 0 0).send.length == 2) = true := by
  decide +kernel

/-- A bay whose record and program are the least that steps can run on: logical cove 0 alone. -/
def rec0 : BayRecord :=
  { bay := 0, level := 0, queueDepth := 4, berthQuota := 2, minShare := 0, capW := 0xFFFF, granQuota := 8, holdQuota := 64, seed := 0
    uwinBase := 0, uwinLen := 0x10000, ownerKey := 0xFFFF, userKeys := [], coves := [0], extents := [⟨0, 0, 4, 0⟩] }
def prog0 : Program := { parts := [⟨1, 0, 0xFFFF, 0xFF, 1 :: List.replicate 89 0⟩], entrySets := 1, flags := 4, berths := 1 }
def inBay (s : State) (f : Bay → Bay) : State := s.modBay 0 fun y => f { y with record := some rec0, program := some prog0 }
def onBay (f : Bay → Bay) : State := inBay State.reset f

/-- The core of the bay runs with a channel table and queues as given, and a register. -/
def chans (f : Channels → Channels) (l : List (Nat × Word)) : State :=
  inBay (onCove fun v => { v.modCore 0 (fun k => { k with state := 1, g := words l }) with ch := f v.ch }) id
/-- Channel 5 of core 0, a writer, open. -/
def writer5 (h : Channels) : Channels := { h with table := h.table.set {} 5 { state := .open_, writer := true, gen := 3, core := 0 } }
theorem wit_ChannelSetupInstructionsComplete :
    ready (chans id []) c0 { g := [1], wg := [3] } = true ∧ epCove (0 : Word) < 720 ∧ ((chans id []).bayOf 0) = some 0
    ∧ ((chans id []).bay 0).has (epCove (0 : Word)) = true ∧ ((chans id []).chan 0).nextFree.isSome = true
    ∧ ((chans (fun h => h.modQueue 0 0 fun q => { q with requests := [(0, 9)] }) []).chan 0).queue 0 0 = { requests := [(0, 9)] }
    ∧ readyAgain (chans id []) c0 (fun x => x == .cacc 0 3) { wg := [3] } = true := by decide +kernel
/-- Every entry of the table in use. -/
def fullTable : Channels := { table := { rows := (List.range 4096).map fun i => (i, { state := .open_ }) } }
theorem rowsFind_range (x : ChEntry) (k : Nat) : ∀ l : List Nat, k ∈ l → rowsFind (l.map fun i => (i, x)) k = some x
  | [], h => by cases h
  | a :: l, h => by
    by_cases e : a = k
    · simp [rowsFind, e]
    · simp only [List.map_cons, rowsFind, if_neg e]
      exact rowsFind_range x k l ((List.mem_cons.mp h).resolve_left fun c => e c.symm)
/-- The table can be full; an entry can have bad parity; an endpoint can lie outside the bay. -/
theorem wit_full_table : fullTable.nextFree = none ∧ (((chans (fun h => h.modEntry 5 fun e => { e with bad := true }) [(1, 5)]).chan 0).entry 5).bad = true
    ∧ ((chans id []).bayOf 0).any (fun b => ((chans id []).bay b).has (epCove 0x40)) = false
    ∧ ((chans writer5 [(1, 0x3005)]).chan 0).holds 0 0x3005 false = true := by
  refine ⟨List.find?_eq_none.mpr fun i h => ?_, by decide +kernel, by decide +kernel, by decide +kernel⟩
  obtain ⟨j, -, rfl⟩ := List.mem_map.mp h
  have e : fullTable.entry ((fullTable.lastAlloc + 1 + j) % 4096) = { state := .open_ } := by
    simp only [Channels.entry, Tab.get, Tab.find, fullTable]
    rw [rowsFind_range _ _ _ (List.mem_range.mpr (Nat.mod_lt _ (by decide)))]
    rfl
  rw [e]
  decide
theorem test_cconn_waits : waits (.cconn c0 { rd := 3, ra := 1, rb := 0, q := 0, m := false, len := 0 }) (chans id []) = true
    ∧ gives (.cconn c0 { rd := 3, ra := 1, rb := 0, q := 0, m := false, len := 0 }) (chans id [(1, 0x20000)]) 3 0x40000000 = true := by decide +kernel
theorem test_cacc : gives (.cacc c0 { rd := 3, ra := 0, rb := 0, q := 0, m := false, len := 0 })
    (chans (fun h => h.modQueue 0 0 fun q => { q with requests := [(0, 9)] }) []) 3 (chanResult 0 (chanHandle 0 1) 0) = true := by decide +kernel

theorem wit_ChannelTransferInstructionsComplete :
    ready (chans writer5 [(1, 0x3005)]) c0 { g := [1], v := [1], wg := [3] } = true
    ∧ ((chans writer5 [(1, 0x3005)]).chan 0).holds 0 0x3005 true = true ∧ ((chans writer5 [(1, 0x3005)]).chan 0).holds 0 0x4005 true = false
    ∧ readyAgain (chans id []) c0 (fun x => x == .crecv 0 3 1) { wg := [3], wv := [1] } = true := by decide +kernel
theorem test_csend_waits : waits (.csend c0 { rd := 3, ra := 1, rb := 1, q := 0, m := false, len := 64 }) (chans writer5 [(1, 0x3005)]) = true
    ∧ raises (.csend c0 { rd := 3, ra := 1, rb := 1, q := 0, m := false, len := 65 }) (chans writer5 [(1, 0x3005)]) 0x4107 = true
    ∧ gives (.csend c0 { rd := 3, ra := 1, rb := 1, q := 0, m := false, len := 1 }) (chans writer5 [(1, 0x4005)]) 3 0x50000000 = true := by decide +kernel
/-- A message in queue 2 of core 0. -/
def message (h : Channels) : Channels := h.modQueue 0 2 fun q => { q with msgs := [{ handle := 9, len := 4, data := 0xAABBCCDD, bad := false }] }
theorem wit_SelectedQueueHoldsAMessage : selectQueue ((chans message []).chan 0) 0 0xFF false 7 = some 2
    ∧ selectQueue ((chans message []).chan 0) 0 0xFB false 7 = none := by decide +kernel
theorem test_cpoll : gives (.cpoll c0 { rd := 3, ra := 1, rb := 0, q := 0, m := false, len := 0 }) (chans message [(1, 0xFF)]) 3 (chanResult 0 0 2) = true
    ∧ gives (.cpoll c0 { rd := 3, ra := 1, rb := 0, q := 0, m := false, len := 0 }) (chans message [(1, 1)]) 3 0x30000000 = true := by decide +kernel

/-! Registers (chapters 00, 05, 20). -/

/-- Session 1 of bay 0 is open as the module owner's. -/
def ownerIn (s : State) : State := s.modSess 1 fun x => { x with state := .open_, role := .owner, gen := 1 }
def user (s : State) : State := s.modSess 2 fun x => { x with state := .open_, role := .user, gen := 1 }
theorem wit_OwnerFieldWritesTakeEffect : (ownerIn go).isOwner (.session 0 1) = true ∧ (user go).isOwner (.session 0 2) = false
    ∧ (go.core c0).state = 1 ∧ (go.core c0).pc = (go.core c0).bkpt.toNat / 4 * 4
    ∧ ¬ ((State.reset.core c0).state = 1 ∧ (State.reset.core c0).pc = (State.reset.core c0).bkpt.toNat / 4 * 4) := by decide
theorem test_halt : runs (.pbHalt (.session 0 1) c0 true) (ownerIn go) (fun t => (t.core c0).state == 4)
    && runs (.pbHalt (.session 0 2) c0 true) (user go) (fun t => (t.core c0).state == 1) = true := by decide
theorem wit_SingleStepRunsOneInstruction : ((onCore fun k => { k with state := 4, ctl := 1 }).core c0).state = 4
    ∧ ((onCore fun k => { k with state := 4, imem := words [(0, 0x0823FFFF)] }).core c0).imem.get 0 0 = 0x0823FFFF
    ∧ (0x0823FFFF : Word).toNat / 2 ^ 26 = 2 ∧ State.reset.isOwner .headland = true := by decide
theorem test_step1_addi : runs (.pbStep1 .headland c0) (onCore fun k => { k with state := 4, ctl := 1, imem := words [(0, 0x0823FFFF)], g := words [(3, 5)] })
    (fun t => (t.core c0).rg 1 == 4 && (t.core c0).state == 4) = true := by decide +kernel
theorem wit_LowWordReadsLatchHighWord : (ownerIn (onBay id)).readsBay (.session 0 1) 0 = true ∧ (user go).anySession (.session 0 2) = true
    ∧ (ownerIn go).isOwner (.session 0 1) = true := by decide
theorem test_commit_latch : runs (.stepCommitLoRead .headland 0) (onBay fun y => { y with st := { y.st with committed := 0x500000002 } })
    (fun t => t.latched .headland 0xF00000020000 0 == 5) = true := by decide
theorem wit_PlainRegisterWritesStoreTheirField : (ownerIn go).isOwner (.session 0 1) = true ∧ (user go).isOwner (.session 0 2) = false := by decide
theorem test_clk_sleep_write : runs (.registerWrite (.session 0 1) 0xF00000000304 0x00140005) (ownerIn go)
    (fun t => t.clk.slackUs == 5 && t.clk.ebbMs == 0x14) = true := by decide
theorem wit_CheckedRegisterWritesTakeEffect : (0x3F800000 : Word).toNat < 2 ^ 31 ∧ 0 < (0x3F800000 : Word).toNat / 2 ^ 23 % 256
    ∧ ¬ ((0x7F800000 : Word).toNat % 2 ^ 31 = 0 ∨ (0x7F800000 : Word).toNat / 2 ^ 23 % 256 < 255)
    ∧ (ownerIn (onBay id)).ownsBay (.session 0 1) 0 [.bay] = true ∧ (0x400 : Word).toNat % 1024 = 0 ∧ (0x400 : Word).getLsbD 10 = true
    ∧ State.reset.readsCove .headland 0 = true ∧ (onBay id).logOf 0 = some 0 ∧ (onBay id).bayOfLog 0 = some 0 ∧ (portStack 0).isSome = true := by
  decide +kernel
/-- A read of one row from address 0, posted for step 1. -/
def streamState : State := (onBay id).modStream 0 fun p => { p with d := words [(2, 0)] }
theorem wit_stream_descriptor : (streamState.streamFail 0 0 1 (streamDesc (streamState.stream 0).d 1 (streamState.stepsAt 0).2)) = none
    ∧ (streamDesc (streamState.stream 0).d 1 (streamState.stepsAt 0).2).words ≠ 0
    ∧ (streamState.streamFail 0 0 0x01000000 (streamDesc (streamState.stream 0).d 0x01000000 (streamState.stepsAt 0).2)) = some 0x8014 := by
  decide +kernel
theorem test_tolerance_infinite : runs (.toleranceWrite (.core c0) 0 3 false 0x7F800000) go (fun t => (t.core c0).excCode == 0x4034) = true
    ∧ runs (.toleranceWrite .headland 0 3 false 0x80000000) go (fun t => (t.cove 0).brk.tolRel.get 0 3 == 0) = true := by decide +kernel
theorem wit_RegisterWindowInstructionsComplete : ready (withG [(1, 0xBFFC)]) c0 { g := [1], wg := [3] } = true
    ∧ readyAgain (withG [(1, 0x80)]) c0 (fun x => x == .mwr) { g := [1, 3] } = true
    ∧ (onBay id).bayOf 0 = some 0 ∧ (onBay id).streamAt 0 = some 0 := by decide +kernel
theorem test_mrd_window_end : gives (.mrd c0 ⟨3, 1, 0⟩) (withG [(1, 0xC020)]) 3 0 = true ∧ raises (.mrd c0 ⟨3, 1, 0⟩) (withG [(1, 0x10000)]) 0x4106 = true
    ∧ raises (.mwr c0 ⟨3, 1, 0⟩) (withG [(1, 0xC000)]) 0x4106 = true := by decide +kernel

/-! Steps (chapter 02). -/

/-- The arithmetic PLLs clock. -/
def clocked (s : State) : State := [0, 1, 2, 3].foldl (fun t p => t.modPll p fun q => { q with state := .stable, fbdiv := 160 }) s
def work0 : Work := { kind := .run, sess := 0x100, cmdId := 1, maxSteps := 2 }
def step1 : StepRec := { no := 1 }
/-- A bay that runs, with live steps as given. -/
def stepping (l : List StepRec) (f : Bay → Bay) : State := clocked (onBay fun y => f { y with run := some work0, st := { y.st with live := l, next := 2 } })
def between : State := stepping [{ step1 with endedAt := some 0 }] id
theorem wit_StepStartBeginsTheNextStep : (between.bay 0).st.live ≠ [] ∧ (between.bay 0).st.replay = none ∧ (between.bay 0).st.running = none
    ∧ (between.bay 0).drainDue ((between.bay 0).st.draining || between.opHeld 0 || (between.bay 0).wantShape.isSome) = false
    ∧ (between.bay 0).run.isSome = true ∧ (between.bay 0).working = true ∧ between.mayStep 0 false = true ∧ (between.bay 0).st.room = true := by
  decide +kernel
/-- A step in two-step commit waits for its shadow tiles and the bay drains. -/
def draining : State := stepping [{ step1 with two := true, endedAt := some 0 }] fun y => { y with st := { y.st with draining := true } }
theorem wit_drain_step : (draining.bay 0).drainDue ((draining.bay 0).st.draining || draining.opHeld 0 || (draining.bay 0).wantShape.isSome) = true
    ∧ (draining.bay 0).st.running = none ∧ draining.mayStep 0 true = true ∧ ((stepping [step1] id).bay 0).st.running.isSome = true := by decide +kernel
/-- Nothing runs and the head of the queue may begin: a RUN, a GENERATE; sequences in berths go on. -/
def queued1 (k : WorkKind) : State := clocked (onBay fun y => { y with queue := [{ work0 with kind := k, maxNew := 4 }], st := { y.st with next := 2 } })
def seated : State := stepping [] fun y => { y with run := none, berths := y.berths.put 0 { work0 with kind := .generate } }
theorem wit_work_begins : ((queued1 .run).bay 0).working = false ∧ ((queued1 .run).bay 0).st.live = [] ∧ ((queued1 .run).bay 0).run = none
    ∧ (queued1 .run).jetty.maint.opening = none ∧ (queued1 .run).mayStep 0 false = true ∧ 0 < ((queued1 .generate).bay 0).berthLimit
    ∧ (((queued1 .run).modBay 0 fun y => y.applyBoundary [] false).mayStep 0 false) = true
    ∧ (seated.bay 0).working = true ∧ (seated.bay 0).run = none ∧ (seated.bay 0).st.room = true ∧ seated.mayStep 0 false = true
    ∧ ((onBay id).bay 0).queue = [] := by decide +kernel
theorem test_step_start : runs (.stepStart 0) between (fun t => (t.bay 0).st.live.length == 2 && (t.bay 0).st.next == 3) = true := by decide +kernel

theorem wit_StepBoundaryCastsVotes : ((stepping [step1] fun y => { y with run := none }).bay 0).st.running = some step1
    ∧ (stepping [step1] id).boundaryReady 0 1 = true ∧ ((stepping [step1] fun y => { y with run := none }).activeCoves 0) = [0]
    ∧ ((stepping [step1] id).cove 0).tideHeld = []
    ∧ ((stepping [step1] id).modCore c0 fun k => { k with used := true, state := 1 }).boundaryReady 0 1 = false := by decide +kernel
theorem test_step_boundary : runs (.stepBoundary 0) (stepping [step1] fun y => { y with run := none })
    (fun t => (t.bay 0).hang.progress == 1 && (t.bay 0).st.running.isNone) = true := by decide +kernel

/-- Step 1 has its vote, and stack 0 holds a shadow of it. -/
def voted (v : Option Bool) : State :=
  (stepping [{ step1 with endedAt := some 0, vote := v }] id).modStack 0 fun k =>
    { k with shadows := [{ granule := 3, bay := 0, step := 1, phys := 4 }] }
theorem wit_CommitsReleaseShadowsAndOutput : ((voted (some true)).bay 0).st.live.head? = some { step1 with endedAt := some 0, vote := some true }
    ∧ ((voted (some true)).bay 0).st.acking = []
    ∧ ((List.range 8).filter fun k => ((voted (some true)).stack k).shadows.any fun h => h.bay == 0 && h.step == 1 && !h.committed) = [0] := by
  decide +kernel
/-- A committed step that stack 0 has still to acknowledge, and one behind it. -/
def acking : State := stepping [] fun y => { y with st := { y.st with acking := [{ step1 with committed := true, waitAck := [0] }, { no := 2, committed := true }] } }
theorem wit_commit_conditions : (voted (some true)).coreHalted 0 = false ∧ (voted (some true)).streamsHold 0 1 = false
    ∧ (acking.bay 0).st.acking.length = 2 ∧ (acking.stack 0).unlanded 0 1 = false ∧ ((onBay id).bay 0).st.live = [] := by decide +kernel
theorem test_commit_then_ack : runs (.commit 0 { step := 1 }) (voted (some true)) (fun t => (t.bay 0).st.committed == 1
    && (t.bay 0).st.acking.any (fun r => r.waitAck == [0])
    && runs (.commitAck 0 1 0 []) t fun u => (u.bay 0).st.acking.isEmpty) = true := by decide +kernel
theorem wit_FirstFailureIsReplayedInPlace : ((voted (some false)).bay 0).st.live.head?.map StepRec.vote = some (some false)
    ∧ ((voted none).bay 0).st.deadline { step1 with endedAt := some 0 } = some 3000 := by decide +kernel
/-- Simulated and elapsed time. -/
def clockedAt (now elapsed : Nat) (s : State) : State := { s with clk := { s.clk with now := now, elapsed := elapsed } }
/-- Step 1 failed again: with a culprit, with none, and a third time. -/
def failedAgain (n : Nat) (c : List Nat) : State := stepping [{ step1 with attempt := n, endedAt := some 0, vote := some false, culprits := c }] id
theorem wit_later_failures : ((failedAgain 1 [0]).bay 0).st.live.head?.map StepRec.culprits = some [0] ∧ ((failedAgain 1 [0]).bay 0).unloads = []
    ∧ ((failedAgain 1 []).bay 0).st.live.head?.map StepRec.viol = some none ∧ ((failedAgain 2 []).bay 0).st.live.head?.map StepRec.attempt = some 2
    ∧ ((clockedAt 0 3001 (voted none)).bay 0).st.live.head?.map StepRec.vote = some none
    ∧ (((clockedAt 0 3001 (voted none)).bay 0).st.deadline { step1 with endedAt := some 0 }).any (fun d => decide (d < 3001)) = true := by decide +kernel
theorem test_third_failure : runs (.rollback 0 1) (failedAgain 2 []) (fun t => (t.bay 0).stopped == some 0xB021 && (t.bay 0).st.lbStopped) = true
    ∧ runs (.voteDeadline 0 1) (clockedAt 0 3001 (voted none)) (fun t => (t.bay 0).st.replay.any fun q => q.attempt == 1) = true
    ∧ runs (.voteDeadline 0 1) (clockedAt 0 3000 (voted none)) (fun t => (t.bay 0).st.replay == none) = true := by decide +kernel
theorem test_rollback : runs (.rollback 0 1) (voted (some false)) (fun t => (t.bay 0).st.replay.any fun q => q.no == 1 && q.attempt == 1) = true := by
  decide +kernel
def replaying : State := stepping [] fun y => { y with st := { y.st with replay := some { no := 1, attempt := 1, code := 0x4021 }, next := 1 } }
theorem wit_ReplayStartsTheFailedStep : (replaying.bay 0).st.replay.isSome = true ∧ (replaying.bay 0).program = some prog0
    ∧ (replaying.mayStep 0 false && (replaying.bay 0).st.running.isNone && replaying.movesDone []) = true := by decide +kernel
theorem test_replay_start : runs (.replayStart 0) replaying (fun t => (t.bay 0).st.live.any fun r => r.no == 1 && r.attempt == 1) = true := by
  decide +kernel

/-! Breaker events and integrity (chapters 04, 13). -/

/-- A MATMUL of 64 by 64 with K = 32, BF16 from handle 1 into FP32 rows of handle 2. -/
def tile : BitVec 256 := BitVec.ofNat 256 (1 + 2 ^ 6 + 2 ^ 32 + 2 ^ 38 + 2 ^ 42 + 2 ^ 96 + 2 ^ 102 + 2 ^ 106 + 2 * 2 ^ 160 + 2 ^ 170)
def fill1 : BitVec 256 := BitVec.ofNat 256 (2 + 2 ^ 6)
def handle (base len : Nat) : BitVec 128 := BitVec.ofNat 128 (1 + 0xFFFF * 2 ^ 32 + base * 2 ^ 48 + len * 2 ^ 64)
def brkState (b : Breaker) (k : PCore) : State := clocked (onCove fun v =>
  { v.modCore 0 (fun _ => k) with brk := b, sp := { v.sp with handles := ((({} : Tab (BitVec 128)).set 0 1 (handle 0 64)).set 0 2 (handle 4 256)) } })
def presentingCore (d : BitVec 256) : PCore := { state := 3, wait := some (.breaker d 3) }
def tileOp (d : BitVec 256) (n : Bool) : TileOp :=
  { desc := d, seq := 1, core := 0, step := 0, attempt := 0, tolRel := 0, tolAbs := 0, injCk := false, shadow := none, primary := none, noop := n }
def queued (d : BitVec 256) : State := brkState { queue := [tileOp d false] } {}
def drained (d : BitVec 256) (n : Bool) : State := brkState { running := [{ op := tileOp d n, set := true }] } {}
/-- A FILL of 32 cycles has begun; the governor's level has stood for a tick of R99, 250 cycles at 1 GHz. -/
def filling1 : Breaker := { running := [{ op := tileOp fill1 false, set := true, left := 256 }] }
theorem wit_BreakerEventsTakeEffect :
    ((brkState {} (presentingCore tile)).cove 0).presenting = some (0, tile, 3) ∧ tileCheck ((brkState {} {}).cove 0).sp (tileDesc tile) = 0
    ∧ ((brkState {} {}).cove 0).ig.pairs.find (tileDesc tile).tag.toNat = none ∧ (tileDesc tile).op = 1 ∧ (tileDesc tile).kblk ≠ 0
    ∧ ((((brkState {} {}).cove 0).sp.handle (tileDesc tile).d.handle).reload = false)
    ∧ ((brkState {} {}).stepsAt 0).1.judge (((brkState {} {}).cove 0).sp.handle (tileDesc tile).d.handle) ((brkState {} {}).stepsAt 0).2 ≠ .fault
    ∧ tileCheck ((brkState {} {}).cove 0).sp (tileDesc 3) = 0x4030 ∧ (queued tile).headWaits 0 (tileOp tile false) = false
    ∧ (queued fill1).headWaits 0 (tileOp fill1 false) = false ∧ (tileDesc fill1).op = 2 ∧ (tileDesc tile).accLoad = false
    ∧ (((queued tile).cove 0).sp.opRows (tileDesc tile).a 2048).all (fun w => !((queued tile).cove 0).sp.rowBad w.1 w.2 0 64) = true
    ∧ (tileDesc tile).rangeAct = false := by decide +kernel
theorem wit_breaker_comparisons : (({ op := tileOp tile false, set := true } : Stream).comparisons fun _ => (f32Val 0).1).1.all (fun r => r != .fail) = true := by
  decide +kernel
theorem test_breaker_accept : runs (.breakerAccept 0) (brkState {} (presentingCore tile)) (fun t => (t.cove 0).brk.queue.length == 1
      && (t.core c0).rg 3 == 1 && (t.core c0).state == 1) = true
    ∧ runs (.breakerAccept 0) (brkState {} (presentingCore 3)) (fun t => (t.core c0).excCode == 0x4030 && (t.cove 0).brk.rejCode == 0x4030) = true := by
  decide +kernel
/-- An operation that is done with all its streaming. -/
theorem wit_breaker_governor : ((drained fill1 false).cove 0).brk.settle ((drained fill1 false).cycles 0) = ((drained fill1 false).cove 0).brk
    ∧ ((brkState filling1 {}).cove 0).brk.settle ((brkState filling1 {}).cycles 0) = filling1 ∧ filling1.filling = true ∧ filling1.streams = true
    ∧ ((queued tile).cove 0).brk.levelAt + governorCycles ((queued tile).clockUnits 0) ≤ ((queued tile).modHalf 0 fun h => { h with cyc160 := 250 * 160 }).cycles 0
    ∧ (f32Val ((({} : Tab Word).upd 0 (3 % 4096) (· ^^^ 5)).get 0 0)).1 = (f32Val 0).1 := by decide +kernel
theorem test_breaker_fill : runs (.breakerOpStart 0 [] none) (queued fill1) (fun t => ((t.cove 0).brk.running.map fun x => x.left) == [256]) = true
    ∧ runs (.breakerOpComplete 0 [] false) (drained fill1 false) (fun t => (t.cove 0).brk.done == 1 && (t.cove 0).brk.ctr.get 0 9 == 1) = true
    ∧ runs (.breakerOpComplete 0 [] false) (brkState filling1 {}) (fun t => (t.cove 0).brk.done == 0) = true := by
  decide +kernel
theorem test_governor : runs (.governorTick 0 false) ((queued tile).modHalf 0 fun h => { h with cyc160 := 250 * 160 }) (fun t => (t.cove 0).brk.level == 1) = true
    ∧ runs (.governorTick 0 false) ((queued tile).modHalf 0 fun h => { h with cyc160 := 249 * 160 }) (fun t => (t.cove 0).brk.level == 0) = true := by
  decide +kernel

def integ (g : Integ) : State := onCove fun v => { v with ig := g }
def sig1 : PairSig := { pair := 1, step := 2, attempt := 0, sig := 9, fromCove := 1 }
def rec1 : SigPending := { code := 0x4021, time := 0, tstate := 0, at_ := 0, log := none, bay := none, step := none, window := 0, total := 0, score := 0, state := 0,
                           op := 0, temp := 0 }
def owes : Integ := { unrecorded := [rec1] }
theorem wit_SignaturesAndScoreEventsTakeEffect : ((integ {}).cove 0).ig.shadowSigs = [] ∧ ((integ {}).cove 0).ig.primSigs.length < 512
    ∧ ((integ { shadowSigs := [sig1] }).cove 0).ig.shadowSigs.find? (fun q => q.pair == 1 && q.step == 2 && q.attempt == 0) = some sig1
        ∧ ((integ {}).cove 0).ig.state ≠ .watch := by decide +kernel
theorem test_signature_match : runs (.shadowSignaturePacket 0 1 2 0 9) (integ { shadowSigs := [sig1] })
    (fun t => (t.cove 0).ig.ctr.get 0 1 == 1 && (t.cove 0).ig.shadowSigs.isEmpty) = true := by decide +kernel
/-- A score event of ten minutes ago. -/
def oldEvent (now : Nat) : State := clockedAt 0 now (integ { events := [{ at_ := 0, weight := 4, code := 0x4021 }] })
theorem test_score_expiry : runs (.scoreEventExpiry 0) (oldEvent tenMinutes) (fun t => (t.cove 0).ig.events.isEmpty) = true
    ∧ runs (.scoreEventExpiry 0) (oldEvent (tenMinutes - 1)) (fun t => (t.cove 0).ig.events.length == 1) = true := by
  decide +kernel

/-! Channel packets and timers (chapter 07). -/

/-- A channel packet of a kind for entry 5, generation 3, of cove 0; the answers of Table 7.2 are responses. -/
def chPkt (k : Nat) : ChanPkt :=
  { kind := BitVec.ofNat 4 k, seq := false, listed := false, moving := false, len := if k == 4 then 4 else 0, dst := 0x3005, src := 0x1007, srcEp := 0
    dstEp := 0, data := 0xAABBCCDD, resv := false, hdr := { packet 0 0 0 with type := 1, ordered := true, response := kindResponse k } }
/-- The current network's tables of version 0 are valid. -/
def tables (s : State) : State := { s with net := { s.net with valid0 := true } }
def chCore (f : Channels → Channels) (k : PCore) : State := tables (inBay (onCove fun v => { v.modCore 0 (fun _ => k) with ch := f v.ch }) id)
def entry5 (e : ChEntry) : Channels → Channels := fun h => { h with table := h.table.set {} 5 { e with gen := 3 } }
def waiting (w : CoreWait) : PCore := { used := true, state := 3, wait := some w }
def connecting : State := chCore (entry5 { state := .connecting, writer := true }) (waiting (.cconn 5 3))
def sending (e : ChEntry) : State := chCore (entry5 { e with writer := true }) (waiting (.csend 5 3))
def reader (q : RecvQueue) : State := chCore (fun h => (entry5 { state := .open_ } h).modQueue 0 0 fun _ => q) {}
def fullQueue : RecvQueue := { msgs := List.replicate 16 { handle := 0x3005, len := 1, data := 0, bad := false } }
theorem wit_ChannelPacketsTakeEffect :
    (connecting.receivesChan 0 1 (chPkt 1) = true ∧ connecting.inReset 0 = false ∧ ((connecting.cove 0).core (epCore (chPkt 1).dstEp)).used = true
      ∧ ((connecting.chan 0).queue 0 0).requests.length < 4)
    ∧ ((chCore (fun h => h.modQueue 0 0 fun q => { q with requests := List.replicate 4 (0, 0) }) {}).receivesChan 0 1 (chPkt 1) = true
      ∧ 4 ≤ (((chCore (fun h => h.modQueue 0 0 fun q => { q with requests := List.replicate 4 (0, 0) }) {}).chan 0).queue 0 0).requests.length)
    ∧ (connecting.receivesChan 0 2 (chPkt 2) = true ∧ connecting.receivesChan 0 3 (chPkt 3) = true
      ∧ ((connecting.chan 0).entry 5).gen = handleGen (chPkt 2).dst ∧ handleEntryOf (chPkt 2).dst = 5 ∧ ((connecting.chan 0).entry 5).state = .connecting
      ∧ (connecting.core c0).wait = some (.cconn 5 3) ∧ (connecting.core c0).pc + 4 ≠ 0x4000) := by decide +kernel
/-- DATA placed, held back for want of room, and answers to a CSEND. -/
theorem wit_channel_messages :
    ((reader {}).receivesChan 0 4 (chPkt 4) = true ∧ (reader {}).inReset 0 = false ∧ ((reader {}).chan 0).queue 0 0 = {} ∧ ((reader {}).chan 0).messagesOf 5 = [])
    ∧ ((reader fullQueue).receivesChan 0 4 (chPkt 4) = true ∧ 16 ≤ (((reader fullQueue).chan 0).queue 0 0).msgs.length
      ∧ ((reader fullQueue).chan 0).messagesOf 5 ≠ [])
    ∧ ((reader {}).receivesChan 0 8 (chPkt 8) = true ∧ (reader {}).receivesChan 0 9 (chPkt 9) = true)
    ∧ ([5, 6, 9, 10].all fun k => (sending { state := .sending }).receivesChan 0 k (chPkt k)) = true
    ∧ ((sending { state := .sending }).core c0).wait = some (.csend 5 3)
    ∧ (sending { state := .blocked, listed := true }).receivesChan 0 7 (chPkt 7) = true
    ∧ (((sending { state := .blocked, listed := true }).chan 0).entry 5).listed = true := by decide +kernel
/-- Packets of no entry, and one of a reserved kind. -/
theorem wit_channel_strays :
    ([2, 3, 5, 6, 7, 8, 9, 10].all fun k => (reader {}).receivesChan 0 k { chPkt k with dst := 0x4005 }) = true
    ∧ ((reader {}).chan 0 |>.entry (handleEntryOf 0x4005)).gen ≠ handleGen 0x4005
    ∧ (reader {}).receives (carrierOf (chPkt 11)) = true ∧ (chPkt 11).hdr.bad = false ∧ 11 ≤ (chPkt 11).kind.toNat ∧ (chPkt 0).kind = 0 := by
  decide +kernel
theorem test_accept : runs (.accept 0 (chPkt 2)) connecting (fun t => ((t.chan 0).entry 5).state == .open_ && ((t.chan 0).entry 5).farHandle == 0x1007
      && (t.core c0).rg 3 == 0x00300500 && (t.core c0).pc == 4) = true
    ∧ runs (.refuse 0 (chPkt 3)) connecting (fun t => ((t.chan 0).entry 5).state == .free && (t.core c0).rg 3 == 0x40000000) = true := by decide +kernel
theorem test_data : runs (.data 0 (chPkt 4)) (reader {}) (fun t => ((t.chan 0).queue 0 0).msgs == [{ handle := 0x3005, len := 4, data := 0xAABBCCDD, bad := false }]
      && ((t.chan 0).entry 5).placed) = true
    ∧ runs (.data 0 (chPkt 4)) (reader fullQueue) (fun t => ((t.chan 0).queue 0 0).waiters.length == 1 && (t.chan 0).full == 1) = true := by decide +kernel
theorem test_delivered : runs (.delivered 0 (chPkt 5)) (sending { state := .sending }) (fun t => ((t.chan 0).entry 5).state == .open_ && ((t.chan 0).entry 5).seq
      && (t.core c0).rg 3 == 0) = true
    ∧ runs (.closed 0 (chPkt 10)) (sending { state := .sending }) (fun t => (t.core c0).rg 3 == 0x10000000 && (t.chan 0).closed == 1) = true := by decide +kernel
theorem test_close_leaves_messages : runs (.close 0 (chPkt 9)) (reader fullQueue) (fun t => ((t.chan 0).entry 5).state == .writerClosed) = true
    ∧ runs (.close 0 (chPkt 9)) (reader {}) (fun t => ((t.chan 0).entry 5).state == .quarantine) = true
    ∧ runs (.close 0 { chPkt 9 with dst := 0x4005 }) (reader {}) (fun t => (t.chan 0).stale == 1) = true
    ∧ runs (.close 0 (chPkt 11)) (reader {}) (fun t => (t.chan 0).stale == 1) = true := by decide +kernel

def late (cn ns : Nat) (s : State) : State := { s with clk := { s.clk with cnMilli := cn * 1000 }, mt := { s.mt with ns := ns } }
def timed (e : ChEntry) (cn ns : Nat) : State := late cn ns (sending e)
theorem wit_ChannelTimersTakeEffect :
    ((timed { state := .blocked, timeout := 2, fullSince := some 0 } 0 2000).core c0).wait = some (.csend 5 3)
    ∧ (2 : Word).toNat * 1000 ≤ (((timed { state := .blocked, timeout := 2, fullSince := some 0 } 0 2000).chan 0).entry 5).waited 2000
    ∧ ¬ (2 : Word).toNat * 1000 ≤ (((timed { state := .blocked, timeout := 2, fullSince := some 0 } 0 1999).chan 0).entry 5).waited 1999
    ∧ (((timed { state := .blocked, retryAt := some 1800 } 1800 0).chan 0).entry 5).retryAt = some 1800
    ∧ (timed {} 79200 0).cnCycles = 79200 := by decide +kernel
theorem test_csend_timeout : runs (.csendTimeout c0) (timed { state := .blocked, timeout := 2, fullSince := some 0 } 0 2000)
      (fun t => (t.core c0).rg 3 == 0x20000000 && (t.chan 0).timeout == 1) = true
    ∧ runs (.csendTimeout c0) (timed { state := .blocked, timeout := 2, fullSince := some 0 } 0 1999) (fun t => (t.core c0).state == 3) = true := by
  decide +kernel
theorem test_data_retransmit : runs (.dataRetransmit c0) (timed { state := .sending } 79200 0) (fun t => (t.chan 0).retx == 1) = true
    ∧ runs (.dataRetransmit c0) (timed { state := .sending, resent := true } 79200 0) (fun t => (t.core c0).excCode == 0xA001) = true := by decide +kernel
theorem test_quarantine_end : runs (.channelQuarantineEnd 0 5) (late 57600 0 (chCore (entry5 { state := .quarantine }) {}))
      (fun t => (t.chan 0).entry 5 == { gen := 3 }) = true
    ∧ runs (.channelQuarantineEnd 0 5) (late 57599 0 (chCore (entry5 { state := .quarantine }) {})) (fun t => ((t.chan 0).entry 5).state == .quarantine) = true := by
  decide +kernel

/-! Rotation and handovers (chapter 14). -/

def timeAt (e : Nat) (s : State) : State := clockedAt 0 e s
def fields (k : FieldTest) : State := State.reset.modField 0 fun _ => k
def phase (n : BitVec 3) (r : BitVec 2) : State := fields { cove := some 18, phase := n, result := r }
/-- A test of cove 18, a spare of the first row segment at reset, is chosen. -/
def chosen : State := timeAt 50000000 (fields { pending := some 18, slotAt := some 60000000 })
def dueRow : State := onCove fun v => { v with sp := { v.sp with due := [(1, 2)], bytes := memSetByte {} (0x20000 + 2 * 64) 9 } }
/-- Every spare row of bank 1 serves. -/
def noSpare : State := dueRow.modCove 0 fun v => { v with sp := { v.sp with remap := (List.range 16).foldl (fun (t : Tab Nat) i => t.put (2048 + 5 + i) i) {} } }
theorem wit_RotationTestsTakeEffect : (fields { slotAt := some 9 }).field 0 = { slotAt := some 9 } ∧ State.reset.testsAllowed = true
    ∧ (fieldCoves 0).all (fun d => !((fields { slotAt := some 9 }).coveTest d).forced) = true ∧ (fields { slotAt := some 9 }).clk.elapsed < 9
    ∧ (fields { slotAt := some 9 }).rot.stopped = false ∧ ((fieldCoves 0).find? (timeAt 9 (fields { slotAt := some 9 })).testDue = none)
    ∧ ((fieldCoves 0).find? ((timeAt 9 (fields { slotAt := some 9 })).modCove 18 fun v => { v with ig := { v.ig with state := .held } }).testDue = some 18)
    ∧ State.reset.logOf 18 = none ∧ (State.reset.cove 18).ig.state ≠ CoveState.fenced ∧ chosen.testReady 0 = true ∧ (chosen.field 0).pending = some 18
    ∧ chosen.rot.lastStart = none ∧ ((phase 2 0).field (fieldOf 18)).cove = some 18 ∧ ((phase 4 0).field (fieldOf 18)).cove = some 18
    ∧ (dueRow.cove 0).sp.due.contains (1, 2) = true ∧ dueRow.bayOf 0 = none ∧ (dueRow.cove 0).freeSpare 1 = some 0
    ∧ (noSpare.cove 0).freeSpare 1 = none ∧ (noSpare.cove 0).sp.due.contains (1, 2) = true := by decide +kernel
/-- Cove 18 has a saved image, its digest that of its bytes in HBM, or with every bit another. -/
def saved (wrong : Bool) : State := (phase 7 1).modCove 18 fun v =>
  let d := Config.shake256 ((v.sp.fromArea (phase 7 1).hbm (saveArea 18) {}).imageBytes)
  { v with spx := { v.spx with image := some { digest := if wrong then ~~~d else d } } }
theorem wit_restored_image : (saved false).digestDiffers 18 = false ∧ (saved true).digestDiffers 18 = true
    ∧ ((saved false).field (fieldOf 18)).cove = some 18 ∧ ((saved false).field (fieldOf 18)).result = 1
    ∧ ((saved false).cove 18).spx.image.isSome = true := by
  have e : ∀ w, (saved w).digestDiffers 18 = ((Config.shake256 ((((phase 7 1).cove 18).sp.fromArea (phase 7 1).hbm (saveArea 18) {}).imageBytes)).toNat
      != (if w then ~~~Config.shake256 ((((phase 7 1).cove 18).sp.fromArea (phase 7 1).hbm (saveArea 18) {}).imageBytes)
        else Config.shake256 ((((phase 7 1).cove 18).sp.fromArea (phase 7 1).hbm (saveArea 18) {}).imageBytes)).toNat) := fun w => rfl
  generalize Config.shake256 ((((phase 7 1).cove 18).sp.fromArea (phase 7 1).hbm (saveArea 18) {}).imageBytes) = d at e
  refine ⟨by simp [e], ?_, rfl, rfl, rfl⟩
  rw [e]
  have n : d ≠ ~~~d := fun h => by simpa using congrArg (fun x => x.getLsbD 0) h
  exact bne_iff_ne.mpr fun h => n (BitVec.eq_of_toNat_eq h)
theorem test_rotation_start : runs (.rotationTestStart 0) chosen (fun t => (t.field 0).cove == some 18 && (t.field 0).phase == 2) = true
    ∧ runs (.rotationTestStart 0) { chosen with rot := { chosen.rot with lastStart := some 1 } } (fun t => (t.field 0).phase == 0) = true := by decide +kernel
theorem test_phases : runs (.testPhaseComplete 0 true false) (phase 3 0) (fun t => (t.field 0).phase == 4) = true
    ∧ runs (.testPhaseComplete 0 true false) (phase 7 0) (fun t => (t.field 0).result == 1) = true
    ∧ runs (.testPhaseComplete 0 false false) (phase 4 0) (fun t => (t.field 0).result == 2 && (t.field 0).failPhase == 2) = true := by decide +kernel
theorem test_no_restore_before_the_result : runs (.coveRestore 18 [] false) (phase 7 0) (fun t => (t.field 0).cove == some 18) = true := by decide +kernel
theorem test_row_remap : runs (.rowRemap 0 1 2) dueRow (fun t => (t.cove 0).sp.spareOf 1 2 == some 0 && ((t.cove 0).sp.row 1 2).head? == some 9) = true := by
  decide +kernel

def moves (h : Handover) : State := { State.reset with rot := { State.reset.rot with moves := ({} : Tab Handover).put 0 h } }
def move0 : Handover := { src := 3, dst := some 18, kind := .test }
def shaped (k : Nat) : State := onBay fun y => { y with wantShape := some k }
theorem wit_HandoversAndShapesTakeEffect : (moves move0).rot.moves.find 0 = some move0 ∧ (moves move0).moveReady 0 move0 = true
    ∧ ((timeAt 10000000 (moves { move0 with holdAt := some 0 })).rot.moves.find 0) = some { move0 with holdAt := some 0 }
    ∧ (moves move0).rot.waiting = [] ∧ ((fields { capAt := some 5 }).field 0).queue = []
    ∧ (((State.reset.modCoveTest 4 fun k => { k with recurAt := some 7 }).coveTest 4).recurAt = some 7)
    ∧ ((State.reset.modCove 4 fun v => { v with ig := { v.ig with state := .watch } }).score 4) = 0
    ∧ ((shaped 0).bay 0).stopped = none ∧ (shaped 0).moveHeld 0 = false ∧ ((shaped 0).bay 0).program = some prog0 := by decide +kernel
theorem test_move_complete : runs (.handoverMoveComplete 0 false) ((moves { move0 with moving := true }).modHalf 0 fun h => { h with cyc160 := 40576 * 160 })
      (fun t => (t.holdMask 0).getLsbD 18 && !(t.holdMask 0).getLsbD 3) = true
    ∧ runs (.handoverMoveComplete 0 false) ((moves { move0 with moving := true }).modHalf 0 fun h => { h with cyc160 := 40575 * 160 })
      (fun t => (t.holdMask 0).getLsbD 3) = true := by decide +kernel
theorem test_handover_timeout : runs (.handoverTimeout 0) (timeAt 10000000 (moves { move0 with holdAt := some 0 })) (fun t => t.rot.moves.find 0 == none) = true
    ∧ runs (.handoverTimeout 0) (timeAt 9999999 (moves { move0 with holdAt := some 0 })) (fun t => (t.rot.moves.find 0).isSome) = true := by decide +kernel
theorem test_capacity_return : runs (.fenceCapacityReturn 0) (timeAt 5 (fields { capReady := false, capAt := some 5 })) (fun t => (t.field 0).capReady) = true := by
  decide +kernel
theorem test_watch_end : runs (.watchMinimumExpiry 4) (timeAt 600000000000 ((State.reset.modCove 4 fun v => { v with ig := { v.ig with state := .watch } }).modCoveTest
    4 fun k => { k with watchAt := some 0 })) (fun t => (t.cove 4).ig.state == .normal) = true := by decide +kernel

/-! Tide fabric (chapter 08). -/

/-- Word 7 waits in the send latch of core 0 on the scalar plane; one route is active. -/
def routed (dst : Nat) (e : BitVec 64) : State :=
  (latched 0 { send := [(7, 0, true)] }).modCove 0 fun v => { v with tide := { v.tide with routes := v.tide.routes.set 0 dst e } }
/-- Source core 0, valid, always active. -/
def routeE : BitVec 64 := BitVec.ofNat 64 (1 + 4 * 4)
def groyneOn : State := (latched 0 {}).modCove 0 fun v => { v with tide := { v.tide with
  groynes := v.tide.groynes.set {} 0 { cfg := 0x100000A0001, pairs := [({ data := 5 }, 0x02, 0)] } } }
def stoppedSwitch : State := (latched 0 {}).modCove 0 fun v => { v with tide := { v.tide with frozen := true } }
theorem wit_TideSwitchCyclesTakeEffect : (routed 5 routeE).tideRuns 0 = true ∧ ((routed 5 routeE).cove 0).tide.active 0 10 = [(5, routeE)]
    ∧ ((routed 5 routeE).cove 0).tide = { routes := ((routed 5 routeE).cove 0).tide.routes } ∧ routeReduce routeE = false
    ∧ routeSrc routeE = 4 ∧ ((routed 5 routeE).cove 0).latch 0 0 = { send := [(7, 0, true)] } ∧ ((routed 1 routeE).cove 0).tide.active 0 10 = [(1, routeE)]
    ∧ (routed 1 routeE).cycles 0 = 10 ∧ logNeighbour 0 1 = some 1 ∧ State.reset.physOf 1 = some 1 ∧ crossesSeam 0 1 = false
    ∧ State.reset.phasesAt 0 = 1 ∧ (0x40 : BitVec 8).toNat / 64 = 1 ∧ isViolation 0x6020 = true ∧ groyneOn.tideRuns 0 = true
    ∧ (((groyneOn.cove 0).tide.groynes.get {} 0).enabled && windowOf ((groyneOn.cove 0).tide.groynes.get {} 0).cfg 10) = true
    ∧ (stoppedSwitch.cove 0).tide.stopped (stoppedSwitch.cycles 0) = true ∧ (List.range 4).all (fun d => (State.reset.laneNext 0 d).isNone) = true := by decide +kernel
theorem test_route_to_core : runs (.activeRouteCycle 0 0 false) (routed 5 routeE) (fun t => ((t.cove 0).latch 1 0).recv == [(7, 10, true)]
    && ((t.cove 0).latch 0 0).send.isEmpty) = true := by decide +kernel
theorem test_route_east : runs (.activeRouteCycle 0 0 false) (routed 1 routeE) (fun t => (t.cove 1).tide.inputs.get [] (facing 1) == [({ data := 7 }, 11)]) = true := by
  decide +kernel
/-- A groyne with an output token toward port 1 releases its pair there, once a cycle. -/
theorem test_groyne : runs (.groyneRelease 0 0) groyneOn (fun t => (t.cove 0).tide.gout.get [] 21 == [({ data := 5 }, 10)]
    && ((t.cove 0).tide.groynes.get {} 0).released == 11) = true := by decide +kernel
theorem test_psel : runs (.pselToken 0 0x40) (routed 5 routeE) (fun t => (t.cove 0).tide.phNext == [(0, 0, 12)]) = true
    ∧ runs (.pselToken 0 0x41) (routed 5 routeE) (fun t => (t.cove 0).tide.frozen && (t.cove 0).tide.violCode == 0x6029) = true := by decide +kernel
theorem test_tide_fault : runs (.tideFabricFault 0 0x6020 0 5) State.reset (fun t => (t.cove 0).tide.frozen && (t.cove 0).tide.violPort == 5) = true := by decide +kernel

/-- Barrier 2 of the cove's switch has core 0 and is the root; core 0 waits. -/
def barrier (e : Word) : State := (onCove fun v => { v.modCore 0 (fun _ => waiting (.tbar 2)) with tide := { v.tide with barriers := v.tide.barriers.set 0 2 e } }).modSeam
  0 fun p => { p with state := .open_ }
def system (e : Word) (l : List (Bool × BitVec 2)) : State := (onCove fun v => { v with tide := { v.tide with barriers := v.tide.barriers.set 0 16 e, casts := l } }).modSeam
  0 fun p => { p with state := .open_ }
/-- The switch to the east has a token for this one, placed ten cycles ago. -/
def laned (s : State) (x : BitVec 6) (tag : BitVec 2) : State := (s.modCove 1 fun v => { v with tide := { v.tide with
  lane := [{ tok := x, tag := tag, dir := 3, at_ := 0 }] } }).modHalf 0 fun h => { h with cyc160 := 1600 }
theorem wit_CombiningTokensTakeEffect : (barrier 0x103).logOf 0 = some 0 ∧ ((barrier 0x103).seamPath 0).state = .open_ ∧ (barrier 0x103).tideRuns 0 = true
    ∧ barValid ((barrier 0x103).cove 0 |>.tide.entry 2) = true ∧ barCore ((barrier 0x103).cove 0 |>.tide.entry 2) 0 = true
    ∧ ((barrier 0x103).core c0).wait = some (.tbar 2) ∧ ((barrier 0x103).core c0).pc + 4 ≠ 0x4000
    ∧ barValid ((system 0x5 [(true, 1)]).cove 0 |>.tide.system) = true ∧ barRoot ((system 0x5 [(true, 1)]).cove 0 |>.tide.system) = false
    ∧ ((system 0x5 [(true, 1)]).cove 0).tide.casts.contains (true, 1) = true ∧ barChildren 0x5 = []
    ∧ (system 0x5 []).neighbour 0 (barParent 0x5) = some 1 := by decide +kernel
/-- A child's ARRIVE and vote, the parent's RELEASE, COMMIT and ROLLBACK, and FREEZE, each the next of its lane. -/
theorem wit_lane_tokens : (laned (barrier 0x123) (tokArrive 2) 0).laneNext 0 1 = some { tok := tokArrive 2, dir := 3, at_ := 0 } ∧ barChild 0x123 1 = true
    ∧ (laned (barrier 0x105) (tokRelease 2) 0).laneNext 0 (barParent 0x105) = some { tok := tokRelease 2, dir := 3, at_ := 0 }
    ∧ barRoot 0x105 = false ∧ barChild 0x23 1 = true
    ∧ (laned (system 0x23 []) (tokVote false 2) 0).laneNext 0 1 = some { tok := tokVote false 2, dir := 3, at_ := 0 }
    ∧ (laned (system 0x5 []) 0x31 2).laneNext 0 1 = some { tok := 0x31, tag := 2, dir := 3, at_ := 0 }
    ∧ (laned (system 0x5 []) 0x32 2).laneNext 0 1 = some { tok := 0x32, tag := 2, dir := 3, at_ := 0 }
    ∧ (laned (system 0x5 []) 0x30 0).laneNext 0 1 = some { tok := 0x30, tag := 0, dir := 3, at_ := 0 }
    ∧ (laned (system 0x5 []) 0x30 0).logOf 0 = some 0 ∧ ((laned (system 0x5 []) 0x30 0).seamPath 0).state = .open_ := by decide +kernel
theorem test_barrier_root : runs (.barrierArrive 0 2 0) (barrier 0x103) (fun t => (t.core c0).state == 1 && (t.core c0).pc == 4) = true
    ∧ runs (.barrierArrive 0 2 0) (barrier 0x303) (fun t => (t.core c0).state == 3) = true
    ∧ runs (.barrierArrive 0 2 0) (barrier 0x109) (fun t => (t.cove 0).tide.lane.map (fun x => (x.tok, x.dir)) == [(2, 2)]) = true := by decide +kernel
theorem test_vote_goes_up : runs (.vote 0 none true 1) (system 0x5 [(true, 1)]) (fun t => !(t.cove 0).tide.lane.isEmpty && (t.cove 0).tide.casts.isEmpty) = true := by
  decide +kernel

/-! Clocks, sleep and power (chapters 15, 16). -/

/-- A bay with a program spans the seam, and the halves clock at one point. -/
def seam0 (p : SeamPath) (now : Nat) : State :=
  clockedAt now 0 (((clocked (onBay id)).modBay 0 fun y => { y with record := some { rec0 with coves := [17, 18] } }).modSeam 0 fun _ => p)
def pll0 (q : Pll) (now : Nat) : State := let s := clockedAt now 0 (State.reset.modPll 5 fun _ => q); { s with clk := { s.clk with refOk := true } }
def serving (f : Clocks → Clocks) : State :=
  { State.reset with clk := f State.reset.clk, su := { State.reset.su with stage := 11, state := 2 }, pins := { State.reset.pins with aux := true } }
/-- REFCLK is lost in service and the PLLs coast. -/
def coasting : State := (serving fun k => { k with lost := true }).modPll 16 fun q => { q with state := .coasting }
theorem wit_SeamAndReferenceEventsTakeEffect : ((seam0 {} 0).seamLock && (seam0 {} 0).onePoint && (seam0 {} 0).clocked 0 && (seam0 {} 0).clocked 1) = true
    ∧ ((seam0 {} 0).seamPath 0).disabled = false ∧ ((seam0 {} 0).half 0).changing = false ∧ ((seam0 {} 0).half 1).changing = false
    ∧ ((seam0 { state := .aligning } 1280).seamPath 0).clean + 1280 ≤ (seam0 { state := .aligning } 1280).clk.now
    ∧ ((serving fun k => { k with refOk := true }).clk.refOk = true) ∧ (serving id).su.state = 2 ∧ State.reset.su.state ≠ 2 ∧ State.reset.su.state ≠ 3
    ∧ ((pll0 { state := .acquiring } 58983).pll 5).state = .acquiring ∧ ((pll0 { state := .acquiring } 1000000).pll 5).retried = false
    ∧ ((pll0 { state := .stable } 0).pll 5).state = .stable ∧ (pll0 {} 0).clk.refOk = true
    ∧ (coasting.pins.aux && coasting.clk.lost && coasting.su.state == 2) = true ∧ (coasting.pll 16).state = .coasting ∧ (serving id).clk.lost = false
    ∧ (serving fun k => { k with refOk := false }).clk.refOk = false := by decide +kernel
theorem test_seam_opens : runs (.seamOpen 0) (seam0 { state := .aligning } 1280) (fun t => (t.seamPath 0).state == .open_) = true
    ∧ runs (.seamOpen 0) (seam0 { state := .aligning } 1279) (fun t => (t.seamPath 0).state == .aligning) = true
    ∧ runs (.seamAlignStart 0) (seam0 {} 0) (fun t => (t.seamPath 0).state == .aligning) = true
    ∧ runs (.seamAlignTimeout 0) (seam0 { state := .aligning } 2000) (fun t => (t.seamPath 0).fails == 1 && t.clk.errCode == 0x2030) = true := by decide +kernel
theorem test_refclk : runs .refclkLoss (serving fun k => { k with refOk := true }) (fun t => t.clk.lossCnt == 1 && t.clk.neapSrc && t.clk.lost) = true := by
  decide +kernel
theorem test_pll : runs (.pllStable 5) (pll0 { state := .acquiring } 58983) (fun t => (t.pll 5).state == .stable) = true
    ∧ runs (.pllStable 5) (pll0 { state := .acquiring } 58982) (fun t => (t.pll 5).state == .acquiring) = true
    ∧ runs (.pllAcquireTimeout 5) (pll0 { state := .acquiring } 1000000) (fun t => (t.pll 5).retried && t.clk.errCode == 0x2020) = true := by decide +kernel

def sleeping (k : Nat) (x : Sleep) : State := { State.reset with clk := { State.reset.clk with sleep := State.reset.clk.sleep.put k (x, 0) } }
def changingTo (h : Half) : State := clockedAt 0 10000000 (clocked (State.reset.modHalf 1 fun _ => h))
/-- Half 1 has changed to point 2: its rail and both its dividers stand there. -/
def reached (h : Half) : State := [1, 3].foldl (fun t p => t.modPll p fun q => { q with fbdiv := opDivider 2 })
  (changingTo { h with changing := true, target := 2, mv := opMv 2 })
theorem wit_SleepAndPointChangesTakeEffect : (timeAt 10000 (onBay id)).mayRest 0 = true ∧ (timeAt 9999 (onBay id)).mayRest 0 = false
    ∧ (sleeping 0 .slack).parked = false ∧ ((sleeping 0 .slack).half (halfOf 0)).ebb = false
    ∧ (timeAt 10000000 (State.reset.modStack 0 fun k => { k with trained := true })).stackMayRest 0 = true ∧ State.reset.seamLock = false
    ∧ (changingTo { holding := true, holdAt := some 0, target := 2 }).allHold [1] = true ∧ (changingTo { holding := true, holdAt := some 0 }).clocked 1 = true
    ∧ (reached {}).reached 1 = true ∧ (reached {}).seamLock = false
    ∧ ((State.reset.modHalf 0 fun h => { h with ebb := true }).half 0).ebb = true
    ∧ ((sleeping 1003 .ebb).clk.sleep.get (.run, 0) 1003).1 = .ebb ∧ (State.reset.port 0).up = false ∧ (State.reset.port 0).training = false
    ∧ ((State.reset.modStack 3 fun k => { k with retrain := true, lossAt := some 0 }).stack 3).disabled = false ∧ (State.reset.bay 0).record = none := by
  decide +kernel
/-- Every cove of the module sleeps since the start. -/
def still (f : FieldTest) : State := { (timeAt 5000000000 (fields f)) with clk := { (timeAt 5000000000 State.reset).clk with
  ebbMs := 5000, sleep := { rows := (List.range 800).map fun c => (c, .slack, 0) } } }
theorem wit_half_rests : (still {}).halfMayRest 0 = true ∧ (still { cove := some 18, phase := 3 }).halfRests 0 = true
    ∧ (still { cove := some 18, phase := 3 }).halfMayRest 0 = false ∧ State.reset.halfRests 0 = false := by decide +kernel
/-- With a bay across the seam the two halves change as one. -/
def joined (h : Half) : State := (([0, 1, 2, 3].foldl (fun t p => t.modPll p fun q => { q with fbdiv := opDivider 2 }) (seam0 {} 10000000)).modHalf 0
  fun _ => h).modHalf 1 fun _ => h
/-- Half 0 is asked for point 2, and its bay still runs a step. -/
def notHeld (e : Nat) : State := (clockedAt 0 e (stepping [step1] id)).modHalf 0 fun h => { h with holding := true, holdAt := some 0, target := 2 }
/-- With every path of the seam open. -/
def openSeam (s : State) : State := (List.range 20).foldl (fun t y => t.modSeam y fun _ => { state := .open_ }) s
/-- Domains asleep that something wakes: a cove that a test waits for, a half whose change is asked, a stack with a request, a port that trains. -/
theorem wit_wakes : ((sleeping 0 .slack).modField 0 fun _ => { pending := some 0 }).wakeDue (.compute 0) = true
    ∧ (sleeping 0 .slack).wakeDue (.compute 0) = false
    ∧ ((State.reset.modHalf 0 fun h => { h with ebb := true, holding := true }).wakeDue (.half 0)) = true
    ∧ (State.reset.modHalf 0 fun h => { h with ebb := true }).wakeDue (.half 0) = false
    ∧ ((clocked (State.reset.modHalf 0 fun h => { h with ebb := true, holding := true })).clocked 0) = true
    ∧ ((sleeping 1003 .ebb).modQp 0 fun x => { x with gathers := [⟨0, 0, 0, 0, 0, []⟩] }).wakeDue (.stack 3) = true
    ∧ ((sleeping 2001 .ebb).modPort 1 fun x => { x with training := true }).wakeDue (.port 1) = true
    ∧ (sleeping 2001 .ebb).wakeDue (.port 1) = false
    ∧ (coasting.clk.refOk = false ∧ coasting.clk.lost = true ∧ (coasting.clk.sleep.get (.run, 0) 3000).1 = .run) := by decide +kernel
theorem wit_changes_given_up : (notHeld 10000000).allHold [0] = false ∧ (notHeld 10000000).seamLock = false
    ∧ ((joined { holding := true, holdAt := some 0, target := 2 }).modBay 0 fun y => { y with st := { y.st with live := [step1] } }).allHold [0, 1] = false
    ∧ ((joined { holding := true, holdAt := some 0, target := 2 }).modBay 0 fun y => { y with st := { y.st with live := [step1] } }).seamLock = true
    ∧ (openSeam (joined { changing := true, target := 2, mv := opMv 2 })).seamOpen = true
    ∧ (joined { changing := true, target := 2, mv := opMv 2 }).seamOpen = false := by decide +kernel
theorem wit_halves_change_together : (joined { holding := true, holdAt := some 0, target := 2 }).seamLock = true
    ∧ (joined { holding := true, holdAt := some 0, target := 2 }).allHold [0, 1] = true
    ∧ ((List.range 2).all fun j => !((joined { holding := true }).half j).ebb && (joined { holding := true }).clocked j) = true
    ∧ ((List.range 2).all fun j => (joined { changing := true, target := 2, mv := opMv 2 }).reached j) = true := by decide +kernel
theorem test_slack : runs (.slackEntry 0) (timeAt 10000 (onBay id)) (fun t => t.clk.sleep.get (.run, 0) 0 == (.slack, 10000)) = true
    ∧ runs (.domainWake (.compute 0)) ((sleeping 0 .slack).modField 0 fun _ => { pending := some 0 }) (fun t => (t.clk.sleep.get (.run, 0) 0).1 == .run) = true := by decide +kernel
theorem test_op_change : runs (.opChangeComplete 1) (reached {}) (fun t => (t.half 1).op == 2 && !(t.half 1).changing) = true
    ∧ runs (.opChangeComplete 1) (reached { mvAt := some 9999000 }) (fun t => (t.half 1).op == 0) = true
    ∧ runs (.opChangeTimeout 0) (notHeld 10000000) (fun t => (t.half 0).target == 0 && t.clk.errCode == 0x2040) = true
    ∧ runs (.opChangeTimeout 0) (notHeld 9999999) (fun t => (t.half 0).target == 2) = true := by
  decide +kernel

def powered (w : Nat) : State :=
  { clockedAt 10000000 0 State.reset with pwrx := { mainRegs := true }, pwr := { State.reset.pwr with capW := w, opTarget := 0 }, pins := { State.reset.pins with aux := true, main := true, mateN := false, swClosed := true } }
/-- The control period's samples average `p` W. -/
def drawing (p w : Nat) : State := { powered w with pwrx := { (powered w).pwrx with periodSum := p * 10000, periodN := 1 } }
/-- The input drew the same power and current at each of the last `n` samples. -/
def sampled (n p c : Nat) : State := { powered 900 with pwrx := { (powered 900).pwrx with samples := List.replicate n (p, c) } }
/-- A glide of a cause goes on. -/
def gliding (c : GlideCause) (s : State) : State := { s with pwr := { s.pwr with glideCause := some c } }
def sample : PowerSample := { coreW := 100, bayW := List.replicate 16 0, bayIdleW := List.replicate 16 0 }
def hinted : State := onBay fun y => { y with hints := [{ step := 1, steps := 1, watts := 1 }], record := some rec0 }
theorem wit_PowerEventsTakeEffect : (powered 900).pwrx.lastPeriod + 10000000 ≤ (powered 900).clk.now ∧ bestDuty 180 (drawing 480 300).pwrx.periodW 8 300 8 = some 2
    ∧ 950 * 300 < 480 * 1000 ∧ (powered 900).pwr.glideCause = none ∧ (powered 900).glideNeeded 101 .temperature = true ∧ (powered 900).glideNeeded 100 .temperature = false
    ∧ (powered 900).pins.main = true ∧ (powered 900).seamLock = false ∧ (powered 900).pwr.failed.get 0 0 + 1 ≤ 12
    ∧ ((hinted.bay 0).hints.find? fun h => h.raised.isNone && decide ((hinted.bay 0).st.next ≤ h.step)) = some { step := 1, steps := 1, watts := 1 }
    ∧ (hinted.bayHalves 0).head? = some 0 ∧ (hinted.bay 0).program = some prog0 ∧ (seam0 {} 0).seamLock = true ∧ (powered 900).pwrx.energyAt = none
    ∧ (powered 900).pins.aux = true ∧ (State.reset.sess 3).state = .free ∧ ((powered 900).bay 0).st.running = none := by decide +kernel
theorem wit_power_limits : ({ hinted with pwr := { hinted.pwr with capW := 1100 } } : State).hintFits 0 0 1 = true ∧ hinted.hintFits 0 0 1 = false
    ∧ (State.reset.half 0).op = 0 ∧ (State.reset.half 1).op = 0 ∧ State.reset.pins.main = false ∧ (powered 900).pwr.failed.get 0 4 < 6
    ∧ (powered 900).auxOk = true ∧ State.reset.auxOk = false ∧ (powered 900).pwrx.holdup = none ∧ railPhases .vphy = 4 ∧ railKey (.vhbm 7) = 13 := by decide +kernel
/-- The hold-up runs; the auxiliary input is present without main; the last phase of a rail has failed. -/
theorem wit_hold_up : { (powered 900).pwrx with holdup := some 0 }.holdup.isSome = true
    ∧ ({ powered 900 with pins := { (powered 900).pins with main := false } } : State).auxOk = true
    ∧ ({ powered 900 with pwr := { (powered 900).pwr with failed := (powered 900).pwr.failed.set 0 4 6 } } : State).pwr.failed.get 0 4 = 6
    ∧ 12 < ({ powered 900 with pwr := { (powered 900).pwr with failed := (powered 900).pwr.failed.set 0 0 12 } } : State).pwr.failed.get 0 0 + 1 := by
  decide +kernel
theorem test_energy : runs (.energyUpdate { overhead := 3, bays := List.replicate 16 2, sessions := [(5, 4)] }) (powered 900)
      (fun t => t.pwrx.energy == 7 && (t.bay 1).pwr.energy == 2) = true
    ∧ runs (.energyUpdate { overhead := 3, bays := List.replicate 16 2, sessions := [] })
      { timeAt 9999 (powered 900) with pwrx := { (powered 900).pwrx with energyAt := some 0 } } (fun t => t.pwrx.energy == 0) = true := by decide +kernel
/-- The worked example of chapter 16. -/
theorem test_control_period : runs (.controlPeriod sample) (drawing 480 300) (fun t => t.pwr.duty == 1 && !t.pwr.refusing && t.pwr.inPeriod == 480) = true
    ∧ runs (.controlPeriod sample) (drawing 480 200) (fun t => t.pwr.duty == 0 && t.pwr.refusing) = true := by decide +kernel
theorem test_glide : runs (.emergencyGlide .temperature 106) (powered 900) (fun t => t.pwr.glideCause == some .temperature && t.pwr.emerg == 1) = true
    ∧ runs (.emergencyGlideStop 96) (gliding .temperature (powered 900)) (fun t => t.pwr.glideCause == none) = true
    ∧ runs (.emergencyGlideStop 97) (gliding .temperature (powered 900)) (fun t => t.pwr.glideCause.isSome) = true := by
  decide +kernel
/-- The continuous power is 1,100 W, the connector's current 57.5 A. -/
theorem wit_glides : (sampled 64 11000001 0).glideNeeded 0 .fastPower = true ∧ (sampled 64 11000000 0).glideNeeded 0 .fastPower = false
    ∧ (sampled 63 11000001 0).glideNeeded 0 .fastPower = false ∧ (sampled 64 0 5751).glideNeeded 0 .current = true
    ∧ (sampled 64 0 5750).glideNeeded 0 .current = false ∧ (sampled 12500 11000001 0).glideNeeded 0 .meanPower = true
    ∧ (sampled 12499 11000001 0).glideNeeded 0 .meanPower = false ∧ (powered 900).su.contW = 1100
    ∧ (sampled 64 10449999 0).pwrx.samples.head?.any (fun x => x.1 < 9500 * 1100) = true
    ∧ (sampled 64 10450000 5463).pwrx.samples.head?.any (fun x => x.1 < 9500 * 1100 || x.2 * 100 < 95 * 5750) = false := by decide +kernel
theorem test_glide_stop : runs (.emergencyGlideStop 0) (gliding .current (sampled 64 0 5462)) (fun t => t.pwr.glideCause == none) = true
    ∧ runs (.emergencyGlideStop 0) (gliding .current (sampled 64 0 5463)) (fun t => t.pwr.glideCause.isSome) = true
    ∧ runs (.emergencyGlideStop 0) (gliding .fastPower (sampled 64 10449999 0)) (fun t => t.pwr.glideCause == none) = true := by decide +kernel
theorem test_overtemp : runs (.junctionOvertemp 2 111) (powered 900) (fun t => t.pwr.parks == [.overtemp] && t.pwr.errCode == 0x3033) = true
    ∧ runs (.junctionOvertemp 2 110) (powered 900) (fun t => t.pwr.parks == []) = true := by decide +kernel
theorem test_input_loss : runs .mainInputLow (powered 900) (fun t => !t.pins.main && !t.pwrx.mainRegs && t.pwr.errCode == 0x3030) = true
    ∧ runs .auxInputLoss (powered 900) (fun t => t.pins.aux && t.pwrx.holdup == some 10000000 && t.pwr.errCode == 0x3031
      && runs .mainInputLow t fun u => !u.pins.aux && u.pwrx.auxLost) = true := by decide +kernel
theorem test_droop : runs (.droopTrip 3) ((powered 900).modHalf 1 fun h => { h with cyc160 := 20 * 160 })
      (fun t => (t.half 1).stretch == [22] && (t.half 1).tripAt == some 20 && t.pwr.droop.get 0 3 == 1) = true
    ∧ runs (.droopTrip 3) ((powered 900).modHalf 1 fun h => { h with cyc160 := 20 * 160, tripAt := some 15 }) (fun t => (t.half 1).stretch == [23]) = true := by
  decide +kernel

/-! The current network, DMA, HBM (chapters 09, 10). -/

def net1 (f : NetModule → NetModule) : State := { State.reset with net := f { State.reset.net with valid0 := true, links0 := some [] } }
def inRouter (c : Nat) (f : Net → Net) (s : State) : State := s.modCove c fun v => { v with net := f v.net }
/-- A packet waits at the LOCAL port of cove 0's router. -/
def waitsAt (p : Packet) : State := inRouter 0 (fun n => { n with vcs := n.vcs.set [] 16 [p] }) (net1 id)
def flagPkt : Packet := { packet 0 0 0 with type := 7, addr := 5, handle := some 2, bay := 0, step := 1, stepped := true }
def stepBay (s : State) : State := clocked (inBay s fun y => { y with run := some work0, st := { y.st with live := [step1], next := 2 } })
/-- A firmware broadcast of the jetty at router 360. -/
def bcastPkt : Packet :=
  { packet 360 0 8 with type := 9, response := true, ordered := true, bcast := true, srcAgent := true, last := false }
def regPkt : Packet := { packet 399 0 0 with type := 8, ordered := true, srcAgent := true }
/-- A register response already stands at the LOCAL port of cove 0 and another waits to enter it. -/
def answering : State := inRouter 0 (fun n => { n with vcs := n.vcs.set [] 18 [{ regPkt with response := true }, { regPkt with response := true }] }) (net1 id)
theorem wit_NetworkPacketsTakeEffect :
    winner (((waitsAt flagPkt).cove 0).net.lastWin.get 23 4) (((waitsAt flagPkt).cove 0).net.heads.filter ((waitsAt flagPkt).eligible 0 4)) = some (4, 0, flagPkt)
    ∧ winner 23 (((waitsAt { flagPkt with dstPhys := 20 }).cove 0).net.heads.filter ((waitsAt { flagPkt with dstPhys := 20 }).eligible 0 0))
      = some (4, 0, { flagPkt with dstPhys := 20 })
    ∧ (waitsAt flagPkt).aged flagPkt = false ∧ (waitsAt flagPkt).net.valid false = true ∧ (waitsAt flagPkt).portGone 0 4 = false
    ∧ (inRouter 0 (fun n => { n with e408 := false }) (waitsAt flagPkt)).portGone 0 4 = false ∧ ((waitsAt flagPkt).cove 0).net.injPar = false
    ∧ (net1 id).aged { flagPkt with injTime := BitVec.ofNat 16 (65536 - 2250) } = true ∧ State.reset.net.valid false = false
    ∧ (stepBay (net1 id)).receives flagPkt = true ∧ (stepBay (net1 id)).bayOf 0 = some 0 ∧ (net1 id).bayOf 0 = none
    ∧ ((stepBay (net1 id)).bay 0).st.running = some step1 ∧ (net1 id).receives { packet 0 0 8 with type := 10 } = true := by decide +kernel
theorem wit_network_answers : (net1 id).receives regPkt = true ∧ (net1 id).canAnswer 0 false = true ∧ (net1 id).receives { regPkt with response := true } = true
    ∧ answering.canAnswer 0 false = false ∧ answering.receives regPkt = true ∧ asSent { flagPkt with type := 12 } = false ∧ isBroadcast 360 bcastPkt = true
    ∧ (net1 id).aged bcastPkt = false ∧ (net1 id).broadcasting = false ∧ isBroadcast 0 bcastPkt = false := by
  decide +kernel
theorem test_flag : runs (.flagPacket flagPkt) (stepBay (net1 id)) (fun t => (t.cove 0).net.flags.get 0 2 == 5) = true
    ∧ runs (.flagPacket flagPkt) (net1 id) (fun t => (t.cove 0).net.ctr.get 0 1 == 1) = true := by decide +kernel
theorem test_router_ejects : runs (.arbiterDecision 0 4 ⟨false, false, false⟩) (waitsAt flagPkt) (fun t => (t.cove 0).net.ejected.length == 1) = true
    ∧ runs (.arbiterDecision 0 4 ⟨true, false, false⟩) (waitsAt flagPkt) (fun t => (t.cove 0).net.ctr.get 0 2 == 1) = true := by
  decide +kernel

/-- Routers of the coves given are armed for unit 3,072, at a time unit of the network. -/
def armed (l : List Nat) (n : Nat) : State :=
  let s := net1 fun k => { k with swap := some 3072 }
  { s with coves := { rows := l.map fun c => (c, { net := { armAt := some 3072 } }) }, clk := { s.clk with cnMilli := n * 16000 } }
def swapIn (n : Nat) : State := armed [5, 7] n
def swapped (n : Nat) (k : NetModule) : State := let s := net1 fun _ => k; { s with clk := { s.clk with cnMilli := n * 16000 } }
theorem wit_TableEpochsTakeEffect : (swapIn 3072).netUnits = 3072 ∧ ((swapIn 3072).cove 5).net.armAt = some 3072 ∧ (swapIn 2072).net.swap = some 3072
    ∧ 3072 ≤ (swapIn 2072).netUnits + 1000 ∧ (swapped 5322 { oldUntil := some 5322 }).net.oldUntil = some 5322
    ∧ (swapped 5322 { oldUntil := some 5322 }).netUnits = 5322 ∧ ((swapped 5322 { oldUntil := some 5322 }).cove 5).net.inj = []
    ∧ (swapped 5322 { oldUntil := some 5322, wanted := some ({}, 3072) }).net.wanted = some ({}, 3072) ∧ State.reset.net.swap = none
    ∧ (State.reset.cove 5).net.holdTo = none ∧ State.reset.coves.rows.all (fun r => decide (r.1 < 800)) = true := by decide +kernel
theorem wit_every_router_armed : ((List.range 800).all fun c => ((armed (List.range 800) 2072).cove c).net.armAt == some 3072) = true
    ∧ (armed (List.range 800) 2072).net.swap = some 3072 := by decide +kernel
theorem test_epoch_swap : runs .epochSwap (swapIn 3072) (fun t => (t.cove 5).net.epoch && (t.cove 5).net.holdTo == some 5322 && t.net.swap == none) = true
    ∧ runs .epochSwap (swapIn 3071) (fun t => !(t.cove 5).net.epoch) = true
    ∧ runs (.epochArmCheck [7]) (swapIn 2072) (fun t => t.net.swap == some 5144) = true := by
  decide +kernel

/-- Within the scratchpad: 64 bytes from row 0 to row 1 of handle 1. -/
def dmaWord : BitVec 256 := BitVec.ofNat 256 (1 + 64 * 2 ^ 32 + 2 ^ 96 + 64 * 2 ^ 128 + 2 ^ 160)
def dma0 : Dma := { desc := dmaWord, seq := 1, core := 0, step := 1, attempt := 0 }
def dmaCove (l : List Dma) (cn : Nat) : State :=
  let s := (stepBay (net1 id)).modCove 0 fun v => { v with net := { v.net with dma := l }, sp := { v.sp with
    handles := v.sp.handles.set 0 1 (handle 0 64), bytes := memSetByte {} 0 9 } }
  { s with clk := { s.clk with cnMilli := cn * 1000 } }
def started : Dma := { dma0 with started := true, tag := 7, gen := 0 }
def dataPkt : Packet := { packet 0 0 8 with type := 4, response := true, tag := 7, bay := 0, step := 1, stepped := true }
/-- A WRITE and a READ of another cove's transfer for handle 1 of cove 0; a READ of the bay's first bytes in stack 0. -/
def writePkt : Packet := { packet 5 0 8 with type := 2, tag := 9, bay := 0, step := 1, stepped := true, handle := some 1 }
def readPkt : Packet := { packet 5 0 0 with type := 3, tag := 9, bay := 0, handle := some 1, count := 64 }
def hbmPkt : Packet := { packet 5 0 0 with type := 3, tag := 9, bay := 0, count := 64, agent := true }
theorem wit_DmaTransfersTakeEffect : (((dmaCove [dma0] 0).cove 0).net.dma.find? fun d => !d.started && !d.done) = some dma0
    ∧ ((dmaCove [dma0] 0).cove 0).net.nextTag.isSome = true ∧ (dmaDesc dmaWord).op = 1 ∧ (dmaDesc dmaWord).src.kind = 0 ∧ (dmaDesc dmaWord).dst.kind = 0
    ∧ ((dmaCove [dma0] 0).stepsAt 0).1.judge (((dmaCove [dma0] 0).cove 0).sp.handle 1) 1 ≠ .stall
    ∧ ((dmaCove [dma0] 0).cove 0).sp.failingRows (((dmaCove [dma0] 0).cove 0).sp.handle 1) 0 64 = []
    ∧ (dmaCove [started] 0).receives dataPkt = true ∧ (dmaCove [started] 0).transferOf dataPkt = some started
    ∧ (((dmaCove [] 0).cove 0).sp.handle 1).check 0 64 none (some (((dmaCove [] 0).bay 0).st, 1)) = (0, .ok)
    ∧ (((dmaCove [started] 79200).cove 0).net.dma.find? fun d => d.started && !d.done && d.tag == 7) = some started
    ∧ ((dmaCove [started] 79200).cove 0).net.inj = [] ∧ started.sentAt + 79200 ≤ (dmaCove [started] 79200).cnCycles := by decide +kernel
theorem wit_dma_packets : (dmaCove [] 0).receives writePkt = true ∧ (dmaCove [] 0).receives readPkt = true ∧ (dmaCove [] 0).canAnswer 0 false = true
    ∧ ((dmaCove [] 0).trackers (ifaceOf writePkt)).length < trackerLimit (ifaceOf writePkt)
    ∧ (((dmaCove [] 0).cove 0).sp.handle 1).check 0 8 none (some (((dmaCove [] 0).bay 0).st, 1)) = (0, .ok)
    ∧ (((dmaCove [] 0).cove 0).sp.handle 1).check 0 64 none none = (0, .ok) ∧ ifaceOf hbmPkt = .stack 0 ∧ (dmaCove [] 0).receives hbmPkt = true
    ∧ (dmaCove [] 0).stackRests 0 = false ∧ ((dmaCove [] 0).stack 0).disabled = false ∧ hbmFault (dmaCove [] 0) 0 0 0 64 false = 0
    ∧ answering.canAnswer 0 false = false := by decide +kernel
/-- A descriptor that DQ takes. -/
theorem wit_dq : dmaCheck ((dmaCove [] 0).cove 0).sp ((dmaCove [] 0).bay 0) ((dmaCove [] 0).stepsAt 0).2 (dmaDesc dmaWord) = 0 ∧ (dmaDesc dmaWord).op ≠ 0
    ∧ 0 < (dmaDesc dmaWord).length ∧ ((dmaCove [] 0).cove 0).net.faults.find 0 = none
    ∧ readyAgain ((dmaCove [] 0).modCore c0 fun k => { k with state := 1 }) c0 sameDq { v := [1], wg := [3] } = true := by decide +kernel
theorem test_dma_local : runs (.dmaTransferStart 0) (dmaCove [dma0] 0) (fun t => (t.cove 0).net.dma.all (fun d => d.started && !d.done)
    && (t.cove 0).sp.reqs.map (fun q => (q.core, q.write, q.size)) == [(16, false, 64)]) = true := by
  decide +kernel
theorem test_dma_done : runs (.dmaDonePacket { dataPkt with type := 5, addr := 0 }) (dmaCove [started] 0) (fun t => (t.cove 0).net.dma.all (fun d => d.done)) = true
    ∧ runs (.dmaRetire 0) (dmaCove [{ started with done := true }] 5) (fun t => (t.cove 0).net.dmaDone == 1 && (t.cove 0).net.tagQuar.find 7 == some 5) = true := by
  decide +kernel
theorem test_dma_timeout : runs (.dmaTimeout 0 7) (dmaCove [{ started with cut := 1 }] 79200) (fun t => (t.cove 0).net.errCode == 0x7020 && (t.cove 0).net.ctr.get 0 4 == 1) = true
    ∧ runs (.dmaTimeout 0 7) (dmaCove [{ started with cut := 1 }] 79199) (fun t => (t.cove 0).net.errCode == 0) = true := by decide +kernel

def port0 (l : List StreamDesc) (r : List ReadWord) (w : List WriteWord) : State :=
  (clocked (stepping [step1] id)).modStream 0 fun p => { p with fifo := l, rdBuf := r, wrBuf := w }
def readDesc : StreamDesc := { write := false, addr := 64, words := 1, cycle := 0, stride := 1, step := 1, posted := 1 }
def word0 : ReadWord := { id := 0, word := 0, data := 7, poison := false }
def write0 : WriteWord := { data := 5, ok := true, addr := 256, step := 1, deadline := 0 }
def atCycle (n : Nat) (s : State) : State := s.modHalf 0 fun h => { h with cyc160 := 160 * n }
def shadowed (h : Shadow) : State := { (stepping [step1] id).modStack 0 fun k => { k with trained := true, shadows := [h] } with hbm := memSetByte {} (256 + 5) 7 }
def shadow0 : Shadow := { granule := 0, bay := 0, step := 1, phys := 4 }
def talus0 : Talus := { pc := 1, bank := 2, row := 3, spare := 0, temporary := true, way := 0 }
def repaired : State := State.reset.modStack 0 fun k => { k with talus := [talus0], trained := true }
theorem wit_HbmEventsTakeEffect : (port0 [readDesc] [word0] []).logOf 0 = some 0 ∧ (port0 [readDesc] [] []).attemptAt 0 = some (0, 1, 0)
    ∧ ((port0 [readDesc] [] []).stack 0).disabled = false ∧ (port0 [readDesc] [] []).stackRests 0 = false ∧ portStack 0 = some 0
    ∧ ((port0 [readDesc] [word0] []).stream 0).current false (some 1) = some readDesc ∧ (port0 [readDesc] [word0] []).cycles 0 = 0
    ∧ (atCycle 1 (port0 [readDesc] [word0] [])).cycles 0 = 1 ∧ ((port0 [] [] [write0]).stream 0).wrBuf = [write0]
    ∧ (match (port0 [] [] [write0]).stepWriteAt 0 1 256 0 (bytesOfRow 5) with | .landed _ => true | _ => false) = true
    ∧ (((shadowed shadow0).stack 0).shadows.find? fun h => h.granule == 0 && h.step == 1 && !h.fresh.contains 1 && !h.copied.contains 1) = some shadow0
    ∧ (((shadowed { shadow0 with committed := true, fresh := List.range 256 }).stack 0).shadows.find? fun h => h.committed && h.whole
      && ((((shadowed { shadow0 with committed := true, fresh := List.range 256 }).stack 0).shadows.filter Shadow.committed).find? fun x => x.granule == h.granule) == some h).isSome = true
    ∧ (repaired.stack 0).talus.find? (fun t => t.temporary && t.pc == 1 && t.bank == 2 && t.row == 3) = some talus0 ∧ (repaired.stack 0).softUsed.contains (1, 2) = false
    ∧ repaired.bankPlanned 0 1 2 = false ∧ (repaired.stack 0).scrubEn = true ∧ (repaired.stack 0).flipped.contains (repaired.stack 0).scrubAt = false
    ∧ (repaired.stack 0).disabled = false ∧ repaired.stackRests 0 = false ∧ State.reset.attemptAt 0 = none := by decide +kernel
/-- A bank whose refresh is due, at the interval that JESD238 sets, and the time before. -/
theorem wit_refresh_due : ((timeAt (Config.refreshNs 0) repaired).stack 0).refreshed.get 0 (1 * 48 + 2) + Config.refreshNs ((timeAt (Config.refreshNs 0) repaired).stack 0).temp
    ≤ (timeAt (Config.refreshNs 0) repaired).clk.elapsed := Nat.le_of_eq (Nat.zero_add _)
theorem test_stream_read : runs (.streamWordDue 0 false false false []) (port0 [readDesc] [word0] []) (fun t => (t.stream 0).fifo.isEmpty
      && (t.cove 0).tide.inputs.get [] 4 == [({ data := 7 }, 0)]) = true
    ∧ runs (.streamWordDue 0 false false false []) (port0 [readDesc] [] []) (fun t => (t.stream 0).late == 1 && (t.cove 0).tide.violCode == 0x602C) = true := by
  decide +kernel
theorem test_chunk_copy : runs (.shadowChunkCopy 0 0 1 1 []) (shadowed shadow0) (fun t => memByte t.hbm (hbmKey 0 4 (256 + 5)) == 7) = true := by decide +kernel
theorem test_map_write : runs (.granuleMapWrite 0) (shadowed { shadow0 with committed := true, fresh := List.range 256 }) (fun t => (t.stack 0).phys 0 == 4
    && (t.stack 0).poolFreed == [0]) = true := by decide +kernel
theorem test_soft_repair : runs (.softPpr 0 1 2 3) repaired (fun t => (t.stack 0).talus.isEmpty && (t.stack 0).softUsed == [(1, 2)]) = true
    ∧ runs (.patrolScrub 0 none) repaired (fun t => (t.stack 0).scrubAt == 1) = true := by decide +kernel

/-! Ethernet and RDMA (chapter 11). -/

def eth (f : Port → Port) (g : PortQueues → PortQueues) : State :=
  (((serving id).modPll 14 fun q => { q with state := .stable }).modPort 0 f).modPortQ 0 g
def upPort (x : Port) : Port := { x with width := 3, ip4 := 0x0A000001, ip6 := 1, mac := 0x020000000001, enabled := true, udp := 11536 }
def ethAt (elapsed ns : Nat) (s : State) : State := { clockedAt 0 elapsed s with mt := { s.mt with ns := ns } }
def leaving : Departure := { reason := 0x9031, scope := 0, downAt := 100, downMs := 0, retrain := true }
/-- Session 1's connection is up and its heartbeat is due. -/
def beating : State := ethAt 0 8000 (ownerIn (eth upPort id))
theorem wit_EthernetLinksTakeEffect : (serving id).linksOn = true ∧ ((attemptLanes 1).all fun l => (0xF : BitVec 4).getLsbD l) = true
    ∧ ((attemptLanes 1).all fun l => (0x7 : BitVec 4).getLsbD l) = false ∧ ((eth upPort id).port 0).up = true
    ∧ ((eth id id).port 0).up = false ∧ ((eth upPort fun q => { q with departing := some leaving }).portQ 0).departing = some leaving
    ∧ (ethAt 0 100 (eth id id)).mt.ns = leaving.downAt ∧ (eth id id).jetty.resetting = false ∧ ((eth upPort id).port 0).lastRetrain = none
    ∧ ((eth (fun x => { x with training := true, attempt := 1 }) id).port 0).training = true ∧ (ownerIn (eth upPort id)).isOwner (.session 0 1) = true
    ∧ (beating.sess 1).state = .open_ ∧ beating.nextBeat 1 ≤ beating.mt.ns + 500 ∧ (beating.port (beating.sess 1).port).up = true
    ∧ (beating.portQ (beating.sess 1).port).departing = none := by decide +kernel
def attempt (n : Nat) (l : BitVec 4) (e : Nat) (p : State → Bool) : Bool :=
  runs (.portTrainAttempt 0 l) (ethAt e 0 (eth (fun x => { x with training := true, attempt := n }) id)) p
theorem test_train : attempt 1 0xF 100000000 (fun t => (t.port 0).width == 3 && !(t.port 0).training) = true
    ∧ attempt 1 0xF 99999999 (fun t => (t.port 0).attempt == 2) = true ∧ attempt 1 0x7 100000000 (fun t => (t.port 0).attempt == 2) = true
    ∧ attempt 3 0x0 100000000 (fun t => !(t.port 0).training && (t.port 0).lastEvt == 0x9001) = true := by
  decide +kernel
theorem test_retry_timer : runs (.portRetryTimer 0) (ethAt 10000000000 0 (eth (fun x => { x with enabled := true }) id)) (fun t => (t.port 0).training) = true
    ∧ runs (.portRetryTimer 0) (ethAt 9999999999 0 (eth (fun x => { x with enabled := true }) id)) (fun t => !(t.port 0).training) = true := by decide +kernel
theorem test_link_down_at : runs (.linkDownAt 0) (ethAt 0 100 (eth upPort fun q => { q with departing := some leaving })) (fun t => (t.port 0).width == 0 && (t.port 0).training) = true
    ∧ runs (.linkDownAt 0) (ethAt 0 99 (eth upPort fun q => { q with departing := some leaving })) (fun t => (t.port 0).width == 3) = true := by decide +kernel
theorem test_heartbeat : runs (.heartbeat 0 1) beating (fun t => (t.sess 1).seq == 1 && (t.portQ 0).first.length + (t.portQ 0).second.length == 1) = true := by
  decide +kernel

def ptp0 : PtpMsg := { hdr := frame, domain := 0, sync := true, quality := 5, slave := true, offset := -50, delay := 10, freq := 0 }
def mastered (p : Ptp) : State := { eth upPort (fun q => { q with ptp := p }) with mt := { state := 1, master := some 0 } }
theorem wit_FramesAndModuleTimeTakeEffect : ((eth upPort id).port 0).accepts frame true = true ∧ ((eth upPort id).port 0).ip4 ≠ 0
    ∧ ((eth upPort id).port 0).ip6 ≠ 0 ∧ ((eth upPort id).port 0).accepts frame false = true
    ∧ ((eth upPort fun q => q).port 0).accepts { frame with fcsOk := false } true = false ∧ ((eth upPort id).portQ 0).ptp.domain = ptp0.domain
    ∧ ((eth upPort id).portQ 1).ptp.state.toNat < 3 ∧ (eth upPort id).mt.state = 0
    ∧ (mastered {}).mt.state = 1 ∧ (mastered {}).mt.master = some 0 ∧ ((mastered {}).portQ 0).ptp.lastSync = none ∧ (mastered {}).masterOf 1 = none
    ∧ State.reset.mt.master = none := by decide +kernel
/-- A master heard a nanosecond ahead of the clock is in time, whatever the announce interval. -/
theorem wit_master_in_time : ((mastered { lastSync := some 1 }).portQ 0).ptp.lastSync = some 1
    ∧ (mastered { lastSync := some 1 }).clk.elapsed < 1 + 3 * Config.announceNs ((mastered { lastSync := some 1 }).portQ 0).ptp.domain :=
  ⟨by decide +kernel, Nat.add_pos_left Nat.one_pos _⟩
theorem test_arp : runs (.arpRequest 0 frame 0x0A000002 0x0A000001) (eth upPort id) (fun t => (t.portQ 0).second.map (fun x => x.frame) == [.arp 0x020000000002 0x0A000002]) = true
    ∧ runs (.arpRequest 0 frame 0x0A000002 0x0A000003) (eth upPort id) (fun t => (t.portQ 0).second.isEmpty && (t.port 0).ctr.get 0 2 == 1) = true := by decide +kernel
/-- Quanta of 512 bit times at 400 Gb/s: 1.28 ns each. -/
theorem test_pause : runs (.pfcPauseFrame 0 2 100) (eth (fun x => { upPort x with pfcEn := true, pfcPrio := 2 }) id) (fun t => (t.port 0).pausedTill == 128) = true := by
  decide +kernel
theorem test_ptp : runs (.ptpMessage 0 ptp0) (eth upPort id) (fun t => t.mt.ns == 50 && t.mt.state == 1) = true
    ∧ runs .timeHoldover { eth upPort id with mt := { state := 1, master := some 0 } } (fun t => t.mt.state == 2 && (t.port 0).lastEvt == 0x9020) = true := by decide +kernel

def conn (f : Qp → Qp) (s : State) : State := s.modQp 0 f
def ready0 : State := conn (fun x => { x with state := .ready }) (eth upPort id)
/-- Session 1 of bay 0, with a region of its first bytes. -/
def withRegion : State :=
  let s := ready0.modSess 1 fun x => { x with
    state := .open_, role := .owner, gen := 1, regions := [{ rkey := 77, kind := 0, read := true, write := true, addr := 0, len := 8192 }] }
  s.modBay 0 fun y => { y with record := some rec0 }
def nopBytes : List Byte := 0 :: 0 :: 1 :: 1 :: List.replicate 60 0
def cm0 : CmReq := { hdr := frame, rc := true, mtu := 4096, psn := 7, peerIp := 2, resources := 20 }
/-- A READ that came at time 0 still waits for bytes of a stack that rests. -/
def gathering : State := ethAt 88000 0 (conn (fun x => { x with gathers := [⟨0, 77, 4, 2, 0, []⟩] }) (withRegion.modStack 0 fun k => { k with selfRef := true }))
theorem wit_ConnectionsAndRequestsTakeEffect : ((List.range 512).find? fun q => ((eth upPort id).qp q).state == .free) = some 0
    ∧ (ready0.port (ready0.qp 0).port).up = true ∧ (ready0.qp 0).state ≠ .free ∧ (ready0.qp 0).state ≠ .error ∧ (ready0.qp 0).epsn = (bth 0 0).psn
    ∧ (bth 0 0).icrcOk = true ∧ (bth 0 0).ce = false ∧ (ready0.portQ 0).rxHalf ≤ 2097152 ∧ ready0.su.state = 2 ∧ State.reset.su.state ≠ 2
    ∧ (bth 0 9).psn ≠ (ready0.qp 0).epsn ∧ ((bth 0 9).psn - (ready0.qp 0).epsn).toNat < 2 ^ 23 ∧ (ready0.qp 0).opens = [] ∧ nopBytes.length % 64 = 0
    ∧ (parseSend 0 0 64 nopBytes).2 = none ∧ (parseSend 0 0 64 nopBytes).1.length = 1 ∧ supportedOpcodes.contains 0x1F = false
    ∧ supportedOpcodes.contains 0x04 = true
    ∧ ((conn (fun x => { x with state := .connecting }) (eth upPort id)).qp 0).state = .connecting := by decide +kernel
theorem wit_rdma_access : withRegion.accessFail 0 77 0 4 4 true = none ∧ withRegion.accessFail 0 78 0 4 4 true = some 0x9010
    ∧ withRegion.accessFail 0 77 0 8192 4096 true = none ∧ withRegion.accessFail 0 77 4 2 2 false = none
    ∧ withRegion.regionOf 0 77 = some (1, { rkey := 77, kind := 0, read := true, write := true, addr := 0, len := 8192 })
    ∧ withRegion.gatherWaits 0 4 2 = false ∧ (withRegion.readBay 0 none (withRegion.netNow + 1800) 4 2).bayPoison 0 none 4 2 = false
    ∧ gathering.gatherWaits 0 4 2 = true ∧ gathering.accessFail 0 77 4 2 2 false = none ∧ (gathering.qp 0).gathers.length = 1
    ∧ 0 + 88000 ≤ gathering.clk.elapsed ∧ ((conn (fun x => { x with write := some ⟨77, 4096, 4096⟩ }) withRegion).qp 0).write = some ⟨77, 4096, 4096⟩
    ∧ withRegion.accessFail 0 77 4096 4096 4096 true = none := by decide +kernel
theorem test_send : runs (.sendOnly (bth 0 0) nopBytes) ready0 (fun t => (t.portQ 0).cmds.length == 1 && (t.qp 0).epsn == 1
      && (t.portQ 0).first.map (fun x => x.frame) == [.ack 0 0]) = true
    ∧ runs (.sendOnly (bth 0 9) nopBytes) ready0 (fun t => (t.portQ 0).first.map (fun x => x.frame) == [.nak 0 0 0x60] && (t.qp 0).nakOut) = true
    ∧ runs (.sendFirst (bth 0 0)) ready0 (fun t => (t.qp 0).state == .error && (t.port 0).nakCode == 0x9015) = true := by decide +kernel
theorem test_rdma_write : runs (.rdmaWriteOnly (bth 0 0) ⟨77, 4, 2⟩ [1, 2]) withRegion (fun t => memBytes t.hbm 3 4 == [0, 1, 2, 0]) = true
    ∧ runs (.rdmaWriteOnly (bth 0 0) ⟨77, 8191, 2⟩ [1, 2]) withRegion (fun t => t.hbm == {} && (t.port 0).nakCode == 0x9010) = true := by decide +kernel
theorem test_rdma_read : runs (.rdmaReadRequest (bth 0 0) ⟨⟨77, 4, 2⟩, []⟩) { withRegion with hbm := memSetBytes {} 4 [8, 9] }
      (fun t => ((t.portQ 0).first ++ (t.portQ 0).second).map (fun x => x.frame) == [.readResp 0 0 0x10 [8, 9]]) = true
    ∧ runs (.readGatherTimeout 0 0) gathering (fun t => (t.qp 0).state == .error && (t.port 0).nakCode == 0x9014) = true := by decide +kernel

def congested : State := ethAt 55000 0 (conn (fun x => { x with state := .ready, rate := 400000, target := 400000, alpha := 65536 }) (eth upPort id))
theorem wit_CongestionControlTakesEffect : (congested.qp 0).state = .ready ∧ (congested.port (congested.qp 0).port).up = true
    ∧ (congested.qp 0).alphaAt + (congested.portQ 0).dcqcn.alphaUs * 1000 ≤ congested.clk.elapsed ∧ max ((congested.qp 0).rateSteps + 1) 0 < 5 := by decide +kernel
theorem test_cnp : runs (.cnpReceived ⟨0, frame⟩) congested (fun t => (t.qp 0).rate == 200000 && (t.qp 0).target == 400000) = true
    ∧ runs (.dcqcnRateTimer 0 false) (conn (fun x => { x with rate := 200000 }) congested) (fun t => (t.qp 0).rate == 300000) = true := by decide +kernel

/-! The jetty (chapters 12, 14). -/

def put (l : List Byte) (x : Nat × Nat × Nat) : List Byte := l.take x.1 ++ leBytes x.2.1 x.2.2 ++ l.drop (x.1 + x.2.1)
/-- A command with fields (byte, length, value) besides opcode and session. -/
def cmd (op sess : Nat) (f : List (Nat × Nat × Nat)) : JCmd :=
  { desc := ((0, 1, op) :: (2, 2, sess) :: (4, 4, 9) :: f).foldl put (List.replicate 64 0), ext := [], tag := 3, qp := 0 }
/-- Bay 0 has a record and a program; session 1 is its module owner's, on connection 0. -/
def served (f : Bay → Bay) : State := inBay withRegion f
/-- The command stands at the head of port 0's queue. -/
def atHead (c : JCmd) (s : State) : State := s.modPortQ 0 fun q => { q with cmds := [c] }
/-- It is the next to be parsed, of its opcode, and passes the checks of R305. -/
def fine (c : JCmd) (op : Nat) (s : State) : Bool := (atHead c s).parses c && jOp c == op && ((atHead c s).parsed c).checkCmd c op == none
def jruns (i : JCmd → Instr) (c : JCmd) (s : State) (p : State → Bool) : Bool := runs (i c) (atHead c s) p
theorem wit_CommandsAreCheckedAndAnswered : (atHead (cmd 0x0C 0x201 []) (served id)).parses (cmd 0x0C 0x201 []) = true ∧ jOp (cmd 0x0C 0x101 []) = 0x0C
    ∧ ((atHead (cmd 0x0C 0x201 []) (served id)).parsed (cmd 0x0C 0x201 [])).checkCmd (cmd 0x0C 0x201 []) 0x0C = some 0x9104
    ∧ ((atHead (cmd 0x0C 0x101 [(40, 1, 1)]) (served id)).parsed (cmd 0x0C 0x101 [(40, 1, 1)])).checkCmd (cmd 0x0C 0x101 [(40, 1, 1)]) 0x0C = some 0x9102
    ∧ (served id).parses (cmd 0x0C 0x101 []) = false ∧ (served id).ownSession (cmd 0x0C 0x101 []) = true ∧ (served id).ownSession (cmd 0x00 0 []) = false
    ∧ ((served id).port ((served id).sess 1).port).up = true := by
  decide +kernel
theorem test_reject_counts : jruns .cancel (cmd 0x0C 0x201 []) (served id) (fun t => t.jetty.rejects == 1 && t.jetty.cmds == 1 && (t.sess 1).seq == 0) = true
    ∧ jruns .cancel (cmd 0x0C 0x101 []) (served id) (fun t => t.jetty.rejects == 0 && (t.sess 1).seq == 1 && (t.portQ 0).cmds.isEmpty) = true
    ∧ runs (.cancel (cmd 0x0C 0x101 [])) (served id) (fun t => t.jetty.cmds == 0) = true := by decide +kernel

def opening1 (code : Code) : State := conn (fun x => { x with opens := [{ bay := 0, slot := some 2, resume := none, key := 1, hostPort := 5, cmdId := 1, code := code, start := 0 }] })
  ((served id).modSess 2 fun x => { x with state := .opening, gen := 4 })
def keyed : State := { served (fun y => { y with record := some { rec0 with ownerKey := 0 } }) with img := { State.reset.img with keys := [List.replicate 57 1] } }
def openCmd : JCmd := { cmd 0x02 0 [(1, 1, 2), (17, 1, 1), (18, 2, 5)] with ext := List.replicate 128 0 }
theorem wit_SessionCommandsTakeEffect : fine (cmd 0x00 0 []) 0 (served id) = true ∧ fine (cmd 0x01 0 []) 1 (served id) = true ∧ fine openCmd 2 keyed = true
    ∧ (keyed.openKey 0 1).isSome = true ∧ keyed.freeSlots 0 ≠ [] ∧ (keyed.bay 0).record.isSome = true ∧ jField openCmd 18 2 ≠ 0
    ∧ ((opening1 0).qp 0).opens.length = 1 ∧ fine (cmd 0x03 0x101 []) 3 (served id) = true
    ∧ fine (cmd 0x04 0x101 [(32, 8, 4096)]) 4 (served id) = true ∧ fine (cmd 0x04 0x101 []) 4 (served id) = true
    ∧ (served id).regionOk 0 0 0 4096 false = true ∧ (served id).regionOk 0 0 1 rec0.hbmBytes false = false
    ∧ fine (cmd 0x06 0x101 []) 6 (served id) = true ∧ ((served id).sess 1).role ≠ .user ∧ (served id).ident.queue = []
    ∧ fine (cmd 0x05 0x101 [(16, 4, 77)]) 5 (served id) = true := by decide +kernel
/-- An ATTEST of session 1 waits; no record that it must follow does. -/
def attesting : State := { served id with ident := { (served id).ident with queue := [{ session := 0x101, cmdId := 1, bay := none, nonce := [], start := 0 }] } }
theorem wit_attest : attesting.ident.queue.length = 1 ∧ attesting.recordsSigned = true ∧ (attesting.modCove 0 fun v => { v with ig := { unrecorded := [{ rec1 with unit := 4 }] } }).recordsSigned = false := by
  decide +kernel
theorem test_verify : runs (.sessionVerifyDone 0) (opening1 0) (fun t => (t.sess 2).state == .open_ && (t.sess 2).role == .bay && (t.sess 2).gen == 4) = true
    ∧ runs (.sessionVerifyDone 0) (opening1 0x9107) (fun t => (t.sess 2).state == .free && (t.sess 2).gen == 4) = true := by decide +kernel
theorem test_close : jruns .sessionClose (cmd 0x03 0x101 []) (served id) (fun t => (t.sess 1).state == .free && (t.sess 1).regions == []) = true := by decide +kernel
theorem test_revoke : jruns .regionRevoke (cmd 0x05 0x101 [(16, 4, 77)]) (served id) (fun t => (t.sess 1).regions == []) = true := by decide +kernel
theorem test_orphan : runs (.sessionOrphanTimeout 0 1) (ethAt 0 1000000000 ((served id).modSess 1 fun x => { x with state := .orphaned })) (fun t => (t.sess 1).state == .free) = true
    ∧ runs (.sessionOrphanTimeout 0 1) (ethAt 0 999999999 ((served id).modSess 1 fun x => { x with state := .orphaned })) (fun t => (t.sess 1).state == .orphaned) = true := by
  decide +kernel

def runCmd (steps : Nat) : JCmd := cmd 0x0A 0x101 [(16, 4, steps)]
def loadCmd (n : Nat) : JCmd := cmd 0x08 0x101 [(32, 8, n)]
def running1 : State := served fun y => { y with run := some work0, st := { y.st with live := [step1], next := 2 } }
theorem wit_WorkCommandsTakeEffect : fine (runCmd 5) 0x0A (served id) = true ∧ fine (runCmd 0) 0x0A (served id) = true
    ∧ ((served id).bay 0).stopped = none ∧ ((served id).bay 0).program = some prog0 ∧ rec0.inside 0 0 = true ∧ ¬ prog0.entrySets ≤ 0
    ∧ (served id).powerRefuses 0 prog0 = false ∧ fine (loadCmd 64) 0x08 (served id) = true ∧ 64 ≤ rec0.hbmBytes
    ∧ ((served fun y => { y with run := some work0 }).bay 0).busy = true ∧ ((served id).bay 0).busy = false ∧ (running1.bay 0).busy = true
    ∧ (running1.bay 0).st.running.isSome = true
    ∧ ([0, 1, 2, 3].all fun q => fine (cmd 0x10 0x101 [(16, 1, q)]) 0x10 (served id)) = true
    ∧ fine (cmd 0x0D 0x101 [(24, 4, 1)]) 0x0D (served id) = true ∧ fine (cmd 0x09 0x101 []) 0x09 (served id) = true
    ∧ fine (cmd 0x0C 0x101 []) 0x0C (served id) = true := by decide +kernel
/-- Work with room, work behind a full quota of its session, and a GENERATE. -/
theorem wit_admission : (match (served id).capacity 0 work0 with | .now _ => true | _ => false) = true
    ∧ ((served id).bay 0).quotaFull rec0 work0 = false
    ∧ ((served fun y => { y with queue := List.replicate 4 work0 }).bay 0).quotaFull rec0 work0 = true
    ∧ fine { cmd 0x0B 0x101 [(1, 1, 1), (16, 2, 1), (20, 4, 1)] with ext := List.replicate 64 0 } 0x0B (served id) = true ∧ prog0.generates = true := by
  decide +kernel
theorem test_run_queues : jruns .run (runCmd 5) (served id) (fun t => (t.bay 0).queue.length == 1 && t.jetty.rejects == 0) = true
    ∧ jruns .run (runCmd 0) (served id) (fun t => (t.bay 0).queue.isEmpty && t.jetty.cmds == 1) = true
    ∧ jruns .run (runCmd 5) (served fun y => { y with stopped := some 0xE010 }) (fun t => (t.bay 0).queue.isEmpty && t.jetty.rejects == 1) = true := by decide +kernel
theorem test_load : jruns .programLoad (loadCmd 64) (served id) (fun t => (t.bay 0).load.any fun l => l.length == 64) = true
    ∧ jruns .programLoad (loadCmd 64) (served fun y => { y with run := some work0 }) (fun t => (t.bay 0).load.isNone && t.jetty.rejects == 1) = true := by decide +kernel
theorem test_step_hint : jruns .stepHint (cmd 0x0D 0x101 [(24, 4, 1), (28, 2, 40)]) (served id) (fun t => (t.bay 0).hints == [{ step := 1, steps := 1, watts := 40 }]) = true := by
  decide +kernel

def regCmd (op n v : Nat) : JCmd := cmd op 0x101 [(24, 8, 0xF00000000304), (32, n, v)]
def capCmd (scope w : Nat) : JCmd := cmd 0x18 0x101 [(16, 1, scope), (18, 2, w)]
/-- Headland's PLL acquires in service: register commands wait. -/
def headlandLate : State := (served id).modPll 16 fun q => { q with state := .acquiring }
def inMaintenance : State := { served id with jetty := { State.reset.jetty with maint := { opening := some (0x101, 1, 0) } } }
theorem wit_JettyCommandsTakeEffect : fine (regCmd 0x12 4 5) 0x12 (served id) = true ∧ fine (regCmd 0x11 1 1) 0x11 (served id) = true
    ∧ (served id).headlandWaits = false ∧ (served id).jetty.regWait = [] ∧ headlandLate.headlandWaits = true ∧ fine (regCmd 0x12 4 5) 0x12 headlandLate = true
    ∧ ((served id).write (jWho (regCmd 0x12 4 5)) 0x304 5).isSome = true
    ∧ fine (cmd 0x12 0x101 [(24, 8, 0xF00000000000), (32, 4, 5)]) 0x12 (served id) = true
    ∧ ((served id).write (jWho (regCmd 0x12 4 5)) 0 5).isSome = false ∧ fine (capCmd 1 300) 0x18 (served id) = true
    ∧ fine (capCmd 0 300) 0x18 (served id) = true ∧ fine (cmd 0x19 0x101 []) 0x19 (served id) = true
    ∧ fine (cmd 0x1A 0x101 [(20, 4, 1)]) 0x1A (served id) = true ∧ (served id).jetty.maint.opening = none
    ∧ fine (cmd 0x1A 0x101 [(16, 1, 1)]) 0x1A (served id) = true ∧ fine (cmd 0x1B 0x101 []) 0x1B (served id) = true ∧ inMaintenance.maintOpen = true
    ∧ fine (cmd 0x13 0x101 [(16, 4, 1), (20, 4, 65)]) 0x13 (served id) = true := by decide +kernel
def kept1 : State := (served id).modSess 1 fun x => { x with kept := [(1, [3, 4])], seq := 1 }
/-- A RESEND of one datagram that is kept; a permanent entry of the talus map. -/
theorem wit_resend_and_repair : ((kept1.sess 1).kept.find? fun d => d.1 == 1) = some (1, [3, 4]) ∧ (kept1.port (kept1.sess 1).port).up = true
    ∧ seqRange 1 1 = [1] ∧ fine (cmd 0x13 0x101 [(16, 4, 1), (20, 4, 1)]) 0x13 kept1 = true
    ∧ ((({ inMaintenance with ctrls := repaired.ctrls } : State).modStack 0 fun k => { k with talus := [{ talus0 with temporary := false }] }).stack 0).talus.find?
      (fun t => t.way == 0 && t.slot == talus0.slot && !t.temporary) = some { talus0 with temporary := false } := by decide +kernel
theorem test_reg_write : jruns .regWrite (regCmd 0x12 4 0x140005) (served id) (fun t => t.clk.slackUs == 5 && t.clk.ebbMs == 0x14) = true
    ∧ jruns .regWrite (regCmd 0x12 4 0x140005) headlandLate (fun t => t.clk.slackUs == 10 && t.jetty.regWait.length == 1) = true := by decide +kernel
theorem test_cap : jruns .capSetBay (capCmd 0 300) (served id) (fun t => (t.bay 0).pwr.capW == 300) = true
    ∧ jruns .capSetModule (capCmd 1 2000) (served id) (fun t => t.pwr.capNext == some 1100) = true := by decide +kernel
theorem test_maintenance : jruns .maintenanceOpen (cmd 0x1A 0x101 [(20, 4, 2)]) (served id) (fun t => t.jetty.maint.busyTill == 2000000 && t.maintOpen) = true
    ∧ jruns .bayReset (cmd 0x19 0x101 []) (served id) (fun t => (t.bay 0).hang.asked == some 0xE001) = true := by decide +kernel
theorem test_module_reset : jruns .moduleReset (cmd 0x1B 0x101 []) (served id) (fun t => t.jetty.resetting && (t.portQ 0).departing.any fun d => d.reason == 0x9030) = true := by
  decide +kernel

/-! Start-up, resets, management, pins (chapters 17 to 21). -/

def stage (n : BitVec 4) (now : Nat) (f : Startup → Startup) : State :=
  let s := clockedAt now 0 State.reset
  { s with su := f { s.su with stage := n }, pins := { s.pins with aux := true, main := true, mateN := false }, clk := { s.clk with refOk := true, neapSrc := false } }
/-- An image whose cargo of two bytes is still to be read at S10. -/
def withCargo (now : Nat) : State := let s := stage 10 now id; { s with img := { s.img with cargo := some (0, 2) } }
theorem wit_StartUpStagesTakeEffect : State.reset.pins.aux = false ∧ State.reset.pwr.parks.contains .auxLoss = false
    ∧ (List.range 12).all (fun n => (stage (BitVec.ofNat 4 n) 0 id).inStage n && !(stage (BitVec.ofNat 4 n) 0 id).inStage (n + 1)) = true
    ∧ (stage 4 0 id).pins.mateN = false ∧ (stage 0 10000000 fun u => { u with auxSince := some 0 }).clk.now = 10000000
    ∧ ((stage 10 0 id).port 0).training = false ∧ ((stage 10 0 id).port 0).up = false ∧ (stage 10 0 id).su.s11Done = false
    ∧ (stage 11 0 id).img.cargo = none ∧ (withCargo 5).img.cargo = some (0, 2) ∧ (withCargo 5).su.cargoRead = none
    ∧ 5 * 2 ≤ 2 * ((withCargo 5).clk.now - (withCargo 5).su.s10At) ∧ stageLimit 4 = some 2000000000 ∧ (stage 6 0 id).su.state = 0
    ∧ ((stage 6 0 id).modPll 6 fun q => { q with state := .stable }).inStage 6 = true
    ∧ ({ stage 0 1000000000 id with clk := { (stage 0 1000000000 id).clk with refOk := false } } : State).inStage 0 = true := by decide +kernel
theorem test_s0 : runs .stageS0 (stage 0 10000000 fun u => { u with auxSince := some 0 }) (fun t => t.su.stage == 1 && t.su.state == 0) = true
    ∧ runs .stageS0 (stage 0 9999999 fun u => { u with auxSince := some 0 }) (fun t => t.su.stage == 0) = true := by decide +kernel
theorem test_s1_s4 : runs (.stageS1 false) (stage 1 0 id) (fun t => t.su.state == 3 && t.su.faultCode == 0x1010) = true
    ∧ runs (.stageS4 true) (stage 4 0 id) (fun t => t.su.stage == 5 && t.pins.swClosed && t.pwrx.mainRegs) = true
    ∧ runs (.stageS4 true) { stage 4 0 id with pins := { (stage 4 0 id).pins with mateN := true } } (fun t => t.su.state == 1 && t.su.held == 0x1020) = true := by
  decide +kernel
theorem test_s10_s11 : runs .stageS10 (stage 10 0 id) (fun t => t.su.state == 1 && t.su.held == 0x1060) = true
    ∧ runs .stageS11 (stage 11 0 id) (fun t => t.su.state == 2 && t.pwr.capW == 1100) = true := by decide +kernel

def hung (f : Hang → Hang) (e : Nat) : State := { timeAt e (served fun y => { y with hang := f y.hang }) with clk := { (timeAt e State.reset).clk with refOk := true } }
/-- The one core that the bay's program uses waits in CRECV. -/
def eddying (f : Hang → Hang) (e : Nat) : State := (hung (fun h => f { h with window := true }) e).modCore c0 fun _ => waiting (.crecv 0 3 1)
/-- Every core of cove 18, which is in test phase 3, does. -/
def testing (e : Nat) : State := (List.range 16).foldl (fun s i => s.modCore ⟨18, Fin.ofNat 16 i⟩ fun _ => waiting (.crecv 0 3 1)) (timeAt e (phase 5 0))
theorem wit_ResetsAndRecoveryTakeEffect : (hung (fun h => { h with asked := some 0xE001 }) 0).resetMay 0 = true ∧ (hung id 0).resetMay 0 = false
    ∧ (hung (fun h => { h with resetting := true }) 130000).clk.elapsed = 130000 ∧ (hung id 0).parked = false ∧ (hung id 0).clk.refOk = true
    ∧ ((hung (fun h => { h with recovering := true }) 0).firstShape 0 prog0).isSome = true
    ∧ ((hung (fun h => { h with recovering := true }) 0).bay 0).program = some prog0
    ∧ ((hung (fun h => { h with window := true, windowAt := some 0 }) 0).stepNs 0) = 800000 := by decide +kernel
theorem wit_eddies : (hung (fun h => { h with window := true }) 200000).eddyFinding (.bay 0) = [] ∧ (eddying id 200000).eddyFinding (.bay 0) = [0]
    ∧ (eddying (fun h => { h with eddyLast := [⟨0, 0, 0, 0⟩] }) 200000).eddyFinding (.bay 0) = [0]
    ∧ (eddying (fun h => { h with eddyLast := [⟨0, 0, 0, 0⟩] }) 200000).eddyMember (.bay 0) 0 = ⟨0, 0, 0, 0⟩
    ∧ (testing 200000).eddyFinding (.cove 18) = List.range 16 ∧ (testing 200000).eddyMember (.cove 18) 0 = ⟨0, 0, 0, 0⟩
    ∧ (((testing 200000).field (fieldOf 18)).cove == some 18 && ((testing 200000).field (fieldOf 18)).phase == 5) = true
    ∧ ((testing 200000).coveTest 18).eddyLast = [] := by decide +kernel
theorem test_eddy : runs (.eddyPass (.bay 0)) (eddying (fun h => { h with eddyLast := [⟨0, 0, 0, 0⟩] }) 200000) (fun t => (t.bay 0).stopped == some 0xE010) = true
    ∧ runs (.eddyPass (.bay 0)) (eddying id 200000) (fun t => (t.bay 0).hang.eddyLast == [⟨0, 0, 0, 0⟩]) = true
    ∧ runs (.eddyPass (.cove 18)) (testing 200000) (fun t => (t.coveTest 18).eddyLast.length == 16) = true := by decide +kernel
theorem test_reset_entry : runs (.resetEntry 0) (hung (fun h => { h with asked := some 0xE001 }) 0) (fun t => (t.bay 0).hang.resetting && (t.bay 0).hang.resetRec == 0xE001
      && (t.bay 0).hang.resets == 1) = true
    ∧ runs (.recoveryQuiescence 0) (hung (fun h => { h with resetting := true }) 130000) (fun t => !(t.bay 0).hang.resetting) = true
    ∧ runs (.recoveryQuiescence 0) (hung (fun h => { h with resetting := true }) 129999) (fun t => (t.bay 0).hang.resetting) = true := by decide +kernel
theorem test_window : runs (.recoveryWindowTimeout 0) (hung (fun h => { h with window := true, windowAt := some 0 }) 3200000) (fun t => !(t.bay 0).hang.window) = true
    ∧ runs (.recoveryWindowTimeout 0) (hung (fun h => { h with window := true, windowAt := some 0 }) 3199999) (fun t => (t.bay 0).hang.window) = true := by decide +kernel

def logged : State := { ownerIn State.reset with mg := { State.reset.mg with
  log := [{ time := 5, code := 0x2010, kind := 2, stage := 11, cove := 0xFFFF, bay := 0xFF, detail := [] }], logHead := 1 } }
def window (target : BitVec 32) : State := { ownerIn State.reset with mg := { State.reset.mg with nvTarget := target } , pins := { State.reset.pins with aux := true } }
def written : State := { State.reset with mg := { State.reset.mg with nvState := 1, nvTodo := [(devKey 0 16, [1, 2])] }, img := {} }
def journal : State := { stage 11 0 id with su := { (stage 11 0 id).su with jTodo := [{ kind := 1, seq := 1, body := List.replicate 16 0 }] } }
def mated : State := stage 11 0 id
/-- The oldest entry that the devices hold is asked for. -/
def fetching : State := { logged with mg := { logged.mg with pending := true, sel := 1, copied := 1 } }
/-- 47 entries with 65,535-byte bodies fill more than three quarters of device 0's journal. -/
def fullJournal : State := { mated with img := { mated.img with dev := (List.range 47).foldl (fun m i =>
  memSetBytes m (devKey 0 (journalStart + i * 65665)) [1, 0, 255, 255]) {} } }
theorem wit_ManagementWritesTakeEffect : logged.isOwner (.session 0 1) = true ∧ logged.isOwner (.session 0 3) = false ∧ (logged.logEntry 1).isSome = true
    ∧ logged.logEntry 2 = none ∧ (window 1).nvTakes (.session 0 1) true = true ∧ (window 0).nvTakes (.session 0 1) false = true
    ∧ (window 0).nvTakes (.session 0 1) true = false ∧ (window 1).img.slot ≠ some 0
    ∧ bits (window (2 * 4161536 + 1)).mg.nvTarget 1 22 = 4161536 ∧ written.mg.nvState = 1 ∧ journal.su.jTodo.length = 1 ∧ journal.pins.aux = true
    ∧ journal.su.compacting = false ∧ fetching.mg.pending = true ∧ fetching.inRing 1 = true := by decide +kernel
theorem wit_full_journal : 4 * (max (fullJournal.journalOn 0).2 (fullJournal.journalOn 1).2) ≥ 3 * journalBytes ∧ fullJournal.su.jTodo = []
    ∧ fullJournal.su.compacting = false ∧ fullJournal.pins.aux = true := by decide +kernel
theorem test_log_select : runs (.mgLogSelWrite (.session 0 1) 1) logged (fun t => t.mg.valid && t.mg.len == 16) = true
    ∧ runs (.mgLogSelWrite (.session 0 1) 2) logged (fun t => !t.mg.valid && !t.mg.pending) = true
    ∧ runs .logDeviceCopy logged (fun t => t.mg.copied == 1) = true := by decide +kernel
theorem test_nv_window : runs .nvWriteComplete written (fun t => t.mg.nvState == 2 && memBytes t.img.dev (devKey 0 16) 2 == [1, 2]) = true
    ∧ runs (.nvGoSlotChunk (.session 0 1)) (window (2 * 4161536 + 1)) (fun t => t.mg.nvState == 3 && t.mg.nvCode == 0xD060) = true := by decide +kernel

def open1 : State := { mated with pins := { mated.pins with mateN := true } }
def accessing (off : BitVec 28) (f : State → State) : State := f { mated with
  pins := { mated.pins with hlBusy := true, hlOff := off }, pwrx := { mainRegs := true } }
theorem wit_PinsAndTapTakeEffect : State.reset.pins.aux = false ∧ mated.pins.aux = true ∧ mated.pins.swClosed = false ∧ mated.parked = false
    ∧ (accessing 0x300 id).pins.hlOff.toNat % 4 = 0 ∧ (accessing 0x300 id).headlandWaits = false ∧ (accessing 0x300 id).pwrx.mainRegs = true
    ∧ (accessing 0x302 id).pins.hlOff.toNat % 4 ≠ 0
    ∧ (accessing 0x300 fun s => { (s.modPll 16 fun q => { q with state := .acquiring }) with su := { s.su with state := 2 } }).headlandWaits = true := by decide +kernel
theorem test_idcode : runs .idcode mated (fun t => t.pins.capture == 0x10812DB3) = true
    ∧ runs (.hlAccess 0x300) mated (fun t => t.pins.hlBusy && t.ident.jtagUsed && t.pins.hlOff == 0x300) = true := by decide +kernel
theorem test_mate : runs .mateNHigh { mated with pins := { mated.pins with swClosed := true } } (fun t => t.pins.swClosed && t.pins.mateAt.isSome && t.pwr.errCode == 0x3035) = true
    ∧ runs .mateNLow open1 (fun t => !t.pins.mateN) = true := by decide +kernel

/-! Further clauses of the statements, each with a state that meets it. -/

/-- The DMA engine's write of a transfer that is done reading stands at the arbiter of its bank. -/
def dmaRow : State := (spCove { req0 true with core := 16, size := 64, off := 0, dma := some 3 }).modCove 0 fun v =>
  { v with net := { v.net with dma := [{ dma0 with seq := 3, started := true, buf := [1, 2] }] } }
theorem wit_dma_row : ((dmaRow.cove 0).net.dma.find? fun d => some d.seq == some (3 : BitVec 16) && d.started && !d.done).isSome = true
    ∧ (dmaRow.stepsAt 0).1.isDrain 0 = false ∧ (dmaRow.cove 0).sp.reqs.map (fun q => q.core) = [16] := by decide +kernel
/-- A no-op descriptor passes DQ's check, one of a reserved operation does not; a word taken with bad parity; a channel that its reader closed. -/
theorem wit_more_units : dmaCheck ((dmaCove [] 0).cove 0).sp ((dmaCove [] 0).bay 0) ((dmaCove [] 0).stepsAt 0).2 (dmaDesc 0) = 0 ∧ (dmaDesc 0).op = 0
    ∧ dmaCheck ((dmaCove [] 0).cove 0).sp ((dmaCove [] 0).bay 0) ((dmaCove [] 0).stepsAt 0).2 (dmaDesc 3) ≠ 0
    ∧ ((latched 0 { recv := [(7, 0, false)] }).cove 0).latch 0 0 = { recv := [(7, 0, false)] }
    ∧ ((chans (fun h => (writer5 h).modEntry 5 fun e => { e with state := .peerClosed }) [(1, 0x3005)]).chan 0).holds 0 0x3005 true = true
    ∧ (streamDesc (streamState.stream 0).d 0 (streamState.stepsAt 0).2).words = 0 ∧ State.reset.streamAt 18 = none
    ∧ streamState.streamFail 0 0 0 (streamDesc (streamState.stream 0).d 0 (streamState.stepsAt 0).2) = none := by decide +kernel
/-- A maintenance window opens while sequences sit in berths; a drain step that has ended stands behind the oldest step. -/
theorem wit_more_steps : ({ seated with jetty := { seated.jetty with maint := { opening := some (0, 0, 0) } } } : State).mayStep 0 false = true
    ∧ (List.range 4).all (fun g => ((stepping [step1] id).field g).queue.isEmpty) = true
    ∧ ((stepping [step1, { no := 2, drain := true, endedAt := some 0 }] id).bay 0).st.spentDrains = [{ no := 2, drain := true, endedAt := some 0 }]
    ∧ (acking.bay 0).ending = [] ∧ (acking.bay 0).run = some work0 ∧ work0.firstStep ≤ 1 ∧ work0.lastStep = none := by decide +kernel
/-- A second failure with a culprit whose segment has a spare, with one too many, and with the violation of a tide switch. -/
theorem wit_second_failure : (failedAgain 1 [0]).culpritsOf { step1 with attempt := 1, endedAt := some 0, vote := some false, culprits := [0] } = [0]
    ∧ (failedAgain 1 [0]).sparesFor [0] = true ∧ (failedAgain 1 [0]).sparesFor [0, 1, 2, 3] = false
    ∧ (failedAgain 1 []).physOf 0 = some 0 := by decide +kernel
/-- Handles of A, B and D in use of a MATMUL that drains; two operations that stream. -/
theorem wit_more_breaker : (brkState { queue := [tileOp tile false], running := [{ op := tileOp tile false, set := true }, { op := tileOp tile false, set := true }] } {}).headWaits 0
      (tileOp tile false) = true
    ∧ ((drained fill1 false).cove 0).brk.running.map (fun x => x.left) = [0] ∧ (tileDesc (BitVec.ofNat 256 0)).op = 0
    ∧ ((brkState {} {}).readPairs 0 0).cove 0 = (brkState {} {}).cove 0
    ∧ (((brkState {} (presentingCore tile)).modCove 0 fun v => { v with brk := { v.brk with queue := List.replicate 8 (tileOp tile false) } }).cove 0).brk.queue.length = 8 := by
  decide +kernel
/-- A shadow signature's packet waits at the cove's LOCAL port; 512 signatures wait; a record that is due, one whose replay is still to come; a
watch of ten minutes at score 0. -/
def sigPkt : Packet := { packet 0 1 16 with type := 8, payload := sigBytes 1 2 0 9 }
def sigWaits : State := inRouter 0 (fun n => { n with ejected := [(4, sigPkt)] }) (net1 id)
def watching : State := (timeAt tenMinutes (integ { state := .watch })).modCoveTest 0 fun k => { k with watchAt := some 0 }
theorem wit_more_integrity : ((sigWaits.cove 0).net.ejected.find? fun x => x.2.type == 8 && !x.2.response && x.2.payload == sigBytes 1 2 0 9) = some (4, sigPkt)
    ∧ ¬ ((integ { primSigs := List.replicate 512 sig1 }).cove 0).ig.primSigs.length < 512
    ∧ ((integ owes).cove 0).ig.unrecorded.find? (fun p => p.code == 0x4021 && (integ owes).recordDue p) = some rec1
    ∧ ((integ {}).cove 0).ig.unrecorded.find? (fun p => p.code == 0x4021 && (integ {}).recordDue p) = none
    ∧ State.reset.heldRecords = [] ∧ (watching.cove 0).ig.state = .watch ∧ watching.score 0 = 0 ∧ (watching.coveTest 0).watchAt = some 0
    ∧ 0 + tenMinutes ≤ watching.clk.elapsed ∧ watching.fenceAsked 0 = false := by decide +kernel
/-- An entry in quarantine, a reader that placed a message, and room for an answer and none. -/
theorem wit_more_channels : ((reader {}).canAnswer 0 false = true ∧ answering.canAnswer 0 false = false)
    ∧ ((chCore (entry5 { state := .quarantine }) {}).chan 0 |>.entry 5).state = .quarantine
    ∧ (chCore (entry5 { state := .quarantine }) {}).receivesChan 0 4 (chPkt 4) = true
    ∧ ((chCore (entry5 { state := .open_, placed := true }) {}).chan 0 |>.entry 5).placed = true
    ∧ (sending { state := .blocked, listed := true }).receivesChan 0 6 (chPkt 6) = true := by decide +kernel
/-- The walk meets a cove under test, a live cove with a spare, and one whose segment has none; coves that a fence waits for. -/
def noSpares : State := (List.range 2).foldl (fun s i => s.modCove (18 + i) fun v => { v with ig := { v.ig with state := .fenced } }) State.reset
theorem wit_walk : (phase 3 0).underTest 18 = true ∧ State.reset.receiver 0 [] = some 18 ∧ State.reset.underTest 18 = false ∧ noSpares.receiver 0 [] = none
    ∧ (State.reset.logOf 0).isSome = true ∧ State.reset.rot.moves.find (segOfPhys 0) = none ∧ chosen.rot.lastStart.all (fun t => decide (t + 50000000 ≤ chosen.clk.elapsed)) = true
    ∧ State.reset.fenceHolds 0 none = true ∧ (stepping [step1] id).fenceHolds 0 none = false := by decide +kernel
/-- Moves back to a spare that is no longer normal, without a receiver, and one that has run its time. -/
theorem wit_more_moves : (moves { move0 with kind := .back }).moveReady 0 { move0 with kind := .back } = true
    ∧ (((moves { move0 with kind := .back }).modCove 18 fun v => { v with ig := { v.ig with state := .fenced } }).cove 18).ig.state = .fenced
    ∧ (moves { move0 with dst := none, kind := .fence }).moveReady 0 { move0 with dst := none, kind := .fence } = true
    ∧ State.reset.darkMask 0 = 0 ∧ State.reset.fenceAsked 4 = false ∧ (shaped 0).resumeFails prog0 0 = false := by decide +kernel
/-- A path that opens on a pulse, REFCLK's return after 104,858 ns, a slip at a row's west cove, and a reset that waits for none. -/
theorem wit_more_clocks : (seam0 { state := .aligning } 1280).clk.now % 160 = 0 ∧ (seam0 { state := .aligning } 1280).clk.now ≤ 0 + 2000
    ∧ coasting.clk.refAwayAt + 104858 ≤ (clockedAt 104858 0 coasting).clk.now ∧ ¬ coasting.clk.refAwayAt + 104858 ≤ (clockedAt 104857 0 coasting).clk.now
    ∧ State.reset.physOf 17 = some 17 ∧ (serving id).jetty.resetting = false
    ∧ (((clocked State.reset).modPll 9 fun q => { q with state := .stable }).pll (6 + 3)).state = .stable
    ∧ (timeAt 10000000 (State.reset.modStack 3 fun k => { k with lossAt := some 0 })).clk.elapsed = 0 + 10000000 := by decide +kernel
/-- A packet routed by its logical cove, and a broadcast that no port of the ring has taken yet; a REG request and a TELEMETRY ejected at their destination. -/
def mappedPkt : Packet := { flagPkt with dstLog := some 0 }
def bcastAt : State := inRouter 360 (fun n => { n with vcs := n.vcs.set [] 22 [bcastPkt] }) (net1 id)
def telemPkt : Packet := { packet 3 360 8 with type := 10, agent := true }
def ejectedAt (c : Nat) (p : Packet) : State := inRouter c (fun n => { n with ejected := [(if p.agent then 5 else 4, p)] }) (net1 id)
theorem wit_more_network :
    winner (((waitsAt mappedPkt).cove 0).net.lastWin.get 23 4) (((waitsAt mappedPkt).cove 0).net.heads.filter ((waitsAt mappedPkt).eligible 0 4)) = some (4, 0, mappedPkt)
    ∧ mappedPkt.redirected = false
    ∧ (winner ((bcastAt.cove 360).net.lastWin.get 23 0) ((bcastAt.cove 360).net.heads.filter (bcastAt.eligible 360 0))).map (fun x => x.2.2.bcast) = some true
    ∧ (bcastAt.branches 360 5 bcastPkt).contains 0 = true
    ∧ (ejectedAt 0 regPkt).atEjection regPkt = true ∧ (ejectedAt 0 regPkt).receives regPkt = true ∧ (ejectedAt 0 regPkt).canAnswer 0 false = true
    ∧ (ejectedAt 360 telemPkt).atEjection telemPkt = true ∧ (ejectedAt 360 telemPkt).receives telemPkt = true ∧ (net1 id).atEjection telemPkt = false
    ∧ asSent telemPkt = true := by decide +kernel
/-- A READ of the jetty's area in a run with input, and without a run; a transfer whose packets are cut. -/
def jettyPkt : Packet := { packet 0 360 0 with type := 3, tag := 9, bay := 0, count := 64, agent := true }
def inputRun : State := (dmaCove [] 0).modBay 0 fun y => { y with run := some { work0 with inLen := 64 } }
theorem wit_more_dma : ifaceOf jettyPkt = .jetty ∧ inputRun.receives jettyPkt = true ∧ inputRun.canAnswer 360 true = true
    ∧ (inputRun.bay 0).run.map (fun w => w.inLen) = some 64 ∧ jettyPkt.addr.toNat + jettyPkt.count.toNat ≤ 64
    ∧ ((dmaCove [] 0).modBay 0 fun y => { y with run := none }).receives jettyPkt = true
    ∧ (dmaDesc dmaWord).packets = 1 ∧ [{ started with cut := 1 }].all (fun d => decide ((dmaDesc d.desc).packets ≤ d.cut)) = true
    ∧ (dmaCove [] 0).packetDropped writePkt = false ∧ (dmaCove [] 0).aged writePkt = false
    ∧ (match landWrite (dmaCove [] 0) writePkt with | .landed _ => true | _ => false) = true
    ∧ (((dmaCove [] 0).bay 0).st.isDrain 1) = false := by decide +kernel
/-- A codeword that the patrol is due to read and one that it is not; a bank whose repair resource is used; a stream write of bad parity. -/
theorem wit_more_hbm : (repaired.stack 0).scrubFrom + (repaired.stack 0).scrubAt * 43200000000000 / 805306368 ≤ repaired.clk.elapsed
    ∧ ¬ ((repaired.modStack 0 fun k => { k with scrubAt := 1 }).stack 0).scrubFrom + 1 * 43200000000000 / 805306368 ≤ repaired.clk.elapsed
    ∧ ((repaired.modStack 0 fun k => { k with softUsed := [(1, 2)] }).stack 0).softUsed.contains (1, 2) = true
    ∧ ((port0 [] [] [{ write0 with ok := false }]).stream 0).wrBuf.any (fun w => !w.ok) = true := by decide +kernel
/-- Both masters of time are heard; the master's own port is down. -/
def twoMasters : State := ((mastered { lastSync := some 0, state := 3 }).modPort 1 upPort).modPortQ 1 fun q => { q with ptp := { state := 3, quality := some 1, lastSync := some 0 } }
theorem wit_other_master : twoMasters.mt.master = some 0 ∧ (twoMasters.masterOf 1).isSome = true := by decide +kernel
/-- Every queue pair in use; 64 commands in the port's queue; a frame for another host. -/
def allConnected : State := { eth upPort id with qps := { rows := (List.range 512).map fun i => (i, { state := .connecting }) } }
theorem wit_more_connections : allConnected.qps.rows.length = 512 ∧ allConnected.qps.rows.all (fun r => r.2.state != .free) = true
    ∧ 64 < ((ready0.modPortQ 0 fun q => { q with cmds := List.replicate 64 { desc := [], ext := [], tag := 0, qp := 0 } }).portQ 0).cmds.length + 1
    ∧ (ready0.port 0).accepts { frame with dstMac := 7 } false = false ∧ (ready0.port 0).accepts (bth 0 0).hdr false = true
    ∧ 2 ^ 23 ≤ ((bth 0 0xFFFFFF).psn - (ready0.qp 0).epsn).toNat ∧ ((congested.port 0).accepts frame true) = true := by decide +kernel
/-- An orphan that a connection resumes within its second, one whose second has passed, and one of another generation; every slot of the bay in use;
16 ATTESTs that wait. -/
def resuming (v : Nat) (at_ : Nat) : State := conn (fun x => { x with opens := [{ bay := 0, slot := none, resume := some v, key := 1, hostPort := 5, cmdId := 1, code := 0, start := 0 }] })
  ((ethAt 0 at_ keyed).modSess 2 fun x => { x with state := .orphaned, gen := 4, key := 1, orphanAt := 0 })
theorem wit_resumes : ((resuming 0x402 999999999).sess 2).state = .orphaned ∧ ((resuming 0x402 999999999).sess 2).gen.toNat = 0x402 / 256
    ∧ ((resuming 0x402 999999999).openKey 0 1).isSome = true ∧ (resuming 0x402 999999999).mt.ns < ((resuming 0x402 999999999).sess 2).orphanAt + 1000000000
    ∧ ¬ (resuming 0x402 1000000000).mt.ns < ((resuming 0x402 1000000000).sess 2).orphanAt + 1000000000
    ∧ ((resuming 0x502 0).sess 2).gen.toNat ≠ 0x502 / 256 ∧ ((resuming 0x402 0).qp 0).opens.length = 1
    ∧ ((List.range 16).foldl (fun s i => s.modSess i fun x => { x with state := .open_ }) keyed).freeSlots 0 = []
    ∧ fine (cmd 0x06 0x101 []) 6 { attesting with ident := { attesting.ident with queue := List.replicate 16 { session := 0x101, cmdId := 1, bay := none, nonce := [], start := 0 } } } = true := by
  decide +kernel
theorem test_resume : runs (.sessionVerifyDone 0) (resuming 0x402 999999999) (fun t => (t.sess 2).state == .open_ && (t.qp 0).opens.isEmpty) = true
    ∧ runs (.sessionVerifyDone 0) (resuming 0x402 1000000000) (fun t => (t.sess 2).state == .orphaned) = true := by decide +kernel
/-- Work behind a run is delayed, behind one with an earlier deadline refused; a load that waits for one point of both halves. -/
def behind (d : Nat) : State := served fun y => { y with run := some { work0 with maxSteps := 5 }, st := { y.st with live := [step1], next := 2 }, queue := [{ work0 with deadline := d }] }
theorem wit_capacity : (match (behind 0).capacity 0 work0 with | .delayed _ _ => true | _ => false) = true
    ∧ (match (behind 0).capacity 0 { work0 with deadline := 1 } with | .refused _ => true | _ => false) = true
    ∧ ((served fun y => { y with load := some { session := 0x101, cmdId := 1, addr := 0, length := 64, seed := none, start := 0, held := true } }).bay 0).load.any (fun l => l.held) = true := by
  decide +kernel
/-- The auxiliary input has been lost. All PLLs are stable, all but that of stack 0, or none of them is; both halves stand at OP4 and at OP0. -/
def plls (l : List Nat) (s : State) : State := (List.range 17).foldl (fun t p => t.modPll p fun q => if l.contains p then { q with failed := true, state := .acquiring } else { q with state := .stable }) s
def atPoint (p : Nat) (s : State) : State := [0, 1].foldl (fun t h => t.modHalf h fun k => { k with op := p }) s
theorem wit_more_stages : ({ State.reset with pwrx := { State.reset.pwrx with auxLost := true } } : State).pwrx.auxLost = true ∧ State.reset.pwrx.auxLost = false
    ∧ (List.range 17).all (fun p => ((plls [] (stage 5 0 id)).pll p).state == .stable) = true
    ∧ ((plls [6] (stage 5 0 id)).pll 6).failed = true ∧ ((plls [6] (stage 5 0 id)).pll 6).state ≠ .stable ∧ (plls [6] (stage 5 0 id)).inStage 5 = true
    ∧ (atPoint 4 (stage 7 17500000000 id)).bothAt 4 = true ∧ (atPoint 4 (stage 7 17500000000 id)).su.stageAt + 17500000000 ≤ 17500000000
    ∧ (stage 7 0 id).bothAt 4 = false ∧ (atPoint 4 (stage 7 17500000000 id)).inStage 7 = true
    ∧ (stage 8 4000000000 fun u => { u with maxOp := 0 }).bothAt 0 = true ∧ (stage 8 4000000000 id).su.stageAt + 4000000000 ≤ 4000000000
    ∧ (stage 9 0 fun u => { u with standbyAgain := [7] }).su.standbyAgain = [7]
    ∧ (serving fun k => { k with neapSrc := false }).su.state = 2 := by decide +kernel
theorem test_s5_s7 : runs (.stageS5 []) (plls [] (stage 5 0 id)) (fun t => t.su.stage == 6 && t.net.valid0) = true
    ∧ runs (.stageS5 [6]) (plls [] (stage 5 0 id)) (fun t => t.su.stage == 5) = true
    ∧ runs (.stageS5 [16]) (plls [16] (stage 5 0 id)) (fun t => t.su.state == 3 && t.su.faultCode == 0x1030) = true
    ∧ runs (.stageS7 [] []) (stage 7 17500000000 id) (fun t => t.su.stage == 7) = true := by decide +kernel
/-- The hold-up runs; the switch is about to open; the second of the hold-up ends. -/
def heldUp (a : Nat) : State := { (clockedAt 999999999 0 mated) with pwrx := { mated.pwrx with holdup := some a } }
theorem wit_more_pins : (heldUp 0).auxOk = false ∧ (heldUp 0).pins.aux = true ∧ mated.auxOk = true ∧ mated.pins.mateAt = none
    ∧ 0 + 1000000000 ≤ (heldUp 0).clk.now + 1 ∧ ¬ 1 + 1000000000 ≤ (heldUp 1).clk.now + 1 ∧ (heldUp 0).jetty.regWait = []
    ∧ ({ mated with pwr := { mated.pwr with parks := [.overtemp] } } : State).parked = true := by decide +kernel
/-- The bay's reset ends and its recovery may begin: the reload answers, no digest is bad, the paths it needs are open. -/
theorem wit_recovery : ((hung (fun h => { h with recovering := true }) 0).reload 0).isSome = true
    ∧ (hung (fun h => { h with recovering := true, reloaded := true }) 0).seamReady 0 = true
    ∧ (eddying (fun h => { h with eddyLast := [⟨0, 0, 0, 0⟩] }) 200000).armedSets = 1
    ∧ ((eddying id 200000).bay 0).hang.eddyAt + 200000 * 1 ≤ (eddying id 200000).clk.elapsed := by decide +kernel

theorem wit_StepRunsTheFrontCommand : State.reset.pending = [] ∧ State.reset.pins.aux = false ∧ State.reset.clk.neapSrc = true ∧ (serving fun k => { k with neapSrc := false }).pins.aux = true := by
  decide
theorem test_step : (match step { go with pending := [.add c0 ⟨3, 1, 2, 0⟩] } with | .next t => t.pending == [] | _ => false) = true := by decide +kernel
/-- A state with bytes in HBM and in a device, whose next step stores. -/
def storing : State := { waitsAt flagPkt with
  hbm := memSetBytes {} 4 [8, 0, 9], img := { State.reset.img with dev := memSetBytes {} 16 [3] }, pending := [.arbiterDecision 0 4 ⟨false, false, false⟩] }
theorem wit_StepsKeepMemoriesCanonical : storing.memWf = true ∧ (match step storing with | .next t => t.memWf | _ => false) = true := by decide +kernel
theorem wit_CommandsLeaveOtherPartsAlone : mayWriteHbm (.add c0 ⟨3, 1, 2, 0⟩) = false ∧ mayWriteDevices (.add c0 ⟨3, 1, 2, 0⟩) = false
    ∧ instrCore (.add c0 ⟨3, 1, 2, 0⟩) = some c0 := by decide

end Sys2Proof.Tests
end

section
/-!
SUPPORT. What an instruction of a pebble core leaves alone (chapter 05): it answers a next state, the parts outside `corePieces` stay as they
were, and no clock's time passes. An exception reaches the clocks through the seam alone, which closes with a stopped bay's program (R391).
-/

namespace Sys2Proof.Machine

/-- A reading of the state that looks at one part only. -/
structure Reading (α : Type) where
  part : Piece
  read : State → α
  read_eq : ∀ s t, part.agree s t → read t = read s

/-- The reading gives in `t` what it gives in `s`. -/
def Keeps {α : Type} (x : Reading α) (s t : State) : Prop := x.read t = x.read s

section Keeps
variable {α : Type} {x : Reading α} {ps : List Piece} {s t u : State}

theorem Keeps.refl (x : Reading α) (s : State) : Keeps x s s := rfl

theorem Keeps.trans (h : Keeps x s t) (k : Keeps x t u) : Keeps x s u := Eq.trans k h

theorem Keeps.ite {c : Prop} [Decidable c] (ht : Keeps x s t) (hu : Keeps x s u) : Keeps x s (if c then t else u) := by split <;> assumption

theorem Keeps.of_only (h : ChangesOnly ps s t) (hp : ps.contains x.part = false) : Keeps x s t := x.read_eq s t (h x.part hp)

/-- One more operation, which does not touch the part read. -/
theorem Keeps.step (h : Keeps x s t) (k : ChangesOnly ps t u) (hp : ps.contains x.part = false) : Keeps x s u := h.trans (.of_only k hp)

end Keeps

/-- The two times that the clocks keep. -/
def times : Reading (Nat × Nat) where
  part := .clk
  read s := (s.clk.now, s.clk.elapsed)
  read_eq s t h := by
    have hclk : t.clk = s.clk := h
    rw [hclk]

/-- The contents of the non-volatile devices. -/
def devices : Reading Memory where
  part := .img
  read s := s.img.dev
  read_eq s t h := by
    have himg : t.img = s.img := h
    rw [himg]

/-- The parts that an instruction of a pebble core may change, with all that its exception sets off. -/
def corePieces : List Piece := [.clk, .coves, .ctrls, .streams, .bays, .sessions, .portq, .jetty, .integ, .rot, .net, .su, .mg]

/-- What MRD may change besides: the free values, the RC counters and the latch of what it reads. -/
def readPieces : List Piece := corePieces ++ [.free, .ports, .pwr, .ident, .latches, .cut]

/-- State `t` differs from `s` at most in the parts listed, and not in its times. -/
structure CoreFrame (ps : List Piece) (s t : State) : Prop where
  only : ChangesOnly ps s t
  times : Keeps times s t

section Compose
variable {ps qs : List Piece} {s t u : State}

theorem CoreFrame.refl (ps : List Piece) (s : State) : CoreFrame ps s s := ⟨.refl _ _, .refl _ _⟩

theorem CoreFrame.trans (h : CoreFrame ps s t) (k : CoreFrame ps t u) : CoreFrame ps s u := ⟨h.only.trans k.only, h.times.trans k.times⟩

theorem CoreFrame.mono (h : CoreFrame qs s t) (hq : (qs.all fun p => ps.contains p) = true) : CoreFrame ps s t := ⟨h.only.mono hq, h.times⟩

theorem CoreFrame.ite {c : Prop} [Decidable c] (ht : CoreFrame ps s t) (hu : CoreFrame ps s u) : CoreFrame ps s (if c then t else u) := by
  split <;> assumption

/-- An operation that does not touch the clocks. -/
theorem CoreFrame.of_only (h : ChangesOnly qs s t) (hq : (qs.all fun p => ps.contains p && p != .clk) = true) : CoreFrame ps s t := by
  have hall := List.all_eq_true.mp hq
  refine ⟨h.mono (List.all_eq_true.mpr fun p hp => ?_), .of_only h (Bool.eq_false_iff.mpr fun hc => ?_)⟩
  · exact (Bool.and_eq_true_iff.mp (hall p hp)).1
  · have hclk := hall .clk (List.contains_iff_mem.mp hc)
    simp at hclk

end Compose

/-- A command answers a next state, which keeps the frame. -/
def AnswersFrame (ps : List Piece) (s : State) (o : Out) : Prop := ∃ t, o = .next t ∧ CoreFrame ps s t

theorem AnswersFrame.next {ps : List Piece} {s t : State} (h : CoreFrame ps s t) : AnswersFrame ps s (.next t) := ⟨t, rfl, h⟩

theorem AnswersFrame.ite {ps : List Piece} {s : State} {a b : Out} {c : Prop} [Decidable c] (ha : AnswersFrame ps s a)
    (hb : AnswersFrame ps s b) : AnswersFrame ps s (if c then a else b) := by split <;> assumption

theorem AnswersFrame.occurs {ps : List Piece} {s t : State} {p : Bool} (h : CoreFrame ps s t) : AnswersFrame ps s (occurs s p t) :=
  .next (.ite h (.refl ps s))

/-! Times: an exception stops the bay, whose program is removed; with it the seam may close. -/

theorem State.closeSeam_keepsTimes (s : State) : Keeps times s s.closeSeam :=
  List.foldlRecOn (motive := Keeps times s) (List.range 20) _ (.refl times s) fun _ h _ _ => h

theorem State.seamFollows_keepsTimes (s : State) : Keeps times s s.seamFollows := by
  unfold State.seamFollows
  split
  · exact .refl _ s
  · exact s.closeSeam_keepsTimes

theorem State.removeProgram_keepsTimes (s : State) (b : Nat) : Keeps times s (s.removeProgram b) :=
  (((Keeps.refl times s).step (s.loadStandby_only b) rfl).step (State.modBay_only _ _ _) rfl).trans (State.seamFollows_keepsTimes _)

theorem State.takeProgram_keepsTimes (s : State) (b : Nat) : Keeps times s (s.takeProgram b) := by
  unfold State.takeProgram
  extract_lets us s1
  split
  · exact .refl _ s
  · have h1 : Keeps times s s1 := (s.removeProgram_keepsTimes b).step (State.modBay_only _ _ _) rfl
    exact h1.step (ChangesOnly.foldl (fun t _ => t.complete_only _ _) us (.refl _ s1)) rfl

theorem State.stopBay_keepsTimes (s : State) (b : Nat) (code : Code) : Keeps times s (s.stopBay b code) := by
  unfold State.stopBay
  extract_lets y att s1 s2
  have h1 : Keeps times s s1 :=
    ((((Keeps.refl times s).step (s.countDiscarded_only b 0) rfl).step (State.discardAll_only _ _) rfl).step (State.closeRun_only _ _) rfl).step
      (State.logBay_only _ _ _) rfl
  have h2 : Keeps times s s2 := h1.step (State.modBay_only _ _ _) rfl
  exact (((h2.step (State.endRunning_only _ _ _ _) rfl).step (State.dropQueue_only _ _ _ _) rfl).step (State.event_only _ _ _ _) rfl).trans
    (State.takeProgram_keepsTimes _ _)

theorem State.exceptionAt_keepsTimes (s : State) (r : CoreRef) (code : Code) (pc : Nat) : Keeps times s (s.exceptionAt r code pc) := by
  unfold State.exceptionAt
  extract_lets hw s1
  have h1 : Keeps times s s1 := (Keeps.refl times s).step (State.modCore_only _ _ _) rfl
  split
  · exact (h1.step (State.hwError_only _ _ _) rfl).step (State.rankStep_only _ _ _) rfl
  · split
    · exact (h1.trans (State.stopBay_keepsTimes _ _ _)).step (State.modBay_only _ _ _) rfl
    · exact h1

/-! The operations that instructions are made of. -/

theorem State.exception_frame (s : State) (r : CoreRef) (code : Code) : CoreFrame corePieces s (s.exception r code) :=
  ⟨s.exception_only r code, s.exceptionAt_keepsTimes r code _⟩

theorem State.modCove_frame (s : State) (c : Nat) (f : Cove → Cove) : CoreFrame corePieces s (s.modCove c f) := .of_only (s.modCove_only c f) rfl

theorem State.modCore_frame (s : State) (r : CoreRef) (f : PCore → PCore) : CoreFrame corePieces s (s.modCore r f) := s.modCove_frame _ _

theorem State.modChan_frame (s : State) (c : Nat) (f : Channels → Channels) : CoreFrame corePieces s (s.modChan c f) := s.modCove_frame _ _

theorem State.stall_frame (s : State) (r : CoreRef) (w : CoreWait) : CoreFrame corePieces s (s.stall r w) := s.modCore_frame _ _

theorem State.retire_frame (s : State) (r : CoreRef) (pc : Nat) (f : PCore → PCore) : CoreFrame corePieces s (s.retire r pc f) := by
  have h := s.modCore_frame r fun k => (f k).finish (s.cycles r.cove) pc
  exact .ite (h.trans (State.exception_frame _ _ _)) h

theorem State.retireNext_frame (s : State) (r : CoreRef) (f : PCore → PCore) : CoreFrame corePieces s (s.retireNext r f) := s.retire_frame _ _ _

theorem transfer_frame (s : State) (r : CoreRef) (a : Word) (f : PCore → PCore) : CoreFrame corePieces s (transfer s r a f) :=
  .ite (s.retire_frame _ _ _) (s.exception_frame _ _)

theorem State.countDnorm_frame (s : State) (c n : Nat) : CoreFrame corePieces s (s.countDnorm c n) := .of_only (s.countDnorm_only c n) rfl

section Issue
variable {ps : List Piece} (hp : (corePieces.all fun p => ps.contains p) = true) (s : State) (r : CoreRef) (illegal : Bool) (u : Uses)
  (act : State → State)
include hp

theorem issueIn_frame (hact : ∀ t, CoreFrame ps t (act t)) : AnswersFrame ps s (issueIn s r illegal u act) := by
  have hexc (code : Code) : AnswersFrame ps s (.next (s.exception r code)) := .next ((s.exception_frame r code).mono hp)
  have hheld : AnswersFrame ps s (.next (s.holdD r)) := .next ((s.modCore_frame r _).mono hp)
  exact .ite (hexc _) (.ite hheld (.ite (hexc _) (.ite (hexc _) (.next (hact s)))))

/-- Issuing an instruction keeps the frame that its effect keeps; a late exception takes only its record from the cycle's start. -/
theorem issue_frame (again : CoreWait → Bool) (hact : ∀ t, CoreFrame ps t (act t)) : AnswersFrame ps s (issue s r again illegal u act) := by
  have hlate (t : State) : CoreFrame ps s (s.lateException r t) :=
    (CoreFrame.of_only (ps := corePieces) (s.lateException_only r t) rfl).mono hp
  unfold issue
  refine .ite (issueIn_frame hp s r illegal u act hact) (.ite ?_ (.next (.refl ps s)))
  split
  · exact .next (hlate _)
  · exact .next (.refl ps s)

end Issue

/-- `issue_frame` for the instructions that keep to `corePieces`. -/
theorem issue_coreFrame {s : State} {r : CoreRef} {again : CoreWait → Bool} {illegal : Bool} {u : Uses} {act : State → State}
    (hact : ∀ t, CoreFrame corePieces t (act t)) : AnswersFrame corePieces s (issue s r again illegal u act) :=
  issue_frame rfl s r illegal u act again hact

end Sys2Proof.Machine
end

section
/-!
SUPPORT. Every instruction of a pebble core answers a next state and keeps its frame: one lemma for each shape of instruction, then one for
all of them.
-/

namespace Sys2Proof.Machine

section
variable (s : State) (r : CoreRef)

theorem aluR_frame (w : RFields) (f : Word → Word → Word) : AnswersFrame corePieces s (aluR s r w f) :=
  issue_coreFrame fun t => t.retireNext_frame r _

theorem aluI_frame (w : IFields) (illegal : Bool) (f : Word → Word) : AnswersFrame corePieces s (aluI s r w illegal f) :=
  issue_coreFrame fun t => t.retireNext_frame r _

theorem shiftI_frame (w : ShFields) (f : Word → Nat → Word) : AnswersFrame corePieces s (shiftI s r w f) :=
  issue_coreFrame fun t => t.retireNext_frame r _

theorem branch_frame (w : BFields) (p : Word → Word → Bool) : AnswersFrame corePieces s (branch s r w p) :=
  issue_coreFrame fun t => .ite (transfer_frame t r _ _) (t.retireNext_frame r _)

theorem localLoad_frame (w : IFields) (n : Nat) (illegal : Bool) (u : Uses) (f : PCore → List Byte → PCore) :
    AnswersFrame corePieces s (localLoad s r w n illegal u f) := issue_coreFrame fun t => by
  dsimp only
  split
  · exact t.exception_frame r _
  · exact .ite (t.exception_frame r _) (t.retireNext_frame r _)

theorem localStore_frame (w : IFields) (n : Nat) (illegal : Bool) (u : Uses) (f : PCore → List Byte) :
    AnswersFrame corePieces s (localStore s r w n illegal u f) := issue_coreFrame fun t => by
  dsimp only
  split
  · exact t.exception_frame r _
  · exact t.retireNext_frame r _

theorem vecOp_frame (illegal : Bool) (u : Uses) (f : PCore → PCore × Nat) : AnswersFrame corePieces s (vecOp s r illegal u f) :=
  issue_coreFrame fun t => (t.countDnorm_frame _ _).trans (State.retireNext_frame _ r _)

theorem fltOp_frame (w : VFields) (illegal : Bool) (u : Uses) (f : Bool → PCore → PCore × Nat) :
    AnswersFrame corePieces s (fltOp s r w illegal u f) :=
  issue_coreFrame fun t => .ite (t.exception_frame r _) ((t.countDnorm_frame _ _).trans (State.retireNext_frame _ r _))

theorem loadG_frame (w : IFields) (n : Nat) (ext : Nat → Word) : AnswersFrame corePieces s (loadG s r w n ext) := localLoad_frame s r w n _ _ _

theorem storeG_frame (w : IFields) (n : Nat) : AnswersFrame corePieces s (storeG s r w n) := localStore_frame s r w n _ _ _

theorem vint_frame (w : VFields) (f : Word → Word → Word) : AnswersFrame corePieces s (vint s r w f) := vecOp_frame s r _ _ _

theorem vred_frame (w : VFields) (f : List Word → Word × Nat) : AnswersFrame corePieces s (vred s r w f) := vecOp_frame s r _ _ _

theorem vwiden_frame (w : VFields) (hi : Nat) : AnswersFrame corePieces s (vwiden s r w hi) := vecOp_frame s r _ _ _

theorem vflt1_frame (w : VFields) (f : Word → Word × Nat) : AnswersFrame corePieces s (vflt1 s r w f) := fltOp_frame s r w _ _ _

theorem vflt2_frame (w : VFields) (f : Bool → Word → Word → Word × Nat) : AnswersFrame corePieces s (vflt2 s r w f) := fltOp_frame s r w _ _ _

theorem vfltH_frame (w : VFields) (f : Bool → BitVec 16 → BitVec 16 → BitVec 16 × Nat) : AnswersFrame corePieces s (vfltH s r w f) :=
  fltOp_frame s r w _ _ _

theorem spAccess_frame (w : HFields) (size : Nat) (write vec : Bool) : CoreFrame corePieces s (spAccess s r w size write vec) := by
  unfold spAccess
  refine .ite (s.stall_frame r _) (.ite (s.exception_frame r _) ?_)
  split
  · exact (s.modCove_frame _ _).trans (State.retireNext_frame _ r _)
  · exact (s.modCove_frame _ _).trans (State.exception_frame _ r _)

theorem sendLatch_frame (p : Fin 3) (x : Row) : CoreFrame corePieces s (sendLatch s r p x) :=
  .ite (s.stall_frame r _) ((s.modCove_frame _ _).trans (State.retireNext_frame _ r _))

theorem recvLatch_frame (p : Fin 3) (rd : BitVec 5) (f : PCore → Row → PCore) (bad : PCore → PCore) :
    CoreFrame corePieces s (recvLatch s r p rd f bad) := by
  unfold recvLatch
  dsimp only
  split
  · exact s.stall_frame r _
  · exact .ite (s.stall_frame r _) ((s.modCove_frame _ _).trans (State.retireNext_frame _ r _))

theorem State.takeDmaFault_frame (code : Code) : CoreFrame corePieces s (s.takeDmaFault r code) :=
  (s.modCove_frame _ _).trans (State.exception_frame _ r code)

theorem State.chanException_frame (code : Code) (q : Nat) : CoreFrame corePieces s (s.chanException r code q) :=
  (s.modChan_frame _ _).trans (State.exception_frame _ r code)

theorem State.sendChan_frame (c kind : Nat) (p : ChanPkt) : CoreFrame corePieces s (s.sendChan c kind p) :=
  .of_only (s.sendChan_only c kind p) rfl

theorem State.sendData_frame (c i : Nat) : CoreFrame corePieces s (s.sendData c i) := s.sendChan_frame _ _ _

theorem State.endChan_frame (c i : Nat) (x : Word) : CoreFrame corePieces s (s.endChan c i x) := by
  have hend (j : Nat) (rd : BitVec 5) : CoreFrame corePieces s (if j = i then
      if h : c < 800 ∧ ((s.chan c).entry i).core < 16 then
        s.retireNext ⟨⟨c, h.1⟩, ⟨((s.chan c).entry i).core, h.2⟩⟩ fun k => k.wg rd x else s else s) := by
    refine .ite ?_ (.refl _ s)
    split
    · exact s.retireNext_frame _ _
    · exact .refl _ s
  unfold State.endChan
  refine .ite (.refl _ s) ?_
  split
  · exact hend _ _
  · exact hend _ _
  · exact .refl _ s

/-! The instructions with an effect of their own shape. -/

theorem execStepend_frame (w : RFields) : AnswersFrame corePieces s (execStepend r w s) := issue_coreFrame fun t => t.modCore_frame r _

theorem execTrap_frame (w : RFields) : AnswersFrame corePieces s (execTrap r w s) :=
  issue_coreFrame fun t => .ite ((t.retireNext_frame r _).trans (State.modCore_frame _ r _)) (t.retireNext_frame r _)

theorem execFence_frame (w : RFields) : AnswersFrame corePieces s (execFence r w s) :=
  issue_coreFrame fun t => .ite (t.retireNext_frame r _) (t.stall_frame r _)

theorem execVf2bf_frame (w : VFields) : AnswersFrame corePieces s (execVf2bf r w s) :=
  issue_coreFrame fun t => .ite (t.exception_frame r _) ((t.modCove_frame _ _).trans (State.retireNext_frame _ r _))

theorem execVpack_frame (w : VFields) : AnswersFrame corePieces s (execVpack r w s) := issue_coreFrame fun t => by
  dsimp only
  split
  · exact t.exception_frame r _
  · exact (t.modCove_frame _ _).trans (State.retireNext_frame _ r _)

theorem execVunpack_frame (w : VFields) : AnswersFrame corePieces s (execVunpack r w s) := issue_coreFrame fun t => by
  dsimp only
  split
  · exact t.exception_frame r _
  · exact (t.modCove_frame _ _).trans (State.retireNext_frame _ r _)

theorem execBissue_frame (w : RxFields) : AnswersFrame corePieces s (execBissue r w s) :=
  issue_coreFrame fun t => .ite (t.stall_frame r _) (t.stall_frame r _)

theorem execBwait_frame (w : RxFields) : AnswersFrame corePieces s (execBwait r w s) :=
  issue_coreFrame fun t => .ite (t.retireNext_frame r _) (t.stall_frame r _)

theorem execDq_frame (w : RxFields) : AnswersFrame corePieces s (execDq r w s) := issue_coreFrame fun t => by
  dsimp only
  split
  · exact t.takeDmaFault_frame r _
  · refine .ite (t.stall_frame r _) (.ite (t.stall_frame r _) ?_)
    split
    · exact (t.modCove_frame _ _).trans (State.retireNext_frame _ r _)
    · exact ((t.modCove_frame _ _).trans (State.modCove_frame _ _ _)).trans (State.exception_frame _ r _)

theorem execDwait_frame (w : RxFields) : AnswersFrame corePieces s (execDwait r w s) := issue_coreFrame fun t => by
  dsimp only
  split
  · exact t.takeDmaFault_frame r _
  · exact .ite (t.retireNext_frame r _) (t.stall_frame r _)

theorem execCconn_frame (w : CFields) : AnswersFrame corePieces s (execCconn r w s) := issue_coreFrame fun t => by
  refine .ite (t.retireNext_frame r _) ?_
  split
  · exact t.retireNext_frame r _
  · exact ((t.modChan_frame _ _).trans (State.sendChan_frame _ _ _ _)).trans (State.stall_frame _ r _)

theorem execCacc_frame (w : CFields) : AnswersFrame corePieces s (execCacc r w s) := issue_coreFrame fun t => by
  dsimp only
  split
  · exact t.stall_frame r _
  · split
    · exact ((t.modChan_frame _ _).trans (State.sendChan_frame _ _ _ _)).trans (State.retireNext_frame _ r _)
    · exact (((t.modChan_frame _ _).trans (State.modChan_frame _ _ _)).trans (State.sendChan_frame _ _ _ _)).trans
        (State.retireNext_frame _ r _)

theorem execCsend_frame (w : CFields) : AnswersFrame corePieces s (execCsend r w s) := issue_coreFrame fun t => by
  refine .ite (t.exception_frame r _) (.ite (t.chanException_frame r _ _) (.ite (t.retireNext_frame r _) (.ite ?_ ?_)))
  · exact (t.modChan_frame _ _).trans (State.retireNext_frame _ r _)
  · exact ((t.modChan_frame _ _).trans (State.sendData_frame _ _ _)).trans (State.stall_frame _ r _)

theorem execCrecv_frame (w : CFields) : AnswersFrame corePieces s (execCrecv r w s) := issue_coreFrame fun t => by
  dsimp only
  split
  · exact t.stall_frame r _
  · next m rest _ =>
    have h1 : CoreFrame corePieces t (((t.modChan r.cove fun h => h.modQueue r.core w.q.toNat fun x => { x with msgs := rest }).entryFreed
        r.cove r.core w.q.toNat).drainEntry r.cove (handleEntryOf m.handle)) :=
      ((t.modChan_frame _ _).trans (.of_only (State.entryFreed_only _ _ _ _) rfl)).trans (.of_only (State.drainEntry_only _ _ _) rfl)
    exact .ite (h1.trans (State.chanException_frame _ r _ _)) (h1.trans (State.retireNext_frame _ r _))

theorem execCsel_frame (w : CFields) : AnswersFrame corePieces s (execCsel r w s) := issue_coreFrame fun t => by
  refine .ite (t.retireNext_frame r _) ?_
  split
  · exact t.retireNext_frame r _
  · exact t.stall_frame r _

theorem execCpoll_frame (w : CFields) : AnswersFrame corePieces s (execCpoll r w s) := issue_coreFrame fun t => by
  split
  · exact t.retireNext_frame r _
  · exact t.retireNext_frame r _

theorem execCclose_frame (w : CFields) : AnswersFrame corePieces s (execCclose r w s) := issue_coreFrame fun t =>
  .ite (t.chanException_frame r _ _) (.ite (t.retireNext_frame r _) ((t.modChan_frame _ _).trans (State.retireNext_frame _ r _)))

theorem execCsetto_frame (w : CFields) : AnswersFrame corePieces s (execCsetto r w s) := issue_coreFrame fun t =>
  .ite (t.chanException_frame r _ _) (.ite (t.retireNext_frame r _) ((t.modChan_frame _ _).trans (State.retireNext_frame _ r _)))

theorem execCsendTimeout_frame : AnswersFrame corePieces s (execCsendTimeout r s) := by
  unfold execCsendTimeout
  split
  · exact .next (.refl _ s)
  · exact .occurs ((CoreFrame.ite ((s.modChan_frame _ _).trans (State.sendChan_frame _ _ _ _)) (s.modChan_frame _ _)).trans
      (State.endChan_frame _ _ _ _))

theorem execFullRetry_frame : AnswersFrame corePieces s (execFullRetry r s) := by
  unfold execFullRetry
  split
  · exact .next (.refl _ s)
  · exact .occurs ((s.modChan_frame _ _).trans (State.sendData_frame _ _ _))

theorem execDataRetransmit_frame : AnswersFrame corePieces s (execDataRetransmit r s) := by
  unfold execDataRetransmit
  split
  · exact .next (.refl _ s)
  · exact .occurs (.ite (s.chanException_frame r _ _) ((s.modChan_frame _ _).trans (State.sendData_frame _ _ _)))

/-! The register window (R128). -/

theorem State.writeTol_frame (c n : Nat) (isAbs : Bool) (v : Word) : CoreFrame corePieces s (s.writeTol (.core r) c n isAbs v) :=
  .ite (s.modCove_frame _ _) (s.exception_frame r _)

theorem State.coreWrite_frame (a : Nat) (v : Word) : CoreFrame corePieces s (s.coreWrite r a v) := by
  unfold State.coreWrite
  split
  · exact .ite (s.exception_frame r _) (.ite ((s.writeTol_frame r _ _ _ _).trans (State.retireNext_frame _ r _)) (s.exception_frame r _))
  · refine .ite ?_ (.ite ?_ (s.exception_frame r _))
    · split
      · next h => exact (CoreFrame.of_only (State.streamPush_only _ _ _ _ h) rfl).trans (State.retireNext_frame _ r _)
      · exact s.stall_frame r _
      · next h => exact (CoreFrame.of_only (State.streamPush_only_refused _ _ _ _ _ h) rfl).trans (State.exception_frame _ r _)
    · split
      · exact s.retireNext_frame r _
      · exact (CoreFrame.of_only (State.modStream_only _ _ _) rfl).trans (State.retireNext_frame _ r _)
  · exact s.exception_frame r _

theorem execMwr_frame (w : IFields) : AnswersFrame corePieces s (execMwr r w s) := issue_coreFrame fun t =>
  .ite (t.exception_frame r _) (.ite (t.retireNext_frame r _) (.ite (t.exception_frame r _) (t.coreWrite_frame r _ _)))

theorem State.clkClear_keepsTimes (o : Nat) (left : Word) : Keeps times s (s.clkClear o left) := by
  unfold State.clkClear
  split
  · exact rfl
  · split <;> exact rfl

theorem State.modCove_keepsTimes (c : Nat) (f : Cove → Cove) : Keeps times s (s.modCove c f) := rfl

theorem State.clearAt_keepsTimes (k : Block) (o : Nat) (left : Word) : Keeps times s (s.clearAt k o left) := by
  cases k
  case clk => exact s.clkClear_keepsTimes o left
  case mg | su | rot | mt | igm | nv => exact .refl _ s
  case id => exact .of_only (s.idClear_only o left) rfl
  case jt => exact .of_only (s.jtClear_only o left) rfl
  case pwr => exact .of_only (s.pwrClear_only o left) rfl
  case eth p => exact .of_only (s.ethClear_only p o left) rfl
  case hb k => exact .of_only (s.hbClear_only k o left) rfl
  case step b => exact .of_only (s.stepClear_only b o left) rfl
  case hr b => exact .of_only (s.hrClear_only b o left) rfl
  case strm c => exact .of_only (s.strmClear_only c o left) rfl
  case brk | ig | pb | sp | ch | cn | tf => exact s.modCove_keepsTimes _ _

theorem State.readRc_keepsTimes (k : Block) (o : Nat) : Keeps times s (s.readRc k o).2 := by
  unfold State.readRc
  extract_lets v n
  have hclear : Keeps times s { s.clearAt k o (if v ≤ n then n - v else n) with cut := (s.atCut.clearAt k o 0).cutNow } := s.clearAt_keepsTimes k o _
  exact hclear.step (State.useAt_only _ k o) rfl

theorem State.readAt_keepsTimes (who : Requester) (a : Nat) : Keeps times s (s.readAt who a).2 := by
  unfold State.readAt
  split
  · exact .refl _ s
  · next k o _ =>
    split
    · exact .of_only (s.latch_only _ _ _) rfl
    · split
      · exact .refl _ s
      · split
        · exact s.readRc_keepsTimes k o
        · exact .of_only (s.useAt_only k o) rfl

theorem execMrd_frame (w : IFields) : AnswersFrame readPieces s (execMrd r w s) := issue_frame rfl s r _ _ _ _ fun t => by
  have hretire (u : State) (f : PCore → PCore) : CoreFrame readPieces u (u.retireNext r f) := (u.retireNext_frame r f).mono rfl
  refine .ite ((t.exception_frame r _).mono rfl) ?_
  split
  · exact hretire t _
  · next m _ =>
    have hread : CoreFrame readPieces t (t.readAt (.core r) m).2 := ⟨(t.readAt_only _ m).mono rfl, t.readAt_keepsTimes _ m⟩
    exact hread.trans (hretire _ _)

end

/-- Every instruction of a pebble core but MRD answers a next state and keeps to `corePieces`. -/
theorem exec_coreFrame {i : Instr} {r : CoreRef} (h : instrCore i = some r) (hmrd : ∀ w, i ≠ .mrd r w) (s : State) :
    AnswersFrame corePieces s (exec i s) := by
  cases i
  all_goals dsimp only [exec]
  case nopInstruction | sinfo | bcnt => exact issue_coreFrame fun t => t.retireNext_frame _ _
  case add | sub | and | or | xor | sll | srl | sra | slt | sltu | min | max | minu | maxu | mul | mulh | mulhu | div | divu | rem | remu =>
    exact aluR_frame s _ _ _
  case addi | andi | ori | xori | slti | sltiu | lui => exact aluI_frame s _ _ _ _
  case slli | srli | srai => exact shiftI_frame s _ _ _
  case beq | bne | blt | bge | bltu | bgeu => exact branch_frame s _ _ _
  case j | jal | jalr => exact issue_coreFrame fun t => transfer_frame t _ _ _
  case ldw | ldh | ldhu | ldb | ldbu => exact loadG_frame s _ _ _ _
  case stw | sth | stb => exact storeG_frame s _ _ _
  case vld => exact localLoad_frame s _ _ _ _ _ _
  case vst => exact localStore_frame s _ _ _ _ _ _
  case spld | spst | vspld | vspst => exact issue_coreFrame fun t => spAccess_frame t _ _ _ _ _
  case vaddI32 | vsubI32 | vand | vor | vxor | vminI32 | vmaxI32 | vmulI32 => exact vint_frame s _ _ _
  case vredsumF32 | vredmaxF32 | vredsumI32 | vredmaxI32 => exact vred_frame s _ _ _
  case vbf2fLo | vbf2fHi => exact vwiden_frame s _ _ _
  case vbcast | vext | vins | vcopy => exact vecOp_frame s _ _ _ _
  case vaddF32 | vsubF32 | vmulF32 | vmaxF32 | vminF32 => exact vflt2_frame s _ _ _
  case vexp2F32 | vrcpF32 | vrsqF32 => exact vflt1_frame s _ _ _
  case vaddBf16 | vmulBf16 => exact vfltH_frame s _ _ _
  case vfmaF32 | vf2i | vi2f => exact fltOp_frame s _ _ _ _ _
  case vf2bf => exact execVf2bf_frame s _ _
  case vpack => exact execVpack_frame s _ _
  case vunpack => exact execVunpack_frame s _ _
  case fence => exact execFence_frame s _ _
  case stepend => exact execStepend_frame s _ _
  case trap => exact execTrap_frame s _ _
  case bissue => exact execBissue_frame s _ _
  case bwait => exact execBwait_frame s _ _
  case dq => exact execDq_frame s _ _
  case dwait => exact execDwait_frame s _ _
  case tss | tsv | ttok => exact issue_coreFrame fun t => sendLatch_frame t _ _ _
  case trs | trv | trtok => exact issue_coreFrame fun t => recvLatch_frame t _ _ _ _ _
  case tbar => exact issue_coreFrame fun t => t.stall_frame _ _
  case cconn => exact execCconn_frame s _ _
  case cacc => exact execCacc_frame s _ _
  case csend => exact execCsend_frame s _ _
  case crecv => exact execCrecv_frame s _ _
  case csel => exact execCsel_frame s _ _
  case cpoll => exact execCpoll_frame s _ _
  case cclose => exact execCclose_frame s _ _
  case csetto => exact execCsetto_frame s _ _
  case csendTimeout => exact execCsendTimeout_frame s _
  case fullRetry => exact execFullRetry_frame s _
  case dataRetransmit => exact execDataRetransmit_frame s _
  case mwr => exact execMwr_frame s _ _
  case mrd at_ w => exact absurd (congrArg (Instr.mrd · w) (Option.some.inj h)) (hmrd w)
  all_goals cases h

/-- Every instruction of a pebble core answers a next state and keeps to `readPieces`. -/
theorem exec_readFrame {i : Instr} {r : CoreRef} (h : instrCore i = some r) (s : State) : AnswersFrame readPieces s (exec i s) := by
  by_cases hm : ∃ w, i = .mrd r w
  · obtain ⟨w, rfl⟩ := hm
    exact execMrd_frame s r w
  · obtain ⟨t, ht, hframe⟩ := exec_coreFrame h (fun w hw => hm ⟨w, hw⟩) s
    exact ⟨t, ht, hframe.mono rfl⟩

end Sys2Proof.Machine
end

section
/-!
SUPPORT. What every command may change, by its kind: the laws of the commands, one for each (Laws/Only…), brought to one list of parts.
-/

namespace Sys2Proof.Machine

/-- Every part but the commands waiting, HBM and the image. -/
def basePieces : List Piece := [.free, .clk, .mt, .coves, .ctrls, .streams, .bays, .sessions, .qps, .ports, .portq, .jetty, .integ, .rot, .net, .pwr,
  .pwrx, .su, .ident, .mg, .pins, .latches, .cut]

/-- Commands that may read the image anew: S2, power-on, the reset, and the losses that can end a requested one (R300). -/
def mayReadImage : Instr → Bool
  | .stageS2 _ | .auxPowerOn | .auxInputReturn | .linkDownAt _ | .pcsAlignmentLoss _ | .pllAcquireTimeout _ | .pllLockLoss _ | .refclkLoss
  | .modReset => true
  | _ => false

/-- The parts that a command may change, by its kind. -/
def cmdPieces (i : Instr) : List Piece :=
  if mayReadImage i then .hbm :: .img :: basePieces
  else if mayWriteHbm i then .hbm :: basePieces
  else if mayWriteDevices i then [.img, .su, .mg]
  else basePieces

/-- What a command that is no pebble core's instruction may change. -/
theorem exec_only {i : Instr} (h : instrCore i = none) (s : State) : Leaves (cmdPieces i) s (exec i s) := by
  cases i
  all_goals dsimp only [exec]
  case registerWrite => exact (execRegisterWrite_only _ _ _ s).mono rfl
  case stepBoundary => exact (execStepBoundary_only _ s).mono rfl
  case stepStart => exact (execStepStart_only _ s).mono rfl
  case commit => exact (execCommit_only _ _ s).mono rfl
  case commitAck => exact (execCommitAck_only _ _ _ _ s).mono rfl
  case rollback => exact (execRollback_only _ _ s).mono rfl
  case voteDeadline => exact (execVoteDeadline_only _ _ s).mono rfl
  case replayStart => exact (execReplayStart_only _ s).mono rfl
  case stepCommitLoRead => exact (execStepCommitLoRead_only _ _ s).mono rfl
  case breakerAccept => exact (execBreakerAccept_only _ s).mono rfl
  case breakerOpStart => exact (execBreakerOpStart_only _ _ _ s).mono rfl
  case breakerOpComplete => exact (execBreakerOpComplete_only _ _ _ s).mono rfl
  case governorTick => exact (execGovernorTick_only _ _ s).mono rfl
  case toleranceWrite => exact (execToleranceWrite_only _ _ _ _ _ s).mono rfl
  case brkFillEn => exact (execBrkFillEn_only _ _ _ s).mono rfl
  case brkInjCk => exact (execBrkInjCk_only _ _ s).mono rfl
  case scratchpadNarrowGrant => exact (execScratchpadNarrowGrant_only _ _ _ _ s).mono rfl
  case pbHalt => exact (execPbHalt_only _ _ _ s).mono rfl
  case pbStep1 => exact (execPbStep1_only _ _ s).mono rfl
  case pbBkptEn => exact (execPbBkptEn_only _ _ _ s).mono rfl
  case pbTrapEn => exact (execPbTrapEn_only _ _ _ s).mono rfl
  case rowRemap => exact (execRowRemap_only _ _ _ s).mono rfl
  case coveSave => exact (execCoveSave_only _ _ s).mono rfl
  case coveRestore => exact (execCoveRestore_only _ _ _ s).mono rfl
  case connect => exact (execConnect_only _ _ s).mono rfl
  case accept => exact (execAccept_only _ _ s).mono rfl
  case refuse => exact (execRefuse_only _ _ s).mono rfl
  case data => exact (execData_only _ _ s).mono rfl
  case delivered => exact (execDelivered_only _ _ s).mono rfl
  case full => exact (execFull_only _ _ s).mono rfl
  case resume => exact (execResume_only _ _ s).mono rfl
  case withdraw => exact (execWithdraw_only _ _ s).mono rfl
  case close => exact (execClose_only _ _ s).mono rfl
  case closed => exact (execClosed_only _ _ s).mono rfl
  case channelQuarantineEnd => exact (execChannelQuarantineEnd_only _ _ s).mono rfl
  case chHeadSel => exact (execChHeadSel_only _ _ _ s).mono rfl
  case pselToken => exact (execPselToken_only _ _ s).mono rfl
  case tideFabricFault => exact (execTideFabricFault_only _ _ _ _ s).mono rfl
  case freeze => exact (execFreeze_only _ s).mono rfl
  case barrierArrive => exact (execBarrierArrive_only _ _ _ s).mono rfl
  case barrierRelease => exact (execBarrierRelease_only _ _ s).mono rfl
  case vote => exact (execVote_only _ _ _ _ s).mono rfl
  case commitToken => exact (execCommitToken_only _ _ s).mono rfl
  case rollbackToken => exact (execRollbackToken_only _ _ s).mono rfl
  case groyneRelease => exact (execGroyneRelease_only _ _ s).mono rfl
  case seamAlignStart => exact (execSeamAlignStart_only _ s).mono rfl
  case seamOpen => exact (execSeamOpen_only _ s).mono rfl
  case seamAlignTimeout => exact (execSeamAlignTimeout_only _ s).mono rfl
  case seamSlip => exact (execSeamSlip_only _ s).mono rfl
  case tfInjPar => exact (execTfInjPar_only _ _ s).mono rfl
  case arbiterDecision => exact (execArbiterDecision_only _ _ _ s).mono rfl
  case epochArmCheck => exact (execEpochArmCheck_only _ s).mono rfl
  case epochSwap => exact (execEpochSwap_only s).mono rfl
  case epochOrderedResume => exact (execEpochOrderedResume_only s).mono rfl
  case linkDisable => exact (execLinkDisable_only _ _ s).mono rfl
  case cnE408Mask => exact (execCnE408Mask_only _ _ _ s).mono rfl
  case cnInjPar => exact (execCnInjPar_only _ _ s).mono rfl
  case dmaTransferStart => exact (execDmaTransferStart_only _ s).mono rfl
  case dmaWritePacket => exact (execDmaWritePacket_only _ s).mono rfl
  case dmaReadPacket => exact (execDmaReadPacket_only _ _ s).mono rfl
  case dmaDataPacket => exact (execDmaDataPacket_only _ s).mono rfl
  case dmaDonePacket => exact (execDmaDonePacket_only _ s).mono rfl
  case dmaRetryPacket => exact (execDmaRetryPacket_only _ s).mono rfl
  case dmaRetryResend => exact (execDmaRetryResend_only _ _ s).mono rfl
  case dmaRetire => exact (execDmaRetire_only _ s).mono rfl
  case dmaTagQuarantineEnd => exact (execDmaTagQuarantineEnd_only _ _ s).mono rfl
  case dmaTrackerFree => exact (execDmaTrackerFree_only _ _ s).mono rfl
  case dmaTimeout => exact (execDmaTimeout_only _ _ s).mono rfl
  case flagPacket => exact (execFlagPacket_only _ s).mono rfl
  case broadcastPacket => exact (execBroadcastPacket_only _ _ s).mono rfl
  case telemetryPacket => exact (execTelemetryPacket_only _ s).mono rfl
  case regPacket => exact (execRegPacket_only _ _ _ _ s).mono rfl
  case shadowSignaturePacket => exact (execShadowSignaturePacket_only _ _ _ _ _ s).mono rfl
  case strmD3Write => exact (execStrmD3Write_only _ _ s).mono rfl
  case streamWordDue => exact (execStreamWordDue_only _ _ _ _ _ s).mono rfl
  case shadowChunkCopy => exact (execShadowChunkCopy_only _ _ _ _ _ s).mono rfl
  case granuleMapWrite => exact (execGranuleMapWrite_only _ s).mono rfl
  case softPpr => exact (execSoftPpr_only _ _ _ _ s).mono rfl
  case refresh => exact (execRefresh_only _ _ _ s).mono rfl
  case patrolScrub => exact (execPatrolScrub_only _ _ s).mono rfl
  case hbScrubEn => exact (execHbScrubEn_only _ _ _ s).mono rfl
  case hbInjCe => exact (execHbInjCe_only _ _ s).mono rfl
  case hardRepairDone => exact (execHardRepairDone_only _ s).mono rfl
  case portTrainAttempt => exact (execPortTrainAttempt_only _ _ s).mono rfl
  case portRetryTimer => exact (execPortRetryTimer_only _ s).mono rfl
  case pcsAlignmentLoss => exact (execPcsAlignmentLoss_only _ s).mono rfl
  case fecDegradation => exact (execFecDegradation_only _ s).mono rfl
  case ethRetrain => exact (execEthRetrain_only _ _ s).mono rfl
  case ethDisable => exact (execEthDisable_only _ _ _ s).mono rfl
  case arpRequest => exact (execArpRequest_only _ _ _ _ s).mono rfl
  case neighborSolicitation => exact (execNeighborSolicitation_only _ _ _ _ s).mono rfl
  case icmpEchoRequest => exact (execIcmpEchoRequest_only _ _ _ _ _ _ s).mono rfl
  case frameDrop => exact (execFrameDrop_only _ _ s).mono rfl
  case ptpMessage => exact (execPtpMessage_only _ _ s).mono rfl
  case timeHoldover => exact (execTimeHoldover_only s).mono rfl
  case cmReq => exact (execCmReq_only _ _ s).mono rfl
  case cmRtu => exact (execCmRtu_only _ s).mono rfl
  case cmRej => exact (execCmRej_only _ s).mono rfl
  case cmDreq => exact (execCmDreq_only _ s).mono rfl
  case sendOnly => exact (execSendOnly_only _ _ s).mono rfl
  case sendOnlyWithImmediate => exact (execSendOnlyWithImmediate_only _ _ _ s).mono rfl
  case sendFirst => exact (execSendFirst_only _ s).mono rfl
  case sendMiddle => exact (execSendMiddle_only _ s).mono rfl
  case sendLast => exact (execSendLast_only _ s).mono rfl
  case rdmaWriteFirst => exact (execRdmaWriteFirst_only _ _ _ s).mono rfl
  case rdmaWriteMiddle => exact (execRdmaWriteMiddle_only _ _ s).mono rfl
  case rdmaWriteLast => exact (execRdmaWriteLast_only _ _ s).mono rfl
  case rdmaWriteOnly => exact (execRdmaWriteOnly_only _ _ _ s).mono rfl
  case rdmaWriteWithImmediate => exact (execRdmaWriteWithImmediate_only _ s).mono rfl
  case rdmaReadRequest => exact (execRdmaReadRequest_only _ _ s).mono rfl
  case atomicCompareAndSwap => exact (execAtomicCompareAndSwap_only _ s).mono rfl
  case atomicFetchAndAdd => exact (execAtomicFetchAndAdd_only _ s).mono rfl
  case unsupportedOpcode => exact (execUnsupportedOpcode_only _ _ s).mono rfl
  case readGatherTimeout => exact (execReadGatherTimeout_only _ _ s).mono rfl
  case cnpReceived => exact (execCnpReceived_only _ s).mono rfl
  case dcqcnAlphaTimer => exact (execDcqcnAlphaTimer_only _ s).mono rfl
  case dcqcnRateTimer => exact (execDcqcnRateTimer_only _ _ s).mono rfl
  case pfcPauseFrame => exact (execPfcPauseFrame_only _ _ _ s).mono rfl
  case heartbeat => exact (execHeartbeat_only _ _ s).mono rfl
  case linkDownAt => exact (execLinkDownAt_only _ s).mono rfl
  case mtNsLoRead => exact (execMtNsLoRead_only _ s).mono rfl
  case nop => exact (execNop_only _ s).mono rfl
  case challenge => exact (execChallenge_only _ s).mono rfl
  case sessionOpen => exact (execSessionOpen_only _ s).mono rfl
  case sessionVerifyDone => exact (execSessionVerifyDone_only _ s).mono rfl
  case sessionOrphanTimeout => exact (execSessionOrphanTimeout_only _ _ s).mono rfl
  case sessionClose => exact (execSessionClose_only _ s).mono rfl
  case regionGrant => exact (execRegionGrant_only _ s).mono rfl
  case regionRevoke => exact (execRegionRevoke_only _ s).mono rfl
  case attest => exact (execAttest_only _ s).mono rfl
  case attestTokenComplete => exact (execAttestTokenComplete_only s).mono rfl
  case programLoad => exact (execProgramLoad_only _ s).mono rfl
  case programLoadComplete => exact (execProgramLoadComplete_only _ s).mono rfl
  case programUnload => exact (execProgramUnload_only _ s).mono rfl
  case run => exact (execRun_only _ s).mono rfl
  case generate => exact (execGenerate_only _ s).mono rfl
  case cancel => exact (execCancel_only _ s).mono rfl
  case stepHint => exact (execStepHint_only _ s).mono rfl
  case queryBaySummary => exact (execQueryBaySummary_only _ s).mono rfl
  case queryRunQueue => exact (execQueryRunQueue_only _ s).mono rfl
  case querySessionEnergy => exact (execQuerySessionEnergy_only _ s).mono rfl
  case queryAdmissionTrial => exact (execQueryAdmissionTrial_only _ s).mono rfl
  case regRead => exact (execRegRead_only _ s).mono rfl
  case regWrite => exact (execRegWrite_only _ s).mono rfl
  case resend => exact (execResend_only _ s).mono rfl
  case capSetBay => exact (execCapSetBay_only _ s).mono rfl
  case capSetModule => exact (execCapSetModule_only _ s).mono rfl
  case bayReset => exact (execBayReset_only _ s).mono rfl
  case maintenanceOpen => exact (execMaintenanceOpen_only _ s).mono rfl
  case maintenanceClose => exact (execMaintenanceClose_only _ s).mono rfl
  case moduleReset => exact (execModuleReset_only _ s).mono rfl
  case scoreEventExpiry => exact (execScoreEventExpiry_only _ s).mono rfl
  case faultSignatureRecord => exact (execFaultSignatureRecord_only _ _ _ s).mono rfl
  case igBayCfgWrite => exact (execIgBayCfgWrite_only _ _ _ s).mono rfl
  case igClrPattern => exact (execIgClrPattern_only _ _ s).mono rfl
  case rotationTestSlot => exact (execRotationTestSlot_only _ s).mono rfl
  case rotationTestStart => exact (execRotationTestStart_only _ s).mono rfl
  case testPhaseComplete => exact (execTestPhaseComplete_only _ _ _ s).mono rfl
  case handoverMoveStart => exact (execHandoverMoveStart_only _ s).mono rfl
  case handoverMoveComplete => exact (execHandoverMoveComplete_only _ _ s).mono rfl
  case handoverTimeout => exact (execHandoverTimeout_only _ s).mono rfl
  case fenceCapacityReturn => exact (execFenceCapacityReturn_only _ s).mono rfl
  case recurExpiry => exact (execRecurExpiry_only _ s).mono rfl
  case shapeSwitch => exact (execShapeSwitch_only _ _ s).mono rfl
  case rotIntervalWrite => exact (execRotIntervalWrite_only _ _ s).mono rfl
  case rotPause => exact (execRotPause_only _ _ s).mono rfl
  case refclkLoss => exact (execRefclkLoss_only s).mono rfl
  case refclkReturn => exact (execRefclkReturn_only s).mono rfl
  case pllStable => exact (execPllStable_only _ s).mono rfl
  case pllAcquireTimeout => exact (execPllAcquireTimeout_only _ s).mono rfl
  case pllLockLoss => exact (execPllLockLoss_only _ s).mono rfl
  case hbmRetrainComplete => exact (execHbmRetrainComplete_only _ s).mono rfl
  case hbmRetrainTimeout => exact (execHbmRetrainTimeout_only _ s).mono rfl
  case slackEntry => exact (execSlackEntry_only _ s).mono rfl
  case ebbEntry => exact (execEbbEntry_only _ s).mono rfl
  case domainWake => exact (execDomainWake_only _ s).mono rfl
  case opChangeStart => exact (execOpChangeStart_only _ s).mono rfl
  case opChangeComplete => exact (execOpChangeComplete_only _ s).mono rfl
  case opChangeTimeout => exact (execOpChangeTimeout_only _ s).mono rfl
  case controlPeriod => exact (execControlPeriod_only _ s).mono rfl
  case emergencyGlide => exact (execEmergencyGlide_only _ _ s).mono rfl
  case emergencyGlideStop => exact (execEmergencyGlideStop_only _ s).mono rfl
  case junctionOvertemp => exact (execJunctionOvertemp_only _ _ s).mono rfl
  case droopTrip => exact (execDroopTrip_only _ s).mono rfl
  case auxInputLoss => exact (execAuxInputLoss_only s).mono rfl
  case auxInputReturn => exact (execAuxInputReturn_only s).mono rfl
  case mainInputLow => exact (execMainInputLow_only s).mono rfl
  case mainInputHigh => exact (execMainInputHigh_only s).mono rfl
  case mainInputReturn => exact (execMainInputReturn_only s).mono rfl
  case regulatorPhaseFail => exact (execRegulatorPhaseFail_only _ s).mono rfl
  case parkEnd => exact (execParkEnd_only s).mono rfl
  case hintVoltageRaise => exact (execHintVoltageRaise_only _ s).mono rfl
  case energyUpdate => exact (execEnergyUpdate_only _ s).mono rfl
  case pwrOpTargetWrite => exact (execPwrOpTargetWrite_only _ _ s).mono rfl
  case pwrHintMvWrite => exact (execPwrHintMvWrite_only _ _ s).mono rfl
  case energyLoRead => exact (execEnergyLoRead_only _ _ s).mono rfl
  case auxPowerOn => exact (execAuxPowerOn_only s).mono rfl
  case stageS0 => exact (execStageS0_only s).mono rfl
  case stageS1 => exact (execStageS1_only _ s).mono rfl
  case stageS2 => exact (execStageS2_only _ s).mono rfl
  case stageS3 => exact (execStageS3_only s).mono rfl
  case stageS4 => exact (execStageS4_only _ s).mono rfl
  case stageS5 => exact (execStageS5_only _ s).mono rfl
  case stageS6 => exact (execStageS6_only _ s).mono rfl
  case stageS7 => exact (execStageS7_only _ _ s).mono rfl
  case stageS8 => exact (execStageS8_only _ _ _ s).mono rfl
  case stageS9 => exact (execStageS9_only _ s).mono rfl
  case stageS10 => exact (execStageS10_only s).mono rfl
  case stageS11 => exact (execStageS11_only s).mono rfl
  case cargoReadComplete => exact (execCargoReadComplete_only s).mono rfl
  case stageLimitExpiry => exact (execStageLimitExpiry_only _ s).mono rfl
  case suImgVerLoRead => exact (execSuImgVerLoRead_only _ s).mono rfl
  case journalWrite => exact (execJournalWrite_only s).mono rfl
  case journalCompaction => exact (execJournalCompaction_only s).mono rfl
  case resetEntry => exact (execResetEntry_only _ s).mono rfl
  case recoveryQuiescence => exact (execRecoveryQuiescence_only _ s).mono rfl
  case recoveryComplete => exact (execRecoveryComplete_only _ _ _ s).mono rfl
  case recoveryWindowTimeout => exact (execRecoveryWindowTimeout_only _ s).mono rfl
  case eddyPass => exact (execEddyPass_only _ s).mono rfl
  case hrResetStepLoRead => exact (execHrResetStepLoRead_only _ _ s).mono rfl
  case idLoRead => exact (execIdLoRead_only _ _ s).mono rfl
  case mgLogSelWrite => exact (execMgLogSelWrite_only _ _ s).mono rfl
  case logFetchComplete => exact (execLogFetchComplete_only s).mono rfl
  case logDeviceCopy => exact (execLogDeviceCopy_only s).mono rfl
  case nvGoOwnerRecord => exact (execNvGoOwnerRecord_only _ s).mono rfl
  case nvGoSlotChunk => exact (execNvGoSlotChunk_only _ s).mono rfl
  case nvWriteComplete => exact (execNvWriteComplete_only s).mono rfl
  case mateNHigh => exact (execMateNHigh_only s).mono rfl
  case mateNLow => exact (execMateNLow_only s).mono rfl
  case jtagTapReset => exact (execJtagTapReset_only s).mono rfl
  case extest => exact (execExtest_only _ s).mono rfl
  case idcode => exact (execIdcode_only s).mono rfl
  case samplePreload => exact (execSamplePreload_only s).mono rfl
  case hlAccess => exact (execHlAccess_only _ s).mono rfl
  case hlAccessComplete => exact (execHlAccessComplete_only s).mono rfl
  case modReset => exact (execModReset_only s).mono rfl
  case bypass => exact (execBypass_only s).mono rfl
  case activeRouteCycle => exact (execActiveRouteCycle_only _ _ _ s).mono rfl
  case watchMinimumExpiry => exact (execWatchMinimumExpiry_only _ s).mono rfl
  case refclkAbsentAtS0 => exact (execRefclkAbsentAtS0_only s).mono rfl
  all_goals cases h

end Sys2Proof.Machine
end

section
/-!
SUPPORT. HBM and the non-volatile devices keep their canonical form over every command and every nanosecond (log entry 3).
-/

namespace Sys2Proof.Machine

/-- The commands that write HBM or the devices keep their form. -/
theorem exec_memKept_of_writes {i : Instr} (h : (mayWriteHbm i || mayWriteDevices i) = true) (s : State) : OutMemKept s (exec i s) := by
  cases i
  all_goals dsimp only [exec]
  case dmaWritePacket => exact execDmaWritePacket_mem _ s
  case streamWordDue => exact execStreamWordDue_mem _ _ _ _ _ s
  case shadowChunkCopy => exact execShadowChunkCopy_mem _ _ _ _ _ s
  case rdmaWriteFirst => exact execRdmaWriteFirst_mem _ _ _ s
  case rdmaWriteMiddle => exact execRdmaWriteMiddle_mem _ _ s
  case rdmaWriteLast => exact execRdmaWriteLast_mem _ _ s
  case rdmaWriteOnly => exact execRdmaWriteOnly_mem _ _ _ s
  case linkDownAt => exact execLinkDownAt_mem _ s
  case programLoadComplete => exact execProgramLoadComplete_mem _ s
  case auxInputLoss => exact execAuxInputLoss_mem s
  case auxInputReturn => exact execAuxInputReturn_mem s
  case mainInputLow => exact execMainInputLow_mem s
  case mainInputHigh => exact execMainInputHigh_mem s
  case coveSave => exact execCoveSave_mem _ _ s
  case auxPowerOn => exact execAuxPowerOn_mem s
  case stageS1 => exact execStageS1_mem _ s
  case stageS2 => exact execStageS2_mem _ s
  case stageS4 => exact execStageS4_mem _ s
  case stageS5 => exact execStageS5_mem _ s
  case stageS6 => exact execStageS6_mem _ s
  case stageS11 => exact execStageS11_mem s
  case cargoReadComplete => exact execCargoReadComplete_mem s
  case stageLimitExpiry => exact execStageLimitExpiry_mem _ s
  case mateNHigh => exact execMateNHigh_mem s
  case modReset => exact execModReset_mem s
  case pcsAlignmentLoss => exact execPcsAlignmentLoss_mem _ s
  case pllAcquireTimeout => exact execPllAcquireTimeout_mem _ s
  case pllLockLoss => exact execPllLockLoss_mem _ s
  case refclkLoss => exact execRefclkLoss_mem s
  case journalWrite => exact execJournalWrite_mem s
  case journalCompaction => exact execJournalCompaction_mem s
  case logDeviceCopy => exact execLogDeviceCopy_mem s
  case nvWriteComplete => exact execNvWriteComplete_mem s
  all_goals cases h

theorem mayReadImage_writesHbm {i : Instr} (h : mayReadImage i = true) : mayWriteHbm i = true := by
  unfold mayReadImage at h
  split at h
  case h_10 => cases h
  all_goals rfl

theorem cmdPieces_of_not_writes {i : Instr} (h : (mayWriteHbm i || mayWriteDevices i) = false) : cmdPieces i = basePieces := by
  obtain ⟨hhbm, hdev⟩ := Bool.or_eq_false_iff.mp h
  have himg : mayReadImage i = false := Bool.eq_false_iff.mpr fun himg => by simp [mayReadImage_writesHbm himg] at hhbm
  simp [cmdPieces, himg, hhbm, hdev]

theorem exec_memKept (i : Instr) (s : State) : OutMemKept s (exec i s) := by
  cases hw : mayWriteHbm i || mayWriteDevices i with
  | true => exact exec_memKept_of_writes hw s
  | false =>
    cases hcore : instrCore i with
    | none =>
      have honly : Leaves basePieces s (exec i s) := cmdPieces_of_not_writes hw ▸ exec_only hcore s
      exact .leaves honly rfl
    | some r =>
      obtain ⟨t, ht, hframe⟩ := exec_readFrame hcore s
      rw [ht]
      exact .next ((MemKept.refl s).step hframe.only rfl)

/-- Settles O58: a nanosecond keeps the form (`tick_mem`), and so does the front command, by its kind. -/
theorem stepsKeepMemoriesCanonical : Obligations.StepsKeepMemoriesCanonical := by
  intro s t hwf hstep
  unfold step at hstep
  split at hstep
  · cases hstep
    exact tick_mem s hwf
  · next c rest _ => exact exec_memKept c { s with pending := rest } t hstep hwf

end Sys2Proof.Machine
end

section
/-!
SUPPORT. Every command answers a next state: no meaning of the model ends in a fault or a refusal.
-/

namespace Sys2Proof.Machine

/-- The outcome is a next state. -/
def Answers (o : Out) : Prop := ∃ t, o = .next t

theorem Answers.next (t : State) : Answers (.next t) := ⟨t, rfl⟩

theorem Answers.occurs (s t : State) (p : Bool) : Answers (occurs s p t) := ⟨_, rfl⟩

theorem Answers.ite {a b : Out} {c : Prop} [Decidable c] (ha : Answers a) (hb : Answers b) : Answers (if c then a else b) := by
  split <;> assumption

theorem AnswersFrame.answers {ps : List Piece} {s : State} {o : Out} (h : AnswersFrame ps s o) : Answers o := by
  obtain ⟨t, ht, -⟩ := h
  exact ⟨t, ht⟩

section
variable (s : State)

theorem execRegisterWrite_answers (who : Requester) (a : BitVec 48) (v : BitVec 32) : Answers (execRegisterWrite who a v s) := by
  unfold execRegisterWrite
  split
  · exact .ite (.next _) (.next _)
  · split <;> exact .next _

theorem execBreakerAccept_answers (c : Fin 800) : Answers (execBreakerAccept c s) := by
  unfold execBreakerAccept
  extract_lets
  split
  · exact .next s
  · exact .ite (.next s) (.ite (.next _) (.next _))

theorem execBreakerOpStart_answers (c : Fin 800) (lost : List (Fin 16)) (parity : Option (Fin 16 × Fin 2048)) :
    Answers (execBreakerOpStart c lost parity s) := by
  unfold execBreakerOpStart
  extract_lets
  split
  · exact .next s
  · exact .ite (.next s) (.ite (.next _) (.ite (.next _) (.next _)))

theorem execBreakerOpComplete_answers (c : Fin 800) (upset : List (Nat × BitVec 32)) (bad : Bool) :
    Answers (execBreakerOpComplete c upset bad s) := by
  unfold execBreakerOpComplete
  extract_lets
  split
  · exact .next s
  · exact .ite (.next s) (.ite (.next _) (.next _))

theorem execScratchpadNarrowGrant_answers (c : Fin 800) (b : Fin 16) (drain feed : Bool) :
    Answers (execScratchpadNarrowGrant c b drain feed s) := by
  unfold execScratchpadNarrowGrant
  extract_lets
  refine .ite (.next _) ?_
  split <;> exact .next _

theorem execArbiterDecision_answers (c : Fin 800) (out : Fin 6) (parity : ForwardParity) : Answers (execArbiterDecision c out parity s) := by
  unfold execArbiterDecision
  extract_lets
  split
  · exact .next s
  · exact .ite (.next _) (.ite (.next _) (.ite (.next _) (.ite (.next _) (.ite (.next _) (.next _)))))

theorem execDmaTransferStart_answers (c : Fin 800) : Answers (execDmaTransferStart c s) := by
  unfold execDmaTransferStart
  extract_lets
  split
  · exact .ite (.next s) (.next _)
  · exact .next s

theorem execDmaWritePacket_answers (p : Packet) : Answers (execDmaWritePacket p s) := by
  unfold execDmaWritePacket
  extract_lets
  refine .ite (.next _) (.ite (.next s) ?_)
  split <;> exact .next _

theorem execStreamWordDue_answers (c : Fin 800) (write late bad : Bool) (ecc : List (Nat × Ecc)) :
    Answers (execStreamWordDue c write late bad ecc s) := by
  unfold execStreamWordDue
  extract_lets
  split
  · refine .ite (.occurs _ _ _) ?_
    split
    · exact .next s
    · exact .occurs _ _ _
  · exact .next s

theorem execSoftPpr_answers (k : Fin 8) (pc : Fin 32) (bank : Fin 48) (row : Fin 16384) : Answers (execSoftPpr k pc bank row s) := by
  unfold execSoftPpr
  extract_lets
  split
  · exact .next s
  · exact .ite (.next _) (.occurs _ _ _)

/-! The instruction words (R107): each spells an instruction, and every instruction answers. -/

theorem issue_answers (r : CoreRef) (again : CoreWait → Bool) (illegal : Bool) (u : Uses) (act : State → State) :
    Answers (issue s r again illegal u act) := by
  have hin (t : State) : Answers (issueIn t r illegal u act) := .ite (.next _) (.ite (.next _) (.ite (.next _) (.ite (.next _) (.next _))))
  unfold issue
  refine .ite (hin s) (.ite ?_ (.next s))
  split <;> exact .next _

theorem runAlu_answers (r : CoreRef) (x : Word) : Answers (runAlu r x s) := by
  unfold runAlu
  split <;> exact issue_answers _ _ _ _ _ _

theorem runVint_answers (r : CoreRef) (x : Word) : Answers (runVint r x s) := by
  unfold runVint
  split <;> exact issue_answers _ _ _ _ _ _

theorem runVflt_answers (r : CoreRef) (x : Word) : Answers (runVflt r x s) := by
  unfold runVflt
  split <;> exact issue_answers _ _ _ _ _ _

theorem runSys_answers (r : CoreRef) (x : Word) : Answers (runSys r x s) := by
  unfold runSys
  split <;> exact issue_answers _ _ _ _ _ _

theorem runShi_answers (r : CoreRef) (x : Word) : Answers (runShi r x s) := by
  unfold runShi
  split <;> exact issue_answers _ _ _ _ _ _

theorem runVred_answers (r : CoreRef) (x : Word) : Answers (runVred r x s) := by
  unfold runVred
  split <;> exact issue_answers _ _ _ _ _ _

theorem runVmov_answers (r : CoreRef) (x : Word) : Answers (runVmov r x s) := by
  unfold runVmov
  split <;> exact issue_answers _ _ _ _ _ _

theorem runVcvt_answers (r : CoreRef) (x : Word) : Answers (runVcvt r x s) := by
  unfold runVcvt
  split <;> exact issue_answers _ _ _ _ _ _

theorem execWord_answers (r : CoreRef) (x : Word) : Answers (execWord r x s) := by
  unfold execWord
  split
  case h_1 => exact runSys_answers s r x
  case h_2 => exact runAlu_answers s r x
  case h_9 => exact runShi_answers s r x
  case h_34 => exact runVint_answers s r x
  case h_35 => exact runVflt_answers s r x
  case h_36 => exact runVred_answers s r x
  case h_37 => exact runVmov_answers s r x
  case h_38 => exact runVcvt_answers s r x
  all_goals exact issue_answers _ _ _ _ _ _

theorem execPbStep1_answers (who : Requester) (r : CoreRef) : Answers (execPbStep1 who r s) := by
  unfold execPbStep1 State.pbStep1
  exact .ite (.ite (execWord_answers _ r _) (.next s)) (.next s)

/-- A command that is no pebble core's instruction answers. -/
theorem exec_answers {i : Instr} (h : instrCore i = none) : Answers (exec i s) := by
  cases i
  all_goals dsimp only [exec]
  case registerWrite => exact execRegisterWrite_answers s _ _ _
  case stepBoundary =>
    unfold execStepBoundary
    split <;> exact ⟨_, rfl⟩
  case stepStart =>
    unfold execStepStart
    extract_lets
    split <;> exact ⟨_, rfl⟩
  case commit =>
    unfold execCommit
    split <;> exact ⟨_, rfl⟩
  case voteDeadline =>
    unfold execVoteDeadline
    extract_lets
    split <;> exact ⟨_, rfl⟩
  case replayStart =>
    unfold execReplayStart
    extract_lets
    split <;> exact ⟨_, rfl⟩
  case breakerAccept => exact execBreakerAccept_answers s _
  case breakerOpStart => exact execBreakerOpStart_answers s _ _ _
  case breakerOpComplete => exact execBreakerOpComplete_answers s _ _ _
  case scratchpadNarrowGrant => exact execScratchpadNarrowGrant_answers s _ _ _ _
  case pbStep1 => exact execPbStep1_answers s _ _
  case seamSlip =>
    unfold execSeamSlip
    extract_lets
    split <;> exact ⟨_, rfl⟩
  case arbiterDecision => exact execArbiterDecision_answers s _ _ _
  case epochArmCheck =>
    unfold execEpochArmCheck
    split <;> exact ⟨_, rfl⟩
  case dmaTransferStart => exact execDmaTransferStart_answers s _
  case dmaWritePacket => exact execDmaWritePacket_answers s _
  case dmaReadPacket =>
    unfold execDmaReadPacket
    extract_lets
    split <;> exact ⟨_, rfl⟩
  case dmaRetryResend =>
    unfold execDmaRetryResend
    split <;> exact ⟨_, rfl⟩
  case dmaTagQuarantineEnd =>
    unfold execDmaTagQuarantineEnd
    split <;> exact ⟨_, rfl⟩
  case dmaTimeout =>
    unfold execDmaTimeout
    split <;> exact ⟨_, rfl⟩
  case regPacket =>
    unfold execRegPacket
    split <;> exact ⟨_, rfl⟩
  case strmD3Write =>
    unfold execStrmD3Write
    split <;> exact ⟨_, rfl⟩
  case streamWordDue => exact execStreamWordDue_answers s _ _ _ _ _
  case shadowChunkCopy =>
    unfold execShadowChunkCopy
    split <;> exact ⟨_, rfl⟩
  case granuleMapWrite =>
    unfold execGranuleMapWrite
    extract_lets
    split <;> exact ⟨_, rfl⟩
  case softPpr => exact execSoftPpr_answers s _ _ _ _
  case timeHoldover =>
    unfold execTimeHoldover
    split <;> exact ⟨_, rfl⟩
  case unsupportedOpcode =>
    unfold execUnsupportedOpcode
    split <;> exact ⟨_, rfl⟩
  case readGatherTimeout =>
    unfold execReadGatherTimeout
    split <;> exact ⟨_, rfl⟩
  case linkDownAt =>
    unfold execLinkDownAt
    extract_lets
    split <;> exact ⟨_, rfl⟩
  case sessionVerifyDone =>
    unfold execSessionVerifyDone
    extract_lets
    split <;> exact ⟨_, rfl⟩
  case attestTokenComplete =>
    unfold execAttestTokenComplete
    split <;> exact ⟨_, rfl⟩
  case programLoadComplete =>
    unfold execProgramLoadComplete
    extract_lets
    split <;> exact ⟨_, rfl⟩
  case faultSignatureRecord =>
    unfold execFaultSignatureRecord
    extract_lets
    split <;> exact ⟨_, rfl⟩
  case rotationTestSlot =>
    unfold execRotationTestSlot
    extract_lets
    split <;> exact ⟨_, rfl⟩
  case rotationTestStart =>
    unfold execRotationTestStart
    extract_lets
    split <;> exact ⟨_, rfl⟩
  case testPhaseComplete =>
    unfold execTestPhaseComplete
    extract_lets
    split <;> exact ⟨_, rfl⟩
  case handoverMoveStart =>
    unfold execHandoverMoveStart
    extract_lets
    split <;> exact ⟨_, rfl⟩
  case handoverMoveComplete =>
    unfold execHandoverMoveComplete
    extract_lets
    split <;> exact ⟨_, rfl⟩
  case handoverTimeout =>
    unfold execHandoverTimeout
    split <;> exact ⟨_, rfl⟩
  case shapeSwitch =>
    unfold execShapeSwitch
    extract_lets
    split <;> exact ⟨_, rfl⟩
  case ebbEntry =>
    unfold execEbbEntry
    split <;> exact ⟨_, rfl⟩
  case domainWake =>
    unfold execDomainWake
    split <;> exact ⟨_, rfl⟩
  case emergencyGlideStop =>
    unfold execEmergencyGlideStop
    split <;> exact ⟨_, rfl⟩
  case hintVoltageRaise =>
    unfold execHintVoltageRaise
    extract_lets
    split <;> exact ⟨_, rfl⟩
  case cargoReadComplete =>
    unfold execCargoReadComplete
    split <;> exact ⟨_, rfl⟩
  case journalWrite =>
    unfold execJournalWrite
    split <;> exact ⟨_, rfl⟩
  case journalCompaction =>
    unfold execJournalCompaction
    split <;> exact ⟨_, rfl⟩
  case logDeviceCopy =>
    unfold execLogDeviceCopy
    extract_lets
    split <;> exact ⟨_, rfl⟩
  all_goals cases h
  all_goals exact ⟨_, rfl⟩

end
end Sys2Proof.Machine
end

section
/-!
SUPPORT. The commands that may read the image anew leave the devices as they were: what they load comes from the devices, and what they lose is
the working copy (R418). The rest of an image's start is in the parts that `exec_only` lists.
-/

namespace Sys2Proof.Machine

/-- The command answers a next state, with the devices as they were. -/
def OutKeepsDevices (s : State) (o : Out) : Prop := ∃ t, o = .next t ∧ Keeps devices s t

theorem OutKeepsDevices.next {s t : State} (h : Keeps devices s t) : OutKeepsDevices s (.next t) := ⟨t, rfl, h⟩

theorem OutKeepsDevices.occurs {s t : State} {p : Bool} (h : Keeps devices s t) : OutKeepsDevices s (occurs s p t) := .next (.ite h (.refl _ s))

section
variable (s : State)

/-! The requested reset and what can end one: a link that goes down (R300). -/

theorem State.restart_keepsDevices : Keeps devices s s.restart := rfl

theorem State.resetIfDown_keepsDevices : Keeps devices s s.resetIfDown := .ite s.restart_keepsDevices (.refl _ s)

theorem State.linkLost_keepsDevices (p : Nat) : Keeps devices s (s.linkLost p) := by
  unfold State.linkLost
  extract_lets s1
  have h1 : Keeps devices s s1 := .of_only (s.linkDown_only p) rfl
  exact .trans (.ite h1 (h1.step (s1.beginTraining_only p) rfl)) (State.resetIfDown_keepsDevices _)

/-! The reference and the clocks (R363, R370). -/

theorem State.rollBackAll_keepsDevices (bays : List Nat) : Keeps devices s (bays.foldl State.rollbackAll s) :=
  List.foldlRecOn (motive := Keeps devices s) bays _ (.refl _ s) fun t h b _ => h.step (t.rollbackAll_only b) rfl

theorem State.loseReference_keepsDevices (code : Code) (p : Nat) : Keeps devices s (s.loseReference code p) := by
  unfold State.loseReference
  extract_lets s1 s2 s3 coast _ _ s4
  have h1 : Keeps devices s s1 := .ite (.refl _ s) (s.rollBackAll_keepsDevices _)
  have h2 : Keeps devices s s2 := h1.step s1.abandonMoves_only rfl
  have h3 : Keeps devices s s3 :=
    (((h2.step (s2.dropChange_only _) rfl).step (State.closeSeam_only _) rfl).step (State.linkDown_only _ _) rfl).step (State.linkDown_only _ _) rfl
  clear_value s3
  have h4 : Keeps devices s s4 := h3.trans rfl
  exact (h4.step (s4.clkError_only code p) rfl).trans (State.resetIfDown_keepsDevices _)

theorem State.lockLost_keepsDevices (p : Nat) : Keeps devices s (s.lockLost p) := by
  unfold State.lockLost
  extract_lets s0 h bays s1 recent s2 other k t1
  have h0 : Keeps devices s s0 := .of_only (s.startPll_only p) rfl
  have herr {t : State} (ht : Keeps devices s t) (code : Code) : Keeps devices s (t.clkError code p) := ht.step (t.clkError_only code p) rfl
  have h2 : Keeps devices s s2 := (herr (h0.trans (s0.rollBackAll_keepsDevices bays)) 0x2021).step (s1.modPll_only _ _) rfl
  have h3 : Keeps devices s t1 := herr (h0.trans (s0.rollBackAll_keepsDevices _)) 0x2024
  refine .ite (.ite (herr (h2.step (s2.modHalf_only _ _) rfl) _) h2) (.ite (.ite (herr h0 _) (.ite ?_ ?_)) (.ite ?_ (.ite ?_ (herr h0 _))))
  · exact herr (h0.step (s0.modPll_only _ _) rfl) _
  · exact (h0.trans (s0.loseReference_keepsDevices _ _)).step (State.reacquire_only _) rfl
  · exact h3.step (t1.modStack_only _ _) rfl
  · exact herr (h0.trans (s0.linkLost_keepsDevices _)) _

/-! Stage S2 (R418). -/

theorem State.identFailed_keepsDevices (code : Code) : Keeps devices s ((s.log code).identErr code) :=
  (Keeps.of_only (s.log_only code) rfl).step (State.identErr_only _ _) rfl

theorem State.deriveIdentity_keepsDevices (pub : List Byte) : Keeps devices s (s.deriveIdentity pub) := by
  unfold State.deriveIdentity
  extract_lets s1
  split
  · rfl
  · exact .trans rfl (State.identFailed_keepsDevices _ _)

theorem State.readOwners_keepsDevices : Keeps devices s s.readOwners := by
  unfold State.readOwners
  extract_lets l s1 _ s2
  have h1 : Keeps devices s s1 := .ite (s.identFailed_keepsDevices _) (.refl _ s)
  clear_value s1
  have h2 : Keeps devices s s2 := h1.trans rfl
  exact .ite (h2.trans (s2.identFailed_keepsDevices _)) h2

theorem State.stage2_keepsDevices (pub : List Byte) : Keeps devices s (s.stage2 pub) := by
  unfold State.stage2
  extract_lets s1 a b s2 ok ca cb _ s3
  have h1 : Keeps devices s s1 :=
    ((s.deriveIdentity_keepsDevices pub).trans (State.readOwners_keepsDevices _)).step (State.readJournals_only _) rfl
  have h2 : Keeps devices s s2 := (h1.step (s1.noteCap_only a) rfl).step (State.noteCap_only _ b) rfl
  clear_value s2
  have h3 : Keeps devices s s3 := h2.trans rfl
  clear_value s3
  split
  · exact h3.step (s3.stopStart_only _) rfl
  · next i v passed _ =>
    extract_lets -lift s4
    have h4 : Keeps devices s s4 := .ite ((h3.step (s3.suError_only _) rfl).trans rfl) h3
    have hused : Keeps devices s (s4.useSlot i v) := h4.trans rfl
    exact hused.step (State.endStage_only _ _ _) rfl

/-! The commands. -/

theorem execLinkDownAt_keepsDevices (p : Fin 2) : OutKeepsDevices s (execLinkDownAt p s) := by
  unfold execLinkDownAt
  extract_lets p' s1
  have h1 : Keeps devices s s1 := .of_only (s.linkDown_only _) rfl
  split
  · exact .next (.refl _ s)
  · exact .occurs (.ite (h1.trans s1.resetIfDown_keepsDevices) (.ite (h1.step (s1.beginTraining_only _) rfl) h1))

theorem execRefclkLoss_keepsDevices : OutKeepsDevices s (execRefclkLoss s) := by
  unfold execRefclkLoss
  extract_lets _ s1 s2
  have h1 : Keeps devices s s1 := rfl
  have h2 : Keeps devices s s2 := h1.trans (s1.loseReference_keepsDevices _ _)
  exact .occurs (.ite h2 (h2.step s2.backToS0_only rfl))

theorem execPllAcquireTimeout_keepsDevices (p : Fin 17) : OutKeepsDevices s (execPllAcquireTimeout p s) := by
  have herr : Keeps devices s (s.clkError 0x2020 p) := .of_only (s.clkError_only _ _) rfl
  exact .occurs (.ite ((herr.trans (State.lockLost_keepsDevices _ p)).step (State.modPll_only _ _ _) rfl)
    ((herr.step (State.startPll_only _ p) rfl).step (State.modPll_only _ _ _) rfl))

theorem execModReset_keepsDevices : OutKeepsDevices s (execModReset s) := by
  unfold execModReset
  extract_lets s1
  have h1 : Keeps devices s s1 := (Keeps.of_only (s.loadIr_only _) rfl).step (State.usesJtag_only _) rfl
  clear_value s1
  have hreset : Keeps devices s { s1 with jetty := { s1.jetty with resetting := true } } := h1.trans rfl
  exact .occurs (.ite (h1.trans s1.restart_keepsDevices) (.step hreset (State.depart_only _ _ _ _) rfl))

theorem execStageS2_keepsDevices (f : S2Findings) : OutKeepsDevices s (execStageS2 f s) :=
  .occurs (.ite (s.stage2_keepsDevices _) (.of_only (s.stopStart_only _) rfl))

end

/-- The commands that may read the image anew leave the devices. -/
theorem exec_keepsDevices_of_mayReadImage {i : Instr} (h : mayReadImage i = true) (s : State) : OutKeepsDevices s (exec i s) := by
  cases i
  all_goals dsimp only [exec]
  case linkDownAt p => exact execLinkDownAt_keepsDevices s p
  case pcsAlignmentLoss p => exact .occurs ((s.linkLost_keepsDevices p).step (State.portEvent_only _ _ _) rfl)
  case refclkLoss => exact execRefclkLoss_keepsDevices s
  case pllAcquireTimeout p => exact execPllAcquireTimeout_keepsDevices s p
  case pllLockLoss p => exact .occurs (.trans (s.lockLost_keepsDevices p) rfl)
  case auxInputReturn => exact .occurs rfl
  case auxPowerOn => exact .occurs rfl
  case stageS2 f => exact execStageS2_keepsDevices s f
  case modReset => exact execModReset_keepsDevices s
  all_goals cases h

end Sys2Proof.Machine
end

section
/-!
SUPPORT. What a command leaves alone, over all commands.
-/

namespace Sys2Proof.Machine

/-- A command that is no pebble core's instruction answers a state that differs in the parts of its kind. -/
theorem exec_next_only {i : Instr} (h : instrCore i = none) (s : State) : ∃ t, exec i s = .next t ∧ ChangesOnly (cmdPieces i) s t := by
  obtain ⟨t, ht⟩ := exec_answers s h
  exact ⟨t, ht, exec_only h s t ht⟩

theorem cmdPieces_no_pending (i : Instr) : (cmdPieces i).contains .pending = false := by
  unfold cmdPieces
  split
  · rfl
  · split
    · rfl
    · split <;> rfl

theorem cmdPieces_no_hbm {i : Instr} (h : mayWriteHbm i = false) : (cmdPieces i).contains .hbm = false := by
  have himg : mayReadImage i = false := Bool.eq_false_iff.mpr fun himg => by simp [mayReadImage_writesHbm himg] at h
  rw [cmdPieces, himg, h]
  cases mayWriteDevices i <;> rfl

theorem cmdPieces_no_img {i : Instr} (hdev : mayWriteDevices i = false) (himg : mayReadImage i = false) : (cmdPieces i).contains .img = false := by
  rw [cmdPieces, himg, hdev]
  cases mayWriteHbm i <;> rfl

/-- Only the four commands that write the devices change them. -/
theorem exec_keepsDevices {i : Instr} {s t : State} (ht : exec i s = .next t) (honly : ChangesOnly (cmdPieces i) s t) (hdev : mayWriteDevices i = false) :
    Keeps devices s t := by
  cases himg : mayReadImage i with
  | true =>
    obtain ⟨u, hu, hkeeps⟩ := exec_keepsDevices_of_mayReadImage himg s
    cases ht.symm.trans hu
    exact hkeeps
  | false => exact .of_only honly (cmdPieces_no_img hdev himg)

/-- Settles O59: by the parts that a command of its kind may change, and by the frame of a pebble core's instruction. -/
theorem commandsLeaveOtherPartsAlone : Obligations.CommandsLeaveOtherPartsAlone := by
  intro s i
  cases hcore : instrCore i with
  | none =>
    obtain ⟨t, ht, honly⟩ := exec_next_only hcore s
    exact ⟨t, ht, honly .pending (cmdPieces_no_pending i), fun hhbm => honly .hbm (cmdPieces_no_hbm hhbm), exec_keepsDevices ht honly, nofun⟩
  | some r =>
    obtain ⟨t, ht, hframe⟩ := exec_readFrame hcore s
    have hold (p : Piece) (hp : readPieces.contains p = false) : p.agree s t := hframe.only p hp
    have himg : t.img = s.img := hold .img rfl
    obtain ⟨hnow, helapsed⟩ : t.clk.now = s.clk.now ∧ t.clk.elapsed = s.clk.elapsed := Prod.mk.inj hframe.times
    refine ⟨t, ht, hold .pending rfl, fun _ => hold .hbm rfl, fun _ => by rw [himg], fun q hq => ?_⟩
    refine ⟨⟨hold .hbm rfl, hold .mt rfl, hold .qps rfl, hold .pwrx rfl, himg, hold .pins rfl, hnow, helapsed⟩, fun hmrd => ?_⟩
    cases hq
    obtain ⟨u, hu, hcoreFrame⟩ := exec_coreFrame hcore hmrd s
    cases ht.symm.trans hu
    exact ⟨hcoreFrame.only .pwr rfl, hcoreFrame.only .ident rfl, hcoreFrame.only .latches rfl, hcoreFrame.only .free rfl⟩

end Sys2Proof.Machine
end

section
/-!
SUPPORT. Fields with a row of their own: only the module owner's write takes effect (R9).
-/

namespace Sys2Proof.Machine

section
variable {s : State} {who : Requester}

theorem occurs_owner (h : s.isOwner who = true) (t : State) : occurs s (s.isOwner who) t = .next t := by
  rw [h]
  rfl

theorem occurs_owner_and (h : s.isOwner who = true) (p : Prop) [Decidable p] (t : State) :
    occurs s (s.isOwner who && decide p) t = .next (if p then t else s) := by
  rw [h, Bool.true_and, occurs]
  simp only [decide_eq_true_eq]

theorem occurs_other (h : s.isOwner who = false) (t : State) : occurs s (s.isOwner who) t = .next s := by
  rw [h]
  rfl

theorem occurs_other_and (h : s.isOwner who = false) (p : Bool) (t : State) : occurs s (s.isOwner who && p) t = .next s := by
  rw [h]
  rfl

end

theorem State.pbBkptEn_true (s : State) (r : CoreRef) : s.pbBkptEn r true = s.modCore r fun k =>
    { k with
      ctl := k.ctl ||| 4
      state := if k.ctl.getLsbD 2 = false ∧ k.state = 1 ∧ k.pc = k.bkpt.toNat / 4 * 4 then 4 else k.state } := by
  unfold State.pbBkptEn
  congr 1
  funext k
  cases hbit : k.ctl.getLsbD 2 with
  | true => simp
  | false =>
    have hset : (k.ctl ||| 4).getLsbD 2 = true := by simp
    simp only [PCore.atBreak, hset, true_and, Bool.false_eq_true, if_false, if_true]
    split <;> rfl

/-- Cleared, the bit leaves the core where it is. -/
theorem State.pbBkptEn_false (s : State) (r : CoreRef) : s.pbBkptEn r false = s.modCore r fun k => { k with ctl := k.ctl &&& 0xB } := by
  unfold State.pbBkptEn
  congr 1
  funext k
  simp [PCore.atBreak]

theorem Breaker.unfilled_fillEn (b : Breaker) (v : Bool) : Breaker.unfilled { b with fillEn := v } =
    { b with fillEn := v, level := if v || b.streams || !b.queue.isEmpty then b.level else 0 } := by
  show (if v || b.streams || !b.queue.isEmpty then { b with fillEn := v } else { b with fillEn := v, level := 0 }) = _
  cases v || b.streams || !b.queue.isEmpty <;> rfl

theorem exec_pbBkptEn_owner {s : State} {who : Requester} (h : s.isOwner who = true) (r : CoreRef) (v : Bool) :
    exec (.pbBkptEn who r v) s = .next (s.pbBkptEn r v) := occurs_owner h _

theorem exec_brkFillEn_owner {s : State} {who : Requester} (h : s.isOwner who = true) (c : Fin 800) (v : Bool) :
    exec (.brkFillEn who c v) s = .next (s.modCove c fun k => { k with brk := { k.brk with
      fillEn := v, level := if v || k.brk.streams || !k.brk.queue.isEmpty then k.brk.level else 0 } }) := by
  simp only [exec_brkFillEn, execBrkFillEn, occurs_owner h, Cove.modBrk, Breaker.unfilled_fillEn]

/-- Settles O17: the rows of the module owner, one after the other, and what each leaves to another requester. -/
theorem ownerFieldWritesTakeEffect : Obligations.OwnerFieldWritesTakeEffect := by
  intro s who
  refine ⟨fun h => ?_, fun h => ?_⟩
  · refine ⟨fun _ => occurs_owner h _, fun _ => occurs_owner h _, fun r => ?_, fun r => ?_, fun _ _ => occurs_owner h _, exec_brkFillEn_owner h,
      fun _ => occurs_owner h _, fun _ => occurs_owner h _, fun _ _ => occurs_owner h _, fun _ => occurs_owner h _, fun _ _ => occurs_owner h _,
      fun _ => occurs_owner h _, fun _ => occurs_owner h _, fun _ => occurs_owner h _, fun _ => occurs_owner_and h _ _,
      fun _ => occurs_owner_and h _ _⟩
    · rw [exec_pbBkptEn_owner h, s.pbBkptEn_true]
    · rw [exec_pbBkptEn_owner h, s.pbBkptEn_false]
  · have hrow (t : State) : occurs s (s.isOwner who) t = .next s := occurs_other h t
    refine ⟨fun _ _ => ⟨hrow _, hrow _, hrow _⟩, fun r => ?_, fun _ _ => ⟨hrow _, hrow _⟩, fun _ => ⟨hrow _, hrow _, hrow _⟩,
      fun _ _ => ⟨hrow _, hrow _⟩, fun _ => hrow _, fun _ => hrow _, fun _ => occurs_other_and h _ _, fun _ => occurs_other_and h _ _⟩
    rw [exec_pbStep1, execPbStep1, h]
    rfl

end Sys2Proof.Machine
end

section
/-!
SUPPORT. Writes of the management space (R480 to R485): which register an address names, and what the write of a register leaves, by who makes it.
-/

namespace Sys2Proof.Machine

/-! Meanings run after others. -/

theorem State.after_of_next {s t : State} {f : State → Out} (h : f s = .next t) : s.after f = t := by
  rw [State.after, h]
  rfl

theorem State.next_after {s : State} {f : State → Out} (h : Answers (f s)) : .next (s.after f) = f s := by
  obtain ⟨t, ht⟩ := h
  rw [State.after_of_next ht, ht]

/-- A first field, then a second one where its bit is written. -/
theorem State.next_ite_after {s t : State} {f g : State → Out} {p : Bool} (hf : f s = .next t) (hg : Answers (g t)) :
    Host.Outcome.next (if p then (s.after f).after g else s.after f) = if p then g t else .next t := by
  rw [State.after_of_next hf]
  cases p with
  | false => rfl
  | true => exact State.next_after hg

theorem State.isOwner_of_sessions {s t : State} (h : t.sessions = s.sessions) (who : Requester) : t.isOwner who = s.isOwner who := by
  have hread : t.isOwner who = State.isOwner { s with sessions := t.sessions } who := by cases who <;> rfl
  rw [hread, h]

/-! Where the registers lie (R480, R481). -/

theorem mgmtAddr_toNat {a : Nat} (h : a < mgmtSize) : (BitVec.ofNat 48 (0xF00000000000 + a)).toNat = mgmtBase + a := by
  unfold mgmtSize at h
  rw [BitVec.toNat_ofNat, mgmtBase, Nat.mod_eq_of_lt (by omega)]

theorem mgmtOff_addr {a : Nat} (h4 : a % 4 = 0) (h : a < mgmtSize) : mgmtOff (BitVec.ofNat 48 (0xF00000000000 + a)).toNat = some a := by
  rw [mgmtAddr_toNat h]
  unfold mgmtOff mgmtBase
  rw [if_pos (by omega), Nat.add_sub_cancel_left]

theorem blockAt_lt {a : Nat} {x : Block × Nat} (h : blockAt a = some x) : a < mgmtSize := by
  unfold blockAt coveBase at h
  unfold mgmtSize
  by_contra hge
  repeat rw [if_neg (by omega)] at h
  cases h

/-- The block at an offset of a cove's region. -/
theorem blockAt_cove (c : Fin 800) {o : Nat} (ho : o < 0x10000) : blockAt (0x1000000 + 0x10000 * c + o) = coveBlock c o := by
  have hc := c.isLt
  unfold blockAt coveBase
  iterate 5 rw [if_neg (by omega)]
  rw [if_pos (by omega)]
  congr 1 <;> omega

/-- Where the gaps of a block are counted: within a core's registers in the pebble block. -/
def Block.gapOff (k : Block) (o : Nat) : Nat :=
  match k with
  | .pb _ => o % 0x40
  | _ => o

theorem Block.isReg_iff (k : Block) (o : Nat) :
    k.isReg o = true ↔ o < k.last ∧ ∀ g ∈ k.gaps, g.1 ≤ k.gapOff o → g.2 ≤ k.gapOff o := by
  have hgap : k.isReg o = (decide (o < k.last) && !k.gaps.any fun g => decide (g.1 ≤ k.gapOff o ∧ k.gapOff o < g.2)) := rfl
  simp only [hgap, Bool.and_eq_true, decide_eq_true_eq, Bool.not_eq_true', List.any_eq_false, not_and, not_lt]

/-- Register `o` of block `k` lies at offset `a`. -/
def RegHere (a : Nat) (k : Block) (o : Nat) : Prop := a % 4 = 0 ∧ blockAt a = some (k, o) ∧ k.isReg o = true

/-- A register of a cove's region, by its place there. -/
theorem regHere_cove (c : Fin 800) {p o : Nat} {k : Block} (h4 : p % 4 = 0) (hp : p < 0x10000) (hk : coveBlock c p = some (k, o))
    (hreg : k.isReg o = true) : RegHere (0x1000000 + 0x10000 * c + p) k o := by
  refine ⟨by omega, ?_, hreg⟩
  rw [blockAt_cove c hp, hk]

theorem regHere_pebble (c : Fin 800) (k : Fin 16) {r : Nat} (h4 : r % 4 = 0) (hr : r < 0x2C) :
    RegHere (0x1000000 + 0x10000 * c + 0x400 + 0x40 * k + r) (.pb c) (0x40 * k + r) := by
  have hk := k.isLt
  rw [Nat.add_assoc, Nat.add_assoc]
  refine regHere_cove c (by omega) (by omega) ?_ ?_
  · unfold coveBlock
    iterate 4 rw [if_neg (by omega)]
    rw [if_pos (by omega)]
    exact congrArg (fun o => some (Block.pb c, o)) (by omega)
  · have hmod : (0x40 * k.val + r) % 0x40 = r := by omega
    simp only [Block.isReg_iff, Block.last, Block.gaps, Block.gapOff, hmod, List.forall_mem_cons, List.not_mem_nil, false_imp_iff, implies_true, and_true]
    omega

theorem regHere_tolerance (c : Fin 800) (j : Fin 16) (isAbs : Bool) :
    RegHere (0x1000000 + 0x10000 * c + 0x80 + 8 * j + if isAbs then 4 else 0) (.brk c) (0x80 + 8 * j + if isAbs then 4 else 0) := by
  have hj := j.isLt
  have hpart : (if isAbs then 4 else 0) = 4 ∨ (if isAbs then 4 else 0) = 0 := by cases isAbs <;> simp
  rw [Nat.add_assoc, Nat.add_assoc, ← Nat.add_assoc 0x80]
  generalize (if isAbs then 4 else 0) = d at hpart ⊢
  refine regHere_cove c (by omega) (by omega) ?_ ?_
  · exact if_pos (by omega)
  · simp only [Block.isReg_iff, Block.last, Block.gaps, Block.gapOff, List.forall_mem_cons, List.not_mem_nil, false_imp_iff, implies_true, and_true]
    omega

theorem regHere_bayCfg (b : Fin 16) : RegHere (0x840 + 4 * b) .igm (0x40 + 4 * b) := by
  have hb := b.isLt
  refine ⟨by omega, ?_, ?_⟩
  · unfold blockAt moduleBlock
    rw [if_pos (by omega)]
    iterate 7 rw [if_neg (by omega)]
    rw [if_pos (by omega)]
    exact congrArg (fun o => some (Block.igm, o)) (by omega)
  · simp only [Block.isReg_iff, Block.last, Block.gaps, Block.gapOff, List.forall_mem_cons, List.not_mem_nil, false_imp_iff, implies_true, and_true]
    omega

theorem regHere_nvData (j : Fin 64) : RegHere (0x8100 + 4 * j) .nv (0x100 + 4 * j) := by
  have hj := j.isLt
  refine ⟨by omega, ?_, ?_⟩
  · unfold blockAt moduleBlock
    rw [if_pos (by omega)]
    iterate 15 rw [if_neg (by omega)]
    rw [if_pos (by omega)]
    exact congrArg (fun o => some (Block.nv, o)) (by omega)
  · simp only [Block.isReg_iff, Block.last, Block.gaps, Block.gapOff, List.forall_mem_cons, List.not_mem_nil, false_imp_iff, implies_true, and_true]
    omega

theorem regHere_stack (n : Fin 8) {o : Nat} (h4 : o % 4 = 0) (ho : o < 0x1000) (hreg : Block.isReg (.hb n) o = true) :
    RegHere (0x10000 + o + 0x1000 * n) (.hb n) o := by
  have hn := n.isLt
  refine ⟨by omega, ?_, hreg⟩
  unfold blockAt
  rw [if_neg (by omega), if_pos (by omega)]
  congr 2
  · congr 1
    omega
  · omega

end Sys2Proof.Machine
end

section
/-!
SUPPORT. What a REGISTER_WRITE leaves, by who makes it: a bay's session first, then the module owner, then Headland (R9).
-/

namespace Sys2Proof.Machine

theorem session_ne_core (b i : Fin 16) (r : CoreRef) : Requester.session b i ≠ .core r := by simp

theorem headland_ne_core (r : CoreRef) : Requester.headland ≠ .core r := by simp

section
variable {s : State} {who : Requester} {v : Word} {a o : Nat} {k : Block}

/-- Outside the management space nothing is written. -/
theorem registerWrite_outside {x : BitVec 48} (hwho : ∀ r, who ≠ .core r) (hx : mgmtOff x.toNat = none) :
    exec (.registerWrite who x v) s = .next s := by
  cases who with
  | core r => exact absurd rfl (hwho r)
  | headland => simp only [exec_registerWrite, execRegisterWrite, hx]
  | session b i => simp only [exec_registerWrite, execRegisterWrite, hx]

/-- A write of a register, by anyone but a core. -/
theorem registerWrite_at (hwho : ∀ r, who ≠ .core r) (h : RegHere a k o) :
    exec (.registerWrite who (BitVec.ofNat 48 (0xF00000000000 + a)) v) s = .next ((s.write who a v).getD s) := by
  obtain ⟨h4, hblock, -⟩ := h
  have hoff := mgmtOff_addr h4 (blockAt_lt hblock)
  cases who with
  | core r => exact absurd rfl (hwho r)
  | headland => simp only [exec_registerWrite, execRegisterWrite, hoff]
  | session b i => simp only [exec_registerWrite, execRegisterWrite, hoff]

theorem State.write_at (h : RegHere a k o) : s.write who a v =
    ((s.bayWrite who k o v).or (if s.isOwner who then s.ownerWrite who k o v else none)).or
      (if who = .headland then some (s.headlandWrite k o v) else none) := by
  obtain ⟨-, hblock, hreg⟩ := h
  unfold State.write
  rw [hblock]
  simp only [hreg, Bool.not_true, Bool.false_eq_true, if_false]
  cases s.bayWrite who k o v with
  | some t => rfl
  | none =>
    cases if s.isOwner who then s.ownerWrite who k o v else none with
    | some t => rfl
    | none => rfl

theorem registerWrite_bay {t : State} (h : RegHere a k o) (hwho : ∀ r, who ≠ .core r) (ht : s.bayWrite who k o v = some t) :
    exec (.registerWrite who (BitVec.ofNat 48 (0xF00000000000 + a)) v) s = .next t := by
  rw [registerWrite_at hwho h, s.write_at h, ht]
  rfl

/-- A session that is not the module owner's, and may not write the register as a bay's. -/
theorem registerWrite_refused {b i : Fin 16} (h : RegHere a k o) (howner : s.isOwner (.session b i) = false)
    (hbay : s.bayWrite (.session b i) k o v = none) :
    exec (.registerWrite (.session b i) (BitVec.ofNat 48 (0xF00000000000 + a)) v) s = .next s := by
  rw [registerWrite_at (session_ne_core b i) h, s.write_at h, hbay, howner]
  rfl

/-- Register `o` of block `k` lies at offset `a`, and no session of a bay writes it as such. -/
structure PlainReg (a : Nat) (k : Block) (o : Nat) : Prop where
  here : RegHere a k o
  noBay : ∀ s who v, State.bayWrite s who k o v = none

theorem PlainReg.owner {t : State} (h : PlainReg a k o) (hwho : ∀ r, who ≠ .core r) (howner : s.isOwner who = true)
    (ht : s.ownerWrite who k o v = some t) : exec (.registerWrite who (BitVec.ofNat 48 (0xF00000000000 + a)) v) s = .next t := by
  rw [registerWrite_at hwho h.here, s.write_at h.here, h.noBay, howner, if_pos rfl, ht]
  rfl

/-- The module owner's write of a register that a command of its own writes. -/
theorem PlainReg.owner_after {f : State → Out} (h : PlainReg a k o) (hwho : ∀ r, who ≠ .core r) (howner : s.isOwner who = true)
    (ht : s.ownerWrite who k o v = some (s.after f)) (hf : Answers (f s)) :
    exec (.registerWrite who (BitVec.ofNat 48 (0xF00000000000 + a)) v) s = f s := by
  rw [h.owner hwho howner ht, State.next_after hf]

theorem PlainReg.refused {b i : Fin 16} (h : PlainReg a k o) (howner : s.isOwner (.session b i) = false) :
    exec (.registerWrite (.session b i) (BitVec.ofNat 48 (0xF00000000000 + a)) v) s = .next s :=
  registerWrite_refused h.here howner (h.noBay _ _ _)

theorem PlainReg.headland (h : PlainReg a k o) (hown : s.ownerWrite .headland k o v = none) :
    exec (.registerWrite .headland (BitVec.ofNat 48 (0xF00000000000 + a)) v) s = .next (s.headlandWrite k o v) := by
  rw [registerWrite_at headland_ne_core h.here, s.write_at h.here, h.noBay, hown]
  cases s.isOwner .headland <;> rfl

end

/-! The registers that sessions of a bay write as such. -/

theorem State.bayWrite_igm (s : State) (who : Requester) (o : Nat) (v : Word) : s.bayWrite who .igm o v =
    if 0x40 ≤ o ∧ o < 0x80 ∧ s.ownsBay who ((o - 0x40) / 4) [.bay] ∧ bits v 0 3 ≤ 4 then
      some (s.after (execIgBayCfgWrite who (Fin.ofNat 16 ((o - 0x40) / 4)) v))
    else none := rfl

/-- The requester is the module owner, or a session that holds the bay of cove `c`. -/
def State.bayOwns (s : State) (who : Requester) (c : Nat) : Bool := s.isOwner who || (s.bayOf c).any fun b => s.ownsBay who b [.bay]

theorem State.bayWrite_pb (s : State) (who : Requester) (c o : Nat) (v : Word) : s.bayWrite who (.pb c) o v =
    if o % 0x40 = 0xC ∧ s.bayOwns who c then some (s.writePb ⟨Fin.ofNat 800 c, Fin.ofNat 16 (o / 0x40)⟩ 0xC v) else none := rfl

theorem State.bayWrite_tf (s : State) (who : Requester) (c o : Nat) (v : Word) : s.bayWrite who (.tf c) o v =
    if o = 8 ∧ s.bayOwns who c then
      some (s.modCove c fun x => { x with tide := { x.tide with
        violNew := x.tide.violNew && (!v.getLsbD 23 || x.tide.violNo != (s.cut.coves.get {} c).tide.violNo) } })
    else none := rfl

/-! The registers. -/

theorem plainReg_logSel : PlainReg 0x20 .mg 0x20 := ⟨⟨rfl, rfl, rfl⟩, fun _ _ _ => rfl⟩
theorem plainReg_clkStat : PlainReg 0x300 .clk 0 := ⟨⟨rfl, rfl, rfl⟩, fun _ _ _ => rfl⟩
theorem plainReg_clkSleep : PlainReg 0x304 .clk 4 := ⟨⟨rfl, rfl, rfl⟩, fun _ _ _ => rfl⟩
theorem plainReg_rotCtrl : PlainReg 0x400 .rot 0 := ⟨⟨rfl, rfl, rfl⟩, fun _ _ _ => rfl⟩
theorem plainReg_rotSel : PlainReg 0x420 .rot 0x20 := ⟨⟨rfl, rfl, rfl⟩, fun _ _ _ => rfl⟩
theorem plainReg_mtStat : PlainReg 0x600 .mt 0 := ⟨⟨rfl, rfl, rfl⟩, fun _ _ _ => rfl⟩
theorem plainReg_sigSel : PlainReg 0x804 .igm 4 := ⟨⟨rfl, rfl, rfl⟩, fun s who v => by rw [s.bayWrite_igm, if_neg (by omega)]⟩
theorem plainReg_igCtrl : PlainReg 0x80C .igm 0xC := ⟨⟨rfl, rfl, rfl⟩, fun s who v => by rw [s.bayWrite_igm, if_neg (by omega)]⟩
theorem plainReg_pwrCtrl : PlainReg 0x2004 .pwr 4 := ⟨⟨rfl, rfl, rfl⟩, fun _ _ _ => rfl⟩
theorem plainReg_nvCtrl : PlainReg 0x8000 .nv 0 := ⟨⟨rfl, rfl, rfl⟩, fun _ _ _ => rfl⟩
theorem plainReg_nvTarget : PlainReg 0x8008 .nv 8 := ⟨⟨rfl, rfl, rfl⟩, fun _ _ _ => rfl⟩
theorem plainReg_nvData (j : Fin 64) : PlainReg (0x8100 + 4 * j) .nv (0x100 + 4 * j) := ⟨regHere_nvData j, fun _ _ _ => rfl⟩
theorem plainReg_hbCtrl (n : Fin 8) : PlainReg (0x10004 + 0x1000 * n) (.hb n) 4 := ⟨regHere_stack (o := 4) n rfl (by omega) rfl, fun _ _ _ => rfl⟩
theorem plainReg_talSel (n : Fin 8) : PlainReg (0x10040 + 0x1000 * n) (.hb n) 0x40 := ⟨regHere_stack (o := 0x40) n rfl (by omega) rfl, fun _ _ _ => rfl⟩

section
variable (c : Fin 800) (k : Fin 16)

theorem plainReg_brkCtrl : PlainReg (0x1000000 + 0x10000 * c + 4) (.brk c) 4 :=
  ⟨regHere_cove c rfl (by omega) rfl rfl, fun _ _ _ => rfl⟩
theorem plainReg_tolerance (j : Fin 16) (isAbs : Bool) :
    PlainReg (0x1000000 + 0x10000 * c + 0x80 + 8 * j + if isAbs then 4 else 0) (.brk c) (0x80 + 8 * j + if isAbs then 4 else 0) :=
  ⟨regHere_tolerance c j isAbs, fun _ _ _ => rfl⟩
theorem plainReg_cnCtrl : PlainReg (0x1000000 + 0x10000 * c + 0x4004) (.cn c) 4 :=
  ⟨regHere_cove c rfl (by omega) rfl rfl, fun _ _ _ => rfl⟩
theorem plainReg_cnEpoch : PlainReg (0x1000000 + 0x10000 * c + 0x400C) (.cn c) 0xC :=
  ⟨regHere_cove c rfl (by omega) rfl rfl, fun _ _ _ => rfl⟩
theorem plainReg_tfCtrl : PlainReg (0x1000000 + 0x10000 * c + 0x8020) (.tf c) 0x20 :=
  ⟨regHere_cove c rfl (by omega) rfl rfl, fun s who v => by rw [s.bayWrite_tf, if_neg (by omega)]⟩

theorem pebbleOff_mod {r : Nat} (hr : r < 0x40) : (0x40 * k.val + r) % 0x40 = r := by omega

theorem pebbleOff_core {r : Nat} (hr : r < 0x40) : Fin.ofNat 16 ((0x40 * k.val + r) / 0x40) = k := by
  have hdiv : (0x40 * k.val + r) / 0x40 = k := by omega
  rw [hdiv, Fin.ofNat_val_eq_self]

/-- A debug register of a core, which sessions of a bay do not write. -/
theorem plainReg_debug {r : Nat} (hr : r = 0x14 ∨ r = 0x18 ∨ r = 0x24) :
    PlainReg (0x1000000 + 0x10000 * c + 0x400 + 0x40 * k + r) (.pb c) (0x40 * k + r) := by
  refine ⟨regHere_pebble c k (by omega) (by omega), fun s who v => ?_⟩
  rw [s.bayWrite_pb, pebbleOff_mod k (by omega), if_neg (by omega)]

end

end Sys2Proof.Machine
end

section
/-!
SUPPORT. Writes of registers, field by field (R9, R10, R131, R247, R482).
-/

namespace Sys2Proof.Machine

section
variable {s : State} {who : Requester} {v : Word}

/-! What the module owner's writes leave. -/

theorem State.ownerWrite_nvData (j : Fin 64) (h : s.mg.nvState ≠ 1) : s.ownerWrite who .nv (0x100 + 4 * j) v =
    some { s with mg := { s.mg with nvData := s.mg.nvData.set 0 j v } } := by
  have hslot : (0x100 + 4 * j.val - 0x100) / 4 = j := by omega
  simp only [State.ownerWrite]
  rw [if_neg (by omega), if_neg (by omega), if_pos (by omega), if_neg h, hslot]

theorem State.ownerWrite_debug (c : Fin 800) (k : Fin 16) {r : Nat} (hr : r = 0x14 ∨ r = 0x18 ∨ r = 0x24) :
    s.ownerWrite who (.pb c) (0x40 * k + r) v = some (s.writePb ⟨c, k⟩ r v) := by
  simp only [State.ownerWrite]
  rw [pebbleOff_mod k (by omega), pebbleOff_core k (by omega), if_pos hr, Fin.ofNat_val_eq_self]

theorem State.ownerWrite_nvGo : s.ownerWrite who .nv 0 v =
    some (if v.getLsbD 0 = false then s
      else if s.mg.nvTarget.getLsbD 0 then s.after (execNvGoSlotChunk who) else s.after (execNvGoOwnerRecord who)) := by
  simp only [State.ownerWrite]
  cases v.getLsbD 0 <;> rfl

theorem State.writePb_ctrl (r : CoreRef) : s.writePb r 0x14 v = s.writePbCtrl r v := rfl

theorem State.writePb_bkpt (r : CoreRef) : s.writePb r 0x18 v = s.modCore r fun k =>
    { k with
      bkpt := v.setWidth 14
      state := if k.bkpt ≠ v.setWidth 14 ∧ k.state = 1 ∧ k.ctl.getLsbD 2 = true ∧ k.pc = (v.setWidth 14).toNat / 4 * 4 then 4 else k.state } := by
  show (s.modCore r fun k => if k.bkpt = v.setWidth 14 then k else PCore.atBreak { k with bkpt := v.setWidth 14 }) = _
  congr 1
  funext k
  by_cases hsame : k.bkpt = v.setWidth 14
  · rw [← hsame]
    simp
  · simp only [hsame, if_false, PCore.atBreak, ne_eq, not_false_eq_true, true_and]
    split <;> rfl

section
variable (hwho : ∀ r, who ≠ .core r) (h : s.isOwner who = true)
include hwho h

/-- ROT_CTRL: INTERVAL and PAUSE. -/
theorem registerWrite_rotCtrl : exec (.registerWrite who (BitVec.ofNat 48 (0xF00000000000 + 0x400)) v) s =
    .next { s with rot := { s.rot with interval := v.setWidth 16, pause := v.getLsbD 16 } } := by
  have hinterval : s.after (execRotIntervalWrite who (v.setWidth 16)) = { s with rot := { s.rot with interval := v.setWidth 16 } } :=
    State.after_of_next (occurs_owner h _)
  rw [plainReg_rotCtrl.owner hwho h rfl, hinterval]
  have howner : State.isOwner { s with rot := { s.rot with interval := v.setWidth 16 } } who = true :=
    (State.isOwner_of_sessions rfl who).trans h
  exact congrArg _ (State.after_of_next (occurs_owner howner _))

/-- PWR_CTRL: OP_TARGET, then HINT_MV. -/
theorem registerWrite_pwrCtrl {t : State} (ht : exec (.pwrOpTargetWrite who (v.setWidth 4)) s = .next t) :
    exec (.registerWrite who (BitVec.ofNat 48 (0xF00000000000 + 0x2004)) v) s = exec (.pwrHintMvWrite who (v.extractLsb' 4 6)) t := by
  rw [plainReg_pwrCtrl.owner hwho h rfl, State.after_of_next (f := execPwrOpTargetWrite who (v.setWidth 4)) ht]
  exact State.next_after (.occurs _ _ _)

/-- NV_CTRL.GO. -/
theorem registerWrite_nvGo : exec (.registerWrite who (BitVec.ofNat 48 (0xF00000000000 + 0x8000)) v) s =
    if v.getLsbD 0 = false then .next s
    else if s.mg.nvTarget.getLsbD 0 then exec (.nvGoSlotChunk who) s else exec (.nvGoOwnerRecord who) s := by
  rw [plainReg_nvCtrl.owner hwho h State.ownerWrite_nvGo]
  split
  · rfl
  · split
    · exact State.next_after (.occurs _ _ _)
    · exact State.next_after (.occurs _ _ _)

/-- HB_CTRL: SCRUB_EN, then INJ_CE. -/
theorem registerWrite_hbCtrl (n : Fin 8) {t : State} (ht : exec (.hbScrubEn who n (v.getLsbD 0)) s = .next t) :
    exec (.registerWrite who (BitVec.ofNat 48 (0xF00000000000 + (0x10004 + 0x1000 * n))) v) s =
      if v.getLsbD 1 then exec (.hbInjCe who n) t else .next t := by
  have hown : s.ownerWrite who (.hb n) 4 v = some (if v.getLsbD 1 then (s.after (execHbScrubEn who n (v.getLsbD 0))).after (execHbInjCe who n)
      else s.after (execHbScrubEn who n (v.getLsbD 0))) := by
    simp [State.ownerWrite]
  rw [(plainReg_hbCtrl n).owner hwho h hown]
  exact State.next_ite_after ht (.occurs _ _ _)

/-- BRK_CTRL: FILL_EN, then INJ_CK. -/
theorem registerWrite_brkCtrl (c : Fin 800) {t : State} (ht : exec (.brkFillEn who c (v.getLsbD 0)) s = .next t) :
    exec (.registerWrite who (BitVec.ofNat 48 (0xF00000000000 + (0x1000000 + 0x10000 * c + 4))) v) s =
      if v.getLsbD 1 then exec (.brkInjCk who c) t else .next t := by
  have hown : s.ownerWrite who (.brk c) 4 v = some (if v.getLsbD 1 then (s.after (execBrkFillEn who c (v.getLsbD 0))).after (execBrkInjCk who c)
      else s.after (execBrkFillEn who c (v.getLsbD 0))) := by
    simp [State.ownerWrite]
  rw [(plainReg_brkCtrl c).owner hwho h hown]
  exact State.next_ite_after ht (.occurs _ _ _)

/-- CN_CTRL: the mask of 0xE408, then INJ_PAR. -/
theorem registerWrite_cnCtrl (c : Fin 800) {t : State} (ht : exec (.cnE408Mask who c (v.getLsbD 0)) s = .next t) :
    exec (.registerWrite who (BitVec.ofNat 48 (0xF00000000000 + (0x1000000 + 0x10000 * c + 0x4004))) v) s =
      if v.getLsbD 1 then exec (.cnInjPar who c) t else .next t := by
  have hown : s.ownerWrite who (.cn c) 4 v = some (if v.getLsbD 1 then (s.after (execCnE408Mask who c (v.getLsbD 0))).after (execCnInjPar who c)
      else s.after (execCnE408Mask who c (v.getLsbD 0))) := by
    simp [State.ownerWrite]
  rw [(plainReg_cnCtrl c).owner hwho h hown]
  exact State.next_ite_after ht (.occurs _ _ _)

/-- TF_CTRL.INJ_PAR. -/
theorem registerWrite_tfCtrl (c : Fin 800) :
    exec (.registerWrite who (BitVec.ofNat 48 (0xF00000000000 + (0x1000000 + 0x10000 * c + 0x8020))) v) s =
      if v.getLsbD 0 then exec (.tfInjPar who c) s else .next s := by
  have hown : s.ownerWrite who (.tf c) 0x20 v = some (if v.getLsbD 0 then s.after (execTfInjPar who c) else s) := by
    simp [State.ownerWrite]
  rw [(plainReg_tfCtrl c).owner hwho h hown]
  split
  · exact State.next_after (.occurs _ _ _)
  · rfl

/-- A debug register of a core. -/
theorem registerWrite_debug (c : Fin 800) (k : Fin 16) {r : Nat} (hr : r = 0x14 ∨ r = 0x18 ∨ r = 0x24) :
    exec (.registerWrite who (BitVec.ofNat 48 (0xF00000000000 + (0x1000000 + 0x10000 * c + 0x400 + 0x40 * k + r))) v) s =
      .next (s.writePb ⟨c, k⟩ r v) :=
  (plainReg_debug c k hr).owner hwho h (s.ownerWrite_debug c k hr)

/-- PB_CTRL without a step: HALT, BKPT_EN and TRAP_EN in this order. -/
theorem registerWrite_pbCtrl (c : Fin 800) (k : Fin 16) (hstep : ¬ (v.getLsbD 1 = true ∧ (s.core ⟨c, k⟩).state = 4)) {t u : State}
    (ht : exec (.pbHalt who ⟨c, k⟩ (v.getLsbD 0)) s = .next t) (hu : exec (.pbBkptEn who ⟨c, k⟩ (v.getLsbD 2)) t = .next u) :
    exec (.registerWrite who (BitVec.ofNat 48 (0xF00000000000 + (0x1000000 + 0x10000 * c + 0x400 + 0x40 * k + 0x14))) v) s =
      exec (.pbTrapEn who ⟨c, k⟩ (v.getLsbD 3)) u := by
  cases ht.symm.trans (occurs_owner h (s.pbHalt ⟨c, k⟩ (v.getLsbD 0)))
  have hhalt : (s.pbHalt ⟨c, k⟩ (v.getLsbD 0)).isOwner who = true := (State.isOwner_of_sessions rfl who).trans h
  cases hu.symm.trans (exec_pbBkptEn_owner hhalt _ _)
  have hbkpt : ((s.pbHalt ⟨c, k⟩ (v.getLsbD 0)).pbBkptEn ⟨c, k⟩ (v.getLsbD 2)).isOwner who = true :=
    (State.isOwner_of_sessions rfl who).trans hhalt
  have hctrl : s.writePb ⟨c, k⟩ 0x14 v =
      ((s.pbHalt ⟨c, k⟩ (v.getLsbD 0)).pbBkptEn ⟨c, k⟩ (v.getLsbD 2)).pbTrapEn ⟨c, k⟩ (v.getLsbD 3) := by
    rw [State.writePb_ctrl, State.writePbCtrl, if_neg hstep]
  rw [registerWrite_debug hwho h c k (.inl rfl), hctrl]
  exact (occurs_owner hbkpt _).symm

/-- PB_CTRL.STEP1 of a halted core. -/
theorem registerWrite_pbStep (c : Fin 800) (k : Fin 16) (hbit : v.getLsbD 1 = true) (hhalted : (s.core ⟨c, k⟩).state = 4) {t : State}
    (ht : exec (.pbStep1 who ⟨c, k⟩) (s.modCore ⟨c, k⟩ fun k => { k with ctl := v.setWidth 4 &&& 0xD }) = .next t) :
    exec (.registerWrite who (BitVec.ofNat 48 (0xF00000000000 + (0x1000000 + 0x10000 * c + 0x400 + 0x40 * k + 0x14))) v) s = .next t := by
  have howner : (s.modCore ⟨c, k⟩ fun k => { k with ctl := v.setWidth 4 &&& 0xD }).isOwner who = true :=
    (State.isOwner_of_sessions rfl who).trans h
  rw [exec_pbStep1, execPbStep1, if_pos howner] at ht
  have hctrl : s.writePb ⟨c, k⟩ 0x14 v =
      (s.modCore ⟨c, k⟩ fun k => { k with ctl := v.setWidth 4 &&& 0xD }).after fun t => t.pbStep1 ⟨c, k⟩ := by
    rw [State.writePb_ctrl, State.writePbCtrl, if_pos ⟨hbit, hhalted⟩]
  rw [registerWrite_debug hwho h c k (.inl rfl), hctrl, State.after_of_next ht]

end

/-! The registers that sessions of a bay write. -/

theorem State.bayOwns_iff {c : Nat} : s.bayOwns who c = true ↔
    s.isOwner who = true ∨ ∃ b, s.bayOf c = some b ∧ s.ownsBay who b [.bay] = true := by
  simp only [State.bayOwns, Bool.or_eq_true, Option.any_eq_true]

theorem State.bayOwns_eq_false {c : Nat} (howner : s.isOwner who = false) (hbay : ∀ n, s.bayOf c = some n → s.ownsBay who n [.bay] = false) :
    s.bayOwns who c = false := by
  refine Bool.eq_false_iff.mpr fun hc => ?_
  rcases State.bayOwns_iff.mp hc with hown | ⟨b, hb, hown⟩
  · rw [howner] at hown
    cases hown
  · rw [hbay b hb] at hown
    cases hown

theorem bits_low3 (v : Word) : bits v 0 3 = v.toNat % 8 := rfl

theorem State.bayWrite_bayCfg (b : Fin 16) : s.bayWrite who .igm (0x40 + 4 * b) v =
    if s.ownsBay who b [.bay] = true ∧ v.toNat % 8 ≤ 4 then some (s.after (execIgBayCfgWrite who b v)) else none := by
  have hb : (0x40 + 4 * b.val - 0x40) / 4 = b := by omega
  rw [State.bayWrite_igm, hb, Fin.ofNat_val_eq_self, bits_low3]
  have hoff : (0x40 ≤ 0x40 + 4 * b.val ∧ 0x40 + 4 * b.val < 0x80 ∧ s.ownsBay who b [.bay] = true ∧ v.toNat % 8 ≤ 4) ↔
      s.ownsBay who b [.bay] = true ∧ v.toNat % 8 ≤ 4 := ⟨fun hc => hc.2.2, fun hc => ⟨by omega, by omega, hc⟩⟩
  simp only [hoff]

end

end Sys2Proof.Machine
end

section
/-!
SUPPORT. Writes of registers by sessions of a bay, Headland and cores; the statement about all of them.
-/

namespace Sys2Proof.Machine

/-! Sessions that may not write. -/

/-- A row of addresses, none of which a session writes that is not the module owner's. -/
theorem registerWrites_refused {s : State} {b i : Fin 16} {v : Word} (h : s.isOwner (.session b i) = false) {as : List Nat}
    (has : ∀ a ∈ as, ∃ k o, PlainReg a k o) :
    ∀ a ∈ as, exec (.registerWrite (.session b i) (BitVec.ofNat 48 (0xF00000000000 + a)) v) s = .next s := by
  intro a ha
  obtain ⟨k, o, hreg⟩ := has a ha
  exact hreg.refused h

/-- The addresses that the statement names lie at plain registers. -/
theorem plainRegs_of_owner (c : Fin 800) (k : Fin 16) (n : Fin 8) :
    let cove : Nat := 0x1000000 + 0x10000 * c
    let pb : Nat := cove + 0x400 + 0x40 * k
    ∀ a ∈ ([0x20, 0x300, 0x304, 0x400, 0x420, 0x600, 0x804, 0x80C, 0x2004, 0x8000, 0x8008, 0x8100, 0x10004 + 0x1000 * n, 0x10040 + 0x1000 * n,
        cove + 4, cove + 0x80, cove + 0x4004, cove + 0x400C, cove + 0x8020, pb + 0x14, pb + 0x18, pb + 0x24] : List Nat), ∃ k o, PlainReg a k o := by
  simp only [List.forall_mem_cons, List.not_mem_nil, false_imp_iff, implies_true, and_true]
  exact ⟨⟨_, _, plainReg_logSel⟩, ⟨_, _, plainReg_clkStat⟩, ⟨_, _, plainReg_clkSleep⟩, ⟨_, _, plainReg_rotCtrl⟩, ⟨_, _, plainReg_rotSel⟩,
    ⟨_, _, plainReg_mtStat⟩, ⟨_, _, plainReg_sigSel⟩, ⟨_, _, plainReg_igCtrl⟩, ⟨_, _, plainReg_pwrCtrl⟩, ⟨_, _, plainReg_nvCtrl⟩,
    ⟨_, _, plainReg_nvTarget⟩, ⟨_, _, plainReg_nvData 0⟩, ⟨_, _, plainReg_hbCtrl n⟩, ⟨_, _, plainReg_talSel n⟩, ⟨_, _, plainReg_brkCtrl c⟩,
    ⟨_, _, plainReg_tolerance c 0 false⟩, ⟨_, _, plainReg_cnCtrl c⟩, ⟨_, _, plainReg_cnEpoch c⟩, ⟨_, _, plainReg_tfCtrl c⟩,
    ⟨_, _, plainReg_debug c k (.inl rfl)⟩, ⟨_, _, plainReg_debug c k (.inr (.inl rfl))⟩, ⟨_, _, plainReg_debug c k (.inr (.inr rfl))⟩⟩

theorem regHere_headSel (c : Fin 800) : RegHere (0x1000000 + 0x10000 * c + 0x1020) (.ch c) 0x20 := regHere_cove c rfl (by omega) rfl rfl

theorem regHere_exc (c : Fin 800) (k : Fin 16) : RegHere (0x1000000 + 0x10000 * c + 0x400 + 0x40 * k + 0xC) (.pb c) (0x40 * k + 0xC) :=
  regHere_pebble c k rfl (by omega)

theorem regHere_viol (c : Fin 800) : RegHere (0x1000000 + 0x10000 * c + 0x8008) (.tf c) 8 := regHere_cove c rfl (by omega) rfl rfl

section
variable {s : State} {who : Requester} {v : Word}

/-! Writes of a bay's sessions. -/

theorem State.bayWrite_headSel (c : Fin 800) : s.bayWrite who (.ch c) 0x20 v =
    if s.readsCove who c = true then some (s.after (execChHeadSel who c v)) else none := by
  simp [State.bayWrite]

theorem State.bayWrite_exc (c : Fin 800) (k : Fin 16) : s.bayWrite who (.pb c) (0x40 * k + 0xC) v =
    if s.bayOwns who c = true then some (s.writePb ⟨c, k⟩ 0xC v) else none := by
  rw [State.bayWrite_pb, pebbleOff_mod k (by omega), pebbleOff_core k (by omega), Fin.ofNat_val_eq_self]
  simp only [true_and]

theorem State.writePb_exc (c : Fin 800) (k : Fin 16) : s.writePb ⟨c, k⟩ 0xC v = s.modCore ⟨c, k⟩ fun x =>
    { x with excNew := x.excNew && (!v.getLsbD 16 || x.excNo != ((s.cut.coves.get {} c).core k).excNo) } := rfl

section
variable (hwho : ∀ r, who ≠ .core r)
include hwho

theorem registerWrite_bayCfg (b : Fin 16) (hown : s.ownsBay who b [.bay] = true) (hlevel : v.toNat % 8 ≤ 4) :
    exec (.registerWrite who (BitVec.ofNat 48 (0xF00000000000 + (0x840 + 4 * b))) v) s = exec (.igBayCfgWrite who b v) s := by
  have hbay := (State.bayWrite_bayCfg (s := s) (who := who) (v := v) b).trans (if_pos ⟨hown, hlevel⟩)
  rw [registerWrite_bay (regHere_bayCfg b) hwho hbay]
  exact State.next_after (.occurs _ _ _)

theorem registerWrite_headSel (c : Fin 800) (hreads : s.readsCove who c = true) :
    exec (.registerWrite who (BitVec.ofNat 48 (0xF00000000000 + (0x1000000 + 0x10000 * c + 0x1020))) v) s = exec (.chHeadSel who c v) s := by
  have hbay := (State.bayWrite_headSel (s := s) (who := who) (v := v) c).trans (if_pos hreads)
  rw [registerWrite_bay (regHere_headSel c) hwho hbay]
  exact State.next_after (.occurs _ _ _)

/-- Outside the management space, and between its words. -/
theorem registerWrite_noRegister {a : Nat} (ha : a % 4 ≠ 0 ∨ a < 0xF00000000000 ∨ 0xF00000000000 + mgmtSize ≤ a) (hlt : a < 2 ^ 48) :
    exec (.registerWrite who (BitVec.ofNat 48 a) v) s = .next s := by
  refine registerWrite_outside hwho ?_
  rw [BitVec.toNat_ofNat, Nat.mod_eq_of_lt hlt, mgmtOff, mgmtBase, if_neg (by omega)]

end

theorem registerWrite_exc (c : Fin 800) (k : Fin 16) (hwho : ∀ r, who ≠ .core r) (hown : s.bayOwns who c = true) :
    exec (.registerWrite who (BitVec.ofNat 48 (0xF00000000000 + (0x1000000 + 0x10000 * c + 0x400 + 0x40 * k + 0xC))) v) s =
      .next (s.modCore ⟨c, k⟩ fun x =>
        { x with excNew := x.excNew && (!v.getLsbD 16 || x.excNo != ((s.cut.coves.get {} c).core k).excNo) }) := by
  have hbay := (State.bayWrite_exc (s := s) (who := who) (v := v) c k).trans (if_pos hown)
  rw [registerWrite_bay (regHere_exc c k) hwho hbay, State.writePb_exc]

theorem registerWrite_viol (c : Fin 800) (hwho : ∀ r, who ≠ .core r) (hown : s.bayOwns who c = true) :
    exec (.registerWrite who (BitVec.ofNat 48 (0xF00000000000 + (0x1000000 + 0x10000 * c + 0x8008))) v) s =
      .next (s.modCove c fun x => { x with tide := { x.tide with
        violNew := x.tide.violNew && (!v.getLsbD 23 || x.tide.violNo != (s.cut.coves.get {} c).tide.violNo) } }) :=
  registerWrite_bay (regHere_viol c) hwho ((s.bayWrite_tf who c 8 v).trans (if_pos ⟨rfl, hown⟩))

/-! Headland and the cores. -/

theorem State.headlandWrite_tolerance (c : Fin 800) (j : Fin 16) (isAbs : Bool) :
    s.headlandWrite (.brk c) (0x80 + 8 * j + if isAbs then 4 else 0) v = s.writeTol .headland c j isAbs v := by
  have hentry : (0x80 + 8 * j.val + (if isAbs then 4 else 0) - 0x80) / 8 = j := by cases isAbs <;> (simp only [Bool.false_eq_true, if_false, if_true]; omega)
  have hkind : ((0x80 + 8 * j.val + if isAbs then 4 else 0) % 8 == 4) = isAbs := by
    cases isAbs with
    | false => exact beq_eq_false_iff_ne.mpr (by simp only [Bool.false_eq_true, if_false]; omega)
    | true => exact beq_iff_eq.mpr (by simp only [if_true]; omega)
  simp only [State.headlandWrite]
  rw [hentry, hkind, if_pos (by omega)]

theorem registerWrite_tolerance (c : Fin 800) (j : Fin 16) (isAbs : Bool) :
    exec (.registerWrite .headland (BitVec.ofNat 48 (0xF00000000000 + (0x1000000 + 0x10000 * c + 0x80 + 8 * j + if isAbs then 4 else 0))) v) s =
      exec (.toleranceWrite .headland c j isAbs v) s := by
  have hown : s.ownerWrite .headland (.brk c) (0x80 + 8 * j + if isAbs then 4 else 0) v = none := if_neg (by omega)
  rw [(plainReg_tolerance c j isAbs).headland hown, State.headlandWrite_tolerance]
  rfl

theorem registerWrite_epoch (c : Fin 800) :
    exec (.registerWrite .headland (BitVec.ofNat 48 (0xF00000000000 + (0x1000000 + 0x10000 * c + 0x400C))) v) s =
      .next (s.modCove c fun x => { x with net := x.net.writeEpoch s.netUnits v }) :=
  (plainReg_cnEpoch c).headland rfl

/-- A core writes the words of its own cove's stream block. -/
theorem registerWrite_stream (c : Fin 800) (k : Fin 16) (j : Fin 3) {l : Nat} (hl : s.streamAt c = some l) :
    exec (.registerWrite (.core ⟨c, k⟩) (BitVec.ofNat 48 (0xF00000000000 + (0x1000000 + 0x10000 * c + 0x204 + 4 * j))) v) s =
      .next (s.modStream l fun p => { p with d := p.d.set 0 j v }) := by
  have hc := c.isLt
  have hj := j.isLt
  have haddr := mgmtAddr_toNat (a := 0x1000000 + 0x10000 * c + 0x204 + 4 * j) (by unfold mgmtSize; omega)
  have hoff : mgmtBase + (0x1000000 + 0x10000 * c.val + 0x204 + 4 * j) - (mgmtBase + coveBase c) = 0x204 + 4 * j := by
    unfold coveBase
    omega
  have hword : (0x204 + 4 * j.val - 0x204) / 4 = j := by omega
  rw [exec_registerWrite]
  simp only [execRegisterWrite, haddr, hoff, hl, hword]
  refine if_pos ⟨?_, by omega, by omega, by omega, by omega⟩
  unfold coveBase
  omega

end

/-- Settles O20: the module owner's registers, those of a bay's sessions, what a session may not write, and the writes of Headland and the cores. -/
theorem plainRegisterWritesStoreTheirField : Obligations.PlainRegisterWritesStoreTheirField := by
  intro s who v c k n b at_ cove pb core old
  refine ⟨fun hwho h => ?_, fun hwho => ?_, fun b' i h => ?_, fun hwho => ?_, fun hwho j l hl => ?_⟩
  · refine ⟨plainReg_logSel.owner_after hwho h rfl (.occurs _ _ _), plainReg_clkStat.owner hwho h rfl, plainReg_clkSleep.owner hwho h rfl,
      registerWrite_rotCtrl hwho h, plainReg_rotSel.owner hwho h rfl, plainReg_mtStat.owner hwho h rfl, plainReg_sigSel.owner hwho h rfl,
      plainReg_igCtrl.owner_after hwho h rfl (.occurs _ _ _), fun t => registerWrite_pwrCtrl hwho h, registerWrite_nvGo hwho h,
      plainReg_nvTarget.owner hwho h rfl, fun j hidle => (plainReg_nvData j).owner hwho h (State.ownerWrite_nvData j hidle),
      fun t => registerWrite_hbCtrl hwho h n, (plainReg_talSel n).owner hwho h rfl, fun t => registerWrite_brkCtrl hwho h c,
      fun t => registerWrite_cnCtrl hwho h c, registerWrite_tfCtrl hwho h c, fun hstep t u => registerWrite_pbCtrl hwho h c k hstep,
      fun hbit hhalted t => registerWrite_pbStep hwho h c k hbit hhalted, ?_, ?_⟩
    · exact (registerWrite_debug hwho h c k (.inr (.inl rfl))).trans (congrArg _ (State.writePb_bkpt core))
    · exact registerWrite_debug hwho h c k (.inr (.inr rfl))
  · refine ⟨registerWrite_bayCfg hwho b, registerWrite_headSel hwho c, fun hown => ?_, fun a => registerWrite_noRegister hwho⟩
    have hbay : s.bayOwns who c = true := State.bayOwns_iff.mpr hown
    exact ⟨registerWrite_exc c k hwho hbay, registerWrite_viol c hwho hbay⟩
  · refine ⟨registerWrites_refused h (plainRegs_of_owner c k n), fun hbay => ?_, fun hreads => ?_, fun hbay => ?_⟩
    · rw [Nat.add_assoc]
      refine registerWrite_refused (regHere_bayCfg b) h ((State.bayWrite_bayCfg b).trans (if_neg ?_))
      simp [hbay]
    · rw [Nat.add_assoc]
      refine registerWrite_refused (regHere_headSel c) h ((State.bayWrite_headSel c).trans (if_neg ?_))
      simp [hreads]
    · have hno : s.bayOwns (.session b' i) c = false := State.bayOwns_eq_false h hbay
      simp only [List.forall_mem_cons, List.not_mem_nil, false_imp_iff, implies_true, and_true]
      refine ⟨registerWrite_refused (regHere_exc c k) h ((State.bayWrite_exc c k).trans (if_neg ?_)),
        registerWrite_refused (regHere_viol c) h ((s.bayWrite_tf _ c 8 v).trans (if_neg ?_))⟩
      · simp [hno]
      · simp [hno]
  · subst hwho
    exact ⟨registerWrite_tolerance c, registerWrite_epoch c⟩
  · subst hwho
    exact registerWrite_stream c k j hl

end Sys2Proof.Machine
end

section
/-!
SUPPORT. What the shared operations of the step commands leave of bays, coves and shadows: many coves changed, a step's record added, the rollback
column of Table 2.2.
-/

namespace Sys2Proof.Machine

/-! Tables and coves changed together. -/

theorem rowsFind_map {α : Type} (f : Nat → α → α) (l : List (Nat × α)) (k : Nat) :
    rowsFind (l.map fun r => (r.1, f r.1 r.2)) k = (rowsFind l k).map (f k) := by
  induction l with
  | nil => rfl
  | cons r t ih =>
    simp only [List.map_cons, rowsFind, ih]
    split
    · next h => rw [h, Option.map_some]
    · rfl

/-- A reading `g` of a table's values after `f` has changed those listed: what it gives goes over into `h` of itself, also where `k` is not listed. -/
theorem Tab.read_map {α β : Type} (t : Tab α) (d : α) (k : Nat) (f : Nat → α → α) (g : α → β) (h : β → β) (hlisted : ∀ x, g (f k x) = h (g x))
    (hdefault : h (g d) = g d) : g ((t.map f).get d k) = h (g (t.get d k)) := by
  rw [Tab.get, Tab.find, Tab.map, rowsFind_map, Tab.get, Tab.find]
  cases rowsFind t.rows k with
  | none => exact hdefault.symm
  | some x => exact hlisted x

/-- A part of every cove that the changes of some coves keep. -/
theorem State.read_modCoves {β : Type} (g : Cove → β) {f : Nat → Cove → Cove} (hkeeps : ∀ c v, g (f c v) = g v) (s : State) (cs : List Nat) (c : Nat) :
    g ((s.modCoves cs f).cove c) = g (s.cove c) := by
  refine List.foldlRecOn (motive := fun t : State => g (t.cove c) = g (s.cove c)) cs _ rfl fun t ht d _ => ?_
  rcases eq_or_ne c d with rfl | hne
  · rw [State.modCove_cove, hkeeps, ht]
  · rw [State.modCove_cove_other _ _ hne, ht]

theorem State.get_bay_of_bays {s t : State} (h : t.bays = s.bays) (b : Nat) : t.bay b = s.bay b := congrArg (fun x : Tab Bay => x.get {} b) h

theorem State.get_stack_of_ctrls {s t : State} (h : t.ctrls = s.ctrls) (k : Nat) : t.stack k = s.stack k := congrArg (fun x : Tab Stack => x.get {} k) h

@[simp] theorem State.modCoves_get_bay (s : State) (cs : List Nat) (f : Nat → Cove → Cove) (b : Nat) : (s.modCoves cs f).bay b = s.bay b :=
  State.get_bay_of_bays (s.modCoves_only cs f .bays rfl) b

@[simp] theorem State.modCoves_clk (s : State) (cs : List Nat) (f : Nat → Cove → Cove) : (s.modCoves cs f).clk = s.clk :=
  s.modCoves_only cs f .clk rfl

/-! The rollback of a bay's steps from `n` on (R48). -/

theorem Cove.rollback_igState (v : Cove) (n cn cyc : Nat) (first : Option Nat) (tags : List (BitVec 2)) :
    (v.rollback n cn cyc first tags).ig.state = v.ig.state := rfl

section
variable (s : State) (b n : Nat)

theorem State.discard_bay : (s.discard b n).bay b =
    { s.bay b with
      st := { (s.bay b).st with
        lastEnd := s.clk.elapsed
        live := (s.bay b).st.live.filter fun r => decide (r.no < n)
        next := match ((s.bay b).st.live.filter fun r => decide (n ≤ r.no)).head? with
          | some r => r.no
          | none => (s.bay b).st.next }
      run := (s.bay b).run.map fun w =>
        { w with
          lastStep := w.lastStep.filter fun l => decide (l.1 < n)
          stepsBegun := w.stepsBegun - (((s.bay b).st.live.filter fun r => decide (n ≤ r.no)).filter fun r => !r.drain).length } } := by
  unfold State.discard
  extract_lets y gone s1 net s2 drop s3
  have hbay : s3.bay b = s.bay b := s.modCoves_get_bay _ _ b
  rw [State.modBay_bay]
  generalize s3.bay b = z at hbay ⊢
  subst hbay
  rfl

theorem State.discard_bay_other {d : Nat} (h : d ≠ b) : (s.discard b n).bay d = s.bay d := by
  unfold State.discard
  extract_lets y gone s1 net s2 drop s3
  rw [State.modBay_bay_other _ _ h]
  exact s.modCoves_get_bay _ _ d

/-- The rollback drops the uncommitted shadows of the steps rolled back, and no other (R48, R263). -/
theorem State.discard_shadows (k : Nat) : ((s.discard b n).stack k).shadows =
    (s.stack k).shadows.filter fun h => !(h.bay == b && !h.committed && decide (n ≤ h.step)) := by
  unfold State.discard
  extract_lets y gone s1 net s2 drop s3
  have hctrls : s1.ctrls = s.ctrls := s.modCoves_only _ _ .ctrls rfl
  have hdrop (l : List (Nat × StreamPort)) (x : Stack) : (l.foldl drop x).shadows = x.shadows :=
    List.foldlRecOn (motive := fun z : Stack => z.shadows = x.shadows) l drop rfl fun z hz r _ => by
      rw [← hz]
      simp only [drop, onlyIf]
      split <;> rfl
  have hrolled : (s2.stack k).shadows = (s1.stack k).shadows.filter fun h => !(h.bay == b && !h.committed && decide (n ≤ h.step)) :=
    Tab.read_map s1.ctrls {} k (fun _ x => x.rollback b n) Stack.shadows (List.filter _) (fun _ => rfl) rfl
  have hdropped : (s3.stack k).shadows = (s2.stack k).shadows :=
    Tab.read_map s2.ctrls {} k (fun _ x => s2.streams.rows.foldl drop x) Stack.shadows id (hdrop _) rfl
  rw [State.modBay_get_stack, hdropped, hrolled, State.get_stack_of_ctrls hctrls]

theorem State.discard_igState (c : Nat) : ((s.discard b n).cove c).ig.state = (s.cove c).ig.state := by
  unfold State.discard
  extract_lets y gone s1 net s2 drop s3
  have hrolled : (s1.cove c).ig.state = (s.cove c).ig.state :=
    State.read_modCoves (fun v => v.ig.state) (fun _ v => v.rollback_igState n _ _ _ _) s _ c
  have hdropped : (s2.cove c).ig.state = (s1.cove c).ig.state :=
    Tab.read_map s1.coves {} c (fun _ v => v.modNet fun w => w.dropWaiting b gone) (fun v => v.ig.state) id (fun _ => rfl) rfl
  exact hdropped.trans hrolled

end

theorem State.newStep_bay (s : State) (b no att : Nat) (two drain : Bool) : (s.newStep b no att two drain).bay b =
    { s.bay b with
      hang := { (s.bay b).hang with
        windowAt := if (s.bay b).hang.window then some ((s.bay b).hang.windowAt.getD s.clk.elapsed) else none }
      st := { (s.bay b).st with
        next := no + 1, twoStep := two, draining := false
        live := (s.bay b).st.live ++
          [{ no := no, attempt := att, drain := drain, two := two, level := (s.bay b).level, watch := (s.bay b).watchMask
             startedAt := s.clk.elapsed }]
        starts := (s.clk.elapsed :: (s.bay b).st.starts).take 1024 }
      run := if drain then (s.bay b).run else (s.bay b).run.map fun w => { w with stepsBegun := w.stepsBegun + 1 } } :=
  State.modBay_bay _ _ _

end Sys2Proof.Machine
end

section
/-!
SUPPORT. Commits (R46, R47, R55): what a commit leaves before output is released, an acknowledgement, the release of output in step order (R310).
-/

namespace Sys2Proof.Machine

section
variable (s : State) (b : Nat)

/-! Spent drain steps go with the commit. -/

theorem State.spendDrains_none (h : (s.bay b).st.spentDrains = []) : s.spendDrains b = s := by
  rw [State.spendDrains, h]

theorem State.spendDrains_some {d : StepRec} {ds : List StepRec} (h : (s.bay b).st.spentDrains = d :: ds) :
    s.spendDrains b = (s.discard b d.no).modBay b fun y => { y with st := { y.st with next := (s.bay b).st.next } } := by
  rw [State.spendDrains, h]

theorem State.spendDrains_acking : ((s.spendDrains b).bay b).st.acking = (s.bay b).st.acking := by
  cases hd : (s.bay b).st.spentDrains with
  | nil => rw [s.spendDrains_none b hd]
  | cons d ds => rw [s.spendDrains_some b hd, State.modBay_bay, State.discard_bay]

theorem State.spendDrains_bay_other {d : Nat} (hne : d ≠ b) : (s.spendDrains b).bay d = s.bay d := by
  cases hd : (s.bay b).st.spentDrains with
  | nil => rw [s.spendDrains_none b hd]
  | cons r ds => rw [s.spendDrains_some b hd, State.modBay_bay_other _ _ hne, s.discard_bay_other b _ hne]

theorem State.spendDrains_live {d : StepRec} {ds : List StepRec} (h : (s.bay b).st.spentDrains = d :: ds) :
    ((s.spendDrains b).bay b).st.live = (s.bay b).st.live.filter fun q => decide (q.no < d.no) := by
  rw [s.spendDrains_some b h, State.modBay_bay, State.discard_bay]

/-- The shadows of a step before every spent drain step stay. -/
theorem State.spendDrains_shadowHolders {n : Nat} (h : ∀ d ∈ (s.bay b).st.spentDrains, n < d.no) :
    (s.spendDrains b).shadowHolders b n = s.shadowHolders b n := by
  cases hd : (s.bay b).st.spentDrains with
  | nil => rw [s.spendDrains_none b hd]
  | cons d ds =>
    have hlater : n < d.no := h d (hd ▸ List.mem_cons_self)
    have hkept (x : Shadow) : (!(x.bay == b && !x.committed && decide (d.no ≤ x.step)) && (x.bay == b && x.step == n && !x.committed)) =
        (x.bay == b && x.step == n && !x.committed) := by
      by_cases hstep : x.step = n
      · rw [decide_eq_false (by omega), Bool.and_false, Bool.not_false, Bool.true_and]
      · rw [beq_false_of_ne hstep, Bool.and_false, Bool.false_and, Bool.and_false]
    rw [s.spendDrains_some b hd]
    simp only [State.shadowHolders, State.modBay_get_stack, State.discard_shadows, List.any_filter, hkept]

/-! The commit. -/

/-- A commit is a state in which the step has left the live ones and waits for its controllers, with output then released. -/
theorem State.commitStep_releases (r : StepRec) : ∃ u : State, s.commitStep b r = u.releaseReady b (u.bay b).st.acking.length
    ∧ (u.bay b).st.committed = r.no ∧ (u.bay b).st.live = ((s.spendDrains b).bay b).st.live.drop 1
    ∧ (u.bay b).st.acking = (s.bay b).st.acking ++ [{ r with committed := true, waitAck := (s.spendDrains b).shadowHolders b r.no }]
    ∧ (∀ k, u.stack k = ((s.spendDrains b).stack k).commit b r.no)
    ∧ u.hbm = s.hbm ∧ ∀ d, d ≠ b → u.bay d = s.bay d := by
  unfold State.commitStep
  extract_lets t holders mark s1 s2 s3 s4 s5
  have hspent : ChangesOnly [.coves, .ctrls, .streams, .bays, .net] s t := s.spendDrains_only b
  have hclosed : ChangesOnly [.coves] s1 s2 := ChangesOnly.foldl (fun _ _ => State.commitCloses_only _ _ _) _ (.refl _ _)
  have hmarked (k : Nat) : s1.stack k = (t.stack k).commit b r.no := Tab.read_map t.ctrls {} k (fun _ x => mark x) id mark (fun _ => rfl) rfl
  have hcoves : ChangesOnly [.coves] s1 s3 := hclosed.trans (State.modCoves_only _ _ _)
  have hbay (d : Nat) : s4.bay d = t.bay d := State.get_bay_of_bays (hcoves .bays rfl) d
  refine ⟨s5, rfl, ?_, ?_, ?_, fun k => ?_, ?_, fun d hne => ?_⟩
  · rw [State.modBay_bay]
  · rw [State.modBay_bay, hbay]
  · rw [State.modBay_bay, hbay, s.spendDrains_acking]
  · exact (State.get_stack_of_ctrls (hcoves .ctrls rfl) k).trans (hmarked k)
  · exact (hcoves .hbm rfl).trans (hspent .hbm rfl)
  · rw [State.modBay_bay_other _ _ hne, hbay, s.spendDrains_bay_other b hne]

theorem exec_commit_of_live {r : StepRec} {rest : List StepRec} (b : Fin 16) (n : CommitOf) (h : (s.bay b).st.live = r :: rest) : exec (.commit b n) s =
    occurs s (r.no == n.step.toNat && r.vote == some true && !r.drain && !s.coreHalted b && !s.streamsHold b r.no) (s.commitStep b (r.heldBad n.bad)) := by
  rw [exec_commit, execCommit, h]
  rfl

/-! Acknowledgements. -/

/-- The record once controller `k` has acknowledged the step, held bytes of `bad` marked. -/
def StepRec.ackedBy (r : StepRec) (k : Nat) (bad : List (BitVec 32)) : StepRec :=
  { r.heldBad bad with waitAck := r.waitAck.filter fun j => j != k }

/-- Does the record's step wait for controller `k`'s acknowledgement of step `n`? -/
def StepRec.waitsFor (r : StepRec) (n k : Nat) : Bool := r.no == n && r.waitAck.contains k

theorem StepRec.waitsFor_iff {r : StepRec} {n k : Nat} : r.waitsFor n k = true ↔ r.no = n ∧ k ∈ r.waitAck := by
  simp [StepRec.waitsFor]

/-- The state once controller `k` has acknowledged step `n` of bay `b`, before output is released. -/
def State.acked (n k : Nat) (bad : List (BitVec 32)) : State :=
  s.modBay b fun y => { y with st := { y.st with acking := y.st.acking.map fun r => onlyIf (r.waitsFor n k) (fun r => r.ackedBy k bad) r } }

theorem State.acked_acking (n k : Nat) (bad : List (BitVec 32)) : ((s.acked b n k bad).bay b).st.acking =
    (s.bay b).st.acking.map fun r => onlyIf (r.waitsFor n k) (fun r => r.ackedBy k bad) r := by
  rw [State.acked, State.modBay_bay]

theorem exec_commitAck_eq (b : Fin 16) (n : BitVec 48) (k : Fin 8) (bad : List (BitVec 32)) : exec (.commitAck b n k bad) s =
    occurs s (((s.bay b).st.acking.any fun r => r.waitsFor n.toNat k) && !(s.stack k).unlanded b n.toNat)
      ((s.acked b n.toNat k bad).releaseReady b (s.bay b).st.acking.length) := by
  have hlength : ((s.acked b n.toNat k bad).bay b).st.acking.length = (s.bay b).st.acking.length := by
    rw [State.acked_acking, List.length_map]
  rw [← hlength]
  rfl

/-! Release. -/

theorem State.releaseReady_waits {m : Nat} {r : StepRec} {rest : List StepRec} (h : (s.bay b).st.acking = r :: rest) (hwait : r.waitAck ≠ []) :
    s.releaseReady b m = s := by
  cases m with
  | zero => rfl
  | succ m =>
    rw [State.releaseReady, h]
    exact if_neg (by rwa [List.isEmpty_iff])

theorem State.releaseReady_next {m : Nat} {r : StepRec} {rest : List StepRec} (h : (s.bay b).st.acking = r :: rest) (hwait : r.waitAck = []) :
    s.releaseReady b (m + 1) =
      ((s.modBay b fun y => { y with st := { y.st with acking := rest } }).releaseStep b r).releaseReady b m := by
  rw [State.releaseReady, h]
  exact if_pos (by rw [hwait]; rfl)

/-- The output of a RUN that goes on: every part in the order of its offsets (R310). -/
theorem State.releaseStep_run {r : StepRec} {w : Work} (hending : (s.bay b).ending = []) (hrun : (s.bay b).run = some w) (hfirst : w.firstStep ≤ r.no)
    (hlast : w.lastStep = none) : s.releaseStep b r =
      ((sortParts r.held).foldl (fun t p => t.sendOutput b w r.no (p.data.length + 1) p.off p.off p.data p.bad)
        (s.modBay b fun y => { y with ending := [] })).modBay b fun y =>
          { y with run := some { w with outBad := w.outBad || r.held.any fun p => !p.bad.isEmpty } } := by
  have hsame : ((s.modBay b fun y => { y with ending := [] }).bay b).run = some w := by rw [State.modBay_bay, hrun]
  have hsends (t : State) : t.sendWork b r none w =
      ((sortParts r.held).foldl (fun t p => t.sendOutput b w r.no (p.data.length + 1) p.off p.off p.data p.bad) t,
        { w with outBad := w.outBad || r.held.any fun p => !p.bad.isEmpty }) := if_neg (by omega)
  simp only [State.releaseStep, hending, List.foldl_nil, hsame, hsends, hlast]

end

/-- Settles O26: the commit up to the release of output (`commitStep_releases`), one acknowledgement, one release. -/
theorem commitsReleaseShadowsAndOutput : Obligations.CommitsReleaseShadowsAndOutput := by
  refine ⟨fun s b n => ⟨fun r rest hlive => ?_, fun hnone => ?_⟩, fun s b n k bad => ⟨fun hwaits hlanded => ?_, fun hno => ?_⟩,
    fun u b r => ⟨fun m rest h => ⟨u.releaseReady_waits b h, u.releaseReady_next b h⟩, fun w => u.releaseStep_run b, fun bad => rfl⟩⟩
  · intro mine holders may
    have hmay : (r.no == n.step.toNat && r.vote == some true && !r.drain && !s.coreHalted b && !s.streamsHold b r.no) = true ↔ may := by
      simp [may, and_assoc]
    rw [exec_commit_of_live s b n hlive]
    refine ⟨fun hgoes hspent => ?_, fun hstays => occurs_false (Bool.eq_false_iff.mpr (mt hmay.mp hstays))⟩
    obtain ⟨u, hrelease, hcommitted, hulive, hacking, hstack, hhbm, hother⟩ := s.commitStep_releases b (r.heldBad n.bad)
    refine ⟨u, ?_, hcommitted, ?_, ?_, fun hnil k => ?_, hhbm, hother⟩
    · rw [occurs_true (hmay.mpr hgoes), hrelease, hacking, List.length_append]
      rfl
    · rw [hulive]
      cases hd : (s.bay b).st.spentDrains with
      | nil => rw [s.spendDrains_none b hd, hlive]; rfl
      | cons d ds =>
        have hbefore : r.no < d.no := hspent d (hd ▸ List.mem_cons_self)
        rw [s.spendDrains_live b hd, hlive, List.filter_cons_of_pos (by simpa using hbefore)]
        rfl
    · have hholders : (s.spendDrains b).shadowHolders b (r.heldBad n.bad).no = holders := s.spendDrains_shadowHolders b hspent
      rw [hacking, hholders]
    · rw [hstack, s.spendDrains_none b hnil]
      rfl
  · rw [exec_commit, execCommit, show (s.bay b).st.live = [] from hnone]
    rfl
  · rw [exec_commitAck_eq]
    refine ⟨s.acked b n.toNat k bad, occurs_true ?_, s.modBay_only _ _, fun d hd => State.modBay_bay_other _ _ hd, ?_, fun i r hr => ⟨fun hw => ?_, fun hw => ?_⟩⟩
    · obtain ⟨r, hr, hw⟩ := hwaits
      rw [hlanded, Bool.not_false, Bool.and_true]
      exact List.any_eq_true.mpr ⟨r, hr, StepRec.waitsFor_iff.mpr hw⟩
    · rw [State.acked_acking, List.length_map]
    · rw [State.acked_acking, List.getElem?_map, hr, Option.map_some, StepRec.waitsFor_iff.mpr hw]
      rfl
    · rw [State.acked_acking, List.getElem?_map, hr, Option.map_some, Bool.eq_false_iff.mpr (mt StepRec.waitsFor_iff.mp hw)]
      rfl
  · rw [exec_commitAck_eq]
    refine occurs_false (Bool.eq_false_iff.mpr fun hgoes => hno ?_)
    obtain ⟨hany, hlanded⟩ := Bool.and_eq_true_iff.mp hgoes
    obtain ⟨r, hr, hw⟩ := List.any_eq_true.mp hany
    exact ⟨⟨r, hr, StepRec.waitsFor_iff.mp hw⟩, (Bool.not_eq_true' _).mp hlanded⟩

end Sys2Proof.Machine
end

section
/-!
SUPPORT. A step that fails (R45, R48, R49, R203): its rollback, the replay that is decided, or the stop of its bay.
-/

namespace Sys2Proof.Machine

/-! Where the map and the spares are read. -/

theorem State.physOf_of_rot {s t : State} (h : t.rot = s.rot) (l : Nat) : t.physOf l = s.physOf l := by
  have hread : t.physOf l = State.physOf { s with rot := t.rot } l := rfl
  rw [hread, h]

theorem State.sparesFor_congr {s t : State} (hrot : t.rot = s.rot) (hstate : ∀ c, (t.cove c).ig.state = (s.cove c).ig.state) (cs : List Nat) :
    t.sparesFor cs = s.sparesFor cs := by
  have hspares : t.sparesOf = s.sparesOf := funext fun g => by simp only [State.sparesOf, State.holdMask, hrot, hstate]
  unfold State.sparesFor
  rw [hspares]

/-! What stopping a bay leaves (R41, R324). -/

/-- The parts of a bay that a stop decides and the end of its work leaves alone. -/
def Bay.control (y : Bay) : Option Code × List (Nat × BitVec 32 × Nat) × Steps := (y.stopped, y.unloads, y.st)

theorem Bay.control_inj {y z : Bay} (h : y.control = z.control) : y.stopped = z.stopped ∧ y.unloads = z.unloads ∧ y.st = z.st := by
  simpa only [Bay.control, Prod.mk.injEq] using h

section
variable (s : State) (b : Nat)

theorem State.endWork_control (i : Option Nat) (w : Work) (code : Code) (cancelled : Bool) :
    ((s.endWork b i w code cancelled).bay b).control = (s.bay b).control := by
  unfold State.endWork
  split
  · rw [State.get_bay_of_bays (s.completeWork_only w code cancelled .bays rfl)]
  · rw [State.modBay_bay]
    rfl

theorem State.endRunning_control (code : Code) (cancelled : Bool) : ((s.endRunning b code cancelled).bay b).control = (s.bay b).control := by
  unfold State.endRunning
  extract_lets y works s1
  have hended : (s1.bay b).control = (s.bay b).control :=
    List.foldlRecOn (motive := fun t : State => (t.bay b).control = (s.bay b).control) works _ rfl fun t ht w _ =>
      (t.endWork_control b w.1 w.2 code cancelled).trans ht
  rw [State.modBay_bay, ← hended]
  rfl

theorem State.dropQueue_control (code : Code) (cancelled : Bool) : ((s.dropQueue b code cancelled).bay b).control = (s.bay b).control := by
  unfold State.dropQueue
  extract_lets s1
  have hkept : s1.bay b = s.bay b :=
    State.get_bay_of_bays (ChangesOnly.foldl (fun t w => t.completeWork_only w code cancelled) _ (.refl _ s) .bays rfl) b
  rw [State.modBay_bay, hkept]
  rfl

theorem State.takeProgram_none (h : (s.bay b).unloads = []) : s.takeProgram b = s := by
  rw [State.takeProgram, h]
  rfl

theorem State.stopBay_stops (code : Code) (h : (s.bay b).unloads = []) : ((s.stopBay b code).bay b).stopped = some code
    ∧ ((s.stopBay b code).bay b).st.replay = none ∧ ((s.stopBay b code).bay b).st.lbStopped = true := by
  unfold State.stopBay
  extract_lets y att s1 s2
  have hclosed : ChangesOnly [.coves, .mg] ((s.countDiscarded b 0).discardAll b) s1 :=
    ((ChangesOnly.refl _ _).step (State.closeRun_only _ b) rfl).step (State.logBay_only _ code b) rfl
  have hunloads : (s1.bay b).unloads = [] := by
    rw [State.get_bay_of_bays (hclosed .bays rfl), State.discardAll, State.discard_bay, State.countDiscarded, State.modBay_bay]
    exact h
  have hcontrol : ((((s2.endRunning b code false).dropQueue b 0x9129 true).event b 1 code).bay b).control = (s2.bay b).control := by
    rw [State.get_bay_of_bays (State.event_only _ _ _ _ .bays rfl), State.dropQueue_control, State.endRunning_control]
  obtain ⟨hstopped, hkept, hst⟩ := Bay.control_inj hcontrol
  have hnone : (s2.bay b).unloads = [] := by rw [State.modBay_bay, hunloads]
  rw [State.takeProgram_none _ b (hkept.trans hnone), hstopped, hst, State.modBay_bay]
  exact ⟨rfl, rfl, rfl⟩

end

/-! The failure of a step. -/

section
variable (s : State) (b n : Nat) (r : StepRec)

/-- The state once step `n` of the bay and every later one are rolled back, and counted in their work. -/
def State.rolledBack : State := ((s.countDiscarded b n).discard b n).modBay b fun y =>
  { y with
    run := y.run.map fun w => { w with rollbacks := w.rollbacks + 1 }
    berths := y.berths.map fun _ w => { w with rollbacks := w.rollbacks + 1 } }

/-- The rolled-back step is replayed once the moves of segments `moves` are over; slots of coves `away` are to move to spares (R49). -/
def State.replayNext (moves away : List Nat) : State :=
  (((s.rolledBack b n).modBay b fun y =>
    { y with st := { y.st with
      rollbacks := satAdd32 y.st.rollbacks 1
      lbCode := r.code, lbReplay := BitVec.ofNat 2 r.attempt, lbStopped := false } }).askReplays away).modBay b fun y =>
    { y with
      st := { y.st with
        replay := some { no := n, attempt := r.attempt + 1, code := r.code, moves := moves, culprits := s.culpritsOf r, viol := r.viol }
        lastViol := r.viol } }

/-- The bay stops with the failed step (R49). -/
def State.stopFailed (code : Code) : State :=
  ((s.rolledBack b n).stopBay b code).modBay b fun y =>
    { y with st := { y.st with rollbacks := satAdd32 (s.bay b).st.rollbacks 1, lbReplay := BitVec.ofNat 2 r.attempt } }

theorem State.rolledBack_rot : (s.rolledBack b n).rot = s.rot :=
  ((((ChangesOnly.refl [.coves, .ctrls, .streams, .bays, .net] s).step (s.countDiscarded_only b n) rfl).step (State.discard_only _ b n) rfl).step
    (State.modBay_only _ b _) rfl) .rot rfl

theorem State.rolledBack_igState (c : Nat) : ((s.rolledBack b n).cove c).ig.state = (s.cove c).ig.state := by
  rw [State.rolledBack, State.modBay_get_cove, State.discard_igState]
  rfl

theorem State.rolledBack_bay : ∃ y : Bay, (s.rolledBack b n).bay b = y ∧ y.unloads = (s.bay b).unloads
    ∧ y.st.rollbacks = (s.bay b).st.rollbacks ∧ y.st.live = (s.bay b).st.live.filter fun q => decide (q.no < n) := by
  refine ⟨_, rfl, ?_⟩
  rw [State.rolledBack, State.modBay_bay, State.discard_bay, State.countDiscarded, State.modBay_bay]
  exact ⟨rfl, rfl, rfl⟩

theorem State.rolledBack_shadows (k : Nat) : ((s.rolledBack b n).stack k).shadows =
    (s.stack k).shadows.filter fun h => !(h.bay == b && !h.committed && decide (n ≤ h.step)) := by
  rw [State.rolledBack, State.modBay_get_stack, State.discard_shadows]
  rfl

/-- What stands of the bay in `t` when step `n` is to be replayed after the failure of `r` in `s`. -/
def ReplaysNext (t : State) (moves : List Nat) : Prop :=
  (t.bay b).st.replay = some { no := n, attempt := r.attempt + 1, code := r.code, moves := moves, culprits := s.culpritsOf r, viol := r.viol }
  ∧ (t.bay b).st.lbCode = r.code ∧ (t.bay b).st.lbReplay = BitVec.ofNat 2 r.attempt ∧ (t.bay b).st.lbStopped = false
  ∧ (t.bay b).st.rollbacks = satAdd32 (s.bay b).st.rollbacks 1
  ∧ (t.bay b).st.live = (s.bay b).st.live.filter (fun q => decide (q.no < n))
  ∧ ∀ k : Fin 8, (t.stack k).shadows = (s.stack k).shadows.filter fun h => !(h.bay == b && !h.committed && decide (n ≤ h.step))

/-- What stands of the bay in `t` when it has stopped after the failure of `r` in `s`. -/
def StopsFailed (t : State) (code : Code) : Prop := (s.bay b).unloads = [] →
  (t.bay b).stopped = some code ∧ (t.bay b).st.replay = none ∧ (t.bay b).st.lbReplay = BitVec.ofNat 2 r.attempt ∧ (t.bay b).st.lbStopped = true

variable {s b n r}

theorem State.replayNext_replays (moves away : List Nat) : ReplaysNext s b n r (s.replayNext b n r moves away) moves := by
  obtain ⟨y, hy, -, hrollbacks, hlive⟩ := s.rolledBack_bay b n
  have hasked (t : State) : (t.askReplays away).bay b = t.bay b := State.get_bay_of_bays (t.askReplays_only away .bays rfl) b
  refine ⟨?_, ?_, ?_, ?_, ?_, ?_, fun k => ?_⟩
  · rw [State.replayNext, State.modBay_bay]
  · rw [State.replayNext, State.modBay_bay, hasked, State.modBay_bay]
  · rw [State.replayNext, State.modBay_bay, hasked, State.modBay_bay]
  · rw [State.replayNext, State.modBay_bay, hasked, State.modBay_bay]
  · rw [State.replayNext, State.modBay_bay, hasked, State.modBay_bay, hy, ← hrollbacks]
  · rw [State.replayNext, State.modBay_bay, hasked, State.modBay_bay, hy, ← hlive]
  · rw [State.replayNext, State.modBay_get_stack, State.get_stack_of_ctrls (State.askReplays_only _ away .ctrls rfl), State.modBay_get_stack,
      State.rolledBack_shadows]

theorem State.stopFailed_stops (code : Code) : StopsFailed s b r (s.stopFailed b n r code) code := by
  intro hno
  obtain ⟨y, hy, hunloads, -⟩ := s.rolledBack_bay b n
  have hnone : ((s.rolledBack b n).bay b).unloads = [] := by rw [hy, hunloads, hno]
  obtain ⟨hstopped, hreplay, hflag⟩ := State.stopBay_stops _ b code hnone
  rw [State.stopFailed, State.modBay_bay]
  dsimp only
  exact ⟨hstopped, hreplay, rfl, hflag⟩

/-- R49, R203 and R344: the first failure, the second, a later one. -/
theorem State.failStep_eq (hlive : (s.bay b).st.live.find? (fun q => q.no == n) = some r) : s.failStep b n =
    if r.attempt = 0 then s.replayNext b n r [] []
    else if r.attempt = 1 then
      if s.culpritsOf r ≠ [] then
        if s.sparesFor (s.culpritsOf r) then s.replayNext b n r ((s.culpritsOf r).map segOfPhys) (s.culpritsOf r) else s.stopFailed b n r 0xB020
      else r.viol.elim (s.stopFailed b n r 0xB021) fun v => (s.physOf v.2.1).elim (s.stopFailed b n r 0xB020) fun c =>
        if s.sparesFor [c] then s.replayNext b n r [segOfPhys c] [c] else s.stopFailed b n r 0xB020
    else if r.viol.isSome ∧ r.viol = (s.bay b).st.lastViol then s.stopFailed b n r 0x6040
    else s.stopFailed b n r 0xB021 := by
  unfold State.failStep
  rw [hlive]
  dsimp -zeta only
  extract_lets culprits again s1 s2 stop
  have hback : s1 = s.rolledBack b n := rfl
  have hrot : s2.rot = s.rot := by rw [State.modBay_rot, hback, s.rolledBack_rot b n]
  have hstate (c : Nat) : (s2.cove c).ig.state = (s.cove c).ig.state := by rw [State.modBay_get_cove, hback, s.rolledBack_igState b n c]
  have hspares (cs : List Nat) : s2.sparesFor cs = s.sparesFor cs := State.sparesFor_congr hrot hstate cs
  have hphys (l : Nat) : s2.physOf l = s.physOf l := State.physOf_of_rot hrot l
  refine if_congr Iff.rfl rfl (if_congr Iff.rfl (if_congr ?_ ?_ ?_) rfl)
  · rw [Bool.not_eq_true', List.isEmpty_eq_false_iff]
  · rw [hspares]
    rfl
  · cases r.viol with
    | none => rfl
    | some v =>
      simp only [hphys, hspares, Option.elim_some]
      cases s.physOf v.2.1 with
      | none => rfl
      | some c => rfl

end

/-! The two commands that find a step failed. -/

/-- The first element of a kind is the first of a narrower kind that it belongs to. -/
theorem find?_and_of_find? {α : Type} {p q : α → Bool} {l : List α} {x : α} (h : l.find? p = some x) (hx : q x = true) :
    l.find? (fun y => p y && q y) = some x := by
  obtain ⟨hp, before, after, rfl, hbefore⟩ := List.find?_eq_some_iff_append.mp h
  refine List.find?_eq_some_iff_append.mpr ⟨by rw [hp, hx]; rfl, before, after, rfl, fun y hy => ?_⟩
  rw [(Bool.not_eq_true' _).mp (hbefore y hy)]
  rfl

section
variable {s : State} {b : Fin 16} {n : BitVec 48} {r : StepRec}

theorem exec_rollback_fails (hlive : (s.bay b).st.live.find? (fun q => q.no == n.toNat) = some r) (hdrain : r.drain = false)
    (hvote : r.vote = some false) : exec (.rollback b n) s = .next (s.failStep b n.toNat) := by
  have hno : (r.no == n.toNat) = true := List.find?_some (p := fun q : StepRec => q.no == n.toNat) hlive
  refine occurs_true (List.any_eq_true.mpr ⟨r, List.mem_of_find?_eq_some hlive, ?_⟩)
  rw [hno, hvote, hdrain]
  rfl

theorem exec_voteDeadline_of_live (hlive : (s.bay b).st.live.find? (fun q => q.no == n.toNat && !q.drain && q.vote.isNone) = some r) :
    exec (.voteDeadline b n) s = occurs s (((s.bay b).st.deadline r).any fun d => decide (d < s.clk.elapsed)) (s.failStep b n.toNat) := by
  rw [exec_voteDeadline, execVoteDeadline, hlive]
  rfl

theorem exec_voteDeadline_fails (hlive : (s.bay b).st.live.find? (fun q => q.no == n.toNat) = some r) (hdrain : r.drain = false)
    (hvote : r.vote = none) (hpast : (((s.bay b).st.deadline r).any fun d => decide (d < s.clk.elapsed)) = true) :
    exec (.voteDeadline b n) s = .next (s.failStep b n.toNat) := by
  have hfirst := find?_and_of_find? (q := fun q => !q.drain && q.vote.isNone) hlive (by rw [hdrain, hvote]; rfl)
  simp only [← Bool.and_assoc] at hfirst
  rw [exec_voteDeadline_of_live hfirst, occurs_true hpast]

end

/-- Settles O27: the command fails the step (`exec_rollback_fails`, `exec_voteDeadline_fails`), and the count of its failures decides
(`failStep_eq`). -/
theorem firstFailureIsReplayedInPlace : Obligations.FirstFailureIsReplayedInPlace := by
  intro s b n
  refine ⟨fun r hlive hdrain c hc => ?_, fun hno => ?_, fun hno => ?_, fun r hlive hearly => ?_⟩
  · have hexec : exec c s = .next (s.failStep b n.toNat) := by
      rcases hc with ⟨rfl, hvote⟩ | ⟨rfl, hvote, hpast⟩
      · exact exec_rollback_fails hlive hdrain hvote
      · exact exec_voteDeadline_fails hlive hdrain hvote hpast
    have hfails := State.failStep_eq hlive
    have hagain {moves away : List Nat} (h : s.failStep b n.toNat = s.replayNext b n.toNat r moves away) :
        ReplaysNext s b n.toNat r (s.failStep b n.toNat) moves := h ▸ State.replayNext_replays moves away
    have hstops {code : Code} (h : s.failStep b n.toNat = s.stopFailed b n.toNat r code) : StopsFailed s b r (s.failStep b n.toNat) code :=
      h ▸ State.stopFailed_stops code
    have hsecond (h1 : r.attempt = 1) := hfails.trans ((if_neg (by omega)).trans (if_pos h1))
    have hviolated {code : Code} {l cyc : Nat} (h1 : r.attempt = 1) (hnone : s.culpritsOf r = []) (hviol : r.viol = some (code, l, cyc)) :
        s.failStep b n.toNat = (s.physOf l).elim (s.stopFailed b n.toNat r 0xB020) fun c =>
          if s.sparesFor [c] then s.replayNext b n.toNat r [segOfPhys c] [c] else s.stopFailed b n.toNat r 0xB020 := by
      rw [hsecond h1, if_neg (not_not.mpr hnone), hviol, Option.elim_some]
    refine ⟨_, hexec, fun h0 => hagain (hfails.trans (if_pos h0)),
      fun h1 hsome hspares => hagain ((hsecond h1).trans ((if_pos hsome).trans (if_pos hspares))),
      fun h1 hsome hspares => hstops ((hsecond h1).trans ((if_pos hsome).trans (if_neg (Bool.eq_false_iff.mp hspares)))),
      fun code l cyc h1 hnone hviol => ⟨fun c hphys hspares => hagain (away := [c]) ((hviolated h1 hnone hviol).trans ?_), fun hspares => hstops ((hviolated h1 hnone hviol).trans ?_)⟩,
      fun h1 hnone hviol => hstops ((hsecond h1).trans ((if_neg (not_not.mpr hnone)).trans (by rw [hviol]; rfl))), fun h2 => ?_⟩
    · rw [hphys, Option.elim_some, if_pos hspares]
    · cases hphys : s.physOf l with
      | none => rfl
      | some c => rw [Option.elim_some, if_neg (Bool.eq_false_iff.mp (hspares c hphys))]
    · have hthird := hfails.trans ((if_neg (by omega)).trans (if_neg (by omega)))
      split
      · next hsame => exact hstops (hthird.trans (if_pos hsame))
      · next hother => exact hstops (hthird.trans (if_neg hother))
  · refine occurs_false (List.any_eq_false.mpr fun q hq hfails => hno q hq ?_)
    simpa [and_assoc] using hfails
  · rw [exec_voteDeadline, execVoteDeadline, List.find?_eq_none.mpr fun q hq hwaits => ?_]
    have ⟨hnumber, hdrain, hvote⟩ : q.no = n.toNat ∧ q.drain = false ∧ q.vote = none := by simpa [and_assoc] using hwaits
    exact hno q hq ⟨hnumber, hvote, hdrain⟩
  · exact (exec_voteDeadline_of_live hlive).trans (occurs_false hearly)

end Sys2Proof.Machine
end

section
/-!
SUPPORT. REPLAY_START (R49): which attempt starts, and what stands of the bay then.
-/

namespace Sys2Proof.Machine

/-- Settles O28: the command's own conditions, and the record that `newStep` adds. -/
theorem replayStartsTheFailedStep : Obligations.ReplayStartsTheFailedStep := by
  intro s b p q y
  refine ⟨fun hnone => ?_, fun hreplay hprogram => ?_⟩
  · rw [exec_replayStart, execReplayStart, show (s.bay b).st.replay = none from hnone]
  · rw [exec_replayStart, execReplayStart, show (s.bay b).st.replay = some q from hreplay, show (s.bay b).program = some p from hprogram]
    refine ⟨occurs_false, fun hready => ⟨occurs_true hready, ?_, ?_⟩⟩
    · simp [State.newStep_bay]
    · simp [State.newStep_bay, y]

end Sys2Proof.Machine
end

section
/-!
SUPPORT. The end of a watch (R342, R366, R367) decides the fences of every field, and a field fences the head of its queue, whichever field that cove
lies in.
-/

namespace Sys2Proof.Machine

/-- The state without the score events of cove `c` that have left the window of ten minutes (R342). -/
def State.expireEvents (s : State) (c : Nat) : State := s.modCove c fun v => { v with ig := { v.ig with
  events := (s.cove c).ig.events.filter fun e => decide (s.clk.elapsed < e.at_ + tenMinutes) } }

theorem exec_scoreEventExpiry_eq (c : Fin 800) (s : State) : exec (.scoreEventExpiry c) s = .next ((s.expireEvents c).endWatch c) := rfl

/-- A spare of field 0. -/
def spareCove : Fin 800 := 18

/-- The spare has been on watch for ten minutes; it heads the queue of field 1, which has capacity for a fence. -/
def watchedInStrayQueue : State :=
  ((({ State.reset with clk := { State.reset.clk with elapsed := tenMinutes } } : State).modCove spareCove fun v => { v with ig := { v.ig with state := .watch } })
    |>.modCoveTest spareCove fun k => { k with watchAt := some 0 })
    |>.modField 1 fun k => { k with queue := [spareCove.val], capReady := true }

theorem watchedInStrayQueue_watches : (watchedInStrayQueue.cove spareCove).ig.state = .watch ∧ (watchedInStrayQueue.expireEvents spareCove).score spareCove = 0
    ∧ (watchedInStrayQueue.coveTest spareCove).watchAt = some 0 ∧ 0 + tenMinutes ≤ watchedInStrayQueue.clk.elapsed
    ∧ watchedInStrayQueue.fenceAsked spareCove = false := by decide +kernel

/-- The watch ends (R342), and the head of field 1's queue is fenced where it stands (R366, R367). -/
theorem watchedInStrayQueue_fenced : (((watchedInStrayQueue.expireEvents spareCove).endWatch spareCove).cove spareCove).ig.state = .fenced := by decide +kernel

/-- Refutes O30: the end of its watch fences a cove that stands in another field's queue. -/
theorem not_signaturesAndScoreEventsTakeEffect : ¬ Obligations.SignaturesAndScoreEventsTakeEffect := by
  intro h
  obtain ⟨-, ⟨-, -, -, hends⟩, -⟩ := h watchedInStrayQueue spareCove
  obtain ⟨hstate, hscore, hwatch, hpast, hasked⟩ := watchedInStrayQueue_watches
  obtain ⟨t, ht, hnormal, -⟩ := hends 0 hstate hscore hwatch hpast hasked
  obtain rfl := Host.Outcome.next.inj ((exec_scoreEventExpiry_eq spareCove watchedInStrayQueue).symm.trans ht)
  exact absurd (watchedInStrayQueue_fenced.symm.trans hnormal) (by decide)

end Sys2Proof.Machine
end

section
/-!
SUPPORT. Registers of two words (R58, R486): what the read of a low word latches, and what the read of the high word then returns.
-/

namespace Sys2Proof.Machine

/-- Command `c` latches `hi` for requester `who`, as a read of the low word at offset `off` of the management space does: the requester alone then
reads `hi` from the word after it. -/
def State.LatchesHigh (s : State) (who : Requester) (c : Instr) (off hi : Nat) : Prop :=
  ∃ t, exec c s = .next t ∧ ChangesOnly [.latches] s t
    ∧ (∀ now, t.latched who (BitVec.ofNat 48 (0xF00000000000 + off)) now = BitVec.ofNat 32 hi)
    ∧ (∀ w a now, (w ≠ who ∨ a ≠ BitVec.ofNat 48 (0xF00000000000 + off)) → t.latched w a now = s.latched w a now)
    ∧ t.readAt who (off + 4) = (BitVec.ofNat 32 hi, t)

/-- The registers at `off` and after it are the low and the high word of a pair. -/
structure WordPair (off : Nat) (k : Block) (o : Nat) : Prop where
  here : RegHere (off + 4) k (o + 4)
  low : k.isLo o = true
  high : k.isLo (o + 4) = false

theorem regAt_of_regHere {a o : Nat} {k : Block} (h : RegHere a k o) : regAt a = some (k, o) := by
  obtain ⟨-, hblock, hreg⟩ := h
  rw [regAt, hblock, Option.filter_some, if_pos hreg]

section
variable {s : State} {who : Requester} {off hi : Nat} {k : Block} {o : Nat} {c : Instr}

theorem State.latched_latch (s : State) (who : Requester) (pair : BitVec 48) (hi now : Word) : (s.latch who pair hi).latched who pair now = hi := by
  simp [State.latch, State.latched]

theorem State.latched_latch_other {w : Requester} {a pair : BitVec 48} (h : w ≠ who ∨ a ≠ pair) (hi now : Word) :
    (s.latch who pair hi).latched w a now = s.latched w a now := by
  have hnew : (who == w && pair == a) = false := by
    rw [Bool.eq_false_iff, ne_eq, Bool.and_eq_true, beq_iff_eq, beq_iff_eq]
    rintro ⟨rfl, rfl⟩
    simp at h
  have hkept (l : Latch) : decide ((!(l.who == who && l.pair == pair)) = true ∧ (l.who == w && l.pair == a) = true) = (l.who == w && l.pair == a) := by
    by_cases hl : l.who = w ∧ l.pair = a
    · obtain ⟨rfl, rfl⟩ := hl
      simpa [← not_and_or] using h
    · have hother : (l.who == w && l.pair == a) = false := by simpa using hl
      simp [hother]
  simp only [State.latch, State.latched, List.find?_cons, hnew, List.find?_filter, hkept]

theorem State.readAt_high (hpair : WordPair off k o) (s : State) (who : Requester) :
    s.readAt who (off + 4) = (s.latched who (BitVec.ofNat 48 (0xF00000000000 + off)) (s.wordAt k (o + 4)), s) := by
  have hhi : k.isHi (o + 4) = true := by simp [Block.isHi, hpair.low]
  have haddr : mgmtBase + (off + 4) - 4 = 0xF00000000000 + off := by unfold mgmtBase; omega
  simp only [State.readAt, regAt_of_regHere hpair.here, hpair.high, hhi, Bool.false_eq_true, if_false, if_true, haddr]

/-- The read of a pair's low word, as the commands of the table make it. -/
theorem latchesHigh_of_latch {a : Nat} (hpair : WordPair off k o) (ha : a = 0xF00000000000 + off)
    (h : exec c s = .next (s.latch who (BitVec.ofNat 48 a) (BitVec.ofNat 32 hi))) : s.LatchesHigh who c off hi := by
  subst ha
  refine ⟨_, h, State.latch_only _ _ _ _, State.latched_latch s who _ _, fun w a now hne => State.latched_latch_other hne _ _, ?_⟩
  rw [State.readAt_high hpair, State.latched_latch]

end

/-! The pairs. -/

theorem wordPair_mtNs : WordPair 0x604 .mt 4 := ⟨by unfold RegHere; decide, rfl, rfl⟩
theorem wordPair_ikid : WordPair 0x204 .id 4 := ⟨by unfold RegHere; decide, rfl, rfl⟩
theorem wordPair_ownerSeq : WordPair 0x20C .id 0xC := ⟨by unfold RegHere; decide, rfl, rfl⟩
theorem wordPair_floor : WordPair 0x214 .id 0x14 := ⟨by unfold RegHere; decide, rfl, rfl⟩
theorem wordPair_imgVersion : WordPair 0x110 .su 0x10 := ⟨by unfold RegHere; decide, rfl, rfl⟩
theorem wordPair_energy : WordPair 0x2080 .pwr 0x80 := ⟨by unfold RegHere; decide, rfl, rfl⟩

/-- The block at an offset of a bay's region. -/
theorem blockAt_bay (b : Fin 16) {o : Nat} (ho : o < 0x200) : blockAt (0x20000 + 0x200 * b + o) =
    if o < 0x20 then some (.step b, o) else if 0x100 ≤ o then some (.hr b, o - 0x100) else none := by
  have hb := b.isLt
  have hmod : (0x20000 + 0x200 * b.val + o - 0x20000) % 0x200 = o := by omega
  have hdiv : (0x20000 + 0x200 * b.val + o - 0x20000) / 0x200 = b := by omega
  unfold blockAt
  iterate 3 rw [if_neg (by omega)]
  rw [if_pos (by omega)]
  simp only [hmod, hdiv]

theorem wordPair_committed (b : Fin 16) : WordPair (0x20000 + 0x200 * b) (.step b) 0 := by
  refine ⟨⟨by omega, ?_, rfl⟩, rfl, rfl⟩
  rw [blockAt_bay b (by omega)]
  rfl

theorem wordPair_resetStep (b : Fin 16) : WordPair (0x2010C + 0x200 * b) (.hr b) 0xC := by
  refine ⟨⟨by omega, ?_, rfl⟩, rfl, rfl⟩
  rw [show 0x2010C + 0x200 * b.val + 4 = 0x20000 + 0x200 * b + 0x110 by omega, blockAt_bay b (by omega)]
  rfl

/-- The energy counters of bays and of sessions (R416). -/
theorem wordPair_power {o : Nat} (h8 : o % 8 = 0) (ho : 0x100 ≤ o ∧ o < 0x180 ∨ 0x800 ≤ o ∧ o < 0x1000) : WordPair (0x2000 + o) .pwr o := by
  refine ⟨⟨by omega, ?_, ?_⟩, ?_, ?_⟩
  · unfold blockAt moduleBlock
    rw [if_pos (by omega)]
    iterate 11 rw [if_neg (by omega)]
    rw [if_pos (by omega)]
    exact congrArg (fun o => some (Block.pwr, o)) (by omega)
  · simp only [Block.isReg_iff, Block.last, Block.gaps, Block.gapOff, List.forall_mem_cons, List.not_mem_nil, false_imp_iff, implies_true, and_true]
    omega
  · simp only [Block.isLo, Bool.and_eq_true, Bool.or_eq_true, beq_iff_eq, decide_eq_true_eq]
    omega
  · simp only [Block.isLo, Bool.and_eq_false_iff, beq_eq_false_iff_ne]
    omega

theorem wordPair_bayEnergy (b : Fin 16) : WordPair (0x2100 + 8 * b) .pwr (0x100 + 8 * b) := by
  rw [show 0x2100 + 8 * b.val = 0x2000 + (0x100 + 8 * b) by omega]
  exact wordPair_power (by omega) (by omega)

theorem wordPair_sessionEnergy (b i : Fin 16) : WordPair (0x2800 + 0x80 * b + 8 * i) .pwr (0x800 + 0x80 * b + 8 * i) := by
  rw [show 0x2800 + 0x80 * b.val + 8 * i = 0x2000 + (0x800 + 0x80 * b + 8 * i) by omega]
  exact wordPair_power (by omega) (by omega)

/-- Who reads a bay's step block: a core of the bay, and who reads the bay. -/
theorem readsSteps_iff (s : State) (who : Requester) (b : Fin 16) :
    (match who with
      | .core r => s.bayOf r.cove == some b.val
      | _ => s.readsBay who b) = true ↔
      (∀ r, who ≠ .core r) ∧ s.readsBay who b = true ∨ ∃ r, who = .core r ∧ s.bayOf r.cove = some b.val := by
  cases who <;> simp

theorem readsSessionEnergy_iff (s : State) (who : Requester) (b i : Fin 16) :
    (s.energyCtr who (.session b i)).2.2 = true ↔ s.isOwner who = true ∨ who = .session b i := by
  simp [State.energyCtr]

/-- Settles O19: each command latches its pair's high word, and the map has the pair's registers where the command says. -/
theorem lowWordReadsLatchHighWord : Obligations.LowWordReadsLatchHighWord := by
  intro s who
  have hversion : s.img.version.extractLsb' 32 32 = BitVec.ofNat 32 (s.img.version.toNat / 2 ^ 32) := by
    rw [BitVec.extractLsb', Nat.shiftRight_eq_div_pow]
  refine ⟨fun b => ⟨fun h => ?_, fun h => ?_, fun h => ⟨?_, ?_⟩, fun h => ⟨occurs_false h, occurs_false h⟩⟩, fun h => ⟨?_, ?_, ?_, ?_⟩,
    fun h => ⟨occurs_false h, fun n => occurs_false h⟩, fun h => ⟨?_, ?_⟩, fun h => ⟨occurs_false h, occurs_false h⟩, fun b i => ⟨fun h => ?_, fun h => ?_⟩⟩
  · exact latchesHigh_of_latch (wordPair_committed b) (by unfold stepBase; omega) (occurs_true ((readsSteps_iff s who b).mpr h))
  · exact occurs_false (Bool.eq_false_iff.mpr fun hmay => h ((readsSteps_iff s who b).mp hmay))
  · exact latchesHigh_of_latch (wordPair_resetStep b) (by unfold hangBase; omega) (occurs_true h)
  · exact latchesHigh_of_latch (a := 0xF00000002100 + 8 * b) (wordPair_bayEnergy b) (by omega) (occurs_true h)
  · exact latchesHigh_of_latch wordPair_mtNs rfl (occurs_true h)
  · exact latchesHigh_of_latch wordPair_ikid rfl (occurs_true h)
  · exact latchesHigh_of_latch wordPair_ownerSeq rfl (occurs_true h)
  · exact latchesHigh_of_latch wordPair_floor rfl (occurs_true h)
  · exact latchesHigh_of_latch wordPair_imgVersion (a := 0xF00000000110) rfl ((occurs_true h).trans (by rw [hversion]; rfl))
  · exact latchesHigh_of_latch wordPair_energy rfl (occurs_true h)
  · exact latchesHigh_of_latch (a := 0xF00000002800 + 0x80 * b + 8 * i) (wordPair_sessionEnergy b i) (by omega) (occurs_true ((readsSessionEnergy_iff s who b i).mpr h))
  · refine occurs_false (Bool.eq_false_iff.mpr fun hmay => ?_)
    rcases (readsSessionEnergy_iff s who b i).mp hmay with howner | hself
    · exact Bool.false_ne_true (h.1.symm.trans howner)
    · exact h.2 hself

end Sys2Proof.Machine
end

section
/-!
SUPPORT. STEP_START (R33, R35, R36, R54): the state that the next step is begun from, and which step it is.
-/

namespace Sys2Proof.Machine

/-- The state that the bay's next step is begun from: with no step uncommitted the settings that a boundary applies are applied first (R54). -/
def State.atStart (s : State) (b : Nat) : State := if (s.bay b).st.live = [] then s.modBay b fun y => y.applyBoundary [] false else s

/-- The bay drains, for its commit mode, an operating point or a shape (R36, R55). -/
def State.drains (s : State) (b : Nat) : Bool := (s.bay b).st.draining || s.opHeld b || (s.bay b).wantShape.isSome

theorem exec_stepStart_eq (b : Fin 16) (s : State) : exec (.stepStart b) s = .next (((s.atStart b).nextStep b).getD s) := by
  have hstart : (if (s.bay b).st.live.isEmpty then s.modBay b fun y => y.applyBoundary [] false else s) = s.atStart b := by
    unfold State.atStart
    simp only [List.isEmpty_iff]
  simp only [exec_stepStart, execStepStart, hstart]
  cases (s.atStart b).nextStep b <;> rfl

section
variable {s : State} {b : Nat}

theorem State.nextStep_busy (h : (s.bay b).st.replay.isSome = true ∨ (s.bay b).st.running.isSome = true) : s.nextStep b = none := by
  simp only [State.nextStep, Bool.or_eq_true]
  exact if_pos h

section
variable (hreplay : (s.bay b).st.replay = none) (hrunning : (s.bay b).st.running = none)
include hreplay hrunning

theorem State.nextStep_drain (hdue : (s.bay b).drainDue (s.drains b) = true) :
    s.nextStep b = if s.mayStep b true then
      some ((s.newStep b (s.bay b).st.next 0 (s.bay b).st.twoStep true).resumeStep b (s.bay b).st.next) else none := by
  unfold State.drains at hdue
  simp only [State.nextStep, hreplay, hrunning, hdue, Option.isSome_none, Bool.or_self, Bool.false_eq_true, if_false, if_true]

variable (hdue : (s.bay b).drainDue (s.drains b) = false)
include hdue

theorem State.nextStep_work (hwork : (s.bay b).working = true) :
    s.nextStep b = if s.mayStep b false && (s.bay b).st.room then
      some (((if (s.bay b).run.isNone && s.jetty.maint.opening.isNone then s.seat b (s.bay b).st.next else s).newStep b (s.bay b).st.next 0
        (s.bay b).st.wantTwo false).resumeStep b (s.bay b).st.next) else none := by
  unfold State.drains at hdue
  simp only [State.nextStep, hreplay, hrunning, hdue, hwork, Option.isSome_none, Bool.or_self, Bool.false_eq_true, if_false, if_true]

theorem State.nextStep_queue (hwork : (s.bay b).working = false) {w : Work} {rest : List Work} (hqueue : (s.bay b).queue = w :: rest) :
    s.nextStep b = if s.mayStep b false && s.jetty.maint.opening.isNone && (s.bay b).st.live.isEmpty && (s.bay b).run.isNone
        && (w.kind == .run || decide (0 < (s.bay b).berthLimit)) then
      some (if w.kind = .run then
          ((s.modBay b fun y => { y with queue := rest, run := some { w with firstStep := (s.bay b).st.next, start := s.mt.ns } }).newStep b
            (s.bay b).st.next 0 (s.bay b).st.wantTwo false).firstStep b (s.bay b).st.next w.entry
        else ((s.seat b (s.bay b).st.next).newStep b (s.bay b).st.next 0 (s.bay b).st.wantTwo false).firstStep b (s.bay b).st.next 0)
      else none := by
  unfold State.drains at hdue
  simp only [State.nextStep, hreplay, hrunning, hdue, hwork, hqueue, Option.isSome_none, Bool.or_self, Bool.false_eq_true, if_false]
  cases w.kind <;> rfl

theorem State.nextStep_idle (hwork : (s.bay b).working = false) (hqueue : (s.bay b).queue = []) : s.nextStep b = none := by
  unfold State.drains at hdue
  simp only [State.nextStep, hreplay, hrunning, hdue, hwork, hqueue, Option.isSome_none, Bool.or_self, Bool.false_eq_true, if_false]

end
end

/-- Settles O24: which of the next step's cases holds, by what the bay stands before. -/
theorem stepStartBeginsTheNextStep : Obligations.StepStartBeginsTheNextStep := by
  intro s b s1 y no drains
  have hbegins {t : State} (h : s1.nextStep b = some t) : exec (.stepStart b) s = .next t := by
    rw [exec_stepStart_eq, show s.atStart b = s1 from rfl, h]
    rfl
  have hnothing (h : s1.nextStep b = none) : exec (.stepStart b) s = .next s := by
    rw [exec_stepStart_eq, show s.atStart b = s1 from rfl, h]
    rfl
  refine ⟨fun hreplay hrunning => ?_, fun h => hnothing (State.nextStep_busy h), fun no att two drain => ?_⟩
  · have hwork := State.nextStep_work hreplay hrunning
    have hqueued := State.nextStep_queue hreplay hrunning
    have hgoes (hmay : s1.mayStep b false = true) (hroom : y.st.room = true) : (s1.mayStep b false && y.st.room) = true := by rw [hmay, hroom]; rfl
    refine ⟨fun hdue hmay => hbegins ?_, fun hdue hworking hrun hmay hroom => hbegins ?_, fun hdue hworking hrun hopen hmay hroom => hbegins ?_,
      fun w rest hdue hworking hqueue (hlive : (s1.bay b).st.live = []) (hrun : (s1.bay b).run = none) hopen hmay =>
        ⟨fun hkind => hbegins ?_, fun hkind (hlimit : 0 < (s1.bay b).berthLimit) => hbegins ?_⟩,
      fun hdue hworking hrun hopen hmay hroom => hbegins ?_, fun hdue hmay => hnothing ?_, fun hdue h => hnothing ?_,
      fun hdue hworking hqueue => hnothing (State.nextStep_idle hreplay hrunning hdue hworking hqueue)⟩
    · exact (State.nextStep_drain hreplay hrunning hdue).trans (if_pos hmay)
    · exact (hwork hdue hworking).trans ((if_pos (hgoes hmay hroom)).trans (by rw [Option.isNone_eq_false_iff.mpr hrun]; rfl))
    · exact (hwork hdue hworking).trans ((if_pos (hgoes hmay hroom)).trans (by rw [hrun, hopen]; rfl))
    · exact (hqueued hdue hworking hqueue).trans ((if_pos (by simp [hmay, hopen, hlive, hrun, hkind])).trans (by rw [if_pos hkind]))
    · exact (hqueued hdue hworking hqueue).trans ((if_pos (by simp [hmay, hopen, hlive, hrun, hlimit])).trans (by rw [if_neg (by simp [hkind])]))
    · exact (hwork hdue hworking).trans ((if_pos (hgoes hmay hroom)).trans (by rw [hrun, Option.isNone_eq_false_iff.mpr hopen]; rfl))
    · exact (State.nextStep_drain hreplay hrunning hdue).trans (if_neg (by rw [hmay]; exact Bool.false_ne_true))
    · cases hworking : y.working with
      | true =>
        refine (hwork hdue hworking).trans (if_neg fun hboth => ?_)
        have ⟨hmay, hroom⟩ : s1.mayStep b false = true ∧ y.st.room = true := Bool.and_eq_true_iff.mp hboth
        rcases h with h | h
        · exact Bool.false_ne_true (h.symm.trans hmay)
        · exact Bool.false_ne_true (h.2.symm.trans hroom)
      | false =>
        have hmay : s1.mayStep b false = false := h.resolve_right fun h => Bool.false_ne_true (hworking.symm.trans h.1)
        cases hqueue : y.queue with
        | nil => exact State.nextStep_idle hreplay hrunning hdue hworking hqueue
        | cons w rest => exact (hqueued hdue hworking hqueue).trans (if_neg (by simp [hmay]))
  · dsimp only
    rw [State.newStep_bay]
    exact ⟨rfl, rfl, s.newStep_only b no att two drain, fun d hd => State.modBay_bay_other _ _ hd⟩

end Sys2Proof.Machine
end

section
/-!
SUPPORT. A boundary at which the votes of the step before, in two-step commit, fall (R45, R338): a pair of it that nobody compared fails its vote,
and its record takes the code.
-/

namespace Sys2Proof.Machine

def firstBay : Fin 16 := 0

/-- Step 2 of bay 0 stands at its boundary behind step 1 in two-step commit; on cove 0, whose switch only carries the system tree, the shadow side
of pair 0 ran in step 1 and no signature of it is there. -/
def uncomparedPair : State :=
  (State.reset.modBay firstBay fun y => { y with
    record := some { bay := 0, level := 0, queueDepth := 0, berthQuota := 0, minShare := 0, capW := 0, granQuota := 0, holdQuota := 0, seed := 0
                     uwinBase := 0, uwinLen := 0, ownerKey := 0, userKeys := [], coves := [0], extents := [] }
    st := { y.st with live := [{ no := 1, two := true, endedAt := some 0 }, { no := 2 }] } }).modCove 0 fun v => { v with
      tide := { v.tide with barriers := v.tide.barriers.put 16 1 }
      ig := { v.ig with pairs := v.ig.pairs.put (2 ^ 15) 0, paired := [{ key := 2 ^ 15, step := 1, attempt := 0 }] } }

theorem uncomparedPair_atBoundary : (uncomparedPair.bay firstBay).st.running = some { no := 2 } ∧ uncomparedPair.boundaryReady firstBay 2 = true
    ∧ (uncomparedPair.bay firstBay).run = none ∧ (uncomparedPair.bay firstBay).unloads = [] ∧ (uncomparedPair.bay firstBay).berths.rows = []
    ∧ (∀ c ∈ uncomparedPair.physCoves firstBay, (uncomparedPair.cove c).tideHeld = []) ∧ uncomparedPair.rot.fields = {} := by decide +kernel

theorem boundary_uncomparedPair : ((uncomparedPair.boundary firstBay { no := 2 }).bay firstBay).st.live.map StepRec.code = [0xB012, 0] := by decide +kernel

/-- Refutes O25: the step before, in two-step commit, fails at the boundary with a pair that was not compared, and its record changes too. -/
theorem not_stepBoundaryCastsVotes : ¬ Obligations.StepBoundaryCastsVotes := by
  intro h
  obtain ⟨hrunning, hready, hrun, hunloads, hberths, hheld, hfields⟩ := uncomparedPair_atBoundary
  have hexec : exec (.stepBoundary firstBay) uncomparedPair = .next (uncomparedPair.boundary firstBay { no := 2 }) := by
    rw [exec_stepBoundary, execStepBoundary, show (uncomparedPair.bay firstBay).st.running = some { no := 2 } from hrunning]
    exact occurs_true hready
  obtain ⟨t, ht, -, -, hlive, -⟩ := (h uncomparedPair firstBay { no := 2 }).2 hrunning hready (by simp [hrun]) hunloads (by simp [hberths]) hheld
    (fun g _ => by rw [State.field, hfields]; rfl)
  obtain rfl := Host.Outcome.next.inj (hexec.symm.trans ht)
  have hkept := boundary_uncomparedPair.symm.trans (congrArg (List.map StepRec.code) hlive)
  exact absurd hkept (by decide +kernel)

end Sys2Proof.Machine
end

section
/-!
SUPPORT. Registers whose writes are checked (R98, R102, R174, R257, R259, R334): who writes them, what a good value leaves and what becomes of a bad one.
-/

namespace Sys2Proof.Machine

/-- A change of one cove leaves every other part of the state. -/
theorem CoveOnly.modCove (s : State) (c : Nat) (f : Cove → Cove) : CoveOnly c s (s.modCove c f) := by
  rw [CoveOnly, State.modCove_cove]
  rfl

/-- An event of one kind of requester, whose value is checked. -/
theorem occurs_and_decide {s t : State} {p : Bool} (h : p = true) (q : Prop) [Decidable q] : occurs s (p && decide q) t = .next (if q then t else s) := by
  simp only [occurs, h, Bool.true_and, decide_eq_true_eq]

theorem coreOf_iff {who : Requester} {c : Fin 800} : coreOf who c = true ↔ ∃ k, who = .core ⟨c, k⟩ := by
  cases who with
  | core r =>
    obtain ⟨d, k⟩ := r
    simp only [coreOf, beq_iff_eq, Fin.val_inj, Requester.core.injEq, CoreRef.mk.injEq, exists_and_left, exists_eq', and_true]
  | headland => simp [coreOf]
  | session b i => simp [coreOf]

/-! Tolerance entries (R98). -/

/-- The values that a tolerance entry takes: zeros of both signs and the positive normal numbers (R98). -/
def TolValid (v : Word) : Prop := v.toNat % 2 ^ 31 = 0 ∨ (v.toNat < 2 ^ 31 ∧ 0 < v.toNat / 2 ^ 23 % 256 ∧ v.toNat / 2 ^ 23 % 256 < 255)

theorem tolOk_iff {v : Word} : tolOk v = true ↔ TolValid v := by
  have hsign : v.msb = decide (2 ^ 31 ≤ v.toNat) := BitVec.msb_eq_decide v
  have hlt := v.isLt
  simp only [tolOk, TolValid, hsign, Nat.shiftRight_eq_div_pow, Bool.or_eq_true, Bool.and_eq_true, beq_iff_eq, bne_iff_ne, Bool.not_eq_true',
    decide_eq_false_iff_not, ne_eq]
  omega

section
variable {s : State} {who : Requester} {v : Word}

theorem State.writeTol_valid (h : TolValid v) (c n : Nat) (isAbs : Bool) : s.writeTol who c n isAbs v = s.modCove c fun k => k.modBrk fun b =>
    if isAbs then { b with tolAbs := b.tolAbs.set 0 n (tolStored v) } else { b with tolRel := b.tolRel.set 0 n (tolStored v) } :=
  if_pos (tolOk_iff.mpr h)

theorem State.writeTol_headland_invalid (h : ¬ TolValid v) (c n : Nat) (isAbs : Bool) : s.writeTol .headland c n isAbs v = s :=
  if_neg fun hok => h (tolOk_iff.mp hok)

theorem State.writeTol_core_invalid (h : ¬ TolValid v) (r : CoreRef) (c n : Nat) (isAbs : Bool) :
    s.writeTol (.core r) c n isAbs v = s.exception r 0x4034 := if_neg fun hok => h (tolOk_iff.mp hok)

variable {c : Fin 800} {n : Fin 16} {isAbs : Bool}

theorem exec_toleranceWrite_may (h : who = .headland ∨ ∃ k, who = .core ⟨c, k⟩) :
    exec (.toleranceWrite who c n isAbs v) s = .next (s.writeTol who c n isAbs v) := by
  refine occurs_true (Bool.or_eq_true_iff.mpr ?_)
  rw [coreOf_iff, beq_iff_eq]
  exact h.symm

theorem exec_toleranceWrite_other (hhead : who ≠ .headland) (hcore : ∀ k, who ≠ .core ⟨c, k⟩) :
    exec (.toleranceWrite who c n isAbs v) s = .next s := by
  refine occurs_false (Bool.or_eq_false_iff.mpr ⟨Bool.eq_false_iff.mpr fun h => ?_, beq_eq_false_iff_ne.mpr hhead⟩)
  obtain ⟨k, hk⟩ := coreOf_iff.mp h
  exact hcore k hk

/-- A valid value stands in the entry written and changes no other (R98). -/
theorem exec_toleranceWrite_valid (hwho : who = .headland ∨ ∃ k, who = .core ⟨c, k⟩) (h : TolValid v) :
    ∃ t, exec (.toleranceWrite who c n isAbs v) s = .next t ∧ CoveOnly c s t
      ∧ (∀ j, (t.cove c).brk.tolAbs.get 0 j = if isAbs = true ∧ j = n.val then tolStored v else (s.cove c).brk.tolAbs.get 0 j)
      ∧ ∀ j, (t.cove c).brk.tolRel.get 0 j = if isAbs = false ∧ j = n.val then tolStored v else (s.cove c).brk.tolRel.get 0 j := by
  refine ⟨_, (exec_toleranceWrite_may hwho).trans (congrArg _ (State.writeTol_valid h c n isAbs)), .modCove _ _ _, fun j => ?_, fun j => ?_⟩
  · rw [State.modCove_cove]
    cases isAbs with
    | false => simp
    | true => simp [Tab.get_set]
  · rw [State.modCove_cove]
    cases isAbs with
    | false => simp [Tab.get_set]
    | true => simp

/-! IG_CLR_PATTERN and CH_HEAD_SEL (R174, R334, R370). -/

/-- A mark that is cleared, or stood cleared; no other cove changes (R370). -/
theorem exec_igClrPattern_owner (howner : s.isOwner who = true) (hcove : v.toNat % 1024 = c.val) (hclear : v.getLsbD 10 = true) :
    ∃ t, exec (.igClrPattern who v) s = .next t ∧ (t.cove c).ig.pattern = false ∧ t.integ.ctrlCove = BitVec.ofNat 10 c
      ∧ ∀ d, d ≠ c.val → t.cove d = s.cove d := by
  have hc : bits v 0 10 = c := hcove
  refine ⟨_, occurs_owner howner _, ?_⟩
  rw [hc]
  split
  · have hcoves (u : State) (d : Nat) : (u.journalCove c).cove d = u.cove d := congrArg (fun x : Tab Cove => x.get {} d) (u.journalCove_only c .coves rfl)
    have hinteg (u : State) : (u.journalCove c).integ = u.integ := u.journalCove_only c .integ rfl
    refine ⟨?_, ?_, fun d hd => ?_⟩
    · rw [hcoves, State.modCoveTest_get_cove, State.modCove_cove, Cove.modIg_ig]
    · rw [hinteg, State.modCoveTest_integ, State.modCove_integ]
    · rw [hcoves, State.modCoveTest_get_cove, State.modCove_cove_other _ _ hd]
      rfl
  · next hstays =>
    refine ⟨Bool.eq_false_iff.mpr fun hmark => hstays ⟨hclear, c.isLt, hmark⟩, rfl, fun d _ => rfl⟩

theorem exec_chHeadSel_reader (h : s.readsCove who c = true) : exec (.chHeadSel who c v) s =
    .next (s.modCove c fun x => { x with ch := { x.ch with
      headSel := v.setWidth 7
      headMeta := match ((s.chan c).queues.get {} (v.toNat % 16 * 8 + v.toNat / 16 % 8)).msgs.head? with
        | some m => BitVec.ofNat 32 (1 + 2 * m.len + 256 * m.handle.toNat)
        | none => 0
      headData := match ((s.chan c).queues.get {} (v.toNat % 16 * 8 + v.toNat / 16 % 8)).msgs.head? with
        | some m => BitVec.ofNat 512 (m.data.toNat % 2 ^ (8 * m.len))
        | none => 0 } }) := by
  have hcore : (v.setWidth 7).toNat % 16 = v.toNat % 16 := by rw [BitVec.toNat_setWidth]; omega
  have hqueue : (v.setWidth 7).toNat / 16 = v.toNat / 16 % 8 := by rw [BitVec.toNat_setWidth]; omega
  have hhead : (((s.cove c).ch.queue ((v.setWidth 7).toNat % 16) ((v.setWidth 7).toNat / 16)).msgs.head?) =
      ((s.chan c).queues.get {} (v.toNat % 16 * 8 + v.toNat / 16 % 8)).msgs.head? := by
    rw [hcore, hqueue]
    rfl
  refine (occurs_true h).trans (congrArg (fun x => Host.Outcome.next (s.setCove c x)) ?_)
  simp only [Cove.modCh, hhead]
  cases ((s.chan c).queues.get {} (v.toNat % 16 * 8 + v.toNat / 16 % 8)).msgs.head? with
  | none => rfl
  | some m => simp only [lowBytes, Nat.mul_comm]

/-! The fourth stream word (R257, R259). -/

theorem State.streamPush_port {c l b : Nat} (hlog : s.logOf c = some l) (hbay : s.bayOfLog l = some b) (hport : (portStack l).isSome = true) :
    s.streamPush c v = s.pushDesc b l v (streamDesc (s.stream l).d v (s.stepsAt c).2)
      (s.streamFail b l v (streamDesc (s.stream l).d v (s.stepsAt c).2)) := by
  obtain ⟨k, hk⟩ := Option.isSome_iff_exists.mp hport
  simp only [State.streamPush, hlog, hk, hbay]

/-- A core of a cove without a port pushes nothing. -/
theorem State.streamPush_none {c : Nat} (h : s.streamAt c = none) : s.streamPush c v = .done s := by
  unfold State.streamAt at h
  cases hlog : s.logOf c with
  | none => simp only [State.streamPush, hlog]
  | some l =>
    have hport : portStack l = none := by simpa [hlog] using h
    simp only [State.streamPush, hlog, hport]

section
variable {b l : Nat} {x : StreamDesc}

theorem State.pushDesc_empty (h : x.words = 0) : s.pushDesc b l v x none = .done (s.modStream l fun p => { p with d := p.d.set 0 3 v }) := if_pos h

theorem State.pushDesc_room (h : x.words ≠ 0) (hroom : (s.stream l).fifo.length < 16) : s.pushDesc b l v x none =
    .done (s.modStream l fun p => { p with d := p.d.set 0 3 v, fifo := p.fifo ++ [{ x with id := p.nextId }], nextId := p.nextId + 1 }) :=
  (if_neg h).trans (if_neg (Nat.not_le.mpr hroom))

theorem State.pushDesc_full (h : x.words ≠ 0) (hfull : 16 ≤ (s.stream l).fifo.length) : s.pushDesc b l v x none = .full :=
  (if_neg h).trans (if_pos hfull)

end

theorem exec_strmD3Write_eq (r : CoreRef) : exec (.strmD3Write r v) s = match s.streamPush r.cove v with
    | .done t => .next t
    | .full => .next s
    | .refused t code => .next (t.exception r code) := rfl

end

/-- Settles O21: each write as its own lemma has it, by who makes it and whether its value is good. -/
theorem checkedRegisterWritesTakeEffect : Obligations.CheckedRegisterWritesTakeEffect := by
  intro s who c v
  refine ⟨fun hwho n isAbs => ⟨exec_toleranceWrite_valid hwho, fun hbad => ⟨?_, fun k => ?_⟩⟩, fun b hown => occurs_and_decide hown _, exec_igClrPattern_owner,
    exec_chHeadSel_reader, fun k l b hlog hbay hport => ?_, fun hhead hcore n isAbs => exec_toleranceWrite_other hhead hcore,
    fun b hown => occurs_false (Bool.and_eq_false_iff.mpr (.inl hown)), fun h => occurs_other h _, fun h => occurs_false h, fun h k => ?_⟩
  · rw [exec_toleranceWrite_may (.inl rfl), State.writeTol_headland_invalid hbad]
  · rw [exec_toleranceWrite_may (.inr ⟨k, rfl⟩), State.writeTol_core_invalid hbad]
  · have hpush := State.streamPush_port (v := v) hlog hbay hport
    refine ⟨fun hgood hempty => ?_, fun hgood hwords hroom => ?_, fun hgood hwords hfull => ?_, fun code hbad => ?_⟩
    · rw [exec_strmD3Write_eq, hpush, hgood, State.pushDesc_empty hempty]
    · rw [exec_strmD3Write_eq, hpush, hgood, State.pushDesc_room hwords hroom]
    · rw [exec_strmD3Write_eq, hpush, hgood, State.pushDesc_full hwords hfull]
    · rw [exec_strmD3Write_eq, hpush, hbad]
      rfl
  · rw [exec_strmD3Write_eq, State.streamPush_none h]

end Sys2Proof.Machine
end

section
/-!
SUPPORT. MRD and MWR (R98, R128, R257, R484): where the window of a core leads, and what the write of a register there leaves.
-/

namespace Sys2Proof.Machine

section
variable {s base : State} {r : CoreRef} {f : PCore → PCore} {P : PCore → PCore → Prop}

/-- An instruction that retires in `base` goes on at `next` with what it wrote; past the instruction memory its fetch raises 0x4102 (R108). -/
theorem State.retire_progress (next : Nat) (hf : PCore.Data (base.core r) (f (base.core r)))
    (hP : P (base.core r) ((f (base.core r)).finish (base.cycles r.cove) next)) :
    ∃ t, base.retire r next f = (if next = 0x4000 then t.exception r 0x4102 else t) ∧ t = base.modCore r (fun _ => t.core r)
      ∧ Progress (base.core r) (t.core r) (base.cycles r.cove) next ∧ P (base.core r) (t.core r) := by
  refine ⟨base.modCore r fun k => (f k).finish (base.cycles r.cove) next, rfl, ?_, ?_, ?_⟩
  · rw [State.modCore_core]
    rfl
  · rw [State.modCore_core]
    exact hf.finish _ _
  · rw [State.modCore_core]
    exact hP

theorem completes_retireNext {c : Instr} (h : exec c s = .next (base.retireNext r f)) (hcore : base.core r = s.core r)
    (hcycles : base.cycles r.cove = s.cycles r.cove) (hf : PCore.Data (s.core r) (f (s.core r)))
    (hP : P (s.core r) ((f (s.core r)).finish (s.cycles r.cove) ((s.core r).pc + 4))) : CompletesFrom c s base r ((s.core r).pc + 4) P := by
  rw [State.retireNext, hcore] at h
  exact completes_retire h hcore hcycles hf hP

/-- An instruction that writes no register completes. -/
theorem completes_retireNext_id {c : Instr} (h : exec c s = .next (base.retireNext r id)) (hcore : base.core r = s.core r)
    (hcycles : base.cycles r.cove = s.cycles r.cove) : CompletesFrom c s base r ((s.core r).pc + 4) WritesNone :=
  completes_retireNext h hcore hcycles (.refl _) (PCore.writesNone _ _ _)

/-- An instruction that writes `x` into g[rd] completes. -/
theorem completes_retireNext_wg {c : Instr} {rd : BitVec 5} {x : Word} (h : exec c s = .next (base.retireNext r fun k => k.wg rd x))
    (hcore : base.core r = s.core r) (hcycles : base.cycles r.cove = s.cycles r.cove) :
    CompletesFrom c s base r ((s.core r).pc + 4) (WritesG rd x) :=
  completes_retireNext h hcore hcycles (.wg _ _ _) (PCore.writesG_wg _ _ _ _ _)

/-- A change of the cove that leaves its cores leaves each core as read. -/
theorem State.core_modCove {c : Nat} {g : Cove → Cove} (hg : (g (s.cove c)).cores = (s.cove c).cores) (q : CoreRef) :
    (s.modCove c g).core q = s.core q := by
  unfold State.core
  rcases eq_or_ne q.cove.val c with rfl | hne
  · rw [State.modCove_cove, Cove.core, hg]
    rfl
  · rw [State.modCove_cove_other _ _ hne]

end

/-! Where the window leads (R484). -/

theorem State.windowAt_cove (s : State) (r : CoreRef) {a : Nat} (h : a < 0xC000) : s.windowAt r a = some (0x1000000 + 0x10000 * r.cove + a) := by
  rw [State.windowAt, if_pos h, coveBase]

theorem State.windowAt_steps (s : State) (r : CoreRef) {a : Nat} (h : 0xC000 ≤ a) :
    s.windowAt r a = (s.bayOf r.cove).map fun n => 0x20000 + 0x200 * n + (a - 0xC000) := by
  rw [State.windowAt, if_neg (Nat.not_lt.mpr h)]

/-! MRD (R128, R484). -/

theorem windowOk_iff {a : Nat} : windowOk a = true ↔ a % 4 = 0 ∧ a < 0x10000 := by simp [windowOk]

section
variable {s : State} {r : CoreRef} {w : IFields} {a : Nat} (haddr : s.windowAddr r w = a)
include haddr

section
variable (hready : ready s r { g := [w.ra], wg := [w.rd] } = true)
include hready

theorem exec_mrd_outside (ha : ¬ (a % 4 = 0 ∧ a < 0x10000)) : exec (.mrd r w) s = .next (s.exception r 0x4106) := by
  have hbad : windowOk (a) = false := Bool.eq_false_iff.mpr fun h => ha (windowOk_iff.mp h)
  refine (issue_ready hready).trans ?_
  simp only [haddr, hbad, Bool.not_false, if_true]

theorem exec_mrd_inside (h4 : a % 4 = 0) (hlt : a < 0x10000) : exec (.mrd r w) s =
    .next (((if a < 0xC020 then s.windowAt r (a) else none).elim (s.retireNext r fun k => k.wg w.rd 0) fun m =>
      (s.readAt (.core r) m).2.retireNext r fun k => k.wg w.rd (s.readAt (.core r) m).1)) := by
  refine (issue_ready hready).trans ?_
  simp only [haddr, windowOk_iff.mpr ⟨h4, hlt⟩, Bool.not_true, Bool.false_eq_true, if_false]
  cases if a < 0xC020 then s.windowAt r (a) else none <;> rfl

/-- MRD of a register completes with the word that a read of it returns, in the state which that read leaves. -/
theorem exec_mrd_register {m : Nat} (h4 : a % 4 = 0) (hlt : a < 0xC020) (hm : s.windowAt r (a) = some m) :
    let b := s.readAt (.core r) m
    ∃ t, exec (.mrd r w) s = .next (if (b.2.core r).pc + 4 = 0x4000 then t.exception r 0x4102 else t)
      ∧ t = b.2.modCore r (fun _ => t.core r) ∧ Progress (b.2.core r) (t.core r) (b.2.cycles r.cove) ((b.2.core r).pc + 4)
      ∧ WritesG w.rd b.1 (b.2.core r) (t.core r) := by
  intro b
  obtain ⟨t, ht, hrest⟩ := State.retire_progress (base := b.2) (r := r) (f := fun k => k.wg w.rd b.1) (P := WritesG w.rd b.1)
    ((b.2.core r).pc + 4) (.wg _ _ _) (PCore.writesG_wg _ _ _ _ _)
  refine ⟨t, ?_, hrest⟩
  rw [exec_mrd_inside haddr hready h4 (by omega), if_pos hlt, hm, ← ht]
  rfl

/-- What lies in no block reads 0. -/
theorem exec_mrd_reserved (h4 : a % 4 = 0) (hlt : a < 0x10000)
    (hnone : (if a < 0xC020 then s.windowAt r (a) else none) = none) :
    Completes (.mrd r w) s r ((s.core r).pc + 4) (WritesG w.rd 0) := by
  refine completes_retireNext_wg ?_ rfl rfl
  rw [exec_mrd_inside haddr hready h4 hlt, hnone]
  rfl

end

/-! MWR (R98, R128, R257). -/

section
variable (hready : readyAgain s r (fun x => x == .mwr) { g := [w.ra, w.rd] } = true)
include hready

theorem exec_mwr_outside (ha : ¬ (a % 4 = 0 ∧ a < 0x10000)) : exec (.mwr r w) s = .next (s.exception r 0x4106) := by
  have hbad : windowOk (a) = false := Bool.eq_false_iff.mpr fun h => ha (windowOk_iff.mp h)
  refine (issue_ready hready).trans ?_
  simp only [haddr, hbad, Bool.not_false, if_true]

theorem exec_mwr_inside (h4 : a % 4 = 0) (hlt : a < 0x10000) : exec (.mwr r w) s =
    .next (if 0xC020 ≤ a then s.retireNext r id
      else if 0xC000 ≤ a then s.exception r 0x4106
      else s.coreWrite r (a) ((s.core r).rg w.rd)) := by
  refine (issue_ready hready).trans ?_
  simp only [haddr, windowOk_iff.mpr ⟨h4, hlt⟩, Bool.not_true, Bool.false_eq_true, if_false]

theorem exec_mwr_register (h4 : a % 4 = 0) (hlt : a < 0xC000) :
    exec (.mwr r w) s = .next (s.coreWrite r (a) ((s.core r).rg w.rd)) := by
  rw [exec_mwr_inside haddr hready h4 (by omega), if_neg (by omega), if_neg (by omega)]

end
end

/-! The registers of a cove's own region that a core writes. -/

theorem regAt_cove (c : Fin 800) {a : Nat} (ha : a < 0x10000) : regAt (coveBase c + a) = (coveBlock c a).filter fun x => x.1.isReg x.2 := by
  rw [regAt, coveBase, blockAt_cove c ha]

theorem regAt_tolerance (c : Fin 800) {a : Nat} (h80 : 0x80 ≤ a) (h100 : a < 0x100) : regAt (coveBase c + a) = some (.brk c, a) := by
  have hreg : Block.isReg (.brk c) a = true := by
    simp only [Block.isReg_iff, Block.last, Block.gaps, Block.gapOff, List.forall_mem_cons, List.not_mem_nil, false_imp_iff, implies_true, and_true]
    omega
  rw [regAt_cove c (by omega), coveBlock, if_pos h100, Option.filter_some, if_pos hreg]

theorem regAt_stream (c : Fin 800) (hrow : c.val / 40 = 0 ∨ c.val / 40 = 19) {o : Nat} (ho : o < 0x18) :
    regAt (coveBase c + (0x200 + o)) = some (.strm c, o) := by
  have hreg : Block.isReg (.strm c) o = true := by
    simp only [Block.isReg_iff, Block.last, Block.gaps, Block.gapOff, List.not_mem_nil, false_imp_iff, implies_true, and_true]
    omega
  rw [regAt_cove c (by omega), coveBlock, if_neg (by omega), if_neg (by omega), if_pos (by omega), if_pos hrow, Nat.add_sub_cancel_left,
    Option.filter_some, if_pos hreg]

theorem coveBlock_brk {c a d o : Nat} (h : coveBlock c a = some (.brk d, o)) : o = a ∧ a < 0x100 := by
  unfold coveBlock at h
  split_ifs at h <;> simp_all

theorem coveBlock_strm {c a d o : Nat} (h : coveBlock c a = some (.strm d, o)) : o = a - 0x200 ∧ 0x200 ≤ a ∧ (c / 40 = 0 ∨ c / 40 = 19) := by
  unfold coveBlock at h
  split_ifs at h <;> simp_all

section
variable {s : State} {r : CoreRef} {v : Word} {a : Nat}

theorem State.coreWrite_tolerance_valid {n : Nat} {isAbs : Bool} (hn : n < 16) (ha : a = 0x80 + 8 * n + if isAbs then 4 else 0) (hv : TolValid v) :
    s.coreWrite r a v = (s.writeTol (.core r) r.cove n isAbs v).retireNext r id := by
  have hentry : (a - 0x80) / 8 = n ∧ (a % 8 == 4) = isAbs ∧ 0x80 ≤ a ∧ a < 0x100 := by
    cases isAbs with
    | false => simp only [Bool.false_eq_true, if_false] at ha; simp only [beq_eq_false_iff_ne]; omega
    | true => simp only [if_true] at ha; simp only [beq_iff_eq]; omega
  obtain ⟨hindex, hkind, h80, h100⟩ := hentry
  simp only [State.coreWrite, regAt_tolerance r.cove h80 h100, hindex, hkind, tolOk_iff.mpr hv, if_true, if_neg (Nat.not_lt.mpr h80)]

theorem State.coreWrite_tolerance_invalid (h80 : 0x80 ≤ a) (h100 : a < 0x100) (hv : ¬ TolValid v) : s.coreWrite r a v = s.exception r 0x4034 := by
  have hbad : ¬ tolOk v = true := fun hok => hv (tolOk_iff.mp hok)
  simp only [State.coreWrite, regAt_tolerance r.cove h80 h100, if_neg (Nat.not_lt.mpr h80), if_neg hbad]

section
variable (hrow : r.cove.val / 40 = 0 ∨ r.cove.val / 40 = 19)
include hrow

theorem State.coreWrite_streamWord {n l : Nat} (hn : n < 3) (ha : a = 0x204 + 4 * n) (hl : s.streamAt r.cove = some l) :
    s.coreWrite r a v = (s.modStream l fun p => { p with d := p.d.set 0 n v }).retireNext r id := by
  have hoff : a = 0x200 + (4 + 4 * n) := by omega
  have hword : (4 + 4 * n - 4) / 4 = n := by omega
  rw [hoff, State.coreWrite, regAt_stream r.cove hrow (by omega)]
  dsimp only
  rw [if_neg (by omega), if_pos (by omega), hl, hword]

theorem State.coreWrite_push : s.coreWrite r 0x210 v = match s.streamPush r.cove v with
    | .done t => t.retireNext r id
    | .full => s.stall r .mwr
    | .refused t code => t.exception r code := by
  rw [State.coreWrite, regAt_stream r.cove hrow (o := 0x10) (by omega)]
  exact if_pos rfl

theorem State.coreWrite_pushed {t : State} (h : s.streamPush r.cove v = .done t) : s.coreWrite r 0x210 v = t.retireNext r id := by
  rw [State.coreWrite_push hrow, h]

theorem State.coreWrite_full (h : s.streamPush r.cove v = .full) : s.coreWrite r 0x210 v = s.stall r .mwr := by
  rw [State.coreWrite_push hrow, h]

theorem State.coreWrite_refused {t : State} {code : Code} (h : s.streamPush r.cove v = .refused t code) :
    s.coreWrite r 0x210 v = t.exception r code := by
  rw [State.coreWrite_push hrow, h]

end

/-- A core writes no other register of its cove (R484). -/
theorem State.coreWrite_other (ha : a < 0xC000) (h4 : a % 4 = 0) (htol : ¬ (0x80 ≤ a ∧ a < 0x100))
    (hstream : ¬ (0x204 ≤ a ∧ a ≤ 0x210 ∧ (r.cove.val / 40 = 0 ∨ r.cove.val / 40 = 19))) : s.coreWrite r a v = s.exception r 0x4106 := by
  have hblock {x : Block × Nat} (h : regAt (coveBase r.cove + a) = some x) : coveBlock r.cove a = some x := by
    rw [regAt_cove r.cove (by omega)] at h
    exact (Option.filter_eq_some_iff.mp h).1
  unfold State.coreWrite
  split
  · next h =>
    obtain ⟨rfl, hlt⟩ := coveBlock_brk (hblock h)
    exact if_pos (by omega)
  · next h =>
    obtain ⟨ho, hge, hrow⟩ := coveBlock_strm (hblock h)
    rw [if_neg (by omega), if_neg (by omega)]
  · rfl

end

/-- Settles O22: the block that the window's offset lies in decides, and within it what the register's write does. -/
theorem registerWindowInstructionsComplete : Obligations.RegisterWindowInstructionsComplete := by
  intro s r w k a v
  have haddr : s.windowAddr r w = a := rfl
  clear_value a
  refine ⟨fun hready => ⟨fun m h4 hm => ?_, fun h4 hge hlt hnone => ?_, fun h4 hge hlt => ?_, exec_mrd_outside haddr hready⟩,
    fun hready => ⟨fun n isAbs hn ha hv => ?_, fun n l hn ha hrow hl => ?_, fun l b ha hrow hlog hport hbay => ?_, fun n hn ha hv => ?_,
      fun h4 hlt htol hstream => ?_, fun h4 hge hlt => ?_, fun h4 hge hlt => ?_, exec_mwr_outside haddr hready⟩⟩
  · rcases hm with ⟨hlt, hm⟩ | ⟨hge, hlt, n, hn, hm⟩
    · exact exec_mrd_register haddr hready h4 (by omega) (by rw [s.windowAt_cove r hlt, hm])
    · exact exec_mrd_register haddr hready h4 hlt (by rw [s.windowAt_steps r hge, hn, Option.map_some, hm])
  · exact exec_mrd_reserved haddr hready h4 (by omega) (by rw [if_pos hlt, s.windowAt_steps r hge, hnone, Option.map_none])
  · exact exec_mrd_reserved haddr hready h4 hlt (if_neg (Nat.not_lt.mpr hge))
  · have hlt : a < 0xC000 := by cases isAbs <;> (simp at ha; omega)
    have h4 : a % 4 = 0 := by cases isAbs <;> (simp at ha; omega)
    refine completes_retireNext_id ?_ (State.core_modCove rfl r) rfl
    rw [exec_mwr_register haddr hready h4 hlt, State.coreWrite_tolerance_valid hn ha hv, State.writeTol_valid hv]
    rfl
  · refine completes_retireNext_id ?_ rfl rfl
    rw [exec_mwr_register haddr hready (show a % 4 = 0 by omega) (show a < 0xC000 by omega), State.coreWrite_streamWord hrow hn ha hl]
  · intro x kept
    subst ha
    have hexec : exec (.mwr r w) s = .next (s.coreWrite r 0x210 v) := exec_mwr_register haddr hready rfl (by omega)
    have hpush : s.streamPush r.cove v = s.pushDesc b l v x (s.streamFail b l v x) := State.streamPush_port hlog hbay hport
    refine ⟨fun hgood hempty => completes_retireNext_id ?_ rfl rfl, fun hgood hwords hroom => completes_retireNext_id ?_ rfl rfl,
      fun hgood hwords hfull => ?_, fun code hbad => ?_⟩
    · rw [hexec, State.coreWrite_pushed hrow (hpush.trans (by rw [hgood, State.pushDesc_empty hempty]))]
    · rw [hexec, State.coreWrite_pushed hrow (hpush.trans (by rw [hgood, State.pushDesc_room hwords hroom]))]
    · rw [hexec, State.coreWrite_full hrow (hpush.trans (by rw [hgood, State.pushDesc_full hwords hfull]))]
    · rw [hexec, State.coreWrite_refused hrow (hpush.trans (by rw [hbad]; rfl))]
  · rw [exec_mwr_register haddr hready (show a % 4 = 0 by omega) (show a < 0xC000 by omega)]
    exact congrArg _ (State.coreWrite_tolerance_invalid (show 0x80 ≤ a by omega) (show a < 0x100 by omega) hv)
  · rw [exec_mwr_register haddr hready h4 hlt]
    exact congrArg _ (State.coreWrite_other hlt h4 htol hstream)
  · refine completes_retireNext_id ?_ rfl rfl
    rw [exec_mwr_inside haddr hready h4 hlt]
    exact congrArg _ (if_pos hge)
  · rw [exec_mwr_inside haddr hready h4 (by omega)]
    exact congrArg _ ((if_neg (Nat.not_le.mpr hlt)).trans (if_pos hge))

end Sys2Proof.Machine
end

section
/-!
SUPPORT. BREAKER_ACCEPT (R55, R85 to R88, R336): the pair table's read, what becomes of a descriptor, and its core.
-/

namespace Sys2Proof.Machine

theorem State.modCove_congr {s : State} {c : Nat} {f g : Cove → Cove} (h : f (s.cove c) = g (s.cove c)) : s.modCove c f = s.modCove c g :=
  congrArg (s.setCove c) h

/-! The read of the pair table (R335): free values and the table may change, no more. -/

theorem State.readPairs_untagged (s : State) (c : Nat) {tag : BitVec 16} (h : tag.toNat % 2 ^ 15 = 0) : s.readPairs c tag = s := if_pos h

section
variable (s : State) (c : Nat) (tag : BitVec 16)

theorem State.readPairs_ig : ∃ f, (s.readPairs c tag).cove c = (s.cove c).modIg f := by
  unfold State.readPairs
  extract_lets s1
  split
  · exact ⟨id, rfl⟩
  · split
    · exact ⟨id, rfl⟩
    · split
      · split
        · exact ⟨_, State.modCove_cove _ _ _⟩
        · exact ⟨id, rfl⟩
      · exact ⟨id, rfl⟩

theorem State.readPairs_cove_other {d : Nat} (h : d ≠ c) : (s.readPairs c tag).cove d = s.cove d := by
  unfold State.readPairs
  extract_lets s1
  split
  · rfl
  · split
    · rfl
    · split
      · split
        · exact State.modCove_cove_other _ _ h
        · rfl
      · rfl

theorem State.readPairs_brk : ((s.readPairs c tag).cove c).brk = (s.cove c).brk := by
  obtain ⟨f, hf⟩ := s.readPairs_ig c tag
  rw [hf, Cove.modIg_brk]

theorem State.readPairs_sp : ((s.readPairs c tag).cove c).sp = (s.cove c).sp := by
  obtain ⟨f, hf⟩ := s.readPairs_ig c tag
  rw [hf, Cove.modIg_sp]

theorem State.readPairs_core (r : CoreRef) : (s.readPairs c tag).core r = s.core r := by
  unfold State.core
  by_cases h : r.cove.val = c
  · obtain ⟨f, hf⟩ := s.readPairs_ig c tag
    rw [h, hf, Cove.core, Cove.modIg_cores]
    rfl
  · rw [s.readPairs_cove_other c tag h]

theorem State.readPairs_cycles (d : Nat) : (s.readPairs c tag).cycles d = s.cycles d :=
  congrArg (fun x : Clocks => (x.halves.get {} (halfOf d)).cyc160 / 160) (s.readPairs_only c tag .clk rfl)

theorem State.stepsAt_congr {s t : State} (hrot : t.rot = s.rot) (hbays : t.bays = s.bays) (c : Nat) : t.stepsAt c = s.stepsAt c := by
  have hread : t.stepsAt c = State.stepsAt { s with rot := t.rot, bays := t.bays } c := rfl
  rw [hread, hrot, hbays]

theorem State.readPairs_stepsAt (d : Nat) : (s.readPairs c tag).stepsAt d = s.stepsAt d :=
  State.stepsAt_congr (s.readPairs_only c tag .rot rfl) (s.readPairs_only c tag .bays rfl) d

end

/-! What becomes of a descriptor, once the pair table is read. -/

section
variable (u : State) (c : Nat)

/-- What the pair table makes of an operation of the running step: its primary pair, its shadow pair, whether it runs as a no-op. -/
def State.tilePairs (d : TileDesc) : Option Nat × Option Nat × Bool := u.pairing c (u.stepsAt c).2 d.tag

/-- The operation streams nothing: a no-op, an empty one, a shadow of no enabled pair, or in a drain step no shadow (R55, R336). -/
abbrev State.tileIdles (d : TileDesc) : Prop :=
  d.op = 0 ∨ d.kblk = 0 ∨ (d.op = 1 ∧ ((u.tilePairs c d).2.2 = true ∨ ((u.stepsAt c).1.newest.any StepRec.drain && (u.tilePairs c d).2.1.isNone) = true))

/-- D is held: its reload is not done, or the step judges its use a fault (R50). -/
def State.tileHeld (d : TileDesc) : Prop :=
  ((u.cove c).sp.handle d.d.handle).reload = true ∨ (u.stepsAt c).1.judge ((u.cove c).sp.handle d.d.handle) (u.stepsAt c).2 = .fault

/-- The code that rejects the descriptor, 0 if none: a field's fault before that of D_HANDLE (R87). -/
def State.tileFault (d : TileDesc) : Code :=
  if tileCheck (u.cove c).sp d = 0 then (if u.tileIdles c d then ((0 : Code), Judge.ok) else tileJudge u c d).1 else tileCheck (u.cove c).sp d

/-- The operation that core `k`'s descriptor is queued as. -/
def State.tileOp (k : Nat) (raw : BitVec 256) : TileOp :=
  let d := tileDesc raw
  let b := (u.cove c).brk
  { desc := raw, seq := b.seq + 1, core := k, step := (u.stepsAt c).2, attempt := ((u.stepsAt c).1.newest.map StepRec.attempt).getD 0
    tolRel := b.tolRel.get 0 d.tol, tolAbs := b.tolAbs.get 0 d.tol
    injCk := d.op == 1 && !decide (u.tileIdles c d) && b.injCk
    shadow := if d.op = 1 ∧ d.kblk ≠ 0 then (u.tilePairs c d).2.1 else none
    primary := if d.op = 1 ∧ d.kblk ≠ 0 then (u.tilePairs c d).1 else none
    noop := u.tileIdles c d }

/-- The state once the operation is queued. -/
def State.queueTile (k : Nat) (raw : BitVec 256) : State :=
  let d := tileDesc raw
  let op := u.tileOp c k raw
  u.modCove c fun v => { v with
    brk := { v.brk with queue := (u.cove c).brk.queue ++ [op], seq := (u.cove c).brk.seq + 1, lastCore := k, injCk := (u.cove c).brk.injCk && !op.injCk }
    ig := if (d.op = 1 ∧ d.kblk ≠ 0) ∧ (u.tilePairs c d).2.2 = true then { v.ig with ctr := bump v.ig.ctr 4 1 }
      else v.ig.notePaired op (u.attemptOf c ((u.stepsAt c).2 - 1)) }

/-- The state once core `k`'s descriptor is rejected with `code`, before the core takes it as its exception. -/
def State.rejectTile (k : Nat) (d : TileDesc) (code : Code) : State :=
  u.modCove c fun v => { v with
    brk := { v.brk with rejCode := code, rejCore := BitVec.ofNat 4 k }
    sp := if code.toNat / 4096 = 5 then v.sp.noteFault code (if code = 0x5017 then d.d.handle else tileFaultHandle v.sp d) 0 1 else v.sp }

end

section
variable {u : State} {c : Nat} {d : TileDesc}

theorem State.tileFault_of_check (h : tileCheck (u.cove c).sp d ≠ 0) : u.tileFault c d = tileCheck (u.cove c).sp d := if_neg h

theorem State.tileFault_of_held (hcheck : tileCheck (u.cove c).sp d = 0) (hop : d.op = 1) (hidle : ¬ u.tileIdles c d) (hheld : u.tileHeld c d) :
    u.tileFault c d = 0x5017 := by
  have hblocks : d.kblk ≠ 0 := fun h => hidle (.inr (.inl h))
  rw [State.tileFault, if_pos hcheck, if_neg hidle, tileJudge]
  dsimp only
  rw [if_neg (not_or.mpr ⟨not_not.mpr hop, hblocks⟩)]
  rcases hheld with hreload | hfault
  · rw [if_pos hreload]
  · rw [hfault]
    split <;> rfl

theorem State.tileFault_none (hcheck : tileCheck (u.cove c).sp d = 0) (hfree : d.op = 1 → ¬ u.tileIdles c d → ¬ u.tileHeld c d) :
    u.tileFault c d = 0 := by
  rw [State.tileFault, if_pos hcheck]
  split
  · rfl
  · next hidle =>
    unfold tileJudge
    dsimp only
    split
    · rfl
    · next hop =>
      obtain ⟨hreload, hjudge⟩ := not_or.mp (hfree (not_not.mp (not_or.mp hop).1) hidle)
      rw [if_neg hreload]
      split
      · next hfault => exact absurd hfault hjudge
      · rfl

end

section
variable {s : State} {c : Fin 800}

theorem exec_breakerAccept_none (h : (s.cove c).presenting = none) : exec (.breakerAccept c) s = .next s := by
  simp only [exec_breakerAccept, execBreakerAccept, h]

theorem exec_breakerAccept_full (hfull : 8 ≤ (s.cove c).brk.queue.length) : exec (.breakerAccept c) s = .next s := by
  cases h : (s.cove c).presenting with
  | none => exact exec_breakerAccept_none h
  | some x =>
    simp only [exec_breakerAccept, execBreakerAccept, h]
    exact if_pos hfull

section
variable {k : Fin 16} {raw : BitVec 256} {rd : BitVec 5} (hpresents : (s.cove c).presenting = some (k.val, raw, rd))
include hpresents

variable (hroom : (s.cove c).brk.queue.length < 8)
include hroom

theorem exec_breakerAccept_queues (hgood : (s.readPairs c (tileDesc raw).tag).tileFault c (tileDesc raw) = 0) : exec (.breakerAccept c) s =
    .next (((s.readPairs c (tileDesc raw).tag).queueTile c k raw).retireNext ⟨c, k⟩ fun q => q.wg rd (((s.cove c).brk.seq + 1).setWidth 32)) := by
  have hk : Fin.ofNat 16 k.val = k := Fin.ofNat_val_eq_self k
  rw [← s.readPairs_brk c (tileDesc raw).tag]
  rw [exec_breakerAccept, execBreakerAccept]
  dsimp only
  rw [hpresents]
  dsimp only
  rw [if_neg (Nat.not_le.mpr hroom), hk]
  exact if_neg (not_not.mpr hgood)

theorem exec_breakerAccept_rejects {code : Code} (hbad : (s.readPairs c (tileDesc raw).tag).tileFault c (tileDesc raw) = code) (hcode : code ≠ 0) :
    exec (.breakerAccept c) s = .next (((s.readPairs c (tileDesc raw).tag).rejectTile c k (tileDesc raw) code).exception ⟨c, k⟩ code) := by
  have hk : Fin.ofNat 16 k.val = k := Fin.ofNat_val_eq_self k
  subst hbad
  rw [exec_breakerAccept, execBreakerAccept]
  dsimp only
  rw [hpresents]
  dsimp only
  rw [if_neg (Nat.not_le.mpr hroom), hk]
  exact if_pos hcode

end
end

section
variable {u : State} {c : Nat} {st : Steps} {m : Nat} {primary shadow : Option Nat} {skipped : Bool}

theorem State.tilePairs_eq {d : TileDesc} (hsteps : u.stepsAt c = (st, m)) (hpairs : u.pairing c m d.tag = (primary, shadow, skipped)) :
    u.tilePairs c d = (primary, shadow, skipped) := by
  rw [State.tilePairs, hsteps, hpairs]

theorem State.tileIdles_iff {d : TileDesc} (hsteps : u.stepsAt c = (st, m)) (hpairs : u.tilePairs c d = (primary, shadow, skipped)) :
    u.tileIdles c d ↔ d.op = 0 ∨ d.kblk = 0 ∨ (d.op = 1 ∧ (skipped = true ∨ st.newest.any StepRec.drain = true ∧ shadow = none)) := by
  rw [State.tileIdles, hpairs, hsteps, Bool.and_eq_true, Option.isNone_iff_eq_none]

theorem State.tileHeld_iff {d : TileDesc} (hsteps : u.stepsAt c = (st, m)) :
    u.tileHeld c d ↔ ((u.cove c).sp.handle d.d.handle).reload = true ∨ st.judge ((u.cove c).sp.handle d.d.handle) m = .fault := by
  rw [State.tileHeld, hsteps]

theorem State.queueTile_eq {k : Nat} {raw : BitVec 256} (hsteps : u.stepsAt c = (st, m))
    (hpairs : u.tilePairs c (tileDesc raw) = (primary, shadow, skipped)) : u.queueTile c k raw = u.modCove c fun v => { v with
      brk := { v.brk with
        queue := (u.cove c).brk.queue ++ [u.tileOp c k raw], seq := (u.cove c).brk.seq + 1, lastCore := k
        injCk := (u.cove c).brk.injCk && !(u.tileOp c k raw).injCk }
      ig := if (tileDesc raw).op = 1 ∧ (tileDesc raw).kblk ≠ 0 ∧ skipped = true then { v.ig with ctr := bump v.ig.ctr 4 1 }
        else v.ig.notePaired (u.tileOp c k raw) (u.attemptOf c (m - 1)) } := by
  simp only [State.queueTile, hpairs, hsteps, and_assoc]

/-- The operation that is queued carries what the array's registers, the step and the pair table gave at its acceptance (R86, R98, R336). -/
theorem State.tileOp_fields {k : Nat} {raw : BitVec 256} (hsteps : u.stepsAt c = (st, m))
    (hpairs : u.tilePairs c (tileDesc raw) = (primary, shadow, skipped)) :
    (u.tileOp c k raw).step = m
      ∧ ((tileDesc raw).op = 1 ∧ (tileDesc raw).kblk ≠ 0 → (u.tileOp c k raw).shadow = shadow ∧ (u.tileOp c k raw).primary = primary)
      ∧ (¬ ((tileDesc raw).op = 1 ∧ (tileDesc raw).kblk ≠ 0) → (u.tileOp c k raw).shadow = none ∧ (u.tileOp c k raw).primary = none)
      ∧ ((u.tileOp c k raw).noop = true ↔ u.tileIdles c (tileDesc raw)) := by
  refine ⟨congrArg Prod.snd hsteps, fun h => ⟨?_, ?_⟩, fun h => ⟨if_neg h, if_neg h⟩, decide_eq_true_iff⟩
  · exact (if_pos h).trans (by rw [hpairs])
  · exact (if_pos h).trans (by rw [hpairs])

end

theorem State.queueTile_core (u : State) (c : Fin 800) (k : Nat) (raw : BitVec 256) (r : CoreRef) : (u.queueTile c k raw).core r = u.core r :=
  State.core_modCove rfl r

theorem State.rejectTile_core (u : State) (c : Fin 800) (k : Nat) (d : TileDesc) (code : Code) (r : CoreRef) : (u.rejectTile c k d code).core r = u.core r :=
  State.core_modCove rfl r

section
variable {s : State} {c : Fin 800} {k : Fin 16} {raw : BitVec 256} {rd : BitVec 5} (hpresents : (s.cove c).presenting = some (k.val, raw, rd))
  (hroom : (s.cove c).brk.queue.length < 8)
include hpresents hroom

/-- The core of a descriptor that is queued completes its BISSUE with the operation's number (R86). -/
theorem breakerAccept_completes (hgood : (s.readPairs c (tileDesc raw).tag).tileFault c (tileDesc raw) = 0) :
    CompletesFrom (.breakerAccept c) s ((s.readPairs c (tileDesc raw).tag).queueTile c k raw) ⟨c, k⟩ ((s.core ⟨c, k⟩).pc + 4)
      (WritesG rd (((s.cove c).brk.seq + 1).setWidth 32)) :=
  completes_retireNext_wg (exec_breakerAccept_queues hpresents hroom hgood) ((State.queueTile_core _ _ _ _ _).trans (s.readPairs_core _ _ _))
    (s.readPairs_cycles _ _ _)

end

end Sys2Proof.Machine
end

section
/-!
SUPPORT. BREAKER_OP_START (R68 to R71, R84, R88 to R91): what the queue's head takes along as it starts.
-/

namespace Sys2Proof.Machine

/-- One more change of the cove, which stands listed before it. -/
theorem CoveOnly.step {s t : State} {c : Nat} (h : CoveOnly c s t) (hlisted : t.cove c ≠ {}) (g : Cove → Cove) : CoveOnly c s (t.modCove c g) := by
  unfold CoveOnly at h
  generalize t.cove c = w at h hlisted
  subst h
  rw [CoveOnly, State.modCove_cove, State.modCove, State.setCove_cove]
  exact congrArg (fun x => ({ s with coves := x } : State)) (Tab.set_set _ _ _ _ hlisted)

theorem Cove.ne_of_running {v : Cove} (h : v.brk.running ≠ []) : v ≠ {} := by
  rintro rfl
  exact h rfl

/-- A table filled by place. -/
theorem Tab.get_foldl_range {α : Type} [DecidableEq α] (d : α) (g : Nat → α) {n e : Nat} (he : e < n) :
    (((List.range n).map fun i => (i, g i)).foldl (fun (t : Tab α) x => t.set d x.1 x.2) {}).get d e = g e := by
  induction n with
  | zero => omega
  | succ n ih =>
    rw [List.range_succ, List.map_append, List.foldl_append, List.map_singleton, List.foldl_cons, List.foldl_nil, Tab.get_set]
    split
    · next heq => rw [heq]
    · exact ih (by omega)

/-- The accumulators of an operation as it has streamed (R68 to R71). -/
theorem streamOf_acc (p : Scratchpad) (op : TileOp) (set : Bool) (cyc : Nat) (parity : Bool) {e : Nat} (he : e < 4096) :
    (streamOf p op set cyc parity).1.acc.get 0 e =
      f32Bits (mainCell p (tileDesc op.desc) (cellElem (tileDesc op.desc) (e / 64) (e % 64)).1 (cellElem (tileDesc op.desc) (e / 64) (e % 64)).2).v := by
  unfold streamOf
  extract_lets d
  dsimp only
  rw [List.map_map]
  exact Tab.get_foldl_range 0 _ he

@[simp] theorem Breaker.settle_accSet (b : Breaker) (cyc : Nat) : (b.settle cyc).accSet = b.accSet := rfl

section
variable {s : State} {c : Fin 800} {lost : List (Fin 16)} {op : TileOp} {rest : List TileOp}

theorem exec_breakerOpStart_empty (h : (s.cove c).brk.queue = []) (parity : Option (Fin 16 × Fin 2048)) :
    exec (.breakerOpStart c lost parity) s = .next s := by
  have hqueue : ((s.cove c).modBrk fun b => b.settle (s.cycles c)).brk.queue = [] := h
  simp only [exec_breakerOpStart, execBreakerOpStart, hqueue]

variable (hqueue : (s.cove c).brk.queue = op :: rest)
include hqueue

theorem exec_breakerOpStart_waits (h : s.headWaits c op = true ∨ ((s.cove c).brk.settle (s.cycles c)).streams = true)
    (parity : Option (Fin 16 × Fin 2048)) : exec (.breakerOpStart c lost parity) s = .next s := by
  have hsettled : ((s.cove c).modBrk fun b => b.settle (s.cycles c)).brk.queue = op :: rest := hqueue
  simp only [exec_breakerOpStart, execBreakerOpStart, hsettled]
  exact if_pos h

variable (hgoes : ¬ (s.headWaits c op = true ∨ ((s.cove c).brk.settle (s.cycles c)).streams = true))
include hgoes

/-- A no-op takes a place among the operations that run (R90). -/
theorem exec_breakerOpStart_noop (hnoop : op.noop = true) (parity : Option (Fin 16 × Fin 2048)) : exec (.breakerOpStart c lost parity) s =
    .next (s.modCove c fun v => { v with brk := { (s.cove c).brk.settle (s.cycles c) with
      queue := rest
      running := ((s.cove c).brk.settle (s.cycles c)).running ++ [{ op := op, set := ((s.cove c).brk.settle (s.cycles c)).accSet }] } }) := by
  have hsettled : ((s.cove c).modBrk fun b => b.settle (s.cycles c)).brk.queue = op :: rest := hqueue
  simp only [exec_breakerOpStart, execBreakerOpStart, hsettled]
  exact (if_neg hgoes).trans (if_pos hnoop)

theorem exec_breakerOpStart_fill (hnoop : op.noop = false) (hfill : (tileDesc op.desc).op = 2) (parity : Option (Fin 16 × Fin 2048)) :
    exec (.breakerOpStart c lost parity) s = .next (s.modCove c fun v => { v with brk := { (s.cove c).brk.settle (s.cycles c) with
      queue := rest
      running := ((s.cove c).brk.settle (s.cycles c)).running ++
        [{ op := op, set := ((s.cove c).brk.settle (s.cycles c)).accSet, startCyc := s.cycles c, left := 8 * ((tileDesc op.desc).kblk * 32) }] } }) := by
  have hsettled : ((s.cove c).modBrk fun b => b.settle (s.cycles c)).brk.queue = op :: rest := hqueue
  simp only [exec_breakerOpStart, execBreakerOpStart, hsettled]
  exact (if_neg hgoes).trans ((if_neg (Bool.eq_false_iff.mp hnoop)).trans (if_pos hfill))

/-- The stream of a MATMUL whose rows have good parity, which `lost` lengthens by a cycle each (R84, R144). -/
def State.cleanStream (s : State) (c : Nat) (op : TileOp) (lost : List (Fin 16)) : Stream :=
  { (streamOf (s.cove c).sp op (!(s.cove c).brk.accSet) (s.cycles c) false).1 with
    left := 8 * ((tileDesc op.desc).streamCycles + (s.cove c).sp.feedConflicts (tileDesc op.desc) + lost.length) }

theorem exec_breakerOpStart_matmul (hnoop : op.noop = false) (hop : (tileDesc op.desc).op = 1) (hload : (tileDesc op.desc).accLoad = false)
    (hrows : ∀ w ∈ (s.cove c).sp.opRows (tileDesc op.desc).a ((tileShape (tileDesc op.desc).shape).1 * (32 * (tileDesc op.desc).kblk))
        ++ (s.cove c).sp.opRows (tileDesc op.desc).b ((tileShape (tileDesc op.desc).shape).2 * (32 * (tileDesc op.desc).kblk)),
      (s.cove c).sp.rowBad w.1 w.2 0 64 = false) :
    ∃ ctr, exec (.breakerOpStart c lost none) s = .next ((s.modCove c fun v => { v with
        brk := { (s.cove c).brk.settle (s.cycles c) with
          queue := rest, running := ((s.cove c).brk.settle (s.cycles c)).running ++ [s.cleanStream c op lost]
          accSet := !(s.cove c).brk.accSet, ctr := ctr } }).modCove c fun v => v.modSp fun p => p.countRefusals fun b =>
            p.feedRefusals (tileDesc op.desc) b + (lost.filter fun x => x.val == b).length) := by
  have hsettled : ((s.cove c).modBrk fun b => b.settle (s.cycles c)).brk.queue = op :: rest := hqueue
  have hclean := List.filter_eq_nil_iff.mpr fun w hw => Bool.eq_false_iff.mp (hrows w hw)
  have hexec := exec_breakerOpStart c lost none s
  simp only [execBreakerOpStart, hsettled] at hexec
  replace hexec := hexec.trans ((if_neg hgoes).trans ((if_neg (Bool.eq_false_iff.mp hnoop)).trans (if_neg (by omega))))
  simp only [hload, Bool.false_eq_true, if_false, List.append_nil, Cove.modBrk_sp, hclean, List.eraseDups_nil, List.isEmpty_nil, Bool.not_true,
    List.foldl_nil, Cove.modBrk_brk, Breaker.settle_accSet] at hexec
  simp only [Cove.modBrk] at hexec
  exact ⟨_, hexec⟩

/-- A MATMUL streams into the other accumulator set, for the cycles of R84, with the accumulators of R68 to R71. -/
theorem breakerOpStart_matmul (hnoop : op.noop = false) (hop : (tileDesc op.desc).op = 1) (hload : (tileDesc op.desc).accLoad = false)
    (hrows : ∀ w ∈ (s.cove c).sp.opRows (tileDesc op.desc).a ((tileShape (tileDesc op.desc).shape).1 * (32 * (tileDesc op.desc).kblk))
        ++ (s.cove c).sp.opRows (tileDesc op.desc).b ((tileShape (tileDesc op.desc).shape).2 * (32 * (tileDesc op.desc).kblk)),
      (s.cove c).sp.rowBad w.1 w.2 0 64 = false) :
    ∃ t, exec (.breakerOpStart c lost none) s = .next t ∧ (t.cove c).brk.queue = rest
      ∧ (t.cove c).brk.running = ((s.cove c).brk.settle (s.cycles c)).running ++ [s.cleanStream c op lost]
      ∧ (t.cove c).brk.accSet = !(s.cove c).brk.accSet ∧ (∀ b r, (t.cove c).sp.row b r = (s.cove c).sp.row b r)
      ∧ (t.cove c).cores = (s.cove c).cores ∧ CoveOnly c s t := by
  obtain ⟨ctr, hexec⟩ := exec_breakerOpStart_matmul (lost := lost) hqueue hgoes hnoop hop hload hrows
  refine ⟨_, hexec, ?_, ?_, ?_, fun b r => ?_, ?_, (CoveOnly.modCove s c _).step (Cove.ne_of_running ?_) _⟩
  · rw [State.modCove_cove, State.modCove_cove, Cove.modSp_brk]
  · rw [State.modCove_cove, State.modCove_cove, Cove.modSp_brk]
  · rw [State.modCove_cove, State.modCove_cove, Cove.modSp_brk]
  · rw [State.modCove_cove, State.modCove_cove, Cove.modSp_sp]
    rfl
  · rw [State.modCove_cove, State.modCove_cove, Cove.modSp_cores]
  · rw [State.modCove_cove]
    exact List.append_ne_nil_of_right_ne_nil _ (List.cons_ne_nil _ _)

end

theorem State.cleanStream_fields (s : State) (c : Nat) (op : TileOp) (lost : List (Fin 16)) :
    (s.cleanStream c op lost).op = op ∧ (s.cleanStream c op lost).set = (!(s.cove c).brk.accSet) ∧ (s.cleanStream c op lost).parity = false
      ∧ (s.cleanStream c op lost).startCyc = s.cycles c := ⟨rfl, rfl, rfl, rfl⟩

theorem State.cleanStream_acc (s : State) (c : Nat) (op : TileOp) (lost : List (Fin 16)) {e : Nat} (he : e < 4096) :
    (s.cleanStream c op lost).acc.get 0 e = f32Bits (mainCell (s.cove c).sp (tileDesc op.desc)
      (cellElem (tileDesc op.desc) (e / 64) (e % 64)).1 (cellElem (tileDesc op.desc) (e / 64) (e % 64)).2).v := by
  simp only [State.cleanStream]
  exact streamOf_acc _ op _ _ _ he

end Sys2Proof.Machine
end

section
/-!
SUPPORT. BREAKER_OP_COMPLETE (R72 to R78, R85, R90, R94): the operation that leaves the array, and what a MATMUL without a failed comparison writes.
-/

namespace Sys2Proof.Machine

/-! A counter that stands in its table keeps standing there. -/

theorem satAdd32_ne_zero {x : Word} {n : Nat} (h : x ≠ 0 ∨ n ≠ 0) : satAdd32 x n ≠ 0 := by
  have hx : x ≠ 0 ↔ x.toNat ≠ 0 := by rw [ne_eq, ← BitVec.toNat_inj]; rfl
  rw [hx] at h
  rw [satAdd32, ne_eq, ← BitVec.toNat_inj, BitVec.toNat_ofNat]
  show ¬min (x.toNat + n) 4294967295 % 2 ^ 32 = 0
  omega

theorem bump_ne_zero {t : Tab Word} {k : Nat} (h : t.get 0 k ≠ 0) (j n : Nat) : (bump t j n).get 0 k ≠ 0 := by
  by_cases hk : k = j
  · subst hk
    rw [bump, Tab.get_upd_same]
    exact satAdd32_ne_zero (.inl h)
  · rwa [bump, Tab.get_upd_other _ _ _ hk]

theorem countEvents_ne_zero {t : Tab Word} {k : Nat} (h : t.get 0 k ≠ 0) (sat ovf unf dnorm invalid : Nat) :
    (countEvents t sat ovf unf dnorm invalid).get 0 k ≠ 0 := by
  have hadd {t : Tab Word} (h : t.get 0 k ≠ 0) (j n : Nat) : (if n = 0 then t else bump t j n).get 0 k ≠ 0 := by
    split
    · exact h
    · exact bump_ne_zero h j n
  exact hadd (hadd (hadd (hadd (hadd h 0 sat) 1 ovf) 2 unf) 3 dnorm) 4 invalid

theorem Cove.ne_of_ctr {v : Cove} {k : Nat} (h : v.brk.ctr.get 0 k ≠ 0) : v ≠ {} := by
  rintro rfl
  exact h rfl

/-! The operation that leaves. -/

section
variable {b : Breaker} {x : Stream} {rest : List Stream}

theorem Breaker.unfilled_eq (b : Breaker) :
    b.unfilled = { b with level := if b.streams || !b.queue.isEmpty || b.fillEn then b.level else 0 } := by
  rw [Breaker.unfilled, Bool.or_assoc, Bool.or_comm]
  split
  · rfl
  · rfl

/-- The oldest operation, done streaming, leaves, becomes the completion point and is counted; without FILL_EN the level is 0 once nothing streams
or waits (R85, R102). -/
theorem Breaker.finish_eq (hrunning : b.running = x :: rest) (hleft : x.left = 0) : b.finish x.op = { b with
    running := rest, done := x.op.seq, counts := b.counts.upd 0 x.op.core (· + 1), ctr := bump b.ctr 9 1
    level := if b.streams || !b.queue.isEmpty || b.fillEn then b.level else 0 } := by
  have hstreams : b.streams = rest.any fun r => r.left != 0 := by
    rw [Breaker.streams, hrunning, List.any_cons, hleft]
    rfl
  rw [Breaker.finish, Breaker.unfilled_eq, hrunning, hstreams]
  rfl

theorem Breaker.noteResult_ctr {k : Nat} (h : b.ctr.get 0 k ≠ 0) (d : TileDesc) (rows cols : List Cmp) :
    (b.noteResult d rows cols false).ctr.get 0 k ≠ 0 := by
  unfold Breaker.noteResult
  dsimp only
  rw [if_neg Bool.false_ne_true]
  dsimp only
  split
  · exact h
  · exact bump_ne_zero h _ _

theorem Breaker.noteResult_passed (d : TileDesc) (rows cols : List Cmp) : ∃ ctr, b.noteResult d rows cols false = { b with ctr := ctr } := ⟨_, rfl⟩

end

/-- The state once the oldest operation has left. -/
def State.opLeft (s : State) (c : Nat) (x : Stream) : State :=
  s.setCove c ((s.cove c).modBrk fun b => (b.settle (s.cycles c)).finish x.op)

theorem State.opLeft_cove (s : State) (c : Nat) (x : Stream) :
    (s.opLeft c x).cove c = (s.cove c).modBrk fun b => (b.settle (s.cycles c)).finish x.op := State.setCove_cove _ _ _

@[simp] theorem Cove.castOwed_brk (v : Cove) : v.castOwed.brk = v.brk := rfl
@[simp] theorem Cove.castOwed_sp (v : Cove) : v.castOwed.sp = v.sp := rfl
@[simp] theorem Cove.castOwed_cores (v : Cove) : v.castOwed.cores = v.cores := rfl

/-- The accumulators as faults have left them. -/
abbrev Stream.upsetAcc (x : Stream) (upset : List (Nat × BitVec 32)) : Tab Word :=
  upset.foldl (fun (t : Tab Word) u => t.upd 0 (u.1 % 4096) (· ^^^ u.2)) x.acc

/-- The scratchpad handle of D. -/
abbrev State.dHandle (s : State) (c : Nat) (x : Stream) := (s.cove c).sp.handle (tileDesc x.op.desc).d.handle

/-- What the conversion of the accumulators writes (R72 to R78). -/
abbrev State.dBytes (s : State) (c : Nat) (x : Stream) (upset : List (Nat × BitVec 32)) :=
  convertOut (tileDesc x.op.desc) (fun i => (x.upsetAcc upset).get 0 i)
    (draw75 (s.bay ((s.bayOf c).getD 0)).seed x.op.step c ((s.cove c).brk.tileSeq.get 0 (x.op.step % 4)))

section
variable {s : State} {c : Fin 800} {upset : List (Nat × BitVec 32)} {convBad : Bool}

theorem exec_breakerOpComplete_none (h : ((s.cove c).brk.settle (s.cycles c)).running = []) : exec (.breakerOpComplete c upset convBad) s = .next s := by
  have hsettled : ((s.cove c).modBrk fun b => b.settle (s.cycles c)).brk.running = [] := h
  simp only [exec_breakerOpComplete, execBreakerOpComplete, hsettled]

variable {x : Stream} {rest : List Stream} (hrunning : ((s.cove c).brk.settle (s.cycles c)).running = x :: rest)
include hrunning

theorem exec_breakerOpComplete_early (hleft : x.left ≠ 0) : exec (.breakerOpComplete c upset convBad) s = .next s := by
  have hsettled : ((s.cove c).modBrk fun b => b.settle (s.cycles c)).brk.running = x :: rest := hrunning
  simp only [exec_breakerOpComplete, execBreakerOpComplete, hsettled]
  exact if_pos hleft

variable (hleft : x.left = 0)
include hleft

theorem exec_breakerOpComplete_other (hop : x.op.noop = true ∨ (tileDesc x.op.desc).op ≠ 1) :
    exec (.breakerOpComplete c upset convBad) s = .next ((s.opLeft c x).castOwed c) := by
  have hsettled : ((s.cove c).modBrk fun b => b.settle (s.cycles c)).brk.running = x :: rest := hrunning
  simp only [exec_breakerOpComplete, execBreakerOpComplete, hsettled]
  exact (if_neg (not_not.mpr hleft)).trans (if_pos hop)

/-- A MATMUL without a failed comparison, of no pair and with no out-of-range action, writes D and its scales and counts its events. -/
theorem exec_breakerOpComplete_matmul (hnoop : x.op.noop = false) (hop : (tileDesc x.op.desc).op = 1) (hparity : x.parity = false)
    (hprimary : x.op.primary = none) (hshadow : x.op.shadow = none) (hact : (tileDesc x.op.desc).rangeAct = false)
    (hpass : ∀ r ∈ (x.comparisons fun i => (f32Val ((x.upsetAcc upset).get 0 i)).1).1 ++ (x.comparisons fun i => (f32Val ((x.upsetAcc upset).get 0 i)).1).2,
      r ≠ .fail) :
    ∃ f : Cove → Cove, exec (.breakerOpComplete c upset false) s = .next (((s.opLeft c x).modCove c f).castOwed c) ∧ ∀ w,
      (f w).sp = (w.sp.handleWrite (s.dHandle c x) ((tileDesc x.op.desc).d.elemRow * 64) (s.dBytes c x upset).1).handleWrite (s.dHandle c x)
        ((tileDesc x.op.desc).d.scaleRow * 64) (s.dBytes c x upset).2.1
      ∧ (f w).brk.running = w.brk.running ∧ (f w).brk.done = w.brk.done ∧ (f w).brk.counts = w.brk.counts ∧ (f w).cores = w.cores
      ∧ ((w.brk.ctr.get 0 9 ≠ 0) → (f w).brk.ctr.get 0 9 ≠ 0) := by
  have hsettled : ((s.cove c).modBrk fun b => b.settle (s.cycles c)).brk.running = x :: rest := hrunning
  have hfail : (((x.comparisons fun i => (f32Val ((x.upsetAcc upset).get 0 i)).1).1
      ++ (x.comparisons fun i => (f32Val ((x.upsetAcc upset).get 0 i)).1).2).contains .fail) = false :=
    Bool.eq_false_iff.mpr fun h => hpass _ (List.contains_iff_mem.mp h) rfl
  have hexec := exec_breakerOpComplete c upset false s
  simp only [execBreakerOpComplete, hsettled] at hexec
  replace hexec := hexec.trans ((if_neg (not_not.mpr hleft)).trans (if_neg (by simp [hnoop, hop])))
  simp only [hparity, hfail, hact, hprimary, hshadow, Bool.or_false, Bool.false_eq_true, false_and, if_false] at hexec
  refine ⟨_, hexec, fun w => ⟨rfl, rfl, rfl, rfl, rfl, fun h => ?_⟩⟩
  dsimp only
  split
  · exact countEvents_ne_zero (Breaker.noteResult_ctr h _ _ _) _ _ _ _ _
  · exact bump_ne_zero (countEvents_ne_zero (Breaker.noteResult_ctr h _ _ _) _ _ _ _ _) _ _

/-- A MATMUL without a failed comparison leaves, and D's bytes and scales stand in the scratchpad (R85, R90, R94). -/
theorem breakerOpComplete_matmul (hnoop : x.op.noop = false) (hop : (tileDesc x.op.desc).op = 1) (hparity : x.parity = false)
    (hprimary : x.op.primary = none) (hshadow : x.op.shadow = none) (hact : (tileDesc x.op.desc).rangeAct = false)
    (hpass : ∀ r ∈ (x.comparisons fun i => (f32Val ((x.upsetAcc upset).get 0 i)).1).1 ++ (x.comparisons fun i => (f32Val ((x.upsetAcc upset).get 0 i)).1).2,
      r ≠ .fail) :
    ∃ t, exec (.breakerOpComplete c upset false) s = .next t ∧ (t.cove c).brk.running = rest ∧ (t.cove c).brk.done = x.op.seq
      ∧ (t.cove c).brk.counts = (s.cove c).brk.counts.upd 0 x.op.core (· + 1)
      ∧ (t.cove c).sp = ((s.cove c).sp.handleWrite (s.dHandle c x) ((tileDesc x.op.desc).d.elemRow * 64) (s.dBytes c x upset).1).handleWrite
        (s.dHandle c x) ((tileDesc x.op.desc).d.scaleRow * 64) (s.dBytes c x upset).2.1
      ∧ (t.cove c).cores = (s.cove c).cores ∧ CoveOnly c s t := by
  obtain ⟨f, hexec, hf⟩ := exec_breakerOpComplete_matmul hrunning hleft hnoop hop hparity hprimary hshadow hact hpass
  obtain ⟨hsp, hrun, hdone, hcounts, hcores, hctr⟩ := hf ((s.opLeft c x).cove c)
  have hfinish := Breaker.finish_eq hrunning hleft
  have hbrk : ((s.opLeft c x).cove c).brk = ((s.cove c).brk.settle (s.cycles c)).finish x.op := by rw [State.opLeft_cove, Cove.modBrk_brk]
  have hcounted : ((s.opLeft c x).cove c).brk.ctr.get 0 9 ≠ 0 := by
    rw [hbrk, hfinish, bump, Tab.get_upd_same]
    exact satAdd32_ne_zero (.inr Nat.one_ne_zero)
  have hcove : ((((s.opLeft c x).modCove c f).castOwed c).cove c) = (f ((s.opLeft c x).cove c)).castOwed := by
    rw [State.castOwed, State.modCove_cove, State.modCove_cove]
  refine ⟨_, hexec, ?_, ?_, ?_, ?_, ?_, ?_⟩
  · rw [hcove, Cove.castOwed_brk, hrun, hbrk, hfinish]
  · rw [hcove, Cove.castOwed_brk, hdone, hbrk, hfinish]
  · rw [hcove, Cove.castOwed_brk, hcounts, hbrk, hfinish]
    rfl
  · rw [hcove, Cove.castOwed_sp, hsp, State.opLeft_cove, Cove.modBrk_sp]
  · rw [hcove, Cove.castOwed_cores, hcores, State.opLeft_cove, Cove.modBrk_cores]
  · have honly : CoveOnly c s (s.opLeft c x) := CoveOnly.modCove s c fun v => v.modBrk fun b => (b.settle (s.cycles c)).finish x.op
    have hlisted : (((s.opLeft c x).modCove c f).cove c).brk.ctr.get 0 9 ≠ 0 := by
      rw [State.modCove_cove]
      exact hctr hcounted
    exact (honly.step (Cove.ne_of_ctr hcounted) f).step (Cove.ne_of_ctr hlisted) Cove.castOwed

end

section
variable {s : State} {c : Fin 800} {x : Stream} {rest : List Stream}

theorem State.opLeft_eq (hrunning : ((s.cove c).brk.settle (s.cycles c)).running = x :: rest) (hleft : x.left = 0) :
    s.opLeft c x = s.modCove c fun v => { v with brk := { (s.cove c).brk.settle (s.cycles c) with
      running := rest, done := x.op.seq, counts := ((s.cove c).brk.settle (s.cycles c)).counts.upd 0 x.op.core (· + 1)
      ctr := bump ((s.cove c).brk.settle (s.cycles c)).ctr 9 1
      level := if ((s.cove c).brk.settle (s.cycles c)).streams || !((s.cove c).brk.settle (s.cycles c)).queue.isEmpty
          || ((s.cove c).brk.settle (s.cycles c)).fillEn then ((s.cove c).brk.settle (s.cycles c)).level else 0 } } := by
  rw [← Breaker.finish_eq hrunning hleft]
  rfl

end

/-! GOVERNOR_TICK (R99 to R101). -/

section
variable {s : State} {c : Fin 800}

/-- The governor's step: the level moves, and a filler mismatch is counted (R99, R101). -/
def State.governed (s : State) (c : Nat) (bad : Bool) : State :=
  s.modCove c fun v => { v with brk := { (s.cove c).brk.settle (s.cycles c) with
    levelAt := s.cycles c
    ctr := if bad then bump ((s.cove c).brk.settle (s.cycles c)).ctr 8 1 else ((s.cove c).brk.settle (s.cycles c)).ctr
    level := ((s.cove c).brk.settle (s.cycles c)).nextLevel s.ceiling } }

theorem exec_governorTick_early (h : ¬ ((s.cove c).brk.settle (s.cycles c)).levelAt + governorCycles (s.clockUnits (halfOf c)) ≤ s.cycles c)
    (fillBad : Bool) : exec (.governorTick c fillBad) s = .next s :=
  occurs_false (decide_eq_false h)

variable (hdue : ((s.cove c).brk.settle (s.cycles c)).levelAt + governorCycles (s.clockUnits (halfOf c)) ≤ s.cycles c)
include hdue

theorem exec_governorTick_due (fillBad : Bool) : exec (.governorTick c fillBad) s = .next
    (if ((s.cove c).brk.settle (s.cycles c)).filling && fillBad
      then (s.governed c (((s.cove c).brk.settle (s.cycles c)).filling && fillBad)).coveError c 0x4022
      else s.governed c (((s.cove c).brk.settle (s.cycles c)).filling && fillBad)) :=
  occurs_true (decide_eq_true hdue)

theorem exec_governorTick_fair {fillBad : Bool} (h : ((s.cove c).brk.settle (s.cycles c)).filling = false ∨ fillBad = false) :
    exec (.governorTick c fillBad) s = .next (s.governed c false) := by
  have hfair : (((s.cove c).brk.settle (s.cycles c)).filling && fillBad) = false := by
    rcases h with h | h <;> simp [h]
  rw [exec_governorTick_due hdue, hfair]
  rfl

theorem exec_governorTick_bad (h : ((s.cove c).brk.settle (s.cycles c)).filling = true) :
    exec (.governorTick c true) s = .next ((s.governed c true).coveError c 0x4022) := by
  rw [exec_governorTick_due hdue, h]
  rfl

end
end Sys2Proof.Machine
end

section
namespace Sys2Proof.Machine

/-- Settles O29: it holds. Every event is the branch of its definition that its hypotheses pick (the lemmas above), the pair table's read carried
through the acceptance as the state `u`. -/
theorem breakerEventsTakeEffect : Obligations.BreakerEventsTakeEffect := by
  intro s c v b cyc b1
  refine ⟨fun k raw rd hpresents hroom => ?_, fun h => ?_, fun op rest lost hqueue => ?_, fun h lost p => exec_breakerOpStart_empty h p,
    fun x rest hrunning => ?_, fun h u x => exec_breakerOpComplete_none h, ?_⟩
  · intro d u
    have hstepsAt : u.stepsAt c = s.stepsAt c := s.readPairs_stepsAt c _ c
    have hbrk : (u.cove c).brk = b := s.readPairs_brk c _
    have hsp : (u.cove c).sp = v.sp := s.readPairs_sp c _
    have hcore (r : CoreRef) : u.core r = s.core r := s.readPairs_core c _ r
    rw [← hstepsAt, ← hsp, ← hbrk]
    rcases hsteps : u.stepsAt c with ⟨st, m⟩
    dsimp -zeta only
    rcases hpairing : u.pairing c m d.tag with ⟨primary, shadow, skipped⟩
    dsimp -zeta only
    intro idle held paired
    have hpairs : u.tilePairs c d = (primary, shadow, skipped) := State.tilePairs_eq hsteps hpairing
    have hidle : u.tileIdles c d ↔ idle := State.tileIdles_iff hsteps hpairs
    have hheld : u.tileHeld c d ↔ held := State.tileHeld_iff hsteps
    refine ⟨s.readPairs_untagged c, fun hcheck hfree => ?_, fun code hcode => ?_⟩
    · have hgood : u.tileFault c d = 0 := State.tileFault_none hcheck (by rwa [hidle, hheld])
      obtain ⟨hstep, hpaired, hunpaired, hnoop⟩ := State.tileOp_fields (k := k) hsteps hpairs
      refine ⟨u.tileOp c k raw, rfl, rfl, rfl, hstep, rfl, rfl, hpaired, hunpaired, hnoop.trans hidle, ?_⟩
      rw [← State.queueTile_eq hsteps hpairs, hbrk]
      exact breakerAccept_completes hpresents hroom hgood
    · have hbad : u.tileFault c d = code ∧ code ≠ 0 := by
        rcases hcode with ⟨hcheck, rfl⟩ | ⟨hcheck, hop, hbusy, hhold, rfl⟩
        · exact ⟨State.tileFault_of_check hcheck, hcheck⟩
        · exact ⟨State.tileFault_of_held hcheck hop (by rwa [hidle]) (by rwa [hheld]), by decide⟩
      refine ⟨u.rejectTile c k d code, exec_breakerAccept_rejects hpresents hroom hbad.1 hbad.2, .modCove _ _ _,
        fun r => (u.rejectTile_core c k d code r).trans (hcore r), ?_, fun h5 => ?_, fun h5 => ?_⟩
      · rw [State.rejectTile, State.modCove_cove]
      · rw [State.rejectTile, State.modCove_cove]
        dsimp only
        rw [if_pos h5]
        rfl
      · rw [State.rejectTile, State.modCove_cove]
        exact if_neg h5
  · rcases h with hnone | hfull
    · exact exec_breakerAccept_none hnone
    · exact exec_breakerAccept_full hfull
  · intro d kk
    have hgoes {p q : Bool} (hp : p = false) (hq : q = false) : ¬ (p = true ∨ q = true) := by simp [hp, hq]
    refine ⟨exec_breakerOpStart_waits hqueue, fun hhead hfree hnoop => exec_breakerOpStart_noop hqueue (hgoes hhead hfree) hnoop,
      fun hhead hfree hnoop hfill => exec_breakerOpStart_fill hqueue (hgoes hhead hfree) hnoop hfill, fun hhead hfree hnoop hop hload hrows => ?_⟩
    obtain ⟨t, hexec, hrest, hruns, hset, hsp, hcores, honly⟩ := breakerOpStart_matmul (lost := lost) hqueue (hgoes hhead hfree) hnoop hop hload hrows
    obtain ⟨hxop, hxset, hxparity, hxstart⟩ := s.cleanStream_fields c op lost
    exact ⟨t, s.cleanStream c op lost, hexec, hrest, hruns, hset, hxop, hxset, hxparity, hxstart, rfl, fun e he => s.cleanStream_acc c op lost he,
      hsp, hcores, honly⟩
  · intro d e left
    refine ⟨fun hleft u y => exec_breakerOpComplete_early hrunning hleft, fun hleft hother u y => ?_,
      fun upset hleft hnoop hop hparity hprimary hshadow hact hpass => breakerOpComplete_matmul hrunning hleft hnoop hop hparity hprimary hshadow
        hact hpass⟩
    rw [exec_breakerOpComplete_other hrunning hleft hother, State.opLeft_eq hrunning hleft]
    rfl
  · exact ⟨fun hdue fillBad hfair => exec_governorTick_fair hdue hfair, fun hdue hfilling => exec_governorTick_bad hdue hfilling,
      fun hearly x => exec_governorTick_early hearly x⟩

end Sys2Proof.Machine
end

section
/-!
SUPPORT. The word functions of the integer instructions (R108, R109), as the statements write them: in numbers, wrapped to 32 bits.
-/
namespace Sys2Proof.Machine

section
variable (a b : Word) (n : Nat)

theorem Word.sub_eq_ofInt : a - b = BitVec.ofInt 32 (a.toInt - b.toInt) :=
  BitVec.eq_of_toInt_eq (by rw [BitVec.toInt_sub, BitVec.toInt_ofInt])

theorem Word.shiftLeft_eq_ofNat : a <<< n = BitVec.ofNat 32 (a.toNat * 2 ^ n) :=
  BitVec.eq_of_toNat_eq (by rw [BitVec.toNat_shiftLeft, BitVec.toNat_ofNat, Nat.shiftLeft_eq])

theorem Word.shiftRight_eq_ofNat : a >>> n = BitVec.ofNat 32 (a.toNat / 2 ^ n) := by
  rw [← Nat.shiftRight_eq_div_pow, ← BitVec.toNat_ushiftRight, BitVec.ofNat_toNat, BitVec.setWidth_eq]

theorem Word.sshiftRight_eq_ofInt : a.sshiftRight n = BitVec.ofInt 32 (a.toInt / 2 ^ n) := by
  rw [BitVec.sshiftRight, Int.shiftRight_eq_div_pow, Nat.cast_pow, Nat.cast_ofNat]

theorem flag1_slt : flag1 (a.slt b) = if a.toInt < b.toInt then 1 else 0 := by
  simp [flag1, BitVec.slt]

theorem flag1_ult : flag1 (a.ult b) = if a.toNat < b.toNat then 1 else 0 := by
  simp [flag1, BitVec.ult]

/-- Which of two equal values a choice by an injective key takes does not matter. -/
theorem ite_key_lt {α β : Type} [LinearOrder β] {key : α → β} (hkey : Function.Injective key) (x y p q : α) (hpq : x = y → p = q) :
    (if key x < key y then p else q) = if key x ≤ key y then p else q := by
  rcases lt_trichotomy (key x) (key y) with h | h | h
  · rw [if_pos h, if_pos h.le]
  · rw [if_neg h.not_lt, if_pos h.le, hpq (hkey h)]
  · rw [if_neg h.not_gt, if_neg h.not_ge]

theorem ite_slt (p q : Word) (hpq : a = b → p = q) : (if a.slt b then p else q) = if a.toInt ≤ b.toInt then p else q := by
  rw [← ite_key_lt (fun _ _ => BitVec.toInt_inj.mp) a b p q hpq]
  simp only [BitVec.slt, decide_eq_true_eq]

theorem ite_ult (p q : Word) (hpq : a = b → p = q) : (if a.ult b then p else q) = if a.toNat ≤ b.toNat then p else q := by
  rw [← ite_key_lt (fun _ _ => BitVec.toNat_inj.mp) a b p q hpq]
  simp only [BitVec.ult, decide_eq_true_eq]

theorem minS_eq : minS a b = if a.toInt ≤ b.toInt then a else b := ite_slt a b a b id
theorem maxS_eq : maxS a b = if a.toInt ≤ b.toInt then b else a := ite_slt a b b a Eq.symm
theorem minU_eq : minU a b = if a.toNat ≤ b.toNat then a else b := ite_ult a b a b id
theorem maxU_eq : maxU a b = if a.toNat ≤ b.toNat then b else a := ite_ult a b b a Eq.symm

theorem Word.eq_zero_iff : a = 0 ↔ a.toNat = 0 := BitVec.toNat_inj.symm

theorem divS_eq : divS a b = if b.toNat = 0 then 0xFFFFFFFF else BitVec.ofInt 32 (Int.tdiv a.toInt b.toInt) := by
  simp only [divS, Word.eq_zero_iff]
theorem divU_eq : divU a b = if b.toNat = 0 then 0xFFFFFFFF else BitVec.ofNat 32 (a.toNat / b.toNat) := by
  simp only [divU, Word.eq_zero_iff]
theorem remS_eq : remS a b = if b.toNat = 0 then a else BitVec.ofInt 32 (Int.tmod a.toInt b.toInt) := by
  simp only [remS, Word.eq_zero_iff]
theorem remU_eq : remU a b = if b.toNat = 0 then a else BitVec.ofNat 32 (a.toNat % b.toNat) := by
  simp only [remU, Word.eq_zero_iff]

end

/-! R format (R109). -/

/-- An R-format instruction with legal encoding completes with its word function of the two registers. -/
theorem aluR_completes {c : CoreRef → RFields → Instr} {f g : Word → Word → Word} (hexec : ∀ r w s, exec (c r w) s = aluR s r w f)
    (hval : ∀ a b, f a b = g a b) (s : State) (r : CoreRef) (w : RFields) (hres : w.res = 0)
    (hready : ready s r { g := [w.ra, w.rb], wg := [w.rd] } = true) :
    Completes (c r w) s r ((s.core r).pc + 4) (WritesG w.rd (g ((s.core r).rg w.ra) ((s.core r).rg w.rb))) := by
  have hlegal : (w.res != 0) = false := by rw [hres]; rfl
  have hret : exec (c r w) s = .next (s.retireNext r fun k => k.wg w.rd (f (k.rg w.ra) (k.rg w.rb))) := by
    rw [hexec, aluR, hlegal]
    exact issue_ready hready
  rw [← hval]
  exact completes_retireNext hret rfl rfl (.wg _ _ _) (PCore.writesG_wg _ _ _ _ _)

/-- Settles O1: each instruction completes with its word function (`aluR_completes`), which is the one that the statement writes. -/
theorem integerRegisterInstructionsComplete : Obligations.IntegerRegisterInstructionsComplete := by
  unfold Obligations.IntegerRegisterInstructionsComplete
  simp only [List.forall_mem_cons, List.not_mem_nil, false_imp_iff, implies_true, and_true]
  exact ⟨aluR_completes exec_add fun _ _ => BitVec.add_def _ _, aluR_completes exec_sub Word.sub_eq_ofInt, aluR_completes exec_and fun _ _ => rfl,
    aluR_completes exec_or fun _ _ => rfl, aluR_completes exec_xor fun _ _ => rfl,
    aluR_completes exec_sll fun a _ => Word.shiftLeft_eq_ofNat a _, aluR_completes exec_srl fun a _ => Word.shiftRight_eq_ofNat a _,
    aluR_completes exec_sra fun a _ => Word.sshiftRight_eq_ofInt a _, aluR_completes exec_slt flag1_slt, aluR_completes exec_sltu flag1_ult,
    aluR_completes exec_min minS_eq, aluR_completes exec_max maxS_eq, aluR_completes exec_minu minU_eq, aluR_completes exec_maxu maxU_eq,
    aluR_completes exec_mul fun _ _ => BitVec.mul_def, aluR_completes exec_mulh fun _ _ => rfl, aluR_completes exec_mulhu fun _ _ => rfl,
    aluR_completes exec_div divS_eq, aluR_completes exec_divu divU_eq, aluR_completes exec_rem remS_eq, aluR_completes exec_remu remU_eq⟩

/-! I format and immediate shifts (R107, R108). -/

/-- An I-format instruction with legal encoding completes with its word function of the register. -/
theorem aluI_completes {c : Instr} {s : State} {r : CoreRef} {w : IFields} {illegal : Bool} {f : Word → Word} {x : Word}
    (hexec : exec c s = aluI s r w illegal f) (hlegal : illegal = false) (hval : f ((s.core r).rg w.ra) = x)
    (hready : ready s r { g := [w.ra], wg := [w.rd] } = true) : Completes c s r ((s.core r).pc + 4) (WritesG w.rd x) := by
  have hret : exec c s = .next (s.retireNext r fun k => k.wg w.rd (f (k.rg w.ra))) := by
    rw [hexec, aluI, hlegal]
    exact issue_ready hready
  rw [← hval]
  exact completes_retireNext hret rfl rfl (.wg _ _ _) (PCore.writesG_wg _ _ _ _ _)

/-- An immediate shift with legal encoding completes. -/
theorem shiftI_completes {c : CoreRef → ShFields → Instr} {f g : Word → Nat → Word} (hexec : ∀ r w s, exec (c r w) s = shiftI s r w f)
    (hval : ∀ a n, f a n = g a n) (s : State) (r : CoreRef) (w : ShFields) (hmid : w.mid = 0)
    (hready : ready s r { g := [w.ra], wg := [w.rd] } = true) :
    Completes (c r w) s r ((s.core r).pc + 4) (WritesG w.rd (g ((s.core r).rg w.ra) w.sh.toNat)) := by
  have hlegal : (w.mid != 0) = false := by rw [hmid]; rfl
  have hret : exec (c r w) s = .next (s.retireNext r fun k => k.wg w.rd (f (k.rg w.ra) w.sh.toNat)) := by
    rw [hexec, shiftI, hlegal]
    exact issue_ready hready
  rw [← hval]
  exact completes_retireNext hret rfl rfl (.wg _ _ _) (PCore.writesG_wg _ _ _ _ _)

section
variable (a : Word) (w : IFields)

theorem toInt_immS : (immS w).toInt = w.imm.toInt := BitVec.toInt_signExtend_of_le (by decide)

theorem add_immS : a + immS w = BitVec.ofInt 32 (a.toInt + w.imm.toInt) := by
  rw [BitVec.ofInt_add, BitVec.ofInt_toInt]
  rfl

theorem immZ_eq : immZ w = BitVec.ofNat 32 w.imm.toNat := BitVec.eq_of_toNat_eq (by simp [immZ])

theorem immZ_shiftLeft : immZ w <<< 16 = BitVec.ofNat 32 (w.imm.toNat * 2 ^ 16) := by
  have himm : (immZ w).toNat = w.imm.toNat := by
    rw [immZ_eq, BitVec.toNat_ofNat, Nat.mod_eq_of_lt (by omega)]
  rw [Word.shiftLeft_eq_ofNat, himm]

end

/-- Settles O2: by the lemma of each format; the immediate as its word function has it. -/
theorem integerImmediateInstructionsComplete : Obligations.IntegerImmediateInstructionsComplete := by
  unfold Obligations.IntegerImmediateInstructionsComplete
  simp only [List.forall_mem_cons, List.not_mem_nil, false_imp_iff, implies_true, and_true]
  refine ⟨⟨?_, ?_, ?_, ?_, ?_, ?_⟩, ?_, ?_, ?_, ?_⟩
  · exact fun s r w => aluI_completes (exec_addi r w s) rfl (add_immS _ w)
  · exact fun s r w => aluI_completes (exec_andi r w s) rfl (congrArg (_ &&& ·) (immZ_eq w))
  · exact fun s r w => aluI_completes (exec_ori r w s) rfl (congrArg (_ ||| ·) (immZ_eq w))
  · exact fun s r w => aluI_completes (exec_xori r w s) rfl (congrArg (_ ^^^ ·) (immZ_eq w))
  · exact fun s r w => aluI_completes (exec_slti r w s) rfl ((flag1_slt _ _).trans (by rw [toInt_immS]))
  · exact fun s r w => aluI_completes (exec_sltiu r w s) rfl (flag1_ult _ (immS w))
  · exact fun s r w hra => aluI_completes (exec_lui r w s) (by rw [hra]; rfl) (immZ_shiftLeft w)
  · exact shiftI_completes exec_slli Word.shiftLeft_eq_ofNat
  · exact shiftI_completes exec_srli Word.shiftRight_eq_ofNat
  · exact shiftI_completes exec_srai Word.sshiftRight_eq_ofInt

end Sys2Proof.Machine
end

section
/-!
SUPPORT. Branches and jumps (R106, R108): their targets, and what a transfer to one does.
-/
namespace Sys2Proof.Machine

theorem targetOk_iff {t : Word} : targetOk t = true ↔ t.toNat ≤ 0x3FFC ∧ t.toNat % 4 = 0 := by
  simp [targetOk]

theorem pcRel_signExtend (s : State) (r : CoreRef) {n : Nat} (off : BitVec n) :
    pcRel s r (off.signExtend 32) = BitVec.ofInt 32 ((s.core r).pc + 4 * off.toInt) := by
  have hoff : off.signExtend 32 <<< 2 = BitVec.ofInt 32 4 * BitVec.ofInt 32 off.toInt := by
    rw [BitVec.shiftLeft_eq_mul_twoPow, BitVec.mul_comm]
    rfl
  rw [pcRel, hoff, ← BitVec.ofInt_mul, BitVec.ofInt_add, BitVec.ofInt_natCast]

section
variable {c : Instr} {s : State} {r : CoreRef} {target : Word} {f : PCore → PCore} {P : PCore → PCore → Prop}

/-- A taken transfer completes at a legal target and raises 0x4102 at another. -/
theorem transfer_cases (hexec : exec c s = .next (transfer s r target f)) (hf : PCore.Data (s.core r) (f (s.core r)))
    (hP : ∀ cyc next, P (s.core r) ((f (s.core r)).finish cyc next)) :
    (target.toNat ≤ 0x3FFC ∧ target.toNat % 4 = 0 → Completes c s r target.toNat P)
      ∧ (¬ (target.toNat ≤ 0x3FFC ∧ target.toNat % 4 = 0) → exec c s = .next (s.exception r 0x4102)) := by
  rw [← targetOk_iff]
  refine ⟨fun hok => completes_retire ?_ rfl rfl hf (hP _ _), fun hbad => ?_⟩
  · rw [hexec, transfer, if_pos hok]
  · rw [hexec, transfer, if_neg hbad]

end

/-- A conditional branch whose condition the words decide by `p`. -/
theorem branch_completes {c : CoreRef → BFields → Instr} {test : Word → Word → Bool} {p : Word → Word → Prop}
    (hexec : ∀ r w s, exec (c r w) s = branch s r w test) (hp : ∀ a b, test a b = true ↔ p a b) (s : State) (r : CoreRef) (w : BFields)
    (hready : ready s r { g := [w.ra, w.rb] } = true) :
    let t : Nat := (BitVec.ofInt 32 ((s.core r).pc + 4 * w.off.toInt)).toNat
    (¬ p ((s.core r).rg w.ra) ((s.core r).rg w.rb) → Completes (c r w) s r ((s.core r).pc + 4) WritesNone)
    ∧ (p ((s.core r).rg w.ra) ((s.core r).rg w.rb) →
        (t ≤ 0x3FFC ∧ t % 4 = 0 → Completes (c r w) s r t WritesNone)
        ∧ (¬ (t ≤ 0x3FFC ∧ t % 4 = 0) → exec (c r w) s = .next (s.exception r 0x4102))) := by
  intro t
  have hact := (hexec r w s).trans (issue_ready hready)
  refine ⟨fun hnot => ?_, fun htaken => ?_⟩
  · refine completes_retireNext_id (hact.trans (congrArg _ (if_neg ?_))) rfl rfl
    exact fun h => hnot ((hp _ _).mp h)
  · have htransfer := hact.trans (congrArg _ (if_pos ((hp _ _).mpr htaken)))
    rw [pcRel_signExtend] at htransfer
    exact transfer_cases htransfer (.refl _) fun _ _ => PCore.writesNone _ _ _

/-- Settles O3: branches by `branch_completes`, jumps by `transfer_cases` at their target. -/
theorem branchesAndJumpsComplete : Obligations.BranchesAndJumpsComplete := by
  unfold Obligations.BranchesAndJumpsComplete
  have hbge (a b : Word) : (!a.slt b) = true ↔ b.toInt ≤ a.toInt := by simp [BitVec.slt]
  have hbgeu (a b : Word) : (!a.ult b) = true ↔ b.toNat ≤ a.toNat := by simp [BitVec.ult]
  refine ⟨?_, fun s r off => ⟨fun hready => ?_, fun hready => ?_⟩, fun s r w hready => ?_⟩
  · simp only [List.forall_mem_cons, List.not_mem_nil, false_imp_iff, implies_true, and_true]
    exact ⟨branch_completes exec_beq fun _ _ => beq_iff_eq, branch_completes exec_bne fun _ _ => bne_iff_ne,
      branch_completes exec_blt fun _ _ => BitVec.slt_iff_toInt_lt, branch_completes exec_bge hbge,
      branch_completes exec_bltu fun _ _ => BitVec.ult_iff_toNat_lt, branch_completes exec_bgeu hbgeu⟩
  · have hexec : exec (.j r off) s = .next (transfer s r (pcRel s r (off.signExtend 32)) id) := issue_ready hready
    rw [pcRel_signExtend] at hexec
    exact transfer_cases hexec (.refl _) fun _ _ => PCore.writesNone _ _ _
  · have hexec : exec (.jal r off) s = .next (transfer s r (pcRel s r (off.signExtend 32)) fun k => k.wg 31 (BitVec.ofNat 32 (k.pc + 4))) :=
      issue_ready hready
    rw [pcRel_signExtend] at hexec
    exact transfer_cases hexec (.wg _ _ _) fun _ _ => PCore.writesG_wg _ _ _ _ _
  · have hexec : exec (.jalr r w) s = .next (transfer s r ((s.core r).rg w.ra + immS w) fun k => k.wg w.rd (BitVec.ofNat 32 (k.pc + 4))) :=
      issue_ready hready
    rw [add_immS] at hexec
    exact transfer_cases hexec (.wg _ _ _) fun _ _ => PCore.writesG_wg _ _ _ _ _

end Sys2Proof.Machine
end

section
/-!
SUPPORT. Local data memory (R114): the cases of a load and of a store, and the bytes that they move.
-/
namespace Sys2Proof.Machine

theorem memBytes_eq_map (m : Memory) (a n : Nat) : memBytes m a n = (List.range n).map fun i => memByte m (a + i) := by
  induction n generalizing a with
  | zero => rfl
  | succ n ih =>
    rw [memBytes, ih, List.range_succ_eq_map, List.map_cons, List.map_map]
    simp only [Function.comp_def, Nat.add_zero, Nat.add_succ, Nat.succ_add]

@[simp] theorem length_leBytes (n v : Nat) : (leBytes n v).length = n := by
  induction n generalizing v with
  | zero => rfl
  | succ n ih => rw [leBytes, List.length_cons, ih]

@[simp] theorem length_bytesOfRow (x : Row) : (bytesOfRow x).length = 64 := by rw [bytesOfRow, length_leBytes]

/-! Checks of an access (R114). -/

theorem localFault_none {a : Word} {n : Nat} (h : a.toNat % n = 0 ∧ a.toNat + n ≤ 0x1000) : localFault a n = none := by
  rw [localFault, if_neg (not_not.mpr h.1), if_neg (Nat.not_lt.mpr h.2)]

theorem localFault_misaligned {a : Word} {n : Nat} (h : a.toNat % n ≠ 0) : localFault a n = some 0x4103 := if_pos h

theorem localFault_range {a : Word} {n : Nat} (h : a.toNat % n = 0 ∧ 0x1000 < a.toNat + n) : localFault a n = some 0x4104 := by
  rw [localFault, if_neg (not_not.mpr h.1), if_pos h.2]

section
variable {c : Instr} {s : State} {r : CoreRef} {w : IFields} {n : Nat} {illegal : Bool} {u : Uses}

section
variable {f : PCore → List Byte → PCore} {P : PCore → PCore → Prop} (hexec : exec c s = localLoad s r w n illegal u f) (hlegal : illegal = false)
  (hready : ready s r u = true)
include hexec hlegal hready

/-- What a load does once it is in X (R114). -/
theorem localLoad_cases (hf : PCore.Data (s.core r) (f (s.core r) (memBytes (s.core r).dmem ((s.core r).rg w.ra + immS w).toNat n)))
    (hP : ∀ cyc next, P (s.core r) ((f (s.core r) (memBytes (s.core r).dmem ((s.core r).rg w.ra + immS w).toNat n)).finish cyc next)) :
    let a := ((s.core r).rg w.ra + w.imm.signExtend 32).toNat
    (a % n = 0 ∧ a + n ≤ 0x1000 →
      ((∀ x ∈ (s.core r).dmemBad, x < a ∨ a + n ≤ x) → Completes c s r ((s.core r).pc + 4) P)
      ∧ ((∃ x ∈ (s.core r).dmemBad, a ≤ x ∧ x < a + n) → exec c s = .next (s.exception r 0x4109)))
    ∧ (a % n ≠ 0 → exec c s = .next (s.exception r 0x4103))
    ∧ (a % n = 0 ∧ 0x1000 < a + n → exec c s = .next (s.exception r 0x4104)) := by
  subst hlegal
  intro a
  have hact := hexec.trans (issue_ready hready)
  dsimp only at hact
  have hfault {code : Code} (h : localFault ((s.core r).rg w.ra + immS w) n = some code) : exec c s = .next (s.exception r code) := by
    rw [hact, h]
  refine ⟨fun hin => ?_, fun h => hfault (localFault_misaligned h), fun h => hfault (localFault_range h)⟩
  rw [localFault_none (a := (s.core r).rg w.ra + immS w) hin] at hact
  refine ⟨fun hgood => ?_, fun ⟨x, hx, hlo, hhi⟩ => ?_⟩
  · refine completes_retireNext (hact.trans (congrArg _ (if_neg ?_))) rfl rfl hf (hP _ _)
    simp only [List.any_eq_true, decide_eq_true_eq, not_exists, not_and]
    exact fun x hx hlo hhi => (hgood x hx).elim (Nat.not_lt.mpr hlo) (Nat.not_le.mpr hhi)
  · refine hact.trans (congrArg _ (if_pos ?_))
    simp only [List.any_eq_true, decide_eq_true_eq]
    exact ⟨x, hx, hlo, hhi⟩

end

/-- What a store does once it is in X: its bytes stand in local data memory, the lowest address lowest (R114). -/
theorem localStore_cases {f : PCore → List Byte} (hexec : exec c s = localStore s r w n illegal u f) (hlegal : illegal = false)
    (hready : ready s r u = true) (hlen : (f (s.core r)).length = n) :
    let a := ((s.core r).rg w.ra + w.imm.signExtend 32).toNat
    (a % n = 0 ∧ a + n ≤ 0x1000 → Completes c s r ((s.core r).pc + 4) (WritesD a (f (s.core r))))
    ∧ (a % n ≠ 0 → exec c s = .next (s.exception r 0x4103))
    ∧ (a % n = 0 ∧ 0x1000 < a + n → exec c s = .next (s.exception r 0x4104)) := by
  subst hlegal hlen
  intro a
  have hact := hexec.trans (issue_ready hready)
  dsimp only at hact
  have hfault {code : Code} (h : localFault ((s.core r).rg w.ra + immS w) (f (s.core r)).length = some code) :
      exec c s = .next (s.exception r code) := by
    rw [hact, h]
  refine ⟨fun hin => ?_, fun h => hfault (localFault_misaligned h), fun h => hfault (localFault_range h)⟩
  rw [localFault_none (a := (s.core r).rg w.ra + immS w) hin] at hact
  refine completes_retireNext hact rfl rfl rfl ⟨memByte_setBytes _ _ _, fun x => ?_, ⟨rfl, rfl⟩, rfl, rfl⟩
  apply Bool.eq_iff_iff.mpr
  simp only [PCore.finish, PCore.settle, List.contains_iff_mem, List.mem_filter, Bool.and_eq_true]
  rfl

end

/-- A load into a general register. -/
theorem loadG_cases {c : CoreRef → IFields → Instr} {n : Nat} {ext : Nat → Word} (hexec : ∀ r w s, exec (c r w) s = loadG s r w n ext)
    (s : State) (r : CoreRef) (w : IFields) (hready : ready s r { g := [w.ra], wg := [w.rd] } = true) :
    let a := ((s.core r).rg w.ra + w.imm.signExtend 32).toNat
    (a % n = 0 ∧ a + n ≤ 0x1000 →
      ((∀ x ∈ (s.core r).dmemBad, x < a ∨ a + n ≤ x) →
        Completes (c r w) s r ((s.core r).pc + 4)
          (WritesG w.rd (ext (leNat ((List.range n).map fun i => memByte (s.core r).dmem (a + i))))))
      ∧ ((∃ x ∈ (s.core r).dmemBad, a ≤ x ∧ x < a + n) → exec (c r w) s = .next (s.exception r 0x4109)))
    ∧ (a % n ≠ 0 → exec (c r w) s = .next (s.exception r 0x4103))
    ∧ (a % n = 0 ∧ 0x1000 < a + n → exec (c r w) s = .next (s.exception r 0x4104)) := by
  intro a
  rw [← memBytes_eq_map]
  exact localLoad_cases (hexec r w s) rfl hready (.wg _ _ _) fun _ _ => PCore.writesG_wg _ _ _ _ _

/-- A store from a general register. -/
theorem storeG_cases {c : CoreRef → IFields → Instr} {n : Nat} (hexec : ∀ r w s, exec (c r w) s = storeG s r w n)
    (s : State) (r : CoreRef) (w : IFields) (hready : ready s r { g := [w.ra, w.rd] } = true) :
    let a := ((s.core r).rg w.ra + w.imm.signExtend 32).toNat
    (a % n = 0 ∧ a + n ≤ 0x1000 → Completes (c r w) s r ((s.core r).pc + 4) (WritesD a (leBytes n ((s.core r).rg w.rd).toNat)))
    ∧ (a % n ≠ 0 → exec (c r w) s = .next (s.exception r 0x4103))
    ∧ (a % n = 0 ∧ 0x1000 < a + n → exec (c r w) s = .next (s.exception r 0x4104)) :=
  localStore_cases (hexec r w s) rfl hready (length_leBytes _ _)

/-- A vector register field below 8 is legal. -/
theorem vreg_legal {x : BitVec 5} (h : x.toNat < 8) : (!vreg x) = false := by simp [vreg, h]

/-- Settles O5: `loadG_cases` and `storeG_cases` for the general registers, the same cases for the vector registers. -/
theorem localDataInstructionsComplete : Obligations.LocalDataInstructionsComplete := by
  unfold Obligations.LocalDataInstructionsComplete
  refine ⟨?_, ?_, fun s r w hvreg hready => ?_, fun s r w hvreg hready => ?_⟩
  · simp only [List.forall_mem_cons, List.not_mem_nil, false_imp_iff, implies_true, and_true]
    exact ⟨loadG_cases exec_ldw, loadG_cases exec_ldh, loadG_cases exec_ldhu, loadG_cases exec_ldb, loadG_cases exec_ldbu⟩
  · simp only [List.forall_mem_cons, List.not_mem_nil, false_imp_iff, implies_true, and_true]
    exact ⟨storeG_cases exec_stw, storeG_cases exec_sth, storeG_cases exec_stb⟩
  · intro a
    rw [← memBytes_eq_map]
    obtain ⟨hin, hmisaligned, hrange⟩ := localLoad_cases (P := WritesV w.rd.toNat (rowOfBytes (memBytes (s.core r).dmem a 64)))
      (exec_vld r w s) (vreg_legal hvreg) hready (.wv _ _ _) fun _ _ => PCore.writesV_wv _ _ _ _ _
    exact ⟨fun h => (hin h).1, fun h => (hin h).2, hmisaligned, hrange⟩
  · have hlen : (bytesOfRow ((s.core r).rv w.rd.toNat)).length = 64 := length_bytesOfRow _
    exact localStore_cases (f := fun k => bytesOfRow (k.rv w.rd.toNat)) (exec_vst r w s) (vreg_legal hvreg) hready hlen

end Sys2Proof.Machine
end

section
/-!
SUPPORT. Lanes (R104): a register from lanes reads as those lanes; the lists of lanes of a register, as functions of the lane's number.
-/
namespace Sys2Proof.Machine

/-- The number that words of `n` bits make, the first lowest. -/
def packed {n : Nat} : List (BitVec n) → Nat
  | [] => 0
  | w :: t => w.toNat + 2 ^ n * packed t

theorem ofWords_eq_packed (l : List Word) : ofWords l = packed l := by
  induction l with
  | nil => rfl
  | cons w t ih => rw [ofWords, packed, ih]

theorem ofHalves_eq_packed (l : List (BitVec 16)) : ofHalves l = packed l := by
  induction l with
  | nil => rfl
  | cons w t ih => rw [ofHalves, packed, ih]

theorem packed_lt {n : Nat} (l : List (BitVec n)) : packed l < 2 ^ (n * l.length) := by
  induction l with
  | nil => exact Nat.one_pos
  | cons w t ih =>
    calc w.toNat + 2 ^ n * packed t < 2 ^ n * (packed t + 1) := by rw [Nat.mul_succ]; have := w.isLt; omega
      _ ≤ 2 ^ n * 2 ^ (n * t.length) := Nat.mul_le_mul_left _ ih
      _ = 2 ^ (n * (w :: t).length) := by rw [← pow_add, List.length_cons, Nat.mul_succ, Nat.add_comm]

theorem packed_digit {n : Nat} (l : List (BitVec n)) (i : Nat) : packed l / 2 ^ (n * i) % 2 ^ n = (l.getD i 0).toNat := by
  induction l generalizing i with
  | nil => simp [packed]
  | cons w t ih =>
    cases i with
    | zero => simp [packed, Nat.mod_eq_of_lt w.isLt]
    | succ i =>
      have hshift : packed (w :: t) / 2 ^ n = packed t := by
        rw [packed, Nat.add_mul_div_left _ _ (Nat.two_pow_pos n), Nat.div_eq_of_lt w.isLt, Nat.zero_add]
      rw [Nat.mul_succ, Nat.add_comm, pow_add, ← Nat.div_div_eq_div_mul, hshift, ih, List.getD_cons_succ]

/-- A field of a register that words of `n` bits fill. -/
theorem extractLsb'_packed {n m : Nat} {l : List (BitVec n)} (hl : n * l.length = m) (i : Nat) :
    (BitVec.ofNat m (packed l)).extractLsb' (n * i) n = l.getD i 0 := by
  have hlt : packed l < 2 ^ m := hl ▸ packed_lt l
  apply BitVec.eq_of_toNat_eq
  rw [BitVec.extractLsb'_toNat, BitVec.toNat_ofNat, Nat.mod_eq_of_lt hlt, Nat.shiftRight_eq_div_pow, packed_digit]

theorem getD_map_range {α : Type} (f : Nat → α) {n i : Nat} (d : α) (hi : i < n) : ((List.range n).map f).getD i d = f i := by
  simp [List.getD_eq_getElem?_getD, hi]

theorem lane_rowOfWords_getD {l : List Word} (hl : l.length = 16) (i : Nat) : lane (rowOfWords l) i = l.getD i 0 := by
  rw [lane, rowOfWords, ofWords_eq_packed, extractLsb'_packed (by rw [hl])]

theorem half16_rowOfHalves_getD {l : List (BitVec 16)} (hl : l.length = 32) (i : Nat) : half16 (rowOfHalves l) i = l.getD i 0 := by
  rw [half16, rowOfHalves, ofHalves_eq_packed, extractLsb'_packed (by rw [hl])]

theorem lane_rowOfWords (f : Nat → Word) {i : Nat} (hi : i < 16) : lane (rowOfWords ((List.range 16).map f)) i = f i := by
  rw [lane_rowOfWords_getD (by simp), getD_map_range f _ hi]

theorem half16_rowOfHalves (f : Nat → BitVec 16) {i : Nat} (hi : i < 32) : half16 (rowOfHalves ((List.range 32).map f)) i = f i := by
  rw [half16_rowOfHalves_getD (by simp), getD_map_range f _ hi]

/-! Lists of lanes. -/

section
variable {α : Type}

theorem zipWith_map_same {β γ δ : Type} (l : List α) (f : α → β) (g : α → γ) (h : β → γ → δ) :
    List.zipWith h (l.map f) (l.map g) = l.map fun x => h (f x) (g x) := by
  rw [List.zipWith_map, List.zipWith_self]

theorem zipWith_words (f : Word → Word → α) (x y : Row) :
    List.zipWith f (words x) (words y) = (List.range 16).map fun i => f (lane x i) (lane y i) := zipWith_map_same _ _ _ _

theorem zipWith_halves (f : BitVec 16 → BitVec 16 → α) (x y : Row) :
    List.zipWith f (halves x) (halves y) = (List.range 32).map fun i => f (half16 x i) (half16 y i) := zipWith_map_same _ _ _ _

theorem map_words (f : Word → α) (x : Row) : (words x).map f = (List.range 16).map fun i => f (lane x i) := List.map_map

end

theorem gather32_map_range (f : Nat → Word × Nat) : gather32 ((List.range 16).map f) =
    (rowOfWords ((List.range 16).map fun i => (f i).1), ((List.range 16).map fun i => (f i).2).sum) := by
  rw [gather32, List.map_map, List.map_map]
  rfl

theorem gather16_map_range (f : Nat → BitVec 16 × Nat) : gather16 ((List.range 32).map f) =
    (rowOfHalves ((List.range 32).map fun i => (f i).1), ((List.range 32).map fun i => (f i).2).sum) := by
  rw [gather16, List.map_map, List.map_map]
  rfl

theorem words_set (x : Row) (j : Nat) (y : Word) : (words x).set j y = (List.range 16).map fun i => if i = j then y else lane x i := by
  refine List.ext_getElem (by simp [words]) fun i hi _ => ?_
  simp [words, List.getElem_set, eq_comm]

end Sys2Proof.Machine
end

section
/-!
SUPPORT. Vector instructions (R110, Table 5.6): how one completes with a register written and flushed values counted; the integer ones.
-/
namespace Sys2Proof.Machine

/-! Counting events changes nothing of a core. -/

@[simp] theorem State.countDnorm_zero (s : State) (c : Nat) : s.countDnorm c 0 = s := rfl

theorem State.countDnorm_core (s : State) (c n : Nat) (r : CoreRef) : (s.countDnorm c n).core r = s.core r := by
  rw [State.countDnorm]
  split
  · rfl
  · exact State.core_modCove rfl r

theorem State.countDnorm_cycles (s : State) (c n d : Nat) : (s.countDnorm c n).cycles d = s.cycles d := by
  rw [State.countDnorm]
  split <;> rfl

section
variable {c : Instr} {s : State} {r : CoreRef} {illegal : Bool} {u : Uses} {P : PCore → PCore → Prop}

theorem completes_counted {f : PCore → PCore} {n : Nat} (h : exec c s = .next ((s.countDnorm r.cove n).retireNext r f))
    (hf : PCore.Data (s.core r) (f (s.core r)))
    (hP : P (s.core r) ((f (s.core r)).finish (s.cycles r.cove) ((s.core r).pc + 4))) :
    CompletesFrom c s (s.countDnorm r.cove n) r ((s.core r).pc + 4) P :=
  completes_retireNext h (s.countDnorm_core _ _ _) (s.countDnorm_cycles _ _ _) hf hP

section
variable {f : PCore → PCore × Nat} (hexec : exec c s = vecOp s r illegal u f) (hlegal : illegal = false) (hready : ready s r u = true)
include hexec hlegal hready

theorem vecOp_completes (hf : PCore.Data (s.core r) (f (s.core r)).1)
    (hP : P (s.core r) ((f (s.core r)).1.finish (s.cycles r.cove) ((s.core r).pc + 4))) :
    CompletesFrom c s (s.countDnorm r.cove (f (s.core r)).2) r ((s.core r).pc + 4) P := by
  subst hlegal
  exact completes_counted (hexec.trans (issue_ready hready)) hf hP

/-- A vector instruction that writes v[vd]. -/
theorem vecOp_writesV {vd n : Nat} {x : Row} (hval : f (s.core r) = ((s.core r).wv vd x, n)) :
    CompletesFrom c s (s.countDnorm r.cove n) r ((s.core r).pc + 4) (WritesV vd x) := by
  have h := vecOp_completes (P := WritesV vd x) hexec hlegal hready (by rw [hval]; exact .wv _ _ _) (by rw [hval]; exact PCore.writesV_wv _ _ _ _ _)
  rwa [hval] at h

/-- A vector instruction that writes g[rd]. -/
theorem vecOp_writesG {rd : BitVec 5} {n : Nat} {x : Word} (hval : f (s.core r) = ((s.core r).wg rd x, n)) :
    CompletesFrom c s (s.countDnorm r.cove n) r ((s.core r).pc + 4) (WritesG rd x) := by
  have h := vecOp_completes (P := WritesG rd x) hexec hlegal hready (by rw [hval]; exact .wg _ _ _) (by rw [hval]; exact PCore.writesG_wg _ _ _ _ _)
  rwa [hval] at h

end
end

/-! The integer instructions. -/

/-- A lane-wise integer instruction. -/
theorem vint_completes {c : CoreRef → VFields → Instr} {f g : Word → Word → Word} (hexec : ∀ r w s, exec (c r w) s = vint s r w f)
    (hval : ∀ a b, f a b = g a b) (s : State) (r : CoreRef) (w : VFields) (hmod : w.mod = 0) (hrs : w.rs = 0)
    (hready : ready s r { v := [w.va.toNat, w.vb.toNat], wv := [w.vd.toNat] } = true) :
    ∃ x : Row, Completes (c r w) s r ((s.core r).pc + 4) (WritesV w.vd.toNat x)
      ∧ ∀ i, i < 16 → lane x i = g (lane ((s.core r).rv w.va.toNat) i) (lane ((s.core r).rv w.vb.toNat) i) := by
  refine ⟨_, vecOp_writesV (hexec r w s) (by rw [hmod, hrs]; rfl) hready rfl, fun i hi => ?_⟩
  rw [zipWith_words, lane_rowOfWords _ hi, hval]

/-- A reduction into g[RS]. -/
theorem vred_completes {c : Instr} {s : State} {r : CoreRef} {w : VFields} {f : List Word → Word × Nat} {x : Word} {n : Nat}
    (hexec : exec c s = vred s r w f) (hvd : w.vd = 0) (hvb : w.vb = 0) (hmod : w.mod = 0)
    (hready : ready s r { v := [w.va.toNat], wg := [w.rs] } = true) (hval : f (words ((s.core r).rv w.va.toNat)) = (x, n)) :
    CompletesFrom c s (s.countDnorm r.cove n) r ((s.core r).pc + 4) (WritesG w.rs x) :=
  vecOp_writesG hexec (by rw [hvd, hvb, hmod]; rfl) hready (by rw [hval])

theorem foldl_add_eq (l : List Word) (x : Word) : l.foldl (· + ·) x = x + BitVec.ofNat 32 (l.map BitVec.toNat).sum := by
  induction l generalizing x with
  | nil => simp
  | cons y l ih => rw [List.foldl_cons, ih, List.map_cons, List.sum_cons, BitVec.ofNat_add, BitVec.ofNat_toNat, BitVec.setWidth_eq, BitVec.add_assoc]

theorem foldl_maxS (l : List Word) (x : Word) : (l.foldl maxS x = x ∨ l.foldl maxS x ∈ l) ∧ x.toInt ≤ (l.foldl maxS x).toInt
    ∧ ∀ y ∈ l, y.toInt ≤ (l.foldl maxS x).toInt := by
  induction l generalizing x with
  | nil => simp
  | cons y l ih =>
    obtain ⟨hmem, hge, hall⟩ := ih (maxS x y)
    have hxy : (maxS x y = x ∨ maxS x y = y) ∧ x.toInt ≤ (maxS x y).toInt ∧ y.toInt ≤ (maxS x y).toInt := by
      rw [maxS_eq]
      split
      · exact ⟨.inr rfl, ‹_›, le_rfl⟩
      · exact ⟨.inl rfl, le_rfl, by omega⟩
    rw [List.foldl_cons]
    refine ⟨?_, hxy.2.1.trans hge, List.forall_mem_cons.mpr ⟨hxy.2.2.trans hge, hall⟩⟩
    rcases hmem with h | h
    · rw [h]
      exact hxy.1.imp_right fun hy => by rw [hy]; exact List.mem_cons_self
    · exact .inr (List.mem_cons_of_mem _ h)

/-- From the least word on, the fold is the largest of the words. -/
theorem foldl_maxS_max {l : List Word} (hl : l ≠ []) : l.foldl maxS 0x80000000 ∈ l ∧ ∀ y ∈ l, y.toInt ≤ (l.foldl maxS 0x80000000).toInt := by
  obtain ⟨hmem, -, hall⟩ := foldl_maxS l 0x80000000
  refine ⟨hmem.elim (fun hmin => ?_) id, hall⟩
  obtain ⟨y, t, rfl⟩ := List.exists_cons_of_ne_nil hl
  have hle := hall y List.mem_cons_self
  rw [hmin] at hle ⊢
  have hy : y = 0x80000000 := BitVec.eq_of_toInt_eq (le_antisymm hle (BitVec.le_toInt y))
  rw [hy]
  exact List.mem_cons_self

theorem mem_words {x : Row} {y : Word} : y ∈ words x ↔ ∃ i, i < 16 ∧ lane x i = y := by simp [words]

/-- Settles O8: each instruction's register from lanes, read lane by lane; the reductions as folds of the lanes. -/
theorem vectorIntegerInstructionsComplete : Obligations.VectorIntegerInstructionsComplete := by
  unfold Obligations.VectorIntegerInstructionsComplete
  refine ⟨?_, fun s r w => ⟨fun hready => ?_, fun hready => ?_, fun hready => ?_, fun hready => ?_, fun hvd hvb hmod hready => ⟨?_, ?_⟩⟩⟩
  · simp only [List.forall_mem_cons, List.not_mem_nil, false_imp_iff, implies_true, and_true]
    exact ⟨vint_completes exec_vaddI32 fun _ _ => BitVec.add_def _ _, vint_completes exec_vsubI32 Word.sub_eq_ofInt,
      vint_completes exec_vand fun _ _ => rfl, vint_completes exec_vor fun _ _ => rfl, vint_completes exec_vxor fun _ _ => rfl,
      vint_completes exec_vminI32 fun a b => ite_slt a b a b id, vint_completes exec_vmaxI32 fun a b => ite_slt a b b a Eq.symm,
      vint_completes exec_vmulI32 fun _ _ => BitVec.mul_def⟩
  · exact ⟨_, vecOp_writesV (exec_vbcast r w s) rfl hready rfl, fun i hi => lane_rowOfWords (fun _ => (s.core r).rg w.rs) hi⟩
  · exact vecOp_writesG (exec_vext r w s) rfl hready rfl
  · refine ⟨_, vecOp_writesV (exec_vins r w s) rfl hready rfl, fun i hi => ?_⟩
    rw [words_set, lane_rowOfWords _ hi]
  · exact vecOp_writesV (exec_vcopy r w s) rfl hready rfl
  · refine vred_completes (exec_vredsumI32 r w s) hvd hvb hmod hready (n := 0) ?_
    rw [foldl_add_eq, map_words, zero_add]
  · have hne : words ((s.core r).rv w.va.toNat) ≠ [] := by simp [words]
    obtain ⟨hmem, hall⟩ := foldl_maxS_max hne
    obtain ⟨i, hi, hlane⟩ := mem_words.mp hmem
    exact ⟨_, vred_completes (exec_vredmaxI32 r w s) hvd hvb hmod hready rfl, ⟨i, hi, hlane.symm⟩, fun i hi => hall _ (mem_words.mpr ⟨i, hi, rfl⟩)⟩

end Sys2Proof.Machine
end

section
/-!
SUPPORT. Vector floating point (R110 to R112): the rounding mode decides between completion and 0x4013; lane-wise operations; the reduction tree.
-/
namespace Sys2Proof.Machine

/-! The rounding mode (R110). -/

theorem extractMode_zero {m : BitVec 6} (h : m.toNat < 4) : (m.extractLsb' 2 4 != 0) = false := by
  have hzero : m.extractLsb' 2 4 = 0 := BitVec.eq_of_toNat_eq (by
    rw [BitVec.extractLsb'_toNat, Nat.shiftRight_eq_div_pow, Nat.div_eq_of_lt h]
    rfl)
  rw [hzero]
  rfl

theorem badRound_eq {w : VFields} (h : w.mod.toNat < 4) : badRound w = decide (2 ≤ w.mod.toNat) := by
  rw [badRound, BitVec.getLsbD, Nat.testBit_eq_decide_div_mod_eq]
  exact decide_eq_decide.mpr (by omega)

section
variable {c : Instr} {s : State} {r : CoreRef} {w : VFields} {illegal : Bool} {u : Uses} {f : Bool → PCore → PCore × Nat}

/-- A floating-point instruction of legal encoding: a legal rounding mode completes it, a reserved one raises 0x4013. -/
theorem fltOp_cases {vd n : Nat} {x : Row} (hexec : exec c s = fltOp s r w illegal u f) (hlegal : illegal = false) (hmod : w.mod.toNat < 4)
    (hready : ready s r u = true) (hval : f (w.mod.getLsbD 0) (s.core r) = ((s.core r).wv vd x, n)) :
    (w.mod.toNat < 2 → CompletesFrom c s (s.countDnorm r.cove n) r ((s.core r).pc + 4) (WritesV vd x))
    ∧ (2 ≤ w.mod.toNat → exec c s = .next (s.exception r 0x4013)) := by
  have hact : exec c s = .next (if badRound w then s.exception r 0x4013
      else (s.countDnorm r.cove (f (w.mod.getLsbD 0) (s.core r)).2).retireNext r fun k => (f (w.mod.getLsbD 0) k).1) := by
    rw [hexec, fltOp, hlegal, extractMode_zero hmod]
    exact issue_ready hready
  rw [badRound_eq hmod, hval] at hact
  refine ⟨fun hgood => ?_, fun hbad => ?_⟩
  · rw [if_neg (by simpa using hgood)] at hact
    exact completes_counted hact (by rw [hval]; exact .wv _ _ _) (by rw [hval]; exact PCore.writesV_wv _ _ _ _ _)
  · rw [if_pos (by simpa using hbad)] at hact
    exact hact

end

/-! Lane-wise operations. -/

section
variable {c : Instr} {s : State} {r : CoreRef} {w : VFields} (hmod : w.mod.toNat < 4)
include hmod

/-- Over FP32 lanes, each lane with the count of its flushed values. -/
theorem fltLanes_cases {illegal : Bool} {u : Uses} {f : Bool → PCore → PCore × Nat} (lanes : Nat → Word × Nat)
    (hexec : exec c s = fltOp s r w illegal u f) (hlegal : illegal = false) (hready : ready s r u = true)
    (hval : f (w.mod.getLsbD 0) (s.core r) =
      ((s.core r).wv w.vd.toNat (gather32 ((List.range 16).map lanes)).1, (gather32 ((List.range 16).map lanes)).2)) :
    (w.mod.toNat < 2 → ∃ x : Row,
      CompletesFrom c s (s.countDnorm r.cove ((List.range 16).map fun i => (lanes i).2).sum) r ((s.core r).pc + 4) (WritesV w.vd.toNat x)
      ∧ ∀ i, i < 16 → lane x i = (lanes i).1)
    ∧ (2 ≤ w.mod.toNat → exec c s = .next (s.exception r 0x4013)) := by
  rw [gather32_map_range] at hval
  obtain ⟨hdone, hbad⟩ := fltOp_cases hexec hlegal hmod hready hval
  exact ⟨fun h => ⟨_, hdone h, fun i hi => lane_rowOfWords _ hi⟩, hbad⟩

end

/-- VFLT over FP32 lanes with two operands. -/
theorem vflt2_cases {c : CoreRef → VFields → Instr} {op : Bool → Word → Word → Word × Nat} (hexec : ∀ r w s, exec (c r w) s = vflt2 s r w op)
    (s : State) (r : CoreRef) (w : VFields) (hrs : w.rs = 0) (hmod : w.mod.toNat < 4)
    (hready : ready s r { v := [w.va.toNat, w.vb.toNat], wv := [w.vd.toNat] } = true) :
    let f (i : Nat) := op (w.mod.getLsbD 0) (lane ((s.core r).rv w.va.toNat) i) (lane ((s.core r).rv w.vb.toNat) i)
    (w.mod.toNat < 2 → ∃ x : Row,
      CompletesFrom (c r w) s (s.countDnorm r.cove ((List.range 16).map fun i => (f i).2).sum) r ((s.core r).pc + 4) (WritesV w.vd.toNat x)
      ∧ ∀ i, i < 16 → lane x i = (f i).1)
    ∧ (2 ≤ w.mod.toNat → exec (c r w) s = .next (s.exception r 0x4013)) :=
  fltLanes_cases hmod _ (hexec r w s) (by rw [hrs]; rfl) hready (by rw [zipWith_words])

/-- VFLT over FP32 lanes with one operand. -/
theorem vflt1_cases {c : CoreRef → VFields → Instr} {op : Word → Word × Nat} (hexec : ∀ r w s, exec (c r w) s = vflt1 s r w op)
    (s : State) (r : CoreRef) (w : VFields) (hrs : w.rs = 0) (hvb : w.vb = 0) (hmod : w.mod.toNat < 4)
    (hready : ready s r { v := [w.va.toNat], wv := [w.vd.toNat] } = true) :
    let f (i : Nat) := op (lane ((s.core r).rv w.va.toNat) i)
    (2 ≤ w.mod.toNat → exec (c r w) s = .next (s.exception r 0x4013)) ∧ (w.mod.toNat < 2 → ∃ x : Row,
      CompletesFrom (c r w) s (s.countDnorm r.cove ((List.range 16).map fun i => (f i).2).sum) r ((s.core r).pc + 4) (WritesV w.vd.toNat x)
      ∧ ∀ i, i < 16 → lane x i = (f i).1) :=
  (fltLanes_cases hmod _ (hexec r w s) (by rw [hrs, hvb]; rfl) hready (by rw [map_words])).symm

/-- VFLT over BF16 lanes. -/
theorem vfltH_cases {c : CoreRef → VFields → Instr} {op : Bool → BitVec 16 → BitVec 16 → BitVec 16 × Nat}
    (hexec : ∀ r w s, exec (c r w) s = vfltH s r w op) (s : State) (r : CoreRef) (w : VFields) (hrs : w.rs = 0) (hmod : w.mod.toNat < 4)
    (hready : ready s r { v := [w.va.toNat, w.vb.toNat], wv := [w.vd.toNat] } = true) :
    let f (i : Nat) := op (w.mod.getLsbD 0) (half16 ((s.core r).rv w.va.toNat) i) (half16 ((s.core r).rv w.vb.toNat) i)
    (2 ≤ w.mod.toNat → exec (c r w) s = .next (s.exception r 0x4013)) ∧ (w.mod.toNat < 2 → ∃ x : Row,
      CompletesFrom (c r w) s (s.countDnorm r.cove ((List.range 32).map fun i => (f i).2).sum) r ((s.core r).pc + 4) (WritesV w.vd.toNat x)
      ∧ ∀ i, i < 32 → half16 x i = (f i).1) := by
  intro f
  obtain ⟨hdone, hbad⟩ := fltOp_cases (vd := w.vd.toNat) (n := ((List.range 32).map fun i => (f i).2).sum)
    (x := rowOfHalves ((List.range 32).map fun i => (f i).1))
    (hexec r w s) (by rw [hrs]; rfl) hmod hready (by rw [zipWith_halves, gather16_map_range])
  exact ⟨hbad, fun h => ⟨_, hdone h, fun i hi => half16_rowOfHalves _ hi⟩⟩

/-- Settles O9: by the number of operands and the width of the lanes. -/
theorem vectorFloatInstructionsComplete : Obligations.VectorFloatInstructionsComplete := by
  unfold Obligations.VectorFloatInstructionsComplete
  simp only [List.forall_mem_cons, List.not_mem_nil, false_imp_iff, implies_true, and_true]
  refine ⟨⟨vflt2_cases (op := f32Add) exec_vaddF32, vflt2_cases (op := f32Sub) exec_vsubF32, vflt2_cases (op := f32Mul) exec_vmulF32,
      vflt2_cases (op := fun _ => f32Max false) exec_vmaxF32, vflt2_cases (op := fun _ => f32Max true) exec_vminF32⟩, fun s r w hmod hready => ?_,
    ⟨vflt1_cases (op := f32Exp2) exec_vexp2F32, vflt1_cases (op := f32Rcp) exec_vrcpF32, vflt1_cases (op := f32Rsq) exec_vrsqF32⟩,
    vfltH_cases (op := bf16Add) exec_vaddBf16, vfltH_cases (op := bf16Mul) exec_vmulBf16⟩
  refine (fltLanes_cases hmod _ (exec_vfmaF32 r w s) rfl hready ?_).symm
  dsimp only
  rw [List.zip, zipWith_words, words, zipWith_map_same]

/-! The tree of a reduction (R111). -/

theorem pairUp_map_range {α : Type} (f : α → α → α) (x : Nat → α) (n : Nat) :
    pairUp f ((List.range (2 * n)).map x) = (List.range n).map fun i => f (x (2 * i)) (x (2 * i + 1)) := by
  induction n generalizing x with
  | zero => rfl
  | succ n ih =>
    have hsplit : (List.range (2 * (n + 1))).map x = x 0 :: x 1 :: (List.range (2 * n)).map fun i => x (i + 2) := by
      rw [Nat.mul_succ, List.range_succ_eq_map, List.range_succ_eq_map]
      simp
    rw [hsplit, pairUp, ih, List.range_succ_eq_map, List.map_cons, List.map_map]
    rfl

/-- Two values and their counts combined by an operation that counts what it flushes. -/
def countedOp (op : Word → Word → Word × Nat) (a b : Word × Nat) : Word × Nat := ((op a.1 b.1).1, a.2 + b.2 + (op a.1 b.1).2)

theorem tree16_counted (op : Word → Word → Word × Nat) (x : Nat → Word) :
    let f (a b : Word) := (op a b).1
    let n (a b : Word) := (op a b).2
    let x2 (i : Nat) := f (x (2 * i)) (x (2 * i + 1))
    let x4 (i : Nat) := f (x2 (2 * i)) (x2 (2 * i + 1))
    let x8 (i : Nat) := f (x4 (2 * i)) (x4 (2 * i + 1))
    let flushed := ((List.range 8).map fun i => n (x (2 * i)) (x (2 * i + 1))).sum + ((List.range 4).map fun i => n (x2 (2 * i)) (x2 (2 * i + 1))).sum
      + ((List.range 2).map fun i => n (x4 (2 * i)) (x4 (2 * i + 1))).sum + n (x8 0) (x8 1)
    tree16 (countedOp op) ((List.range 16).map fun i => (x i, 0)) = [(f (x8 0) (x8 1), flushed)] := by
  intro f n x2 x4 x8 flushed
  rw [tree16, pairUp_map_range _ _ 8, pairUp_map_range _ _ 4, pairUp_map_range _ _ 2, pairUp_map_range _ _ 1]
  refine congrArg (fun c => [(f (x8 0) (x8 1), c)]) ?_
  simp [flushed, n, f, x2, x4, x8, countedOp, List.range_succ]
  omega

/-- Settles O10: both reductions are the tree, of the sum and of the maximum. -/
theorem vectorFloatReductionsComplete : Obligations.VectorFloatReductionsComplete := by
  unfold Obligations.VectorFloatReductionsComplete
  simp only [List.forall_mem_cons, List.not_mem_nil, false_imp_iff, implies_true, and_true]
  refine ⟨fun s r w hvd hvb hmod hready => vred_completes (exec_vredsumF32 r w s) hvd hvb hmod hready ?_,
    fun s r w hvd hvb hmod hready => vred_completes (exec_vredmaxF32 r w s) hvd hvb hmod hready ?_⟩
  · rw [map_words]
    exact congrArg (fun l => l.head?.getD (0, 0)) (tree16_counted (f32Add false) _)
  · rw [map_words]
    exact congrArg (fun l => l.head?.getD (0, 0)) (tree16_counted (f32Max false) _)

end Sys2Proof.Machine
end

section
/-!
SUPPORT. Vector conversions (R110, R113, Table 5.6): their faults, their lanes and the events that they count.
-/
namespace Sys2Proof.Machine

/-- The events of a conversion counted in the cove's breaker counters (R113). -/
def State.countConv (s : State) (c sat ovf unf dnorm invalid : Nat) : State :=
  s.modCove c fun v => { v with brk := { v.brk with ctr := countEvents v.brk.ctr sat ovf unf dnorm invalid } }

theorem State.countConv_core (s : State) (c sat ovf unf dnorm invalid : Nat) (r : CoreRef) :
    (s.countConv c sat ovf unf dnorm invalid).core r = s.core r := State.core_modCove rfl r

section
variable {c : Instr} {s : State} {r : CoreRef} {sat ovf unf dnorm invalid : Nat}

/-- A conversion that counts events and writes v[vd] completes. -/
theorem completes_converted {vd : Nat} {x : Row}
    (h : exec c s = .next ((s.countConv r.cove sat ovf unf dnorm invalid).retireNext r fun k => k.wv vd x)) :
    CompletesFrom c s (s.countConv r.cove sat ovf unf dnorm invalid) r ((s.core r).pc + 4) (WritesV vd x) :=
  completes_retireNext h (s.countConv_core _ _ _ _ _ _ _) rfl (.wv _ _ _) (PCore.writesV_wv _ _ _ _ _)

end

/-! Totals of events. -/

theorem foldl_events_total {α : Type} (l : List α) (ev : α → Events) (e : Events) (field : Events → Nat)
    (hadd : ∀ a b, field (a.add b) = field a + field b) :
    field (l.foldl (fun e x => e.add (ev x)) e) = field e + (l.map fun x => field (ev x)).sum := by
  induction l generalizing e with
  | nil => simp
  | cons x l ih => rw [List.foldl_cons, ih, hadd, List.map_cons, List.sum_cons, Nat.add_assoc]

/-! The faults of a block (R113). -/

section
variable {fmt blk : Nat}

theorem packFault_format (h : fmtBlock fmt = false) : packFault fmt blk = some 0x4011 := by
  rw [packFault, h]
  rfl

theorem packFault_zero (h : fmtBlock fmt = true) (hblk : blk = 0) : packFault fmt blk = some 0x4010 := by
  rw [packFault, h, if_neg (by decide), if_pos hblk]

theorem packFault_size (h : fmtBlock fmt = true) (hzero : blk ≠ 0) (hsize : blk ≠ 32) : packFault fmt blk = some 0x4012 := by
  rw [packFault, h, if_neg (by decide), if_neg hzero, if_pos hsize]

theorem packFault_none (h : fmtBlock fmt = true) (hblk : blk = 32) : packFault fmt blk = none := by
  rw [packFault, h, hblk]
  rfl

/-- What the faults of a block leave, where each fault is raised as an exception. -/
theorem packFault_cases {c : Instr} {s : State} {r : CoreRef} (h : ∀ code, packFault fmt blk = some code → exec c s = .next (s.exception r code)) :
    (fmtBlock fmt = false → exec c s = .next (s.exception r 0x4011))
    ∧ (fmtBlock fmt = true → blk = 0 → exec c s = .next (s.exception r 0x4010))
    ∧ (fmtBlock fmt = true → blk ≠ 0 → blk ≠ 32 → exec c s = .next (s.exception r 0x4012)) :=
  ⟨fun hf => h _ (packFault_format hf), fun hf hz => h _ (packFault_zero hf hz), fun hf hz hs => h _ (packFault_size hf hz hs)⟩

end

/-! The instructions. -/

section
variable {s : State} {r : CoreRef} {w : VFields}

/-- BF16 lanes from `lo` on, widened. -/
theorem vwiden_completes {c : Instr} {lo : Nat} (hlo : lo + 16 ≤ 32) (hexec : exec c s = vwiden s r w lo) (hvb : w.vb = 0) (hrs : w.rs = 0)
    (hready : ready s r { v := [w.va.toNat], wv := [w.vd.toNat] } = true) :
    let f (i : Nat) := bf16Val (half16 ((s.core r).rv w.va.toNat) (lo + i))
    ∃ x : Row, CompletesFrom c s (s.countDnorm r.cove ((List.range 16).map fun i => (f i).2).sum) r ((s.core r).pc + 4) (WritesV w.vd.toNat x)
      ∧ ∀ i, i < 16 → lane x i = f32Bits (f i).1 := by
  intro f
  have hlanes : ((halves ((s.core r).rv w.va.toNat)).drop lo).take 16 = (List.range 16).map fun i => half16 ((s.core r).rv w.va.toNat) (lo + i) := by
    refine List.ext_getElem (by simp [halves]; omega) fun i _ _ => ?_
    simp [halves]
  have hval : gather32 ((((halves ((s.core r).rv w.va.toNat)).drop lo).take 16).map fun h => (f32Bits (bf16Val h).1, (bf16Val h).2)) = 
      (rowOfWords ((List.range 16).map fun i => f32Bits (f i).1), ((List.range 16).map fun i => (f i).2).sum) := by
    rw [hlanes, List.map_map]
    exact gather32_map_range fun i => (f32Bits (f i).1, (f i).2)
  refine ⟨_, vecOp_writesV hexec (by rw [hvb, hrs]; rfl) hready ?_, fun i hi => lane_rowOfWords (fun i => f32Bits (f i).1) hi⟩
  rw [hval]

theorem vf2i_cases (hvb : w.vb = 0) (hrs : w.rs = 0) (hmod : w.mod.toNat < 4)
    (hready : ready s r { v := [w.va.toNat], wv := [w.vd.toNat] } = true) :
    let f (i : Nat) := f32ToInt (w.mod.getLsbD 0) (lane ((s.core r).rv w.va.toNat) i)
    (w.mod.toNat < 2 → ∃ x : Row,
      CompletesFrom (.vf2i r w) s (s.countDnorm r.cove ((List.range 16).map fun i => (f i).2).sum) r ((s.core r).pc + 4) (WritesV w.vd.toNat x)
      ∧ ∀ i, i < 16 → lane x i = (f i).1)
    ∧ (2 ≤ w.mod.toNat → exec (.vf2i r w) s = .next (s.exception r 0x4013)) :=
  fltLanes_cases hmod _ (exec_vf2i r w s) (by rw [hvb, hrs]; rfl) hready (by rw [map_words])

theorem vi2f_cases (hvb : w.vb = 0) (hrs : w.rs = 0) (hmod : w.mod.toNat < 4)
    (hready : ready s r { v := [w.va.toNat], wv := [w.vd.toNat] } = true) :
    (w.mod.toNat < 2 → ∃ x : Row, Completes (.vi2f r w) s r ((s.core r).pc + 4) (WritesV w.vd.toNat x)
      ∧ ∀ i, i < 16 → lane x i = intToF32 (w.mod.getLsbD 0) (lane ((s.core r).rv w.va.toNat) i))
    ∧ (2 ≤ w.mod.toNat → exec (.vi2f r w) s = .next (s.exception r 0x4013)) := by
  obtain ⟨hdone, hbad⟩ := fltOp_cases (exec_vi2f r w s) (by rw [hvb, hrs]; rfl) hmod hready rfl
  refine ⟨fun h => ⟨_, hdone h, fun i hi => ?_⟩, hbad⟩
  rw [map_words, lane_rowOfWords _ hi]

/-- VF2BF: a legal rounding mode completes it, a reserved one raises 0x4013. -/
theorem vf2bf_cases (hrs : w.rs = 0) (hmod : w.mod.toNat < 4)
    (hready : ready s r { v := [w.va.toNat, w.vb.toNat], wv := [w.vd.toNat] } = true) :
    let l := (words ((s.core r).rv w.va.toNat) ++ words ((s.core r).rv w.vb.toNat)).map (f32ToBf16 (w.mod.getLsbD 0))
    let ev := l.foldl (fun (e : Events) x => e.add x.2) ({} : Events)
    (w.mod.toNat < 2 → ∃ x : Row, CompletesFrom (.vf2bf r w) s (s.countConv r.cove ev.sat 0 0 ev.dnorm 0) r ((s.core r).pc + 4) (WritesV w.vd.toNat x)
      ∧ ∀ i, i < 32 → half16 x i = ((l.map Prod.fst).getD i 0))
    ∧ (2 ≤ w.mod.toNat → exec (.vf2bf r w) s = .next (s.exception r 0x4013)) := by
  intro l ev
  have hact : exec (.vf2bf r w) s = .next (if badRound w then s.exception r 0x4013
      else (s.countConv r.cove ev.sat 0 0 ev.dnorm 0).retireNext r fun k => k.wv w.vd.toNat (rowOfHalves (l.map Prod.fst))) := by
    rw [exec_vf2bf, execVf2bf, hrs, extractMode_zero hmod]
    exact issue_ready hready
  rw [badRound_eq hmod] at hact
  refine ⟨fun hgood => ⟨_, ?_, fun i _ => half16_rowOfHalves_getD (by simp [l, words]) i⟩, fun hbad => ?_⟩
  · rw [if_neg (by simpa using hgood)] at hact
    exact completes_converted hact
  · rw [if_pos (by simpa using hbad)] at hact
    exact hact

/-- VPACK of a legal block completes; the faults of the block are raised in their order. -/
theorem vpack_cases (hready : ready s r { g := [w.rs], v := [w.va.toNat, w.vb.toNat], wv := [w.vd.toNat] } = true) :
    let fmt := w.mod.toNat % 16
    let blk := ((s.core r).rg w.rs).toNat % 64
    let xs := (words ((s.core r).rv w.va.toNat) ++ words ((s.core r).rv w.vb.toNat)).map f32Val
    let y := convBlock fmt (if w.mod.getLsbD 5 then 1 else 0) (w.mod.getLsbD 4) (fun _ => 0) (xs.map Prod.fst)
    (packFault fmt blk = none →
      CompletesFrom (.vpack r w) s (s.countConv r.cove y.2.2.sat y.2.2.ovf y.2.2.unf (xs.map Prod.snd).sum y.2.2.invalid) r ((s.core r).pc + 4)
        (WritesV w.vd.toNat (BitVec.ofNat 512 (y.1 + y.2.1 * 2 ^ 256))))
    ∧ ∀ code, packFault fmt blk = some code → exec (.vpack r w) s = .next (s.exception r code) := by
  intro fmt blk xs y
  have hact := (exec_vpack r w s).trans (issue_ready hready)
  dsimp only at hact
  refine ⟨fun hnone => completes_converted (hact.trans ?_), fun code hcode => hact.trans ?_⟩
  · rw [hnone]
    rfl
  · rw [hcode]

/-- VUNPACK of a legal block: what the core's registers become, elements 16 to 31 after elements 0 to 15. -/
theorem vunpack_cases (hready : ready s r { g := [w.rs], v := [w.va.toNat], wv := [w.vd.toNat, w.vb.toNat] } = true) :
    let fmt := w.mod.toNat % 16
    let blk := ((s.core r).rg w.rs).toNat % 64
    let x := ((s.core r).rv w.va.toNat).toNat
    let scale := x / 2 ^ 256 % 256
    let out (i : Nat) := toF32Sat (elemVal fmt scale (blockElem fmt x i))
    let sum (f : Events → Nat) := ((List.range 32).map fun i => f (out i).2).sum
    let bad := ((List.range 32).filter fun i => elemInvalid scale (blockElem fmt x i)).length
    (packFault fmt blk = none → exec (.vunpack r w) s = .next ((s.countConv r.cove (sum Events.sat) 0 0 (sum Events.dnorm) bad).retireNext r fun k =>
        (k.wv w.vd.toNat (rowOfWords ((List.range 16).map fun i => (out i).1))).wv w.vb.toNat (rowOfWords ((List.range 16).map fun i => (out (16 + i)).1))))
    ∧ ∀ code, packFault fmt blk = some code → exec (.vunpack r w) s = .next (s.exception r code) := by
  intro fmt blk x scale out sum bad
  have hact := (exec_vunpack r w s).trans (issue_ready hready)
  dsimp only at hact
  refine ⟨fun hnone => hact.trans ?_, fun code hcode => hact.trans ?_⟩
  · have houts : ((List.range 32).map (blockElem fmt x)).map (fun e => toF32Sat (elemVal fmt scale e)) = (List.range 32).map out := List.map_map
    have hbad : (((List.range 32).map (blockElem fmt x)).filter (elemInvalid scale)).length = bad := by
      rw [List.filter_map, List.length_map]
      rfl
    have hsum (f : Events → Nat) (hadd : ∀ a b, f (a.add b) = f a + f b) (hzero : f {} = 0) :
        f (((List.range 32).map out).foldl (fun e r => e.add r.2) {}) = sum f := by
      rw [foldl_events_total _ _ _ _ hadd, hzero, Nat.zero_add, List.map_map]
      rfl
    have hlow : (((List.range 32).map out).map Prod.fst).take 16 = (List.range 16).map fun i => (out i).1 := by
      rw [List.map_map, ← List.map_take, List.take_range]
      rfl
    have hrange : List.range 32 = List.range 16 ++ (List.range 16).map (16 + ·) := by decide
    have hhigh : (((List.range 32).map out).map Prod.fst).drop 16 = (List.range 16).map fun i => (out (16 + i)).1 := by
      rw [List.map_map, hrange, List.map_append,
        List.drop_left' (by simp), List.map_map]
      rfl
    rw [hnone, ← hlow, ← hhigh, ← hbad, ← hsum Events.sat (fun _ _ => rfl) rfl, ← hsum Events.dnorm (fun _ _ => rfl) rfl, ← houts]
    rfl
  · rw [hcode]

end

theorem PCore.rv_finish (k : PCore) (cyc next j : Nat) : (k.finish cyc next).rv j = k.rv j := rfl

theorem PCore.Data.wv_wv (k : PCore) (a b : Nat) (x y : Row) : PCore.Data k ((k.wv a x).wv b y) := rfl

/-- v[vd] and then v[vb] become the lanes 0 to 15 and 16 to 31 of `v`; nothing else of the core's data changes. -/
def UnpacksTo (vd vb : BitVec 3) (v : Nat → Word) (k k' : PCore) : Prop :=
  KeepsG k k' ∧ KeepsD k k' ∧ (vd ≠ vb → ∀ i, i < 16 → lane (k'.rv vd.toNat) i = v i) ∧ (∀ i, i < 16 → lane (k'.rv vb.toNat) i = v (16 + i))
    ∧ ∀ j, j ≠ vd.toNat → j ≠ vb.toNat → k'.rv j = k.rv j

theorem unpacksTo_finish (k : PCore) {vd vb : BitVec 3} {v : Nat → Word} {x y : Row} (hx : ∀ i, i < 16 → lane x i = v i)
    (hy : ∀ i, i < 16 → lane y i = v (16 + i)) (cyc next : Nat) :
    UnpacksTo vd vb v k (PCore.finish ((k.wv vd.toNat x).wv vb.toNat y) cyc next) := by
  have hread (j : Nat) : PCore.rv (PCore.finish ((k.wv vd.toNat x).wv vb.toNat y) cyc next) j =
      if j = vb.toNat then y else if j = vd.toNat then x else k.rv j := by
    rw [PCore.rv_finish, PCore.rv_wv, PCore.rv_wv]
  refine ⟨⟨rfl, rfl⟩, ⟨rfl, rfl⟩, fun hne i hi => ?_, fun i hi => ?_, fun j hvd hvb => ?_⟩
  · rw [hread, if_neg fun h => hne (BitVec.eq_of_toNat_eq h), if_pos rfl, hx i hi]
  · rw [hread, if_pos rfl, hy i hi]
  · rw [hread, if_neg hvb, if_neg hvd]

/-- Settles O11: the lanes of each conversion, and for a block the cases of its faults. -/
theorem vectorConversionsComplete : Obligations.VectorConversionsComplete := by
  unfold Obligations.VectorConversionsComplete
  intro s r w k a b ab fmt counts
  refine ⟨?_, fun hvb hrs hlo hhi hready => ⟨(vf2i_cases hvb hrs hhi hready).2 hlo, (vi2f_cases hvb hrs hhi hready).2 hlo⟩,
    fun hrs hlo hhi hready => (vf2bf_cases hrs hhi hready).2 hlo,
    fun hvb hrs hlt hready => ⟨(vf2i_cases hvb hrs (by omega) hready).1 hlt, (vi2f_cases hvb hrs (by omega) hready).1 hlt⟩,
    fun hrs hlt hready => (vf2bf_cases hrs (by omega) hready).1 hlt, fun hready => ?_, fun hready => ?_⟩
  · simp only [List.forall_mem_cons, List.not_mem_nil, false_imp_iff, implies_true, and_true]
    exact ⟨vwiden_completes (lo := 0) (by decide) (exec_vbf2fLo r w s), vwiden_completes (lo := 16) (by decide) (exec_vbf2fHi r w s)⟩
  · obtain ⟨hdone, hfault⟩ := vpack_cases hready
    exact ⟨fun hf hblk => hdone (packFault_none hf hblk), packFault_cases hfault⟩
  · obtain ⟨hdone, hfault⟩ := vunpack_cases hready
    obtain ⟨hformat, hzero, hsize⟩ := packFault_cases hfault
    refine ⟨hformat, hzero, hsize, fun hf hblk => ?_⟩
    intro scale out v sum bad
    exact completes_retireNext (P := UnpacksTo w.vd w.vb v) (hdone (packFault_none hf hblk)) (s.countConv_core _ _ _ _ _ _ _) rfl (.wv_wv _ _ _ _ _)
      (unpacksTo_finish _ (fun _ hi => lane_rowOfWords v hi) (fun _ hi => lane_rowOfWords _ hi) _ _)

end Sys2Proof.Machine
end

section
/-!
SUPPORT. BISSUE, BWAIT, BCNT, DWAIT and DQ (R116 to R118, R240): what an instruction waits for again, and the branches of each.
-/
namespace Sys2Proof.Machine

/-! An instruction that waits is taken again by what it waits for. -/

theorem sameFence_eq : sameFence = fun x => x == .fence := by funext x; cases x <;> rfl
theorem sameIssue_eq : sameIssue = fun x => x == .fence := by funext x; cases x <;> rfl
theorem sameBwait_eq (n : BitVec 16) : sameBwait n = fun x => x == .bwait n := by
  funext x
  cases x
  case bwait m => simp [sameBwait, beq_eq_decide]
  all_goals rfl
theorem sameDwait_eq (n : BitVec 16) : sameDwait n = fun x => x == .dwait n := by
  funext x
  cases x
  case dwait m => simp [sameDwait, beq_eq_decide]
  all_goals rfl
theorem sameSp_eq (w : HFields) : sameSp w = fun x => x == .spLimit w := by
  funext x
  cases x
  case spLimit m => simp [sameSp, beq_eq_decide]
  all_goals rfl
theorem sameSend_eq (p : Fin 3) : sameSend p = fun x => x == .sendFull p := by
  funext x
  cases x
  case sendFull m => simp [sameSend, beq_eq_decide]
  all_goals rfl
theorem sameRecv_eq (p : Fin 3) (rd : BitVec 5) : sameRecv p rd = fun x => x == .recvEmpty p rd := by
  funext x
  cases x
  case recvEmpty q e => simp [sameRecv, beq_eq_decide]
  all_goals rfl

theorem issue_legal {s : State} {r : CoreRef} {again again' : CoreWait → Bool} {illegal : Bool} {u : Uses} {act : State → State}
    (hagain : again = again') (hlegal : illegal = false) (hready : readyAgain s r again' u = true) :
    issue s r again illegal u act = .next (act s) := by
  rw [hagain, hlegal, issue_ready hready]

theorem storesOut_eq_zero {s : State} {r : CoreRef} :
    storesOut s r = 0 ↔ ((s.cove r.cove).sp.reqs.filter fun q => q.core == r.core.val && q.write) = [] := List.length_eq_zero_iff

section
variable {s : State} {r : CoreRef} {w : RxFields} (hres : w.res = 0) (hfn : w.fn = 0) (hrb : w.rb = 0)
include hres hfn hrb

/-- Of the R-format words of OP 0x28 to 0x32 one is legal where the fields that it does not use are 0 (Table 5.5). -/
theorem rxUnused_false {rd ra : Bool} (hrd : rd = true → w.rd = 0) (hra : ra = true → w.ra = 0) : rxUnused w rd ra true = false := by
  cases rd <;> cases ra <;> simp_all [rxUnused]

theorem rxUnused_vreg (hvreg : w.ra.toNat < 8) : (rxUnused w false false true || !vreg w.ra) = false := by
  rw [rxUnused_false hres hfn hrb (by simp) (by simp), vreg_legal hvreg]
  rfl

section
variable (hvreg : w.ra.toNat < 8)
include hvreg

theorem exec_bissue_ready (hready : readyAgain s r (fun x => x == .fence) { v := [w.ra.toNat], wg := [w.rd] } = true) :
    exec (.bissue r w) s = .next (if storesOut s r ≠ 0 then s.stall r .fence
      else s.stall r (.breaker (((s.core r).rv w.ra.toNat).setWidth 256) w.rd)) :=
  (exec_bissue r w s).trans (issue_legal sameIssue_eq (rxUnused_vreg hres hfn hrb hvreg) hready)

end

section
variable (hrd : w.rd = 0)
include hrd

theorem exec_bwait_ready (hready : readyAgain s r (fun x => x == .bwait (((s.core r).rg w.ra).setWidth 16)) { g := [w.ra] } = true) :
    exec (.bwait r w) s = .next (if reached (s.cove r.cove).brk.done (((s.core r).rg w.ra).setWidth 16) then s.retireNext r id
      else s.stall r (.bwait (((s.core r).rg w.ra).setWidth 16))) :=
  (exec_bwait r w s).trans (issue_legal (sameBwait_eq _) (rxUnused_false hres hfn hrb (fun _ => hrd) (by simp)) hready)

section
variable (hready : readyAgain s r (fun x => x == .dwait (((s.core r).rg w.ra).setWidth 16)) { g := [w.ra] } = true)
include hready

theorem exec_dwait_fault {code : Code} (hfault : (s.cove r.cove).net.faults.find r.core = some code) :
    exec (.dwait r w) s = .next (s.takeDmaFault r code) := by
  refine (exec_dwait r w s).trans ((issue_legal (sameDwait_eq _) (rxUnused_false hres hfn hrb (fun _ => hrd) (by simp)) hready).trans ?_)
  dsimp only
  rw [hfault]

theorem exec_dwait_none (hfault : (s.cove r.cove).net.faults.find r.core = none) :
    exec (.dwait r w) s = .next (if reached (s.cove r.cove).net.dmaDone (((s.core r).rg w.ra).setWidth 16) then s.retireNext r id
      else s.stall r (.dwait (((s.core r).rg w.ra).setWidth 16))) := by
  refine (exec_dwait r w s).trans ((issue_legal (sameDwait_eq _) (rxUnused_false hres hfn hrb (fun _ => hrd) (by simp)) hready).trans ?_)
  dsimp only
  rw [hfault]

end
end

theorem exec_bcnt_ready (hra : w.ra = 0) (hready : ready s r { wg := [w.rd] } = true) :
    Completes (.bcnt r w) s r ((s.core r).pc + 4) (WritesG w.rd (((s.cove r.cove).brk.counts.get 0 r.core).setWidth 32)) :=
  completes_retireNext_wg ((exec_bcnt r w s).trans (issue_legal rfl (rxUnused_false hres hfn hrb (by simp) (fun _ => hra)) hready)) rfl rfl

end

/-! DQ (R118, R240). -/

/-- The transfer that DQ queues, of the step attempt that runs on the cove. -/
def State.newDma (s : State) (r : CoreRef) (raw : BitVec 256) (done : Bool) : Dma :=
  { desc := raw, seq := (s.cove r.cove).net.dmaSeq + 1, core := r.core, step := (s.stepsAt r.cove).2
    attempt := ((s.stepsAt r.cove).1.newest.map StepRec.attempt).getD 0, done := done }

/-- The check of a descriptor at a core's DQ, in the state as it stands. -/
def State.dqCheck (s : State) (r : CoreRef) (raw : BitVec 256) : Code :=
  dmaCheck (s.cove r.cove).sp (s.bay ((s.bayOf r.cove).getD 0)) (s.stepsAt r.cove).2 (dmaDesc raw)

section
variable {s : State} {r : CoreRef} {w : RxFields} {raw : BitVec 256} (hres : w.res = 0) (hfn : w.fn = 0) (hrb : w.rb = 0)
  (hvreg : w.ra.toNat < 8) (hready : readyAgain s r sameDq { v := [w.ra.toNat], wg := [w.rd] } = true)
include hres hfn hrb hvreg hready

theorem exec_dq_fault {code : Code} (hfault : (s.cove r.cove).net.faults.find r.core = some code) :
    exec (.dq r w) s = .next (s.takeDmaFault r code) := by
  refine (exec_dq r w s).trans ((issue_legal rfl (rxUnused_vreg hres hfn hrb hvreg) hready).trans ?_)
  dsimp only
  rw [hfault]

section
variable (hfault : (s.cove r.cove).net.faults.find r.core = none)
include hfault

theorem exec_dq_stores (hstores : storesOut s r ≠ 0) : exec (.dq r w) s = .next (s.stall r .fence) := by
  refine (exec_dq r w s).trans ((issue_legal rfl (rxUnused_vreg hres hfn hrb hvreg) hready).trans ?_)
  dsimp only
  rw [hfault]
  dsimp only
  rw [if_pos hstores]

section
variable (hraw : ((s.core r).rv w.ra.toNat).setWidth 256 = raw)
include hraw

theorem exec_dq_full (hstores : storesOut s r = 0) (hfull : 16 ≤ ((s.cove r.cove).net.dma.filter fun x => !x.started).length) :
    exec (.dq r w) s = .next (s.stall r (.dmaQueue raw w.rd)) := by
  refine (exec_dq r w s).trans ((issue_legal rfl (rxUnused_vreg hres hfn hrb hvreg) hready).trans ?_)
  dsimp only
  rw [hfault]
  dsimp only
  rw [if_neg (not_not.mpr hstores), if_pos hfull, hraw]

section
variable (hstores : storesOut s r = 0) (hroom : ((s.cove r.cove).net.dma.filter fun x => !x.started).length < 16)
include hstores hroom

theorem exec_dq_queues {done : Bool} (hgood : s.dqCheck r raw = 0)
    (hdone : decide ((dmaDesc raw).op = 0 ∨ ((dmaDesc raw).op = 1 ∧ (dmaDesc raw).length = 0)) = done) :
    exec (.dq r w) s = .next ((s.modCove r.cove fun v => v.modNet fun n =>
      let n1 := { n with dma := n.dma ++ [s.newDma r raw done], dmaSeq := (s.cove r.cove).net.dmaSeq + 1 }
      if done then retireHead n1 s.cnCycles else n1).retireNext r fun k => k.wg w.rd (((s.cove r.cove).net.dmaSeq + 1).setWidth 32)) := by
  refine (exec_dq r w s).trans ((issue_legal rfl (rxUnused_vreg hres hfn hrb hvreg) hready).trans ?_)
  dsimp only
  rw [hfault]
  dsimp only
  rw [if_neg (not_not.mpr hstores), if_neg (Nat.not_le.mpr hroom), hraw, show dmaCheck _ _ _ (dmaDesc raw) = 0 from hgood, hdone]
  rfl

theorem exec_dq_rejects (hbad : s.dqCheck r raw ≠ 0) :
    exec (.dq r w) s = .next
      (((s.modCove r.cove fun v => v.modNet fun n => n.noteDma (s.dqCheck r raw) r.core).modCove r.cove fun v => v.modSp fun q =>
        onlyIf ((s.dqCheck r raw).toNat / 4096 == 5) (fun q => q.noteFault (s.dqCheck r raw) ((dmaDesc raw).faultHandle (s.cove r.cove).sp
          (s.bay ((s.bayOf r.cove).getD 0)) (s.stepsAt r.cove).2) 0 2) q).exception r (s.dqCheck r raw)) := by
  refine (exec_dq r w s).trans ((issue_legal rfl (rxUnused_vreg hres hfn hrb hvreg) hready).trans ?_)
  dsimp only
  rw [hfault]
  dsimp only
  rw [if_neg (not_not.mpr hstores), if_neg (Nat.not_le.mpr hroom), hraw]
  split
  · next h => exact absurd h hbad
  · rfl

end
end
end
end

section
variable {s : State} {r : CoreRef}

/-- A change of the cove's DMA engine alone. -/
theorem completes_net {c : Instr} {f : Net → Net} {rd : BitVec 5} {x : Word}
    (h : exec c s = .next ((s.modCove r.cove fun v => v.modNet f).retireNext r fun k => k.wg rd x)) :
    CompletesFrom c s (s.modCove r.cove fun v => { v with net := f v.net }) r ((s.core r).pc + 4) (WritesG rd x) :=
  completes_retireNext_wg h (State.core_modCove rfl r) rfl

/-- What a descriptor that fails its check leaves in the cove before the exception is taken. -/
theorem dqReject_frame {code : Code} (hcode : code ≠ 0) (f : Scratchpad → Scratchpad) :
    let t := (s.modCove r.cove fun v => v.modNet fun n => n.noteDma code r.core).modCove r.cove fun v => v.modSp f
    CoveOnly r.cove s t ∧ (∀ j, t.core j = s.core j) ∧ (t.cove r.cove).net = (s.cove r.cove).net.noteDma code r.core := by
  intro t
  have hlisted : (s.modCove r.cove fun v => v.modNet fun n => n.noteDma code r.core).cove r.cove ≠ {} := fun h => hcode (by
    rw [State.modCove_cove] at h
    exact congrArg (fun v : Cove => v.net.errCode) h)
  refine ⟨(CoveOnly.modCove _ _ _).step hlisted _, fun j => ?_, ?_⟩
  · exact (State.core_modCove rfl j).trans (State.core_modCove rfl j)
  · simp only [t, State.modCove_cove, Cove.modSp_net, Cove.modNet_net]

end

/-- Settles O12: each instruction by the branch that its hypotheses pick. -/
theorem breakerAndDmaInstructionsComplete : Obligations.BreakerAndDmaInstructionsComplete := by
  unfold Obligations.BreakerAndDmaInstructionsComplete
  intro s r w hres hfn hrb k c n stores raw past
  have hreached (p : BitVec 16) : reached p n = true ↔ past p := decide_eq_true_iff
  refine ⟨fun hvreg hready hstores => ?_, fun hvreg hready hstores => ?_, fun hrd hready => ⟨fun hpast => ?_, fun hnot => ?_⟩, 
    exec_bcnt_ready hres hfn hrb, fun hrd hready => ⟨fun hnone => ⟨fun hpast => ?_, fun hnot => ?_⟩, fun code hcode => ?_⟩,
    fun hvreg hready hnone hstores hroom hgood hop hlen => ?_, fun hvreg hready hnone hstores hroom hgood hop => ?_,
    fun hvreg hready => ⟨fun code hcode => exec_dq_fault hres hfn hrb hvreg hready hcode, fun hnone hstores => ?_, fun hnone hstores hfull => ?_, ?_⟩⟩
  · rw [exec_bissue_ready hres hfn hrb hvreg hready, if_neg (not_not.mpr (storesOut_eq_zero.mpr hstores))]
    rfl
  · rw [exec_bissue_ready hres hfn hrb hvreg hready, if_pos (mt storesOut_eq_zero.mp hstores)]
  · refine completes_retireNext_id ?_ rfl rfl
    rw [exec_bwait_ready hres hfn hrb hrd hready, if_pos ((hreached _).mpr hpast)]
  · rw [exec_bwait_ready hres hfn hrb hrd hready, if_neg fun h => hnot ((hreached _).mp h)]
  · refine completes_retireNext_id ?_ rfl rfl
    rw [exec_dwait_none hres hfn hrb hrd hready hnone, if_pos ((hreached _).mpr hpast)]
  · rw [exec_dwait_none hres hfn hrb hrd hready hnone, if_neg fun h => hnot ((hreached _).mp h)]
  · exact exec_dwait_fault hres hfn hrb hrd hready hcode
  · have hdone : decide ((dmaDesc raw).op = 0 ∨ ((dmaDesc raw).op = 1 ∧ (dmaDesc raw).length = 0)) = false :=
      decide_eq_false fun h => h.elim hop fun h => absurd h.2 (hlen h.1).ne'
    have hqueued := completes_net (exec_dq_queues hres hfn hrb hvreg hready hnone rfl (storesOut_eq_zero.mpr hstores) hroom hgood hdone)
    exact hqueued
  · have hqueued := completes_net
      (exec_dq_queues hres hfn hrb hvreg hready hnone rfl (storesOut_eq_zero.mpr hstores) hroom hgood (decide_eq_true hop))
    exact hqueued
  · exact exec_dq_stores hres hfn hrb hvreg hready hnone (mt storesOut_eq_zero.mp hstores)
  · exact exec_dq_full hres hfn hrb hvreg hready hnone rfl (storesOut_eq_zero.mpr hstores) hfull
  · intro code hnone hstores hroom hcode
    exact ⟨_, exec_dq_rejects hres hfn hrb hvreg hready hnone rfl (storesOut_eq_zero.mpr hstores) hroom hcode, dqReject_frame hcode _⟩

end Sys2Proof.Machine
end

section
/-!
SUPPORT. The latches of the tide switch and TBAR (R119, R121, R202): what a send, a receive and a barrier leave.
-/
namespace Sys2Proof.Machine

theorem State.modCore_congr {s : State} {r : CoreRef} {f g : PCore → PCore} (h : f (s.core r) = g (s.core r)) : s.modCore r f = s.modCore r g :=
  State.modCove_congr (congrArg (fun x => { s.cove r.cove with cores := (s.cove r.cove).cores.set {} r.core x }) h)

theorem Cove.modLatch_congr {v : Cove} {k p : Nat} {f g : Latches → Latches} (h : f (v.latch k p) = g (v.latch k p)) :
    v.modLatch k p f = v.modLatch k p g :=
  congrArg (fun x => { v with latches := v.latches.set {} (k * 3 + p) x }) h

/-- A core that can take an instruction which never waits runs. -/
theorem state_of_ready {s : State} {r : CoreRef} {u : Uses} (h : ready s r u = true) : (s.core r).state = 1 := by
  simp only [ready, readyAgain, Bool.and_eq_true, PCore.takes, never, Bool.or_eq_true, beq_iff_eq] at h
  obtain ⟨⟨⟨⟨hstate, -⟩, -⟩, -⟩, -⟩ := h
  refine hstate.resolve_right fun ⟨_, hwait⟩ => ?_
  split at hwait <;> exact absurd hwait (by decide)

/-- A core that runs begins to wait now. -/
theorem State.stall_running {s : State} {r : CoreRef} (h : (s.core r).state = 1) (x : CoreWait) :
    s.stall r x = s.modCore r fun k => { k with state := 3, wait := some x, stalledAt := s.cycles r.cove } :=
  State.modCore_congr (by rw [h]; rfl)

section
variable {s : State} {r : CoreRef} {p : Fin 3}

theorem sendLatch_stall {x : Row}
    (h : (s.cove r.cove).tide.stopped (s.cycles r.cove) = true ∨ 2 ≤ ((s.cove r.cove).latch r.core p).send.length) :
    sendLatch s r p x = s.stall r (.sendFull p) := if_pos h

theorem sendLatch_put {x : Row} (hruns : (s.cove r.cove).tide.stopped (s.cycles r.cove) = false)
    (hroom : ((s.cove r.cove).latch r.core p).send.length < 2) :
    sendLatch s r p x = (s.modCove r.cove fun c => c.modLatch r.core p fun l =>
      { l with send := l.send ++ [(x, s.cycles r.cove, true)] }).retireNext r id :=
  if_neg (by rw [hruns]; exact not_or.mpr ⟨nofun, Nat.not_le.mpr hroom⟩)

/-- A send instruction of legal encoding. -/
theorem send_cases {c : Instr} {x : Row} (hexec : exec c s = .next (sendLatch s r p x)) :
    ((s.cove r.cove).tide.stopped (s.cycles r.cove) = false ∧ ((s.cove r.cove).latch r.core p).send.length < 2 →
      CompletesFrom c s (s.modCove r.cove fun c => c.modLatch r.core p fun l => { l with send := l.send ++ [(x, s.cycles r.cove, true)] })
        r ((s.core r).pc + 4) WritesNone)
    ∧ ((s.cove r.cove).tide.stopped (s.cycles r.cove) = true ∨ 2 ≤ ((s.cove r.cove).latch r.core p).send.length →
      exec c s = .next (s.stall r (.sendFull p))) := by
  refine ⟨fun ⟨hruns, hroom⟩ => completes_retireNext_id ?_ (State.core_modCove rfl r) rfl, fun h => ?_⟩
  · rw [hexec, sendLatch_put hruns hroom]
  · rw [hexec, sendLatch_stall h]

variable {rd : BitVec 5} {f : PCore → Row → PCore} {bad : PCore → PCore}

theorem recvLatch_stall (h : ((s.cove r.cove).latch r.core p).recv = [] ∨ (s.cove r.cove).tide.stopped (s.cycles r.cove) = true
      ∨ (∃ x t ok rest, ((s.cove r.cove).latch r.core p).recv = (x, t, ok) :: rest ∧ s.cycles r.cove ≤ t)) :
    recvLatch s r p rd f bad = s.stall r (.recvEmpty p rd) := by
  unfold recvLatch
  extract_lets c
  split
  · rfl
  · next x t ok rest hrecv =>
    refine if_pos ?_
    rcases h with h | h | ⟨x', t', ok', rest', hrecv', hlate⟩
    · exact absurd (hrecv.symm.trans h) (List.cons_ne_nil _ _)
    · exact .inl h
    · obtain ⟨⟨rfl, rfl, rfl⟩, rfl⟩ : (x = x' ∧ t = t' ∧ ok = ok') ∧ rest = rest' := by simpa using hrecv.symm.trans hrecv'
      exact .inr hlate

theorem recvLatch_take {x : Row} {t : Nat} {ok : Bool} {rest : List (Row × Nat × Bool)}
    (hruns : (s.cove r.cove).tide.stopped (s.cycles r.cove) = false) (hrecv : ((s.cove r.cove).latch r.core p).recv = (x, t, ok) :: rest)
    (ht : t < s.cycles r.cove) :
    recvLatch s r p rd f bad = (s.modCove r.cove fun c => c.modLatch r.core p fun l => { l with recv := l.recv.drop 1 }).retireNext r
      fun k => if ok then f k x else bad (f k x) := by
  have htake : (s.modCove r.cove fun c => c.modLatch r.core p fun l => { l with recv := rest }) =
      s.modCove r.cove fun c => c.modLatch r.core p fun l => { l with recv := l.recv.drop 1 } :=
    State.modCove_congr (Cove.modLatch_congr (by rw [hrecv]; rfl))
  unfold recvLatch
  dsimp only
  rw [hrecv]
  dsimp only
  rw [if_neg (by rw [hruns]; exact not_or.mpr ⟨nofun, Nat.not_le.mpr ht⟩), htake]

end

/-! A word whose parity fails makes that of the register fail. -/

theorem PCore.rg_badG (k : PCore) (rd j : BitVec 5) : (k.badG rd).rg j = k.rg j := by unfold PCore.badG; split <;> rfl
theorem PCore.v_badG (k : PCore) (rd : BitVec 5) : (k.badG rd).v = k.v := by unfold PCore.badG; split <;> rfl
theorem PCore.vBad_badG (k : PCore) (rd : BitVec 5) : (k.badG rd).vBad = k.vBad := by unfold PCore.badG; split <;> rfl
theorem PCore.dmem_badG (k : PCore) (rd : BitVec 5) : (k.badG rd).dmem = k.dmem := by unfold PCore.badG; split <;> rfl
theorem PCore.dmemBad_badG (k : PCore) (rd : BitVec 5) : (k.badG rd).dmemBad = k.dmemBad := by unfold PCore.badG; split <;> rfl
theorem PCore.gBad_badG (k : PCore) {rd : BitVec 5} (h : rd ≠ 0) : (k.badG rd).gBad = rd.toNat :: k.gBad := by rw [PCore.badG, if_neg h]

theorem PCore.Data.badG {k k' : PCore} (h : PCore.Data k k') (rd : BitVec 5) : PCore.Data k (k'.badG rd) := by
  unfold PCore.badG
  split
  · exact h
  · exact congrArg (fun q : PCore => { q with gBad := rd.toNat :: k'.gBad }) h

theorem PCore.Data.wv_badV (k : PCore) (vd : Nat) (x : Row) : PCore.Data k ((k.wv vd x).badV vd) := rfl

/-- g[rd] becomes `x` with bad parity, unless rd is 0; every other register and local data memory as before. -/
def SpoilsG (rd : BitVec 5) (x : Word) (k k' : PCore) : Prop :=
  (∀ j : BitVec 5, k'.rg j = if j = rd ∧ j ≠ 0 then x else k.rg j) ∧ (rd ≠ 0 → k'.gBad.contains rd.toNat = true) ∧ KeepsV k k' ∧ KeepsD k k'

theorem spoilsG_finish (k : PCore) (rd : BitVec 5) (x : Word) (cyc next : Nat) : SpoilsG rd x k (((k.wg rd x).badG rd).finish cyc next) :=
  ⟨fun j => (PCore.rg_badG _ _ _).trans (PCore.rg_wg _ _ _ _),
    fun h => (congrArg (List.contains · rd.toNat) (PCore.gBad_badG _ h)).trans (by simp),
    ⟨(PCore.v_badG _ _).trans (PCore.v_wg _ _ _), (PCore.vBad_badG _ _).trans (PCore.vBad_wg _ _ _)⟩,
    ⟨(PCore.dmem_badG _ _).trans (PCore.dmem_wg _ _ _), (PCore.dmemBad_badG _ _).trans (PCore.dmemBad_wg _ _ _)⟩⟩

/-- v[vd] becomes `x` with bad parity; every other register and local data memory as before. -/
def SpoilsV (vd : Nat) (x : Row) (k k' : PCore) : Prop :=
  (∀ j : Nat, k'.rv j = if j = vd then x else k.rv j) ∧ k'.vBad.contains vd = true ∧ KeepsG k k' ∧ KeepsD k k'

theorem spoilsV_finish (k : PCore) (vd : Nat) (x : Row) (cyc next : Nat) : SpoilsV vd x k (((k.wv vd x).badV vd).finish cyc next) :=
  ⟨PCore.rv_wv k vd x, by simp [PCore.finish, PCore.settle, PCore.badV], ⟨rfl, rfl⟩, ⟨rfl, rfl⟩⟩

section
variable {c : Instr} {s : State} {r : CoreRef} {p : Fin 3} {rd : BitVec 5} {x : Row} {t : Nat} {ok : Bool} {rest : List (Row × Nat × Bool)}
  (hruns : (s.cove r.cove).tide.stopped (s.cycles r.cove) = false) (hrecv : ((s.cove r.cove).latch r.core p).recv = (x, t, ok) :: rest)
  (ht : t < s.cycles r.cove)
include hruns hrecv ht

/-- A receive of the oldest word, placed in an earlier cycle: with good parity it completes as `P` says, with bad parity as `Q` says. -/
theorem recv_cases {f : PCore → Row → PCore} {bad : PCore → PCore} {P Q : PCore → PCore → Prop}
    (hexec : exec c s = .next (recvLatch s r p rd f bad)) (hf : PCore.Data (s.core r) (f (s.core r) x))
    (hbad : PCore.Data (s.core r) (bad (f (s.core r) x))) (hP : ∀ cyc next, P (s.core r) ((f (s.core r) x).finish cyc next))
    (hQ : ∀ cyc next, Q (s.core r) ((bad (f (s.core r) x)).finish cyc next)) :
    let taken := s.modCove r.cove fun c => c.modLatch r.core p fun l => { l with recv := l.recv.drop 1 }
    (ok = true → CompletesFrom c s taken r ((s.core r).pc + 4) P) ∧ (ok = false → CompletesFrom c s taken r ((s.core r).pc + 4) Q) := by
  rw [recvLatch_take hruns hrecv ht] at hexec
  constructor
  · rintro rfl
    exact completes_retireNext hexec (State.core_modCove rfl r) rfl hf (hP _ _)
  · rintro rfl
    exact completes_retireNext hexec (State.core_modCove rfl r) rfl hbad (hQ _ _)

end

/-- Settles O13: by `send_cases`, `recv_cases` and what makes either wait. -/
theorem tideLatchInstructionsComplete : Obligations.TideLatchInstructionsComplete := by
  unfold Obligations.TideLatchInstructionsComplete
  intro s r w hres hrb k c put take
  refine ⟨fun hfn hrd => ?_, fun hfn hra hruns => ⟨?_, fun hvreg hready x t ok rest hrecv ht => ?_⟩, fun hfn hra => ?_, fun hrd hra hfn hready => ?_⟩
  · have hunused : rxUnused w true false true = false := rxUnused_false hres hfn hrb (fun _ => hrd) (by simp)
    simp only [List.forall_mem_cons, List.not_mem_nil, false_imp_iff, implies_true, and_true]
    refine ⟨fun _ hready => ?_, fun hvreg hready => ?_, fun _ hready => ?_⟩
    · exact send_cases ((exec_tss r w s).trans (issue_legal (sameSend_eq _) hunused hready))
    · exact send_cases ((exec_tsv r w s).trans (issue_legal (sameSend_eq _) (by rw [hunused, vreg_legal (hvreg trivial)]; rfl) hready))
    · exact send_cases ((exec_ttok r w s).trans (issue_legal (sameSend_eq _) hunused hready))
  · have hunused : rxUnused w false true true = false := rxUnused_false hres hfn hrb (by simp) (fun _ => hra)
    simp only [List.forall_mem_cons, List.not_mem_nil, false_imp_iff, implies_true, and_true]
    refine ⟨fun hready x t ok rest hrecv ht => ?_, fun hready x t ok rest hrecv ht => ?_⟩
    · have hexec : exec (.trs r w) s = .next (recvLatch s r 0 w.rd (fun k x => k.wg w.rd (x.setWidth 32)) fun k => k.badG w.rd) :=
        (exec_trs r w s).trans (issue_legal (sameRecv_eq _ _) hunused hready)
      exact recv_cases hruns hrecv ht (P := WritesG w.rd (x.setWidth 32)) (Q := SpoilsG w.rd (x.setWidth 32)) hexec
        (.wg _ _ _) ((PCore.Data.wg _ _ _).badG _) (fun _ _ => PCore.writesG_wg _ _ _ _ _) (fun _ _ => spoilsG_finish _ _ _ _ _)
    · have hexec : exec (.trtok r w) s = .next (recvLatch s r 2 w.rd (fun k x => k.wg w.rd ((x.setWidth 8).setWidth 32)) fun k => k.badG w.rd) :=
        (exec_trtok r w s).trans (issue_legal (sameRecv_eq _ _) hunused hready)
      exact recv_cases hruns hrecv ht (P := WritesG w.rd ((x.setWidth 8).setWidth 32)) (Q := SpoilsG w.rd ((x.setWidth 8).setWidth 32)) hexec
        (.wg _ _ _) ((PCore.Data.wg _ _ _).badG _) (fun _ _ => PCore.writesG_wg _ _ _ _ _) (fun _ _ => spoilsG_finish _ _ _ _ _)
  · have hunused : (rxUnused w false true true || !vreg w.rd) = false := by
      rw [rxUnused_false hres hfn hrb (by simp) (fun _ => hra), vreg_legal hvreg]
      rfl
    have hexec : exec (.trv r w) s = .next (recvLatch s r 1 w.rd (fun k x => k.wv w.rd.toNat x) fun k => k.badV w.rd.toNat) :=
      (exec_trv r w s).trans (issue_legal (sameRecv_eq _ _) hunused hready)
    exact recv_cases (p := 1) hruns hrecv ht (P := WritesV w.rd.toNat x) (Q := SpoilsV w.rd.toNat x) hexec
      (.wv _ _ _) (.wv_badV _ _ _) (fun _ _ => PCore.writesV_wv _ _ _ _ _) (fun _ _ => spoilsV_finish _ _ _ _ _)
  · have hunused : rxUnused w false true true = false := rxUnused_false hres hfn hrb (by simp) (fun _ => hra)
    simp only [List.forall_mem_cons, List.not_mem_nil, false_imp_iff, implies_true, and_true]
    refine ⟨fun _ hready hwaits => ?_, fun hvreg hready hwaits => ?_, fun _ hready hwaits => ?_⟩
    · exact ((exec_trs r w s).trans (issue_legal (sameRecv_eq _ _) hunused hready)).trans (congrArg _ (recvLatch_stall hwaits))
    · exact ((exec_trv r w s).trans (issue_legal (sameRecv_eq _ _) (by rw [hunused, vreg_legal (hvreg trivial)]; rfl) hready)).trans
        (congrArg _ (recvLatch_stall hwaits))
    · exact ((exec_trtok r w s).trans (issue_legal (sameRecv_eq _ _) hunused hready)).trans (congrArg _ (recvLatch_stall hwaits))
  · have hlegal : (w.res != 0 || w.rd != 0 || w.ra != 0 || w.rb != 0 || decide (16 ≤ w.fn.toNat)) = false := by
      rw [hres, hrd, hra, hrb, decide_eq_false (Nat.not_le.mpr hfn)]
      rfl
    rw [exec_tbar, execTbar, issue_legal rfl hlegal hready, State.stall_running (state_of_ready hready)]

end Sys2Proof.Machine
end

section
/-!
SUPPORT. NOP, FENCE, SINFO, TRAP and STEPEND (R116, R122, R132), and scratchpad accesses as they are presented (R115, R116, R142).
-/
namespace Sys2Proof.Machine

/-- An instruction past its other checks whose encoding is illegal. -/
theorem issue_illegal {s : State} {r : CoreRef} {again : CoreWait → Bool} {illegal : Bool} {u : Uses} {act : State → State}
    (hillegal : illegal = true) (hready : readyAgain s r again u = true) : issue s r again illegal u act = .next (s.exception r 0x4101) := by
  simp only [readyAgain, Bool.and_eq_true, Bool.not_eq_true'] at hready
  obtain ⟨⟨⟨⟨htakes, himem⟩, hg⟩, hv⟩, hawaits⟩ := hready
  unfold issue issueIn
  simp only [htakes, himem, hg, hv, hawaits, hillegal, Bool.true_or, if_true, Bool.or_self, Bool.false_eq_true, if_false]

section
variable {s : State} {r : CoreRef} {w : RFields}

theorem sinfoValue_eq {sel : Nat} (h : sel < 8) :
    let bay := s.bayOf r.cove
    let run := bay.bind fun b => (s.bay b).st.newest
    let no := (run.map StepRec.no).getD 0
    sinfoValue s r sel = BitVec.ofNat 32 (
      [no % 2 ^ 32, no / 2 ^ 32, (run.map StepRec.attempt).getD 0, r.core.val, (s.logOf r.cove).getD 0, r.cove.val, bay.getD 0,
        s.cycles r.cove - (s.cove r.cove).tide.stepCyc].getD sel 0) := by
  intro bay run no
  match sel, h with
  | 0, _ => exact BitVec.eq_of_toNat_eq (by simp [sinfoValue, bay, run, no])
  | 1, _ | 2, _ | 3, _ | 4, _ | 5, _ | 6, _ | 7, _ => rfl

section
variable (hres : w.res = 0)
include hres

theorem resUnused : (w.res != 0) = false := by rw [hres]; rfl

theorem trap_cases (hready : ready s r {} = true) :
    ((s.core r).ctl.getLsbD 3 = false → Completes (.trap r w) s r ((s.core r).pc + 4) WritesNone)
    ∧ ((s.core r).ctl.getLsbD 3 = true → ∃ t : State,
        exec (.trap r w) s = .next ((if (s.core r).pc + 4 = 0x4000 then t.exception r 0x4102 else t).modCore r fun k =>
          { k with state := if k.state = 5 then 5 else 4 })
        ∧ t = s.modCore r (fun _ => t.core r) ∧ Progress (s.core r) (t.core r) (s.cycles r.cove) ((s.core r).pc + 4)
        ∧ WritesNone (s.core r) (t.core r)) := by
  have hact := (exec_trap r w s).trans (issue_legal rfl (resUnused hres) hready)
  dsimp only at hact
  refine ⟨fun hoff => completes_retireNext_id (hact.trans ?_) rfl rfl, fun hon => ?_⟩
  · rw [hoff, if_neg Bool.false_ne_true]
  · obtain ⟨t, ht, hrest⟩ := State.retire_progress (base := s) (r := r) (f := id) ((s.core r).pc + 4) (.refl _) (PCore.writesNone _ _ _)
    refine ⟨t, ?_, hrest⟩
    rw [hact, hon, if_pos rfl, ← ht]
    rfl

theorem fence_cases (hready : readyAgain s r (fun x => x == .fence) {} = true) :
    (((s.cove r.cove).sp.reqs.filter fun q => q.core == r.core.val && q.write) = [] → Completes (.fence r w) s r ((s.core r).pc + 4) WritesNone)
    ∧ (((s.cove r.cove).sp.reqs.filter fun q => q.core == r.core.val && q.write) ≠ [] → exec (.fence r w) s = .next (s.stall r .fence)) := by
  have hact := (exec_fence r w s).trans (issue_legal sameFence_eq (resUnused hres) hready)
  refine ⟨fun hnone => completes_retireNext_id (hact.trans ?_) rfl rfl, fun hsome => hact.trans ?_⟩
  · rw [if_pos (storesOut_eq_zero.mpr hnone)]
  · rw [if_neg (mt storesOut_eq_zero.mp hsome)]

end
end

/-- Settles O4: each instruction's own lemma; STEPEND waits in STATE 2. -/
theorem controlInstructionsComplete : Obligations.ControlInstructionsComplete := by
  unfold Obligations.ControlInstructionsComplete
  refine ⟨fun s r w hres hready => ?_, fun s r w hres hready => fence_cases hres hready, fun s r w hsel hready => ?_,
    fun s r w hres hsel hready => ?_⟩
  · obtain ⟨hoff, hon⟩ := trap_cases (w := w) hres hready
    exact ⟨completes_retireNext_id ((exec_nopInstruction r w s).trans (issue_legal rfl (resUnused hres) hready)) rfl rfl, hoff, hon,
      (exec_stepend r w s).trans (issue_legal rfl (resUnused hres) hready)⟩
  · exact (exec_sinfo r w s).trans (issue_illegal (by rw [decide_eq_true hsel, Bool.or_true]) hready)
  · intro bay run no
    have hlegal : (w.res != 0 || decide (8 ≤ w.ra.toNat)) = false := by
      rw [resUnused hres, decide_eq_false (Nat.not_le.mpr hsel)]
      rfl
    have hact := (exec_sinfo r w s).trans (issue_legal rfl hlegal hready)
    rw [sinfoValue_eq hsel] at hact
    exact completes_retireNext_wg hact rfl rfl

/-! Scratchpad accesses. -/

section
variable {c : Instr} {s : State} {r : CoreRef} {w : HFields} {size : Nat} {write vec : Bool}

theorem spAccess_cases (hexec : exec c s = .next (spAccess s r w size write vec)) :
    let k := s.core r
    let sp := (s.cove r.cove).sp
    let off := (k.rg w.ra + BitVec.ofNat 32 (w.off8.toNat * size)).toNat
    let outNow := (sp.reqs.filter fun q => q.core == r.core.val && (q.write == write)).length
    let step := s.stepsAt r.cove
    let code := ((sp.handle w.hdl.toNat).check off size (some r.core) (if write then some step else none)).1
    ((if write then 4 else 2) ≤ outNow → exec c s = .next (s.stall r (.spLimit w)))
    ∧ (outNow < (if write then 4 else 2) →
        (off % size = 0 ∧ code = 0 →
          CompletesFrom c s
            (s.modCove r.cove fun c => { c with sp := { c.sp with reqs := c.sp.reqs ++
              [{ core := r.core, write := write, handle := w.hdl, off := off, size := size, rt := w.rt, vec := vec
                 data := if !write then 0 else if vec then k.rv w.rt.toNat
                   else BitVec.ofNat 512 ((k.rg w.rt).toNat + 2 ^ 32 * (k.rg (w.rt + 1)).toNat)
                 since := s.cycles r.cove, step := step.2, pc := k.pc }] } }) r (k.pc + 4) WritesNone)
        ∧ (off % size ≠ 0 → exec c s = .next (s.exception r 0x4105))
        ∧ (off % size = 0 ∧ code ≠ 0 → exec c s = .next
            ((s.modCove r.cove fun c => { c with sp := c.sp.noteFault code w.hdl.toNat r.core 0 }).exception r code))) := by
  intro k sp off outNow step code
  have hout : outNow = if write then storesOut s r else loadsOut s r := by
    cases write <;> simp [outNow, storesOut, loadsOut, sp]
  have hlimit : (if write then 4 ≤ storesOut s r else 2 ≤ loadsOut s r) ↔ (if write then 4 else 2) ≤ outNow := by
    rw [hout]
    cases write <;> rfl
  unfold spAccess at hexec
  refine ⟨fun hfull => ?_, fun hroom => ⟨fun ⟨halign, hcode⟩ => ?_, fun halign => ?_, fun ⟨halign, hcode⟩ => ?_⟩⟩
  · rw [hexec, if_pos (hlimit.mpr hfull)]
  all_goals
    rw [if_neg (mt hlimit.mp (Nat.not_le.mpr hroom))] at hexec
    dsimp only at hexec
  · rw [if_neg (not_not.mpr halign), show (HandleEntry.check _ _ _ _ _).1 = 0 from hcode] at hexec
    have hcompletes := completes_retireNext_id hexec (State.core_modCove rfl r) rfl
    cases write <;> exact hcompletes
  · rw [hexec, if_pos halign]
  · rw [hexec, if_neg (not_not.mpr halign)]
    split
    · next h => exact absurd h hcode
    · rfl

end

section
variable {w : HFields} (hpair : w.rt.getLsbD 0 = false ∧ w.sz = 0)
include hpair

theorem pairUnused : (w.rt.getLsbD 0 || w.sz != 0) = false := by
  rw [hpair.1, hpair.2]
  rfl

end

/-- Settles O6: each of the four is `spAccess` with its own size and direction. -/
theorem scratchpadAccessesArePresented : Obligations.ScratchpadAccessesArePresented := by
  unfold Obligations.ScratchpadAccessesArePresented
  simp only [List.forall_mem_cons, List.not_mem_nil, false_imp_iff, implies_true, and_true]
  refine ⟨fun s r w hpair hready => ?_, fun s r w hpair hready => ?_, fun s r w hvreg hready => ?_, fun s r w hvreg hready => ?_⟩
  · exact spAccess_cases ((exec_spld r w s).trans (issue_legal (sameSp_eq w) (pairUnused hpair) hready))
  · exact spAccess_cases ((exec_spst r w s).trans (issue_legal (sameSp_eq w) (pairUnused hpair) hready))
  · exact spAccess_cases ((exec_vspld r w s).trans (issue_legal (sameSp_eq w) (vreg_legal hvreg) hready))
  · exact spAccess_cases ((exec_vspst r w s).trans (issue_legal (sameSp_eq w) (vreg_legal hvreg) hready))

end Sys2Proof.Machine
end

section
/-!
SUPPORT. The queue that CSEL and CPOLL select (R126): by rising number, or by distance in the rotation after the last selection.
-/
namespace Sys2Proof.Machine

/-- Place `i` of the rotation of eight queues after queue `last`. -/
def rotated (last : BitVec 3) (i : Nat) : Nat := (last.toNat + 1 + i) % 8

theorem rotated_lt (last : BitVec 3) (i : Nat) : rotated last i < 8 := Nat.mod_lt _ (by decide)

/-- The place of a queue in the rotation. -/
theorem rotated_place (last : BitVec 3) {i : Nat} (hi : i < 8) : (rotated last i + 7 - last.toNat) % 8 = i := by
  unfold rotated
  omega

theorem rotated_of_place (last : BitVec 3) {p : Nat} (hp : p < 8) : rotated last ((p + 7 - last.toNat) % 8) = p := by
  unfold rotated
  omega

section
variable {h : Channels} {core : Nat} {mask : BitVec 8} {last : BitVec 3}

/-- Queue `q` stands in the mask and holds a message. -/
def selectable (h : Channels) (core : Nat) (mask : BitVec 8) (q : Nat) : Bool := mask.getLsbD q && !(h.queue core q).msgs.isEmpty

theorem selectable_iff {q : Nat} : selectable h core mask q = true ↔ mask.getLsbD q = true ∧ (h.queue core q).msgs ≠ [] := by
  simp [selectable]

theorem selectQueue_lowest : selectQueue h core mask false last = (List.range 8).find? (selectable h core mask) := rfl

theorem selectQueue_rotating :
    selectQueue h core mask true last = ((List.range 8).find? fun i => selectable h core mask (rotated last i)).map (rotated last) := List.find?_map

theorem selectQueue_lowest_some {q : Nat} (hq : selectQueue h core mask false last = some q) :
    q < 8 ∧ selectable h core mask q = true ∧ ∀ p, p < q → selectable h core mask p = false := by
  rw [selectQueue_lowest, List.find?_range_eq_some] at hq
  obtain ⟨hsel, hlt, hbefore⟩ := hq
  exact ⟨List.mem_range.mp hlt, hsel, fun p hp => by simpa using hbefore p hp⟩

theorem selectQueue_rotating_some {q : Nat} (hq : selectQueue h core mask true last = some q) :
    q < 8 ∧ selectable h core mask q = true
      ∧ ∀ p, p < 8 → selectable h core mask p = true → (q + 7 - last.toNat) % 8 ≤ (p + 7 - last.toNat) % 8 := by
  rw [selectQueue_rotating, Option.map_eq_some_iff] at hq
  obtain ⟨i, hi, rfl⟩ := hq
  rw [List.find?_range_eq_some] at hi
  obtain ⟨hsel, hlt, hbefore⟩ := hi
  refine ⟨rotated_lt _ _, hsel, fun p hp hpsel => ?_⟩
  rw [rotated_place last (List.mem_range.mp hlt)]
  by_contra hnot
  have := hbefore _ (Nat.lt_of_not_le hnot)
  rw [rotated_of_place last hp, hpsel] at this
  exact absurd this (by decide)

theorem selectQueue_none {rotate : Bool} (hq : selectQueue h core mask rotate last = none) {q : Nat} (hlt : q < 8) : selectable h core mask q = false := by
  cases rotate with
  | false =>
    rw [selectQueue_lowest, List.find?_eq_none] at hq
    exact Bool.eq_false_iff.mpr (hq q (List.mem_range.mpr hlt))
  | true =>
    rw [selectQueue_rotating, Option.map_eq_none_iff, List.find?_eq_none] at hq
    have hplace := hq ((q + 7 - last.toNat) % 8) (List.mem_range.mpr (Nat.mod_lt _ (by decide)))
    rw [rotated_of_place last hlt] at hplace
    exact Bool.eq_false_iff.mpr hplace

/-- A queue of the mask that is not selectable holds no message. -/
theorem msgs_eq_nil {q : Nat} (hsel : selectable h core mask q = false) (hmask : mask.getLsbD q = true) : (h.queue core q).msgs = [] := by
  simpa [selectable, hmask] using hsel

end

/-- Settles O16: the search of `selectQueue` runs through the queues by number, or by place in the rotation. -/
theorem selectedQueueHoldsAMessage : Obligations.SelectedQueueHoldsAMessage := by
  unfold Obligations.SelectedQueueHoldsAMessage
  refine fun h core mask rotate last => ⟨fun q hq => ?_, fun hq q hlt hmask => msgs_eq_nil (selectQueue_none hq hlt) hmask⟩
  cases rotate with
  | false =>
    obtain ⟨hlt, hsel, hbefore⟩ := selectQueue_lowest_some hq
    obtain ⟨hmask, hmsgs⟩ := selectable_iff.mp hsel
    exact ⟨hlt, hmask, hmsgs, fun _ p hp => msgs_eq_nil (hbefore p hp), nofun⟩
  | true =>
    obtain ⟨hlt, hsel, hbefore⟩ := selectQueue_rotating_some hq
    obtain ⟨hmask, hmsgs⟩ := selectable_iff.mp hsel
    exact ⟨hlt, hmask, hmsgs, nofun, fun _ p hp hpmask hpmsgs => hbefore p hp (selectable_iff.mpr ⟨hpmask, hpmsgs⟩)⟩

end Sys2Proof.Machine
end

section
/-!
SUPPORT. A packet that a cove sends (R219, R226): it changes nothing but the cove's own router, and what it becomes depends on the routers,
the clock and the maps alone.
-/
namespace Sys2Proof.Machine

/-- The states agree outside the coves, and on the router of every cove. -/
structure SameNets (s t : State) : Prop where
  only : ChangesOnly [.coves] s t
  net : ∀ d, (t.cove d).net = (s.cove d).net

theorem SameNets.modCove (s : State) (c : Nat) {f : Cove → Cove} (hf : (f (s.cove c)).net = (s.cove c).net) : SameNets s (s.modCove c f) :=
  ⟨s.modCove_only c f, fun d => by
    rcases eq_or_ne d c with rfl | hne
    · rw [State.modCove_cove, hf]
    · rw [State.modCove_cove_other _ _ hne]⟩

theorem Piece.agree_symm {p : Piece} {s t : State} (h : p.agree s t) : p.agree t s := by cases p <;> exact Eq.symm h

section
variable {s t : State} (h : SameNets s t)
include h

theorem SameNets.trans {u : State} (k : SameNets t u) : SameNets s u := ⟨h.only.trans k.only, fun d => (k.net d).trans (h.net d)⟩

/-- The same change of one router in both. -/
theorem SameNets.modNet (c : Nat) (f : Net → Net) : SameNets (s.modCove c fun v => v.modNet f) (t.modCove c fun v => v.modNet f) := by
  refine ⟨fun p hp => ?_, fun d => ?_⟩
  · exact Piece.agree_trans (Piece.agree_symm (s.modCove_only c _ p hp)) (Piece.agree_trans (h.only p hp) (t.modCove_only c _ p hp))
  · rcases eq_or_ne d c with rfl | hne
    · rw [State.modCove_cove, State.modCove_cove, Cove.modNet_net, Cove.modNet_net, h.net]
    · rw [State.modCove_cove_other _ _ hne, State.modCove_cove_other _ _ hne, h.net]

/-- What reads no cove reads the same. -/
theorem SameNets.clk : t.clk = s.clk := h.only .clk rfl
theorem SameNets.rot : t.rot = s.rot := h.only .rot rfl
theorem SameNets.bays : t.bays = s.bays := h.only .bays rfl
theorem SameNets.maps : t.net = s.net := h.only .net rfl

theorem SameNets.entryAt (e : Bool) (c d : Nat) : t.entryAt e c d = s.entryAt e c d := by
  rw [State.entryAt, State.entryAt, h.net, h.maps]

theorem SameNets.mapAt (c : Nat) (e : Bool) (l : Nat) : t.mapAt c e l = s.mapAt c e l := by
  rw [State.mapAt, State.mapAt, h.net, h.maps]

theorem SameNets.firstHopFree (c d : Nat) (response : Bool) : t.firstHopFree c d response = s.firstHopFree c d response := by
  simp only [State.firstHopFree, h.net, h.entryAt]

theorem SameNets.agentRouter (c : Nat) (ordered : Bool) (routers : List Nat) : t.agentRouter c ordered routers = s.agentRouter c ordered routers := by
  simp only [State.agentRouter, h.net, h.firstHopFree]

theorem SameNets.cnCycles : t.cnCycles = s.cnCycles := by rw [State.cnCycles, State.cnCycles, h.clk]

theorem SameNets.netNow : t.netNow = s.netNow := by rw [State.netNow, State.netNow, State.netUnits, State.netUnits, h.cnCycles, h.clk]

theorem SameNets.logOf (c : Nat) : t.logOf c = s.logOf c := by
  have hread : t.logOf c = State.logOf { s with rot := t.rot } c := rfl
  rw [hread, h.rot]

theorem SameNets.stamped (c : Nat) (w : Injection) : t.stamped c w = s.stamped c w := by
  simp only [State.stamped, h.net, h.netNow, h.logOf, h.mapAt, h.agentRouter]

theorem SameNets.intoRing (c : Nat) (w : Injection) : SameNets (s.intoRing c w) (t.intoRing c w) := by
  rw [State.intoRing, State.intoRing, h.stamped, h.cnCycles]
  cases s.stamped c w with
  | none => exact h.modNet c _
  | some q => exact h.modNet c _

end

theorem SameNets.foldl {α : Type} {f : State → α → State} (hf : ∀ s t x, SameNets s t → SameNets (f s x) (f t x)) (l : List α) {s t : State}
    (h : SameNets s t) : SameNets (l.foldl f s) (l.foldl f t) := by
  induction l generalizing s t with
  | nil => exact h
  | cons x l ih => exact ih (hf _ _ _ h)

theorem SameNets.enter {s t : State} (h : SameNets s t) (c : Nat) : SameNets (s.enter c) (t.enter c) := by
  rw [State.enter, State.enter, h.net]
  refine SameNets.foldl (fun s t w h => ?_) _ (h.modNet c _)
  rw [h.net]
  split
  · exact h.modNet c _
  · exact h.intoRing c w

theorem SameNets.post {s t : State} (h : SameNets s t) (c : Nat) (w : Injection) : SameNets (s.post c w) (t.post c w) := (h.modNet c _).enter c

/-- A channel packet that a cove sends is the same one. -/
theorem SameNets.sendChan {s t : State} (h : SameNets s t) (c kind : Nat) (p : ChanPkt) : SameNets (s.sendChan c kind p) (t.sendChan c kind p) := by
  have hbay : t.bayOf c = s.bayOf c := by
    have hread : t.bayOf c = State.bayOf { s with rot := t.rot, bays := t.bays } c := rfl
    rw [hread, h.rot, h.bays]
  have hattempt : t.attemptAt c = s.attemptAt c := by
    have hread : t.attemptAt c = State.attemptAt { s with rot := t.rot, bays := t.bays } c := rfl
    rw [hread, h.rot, h.bays]
  have hphys (l : Nat) : t.physOf l = s.physOf l := by
    have hread : t.physOf l = State.physOf { s with rot := t.rot } l := rfl
    rw [hread, h.rot]
  rw [State.sendChan, State.sendChan, hbay, hattempt, hphys]
  exact h.post c _

/-! What sending leaves. -/

/-- Nothing but the router of cove `c` differs. -/
def RouterOnly (c : Nat) (s t : State) : Prop := ∃ n, t = s.modCove c fun v => { v with net := n }

theorem Cove.ne_of_cores {v : Cove} (h : v.cores ≠ {}) : v ≠ {} := fun e => h (congrArg Cove.cores e)

section
variable {c : Nat} {s t : State} (h : RouterOnly c s t)
include h

theorem RouterOnly.modNet (hlisted : (s.cove c).cores ≠ {}) (f : Net → Net) : RouterOnly c s (t.modCove c fun v => v.modNet f) := by
  obtain ⟨n, rfl⟩ := h
  exact ⟨f n, State.modCove_modCove _ _ _ _ (Cove.ne_of_cores hlisted)⟩

theorem RouterOnly.cove : ∃ n, t.cove c = { s.cove c with net := n } := by
  obtain ⟨n, rfl⟩ := h
  exact ⟨n, State.modCove_cove _ _ _⟩

theorem RouterOnly.ch : (t.cove c).ch = (s.cove c).ch := by
  obtain ⟨n, hn⟩ := h.cove
  rw [hn]

theorem RouterOnly.core (r : CoreRef) : t.core r = s.core r := by
  obtain ⟨n, rfl⟩ := h
  exact State.core_modCove rfl r

theorem RouterOnly.cycles (d : Nat) : t.cycles d = s.cycles d := by
  obtain ⟨n, rfl⟩ := h
  rfl

end

theorem RouterOnly.intoRing {c : Nat} {s t : State} (hlisted : (s.cove c).cores ≠ {}) (h : RouterOnly c s t) (w : Injection) :
    RouterOnly c s (t.intoRing c w) := by
  rw [State.intoRing]
  split
  · exact h.modNet hlisted _
  · exact h.modNet hlisted _

theorem RouterOnly.foldl {α : Type} {c : Nat} {s : State} {f : State → α → State} (hf : ∀ t x, RouterOnly c s t → RouterOnly c s (f t x))
    (l : List α) {t : State} (h : RouterOnly c s t) : RouterOnly c s (l.foldl f t) := by
  induction l generalizing t with
  | nil => exact h
  | cons x l ih => exact ih (hf _ _ h)

theorem State.post_routerOnly {c : Nat} {s : State} (hlisted : (s.cove c).cores ≠ {}) (w : Injection) : RouterOnly c s (s.post c w) := by
  have hput : RouterOnly c s (s.modCove c fun v => v.modNet fun n => { n with inj := n.inj ++ [w] }) := ⟨_, State.modCove_congr rfl⟩
  rw [State.post, State.enter]
  refine RouterOnly.foldl (fun t w h => ?_) _ (hput.modNet hlisted _)
  split
  · exact h.modNet hlisted _
  · exact h.intoRing hlisted w

theorem State.sendChan_routerOnly {c : Nat} {s : State} (hlisted : (s.cove c).cores ≠ {}) (kind : Nat) (p : ChanPkt) :
    RouterOnly c s (s.sendChan c kind p) := s.post_routerOnly hlisted _

end Sys2Proof.Machine
end

section
/-!
SUPPORT. The channel instructions that set up (R124, R127, R160 to R168, R176): reads of the channel table after a write, and what an
instruction that sends a packet leaves of its cove.
-/
namespace Sys2Proof.Machine

/-! Reads of the channel table and the queues after a write. -/

section
variable (h : Channels) (i : Nat)

theorem Channels.entry_modEntry (f : ChEntry → ChEntry) : (h.modEntry i f).entry i = f (h.entry i) := Tab.get_upd_same _ _ _ _

theorem Channels.entry_modEntry_other (f : ChEntry → ChEntry) {j : Nat} (hne : j ≠ i) : (h.modEntry i f).entry j = h.entry j :=
  Tab.get_upd_other _ _ _ hne

theorem Channels.entry_alloc (f : ChEntry → ChEntry) : (h.alloc i f).entry i = f { gen := (h.entry i).gen + 1 } :=
  Channels.entry_modEntry _ _ _

theorem Channels.entry_alloc_other (f : ChEntry → ChEntry) {j : Nat} (hne : j ≠ i) : (h.alloc i f).entry j = h.entry j :=
  Channels.entry_modEntry_other _ _ _ hne

theorem Channels.queue_modQueue (k q : Nat) (f : RecvQueue → RecvQueue) : (h.modQueue k q f).queue k q = f (h.queue k q) :=
  Tab.get_upd_same _ _ _ _

end

/-- The unused fields of a channel instruction are 0 (Table 5.5). -/
theorem cUnused_false {w : CFields} {ra rb q m len : Bool} (hra : ra = true → w.ra = 0) (hrb : rb = true → w.rb = 0) (hq : q = true → w.q = 0)
    (hm : m = true → w.m = false) (hlen : len = true → w.len = 0) : cUnused w ra rb q m len = false := by
  simp only [cUnused, Bool.or_eq_false_iff, Bool.and_eq_false_imp, bne_eq_false_iff_eq]
  exact ⟨⟨⟨⟨hra, hrb⟩, hq⟩, hm⟩, hlen⟩

theorem sameCacc_eq (q : BitVec 3) (rd : BitVec 5) : sameCacc q rd = fun x => x == .cacc q rd := by
  funext x
  cases x
  case cacc p e => simp [sameCacc, beq_eq_decide]
  all_goals rfl

/-! What a channel instruction leaves of its cove before it retires or waits. -/

/-- A core that can take an instruction stands in its cove's table. -/
theorem cores_ne_of_state {s : State} {r : CoreRef} (h : (s.core r).state ≠ 0) : (s.cove r.cove).cores ≠ {} := fun e => h (by
  rw [State.core, Cove.core, e]
  rfl)

theorem state_ne_of_readyAgain {s : State} {r : CoreRef} {again : CoreWait → Bool} {u : Uses} (h : readyAgain s r again u = true) :
    (s.core r).state ≠ 0 := by
  simp only [readyAgain, Bool.and_eq_true, PCore.takes, Bool.or_eq_true, beq_iff_eq] at h
  obtain ⟨⟨⟨⟨hstate, -⟩, -⟩, -⟩, -⟩ := h
  rcases hstate with hruns | ⟨hwaits, -⟩
  · rw [hruns]; decide
  · rw [hwaits]; decide

/-- Of the cove of core `r` nothing but the channels, now `h`, and the router, now `n`, differs; and nothing elsewhere. -/
structure ChanEffect (s : State) (r : CoreRef) (h : Channels) (n : Net) (t : State) : Prop where
  only : CoveOnly r.cove s t
  ch : t.chan r.cove = h
  net : (t.cove r.cove).net = n
  cores : (t.cove r.cove).cores = (s.cove r.cove).cores
  cycles : t.cycles r.cove = s.cycles r.cove

theorem ChanEffect.modChan (s : State) (r : CoreRef) (f : Channels → Channels) :
    ChanEffect s r (f (s.chan r.cove)) (s.cove r.cove).net (s.modChan r.cove f) := by
  have hcove : (s.modChan r.cove f).cove r.cove = (s.cove r.cove).modCh f := State.modCove_cove _ _ _
  exact ⟨CoveOnly.modCove _ _ _, congrArg Cove.ch hcove, (congrArg Cove.net hcove).trans rfl, (congrArg Cove.cores hcove).trans rfl, rfl⟩

section
variable {s t : State} {r : CoreRef} {h : Channels} {n : Net} (e : ChanEffect s r h n t)
include e

theorem ChanEffect.core : t.core r = s.core r := congrArg (fun x => x.get {} r.core) e.cores

/-- The same after a change of the cove's channels. -/
theorem ChanEffect.step (hlisted : (s.cove r.cove).cores ≠ {}) (f : Channels → Channels) : ChanEffect s r (f h) n (t.modChan r.cove f) := by
  have hcove : (t.modChan r.cove f).cove r.cove = (t.cove r.cove).modCh f := State.modCove_cove _ _ _
  refine ⟨e.only.step (Cove.ne_of_cores (e.cores ▸ hlisted)) _, ?_, ?_, ?_, e.cycles⟩
  · rw [State.chan, hcove, Cove.modCh_ch, ← e.ch]; rfl
  · rw [hcove, Cove.modCh_net, e.net]
  · rw [hcove, Cove.modCh_cores, e.cores]

/-- The same after a channel packet is sent. -/
theorem ChanEffect.sendChan (hlisted : (s.cove r.cove).cores ≠ {}) (kind : Nat) (p : ChanPkt) :
    ChanEffect s r h ((t.sendChan r.cove kind p).cove r.cove).net (t.sendChan r.cove kind p) := by
  have hrouter := State.sendChan_routerOnly (s := t) (e.cores.symm ▸ hlisted) kind p
  have hch := hrouter.ch
  have hcycles := hrouter.cycles r.cove
  obtain ⟨m, hm⟩ := hrouter
  refine ⟨?_, hch.trans e.ch, rfl, ?_, hcycles.trans e.cycles⟩
  · rw [hm]
    exact e.only.step (Cove.ne_of_cores (e.cores ▸ hlisted)) _
  · rw [hm, State.modCove_cove]
    exact e.cores

/-- The same but for core `r`. -/
theorem ChanEffect.modCore (hlisted : (s.cove r.cove).cores ≠ {}) (f : PCore → PCore) :
    CoveOnly r.cove s (t.modCore r f) ∧ (t.modCore r f).chan r.cove = h ∧ ((t.modCore r f).cove r.cove).net = n := by
  have hcove : (t.modCore r f).cove r.cove = (t.cove r.cove).modCore r.core f := State.modCove_cove _ _ _
  exact ⟨e.only.step (Cove.ne_of_cores (e.cores ▸ hlisted)) _, (congrArg Cove.ch hcove).trans e.ch, (congrArg Cove.net hcove).trans e.net⟩

/-- The instruction retires. -/
theorem ChanEffect.retireNext {f : PCore → PCore} {P : PCore → PCore → Prop} (hf : PCore.Data (s.core r) (f (s.core r)))
    (hP : ∀ cyc next, P (s.core r) ((f (s.core r)).finish cyc next)) :
    ∃ u, t.retireNext r f = (if (s.core r).pc + 4 = 0x4000 then u.exception r 0x4102 else u) ∧ u = t.modCore r (fun _ => u.core r)
      ∧ Progress (s.core r) (u.core r) (s.cycles r.cove) ((s.core r).pc + 4) ∧ P (s.core r) (u.core r) := by
  rw [State.retireNext, ← e.core, ← e.cycles]
  rw [← e.core] at hf hP
  exact State.retire_progress _ hf (hP _ _)

/-- The instruction retires with a result word. -/
theorem ChanEffect.retireNext_wg (rd : BitVec 5) (x : Word) :
    ∃ u, (t.retireNext r fun k => k.wg rd x) = (if (s.core r).pc + 4 = 0x4000 then u.exception r 0x4102 else u)
      ∧ u = t.modCore r (fun _ => u.core r) ∧ Progress (s.core r) (u.core r) (s.cycles r.cove) ((s.core r).pc + 4)
      ∧ WritesG rd x (s.core r) (u.core r) :=
  e.retireNext (f := fun k => k.wg rd x) (P := WritesG rd x) (.wg _ _ _) (PCore.writesG_wg _ _ _)

/-- The instruction waits. -/
theorem ChanEffect.stall (hlisted : (s.cove r.cove).cores ≠ {}) (x : CoreWait) :
    CoveOnly r.cove s (t.stall r x) ∧ (t.stall r x).chan r.cove = h ∧ ((t.stall r x).core r).state = 3
      ∧ ((t.stall r x).core r).wait = some x ∧ ((t.stall r x).cove r.cove).net = n := by
  obtain ⟨honly, hch, hnet⟩ := e.modCore hlisted
    fun k => { k with state := 3, wait := some x, stalledAt := if k.state = 3 then k.stalledAt else t.cycles r.cove }
  have hcore : (t.stall r x).core r =
      { t.core r with state := 3, wait := some x, stalledAt := if (t.core r).state = 3 then (t.core r).stalledAt else t.cycles r.cove } :=
    State.modCore_core _ _ _
  exact ⟨honly, hch, congrArg PCore.state hcore, congrArg PCore.wait hcore, hnet⟩

end

/-- After a change of the channels the same packet leaves. -/
theorem sendChan_modChan (s : State) (c : Nat) (f : Channels → Channels) (kind : Nat) (p : ChanPkt) :
    (((s.modChan c f).sendChan c kind p).cove c).net = ((s.sendChan c kind p).cove c).net :=
  ((SameNets.modCove s c rfl).sendChan c kind p).net c

/-- An instruction on the channel of a handle: bad parity of its entry, a handle that the core does not hold, or `f` done to the channels. -/
theorem onChannel_cases {s : State} {r : CoreRef} {c : Instr} {h : BitVec 16} {writer : Bool} {f : Channels → Channels} {rd : BitVec 5}
    (hexec : exec c s = .next (if (s.chan r.cove).badEntry h then s.entryException r h
      else if !(s.chan r.cove).holds r.core h writer then s.retireNext r fun k => k.wg rd stStale
      else (s.modChan r.cove f).retireNext r fun k => k.wg rd stOk)) :
    (((s.chan r.cove).entry (handleEntryOf h)).bad = true → exec c s = .next ((s.modChan r.cove fun x =>
        x.noteErr 0xA002 r.core ((s.chan r.cove).entry (handleEntryOf h)).queue).exception r 0xA002))
    ∧ (((s.chan r.cove).entry (handleEntryOf h)).bad = false →
        ((s.chan r.cove).holds r.core h writer = true →
          CompletesFrom c s (s.modChan r.cove f) r ((s.core r).pc + 4) (WritesG rd 0))
        ∧ ((s.chan r.cove).holds r.core h writer = false →
          Completes c s r ((s.core r).pc + 4) (WritesG rd (BitVec.ofNat 32 (5 * 2 ^ 28))))) := by
  refine ⟨fun hbad => ?_, fun hgood => ?_⟩
  · rw [hexec, if_pos (show (s.chan r.cove).badEntry h = true from hbad)]
    rfl
  · rw [if_neg (show ¬ (s.chan r.cove).badEntry h = true from Bool.not_eq_true _ ▸ hgood)] at hexec
    refine ⟨fun hholds => ?_, fun hstale => ?_⟩
    · rw [hholds, if_neg (by decide)] at hexec
      exact completes_retireNext_wg hexec (State.core_modCove rfl r) rfl
    · rw [hstale, if_pos (by decide)] at hexec
      exact completes_retireNext_wg hexec rfl rfl

/-- Does the core's bay hold the logical cove, as CCONN asks? -/
theorem State.inBay_eq (s : State) (c x : Nat) :
    (match s.bayOf c with
      | some b => (s.bay b).has x
      | none => false) = (s.bayOf c).any fun b => (s.bay b).has x := by
  cases s.bayOf c <;> rfl

/-! CCONN (R161). -/

section
variable {s : State} {r : CoreRef} {w : CFields} (hm : w.m = false) (hlen : w.len = 0)
include hm hlen

section
variable (hrb : w.rb = 0) (hq : w.q = 0) (hready : ready s r { g := [w.ra], wg := [w.rd] } = true)
include hrb hq hready

theorem exec_cconn_ready {ep : Word} (hep : (s.core r).rg w.ra = ep) :
    let good := ep.toNat < 2 ^ 17 ∧ epCove ep < 720 ∧ ((s.bayOf r.cove).any fun b => (s.bay b).has (epCove ep)) = true
    (¬ good → exec (.cconn r w) s = .next (s.retireNext r fun k => k.wg w.rd stRefused))
    ∧ (good → (s.chan r.cove).nextFree = none → exec (.cconn r w) s = .next (s.retireNext r fun k => k.wg w.rd stLimit))
    ∧ (good → ∀ i, (s.chan r.cove).nextFree = some i → exec (.cconn r w) s = .next
        (((s.modChan r.cove fun h => h.alloc i fun e =>
            { e with state := .connecting, writer := true, core := r.core, farEp := ep, openedIn := s.stepAt r.cove }).sendChan r.cove kConnect
          { blankChan with
            src := chanHandle i (((s.chan r.cove).entry i).gen + 1), srcEp := endpoint (s.lcove r.cove) r.core 0, dstEp := ep }).stall r
          (.cconn i w.rd))) := by
  intro good
  have hact := (exec_cconn r w s).trans (issue_legal rfl
    (cUnused_false (ra := false) (by simp) (fun _ => hrb) (fun _ => hq) (fun _ => hm) (fun _ => hlen)) hready)
  dsimp only at hact
  rw [hep] at hact
  have hshift : ep >>> 17 ≠ 0 ↔ ¬ ep.toNat < 2 ^ 17 := by
    rw [Ne, ← BitVec.toNat_inj, BitVec.toNat_ushiftRight, Nat.shiftRight_eq_div_pow]
    simp [Nat.div_eq_zero_iff]
  have hcond {x : Bool} (hx : x = (s.bayOf r.cove).any fun b => (s.bay b).has (epCove ep)) :
      (ep >>> 17 ≠ 0 ∨ 719 < epCove ep ∨ (!x) = true) ↔ ¬ good := by
    rw [hshift, Bool.not_eq_true', hx]
    simp only [good, not_and_or, Bool.not_eq_true, Nat.not_lt, Nat.succ_le_iff]
  refine ⟨fun hbad => ?_, fun hgood hfree => ?_, fun hgood i hfree => ?_⟩
  · rw [hact, if_pos ((hcond ?_).mpr hbad)]
    exact State.inBay_eq s r.cove (epCove ep)
  · rw [hact, if_neg (fun h => (hcond ?_).mp h hgood), hfree]
    exact State.inBay_eq s r.cove (epCove ep)
  · rw [hact, if_neg (fun h => (hcond ?_).mp h hgood), hfree]
    · dsimp only
      rw [(ChanEffect.modChan s r _).ch, Channels.entry_alloc]
    · exact State.inBay_eq s r.cove (epCove ep)

/-- CCONN with a good endpoint and a free entry takes the entry, sends CONNECT and waits. -/
theorem cconn_connects {ep : Word} (hep : (s.core r).rg w.ra = ep) {i : Nat}
    (hgood : ep.toNat < 2 ^ 17 ∧ epCove ep < 720 ∧ ((s.bayOf r.cove).any fun b => (s.bay b).has (epCove ep)) = true)
    (hfree : (s.chan r.cove).nextFree = some i) :
    ∃ t, exec (.cconn r w) s = .next t ∧ CoveOnly r.cove s t
      ∧ (t.chan r.cove).entry i =
          { state := .connecting, writer := true, gen := ((s.chan r.cove).entry i).gen + 1, core := r.core, farEp := ep
            openedIn := s.stepAt r.cove }
      ∧ (∀ j, j ≠ i → (t.chan r.cove).entry j = (s.chan r.cove).entry j)
      ∧ (t.core r).state = 3 ∧ (t.core r).wait = some (.cconn i w.rd)
      ∧ (t.cove r.cove).net = ((s.sendChan r.cove kConnect { blankChan with
          src := chanHandle i (((s.chan r.cove).entry i).gen + 1), srcEp := endpoint (s.lcove r.cove) r.core 0, dstEp := ep }).cove r.cove).net := by
  have hlisted := cores_ne_of_state (state_ne_of_readyAgain hready)
  obtain ⟨-, -, hexec⟩ := exec_cconn_ready hm hlen hrb hq hready hep
  obtain ⟨honly, hch, hstate, hwait, hnet⟩ := ((ChanEffect.modChan s r _).sendChan hlisted _ _).stall hlisted (.cconn i w.rd)
  refine ⟨_, hexec hgood i hfree, honly, ?_, fun j hj => ?_, hstate, hwait, hnet.trans (sendChan_modChan _ _ _ _ _)⟩
  · rw [hch, Channels.entry_alloc]
  · rw [hch, Channels.entry_alloc_other _ _ _ hj]

end

/-! CCLOSE and CSETTO (R127, R168). -/

theorem exec_cclose_ready (hrb : w.rb = 0) (hq : w.q = 0) (hready : ready s r { g := [w.ra], wg := [w.rd] } = true) {h : BitVec 16}
    (hh : ((s.core r).rg w.ra).setWidth 16 = h) :
    exec (.cclose r w) s = .next (if (s.chan r.cove).badEntry h then s.entryException r h
      else if !(s.chan r.cove).holds r.core h false then s.retireNext r fun k => k.wg w.rd stStale
      else (s.modChan r.cove fun c => c.modEntry (handleEntryOf h) fun e => { e with closeIn := some (s.stepAt r.cove) }).retireNext r
        fun k => k.wg w.rd stOk) := by
  subst hh
  exact (exec_cclose r w s).trans (issue_legal rfl
    (cUnused_false (ra := false) (by simp) (fun _ => hrb) (fun _ => hq) (fun _ => hm) (fun _ => hlen)) hready)

theorem exec_csetto_ready (hq : w.q = 0) (hready : ready s r { g := [w.ra, w.rb], wg := [w.rd] } = true) {h : BitVec 16}
    (hh : ((s.core r).rg w.ra).setWidth 16 = h) :
    exec (.csetto r w) s = .next (if (s.chan r.cove).badEntry h then s.entryException r h
      else if !(s.chan r.cove).holds r.core h true then s.retireNext r fun k => k.wg w.rd stStale
      else (s.modChan r.cove fun c => c.modEntry (handleEntryOf h) fun e => { e with timeout := (s.core r).rg w.rb }).retireNext r
        fun k => k.wg w.rd stOk) := by
  subst hh
  exact (exec_csetto r w s).trans (issue_legal rfl
    (cUnused_false (ra := false) (rb := false) (by simp) (by simp) (fun _ => hq) (fun _ => hm) (fun _ => hlen)) hready)

/-! CACC (R157, R162). -/

theorem cacc_unused (hra : w.ra = 0) (hrb : w.rb = 0) : cUnused w true true false true true = false :=
  cUnused_false (fun _ => hra) (fun _ => hrb) (by simp) (fun _ => hm) (fun _ => hlen)

section
variable (hra : w.ra = 0) (hrb : w.rb = 0) (hready : readyAgain s r (fun x => x == .cacc w.q w.rd) { wg := [w.rd] } = true)
include hra hrb hready

theorem exec_cacc_empty (hnone : ((s.chan r.cove).queue r.core w.q.toNat).requests = []) :
    exec (.cacc r w) s = .next (s.stall r (.cacc w.q w.rd)) := by
  refine (exec_cacc r w s).trans ((issue_legal (sameCacc_eq _ _) (cacc_unused hm hlen hra hrb) hready).trans ?_)
  dsimp only
  rw [hnone]

variable {ep : BitVec 32} {far : BitVec 16} {rest : List (BitVec 32 × BitVec 16)}
  (hreq : ((s.chan r.cove).queue r.core w.q.toNat).requests = (ep, far) :: rest)
include hreq

/-- Without a free entry the request is dropped and refused. -/
theorem exec_cacc_full (hfree : (s.chan r.cove).nextFree = none) :
    exec (.cacc r w) s = .next (((s.modChan r.cove fun h => h.modQueue r.core w.q.toNat fun q => { q with requests := rest }).sendChan r.cove kRefuse
      { blankChan with dst := far, srcEp := endpoint (s.lcove r.cove) r.core w.q.toNat, dstEp := ep }).retireNext r fun k =>
        k.wg w.rd stLimit) := by
  refine (exec_cacc r w s).trans ((issue_legal (sameCacc_eq _ _) (cacc_unused hm hlen hra hrb) hready).trans ?_)
  dsimp only
  rw [hreq]
  dsimp only
  rw [hfree]

/-- With a free entry the request becomes a reader's entry and is accepted. -/
theorem exec_cacc_accepts {i : Nat} (hfree : (s.chan r.cove).nextFree = some i) :
    exec (.cacc r w) s = .next ((((s.modChan r.cove fun h => h.modQueue r.core w.q.toNat fun q => { q with requests := rest }).modChan r.cove
      fun h => h.alloc i fun e => { e with
        state := .open_, core := r.core, queue := w.q.toNat, farHandle := far, farEp := ep, openedIn := s.stepAt r.cove }).sendChan r.cove kAccept
      { blankChan with
        dst := far, src := chanHandle i (((s.chan r.cove).entry i).gen + 1), srcEp := endpoint (s.lcove r.cove) r.core w.q.toNat
        dstEp := ep }).retireNext r fun k => k.wg w.rd (chanResult 0 (chanHandle i (((s.chan r.cove).entry i).gen + 1)) 0)) := by
  have hlisted := cores_ne_of_state (state_ne_of_readyAgain hready)
  refine (exec_cacc r w s).trans ((issue_legal (sameCacc_eq _ _) (cacc_unused hm hlen hra hrb) hready).trans ?_)
  dsimp only
  rw [hreq]
  dsimp only
  rw [hfree]
  dsimp only
  rw [((ChanEffect.modChan s r _).step hlisted _).ch, Channels.entry_alloc]
  rfl

end
end

/-- Settles O14: each instruction by its own branches; what a packet sent leaves is `ChanEffect`. -/
theorem channelSetupInstructionsComplete : Obligations.ChannelSetupInstructionsComplete := by
  unfold Obligations.ChannelSetupInstructionsComplete
  intro s r w hm hlen k ep h ch inBay badEntry
  refine ⟨fun hrb hq hready => ?_, fun hra hrb hready => ⟨fun e far rest i hreq hfree => ?_, fun e far rest hreq hfree => ?_, ?_⟩,
    fun hq hready => (onChannel_cases (exec_csetto_ready hm hlen hq hready rfl)).1,
    fun hq hready => (onChannel_cases (exec_csetto_ready hm hlen hq hready rfl)).2⟩
  · obtain ⟨hrefused, hlimit, -⟩ := exec_cconn_ready hm hlen hrb hq hready rfl
    obtain ⟨hbad, hclose⟩ := onChannel_cases (exec_cclose_ready hm hlen hrb hq hready rfl)
    exact ⟨fun i hep hcove hbay hfree => cconn_connects hm hlen hrb hq hready rfl ⟨hep, hcove, hbay⟩ hfree,
      fun hep hcove hbay hfree => completes_retireNext_wg (hlimit ⟨hep, hcove, hbay⟩ hfree) rfl rfl,
      fun hnot => completes_retireNext_wg (hrefused hnot) rfl rfl, hbad, hclose⟩
  · have hlisted := cores_ne_of_state (state_ne_of_readyAgain hready)
    have heffect := ((ChanEffect.modChan s r fun h => h.modQueue r.core w.q.toNat fun q => { q with requests := rest }).step hlisted
      fun h => h.alloc i fun x => { x with
        state := .open_, core := r.core, queue := w.q.toNat, farHandle := far, farEp := e, openedIn := s.stepAt r.cove }).sendChan hlisted kAccept
      { blankChan with
        dst := far, src := chanHandle i ((ch.entry i).gen + 1), srcEp := endpoint (s.lcove r.cove) r.core w.q.toNat, dstEp := e }
    obtain ⟨u, hu, hcore, hprogress, hwrites⟩ := heffect.retireNext_wg w.rd _
    refine ⟨_, u, (exec_cacc_accepts hm hlen hra hrb hready hreq hfree).trans (congrArg _ hu), hcore, heffect.only, ?_, ?_, hprogress, hwrites, ?_⟩
    · rw [heffect.ch]
      exact congrArg RecvQueue.requests (Channels.queue_modQueue _ _ _ _)
    · rw [heffect.ch, Channels.entry_alloc]
      rfl
    · exact (((SameNets.modCove s r.cove rfl).trans (SameNets.modCove _ _ rfl)).sendChan _ _ _).net _
  · have hlisted := cores_ne_of_state (state_ne_of_readyAgain hready)
    have heffect := (ChanEffect.modChan s r fun h => h.modQueue r.core w.q.toNat fun q => { q with requests := rest }).sendChan hlisted kRefuse
      { blankChan with dst := far, srcEp := endpoint (s.lcove r.cove) r.core w.q.toNat, dstEp := e }
    obtain ⟨u, hu, hcore, hprogress, hwrites⟩ := heffect.retireNext_wg w.rd stLimit
    refine ⟨_, u, (exec_cacc_full hm hlen hra hrb hready hreq hfree).trans (congrArg _ hu), hcore, heffect.only, ?_, fun j => ?_, hprogress, hwrites,
      sendChan_modChan _ _ _ _ _⟩
    · rw [heffect.ch]
      exact congrArg RecvQueue.requests (Channels.queue_modQueue _ _ _ _)
    · rw [heffect.ch]
      rfl
  · exact exec_cacc_empty hm hlen hra hrb hready

end Sys2Proof.Machine
end

section
/-!
SUPPORT. The channel instructions that transfer (R125, R126, R165, R176): CSEND, CRECV, CSEL and CPOLL.
-/
namespace Sys2Proof.Machine

/-- An instruction ready where it never waits is ready where it waits for anything. -/
theorem readyAgain_of_ready {s : State} {r : CoreRef} {u : Uses} (h : ready s r u = true) (again : CoreWait → Bool) :
    readyAgain s r again u = true := by
  have hstate := state_of_ready h
  simp only [ready, readyAgain, PCore.takes, hstate] at h ⊢
  exact h

theorem sameCrecv_eq (q : BitVec 3) (rd vb : BitVec 5) : sameCrecv q rd vb = fun x => x == .crecv q rd vb := by
  funext x
  cases x
  case crecv p e v => simp [sameCrecv, beq_eq_decide, Bool.and_assoc]
  all_goals rfl

/-! CSEND (R125, R165). -/

/-- The entry holds a message that is being sent. -/
def ChEntry.holding (e : ChEntry) (len : Nat) (msg : Row) (cn : Nat) : ChEntry :=
  { e.rest .sending with msgLen := len, msg := msg, sentAt := cn }

/-- The message goes out with the channel's two ends. -/
theorem sendData_holding (s : State) (c i len cn : Nat) (msg : Row) :
    let e := (s.chan c).entry i
    let t := s.modChan c fun h => h.modEntry i fun e => e.holding len msg cn
    t.sendData c i = t.sendChan c kData { blankChan with
      seq := e.seq, len := BitVec.ofNat 7 len, dst := e.farHandle, src := chanHandle i e.gen
      srcEp := endpoint (s.lcove c) e.core 0, dstEp := e.farEp, data := msg } := by
  intro e t
  have hentry : (t.chan c).entry i = e.holding len msg cn := by
    rw [State.chan, show t.cove c = (s.cove c).modCh _ from State.modCove_cove _ _ _]
    exact Channels.entry_modEntry _ _ _
  have hlcove : t.lcove c = s.lcove c := congrArg (Option.getD · 0) ((SameNets.modCove s c rfl).logOf c)
  rw [State.sendData, hentry, hlcove]
  rfl

section
variable {s : State} {r : CoreRef} {w : CFields} (hq : w.q = 0) (hm : w.m = false) (hvreg : w.rb.toNat < 8)
  (hready : ready s r { g := [w.ra], v := [w.rb.toNat], wg := [w.rd] } = true) {h : BitVec 16} (hh : ((s.core r).rg w.ra).setWidth 16 = h)
include hq hm hvreg hready hh

theorem exec_csend_ready :
    exec (.csend r w) s = .next (
      if 64 < w.len.toNat then s.exception r 0x4107
      else if (s.chan r.cove).badEntry h then s.entryException r h
      else if !(s.chan r.cove).holds r.core h true then s.retireNext r fun k => k.wg w.rd stStale
      else if ((s.chan r.cove).entry (handleEntryOf h)).state = .peerClosed then
        (s.countClosed r.cove 1).retireNext r fun k => k.wg w.rd stClosed
      else
        ((s.modChan r.cove fun t => t.modEntry (handleEntryOf h) fun e => e.holding w.len.toNat
          (lowBytes ((s.core r).rv w.rb.toNat) w.len.toNat) s.cnCycles).sendData r.cove (handleEntryOf h)).stall r (.csend (handleEntryOf h) w.rd)) := by
  subst hh
  refine (exec_csend r w s).trans (issue_legal rfl ?_ hready)
  rw [cUnused_false (ra := false) (rb := false) (len := false) (by simp) (by simp) (fun _ => hq) (fun _ => hm) (by simp), vreg_legal hvreg]
  rfl

section
variable (hlen : w.len.toNat ≤ 64)
include hlen

theorem exec_csend_bad (hbad : ((s.chan r.cove).entry (handleEntryOf h)).bad = true) :
    exec (.csend r w) s = .next ((s.modChan r.cove fun c =>
      c.noteErr 0xA002 r.core ((s.chan r.cove).entry (handleEntryOf h)).queue).exception r 0xA002) := by
  rw [exec_csend_ready hq hm hvreg hready hh, if_neg (Nat.not_lt.mpr hlen), if_pos (show (s.chan r.cove).badEntry h = true from hbad)]
  rfl

variable (hgood : ((s.chan r.cove).entry (handleEntryOf h)).bad = false)
include hgood

theorem csend_stale (hstale : (s.chan r.cove).holds r.core h true = false) :
    Completes (.csend r w) s r ((s.core r).pc + 4) (WritesG w.rd (BitVec.ofNat 32 (5 * 2 ^ 28))) := by
  have hexec := exec_csend_ready hq hm hvreg hready hh
  rw [if_neg (Nat.not_lt.mpr hlen), if_neg (show ¬ (s.chan r.cove).badEntry h = true from Bool.not_eq_true _ ▸ hgood), hstale,
    if_pos (by decide)] at hexec
  exact completes_retireNext_wg hexec rfl rfl

variable (hholds : (s.chan r.cove).holds r.core h true = true)
include hholds

theorem csend_closed (hclosed : ((s.chan r.cove).entry (handleEntryOf h)).state = .peerClosed) :
    CompletesFrom (.csend r w) s (s.modChan r.cove fun c => { c with closed := satAdd32 c.closed 1 }) r ((s.core r).pc + 4)
      (WritesG w.rd (BitVec.ofNat 32 (1 * 2 ^ 28))) := by
  have hexec := exec_csend_ready hq hm hvreg hready hh
  rw [if_neg (Nat.not_lt.mpr hlen), if_neg (show ¬ (s.chan r.cove).badEntry h = true from Bool.not_eq_true _ ▸ hgood), hholds,
    if_neg (by decide), if_pos hclosed] at hexec
  exact completes_retireNext_wg hexec (State.core_modCove rfl r) rfl

/-- The message stands in the entry, DATA leaves, and the core waits for the answer. -/
theorem csend_sends (hopen : ((s.chan r.cove).entry (handleEntryOf h)).state ≠ .peerClosed) :
    let i := handleEntryOf h
    let ch := s.chan r.cove
    let msg := lowBytes ((s.core r).rv w.rb.toNat) w.len.toNat
    ∃ t, exec (.csend r w) s = .next t ∧ CoveOnly r.cove s t
      ∧ ((t.chan r.cove).entry i).state = .sending ∧ ((t.chan r.cove).entry i).msgLen = w.len.toNat ∧ ((t.chan r.cove).entry i).msg = msg
      ∧ (∀ j, j ≠ i → (t.chan r.cove).entry j = ch.entry j)
      ∧ (t.core r).state = 3 ∧ (t.core r).wait = some (.csend i w.rd)
      ∧ (t.cove r.cove).net = ((s.sendChan r.cove kData { blankChan with
          seq := (ch.entry i).seq, len := w.len, dst := (ch.entry i).farHandle, src := chanHandle i (ch.entry i).gen
          srcEp := endpoint (s.lcove r.cove) (ch.entry i).core 0, dstEp := (ch.entry i).farEp, data := msg }).cove r.cove).net := by
  intro i ch msg
  have hlisted := cores_ne_of_state (state_ne_of_readyAgain hready)
  have hexec := exec_csend_ready hq hm hvreg hready hh
  rw [if_neg (Nat.not_lt.mpr hlen), if_neg (show ¬ (s.chan r.cove).badEntry h = true from Bool.not_eq_true _ ▸ hgood), hholds,
    if_neg (by decide), if_neg hopen, sendData_holding] at hexec
  obtain ⟨honly, hch, hstate, hwait, hnet⟩ := ((ChanEffect.modChan s r _).sendChan hlisted _ _).stall hlisted (.csend i w.rd)
  have hentry := Channels.entry_modEntry ch i fun e => e.holding w.len.toNat msg s.cnCycles
  refine ⟨_, hexec, honly, ?_, ?_, ?_, fun j hj => ?_, hstate, hwait, (hnet.trans (sendChan_modChan _ _ _ _ _)).trans ?_⟩
  · rw [hch, hentry]
    rfl
  · rw [hch, hentry]
    rfl
  · rw [hch, hentry]
    rfl
  · rw [hch, Channels.entry_modEntry_other _ _ _ hj]
  · rw [BitVec.ofNat_toNat, BitVec.setWidth_eq]

end
end

/-! CRECV (R125, R158, R168). -/

/-- Of the cove of core `r` nothing but channels and router differs, and queue `q` of the core holds the messages `ms`. -/
def QueueHolds (s : State) (r : CoreRef) (q : Nat) (ms : List Msg) (t : State) : Prop :=
  ∃ h n, ChanEffect s r h n t ∧ (h.queue r.core q).msgs = ms

section
variable {s t : State} {r : CoreRef} {q : Nat} {ms : List Msg} (hlisted : (s.cove r.cove).cores ≠ {}) (hold : QueueHolds s r q ms t)
include hlisted hold

/-- An entry that comes free may be promised to a waiting writer; the messages stay. -/
theorem QueueHolds.entryFreed : QueueHolds s r q ms (t.entryFreed r.cove r.core q) := by
  obtain ⟨h, n, heffect, hmsgs⟩ := hold
  unfold State.entryFreed
  extract_lets x
  split
  · exact ⟨h, n, heffect, hmsgs⟩
  · next w rest _ =>
    split
    · exact ⟨h, n, heffect, hmsgs⟩
    · refine ⟨_, _, (heffect.step hlisted _).sendChan hlisted _ _, ?_⟩
      rw [Channels.queue_modQueue]
      exact hmsgs

theorem QueueHolds.drainEntry (i : Nat) : QueueHolds s r q ms (t.drainEntry r.cove i) := by
  obtain ⟨h, n, heffect, hmsgs⟩ := hold
  unfold State.drainEntry
  extract_lets x
  split
  · exact ⟨_, _, heffect.step hlisted _, hmsgs⟩
  · exact ⟨h, n, heffect, hmsgs⟩

end

/-- The cove of core `r` after message `m` is taken from queue `q`. -/
def State.tookMsg (s : State) (r : CoreRef) (q : Nat) (m : Msg) (rest : List Msg) : State :=
  ((s.modChan r.cove fun h => h.modQueue r.core q fun x => { x with msgs := rest }).entryFreed r.cove r.core q).drainEntry r.cove
    (handleEntryOf m.handle)

theorem State.tookMsg_queueHolds {s : State} {r : CoreRef} (hlisted : (s.cove r.cove).cores ≠ {}) (q : Nat) (m : Msg) (rest : List Msg) :
    QueueHolds s r q rest (s.tookMsg r q m rest) := by
  have hput : QueueHolds s r q rest (s.modChan r.cove fun h => h.modQueue r.core q fun x => { x with msgs := rest }) :=
    ⟨_, _, ChanEffect.modChan s r _, congrArg RecvQueue.msgs (Channels.queue_modQueue _ _ _ _)⟩
  exact (hput.entryFreed hlisted).drainEntry hlisted _

theorem PCore.Data.wv_wg (k : PCore) (vb : Nat) (x : Row) (rd : BitVec 5) (y : Word) : PCore.Data k ((k.wv vb x).wg rd y) := by
  unfold PCore.Data PCore.wg
  split <;> rfl

/-- v[vb] and g[rd] become `x` and `y`; every other register and local data memory as before. -/
def WritesVG (vb : Nat) (x : Row) (rd : BitVec 5) (y : Word) (k k' : PCore) : Prop :=
  (∀ j, j ≠ vb → k'.rv j = k.rv j) ∧ k'.rv vb = x ∧ (∀ j, k'.rg j = if j = rd ∧ j ≠ 0 then y else k.rg j) ∧ KeepsD k k'

theorem writesVG_finish (k : PCore) (vb : Nat) (x : Row) (rd : BitVec 5) (y : Word) (cyc next : Nat) :
    WritesVG vb x rd y k (((k.wv vb x).wg rd y).finish cyc next) := by
  have hv (j : Nat) : (((k.wv vb x).wg rd y).finish cyc next).rv j = if j = vb then x else k.rv j := by
    rw [PCore.rv_finish, PCore.rv, PCore.v_wg]
    exact PCore.rv_wv k vb x j
  refine ⟨fun j hj => ?_, ?_, fun j => PCore.rg_wg _ _ _ _, ⟨PCore.dmem_wg _ _ _, PCore.dmemBad_wg _ _ _⟩⟩
  · rw [hv, if_neg hj]
  · rw [hv, if_pos rfl]

theorem crecv_unused {w : CFields} (hra : w.ra = 0) (hm : w.m = false) (hlen : w.len = 0) (hvreg : w.rb.toNat < 8) :
    (cUnused w true false false true true || !vreg w.rb) = false := by
  rw [cUnused_false (rb := false) (q := false) (fun _ => hra) (by simp) (by simp) (fun _ => hm) (fun _ => hlen), vreg_legal hvreg]
  rfl

section
variable {s : State} {r : CoreRef} {w : CFields} (hra : w.ra = 0) (hm : w.m = false) (hlen : w.len = 0) (hvreg : w.rb.toNat < 8)
  (hready : readyAgain s r (fun x => x == .crecv w.q w.rd w.rb) { wg := [w.rd], wv := [w.rb.toNat] } = true)
include hra hm hlen hvreg hready

theorem exec_crecv_empty (hnone : ((s.chan r.cove).queue r.core w.q.toNat).msgs = []) :
    exec (.crecv r w) s = .next (s.stall r (.crecv w.q w.rd w.rb)) := by
  refine (exec_crecv r w s).trans ((issue_legal (sameCrecv_eq _ _ _) (crecv_unused hra hm hlen hvreg) hready).trans ?_)
  dsimp only
  rw [hnone]

theorem exec_crecv_takes {m : Msg} {rest : List Msg} (hmsg : ((s.chan r.cove).queue r.core w.q.toNat).msgs = m :: rest) :
    exec (.crecv r w) s = .next (
      if m.bad then (s.tookMsg r w.q.toNat m rest).chanException r 0xA002 w.q.toNat
      else (s.tookMsg r w.q.toNat m rest).retireNext r fun k =>
        (k.wv w.rb.toNat (lowBytes m.data m.len)).wg w.rd (chanResult 0 m.handle m.len)) := by
  refine (exec_crecv r w s).trans ((issue_legal (sameCrecv_eq _ _ _) (crecv_unused hra hm hlen hvreg) hready).trans ?_)
  dsimp only
  rw [hmsg]
  rfl

theorem crecv_receives {m : Msg} {rest : List Msg} (hmsg : ((s.chan r.cove).queue r.core w.q.toNat).msgs = m :: rest) (hgood : m.bad = false) :
    ∃ t u, exec (.crecv r w) s = .next (if (s.core r).pc + 4 = 0x4000 then u.exception r 0x4102 else u) ∧ u = t.modCore r (fun _ => u.core r)
      ∧ CoveOnly r.cove s t ∧ ((t.chan r.cove).queue r.core w.q.toNat).msgs = rest
      ∧ Progress (s.core r) (u.core r) (s.cycles r.cove) ((s.core r).pc + 4)
      ∧ WritesVG w.rb.toNat (lowBytes m.data m.len) w.rd (chanResult 0 m.handle m.len) (s.core r) (u.core r) := by
  have hlisted := cores_ne_of_state (state_ne_of_readyAgain hready)
  obtain ⟨h, n, heffect, hqueue⟩ := State.tookMsg_queueHolds hlisted w.q.toNat m rest
  have hexec := exec_crecv_takes hra hm hlen hvreg hready hmsg
  rw [hgood, if_neg (by decide)] at hexec
  obtain ⟨u, hu, hcore, hprogress, hwrites⟩ := heffect.retireNext
    (f := fun k => (k.wv w.rb.toNat (lowBytes m.data m.len)).wg w.rd (chanResult 0 m.handle m.len))
    (P := WritesVG w.rb.toNat (lowBytes m.data m.len) w.rd (chanResult 0 m.handle m.len))
    (.wv_wg _ _ _ _ _) (writesVG_finish _ _ _ _ _)
  exact ⟨_, u, hexec.trans (congrArg _ hu), hcore, heffect.only, heffect.ch ▸ hqueue, hprogress, hwrites⟩

theorem crecv_bad {m : Msg} {rest : List Msg} (hmsg : ((s.chan r.cove).queue r.core w.q.toNat).msgs = m :: rest) (hbad : m.bad = true) :
    ∃ t, exec (.crecv r w) s = .next ((t.modChan r.cove fun c => c.noteErr 0xA002 r.core w.q.toNat).exception r 0xA002)
      ∧ CoveOnly r.cove s t ∧ ((t.chan r.cove).queue r.core w.q.toNat).msgs = rest ∧ t.core r = s.core r := by
  have hlisted := cores_ne_of_state (state_ne_of_readyAgain hready)
  obtain ⟨h, n, heffect, hqueue⟩ := State.tookMsg_queueHolds hlisted w.q.toNat m rest
  have hexec := exec_crecv_takes hra hm hlen hvreg hready hmsg
  rw [hbad, if_pos rfl] at hexec
  exact ⟨_, hexec, heffect.only, heffect.ch ▸ hqueue, heffect.core⟩

end

/-! CSEL and CPOLL (R126). -/

section
variable {s : State} {r : CoreRef} {w : CFields}

theorem PCore.wg_lastSel (k : PCore) (rd : BitVec 5) (x : Word) (q : BitVec 3) : { k.wg rd x with lastSel := q } = { k with lastSel := q }.wg rd x := by
  unfold PCore.wg
  split <;> rfl

theorem selectDone_eq (rd : BitVec 5) (q : Nat) :
    ∃ t, selectDone s r rd q = (if (s.core r).pc + 4 = 0x4000 then t.exception r 0x4102 else t) ∧ t = s.modCore r (fun _ => t.core r)
      ∧ (t.core r).pc = (s.core r).pc + 4 ∧ WritesG rd (chanResult 0 0 q) (s.core r) (t.core r) ∧ (t.core r).lastSel = BitVec.ofNat 3 q
      ∧ Progress { s.core r with lastSel := BitVec.ofNat 3 q } (t.core r) (s.cycles r.cove) ((s.core r).pc + 4) := by
  refine ⟨s.modCore r fun k => PCore.finish { k.wg rd (chanResult 0 0 q) with lastSel := BitVec.ofNat 3 q } (s.cycles r.cove)
    ((s.core r).pc + 4), rfl, ?_⟩
  rw [State.modCore_core]
  refine ⟨rfl, rfl, PCore.writesG_wg _ _ _ (s.cycles r.cove) ((s.core r).pc + 4), rfl, ?_⟩
  rw [PCore.wg_lastSel]
  exact (PCore.Data.wg _ _ _).finish _ _

section
variable (hrb : w.rb = 0) (hq : w.q = 0) (hlen : w.len = 0) (hready : ready s r { g := [w.ra], wg := [w.rd] } = true)
  {mask : BitVec 8} (hmask : ((s.core r).rg w.ra).setWidth 8 = mask)
include hrb hq hlen hready hmask

theorem exec_csel_ready :
    exec (.csel r w) s = .next (if mask = 0 then s.retireNext r fun k => k.wg w.rd stNone
      else match selectQueue (s.chan r.cove) r.core mask w.m (s.core r).lastSel with
        | some q => selectDone s r w.rd q
        | none => s.stall r (.csel mask w.m w.rd)) := by
  subst hmask
  refine (exec_csel r w s).trans ((issue_legal rfl (cUnused_false (ra := false) (m := false) (by simp) (fun _ => hrb) (fun _ => hq) (by simp)
    (fun _ => hlen)) (readyAgain_of_ready hready _)).trans ?_)
  rfl

theorem exec_cpoll_ready :
    exec (.cpoll r w) s = .next (match selectQueue (s.chan r.cove) r.core mask w.m (s.core r).lastSel with
      | some q => selectDone s r w.rd q
      | none => s.retireNext r fun k => k.wg w.rd stNone) := by
  subst hmask
  refine (exec_cpoll r w s).trans ((issue_legal rfl (cUnused_false (ra := false) (m := false) (by simp) (fun _ => hrb) (fun _ => hq) (by simp)
    (fun _ => hlen)) hready).trans ?_)
  rfl

end
end

/-- Settles O15: each instruction by its own branches. -/
theorem channelTransferInstructionsComplete : Obligations.ChannelTransferInstructionsComplete := by
  unfold Obligations.ChannelTransferInstructionsComplete
  intro s r w k h i ch mask found
  refine ⟨fun hq hm hvreg hready => ⟨fun hlen hgood hholds hopen => ?_, fun hlen => ?_, fun hlen hbad => ?_, fun hlen hgood hholds hclosed => ?_,
    fun hlen hgood hstale => ?_⟩, fun hra hm hlen hvreg hready => ⟨fun m rest hmsg hgood => ?_, fun m rest hmsg hbad => ?_, fun hnone => ?_⟩,
    fun hrb hq hlen => ⟨fun q hfound hmask hready => ?_, fun hfound hready => ⟨?_, fun hmask => ?_, fun hmask => ?_⟩⟩⟩
  · exact csend_sends hq hm hvreg hready rfl hlen hgood hholds hopen
  · rw [exec_csend_ready hq hm hvreg hready rfl, if_pos hlen]
  · exact exec_csend_bad hq hm hvreg hready rfl hlen hbad
  · exact csend_closed hq hm hvreg hready rfl hlen hgood hholds hclosed
  · exact csend_stale hq hm hvreg hready rfl hlen hgood hstale
  · exact crecv_receives hra hm hlen hvreg hready hmsg hgood
  · exact crecv_bad hra hm hlen hvreg hready hmsg hbad
  · exact exec_crecv_empty hra hm hlen hvreg hready hnone
  · obtain ⟨t, ht, hrest⟩ := selectDone_eq (s := s) (r := r) w.rd q
    simp only [List.forall_mem_cons, List.not_mem_nil, false_imp_iff, implies_true, and_true]
    refine ⟨⟨t, ?_, hrest⟩, ⟨t, ?_, hrest⟩⟩
    · rw [exec_csel_ready hrb hq hlen hready rfl, if_neg hmask, show selectQueue _ _ _ _ _ = some q from hfound, ← ht]
    · rw [exec_cpoll_ready hrb hq hlen hready rfl, show selectQueue _ _ _ _ _ = some q from hfound, ← ht]
  · refine completes_retireNext_wg ?_ rfl rfl
    rw [exec_cpoll_ready hrb hq hlen hready rfl, show selectQueue _ _ _ _ _ = none from hfound]
    rfl
  · rw [exec_csel_ready hrb hq hlen hready rfl, if_neg hmask, show selectQueue _ _ _ _ _ = none from hfound]
  · refine completes_retireNext_wg ?_ rfl rfl
    rw [exec_csel_ready hrb hq hlen hready rfl, if_pos hmask]
    rfl

end Sys2Proof.Machine
end

section
/-!
SUPPORT. The combining lane (R121, R197 to R199): a token taken, a barrier released, an arrival, a vote and an outcome.
-/
namespace Sys2Proof.Machine

/-! A token that arrives. -/

section
variable {s : State} {c d : Nat} {tok : BitVec 6} {tag : BitVec 2} {f : State → State}

theorem laneIn_none (h : s.laneNext c d = none) : s.laneIn c d tok tag f = s := by
  unfold State.laneIn
  rw [h]

/-- The next token of the lane, at a seam path that is open, is taken. -/
theorem laneIn_takes {l : Nat} (hlog : s.logOf c = some l) (hopen : (s.seamPath (l / 36)).state = .open_) {x : LaneTok}
    (hx : s.laneNext c d = some x) (htok : x.tok = tok) (htag : x.tag = tag) : s.laneIn c d tok tag f = f (s.takeLane c d x) := by
  have hpass : ¬ (crossesSeam ((s.logOf c).getD 0) d = true ∧ (s.seamPath (((s.logOf c).getD 0) / 36)).state ≠ .open_) := by
    rw [hlog]
    exact fun h => h.2 hopen
  unfold State.laneIn
  rw [hx]
  dsimp only
  rw [if_neg (by simp [htok, htag]), if_neg hpass]

/-- Taking a token changes the lane outputs of the neighbour alone. -/
theorem takeLane_core (x : LaneTok) (r : CoreRef) : (s.takeLane c d x).core r = s.core r := by
  unfold State.takeLane
  split
  · rfl
  · exact State.core_modCove rfl r

theorem takeLane_cycles (x : LaneTok) (e : Nat) : (s.takeLane c d x).cycles e = s.cycles e := by
  unfold State.takeLane
  split <;> rfl

theorem takeLane_cove {x : LaneTok} (hfar : ∀ n, s.neighbour c d = some n → n ≠ c) : (s.takeLane c d x).cove c = s.cove c := by
  unfold State.takeLane
  split
  · rfl
  · next n hn => exact State.modCove_cove_other _ _ (hfar n hn).symm

end

/-! A barrier is released (R121, R198). -/

/-- Core `k` goes on if it waits at barrier `b`. -/
def State.releaseCore (c b : Nat) (s : State) (k : Nat) : State :=
  match coreRef c k with
  | some r => if (s.core r).wait = some (.tbar (BitVec.ofNat 4 b)) then s.retireNext r id else s
  | none => s

theorem releaseCores_eq (s : State) (c b : Nat) : s.releaseCores c b = (List.range 16).foldl (State.releaseCore c b) s := rfl

/-- Of cove `c` the cores before `n` that wait at barrier `b` have gone on; nothing else differs. -/
structure Released (s : State) (c : Fin 800) (b n : Nat) (t : State) : Prop where
  only : ChangesOnly [.coves] s t
  tide : (t.cove c).tide = (s.cove c).tide
  cycles : t.cycles c = s.cycles c
  goesOn : ∀ k : Fin 16, k < n → (s.core ⟨c, k⟩).wait = some (.tbar (BitVec.ofNat 4 b)) →
    t.core ⟨c, k⟩ = (s.core ⟨c, k⟩).finish (s.cycles c) ((s.core ⟨c, k⟩).pc + 4)
  keeps : ∀ k : Fin 16, n ≤ k ∨ (s.core ⟨c, k⟩).wait ≠ some (.tbar (BitVec.ofNat 4 b)) → t.core ⟨c, k⟩ = s.core ⟨c, k⟩

section
variable {s : State} {c : Fin 800} {b : Nat}
  (hpc : ∀ k : Fin 16, (s.core ⟨c, k⟩).wait = some (.tbar (BitVec.ofNat 4 b)) → (s.core ⟨c, k⟩).pc + 4 ≠ 0x4000)
include hpc

theorem Released.step {n : Nat} (hn : n < 16) {t : State} (h : Released s c b n t) : Released s c b (n + 1) (t.releaseCore c b n) := by
  obtain ⟨honly, htide, hcycles, hgoes, hkeeps⟩ := h
  have hcore := hkeeps ⟨n, hn⟩ (.inl (Nat.le_refl n))
  have hstep : t.releaseCore c b n =
      if (t.core ⟨c, ⟨n, hn⟩⟩).wait = some (.tbar (BitVec.ofNat 4 b)) then t.retireNext ⟨c, ⟨n, hn⟩⟩ id else t := by
    unfold State.releaseCore
    rw [coreRef, dif_pos ⟨c.isLt, hn⟩]
  rw [hstep, hcore]
  split
  · next hwait =>
    have hretire : t.retireNext ⟨c, ⟨n, hn⟩⟩ id =
        t.modCore ⟨c, ⟨n, hn⟩⟩ fun q => q.finish (s.cycles c) ((s.core ⟨c, ⟨n, hn⟩⟩).pc + 4) := by
      rw [State.retireNext, hcore, State.retire, if_neg (hpc _ hwait), hcycles]
      rfl
    rw [hretire]
    refine ⟨honly.trans (State.modCove_only _ _ _), ?_, hcycles, fun k hk hk' => ?_, fun k hk => ?_⟩
    · rw [State.modCore, State.modCove_cove]
      exact htide
    · rcases eq_or_ne k ⟨n, hn⟩ with rfl | hne
      · rw [State.modCore_core, hcore]
      · rw [State.modCore_core_other _ _ (.inr hne), hgoes k (by have := Fin.val_ne_of_ne hne; simp at this; omega) hk']
    · have hne : k ≠ ⟨n, hn⟩ := by
        rintro rfl
        exact hk.elim (fun h => by simp at h) (fun h => h hwait)
      rw [State.modCore_core_other _ _ (.inr hne)]
      exact hkeeps k (hk.imp_left (by omega))
  · next hwait =>
    refine ⟨honly, htide, hcycles, fun k hk hk' => ?_, fun k hk => hkeeps k (hk.imp_left (by omega))⟩
    refine hgoes k (lt_of_le_of_ne (by omega) fun e => hwait ?_) hk'
    rwa [show (⟨n, hn⟩ : Fin 16) = k from Fin.ext e.symm]

theorem releaseCores_released : Released s c b 16 (s.releaseCores c b) := by
  have hbefore (n : Nat) (hn : n ≤ 16) : Released s c b n ((List.range n).foldl (State.releaseCore c b) s) := by
    induction n with
    | zero => exact ⟨.refl _ _, rfl, rfl, fun k hk => absurd hk (Nat.not_lt_zero _), fun _ _ => rfl⟩
    | succ n ih =>
      rw [List.range_succ, List.foldl_append]
      exact (ih (by omega)).step hpc hn
  exact hbefore 16 (Nat.le_refl _)

end

/-- The cores of the switch that wait at the barrier go on and its entry is armed again; the others are as before. -/
theorem releaseBarrier_released {s : State} {c : Fin 800} {b : Nat}
    (hpc : ∀ k : Fin 16, (s.core ⟨c, k⟩).wait = some (.tbar (BitVec.ofNat 4 b)) → (s.core ⟨c, k⟩).pc + 4 ≠ 0x4000) :
    ChangesOnly [.coves] s (s.releaseBarrier c b) ∧ ((s.releaseBarrier c b).cove c).tide.arrived.find b = none
      ∧ ∀ k : Fin 16, let q := s.core ⟨c, k⟩
        (q.wait = some (.tbar (BitVec.ofNat 4 b)) →
          Progress q ((s.releaseBarrier c b).core ⟨c, k⟩) (s.cycles c) (q.pc + 4) ∧ WritesNone q ((s.releaseBarrier c b).core ⟨c, k⟩))
        ∧ (q.wait ≠ some (.tbar (BitVec.ofNat 4 b)) → (s.releaseBarrier c b).core ⟨c, k⟩ = q) := by
  unfold State.releaseBarrier
  generalize hf : (fun v : Cove => v.modTide fun t => { (t.send (tokRelease b) 0 (barChildren (t.entry b)) (s.cycles c)).autoArrive [b] (s.cycles c) with
      arrived := t.arrived.erase b }) = f
  have hcore (r : CoreRef) : (s.modCove c f).core r = s.core r := State.core_modCove (by rw [← hf]; rfl) r
  have hreleased := releaseCores_released (s := s.modCove c f) (c := c) (b := b) (by simpa only [hcore] using hpc)
  obtain ⟨honly, htide, -, hgoes, hkeeps⟩ := hreleased
  simp only [hcore] at hgoes hkeeps
  refine ⟨(s.modCove_only _ _).trans honly, ?_, fun k => ⟨fun hwait => ?_, fun hwait => hkeeps k (.inr hwait)⟩⟩
  · rw [htide, State.modCove_cove, ← hf]
    show ((s.cove c).tide.arrived.erase b).find b = none
    rw [Tab.find, Tab.erase, rowsFind_erase, if_pos rfl]
  · rw [hgoes k k.isLt hwait]
    exact ⟨(PCore.Data.refl _).finish _ _, PCore.writesNone _ _ _⟩

section
variable {s : State} {c : Fin 800} {b : Fin 16}

theorem barrierRelease_none
    (h : barValid ((s.cove c).tide.entry b) = false ∨ barRoot ((s.cove c).tide.entry b) = true
      ∨ s.laneNext c (barParent ((s.cove c).tide.entry b)) = none) : exec (.barrierRelease c b) s = .next s := by
  rw [exec_barrierRelease]
  rcases h with h | h | h
  · exact occurs_false (by rw [h, Bool.and_false, Bool.false_and])
  · exact occurs_false (by rw [h, Bool.not_true, Bool.and_false])
  · unfold execBarrierRelease
    extract_lets _ e
    rw [laneIn_none h, occurs, ite_self]

section
variable {l : Nat} (hlog : s.logOf c = some l) (hopen : (s.seamPath (l / 36)).state = .open_)
include hlog hopen

section
variable (hruns : s.tideRuns c = true)
include hruns

theorem exec_barrierRelease_takes {x : LaneTok} (hvalid : barValid ((s.cove c).tide.entry b) = true)
    (hroot : barRoot ((s.cove c).tide.entry b) = false) (hx : s.laneNext c (barParent ((s.cove c).tide.entry b)) = some x)
    (htok : x.tok = tokRelease b) (htag : x.tag = 0) :
    exec (.barrierRelease c b) s = .next ((s.takeLane c (barParent ((s.cove c).tide.entry b)) x).releaseBarrier c b) := by
  refine (exec_barrierRelease c b s).trans ((occurs_true ?_).trans (congrArg _ (laneIn_takes hlog hopen hx htok htag)))
  rw [hruns, hvalid, hroot]
  rfl

end
end
end

/-! An arrival at a barrier (R121, R198). -/

/-- Participant `k` arrives at barrier `b` after those of `a`. -/
def Tide.arriving (t : Tide) (b k : Nat) (a : List Nat) : Tide := { t with arrived := t.arrived.set [] b (a ++ [k]) }

/-- What the arrival does: a violation of one that is no member, else the barrier waits, is released or reports to its parent. -/
def State.arrives (u : State) (c b k : Nat) (e : Word) (a : List Nat) (cyc : Nat) (member : Bool) : State :=
  let s1 := u.modCove c fun v => v.modTide fun t => t.arriving b k a
  if !member then u.tideFault c 0x602D 3 (BitVec.ofNat 5 b)
  else if !((s1.cove c).tide.allArrived b) then s1
  else if barRoot e then s1.releaseBarrier c b
  else s1.modCove c fun v => v.modTide fun t => t.send (tokArrive b) 0 [barParent e] cyc

section
variable {s : State} {c : Fin 800} {b : Fin 16} {k : Fin 20} {e : Word} {a : List Nat} (hentry : (s.cove c).tide.entry b = e)
  (harrived : (s.cove c).tide.arrived.get [] b = a) (hnew : a.contains k.val = false) (hruns : s.tideRuns c = true)
include hentry harrived hnew hruns

theorem barrierArrive_core (hk : k.val < 16) (hwait : ((s.cove c).core k).wait = some (.tbar (BitVec.ofNat 4 b))) :
    exec (.barrierArrive c b k) s = .next (s.arrives c b k e a (s.cycles c) (barValid e && barCore e k)) := by
  subst hentry harrived
  refine (exec_barrierArrive c b k s).trans ((occurs_true ?_).trans (congrArg _ ?_))
  · rw [hruns, decide_eq_true hk, hwait, hnew]
    simp
  · rw [decide_eq_true hk]
    exact (if_pos rfl).trans (if_congr (or_iff_left (mt hnew.symm.trans (by decide))) rfl rfl)

theorem barrierArrive_child {l d : Nat} {x : LaneTok} (hlog : s.logOf c = some l) (hopen : (s.seamPath (l / 36)).state = .open_)
    (hk : k.val = 16 + d) (hx : s.laneNext c d = some x) (htok : x.tok = tokArrive b) (htag : x.tag = 0) :
    exec (.barrierArrive c b k) s = .next ((s.takeLane c d x).arrives c b k e a (s.cycles c) (barValid e && barChild e d)) := by
  subst hentry harrived
  have hchild : decide (k.val < 16) = false := decide_eq_false (by omega)
  have hd : k.val - 16 = d := by omega
  refine (exec_barrierArrive c b k s).trans ((occurs_true ?_).trans (congrArg _ ?_))
  · rw [hruns, hchild]
    rfl
  · rw [hchild, hd]
    exact (if_neg (by decide)).trans ((laneIn_takes hlog hopen hx htok htag).trans
      (if_congr (or_iff_left (mt hnew.symm.trans (by decide))) rfl rfl))

end

/-- A member that is not the last to arrive, the last at the root, and the last elsewhere. -/
theorem arrives_member {u : State} {c b k cyc : Nat} {e : Word} {a : List Nat} :
    let s1 := u.modCove c fun v => v.modTide fun t => t.arriving b k a
    ((s1.cove c).tide.allArrived b = false → u.arrives c b k e a cyc true = s1)
    ∧ ((s1.cove c).tide.allArrived b = true → barRoot e = true → u.arrives c b k e a cyc true = s1.releaseBarrier c b)
    ∧ ((s1.cove c).tide.allArrived b = true → barRoot e = false → u.arrives c b k e a cyc true =
        s1.modCove c fun v => v.modTide fun t => t.send (tokArrive b) 0 [barParent e] cyc) := by
  intro s1
  refine ⟨fun h => ?_, fun h hroot => ?_, fun h hroot => ?_⟩
  · exact if_pos (by rw [h]; rfl)
  · exact (if_neg (by rw [h]; decide)).trans (if_pos hroot)
  · exact (if_neg (by rw [h]; decide)).trans (if_neg (by rw [hroot]; decide))

/-! A vote (R199). -/

/-- What a vote of participant `who` does where the step has failed before or not. -/
def State.counts (u : State) (c who : Nat) (pass : Bool) (tag : BitVec 2) (failed : Bool) (children : List Nat) : State :=
  let s1 := u.modCove c fun v => v.modTide fun t =>
    { t with votes := t.votes.filter (fun x => !(x.1 == who && x.2.2 == tag)) ++ [(who, pass, tag)] }
  let passed : List Nat := ((s1.cove c).tide.votes.filter fun x => x.2.2 == tag && x.2.1).map Prod.fst
  if failed then s1
  else if !pass then s1.passVote c false tag
  else if (4 :: children).all passed.contains then s1.passVote c true tag
  else s1

theorem counts_cases {u : State} {c who : Nat} {pass : Bool} {tag : BitVec 2} {failed : Bool} {children : List Nat} :
    let s1 := u.modCove c fun v => v.modTide fun t =>
      { t with votes := t.votes.filter (fun x => !(x.1 == who && x.2.2 == tag)) ++ [(who, pass, tag)] }
    let passed : List Nat := ((s1.cove c).tide.votes.filter fun x => x.2.2 == tag && x.2.1).map Prod.fst
    (failed = true → u.counts c who pass tag failed children = s1)
    ∧ (failed = false →
        (pass = false → u.counts c who pass tag failed children = s1.passVote c false tag)
        ∧ (pass = true → (∃ d ∈ 4 :: children, passed.contains d = false) → u.counts c who pass tag failed children = s1)
        ∧ (pass = true → (∀ d ∈ 4 :: children, passed.contains d = true) → u.counts c who pass tag failed children = s1.passVote c true tag)) := by
  intro s1 passed
  refine ⟨fun h => if_pos h, fun h => ⟨fun hpass => ?_, fun hpass hmissing => ?_, fun hpass hall => ?_⟩⟩
  · exact (if_neg (by rw [h]; decide)).trans (if_pos (by rw [hpass]; rfl))
  · refine (if_neg (by rw [h]; decide)).trans ((if_neg (by rw [hpass]; decide)).trans (if_neg fun hall => ?_))
    obtain ⟨d, hd, hnot⟩ := hmissing
    exact absurd (List.all_eq_true.mp hall d hd) (by rw [hnot]; decide)
  · exact (if_neg (by rw [h]; decide)).trans ((if_neg (by rw [hpass]; decide)).trans (if_pos (List.all_eq_true.mpr hall)))

section
variable {s : State} {c : Fin 800} {pass : Bool} {tag : BitVec 2} {t : Tide} (htide : (s.cove c).tide = t)
include htide

theorem vote_own (hvalid : barValid t.system = true) (hcast : t.casts.contains (pass, tag) = true) :
    exec (.vote c none pass tag) s = .next ((s.modCove c fun v => v.modTide fun t => { t with casts := t.casts.erase (pass, tag) }).counts c 4
      pass tag (t.votes.any fun x => x.2.2 == tag && !x.2.1) (barChildren t.system)) := by
  subst htide
  exact (exec_vote c none pass tag s).trans (occurs_true (by rw [hvalid, hcast]; rfl))

theorem vote_notCast (hcast : t.casts.contains (pass, tag) = false) : exec (.vote c none pass tag) s = .next s := by
  subst htide
  exact (exec_vote c none pass tag s).trans (occurs_false (by rw [hcast, Bool.and_false]))

theorem vote_child {l : Nat} {d : Fin 4} {x : LaneTok} (hlog : s.logOf c = some l) (hopen : (s.seamPath (l / 36)).state = .open_)
    (hvalid : barValid t.system = true) (hchild : barChild t.system d = true) (hx : s.laneNext c d = some x) (htok : x.tok = tokVote pass tag)
    (htag : x.tag = 0) :
    exec (.vote c (some d) pass tag) s = .next ((s.takeLane c d x).counts c d pass tag (t.votes.any fun x => x.2.2 == tag && !x.2.1)
      (barChildren t.system)) := by
  subst htide
  exact (exec_vote c (some d) pass tag s).trans ((occurs_true (Bool.and_eq_true_iff.mpr ⟨hvalid, hchild⟩)).trans
    (congrArg _ (laneIn_takes hlog hopen hx htok htag)))

end

/-! An outcome (R199). -/

section
variable {s : State} {c : Fin 800} {tag : BitVec 2}

theorem outcome_none (h : barValid (s.cove c).tide.system = false ∨ barRoot (s.cove c).tide.system = true
      ∨ s.laneNext c (barParent (s.cove c).tide.system) = none) :
    exec (.commitToken c tag) s = .next s ∧ exec (.rollbackToken c tag) s = .next s := by
  rw [exec_commitToken, exec_rollbackToken]
  rcases h with h | h | h
  · exact ⟨occurs_false (by rw [h, Bool.false_and]), occurs_false (by rw [h, Bool.false_and])⟩
  · exact ⟨occurs_false (by rw [h, Bool.not_true, Bool.and_false]), occurs_false (by rw [h, Bool.not_true, Bool.and_false])⟩
  · unfold execCommitToken execRollbackToken
    dsimp only
    rw [laneIn_none h, laneIn_none h, occurs, ite_self]
    exact ⟨rfl, rfl⟩

section
variable {l : Nat} {x : LaneTok} (hlog : s.logOf c = some l) (hopen : (s.seamPath (l / 36)).state = .open_)
  (hvalid : barValid (s.cove c).tide.system = true) (hroot : barRoot (s.cove c).tide.system = false)
  (hx : s.laneNext c (barParent (s.cove c).tide.system) = some x) (htag : x.tag = tag)
  (hfar : ∀ n, s.neighbour c (barParent (s.cove c).tide.system) = some n → n ≠ c.val)
include hlog hopen hvalid hroot hx htag hfar

/-- The outcome that a token brings goes on to the children and ends the votes of the step. -/
theorem outcome_takes (pass : Bool) (htok : x.tok = if pass then tokCommit else tokRollback) :
    ∃ u, exec (if pass then .commitToken c tag else .rollbackToken c tag) s = .next u ∧ (u.cove c).tide = (s.cove c).tide.outcome pass tag (s.cycles c)
      ∧ ChangesOnly [.coves] s u := by
  refine ⟨(s.takeLane c (barParent (s.cove c).tide.system) x).modCove c fun v => v.modTide fun t => t.outcome pass tag (s.cycles c), ?_, ?_, ?_⟩
  · have hoccurs : (barValid (s.cove c).tide.system && !barRoot (s.cove c).tide.system) = true := by rw [hvalid, hroot]; rfl
    cases pass with
    | true => exact (exec_commitToken c tag s).trans ((occurs_true hoccurs).trans (congrArg _ (laneIn_takes hlog hopen hx htok htag)))
    | false => exact (exec_rollbackToken c tag s).trans ((occurs_true hoccurs).trans (congrArg _ (laneIn_takes hlog hopen hx htok htag)))
  · rw [State.modCove_cove, Cove.modTide_tide, takeLane_cove hfar]
  · exact (State.takeLane_only _ _ _ _).trans (State.modCove_only _ _ _)

end
end

/-- Settles O36: each token by its own lemma. -/
theorem combiningTokensTakeEffect : Obligations.CombiningTokensTakeEffect := by
  unfold Obligations.CombiningTokensTakeEffect
  intro s c l hlog hopen t cyc
  refine ⟨fun b k s0 => ?_, fun b k hruns hwait hnew hnot => ?_, fun b x => ?_, fun b x => ?_, fun b => barrierRelease_none,
    fun tag pass src s0 hvalid hpart => ?_, fun tag p => vote_notCast rfl, fun tag x hvalid hroot hx htag hfar => ?_,
    fun h tag => outcome_none h⟩
  · intro e a hruns hvalid hnew hpart s1
    have hexec : exec (.barrierArrive c b k) s = .next (s0.arrives c b k e a cyc true) := by
      rcases hpart with ⟨hk, rfl, hcore, hwait⟩ | ⟨d, x, hk, hchild, hx, htok, htag, rfl⟩
      · have hmember : (barValid e && barCore e k) = true := Bool.and_eq_true_iff.mpr ⟨hvalid, hcore⟩
        exact hmember ▸ barrierArrive_core rfl rfl hnew hruns hk hwait
      · have hmember : (barValid e && barChild e d) = true := Bool.and_eq_true_iff.mpr ⟨hvalid, hchild⟩
        exact hmember ▸ barrierArrive_child rfl rfl hnew hruns hlog hopen hk hx htok htag
    rw [hexec]
    obtain ⟨hwaits, hroot, hparent⟩ := arrives_member (u := s0) (c := c) (b := b) (k := k) (e := e) (a := a) (cyc := cyc)
    exact ⟨fun h => congrArg _ (hwaits h), fun h h' => congrArg _ (hroot h h'), fun h h' => congrArg _ (hparent h h')⟩
  · have hmember : (barValid (t.entry b) && barCore (t.entry b) k) = false := by
      rcases hnot with h | h
      · rw [h, Bool.false_and]
      · rw [h, Bool.and_false]
    have hexec := barrierArrive_core (k := ⟨k, by omega⟩) rfl rfl hnew hruns k.isLt hwait
    exact hexec.trans (congrArg _ (if_pos (by rw [hmember]; rfl)))
  · intro e hruns hvalid hroot hx htok htag
    exact exec_barrierRelease_takes hlog hopen hruns hvalid hroot hx htok htag
  · intro e hruns hvalid hroot hx htok htag hpc
    have hcore (r : CoreRef) := takeLane_core (s := s) (c := c) (d := barParent e) x r
    obtain ⟨honly, harmed, hcores⟩ := releaseBarrier_released (s := s.takeLane c (barParent e) x) (c := c) (b := b) (by simpa only [hcore] using hpc)
    simp only [hcore, takeLane_cycles] at hcores
    exact ⟨_, exec_barrierRelease_takes hlog hopen hruns hvalid hroot hx htok htag, (State.takeLane_only _ _ _ _).trans honly, harmed, hcores⟩
  · intro who s1 passed
    have hexec : exec (.vote c src pass tag) s = .next (s0.counts c who pass tag (t.votes.any fun x => x.2.2 == tag && !x.2.1)
        (barChildren t.system)) := by
      rcases hpart with ⟨rfl, hcast, rfl⟩ | ⟨d, x, rfl, hchild, hx, htok, htag, rfl⟩
      · exact vote_own rfl hvalid hcast
      · exact vote_child rfl hlog hopen hvalid hchild hx htok htag
    rw [hexec]
    obtain ⟨hfailed, hcounts⟩ := counts_cases (u := s0) (c := c) (who := who) (pass := pass) (tag := tag)
      (failed := t.votes.any fun x => x.2.2 == tag && !x.2.1) (children := barChildren t.system)
    refine ⟨fun h => congrArg _ (hfailed h), fun h => ?_⟩
    obtain ⟨hfail, hmissing, hall⟩ := hcounts h
    exact ⟨fun h => congrArg _ (hfail h), fun h h' => congrArg _ (hmissing h h'), fun h h' => congrArg _ (hall h h')⟩
  · intro done
    refine ⟨fun htok => ?_, fun htok => ?_⟩
    · obtain ⟨u, hexec, htide, honly⟩ := outcome_takes hlog hopen hvalid hroot hx htag hfar true htok
      refine ⟨u, hexec, ?_, ?_, ?_, honly⟩ <;> rw [htide] <;> rfl
    · obtain ⟨u, hexec, htide, honly⟩ := outcome_takes hlog hopen hvalid hroot hx htag hfar false htok
      refine ⟨u, hexec, ?_, ?_, ?_, honly⟩ <;> rw [htide] <;> rfl

end Sys2Proof.Machine
end

section
/-!
SUPPORT. The bank arbiter's choice (R144): the oldest request of each core is presented, and of those that may take the bank one is picked that
no other precedes.
-/
namespace Sys2Proof.Machine

/-! What is presented. -/

/-- An element of the list is request `y`, with none of the same core before it. -/
def OldestIn (l : List ReqAt) (y : ReqAt) : Prop :=
  ∃ i : Nat, l[i]? = some y ∧ ∀ (j : Nat) (x : ReqAt), j < i → l[j]? = some x → x.2.core ≠ y.2.core

/-- A request of another core in front changes nothing. -/
theorem oldestIn_cons {a y : ReqAt} {l : List ReqAt} (h : a.2.core ≠ y.2.core) : OldestIn (a :: l) y ↔ OldestIn l y := by
  constructor
  · rintro ⟨i, hi, hbefore⟩
    cases i with
    | zero => exact absurd (congrArg (fun z : ReqAt => z.2.core) (Option.some.inj hi)) h
    | succ i => exact ⟨i, hi, fun j x hj hx => hbefore (j + 1) x (Nat.succ_lt_succ hj) hx⟩
  · rintro ⟨i, hi, hbefore⟩
    refine ⟨i + 1, hi, fun j x hj hx => ?_⟩
    cases j with
    | zero => exact Option.some.inj hx ▸ h
    | succ j => exact hbefore j x (Nat.lt_of_succ_lt_succ hj) hx

/-- The requests presented are those that no older one of their core precedes. -/
theorem mem_presented_iff {l : List ReqAt} {seen : List Nat} {y : ReqAt} :
    y ∈ presented l seen ↔ y.2.core ∉ seen ∧ OldestIn l y := by
  induction l generalizing seen with
  | nil => simp [presented, OldestIn]
  | cons a l ih =>
    rw [presented]
    split
    · next hseen =>
      have ha := List.contains_iff_mem.mp hseen
      rw [ih]
      exact and_congr_right fun hy => (oldestIn_cons fun e => hy (e ▸ ha)).symm
    · next hseen =>
      have ha : a.2.core ∉ seen := fun h => hseen (List.contains_iff_mem.mpr h)
      rw [List.mem_cons, ih, List.mem_cons, not_or]
      constructor
      · rintro (rfl | ⟨⟨hne, hy⟩, hlater⟩)
        · exact ⟨ha, 0, rfl, fun j x hj => absurd hj (Nat.not_lt_zero j)⟩
        · exact ⟨hy, (oldestIn_cons (Ne.symm hne)).mpr hlater⟩
      · rintro ⟨hy, hlater⟩
        rcases eq_or_ne a.2.core y.2.core with he | hne
        · obtain ⟨i, hi, hbefore⟩ := hlater
          cases i with
          | zero => exact .inl (Option.some.inj hi).symm
          | succ i => exact absurd he (hbefore 0 a (Nat.succ_pos i) rfl)
        · exact .inr ⟨⟨Ne.symm hne, hy⟩, (oldestIn_cons hne).mp hlater⟩

/-- A list with its places. -/
theorem getElem?_places {α : Type} (l : List α) (m : Nat) (y : Nat × α) :
    ((List.range l.length).zip l)[m]? = some y ↔ y.1 = m ∧ l[m]? = some y.2 := by
  rw [List.getElem?_zip_eq_some]
  constructor
  · rintro ⟨hm, hy⟩
    obtain ⟨_, hm⟩ := List.getElem?_eq_some_iff.mp hm
    exact ⟨by simpa using hm.symm, hy⟩
  · rintro ⟨rfl, hy⟩
    exact ⟨List.getElem?_range (List.getElem?_eq_some_iff.mp hy).1, hy⟩

/-- Request `q` at place `i` is the oldest of its core. -/
def Oldest (reqs : List NarrowReq) (i : Nat) (q : NarrowReq) : Prop :=
  reqs[i]? = some q ∧ ∀ j x, j < i → reqs[j]? = some x → x.core ≠ q.core

theorem mem_presented_places {reqs : List NarrowReq} {i : Nat} {q : NarrowReq} :
    (i, q) ∈ presented ((List.range reqs.length).zip reqs) [] ↔ Oldest reqs i q := by
  simp only [mem_presented_iff, OldestIn, getElem?_places, List.not_mem_nil, not_false_eq_true, true_and, Oldest]
  constructor
  · rintro ⟨m, ⟨rfl, hq⟩, hbefore⟩
    exact ⟨hq, fun j x hj hx => hbefore j (j, x) hj ⟨rfl, hx⟩⟩
  · rintro ⟨hq, hbefore⟩
    exact ⟨i, ⟨rfl, hq⟩, fun j x hj hx => hbefore j x.2 hj hx.2⟩

/-! What is picked. -/

/-- A request that has waited 8 cycles. -/
def NarrowReq.urgentAt (q : NarrowReq) (now : Nat) : Prop := q.since + 8 ≤ now

/-- Request `x` goes before `q` (R144). -/
def NarrowReq.before (last now : Nat) (x q : NarrowReq) : Prop :=
  (x.urgentAt now ∧ q.urgentAt now ∧ (x.since < q.since ∨ x.since = q.since ∧ rotDist last x.core < rotDist last q.core))
  ∨ (x.urgentAt now ∧ ¬ q.urgentAt now) ∨ (¬ x.urgentAt now ∧ ¬ q.urgentAt now ∧ rotDist last x.core < rotDist last q.core)

section
variable {last now : Nat}

theorem NarrowReq.before_irrefl (q : NarrowReq) : ¬ q.before last now q := by
  unfold NarrowReq.before NarrowReq.urgentAt
  omega

theorem NarrowReq.before_trans {x y z : NarrowReq} (h : x.before last now y) (k : y.before last now z) : x.before last now z := by
  unfold NarrowReq.before NarrowReq.urgentAt at *
  omega

/-- The comparison that the arbiter makes. -/
theorem better_iff {q r : NarrowReq} :
    (if decide (q.since + 8 ≤ now) && decide (r.since + 8 ≤ now) then
        decide (q.since < r.since) || (q.since == r.since && decide (rotDist last q.core < rotDist last r.core))
      else if decide (q.since + 8 ≤ now) then true
      else if decide (r.since + 8 ≤ now) then false
      else decide (rotDist last q.core < rotDist last r.core)) = true ↔ q.before last now r := by
  unfold NarrowReq.before NarrowReq.urgentAt
  by_cases hq : q.since + 8 ≤ now <;> by_cases hr : r.since + 8 ≤ now <;> simp [hq, hr]

/-- The request may take the bank: any in a cycle without a row of the feed, an urgent one in a cycle with one. -/
def NarrowReq.mayTake (onlyUrgent : Bool) (now : Nat) (q : NarrowReq) : Prop := onlyUrgent = true → q.urgentAt now

/-- What is picked of a list: none where none may take the bank, else one that may and that no other precedes. -/
def Picks (last now : Nat) (onlyUrgent : Bool) (l : List ReqAt) : Option ReqAt → Prop
  | none => ∀ x ∈ l, ¬ x.2.mayTake onlyUrgent now
  | some q => q ∈ l ∧ q.2.mayTake onlyUrgent now ∧ ∀ x ∈ l, x.2.mayTake onlyUrgent now → ¬ x.2.before last now q.2

variable {onlyUrgent : Bool}

section
variable {a : ReqAt} {l : List ReqAt}

theorem Picks.skip (ha : ¬ a.2.mayTake onlyUrgent now) {o : Option ReqAt} (h : Picks last now onlyUrgent l o) :
    Picks last now onlyUrgent (a :: l) o := by
  cases o with
  | none => exact List.forall_mem_cons.mpr ⟨ha, h⟩
  | some q =>
    obtain ⟨hmem, hmay, hbest⟩ := h
    exact ⟨.tail _ hmem, hmay, List.forall_mem_cons.mpr ⟨fun hmay => absurd hmay ha, hbest⟩⟩

theorem Picks.only (ha : a.2.mayTake onlyUrgent now) (h : Picks last now onlyUrgent l none) : Picks last now onlyUrgent (a :: l) (some a) :=
  ⟨.head _, ha, List.forall_mem_cons.mpr ⟨fun _ => a.2.before_irrefl, fun x hx hmay => absurd hmay (h x hx)⟩⟩

theorem Picks.better {r : ReqAt} (ha : a.2.mayTake onlyUrgent now) (h : Picks last now onlyUrgent l (some r)) (hbefore : a.2.before last now r.2) :
    Picks last now onlyUrgent (a :: l) (some a) := by
  obtain ⟨-, -, hbest⟩ := h
  exact ⟨.head _, ha, List.forall_mem_cons.mpr ⟨fun _ => a.2.before_irrefl, fun x hx hmay hx' => hbest x hx hmay (NarrowReq.before_trans hx' hbefore)⟩⟩

theorem Picks.keep {r : ReqAt} (h : Picks last now onlyUrgent l (some r)) (hnot : ¬ a.2.before last now r.2) :
    Picks last now onlyUrgent (a :: l) (some r) := by
  obtain ⟨hmem, hmay, hbest⟩ := h
  exact ⟨.tail _ hmem, hmay, List.forall_mem_cons.mpr ⟨fun _ => hnot, hbest⟩⟩

end

theorem pickReq_picks (l : List ReqAt) : Picks last now onlyUrgent l (pickReq last now onlyUrgent l) := by
  induction l with
  | nil => exact List.forall_mem_nil _
  | cons a l ih =>
    have hskip : (onlyUrgent && !decide (a.2.since + 8 ≤ now)) = true ↔ ¬ a.2.mayTake onlyUrgent now := by
      simp [NarrowReq.mayTake, NarrowReq.urgentAt]
    rw [pickReq]
    dsimp only
    split
    · next h => exact ih.skip (hskip.mp h)
    · next h =>
      have ha := not_not.mp (mt hskip.mpr h)
      revert ih
      cases pickReq last now onlyUrgent l with
      | none => exact fun ih => ih.only ha
      | some r =>
        intro ih
        dsimp only
        by_cases hbefore : a.2.before last now r.2
        · rw [if_pos (better_iff.mpr hbefore)]
          exact ih.better ha hbefore
        · rw [if_neg (mt better_iff.mp hbefore)]
          exact ih.keep hbefore

end

end Sys2Proof.Machine
end

section
/-!
SUPPORT. A cove's error leaves every scratchpad as it is (R341 to R347): it changes registers, queues and logs. What leaves a scratchpad's rows.
-/
namespace Sys2Proof.Machine

/-! The scratchpads through a cove's error. -/

/-- The scratchpad of each cove. -/
def scratchpads : Reading (Nat → Scratchpad) where
  part := .coves
  read s := fun d => (s.cove d).sp
  read_eq _ _ h := funext fun d => congrArg (fun x : Tab Cove => (x.get {} d).sp) h

theorem State.modCove_keepsSp (s : State) (c : Nat) {f : Cove → Cove} (hf : (f (s.cove c)).sp = (s.cove c).sp) :
    Keeps scratchpads s (s.modCove c f) := funext fun d => by
  rcases eq_or_ne d c with rfl | hne
  · exact (congrArg Cove.sp (State.modCove_cove _ _ _)).trans hf
  · exact congrArg Cove.sp (State.modCove_cove_other _ _ hne)

theorem State.modIg_keepsSp (s : State) (c : Nat) (g : Integ → Integ) : Keeps scratchpads s (s.modCove c fun v => v.modIg g) :=
  s.modCove_keepsSp c rfl

theorem Keeps.foldl {α β : Type} {x : Reading α} {s : State} {f : State → β → State} (hf : ∀ t y, Keeps x t (f t y)) (l : List β) {t : State}
    (h : Keeps x s t) : Keeps x s (l.foldl f t) := by
  induction l generalizing t with
  | nil => exact h
  | cons y l ih => exact ih (h.trans (hf _ _))

theorem State.setCoveState_keepsSp (s : State) (c : Nat) (x : CoveState) : Keeps scratchpads s (s.setCoveState c x) :=
  (s.modCove_keepsSp c rfl).step (State.journalCove_only _ _) rfl

theorem State.fenceDone_keepsSp (s : State) (c : Nat) (counted : Bool) (b : Option Nat) : Keeps scratchpads s (s.fenceDone c counted b) := by
  unfold State.fenceDone
  extract_lets watched s1 s2
  have h2 : Keeps scratchpads s s2 := ((s.setCoveState_keepsSp c _).step (State.modCoveTest_only _ _ _) rfl).step (State.modField_only _ _ _) rfl
  split
  · exact .ite (h2.step (State.event_only _ _ _ _) rfl) h2
  · exact h2

theorem State.fenceForced_keepsSp (s : State) (c : Nat) : Keeps scratchpads s (s.fenceForced c) := by
  unfold State.fenceForced
  split
  · exact ((s.fenceDone_keepsSp c _ _).step (State.modCoveTest_only _ _ _) rfl).step (State.rechoose_only _ _) rfl
  · exact ((Keeps.refl _ s).step (State.modCoveTest_only _ _ _) rfl).step (State.askMove_only _ _) rfl

theorem State.fenceCounted_keepsSp (s : State) (c : Nat) : Keeps scratchpads s (s.fenceCounted c) := by
  unfold State.fenceCounted
  extract_lets f s1
  have h1 : Keeps scratchpads s s1 := (Keeps.refl _ s).step (State.modField_only _ _ _) rfl
  exact .ite (h1.trans (State.fenceDone_keepsSp _ _ _ _)) (h1.step (State.askMove_only _ _) rfl)

theorem State.goWatch_keepsSp (s : State) (c : Nat) : Keeps scratchpads s (s.goWatch c) :=
  (((s.setCoveState_keepsSp c _).step (State.modCoveTest_only _ _ _) rfl).step (State.setWatch_only _ _ _) rfl).step (State.logCove_only _ _ _) rfl

theorem State.decideFence_keepsSp (s : State) (f : Nat) (b : Option Nat) : Keeps scratchpads s (s.decideFence f b) := by
  unfold State.decideFence
  extract_lets k
  split
  · exact .refl _ _
  · exact .ite (.foldl State.goWatch_keepsSp _ (s.fenceCounted_keepsSp _)) (.refl _ _)

theorem State.suspect_keepsSp (s : State) (c : Nat) : Keeps scratchpads s (s.suspect c) := by
  unfold State.suspect
  split
  · exact s.fenceForced_keepsSp c
  · extract_lets f s1 s2
    have h2 : Keeps scratchpads s s2 := ((s.setCoveState_keepsSp c _).step (State.modCoveTest_only _ _ _) rfl).step (State.modField_only _ _ _) rfl
    exact .ite (h2.trans (State.decideFence_keepsSp _ _ _)) (h2.trans (State.goWatch_keepsSp _ _))

theorem State.exportRecords_keepsSp (s : State) (c : Nat) : Keeps scratchpads s (s.exportRecords c) := by
  unfold State.exportRecords
  extract_lets mine
  exact Keeps.trans (.foldl (fun t r => (Keeps.refl _ t).step (t.exportRecord_only c r) rfl) _ (.refl _ s)) (State.modCove_keepsSp _ _ rfl)

theorem State.judgeScore_keepsSp (s : State) (c : Nat) : Keeps scratchpads s (s.judgeScore c) := by
  unfold State.judgeScore
  extract_lets x moving
  exact .ite ((s.suspect_keepsSp c).trans (State.exportRecords_keepsSp _ c)) (.refl _ _)

theorem State.chargeWith_keepsSp (s : State) (at_ : Option (Nat × Nat × Nat)) (c : Nat) (code : Code) (note : SigPending → SigPending) :
    Keeps scratchpads s (s.chargeWith at_ c code note) := by
  unfold State.chargeWith
  extract_lets key g now first w carries ev s1 s2 k
  have h1 : Keeps scratchpads s s1 := ((Keeps.refl _ s).step (s.logCove_only _ _) rfl).trans (State.modIg_keepsSp _ _ _)
  have h2 : Keeps scratchpads s s2 := (h1.trans (State.modIg_keepsSp _ _ _)).trans (State.judgeScore_keepsSp _ c)
  clear_value s2 k
  split
  · exact h2.trans (State.modIg_keepsSp _ _ _)
  · exact h1.trans (State.judgeScore_keepsSp _ c)

theorem State.coveErrorIn_keepsSp (s : State) (at_ : Option (Nat × Nat × Nat)) (c : Nat) (code : Code) (note : SigPending → SigPending) :
    Keeps scratchpads s (s.coveErrorIn at_ c code note) := by
  unfold State.coveErrorIn
  split
  · exact (s.chargeWith_keepsSp _ c code note).step (State.blame_only _ _ _ _) rfl
  · exact s.chargeWith_keepsSp _ c code note

theorem State.castFail_keepsSp (s : State) (c n att : Nat) (code : Code) (hw : Bool) : Keeps scratchpads s (s.castFail c n att code hw) := by
  unfold State.castFail
  extract_lets s1
  have h1 : Keeps scratchpads s s1 := s.modCove_keepsSp c rfl
  split
  · exact h1
  · exact h1.step (State.modStep_only _ _ _ _) rfl

theorem State.hwError_keepsSp (s : State) (c : Nat) (code : Code) : Keeps scratchpads s (s.hwError c code) := by
  unfold State.hwError State.hwErrorIn
  split
  · exact (s.coveErrorIn_keepsSp _ c code _).trans (State.castFail_keepsSp _ _ _ _ _ _)
  · exact s.coveErrorIn_keepsSp _ c code _

end Sys2Proof.Machine
end

section
/-!
SUPPORT. A grant of a bank's arbiter (R115, R144 to R146): what the cycle leaves of the cove, and what the granted request does.
-/
namespace Sys2Proof.Machine

/-! The same rows. -/

/-- Contents, parity, remapping and handles are the same. -/
structure SameStore (p q : Scratchpad) : Prop where
  bytes : q.bytes = p.bytes
  spare : q.spare = p.spare
  bad : q.bad = p.bad
  spareBad : q.spareBad = p.spareBad
  remap : q.remap = p.remap
  handles : q.handles = p.handles

theorem SameStore.refl (p : Scratchpad) : SameStore p p := ⟨rfl, rfl, rfl, rfl, rfl, rfl⟩

theorem SameStore.trans {p q r : Scratchpad} (h : SameStore p q) (k : SameStore q r) : SameStore p r :=
  ⟨k.bytes.trans h.bytes, k.spare.trans h.spare, k.bad.trans h.bad, k.spareBad.trans h.spareBad, k.remap.trans h.remap,
    k.handles.trans h.handles⟩

section
variable {p q : Scratchpad} (h : SameStore p q)
include h

theorem SameStore.spareOf (b r : Nat) : q.spareOf b r = p.spareOf b r := by rw [Scratchpad.spareOf, Scratchpad.spareOf, h.remap]

theorem SameStore.row (b r : Nat) : q.row b r = p.row b r := by simp only [Scratchpad.row, h.spareOf, h.bytes, h.spare]

theorem SameStore.rowBad (b r o n : Nat) : q.rowBad b r o n = p.rowBad b r o n := by
  simp only [Scratchpad.rowBad, h.spareOf, h.bad, h.spareBad]

theorem SameStore.handle (k : Nat) : q.handle k = p.handle k := by rw [Scratchpad.handle, Scratchpad.handle, h.handles]

theorem SameStore.write (b r o : Nat) (bs : List Byte) : SameStore (p.write b r o bs) (q.write b r o bs) := by
  unfold Scratchpad.write
  rw [h.spareOf, h.bytes, h.spare, h.bad, h.spareBad]
  split
  · exact ⟨rfl, rfl, rfl, rfl, h.remap, h.handles⟩
  · exact ⟨rfl, rfl, rfl, rfl, h.remap, h.handles⟩

theorem SameStore.spoil (e : HandleEntry) (f : Nat) : SameStore (p.spoil e f) (q.spoil e f) := by
  unfold Scratchpad.spoil
  dsimp only
  rw [h.spareOf, h.bad, h.spareBad]
  split
  · exact ⟨h.bytes, h.spare, rfl, rfl, h.remap, h.handles⟩
  · exact ⟨h.bytes, h.spare, rfl, rfl, h.remap, h.handles⟩

end

theorem SameStore.handleWrite (e : HandleEntry) (bs : List Byte) {p q : Scratchpad} (h : SameStore p q) (f : Nat) :
    SameStore (p.handleWrite e f bs) (q.handleWrite e f bs) := by
  induction bs generalizing p q f with
  | nil => exact h
  | cons x bs ih => exact ih (h.write _ _ _ _) _

theorem SameStore.spoils (e : HandleEntry) (l : List Nat) {p q : Scratchpad} (h : SameStore p q) :
    SameStore (l.foldl (fun p f => p.spoil e f) p) (l.foldl (fun p f => p.spoil e f) q) := by
  induction l generalizing p q with
  | nil => exact h
  | cons f l ih => exact ih (h.spoil e f)

theorem SameStore.deliver {p q : Scratchpad} (h : SameStore p q) (e : HandleEntry) (f : Nat) (bs : List (Byte × Bool)) :
    SameStore (p.deliver e f bs) (q.deliver e f bs) := by
  have hspoils := SameStore.spoils e ((((List.range bs.length).zip bs).filter fun x => x.2.2).map fun x => f + x.1)
    (h.handleWrite e (bs.map Prod.fst) f)
  rw [List.foldl_map, List.foldl_map] at hspoils
  exact hspoils

/-! What an arbiter's cycle leaves. -/

/-- Of cove `c` nothing but counters of the breaker and, of the scratchpad, neither contents nor handles differ; nothing elsewhere. -/
structure ArbiterStep (s : State) (c : Nat) (t : State) : Prop where
  only : ChangesOnly [.coves] s t
  others : ∀ d, d ≠ c → t.cove d = s.cove d
  cores : (t.cove c).cores = (s.cove c).cores
  net : (t.cove c).net = (s.cove c).net
  store : SameStore (s.cove c).sp (t.cove c).sp

theorem ArbiterStep.refl (s : State) (c : Nat) : ArbiterStep s c s := ⟨.refl _ _, fun _ _ => rfl, rfl, rfl, .refl _⟩

section
variable {s t : State} {c : Nat} (h : ArbiterStep s c t)
include h

theorem ArbiterStep.modCove (f : Cove → Cove) (hcores : (f (t.cove c)).cores = (t.cove c).cores) (hnet : (f (t.cove c)).net = (t.cove c).net)
    (hstore : SameStore (t.cove c).sp (f (t.cove c)).sp) : ArbiterStep s c (t.modCove c f) := by
  refine ⟨h.only.trans (t.modCove_only c f), fun d hd => (State.modCove_cove_other _ _ hd).trans (h.others d hd), ?_, ?_, ?_⟩
  all_goals rw [State.modCove_cove]
  · exact hcores.trans h.cores
  · exact hnet.trans h.net
  · exact h.store.trans hstore

theorem ArbiterStep.modSp {f : Scratchpad → Scratchpad} (hf : SameStore (t.cove c).sp (f (t.cove c).sp)) :
    ArbiterStep s c (t.modCove c fun v => v.modSp f) := h.modCove _ rfl rfl hf

theorem ArbiterStep.core (k : CoreRef) : t.core k = s.core k := by
  unfold State.core
  rcases eq_or_ne k.cove.val c with rfl | hne
  · exact congrArg (fun x => x.get {} k.core) h.cores
  · rw [h.others _ hne]

theorem ArbiterStep.cycles (d : Nat) : t.cycles d = s.cycles d := by
  have hclk : t.clk = s.clk := h.only .clk rfl
  rw [State.cycles, State.cycles, State.half, State.half, hclk]

theorem ArbiterStep.stepsAt (d : Nat) : t.stepsAt d = s.stepsAt d := State.stepsAt_congr (h.only .rot rfl) (h.only .bays rfl) d

end

/-! The cycle (R144, R145). -/

/-- The candidates of a bank: presented, in the bank, and of a store one that may be written. -/
def Scratchpad.candidates (p : Scratchpad) (t : Steps) (bank : Nat) : List ReqAt :=
  (presented ((List.range p.reqs.length).zip p.reqs) []).filter fun q =>
    let e := p.handle q.2.handle.toNat
    (e.place (q.2.off / 64)).1 == bank && (!q.2.write || q.2.core == 16 || t.judge e q.2.step != .stall)

/-- Request `q` at place `i` is a candidate of the bank. -/
def Scratchpad.Candidate (p : Scratchpad) (t : Steps) (bank i : Nat) (q : NarrowReq) : Prop :=
  Oldest p.reqs i q ∧ ((p.handle q.handle.toNat).place (q.off / 64)).1 = bank
    ∧ (q.write = false ∨ q.core = 16 ∨ t.judge (p.handle q.handle.toNat) q.step ≠ .stall)

theorem mem_candidates_iff {p : Scratchpad} {t : Steps} {bank i : Nat} {q : NarrowReq} :
    (i, q) ∈ p.candidates t bank ↔ p.Candidate t bank i q := by
  rw [Scratchpad.candidates, List.mem_filter, mem_presented_places, Scratchpad.Candidate]
  simp [or_assoc]

/-- The cycle's counts are made. -/
def State.arbiterCounts (s : State) (c bank n : Nat) : State :=
  if n = 0 then s else s.modCove c fun v => v.modSp fun p => { p with conflict := bump p.conflict bank n }

/-- The feed loses the cycle. -/
def State.arbiterLoses (s : State) (c : Nat) (feed : Bool) : State :=
  if feed then s.modCove c fun v => v.modBrk fun b => b.loseCycles 1 else s

/-- An urgent grant in a cycle with a row of the feed is counted. -/
def State.arbiterUrgent (s : State) (c : Nat) (counts : Bool) : State :=
  if counts then s.modCove c fun v => v.modSp fun p => { p with urgent := satAdd32 p.urgent 1 } else s

theorem exec_narrowGrant_eq (c : Fin 800) (bank : Fin 16) (drain feed : Bool) (s : State) :
    let here := (s.cove c).sp.candidates (s.stepsAt c).1 bank
    exec (.scratchpadNarrowGrant c bank drain feed) s =
      if drain then .next ((s.arbiterCounts c bank (here.length + if feed then 1 else 0)).arbiterLoses c feed)
      else match pickReq (s.cove c).sp.lastReq (s.cycles c) feed here with
        | none => .next (s.arbiterCounts c bank here.length)
        | some q => .next ((((s.arbiterCounts c bank (here.length - 1 + if feed then 1 else 0)).arbiterUrgent c
            (decide (q.2.since + 8 ≤ s.cycles c) && feed)).arbiterLoses c feed).grant c q) := rfl

/-- The requests stand as they did too. -/
def Arbiter (s : State) (c : Nat) (t : State) : Prop := ArbiterStep s c t ∧ (t.cove c).sp.reqs = (s.cove c).sp.reqs

section
variable {s t : State} {c : Nat} (h : Arbiter s c t)
include h

theorem Arbiter.counts (bank n : Nat) : Arbiter s c (t.arbiterCounts c bank n) := by
  obtain ⟨hstep, hreqs⟩ := h
  unfold State.arbiterCounts
  split
  · exact ⟨hstep, hreqs⟩
  · refine ⟨hstep.modSp ⟨rfl, rfl, rfl, rfl, rfl, rfl⟩, ?_⟩
    rw [State.modCove_cove]
    exact hreqs

theorem Arbiter.urgent (counts : Bool) : Arbiter s c (t.arbiterUrgent c counts) := by
  obtain ⟨hstep, hreqs⟩ := h
  unfold State.arbiterUrgent
  split
  · refine ⟨hstep.modSp ⟨rfl, rfl, rfl, rfl, rfl, rfl⟩, ?_⟩
    rw [State.modCove_cove]
    exact hreqs
  · exact ⟨hstep, hreqs⟩

theorem Arbiter.loses (feed : Bool) : Arbiter s c (t.arbiterLoses c feed) := by
  obtain ⟨hstep, hreqs⟩ := h
  unfold State.arbiterLoses
  split
  · refine ⟨hstep.modCove _ rfl rfl (.refl _), ?_⟩
    rw [State.modCove_cove]
    exact hreqs
  · exact ⟨hstep, hreqs⟩

end

theorem Arbiter.refl (s : State) (c : Nat) : Arbiter s c s := ⟨.refl _ _, rfl⟩

section
variable {s : State} {c : Fin 800} {bank : Fin 16} {feed : Bool}

/-- With the drain no request leaves. -/
theorem narrowGrant_drain : ∃ t, exec (.scratchpadNarrowGrant c bank true feed) s = .next t ∧ Arbiter s c t :=
  ⟨_, exec_narrowGrant_eq c bank true feed s, ((Arbiter.refl s c).counts _ _).loses _⟩

/-- The request may take the bank in this cycle. -/
def State.MayTake (s : State) (c : Nat) (bank : Nat) (feed : Bool) (i : Nat) (q : NarrowReq) : Prop :=
  (s.cove c).sp.Candidate (s.stepsAt c).1 bank i q ∧ q.mayTake feed (s.cycles c)

theorem narrowGrant_none (h : ∀ i q, ¬ s.MayTake c bank feed i q) :
    ∃ t, exec (.scratchpadNarrowGrant c bank false feed) s = .next t ∧ Arbiter s c t := by
  have hpicks := pickReq_picks (last := (s.cove c).sp.lastReq) (now := s.cycles c) (onlyUrgent := feed)
    ((s.cove c).sp.candidates (s.stepsAt c).1 bank)
  have hexec := exec_narrowGrant_eq c bank false feed s
  dsimp only at hexec
  rw [if_neg (by decide)] at hexec
  revert hpicks hexec
  generalize pickReq _ _ _ _ = o
  cases o with
  | none => exact fun _ hexec => ⟨_, hexec, (Arbiter.refl s c).counts _ _⟩
  | some y => exact fun ⟨hmem, hmay, _⟩ _ => absurd ⟨mem_candidates_iff.mp hmem, hmay⟩ (h y.1 y.2)

/-- Where a candidate may take the bank, one that no other precedes is granted. -/
theorem narrowGrant_some (h : ∃ i q, s.MayTake c bank feed i q) :
    ∃ i q u, exec (.scratchpadNarrowGrant c bank false feed) s = .next (u.grant c (i, q)) ∧ Arbiter s c u ∧ s.MayTake c bank feed i q
      ∧ ∀ j x, s.MayTake c bank feed j x → ¬ x.before (s.cove c).sp.lastReq (s.cycles c) q := by
  have hpicks := pickReq_picks (last := (s.cove c).sp.lastReq) (now := s.cycles c) (onlyUrgent := feed)
    ((s.cove c).sp.candidates (s.stepsAt c).1 bank)
  have hexec := exec_narrowGrant_eq c bank false feed s
  dsimp only at hexec
  rw [if_neg (by decide)] at hexec
  revert hpicks hexec
  generalize pickReq _ _ _ _ = o
  cases o with
  | none =>
    intro hnone
    obtain ⟨i, q, hcand, hmay⟩ := h
    exact absurd hmay (hnone _ (mem_candidates_iff.mpr hcand))
  | some y =>
    rintro ⟨hmem, hmay, hbest⟩ hexec
    exact ⟨y.1, y.2, _, hexec, (((Arbiter.refl s c).counts _ _).urgent _).loses _, ⟨mem_candidates_iff.mp hmem, hmay⟩,
      fun j x ⟨hcand, hmay⟩ => hbest _ (mem_candidates_iff.mpr hcand) hmay⟩

end

end Sys2Proof.Machine
end

section
/-!
SUPPORT. What a granted request does (R115, R134, R144 to R146): a store, a load, a load of a byte with bad parity, and the DMA engine's rows.
-/
namespace Sys2Proof.Machine

section
variable {s u : State} {c : Fin 800} {i : Nat} {q : NarrowReq}

/-- The request leaves; the next one of its core begins to wait. -/
def State.granted (u : State) (c i : Nat) (q : NarrowReq) : State := u.modCove c fun v => v.modSp fun p => p.granted i q (u.cycles c)

section
variable (hu : Arbiter s c u)
include hu

theorem granted_step : ArbiterStep s c (u.granted c i q) := hu.1.modSp ⟨rfl, rfl, rfl, rfl, rfl, rfl⟩

theorem granted_reqs (hcore : q.core < 16) :
    ((u.granted c i q).cove c).sp.reqs =
      presentNext q.core (s.cycles c) ((s.cove c).sp.reqs.take i ++ (s.cove c).sp.reqs.drop (i + 1)) := by
  obtain ⟨hstep, hreqs⟩ := hu
  have htaken : q.size ≤ q.taken := by
    rw [NarrowReq.taken, if_neg (by omega)]
  rw [State.granted, State.modCove_cove, Cove.modSp_sp, Scratchpad.granted]
  dsimp only
  rw [if_pos htaken, List.append_nil, hreqs, hstep.cycles]

end

/-- The request of a core: a store of a drain step, another store, a load of bad bytes, a load. -/
theorem grant_core (hcore : q.core ≠ 16) :
    let p := (u.cove c).sp
    let r := (p.handle q.handle.toNat).place (q.off / 64)
    u.grant c (i, q) =
      if q.write ∧ (u.stepsAt c).1.isDrain q.step then u.granted c i q
      else if q.write then (u.granted c i q).modCove c fun v => v.modSp fun p => p.write r.1 r.2 (q.off % 64) ((bytesOfRow q.data).take q.size)
      else if p.rowBad r.1 r.2 (q.off % 64) q.size then
        ((u.granted c i q).modCove c fun v => (v.noteParity r.1 r.2 1 u.clk.elapsed).dropReqs q.core).exceptionAt
          ⟨Fin.ofNat 800 c, Fin.ofNat 16 q.core⟩ 0x5020 q.pc
      else
        let bs := ((p.row r.1 r.2).drop (q.off % 64)).take q.size
        (u.granted c i q).modCore ⟨Fin.ofNat 800 c, Fin.ofNat 16 q.core⟩ fun k =>
          if q.vec then k.wv q.rt.toNat (rowOfBytes bs)
          else (k.wg q.rt (BitVec.ofNat 32 (leNat (bs.take 4)))).wg (q.rt + 1) (BitVec.ofNat 32 (leNat (bs.drop 4))) :=
  if_neg hcore

theorem grant_engine (hcore : q.core = 16) : u.grant c (i, q) = (u.granted c i q).engineGrant c q := if_pos hcore

/-! Stores and loads. -/

/-- Nothing but cove `c` differs, and there no core. -/
def CoresKept (s : State) (c : Nat) (t : State) : Prop :=
  ChangesOnly [.coves] s t ∧ (∀ d, d ≠ c → t.cove d = s.cove d) ∧ ∀ k, t.core k = s.core k

theorem ArbiterStep.coresKept {t : State} (h : ArbiterStep s c t) : CoresKept s c t := ⟨h.only, h.others, h.core⟩

theorem ArbiterStep.coresKept_modCove {t : State} (h : ArbiterStep s c t) {f : Cove → Cove} (hf : (f (t.cove c)).cores = (t.cove c).cores) :
    CoresKept s c (t.modCove c f) :=
  ⟨h.only.trans (t.modCove_only c f), fun d hd => (State.modCove_cove_other _ _ hd).trans (h.others d hd),
    fun k => (State.core_modCove hf k).trans (h.core k)⟩

section
variable {bank row : Nat} (hu : Arbiter s c u) (hcore : q.core < 16)
  (hplace : ((s.cove c).sp.handle q.handle.toNat).place (q.off / 64) = (bank, row))
include hu hcore hplace

theorem grant_store (hwrite : q.write = true) :
    let p := (s.cove c).sp
    let t := u.grant c (i, q)
    CoresKept s c t ∧ (t.cove c).sp.reqs = presentNext q.core (s.cycles c) (p.reqs.take i ++ p.reqs.drop (i + 1))
      ∧ ∀ b k, (t.cove c).sp.row b k =
          (if (s.stepsAt c).1.isDrain q.step then p else p.write bank row (q.off % 64) ((bytesOfRow q.data).take q.size)).row b k := by
  intro p t
  have hstep := granted_step (i := i) (q := q) hu
  have hreqs := granted_reqs (i := i) hu hcore
  have hr : ((u.cove c).sp.handle q.handle.toNat).place (q.off / 64) = (bank, row) := by rw [hu.1.store.handle, hplace]
  have hgrant : t = _ := grant_core (u := u) (c := c) (i := i) (by omega)
  dsimp only at hgrant
  rw [hr, hu.1.stepsAt, hwrite] at hgrant
  cases hdrain : (s.stepsAt c).1.isDrain q.step with
  | true =>
    rw [if_pos ⟨rfl, hdrain⟩] at hgrant
    rw [hgrant]
    exact ⟨hstep.coresKept, hreqs, hstep.store.row⟩
  | false =>
    rw [if_neg (by simp [hdrain]), if_pos rfl] at hgrant
    rw [hgrant]
    refine ⟨hstep.coresKept_modCove rfl, ?_, ?_⟩ <;> rw [State.modCove_cove, Cove.modSp_sp]
    · rw [← hreqs, Scratchpad.write]
      split <;> rfl
    · exact (hstep.store.write _ _ _ _).row

section
variable (hload : q.write = false)
include hload

theorem grant_load (hgood : (s.cove c).sp.rowBad bank row (q.off % 64) q.size = false) :
    let p := (s.cove c).sp
    let core : CoreRef := ⟨c, Fin.ofNat 16 q.core⟩
    let bytes := ((p.row bank row).drop (q.off % 64)).take q.size
    let t := u.grant c (i, q)
    ChangesOnly [.coves] s t ∧ (∀ d, d ≠ c.val → t.cove d = s.cove d) ∧ (∀ k, k ≠ core → t.core k = s.core k)
      ∧ (t.cove c).sp.reqs = presentNext q.core (s.cycles c) (p.reqs.take i ++ p.reqs.drop (i + 1))
      ∧ (∀ b k, (t.cove c).sp.row b k = p.row b k)
      ∧ t.core core = if q.vec then (s.core core).wv q.rt.toNat (rowOfBytes bytes)
          else ((s.core core).wg q.rt (BitVec.ofNat 32 (leNat (bytes.take 4)))).wg (q.rt + 1) (BitVec.ofNat 32 (leNat (bytes.drop 4))) := by
  intro p core bytes t
  have hstep := granted_step (i := i) (q := q) hu
  have hreqs := granted_reqs (i := i) hu hcore
  have hr : ((u.cove c).sp.handle q.handle.toNat).place (q.off / 64) = (bank, row) := by rw [hu.1.store.handle, hplace]
  have hcove : (⟨Fin.ofNat 800 c, Fin.ofNat 16 q.core⟩ : CoreRef) = core := by rw [Fin.ofNat_val_eq_self]
  have hgrant : t = _ := grant_core (u := u) (c := c) (i := i) (by omega)
  dsimp only at hgrant
  rw [hr, hload, if_neg (by simp), if_neg (by simp), hu.1.store.rowBad, hgood, if_neg (by simp), hcove, hu.1.store.row] at hgrant
  rw [hgrant]
  refine ⟨hstep.only.trans (State.modCove_only _ _ _), fun d hd => (State.modCove_cove_other _ _ hd).trans (hstep.others d hd),
    fun k hk => ?_, ?_, ?_, ?_⟩
  · refine (State.modCore_core_other _ _ ?_).trans (hstep.core k)
    by_contra hsame
    obtain ⟨hc, hk'⟩ := not_or.mp hsame
    exact hk (congrArg₂ CoreRef.mk (not_not.mp hc) (not_not.mp hk'))
  · rw [State.modCore, State.modCove_cove]
    exact hreqs
  · rw [State.modCore, State.modCove_cove]
    exact hstep.store.row
  · rw [State.modCore_core, hstep.core]

theorem grant_badLoad (hbad : (s.cove c).sp.rowBad bank row (q.off % 64) q.size = true) :
    ∃ t, u.grant c (i, q) = t.exceptionAt ⟨c, Fin.ofNat 16 q.core⟩ 0x5020 q.pc ∧ CoresKept s c t
      ∧ (∀ x ∈ (t.cove c).sp.reqs, x.core ≠ q.core) ∧ ∀ b k, (t.cove c).sp.row b k = (s.cove c).sp.row b k := by
  have hstep := granted_step (i := i) (q := q) hu
  have hcove : (⟨Fin.ofNat 800 c, Fin.ofNat 16 q.core⟩ : CoreRef) = ⟨c, Fin.ofNat 16 q.core⟩ := by rw [Fin.ofNat_val_eq_self]
  have hgrant := grant_core (u := u) (c := c) (i := i) (q := q) (by omega)
  dsimp only at hgrant
  rw [hu.1.store.handle, hplace, hload, if_neg (by simp), if_neg (by simp), hu.1.store.rowBad, hbad, if_pos rfl, hcove] at hgrant
  refine ⟨_, hgrant, hstep.coresKept_modCove rfl, fun x hx => ?_, ?_⟩
  · rw [State.modCove_cove] at hx
    obtain ⟨-, hx⟩ := List.mem_filter.mp hx
    simpa using hx
  · rw [State.modCove_cove]
    exact (hstep.store.trans ⟨rfl, rfl, rfl, rfl, rfl, rfl⟩).row

end
end
end

/-! The DMA engine (R144, R146, R241). -/

theorem State.modNet_keepsSp (s : State) (c : Nat) (f : Net → Net) : Keeps scratchpads s (s.modCove c fun v => v.modNet f) :=
  s.modCove_keepsSp c rfl

theorem State.intoRing_keepsSp (s : State) (c : Nat) (w : Injection) : Keeps scratchpads s (s.intoRing c w) := by
  rw [State.intoRing]
  split
  · exact s.modNet_keepsSp c _
  · exact s.modNet_keepsSp c _

theorem State.post_keepsSp (s : State) (c : Nat) (w : Injection) : Keeps scratchpads s (s.post c w) := by
  rw [State.post, State.enter]
  refine .foldl (fun t w => ?_) _ ((s.modNet_keepsSp c _).trans (State.modNet_keepsSp _ _ _))
  split
  · exact t.modNet_keepsSp c _
  · exact t.intoRing_keepsSp c w

theorem State.putDma_keepsSp (s : State) (c : Nat) (d : Dma) : Keeps scratchpads s (s.putDma c d) := s.modNet_keepsSp c _

theorem State.sendRead_keepsSp (s : State) (c n : Nat) (d : Dma) : Keeps scratchpads s (s.sendRead c n d) := by
  induction n generalizing s d with
  | zero => exact s.putDma_keepsSp c d
  | succ n ih =>
    rw [State.sendRead]
    extract_lets
    exact .ite (s.putDma_keepsSp c d) ((s.post_keepsSp c _).trans (ih _ _))

theorem Keeps.sp {s t : State} (h : Keeps scratchpads s t) (c : Nat) : (t.cove c).sp = (s.cove c).sp := congrFun h c

theorem Keeps.sameStore {s t : State} (h : Keeps scratchpads s t) (c : Nat) : SameStore (s.cove c).sp (t.cove c).sp := h.sp c ▸ .refl _

theorem State.rowParity_sameStore (s : State) (c bank row : Nat) (reader : BitVec 3) :
    SameStore (s.cove c).sp ((s.rowParity c bank row reader).cove c).sp := by
  have hnote : SameStore (s.cove c).sp ((s.modCove c fun v => v.noteParity bank row reader s.clk.elapsed).cove c).sp := by
    rw [State.modCove_cove]
    exact ⟨rfl, rfl, rfl, rfl, rfl, rfl⟩
  exact hnote.trans ((State.hwError_keepsSp _ c _).sameStore c)

theorem Scratchpad.dmaRows_sameStore (p : Scratchpad) (handle f n : Nat) (write : Bool) (now step : Nat) (dma : Option (BitVec 16)) :
    SameStore p (p.dmaRows handle f n write now step dma) := by
  unfold Scratchpad.dmaRows
  split
  · exact .refl _
  · exact ⟨rfl, rfl, rfl, rfl, rfl, rfl⟩

/-- The transfer whose bytes a request of the engine moves. -/
def Net.moving (n : Net) (q : NarrowReq) : Option Dma := n.dma.find? fun d => some d.seq == q.dma && d.started && !d.done

/-- A read of the engine changes no byte. -/
theorem engineGrant_read (t : State) (c : Nat) {q : NarrowReq} (hread : q.write = false) :
    SameStore (t.cove c).sp ((t.engineGrant c q).cove c).sp := by
  unfold State.engineGrant
  split
  · exact .refl _
  · next d _ =>
    extract_lets x p e d0 s0 bs d1 r s1
    rw [if_neg (by simp [hread])]
    have h1 : SameStore (t.cove c).sp (s1.cove c).sp := by
      by_cases hbad : bs.any Prod.snd = true
      · rw [show s1 = t.rowParity c r.1 r.2 2 from if_pos hbad]
        exact t.rowParity_sameStore c _ _ _
      · rw [show s1 = t from if_neg hbad]
        exact .refl _
    split
    · exact h1.trans ((State.sendRead_keepsSp _ c 2 _).sameStore c)
    · have hput := h1.trans ((s1.putDma_keepsSp c d1).sameStore c)
      split
      · rw [State.modCove_cove]
        exact hput.trans (Scratchpad.dmaRows_sameStore _ _ _ _ _ _ _ _)
      · exact hput

/-- A write of the engine, of no drain step, puts the next bytes of its transfer there. -/
theorem engineGrant_write (t : State) (c : Nat) {q : NarrowReq} {d : Dma} (hwrite : q.write = true)
    (hdrain : (t.stepsAt c).1.isDrain q.step = false) (hfind : (t.cove c).net.moving q = some d) :
    ((t.engineGrant c q).cove c).sp =
      (t.cove c).sp.deliver ((t.cove c).sp.handle q.handle.toNat) q.off (d.buf.take q.taken) := by
  unfold State.engineGrant
  rw [show (t.cove c).net.dma.find? _ = some d from hfind]
  dsimp only
  rw [if_pos hwrite, hdrain, if_neg (by decide), (State.putDma_keepsSp _ c _).sp, State.modCove_cove, Cove.modSp_sp]

section
variable {s u : State} {c : Fin 800} {i : Nat} {q : NarrowReq} (hu : Arbiter s c u) (hcore : q.core = 16)
include hu hcore

theorem grant_engineRead (hread : q.write = false) (b k : Nat) : ((u.grant c (i, q)).cove c).sp.row b k = (s.cove c).sp.row b k := by
  rw [grant_engine hcore]
  exact ((granted_step hu).store.trans (engineGrant_read _ _ hread)).row b k

theorem grant_engineWrite {d : Dma} (hwrite : q.write = true) (hdrain : (s.stepsAt c).1.isDrain q.step = false)
    (hfind : (s.cove c).net.moving q = some d) (b k : Nat) :
    ((u.grant c (i, q)).cove c).sp.row b k =
      ((s.cove c).sp.deliver ((s.cove c).sp.handle q.handle.toNat) q.off (d.buf.take (min (64 - q.off % 64) q.size))).row b k := by
  have hstep := granted_step (i := i) (q := q) hu
  have htaken : q.taken = min (64 - q.off % 64) q.size := by rw [NarrowReq.taken, if_pos hcore]
  rw [grant_engine hcore, engineGrant_write _ _ hwrite (by rw [hstep.stepsAt, hdrain]) (by rw [hstep.net, hfind]), htaken, hstep.store.handle]
  exact (hstep.store.deliver _ _ _).row b k

end

/-- The general registers of a load of 8 bytes. -/
theorem PCore.rg_wg_pair (k : PCore) {rt : BitVec 5} (heven : rt.getLsbD 0 = false) (a b : Word) :
    (rt ≠ 0 → ((k.wg rt a).wg (rt + 1) b).rg rt = a) ∧ ((k.wg rt a).wg (rt + 1) b).rg (rt + 1) = b := by
  have hne : rt ≠ rt + 1 := by bv_omega
  have hnext : rt + 1 ≠ 0 := fun h => by
    rw [show rt = 31 by bv_omega] at heven
    exact absurd heven (by decide)
  refine ⟨fun h => ?_, ?_⟩
  · rw [PCore.rg_wg, if_neg fun h => hne h.1, PCore.rg_wg, if_pos ⟨rfl, h⟩]
  · rw [PCore.rg_wg, if_pos ⟨rfl, hnext⟩]

/-- Settles O7: the arbiter's pick is `narrowGrant_some`, what the granted request does the lemma of its kind. -/
theorem scratchpadGrantTakesEffect : Obligations.ScratchpadGrantTakesEffect := by
  unfold Obligations.ScratchpadGrantTakesEffect
  intro s c bank feed sp now urgent candidate may precedes
  have hmay (i : Nat) (q : NarrowReq) : may i q ↔ s.MayTake c bank feed i q := by
    simp only [may, candidate, State.MayTake, Scratchpad.Candidate, Oldest, NarrowReq.mayTake, NarrowReq.urgentAt, urgent, and_assoc]
    rfl
  refine ⟨fun ⟨i, q, h⟩ => ?_, fun h => ?_, ?_⟩
  · obtain ⟨i, q, u, hexec, hu, hpicked, hbest⟩ := narrowGrant_some ⟨i, q, (hmay i q).mp h⟩
    refine ⟨i, q, _, hexec, (hmay i q).mpr hpicked, fun j x hx => hbest j x ((hmay j x).mp hx), ?_⟩
    intro row core bytes
    obtain ⟨⟨-, hbank, -⟩, -⟩ := hpicked
    have hplace : (sp.handle q.handle.toNat).place (q.off / 64) = (bank.val, row) := Prod.ext hbank rfl
    refine ⟨fun hcore hgood => ?_, fun hcore hwrite => ?_, fun hcore hwrite hdrain d hfind => ?_, fun hcore hread => ?_,
      fun hcore hload hgood => ?_, fun hcore hload hbad => ?_⟩
    · cases hwrite : q.write with
      | true => exact (grant_store hu hcore hplace hwrite).2.1
      | false =>
        obtain ⟨-, -, -, hreqs, -, -⟩ := grant_load (i := i) hu hcore hplace hwrite (hgood.resolve_left (by simp [hwrite]))
        exact hreqs
    · obtain ⟨⟨honly, hothers, hcores⟩, -, hrows⟩ := grant_store (i := i) hu hcore hplace hwrite
      exact ⟨honly, hothers, hcores, hrows⟩
    · exact grant_engineWrite hu hcore hwrite hdrain hfind
    · exact grant_engineRead hu hcore hread
    · obtain ⟨honly, hothers, hcores, -, hrows, hregs⟩ := grant_load (i := i) hu hcore hplace hload hgood
      refine ⟨honly, hothers, hcores, hrows, fun hvec => ?_, fun hvec heven => ?_⟩
      · rw [hregs, hvec, if_pos rfl, PCore.rv_wv, if_pos rfl]
      · rw [hregs, hvec, if_neg (by decide)]
        exact PCore.rg_wg_pair _ heven _ _
    · obtain ⟨t, hgrant, ⟨honly, -, hcores⟩, hdropped, hrows⟩ := grant_badLoad (i := i) hu hcore hplace hload hbad
      exact ⟨t, hgrant, honly, hcores, hdropped, hrows⟩
  · obtain ⟨t, hexec, hstep, hreqs⟩ := narrowGrant_none fun i q hq => h i q ((hmay i q).mpr hq)
    exact ⟨t, hexec, hreqs, hstep.only, hstep.store.row⟩
  · obtain ⟨t, hexec, hstep, hreqs⟩ := narrowGrant_drain (s := s) (c := c) (bank := bank) (feed := feed)
    exact ⟨t, hexec, hreqs, hstep.only, hstep.store.row⟩

end Sys2Proof.Machine
end

section
/-!
SUPPORT. A cove's error and its fence change nothing of a cove beside its integrity unit (R341 to R347, R365 to R368).
-/
namespace Sys2Proof.Machine

/-- Each cove, its integrity unit left out. -/
def coveBodies : Reading (Nat → Cove) where
  part := .coves
  read s := fun d => { s.cove d with ig := {} }
  read_eq _ _ h := funext fun d => congrArg (fun x : Tab Cove => { x.get {} d with ig := {} }) h

theorem Keeps.bodySp {s t : State} (h : Keeps coveBodies s t) (c : Nat) : (t.cove c).sp = (s.cove c).sp :=
  (congrArg Cove.sp (congrFun h c) :)

theorem Keeps.bodySpx {s t : State} (h : Keeps coveBodies s t) (c : Nat) : (t.cove c).spx = (s.cove c).spx :=
  (congrArg Cove.spx (congrFun h c) :)

theorem State.modIg_keepsBodies (s : State) (c : Nat) (g : Integ → Integ) : Keeps coveBodies s (s.modCove c fun v => v.modIg g) := funext fun d => by
  rcases eq_or_ne d c with rfl | hne
  · exact congrArg (fun v : Cove => { v with ig := {} }) (State.modCove_cove _ _ _)
  · exact congrArg (fun v : Cove => { v with ig := {} }) (State.modCove_cove_other _ _ hne)

theorem State.setCoveState_keepsBodies (s : State) (c : Nat) (x : CoveState) : Keeps coveBodies s (s.setCoveState c x) :=
  (s.modIg_keepsBodies c _).step (State.journalCove_only _ _) rfl

theorem State.fenceDone_keepsBodies (s : State) (c : Nat) (counted : Bool) (b : Option Nat) : Keeps coveBodies s (s.fenceDone c counted b) := by
  unfold State.fenceDone
  extract_lets watched s1 s2
  have h2 : Keeps coveBodies s s2 := ((s.setCoveState_keepsBodies c _).step (State.modCoveTest_only _ _ _) rfl).step (State.modField_only _ _ _) rfl
  split
  · exact .ite (h2.step (State.event_only _ _ _ _) rfl) h2
  · exact h2

theorem State.fenceForced_keepsBodies (s : State) (c : Nat) : Keeps coveBodies s (s.fenceForced c) := by
  unfold State.fenceForced
  split
  · exact ((s.fenceDone_keepsBodies c _ _).step (State.modCoveTest_only _ _ _) rfl).step (State.rechoose_only _ _) rfl
  · exact (Keeps.of_only (State.modCoveTest_only _ _ _) rfl).step (State.askMove_only _ _) rfl

theorem State.fenceTested_keepsBodies (s : State) (c : Nat) : Keeps coveBodies s (s.fenceTested c) := .ite (.refl _ s) (s.fenceForced_keepsBodies c)

theorem State.fenceCounted_keepsBodies (s : State) (c : Nat) : Keeps coveBodies s (s.fenceCounted c) := by
  unfold State.fenceCounted
  extract_lets f s1
  have h1 : Keeps coveBodies s s1 := .of_only (State.modField_only _ _ _) rfl
  exact .ite (h1.trans (State.fenceDone_keepsBodies _ _ _ _)) (h1.step (State.askMove_only _ _) rfl)

theorem State.goWatch_keepsBodies (s : State) (c : Nat) : Keeps coveBodies s (s.goWatch c) :=
  (((s.setCoveState_keepsBodies c _).step (State.modCoveTest_only _ _ _) rfl).step (State.setWatch_only _ _ _) rfl).step (State.logCove_only _ _ _) rfl

theorem State.decideFence_keepsBodies (s : State) (f : Nat) (b : Option Nat) : Keeps coveBodies s (s.decideFence f b) := by
  unfold State.decideFence
  extract_lets k
  split
  · exact .refl _ _
  · exact .ite (.foldl State.goWatch_keepsBodies _ (s.fenceCounted_keepsBodies _)) (.refl _ _)

theorem State.suspect_keepsBodies (s : State) (c : Nat) : Keeps coveBodies s (s.suspect c) := by
  unfold State.suspect
  split
  · exact s.fenceForced_keepsBodies c
  · extract_lets f s1 s2
    have h2 : Keeps coveBodies s s2 := ((s.setCoveState_keepsBodies c _).step (State.modCoveTest_only _ _ _) rfl).step (State.modField_only _ _ _) rfl
    exact .ite (h2.trans (State.decideFence_keepsBodies _ _ _)) (h2.trans (State.goWatch_keepsBodies _ _))

theorem State.exportRecords_keepsBodies (s : State) (c : Nat) : Keeps coveBodies s (s.exportRecords c) := by
  unfold State.exportRecords
  extract_lets mine
  exact Keeps.trans (.foldl (fun t r => .of_only (t.exportRecord_only c r) rfl) _ (.refl _ s)) (State.modIg_keepsBodies _ _ _)

theorem State.judgeScore_keepsBodies (s : State) (c : Nat) : Keeps coveBodies s (s.judgeScore c) := by
  unfold State.judgeScore
  extract_lets x moving
  exact .ite ((s.suspect_keepsBodies c).trans (State.exportRecords_keepsBodies _ c)) (.refl _ _)

theorem State.chargeWith_keepsBodies (s : State) (at_ : Option (Nat × Nat × Nat)) (c : Nat) (code : Code) (note : SigPending → SigPending) :
    Keeps coveBodies s (s.chargeWith at_ c code note) := by
  unfold State.chargeWith
  extract_lets key g now first w carries ev s1 s2 k
  have h1 : Keeps coveBodies s s1 := (Keeps.of_only (s.logCove_only _ _) rfl).trans (State.modIg_keepsBodies _ _ _)
  have h2 : Keeps coveBodies s s2 := (h1.trans (State.modIg_keepsBodies _ _ _)).trans (State.judgeScore_keepsBodies _ c)
  clear_value s2 k
  exact .ite (h2.trans (State.modIg_keepsBodies _ _ _)) (h1.trans (State.judgeScore_keepsBodies _ c))

theorem State.charge_keepsBodies (s : State) (c : Nat) (code : Code) : Keeps coveBodies s (s.charge c code) := s.chargeWith_keepsBodies _ c code _

theorem State.requalify_keepsBodies (s : State) (c : Nat) (k : FieldTest) (clean : Bool) : Keeps coveBodies s (s.requalify c k clean) := by
  unfold State.requalify
  extract_lets g now
  have hrefl : Keeps coveBodies s s := .refl _ s
  have hrecord (f : CoveTest → CoveTest) : Keeps coveBodies s (s.modCoveTest c f) := .of_only (State.modCoveTest_only _ _ _) rfl
  have hjournal (f : CoveTest → CoveTest) : Keeps coveBodies s ((s.modCoveTest c f).journalCove c) := (hrecord f).step (State.journalCove_only _ _) rfl
  exact .ite hrefl (.ite (.ite (s.setCoveState_keepsBodies c _) hrefl) (.ite (.ite (hjournal _) (.ite (hjournal _)
    (.ite ((hrecord _).trans (State.setCoveState_keepsBodies _ _ _)) hrefl))) hrefl))

end Sys2Proof.Machine
end

section
/-!
SUPPORT. The rotation's books (R359 to R364): what leaves the tests under way and the reports of the tests that ended.
-/
namespace Sys2Proof.Machine

/-- The cove that each field has under test with its phase, and the outcome and end of each cove's last test. -/
def testBooks : Reading ((Nat → Option Nat × BitVec 3) × (Nat → BitVec 2 × Option Nat)) where
  part := .rot
  read s := (fun f => ((s.field f).cove, (s.field f).phase), fun d => ((s.coveTest d).result, (s.coveTest d).endAt))
  read_eq _ _ h := congrArg (fun r : Rotation => (fun f => ((r.fields.get {} f).cove, (r.fields.get {} f).phase),
    fun d => ((r.coves.get {} d).result, (r.coves.get {} d).endAt))) h

section
variable {s t : State} (h : Keeps testBooks s t)
include h

theorem Keeps.underTest (f : Nat) : (t.field f).cove = (s.field f).cove ∧ (t.field f).phase = (s.field f).phase :=
  Prod.ext_iff.mp (congrFun (congrArg Prod.fst h) f)

theorem Keeps.report (c : Nat) : (t.coveTest c).result = (s.coveTest c).result ∧ (t.coveTest c).endAt = (s.coveTest c).endAt :=
  Prod.ext_iff.mp (congrFun (congrArg Prod.snd h) c)

end

theorem State.modField_keepsBooks (s : State) (f : Nat) {g : FieldTest → FieldTest}
    (hg : ((g (s.field f)).cove, (g (s.field f)).phase) = ((s.field f).cove, (s.field f).phase)) : Keeps testBooks s (s.modField f g) :=
  Prod.ext (funext fun j => by
    rcases eq_or_ne j f with rfl | hne
    · exact (congrArg (fun k : FieldTest => (k.cove, k.phase)) (State.modField_field _ _ _)).trans hg
    · exact congrArg (fun k : FieldTest => (k.cove, k.phase)) (State.modField_field_other _ _ hne)) rfl

theorem State.modCoveTest_keepsBooks (s : State) (c : Nat) {g : CoveTest → CoveTest}
    (hg : ((g (s.coveTest c)).result, (g (s.coveTest c)).endAt) = ((s.coveTest c).result, (s.coveTest c).endAt)) :
    Keeps testBooks s (s.modCoveTest c g) :=
  Prod.ext rfl (funext fun d => by
    rcases eq_or_ne d c with rfl | hne
    · exact (congrArg (fun k : CoveTest => (k.result, k.endAt)) (State.modCoveTest_coveTest _ _ _)).trans hg
    · exact congrArg (fun k : CoveTest => (k.result, k.endAt)) (State.modCoveTest_coveTest_other _ _ hne))

theorem State.abandonTest_keepsBooks (s : State) (c : Nat) : Keeps testBooks s (s.abandonTest c) := .ite (s.modField_keepsBooks _ rfl) (.refl _ s)

theorem State.placeMove_keepsBooks (s : State) (g : Nat) (h : Handover) : Keeps testBooks s (s.placeMove g h) := by
  unfold State.placeMove
  extract_lets held h1 rot s1
  have hmoves : Keeps testBooks s s1 := rfl
  split
  · exact hmoves.trans (State.abandonTest_keepsBooks _ _)
  · exact hmoves

theorem State.askMove_keepsBooks (s : State) (h : Handover) : Keeps testBooks s (s.askMove h) := by
  unfold State.askMove
  extract_lets g
  split
  · exact s.placeMove_keepsBooks _ _
  · exact .ite ((s.modField_keepsBooks _ rfl).trans (State.placeMove_keepsBooks _ _ _)) rfl

theorem State.backDark_keepsBooks (s : State) (d : Nat) : Keeps testBooks s (s.backDark d) := by
  unfold State.backDark
  extract_lets g
  split
  · split
    · exact s.askMove_keepsBooks _
    · exact .refl _ _
  · exact .refl _ _

theorem State.requalify_keepsBooks (s : State) (c : Nat) (k : FieldTest) (clean : Bool) : Keeps testBooks s (s.requalify c k clean) := by
  unfold State.requalify
  extract_lets g now
  have hrefl : Keeps testBooks s s := .refl _ s
  have hjournal {t : State} (h : Keeps testBooks s t) : Keeps testBooks s (t.journalCove c) := h.step (State.journalCove_only _ _) rfl
  have hstate {t : State} (h : Keeps testBooks s t) : Keeps testBooks s (t.setCoveState c .normal) := h.step (State.setCoveState_only _ _ _) rfl
  exact .ite hrefl (.ite (.ite (hstate hrefl) hrefl) (.ite (.ite (hjournal (s.modCoveTest_keepsBooks c rfl))
    (.ite (hjournal (s.modCoveTest_keepsBooks c rfl)) (.ite (hstate (s.modCoveTest_keepsBooks c rfl)) hrefl))) hrefl))

end Sys2Proof.Machine
end

section
/-!
SUPPORT. The rotation schedule (R359 to R361): a field's slot, the walk, and the start of a chosen test.
-/
namespace Sys2Proof.Machine

/-- No fence waits for the slot: neither that of the queue's head nor one of a failed test. -/
theorem State.retryFences_none {s : State} {f : Nat} (hretry : (s.field f).retry = none)
    (hforced : ∀ d ∈ fieldCoves f, (s.coveTest d).forced = false) : s.retryFences f = s := by
  unfold State.retryFences
  extract_lets k s1
  have hs1 : s1 = s := if_neg fun h => by simp [k, hretry] at h
  rw [List.filter_eq_nil_iff.mpr fun d hd => by simp [hforced d hd], List.foldl_nil, hs1]

/-- A field's slot, before and after it is due: `s1` is the state in which it has moved on and tried the waiting fences. -/
theorem rotationTestSlot_cases {s : State} {f : Fin 4} {a : Nat} (hslot : (s.field f).slotAt = some a) {s1 : State}
    (hs1 : s1 = (s.modField f fun k => { k with slotAt := some (a + s.rot.slotNs) }).retryFences f) :
    (s.clk.elapsed < a → exec (.rotationTestSlot f) s = .next s)
    ∧ (a ≤ s.clk.elapsed →
        ((s.field f).pending.isSome = true ∨ s.testsAllowed = false → exec (.rotationTestSlot f) s = .next s1)
        ∧ ((s.field f).pending = none → s.testsAllowed = true →
            (∀ d, (fieldCoves f).find? s1.testDue = some d →
              exec (.rotationTestSlot f) s = .next (s1.modField f fun k => { k with pending := some d }))
            ∧ ((fieldCoves f).find? s1.testDue = none →
              exec (.rotationTestSlot f) s = .next (if s.rot.stopped then s1 else s1.walkTest f
                ((fieldCoves f).filter (fun x => decide ((s.field f).walk ≤ x))
                  ++ (fieldCoves f).filter fun x => decide (x < (s.field f).walk)))))) := by
  rw [exec_rotationTestSlot, execRotationTestSlot, hslot]
  dsimp only
  rw [← hs1]
  refine ⟨fun hearly => occurs_false (decide_eq_false (by omega)), fun hdue => ?_⟩
  rw [occurs_true (decide_eq_true hdue)]
  refine ⟨fun hidle => ?_, fun hpending hallowed => ?_⟩
  · rw [if_pos (by simpa using hidle)]
  · rw [if_neg (by simp [hpending, hallowed])]
    exact ⟨fun d hfind => by rw [hfind], fun hfind => by rw [hfind]⟩

theorem rotationTestSlot_noSlot {s : State} {f : Fin 4} (hslot : (s.field f).slotAt = none) : exec (.rotationTestSlot f) s = .next s := by
  rw [exec_rotationTestSlot, execRotationTestSlot, hslot]

/-- The walk's next cove: passed over, taken, taken with a handover to free it, or skipped without a receiving cove. -/
theorem State.walkTest_cons (s : State) (f d : Nat) (rest : List Nat) :
    let chosen : State := s.modField f fun k => { k with pending := some d, walk := d + 1 }
    ((s.cove d).ig.state = .fenced ∨ s.underTest d = true → s.walkTest f (d :: rest) = s.walkTest f rest)
    ∧ ((s.cove d).ig.state ≠ .fenced → s.underTest d = false →
        (s.logOf d = none → s.walkTest f (d :: rest) = chosen)
        ∧ ((s.logOf d).isSome = true → s.rot.moves.find (segOfPhys d) = none →
            (∀ x, s.receiver d [] = some x → s.underTest x = false →
              s.walkTest f (d :: rest) = chosen.askMove { src := d, dst := some x, kind := .test })
            ∧ (s.receiver d [] = none → s.walkTest f (d :: rest) = (s.logCove 0xB055 d).walkTest f rest))) := by
  intro chosen
  rw [State.walkTest]
  dsimp only
  refine ⟨fun hpast => if_pos hpast, fun hstate hfree => ?_⟩
  rw [if_neg (by simp [hstate, hfree])]
  refine ⟨fun hspare => if_pos (by rw [hspare]; rfl), fun hlive hmoves => ?_⟩
  rw [if_neg (by simpa [Option.isSome_iff_ne_none] using hlive), if_neg (by rw [hmoves]; exact Bool.false_ne_true)]
  refine ⟨fun x hx hidle => ?_, fun hnone => by rw [hnone]⟩
  rw [hx]
  exact if_neg (by simp [hidle])

/-- ROTATION_TEST_START of a chosen test: its field's save begins, or nothing yet. -/
theorem rotationTestStart_cases {s : State} {f : Fin 4} {d : Nat} (hpending : (s.field f).pending = some d) {due : Bool}
    (hdue : due = (s.testReady f && ((List.range f).all fun g => !(s.testReady g && (s.field g).slotAt == (s.field f).slotAt))
      && s.rot.lastStart.all fun t => decide (t + 50000000 ≤ s.clk.elapsed))) :
    (due = true → ∃ t, exec (.rotationTestStart f) s = .next t ∧ ChangesOnly [.rot] s t ∧ t.rot.lastStart = some s.clk.elapsed
      ∧ t.field f = { s.field f with
          cove := some d, phase := 2, pending := none, result := 0, failPhase := 0, startedAt := s.clk.elapsed
          errorsAt := (s.cove d).ig.totalEvents }
      ∧ ∀ g, g ≠ f.val → t.field g = s.field g)
    ∧ (due = false → exec (.rotationTestStart f) s = .next s) := by
  have honly := execRotationTestStart_only f s
  rw [exec_rotationTestStart]
  rw [execRotationTestStart, hpending] at honly ⊢
  dsimp only at honly ⊢
  rw [← hdue] at honly ⊢
  refine ⟨fun h => ?_, occurs_false⟩
  rw [occurs_true h] at honly ⊢
  exact ⟨_, rfl, honly _ rfl, rfl, Tab.get_upd_same _ _ _ _, fun g hg => Tab.get_upd_other _ _ _ hg⟩

end Sys2Proof.Machine
end

section
/-!
SUPPORT. The save of a cove under test (R150, R152): what it reads stays, what it writes to HBM is the image.
-/
namespace Sys2Proof.Machine

theorem memBytes_setBytes (m : Memory) (a : Nat) (bs : List Byte) : memBytes (memSetBytes m a bs) a bs.length = bs := by
  refine List.ext_getElem (by rw [memBytes_eq_map, List.length_map, List.length_range]) fun i hi hbs => ?_
  simp only [memBytes_eq_map, List.getElem_map, List.getElem_range]
  rw [memByte_setBytes, if_pos ⟨by omega, by omega⟩, Nat.add_sub_cancel_left, List.getD_eq_getElem _ _ hbs]

theorem saveNeighbour_ne (c : Nat) : saveNeighbour c ≠ c := by
  unfold saveNeighbour
  split <;> omega

section
variable {p q : Scratchpad} (h : SameStore p q)
include h

theorem SameStore.imageBytes : q.imageBytes = p.imageBytes := by
  simp only [Scratchpad.imageBytes, Scratchpad.dataBytes, Scratchpad.badFlags, h.bytes, h.spare, h.bad, h.spareBad]

theorem SameStore.remapBytes : q.remapBytes = p.remapBytes := by simp only [Scratchpad.remapBytes, h.remap]

end

/-- A row that the save finds bad holds a byte of bad parity. -/
theorem Scratchpad.rowBad_of_badRows {p : Scratchpad} {r : Nat × Nat} (h : r ∈ p.badRows) : p.rowBad r.1 r.2 0 64 = true := by
  rcases List.mem_append.mp h with hplace | hspare
  · obtain ⟨hrow, hnone⟩ := List.mem_filter.mp hplace
    obtain ⟨a, ha, rfl⟩ := List.mem_map.mp (List.mem_eraseDups.mp hrow)
    rw [Scratchpad.rowBad, Option.isNone_iff_eq_none.mp hnone]
    exact List.any_eq_true.mpr ⟨a, ha, by simp only [Bool.and_eq_true, decide_eq_true_eq]; omega⟩
  · exact (List.mem_filter.mp hspare).2

/-- A row that is bad already is noted and logged; the contents stay. -/
theorem State.saveParity_sameStore {s : State} {c b r : Nat} (hbad : (s.cove c).sp.rowBad b r 0 64 = true) :
    SameStore (s.cove c).sp ((s.saveParity c b r).cove c).sp := by
  rw [State.saveParity, if_pos hbad]
  let noted : State := s.modCove c fun v => v.noteParity b r 3 s.clk.elapsed
  have hlogged : (noted.logCove 0x5020 c).cove c = noted.cove c := rfl
  rw [hlogged, State.modCove_cove]
  exact ⟨rfl, rfl, rfl, rfl, rfl, rfl⟩

/-- The rows that the save finds bad, one after the other. -/
theorem State.saveParities_sameStore {s : State} {c : Nat} {l : List (Nat × Nat)} (hbad : ∀ r ∈ l, (s.cove c).sp.rowBad r.1 r.2 0 64 = true) :
    SameStore (s.cove c).sp ((l.foldl (fun t r => t.saveParity c r.1 r.2) s).cove c).sp := by
  induction l generalizing s with
  | nil => exact .refl _
  | cons r l ih =>
    have hone := State.saveParity_sameStore (hbad r List.mem_cons_self)
    exact hone.trans (ih fun x hx => (hone.rowBad _ _ _ _).trans (hbad x (List.mem_cons_of_mem _ hx)))

/-- The save that its field waits for (R150): the rows it finds bad are noted, then the image is written. -/
theorem coveSave_saves {s : State} {c : Fin 800} (hcove : (s.field (fieldOf c)).cove = some c.val) (hphase : (s.field (fieldOf c)).phase = 2)
    (hresult : (s.field (fieldOf c)).result = 0) :
    ∃ t im, exec (.coveSave c []) s = .next t ∧ (t.field (fieldOf c)).phase = 3 ∧ (t.cove c).spx.image = some im
      ∧ im.digest = (Config.shake256 (s.cove c).sp.imageBytes).setWidth 512
      ∧ memBytes t.hbm (saveArea c) ((s.cove c).sp.remapBytes ++ (s.cove c).sp.imageBytes).length
          = (s.cove c).sp.remapBytes ++ (s.cove c).sp.imageBytes
      ∧ ∀ b r, (t.cove c).sp.row b r = (s.cove c).sp.row b r := by
  rw [exec_coveSave]
  unfold execCoveSave
  extract_lets k f held named s1 p n rows digest s2 s3 s4
  have hsame : SameStore (s.cove c).sp p := by
    have hrows : held ++ named = held := List.append_nil _
    simp only [p, s1, hrows]
    exact State.saveParities_sameStore fun r hr => Scratchpad.rowBad_of_badRows hr
  have hcove2 : s2.cove k = s1.cove k := by simp only [State.cove, s2]
  have hhbm2 : s2.hbm = memSetBytes s1.hbm (saveArea k) (p.remapBytes ++ p.imageBytes) := by simp only [s2]
  clear_value rows s2
  have hcove3 : s3.cove k = _ := State.modCove_cove _ _ _
  have hhbm3 : s3.hbm = s2.hbm := s2.modCove_only _ _ .hbm rfl
  have hcove4 : s4.cove k = s3.cove k := by
    cases rows with
    | none => rfl
    | some l => exact State.modCove_cove_other _ _ (saveNeighbour_ne _).symm
  have hhbm4 : s4.hbm = s3.hbm := by
    cases rows with
    | none => rfl
    | some l => exact s3.modCove_only _ _ .hbm rfl
  have hoccurs : (f.cove == some k && f.phase == 2 && f.result == 0) = true := by simp [f, k, hcove, hphase, hresult]
  rw [occurs_true hoccurs]
  refine ⟨_, { digest := digest, copied := rows.isSome }, rfl, congrArg FieldTest.phase (State.modField_field _ _ _), ?_, ?_, ?_,
    fun b r => ?_⟩
  · rw [State.modField_get_cove, hcove4, hcove3]
  · exact congrArg (fun bs => (Config.shake256 bs).setWidth 512) hsame.imageBytes
  · rw [State.modField_hbm, hhbm4, hhbm3, hhbm2, ← hsame.remapBytes, ← hsame.imageBytes]
    exact memBytes_setBytes s1.hbm _ _
  · rw [State.modField_get_cove, hcove4, hcove3, hcove2]
    exact hsame.row b r

theorem coveSave_idle {s : State} {c : Fin 800}
    (h : (s.field (fieldOf c)).cove ≠ some c.val ∨ (s.field (fieldOf c)).phase ≠ 2 ∨ (s.field (fieldOf c)).result ≠ 0) (p : List (Fin 16 × Fin 2048)) :
    exec (.coveSave c p) s = .next s := by
  rw [exec_coveSave]
  refine occurs_false (Bool.eq_false_iff.mpr fun hall => ?_)
  simp only [Bool.and_eq_true, beq_iff_eq] at hall
  obtain ⟨⟨hcove, hphase⟩, hresult⟩ := hall
  exact h.elim (· hcove) (·.elim (· hphase) (· hresult))

end Sys2Proof.Machine
end

section
/-!
SUPPORT. The phases of a test (R362, R363).
-/
namespace Sys2Proof.Machine

/-- The free value names a unit of the phase. -/
theorem phaseUnits_getD_mem (n k : Nat) : (phaseUnits n).getD (k % (phaseUnits n).length) 0 ∈ phaseUnits n := by
  have hpos : 0 < (phaseUnits n).length := by
    unfold phaseUnits
    split <;> exact Nat.succ_pos _
  rw [List.getD_eq_getElem _ _ (Nat.mod_lt _ hpos)]
  exact List.getElem_mem _

/-- Two changes of a field that agree on its books. -/
theorem State.modField_congr {s : State} {f : Nat} {g h : FieldTest → FieldTest} (e : g (s.field f) = h (s.field f)) :
    s.modField f g = s.modField f h := by
  rw [State.field] at e
  simp only [State.modField, Tab.upd, e]

section
variable {s : State} {f : Fin 4} {c : Nat} (hcove : (s.field f).cove = some c) (hphase : 3 ≤ (s.field f).phase.toNat)
  (hresult : (s.field f).result = 0)
include hcove hphase hresult

/-- A phase that passes leads to the next, the last to PASSED; the cores' phase ends their self-test. -/
theorem testPhaseComplete_passes :
    ((s.field f).phase ≠ 7 → exec (.testPhaseComplete f true false) s = .next
      (if (s.field f).phase = 5 then (s.modField f fun k => { k with phase := k.phase + 1 }).modCove c Cove.endSelfTest
       else s.modField f fun k => { k with phase := k.phase + 1 }))
    ∧ ((s.field f).phase = 7 → exec (.testPhaseComplete f true false) s = .next (s.modField f fun k => { k with result := 1 })) := by
  rw [exec_testPhaseComplete, execTestPhaseComplete, hcove]
  dsimp only
  rw [occurs_true (by rw [hresult, decide_eq_true (show 3#3 ≤ (s.field f).phase from hphase)]; rfl), if_pos rfl]
  refine ⟨fun h => ?_, fun h => ?_⟩
  · have hnext : (s.modField f fun k => if k.phase = 7 then { k with result := 1 } else { k with phase := k.phase + 1 })
        = s.modField f fun k => { k with phase := k.phase + 1 } := State.modField_congr (if_neg h)
    rw [hnext]
  · have hlast : (s.modField f fun k => if k.phase = 7 then { k with result := 1 } else { k with phase := k.phase + 1 })
        = s.modField f fun k => { k with result := 1 } := State.modField_congr (if_pos h)
    rw [hlast, if_neg (by rw [h]; decide)]

/-- A phase that fails charges the cove with a unit of that phase, and fences it (log entry 165). -/
theorem testPhaseComplete_fails (eddy : Bool) : ∃ u ∈ phaseUnits ((s.field f).phase - 2).toNat,
    let s1 := s.modField f fun k => { k with result := 2, failPhase := k.phase - 2 }
    let s2 := if eddy && (s.field f).phase == 5 then s1.logCove 0xE011 c else s1
    let s3 := ((s2.failTest c u).spend 1).fenceTested c
    exec (.testPhaseComplete f false eddy) s = .next (if (s.field f).phase = 5 then s3.modCove c Cove.endSelfTest else s3) := by
  refine ⟨_, phaseUnits_getD_mem _ s.freeNat, ?_⟩
  rw [exec_testPhaseComplete, execTestPhaseComplete, hcove]
  dsimp only
  rw [occurs_true (by rw [hresult, decide_eq_true (show 3#3 ≤ (s.field f).phase from hphase)]; rfl), if_neg Bool.false_ne_true]

end

theorem testPhaseComplete_idle {s : State} {f : Fin 4}
    (h : (s.field f).cove = none ∨ (s.field f).phase.toNat < 3 ∨ (s.field f).result ≠ 0) (pass eddy : Bool) :
    exec (.testPhaseComplete f pass eddy) s = .next s := by
  rw [exec_testPhaseComplete, execTestPhaseComplete]
  cases hcove : (s.field f).cove with
  | none => rfl
  | some c =>
    refine occurs_false ?_
    rcases h with h | h | h
    · rw [hcove] at h
      contradiction
    · rw [decide_eq_false (show ¬ 3#3 ≤ (s.field f).phase from Nat.not_le.mpr h), Bool.false_and]
    · rw [beq_false_of_ne h, Bool.and_false]

end Sys2Proof.Machine
end

section
/-!
SUPPORT. The restore that ends a test (R151, R363, R364, R369).
-/
namespace Sys2Proof.Machine

/-- The remap tables that a restore of cove `c` brings back: those of the neighbour's copy, else those of the save area. -/
def State.savedRemap (s : State) (c : Nat) : Tab Nat :=
  remapOf (match s.keptCopy c with
    | some bs => bs.take 512
    | none => memBytes s.hbm (saveArea c) 512)

/-- A restore puts the saved image back and keeps it no longer. -/
theorem State.restoreImage_cove {s : State} {c : Nat} {im : CoveImage} (him : (s.cove c).spx.image = some im) :
    (s.restoreImage c []).cove c = { s.cove c with
      sp := (s.cove c).sp.fromArea s.hbm (saveArea c) (s.savedRemap c), spx := { (s.cove c).spx with image := none } } := by
  rw [State.restoreImage, him]
  dsimp only [List.foldl_nil]
  rw [State.modCove_cove_other _ _ (saveNeighbour_ne c).symm, State.modCove_cove, State.savedRemap]
  cases s.keptCopy c <;> rfl

/-- The state as a restore has written it; a digest that differs has been charged and the cove fenced (R151, R363). -/
def State.restored (s : State) (c : Nat) (bist : List (Nat × Nat)) (bad : Bool) : State :=
  if bad then ((s.restoreImage c bist).charge c 0x5022).fenceTested c else s.restoreImage c bist

theorem State.restored_keepsBodies (s : State) (c : Nat) (bist : List (Nat × Nat)) (bad : Bool) :
    Keeps coveBodies (s.restoreImage c bist) (s.restored c bist bad) :=
  .ite ((State.charge_keepsBodies _ c _).trans (State.fenceTested_keepsBodies _ c)) (.refl _ _)

/-- The end of the cores' self-test leaves the scratchpad and the rotation's books. -/
theorem State.endSelfTest_keeps (s : State) (c : Nat) (p : Prop) [Decidable p] :
    ((if p then s.modCove c Cove.endSelfTest else s).cove c).sp = (s.cove c).sp
    ∧ ((if p then s.modCove c Cove.endSelfTest else s).cove c).spx = (s.cove c).spx
    ∧ Keeps testBooks s (if p then s.modCove c Cove.endSelfTest else s) := by
  split
  · rw [State.modCove_cove]
    exact ⟨rfl, rfl, .of_only (State.modCove_only _ _ _) rfl⟩
  · exact ⟨rfl, rfl, .refl _ _⟩

theorem State.backDark_cove (s : State) (d c : Nat) : (s.backDark d).cove c = s.cove c :=
  congrArg (fun x : Tab Cove => x.get {} c) (s.backDark_only d .coves rfl)

/-- A restore ends the test: the scratchpad is as it was written, the field is free, and the cove's report says how the test ended. -/
theorem coveRestore_ends {s : State} {c : Fin 800} (hcove : (s.field (fieldOf c)).cove = some c.val) (hresult : (s.field (fieldOf c)).result ≠ 0)
    {bist : List (Fin 16 × Fin 2048)} {digestBad bad : Bool} (hbad : (digestBad && (s.cove c).spx.image.isSome || s.digestDiffers c) = bad) :
    ∃ t, exec (.coveRestore c bist digestBad) s = .next t
      ∧ (t.cove c).sp = ((s.restoreImage c (bist.map fun r => (r.1.val, r.2.val))).cove c).sp
      ∧ (t.cove c).spx = ((s.restoreImage c (bist.map fun r => (r.1.val, r.2.val))).cove c).spx
      ∧ (t.field (fieldOf c)).cove = none ∧ (t.field (fieldOf c)).phase = 0
      ∧ (t.coveTest c).result = (if bad && (s.field (fieldOf c)).result == 1 then 2 else (s.field (fieldOf c)).result)
      ∧ (t.coveTest c).endAt = some s.clk.elapsed := by
  rw [exec_coveRestore]
  unfold execCoveRestore
  extract_lets d f s1 bad' s2 k clean s3 s4
  have hs2 : s2 = s.restored c (bist.map fun r => (r.1.val, r.2.val)) bad := by rw [← hbad]; rfl
  have hk : k.result = if bad && f.result == 1 then 2 else f.result := by
    rw [← hbad]
    exact apply_ite FieldTest.result _ _ _
  rw [occurs_true (by rw [show f.cove = some d from hcove, bne_iff_ne.mpr (show f.result ≠ 0 from hresult), beq_self_eq_true]; rfl)]
  obtain ⟨husp, huspx, hubooks⟩ := s4.endSelfTest_keeps d (f.phase = 5 ∧ f.result = 3)
  generalize (if f.phase = 5 ∧ f.result = 3 then s4.modCove d Cove.endSelfTest else s4) = u at husp huspx hubooks ⊢
  have hbodies : Keeps coveBodies (s.restoreImage c (bist.map fun r => (r.1.val, r.2.val))) s4 :=
    ((hs2 ▸ s.restored_keepsBodies c _ bad).trans
      ((Keeps.of_only (State.modCoveTest_only _ _ _) rfl).trans (State.requalify_keepsBodies _ _ _ _))).step (State.modField_only _ _ _) rfl
  have hbooks : Keeps testBooks s4 ((u.spend 1).backDark d) :=
    (hubooks.step (State.spend_only _ _) rfl).trans (State.backDark_keepsBooks _ d)
  obtain ⟨hunder, hphase⟩ := hbooks.underTest (fieldOf c)
  obtain ⟨hreport, hend⟩ := hbooks.report c
  obtain ⟨hrequalReport, hrequalEnd⟩ := (State.requalify_keepsBooks (s2.modCoveTest d _) d k clean).report d
  refine ⟨_, rfl, ?_, ?_, ?_, ?_, ?_, ?_⟩
  · exact (congrArg Cove.sp ((u.spend 1).backDark_cove d d)).trans (husp.trans (hbodies.bodySp c))
  · exact (congrArg Cove.spx ((u.spend 1).backDark_cove d d)).trans (huspx.trans (hbodies.bodySpx c))
  · exact hunder.trans (congrArg FieldTest.cove (State.modField_field _ _ _))
  · exact hphase.trans (congrArg FieldTest.phase (State.modField_field _ _ _))
  · exact hreport.trans (hrequalReport.trans ((congrArg CoveTest.result (State.modCoveTest_coveTest _ _ _)).trans hk))
  · exact hend.trans (hrequalEnd.trans (congrArg CoveTest.endAt (State.modCoveTest_coveTest _ _ _)))

theorem coveRestore_idle {s : State} {c : Fin 800} (h : (s.field (fieldOf c)).cove ≠ some c.val ∨ (s.field (fieldOf c)).result = 0)
    (b : List (Fin 16 × Fin 2048)) (x : Bool) : exec (.coveRestore c b x) s = .next s := by
  rw [exec_coveRestore]
  refine occurs_false ?_
  rcases h with h | h <;> simp [h]

end Sys2Proof.Machine
end

section
/-!
SUPPORT. The remapping of a row (R148, R149).
-/
namespace Sys2Proof.Machine

theorem Scratchpad.length_row (p : Scratchpad) (bank row : Nat) : (p.row bank row).length = 64 := by
  unfold Scratchpad.row
  split <;> rw [memBytes_eq_map, List.length_map, List.length_range]

/-- The spare row serves the remapped row. -/
theorem Cove.remapRow_spareOf (v : Cove) (bank row k : Nat) : (v.remapRow bank row k).sp.spareOf bank row = some k :=
  (rowsFind_put _ _ _ _).trans (if_pos rfl)

/-- The row's bytes go with it (R148). -/
theorem Cove.remapRow_row (v : Cove) (bank row k : Nat) : (v.remapRow bank row k).sp.row bank row = v.sp.row bank row := by
  rw [Scratchpad.row, Cove.remapRow_spareOf]
  have hbytes := memBytes_setBytes v.sp.spare (bank * 1024 + k * 64) (v.sp.row bank row)
  rwa [Scratchpad.length_row] at hbytes

section
variable {s : State} {c : Fin 800} {bank : Fin 16} {row : Fin 2048}

theorem rowRemap_remaps (hrest : ∀ b, s.bayOf c = some b → (s.bay b).st.running = none) (hdue : (s.cove c).sp.due.contains (bank.val, row.val) = true) :
    exec (.rowRemap c bank row) s = .next ((s.spRemap c bank row).reloadAfter c bank row) := by
  rw [exec_rowRemap, execRowRemap]
  refine occurs_true ?_
  rw [hdue, Bool.true_and]
  split
  · next b hb => rw [hrest b hb]; rfl
  · rfl

theorem rowRemap_notDue (hdue : (s.cove c).sp.due.contains (bank.val, row.val) = false) : exec (.rowRemap c bank row) s = .next s := by
  rw [exec_rowRemap]
  refine occurs_false ?_
  rw [hdue, Bool.false_and]

end

theorem State.spRemap_free {s : State} {c bank n : Nat} (hfree : (s.cove c).freeSpare bank = some n) (row : Nat) :
    ((s.spRemap c bank row).cove c).sp.spareOf bank row = some n
    ∧ ((s.spRemap c bank row).cove c).sp.row bank row = (s.cove c).sp.row bank row
    ∧ ((s.spRemap c bank row).cove c).cores = (s.cove c).cores
    ∧ ChangesOnly [.coves, .su] s (s.spRemap c bank row) := by
  rw [State.spRemap, hfree]
  let remapped : State := s.modCove c fun v => v.remapRow bank row n
  have hjournalled : (remapped.journalRemap c bank).cove c = remapped.cove c := rfl
  dsimp only
  rw [hjournalled, State.modCove_cove]
  exact ⟨Cove.remapRow_spareOf _ _ _ _, Cove.remapRow_row _ _ _ _, rfl,
    ((s.modCove_only _ _).mono rfl).step (State.journalRemap_only _ _ _) rfl⟩

theorem State.spRemap_none {s : State} {c bank : Nat} (hfree : (s.cove c).freeSpare bank = none) (row : Nat) :
    s.spRemap c bank row = (s.modCove c fun v => { v with
      sp := { v.sp with exhausted := true, due := v.sp.due.filter fun d => d != (bank, row) } }).charge c 0x5021 := by
  rw [State.spRemap, hfree]
  rfl

end Sys2Proof.Machine
end

section
/-!
The rotation's obligation.
-/
namespace Sys2Proof.Machine

/-- Settles O33: slot, walk, start, save, phases, restore and remapping, each by the lemma of its command. -/
theorem rotationTestsTakeEffect : Obligations.RotationTestsTakeEffect := by
  unfold Obligations.RotationTestsTakeEffect
  intro s f c k kc v
  refine ⟨fun a hslot => ?_, fun d rest => s.walkTest_cons f d rest, rotationTestSlot_noSlot, fun d hpending => rotationTestStart_cases hpending rfl,
    fun hcove hphase hresult => ?_, coveSave_idle, fun hcove hphase hresult => ?_, testPhaseComplete_idle, fun im hcove hresult him hsame => ?_,
    fun im hcove hresult him hdiffers x => ?_, coveRestore_idle, fun bank row hrest =>
      ⟨fun n hdue hfree _ => ?_, fun hdue hfree => ?_, rowRemap_notDue⟩⟩
  · obtain ⟨hearly, hdue⟩ := rotationTestSlot_cases hslot rfl
    refine ⟨fun hretry hforced => State.retryFences_none ?_ hforced, hearly, fun ha => ?_⟩
    · rw [State.modField_field]
      exact hretry
    · obtain ⟨hidle, hchoose⟩ := hdue ha
      refine ⟨hidle, fun d hpending hallowed hfind => (hchoose hpending hallowed).1 d hfind, fun hpending hallowed hfind => ?_⟩
      rw [(hchoose hpending hallowed).2 hfind]
      exact ⟨fun hstopped => by rw [if_pos hstopped], fun hwalks => by rw [if_neg (by rw [hwalks]; exact Bool.false_ne_true)]⟩
  · obtain ⟨t, im, hexec, hsaved⟩ := coveSave_saves hcove hphase hresult
    exact ⟨t, im, hexec, execCoveSave_only c [] s t hexec, hsaved⟩
  · obtain ⟨hnext, hlast⟩ := testPhaseComplete_passes hcove hphase hresult
    exact ⟨hnext, hlast, testPhaseComplete_fails hcove hphase hresult⟩
  · obtain ⟨t, hexec, hsp, hspx, hfree, hphase, hreport, hend⟩ := coveRestore_ends (bist := []) (digestBad := false) hcove hresult hsame
    rw [List.map_nil, State.restoreImage_cove him] at hsp hspx
    exact ⟨t, hexec, hsp, congrArg _ hspx, hfree, hphase, hreport, hend⟩
  · obtain ⟨t, hexec, -, hspx, -, -, hreport, -⟩ := coveRestore_ends (bist := []) (digestBad := x) hcove (by rw [hresult]; decide)
      (by rw [hdiffers, Bool.or_true])
    rw [List.map_nil, State.restoreImage_cove him] at hspx
    exact ⟨t, hexec, by rw [hreport, hresult]; rfl, by rw [hspx]⟩
  · obtain ⟨hspare, hrow, hcores, honly⟩ := State.spRemap_free hfree row
    exact ⟨_, rowRemap_remaps hrest hdue, hspare, hrow, hcores, honly⟩
  · rw [rowRemap_remaps hrest hdue, State.spRemap_none hfree]

end Sys2Proof.Machine
end

section
/-!
SUPPORT. How a CSEND or a CCONN that waits on a channel entry ends (R161, R165, R166), and the writer's timers (R163, R165 to R167).
-/
namespace Sys2Proof.Machine

theorem State.modChan_chan (s : State) (c : Nat) (f : Channels → Channels) : (s.modChan c f).chan c = f (s.chan c) :=
  congrArg Cove.ch (State.modCove_cove _ _ _)

/-- A core that waits stands in its cove's table. -/
theorem cores_ne_of_wait {s : State} {r : CoreRef} {w : CoreWait} (h : (s.core r).wait = some w) : (s.cove r.cove).cores ≠ {} := fun e => by
  rw [State.core, Cove.core, e] at h
  exact Option.some_ne_none w h.symm

/-- The core waits on channel entry `i` for a result word in g[rd], in CSEND or in CCONN. -/
def AwaitsResult (k : PCore) (i : Nat) (rd : BitVec 5) : Prop := k.wait = some (.csend i rd) ∨ k.wait = some (.cconn i rd)

theorem AwaitsResult.listed {s : State} {r : CoreRef} {i : Nat} {rd : BitVec 5} (h : AwaitsResult (s.core r) i rd) : (s.cove r.cove).cores ≠ {} :=
  h.elim cores_ne_of_wait cores_ne_of_wait

/-- The result goes to the core that the entry belongs to and that waits on it. -/
theorem State.endChan_awaited {t : State} {r : CoreRef} {i : Nat} {rd : BitVec 5} (howner : ((t.chan r.cove).entry i).core = r.core)
    (hwait : AwaitsResult (t.core r) i rd) (x : Word) : t.endChan r.cove i x = t.retireNext r fun k => k.wg rd x := by
  have hin : r.cove.val < 800 ∧ r.core.val < 16 := ⟨r.cove.isLt, r.core.isLt⟩
  unfold State.endChan
  simp only [howner]
  rw [if_neg (Nat.not_le.mpr hin.2)]
  rcases hwait with h | h
  · rw [show ((t.cove r.cove).core r.core).wait = some (.csend i rd) from h]
    dsimp only
    rw [if_pos rfl, dif_pos hin]
  · rw [show ((t.cove r.cove).core r.core).wait = some (.cconn i rd) from h]
    dsimp only
    rw [if_pos rfl, dif_pos hin]

section
variable {s t : State} {r : CoreRef} {h : Channels} {n : Net} (e : ChanEffect s r h n t) {i : Nat} {rd : BitVec 5}
  (howner : (h.entry i).core = r.core) (hwait : AwaitsResult (s.core r) i rd)
include e howner hwait

theorem ChanEffect.endChan (x : Word) : t.endChan r.cove i x = t.retireNext r fun k => k.wg rd x :=
  State.endChan_awaited (by rw [e.ch, howner]) (by rw [e.core]; exact hwait) x

/-- The waiting instruction completes with the result word. -/
theorem ChanEffect.completes_endChan {c : Instr} {x : Word} (hexec : exec c s = .next (t.endChan r.cove i x)) :
    CompletesFrom c s t r ((s.core r).pc + 4) (WritesG rd x) :=
  completes_retireNext_wg (hexec.trans (congrArg _ (e.endChan howner hwait x))) e.core e.cycles

end

/-! The writer's timers. -/

theorem State.sendingEntry_csend {s : State} {r : CoreRef} {i : Nat} {rd : BitVec 5} (h : (s.core r).wait = some (.csend i rd)) :
    s.sendingEntry r = some i := by
  rw [State.sendingEntry, h]

theorem State.sendingEntry_none {s : State} {r : CoreRef} (h : ∀ i rd, (s.core r).wait ≠ some (.csend i rd)) : s.sendingEntry r = none := by
  unfold State.sendingEntry
  split
  · next i rd hwait => exact absurd hwait (h i rd)
  · rfl

/-- Without a CSEND that waits the writer's timers do nothing. -/
theorem timers_idle {s : State} {r : CoreRef} (h : ∀ i rd, (s.core r).wait ≠ some (.csend i rd)) :
    exec (.csendTimeout r) s = .next s ∧ exec (.fullRetry r) s = .next s ∧ exec (.dataRetransmit r) s = .next s := by
  rw [exec_csendTimeout, exec_fullRetry, exec_dataRetransmit, execCsendTimeout, execFullRetry, execDataRetransmit, State.sendingEntry_none h]
  exact ⟨rfl, rfl, rfl⟩

/-- The time under FULL answers has reached the entry's timeout, which is not infinite (R127, R166). -/
def ChEntry.timeoutDue (e : ChEntry) (now : Nat) : Bool := e.timeout != 0 && decide (e.timeout.toNat * 1000 ≤ e.waited now)

/-- The cove once the CSEND on entry `i` has timed out: the entry is open again, a listed writer's WITHDRAW has left (R166). -/
def State.timedOut (s : State) (c i : Nat) : State :=
  let e := (s.chan c).entry i
  let s1 := s.modChan c fun h => { h.modEntry i (fun x => x.rest .open_) with timeout := satAdd32 h.timeout 1 }
  if e.listed then s1.sendChan c kWithdraw { blankChan with
    dst := e.farHandle, src := chanHandle i e.gen, srcEp := endpoint (s.lcove c) e.core 0, dstEp := e.farEp } else s1

theorem State.timedOut_effect {s : State} {r : CoreRef} (hlisted : (s.cove r.cove).cores ≠ {}) (i : Nat) :
    ∃ h n, ChanEffect s r h n (s.timedOut r.cove i) ∧ h.entry i = ((s.chan r.cove).entry i).rest .open_ := by
  have hopen := ChanEffect.modChan s r fun h => { h.modEntry i (fun x => x.rest .open_) with timeout := satAdd32 h.timeout 1 }
  have hentry := Channels.entry_modEntry (s.chan r.cove) i fun x => x.rest .open_
  unfold State.timedOut
  extract_lets e s1
  split
  · exact ⟨_, _, hopen.sendChan hlisted _ _, hentry⟩
  · exact ⟨_, _, hopen, hentry⟩

section
variable {s : State} {r : CoreRef} {i : Nat} {rd : BitVec 5} (hwait : (s.core r).wait = some (.csend i rd))
  {e : ChEntry} (he : (s.chan r.cove).entry i = e)
include hwait he

/-- CSEND_TIMEOUT: nothing before the timeout, then the CSEND's end (R166). -/
theorem csendTimeout_cases :
    (e.state = .blocked → e.timeoutDue s.mt.ns = true → exec (.csendTimeout r) s = .next ((s.timedOut r.cove i).endChan r.cove i stTimeout))
    ∧ (e.state ≠ .blocked ∨ e.timeoutDue s.mt.ns = false → exec (.csendTimeout r) s = .next s) := by
  have hexec : exec (.csendTimeout r) s =
      occurs s (e.state == .blocked && e.timeoutDue s.mt.ns) ((s.timedOut r.cove i).endChan r.cove i stTimeout) := by
    rw [exec_csendTimeout, execCsendTimeout, State.sendingEntry_csend hwait, ChEntry.timeoutDue, ← he, ← Bool.and_assoc]
    rfl
  rw [hexec]
  refine ⟨fun hblocked hdue => occurs_true ?_, fun hnot => occurs_false ?_⟩
  · rw [hblocked, hdue]; rfl
  · rcases hnot with hstate | hdue
    · rw [beq_false_of_ne hstate, Bool.false_and]
    · rw [hdue, Bool.and_false]

/-- The CSEND whose timeout is over completes with TIMEOUT. -/
theorem csendTimeout_completes (howner : e.core = r.core) (hblocked : e.state = .blocked) (hdue : e.timeoutDue s.mt.ns = true) :
    CompletesFrom (.csendTimeout r) s (s.timedOut r.cove i) r ((s.core r).pc + 4) (WritesG rd stTimeout) := by
  obtain ⟨h, n, heffect, hentry⟩ := State.timedOut_effect (cores_ne_of_wait hwait) i
  exact heffect.completes_endChan (by rw [hentry, he]; exact howner) (.inl hwait) ((csendTimeout_cases hwait he).1 hblocked hdue)

/-- FULL_RETRY: the message goes out again once its time has come (R165). -/
theorem fullRetry_cases :
    (e.state = .blocked → (∃ t, e.retryAt = some t ∧ t ≤ s.cnCycles) → exec (.fullRetry r) s = .next
      ((s.modChan r.cove fun h => h.modEntry i fun x =>
        { x with state := .sending, retryAt := none, resent := false, sentAt := s.cnCycles }).sendData r.cove i))
    ∧ (e.state ≠ .blocked ∨ e.retryAt = none ∨ (∃ t, e.retryAt = some t ∧ s.cnCycles < t) → exec (.fullRetry r) s = .next s) := by
  rw [exec_fullRetry, execFullRetry, State.sendingEntry_csend hwait]
  dsimp only
  rw [he]
  refine ⟨fun hblocked ⟨t, ht, hdue⟩ => occurs_true ?_, fun hnot => occurs_false ?_⟩
  · rw [hblocked, ht, Option.any_some, decide_eq_true hdue]; rfl
  · rcases hnot with hstate | hnone | ⟨t, ht, hearly⟩
    · rw [beq_false_of_ne hstate, Bool.false_and]
    · rw [hnone, Option.any_none, Bool.and_false]
    · rw [ht, Option.any_some, decide_eq_false (Nat.not_le.mpr hearly), Bool.and_false]

/-- DATA_RETRANSMIT: after 88 µs of silence the message goes out a second time; after 88 µs more the core raises 0xA001 (R167). -/
theorem dataRetransmit_cases :
    (e.state = .sending → e.sentAt + 79200 ≤ s.cnCycles → exec (.dataRetransmit r) s = .next
      (if e.resent then s.chanException r 0xA001 e.queue
       else (s.modChan r.cove fun h => { h.modEntry i (fun x => { x with resent := true, sentAt := s.cnCycles }) with
          retx := satAdd32 h.retx 1 }).sendData r.cove i))
    ∧ (e.state ≠ .sending ∨ s.cnCycles < e.sentAt + 79200 → exec (.dataRetransmit r) s = .next s) := by
  rw [exec_dataRetransmit, execDataRetransmit, State.sendingEntry_csend hwait]
  dsimp only
  rw [he, cn88us]
  refine ⟨fun hsending hdue => occurs_true ?_, fun hnot => occurs_false ?_⟩
  · rw [hsending, decide_eq_true hdue]; rfl
  · rcases hnot with hstate | hearly
    · rw [beq_false_of_ne hstate, Bool.false_and]
    · rw [decide_eq_false (Nat.not_le.mpr hearly), Bool.and_false]

end

/-- CHANNEL_QUARANTINE_END: 64 µs after it entered quarantine the entry is free, with its generation (R163). -/
theorem channelQuarantineEnd_cases {s : State} {c : Fin 800} {i : Fin 4096} {e : ChEntry} (he : (s.chan c).entry i = e) :
    (e.state = .quarantine → e.quarAt + 57600 ≤ s.cnCycles → exec (.channelQuarantineEnd c i) s = .next
      (s.modChan c fun h => h.modEntry i fun x => { ({} : ChEntry) with gen := x.gen }))
    ∧ (e.state ≠ .quarantine ∨ s.cnCycles < e.quarAt + 57600 → exec (.channelQuarantineEnd c i) s = .next s) := by
  rw [exec_channelQuarantineEnd, execChannelQuarantineEnd, he, cn64us]
  refine ⟨fun hquarantine hdue => occurs_true ?_, fun hnot => occurs_false ?_⟩
  · rw [hquarantine, decide_eq_true hdue]; rfl
  · rcases hnot with hstate | hearly
    · rw [beq_false_of_ne hstate, Bool.false_and]
    · rw [decide_eq_false (Nat.not_le.mpr hearly), Bool.and_false]

/-- Settles O32: each timer by what its entry shows (`csendTimeout_completes` and the `_cases` lemmas). -/
theorem channelTimersTakeEffect : Obligations.ChannelTimersTakeEffect := by
  unfold Obligations.ChannelTimersTakeEffect
  intro s
  refine ⟨fun r hidle => timers_idle hidle, fun r i rd hwait => ?_, fun c i => ?_⟩
  · obtain ⟨hretry, hwaits⟩ := fullRetry_cases hwait rfl
    obtain ⟨hlate, hearly⟩ := dataRetransmit_cases hwait rfl
    refine ⟨csendTimeout_completes hwait rfl, (csendTimeout_cases hwait rfl).2, hretry, hwaits, fun hsending hdue hfirst => ?_,
      fun hsending hdue hsecond => ?_, hearly⟩
    · rw [hlate hsending hdue, if_neg (by rw [hfirst]; exact Bool.false_ne_true)]
    · rw [hlate hsending hdue, if_pos hsecond]
      rfl
  · obtain ⟨hends, hstays⟩ := channelQuarantineEnd_cases (s := s) (c := c) (i := i) rfl
    refine ⟨fun hquarantine hdue => ⟨_, hends hquarantine hdue, CoveOnly.modCove _ _ _, ?_, fun j hj => ?_⟩, hstays⟩
    · rw [State.modChan_chan, Channels.entry_modEntry]
    · rw [State.modChan_chan, Channels.entry_modEntry_other _ _ _ hj]

end Sys2Proof.Machine
end

section
/-!
SUPPORT. A channel packet at the queue interface (R159, R163 to R168, R172, R222, R226): what is asked before it has its effect, how it meets
the entry that its handle names, and the effect of each kind.
-/
namespace Sys2Proof.Machine

/-! The packet taken from the router. -/

theorem State.eject_received {s : State} {p : Packet} (h : s.receives p = true) (f : State → State) : s.eject p f = f (s.taken p) := by
  simp only [State.receives, Bool.and_eq_true, Bool.not_eq_true'] at h
  obtain ⟨⟨⟨⟨⟨⟨hvalid, hsent⟩, hresv⟩, hage⟩, hslot⟩, hdropped⟩, hreset⟩ := h
  cases hlog : p.dstLog with
  | none => simp [State.eject, State.taken, hvalid, hsent, hresv, hage, hlog, hdropped, hreset]
  | some l =>
    rw [hlog] at hslot
    simp [State.eject, State.taken, hvalid, hsent, hresv, hage, hlog, eq_of_beq hslot, hdropped, hreset]

section
variable (s : State) (p : Packet) (c : Nat)

/-- What taking a packet from a router leaves of a cove. -/
theorem State.taken_read {α : Type} (g : Cove → α) (hg : ∀ (v : Cove) (f : Net → Net), g (v.modNet f) = g v) :
    g ((s.taken p).cove c) = g (s.cove c) := by
  unfold State.taken
  rcases eq_or_ne c p.dstPhys.toNat with rfl | hne
  · rw [State.modCove_cove, hg]
  · rw [State.modCove_cove_other _ _ hne]

theorem State.taken_chan : (s.taken p).chan c = s.chan c := s.taken_read p c Cove.ch fun _ _ => rfl

theorem State.taken_cores : ((s.taken p).cove c).cores = (s.cove c).cores := s.taken_read p c Cove.cores fun _ _ => rfl

end

theorem ChanEffect.taken {s : State} {p : Packet} {r : CoreRef} (hdst : p.dstPhys.toNat = r.cove) :
    ChanEffect s r (s.chan r.cove) ((s.taken p).cove r.cove).net (s.taken p) :=
  ⟨hdst ▸ CoveOnly.modCove _ _ _, s.taken_chan p _, rfl, s.taken_cores p _, rfl⟩

/-! What a packet is asked before it has its effect. -/

/-- The answer to a packet of the kind, if it asks for one, has a slot (R226). -/
def State.RoomFor (s : State) (c kind : Nat) : Prop := kindResponse kind = true ∨ s.canAnswer c false = true

/-- A packet of the kind is received at the cove, in form, and its answer has room. -/
def State.AcceptsChan (s : State) (c kind : Nat) (p : ChanPkt) : Prop := s.receivesChan c kind p = true ∧ s.RoomFor c kind

/-- The packet's kind is reserved, or it is of the kind but not in form (Table 7.2, R172). -/
def ChanOutOfForm (p : ChanPkt) (kind : Nat) : Prop :=
  p.kind = 0 ∨ 11 ≤ p.kind.toNat
    ∨ p.kind.toNat = kind ∧ (p.resv = true ∨ 64 < p.len.toNat ∨ (kind ≠ 4 ∧ p.len ≠ 0) ∨ p.hdr.response ≠ kindResponse kind)

theorem kindReserved_iff {k : BitVec 4} : kindReserved k = true ↔ k = 0 ∨ 11 ≤ k.toNat := by
  rw [kindReserved, Bool.or_eq_true, beq_iff_eq, decide_eq_true_iff]

section
variable {s : State} {c kind : Nat} {p : ChanPkt} {moving f : State → State} {x : Instr} (hexec : exec x s = s.chanArrives c kind p moving f)
include hexec

/-- A packet whose answer has no room waits. -/
theorem exec_noRoom (hroom : ¬ s.RoomFor c kind) : exec x s = .next s := by
  rw [State.RoomFor, ← Bool.or_eq_true, Bool.not_eq_true] at hroom
  rw [hexec]
  exact occurs_false (by rw [hroom, Bool.and_false])

/-- A packet that reaches its cove is judged there. -/
theorem exec_arrives (hdst : p.hdr.dstPhys.toNat = c) (hkind : kindReserved p.kind = true ∨ p.kind.toNat = kind) (hroom : s.RoomFor c kind)
    (hreceived : s.receives (carrierOf p) = true) (hgood : p.hdr.bad = false) :
    exec x s = .next (
      if p.resv ∨ kindReserved p.kind ∨ 64 < p.len.toNat ∨ (kind ≠ kData ∧ p.len ≠ 0) ∨ p.hdr.response ≠ kindResponse kind then
        (s.taken (carrierOf p)).countStale c
      else if kind ≠ kConnect ∧ (s.chan c).badEntry p.dst then
        ((s.taken (carrierOf p)).modChan c fun h =>
          h.noteErr 0xA002 (h.entry (handleEntryOf p.dst)).core (h.entry (handleEntryOf p.dst)).queue).hwError c 0xA002
      else if s.slotMoving c then moving (s.taken (carrierOf p))
      else f (s.taken (carrierOf p))) := by
  have hmoving : (s.taken (carrierOf p)).slotMoving c = s.slotMoving c := rfl
  rw [hexec, State.chanArrives, State.eject_received hreceived, occurs_true, hgood, State.taken_chan, hmoving]
  · rfl
  · rw [← beq_iff_eq (α := Nat), ← Bool.or_eq_true] at hkind
    rw [State.RoomFor, ← Bool.or_eq_true] at hroom
    rw [hdst, beq_self_eq_true, hkind, hroom]
    rfl

/-- A packet out of form is counted (R172). -/
theorem exec_outOfForm (hdst : p.hdr.dstPhys.toNat = c) (hreceived : s.receives (carrierOf p) = true) (hgood : p.hdr.bad = false)
    (hroom : s.RoomFor c kind) (hout : ChanOutOfForm p kind) : exec x s = .next ((s.taken (carrierOf p)).countStale c) := by
  rw [ChanOutOfForm, ← or_assoc, ← kindReserved_iff] at hout
  rw [exec_arrives hexec hdst (hout.imp_right And.left) hroom hreceived hgood, if_pos]
  rcases hout with hreserved | ⟨-, hresv | hlong | hlen | hclass⟩
  · exact .inr (.inl hreserved)
  · exact .inl hresv
  · exact .inr (.inr (.inl hlong))
  · exact .inr (.inr (.inr (.inl hlen)))
  · exact .inr (.inr (.inr (.inr hclass)))

/-- A packet in form has its kind's effect. -/
theorem exec_accepted (hok : s.AcceptsChan c kind p) (hreserved : kindReserved (BitVec.ofNat 4 kind) = false) {u : State}
    (hu : f (s.taken (carrierOf p)) = u) : exec x s = .next u := by
  obtain ⟨hreceives, hroom⟩ := hok
  simp only [State.receivesChan, Bool.and_eq_true, beq_iff_eq, Bool.not_eq_true', Bool.or_eq_true, decide_eq_true_iff] at hreceives
  obtain ⟨⟨⟨⟨⟨⟨⟨⟨⟨hdst, hkind⟩, hreceived⟩, hgood⟩, hresv⟩, hlong⟩, hlen⟩, hclass⟩, hentry⟩, hstill⟩ := hreceives
  rw [exec_arrives hexec hdst (.inr hkind) hroom hreceived hgood, if_neg, if_neg, if_neg, hu]
  · rw [hstill]; exact Bool.false_ne_true
  · rintro ⟨hother, hbad⟩
    rcases hentry with hconnect | hgoodEntry
    · exact hother hconnect
    · rw [hgoodEntry] at hbad
      exact Bool.false_ne_true hbad
  · rw [← hkind, BitVec.ofNat_toNat, BitVec.setWidth_eq] at hreserved
    rintro (h | h | h | ⟨hother, h⟩ | h)
    · rw [hresv] at h; exact Bool.false_ne_true h
    · rw [hreserved] at h; exact Bool.false_ne_true h
    · exact Nat.not_lt.mpr hlong h
    · exact hlen.elim hother h
    · exact h hclass

end

theorem State.AcceptsChan.effect {s : State} {r : CoreRef} {kind : Nat} {p : ChanPkt} (hok : s.AcceptsChan r.cove kind p) :
    ChanEffect s r (s.chan r.cove) ((s.taken (carrierOf p)).cove r.cove).net (s.taken (carrierOf p)) := by
  obtain ⟨hreceives, -⟩ := hok
  simp only [State.receivesChan, Bool.and_eq_true, beq_iff_eq] at hreceives
  obtain ⟨⟨⟨⟨⟨⟨⟨⟨⟨hdst, -⟩, -⟩, -⟩, -⟩, -⟩, -⟩, -⟩, -⟩, -⟩ := hreceives
  exact ChanEffect.taken hdst

/-! How a packet meets the entry that its handle names (R163, R164). -/

/-- The handle's entry is of the handle's generation and open, or about to be. -/
def Channels.Live (h : Channels) (handle : BitVec 16) : Prop :=
  (h.entry (handleEntryOf handle)).gen = handleGen handle ∧ (h.entry (handleEntryOf handle)).state ≠ .free
    ∧ (h.entry (handleEntryOf handle)).state ≠ .quarantine

section
variable {h : Channels} {handle : BitVec 16}

theorem Channels.endAt_stale (hstale : (h.entry (handleEntryOf handle)).gen ≠ handleGen handle ∨ (h.entry (handleEntryOf handle)).state = .free) :
    h.endAt handle = .stale := if_pos hstale

theorem Channels.endAt_quarantined (hgen : (h.entry (handleEntryOf handle)).gen = handleGen handle)
    (hstate : (h.entry (handleEntryOf handle)).state = .quarantine) : h.endAt handle = .quarantined := by
  rw [Channels.endAt]
  rw [hstate, if_neg (by simp [hgen]), if_pos rfl]

theorem Channels.endAt_live (hlive : h.Live handle) : h.endAt handle = .at_ (handleEntryOf handle) (h.entry (handleEntryOf handle)) := by
  obtain ⟨hgen, hfree, hquarantine⟩ := hlive
  rw [Channels.endAt]
  rw [if_neg (by simp [hgen, hfree]), if_neg hquarantine]

theorem Channels.messagesOf_modEntry (h : Channels) (i : Nat) {f : ChEntry → ChEntry} (hcore : (f (h.entry i)).core = (h.entry i).core)
    (hqueue : (f (h.entry i)).queue = (h.entry i).queue) (hgen : (f (h.entry i)).gen = (h.entry i).gen) :
    (h.modEntry i f).messagesOf i = h.messagesOf i := by
  rw [Channels.messagesOf, Channels.messagesOf, Channels.entry_modEntry, hcore, hqueue, hgen]
  rfl

theorem Channels.modQueue_congr {k q : Nat} {f g : RecvQueue → RecvQueue} (hfg : f (h.queue k q) = g (h.queue k q)) :
    h.modQueue k q f = h.modQueue k q g := congrArg (fun x => { h with queues := h.queues.set {} (k * 8 + q) x }) hfg

end

theorem State.modChan_congr {s : State} {c : Nat} {f g : Channels → Channels} (h : f (s.chan c) = g (s.chan c)) : s.modChan c f = s.modChan c g :=
  State.modCove_congr (congrArg (fun x => { s.cove c with ch := x }) h)

/-! The effect of each kind. -/

section
variable {t : State} {c : Nat} {p : ChanPkt} {h : Channels} (hch : t.chan c = h)
include hch

/-- A packet that names no entry is counted. -/
theorem State.recv_stale (hstale : h.endAt p.dst = .stale) :
    t.recvAccept c p = t.countStale c ∧ t.recvRefuse c p = t.countStale c ∧ t.recvDelivered c p = t.countStale c
      ∧ t.recvFull c p = t.countStale c ∧ t.recvResume c p = t.countStale c ∧ t.recvWithdraw c p = t.countStale c
      ∧ t.recvClose c p = t.countStale c ∧ t.recvClosed c p = t.countStale c := by
  simp only [State.recvAccept, State.recvRefuse, State.recvDelivered, State.recvFull, State.recvResume, State.recvWithdraw, State.recvClose,
    State.recvClosed, State.atSender, hch, hstale, and_self]

/-- A packet for an entry in quarantine is answered: CLOSED, or WITHDRAW to RESUME (R163, R166). -/
theorem State.recv_quarantined (hquarantined : h.endAt p.dst = .quarantined) :
    (t.inReset c = false → t.recvData c p = t.answerChan c kClosed p id) ∧ t.recvWithdraw c p = t.answerChan c kClosed p id
      ∧ t.recvClose c p = t.answerChan c kClosed p id ∧ t.recvResume c p = t.answerChan c kWithdraw p id := by
  refine ⟨fun hruns => ?_, ?_, ?_, ?_⟩
  · simp only [State.recvData, hruns, hch, hquarantined, Bool.false_eq_true, if_false]
  · simp only [State.recvWithdraw, hch, hquarantined]
  · simp only [State.recvClose, hch, hquarantined]
  · simp only [State.recvResume, hch, hquarantined]

/-- CONNECT joins its queue's requests, or is refused (R162). -/
theorem State.recvConnect_cases (hruns : t.inReset c = false) :
    let k := epCore p.dstEp
    let q := epQueue p.dstEp
    (((t.cove c).core k).used = true → (h.queue k q).requests.length < 4 → t.recvConnect c p =
      t.modChan c fun h => h.modQueue k q fun r => { r with requests := r.requests ++ [(p.srcEp, p.src)] })
    ∧ (((t.cove c).core k).used = false ∨ 4 ≤ (h.queue k q).requests.length → t.recvConnect c p = t.answerChan c kRefuse p id) := by
  rw [State.recvConnect, hch]
  dsimp only
  rw [hruns]
  refine ⟨fun hused hfew => if_neg ?_, fun hrefused => if_pos (.inr ?_)⟩
  · rw [hused]
    simpa using hfew
  · rwa [Bool.not_eq_true']

section
variable {i : Nat} {e : ChEntry} (hend : h.endAt p.dst = .at_ i e)
include hend

section
variable (hwriter : e.writer = true) (hstate : e.state = .connecting)
include hwriter hstate

theorem State.recvAccept_connecting :
    t.recvAccept c p = (t.modChan c fun h => h.modEntry i fun e => { e with state := .open_, farHandle := p.src }).endChan c
      i (chanResult 0 p.dst 0) := by
  rw [State.recvAccept, hch, hend]
  exact if_pos ⟨hwriter, hstate⟩

theorem State.recvRefuse_connecting :
    t.recvRefuse c p = (t.endChan c i stRefused).modChan c fun h =>
      h.modEntry i fun e => { ({} : ChEntry) with gen := e.gen } := by
  rw [State.recvRefuse, hch, hend]
  exact if_pos ⟨hwriter, hstate⟩

end

section
variable (hwriter : e.writer = true)
  (hsends : e.state = .sending ∨ e.state = .blocked)
include hwriter hsends

/-- An answer reaches the entry whose CSEND waits. -/
theorem State.atSender_sender (f : Nat → ChEntry → State) : t.atSender c p f = f i e := by
  rw [State.atSender, hch, hend]
  exact if_pos ⟨hwriter, hsends⟩

theorem State.recvDelivered_sender (hseq : e.seq = p.seq) :
    t.recvDelivered c p = (t.modChan c fun h => h.modEntry i fun x => { x.rest .open_ with seq := !x.seq }).endChan c
      i stOk := by
  rw [State.recvDelivered, State.atSender_sender hch hend hwriter hsends]
  exact if_pos hseq

theorem State.recvClosed_sender :
    t.recvClosed c p = ((t.modChan c fun h => h.modEntry i fun x => x.rest .open_).countClosed c 1).endChan c
      i stClosed := State.atSender_sender hch hend hwriter hsends _

theorem State.recvClose_sender :
    t.recvClose c p = ((t.modChan c fun h => h.modEntry i fun x => x.rest .peerClosed).countClosed c 1).endChan c
      i stClosed := by
  rw [State.recvClose, hch, hend]
  dsimp only
  rw [hwriter, if_neg (by decide)]
  exact if_pos hsends

end

/-- RESUME sends the message of a listed writer; a CSEND that has ended is answered for (R165, R166). -/
theorem State.recvResume_cases (hwriter : e.writer = true) :
    (e.state = .blocked → e.listed = true → t.recvResume c p =
      (t.modChan c fun h => h.modEntry i fun x => { x with
        state := .sending, listed := false, resent := false, fullSince := none, retryAt := none
        spent := x.spent + ((x.fullSince.map fun a => t.mt.ns - a).getD 0), sentAt := t.cnCycles }).sendData c i)
    ∧ (e.state ≠ .blocked → t.recvResume c p = t.answerChan c kWithdraw p id) := by
  rw [State.recvResume, hch, hend]
  dsimp only
  rw [hwriter, if_neg (by decide)]
  exact ⟨fun hblocked hlisted => if_pos ⟨hblocked, hlisted⟩, fun hstate => if_neg fun hboth => hstate hboth.1⟩

section
variable (hreader : e.writer = false)
include hreader

theorem State.recvData_reader (hruns : t.inReset c = false) :
    t.recvData c p = t.placeData c i e p := by
  rw [State.recvData, hruns, hch, hend]
  dsimp only
  rw [if_neg (by decide), hreader, if_neg (by decide)]

theorem State.recvWithdraw_unreserved
    (hunreserved : (h.queue e.core e.queue).reserved.contains
      (waiterOf p i) = false) :
    t.recvWithdraw c p = t.modChan c fun x =>
      x.modQueue e.core e.queue fun r =>
        { r with
          reserved := r.reserved.filter (fun y => y != waiterOf p i)
          waiters := r.waiters.filter fun y => y != waiterOf p i } := by
  rw [State.recvWithdraw, hch, hend]
  dsimp only
  rw [hreader, if_neg (by decide), hunreserved, if_neg (by decide)]

/-- CLOSE of a reader's writer: the entry keeps its messages, or enters quarantine without any (R168). -/
theorem State.recvClose_reader :
    let t1 := t.modChan c fun h => h.modEntry i fun x => { x with state := .writerClosed }
    t.recvClose c p = if (h.messagesOf i).isEmpty then
        t1.modChan c fun h => h.modEntry i fun x => x.quarantine t.cnCycles
      else t1 := by
  intro t1
  have hentry : ((t1.chan c).entry i).state = .writerClosed := by
    rw [State.modChan_chan, Channels.entry_modEntry]
  have hmessages : (t1.chan c).messagesOf i = h.messagesOf i := by
    rw [State.modChan_chan, hch, Channels.messagesOf_modEntry]
    all_goals rfl
  rw [State.recvClose, hch, hend]
  dsimp only
  rw [hreader, if_pos (by decide), State.drainEntry]
  rw [hentry, hmessages]
  simp only [true_and]
  rfl

end
end

/-! DATA at a reader's entry (R156, R165, R167). -/

section
variable {i : Nat} {e : ChEntry}

omit hch in
theorem State.placeData_again (hplaced : e.placed = true) (hseq : e.seq = p.seq) :
    t.placeData c i e p = t.answerChan c kDelivered p fun a => { a with seq := p.seq } := if_pos ⟨hplaced, hseq⟩

variable (hnew : e.placed = false ∨ e.seq ≠ p.seq)
include hnew

theorem State.placeData_placed (hroom : (h.queue e.core e.queue).reserved.contains (waiterOf p i) = true
      ∨ (h.queue e.core e.queue).msgs.length + (h.queue e.core e.queue).reserved.length < 16) :
    t.placeData c i e p = ((t.modChan c fun h => (h.modQueue e.core e.queue fun r =>
        { r with
          msgs := r.msgs ++ [{ handle := p.dst, len := p.len.toNat, data := lowBytes p.data p.len.toNat, bad := false }]
          reserved := r.reserved.filter fun x => x != waiterOf p i }).modEntry i fun x => { x with seq := p.seq, placed := true }).entryFreed
      c e.core e.queue).answerChan c kDelivered p fun a => { a with seq := p.seq } := by
  rw [State.placeData, hch]
  dsimp only
  rw [if_neg (by simpa [imp_iff_not_or] using hnew)]
  exact if_pos hroom

theorem State.placeData_listed (hfull : 16 ≤ (h.queue e.core e.queue).msgs.length + (h.queue e.core e.queue).reserved.length)
    (hunreserved : (h.queue e.core e.queue).reserved.contains (waiterOf p i) = false)
    (hunlisted : (h.queue e.core e.queue).waiters.contains (waiterOf p i) = false) (hfew : (h.queue e.core e.queue).waiters.length < 8) :
    t.placeData c i e p = ((t.modChan c fun h => h.modQueue e.core e.queue fun r =>
      { r with waiters := r.waiters ++ [waiterOf p i] }).countFull c).answerChan c kFull p fun a => { a with listed := true } := by
  rw [State.placeData, hch]
  dsimp only
  rw [if_neg (by simpa [imp_iff_not_or] using hnew), if_neg, hunlisted, decide_eq_true hfew]
  · congr 2
    refine State.modChan_congr (Channels.modQueue_congr ?_)
    rw [hch]
    exact if_pos ⟨rfl, hfew⟩
  · rw [hunreserved]
    simpa [RecvQueue.occupied] using hfull

end
end

/-! An answer that ends the instruction waiting on its entry (R161, R165, R166). -/

section
variable {s : State} {r : CoreRef} {kind : Nat} {p : ChanPkt} {moving f : State → State} {x : Instr}
  (hexec : exec x s = s.chanArrives r.cove kind p moving f) (hok : s.AcceptsChan r.cove kind p)
  (hreserved : kindReserved (BitVec.ofNat 4 kind) = false) {i : Nat} {rd : BitVec 5} (howner : ((s.chan r.cove).entry i).core = r.core)
  (hwait : AwaitsResult (s.core r) i rd) {g : ChEntry → ChEntry}
include hexec hok hreserved howner hwait

theorem answer_completes {y : Word}
    (heffect : f (s.taken (carrierOf p)) = ((s.taken (carrierOf p)).modChan r.cove fun h => h.modEntry i g).endChan r.cove i y)
    (hg : ∀ e, (g e).core = e.core) :
    CompletesFrom x s ((s.taken (carrierOf p)).modChan r.cove fun h => h.modEntry i g) r ((s.core r).pc + 4) (WritesG rd y) := by
  refine (hok.effect.step hwait.listed _).completes_endChan ?_ hwait (exec_accepted hexec hok hreserved heffect)
  rw [Channels.entry_modEntry, hg, howner]

/-- The message of a CSEND that ends with CLOSED is counted. -/
theorem closing_completes
    (heffect : f (s.taken (carrierOf p)) =
      (((s.taken (carrierOf p)).modChan r.cove fun h => h.modEntry i g).countClosed r.cove 1).endChan r.cove i stClosed)
    (hg : ∀ e, (g e).core = e.core) :
    CompletesFrom x s (((s.taken (carrierOf p)).modChan r.cove fun h => h.modEntry i g).countClosed r.cove 1) r ((s.core r).pc + 4)
      (WritesG rd stClosed) := by
  refine ((hok.effect.step hwait.listed _).step hwait.listed _).completes_endChan ?_ hwait (exec_accepted hexec hok hreserved heffect)
  exact (congrArg ChEntry.core (Channels.entry_modEntry _ _ _)).trans ((hg _).trans howner)

end

/-! The commands of the ten kinds (Table 7.3). -/

section
variable (s : State) (c : Fin 800) (p : ChanPkt)

/-- Each kind's command is its packet's arrival at the queue interface. -/
theorem exec_isArrival : ∀ x ∈ ([(1, .connect c p), (2, .accept c p), (3, .refuse c p), (4, .data c p), (5, .delivered c p), (6, .full c p),
      (7, .resume c p), (8, .withdraw c p), (9, .close c p), (10, .closed c p)] : List (Nat × Instr)),
    ∃ moving f, exec x.2 s = s.chanArrives c x.1 p moving f := by
  simp only [List.forall_mem_cons, List.not_mem_nil, false_imp_iff, implies_true, and_true]
  exact ⟨⟨_, _, exec_connect c p s⟩, ⟨_, _, exec_accept c p s⟩, ⟨_, _, exec_refuse c p s⟩, ⟨_, _, exec_data c p s⟩, ⟨_, _, exec_delivered c p s⟩,
    ⟨_, _, exec_full c p s⟩, ⟨_, _, exec_resume c p s⟩, ⟨_, _, exec_withdraw c p s⟩, ⟨_, _, exec_close c p s⟩, ⟨_, _, exec_closed c p s⟩⟩

/-- A packet that names no entry is counted (R164). -/
theorem exec_stale (hstale : (s.chan c).endAt p.dst = .stale) : ∀ x ∈ ([(2, .accept c p), (3, .refuse c p), (5, .delivered c p), (6, .full c p),
      (7, .resume c p), (8, .withdraw c p), (9, .close c p), (10, .closed c p)] : List (Nat × Instr)),
    s.AcceptsChan c x.1 p → exec x.2 s = .next ((s.taken (carrierOf p)).countStale c) := by
  obtain ⟨haccept, hrefuse, hdelivered, hfull, hresume, hwithdraw, hclose, hclosed⟩ := State.recv_stale (s.taken_chan (carrierOf p) c) hstale
  simp only [List.forall_mem_cons, List.not_mem_nil, false_imp_iff, implies_true, and_true]
  exact ⟨fun hok => exec_accepted (exec_accept c p s) hok rfl haccept, fun hok => exec_accepted (exec_refuse c p s) hok rfl hrefuse,
    fun hok => exec_accepted (exec_delivered c p s) hok rfl hdelivered, fun hok => exec_accepted (exec_full c p s) hok rfl hfull,
    fun hok => exec_accepted (exec_resume c p s) hok rfl hresume, fun hok => exec_accepted (exec_withdraw c p s) hok rfl hwithdraw,
    fun hok => exec_accepted (exec_close c p s) hok rfl hclose, fun hok => exec_accepted (exec_closed c p s) hok rfl hclosed⟩

/-- REFUSE ends the CCONN that waits with REFUSED; its entry is free again, with its generation (R161). -/
theorem refuse_ends {k : Fin 16} {rd : BitVec 5} (hok : s.AcceptsChan c 3 p) (hlive : (s.chan c).Live p.dst)
    (hwriter : ((s.chan c).entry (handleEntryOf p.dst)).writer = true) (hstate : ((s.chan c).entry (handleEntryOf p.dst)).state = .connecting)
    (howner : ((s.chan c).entry (handleEntryOf p.dst)).core = k) (hwait : (s.core ⟨c, k⟩).wait = some (.cconn (handleEntryOf p.dst) rd)) :
    ∃ t, exec (.refuse c p) s = .next ((if (s.core ⟨c, k⟩).pc + 4 = 0x4000 then t.exception ⟨c, k⟩ 0x4102 else t).modChan c fun h =>
        h.modEntry (handleEntryOf p.dst) fun e => { ({} : ChEntry) with gen := e.gen })
      ∧ t = (s.taken (carrierOf p)).modCore ⟨c, k⟩ (fun _ => t.core ⟨c, k⟩)
      ∧ Progress (s.core ⟨c, k⟩) (t.core ⟨c, k⟩) (s.cycles c) ((s.core ⟨c, k⟩).pc + 4)
      ∧ WritesG rd stRefused (s.core ⟨c, k⟩) (t.core ⟨c, k⟩) := by
  have heffect := State.AcceptsChan.effect (r := ⟨c, k⟩) hok
  obtain ⟨u, hu, hends⟩ := heffect.retireNext_wg rd stRefused
  have hexec := exec_accepted (exec_refuse c p s) hok rfl
    (State.recvRefuse_connecting (s.taken_chan _ c) (Channels.endAt_live hlive) hwriter hstate)
  rw [heffect.endChan (r := ⟨c, k⟩) howner (.inr hwait), hu] at hexec
  exact ⟨u, hexec, hends⟩

end

/-- Settles O31: each kind by its packet's arrival (`exec_accepted`) and its effect at the entry that its handle names. -/
theorem channelPacketsTakeEffect : Obligations.ChannelPacketsTakeEffect := by
  unfold Obligations.ChannelPacketsTakeEffect
  intro s c p k rd room ok s0 ch i e q rq w core next setEntry live sender
  have hch : s0.chan c = ch := s.taken_chan _ _
  refine ⟨fun hok hruns => ?_, fun hlive hwriter hstate howner hwait => ⟨fun hok => ?_, fun hok => ?_⟩,
    fun hok hruns hlive hreader => ⟨fun hplaced hseq => ?_, fun hnew hroom => ?_, fun hnew hfull hunreserved hunlisted hfew => ?_⟩,
    fun ⟨hlive, hwriter, hsends, howner⟩ hwait => ⟨fun hok hseq => ?_, fun hok => ?_, fun hok => ?_⟩,
    fun hok ⟨hlive, hwriter, hsends, _⟩ => ?_, fun hok hlive hwriter => ?_,
    fun hlive hreader => ⟨fun hok hunreserved => ?_, fun hok hmessages => ?_, fun hok hmessages => ?_⟩,
    fun hstale => exec_stale s c p (Channels.endAt_stale hstale), fun hgen hstate => ?_, fun x hx => ?_⟩
  · obtain ⟨hjoins, hrefused⟩ := State.recvConnect_cases (p := p) hch hruns
    rw [Cove.core, s.taken_cores] at hjoins hrefused
    exact ⟨fun hused hfew => exec_accepted (exec_connect c p s) hok rfl (hjoins hused hfew),
      fun hnot => exec_accepted (exec_connect c p s) hok rfl (hrefused hnot)⟩
  · exact answer_completes (r := core) (exec_accept c p s) hok rfl howner (.inr hwait)
      (State.recvAccept_connecting hch (Channels.endAt_live hlive) hwriter hstate) fun _ => rfl
  · exact refuse_ends s c p hok hlive hwriter hstate howner hwait
  · exact exec_accepted (exec_data c p s) hok rfl
      ((State.recvData_reader hch (Channels.endAt_live hlive) hreader hruns).trans (State.placeData_again hplaced hseq))
  · exact exec_accepted (exec_data c p s) hok rfl
      ((State.recvData_reader hch (Channels.endAt_live hlive) hreader hruns).trans (State.placeData_placed hch hnew hroom))
  · exact exec_accepted (exec_data c p s) hok rfl ((State.recvData_reader hch (Channels.endAt_live hlive) hreader hruns).trans
      (State.placeData_listed hch hnew hfull hunreserved hunlisted hfew))
  · exact answer_completes (r := core) (exec_delivered c p s) hok rfl howner (.inl hwait)
      (State.recvDelivered_sender hch (Channels.endAt_live hlive) hwriter hsends hseq) fun _ => rfl
  · exact closing_completes (r := core) (exec_closed c p s) hok rfl howner (.inl hwait)
      (State.recvClosed_sender hch (Channels.endAt_live hlive) hwriter hsends) fun _ => rfl
  · exact closing_completes (r := core) (exec_close c p s) hok rfl howner (.inl hwait)
      (State.recvClose_sender hch (Channels.endAt_live hlive) hwriter hsends) fun _ => rfl
  · exact exec_accepted (exec_full c p s) hok rfl (State.atSender_sender hch (Channels.endAt_live hlive) hwriter hsends _)
  · obtain ⟨hsends, hended⟩ := State.recvResume_cases hch (Channels.endAt_live hlive) hwriter
    exact ⟨fun hblocked hlisted => exec_accepted (exec_resume c p s) hok rfl (hsends hblocked hlisted),
      fun hstate => exec_accepted (exec_resume c p s) hok rfl (hended hstate)⟩
  · exact exec_accepted (exec_withdraw c p s) hok rfl (State.recvWithdraw_unreserved hch (Channels.endAt_live hlive) hreader hunreserved)
  · refine exec_accepted (exec_close c p s) hok rfl ((State.recvClose_reader hch (Channels.endAt_live hlive) hreader).trans (if_neg ?_))
    rwa [List.isEmpty_iff]
  · refine exec_accepted (exec_close c p s) hok rfl ((State.recvClose_reader hch (Channels.endAt_live hlive) hreader).trans (if_pos ?_))
    rwa [List.isEmpty_iff]
  · obtain ⟨hdata, hwithdraw, hclose, hresume⟩ := State.recv_quarantined hch (Channels.endAt_quarantined hgen hstate)
    exact ⟨fun hok hruns => exec_accepted (exec_data c p s) hok rfl (hdata hruns), fun hok => exec_accepted (exec_withdraw c p s) hok rfl hwithdraw,
      fun hok => exec_accepted (exec_close c p s) hok rfl hclose, fun hok => exec_accepted (exec_resume c p s) hok rfl hresume⟩
  · obtain ⟨moving, f, hexec⟩ := exec_isArrival s c p x hx
    exact ⟨fun hdst hreceived hgood hroom hout => exec_outOfForm hexec hdst hreceived hgood hroom hout, fun hroom => exec_noRoom hexec hroom⟩

end Sys2Proof.Machine
end

section
/-!
SUPPORT. The tide switch (R182 to R186, R194, R195, R200 to R202): a route cycle with one active route, a phase token, a groyne's release, a
violation and the freeze.
-/
namespace Sys2Proof.Machine

/-! Faults and the freeze (R200 to R202). -/

theorem Tide.freeze_frozen (t : Tide) (cyc from_ : Nat) : (t.freeze cyc from_).frozen = true := by
  unfold Tide.freeze
  split
  · assumption
  · rfl

/-- The switch stands frozen with the violation recorded. -/
structure Tide.Faulted (t : Tide) (code : Code) (plane : BitVec 2) (port : BitVec 5) : Prop where
  frozen : t.frozen = true
  violCode : t.violCode = code
  violPort : t.violPort = port
  violPlane : t.violPlane = plane
  violNew : t.violNew = true

section
variable {s : State} {c : Nat} {code : Code} {plane : BitVec 2} {port : BitVec 5}

/-- A fail vote adds to the votes that have not entered the tree, and to nothing else of the switch. -/
theorem castFail_tide (s : State) (c n att : Nat) (code : Code) (hw : Bool) :
    ∃ casts, ((s.castFail c n att code hw).cove c).tide = { (s.cove c).tide with casts := casts } := by
  unfold State.castFail
  extract_lets s1
  have hvoted : ∃ casts, (s1.cove c).tide = { (s.cove c).tide with casts := casts } := by
    rw [State.modCove_cove]
    exact ⟨_, rfl⟩
  split <;> exact hvoted

theorem isTideHw_of_isViolation (h : isViolation code = true) : isTideHw code = false := by
  simp only [isViolation, isTideHw, decide_eq_true_eq, decide_eq_false_iff_not] at h ⊢
  bv_omega

/-- A violation is recorded and freezes its switch; the step attempt that runs there fails. -/
theorem tideFault_violation (h : isViolation code = true) :
    ((s.tideFault c code plane port).cove c).tide.Faulted code plane port ∧ ChangesOnly [.coves, .bays] s (s.tideFault c code plane port) := by
  unfold State.tideFault
  extract_lets now cyc s1
  rw [if_neg (by simp [isTideHw_of_isViolation h])]
  have hfaulted : (s1.cove c).tide.Faulted code plane port := by
    rw [State.modCove_cove]
    exact ⟨Tide.freeze_frozen _ _ _, rfl, rfl, rfl, rfl⟩
  have honly : ChangesOnly [.coves, .bays] s s1 := (State.modCove_only _ _ _).mono rfl
  split
  · exact ⟨hfaulted, honly⟩
  · next n a _ =>
    obtain ⟨casts, htide⟩ := castFail_tide s1 c n a code false
    refine ⟨?_, (honly.trans (State.castFail_only _ _ _ _ _ _)).trans ((State.modStep_only _ _ _ _).mono rfl)⟩
    show ((s1.castFail c n a code false).cove c).tide.Faulted code plane port
    rw [htide]
    exact { hfaulted with }

end

theorem exec_tideFabricFault_violation {s : State} {c : Fin 800} {code : BitVec 16} {plane : BitVec 2} {port : BitVec 5}
    (hlog : (s.logOf c).isSome = true) (h : isViolation code = true) :
    ∃ u, exec (.tideFabricFault c code plane port) s = .next u ∧ (u.cove c).tide.Faulted code plane port ∧ ChangesOnly [.coves, .bays] s u := by
  obtain ⟨hfaulted, honly⟩ := tideFault_violation (s := s) (c := c) (plane := plane) (port := port) h
  refine ⟨_, (exec_tideFabricFault c code plane port s).trans (occurs_true (by rw [hlog, h]; rfl)), ?_,
    honly.trans ((State.modCove_only _ _ _).mono rfl)⟩
  rw [State.modCove_cove]
  exact { hfaulted with }

/-! FREEZE from a neighbour (R201). -/

theorem State.logOf_of_rot {s t : State} (h : t.rot = s.rot) (c : Nat) : t.logOf c = s.logOf c := by
  have hread : t.logOf c = State.logOf { s with rot := t.rot } c := rfl
  rw [hread, h]

/-- At a seam path that is open, either the token is the lane's next and is taken, or nothing happens. -/
theorem laneIn_cases {s : State} {c d l : Nat} {tok : BitVec 6} {tag : BitVec 2} {f : State → State} (hlog : s.logOf c = some l)
    (hopen : (s.seamPath (l / 36)).state = .open_) : s.laneIn c d tok tag f = s ∨ ∃ x, s.laneIn c d tok tag f = f (s.takeLane c d x) := by
  cases hx : s.laneNext c d with
  | none => exact .inl (laneIn_none hx)
  | some x =>
    by_cases h : x.tok = tok ∧ x.tag = tag
    · obtain ⟨htok, htag⟩ := h
      exact .inr ⟨x, laneIn_takes hlog hopen hx htok htag⟩
    · left
      unfold State.laneIn
      rw [hx]
      exact if_pos (not_and_or.mp h)

/-- A token taken changes lane outputs alone, in whatever cove they are. -/
theorem takeLane_lanes (s : State) (c d : Nat) (x : LaneTok) (e : Nat) :
    ∃ lane free, (s.takeLane c d x).cove e = { s.cove e with tide := { (s.cove e).tide with lane := lane, laneFree := free } } := by
  unfold State.takeLane
  split
  · exact ⟨_, _, rfl⟩
  · next n _ =>
    dsimp only
    rcases eq_or_ne e n with rfl | hne
    · exact ⟨_, _, State.modCove_cove _ _ _⟩
    · exact ⟨_, _, State.modCove_cove_other _ _ hne⟩

/-- Switch `c` hears FREEZE from direction `d` in its cycle `cyc`. -/
def State.hearsFreeze (c cyc : Nat) (s : State) (d : Nat) : State :=
  s.laneIn c d tokFreeze 0 fun u => u.modCove c fun v => v.modTide fun t => t.freeze cyc cyc

/-- In `t` the switch of cove `c` stands frozen; the cove's cores and scratchpad, and whatever is no cove's, are as in `s`. -/
structure FrozenBy (s : State) (c : Nat) (t : State) : Prop where
  frozen : (t.cove c).tide.frozen = true
  cores : (t.cove c).cores = (s.cove c).cores
  sp : (t.cove c).sp = (s.cove c).sp
  only : ChangesOnly [.coves] s t

theorem FrozenBy.trans {s t u : State} {c : Nat} (h : FrozenBy s c t) (k : FrozenBy t c u) : FrozenBy s c u :=
  ⟨k.frozen, k.cores.trans h.cores, k.sp.trans h.sp, h.only.trans k.only⟩

theorem frozenBy_takeLane (s : State) (c d : Nat) (x : LaneTok) (cyc : Nat) :
    FrozenBy s c ((s.takeLane c d x).modCove c fun v => v.modTide fun t => t.freeze cyc cyc) := by
  obtain ⟨lane, free, hcove⟩ := takeLane_lanes s c d x c
  refine ⟨?_, ?_, ?_, (State.takeLane_only _ _ _ _).trans (State.modCove_only _ _ _)⟩ <;> rw [State.modCove_cove]
  · exact Tide.freeze_frozen _ _ _
  · rw [Cove.modTide_cores, hcove]
  · rw [Cove.modTide_sp, hcove]

section
variable {s : State} {c l : Nat} (hlog : s.logOf c = some l) (hopen : (s.seamPath (l / 36)).state = .open_)
include hlog hopen

theorem hearsFreeze_cases (cyc d : Nat) : s.hearsFreeze c cyc d = s ∨ FrozenBy s c (s.hearsFreeze c cyc d) := by
  refine (laneIn_cases hlog hopen).imp_right fun ⟨x, hx⟩ => ?_
  rw [State.hearsFreeze, hx]
  exact frozenBy_takeLane s c d x cyc

/-- A switch that is frozen stays so, whatever it hears. -/
theorem FrozenBy.hearsFreeze {t : State} (h : FrozenBy s c t) (cyc d : Nat) : FrozenBy s c (t.hearsFreeze c cyc d) := by
  have hlog' : t.logOf c = some l := (State.logOf_of_rot (h.only .rot rfl) c).trans hlog
  have hseam : t.seamPath (l / 36) = s.seamPath (l / 36) := congrArg (fun k : Clocks => k.seam.get {} (l / 36)) (h.only .clk rfl)
  rcases hearsFreeze_cases hlog' (hseam ▸ hopen) cyc d with hnone | hstep
  · rw [hnone]
    exact h
  · exact h.trans hstep

/-- Directions heard one after the other, of which one brings FREEZE: before it nothing has happened or the switch is frozen already. -/
theorem hearsFreeze_foldl {d cyc : Nat} {x : LaneTok} (hx : s.laneNext c d = some x) (htok : x.tok = tokFreeze) (htag : x.tag = 0) (ds : List Nat)
    {t : State} (h : t = s ∧ d ∈ ds ∨ FrozenBy s c t) : FrozenBy s c (ds.foldl (State.hearsFreeze c cyc) t) := by
  induction ds generalizing t with
  | nil => exact h.resolve_left fun ⟨_, hmem⟩ => List.not_mem_nil hmem
  | cons e ds ih =>
    apply ih
    rcases h with ⟨rfl, hmem⟩ | hfrozen
    · rcases List.mem_cons.mp hmem with rfl | hmem
      · right
        rw [State.hearsFreeze, laneIn_takes hlog hopen hx htok htag]
        exact frozenBy_takeLane t c d x cyc
      · exact (hearsFreeze_cases hlog hopen cyc e).imp_left fun hnone => ⟨hnone, hmem⟩
    · exact .inr (hfrozen.hearsFreeze hlog hopen cyc e)

end

section
variable {s : State} {c : Fin 800}

theorem exec_freeze_hears {d : Fin 4} {l : Nat} {x : LaneTok} (hlog : s.logOf c = some l) (hopen : (s.seamPath (l / 36)).state = .open_)
    (hx : s.laneNext c d = some x) (htok : x.tok = tokFreeze) (htag : x.tag = 0) :
    ∃ u, exec (.freeze c) s = .next u ∧ FrozenBy s c u := by
  have hmem : d.val ∈ (List.range 4).filter fun d => (s.laneNext c d).any fun x => x.tok == tokFreeze := by
    rw [List.mem_filter, hx]
    exact ⟨List.mem_range.mpr d.isLt, beq_iff_eq.mpr htok⟩
  refine ⟨_, (exec_freeze c s).trans (occurs_true ?_), hearsFreeze_foldl hlog hopen hx htok htag _ (.inl ⟨rfl, hmem⟩)⟩
  rw [hlog, List.isEmpty_eq_false_iff.mpr (List.ne_nil_of_mem hmem)]
  rfl

theorem exec_freeze_none (h : ∀ d : Fin 4, s.laneNext c d = none) : exec (.freeze c) s = .next s := by
  have hnone : (List.range 4).filter (fun d => (s.laneNext c d).any fun x => x.tok == tokFreeze) = [] := by
    rw [List.filter_eq_nil_iff]
    intro d hd
    rw [h ⟨d, List.mem_range.mp hd⟩]
    exact Bool.false_ne_true
  refine (exec_freeze c s).trans (occurs_false ?_)
  rw [hnone, List.isEmpty_nil, Bool.not_true, Bool.and_false]

/-- A switch that stands still runs none of its phases (R202). -/
theorem exec_stopped (h : (s.cove c).tide.stopped (s.cycles c) = true) :
    (∀ p a, exec (.activeRouteCycle c p a) s = .next s) ∧ (∀ k, exec (.pselToken c k) s = .next s)
      ∧ (∀ g, exec (.groyneRelease c g) s = .next s) ∧ ∀ b k, exec (.barrierArrive c b k) s = .next s := by
  have hruns : s.tideRuns c = false := by rw [State.tideRuns, h, Bool.not_true, Bool.and_false, Bool.false_and]
  refine ⟨fun p a => ?_, fun k => ?_, fun g => ?_, fun b k => ?_⟩
  · exact (exec_activeRouteCycle c p a s).trans (occurs_false (by rw [hruns, Bool.false_and]))
  · exact (exec_pselToken c k s).trans (occurs_false hruns)
  · exact (exec_groyneRelease c g s).trans (occurs_false (by rw [hruns, Bool.false_and, Bool.false_and]))
  · exact (exec_barrierArrive c b k s).trans (occurs_false (by rw [hruns, Bool.false_and]))

/-! A phase token (R185, R186). -/

/-- The phase changes that a token asks for from cycle `at_` on: of one plane, or of all. -/
def phaseChanges (tok : BitVec 8) (at_ : Nat) : List (Nat × Nat × Nat) :=
  if tok.toNat / 16 % 4 = 3 then [(0, tok.toNat % 16, at_), (1, tok.toNat % 16, at_), (2, tok.toNat % 16, at_)]
  else [(tok.toNat / 16 % 4, tok.toNat % 16, at_)]

section
variable {t : Tide} {tok : BitVec 8} {phases cyc : Nat}

theorem Tide.pselToken_names (hkind : tok.toNat / 64 = 1) (hphase : tok.toNat % 16 < phases) :
    t.pselToken tok phases cyc = ({ t with phNext := t.phNext ++ phaseChanges tok (cyc + 2) }, none) := by
  unfold Tide.pselToken phaseChanges
  extract_lets phase planes
  rw [if_neg (by omega)]
  by_cases hall : tok.toNat / 16 % 4 = 3
  · have hplanes : planes = [0, 1, 2] := by simp only [planes, hall]
    rw [hplanes, if_pos hall]
    simp only [List.map_cons, List.map_nil, phase]
  · have hplanes : planes = [tok.toNat / 16 % 4] := by simp only [planes]
    rw [hplanes, if_neg hall]
    simp only [List.map_cons, List.map_nil, phase]

theorem Tide.pselToken_invalid (h : tok.toNat / 64 ≠ 1 ∨ phases ≤ tok.toNat % 16) : t.pselToken tok phases cyc = (t, some 0x6029) := if_pos h

end

theorem exec_pselToken_names {tok : BitVec 8} (hruns : s.tideRuns c = true) (hkind : tok.toNat / 64 = 1) (hphase : tok.toNat % 16 < s.phasesAt c) :
    exec (.pselToken c tok) s =
      .next (s.modCove c fun v => v.modTide fun t => { t with phNext := t.phNext ++ phaseChanges tok (s.cycles c + 2) }) := by
  refine (exec_pselToken c tok s).trans ((occurs_true hruns).trans ?_)
  rw [Tide.pselToken_names hkind hphase]
  exact congrArg _ (State.modCove_congr rfl)

theorem exec_pselToken_invalid {tok : BitVec 8} (hruns : s.tideRuns c = true) (h : tok.toNat / 64 ≠ 1 ∨ s.phasesAt c ≤ tok.toNat % 16) :
    ∃ u, exec (.pselToken c tok) s = .next u ∧ (u.cove c).tide.Faulted 0x6029 2 26 := by
  refine ⟨_, (exec_pselToken c tok s).trans (occurs_true hruns), ?_⟩
  rw [Tide.pselToken_invalid h]
  exact (tideFault_violation rfl).1

/-! A groyne's release (R194, R195). -/

/-- The outputs of groyne `g` hold the word where the token names their direction. -/
def groyneOut (o : Tab (List (TideWord × Nat))) (g cyc : Nat) (w : TideWord) (k : BitVec 8) : Tab (List (TideWord × Nat)) :=
  (List.range 4).foldl (fun (o : Tab (List (TideWord × Nat))) i => o.set [] (20 + g * 4 + i) (if k.getLsbD i then [(w, cyc)] else [])) o

theorem groyneOut_get (o : Tab (List (TideWord × Nat))) (g cyc : Nat) (w : TideWord) (k : BitVec 8) (i : Fin 4) :
    (groyneOut o g cyc w k).get [] (20 + g * 4 + i) = if k.getLsbD i then [(w, cyc)] else [] := by
  simp only [groyneOut, List.range, List.range.loop, List.foldl, Tab.get_set, Nat.add_left_cancel_iff]
  fin_cases i <;> rfl

theorem exec_groyneRelease_pair {g : Fin 2} {y : Groyne} {w : TideWord} {k : BitVec 8} {at_ : Nat} {rest : List (TideWord × BitVec 8 × Nat)}
    (hy : (s.cove c).tide.groynes.get {} g = y) (hruns : s.tideRuns c = true) (henabled : y.enabled = true)
    (hdue : windowOf y.cfg (s.cycles c - (s.cove c).tide.stepCyc) = true) (hnew : y.released ≤ s.cycles c) (hpair : y.pairs = (w, k, at_) :: rest)
    (hbefore : at_ < s.cycles c) :
    exec (.groyneRelease c g) s = .next (s.modCove c fun v => v.modTide fun t => { t with
      groynes := t.groynes.set {} g { y with pairs := rest, released := s.cycles c + 1 }
      gout := groyneOut t.gout g (s.cycles c) w k }) := by
  subst hy
  refine (exec_groyneRelease c g s).trans ((occurs_true ?_).trans ?_)
  · rw [hruns, henabled, hdue, decide_eq_true hnew]
    rfl
  · rw [hpair]
    exact congrArg _ (if_neg (Nat.not_le_of_lt hbefore))

end

/-! A route cycle (R182, R183). -/

theorem Tide.advance_none {t : Tide} (h : t.phNext = []) (cyc : Nat) : t.advance cyc = t := by
  unfold Tide.advance
  rw [h]
  show ({ t with phNext := [] } : Tide) = t
  rw [← h]

/-- The plane's routes are evaluated in cycle `cyc`. -/
def Cove.evaluated (v : Cove) (plane cyc : Nat) : Cove := v.modTide fun t => { t.advance cyc with ran := t.ran.set 0 plane (cyc + 1) }

/-- Cycle `cyc` of the plane's routes, as their words have left their sources and reached no destination yet. -/
def State.routing (s : State) (c plane cyc : Nat) (srcs : List Nat) : State :=
  (s.modCove c fun v => v.evaluated plane cyc).modCove c fun v => v.taken plane cyc srcs

/-- A send latch without its oldest word, if that can be taken. -/
def Latches.sent (l : Latches) (cyc : Nat) : Latches :=
  { l with send := match l.send with
      | (x, at_, ok) :: t => if at_ < cyc then t else (x, at_, ok) :: t
      | [] => [] }

theorem Latches.sent_send {l : Latches} {x : Row} {at_ cyc : Nat} {ok : Bool} {rest : List (Row × Nat × Bool)}
    (h : l.send = (x, at_, ok) :: rest) (hbefore : at_ < cyc) : (l.sent cyc).send = rest := by
  unfold Latches.sent
  rw [h]
  exact if_pos hbefore

/-- A change of one latch keeps what it does not touch of any latch. -/
theorem Cove.modLatch_keeps {α : Type} (g : Latches → α) {v : Cove} {k p : Nat} {f : Latches → Latches} (h : g (f (v.latch k p)) = g (v.latch k p))
    (j : Nat) : g ((v.modLatch k p f).latch j p) = g (v.latch j p) := by
  rcases eq_or_ne j k with rfl | hne
  · rw [Cove.modLatch_latch, h]
  · exact congrArg g (Tab.get_upd_other _ _ _ (by omega))

/-- A core's word taken leaves its send latch; of the switch only the inputs change. -/
theorem Cove.taken_core (v : Cove) (plane cyc : Nat) (i : Fin 16) :
    ∃ inputs, v.taken plane cyc [4 + i.val] = (v.modLatch i plane fun l => l.sent cyc).modTide fun t => { t with inputs := inputs } := by
  have hcore : [4 + i.val].filter (fun k => decide (4 ≤ k) && decide (k < 20)) = [4 + i.val] := by
    simp only [List.filter_cons, List.filter_nil]
    exact if_pos (by simp; omega)
  have hqueue : [4 + i.val].filter (fun k => decide (28 ≤ k)) = [] := by
    simp only [List.filter_cons, List.filter_nil]
    exact if_neg (by simp; omega)
  unfold Cove.taken
  rw [hcore, hqueue]
  simp only [List.foldl_cons, List.foldl_nil, Nat.add_sub_cancel_left]
  exact ⟨_, rfl⟩

section
variable {s : State} {c plane cyc : Nat} {i : Fin 16} {x : Row} {at_ : Nat} {ok : Bool} {rest : List (Row × Nat × Bool)}

/-- What has happened when the word of core `i` has left its send latch. -/
theorem State.routing_cove (s : State) (c plane cyc : Nat) (i : Fin 16) :
    ∃ t : Tide, t.ran.get 0 plane = cyc + 1 ∧ t.injPar = ((s.cove c).tide.advance cyc).injPar
      ∧ (s.routing c plane cyc [4 + i.val]).cove c = ((s.cove c).modLatch i plane fun l => l.sent cyc).modTide fun _ => t := by
  rw [State.routing, State.modCove_cove, State.modCove_cove]
  obtain ⟨inputs, htaken⟩ := ((s.cove c).evaluated plane cyc).taken_core plane cyc i
  rw [htaken]
  exact ⟨{ ((s.cove c).evaluated plane cyc).tide with inputs := inputs }, Tab.get_set_same _ _ _ _, rfl, rfl⟩

theorem Cove.ne_of_ran {v : Cove} (h : v.tide.ran.get 0 plane = cyc + 1) : v ≠ {} := by
  rintro rfl
  exact absurd h (Nat.succ_ne_zero cyc).symm

theorem State.routing_coveOnly (s : State) (c plane cyc : Nat) (srcs : List Nat) : CoveOnly c s (s.routing c plane cyc srcs) := by
  refine (CoveOnly.modCove s c _).step (Cove.ne_of_ran (plane := plane) (cyc := cyc) ?_) _
  rw [State.modCove_cove]
  exact Tab.get_set_same _ _ _ _

theorem Cove.sourceWord_core {v : Cove} (hsend : (v.latch i plane).send = (x, at_, ok) :: rest) (hbefore : at_ < cyc) :
    v.sourceWord plane cyc (4 + i) = (some ⟨x, ok⟩, none) := by
  unfold Cove.sourceWord
  rw [if_neg (by omega), if_pos (by omega), Nat.add_sub_cancel_left, hsend]
  exact if_pos hbefore

theorem Cove.delivery_core {v : Cove} {e : BitVec 64} {dest : Nat} (hsrc : routeSrc e = 4 + i.val) (hplain : plane = 1 → routeReduce e = false)
    (hsend : (v.latch i plane).send = (x, at_, ok) :: rest) (hbefore : at_ < cyc) :
    v.delivery plane cyc (dest, e) = { dest := dest, word := some ⟨x, ok⟩ } := by
  unfold Cove.delivery
  rw [if_neg fun h => by simp [hplain h.1] at h]
  dsimp only
  rw [hsrc, sourceWord_core hsend hbefore]

/-- A cycle in which one route is active and no word is at an input: the route's word goes from its core to its destination. -/
theorem State.routeCycle_delivers {e : BitVec 64} {dest : Nat} {adderBad : Bool} {u : State} (hphase : (s.cove c).tide.phNext = [])
    (hinputs : ∀ d : Fin 4, (s.cove c).tide.inputs.get [] (plane * 4 + d.val) = []) (hactive : (s.cove c).tide.active plane cyc = [(dest, e)])
    (hsrc : routeSrc e = 4 + i.val) (hplain : plane = 1 → routeReduce e = false)
    (hsend : ((s.cove c).latch i plane).send = (x, at_, ok) :: rest) (hbefore : at_ < cyc)
    (hdeliver : (s.routing c plane cyc [4 + i.val]).deliver c plane cyc dest ⟨x, ok⟩ = (u, none)) :
    s.routeCycle c plane cyc adderBad = u := by
  have hevaluated : (s.modCove c fun v => v.evaluated plane cyc).cove c
      = (s.cove c).modTide fun t => { t with ran := t.ran.set 0 plane (cyc + 1) } := by
    rw [State.modCove_cove, Cove.evaluated, Cove.modTide, Tide.advance_none hphase]
    rfl
  unfold State.routeCycle
  extract_lets s0 v act srcs ins link stray dels take opnd adder s1 r
  have hv : v = (s.cove c).modTide fun t => { t with ran := t.ran.set 0 plane (cyc + 1) } := hevaluated
  have hact : act = [(dest, e)] := (congrArg (fun w : Cove => w.tide.active plane cyc) hv).trans hactive
  have hplainSrcs : (if plane = 1 ∧ routeReduce e = true then routeMask e else []) = [] := if_neg fun h => by simp [hplain h.1] at h
  have hsrcs : srcs = [4 + i.val] := by
    simp only [srcs, hact, List.flatMap_cons, List.flatMap_nil, hplainSrcs, hsrc]
    rfl
  have hins : ins = [] := by
    rw [List.filterMap_eq_nil_iff]
    intro d hd
    have hnone : v.tide.inputs.get [] (plane * 4 + d) = [] := by
      rw [hv]
      exact hinputs ⟨d, List.mem_range.mp hd⟩
    rw [Tide.inputAt, hnone]
    rfl
  have hdels : dels = [{ dest := dest, word := some ⟨x, ok⟩ }] := by
    have hsend' : (v.latch i plane).send = (x, at_, ok) :: rest := by
      rw [hv]
      exact hsend
    simp only [dels, hact, List.map_cons, List.map_nil, Cove.delivery_core hsrc hplain hsend' hbefore]
  have hs1 : s1 = s.routing c plane cyc [4 + i.val] := by
    simp only [s1, hdels, hsrcs]
    rfl
  have hr : r = (u, []) := by
    simp only [r, hdels, List.foldl_cons, List.foldl_nil, hs1, hdeliver]
    rfl
  simp only [link, stray, take, opnd, adder, hins, hdels, hr]
  rfl

/-- A word for core `j` enters its receive latch. -/
theorem State.deliver_core {j : Fin 16} {w : TideWord} (hroom : ((s.cove c).latch j plane).recv.length < 2) :
    s.deliver c plane cyc (4 + j.val) w =
      (s.modCove c fun v => v.modLatch j plane fun l => { l with recv := l.recv ++ [(w.data, cyc, w.ok)] }, none) := by
  unfold State.deliver
  rw [if_neg (by omega), if_pos (by omega), Nat.add_sub_cancel_left, if_neg (by omega)]

/-- A word for a mesh output of a link within a half goes to the neighbour's input, present there a cycle later. -/
theorem State.deliver_mesh {d : Fin 4} {l m n : Nat} {w : TideWord} (hinj : (s.cove c).tide.injPar = false) (hlog : s.logOf c = some l)
    (hneighbour : logNeighbour l d = some m) (hphys : s.physOf m = some n) (hseam : crossesSeam l d = false) :
    s.deliver c plane cyc d w = (s.modCove n fun v => v.modTide fun t =>
      { t with inputs := t.inputs.set [] (plane * 4 + facing d) (t.inputs.get [] (plane * 4 + facing d) ++ [(w, cyc + 1)]) }, none) := by
  unfold State.deliver
  rw [if_pos d.isLt]
  unfold State.drive
  simp only [hinj, hlog, Option.getD_some, Bool.and_false, Bool.false_eq_true, if_false, hneighbour, hseam, false_and, hphys]

end

section
variable {s : State} {c : Fin 800} {plane : Fin 3} {e : BitVec 64} {i : Fin 16} {x : Row} {at_ dest : Nat} {ok : Bool} {rest : List (Row × Nat × Bool)}
  (hruns : s.tideRuns c = true) (hnew : (s.cove c).tide.ran.get 0 plane ≤ s.cycles c) (hphase : (s.cove c).tide.phNext = [])
  (hinputs : ∀ d : Fin 4, (s.cove c).tide.inputs.get [] (plane.val * 4 + d.val) = [])
  (hactive : (s.cove c).tide.active plane (s.cycles c) = [(dest, e)]) (hsrc : routeSrc e = 4 + i.val) (hplain : plane = 1 → routeReduce e = false)
  (hsend : ((s.cove c).latch i plane).send = (x, at_, ok) :: rest) (hbefore : at_ < s.cycles c)
include hruns hnew hphase hinputs hactive hsrc hplain hsend hbefore

theorem exec_activeRouteCycle_delivers {u : State}
    (hdeliver : (s.routing c plane (s.cycles c) [4 + i.val]).deliver c plane (s.cycles c) dest ⟨x, ok⟩ = (u, none)) :
    exec (.activeRouteCycle c plane false) s = .next u := by
  refine (exec_activeRouteCycle c plane false s).trans ((occurs_true ?_).trans (congrArg _ ?_))
  · rw [hruns, decide_eq_true hnew]
    rfl
  · exact State.routeCycle_delivers hphase hinputs hactive hsrc (fun h => hplain (Fin.ext h)) hsend hbefore hdeliver

theorem routeCycle_toCore {j : Fin 16} (hdest : dest = 4 + j.val) (hroom : ((s.cove c).latch j plane).recv.length < 2) :
    ∃ u, exec (.activeRouteCycle c plane false) s = .next u ∧ ((u.cove c).latch i plane).send = rest
      ∧ ((u.cove c).latch j plane).recv = ((s.cove c).latch j plane).recv ++ [(x, s.cycles c, ok)]
      ∧ (u.cove c).tide.ran.get 0 plane = s.cycles c + 1 ∧ (u.cove c).cores = (s.cove c).cores ∧ (u.cove c).sp = (s.cove c).sp ∧ CoveOnly c s u := by
  subst hdest
  obtain ⟨t, hran, -, hcove⟩ := State.routing_cove s c plane (s.cycles c) i
  have hrecv : (((s.routing c plane (s.cycles c) [4 + i.val]).cove c).latch j plane).recv = ((s.cove c).latch j plane).recv := by
    rw [hcove]
    exact Cove.modLatch_keeps Latches.recv rfl j
  have hsent : (((s.routing c plane (s.cycles c) [4 + i.val]).cove c).latch i plane).send = rest := by
    rw [hcove]
    exact (congrArg Latches.send (Cove.modLatch_latch _ _ _ _)).trans (Latches.sent_send hsend hbefore)
  refine ⟨_, exec_activeRouteCycle_delivers hruns hnew hphase hinputs hactive hsrc hplain hsend hbefore
    (State.deliver_core (by rwa [hrecv])), ?_, ?_, ?_, ?_, ?_,
    (State.routing_coveOnly s c plane (s.cycles c) _).step (Cove.ne_of_ran (by rw [hcove]; exact hran)) _⟩ <;> rw [State.modCove_cove]
  · rw [Cove.modLatch_keeps Latches.send rfl i, hsent]
  · rw [Cove.modLatch_latch, hrecv]
  · rw [Cove.modLatch_tide, hcove]
    exact hran
  · rw [Cove.modLatch_cores, hcove]
    rfl
  · rw [Cove.modLatch_sp, hcove]
    rfl

theorem routeCycle_toMesh {d : Fin 4} {l m n : Nat} (hdest : dest = d.val) (hinj : (s.cove c).tide.injPar = false) (hlog : s.logOf c = some l)
    (hneighbour : logNeighbour l d = some m) (hphys : s.physOf m = some n) (hfar : n ≠ c.val) (hseam : crossesSeam l d = false) :
    ∃ u, exec (.activeRouteCycle c plane false) s = .next u ∧ ((u.cove c).latch i plane).send = rest
      ∧ (u.cove n).tide.inputs.get [] (plane.val * 4 + facing d)
          = (s.cove n).tide.inputs.get [] (plane.val * 4 + facing d) ++ [({ data := x, ok := ok }, s.cycles c + 1)]
      ∧ ChangesOnly [.coves] s u ∧ ∀ k, k ≠ c.val → k ≠ n → u.cove k = s.cove k := by
  subst hdest
  obtain ⟨t, -, hsame, hcove⟩ := State.routing_cove s c plane (s.cycles c) i
  have hothers (k : Nat) (hk : k ≠ c.val) : (s.routing c plane (s.cycles c) [4 + i.val]).cove k = s.cove k :=
    (State.modCove_cove_other _ _ hk).trans (State.modCove_cove_other _ _ hk)
  have hinj' : ((s.routing c plane (s.cycles c) [4 + i.val]).cove c).tide.injPar = false := by
    rw [hcove]
    exact hsame.trans (by rw [Tide.advance_none hphase]; exact hinj)
  refine ⟨_, exec_activeRouteCycle_delivers hruns hnew hphase hinputs hactive hsrc hplain hsend hbefore
    (State.deliver_mesh hinj' hlog hneighbour hphys hseam), ?_, ?_,
    ((State.modCove_only _ _ _).trans (State.modCove_only _ _ _)).trans (State.modCove_only _ _ _),
    fun k hk hkn => (State.modCove_cove_other _ _ hkn).trans (hothers k hk)⟩
  · rw [State.modCove_cove_other _ _ hfar.symm, hcove]
    exact (congrArg Latches.send (Cove.modLatch_latch _ _ _ _)).trans (Latches.sent_send hsend hbefore)
  · rw [State.modCove_cove, Cove.modTide_tide, hothers n hfar]
    exact Tab.get_set_same _ _ _ _

end

/-- Settles O35: each event of the switch by its own lemma. -/
theorem tideSwitchCyclesTakeEffect : Obligations.TideSwitchCyclesTakeEffect := by
  unfold Obligations.TideSwitchCyclesTakeEffect
  intro s c v t cyc
  refine ⟨fun plane e i x at_ rest hruns hnew hphase hinputs hsrc hplain hsend hbefore => ⟨fun j hactive hroom => ?_,
      fun d l m n hactive hinj hlog hneighbour hphys hfar hseam => ?_⟩,
    fun tok hruns hkind hphase => exec_pselToken_names hruns hkind hphase, fun tok hruns hbad => ?_,
    fun g w k at_ rest => ?_, fun code plane port hlog hcode => ?_,
    fun d x l hlog hopen hx htok htag => ?_, exec_freeze_none, exec_stopped⟩
  · exact routeCycle_toCore hruns hnew hphase hinputs hactive hsrc hplain hsend hbefore rfl hroom
  · exact routeCycle_toMesh hruns hnew hphase hinputs hactive hsrc hplain hsend hbefore rfl hinj hlog hneighbour hphys hfar hseam
  · obtain ⟨u, hexec, hfaulted⟩ := exec_pselToken_invalid hruns hbad
    exact ⟨u, hexec, hfaulted.frozen, hfaulted.violCode⟩
  · intro y hruns henabled hdue hnew hpair hbefore
    refine ⟨_, exec_groyneRelease_pair rfl hruns henabled hdue hnew hpair hbefore, CoveOnly.modCove s c _, ?_, fun i => ?_⟩ <;>
      rw [State.modCove_cove]
    · exact Tab.get_set_same _ _ _ _
    · exact groyneOut_get _ _ _ _ _ i
  · obtain ⟨u, hexec, hfaulted, honly⟩ := exec_tideFabricFault_violation (plane := plane) (port := port) hlog hcode
    exact ⟨u, hexec, hfaulted.frozen, hfaulted.violCode, hfaulted.violPort, hfaulted.violPlane, hfaulted.violNew, honly⟩
  · obtain ⟨u, hexec, hfrozen⟩ := exec_freeze_hears hlog hopen hx htok htag
    exact ⟨u, hexec, hfrozen.frozen, hfrozen.cores, hfrozen.sp, hfrozen.only⟩

end Sys2Proof.Machine
end

section
/-!
SUPPORT. A router's decision (R222, R231 to R236, R245): what becomes of the winner of an output, and where a packet stands once it has left.
-/
namespace Sys2Proof.Machine

/-! The ring geometry (R216). -/

theorem xAt_ne : ∀ x < 40, xAt ((xPos x + 1) % 40) ≠ x ∧ xAt ((xPos x + 39) % 40) ≠ x := by decide
theorem yAt_ne : ∀ y < 20, yAt ((yPos y + 1) % 20) ≠ y ∧ yAt ((yPos y + 19) % 20) ≠ y := by decide

/-- A link of a ring leads to another router. -/
theorem ringNext_ne (c : Fin 800) (o : Nat) : ringNext c o ≠ c := by
  have hc := c.isLt
  obtain ⟨hxplus, hxminus⟩ := xAt_ne (c % 40) (Nat.mod_lt _ (by decide))
  obtain ⟨hyplus, hyminus⟩ := yAt_ne (c / 40) (by omega)
  unfold ringNext
  dsimp only
  split <;> omega

/-! The winner of an output. -/

/-- Did the map entry of an injector give the packet its destination (R235, R236)? -/
def usesMap (port : Nat) (p : Packet) : Bool := decide (4 ≤ port) && p.dstLog.isSome && !p.redirected

/-- Output `out` of router `c` has chosen the head of channel `key`. -/
def State.chosen (s : State) (c out key : Nat) : State := s.modCove c fun v => v.modNet fun n => { n with lastWin := n.lastWin.put out key }

/-- The chosen packet has left its queue, and what waits at the injectors has entered as far as it may. -/
def State.dequeued (s : State) (c out port vc : Nat) : State :=
  ((s.chosen c out (port * 4 + vc)).modCove c fun v => v.modNet fun n =>
    { n.setBuf port vc ((n.buf port vc).drop 1) with withdrawn := n.withdrawn.erase (port * 4 + vc) }).enter c

/-- The requester of a chosen packet has gone: the request is withdrawn and counted (R233). -/
def State.requestWithdrawn (s : State) (c out key : Nat) : State :=
  ((s.chosen c out key).modCove c fun v => v.modNet fun n => { n with withdrawn := n.withdrawn ++ [key] }).netCount c 5

/-- A packet that goes on: INJ_PAR spoils one with a payload (R247), one with bad parity is counted, and it leaves by its output or, a broadcast,
by all its branches (R245). -/
def State.forwarded (s : State) (c : Fin 800) (out : Fin 6) (port vc : Nat) (p : Packet) : State :=
  let spoil := (s.cove c).net.injPar && !p.payload.isEmpty
  let s1 := (s.dequeued c out port vc).modCove c fun v => v.modNet fun n => { n with injPar := n.injPar && !spoil }
  let s2 := if p.bad = true then s1.netCount c 2 else s1
  (if p.bcast = true then s.branches c port p else [out.val]).foldl (fun t o => t.leave c o port { p with bad := p.bad || spoil }) s2

section
variable {s : State} {c : Fin 800} {out : Fin 6}

theorem exec_arbiterDecision_idle (hnone : winner ((s.cove c).net.lastWin.get 23 out) ((s.cove c).net.heads.filter (s.eligible c out)) = none)
    (parity : ForwardParity) : exec (.arbiterDecision c out parity) s = .next s := by
  rw [exec_arbiterDecision, execArbiterDecision]
  simp only [hnone]

variable {port vc : Nat} {p : Packet}
  (hwin : winner ((s.cove c).net.lastWin.get 23 out) ((s.cove c).net.heads.filter (s.eligible c out)) = some (port, vc, p))
include hwin

theorem exec_arbiterDecision_headerBad (tableBad mapBad : Bool) : exec (.arbiterDecision c out ⟨true, tableBad, mapBad⟩) s =
    .next (((s.dequeued c out port vc).netCount c 2).coveError c 0x7021) := by
  rw [exec_arbiterDecision, execArbiterDecision]
  simp only [hwin]
  rfl

section
variable {tableBad mapBad : Bool}

/-- The table entry that routes the packet fails parity, or the map entry that its injector used (R235). -/
theorem exec_arbiterDecision_tableBad (hbad : tableBad = true ∧ p.bcast = false ∨ mapBad = true ∧ usesMap port p = true) :
    exec (.arbiterDecision c out ⟨false, tableBad, mapBad⟩) s = .next ((s.dequeued c out port vc).hwError c 0x7023) := by
  rw [exec_arbiterDecision, execArbiterDecision]
  simp only [hwin]
  refine (if_neg Bool.false_ne_true).trans (if_pos ?_)
  rcases hbad with ⟨htable, hbcast⟩ | ⟨hmap, huses⟩
  · rw [htable, hbcast]; rfl
  · rw [hmap, Bool.true_and, Bool.or_eq_true]; exact .inr huses

/-- A packet whose entries are good is judged by its age, its version and its requester. -/
theorem exec_arbiterDecision_tableGood (htable : tableBad = false ∨ p.bcast = true) (hmap : mapBad = false ∨ usesMap port p = false) :
    exec (.arbiterDecision c out ⟨false, tableBad, mapBad⟩) s = .next (
      if s.aged p = true then ((s.dequeued c out port vc).netCount c 0).netCount c 5
      else if s.net.valid p.epoch = false then (s.dequeued c out port vc).netCount c 1
      else if s.portGone c port = true then s.requestWithdrawn c out (port * 4 + vc)
      else s.forwarded c out port vc p) := by
  have hgood : (tableBad && !p.bcast || mapBad && decide (4 ≤ port) && p.dstLog.isSome && !p.redirected) = false := by
    rw [Bool.and_assoc, Bool.and_assoc, ← Bool.and_assoc (decide _), Bool.or_eq_false_iff, Bool.and_eq_false_iff, Bool.and_eq_false_iff,
      Bool.not_eq_false']
    exact ⟨htable, hmap⟩
  rw [exec_arbiterDecision, execArbiterDecision]
  simp only [hwin, hgood, Bool.false_eq_true, if_false, Bool.not_eq_true']
  split
  · rfl
  · split
    · rfl
    · split <;> rfl

end
end

/-! A withdrawn request. -/

theorem State.requestWithdrawn_net (s : State) (c out key port vc : Nat) :
    ((s.requestWithdrawn c out key).cove c).net.buf port vc = (s.cove c).net.buf port vc
      ∧ ((s.requestWithdrawn c out key).cove c).net.withdrawn = (s.cove c).net.withdrawn ++ [key]
      ∧ ((s.requestWithdrawn c out key).cove c).net.ctr = bump (s.cove c).net.ctr 5 1 := by
  simp only [State.requestWithdrawn, State.chosen, State.netCount, State.modCove_cove]
  exact ⟨rfl, rfl, rfl⟩

/-- Every part but the coves, and every cove but `c`, is the same. -/
structure OnlyAt (c : Nat) (s t : State) : Prop where
  only : ChangesOnly [.coves] s t
  others : ∀ k, k ≠ c → t.cove k = s.cove k

theorem OnlyAt.refl (c : Nat) (s : State) : OnlyAt c s s := ⟨.refl _ s, fun _ _ => rfl⟩

theorem OnlyAt.trans {c : Nat} {s t u : State} (h : OnlyAt c s t) (k : OnlyAt c t u) : OnlyAt c s u :=
  ⟨h.only.trans k.only, fun d hd => (k.others d hd).trans (h.others d hd)⟩

theorem OnlyAt.modCove (s : State) (c : Nat) (f : Cove → Cove) : OnlyAt c s (s.modCove c f) :=
  ⟨s.modCove_only c f, fun _ hd => State.modCove_cove_other _ _ hd⟩

theorem State.requestWithdrawn_onlyAt (s : State) (c out key : Nat) : OnlyAt c s (s.requestWithdrawn c out key) := by
  unfold State.requestWithdrawn State.chosen State.netCount
  exact ((OnlyAt.modCove s c _).trans (.modCove _ c _)).trans (.modCove _ c _)

/-! Where a packet stands that has left (R222, R224, R226, R245). -/

section
variable (t : State) (c : Fin 800) {o : Nat} (port : Nat) (q : Packet)

/-- By a ring's output: last at the next router's input, marked at the dateline. -/
theorem State.leave_ring (ho : o < 4) :
    let h := hopped c o port q
    ((t.leave c o port q).cove (ringNext c o) = (t.cove (ringNext c o)).modNet fun n =>
        n.setBuf (ringBack o) (packetVc h) (n.buf (ringBack o) (packetVc h) ++ [h]))
      ∧ ((t.leave c o port q).cove c).net = (t.cove c).net.count (6 + o) (packetFlits q)
      ∧ ChangesOnly [.coves] t (t.leave c o port q) ∧ ∀ k, k ≠ c.val → k ≠ ringNext c o → (t.leave c o port q).cove k = t.cove k := by
  intro h
  have hne := ringNext_ne c o
  have hleave : t.leave c o port q = (t.modCove c fun v => v.modNet fun n => n.count (6 + o) (packetFlits q)).modCove (ringNext c o) fun v =>
      v.modNet fun n => n.setBuf (ringBack o) (packetVc h) (n.buf (ringBack o) (packetVc h) ++ [h]) := if_pos ho
  rw [hleave]
  refine ⟨?_, ?_, (State.modCove_only _ _ _).trans (State.modCove_only _ _ _), fun k hk hd => ?_⟩
  · rw [State.modCove_cove, State.modCove_cove_other _ _ hne]
  · rw [State.modCove_cove_other _ _ hne.symm, State.modCove_cove, Cove.modNet_net]
  · rw [State.modCove_cove_other _ _ hd, State.modCove_cove_other _ _ hk]

/-- A broadcast is consumed on arrival. -/
theorem State.leave_broadcast (ho : 4 ≤ o) (hbcast : q.bcast = true) : t.leave c o port q =
    (t.modCove c fun v => v.modNet fun n => n.count (6 + o) (packetFlits q)).modCove c fun v => v.takeBroadcast q :=
  (if_neg (Nat.not_lt.mpr ho)).trans (if_pos hbcast)

/-- Any other packet waits at its destination, but for an outcome of a step that an agent takes. -/
theorem State.leave_ejected (ho : 4 ≤ o) (hbcast : q.bcast = false) (hkind : ¬ (q.type = 8 ∧ q.response = true ∧ q.agent = true)) :
    let n := (t.cove c).net.count (6 + o) (packetFlits q)
    ((t.leave c o port q).cove c).net = { n with ejected := n.ejected ++ [(o, q)] } ∧ OnlyAt c t (t.leave c o port q) := by
  intro n
  have hleave : t.leave c o port q = (t.modCove c fun v => v.modNet fun n => n.count (6 + o) (packetFlits q)).modCove c fun v => v.modNet fun n =>
      { n with ejected := n.ejected ++ [(o, q)] } := by
    refine (if_neg (Nat.not_lt.mpr ho)).trans ((if_neg (by rw [hbcast]; exact Bool.false_ne_true)).trans (if_neg ?_))
    simpa [and_assoc] using hkind
  rw [hleave]
  refine ⟨?_, (OnlyAt.modCove t c _).trans (.modCove _ c _)⟩
  rw [State.modCove_cove, State.modCove_cove, Cove.modNet_net, Cove.modNet_net]

/-- A broadcast delivered at LOCAL (R440): written into the instruction memories, but for a packet out of form, the last one, one with bad
parity and one beyond their end. -/
theorem Cove.takeBroadcast_eq (v : Cove) : v.takeBroadcast q =
    if q.resv = true then v.modNet fun n => n.count 1 1
    else if q.last = true ∨ q.bad = true ∨ 16384 < q.addr.toNat + q.payload.length then v else v.writeImem q.addr.toNat q.payload := by
  simp only [Cove.takeBroadcast, Bool.or_eq_true, decide_eq_true_eq, or_assoc]

end
end Sys2Proof.Machine
end

section
/-!
SUPPORT. The packets that a cove receives at LOCAL (R221, R222, R234, R244, R245, R455): flags, telemetry, register requests and broadcasts.
-/
namespace Sys2Proof.Machine

@[simp] theorem State.taken_bay (s : State) (p : Packet) (b : Nat) : (s.taken p).bay b = s.bay b := rfl
@[simp] theorem State.taken_bayOf (s : State) (p : Packet) (c : Nat) : (s.taken p).bayOf c = s.bayOf c := rfl

/-- A packet of an invalid version or a reserved kind is dropped where it is ejected, and counted (R234, R235). -/
theorem State.eject_stale {s : State} {p : Packet} (h : s.net.valid p.epoch = false ∨ asSent p = false ∨ p.resv = true) (f : State → State) :
    s.eject p f = (s.taken p).netCount p.dstPhys.toNat 1 := by
  unfold State.eject
  by_cases hvalid : s.net.valid p.epoch = true
  · refine (if_neg (by simp [hvalid])).trans (if_pos ?_)
    rcases h with h | h | h
    · exact absurd hvalid (by rw [h]; exact Bool.false_ne_true)
    · rw [h]; rfl
    · rw [h, Bool.or_true]
  · exact if_pos (by simpa using hvalid)

section
variable {s : State} {p : Packet}

section
variable (hreceives : s.receives p = true)
include hreceives

/-! FLAG (R244). -/

theorem exec_flagPacket_received : exec (.flagPacket p) s = .next (
    if p.bad = true then (s.taken p).netCount p.dstPhys.toNat 1
    else if ((s.bayOf p.dstPhys.toNat).bind fun b => (s.bay b).st.running).any
      (fun r => r.no % 4 == p.step.toNat && r.attempt == p.attempt.toNat) = true then
      (s.taken p).modCove p.dstPhys.toNat fun v => { v with net := { v.net with
        flags := v.net.flags.upd 0 ((p.handle.getD 0).toNat % 16) (· + p.addr.setWidth 32) } }
    else (s.taken p).netCount p.dstPhys.toNat 1) := by
  rw [exec_flagPacket, execFlagPacket, State.eject_received hreceives]
  rfl

theorem exec_flagPacket_adds (hgood : p.bad = false) {b : Nat} {r : StepRec} (hbay : s.bayOf p.dstPhys.toNat = some b)
    (hrunning : (s.bay b).st.running = some r) (hstep : r.no % 4 = p.step.toNat) (hattempt : r.attempt = p.attempt.toNat) :
    exec (.flagPacket p) s = .next ((s.taken p).modCove p.dstPhys.toNat fun v => { v with net := { v.net with
      flags := v.net.flags.upd 0 ((p.handle.getD 0).toNat % 16) (· + p.addr.setWidth 32) } }) := by
  rw [exec_flagPacket_received hreceives, if_neg (by simp [hgood]), if_pos (by simp [hbay, hrunning, hstep, hattempt])]

theorem exec_flagPacket_stale (hother : ∀ b r, s.bayOf p.dstPhys.toNat = some b → (s.bay b).st.running = some r →
      ¬(r.no % 4 = p.step.toNat ∧ r.attempt = p.attempt.toNat)) :
    exec (.flagPacket p) s = .next ((s.taken p).netCount p.dstPhys.toNat 1) := by
  have hhere : ¬ ((s.bayOf p.dstPhys.toNat).bind fun b => (s.bay b).st.running).any
      (fun r => r.no % 4 == p.step.toNat && r.attempt == p.attempt.toNat) = true := by
    rw [Option.any_eq_true]
    rintro ⟨r, hr, hmatch⟩
    obtain ⟨b, hbay, hrunning⟩ := Option.bind_eq_some_iff.mp hr
    exact hother b r hbay hrunning (by simpa using hmatch)
  rw [exec_flagPacket_received hreceives, if_neg hhere, ite_self]

/-! TELEMETRY and REG (R221, R228, R230, R455). -/

theorem exec_telemetryPacket_received (hwaits : s.atEjection p = true) : exec (.telemetryPacket p) s = .next (
    if p.bad = true then (s.taken p).netCount p.dstPhys.toNat 1
    else (s.taken p).modCove p.srcPhys.toNat fun v => { v with telem := { v.telem with record := p.payload } }) := by
  rw [exec_telemetryPacket, execTelemetryPacket, State.eject_received hreceives]
  exact congrArg _ (if_pos hwaits)

theorem exec_regPacket_received (hready : p.response = true ∨ s.atEjection p = true ∧ s.canAnswer p.dstPhys.toNat p.agent = true) (w : Bool)
    (off : BitVec 16) (value : BitVec 32) : exec (.regPacket p w off value) s = .next (
      let a := coveBase p.dstPhys.toNat + off.toNat / 4 * 4
      if p.bad = true then (s.taken p).netCount p.dstPhys.toNat 1
      else if p.response = true then s.taken p
      else if w = true then (((s.taken p).write .headland a value).getD (s.taken p)).answerReg p value
      else ((s.taken p).readAt .headland a).2.answerReg p ((s.taken p).readAt .headland a).1) := by
  rw [exec_regPacket, execRegPacket, State.eject_received hreceives]
  refine (if_neg ?_).trans (occurs_true ?_)
  · rcases hready with h | ⟨h, -⟩ <;> simp [h]
  · rcases hready with h | ⟨-, h⟩ <;> simp [h]

end

section
variable (haway : s.atEjection p = false)
include haway

/-- A telemetry record that waits nowhere leaves its source (R228). -/
theorem exec_telemetryPacket_sent : exec (.telemetryPacket p) s =
    .next (if p.type = 10 ∧ asSent p = true then s.inject p.srcPhys.toNat false dlSlow p else s) := by
  rw [exec_telemetryPacket, execTelemetryPacket, haway]
  simp

/-- So does a request that waits nowhere (R228). -/
theorem exec_regPacket_sent (hrequest : p.response = false) (w : Bool) (off : BitVec 16) (value : BitVec 32) : exec (.regPacket p w off value) s =
    .next (if p.type = 0xB ∧ asSent p = true then s.inject p.srcPhys.toNat p.srcAgent dlSlow p else s) := by
  rw [exec_regPacket, execRegPacket, haway, hrequest]
  simp [occurs]

end

/-- A request whose answer has no slot waits (R226). -/
theorem exec_regPacket_waits (hrequest : p.response = false) (hwaits : s.atEjection p = true)
    (hnoroom : s.canAnswer p.dstPhys.toNat p.agent = false) (w : Bool) (off : BitVec 16) (value : BitVec 32) :
    exec (.regPacket p w off value) s = .next s := by
  rw [exec_regPacket, execRegPacket, hwaits, hrequest]
  exact occurs_false hnoroom

/-- A stale packet has no effect but the count, whichever command takes it. -/
theorem exec_stalePacket (h : s.net.valid p.epoch = false ∨ asSent p = false ∨ p.resv = true) :
    ∀ x ∈ ([.flagPacket p, .dmaDataPacket p, .dmaDonePacket p, .dmaRetryPacket p] : List Instr),
      exec x s = .next ((s.taken p).netCount p.dstPhys.toNat 1) := by
  simp only [List.forall_mem_cons, List.not_mem_nil, false_imp_iff, implies_true, and_true]
  exact ⟨congrArg _ (s.eject_stale h _), congrArg _ (s.eject_stale h _), congrArg _ (s.eject_stale h _), congrArg _ (s.eject_stale h _)⟩

theorem exec_telemetryPacket_stale (h : s.net.valid p.epoch = false ∨ asSent p = false ∨ p.resv = true) (hwaits : s.atEjection p = true) :
    exec (.telemetryPacket p) s = .next ((s.taken p).netCount p.dstPhys.toNat 1) := by
  rw [exec_telemetryPacket, execTelemetryPacket, State.eject_stale h]
  exact congrArg _ (if_pos hwaits)

end

/-- Settles O40: the decision by what is asked of the winner in turn, the packets by the commands that take them. -/
theorem networkPacketsTakeEffect : Obligations.NetworkPacketsTakeEffect := by
  unfold Obligations.NetworkPacketsTakeEffect
  intro s
  refine ⟨fun c out port vc p => ?_, fun t c o port q => ?_, fun c out h hnone => exec_arbiterDecision_idle hnone h, fun p => ?_,
    fun c p => ⟨fun hbcast hnone => ?_, fun h => ?_⟩⟩
  · intro n key won took mapUsed hwin
    refine ⟨exec_arbiterDecision_headerBad hwin, fun hbcast m => exec_arbiterDecision_tableBad hwin (.inl ⟨rfl, hbcast⟩),
      fun hmap b => exec_arbiterDecision_tableBad hwin (.inr ⟨rfl, hmap⟩), fun b m htable hmap => ?_⟩
    have hexec := exec_arbiterDecision_tableGood hwin htable hmap
    refine ⟨fun hold => ?_, fun hyoung hinvalid => ?_, fun hyoung hvalid hgone => ?_, fun hyoung hvalid hhere => ?_⟩
    · rw [hexec, if_pos hold]
      rfl
    · rw [hexec, if_neg (by simp [hyoung]), if_pos hinvalid]
      rfl
    · rw [if_neg (by simp [hyoung]), if_neg (by simp [hvalid]), if_pos hgone] at hexec
      obtain ⟨honly, hothers⟩ := s.requestWithdrawn_onlyAt c out key
      obtain ⟨hbuf, hwithdrawn, hctr⟩ := s.requestWithdrawn_net c out key port vc
      exact ⟨_, hexec, hbuf, hwithdrawn, congrArg (Tab.get · 0 5) hctr, honly, hothers⟩
    · rw [hexec, if_neg (by simp [hyoung]), if_neg (by simp [hvalid]), if_neg (by simp [hhere])]
      rfl
  · intro d h u n
    refine ⟨fun ho => ?_, fun ho hbcast => ?_, fun ho hbcast hkind => ?_⟩
    · exact t.leave_ring c port q ho
    · exact (t.leave_broadcast c port q ho hbcast).trans (congrArg _ (funext fun v => v.takeBroadcast_eq q))
    · obtain ⟨hnet, honly, hothers⟩ := t.leave_ejected c port q ho hbcast hkind
      exact ⟨hnet, honly, hothers⟩
  · intro c s0
    refine ⟨fun hreceives hgood => ⟨fun b r hbay hrunning hstep hattempt => ?_, fun hother => ?_,
      fun hwaits => ?_, fun w off value hresponse => ?_, fun off value hrequest hwaits hroom => ⟨?_, ?_⟩⟩,
      fun hreceives hbad => ⟨?_, fun hwaits => ?_, fun w off value hready => ?_⟩,
      fun haway => ⟨exec_telemetryPacket_sent haway, fun w off value hrequest => exec_regPacket_sent haway hrequest w off value⟩,
      fun w off value hrequest hwaits hnoroom => exec_regPacket_waits hrequest hwaits hnoroom w off value,
      fun hstale => ⟨exec_stalePacket hstale, exec_telemetryPacket_stale hstale⟩⟩
    · exact exec_flagPacket_adds hreceives hgood hbay hrunning hstep hattempt
    · exact exec_flagPacket_stale hreceives hother
    · rw [exec_telemetryPacket_received hreceives hwaits, if_neg (by simp [hgood])]
    · rw [exec_regPacket_received hreceives (.inl hresponse)]
      exact congrArg _ ((if_neg (by simp [hgood])).trans (if_pos hresponse))
    · rw [exec_regPacket_received hreceives (.inr ⟨hwaits, hroom⟩)]
      exact congrArg _ ((if_neg (by simp [hgood])).trans ((if_neg (by simp [hrequest])).trans (if_neg Bool.false_ne_true)))
    · rw [exec_regPacket_received hreceives (.inr ⟨hwaits, hroom⟩)]
      exact congrArg _ ((if_neg (by simp [hgood])).trans ((if_neg (by simp [hrequest])).trans (if_pos rfl)))
    · rw [exec_flagPacket_received hreceives, if_pos hbad]
    · rw [exec_telemetryPacket_received hreceives hwaits, if_pos hbad]
    · rw [exec_regPacket_received hreceives hready]
      exact congrArg _ (if_pos hbad)
  · rw [exec_broadcastPacket, execBroadcastPacket, hbcast, hnone]
    rfl
  · rw [exec_broadcastPacket]
    exact occurs_false (by rcases h with h | h <;> simp [h])

end Sys2Proof.Machine
end

section
/-!
SUPPORT. The table of coves is plain data, and a state may list a router twice (`rowsSorted` fails of it): an access finds the first row alone,
while the swap of the epochs (R237 step 4) looks for a due time in every row.
-/
namespace Sys2Proof.Machine

/-- Router 0 is listed twice; the row that no access finds is armed for unit 0. -/
def routerListedTwice : State := { State.reset with coves := ⟨[(0, {}), (0, { net := { armAt := some 0 } })]⟩ }

theorem routerListedTwice_unarmed (c : Fin 800) : (routerListedTwice.cove c).net.armAt = none := by
  by_cases hc : 0 = c.val
  · rw [← hc]
    rfl
  · have hcove : routerListedTwice.cove c = {} := by simp [routerListedTwice, State.cove, Tab.get, Tab.find, rowsFind, hc]
    rw [hcove]

/-- The swap fires, and packets of the old version may travel until unit 2,250. -/
theorem routerListedTwice_swaps : ∃ t, exec .epochSwap routerListedTwice = .next t ∧ t.net.oldUntil = some 2250 :=
  ⟨_, rfl, by decide +kernel⟩

/-- Refutes O41: no router is armed, and the listed rows are all below 800, but the epoch swap takes place for the row that is shadowed. -/
theorem not_tableEpochsTakeEffect : ¬ Obligations.TableEpochsTakeEffect := by
  intro h
  obtain ⟨-, hrests, -⟩ := h routerListedTwice
  have hunarmed (c : Fin 800) (a : Nat) (ha : (routerListedTwice.cove c).net.armAt = some a) : routerListedTwice.netUnits < a :=
    nomatch (routerListedTwice_unarmed c).symm.trans ha
  obtain ⟨t, ht, hold⟩ := routerListedTwice_swaps
  obtain rfl := Host.Outcome.next.inj ((hrests hunarmed rfl).symm.trans ht)
  exact absurd (show none = some 2250 from hold) nofun

end Sys2Proof.Machine
end

section
/-!
SUPPORT. The start of a DMA transfer (R238, R241): what waits, and what the oldest queued transfer does with the tag it takes.
-/
namespace Sys2Proof.Machine

/-- A transfer as it starts with a tag: the tag's next generation, the time, the number of its packets. -/
def State.startedDma (s : State) (c : Nat) (d : Dma) (tag : Nat) : Dma :=
  { d with started := true, tag := tag, gen := (s.cove c).net.tagGen.get 0 tag + 1, sentAt := s.cnCycles, total := (dmaDesc d.desc).packets }

/-- The engine's part in a start: the tag is taken, the transfer stands started in the queue, a FLAG_ADD at once done. -/
def Net.begin (n : Net) (d d1 : Dma) : Net :=
  { n with
    lastTag := d1.tag, tagGen := n.tagGen.set 0 d1.tag d1.gen
    dma := n.dma.map fun y => if y.seq == d.seq then { d1 with done := (dmaDesc d.desc).op == 2 } else y }

/-- A COPY into the own scratchpad waits while its handle's writes must. -/
def State.startWaits (s : State) (c : Nat) (d : Dma) : Bool :=
  let x := dmaDesc d.desc
  x.op == 1 && x.dst.kind == 0 && (s.stepsAt c).1.judge ((s.cove c).sp.handle x.dst.handle) d.step == .stall

/-! What a transfer does within its cove, and what it sends. -/

section
variable {d : Dma}

theorem Cove.startLocal_flag (v : Cove) (now : Nat) (hop : (dmaDesc d.desc).op = 2) (hkind : (dmaDesc d.desc).dst.kind = 0) :
    v.startLocal d now = v.modNet fun n =>
      { n with flags := n.flags.upd 0 (dmaDesc d.desc).dst.handle (· + BitVec.ofNat 32 (dmaDesc d.desc).addend) } := by
  rw [Cove.startLocal, if_pos hop, hkind]
  rfl

theorem Cove.startLocal_remoteFlag (v : Cove) (now : Nat) (hop : (dmaDesc d.desc).op = 2) (hkind : (dmaDesc d.desc).dst.kind = 1) :
    v.startLocal d now = v := by
  rw [Cove.startLocal, if_pos hop, hkind]
  rfl

section
variable (hop : (dmaDesc d.desc).op = 1)
include hop

theorem Cove.startLocal_read (v : Cove) (now : Nat) (hkind : (dmaDesc d.desc).src.kind = 0) : v.startLocal d now = v.modSp fun p =>
    p.dmaRows (dmaDesc d.desc).src.handle (dmaDesc d.desc).src.off (dmaDesc d.desc).length false now d.step (some d.seq) := by
  rw [Cove.startLocal]
  exact (if_neg (by rw [hop]; decide)).trans (if_pos hkind)

theorem Cove.startLocal_remoteRead (v : Cove) (now : Nat) (hkind : (dmaDesc d.desc).src.kind ≠ 0) : v.startLocal d now = v := by
  rw [Cove.startLocal]
  exact (if_neg (by rw [hop]; decide)).trans (if_neg hkind)

theorem startPackets_read (s : State) (c : Nat) (hkind : (dmaDesc d.desc).src.kind = 0) : startPackets s c d = [] := by
  rw [startPackets]
  exact (if_neg (by rw [hop]; decide)).trans (if_pos hkind)

theorem startPackets_remoteRead (s : State) (c : Nat) (hkind : (dmaDesc d.desc).src.kind ≠ 0) :
    startPackets s c d = (List.range (dmaDesc d.desc).packets).map fun i => ((dmaDesc d.desc).src, dmaRead s c d i) := by
  rw [startPackets]
  exact (if_neg (by rw [hop]; decide)).trans (if_neg hkind)

end

theorem startPackets_flag (s : State) (c : Nat) (hop : (dmaDesc d.desc).op = 2) (hkind : (dmaDesc d.desc).dst.kind = 0) :
    startPackets s c d = [] := by
  rw [startPackets]
  exact (if_pos hop).trans (if_neg (by rw [hkind]; decide))

theorem startPackets_remoteFlag (s : State) (c : Nat) (hop : (dmaDesc d.desc).op = 2) (hkind : (dmaDesc d.desc).dst.kind = 1) :
    startPackets s c d = [((dmaDesc d.desc).dst,
      { dmaHeader s c d 7 0 (dmaDesc d.desc).dst with ordered := false, addr := BitVec.ofNat 48 (dmaDesc d.desc).addend })] := by
  rw [startPackets]
  exact (if_pos hop).trans (if_pos hkind)

end

/-! The command. -/

section
variable {s : State} {c : Fin 800}

theorem exec_dmaTransferStart_idle (h : ((s.cove c).net.dma.find? fun d => !d.started && !d.done) = none ∨ (s.cove c).net.nextTag = none
    ∨ 8 ≤ ((s.cove c).net.dma.filter Dma.started).length) : exec (.dmaTransferStart c) s = .next s := by
  rw [exec_dmaTransferStart, execDmaTransferStart]
  dsimp only
  split
  next hd htag =>
    rcases h with h | h | h
    · exact nomatch h.symm.trans hd
    · exact nomatch h.symm.trans htag
    · exact if_pos (.inl h)
  · rfl

variable {d : Dma} {tag : Nat} (hd : ((s.cove c).net.dma.find? fun d => !d.started && !d.done) = some d) (htag : (s.cove c).net.nextTag = some tag)
include hd htag

theorem exec_dmaTransferStart_waits (hwaits : s.startWaits c d = true) : exec (.dmaTransferStart c) s = .next s := by
  rw [exec_dmaTransferStart, execDmaTransferStart]
  simp only [hd, htag]
  exact if_pos (.inr hwaits)

variable (hfew : ((s.cove c).net.dma.filter Dma.started).length < 8)
include hfew

theorem exec_dmaTransferStart_starts (hgoes : s.startWaits c d = false) :
    let d1 := s.startedDma c d tag
    exec (.dmaTransferStart c) s = .next ((startPackets s c d1).foldl (fun t p => t.sendDma c d1 p.1 p.2)
      (s.modCove c fun v => (v.modNet fun n => n.begin d d1).startLocal d1 (s.cycles c))) := by
  rw [exec_dmaTransferStart, execDmaTransferStart]
  simp only [hd, htag]
  refine if_neg ?_
  rintro (hmany | hwaits)
  · exact absurd hmany (Nat.not_le.mpr hfew)
  · exact Bool.false_ne_true (hgoes.symm.trans hwaits)

end
end Sys2Proof.Machine
end

section
/-!
SUPPORT. A DMA_WRITE where it arrives (R226, R241, R242): its tracker, what becomes of its data, and the answer.
-/
namespace Sys2Proof.Machine

theorem State.receives_fresh {s : State} {p : Packet} (h : s.receives p = true) : s.packetDropped p = false ∧ s.aged p = false := by
  simp only [State.receives, Bool.and_eq_true, Bool.not_eq_true'] at h
  obtain ⟨⟨⟨⟨-, hyoung⟩, -⟩, hkept⟩, -⟩ := h
  exact ⟨hkept, hyoung⟩

/-- A transfer whose every packet has arrived is answered (R241). -/
def State.answerDone (t : State) (p : Packet) (done : Bool) : State := if done = true then t.answer p 5 0 else t

/-- A packet counted by tracker `x`, which `put` puts in its place: its data land, or its transfer has failed (R241, R242). -/
def State.countWrite (s : State) (p : Packet) (x : Tracker) (put : State → Tracker → State) : State :=
  let lost : Tracker := { x with failed := true, lastAt := s.cnCycles }
  let r := x.arrive p s.cnCycles
  if p.bad = true then (put s lost).answer p 5 0x7022
  else match landWrite s p with
    | .landed t => (put t r.1).answerDone p r.2
    | .refused code t => (put t lost).answer p 5 code.toNat
    | .stopped t => t
    | .waits => s

/-- The interface takes a packet: a new tracker if one is free, or the one of its transfer, which counts no more once it has failed (R242). -/
def State.takeWrite (s : State) (p : Packet) : State :=
  let i := ifaceOf p
  let l := s.trackers i
  match l.find? fun t => t.key == packetKey p with
  | none => if trackerLimit i ≤ l.length then s.answer p 6 0 else s.countWrite p { key := packetKey p } fun t y => t.setTrackers i (l ++ [y])
  | some x =>
    let put (t : State) (y : Tracker) : State := t.setTrackers i (l.map fun z => if z.key == packetKey p then y else z)
    if x.failed = true then put s { x with lastAt := s.cnCycles } else s.countWrite p x put

section
variable {s : State} {p : Packet}

/-- A write that must wait, or whose answer has no slot, stays where it is (R41, R50, R226). -/
theorem exec_dmaWritePacket_waits (h : s.canAnswer p.dstPhys.toNat p.agent = false ∨ landWrite s p = .waits) (hkept : s.packetDropped p = false)
    (hyoung : s.aged p = false) : exec (.dmaWritePacket p) s = .next s := by
  rw [exec_dmaWritePacket, execDmaWritePacket]
  simp only [hkept, hyoung, Bool.or_self, Bool.false_eq_true, if_false]
  rcases h with h | h
  · rw [h]
    rfl
  · rw [h]
    exact ite_self _

theorem exec_dmaWritePacket_received (hreceives : s.receives p = true) (hroom : s.canAnswer p.dstPhys.toNat p.agent = true)
    (hlands : landWrite s p ≠ .waits) : exec (.dmaWritePacket p) s = .next ((s.taken p).takeWrite p) := by
  obtain ⟨hkept, hyoung⟩ := State.receives_fresh hreceives
  rw [exec_dmaWritePacket, execDmaWritePacket, hkept, hyoung, hroom]
  refine (if_neg Bool.false_ne_true).trans ((if_neg Bool.false_ne_true).trans ?_)
  cases hland : landWrite s p with
  | waits => exact absurd hland hlands
  | _ => exact congrArg Host.Outcome.next (State.eject_received hreceives _)

end

section
variable {s : State} {p : Packet} {x : Tracker} {put : State → Tracker → State}

theorem State.countWrite_bad (hbad : p.bad = true) :
    s.countWrite p x put = (put s { x with failed := true, lastAt := s.cnCycles }).answer p 5 0x7022 := if_pos hbad

section
variable (hgood : p.bad = false) {t : State}
include hgood

theorem State.countWrite_landed (h : landWrite s p = .landed t) :
    s.countWrite p x put = (put t (x.arrive p s.cnCycles).1).answerDone p (x.arrive p s.cnCycles).2 := by
  simp only [State.countWrite, hgood, h, Bool.false_eq_true, if_false]

theorem State.countWrite_refused {code : Code} (h : landWrite s p = .refused code t) :
    s.countWrite p x put = (put t { x with failed := true, lastAt := s.cnCycles }).answer p 5 code.toNat := by
  simp only [State.countWrite, hgood, h, Bool.false_eq_true, if_false]

theorem State.countWrite_stopped (h : landWrite s p = .stopped t) : s.countWrite p x put = t := by
  simp only [State.countWrite, hgood, h, Bool.false_eq_true, if_false]

end
end

section
variable {s : State} {p : Packet}

section
variable (hnew : ∀ t ∈ s.trackers (ifaceOf p), t.key ≠ packetKey p)
include hnew

theorem State.find_untracked : ((s.trackers (ifaceOf p)).find? fun t => t.key == packetKey p) = none :=
  List.find?_eq_none.mpr fun t ht => by simpa using hnew t ht

theorem State.takeWrite_full (hfull : trackerLimit (ifaceOf p) ≤ (s.trackers (ifaceOf p)).length) : s.takeWrite p = s.answer p 6 0 := by
  simp only [State.takeWrite, State.find_untracked hnew, hfull, if_true]

theorem State.takeWrite_first (hfree : (s.trackers (ifaceOf p)).length < trackerLimit (ifaceOf p)) :
    s.takeWrite p = s.countWrite p { key := packetKey p } fun t y => t.setTrackers (ifaceOf p) (s.trackers (ifaceOf p) ++ [y]) := by
  simp only [State.takeWrite, State.find_untracked hnew, Nat.not_le.mpr hfree, if_false]

end

section
variable {x : Tracker} (hfind : ((s.trackers (ifaceOf p)).find? fun t => t.key == packetKey p) = some x)
include hfind

theorem State.takeWrite_failed (hfailed : x.failed = true) : s.takeWrite p = s.setTrackers (ifaceOf p)
    ((s.trackers (ifaceOf p)).map fun z => if z.key == packetKey p then { x with lastAt := s.cnCycles } else z) := by
  simp only [State.takeWrite, hfind, hfailed, if_true]

theorem State.takeWrite_counts (hcounts : x.failed = false) : s.takeWrite p = s.countWrite p x fun t y => t.setTrackers (ifaceOf p)
    ((s.trackers (ifaceOf p)).map fun z => if z.key == packetKey p then y else z) := by
  simp only [State.takeWrite, hfind, hcounts, Bool.false_eq_true, if_false]

end
end

/-! A write through a handle (R142, R144, R241). -/

/-- What handing a packet to a router's injector leaves: everything but the router, and its trackers. -/
structure InjectsAt (c : Nat) (s t : State) : Prop extends OnlyAt c s t where
  sp : (t.cove c).sp = (s.cove c).sp
  trackers : (t.cove c).net.trackers = (s.cove c).net.trackers

theorem InjectsAt.trans {c : Nat} {s t u : State} (h : InjectsAt c s t) (k : InjectsAt c t u) : InjectsAt c s u :=
  ⟨h.toOnlyAt.trans k.toOnlyAt, k.sp.trans h.sp, k.trackers.trans h.trackers⟩

theorem InjectsAt.modNet (s : State) (c : Nat) {f : Net → Net} (hf : (f (s.cove c).net).trackers = (s.cove c).net.trackers) :
    InjectsAt c s (s.modCove c fun v => v.modNet f) := by
  refine ⟨.modCove s c _, ?_, ?_⟩ <;> rw [State.modCove_cove]
  · rfl
  · exact hf

theorem State.intoRing_injectsAt (s : State) (c : Nat) (w : Injection) : InjectsAt c s (s.intoRing c w) := by
  rw [State.intoRing]
  split
  · exact .modNet s c rfl
  · exact .modNet s c rfl

theorem InjectsAt.foldl {α : Type} {c : Nat} {f : State → α → State} (hf : ∀ t x, InjectsAt c t (f t x)) (l : List α) {s t : State}
    (h : InjectsAt c s t) : InjectsAt c s (l.foldl f t) := by
  induction l generalizing t with
  | nil => exact h
  | cons x l ih => exact ih (h.trans (hf t x))

theorem State.enter_injectsAt (s : State) (c : Nat) : InjectsAt c s (s.enter c) := by
  rw [State.enter]
  refine InjectsAt.foldl (fun t w => ?_) _ (.modNet s c rfl)
  split
  · exact .modNet t c rfl
  · exact t.intoRing_injectsAt c w

theorem State.answer_injectsAt (s : State) (p : Packet) (type status : Nat) : InjectsAt p.dstPhys.toNat s (s.answer p type status) :=
  (InjectsAt.modNet s _ rfl).trans (State.enter_injectsAt _ _)

theorem State.answerDone_injectsAt (s : State) (p : Packet) (done : Bool) : InjectsAt p.dstPhys.toNat s (s.answerDone p done) := by
  cases done with
  | false => exact ⟨.refl _ s, rfl, rfl⟩
  | true => exact s.answer_injectsAt p 5 0

end Sys2Proof.Machine
end

section
/-!
SUPPORT. A DMA_READ where it arrives (R226, R241, R264): served from a handle, from the bay's HBM or from the run's input area.
-/
namespace Sys2Proof.Machine

/-- A fail vote leaves what the bay's memory is read by: the records of the bays, the controllers, HBM. -/
structure SameMemory (s t : State) : Prop where
  hbm : t.hbm = s.hbm
  ctrls : t.ctrls = s.ctrls
  record : ∀ b, (t.bay b).record = (s.bay b).record

theorem SameMemory.refl (s : State) : SameMemory s s := ⟨rfl, rfl, fun _ => rfl⟩

theorem State.castFail_sameMemory (s : State) (c n att : Nat) (code : Code) (hw : Bool) : SameMemory s (s.castFail c n att code hw) := by
  rw [State.castFail]
  dsimp only
  split
  · exact ⟨rfl, rfl, fun _ => rfl⟩
  next b _ =>
    refine ⟨rfl, rfl, fun d => ?_⟩
    rw [State.modStep]
    rcases eq_or_ne d b with rfl | hne
    · rw [State.modBay_bay]
      rfl
    · rw [State.modBay_bay_other _ _ hne]
      rfl

theorem State.bayHw_sameMemory (s : State) (b n : Nat) (code : Code) : SameMemory s (s.bayHw b n code) := by
  rw [State.bayHw]
  split
  · exact s.castFail_sameMemory _ _ _ _ _
  · exact .refl s

section
variable {s t : State} (h : SameMemory s t)
include h

theorem SameMemory.locate (b a : Nat) : t.locate b a = s.locate b a := by rw [State.locate, State.locate, h.record]

theorem SameMemory.stack (k : Nat) : t.stack k = s.stack k := by rw [State.stack, State.stack, h.ctrls]

theorem SameMemory.bayBytes (b : Nat) (v : View) (a n : Nat) : t.bayBytes b v a n = s.bayBytes b v a n := by
  simp only [State.bayBytes, h.locate, h.stack, h.hbm]

theorem SameMemory.bayPoison (b : Nat) (v : View) (a n : Nat) : t.bayPoison b v a n = s.bayPoison b v a n := by
  simp only [State.bayPoison, State.granulePoison, h.locate, h.stack]

end

/-! Which interface a packet reaches, and when it takes a read. -/

section
variable {s : State} {p : Packet} {ecc : List (Nat × Ecc)}

theorem ifaceOf_cove {c : Fin 800} (hdst : p.dstPhys.toNat = c.val) (hlocal : p.agent = false) : ifaceOf p = .cove c := by
  have hc : Fin.ofNat 800 p.dstPhys.toNat = c := Fin.ext (by rw [hdst]; exact Nat.mod_eq_of_lt c.isLt)
  rw [ifaceOf, if_neg (by rw [hlocal]; exact Bool.false_ne_true), hc]

/-- A read whose answer has no slot waits, and one of a stack at rest or disabled. -/
theorem exec_dmaReadPacket_waits
    (h : s.canAnswer p.dstPhys.toNat p.agent = false ∨ ∃ k, ifaceOf p = .stack k ∧ (s.stackRests k = true ∨ (s.stack k).disabled = true)) :
    exec (.dmaReadPacket p ecc) s = .next s := by
  rw [exec_dmaReadPacket, execDmaReadPacket]
  refine if_pos ?_
  rcases h with h | ⟨k, hiface, h⟩
  · rw [h]
    exact Bool.or_true _
  · rw [hiface, Bool.or_eq_true, Bool.or_eq_true]
    exact .inl h

section
variable (hreceives : s.receives p = true) (hroom : s.canAnswer p.dstPhys.toNat p.agent = true)
include hreceives hroom

section
variable {c : Fin 800} (hiface : ifaceOf p = .cove c)
include hiface

/-- A read that the handle refuses is answered with the fault's code. -/
theorem exec_dmaReadPacket_coveFault
    (hcode : (((s.cove c).sp.handle (p.handle.getD 0).toNat).check p.addr.toNat p.count.toNat none none).1 ≠ 0) :
    let h := (p.handle.getD 0).toNat
    let code := (((s.cove c).sp.handle h).check p.addr.toNat p.count.toNat none none).1
    exec (.dmaReadPacket p ecc) s =
      .next (((s.taken p).modCove c fun u => { u with sp := u.sp.noteFault code h 0 2 }).answer p 5 code.toNat) := by
  have hsp : ((s.taken p).cove c).sp = (s.cove c).sp := s.taken_read p c Cove.sp fun _ _ => rfl
  rw [exec_dmaReadPacket, execDmaReadPacket]
  simp only [hiface, hroom, Bool.not_true, Bool.or_self, Bool.false_eq_true, if_false, State.eject_received hreceives, hsp]
  exact congrArg _ (if_pos hcode)

/-- A read that the handle allows asks the arbiters for its rows and is answered with their bytes, spoiled where a row fails parity (R134, R144). -/
theorem exec_dmaReadPacket_coveData
    (hcode : (((s.cove c).sp.handle (p.handle.getD 0).toNat).check p.addr.toNat p.count.toNat none none).1 = 0) :
    let h := (p.handle.getD 0).toNat
    let e := (s.cove c).sp.handle h
    let rows := (s.cove c).sp.failingRows e p.addr.toNat p.count.toNat
    let n := (s.packetStep p).map StepRec.no |>.getD 0
    exec (.dmaReadPacket p ecc) s = .next ((((s.taken p).modCove c fun u =>
        { u with sp := u.sp.dmaRows h p.addr.toNat p.count.toNat false (s.cycles c) (if p.stepped then n else 0) }).rowsParity c rows).answerData p
          ((s.cove c).sp.handleBytes e p.addr.toNat p.count.toNat) (!rows.isEmpty)) := by
  have hsp : ((s.taken p).cove c).sp = (s.cove c).sp := s.taken_read p c Cove.sp fun _ _ => rfl
  have hstep : ((if p.stepped = true then ((s.taken p).packetStep p).map fun r => (p.bay.toNat, r.no) else none : View).map Prod.snd).getD 0
      = if p.stepped then (s.packetStep p).map StepRec.no |>.getD 0 else 0 := by
    rw [show (s.taken p).packetStep p = s.packetStep p from rfl]
    split
    · rw [Option.map_map]
      rfl
    · rfl
  rw [exec_dmaReadPacket, execDmaReadPacket]
  simp only [hiface, hroom, Bool.not_true, Bool.or_self, Bool.false_eq_true, if_false, State.eject_received hreceives, hsp, hstep]
  exact congrArg _ (if_neg (not_not.mpr hcode))

end

section
variable {k : Fin 8} (hiface : ifaceOf p = .stack k) (hawake : s.stackRests k = false) (henabled : (s.stack k).disabled = false)
include hiface hawake henabled

/-- A read outside the bay's extents at this controller is answered with its code (R253). -/
theorem exec_dmaReadPacket_stackFault (hcode : hbmFault (s.taken p) p.bay.toNat k p.addr.toNat p.count.toNat false ≠ 0) :
    let code := hbmFault (s.taken p) p.bay.toNat k p.addr.toNat p.count.toNat false
    exec (.dmaReadPacket p ecc) s = .next (((s.taken p).noteAt k code p.bay.toNat p.addr.toNat).answer p 5 code.toNat) := by
  rw [exec_dmaReadPacket, execDmaReadPacket]
  simp only [hiface, hroom, hawake, henabled, Bool.not_true, Bool.or_self, Bool.false_eq_true, if_false, State.eject_received hreceives]
  exact congrArg _ (if_pos hcode)

theorem exec_dmaReadPacket_stackData (hcode : hbmFault (s.taken p) p.bay.toNat k p.addr.toNat p.count.toNat false = 0) :
    let b := p.bay.toNat
    let a := p.addr.toNat
    let s0 := s.taken p
    let w : View := if p.stepped then (s.packetStep p).map fun r => (b, r.no) else none
    let s1 := (s0.readBay b w p.deadline a p.count.toNat).eccFindings b k w a ecc
    let s2 := if recodes ecc = true then s1.bayHw b ((s0.packetStep p).map StepRec.no |>.getD 0) 0x8030 else s1
    exec (.dmaReadPacket p ecc) s = .next (s2.answerData p (s1.bayBytes b w a p.count.toNat) (s1.bayPoison b w a p.count.toNat)) := by
  intro b a s0 w s1 s2
  rw [exec_dmaReadPacket, execDmaReadPacket]
  simp only [hiface, hroom, hawake, henabled, Bool.not_true, Bool.or_self, Bool.false_eq_true, if_false, State.eject_received hreceives]
  refine congrArg _ ((if_neg (not_not.mpr hcode)).trans ?_)
  split
  next hrecodes => exact congrArg (State.answerData · p _ _) (if_pos hrecodes).symm
  next hagrees => exact congrArg (State.answerData · p _ _) (if_neg hagrees).symm

end

section
variable (hiface : ifaceOf p = .jetty)
include hiface

/-- Without a run there is no input area. -/
theorem exec_dmaReadPacket_noRun (hrun : ((s.taken p).bay p.bay.toNat).run = none) :
    exec (.dmaReadPacket p ecc) s = .next ((s.taken p).answer p 5 0x7011) := by
  rw [exec_dmaReadPacket, execDmaReadPacket]
  simp only [hiface, hroom, Bool.not_true, Bool.or_self, Bool.false_eq_true, if_false, State.eject_received hreceives, hrun]

section
variable {w : Work} (hrun : ((s.taken p).bay p.bay.toNat).run = some w)
include hrun

theorem exec_dmaReadPacket_outside (hlong : w.inLen < p.addr.toNat + p.count.toNat) :
    exec (.dmaReadPacket p ecc) s = .next ((s.taken p).answer p 5 0x8010) := by
  rw [exec_dmaReadPacket, execDmaReadPacket]
  simp only [hiface, hroom, Bool.not_true, Bool.or_self, Bool.false_eq_true, if_false, State.eject_received hreceives, hrun]
  exact congrArg _ (if_pos hlong)

theorem exec_dmaReadPacket_input (hinside : p.addr.toNat + p.count.toNat ≤ w.inLen) :
    let b := p.bay.toNat
    let s0 := s.taken p
    let a := w.inAddr + p.addr.toNat
    let s1 := (List.range 8).foldl (fun (t : State) k => t.eccFindings b k none a ecc) (s0.readBay b none p.deadline a p.count.toNat)
    let s2 := if recodes ecc = true then s1.bayHw b ((s0.packetStep p).map StepRec.no |>.getD 0) 0x8030 else s1
    exec (.dmaReadPacket p ecc) s = .next (s2.answerData p (s2.bayBytes b none a p.count.toNat) (s2.bayPoison b none a p.count.toNat)) := by
  intro b s0 a s1 s2
  have hsame : SameMemory s1 s2 := by
    unfold s2
    split
    · exact s1.bayHw_sameMemory _ _ _
    · exact .refl s1
  rw [hsame.bayBytes, hsame.bayPoison, exec_dmaReadPacket, execDmaReadPacket]
  simp only [hiface, hroom, Bool.not_true, Bool.or_self, Bool.false_eq_true, if_false, State.eject_received hreceives, hrun]
  exact congrArg _ (if_neg (Nat.not_lt.mpr hinside))

end
end
end
end
end Sys2Proof.Machine
end

section
/-!
SUPPORT. The packets that answer a transfer (R238, R240 to R242, R265), and what time does to it.
-/
namespace Sys2Proof.Machine

section
variable {s : State} {p : Packet}

theorem State.taken_transferOf (s : State) (p : Packet) : (s.taken p).transferOf p = s.transferOf p := by
  rw [State.transferOf, State.taken, State.modCove_cove]
  rfl

theorem State.taken_sp (s : State) (p : Packet) (c : Nat) : ((s.taken p).cove c).sp = (s.cove c).sp := s.taken_read p c Cove.sp fun _ _ => rfl

variable (hreceives : s.receives p = true)
include hreceives

/-- A packet of no transfer that runs is stale (R238). -/
theorem exec_strayAnswer (hnone : s.transferOf p = none) : ∀ x ∈ ([.dmaDataPacket p, .dmaDonePacket p, .dmaRetryPacket p] : List Instr),
    exec x s = .next ((s.taken p).netCount p.dstPhys.toNat 1) := by
  have hnone0 := (s.taken_transferOf p).trans hnone
  simp only [List.forall_mem_cons, List.not_mem_nil, false_imp_iff, implies_true, and_true]
  refine ⟨?_, ?_, ?_⟩
  · rw [exec_dmaDataPacket, execDmaDataPacket, State.eject_received hreceives]
    simp only [hnone0]
  · rw [exec_dmaDonePacket, execDmaDonePacket, State.eject_received hreceives]
    simp only [hnone0]
  · rw [exec_dmaRetryPacket, execDmaRetryPacket, State.eject_received hreceives]
    simp only [hnone0]

variable {d : Dma} (htransfer : s.transferOf p = some d)
include htransfer

/-! DMA_DATA. -/

/-- Bad data from a poisoned codeword stop the bay (R265). -/
theorem exec_dmaDataPacket_poisoned (hbad : p.bad = true) (hpoison : (s.taken p).dataPoison p.bay.toNat d (dmaDesc d.desc) p = true) :
    exec (.dmaDataPacket p) s = .next (((s.taken p).modCove p.dstPhys.toNat fun v =>
      { v with net := v.net.modTransfer d.tag fun x => { x with done := true } }).stopBay p.bay.toNat 0x8020) := by
  rw [exec_dmaDataPacket, execDmaDataPacket, State.eject_received hreceives]
  simp only [(s.taken_transferOf p).trans htransfer]
  exact congrArg _ ((if_pos hbad).trans (if_pos hpoison))

/-- Other bad data fail the transfer (R242). -/
theorem exec_dmaDataPacket_bad (hbad : p.bad = true) (hclean : (s.taken p).dataPoison p.bay.toNat d (dmaDesc d.desc) p = false) :
    exec (.dmaDataPacket p) s = .next ((s.taken p).transferFails p.dstPhys.toNat d 0x7022) := by
  rw [exec_dmaDataPacket, execDmaDataPacket, State.eject_received hreceives]
  simp only [(s.taken_transferOf p).trans htransfer]
  exact congrArg _ ((if_pos hbad).trans (if_neg (by rw [hclean]; exact Bool.false_ne_true)))

section
variable (hgood : p.bad = false)
include hgood

/-- Data land at the reader, and the last complete the transfer. -/
theorem exec_dmaDataPacket_lands (hkind : (dmaDesc d.desc).dst.kind = 0) :
    let c := p.dstPhys.toNat
    let x := dmaDesc d.desc
    let j := (p.addr.toNat - x.src.off) / 256
    let got := if d.got.contains j then d.got else d.got ++ [j]
    exec (.dmaDataPacket p) s = .next (((s.taken p).modCove c fun v =>
      { v with net := v.net.modTransfer d.tag fun y => { y with got := got, done := decide (got.length = d.total) } }).modCove c fun v =>
      { v with sp := ((v.sp.handleWrite ((s.cove c).sp.handle x.dst.handle) (x.dst.off + 256 * j) p.payload).dmaRows x.dst.handle
          (x.dst.off + 256 * j) p.payload.length true (s.cycles c) d.step) }) := by
  rw [exec_dmaDataPacket, execDmaDataPacket, State.eject_received hreceives]
  simp only [(s.taken_transferOf p).trans htransfer, hgood, hkind, Bool.false_eq_true, if_false, if_true, beq_self_eq_true, Bool.and_true,
    State.taken_sp]
  rfl

/-- Data for another place are written on, and kept should they be refused there. -/
theorem exec_dmaDataPacket_relays (hkind : (dmaDesc d.desc).dst.kind ≠ 0) :
    let c := p.dstPhys.toNat
    let x := dmaDesc d.desc
    let j := (p.addr.toNat - x.src.off) / 256
    let got := if d.got.contains j then d.got else d.got ++ [j]
    let q := dmaWrite (s.taken p) c d j (decide (got.length = d.total)) false p.payload
    exec (.dmaDataPacket p) s = .next (((s.taken p).modCove c fun v =>
      { v with net := v.net.modTransfer d.tag fun y => { y with got := got, done := false, sent := y.sent ++ [q] } }).sendDma c d x.dst q) := by
  rw [exec_dmaDataPacket, execDmaDataPacket, State.eject_received hreceives]
  simp only [(s.taken_transferOf p).trans htransfer, hgood, hkind, Bool.false_eq_true, if_false, beq_eq_false_iff_ne.mpr hkind, Bool.and_false]
  rfl

end

/-! DMA_DONE and DMA_RETRY. -/

theorem exec_dmaDonePacket_received : exec (.dmaDonePacket p) s = .next (
    let code : Code := p.addr.setWidth 16
    let ended (n : Net) : Net := n.modTransfer d.tag fun x => { x with done := true }
    if code = 0 then (s.taken p).modCove p.dstPhys.toNat fun v => { v with net := ended v.net }
    else if code = 0x7022 then (s.taken p).transferFails p.dstPhys.toNat d 0x7022
    else (s.taken p).modCove p.dstPhys.toNat fun v => { v with net := { ended v.net with
      errCode := code, errCore := BitVec.ofNat 4 d.core, faults := v.net.faults.put d.core code } }) := by
  rw [exec_dmaDonePacket, execDmaDonePacket, State.eject_received hreceives]
  simp only [(s.taken_transferOf p).trans htransfer]
  rfl

/-- Data of the own scratchpad are read again, with their parity (R134, R242). -/
theorem exec_dmaRetryPacket_rereads (hkind : (dmaDesc d.desc).src.kind = 0) :
    let c := p.dstPhys.toNat
    let x := dmaDesc d.desc
    let i := (p.addr.toNat - x.dst.off) / 256
    let src := (s.cove c).sp.handle x.src.handle
    let f := x.src.off + 256 * i
    let rows := (s.cove c).sp.failingRows src f (x.size i)
    exec (.dmaRetryPacket p) s = .next (((s.taken p).rowsParity c rows).modCove c fun v =>
      { v with net := v.net.modTransfer d.tag fun y => { y with
        retry := y.retry ++ [(s.cnCycles + 1800, dmaWrite (s.taken p) c d i (i + 1 == x.packets) (!rows.isEmpty)
          ((s.cove c).sp.handleBytes src f (x.size i)))] } }) := by
  rw [exec_dmaRetryPacket, execDmaRetryPacket, State.eject_received hreceives]
  simp only [(s.taken_transferOf p).trans htransfer, hkind, if_true, State.taken_sp]
  rfl

/-- Other data are sent again as they were. -/
theorem exec_dmaRetryPacket_resends (hkind : (dmaDesc d.desc).src.kind ≠ 0) :
    exec (.dmaRetryPacket p) s = .next ((s.taken p).modCove p.dstPhys.toNat fun v =>
      { v with net := v.net.modTransfer d.tag fun y => { y with
        retry := y.retry ++ ((d.sent.filter fun q => q.addr == p.addr).take 1).map fun q => (s.cnCycles + 1800, q) } }) := by
  rw [exec_dmaRetryPacket, execDmaRetryPacket, State.eject_received hreceives]
  simp only [(s.taken_transferOf p).trans htransfer, hkind, if_false]
  rfl

end

/-! The engine's times (R238, R242). -/

section
variable {s : State} {c : Fin 800} {tag : Fin 4096}

section
variable (hnone : ((s.cove c).net.dma.find? fun d => d.started && !d.done && d.tag == tag.val) = none)
include hnone

theorem exec_dmaRetryResend_none : exec (.dmaRetryResend c tag) s = .next s := by
  rw [exec_dmaRetryResend, execDmaRetryResend]
  simp only [hnone]

theorem exec_dmaTimeout_none : exec (.dmaTimeout c tag) s = .next s := by
  rw [exec_dmaTimeout, execDmaTimeout]
  simp only [hnone]

end

section
variable {d : Dma} (hfind : ((s.cove c).net.dma.find? fun d => d.started && !d.done && d.tag == tag.val) = some d)
include hfind

theorem exec_dmaRetryResend_due (hdue : (d.retry.filter fun r => decide (r.1 ≤ s.cnCycles)) ≠ []) : exec (.dmaRetryResend c tag) s =
    .next ((d.retry.filter fun r => decide (r.1 ≤ s.cnCycles)).foldl (fun t r => t.sendDma c d (dmaDesc d.desc).dst r.2)
      (s.modCove c fun v => { v with net := v.net.modTransfer tag fun y =>
        { y with retry := y.retry.filter fun r => decide (s.cnCycles < r.1) } })) := by
  rw [exec_dmaRetryResend, execDmaRetryResend]
  simp only [hfind]
  exact occurs_true (by simpa using hdue)

theorem exec_dmaRetryResend_early (hdue : (d.retry.filter fun r => decide (r.1 ≤ s.cnCycles)) = []) : exec (.dmaRetryResend c tag) s = .next s := by
  rw [exec_dmaRetryResend, execDmaRetryResend]
  simp only [hfind]
  exact occurs_false (by rw [hdue]; rfl)

/-- A silent transfer fails: its last packet has left, nothing of it waits, no answer came for 88 µs. -/
theorem exec_dmaTimeout_silent (hlate : d.sentAt + 79200 ≤ s.cnCycles) (hretry : d.retry = [])
    (hsent : (dmaDesc d.desc).src.kind ≠ 0 ∨ (dmaDesc d.desc).packets ≤ d.cut) (hleft : ∀ w ∈ (s.cove c).net.inj, d.sends w.p = false) :
    exec (.dmaTimeout c tag) s = .next ((s.transferFails c d 0x7020).modCove c fun v => { v with net := v.net.count 4 1 }) := by
  rw [exec_dmaTimeout, execDmaTimeout]
  simp only [hfind]
  refine occurs_true ?_
  simp only [Bool.and_eq_true, Bool.not_eq_true', Bool.or_eq_true, bne_iff_ne, decide_eq_true_eq, List.isEmpty_iff, List.any_eq_false,
    Bool.not_eq_true]
  exact ⟨⟨⟨hlate, hretry⟩, hsent⟩, hleft⟩

theorem exec_dmaTimeout_waits (hwaits : s.cnCycles < d.sentAt + 79200 ∨ d.retry ≠ []
      ∨ ((dmaDesc d.desc).src.kind = 0 ∧ d.cut < (dmaDesc d.desc).packets) ∨ ∃ w ∈ (s.cove c).net.inj, d.sends w.p = true) :
    exec (.dmaTimeout c tag) s = .next s := by
  rw [exec_dmaTimeout, execDmaTimeout]
  simp only [hfind]
  refine occurs_false ?_
  rw [Bool.and_eq_false_iff, Bool.and_eq_false_iff, Bool.and_eq_false_iff]
  rcases hwaits with hearly | hretry | ⟨hkind, hcut⟩ | ⟨w, hw, hsends⟩
  · exact .inl (.inl (.inl (decide_eq_false (Nat.not_le.mpr hearly))))
  · exact .inl (.inl (.inr (by simpa using hretry)))
  · exact .inl (.inr (by simp [hkind, hcut]))
  · exact .inr (by simpa using ⟨w, hw, hsends⟩)

end

theorem exec_dmaTagQuarantineEnd_due {a : Nat} (hfind : (s.cove c).net.tagQuar.find tag = some a) (hdue : a + 57600 ≤ s.cnCycles) :
    exec (.dmaTagQuarantineEnd c tag) s = .next (s.modCove c fun v => { v with net := { v.net with tagQuar := v.net.tagQuar.erase tag } }) := by
  rw [exec_dmaTagQuarantineEnd, execDmaTagQuarantineEnd]
  simp only [hfind]
  exact occurs_true (decide_eq_true hdue)

theorem exec_dmaTagQuarantineEnd_rests
    (h : (s.cove c).net.tagQuar.find tag = none ∨ ∃ a, (s.cove c).net.tagQuar.find tag = some a ∧ s.cnCycles < a + 57600) :
    exec (.dmaTagQuarantineEnd c tag) s = .next s := by
  rw [exec_dmaTagQuarantineEnd, execDmaTagQuarantineEnd]
  rcases h with h | ⟨a, h, hearly⟩
  · simp only [h]
  · simp only [h]
    exact occurs_false (decide_eq_false (Nat.not_le.mpr hearly))

/-- A done transfer at the head retires, and its tag begins its rest. -/
theorem retireHead_done {n : Net} {d : Dma} {rest : List Dma} (hdma : n.dma = d :: rest) (hdone : d.done = true) (now : Nat) :
    retireHead n now = { n with dma := rest, dmaDone := d.seq, tagQuar := if d.started = true then n.tagQuar.put d.tag now else n.tagQuar } := by
  simp only [retireHead, hdma, hdone, if_true]

theorem exec_dmaTrackerFree_cases {i : Iface} {key : TransferKey} :
    ((∃ t ∈ s.trackers i, t.key = key ∧ t.lastAt + 79200 ≤ s.cnCycles) →
      exec (.dmaTrackerFree i key) s = .next (s.setTrackers i ((s.trackers i).filter fun t => t.key != key)))
    ∧ ((∀ t ∈ s.trackers i, t.key ≠ key ∨ s.cnCycles < t.lastAt + 79200) → exec (.dmaTrackerFree i key) s = .next s) := by
  rw [exec_dmaTrackerFree, execDmaTrackerFree]
  refine ⟨fun ⟨t, ht, hkey, hlate⟩ => occurs_true ?_, fun h => occurs_false ?_⟩
  · exact List.any_eq_true.mpr ⟨t, ht, by simp [hkey, hlate]⟩
  · refine List.any_eq_false.mpr fun t ht => ?_
    rcases h t ht with hother | hearly
    · simp [hother]
    · simp [Nat.not_le.mpr hearly]

end
end Sys2Proof.Machine
end

section
/-!
SUPPORT. What keeps a transfer from its start (R238), and a write that lands through a handle (R142, R144, R241).
-/
namespace Sys2Proof.Machine

/-! What keeps a transfer from its start, beside the tags (R238). -/

section
variable {s : State} {c : Nat} {d : Dma}

theorem State.startWaits_of_flag (hop : (dmaDesc d.desc).op = 2) : s.startWaits c d = false := by
  rw [State.startWaits, hop]
  rfl

theorem State.startWaits_of_copy (hop : (dmaDesc d.desc).op = 1) (hgoes : (dmaDesc d.desc).dst.kind = 0 →
    (s.stepsAt c).1.judge ((s.cove c).sp.handle (dmaDesc d.desc).dst.handle) d.step ≠ .stall) : s.startWaits c d = false := by
  rw [State.startWaits, hop]
  simpa using hgoes

theorem State.startWaits_of_stall (hop : (dmaDesc d.desc).op = 1) (hkind : (dmaDesc d.desc).dst.kind = 0)
    (hstall : (s.stepsAt c).1.judge ((s.cove c).sp.handle (dmaDesc d.desc).dst.handle) d.step = .stall) : s.startWaits c d = true := by
  rw [State.startWaits, hop, hkind, hstall]
  rfl

end

/-! A write through a handle that its checks allow (R142, R241). -/

section
variable {s : State} {p : Packet} {c : Fin 800}

theorem landWrite_handle (hiface : ifaceOf p = .cove c) {n : Nat} (hn : ((s.packetStep p).map StepRec.no).getD 0 = n)
    (hcheck : ((s.cove c).sp.handle (p.handle.getD 0).toNat).check p.addr.toNat p.payload.length none (some ((s.bay p.bay.toNat).st, n)) = (0, .ok))
    (hdrain : (s.bay p.bay.toNat).st.isDrain n = false) :
    landWrite s p = .landed (s.modCove c fun v => v.modSp fun q =>
      (q.handleWrite ((s.cove c).sp.handle (p.handle.getD 0).toNat) p.addr.toNat p.payload).dmaRows (p.handle.getD 0).toNat p.addr.toNat
        p.payload.length true (s.cycles c) n) := by
  subst hn
  rw [landWrite]
  simp only [hiface, hcheck, hdrain, ne_eq, not_true_eq_false, if_false, Bool.false_eq_true]

theorem State.taken_coveTrackers (s : State) (p : Packet) (c : Fin 800) : (s.taken p).trackers (.cove c) = (s.cove c).net.trackers := by
  show ((s.taken p).cove c).net.trackers = _
  rw [State.taken]
  rcases eq_or_ne c.val p.dstPhys.toNat with hc | hne
  · rw [hc, State.modCove_cove]
    rfl
  · rw [State.modCove_cove_other _ _ hne]

/-- Data that land in the scratchpad, their trackers and the answer leave the rest of the module. -/
theorem State.answerDone_counted (s : State) (hdst : p.dstPhys.toNat = c.val) (f : Scratchpad → Scratchpad) (l : List Tracker) (done : Bool) :
    let t := (((s.taken p).modCove c fun v => v.modSp f).setTrackers (.cove c) l).answerDone p done
    (t.cove c).sp = f (s.cove c).sp ∧ (t.cove c).net.trackers = l ∧ OnlyAt c s t := by
  intro t
  have hanswer := State.answerDone_injectsAt (((s.taken p).modCove c fun v => v.modSp f).setTrackers (.cove c) l) p done
  rw [hdst] at hanswer
  have htaken : OnlyAt c s (s.taken p) := hdst ▸ .modCove s p.dstPhys.toNat _
  have hcounted : OnlyAt c ((s.taken p).modCove c fun v => v.modSp f) (((s.taken p).modCove c fun v => v.modSp f).setTrackers (.cove c) l) := by
    rw [State.setTrackers]
    exact .modCove _ c _
  refine ⟨hanswer.sp.trans ?_, hanswer.trackers.trans ?_, ((htaken.trans (.modCove _ c _)).trans hcounted).trans hanswer.toOnlyAt⟩ <;>
    rw [State.setTrackers, State.modCove_cove]
  · rw [Cove.modNet_sp, State.modCove_cove, Cove.modSp_sp, State.taken_sp]
  · rw [Cove.modNet_net]

/-- The first packet of a transfer lands in the handle's bytes, asks the arbiters for its rows, and is counted by a new tracker. -/
theorem exec_dmaWritePacket_handle (hreceives : s.receives p = true) (hroom : s.canAnswer p.dstPhys.toNat p.agent = true)
    (hdst : p.dstPhys.toNat = c.val) (hlocal : p.agent = false) (hgood : p.bad = false)
    (hnew : ∀ t ∈ (s.cove c).net.trackers, t.key ≠ packetKey p) (hfree : (s.cove c).net.trackers.length < 64) {n : Nat}
    (hn : ((s.packetStep p).map StepRec.no).getD 0 = n)
    (hcheck : ((s.cove c).sp.handle (p.handle.getD 0).toNat).check p.addr.toNat p.payload.length none (some ((s.bay p.bay.toNat).st, n)) = (0, .ok))
    (hdrain : (s.bay p.bay.toNat).st.isDrain n = false) :
    ∃ t, exec (.dmaWritePacket p) s = .next t
      ∧ (t.cove c).sp = ((s.cove c).sp.handleWrite ((s.cove c).sp.handle (p.handle.getD 0).toNat) p.addr.toNat p.payload).dmaRows
          (p.handle.getD 0).toNat p.addr.toNat p.payload.length true (s.cycles c) n
      ∧ (t.cove c).net.trackers = (s.cove c).net.trackers ++ [(Tracker.arrive { key := packetKey p } p s.cnCycles).1] ∧ OnlyAt c s t := by
  have hiface := ifaceOf_cove hdst hlocal
  have hl := s.taken_coveTrackers p c
  have hland := landWrite_handle hiface hn hcheck hdrain
  have hland0 := landWrite_handle (s := s.taken p) hiface hn (by rw [State.taken_sp]; exact hcheck) hdrain
  have hexec := exec_dmaWritePacket_received hreceives hroom (by rw [hland]; exact nofun)
  rw [State.takeWrite_first (by rw [hiface, hl]; exact hnew) (by rw [hiface, hl]; exact hfree), State.countWrite_landed hgood hland0, hiface, hl,
    State.taken_sp] at hexec
  exact ⟨_, hexec, State.answerDone_counted s hdst _ _ _⟩

end

/-- Settles O42: each command by its own lemmas. -/
theorem dmaTransfersTakeEffect : Obligations.DmaTransfersTakeEffect := by
  unfold Obligations.DmaTransfersTakeEffect
  intro s
  refine ⟨fun c d tag => ?_, fun c h => exec_dmaTransferStart_idle h, fun p => ?_,
    fun p h hkept hyoung => exec_dmaWritePacket_waits h hkept hyoung, fun p c => ?_, fun p k ecc => ?_, fun p ecc => ?_,
    fun p ecc h => exec_dmaReadPacket_waits h, fun p d => ?_, fun p hreceives hnone => exec_strayAnswer hreceives hnone, fun c tag => ?_,
    fun i key => exec_dmaTrackerFree_cases⟩
  · intro v x e gen d1 begun hd htag hfew
    have hstarts := exec_dmaTransferStart_starts hd htag hfew
    have hbegin (h : ((s.cove c).modNet fun n => n.begin d d1).startLocal d1 (s.cycles c) = (s.cove c).modNet fun n => n.begin d d1) :
        (s.modCove c fun v => (v.modNet fun n => n.begin d d1).startLocal d1 (s.cycles c)) = begun id id := State.modCove_congr h
    refine ⟨fun hop hkind => ?_, fun hop hkind => ?_, fun hop hgoes => ⟨fun hkind => ?_, fun hkind => ?_⟩, fun hop hkind hstall => ?_⟩
    · refine (hstarts (State.startWaits_of_flag hop)).trans ?_
      rw [startPackets_flag (d := s.startedDma c d tag) s c hop hkind]
      exact congrArg _ (State.modCove_congr (Cove.startLocal_flag _ _ hop hkind))
    · refine (hstarts (State.startWaits_of_flag hop)).trans ?_
      rw [startPackets_remoteFlag (d := s.startedDma c d tag) s c hop hkind]
      exact congrArg (fun t => Host.Outcome.next (State.sendDma t c d1 x.dst _)) (hbegin (Cove.startLocal_remoteFlag (d := d1) _ _ hop hkind))
    · refine (hstarts (State.startWaits_of_copy hop hgoes)).trans ?_
      rw [startPackets_read (d := s.startedDma c d tag) hop s c hkind]
      exact congrArg _ (State.modCove_congr (Cove.startLocal_read hop _ _ hkind))
    · refine (hstarts (State.startWaits_of_copy hop hgoes)).trans ?_
      rw [startPackets_remoteRead (d := s.startedDma c d tag) hop s c hkind, List.foldl_map]
      exact congrArg (fun t => Host.Outcome.next ((List.range x.packets).foldl (fun t i => t.sendDma c d1 x.src (dmaRead s c d1 i)) t))
        (hbegin (Cove.startLocal_remoteRead (d := d1) hop _ _ hkind))
    · exact exec_dmaTransferStart_waits hd htag (State.startWaits_of_stall hop hkind hstall)
  · intro i s0 l lost tell hreceives hroom hlands
    have hexec := exec_dmaWritePacket_received hreceives hroom hlands
    refine ⟨fun hnew => ?_, fun x hfind => ?_⟩
    · intro r
      refine ⟨fun hfull => ?_, fun hfree hbad => ?_, fun hfree hgood => ⟨fun t ht => ?_, fun code t ht => ?_, fun t ht => ?_⟩⟩
      · rw [hexec, State.takeWrite_full hnew hfull]
      · rw [hexec, State.takeWrite_first hnew hfree, State.countWrite_bad hbad]
        rfl
      · rw [hexec, State.takeWrite_first hnew hfree, State.countWrite_landed hgood ht]
        rfl
      · rw [hexec, State.takeWrite_first hnew hfree, State.countWrite_refused hgood ht]
        rfl
      · rw [hexec, State.takeWrite_first hnew hfree, State.countWrite_stopped hgood ht]
    · intro r put
      refine ⟨fun hfailed => ?_, fun hcounts hbad => ?_, fun hcounts hgood => ⟨fun t ht => ?_, fun code t ht => ?_, fun t ht => ?_⟩⟩
      · rw [hexec, State.takeWrite_failed hfind hfailed]
        rfl
      · rw [hexec, State.takeWrite_counts hfind hcounts, State.countWrite_bad hbad]
        rfl
      · rw [hexec, State.takeWrite_counts hfind hcounts, State.countWrite_landed hgood ht]
        rfl
      · rw [hexec, State.takeWrite_counts hfind hcounts, State.countWrite_refused hgood ht]
        rfl
      · rw [hexec, State.takeWrite_counts hfind hcounts, State.countWrite_stopped hgood ht]
  · intro v h e n s0 hreceives hroom hdst hlocal
    have hiface := ifaceOf_cove hdst hlocal
    refine ⟨fun hgood hnew hfree hcheck hdrain => ?_, fun ecc => ⟨fun hcode => ?_, fun hcode => ?_⟩⟩
    · obtain ⟨t, hexec, hsp, htrackers, honly, hothers⟩ :=
        exec_dmaWritePacket_handle hreceives hroom hdst hlocal hgood hnew hfree rfl hcheck hdrain
      exact ⟨t, _, hexec, hsp, htrackers, rfl, rfl, rfl, rfl, honly, hothers⟩
    · exact exec_dmaReadPacket_coveData hreceives hroom hiface hcode
    · exact exec_dmaReadPacket_coveFault hreceives hroom hiface hcode
  · intro b a s0 w s1 hreceives hroom hiface hawake henabled
    exact ⟨fun hcode => exec_dmaReadPacket_stackData hreceives hroom hiface hawake henabled hcode,
      fun hcode => exec_dmaReadPacket_stackFault hreceives hroom hiface hawake henabled hcode⟩
  · intro b s0 hreceives hroom hiface
    refine ⟨fun hrun => exec_dmaReadPacket_noRun hreceives hroom hiface hrun, fun w hrun => ?_⟩
    exact ⟨fun hlong => exec_dmaReadPacket_outside hreceives hroom hiface hrun hlong,
      fun hinside => exec_dmaReadPacket_input hreceives hroom hiface hrun hinside⟩
  · intro c s0 x i src f modTransfer later hreceives htransfer
    refine ⟨fun hbad => ⟨fun hpoison => ?_, fun hclean => ?_⟩, fun hgood => ⟨fun hkind => ?_, fun hkind => ?_⟩, fun hcode => ?_,
      fun hcode => ?_, fun hzero hother => ?_, fun hkind => ?_, fun hkind => ?_⟩
    · exact exec_dmaDataPacket_poisoned hreceives htransfer hbad hpoison
    · exact exec_dmaDataPacket_bad hreceives htransfer hbad hclean
    · exact exec_dmaDataPacket_lands hreceives htransfer hgood hkind
    · exact exec_dmaDataPacket_relays hreceives htransfer hgood hkind
    · exact (exec_dmaDonePacket_received hreceives htransfer).trans (congrArg _ (if_pos hcode))
    · exact (exec_dmaDonePacket_received hreceives htransfer).trans (congrArg _ ((if_neg (by rw [hcode]; decide)).trans (if_pos hcode)))
    · exact (exec_dmaDonePacket_received hreceives htransfer).trans (congrArg _ ((if_neg hzero).trans (if_neg hother)))
    · exact exec_dmaRetryPacket_rereads hreceives htransfer hkind
    · exact exec_dmaRetryPacket_resends hreceives htransfer hkind
  · intro n
    refine ⟨fun d hfind => ?_, fun hnone => ⟨exec_dmaRetryResend_none hnone, exec_dmaTimeout_none hnone⟩,
      fun a hrests hdue => exec_dmaTagQuarantineEnd_due hrests hdue, exec_dmaTagQuarantineEnd_rests, fun d rest hdma hdone => ?_⟩
    · exact ⟨exec_dmaRetryResend_due hfind, exec_dmaRetryResend_early hfind,
        fun hlate hretry hsent hleft => exec_dmaTimeout_silent hfind hlate hretry hsent hleft, exec_dmaTimeout_waits hfind⟩
    · refine ⟨_, exec_dmaRetire c s, ?_, ?_, fun hstarted => ?_, State.modCove_only _ _ _, fun k hk => State.modCove_cove_other _ _ hk⟩ <;>
        rw [State.modCove_cove, Cove.modNet_net, retireHead_done hdma hdone]
      · simp [hstarted, Tab.find, Tab.put, rowsFind_put]

end Sys2Proof.Machine
end

section
/-!
SUPPORT. The copy of a chunk corrects the single-bit errors that it reads, and the second error of a row within 24 hours remaps the row (R262,
R264, R266). The remap that brings a talus map to 14,000 entries is reported in telemetry (R269, log entry 201): a packet enters the current network.
-/
namespace Sys2Proof.Machine

/-! A row of a pseudo-channel that has no entry yet. -/

theorem talusInsert_freeWay {l : List Talus} (hway : ∀ t ∈ l, t.way ≠ 0) (n : Nat) (e : Talus) :
    talusInsert (n + 1) 0 l e = some (l ++ [{ e with way := 0 }]) := by
  have hfree : (l.any fun t => t.way == 0 && t.slot == talusSlot e.pc e.bank e.row 0) = false := by
    simpa using fun t ht hzero => absurd hzero (hway t ht)
  have hfirst : ((List.range 4).find? fun v => !(l.any fun t => t.way == v && t.slot == talusSlot e.pc e.bank e.row v)) = some 0 := by
    simp [List.find?_range_eq_some, hfree]
  rw [talusInsert]
  simp only [hfirst]

theorem Stack.spareNext_unused {k : Stack} {pc : Nat} (hother : ∀ t ∈ k.talus, t.pc ≠ pc) (hsound : k.badSpares = []) :
    k.spareNext pc = some 0 := by
  have hunused : (k.talus.any fun t => t.pc == pc && t.spare == 0) = false := by
    simpa using fun t ht hpc => absurd hpc (hother t ht)
  simp [Stack.spareNext, List.find?_range_eq_some, hsound, hunused]

theorem State.remapRow_new {s : State} {st pc bank row sp : Nat} {l : List Talus}
    (hnew : ((s.stack st).talus.find? fun t => t.pc == pc && t.bank == bank && t.row == row) = none)
    (hspare : (s.stack st).spareNext pc = some sp) (hroom : (s.stack st).talus.length < 15000)
    (hinsert : talusInsert 257 0 (s.stack st).talus ⟨pc, bank, row, sp, !(s.stack st).softUsed.contains (pc, bank), 0⟩ = some l) :
    s.remapRow st pc bank row = ((s.modStack st fun k =>
      { k.copyRow pc bank row (spareRow sp) s.netNow with talus := l, ctr := bump k.ctr 2 1 }).journalTalus st
        ⟨pc, bank, row, sp, !(s.stack st).softUsed.contains (pc, bank), 0⟩ false).reportHigh st := by
  unfold State.remapRow
  extract_lets k here
  have h1 : k.talus.find? here = none := hnew
  have h2 : k.spareNext pc = some sp := hspare
  rw [h1, h2]
  dsimp only
  rw [if_neg (Nat.not_le.mpr hroom), hinsert]

/-- The remap that makes the map's 14,000th entry hands a packet to the controller's first router. -/
theorem State.remapRow_reports {s : State} {st pc : Nat} (hother : ∀ t ∈ (s.stack st).talus, t.pc ≠ pc) (hsound : (s.stack st).badSpares = [])
    (hway : ∀ t ∈ (s.stack st).talus, t.way ≠ 0) (hlength : (s.stack st).talus.length = 13999) (bank row : Nat) :
    ∃ (u : State) (p : Packet), s.remapRow st pc bank row = u.inject ((stackRouters st).headD 0) true dlSlow p ∧ u.coves = s.coves
      ∧ packetVc p = 0 ∧ p.redirected = false ∧ p.dstLog = none := by
  have hnew : ((s.stack st).talus.find? fun t => t.pc == pc && t.bank == bank && t.row == row) = none := by
    simpa [List.find?_eq_none] using fun t ht hpc => absurd hpc (hother t ht)
  rw [State.remapRow_new hnew (Stack.spareNext_unused hother hsound) (by omega) (talusInsert_freeWay hway 256 _), State.reportHigh, if_pos]
  · exact ⟨_, _, rfl, rfl, rfl, rfl, rfl⟩
  · show ((State.modStack s st _).stack st).talus.length = 14000
    rw [State.modStack_stack]
    simp [hlength]

/-! The correction of an error that a read meets (R264, R266). -/

/-- A read that meets one flipped bit corrects it. -/
theorem State.readFlips_one {s : State} {st phys u n w : Nat}
    (hflipped : ((s.stack st).flipped.filter fun w => decide (w / 2048 = phys ∧ u < w % 2048 * 32 + 32 ∧ w % 2048 * 32 < u + n)) = [w]) :
    s.readFlips st phys u n = s.correctable st (rowOf phys (w % 2048 * 32)).1 (rowOf phys (w % 2048 * 32)).2.1 (rowOf phys (w % 2048 * 32)).2.2 := by
  unfold State.readFlips
  simp only [hflipped, List.foldl]

/-- The row's second error: it is remapped. -/
theorem State.correctable_again {s : State} {st pc bank row : Nat}
    (hagain : ((s.stack st).ce.any fun e => e.pc == pc && e.bank == bank && e.row == row && decide (s.clk.elapsed < e.at_ + dayNs)) = true) :
    ∃ f : Stack → Stack, s.correctable st pc bank row = (s.modStack st f).remapRow st pc bank row
      ∧ ∀ k, (f k).talus = k.talus ∧ (f k).badSpares = k.badSpares := by
  rw [State.correctable]
  exact ⟨_, if_pos hagain, fun _ => ⟨rfl, rfl⟩⟩

/-! The packet enters the network. -/

theorem Net.setBuf_buf (n : Net) (port vc : Nat) (l : List Packet) : (n.setBuf port vc l).buf port vc = l := Tab.get_set_same _ _ _ _

/-- A packet that an agent hands to an idle router enters it at once. -/
theorem State.inject_idle {s : State} {c : Nat} (hidle : s.cove c = {}) (off : Nat) {p : Packet} (hvc : packetVc p = 0)
    (hredirected : p.redirected = false) (hlog : p.dstLog = none) : ∃ q, ((s.inject c true off p).cove c).net.buf 5 0 = [q] := by
  let w : Injection := { agent := true, off := off, p := p }
  let s1 := s.modCove c fun v => v.modNet fun n => { n with inj := n.inj ++ [w] }
  have hs1 : s1.cove c = { net := { inj := [w] } } := by
    rw [State.modCove_cove, hidle]
    rfl
  let s2 := s1.modCove c fun v => v.modNet fun n => { n with inj := [] }
  have hs2 : s2.cove c = {} := by
    rw [State.modCove_cove, hs1]
    rfl
  have hpasses : (s2.cove c).net.blocks w = false := by
    rw [hs2]
    rfl
  have henters : s.inject c true off p = s2.intoRing c w := by
    show (s1.cove c).net.inj.foldl _ s2 = _
    rw [hs1]
    exact if_neg (by rw [hpasses]; exact Bool.false_ne_true)
  obtain ⟨q, hq, hqvc⟩ : ∃ q, s2.stamped c w = some q ∧ packetVc q = 0 := by
    simp only [State.stamped, w, hredirected, hlog]
    exact ⟨_, rfl, hvc⟩
  refine ⟨q, ?_⟩
  rw [henters, State.intoRing, hq]
  show ((s2.modCove c _).cove c).net.buf 5 0 = [q]
  rw [State.modCove_cove, hs2, hqvc]
  exact Net.setBuf_buf {} 5 0 [q]

/-! The copy of a chunk on which no write waits. -/

theorem exec_shadowChunkCopy_copies {s : State} {st : Fin 8} {g : Nat} {n : BitVec 48} {ch : Fin 256} {h : Shadow}
    (hfind : ((s.stack st).shadows.find? fun h =>
      h.granule == g && h.step == n.toNat && !h.fresh.contains ch.val && !h.copied.contains ch.val) = some h)
    (henabled : (s.stack st).disabled = false) (hawake : s.stackRests st = false) (ecc : List (Nat × Ecc)) :
    exec (.shadowChunkCopy st g n ch ecc) s = .next (s.copyChunk st h ch ecc) := by
  rw [exec_shadowChunkCopy, execShadowChunkCopy]
  simp only [hfind]
  exact occurs_true (by simp [henabled, hawake])

theorem State.copyChunk_coves (s : State) (st : Nat) {h : Shadow} (hwaiting : h.waiting = []) (ch : Nat) :
    (s.copyChunk st h ch []).coves = (s.readFlips st (((s.stack st).before h).resolve (some (h.bay, h.step)) h.granule ch) (ch * 256) 256).coves := by
  rw [State.copyChunk, hwaiting]
  rfl

/-! Stack 0 before its 14,000th entry. -/

/-- Entries of the pseudo-channels from 1 up, each with a spare row of its own; none stands in way 0. -/
def almostHigh : List Talus :=
  (List.range 13999).map fun i =>
    { pc := 1 + i / 512, bank := i % 48, row := i / 48, spare := i % 512, temporary := false, way := 1 + i % 3 }

theorem almostHigh_pc : ∀ t ∈ almostHigh, t.pc ≠ 0 := by
  simp [almostHigh]

theorem almostHigh_way : ∀ t ∈ almostHigh, t.way ≠ 0 := by
  simp [almostHigh]

theorem almostHigh_length : almostHigh.length = 13999 := by simp [almostHigh]

/-- The shadow of granule 0 for step 1 of bay 0, of which nothing is copied. -/
def uncopied : Shadow := { granule := 0, bay := 0, step := 1, phys := 4 }

/-- The first codeword of granule 0 has a flipped bit, in a row (0, 0 of pseudo-channel 0) that has been corrected before on this day. -/
def beforeHigh : Stack := { trained := true, shadows := [uncopied], flipped := [0], ce := [⟨0, 0, 0, 0⟩], talus := almostHigh }

theorem beforeHigh_talus : beforeHigh.talus = almostHigh := by rw [beforeHigh]

def stackBeforeHigh : State := State.reset.modStack 0 fun _ => beforeHigh

theorem stackBeforeHigh_stack : stackBeforeHigh.stack 0 = beforeHigh := State.modStack_stack _ _ _

theorem stackBeforeHigh_cove : stackBeforeHigh.cove 0 = {} := rfl

theorem stackBeforeHigh_reads : stackBeforeHigh.readFlips 0 0 0 256 = stackBeforeHigh.correctable 0 0 0 0 :=
  State.readFlips_one (w := 0) (by rw [stackBeforeHigh_stack]; decide)

theorem stackBeforeHigh_source :
    ((stackBeforeHigh.stack 0).before uncopied).resolve (some (uncopied.bay, uncopied.step)) uncopied.granule 0 = 0 := by
  rw [stackBeforeHigh_stack]
  simp [Stack.before, Stack.resolve, beforeHigh, uncopied, newestShadow, Stack.phys, Tab.find, rowsFind]

/-- The copy corrects the row's second error, and the remap makes the 14,000th entry. -/
theorem stackBeforeHigh_sends : ∃ q, ((stackBeforeHigh.copyChunk 0 uncopied 0 []).cove 0).net.buf 5 0 = [q] := by
  obtain ⟨f, hremap, hf⟩ := State.correctable_again (s := stackBeforeHigh) (st := 0) (pc := 0) (bank := 0) (row := 0) (by
    rw [stackBeforeHigh_stack]
    rfl)
  have hafter : ((stackBeforeHigh.modStack 0 f).stack 0).talus = almostHigh ∧ ((stackBeforeHigh.modStack 0 f).stack 0).badSpares = [] := by
    rw [State.modStack_stack, stackBeforeHigh_stack]
    exact ⟨(hf beforeHigh).1.trans beforeHigh_talus, (hf beforeHigh).2⟩
  obtain ⟨u, p, hsent, hcoves, hvc, hredirected, hlog⟩ := State.remapRow_reports (s := stackBeforeHigh.modStack 0 f) (st := 0) (pc := 0)
    (by rw [hafter.1]; exact almostHigh_pc) hafter.2 (by rw [hafter.1]; exact almostHigh_way) (by rw [hafter.1]; exact almostHigh_length) 0 0
  have hidle : u.cove 0 = {} := by
    rw [State.cove, hcoves]
    exact stackBeforeHigh_cove
  have hcopied : (stackBeforeHigh.copyChunk 0 uncopied 0 []).coves = (u.inject 0 true dlSlow p).coves := by
    rw [State.copyChunk_coves _ _ rfl, stackBeforeHigh_source, stackBeforeHigh_reads, hremap, hsent]
    rfl
  rw [State.cove, hcopied]
  exact State.inject_idle hidle dlSlow hvc hredirected hlog

/-- Refutes O43: the copy of a chunk changes the current network too, when a codeword that it corrects brings the stack to 14,000 entries. -/
theorem not_hbmEventsTakeEffect : ¬ Obligations.HbmEventsTakeEffect := by
  intro h
  obtain ⟨-, -, hcopy, -⟩ := h stackBeforeHigh
  have hfind : ((stackBeforeHigh.stack 0).shadows.find? fun h =>
      h.granule == 0 && h.step == (1 : BitVec 48).toNat && !h.fresh.contains 0 && !h.copied.contains 0) = some uncopied := by
    rw [stackBeforeHigh_stack]
    rfl
  have henabled : (stackBeforeHigh.stack 0).disabled = false := by rw [stackBeforeHigh_stack]; rfl
  obtain ⟨-, hquiet, -⟩ := hcopy 0 0 1 0
  obtain ⟨t, ht, honly, -⟩ := hquiet uncopied hfind rfl henabled rfl
  obtain rfl := Host.Outcome.next.inj ((exec_shadowChunkCopy_copies (st := 0) (g := 0) (n := 1) (ch := 0) hfind henabled rfl []).symm.trans ht)
  have hcoves : (stackBeforeHigh.copyChunk 0 uncopied 0 []).coves = stackBeforeHigh.coves := honly .coves rfl
  obtain ⟨q, hq⟩ := stackBeforeHigh_sends
  rw [State.cove, hcoves] at hq
  exact absurd hq nofun

end Sys2Proof.Machine
end

section
/-!
SUPPORT. A Tideline command that passes its checks (R305): how it acts, and what its parsing and its ANSWER leave.
-/
namespace Sys2Proof.Machine

section
variable {s : State} {c : JCmd} {op : Nat}

theorem State.parse_accepted (haccepts : s.accepts c op) {sel : Bool} (hsel : sel = true) (f : State → State) :
    s.parse c op sel f = .next (f (s.parsed c)) := by
  obtain ⟨hparses, hop, hcheck⟩ := haccepts
  rw [State.parsed] at hcheck
  rw [State.parse, occurs_true (by simp [hparses, hop, hsel])]
  simp only [hcheck]
  rfl

theorem State.accept_parsed_only (s : State) (c : JCmd) : ChangesOnly [.sessions, .portq, .jetty] s ((s.parsed c).accept c) :=
  ((State.takeCmd_only s _).mono rfl).trans (State.accept_only _ c)

theorem State.acceptLong_parsed_only (s : State) (c : JCmd) : ChangesOnly [.sessions, .portq, .jetty] s ((s.parsed c).acceptLong c) :=
  ((State.takeCmd_only s _).mono rfl).trans (State.acceptLong_only _ c)

/-! The jetty's own registers. -/

theorem State.answerCmd_jetty (s : State) (c : JCmd) (status : Nat) (code : Code) (time : Nat) (result : List Byte) :
    (s.answerCmd c status code time result).jetty = { s.jetty with
      cmds := satAdd32 s.jetty.cmds 1
      rejects := if status = 5 then satAdd32 s.jetty.rejects 1 else s.jetty.rejects
      refusals := if 2 ≤ status ∧ status ≤ 4 then satAdd32 s.jetty.refusals 1 else s.jetty.refusals } := by
  rw [State.answerCmd]
  dsimp only
  split
  · exact State.sendSess_only _ _ _ _ .jetty rfl
  · exact State.sendBare_only _ _ _ _ .jetty rfl

theorem State.accept_jetty (s : State) (c : JCmd) : (s.accept c).jetty = { s.jetty with cmds := satAdd32 s.jetty.cmds 1 } :=
  s.answerCmd_jetty c 0 0 0 []

theorem State.acceptLong_jetty (s : State) (c : JCmd) : (s.acceptLong c).jetty = { s.jetty with cmds := satAdd32 s.jetty.cmds 1 } :=
  s.accept_jetty c

theorem State.parsed_maint (s : State) (c : JCmd) : (s.parsed c).jetty.maint = s.jetty.maint := rfl

theorem State.complete_maint (s : State) (v : Nat) (d : Done) : (s.complete v d).jetty.maint = s.jetty.maint := by
  rw [State.complete]
  split
  · exact (congrArg Jetty.maint (State.sendSess_only _ _ _ _ .jetty rfl)).trans rfl
  · rfl

/-! What a frame is addressed by. -/

theorem State.sendSess_hostPort (s : State) (k kind : Nat) (body : List Byte) (j : Nat) :
    ((s.sendSess k kind body).sess j).hostPort = (s.sess j).hostPort := by
  have hsent : ∃ f : Session → Session, (s.sendSess k kind body).sessions = (s.modSess k f).sessions ∧ ∀ x, (f x).hostPort = x.hostPort := by
    rw [State.sendSess]
    split
    · exact ⟨_, State.transmit_only _ _ _ .sessions rfl, fun _ => rfl⟩
    · exact ⟨_, rfl, fun _ => rfl⟩
  obtain ⟨f, hsessions, hf⟩ := hsent
  rw [State.sess, hsessions]
  show ((s.modSess k f).sess j).hostPort = _
  rcases eq_or_ne j k with rfl | hne
  · rw [State.modSess_sess, hf]
  · rw [State.modSess_sess_other _ _ hne]

theorem State.answerCmd_hostPort (s : State) (c : JCmd) (status : Nat) (code : Code) (time : Nat) (result : List Byte) (j : Nat) :
    ((s.answerCmd c status code time result).sess j).hostPort = (s.sess j).hostPort := by
  rw [State.answerCmd]
  split
  · exact State.sendSess_hostPort _ _ _ _ j
  · exact congrArg (fun l : Tab Session => (l.get {} j).hostPort) (State.sendBare_only _ _ _ _ .sessions rfl)

theorem State.addressed_congr {s t : State} (hports : t.ports = s.ports) (hqps : t.qps = s.qps)
    (hhost : ∀ k, (t.sess k).hostPort = (s.sess k).hostPort) (p : Nat) (f : TxFrame) : t.addressed p f = s.addressed p f := by
  have hport : t.port = s.port := funext fun k => congrArg (fun l : Tab Port => l.get {} k) hports
  have hqp : t.qp = s.qp := funext fun k => congrArg (fun l : Tab Qp => l.get {} k) hqps
  unfold State.addressed
  rw [hport, hqp]
  cases f with
  | datagram v q kind seq bytes => simp only [hhost]
  | _ => rfl

theorem State.accept_addressed (s : State) (c : JCmd) (p : Nat) (f : TxFrame) : ((s.parsed c).accept c).addressed p f = s.addressed p f :=
  State.addressed_congr (s.accept_parsed_only c .ports rfl) (s.accept_parsed_only c .qps rfl)
    (fun k => State.answerCmd_hostPort (s.parsed c) c stAccepted 0 0 [] k) p f

theorem State.transmit_queued {s : State} {p : Nat} (hup : (s.port p).up = true) (f : TxFrame) :
    s.addressed p f ∈ ((s.transmit p f).portQ p).first ++ ((s.transmit p f).portQ p).second := by
  rw [State.transmit, if_pos hup, State.modPortQ_portQ]
  split <;> simp

end

/-! Register accesses (R326, R384). -/

section
variable {s : State} {c : JCmd}

theorem State.acceptLong_headlandWaits (s : State) (c : JCmd) : ((s.parsed c).acceptLong c).headlandWaits = s.headlandWaits := by
  have hsu : ((s.parsed c).acceptLong c).su = s.su := s.acceptLong_parsed_only c .su rfl
  have hclk : ((s.parsed c).acceptLong c).clk = s.clk := s.acceptLong_parsed_only c .clk rfl
  rw [State.headlandWaits, State.headlandWaits, State.pll, State.pll, hsu, hclk]

theorem State.acceptLong_regWait (s : State) (c : JCmd) : ((s.parsed c).acceptLong c).jetty.regWait = s.jetty.regWait :=
  (congrArg Jetty.regWait (State.acceptLong_jetty _ c)).trans rfl

theorem State.regAccess_now (hnow : (!s.headlandWaits && s.jetty.regWait.isEmpty) = true) (f : State → State) :
    ((s.parsed c).acceptLong c).regAccess c f = f ((s.parsed c).acceptLong c) := by
  rw [State.regAccess, State.acceptLong_headlandWaits, State.acceptLong_regWait, if_neg]
  simpa using hnow

theorem State.regAccess_later (hlater : (!s.headlandWaits && s.jetty.regWait.isEmpty) = false) (f : State → State) :
    let t := (s.parsed c).acceptLong c
    t.regAccess c f = { t with jetty := { t.jetty with regWait := s.jetty.regWait ++ [c] } } := by
  intro t
  rw [State.regAccess, State.acceptLong_headlandWaits, State.acceptLong_regWait, if_pos]
  simpa [or_iff_not_imp_left] using hlater

theorem exec_regRead_accepted (haccepts : s.accepts c 0x11) :
    exec (.regRead c) s = .next (((s.parsed c).acceptLong c).regAccess c fun t => t.doRegRead c) := by
  rw [exec_regRead, execRegRead, State.parse_accepted haccepts rfl]

theorem exec_regWrite_permitted (haccepts : s.accepts c 0x12) (hpermitted : ((s.parsed c).regWritten c).isSome = true) :
    exec (.regWrite c) s = .next (((s.parsed c).acceptLong c).regAccess c fun t => t.doRegWrite c) := by
  obtain ⟨t, ht⟩ := Option.isSome_iff_exists.mp hpermitted
  rw [exec_regWrite, execRegWrite, State.parse_accepted haccepts rfl]
  simp only [ht]

theorem exec_regWrite_forbidden (haccepts : s.accepts c 0x12) (hforbidden : (s.parsed c).regWritten c = none) :
    exec (.regWrite c) s = .next ((s.parsed c).reject c 0x9128) := by
  rw [exec_regWrite, execRegWrite, State.parse_accepted haccepts rfl]
  simp only [hforbidden]

end

/-! RESEND (R312). -/

section
variable {s : State} {c : JCmd}

/-- The kept datagrams of the range that RESEND names, as far as they are kept. -/
def State.resendRange (s : State) (c : JCmd) : List (Option (Nat × List Byte)) :=
  (seqRange (jField c 20 4) (jField c 16 4)).map fun q => (s.sess (jSess c % 256)).kept.find? fun d => d.1 == q

/-- A kept datagram of the command's session goes out again. -/
def State.sendAgain (s : State) (c : JCmd) (t : State) (d : Nat × List Byte) : State :=
  t.transmit (s.sess (jSess c % 256)).port
    (.datagram (BitVec.ofNat 16 (s.sessValue (jSess c % 256))) (s.sess (jSess c % 256)).qp (d.2.getD 0 0) d.1 d.2)

theorem any_isNone_iff {α : Type} {l : List (Option α)} : l.any Option.isNone = true ↔ none ∈ l := by simp

theorem exec_resend_kept (haccepts : s.accepts c 0x13) (hcount : jField c 20 4 ≤ 64) (hkept : none ∉ s.resendRange c) :
    exec (.resend c) s = .next (((s.resendRange c).filterMap id).foldl (s.sendAgain c) ((s.parsed c).accept c)) := by
  have hmin : min (jField c 20 4) 65 = jField c 20 4 := by omega
  rw [exec_resend, execResend, State.parse_accepted haccepts rfl]
  dsimp only
  rw [hmin, if_neg]
  · rfl
  · rintro (hmany | hlost)
    · omega
    · exact hkept (any_isNone_iff.mp hlost)

theorem exec_resend_lost (haccepts : s.accepts c 0x13)
    (hlost : 64 < jField c 20 4 ∨ (jField c 20 4 ≤ 64 ∧ none ∈ s.resendRange c)) :
    exec (.resend c) s = .next ((s.parsed c).reject c 0x9125) := by
  rw [exec_resend, execResend, State.parse_accepted haccepts rfl]
  dsimp only
  rw [if_pos]
  rcases hlost with hmany | ⟨hcount, hnone⟩
  · exact .inl hmany
  · rw [Nat.min_eq_left (by omega)]
    exact .inr (any_isNone_iff.mpr hnone)

end

/-! The window of hard repairs (R271, R327). -/

/-- The completions of a window's commands change sessions, transmit queues and the jetty's registers, not the window. -/
theorem State.completions_leave (l : List (Nat × BitVec 32 × Nat)) (s : State) :
    let t := l.foldl (fun t u => t.complete u.1 { cmdId := u.2.1, opcode := 0x1A, start := u.2.2 }) s
    ChangesOnly [.sessions, .portq, .jetty] s t ∧ t.jetty.maint = s.jetty.maint := by
  induction l generalizing s with
  | nil => exact ⟨.refl _ s, rfl⟩
  | cons u l ih =>
    obtain ⟨honly, hmaint⟩ := ih (s.complete u.1 { cmdId := u.2.1, opcode := 0x1A, start := u.2.2 })
    exact ⟨(State.complete_only _ _ _).trans honly, hmaint.trans (State.complete_maint _ _ _)⟩

theorem State.freeTalus_talus {s : State} {st way slot : Nat} {e : Talus}
    (hfind : ((s.stack st).talus.find? fun t => t.way == way && t.slot == slot && !t.temporary) = some e) :
    ((s.freeTalus st way slot).stack st).talus = (s.stack st).talus.erase e := by
  rw [State.freeTalus, hfind]
  exact congrArg Stack.talus (State.modStack_stack s st _)

theorem State.freeSoft_softUsed {s : State} {st pc bank : Nat} {e : Talus}
    (hfind : ((talusOf s.su.journal st).soft.find? fun t => t.pc == pc && t.bank == bank) = some e) :
    ((s.freeSoft st pc bank).stack st).softUsed = (s.stack st).softUsed.erase (pc, bank) := by
  rw [State.freeSoft, hfind]
  exact congrArg Stack.softUsed (State.modStack_stack s st _)

/-- The repairs of a window taken over: the entries and the soft repairs that became hard ones are free. -/
def State.takeRepairs (s : State) (r : HardRepairs) : State :=
  r.soft.foldl (fun t f => t.freeSoft f.1 f.2.1 f.2.2) (r.freed.foldl (fun t f => t.freeTalus f.1 f.2.1 f.2.2) s)

/-- What the end of a window leaves: the repairs taken over, and the commands of the window completed. -/
theorem exec_hardRepairDone_open {s : State} (hopen : s.maintOpen = true) (r : HardRepairs) : ∃ t, exec (.hardRepairDone r) s = .next t
    ∧ t = (s.jetty.maint.opening.toList ++ s.jetty.maint.closers).foldl (fun t u =>
        t.complete u.1 { cmdId := u.2.1, opcode := 0x1A, start := u.2.2 })
        { s.takeRepairs r with jetty := { (s.takeRepairs r).jetty with maint := {} } }
    ∧ t.jetty.maint = {} ∧ t.ctrls = (s.takeRepairs r).ctrls ∧ t.su = (s.takeRepairs r).su := by
  obtain ⟨honly, hmaint⟩ := State.completions_leave (s.jetty.maint.opening.toList ++ s.jetty.maint.closers)
    { s.takeRepairs r with jetty := { (s.takeRepairs r).jetty with maint := {} } }
  exact ⟨_, occurs_true hopen, rfl, hmaint, honly .ctrls rfl, honly .su rfl⟩

/-! MODULE_RESET (R300, R419). -/

/-- A departure of both ports is one notice. -/
theorem State.depart_both (s : State) (reason : Code) (retrain : Bool) : ∃ d : Departure, d.reason = reason ∧ d.scope = 1 ∧ d.retrain = retrain
    ∧ ∀ p : Fin 2, ((s.depart [0, 1] reason retrain).portQ p).departing = some d := by
  unfold State.depart
  extract_lets sessions latest at_ down d
  refine ⟨d, rfl, rfl, rfl, fun p => ?_⟩
  match p with
  | 0 => simp [State.modPortQ_portQ_other]
  | 1 => simp

/-- Settles O51: each command by the lemmas of its section. -/
theorem jettyCommandsTakeEffect : Obligations.JettyCommandsTakeEffect := by
  unfold Obligations.JettyCommandsTakeEffect
  intro s c s0 b y a v now s1 later
  refine ⟨fun haccepts => ?_, fun haccepts => ?_, fun haccepts => ?_, fun haccepts => ?_, fun haccepts => ?_, fun haccepts => ?_,
    fun hopen freed soft => ?_, fun hclosed f g => ?_, fun haccepts => ?_⟩
  · have hexec := exec_regRead_accepted haccepts
    exact ⟨fun hnow => hexec.trans (congrArg _ (State.regAccess_now hnow _)),
      fun hlater => hexec.trans (congrArg _ (State.regAccess_later hlater _))⟩
  · refine ⟨fun hpermitted => ?_, exec_regWrite_forbidden haccepts⟩
    have hexec := exec_regWrite_permitted haccepts hpermitted
    exact ⟨fun hnow => hexec.trans (congrArg _ (State.regAccess_now hnow _)),
      fun hlater => hexec.trans (congrArg _ (State.regAccess_later hlater _))⟩
  · intro k x n found
    refine ⟨exec_resend_kept haccepts, fun d hone hfound hup => ?_, exec_resend_lost haccepts⟩
    have hrange : s.resendRange c = [some d] := hfound
    have hexec := exec_resend_kept haccepts (by omega) (by simp [hrange])
    rw [hrange] at hexec
    refine ⟨_, _, hexec, rfl, ?_⟩
    rw [← State.accept_addressed s c]
    exact State.transmit_queued ((congrArg (fun l : Tab Port => (l.get {} x.port).up) (s.accept_parsed_only c .ports rfl)).trans hup) _
  · intro w
    refine ⟨fun hscope => ⟨_, (exec_capSetBay c s).trans (State.parse_accepted haccepts (by simpa using hscope) _), ?_⟩,
      fun hscope => ⟨_, (exec_capSetModule c s).trans (State.parse_accepted haccepts (by simpa using hscope) _), rfl⟩⟩
    have hbay : ((s.parsed c).accept c).bay b = y := congrArg (fun l : Tab Bay => l.get {} b) (s.accept_parsed_only c .bays rfl)
    dsimp only
    rw [State.modBay_bay, hbay]
  · have hbay : ((s.parsed c).acceptLong c).bay b = y := congrArg (fun l : Tab Bay => l.get {} b) (s.acceptLong_parsed_only c .bays rfl)
    refine ⟨_, (exec_bayReset c s).trans (State.parse_accepted haccepts rfl _), ?_⟩
    dsimp only
    rw [State.modBay_bay, hbay]
    exact ⟨rfl, rfl⟩
  · intro m
    refine ⟨fun haction hidle => ?_, fun haction hopening => ?_, fun haction hopen => ?_, fun haction hclosed => ?_⟩
    · refine ⟨_, (exec_maintenanceOpen c s).trans (State.parse_accepted haccepts (by simpa using haction) _), ?_⟩
      rw [if_neg (by rw [State.parsed_maint, hidle]; exact Bool.false_ne_true)]
      rfl
    · refine (exec_maintenanceOpen c s).trans ((State.parse_accepted haccepts (by simpa using haction) _).trans ?_)
      exact congrArg _ (if_pos hopening)
    · refine ⟨_, (exec_maintenanceClose c s).trans ((State.parse_accepted haccepts (by simpa using haction) _).trans (congrArg _ (if_pos hopen))), ?_⟩
      dsimp only
      rw [State.acceptLong_jetty]
      rfl
    · exact (exec_maintenanceClose c s).trans ((State.parse_accepted haccepts (by simpa using haction) _).trans
        (congrArg _ (if_neg (by rw [hclosed]; exact Bool.false_ne_true))))
  · obtain ⟨t, hexec, ht, hmaint, hctrls, hsu⟩ := exec_hardRepairDone_open hopen ⟨freed, soft⟩
    have hstack (k : Nat) : t.stack k = (s.takeRepairs ⟨freed, soft⟩).stack k := congrArg (fun l : Tab Stack => l.get {} k) hctrls
    refine ⟨t, hexec, hmaint, execHardRepairDone_only ⟨freed, soft⟩ s t hexec, ?_, ?_, ?_⟩
    · rintro rfl rfl
      exact ⟨hctrls, hsu, ht⟩
    · rintro st way slot e rfl rfl hfind
      rw [hstack]
      exact State.freeTalus_talus hfind
    · rintro st pc bank e rfl rfl hfind
      rw [hstack]
      exact State.freeSoft_softUsed hfind
  · exact (exec_hardRepairDone ⟨f, g⟩ s).trans (occurs_false hclosed)
  · obtain ⟨d, hreason, hscope, hretrain, hports⟩ := State.depart_both
      { (s.parsed c).accept c with jetty := { ((s.parsed c).accept c).jetty with resetting := true } } 0x9030 false
    exact ⟨_, (exec_moduleReset c s).trans (State.parse_accepted haccepts rfl _), rfl, d, hreason, hscope, hretrain, hports⟩

end Sys2Proof.Machine
end

section
/-!
SUPPORT. Congestion of a connection (R288): when each event occurs, and what it leaves of the queue pair.
-/
namespace Sys2Proof.Machine

/-! A frame of a connection other than a request (R280, R286). -/

section
variable {s : State} {c : ConnFrame} {live : List QpState}

theorem State.connFrame_down (hdown : (s.port (s.qp c.qp).port).up = false) (f : State → State) : s.connFrame c live f = .next s :=
  occurs_false hdown

theorem State.connFrame_taken (hup : (s.port (s.qp c.qp).port).up = true) (haccepts : (s.port (s.qp c.qp).port).accepts c.hdr false = true)
    (hlive : live.contains (s.qp c.qp).state = true) (f : State → State) :
    s.connFrame c live f = .next (f ((s.ethCount (s.qp c.qp).port 0 1).modQp c.qp fun x => { x with peerMac := c.hdr.srcMac })) := by
  rw [State.connFrame, occurs_true hup, if_pos (by rw [haccepts, hlive]; rfl)]

theorem State.connFrame_dropped (hup : (s.port (s.qp c.qp).port).up = true)
    (hbad : (s.port (s.qp c.qp).port).accepts c.hdr false = false ∨ live.contains (s.qp c.qp).state = false) (f : State → State) :
    s.connFrame c live f = .next ((s.ethCount (s.qp c.qp).port 0 1).ethCount (s.qp c.qp).port 2 1) := by
  rw [State.connFrame, occurs_true hup, if_neg (by rcases hbad with h | h <;> rw [h] <;> simp)]

end

/-- A notification that finds its connection ready, in `t`: it is counted and cuts the rate, by the parameters and the time of `s`. -/
def State.cutRate (s : State) (q : Nat) (t : State) : State :=
  (t.ethCount (s.qp q).port 8 1).modQp q fun x =>
    { x with
      target := x.rate
      rate := max (s.portQ (s.qp q).port).dcqcn.minMbps (x.rate - x.rate * x.alpha / 131072)
      alpha := x.alpha - x.alpha / 2 ^ (s.portQ (s.qp q).port).dcqcn.gShift + 65536 / 2 ^ (s.portQ (s.qp q).port).dcqcn.gShift
      rateSteps := 0, byteSteps := 0, bytes := 0, rateAt := s.clk.elapsed, alphaAt := s.clk.elapsed }

theorem exec_cnpReceived_connFrame (f : ConnFrame) (s : State) : exec (.cnpReceived f) s = s.connFrame f [.ready] (s.cutRate f.qp) := rfl

/-! The rate's timers (Table 11.5). -/

section
variable {s : State} {q : Fin 512}

theorem exec_alphaTimer_due (hready : (s.qp q).state = .ready)
    (hdue : (s.qp q).alphaAt + (s.portQ (s.qp q).port).dcqcn.alphaUs * 1000 ≤ s.clk.elapsed) :
    exec (.dcqcnAlphaTimer q) s = .next (s.modQp q fun x =>
      { x with alpha := x.alpha - x.alpha / 2 ^ (s.portQ (s.qp q).port).dcqcn.gShift, alphaAt := s.clk.elapsed }) :=
  occurs_true (by simp [hready, hdue])

theorem exec_alphaTimer_waits (h : (s.qp q).state ≠ .ready
    ∨ s.clk.elapsed < (s.qp q).alphaAt + (s.portQ (s.qp q).port).dcqcn.alphaUs * 1000) : exec (.dcqcnAlphaTimer q) s = .next s :=
  occurs_false (by rcases h with h | h <;> simp [h])

/-- Is a step of the rate due: by the bytes sent, or by the timer? -/
def State.rateDue (s : State) (q : Nat) (byBytes : Bool) : Prop :=
  let d := (s.portQ (s.qp q).port).dcqcn
  if byBytes then d.byteKb * 1000 ≤ (s.qp q).bytes else (s.qp q).rateAt + d.rateUs * 1000 ≤ s.clk.elapsed

/-- The target after a step of the rate with the counts of steps `t` and `n`. -/
def State.nextTarget (s : State) (q t n : Nat) : Nat :=
  let x := s.qp q
  let d := (s.portQ x.port).dcqcn
  let line := (s.port x.port).mbps
  if max t n < 5 then x.target else if 5 < min t n then min line (x.target + d.rhaiMbps) else min line (x.target + d.raiMbps)

theorem exec_rateTimer_waits {byBytes : Bool} (h : (s.qp q).state ≠ .ready ∨ ¬ s.rateDue q byBytes) :
    exec (.dcqcnRateTimer q byBytes) s = .next s := by
  refine occurs_false ?_
  rcases h with h | h
  · simp [h]
  · cases byBytes <;> simpa [State.rateDue] using fun _ => h

/-- A step of the rate: the count of its kind rises, the rate goes halfway to the target as it then is. -/
theorem exec_rateTimer_due {byBytes : Bool} (hready : (s.qp q).state = .ready) (hdue : s.rateDue q byBytes) :
    let x := s.qp q
    let target := s.nextTarget q (if byBytes then x.rateSteps else x.rateSteps + 1) (if byBytes then x.byteSteps + 1 else x.byteSteps)
    ∃ t, exec (.dcqcnRateTimer q byBytes) s = .next t ∧ ChangesOnly [.qps] s t ∧ t.qp q = { x with
      target := target, rate := min (s.port x.port).mbps ((x.rate + target) / 2)
      rateSteps := if byBytes then x.rateSteps else x.rateSteps + 1, byteSteps := if byBytes then x.byteSteps + 1 else x.byteSteps
      bytes := if byBytes then x.bytes - (s.portQ x.port).dcqcn.byteKb * 1000 else x.bytes
      rateAt := if byBytes then x.rateAt else s.clk.elapsed } := by
  have hdue' : (if byBytes then decide ((s.portQ (s.qp q).port).dcqcn.byteKb * 1000 ≤ (s.qp q).bytes)
      else decide ((s.qp q).rateAt + (s.portQ (s.qp q).port).dcqcn.rateUs * 1000 ≤ s.clk.elapsed)) = true := by
    cases byBytes <;> simpa [State.rateDue] using hdue
  refine ⟨_, occurs_true (by rw [hready, hdue']; rfl), State.modQp_only _ _ _, ?_⟩
  rw [State.modQp_qp]
  rfl

end

/-- Settles O47: a notification as a frame of its connection (`connFrame`), the timers when they are due. -/
theorem congestionControlTakesEffect : Obligations.CongestionControlTakesEffect := by
  unfold Obligations.CongestionControlTakesEffect
  intro s q x d line
  refine ⟨fun h => ?_, exec_alphaTimer_due, fun hearly => exec_alphaTimer_waits (.inr hearly), fun hready hdue => ?_, fun hready hdue => ?_,
    fun hearly => exec_rateTimer_waits (.inr (Nat.not_le.mpr hearly)), fun hfew => exec_rateTimer_waits (.inr (Nat.not_le.mpr hfew)),
    fun hready y => ⟨exec_alphaTimer_waits (.inl hready), exec_rateTimer_waits (.inl hready)⟩⟩
  · intro p
    rw [exec_cnpReceived_connFrame]
    refine ⟨fun hup haccepts hready => ?_, fun hup hbad => State.connFrame_dropped hup (hbad.imp_right fun hstate => by simpa using hstate) _,
      fun hdown => State.connFrame_down hdown _⟩
    have hexec := State.connFrame_taken (c := ⟨q, h⟩) (live := [.ready]) hup haccepts (by rw [show (s.qp q).state = _ from hready]; rfl)
      (s.cutRate q)
    refine ⟨_, hexec, execCnpReceived_only _ s _ hexec, ?_, ?_⟩
    · simp [State.cutRate, State.ethCount, p, x]
    · simp [State.cutRate, State.ethCount, x, d]
  · obtain ⟨t, hexec, honly, hqp⟩ := exec_rateTimer_due (byBytes := false) hready hdue
    exact ⟨t, hexec, by rw [hqp]; rfl, by rw [hqp]; rfl, by rw [hqp], by rw [hqp]; rfl, honly⟩
  · obtain ⟨t, hexec, honly, hqp⟩ := exec_rateTimer_due (byBytes := true) hready hdue
    exact ⟨t, hexec, by rw [hqp]; rfl, by rw [hqp]; rfl, by rw [hqp]; rfl, by rw [hqp], honly⟩

end Sys2Proof.Machine
end

section
/-!
SUPPORT. The frames of a port: what they are addressed by, and the transmit queue that each joins (R281, R295, R297).
-/
namespace Sys2Proof.Machine

/-- What a port puts on its frames: VLAN tag, priorities, UDP port. -/
def Port.marks (x : Port) : Option (BitVec 12) × BitVec 3 × Bool × Nat × Nat := (x.vlan, x.pcp, x.pfcEn, x.pfcPrio, x.udp)

/-- The addresses of a connection's peer. -/
def Qp.peer (x : Qp) : BitVec 48 × BitVec 128 := (x.peerMac, x.peerIp)

/-- A frame of port `p` has the same addresses in both states. -/
structure SameAddresses (p : Nat) (s t : State) : Prop where
  marks : (t.port p).marks = (s.port p).marks
  peer : ∀ q, (t.qp q).peer = (s.qp q).peer
  host : ∀ k, (t.sess k).hostPort = (s.sess k).hostPort

theorem SameAddresses.refl (p : Nat) (s : State) : SameAddresses p s s := ⟨rfl, fun _ => rfl, fun _ => rfl⟩

theorem SameAddresses.trans {p : Nat} {s t u : State} (h : SameAddresses p s t) (k : SameAddresses p t u) : SameAddresses p s u :=
  ⟨k.marks.trans h.marks, fun q => (k.peer q).trans (h.peer q), fun j => (k.host j).trans (h.host j)⟩

theorem SameAddresses.symm {p : Nat} {s t : State} (h : SameAddresses p s t) : SameAddresses p t s :=
  ⟨h.marks.symm, fun q => (h.peer q).symm, fun j => (h.host j).symm⟩

theorem SameAddresses.addressed {p : Nat} {s t : State} (h : SameAddresses p s t) (f : TxFrame) : t.addressed p f = s.addressed p f := by
  obtain ⟨hmarks, hpeer, hhost⟩ := h
  simp only [Port.marks, Qp.peer, Prod.mk.injEq] at hmarks hpeer
  obtain ⟨hvlan, hpcp, hpfc, hprio, hudp⟩ := hmarks
  cases f <;> simp only [State.addressed, hvlan, hpcp, hpfc, hprio, hudp, hpeer, hhost]

theorem SameAddresses.of_only {ps : List Piece} {p : Nat} {s t : State} (h : ChangesOnly ps s t) (hports : ps.contains .ports = false)
    (hqps : ps.contains .qps = false) (hsessions : ps.contains .sessions = false) : SameAddresses p s t :=
  ⟨congrArg (fun l : Tab Port => (l.get {} p).marks) (h .ports hports), fun q => congrArg (fun l : Tab Qp => (l.get {} q).peer) (h .qps hqps),
    fun k => congrArg (fun l : Tab Session => (l.get {} k).hostPort) (h .sessions hsessions)⟩

theorem SameAddresses.modPort {f : Port → Port} (hf : ∀ x, (f x).marks = x.marks) (s : State) (p k : Nat) : SameAddresses p s (s.modPort k f) := by
  refine ⟨?_, fun _ => rfl, fun _ => rfl⟩
  rcases eq_or_ne p k with rfl | hne
  · rw [State.modPort_port, hf]
  · rw [State.modPort_port_other _ _ hne]

theorem SameAddresses.modQp {s : State} {k : Nat} {f : Qp → Qp} (hf : (f (s.qp k)).peer = (s.qp k).peer) (p : Nat) :
    SameAddresses p s (s.modQp k f) := by
  refine ⟨rfl, fun q => ?_, fun _ => rfl⟩
  rcases eq_or_ne q k with rfl | hne
  · rw [State.modQp_qp, hf]
  · rw [State.modQp_qp_other _ _ hne]

theorem SameAddresses.modSess {f : Session → Session} (hf : ∀ x, (f x).hostPort = x.hostPort) (s : State) (p k : Nat) :
    SameAddresses p s (s.modSess k f) := by
  refine ⟨rfl, fun _ => rfl, fun j => ?_⟩
  rcases eq_or_ne j k with rfl | hne
  · rw [State.modSess_sess, hf]
  · rw [State.modSess_sess_other _ _ hne]

theorem SameAddresses.ethCount (s : State) (p k i n : Nat) : SameAddresses p s (s.ethCount k i n) :=
  .modPort (f := fun x => { x with ctr := bump x.ctr i n }) (fun _ => rfl) s p k

/-! Transmit queues. -/

/-- The frames of a port: those of the two queues, and those that have left. -/
def PortQueues.frames (q : PortQueues) : List Tx × List Tx × List Tx := (q.first, q.second, q.tx)

theorem Queues.nil {p : Nat} {s t : State} (h : (t.portQ p).frames = (s.portQ p).frames) (base : State) : Queues p [] base s t := by
  simp only [PortQueues.frames, Prod.mk.injEq] at h
  obtain ⟨hfirst, hsecond, htx⟩ := h
  exact ⟨by simpa using hfirst, by simpa using hsecond, htx⟩

theorem Queues.trans {p : Nat} {fs gs : List TxFrame} {base s t u : State} (h : Queues p fs base s t) (k : Queues p gs base t u) :
    Queues p (fs ++ gs) base s u := by
  obtain ⟨hfirst, hsecond, htx⟩ := h
  obtain ⟨kfirst, ksecond, ktx⟩ := k
  exact ⟨by simp [kfirst, hfirst], by simp [ksecond, hsecond], ktx.trans htx⟩

/-- What goes before and after keeps the port's frames. -/
theorem Queues.between {p : Nat} {fs : List TxFrame} {base s t s' t' : State} (h : Queues p fs base s t)
    (hs : (s.portQ p).frames = (s'.portQ p).frames) (ht : (t'.portQ p).frames = (t.portQ p).frames) : Queues p fs base s' t' := by
  have hall := ((Queues.nil hs base).trans h).trans (Queues.nil ht base)
  rwa [List.nil_append, List.append_nil] at hall

theorem Queues.base {p : Nat} {fs : List TxFrame} {base base' s t : State} (h : Queues p fs base s t) (hbase : SameAddresses p base base') :
    Queues p fs base' s t := by
  have haddressed : base'.addressed p = base.addressed p := funext hbase.addressed
  rw [Queues, haddressed]
  exact h

theorem Queues.transmit {s : State} {p : Nat} (hup : (s.port p).up = true) (f : TxFrame) : Queues p [f] s s (s.transmit p f) := by
  rw [State.transmit, if_pos hup, Queues, State.modPortQ_portQ]
  cases hfirst : f.isFirst <;> simp [hfirst]

theorem State.transmit_down {s : State} {p : Nat} (hdown : (s.port p).up = false) (f : TxFrame) : s.transmit p f = s := by
  rw [State.transmit, if_neg (by rw [hdown]; exact Bool.false_ne_true)]

theorem Queues.mem_first {p : Nat} {fs : List TxFrame} {base s t : State} (h : Queues p fs base s t) {f : TxFrame} (hf : f ∈ fs)
    (hfirst : f.isFirst = true) : base.addressed p f ∈ (t.portQ p).first := by
  rw [h.1]
  exact List.mem_append_right _ (List.mem_map_of_mem (List.mem_filter.mpr ⟨hf, hfirst⟩))

theorem Queues.mem_second {p : Nat} {fs : List TxFrame} {base s t : State} (h : Queues p fs base s t) {f : TxFrame} (hf : f ∈ fs)
    (hsecond : f.isFirst = false) : base.addressed p f ∈ (t.portQ p).second := by
  rw [h.2.1]
  exact List.mem_append_right _ (List.mem_map_of_mem (List.mem_filter.mpr ⟨hf, by rw [hsecond]; rfl⟩))

end Sys2Proof.Machine
end

section
/-!
SUPPORT. Links of the Ethernet ports (R274 to R279, R297 to R301): what the shared operations leave of a port, then each event.
-/
namespace Sys2Proof.Machine

@[simp] theorem State.portEvent_port (s : State) (p : Nat) (code : Code) : (s.portEvent p code).port p = { s.port p with lastEvt := code } :=
  State.modPort_port s p _

@[simp] theorem State.portEvent_portQ (s : State) (p : Nat) (code : Code) (k : Nat) : (s.portEvent p code).portQ k = s.portQ k := rfl

@[simp] theorem State.beginTraining_port (s : State) (p : Nat) : (s.beginTraining p).port p = { s.port p with
    training := true, attempt := 1, trainAt := s.clk.elapsed, attAt := s.clk.elapsed, lanes := [0, 0, 0, 0], width := 0, reduced := false } :=
  State.modPort_port s p _

@[simp] theorem State.beginTraining_portQ (s : State) (p k : Nat) : (s.beginTraining p).portQ k = s.portQ k := rfl

/-- A link that has gone down: its port neither is up nor trains, what its owner has set stays, and no departure is left. -/
theorem State.linkDown_port (s : State) (p : Nat) : ((s.linkDown p).port p).width = 0 ∧ ((s.linkDown p).port p).training = false
    ∧ ((s.linkDown p).port p).disabled = (s.port p).disabled ∧ ((s.linkDown p).portQ p).departing = none := by
  unfold State.linkDown
  extract_lets s1 s2
  have hport : (s2.port p).width = 0 ∧ (s2.port p).training = false ∧ (s2.port p).disabled = (s.port p).disabled ∧ (s2.portQ p).departing = none := by
    simp only [s2, s1, State.modPortQ_get_port, State.modPort_port, State.modPortQ_portQ, true_and]
    split <;> simp [State.ethCount]
  split <;> exact hport

theorem State.linkDown_jetty (s : State) (p : Nat) : (s.linkDown p).jetty = s.jetty := s.linkDown_only p .jetty rfl

/-- No reset waits for the departures. -/
theorem State.resetIfDown_none {s : State} (h : s.jetty.resetting = false) : s.resetIfDown = s := by
  rw [State.resetIfDown, if_neg (by rw [h]; exact Bool.false_ne_true)]

/-- A link that is lost trains again, unless its owner has disabled it or the module is to be reset. -/
theorem State.linkLost_trains {s : State} {p : Nat} (hdisabled : (s.port p).disabled = false) (hreset : s.jetty.resetting = false) :
    s.linkLost p = (s.linkDown p).beginTraining p := by
  have hport : ((s.linkDown p).port p).disabled = false := (s.linkDown_port p).2.2.1.trans hdisabled
  rw [State.linkLost, if_neg (by rw [hport, hreset]; exact Bool.false_ne_true)]
  exact State.resetIfDown_none ((congrArg Jetty.resetting (s.linkDown_jetty p)).trans hreset)

/-- A departure of one port: its notice stands in the port's queues, its reason in the port's latest event. -/
theorem State.depart_one (s : State) (p : Nat) (reason : Code) (retrain : Bool) : ∃ d : Departure, d.reason = reason ∧ d.retrain = retrain
    ∧ ((s.depart [p] reason retrain).portQ p).departing = some d
    ∧ (s.depart [p] reason retrain).port p = { s.port p with lastEvt := reason } := by
  unfold State.depart
  extract_lets sessions latest at_ down d
  refine ⟨d, rfl, rfl, ?_, State.modPort_port _ p _⟩
  simp

/-! Training (R275, R276). -/

/-- Do all lanes of the attempt in progress pass, in its time? -/
def State.attemptPasses (s : State) (p : Nat) (lanes : BitVec 4) : Bool :=
  let x := s.port p
  let timely : Bool := decide (x.attAt + 100000000 ≤ s.clk.elapsed) && decide (s.clk.elapsed ≤ x.attAt + 2500000000)
  (attemptLanes x.attempt).all fun l => (if timely then lanes else 0).getLsbD l

/-- The state with the results of the lanes of the attempt in progress. -/
def State.lanesTried (s : State) (p : Nat) (lanes : BitVec 4) : State :=
  let x := s.port p
  let timely : Bool := decide (x.attAt + 100000000 ≤ s.clk.elapsed ∧ s.clk.elapsed ≤ x.attAt + 2500000000)
  s.modPort p fun x => { x with lanes := laneResults x.lanes (attemptLanes (s.port p).attempt) (if timely then lanes else 0) }

/-- The port once attempt `n` has brought its link up. -/
def State.linkedUp (s : State) (p n : Nat) : State :=
  (s.modPort p fun x => { x with width := BitVec.ofNat 3 (4 - n), training := false, attempt := 0, reduced := n != 1 }).modPortQ p fun q =>
    { q with ptp := { q.ptp with state := 1 } }

/-- Does the port train, and can it? -/
def State.trains (s : State) (p : Nat) : Prop := (s.port p).training = true ∧ s.linksOn = true ∧ (s.pll (14 + p)).state = .stable

section
variable {s : State} {p : Fin 2} {lanes : BitVec 4}

theorem exec_portTrainAttempt_tries (h : s.trains p) : exec (.portTrainAttempt p lanes) s = .next (
    if s.attemptPasses p lanes then
      (if (s.port p).attempt = 1 then (s.lanesTried p lanes).linkedUp p (s.port p).attempt
       else ((s.lanesTried p lanes).linkedUp p (s.port p).attempt).portEvent p 0x9002)
    else if (s.port p).attempt < 3 then
      (s.lanesTried p lanes).modPort p fun x => { x with attempt := (s.port p).attempt + 1, attAt := s.clk.elapsed }
    else ((s.lanesTried p lanes).modPort p fun x => { x with training := false, attempt := 0 }).portEvent p 0x9001) := by
  obtain ⟨htraining, hon, hpll⟩ := h
  refine (occurs_true (by rw [htraining, hon, hpll]; rfl)).trans ?_
  simp only [State.attemptPasses, ← Bool.decide_and]
  rfl

theorem exec_portTrainAttempt_idle (h : ¬ s.trains p) : exec (.portTrainAttempt p lanes) s = .next s := by
  refine occurs_false ?_
  rw [Bool.eq_false_iff]
  intro hall
  simp only [Bool.and_eq_true, beq_iff_eq] at hall
  obtain ⟨⟨htraining, hon⟩, hpll⟩ := hall
  exact h ⟨htraining, hon, hpll⟩

theorem State.linkedUp_facts (s : State) (p n : Nat) : ((s.linkedUp p n).port p).width = BitVec.ofNat 3 (4 - n)
    ∧ ((s.linkedUp p n).port p).training = false ∧ ((s.linkedUp p n).port p).reduced = (n != 1) ∧ ((s.linkedUp p n).portQ p).ptp.state = 1 := by
  simp [State.linkedUp]

theorem exec_portTrainAttempt_passes (h : s.trains p) (hok : s.attemptPasses p lanes = true) :
    ∃ t, exec (.portTrainAttempt p lanes) s = .next t ∧ (t.port p).width = BitVec.ofNat 3 (4 - (s.port p).attempt)
      ∧ (t.port p).training = false ∧ (t.port p).reduced = ((s.port p).attempt != 1)
      ∧ ((s.port p).attempt ≠ 1 → (t.port p).lastEvt = 0x9002) ∧ (t.portQ p).ptp.state = 1 := by
  have hexec := exec_portTrainAttempt_tries (lanes := lanes) h
  rw [if_pos hok] at hexec
  generalize s.lanesTried p lanes = s1 at hexec
  generalize (s.port p).attempt = n at hexec ⊢
  obtain ⟨hwidth, htraining, hreduced, hptp⟩ := s1.linkedUp_facts p n
  by_cases hfirst : n = 1
  · rw [if_pos hfirst] at hexec
    exact ⟨_, hexec, hwidth, htraining, hreduced, fun hne => absurd hfirst hne, hptp⟩
  · rw [if_neg hfirst] at hexec
    refine ⟨_, hexec, ?_, ?_, ?_, fun _ => ?_, ?_⟩
    · rw [State.portEvent_port, hwidth]
    · rw [State.portEvent_port, htraining]
    · rw [State.portEvent_port, hreduced]
    · rw [State.portEvent_port]
    · rw [State.portEvent_portQ, hptp]

theorem exec_portTrainAttempt_next (h : s.trains p) (hok : s.attemptPasses p lanes = false) (hmore : (s.port p).attempt < 3) :
    ∃ t, exec (.portTrainAttempt p lanes) s = .next t ∧ (t.port p).attempt = (s.port p).attempt + 1 ∧ (t.port p).training = true
      ∧ (t.port p).attAt = s.clk.elapsed ∧ ChangesOnly [.ports] s t := by
  have hexec := exec_portTrainAttempt_tries (lanes := lanes) h
  rw [hok, if_neg Bool.false_ne_true, if_pos hmore] at hexec
  refine ⟨_, hexec, ?_, ?_, ?_, (State.modPort_only _ _ _).trans (State.modPort_only _ _ _)⟩
  · rw [State.modPort_port]
  · simp only [State.modPort_port, State.lanesTried]
    exact h.1
  · rw [State.modPort_port]

theorem exec_portTrainAttempt_ends (h : s.trains p) (hok : s.attemptPasses p lanes = false) (hlast : 3 ≤ (s.port p).attempt) :
    ∃ t, exec (.portTrainAttempt p lanes) s = .next t ∧ (t.port p).training = false ∧ (t.port p).width = (s.port p).width
      ∧ (t.port p).lastEvt = 0x9001 ∧ ChangesOnly [.ports, .mg] s t := by
  have hexec := exec_portTrainAttempt_tries (lanes := lanes) h
  rw [hok, if_neg Bool.false_ne_true, if_neg (Nat.not_lt.mpr hlast)] at hexec
  refine ⟨_, hexec, ?_, ?_, ?_, ?_⟩
  · simp
  · simp [State.lanesTried]
  · simp
  · exact (((State.modPort_only _ _ _).trans (State.modPort_only _ _ _)).mono rfl).trans (State.portEvent_only _ _ _)

/-! Training again (R277). -/

/-- Is the port's next training sequence due? -/
def State.retrainDue (s : State) (p : Nat) : Prop :=
  (s.port p).up = false ∧ (s.port p).training = false ∧ (s.port p).enabled = true ∧ (s.port p).disabled = false ∧ s.linksOn = true
    ∧ (s.port p).trainAt + 10000000000 ≤ s.clk.elapsed

theorem exec_portRetryTimer_due (h : s.retrainDue p) : exec (.portRetryTimer p) s = .next (s.beginTraining p) := by
  obtain ⟨hdown, hidle, henabled, hdisabled, hon, hdue⟩ := h
  exact occurs_true (by simp [hdown, hidle, henabled, hdisabled, hon, hdue])

theorem exec_portRetryTimer_waits (h : ¬ s.retrainDue p) : exec (.portRetryTimer p) s = .next s := by
  refine occurs_false ?_
  rw [Bool.eq_false_iff]
  intro hall
  simp only [Bool.and_eq_true, Bool.not_eq_true', decide_eq_true_eq] at hall
  obtain ⟨⟨⟨⟨⟨hdown, hidle⟩, henabled⟩, hdisabled⟩, hon⟩, hdue⟩ := hall
  exact h ⟨hdown, hidle, henabled, hdisabled, hon, hdue⟩

/-! A link degraded (R279). -/

/-- The state with the uncorrectable codewords of a window counted. -/
def State.fecCounted (s : State) (p : Nat) : State := (s.spend 1).ethCount p 4 (17 + s.freeNat)

theorem exec_fecDegradation_again (hup : (s.port p).up = true) {a : Nat} (hlast : (s.port p).lastRetrain = some a)
    (hearly : s.clk.elapsed < a + 600000000000) : exec (.fecDegradation p) s = .next (s.fecCounted p) := by
  rw [exec_fecDegradation, execFecDegradation, occurs_true hup,
    if_pos (by rw [hlast, Option.any_some]; exact decide_eq_true hearly)]
  rfl

theorem exec_fecDegradation_departs (hup : (s.port p).up = true)
    (hlate : ∀ a, (s.port p).lastRetrain = some a → a + 600000000000 ≤ s.clk.elapsed) :
    exec (.fecDegradation p) s = .next ((((s.fecCounted p).portEvent p 0x9004).modPort p fun x =>
      { x with lastRetrain := some s.clk.elapsed }).depart [p.val] 0x9031 true) := by
  have hagain : ((s.port p).lastRetrain.any fun t => decide (s.clk.elapsed < t + 600000000000)) = false := by
    cases hlast : (s.port p).lastRetrain with
    | none => rfl
    | some a =>
      rw [Option.any_some]
      exact decide_eq_false (Nat.not_lt.mpr (hlate a hlast))
  rw [exec_fecDegradation, execFecDegradation, occurs_true hup, hagain, if_neg Bool.false_ne_true]
  rfl

/-! The end of a departure (R299, R300). -/

section
variable {d : Departure} (hd : (s.portQ p).departing = some d)
include hd

theorem exec_linkDownAt_early (hearly : s.mt.ns < d.downAt) : exec (.linkDownAt p) s = .next s := by
  rw [exec_linkDownAt, execLinkDownAt]
  simp only [hd]
  exact occurs_false (by simpa using hearly)

theorem exec_linkDownAt_due (hdue : d.downAt ≤ s.mt.ns) : exec (.linkDownAt p) s = .next (
    if s.jetty.resetting then (s.linkDown p).resetIfDown
    else if d.retrain && !(s.port p).disabled && s.linksOn then (s.linkDown p).beginTraining p else s.linkDown p) := by
  rw [exec_linkDownAt, execLinkDownAt]
  simp only [hd]
  exact occurs_true (by simpa using hdue)

theorem exec_linkDownAt_drops (hdue : d.downAt ≤ s.mt.ns) (hreset : s.jetty.resetting = false) : ∃ t, exec (.linkDownAt p) s = .next t
    ∧ (t.port p).width = 0 ∧ (t.portQ p).departing = none ∧ (t.port p).training = (d.retrain && !(s.port p).disabled && s.linksOn) := by
  obtain ⟨hwidth, htraining, -, hdeparting⟩ := s.linkDown_port p
  have hexec := exec_linkDownAt_due hd hdue
  rw [hreset, if_neg Bool.false_ne_true] at hexec
  cases hagain : d.retrain && !(s.port p).disabled && s.linksOn with
  | true =>
    rw [hagain, if_pos rfl] at hexec
    exact ⟨_, hexec, by simp, by simpa using hdeparting, by simp⟩
  | false =>
    rw [hagain, if_neg Bool.false_ne_true] at hexec
    exact ⟨_, hexec, hwidth, hdeparting, htraining⟩

end

/-! What the owner asks for (R278, R300). -/

section
variable {who : Requester} (howner : s.isOwner who = true)
include howner

theorem exec_ethRetrain_up (hup : (s.port p).up = true) : exec (.ethRetrain who p) s = .next (s.depart [p.val] 0x9031 true) :=
  (occurs_true howner).trans (congrArg _ (if_pos hup))

theorem exec_ethRetrain_down (hdown : (s.port p).up = false) : exec (.ethRetrain who p) s = .next (
    if (s.port p).training || (s.port p).disabled || !s.linksOn then s else s.beginTraining p) := by
  rw [exec_ethRetrain, execEthRetrain, occurs_true howner, hdown, if_neg Bool.false_ne_true]

/-- The port as the owner has disabled it. -/
def State.portDisabled (s : State) (p : Nat) : State := s.modPort p fun x => { x with disabled := true, enabled := x.enabled || !true }

theorem exec_ethDisable_up (hup : (s.port p).up = true) :
    exec (.ethDisable who p true) s = .next ((s.portDisabled p).depart [p.val] 0x9032 false) :=
  (occurs_true howner).trans (congrArg _ (if_pos hup))

theorem exec_ethDisable_down (hdown : (s.port p).up = false) :
    exec (.ethDisable who p true) s = .next ((s.portDisabled p).modPort p fun x => { x with training := false, attempt := 0 }) := by
  rw [exec_ethDisable, execEthDisable, occurs_true howner, if_pos rfl, hdown, if_neg Bool.false_ne_true]
  rfl

theorem exec_ethDisable_lifted : exec (.ethDisable who p false) s = .next (
    let s1 := s.modPort p fun x => { x with disabled := false, enabled := true }
    if (s.port p).up || (s.port p).training || !s.linksOn then s1 else s1.beginTraining p) := by
  refine (occurs_true howner).trans ?_
  simp only [Bool.not_false, Bool.or_true, Bool.false_eq_true, if_false]

end

end

/-! Heartbeats (R297, R298). -/

/-- The datagram of the session in slot `k` that is sent next (R297). -/
def State.nextDatagram (s : State) (k kind : Nat) (body : List Byte) : TxFrame :=
  .datagram (BitVec.ofNat 16 (s.sessValue k)) (s.sess k).qp (BitVec.ofNat 8 kind) (nextSeq (s.sess k).seq)
    (envelope kind (s.sessValue k) (nextSeq (s.sess k).seq) s.mt.ns body.length ++ body)

/-- Does a datagram of the session go out: it is open and its port is up? -/
def State.sends (s : State) (k : Nat) : Prop := (s.sess k).state = .open_ ∧ (s.port (s.sess k).port).up = true

/-- A datagram of a session: it joins its port's queue if the session is open and the port is up. -/
theorem State.sendSess_queues (s : State) (k kind : Nat) (body : List Byte) :
    (s.sends k → Queues (s.sess k).port [s.nextDatagram k kind body] s s (s.sendSess k kind body))
      ∧ (¬ s.sends k → Queues (s.sess k).port [] s s (s.sendSess k kind body)) := by
  unfold State.sendSess
  extract_lets x seq bytes s1
  have hsame : SameAddresses x.port s s1 := by
    refine SameAddresses.modSess ?_ s _ k
    exact fun _ => rfl
  refine ⟨fun hsends => ?_, fun hsilent => ?_⟩
  · rw [if_pos hsends.1]
    exact ((Queues.transmit (s := s1) hsends.2 _).base hsame.symm).between rfl rfl
  · split
    next hopen =>
      have hdown : (s1.port x.port).up = false := Bool.eq_false_iff.mpr fun hup => hsilent ⟨hopen, hup⟩
      rw [State.transmit_down hdown]
      exact .nil rfl s
    next => exact .nil rfl s

theorem State.sendSess_sess (s : State) (k kind : Nat) (body : List Byte) : ((s.sendSess k kind body).sess k).seq = nextSeq (s.sess k).seq
    ∧ ((s.sendSess k kind body).sess k).lastBeat = (s.sess k).lastBeat := by
  unfold State.sendSess
  extract_lets x seq bytes s1
  have hsessions : (if x.state = .open_ then s1.transmit x.port (.datagram (BitVec.ofNat 16 (s.sessValue k)) x.qp (BitVec.ofNat 8 kind) seq bytes)
      else s1).sessions = s1.sessions := by
    split
    · exact State.transmit_only _ _ _ .sessions rfl
    · rfl
  rw [State.sess, hsessions]
  show (s1.sess k).seq = _ ∧ (s1.sess k).lastBeat = _
  simp [s1, seq, x]

/-- The state at the time of a session's next beat. -/
def State.beatCounted (s : State) (k : Nat) : State := s.modSess k fun x => { x with lastBeat := x.lastBeat + 8000 }

/-- The state once a session's beat has gone out: its time, its SEQ, its frame and the counter `c`. -/
def State.beaten (s : State) (k c kind : Nat) (body : List Byte) (n : Nat) : State :=
  ((s.beatCounted k).sendSess k kind body).ethCount (s.sess k).port c n

section
variable (s : State) (k c kind : Nat) (body : List Byte) (n : Nat)

theorem State.beaten_sess : ((s.beaten k c kind body n).sess k).lastBeat = (s.sess k).lastBeat + 8000
    ∧ ((s.beaten k c kind body n).sess k).seq = nextSeq (s.sess k).seq := by
  obtain ⟨hseq, hbeat⟩ := (s.beatCounted k).sendSess_sess k kind body
  rw [State.beaten, State.ethCount, State.modPort_get_sess, hbeat, hseq, State.beatCounted, State.modSess_sess]
  exact ⟨rfl, rfl⟩

theorem State.beaten_ctr : ((s.beaten k c kind body n).port (s.sess k).port).ctr = bump (s.port (s.sess k).port).ctr c n := by
  have hports : ((s.beatCounted k).sendSess k kind body).ports = s.ports := State.sendSess_only _ _ _ _ .ports rfl
  have hport : ((s.beatCounted k).sendSess k kind body).port (s.sess k).port = s.port (s.sess k).port :=
    congrArg (fun l : Tab Port => l.get {} (s.sess k).port) hports
  rw [State.beaten, State.ethCount, State.modPort_port, hport]

theorem State.beaten_queues : (s.sends k → Queues (s.sess k).port [s.nextDatagram k kind body] s s (s.beaten k c kind body n))
    ∧ (¬ s.sends k → Queues (s.sess k).port [] s s (s.beaten k c kind body n)) := by
  have hsame : SameAddresses (s.sess k).port s (s.beatCounted k) := by
    refine SameAddresses.modSess ?_ s _ k
    exact fun _ => rfl
  obtain ⟨hsent, hsilent⟩ := (s.beatCounted k).sendSess_queues k kind body
  have hport : ((s.beatCounted k).sess k).port = (s.sess k).port := by rw [State.beatCounted, State.modSess_sess]
  have hsends : (s.beatCounted k).sends k = s.sends k := by
    rw [State.sends, State.sends, State.beatCounted, State.modSess_sess]
    rfl
  have hnext : (s.beatCounted k).nextDatagram k kind body = s.nextDatagram k kind body := by
    simp only [State.nextDatagram, State.sessValue, State.beatCounted, State.modSess_sess, State.modSess_mt]
  rw [hport, hsends] at hsent hsilent
  rw [hnext] at hsent
  have hframes : ((s.beaten k c kind body n).portQ (s.sess k).port).frames = (((s.beatCounted k).sendSess k kind body).portQ (s.sess k).port).frames := by
    rw [State.beaten, State.ethCount, State.modPort_get_portQ]
  exact ⟨fun h => ((hsent h).base hsame.symm).between rfl hframes, fun h => ((hsilent h).base hsame.symm).between rfl hframes⟩

end

section
variable {s : State} {bay slot : Fin 16}

/-- Is the session's heartbeat due? -/
def State.beatDue (s : State) (k : Nat) : Prop :=
  ((s.sess k).state = .open_ ∨ (s.sess k).state = .orphaned) ∧ s.nextBeat k ≤ s.mt.ns + 500

theorem exec_heartbeat_waits (h : ¬ s.beatDue (bay.val * 16 + slot.val)) : exec (.heartbeat bay slot) s = .next s := by
  refine occurs_false ?_
  rw [Bool.eq_false_iff]
  intro hall
  simp only [Bool.and_eq_true, Bool.or_eq_true, beq_iff_eq, decide_eq_true_eq] at hall
  exact h hall

theorem exec_heartbeat_due (h : s.beatDue (bay.val * 16 + slot.val)) : exec (.heartbeat bay slot) s = .next (
    let k := bay.val * 16 + slot.val
    let n := if (s.sess k).state = .open_ ∧ (s.port (s.sess k).port).up = true then 1 else 0
    match (s.portQ (s.sess k).port).departing with
    | some d => s.beaten k 12 2 d.body n
    | none => s.beaten k 11 1 (s.beatBody k) n) := by
  have hdue : (((s.sess (bay.val * 16 + slot.val)).state == .open_ || (s.sess (bay.val * 16 + slot.val)).state == .orphaned)
      && decide (s.nextBeat (bay.val * 16 + slot.val) ≤ s.mt.ns + 500)) = true := by
    simp only [Bool.and_eq_true, Bool.or_eq_true, beq_iff_eq, decide_eq_true_eq]
    exact h
  refine (occurs_true hdue).trans ?_
  simp only [Bool.and_eq_true, beq_iff_eq]
  rfl

end

/-- Settles O44: each event by the branch that its hypotheses pick, and by what the branch's operations leave of the port. -/
theorem ethernetLinksTakeEffect : Obligations.EthernetLinksTakeEffect := by
  unfold Obligations.EthernetLinksTakeEffect
  intro s p x q
  refine ⟨fun lanes htraining hon hpll => ?_, fun hidle l => ?_, fun hdown htraining henabled hdisabled hon hdue => ?_, fun hwaits => ?_,
    fun hup => occurs_true hup, fun hup hdisabled hreset => ?_, fun hdown => ⟨occurs_false hdown, occurs_false hdown⟩, fun hup hlate => ?_,
    fun a hup hlast hearly => exec_fecDegradation_again hup hlast hearly, fun d hd => ⟨exec_linkDownAt_drops hd, fun hdue hreset => ?_,
      exec_linkDownAt_early hd⟩, fun hnone => ?_, fun who howner => ⟨fun hdown htraining hdisabled hon => ?_, fun hdown hblocked => ?_,
      fun hup => ?_, fun hup => ?_, fun hdown => ?_, ?_⟩, fun who hother => ⟨occurs_false hother, fun v => occurs_false hother⟩, fun bay slot => ?_⟩
  · have htrains : s.trains p := ⟨htraining, hon, hpll⟩
    intro timely ok
    refine ⟨fun hok => ?_, fun hbad hmore => exec_portTrainAttempt_next htrains hbad hmore, fun hbad hlast => exec_portTrainAttempt_ends htrains hbad hlast⟩
    obtain ⟨t, hexec, hwidth, hdone, hreduced, hevent, hptp⟩ := exec_portTrainAttempt_passes htrains hok
    exact ⟨t, hexec, hwidth, hdone, hreduced, hevent, hptp, execPortTrainAttempt_only p lanes s t hexec⟩
  · refine exec_portTrainAttempt_idle fun htrains => ?_
    obtain ⟨htraining, hon, hpll⟩ := htrains
    rcases hidle with h | h | h
    · exact Bool.false_ne_true (h.symm.trans htraining)
    · exact Bool.false_ne_true (h.symm.trans hon)
    · exact h hpll
  · refine ⟨_, exec_portRetryTimer_due ⟨hdown, htraining, henabled, hdisabled, hon, hdue⟩, ?_, ?_, ?_, s.beginTraining_only p⟩
    · rw [State.beginTraining_port]
    · rw [State.beginTraining_port]
    · rw [State.beginTraining_port]
  · refine exec_portRetryTimer_waits fun h => ?_
    obtain ⟨hdown, htraining, henabled, hdisabled, hon, hdue⟩ := h
    rcases hwaits with h | h | h | h | h | h
    · exact Bool.false_ne_true (hdown.symm.trans h)
    · exact Bool.false_ne_true (htraining.symm.trans h)
    · exact Bool.false_ne_true (h.symm.trans henabled)
    · exact Bool.false_ne_true (hdisabled.symm.trans h)
    · exact Bool.false_ne_true (h.symm.trans hon)
    · exact Nat.not_lt.mpr hdue h
  · have hexec : exec (.pcsAlignmentLoss p) s = .next ((s.linkLost p).portEvent p 0x9003) := occurs_true hup
    rw [State.linkLost_trains hdisabled hreset] at hexec
    refine ⟨_, hexec, ?_, ?_, ?_, ?_⟩
    · rw [State.portEvent_port, State.beginTraining_port]
    · rw [State.portEvent_port, State.beginTraining_port]
    · rw [State.portEvent_port]
    · rw [State.portEvent_portQ, State.beginTraining_portQ, (s.linkDown_port p).2.2.2]
  · obtain ⟨d, hreason, hretrain, hdeparting, hport⟩ := State.depart_one
      (((s.fecCounted p).portEvent p 0x9004).modPort p fun x => { x with lastRetrain := some s.clk.elapsed }) p 0x9031 true
    refine ⟨_, d, exec_fecDegradation_departs hup hlate, hdeparting, hreason, hretrain, ?_, ?_⟩
    · rw [hport, State.modPort_port]
    · rw [hport]
  · have hexec := exec_linkDownAt_due hd hdue
    rwa [hreset, if_pos rfl] at hexec
  · rw [exec_linkDownAt, execLinkDownAt, show (s.portQ p).departing = none from hnone]
  · have hexec := exec_ethRetrain_down howner hdown
    rw [show (s.port p).training = false from htraining, show (s.port p).disabled = false from hdisabled, hon] at hexec
    refine ⟨_, hexec, ?_, ?_, s.beginTraining_only p⟩
    · exact congrArg Port.training (s.beginTraining_port p)
    · exact congrArg Port.attempt (s.beginTraining_port p)
  · refine (exec_ethRetrain_down howner hdown).trans (congrArg _ (if_pos ?_))
    rcases hblocked with h | h | h <;> rw [h] <;> simp
  · obtain ⟨d, hreason, hretrain, hdeparting, -⟩ := s.depart_one p 0x9031 true
    exact ⟨_, d, exec_ethRetrain_up howner hup, hdeparting, hreason, hretrain⟩
  · obtain ⟨d, hreason, hretrain, hdeparting, hport⟩ := (s.portDisabled p).depart_one p 0x9032 false
    refine ⟨_, d, exec_ethDisable_up howner hup, ?_, hdeparting, hreason, hretrain⟩
    rw [hport]
    exact congrArg Port.disabled (s.modPort_port p _)
  · refine ⟨_, exec_ethDisable_down howner hdown, ?_, ?_, (State.modPort_only _ _ _).trans (State.modPort_only _ _ _)⟩
    · simp [State.portDisabled]
    · simp
  · have hexec := exec_ethDisable_lifted (p := p) howner
    refine ⟨fun hstays => ?_, fun hdown htraining hon => ?_⟩
    · refine hexec.trans (congrArg _ (if_pos ?_))
      rcases hstays with h | h | h <;> rw [h] <;> simp
    · refine hexec.trans (congrArg _ (if_neg ?_))
      rw [hdown, htraining, hon]
      exact Bool.false_ne_true
  · intro k y beat
    refine ⟨fun hdue hlive => ?_, fun hwaits => exec_heartbeat_waits fun h => ?_⟩
    · intro n
      have hexec := exec_heartbeat_due (s := s) (bay := bay) (slot := slot) ⟨hlive, hdue⟩
      have hbeat (c kind : Nat) (body : List Byte) (hto : exec (.heartbeat bay slot) s = .next (s.beaten k c kind body n)) :
          beat c kind body n := by
        obtain ⟨hlast, hseq⟩ := s.beaten_sess k c kind body n
        obtain ⟨hsent, hsilent⟩ := s.beaten_queues k c kind body n
        refine ⟨_, hto, hlast, hseq, ?_, s.beaten_ctr k c kind body n, execHeartbeat_only bay slot s _ hto⟩
        by_cases hsends : s.sends k
        · rw [if_neg (show ¬ n = 0 from ne_of_eq_of_ne (if_pos hsends) Nat.one_ne_zero)]
          exact hsent hsends
        · rw [if_pos (show n = 0 from if_neg hsends)]
          exact hsilent hsends
      refine ⟨fun hnone => hbeat 11 1 _ ?_, fun d hd => hbeat 12 2 _ ?_⟩
      · rw [hexec]
        simp only [show (s.portQ (s.sess (bay.val * 16 + slot.val)).port).departing = none from hnone]
        rfl
      · rw [hexec]
        simp only [show (s.portQ (s.sess (bay.val * 16 + slot.val)).port).departing = some d from hd]
        rfl
    · obtain ⟨hlive, hdue⟩ := h
      rcases hwaits with ⟨hopen, horphaned⟩ | hearly
      · exact hlive.elim hopen horphaned
      · exact Nat.not_lt.mpr hdue hearly

end Sys2Proof.Machine
end

section
/-!
SUPPORT. Frames and module time (R280, R281, R289 to R292): what a port does with a frame, what a PTP message and the loss of the master leave.
-/
namespace Sys2Proof.Machine

/-! A frame at a port (R280). -/

section
variable {s : State} {p : Nat}

theorem State.receiveFrame_down (hdown : (s.port p).up = false) (good : Bool) (f : State → State) : s.receiveFrame p good f = .next s :=
  occurs_false hdown

theorem State.receiveFrame_good (hup : (s.port p).up = true) {good : Bool} (hgood : good = true) (f : State → State) :
    s.receiveFrame p good f = .next (f (s.ethCount p 0 1)) := by
  rw [State.receiveFrame, occurs_true hup, if_pos hgood]

theorem State.receiveFrame_bad (hup : (s.port p).up = true) {good : Bool} (hbad : good = false) (f : State → State) :
    s.receiveFrame p good f = .next ((s.ethCount p 0 1).ethCount p 2 1) := by
  rw [State.receiveFrame, occurs_true hup, hbad, if_neg Bool.false_ne_true]

@[simp] theorem State.ethCount_up (s : State) (p i n k : Nat) : ((s.ethCount p i n).port k).up = (s.port k).up := by
  rcases eq_or_ne k p with rfl | hne
  · rw [State.ethCount, State.modPort_port]
    rfl
  · rw [State.ethCount, State.modPort_port_other _ _ hne]

/-- A frame that asks for one is answered (R281). -/
theorem State.receiveFrame_answered (hup : (s.port p).up = true) {good : Bool} (hgood : good = true) (f : TxFrame) :
    ∃ t, s.receiveFrame p good (fun s => s.transmit p f) = .next t ∧ Queues p [f] s s t ∧ ChangesOnly [.ports, .portq] s t := by
  have hcounted : ((s.ethCount p 0 1).port p).up = true := (s.ethCount_up p 0 1 p).trans hup
  exact ⟨_, s.receiveFrame_good hup hgood _, ((Queues.transmit hcounted f).base (SameAddresses.ethCount s p p 0 1).symm).between rfl rfl,
    ((s.ethCount_only p 0 1).mono rfl).trans ((State.transmit_only _ _ _).mono rfl)⟩

end

/-! Requests for the port's addresses (R280, R281). -/

section
variable {s : State} {p : Fin 2} (hup : (s.port p).up = true)
include hup

theorem exec_arpRequest_answered {f : FrameHdr} (haccepts : (s.port p).accepts f true = true) (hip : (s.port p).ip4 ≠ 0) (a : BitVec 32) :
    ∃ t, exec (.arpRequest p f a (s.port p).ip4) s = .next t ∧ Queues p [.arp f.srcMac a] s s t ∧ ChangesOnly [.ports, .portq] s t :=
  State.receiveFrame_answered hup (by simpa [haccepts] using hip) _

theorem exec_arpRequest_dropped {f : FrameHdr} {target : BitVec 32} (h : (s.port p).accepts f true = false ∨ target ≠ (s.port p).ip4)
    (a : BitVec 32) : exec (.arpRequest p f a target) s = .next ((s.ethCount p 0 1).ethCount p 2 1) :=
  State.receiveFrame_bad hup (by rcases h with h | h <;> simp [h]) _

theorem exec_neighborSolicitation_answered {f : FrameHdr} (haccepts : (s.port p).accepts f true = true) (hip : (s.port p).ip6 ≠ 0)
    (a : BitVec 128) : ∃ t, exec (.neighborSolicitation p f a (s.port p).ip6) s = .next t ∧ Queues p [.neighbor f.srcMac a] s s t
      ∧ ChangesOnly [.ports, .portq] s t :=
  State.receiveFrame_answered hup (by simpa [haccepts] using hip) _

theorem exec_neighborSolicitation_dropped {f : FrameHdr} {target : BitVec 128}
    (h : (s.port p).accepts f true = false ∨ (s.port p).ip6 = 0 ∨ target ≠ (s.port p).ip6) (a : BitVec 128) :
    exec (.neighborSolicitation p f a target) s = .next ((s.ethCount p 0 1).ethCount p 2 1) :=
  State.receiveFrame_bad hup (by rcases h with h | h | h <;> simp [h]) _

theorem exec_icmpEchoRequest_answered {f : FrameHdr} (haccepts : (s.port p).accepts f false = true) {ipv6 : Bool} {dst : BitVec 128}
    (hmine : if ipv6 = true then (s.port p).ip6 ≠ 0 ∧ dst = (s.port p).ip6 else (s.port p).ip4 ≠ 0 ∧ dst = (s.port p).ip4.setWidth 128)
    (a : BitVec 128) (body : List (BitVec 8)) : ∃ t, exec (.icmpEchoRequest p f ipv6 a dst body) s = .next t
      ∧ Queues p [.echo f.srcMac a body] s s t ∧ ChangesOnly [.ports, .portq] s t :=
  State.receiveFrame_answered hup (by cases ipv6 <;> simpa [haccepts] using hmine) _

theorem exec_icmpEchoRequest_dropped {f : FrameHdr} {ipv6 : Bool} {dst : BitVec 128} (h : (s.port p).accepts f false = false
      ∨ (if ipv6 = true then (s.port p).ip6 = 0 ∨ dst ≠ (s.port p).ip6 else (s.port p).ip4 = 0 ∨ dst ≠ (s.port p).ip4.setWidth 128))
    (a : BitVec 128) (body : List (BitVec 8)) :
    exec (.icmpEchoRequest p f ipv6 a dst body) s = .next ((s.ethCount p 0 1).ethCount p 2 1) := by
  refine State.receiveFrame_bad hup ?_ _
  rcases h with h | h
  · simp [h]
  · cases ipv6 <;> rcases h with h | h <;> simp [h]

end

/-! PAUSE (R289). -/

section
variable {s : State} {p : Fin 2}

theorem exec_pfcPauseFrame_down (hdown : (s.port p).up = false) (prio : Fin 8) (quanta : BitVec 16) :
    exec (.pfcPauseFrame p prio quanta) s = .next s := by
  rw [exec_pfcPauseFrame, execPfcPauseFrame, State.receiveFrame_down hdown]

variable (hup : (s.port p).up = true) (prio : Fin 8) (quanta : BitVec 16)
include hup

theorem exec_pfcPauseFrame_up : exec (.pfcPauseFrame p prio quanta) s = .next (
    let got := s.ethCount p 0 1
    if (s.port p).pfcEn = false then got.ethCount p 2 1
    else if prio.val = (s.port p).pfcPrio then got.modPort p fun y =>
      { y with pausedTill := s.clk.elapsed + quanta.toNat * 512 / (50 * 2 ^ (s.port p).width.toNat) }
    else got.ethCount p 10 1) := by
  rw [exec_pfcPauseFrame, execPfcPauseFrame, State.receiveFrame_good hup rfl]
  simp only [Bool.not_eq_true']
  rfl

end

/-! Module time (R290 to R292). -/

/-- A step of module time moves a departure of a port, nothing else of its queues. -/
theorem State.stepTime_portQ (s : State) (d : Int) (k : Nat) : ((s.stepTime d).portQ k).ptp = (s.portQ k).ptp
    ∧ ((s.stepTime d).portQ k).frames = (s.portQ k).frames :=
  ⟨Tab.read_map s.portq {} k _ PortQueues.ptp id (fun _ => rfl) rfl, Tab.read_map s.portq {} k _ PortQueues.frames id (fun _ => rfl) rfl⟩

/-- Module time under the correction of port `p`. -/
def State.timeFrom (s : State) (p : Nat) (freq : Int) : State :=
  { s with mt := { s.mt with state := 1, master := some p, freq := freqWord freq } }

/-- Does a correction by `offset` step module time: at the first lock, and out of holdover above 1 ms (R290)? -/
def State.stepsTime (s : State) (offset : Int) : Prop := s.mt.state = 0 ∨ (s.mt.state = 2 ∧ 1000000 < offset.natAbs)

theorem State.lockTime_steps {s : State} {offset : Int} (h : s.stepsTime offset) (p : Nat) (freq : Int) :
    s.lockTime p offset freq = ((s.timeFrom p freq).stepTime (-offset)).portEvent p 0x9021 := by
  rw [State.lockTime]
  rcases h with hfree | ⟨hheld, hfar⟩
  · rw [if_pos hfree]
    rfl
  · rw [if_neg (by rw [hheld]; decide), if_pos hheld, if_neg (Nat.not_le.mpr hfar)]
    rfl

theorem State.lockTime_slews {s : State} {offset : Int} (h : ¬ s.stepsTime offset) (p : Nat) (freq : Int) :
    s.lockTime p offset freq = { s.timeFrom p freq with mt := { (s.timeFrom p freq).mt with slew := -offset } } := by
  rw [State.lockTime, if_neg fun hfree => h (.inl hfree)]
  split
  next hheld => rw [if_pos (Nat.not_lt.mp fun hfar => h (.inr ⟨hheld, hfar⟩))]; rfl
  next => rfl

theorem State.lockTime_keeps (s : State) (p : Nat) (offset freq : Int) : (s.lockTime p offset freq).mt.state = 1
    ∧ (s.lockTime p offset freq).mt.master = some p
    ∧ ∀ k, ((s.lockTime p offset freq).portQ k).ptp = (s.portQ k).ptp ∧ ((s.lockTime p offset freq).portQ k).frames = (s.portQ k).frames := by
  by_cases h : s.stepsTime offset
  · rw [State.lockTime_steps h]
    exact ⟨rfl, rfl, (s.timeFrom p freq).stepTime_portQ (-offset)⟩
  · rw [State.lockTime_slews h]
    exact ⟨rfl, rfl, fun _ => ⟨rfl, rfl⟩⟩

/-! PTP messages (R292). -/

/-- A port's clock once it has heard a message of its domain at elapsed time `now`. -/
def Ptp.hear (x : Ptp) (m : PtpMsg) (now : Nat) : Ptp :=
  { x with
    state := if m.slave then 3 else 2, quality := some m.quality, offset := satWord m.offset
    delay := BitVec.ofNat 32 (min m.delay 0xFFFFFFFF), lastSync := if m.sync then some now else x.lastSync }

/-- The state once a Sync of the port's domain is answered. -/
def State.ptpAnswered (s : State) (p : Nat) (m : PtpMsg) : State := if m.sync then s.transmit p (.delayReq m.hdr.srcMac m.domain) else s

/-- The state once a message of the port's domain is noted with its port. -/
def State.ptpNoted (s : State) (p : Nat) (m : PtpMsg) : State :=
  (s.ptpAnswered p m).modPortQ p fun q => { q with ptp := q.ptp.hear m s.clk.elapsed }

/-- The port with the better master. -/
def State.bestMaster (s : State) : Option Nat := bestPort (s.masterOf 0) (s.masterOf 1)

/-- Of the ports that have a master, the one with the better is SLAVE and the other stands by. -/
def State.ranked (s : State) (best : Option Nat) : State :=
  [0, 1].foldl (fun t k => t.modPortQ k fun q =>
    if 3#3 ≤ q.ptp.state then { q with ptp := { q.ptp with state := if best = some k then 3 else 4 } } else q) s

theorem State.ranked_only (s : State) (best : Option Nat) : ChangesOnly [.portq] s (s.ranked best) :=
  ChangesOnly.foldl (fun t k => t.modPortQ_only k _) _ (.refl _ s)

theorem State.ranked_portQ (s : State) (best : Option Nat) (p : Fin 2) : ((s.ranked best).portQ p).frames = (s.portQ p).frames
    ∧ ((s.ranked best).portQ p).ptp = { (s.portQ p).ptp with
        state := if 3#3 ≤ (s.portQ p).ptp.state then (if best = some p.val then 3 else 4) else (s.portQ p).ptp.state } := by
  have hport : (s.ranked best).portQ p = (if 3#3 ≤ (s.portQ p).ptp.state then
      { s.portQ p with ptp := { (s.portQ p).ptp with state := if best = some p.val then 3 else 4 } } else s.portQ p) := by
    match p with
    | 0 => exact (State.modPortQ_portQ_other _ _ (by decide)).trans (s.modPortQ_portQ 0 _)
    | 1 =>
      refine (State.modPortQ_portQ _ 1 _).trans ?_
      rw [State.modPortQ_portQ_other s _ Nat.one_ne_zero]
      rfl
  rw [hport]
  split <;> exact ⟨rfl, rfl⟩

section
variable {s : State} {p : Fin 2} {m : PtpMsg}

theorem State.ptpAnswered_only (s : State) (p : Nat) (m : PtpMsg) : ChangesOnly [.portq] s (s.ptpAnswered p m) :=
  .ite (s.transmit_only _ _) (.refl _ s)

theorem State.ptpNoted_only (s : State) (p : Nat) (m : PtpMsg) : ChangesOnly [.portq] s (s.ptpNoted p m) :=
  (s.ptpAnswered_only p m).trans (State.modPortQ_only _ _ _)

/-- A frame that a port sends changes nothing of the ports' queues but the transmit queues. -/
theorem State.transmit_read {β : Type} (g : PortQueues → β) (hfirst : ∀ x l, g { x with first := l } = g x)
    (hsecond : ∀ x l, g { x with second := l } = g x) (s : State) (p : Nat) (f : TxFrame) (k : Nat) :
    g ((s.transmit p f).portQ k) = g (s.portQ k) := by
  rw [State.transmit]
  split
  · rcases eq_or_ne k p with rfl | hne
    · rw [State.modPortQ_portQ]
      split
      · exact hfirst _ _
      · exact hsecond _ _
    · rw [State.modPortQ_portQ_other _ _ hne]
  · rfl

theorem State.ptpAnswered_ptp (s : State) (p : Nat) (m : PtpMsg) (k : Nat) : ((s.ptpAnswered p m).portQ k).ptp = (s.portQ k).ptp := by
  rw [State.ptpAnswered]
  split
  · exact State.transmit_read PortQueues.ptp (fun _ _ => rfl) (fun _ _ => rfl) s p _ k
  · rfl

theorem State.ptpNoted_ptp (s : State) (p : Nat) (m : PtpMsg) : ((s.ptpNoted p m).portQ p).ptp = (s.portQ p).ptp.hear m s.clk.elapsed := by
  rw [State.ptpNoted, State.modPortQ_portQ, ← s.ptpAnswered_ptp p m p]

theorem State.ptpNoted_other (s : State) {p k : Nat} (hne : k ≠ p) (m : PtpMsg) : ((s.ptpNoted p m).portQ k).ptp = (s.portQ k).ptp := by
  rw [State.ptpNoted, State.modPortQ_portQ_other _ _ hne, s.ptpAnswered_ptp p m k]

theorem State.ptpNoted_queues {p : Nat} (hup : (s.port p).up = true) (m : PtpMsg) :
    Queues p (if m.sync then [.delayReq m.hdr.srcMac m.domain] else []) s s (s.ptpNoted p m) := by
  have hanswered : Queues p (if m.sync then [.delayReq m.hdr.srcMac m.domain] else []) s s (s.ptpAnswered p m) := by
    rw [State.ptpAnswered]
    cases m.sync with
    | true => exact Queues.transmit hup _
    | false => exact .nil rfl s
  refine hanswered.between rfl ?_
  rw [State.ptpNoted, State.modPortQ_portQ]
  rfl

/-- Where the other port has no master, a SLAVE's own is the best. -/
theorem State.bestMaster_noted (hslave : m.slave = true) (hother : (s.portQ (1 - p.val)).ptp.state.toNat < 3) :
    (s.ptpNoted p m).bestMaster = some p.val := by
  have hmine : (s.ptpNoted p m).masterOf p = some m.quality := by
    rw [State.masterOf, State.ptpNoted_ptp, Ptp.hear, hslave]
    rfl
  have hnone : (s.ptpNoted p m).masterOf (1 - p.val) = none := by
    rw [State.masterOf, State.ptpNoted_other s (by omega) m]
    exact if_neg fun h => Nat.not_le.mpr hother (by simpa [BitVec.le_def] using h)
  rw [State.bestMaster]
  match p with
  | 0 =>
    have h0 : (s.ptpNoted ((0 : Fin 2) : Nat) m).masterOf 0 = some m.quality := hmine
    have h1 : (s.ptpNoted ((0 : Fin 2) : Nat) m).masterOf 1 = none := hnone
    rw [h0, h1]
    rfl
  | 1 =>
    have h1 : (s.ptpNoted ((1 : Fin 2) : Nat) m).masterOf 1 = some m.quality := hmine
    have h0 : (s.ptpNoted ((1 : Fin 2) : Nat) m).masterOf 0 = none := hnone
    rw [h0, h1]
    rfl

/-- The state once a message of the port's domain is taken. -/
def State.ptpTaken (s : State) (p : Nat) (m : PtpMsg) : State :=
  let best := (s.ptpNoted p m).bestMaster
  let s2 := (s.ptpNoted p m).ranked best
  if m.slave ∧ best = some p then s2.lockTime p m.offset m.freq
  else { s2 with mt := { s2.mt with master := if s2.mt.state = 1 ∧ best.isSome then best else s2.mt.master } }

theorem exec_ptpMessage_good (hup : (s.port p).up = true) (haccepts : (s.port p).accepts m.hdr true = true) : exec (.ptpMessage p m) s = .next (
    if m.domain != (s.portQ p).ptp.domain then s.ethCount p 0 1 else (s.ethCount p 0 1).ptpTaken p m) := by
  rw [exec_ptpMessage, execPtpMessage, State.receiveFrame_good hup haccepts]
  rfl

theorem exec_ptpMessage_bad (hup : (s.port p).up = true) (hbad : (s.port p).accepts m.hdr true = false) :
    exec (.ptpMessage p m) s = .next ((s.ethCount p 0 1).ethCount p 2 1) := by
  rw [exec_ptpMessage, execPtpMessage, State.receiveFrame_bad hup hbad]

theorem exec_ptpMessage_down (hdown : (s.port p).up = false) (m : PtpMsg) : exec (.ptpMessage p m) s = .next s := by
  rw [exec_ptpMessage, execPtpMessage, State.receiveFrame_down hdown]

theorem State.ptpTaken_locks (hslave : m.slave = true) (hother : (s.portQ (1 - p.val)).ptp.state.toNat < 3) :
    s.ptpTaken p m = ((s.ptpNoted p m).ranked (some p.val)).lockTime p m.offset m.freq := by
  rw [State.ptpTaken, State.bestMaster_noted hslave hother]
  exact if_pos ⟨hslave, rfl⟩

/-- What the message leaves of module time where it does not lock it: the time and its state. -/
theorem State.ptpTaken_idle (hslave : m.slave = false) : (s.ptpTaken p m).mt.ns = s.mt.ns ∧ (s.ptpTaken p m).mt.state = s.mt.state := by
  have hmt : ((s.ptpNoted p m).ranked (s.ptpNoted p m).bestMaster).mt = s.mt :=
    (State.ranked_only _ _ .mt rfl).trans (s.ptpNoted_only p m .mt rfl)
  rw [State.ptpTaken, hslave, if_neg fun h => Bool.false_ne_true h.1]
  have hns := congrArg ModTime.ns hmt
  have hstate := congrArg ModTime.state hmt
  exact ⟨hns, hstate⟩

/-- The message's port once it is taken: the port as noted, but for its PTP state. -/
theorem State.ptpTaken_portQ (s : State) (p : Fin 2) (m : PtpMsg) :
    ((s.ptpTaken p m).portQ p).ptp = (((s.ptpNoted p m).ranked (s.ptpNoted p m).bestMaster).portQ p).ptp
      ∧ ((s.ptpTaken p m).portQ p).frames = (((s.ptpNoted p m).ranked (s.ptpNoted p m).bestMaster).portQ p).frames := by
  rw [State.ptpTaken]
  generalize (s.ptpNoted p m).ranked (s.ptpNoted p m).bestMaster = s2
  split
  · exact (s2.lockTime_keeps p m.offset m.freq).2.2 p
  · exact ⟨rfl, rfl⟩

end

/-! The master lost (R292, Table 11.6). -/

/-- Has the port heard no Sync for three announce intervals? -/
def State.masterSilent (s : State) (p : Nat) : Prop :=
  ∀ a, (s.portQ p).ptp.lastSync = some a → a + 3 * Config.announceNs (s.portQ p).ptp.domain ≤ s.clk.elapsed

/-- Does the port lose its part as master: its Syncs have stopped, or it is down and the other port has a master? -/
def State.masterLost (s : State) (p : Nat) : Prop :=
  s.mt.state = 1 ∧ (s.masterSilent p ∨ ((s.masterOf (1 - p)).isSome = true ∧ (s.portQ p).ptp.state = 0))

/-- The port without a master. -/
def State.masterDropped (s : State) (p : Nat) : State :=
  s.modPortQ p fun q => { q with ptp := { q.ptp with state := if (s.port p).up then 1 else 0, quality := none } }

theorem State.masterLost_iff (s : State) (p : Nat) : (s.mt.state == 1
    && ((s.portQ p).ptp.lastSync.all (fun t => decide (t + 3 * Config.announceNs (s.portQ p).ptp.domain ≤ s.clk.elapsed))
      || ((s.masterOf (1 - p)).isSome && (s.portQ p).ptp.state == 0))) = true ↔ s.masterLost p := by
  rw [State.masterLost, State.masterSilent]
  simp only [Bool.and_eq_true, Bool.or_eq_true, beq_iff_eq, Option.all_eq_true, decide_eq_true_eq]

section
variable {s : State} {p : Nat} (hmaster : s.mt.master = some p)
include hmaster

theorem exec_timeHoldover_master : exec .timeHoldover s = occurs s
    (s.mt.state == 1 && ((s.portQ p).ptp.lastSync.all (fun t => decide (t + 3 * Config.announceNs (s.portQ p).ptp.domain ≤ s.clk.elapsed))
      || ((s.masterOf (1 - p)).isSome && (s.portQ p).ptp.state == 0)))
    (if (s.masterOf (1 - p)).isSome then
      { ((s.masterDropped p).modPortQ (1 - p) fun q => { q with ptp := { q.ptp with state := 3 } }) with
        mt := { s.mt with master := some (1 - p) } }
     else { s.masterDropped p with mt := { s.mt with state := 2, master := none, slew := 0 } }.portEvent p 0x9020) := by
  rw [exec_timeHoldover, execTimeHoldover]
  simp only [hmaster]
  rfl

theorem exec_timeHoldover_spare (hlost : s.masterLost p) (hspare : (s.masterOf (1 - p)).isSome = true) : exec .timeHoldover s = .next
    { ((s.masterDropped p).modPortQ (1 - p) fun q => { q with ptp := { q.ptp with state := 3 } }) with
      mt := { s.mt with master := some (1 - p) } } := by
  rw [exec_timeHoldover_master hmaster, occurs_true ((s.masterLost_iff p).mpr hlost), if_pos hspare]

theorem exec_timeHoldover_holds (hlost : s.masterLost p) (hspare : (s.masterOf (1 - p)).isSome = false) : exec .timeHoldover s = .next
    ({ s.masterDropped p with mt := { s.mt with state := 2, master := none, slew := 0 } }.portEvent p 0x9020) := by
  rw [exec_timeHoldover_master hmaster, occurs_true ((s.masterLost_iff p).mpr hlost), hspare, if_neg Bool.false_ne_true]

theorem exec_timeHoldover_waits (hkept : ¬ s.masterLost p) : exec .timeHoldover s = .next s := by
  rw [exec_timeHoldover_master hmaster, occurs_false (Bool.eq_false_iff.mpr fun h => hkept ((s.masterLost_iff p).mp h))]

end

theorem State.masterDropped_state (s : State) (p : Nat) : ((s.masterDropped p).portQ p).ptp.state = if (s.port p).up then 1 else 0 := by
  rw [State.masterDropped, State.modPortQ_portQ]

/-- Settles O45: frames by what their port accepts, a PTP message by what it notes and whether it locks module time, the loss of the master by
whether the other port has one. -/
theorem framesAndModuleTimeTakeEffect : Obligations.FramesAndModuleTimeTakeEffect := by
  unfold Obligations.FramesAndModuleTimeTakeEffect
  intro s p x got tx
  refine ⟨fun hup => ⟨fun f a haccepts hip => exec_arpRequest_answered hup haccepts hip a,
      fun f a haccepts hip => exec_neighborSolicitation_answered hup haccepts hip a,
      fun f a body haccepts hip => exec_icmpEchoRequest_answered hup haccepts (ipv6 := true) (dst := x.ip6) ⟨hip, rfl⟩ a body,
      fun f a body haccepts hip => exec_icmpEchoRequest_answered hup haccepts (ipv6 := false) (dst := x.ip4.setWidth 128) ⟨hip, rfl⟩ a body,
      fun f => State.receiveFrame_bad hup rfl _, fun f a t hbad => exec_arpRequest_dropped hup hbad a, fun prio quanta => ?_,
      fun f a t hbad => exec_neighborSolicitation_dropped hup hbad a, fun f v6 a t body hbad => exec_icmpEchoRequest_dropped hup hbad a body,
      fun m => ⟨exec_ptpMessage_bad hup, fun haccepts hdomain => ?_, fun haccepts hdomain => ?_⟩⟩,
    fun hdown => ⟨fun f => State.receiveFrame_down hdown _ _, exec_ptpMessage_down hdown, fun f a t => State.receiveFrame_down hdown _ _,
      fun f a t => State.receiveFrame_down hdown _ _, fun f v a t b => State.receiveFrame_down hdown _ _, exec_pfcPauseFrame_down hdown⟩,
    ?_, fun hnone => ?_⟩
  · have hexec := exec_pfcPauseFrame_up hup prio quanta
    refine ⟨fun hon hmine => ?_, fun hon hother => ?_, fun hoff => ?_⟩
    · rw [hexec, if_neg (by rw [hon]; exact Bool.noConfusion), if_pos hmine]
    · rw [hexec, if_neg (by rw [hon]; exact Bool.noConfusion), if_neg hother]
    · rw [hexec, if_pos hoff]
  · rw [exec_ptpMessage_good hup haccepts, if_pos (bne_iff_ne.mpr hdomain)]
  · have hexec := exec_ptpMessage_good hup haccepts
    rw [hdomain, bne_self_eq_false, if_neg Bool.false_ne_true] at hexec
    have hgot : ((s.ethCount p 0 1).port p).up = true := (s.ethCount_up p 0 1 p).trans hup
    have hnoted := (s.ethCount p 0 1).ptpNoted_ptp p m
    obtain ⟨hframes, hptp⟩ := ((s.ethCount p 0 1).ptpNoted p m).ranked_portQ ((s.ethCount p 0 1).ptpNoted p m).bestMaster p
    obtain ⟨htaken, htakenFrames⟩ := (s.ethCount p 0 1).ptpTaken_portQ p m
    rw [← htaken] at hptp
    rw [← htakenFrames] at hframes
    refine ⟨_, hexec, ?_, ?_, ?_, ?_, fun hslave => State.ptpTaken_idle (s := s.ethCount p 0 1) hslave, fun hslave hother => ?_⟩
    · rw [hptp, hnoted]
      rfl
    · rw [hptp, hnoted]
      rfl
    · rw [hptp, hnoted]
      rfl
    · exact ((State.ptpNoted_queues hgot m).base (SameAddresses.ethCount s p p 0 1).symm).between rfl hframes
    · have hlocks := State.ptpTaken_locks (s := s.ethCount p 0 1) (m := m) hslave hother
      rw [State.bestMaster_noted (s := s.ethCount p 0 1) hslave hother, if_pos rfl, hnoted, Ptp.hear, hslave] at hptp
      rw [hlocks] at hptp ⊢
      have hmt : (((s.ethCount p 0 1).ptpNoted p m).ranked (some p.val)).mt = s.mt :=
        (State.ranked_only _ _ .mt rfl).trans ((s.ethCount p 0 1).ptpNoted_only p m .mt rfl)
      generalize ((s.ethCount p 0 1).ptpNoted p m).ranked (some p.val) = s2 at hptp hmt ⊢
      obtain ⟨hstate, hmaster, -⟩ := s2.lockTime_keeps p m.offset m.freq
      refine ⟨congrArg Ptp.state hptp, hstate, hmaster, fun hsteps => ?_, fun hslews => ?_⟩
      · rw [State.lockTime_steps (by rwa [State.stepsTime, hmt])]
        refine ⟨?_, rfl, rfl, by rw [State.portEvent_port]⟩
        have hshifted := congrArg (fun x : ModTime => shifted x.ns (-m.offset)) hmt
        exact hshifted
      · have hslow : ¬ s2.stepsTime m.offset := by
          rw [State.stepsTime, hmt]
          rintro (h | ⟨h, hfar⟩) <;> rcases hslews with k | ⟨k, hnear⟩
          · exact absurd (h.symm.trans k) (by decide)
          · exact absurd (h.symm.trans k) (by decide)
          · exact absurd (h.symm.trans k) (by decide)
          · exact Nat.not_le.mpr hfar hnear
        rw [State.lockTime_slews hslow]
        have hns := congrArg ModTime.ns hmt
        exact ⟨hns, rfl⟩
  · intro silent spare hmaster
    refine ⟨fun hlocked hsilent hnone => ?_, fun hlocked hwhy hspare => ?_, fun hkept => exec_timeHoldover_waits hmaster fun h => ?_⟩
    · refine ⟨_, exec_timeHoldover_holds hmaster ⟨hlocked, .inl hsilent⟩ hnone, rfl, rfl, rfl, rfl, ?_, ?_⟩
      · rw [State.portEvent_port]
      · exact s.masterDropped_state p
    · have hlost : s.masterLost p := ⟨hlocked, hwhy.imp_right fun h => ⟨hspare, h⟩⟩
      refine ⟨_, exec_timeHoldover_spare hmaster hlost hspare, rfl, ?_, ?_⟩
      · exact congrArg (fun q : PortQueues => q.ptp.state) (State.modPortQ_portQ (s.masterDropped p) (1 - p.val) _)
      · refine (congrArg (fun q : PortQueues => q.ptp.state) (State.modPortQ_portQ_other (s.masterDropped p) _ ?_)).trans (s.masterDropped_state p)
        omega
    · obtain ⟨hlocked, hwhy⟩ := h
      rcases hkept with h | ⟨hheard, hpresent⟩
      · exact h hlocked
      · exact hwhy.elim hheard hpresent
  · rw [exec_timeHoldover, execTimeHoldover, hnone]

end Sys2Proof.Machine
end

section
/-!
SUPPORT. What the host's accesses to memory do is the same whatever the connections and the ports hold (R43, R255, R285).
-/
namespace Sys2Proof.Machine

/-- The state with other connections, ports and port queues. -/
def State.withConn (s : State) (qps : Tab Qp) (ports : Tab Port) (portq : Tab PortQueues) : State :=
  { s with qps := qps, ports := ports, portq := portq }

section
variable (s : State) (qps : Tab Qp) (ports : Tab Port) (portq : Tab PortQueues)

/-! What a region's access asks of the state. -/

theorem State.withConn_regionOf (q : Nat) (rkey : BitVec 32) : (s.withConn qps ports portq).regionOf q rkey = s.regionOf q rkey := rfl

theorem State.withConn_accessFail (q : Nat) (rkey : BitVec 32) (va whole n : Nat) (write : Bool) :
    (s.withConn qps ports portq).accessFail q rkey va whole n write = s.accessFail q rkey va whole n write := rfl

theorem State.withConn_gatherWaits (b va n : Nat) : (s.withConn qps ports portq).gatherWaits b va n = s.gatherWaits b va n := rfl

/-! Writes. -/

theorem State.withConn_putRecord (r : BayRecord) (dl : BitVec 16) (a : Nat) (bs : List Byte) :
    (s.withConn qps ports portq).putRecord r dl a bs = (s.putRecord r dl a bs).withConn qps ports portq := by
  rw [State.putRecord, State.putRecord]
  refine List.foldl_hom (fun t : State => t.withConn qps ports portq) fun t c => ?_
  cases r.locate c.1 with
  | none => rfl
  | some x =>
    show (if (t.stack x.1).disabled then _ else _) = State.withConn (if (t.stack x.1).disabled then _ else _) _ _ _
    split <;> rfl

theorem State.withConn_committedWrite (b : Nat) (dl : BitVec 16) (a : Nat) (bs : List Byte) :
    (s.withConn qps ports portq).committedWrite b dl a bs = (s.committedWrite b dl a bs).withConn qps ports portq := by
  rw [State.committedWrite, State.committedWrite]
  show (match (s.bay b).record with | some r => _ | none => _) = _
  cases (s.bay b).record with
  | none => rfl
  | some r => exact s.withConn_putRecord qps ports portq r dl a bs

theorem State.withConn_windowWrite (bs : List Byte) (a : Nat) :
    (s.withConn qps ports portq).windowWrite a bs = (s.windowWrite a bs).withConn qps ports portq := by
  induction bs generalizing s a with
  | nil => rfl
  | cons x t ih =>
    rw [State.windowWrite, State.windowWrite, ← ih]
    show State.windowWrite (match s.regionTarget a with | .scratch c o => _ | _ => _) _ _ = _
    cases s.regionTarget a <;> rfl

theorem State.withConn_wakeCove (c : Nat) : (s.withConn qps ports portq).wakeCove c = (s.wakeCove c).withConn qps ports portq := by
  rw [State.wakeCove, State.wakeCove]
  show (if (s.clk.sleep.get (.run, 0) c).1 = .slack then _ else _) = _
  split <;> rfl

theorem State.withConn_wakeHalf (h : Nat) : (s.withConn qps ports portq).wakeHalf h = (s.wakeHalf h).withConn qps ports portq := by
  rw [State.wakeHalf, State.wakeHalf]
  show (if s.clocked h then _ else _) = State.withConn (if s.clocked h then _ else _) _ _ _
  split <;> rfl

theorem State.withConn_windowWakes (a n : Nat) : (s.withConn qps ports portq).windowWakes a n = (s.windowWakes a n).withConn qps ports portq := by
  rw [State.windowWakes, State.windowWakes]
  refine List.foldl_hom (fun t : State => t.withConn qps ports portq) fun t c => ?_
  show (if (t.half (halfOf c)).ebb then _ else _ : State).wakeCove c = _
  split
  · rw [State.withConn_wakeHalf, State.withConn_wakeCove]
  · rw [State.withConn_wakeCove]

theorem State.withConn_landRdma (q : Nat) (rkey : BitVec 32) (va : Nat) (bs : List Byte) :
    (s.withConn qps ports portq).landRdma q rkey va bs = (s.landRdma q rkey va bs).withConn qps ports portq := by
  rw [State.landRdma, State.landRdma, State.withConn_regionOf]
  cases s.regionOf q rkey with
  | none => rfl
  | some x =>
    dsimp only
    split
    · exact s.withConn_committedWrite qps ports portq _ _ _ _
    · rw [State.withConn_windowWakes, State.withConn_windowWrite]

end

/-! Reads: they leave the bytes that are read, and their poison. -/

/-- What the bytes of a stack and their poison are read by: shadows, granule map, poisoned codewords. -/
def Stack.data (k : Stack) : List Shadow × Tab Nat × List Nat := (k.shadows, k.map, k.poison)

/-- The same bytes of HBM in every view of every bay, with the same poison. -/
structure SameData (s t : State) : Prop where
  hbm : t.hbm = s.hbm
  bays : t.bays = s.bays
  stack : ∀ k, (t.stack k).data = (s.stack k).data

theorem SameData.refl (s : State) : SameData s s := ⟨rfl, rfl, fun _ => rfl⟩

theorem SameData.trans {s t u : State} (h : SameData s t) (k : SameData t u) : SameData s u :=
  ⟨k.hbm.trans h.hbm, k.bays.trans h.bays, fun j => (k.stack j).trans (h.stack j)⟩

theorem SameData.of_only {ps : List Piece} {s t : State} (h : ChangesOnly ps s t) (hhbm : ps.contains .hbm = false)
    (hbays : ps.contains .bays = false) (hctrls : ps.contains .ctrls = false) : SameData s t :=
  ⟨h .hbm hhbm, h .bays hbays, fun k => congrArg (fun l : Tab Stack => (l.get {} k).data) (h .ctrls hctrls)⟩

theorem SameData.modStack {f : Stack → Stack} (hf : ∀ k, (f k).data = k.data) (s : State) (st : Nat) : SameData s (s.modStack st f) := by
  refine ⟨rfl, rfl, fun k => ?_⟩
  rcases eq_or_ne k st with rfl | hne
  · rw [State.modStack_stack, hf]
  · rw [State.modStack_stack_other _ _ hne]

theorem SameData.foldl {α : Type} {f : State → α → State} (hf : ∀ t x, SameData t (f t x)) (l : List α) (s : State) : SameData s (l.foldl f s) :=
  List.foldlRecOn (motive := fun t => SameData s t) l f (.refl s) fun t ht x _ => ht.trans (hf t x)

section
variable {s t : State} (h : SameData s t)
include h

theorem SameData.locate (b a : Nat) : t.locate b a = s.locate b a := congrArg (fun l : Tab Bay => (l.get {} b).record.bind fun r => r.locate a) h.bays

theorem SameData.resolve (k : Nat) (v : View) (g ch : Nat) : (t.stack k).resolve v g ch = (s.stack k).resolve v g ch := by
  have hdata := h.stack k
  simp only [Stack.data, Prod.mk.injEq] at hdata
  obtain ⟨hshadows, hmap, -⟩ := hdata
  simp only [Stack.resolve, Stack.phys, hshadows, hmap]

theorem SameData.bayBytes (b : Nat) (v : View) (a n : Nat) : t.bayBytes b v a n = s.bayBytes b v a n := by
  simp only [State.bayBytes, h.locate, h.resolve, h.hbm]

theorem SameData.bayPoison (b : Nat) (v : View) (a n : Nat) : t.bayPoison b v a n = s.bayPoison b v a n := by
  have hpoison (k : Nat) : (t.stack k).poison = (s.stack k).poison := congrArg (fun d => d.2.2) (h.stack k)
  simp only [State.bayPoison, State.granulePoison, h.locate, h.resolve, hpoison]

end

theorem State.talusFails_sameData (s : State) (st pc bank row : Nat) : SameData s (s.talusFails st pc bank row) := by
  rw [State.talusFails]
  refine .trans (.modStack ?_ s st) (.of_only (State.logFull_only _ _ _ _ _) rfl rfl rfl)
  exact fun _ => rfl

theorem State.reportHigh_sameData (s : State) (st : Nat) : SameData s (s.reportHigh st) :=
  .of_only (s.reportHigh_only st) rfl rfl rfl

theorem State.remapRow_sameData (s : State) (st pc bank row : Nat) : SameData s (s.remapRow st pc bank row) := by
  unfold State.remapRow
  extract_lets k here
  cases k.spareNext pc with
  | none => exact s.talusFails_sameData st pc bank row
  | some spare =>
    cases k.talus.find? here with
    | some old =>
      refine .trans (.modStack ?_ s st) (.of_only (State.journalTalus_only _ _ _ _) rfl rfl rfl)
      exact fun _ => rfl
    | none =>
      dsimp only
      generalize (if 15000 ≤ k.talus.length then none else talusInsert 257 0 k.talus _ : Option (List Talus)) = inserted
      cases inserted with
      | none => exact s.talusFails_sameData st pc bank row
      | some l =>
        refine .trans (.trans (.modStack ?_ s st) (.of_only (State.journalTalus_only _ _ _ _) rfl rfl rfl)) (State.reportHigh_sameData _ st)
        exact fun _ => rfl

theorem State.correctable_sameData (s : State) (st pc bank row : Nat) : SameData s (s.correctable st pc bank row) := by
  unfold State.correctable
  extract_lets now again full s1
  have hcounted : SameData s s1 := by
    refine .modStack ?_ s st
    exact fun _ => rfl
  split
  · exact hcounted.trans (State.remapRow_sameData _ _ _ _ _)
  · exact hcounted

theorem State.readFlips_sameData (s : State) (st phys u n : Nat) : SameData s (s.readFlips st phys u n) :=
  .foldl (fun t _ => t.correctable_sameData st _ _ _) _ s

theorem State.readBay_sameData (s : State) (b : Nat) (v : View) (dl : BitVec 16) (a n : Nat) : SameData s (s.readBay b v dl a n) := by
  refine .foldl (fun t c => ?_) _ s
  split
  · refine .trans (t.readFlips_sameData _ _ _ _) (.modStack ?_ _ _)
    exact fun _ => rfl
  · exact .refl t

/-! Two states that differ at most in connections and ports. -/

theorem State.eq_withConn {s t : State} (h : ChangesOnly [.qps, .ports, .portq] s t) : t = s.withConn t.qps t.ports t.portq := by
  cases t
  simp only [State.withConn, State.mk.injEq, true_and]
  exact ⟨h .pending rfl, h .free rfl, h .clk rfl, h .mt rfl, h .coves rfl, h .hbm rfl, h .ctrls rfl, h .streams rfl, h .bays rfl,
    h .sessions rfl, h .jetty rfl, h .integ rfl, h .rot rfl, h .net rfl, h .pwr rfl, h .pwrx rfl, h .img rfl, h .su rfl, h .ident rfl, h .mg rfl,
    h .pins rfl, h .latches rfl, h .cut rfl⟩

section
variable {s t : State} (h : ChangesOnly [.qps, .ports, .portq] s t)
include h

theorem ChangesOnly.accessFail (q : Nat) (rkey : BitVec 32) (va whole n : Nat) (write : Bool) :
    t.accessFail q rkey va whole n write = s.accessFail q rkey va whole n write := by
  rw [State.eq_withConn h]
  exact s.withConn_accessFail _ _ _ q rkey va whole n write

theorem ChangesOnly.regionOf (q : Nat) (rkey : BitVec 32) : t.regionOf q rkey = s.regionOf q rkey := by
  rw [State.eq_withConn h]
  exact s.withConn_regionOf _ _ _ q rkey

theorem ChangesOnly.gatherWaits (b va n : Nat) : t.gatherWaits b va n = s.gatherWaits b va n := by
  rw [State.eq_withConn h]
  exact s.withConn_gatherWaits _ _ _ b va n

theorem ChangesOnly.landRdma (q : Nat) (rkey : BitVec 32) (va : Nat) (bs : List Byte) :
    (t.landRdma q rkey va bs).hbm = (s.landRdma q rkey va bs).hbm ∧ (t.landRdma q rkey va bs).coves = (s.landRdma q rkey va bs).coves := by
  rw [State.eq_withConn h, State.withConn_landRdma]
  exact ⟨rfl, rfl⟩

/-- A read finds the same bytes and the same poison. -/
theorem ChangesOnly.readBay (b : Nat) (v : View) (dl : BitVec 16) (a n : Nat) : SameData (s.readBay b v dl a n) (t.readBay b v dl a n) := by
  have hread := s.readBay_sameData b v dl a n
  have hback : SameData (s.readBay b v dl a n) s := ⟨hread.hbm.symm, hread.bays.symm, fun k => (hread.stack k).symm⟩
  exact (hback.trans (.of_only h rfl rfl rfl)).trans (t.readBay_sameData b v dl a n)

end

end Sys2Proof.Machine
end

section
/-!
SUPPORT. The end of a connection (R286, Table 12.11): what its sessions and the frames that wait at a port become.
-/
namespace Sys2Proof.Machine

/-! Frames that wait stay where they are. -/

theorem State.transmit_first {s : State} {k : Nat} {x : Tx} (h : x ∈ (s.portQ k).first) (p : Nat) (f : TxFrame) :
    x ∈ ((s.transmit p f).portQ k).first := by
  rw [State.transmit]
  split
  · rcases eq_or_ne k p with rfl | hne
    · rw [State.modPortQ_portQ]
      split
      · exact List.mem_append_left _ h
      · exact h
    · rwa [State.modPortQ_portQ_other _ _ hne]
  · exact h

theorem State.sendSess_first {s : State} {p : Nat} {x : Tx} (h : x ∈ (s.portQ p).first) (k kind : Nat) (body : List Byte) :
    x ∈ ((s.sendSess k kind body).portQ p).first := by
  unfold State.sendSess
  extract_lets y seq bytes s1
  split
  · exact State.transmit_first (s := s1) h _ _
  · exact h

theorem State.eventBut_first {s : State} {p : Nat} {x : Tx} (h : x ∈ (s.portQ p).first) (b : Nat) (skip : Option Nat) (ev : Nat) (code : Code) :
    x ∈ ((s.eventBut b skip ev code).portQ p).first := by
  refine List.foldlRecOn (motive := fun t : State => x ∈ (t.portQ p).first) _ _ h fun t ht i _ => ?_
  dsimp only
  split
  · exact State.sendSess_first ht _ _ _
  · exact ht

/-! The state of sessions. -/

theorem State.sendSess_state (s : State) (k kind : Nat) (body : List Byte) (j : Nat) :
    ((s.sendSess k kind body).sess j).state = (s.sess j).state := by
  have hsent : ∃ f : Session → Session, (s.sendSess k kind body).sessions = (s.modSess k f).sessions ∧ ∀ x, (f x).state = x.state := by
    unfold State.sendSess
    extract_lets y seq bytes s1
    split
    · exact ⟨_, State.transmit_only _ _ _ .sessions rfl, fun _ => rfl⟩
    · exact ⟨_, rfl, fun _ => rfl⟩
  obtain ⟨f, hsessions, hf⟩ := hsent
  rw [State.sess, hsessions]
  show ((s.modSess k f).sess j).state = _
  rcases eq_or_ne j k with rfl | hne
  · rw [State.modSess_sess, hf]
  · rw [State.modSess_sess_other _ _ hne]

theorem State.eventBut_state (s : State) (b : Nat) (skip : Option Nat) (ev : Nat) (code : Code) (j : Nat) :
    ((s.eventBut b skip ev code).sess j).state = (s.sess j).state := by
  refine List.foldlRecOn (motive := fun t : State => (t.sess j).state = (s.sess j).state) _ _ rfl fun t ht i _ => ?_
  dsimp only
  split
  · rw [State.sendSess_state, ht]
  · exact ht

/-! A connection's sessions are orphaned (Table 12.11). -/

/-- One session of a connection that ends: orphaned, and the others of its bay hear of it. -/
def State.orphan (s : State) (k : Nat) : State :=
  (s.modSess k fun x => { x with state := .orphaned, orphanAt := s.mt.ns }).eventBut (k / 16) (some k) 8 0

theorem State.orphan_only (s : State) (k : Nat) : ChangesOnly [.sessions, .portq] s (s.orphan k) :=
  ((s.modSess_only k _).mono rfl).trans (State.eventBut_only _ _ _ _ _)

theorem State.orphan_state (s : State) (k : Nat) : ((s.orphan k).sess k).state = .orphaned := by
  rw [State.orphan, State.eventBut_state, State.modSess_sess]

theorem State.orphan_keeps {s : State} {j : Nat} (h : (s.sess j).state = .orphaned) (k : Nat) : ((s.orphan k).sess j).state = .orphaned := by
  rcases eq_or_ne j k with rfl | hne
  · exact s.orphan_state j
  · rw [State.orphan, State.eventBut_state, State.modSess_sess_other _ _ hne, h]

theorem State.orphan_all (l : List Nat) (s : State) : ∀ j, (j ∈ l ∨ (s.sess j).state = .orphaned) → ((l.foldl State.orphan s).sess j).state = .orphaned := by
  induction l generalizing s with
  | nil => exact fun j h => h.elim (fun hmem => absurd hmem List.not_mem_nil) id
  | cons k l ih =>
    intro j h
    rw [List.foldl_cons]
    refine ih (s.orphan k) j ?_
    rcases h with hmem | hgone
    · rcases List.mem_cons.mp hmem with rfl | hmem
      · exact .inr (s.orphan_state j)
      · exact .inl hmem
    · exact .inr (State.orphan_keeps hgone k)

/-- The state once the sessions of a connection are orphaned and the opens under verification are abandoned. -/
def State.orphanAll (s : State) (q : Nat) : State :=
  (s.qp q).opens.foldl (fun t o => match o.slot with
    | some k => t.modSess (o.bay * 16 + k) fun x => { x with state := .free, regions := [], kept := [], outstanding := [] }
    | none => t) ((s.sessionsOf q).foldl State.orphan s)

theorem State.dropSessions_eq (s : State) (q : Nat) : s.dropSessions q = (s.orphanAll q).modQp q fun x => { x with opens := [], nonce := none } := rfl

theorem State.orphanAll_only (s : State) (q : Nat) : ChangesOnly [.sessions, .portq] s (s.orphanAll q) := by
  refine ChangesOnly.foldl (fun t o => ?_) _ (.foldl State.orphan_only _ (.refl _ s))
  split
  · exact (State.modSess_only _ _ _).mono rfl
  · exact .refl _ t

theorem State.orphanAll_first {s : State} {p : Nat} {x : Tx} (h : x ∈ (s.portQ p).first) (q : Nat) : x ∈ ((s.orphanAll q).portQ p).first := by
  refine List.foldlRecOn (motive := fun t : State => x ∈ (t.portQ p).first) _ _ ?_ fun t ht o _ => ?_
  · exact List.foldlRecOn (motive := fun t : State => x ∈ (t.portQ p).first) _ _ h fun t ht k _ => State.eventBut_first (s := t.modSess k _) ht _ _ _ _
  · split <;> exact ht

theorem State.dropSessions_qp (s : State) (q : Nat) : (s.dropSessions q).qp q = { s.qp q with opens := [], nonce := none } := by
  have hqp : (s.orphanAll q).qp q = s.qp q := congrArg (fun l : Tab Qp => l.get {} q) (s.orphanAll_only q .qps rfl)
  rw [State.dropSessions_eq, State.modQp_qp, hqp]

theorem State.dropSessions_orphans {s : State} {q : Nat} (hopens : (s.qp q).opens = []) {k : Nat} (hk : k ∈ s.sessionsOf q) :
    ((s.dropSessions q).sess k).state = .orphaned := by
  rw [State.dropSessions_eq, State.modQp_get_sess, State.orphanAll, hopens]
  exact State.orphan_all _ s k (.inl hk)

/-! NAKs (R286, Table 11.4). -/

/-- The state once a NAK is sent and counted. -/
def State.nakSent (s : State) (q : Nat) (psn : BitVec 24) (syndrome : BitVec 8) : State :=
  (s.transmit (s.qp q).port (.nak q psn syndrome)).ethCount (s.qp q).port (if syndrome = 0x21 then 6 else 5) 1

/-- The state once a NAK's cause is kept with the port and the connection's sessions. -/
def State.nakNoted (s : State) (q : Nat) (psn : BitVec 24) (syndrome : BitVec 8) (code : Code) : State :=
  let s2 := (s.nakSent q psn syndrome).modPort (s.qp q).port fun x => { x with nakCode := code, nakQp := BitVec.ofNat 9 q }
  (s2.sessionsOf q).foldl (fun t k => t.modSess k fun x => { x with lastNak := code }) s2

theorem State.nak_rnr (s : State) (q : Nat) (psn : BitVec 24) (code : Code) : s.nak q psn 0x21 code = s.nakNoted q psn 0x21 code := by
  rw [State.nak, if_neg (by decide), if_pos rfl]
  rfl

theorem State.nak_ends (s : State) (q : Nat) (psn : BitVec 24) {syndrome : BitVec 8} (hgap : syndrome ≠ 0x60) (hrnr : syndrome ≠ 0x21) (code : Code) :
    s.nak q psn syndrome code =
      ((s.nakNoted q psn syndrome code).modQp q fun x => { x with state := .error, write := none, gathers := [] }).dropSessions q := by
  rw [State.nak, if_neg hgap, if_neg hrnr]
  rfl

section
variable (s : State) (q : Nat) (psn : BitVec 24) (syndrome : BitVec 8) (code : Code)

theorem State.nakNoted_after : ChangesOnly [.sessions] ((s.nakSent q psn syndrome).modPort (s.qp q).port fun x =>
    { x with nakCode := code, nakQp := BitVec.ofNat 9 q }) (s.nakNoted q psn syndrome code) :=
  .foldl (fun t k => t.modSess_only k _) _ (.refl _ _)

theorem State.nakNoted_only : ChangesOnly [.sessions, .ports, .portq] s (s.nakNoted q psn syndrome code) := by
  refine ChangesOnly.trans ?_ ((s.nakNoted_after q psn syndrome code).mono rfl)
  exact (((s.transmit_only _ _).mono rfl).trans ((State.ethCount_only _ _ _ _).mono rfl)).trans ((State.modPort_only _ _ _).mono rfl)

theorem State.nakNoted_code : ((s.nakNoted q psn syndrome code).port (s.qp q).port).nakCode = code := by
  have hports := s.nakNoted_after q psn syndrome code .ports rfl
  refine (congrArg (fun l : Tab Port => (l.get {} (s.qp q).port).nakCode) hports).trans ?_
  exact congrArg Port.nakCode (State.modPort_port _ _ _)

theorem State.nakNoted_portQ (k : Nat) : (s.nakNoted q psn syndrome code).portQ k = (s.transmit (s.qp q).port (.nak q psn syndrome)).portQ k := by
  have hnoted : ∀ u t, ChangesOnly [.sessions] t u → u.portQ k = t.portQ k := fun _ _ h =>
    congrArg (fun l : Tab PortQueues => l.get {} k) (h .portq rfl)
  rw [hnoted _ _ (s.nakNoted_after q psn syndrome code), State.modPort_get_portQ, State.nakSent, State.ethCount, State.modPort_get_portQ]

theorem State.nakNoted_qp (k : Nat) : (s.nakNoted q psn syndrome code).qp k = s.qp k :=
  congrArg (fun l : Tab Qp => l.get {} k) (s.nakNoted_only q psn syndrome code .qps rfl)

/-- A NAK that ends its connection. -/
theorem State.nak_ended (hgap : syndrome ≠ 0x60) (hrnr : syndrome ≠ 0x21) :
    (s.nak q psn syndrome code).qp q = { s.qp q with state := .error, write := none, gathers := [], opens := [], nonce := none }
      ∧ ((s.nak q psn syndrome code).port (s.qp q).port).nakCode = code
      ∧ ((s.port (s.qp q).port).up = true →
          s.addressed (s.qp q).port (.nak q psn syndrome) ∈ ((s.nak q psn syndrome code).portQ (s.qp q).port).first) := by
  rw [State.nak_ends s q psn hgap hrnr code]
  refine ⟨?_, ?_, fun hup => ?_⟩
  · rw [State.dropSessions_qp, State.modQp_qp, State.nakNoted_qp]
  · have hports : (((s.nakNoted q psn syndrome code).modQp q fun x => { x with state := .error, write := none, gathers := [] }).dropSessions q).ports
        = (s.nakNoted q psn syndrome code).ports := State.dropSessions_only _ _ .ports rfl
    exact (congrArg (fun l : Tab Port => (l.get {} (s.qp q).port).nakCode) hports).trans (s.nakNoted_code q psn syndrome code)
  · rw [State.dropSessions_eq, State.modQp_get_portQ]
    refine State.orphanAll_first ?_ q
    rw [State.modQp_get_portQ, State.nakNoted_portQ]
    exact (Queues.transmit hup _).mem_first (List.mem_singleton_self _) rfl

end

end Sys2Proof.Machine
end

section
/-!
SUPPORT. Request packets of a connection (R280, R283, R284, R286): which are taken, and the state in which one in order acts.
-/
namespace Sys2Proof.Machine

/-! What a change leaves of a port's frames. -/

/-- The port's frames, their addresses and the link stay as they are. -/
structure KeepsFrames (p : Nat) (s t : State) : Prop where
  addresses : SameAddresses p s t
  frames : (t.portQ p).frames = (s.portQ p).frames
  up : (t.port p).up = (s.port p).up

theorem KeepsFrames.refl (p : Nat) (s : State) : KeepsFrames p s s := ⟨.refl p s, rfl, rfl⟩

theorem KeepsFrames.trans {p : Nat} {s t u : State} (h : KeepsFrames p s t) (k : KeepsFrames p t u) : KeepsFrames p s u :=
  ⟨h.addresses.trans k.addresses, k.frames.trans h.frames, k.up.trans h.up⟩

theorem KeepsFrames.of_only {ps : List Piece} {p : Nat} {s t : State} (h : ChangesOnly ps s t) (hports : ps.contains .ports = false)
    (hqps : ps.contains .qps = false) (hsessions : ps.contains .sessions = false) (hportq : ps.contains .portq = false) : KeepsFrames p s t :=
  ⟨.of_only h hports hqps hsessions, congrArg (fun l : Tab PortQueues => (l.get {} p).frames) (h .portq hportq),
    congrArg (fun l : Tab Port => (l.get {} p).up) (h .ports hports)⟩

theorem KeepsFrames.modQp {s : State} {k : Nat} {f : Qp → Qp} (hf : (f (s.qp k)).peer = (s.qp k).peer) (p : Nat) : KeepsFrames p s (s.modQp k f) :=
  ⟨.modQp hf p, rfl, rfl⟩

theorem KeepsFrames.ethCount (s : State) (p k i n : Nat) : KeepsFrames p s (s.ethCount k i n) := ⟨.ethCount s p k i n, rfl, s.ethCount_up k i n p⟩

theorem KeepsFrames.modPortQ {f : PortQueues → PortQueues} (hf : ∀ x, (f x).frames = x.frames) (s : State) (p : Nat) :
    KeepsFrames p s (s.modPortQ p f) :=
  ⟨⟨rfl, fun _ => rfl, fun _ => rfl⟩, by rw [State.modPortQ_portQ, hf], rfl⟩

/-- Frames that join the queues after such a change have the addresses from before. -/
theorem KeepsFrames.queues {p : Nat} {fs : List TxFrame} {s t u : State} (h : KeepsFrames p s t) (k : Queues p fs t t u) : Queues p fs s s u :=
  (k.base h.addresses.symm).between h.frames rfl

/-! Taking a request packet. -/

section
variable {s : State} {b : Bth} {n : Nat}

/-- Is the packet dropped at a port that is up? -/
def State.dropsRequest (s : State) (b : Bth) (n : Nat) : Prop :=
  let x := s.qp b.qp
  (s.port x.port).accepts b.hdr false = false ∨ b.icrcOk = false ∨ x.state = .free ∨ x.state = .error
    ∨ 4194304 < (s.portQ x.port).rxHalf + 2 * n

/-- The state once a packet is taken, before it acts: the connection is ready, a congestion notification may be due, the bytes are buffered. -/
def State.requestTaken (s : State) (b : Bth) (n : Nat) : State :=
  let p := (s.qp b.qp).port
  ((((s.ethCount p 0 1).modQp b.qp fun x => { x with state := .ready, peerMac := b.hdr.srcMac }).notify b).buffered p n)

theorem State.request_down (hdown : (s.port (s.qp b.qp).port).up = false) (dup f : State → State) : s.request b n dup f = .next s :=
  occurs_false hdown

theorem State.dropsRequest_iff (s : State) (b : Bth) (n : Nat) : (!(s.port (s.qp b.qp).port).accepts b.hdr false || !b.icrcOk
    || (s.qp b.qp).state == .free || (s.qp b.qp).state == .error || decide (2 * halfMiB < (s.portQ (s.qp b.qp).port).rxHalf + 2 * n)) = true
      ↔ s.dropsRequest b n := by
  rw [State.dropsRequest]
  simp only [Bool.or_eq_true, Bool.not_eq_true', beq_iff_eq, decide_eq_true_eq, or_assoc]
  rfl

theorem State.request_bad (hup : (s.port (s.qp b.qp).port).up = true) (hbad : s.dropsRequest b n) (dup f : State → State) :
    s.request b n dup f = .next ((s.ethCount (s.qp b.qp).port 0 1).ethCount (s.qp b.qp).port 2 1) := by
  rw [State.request, occurs_true hup, if_pos ((s.dropsRequest_iff b n).mpr hbad)]

/-- A packet that is taken: by its PSN it is in order, beyond a gap, or a duplicate. -/
theorem State.request_good (hup : (s.port (s.qp b.qp).port).up = true) (hgood : ¬ s.dropsRequest b n) (dup f : State → State) :
    s.request b n dup f = .next (
      if b.psn - (s.qp b.qp).epsn = 0 then f ((s.requestTaken b n).modQp b.qp fun x => { x with nakOut := false })
      else if (b.psn - (s.qp b.qp).epsn).toNat < 2 ^ 23 then
        (if (s.qp b.qp).nakOut then s.requestTaken b n
         else ((s.requestTaken b n).modQp b.qp fun x => { x with nakOut := true }).nak b.qp (s.qp b.qp).epsn 0x60 0)
      else dup (s.requestTaken b n)) := by
  rw [State.request, occurs_true hup, if_neg fun h => hgood ((s.dropsRequest_iff b n).mp h)]
  rfl

end

/-! A packet in order. -/

/-- The packet is the next of its connection, in good form, not marked and not met by a full buffer. -/
structure State.InOrder (s : State) (b : Bth) (n : Nat) : Prop where
  icrc : b.icrcOk = true
  ce : b.ce = false
  up : (s.port (s.qp b.qp).port).up = true
  accepts : (s.port (s.qp b.qp).port).accepts b.hdr false = true
  live : (s.qp b.qp).state ≠ .free
  good : (s.qp b.qp).state ≠ .error
  psn : b.psn = (s.qp b.qp).epsn
  room : (s.portQ (s.qp b.qp).port).rxHalf ≤ 2097152
  length : n ≤ 4160

/-- The state whose connection sends to where the packet came from. -/
def State.linked (s : State) (b : Bth) : State := s.modQp b.qp fun x => { x with peerMac := b.hdr.srcMac }

/-- The state in which a packet in order acts. -/
def State.inOrder (s : State) (b : Bth) (n : Nat) : State :=
  let p := (s.qp b.qp).port
  (((s.ethCount p 0 1).modQp b.qp fun x => { x with state := .ready, peerMac := b.hdr.srcMac }).modPortQ p fun q =>
    { q with rxHalf := q.rxHalf + 2 * n }).modQp b.qp fun x => { x with nakOut := false }

section
variable {s : State} {b : Bth} {n : Nat} (h : s.InOrder b n)
include h

/-- No congestion notification, no PAUSE: the buffer holds too little. -/
theorem State.InOrder.taken : (s.requestTaken b n).modQp b.qp (fun x => { x with nakOut := false }) = s.inOrder b n := by
  obtain ⟨-, hce, -, -, -, -, -, hroom, hlength⟩ := h
  generalize hs1 : (s.ethCount (s.qp b.qp).port 0 1).modQp b.qp (fun x => { x with state := .ready, peerMac := b.hdr.srcMac }) = s1
  have hport : (s1.qp b.qp).port = (s.qp b.qp).port := by
    rw [← hs1, State.modQp_qp]
    rfl
  have hqueues : s1.portQ (s.qp b.qp).port = s.portQ (s.qp b.qp).port := by
    rw [← hs1]
    rfl
  have hnotify : s1.notify b = s1 := by
    have hquiet : (!b.ce && decide ((s1.portQ (s1.qp b.qp).port).rxHalf ≤ halfMiB)) = true := by
      rw [hport, hqueues, hce]
      exact decide_eq_true hroom
    rw [State.notify, if_pos hquiet]
  have hbuffered : s1.buffered (s.qp b.qp).port n = s1.modPortQ (s.qp b.qp).port fun q => { q with rxHalf := q.rxHalf + 2 * n } := by
    have hlow : ¬ 3 * halfMiB ≤ 2 * ((s1.modPortQ (s.qp b.qp).port fun q => { q with rxHalf := q.rxHalf + 2 * n }).portQ (s.qp b.qp).port).rxHalf := by
      rw [State.modPortQ_portQ, hqueues, halfMiB]
      dsimp only
      omega
    rw [State.buffered, if_neg]
    simp only [Bool.and_eq_true, decide_eq_true_eq]
    exact fun hpause => hlow hpause.2
  show ((State.notify _ b).buffered _ n).modQp _ _ = _
  rw [hs1, hnotify, hbuffered, ← hs1]
  rfl

theorem State.InOrder.taken_good : ¬ s.dropsRequest b n := by
  rintro (hbad | hbad | hbad | hbad | hbad)
  · exact Bool.false_ne_true (hbad.symm.trans h.accepts)
  · exact Bool.false_ne_true (hbad.symm.trans h.icrc)
  · exact h.live hbad
  · exact h.good hbad
  · have hroom := h.room
    have hlength := h.length
    omega

theorem State.InOrder.request (dup f : State → State) : s.request b n dup f = .next (f (s.inOrder b n)) := by
  rw [State.request_good h.up h.taken_good, if_pos (by rw [h.psn]; exact BitVec.sub_self _), h.taken]

end

section
variable (s : State) (b : Bth) (n : Nat)

theorem State.inOrder_qp : (s.inOrder b n).qp b.qp = { s.qp b.qp with state := .ready, peerMac := b.hdr.srcMac, nakOut := false } := by
  rw [State.inOrder, State.modQp_qp, State.modPortQ_get_qp, State.modQp_qp]
  rfl

theorem State.inOrder_port : ((s.inOrder b n).qp b.qp).port = (s.qp b.qp).port := by rw [State.inOrder_qp]

theorem State.inOrder_portQ (p : Nat) (hp : p = (s.qp b.qp).port) :
    (s.inOrder b n).portQ p = { s.portQ p with rxHalf := (s.portQ p).rxHalf + 2 * n } := by
  subst hp
  exact State.modPortQ_portQ _ _ _

theorem State.inOrder_only : ChangesOnly [.qps, .ports, .portq] s (s.inOrder b n) := by
  refine ChangesOnly.trans ?_ ((State.modQp_only _ _ _).mono rfl)
  refine ChangesOnly.trans ?_ ((State.modPortQ_only _ _ _).mono rfl)
  exact ((s.ethCount_only _ _ _).mono rfl).trans ((State.modQp_only _ _ _).mono rfl)

theorem State.inOrder_keeps (p : Nat) : KeepsFrames p (s.linked b) (s.inOrder b n) := by
  have hlinked : KeepsFrames p (s.linked b) ((s.linked b).ethCount (s.qp b.qp).port 0 1) := .ethCount _ p _ 0 1
  have hports : (s.inOrder b n).ports = ((s.linked b).ethCount (s.qp b.qp).port 0 1).ports := rfl
  have hport : (s.inOrder b n).port p = ((s.linked b).ethCount (s.qp b.qp).port 0 1).port p := congrArg (fun l : Tab Port => l.get {} p) hports
  refine ⟨⟨?_, fun q => ?_, fun k => ?_⟩, ?_, ?_⟩
  · rw [hport, hlinked.addresses.marks]
  · rw [State.inOrder, State.linked]
    rcases eq_or_ne q b.qp.val with rfl | hne
    · simp only [State.modQp_qp, State.modPortQ_get_qp]
      rfl
    · simp only [State.modQp_qp_other _ _ hne, State.modPortQ_get_qp]
      rfl
  · exact congrArg (fun l : Tab Session => (l.get {} k).hostPort) (s.inOrder_only b n .sessions rfl)
  · rcases eq_or_ne p (s.qp b.qp).port with rfl | hne
    · rw [s.inOrder_portQ b n _ rfl]
      rfl
    · rw [State.inOrder, State.modQp_get_portQ, State.modPortQ_portQ_other _ _ hne]
      rfl
  · rw [hport, hlinked.up]

end

end Sys2Proof.Machine
end

section
/-!
SUPPORT. What a request packet in order does (R283 to R287, R296): SEND, RDMA WRITE, RDMA READ, and the refusals.
-/
namespace Sys2Proof.Machine

/-! The state once a packet has acted, before its answer. -/

/-- The packet's connection is ready with its expected PSN `k` on, and the frames of its port wait as before. -/
structure State.Acted (s : State) (b : Bth) (k : Nat) (u : State) : Prop where
  frames : KeepsFrames (s.qp b.qp).port (s.linked b) u
  port : (u.qp b.qp).port = (s.qp b.qp).port
  epsn : (u.qp b.qp).epsn = (s.qp b.qp).epsn + BitVec.ofNat 24 k
  ready : (u.qp b.qp).state = .ready

/-- The packet is done: its connection is ready with its expected PSN `k` on, and `fs` are its answers. -/
structure State.Done (s : State) (b : Bth) (k : Nat) (fs : List TxFrame) (t : State) : Prop where
  epsn : (t.qp b.qp).epsn = (s.qp b.qp).epsn + BitVec.ofNat 24 k
  queues : Queues (s.qp b.qp).port fs (s.linked b) s t
  ready : (t.qp b.qp).state = .ready

/-- The packet is refused: one NAK, which ends the connection. -/
structure State.Refused (s : State) (b : Bth) (code : Code) (syndrome : BitVec 8) (t : State) : Prop where
  epsn : (t.qp b.qp).epsn = (s.qp b.qp).epsn
  nak : (s.linked b).addressed (s.qp b.qp).port (.nak b.qp b.psn syndrome) ∈ (t.portQ (s.qp b.qp).port).first
  error : (t.qp b.qp).state = .error
  code : (t.port (s.qp b.qp).port).nakCode = code
  hbm : t.hbm = s.hbm

section
variable {s : State} {b : Bth} {k : Nat} {u : State}

theorem State.inOrder_acted (s : State) (b : Bth) (n : Nat) : s.Acted b 0 (s.inOrder b n) :=
  ⟨s.inOrder_keeps b n _, s.inOrder_port b n, by rw [State.inOrder_qp]; exact (BitVec.add_zero _).symm, by rw [State.inOrder_qp]⟩

theorem State.Acted.of_only (h : s.Acted b k u) {ps : List Piece} {t : State} (honly : ChangesOnly ps u t) (hports : ps.contains .ports = false)
    (hqps : ps.contains .qps = false) (hsessions : ps.contains .sessions = false) (hportq : ps.contains .portq = false) : s.Acted b k t := by
  have hqp : t.qp b.qp = u.qp b.qp := congrArg (fun l : Tab Qp => l.get {} b.qp) (honly .qps hqps)
  exact ⟨h.frames.trans (.of_only honly hports hqps hsessions hportq), by rw [hqp, h.port], by rw [hqp, h.epsn], by rw [hqp, h.ready]⟩

theorem State.Acted.modQp (h : s.Acted b k u) {f : Qp → Qp} (hpeer : (f (u.qp b.qp)).peer = (u.qp b.qp).peer)
    (hport : (f (u.qp b.qp)).port = (u.qp b.qp).port) (hepsn : (f (u.qp b.qp)).epsn = (u.qp b.qp).epsn)
    (hstate : (f (u.qp b.qp)).state = (u.qp b.qp).state) : s.Acted b k (u.modQp b.qp f) :=
  ⟨h.frames.trans (.modQp hpeer _), by rw [State.modQp_qp, hport, h.port], by rw [State.modQp_qp, hepsn, h.epsn],
    by rw [State.modQp_qp, hstate, h.ready]⟩

theorem State.Acted.modPortQ (h : s.Acted b k u) {f : PortQueues → PortQueues} (hf : ∀ x, (f x).frames = x.frames) :
    s.Acted b k (u.modPortQ (s.qp b.qp).port f) :=
  ⟨h.frames.trans (.modPortQ hf u _), h.port, h.epsn, h.ready⟩

theorem State.Acted.advance (h : s.Acted b 0 u) (k : Nat) : s.Acted b k (u.advance b.qp k) := by
  refine ⟨h.frames.trans (.modQp rfl _), ?_, ?_, ?_⟩
  · rw [State.advance, State.modQp_qp, ← h.port]
  · rw [State.advance, State.modQp_qp]
    dsimp only
    rw [h.epsn]
    exact congrArg (· + BitVec.ofNat 24 k) (BitVec.add_zero _)
  · rw [State.advance, State.modQp_qp, ← h.ready]

theorem State.Acted.silent (h : s.Acted b k u) : s.Done b k [] u := ⟨h.epsn, h.frames.queues (.nil rfl u), h.ready⟩

theorem State.Acted.answered (h : s.Acted b k u) (hup : (s.port (s.qp b.qp).port).up = true) (f : TxFrame) :
    s.Done b k [f] (u.transmit (u.qp b.qp).port f) := by
  have hqp : (u.transmit (u.qp b.qp).port f).qp b.qp = u.qp b.qp := congrArg (fun l : Tab Qp => l.get {} b.qp) (u.transmit_only _ f .qps rfl)
  refine ⟨by rw [hqp, h.epsn], ?_, by rw [hqp, h.ready]⟩
  rw [h.port]
  exact h.frames.queues (Queues.transmit (h.frames.up.trans hup) f)

theorem State.Acted.ack (h : s.Acted b k u) (hup : (s.port (s.qp b.qp).port).up = true) :
    s.Done b k [.ack b.qp b.psn] (u.ack b.qp b.psn) := h.answered hup _

/-- A packet that is refused before it has changed anything. -/
theorem State.Acted.refused (h : s.Acted b 0 u) (hup : (s.port (s.qp b.qp).port).up = true) (hhbm : u.hbm = s.hbm) {syndrome : BitVec 8}
    (hgap : syndrome ≠ 0x60) (hrnr : syndrome ≠ 0x21) (code : Code) : s.Refused b code syndrome (u.nak b.qp b.psn syndrome code) := by
  obtain ⟨hqp, hcode, hnak⟩ := u.nak_ended b.qp b.psn syndrome code hgap hrnr
  rw [h.port] at hcode hnak
  refine ⟨?_, ?_, by rw [hqp], hcode, (State.nak_only _ _ _ _ _ .hbm rfl).trans hhbm⟩
  · rw [hqp]
    exact h.epsn.trans (BitVec.add_zero _)
  · rw [← h.frames.addresses.addressed]
    exact hnak (h.frames.up.trans hup)

end

/-- The commands of a SEND: those parsed, and the one at which parsing ends. -/
def sentCmds (q : Fin 512) (tag : BitVec 32) (payload : List Byte) : List JCmd :=
  (parseSend q tag 64 payload).1 ++ (parseSend q tag 64 payload).2.toList

/-- A SEND of whole units that is not too long: its commands find room, or none is taken. -/
theorem State.deliverSend_whole (t : State) (b : Bth) (tag : BitVec 32) {payload : List Byte} (hmult : payload.length % 64 = 0)
    (hshort : payload.length ≤ 4096) : t.deliverSend b tag payload =
      if 64 < (t.portQ (t.qp b.qp).port).cmds.length + (sentCmds b.qp tag payload).length then t.nak b.qp b.psn 0x21 0x9016
      else ((t.modPortQ (t.qp b.qp).port fun x => { x with cmds := x.cmds ++ sentCmds b.qp tag payload }).advance b.qp 1).ack b.qp b.psn := by
  rw [State.deliverSend, if_neg (not_not.mpr hmult), if_neg (Nat.not_lt.mpr hshort)]
  rfl

theorem State.inOrder_cmds (s : State) (b : Bth) (n : Nat) :
    ((s.inOrder b n).portQ (s.qp b.qp).port).cmds = (s.portQ (s.qp b.qp).port).cmds := by rw [s.inOrder_portQ b n _ rfl]

/-- A packet's payload lands as it would without the packet's connection. -/
theorem State.inOrder_lands (s : State) (b : Bth) (n : Nat) (rkey : BitVec 32) (va : Nat) (payload : List Byte) :
    s.Acted b 1 (((s.inOrder b n).landRdma b.qp rkey va payload).advance b.qp 1)
      ∧ (((s.inOrder b n).landRdma b.qp rkey va payload).advance b.qp 1).hbm = (s.landRdma b.qp rkey va payload).hbm
      ∧ (((s.inOrder b n).landRdma b.qp rkey va payload).advance b.qp 1).coves = (s.landRdma b.qp rkey va payload).coves := by
  obtain ⟨hhbm, hcoves⟩ := (s.inOrder_only b n).landRdma b.qp rkey va payload
  exact ⟨((s.inOrder_acted b n).of_only (State.landRdma_only _ _ _ _ _) rfl rfl rfl rfl).advance 1, hhbm, hcoves⟩

/-- An answer changes no memory. -/
theorem State.ack_memory (s : State) (q : Nat) (psn : BitVec 24) : (s.ack q psn).hbm = s.hbm ∧ (s.ack q psn).coves = s.coves :=
  ⟨s.ack_only q psn .hbm rfl, s.ack_only q psn .coves rfl⟩

/-! The actions, in the state where the packet is in order. -/

section
variable {s : State} {b : Bth} {n : Nat} (h : s.InOrder b n)
include h

theorem State.InOrder.refused {syndrome : BitVec 8} (hgap : syndrome ≠ 0x60) (hrnr : syndrome ≠ 0x21) (code : Code) :
    s.Refused b code syndrome ((s.inOrder b n).nak b.qp b.psn syndrome code) :=
  (s.inOrder_acted b n).refused h.up (s.inOrder_only b n .hbm rfl) hgap hrnr code

/-! SEND (R283, R296, R304). -/

theorem State.InOrder.send_fits {tag : BitVec 32} {payload : List Byte} (hmult : payload.length % 64 = 0) (hshort : payload.length ≤ 4096)
    (hfits : (s.portQ (s.qp b.qp).port).cmds.length + (sentCmds b.qp tag payload).length ≤ 64) :
    s.Done b 1 [.ack b.qp b.psn] ((s.inOrder b n).deliverSend b tag payload)
      ∧ (((s.inOrder b n).deliverSend b tag payload).portQ (s.qp b.qp).port).cmds
        = (s.portQ (s.qp b.qp).port).cmds ++ sentCmds b.qp tag payload
      ∧ ChangesOnly [.qps, .ports, .portq] s ((s.inOrder b n).deliverSend b tag payload) := by
  rw [State.deliverSend_whole _ b tag hmult hshort, s.inOrder_port, s.inOrder_cmds, if_neg (Nat.not_lt.mpr hfits)]
  refine ⟨(State.Acted.advance (State.Acted.modPortQ (s.inOrder_acted b n) ?_) 1).ack h.up, ?_, ?_⟩
  · exact fun _ => rfl
  · rw [State.ack, State.transmit_read PortQueues.cmds (fun _ _ => rfl) (fun _ _ => rfl), State.advance, State.modQp_get_portQ,
      State.modPortQ_portQ]
    dsimp only
    rw [s.inOrder_cmds]
  · refine ChangesOnly.trans ?_ ((State.ack_only _ _ _).mono rfl)
    refine ChangesOnly.trans ?_ ((State.advance_only _ _ _).mono rfl)
    exact (s.inOrder_only b n).trans ((State.modPortQ_only _ _ _).mono rfl)

/-- A SEND that does not fit draws RNR, and its connection stays. -/
theorem State.InOrder.send_rnr {tag : BitVec 32} {payload : List Byte} (hmult : payload.length % 64 = 0) (hshort : payload.length ≤ 4096)
    (hfull : 64 < (s.portQ (s.qp b.qp).port).cmds.length + (sentCmds b.qp tag payload).length) :
    s.Done b 0 [.nak b.qp b.psn 0x21] ((s.inOrder b n).deliverSend b tag payload)
      ∧ (((s.inOrder b n).deliverSend b tag payload).portQ (s.qp b.qp).port).cmds = (s.portQ (s.qp b.qp).port).cmds := by
  rw [State.deliverSend_whole _ b tag hmult hshort, s.inOrder_port, s.inOrder_cmds, if_pos hfull, State.nak_rnr]
  have hacted := s.inOrder_acted b n
  obtain ⟨hepsn, hqueues, hready⟩ := hacted.answered h.up (.nak b.qp b.psn 0x21)
  have hportQ := (s.inOrder b n).nakNoted_portQ b.qp b.psn 0x21 0x9016 (s.qp b.qp).port
  refine ⟨⟨?_, hqueues.between rfl (congrArg PortQueues.frames hportQ), ?_⟩, ?_⟩
  · rw [State.nakNoted_qp, hacted.epsn]
  · rw [State.nakNoted_qp, hacted.ready]
  · rw [hportQ, State.transmit_read PortQueues.cmds (fun _ _ => rfl) (fun _ _ => rfl), s.inOrder_cmds]

theorem State.InOrder.send_broken (tag : BitVec 32) {payload : List Byte} (hbroken : payload.length % 64 ≠ 0) :
    s.Refused b 0x9017 0x61 ((s.inOrder b n).deliverSend b tag payload) := by
  rw [State.deliverSend, if_pos hbroken]
  exact h.refused (by decide) (by decide) _

theorem State.InOrder.send_long (tag : BitVec 32) {payload : List Byte} (hmult : payload.length % 64 = 0) (hlong : 4096 < payload.length) :
    s.Refused b 0x9015 0x61 ((s.inOrder b n).deliverSend b tag payload) := by
  rw [State.deliverSend, if_neg (not_not.mpr hmult), if_pos hlong]
  exact h.refused (by decide) (by decide) _

/-! RDMA WRITE (R283, R285). -/

section
variable {r : Reth} {payload : List Byte}

theorem State.InOrder.writeOnly_lands (hsome : payload.length ≠ 0) (hshort : payload.length ≤ 4096) (hlen : r.len.toNat = payload.length)
    (hpasses : s.accessFail b.qp r.rkey r.va.toNat r.len.toNat payload.length true = none) :
    ∃ t, (s.inOrder b n).rdmaWrite b r payload true = t ∧ s.Done b 1 [.ack b.qp b.psn] t
      ∧ t.hbm = (s.landRdma b.qp r.rkey r.va.toNat payload).hbm ∧ t.coves = (s.landRdma b.qp r.rkey r.va.toNat payload).coves := by
  rw [← (s.inOrder_only b n).accessFail] at hpasses
  obtain ⟨hacted, hhbm, hcoves⟩ := s.inOrder_lands b n r.rkey r.va.toNat payload
  obtain ⟨hackHbm, hackCoves⟩ := (((s.inOrder b n).landRdma b.qp r.rkey r.va.toNat payload).advance b.qp 1).ack_memory b.qp b.psn
  refine ⟨_, ?_, hacted.ack h.up, hackHbm.trans hhbm, hackCoves.trans hcoves⟩
  rw [State.rdmaWrite, if_neg (by omega), if_neg (by simp; omega)]
  simp only [hpasses, if_true]

theorem State.InOrder.writeOnly_refused (hsome : payload.length ≠ 0) (hshort : payload.length ≤ 4096) (hlen : r.len.toNat = payload.length)
    {code : Code} (hfails : s.accessFail b.qp r.rkey r.va.toNat r.len.toNat payload.length true = some code) :
    s.Refused b code (if code = 0x9014 then 0x63 else 0x62) ((s.inOrder b n).rdmaWrite b r payload true) := by
  rw [← (s.inOrder_only b n).accessFail] at hfails
  have heq : (s.inOrder b n).rdmaWrite b r payload true = (s.inOrder b n).nak b.qp b.psn (syndromeOf code) code := by
    rw [State.rdmaWrite, if_neg (by omega), if_neg (by simp; omega)]
    simp only [hfails]
  rw [heq]
  exact h.refused (by split <;> decide) (by split <;> decide) code

/-- The rest of a WRITE is awaited, and its packet is acknowledged where it asks for it. -/
theorem State.InOrder.awaits {u : State} (hacted : s.Acted b 1 u) (w : Option WriteRec) :
    let t := if b.ackReq then (u.modQp b.qp fun x => { x with write := w }).ack b.qp b.psn else u.modQp b.qp fun x => { x with write := w }
    s.Done b 1 (if b.ackReq then [.ack b.qp b.psn] else []) t ∧ t.hbm = u.hbm ∧ t.coves = u.coves ∧ (t.qp b.qp).write = w := by
  intro t
  have hset : s.Acted b 1 (u.modQp b.qp fun x => { x with write := w }) := hacted.modQp rfl rfl rfl rfl
  have hwrite : ((u.modQp b.qp fun x => { x with write := w }).qp b.qp).write = w := by rw [State.modQp_qp]
  obtain ⟨hhbm, hcoves⟩ := (u.modQp b.qp fun x => { x with write := w }).ack_memory b.qp b.psn
  have hqps := State.ack_only (u.modQp b.qp fun x => { x with write := w }) b.qp b.psn .qps rfl
  cases hack : b.ackReq with
  | true =>
    rw [show t = (u.modQp b.qp fun x => { x with write := w }).ack b.qp b.psn from if_pos hack]
    exact ⟨hset.ack h.up, hhbm, hcoves, (congrArg (fun l : Tab Qp => (l.get {} b.qp).write) hqps).trans hwrite⟩
  | false =>
    rw [show t = u.modQp b.qp fun x => { x with write := w } from if_neg (by rw [hack]; exact Bool.false_ne_true)]
    exact ⟨hset.silent, rfl, rfl, hwrite⟩

theorem State.InOrder.writeFirst_lands (hlength : payload.length = 4096) (hmore : 4096 < r.len.toNat)
    (hpasses : s.accessFail b.qp r.rkey r.va.toNat r.len.toNat 4096 true = none) :
    ∃ t, (s.inOrder b n).rdmaWrite b r payload false = t ∧ s.Done b 1 (if b.ackReq then [.ack b.qp b.psn] else []) t
      ∧ t.hbm = (s.landRdma b.qp r.rkey r.va.toNat payload).hbm ∧ t.coves = (s.landRdma b.qp r.rkey r.va.toNat payload).coves
      ∧ (t.qp b.qp).write = some ⟨r.rkey, r.va.toNat + 4096, r.len.toNat - 4096⟩ := by
  rw [← (s.inOrder_only b n).accessFail] at hpasses
  obtain ⟨hacted, hhbm, hcoves⟩ := s.inOrder_lands b n r.rkey r.va.toNat payload
  obtain ⟨hdone, hsetHbm, hsetCoves, hwrite⟩ := h.awaits hacted (some ⟨r.rkey, r.va.toNat + 4096, r.len.toNat - 4096⟩)
  refine ⟨_, ?_, hdone, hsetHbm.trans hhbm, hsetCoves.trans hcoves, hwrite⟩
  rw [State.rdmaWrite, if_neg (by omega), if_neg (by simp; omega)]
  simp only [hlength, hpasses, Bool.false_eq_true, if_false]

end

section
variable {w : WriteRec} (hw : (s.qp b.qp).write = some w) {payload : List Byte}
include hw

omit h in
theorem State.inOrder_write : ((s.inOrder b n).qp b.qp).write = some w := by rw [State.inOrder_qp, ← hw]

theorem State.InOrder.writeLast_lands (hshort : payload.length ≤ 4096) (hlen : payload.length = w.left)
    (hpasses : s.accessFail b.qp w.rkey w.addr payload.length payload.length true = none) :
    ∃ t, (s.inOrder b n).rdmaWriteMore b payload true = t ∧ s.Done b 1 [.ack b.qp b.psn] t
      ∧ t.hbm = (s.landRdma b.qp w.rkey w.addr payload).hbm ∧ t.coves = (s.landRdma b.qp w.rkey w.addr payload).coves
      ∧ (t.qp b.qp).write = none := by
  rw [← (s.inOrder_only b n).accessFail] at hpasses
  obtain ⟨hacted, hhbm, hcoves⟩ := s.inOrder_lands b n w.rkey w.addr payload
  generalize hu : ((s.inOrder b n).landRdma b.qp w.rkey w.addr payload).advance b.qp 1 = u at hacted hhbm hcoves
  have hset : s.Acted b 1 (u.modQp b.qp fun x => { x with write := none }) := hacted.modQp rfl rfl rfl rfl
  obtain ⟨hackHbm, hackCoves⟩ := (u.modQp b.qp fun x => { x with write := none }).ack_memory b.qp b.psn
  have hqps := State.ack_only (u.modQp b.qp fun x => { x with write := none }) b.qp b.psn .qps rfl
  refine ⟨_, ?_, hset.ack h.up, hackHbm.trans hhbm, hackCoves.trans hcoves, ?_⟩
  · rw [State.rdmaWriteMore, State.inOrder_write hw]
    dsimp only
    rw [if_neg (by simp; omega)]
    simp only [hpasses, hu, Bool.true_or, if_true]
  · refine (congrArg (fun l : Tab Qp => (l.get {} b.qp).write) hqps).trans ?_
    exact congrArg Qp.write (State.modQp_qp u b.qp _)

theorem State.InOrder.writeMiddle_lands (hlength : payload.length = 4096) (hmore : 4096 < w.left)
    (hpasses : s.accessFail b.qp w.rkey w.addr payload.length payload.length true = none) :
    ∃ t, (s.inOrder b n).rdmaWriteMore b payload false = t ∧ s.Done b 1 (if b.ackReq then [.ack b.qp b.psn] else []) t
      ∧ t.hbm = (s.landRdma b.qp w.rkey w.addr payload).hbm ∧ t.coves = (s.landRdma b.qp w.rkey w.addr payload).coves
      ∧ (t.qp b.qp).write = some ⟨w.rkey, w.addr + 4096, w.left - 4096⟩ := by
  rw [← (s.inOrder_only b n).accessFail, hlength] at hpasses
  obtain ⟨hacted, hhbm, hcoves⟩ := s.inOrder_lands b n w.rkey w.addr payload
  obtain ⟨hdone, hsetHbm, hsetCoves, hwrite⟩ := h.awaits hacted (some ⟨w.rkey, w.addr + 4096, w.left - 4096⟩)
  refine ⟨_, ?_, hdone, hsetHbm.trans hhbm, hsetCoves.trans hcoves, hwrite⟩
  rw [State.rdmaWriteMore, State.inOrder_write hw]
  dsimp only
  rw [if_neg (by simp; omega)]
  simp only [hlength, hpasses, Bool.false_eq_true, if_false, Bool.false_or]

end

end

end Sys2Proof.Machine
end

section
/-!
SUPPORT. What a READ Request in order does (R284, R287).
-/
namespace Sys2Proof.Machine

theorem State.bayBytes_length (s : State) (b : Nat) (v : View) (a n : Nat) : (s.bayBytes b v a n).length = n := by
  rw [State.bayBytes, List.length_map, List.length_range]

/-- Without findings of the code the stacks stay as they are. -/
theorem State.eccFindings_none (s : State) (b a : Nat) (v : View) (l : List Nat) :
    l.foldl (fun (t : State) st => t.eccFindings b st v a []) s = s := by
  induction l with
  | nil => rfl
  | cons st rest ih => exact ih

/-- One packet answers a READ that it can hold. -/
theorem State.responses_one (s : State) (q : Nat) (psn : BitVec 24) {bs : List Byte} (hshort : bs.length ≤ 4096) :
    s.responses q psn true 1 bs = s.transmit (s.qp q).port (.readResp q psn 0x10 bs) := by
  simp only [State.responses, if_true, List.take_of_length_le hshort]

/-- A READ of a bay's memory that is not poisoned is answered with its bytes. -/
theorem State.serveRead_answers {s : State} {q va n k : Nat} {psn : BitVec 24} {rkey : BitVec 32} {g : Region}
    (hpasses : s.accessFail q rkey va n n false = none) (hregion : s.regionOf q rkey = some (k, g)) (hkind : g.kind = 0) (hone : readPackets n = 1)
    (hshort : n ≤ 4096) {v : State} (hv : s.readBay (k / 16) none (s.netNow + 112) va n = v) (hclean : v.bayPoison (k / 16) none va n = false) :
    s.serveRead q psn rkey va n [] = (v.modQp q fun x => { x with bytes := x.bytes + n }).transmit
      ((v.modQp q fun x => { x with bytes := x.bytes + n }).qp q).port (.readResp q psn 0x10 (v.bayBytes (k / 16) none va n)) := by
  rw [State.serveRead, hpasses, hregion]
  dsimp only
  rw [if_pos hkind, State.eccFindings_none, hv, if_neg (by rw [hclean]; exact Bool.false_ne_true), hone,
    State.responses_one _ _ _ (by rw [State.bayBytes_length]; exact hshort)]

section
variable {s : State} {b : Bth} {n : Nat} (h : s.InOrder b n) {r : Reth}
include h

/-- A READ of nothing is answered with nothing. -/
theorem State.InOrder.read_empty (hlen : r.len = 0) (ecc : List (Nat × Ecc)) :
    ∃ t, ((s.inOrder b n).advance b.qp (readPackets r.len.toNat)).readRequest b r ecc = t ∧ s.Done b 1 [.readResp b.qp b.psn 0x10 []] t
      ∧ ChangesOnly [.qps, .ports, .portq] s t := by
  have hacted := (s.inOrder_acted b n).advance 1
  have hconn := (s.inOrder_only b n).trans ((State.advance_only (s.inOrder b n) b.qp 1).mono rfl)
  have hnone : r.len.toNat = 0 := by rw [hlen]; decide
  rw [hnone, show readPackets 0 = 1 by decide]
  generalize (s.inOrder b n).advance b.qp 1 = u at *
  refine ⟨_, ?_, hacted.answered h.up _, hconn.trans ((State.transmit_only _ _ _).mono rfl)⟩
  rw [State.readRequest, if_pos hnone, State.responses_one _ _ _ (Nat.zero_le _)]

variable {k : Nat} {g : Region} (hregion : s.regionOf b.qp r.rkey = some (k, g)) (hkind : g.kind = 0) (hsome : 0 < r.len.toNat)
  (hpasses : s.accessFail b.qp r.rkey r.va.toNat r.len.toNat r.len.toNat false = none)
include hregion hkind hsome hpasses

omit h in
theorem State.readRequest_region {u : State} (hconn : ChangesOnly [.qps, .ports, .portq] s u) (ecc : List (Nat × Ecc)) :
    u.readRequest b r ecc = if s.gatherWaits (k / 16) r.va.toNat r.len.toNat then
      u.modQp b.qp fun x => { x with gathers := x.gathers ++ [⟨b.psn, r.rkey, r.va.toNat, r.len.toNat, u.clk.elapsed, ecc⟩] }
    else u.serveRead b.qp b.psn r.rkey r.va.toNat r.len.toNat ecc := by
  rw [← hconn.regionOf] at hregion
  rw [← hconn.accessFail] at hpasses
  rw [State.readRequest, if_neg (by omega), hregion]
  dsimp only
  rw [hconn.gatherWaits, hpasses, hkind]
  simp

omit h in
/-- Where a stack cannot answer now, the READ is gathered. -/
theorem State.inOrder_read_waits (hwaits : s.gatherWaits (k / 16) r.va.toNat r.len.toNat = true) (ecc : List (Nat × Ecc)) :
    ∃ t, ((s.inOrder b n).advance b.qp (readPackets r.len.toNat)).readRequest b r ecc = t ∧ s.Done b (readPackets r.len.toNat) [] t
      ∧ (t.qp b.qp).gathers = (s.qp b.qp).gathers ++ [⟨b.psn, r.rkey, r.va.toNat, r.len.toNat, s.clk.elapsed, ecc⟩]
      ∧ ChangesOnly [.qps, .ports, .portq] s t := by
  have hconn := (s.inOrder_only b n).trans ((State.advance_only (s.inOrder b n) b.qp (readPackets r.len.toNat)).mono rfl)
  have hacted := (s.inOrder_acted b n).advance (readPackets r.len.toNat)
  have hgathers : (((s.inOrder b n).advance b.qp (readPackets r.len.toNat)).qp b.qp).gathers = (s.qp b.qp).gathers := by
    rw [State.advance, State.modQp_qp, State.inOrder_qp]
  have hclk := hconn .clk rfl
  rw [State.readRequest_region hregion hkind hsome hpasses hconn, if_pos hwaits]
  generalize (s.inOrder b n).advance b.qp (readPackets r.len.toNat) = u at *
  refine ⟨_, rfl, State.Acted.silent (hacted.modQp ?_ ?_ ?_ ?_), ?_, hconn.trans ((State.modQp_only _ _ _).mono rfl)⟩
  · rfl
  · rfl
  · rfl
  · rfl
  · rw [State.modQp_qp]
    dsimp only
    rw [hgathers, show u.clk = s.clk from hclk]

/-- A READ that fits one packet is answered with the bytes that it finds. -/
theorem State.InOrder.read_answered (hready : s.gatherWaits (k / 16) r.va.toNat r.len.toNat = false) (hshort : r.len.toNat ≤ 4096)
    (hclean : (s.readBay (k / 16) none (s.netNow + 112) r.va.toNat r.len.toNat).bayPoison (k / 16) none r.va.toNat r.len.toNat = false) :
    ∃ t, ((s.inOrder b n).advance b.qp (readPackets r.len.toNat)).readRequest b r [] = t
      ∧ s.Done b 1 [.readResp b.qp b.psn 0x10
        ((s.readBay (k / 16) none (s.netNow + 112) r.va.toNat r.len.toNat).bayBytes (k / 16) none r.va.toNat r.len.toNat)] t
      ∧ t.hbm = s.hbm := by
  have hconn := (s.inOrder_only b n).trans ((State.advance_only (s.inOrder b n) b.qp 1).mono rfl)
  have hacted := (s.inOrder_acted b n).advance 1
  have hone : readPackets r.len.toNat = 1 := by
    rw [readPackets]
    omega
  rw [hone, State.readRequest_region hregion hkind hsome hpasses hconn, if_neg (by rw [hready]; exact Bool.false_ne_true)]
  have hsame := hconn.readBay (k / 16) none (s.netNow + 112) r.va.toNat r.len.toNat
  rw [← hconn.regionOf] at hregion
  rw [← hconn.accessFail] at hpasses
  have hhbm := hconn .hbm rfl
  have hclk := hconn .clk rfl
  generalize (s.inOrder b n).advance b.qp 1 = u at *
  have hnow : u.netNow = s.netNow := by
    rw [State.netNow, State.netNow, State.netUnits, State.netUnits, State.cnCycles, State.cnCycles, show u.clk = s.clk from hclk]
  have hread := u.readBay_only (k / 16) none (s.netNow + 112) r.va.toNat r.len.toNat
  rw [← hsame.bayBytes]
  rw [← hsame.bayPoison] at hclean
  generalize hv : u.readBay (k / 16) none (s.netNow + 112) r.va.toNat r.len.toNat = v at *
  rw [← hnow] at hv
  have hcounted : s.Acted b 1 (v.modQp b.qp fun x => { x with bytes := x.bytes + r.len.toNat }) :=
    (hacted.of_only hread rfl rfl rfl rfl).modQp rfl rfl rfl rfl
  refine ⟨_, State.serveRead_answers hpasses hregion hkind hone hshort hv hclean, hcounted.answered h.up _, ?_⟩
  have hcount := State.modQp_only v b.qp (fun x => { x with bytes := x.bytes + r.len.toNat }) .hbm rfl
  exact (State.transmit_only _ _ _ .hbm rfl).trans (Eq.trans hcount ((hread .hbm rfl).trans hhbm))

end

end Sys2Proof.Machine
end

section
/-!
SUPPORT. Connections (R282): requests and their rejections, and the frames that make, refuse and end a connection.
-/
namespace Sys2Proof.Machine

/-- A frame of communication management goes to the addresses that it names. -/
theorem State.addressed_cm {s t : State} {p : Nat} (h : (t.port p).marks = (s.port p).marks) (mac : BitVec 48) (ip : BitVec 128) (q : Nat) (msg : BitVec 8)
    (n : Nat) : t.addressed p (.cm mac ip q msg n) = s.addressed p (.cm mac ip q msg n) := by
  simp only [Port.marks, Prod.mk.injEq] at h
  obtain ⟨hvlan, hpcp, hpfc, hprio, hudp⟩ := h
  simp only [State.addressed, hvlan, hpcp, hpfc, hprio]

/-- Two changes of a connection one after the other are one, where the first leaves an entry. -/
theorem State.modQp_modQp (s : State) (k : Nat) (f g : Qp → Qp) (h : f (s.qp k) ≠ {}) : (s.modQp k f).modQp k g = s.modQp k fun _ => g (f (s.qp k)) := by
  have hqps : (s.qps.upd {} k f).upd {} k g = s.qps.upd {} k fun _ => g (f (s.qp k)) := by
    unfold Tab.upd
    rw [Tab.get_set_same]
    exact Tab.set_set _ _ _ _ h
  exact congrArg (fun l => ({ s with qps := l } : State)) hqps

theorem Queues.rebase {p : Nat} {fs : List TxFrame} {base base' s t : State} (h : Queues p fs base s t)
    (hbase : ∀ f ∈ fs, base'.addressed p f = base.addressed p f) : Queues p fs base' s t := by
  obtain ⟨hfirst, hsecond, htx⟩ := h
  refine ⟨hfirst.trans ?_, hsecond.trans ?_, htx⟩
  · rw [List.map_congr_left fun f hf => hbase f (List.mem_of_mem_filter hf)]
  · rw [List.map_congr_left fun f hf => hbase f (List.mem_of_mem_filter hf)]

/-! A REQ (R282, R441). -/

section
variable {s : State} {p : Fin 2} {r : CmReq}

theorem exec_cmReq_down (hdown : (s.port p).up = false) : exec (.cmReq p r) s = .next s := by
  rw [exec_cmReq, execCmReq, occurs_false hdown]

theorem exec_cmReq_dropped (hup : (s.port p).up = true) (hbad : (s.port p).accepts r.hdr false = false) :
    exec (.cmReq p r) s = .next ((s.ethCount p 0 1).ethCount p 2 1) := by
  rw [exec_cmReq, execCmReq, occurs_true hup, if_pos (by rw [hbad]; rfl)]

/-- Why a REQ is rejected (PRESUMED reasons, log entry 36): not in service, no reliable connection, another path MTU, no queue pair free. -/
def State.cmReason (s : State) (r : CmReq) : Option Nat :=
  if s.su.state ≠ 2 then some 3
  else if r.rc = false then some 9
  else if r.mtu ≠ 4096 then some 26
  else if (List.range 512).find? (fun q => (s.qp q).state == .free) = none then some 1
  else none

variable (hup : (s.port p).up = true) (haccepts : (s.port p).accepts r.hdr false = true)
include hup haccepts

theorem exec_cmReq_rejected {n : Nat} (hreason : s.cmReason r = some n) :
    exec (.cmReq p r) s = .next ((s.ethCount p 0 1).transmit p (.cm r.hdr.srcMac r.peerIp 512 cmRejMsg n)) := by
  rw [exec_cmReq, execCmReq, occurs_true hup, if_neg (by rw [haccepts]; exact Bool.false_ne_true)]
  rw [State.cmReason] at hreason
  split at hreason
  next hstate => rw [if_pos (bne_iff_ne.mpr hstate), Option.some.inj hreason]
  next hstate =>
  rw [if_neg (fun h => hstate (bne_iff_ne.mp h))]
  split at hreason
  next hrc => rw [if_pos (by rw [hrc]; rfl), Option.some.inj hreason]
  next hrc =>
  rw [if_neg (by simpa using hrc)]
  split at hreason
  next hmtu => rw [if_pos hmtu, Option.some.inj hreason]
  next hmtu =>
  rw [if_neg hmtu]
  split at hreason
  next hnone => rw [hnone, Option.some.inj hreason]
  next => cases hreason

theorem exec_cmReq_taken (hstate : s.su.state = 2) (hrc : r.rc = true) (hmtu : r.mtu = 4096) {q : Nat}
    (hfree : ((List.range 512).find? fun q => (s.qp q).state == .free) = some q) :
    ∃ t, exec (.cmReq p r) s = .next t
      ∧ t.qp q = { state := .connecting, port := p, peerMac := r.hdr.srcMac, peerIp := r.peerIp, epsn := r.psn, resources := min r.resources 16
                   rate := (s.port p).mbps, target := (s.port p).mbps }
      ∧ Queues p [.cm r.hdr.srcMac r.peerIp q cmRepMsg (min r.resources 16)] s s t ∧ ChangesOnly [.qps, .ports, .portq] s t := by
  have hexec : exec (.cmReq p r) s = .next (((s.ethCount p 0 1).modQp q fun _ =>
      { state := .connecting, port := p, peerMac := r.hdr.srcMac, peerIp := r.peerIp, epsn := r.psn, resources := min r.resources 16
        rate := (s.port p).mbps, target := (s.port p).mbps }).transmit p (.cm r.hdr.srcMac r.peerIp q cmRepMsg (min r.resources 16))) := by
    rw [exec_cmReq, execCmReq, occurs_true hup, if_neg (by rw [haccepts]; exact Bool.false_ne_true), if_neg (by rw [hstate]; decide),
      if_neg (by rw [hrc]; decide), if_neg (not_not.mpr hmtu), hfree]
  refine ⟨_, hexec, ?_, ?_, execCmReq_only _ _ s _ hexec⟩
  · exact (congrArg (fun l : Tab Qp => l.get {} q) (State.transmit_only _ _ _ .qps rfl)).trans (State.modQp_qp _ _ _)
  · have hqueues := Queues.transmit (s := (s.ethCount p 0 1).modQp q fun _ =>
      { state := .connecting, port := p, peerMac := r.hdr.srcMac, peerIp := r.peerIp, epsn := r.psn, resources := min r.resources 16
        rate := (s.port p).mbps, target := (s.port p).mbps }) ((s.ethCount_up p 0 1 p).trans hup)
      (.cm r.hdr.srcMac r.peerIp q cmRepMsg (min r.resources 16))
    have hmarks := (SameAddresses.ethCount s p p 0 1).symm.marks
    refine (hqueues.rebase fun f hf => ?_).between rfl rfl
    rw [List.mem_singleton.mp hf]
    exact State.addressed_cm hmarks _ _ _ _ _

end

/-! Frames of a connection (R282, Table 12.11). -/

/-- The connection is established, in `t`. -/
def State.readied (q : Nat) (t : State) : State := t.modQp q fun x => { x with state := .ready }

/-- The connection is free again, in `t`. -/
def State.freed (q : Nat) (t : State) : State := t.modQp q fun _ => {}

/-- The state once a disconnection is answered and its sessions are orphaned. -/
def State.parted (q : Nat) (t : State) : State :=
  (t.dropSessions q).transmit (t.qp q).port (.cm (t.qp q).peerMac (t.qp q).peerIp q cmDrepMsg 0)

theorem exec_cmRtu_connFrame (q : Fin 512) (f : FrameHdr) (s : State) : exec (.cmRtu ⟨q, f⟩) s = s.connFrame ⟨q, f⟩ [.connecting] (State.readied q) := rfl

theorem exec_cmRej_connFrame (q : Fin 512) (f : FrameHdr) (s : State) : exec (.cmRej ⟨q, f⟩) s = s.connFrame ⟨q, f⟩ [.connecting] (State.freed q) := rfl

theorem exec_cmDreq_connFrame (q : Fin 512) (f : FrameHdr) (s : State) :
    exec (.cmDreq ⟨q, f⟩) s = s.connFrame ⟨q, f⟩ [.connecting, .ready, .error] fun t => State.freed q (State.parted q t) := rfl

/-- Each of these frames is a frame of its connection. -/
theorem exec_cmFrame_connFrame {q : Fin 512} {f : FrameHdr} {c : Instr} (hc : c ∈ ([.cmRtu ⟨q, f⟩, .cmRej ⟨q, f⟩, .cmDreq ⟨q, f⟩] : List Instr))
    (s : State) : ∃ live g, exec c s = s.connFrame ⟨q, f⟩ live g := by
  simp only [List.mem_cons, List.not_mem_nil, or_false] at hc
  rcases hc with rfl | rfl | rfl
  · exact ⟨_, _, exec_cmRtu_connFrame q f s⟩
  · exact ⟨_, _, exec_cmRej_connFrame q f s⟩
  · exact ⟨_, _, exec_cmDreq_connFrame q f s⟩

section
variable {s : State} {q : Fin 512} {f : FrameHdr} (hup : (s.port (s.qp q).port).up = true)
include hup

theorem exec_cmRtu_dropped (hstate : (s.qp q).state ≠ .connecting) :
    exec (.cmRtu ⟨q, f⟩) s = .next ((s.ethCount (s.qp q).port 0 1).ethCount (s.qp q).port 2 1)
      ∧ exec (.cmRej ⟨q, f⟩) s = .next ((s.ethCount (s.qp q).port 0 1).ethCount (s.qp q).port 2 1) := by
  have hlive : ([.connecting] : List QpState).contains (s.qp q).state = false := by simpa using hstate
  rw [exec_cmRtu_connFrame, exec_cmRej_connFrame]
  exact ⟨State.connFrame_dropped (c := ⟨q, f⟩) hup (.inr hlive) _, State.connFrame_dropped (c := ⟨q, f⟩) hup (.inr hlive) _⟩

theorem exec_cmDreq_dropped (hstate : (s.qp q).state = .free) :
    exec (.cmDreq ⟨q, f⟩) s = .next ((s.ethCount (s.qp q).port 0 1).ethCount (s.qp q).port 2 1) := by
  rw [exec_cmDreq_connFrame]
  exact State.connFrame_dropped (c := ⟨q, f⟩) hup (.inr (by rw [show (s.qp (q : Nat)).state = _ from hstate]; rfl)) _

variable (haccepts : (s.port (s.qp q).port).accepts f false = true)
include haccepts

/-- RTU makes the connection ready, REJ frees it. -/
theorem exec_cmRtu_taken (hstate : (s.qp q).state = .connecting) :
    exec (.cmRtu ⟨q, f⟩) s = .next ((s.ethCount (s.qp q).port 0 1).modQp q fun _ => { s.qp q with state := .ready, peerMac := f.srcMac })
      ∧ exec (.cmRej ⟨q, f⟩) s = .next ((s.ethCount (s.qp q).port 0 1).modQp q fun _ => {}) := by
  have hlive : ([.connecting] : List QpState).contains (s.qp q).state = true := by rw [hstate]; rfl
  have hqp : (s.ethCount (s.qp q).port 0 1).qp q = s.qp q := rfl
  have hlisted : ({ (s.ethCount (s.qp q).port 0 1).qp q with peerMac := f.srcMac } : Qp) ≠ {} := by
    rw [hqp]
    intro h
    have hfree : (s.qp q).state = .free := congrArg Qp.state h
    rw [hstate] at hfree
    cases hfree
  rw [exec_cmRtu_connFrame, exec_cmRej_connFrame, State.connFrame_taken (c := ⟨q, f⟩) hup haccepts hlive,
    State.connFrame_taken (c := ⟨q, f⟩) hup haccepts hlive]
  dsimp only
  rw [State.readied, State.freed, State.modQp_modQp _ _ _ _ hlisted, State.modQp_modQp _ _ _ _ hlisted, hqp]
  exact ⟨rfl, rfl⟩

/-- DREQ ends the connection, answers, and orphans its sessions. -/
theorem exec_cmDreq_taken (hstate : (s.qp q).state ≠ .free) : ∃ t, exec (.cmDreq ⟨q, f⟩) s = .next t ∧ t.qp q = {}
    ∧ s.addressed (s.qp q).port (.cm f.srcMac (s.qp q).peerIp q cmDrepMsg 0) ∈ (t.portQ (s.qp q).port).second
    ∧ ((s.qp q).opens = [] → ∀ k ∈ s.sessionsOf q, (t.sess k).state = .orphaned) := by
  have hlive : ([.connecting, .ready, .error] : List QpState).contains (s.qp q).state = true := by
    cases hq : (s.qp q).state
    · exact absurd hq hstate
    all_goals rfl
  rw [exec_cmDreq_connFrame, State.connFrame_taken (c := ⟨q, f⟩) hup haccepts hlive]
  refine ⟨_, rfl, State.modQp_qp _ _ _, ?_, fun hopens k hk => ?_⟩
  · rw [State.freed, State.modQp_get_portQ, State.parted, State.modQp_qp]
    dsimp only
    generalize hu : ((s.ethCount (s.qp q).port 0 1).modQp q fun x => { x with peerMac := f.srcMac }) = u
    have hports : (u.dropSessions q).port (s.qp q).port = (s.ethCount (s.qp q).port 0 1).port (s.qp q).port := by
      have hdropped := State.dropSessions_only u q .ports rfl
      rw [State.port, show (u.dropSessions q).ports = u.ports from hdropped, ← hu]
      rfl
    have hmarks : ((u.dropSessions q).port (s.qp q).port).marks = (s.port (s.qp q).port).marks := by
      rw [hports, (SameAddresses.ethCount s _ _ 0 1).marks]
    have hdropped : ((u.dropSessions q).port (s.qp q).port).up = true := by rw [hports, State.ethCount_up, hup]
    rw [← State.addressed_cm hmarks]
    exact (Queues.transmit hdropped _).mem_second (List.mem_singleton_self _) rfl
  · have hgone := State.dropSessions_orphans (s := (s.ethCount (s.qp q).port 0 1).modQp q fun x => { x with peerMac := f.srcMac })
      (by rw [State.modQp_qp]; exact hopens) hk
    rw [State.freed, State.modQp_get_sess, State.parted]
    exact (congrArg (fun l : Tab Session => (l.get {} k).state) (State.transmit_only _ _ _ .sessions rfl)).trans hgone

end

end Sys2Proof.Machine
end

section
/-!
SUPPORT. Connections and requests (R280, R282 to R287, R289, R296): a packet's PSN, the gather that is not done in time, and the statement.
-/
namespace Sys2Proof.Machine

/-! By its PSN a packet that is taken is the next, beyond a gap, or a duplicate (R284, R286). -/

section
variable {s : State} {b : Bth} {n : Nat} (hup : (s.port (s.qp b.qp).port).up = true) (hgood : ¬ s.dropsRequest b n) (dup f : State → State)
include hup hgood

theorem State.request_next (hnext : (b.psn - (s.qp b.qp).epsn).toNat = 0) :
    s.request b n dup f = .next (f ((s.requestTaken b n).modQp b.qp fun x => { x with nakOut := false })) := by
  rw [State.request_good hup hgood, if_pos (BitVec.eq_of_toNat_eq hnext)]

theorem State.request_gap (hsome : 0 < (b.psn - (s.qp b.qp).epsn).toNat) (hgap : (b.psn - (s.qp b.qp).epsn).toNat < 2 ^ 23) :
    s.request b n dup f = .next (if (s.qp b.qp).nakOut then s.requestTaken b n
      else ((s.requestTaken b n).modQp b.qp fun x => { x with nakOut := true }).nak b.qp (s.qp b.qp).epsn 0x60 0) := by
  have hne : b.psn - (s.qp b.qp).epsn ≠ 0 := fun h => Nat.ne_of_gt hsome (congrArg BitVec.toNat h)
  rw [State.request_good hup hgood, if_neg hne, if_pos hgap]

theorem State.request_duplicate (hdup : 2 ^ 23 ≤ (b.psn - (s.qp b.qp).epsn).toNat) :
    s.request b n dup f = .next (dup (s.requestTaken b n)) := by
  have hne : b.psn - (s.qp b.qp).epsn ≠ 0 := fun h => by
    rw [h] at hdup
    exact absurd hdup (by decide)
  rw [State.request_good hup hgood, if_neg hne, if_neg (Nat.not_lt.mpr hdup)]

end

/-! A gather that is not done in 88 µs (R287). -/

section
variable {s : State} {q : Fin 512} {psn : BitVec 24}

theorem exec_readGatherTimeout_none (hnone : ((s.qp q).gathers.find? fun g => g.psn == psn) = none) : exec (.readGatherTimeout q psn) s = .next s := by
  rw [exec_readGatherTimeout, execReadGatherTimeout, hnone]

variable {g : GatherRec} (hfind : ((s.qp q).gathers.find? fun g => g.psn == psn) = some g)
include hfind

theorem exec_readGatherTimeout_due (hdue : g.at_ + 88000 ≤ s.clk.elapsed) : exec (.readGatherTimeout q psn) s = .next (s.nak q psn 0x63 0x9014) := by
  rw [exec_readGatherTimeout, execReadGatherTimeout, hfind]
  exact occurs_true (decide_eq_true hdue)

theorem exec_readGatherTimeout_early (hearly : s.clk.elapsed < g.at_ + 88000) : exec (.readGatherTimeout q psn) s = .next s := by
  rw [exec_readGatherTimeout, execReadGatherTimeout, hfind]
  exact occurs_false (decide_eq_false (Nat.not_le.mpr hearly))

end

/-! The request packets. -/

theorem exec_unsupportedOpcode_request {op : BitVec 8} (hop : supportedOpcodes.contains op.toNat = false) (b : Bth) (s : State) :
    exec (.unsupportedOpcode b op) s = s.unsupported b := by
  rw [exec_unsupportedOpcode, execUnsupportedOpcode, if_neg (by rw [hop]; exact Bool.false_ne_true)]

theorem exec_unsupportedOpcode_other {op : BitVec 8} (hop : supportedOpcodes.contains op.toNat = true) (b : Bth) (s : State) :
    exec (.unsupportedOpcode b op) s = .next s := by
  rw [exec_unsupportedOpcode, execUnsupportedOpcode, if_pos hop]

section
variable (b : Bth) (r : Reth) (payload : List Byte) (s : State)

theorem exec_sendOnly_request : exec (.sendOnly b payload) s =
    s.request b payload.length (fun t => t.ack b.qp b.psn) fun t => t.deliverSend b 0 payload := rfl

theorem exec_sendOnlyWithImmediate_request (imm : BitVec 32) : exec (.sendOnlyWithImmediate b imm payload) s =
    s.request b payload.length (fun t => t.ack b.qp b.psn) fun t => t.deliverSend b imm payload := rfl

theorem exec_rdmaWriteFirst_request : exec (.rdmaWriteFirst b r payload) s =
    s.request b payload.length (fun t => t.ack b.qp b.psn) fun t => t.rdmaWrite b r payload false := rfl

theorem exec_rdmaWriteOnly_request : exec (.rdmaWriteOnly b r payload) s =
    s.request b payload.length (fun t => t.ack b.qp b.psn) fun t => t.rdmaWrite b r payload true := rfl

theorem exec_rdmaWriteMiddle_request : exec (.rdmaWriteMiddle b payload) s =
    s.request b payload.length (fun t => t.ack b.qp b.psn) fun t => t.rdmaWriteMore b payload false := rfl

theorem exec_rdmaWriteLast_request : exec (.rdmaWriteLast b payload) s =
    s.request b payload.length (fun t => t.ack b.qp b.psn) fun t => t.rdmaWriteMore b payload true := rfl

theorem exec_rdmaReadRequest_request (ecc : List (Nat × Ecc)) : exec (.rdmaReadRequest b ⟨r, ecc⟩) s =
    s.request b 0 (fun t => t.readRequest b r ecc) fun t => (t.advance b.qp (readPackets r.len.toNat)).readRequest b r ecc := rfl

end

/-- A request in order acts in the state `State.inOrder`. -/
theorem State.InOrder.acts {s : State} {b : Bth} {n : Nat} (h : s.InOrder b n) {c : Instr} {dup f : State → State} {t : State}
    (hexec : exec c s = s.request b n dup f) (ht : f (s.inOrder b n) = t) : exec c s = .next t := by rw [hexec, h.request, ht]

/-- An unsupported request in order is refused. -/
theorem State.InOrder.unsupported {s : State} {b : Bth} (h : s.InOrder b 0) : ∃ t, s.unsupported b = .next t ∧ s.Refused b 0x9015 0x61 t :=
  ⟨_, h.request _ _, h.refused (by decide) (by decide) _⟩

/-- Settles O46: a request packet by what `State.request` takes it for (`request_bad`, `request_next`, `request_gap`, `request_duplicate`), one in
order by what it does in `State.inOrder`, where it is done (`State.Done`) or refused (`State.Refused`). -/
theorem connectionsAndRequestsTakeEffect : Obligations.ConnectionsAndRequestsTakeEffect := by
  unfold Obligations.ConnectionsAndRequestsTakeEffect
  intro s q x p link
  refine ⟨fun port r => ?_, fun h => ?_, ?_, ?_, fun op b hop => exec_unsupportedOpcode_other hop b s, fun psn g hfind => ?_,
    fun psn hnone => exec_readGatherTimeout_none hnone⟩
  · intro s1 reject
    refine ⟨exec_cmReq_down, exec_cmReq_dropped, fun hup haccepts => ?_⟩
    have hreject : ∀ n, s.cmReason r = some n → reject n := fun n hreason => exec_cmReq_rejected hup haccepts hreason
    refine ⟨fun hstate hrc hmtu hfree => ?_, fun hstate => hreject 3 ?_, fun hstate hrc => hreject 9 ?_, fun hstate hrc hmtu => hreject 26 ?_,
      fun hstate hrc hmtu hfull => hreject 1 ?_⟩
    · obtain ⟨t, hexec, hqp, hqueues, honly⟩ := exec_cmReq_taken hup haccepts hstate hrc hmtu hfree
      refine ⟨t, hexec, ?_, ?_, ?_, ?_, ?_, ?_, hqueues, honly⟩ <;> rw [hqp]
    · rw [State.cmReason, if_pos hstate]
    · rw [State.cmReason, if_neg (not_not.mpr hstate), if_pos hrc]
    · rw [State.cmReason, if_neg (not_not.mpr hstate), if_neg (by rw [hrc]; decide), if_pos hmtu]
    · have hnone : (List.range 512).find? (fun q => (s.qp q).state == .free) = none := by
        rw [List.find?_eq_none]
        intro k hk
        simpa using hfull ⟨k, List.mem_range.mp hk⟩
      rw [State.cmReason, if_neg (not_not.mpr hstate), if_neg (by rw [hrc]; decide), if_neg (not_not.mpr hmtu), if_pos hnone]
  · intro f s1 y
    refine ⟨fun hdown c hc => ?_, fun hup hbad c hc => ?_, fun hup haccepts => ⟨exec_cmRtu_taken hup haccepts, exec_cmRtu_dropped hup,
      exec_cmDreq_taken hup haccepts, exec_cmDreq_dropped hup⟩⟩
    · obtain ⟨live, g, hexec⟩ := exec_cmFrame_connFrame hc s
      rw [hexec, State.connFrame_down hdown]
    · obtain ⟨live, g, hexec⟩ := exec_cmFrame_connFrame hc s
      rw [hexec]
      exact State.connFrame_dropped (c := ⟨q, h⟩) hup (.inl hbad) g
  · intro b r imm payload ecc op hb hop
    subst hb
    intro ack no k c hc s1 bad s2 d
    have hexec : exec c.1 s = s.request b c.2.1 c.2.2.1 c.2.2.2 := by
      simp only [List.mem_cons, List.not_mem_nil, or_false] at hc
      iterate 13
        rcases hc with rfl | hc
        · rfl
      subst hc
      exact exec_unsupportedOpcode_request hop b s
    rw [hexec]
    refine ⟨fun hdown => State.request_down hdown _ _, fun hup hbad => State.request_bad hup hbad _ _, fun hup hgood =>
      ⟨fun hnext => State.request_next hup hgood _ _ hnext, fun hsome hgap hfirst => ?_, fun hsome hgap hagain => ?_,
        fun hdup => State.request_duplicate hup hgood _ _ hdup⟩⟩
    · exact (State.request_gap hup hgood _ _ hsome hgap).trans (congrArg Host.Outcome.next (if_neg (by rw [hfirst]; exact Bool.false_ne_true)))
    · exact (State.request_gap hup hgood _ _ hsome hgap).trans (congrArg Host.Outcome.next (if_pos hagain))
  · intro b hb hicrc hce hup haccepts hlive hgood hpsn hroom
    subst hb
    intro done refused
    have hin : ∀ n ≤ 4160, s.InOrder b n := fun n hn => ⟨hicrc, hce, hup, haccepts, hlive, hgood, hpsn, hroom, hn⟩
    have hdone : ∀ {n fs c t}, exec c s = .next t → s.Done b n fs t → done n fs c t := fun hexec h => ⟨hexec, h.epsn, h.queues, h.ready⟩
    have hrefused : ∀ {code syn c t}, exec c s = .next t → s.Refused b code syn t → refused code syn c :=
      fun hexec h => ⟨_, hexec, h.epsn, h.nak, h.error, h.code, h.hbm⟩
    have hunsupported : ∀ {c}, exec c s = s.unsupported b → refused 0x9015 0x61 c := fun hexec =>
      let ⟨_, hnext, h⟩ := (hin 0 (Nat.zero_le _)).unsupported
      hrefused (hexec.trans hnext) h
    refine ⟨fun payload imm c hc => ?_, fun payload imm hmult hshort c hc => ?_, fun c hc => ?_,
      fun op hop => hunsupported (exec_unsupportedOpcode_request hop b s), fun r payload hsome hshort => ?_,
      fun w payload hw hsome hshort hpasses => ?_, fun r k g hregion hkind hsome hpasses => ?_, fun r ecc hlen => ?_⟩
    · simp only [List.mem_cons, List.not_mem_nil, or_false] at hc
      refine ⟨fun hbroken hlength => ?_, fun hmult hlong hlength => ?_⟩
      · have hnext := fun tag => (hin _ hlength).send_broken tag hbroken
        rcases hc with rfl | rfl
        · exact hrefused ((hin _ hlength).acts (exec_sendOnly_request b payload s) rfl) (hnext 0)
        · exact hrefused ((hin _ hlength).acts (exec_sendOnlyWithImmediate_request b payload s imm) rfl) (hnext imm)
      · have hnext := fun tag => (hin _ hlength).send_long tag hmult hlong
        rcases hc with rfl | rfl
        · exact hrefused ((hin _ hlength).acts (exec_sendOnly_request b payload s) rfl) (hnext 0)
        · exact hrefused ((hin _ hlength).acts (exec_sendOnlyWithImmediate_request b payload s imm) rfl) (hnext imm)
    · intro r cs
      have h := hin payload.length (hshort.trans (by decide))
      have hexec : exec c.1 s = .next ((s.inOrder b payload.length).deliverSend b c.2 payload) := by
        simp only [List.mem_cons, List.not_mem_nil, or_false] at hc
        rcases hc with rfl | rfl
        · exact h.acts (exec_sendOnly_request b payload s) rfl
        · exact h.acts (exec_sendOnlyWithImmediate_request b payload s imm) rfl
      refine ⟨fun hfits => ?_, fun hfull => ?_⟩
      · obtain ⟨hnext, hcmds, honly⟩ := h.send_fits hmult hshort hfits
        exact ⟨_, hdone hexec hnext, hcmds, honly⟩
      · obtain ⟨hnext, hcmds⟩ := h.send_rnr hmult hshort hfull
        exact ⟨_, hexec, hnext.epsn.trans (BitVec.add_zero _), hnext.ready, hnext.queues, hcmds⟩
    · simp only [List.mem_cons, List.not_mem_nil, or_false] at hc
      rcases hc with rfl | rfl | rfl | rfl | rfl | rfl
      all_goals exact hunsupported rfl
    · intro land
      have h := hin payload.length (hshort.trans (by decide))
      refine ⟨fun hlen hpasses => ?_, fun code hlen hfails => ?_, fun hlength hmore hpasses => ?_⟩
      · obtain ⟨t, ht, hnext, hmem⟩ := h.writeOnly_lands hsome hshort hlen hpasses
        exact ⟨t, hdone (h.acts (exec_rdmaWriteOnly_request b r payload s) ht) hnext, hmem⟩
      · exact hrefused (h.acts (exec_rdmaWriteOnly_request b r payload s) rfl) (h.writeOnly_refused hsome hshort hlen hfails)
      · obtain ⟨t, ht, hnext, hmem⟩ := h.writeFirst_lands hlength hmore hpasses
        exact ⟨t, hdone (h.acts (exec_rdmaWriteFirst_request b r payload s) ht) hnext, hmem⟩
    · intro land
      have h := hin payload.length (hshort.trans (by decide))
      refine ⟨fun hlen => ?_, fun hlength hmore => ?_⟩
      · obtain ⟨t, ht, hnext, hmem⟩ := h.writeLast_lands hw hshort hlen hpasses
        exact ⟨t, hdone (h.acts (exec_rdmaWriteLast_request b payload s) ht) hnext, hmem⟩
      · obtain ⟨t, ht, hnext, hmem⟩ := h.writeMiddle_lands hw hlength hmore hpasses
        exact ⟨t, hdone (h.acts (exec_rdmaWriteMiddle_request b payload s) ht) hnext, hmem⟩
    · intro n s1
      have h := hin 0 (Nat.zero_le _)
      refine ⟨fun hnow hshort hclean => ?_, fun hwaits ecc => ?_⟩
      · obtain ⟨t, ht, hnext, hhbm⟩ := h.read_answered hregion hkind hsome hpasses hnow hshort hclean
        exact ⟨t, hdone (h.acts (exec_rdmaReadRequest_request b r s []) ht) hnext, hhbm⟩
      · obtain ⟨t, ht, hnext, hrest⟩ := State.inOrder_read_waits (n := 0) hregion hkind hsome hpasses hwaits ecc
        exact ⟨t, hdone (h.acts (exec_rdmaReadRequest_request b r s ecc) ht) hnext, hrest⟩
    · have h := hin 0 (Nat.zero_le _)
      obtain ⟨t, ht, hnext, honly⟩ := h.read_empty hlen ecc
      exact ⟨t, hdone (h.acts (exec_rdmaReadRequest_request b r s ecc) ht) hnext, honly⟩
  · refine ⟨fun hdue => ?_, exec_readGatherTimeout_early hfind⟩
    obtain ⟨hqp, hcode, -⟩ := s.nak_ended q psn 0x63 0x9014 (by decide) (by decide)
    exact ⟨_, exec_readGatherTimeout_due hfind hdue, by rw [hqp], by rw [hqp], hcode⟩

end Sys2Proof.Machine
end
